-- ==== Sys2Proof/Word.lean ====
section
/-! DEFINITION. The word types of the model and the names of the package's units (R2). -/

namespace Sys2Proof

/-- One byte. -/
abbrev Byte := BitVec 8

/-- Bytes in ascending order of address or offset. -/
abbrev Bytes := List Byte

/-- A sparse table keyed by a plain number: pairs in strictly rising key order, no pair that holds the
value an absent key stands for. The operations are in `Machine/Ops.lean`. -/
abbrev Tab (α : Type) := List (Nat × α)

/-- Towers T0 to T11 (R2). -/
abbrev Tower := Fin 12

/-- Whose bundles: a tower's 36 transit bundles (R323), or with 12 the twelve trunk bundles between base dies (R347):
4l and 4l + 1 from base die l to l + 1, 4l + 2 and 4l + 3 the other way. -/
abbrev BundleSide := Fin 13

/-- Clusters K0 to K11 of one compute die (R2, R61). -/
abbrev Cluster := Fin 12

/-- Clock regions of a compute die: clusters 0 to 11, then the hub (R61). -/
abbrev Region := Fin 13

/-- Planes 0 to 7 (R215). -/
abbrev Plane := Fin 8

/-- Base dies B0 to B3 (R2). -/
abbrev BaseDie := Fin 4

/-- Flocks F0 to F15 (R2). -/
abbrev Flock := Fin 16

/-- Rack ports P0 to P7 (R2). -/
abbrev Port := Fin 8

/-- Partitions, numbered by their lowest tower (R128). -/
abbrev Partition := Fin 12

/-- DMA engines 0 to 15 of a hub (R172). -/
abbrev EngineNo := Fin 16

/-- Functions: 0 the PF, 1 to 12 the VFs, 13 the second port's function (R491). -/
abbrev Function := Fin 14

end Sys2Proof
end

