-- ==== Sys2Proof/Syntax.lean ====
section
/-! DEFINITION. The commands of the block: one constructor per row of the operations table, with the
operands the row's rules name. Words that the manual lays out by bits are carried as those bits. -/

namespace Sys2Proof

/-- The sender of a dictionary message (R520): one source IPv6 address and UDP port, or one MCTP endpoint. -/
inductive Requester where
  | udp (address : BitVec 128) (port : BitVec 16)
  | mctp (eid : BitVec 8)
  deriving DecidableEq, Repr

/-- Who sent a request, and the sequence it chose (R518). -/
structure Req where
  requester : Requester
  seq : BitVec 16
  deriving DecidableEq, Repr

/-- A unit of the package (R12, R24). -/
inductive PkgUnit where
  | base (n : BaseDie)
  | tower (n : Tower)
  | flock (n : Flock)
  | port (n : Port)
  | tw
  deriving DecidableEq, Repr


/-- One access to a scratchpad bank port (R72, R76): the owner code of the master, the byte offset within
the cluster, and what it does. -/
structure SpadAccess where
  owner : Fin 11
  offset : BitVec 24
  length : Nat
  /-- The bytes of a write and whether they carry the poison marker; `none` for a read. The router's local port (owner
  NET) writes what its route entries bring, and not these bytes. -/
  write : Option (Bytes × Bool)
  /-- For a write of NET, the phase and the compute cycle at which its line passes the router (R89). -/
  route : Option (Fin 16 × Nat) := none
  deriving DecidableEq, Repr

/-- An error the chunk code finds in a read (R82): the offset of the 8-byte chunk, and whether it has one
bad bit or two. -/
structure ChunkFault where
  offset : BitVec 24
  double : Bool
  deriving DecidableEq, Repr

/-- Elements of an array in a die's scratchpad (R71, R113 to R115): the address of element 0, that of block 0's scale, the
address of the metadata, and the first element meant. -/
structure ElemRange where
  data : BitVec 28
  scales : BitVec 28
  positions : BitVec 28
  first : Nat
  deriving DecidableEq, Repr

/-- One engine step of a matrix operation (R63, R108): the accumulator row, and where its activation vector and the
stored weights of output 0 begin, in elements past those of the operation. -/
structure MatrixStep where
  row : Fin 32
  acts : Nat
  weights : Nat
  deriving DecidableEq, Repr

/-- A write of one accumulator row through the core's write port (R104). -/
structure MatrixWrite where
  row : Fin 32
  format : Fin 16
  dest : BitVec 28
  deriving DecidableEq, Repr

/-- A matrix operation of task code (R120). Layout 0 dense, 1 the 2:4 layout, 2 the 1:4 layout (R115). The stored weights
of the 16 outputs stand `stride` elements apart. -/
structure MatrixOp where
  tower : Tower
  cluster : Cluster
  core : Fin 6
  engine : Fin 4
  weightFormat : Fin 16
  actFormat : Fin 16
  layout : Fin 3
  budget : Nat
  acts : ElemRange
  weights : ElemRange
  stride : Nat
  /-- Accumulator rows the task code starts from zero. -/
  clear : List (Fin 32)
  steps : List MatrixStep
  writes : List MatrixWrite
  deriving DecidableEq, Repr

/-- Rounding modes of R104: to nearest even, toward zero, stochastic. -/
inductive Rounding where
  | rne | rtz | sr
  deriving DecidableEq, Repr

/-- Where a vector core's instruction runs and writes, with its lane mask (R123). -/
structure VectorPlace where
  tower : Tower
  cluster : Cluster
  core : Fin 2
  dest : ElemRange
  mask : BitVec 64
  deriving DecidableEq, Repr

/-- The five functions of the transcendental unit (R65, R112). -/
inductive Transcendental where
  | exp2 | log2 | reciprocal | rsqrt | tanh
  deriving DecidableEq, Repr

/-- What only the task code of an image shows at admission (R67, R139): the capabilities its operations use
that are not offered, and the scheduled-access cases of R75 it breaks. -/
structure CodeReport where
  /-- Task, detail (1 not offered, 2 not met) and capability ID of the first fault of an operation, if any. -/
  capability : Option (BitVec 16 × Nat × Nat)
  /-- The first of cases 1 to 3 of R75 that its scheduled accesses break, if any, and the task whose access does. -/
  scratchpad : Option (Fin 3 × BitVec 16)
  /-- Routers of a tower that run an expert group (R148): group, tower and how many. -/
  routers : List (Nat × Nat × Nat)
  deriving DecidableEq, Repr


/-- An open packet (R236): its 16-byte header and its data. -/
structure OpenPacket where
  header : BitVec 128
  data : Bytes
  deriving DecidableEq, Repr

/-- A ring that follows temperature with a loop (R310): the modulator rings of egress waveguides and of transmit
fibers, λ00 to λ31 then the four spare positions; the steering rings; the output ring of a lamb of F12. -/
inductive Ring where
  | modulator (tower : Tower) (waveguide : Plane) (lane : Fin 36)
  | fiber (port : Port) (fiber : Fin 2) (lane : Fin 36)
  | steering (source : Tower) (plane : Plane) (dest : Tower) (group : Fin 8)
  | tickOutput (lamb : Fin 4)
  deriving DecidableEq, Repr

/-- How a request for a tap step arrives (R287): in a flit on a port or TW, over the mesh on the crossbar, with lane and step
as in R275. -/
inductive TapAsk where
  | flit (flit : Bytes)
  | mesh (lane step : BitVec 8)
  deriving DecidableEq, Repr

/-- What a receiving hub has compared in a duplicate frame (R304). -/
structure CompareCount where
  receiver : Tower
  compared : Nat
  mismatches : Nat
  deriving DecidableEq, Repr

/-- The tap of a laser or lamb at a frame boundary (R300): its power in µW, and whether it has been more than 25 GHz
off its grid position for 1 ms. -/
structure LaserTap where
  flock : Fin 16
  source : Fin 36
  power : Nat
  offGrid : Bool
  deriving DecidableEq, Repr

/-- What a package learns of its partner while they exchange pairing packets (R437, R438): its frame length code,
capability set, home role, serial number and package ID. -/
structure TwinFacts where
  lengthCode : BitVec 2
  capabilities : Bytes
  homeRole : Fin 3
  serial : Bytes
  packageId : Option (BitVec 12)
  deriving DecidableEq, Repr

/-- The path of an SPDM message (R477): DOE on the PF, MCTP, or MANAGEMENT of a rack port. -/
inductive SpdmPath where
  | doe | mctp | rack (port : Port)
  deriving DecidableEq, Repr

/-- Whether the algorithms a requester offers hold those of R478. -/
structure SpdmOffer where
  p384 : Bool
  sha384 : Bool
  sha512 : Bool
  secp384r1 : Bool
  aes256gcm : Bool
  deriving DecidableEq, Repr

/-- How a host port goes down (R492). -/
inductive HostLoss where
  | perst | hotReset | linkLoss
  deriving DecidableEq, Repr

/-- What a configuration request does: a read, or a write of a control that the manual names: AtomicOp Requester
Enable, Relaxed Ordering Enable, the enable of ID-Based Ordering (R503, R504), or the mask of an MSI-X vector
(R502). -/
inductive ConfigAccess where
  | read
  | atomicRequester (on : Bool)
  | relaxedOrdering (on : Bool)
  | idOrdering (on : Bool)
  | maskVector (vector : BitVec 8)
  deriving DecidableEq, Repr

/-- The registers of a queue set as host software has written them when it enables it (R498). -/
structure QueueSetup where
  gqBase : BitVec 64
  gqSize : BitVec 32
  queueStart : BitVec 32
  cqBase : BitVec 64
  cqSize : BitVec 32
  fqBase : BitVec 64
  shadowBase : BitVec 64
  vectors : BitVec 32
  deriving DecidableEq, Repr

/-- How a host read ends (R504). -/
inductive HostEnd where
  | data (bytes : Bytes)
  | poisoned (bytes : Bytes)
  | unsupported
  | aborted
  deriving DecidableEq, Repr

/-- A command: an operation of a host, a manager or a peer, an arrival on a link, or the expiry or sample of
a mechanism of the device. -/
inductive Instr where
  /-- FRAME_BOUNDARY (R33). The Rooster opens a frame every L base cycles, and every per-tick action of the device runs at that boundary. -/
  | frameBoundary (taps : List LaserTap)
  /-- TICK_WORD_RECEIVED (R40). A tick receiver takes a 128-bit tick word, checks it against its flywheel prediction, and counts toward lock. -/
  | tickWordReceived (tower : Tower) (word : BitVec 128)
  /-- TICK_MISSED (R40). A locked receiver finds a tick word missing or failing its check, keeps its prediction and raises event 0x3002. -/
  | tickMissed (tower : Tower)
  /-- FRAME_LENGTH_WRITE (R36). A write to 0x3000:01 is accepted only with no graph loaded, and is answered when the new length is in force. -/
  | frameLengthWrite (req : Req) (value : Bytes)
  /-- DROOP_STRETCH (R397). A droop detector reads VCORE below V(code) minus the threshold and stretches the region's next period, adding debt. -/
  | droopStretch (tower : Tower) (region : Region) (droop : BitVec 8) (senders receivers : List Cluster)
  /-- CROSSING_FAULT (R396). A crossing overflows or underflows, its lines are poisoned, and it is realigned at the next tick. -/
  | crossingFault (tower : Tower) (cluster : Cluster) (port cycle lines : Nat)
  /-- SCRATCHPAD_READ (R82). A scratchpad access is served under bank-port arbitration and checked by the chunk code. -/
  | scratchpadRead (tower : Tower) (cluster : Cluster) (bank : Fin 56) (portA portB : List SpadAccess) (faults : List ChunkFault)
  /-- SPAD_ADDRESS_FAULT (R85). A core addresses an unpopulated scratchpad address, and its task ends with a fault. -/
  | spadAddressFault (tower : Tower) (cluster : Cluster) (address : BitVec 28)
  /-- ROUTE_PARITY_FAIL (R94). A route entry fails parity, the router sends poisoned lines for the entry's length, and the task is faulted. -/
  | routeParityFail (tower : Tower) (cluster : Cluster) (entry : Fin 2048)
  /-- CLUSTER_CLEAR_DONE (R83). The zeroing of the scratchpad ends and masters gain access. -/
  | clusterClearDone (tower : Tower) (cluster : Cluster)
  /-- CLEAR_RETIRED_BANKS (R84). Command 0x3420:03 clears the bank retirements of the named towers, accepted only in Foal mode or while stopped. -/
  | clearRetiredBanks (req : Req) (value : Bytes)
  /-- MATRIX_OPERATION (R120). A matrix operation of task code runs its steps, skipping zero skip units within its step budget. -/
  | matrixOperation (op : MatrixOp)
  /-- MX_CONVERT (R101). A vector instruction converts FP32 or BF16 blocks into an MX type with a computed block scale. -/
  | mxConvert (place : VectorPlace) (src : ElemRange) (count : Nat) (source : Fin 2) (target : Fin 16) (mode : Rounding)
  /-- VECTOR_CONVERT (R104). A vector instruction converts between formats under RNE, RTZ or stochastic rounding. -/
  | vectorConvert (place : VectorPlace) (src : ElemRange) (count : Nat) (int32 : Bool) (source target : Fin 16) (mode : Rounding) (toInfinity : Bool)
  /-- SPARSE_CONVERT (R118). A vector instruction prunes a dense row into 2:4 layout with metadata. -/
  | sparseConvert (place : VectorPlace) (src : ElemRange) (count : Nat) (source : Fin 2) (target : Fin 16) (mode : Rounding)
  /-- VECTOR_FMA (R110). A vector core performs FP32 or BF16 fused multiply-adds with one rounding. -/
  | vectorFma (place : VectorPlace) (a b c : ElemRange) (count : Nat) (format : Fin 2) (mode : Rounding)
  /-- TRANSCENDENTAL (R112). A vector core's transcendental unit returns exp2, log2, reciprocal, rsqrt or tanh results. -/
  | transcendental (place : VectorPlace) (src : ElemRange) (count : Nat) (function : Transcendental) (format : Fin 2)
  /-- PARTITION_MAP_WRITE (R128). A write to 0x3400:02 reassigns towers to partitions, subject to loaded graphs, live runs, worlds and cleanliness. -/
  | partitionMapWrite (req : Req) (value : Bytes)
  /-- LOAD (R137). A LOAD command fetches a graph image for admission. -/
  | load (partition : Partition) (address : BitVec 64) (length : BitVec 32)
  /-- LOAD_ADMISSION (R139). The image has fully arrived, and the device runs the admission checks in class order within 200 µs. -/
  | loadAdmission (partition : Partition) (image : Bytes) (code : CodeReport)
  /-- UNLOAD (R137). An UNLOAD command removes a loaded graph that has no live run. -/
  | unload (partition : Partition) (handle : BitVec 16)
  /-- RUN (R137, R152). A RUN command is checked; its binding table, if it has one, is read from host memory. -/
  | run (partition : Partition) (entry : BitVec 512)
  /-- PREEMPT (R153). A PREEMPT command requests that the named run be saved and parked with hold. -/
  | preempt (partition : Partition) (runId : BitVec 32)
  /-- RESUME (R152). A RESUME command clears the hold of a parked run. -/
  | resume (partition : Partition) (runId : BitVec 32)
  /-- ABORT (R152). An ABORT command releases a live run at the next tick. -/
  | abort (partition : Partition) (runId : BitVec 32)
  /-- UNKNOWN_COMMAND (R137). A graph-queue entry with an unknown command code, handle or run ID is completed REFUSED. -/
  | unknownCommand (partition : Partition) (entry : BitVec 512)
  /-- REMOTE_EDGE_ARRIVAL (R142). An out-edge from another die arrives through the coordinator and decrements the destination's dependence counter. -/
  | remoteEdgeArrival (partition : Partition) (runId : BitVec 32) (task : BitVec 16) (edge : Nat)
  /-- TASK_START (R144). A resolved task starts at the first occurrence of its first phase entry when its clusters are free. -/
  | taskStart (partition : Partition) (task : BitVec 16)
  /-- TASK_END (R145). All S0s of a task have ended and its descriptors have completed, so its out-edges are delivered. -/
  | taskEnd (partition : Partition) (task : BitVec 16) (predicate : BitVec 16)
  /-- ROUTER_TOKEN (R150). The top-k router takes a token, selects k experts and dispatches, defers or drops each pair against the quota. -/
  | routerToken (tower : Tower) (cluster : Cluster) (group : Fin 16) (token : BitVec 24) (scores : List Nat)
  /-- SAVE_COMPLETE (R156). A context save completes, the run parks, the next run starts, and held fault records are written. -/
  | saveComplete (partition : Partition)
  /-- RESTORE_COMPLETE (R156). A restore completes and the run resumes at its saved frame index, applying stored fault responses. -/
  | restoreComplete (partition : Partition)
  /-- DMA_RETRY_BACKOFF (R158). A line answered RETRY is issued again after a backoff of 1 µs, doubling up to 16 µs. -/
  | dmaRetryBackoff (tower : Tower) (engine : EngineNo)
  /-- TRANSLATION_ROOT_WRITE (R171). A write to a partition's translation root is accepted only with no active run and from the owner, and it invalidates the partition. -/
  | translationRootWrite (req : Req) (partition : Partition) (value : Bytes)
  /-- TRANSLATION_INVALIDATE (R170). A write to 0x3880:10 starts the invalidation of the named translations on every tower of the partition. -/
  | translationInvalidate (req : Req) (value : Bytes)
  /-- INVALIDATE_DONE (R170). The invalidation has drained caches, restarted walks and completed affected lines, so the write is answered. -/
  | invalidateDone (partition : Partition)
  /-- TABLE_WALK (R166). A four-level walk completes and the access is checked against the leaf and the region table. -/
  | tableWalk (tower : Tower) (engine : EngineNo)
  /-- COPY (R174). A COPY descriptor moves rows from source to destination. -/
  | copy (tower : Tower) (engine : EngineNo) (descriptor : BitVec 512)
  /-- FILL (R174). A FILL descriptor writes zero rows, clearing poison. -/
  | fill (tower : Tower) (engine : EngineNo) (descriptor : BitVec 512)
  /-- GATHER (R174). A GATHER descriptor reads the rows named by an index list into dense rows. -/
  | gather (tower : Tower) (engine : EngineNo) (descriptor : BitVec 512)
  /-- SCATTER (R174). A SCATTER descriptor writes dense rows to the places named by an index list. -/
  | scatter (tower : Tower) (engine : EngineNo) (descriptor : BitVec 512)
  /-- ROW_MOVE (R196). A ROW_MOVE descriptor moves whole DRAM rows of the issuing tower into scratchpad in one array cycle each. -/
  | rowMove (tower : Tower) (engine : EngineNo) (descriptor : BitVec 512)
  /-- DMA_ATOMIC (R174). An ATOMIC descriptor applies an 8-byte atomic and writes the old value to the auxiliary address. -/
  | dmaAtomic (tower : Tower) (engine : EngineNo) (descriptor : BitVec 512)
  /-- DESCRIPTOR_REFUSED (R174). A descriptor with an unknown opcode or a field outside its encoding completes REFUSED and moves no data. -/
  | descriptorRefused (tower : Tower) (engine : EngineNo) (descriptor : BitVec 512)
  /-- DESCRIPTOR_DONE (R175). A descriptor's last line is acknowledged and the descriptor completes with its code. -/
  | descriptorDone (tower : Tower) (engine : EngineNo)
  /-- FAULT_RESPONSE_RETRY (R186). A RETRY response word makes every attached descriptor translate again and resume at its cursor. -/
  | faultResponseRetry (partition : Partition) (word : BitVec 32)
  /-- FAULT_RESPONSE_FAIL (R186). A FAIL response word completes every attached descriptor XLATE_FAULT and faults their tasks. -/
  | faultResponseFail (partition : Partition) (word : BitVec 32)
  /-- FAULT_RESPONSE_UNKNOWN (R186). A response naming no awaited tag or breaking the layout is ignored, counted, and raises event 0x3884. -/
  | faultResponseUnknown (partition : Partition) (word : BitVec 32)
  /-- FAULT_TIMEOUT (R187). An unanswered record reaches the timeout of 0x3880:11 in RUNNING frames and is treated as FAIL. -/
  | faultTimeout (partition : Partition) (tag : BitVec 16)
  /-- RC_INVALIDATION (R179). A sharer receives an invalidation for a 4 KiB block, drops its cached lines and acknowledges. -/
  | rcInvalidation (tower : Tower) (home : Tower) (block : BitVec 48)
  /-- RC_INVALIDATION_ACK (R179). The home receives a sharer's acknowledgement and clears its bit, completing the write when all have acknowledged. -/
  | rcInvalidationAck (home : Tower) (sharer : Tower) (block : BitVec 48)
  /-- RC_SHARER_LOST (R179). A sharer misses the 4 µs acknowledgement deadline, so the home marks it lost and completes the write. -/
  | rcSharerLost (home : Tower) (sharer : Tower) (block : BitVec 48)
  /-- RC_FILL_RETURN (R180). A read-cache fill returns data and installs the line unless an invalidation arrived meanwhile. -/
  | rcFillReturn (tower : Tower) (line : BitVec 48)
  /-- DRAM_READ (R202). A line read is decoded under the Reed-Solomon code and returned clean, corrected, uncorrectable or poisoned. -/
  | dramRead (tower : Tower) (address : BitVec 36) (upsets : List (Fin 72 × Byte))
  /-- DRAM_WRITE_BACK (R202). A scheduled corrective or poison write-back is issued as the bank's next access, unless a newer write dropped it. -/
  | dramWriteBack (tower : Tower) (channel bank : Fin 32)
  /-- DRAM_WRITE (R204). A line write, or a partial-line read-modify-write, is served in bank order. -/
  | dramWrite (tower : Tower) (address : BitVec 36) (data : Bytes) (poisoned : Bool)
  /-- REFRESH (R205). A refresh reaches its deadline at the band's interval and closes the banks of a pseudo-channel for 120 ns. -/
  | refresh (tower : Tower) (channel : Fin 32)
  /-- DIODE_SAMPLE (R424). Every 20 µs the 44 diodes are sampled, driving brokenness, DRAM bands, throttling and correction updates. -/
  | diodeSample (readings : List Int)
  /-- DRAIN_COMPLETE (R208). In-flight requests of a draining stack complete and the stack enters self-refresh. -/
  | drainComplete (tower : Tower)
  /-- PATROL_READ (R210). The scrub engine reads the next line of its patrol and handles errors under R202. -/
  | patrolRead (tower : Tower) (upsets : List (Fin 72 × Byte))
  /-- HANDOVER_SCRUB (R211). Command 0x3800:06 starts zeroing the DRAM of unassigned towers. -/
  | handoverScrub (req : Req) (value : Bytes)
  /-- SCRUB_DONE (R211). A tower's handover scrub writes its last line, clearing its status bit and restarting patrol. -/
  | scrubDone (tower : Tower)
  /-- SLOT_BOUNDARY (R229). At each slot boundary a source sets steering, sends its request word and returns unused grants. -/
  | slotBoundary (tower : Tower) (slot : BitVec 8) (supply : List (Plane × Bytes)) (late : List Plane)
  /-- REQUEST_WORD (R228). A Sheepdog takes a source's request word, including its return flags. -/
  | requestWord (tower : Tower) (word : BitVec 64)
  /-- SHEEPDOG_DECISION (R232). At 4 ns into a slot the Sheepdog chooses a winner per plane and updates counts, pointers and backoffs. -/
  | sheepdogDecision (tower : Tower) (slot : BitVec 8)
  /-- GRANT_WORD (R230). A source takes a grant word, with its winners, aged and void flags, and restores backoff on a void. -/
  | grantWord (tower : Tower) (word : BitVec 64)
  /-- NO_PREAMBLE (R244). A Sheepdog finds no preamble by 9 ns and undoes the grant without a void flag. -/
  | noPreamble (tower : Tower) (plane : Plane)
  /-- SLOT_RECEIVED (R224). A receiving hub takes a slot's header and data, and places flow, collective or expert bytes in order. -/
  | slotReceived (tower source : Tower) (plane : Plane) (slot : BitVec 8) (errors : List (Nat × Bytes))
  /-- OPEN_WRITE (R236). An open WRITE packet is delivered to its target and answered with a COMPLETION. -/
  | openWrite (tower : Tower) (packet : OpenPacket)
  /-- OPEN_READ (R236). An open READ packet is served and answered with READ_DATA. -/
  | openRead (tower : Tower) (packet : OpenPacket)
  /-- OPEN_ATOMIC (R236). An open ATOMIC packet is applied and answered with ATOMIC_DATA. -/
  | openAtomic (tower : Tower) (packet : OpenPacket)
  /-- OPEN_READ_DATA (R236). An open READ_DATA response reaches its requester. -/
  | openReadData (tower : Tower) (packet : OpenPacket)
  /-- OPEN_COMPLETION (R236). An open COMPLETION response reaches its requester. -/
  | openCompletion (tower : Tower) (packet : OpenPacket)
  /-- OPEN_ATOMIC_DATA (R236). An open ATOMIC_DATA response returns the old value to its requester. -/
  | openAtomicData (tower : Tower) (packet : OpenPacket)
  /-- MESH_LINK_FAIL (R242). A bridle-mesh link fails. -/
  | meshLinkFail (link : Fin 18)
  /-- ARM_RECORD (R256). S0 issues a light-sum arm record to the hub, which is accepted or refused. -/
  | armRecord (tower : Tower) (cluster : Cluster) (record : BitVec 256)
  /-- LIGHT_SUM_EVALUATE (R258). At a light-summed plane-slot the receiver evaluates all markers and writes, poisons or discards the sums. -/
  | lightSumEvaluate (tower : Tower) (plane : Plane) (slot : BitVec 8) (markers : List (BitVec 32)) (noise : List Int)
  /-- SUM_NOTICE (R260). A member receives a sum notice word naming it and replays in the RESERVE plane-slot. -/
  | sumNotice (tower : Tower) (word : BitVec 64)
  /-- MESH_MEMBER_CONTRIBUTION (R264). The marker and codes of a member whose path is out of service arrive over the bridle mesh. -/
  | meshMemberContribution (tower member : Tower) (collective : BitVec 12) (plane : Plane) (slot : BitVec 8)
  /-- LINK_TRAINING (R277). A port or TW side begins blind training on every active lane. -/
  | linkTraining (link : Fin 9) (failedLanes : List Nat) (skews : List Int)
  /-- TRAINING_TIMEOUT (R277). A side has no lock 100 µs after training began and trains again. -/
  | trainingTimeout (link : Fin 9)
  /-- LINK_LOCK (R276). A receiver declares block lock after 64 valid headers. -/
  | linkLock (link : BitVec 16) (headers : List (BitVec 2))
  /-- LINK_LOCK_LOST (R276). A receiver finds 16 of 64 headers invalid and declares loss of lock. -/
  | linkLockLost (link : BitVec 16) (headers : List (BitVec 2))
  /-- DATA_FLIT (R280). A DATA flit is received, CRC and tag checked, reordered by sequence and delivered in order. -/
  | dataFlit (link : Fin 9) (flit : Bytes) (opened : Option Bytes)
  /-- NULL_FLIT (R275). A NULL flit carries Ack and Nak on an idle port or TW. -/
  | nullFlit (link : BitVec 16) (flit : Bytes)
  /-- LINK_INFO (R277). A LINK_INFO control flit gives the expected sequence and requested width, starting DATA or narrowing. -/
  | linkInfo (link : Fin 9) (flit : Bytes)
  /-- TAP_REQUEST (R287). A TAP_REQUEST asks the transmitter for one equalisation step, applied at its next frame boundary. -/
  | tapRequest (link : BitVec 16) (ask : TapAsk)
  /-- NARROW_NOW (R293). A NARROW_NOW flit marks the last full-width flit, and the receiver switches to the named half. -/
  | narrowNow (link : Fin 9) (flit : Bytes)
  /-- LOOPBACK_REQ (R290). A LOOPBACK_REQ flit asks the partner to begin or end a far-end loop-back. -/
  | loopbackReq (link : Fin 9) (flit : Bytes)
  /-- ACK_WORD (R282). A crossbar source receives an acknowledgement word over the mesh and retransmits Nak'd flits. -/
  | ackWord (tower : Tower) (word : BitVec 64)
  /-- NAK_RETRANSMIT (R281). A Nak that persists for 1 µs causes a Nak'd flit to be retransmitted again. -/
  | nakRetransmit (link : Fin 9)
  /-- REPLAY_TIMER (R283). The oldest unacknowledged flit reaches its replay time and is retransmitted. -/
  | replayTimer (link : BitVec 16)
  /-- EYE_ESTIMATE (R288). Every 64 frames each lane's bit error estimate is updated, driving tap requests and failing-lane tests. -/
  | eyeEstimate (link : BitVec 16) (estimates spared : List Nat)
  /-- LOSS_OF_SIGNAL (R291). A lane loses signal and counts as failing. -/
  | lossOfSignal (link : BitVec 16) (lane : BitVec 6) (spared : Bool)
  /-- LOSS_OF_CLOCK_RECOVERY (R291). A lane loses clock recovery for 1 µs and counts as failing. -/
  | lossOfClockRecovery (link : BitVec 16) (lane : BitVec 6) (spared : Bool)
  /-- EYE_SCAN (R289). Command 0x4020:06 starts a 100 ms full eye scan of one link. -/
  | eyeScan (req : Req) (value : Bytes)
  /-- EYE_SCAN_DONE (R289). A full eye scan ends and writes 0x4020:07. -/
  | eyeScanDone (margins : List (List Nat))
  /-- LOOPBACK_END (R290). Loop-back code 0x0 ends the loop-back of a link. -/
  | loopbackEnd (req : Req) (value : Bytes)
  /-- LOOPBACK_NEAR_PARALLEL (R290). Loop-back code 0x1 starts a near-end parallel loop-back on a link out of service. -/
  | loopbackNearParallel (req : Req) (value : Bytes)
  /-- LOOPBACK_NEAR_SERIAL (R290). Loop-back code 0x2 starts a near-end serial loop-back through FA8 or at the lands;
  `light`: light returns on the receive fibers of FA8 (R22). -/
  | loopbackNearSerial (req : Req) (value : Bytes) (light : Bool)
  /-- LOOPBACK_FAR_END (R290). Loop-back code 0x3 asks the partner to return the block stream. -/
  | loopbackFarEnd (req : Req) (value : Bytes)
  /-- LINK_RETRAIN (R292). Link control code 0x0 retrains a link, restoring full width when every lane passes. -/
  | linkRetrain (req : Req) (value : Bytes)
  /-- LINK_TAKE_OUT_OF_SERVICE (R290). Link control code 0x1 takes a link out of service. -/
  | linkTakeOutOfService (req : Req) (value : Bytes)
  /-- LINK_RETURN_TO_SERVICE (R290). Link control code 0x2 returns a link to service. -/
  | linkReturnToService (req : Req) (value : Bytes)
  /-- SPARE_COMMAND (R301). Command 0x4400:05 starts sparing of a named laser, with or without the duplicate frame. -/
  | spareCommand (req : Req) (value : Bytes)
  /-- LAMB_LOCKED (R302). A lamb is tuned and locked to its spare position, and the duplicate or switch notices are sent. -/
  | lambLocked (flock : Fin 16) (lamb : Fin 4) (power : BitVec 16)
  /-- NOTICE_DUPLICATE (R303). A receiver takes a DUPLICATE notice naming the duplicate frame. -/
  | noticeDuplicate (tower : Tower) (word : BitVec 64)
  /-- NOTICE_SWITCH (R303). A receiver takes a SWITCH notice and takes the lane from the spare detector at the named boundary. -/
  | noticeSwitch (tower : Tower) (word : BitVec 64)
  /-- NOTICE_PARK (R303). A receiver takes a PARK notice for the named planes. -/
  | noticePark (tower : Tower) (word : BitVec 64)
  /-- NOTICE_RETURN (R303). A receiver takes a RETURN notice and takes the lane from its own wavelength again. -/
  | noticeReturn (tower : Tower) (word : BitVec 64)
  /-- NOTICE_ABANDON (R303). A receiver takes an ABANDON notice and does not switch. -/
  | noticeAbandon (tower : Tower) (word : BitVec 64)
  /-- COMPARE_COUNT_STOP (R304). 400 base cycles before B2 the receivers stop counting and send report words. -/
  | compareCountStop (flock : Fin 16) (lane : Fin 32) (counts : List CompareCount)
  /-- COMPARE_REPORT (R304). The source receives a receiver's report of symbols compared and mismatches. -/
  | compareReport (tower : Tower) (word : BitVec 64)
  /-- SPARE_DECISION (R304). 250 base cycles before B2 the source decides pass, fail or another duplicate frame. -/
  | spareDecision (flock : Fin 16) (lane : Fin 32)
  /-- DARK_MARKER (R305). A port receiver sees 64 level-0 symbols on the old carrier and takes the lane from the spare. -/
  | darkMarker (port : Port) (lane : BitVec 6) (spare : Fin 4) (compared mismatches : Nat)
  /-- RING_SAMPLE (R310). Every 1 µs each ring loop samples its drop monitor and moves its heater and fine tuning. -/
  | ringSample (ring : Ring) (error temperature : Int)
  /-- RECAL_PASS_START (R318). A recalibration pass starts on its period or on a 10 °C departure, parking lanes onto spares. -/
  | recalPassStart (flock : Fin 16) (lane : Fin 32) (byTemperature : Bool) (rref : BitVec 16) (entries : List (BitVec 64))
  /-- CAL_RECORD_WRITE (R317). A base die's calibration record is written to NVM over the older copy. -/
  | calRecordWrite (base : Fin 4) (written : Bool)
  /-- GROUP_RECEIVED (R327). A bundle group is received, CRC and parity checked, and delivered in sequence. -/
  | groupReceived (tower : BundleSide) (bundle : Fin 36) (group : Bytes)
  /-- GROUP_REPLAY_TIMER (R327). The oldest unacknowledged group has waited 200 ns and is replayed. -/
  | groupReplayTimer (tower : BundleSide) (bundle : Fin 36)
  /-- PROBE (R335). A die at the addressed place receives a discovery PROBE and answers REPLY. -/
  | probe (message : BitVec 128) (identity : BitVec 64)
  /-- REPLY (R336). The Mule receives a REPLY, compares it with the identity table, and sends ASSIGN on a match. -/
  | reply (message : BitVec 128)
  /-- ASSIGN (R336). A die receives ASSIGN, stores its record and answers ASSIGNED. -/
  | assign (message : BitVec 128)
  /-- ASSIGNED (R336). The Mule receives ASSIGNED and takes the die into service. -/
  | assigned (message : BitVec 128)
  /-- DISCOVERY_TIMEOUT (R336). No REPLY arrives within 50 µs of a PROBE, so the probe is repeated up to three times. -/
  | discoveryTimeout (record : Fin 128)
  /-- BASE_RESET_COMMAND (R339). A write to 0x4800:04 starts draining a base die before its reset. -/
  | baseResetCommand (req : Req) (value : Bytes)
  /-- DRAIN_DONE (R339). Every request through the base die has completed, and the reset is asserted. -/
  | drainDone (base : Fin 4)
  /-- DRAIN_TIMEOUT (R339). The drain limit passes and the reset proceeds, resolving outstanding requests as uncommanded. -/
  | drainTimeout (base : Fin 4)
  /-- UNCOMMANDED_BASE_RESET (R340). A base die resets on its watchdog, undervoltage or a fatal error, and every request through it is resolved. -/
  | uncommandedBaseReset (base : Fin 4) (cause : Fin 3)
  /-- BASE_RETURN (R341). A base die returns to service, reissuing withdrawn reads and resending remote edges. -/
  | baseReturn (base : Fin 4)
  /-- READ_RETRY_LIMIT (R340). The read retry limit passes after a reset, so withdrawn or waiting reads complete PATH_RESET. -/
  | readRetryLimit (base : Fin 4)
  /-- PACKAGE_ID_WRITE (R346). A write to 0x5000:01 sets the package ID, refused while any binding is valid. -/
  | packageIdWrite (req : Req) (value : Bytes)
  /-- ROUTE_TABLE_WRITE (R351). A write to the route table changes routes, holding traffic of changed destinations for the settle time. -/
  | routeTableWrite (req : Req) (value : Bytes)
  /-- ROUTE_SETTLE (R351). The settle time ends and held packets go out on the new port. -/
  | routeSettle (destination : BitVec 12)
  /-- JOB_BINDING_WRITE (R353). A write to a job binding binds or clears a partition's job, accepted only with no live run. -/
  | jobBindingWrite (req : Req) (partition : Partition) (value : Bytes)
  /-- JOB_TEARDOWN (R378). A write of a job ID to 0x5040:10 freezes the binding, applies combiner entries and stops the job's requests. -/
  | jobTeardown (req : Req) (value : Bytes)
  /-- FABRIC_READ (R354). A fabric READ arrives at a port switch and is forwarded, or checked, combined and served locally. -/
  | fabricRead (port : Port) (header : BitVec 256) (data : Bytes)
  /-- FABRIC_WRITE (R354). A fabric WRITE arrives and is forwarded, or checked, combined and applied. -/
  | fabricWrite (port : Port) (header : BitVec 256) (data : Bytes)
  /-- FABRIC_ATOMIC (R372). A fabric ATOMIC arrives and is decided against the reply cache, its age and combining. -/
  | fabricAtomic (port : Port) (header : BitVec 256) (data : Bytes)
  /-- FABRIC_READ_DATA (R355). A READ_DATA response reaches its requester and completes the line. -/
  | fabricReadData (port : Port) (header : BitVec 256) (data : Bytes)
  /-- FABRIC_COMPLETION (R360). A COMPLETION response reaches its requester, and congestion echoes adjust its rate limiter. -/
  | fabricCompletion (port : Port) (header : BitVec 256) (data : Bytes)
  /-- FABRIC_ATOMIC_DATA (R368). An ATOMIC_DATA response returns the old value to the requester. -/
  | fabricAtomicData (port : Port) (header : BitVec 256) (data : Bytes)
  /-- CREDIT (R358). A CREDIT packet returns buffer credits to the sender. -/
  | credit (port : Port) (header : BitVec 256)
  /-- CREDIT_TIMER (R358). Credits have not been carried for 100 ns, so they are returned in a CREDIT packet. -/
  | creditTimer (port : Port)
  /-- HELLO (R357). A MANAGEMENT HELLO is received and recorded in 0x5000:07. -/
  | hello (port : Port) (header : BitVec 256) (data : Bytes)
  /-- HELLO_TIMER (R357). Every 1 ms each port sends HELLO. -/
  | helloTimer (port : Port)
  /-- KEY_SWITCH (R381). A key switch message names the flit count at which a port's new key takes effect. -/
  | keySwitch (port : Port) (count : BitVec 64)
  /-- KEY_COUNT_EXPIRY (R381). 2^36 DATA flits have been sent under one key, so the key is replaced. -/
  | keyCountExpiry (port : Port)
  /-- COMBINE_WINDOW_EXPIRY (R364). An open combiner entry reaches its window W and closes. -/
  | combineWindowExpiry (port : Port)
  /-- ENTRY_APPLIED (R365). A closed combiner entry or lone request is applied once, and a response is sent per member. -/
  | entryApplied
  /-- REPLY_CACHE_EXPIRY (R371). A reply-cache entry reaches its retention and is freed. -/
  | replyCacheExpiry (source : BitVec 12) (sequence : BitVec 16)
  /-- RESPONSE_TIMER (R373). A fabric response timer expires, so the request is reissued or completes TARGET_DEAD on the fourth expiry. -/
  | responseTimer (tower : Tower) (engine : EngineNo) (tag : BitVec 16)
  /-- FABRIC_RETRY_BACKOFF (R373). After a RETRY response the request is reissued after a doubling backoff. -/
  | fabricRetryBackoff (tower : Tower) (engine : EngineNo) (tag : BitVec 16)
  /-- ATOMIC_SEQUENCE_HOLD_END (R369). 512 µs since the first send of the previous atomic with the same sequence ends, and a waiting atomic may be sent. -/
  | atomicSequenceHoldEnd (target : BitVec 12)
  /-- ATOMIC_FAULT_HOLD_END (R596). 240 µs after a faulted atomic's first send, its tag and sequence are released. -/
  | atomicFaultHoldEnd (tower : Tower) (engine : EngineNo) (tag : BitVec 16)
  /-- RATE_LIMITER_TIMER (R362). After each 10 µs with no echo, a limiter's rate rises by Q_max/32. -/
  | rateLimiterTimer (tower : Tower) (target : BitVec 12)
  /-- REFERENCE_LOSS (R388). A hub loses its base reference, its loop holds over, and its tower enters tick loss. -/
  | referenceLoss (tower : Tower)
  /-- REFERENCE_RETURN (R388). The base reference returns and the loop relocks, realigning at the next tick. -/
  | referenceReturn (tower : Tower)
  /-- REFERENCE_HOLDOVER_EXPIRY (R388). The base reference has been absent for 100 ms, so the die stops its regions and the tower goes out of service. -/
  | referenceHoldoverExpiry (tower : Tower)
  /-- REQUESTED_CLOCK_WRITE (R401). A write to 0x2800:01 sets the requested clock, which takes effect through an announced step. -/
  | requestedClockWrite (req : Req) (value : Bytes)
  /-- VCORE_RAMP_DONE (R402). A VCORE ramp at 25 mV/µs ends. -/
  | vcoreRampDone
  /-- PLL_LOCKED (R402). A die's standby loop locks to the announced clock. -/
  | pllLocked (tower : Tower)
  /-- PLL_LOCK_FAIL (R403). A standby loop is not locked 500 ns before the switching tick, so the die keeps or halves its clock. -/
  | pllLockFail (tower : Tower)
  /-- REPLICA_WARN (R406). A replica slack reading falls below the warning margin. -/
  | replicaWarn (tower : Tower) (region : Region) (reading : BitVec 6)
  /-- REPLICA_CRITICAL (R406). Readings below the critical margin for 16 periods start stretching and lower the replica limit one code. -/
  | replicaCritical (tower : Tower) (region : Region) (reading : BitVec 6)
  /-- REPLICA_RELEASE (R406). After 10 s with no critical reading, the replica limit rises one code. -/
  | replicaRelease
  /-- INPUT_FAILED (R411). An input leaves its limits for the detection time, and the load switches to the qualifying input. -/
  | inputFailed (backup : Bool) (millivolts : Nat)
  /-- INPUT_IN_RANGE (R410). An input returns into range. -/
  | inputInRange (backup : Bool) (millivolts : Nat)
  /-- VIN_A_STABLE (R411). VIN_A has been in range for 1 s, so the load returns to it make-before-break. -/
  | vinAStable
  /-- POWER_LOSS (R413). No input has qualified for 10 µs, so power loss is declared and the stop sequence runs. -/
  | powerLoss
  /-- CAP_WINDOW (R415). At the end of each 2 µs window each rail's current is compared with its cap, and stretching or idling is commanded. -/
  | capWindow (currents : List Nat) (inputPower vinA vinB : Nat)
  /-- CAP_LIMIT_RISE (R417). After 100 ms with no rail over cap, the cap limit rises one code. -/
  | capLimitRise
  /-- PHASE_END (R420). A phase ends on a tower and the cap learner updates its entry for the phase class. -/
  | phaseEnd (tower : Tower)
  /-- PROFILE_WRITE_TIMER (R421). Every 600 s the learned cap profile is written to NVM. -/
  | profileWriteTimer
  /-- CAP_PROFILE_WRITE (R421). Command 0x1 of 0x2000:08 writes the cap profile now. -/
  | capProfileWrite (req : Req) (value : Bytes)
  /-- CAP_PROFILE_CLEAR (R421). Command 0x2 of 0x2000:08 clears every learned bit and invalidates the stored profile. -/
  | capProfileClear (req : Req) (value : Bytes)
  /-- THERMAL_LIMIT_STEP (R428). At the end of each 1 ms in ENFORCING with a reading at the threshold, the thermal limit falls two codes. -/
  | thermalLimitStep
  /-- THERMAL_LIMIT_RISE (R429). After 100 ms of readings 5 °C below the threshold, the thermal limit rises one code. -/
  | thermalLimitRise
  /-- OX_SAMPLE (R430). Ox samples every sound diode every 20 µs. -/
  | oxSample (readings : List Int) (unsound : List (Fin 44))
  /-- OX_RELEASE (R432). Every sound diode has read below 85 °C for 10 s, so Ox releases the inputs. -/
  | oxRelease
  /-- TWIN_MODE_WRITE (R438). A write to 0x5800:01 enters PAIRING or leaves twin mode. -/
  | twinModeWrite (req : Req) (value : Bytes)
  /-- LEASE_RENEW_TIMER (R441). Every 500 µs the active sends LEASE on TW and a renew pulse on TWIN_LEASE. -/
  | leaseRenewTimer
  /-- LEASE (R441). The standby receives a LEASE, renewing the lease on TW and re-measuring the frame relation. -/
  | lease (packet : Bytes) (oneWay : Nat) (facts : TwinFacts)
  /-- LEASE_ACK_TIMER (R441). 100 µs after a renewal the standby sends LEASE_ACK and the acknowledge pulse. -/
  | leaseAckTimer (wire : Bool)
  /-- LEASE_ACK (R447). The active receives LEASE_ACK carrying the standby's last committed frame. -/
  | leaseAck (packet : Bytes) (oneWay : Nat) (facts : TwinFacts)
  /-- RENEW_PULSE (R442). The standby classifies a 1 to 3 µs low pulse on TWIN_LEASE as a renewal. -/
  | renewPulse (width : Nat)
  /-- ACKNOWLEDGE_PULSE (R442). The active classifies a 5 to 8 µs low pulse as an acknowledgement. -/
  | acknowledgePulse (width : Nat)
  /-- CLAIM_PULSE (R444). A package classifies a 16 to 24 µs low pulse as a claim and may fence. -/
  | claimPulse (width : Nat)
  /-- WIRE_STUCK (R443). TWIN_LEASE stays low for over 50 µs, so the wire is faulty and automatic takeover is disabled. -/
  | wireStuck
  /-- LEASE_PATH_EXPIRY (R443). 2 ms pass without a valid renewal on one lease path. -/
  | leasePathExpiry (wire : Bool)
  /-- PAIRING_TIMEOUT (R438). A PAIRING package with no twin packet or renew pulse for 2 s becomes ACTIVE alone. -/
  | pairingTimeout
  /-- FENCE_TIMEOUT (R444). An active with no twin packet and no read-back of its renew pulses for 1.5 ms enters FENCED. -/
  | fenceTimeout
  /-- CLAIM (R444). A CLAIM packet from a newer epoch, or from an equal epoch against a secondary, fences the active. -/
  | claim (packet : Bytes)
  /-- HEALTH (R453). The active receives the standby's HEALTH report. -/
  | health (packet : Bytes)
  /-- HEALTH_TIMEOUT (R453). No health report has arrived for 300 ms, raising event 0x5807. -/
  | healthTimeout
  /-- QUEUE (R449). The standby receives a mirrored graph-queue command. -/
  | queue (packet : Bytes)
  /-- IMAGE (R449). The standby receives a segment of a mirrored graph image. -/
  | image (packet : Bytes)
  /-- BLOCK (R449). The standby receives a mirrored 4 KiB block and writes it through its own translation. -/
  | block (packet : Bytes)
  /-- TWIN_COMMIT (R449). The standby receives COMMIT for frame F, checks the counts, applies LOADs and UNLOADs, and sets L. -/
  | twinCommit (packet : Bytes) (codes : List CodeReport)
  /-- SELF_TEST_ROUND (R452). A standby completes a 100 ms self-test round and sends HEALTH. -/
  | selfTestRound (failures : BitVec 7) (unfit : Bool)
  /-- HANDOVER_PROPOSE (R457). The active receives a take-back proposal from a primary standby in step. -/
  | handoverPropose (packet : Bytes)
  /-- HANDOVER_AGREE (R457). The standby receives AGREE naming the handover frame H. -/
  | handoverAgree (packet : Bytes)
  /-- HANDOVER_ABANDON (R458). The standby receives ABANDON and the handover is called off. -/
  | handoverAbandon (packet : Bytes)
  /-- HANDOVER_ACK_TIMEOUT (R458). No acknowledgement has arrived 1 ms after H, so the active sends ABANDON and serves again. -/
  | handoverAckTimeout
  /-- PLANNED_HANDOVER (R457). Command 0x1 of 0x5800:09 on the active starts a planned handover. -/
  | plannedHandover (req : Req) (value : Bytes)
  /-- FORCED_TAKEOVER (R459). Command 0x2 of 0x5800:09 makes a standby or pairing package claim at once. -/
  | forcedTakeover (req : Req) (value : Bytes)
  /-- UNPAIR (R459). Command 0x3 of 0x5800:09 ends the pairing. -/
  | unpair (req : Req) (value : Bytes)
  /-- DESIGNATED_REGIONS_WRITE (R448). A write to 0x5800:04 changes the designated regions, and a new region is copied as in RESYNC. -/
  | designatedRegionsWrite (req : Req) (value : Bytes)
  /-- WORLD_MAP_WRITE (R463). A write to the world map is checked for partition consistency and takes effect at the next boundary. -/
  | worldMapWrite (req : Req) (value : Bytes)
  /-- REGION_TABLE_WRITE (R468). A write to a tower's region table is checked and takes effect at its next frame boundary. -/
  | regionTableWrite (req : Req) (tower : Tower) (value : Bytes)
  /-- IMAGE_STAGING (R475). Writes to 0x6000:04 place a firmware image in B0 SRAM. -/
  | imageStaging (req : Req) (value : Bytes)
  /-- VERIFY (R475). Update command 0x1 checks the staged image as at boot. -/
  | verify (req : Req) (value : Bytes)
  /-- IMAGE_VERIFY_DONE (R475). The verification of the staged image ends within 50 ms. -/
  | imageVerifyDone
  /-- ACTIVATE (R476). Update command 0x2 arranges for the verified image to take over at the next tick. -/
  | activate (req : Req) (value : Bytes)
  /-- ACTIVATION_DONE (R475). The 500 µs activation ends, and waiting commands and requests are served. -/
  | activationDone
  /-- IMAGE_COMMIT (R475). Update command 0x3 writes the running image to NVM. -/
  | imageCommit (req : Req) (value : Bytes)
  /-- IMAGE_COMMIT_DONE (R476). The NVM write of the image ends, updating measurement 6. -/
  | imageCommitDone (ok : Bool)
  /-- IMAGE_COMMIT_RETRY (R476). 1 s after a failed commit, the device writes the image again. -/
  | imageCommitRetry
  /-- ADVANCE_SVN (R473). Update command 0x4 blows SVN fuses up to the running image's SVN. -/
  | advanceSvn (req : Req) (value : Bytes)
  /-- GET_VERSION (R478). An SPDM GET_VERSION request is answered. -/
  | getVersion (path : SpdmPath) (request : Bytes)
  /-- GET_CAPABILITIES (R478). An SPDM GET_CAPABILITIES request is answered. -/
  | getCapabilities (path : SpdmPath) (request : Bytes)
  /-- NEGOTIATE_ALGORITHMS (R478). An SPDM NEGOTIATE_ALGORITHMS request selects the supported algorithms. -/
  | negotiateAlgorithms (path : SpdmPath) (request : Bytes) (offer : SpdmOffer)
  /-- GET_DIGESTS (R478). An SPDM GET_DIGESTS request returns certificate chain digests. -/
  | getDigests (path : SpdmPath) (request : Bytes)
  /-- GET_CERTIFICATE (R477). An SPDM GET_CERTIFICATE request returns the identity certificate chain. -/
  | getCertificate (path : SpdmPath) (request : Bytes) (slot : Fin 8) (offset length : BitVec 16)
  /-- CHALLENGE (R478). An SPDM CHALLENGE is answered, signed with the device identity key. -/
  | challenge (path : SpdmPath) (request : Bytes) (slot : Fin 8)
  /-- GET_MEASUREMENTS (R479). An SPDM GET_MEASUREMENTS request returns the signed measurements in force. -/
  | getMeasurements (path : SpdmPath) (request : Bytes) (index : BitVec 8) (signature : Bool)
  /-- KEY_EXCHANGE (R478). An SPDM KEY_EXCHANGE starts a session over secp384r1. -/
  | keyExchange (path : SpdmPath) (request : Bytes) (asRequester : Bool)
  /-- FINISH (R478). An SPDM FINISH completes session establishment. -/
  | finish (path : SpdmPath) (request : Bytes) (session : BitVec 32) (trusted : Bool)
  /-- KEY_UPDATE (R478). An SPDM KEY_UPDATE updates the session keys. -/
  | keyUpdate (path : SpdmPath) (session : BitVec 32)
  /-- HEARTBEAT (R478). An SPDM HEARTBEAT keeps a session alive. -/
  | heartbeat (path : SpdmPath) (session : BitVec 32)
  /-- END_SESSION (R484). An SPDM END_SESSION ends a session, taking its encrypted port down. -/
  | endSession (path : SpdmPath) (session : BitVec 32)
  /-- IDE_KEY_INSTALL (R480). An IDE_KM message over a secured session installs IDE stream keys. -/
  | ideKeyInstall (session : BitVec 32) (stream : Option (Fin 16)) (keySet : Fin 2)
  /-- IDE_FAULT (R480). A TLP fails its IDE integrity check, is discarded, and its TDI goes to ERROR. -/
  | ideFault (function : Option Function)
  /-- GET_TDISP_VERSION (R481). A TDISP GET_TDISP_VERSION message is answered. -/
  | getTdispVersion (function : Function)
  /-- GET_TDISP_CAPABILITIES (R481). A TDISP GET_TDISP_CAPABILITIES message is answered. -/
  | getTdispCapabilities (function : Function)
  /-- LOCK_INTERFACE (R482). LOCK_INTERFACE moves a TDI to CONFIG_LOCKED and locks its configuration. -/
  | lockInterface (function : Function)
  /-- GET_DEVICE_INTERFACE_REPORT (R481). GET_DEVICE_INTERFACE_REPORT returns the tower mask, memory ranges and measurement 4. -/
  | getDeviceInterfaceReport (function : Function)
  /-- GET_DEVICE_INTERFACE_STATE (R481). GET_DEVICE_INTERFACE_STATE returns the TDI state. -/
  | getDeviceInterfaceState (function : Function)
  /-- START_INTERFACE (R481). START_INTERFACE moves a locked TDI to RUN. -/
  | startInterface (function : Function)
  /-- STOP_INTERFACE (R483). STOP_INTERFACE moves a TDI to CONFIG_UNLOCKED. -/
  | stopInterface (function : Function)
  /-- TENANT_HANDOVER (R486). Command 0x6000:07 clears hub state, power-cycles clusters, resets region tables and starts the scrub. -/
  | tenantHandover (req : Req) (value : Bytes)
  /-- PORT_KEY_UPDATE (R484). Command 0x6000:0B starts a key update on an encrypted port. -/
  | portKeyUpdate (req : Req) (value : Bytes)
  /-- HOST_LINK_UP (R492). A host port trains, raising event 0x1181. -/
  | hostLinkUp (port : Fin 2) (rate : BitVec 4) (width : BitVec 5) (flit : Bool)
  /-- HOST_LINK_DOWN (R492). PERST_N, a hot reset or link loss resets every function of the port as an FLR. -/
  | hostLinkDown (port : Fin 2) (loss : HostLoss)
  /-- FUNCTION_LEVEL_RESET (R495). An FLR releases runs, unloads graphs, disables queue sets and moves the TDI to ERROR. -/
  | functionLevelReset (function : Function)
  /-- CONFIG_REQUEST (R541). A configuration request is answered with Request Retry Status until step 5 ends, and completed afterwards. -/
  | configRequest (function : Function) (access : ConfigAccess)
  /-- BAR2_READ (R497). A host read of a BAR2 window is translated, checked and completed. -/
  | bar2Read (function : Function) (offset : BitVec 44) (length : BitVec 13)
  /-- BAR2_WRITE (R497). A posted host write to a BAR2 window is translated, checked and performed or discarded. -/
  | bar2Write (function : Function) (offset : BitVec 44) (data : Bytes) (poisoned : Bool)
  /-- BAR2_ATOMICOP (R497). An AtomicOp to BAR2 is answered Unsupported Request. -/
  | bar2Atomicop (function : Function) (offset : BitVec 44)
  /-- PARTITION_OWNERS_WRITE (R493). A write to 0x1180:03 changes partition owners, subject to load, queue and world rules. -/
  | partitionOwnersWrite (req : Req) (value : Bytes)
  /-- GQ_TAIL (R499). A graph-queue doorbell write moves the tail, and entries are fetched in order or the queue halts. -/
  | gqTail (function : Function) (partition : Partition) (position : BitVec 32)
  /-- GRAPH_ENTRY_FETCH (R499). A fetched graph entry arrives from host memory and its command is performed in position order. -/
  | graphEntryFetch (partition : Partition) (entry : Option (BitVec 512))
  /-- CQ_HEAD (R500). A completion-queue doorbell frees ring room, releasing held records. -/
  | cqHead (function : Function) (partition : Partition) (position : BitVec 32)
  /-- FQ_HEAD (R501). A fault-queue doorbell marks fault records consumed. -/
  | fqHead (function : Function) (partition : Partition) (position : BitVec 32)
  /-- QUEUE_ENABLE (R498). Setting the enable bit sets queue positions, clears any halt and writes the shadow. -/
  | queueEnable (function : Function) (partition : Partition) (setup : QueueSetup)
  /-- QUEUE_DISABLE (R498). Clearing the enable bit disables the queue set, ignored while a run is live. -/
  | queueDisable (function : Function) (partition : Partition)
  /-- MSIX_MODERATION_TIMER (R500). The moderation time ends and a held completion or fault vector is sent. -/
  | msixModerationTimer (partition : Partition) (fault : Bool)
  /-- NOTIFY_STATUS_CLEAR (R505). A write-1-to-clear write to NOTIFY_STATUS clears notification bits. -/
  | notifyStatusClear (function : Function) (value mask : BitVec 32) (vector : BitVec 8)
  /-- HOST_READ_COMPLETION (R504). A host read completes with data, poisoned data or an error. -/
  | hostReadCompletion (tag : BitVec 14) (result : HostEnd)
  /-- HOST_COMPLETION_TIMEOUT (R504). A host read receives no completion within its timeout and fails. -/
  | hostCompletionTimeout (tag : BitVec 14)
  /-- SET_ENDPOINT_ID (R506). The MCTP Set Endpoint ID command assigns the EID. -/
  | setEndpointId (eid : BitVec 8)
  /-- GET_ENDPOINT_ID (R506). The MCTP Get Endpoint ID command returns the EID. -/
  | getEndpointId
  /-- GET_ENDPOINT_UUID (R506). The MCTP Get Endpoint UUID command returns 0x1000:06. -/
  | getEndpointUuid
  /-- GET_MCTP_VERSION_SUPPORT (R506). The MCTP Get MCTP Version Support command is answered. -/
  | getMctpVersionSupport (messageType : BitVec 8)
  /-- GET_MESSAGE_TYPE_SUPPORT (R506). The MCTP Get Message Type Support command lists the supported types. -/
  | getMessageTypeSupport
  /-- GET_VENDOR_DEFINED_MESSAGE_SUPPORT (R506). The MCTP Get Vendor Defined Message Support command is answered. -/
  | getVendorDefinedMessageSupport (selector : BitVec 8)
  /-- DICT_READ (R519). A dictionary READ returns a whole value of at most 1,024 bytes, after the checks of R527. -/
  | dictRead (req : Req) (key : BitVec 24)
  /-- DICT_WRITE (R522). A dictionary WRITE to a register with no row of its own is checked and answered when it has taken effect. -/
  | dictWrite (req : Req) (key : BitVec 24) (value : Bytes) (nvmOk : Bool)
  /-- SEG_READ (R528). A SEG_READ returns a range of a value from a snapshot taken at offset 0. -/
  | segRead (req : Req) (key : BitVec 24) (offset length : BitVec 32)
  /-- SEG_BEGIN (R529). A SEG_BEGIN opens a segmented write after value-independent checks. -/
  | segBegin (req : Req) (key : BitVec 24) (total : BitVec 32)
  /-- SEG_DATA (R529). A SEG_DATA message stores one segment of an open transfer. -/
  | segData (req : Req) (key : BitVec 24) (offset : BitVec 32) (data : Bytes)
  /-- SEG_END (R529). A SEG_END checks the CRC-32 and applies the value as one write. -/
  | segEnd (req : Req) (key : BitVec 24) (crc : BitVec 32) (nvmOk : Bool)
  /-- SEG_ABORT (R529). A SEG_ABORT ends an open transfer. -/
  | segAbort (req : Req) (key : BitVec 24)
  /-- MALFORMED_MESSAGE (R519). A message with an unknown opcode or version, or broken lengths, is answered MALFORMED. -/
  | malformedMessage (req : Req) (opcode : BitVec 8) (key : BitVec 24) (offset : BitVec 32)
  /-- SEG_TIMEOUT (R529). A segmented write idle for 10 s lapses, raising event 0x1103. -/
  | segTimeout (index : Nat)
  /-- SNAPSHOT_LAPSE (R528). A SEG_READ snapshot lapses 2 s after its last read. -/
  | snapshotLapse (index : Nat)
  /-- KEPT_REPLY_EXPIRY (R520). A kept reply expires after 2 s. -/
  | keptReplyExpiry
  /-- NOTICE_ANSWER (R532). A subscriber's answer with opcode 0x88 clears an unanswered notice. -/
  | noticeAnswer (subscriber : Fin 4) (seq : BitVec 16)
  /-- NOTICE_RESEND_TIMER (R532). An unanswered notice is resent every 100 ms, up to 10 times. -/
  | noticeResendTimer (subscriber : Fin 4)
  /-- MGMT_LINK (R523). The management port's link state changes. -/
  | mgmtLink (up : Bool)
  /-- DUPLICATE_ADDRESS_DETECTION (R524). Duplicate address detection runs, and is repeated every 10 s after a failure. -/
  | duplicateAddressDetection (duplicate : Bool)
  /-- NEIGHBOUR_DISCOVERY (R524). A neighbour discovery message is answered. -/
  | neighbourDiscovery (source target : BitVec 128)
  /-- ICMPV6_ECHO (R524). An ICMPv6 echo request is answered. -/
  | icmpv6Echo (source : BitVec 128) (data : Bytes)
  /-- STORE_CONFIGURATION (R517). Command 0x1 of 0x1000:0A writes the values in force of storable entries into the configuration record. -/
  | storeConfiguration (req : Req) (value : Bytes) (nvmOk : Bool)
  /-- INVALIDATE_CONFIGURATION (R517). Command 0x2 of 0x1000:0A invalidates both configuration records. -/
  | invalidateConfiguration (req : Req) (value : Bytes) (nvmOk : Bool)
  /-- START_GATE (R536). An input has qualified without interruption for 1 s, and step 1 of a start begins. -/
  | startGate
  /-- STEP_1_SUPPLIES (R536). The substrate converters start and the rails ramp in order. -/
  | step1Supplies
  /-- STEP_2_MANAGEMENT_CONTROLLER (R548). The boot ROM admits the image and the Mule applies the configuration, or the device enters Donkey mode. -/
  | step2ManagementController (nvmReadable : Bool)
  /-- STEP_3_DISCOVERY (R334). Every die of the package is named. -/
  | step3Discovery
  /-- STEP_4_BUNDLE_REPAIR (R329). The lanes of every transit bundle are chosen again. -/
  | step4BundleRepair (errors : List (BundleSide × Fin 36 × List Nat))
  /-- STEP_5_BRIDLE_MESH (R536). Mesh links train, hub loops lock, clusters clear and align, and DRAM interfaces train. -/
  | step5BridleMesh
  /-- STEP_6_LASERS_RINGS (R312). Lasers and lambs are lit and locked, and rings lock from calibration records or by sweep. -/
  | step6LasersRings (rref : BitVec 16) (unlocked : List Ring)
  /-- STEP_7_LANES (R536). Ports and TW train blind and the arbitration network is lit. -/
  | step7Lanes
  /-- STEP_8_FRAME_LOCK (R539). Optical tick words start, receivers lock, and paths train with their delays compensated. -/
  | step8FrameLock
  /-- STEP_LIMIT (R537). A step reaches its limit, so its incomplete units are held out of service and the step ends. -/
  | stepLimit (incomplete : List PkgUnit)
  /-- START_SUCCESS (R545). 10 s in full service or in Foal mode makes the start successful and clears the failed-start count. -/
  | startSuccess
  /-- WATCHDOG_RESET (R545). The Mule's watchdog resets the device before the start has succeeded. -/
  | watchdogReset
  /-- RESTART (R553). Start command 0x1 restarts the device and clears the failed-start count. -/
  | restart (req : Req) (value : Bytes)
  /-- RESTART_INTO_DONKEY (R548). Start command 0x2 restarts the device into Donkey mode. -/
  | restartIntoDonkey (req : Req) (value : Bytes)
  /-- RESTART_HOLD_AT_FOAL (R553). Start command 0x3 restarts the device and holds it at Foal mode, short of step 6. -/
  | restartHoldAtFoal (req : Req) (value : Bytes)
  /-- CONTINUE_FROM_HOLD (R552). Start command 0x4 continues from a hold at Foal to step 6. -/
  | continueFromHold (req : Req) (value : Bytes)
  /-- REFCLK_LOSS (R582). REFCLK fails in service and the Rooster holds the base reference over. -/
  | refclkLoss
  /-- REFCLK_HOLDOVER_EXPIRY (R582). After 100 ms without REFCLK the Rooster stops sending tick words and every hub loses its reference. -/
  | refclkHoldoverExpiry
  /-- REFCLK_RETURN (R582). REFCLK returns, the Rooster relocks and resumes tick words at its counted frame number. -/
  | refclkReturn
  /-- EVENT_RECORD (R558). An event arrives at Hen, receives a sequence, passes its rate limit, and critical records are copied to NVM. -/
  | eventRecord (index : Nat)
  /-- RECORD_RING_WRITE (R560). Hen writes a queued record into its ring slot, overwriting and counting the oldest. -/
  | recordRingWrite
  /-- TOKEN_BUCKET_REFILL (R562). An event code's bucket gains tokens in equal steps over its period. -/
  | tokenBucketRefill (code : BitVec 16)
  /-- FREEZE (R564). Freeze command 0x1 stops writes into the ring and buffers new records. -/
  | freeze (req : Req) (value : Bytes)
  /-- THAW (R564). Freeze command 0x2 moves the freeze buffer into the ring. -/
  | thaw (req : Req) (value : Bytes)
  /-- FREEZE_LIMIT (R564). The freeze limit of 0x6800:04 ends and the ring thaws. -/
  | freezeLimit
  /-- CLEAR_CRITICAL_LOG (R566). Command 0x6800:09 erases the NVM critical log, accepted only in Donkey mode or while stopped. -/
  | clearCriticalLog (req : Req) (value : Bytes)
  /-- PERST_N_RELEASE (R541). The release of PERST_N lets the host link start to train. -/
  | perstNRelease (port : Fin 2)
  /-- BASE_DIE_OUT_OF_RESET (R341). 2 ms after a base-die reset its logic leaves reset and discovery of its dies begins. -/
  | baseDieOutOfReset (base : Fin 4)
  /-- LANE_NO_TRANSITION (R330). A bundle lane in use shows no transition for 100 ns and becomes failing. -/
  | laneNoTransition (tower : BundleSide) (bundle : Fin 36) (lane : Fin 68)
  /-- SPARE_POOL_PRBS_INTERVAL (R330). At the end of each 1 µs interval a spare-pool lane's PRBS31 check is judged, and 4 errored intervals in 64 make it failing. -/
  | sparePoolPrbsInterval (tower : BundleSide) (bundle : Fin 36) (lane : Fin 68) (errored : Bool)
  /-- HELLO_TIMEOUT (R357). 3 ms pass with no HELLO on a port and bit 0 of its 0x5000:07 record clears. -/
  | helloTimeout (port : Port)
  /-- TAG_SKIP_EXPIRY (R569). 2 ms after a request completed without its response, its tag may be taken again. -/
  | tagSkipExpiry (tower : Tower) (engine : Option EngineNo) (tag : BitVec 16)
  /-- TENANT_CLEAN_DELAY (R486). 260 µs after the last unbinding of a job of the tower's former partition, a scrubbed tower is marked clean. -/
  | tenantCleanDelay (tower : Tower)
  /-- CLOCK_ALIGNMENT_DONE (R390). All region clock generators of a die have aligned, crossing pointers reset, and the scratchpad clearing starts. -/
  | clockAlignmentDone (tower : Tower)
  /-- LINK_INFO_TIMER (R277). 1 µs after lock, and every 1 µs after, a side sends LINK_INFO until the partner's LINK_INFO arrives. -/
  | linkInfoTimer (link : Fin 9)
  /-- MSIX_VECTOR_UNMASK (R502). Host software unmasks an MSI-X vector and its pending message is sent. -/
  | msixVectorUnmask (function : Function) (vector : BitVec 8)
  deriving DecidableEq, Repr

end Sys2Proof
end

