-- ==== Sys2Proof/Decode.lean ====
section
/-! DEFINITION. The block's commands are operations and events, and the table gives no row any bits, so no word spells
a command. -/

namespace Sys2Proof

/-- The command that a word of the table's bits spells: none, since no row has bits. [DESIGN CHOICE, safe: log 1] -/
def decodeTableWord (_nbits _w : Nat) : Option Instr := none

end Sys2Proof
end

