-- ==== Sys2Proof/Config.lean ====
section
/-! DEFINITION. What one package fixes at manufacture, and the values the manual leaves open. Every
constant here is opaque: no statement can rest on a number. -/

namespace Sys2Proof.Config

/-- The package is of silicon stepping A1. -/
opaque steppingA1 : Bool

/-- Package serial number, 0x1000:03, 32 bytes fused at assembly test. [DESIGN CHOICE, safe: log 10] -/
opaque serial : Bytes

/-- Die trace number of identity record i of 128, and the supplier's revision code of a DRAM or laser die (R30), fused
at assembly. -/
opaque dieTrace : Nat → BitVec 40
opaque supplierRevision : Nat → BitVec 8

/-- Device UUID, 0x1000:06, 16 bytes fused at assembly test. [DESIGN CHOICE, safe: log 10] -/
opaque uuid : Bytes

/-- Management MAC address, bits [47:0] of 0x1100:01. [DESIGN CHOICE, safe: log 10] -/
opaque mac : BitVec 48

/-- The image in NVM at manufacture (R472), the count of SVN fuses blown (R473), the revoked key slots and the fuse
state of measurement 5 (R471, R474), the digests of the four key slots and of the ROM. [DESIGN CHOICE, safe: log 10] -/
opaque nvmImage : Bytes
opaque fusedSvn : Nat
opaque slotRevoked : Nat → Bool
opaque fuseState : Bytes
opaque keyDigest : Nat → Bytes
opaque romDigest : Bytes

/-- R471: RSASSA-PSS with a 4,096-bit modulus, SHA-512, MGF1 with SHA-512 and a salt of 64 bytes, named by the manual
and not given there: whether a signature over some bytes verifies under a modulus. [DESIGN CHOICE, safe: log 11] -/
opaque rsaPss : Bytes → Bytes → Bytes → Bool

/-- Scratchpad column repair map, 0x3420:01: byte i of 8,064, fused at wafer test (R81), modulo
17: a bank has 16 spare columns. [DESIGN CHOICE, safe: log 10] -/
opaque columnRepair : Nat → Byte

/-- Tap entries of the factory calibration record of a base die, fused at assembly test in the locked 0x7F00 range; none
when that record is invalid (R317). [DESIGN CHOICE, safe: log 10] -/
opaque factoryTaps : Nat → Option (List (BitVec 64))

/-- Commissioning power P_c of laser record i = 36 × flock + laser, in µW (R300, 0x4400:01). [DESIGN CHOICE, safe:
log 10] -/
opaque commissioningPower : Nat → BitVec 16

/-- Lanes of transit bundle 36 × tower + bundle that are fused as failed (R328). [DESIGN CHOICE, safe: log 10] -/
opaque fusedFailedLanes : Nat → List Nat

/-- FREE VALUE. R325 names the roles of a bundle's lanes and not which lane has which: lane `l` of bundle 36 × tower +
bundle takes its role at assembly in the order of this rank, ties by number. -/
opaque laneRank : Nat → Nat → Nat

/-- The factory range 0x7F00 (R527): the value of an entry, none where the index holds none. [DESIGN CHOICE, safe:
log 10] -/
opaque factoryEntry : BitVec 16 → BitVec 8 → Option Bytes

/-- The PCI vendor ID of the device (R526). [DESIGN CHOICE, safe: log 10] -/
opaque vendorId : BitVec 16

/-- FREE VALUE. Values the manual calls undefined or does not state: the n-th one drawn, 64 bits. The
state's counter `freeDrawn` says how many have been drawn. -/
opaque freeValue : Nat → BitVec 64

/-- FREE VALUE. The undefined content of a scratchpad byte (R74, R134): by the number of the free values and the
byte's key. -/
opaque undefinedByte : Nat → Nat → Byte

/-- FREE VALUE. What task code leaves in scalar register r of a cluster, by the number of the free values (R66, R67). -/
opaque codeRegister : Nat → Nat → BitVec 64

/-- FREE VALUE. R105: the seed of a lane's generator from the task's rounding seed and the tower,
cluster, core and lane numbers. -/
opaque laneSeed : BitVec 32 → Nat → Nat → Nat → Nat → BitVec 32

/-- FREE VALUE. R105: one advance of a lane's generator. -/
opaque laneNext : BitVec 32 → BitVec 32

/-- FREE VALUE. R112: a finite result of the transcendental unit, a fixed function of the input.
Function 0 exp2, 1 log2, 2 reciprocal, 3 reciprocal square root, 4 tanh. -/
opaque transcendental : Nat → BitVec 32 → BitVec 32

/-- FREE VALUE. R477: the signature the device identity key gives over a transcript. [DESIGN CHOICE, safe: log 11] -/
opaque spdmSignature : Bytes → Bytes

/-- FREE VALUE. R477: the certificate chain of slot 0 (fused key, Kammond root). [DESIGN CHOICE, safe: log 11] -/
opaque certificateChain : Bytes

/-- SHA-384 and SHA-512 (R478, R474) are named by the manual and not given there. [DESIGN CHOICE, safe: log 11] -/
opaque sha384 : Bytes → Bytes
opaque sha512 : Bytes → Bytes

/-- FREE VALUE. R484: the key and the 32-bit salt of a port's direction for a key generation. [DESIGN CHOICE, safe:
log 11] -/
opaque portKey : Nat → BitVec 32 → Bytes

/-- R379, R380: AES-256-GCM, named by the manual and not given there: ciphertext and tag from the key with its
salt, the flit count, the additional data and the plain data. [DESIGN CHOICE, safe: log 11] -/
opaque gcmSeal : Bytes → Bytes → Bytes → Bytes → Bytes

/-- FREE VALUE. R290: byte i of the PRBS31 that loop-back NULL flits carry; the manual names the sequence and gives no
generator. -/
opaque prbs31 : Nat → Byte

/-- FREE VALUE. R478: the device's part of a key exchange in the n-th session opened. [DESIGN CHOICE, safe: log 11] -/
opaque sessionShare : Nat → Bytes

/-- FREE VALUE. R422 splits a tower's share by its demands, and states no split where both are 0: the cap of a rail then,
in 0.01 A. [DESIGN CHOICE, safe: log 98] -/
opaque idleShare : Nat → BitVec 16

end Sys2Proof.Config
end

