-- ==== Sys2Proof/Machine/Bits.lean ====
section
/-! DEFINITION. Bit fields, byte order and the three check codes of R593. -/

namespace Sys2Proof.Machine

/-- Bits [hi:lo] of a word as a number (R10). -/
def bits {n : Nat} (w : BitVec n) (hi lo : Nat) : Nat := w.toNat / 2 ^ lo % 2 ^ (hi + 1 - lo)

/-- Bits [hi:lo] of a number. -/
def nbits (v hi lo : Nat) : Nat := v / 2 ^ lo % 2 ^ (hi + 1 - lo)

/-- Bit `i` of a number. -/
def nbit (v i : Nat) : Bool := v / 2 ^ i % 2 = 1

/-- A flag as a number. -/
def flag (b : Bool) : Nat := if b then 1 else 0

/-- The positions, below `n`, of the set bits of a mask, rising. -/
def maskMembers (n v : Nat) : List Nat := (List.range n).filter (nbit v)

/-- The mask of a list of positions. -/
def maskOf (n : Nat) (p : Nat → Bool) : Nat :=
  (List.range n).foldl (fun a i => a + flag (p i) * 2 ^ i) 0

/-- How many of the low `n` bits are set. -/
def popcount (n v : Nat) : Nat := (maskMembers n v).length

/-- The low `n` bytes of a number, least significant first. -/
def leBytes : Nat → Nat → Bytes
  | 0, _ => []
  | n + 1, v => BitVec.ofNat 8 v :: leBytes n (v / 256)

/-- The number that bytes spell, least significant first. -/
def leNat : Bytes → Nat
  | [] => 0
  | b :: bs => b.toNat + 256 * leNat bs

/-- The low `n` bytes of a number, most significant first. -/
def beBytes (n v : Nat) : Bytes := (leBytes n v).reverse

/-- `len` bytes from `off`. -/
def slice (bs : Bytes) (off len : Nat) : Bytes := (bs.drop off).take len

/-- An unsigned little-endian field; bytes past the end count zero. -/
def fieldAt (bs : Bytes) (off len : Nat) : Nat := leNat (slice bs off len)

/-- Write bytes over a byte string at an offset, within its length. -/
def overlay (bs : Bytes) (off : Nat) (new : Bytes) : Bytes :=
  bs.take off ++ (new.take (bs.length - off)) ++ bs.drop (off + new.length)

/-- `n` zero bytes. -/
def zeros (n : Nat) : Bytes := List.replicate n 0

/-- Bytes padded with zeros, or cut, to a length. -/
def padTo (n : Nat) (bs : Bytes) : Bytes := (bs ++ zeros (n - bs.length)).take n

/-- A two's-complement field of `n` bits as an integer. -/
def signed (n v : Nat) : Int :=
  if v % 2 ^ n < 2 ^ (n - 1) then (v % 2 ^ n : Nat) else ((v % 2 ^ n : Nat) : Int) - (2 ^ n : Nat)

/-- An integer as the low `n` bits of its two's complement. -/
def unsigned (n : Nat) (z : Int) : Nat := (z % ((2 ^ n : Nat) : Int)).toNat

/-- One byte into a CRC taken most significant bit first. -/
def crcStep (w : Nat) (poly : BitVec w) : Nat → BitVec w → BitVec w
  | 0, c => c
  | k + 1, c => crcStep w poly k (if c.getLsbD (w - 1) then (c <<< 1) ^^^ poly else c <<< 1)

/-- One byte into a reflected CRC. -/
def crcStepR (poly : BitVec 32) : Nat → BitVec 32 → BitVec 32
  | 0, c => c
  | k + 1, c => crcStepR poly k (if c.getLsbD 0 then (c >>> 1) ^^^ poly else c >>> 1)

/-- CRC-32 of R593. -/
def crc32 (bs : Bytes) : BitVec 32 :=
  (bs.foldl (fun c b => crcStepR 0xEDB88320 8 (c ^^^ b.setWidth 32)) 0xFFFFFFFF) ^^^ 0xFFFFFFFF

/-- CRC-16 of R593. -/
def crc16 (bs : Bytes) : BitVec 16 :=
  bs.foldl (fun c b => crcStep 16 0x1021 8 (c ^^^ BitVec.ofNat 16 (256 * b.toNat))) 0xFFFF

/-- CRC-8 of R593. -/
def crc8 (bs : Bytes) : BitVec 8 := bs.foldl (fun c b => crcStep 8 0x07 8 (c ^^^ b)) 0

/-- The whole bytes of a word from bit `lo` up to its most significant end, taken from that end (R593). -/
def wordBytes {n : Nat} (w : BitVec n) (lo : Nat) : Bytes := beBytes ((n - lo) / 8) (w.toNat / 2 ^ lo)

/-- Saturating addition below `2^n`. [DEDUCED, safe: log 64] -/
def satAdd (n a b : Nat) : Nat := min (a + b) (2 ^ n - 1)

/-- The characters of a string as bytes. -/
def ascii (t : String) : Bytes := t.toList.map (fun c => BitVec.ofNat 8 c.toNat)

end Sys2Proof.Machine
end

