-- ==== Sys2Proof/Machine/Flags.lean ====
section
/-! DEFINITION. The sticky flags of a task (R107): invalid, overflow, saturation, as bits 0 to 2 of the flags
byte of its record (R159). -/

namespace Sys2Proof.Machine

/-- What an operation adds to the sticky flags. -/
structure Sticky where
  invalid : Bool := false
  overflow : Bool := false
  saturation : Bool := false
  deriving DecidableEq, Repr

/-- The flags of two operations together. -/
def Sticky.or (a b : Sticky) : Sticky :=
  { invalid := a.invalid || b.invalid
    overflow := a.overflow || b.overflow
    saturation := a.saturation || b.saturation }

/-- The flags of a list of operations. -/
def Sticky.all (fs : List Sticky) : Sticky := fs.foldl Sticky.or {}

/-- As bits of the record's flags byte. -/
def Sticky.byte (f : Sticky) : BitVec 8 :=
  BitVec.ofNat 8 (flag f.invalid + 2 * flag f.overflow + 4 * flag f.saturation)

end Sys2Proof.Machine
end

