-- ==== Sys2Proof/Machine/Float.lean ====
section
/-! DEFINITION. Element formats, exact values, rounding and conversion (R97 to R110). A value is computed
exactly and narrowed once. -/

namespace Sys2Proof.Machine

/-- A value: NaN, a signed infinity, or sign and magnitude m × 2^e. -/
inductive Num where
  | nan
  | inf (neg : Bool)
  | fin (neg : Bool) (m : Nat) (e : Int)
  deriving DecidableEq, Repr

/-- Format codes of R97. -/
def fmtFp32 : Nat := 0x0
def fmtBf16 : Nat := 0x1
def fmtFp16 : Nat := 0x2
def fmtE4m3 : Nat := 0x3
def fmtE5m2 : Nat := 0x4
def fmtInt8 : Nat := 0x5

/-- An MX type carries block scales. -/
def isMx (f : Nat) : Bool := decide (6 ≤ f ∧ f ≤ 10)

/-- Exponent bits, mantissa bits and bias of a floating-point format; the element type of an MX type. -/
def fmtShape (f : Nat) : Nat × Nat × Int :=
  match f with
  | 0 => (8, 23, 127)
  | 1 => (8, 7, 127)
  | 2 => (5, 10, 15)
  | 3 | 6 => (4, 3, 7)
  | 4 | 7 => (5, 2, 15)
  | 8 => (3, 2, 3)
  | 9 => (2, 3, 1)
  | _ => (2, 1, 1)

/-- Bits of one element. -/
def fmtWidth (f : Nat) : Nat := if f = 5 then 8 else 1 + (fmtShape f).1 + (fmtShape f).2.1

/-- The value of an element's bits, before any block scale (R97, R98). [DEDUCED, unsafe: log 150] -/
def decodeElem (f : Nat) (v : Nat) : Num :=
  if f = 5 then
    let z := signed 8 v
    .fin (decide (z < 0)) z.natAbs 0
  else
    let (eb, mb, bias) := fmtShape f
    let neg := nbit v (eb + mb)
    let ex := v / 2 ^ mb % 2 ^ eb
    let m := v % 2 ^ mb
    let top := decide (ex = 2 ^ eb - 1)
    if top && (f = 0 || f = 1 || f = 2 || f = 4 || f = 7) then (if m = 0 then .inf neg else .nan)
    else if top && f = 3 && decide (m = 7) || top && f = 6 && decide (m = 7) then .nan
    else if ex = 0 then .fin neg m (1 - bias - mb)
    else .fin neg (2 ^ mb + m) ((ex : Int) - bias - mb)

/-- The factor of a block scale (R100): 0xFF makes the block NaN. -/
def scaled (scale : Nat) : Num → Num
  | .fin n m e => if scale = 0xFF then .nan else .fin n m (e + (scale : Int) - 127)
  | x => if scale = 0xFF then .nan else x

/-- Floor of the base-2 logarithm of a positive magnitude m × 2^e. -/
def lead (m : Nat) (e : Int) : Int := (Nat.log2 m : Int) + e

/-- m × 2^e divided by 2^q: whole part, and the discarded part as a numerator over 2^d. -/
def splitAt (m : Nat) (e q : Int) : Nat × Nat × Nat :=
  if e ≥ q then (m * 2 ^ (e - q).toNat, 0, 0)
  else
    let d := (q - e).toNat
    (m / 2 ^ d, m % 2 ^ d, d)

/-- Round a split magnitude (R104): nearest even, toward zero, or stochastic with 16 bits r. -/
def roundSplit (mode : Rounding) (r : Nat) (whole rest d : Nat) : Nat :=
  match mode with
  | .rtz => whole
  | .rne =>
    if rest * 2 > 2 ^ d ∨ (rest * 2 = 2 ^ d ∧ whole % 2 = 1) then whole + 1 else whole
  | .sr => if rest * 2 ^ 16 / 2 ^ d + r ≥ 2 ^ 16 then whole + 1 else whole

/-- The largest finite magnitude of a format, as m × 2^e. -/
def maxFinite (f : Nat) : Nat × Int :=
  let (eb, mb, bias) := fmtShape f
  match f with
  | 3 | 6 => (14, 5)
  | 8 | 9 | 10 => (2 ^ (mb + 1) - 1, ((2 ^ eb - 1 : Nat) : Int) - bias - mb)
  | _ => (2 ^ (mb + 1) - 1, ((2 ^ eb - 2 : Nat) : Int) - bias - mb)

/-- The bits of the largest finite magnitude. -/
def maxBits (f : Nat) : Nat :=
  let (eb, mb, _) := fmtShape f
  match f with
  | 3 | 6 => 0x7E
  | 8 | 9 | 10 => 2 ^ (eb + mb) - 1
  | _ => 2 ^ (eb + mb) - 2 ^ mb - 1

/-- The bits of infinity. -/
def infBits (f : Nat) : Nat :=
  let (eb, mb, _) := fmtShape f
  (2 ^ eb - 1) * 2 ^ mb

/-- A sign in its place. -/
def signBits (f : Nat) (neg : Bool) : Nat :=
  let (eb, mb, _) := fmtShape f
  flag neg * 2 ^ (eb + mb)

/-- m1 × 2^e1 > m2 × 2^e2. -/
def magGt (m1 : Nat) (e1 : Int) (m2 : Nat) (e2 : Int) : Bool :=
  let q := min e1 e2
  decide (m1 * 2 ^ (e1 - q).toNat > m2 * 2 ^ (e2 - q).toNat)

/-- The bits of a magnitude t × 2^q that the format represents, t at most 2^(mb + 1). -/
def packMag (f t : Nat) (q : Int) : Nat :=
  let (_, mb, bias) := fmtShape f
  let (t, q) := if t ≥ 2 ^ (mb + 1) then (t / 2, q + 1) else (t, q)
  if t < 2 ^ mb then t else (q + mb + bias).toNat * 2 ^ mb + (t - 2 ^ mb)

/-- The canonical NaN of a format (R106, R107). [DEDUCED, safe: log 152] -/
def nanBits (f : Nat) : Nat :=
  match f with
  | 0 => 0x7FC00000
  | 1 => 0x7FC0
  | 2 => 0x7E00
  | _ => 0x7F

/-- Convert a value to INT8 (R106). -/
def toInt8 (mode : Rounding) (r : Nat) : Num → Nat × Sticky
  | .nan => (0, { invalid := true })
  | .inf neg => (if neg then 0x80 else 0x7F, { saturation := true })
  | .fin neg m e =>
    let (w, rest, d) := splitAt m e 0
    let w := roundSplit mode r w rest d
    if neg ∧ w > 128 then (0x80, { saturation := true })
    else if !neg ∧ w > 127 then (0x7F, { saturation := true })
    else (unsigned 8 (if neg then -(w : Int) else w), {})

/-- Convert a value to a format's element bits (R104, R106). `toInf` is overflow-to-infinity. For an MX type
the value has been divided by the block's scale (R101). -/
def toFormat (f : Nat) (mode : Rounding) (toInf : Bool) (r : Nat) (x : Num) : Nat × Sticky :=
  if f = 5 then toInt8 mode r x
  else
    let mode := if mode = .sr ∧ f = 0 then .rne else mode
    let wide := decide (f ≤ 2)
    match x with
    | .nan => (nanBits f, { invalid := !wide })
    | .inf neg =>
      if wide then (signBits f neg + infBits f, {})
      else if f = 4 ∧ toInf then (signBits f neg + infBits f, {})
      else (signBits f neg + maxBits f, { saturation := true })
    | .fin neg 0 _ => (signBits f neg, {})
    | .fin neg m e =>
      let (_, mb, bias) := fmtShape f
      let q := max (lead m e) (1 - bias) - mb
      let (w, rest, d) := splitAt m e q
      let t := roundSplit mode r w rest d
      let (mm, me) := maxFinite f
      if magGt t q mm me then
        if wide then (signBits f neg + infBits f, { overflow := true })
        else if f = 4 ∧ toInf then (signBits f neg + infBits f, { overflow := true })
        else (signBits f neg + maxBits f, { saturation := true })
      else (signBits f neg + packMag f t q, {})

/-! ### Exact arithmetic -/

/-- The product of two values (R108): NaN for 0 × infinity. -/
def mul : Num → Num → Num
  | .nan, _ => .nan
  | _, .nan => .nan
  | .inf a, .inf b => .inf (a != b)
  | .inf a, .fin b m _ => if m = 0 then .nan else .inf (a != b)
  | .fin b m _, .inf a => if m = 0 then .nan else .inf (a != b)
  | .fin a m e, .fin b n f => .fin (a != b) (m * n) (e + f)

/-- The sum of exact finite terms; a zero sum is +0 unless every term is −0. -/
def sumFin (ts : List (Bool × Nat × Int)) : Num :=
  let q := ts.foldl (fun q t => min q t.2.2) 0
  let z := ts.foldl (fun (z : Int) t =>
    let v : Int := (t.2.1 * 2 ^ (t.2.2 - q).toNat : Nat)
    if t.1 then z - v else z + v) 0
  if z = 0 then .fin (!ts.isEmpty && ts.all (fun t => t.1)) 0 q else .fin (decide (z < 0)) z.natAbs q

/-- The finite terms of a list. -/
def finTerms (xs : List Num) : List (Bool × Nat × Int) :=
  xs.filterMap (fun x => match x with | .fin n m e => some (n, m, e) | _ => none)

/-- The exact sum of values (R107, R108): a NaN, or opposite infinities, make NaN. -/
def sumNum (xs : List Num) : Num :=
  if xs.any (fun x => decide (x = .nan)) then .nan
  else
    let pos := xs.any (fun x => decide (x = .inf false))
    let neg := xs.any (fun x => decide (x = .inf true))
    if pos && neg then .nan else if pos then .inf false else if neg then .inf true else sumFin (finTerms xs)

/-- Truncate the terms of a fused step (R108): at 40 bits below the leading bit of the largest. -/
def truncTerms (xs : List Num) : List Num :=
  let tops := (finTerms xs).filterMap (fun t => if t.2.1 = 0 then none else some (lead t.2.1 t.2.2))
  match tops.max? with
  | none => xs
  | some top => xs.map (fun x => match x with
    | .fin n m e =>
      let (w, _, _) := splitAt m e (top - 40)
      if e ≥ top - 40 then .fin n m e else .fin n w (top - 40)
    | x => x)

/-- Round a value once to FP32 in RNE, with the flags of R107: `fresh` when no operand was NaN. -/
def toFp32 (fresh : Bool) (x : Num) : BitVec 32 × Sticky :=
  match x with
  | .nan => (0x7FC00000, { invalid := fresh })
  | _ =>
    let (v, f) := toFormat 0 .rne false 0 x
    (BitVec.ofNat 32 v, f)

/-- No operand is NaN. -/
def noNan (xs : List Num) : Bool := xs.all (fun x => decide (x ≠ .nan))

/-- The fused sum of an engine step (R108): old accumulator and products, truncated, added, rounded once. -/
def fusedSum (acc : BitVec 32) (products : List (Num × Num)) : BitVec 32 × Sticky :=
  let old := decodeElem 0 acc.toNat
  let fresh := decide (old ≠ .nan) && products.all (fun p => decide (p.1 ≠ .nan ∧ p.2 ≠ .nan))
  toFp32 fresh (sumNum (truncTerms (old :: products.map (fun p => mul p.1 p.2))))

/-- An INT8 step (R109): exact sum, saturated to 32 bits. -/
def intSum (acc : BitVec 32) (products : List (Int × Int)) : BitVec 32 × Sticky :=
  let z := products.foldl (fun z p => z + p.1 * p.2) acc.toInt
  if z < -(2 ^ 31) then (0x80000000, { saturation := true })
  else if z > 2 ^ 31 - 1 then (0x7FFFFFFF, { saturation := true })
  else (BitVec.ofInt 32 z, {})

/-- A fused multiply-add with one rounding in RNE (R110). -/
def fma32 (a b c : Num) : BitVec 32 × Sticky := toFp32 (noNan [a, b, c]) (sumNum [mul a b, c])

/-- FP32 addition in RNE, as the routers use it (R93). -/
def add32 (a b : BitVec 32) : BitVec 32 :=
  (toFp32 true (sumNum [decodeElem 0 a.toNat, decodeElem 0 b.toNat])).1

/-- A combine set's FP32 sum: a left fold in ascending order of input port (R93). -/
def combine32 : List (BitVec 32) → BitVec 32
  | [] => 0
  | x :: xs => xs.foldl add32 x

/-- A combine set's BF16 sum: widened, added in FP32, rounded once (R93). -/
def combineBf16 (xs : List (BitVec 16)) : BitVec 16 :=
  let s := combine32 (xs.map (fun x => BitVec.ofNat 32 (x.toNat * 65536)))
  BitVec.ofNat 16 (toFormat 1 .rne false 0 (decodeElem 0 s.toNat)).1

/-- The order in which FP32 scores rank (R149): greater first, a NaN after every number. -/
def numGt (a b : Num) : Bool :=
  match a, b with
  | .nan, _ => false
  | _, .nan => true
  | .inf n, .inf m => !n && m
  | .inf n, .fin _ _ _ => !n
  | .fin _ _ _, .inf n => n
  | .fin n m e, .fin n' m' e' =>
    let q := min e e'
    let v : Int := (m * 2 ^ (e - q).toNat : Nat)
    let v' : Int := (m' * 2 ^ (e' - q).toNat : Nat)
    decide ((if n then -v else v) > (if n' then -v' else v'))

end Sys2Proof.Machine
end

