-- ==== Sys2Proof/Machine/Tab.lean ====
section
/-! DEFINITION. Sparse tables: how a `Tab` is read and written. A table lists its keys in strictly rising
order and never lists a key that holds the default, so that equal contents are equal data. -/

namespace Sys2Proof.Machine

/-- The value at key `k`, `d` where the table lists none. -/
def Tab.look {α : Type} (d : α) : Tab α → Nat → α
  | [], _ => d
  | (k', v) :: t, k => if k' = k then v else Tab.look d t k

/-- Remove every pair with key `k`. -/
def Tab.drop {α : Type} (k : Nat) : Tab α → Tab α
  | [] => []
  | (k', v) :: t => if k' = k then Tab.drop k t else (k', v) :: Tab.drop k t

/-- Put a pair before the first larger key. -/
def Tab.place {α : Type} (k : Nat) (v : α) : Tab α → Tab α
  | [] => [(k, v)]
  | (k', v') :: t => if k < k' then (k, v) :: (k', v') :: t else (k', v') :: Tab.place k v t

/-- Write `v` at key `k`; writing the default removes the pair. -/
def Tab.put {α : Type} [DecidableEq α] (d : α) (k : Nat) (v : α) (t : Tab α) : Tab α :=
  if v = d then Tab.drop k t else Tab.place k v (Tab.drop k t)

/-- Change the value at key `k`. -/
def Tab.change {α : Type} [DecidableEq α] (d : α) (k : Nat) (f : α → α) (t : Tab α) : Tab α :=
  Tab.put d k (f (Tab.look d t k)) t

/-- Apply `f` at every key of the list. -/
def Tab.changeAll {α : Type} [DecidableEq α] (d : α) (ks : List Nat) (f : α → α) (t : Tab α) : Tab α :=
  ks.foldl (fun t k => Tab.change d k f t) t

/-- The canonical form: keys strictly rising from `lo` up, no default listed. -/
def Tab.wfFrom {α : Type} [DecidableEq α] (d : α) : Nat → Tab α → Bool
  | _, [] => true
  | lo, (k, v) :: t => decide (lo ≤ k) && decide (v ≠ d) && Tab.wfFrom d (k + 1) t

/-- The canonical form of a table whose unlisted keys read `d`. -/
def Tab.wf {α : Type} [DecidableEq α] (d : α) (t : Tab α) : Bool := Tab.wfFrom d 0 t

/-- The smallest of a list of numbers, none of an empty list. -/
def leastOf : List Nat → Option Nat
  | [] => none
  | x :: xs => match leastOf xs with
    | none => some x
    | some y => some (min x y)

/-- Add to a list without repeating a member. -/
def addOnce {α : Type} [DecidableEq α] (x : α) (xs : List α) : List α := if x ∈ xs then xs else xs ++ [x]

/-- Replace the first element that satisfies `p`. -/
def changeFirst {α : Type} (p : α → Bool) (f : α → α) : List α → List α
  | [] => []
  | x :: xs => if p x then f x :: xs else x :: changeFirst p f xs

/-- Write element `n` of a list, if it has one. -/
def listPut {α : Type} : List α → Nat → α → List α
  | [], _, _ => []
  | _ :: xs, 0, v => v :: xs
  | x :: xs, n + 1, v => x :: listPut xs n v

end Sys2Proof.Machine
end

