-- ==== Sys2Proof/Machine/Entries.lean ====
section
/-! DEFINITION. The catalogue of the object dictionary: every entry of the manual's cards with its type
(R511), access (R512), world (R514), length and default. An entry is named by 256 × index + subindex. -/

namespace Sys2Proof.Machine

/-- Type codes of R511. -/
inductive EntryType where
  | bool | u8 | u16 | u32 | u64 | f32 | str32 | blob
  deriving DecidableEq, Repr

/-- Access codes of R512. -/
inductive Access where
  | ro | rw | rwf | wo | cmd
  deriving DecidableEq, Repr

/-- World codes of R514 that the entries carry. -/
inductive EntryWorld where
  | s | both
  deriving DecidableEq, Repr

/-- A card's default: a number, or a byte string filled with one byte. -/
inductive EntryDefault where
  | value (n : Nat) | fill (b : Byte)
  deriving DecidableEq, Repr

/-- One card. -/
structure EntryInfo where
  key : Nat
  type : EntryType
  access : Access
  world : EntryWorld
  length : Nat
  dflt : EntryDefault
  deriving DecidableEq, Repr

/-- The entries of indices 0x1000 to 0x10FF. -/
def entries10 : List EntryInfo := [
  ⟨0x100001, .str32, .ro, .both, 32, .value 0⟩,
  ⟨0x100002, .u8, .ro, .both, 1, .value 0xA0⟩,
  ⟨0x100003, .str32, .ro, .both, 32, .value 0⟩,
  ⟨0x100004, .str32, .ro, .both, 32, .value 0⟩,
  ⟨0x100005, .blob, .ro, .both, 1024, .fill 0⟩,
  ⟨0x100006, .blob, .ro, .both, 16, .fill 0⟩,
  ⟨0x100007, .u64, .ro, .both, 8, .value 0⟩,
  ⟨0x100008, .blob, .ro, .both, 0, .fill 0⟩,
  ⟨0x10000A, .u8, .cmd, .s, 1, .value 0⟩,
  ⟨0x10000B, .u32, .ro, .both, 4, .value 0⟩]

/-- The entries of indices 0x1100 to 0x11FF. -/
def entries11 : List EntryInfo := [
  ⟨0x110001, .u64, .ro, .both, 8, .value 0⟩,
  ⟨0x110002, .blob, .ro, .both, 16, .fill 0⟩,
  ⟨0x110003, .u16, .rw, .s, 2, .value 0x1A9A⟩,
  ⟨0x110004, .u8, .rw, .s, 1, .value 0xFF⟩,
  ⟨0x110005, .u8, .rw, .s, 1, .value 0x8⟩,
  ⟨0x110006, .u8, .rw, .s, 1, .value 0x20⟩,
  ⟨0x110007, .blob, .rw, .s, 128, .fill 0⟩,
  ⟨0x110008, .blob, .rw, .s, 128, .fill 0⟩,
  ⟨0x110009, .blob, .ro, .both, 32, .fill 0⟩,
  ⟨0x11000A, .u8, .ro, .both, 1, .value 0x0⟩,
  ⟨0x118001, .u8, .rwf, .s, 1, .value 0x0⟩,
  ⟨0x118002, .u32, .ro, .both, 4, .value 0⟩,
  ⟨0x118003, .u64, .rw, .s, 8, .value 0x0⟩,
  ⟨0x118004, .u16, .rwf, .s, 2, .value 0x0⟩,
  ⟨0x118005, .u32, .ro, .both, 4, .value 0x0⟩]

/-- The entries of indices 0x2000 to 0x20FF. -/
def entries20 : List EntryInfo := [
  ⟨0x200001, .u16, .ro, .both, 2, .value 0⟩,
  ⟨0x200002, .u16, .rw, .s, 2, .value 0x2BC⟩,
  ⟨0x200003, .f32, .ro, .both, 4, .value 0⟩,
  ⟨0x200004, .u32, .ro, .both, 4, .value 0x0⟩,
  ⟨0x200005, .blob, .rwf, .s, 88, .fill 0⟩,
  ⟨0x200006, .blob, .ro, .both, 352, .fill 0⟩,
  ⟨0x200007, .u16, .rw, .s, 2, .value 0x264⟩,
  ⟨0x200008, .u8, .cmd, .s, 1, .value 0⟩,
  ⟨0x200009, .blob, .ro, .both, 3120, .fill 0⟩,
  ⟨0x20000A, .blob, .ro, .both, 8, .fill 0⟩]

/-- The entries of indices 0x2400 to 0x24FF. -/
def entries24 : List EntryInfo := [
  ⟨0x240001, .blob, .ro, .both, 88, .fill 0⟩,
  ⟨0x240002, .u64, .ro, .both, 8, .value 0x0⟩,
  ⟨0x240003, .u8, .rw, .s, 1, .value 0x5F⟩,
  ⟨0x240004, .u32, .rw, .s, 4, .value 0x7D0⟩,
  ⟨0x240005, .u16, .ro, .both, 2, .value 0x1800⟩,
  ⟨0x240006, .u8, .rw, .s, 1, .value 0x5⟩,
  ⟨0x240007, .u32, .ro, .both, 4, .value 0x0⟩]

/-- The entries of indices 0x2800 to 0x28FF. -/
def entries28 : List EntryInfo := [
  ⟨0x280001, .u8, .rw, .s, 1, .value 0x14⟩,
  ⟨0x280002, .u8, .ro, .both, 1, .value 0x14⟩,
  ⟨0x280003, .u8, .ro, .both, 1, .value 0x1⟩,
  ⟨0x280004, .u16, .ro, .both, 2, .value 0x0⟩,
  ⟨0x280005, .u64, .ro, .both, 8, .value 0x0⟩,
  ⟨0x280006, .u64, .ro, .both, 8, .value 0x0⟩,
  ⟨0x280007, .u8, .rw, .s, 1, .value 0x8⟩,
  ⟨0x280008, .u8, .rw, .s, 1, .value 0x3⟩,
  ⟨0x280009, .u8, .rw, .s, 1, .value 0x1E⟩,
  ⟨0x28000A, .blob, .ro, .both, 156, .fill 0x3F⟩]

/-- The entries of indices 0x3000 to 0x30FF. -/
def entries30 : List EntryInfo := [
  ⟨0x300001, .u8, .rwf, .s, 1, .value 0x2⟩,
  ⟨0x300002, .u64, .ro, .both, 8, .value 0x0⟩,
  ⟨0x300003, .u64, .ro, .both, 8, .value 0x0⟩,
  ⟨0x300004, .u16, .ro, .both, 2, .value 0x0⟩,
  ⟨0x300005, .u32, .ro, .both, 4, .value 0x0⟩,
  ⟨0x300006, .u32, .ro, .both, 4, .value 0x0⟩]

/-- The entries of indices 0x3400 to 0x34FF. -/
def entries34 : List EntryInfo := [
  ⟨0x340001, .blob, .ro, .both, 160, .fill 0⟩,
  ⟨0x340002, .u64, .rw, .s, 8, .value 0xBA9876543210⟩,
  ⟨0x340003, .u32, .ro, .both, 4, .value 0x0⟩,
  ⟨0x340004, .u32, .ro, .both, 4, .value 0x0⟩,
  ⟨0x342001, .blob, .ro, .both, 8064, .fill 0⟩,
  ⟨0x342002, .blob, .ro, .both, 1152, .fill 0⟩,
  ⟨0x342003, .u16, .cmd, .s, 2, .value 0⟩,
  ⟨0x342004, .u32, .ro, .both, 4, .value 0x0⟩,
  ⟨0x342005, .u32, .ro, .both, 4, .value 0x0⟩,
  ⟨0x342006, .u32, .ro, .both, 4, .value 0x0⟩,
  ⟨0x342007, .u32, .ro, .both, 4, .value 0x0⟩,
  ⟨0x344001, .u64, .ro, .both, 8, .value 0x0⟩,
  ⟨0x344002, .u64, .ro, .both, 8, .value 0x0⟩,
  ⟨0x344003, .u32, .ro, .both, 4, .value 0x0⟩,
  ⟨0x344004, .bool, .rwf, .s, 1, .value 0x1⟩,
  ⟨0x346001, .u64, .ro, .both, 8, .value 0x0⟩,
  ⟨0x346002, .u64, .ro, .both, 8, .value 0x0⟩,
  ⟨0x346003, .u64, .ro, .both, 8, .value 0x0⟩]

/-- The entries of indices 0x3800 to 0x38FF. -/
def entries38 : List EntryInfo := [
  ⟨0x380001, .u8, .rwf, .s, 1, .value 0x4⟩,
  ⟨0x380002, .u32, .ro, .both, 4, .value 0x0⟩,
  ⟨0x380003, .u32, .ro, .both, 4, .value 0x0⟩,
  ⟨0x380004, .u32, .rw, .s, 4, .value 0x15180⟩,
  ⟨0x380005, .u32, .ro, .both, 4, .value 0x0⟩,
  ⟨0x380006, .u16, .cmd, .s, 2, .value 0⟩,
  ⟨0x380007, .u16, .ro, .both, 2, .value 0x0⟩,
  ⟨0x382001, .u32, .ro, .both, 4, .value 0x0⟩,
  ⟨0x382002, .u32, .ro, .both, 4, .value 0x0⟩,
  ⟨0x382003, .u32, .ro, .both, 4, .value 0x0⟩,
  ⟨0x382004, .u32, .ro, .both, 4, .value 0x0⟩,
  ⟨0x382005, .u32, .ro, .both, 4, .value 0x0⟩,
  ⟨0x382006, .u32, .ro, .both, 4, .value 0x0⟩,
  ⟨0x382007, .u32, .ro, .both, 4, .value 0x0⟩,
  ⟨0x382008, .u32, .ro, .both, 4, .value 0x0⟩,
  ⟨0x382009, .u32, .ro, .both, 4, .value 0x0⟩,
  ⟨0x38200A, .u32, .ro, .both, 4, .value 0x0⟩,
  ⟨0x38200B, .u32, .ro, .both, 4, .value 0x0⟩,
  ⟨0x38200C, .u32, .ro, .both, 4, .value 0x0⟩,
  ⟨0x383001, .u32, .ro, .both, 4, .value 0x0⟩,
  ⟨0x383002, .u32, .ro, .both, 4, .value 0x0⟩,
  ⟨0x383003, .u32, .ro, .both, 4, .value 0x0⟩,
  ⟨0x383004, .u32, .ro, .both, 4, .value 0x0⟩,
  ⟨0x383005, .u32, .ro, .both, 4, .value 0x0⟩,
  ⟨0x383006, .u32, .ro, .both, 4, .value 0x0⟩,
  ⟨0x383007, .u32, .ro, .both, 4, .value 0x0⟩,
  ⟨0x383008, .u32, .ro, .both, 4, .value 0x0⟩,
  ⟨0x383009, .u32, .ro, .both, 4, .value 0x0⟩,
  ⟨0x38300A, .u32, .ro, .both, 4, .value 0x0⟩,
  ⟨0x38300B, .u32, .ro, .both, 4, .value 0x0⟩,
  ⟨0x38300C, .u32, .ro, .both, 4, .value 0x0⟩,
  ⟨0x388001, .u64, .rw, .both, 8, .value 0x0⟩,
  ⟨0x388002, .u64, .rw, .both, 8, .value 0x0⟩,
  ⟨0x388003, .u64, .rw, .both, 8, .value 0x0⟩,
  ⟨0x388004, .u64, .rw, .both, 8, .value 0x0⟩,
  ⟨0x388005, .u64, .rw, .both, 8, .value 0x0⟩,
  ⟨0x388006, .u64, .rw, .both, 8, .value 0x0⟩,
  ⟨0x388007, .u64, .rw, .both, 8, .value 0x0⟩,
  ⟨0x388008, .u64, .rw, .both, 8, .value 0x0⟩,
  ⟨0x388009, .u64, .rw, .both, 8, .value 0x0⟩,
  ⟨0x38800A, .u64, .rw, .both, 8, .value 0x0⟩,
  ⟨0x38800B, .u64, .rw, .both, 8, .value 0x0⟩,
  ⟨0x38800C, .u64, .rw, .both, 8, .value 0x0⟩,
  ⟨0x388010, .u64, .cmd, .both, 8, .value 0⟩,
  ⟨0x388011, .u32, .rw, .s, 4, .value 0x2710⟩,
  ⟨0x388012, .u32, .ro, .both, 4, .value 0x0⟩,
  ⟨0x388013, .u32, .ro, .both, 4, .value 0x0⟩,
  ⟨0x388014, .u64, .ro, .both, 8, .value 0x0⟩,
  ⟨0x389001, .blob, .rwf, .s, 4096, .fill 0⟩,
  ⟨0x389002, .u64, .ro, .both, 8, .value 0x0⟩]

/-- The entries of indices 0x4000 to 0x40FF. -/
def entries40 : List EntryInfo := [
  ⟨0x400001, .blob, .ro, .both, 24, .fill 0xFF⟩,
  ⟨0x400002, .u64, .ro, .both, 8, .value 0x0⟩,
  ⟨0x400003, .u64, .ro, .both, 8, .value 0x0⟩,
  ⟨0x400004, .u64, .ro, .both, 8, .value 0x0⟩,
  ⟨0x400005, .u32, .ro, .both, 4, .value 0x0⟩,
  ⟨0x400006, .u64, .ro, .both, 8, .value 0x0⟩,
  ⟨0x400007, .u32, .rw, .s, 4, .value 0x186A0⟩,
  ⟨0x400008, .u64, .ro, .both, 8, .value 0x0⟩,
  ⟨0x401001, .u64, .ro, .both, 8, .value 0x0⟩,
  ⟨0x401002, .u64, .ro, .both, 8, .value 0x0⟩,
  ⟨0x401003, .u32, .ro, .both, 4, .value 0x0⟩,
  ⟨0x401004, .u32, .ro, .both, 4, .value 0x0⟩,
  ⟨0x401005, .u64, .ro, .both, 8, .value 0x0⟩,
  ⟨0x402001, .blob, .ro, .both, 4672, .fill 0⟩,
  ⟨0x402002, .u64, .ro, .both, 8, .value 0x0⟩,
  ⟨0x402003, .u64, .ro, .both, 8, .value 0x0⟩,
  ⟨0x402004, .u32, .ro, .both, 4, .value 0x0⟩,
  ⟨0x402005, .u32, .ro, .both, 4, .value 0x0⟩,
  ⟨0x402006, .u16, .cmd, .s, 2, .value 0⟩,
  ⟨0x402007, .blob, .ro, .both, 512, .fill 0⟩,
  ⟨0x402008, .u32, .cmd, .s, 4, .value 0⟩,
  ⟨0x402009, .u32, .cmd, .s, 4, .value 0⟩,
  ⟨0x40200A, .u64, .ro, .both, 8, .value 0x0⟩,
  ⟨0x403001, .blob, .rwf, .s, 100, .fill 0⟩]

/-- The entries of indices 0x4400 to 0x44FF. -/
def entries44 : List EntryInfo := [
  ⟨0x440001, .blob, .ro, .both, 4608, .fill 0⟩,
  ⟨0x440002, .u8, .rw, .s, 1, .value 0x55⟩,
  ⟨0x440003, .u8, .rw, .s, 1, .value 0x4B⟩,
  ⟨0x440004, .u16, .rw, .s, 2, .value 0x1F4⟩,
  ⟨0x440005, .u16, .cmd, .s, 2, .value 0⟩,
  ⟨0x440006, .u32, .ro, .both, 4, .value 0x0⟩,
  ⟨0x441001, .u32, .ro, .both, 4, .value 0x0⟩,
  ⟨0x442001, .u32, .rw, .s, 4, .value 0x258⟩,
  ⟨0x442002, .u32, .ro, .both, 4, .value 0xF⟩,
  ⟨0x442003, .f32, .ro, .both, 4, .value 0⟩]

/-- The entries of indices 0x4800 to 0x48FF. -/
def entries48 : List EntryInfo := [
  ⟨0x480001, .blob, .ro, .both, 15552, .fill 0⟩,
  ⟨0x480002, .u32, .ro, .both, 4, .value 0x0⟩,
  ⟨0x480003, .u64, .ro, .both, 8, .value 0x0⟩,
  ⟨0x480004, .u8, .cmd, .s, 1, .value 0⟩,
  ⟨0x480005, .u32, .rw, .s, 4, .value 0x32⟩,
  ⟨0x480006, .u32, .rw, .s, 4, .value 0x3E8⟩,
  ⟨0x480007, .blob, .ro, .both, 64, .fill 0⟩,
  ⟨0x480008, .blob, .ro, .both, 16, .fill 0⟩]

/-- The entries of indices 0x5000 to 0x50FF. -/
def entries50 : List EntryInfo := [
  ⟨0x500001, .u16, .rw, .s, 2, .value 0x0⟩,
  ⟨0x500002, .blob, .rw, .s, 4096, .fill 0xFF⟩,
  ⟨0x500003, .u32, .rw, .s, 4, .value 0x14⟩,
  ⟨0x500004, .u16, .rw, .s, 2, .value 0xC8⟩,
  ⟨0x500005, .u16, .rw, .s, 2, .value 0x40⟩,
  ⟨0x500006, .u32, .rw, .s, 4, .value 0x40⟩,
  ⟨0x500007, .blob, .ro, .both, 32, .fill 0⟩,
  ⟨0x500008, .u8, .rwf, .s, 1, .value 0x0⟩,
  ⟨0x500009, .u64, .ro, .both, 8, .value 0x0⟩,
  ⟨0x50000A, .u64, .ro, .both, 8, .value 0x0⟩,
  ⟨0x50000B, .u64, .ro, .both, 8, .value 0x0⟩,
  ⟨0x50000C, .u32, .ro, .both, 4, .value 0x0⟩,
  ⟨0x50000D, .u32, .ro, .both, 4, .value 0x0⟩,
  ⟨0x50000E, .u64, .ro, .both, 8, .value 0x0⟩,
  ⟨0x50000F, .u32, .ro, .both, 4, .value 0x0⟩,
  ⟨0x504001, .u64, .rw, .s, 8, .value 0x0⟩,
  ⟨0x504002, .u64, .rw, .s, 8, .value 0x0⟩,
  ⟨0x504003, .u64, .rw, .s, 8, .value 0x0⟩,
  ⟨0x504004, .u64, .rw, .s, 8, .value 0x0⟩,
  ⟨0x504005, .u64, .rw, .s, 8, .value 0x0⟩,
  ⟨0x504006, .u64, .rw, .s, 8, .value 0x0⟩,
  ⟨0x504007, .u64, .rw, .s, 8, .value 0x0⟩,
  ⟨0x504008, .u64, .rw, .s, 8, .value 0x0⟩,
  ⟨0x504009, .u64, .rw, .s, 8, .value 0x0⟩,
  ⟨0x50400A, .u64, .rw, .s, 8, .value 0x0⟩,
  ⟨0x50400B, .u64, .rw, .s, 8, .value 0x0⟩,
  ⟨0x50400C, .u64, .rw, .s, 8, .value 0x0⟩,
  ⟨0x504010, .u16, .cmd, .s, 2, .value 0⟩]

/-- The entries of indices 0x5800 to 0x58FF. -/
def entries58 : List EntryInfo := [
  ⟨0x580001, .bool, .rwf, .s, 1, .value 0x0⟩,
  ⟨0x580002, .u8, .rwf, .s, 1, .value 0x0⟩,
  ⟨0x580003, .u32, .ro, .both, 4, .value 0x0⟩,
  ⟨0x580004, .blob, .rw, .s, 1024, .fill 0⟩,
  ⟨0x580005, .u64, .ro, .both, 8, .value 0x0⟩,
  ⟨0x580006, .u64, .ro, .both, 8, .value 0x0⟩,
  ⟨0x580007, .blob, .ro, .both, 64, .fill 0⟩,
  ⟨0x580008, .bool, .rw, .s, 1, .value 0x1⟩,
  ⟨0x580009, .u8, .cmd, .s, 1, .value 0⟩,
  ⟨0x58000A, .u16, .rw, .s, 2, .value 0x40⟩,
  ⟨0x58000B, .blob, .ro, .both, 848, .fill 0⟩,
  ⟨0x58000C, .u16, .rw, .s, 2, .value 0x400⟩,
  ⟨0x58000D, .u32, .ro, .both, 4, .value 0x0⟩]

/-- The entries of indices 0x6000 to 0x60FF. -/
def entries60 : List EntryInfo := [
  ⟨0x600001, .blob, .rw, .s, 52, .fill 0⟩,
  ⟨0x600004, .blob, .wo, .s, 16778752, .fill 0⟩,
  ⟨0x600005, .u8, .cmd, .s, 1, .value 0⟩,
  ⟨0x600006, .u32, .ro, .both, 4, .value 0x0⟩,
  ⟨0x600007, .u16, .cmd, .s, 2, .value 0⟩,
  ⟨0x600008, .u32, .ro, .both, 4, .value 0xFFF⟩,
  ⟨0x600009, .u32, .ro, .both, 4, .value 0x0⟩,
  ⟨0x60000A, .u8, .rwf, .s, 1, .value 0x0⟩,
  ⟨0x60000B, .u8, .cmd, .s, 1, .value 0⟩,
  ⟨0x601001, .blob, .rw, .s, 4096, .fill 0⟩,
  ⟨0x601002, .blob, .rw, .s, 4096, .fill 0⟩,
  ⟨0x601003, .blob, .rw, .s, 4096, .fill 0⟩,
  ⟨0x601004, .blob, .rw, .s, 4096, .fill 0⟩,
  ⟨0x601005, .blob, .rw, .s, 4096, .fill 0⟩,
  ⟨0x601006, .blob, .rw, .s, 4096, .fill 0⟩,
  ⟨0x601007, .blob, .rw, .s, 4096, .fill 0⟩,
  ⟨0x601008, .blob, .rw, .s, 4096, .fill 0⟩,
  ⟨0x601009, .blob, .rw, .s, 4096, .fill 0⟩,
  ⟨0x60100A, .blob, .rw, .s, 4096, .fill 0⟩,
  ⟨0x60100B, .blob, .rw, .s, 4096, .fill 0⟩,
  ⟨0x60100C, .blob, .rw, .s, 4096, .fill 0⟩]

/-- The entries of indices 0x6800 to 0x68FF. -/
def entries68 : List EntryInfo := [
  ⟨0x680001, .blob, .ro, .both, 32, .fill 0⟩,
  ⟨0x680002, .blob, .ro, .both, 524288, .fill 0⟩,
  ⟨0x680003, .u8, .cmd, .both, 1, .value 0⟩,
  ⟨0x680004, .u32, .rw, .s, 4, .value 0x3E8⟩,
  ⟨0x680005, .blob, .rw, .s, 256, .fill 0⟩,
  ⟨0x680006, .u32, .rw, .s, 4, .value 0x640040⟩,
  ⟨0x680007, .blob, .rw, .s, 32, .fill 0⟩,
  ⟨0x680008, .blob, .ro, .both, 40960, .fill 0⟩,
  ⟨0x680009, .u8, .cmd, .s, 1, .value 0⟩,
  ⟨0x68000A, .u32, .ro, .both, 4, .value 0⟩]

/-- The entries of indices 0x7000 to 0x70FF. -/
def entries70 : List EntryInfo := [
  ⟨0x700001, .u32, .ro, .both, 4, .value 0⟩,
  ⟨0x700002, .u32, .ro, .both, 4, .value 0x0⟩,
  ⟨0x700003, .u8, .ro, .both, 1, .value 0⟩,
  ⟨0x700004, .u8, .cmd, .s, 1, .value 0⟩,
  ⟨0x700005, .blob, .ro, .both, 72, .fill 0⟩,
  ⟨0x700006, .u64, .ro, .both, 8, .value 0⟩]

/-- Every entry with a card, in ascending order. -/
def entries : List EntryInfo :=
  entries10 ++ entries11 ++ entries20 ++ entries24 ++ entries28 ++ entries30 ++ entries34 ++ entries38 ++ entries40 ++ entries44 ++ entries48 ++ entries50 ++ entries58 ++ entries60 ++ entries68 ++ entries70

/-- The card of an entry. -/
def entryInfo (key : Nat) : Option EntryInfo := entries.find? (·.key = key)

/-- The highest subindex in use at an index, none where the index holds no entry (R510). -/
def highestSub (index : Nat) : Option Nat :=
  ((entries.filter (fun e => e.key / 256 = index)).map (fun e => e.key % 256)).max?

end Sys2Proof.Machine
end

