-- ==== Sys2Proof/Machine/BlkBundle.lean ====
section
/-! DEFINITION. State of the vertical bundles, of die discovery and of base-die resets (R323 to R342). Bundles
are keyed by 36 × tower + bundle. -/

namespace Sys2Proof.Machine

/-- A group that has been sent and not acknowledged (R327). -/
structure GroupTx where
  seq : Nat
  bytes : Bytes
  sentAt : Nat
  deriving DecidableEq, Repr

/-- One transit bundle (R325 to R332). -/
structure Bundle where
  /-- Its lanes have been chosen (R329). -/
  chosen : Bool := false
  /-- 0 down, 1 lower half, 2 upper half, 3 full width. -/
  mode : Nat := 0
  /-- Physical lanes by role; data lane i is the i-th of `data`. Test lanes borrowed as data stand in `borrowed` too. -/
  data : List Nat := []
  control : List Nat := []
  test : List Nat := []
  spare : List Nat := []
  borrowed : List Nat := []
  /-- Lanes that failed at this start, and in service. -/
  startFailed : List Nat := []
  serviceFailed : List Nat := []
  /-- Lanes in use found failing, to be dealt with at the next frame boundary. -/
  failing : List Nat := []
  /-- Header parity failures: lane and group count (R330). -/
  parityFails : List (Nat × Nat) := []
  /-- PRBS31 errors of spare-pool lanes: lane and interval (R330). -/
  prbsFails : List (Nat × Nat) := []
  /-- Intervals watched, by lane. -/
  prbsCount : Tab Nat := []
  /-- Groups received, and the parities of the last one's data lanes. -/
  groups : Nat := 0
  lastParity : Nat := 0
  /-- Next sequence to deliver, and whether a group has been delivered (R327). -/
  expected : Nat := 0
  got : Bool := false
  /-- The sending end: next sequence, parities of the last group sent, payloads that wait, and the replay buffer. -/
  next : Nat := 0
  sentParity : Nat := 0
  queue : List Bytes := []
  unacked : List GroupTx := []
  deriving DecidableEq, Repr

/-- A base die: commanded drain, reset and return (R339 to R342). -/
structure BaseDieState where
  /-- Start of a commanded drain. -/
  drainSince : Option Nat := none
  /-- Moment of the reset that holds it down. -/
  resetAt : Option Nat := none
  /-- Its logic is out of reset (2 ms). -/
  logicUp : Bool := false
  /-- Held in reset until the next start. -/
  held : Bool := false
  /-- Moments of uncommanded resets, for R342. -/
  recent : List Nat := []
  /-- The log of 0x4800:07. -/
  commanded : Nat := 0
  uncommanded : Nat := 0
  cause : Nat := 0
  stamp : BitVec 64 := 0
  deriving DecidableEq, Repr

/-- Discovery of one die record (R336). -/
structure Discovery where
  probes : Nat := 0
  sentAt : Nat := 0
  replied : Bool := false
  assigned : Bool := false
  failed : Bool := false
  deriving DecidableEq, Repr

/-- Bundles, discovery and base dies. -/
structure Ver where
  bundles : Tab Bundle := []
  bases : Tab BaseDieState := []
  discovery : Tab Discovery := []
  /-- Die records named in the last discovery (0x4800:08), and the records the dies hold. -/
  named : List Nat := []
  identities : Tab (BitVec 64) := []
  /-- The Mule's PROBE sequence (R335). -/
  probeSequence : Nat := 0
  /-- Discovery messages sent. -/
  sent : List (BitVec 128) := []
  /-- Groups' payloads delivered: bundle and payload. -/
  delivered : List (Nat × Bytes) := []
  deriving DecidableEq, Repr

end Sys2Proof.Machine
end

