-- ==== Sys2Proof/Machine/BlkClock.lean ====
section
/-! DEFINITION. State of the clock regions (R387 to R407). Regions are keyed by 13 × tower + region. -/

namespace Sys2Proof.Machine

/-- The base reference at one hub (R388). -/
structure Reference where
  lostAt : Option Nat := none
  /-- Returned and relocked: the new phase takes effect at the next tick. -/
  realign : Bool := false
  /-- Absent for longer than 100 ms: the regions are stopped. -/
  expired : Bool := false
  deriving DecidableEq, Repr

/-- A die that did not follow a clock step (R403): the code it still runs at, halved for a step down. -/
structure Apart where
  code : Nat := 0
  halved : Bool := false
  deriving DecidableEq, Repr

/-- Stretch commands on a region, one period in n, 0 for none (R399). -/
structure Stretch where
  vcore : Nat := 0
  vpho : Nat := 0
  package : Nat := 0
  /-- The n obeyed before the last window ended. -/
  before : Nat := 0
  deriving DecidableEq, Repr

/-- Replica readings of a region (R406): the smallest reading of each frame that had one, newest last. -/
structure Replica where
  readings : List (Nat × Nat) := []
  warnedAt : Option Nat := none
  critical : Bool := false
  deriving DecidableEq, Repr

/-- The clocks. -/
structure Clk where
  /-- Code in force for the package (0x2800:02). -/
  inForce : Nat := 0x14
  /-- Code announced in the last tick word (R401). -/
  announced : Option Nat := none
  /-- Target of a VCORE ramp, and when it ends (R402). -/
  ramp : Option (Nat × Nat) := none
  /-- Code VCORE is set for. -/
  vcore : Nat := 0x14
  /-- Code the hub loops run at; no clock before step 5. -/
  running : Bool := false
  /-- Dies whose standby loop has locked to the announced code, and those that have failed to. -/
  locked : List Nat := []
  lockFailed : List Nat := []
  apart : Tab Apart := []
  /-- Dies whose active loop is PLL-B (R387). -/
  loopB : List Nat := []
  capLimit : Option Nat := none
  replicaLimit : Option Nat := none
  /-- Since when no critical reading has been seen, while a replica limit is in force. -/
  replicaCalm : Option Nat := none
  debt : Tab Nat := []
  references : Tab Reference := []
  stretches : Tab Stretch := []
  replicas : Tab Replica := []
  /-- Crossings to realign at the next tick: 4 × (12 × tower + cluster) + port. -/
  realign : List Nat := []
  /-- Since when no rail has been over cap, while a cap limit is in force (R417). -/
  capCalm : Option Nat := none
  /-- Dies whose region clock generators have aligned since power-up (R390). -/
  aligned : List Nat := []
  /-- REFCLK has been absent since, and the tick words it has stopped (R582). -/
  refclkLost : Option Nat := none
  ticksHeld : Option Bool := none
  deriving DecidableEq, Repr

end Sys2Proof.Machine
end

