-- ==== Sys2Proof/Machine/BlkCompute.lean ====
section
/-! DEFINITION. State of the compute dies: scratchpads, arbitration, routes, engines and vector lanes
(R61 to R124). Clusters are keyed by 12 × tower + cluster. -/

namespace Sys2Proof.Machine

/-- One read answered by a bank port: owner code, offset, data, poison marker and busy flag. -/
structure SpadAnswer where
  owner : Nat
  offset : Nat
  data : Bytes
  poisoned : Bool
  busy : Bool
  deriving DecidableEq, Repr

/-- An uncorrectable word seen by a bank (R84). -/
structure BadWord where
  cluster : Nat
  bank : Nat
  word : Nat
  frame : Nat
  deriving DecidableEq, Repr

/-- Lines a router has sent poisoned on one of its outputs: after a parity failure in a phase (R94), or across a faulty
crossing in whichever phase runs (R396). -/
structure PoisonedRun where
  cluster : Nat
  port : Nat
  phase : Option Nat
  first : Nat
  lines : Nat
  deriving DecidableEq, Repr

/-- The scratchpads (R69 to R85). -/
structure Spad where
  /-- Bytes by 2^28 × tower + scratchpad address. An unlisted byte is zero (R83), or undefined where `undef`
  lists its unit. -/
  bytes : Tab (Option Byte) := []
  /-- Units of 128 KiB whose unlisted bytes are undefined (R74, R134), with the number of the free values. -/
  undef : Tab Nat := []
  /-- Poisoned 64-byte words, by byte key / 64. -/
  poison : Tab Bool := []
  /-- Clusters whose clearing has ended: masters have access (R83). -/
  ready : Tab Bool := []
  /-- Clusters with power. -/
  powered : Tab Bool := []
  /-- Bank map in force (R73), 32 bytes; empty before the first load. -/
  maps : Tab Bytes := []
  /-- Pen mode in force (R74). -/
  penModes : Tab Nat := []
  /-- Rotating pointer of a bank port (R76), by (cluster × 56 + bank) × 2 + port. -/
  pointers : Tab Nat := []
  /-- Accesses that lost and compete again (R76), by the same key. -/
  held : Tab (List SpadAccess) := []
  /-- A read on port B that a collision re-issues in the next cycle (R79), by cluster × 56 + bank. -/
  reissue : Tab (Option SpadAccess) := []
  /-- Accesses answered by the last access cycle: reads, and a write that received the busy flag. -/
  answers : List SpadAnswer := []
  badWords : List BadWord := []
  /-- NVM: retired banks, one mask per cluster (R84). -/
  retired : Tab Nat := []
  /-- Route table of the running task (R89). -/
  routes : Tab (List (BitVec 64)) := []
  /-- Poisoned lines routers send on: for a running task, and until the next tick for a crossing (R94, R396). -/
  poisonedLines : List PoisonedRun := []
  deriving DecidableEq, Repr

/-- The engines and vector lanes (R64, R105). -/
structure Arith where
  /-- Accumulators by (((cluster × 6 + core) × 4 + engine) × 32 + row) × 16 + column: FP32 or INT32 bits. -/
  acc : Tab (BitVec 32) := []
  accPoison : Tab Bool := []
  /-- Generators by (cluster × 2 + core) × 64 + lane. -/
  lanes : Tab (BitVec 32) := []
  /-- What task code has left in the registers of a cluster's scalar core (32 of 64 bits, R66) and vector cores: the
  number of their free values, 0 while none has run since the cluster powered up. -/
  registers : Tab Nat := []
  /-- Steps issued and skipped; 0x3440:01 and :02 show them in units of 65,536. -/
  issued : Nat := 0
  skipped : Nat := 0
  deriving DecidableEq, Repr

end Sys2Proof.Machine
end

