-- ==== Sys2Proof/Machine/BlkFabric.lean ====
section
/-! DEFINITION. State of the rack memory fabric (R346 to R383). -/

namespace Sys2Proof.Machine

/-- A fabric packet: the 32-byte header as stored, and its payload (R355, R356). -/
structure FabricPacket where
  header : BitVec 256
  data : Bytes := []
  deriving DecidableEq, Repr

/-- A packet that left on a port, and the moment. -/
structure FabricSent where
  port : Nat
  packet : FabricPacket
  time : Nat
  deriving DecidableEq, Repr

/-- A packet a switch holds: for a settle time (R351), or for a credit (R358). -/
structure FabricHeld where
  port : Nat
  dest : Nat
  /-- Held until this moment by a route change; none when it only waits for a credit. -/
  until_ : Option Nat := none
  packet : FabricPacket
  arrived : Nat := 0
  /-- Base die of the port it arrived on; none for a packet of this package. -/
  origin : Option Nat := none
  deriving DecidableEq, Repr

/-- What becomes of an outstanding request at its next expiry or answer. -/
inductive ReqPhase where
  | sent
  /-- A RETRY was answered; issued again at this moment, with this delay (R373). -/
  | backoff (at_ delay : Nat)
  /-- An ATOMIC answered XLATE_FAULT whose tag stays outstanding (R596). -/
  | faulted
  /-- Lost in a base-die reset: PATH_RESET in place of TARGET_DEAD at the end (R376). -/
  | lost
  deriving DecidableEq, Repr

/-- An outstanding request (R373). -/
structure FabricReq where
  tower : Nat
  engine : Nat
  tag : BitVec 16
  packet : FabricPacket
  target : Nat
  job : BitVec 16
  firstSend : Nat
  deadline : Nat
  expiries : Nat := 0
  phase : ReqPhase := .sent
  /-- Consecutive RETRY answers. -/
  retries : Nat := 0
  deriving DecidableEq, Repr

/-- A reply cache entry (R371). -/
structure ReplyEntry where
  source : Nat
  sequence : BitVec 16
  code : Nat
  old : Nat
  time : Nat
  deriving DecidableEq, Repr

/-- Classes of combinable requests (R363). -/
inductive CombineClass where
  | read | store | atomic
  deriving DecidableEq, Repr

/-- A combiner entry, open or closed, or a lone request (R363 to R365). -/
structure CombineEntry where
  port : Nat
  class_ : CombineClass
  job : BitVec 16
  secure : Bool
  address : Nat
  kind : Nat := 0
  combinable : Bool := true
  opened : Nat
  /-- When its window ends, and when it closed. -/
  ends : Nat
  closedAt : Nat := 0
  /-- This package's stamp as the first member arrived (R60). -/
  arrived : BitVec 64 := 0
  members : List FabricPacket
  /-- Duplicates attached to a member: its index and the packet (R372). -/
  attached : List (Nat × FabricPacket) := []
  deriving DecidableEq, Repr

/-- A rate limiter (R362), in bytes per second. -/
structure Limiter where
  target : Nat
  rate : Nat
  lastUse : Nat
  lastCut : Option Nat := none
  /-- Start of the present 10 µs, and whether an echo came in it. -/
  window : Nat := 0
  echoed : Bool := false
  /-- When the next request may leave. -/
  free : Nat := 0
  deriving DecidableEq, Repr

/-- A port direction's encryption (R379 to R382). -/
structure PortCrypt where
  /-- Key generation in force, 0 before the first. -/
  generation : Nat := 0
  /-- DATA flits sent or received under the key. -/
  count : Nat := 0
  /-- A switch announced: the count at which the new key takes effect. -/
  switchAt : Option Nat := none
  tagFails : List Nat := []
  deriving DecidableEq, Repr

/-- A port's neighbour (0x5000:07). -/
structure Neighbour where
  id : BitVec 16 := 0
  port : Nat := 0
  last : Option Nat := none
  alive : Bool := false
  deriving DecidableEq, Repr

/-- A fabric notice (R377): job, target, code, stamp. -/
structure FabricNotice where
  job : BitVec 16
  target : Nat
  code : Nat
  stamp : BitVec 64
  time : Nat
  deriving DecidableEq, Repr

/-- The rack fabric. -/
structure Fab where
  sent : List FabricSent := []
  held : List FabricHeld := []
  /-- Until when a destination's new port is held back. -/
  settling : Tab Nat := []
  /-- Buffers of the next hop in use, by 4 × port + channel. -/
  used : Tab Nat := []
  /-- Buffers freed here and not yet returned, by 4 × port + channel, and since when by port. -/
  freed : Tab Nat := []
  owed : Tab Nat := []
  /-- When each port last sent HELLO, plus one. -/
  helloSent : Tab Nat := []
  /-- When each partition's job was last unbound, plus one (R486). -/
  unbound : Tab Nat := []
  outstanding : List FabricReq := []
  /-- Next atomic sequence by target, and first sends by 65536 × target + sequence (R369). -/
  sequences : Tab (BitVec 16) := []
  firstSends : Tab Nat := []
  replies : List ReplyEntry := []
  /-- Last clearing of each quarter (R371). -/
  cleared : Tab Nat := []
  entries : List CombineEntry := []
  /-- Order in which closed entries and lone requests are applied. -/
  ready : List CombineEntry := []
  /-- Limiters by tower. -/
  limiters : Tab (List Limiter) := []
  notices : List FabricNotice := []
  neighbours : Tab Neighbour := []
  /-- Encryption by 2 × port + direction (0 sends, 1 receives). -/
  crypt : Tab PortCrypt := []
  /-- Partitions whose slots behave as OPEN after a teardown (R378). -/
  openSlots : List Nat := []
  /-- Teardowns that reach the runs at the next tick. -/
  teardowns : List Nat := []
  deriving DecidableEq, Repr

end Sys2Proof.Machine
end

