-- ==== Sys2Proof/Machine/BlkFrame.lean ====
section
/-! DEFINITION. State of the frame: the Rooster and the tick receivers (R32 to R43). -/

namespace Sys2Proof.Machine

/-- The tick receiver of one tower (R39 to R42). -/
structure Receiver where
  /-- In frame lock (0x3000:04). -/
  locked : Bool := false
  /-- Has locked at least once at the current start. -/
  everLocked : Bool := false
  /-- In tick loss (R41). -/
  lost : Bool := false
  /-- Consecutive agreeing words toward lock, 0 to 16. -/
  good : Nat := 0
  /-- Consecutive missed ticks. -/
  missed : Nat := 0
  /-- The flywheel (R40): the frame number and the base cycle it predicts for the next boundary, and the length code of
  the frame now open, taken from its tick word (R36). -/
  next : Nat := 0
  due : Nat := 0
  code : BitVec 2 := 2
  /-- The frame number and the base cycle at which the next word agrees with the words counted toward lock. -/
  lockNext : Nat := 0
  lockDue : Nat := 0
  /-- The tower's first optical boundary of this start has passed (R42, R539). -/
  optical : Bool := false
  deriving DecidableEq, Repr

/-- Whether the Rooster sends tick words, and of which kind (R538, R539). -/
inductive Ticks where
  | off | provisional | optical
  deriving DecidableEq, Repr

/-- The Rooster and what it has announced. -/
structure Frame where
  ticks : Ticks := .off
  /-- Always-on: number of the frame now open (R3, R43). -/
  number : Nat := 0
  /-- Frames opened since this start, provisional ones included (the model's own). -/
  count : Nat := 0
  /-- Base cycle at which the frame now open began. -/
  start : Nat := 0
  /-- Frame length code in force. -/
  code : BitVec 2 := 2
  /-- A code accepted and not yet in force, with the frame that opens at it (R36). -/
  pending : Option (BitVec 2 × Nat) := none
  /-- Always-on: the code in force when the previous start ended, and the count then: the frame and its start (R36). -/
  heldCode : BitVec 2 := 2
  heldNumber : Nat := 0
  heldStart : Nat := 0
  /-- Always-on: 0x3000:03. -/
  changePoint : BitVec 64 := 0
  /-- The package's first optical boundary of this start has passed (R42). -/
  optical : Bool := false
  /-- The last tick word sent (R38). -/
  word : BitVec 128 := 0
  /-- The first optical word of this start has been sent. -/
  firstSent : Bool := false
  /-- Always-on: frames have been numbered since the domain was powered up. -/
  counted : Bool := false
  receivers : Tab Receiver := []
  deriving DecidableEq, Repr

end Sys2Proof.Machine
end

