-- ==== Sys2Proof/Machine/BlkHen.lean ====
section
/-! DEFINITION. State of the event recorder, Hen (R556 to R566). -/

namespace Sys2Proof.Machine

/-- An event as its block raises it: the code (R9), the items of its payload with `none` for an item that
does not apply (R559), and the moment. -/
structure Event where
  code : BitVec 16
  items : List (Option Bytes)
  time : Nat
  beforeOptical : Bool := false
  byLoader : Bool := false
  deriving DecidableEq, Repr

/-- A record of R557. -/
structure Record where
  seq : BitVec 32 := 0
  code : BitVec 16 := 0
  flags : BitVec 8 := 0
  suppressed : BitVec 16 := 0
  absent : BitVec 16 := 0
  payload : Bytes := []
  /-- Of the suppressed field, what its own code's count gave (R564). -/
  carried : Nat := 0
  deriving DecidableEq, Repr

/-- The token bucket of one event code (R562): the tokens it lacks of N, its suppressed count. -/
structure Bucket where
  missing : Nat := 0
  suppressed : Nat := 0
  /-- When the step to its next token began. -/
  since : Nat := 0
  deriving DecidableEq, Repr

/-- The recorder. -/
structure Hen where
  /-- Events raised that have not reached Hen yet. -/
  arriving : List Event := []
  /-- The ring (R560): slot to the 32 bytes of a record. -/
  ring : Tab Bytes := []
  nextSeq : BitVec 32 := 0
  inputQueue : List Record := []
  priorityQueue : List Record := []
  overflow : Nat := 0
  suppressedTotal : Nat := 0
  lostTotal : Nat := 0
  /-- Records lost to a full queue since the last record accepted into the input queue (R563). -/
  lostSinceAccepted : Nat := 0
  buckets : Tab Bucket := []
  frozen : Bool := false
  freezeBuffer : List Record := []
  /-- The next sequence as it stood at the freeze, which 0x6800:01 shows (R564). -/
  frozenNext : BitVec 32 := 0
  lostInFreeze : Nat := 0
  freezeStart : Nat := 0
  /-- NVM: the critical log (R566), its next slot, entries written and the start number. -/
  nvmLog : Tab Bytes := []
  nvmNext : Nat := 0
  nvmWritten : Nat := 0
  startNumber : Nat := 0
  /-- Moments of the copies made to NVM in the last second (R566). -/
  copies : List Nat := []
  /-- U32 counters that have saturated in this start (R568), by dictionary entry. -/
  saturated : List Nat := []
  deriving DecidableEq, Repr

end Sys2Proof.Machine
end

