-- ==== Sys2Proof/Machine/BlkHost.lean ====
section
/-! DEFINITION. State of the host link: functions, queue sets, interrupts, requests (R490 to R506). -/

namespace Sys2Proof.Machine

/-- A queue set (R498). Positions are free-running 32-bit counts. -/
structure QueueSet where
  gqBase : Nat := 0
  gqSize : Nat := 0
  queueStart : BitVec 32 := 0
  gqTail : BitVec 32 := 0
  gqHead : BitVec 32 := 0
  cqBase : Nat := 0
  cqSize : Nat := 0
  cqTail : BitVec 32 := 0
  cqHead : BitVec 32 := 0
  fqBase : Nat := 0
  fqTail : BitVec 32 := 0
  fqHead : BitVec 32 := 0
  shadowBase : Nat := 0
  vectors : BitVec 32 := 0
  enabled : Bool := false
  halted : Bool := false
  error : Nat := 0
  /-- Records that found the completion ring full (R500). -/
  hold : List Bytes := []
  /-- Entries fetched and not yet performed: position and entry. -/
  fetched : List (BitVec 32 × BitVec 512) := []
  /-- Moments of the last completion and fault messages, and messages held by moderation. -/
  lastCompletion : Option Nat := none
  lastFault : Option Nat := none
  heldCompletion : Bool := false
  heldFault : Bool := false
  deriving DecidableEq, Repr

/-- The function block of R505 and the function's interrupt table (R502). -/
structure FunctionBlock where
  notifyStatus : Nat := 0
  notifyMask : Nat := 0
  notifyVector : Nat := 0
  /-- Vectors that are not masked, and pending messages. -/
  unmasked : List Nat := []
  waiting : List Nat := []
  atomicEnable : Bool := false
  relaxed : Bool := false
  idOrder : Bool := false
  deriving DecidableEq, Repr

/-- Kinds of posted write (R503). -/
inductive PostedKind where
  | data | record | faultRecord | shadow | message
  deriving DecidableEq, Repr

/-- A posted write to the host: requester function, address, data, EP and attributes. -/
structure HostWrite where
  function : Nat
  kind : PostedKind
  address : Nat
  data : Bytes
  poisoned : Bool := false
  relaxed : Bool := false
  idOrder : Bool := false
  deriving DecidableEq, Repr

/-- What an outstanding host read is for. -/
inductive ReadFor where
  | descriptor (tower engine : Nat) (position : Nat)
  | atomic (tower engine : Nat) (position : Nat)
  | image (partition : Nat)
  | bindings (partition : Nat)
  deriving DecidableEq, Repr

/-- An outstanding host read or AtomicOp. -/
structure HostRead where
  tag : Nat
  function : Nat
  address : Nat
  length : Nat
  for_ : ReadFor
  deriving DecidableEq, Repr

/-- Completions given to host requests (R497). -/
inductive TlpStatus where
  | successful | unsupported | aborted | retry
  deriving DecidableEq, Repr

/-- A completion sent to the host. -/
structure TlpAnswer where
  function : Nat
  status : TlpStatus
  data : Bytes := []
  poisoned : Bool := false
  deriving DecidableEq, Repr

/-- A BAR2 access: its data and EP when it writes. -/
structure BarAccess where
  function : Nat
  offset : Nat
  length : Nat
  write : Option (Bytes × Bool)
  deriving DecidableEq, Repr

/-- The host link. -/
structure HostLink where
  queues : Tab QueueSet := []
  functions : Tab FunctionBlock := []
  /-- Layout in force: true for x8/x8 (R491). -/
  split : Bool := false
  /-- Ports A (0) and B (1): reset released, up, and rate, width and mode as trained. -/
  released : Tab Bool := []
  up : Tab Bool := []
  trained : Tab Nat := []
  writes : List HostWrite := []
  reads : List HostRead := []
  nextTag : Nat := 0
  answers : List TlpAnswer := []
  eid : BitVec 8 := 0
  /-- MCTP control answers sent: command code and response bytes. -/
  mctpSent : List (Nat × Bytes) := []
  deriving DecidableEq, Repr

end Sys2Proof.Machine
end

