-- ==== Sys2Proof/Machine/BlkLanes.lean ====
section
/-! DEFINITION. State of the lane layer: links, replay and reorder buffers, eye estimates (R268 to R296). Links
are numbered as in 0x4020:01: 0 to 7 the ports, 8 TW, 16 + ((d × 8 + w) × 12 + s) the path from Ts into Td on
plane w. -/

namespace Sys2Proof.Machine

/-- What the line code of one direction keeps (R271 to R273): the scrambler, the active lane that gets the next symbol, and
by lane the level and length of the run on it. -/
structure Line where
  scrambler : BitVec 58 := BitVec.allOnes 58
  dealt : Nat := 0
  runs : Tab (Nat × Nat) := []
  deriving DecidableEq, Repr

/-- A receiver's block alignment (R276): the candidate header position, valid headers in a row, the number of the next
block of a flit, and of the last 64 headers after lock which were invalid. -/
structure Hunt where
  candidate : Nat := 0
  inRow : Nat := 0
  block : Nat := 0
  recent : List Bool := []
  deriving DecidableEq, Repr

/-- A DATA flit the transmitter holds until it is acknowledged (R280). -/
structure TxFlit where
  seq : Nat
  /-- Offset of the first packet or slot header that begins in its data; 0xFFFF when none does. -/
  first : Nat
  data : Bytes
  /-- When it was last sent, and how often it has been retransmitted. -/
  sentAt : Nat
  tries : Nat := 0
  deriving DecidableEq, Repr

/-- A transmit direction. -/
structure LinkTx where
  next : Nat := 0
  unacked : List TxFlit := []
  /-- Data of flits that wait for the window, or for the partner's first LINK_INFO. -/
  waiting : List (Bool × Bytes) := []
  /-- Sequences to retransmit in the next open grants (crossbar). -/
  again : List Nat := []
  /-- The Nak that persists, and when its flit was last retransmitted. -/
  nak : Option Nat := none
  nakAt : Nat := 0
  /-- DATA flits have started. -/
  dataOn : Bool := false
  /-- The training pattern is sent on every active lane, until the block stream begins at the moment named (R277). -/
  pattern : Bool := false
  streamAt : Nat := 0
  line : Line := {}
  /-- Symbols of the last flit sent, by lane, stuff symbols among them (R272, R273). -/
  symbols : List (Nat × List Nat) := []
  /-- Width code in use: 0 full, 1 lower half, 2 upper half; and the one the partner has asked for. -/
  width : Nat := 0
  asked : Option Nat := none
  /-- Steps of the taps from the board table, by 2 × lane + (0 pre-cursor, 1 post-cursor). -/
  taps : Tab Int := []
  /-- Steps to apply at the next frame boundary: lane and step code. -/
  steps : List (Nat × Nat) := []
  deriving DecidableEq, Repr

/-- A receive direction. -/
structure LinkRx where
  expected : Nat := 0
  /-- A flit has been received since the sequence numbers began. -/
  got : Bool := false
  reorder : List (Nat × Bytes) := []
  /-- A flit failed its CRC, or a gap is open: the lowest missing sequence is sent as Nak. -/
  naking : Bool := false
  /-- Deskew of the lanes in symbols, as the last training measured it (R277), and the line code. -/
  skews : List Int := []
  line : Line := {}
  /-- Crossbar: the slot header that delivery stands in, its bytes still to come, and the bytes of an open packet
  that has begun. -/
  header : Option (BitVec 128) := none
  left : Nat := 0
  bytes : Bytes := []
  deriving DecidableEq, Repr

/-- A link's receive side. -/
structure LinkRec where
  /-- 0 down, 1 training or recovery, 2 full width, 3 narrowed. -/
  state : Nat := 0
  /-- Half in use when narrowed: 0 lower, 1 upper. -/
  half : Nat := 0
  /-- Loop-back: 0 none, 1 near-end parallel, 2 near-end serial, 3 far-end; and a far-end one run for the partner. -/
  loop : Nat := 0
  partnerLoop : Bool := false
  failing : List Nat := []
  /-- Carries traffic: from its first DATA until it goes down. -/
  up : Bool := false
  locked : Bool := false
  lockedAt : Nat := 0
  hunt : Hunt := {}
  /-- A LINK_INFO of the partner has arrived since training began. -/
  infoSeen : Bool := false
  trainingAt : Nat := 0
  attempts : Nat := 0
  /-- When recoveries began. -/
  recoveries : List Nat := []
  /-- Taken out of service by 0x4020:09. -/
  out : Bool := false
  /-- Width in force: 0 full, 1 lower half, 2 upper half; and the one asked of the transmitter by the last LINK_INFO
  sent. -/
  width : Nat := 0
  ask : Nat := 0
  /-- What the last frame lock measured of a path: its launch offset in picoseconds, the opening of its receive window, and
  its skews (R220, R250, R278). -/
  measured : BitVec 64 := 0
  /-- Narrows at the next frame boundary (crossbar): the half. -/
  narrow : Option Nat := none
  deriving DecidableEq, Repr

/-- One lane's eye (R287, R288, R291), by 64 × link + lane. -/
structure Eye where
  /-- In units of 0.01 decade below zero: 0 to 2,000. -/
  estimate : Nat := 2000
  /-- How many estimates in a row were worse than the one before, and at or above −1,200. -/
  worse : Nat := 0
  high : Nat := 0
  /-- Frame of the last tap request. -/
  lastRequest : Option Nat := none
  /-- Steps asked for since the board-table taps: pre-cursor and post-cursor. -/
  pre : Int := 0
  post : Int := 0
  deriving DecidableEq, Repr

/-- A full eye scan (R289). -/
structure Scan where
  link : Nat
  ends : Nat
  deriving DecidableEq, Repr

/-- The lane layer. -/
structure Lanes where
  links : Tab LinkRec := []
  tx : Tab LinkTx := []
  rx : Tab LinkRx := []
  eyes : Tab Eye := []
  /-- Flits sent on the ports and TW: link and the 256 bytes. -/
  sent : List (Nat × Bytes) := []
  /-- Tap requests sent over the mesh: path, lane, step. -/
  tapWords : List (Nat × Nat × Nat) := []
  scan : Option Scan := none
  scanResult : Bytes := []
  /-- Data that the ports and TW have delivered in sequence: link and the bytes of a flit. -/
  delivered : List (Nat × Bytes) := []
  loopChecked : Nat := 0
  loopErrors : Nat := 0
  deriving DecidableEq, Repr

end Sys2Proof.Machine
end

