-- ==== Sys2Proof/Machine/BlkLaser.lean ====
section
/-! DEFINITION. State of the lasers, rings and calibration (R298 to R320). Lasers and lambs are keyed by 36 × flock +
index, the lambs being 32 to 35. A guide is an egress waveguide of a tower flock, or 2 × (port mod 2) + fiber of a
port flock. -/

namespace Sys2Proof.Machine

/-- A laser or lamb: its record of 0x4400:01 and its samples. -/
structure Source where
  /-- State code of 0x4400:01; `none` before it has left the state of a new package. -/
  state : Option Nat := none
  /-- P_c taken at the first lock (R306). -/
  ownPower : Option Nat := none
  /-- Samples of the last 10 ms, or the last 64: moment and µW, oldest first. -/
  samples : List (Nat × Nat) := []
  /-- Lane carried, for a lamb. -/
  lane : Option Nat := none
  /-- Nanoseconds lit. -/
  lit : Nat := 0
  /-- r has fallen to the warning threshold once; it reads dark; event 0x4406 has been raised for it. -/
  warned : Bool := false
  dark : Bool := false
  exhausted : Bool := false
  deriving DecidableEq, Repr

/-- Where a sparing stands (R302, R304). -/
inductive SparePhase where
  /-- The lamb is being tuned. -/
  | tuning
  /-- Locked; the duplicate frame, or the switch-over, begins at the boundary named. -/
  | armed
  /-- In the duplicate frame, before the decision. -/
  | duplicate
  /-- Passed: switches at the boundary that ends the duplicate frame; true when nothing passed in 16 frames. -/
  | pass (uncompared : Bool)
  /-- Waits for its base die (R320). -/
  | base
  deriving DecidableEq, Repr

/-- A sparing in progress. -/
structure Sparing where
  flock : Nat
  /-- The laser or lamb that is spared, and the lamb that takes over, 0 to 3. -/
  source : Nat
  lamb : Nat
  lane : Nat
  fast : Bool
  phase : SparePhase := .tuning
  /-- Frame that opens at B1. -/
  b1 : Nat := 0
  /-- Duplicate frames so far. -/
  tries : Nat := 0
  /-- Reports: receiver, compared, mismatches. -/
  reports : List (Nat × Nat × Nat) := []
  deriving DecidableEq, Repr

/-- A parked channel (R311). -/
structure Parked where
  flock : Nat
  guide : Nat
  lane : Nat
  lamb : Nat
  /-- Frame at whose opening it is carried on the spare, and at whose opening it returns. -/
  from_ : Nat
  returns : Option Nat := none
  deriving DecidableEq, Repr

/-- A recalibration pass of a lane (R318). -/
structure Pass where
  flock : Nat
  lane : Nat
  lamb : Nat
  /-- Frame 0 of the pass. -/
  frame : Nat
  entries : List (BitVec 64)
  onSpare : Bool := false
  abandoned : Bool := false
  deriving DecidableEq, Repr

/-- A change of carrier that a receiving hub has been told of (R303). -/
structure Carrier where
  receiver : Nat
  source : Nat
  lane : Nat
  /-- Spare position plus one; 0 for the lane's own wavelength. -/
  carrier : Nat
  /-- Bits [15:0] of the frame at whose opening it takes effect. -/
  frame : Nat
  mask : Nat
  duplicate : Bool
  deriving DecidableEq, Repr

/-- A ring's loop (R310, R311). Frequencies in MHz, temperatures in 0.1 °C. -/
structure RingLoop where
  heater : Int := 0
  fine : Int := 0
  temperature : Option Int := none
  /-- Consecutive samples beyond 30 GHz, and within 5 GHz. -/
  high : Nat := 0
  low : Nat := 0
  out : Bool := false
  outAt : Nat := 0
  deriving DecidableEq, Repr

/-- An NVM copy of a calibration record (R317). -/
structure CalRecord where
  valid : Bool := false
  sequence : Nat := 0
  stamp : BitVec 64 := 0
  rref : BitVec 16 := 0
  entries : List (BitVec 64) := []
  deriving DecidableEq, Repr

/-- A pattern or a dark marker that a port has sent (R305): for a lane that goes to a spare position, or back. -/
structure Mark where
  dark : Bool
  back : Bool
  port : Nat
  fiber : Nat
  lane : Nat
  spare : Nat
  deriving DecidableEq, Repr

/-- Lasers, rings and calibration. -/
structure Las where
  /-- NVM: retirement, lambs standing in, hours and commissioning records. -/
  sources : Tab Source := []
  /-- Lasers are lit (step 6 of the start). -/
  on : Bool := false
  sparings : List Sparing := []
  parked : List Parked := []
  /-- Channels out of band for which no spare position could be had: flock, guide, lane. -/
  unparked : List (Nat × Nat × Nat) := []
  passes : List Pass := []
  /-- Periodic passes so far, when the last one began, and the last one each lane, by 32 × flock + lane, has had or has been
  deferred from. -/
  passCount : Nat := 0
  passBegan : Nat := 0
  lanePass : Tab Nat := []
  /-- Spare position plus one that carries a lane, by (8 × flock + guide) × 32 + lane. -/
  sendOn : Tab Nat := []
  /-- The same at the receiving hubs, by ((12 × receiver + source) × 8 + plane) × 32 + lane, and at the port
  receivers, by 64 × port + lane. -/
  takeFrom : Tab Nat := []
  portTake : Tab Nat := []
  carriers : List Carrier := []
  /-- Notice and report words sent: sender and word. -/
  words : List (Nat × BitVec 64) := []
  marks : List Mark := []
  /-- The tick source changes at the next boundary of slot 0x80; true when the old one is retired (R309). -/
  tickSwap : Option Bool := none
  rings : Tab RingLoop := []
  /-- Rings that did not lock in this start, until the first frame lock (R312). -/
  unlocked : List Ring := []
  /-- Tap entries in force, by base die × 2^24 + bits [63:40] (R315), and the temperature each base die's corrections
  were last evaluated at (R316). -/
  corrections : Tab (BitVec 64) := []
  appliedAt : Tab (Option Int) := []
  /-- NVM: the copies by 2 × base + copy; base dies with a record in use, and those on the factory record. -/
  records : Tab CalRecord := []
  onRecord : List Nat := []
  onFactory : List Nat := []
  /-- Base dies whose record is to be written, and the stamp of the last commit. -/
  dirty : List Nat := []
  lastCommit : BitVec 64 := 0
  /-- RREF: deviation from 2,000 Ω in 0.01 Ω at the last measurement, the scaling kept, and a fault. -/
  rref : Option (BitVec 16) := none
  scaling : BitVec 16 := 0
  /-- The ratios of the local references of B1 to B3 to the calibration current, at the last good measurement (R313). -/
  ratios : List (BitVec 64) := []
  rrefFault : Bool := false
  /-- NVM: switch-overs since commissioning (0x4400:06). -/
  switchOvers : Nat := 0
  deriving DecidableEq, Repr

end Sys2Proof.Machine
end

