-- ==== Sys2Proof/Machine/BlkMemory.lean ====
section
/-! DEFINITION. State of translation, DMA, the read-coherent class and the stacked DRAM (R163 to R212). -/

namespace Sys2Proof.Machine

/-- A cached leaf (R169): page number in units of its size, level of the leaf, and the entry. -/
structure Leaf where
  partition : Nat
  level : Nat
  page : Nat
  entry : BitVec 64
  deriving DecidableEq, Repr

/-- A cached non-leaf entry: the table it was read for, and its content. -/
structure WalkLine where
  partition : Nat
  level : Nat
  index : Nat
  entry : BitVec 64
  deriving DecidableEq, Repr

/-- What an access needs of a leaf. -/
inductive Kind where
  | read | write | atomic
  deriving DecidableEq, Repr

/-- What a descriptor waits for. -/
inductive Wait where
  | none
  /-- A walk for this device virtual address and access. -/
  | walk (address : Nat) (kind : Kind)
  /-- The response to an open packet or fabric request with this tag, or to a host request. -/
  | openTag (tag : BitVec 16)
  | fabric (tag : BitVec 16)
  | host (tag : Nat)
  /-- Issued again at this moment after RETRY (R158); the backoff doubles up to 16 µs. -/
  | backoff (at_ : Nat) (delay : Nat)
  /-- A drained stack, a draining base die or a reset path. -/
  | stack (tower : Nat)
  | base (die : Nat)
  /-- The READ of a table entry on another tower (R166, R236): its tag, the address walked for and the access, and the
  level of the entry. -/
  | table (tag : BitVec 16) (address : Nat) (kind : Kind) (level : Nat)
  /-- The read-cache fill with this tag (R180). -/
  | fill (tag : BitVec 16)
  /-- Read-coherent invalidations to acknowledge before the write completes (R179): the number of the write. -/
  | invalidation (write : Nat)
  /-- A cluster's scratchpad that has not been cleared (R83). -/
  | clearing (cluster : Nat)
  /-- An atomic that may not be sent yet (R369). -/
  | sequence (target : Nat)
  deriving DecidableEq, Repr

/-- State of a descriptor (R173, byte 0x05). -/
inductive DescState where
  | queued | active | parked | done
  deriving DecidableEq, Repr

/-- A DMA descriptor in an engine's queue. -/
structure Desc where
  /-- The 64 bytes as issued. -/
  raw : BitVec 512
  partition : Nat
  run : BitVec 32
  state : DescState := .queued
  code : Nat := 0
  cursorRows : Nat := 0
  cursorBytes : Nat := 0
  faultAddress : Nat := 0
  wait : Wait := .none
  /-- Place in the order in which descriptors were issued. -/
  order : Nat := 0
  /-- Issued by the hub itself for a skipped task (R143). -/
  own : Bool := false
  /-- Pages translated for it: each is translated once (R172). -/
  pages : List Leaf := []
  /-- Bytes of the current piece already read, with their poison, while its write is to follow. -/
  chunk : Option (Bytes × Bool) := none
  /-- Length and source or destination address of the access in flight, and whether the side taken up last reads. -/
  len : Nat := 0
  place : Nat := 0
  reading : Bool := false
  /-- Tag of the fault record it waits on. -/
  record : Option (BitVec 16) := none
  poison : Bool := false
  corrected : Bool := false
  /-- Stores whose outcome is unknown (R159 flag 7). -/
  unknown : Bool := false
  /-- Consecutive RETRY answers, for the backoff. -/
  retries : Nat := 0
  /-- Tag of a fabric atomic that was answered XLATE_FAULT and stays outstanding (R596). -/
  heldTag : Option (BitVec 16) := none
  /-- Code of that atomic, when its answer came while the fault record was open. -/
  settled : Option Nat := none
  deriving DecidableEq, Repr

/-- A fault record that awaits a response, or is held during a save (R183 to R189). -/
structure FaultRecord where
  partition : Nat
  tag : BitVec 16
  address : Nat
  cause : Nat
  kind : Kind
  level : Nat
  tower : Nat
  cluster : Nat
  engine : Nat
  opcode : Nat
  run : BitVec 32
  task : Nat
  remote : Nat
  stamp : BitVec 64
  attached : Nat
  /-- Frames of RUNNING counted (R187). -/
  frames : Nat := 0
  /-- Held until the save completes. -/
  held : Bool := false
  /-- A response stored with the context: true for RETRY. -/
  stored : Option Bool := none
  /-- Lost to a full queue after a save (R188). -/
  lost : Bool := false
  deriving DecidableEq, Repr

/-- An invalidation asked for by 0x3880:10 or a root write (R170). -/
structure Invalidation where
  partition : Nat
  page : Nat
  size : Nat
  deriving DecidableEq, Repr

/-- A read-cache line (R178). -/
structure CacheLine where
  line : Nat
  data : Bytes
  poisoned : Bool
  deriving DecidableEq, Repr

/-- A fill on its way to a tower; `stale` when an invalidation of its block arrived meanwhile (R180). -/
structure Fill where
  tower : Nat
  line : Nat
  tag : BitVec 16 := 0
  stale : Bool := false
  deriving DecidableEq, Repr

/-- Invalidations a home waits for: block of 4 KiB, sharers still to answer, when sent (R179), and the answers
that go out when the write has completed: open packets by receiver, and fabric requests with their codes. -/
structure Inval where
  /-- The number of the write. -/
  write : Nat
  home : Nat
  block : Nat
  waiting : List Nat
  sent : Nat
  owedOpen : List (Nat × OpenPacket) := []
  owedFabric : List (BitVec 256 × Nat × Bytes) := []
  deriving DecidableEq, Repr

/-- Translation and DMA. -/
structure Dma where
  leaves : Tab (List Leaf) := []
  walkLines : Tab (List WalkLine) := []
  invalidations : List Invalidation := []
  /-- Engine queues by 16 × tower + engine. -/
  queues : Tab (List Desc) := []
  /-- Next fabric or open-packet tag of an engine (R569). -/
  tags : Tab (BitVec 16) := []
  /-- Tags skipped until a moment: key 65536 × engine + tag to that moment (R569). -/
  skipped : Tab Nat := []
  /-- Fault records of each partition, oldest first. -/
  records : List FaultRecord := []
  nextTag : Tab (BitVec 16) := []
  lostFlag : Tab Bool := []
  /-- Sharer masks per region (R179), by index of the directory record. -/
  sharers : Tab Nat := []
  cache : Tab (List CacheLine) := []
  flush : Tab Bool := []
  fills : List Fill := []
  invals : List Inval := []
  /-- Numbers of the next write that invalidates, and of the next descriptor issued. -/
  nextWrite : Nat := 0
  nextOrder : Nat := 0
  deriving DecidableEq, Repr

/-- A scheduled write-back (R202): line number and the codeword to store. -/
structure WriteBack where
  line : Nat
  word : Bytes
  deriving DecidableEq, Repr

/-- A read answered by a controller: address, data and completion code. -/
structure LineAnswer where
  address : Nat
  data : Bytes
  code : Nat
  deriving DecidableEq, Repr

/-- The stack of one tower (R205 to R212). -/
structure Stack where
  /-- Band shown in 0x3800:02, and the bands whose refresh rate and timing set are in force. -/
  band : Nat := 0
  refreshBand : Nat := 0
  timingBand : Nat := 0
  /-- Bands to take at the next frame boundary. -/
  pendingRefresh : Option Nat := none
  pendingTiming : Option Nat := none
  /-- A diode sample has been taken, and the band its readings select (R206, R207). -/
  sampled : Bool := false
  selected : Nat := 0
  /-- Since when every sample has read at least 3 °C below the edge to the lower band. -/
  coolSince : Option Nat := none
  /-- Accepts no request (R208). -/
  drained : Bool := false
  selfRefresh : Bool := false
  /-- Has left self-refresh and waits for the boundary at which band 2 is in force. -/
  resuming : Bool := false
  patrolLine : Nat := 0
  /-- A handover scrub: the line it has reached, and since when it has run from there (R211, R212). -/
  scrubLine : Option Nat := none
  scrubSince : Nat := 0
  deriving DecidableEq, Repr

/-- The stacked DRAM. -/
structure Dram where
  /-- Raw codeword symbols: symbol j of line n (local physical address / 64) at 72 × n + j. -/
  symbols : Tab Byte := []
  stackTable : Tab Stack := []
  /-- Write-backs waiting, by 1024 × tower + 32 × pseudo-channel + bank. -/
  writeBacks : Tab (List WriteBack) := []
  /-- Activations of a row within the interval (R209), by 32768 × bank key + row. -/
  activations : Tab Nat := []
  /-- Row activated last in each bank, plus one. -/
  openRow : Tab Nat := []
  /-- Neighbouring rows refreshed for row activity: bank key and row. -/
  hammerRefreshes : List (Nat × Nat) := []
  /-- Quarters of the present refresh interval of band 0 that have passed (R209), by 32 × tower + pseudo-channel. -/
  refreshes : Tab Nat := []
  answers : List LineAnswer := []
  deriving DecidableEq, Repr

end Sys2Proof.Machine
end

