-- ==== Sys2Proof/Machine/BlkOm.lean ====
section
/-! DEFINITION. State of the object dictionary's protocol (R515 to R532). -/

namespace Sys2Proof.Machine

/-- What makes two requests the same one (R520). -/
structure RequestId where
  requester : Requester
  seq : BitVec 16
  opcode : BitVec 8
  key : Nat
  offset : Nat
  deriving DecidableEq, Repr

/-- A reply the device has sent (R518, R519). -/
structure Reply where
  id : RequestId
  status : BitVec 8
  offset : Nat := 0
  data : Bytes := []
  deriving DecidableEq, Repr

/-- A kept reply and the moment it was sent (R520). -/
structure Kept where
  reply : Reply
  time : Nat
  deriving DecidableEq, Repr

/-- A request being served: its reply waits for its effect (R522). `note` tells apart requests to one entry. -/
structure Waiting where
  id : RequestId
  note : Nat := 0
  deriving DecidableEq, Repr

/-- A SEG_READ snapshot (R528). -/
structure Snapshot where
  requester : Requester
  key : Nat
  value : Bytes
  lastRead : Nat
  deriving DecidableEq, Repr

/-- An open segmented write (R529): total length and the segments received, by offset. -/
structure Transfer where
  requester : Requester
  key : Nat
  total : Nat
  segments : List (Nat × Bytes)
  last : Nat
  deriving DecidableEq, Repr

/-- An unanswered notice (R532). -/
structure Unanswered where
  seq : BitVec 16
  data : Bytes
  sends : Nat
  last : Nat
  deriving DecidableEq, Repr

/-- What the device keeps for one subscriber record of 0x1100:08 (R532). -/
structure Subscriber where
  next : BitVec 16 := 0
  unanswered : List Unanswered := []
  held : List Bytes := []
  deriving DecidableEq, Repr

/-- A notice sent: subscriber record, sequence, data (R531). -/
structure NoticeSent where
  subscriber : Nat
  seq : BitVec 16
  data : Bytes
  deriving DecidableEq, Repr

/-- One NVM copy of the configuration record (R517): its sequence and the stored values. -/
structure ConfigRecord where
  valid : Bool := false
  sequence : Nat := 0
  values : Tab Bytes := []
  deriving DecidableEq, Repr

/-- The protocol's state. -/
structure Om where
  kept : List Kept := []
  waiting : List Waiting := []
  snapshots : List Snapshot := []
  transfers : List Transfer := []
  /-- Every reply sent, in order. -/
  replies : List Reply := []
  subscribers : Tab Subscriber := []
  noticesSent : List NoticeSent := []
  /-- Moments of the last events 0x1102 and 0x1104 (at most one per second each). -/
  lastDropEvent : Option Nat := none
  lastRejectEvent : Option Nat := none
  served : Nat := 0
  errors : Nat := 0
  duplicates : Nat := 0
  rejected : Nat := 0
  dropped : Nat := 0
  /-- The management port (R523, R524). -/
  linkUp : Bool := false
  addressDuplicate : Bool := false
  detectionDue : Option Nat := none
  /-- Solicitations, advertisements and echo replies sent, as (kind, peer), and the data of the echo replies. -/
  ipSent : List (Nat × BitVec 128) := []
  echoes : List Bytes := []
  /-- NVM: the two copies of the configuration record. -/
  records : Tab ConfigRecord := []
  recordApplied : Bool := false
  recordWriteFailed : Bool := false
  defaultsUsed : Nat := 0
  recordSequence : Nat := 0
  deriving DecidableEq, Repr

end Sys2Proof.Machine
end

