-- ==== Sys2Proof/Machine/BlkPhotonic.lean ====
section
/-! DEFINITION. State of the photonic base layer: paths, Sheepdogs, sources, open packets and the bridle
mesh (R215 to R243). -/

namespace Sys2Proof.Machine

/-- What a source, destination and plane keep (R233): consecutive losses, backoff expiry, and the slot
boundary of the first loss since the last grant. -/
structure Waiter where
  k : Nat := 0
  expiry : Nat := 0
  firstLoss : Option Nat := none
  deriving DecidableEq, Repr

/-- A loser of the last decision with what a void restores (R234). -/
structure Loser where
  source : Nat
  before : Waiter
  deriving DecidableEq, Repr

/-- The last decision of a Sheepdog. -/
structure Decision where
  /-- The slot granted, and the base cycle at which the slot of the decision began. -/
  slot : Nat
  start : Nat
  winner : Nat
  aged : Bool
  countBefore : Nat
  losers : List Loser
  deriving DecidableEq, Repr

/-- A request a Sheepdog holds for its next decision: source and class. -/
structure Request where
  source : Nat
  class_ : Nat
  deriving DecidableEq, Repr

/-- The oldest-waiter arbiter of one ingress waveguide (R232). -/
structure Sheepdog where
  count : Nat := 0
  pointer : Nat := 0
  requests : List Request := []
  last : Option Decision := none
  /-- Void flag to send in the next grant word, and the losers of the voided decision. -/
  void : Bool := false
  voided : List Loser := []
  deriving DecidableEq, Repr

/-- A packet a source holds for a destination: class, when it was queued, and the plane it stays on once
its order is bound to one. -/
structure Held where
  packet : OpenPacket
  class_ : Nat
  since : Nat
  deriving DecidableEq, Repr

/-- A grant a source holds on a plane for the coming slot. -/
structure Grant where
  dest : Nat
  slot : Nat
  provisional : Bool
  aged : Bool
  deriving DecidableEq, Repr

/-- Data carried on the bridle mesh. Scheduled bytes name their type, flow and plane, the stamp of their slot, and the
base cycle by which they have arrived. -/
inductive MeshLoad where
  | packet (p : OpenPacket)
  | scheduled (type flow plane stamp due : Nat) (data : Bytes)
  | invalidate (home block : Nat)
  | invalidateAck (home sharer block : Nat)
  | acknowledge (word : BitVec 64)
  /-- A notice or report word (R303, R304). -/
  | word (w : BitVec 64)
  | sumMember (collective plane slot : Nat) (marker : BitVec 32) (codes : List Int)
  deriving DecidableEq, Repr

/-- A packet on the mesh. -/
structure MeshPacket where
  source : Nat
  dest : Nat
  load : MeshLoad
  deriving DecidableEq, Repr

/-- A slot's content as sent: the flits, retransmitted ones first (R274), and the mesh traffic that rides with it
(R242). -/
structure SlotSent where
  source : Nat
  plane : Nat
  dest : Nat
  slot : Nat
  flits : List Bytes
  rides : List MeshPacket := []
  /-- The data window, by lane (R270 to R273). -/
  symbols : List (Nat × List Nat) := []
  deriving DecidableEq, Repr

/-- The content of a granted RESERVE slot before its launch (R221, R227): a claim that arrives before then leaves the
slot dark. -/
structure Launch where
  source : Nat
  plane : Nat
  slot : Nat
  dest : Nat
  at_ : Nat
  aged : Bool
  again : List Nat
  packets : List Held
  rides : List MeshPacket
  deriving DecidableEq, Repr

/-- Scheduled bytes of a slot still to be delivered, and the regions of the receiver whose phase waits for them from its
start on (R239, R243). -/
structure Owed where
  partition : Nat
  run : BitVec 32
  source : Nat
  dest : Nat
  plane : Nat
  stamp : Nat
  left : Nat
  start : Nat
  regions : List Nat
  deriving DecidableEq, Repr

/-- What goes out of service or returns at a frame boundary (R243). -/
inductive PathKind where
  | egress | ingress | path
  deriving DecidableEq, Repr

/-- A change of a waveguide or a path. -/
structure PathChange where
  kind : PathKind
  key : Nat
  up : Bool
  deriving DecidableEq, Repr

/-- The photonic base layer. -/
structure Pho where
  /-- Waveguides out of service, by 8 × tower + waveguide (0x4000:01), paths in service by link number (R278), and
  changes that wait for the next frame boundary. -/
  egressDown : List Nat := []
  ingressDown : List Nat := []
  pathOn : Tab Bool := []
  changes : List PathChange := []
  /-- Sheepdogs by 8 × destination + plane. -/
  sheepdogs : Tab Sheepdog := []
  /-- Waiters by (12 × source + destination) × 8 + plane. -/
  waiters : Tab Waiter := []
  /-- Packets held by 12 × source + destination, oldest first. -/
  held : Tab (List Held) := []
  /-- Grants by 8 × source + plane. -/
  grants : Tab Grant := []
  /-- Request and grant words sent: true for a grant word, sender, word. -/
  words : List (Bool × Nat × BitVec 64) := []
  slots : List SlotSent := []
  /-- Contents of granted RESERVE slots that wait for their launch. -/
  launches : List Launch := []
  /-- Packets on the mesh, control packets ahead of data packets; and those of pairs that no mesh route joins, which wait
  for open slots (R242). -/
  mesh : List MeshPacket := []
  rides : List MeshPacket := []
  /-- Received bytes of flows, collectives and expert groups, by ((type × 4096 + flow) × 12 + receiver) × 13 + 12,
  with the member in place of 12 for a collective. -/
  received : Tab Bytes := []
  /-- Scheduled bytes on their way, and by region the base cycle up to which its waits have been counted. -/
  owed : List Owed := []
  waited : Tab Nat := []
  /-- Sums of digital collectives in FP32, by 12 × collective + receiver (R265). -/
  summed : Tab Bytes := []
  /-- Open packets delivered to a hub and not yet performed: tower and packet. -/
  inbox : List (Nat × OpenPacket) := []
  /-- Flows that have moved to the mesh (R243): 12 × type-flow key + source. -/
  fallen : List Nat := []
  /-- Failed mesh links: 0 to 7 within columns, 8 to 16 within rows, 17 the service node's. -/
  meshDown : List Nat := []
  /-- Waiters, by key, for which the wait-age alarm has been raised since the last grant. -/
  alarmed : List Nat := []
  /-- Open-packet requests outstanding at a hub: tower, tag, engine, descriptor position. -/
  outstanding : List (Nat × BitVec 16 × Nat) := []
  deriving DecidableEq, Repr

end Sys2Proof.Machine
end

