-- ==== Sys2Proof/Machine/BlkPower.lean ====
section
/-! DEFINITION. State of supplies, caps and heat (R410 to R433). Rails are indexed as in 0x2000:05, diodes as in R424. -/

namespace Sys2Proof.Machine

/-- A supply input (R410). -/
structure Input where
  /-- In range, until it has failed. -/
  good : Bool := false
  /-- Since when it is in range. -/
  since : Nat := 0
  deriving DecidableEq, Repr

/-- A rail (R414 to R416, 0x2000:06). Currents in 0.01 A. -/
structure Rail where
  cap : Nat := 0
  current : Nat := 0
  /-- n of the commanded stretch or beat idling, 0 for none. -/
  n : Nat := 0
  overCount : Nat := 0
  /-- Event 0x2005 or 0x2008 has been raised for it in this frame. -/
  raised : Bool := false
  deriving DecidableEq, Repr

/-- An entry of the cap learner (R420), in 0.1 W. -/
structure Demand where
  learned : Bool := false
  core : Nat := 0
  dram : Nat := 0
  deriving DecidableEq, Repr

/-- What the windows of a tower's phase in progress have shown (R420): its class, and the largest current of the core and
of the DRAM rail in 0.01 A, each with the n of its window. -/
structure Seen where
  class_ : Nat
  core : Nat := 0
  coreN : Nat := 0
  dram : Nat := 0
  dramN : Nat := 0
  deriving DecidableEq, Repr

/-- What the controller computes shares from in the frame now open (R422). -/
structure Shares where
  /-- P_var in mW. -/
  pvar : Nat := 0
  /-- Clock code and core voltage in mV in force, the phase power limit in 0.1 W, and the towers in service. -/
  code : Nat := 0x14
  volts : Nat := 620
  gmax : Nat := 612
  towers : List Nat := []
  table : Tab Demand := []
  stored : Option (Tab Demand) := none
  deriving DecidableEq, Repr

/-- What is kept of a diode (R425, R430). Readings in 0.1 °C. -/
structure Diode where
  last : Option Int := none
  /-- The reading before a jump, to be confirmed, or the new one, by the next sample. -/
  jump : Option Int := none
  /-- Since when it has disagreed with its neighbours. -/
  apart : Option Nat := none
  broken : Bool := false
  /-- Event 0x2407 has been raised for its stand-in. -/
  alone : Bool := false
  /-- Ox: consecutive samples at 115 °C or above. -/
  hot : Nat := 0
  deriving DecidableEq, Repr

/-- Throttle states of R427. -/
inductive Throttle where
  | normal | requested | enforcing
  deriving DecidableEq, Repr

/-- Supplies, caps and heat. -/
structure Pow where
  /-- Partitions reported to the cap-sharing controller at half slack, in this frame and in the one before (R52, R423). -/
  reported : List Nat := []
  reportedBefore : List Nat := []
  /-- Diode readings in force, stand-ins included, in 0.1 °C, by the index of R424. -/
  temps : Tab Int := []
  inA : Input := {}
  inB : Input := {}
  /-- The input whose stage carries the load, true for VIN_B; the one that carried it last while the device is on. -/
  load : Option Bool := none
  carried : Option Bool := none
  /-- Since when one of the inputs has qualified without interruption (R536). -/
  qualified : Option Nat := none
  /-- Mean input voltages of the last window, in mV (0x2000:0A). -/
  vinA : Nat := 0
  vinB : Nat := 0
  /-- Since when no input qualifies. -/
  noInput : Option Nat := none
  rails : Tab Rail := []
  /-- End of the last window of R414. -/
  windowEnd : Nat := 0
  /-- Mean input power of the last window, in mW, and consecutive windows over the cap by 5 %. -/
  inputPower : Nat := 0
  overWindows : Nat := 0
  /-- R418 stretches every region one period in 4. -/
  packageStretch : Bool := false
  /-- Powers of all VPHO and all VLAS rails, summed over the windows of each millisecond: millisecond, mW of VPHO, mW of
  VLAS, windows. -/
  powers : List (Nat × Nat × Nat × Nat) := []
  /-- The learner's table by 65 × tower + class, 64 for idle, and what the phase in progress has shown by tower. -/
  learner : Tab Demand := []
  seen : Tab (Option Seen) := []
  shares : Shares := {}
  /-- NVM: the stored profile, none when its check word is not valid, and when it was last written. -/
  profile : Option (Tab Demand) := none
  profileAt : Nat := 0
  /-- Event 0x2007 has been raised at this start. -/
  uniform : Bool := false
  diodes : Tab Diode := []
  throttle : Throttle := .normal
  /-- The thermal limit, and when its present 1 ms and its present 100 ms began. -/
  thermalLimit : Option Nat := none
  graceEnds : Nat := 0
  windowAt : Nat := 0
  hotInWindow : Bool := false
  /-- Since when every reading has stayed 3 °C, and 5 °C, below the threshold. -/
  cool3 : Option Nat := none
  cool5 : Option Nat := none
  /-- THERM_ALERT_N is asserted. -/
  alert : Bool := false
  /-- Always-on: Ox's trip register, while it holds the inputs open; and since when every sound diode reads below 85 °C. -/
  trip : Option (Nat × Int) := none
  coolSince : Option Nat := none
  /-- A trip to be recorded at the next start, and the trips since commissioning (NVM, 0x2400:07). -/
  tripToRecord : Option (Nat × Int) := none
  trips : Nat := 0
  deriving DecidableEq, Repr

end Sys2Proof.Machine
end

