-- ==== Sys2Proof/Machine/BlkSecurity.lean ====
section
/-! DEFINITION. State of worlds, boot, update, attestation and tenant handover (R462 to R487). -/

namespace Sys2Proof.Machine

/-- An SPDM session (R477, R478). -/
structure SpdmSession where
  id : BitVec 32
  path : SpdmPath
  established : Bool := false
  /-- Key updates since it opened. -/
  updates : Nat := 0
  deriving DecidableEq, Repr

/-- What the device answers to an SPDM, IDE_KM or TDISP message, by the items the manual names. -/
inductive SpdmAnswer where
  | version (versions : List Nat)
  | capabilities
  | algorithms
  | digests (chain : Bytes)
  | certificate (portion : Bytes)
  | challengeAuth (signature : Bytes)
  | measurements (blocks : List (Nat × Bytes)) (signature : Bytes)
  | keyExchange (session : BitVec 32) (share signature : Bytes)
  | finish (session : BitVec 32)
  | keyUpdate (session : BitVec 32)
  | heartbeat (session : BitVec 32)
  | endSession (session : BitVec 32)
  | keyInstalled (stream : Option (Fin 16)) (keySet : Fin 2)
  | tdispVersion (major minor : Nat)
  | tdispCapabilities
  | tdiLocked (function : Nat)
  | tdiReport (function : Nat) (towers : Nat) (pageBase pageLength windowLength : Nat) (measurement : Bytes)
  | tdiState (function : Nat) (state : Nat)
  | tdiStarted (function : Nat)
  | tdiStopped (function : Nat)
  | error
  deriving DecidableEq, Repr

/-- Security. -/
structure Sec where
  /-- Until when a live activation runs (R475). -/
  activating : Option Nat := none
  /-- TDI states by function (R482): 0 CONFIG_UNLOCKED, 1 CONFIG_LOCKED, 2 RUN, 3 ERROR. -/
  tdi : Tab Nat := []
  /-- Towers that must pass a tenant handover before a TDI locks again, by function (R483). -/
  tdiOwes : Tab (List Nat) := []
  /-- Towers that have left a partition and have not been marked clean since (R487). -/
  unclean : List Nat := []
  /-- The partition a tower left last, plus one (R486). -/
  former : Tab Nat := []
  /-- Towers under tenant handover, and those of them whose scrub has ended (R486). -/
  handover : List Nat := []
  scrubbed : List Nat := []
  /-- A world map, and region tables by tower, that take effect at the next boundary (R462, R468). -/
  pendingMap : Option Bytes := none
  pendingTables : Tab Bytes := []
  /-- What measurement 4 still counts entries as that have changed since the last boundary (R474). -/
  measuredAs : Tab Bytes := []
  /-- The staged image and its passage through 0x6000:06 (R475). -/
  staged : Option Bytes := none
  update : Nat := 0
  verifyFailed : Bool := false
  verifying : Bool := false
  activateNext : Bool := false
  /-- Image that runs, and image in NVM; none for the one of manufacture. -/
  running : Option Bytes := none
  nvm : Option Bytes := none
  nvmInvalid : Bool := false
  /-- A write of NVM in progress, after how many failures, and when it is tried again (R476). -/
  committing : Bool := false
  commitFailures : Nat := 0
  retryAt : Option Nat := none
  /-- SVN fuses blown since manufacture (R473). -/
  svnBlown : Nat := 0
  /-- SPDM: how far each path has negotiated (0 none, 1 version, 2 capabilities, 3 algorithms), by DOE 0, MCTP 1, port
  2 + p; its transcript; sessions. -/
  negotiated : Tab Nat := []
  transcripts : Tab Bytes := []
  sessions : List SpdmSession := []
  opened : Nat := 0
  /-- IDE key sets installed: 0 the link stream, 1 + n the selective streams. -/
  ideKeys : Tab Nat := []
  /-- Every answer sent, with its path. -/
  answers : List (SpdmPath × SpdmAnswer) := []
  deriving DecidableEq, Repr

end Sys2Proof.Machine
end

