-- ==== Sys2Proof/Machine/BlkStart.lean ====
section
/-! DEFINITION. State of start-up (R536 to R554). -/

namespace Sys2Proof.Machine

/-- How the previous start stopped (R547). -/
inductive StopCause where
  | normal | powerLoss | trip
  deriving DecidableEq, Repr

/-- One record of the start log 0x7000:05. -/
structure StepLog where
  began : Nat := 0
  duration : Nat := 0
  result : Nat := 0
  deriving DecidableEq, Repr

/-- Start-up. -/
structure Start where
  /-- The step in progress, 0 before step 1 and 9 in full service. -/
  step : Nat := 0
  foal : Bool := false
  donkey : Bool := false
  /-- Held at Foal, short of step 6 (R553). -/
  heldAtFoal : Bool := false
  /-- The diode of B0 is unsound before step 5: no service (R550). -/
  noService : Bool := false
  /-- Step 8 ended without lock (R540). -/
  noLock : Bool := false
  donkeyReason : Nat := 0
  /-- NVM: the step at which the last failed start stopped. -/
  lastFailedStep : Nat := 0
  /-- NVM: the failed-start count (R547). -/
  failedCount : Nat := 0
  log : Tab StepLog := []
  stepBegan : Nat := 0
  /-- When the supplies first qualified at this start (0x1000:07). -/
  poweredAt : Nat := 0
  /-- The always-on domain was powered up at this start (R539). -/
  cold : Bool := true
  /-- Units in service (0x7000:06). -/
  service : List PkgUnit := []
  /-- Units kept out of service until the next start (R537). -/
  kept : List PkgUnit := []
  /-- Always-on: towers that were in a partition when the previous start ended (R553). -/
  formerTowers : List Nat := []
  /-- Always-on: what the commanded restart asked for: 1 restart, 2 into Donkey mode, 3 hold at Foal. -/
  commanded : Nat := 0
  /-- NVM: how the previous start stopped, and whether it had succeeded. -/
  previousStop : StopCause := .normal
  succeeded : Bool := false
  /-- When full service, or Foal mode, began (R545). -/
  serviceSince : Option Nat := none
  /-- The moment at which a failed start, or a restart, begins again at step 1 (R546, R549, R553). -/
  restartAt : Option Nat := none
  deriving DecidableEq, Repr

end Sys2Proof.Machine
end

