-- ==== Sys2Proof/Machine/BlkSums.lean ====
section
/-! DEFINITION. State of light-summed reduction (R246 to R266). -/

namespace Sys2Proof.Machine

/-- An arm record the hub has accepted (R255, R256), and when. -/
structure Arm where
  tower : Nat
  cluster : Nat
  record : BitVec 256
  accepted : Nat
  deriving DecidableEq, Repr

/-- A RESERVE plane-slot claimed for a replay (R259). -/
structure Claim where
  receiver : Nat
  plane : Nat
  slot : Nat
  origPlane : Nat
  origSlot : Nat
  collective : Nat
  missing : Nat
  /-- It has been evaluated. -/
  done : Bool := false
  deriving DecidableEq, Repr

/-- A replay a member has been asked for (R260). -/
structure Replay where
  member : Nat
  receiver : Nat
  plane : Nat
  slot : Nat
  origPlane : Nat
  origSlot : Nat
  collective : Nat
  deriving DecidableEq, Repr

/-- The light a member sends: its marker and, when READY, its codes as DAC levels (R252, R254); the launch offset of its
path in picoseconds, and the settings of its DACs after pre-distortion (R250). -/
structure LightSent where
  member : Nat
  receiver : Nat
  plane : Nat
  slot : Nat
  group : Nat
  marker : BitVec 32
  levels : List Nat
  offset : Int
  settings : List Int
  deriving DecidableEq, Repr

/-- A contribution that arrived over the mesh (R264). -/
structure MeshShare where
  receiver : Nat
  member : Nat
  collective : Nat
  plane : Nat
  slot : Nat
  marker : BitVec 32
  codes : List Int
  deriving DecidableEq, Repr

/-- A plane-slot under evaluation (R258); it waits for its members on the mesh (R262, R264). -/
structure SumWait where
  receiver : Nat
  collective : Nat
  plane : Nat
  slot : Nat
  /-- The plane-slot whose values it carries, in a replay another one, and the frame. -/
  origPlane : Nat
  origSlot : Nat
  replay : Bool
  frame : Nat
  arm : Arm
  /-- Its first value and their number, and the base cycle at which the phase that consumes them starts. -/
  first : Nat
  per : Nat
  start : Option Nat
  /-- Members, with the marker of those that sent light. -/
  members : List (Nat × Option (BitVec 32))
  /-- The converters' codes, by window, then lane. -/
  adc : List Nat
  deriving DecidableEq, Repr

/-- Light-summed reduction: what holds within the frame now open. -/
structure Sums where
  arms : List Arm := []
  /-- Arm records refused in this frame: tower and collective. -/
  refused : List (Nat × Nat) := []
  claims : List Claim := []
  /-- RESERVE plane-slots already claimed at a receiver in this frame: tower, plane, slot. -/
  claimed : List (Nat × Nat × Nat) := []
  replays : List Replay := []
  light : List LightSent := []
  shares : List MeshShare := []
  waiting : List SumWait := []
  /-- Plane-slots evaluated in this frame: receiver, plane, slot. -/
  evaluated : List (Nat × Nat × Nat) := []
  /-- Collectives for which event 0x4015 has been raised in this frame: receiver and collective. -/
  meshed : List (Nat × Nat) := []
  /-- Sum notice words sent. -/
  notices : List (BitVec 64) := []
  deriving DecidableEq, Repr

end Sys2Proof.Machine
end

