-- ==== Sys2Proof/Machine/BlkTasks.lean ====
section
/-! DEFINITION. State of partitions, graphs, runs, tasks and routers (R128 to R160). -/

namespace Sys2Proof.Machine

/-- A loaded graph (R138): its place, handle and image (R133). -/
structure Graph where
  partition : Nat
  slot : Nat
  handle : BitVec 16
  image : Bytes
  /-- The frame from whose opening it can run (R139). -/
  ready : Nat := 0
  deriving DecidableEq, Repr

/-- Run states of R152. -/
inductive RunState where
  | queued | running | saving | parked | restoring | frozen
  deriving DecidableEq, Repr

/-- What a task of a run is doing (R143 to R145). -/
inductive TaskPhase where
  | waiting | resolved | skipping | running | ended
  deriving DecidableEq, Repr

/-- One task of a run. -/
structure Task where
  /-- Dependence counter: in-edges still to arrive. -/
  counter : Nat := 0
  /-- Every predicated in-edge received so far was true. -/
  allTrue : Bool := true
  phase : TaskPhase := .waiting
  resolvedAt : Nat := 0
  predicate : BitVec 16 := 0
  /-- Flags of R159, byte 0x0E. -/
  flags : BitVec 8 := 0
  /-- Completion codes met (R160). -/
  codes : List Nat := []
  /-- Fault code of R158, zero when none. -/
  fault : Nat := 0
  place : Nat := 0
  stall : Nat := 0
  /-- Phase entries of the span left to pass. -/
  spanLeft : Nat := 0
  deriving DecidableEq, Repr

/-- A token-expert pair waiting for the next frame (R150). -/
structure Pair where
  group : Nat
  expert : Nat
  token : Nat
  weight : BitVec 32
  deriving DecidableEq, Repr

/-- The top-k router of a cluster. -/
structure Router where
  /-- Pairs taken in this frame, by 64 × group + expert. -/
  counts : Tab Nat := []
  deferred : List Pair := []
  /-- The dispatch list (R151). -/
  list : List (BitVec 64) := []
  droppedInFrame : Bool := false
  deriving DecidableEq, Repr

/-- What a save keeps of a partition's dies (R155): the banks of the save masks, the accumulators, the registers
and generators of the other cores, the routers, and the DMA descriptors. -/
structure Context where
  bytes : Tab (Option Byte) := []
  poison : Tab Bool := []
  undef : Tab Nat := []
  acc : Tab (BitVec 32) := []
  accPoison : Tab Bool := []
  lanes : Tab (BitVec 32) := []
  registers : Tab Nat := []
  routers : Tab Router := []
  /-- DMA descriptors with their cursors, each with its engine. -/
  descs : List (Nat × Desc) := []
  deriving DecidableEq, Repr

/-- A run and its context (R152 to R157). -/
structure Run where
  partition : Nat
  id : BitVec 32
  handle : BitVec 16
  priority : Nat := 0
  byPriority : Bool := false
  iterations : Nat := 0
  iteration : Nat := 0
  bindings : List Nat := []
  state : RunState := .queued
  hold : Bool := false
  /-- Order of acceptance (R152). -/
  order : Nat := 0
  /-- A pre-emption is requested, and whether by PREEMPT (R153). -/
  preempt : Option Bool := none
  abort : Bool := false
  /-- A task faulted under FAIL_RUN: freeze at the next tick, or after the save. -/
  freeze : Bool := false
  /-- The completion code of its record, when a teardown stops it (R378). -/
  forced : Option Nat := none
  /-- Frames of a save or restore still to pass (R156). -/
  framesLeft : Nat := 0
  /-- Template frame index the run continues at (R155). -/
  frameIndex : Nat := 0
  tasks : Tab Task := []
  flags : BitVec 8 := 0
  codes : List Nat := []
  dropped : Nat := 0
  deferred : Nat := 0
  /-- Has been entered: its root tasks have been resolved once. -/
  started : Bool := false
  /-- The saved context, from the end of a save to the end of the restore. -/
  saved : Option Context := none
  deriving DecidableEq, Repr

/-- A LOAD whose image is on its way (R137). -/
structure Load where
  partition : Nat
  address : Nat
  length : Nat
  position : BitVec 32 := 0
  entry : BitVec 512 := 0
  deriving DecidableEq, Repr

/-- A RUN whose binding table is on its way (R137). -/
structure Binding where
  partition : Nat
  position : BitVec 32
  entry : BitVec 512
  deriving DecidableEq, Repr

/-- What the frame machinery keeps for a partition (R52 to R55). -/
structure Part where
  /-- Template frame index of the frame now open. -/
  index : Nat := 0
  stride : Nat := 1
  /-- Frame of the stride group now open, 0 the first. -/
  inGroup : Nat := 0
  slipping : Bool := false
  /-- Available cycles of the frames of the present group that have ended, its slip frames included. -/
  cycles : Nat := 0
  /-- Cycles of the phases that tasks now ended have spent in the present group, by region. -/
  spent : Tab Nat := []
  halfRaised : Bool := false
  /-- Next load count of each graph slot, by slot (R138). -/
  loadCounts : Tab Nat := []
  deriving DecidableEq, Repr

/-- A pair a router has handed to the EXPERT slots of its group, or to its own hub (R148). -/
structure ExpertSend where
  cluster : Nat
  group : Nat
  expert : Nat
  token : Nat
  tower : Nat
  deriving DecidableEq, Repr

/-- Partitions and their work. -/
structure Parts where
  graphs : List Graph := []
  runs : List Run := []
  loads : List Load := []
  binds : List Binding := []
  parts : Tab Part := []
  nextOrder : Nat := 0
  routers : Tab Router := []
  expertQueue : List ExpertSend := []
  /-- Remote edges on their way through the coordinator: partition, run, source task, edge number. -/
  remoteEdges : List (Nat × BitVec 32 × Nat × Nat) := []
  deriving DecidableEq, Repr

end Sys2Proof.Machine
end

