-- ==== Sys2Proof/Machine/BlkTwin.lean ====
section
/-! DEFINITION. State of the twin pair (R436 to R461). -/

namespace Sys2Proof.Machine

/-- A mirrored graph-queue command (R447, R448). -/
structure TwinCommand where
  partition : Nat
  position : BitVec 32
  handle : BitVec 16 := 0
  entry : BitVec 512
  /-- The image of a LOAD, on the active. -/
  image : Bytes := []
  deriving DecidableEq, Repr

/-- A command mirrored to the standby, with its frame. -/
structure TwinHeard where
  frame : Nat
  command : TwinCommand
  deriving DecidableEq, Repr

/-- A segment of a mirrored image. -/
structure TwinPiece where
  frame : Nat
  handle : BitVec 16
  offset : Nat
  data : Bytes
  deriving DecidableEq, Repr

/-- A planned handover (R457, R458): its frame H, and whether L = H − 1 has been acknowledged. -/
structure TwinHandover where
  frame : Nat
  acked : Bool := false
  deriving DecidableEq, Repr

/-- A takeover in progress (R454, R458, R459): how many of its boundaries have passed, and its flags of R455. -/
structure TwinTakeover where
  passed : Nat := 0
  forced : Bool := false
  planned : Bool := false
  none_ : Bool := false
  deriving DecidableEq, Repr

/-- The twin pair. -/
structure Twin where
  /-- State code of R436. -/
  state : Nat := 0
  /-- The partner's last known state. -/
  partner : Nat := 0
  /-- Always-on and NVM (R440); 0 before the first pairing. -/
  epoch : BitVec 16 := 0
  /-- NVM: 0x5800:0D. -/
  takeovers : Nat := 0
  facts : Option TwinFacts := none
  /-- The pair is formed (R438), and this package is its primary (R437). -/
  paired : Bool := false
  primary : Bool := false
  /-- Consecutive tokens with a stable relation, and the relation (R439). -/
  stable : Nat := 0
  delta : Int := 0
  phi : Nat := 0
  /-- Event 0x5802 has been raised for home roles that clash. -/
  clash : Bool := false
  absent : Bool := false
  unfit : Bool := false
  partnerUnfit : Bool := false
  /-- The wire is stuck, or one path's answers stay away (R443). -/
  stuck : Bool := false
  silent : Bool := false
  /-- Twin packets last heard on TW, pulses last seen, and when PAIRING was entered. -/
  lastTw : Nat := 0
  lastPulse : Nat := 0
  enteredAt : Nat := 0
  /-- Renewals: the last on each path, expired paths, and the first LEASE after the last renew pulse. -/
  renewedTw : Nat := 0
  renewedWire : Nat := 0
  expiredTw : Bool := false
  expiredWire : Bool := false
  leaseSince : Option Nat := none
  /-- The active's next renewal; the first LEASE_ACK after the last acknowledge pulse; its own pulses read back. -/
  renewDue : Nat := 0
  ackSince : Option Nat := none
  readBack : Nat := 0
  /-- Acknowledgements due, by path. -/
  ackTw : Option Nat := none
  ackWire : Option Nat := none
  /-- L (0x5800:05): the last frame committed, or acknowledged; none before the first. -/
  last : Option Nat := none
  lagRaised : Bool := false
  /-- Since when the lag has been at most 2 frames. -/
  closeSince : Option Nat := none
  /-- Active: commands of frames not yet sent, marked blocks, handles of the LOADs, and copies asked for. -/
  commands : List TwinCommand := []
  marks : List Nat := []
  copyAll : Bool := false
  copyRegions : List Nat := []
  /-- Standby: packets of frames not committed. -/
  heard : List TwinHeard := []
  pieces : List TwinPiece := []
  blocks : Tab Nat := []
  /-- BLOCK packets that wait for a base die or a drained stack (R460). -/
  waiting : List Bytes := []
  /-- Standby: last mirrored position by partition, plus one; run IDs by partition. -/
  positions : Tab Nat := []
  runs : Tab (List (BitVec 32)) := []
  invalid : List Nat := []
  report : Bytes := List.replicate 64 0
  roundDue : Nat := 0
  roundPassed : Bool := false
  /-- Active: the last HEALTH, and whether its silence has been reported. -/
  healthAt : Nat := 0
  healthSilent : Bool := false
  handover : Option TwinHandover := none
  /-- The active has reached H and refuses work: the moment; ABANDON sent, serving again at the next tick. -/
  yielded : Option Nat := none
  resume : Bool := false
  takeover : Option TwinTakeover := none
  record : Bytes := []
  /-- Live runs are released at the next tick (R444). -/
  releaseRuns : Bool := false
  /-- Every twin packet sent, and every pulse driven in ns. -/
  sent : List Bytes := []
  pulses : List Nat := []
  deriving DecidableEq, Repr

end Sys2Proof.Machine
end

