-- ==== Sys2Proof/Machine/State.lean ====
section
/-! DEFINITION. The whole state of the block, and the state right after reset: before the first start, with
the inputs not yet qualified (R536). Every field's default is its reset value. -/

namespace Sys2Proof.Machine

/-- No meaning of this model faults: the manual gives every operation of its table an effect. -/
inductive Fault where
  deriving DecidableEq, Repr

/-- Why a command has no meaning. -/
inductive Refusal where
  /-- Raised by an arm of `exec` whose operation has no meaning in the model. Safe: nothing is claimed of it. -/
  | notModelled (mnemonic : String)
  deriving DecidableEq, Repr

/-- The state. -/
structure State where
  /-- Commands waiting, first in, first out. -/
  pending : List Instr := []
  /-- Base cycles of 1 ns since the model's origin (R32). -/
  now : Nat := 0
  /-- How many free values have been drawn (the model's own). -/
  freeDrawn : Nat := 0
  /-- The counters of the dictionary, by entry (R568). -/
  counters : Tab Nat := []
  /-- The values in force of the RW and RWF entries that are not at their default, by entry (R510 to R517). -/
  dict : Tab Bytes := []
  hen : Hen := {}
  om : Om := {}
  frame : Frame := {}
  start : Start := {}
  spad : Spad := {}
  arith : Arith := {}
  parts : Parts := {}
  dma : Dma := {}
  dram : Dram := {}
  clk : Clk := {}
  host : HostLink := {}
  pho : Pho := {}
  sums : Sums := {}
  lanes : Lanes := {}
  las : Las := {}
  ver : Ver := {}
  fab : Fab := {}
  pow : Pow := {}
  sec : Sec := {}
  twin : Twin := {}
  deriving DecidableEq, Repr

/-- The block right after reset. [DESIGN CHOICE, unsafe: log 2; DESIGN CHOICE, unsafe: log 3; DESIGN CHOICE, unsafe:
log 4] -/
def State.reset : State := {}

end Sys2Proof.Machine
end

