-- ==== Sys2Proof/Machine/Ops.lean ====
section
/-! DEFINITION. Operations every family uses: the dictionary's values, counters, events, stamps, free
values, and the placement of units. -/

namespace Sys2Proof.Machine

/-! ### Placement (R2, R14, R18, R24) -/

/-- The base die a tower stands on. -/
def baseOfTower (t : Nat) : Nat := t / 3

/-- The base die a flock stands on: towers' flocks by tower, F12 to F15 by number (R18). -/
def baseOfFlock (f : Nat) : Nat := if f < 12 then f / 3 else f - 12

/-- The base die a port belongs to. -/
def baseOfPort (p : Nat) : Nat := p / 2

/-- The flock that feeds a port. -/
def flockOfPort (p : Nat) : Nat := 12 + p / 2

/-- The base die a unit belongs to (R24). -/
def baseOfUnit : PkgUnit → Nat
  | .base n => n
  | .tower n => baseOfTower n
  | .flock n => baseOfFlock n
  | .port n => baseOfPort n
  | .tw => 0

/-- The payload item of a unit (R559): kind, then number. -/
def unitItem : PkgUnit → Bytes
  | .base n => leBytes 1 1 ++ leBytes 1 n
  | .tower n => leBytes 1 2 ++ leBytes 1 n
  | .flock n => leBytes 1 3 ++ leBytes 1 n
  | .port n => leBytes 1 4 ++ leBytes 1 n
  | .tw => leBytes 1 5 ++ leBytes 1 0

/-- The towers, in order. -/
def allTowers : List Nat := List.range 12

/-- The twelve clusters of a die, in order. -/
def allClusters : List Nat := List.range 12

/-- A region's key: 13 × tower + region, region 12 the hub. -/
def regionKey (t r : Nat) : Nat := 13 * t + r

/-- Where the die of an identity record stands (R12, R14, R15, R18, R30): its level, its base die, and its place there. -/
def diePlace (r : Nat) : Nat × Nat × Nat :=
  if r < 4 then (0, r, 0)
  else if r < 112 then ((r - 4) % 9 + 1, (r - 4) / 27, (r - 4) / 9 % 3)
  else (0xA, baseOfFlock (r - 112), if r - 112 < 12 then (r - 112) % 3 else 3)

/-- Silicon stepping, 0x1000:02. [DESIGN CHOICE, safe: log 10] -/
def stepping : Nat := if Config.steppingA1 then 0xA1 else 0xA0

/-- An identity record (R30): kind, base die, unit, level, revision and trace number. [DESIGN CHOICE, safe: log 10] -/
def dieIdentity (r : Nat) : BitVec 64 :=
  let (level, b, _) := diePlace r
  let kind := if level = 0 then 1 else if level = 0xA then 4 else if level = 9 then 3 else 2
  let unit := if level = 0 then r else if level = 0xA then r - 112 else (r - 4) / 9
  let revision := if kind = 1 ∨ kind = 3 then stepping else (Config.supplierRevision r).toNat
  BitVec.ofNat 64 (kind * 2 ^ 60 + b * 2 ^ 56 + unit * 2 ^ 52 + level * 2 ^ 48 + revision * 2 ^ 40 + (Config.dieTrace r).toNat)

/-! ### Time and frames (R3, R34, R35) -/

/-- Nanoseconds in a microsecond, a millisecond and a second. -/
def us : Nat := 1000
def ms : Nat := 1000000
def sec : Nat := 1000000000

/-- L of a frame length code, in base cycles (R34). -/
def frameCycles (code : BitVec 2) : Nat := 2560 * 2 ^ code.toNat

/-- The slot length of a code. -/
def slotCycles (code : BitVec 2) : Nat := frameCycles code / 256

/-- The unit of the offset field of a code, in base cycles. -/
def offsetUnit (code : BitVec 2) : Nat := if code = 3 then 2 else 1

/-- The largest offset of a code (R4). -/
def largestOffset (code : BitVec 2) : Nat := slotCycles code / offsetUnit code - 1

/-- A stamp from its fields (R3). -/
def mkStamp (number slot offset : Nat) : BitVec 64 := BitVec.ofNat 64 (number * 65536 + slot * 256 + offset)

/-- The stamp of a moment, counted from the opening of a frame of known number, start and length (R3, R35); the count
runs on past the frame's end. -/
def stampFrom (number start : Nat) (code : BitVec 2) (time : Nat) : BitVec 64 :=
  let e := (time - start) % frameCycles code
  mkStamp (number + (time - start) / frameCycles code) (e / slotCycles code) (e % slotCycles code / offsetUnit code)

/-- The stamp of a moment by the Rooster's count. -/
def stampAt (f : Frame) (time : Nat) : BitVec 64 := stampFrom f.number f.start f.code time

/-- The stamp of a unit outside the towers (R42). -/
def packageStamp (s : State) : BitVec 64 := if s.frame.optical then stampAt s.frame s.now else 0

/-- The receiver of a tower. -/
def receiver (s : State) (t : Nat) : Receiver := Tab.look {} s.frame.receivers t

/-- The stamp by a receiver's flywheel (R40, R41): the frame before the boundary it predicts. -/
def flywheelStamp (r : Receiver) (time : Nat) : BitVec 64 :=
  stampFrom (r.next - 1) (r.due - frameCycles r.code) r.code time

/-- The stamp of a tower's records (R42). -/
def towerStamp (s : State) (t : Nat) : BitVec 64 :=
  if (receiver s t).optical then flywheelStamp (receiver s t) s.now else 0

/-- The stamp that opens a frame. -/
def openingStamp (number : Nat) : BitVec 64 := mkStamp number 0 0

/-- Whether a stamp's offset is within its frame's limit (R4). -/
def stampLegal (s : State) (stamp : BitVec 64) : Bool :=
  let limit := if stamp.toNat / 65536 ≥ s.frame.changePoint.toNat / 65536 then largestOffset s.frame.code else 39
  decide (bits stamp 7 0 ≤ limit)

/-! ### Free values -/

/-- The next free value and the state that has drawn it. [DESIGN CHOICE, safe: log 8] -/
def draw (s : State) : BitVec 64 × State := (Config.freeValue s.freeDrawn, { s with freeDrawn := s.freeDrawn + 1 })

/-- `n` free bytes. [DESIGN CHOICE, safe: log 8] -/
def drawBytes (n : Nat) (s : State) : Bytes × State :=
  ((List.range n).map (fun i => (Config.freeValue (s.freeDrawn + i)).setWidth 8),
    { s with freeDrawn := s.freeDrawn + n })

/-! ### Events (R558, R559) -/

/-- Payload items by width. -/
def b1 (n : Nat) : Option Bytes := some (leBytes 1 n)
def b2 (n : Nat) : Option Bytes := some (leBytes 2 n)
def b4 (n : Nat) : Option Bytes := some (leBytes 4 n)
def b8 (n : Nat) : Option Bytes := some (leBytes 8 n)
def bEntry (key : Nat) : Option Bytes := some (leBytes 2 (key / 256) ++ leBytes 1 (key % 256))
def bUnit (u : PkgUnit) : Option Bytes := some (unitItem u)

/-- A block raises an event: it is on its way to Hen. -/
def raise (code : Nat) (items : List (Option Bytes)) (s : State) : State :=
  { s with hen.arriving := s.hen.arriving ++
      [{ code := BitVec.ofNat 16 code, items := items, time := s.now,
         beforeOptical := !s.frame.optical, byLoader := s.start.donkey }] }

/-- Raise an event when a condition holds. -/
def raiseIf (c : Bool) (code : Nat) (items : List (Option Bytes)) (s : State) : State :=
  if c then raise code items s else s

/-! ### Counters (R568) -/

/-- A counter's value. -/
def counter (s : State) (key : Nat) : Nat := Tab.look 0 s.counters key

/-- A U32 counter has a value: event 0x6806 once per start when it is the largest. [DEDUCED, safe: log 64] -/
def reportFull (key v : Nat) (s : State) : State :=
  if v = 2 ^ 32 - 1 ∧ key ∉ s.hen.saturated then
    raise 0x6806 [bEntry key] { s with hen.saturated := s.hen.saturated ++ [key] }
  else s

/-- Add to a U32 counter, which stops at its largest value. -/
def count32 (key n : Nat) (s : State) : State :=
  let v := satAdd 32 (counter s key) n
  reportFull key v { s with counters := Tab.put 0 key v s.counters }

/-- Add to a U64 counter, which runs modulo 2^64. -/
def count64 (key n : Nat) (s : State) : State :=
  { s with counters := Tab.put 0 key ((counter s key + n) % 2 ^ 64) s.counters }

/-! ### The dictionary's values in force -/

/-- The default region table of a tower (R470). -/
def defaultRegionTable (t : Nat) : Bytes :=
  let entry (base units : Nat) : Bytes :=
    leBytes 1 0x3D ++ zeros 3 ++ leBytes 2 0x0FFF ++ zeros 2 ++ leBytes 4 (base / 2 ^ 21) ++ leBytes 4 units
  zeros (254 * 16) ++ entry (0x100000000000 + t * 0x10000000) 128 ++ entry (t * 0x1000000000) 32768

/-- The default ceilings of the 44 rails in 0.01 A (R414). -/
def defaultCeilings : List Nat :=
  List.replicate 12 7200 ++ List.replicate 12 1200 ++ [4400, 2400, 2400, 2400] ++ List.replicate 16 220

/-- The default equalisation table 0x4030:01. -/
def defaultTaps : Bytes :=
  let body := (List.replicate 8 (leBytes 1 0xFC ++ leBytes 1 52 ++ leBytes 1 0xF8 ++ zeros 1)).flatten ++
    (List.replicate 8 (leBytes 1 0 ++ leBytes 1 60 ++ leBytes 1 0xFC ++ zeros 1)).flatten ++
    (List.replicate 8 (leBytes 1 0 ++ leBytes 1 62 ++ leBytes 1 0xFE ++ zeros 1)).flatten
  body ++ leBytes 4 (crc32 body).toNat

/-- The default world map 0x6000:01. -/
def defaultWorldMap : Bytes :=
  [1, 0, 0, 1] ++ (List.replicate 12 (leBytes 4 0x1FFFFFFF)).flatten

/-- The default of an entry as bytes. -/
def defaultBytes (key : Nat) : Bytes :=
  if key = 0x403001 then defaultTaps
  else if key = 0x600001 then defaultWorldMap
  else if key = 0x200005 then (defaultCeilings.map (leBytes 2)).flatten
  else if 0x601001 ≤ key ∧ key ≤ 0x60100C then defaultRegionTable (key - 0x601001)
  else match entryInfo key with
    | none => []
    | some e => match e.dflt with
      | .value n => leBytes e.length n
      | .fill b => List.replicate e.length b

/-- The value in force of a stored entry; an empty string stands for the default. -/
def dictBytes (s : State) (key : Nat) : Bytes :=
  let v := Tab.look [] s.dict key
  if v = [] then defaultBytes key else v

/-- The value in force of a scalar entry. -/
def dictNat (s : State) (key : Nat) : Nat := leNat (dictBytes s key)

/-- An entry that measurement 4 covers and whose writes take effect before the next boundary: port encryption and the
job bindings (R474). -/
def measuredEntry (key : Nat) : Bool := decide (key = 0x500008 ∨ (0x504001 ≤ key ∧ key ≤ 0x50400C))

/-- Give an entry a value. Measurement 4 keeps the old one until the boundary (R474, R479). -/
def setDict (key : Nat) (v : Bytes) (s : State) : State :=
  let old := dictBytes s key
  let s := if measuredEntry key && !s.sec.measuredAs.any (fun c => decide (c.1 = key)) then
      { s with sec.measuredAs := Tab.put [] key old s.sec.measuredAs } else s
  { s with dict := Tab.put [] key v s.dict }

/-- Give a scalar entry a value. -/
def setDictNat (key n v : Nat) (s : State) : State := setDict key (leBytes n v) s

/-! ### Partitions and worlds (R128, R462) -/

/-- The partition of a tower, none when it is not assigned. -/
def partitionOf (s : State) (t : Nat) : Option Nat :=
  let p := nbits (dictNat s 0x340002) (4 * t + 3) (4 * t)
  if p < 12 then some p else none

/-- The towers of a partition, rising. -/
def towersOf (s : State) (p : Nat) : List Nat := allTowers.filter (fun t => partitionOf s t = some p)

/-- The payload item of a tower's partition. -/
def bPartition (s : State) (t : Nat) : Option Bytes := (partitionOf s t).bind b1

/-- The world of a function of the host link, true when secure. -/
def functionSecure (s : State) (f : Nat) : Bool := nbit (fieldAt (dictBytes s 0x600001) 0 2) f

/-- The world of a rack port. -/
def portSecure (s : State) (p : Nat) : Bool := nbit (fieldAt (dictBytes s 0x600001) 2 1) p

/-- The world of a tower's translation unit. -/
def towerSecure (s : State) (t : Nat) : Bool := nbit (fieldAt (dictBytes s 0x600001) (4 + 4 * t) 4) 28

/-- The world of a partition (R463): that of its towers. -/
def partitionSecure (s : State) (p : Nat) : Bool := towerSecure s p

/-- The function that owns a partition (0x1180:03), none when unowned. -/
def ownerOf (s : State) (p : Nat) : Option Nat :=
  let f := nbits (dictNat s 0x118003) (4 * p + 3) (4 * p)
  if f = 15 then none else some f

/-- The TDI of a partition's owner is in CONFIG_LOCKED or RUN (R482). -/
def tdiHeld (s : State) (p : Nat) : Bool := match ownerOf s p with
  | none => false
  | some f => decide (f ≠ 0) && decide (Tab.look 0 s.sec.tdi f = 1 ∨ Tab.look 0 s.sec.tdi f = 2)

/-- The TDI of a partition's owner is in ERROR (R483). -/
def tdiError (s : State) (p : Nat) : Bool := match ownerOf s p with
  | none => false
  | some f => decide (f ≠ 0) && decide (Tab.look 0 s.sec.tdi f = 3)

/-- The package serves runs and fabric requests: UNPAIRED, or ACTIVE and not past H of a handover (R436, R458). -/
def twinServes (s : State) : Bool := decide (s.twin.state = 0 ∨ s.twin.state = 2) && s.twin.yielded.isNone

/-! ### Units in service (R537) -/

/-- Whether a unit is in service. -/
def inService (s : State) (u : PkgUnit) : Bool := u ∈ s.start.service

/-- Whether a base die is in service. -/
def baseUp (s : State) (b : Nat) : Bool :=
  s.start.service.any (fun u => match u with | .base n => n.val = b | _ => false)

/-- Whether a tower is in service. -/
def towerUp (s : State) (t : Nat) : Bool :=
  s.start.service.any (fun u => match u with | .tower n => n.val = t | _ => false)

/-- Whether a flock is in service. -/
def flockUp (s : State) (f : Nat) : Bool :=
  s.start.service.any (fun u => match u with | .flock n => n.val = f | _ => false)

/-- The base die state. -/
def baseState (s : State) (b : Nat) : BaseDieState := Tab.look {} s.ver.bases b

/-- Bk takes no new request: draining, in reset or held (R339, R594). -/
def baseBusy (s : State) (b : Nat) : Bool :=
  let d := baseState s b
  d.drainSince.isSome || d.resetAt.isSome

/-- Bk's logic is in reset (R341). -/
def baseDown (s : State) (b : Nat) : Bool := (baseState s b).resetAt.isSome && !(baseState s b).logicUp

/-- A transit bundle, by tower and number (R323). -/
def bundle (s : State) (t n : Nat) : Bundle := Tab.look {} s.ver.bundles (36 * t + n)

/-- Change a bundle. -/
def changeBundle (t n : Nat) (f : Bundle → Bundle) (s : State) : State :=
  { s with ver.bundles := Tab.change {} (36 * t + n) f s.ver.bundles }

/-- A bundle of a waveguide, 2w or 2w + 1 from `first`, meets a condition. -/
def guideBundle (s : State) (t first w : Nat) (p : Bundle → Bool) : Bool :=
  p (bundle s t (first + 2 * w)) || p (bundle s t (first + 2 * w + 1))

/-- A bundle is down (R333), or at half width. -/
def bundleOut (x : Bundle) : Bool := x.chosen && decide (x.mode = 0)
def bundleHalf (x : Bundle) : Bool := decide (x.mode = 1 ∨ x.mode = 2)

/-- The record of a link (0x4020:01). -/
def link (s : State) (n : Nat) : LinkRec := Tab.look {} s.lanes.links n

/-- Change a link. -/
def changeLink (n : Nat) (f : LinkRec → LinkRec) (s : State) : State :=
  { s with lanes.links := Tab.change {} n f s.lanes.links }

/-- Whether a port is in service. -/
def portServed (s : State) (p : Nat) : Bool :=
  s.start.service.any (fun u => match u with | .port n => n.val = p | _ => false)

/-- Whether a port is up: in service, and its link carries traffic. -/
def portUp (s : State) (p : Nat) : Bool := portServed s p && (link s p).up

/-- Whether TW is up. -/
def twUp (s : State) : Bool := inService s .tw && (link s 8).up

/-- The link number of the path from one tower into another on a plane. -/
def pathLink (src dst w : Nat) : Nat := 16 + ((dst * 8 + w) * 12 + src)

/-- Whether the path from one tower to another on a plane is in service (R243). -/
def pathUp (s : State) (src dst w : Nat) : Bool :=
  decide (8 * src + w ∉ s.pho.egressDown) && decide (8 * dst + w ∉ s.pho.ingressDown) &&
    Tab.look false s.pho.pathOn (pathLink src dst w) && !guideBundle s src 0 w bundleOut && !guideBundle s dst 16 w bundleOut

/-- Whether a path runs at half width (R294, R333). -/
def pathHalf (s : State) (src dst w : Nat) : Bool :=
  decide ((link s (pathLink src dst w)).state = 3) || guideBundle s src 0 w bundleHalf || guideBundle s dst 16 w bundleHalf

/-- Take units out of service. -/
def dropUnits (us : List PkgUnit) (s : State) : State :=
  { s with start.service := s.start.service.filter (fun u => decide (u ∉ us)) }

/-- Bring a unit into service, unless it is kept out until the next start. -/
def addUnit (u : PkgUnit) (s : State) : State :=
  if u ∈ s.start.kept then s else { s with start.service := addOnce u s.start.service }

/-- Move the clock to a deadline that lies ahead. [DEDUCED, safe: log 6] -/
def advanceTo (t : Nat) (s : State) : State := { s with now := max s.now t }

end Sys2Proof.Machine
end

