-- ==== Sys2Proof/Machine/Requests.lean ====
section
/-! DEFINITION. How the dictionary serves a request: the checks in the order of R527, replies, duplicates
and limits (R518 to R522). A family gives a write its effect as an `act`, which answers what it did. -/

namespace Sys2Proof.Machine

/-! ### Reply status codes (R527) -/
def stOk : BitVec 8 := 0x00
def stNoEntry : BitVec 8 := 0x01
def stReadOnly : BitVec 8 := 0x02
def stNotReadable : BitVec 8 := 0x03
def stNotStopped : BitVec 8 := 0x04
def stWorld : BitVec 8 := 0x05
def stRange : BitVec 8 := 0x06
def stLength : BitVec 8 := 0x07
def stState : BitVec 8 := 0x08
def stBusy : BitVec 8 := 0x09
def stSegment : BitVec 8 := 0x0A
def stMalformed : BitVec 8 := 0x0B
def stLocked : BitVec 8 := 0x0C
def stTooLarge : BitVec 8 := 0x0D
def stUnavailable : BitVec 8 := 0x0E
def stInternal : BitVec 8 := 0x0F

/-! ### Opcodes (R519) -/
def opRead : BitVec 8 := 0x01
def opWrite : BitVec 8 := 0x02
def opSegRead : BitVec 8 := 0x03
def opSegBegin : BitVec 8 := 0x04
def opSegData : BitVec 8 := 0x05
def opSegEnd : BitVec 8 := 0x06
def opSegAbort : BitVec 8 := 0x07

/-- What a write did: took effect, took a place among those whose effect waits, was refused with a status and a detail,
in which case nothing changed, or failed. -/
inductive WriteResult where
  | done (s : State)
  | wait (note : Nat) (s : State)
  | refuse (status : BitVec 8) (detail : Nat)
  /-- NVM could not be written: INTERNAL, with what the attempt leaves. -/
  | failed (s : State)

/-- The effect of a write on the state. -/
abbrev WriteAct := Bytes → State → WriteResult

/-- Refusals by name (R527's last paragraph). -/
def refuseRange (detail : Nat) : WriteResult := .refuse stRange detail
def refuseState : WriteResult := .refuse stState 0

/-- Two seconds, the life of a kept reply (R520). -/
def keptLife : Nat := 2 * sec

/-- A kept reply is still held. -/
def keptAlive (s : State) (k : Kept) : Bool := decide (s.now < k.time + keptLife)

/-- Keep a reply: at most 32 of one requester, the oldest leaving (R520). -/
def keepReply (r : Reply) (s : State) : State :=
  let alive := s.om.kept.filter (keptAlive s)
  let mine := alive.filter (fun k => decide (k.reply.id.requester = r.id.requester))
  let rest := if mine.length ≥ 32 then
      match mine with
      | [] => alive
      | k :: _ => alive.erase k
    else alive
  { s with om.kept := rest ++ [{ reply := r, time := s.now }] }

/-- Send a reply; a BUSY reply is not kept (R520). [DESIGN CHOICE, safe: log 7] -/
def sendReply (r : Reply) (s : State) : State :=
  let s := { s with om.replies := s.om.replies ++ [r], om.served := s.om.served + 1,
                    om.errors := s.om.errors + flag (r.status ≠ stOk) }
  if r.status = stBusy then s else keepReply r s

/-- An error reply: 4 bytes of detail (R519); `offset` is the retry time of a BUSY reply. -/
def errorReply (id : RequestId) (status : BitVec 8) (detail offset : Nat) (s : State) : State :=
  sendReply { id := id, status := status, offset := offset, data := leBytes 4 detail } s

/-- An OK reply. -/
def okReply (id : RequestId) (data : Bytes) (s : State) : State :=
  sendReply { id := id, status := stOk, data := data } s

/-- Answer every waiting request of an entry and note (R522). -/
def answerWaiting (key note : Nat) (status : BitVec 8) (detail : Nat) (s : State) : State :=
  let mine := s.om.waiting.filter (fun w => decide (w.id.key = key ∧ w.note = note))
  let s := { s with om.waiting := s.om.waiting.filter (fun w => !decide (w.id.key = key ∧ w.note = note)) }
  mine.foldl (fun s w => if status = stOk then okReply w.id [] s else errorReply w.id status detail 0 s) s

/-- The world of a request (R514): secure on the management port, that of the PF over MCTP. -/
def requestSecure (s : State) : Requester → Bool
  | .udp _ _ => true
  | .mctp _ => functionSecure s 0

/-- The source filter of R525. -/
def sourceAccepted (s : State) : Requester → Bool
  | .mctp _ => true
  | .udp a _ =>
    let f := dictBytes s 0x110007
    let addrs := (List.range 8).map (fun i => (slice f (16 * i) 16).foldl (fun v b => 256 * v + b.toNat) 0)
    addrs.all (· = 0) || addrs.any (fun x => decide (x ≠ 0 ∧ x = a.toNat))

/-- The payload item of a requester (R559). -/
def requesterItem : Requester → Option Bytes
  | .udp a p => some (leBytes 8 a.toNat ++ leBytes 2 p.toNat)
  | .mctp e => some (zeros 8 ++ leBytes 1 e.toNat ++ leBytes 1 0xFF)

/-- Discard a datagram of an address outside the filter: event 0x1104 at most once per second. -/
def rejectSource (r : Requester) (s : State) : State :=
  let s := { s with om.rejected := s.om.rejected + 1 }
  let due := match s.om.lastRejectEvent with
    | none => true
    | some t => decide (t + sec ≤ s.now)
  if due then raise 0x1104 [requesterItem r, none] { s with om.lastRejectEvent := some s.now } else s

/-- Whether requests are served at all: the Mule runs from the end of step 2 (R536), the recovery loader in
Donkey mode on the management port alone (R532); a port whose address is a duplicate answers none (R524). -/
def served (s : State) (r : Requester) : Bool :=
  match r with
  | .udp _ _ => (decide (3 ≤ s.start.step) || s.start.donkey) && !s.om.addressDuplicate
  | .mctp _ => decide (3 ≤ s.start.step)

/-- The requesters with a request being served. -/
def activeRequesters (s : State) : List Requester := (s.om.waiting.map (·.id.requester)).eraseDups

/-- A limit of R521 is reached. -/
def limitReached (s : State) (r : Requester) : Bool :=
  decide ((s.om.waiting.filter (fun w => decide (w.id.requester = r))).length ≥ 8) ||
    (decide ((activeRequesters s).length ≥ 32) && decide (r ∉ activeRequesters s))

/-- What R520, R521, R524, R525 and R532 do with a request before its own checks: `none` when it is to be
served now, the state that has dealt with it otherwise. [PRESUMED, safe: log 12] -/
def admitRequest (id : RequestId) (s : State) : Option State :=
  if !served s id.requester then some s
  else if !sourceAccepted s id.requester then some (rejectSource id.requester s)
  else match s.om.kept.find? (fun k => keptAlive s k && decide (k.reply.id = id)) with
    | some k => some { s with om.replies := s.om.replies ++ [k.reply], om.duplicates := s.om.duplicates + 1 }
    | none =>
      if s.om.waiting.any (fun w => decide (w.id = id)) then some s
      else match s.sec.activating with
        | some until_ => some (errorReply id stBusy 0 ((until_ - s.now + us - 1) / us) s)
        | none => if limitReached s id.requester then some (errorReply id stBusy 0 1000 s) else none

/-- The entries the recovery loader serves (R532). [DEDUCED, safe: log 114] -/
def donkeyServes (key : Nat) : Bool :=
  let i := key / 256
  decide (i < 0x1180) && decide (0x1000 ≤ i) || decide (0x600004 ≤ key ∧ key ≤ 0x600006) ||
    decide (0x680001 ≤ key ∧ key ≤ 0x68000A) || decide (0x7000 ≤ i ∧ i < 0x7F00)

/-- The tower whose block serves an entry. -/
def entryTower (key : Nat) : Option Nat :=
  let n := key % 256 - 1
  let i := key / 256
  if (i = 0x6010 ∨ i = 0x3820 ∨ i = 0x3830) ∧ 1 ≤ key % 256 ∧ n < 12 then some n else none

/-- The block that serves the entry does not (R527, R533): its base die is in reset, or a counter's tower is out of
service. A region table can be written while its tower is out of service (R468). -/
def entryUnavailable (s : State) (key : Nat) : Bool :=
  (s.start.donkey && !donkeyServes key) ||
    (match entryTower key with
      | none => false
      | some t => baseDown s (baseOfTower t) || (decide (key / 256 ≠ 0x6010) && !towerUp s t))

/-- An index that holds entries, at subindex 0, or an entry with a card, or one of the factory range. -/
def entryExists (key : Nat) : Bool :=
  (entryInfo key).isSome || (decide (key % 256 = 0) && (highestSub (key / 256)).isSome) ||
    (Config.factoryEntry (BitVec.ofNat 16 (key / 256)) (BitVec.ofNat 8 key)).isSome && decide (0x7F00 ≤ key / 256)

/-- Foal mode, or the device stopped (R512, R513). -/
def stopped (s : State) : Bool :=
  decide (s.parts.graphs = []) && decide (s.parts.runs = []) && allTowers.all (fun p => !queueEnabled s p)
  where queueEnabled (s : State) (p : Nat) : Bool := (Tab.look {} s.host.queues p).enabled

/-- The encoding of a type, for a written value (R511): the offset of the first bad byte. -/
def encodingFault (ty : EntryType) (v : Bytes) : Option Nat :=
  match ty with
  | .bool => if leNat v ≤ 1 then none else some 0
  | .f32 => if nbits (leNat v) 30 23 = 255 then some 0 else none
  | .str32 =>
    let body := v.takeWhile (fun b => decide (0x20 ≤ b.toNat ∧ b.toNat ≤ 0x7E))
    if (v.drop body.length).all (· = 0) then none else some body.length
  | _ => none

/-- The checks of R527 that come before a value is looked at: the first that fails. [PRESUMED, safe: log 12] -/
def accessFault (req : Requester) (key : Nat) (write : Bool) (s : State) : Option (BitVec 8 × Nat) :=
  if !entryExists key then some (stNoEntry, 0)
  else if entryUnavailable s key then some (stUnavailable, 0)
  else
    let info := entryInfo key
    let world := match info with
      | some e => e.world
      | none => if 0x7F00 ≤ key / 256 then .s else .both
    if world = .s ∧ !requestSecure s req then some (stWorld, 0)
    else if write && decide (0x7F00 ≤ key / 256) then some (stLocked, 0)
    else match info with
      | none => if write then some (stReadOnly, 0) else none
      | some e =>
        if write ∧ e.access = .ro then some (stReadOnly, 0)
        else if !write ∧ (e.access = .wo ∨ e.access = .cmd) then some (stNotReadable, 0)
        else none

/-- The checks of LENGTH, NOT_STOPPED and of the type's encoding (R511, R512, R527). [PRESUMED, safe: log 12] -/
def valueFault (key : Nat) (value : Bytes) (s : State) : Option (BitVec 8 × Nat) :=
  match entryInfo key with
  | none => none
  | some e =>
    if value.length ≠ e.length ∧ key ≠ 0x600004 then
      some (stLength, if value.length < e.length then value.length else e.length)
    else if e.access = .rwf ∧ !(s.start.foal || stopped s) then some (stNotStopped, 0)
    else match encodingFault e.type value with
      | some d => some (stRange, d)
      | none => none

/-- Apply a write that has passed its access checks, and answer it (R522). -/
def applyWrite (id : RequestId) (value : Bytes) (act : WriteAct) (s : State) : State :=
  match valueFault id.key value s with
  | some (st, d) => errorReply id st d 0 s
  | none => match act value s with
    | .done s' => okReply id [] s'
    | .wait n s' => { s' with om.waiting := s'.om.waiting ++ [{ id := id, note := n }] }
    | .refuse st d => errorReply id st d 0 s
    | .failed s' => errorReply id stInternal 0 0 s'

/-- Serve a WRITE. A value longer than 1,024 bytes cannot travel in one message: a row that writes such an
entry stands for the SEG_END that applies it (R529), whose own checks are those of its transfer. [DEDUCED, safe: log
115] -/
def serveWrite (req : Req) (key : Nat) (value : Bytes) (act : WriteAct) (s : State) : State :=
  let long := match entryInfo key with
    | some e => decide (e.length > 1024)
    | none => false
  let id : RequestId := { requester := req.requester, seq := req.seq,
                          opcode := if long then opSegEnd else opWrite, key := key, offset := 0 }
  match admitRequest id s with
  | some s' => s'
  | none =>
    match accessFault req.requester key true s with
    | some (st, d) => errorReply id st d 0 s
    | none => applyWrite id value act s

end Sys2Proof.Machine
end

