-- ==== Sys2Proof/Machine/Operands.lean ====
section
/-! DEFINITION. The operand forms: fields of the words, headers, descriptors and images that the manual lays
out (R3, R38, R44 to R48, R89, R133 to R137, R147, R173, R223, R228, R230, R236). -/

namespace Sys2Proof.Machine

/-! ### The tick word (R38) -/
def tickSync (w : BitVec 128) : Nat := bits w 127 112
def tickNumber (w : BitVec 128) : Nat := bits w 111 64
def tickCode (w : BitVec 128) : BitVec 2 := BitVec.ofNat 2 (bits w 63 62)
def tickClock (w : BitVec 128) : Nat := bits w 61 57
def tickCheck (w : BitVec 128) : Nat := bits w 31 0

/-- The check covers bits [127:32], from the most significant byte (R593). -/
def tickValid (w : BitVec 128) : Bool :=
  decide (tickSync w = 0xF628) && decide (tickCheck w = (crc32 (wordBytes w 32)).toNat)

/-- The tick word that opens a frame. -/
def mkTick (number : Nat) (code : BitVec 2) (clock : Nat) : BitVec 128 :=
  let body := 0xF628 * 2 ^ 112 + number % 2 ^ 48 * 2 ^ 64 + code.toNat * 2 ^ 62 + clock % 32 * 2 ^ 57
  BitVec.ofNat 128 (body + (crc32 (wordBytes (BitVec.ofNat 128 body) 32)).toNat)

/-! ### Graph images (R133 to R136, R147) and frame templates (R44 to R48) -/
def imgField (img : Bytes) (off len : Nat) : Nat := fieldAt img off len
def imgMagic (img : Bytes) : Nat := fieldAt img 0x00 4
def imgVersion (img : Bytes) : Nat := fieldAt img 0x04 2
def imgGroupCount (img : Bytes) : Nat := fieldAt img 0x06 1
def imgLength (img : Bytes) : Nat := fieldAt img 0x08 4
def imgCheck (img : Bytes) : Nat := fieldAt img 0x0C 4
def imgMask (img : Bytes) : Nat := fieldAt img 0x10 2
def imgCapCount (img : Bytes) : Nat := fieldAt img 0x12 2
def imgCapOff (img : Bytes) : Nat := fieldAt img 0x14 4
def imgTemplate (img : Bytes) : Nat := fieldAt img 0x18 4
def imgMapOff (img : Bytes) : Nat := fieldAt img 0x1C 4
def imgSaveOff (img : Bytes) : Nat := fieldAt img 0x20 4
def imgTaskOff (img : Bytes) : Nat := fieldAt img 0x24 4
def imgTaskCount (img : Bytes) : Nat := fieldAt img 0x28 2
def imgEdgeCount (img : Bytes) : Nat := fieldAt img 0x2C 4
def imgEdgeOff (img : Bytes) : Nat := fieldAt img 0x30 4
def imgGroupOff (img : Bytes) : Nat := fieldAt img 0x34 4
def imgPowerOff (img : Bytes) : Nat := fieldAt img 0x38 4
def imgFootprint (img : Bytes) : Nat := fieldAt img 0x3C 4

/-- The towers of a mask, rising. -/
def maskTowers (mask : Nat) : List Nat := maskMembers 12 mask

/-- The position of a tower among the towers of a mask. -/
def maskIndex (mask t : Nat) : Nat := (maskTowers mask).findIdx (· = t)

/-- Capability descriptor i (R131). -/
def imgCap (img : Bytes) (i : Nat) : Nat := fieldAt img (imgCapOff img + 8 * i) 8

/-- Bank map of a cluster (R73), by the tower's position in the mask. -/
def imgBankMap (img : Bytes) (ti k : Nat) : Bytes := slice img (imgMapOff img + 32 * (12 * ti + k)) 32

/-- Save mask of a cluster (R134). -/
def imgSaveMask (img : Bytes) (ti k : Nat) : Nat := fieldAt img (imgSaveOff img + 8 * (12 * ti + k)) 8

/-- A field of task descriptor i (R135). -/
def taskField (img : Bytes) (i off len : Nat) : Nat := fieldAt img (imgTaskOff img + 64 * i + off) len
def taskTower (img : Bytes) (i : Nat) : Nat := nbits (taskField img i 0x02 1) 7 4
def taskFlags (img : Bytes) (i : Nat) : Nat := taskField img i 0x03 1
def taskClusters (img : Bytes) (i : Nat) : Nat := taskField img i 0x04 2
def taskFirstPhase (img : Bytes) (i : Nat) : Nat := taskField img i 0x06 2
def taskSpan (img : Bytes) (i : Nat) : Nat := taskField img i 0x08 1
def taskInEdges (img : Bytes) (i : Nat) : Nat := taskField img i 0x0A 2
def taskSeed (img : Bytes) (i : Nat) : Nat := taskField img i 0x0C 4
def taskCodeOff (img : Bytes) (i : Nat) : Nat := taskField img i 0x10 4
def taskRouteOff (img : Bytes) (i : Nat) : Nat := taskField img i 0x18 4
def taskFirstEdge (img : Bytes) (i : Nat) : Nat := taskField img i 0x1C 4
def taskOutEdges (img : Bytes) (i : Nat) : Nat := taskField img i 0x20 2
def taskSource (img : Bytes) (i : Nat) : Nat := taskField img i 0x22 2
def taskOutput (img : Bytes) (i : Nat) : Nat := taskField img i 0x24 2
def taskOutLength (img : Bytes) (i : Nat) : Nat := taskField img i 0x28 8
def taskPreemptable (img : Bytes) (i : Nat) : Bool := nbit (taskFlags img i) 0
def taskContinues (img : Bytes) (i : Nat) : Bool := nbit (taskFlags img i) 1
def taskReports (img : Bytes) (i : Nat) : Bool := nbit (taskFlags img i) 2
def taskSkipPolicy (img : Bytes) (i : Nat) : Nat := nbits (taskFlags img i) 5 4

/-- Edge descriptor e (R136). -/
def edgeWord (img : Bytes) (e : Nat) : Nat := fieldAt img (imgEdgeOff img + 8 * e) 8
def edgeDest (w : Nat) : Nat := nbits w 63 48
def edgeKind (w : Nat) : Nat := nbits w 47 44
def edgeBit (w : Nat) : Nat := nbits w 43 40
def edgeSense (w : Nat) : Bool := nbit w 39

/-- A field of expert group entry i (R147). -/
def groupField (img : Bytes) (i off len : Nat) : Nat := fieldAt img (imgGroupOff img + 64 * i + off) len
def groupNumber (img : Bytes) (i : Nat) : Nat := nbits (groupField img i 0 1) 3 0
def groupExperts (img : Bytes) (i : Nat) : Nat := groupField img i 1 1
def groupK (img : Bytes) (i : Nat) : Nat := groupField img i 2 1
def groupFlags (img : Bytes) (i : Nat) : Nat := groupField img i 3 1
def groupQuota (img : Bytes) (i : Nat) : Nat := groupField img i 4 2
def groupTokenBytes (img : Bytes) (i : Nat) : Nat := groupField img i 6 2
def groupPlacement (img : Bytes) (i e : Nat) : Nat :=
  nbits (groupField img i (0x10 + e / 2) 1) (4 * (e % 2) + 3) (4 * (e % 2))

/-- The entry that carries a group number, if any. -/
def groupEntry (img : Bytes) (g : Nat) : Option Nat :=
  (List.range (imgGroupCount img)).find? (fun i => decide (groupNumber img i = g))

/-- A field of the template header (R44). -/
def tmplField (img : Bytes) (off len : Nat) : Nat := fieldAt img (imgTemplate img + off) len
def tmplVersion (img : Bytes) : Nat := tmplField img 0x00 2
def tmplCode (img : Bytes) : Nat := tmplField img 0x02 1
def tmplPeriod (img : Bytes) : Nat := tmplField img 0x03 1
def tmplMask (img : Bytes) : Nat := tmplField img 0x04 2
def tmplBudget (img : Bytes) : Nat := tmplField img 0x06 2
def tmplDesign (img : Bytes) : Nat := tmplField img 0x08 2
def tmplPhasesPerFrame (img : Bytes) : Nat := tmplField img 0x0A 1
def tmplSlotOff (img : Bytes) : Nat := tmplField img 0x0C 4
def tmplPhaseOff (img : Bytes) : Nat := tmplField img 0x10 4
def tmplPhaseCount (img : Bytes) : Nat := tmplField img 0x14 2
def tmplCheck (img : Bytes) : Nat := tmplField img 0x1C 4

/-- The bytes of the template: to the end of the later of its tables (R44). [DESIGN CHOICE, unsafe: log 131] -/
def tmplLength (img : Bytes) : Nat :=
  max (tmplSlotOff img + tmplPeriod img * (maskTowers (tmplMask img)).length * 8192)
    (tmplPhaseOff img + 8 * tmplPhaseCount img)

/-- The slot descriptor of a frame index, tower, plane and slot (R45). -/
def slotWord (img : Bytes) (frame t w slot : Nat) : Nat :=
  let n := (maskTowers (tmplMask img)).length
  let i := ((frame * n + maskIndex (tmplMask img) t) * 8 + w) * 256 + slot
  fieldAt img (imgTemplate img + tmplSlotOff img + 4 * i) 4
def slotType (w : Nat) : Nat := nbits w 31 29
def slotDest (w : Nat) : Nat := nbits w 28 25
def slotFlow (w : Nat) : Nat := nbits w 24 13
def slotLight (w : Nat) : Bool := nbit w 12
def slotPhase (w : Nat) : Nat := nbits w 11 8

/-- Phase table entry i (R48). -/
def phaseWord (img : Bytes) (i : Nat) : Nat := fieldAt img (imgTemplate img + tmplPhaseOff img + 8 * i) 8
def phaseFrame (w : Nat) : Nat := nbits w 63 60
def phaseStart (w : Nat) : Nat := nbits w 59 52
def phaseEnd (w : Nat) : Nat := nbits w 51 44
def phaseClass (w : Nat) : Nat := nbits w 43 38
def phaseCycles (w : Nat) : Nat := nbits w 37 22

/-- The phase entries of a frame index. -/
def framePhases (img : Bytes) (frame : Nat) : List Nat :=
  ((List.range (tmplPhaseCount img)).map (phaseWord img)).filter (fun w => decide (phaseFrame w = frame))

/-- The cycles a frame's phases spend. -/
def frameCost (img : Bytes) (frame : Nat) : Nat := ((framePhases img frame).map phaseCycles).sum

/-- Where an EXPERT slot of a tower leads (R226): the r-th such slot of its group on the plane in the frame. -/
def expertDest (img : Bytes) (frame t w slot : Nat) : Nat :=
  let ts := maskTowers (tmplMask img)
  let m := ts.length
  let g := slotFlow (slotWord img frame t w slot)
  let r := ((List.range slot).filter (fun n =>
    let d := slotWord img frame t w n
    decide (slotType d = 3 ∧ slotFlow d = g))).length
  if m ≤ 1 then t else ts.getD ((maskIndex (tmplMask img) t + 1 + r % (m - 1)) % m) t

/-- Flits of a slot (R222, R294), by frame length code: ordinary or RESERVE, at full or half width. -/
def slotFlits (code : Nat) (reserve half : Bool) : Nat :=
  let row : Nat × Nat × Nat × Nat := match code with
    | 0 => (5, 2, 2, 1)
    | 1 => (15, 12, 7, 6)
    | 2 => (35, 32, 17, 16)
    | _ => (74, 71, 37, 35)
  match reserve, half with
  | false, false => row.1
  | true, false => row.2.1
  | false, true => row.2.2.1
  | true, true => row.2.2.2

/-- The payload of a slot: its packet data less the slot header. -/
def slotPayload (code : Nat) (reserve half : Bool) : Nat := 240 * slotFlits code reserve half - 16

/-! ### Route entries (R89) -/
def routePhase (w : BitVec 64) : Nat := bits w 63 60
def routeIn (w : BitVec 64) : Nat := bits w 59 57
def routeOut (w : BitVec 64) : Nat := bits w 56 54
def routeStart (w : BitVec 64) : Nat := bits w 53 38
def routeLength (w : BitVec 64) : Nat := bits w 37 26
def routeCombine (w : BitVec 64) : Nat := bits w 25 24
def routeGroup (w : BitVec 64) : Nat := bits w 23 16
def routeLine (w : BitVec 64) : Nat := bits w 14 0

/-- The router a port of a router leads to (R86), none for the local port. -/
def routerAt (k port : Nat) : Option Nat :=
  let c := k % 4
  let r := k / 4
  match port with
  | 0 => some ((r + 2) % 3 * 4 + c)
  | 1 => some (r * 4 + (c + 1) % 4)
  | 2 => some ((r + 1) % 3 * 4 + c)
  | 3 => some (r * 4 + (c + 3) % 4)
  | _ => none

/-- The input port at which a line sent on an output port arrives. -/
def facingPort (port : Nat) : Nat := (port + 2) % 4

/-- The route entries of a cluster of a task: twelve counts, then the entries (R135). -/
def taskRoutes (img : Bytes) (i k : Nat) : List (BitVec 64) :=
  let off := taskRouteOff img i
  let before := ((List.range k).map (fun j => fieldAt img (off + 2 * j) 2)).sum
  (List.range (fieldAt img (off + 2 * k) 2)).map
    (fun j => BitVec.ofNat 64 (fieldAt img (off + 24 + 8 * (before + j)) 8))

/-! ### DMA descriptors (R173) -/
def dOp (d : BitVec 512) : Nat := bits d 7 0
def dFlags (d : BitVec 512) : Nat := bits d 15 8
def dFence (d : BitVec 512) : Bool := d.getLsbD 8
def dSrcSpad (d : BitVec 512) : Bool := d.getLsbD 9
def dDstSpad (d : BitVec 512) : Bool := d.getLsbD 10
def dNoPark (d : BitVec 512) : Bool := d.getLsbD 11
def dTask (d : BitVec 512) : Nat := bits d 31 16
def dCluster (d : BitVec 512) : Nat := bits d 39 36
def dEngine (d : BitVec 512) : Nat := bits d 35 32
def dKind (d : BitVec 512) : Nat := bits d 55 48
def dSource (d : BitVec 512) : Nat := bits d 127 64
def dDest (d : BitVec 512) : Nat := bits d 191 128
def dRowBytes (d : BitVec 512) : Nat := bits d 223 192
def dRows (d : BitVec 512) : Nat := bits d 255 224
def dSrcPitch (d : BitVec 512) : Nat := bits d 287 256
def dDstPitch (d : BitVec 512) : Nat := bits d 319 288
def dAux (d : BitVec 512) : Nat := bits d 351 320

/-! ### Open packets (R236) -/
def oKind (h : BitVec 128) : Nat := bits h 7 0
def oCode (h : BitVec 128) : Nat := bits h 15 12
def oPoison (h : BitVec 128) : Bool := h.getLsbD 11
def oLines (h : BitVec 128) : Nat := bits h 10 8 + 1
def oTag (h : BitVec 128) : BitVec 16 := BitVec.ofNat 16 (bits h 31 16)
def oTower (h : BitVec 128) : Nat := bits h 39 36
def oEngine (h : BitVec 128) : Nat := bits h 35 32
def oPartition (h : BitVec 128) : Nat := bits h 47 44
def oSecure (h : BitVec 128) : Bool := h.getLsbD 40
def oAddress (h : BitVec 128) : Nat := bits h 95 48
def oEnables (h : BitVec 128) : Nat := bits h 103 96
def oAtomic (h : BitVec 128) : Nat := bits h 111 104

/-- An open packet's header from its fields. -/
def mkOpen (kind code : Nat) (poison : Bool) (lines : Nat) (tag : BitVec 16) (tower engine partition : Nat)
    (secure : Bool) (address enables atomic : Nat) : BitVec 128 :=
  BitVec.ofNat 128 (kind + 2 ^ 8 * (lines - 1) + 2 ^ 11 * flag poison + 2 ^ 12 * code + 2 ^ 16 * tag.toNat +
    2 ^ 32 * engine + 2 ^ 36 * tower + 2 ^ 40 * flag secure + 2 ^ 44 * partition + 2 ^ 48 * address +
    2 ^ 96 * enables + 2 ^ 104 * atomic)

/-! ### Request and grant words (R228, R230) and the slot header (R223) -/
def qSource (w : BitVec 64) : Nat := bits w 63 60
def qSlot (w : BitVec 64) : Nat := bits w 59 56
def qReturn (w : BitVec 64) (p : Nat) : Bool := w.getLsbD (48 + p)
def qDest (w : BitVec 64) (p : Nat) : Nat := bits w (5 * p + 12) (5 * p + 9)
def qClass (w : BitVec 64) (p : Nat) : Nat := flag (w.getLsbD (5 * p + 8))

/-- The check of a request, grant, notice, report or acknowledgement word: CRC-8 over bits [63:8]. -/
def wordValid (w : BitVec 64) : Bool := decide (bits w 7 0 = (crc8 (wordBytes w 8)).toNat)

/-- A word with its check appended to bits [63:8]. -/
def mkWord (body : Nat) : BitVec 64 :=
  BitVec.ofNat 64 (body / 256 * 256 + (crc8 (wordBytes (BitVec.ofNat 64 body) 8)).toNat)
def gDest (w : BitVec 64) : Nat := bits w 63 60
def gSlot (w : BitVec 64) : Nat := bits w 59 56
def gWinner (w : BitVec 64) (p : Nat) : Nat := bits w (4 * p + 27) (4 * p + 24)
def gAged (w : BitVec 64) (p : Nat) : Bool := w.getLsbD (16 + p)
def gVoid (w : BitVec 64) (p : Nat) : Bool := w.getLsbD (8 + p)
def sStamp (h : BitVec 128) : BitVec 64 := h.setWidth 64
def sSource (h : BitVec 128) : Nat := bits h 71 68
def sPlane (h : BitVec 128) : Nat := bits h 67 64
def sType (h : BitVec 128) : Nat := bits h 74 72
def sFlow (h : BitVec 128) : Nat := bits h 91 80
def sLength (h : BitVec 128) : Nat := bits h 111 96

/-- A slot header from its fields (R223). -/
def mkSlotHeader (stamp : BitVec 64) (source plane type flow length : Nat) : BitVec 128 :=
  BitVec.ofNat 128 (stamp.toNat + 2 ^ 64 * plane + 2 ^ 68 * source + 2 ^ 72 * type + 2 ^ 80 * flow + 2 ^ 96 * length)

end Sys2Proof.Machine
end

