-- ==== Sys2Proof/Machine/HostOps.lean ====
section
/-! DEFINITION. What the device sends to the host: records, shadow, interrupts, notifications (R159, R183,
R498 to R505). -/

namespace Sys2Proof.Machine

/-- A tag of 14 bits that no outstanding host request has (R490). -/
def freeHostTag (used : List Nat) : Nat → Nat → Nat
  | 0, t => t
  | n + 1, t => if t ∈ used then freeHostTag used n ((t + 1) % 16384) else t

/-- The tag of the next host request. -/
def hostTag (s : State) : Nat := freeHostTag (s.host.reads.map (·.tag)) 16384 (s.host.nextTag % 16384)

/-- The queue set of a partition. -/
def queueSet (s : State) (p : Nat) : QueueSet := Tab.look {} s.host.queues p

/-- Change a queue set. -/
def changeQueue (p : Nat) (f : QueueSet → QueueSet) (s : State) : State :=
  { s with host.queues := Tab.change {} p f s.host.queues }

/-- A function's block. -/
def functionBlock (s : State) (f : Nat) : FunctionBlock := Tab.look {} s.host.functions f

/-- Change a function's block. -/
def changeFunction (f : Nat) (g : FunctionBlock → FunctionBlock) (s : State) : State :=
  { s with host.functions := Tab.change {} f g s.host.functions }

/-- The MSI-X vectors of a function (R502). -/
def vectorCount (f : Nat) : Nat := if f = 0 then 64 else if f = 13 then 1 else 4

/-- The host port of a function (R491): 0 for A, 1 for B. -/
def portOfFunction (s : State) (f : Nat) : Nat :=
  if s.host.split then (if f = 13 then 1 else if f ≠ 0 ∧ nbit (dictNat s 0x118004) f then 1 else 0) else 0

/-- The function a partition's requests carry (R494); the PF where none owns it. -/
def partitionFunction (s : State) (p : Nat) : Nat := (ownerOf s p).getD 0

/-- A posted write leaves for the host. [DESIGN CHOICE, safe: log 7] -/
def postWrite (w : HostWrite) (s : State) : State := { s with host.writes := s.host.writes ++ [w] }

/-- Send an MSI-X message; a masked vector is held pending, a vector outside the table sends none (R502). -/
def sendVector (f vec : Nat) (s : State) : State :=
  if vec ≥ vectorCount f then s
  else if vec ∉ (functionBlock s f).unmasked then
    changeFunction f (fun b => { b with waiting := addOnce vec b.waiting }) s
  else postWrite { function := f, kind := .message, address := vec, data := [] } s

/-- Moderation in base cycles (R498). -/
def moderation (q : QueueSet) : Nat := bits q.vectors 31 16 * us

/-- Send the completion vector under moderation (R500). -/
def signalCompletion (p : Nat) (s : State) : State :=
  let q := queueSet s p
  let early := match q.lastCompletion with
    | some t => decide (s.now < t + moderation q)
    | none => false
  if early then changeQueue p (fun q => { q with heldCompletion := true }) s
  else sendVector (partitionFunction s p) (bits q.vectors 7 0)
    (changeQueue p (fun q => { q with lastCompletion := some s.now }) s)

/-- Send the fault vector under moderation (R501). -/
def signalFault (p : Nat) (s : State) : State :=
  let q := queueSet s p
  let early := match q.lastFault with
    | some t => decide (s.now < t + moderation q)
    | none => false
  if early then changeQueue p (fun q => { q with heldFault := true }) s
  else sendVector (partitionFunction s p) (bits q.vectors 15 8)
    (changeQueue p (fun q => { q with lastFault := some s.now }) s)

/-- Write the 16-byte shadow (R500). -/
def writeShadow (p : Nat) (s : State) : State :=
  let q := queueSet s p
  postWrite { function := partitionFunction s p, kind := .shadow, address := q.shadowBase,
              data := leBytes 4 q.gqHead.toNat ++ leBytes 4 q.cqTail.toNat ++ leBytes 4 q.fqTail.toNat ++ zeros 4 } s

/-- The completion ring is full (R500). -/
def ringFull (q : QueueSet) : Bool := decide ((q.cqTail - q.cqHead).toNat ≥ q.cqSize)

/-- Put one record into its ring slot and advance the tail. -/
def ringWrite (p : Nat) (r : Bytes) (s : State) : State :=
  let q := queueSet s p
  let s := postWrite { function := partitionFunction s p, kind := .record,
                       address := q.cqBase + 32 * (q.cqTail.toNat % max q.cqSize 1), data := r } s
  changeQueue p (fun q => { q with cqTail := q.cqTail + 1 }) s

/-- A full ring with 64 records or more held stops tasks and commands (R500). -/
def partitionHeld (s : State) (p : Nat) : Bool :=
  let q := queueSet s p
  ringFull q && decide (q.hold.length ≥ 64)

/-- Report a 32-byte completion record (R500): into the ring, or into the hold of 256 while it is full. -/
def postRecord (p : Nat) (r : Bytes) (s : State) : State :=
  let q := queueSet s p
  if !q.enabled then s
  else if ringFull q || decide (q.hold ≠ []) then
    if q.hold.length ≥ 256 then s
    else
      let s := changeQueue p (fun q => { q with hold := q.hold ++ [r] }) s
      raiseIf (decide (q.hold.length = 63)) 0x1183
        [b1 (portOfFunction s (partitionFunction s p)), b1 (partitionFunction s p), b1 p] s
  else signalCompletion p (writeShadow p (ringWrite p r s))

/-- A completion record from its fields (R159). -/
structure RecordFields where
  stamp : BitVec 64 := 0
  run : BitVec 32 := 0
  task : Nat := 0xFFFF
  flags : BitVec 8 := 0
  /-- 0 task, 1 run, 2 command. -/
  kind : Nat := 2
  code : Nat := 0
  reason : Nat := 0
  argument : Nat := 0
  place : Nat := 0
  iteration : Nat := 0
  countA : Nat := 0
  countB : Nat := 0
  deriving DecidableEq, Repr

/-- The 32 bytes of a completion record. -/
def recordBytes (r : RecordFields) : Bytes :=
  leBytes 8 r.stamp.toNat ++ leBytes 4 r.run.toNat ++ leBytes 2 r.task ++ leBytes 1 r.flags.toNat ++
    leBytes 1 (16 * r.kind + r.code) ++ leBytes 2 r.reason ++ leBytes 2 r.argument ++ leBytes 1 r.place ++
    leBytes 3 r.iteration ++ leBytes 4 r.countA ++ leBytes 4 r.countB

/-- Set a notification bit on the PF and on every VF that owns a partition (R505). -/
def notify (bit : Nat) (s : State) : State :=
  let fs := 0 :: ((List.range 12).map (· + 1)).filter (fun v => allTowers.any (fun p => decide (ownerOf s p = some v)))
  fs.foldl (fun s f =>
    let b := functionBlock s f
    let s := if nbit b.notifyStatus bit then s
      else changeFunction f (fun b => { b with notifyStatus := b.notifyStatus + 2 ^ bit }) s
    if nbit b.notifyMask bit then s else sendVector f b.notifyVector s) s

end Sys2Proof.Machine
end

