-- ==== Sys2Proof/Machine/Work.lean ====
section
/-! DEFINITION. Runs, tasks and debt: what the families change of them (R51 to R54, R142, R152, R158, R398,
R404). -/

namespace Sys2Proof.Machine

/-- What a partition keeps. -/
def part (s : State) (p : Nat) : Part := Tab.look {} s.parts.parts p

/-- Change what a partition keeps. -/
def changePart (p : Nat) (f : Part → Part) (s : State) : State :=
  { s with parts.parts := Tab.change {} p f s.parts.parts }

/-- The graph a handle names. -/
def graphOf (s : State) (h : BitVec 16) : Option Graph := s.parts.graphs.find? (fun g => decide (g.handle = h))

/-- The graphs of a partition. -/
def graphsOf (s : State) (p : Nat) : List Graph := s.parts.graphs.filter (fun g => decide (g.partition = p))

/-- The live runs of a partition, in the order of acceptance. -/
def runsOf (s : State) (p : Nat) : List Run := s.parts.runs.filter (fun r => decide (r.partition = p))

/-- The run a partition executes: RUNNING, SAVING or RESTORING. -/
def executingRun (s : State) (p : Nat) : Option Run :=
  (runsOf s p).find? (fun r => decide (r.state = .running ∨ r.state = .saving ∨ r.state = .restoring))

/-- The RUNNING run of a partition. -/
def runningRun (s : State) (p : Nat) : Option Run := (runsOf s p).find? (fun r => decide (r.state = .running))

/-- A live run by its ID. -/
def findRun (s : State) (p : Nat) (id : BitVec 32) : Option Run := (runsOf s p).find? (fun r => decide (r.id = id))

/-- Change a run. -/
def changeRun (p : Nat) (id : BitVec 32) (f : Run → Run) (s : State) : State :=
  { s with parts.runs := changeFirst (fun r => decide (r.partition = p ∧ r.id = id)) f s.parts.runs }

/-- Remove a run: its context and save area are released (R141, R152). -/
def dropRun (p : Nat) (id : BitVec 32) (s : State) : State :=
  { s with parts.runs := s.parts.runs.filter (fun r => !decide (r.partition = p ∧ r.id = id)) }

/-- A task of a run. -/
def taskOf (r : Run) (i : Nat) : Task := Tab.look {} r.tasks i

/-- Change a task of a run. -/
def changeTask (p : Nat) (id : BitVec 32) (i : Nat) (f : Task → Task) (s : State) : State :=
  changeRun p id (fun r => { r with tasks := Tab.change {} i f r.tasks }) s

/-- The image whose template a partition follows: that of the run it executes, else of its
first graph that can run. [DESIGN CHOICE, unsafe: log 133] -/
def activeImage (s : State) (p : Nat) : Option Bytes :=
  match executingRun s p with
  | some r => (graphOf s r.handle).map (·.image)
  | none => ((graphsOf s p).find? (fun g => decide (g.ready ≤ s.frame.count))).map (·.image)

/-- The image of a run. -/
def runImage (s : State) (r : Run) : Bytes := ((graphOf s r.handle).map (·.image)).getD []

/-! ### The task on a cluster -/

/-- The task of the running run that holds a cluster of a tower. -/
def taskOn (s : State) (t k : Nat) : Option (Run × Nat) :=
  match partitionOf s t with
  | none => none
  | some p => match executingRun s p with
    | none => none
    | some r =>
      let img := runImage s r
      (r.tasks.find? (fun (i, task) => decide (task.phase = .running) && decide (taskTower img i = t) &&
        nbit (taskClusters img i) k)).map (fun (i, _) => (r, i))

/-- Change the task on a cluster, if there is one. -/
def changeTaskOn (t k : Nat) (f : Task → Task) (s : State) : State :=
  match taskOn s t k with
  | none => s
  | some (r, i) => changeTask r.partition r.id i f s

/-- Set sticky flags of the task on a cluster (R107, R159). -/
def setTaskFlags (t k : Nat) (flags : BitVec 8) (s : State) : State :=
  if flags = 0 then s else changeTaskOn t k (fun x => { x with flags := x.flags ||| flags }) s

/-- Flag bits of a completion record (R159). -/
def flInvalid : BitVec 8 := 0x01
def flOverflow : BitVec 8 := 0x02
def flSaturation : BitVec 8 := 0x04
def flPoison : BitVec 8 := 0x08
def flSkipped : BitVec 8 := 0x10
def flFaulted : BitVec 8 := 0x20
def flPreempted : BitVec 8 := 0x40
def flUnknown : BitVec 8 := 0x80

/-! ### Clocks, slack and debt -/

/-- The clock of a die in units of 25 MHz (R403). -/
def dieClock (s : State) (t : Nat) : Nat :=
  let a := Tab.look {} s.clk.apart t
  if a.code = 0 then 2 * s.clk.inForce else if a.halved then a.code else 2 * a.code

/-- A of a mask: the cycles of a frame at the lowest clock among its towers (R51, R404). -/
def available (s : State) (mask : Nat) : Nat :=
  let c := (leastOf ((maskTowers mask).map (dieClock s))).getD (2 * s.clk.inForce)
  frameCycles s.frame.code * c / 40

/-- The debt of a region. -/
def debt (s : State) (t r : Nat) : Nat := Tab.look 0 s.clk.debt (regionKey t r)

/-- Put a region's debt at a value. -/
def setDebt (t r n : Nat) (s : State) : State := { s with clk.debt := Tab.put 0 (regionKey t r) n s.clk.debt }

/-- A group of frames of a partition's template opens: one frame, or the frames of a stride group (R52). -/
def openGroup (q : Part) : Part :=
  { q with inGroup := 0, slipping := false, cycles := 0, spent := [], halfRaised := false }

/-- A region's debt has reached the half-slack threshold of its partition's template (R52). -/
def halfReached (s : State) (p : Nat) (img : Bytes) (t r : Nat) : Bool :=
  decide (2 * debt s t r ≥ (part s p).stride * available s (tmplMask img) - tmplBudget img)

/-- The half-slack rule after a region's debt has grown (R52): event 0x3004 once per frame or stride group,
and the partition is reported to the cap-sharing controller. -/
def checkHalfSlack (t r : Nat) (s : State) : State :=
  match partitionOf s t with
  | none => s
  | some p => match activeImage s p with
    | none => s
    | some img =>
      if !(part s p).halfRaised ∧ halfReached s p img t r then
        raise 0x3004 [b1 t, b1 p, b1 r]
          { changePart p (fun q => { q with halfRaised := true }) s with
            pow.reported := addOnce p s.pow.reported }
      else s

/-- Add to the debt of a region (R398); the hub has no phases and enters no template's debt. -/
def addDebt (t r n : Nat) (s : State) : State :=
  if r ≥ 12 ∨ n = 0 then s else checkHalfSlack t r (setDebt t r (debt s t r + n) s)

/-- Stall a cluster's region: debt, and the stall count of the task on it (R121, R159). -/
def stallRegion (t k n : Nat) (s : State) : State :=
  addDebt t k n (changeTaskOn t k (fun x => { x with stall := x.stall + n }) s)

/-! ### Crossings (R392, R393) -/

/-- The payload items of R409: tower, region, two clock codes, skew. [DESIGN CHOICE, safe: log 127] -/
def clkItems (t r a b skew : Option Nat) : List (Option Bytes) := [t.bind b1, r.bind b1, a.bind b1, b.bind b1, skew.bind b2]

/-- A region is held for some cycles. -/
def holdRegion (t k n : Nat) (s : State) : State := stallRegion t k n (count64 0x280006 n s)

/-- Rule 2: the sender of a busy crossing is more than 8 cycles ahead of the receiver. -/
def holdSender (t recv send : Nat) (s : State) : State :=
  let skew := debt s t recv - debt s t send
  if recv = send ∨ skew ≤ 8 then s
  else raise 0x2803 (clkItems (some t) (some send) none none (some skew)) (holdRegion t send skew s)

/-- Rule 3: the receiver of a busy crossing waits for a line that is absent at its cycle. -/
def holdReceiver (t send recv : Nat) (s : State) : State :=
  let skew := debt s t send - debt s t recv
  if recv = send ∨ skew = 0 then s else holdRegion t recv skew s

/-- A line crosses from one region to another: the sender or the receiver is held where R393 says so. -/
def crossLine (t send recv : Nat) (s : State) : State := holdReceiver t send recv (holdSender t recv send s)

/-! ### The stride (R55) -/

/-- The stride of a template at the clock in force (R55). -/
def strideOf (s : State) (img : Bytes) : Nat :=
  let a := max (available s (tmplMask img)) 1
  max 1 ((tmplBudget img + a - 1) / a)

/-- A partition takes the stride of the template it follows (R55): event 0x3006 when it changes. [DEDUCED, safe: log
54] -/
def strideFor (p : Nat) (s : State) : State :=
  match activeImage s p with
  | none => s
  | some img =>
    let k := strideOf s img
    if k = (part s p).stride then s
    else raise 0x3006 [((towersOf s p).head?).bind b1, b1 p] (changePart p (fun q => { q with stride := k }) s)

/-- The phase entries of a running task in a template frame. [DEDUCED, unsafe: log 52] -/
def phasesHere (img : Bytes) (x : Task) (i index : Nat) : List Nat :=
  let n := tmplPhaseCount img
  let at_ := (taskFirstPhase img i + (taskSpan img i - x.spanLeft)) % max n 1
  ((List.range (min x.spanLeft (n - at_))).map (fun j => phaseWord img (at_ + j))).takeWhile
    (fun w => decide (phaseFrame w = index))

/-- The cycles of phase entries. -/
def cyclesOf (phases : List Nat) : Nat := (phases.map phaseCycles).foldl (· + ·) 0

/-- A task ends in a template frame: the cycles of its phases of that frame stay spent on its regions (R53, R400).
[DEDUCED, safe: log 137] -/
def spendPhases (p : Nat) (img : Bytes) (x : Task) (i : Nat) (s : State) : State :=
  let n := cyclesOf (phasesHere img x i (part s p).index)
  let t := taskTower img i
  changePart p (fun q => { q with
    spent := (maskMembers 12 (taskClusters img i)).foldl (fun l k => Tab.change 0 (regionKey t k) (· + n) l) q.spent }) s

/-! ### Completion codes (R6) -/
def ccOk : Nat := 0x0
def ccCorrected : Nat := 0x1
def ccRetry : Nat := 0x2
def ccPathReset : Nat := 0x3
def ccTargetDead : Nat := 0x4
def ccStaleAtomic : Nat := 0x5
def ccPoison : Nat := 0x6
def ccWorldDenied : Nat := 0x7
def ccXlateFault : Nat := 0x8
def ccRefused : Nat := 0x9

/-- The order of R160: the first of these that was met is the run's code. -/
def codeOrder : List Nat :=
  [ccWorldDenied, ccTargetDead, ccStaleAtomic, ccPathReset, ccRefused, ccXlateFault, ccPoison, ccCorrected]

/-- The code that a set of codes amounts to (R160). -/
def worstCode (met : List Nat) : Nat := (codeOrder.find? (· ∈ met)).getD ccOk

/-- The completion code a task's fault stands for: that of the completion that reached it, else OK. -/
def taskCode (x : Task) : Nat := worstCode x.codes

/-! ### Reports -/

/-- Report a command: a command record in the partition's completion queue (R140, R159). -/
def reportCommand (p : Nat) (run : BitVec 32) (code reason argument : Nat) (s : State) : State :=
  postRecord p (recordBytes { stamp := packageStamp s, run := run, kind := 2, code := code, reason := reason,
                              argument := argument }) s

/-- Report a task (R159). -/
def reportTask (r : Run) (i : Nat) (s : State) : State :=
  let x := taskOf r i
  let t := taskTower (runImage s r) i
  postRecord r.partition (recordBytes {
    stamp := towerStamp s t, run := r.id, task := i, flags := x.flags, kind := 0, code := taskCode x, reason := x.fault, place := 16 * t + x.place, iteration := r.iteration % 2 ^ 24,
    countA := x.stall }) s

/-- The flags of a run: those of every task, the ones not ended among them (R160). -/
def runFlags (r : Run) : BitVec 8 := r.tasks.foldl (fun f x => f ||| x.2.flags) r.flags

/-- The code of a run: the one a teardown states, else the first of R160 that any of its tasks met. -/
def runCode (r : Run) : Nat := r.forced.getD (worstCode (r.codes ++ r.tasks.flatMap (·.2.codes)))

/-- Report a run with a code (R159, R160). -/
def reportRun (r : Run) (code reason : Nat) (s : State) : State :=
  postRecord r.partition (recordBytes {
    stamp := packageStamp s, run := r.id, flags := runFlags r, kind := 1, code := code,
    reason := reason, iteration := r.iteration % 2 ^ 24, countA := r.dropped % 2 ^ 32, countB := r.deferred % 2 ^ 32 }) s

end Sys2Proof.Machine
end

