-- ==== Sys2Proof/Machine/TaskOps.lean ====
section
/-! DEFINITION. How tasks resolve, skip, fault and end, and how runs end (R142 to R160). Nothing here moves
data: a skip's output write is left in an engine's queue. -/

namespace Sys2Proof.Machine

/-- Payload items of the compute and tasks block (R162). [DESIGN CHOICE, safe: log 127] -/
def taskItems (p : Nat) (run : Option (BitVec 32)) (task tower cluster group : Option Nat) : List (Option Bytes) :=
  [b1 p, run.bind (fun r => b4 r.toNat), task.bind b2, tower.bind b1, cluster.bind b1, group.bind b1]

/-- The lowest cluster of a task's mask. -/
def taskPlace (img : Bytes) (i : Nat) : Nat := (maskMembers 12 (taskClusters img i)).headD 0

/-- The tasks of a run at the start of an iteration (R142). -/
def freshTasks (img : Bytes) : Tab Task :=
  (List.range (imgTaskCount img)).foldl
    (fun t i => Tab.put {} i { counter := taskInEdges img i, place := taskPlace img i } t) []

/-- Every descriptor queue of a tower. -/
def engineKeys (t : Nat) : List Nat := (List.range 16).map (fun e => 16 * t + e)

/-- Drop the descriptors and awaited fault records of a run that leaves the live states (R189). -/
def discardContext (p : Nat) (id : BitVec 32) (s : State) : State :=
  let keep (d : Desc) : Bool := !decide (d.partition = p ∧ d.run = id)
  { s with
    dma.queues := Tab.changeAll [] ((towersOf s p).flatMap engineKeys) (fun q => q.filter keep) s.dma.queues
    dma.records := s.dma.records.filter (fun r => !decide (r.partition = p ∧ r.run = id))
    parts.remoteEdges := s.parts.remoteEdges.filter (fun e => !decide (e.1 = p ∧ e.2.1 = id)) }

/-- A run leaves the live states with a run record of a given code, and event 0x3406 when it was stopped. [DEDUCED,
safe: log 81] -/
def releaseRun (p : Nat) (id : BitVec 32) (code reason : Nat) (stopped : Bool) (s : State) : State :=
  match findRun s p id with
  | none => s
  | some r =>
    let s := reportRun r code reason s
    let s := raiseIf stopped 0x3406 (taskItems p (some id) none none none none) s
    dropRun p id (discardContext p id s)

/-- An iteration ends when every task has ended (R146): the next one begins at the next tick, or the run's
record is written and its context released. A run that a fault stops does neither (R152). -/
def checkIteration (p : Nat) (id : BitVec 32) (s : State) : State :=
  match findRun s p id with
  | none => s
  | some r =>
    let img := runImage s r
    if r.freeze then s
    else if (List.range (imgTaskCount img)).all (fun i => decide ((taskOf r i).phase = .ended)) then
      if r.iterations ≠ 0 ∧ r.iteration + 1 ≥ r.iterations then releaseRun p id (runCode r) 0 false s
      else changeRun p id (fun r =>
        { r with iteration := r.iteration + 1, tasks := freshTasks img, started := false }) s
    else s

/-- A descriptor of the hub itself that writes a skipped task's output (R143). -/
def skipDesc (op task cluster source dest rowBytes rows : Nat) : BitVec 512 :=
  BitVec.ofNat 512 (op + 2 ^ 16 * task + 2 ^ 36 * cluster + 2 ^ 64 * source + 2 ^ 128 * dest + 2 ^ 192 * rowBytes +
    2 ^ 224 * rows + 2 ^ 256 * (rowBytes % 2 ^ 32) + 2 ^ 288 * (rowBytes % 2 ^ 32))

/-- The descriptors that move `len` bytes: whole rows of 2^24 bytes, then the rest. [DEDUCED, safe: log 125] -/
def skipDescs (op task cluster source dest len : Nat) : List (BitVec 512) :=
  let row := 2 ^ 24
  (if len / row > 0 then [skipDesc op task cluster source dest row (len / row)] else []) ++
    (if len % row > 0 then
      [skipDesc op task cluster (source + len / row * row) (dest + len / row * row) (len % row) 1] else [])

/-- Queue descriptors on an engine of a tower; `own` ones are the hub's. -/
def queueDescs (t e p : Nat) (id : BitVec 32) (own : Bool) (ds : List (BitVec 512)) (s : State) : State :=
  let new : List Desc := ds.zipIdx.map (fun (d, i) =>
    { raw := d, partition := p, run := id, order := s.dma.nextOrder + i, own := own })
  { s with
    dma.nextOrder := s.dma.nextOrder + ds.length
    dma.queues := Tab.change [] (16 * t + e) (fun q => q ++ new) s.dma.queues }

/-- Whether a task still has a descriptor that has not completed (R145). -/
def taskHasDescs (s : State) (p : Nat) (id : BitVec 32) (i : Nat) : Bool :=
  ((towersOf s p).flatMap engineKeys).any (fun k =>
    (Tab.look [] s.dma.queues k).any (fun d =>
      decide (d.partition = p ∧ d.run = id ∧ dTask d.raw = i)))

/-- A task faults (R158): its code and flag, event 0x3403 and its record. Under CONTINUE the caller ends the
task; under FAIL_RUN the run freezes at the next tick. -/
def markFault (p : Nat) (id : BitVec 32) (i fault code : Nat) (s : State) : State :=
  match findRun s p id with
  | none => s
  | some r =>
    let img := runImage s r
    let s := changeTask p id i
      (fun x => { x with fault := fault, flags := x.flags ||| flFaulted, codes := code :: x.codes }) s
    let s := raise 0x3403 (taskItems p (some id) (some i) (some (taskTower img i)) (some (taskOf r i).place) none) s
    let s := match findRun s p id with
      | none => s
      | some r => reportTask r i s
    if taskContinues img i then s
    else changeRun p id (fun r => { r with freeze := true, codes := code :: r.codes }) s

/-- A task ends: its flags and codes enter the run's. Its out-edges within the die are returned as arrivals;
those to other dies are on their way through the coordinator (R142). -/
def endOne (p : Nat) (id : BitVec 32) (i : Nat) (s : State) : List (Nat × Bool) × State :=
  match findRun s p id with
  | none => ([], s)
  | some r =>
    let img := runImage s r
    let x := taskOf r i
    let s := if x.phase = .running then spendPhases p img x i s else s
    let s := changeTask p id i (fun x => { x with phase := .ended }) s
    let s := changeRun p id (fun r => { r with flags := r.flags ||| x.flags, codes := x.codes ++ r.codes }) s
    let edges := (List.range (taskOutEdges img i)).map (taskFirstEdge img i + ·)
    let here (e : Nat) : Bool := decide (taskTower img (edgeDest (edgeWord img e)) = taskTower img i)
    let truth (w : Nat) : Bool := decide (edgeKind w = 0) || decide (x.predicate.getLsbD (edgeBit w) = edgeSense w)
    ((edges.filter here).map (fun e => (edgeDest (edgeWord img e), truth (edgeWord img e))),
      { s with parts.remoteEdges := s.parts.remoteEdges ++
          ((edges.filter (fun e => !here e)).map (fun e => (p, id, i, e))) })

/-- Report a task that ends, when it carries the always-report flag and has not been reported as faulted. -/
def reportEnd (p : Nat) (id : BitVec 32) (i : Nat) (s : State) : State :=
  match findRun s p id with
  | none => s
  | some r =>
    let img := runImage s r
    if taskReports img i ∧ (taskOf r i).fault = 0 then reportTask r i s else s

/-- Report a task, then end it. -/
def finishOne (p : Nat) (id : BitVec 32) (i : Nat) (s : State) : List (Nat × Bool) × State :=
  endOne p id i (reportEnd p id i s)

/-- A resolved task with a false predicate is skipped (R143): HOLD ends it at once; ZERO and PASS queue the
write of its output, whose completion ends it. A binding the run does not have is a descriptor outside its
encoding. [DEDUCED, safe: log 125] -/
def skipTask (p : Nat) (id : BitVec 32) (i : Nat) (s : State) : List (Nat × Bool) × State :=
  match findRun s p id with
  | none => ([], s)
  | some r =>
    let img := runImage s r
    let s := changeTask p id i
      (fun x => { x with phase := .skipping, predicate := 0, flags := x.flags ||| flSkipped }) s
    let len := taskOutLength img i
    let pass := decide (taskSkipPolicy img i = 2)
    if taskSkipPolicy img i = 0 ∨ len = 0 then finishOne p id i s
    else if taskOutput img i ≥ r.bindings.length ∨ (pass ∧ taskSource img i ≥ r.bindings.length) then
      let s := markFault p id i 0x2008 ccRefused s
      if taskContinues img i then endOne p id i s else ([], s)
    else
      let dest := r.bindings.getD (taskOutput img i) 0
      let src := if pass then r.bindings.getD (taskSource img i) 0 else 0
      ([], queueDescs (taskTower img i) 0 p id true
        (skipDescs (if pass then 1 else 2) i (taskPlace img i) src dest len) s)

/-- One in-edge of a task arrives: its counter falls, and at zero the task is resolved (R142, R143). -/
def arriveOne (p : Nat) (id : BitVec 32) (i : Nat) (truth : Bool) (s : State) : List (Nat × Bool) × State :=
  let s := changeTask p id i (fun x => { x with counter := x.counter - 1, allTrue := x.allTrue && truth }) s
  match findRun s p id with
  | none => ([], s)
  | some r =>
    let x := taskOf r i
    if x.counter ≠ 0 ∨ x.phase ≠ .waiting then ([], s)
    else if x.allTrue then
      ([], changeTask p id i (fun x => { x with phase := .resolved, resolvedAt := s.now }) s)
    else skipTask p id i s

/-- Deliver arrivals and all that follows from them; each edge of the graph arrives at most once. -/
def settle : Nat → Nat → BitVec 32 → List (Nat × Bool) → State → State
  | 0, _, _, _, s => s
  | _ + 1, _, _, [], s => s
  | fuel + 1, p, id, (i, truth) :: rest, s =>
    let (more, s') := arriveOne p id i truth s
    settle fuel p id (rest ++ more) s'

/-- How many arrivals an iteration can see. -/
def edgeFuel (s : State) (p : Nat) (id : BitVec 32) : Nat :=
  match findRun s p id with
  | none => 0
  | some r => imgEdgeCount (runImage s r) + 1

/-- Deliver arrivals, then look whether the iteration has ended. -/
def settleAll (p : Nat) (id : BitVec 32) (work : List (Nat × Bool)) (s : State) : State :=
  checkIteration p id (settle (edgeFuel s p id) p id work s)

/-- A running or skipping task ends, and its out-edges are delivered (R142, R145). -/
def endTask (p : Nat) (id : BitVec 32) (i : Nat) (s : State) : State :=
  let (work, s') := finishOne p id i s
  settleAll p id work s'

/-- A task faults (R158), with the completion code that reached it. A task that has faulted before keeps its
first fault. -/
def taskFault (p : Nat) (id : BitVec 32) (i fault code : Nat) (s : State) : State :=
  match findRun s p id with
  | none => s
  | some r =>
    if (taskOf r i).fault ≠ 0 ∨ (taskOf r i).phase = .ended then s
    else
      let s := markFault p id i fault code s
      if taskContinues (runImage s r) i then
        let (work, s') := endOne p id i s
        settleAll p id work s'
      else s

/-- The task on a cluster faults. -/
def faultTaskOn (t k fault code : Nat) (s : State) : State :=
  match taskOn s t k with
  | none => s
  | some (r, i) => taskFault r.partition r.id i fault code s

/-- Resolve the tasks with no in-edge at the tick that starts an iteration (R146). -/
def resolveRoots (p : Nat) (id : BitVec 32) (s : State) : State :=
  match findRun s p id with
  | none => s
  | some r =>
    let img := runImage s r
    let roots := (List.range (imgTaskCount img)).filter
      (fun i => decide (taskInEdges img i = 0 ∧ (taskOf r i).phase = .waiting))
    let s := changeRun p id (fun r => { r with started := true }) s
    roots.foldl (fun s i => changeTask p id i (fun x => { x with phase := .resolved, resolvedAt := s.now }) s) s

end Sys2Proof.Machine
end

