-- ==== Sys2Proof/Machine/Spad.lean ====
section
/-! DEFINITION. The scratchpads and the intra-die network (R69 to R95): storage with poison, the arbitration
of a bank, the chunk code, retirement, and route parity. -/

namespace Sys2Proof.Machine

/-- The key of a cluster. -/
def clusterKey (t k : Nat) : Nat := 12 * t + k

/-- The key of the byte at an offset of a cluster (R71). -/
def spadKey (t k off : Nat) : Nat := t * 2 ^ 28 + k * 2 ^ 24 + off

/-- Whether an address of a die's scratchpad is populated (R70, R71). -/
def spadPopulated (a : Nat) : Bool := decide (a / 2 ^ 24 < 12) && decide (a % 2 ^ 24 < 0xC00000)

/-- What an unlisted byte of the scratchpads reads as: zero (R83), or an undefined value (R74, R134). -/
def spadDefault (s : State) (key : Nat) : Byte :=
  let e := Tab.look 0 s.spad.undef (key / 2 ^ 17)
  if e = 0 then 0 else Config.undefinedByte e key

/-- One byte of the scratchpads. [DESIGN CHOICE, safe: log 8] -/
def spadByte (s : State) (key : Nat) : Byte := (Tab.look none s.spad.bytes key).getD (spadDefault s key)

/-- Bytes of the scratchpads from a key. -/
def spadBytes (s : State) (key len : Nat) : Bytes := (List.range len).map (fun i => spadByte s (key + i))

/-- The keys of the 64-byte words that a range touches. -/
def wordsOf (key len : Nat) : List Nat :=
  if len = 0 then [] else (List.range ((key + len - 1) / 64 - key / 64 + 1)).map (key / 64 + ·)

/-- Whether a range touches a poisoned word (R82). -/
def spadPoisoned (s : State) (key len : Nat) : Bool := (wordsOf key len).any (Tab.look false s.spad.poison)

/-- Put bytes at consecutive keys: a zero byte is not listed where an unlisted byte is zero. -/
def putBytes (key : Nat) (data : Bytes) (undef : Tab Nat) (t : Tab (Option Byte)) : Tab (Option Byte) :=
  (data.foldl (fun (acc : Nat × Tab (Option Byte)) b =>
    (acc.1 + 1, Tab.put none acc.1 (if b = 0 ∧ Tab.look 0 undef (acc.1 / 2 ^ 17) = 0 then none else some b) acc.2))
    (key, t)).2

/-- The content of a unit of 128 KiB becomes undefined. [DESIGN CHOICE, safe: log 118] -/
def undefineUnit (u : Nat) (s : State) : State :=
  { s with
    freeDrawn := s.freeDrawn + 1
    spad.bytes := s.spad.bytes.filter (fun c => decide (c.1 / 2 ^ 17 ≠ u))
    spad.undef := Tab.put 0 u (s.freeDrawn + 1) s.spad.undef }

/-- The units of 128 KiB of a bank of a cluster, under a pen mode (R70). -/
def bankUnits (t k mode bank : Nat) : List Nat :=
  let lo := spadKey t k 0 / 2 ^ 17
  if bank < 40 then [lo + 2 * bank, lo + 2 * bank + 1]
  else if nbit mode ((bank - 40) / 2) then
    (if bank % 2 = 0 then [lo + 80 + (bank - 40), lo + 81 + (bank - 40)] else [])
  else [lo + 80 + (bank - 40)]

/-- Write bytes: a poisoned write marks the words it touches; a whole word written clean loses its poison
(R82). -/
def spadWrite (key : Nat) (data : Bytes) (poisoned : Bool) (s : State) : State :=
  let words := wordsOf key data.length
  let whole (w : Nat) : Bool := decide (key ≤ 64 * w) && decide (64 * w + 64 ≤ key + data.length)
  { s with
    spad.bytes := putBytes key data s.spad.undef s.spad.bytes
    spad.poison :=
      if poisoned then Tab.changeAll false words (fun _ => true) s.spad.poison
      else Tab.changeAll false (words.filter whole) (fun _ => false) s.spad.poison }

/-- The bank index of an offset (R70), under a pen mode. -/
def bankOf (mode off : Nat) : Nat :=
  if off < 0xA00000 then off / 0x40000
  else
    let seg := (off - 0xA00000) / 0x40000
    if nbit mode seg then 40 + 2 * seg else 40 + 2 * seg + off % 0x40000 / 0x20000

/-- Whether a bank is dual-port under a pen mode (R73). -/
def bankDual (mode bank : Nat) : Bool := decide (40 ≤ bank) && nbit mode ((bank - 40) / 2)

/-- The owner code of a bank's port: main banks by nibble, pen segments by half or port. -/
def mapOwner (map : Bytes) (bank port : Nat) : Nat :=
  if bank < 40 then nbits (fieldAt map (bank / 2) 1) (4 * (bank % 2) + 3) (4 * (bank % 2))
  else
    let seg := (bank - 40) / 2
    let o := fieldAt map (0x15 + seg) 1
    let half := if nbit (fieldAt map 0x14 1) seg then port else (bank - 40) % 2
    nbits o (4 * half + 3) (4 * half)

/-- S0 and SPOKE make unscheduled accesses (R72). -/
def unscheduled (owner : Nat) : Bool := decide (owner = 8 ∨ owner = 10)

/-- Retire a bank (R84). -/
def retireBank (t k bank : Nat) (s : State) : State :=
  let c := clusterKey t k
  let m := Tab.look 0 s.spad.retired c
  if nbit m bank then s
  else raise 0x3423 [b1 t, b1 k, b1 bank] { s with spad.retired := Tab.put 0 c (m + 2 ^ bank) s.spad.retired }

/-- An uncorrectable word of a bank: poison, count, event, and retirement when another word of the bank was
bad within 100,000 frames (R82, R84). -/
def badWord (t k bank word : Nat) (s : State) : State :=
  let c := clusterKey t k
  let again := s.spad.badWords.any (fun b => decide (b.cluster = c ∧ b.bank = bank ∧ b.word ≠ word ∧
    s.frame.count < b.frame + 100000))
  let s := raise 0x3422 [b1 t, b1 k, b1 bank] (count32 0x342005 1
    { s with
      spad.poison := Tab.put false word true s.spad.poison
      spad.badWords := s.spad.badWords ++ [{ cluster := c, bank := bank, word := word, frame := s.frame.count }] })
  if again then retireBank t k bank s else s

/-- What the chunk code finds in a read (R82): a corrected chunk, or a poisoned word whose bad chunk holds a
value the manual does not state. -/
def chunkFault (t k bank : Nat) (f : ChunkFault) (s : State) : State :=
  let key := spadKey t k (f.offset.toNat / 8 * 8)
  if f.double then
    let (bs, s) := drawBytes 8 s
    badWord t k bank (key / 64) { s with spad.bytes := putBytes key bs s.spad.undef s.spad.bytes }
  else raise 0x3421 [b1 t, b1 k, b1 bank] (count32 0x342004 1 s)

/-- The winner of a bank port (R76): scheduled accesses before unscheduled ones, then the first owner at or
after the pointer. [DEDUCED, safe: log 119] -/
def portWinner (pointer : Nat) (reqs : List SpadAccess) : Option SpadAccess :=
  let sched := reqs.filter (fun a => !unscheduled a.owner)
  let pool := if sched = [] then reqs else sched
  match leastOf (pool.map (fun a => (a.owner.val + 11 - pointer) % 11)) with
  | none => none
  | some d => pool.find? (fun a => decide ((a.owner.val + 11 - pointer) % 11 = d))

/-- One cycle of one bank port: the winner, with the pointer moved, the losers held, and a scheduled
conflict counted (R76, R77). [DEDUCED, safe: log 119] -/
def arbitratePort (t k bank port : Nat) (reqs : List SpadAccess) (s : State) : Option SpadAccess × State :=
  let key := (clusterKey t k * 56 + bank) * 2 + port
  let all := Tab.look [] s.spad.held key ++ reqs
  match portWinner (Tab.look 0 s.spad.pointers key) all with
  | none => (none, s)
  | some w =>
    let s := { s with
      spad.pointers := Tab.put 0 key ((w.owner.val + 1) % 11) s.spad.pointers
      spad.held := Tab.put [] key (all.erase w) s.spad.held }
    if (all.filter (fun a => !unscheduled a.owner)).length ≥ 2 then
      (some w, stallRegion t k 1 (raise 0x3425 [b1 t, b1 k, b1 bank] (count32 0x342007 1 s)))
    else (some w, s)

/-- The core works: its cluster has been cleared, and a RUNNING run's task that has not faulted holds it (R67, R83, R123).
A skipped task's engines and cores stay gated. [DEDUCED, safe: log 147] -/
def coreWorks (s : State) (t k : Nat) : Bool :=
  Tab.look false s.spad.ready (clusterKey t k) && (match taskOn s t k with
    | none => false
    | some (r, i) => decide (r.state = .running) && decide ((taskOf r i).fault = 0))

/-- A scalar register of a cluster (R66): zero after power-up, and then what task code has left. [DESIGN CHOICE,
safe: log 149] -/
def scalarRegister (s : State) (c : Nat) (r : Fin 32) : BitVec 64 :=
  let e := Tab.look 0 s.arith.registers c
  if e = 0 then 0 else Config.codeRegister e r.val

/-! ### Lines on the network (R86 to R94) -/

/-- A line on its way: its bytes, the poison of its eight words, and whether its content is unknown because a router or a
crossing has replaced it with a poisoned line. -/
structure NetLine where
  data : Bytes
  poison : List Bool
  lost : Bool

/-- The line that stands at an address of a cluster. -/
def bankLine (s : State) (t k line : Nat) : NetLine :=
  let key := spadKey t k (line * 512)
  { data := spadBytes s key 512, poison := (List.range 8).map (fun w => Tab.look false s.spad.poison (key / 64 + w)), lost := false }

/-- The sum of the lines of a combine set, in ascending order of input port (R93); a sum with a poisoned input is
poisoned. One line passes unchanged, to every output of its multicast (R90). -/
def combineLines (combine : Nat) (ls : List NetLine) : Option NetLine :=
  let words (n : Nat) (l : NetLine) (i : Nat) : Nat := fieldAt l.data (n * i) n
  match ls with
  | [] => none
  | [l] => some l
  | _ => some {
    data := if combine = 1 then
        (List.range 128).flatMap (fun i => leBytes 4 (combine32 (ls.map (fun l => BitVec.ofNat 32 (words 4 l i)))).toNat)
      else (List.range 256).flatMap (fun i => leBytes 2 (combineBf16 (ls.map (fun l => BitVec.ofNat 16 (words 2 l i)))).toNat)
    poison := (List.range 8).map (fun w => ls.any (fun l => l.poison.getD w false))
    lost := ls.any (·.lost) }

/-- The entries of a router that send a line on an output at a cycle of a phase, in ascending order of input port. -/
def entriesAt (s : State) (c out phase cycle : Nat) : List (BitVec 64) :=
  let es := (Tab.look [] s.spad.routes c).filter (fun w => decide (routeOut w = out ∧ routePhase w = phase ∧
    routeStart w ≤ cycle ∧ cycle < routeStart w + routeLength w))
  (List.range 5).flatMap (fun i => es.filter (fun w => decide (routeIn w = i)))

/-- The line a router sends on an output at a cycle (R87 to R93): from its bank, or from the neighbours two cycles
before. [DEDUCED, safe: log 144] -/
def lineOut (s : State) (t phase : Nat) : Nat → Nat → Nat → Nat → Option NetLine
  | 0, _, _, _ => none
  | fuel + 1, k, out, cycle =>
    let es := entriesAt s (clusterKey t k) out phase cycle
    let line (w : BitVec 64) : Option NetLine :=
      if routeIn w = 4 then some (bankLine s t k (routeLine w + (cycle - routeStart w)))
      else (routerAt k (routeIn w)).bind (fun j => if cycle < 2 then none else lineOut s t phase fuel j (facingPort (routeIn w)) (cycle - 2))
    let bad := s.spad.poisonedLines.any (fun x => decide (x.cluster = clusterKey t k ∧ x.port = out ∧ x.first ≤ cycle ∧
      cycle < x.first + x.lines) && (decide (x.phase = none) || decide (x.phase = some phase)))
    (combineLines ((es.head?).elim 0 routeCombine) (es.filterMap line)).map (fun l =>
      if bad then { l with poison := List.replicate 8 true, lost := true } else l)

/-- The crossings a line passes on its way to an output, sender and receiver, in the order of the way. -/
def crossings (s : State) (t phase : Nat) : Nat → Nat → Nat → Nat → List (Nat × Nat)
  | 0, _, _, _ => []
  | fuel + 1, k, out, cycle =>
    (entriesAt s (clusterKey t k) out phase cycle).flatMap (fun w => match routerAt k (routeIn w) with
      | none => []
      | some j => if routeIn w = 4 ∨ cycle < 2 then []
        else crossings s t phase fuel j (facingPort (routeIn w)) (cycle - 2) ++ [(j, k)])

/-- The line address a router's local port writes at a cycle: that of an entry of the set whose input is not local
(R91). -/
def writeLineAt (s : State) (c phase cycle : Nat) : Option Nat :=
  ((entriesAt s c 4 phase cycle).find? (fun w => decide (routeIn w ≠ 4))).map (fun w => routeLine w + (cycle - routeStart w))

/-- The router's local port writes the line its entries bring: nothing where no entry does. The crossings on its way hold
a region as R393 says. The content of a poisoned line is not stated. [DEDUCED, safe: log 144; DESIGN CHOICE, safe:
log 145] -/
def netWrite (t k : Nat) (a : SpadAccess) (s : State) : State :=
  match a.route with
  | none => s
  | some (phase, cycle) =>
    if writeLineAt s (clusterKey t k) phase.val cycle ≠ some (a.offset.toNat / 512) then s
    else match lineOut s t phase.val 16 k 4 cycle with
      | none => s
      | some l =>
        let line := a.offset.toNat / 512
        let s := (crossings s t phase.val 16 k 4 cycle).foldl (fun s x => crossLine t x.1 x.2 s) s
        let (free, s) := if l.lost then drawBytes 512 s else ([], s)
        let s := spadWrite (spadKey t k (line * 512)) (if l.lost then free else l.data) false s
        (List.range 8).foldl (fun s w => if l.poison.getD w false then
          { s with spad.poison := Tab.put false (spadKey t k (line * 512) / 64 + w) true s.spad.poison } else s) s

/-! ### One access cycle -/

/-- Bytes a master's port moves in a cycle (R72). -/
def portWidth (owner : Nat) : Nat := if owner < 6 then 128 else if owner < 8 then 256 else if owner = 8 then 64 else 512

/-- One access touches one line, within the master's port, and a write is of whole 8-byte units (R72). -/
def accessLegal (a : SpadAccess) : Bool :=
  decide (0 < a.length ∧ a.length ≤ portWidth a.owner) &&
    decide ((a.offset.toNat + a.length - 1) / 512 = a.offset.toNat / 512) &&
    (a.write.isNone || decide (a.offset.toNat % 8 = 0 ∧ a.length % 8 = 0))

/-- A scheduled access is made by the owner of the bank or port alone (R75). -/
def mayAccess (s : State) (t k bank port : Nat) (a : SpadAccess) : Bool :=
  let map := Tab.look [] s.spad.maps (clusterKey t k)
  unscheduled a.owner || (decide (map ≠ []) && decide (mapOwner map bank port = a.owner.val))

/-- The words of 64 bytes two accesses share. -/
def sharedWords (a b : SpadAccess) : List Nat :=
  (wordsOf a.offset.toNat a.length).filter (fun w => decide (w ∈ wordsOf b.offset.toNat b.length))

/-- A write takes place. -/
def doWrite (t k : Nat) (a : SpadAccess) (s : State) : State :=
  match a.write with
  | none => s
  | some (data, poisoned) =>
    if a.owner.val = 9 then netWrite t k a s
    else spadWrite (spadKey t k a.offset.toNat) (data.take a.length) poisoned s

/-- The task on the cluster consumes poison when a core reads a poisoned word (R82, R159). -/
def consumePoison (t k owner : Nat) (poisoned : Bool) (s : State) : State :=
  if poisoned ∧ owner ≤ 8 then setTaskFlags t k flPoison s else s

/-- A read is answered; bytes of the words in `lost` are undefined (R78). [DEDUCED, safe: log 119] -/
def doRead (t k : Nat) (a : SpadAccess) (lost : List Nat) (busy : Bool) (s : State) : State :=
  match a.write with
  | some _ => s
  | none =>
    let off := a.offset.toNat
    let stored := spadBytes s (spadKey t k off) a.length
    let (free, s) := if lost = [] then ([], s) else drawBytes a.length s
    let data := (List.range a.length).map (fun i =>
      if (off + i) / 64 ∈ lost then free.getD i 0 else stored.getD i 0)
    let poisoned := spadPoisoned s (spadKey t k off) a.length
    consumePoison t k a.owner poisoned
      { s with spad.answers := s.spad.answers ++
          [{ owner := a.owner, offset := off, data := data, poisoned := poisoned, busy := busy }] }

/-- A write that received the busy flag has completed; the flag records the collision (R79). -/
def busyWrite (a : SpadAccess) (s : State) : State :=
  { s with spad.answers := s.spad.answers ++
      [{ owner := a.owner, offset := a.offset.toNat, data := [], poisoned := false, busy := true }] }

/-- Both ports of a dual-port bank serve an access in one cycle: port A's first, and a collision where both touch one
word (R78, R79). [DEDUCED, safe: log 146] -/
def pairCycle (t k bank : Nat) (a b : SpadAccess) (s : State) : State :=
  let shared := sharedWords a b
  if shared = [] ∨ (a.write = none ∧ b.write = none) then
    doRead t k b [] false (doWrite t k b (doRead t k a [] false (doWrite t k a s)))
  else
    let s := raise 0x3424 [b1 t, b1 k, b1 bank] (count32 0x342006 1 s)
    if b.write = none then
      let s := doRead t k b shared true (doWrite t k a s)
      let s := { s with spad.reissue := Tab.put none (clusterKey t k * 56 + bank) (some b) s.spad.reissue }
      if unscheduled b.owner then s else stallRegion t k 1 s
    else busyWrite b (doWrite t k b (doRead t k a shared false (doWrite t k a s)))

/-- Accesses compete again in the next cycle (R76). [DEDUCED, unsafe: log 199] -/
def holdPort (t k bank port : Nat) (reqs : List SpadAccess) (s : State) : State :=
  let key := (clusterKey t k * 56 + bank) * 2 + port
  { s with spad.held := Tab.put [] key (Tab.look [] s.spad.held key ++ reqs) s.spad.held }

/-- What the chunk code finds in the reads a cycle serves. -/
def codeCycle (t k bank : Nat) (reads : List SpadAccess) (faults : List ChunkFault) (s : State) : State :=
  let touched (f : ChunkFault) : Bool := reads.any (fun x => decide (x.write = none) &&
    decide (x.offset.toNat ≤ f.offset.toNat / 8 * 8 + 7) && decide (f.offset.toNat / 8 * 8 < x.offset.toNat + x.length))
  (faults.filter touched).foldl (fun s f => chunkFault t k bank f s) s

/-- A cycle of a dual-port bank; a re-issued read comes first on port B and stands after the cycle (R79). [DEDUCED,
safe: log 146] -/
def dualCycle (t k bank : Nat) (a b : List SpadAccess) (faults : List ChunkFault) (s : State) : State :=
  let key := clusterKey t k * 56 + bank
  let (x, s) := arbitratePort t k bank 0 a s
  match Tab.look none s.spad.reissue key with
  | some y =>
    let s := holdPort t k bank 1 b { s with spad.reissue := Tab.put none key none s.spad.reissue }
    let s := codeCycle t k bank (x.toList ++ [y]) faults s
    let s := match x with
      | none => s
      | some x => doRead t k x [] false (doWrite t k x s)
    doRead t k y [] false s
  | none =>
    let (y, s) := arbitratePort t k bank 1 b s
    let s := codeCycle t k bank (x.toList ++ y.toList) faults s
    match x, y with
    | none, none => s
    | some x, none => doRead t k x [] false (doWrite t k x s)
    | none, some y => doRead t k y [] false (doWrite t k y s)
    | some x, some y => pairCycle t k bank x y s

/-- One access cycle of a bank (R75 to R82). Only legal accesses within the bank reach it, S0 and SPOKE on port B of a
dual-port bank; before the cluster's clearing ends no master has access (R83). -/
def bankCycle (t k bank : Nat) (portA portB : List SpadAccess) (faults : List ChunkFault) (s : State) : State :=
  let mode := Tab.look 0 s.spad.penModes (clusterKey t k)
  let inBank (off : Nat) : Bool := decide (off < 0xC00000) && decide (bankOf mode off = bank)
  let served (port : Nat) (a : SpadAccess) : Bool := accessLegal a && inBank a.offset.toNat && mayAccess s t k bank port a
  let bad := faults.filter (fun f => inBank f.offset.toNat)
  if !Tab.look false s.spad.ready (clusterKey t k) then s
  else
    let s := { s with spad.answers := [] }
    if bankDual mode bank then
      let a := portA.filter (fun x => !unscheduled x.owner)
      let b := portA.filter (fun x => unscheduled x.owner) ++ portB
      dualCycle t k bank (a.filter (served 0)) (b.filter (served 1)) bad s
    else
      let (x, s) := arbitratePort t k bank 0 ((portA ++ portB).filter (served 0)) s
      let s := codeCycle t k bank x.toList bad s
      match x with
      | none => s
      | some x => doRead t k x [] false (doWrite t k x s)

/-- SCRATCHPAD_READ (R82). -/
def execScratchpadRead (tower : Tower) (cluster : Cluster) (bank : Fin 56) (portA portB : List SpadAccess)
    (faults : List ChunkFault) (s : State) : Host.Outcome State Fault Refusal :=
  .next (bankCycle tower cluster bank portA portB faults s)

/-- SPAD_ADDRESS_FAULT (R85): an address that is not populated reaches no bank; the task faults. -/
def execSpadAddressFault (tower : Tower) (cluster : Cluster) (address : BitVec 28) (s : State) :
    Host.Outcome State Fault Refusal :=
  .next (if spadPopulated address.toNat then s
    else faultTaskOn tower cluster 0x2001 ccOk (raise 0x3427 [b1 tower, b1 cluster, none] s))

/-- ROUTE_PARITY_FAIL (R94): the router sends poisoned lines on the entry's output for its whole length, and the task
faults. -/
def routeParity (t k entry : Nat) (s : State) : State :=
  match (Tab.look [] s.spad.routes (clusterKey t k))[entry]? with
  | none => s
  | some w =>
    let bad : PoisonedRun := { cluster := clusterKey t k, port := routeOut w, phase := some (routePhase w), first := routeStart w, lines := routeLength w }
    faultTaskOn t k 0x2002 ccOk (raise 0x3426 [b1 t, b1 k, none] { s with
      spad.poisonedLines := s.spad.poisonedLines ++ [bad] })

def execRouteParityFail (tower : Tower) (cluster : Cluster) (entry : Fin 2048) (s : State) :
    Host.Outcome State Fault Refusal :=
  .next (routeParity tower cluster entry s)

/-- Zero a cluster's scratchpad with valid check bits (R83). -/
def clearCluster (t k : Nat) (s : State) : State :=
  let lo := spadKey t k 0
  { s with
    spad.bytes := s.spad.bytes.filter (fun c => !(decide (lo ≤ c.1) && decide (c.1 < lo + 2 ^ 24)))
    spad.undef := s.spad.undef.filter (fun c => decide (c.1 / 2 ^ 7 ≠ lo / 2 ^ 24))
    spad.poison := s.spad.poison.filter (fun c => !(decide (lo / 64 ≤ c.1) && decide (c.1 < (lo + 2 ^ 24) / 64))) }

/-- The effect of 0x3420:03 (R84). -/
def clearRetiredAct : WriteAct := fun value s =>
  let mask := leNat value
  if mask ≥ 4096 then refuseRange 0
  else if !(s.start.foal || stopped s) then refuseState
  else .done { s with spad.retired := s.spad.retired.filter (fun c => !nbit mask (c.1 / 12)) }

/-- CLEAR_RETIRED_BANKS (R84). -/
def execClearRetiredBanks (req : Req) (value : Bytes) (s : State) : Host.Outcome State Fault Refusal :=
  .next (serveWrite req 0x342003 value clearRetiredAct s)

end Sys2Proof.Machine
end

