-- ==== Sys2Proof/Machine/Transcendental.lean ====
section
/-! DEFINITION. The transcendental unit (R112): each function evaluated far beyond FP32, and a result that may be any FP32
value within the stated error of it. -/

namespace Sys2Proof.Machine

/-- The fixed point of the evaluations: 96 fraction bits, with ln 2 and 1 / ln 2 in it. -/
def fix : Nat := 2 ^ 96
def fixLn2 : Nat := 54916777467707473351141471128
def fixLog2e : Nat := 114302077158074026402637675936

/-- The sum of the terms of e^y from the `k`-th on, `term` being the one before. -/
def expTerms (y : Nat) : Nat → Nat → Nat → Nat
  | 0, _, _ => 0
  | fuel + 1, k, term =>
    let next := term * y / fix / k
    next + expTerms y fuel (k + 1) next

/-- 2^f for a fraction f. -/
def exp2Fraction (f : Nat) : Nat := fix + expTerms (f * fixLn2 / fix) 32 1 fix

/-- The terms of the inverse hyperbolic tangent of u, from u^n on. -/
def atanhTerms (u : Nat) : Nat → Nat → Nat → Nat
  | 0, _, _ => 0
  | fuel + 1, n, power => power / n + atanhTerms u fuel (n + 2) (power * u / fix * u / fix)

/-- The integer square root of a number below 2^(2 × bits). -/
def rootBits (n : Nat) : Nat → Nat → Nat
  | 0, r => r
  | b + 1, r => rootBits n b (if (r + 2 ^ b) * (r + 2 ^ b) ≤ n then r + 2 ^ b else r)

/-- A magnitude in the fixed point, truncated. -/
def toFixed (m : Nat) (e : Int) : Nat := if 0 ≤ e + 96 then m * 2 ^ (e + 96).toNat else m / 2 ^ (-(e + 96)).toNat

/-- The value of a function at a finite argument where R112 names no special value: sign and magnitude m × 2^e.
[DEDUCED, safe: log 154] -/
def exactValue (f : Transcendental) (neg : Bool) (m : Nat) (e : Int) : Bool × Nat × Int :=
  match f with
  | .exp2 =>
    let x : Int := if neg then -(toFixed m e : Int) else toFixed m e
    (false, exp2Fraction (x % fix).toNat, max (x / fix) (-300) - 96)
  | .log2 =>
    let k := Nat.log2 m
    let z := m * fix / 2 ^ k
    let u := (z - fix) * fix / (z + fix)
    let t : Int := ((k : Int) + e) * fix + (2 * atanhTerms u 48 1 u * fixLog2e / fix : Nat)
    (decide (t < 0), t.natAbs, -96)
  | .reciprocal => (neg, 2 ^ 128 / m, -128 - e)
  | .rsqrt =>
    let (m, e) := if e % 2 = 0 then (m, e) else (2 * m, e - 1)
    (false, rootBits (2 ^ 256 / m) 129 0, -128 - e / 2)
  | .tanh =>
    let y := 2 * toFixed m e * fixLog2e / fix
    if 128 ≤ y / fix then (neg, fix, -96)
    else
      let x := exp2Fraction (y % fix) * 2 ^ (y / fix)
      (neg, (x - fix) * fix / (x + fix), -96)

/-- The largest error of a result, as a multiple of a power of two: in last places of the exact value, or absolute
(R112). -/
def errorBound (f : Transcendental) (x : Num) (m : Nat) (e : Int) : Nat × Int :=
  let ulp := max (lead m e - 23) (-149)
  match f with
  | .exp2 => (2, ulp)
  | .log2 => if numGt (.fin false 1 (-1)) x || numGt x (.fin false 2 0) then (2, ulp) else (1, -22)
  | .reciprocal => (1, ulp)
  | .rsqrt => (1, ulp)
  | .tanh => if ulp + 2 ≤ -24 then (1, -24) else (4, ulp)

/-- A result lies within the bound of the exact value. -/
def withinBound (exact : Bool × Nat × Int) (bound : Nat × Int) (v : Num) : Bool :=
  let (n, m, e) : Bool × Nat × Int := match v with
    | .fin n m e => (n, m, e)
    | .inf n => (n, 1, 128)
    | .nan => (false, 1, 200)
  let q := min e (min exact.2.2 bound.2)
  let size (m : Nat) (e : Int) : Nat := m * 2 ^ (e - q).toNat
  let value (n : Bool) (m : Nat) (e : Int) : Int := if n then -(size m e : Int) else size m e
  decide ((value n m e - value exact.1 exact.2.1 exact.2.2).natAbs ≤ size bound.1 bound.2)

/-- Code of a function for `Config.transcendental`. -/
def functionCode : Transcendental → Nat
  | .exp2 => 0
  | .log2 => 1
  | .reciprocal => 2
  | .rsqrt => 3
  | .tanh => 4

/-- The unit's result at a finite argument: the free value of the function where it lies within the error, and otherwise
the exact value rounded. [DEDUCED, safe: log 154] -/
def unitResult (f : Transcendental) (input : BitVec 32) (x : Num) : BitVec 32 :=
  match x with
  | .fin n m e =>
    let exact := exactValue f n m e
    let v := Config.transcendental (functionCode f) input
    if withinBound exact (errorBound f x exact.2.1 exact.2.2) (decodeElem 0 v.toNat) then v
    else (toFp32 true (.fin exact.1 exact.2.1 exact.2.2)).1
  | _ => 0x7FC00000

end Sys2Proof.Machine
end

