-- ==== Sys2Proof/Machine/Arithmetic.lean ====
section
/-! DEFINITION. Matrix operations and vector instructions of task code (R97 to R123). -/

namespace Sys2Proof.Machine

/-! ### Cores and their reads -/

/-- Bits `w × i` to `w × (i + n)` of an array in a die's scratchpad, least significant first, as `n` values (R113, R115). A
core's port reaches every cluster's scratchpad over the route entries compiled for it (R88). [DEDUCED, safe: log 148] -/
def packedRead (s : State) (t addr w i n : Nat) : List Nat :=
  let lo := w * i / 8
  let v := leNat (spadBytes s (t * 2 ^ 28 + addr + lo) ((w * (i + n) + 7) / 8 - lo)) / 2 ^ (w * i % 8)
  (List.range n).map (fun j => v / 2 ^ (w * j) % 2 ^ w)

/-- The bits of a range touch a poisoned word. -/
def packedPoison (s : State) (t addr w i n : Nat) : Bool :=
  spadPoisoned s (t * 2 ^ 28 + addr + w * i / 8) ((w * (i + n) + 7) / 8 - w * i / 8)

/-- A range of a die's scratchpad addresses lies in one cluster's populated part (R70, R71). -/
def rangePopulated (addr len : Nat) : Bool :=
  decide (len = 0) || (spadPopulated addr && spadPopulated (addr + len - 1) && decide (addr / 2 ^ 24 = (addr + len - 1) / 2 ^ 24))

/-- An element as it stands in the scratchpad, with the scale byte of its block (R114). -/
structure Elem where
  raw : Nat
  scale : Nat
  poisoned : Bool

/-- Read `n` elements of an array from element `i` on. [DEDUCED, safe: log 148] -/
def readElems (s : State) (t f : Nat) (r : ElemRange) (i n : Nat) : List Elem :=
  let w := fmtWidth f
  let at_ := r.first + i
  let raws := packedRead s t r.data.toNat w at_ n
  (List.range n).map (fun j =>
    let b := r.scales.toNat + (at_ + j) / 32
    { raw := raws.getD j 0
      scale := if isMx f then (spadByte s (t * 2 ^ 28 + b)).toNat else 127
      poisoned := packedPoison s t r.data.toNat w (at_ + j) 1 || (isMx f && spadPoisoned s (t * 2 ^ 28 + b) 1) })

/-- The addresses such a read touches are populated. -/
def readPopulated (f : Nat) (r : ElemRange) (i n : Nat) : Bool :=
  let w := fmtWidth f
  let at_ := r.first + i
  rangePopulated (r.data.toNat + w * at_ / 8) ((w * (at_ + n) + 7) / 8 - w * at_ / 8) &&
    (!isMx f || rangePopulated (r.scales.toNat + at_ / 32) ((at_ + n + 31) / 32 - at_ / 32))

/-- The value of an element, its block's scale included (R100). -/
def Elem.num (f : Nat) (e : Elem) : Num := if isMx f then scaled e.scale (decodeElem f e.raw) else decodeElem f e.raw

/-- A core addresses what is not populated: event 0x3427, and the task faults (R85). -/
def addressFault (t k : Nat) (s : State) : State := faultTaskOn t k 0x2001 ccOk (raise 0x3427 [b1 t, b1 k, none] s)

/-! ### Matrix operations -/

/-- Rate classes of R102. -/
inductive RateClass where
  | fp8 | fp4 | bf16
  deriving DecidableEq, Repr

/-- The rate class of a pair of formats: that of the wider operand; none for a pair that R102 does not name. -/
def rateClass (wf af : Nat) : Option RateClass :=
  if (wf = 3 ∨ wf = 4) ∧ (af = 3 ∨ af = 4) then some .fp8
  else if isMx wf && isMx af then some (if wf ≤ 7 ∨ af ≤ 7 then .fp8 else .fp4)
  else if wf = 5 ∧ af = 5 then some .fp8
  else if wf = af ∧ (wf = 1 ∨ wf = 2) then some .bf16
  else none

/-- Columns of the weight tile: stored weights of one output in a step, without the 1:4 layout's gated half (R63, R103). -/
def tileWidth (op : MatrixOp) : Nat := if rateClass op.weightFormat op.actFormat = some .fp4 then 32 else 16

/-- Stored weights of one output in a step, and the dense positions of its activation vector (R103, R115). -/
def storedPerStep (op : MatrixOp) : Nat := if op.layout.val = 2 then tileWidth op / 2 else tileWidth op
def actsPerStep (op : MatrixOp) : Nat := if op.layout.val = 0 then tileWidth op else 2 * tileWidth op

/-- The dense position that stored value `i` of an output multiplies (R115, R116). -/
def storedPosition (layout i field : Nat) : Nat :=
  if layout = 0 then i else if layout = 1 then 4 * (i / 2) + field % 4 else 4 * i + field % 4

/-- The activation vector of a step. -/
def stepActs (s : State) (op : MatrixOp) (st : MatrixStep) : List Elem :=
  readElems s op.tower op.actFormat op.acts st.acts (actsPerStep op)

/-- Where the stored weights of an output begin in a step. -/
def weightsAt (op : MatrixOp) (st : MatrixStep) (out : Nat) : Nat := st.weights + out * op.stride

/-- The stored weights of an output in a step. -/
def stepWeights (s : State) (op : MatrixOp) (st : MatrixStep) (out : Nat) : List Elem :=
  readElems s op.tower op.weightFormat op.weights (weightsAt op st out) (storedPerStep op)

/-- The dense positions of an output's stored weights: the 2-bit field of stored value q of an array lies at bit 2q of the
metadata, under either layout (R115). -/
def stepPositions (s : State) (op : MatrixOp) (st : MatrixStep) (out : Nat) : List Nat :=
  let n := storedPerStep op
  let at_ := op.weights.first + weightsAt op st out
  let fields := if op.layout.val = 0 then [] else packedRead s op.tower op.weights.positions.toNat 2 at_ n
  (List.range n).map (fun i => storedPosition op.layout i (fields.getD i 0))

/-- The operands of the products of one output of a step: stored weight and the activation it names. -/
def stepPairs (s : State) (op : MatrixOp) (st : MatrixStep) (out : Nat) : List (Elem × Elem) :=
  let acts := stepActs s op st
  ((stepWeights s op st out).zip (stepPositions s op st out)).filterMap (fun (w, p) => (acts[p]?).map (fun a => (w, a)))

/-- An element is +0 or −0. -/
def isZero (f v : Nat) : Bool := match decodeElem f v with
  | .fin _ m _ => decide (m = 0)
  | _ => false

/-- A step is skipped: every element of its activation vector is a zero, none in a block of scale 0xFF or in a poisoned
word (R119). -/
def stepSkipped (s : State) (op : MatrixOp) (st : MatrixStep) : Bool :=
  (stepActs s op st).all (fun e => isZero op.actFormat e.raw && !e.poisoned && !(isMx op.actFormat && decide (e.scale = 0xFF)))

/-- A step consumes a block whose scale is 0xFF (R100). -/
def nanScale (s : State) (op : MatrixOp) (st : MatrixStep) : Bool :=
  (isMx op.actFormat && (stepActs s op st).any (fun e => decide (e.scale = 0xFF))) ||
    (isMx op.weightFormat && (List.range 16).any (fun o => (stepWeights s op st o).any (fun e => decide (e.scale = 0xFF))))

/-- The key of an accumulator (R64). -/
def accKey (op : MatrixOp) (row out : Nat) : Nat :=
  (((clusterKey op.tower op.cluster * 6 + op.core) * 4 + op.engine) * 32 + row) * 16 + out

/-- Start the rows that the task code clears from zero. -/
def clearRows (op : MatrixOp) (s : State) : State :=
  let keys := (op.clear.map (·.val)).flatMap (fun r => (List.range 16).map (accKey op r))
  { s with
    arith.acc := Tab.changeAll 0 keys (fun _ => 0) s.arith.acc
    arith.accPoison := Tab.changeAll false keys (fun _ => false) s.arith.accPoison }

/-- One output of a step that runs (R108, R109): the accumulator's new value and the flags. -/
def stepOutput (op : MatrixOp) (old : BitVec 32) (pairs : List (Elem × Elem)) : BitVec 32 × Sticky :=
  if op.weightFormat.val = 5 then intSum old (pairs.map (fun x => (signed 8 x.1.raw, signed 8 x.2.raw)))
  else fusedSum old (pairs.map (fun x => (x.1.num op.weightFormat, x.2.num op.actFormat)))

/-- The products of an output take a poisoned word: a stored weight, its metadata, or the activation it names (R126). -/
def outputPoisoned (s : State) (op : MatrixOp) (st : MatrixStep) (out : Nat) : Bool :=
  (stepPairs s op st out).any (fun x => x.1.poisoned || x.2.poisoned) ||
    (decide (op.layout.val ≠ 0) &&
      packedPoison s op.tower op.weights.positions.toNat 2 (op.weights.first + weightsAt op st out) (storedPerStep op))

/-- One step (R108, R119, R122, R126). -/
def matrixStep (op : MatrixOp) (st : MatrixStep) (s : State) : State :=
  if stepSkipped s op st then { s with arith.skipped := s.arith.skipped + 1 }
  else
    let t := op.tower.val
    let k := op.cluster.val
    let outs := (List.range 16).map (fun o =>
      (accKey op st.row o, stepOutput op (Tab.look 0 s.arith.acc (accKey op st.row o)) (stepPairs s op st o)))
    let nanS := nanScale s op st
    let bad := (List.range 16).filter (outputPoisoned s op st)
    let flags := (Sticky.all (outs.map (fun o => o.2.2))).or { invalid := nanS }
    let s := { s with
      arith.issued := s.arith.issued + 1
      arith.acc := outs.foldl (fun a o => Tab.put 0 o.1 o.2.1 a) s.arith.acc
      arith.accPoison := Tab.changeAll false (bad.map (accKey op st.row)) (fun _ => true) s.arith.accPoison }
    let s := setTaskFlags t k (flags.byte ||| (if bad = [] then 0 else flPoison)) s
    raiseIf nanS 0x3442 [b1 t, b1 k] s

/-- An accumulator through the write port (R104, R109): bits, width in bits, flags. -/
def writePort (op : MatrixOp) (format : Nat) (a : BitVec 32) : Nat × Nat × Sticky :=
  if op.weightFormat.val = 5 then (a.toNat, 32, {})
  else
    let (v, f) := toFormat format .rne false 0 (decodeElem 0 a.toNat)
    (v, fmtWidth format, f)

/-- Elements packed least significant bit first (R113); masked elements keep the old bits. -/
def packElems (w : Nat) : List (Option Nat) → Nat → Nat
  | [], old => old
  | e :: es, old => (match e with
      | some v => v % 2 ^ w
      | none => old % 2 ^ w) + 2 ^ w * packElems w es (old / 2 ^ w)

/-- The poison of a word after elements are written over it: set by a poisoned element, and lost when every one of its
64 bytes is written clean (R82). [DEDUCED, safe: log 153] -/
def wordPoison (base w : Nat) (elems : List (Option Nat)) (poisons : List Bool) (old : Bool) (word : Nat) : Bool :=
  let hit := (List.range elems.length).filter (fun i => decide (base + w * i < 512 * word + 512 ∧ 512 * word < base + w * i + w))
  let written (i : Nat) : Bool := (elems.getD i none).isSome
  if hit.any (fun i => written i && poisons.getD i false) then true
  else if base ≤ 512 * word ∧ 512 * word + 512 ≤ base + w * elems.length ∧ hit.all written then false
  else old

/-- Write packed elements from element `first` of an array: masked elements leave the destination unchanged (R113, R123).
An address that is not populated faults the task (R85). -/
def writeElems (t k addr w first : Nat) (elems : List (Option Nat)) (poisons : List Bool) (s : State) : State :=
  let lo := w * first / 8
  let n := (w * (first + elems.length) + 7) / 8 - lo
  if elems.all (· = none) then s
  else if !rangePopulated (addr + lo) n then addressFault t k s
  else
    let key := t * 2 ^ 28 + addr + lo
    let shift := 2 ^ (w * first % 8)
    let old := leNat (spadBytes s key n)
    let new := old % shift + shift * packElems w elems (old / shift)
    let base := 8 * (t * 2 ^ 28 + addr) + w * first
    { s with
      spad.bytes := putBytes key (leBytes n new) s.spad.undef s.spad.bytes
      spad.poison := (wordsOf key n).foldl (fun p x =>
        Tab.put false x (wordPoison base w elems poisons (Tab.look false s.spad.poison x) x) p) s.spad.poison }

/-- Write one accumulator row to the scratchpad. -/
def matrixWrite (op : MatrixOp) (wr : MatrixWrite) (s : State) : State :=
  let keys := (List.range 16).map (accKey op wr.row)
  let outs := keys.map (fun key => writePort op wr.format (Tab.look 0 s.arith.acc key))
  let width := match outs with
    | [] => 32
    | o :: _ => o.2.1
  let s := setTaskFlags op.tower op.cluster (Sticky.all (outs.map (fun o => o.2.2))).byte s
  writeElems op.tower op.cluster wr.dest.toNat width 0 (outs.map (fun o => some o.1)) (keys.map (Tab.look false s.arith.accPoison)) s

/-- Cycles an operation needs (R120). -/
def matrixCycles (s : State) (op : MatrixOp) : Nat :=
  let n := op.steps.length
  let run := (op.steps.filter (fun st => !stepSkipped s op st)).length
  let c := max run ((n + 3) / 4)
  if rateClass op.weightFormat op.actFormat = some .bf16 then 2 * c else c

/-- A skip overrun stalls the region by the cycles beyond the step budget (R121). -/
def skipOverrun (op : MatrixOp) (cycles : Nat) (s : State) : State :=
  let n := cycles - op.budget
  if n = 0 then s
  else stallRegion op.tower op.cluster n
    (raise 0x3441 [b1 op.tower, b1 op.cluster, b4 n] (count32 0x344003 n s))

/-- Every address that a step reads is populated. -/
def stepPopulated (op : MatrixOp) (st : MatrixStep) : Bool :=
  readPopulated op.actFormat op.acts st.acts (actsPerStep op) &&
    (List.range 16).all (fun o => readPopulated op.weightFormat op.weights (weightsAt op st o) (storedPerStep op) &&
      (decide (op.layout.val = 0) ||
        let at_ := op.weights.first + weightsAt op st o
        rangePopulated (op.weights.positions.toNat + at_ / 4) ((at_ + storedPerStep op + 3) / 4 - at_ / 4)))

/-- A matrix operation: its steps, then its writes at their scheduled cycles. No admitted graph names another pair of
formats (R102). [DEDUCED, safe: log 147] -/
def matrixRun (op : MatrixOp) (s : State) : State :=
  if !coreWorks s op.tower op.cluster ∨ rateClass op.weightFormat op.actFormat = none then s
  else if !op.steps.all (stepPopulated op) then addressFault op.tower op.cluster s
  else
    let c := matrixCycles s op
    let s := op.steps.foldl (fun s st => matrixStep op st s) (clearRows op s)
    op.writes.foldl (fun s w => matrixWrite op w s) (skipOverrun op c s)

/-- MATRIX_OPERATION (R120). -/
def execMatrixOperation (op : MatrixOp) (s : State) : Host.Outcome State Fault Refusal := .next (matrixRun op s)

/-! ### Vector instructions -/

/-- A lane takes part (R123). -/
def laneOn (place : VectorPlace) (lane : Nat) : Bool := place.mask.getLsbD (lane % 64)

/-- Stochastic rounding is available for these targets, and permitted (R104, R105). [DEDUCED, safe: log 120] -/
def stochastic (s : State) (f : Nat) : Bool := decide (f ≠ 0 ∧ f ≠ 5) && decide (dictNat s 0x344004 = 1)

/-- Convert the values of lanes in order; a conversion under SR advances its lane's generator (R105). [DESIGN CHOICE,
unsafe: log 151] -/
def convertLanes (place : VectorPlace) (f : Nat) (mode : Rounding) (toInf : Bool) :
    List (Nat × Num) → State → List (Option Nat) × Sticky × State
  | [], s => ([], {}, s)
  | (lane, x) :: rest, s =>
    if !laneOn place lane then
      let (es, fl, s) := convertLanes place f mode toInf rest s
      (none :: es, fl, s)
    else
      let sr := decide (mode = .sr) && stochastic s f
      let key := (clusterKey place.tower place.cluster * 2 + place.core) * 64 + lane % 64
      let next := Config.laneNext (Tab.look 0 s.arith.lanes key)
      let s := if sr then { s with arith.lanes := Tab.put 0 key next s.arith.lanes } else s
      let m := if mode = .sr ∧ !sr then .rne else mode
      let (v, fl) := toFormat f m toInf (bits next 15 0) x
      let (es, fl', s) := convertLanes place f mode toInf rest s
      (some v :: es, fl.or fl', s)

/-- The flags and poison of an instruction reach its task. -/
def vectorFlags (place : VectorPlace) (fl : Sticky) (poisoned : Bool) (s : State) : State :=
  setTaskFlags place.tower place.cluster (fl.byte ||| (if poisoned then flPoison else 0)) s

/-- Run a vector instruction whose sources are the elements of some ranges. [DEDUCED, safe: log 147] -/
def vectorRun (place : VectorPlace) (reads : List (Nat × ElemRange × Nat)) (f : State → State) (s : State) : State :=
  if !coreWorks s place.tower place.cluster then s
  else if !reads.all (fun x => readPopulated x.1 x.2.1 0 x.2.2) then addressFault place.tower place.cluster s
  else f s

/-- Number the elements of a list by lane. -/
def withLanes (xs : List Num) (lane : Nat → Nat) : List (Nat × Num) :=
  (List.range xs.length).map (fun i => (lane i, xs.getD i .nan))

/-- Write the results of an instruction. -/
def vectorWrite (place : VectorPlace) (w : Nat) (es : List (Option Nat)) (poisons : List Bool) (s : State) : State :=
  writeElems place.tower place.cluster place.dest.data.toNat w place.dest.first es poisons s

/-- A lane that takes part consumes a poisoned word. -/
def lanesPoisoned (place : VectorPlace) (lane : Nat → Nat) (poisons : List Bool) : Bool :=
  (List.range poisons.length).any (fun i => laneOn place (lane i) && poisons.getD i false)

/-- Blocks of 32 (R99). -/
def blocksOf (xs : List (Nat × Num)) : List (List (Nat × Num)) :=
  (List.range ((xs.length + 31) / 32)).map (fun j => (xs.drop (32 * j)).take 32)

/-- e_max of an MX element type (R101). -/
def mxTop (f : Nat) : Int := match f with
  | 6 => 8
  | 7 => 15
  | 8 => 4
  | _ => 2

/-- The scale exponent of a block of finite values not all zero (R101). -/
def blockExponent (f : Nat) (xs : List Num) : Int :=
  let tops := (finTerms xs).filterMap (fun t => if t.2.1 = 0 then none else some (lead t.2.1 t.2.2))
  max (-127) (min 127 ((tops.max?).getD 0 - mxTop f))

/-- Convert one block to an MX type (R101): scale byte, elements, flags. -/
def mxBlock (place : VectorPlace) (f : Nat) (mode : Rounding) (xs : List (Nat × Num)) (s : State) :
    Nat × List (Option Nat) × Sticky × State :=
  let vals := xs.map (·.2)
  let constant (v : Nat) : List (Option Nat) := xs.map (fun x => if laneOn place x.1 then some v else none)
  if vals.any (fun x => match x with | .fin _ _ _ => false | _ => true) then
    (0xFF, constant 0, { invalid := true }, s)
  else if vals.all (fun x => match x with | .fin _ m _ => decide (m = 0) | _ => false) then
    (0, constant 0, {}, s)
  else
    let ex := blockExponent f vals
    let down := xs.map (fun x => (x.1, match x.2 with
      | .fin n m e => .fin n m (e - ex)
      | y => y))
    let (es, fl, s) := convertLanes place f mode false down s
    ((ex + 127).toNat, es, fl, s)

/-- Convert blocks in order: scale bytes, elements, flags. -/
def mxBlocks (place : VectorPlace) (f : Nat) (mode : Rounding) :
    List (List (Nat × Num)) → State → List (Option Nat) × List (Option Nat) × Sticky × State
  | [], s => ([], [], {}, s)
  | b :: bs, s =>
    let (sc, es, fl, s) := mxBlock place f mode b s
    let (scs, es', fl', s) := mxBlocks place f mode bs s
    ((if b.any (fun x => laneOn place x.1) then some sc else none) :: scs, es ++ es', fl.or fl', s)

/-- The poison of blocks of 32, one mark a block: every element depends on its block's scale. [DEDUCED, safe: log
153] -/
def blockPoison (poisons : List Bool) : List Bool :=
  (List.range ((poisons.length + 31) / 32)).map (fun j => ((poisons.drop (32 * j)).take 32).any id)

/-- Convert values to an MX type and write elements and scales (R101, R114). -/
def mxConvertTo (place : VectorPlace) (f : Nat) (mode : Rounding) (xs : List (Nat × Num)) (poisons : List Bool)
    (s : State) : State :=
  let (scs, es, fl, s) := mxBlocks place f mode (blocksOf xs) s
  let bp := blockPoison poisons
  let s := vectorWrite place (fmtWidth f) es ((List.range es.length).map (fun i => bp.getD (i / 32) false)) s
  let s := writeElems place.tower place.cluster place.dest.scales.toNat 8 (place.dest.first / 32) scs bp s
  vectorFlags place fl false s

/-- MX_CONVERT (R101): FP32 or BF16 values to an MX type. -/
def mxConvert (place : VectorPlace) (src : ElemRange) (count source target : Nat) (mode : Rounding) (s : State) : State :=
  vectorRun place [(source, src, count)] (fun s =>
    let es := readElems s place.tower source src 0 count
    let ps := es.map (·.poisoned)
    let s := mxConvertTo place target mode (withLanes (es.map (Elem.num source)) id) ps s
    vectorFlags place {} (lanesPoisoned place id ps) s) s

def execMxConvert (place : VectorPlace) (src : ElemRange) (count : Nat) (source : Fin 2) (target : Fin 16)
    (mode : Rounding) (s : State) : Host.Outcome State Fault Refusal :=
  .next (mxConvert place src count source target mode s)

/-- The value of an INT32 word (R109). -/
def int32Num (v : Nat) : Num :=
  let z := signed 32 v
  .fin (decide (z < 0)) z.natAbs 0

/-- VECTOR_CONVERT (R104): any format of R97, or INT32 words, to any format of R97. A block of scale 0xFF sets the invalid
flag (R107). -/
def vectorConvert (place : VectorPlace) (src : ElemRange) (count : Nat) (int32 : Bool) (source target : Nat)
    (mode : Rounding) (toInf : Bool) (s : State) : State :=
  let sf := if int32 then 0 else source
  vectorRun place [(sf, src, count)] (fun s =>
    let es := readElems s place.tower sf src 0 count
    let ps := es.map (·.poisoned)
    let xs := withLanes (es.map (fun e => if int32 then int32Num e.raw else e.num source)) id
    let nan := (List.range count).any (fun i => laneOn place i && isMx sf && decide ((es.map (·.scale)).getD i 0 = 0xFF))
    let s := if isMx target then mxConvertTo place target mode xs ps s
      else
        let (out, fl, s) := convertLanes place target mode toInf xs s
        vectorFlags place fl false (vectorWrite place (fmtWidth target) out ps s)
    vectorFlags place { invalid := nan } (lanesPoisoned place id ps) s) s

def execVectorConvert (place : VectorPlace) (src : ElemRange) (count : Nat) (int32 : Bool) (source target : Fin 16)
    (mode : Rounding) (toInfinity : Bool) (s : State) : Host.Outcome State Fault Refusal :=
  .next (vectorConvert place src count int32 source target mode toInfinity s)

/-- The magnitude of a value. -/
def absNum : Num → Num
  | .nan => .nan
  | .inf _ => .inf false
  | .fin _ m e => .fin false m e

/-- The positions of the two values kept of a group (R118): largest magnitude first, the lower position where
magnitudes are equal. -/
def keptPair (g : List Num) : Nat × Nat :=
  let mag (i : Nat) : Num := absNum (g.getD i (.fin false 0 0))
  let best (except : Nat) : Nat := [0, 1, 2, 3].foldl (fun b i =>
    if i = except then b else if b = 4 ∨ numGt (mag i) (mag b) then i else b) 4
  let p := best 4
  (p, best p)

/-- The kept pair in stored order: which of the two is stored first, and what a group with a NaN keeps, the
manual does not state; `r` decides. -/
def storedPair (g : List Num) (r : Nat) : Nat × Nat :=
  if g.any (fun x => decide (x = .nan)) then
    let p := r % 4
    (p, (p + 1 + r / 4 % 3) % 4)
  else
    let (a, b) := keptPair g
    if r % 2 = 0 then (min a b, max a b) else (max a b, min a b)

/-- Prune groups in order: metadata nibbles by lane, and kept values. -/
def pruneGroups : Nat → List Num → State → List (Nat × Nat) × List (Nat × Num) × State
  | 0, _, s => ([], [], s)
  | n + 1, xs, s =>
    if xs = [] then ([], [], s)
    else
      let g := xs.take 4
      let (r, s) := draw s
      let (a, b) := storedPair g r.toNat
      let (ms, vs, s) := pruneGroups n (xs.drop 4) s
      ((n, a + 4 * b) :: ms,
        (n, g.getD a (.fin false 0 0)) :: (n, g.getD b (.fin false 0 0)) :: vs, s)

/-- SPARSE_CONVERT (R118): 2:4 pruning, with conversion of the kept values to a weight format. -/
def sparseConvert (place : VectorPlace) (src : ElemRange) (count source target : Nat) (mode : Rounding) (s : State) : State :=
  vectorRun place [(source, src, count)] (fun s =>
    let es := readElems s place.tower source src 0 count
    let n := (count + 3) / 4
    let gp := (List.range n).map (fun g => ((es.drop (4 * g)).take 4).any (·.poisoned))
    let (ms, vs, s) := pruneGroups n (es.map (Elem.num source)) s
    let lane (i : Nat) : Nat := n - 1 - i
    let nibbles := ms.map (fun m => if laneOn place (lane m.1) then some m.2 else none)
    let vs := vs.map (fun v => (lane v.1, v.2))
    let vp := (List.range vs.length).map (fun i => gp.getD (i / 2) false)
    let s := writeElems place.tower place.cluster place.dest.positions.toNat 4 (place.dest.first / 2) nibbles gp s
    let s := if isMx target then mxConvertTo place target mode vs vp s
      else
        let (out, fl, s) := convertLanes place target mode false vs s
        vectorFlags place fl false (vectorWrite place (fmtWidth target) out vp s)
    vectorFlags place {} (lanesPoisoned place id gp) s) s

def execSparseConvert (place : VectorPlace) (src : ElemRange) (count : Nat) (source : Fin 2) (target : Fin 16)
    (mode : Rounding) (s : State) : Host.Outcome State Fault Refusal :=
  .next (sparseConvert place src count source target mode s)

/-- VECTOR_FMA (R110): FP32 with one rounding in RNE, or in FP32 and then once to BF16 in the instruction's
mode; BF16 lanes hold packed pairs (R65). -/
def vectorFma (place : VectorPlace) (a b c : ElemRange) (count format : Nat) (mode : Rounding) (s : State) : State :=
  vectorRun place [(format, a, count), (format, b, count), (format, c, count)] (fun s =>
    let xs := readElems s place.tower format a 0 count
    let ys := readElems s place.tower format b 0 count
    let zs := readElems s place.tower format c 0 count
    let ins := (xs.zip ys).zip zs
    let ps := ins.map (fun x => x.1.1.poisoned || x.1.2.poisoned || x.2.poisoned)
    let outs := ins.map (fun x => fma32 (x.1.1.num format) (x.1.2.num format) (x.2.num format))
    let lane (i : Nat) : Nat := if format = 0 then i else i / 2
    let (es, fl, s) := convertLanes place format mode false (withLanes (outs.map (fun o => decodeElem 0 o.1.toNat)) lane) s
    let own := Sticky.all ((List.range outs.length).map (fun i =>
      if laneOn place (lane i) then (outs.getD i (0, {})).2 else {}))
    vectorFlags place (fl.or own) (lanesPoisoned place lane ps) (vectorWrite place (fmtWidth format) es ps s)) s

def execVectorFma (place : VectorPlace) (a b c : ElemRange) (count : Nat) (format : Fin 2) (mode : Rounding)
    (s : State) : Host.Outcome State Fault Refusal :=
  .next (vectorFma place a b c count format mode s)

/-- The special values of R112; `none` where the result is a fixed function within the stated error. [DEDUCED, safe:
log 121] -/
def specialValue (f : Transcendental) (x : Num) : Option (BitVec 32 × Sticky) :=
  let neg (n : Bool) (v : Nat) : BitVec 32 := BitVec.ofNat 32 (flag n * 2 ^ 31 + v)
  let invalid : Option (BitVec 32 × Sticky) := some (0x7FC00000, { invalid := true })
  match f, x with
  | _, .nan => some (0x7FC00000, {})
  | .exp2, .inf n => some (if n then 0 else 0x7F800000, {})
  | .exp2, .fin n m e =>
    if !n && (numGt (.fin n m e) (.fin false 128 0) || !numGt (.fin false 128 0) (.fin n m e)) then
      some (0x7F800000, { overflow := true })
    else none
  | .log2, .inf n => if n then invalid else some (0x7F800000, {})
  | .log2, .fin n m _ => if m = 0 then some (0xFF800000, {}) else if n then invalid else none
  | .reciprocal, .inf n => some (neg n 0, {})
  | .reciprocal, .fin n m _ => if m = 0 then some (neg n 0x7F800000, {}) else none
  | .rsqrt, .inf n => if n then invalid else some (0, {})
  | .rsqrt, .fin n m _ => if m = 0 then some (neg n 0x7F800000, {}) else if n then invalid else none
  | .tanh, .inf n => some (neg n 0x3F800000, {})
  | .tanh, .fin _ _ _ => none

/-- One result of the transcendental unit (R112); a result that is an infinity sets its flag (R107). [DEDUCED, safe:
log 121] -/
def transcendentalOne (f : Transcendental) (x : Num) : BitVec 32 × Sticky :=
  match specialValue f x with
  | some r => r
  | none =>
    let v := unitResult f (toFp32 true x).1 x
    (v, match decodeElem 0 v.toNat with
      | .nan => { invalid := true }
      | .inf _ => { overflow := true }
      | .fin _ _ _ => {})

/-- TRANSCENDENTAL (R112): FP32 results of FP32 inputs, or of BF16 inputs widened. -/
def transcendental (place : VectorPlace) (src : ElemRange) (count : Nat) (f : Transcendental) (format : Nat) (s : State) : State :=
  vectorRun place [(format, src, count)] (fun s =>
    let es := readElems s place.tower format src 0 count
    let ps := es.map (·.poisoned)
    let xs := es.map (Elem.num format)
    let outs := (List.range count).map (fun i =>
      if laneOn place i then some (transcendentalOne f (xs.getD i .nan)) else none)
    vectorFlags place (Sticky.all (outs.filterMap (fun o => o.map (·.2)))) (lanesPoisoned place id ps)
      (vectorWrite place 32 (outs.map (fun o => o.map (fun r => r.1.toNat))) ps s)) s

def execTranscendental (place : VectorPlace) (src : ElemRange) (count : Nat) (function : Transcendental)
    (format : Fin 2) (s : State) : Host.Outcome State Fault Refusal :=
  .next (transcendental place src count function format s)

end Sys2Proof.Machine
end

