-- ==== Sys2Proof/Machine/LaneCode.lean ====
section
/-! DEFINITION. The line code of the Sprintis lanes (R270 to R273, R276): blocks and headers, the scrambler, PAM4 levels,
the dealing of symbols to lanes, stuff symbols, and the receiver's hunt for block alignment. -/

namespace Sys2Proof.Machine

/-! ### Blocks (R270) -/

/-- The header of block k of a flit, first bit first. -/
def blockHeader (k : Nat) : List Bool := if k = 0 then [true, false] else [false, true]

/-- The bits of a byte, least significant first. -/
def byteBits (b : Byte) : List Bool := (List.range 8).map b.getLsbD

/-- The payload of block k of a flit: bytes 32k to 32k + 31. -/
def blockBits (f : Bytes) (k : Nat) : List Bool := (slice f (32 * k) 32).flatMap byteBits

/-! ### The scrambler (R271): x⁵⁸ + x³⁹ + 1 -/

/-- A bit with the output bits 39 and 58 positions earlier; the state holds them, the latest in bit 0. -/
def mixBit (st : BitVec 58) (b : Bool) : Bool := b ^^ st.getLsbD 38 ^^ st.getLsbD 57

/-- The state after one more line bit. -/
def shiftIn (st : BitVec 58) (b : Bool) : BitVec 58 := (st <<< 1) ||| (BitVec.ofBool b).setWidth 58

/-- Scramble payload bits. -/
def scramble (st : BitVec 58) : List Bool → List Bool × BitVec 58
  | [] => ([], st)
  | b :: bs =>
    let o := mixBit st b
    let (os, st) := scramble (shiftIn st o) bs
    (o :: os, st)

/-- Descramble line bits. -/
def descramble (st : BitVec 58) : List Bool → List Bool × BitVec 58
  | [] => ([], st)
  | o :: os =>
    let b := mixBit st o
    let (bs, st) := descramble (shiftIn st o) os
    (b :: bs, st)

/-- The bundle stream of a flit: eight blocks, the payloads scrambled, the headers not. -/
def flitStream (st : BitVec 58) (f : Bytes) : List Bool × BitVec 58 :=
  (List.range 8).foldl (fun (acc : List Bool × BitVec 58) k =>
    let (bs, st) := scramble acc.2 (blockBits f k)
    (acc.1 ++ blockHeader k ++ bs, st)) ([], st)

/-! ### Symbols (R272, R273) -/

/-- The PAM4 level of two bits, the first the high one. -/
def pairLevel (hi lo : Bool) : Nat := match hi, lo with
  | false, false => 0
  | false, true => 1
  | true, true => 2
  | true, false => 3

/-- The two bits of a level. -/
def levelPair (l : Nat) : Bool × Bool := (decide (2 ≤ l), decide (l = 1 ∨ l = 2))

/-- The symbols of a stream. -/
def streamLevels : List Bool → List Nat
  | hi :: lo :: bs => pairLevel hi lo :: streamLevels bs
  | _ => []

/-- The symbols that the `i`-th of `n` active lanes gets when the first goes to the `at_`-th. -/
def dealtTo (n at_ i : Nat) (ls : List Nat) : List Nat :=
  (ls.zipIdx.filter (fun x => decide ((at_ + x.2) % n = i))).map (·.1)

/-- The stuff symbol after a run of a level. -/
def stuffLevel (l : Nat) : Nat := if l ≤ 1 then 3 else 0

/-- A run after one more symbol: its level and length. -/
def runAfter (run : Nat × Nat) (l : Nat) : Nat × Nat := if run.2 ≠ 0 ∧ run.1 = l then (l, run.2 + 1) else (l, 1)

/-- Insert the stuff symbols of a lane: one after 63 equal symbols. -/
def stuffLane (run : Nat × Nat) : List Nat → List Nat × (Nat × Nat)
  | [] => ([], run)
  | l :: ls =>
    let r := runAfter run l
    if r.2 = 63 then
      let (out, r) := stuffLane (runAfter r (stuffLevel l)) ls
      (l :: stuffLevel l :: out, r)
    else
      let (out, r) := stuffLane r ls
      (l :: out, r)

/-- Remove them: the symbol that follows any 63 equal ones. -/
def unstuffLane (run : Nat × Nat) : List Nat → List Nat
  | [] => []
  | l :: ls => if run.2 = 63 then unstuffLane (runAfter run l) ls else l :: unstuffLane (runAfter run l) ls

/-- The active lanes of a bundle of `lanes` at a width: 0 full, 1 lower half, 2 upper half. -/
def activeLanes (lanes width : Nat) : List Nat :=
  if width = 1 then List.range (lanes / 2)
  else if width = 2 then (List.range (lanes / 2)).map (· + lanes / 2)
  else List.range lanes

/-- A flit on the line: the symbols of each active lane, stuff symbols among them. -/
def lineFlit (line : Line) (active : List Nat) (f : Bytes) : List (Nat × List Nat) × Line :=
  let (bits, st) := flitStream line.scrambler f
  let ls := streamLevels bits
  let lanes := active.zipIdx.map (fun (k, i) =>
    (k, stuffLane (Tab.look (0, 0) line.runs k) (dealtTo active.length line.dealt i ls)))
  (lanes.map (fun x => (x.1, x.2.1)),
    { scrambler := st, dealt := (line.dealt + ls.length) % active.length,
      runs := lanes.foldl (fun t x => Tab.put (0, 0) x.1 x.2.2 t) line.runs })

/-- A data window of the crossbar (R269, R271): the scrambler starts from all ones. -/
def windowSymbols (active : List Nat) (flits : List Bytes) : List (Nat × List Nat) :=
  (flits.foldl (fun (acc : List (Nat × List Nat) × Line) f =>
    let (out, line) := lineFlit acc.2 active f
    (acc.1.map (fun x => (x.1, x.2 ++ ((out.find? (fun y => decide (y.1 = x.1))).map (·.2)).getD [])), line))
    (active.map (fun k => (k, [])), {})).1

/-! ### Block alignment (R276) -/

/-- A header is one of the two valid values. -/
def headerValid (h : BitVec 2) : Bool := decide (h = 0b10 ∨ h = 0b01)

/-- The hunt hears a header at its candidate position: one in a row more, or the candidate moves by one bit. -/
def huntHeader (x : Hunt) (h : BitVec 2) : Hunt :=
  if headerValid h then
    { x with inRow := x.inRow + 1, block := if h = 0b10 then 1 else (x.block + 1) % 8 }
  else { candidate := (x.candidate + 1) % 258 }

/-- 64 valid headers in a row are lock. -/
def huntLocked (x : Hunt) : Bool := decide (64 ≤ x.inRow)

/-- After lock a header is valid when it is 0b10 on every eighth block and 0b01 on the others. -/
def lockedHeader (x : Hunt) (h : BitVec 2) : Hunt :=
  let good := decide (h = (if x.block = 0 then 0b10 else 0b01))
  { x with block := (x.block + 1) % 8, recent := (x.recent ++ [!good]).drop (x.recent.length - 63) }

/-- 16 of 64 consecutive headers are invalid: loss of lock. -/
def huntLost (x : Hunt) : Bool := decide (16 ≤ x.recent.countP id)

end Sys2Proof.Machine
end

