-- ==== Sys2Proof/Machine/LinkOps.lean ====
section
/-! DEFINITION. Flits, sequence numbers, the replay and the reorder buffer of a link (R274, R275, R280 to R283). -/

namespace Sys2Proof.Machine

/-- The transmit direction of a link. -/
def txOf (s : State) (n : Nat) : LinkTx := Tab.look {} s.lanes.tx n

/-- The receive direction of a link. -/
def rxOf (s : State) (n : Nat) : LinkRx := Tab.look {} s.lanes.rx n

/-- Change a transmit direction. -/
def changeTx (n : Nat) (f : LinkTx → LinkTx) (s : State) : State :=
  { s with lanes.tx := Tab.change {} n f s.lanes.tx }

/-- Change a receive direction. -/
def changeRx (n : Nat) (f : LinkRx → LinkRx) (s : State) : State :=
  { s with lanes.rx := Tab.change {} n f s.lanes.rx }

/-- From sequence `a` forward to `b`, modulo 1,024. -/
def seqDist (a b : Nat) : Nat := (b + 1024 - a % 1024) % 1024

/-- The receiver of a crossbar link number, its plane and its source. -/
def pathDst (n : Nat) : Nat := (n - 16) / 12 / 8
def pathPlane (n : Nat) : Nat := (n - 16) / 12 % 8
def pathSrc (n : Nat) : Nat := (n - 16) % 12

/-- A link number of 0x4020:01 that names a link (R268). -/
def linkExists (n : Nat) : Bool :=
  decide (n ≤ 8) || (decide (16 ≤ n ∧ n < 1168) && decide (pathSrc n ≠ pathDst n))

/-- Lanes of a link's bundle (R268). -/
def linkLanes (n : Nat) : Nat := if n < 8 then 64 else if n = 8 then 8 else 32

/-- The payload items of R297: link, lane, sequence. [DESIGN CHOICE, safe: log 127] -/
def linkItems (n : Nat) (lane seq : Option Nat) : List (Option Bytes) := [b2 n, lane.bind b1, seq.bind b2]

/-- Replay time of a link (R283). -/
def replayTime (n : Nat) : Nat := if n < 8 then us else 2 * us

/-- One lost or failed flit sent again: counted by kind of link (R296). -/
def countRetransmit (n : Nat) (s : State) : State := count64 (if n ≤ 8 then 0x402003 else 0x400006) 1 s

/-! ### Groups on the transit bundles (R326, R327) -/

/-- The parities of the data lanes' bits of a group, as a mask. -/
def groupParity (n : Nat) (g : Bytes) : Nat :=
  maskOf n (fun i => ((List.range ((g.length + n - 1) / n)).foldl
    (fun a j => if i + j * n < g.length then a + popcount 8 (g.getD (i + j * n) 0).toNat else a) 0) % 2 == 1)

/-- A bundle that carries lanes now. -/
def bundleRuns (s : State) (t n : Nat) : Bool :=
  decide ((bundle s t n).mode ≠ 0) &&
    (if t < 12 then !baseDown s (baseOfTower t) else !baseDown s (n / 4) && !baseDown s (n / 4 + 1))

/-- The bundle of the other direction. -/
def reverseBundle (t n : Nat) : Nat :=
  if 12 ≤ t then (if n % 4 < 2 then n + 2 else n - 2)
  else if n < 16 then n + 16 else if n < 32 then n - 16 else if n % 2 = 0 then n + 1 else n - 1

/-- A DATA group (R326): the parities of the group before it, its sequence, the acknowledgement of the reverse bundle,
and credits, whose values the manual leaves open. -/
def makeGroup (t n : Nat) (payload : Bytes) (s : State) : Bytes × State :=
  let x := bundle s t n
  let y := bundle s t (reverseBundle t n)
  let (credits, s) := drawBytes 12 s
  let ack := if y.got then 2 ^ 15 + (y.expected + 1023) % 1024 else 0
  let body := leBytes 8 (2 ^ 60 + x.sentParity) ++ leBytes 2 x.next ++ leBytes 2 ack ++ credits ++ padTo 512 payload
  (body ++ leBytes 4 (crc32 body).toNat, s)

/-- Send the next payload that waits; at most 512 groups are unacknowledged. [DEDUCED, safe: log 195] -/
def sendGroup (t n : Nat) (s : State) : State :=
  let x := bundle s t n
  match x.queue with
  | [] => s
  | payload :: rest =>
    if 512 ≤ x.unacked.length then s
    else
      let (g, s) := makeGroup t n payload s
      changeBundle t n (fun x => { x with
        queue := rest
        next := (x.next + 1) % 1024
        sentParity := groupParity x.data.length g
        unacked := x.unacked ++ [{ seq := x.next, bytes := g, sentAt := s.now }] }) s

/-- Send what waits on a bundle. [DEDUCED, safe: log 195] -/
def pumpGroups (t n : Nat) (s : State) : State :=
  (List.range (bundle s t n).queue.length).foldl (fun s _ => sendGroup t n s) s

/-- Bytes go over a bundle, 512 to a group. A bundle that carries nothing takes none. [DESIGN CHOICE, safe: log 196] -/
def carryOn (t n : Nat) (data : Bytes) (s : State) : State :=
  if !bundleRuns s t n then s
  else pumpGroups t n (changeBundle t n (fun x => { x with
    queue := x.queue ++ (List.range ((data.length + 511) / 512)).map (fun i => slice data (512 * i) 512) }) s)

/-- The flits of a waveguide go over its two bundles, from the first: two flits to a group, in turn. -/
def carryFlits (t first w : Nat) (flits : List Bytes) (s : State) : State :=
  (List.range ((flits.length + 1) / 2)).foldl (fun s i =>
    carryOn t (first + 2 * w + i % 2) ((flits.drop (2 * i)).take 2).flatten s) s

/-- A cumulative acknowledgement: every group up to it leaves the replay buffer, and more can be sent. [DEDUCED,
safe: log 195] -/
def ackGroups (t n a : Nat) (s : State) : State :=
  pumpGroups t n (changeBundle t n (fun x => { x with
    unacked := x.unacked.filter (fun g => decide ((a + 1024 - g.seq) % 1024 ≥ 512)) }) s)

/-! ### The trunk (R347, R376) -/

/-- A trunk link toward the higher or the lower base die: one of its two bundles is up, and neither base die is in
reset. [DEDUCED, safe: log 197] -/
def trunkUp (s : State) (l : Nat) (rising : Bool) : Bool :=
  let n := if rising then 4 * l else 4 * l + 2
  !(bundleOut (bundle s 12 n) && bundleOut (bundle s 12 (n + 1))) && (baseState s l).resetAt.isNone && (baseState s (l + 1)).resetAt.isNone

/-- The trunk links from one base die to another. -/
def trunkLinks (a b : Nat) : List Nat := (List.range 3).filter (fun l => decide (min a b ≤ l ∧ l < max a b))

/-- The trunk joins the port switches of two base dies. [DEDUCED, safe: log 197] -/
def trunkJoins (s : State) (a b : Nat) : Bool := (trunkLinks a b).all (fun l => trunkUp s l (decide (a < b)))

/-- Bytes cross the trunk, on the first bundle of each link that is up. [DEDUCED, safe: log 197] -/
def crossTrunk (a b : Nat) (data : Bytes) (s : State) : State :=
  (trunkLinks a b).foldl (fun s l =>
    let n := if a < b then 4 * l else 4 * l + 2
    carryOn 12 (if bundleOut (bundle s 12 n) then n + 1 else n) data s) s

/-! ### The bridle mesh (R240 to R242) -/

/-- The failed-link test of a step of the mesh between neighbouring towers (R240, R242). -/
def meshStep (s : State) (a b : Nat) : Bool :=
  let lo := min a b
  let n := if a / 3 = b / 3 then 2 * (lo / 3) + lo % 3 else 8 + 3 * (lo % 3) + lo / 3
  decide (n ∉ s.pho.meshDown)

/-- Every step of a list of towers is up. -/
def meshRun (s : State) : List Nat → Bool
  | a :: b :: ts => meshStep s a b && meshRun s (b :: ts)
  | _ => true

/-- From `a` to `b`, one at a time. -/
def walkOf (a b : Nat) : List Nat :=
  if a ≤ b then (List.range (b - a + 1)).map (a + ·) else (List.range (a - b + 1)).map (a - ·)

/-- A mesh route by way of the row, then of the column, or the other order, reaches a tower (R242). -/
def meshReach (s : State) (a b : Nat) : Bool :=
  let row (r c1 c2 : Nat) : List Nat := (walkOf c1 c2).map (fun c => 3 * c + r)
  let col (c r1 r2 : Nat) : List Nat := (walkOf r1 r2).map (fun r => 3 * c + r)
  (meshRun s (row (a % 3) (a / 3) (b / 3)) && meshRun s (col (b / 3) (a % 3) (b % 3))) ||
    (meshRun s (col (a / 3) (a % 3) (b % 3)) && meshRun s (row (b % 3) (a / 3) (b / 3)))

/-- Control packets: invalidations, acknowledgements and management (R242). -/
def MeshLoad.control : MeshLoad → Bool
  | .invalidate .. | .invalidateAck .. | .acknowledge _ | .word _ => true
  | .packet _ | .scheduled .. | .sumMember .. => false

/-- Put a packet on the mesh: a control packet goes ahead of every data packet (R242). [DESIGN CHOICE, safe: log 170] -/
def putMesh (m : MeshPacket) (s : State) : State :=
  let ctl (x : MeshPacket) : Bool := x.load.control
  { s with pho.mesh :=
      if ctl m then s.pho.mesh.takeWhile ctl ++ [m] ++ s.pho.mesh.dropWhile ctl else s.pho.mesh ++ [m] }

/-- The bytes of a load, where the manual gives them. [DESIGN CHOICE, safe: log 196] -/
def MeshLoad.bytes : MeshLoad → Bytes
  | .packet p => leBytes 16 p.header.toNat ++ p.data
  | .scheduled _ _ _ _ _ data => data
  | .acknowledge w | .word w => leBytes 8 w.toNat
  | .invalidate .. | .invalidateAck .. | .sumMember .. => []

/-- A route of the mesh joins two towers, and the mesh bundles of both are up (R242, R333). -/
def meshJoins (s : State) (a b : Nat) : Bool := meshReach s a b && !bundleOut (bundle s a 0x20) && !bundleOut (bundle s b 0x21)

/-- Send over the mesh. When nothing joins two towers whose slots run, the traffic rides in open slots (R242, R333).
[DESIGN CHOICE, safe: log 170] -/
def sendMesh (src dst : Nat) (load : MeshLoad) (s : State) : State :=
  let m : MeshPacket := { source := src, dest := dst, load := load }
  if src < 12 ∧ dst < 12 ∧ (receiver s src).optical ∧ (receiver s dst).optical ∧ !meshJoins s src dst then
    { s with pho.rides := s.pho.rides ++ [m] }
  else carryOn dst 0x21 load.bytes (carryOn src 0x20 load.bytes (putMesh m s))

/-! ### Flits (R274, R275) -/

/-- The bytes of a flit. -/
def mkFlit (kind seq ack nak first : Nat) (data : Bytes) : Bytes :=
  let body := leBytes 2 (2 ^ 14 * kind + seq) ++ leBytes 2 ack ++ leBytes 2 nak ++ leBytes 2 first ++ zeros 4 ++ padTo 240 data
  body ++ leBytes 4 (crc32 body).toNat

def flitKind (f : Bytes) : Nat := fieldAt f 0 2 / 2 ^ 14
def flitSeq (f : Bytes) : Nat := fieldAt f 0 2 % 1024
def flitAckValid (f : Bytes) : Bool := nbit (fieldAt f 2 2) 15
def flitAck (f : Bytes) : Nat := fieldAt f 2 2 % 1024
def flitNakValid (f : Bytes) : Bool := nbit (fieldAt f 4 2) 15
def flitNak (f : Bytes) : Nat := fieldAt f 4 2 % 1024
def flitFirst (f : Bytes) : Nat := fieldAt f 6 2
def flitData (f : Bytes) : Bytes := slice f 0x0C 240
def flitCode (f : Bytes) : Nat := fieldAt f 0x0C 1
def flitWidth (f : Bytes) : Nat := fieldAt f 0x0D 1 % 4
def flitExpected (f : Bytes) : Nat := fieldAt f 0x0E 2 % 1024
def flitLane (f : Bytes) : Nat := fieldAt f 0x10 1
def flitStep (f : Bytes) : Nat := fieldAt f 0x11 1

/-- A flit of 256 bytes that passes its CRC. -/
def flitIntact (f : Bytes) : Bool :=
  decide (f.length = 256) && decide (fieldAt f 0xFC 4 = (crc32 (f.take 252)).toNat)

/-- The acknowledgement field that a link's flits carry now: the receiver's latest. -/
def ackField (s : State) (n : Nat) : Nat :=
  let r := rxOf s n
  if r.got then 2 ^ 15 + (r.expected + 1023) % 1024 else 0

/-- The Nak field. -/
def nakField (s : State) (n : Nat) : Nat :=
  let r := rxOf s n
  if r.naking then 2 ^ 15 + r.expected else 0

/-- Send one flit on a port or TW, and its symbols on the active lanes. [DESIGN CHOICE, safe: log 7] -/
def putFlit (n kind seq first : Nat) (data : Bytes) (s : State) : State :=
  let f := mkFlit kind seq (ackField s n) (nakField s n) first data
  let x := txOf s n
  let (symbols, line) := lineFlit x.line (activeLanes (linkLanes n) x.width) f
  { changeTx n (fun x => { x with line := line, symbols := symbols }) s with lanes.sent := s.lanes.sent ++ [(n, f)] }

/-- A NULL flit. -/
def putNull (n : Nat) (s : State) : State := putFlit n 1 0 0xFFFF [] s

/-- The block stream of a port or TW begins with NULL flits when its moment has come (R277). [DEDUCED, safe: log 175] -/
def beginStream (n : Nat) (s : State) : State :=
  let x := txOf s n
  if x.pattern ∧ x.streamAt ≤ s.now then
    putNull n (changeTx n (fun x => { x with pattern := false, line := { x.line with dealt := 0 } }) s)
  else s

/-- NULL flits fill idle time (R269, R275): one is sent where a direction that carries blocks has nothing else to send. -/
def fillIdle (n : Nat) (s : State) : State :=
  let x := txOf s n
  if n ≤ 8 ∧ x.dataOn ∧ !x.pattern ∧ x.waiting = [] then putNull n s else s

/-- The data bytes of a CONTROL flit. -/
def controlData (code width expected lane step : Nat) : Bytes :=
  leBytes 1 code ++ leBytes 1 width ++ leBytes 2 expected ++ leBytes 1 lane ++ leBytes 1 step

/-- A CONTROL flit. -/
def putControl (n code width expected lane step : Nat) (s : State) : State :=
  putFlit n 2 0 0xFFFF (controlData code width expected lane step) s

/-! ### The transmitter (R280, R281) -/

/-- Flits that may be unacknowledged. -/
def flitWindow : Nat := 512

/-- A port's encryption is on (R379). -/
def portEncrypted (s : State) (p : Nat) : Bool := nbit (dictNat s 0x500008) p

/-- A key is in force for sending on a port. -/
def portKeyed (s : State) (p : Nat) : Bool := decide ((Tab.look {} s.fab.crypt (2 * p)).generation ≠ 0)

/-- Data bytes of a flit that carry packet data: 224 under a key (R380). -/
def flitRoom (s : State) (n : Nat) : Nat := if n < 8 && portEncrypted s n && portKeyed s n then 224 else 240

/-- A key switch takes effect at its count (R381): event 0x500A with the port. -/
def switchKey (key : Nat) (s : State) : State :=
  let c := Tab.look {} s.fab.crypt key
  if c.switchAt = some c.count then
    raise 0x500A [none, none, none, b1 (key / 2), none, none]
      { s with fab.crypt := Tab.put {} key { c with generation := c.generation + 1, count := 0, switchAt := none } s.fab.crypt }
  else s

/-- What a new DATA flit carries: on a port under a key the ciphertext and its tag, with bytes 0x00–0x01 and
0x06–0x07 authenticated (R380). The flit is counted under the key. -/
def sealData (n seq : Nat) (first : Bool) (data : Bytes) (s : State) : Bytes × State :=
  if n < 8 ∧ portEncrypted s n ∧ portKeyed s n then
    let s := switchKey (2 * n) s
    let c := Tab.look {} s.fab.crypt (2 * n)
    let key := Config.portKey (2 * n) (BitVec.ofNat 32 c.generation)
    let aad := leBytes 2 seq ++ leBytes 2 (if first then 0 else 0xFFFF)
    (padTo 240 (Config.gcmSeal key (leBytes 8 c.count) aad (padTo 224 data)),
      { s with fab.crypt := Tab.put {} (2 * n) { c with count := c.count + 1 } s.fab.crypt })
  else (data, s)

/-- Send one waiting flit, if the window and the link allow it. -/
def sendOneFlit (n : Nat) (s : State) : State :=
  let x := txOf s n
  match x.waiting with
  | [] => s
  | (first, data) :: rest =>
    if !x.dataOn || decide (x.unacked.length ≥ flitWindow) then s
    else
      let (data, s) := sealData n x.next first data s
      let f : TxFlit := { seq := x.next, first := if first then 0 else 0xFFFF, data := data, sentAt := s.now }
      putFlit n 0 x.next f.first data
        (changeTx n (fun x => { x with next := (x.next + 1) % 1024, unacked := x.unacked ++ [f], waiting := rest }) s)

/-- Send the waiting flits of a port or TW, as far as its window allows. -/
def pumpTx (n : Nat) (s : State) : State :=
  (List.range (txOf s n).waiting.length).foldl (fun s _ => sendOneFlit n s) s

/-- The data of a packet in flits of `size` bytes, the first marked. -/
def flitChunks (size : Nat) : Nat → Bool → Bytes → List (Bool × Bytes)
  | 0, _, _ => []
  | n + 1, first, data =>
    if data = [] then [] else (first, data.take size) :: flitChunks size n false (data.drop size)

/-- Give a packet to the transmitter of a port or TW. Each packet starts a flit of its own. [DEDUCED, safe: log 17] -/
def queuePacket (n size : Nat) (data : Bytes) (s : State) : State :=
  pumpTx n (changeTx n (fun x => { x with waiting := x.waiting ++ flitChunks size data.length true data }) s)

/-- A cumulative acknowledgement: every flit up to it leaves the replay buffer. -/
def ackTx (n a : Nat) (s : State) : State :=
  pumpTx n (changeTx n (fun x => { x with
    unacked := x.unacked.filter (fun f => decide (seqDist f.seq a ≥ 512))
    again := x.again.filter (fun q => decide (seqDist q a ≥ 512))
    nak := match x.nak with
      | some q => if seqDist q a ≥ 512 then some q else none
      | none => none }) s)

/-- The escalation of R283: this flit has been retransmitted four times without an acknowledgement. [DEDUCED, safe:
log 21] -/
def escalates (x : LinkTx) (q : Nat) : Bool := x.unacked.any (fun f => decide (f.seq = q) && decide (f.tries ≥ 4))

/-- Retransmit one flit that the replay buffer holds: at once on a port or TW, in the next open grant on the
crossbar (R239). -/
def retransmit (n q : Nat) (s : State) : State :=
  match (txOf s n).unacked.find? (fun f => decide (f.seq = q)) with
  | none => s
  | some f =>
    if n ≤ 8 then
      let s := changeTx n (fun x => { x with
        unacked := changeFirst (fun g => decide (g.seq = q)) (fun g => { g with tries := g.tries + 1, sentAt := s.now }) x.unacked }) s
      putFlit n 0 q f.first f.data (countRetransmit n s)
    else changeTx n (fun x => { x with again := addOnce q x.again }) s

/-! ### The receiver (R280 to R282) -/

/-- Flits in the reorder buffers that share room with a link's: its own on a port or TW, those of every source
of an ingress waveguide on the crossbar. -/
def reorderUsed (s : State) (n : Nat) : Nat :=
  if n ≤ 8 then (rxOf s n).reorder.length
  else (allTowers.map (fun t => (rxOf s (pathLink t (pathDst n) (pathPlane n))).reorder.length)).sum

/-- Room of the reorder buffer. -/
def reorderRoom (n : Nat) : Nat := if n ≤ 8 then 512 else 2048

/-- Flits that stand in sequence are delivered, each at most once. -/
def drainReorder : Nat → LinkRx → List Bytes × LinkRx
  | 0, r => ([], r)
  | k + 1, r => match r.reorder.find? (fun f => decide (f.1 = r.expected)) with
    | none => ([], r)
    | some f =>
      let (rest, r') := drainReorder k
        { r with expected := (r.expected + 1) % 1024, reorder := r.reorder.filter (fun g => decide (g.1 ≠ f.1)) }
      (f.2 :: rest, r')

/-- A receiver takes an intact flit: delivered data in sequence, and the state. Repeats are dropped. -/
def rxTake (n seq : Nat) (data : Bytes) (s : State) : List Bytes × State :=
  let r := rxOf s n
  if seqDist r.expected seq ≥ 512 ∨ r.reorder.any (fun f => decide (f.1 = seq)) then ([], s)
  else if seq ≠ r.expected ∧ reorderUsed s n ≥ reorderRoom n then ([], changeRx n (fun r => { r with naking := true }) (count32 0x402005 1 s))
  else
    let r := { r with reorder := r.reorder ++ [(seq, data)] }
    let (out, r) := drainReorder r.reorder.length r
    let r := { r with got := r.got || decide (out ≠ []), naking := decide (r.reorder ≠ []) }
    (out, { s with lanes.rx := Tab.put {} n r s.lanes.rx })

/-- A flit that fails its CRC is discarded (R275) and the receiver asks for the lowest missing one. -/
def rxBad (n : Nat) (s : State) : State := changeRx n (fun r => { r with naking := true }) (count64 0x402002 1 s)

/-- The acknowledgement word of the crossbar (R282). -/
def mkAckWord (dst src w nakValid ack nak : Nat) : BitVec 64 :=
  mkWord (dst * 2 ^ 60 + src * 2 ^ 56 + w * 2 ^ 53 + nakValid * 2 ^ 52 + ack * 2 ^ 42 + nak * 2 ^ 32)

/-- The word a receiver sends now for a path. Before the first flit the acknowledgement names the number before
the first. -/
def ackWordNow (s : State) (n : Nat) : BitVec 64 :=
  let r := rxOf s n
  mkAckWord (pathDst n) (pathSrc n) (pathPlane n) (flag r.naking) ((r.expected + 1023) % 1024) (if r.naking then r.expected else 0)

/-- Send a crossbar acknowledgement word over the mesh. -/
def sendAckWord (n : Nat) (s : State) : State :=
  sendMesh (pathDst n) (pathSrc n) (.acknowledge (ackWordNow s n)) s

end Sys2Proof.Machine
end

