-- ==== Sys2Proof/Machine/LineCode.lean ====
section
/-! DEFINITION. The line code of the stacked DRAM (R198 to R201): arithmetic in GF(2^8), the encoder, and the
decoder up to t symbol errors. Polynomials are lists of coefficients, lowest degree first. -/

namespace Sys2Proof.Machine

/-- Multiply by α = 0x02 modulo 0x11D. -/
def gfDouble (a : Nat) : Nat := if a ≥ 128 then (2 * a) ^^^ 0x11D else 2 * a

/-- Multiply by the low `n` bits of `b`. -/
def gfMulN : Nat → Nat → Nat → Nat
  | 0, _, _ => 0
  | n + 1, a, b => (if b % 2 = 1 then a else 0) ^^^ gfMulN n (gfDouble a) (b / 2)

/-- The field product. -/
def gfMul (a b : Nat) : Nat := gfMulN 8 a b

/-- Powers. -/
def gfPow (a : Nat) : Nat → Nat
  | 0 => 1
  | n + 1 => gfMul a (gfPow a n)

/-- The inverse, a^254 = a^2 · a^4 · … · a^128; zero of zero. -/
def gfInv (a : Nat) : Nat :=
  ((List.range 6).foldl (fun (acc : Nat × Nat) _ =>
    let sq := gfMul acc.1 acc.1
    (sq, gfMul acc.2 sq)) (gfMul a a, gfMul a a)).2

/-- Powers α^0 to α^71. -/
def gfAlpha (i : Nat) : Nat := gfPow 2 i

/-- Evaluate a polynomial by Horner's rule. -/
def gfEval (x : Nat) : List Nat → Nat
  | [] => 0
  | c :: cs => c ^^^ gfMul x (gfEval x cs)

/-- The sum of two polynomials. -/
def gfAdd : List Nat → List Nat → List Nat
  | [], q => q
  | p, [] => p
  | a :: p, b :: q => (a ^^^ b) :: gfAdd p q

/-- The product of two polynomials. -/
def gfProd : List Nat → List Nat → List Nat
  | [], _ => []
  | a :: p, q => gfAdd (q.map (gfMul a)) (0 :: gfProd p q)

/-- g(x) (R198). -/
def rsGenerator : List Nat := (List.range 8).foldl (fun g i => gfProd g [gfAlpha i, 1]) [1]

/-- One symbol into the division by g(x), highest degree first. -/
def rsStep (rem : List Nat) (d : Nat) : List Nat :=
  let fb := d ^^^ rem.getD 7 0
  gfAdd (0 :: rem.take 7) ((rsGenerator.take 8).map (gfMul fb))

/-- The check symbols c0 to c7 of the 64 bytes of a line (R198). -/
def rsCheck (data : List Nat) : List Nat := data.reverse.foldl rsStep (List.replicate 8 0)

/-- The codeword c0 to c71 of a line. -/
def rsEncode (data : List Nat) : List Nat := rsCheck data ++ data

/-- The syndromes at α^0 to α^7. -/
def rsSyndromes (word : List Nat) : List Nat := (List.range 8).map (fun j => gfEval (gfAlpha j) word)

/-- The state of the search for the error locator: locator, previous locator, its length, gap, and the
previous discrepancy. -/
structure Locator where
  cur : List Nat := [1]
  prev : List Nat := [1]
  len : Nat := 0
  gap : Nat := 1
  last : Nat := 1

/-- One syndrome into the search. -/
def locatorStep (syn : List Nat) (l : Locator) (n : Nat) : Locator :=
  let d := (List.range (l.len + 1)).foldl (fun a i => a ^^^ gfMul (l.cur.getD i 0) (syn.getD (n - i) 0)) 0
  if d = 0 then { l with gap := l.gap + 1 }
  else
    let next := gfAdd l.cur (List.replicate l.gap 0 ++ l.prev.map (gfMul (gfMul d (gfInv l.last))))
    if 2 * l.len ≤ n then { cur := next, prev := l.cur, len := n + 1 - l.len, gap := 1, last := d }
    else { l with cur := next, gap := l.gap + 1 }

/-- The error value at a position from the locator and the evaluator. -/
def errorValue (locator evaluator : List Nat) (i : Nat) : Nat :=
  let x := gfAlpha i
  let inv := gfInv x
  let odd := (List.range locator.length).map (fun j => if j % 2 = 1 then locator.getD j 0 else 0)
  gfMul x (gfMul (gfEval inv evaluator) (gfInv (gfMul x (gfEval inv odd))))

/-- The errors that a syndrome decodes to, when they are at most `t` symbols of the 72 (R201): positions and
values; `none` otherwise. A zero syndrome decodes to no error. [DEDUCED, safe: log 122] -/
def rsDecode (t : Nat) (syn : List Nat) : Option (List (Nat × Nat)) :=
  let l := (List.range 8).foldl (locatorStep syn) {}
  if l.len > t then none
  else
    let roots := (List.range 72).filter (fun i => decide (gfEval (gfInv (gfAlpha i)) l.cur = 0))
    let evaluator := (gfProd syn l.cur).take 8
    let errs := roots.map (fun i => (i, errorValue l.cur evaluator i))
    let back := (List.range 8).map (fun j =>
      errs.foldl (fun a e => a ^^^ gfMul e.2 (gfPow (gfAlpha j) e.1)) 0)
    if roots.length = l.len ∧ back = syn ∧ errs.all (fun e => decide (e.2 ≠ 0)) then some errs else none

/-- The poison mask: 0xE7 in every check symbol (R200). -/
def rsMask : List Nat := List.replicate 8 0xE7

/-- How a read of a codeword ends (R202). -/
inductive LineState where
  | clean
  | corrected (word : List Nat)
  | uncorrectable
  | poisoned
  deriving DecidableEq, Repr

/-- Decode a stored codeword under the correction limit (R200, R201). [DEDUCED, safe: log 122] -/
def classify (t : Nat) (word : List Nat) : LineState :=
  let syn := rsSyndromes word
  if syn.all (· = 0) then .clean
  else
    let masked := gfAdd syn (rsSyndromes rsMask)
    if masked.all (· = 0) then .poisoned
    else match rsDecode t masked with
      | some _ => .uncorrectable
      | none => match rsDecode t syn with
        | some errs => .corrected (errs.foldl (fun w e => listPutXor w e.1 e.2) word)
        | none => .uncorrectable
  where listPutXor : List Nat → Nat → Nat → List Nat
    | [], _, _ => []
    | x :: xs, 0, v => (x ^^^ v) :: xs
    | x :: xs, n + 1, v => x :: listPutXor xs n v

end Sys2Proof.Machine
end

