-- ==== Sys2Proof/Machine/Dram.lean ====
section
/-! DEFINITION. The stacked DRAM (R192 to R212): places, reads, writes and poison under the line code,
write-backs, refresh, row activity, patrol and handover scrub. A line is numbered by its local physical
address divided by 64. -/

namespace Sys2Proof.Machine

/-! ### Places (R164, R193) -/
def lineOfAddress (t off : Nat) : Nat := t * 2 ^ 30 + off / 64
def lineTower (line : Nat) : Nat := line / 2 ^ 30
def lineColumn (line : Nat) : Nat := line % 32
def lineChannel (line : Nat) : Nat := line / 32 % 32
def lineBank (line : Nat) : Nat := line / 1024 % 32
def lineRow (line : Nat) : Nat := line / 32768 % 32768

/-- The key of a bank: 1024 × tower + 32 × pseudo-channel + bank. -/
def bankKey (line : Nat) : Nat := 1024 * lineTower line + 32 * lineChannel line + lineBank line

/-- The stack of a tower. -/
def stack (s : State) (t : Nat) : Stack := Tab.look {} s.dram.stackTable t

/-- Change a stack. -/
def changeStack (t : Nat) (f : Stack → Stack) (s : State) : State :=
  { s with dram.stackTable := Tab.change {} t f s.dram.stackTable }

/-- A tower is under handover scrub (R211). -/
def scrubbing (s : State) (t : Nat) : Bool := (stack s t).scrubLine.isSome

/-- The payload of an event about a line (R214): tower, pseudo-channel, bank, row, line, and no band. -/
def lineItems (line : Nat) : List (Option Bytes) :=
  [b1 (lineTower line), b1 (lineChannel line), b1 (lineBank line), b2 (lineRow line), b1 (lineColumn line), none]

/-! ### Codewords -/

/-- The stored codeword of a line, c0 to c71. -/
def storedWord (s : State) (line : Nat) : List Nat :=
  (List.range 72).map (fun j => (Tab.look 0 s.dram.symbols (72 * line + j)).toNat)

/-- Store a codeword. -/
def storeWord (line : Nat) (word : List Nat) (s : State) : State :=
  { s with
    dram.symbols := (List.range 72).foldl
      (fun t j => Tab.put 0 (72 * line + j) (BitVec.ofNat 8 (word.getD j 0)) t) s.dram.symbols }

/-- The codeword of 64 bytes, with the poison mask on its check symbols when it is poisoned (R200). -/
def lineWord (data : Bytes) (poisoned : Bool) : List Nat :=
  let w := rsEncode ((padTo 64 data).map (·.toNat))
  if poisoned then gfAdd w rsMask else w

/-- The data bytes of a codeword. -/
def wordData (word : List Nat) : Bytes := (word.drop 8).map (BitVec.ofNat 8 ·)

/-- Bits that have changed in the array since they were stored, by symbol. -/
def upsetWord (line : Nat) (upsets : List (Fin 72 × Byte)) (s : State) : State :=
  { s with
    dram.symbols := upsets.foldl (fun t u => Tab.change 0 (72 * line + u.1) (· ^^^ u.2) t) s.dram.symbols }

/-! ### Write-backs and activations -/

/-- A newer write to a line drops its write-back (R202). -/
def dropWriteBack (line : Nat) (s : State) : State :=
  { s with
    dram.writeBacks := Tab.change [] (bankKey line) (fun ws => ws.filter (fun w => decide (w.line ≠ line)))
      s.dram.writeBacks }

/-- Schedule a write-back. -/
def scheduleWriteBack (line : Nat) (word : List Nat) (s : State) : State :=
  { s with
    dram.writeBacks := Tab.change [] (bankKey line)
      (fun ws => ws ++ [{ line := line, word := word.map (BitVec.ofNat 8 ·) }]) s.dram.writeBacks }

/-- Activate the row of a line, unless it is open; the neighbours of a row that has reached 8,192 activations
in an interval are refreshed before its next one (R209). -/
def activateRow (line : Nat) (s : State) : State :=
  let key := bankKey line
  let row := lineRow line
  if Tab.look 0 s.dram.openRow key = row + 1 then s
  else
    let akey := 32768 * key + row
    let n := Tab.look 0 s.dram.activations akey
    let s := if n ≥ 8192 then
        { s with
          dram.hammerRefreshes := s.dram.hammerRefreshes ++
            ((if row > 0 then [(key, row - 1)] else []) ++ (if row < 32767 then [(key, row + 1)] else []))
          dram.activations := Tab.put 0 akey 0 s.dram.activations }
      else s
    { s with
      dram.openRow := Tab.put 0 key (row + 1) s.dram.openRow
      dram.activations := Tab.change 0 akey (· + 1) s.dram.activations }

/-- Issue the write-backs scheduled for a bank: they go ahead of every later request (R202). -/
def flushBank (key : Nat) (s : State) : State :=
  let ws := Tab.look [] s.dram.writeBacks key
  ws.foldl (fun s w => storeWord w.line (w.word.map (·.toNat)) (activateRow w.line s))
    { s with dram.writeBacks := Tab.put [] key [] s.dram.writeBacks }

/-! ### Reads and writes (R202 to R204) -/

/-- A read of a line: data, completion code, and the state after it. -/
def readLine (line : Nat) (s : State) : Bytes × Nat × State :=
  let s := activateRow line (flushBank (bankKey line) s)
  let word := storedWord s line
  let t := lineTower line
  match classify (dictNat s 0x380001) word with
  | .clean => (wordData word, 0x0, s)
  | .corrected w =>
    (wordData w, 0x1, raise 0x3801 (lineItems line)
      (count32 (0x382001 + t) 1 (scheduleWriteBack line w s)))
  | .uncorrectable =>
    (wordData word, 0x6, raise 0x3802 (lineItems line)
      (count32 (0x383001 + t) 1 (scheduleWriteBack line (lineWord (wordData word) true) s)))
  | .poisoned => (wordData word, 0x6, count32 0x380003 1 s)

/-- The active marks the 4 KiB block of a line that is written, while a standby follows it (R448). -/
def markBlock (line : Nat) (s : State) : State :=
  if s.twin.state = 2 ∧ s.twin.paired then { s with twin.marks := addOnce (line / 64) s.twin.marks } else s

/-- A write of less than a whole line: a read-modify-write, which merges nothing into an uncorrectable or poisoned line
unless it `clears` it (R195, R203, R204). A write-back scheduled for the line is dropped when the write is accepted, and
one that its own read asks for when the merged line is stored (R202). Answers the completion code. [DEDUCED, safe:
log 168] -/
def mergeLine (line : Nat) (merge : Bytes → Bytes) (poisoned clears : Bool) (s : State) : Nat × State :=
  let (old, code, s) := readLine line (dropWriteBack line (markBlock line s))
  if code = 0x6 ∧ !clears then (code, s)
  else (if code = 0x6 then 0 else code, storeWord line (lineWord (merge old) poisoned) (dropWriteBack line s))

/-- A write of bytes of a line: a whole line stands as written; a part is merged into what the line reads (R202 to
R204). -/
def writeLine (line off : Nat) (data : Bytes) (poisoned : Bool) (s : State) : Nat × State :=
  if off = 0 ∧ data.length ≥ 64 then
    let s := activateRow line (flushBank (bankKey line) (dropWriteBack line (markBlock line s)))
    (0, storeWord line (lineWord data poisoned) s)
  else mergeLine line (fun old => overlay old off data) poisoned false s

/-- A FILL's zeros in a line: they clear its poison, whatever part of it they cover (R204). [DEDUCED, safe: log 163] -/
def fillLine (line off n : Nat) (s : State) : Nat × State :=
  if off = 0 ∧ n ≥ 64 then writeLine line 0 (zeros 64) false s
  else mergeLine line (fun old => overlay old off (zeros n)) false true s

/-- The word an 8-byte atomic stores (R368), by the kind of byte 0x06 of R173. -/
def atomicResult (kind old operand compare : Nat) : Nat :=
  match kind with
  | 0 => (old + operand) % 2 ^ 64
  | 1 => if signed 64 operand < signed 64 old then operand else old
  | 2 => if signed 64 old < signed 64 operand then operand else old
  | 3 => old &&& operand
  | 4 => old ||| operand
  | 5 => old ^^^ operand
  | 6 => operand
  | _ => if old = compare then operand else old

/-- An atomic on 8 bytes of a line: old value, completion code (R203). With POISON it is not applied, and the value is
returned to no one. -/
def atomicLine (line off : Nat) (f : Nat → Nat) (s : State) : Nat × Nat × State :=
  let (old, code, s) := readLine line (dropWriteBack line (markBlock line s))
  let v := fieldAt old off 8
  if code = 0x6 then (v, code, s)
  else (v, code, storeWord line (lineWord (overlay old off (leBytes 8 (f v))) false) (dropWriteBack line s))

/-- A stack's controllers accept requests: not drained, not under handover scrub (R208, R211). -/
def stackServes (s : State) (t : Nat) : Bool := towerUp s t && !(stack s t).drained && !scrubbing s t

/-- A controller answers. -/
def answerLine (address : Nat) (data : Bytes) (code : Nat) (s : State) : State :=
  { s with dram.answers := s.dram.answers ++ [{ address := address, data := data, code := code }] }

/-- The local physical address of a tower offset. -/
def localAddress (t off : Nat) : Nat := t * 2 ^ 36 + off

/-- DRAM_READ (R202). -/
def execDramRead (tower : Tower) (address : BitVec 36) (upsets : List (Fin 72 × Byte)) (s : State) :
    Host.Outcome State Fault Refusal :=
  let line := lineOfAddress tower address.toNat
  let a := localAddress tower (address.toNat / 64 * 64)
  .next (if !stackServes s tower then answerLine a [] 0x2 s
    else
      let (data, code, s) := readLine line (upsetWord line upsets (flushBank (bankKey line) s))
      answerLine a data code s)

/-- DRAM_WRITE_BACK (R202). -/
def execDramWriteBack (tower : Tower) (channel bank : Fin 32) (s : State) : Host.Outcome State Fault Refusal :=
  .next (flushBank (1024 * tower + 32 * channel + bank) s)

/-- DRAM_WRITE (R204): bytes within one line. -/
def execDramWrite (tower : Tower) (address : BitVec 36) (data : Bytes) (poisoned : Bool) (s : State) :
    Host.Outcome State Fault Refusal :=
  let off := address.toNat % 64
  let a := localAddress tower address.toNat
  .next (if !stackServes s tower then answerLine a [] 0x2 s
    else
      let (code, s) := writeLine (lineOfAddress tower address.toNat) off (data.take (64 - off)) poisoned s
      answerLine a [] code s)

/-- Quarters of a refresh interval of band 0 between two refreshes (R205). [DEDUCED, safe: log 169] -/
def refreshQuarters (band : Nat) : Nat := if band = 0 then 4 else if band = 1 then 2 else 1

/-- A refresh closes every bank of a pseudo-channel; when an interval of band 0 has passed, the counts of
activations start again (R205, R209). A stack in self-refresh is refreshed by itself. [DEDUCED, safe: log 169] -/
def refreshChannel (t c : Nat) (s : State) : State :=
  let key := 32 * t + c
  if !towerUp s t ∨ (stack s t).selfRefresh then s
  else
    let n := Tab.look 0 s.dram.refreshes key + refreshQuarters (stack s t).refreshBand
    let mine (b : Nat) : Bool := decide (b / 32 = key)
    let s := { s with
      dram.refreshes := Tab.put 0 key (n % 4) s.dram.refreshes
      dram.openRow := s.dram.openRow.filter (fun e => !mine e.1) }
    if n ≥ 4 then
      { s with dram.activations := s.dram.activations.filter (fun e => !mine (e.1 / 32768)) }
    else s

/-- REFRESH (R205). -/
def execRefresh (tower : Tower) (channel : Fin 32) (s : State) : Host.Outcome State Fault Refusal :=
  .next (refreshChannel tower channel s)

/-- The payload of an event about a stack's band (R214). -/
def bandItems (t : Nat) (band : Option Nat) : List (Option Bytes) := [b1 t, none, none, none, none, band.bind b1]

/-- DRAIN_COMPLETE (R208): requests in flight have completed, and the stack enters self-refresh. [DEDUCED, safe: log
103] -/
def drainComplete (t : Nat) (s : State) : State :=
  let k := stack s t
  if !k.drained ∨ k.selfRefresh then s
  else raise 0x3803 (bandItems t (some 3))
    (changeStack t (fun k => { k with selfRefresh := true, band := 3 })
      (((List.range 1024).map (1024 * t + ·)).foldl (fun s b => flushBank b s) s))

def execDrainComplete (tower : Tower) (s : State) : Host.Outcome State Fault Refusal :=
  .next (drainComplete tower s)

/-- Patrol runs: a period is set, and the stack is neither drained nor under scrub (R210, R211). -/
def patrolRuns (s : State) (t : Nat) : Bool := stackServes s t && decide (dictNat s 0x380004 ≠ 0)

/-- PATROL_READ (R210): the next line, and the end of a pass. -/
def patrolRead (t : Nat) (upsets : List (Fin 72 × Byte)) (s : State) : State :=
  if !patrolRuns s t then s
  else
    let n := (stack s t).patrolLine
    let line := t * 2 ^ 30 + n
    let (_, _, s) := readLine line (upsetWord line upsets (flushBank (bankKey line) s))
    let s := changeStack t (fun k => { k with patrolLine := (n + 1) % 2 ^ 30 }) s
    if n + 1 = 2 ^ 30 then raise 0x3806 (bandItems t none) (count32 0x380005 1 s) else s

def execPatrolRead (tower : Tower) (upsets : List (Fin 72 × Byte)) (s : State) : Host.Outcome State Fault Refusal :=
  .next (patrolRead tower upsets s)

/-- Lines of a tower's DRAM. -/
def towerLines : Nat := 2 ^ 30

/-- Base cycles in which the scrub engine writes some lines, at 200 GB/s (R211). [DEDUCED, safe: log 167] -/
def scrubTime (lines : Nat) : Nat := (lines * us + 3124) / 3125

/-- Zero data with clean check symbols in the first lines of a tower (R211). [DEDUCED, safe: log 167] -/
def zeroLines (t n : Nat) (s : State) : State :=
  let mine (line : Nat) : Bool := decide (lineTower line = t ∧ line % towerLines < n)
  { s with
    dram.symbols := s.dram.symbols.filter (fun c => !mine (c.1 / 72))
    dram.writeBacks := Tab.changeAll [] (s.dram.writeBacks.map (·.1)) (fun ws => ws.filter (fun w => !mine w.line)) s.dram.writeBacks }

/-- Start, or restart, a handover scrub (R211, R212). -/
def startScrub (t : Nat) (s : State) : State :=
  let mine (b : Nat) : Bool := decide (b / 1024 = t)
  changeStack t (fun k => { k with scrubLine := some 0, scrubSince := s.now })
    { s with dram.writeBacks := s.dram.writeBacks.filter (fun e => !mine e.1) }

/-- A scrub that meets band 3 pauses at its line (R212). [DEDUCED, safe: log 167] -/
def pauseScrub (t : Nat) (s : State) : State := match (stack s t).scrubLine with
  | none => s
  | some n =>
    let n := min towerLines (n + (s.now - (stack s t).scrubSince) * 3125 / us)
    changeStack t (fun k => { k with scrubLine := some n }) (zeroLines t n s)

/-- A scrub goes on from its line (R212). -/
def resumeScrub (t : Nat) (s : State) : State := changeStack t (fun k => { k with scrubSince := s.now }) s

/-- The scrub engine works: the stack is in service, and so is the tower's base die (R212). -/
def scrubRuns (s : State) (t : Nat) : Bool :=
  scrubbing s t && !(stack s t).drained && towerUp s t && !baseBusy s (baseOfTower t)

/-- The effect of 0x3800:06 (R211, R212). -/
def handoverScrubAct : WriteAct := fun value s =>
  let mask := leNat value
  if mask ≥ 4096 then refuseRange 0
  else
    let ts := maskMembers 12 mask
    if ts.any (fun t => (partitionOf s t).isSome) then refuseState
    else .done (ts.foldl (fun s t => startScrub t s) s)

/-- HANDOVER_SCRUB (R211). -/
def execHandoverScrub (req : Req) (value : Bytes) (s : State) : Host.Outcome State Fault Refusal :=
  .next (serveWrite req 0x380006 value handoverScrubAct s)

/-- A handover scrub ends (R211): the bit clears, event 0x3807, patrol from line 0. -/
def endScrub (t : Nat) (s : State) : State :=
  raise 0x3807 (bandItems t none)
    (changeStack t (fun k => { k with scrubLine := none, patrolLine := 0 }) (zeroLines t towerLines s))

end Sys2Proof.Machine
end

