-- ==== Sys2Proof/Machine/Translate.lean ====
section
/-! DEFINITION. Translation and the world check: translation entries, the walk, the checks of a leaf, the
caches, and the region tables (R164 to R170, R465, R466). -/

namespace Sys2Proof.Machine

/-! ### Local physical addresses (R164) -/

/-- The base of the scratchpad windows. -/
def spadBase : Nat := 0x100000000000

/-- The tower and tower offset of a DRAM address. -/
def dramPlace (a : Nat) : Option (Nat × Nat) := if a < 12 * 2 ^ 36 then some (a / 2 ^ 36, a % 2 ^ 36) else none

/-- The tower and 28-bit address of a scratchpad address that is populated. -/
def spadPlace (a : Nat) : Option (Nat × Nat) :=
  let d := a - spadBase
  if spadBase ≤ a ∧ d < 12 * 2 ^ 28 ∧ spadPopulated (d % 2 ^ 28) then some (d / 2 ^ 28, d % 2 ^ 28) else none

/-- The tower that holds a local address. -/
def placeTower (a : Nat) : Option Nat := ((dramPlace a).map (·.1)).or ((spadPlace a).map (·.1))

/-! ### Translation entries (R167) -/
def xValid (e : Nat) : Bool := nbit e 0
def xLeaf (e : Nat) : Bool := nbit e 1
def xRead (e : Nat) : Bool := nbit e 2
def xWrite (e : Nat) : Bool := nbit e 3
def xAtomic (e : Nat) : Bool := nbit e 4
def xCoherent (e : Nat) : Bool := nbit e 5
def xTarget (e : Nat) : Nat := nbits e 7 6
def xOutput (e : Nat) : Nat := nbits e 59 12 * 2 ^ 12

/-- The first address bit a level indexes (R166). -/
def levelShift (level : Nat) : Nat := 12 + 9 * level

/-- A leaf keeps its encoding at its level (R167). -/
def leafEncoded (e level : Nat) : Bool :=
  decide (level ≤ 2) && decide (nbits e 11 8 = 0) && decide (nbits e 63 60 = 0) &&
    (decide (2 ≤ xTarget e) || decide (nbits e 59 48 = 0)) && decide (xOutput e % 2 ^ levelShift level = 0)

/-- A non-leaf entry keeps its encoding at its level. -/
def tableEncoded (e level : Nat) : Bool :=
  decide (1 ≤ level) && decide (nbits e 11 2 = 0) && decide (nbits e 63 48 = 0)

/-- Causes of R185. -/
def cNotPresent : Nat := 1
def cWriteDenied : Nat := 2
def cAtomicDenied : Nat := 3
def cReadDenied : Nat := 4
def cOutOfRange : Nat := 5
def cMalformed : Nat := 6
def cWalkPoison : Nat := 7
def cRemote : Nat := 8
def cIncoming : Nat := 9

/-! ### The read-coherent directory (R178, R181) -/

/-- Record i of 0x3890:01. -/
def rcRecord (dir : Bytes) (i : Nat) : Nat := fieldAt dir (8 * i) 8

/-- The valid record whose region holds a local address. -/
def rcIndex (s : State) (a : Nat) : Option Nat :=
  let dir := dictBytes s 0x389001
  (List.range 512).find? (fun i => nbit (rcRecord dir i) 0 && decide (nbits (rcRecord dir i) 47 21 = a / 2 ^ 21))

/-- The address lies in a region marked shared. -/
def rcShared (s : State) (a : Nat) : Bool := match rcIndex s a with
  | none => false
  | some i => nbit (rcRecord (dictBytes s 0x389001) i) 1

/-! ### Region tables (R465, R466) -/

/-- A field of entry i of a region table. -/
def regionField (tab : Bytes) (i off len : Nat) : Nat := fieldAt tab (16 * i + off) len
def regionFlags (tab : Bytes) (i : Nat) : Nat := regionField tab i 0 1
def regionMask (tab : Bytes) (i : Nat) : Nat := regionField tab i 4 2
def regionBase (tab : Bytes) (i : Nat) : Nat := nbits (regionField tab i 8 4) 26 0 * 2 ^ 21
def regionSize (tab : Bytes) (i : Nat) : Nat := regionField tab i 12 4 * 2 ^ 21

/-- The entry's whole range lies on a tower. -/
def regionOnTower (tab : Bytes) (i t : Nat) : Bool :=
  let b := regionBase tab i
  let n := regionSize tab i
  (decide (t * 2 ^ 36 ≤ b) && decide (b + n ≤ (t + 1) * 2 ^ 36)) ||
    (decide (spadBase + t * 2 ^ 28 ≤ b) && decide (b + n ≤ spadBase + (t + 1) * 2 ^ 28))

/-- The valid entry of lowest index that covers an address. -/
def regionEntry (tab : Bytes) (t a : Nat) : Option Nat :=
  (List.range 256).find? (fun i => nbit (regionFlags tab i) 0 && regionOnTower tab i t &&
    decide (regionBase tab i ≤ a) && decide (a < regionBase tab i + regionSize tab i))

/-- Whether the table of tower `t` permits a request (R466). `part` is the partition it is issued by or bound
to; none for requests checked on the world bits alone. -/
def regionPermits (s : State) (t a : Nat) (secure write : Bool) (part : Option Nat) : Bool :=
  let tab := dictBytes s (0x601001 + t)
  match regionEntry tab t a with
  | none => secure
  | some i =>
    let f := regionFlags tab i
    let bit := match secure, write with
      | true, false => 2
      | true, true => 3
      | false, false => 4
      | false, true => 5
    nbit f bit && (match part with
      | none => true
      | some p => nbit (regionMask tab i) p)

/-- A request fails a world or region check (R466): counted, event 0x6001. -/
def worldDenied (tower partition function port address : Option Nat) (secure : Bool) (s : State) : State :=
  raise 0x6001 [tower.bind b1, partition.bind b1, function.bind b1, port.bind b1, address.bind b8, b1 (flag secure)]
    (count32 0x600009 1 s)

/-! ### Leaves and caches (R168, R169) -/

/-- What an access meets. -/
inductive Xlate where
  /-- Target and output address, and whether the page is read-coherent. -/
  | ok (target address : Nat) (coherent : Bool)
  | fault (cause level : Nat)
  /-- No translation cached: a walk is needed. -/
  | miss
  /-- A table read was refused by the world check. -/
  | denied
  /-- A table read waits for a drained stack, or for a base die. -/
  | wait (on : Wait)
  /-- A table entry stands on another tower: the unit sends a READ for it (R236). -/
  | far (address level : Nat)
  deriving DecidableEq, Repr

/-- How a walk reads the tables of other towers: at once, or by READs of the translation unit, one of which may have
been answered, with its level. -/
inductive Far where
  | direct
  | asks (answer : Option (Nat × Except Xlate Nat))

/-- The package ID, with its valid bit (R346). -/
def packageId (s : State) : Option Nat := if nbit (dictNat s 0x500001) 15 then some (nbits (dictNat s 0x500001) 11 0) else none

/-- Check an access against a leaf (R168, R185). -/
def checkLeaf (s : State) (p va : Nat) (kind : Kind) (e level : Nat) : Xlate :=
  let out := xOutput e + va % 2 ^ levelShift level
  let allowed := match kind with
    | .read => xRead e
    | .write => xWrite e
    | .atomic => xAtomic e
  let cause := match kind with
    | .read => cReadDenied
    | .write => cWriteDenied
    | .atomic => cAtomicDenied
  let own (t : Nat) : Bool := decide (partitionOf s t = some p) || (decide (kind = .read) && rcShared s out)
  if !allowed then .fault cause level
  else match xTarget e with
    | 0 => match dramPlace out with
      | none => .fault cOutOfRange level
      | some (t, _) => if own t then .ok 0 out (xCoherent e) else .fault cOutOfRange level
    | 1 => match spadPlace out with
      | none => .fault cOutOfRange level
      | some (t, _) => if own t then .ok 1 out false else .fault cOutOfRange level
    | 2 => .ok 2 out false
    | _ => if packageId s = some (out / 2 ^ 48) then .fault cOutOfRange level else .ok 3 out false

/-- The cached leaf of an address. -/
def cachedLeaf (s : State) (t p va : Nat) : Option Leaf :=
  (Tab.look [] s.dma.leaves t).find? (fun l => decide (l.partition = p ∧ l.page = va / 2 ^ levelShift l.level))

/-- Translate from the cache alone. -/
def translateCached (s : State) (t p va : Nat) (kind : Kind) : Xlate :=
  match cachedLeaf s t p va with
  | none => .miss
  | some l => checkLeaf s p va kind l.entry.toNat l.level

/-- Put an entry into a cache of `cap` entries; which entry leaves a full one the manual does not state. [DESIGN
CHOICE, safe: log 116] -/
def cachePut {α : Type} [DecidableEq α] (cap : Nat) (x : α) (xs : List α) (s : State) : List α × State :=
  if x ∈ xs then (xs, s)
  else if xs.length < cap then (xs ++ [x], s)
  else
    let (r, s) := draw s
    (xs.eraseIdx (r.toNat % cap) ++ [x], s)

/-- Keep a leaf. [DESIGN CHOICE, safe: log 116] -/
def keepLeaf (t : Nat) (l : Leaf) (s : State) : State :=
  let (ls, s) := cachePut 4096 l (Tab.look [] s.dma.leaves t) s
  { s with dma.leaves := Tab.put [] t ls s.dma.leaves }

/-- Keep a non-leaf entry. [DESIGN CHOICE, safe: log 116] -/
def keepWalk (t : Nat) (w : WalkLine) (s : State) : State :=
  let (ws, s) := cachePut 256 w (Tab.look [] s.dma.walkLines t) s
  { s with dma.walkLines := Tab.put [] t ws s.dma.walkLines }

/-- Drop a non-leaf entry (R189). -/
def dropWalk (t p level index : Nat) (s : State) : State :=
  { s with
    dma.walkLines := Tab.change [] t
      (fun ws => ws.filter (fun w => !decide (w.partition = p ∧ w.level = level ∧ w.index = index))) s.dma.walkLines }

/-! ### The walk (R166) -/

/-- The base dies that traffic between two towers passes through: their own (R338); none within a tower. [DESIGN
CHOICE, safe: log 29] -/
def pathBases (t u : Nat) : List Nat :=
  if t = u then [] else if baseOfTower t = baseOfTower u then [baseOfTower t] else [baseOfTower t, baseOfTower u]

/-- The base dies from one to another, both included: the columns a row of the mesh, or the chain of port switches,
passes. -/
def basesBetween (a b : Nat) : List Nat := (List.range 4).filter (fun c => decide (min a b ≤ c ∧ c ≤ max a b))

/-- The base dies a request between two towers passes through (R338): over the crossbar those of its ends; before
both receivers are optical it travels on the mesh (R241). -/
def lineBases (s : State) (t u : Nat) : List Nat :=
  if t ≠ u ∧ !((receiver s t).optical && (receiver s u).optical) then basesBetween (baseOfTower t) (baseOfTower u)
  else pathBases t u

/-- The base dies between a tower and the service node on B0 (R240). [DESIGN CHOICE, safe: log 29] -/
def hostBases (t : Nat) : List Nat := basesBetween 0 (baseOfTower t)

/-- A base die on a path that takes no new request. -/
def blockedBase (s : State) (t u : Nat) : Option Nat := (lineBases s t u).find? (baseBusy s)

/-- One table entry: read through the controllers, under the world check. -/
def readEntry (t p : Nat) (a : Nat) (s : State) : Except Xlate Nat × State :=
  let u := a / 2 ^ 36
  if (blockedBase s t u).isSome then (.error (.wait (.base ((blockedBase s t u).getD 0))), s)
  else if !regionPermits s u a (partitionSecure s p) false (some p) then
    (.error .denied, worldDenied (some u) (some p) none none (some a) (partitionSecure s p) s)
  else if !stackServes s u then (.error (.wait (.stack u)), s)
  else
    let (data, code, s) := readLine (a / 64) s
    if code = 0x6 then (.error (.fault cWalkPoison 0), s) else (.ok (fieldAt data (a % 64) 8), s)

/-- The entry of a level: of another tower's table, by a READ that the tower answers under its own world check.
[DEDUCED, safe: log 164] -/
def readTable (t p a level : Nat) (far : Far) (s : State) : Except Xlate Nat × State :=
  let u := a / 2 ^ 36
  match far with
  | .direct => readEntry t p a s
  | .asks answer =>
    if u = t then readEntry t p a s
    else match answer.bind (fun x => if x.1 = level then some x.2 else none) with
      | some r => (r, s)
      | none =>
        match blockedBase s t u with
        | some b => (.error (.wait (.base b)), s)
        | none => (.error (if stackServes s u then .far a level else .wait (.stack u)), s)

/-- A table read returns POISON: the walk cache drops the entry that named the table (R189). -/
def poisonedTable (t p va level : Nat) (s : State) : State :=
  dropWalk t p (level + 1) (va / 2 ^ levelShift (level + 1)) s

/-- The entry of level 0: only a leaf may stand there (R167). -/
def readLast (t p va table : Nat) (far : Far) (s : State) : Except Xlate (Nat × Nat) × State :=
  let (r, s) := readTable t p (table + 8 * (va / 2 ^ levelShift 0 % 512)) 0 far s
  match r with
  | .error (.fault c _) => (.error (.fault c 0), poisonedTable t p va 0 s)
  | .error x => (.error x, s)
  | .ok e =>
    if !xValid e then (.error (.fault cNotPresent 0), s)
    else if xLeaf e && leafEncoded e 0 then (.ok (e, 0), s)
    else (.error (.fault cMalformed 0), s)

/-- The walk from a table at a level: the leaf with its level, or what ended it. -/
def walkFrom (t p va : Nat) (far : Far) : Nat → Nat → State → Except Xlate (Nat × Nat) × State
  | 0, table, s => readLast t p va table far s
  | level + 1, table, s =>
    let index := va / 2 ^ levelShift (level + 1)
    match (Tab.look [] s.dma.walkLines t).find?
        (fun w => decide (w.partition = p ∧ w.level = level + 1 ∧ w.index = index)) with
    | some w => walkFrom t p va far level (xOutput w.entry.toNat) s
    | none =>
      let (r, s) := readTable t p (table + 8 * (index % 512)) (level + 1) far s
      match r with
      | .error (.fault c _) => (.error (.fault c (level + 1)), poisonedTable t p va (level + 1) s)
      | .error x => (.error x, s)
      | .ok e =>
        if !xValid e then (.error (.fault cNotPresent (level + 1)), s)
        else if xLeaf e then
          if leafEncoded e (level + 1) then (.ok (e, level + 1), s) else (.error (.fault cMalformed (level + 1)), s)
        else if !tableEncoded e (level + 1) then (.error (.fault cMalformed (level + 1)), s)
        else match dramPlace (xOutput e) with
          | some (u, _) =>
            if partitionOf s u = some p then
              walkFrom t p va far level (xOutput e)
                (keepWalk t { partition := p, level := level + 1, index := index, entry := BitVec.ofNat 64 e } s)
            else (.error (.fault cOutOfRange (level + 1)), s)
          | none => (.error (.fault cOutOfRange (level + 1)), s)

/-- A whole walk (R166), counted in 0x3880:14 when it begins; event 0x3885 when a table read returns poison. `engine` is
that of the descriptor that waits. -/
def walk (t p va : Nat) (engine : Option Nat) (far : Far) (s : State) : Except Xlate (Nat × Nat) × State :=
  let s := match far with
    | .asks (some _) => s
    | _ => count64 0x388014 1 s
  let root := dictNat s (0x388001 + p)
  let table := nbits root 47 12 * 2 ^ 12
  if !nbit root 0 then (.error (.fault cNotPresent 3), s)
  else match dramPlace table with
    | none => (.error (.fault cOutOfRange 3), s)
    | some (u, _) =>
      if partitionOf s u ≠ some p then (.error (.fault cOutOfRange 3), s)
      else
        let (r, s) := walkFrom t p va far 3 table s
        match r with
        | .error (.fault 7 l) => (.error (.fault 7 l), raise 0x3885 [b1 p, b1 t, none, engine.bind b1] s)
        | r => (r, s)

/-- Walk, keep the leaf, and check the access. -/
def walkAndCheck (t p va : Nat) (kind : Kind) (engine : Option Nat) (far : Far) (s : State) : Xlate × State :=
  let (r, s) := walk t p va engine far s
  match r with
  | .error x => (x, s)
  | .ok (e, level) =>
    let s := keepLeaf t { partition := p, level := level, page := va / 2 ^ levelShift level, entry := BitVec.ofNat 64 e } s
    (checkLeaf s p va kind e level, s)

/-- Translate at once: from the cache, else by a walk. For requests of the host link and of other packages. -/
def translateNow (t p va : Nat) (kind : Kind) (s : State) : Xlate × State :=
  match translateCached s t p va kind with
  | .miss => walkAndCheck t p va kind none .direct s
  | x => (x, s)

end Sys2Proof.Machine
end

