-- ==== Sys2Proof/Machine/FabricOps.lean ====
section
/-! DEFINITION. Fabric packets and how the port switches send them (R349 to R362, R369, R370, R383, R464). -/

namespace Sys2Proof.Machine

/-! ### The header (R355) -/

/-- The header's fields. -/
structure FabricHeader where
  kind : Nat
  channel : Nat := 0
  mark : Bool := false
  echo : Bool := false
  poison : Bool := false
  secure : Bool := false
  reissued : Bool := false
  confidential : Bool := false
  dest : Nat
  destTower : Nat := 0
  source : Nat
  sourceTower : Nat := 0
  engine : Nat := 0
  code : Nat := 0
  hops : Nat := 0
  tag : BitVec 16 := 0
  job : BitVec 16 := 0
  address : Nat := 0
  enables : Nat := 0
  atomic : Nat := 0
  sequence : BitVec 16 := 0
  age : Nat := 0
  reissues : Nat := 0
  credits : List Nat := [0, 0, 0, 0]
  deriving DecidableEq, Repr

/-- Read the fields of a header. -/
def readHeader (h : BitVec 256) : FabricHeader :=
  { kind := bits h 7 0
    channel := bits h 9 8
    mark := h.getLsbD 10
    echo := h.getLsbD 11
    poison := h.getLsbD 12
    secure := h.getLsbD 13
    reissued := h.getLsbD 14
    confidential := h.getLsbD 15
    dest := bits h 27 16
    destTower := bits h 31 28
    source := bits h 43 32
    sourceTower := bits h 47 44
    engine := bits h 51 48
    code := bits h 55 52
    hops := bits h 61 56
    tag := BitVec.ofNat 16 (bits h 79 64)
    job := BitVec.ofNat 16 (bits h 95 80)
    address := bits h 143 96
    enables := bits h 151 144
    atomic := bits h 155 152
    sequence := BitVec.ofNat 16 (bits h 175 160)
    age := bits h 185 176
    reissues := bits h 187 186
    credits := (List.range 4).map (fun c => bits h (199 + 8 * c) (192 + 8 * c)) }

/-- Write a header from its fields. -/
def writeHeader (f : FabricHeader) : BitVec 256 :=
  BitVec.ofNat 256 (f.kind + 2 ^ 8 * f.channel + 2 ^ 10 * flag f.mark + 2 ^ 11 * flag f.echo + 2 ^ 12 * flag f.poison +
    2 ^ 13 * flag f.secure + 2 ^ 14 * flag f.reissued + 2 ^ 15 * flag f.confidential + 2 ^ 16 * f.dest +
    2 ^ 28 * f.destTower + 2 ^ 32 * f.source + 2 ^ 44 * f.sourceTower + 2 ^ 48 * f.engine + 2 ^ 52 * f.code +
    2 ^ 56 * f.hops + 2 ^ 64 * f.tag.toNat + 2 ^ 80 * f.job.toNat + 2 ^ 96 * f.address + 2 ^ 144 * f.enables +
    2 ^ 152 * f.atomic + 2 ^ 160 * f.sequence.toNat + 2 ^ 176 * f.age + 2 ^ 186 * f.reissues +
    ((List.range 4).map (fun c => 2 ^ (192 + 8 * c) * (f.credits.getD c 0))).sum)

/-- Packet kinds. -/
def fkRead : Nat := 1
def fkWrite : Nat := 2
def fkAtomic : Nat := 3
def fkReadData : Nat := 4
def fkCompletion : Nat := 5
def fkAtomicData : Nat := 6
def fkManagement : Nat := 7
def fkCredit : Nat := 8

/-- A request kind. -/
def isRequest (kind : Nat) : Bool := decide (kind = 1 ∨ kind = 2 ∨ kind = 3)

/-- The channel of a kind (R355). -/
def channelOf (kind : Nat) : Nat :=
  if kind = 3 then 2 else if isRequest kind then 0 else if kind = 7 ∨ kind = 8 then 3 else 1

/-- The payload a kind carries (R356). -/
def payloadLength (f : FabricHeader) : Nat :=
  match f.kind with
  | 2 | 4 => 64
  | 3 => if f.atomic = 7 then 16 else 8
  | 6 => 8
  | 7 => f.enables
  | _ => 0

/-- A packet keeps R356: kind, channel, payload, alignment, and the zero fields of R355. -/
def packetWellFormed (p : FabricPacket) : Bool :=
  let f := readHeader p.header
  decide (1 ≤ f.kind ∧ f.kind ≤ 8) && decide (f.channel = channelOf f.kind) &&
    decide (p.data.length = payloadLength f) &&
    (!decide (f.kind = 1 ∨ f.kind = 2) || decide (f.address % 64 = 0)) &&
    (!decide (f.kind = 3) || (decide (f.address % 8 = 0) && decide (f.atomic ≤ 7))) &&
    (!decide (f.kind = 7) || decide (1 ≤ f.enables ∧ f.enables ≤ 64)) &&
    decide (bits p.header 63 62 = 0) && decide (bits p.header 159 156 = 0) && decide (bits p.header 191 188 = 0) &&
    decide (bits p.header 255 224 = 0) && (!isRequest f.kind || (decide (f.destTower = 0) && decide (f.code = 0)))

/-! ### Bindings (R353) -/
def bindingWord (s : State) (p : Nat) : Nat := dictNat s (0x504001 + p)
def bindingJob (w : Nat) : BitVec 16 := BitVec.ofNat 16 w
def bindingValid (w : Nat) : Bool := nbit w 16
def bindingSecure (w : Nat) : Bool := nbit w 17
def bindingConfidential (w : Nat) : Bool := nbit w 18
def bindingFrozen (w : Nat) : Bool := nbit w 19

/-- The partition a job is bound to. -/
def jobPartition (s : State) (job : BitVec 16) : Option Nat :=
  allTowers.find? (fun p => bindingValid (bindingWord s p) && decide (bindingJob (bindingWord s p) = job))

/-! ### Events (R386): job, source, target, port, sequence, code -/
def fabricItems (job : Option (BitVec 16)) (source target port sequence code : Option Nat) : List (Option Bytes) :=
  [job.bind (fun j => b2 j.toNat), source.bind b2, target.bind b2, port.bind b1, sequence.bind b2, code.bind b1]

/-- The items of an event about a packet. -/
def packetItems (p : FabricPacket) (port code : Option Nat) : List (Option Bytes) :=
  let f := readHeader p.header
  fabricItems (some f.job) (some f.source) (some f.dest) port
    (if f.kind = 3 ∨ f.kind = 6 then some f.sequence.toNat else none) code

/-! ### Routes (R349 to R351) -/
def routePrimary (s : State) (dest : Nat) : Nat := ((dictBytes s 0x500002).getD dest 0xFF).toNat % 16
def routeAlternate (s : State) (dest : Nat) : Nat := ((dictBytes s 0x500002).getD dest 0xFF).toNat / 16

/-- The port a destination is routed to now. -/
def routeNow (s : State) (dest : Nat) : Option Nat :=
  let a := routePrimary s dest
  let b := routeAlternate s dest
  if a < 8 ∧ portUp s a then some a else if b < 8 ∧ portUp s b then some b else none

/-- The trunk leads from where a packet arrived to a port. -/
def portJoined (s : State) (origin : Option Nat) (port : Nat) : Bool := match origin with
  | none => true
  | some b => trunkJoins s b (baseOfPort port)

/-- The port a packet that arrived on a base die's port switch goes out on (R350, R376). -/
def routeFrom (s : State) (origin : Option Nat) (dest : Nat) : Option Nat :=
  let a := routePrimary s dest
  let b := routeAlternate s dest
  if a < 8 ∧ portUp s a ∧ portJoined s origin a then some a
  else if b < 8 ∧ portUp s b ∧ portJoined s origin b then some b
  else none

/-- The base dies between a tower and the port its requests to a target leave by (R376). [DESIGN CHOICE, safe: log
29] -/
def rackBases (s : State) (t target : Nat) : List Nat := match routeNow s target with
  | none => [baseOfTower t]
  | some p => basesBetween (baseOfTower t) (baseOfPort p)

/-- Buffers of a channel (R358). -/
def channelBuffers (c : Nat) : Nat := if c = 2 then 512 else if c = 3 then 32 else 2048

/-- Microseconds, rounded up. -/
def usUp (n : Nat) : Nat := (n + us - 1) / us

/-- Give a packet the credits owed on its port; at most 255 a channel in one packet. -/
def takeCredits (port : Nat) (f : FabricHeader) (s : State) : FabricHeader × State :=
  let owed := (List.range 4).map (fun c => min 255 (Tab.look 0 s.fab.freed (4 * port + c)))
  let freed := (List.range 4).foldl (fun t c => Tab.change 0 (4 * port + c) (· - owed.getD c 0) t) s.fab.freed
  let left := (List.range 4).any (fun c => decide (Tab.look 0 freed (4 * port + c) ≠ 0))
  ({ f with credits := owed },
    { s with
      fab.freed := freed
      fab.owed := if left then s.fab.owed else Tab.put 0 port 0 s.fab.owed })

/-- The bytes of a packet on a link: header, then payload (R356). -/
def packetBytes (p : FabricPacket) : Bytes := leBytes 32 p.header.toNat ++ p.data

/-- A packet leaves on a port, at a moment, and enters the port's flits. -/
def launch (port time : Nat) (f : FabricHeader) (data : Bytes) (s : State) : State :=
  let (f, s) := takeCredits port f s
  let p : FabricPacket := { header := writeHeader f, data := data }
  queuePacket port (flitRoom s port) (packetBytes p)
    { s with fab.sent := s.fab.sent ++ [{ port := port, packet := p, time := time }] }

/-- Packets an output holds on a channel. -/
def queueDepth (s : State) (port channel : Nat) : Nat :=
  (s.fab.held.filter (fun h => decide (h.port = port) &&
    decide (channelOf (readHeader h.packet.header).kind = channel))).length

/-- Why a packet cannot be sent on. -/
inductive SendEnd where
  | sent
  /-- A request is answered with this code; any other packet is discarded. -/
  | refused (code : Nat)
  deriving DecidableEq, Repr

/-- Hold a packet in its switch. -/
def holdPacket (h : FabricHeld) (s : State) : State := { s with fab.held := s.fab.held ++ [h] }

/-- Send a packet on a port: marks, age and hops are written here. `start` is when the packet's residence began,
`time` when it may leave. -/
def sendOnPort (port start time : Nat) (origin : Option Nat) (p : FabricPacket) (s : State) : SendEnd × State :=
  let f := readHeader p.header
  let ch := channelOf f.kind
  if f.hops + 1 ≥ 32 then (.refused ccTargetDead, raise 0x5003 (packetItems p (some port) none) s)
  else if f.secure ∧ !portSecure s port then (.refused ccWorldDenied, s)
  else if f.confidential ∧ !portEncrypted s port then (.refused ccRefused, s)
  else
    let key := 4 * port + ch
    let blocked := decide (Tab.look 0 s.fab.used key ≥ channelBuffers ch) || (decide (ch ≠ 3) && portEncrypted s port && !portKeyed s port) ||
      s.fab.held.any (fun h => decide (h.port = port) && decide (h.until_ = none) &&
        decide (channelOf (readHeader h.packet.header).kind = ch))
    if blocked then (.sent, holdPacket { port := port, dest := f.dest, packet := p, arrived := start, origin := origin } s)
    else
      let mark := decide (ch ≤ 1) && decide (queueDepth s port ch > dictNat s 0x500005)
      let s := if mark then count64 0x50000E 1 s else s
      let age := if isRequest f.kind then min 0x3FF (f.age + usUp (time - start) + 1) else f.age
      let s := match origin with
        | none => s
        | some b => crossTrunk b (baseOfPort port) (packetBytes p) s
      (.sent, launch port time { f with hops := f.hops + 1, mark := f.mark || mark, age := age } p.data
        { s with fab.used := Tab.change 0 key (· + 1) s.fab.used })

/-- Route a packet and send it (R350, R351). While the package ID is not valid only MANAGEMENT and CREDIT
packets leave (R346), and those never take this way. -/
def routePacket (start time : Nat) (origin : Option Nat) (p : FabricPacket) (s : State) : SendEnd × State :=
  let f := readHeader p.header
  match routeFrom s origin f.dest with
  | none => (.refused ccTargetDead, raise 0x5002 (packetItems p none none) s)
  | some port =>
    if Tab.look 0 s.fab.settling f.dest > s.now then
      (.sent, holdPacket { port := port, dest := f.dest, until_ := some (Tab.look 0 s.fab.settling f.dest),
                           packet := p, arrived := start, origin := origin } s)
    else sendOnPort port start time origin p s

/-! ### Responses -/

/-- The response to a request (R355, R366): code, and data when there is any. [DEDUCED, safe: log 15] -/
def mkResponse (s : State) (req : FabricHeader) (code : Nat) (data : Bytes) (poison : Bool) (tower : Nat) : FabricPacket :=
  let kind := if data.length = 64 then fkReadData else if data.length = 8 then fkAtomicData else fkCompletion
  { header := writeHeader
      { kind := kind
        channel := 1
        echo := req.mark
        poison := poison
        secure := req.secure
        confidential := req.confidential
        dest := req.source
        destTower := req.sourceTower
        source := (packageId s).getD req.dest
        sourceTower := tower
        engine := req.engine
        code := code
        tag := req.tag
        job := req.job
        sequence := if req.kind = 3 then req.sequence else 0 }
    data := data }

/-- Answer a request of another package; a response that cannot be sent is discarded. [DEDUCED, safe: log 15] -/
def respond (req : FabricHeader) (code : Nat) (data : Bytes) (poison : Bool) (tower : Nat) (s : State) : State :=
  (routePacket s.now s.now none (mkResponse s req code data poison tower) s).2

/-! ### Rate limiters (R362) -/

/-- Q_max, in bytes per second. -/
def rateMax : Nat := 476300000000

/-- The limiter of a target; a new one starts at Q_max, and takes the place of the least recently used when
64 are held. -/
def limiterOf (t target : Nat) (s : State) : Limiter × State :=
  let ls := Tab.look [] s.fab.limiters t
  match ls.find? (fun l => decide (l.target = target)) with
  | some l => (l, s)
  | none =>
    let new : Limiter := { target := target, rate := rateMax, lastUse := s.now, window := s.now }
    let oldest := (leastOf (ls.map (·.lastUse))).getD 0
    let ls := if ls.length < 64 then ls
      else match ls.find? (fun l => decide (l.lastUse = oldest)) with
        | none => ls
        | some l => ls.erase l
    (new, { s with fab.limiters := Tab.put [] t (ls ++ [new]) s.fab.limiters })

/-- Change a limiter. -/
def changeLimiter (t target : Nat) (f : Limiter → Limiter) (s : State) : State :=
  { s with
    fab.limiters := Tab.change [] t (fun ls => changeFirst (fun l => decide (l.target = target)) f ls) s.fab.limiters }

/-- Charge a request of 96 bytes: the moment at which it may leave. -/
def chargeLimiter (t target : Nat) (s : State) : Nat × State :=
  let (l, s) := limiterOf t target s
  let at_ := max s.now l.free
  (at_, changeLimiter t target
    (fun l => { l with lastUse := s.now, free := at_ + (96 * sec + l.rate - 1) / max l.rate 1 }) s)

/-- An echo from a target (R361, R362). -/
def limiterEcho (t target : Nat) (s : State) : State :=
  changeLimiter t target (fun l =>
    let due := match l.lastCut with
      | none => true
      | some c => decide (c + 10 * us ≤ s.now)
    if due then { l with rate := max (l.rate / 2) (rateMax / 512), lastCut := some s.now, echoed := true }
    else { l with echoed := true }) s

end Sys2Proof.Machine
end

