-- ==== Sys2Proof/Machine/Notices.lean ====
section
/-! DEFINITION. Notices to subscribers (R530 to R532) and the fabric notice of R377. -/

namespace Sys2Proof.Machine

/-- The starting indices of the ranges of R8, in order. -/
def rangeStarts : List Nat :=
  [0x1000, 0x1100, 0x2000, 0x2400, 0x2800, 0x3000, 0x3400, 0x3800, 0x4000, 0x4400, 0x4800, 0x5000, 0x5800, 0x6000,
    0x6800, 0x7000, 0x7F00]

/-- The range that owns an event code (R9). -/
def rangeOf (code : Nat) : Nat := (rangeStarts.filter (· ≤ code)).length - 1

/-- Subscriber record i of 0x1100:08. -/
def subRecord (s : State) (i : Nat) : Bytes := slice (dictBytes s 0x110008) (32 * i) 32
def subFlags (s : State) (i : Nat) : Nat := fieldAt (subRecord s i) 0 1
def subValid (s : State) (i : Nat) : Bool := nbit (subFlags s i) 0
def subFabric (s : State) (i : Nat) : Bool := subValid s i && nbit (subFlags s i) 2
def subEvent (s : State) (i code : Nat) : Bool :=
  subValid s i && nbit (subFlags s i) 3 && nbit (fieldAt (subRecord s i) 20 4) (rangeOf code)

/-- The payload item of a subscriber (R559). -/
def subscriberItem (s : State) (i : Nat) : Option Bytes :=
  let r := subRecord s i
  if nbit (subFlags s i) 1 then some (zeros 8 ++ slice r 1 1 ++ leBytes 1 0xFF)
  else some (leBytes 8 ((slice r 12 8).foldl (fun v b => 256 * v + b.toNat) 0) ++ slice r 2 2)

/-- A subscriber's state. -/
def subscriber (s : State) (i : Nat) : Subscriber := Tab.look {} s.om.subscribers i

/-- Change a subscriber's state. -/
def changeSubscriber (i : Nat) (f : Subscriber → Subscriber) (s : State) : State :=
  { s with om.subscribers := Tab.change {} i f s.om.subscribers }

/-- A notice is dropped: counted, event 0x1102 at most once per second (R532). -/
def dropNotice (who : Option Bytes) (s : State) : State :=
  let s := { s with om.dropped := satAdd 32 s.om.dropped 1 }
  let due := match s.om.lastDropEvent with
    | none => true
    | some t => decide (t + sec ≤ s.now)
  if due then raise 0x1102 [who, none] { s with om.lastDropEvent := some s.now } else s

/-- A notice leaves; the management port sends none while its address is a duplicate (R524). [DEDUCED, safe: log 193] -/
def putNotice (i : Nat) (q : BitVec 16) (data : Bytes) (s : State) : State :=
  if s.om.addressDuplicate && !nbit (subFlags s i) 1 then s
  else { s with om.noticesSent := s.om.noticesSent ++ [{ subscriber := i, seq := q, data := data }] }

/-- A new notice leaves for a subscriber. -/
def emitNotice (i : Nat) (data : Bytes) (s : State) : State :=
  let q := (subscriber s i).next
  changeSubscriber i
    (fun u => { u with next := u.next + 1
                       unanswered := u.unanswered ++ [{ seq := q, data := data, sends := 1, last := s.now }] })
    (putNotice i q data s)

/-- A notice for one subscriber: at most 16 unanswered; 256 FABRIC notices held; notices wait during a live
activation (R532). -/
def sendNotice (i : Nat) (fabric : Bool) (data : Bytes) (s : State) : State :=
  let u := subscriber s i
  let waits := s.sec.activating.isSome
  if !waits ∧ u.unanswered.length < 16 then emitNotice i data s
  else if (fabric ∨ waits) ∧ u.held.length < 256 then changeSubscriber i (fun u => { u with held := u.held ++ [data] }) s
  else dropNotice (subscriberItem s i) s

/-- Held notices leave while fewer than 16 are unanswered. -/
def releaseHeld : Nat → Nat → State → State
  | 0, _, s => s
  | n + 1, i, s =>
    match (subscriber s i).held with
    | [] => s
    | d :: rest =>
      if (subscriber s i).unanswered.length < 16 ∧ s.sec.activating = none then
        releaseHeld n i (emitNotice i d (changeSubscriber i (fun u => { u with held := rest }) s))
      else s

/-- The fabric notice of R377, at most one per job, target and code in each 1 ms. -/
def fabricNotice (job : BitVec 16) (target code : Nat) (s : State) : State :=
  let recent := s.fab.notices.any (fun n => decide (n.job = job ∧ n.target = target ∧ n.code = code ∧ s.now < n.time + ms))
  if recent then s
  else
    let s := { s with
      fab.notices := s.fab.notices ++
        [{ job := job, target := target, code := code, stamp := packageStamp s, time := s.now }] }
    let data := leBytes 1 1 ++ zeros 1 ++ leBytes 2 job.toNat ++ leBytes 2 target ++ leBytes 1 code ++ zeros 1 ++
      leBytes 8 (packageStamp s).toNat ++ leBytes 2 ((packageId s).getD 0) ++ zeros 30
    let subs := (List.range 4).filter (subFabric s)
    if subs = [] then { s with om.dropped := satAdd 32 s.om.dropped 1 }
    else subs.foldl (fun s i => sendNotice i true data s) s

/-- The EVENT notice of a record (R531), to every subscriber whose mask holds the event's range. -/
def eventNotice (code : Nat) (record : Bytes) (s : State) : State :=
  let data := leBytes 1 2 ++ zeros 15 ++ padTo 32 record
  ((List.range 4).filter (fun i => subEvent s i code)).foldl (fun s i => sendNotice i false data s) s

/-- A local requester receives TARGET_DEAD or STALE_ATOMIC from the fabric (R377). -/
def fabricFailure (p : FabricPacket) (code : Nat) (s : State) : State :=
  let f := readHeader p.header
  if code = ccTargetDead then
    fabricNotice f.job f.dest code (raise 0x5005 (packetItems p none (some code)) (count32 0x50000D 1 s))
  else if code = ccStaleAtomic then fabricNotice f.job f.dest code (raise 0x5004 (packetItems p none (some code)) s)
  else s

end Sys2Proof.Machine
end

