-- ==== Sys2Proof/Machine/DmaOps.lean ====
section
/-! DEFINITION. What DMA engines do (R172 to R189): issue, chunks, both sides of a chunk, parking and
completion. An engine works its lines strictly in order, one at a time for each descriptor. -/

namespace Sys2Proof.Machine

/-! ### Tags (R569) -/

/-- The first tag at or after `next` that is not blocked. [DESIGN CHOICE, safe: log 117] -/
def freeTag (blocked : BitVec 16 → Bool) : Nat → BitVec 16 → BitVec 16
  | 0, next => next
  | n + 1, next => if blocked next then freeTag blocked n (next + 1) else next

/-- Take a tag of counter `key`: 16 × tower + engine for fabric tags, 192 + tower for open-packet tags. [DESIGN
CHOICE, safe: log 117] -/
def takeTag (key : Nat) (outstanding : BitVec 16 → Bool) (s : State) : BitVec 16 × State :=
  let skip (t : BitVec 16) : Bool := outstanding t || decide (Tab.look 0 s.dma.skipped (65536 * key + t.toNat) > s.now)
  let t := freeTag skip 65536 (Tab.look 0 s.dma.tags key)
  (t, { s with dma.tags := Tab.put 0 key (t + 1) s.dma.tags })

/-- Skip a tag for 2 ms: its request completed without its response. [DESIGN CHOICE, safe: log 117] -/
def skipTag (key : Nat) (t : BitVec 16) (s : State) : State :=
  { s with dma.skipped := Tab.put 0 (65536 * key + t.toNat) (s.now + 2 * ms) s.dma.skipped }

/-! ### Open packets -/

/-- Send an open packet: before both towers' first optical boundary, over the mesh (R241). -/
def sendOpen (src dst : Nat) (p : OpenPacket) (class_ : Nat) (s : State) : State :=
  if (receiver s src).optical ∧ (receiver s dst).optical then
    { s with pho.held := Tab.change [] (12 * src + dst) (fun q => q ++ [{ packet := p, class_ := class_, since := s.now }]) s.pho.held }
  else sendMesh src dst (.packet p) s

/-! ### Descriptors -/

/-- An engine's queue. -/
def engineQueue (s : State) (k : Nat) : List Desc := Tab.look [] s.dma.queues k

/-- Replace descriptor `i` of a queue. -/
def putDesc (k i : Nat) (d : Desc) (s : State) : State :=
  { s with dma.queues := Tab.change [] k (fun q => listPut q i d) s.dma.queues }

/-- Change descriptor `i` of a queue. -/
def changeDesc (k i : Nat) (f : Desc → Desc) (s : State) : State :=
  match (engineQueue s k)[i]? with
  | none => s
  | some d => putDesc k i (f d) s

/-- A scratchpad address of R71 that is populated. -/
def spadFieldOk (a : Nat) : Bool := decide (a < 2 ^ 28) && spadPopulated a

/-- A field outside its encoding, or an unknown opcode (R173, R174, R196). The status, the cursor and the fault address
are the device's. The word an atomic acts on is aligned. [DEDUCED, safe: log 161] -/
def descRefused (w : BitVec 512) : Bool :=
  let op := dOp w
  let rb := dRowBytes w
  !decide (1 ≤ op ∧ op ≤ 6) || decide (bits w 15 12 ≠ 0) || decide (bits w 63 56 ≠ 0) || decide (dCluster w > 11) ||
    decide (rb % 8 ≠ 0) || !decide (8 ≤ rb ∧ rb ≤ 2 ^ 24) || !decide (1 ≤ dRows w ∧ dRows w ≤ 2 ^ 24) ||
    decide (bits w 447 416 ≠ 0) ||
    (dSrcSpad w && decide (op ≠ 2) && !spadFieldOk (dSource w)) || (dDstSpad w && !spadFieldOk (dDest w)) ||
    (!dSrcSpad w && decide (op ≠ 2 ∧ op ≠ 6) && decide (dSource w ≥ 2 ^ 48)) || (!dDstSpad w && decide (dDest w ≥ 2 ^ 48)) ||
    (decide (op = 6) && (decide (dRows w ≠ 1) || decide (rb ≠ 8) || decide (dKind w > 7) || !spadFieldOk (dAux w) ||
      decide (dDest w % 8 ≠ 0) || decide (dAux w % 8 ≠ 0) || !spadFieldOk (dSource w))) ||
    (decide (op ≠ 6) && decide (dKind w ≠ 0)) || (decide (op = 1 ∨ op = 2 ∨ op = 5) && decide (dAux w ≠ 0)) ||
    (decide (op = 3 ∨ op = 4) && !spadFieldOk (dAux w)) ||
    (decide (op = 5) && (decide (rb ≠ 2048) || decide (dSrcPitch w % 2048 ≠ 0) || decide (dDstPitch w % 2048 ≠ 0) ||
      !dDstSpad w || decide (dDest w % 2048 ≠ 0) || dSrcSpad w))

/-- A descriptor reaches its end: done, with a code (R173). -/
def finishDesc (k i code : Nat) (s : State) : State :=
  changeDesc k i (fun d => { d with state := .done, code := code, wait := .none, chunk := none, record := none }) s

/-- The worse of two codes that let a descriptor go on: OK, OK_CORRECTED, POISON. -/
def worseCode (a b : Nat) : Nat := max a b

/-- A read's or write's code joins the descriptor. -/
def noteCode (code : Nat) (d : Desc) : Desc :=
  { d with code := worseCode d.code code, poison := d.poison || decide (code = ccPoison) }

/-- Bytes have been written and acknowledged: the cursor moves (R175). -/
def advanceCursor (k i n : Nat) (s : State) : State :=
  match (engineQueue s k)[i]? with
  | none => s
  | some d =>
    let b := d.cursorBytes + n
    let d := { d with chunk := none, wait := .none, len := 0, retries := 0 }
    if b < dRowBytes d.raw then putDesc k i { d with cursorBytes := b } s
    else if d.cursorRows + 1 < dRows d.raw then putDesc k i { d with cursorRows := d.cursorRows + 1, cursorBytes := 0 } s
    else putDesc k i { d with cursorRows := d.cursorRows + 1, cursorBytes := 0, state := .done } s

/-! ### Fault records (R182 to R189) -/

/-- The access bits of a kind. -/
def kindBits : Kind → Nat
  | .read => 1
  | .write => 2
  | .atomic => 4

/-- The 32 bytes of a fault record (R183). -/
def faultBytes (r : FaultRecord) (expects during lost : Bool) : Bytes :=
  leBytes 8 r.stamp.toNat ++ leBytes 8 r.address ++ leBytes 2 r.tag.toNat ++ leBytes 1 r.cause ++
    leBytes 1 (flag (decide (r.cause = cIncoming)) + 16 * flag expects + 32 * flag during + 64 * flag lost) ++
    leBytes 1 (16 * r.tower + r.cluster) ++ leBytes 1 (r.engine + 16 * r.opcode) ++
    leBytes 1 (kindBits r.kind + 16 * r.level) ++ leBytes 1 (min 255 r.attached) ++ leBytes 4 r.run.toNat ++
    leBytes 2 r.task ++ leBytes 2 r.remote

/-- The fault ring is full: 1,024 records not yet consumed (R188). -/
def faultRingFull (s : State) (p : Nat) : Bool :=
  decide (((queueSet s p).fqTail - (queueSet s p).fqHead).toNat ≥ 1024)

/-- Write a record to the ring, the shadow and the vector (R183, R501); event 0x3881. -/
def writeFaultRecord (r : FaultRecord) (expects during : Bool) (s : State) : State :=
  let p := r.partition
  let q := queueSet s p
  let s := postWrite { function := partitionFunction s p, kind := .faultRecord,
                       address := q.fqBase + 32 * (q.fqTail.toNat % 1024),
                       data := faultBytes r expects during (Tab.look false s.dma.lostFlag p) } s
  let s := { s with dma.lostFlag := Tab.put false p false s.dma.lostFlag }
  let s := writeShadow p (changeQueue p (fun q => { q with fqTail := q.fqTail + 1 }) s)
  signalFault p (raise 0x3881 [b1 p, b1 r.tower, b2 r.tag.toNat, if r.cause = cIncoming then none else b1 r.engine] s)

/-- A fault is lost to a full queue (R188); a record held during a save has its tag. -/
def loseFault (p t : Nat) (tag : Option (BitVec 16)) (e : Option Nat) (s : State) : State :=
  raise 0x3882 [b1 p, b1 t, tag.bind (fun x => b2 x.toNat), e.bind b1]
    (count32 0x388012 1 { s with dma.lostFlag := Tab.put false p true s.dma.lostFlag })

/-- A tag for a new record: those of records that await a response are skipped (R183). -/
def recordTag (p : Nat) (s : State) : BitVec 16 × State :=
  let busy (t : BitVec 16) : Bool := s.dma.records.any (fun r => decide (r.partition = p ∧ r.tag = t))
  let t := freeTag busy 65536 (Tab.look 0 s.dma.nextTag p)
  (t, { s with dma.nextTag := Tab.put 0 p (t + 1) s.dma.nextTag })

/-- A translation fault on a descriptor (R182, R184, R188). While its run is SAVING the record is held; a line that
faults when the run has left its towers is recorded at once, as raised during the pre-emption (R189). -/
def parkDesc (k i va cause level : Nat) (kind : Kind) (remote : Nat) (s : State) : State :=
  match (engineQueue s k)[i]? with
  | none => s
  | some d =>
    let t := k / 16
    let e := k % 16
    let p := d.partition
    let same (r : FaultRecord) : Bool := decide (r.partition = p ∧ r.run = d.run ∧ r.address / 4096 = va / 4096 ∧
      r.kind = kind ∧ r.cause = cause ∧ r.stored = none) && !r.lost
    let park (tag : BitVec 16) (s : State) : State :=
      putDesc k i { d with state := .parked, faultAddress := va, wait := .none, chunk := none, record := some tag } s
    let state := (findRun s p d.run).map (·.state)
    let during := decide (state ≠ some .running)
    let make (tag : BitVec 16) : FaultRecord :=
      { partition := p, tag := tag, address := va, cause := cause, kind := kind, level := level, tower := t,
        cluster := dCluster d.raw, engine := e, opcode := dOp d.raw, run := d.run, task := dTask d.raw,
        remote := remote, stamp := towerStamp s t, attached := 1 }
    if dNoPark d.raw then
      let s := finishDesc k i ccXlateFault (putDesc k i { d with faultAddress := va } s)
      if faultRingFull s p then loseFault p t none (some e) s
      else
        let (tag, s) := recordTag p s
        writeFaultRecord { make tag with attached := 0 } false during s
    else match s.dma.records.find? same with
      | some r =>
        park r.tag { s with
          dma.records := changeFirst same (fun r => { r with attached := r.attached + 1 }) s.dma.records }
      | none =>
        if state = some .saving then
          let (tag, s) := recordTag p s
          park tag { s with dma.records := s.dma.records ++ [{ make tag with held := true }] }
        else if faultRingFull s p then
          finishDesc k i ccXlateFault (putDesc k i { d with faultAddress := va } (loseFault p t none (some e) s))
        else
          let (tag, s) := recordTag p s
          park tag (writeFaultRecord (make tag) true during { s with dma.records := s.dma.records ++ [make tag] })

/-! ### Chunks (R174, R175) -/

/-- An index of a descriptor's list. -/
def indexAt (s : State) (t : Nat) (w : BitVec 512) (r : Nat) : Nat :=
  leNat (spadBytes s (t * 2 ^ 28 + dAux w + 4 * r) 4)

/-- The next piece of a descriptor: length, source and destination. -/
structure Piece where
  len : Nat
  src : Option Nat
  dst : Option Nat
  deriving DecidableEq, Repr

/-- The piece at the cursor: what is left of the row within one destination line (R175); a whole row of ROW_MOVE. -/
def pieceOf (s : State) (t : Nat) (d : Desc) : Piece :=
  let w := d.raw
  let r := d.cursorRows
  let b := d.cursorBytes
  let rest := dRowBytes w - b
  let src0 := dSource w + r * dSrcPitch w + b
  let dst0 := dDest w + r * dDstPitch w + b
  let idx := indexAt s t w r
  let none_ := decide (idx = 0xFFFFFFFF)
  let cut (src dst : Option Nat) : Piece :=
    { len := (dst.map (fun a => min rest (64 - a % 64))).getD rest, src := src, dst := dst }
  match dOp w with
  | 1 => cut (some src0) (some dst0)
  | 2 => cut none (some dst0)
  | 3 => cut (if none_ then none else some (dSource w + idx * dSrcPitch w + b)) (some dst0)
  | 4 => if none_ then { len := rest, src := none, dst := none }
    else cut (some src0) (some (dDest w + idx * dDstPitch w + b))
  | 5 => { len := 2048, src := some src0, dst := some dst0 }
  | _ => { len := 8, src := some (dSource w), dst := some (dDest w) }

/-- What one side of a piece meets. -/
inductive Side where
  | at_ (target address : Nat) (coherent : Bool)
  | stop (code : Nat)
  | fault (cause level : Nat)
  | walk
  deriving DecidableEq, Repr

/-- The leaf a descriptor has for an address: its page's, or one from the cache (R172). -/
def descLeaf (s : State) (t : Nat) (d : Desc) (va : Nat) : Option Leaf :=
  (d.pages.find? (fun l => decide (l.page = va / 2 ^ levelShift l.level))).or (cachedLeaf s t d.partition va)

/-- Resolve one side: a scratchpad address of the issuing die, or a device virtual address (R165). -/
def resolveSide (s : State) (t : Nat) (d : Desc) (spad : Bool) (a : Nat) (kind : Kind) : Side :=
  if spad then
    if spadFieldOk a then .at_ 1 (spadBase + t * 2 ^ 28 + a) false else .stop ccRefused
  else match descLeaf s t d (a % 2 ^ 48) with
    | none => .walk
    | some l => match checkLeaf s d.partition (a % 2 ^ 48) kind l.entry.toNat l.level with
      | .ok target out coherent => .at_ target out coherent
      | .fault c l => .fault c l
      | _ => .walk

/-- A descriptor keeps the page of an address it uses. -/
def keepPage (k i va : Nat) (s : State) : State :=
  changeDesc k i (fun d => match descLeaf s (k / 16) d (va % 2 ^ 48) with
    | none => d
    | some l => { d with pages := addOnce l d.pages }) s

/-- Set what a descriptor waits for. -/
def waitFor (k i : Nat) (w : Wait) (s : State) : State := changeDesc k i (fun d => { d with wait := w }) s

/-- RETRY: issued again after 1 µs, doubling with each consecutive RETRY up to 16 µs (R158). -/
def retryLater (k i : Nat) (s : State) : State :=
  changeDesc k i (fun d =>
    let delay := us * 2 ^ min d.retries 4
    { d with wait := .backoff (s.now + delay) delay, retries := d.retries + 1 }) s

/-- A base die on the way stops a line (R339, R594): it waits, or ends where the die is held in reset. -/
def waitForBase (k i b : Nat) (s : State) : State :=
  if (baseState s b).held then finishDesc k i ccTargetDead s else waitFor k i (.base b) s

/-- The cluster of a scratchpad's local address has not been cleared (R83). -/
def unclearedAt (s : State) (a : Nat) : Bool :=
  decide (spadBase ≤ a) && !Tab.look false s.spad.ready (clusterKey ((a - spadBase) / 2 ^ 28) ((a - spadBase) / 2 ^ 24 % 16))

/-- The local tower that holds an address stops a line: out of service, behind a base die, a stack that takes no
request, or a cluster that has not been cleared. `none` when the line may go. -/
def lineStop (k i t u : Nat) (target a : Nat) (s : State) : Option State :=
  if !towerUp s u then some (finishDesc k i ccTargetDead s)
  else match blockedBase s t u with
    | some b => some (waitForBase k i b s)
    | none =>
      if u ≠ t ∧ !((receiver s t).optical && (receiver s u).optical) ∧ !meshReach s t u then some (retryLater k i s)
      else if target = 0 ∧ !stackServes s u then
        some (if (stack s u).drained then waitFor k i (.stack u) s else retryLater k i s)
      else if target = 1 ∧ unclearedAt s a then
        some (waitFor k i (.clearing (clusterKey u ((a - spadBase) / 2 ^ 24 % 16))) s)
      else none

/-- The world check of a descriptor's line (R466). -/
def descPermitted (s : State) (d : Desc) (u a : Nat) (write : Bool) : Bool :=
  regionPermits s u a (partitionSecure s d.partition) write (some d.partition)

/-- A descriptor's line is refused by the world check. -/
def descDenied (k i : Nat) (d : Desc) (u a : Nat) (s : State) : State :=
  finishDesc k i ccWorldDenied (worldDenied (some u) (some d.partition) none none (some a) (partitionSecure s d.partition) s)

/-- Bytes read from local DRAM, over as many lines as they touch: bytes and code. -/
def readDram (a len : Nat) (s : State) : Bytes × Nat × State :=
  let lines := (List.range ((a % 64 + len + 63) / 64)).map (a / 64 + ·)
  let (bs, code, s) := lines.foldl (fun (acc : Bytes × Nat × State) n =>
    let (bs, c, s) := readLine n acc.2.2
    (acc.1 ++ bs, worseCode acc.2.1 c, s)) ([], 0, s)
  (slice bs (a % 64) len, code, s)

/-- Read bytes of a local target on the own die. -/
def readLocal (target a len : Nat) (s : State) : Bytes × Nat × State :=
  if target = 0 then readDram a len s
  else
    let key := a - spadBase
    (spadBytes s key len, if spadPoisoned s key len then ccPoison else ccOk, s)

/-- A line in a tower's read cache (R178). -/
def cachedLine (s : State) (t line : Nat) : Option CacheLine :=
  (Tab.look [] s.dma.cache t).find? (fun c => decide (c.line = line))

/-- A tower marked lost flushes its read cache before it serves its next read-coherent read (R179). -/
def flushIfLost (t : Nat) (s : State) : State :=
  if Tab.look false s.dma.flush t then
    { s with dma.cache := Tab.put [] t [] s.dma.cache, dma.flush := Tab.put false t false s.dma.flush }
  else s

/-- Word enables of bytes within a line. -/
def enablesOf (off len : Nat) : Nat := maskOf 8 (fun w => decide (off < 8 * w + 8) && decide (8 * w < off + len))

/-- Send an open request of a tower for a descriptor: its tag. The requester is the engine, or 0xF for the translation
unit (R236). -/
def openSend (t requester : Nat) (d : Desc) (u kind lines a enables atomic : Nat) (poison : Bool) (data : Bytes)
    (s : State) : BitVec 16 × State :=
  let out (tag : BitVec 16) : Bool := s.pho.outstanding.any (fun o => decide (o.1 = t ∧ o.2.1 = tag))
  let (tag, s) := takeTag (192 + t) out s
  let h := mkOpen kind 0 poison lines tag t requester d.partition (partitionSecure s d.partition) a enables atomic
  (tag, sendOpen t u { header := h, data := data } 1
    { s with pho.outstanding := s.pho.outstanding ++ [(t, tag, requester)] })

/-- Send an open request and wait for its answer. -/
def openRequest (k i : Nat) (d : Desc) (u kind lines a enables atomic : Nat) (poison : Bool) (data : Bytes) (s : State) :
    State :=
  let (tag, s) := openSend (k / 16) (k % 16) d u kind lines a enables atomic poison data s
  waitFor k i (.openTag tag) s

/-- The READ of a table entry on another tower (R166, R236). -/
def tableRequest (k i : Nat) (d : Desc) (va : Nat) (kind : Kind) (a level : Nat) (s : State) : State :=
  let (tag, s) := openSend (k / 16) 0xF d (a / 2 ^ 36) 2 1 (a / 64 * 64) 0 0 false [] s
  waitFor k i (.table tag va kind level) (changeDesc k i (fun d => { d with place := a, len := 8, reading := true }) s)

/-- The response timer T_r (R373). -/
def responseTime (s : State) : Nat := dictNat s 0x500006 * us

/-- Take the next atomic sequence toward a target, unless its last use is within 512 µs (R369). -/
def takeSequence (target : Nat) (s : State) : Option (BitVec 16 × State) :=
  let q := Tab.look 0 s.fab.sequences target
  let key := 65536 * target + q.toNat
  let last := Tab.look 0 s.fab.firstSends key
  if last ≠ 0 ∧ s.now < last - 1 + 512 * us then none
  else some (q, { s with
    fab.sequences := Tab.put 0 target (q + 1) s.fab.sequences
    fab.firstSends := Tab.put 0 key (s.now + 1) s.fab.firstSends })

/-- The faulted atomic of a descriptor, while it stays outstanding (R596). -/
def heldAtomic (d : Desc) (s : State) : Option FabricReq := match d.heldTag with
  | none => none
  | some tag => s.fab.outstanding.find? (fun o => decide (o.phase = .faulted ∧ o.tag = tag ∧ o.engine = dEngine d.raw) &&
      decide (o.firstSend + 240 * us > s.now))

/-- Issue it again with the same tag and sequence; its age runs on from the first send (R596). -/
def reissueHeld (k i : Nat) (r : FabricReq) (s : State) : State :=
  let (at_, s) := chargeLimiter r.tower r.target s
  let (e, s) := routePacket r.firstSend at_ none r.packet s
  let same (o : FabricReq) : Bool := decide (o.tower = r.tower ∧ o.engine = r.engine ∧ o.tag = r.tag)
  match e with
  | .refused c => finishDesc k i c (fabricFailure r.packet c s)
  | .sent =>
    waitFor k i (.fabric r.tag) { s with
      fab.outstanding := changeFirst same (fun o => { o with phase := .sent, deadline := at_ + responseTime s }) s.fab.outstanding }

/-- Send a fabric request of an engine and wait for its answer (R346, R353, R373, R378); in Foal mode it is refused
(R542). [DEDUCED, safe: log 190] -/
def fabricRequest (k i : Nat) (d : Desc) (kind a enables atomic : Nat) (poison : Bool) (data : Bytes) (s : State) : State :=
  let t := k / 16
  let w := bindingWord s d.partition
  let target := a / 2 ^ 48
  match packageId s with
  | none => finishDesc k i ccRefused s
  | some id =>
    if s.start.foal ∨ !bindingValid w then finishDesc k i ccRefused s
    else if bindingFrozen w then finishDesc k i ccTargetDead s
    else match (rackBases s t target).find? (baseBusy s) with
    | some b => waitForBase k i b s
    | none => match heldAtomic d s with
    | some r => reissueHeld k i r s
    | none =>
      let seq := if kind = fkAtomic then takeSequence target s else some (0, s)
      match seq with
      | none => waitFor k i (.sequence target) s
      | some (seq, s) =>
        let out (tag : BitVec 16) : Bool :=
          s.fab.outstanding.any (fun o => decide (o.tower = t ∧ o.engine = k % 16 ∧ o.tag = tag))
        let (tag, s) := takeTag k out s
        let (at_, s) := chargeLimiter t target s
        let f : FabricHeader :=
          { kind := kind, channel := channelOf kind, poison := poison, secure := bindingSecure w,
            confidential := bindingConfidential w, dest := target, source := id, sourceTower := t, engine := k % 16,
            tag := tag, job := bindingJob w, address := a % 2 ^ 48, enables := enables, atomic := atomic,
            sequence := seq }
        let p : FabricPacket := { header := writeHeader f, data := data }
        let (e, s) := routePacket s.now at_ none p s
        match e with
        | .refused c => finishDesc k i c (fabricFailure p c s)
        | .sent =>
          waitFor k i (.fabric tag)
            { s with fab.outstanding := s.fab.outstanding ++
                [{ tower := t, engine := k % 16, tag := tag, packet := p, target := target, job := bindingJob w,
                   firstSend := s.now, deadline := at_ + responseTime s }] }

/-- A new host request (R494). -/
def hostRequest (d : Desc) (a len : Nat) (for_ : ReadFor) (s : State) : Nat × State :=
  let tag := hostTag s
  (tag, { s with
    host.nextTag := tag + 1
    host.reads := s.host.reads ++
      [{ tag := tag, function := partitionFunction s d.partition, address := a, length := len, for_ := for_ }] })

/-- The bytes of a piece read so far, and their poison. -/
def gotSoFar (d : Desc) : Bytes × Bool := d.chunk.getD ([], false)

/-- More bytes of a piece have been read. -/
def gotData (k i : Nat) (data : Bytes) (code : Nat) (s : State) : State :=
  changeDesc k i (fun d => noteCode code { d with
    chunk := some ((gotSoFar d).1 ++ data, (gotSoFar d).2 || decide (code = ccPoison)), wait := .none }) s

/-- The read of bytes of a piece from its source, within a page. -/
def readSide (k i : Nat) (d : Desc) (target a len : Nat) (coherent : Bool) (s : State) : State :=
  let t := k / 16
  let oneLine := min len (64 - a % 64)
  let flight (n : Nat) (s : State) : State := changeDesc k i (fun d => { d with len := n, place := a }) s
  match target with
  | 2 =>
    if (ownerOf s d.partition).isNone || tdiError s d.partition then finishDesc k i ccRefused s
    else match (hostBases t).find? (baseBusy s) with
    | some b => waitForBase k i b s
    | none =>
      let (tag, s) := hostRequest d a len (.descriptor t (k % 16) i) s
      waitFor k i (.host tag) (flight len s)
  | 3 => fabricRequest k i d fkRead (a / 64 * 64) 0 0 false [] (flight oneLine s)
  | _ =>
    let u := (placeTower a).getD t
    match lineStop k i t u target a s with
    | some s => s
    | none =>
      if !descPermitted s d u a false then descDenied k i d u a s
      else if u = t then
        let (data, code, s) := readLocal target a len s
        gotData k i data code s
      else if coherent ∧ target = 0 ∧ (rcIndex s a).isSome then
        let s := flushIfLost t s
        match cachedLine s t (a / 64) with
        | some c => gotData k i (slice c.data (a % 64) oneLine) (if c.poisoned then ccPoison else ccOk) s
        | none =>
          let s := flight oneLine s
          match s.dma.fills.find? (fun f => decide (f.tower = t ∧ f.line = a / 64) && !f.stale) with
          | some f => waitFor k i (.fill f.tag) s
          | none =>
            let (tag, s) := openSend t (k % 16) d u 2 1 (a / 64 * 64) 0 0 false [] s
            waitFor k i (.fill tag)
              { s with dma.fills := s.dma.fills ++ [{ tower := t, line := a / 64, tag := tag }] }
      else openRequest k i d u 2 ((a % 64 + len + 63) / 64) (a / 64 * 64) 0 0 false [] (flight len s)

/-- Sharers of the region that holds a line (R179). -/
def sharersOf (s : State) (a : Nat) : List Nat := match rcIndex s a with
  | none => []
  | some i => maskMembers 12 (Tab.look 0 s.dma.sharers i)

/-- Invalidations go out for a write to a block (R179): counted, one mesh message to each sharer. The write's number is
that of `dma.nextWrite`. -/
def sendInvalidations (a : Nat) (owedOpen : List (Nat × OpenPacket)) (owedFabric : List (BitVec 256 × Nat × Bytes)) (s : State) : State :=
  let home := a / 2 ^ 36
  let block := a / 4096
  let ts := sharersOf s a
  let s := { count64 0x389002 ts.length s with
    dma.nextWrite := s.dma.nextWrite + 1
    dma.invals := s.dma.invals ++
      [{ write := s.dma.nextWrite, home := home, block := block, waiting := ts, sent := s.now, owedOpen := owedOpen,
         owedFabric := owedFabric }] }
  ts.foldl (fun s u => sendMesh home u (.invalidate home block) s) s

/-- A descriptor waits for the invalidations of the write it makes. -/
def waitInvalidations (k i a : Nat) (s : State) : State :=
  waitFor k i (.invalidation s.dma.nextWrite) (sendInvalidations a [] [] s)

/-- The bytes of a piece within its line. A packet carries whole words of 8 bytes (R236): the other bytes of a word that
the piece covers in part are not stated. [DESIGN CHOICE, safe: log 162] -/
def lineData (off : Nat) (data : Bytes) (s : State) : Bytes × State :=
  let (head, s) := drawBytes (off % 8) s
  let (tail, s) := drawBytes ((8 - (off + data.length) % 8) % 8) s
  (padTo 64 (zeros (off - off % 8) ++ head ++ data ++ tail), s)

/-- A line of a descriptor is written on its own die: its code. A FILL clears the poison of what it writes (R204).
[DEDUCED, safe: log 163] -/
def writeOwn (d : Desc) (a : Nat) (data : Bytes) (poisoned : Bool) (s : State) : Nat × State :=
  if dOp d.raw = 2 then fillLine (a / 64) (a % 64) data.length s else writeLine (a / 64) (a % 64) data poisoned s

/-- The write of a piece to its destination. -/
def writeSide (k i : Nat) (d : Desc) (target a : Nat) (data : Bytes) (poisoned : Bool) (s : State) : State :=
  let t := k / 16
  let n := data.length
  let off := a % 64
  let flight (s : State) : State := changeDesc k i (fun d => { d with len := n, place := a }) s
  match target with
  | 2 =>
    match ownerOf s d.partition with
    | none => finishDesc k i ccRefused s
    | some f =>
      if tdiError s d.partition then finishDesc k i ccRefused s
      else match (hostBases t).find? (baseBusy s) with
      | some b => waitForBase k i b s
      | none =>
        let w : HostWrite :=
          { function := f, kind := .data, address := a, data := data, poisoned := poisoned,
            relaxed := (functionBlock s f).relaxed, idOrder := (functionBlock s f).idOrder }
        advanceCursor k i n (postWrite w s)
  | 3 =>
    let (line, s) := lineData off data s
    fabricRequest k i d fkWrite (a / 64 * 64) (enablesOf off n) 0 poisoned line (flight s)
  | _ =>
    let u := (placeTower a).getD t
    match lineStop k i t u target a s with
    | some s => s
    | none =>
      if !descPermitted s d u a true then descDenied k i d u a s
      else if u ≠ t then
        let (line, s) := lineData off data s
        openRequest k i d u 1 1 (a / 64 * 64) (enablesOf off n) 0 poisoned line (flight s)
      else if target = 1 then advanceCursor k i n (spadWrite (a - spadBase) data poisoned s)
      else
        let (code, s) := writeOwn d a data poisoned s
        let s := changeDesc k i (noteCode code) s
        if code = ccPoison ∨ sharersOf s a = [] then advanceCursor k i n s
        else waitInvalidations k i a (flight s)

/-- The old value of an atomic reaches the auxiliary address, and the descriptor ends (R174). -/
def atomicDone (k i code old : Nat) (s : State) : State :=
  match (engineQueue s k)[i]? with
  | none => s
  | some d =>
    let s := if code = ccPoison then s else spadWrite (k / 16 * 2 ^ 28 + dAux d.raw) (leBytes 8 old) false s
    advanceCursor k i 8 (changeDesc k i (noteCode code) s)

/-- An 8-byte atomic on the own die's scratchpad (R203 gives the rule for poison). -/
def spadAtomic (key : Nat) (f : Nat → Nat) (s : State) : Nat × Nat × State :=
  let old := leNat (spadBytes s key 8)
  if spadPoisoned s key 8 then (old, ccPoison, s) else (old, ccOk, spadWrite key (leBytes 8 (f old)) false s)

/-- The atomic of a descriptor (R174, R494, R504). Poisoned operands are not applied. -/
def atomicSide (k i : Nat) (d : Desc) (target a : Nat) (s : State) : State :=
  let t := k / 16
  let kind := dKind d.raw
  let key := t * 2 ^ 28 + dSource d.raw
  let operand := leNat (spadBytes s key 8)
  let compare := leNat (spadBytes s (key + 8) 8)
  let data := leBytes 8 operand ++ (if kind = 7 then leBytes 8 compare else [])
  let flight (s : State) : State := changeDesc k i (fun d => { d with len := 8, place := a }) s
  if spadPoisoned s key data.length then atomicDone k i ccPoison 0 s
  else match target with
  | 2 =>
    match ownerOf s d.partition with
    | none => finishDesc k i ccRefused s
    | some f =>
      if !(kind = 0 ∨ kind = 6 ∨ kind = 7) ∨ !(functionBlock s f).atomicEnable ∨ tdiError s d.partition = true then finishDesc k i ccRefused s
      else match (hostBases t).find? (baseBusy s) with
      | some b => waitForBase k i b s
      | none =>
        let (tag, s) := hostRequest d a 8 (.atomic t (k % 16) i) s
        waitFor k i (.host tag) (flight s)
  | 3 => fabricRequest k i d fkAtomic a 0 kind false data (flight s)
  | _ =>
    let u := (placeTower a).getD t
    match lineStop k i t u target a s with
    | some s => s
    | none =>
      if !descPermitted s d u a true then descDenied k i d u a s
      else if u ≠ t then openRequest k i d u 4 1 a 0 kind false data (flight s)
      else
        let f (old : Nat) : Nat := atomicResult kind old operand compare
        let (old, code, s) := if target = 1 then spadAtomic (a - spadBase) f s else atomicLine (a / 64) (a % 64) f s
        if target = 1 ∨ code = ccPoison ∨ sharersOf s a = [] then atomicDone k i code old s
        else
          waitInvalidations k i a
            (changeDesc k i (fun d => noteCode code { d with chunk := some (leBytes 8 old, false) }) (flight s))

/-- One row of a ROW_MOVE (R196): 32 lines decoded, then written to the scratchpad. -/
def rowMoveSide (k i : Nat) (d : Desc) (va target a dst : Nat) (s : State) : State :=
  let t := k / 16
  if target ≠ 0 ∨ a / 2 ^ 36 ≠ t then
    parkDesc k i va cOutOfRange (((descLeaf s t d (va % 2 ^ 48)).map (·.level)).getD 0) .read 0 s
  else if a % 2048 ≠ 0 then finishDesc k i ccRefused s
  else match (lineStop k i t t 0 a s).or (lineStop k i t t 1 (spadBase + t * 2 ^ 28 + dst) s) with
    | some s => s
    | none =>
      let w := spadBase + t * 2 ^ 28 + dst
      if !spadFieldOk dst then finishDesc k i ccRefused s
      else if !descPermitted s d t a false then descDenied k i d t a s
      else if !descPermitted s d t w true then descDenied k i d t w s
      else
        let s := (List.range 32).foldl (fun s n =>
          let (bs, code, s) := readLine (a / 64 + n) s
          spadWrite (w - spadBase + 64 * n) bs (decide (code = ccPoison)) (changeDesc k i (noteCode code) s)) s
        advanceCursor k i 2048 s

/-- Take up one side: resolve it and go on, or walk, park or end. -/
def withSide (k i : Nat) (d : Desc) (spad : Bool) (va : Nat) (kind : Kind) (go : Nat → Nat → Bool → State → State)
    (s : State) : State :=
  let s := changeDesc k i (fun d => { d with reading := decide (kind = .read) }) s
  match resolveSide s (k / 16) d spad va kind with
  | .at_ target a coherent => go target a coherent (if spad then s else keepPage k i va s)
  | .stop code => finishDesc k i code s
  | .fault c l => parkDesc k i va c l kind 0 s
  | .walk => waitFor k i (.walk va kind) s

/-- One move of an active descriptor that waits for nothing. -/
def stepDesc (k i : Nat) (d : Desc) (s : State) : State :=
  let w := d.raw
  let piece := pieceOf s (k / 16) d
  if !d.own ∧ descRefused w then finishDesc k i ccRefused s
  else match piece.src, piece.dst with
    | none, none => advanceCursor k i piece.len s
    | src, some dst =>
      if dOp w = 6 then withSide k i d (dDstSpad w) dst .atomic (fun target a _ s => atomicSide k i d target a s) s
      else if dOp w = 5 then
        let va := src.getD 0
        withSide k i d false va .read (fun target a _ s => rowMoveSide k i d va target a dst s) s
      else
        let got := gotSoFar d
        let write (data : Bytes) (poisoned : Bool) : State :=
          withSide k i d (dDstSpad w) dst .write
            (fun target a _ s => writeSide k i d target a (data.take piece.len) poisoned s) s
        match src with
        | none => write (zeros piece.len) false
        | some va =>
          if got.1.length < piece.len then
            let va := va + got.1.length
            let n := min (piece.len - got.1.length) (4096 - va % 4096)
            withSide k i d (dSrcSpad w) va .read (fun target a coherent s => readSide k i d target a n coherent s) s
          else write got.1 got.2
    | some _, none => advanceCursor k i piece.len s

/-! ### The engine -/

/-- A run's descriptors may issue lines: it is RUNNING (R189). -/
def mayIssue (s : State) (d : Desc) : Bool := match findRun s d.partition d.run with
  | none => false
  | some r => decide (r.state = .running)

/-- Descriptors that may start, of those that `live` holds of: in queue order, at most four at once and within the 64
places of the queue, a fenced one only when every earlier one is done (R172, R177). Answers positions. -/
def startable (live : Desc → Bool) : Nat → Nat → Nat → Bool → List Desc → List Nat
  | _, _, _, _, [] => []
  | i, places, active, allDone, d :: ds =>
    if !live d then startable live (i + 1) places active allDone ds
    else match d.state with
    | .queued =>
      if active ≥ 4 ∨ places ≥ 64 ∨ (dFence d.raw ∧ !allDone) then []
      else i :: startable live (i + 1) (places + 1) (active + 1) false ds
    | .active => startable live (i + 1) (places + 1) (active + 1) false ds
    | .parked => startable live (i + 1) (places + 1) active false ds
    | .done => startable live (i + 1) (places + 1) active allDone ds

/-- Start the descriptors that may start. -/
def activate (k : Nat) (s : State) : State :=
  (startable (mayIssue s) 0 0 0 true (engineQueue s k)).foldl
    (fun s i => changeDesc k i (fun d => { d with state := .active }) s) s

/-- The first descriptor that can move. -/
def movable (s : State) (q : List Desc) : Option Nat :=
  q.findIdx? (fun d => decide (d.state = .active ∧ d.wait = .none) && mayIssue s d)

/-- Work an engine until nothing can move. -/
def pumpFuel (k : Nat) : Nat → State → State
  | 0, s => s
  | n + 1, s =>
    let s := activate k s
    match movable s (engineQueue s k) with
    | none => s
    | some i => match (engineQueue s k)[i]? with
      | none => s
      | some d => pumpFuel k n (stepDesc k i d s)

/-- Moves that remain in a queue, at most. -/
def movesLeft (q : List Desc) : Nat :=
  (q.map (fun d => 2 * (dRows d.raw - d.cursorRows) * (dRowBytes d.raw / 8 + 1) + 4)).sum

/-- Work an engine. -/
def pump (k : Nat) (s : State) : State := pumpFuel k (movesLeft (engineQueue s k)) s

/-- Work every engine of a tower. -/
def pumpTower (t : Nat) (s : State) : State := ((List.range 16).map (16 * t + ·)).foldl (fun s k => pump k s) s

/-- Every descriptor that waits for what `p` names moves on, and its engine is worked. -/
def wake (p : Wait → Bool) (s : State) : State :=
  let keys := (s.dma.queues.filter (fun e => e.2.any (fun d => p d.wait))).map (·.1)
  keys.foldl (fun s k => pump k { s with
    dma.queues := Tab.change [] k (fun q => q.map (fun d => if p d.wait then { d with wait := .none } else d)) s.dma.queues }) s

/-- The descriptor of an engine that waits for what `p` names. -/
def waiterOf (s : State) (k : Nat) (p : Wait → Bool) : Option (Nat × Desc) :=
  let q := engineQueue s k
  match q.findIdx? (fun d => p d.wait) with
  | none => none
  | some i => (q[i]?).map (fun d => (i, d))

/-- The engine and place of the first descriptor of all that waits for what `p` names. -/
def waiterAnywhere (s : State) (p : Wait → Bool) : Option (Nat × Nat × Desc) :=
  (s.dma.queues.map (·.1)).findSome? (fun k => (waiterOf s k p).map (fun x => (k, x.1, x.2)))

/-- A write's invalidations are all acknowledged: the descriptor that made it goes on (R179). -/
def invalidationsDone (write : Nat) (s : State) : State :=
  match waiterAnywhere s (fun w => decide (w = .invalidation write)) with
  | none => s
  | some (k, i, d) =>
    if dOp d.raw = 6 then pump k (atomicDone k i ccOk (leNat (gotSoFar d).1) s)
    else pump k (advanceCursor k i d.len s)

end Sys2Proof.Machine
end

