-- ==== Sys2Proof/Machine/Dma.lean ====
section
/-! DEFINITION. The commands of translation, DMA and faults (R158, R163 to R191). -/

namespace Sys2Proof.Machine

/-- A word with a page: bits [47:12]. -/
def pageBits (w : Nat) : Nat := nbits w 47 12

/-! ### Roots and invalidation (R170, R171, R190) -/

/-- R171's rule on the writer, with R482's on a locked TDI: the management port writes for the secure world,
MCTP for the PF. -/
def rootWriter (r : Requester) (p : Nat) (s : State) : Bool :=
  match r with
  | .udp _ _ => true
  | .mctp _ => decide (ownerOf s p = some 0) || (functionSecure s 0 && !tdiHeld s p)

/-- The effect of a write of a translation root (R171). -/
def rootAct (r : Requester) (p : Nat) : WriteAct := fun value s =>
  let v := leNat value
  if nbits v 11 1 ≠ 0 ∨ nbits v 63 48 ≠ 0 then refuseRange 0
  else if (executingRun s p).isSome ∨ !rootWriter r p s then refuseState
  else .wait 0 (setDictNat (0x388001 + p) 8 v
    { s with dma.invalidations := s.dma.invalidations ++ [{ partition := p, page := 0, size := 0 }] })

/-- TRANSLATION_ROOT_WRITE (R171). -/
def execTranslationRootWrite (req : Req) (partition : Partition) (value : Bytes) (s : State) :
    Host.Outcome State Fault Refusal :=
  .next (serveWrite req (0x388001 + partition) value (rootAct req.requester partition) s)

/-- The effect of a write to 0x3880:10 (R170). -/
def invalidateAct (r : Requester) : WriteAct := fun value s =>
  let v := leNat value
  let p := nbits v 59 56
  if nbits v 63 60 ≠ 0 ∨ nbits v 55 48 ≠ 0 ∨ nbits v 11 2 ≠ 0 ∨ p > 11 then refuseRange 0
  else if !rootWriter r p s then refuseState
  else .wait p { s with
    dma.invalidations := s.dma.invalidations ++ [{ partition := p, page := pageBits v, size := nbits v 1 0 }] }

/-- TRANSLATION_INVALIDATE (R170). -/
def execTranslationInvalidate (req : Req) (value : Bytes) (s : State) : Host.Outcome State Fault Refusal :=
  .next (serveWrite req 0x388010 value (invalidateAct req.requester) s)

/-- Whether an invalidation names an address. -/
def invNames (v : Invalidation) (p va : Nat) : Bool :=
  decide (v.partition = p) && (decide (v.size = 0) ||
    decide (va / 2 ^ levelShift (v.size - 1) = v.page * 4096 / 2 ^ levelShift (v.size - 1)))

/-- Whether a range of `2^bits` bytes at `base` meets the page an invalidation names. -/
def invMeets (v : Invalidation) (p base bits : Nat) : Bool :=
  let m := max bits (levelShift (v.size - 1))
  decide (v.partition = p) && (decide (v.size = 0) || decide (base / 2 ^ m = v.page * 4096 / 2 ^ m))

/-- A line of a descriptor is on its way. -/
def inFlight (d : Desc) : Bool := match d.wait with
  | .openTag _ | .fabric _ | .host _ | .fill _ | .invalidation _ => true
  | _ => false

/-- The device virtual address of a descriptor's line in flight: of its source while it reads, else of its destination. -/
def flightAddress (s : State) (t : Nat) (d : Desc) : Nat :=
  let x := pieceOf s t d
  (if d.reading then x.src.getD 0 + (gotSoFar d).1.length else x.dst.getD 0) % 2 ^ 48

/-- A descriptor has a line on its way that an invalidation names. -/
def lineNamed (s : State) (t : Nat) (v : Invalidation) (d : Desc) : Bool :=
  let spad := if d.reading then dSrcSpad d.raw else dDstSpad d.raw
  inFlight d && !spad && invNames v d.partition (flightAddress s t d)

/-- Every line translated under the named translations has completed. -/
def linesDone (s : State) (v : Invalidation) : Bool :=
  (towersOf s v.partition).all (fun t =>
    (engineKeys t).all (fun k => !(engineQueue s k).any (lineNamed s t v)))

/-- An invalidation names a leaf's page, or a part of it. -/
def invLeaf (v : Invalidation) (l : Leaf) : Bool := invMeets v l.partition (l.page * 2 ^ levelShift l.level) (levelShift l.level)

/-- The named translations leave both caches of a tower, and its descriptors. -/
def dropNamed (v : Invalidation) (t : Nat) (s : State) : State :=
  { s with
    dma.queues := Tab.changeAll [] (engineKeys t)
      (fun q => q.map (fun d => { d with pages := d.pages.filter (fun l => !invLeaf v l) })) s.dma.queues
    dma.leaves := Tab.change [] t (fun ls => ls.filter (fun l => !invLeaf v l)) s.dma.leaves
    dma.walkLines := Tab.change [] t
      (fun ws => ws.filter (fun w => !invMeets v w.partition (w.index * 2 ^ levelShift w.level) (levelShift w.level)))
      s.dma.walkLines }

/-- INVALIDATE_DONE (R170): nothing while a line translated under a named translation is on its way. -/
def invalidateDone (p : Nat) (s : State) : State :=
  let vs := s.dma.invalidations.filter (fun v => decide (v.partition = p))
  if vs = [] ∨ !vs.all (linesDone s) then s
  else
    let s := vs.foldl (fun s v => (towersOf s p).foldl (fun s t => dropNamed v t s) s)
      { s with dma.invalidations := s.dma.invalidations.filter (fun v => !decide (v.partition = p)) }
    answerWaiting (0x388001 + p) 0 stOk 0 (answerWaiting 0x388010 p stOk 0 s)

def execInvalidateDone (partition : Partition) (s : State) : Host.Outcome State Fault Refusal :=
  .next (invalidateDone partition s)

/-! ### Walks and retries -/

/-- A walk could return a translation that an invalidation under way names (R170): its leaf's page, or, where it ended
without one, the address itself. -/
def walkNamed (s : State) (p va : Nat) (r : Except Xlate (Nat × Nat)) : Bool :=
  s.dma.invalidations.any (fun v => match r with
    | .ok (_, level) => invMeets v p va (levelShift level)
    | .error _ => invNames v p va)

/-- What a walk of a descriptor ends in. -/
def walkEnds (k i va : Nat) (kind : Kind) (d : Desc) (x : Xlate) (s : State) : State := match x with
  | .ok _ _ _ => waitFor k i .none s
  | .fault c l => parkDesc k i va c l kind 0 s
  | .denied => finishDesc k i ccWorldDenied s
  | .wait w => waitFor k i w s
  | .far a level => tableRequest k i d va kind a level s
  | .miss => s

/-- A walk of a descriptor goes as far as it can. One that meets an invalidation of what it could return is discarded,
and begins again after it (R170, R189). [DEDUCED, safe: log 164] -/
def walkDesc (k i va : Nat) (kind : Kind) (d : Desc) (answer : Option (Nat × Except Xlate Nat)) (s : State) : State :=
  let (r, t) := walk (k / 16) d.partition va (some (k % 16)) (.asks answer) s
  if walkNamed s d.partition va r then waitFor k i (.walk va kind) (if answer.isSome then s else count64 0x388014 1 s)
  else match r with
    | .error x => walkEnds k i va kind d x t
    | .ok (e, level) =>
      let leaf : Leaf := { partition := d.partition, level := level, page := va / 2 ^ levelShift level, entry := BitVec.ofNat 64 e }
      walkEnds k i va kind d (checkLeaf t d.partition va kind e level)
        (changeDesc k i (fun d => { d with pages := addOnce leaf d.pages }) (keepLeaf (k / 16) leaf t))

/-- TABLE_WALK (R166, R168, R182): the first walk an engine waits for completes, or reads a table on another tower. -/
def tableWalk (k : Nat) (s : State) : State :=
  let isWalk (w : Wait) : Bool := match w with
    | .walk _ _ => true
    | _ => false
  match waiterOf s k isWalk with
  | none => s
  | some (i, d) => match d.wait with
    | .walk va kind => pump k (walkDesc k i va kind d none s)
    | _ => s

/-- A READ of the translation unit has been answered (R236): the walk goes on with the entry. RETRY begins it again.
[DEDUCED, safe: log 164] -/
def tableAnswered (k i : Nat) (d : Desc) (code : Nat) (data : Bytes) (s : State) : State := match d.wait with
  | .table _ va kind level =>
    let go (x : Except Xlate Nat) : State := pump k (walkDesc k i va kind d (some (level, x)) s)
    if code = ccOk ∨ code = ccCorrected then go (.ok (fieldAt data (d.place % 64) 8))
    else if code = ccPoison then go (.error (.fault cWalkPoison level))
    else if code = ccRetry then waitFor k i (.walk va kind) s
    else pump k (finishDesc k i code s)
  | _ => s

def execTableWalk (tower : Tower) (engine : EngineNo) (s : State) : Host.Outcome State Fault Refusal :=
  .next (tableWalk (16 * tower + engine) s)

/-- DMA_RETRY_BACKOFF (R158): the line is issued again at the end of its backoff. -/
def dmaRetry (k : Nat) (s : State) : State :=
  let isBackoff (w : Wait) : Bool := match w with
    | .backoff _ _ => true
    | _ => false
  match waiterOf s k isBackoff with
  | none => s
  | some (i, d) => match d.wait with
    | .backoff at_ _ => pump k (waitFor k i .none (advanceTo at_ s))
    | _ => s

def execDmaRetryBackoff (tower : Tower) (engine : EngineNo) (s : State) : Host.Outcome State Fault Refusal :=
  .next (dmaRetry (16 * tower + engine) s)

/-! ### Issue (R172 to R174) -/

/-- S0 of a running task issues a descriptor: it joins the engine's queue, and the engine works. -/
def issue (t e : Nat) (w : BitVec 512) (s : State) : State :=
  match partitionOf s t with
  | none => s
  | some p => match runningRun s p with
    | none => s
    | some r =>
      if !towerUp s t ∨ (taskOf r (dTask w)).phase ≠ .running then s
      else pump (16 * t + e) (queueDescs t e p r.id false [w] s)

/-- A descriptor of one operation, within its encoding. -/
def issueOp (op t e : Nat) (w : BitVec 512) (s : State) : State :=
  if dOp w = op ∧ !descRefused w then issue t e w s else s

/-- COPY (R174). -/
def execCopy (tower : Tower) (engine : EngineNo) (descriptor : BitVec 512) (s : State) :
    Host.Outcome State Fault Refusal := .next (issueOp 1 tower engine descriptor s)

/-- FILL (R174). -/
def execFill (tower : Tower) (engine : EngineNo) (descriptor : BitVec 512) (s : State) :
    Host.Outcome State Fault Refusal := .next (issueOp 2 tower engine descriptor s)

/-- GATHER (R174). -/
def execGather (tower : Tower) (engine : EngineNo) (descriptor : BitVec 512) (s : State) :
    Host.Outcome State Fault Refusal := .next (issueOp 3 tower engine descriptor s)

/-- SCATTER (R174). -/
def execScatter (tower : Tower) (engine : EngineNo) (descriptor : BitVec 512) (s : State) :
    Host.Outcome State Fault Refusal := .next (issueOp 4 tower engine descriptor s)

/-- ROW_MOVE (R196). -/
def execRowMove (tower : Tower) (engine : EngineNo) (descriptor : BitVec 512) (s : State) :
    Host.Outcome State Fault Refusal := .next (issueOp 5 tower engine descriptor s)

/-- DMA_ATOMIC (R174). -/
def execDmaAtomic (tower : Tower) (engine : EngineNo) (descriptor : BitVec 512) (s : State) :
    Host.Outcome State Fault Refusal := .next (issueOp 6 tower engine descriptor s)

/-- DESCRIPTOR_REFUSED (R174). -/
def execDescriptorRefused (tower : Tower) (engine : EngineNo) (descriptor : BitVec 512) (s : State) :
    Host.Outcome State Fault Refusal :=
  .next (if descRefused descriptor then issue tower engine descriptor s else s)

/-! ### Completion (R158, R175) -/

/-- The fault code a task takes from a descriptor's code (R158), zero for none. -/
def taskFaultOf (code : Nat) : Nat :=
  if code = ccXlateFault then 0x2003
  else if code = ccPathReset then 0x2004
  else if code = ccTargetDead then 0x2005
  else if code = ccWorldDenied then 0x2006
  else if code = ccStaleAtomic then 0x2007
  else if code = ccRefused then 0x2008
  else 0

/-- A completed descriptor's code reaches its task. -/
def descReport (d : Desc) (s : State) : State :=
  let i := dTask d.raw
  let flags := (if d.poison then flPoison else 0) ||| (if d.unknown ∨ d.code = ccStaleAtomic then flUnknown else 0)
  let s := changeTask d.partition d.run i (fun x =>
    { x with flags := x.flags ||| flags, codes := if d.code = ccOk then x.codes else d.code :: x.codes }) s
  let s := if taskFaultOf d.code = 0 then s else taskFault d.partition d.run i (taskFaultOf d.code) d.code s
  match findRun s d.partition d.run with
  | none => s
  | some r =>
    if (taskOf r i).phase = .skipping ∧ (taskOf r i).fault = 0 ∧ !taskHasDescs s d.partition d.run i then endTask d.partition d.run i s else s

/-- A descriptor has reached its end, and its run is not PARKED or FROZEN: its task learns of it (R189). [DEDUCED,
unsafe: log 165] -/
def reportable (s : State) (d : Desc) : Bool :=
  decide (d.state = .done) && !(findRun s d.partition d.run).any (fun r => decide (r.state = .parked ∨ r.state = .frozen))

/-- DESCRIPTOR_DONE (R175): the first descriptor of an engine that has reached its end leaves the queue. -/
def descriptorDone (k : Nat) (s : State) : State :=
  let q := engineQueue s k
  match q.find? (reportable s) with
  | none => s
  | some d =>
    let s := { s with dma.queues := Tab.put [] k (q.eraseP (reportable s)) s.dma.queues }
    pump k (descReport d s)

def execDescriptorDone (tower : Tower) (engine : EngineNo) (s : State) : Host.Outcome State Fault Refusal :=
  .next (descriptorDone (16 * tower + engine) s)

/-! ### Fault responses (R186 to R189) -/

/-- Apply `f` to every descriptor attached to a record. -/
def changeAttached (p : Nat) (tag : BitVec 16) (f : Desc → Desc) (s : State) : State :=
  let mine (d : Desc) : Bool := decide (d.partition = p ∧ d.record = some tag)
  { s with
    dma.queues := Tab.changeAll [] ((towersOf s p).flatMap engineKeys)
      (fun q => q.map (fun d => if mine d then f d else d)) s.dma.queues }

/-- Work every engine of a partition. -/
def pumpPartition (p : Nat) (s : State) : State := (towersOf s p).foldl (fun s t => pumpTower t s) s

/-- RETRY translates again and resumes at the cursor; FAIL completes XLATE_FAULT. An atomic that was answered
meanwhile completes with its code under either (R596). -/
def answerAttached (p : Nat) (tag : BitVec 16) (retry : Bool) (s : State) : State :=
  changeAttached p tag (fun d =>
    if d.settled.isSome then { d with state := .done, code := d.settled.getD 0, record := none, wait := .none, chunk := none }
    else if retry then { d with state := .queued, record := none, pages := [] }
    else { d with state := .done, code := ccXlateFault, record := none, wait := .none, chunk := none }) s

/-- The record that awaits a response under a tag. -/
def awaits (p : Nat) (tag : BitVec 16) (r : FaultRecord) : Bool :=
  decide (r.partition = p ∧ r.tag = tag ∧ r.stored = none) && !r.held && !r.lost

/-- A response that names no awaited tag, or breaks the layout (R186, R190): the payload has the tower and the engine of
the record that its tag names (R191). -/
def unknownResponse (p : Nat) (tag : BitVec 16) (s : State) : State :=
  let r := s.dma.records.find? (awaits p tag)
  raise 0x3884 [b1 p, r.bind (fun r => b1 r.tower), b2 tag.toNat, r.bind (fun r => b1 r.engine)] (count32 0x388013 1 s)

/-- An awaited record is answered: at once while its run is RUNNING, never when the run is FROZEN or gone, else when the
run is next RUNNING (R189). [DEDUCED, unsafe: log 165] -/
def settleRecord (p : Nat) (tag : BitVec 16) (run : BitVec 32) (retry : Bool) (s : State) : State :=
  let forget (s : State) : State := { s with
    dma.records := s.dma.records.filter (fun x => !awaits p tag x) }
  match findRun s p run with
  | none => forget s
  | some r => match r.state with
    | .frozen => forget s
    | .running => pumpPartition p (answerAttached p tag retry (forget s))
    | _ => { s with
        dma.records := changeFirst (awaits p tag) (fun r => { r with stored := some retry }) s.dma.records }

/-- A fault-response word (R186, R189). -/
def faultResponse (p : Nat) (w : BitVec 32) (s : State) : State :=
  let tag := BitVec.ofNat 16 (bits w 15 0)
  let action := bits w 17 16
  match s.dma.records.find? (awaits p tag) with
  | none => unknownResponse p tag s
  | some r =>
    if action ≥ 2 ∨ bits w 31 18 ≠ 0 then unknownResponse p tag s
    else settleRecord p tag r.run (decide (action = 0)) s

/-- FAULT_RESPONSE_RETRY (R186). -/
def execFaultResponseRetry (partition : Partition) (word : BitVec 32) (s : State) : Host.Outcome State Fault Refusal :=
  .next (if bits word 17 16 = 0 then faultResponse partition word s else s)

/-- FAULT_RESPONSE_FAIL (R186). -/
def execFaultResponseFail (partition : Partition) (word : BitVec 32) (s : State) : Host.Outcome State Fault Refusal :=
  .next (if bits word 17 16 = 1 then faultResponse partition word s else s)

/-- FAULT_RESPONSE_UNKNOWN (R186): a word that is no response of an awaited tag; another word acts as it says. -/
def execFaultResponseUnknown (partition : Partition) (word : BitVec 32) (s : State) :
    Host.Outcome State Fault Refusal :=
  .next (faultResponse partition word s)

/-- FAULT_TIMEOUT (R187). -/
def faultTimeout (p : Nat) (tag : BitVec 16) (s : State) : State :=
  let limit := dictNat s 0x388011
  match s.dma.records.find? (awaits p tag) with
  | none => s
  | some r =>
    if limit = 0 ∨ r.frames < limit then s
    else
      settleRecord p tag r.run false (raise 0x3883 [b1 p, b1 r.tower, b2 tag.toNat, b1 r.engine] s)

def execFaultTimeout (partition : Partition) (tag : BitVec 16) (s : State) : Host.Outcome State Fault Refusal :=
  .next (faultTimeout partition tag s)

/-! ### The read-coherent class (R178 to R181) -/

/-- RC_INVALIDATION (R179, R180): the sharer drops the block's lines, marks fills of it, and acknowledges. -/
def rcInvalidate (t home block : Nat) (s : State) : State :=
  let m : MeshPacket := { source := home, dest := t, load := .invalidate home block }
  if m ∉ s.pho.mesh then s
  else sendMesh t home (.invalidateAck home t block) { s with
    dma.cache := Tab.change [] t (fun ls => ls.filter (fun c => decide (c.line / 64 ≠ block))) s.dma.cache
    dma.fills := s.dma.fills.map (fun f => if f.tower = t ∧ f.line / 64 = block then { f with stale := true } else f)
    pho.mesh := s.pho.mesh.erase m }

def execRcInvalidation (tower home : Tower) (block : BitVec 48) (s : State) : Host.Outcome State Fault Refusal :=
  .next (rcInvalidate tower home block.toNat s)

/-- The home clears a sharer's bit; with the last one the write completes and its answers go out (R179). -/
def sharerAnswered (home sharer block : Nat) (s : State) : State :=
  let mine (v : Inval) : Bool := decide (v.home = home ∧ v.block = block ∧ sharer ∈ v.waiting)
  match s.dma.invals.find? mine with
  | none => s
  | some v =>
    let s := match rcIndex s (block * 4096) with
      | none => s
      | some i => { s with
          dma.sharers := Tab.change 0 i (fun m => maskOf 12 (fun u => nbit m u && decide (u ≠ sharer))) s.dma.sharers }
    let rest := v.waiting.erase sharer
    if rest ≠ [] then
      { s with dma.invals := changeFirst mine (fun v => { v with waiting := rest }) s.dma.invals }
    else
      let s := { s with dma.invals := s.dma.invals.eraseP mine }
      let s := v.owedOpen.foldl (fun s o => sendOpen home o.1 o.2 0 s) s
      let s := v.owedFabric.foldl (fun s o => respond (readHeader o.1) o.2.1 o.2.2 false home s) s
      invalidationsDone v.write s

/-- RC_INVALIDATION_ACK (R179). -/
def rcAck (home sharer block : Nat) (s : State) : State :=
  let m : MeshPacket := { source := sharer, dest := home, load := .invalidateAck home sharer block }
  if m ∉ s.pho.mesh then s
  else sharerAnswered home sharer block { s with pho.mesh := s.pho.mesh.erase m }

def execRcInvalidationAck (home sharer : Tower) (block : BitVec 48) (s : State) : Host.Outcome State Fault Refusal :=
  .next (rcAck home sharer block.toNat s)

/-- RC_SHARER_LOST (R179, R191). -/
def rcLost (home sharer block : Nat) (s : State) : State :=
  match s.dma.invals.find? (fun v => decide (v.home = home ∧ v.block = block ∧ sharer ∈ v.waiting)) with
  | none => s
  | some v =>
    let s := advanceTo (v.sent + 4 * us) s
    sharerAnswered home sharer block (raise 0x3886 [bPartition s home, b1 sharer, none, none]
      { s with dma.flush := Tab.put false sharer true s.dma.flush })

def execRcSharerLost (home sharer : Tower) (block : BitVec 48) (s : State) : Host.Outcome State Fault Refusal :=
  .next (rcLost home sharer block.toNat s)

/-- Every descriptor of a tower that waits for what `p` names takes `f`, and its engine is worked. -/
def eachWaiter (t : Nat) (p : Wait → Bool) (f : Nat → Nat → Desc → State → State) (s : State) : State :=
  (engineKeys t).foldl (fun s k =>
    let s := (List.range (engineQueue s k).length).foldl (fun s i => match (engineQueue s k)[i]? with
      | none => s
      | some d => if p d.wait then f k i d s else s) s
    pump k s) s

/-- A fill's data has come back (R178, R180): the line is installed unless an invalidation of its block has met it, and
the descriptors that wait for it take their bytes. -/
def fillReturn (f : Fill) (data : Bytes) (code : Nat) (s : State) : State :=
  let t := f.tower
  let data := padTo 64 data
  let s := { s with dma.fills := s.dma.fills.erase f }
  let s := if f.stale then s
    else
      let line : CacheLine := { line := f.line, data := data, poisoned := decide (code = ccPoison) }
      let (ls, s) := cachePut 32768 line (Tab.look [] s.dma.cache t) s
      { s with dma.cache := Tab.put [] t ls s.dma.cache }
  eachWaiter t (fun w => decide (w = .fill f.tag)) (fun k i d s => gotData k i (slice data (d.place % 64) d.len) code s) s

/-! ### CLUSTER_CLEAR_DONE -/

/-- CLUSTER_CLEAR_DONE (R83, R390): once its die has aligned, a powered cluster's words are zero and masters gain access:
lines that wait for it go on. -/
def clusterCleared (t k : Nat) (s : State) : State :=
  let c := clusterKey t k
  if Tab.look false s.spad.powered c ∧ t ∈ s.clk.aligned ∧ !Tab.look false s.spad.ready c then
    let s := clearCluster t k s
    wake (fun w => decide (w = .clearing c)) { s with spad.ready := Tab.put false c true s.spad.ready }
  else s

def execClusterClearDone (tower : Tower) (cluster : Cluster) (s : State) : Host.Outcome State Fault Refusal :=
  .next (clusterCleared tower cluster s)

end Sys2Proof.Machine
end

