-- ==== Sys2Proof/Machine/PhoOps.lean ====
section
/-! DEFINITION. What a slot of a tower's egress waveguide is, who waits for whom, and how a decision of a Sheepdog
is undone (R45 to R47, R50, R226, R231 to R234, R243). -/

namespace Sys2Proof.Machine

/-! ### Slots -/

/-- The base cycle at which a slot of the frame now open begins (R35). -/
def slotStart (s : State) (slot : Nat) : Nat := s.frame.start + slot * slotCycles s.frame.code

/-- The slot now running. -/
def slotAt (s : State) : Nat := min 255 ((s.now - s.frame.start) / slotCycles s.frame.code)

/-- The template a tower follows, and the frame index that the frame now open has in it, or the next frame. -/
def templateOf (s : State) (t : Nat) (next : Bool) : Option (Bytes × Nat) :=
  match partitionOf s t with
  | none => none
  | some p =>
    if p ∈ s.fab.openSlots then none
    else match activeImage s p with
      | none => none
      | some img =>
        let i := (part s p).index
        let n := max (tmplPeriod img) 1
        some (img, if next then (i + 1) % n else i)

/-- The descriptor of a slot: OPEN where the tower has no template (R50). -/
def slotDesc (s : State) (t w slot : Nat) (next : Bool) : Nat := match templateOf s t next with
  | none => 0xF * 2 ^ 25
  | some (img, i) => slotWord img i t w slot

/-- The scheduled slots of a tower's partition stay dark in this frame: in a slip, in all but the first frame
of a stride group, and while no run is RUNNING, so from the tick of a save to the end of the restore (R47, R54, R55,
R155); a tower in tick loss sends none (R41). -/
def slotsDark (s : State) (t : Nat) : Bool := match partitionOf s t with
  | none => false
  | some p =>
    let q := part s p
    q.slipping || decide (q.inGroup ≠ 0) || (receiver s t).lost || (runningRun s p).isNone

/-- The entry of a template's phase table that a phase index of a template frame names. -/
def phaseEntry (img : Bytes) (index phase : Nat) : Option Nat :=
  ((List.range (tmplPhaseCount img)).filter (fun e => decide (phaseFrame (phaseWord img e) = index)))[phase]?

/-- A task's span covers an entry of the phase table. -/
def spanCovers (img : Bytes) (i e : Nat) : Bool :=
  (List.range (taskSpan img i)).any (fun j => decide ((taskFirstPhase img i + j) % max (tmplPhaseCount img) 1 = e))

/-- The tasks of a tower to which a phase of the frame now open is assigned have all been skipped (R123). [DEDUCED,
safe: log 159] -/
def phaseSkipped (s : State) (t phase : Nat) : Bool := match partitionOf s t with
  | none => false
  | some p => match runningRun s p with
    | none => false
    | some r =>
      let img := runImage s r
      match phaseEntry img (part s p).index phase with
      | none => false
      | some e =>
        let mine := r.tasks.filter (fun x => decide (taskTower img x.1 = t) && spanCovers img x.1 e)
        decide (mine ≠ []) && mine.all (fun x => decide (x.2.flags &&& flSkipped ≠ 0))

/-! ### Phases that wait (R52, R239, R243, R262, R398) -/

/-- Base cycles as compute cycles of a die. -/
def computeCycles (s : State) (t n : Nat) : Nat := n * dieClock s t / 40

/-- A region waits from a phase's start to now: a stall, what it has waited before left out. -/
def waitRegion (t start : Nat) (s : State) (k : Nat) : State :=
  let from_ := max start (Tab.look 0 s.pho.waited (regionKey t k))
  if s.now ≤ from_ then s
  else stallRegion t k (computeCycles s t (s.now - from_)) { s with pho.waited := Tab.put 0 (regionKey t k) s.now s.pho.waited }

/-- When a phase of the frame now open starts: the start slot of its entry. -/
def phaseStartTime (s : State) (img : Bytes) (e : Nat) : Nat := s.frame.start + phaseStart (phaseWord img e) * slotCycles s.frame.code

/-- The clusters of a tower whose tasks of the running run have a phase entry in their span and have not ended. -/
def phaseRegions (img : Bytes) (r : Run) (t e : Nat) : List Nat :=
  let mine := r.tasks.filter (fun x => decide (taskTower img x.1 = t ∧ x.2.phase ≠ .ended) && spanCovers img x.1 e)
  allClusters.filter (fun k => mine.any (fun x => nbit (taskClusters img x.1) k))

/-- Scheduled bytes are on their way to a tower. A phase that starts after their slot consumes them (R46), and its
regions do not pass its start without them. [DESIGN CHOICE, unsafe: log 171] -/
def oweBytes (src dst w slot phase n : Nat) (s : State) : State := match partitionOf s dst with
  | none => s
  | some p => match runningRun s p with
    | none => s
    | some r =>
      let img := runImage s r
      match phaseEntry img (part s p).index phase with
      | none => s
      | some e =>
        let ks := phaseRegions img r dst e
        if phaseStart (phaseWord img e) ≤ slot ∨ ks = [] ∨ n = 0 then s
        else
          let x : Owed := { partition := p, run := r.id, source := src, dest := dst, plane := w,
                            stamp := (mkStamp s.frame.number slot 0).toNat, left := n,
                            start := phaseStartTime s img e, regions := ks }
          { s with pho.owed := s.pho.owed ++ [x] }

/-- Scheduled bytes are delivered: with the last of their slot, the regions that wait go on. -/
def bytesArrive (src dst w stamp n : Nat) (s : State) : State :=
  let is (x : Owed) : Bool := decide (x.source = src ∧ x.dest = dst ∧ x.plane = w ∧ x.stamp = stamp)
  match s.pho.owed.find? is with
  | none => s
  | some x =>
    if n < x.left then { s with pho.owed := changeFirst is (fun x => { x with left := x.left - n }) s.pho.owed }
    else
      let s := { s with pho.owed := s.pho.owed.eraseP is }
      if (runningRun s x.partition).any (fun r => decide (r.id = x.run)) then x.regions.foldl (waitRegion dst x.start) s else s

/-- A region of a run waits for scheduled bytes, or for a light sum. -/
def regionWaits (s : State) (r : Run) (t k : Nat) : Bool :=
  s.pho.owed.any (fun x => decide (x.partition = r.partition ∧ x.run = r.id ∧ x.dest = t) && x.regions.contains k) ||
    s.sums.waiting.any (fun x => decide (x.receiver = t ∧ x.arm.cluster = k))

/-- Types of R47. -/
def stOpen : Nat := 0
def stSched : Nat := 1
def stColl : Nat := 2
def stExpert : Nat := 3
def stReserve : Nat := 4

/-- A type that carries what the template schedules. -/
def scheduledType (k : Nat) : Bool := decide (1 ≤ k ∧ k ≤ 3)

/-- The destination a scheduled descriptor has (R46, R226). -/
def descDest (s : State) (t w slot : Nat) (next : Bool) (d : Nat) : Nat :=
  if slotType d = stExpert then
    match templateOf s t next with
    | none => 15
    | some (img, i) => expertDest img i t w slot
  else slotDest d

/-- The ingress waveguide of a tower is reserved in a slot by a scheduled descriptor (R231). -/
def ingressReserved (s : State) (d w slot : Nat) (next : Bool) : Bool :=
  allTowers.any (fun t =>
    let x := slotDesc s t w slot next
    decide (t ≠ d) && scheduledType (slotType x) && decide (descDest s t w slot next x = d))

/-- The payload items of R245. [DESIGN CHOICE, safe: log 127] -/
def phoItems (t : Nat) (other plane age : Option Nat) : List (Option Bytes) :=
  [b1 t, other.bind b1, plane.bind b1, age.bind b4]

/-! ### Waiters (R233) -/

/-- The key of a source, destination and plane. -/
def waiterKey (src dst w : Nat) : Nat := (12 * src + dst) * 8 + w

/-- What a source keeps toward a destination on a plane. -/
def waiter (s : State) (src dst w : Nat) : Waiter := Tab.look {} s.pho.waiters (waiterKey src dst w)

/-- Put a waiter. -/
def setWaiter (src dst w : Nat) (x : Waiter) (s : State) : State :=
  { s with pho.waiters := Tab.put {} (waiterKey src dst w) x s.pho.waiters }

/-- A waiter starts afresh: a grant, or nothing left to send. -/
def clearWaiter (src dst w : Nat) (s : State) : State :=
  let key := waiterKey src dst w
  { s with
    pho.waiters := Tab.put {} key {} s.pho.waiters
    pho.alarmed := s.pho.alarmed.filter (fun k => decide (k ≠ key)) }

/-- The backoff after the k-th consecutive loss. -/
def backoff (k : Nat) : Nat := min (4 * 2 ^ (k - 1)) 4096

/-- A loss in a decision made in the slot that began at `start`. -/
def loseOnce (start : Nat) (x : Waiter) : Waiter :=
  { k := x.k + 1, expiry := start + backoff (x.k + 1), firstLoss := some (x.firstLoss.getD start) }

/-! ### Sheepdogs (R232, R234) -/

/-- A Sheepdog. -/
def sheepdog (s : State) (d w : Nat) : Sheepdog := Tab.look {} s.pho.sheepdogs (8 * d + w)

/-- Change a Sheepdog. -/
def changeSheepdog (d w : Nat) (f : Sheepdog → Sheepdog) (s : State) : State :=
  { s with pho.sheepdogs := Tab.change {} (8 * d + w) f s.pho.sheepdogs }

/-- A grant is returned unused, or claimed: it is undone in c, and the next grant word carries the void flag. -/
def voidDecision (d w : Nat) (s : State) : State := match (sheepdog s d w).last with
  | none => s
  | some x => changeSheepdog d w
      (fun g => { g with count := x.countBefore, last := none, void := true, voided := x.losers }) (count64 0x400004 1 s)

/-- A source that lost in a voided decision restores what the loss replaced; a later loss counts on from there. -/
def restoreLoser (src d w : Nat) (s : State) : State :=
  match (sheepdog s d w).voided.find? (fun l => decide (l.source = src)) with
  | none => s
  | some l =>
    let back : Waiter := { l.before with firstLoss := (waiter s src d w).firstLoss }
    let s := changeSheepdog d w (fun g => { g with voided := g.voided.erase l }) s
    match (sheepdog s d w).last with
    | none => setWaiter src d w back s
    | some x =>
      if x.losers.any (fun m => decide (m.source = src)) then
        let s := changeSheepdog d w (fun g => { g with
          last := some { x with losers := x.losers.map (fun m => if m.source = src then { m with before := back } else m) } }) s
        setWaiter src d w (loseOnce x.start back) s
      else setWaiter src d w back s

/-! ### Grants a source holds -/

/-- The grant a source holds on a plane. -/
def grantOf (s : State) (t w : Nat) : Option Grant := (s.pho.grants.find? (fun g => decide (g.1 = 8 * t + w))).map (·.2)

/-- Drop a grant. -/
def dropGrant (t w : Nat) (s : State) : State := { s with pho.grants := Tab.drop (8 * t + w) s.pho.grants }

/-- Hold a grant. -/
def putGrant (t w : Nat) (g : Grant) (s : State) : State :=
  { s with pho.grants := Tab.place (8 * t + w) g (Tab.drop (8 * t + w) s.pho.grants) }

/-! ### Waveguides and paths (R243) -/

/-- The bit of a waveguide in its list. -/
def guideKey (t w : Nat) : Nat := 8 * t + w

/-- A waveguide, or a path, goes out of service or returns at the next frame boundary; before a tower's slots
run the change takes effect at once. -/
def changePath (kind : PathKind) (key : Nat) (up : Bool) (s : State) : State :=
  { s with pho.changes := s.pho.changes ++ [{ kind := kind, key := key, up := up }] }

/-- One change takes effect. -/
def applyPathChange (c : PathChange) (s : State) : State := match c.kind with
  | .egress => { s with pho.egressDown :=
      if c.up then s.pho.egressDown.filter (fun k => decide (k ≠ c.key)) else addOnce c.key s.pho.egressDown }
  | .ingress => { s with pho.ingressDown :=
      if c.up then s.pho.ingressDown.filter (fun k => decide (k ≠ c.key)) else addOnce c.key s.pho.ingressDown }
  | .path => { s with pho.pathOn := Tab.put false c.key c.up s.pho.pathOn }

/-- At a frame boundary every change that waits takes effect. -/
def applyPathChanges (s : State) : State :=
  s.pho.changes.foldl (fun s c => applyPathChange c s) { s with pho.changes := [] }

/-- A waveguide goes out of service: event 0x4001. -/
def guideDown (egress : Bool) (t w : Nat) (s : State) : State :=
  raise 0x4001 (phoItems t none (some w) none) (changePath (if egress then .egress else .ingress) (guideKey t w) false s)

/-- A waveguide returns to service: event 0x4002. -/
def guideUp (egress : Bool) (t w : Nat) (s : State) : State :=
  raise 0x4002 (phoItems t none (some w) none) (changePath (if egress then .egress else .ingress) (guideKey t w) true s)

/-- A tower's arbitration state starts afresh, as a destination and as a source, and so does what others keep
toward it (R238). -/
def resetArbitration (ts : List Nat) (s : State) : State :=
  let mine (key : Nat) : Bool := decide (key / 96 ∈ ts) || decide (key / 8 % 12 ∈ ts)
  { s with
    pho.sheepdogs := s.pho.sheepdogs.filter (fun g => decide (g.1 / 8 ∉ ts))
    pho.waiters := s.pho.waiters.filter (fun g => !mine g.1)
    pho.alarmed := s.pho.alarmed.filter (fun k => !mine k)
    pho.grants := s.pho.grants.filter (fun g => decide (g.1 / 8 ∉ ts) && decide (g.2.dest ∉ ts)) }

/-! ### Tap entries (R314 to R316) -/

/-- Fields of a tap entry (R315). -/
def tapKind (e : BitVec 64) : Nat := bits e 63 60
def tapUnit (e : BitVec 64) : Nat := bits e 59 56
def tapLane (e : BitVec 64) : Nat := bits e 51 46
def tapTemp (e : BitVec 64) : Nat := bits e 39 32
def tapKey (b : Nat) (e : BitVec 64) : Nat := b * 2 ^ 24 + bits e 63 40

/-- Round half away from zero. -/
def roundDiv (a : Int) (b : Nat) : Int := if 0 ≤ a then (2 * a + b) / (2 * b) else -((-2 * a + b) / (2 * b))

/-- The value a correction applies at a temperature in 0.1 °C (R316). -/
def appliedValue (e : BitVec 64) (temp : Int) : Int :=
  signed 16 (bits e 31 16) + roundDiv (signed 16 (bits e 15 0) * (temp - 10 * tapTemp e)) 640

/-- The temperature of a base die, in 0.1 °C. -/
def baseTemp (s : State) (b : Nat) : Int := Tab.look 0 s.pow.temps (24 + b)

/-- The correction of a kind, unit, guide, lane and index of a base die (R315, R316), none where no entry stands. -/
def correction (s : State) (b kind unit guide lane index : Nat) : Option Int :=
  let key := b * 2 ^ 24 + kind * 2 ^ 20 + unit * 2 ^ 16 + guide * 2 ^ 12 + lane * 2 ^ 6 + index
  (s.las.corrections.find? (fun x => decide (x.1 = key))).map (fun x =>
    appliedValue x.2 ((Tab.look none s.las.appliedAt b).getD (baseTemp s b)))

/-! ### Rings (R217, R310 to R312) -/

/-- The number of a ring. -/
def ringKey : Ring → Nat
  | .modulator t w k => (8 * t.val + w.val) * 36 + k.val
  | .fiber p f k => 3456 + (2 * p.val + f.val) * 36 + k.val
  | .steering a w b g => 4032 + ((a.val * 8 + w.val) * 12 + b.val) * 8 + g.val
  | .tickOutput j => 13248 + j.val

/-- The heater baseline that a calibration record stores for a ring, in units of 0.5 GHz. -/
def ringBaseline (s : State) : Ring → Option Int
  | .modulator t w k => correction s (baseOfTower t) 2 t w k 0
  | .fiber p f k => correction s (baseOfPort p) 2 (12 + p.val % 2) f k 0
  | .steering a w b g => correction s (baseOfTower a) 7 a w b g
  | .tickOutput j => correction s 0 2 14 0 (32 + j.val) 0

/-- A ring's loop. Before its first move its heater stands where the search of the start began: at the stored baseline, and
with none at the start of the sweep (R312). [DEDUCED, safe: log 177] -/
def ringLoop (s : State) (r : Ring) : RingLoop :=
  Tab.look { heater := 500 * (ringBaseline s r).getD 0 } s.las.rings (ringKey r)

/-- A steering ring of a path has no lock. [DEDUCED, unsafe: log 178] -/
def steeringOut (s : State) (a w b : Nat) : Bool :=
  (List.range 8).any (fun g => (Tab.look {} s.las.rings (4032 + ((a * 8 + w) * 12 + b) * 8 + g)).out)

/-! ### Carriers (R298, R308) -/

/-- The key of a laser or lamb. -/
def sourceKey (f i : Nat) : Nat := 36 * f + i

/-- A laser or lamb. -/
def source (s : State) (f i : Nat) : Source := Tab.look {} s.las.sources (sourceKey f i)

/-- The key of a lane on a guide. -/
def sendKey (f g k : Nat) : Nat := (8 * f + g) * 32 + k

/-- A wavelength group of a tower's waveguide is wholly lit on its own wavelengths (R308). -/
def groupLit (s : State) (t w i : Nat) : Bool :=
  (List.range 4).all (fun j =>
    decide (Tab.look 0 s.las.sendOn (sendKey t w (i + 8 * j)) = 0) && !(source s t (i + 8 * j)).dark)

/-! ### Lasers and lambs (R299, R322) -/

/-- Change a laser or lamb. -/
def changeSource (f i : Nat) (g : Source → Source) (s : State) : State :=
  { s with las.sources := Tab.change {} (sourceKey f i) g s.las.sources }

/-- State codes of 0x4400:01. -/
def lsIdle : Nat := 0
def lsWarned : Nat := 1
def lsSparing : Nat := 2
def lsRetired : Nat := 3
def lsStanding : Nat := 4
def lsParking : Nat := 5
def lsRecal : Nat := 6
def lsTick : Nat := 7
def lsStandby : Nat := 8

/-- The state code (R299: F12's LB3 is the tick source, LB2 the standby). -/
def sourceState (s : State) (f i : Nat) : Nat :=
  (source s f i).state.getD (if f = 12 ∧ i = 35 then lsTick else if f = 12 ∧ i = 34 then lsStandby else lsIdle)

/-- Put a state code. -/
def setSource (f i code : Nat) (lane : Option Nat) (s : State) : State :=
  changeSource f i (fun x => { x with state := some code, lane := lane }) s

/-- The payload items of R322: flock, lane or lamb, tower, plane or fiber, port, base die. [DESIGN CHOICE, safe: log
127] -/
def lasItems (f : Nat) (i guide : Option Nat) : List (Option Bytes) :=
  [b1 f, i.bind (fun n => b1 (if n < 32 then n else n + 32)), if f < 12 then b1 f else none, guide.bind b1,
   if f < 12 then none else guide.bind (fun g => b1 (2 * (f - 12) + g / 2)), b1 (baseOfFlock f)]

/-- The lowest-numbered lamb of a flock in a state. -/
def lambIn (s : State) (f code : Nat) : Option Nat := [0, 1, 2, 3].find? (fun j => decide (sourceState s f (32 + j) = code))

/-! ### The tick light (R309, R311) -/

/-- The tick source is to be spared, or its ring has left its band: the standby takes over at the next boundary of slot
0x80. [DEDUCED, safe: log 32] -/
def askTick (retire : Bool) (s : State) : State := { s with las.tickSwap := some (retire || s.las.tickSwap.getD false) }

/-- The standby takes over: event 0x440D. The old source becomes the standby when only its ring has left its band;
otherwise it is retired and the lowest idle spare lamb of F12 stands by. [DEDUCED, safe: log 32] -/
def swapTick (retire : Bool) (s : State) : State :=
  match lambIn s 12 lsTick, lambIn s 12 lsStandby with
  | some a, some b =>
    let s := setSource 12 (32 + b) lsTick none s
    let s := raise 0x440D (lasItems 12 (some (32 + b)) none) s
    if !retire then setSource 12 (32 + a) lsStandby none s
    else
      let s := setSource 12 (32 + a) lsRetired none s
      match lambIn s 12 lsIdle with
      | some c => setSource 12 (32 + c) lsStandby none s
      | none => raise 0x4406 (lasItems 12 (some (32 + b)) none) s
  | some a, none =>
    if !retire ∨ (source s 12 (32 + a)).exhausted then s
    else raise 0x4406 (lasItems 12 (some (32 + a)) none) (changeSource 12 (32 + a) (fun x => { x with exhausted := true }) s)
  | none, _ => s

/-- The boundary of slot 0x80: a change of the tick source that is due. [DEDUCED, safe: log 32] -/
def tickDue (s : State) : State := match s.las.tickSwap with
  | none => s
  | some retire => swapTick retire { s with las.tickSwap := none }

end Sys2Proof.Machine
end

