-- ==== Sys2Proof/Machine/Admission.lean ====
section
/-! DEFINITION. The admission checks of a graph image (R129 to R136, R139, R141, R543): each class answers the
detail and the argument of its first failure, or none. -/

namespace Sys2Proof.Machine

/-- Detail and argument of a failed check. -/
abbrev Check := Option (Nat × Nat)

/-- A check that fails with a detail when `bad` holds. -/
def failIf (bad : Bool) (detail arg : Nat) : Check := if bad then some (detail, arg) else none

/-- The first failure of a list. -/
def firstOf : List Check → Check
  | [] => none
  | some x :: _ => some x
  | none :: cs => firstOf cs

/-- `0` to `n − 1`, each checked in turn. -/
def eachOf (n : Nat) (f : Nat → Check) : Check := firstOf ((List.range n).map f)

/-- Place a check before those of tables further on in the image. -/
def placeCheck (x : Nat × Check) : List (Nat × Check) → List (Nat × Check)
  | [] => [x]
  | y :: ys => if x.1 < y.1 then x :: y :: ys else y :: placeCheck x ys

/-- The checks of tables, each with its table's offset, in the order in which the tables stand in the image (R139).
[DEDUCED, unsafe: log 157] -/
def inImageOrder (cs : List (Nat × Check)) : Check := firstOf ((cs.foldl (fun l c => placeCheck c l) []).map (·.2))

/-- Set bits of `w` from bit `lo` up to `hi`. -/
def anyBits (w hi lo : Nat) : Bool := decide (nbits w hi lo ≠ 0)

/-! ### Class IMAGE (R133 to R136, R147) -/

/-- Where a table of an image lies. -/
structure Extent where
  offset : Nat
  length : Nat
  deriving DecidableEq, Repr

/-- The towers of an image's mask. -/
def imgTowers (img : Bytes) : List Nat := maskTowers (imgMask img)

/-- Route entries of every cluster of a task. -/
def taskRouteCount (img : Bytes) (i : Nat) : Nat :=
  ((List.range 12).map (fun k => fieldAt img (taskRouteOff img i + 2 * k) 2)).sum

/-- Every table of an image, and every block its tasks name. -/
def imgExtents (img : Bytes) : List Extent :=
  let n := 12 * (imgTowers img).length
  [⟨imgCapOff img, 8 * imgCapCount img⟩, ⟨imgTemplate img, tmplLength img⟩, ⟨imgMapOff img, 32 * n⟩,
   ⟨imgSaveOff img, 8 * n⟩, ⟨imgTaskOff img, 64 * imgTaskCount img⟩, ⟨imgEdgeOff img, 8 * imgEdgeCount img⟩,
   ⟨imgGroupOff img, 64 * imgGroupCount img⟩, ⟨imgPowerOff img, 128⟩] ++
  (List.range (imgTaskCount img)).flatMap (fun i =>
    [⟨taskField img i 0x10 4, taskField img i 0x14 4⟩, ⟨taskRouteOff img i, 24 + 8 * taskRouteCount img i⟩])

/-- In-edges counted in the edge table. -/
def countInEdges (img : Bytes) (i : Nat) : Nat :=
  ((List.range (imgEdgeCount img)).filter (fun e => decide (edgeDest (edgeWord img e) = i))).length

/-- A route entry breaks its encoding (R89). -/
def routeBad (w : BitVec 64) : Bool :=
  decide (routeIn w > 4) || decide (routeOut w > 4) || decide (routeLength w = 0) || decide (routeCombine w = 3) ||
    (decide (routeCombine w = 0) && decide (routeGroup w ≠ 0)) || w.getLsbD 15 ||
    (decide (routeIn w ≠ 4 ∧ routeOut w ≠ 4) && decide (routeLine w ≠ 0))

/-- A task descriptor breaks its encoding (R135). -/
def taskBad (img : Bytes) (i : Nat) : Bool :=
  let writes := decide (taskSkipPolicy img i = 1 ∨ taskSkipPolicy img i = 2)
  decide (taskField img i 0 2 ≠ i) || anyBits (taskField img i 2 1) 3 0 || !nbit (imgMask img) (taskTower img i) ||
    nbit (taskFlags img i) 3 || anyBits (taskFlags img i) 7 6 || decide (taskSkipPolicy img i = 3) ||
    anyBits (taskClusters img i) 15 12 || !decide (1 ≤ taskSpan img i ∧ taskSpan img i ≤ 16) ||
    decide (taskInEdges img i ≠ countInEdges img i) || decide (taskField img i 0x10 4 % 64 ≠ 0) ||
    decide (taskRouteOff img i % 64 ≠ 0) || decide (taskFirstEdge img i + taskOutEdges img i > imgEdgeCount img) ||
    (decide (taskSkipPolicy img i ≠ 2) && decide (taskSource img i ≠ 0)) ||
    (!writes && (decide (taskOutput img i ≠ 0) || decide (taskOutLength img i ≠ 0))) ||
    decide (taskField img i 0x26 2 ≠ 0) || decide (taskField img i 0x30 16 ≠ 0) ||
    (List.range 12).any (fun k => (taskRoutes img i k).any routeBad)

/-- An edge descriptor breaks its encoding (R136). -/
def edgeBad (img : Bytes) (e : Nat) : Bool :=
  let w := edgeWord img e
  decide (edgeDest w ≥ imgTaskCount img) || decide (edgeKind w > 1) || anyBits w 38 0 ||
    (decide (edgeKind w = 0) && (decide (edgeBit w ≠ 0) || edgeSense w))

/-- An expert group entry breaks its encoding (R147). -/
def groupBad (img : Bytes) (i : Nat) : Bool :=
  let e := groupExperts img i
  anyBits (groupField img i 0 1) 7 4 || !decide (1 ≤ e ∧ e ≤ 64) ||
    !decide (1 ≤ groupK img i ∧ groupK img i ≤ 8 ∧ groupK img i ≤ e) || anyBits (groupFlags img i) 7 3 ||
    decide (groupQuota img i = 0) || decide (groupTokenBytes img i % 64 ≠ 0) || decide (groupTokenBytes img i > 16384) ||
    decide (groupField img i 8 8 ≠ 0) || decide (groupField img i 0x30 16 ≠ 0) ||
    (List.range e).any (fun x => !nbit (imgMask img) (groupPlacement img i x))

/-- The header's own fields. -/
def headerBad (img : Bytes) : Bool :=
  decide (imgMagic img ≠ 0x4C584731) || decide (imgGroupCount img > 16) || decide (fieldAt img 7 1 ≠ 0) ||
    anyBits (imgMask img) 15 12 || decide (imgTaskCount img = 0) || decide (fieldAt img 0x2A 2 ≠ 0) ||
    (decide (imgGroupCount img = 0) && decide (imgGroupOff img ≠ 0)) ||
    [imgCapOff img, imgTemplate img, imgMapOff img, imgSaveOff img, imgTaskOff img, imgEdgeOff img, imgGroupOff img,
      imgPowerOff img].any (fun o => decide (o % 64 ≠ 0))

/-- A check of every tower's part of a table; it names the tower. -/
def eachTower (img : Bytes) (detail : Nat) (bad : Nat → Nat → Bool) : Check :=
  firstOf ((imgTowers img).map (fun t => failIf ((List.range 12).any (bad (maskIndex (imgMask img) t))) detail t))

/-- The task an edge leaves, 0 where none does. [DEDUCED, unsafe: log 157] -/
def edgeSource (img : Bytes) (e : Nat) : Nat :=
  ((List.range (imgTaskCount img)).find? (fun i =>
    decide (taskFirstEdge img i ≤ e ∧ e < taskFirstEdge img i + taskOutEdges img i))).getD 0

/-- The whole image with its check field taken as zero. -/
def imgCheckOk (img : Bytes) : Bool :=
  decide (imgCheck img = (crc32 (overlay img 0x0C (zeros 4))).toNat)

/-- Class 0x01. -/
def checkImage (img : Bytes) : Check := firstOf [
  failIf (decide (img.length < 64)) 2 0,
  failIf (!imgCheckOk img) 1 0,
  failIf (decide (imgLength img ≠ img.length) ||
    (imgExtents img).any (fun x => decide (x.offset + x.length > img.length))) 2 0,
  failIf (headerBad img) 3 0,
  inImageOrder [
    (imgCapOff img, failIf ((List.range (imgCapCount img)).any (fun i => anyBits (imgCap img i) 31 17)) 3 0),
    (imgMapOff img, eachTower img 3 (fun ti k => decide (fieldAt (imgBankMap img ti k) 0x1D 3 ≠ 0))),
    (imgSaveOff img, eachTower img 3 (fun ti k => anyBits (imgSaveMask img ti k) 63 56)),
    (imgTaskOff img, eachOf (imgTaskCount img) (fun i => failIf (taskBad img i) 3 i)),
    (imgEdgeOff img, eachOf (imgEdgeCount img) (fun e => failIf (edgeBad img e) 3 (edgeSource img e))),
    (imgGroupOff img, eachOf (imgGroupCount img) (fun i => failIf (groupBad img i) 3 0))],
  failIf ((List.range (imgTaskCount img)).all (fun i => decide (taskInEdges img i ≠ 0))) 3 0]

/-! ### Classes CAPABILITY and PARTITION (R129, R131, R132) -/

/-- Scratchpad of a cluster in KiB, less 256 for a retired bank and 128 for a pen half (R84); a segment in dual-port mode
is one bank. [DESIGN CHOICE, unsafe: log 143] -/
def clusterKiB (s : State) (t k : Nat) : Nat :=
  let m := Tab.look 0 s.spad.retired (clusterKey t k)
  let mode := Tab.look 0 s.spad.penModes (clusterKey t k)
  let pen (g : Nat) : Nat := let n := popcount 2 (m / 2 ^ (40 + 2 * g))
    if nbit mode g ∧ n ≠ 0 then 256 else 128 * n
  12288 - 256 * popcount 40 m - ((List.range 8).map pen).sum

/-- The scratchpad capability over some towers. -/
def scratchpadKiB (s : State) (ts : List Nat) : Nat :=
  (leastOf (ts.flatMap (fun t => (List.range 12).map (clusterKiB s t)))).getD 12288

/-- The capabilities of R132. -/
def capabilities (kib : Nat) : List (Nat × Nat) :=
  [(0x0010, 0x7FF), (0x0011, 0x20), (0x0012, 1), (0x0013, 0x1F), (0x0014, 3), (0x0020, 12), (0x0021, 12), (0x0022, kib),
   (0x0023, 2048), (0x0024, 4096), (0x0025, 16384), (0x0026, 16384), (0x0030, 0xF), (0x0031, 16), (0x0032, 8),
   (0x0040, 8), (0x0041, 64), (0x0042, 16), (0x0050, 64), (0x0060, 4)]

/-- The set that 0x3400:01 reports: the scratchpad value is the smallest over the towers in service. -/
def capabilityBytes (s : State) : Bytes :=
  ((capabilities (scratchpadKiB s (allTowers.filter (towerUp s)))).map
    (fun c => leBytes 2 c.1 ++ zeros 2 ++ leBytes 4 c.2)).flatten

/-- One capability descriptor. -/
def checkCap (kib d : Nat) : Check :=
  let id := nbits d 15 0
  let want := nbits d 63 32
  match (capabilities kib).find? (fun c => decide (c.1 = id)) with
  | none => some (1, id)
  | some (_, v) =>
    let met := if nbit d 16 then (List.range 32).all (fun b => !nbit want b || nbit v b) else decide (v ≥ want)
    failIf (!met) 2 id

/-- Class 0x03: the descriptors, then the operations in task code. -/
def checkCapability (s : State) (p : Nat) (img : Bytes) (code : CodeReport) : Check :=
  inImageOrder [
    (imgCapOff img, eachOf (imgCapCount img) (fun i => checkCap (scratchpadKiB s (towersOf s p)) (imgCap img i))),
    ((code.capability.map (fun c => taskCodeOff img c.1.toNat)).getD 0, code.capability.map (·.2))]

/-- Class 0x04. -/
def checkPartition (s : State) (p : Nat) (img : Bytes) : Check := firstOf [
  failIf (decide (imgTowers img ≠ towersOf s p) || decide (imgTowers img = [])) 1 0,
  failIf (decide ((graphsOf s p).length ≥ 4)) 2 0]

/-! ### Class TEMPLATE (R44 to R51, R225) -/

/-- A slot of a template: frame index, tower, plane and slot, with its descriptor. -/
structure SlotAt where
  frame : Nat
  tower : Nat
  plane : Nat
  slot : Nat
  word : Nat
  deriving DecidableEq, Repr

/-- The slots of one frame index, in table order. -/
def frameSlots (img : Bytes) (f : Nat) : List SlotAt :=
  (maskTowers (tmplMask img)).flatMap (fun t => (List.range 8).flatMap (fun w => (List.range 256).map (fun n =>
    ⟨f, t, w, n, slotWord img f t w n⟩)))

/-- Every slot of a template. -/
def allSlots (img : Bytes) : List SlotAt := (List.range (tmplPeriod img)).flatMap (frameSlots img)

/-- A slot descriptor breaks its encoding (R46, R47). -/
def slotBad (w : Nat) : Bool :=
  let ty := slotType w
  decide (ty > 5) || anyBits w 7 0 ||
    (if ty = 1 ∨ ty = 2 then decide (slotDest w > 11) else decide (slotDest w ≠ 15)) ||
    (decide (ty ≠ 1 ∧ ty ≠ 2 ∧ ty ≠ 3) && decide (slotFlow w ≠ 0)) || (slotLight w && decide (ty ≠ 2))

/-- The phase table breaks R48. -/
def phasesBad (img : Bytes) : Bool :=
  let n := tmplPhaseCount img
  let w (i : Nat) : Nat := phaseWord img i
  (List.range n).any (fun i => decide (phaseFrame (w i) ≥ tmplPeriod img) || decide (phaseEnd (w i) < phaseStart (w i)) ||
    anyBits (w i) 21 0) ||
  (List.range (n - 1)).any (fun i =>
    decide (phaseFrame (w i) > phaseFrame (w (i + 1))) ||
      decide (phaseFrame (w i) = phaseFrame (w (i + 1)) ∧ phaseEnd (w i) ≥ phaseStart (w (i + 1)))) ||
  (List.range (tmplPeriod img)).any (fun f => decide (frameCost img f > tmplBudget img))

/-- A template's fields, or its check word (R44). [DESIGN CHOICE, unsafe: log 132] -/
def templateBad (img : Bytes) : Bool :=
  let d := tmplDesign img
  let body := slice img (imgTemplate img) (tmplLength img)
  decide (tmplCheck img ≠ (crc32 (overlay body 0x1C (zeros 4))).toNat) || decide (tmplVersion img ≠ 3) ||
    decide (tmplCode img > 3) || !decide (1 ≤ tmplPeriod img ∧ tmplPeriod img ≤ 16) || anyBits (tmplMask img) 15 12 ||
    decide (tmplBudget img = 0) || !decide (400 ≤ d ∧ d ≤ 1200 ∧ d % 50 = 0) ||
    !decide (1 ≤ tmplPhasesPerFrame img ∧ tmplPhasesPerFrame img ≤ 16) || decide (tmplField img 0x0B 1 ≠ 0) ||
    decide (tmplSlotOff img % 64 ≠ 0) || decide (tmplPhaseOff img % 8 ≠ 0) || decide (tmplField img 0x16 6 ≠ 0) ||
    (allSlots img).any (fun x => slotBad x.word) || phasesBad img

/-- The tower a SCHED, COLL or EXPERT slot sends to (R226). -/
def slotTarget (img : Bytes) (x : SlotAt) : Option Nat :=
  match slotType x.word with
  | 1 | 2 => some (slotDest x.word)
  | 3 => some (expertDest img x.frame x.tower x.plane x.slot)
  | _ => none

/-- One slot breaks the receive rules (R225); `xs` are the slots of its frame. -/
def receiveBad (s : State) (img : Bytes) (xs : List SlotAt) (x : SlotAt) : Bool :=
  let ts := maskTowers (tmplMask img)
  let ty := slotType x.word
  let here := xs.filter (fun y => decide (y.plane = x.plane ∧ y.slot = x.slot))
  match slotTarget img x with
  | none => decide (ty = 4) && here.any (fun y => decide (slotType y.word ≠ 4))
  | some d =>
    let rivals := here.filter (fun y => decide (y.tower ≠ x.tower ∧ slotTarget img y = some d))
    let sum (y : SlotAt) : Bool := decide (slotType y.word = 2 ∧ slotFlow y.word = slotFlow x.word) && slotLight y.word
    decide (d = x.tower) && decide (ty ≠ 3) ||
      !(decide (rivals = []) || (sum x && rivals.all sum && decide (rivals.length ≤ 7))) ||
      (decide (ty = 3) && here.any (fun y => decide (slotType y.word ≠ 3 ∨ slotFlow y.word ≠ slotFlow x.word))) ||
      (decide (ts.length = 1) && decide (ty = 2 ∨ ty = 3)) || !pathUp s x.tower d x.plane

/-- A light-summed slot without a RESERVE slot after it on its receiver, in its frame. -/
def replayBad (xs : List SlotAt) (x : SlotAt) : Bool :=
  decide (slotType x.word = 2) && slotLight x.word &&
    !xs.any (fun y => decide (y.tower = slotDest x.word ∧ slotType y.word = 4 ∧ y.slot > x.slot))

/-- The first slot of a template that fails, by frame. -/
def eachFrame (img : Bytes) (detail : Nat) (bad : List SlotAt → SlotAt → Bool) : Check :=
  eachOf (tmplPeriod img) (fun f =>
    let xs := frameSlots img f
    match xs.find? (bad xs) with
    | none => none
    | some x => some (detail, x.tower))

/-- The slack floor fails (R51). -/
def slackBad (a b : Nat) : Bool := decide (a < b + (a + 39) / 40)

/-- Class 0x05: the bullets of R49 in order. -/
def checkTemplate (s : State) (p : Nat) (img : Bytes) : Check := firstOf [
  failIf (templateBad img) 1 0,
  failIf (decide (tmplCode img ≠ s.frame.code.toNat)) 2 0,
  failIf (decide (maskTowers (tmplMask img) ≠ towersOf s p)) 3 0,
  eachFrame img 4 (fun _ x => decide (slotType x.word = 1 ∨ slotType x.word = 2) && !nbit (tmplMask img) (slotDest x.word)),
  eachFrame img 5 (receiveBad s img),
  eachFrame img 6 replayBad,
  failIf (slackBad (available s (tmplMask img)) (tmplBudget img)) 7 0]

/-! ### Class SCRATCHPAD (R73, R75, R130) -/

/-- The owner codes that stand in a map. -/
def mapCodes (map : Bytes) : List Nat :=
  (List.range 40).map (fun b => mapOwner map b 0) ++
    (List.range 16).map (fun i => nbits (fieldAt map (0x15 + i / 2) 1) (4 * (i % 2) + 3) (4 * (i % 2)))

/-- The map gives a retired bank an owner; a dual-port segment is retired with either half. -/
def namesRetired (map : Bytes) (retired : Nat) : Bool :=
  (List.range 56).any (fun b =>
    let dual := decide (40 ≤ b) && nbit (fieldAt map 0x14 1) ((b - 40) / 2)
    nbit retired b && (decide (mapOwner map b 0 ≠ 15) || (dual && decide (mapOwner map b 1 ≠ 15))))

/-- Cases 4 and 5 of R75, and R130, for the map of a cluster. -/
def checkMap (s : State) (p : Nat) (img : Bytes) (t k : Nat) : Check :=
  let ti := maskIndex (imgMask img) t
  let map := imgBankMap img ti k
  firstOf [
    failIf (namesRetired map (Tab.look 0 s.spad.retired (clusterKey t k))) 4 t,
    failIf ((mapCodes map).any (fun c => decide (0xB ≤ c ∧ c ≤ 0xE))) 5 t,
    failIf ((graphsOf s p).any (fun g => decide (imgBankMap g.image ti k ≠ map))) 6 t]

/-- Class 0x06: cases 1 to 3 of R75 show in task code, the others in the maps. -/
def checkScratchpad (s : State) (p : Nat) (img : Bytes) (code : CodeReport) : Check := inImageOrder [
  (imgMapOff img, firstOf ((imgTowers img).flatMap (fun t => (List.range 12).map (checkMap s p img t)))),
  ((code.scratchpad.map (fun c => taskCodeOff img c.2.toNat)).getD 0,
    code.scratchpad.map (fun c => (c.1.val + 1, c.2.toNat)))]

/-! ### Class NETWORK (R89 to R92) -/

/-- The cycles of the phase a task's route entry names: the phase of that index within its frame, among the
entries of the task's span; 0 where there is none. [DESIGN CHOICE, unsafe: log 142] -/
def routePhaseCycles (img : Bytes) (i phase : Nat) : Nat :=
  let n := tmplPhaseCount img
  let span := (List.range (taskSpan img i)).map (fun j => (taskFirstPhase img i + j) % max n 1)
  let within (e : Nat) : Nat :=
    ((List.range e).filter (fun x => decide (phaseFrame (phaseWord img x) = phaseFrame (phaseWord img e)))).length
  (leastOf ((span.filter (fun e => decide (within e = phase))).map (fun e => phaseCycles (phaseWord img e)))).getD 0

/-- Two entries share a cycle. -/
def overlaps (a b : BitVec 64) : Bool :=
  decide (routePhase a = routePhase b) && decide (routeStart a < routeStart b + routeLength b) &&
    decide (routeStart b < routeStart a + routeLength a)

/-- Two entries have the same phase, start cycle and length. -/
def sameSpan (a b : BitVec 64) : Bool :=
  decide (routePhase a = routePhase b ∧ routeStart a = routeStart b ∧ routeLength a = routeLength b)

/-- Two entries meet on a port and are neither one multicast nor a combine set. [DESIGN CHOICE, unsafe: log 141] -/
def portClash (a b : BitVec 64) : Bool :=
  overlaps a b &&
    ((decide (routeIn a = routeIn b) && !(sameSpan a b && decide (routeOut a ≠ routeOut b))) ||
     (decide (routeOut a = routeOut b) && decide (routeCombine a = 0 ∧ routeCombine b = 0)))

/-- Two entries on one output break R91. -/
def combineClash (a b : BitVec 64) : Bool :=
  overlaps a b && decide (routeOut a = routeOut b) &&
    !(sameSpan a b && decide (routeCombine a = routeCombine b ∧ routeGroup a = routeGroup b ∧ routeIn a ≠ routeIn b) &&
      (decide (routeOut a ≠ 4 ∨ routeIn a = 4 ∨ routeIn b = 4) || decide (routeLine a = routeLine b)))

/-- An entry whose input and output are both local stands outside a combine set. -/
def lonelyLocal (es : List (BitVec 64)) (a : BitVec 64) : Bool :=
  decide (routeIn a = 4 ∧ routeOut a = 4) && !es.any (fun b => decide (b ≠ a ∧ routeOut b = 4) && overlaps a b)

/-- The entries of a router, each with the ones after it. -/
def laterPairs : List (BitVec 64) → List (BitVec 64 × BitVec 64)
  | [] => []
  | a :: as => as.map (fun b => (a, b)) ++ laterPairs as

/-- A line sent to another router is not taken there two cycles later. -/
def untaken (img : Bytes) (i k : Nat) (a : BitVec 64) : Bool :=
  match routerAt k (routeOut a) with
  | none => false
  | some r => !(taskRoutes img i r).any (fun b =>
      decide (routePhase b = routePhase a ∧ routeIn b = facingPort (routeOut a) ∧ routeStart b = routeStart a + 2 ∧
        routeLength a ≤ routeLength b))

/-- A local endpoint runs past line 0x5FFF, or into a bank that NET does not own. [DESIGN CHOICE, unsafe: log 140] -/
def endpointBad (map : Bytes) (a : BitVec 64) : Bool :=
  let mode := fieldAt map 0x14 1
  decide (routeIn a = 4 ∨ routeOut a = 4) && (decide (routeLine a + routeLength a > 0x6000) ||
    (List.range (routeLength a)).any (fun n =>
      let b := bankOf mode ((routeLine a + n) * 512)
      !(decide (mapOwner map b 0 = 9) || (bankDual mode b && decide (mapOwner map b 1 = 9)))))

/-- Class 0x07 for one task: the cases of R92 in order. -/
def checkRoutes (img : Bytes) (i : Nat) : Check :=
  let rs (k : Nat) : List (BitVec 64) := taskRoutes img i k
  let map (k : Nat) : Bytes := imgBankMap img (maskIndex (imgMask img) (taskTower img i)) k
  let any (f : Nat → Bool) : Bool := (List.range 12).any f
  firstOf [
    failIf (any (fun k => decide ((rs k).length > 2048))) 1 i,
    failIf (any (fun k => (rs k).any (fun a =>
      decide (routeStart a + routeLength a > routePhaseCycles img i (routePhase a))))) 2 i,
    failIf (any (fun k => (laterPairs (rs k)).any (fun x => portClash x.1 x.2))) 3 i,
    failIf (any (fun k => (laterPairs (rs k)).any (fun x => combineClash x.1 x.2) || (rs k).any (lonelyLocal (rs k)))) 4 i,
    failIf (any (fun k => (rs k).any (untaken img i k))) 5 i,
    failIf (any (fun k => (rs k).any (endpointBad (map k)))) 6 i]

/-! ### Classes SLOTS, TASK_TABLE, DRAM, PHASE_POWER and START -/

/-- The dispatch of a group does not fit its EXPERT slots in some frame (R148). -/
def dispatchBad (s : State) (img : Bytes) (code : CodeReport) (i src : Nat) : Bool :=
  let g := groupNumber img i
  let routers := (code.routers.find? (fun r => decide (r.1 = g ∧ r.2.1 = src))).elim 0 (·.2.2)
  (imgTowers img).any (fun dst => decide (src ≠ dst) && (List.range (tmplPeriod img)).any (fun f =>
    let room := ((List.range 8).map (fun w => slotPayload (tmplCode img) false (pathHalf s src dst w) *
      ((List.range 256).filter (fun n =>
        decide (slotType (slotWord img f src w n) = 3 ∧ slotFlow (slotWord img f src w n) = g ∧
          expertDest img f src w n = dst))).length)).sum
    let onDst := ((List.range (groupExperts img i)).filter (fun e => decide (groupPlacement img i e = dst))).length
    decide (room < groupQuota img i * groupTokenBytes img i * onDst * routers)))

/-- A task names a phase beyond the table, or no entry of its span budgets its clusters. -/
def spanBad (img : Bytes) (i : Nat) : Bool :=
  let n := tmplPhaseCount img
  decide (taskFirstPhase img i ≥ n) || (decide (taskClusters img i ≠ 0) &&
    (List.range (taskSpan img i)).all (fun j => decide (phaseCycles (phaseWord img ((taskFirstPhase img i + j) % max n 1)) = 0)))

/-- Class 0x08. -/
def checkSlots (s : State) (img : Bytes) (code : CodeReport) : Check := inImageOrder [
  (imgGroupOff img, eachOf (imgGroupCount img) (fun i =>
    firstOf ((imgTowers img).map (fun t => failIf (dispatchBad s img code i t) 1 t)))),
  (imgTaskOff img, eachOf (imgTaskCount img) (fun i => failIf (spanBad img i) 2 i))]

/-- Task entries of an image on a die. -/
def tasksOnDie (img : Bytes) (t : Nat) : Nat :=
  ((List.range (imgTaskCount img)).filter (fun i => decide (taskTower img i = t))).length

/-- Out-edges of an image on a die; with `far`, only those whose destination is on another die. -/
def edgesOnDie (img : Bytes) (t : Nat) (far : Bool) : Nat :=
  (((List.range (imgTaskCount img)).filter (fun i => decide (taskTower img i = t))).map (fun i =>
    ((List.range (taskOutEdges img i)).filter (fun e =>
      !far || decide (taskTower img (edgeDest (edgeWord img (taskFirstEdge img i + e))) ≠ t))).length)).sum

/-- Class 0x09. -/
def checkTables (s : State) (p : Nat) (img : Bytes) : Check :=
  let imgs := (graphsOf s p).map (·.image) ++ [img]
  let all := s.parts.graphs.map (·.image) ++ [img]
  firstOf [
    firstOf ((imgTowers img).map (fun t => failIf (decide ((imgs.map (tasksOnDie · t)).sum > 4096)) 1 t)),
    firstOf ((imgTowers img).map (fun t => failIf (decide ((imgs.map (edgesOnDie · t false)).sum > 16384)) 2 t)),
    failIf (decide ((all.map (fun g => (allTowers.map (fun t => edgesOnDie g t true)).sum)).sum > 16384)) 3 0]

/-- Bytes of the banks of a save mask in a cluster (R70, R134). -/
def saveBytes (mask mode : Nat) : Nat :=
  ((List.range 56).map (fun b =>
    if !nbit mask b then 0
    else if b < 40 then 2 ^ 18
    else if nbit mode ((b - 40) / 2) then (if b % 2 = 0 then 2 ^ 18 else 0)
    else 2 ^ 17)).sum

/-- The save-mask volume of a tower of an image. -/
def saveVolume (img : Bytes) (t : Nat) : Nat :=
  let ti := maskIndex (imgMask img) t
  ((List.range 12).map (fun k => saveBytes (imgSaveMask img ti k) (fieldAt (imgBankMap img ti k) 0x14 1))).sum

/-- The save area of a run on a tower (R141). -/
def saveArea (img : Bytes) (t : Nat) : Nat := saveVolume img t + 2 ^ 20

/-- A tower's free DRAM (R141). -/
def freeDram (s : State) (t : Nat) : Nat :=
  let loaded := s.parts.graphs.filter (fun g => nbit (imgMask g.image) t)
  let live := s.parts.runs.filter (fun r => nbit (imgMask (runImage s r)) t)
  2 ^ 36 - (loaded.map (fun g => imgFootprint g.image * 2 ^ 20)).sum - (live.map (fun r => saveArea (runImage s r) t)).sum

/-- Class 0x0A for a LOAD. -/
def checkDram (s : State) (img : Bytes) : Check :=
  firstOf ((imgTowers img).map (fun t => failIf (decide (imgFootprint img * 2 ^ 20 > freeDram s t)) 1 t))

/-- Class 0x0B (R423). -/
def checkPower (s : State) (img : Bytes) : Check :=
  eachOf (tmplPhaseCount img) (fun i =>
    failIf (decide (fieldAt img (imgPowerOff img + 2 * phaseClass (phaseWord img i)) 2 > dictNat s 0x200007)) 1 0)

/-- Class 0x0E (R543), in Foal mode. -/
def checkStart (s : State) (img : Bytes) : Check :=
  if !s.start.foal then none
  else firstOf [
    failIf ((allSlots img).any (fun x => !decide (slotType x.word = 0 ∨ slotType x.word = 5))) 1 0,
    firstOf ((imgTowers img).map (fun t => failIf (!towerUp s t) 2 t))]

/-- The first check that fails: class, detail and argument. -/
def admission (s : State) (p : Nat) (img : Bytes) (code : CodeReport) : Option (Nat × Nat × Nat) :=
  let classes : List (Nat × Check) :=
    [(1, checkImage img), (2, failIf (decide (imgVersion img ≠ 3)) 1 (imgVersion img)),
     (3, checkCapability s p img code), (4, checkPartition s p img), (5, checkTemplate s p img),
     (6, checkScratchpad s p img code), (7, eachOf (imgTaskCount img) (checkRoutes img)), (8, checkSlots s img code),
     (9, checkTables s p img), (10, checkDram s img), (11, checkPower s img), (14, checkStart s img)]
  (classes.find? (fun c => c.2.isSome)).bind (fun c => c.2.map (fun d => (c.1, d.1, d.2)))

end Sys2Proof.Machine
end

