-- ==== Sys2Proof/Machine/Tasks.lean ====
section
/-! DEFINITION. The commands of partitions, graphs, runs and tasks (R128 to R160). -/

namespace Sys2Proof.Machine

/-! ### The partition map (R128) -/

/-- The partition of a tower in a map. -/
def mapPartition (v t : Nat) : Nat := nbits v (4 * t + 3) (4 * t)

/-- The towers a map gives a partition. -/
def mapTowers (v p : Nat) : List Nat := allTowers.filter (fun t => decide (mapPartition v t = p))

/-- Some rule refuses a map because of the device's state (R128, R463, R482, R487). [DEDUCED, safe: log 13] -/
def mapRefused (s : State) (v : Nat) : Bool :=
  let old := dictNat s 0x340002
  let moved := allTowers.filter (fun t => decide (mapPartition old t ≠ mapPartition v t))
  moved.any (fun t =>
    let p := mapPartition old t
    let q := mapPartition v t
    (decide (p < 12) && (decide (graphsOf s p ≠ []) || decide (runsOf s p ≠ []) || tdiHeld s p)) ||
      (decide (q < 12) && (tdiHeld s q || decide (p < 12) || decide (t ∈ s.sec.unclean)))) ||
  allTowers.any (fun p => (mapTowers v p).any (fun t =>
    decide (towerSecure s t ≠ towerSecure s p) ||
      (match ownerOf s p with
        | none => false
        | some f => decide (functionSecure s f ≠ towerSecure s t))))

/-- The effect of a write to 0x3400:02. [DEDUCED, safe: log 13; DESIGN CHOICE, unsafe: log 155] -/
def partitionMapAct : WriteAct := fun value s =>
  let v := leNat value
  let old := dictNat s 0x340002
  let bad (t : Nat) : Bool :=
    let p := mapPartition v t
    decide (p ≠ 15) && (decide (p > 11) || decide ((mapTowers v p).head? ≠ some p))
  let coming : Bool := match s.sec.pendingMap with
    | none => false
    | some m => mapRefused (setDict 0x600001 m s) v
  if nbits v 63 48 ≠ 0 ∨ allTowers.any bad then refuseRange 0
  else if mapRefused s v ∨ coming then refuseState
  else
    let left := allTowers.filter (fun t => decide (mapPartition old t < 12 ∧ mapPartition old t ≠ mapPartition v t))
    .done (setDictNat 0x340002 8 v { s with
      sec.unclean := left.foldl (fun l t => addOnce t l) s.sec.unclean
      sec.former := left.foldl (fun f t => Tab.put 0 t (mapPartition old t + 1) f) s.sec.former })

/-- PARTITION_MAP_WRITE (R128). -/
def execPartitionMapWrite (req : Req) (value : Bytes) (s : State) : Host.Outcome State Fault Refusal :=
  .next (serveWrite req 0x340002 value partitionMapAct s)

/-! ### Graph-queue commands (R137, R138, R436, R483, R499) -/
def eCode (e : BitVec 512) : Nat := bits e 7 0
def eHandle (e : BitVec 512) : BitVec 16 := BitVec.ofNat 16 (bits e 31 16)
def eRun (e : BitVec 512) : BitVec 32 := BitVec.ofNat 32 (bits e 63 32)
def eAddress (e : BitVec 512) : Nat := bits e 127 64
def eLength (e : BitVec 512) : Nat := bits e 159 128
def ePriority (e : BitVec 512) : Nat := bits e 9 8
def eByPriority (e : BitVec 512) : Bool := e.getLsbD 10
def eIterations (e : BitVec 512) : Nat := bits e 95 64
def eBindings (e : BitVec 512) : Nat := bits e 111 96
def eTable (e : BitVec 512) : Nat := bits e 191 128

/-- The command a partition performs next: the first fetched entry, while its records are not held back, no
firmware takes over (R475) and no LOAD or RUN before it is under way. -/
def nextEntry (s : State) (p : Nat) : Option (BitVec 32 × BitVec 512) :=
  if !(queueSet s p).enabled ∨ partitionHeld s p ∨ s.sec.activating.isSome ∨
      s.parts.loads.any (fun l => decide (l.partition = p)) ∨ s.parts.binds.any (fun b => decide (b.partition = p)) then none
  else (queueSet s p).fetched.head?

/-- The active mirrors a command it accepts, with its queue position and, for LOAD, the handle assigned (R448). -/
def mirror (p : Nat) (pos : BitVec 32) (handle : BitVec 16) (img : Bytes) (e : BitVec 512) (s : State) : State :=
  let c : TwinCommand := { partition := p, position := pos, handle := handle, entry := e, image := img }
  if s.twin.state = 2 ∧ s.twin.paired then { s with twin.commands := s.twin.commands ++ [c] } else s

/-- A LOAD or RUN is refused (R140): its record, event 0x3402 and the count. -/
def refuseCommand (p : Nat) (run : BitVec 32) (cls detail arg : Nat) (s : State) : State :=
  reportCommand p run ccRefused (256 * cls + detail) arg
    (raise 0x3402 (taskItems p (if run = 0 then none else some run) none none none none) (count32 0x340004 1 s))

/-- A command completes REFUSED, a LOAD or RUN as R140 states. [DEDUCED, safe: log 158] -/
def turnAway (p code : Nat) (run : BitVec 32) (cls detail : Nat) (s : State) : State :=
  if code = 1 ∨ code = 3 then refuseCommand p run cls detail 0 s
  else reportCommand p run ccRefused (256 * cls + detail) 0 s

/-- Class and detail with which a partition's commands are refused: while the package does not serve runs (R436), and
while the partition's TDI is in ERROR (R483). [DEDUCED, safe: log 158] -/
def unserved (s : State) (p : Nat) : Option (Nat × Nat) :=
  if !twinServes s then some (0x0C, 1) else if tdiError s p then some (0, 0) else none

/-- Perform the next entry if `is` holds of it, or turn it away. -/
def command (p : Nat) (is : BitVec 512 → Bool) (run : BitVec 32)
    (act : BitVec 32 → BitVec 512 → State → State) (s : State) : State :=
  match nextEntry s p with
  | none => s
  | some (pos, e) =>
    if !is e then s
    else
      let s := changeQueue p (fun q => { q with fetched := q.fetched.tail }) s
      match unserved s p with
      | some (cls, detail) => turnAway p (eCode e) run cls detail s
      | none => act pos e s

/-- LOAD (R137): the image is read from host memory. [DEDUCED, safe: log 90] -/
def startLoad (p address length : Nat) (pos : BitVec 32) (e : BitVec 512) (s : State) : State :=
  let load : Load := { partition := p, address := address, length := length, position := pos, entry := e }
  let read : HostRead :=
    { tag := hostTag s, function := partitionFunction s p, address := address, length := length, for_ := .image p }
  { s with
    parts.loads := s.parts.loads ++ [load]
    host.reads := s.host.reads ++ [read]
    host.nextTag := hostTag s + 1 }

def execLoad (partition : Partition) (address : BitVec 64) (length : BitVec 32) (s : State) :
    Host.Outcome State Fault Refusal :=
  .next (command partition
    (fun e => decide (eCode e = 1 ∧ eAddress e = address.toNat ∧ eLength e = length.toNat)) 0
    (startLoad partition address.toNat length.toNat) s)

/-- The bank maps of a partition's first graph come into force (R73, R74). [DESIGN CHOICE, safe: log 118] -/
def applyMaps (img : Bytes) (s : State) : State :=
  (imgTowers img).foldl (fun s t => (List.range 12).foldl (fun s k =>
    let c := clusterKey t k
    let map := imgBankMap img (maskIndex (imgMask img) t) k
    let mode := fieldAt map 0x14 1
    let was := Tab.look 0 s.spad.penModes c
    let changed := (List.range 8).filter (fun g => nbit mode g ≠ nbit was g)
    let s := changed.foldl (fun s g => undefineUnit (spadKey t k 0 / 2 ^ 17 + 81 + 2 * g)
      (undefineUnit (spadKey t k 0 / 2 ^ 17 + 80 + 2 * g) s)) s
    { s with
      spad.maps := Tab.put [] c map s.spad.maps
      spad.penModes := Tab.put 0 c mode s.spad.penModes }) s) s

/-- The lowest free graph slot of a partition. -/
def freeSlot (s : State) (p : Nat) : Nat :=
  ((List.range 4).find? (fun n => !(graphsOf s p).any (fun g => decide (g.slot = n)))).getD 0

/-- A graph takes a slot of its partition under a handle, and can run from the next tick (R138, R139). -/
def placeGraph (p slot n : Nat) (h : BitVec 16) (img : Bytes) (s : State) : State :=
  let first := graphsOf s p = []
  let s := if first then applyMaps img s else s
  let s := changePart p (fun q => { q with loadCounts := Tab.put 0 slot n q.loadCounts }) s
  let g : Graph := { partition := p, slot := slot, handle := h, image := img, ready := s.frame.count + 1 }
  raise 0x3401 (taskItems p none none none none none) { s with parts.graphs := s.parts.graphs ++ [g] }

/-- A LOAD is accepted: the load count of the slot rises. -/
def acceptGraph (p : Nat) (img : Bytes) (pos : BitVec 32) (e : BitVec 512) (s : State) : State :=
  let slot := freeSlot s p
  let n := (Tab.look 0 (part s p).loadCounts slot + 1) % 256
  let h := BitVec.ofNat 16 (4096 * p + 256 * slot + n)
  reportCommand p 0 ccOk 0 h.toNat (mirror p pos h img e (placeGraph p slot n h img s))

/-- LOAD_ADMISSION (R139, R140): the image has arrived. -/
def loadAdmission (p : Nat) (img : Bytes) (code : CodeReport) (s : State) : State :=
  match s.parts.loads.find? (fun l => decide (l.partition = p ∧ l.length = img.length)) with
  | none => s
  | some l =>
    let s := { s with
      parts.loads := s.parts.loads.erase l
      host.reads := s.host.reads.filter (fun r => decide (r.for_ ≠ .image p)) }
    match unserved s p, admission s p img code with
    | some (cls, detail), _ => refuseCommand p 0 cls detail 0 s
    | none, some (cls, detail, arg) => refuseCommand p 0 cls detail arg s
    | none, none => acceptGraph p img l.position l.entry s

def execLoadAdmission (partition : Partition) (image : Bytes) (code : CodeReport) (s : State) :
    Host.Outcome State Fault Refusal :=
  .next (loadAdmission partition image code s)

/-- The graph of a handle in a partition. -/
def liveGraph (s : State) (p : Nat) (h : BitVec 16) : Option Graph :=
  (graphsOf s p).find? (fun g => decide (g.handle = h))

/-- A graph leaves its partition. The partition's slots no longer behave as OPEN after a teardown (R378); with
another template in force, its frames start at index 0. -/
def dropGraph (p : Nat) (h : BitVec 16) (s : State) : State :=
  let was := activeImage s p
  let s := { s with
    parts.graphs := s.parts.graphs.filter (fun g => !decide (g.partition = p ∧ g.handle = h))
    fab.openSlots := s.fab.openSlots.filter (fun q => decide (q ≠ p)) }
  if activeImage s p = was then s
  else changePart p (fun q => { loadCounts := q.loadCounts, stride := q.stride }) s

/-- UNLOAD (R138): a handle not live, or a graph with a live run, is refused. -/
def unload (p : Nat) (h : BitVec 16) (pos : BitVec 32) (e : BitVec 512) (s : State) : State :=
  if (liveGraph s p h).isNone ∨ (runsOf s p).any (fun r => decide (r.handle = h)) then
    reportCommand p 0 ccRefused 0 0 s
  else reportCommand p 0 ccOk 0 0 (mirror p pos 0 [] e (dropGraph p h s))

def execUnload (partition : Partition) (handle : BitVec 16) (s : State) : Host.Outcome State Fault Refusal :=
  .next (command partition (fun e => decide (eCode e = 2 ∧ eHandle e = handle)) 0 (unload partition handle) s)

/-- A tower with no room for a save area. -/
def noRoom (s : State) (img : Bytes) : Option Nat := (imgTowers img).find? (fun t => decide (saveArea img t > freeDram s t))

/-- A run of higher priority pre-empts the one that runs, if that one may be (R153). -/
def requestByPriority (p prio : Nat) (s : State) : State :=
  { s with
    parts.runs := s.parts.runs.map (fun r =>
      if r.partition = p ∧ (r.state = .running ∨ r.state = .restoring) ∧ r.byPriority ∧ r.priority < prio ∧
        r.preempt = none then { r with preempt := some false } else r) }

/-- What refuses a RUN, as class, detail and argument (R129, R138, R140, R141): a handle not live or a live run ID, more
than 256 bindings (a field outside its encoding), a seventeenth live run, no room for a save area. -/
def runRefused (s : State) (p : Nat) (e : BitVec 512) : Option (Nat × Nat × Nat) := match liveGraph s p (eHandle e) with
  | none => some (0, 0, 0)
  | some g =>
    if (findRun s p (eRun e)).isSome then some (0, 0, 0)
    else if eBindings e > 256 then some (1, 3, 0)
    else if (runsOf s p).length ≥ 16 then some (4, 3, 0)
    else (noRoom s g.image).map (fun t => (10, 2, t))

/-- A RUN is accepted with its bindings: the run is QUEUED (R152). [DEDUCED, safe: log 14] -/
def acceptRun (p : Nat) (bindings : List Nat) (pos : BitVec 32) (e : BitVec 512) (s : State) : State :=
  let id := eRun e
  let img := ((liveGraph s p (eHandle e)).map (·.image)).getD []
  let r : Run :=
    { partition := p, id := id, handle := eHandle e, priority := ePriority e, byPriority := eByPriority e,
      iterations := eIterations e, bindings := bindings, order := s.parts.nextOrder, tasks := freshTasks img }
  let s := { s with parts.runs := s.parts.runs ++ [r], parts.nextOrder := s.parts.nextOrder + 1 }
  reportCommand p id ccOk 0 0 (mirror p pos 0 [] e (requestByPriority p r.priority s))

/-- The bytes of a RUN's binding table, one address of 8 bytes for each binding (R137). [DESIGN CHOICE, safe: log
156] -/
def tableLength (e : BitVec 512) : Nat := 8 * eBindings e

/-- The addresses of a binding table. -/
def tableBindings (e : BitVec 512) (bytes : Bytes) : List Nat :=
  (List.range (eBindings e)).map (fun i => fieldAt bytes (8 * i) 8)

/-- RUN (R137 to R141, R152): its binding table is read from host memory. [DESIGN CHOICE, safe: log 156] -/
def startRun (p : Nat) (pos : BitVec 32) (e : BitVec 512) (s : State) : State := match runRefused s p e with
  | some (cls, detail, arg) => refuseCommand p (eRun e) cls detail arg s
  | none =>
    if eBindings e = 0 then acceptRun p [] pos e s
    else
      let read : HostRead := { tag := hostTag s, function := partitionFunction s p, address := eTable e,
                               length := tableLength e, for_ := .bindings p }
      { s with
        parts.binds := s.parts.binds ++ [{ partition := p, position := pos, entry := e }]
        host.reads := s.host.reads ++ [read]
        host.nextTag := hostTag s + 1 }

/-- The RUN of a partition whose binding table is on its way. -/
def takeBinding (p : Nat) (s : State) : Option (Binding × State) :=
  (s.parts.binds.find? (fun b => decide (b.partition = p))).map (fun b =>
    (b, { s with parts.binds := s.parts.binds.erase b }))

/-- A binding table has arrived: the RUN is accepted. -/
def bindingsArrive (p : Nat) (bytes : Bytes) (s : State) : State := match takeBinding p s with
  | none => s
  | some (b, s) => match unserved s p, runRefused s p b.entry with
    | some (cls, detail), _ => refuseCommand p (eRun b.entry) cls detail 0 s
    | none, some (cls, detail, arg) => refuseCommand p (eRun b.entry) cls detail arg s
    | none, none => acceptRun p (tableBindings b.entry bytes) b.position b.entry s

/-- A binding table does not arrive, or arrives poisoned: the RUN completes with that code. [DESIGN CHOICE, safe: log
156] -/
def bindingsLost (p code : Nat) (s : State) : State := match takeBinding p s with
  | none => s
  | some (b, s) => reportCommand p (eRun b.entry) code 0 0 s

def execRun (partition : Partition) (entry : BitVec 512) (s : State) : Host.Outcome State Fault Refusal :=
  .next (command partition (fun e => decide (eCode e = 3 ∧ e = entry)) (eRun entry) (startRun partition) s)

/-- A command that names a run: refused when the run is not live. [DEDUCED, safe: log 14] -/
def runCommand (p : Nat) (id : BitVec 32) (f : Run → Run) (pos : BitVec 32) (e : BitVec 512) (s : State) : State :=
  if (findRun s p id).isNone then reportCommand p id ccRefused 0 0 s
  else reportCommand p id ccOk 0 0 (mirror p pos 0 [] e (changeRun p id f s))

/-- PREEMPT (R153): a run that runs, is restored or is being saved parks with hold. -/
def preemptRun (r : Run) : Run :=
  if r.state = .running ∨ r.state = .restoring ∨ r.state = .saving then { r with preempt := some true } else r

/-- RESUME (R152, R157). -/
def resumeRun (r : Run) : Run := if r.state = .parked then { r with hold := false } else r

def execPreempt (partition : Partition) (runId : BitVec 32) (s : State) : Host.Outcome State Fault Refusal :=
  .next (command partition (fun e => decide (eCode e = 4 ∧ eRun e = runId)) runId
    (runCommand partition runId preemptRun) s)

def execResume (partition : Partition) (runId : BitVec 32) (s : State) : Host.Outcome State Fault Refusal :=
  .next (command partition (fun e => decide (eCode e = 5 ∧ eRun e = runId)) runId
    (runCommand partition runId resumeRun) s)

/-- ABORT (R152): takes effect at the next tick. -/
def execAbort (partition : Partition) (runId : BitVec 32) (s : State) : Host.Outcome State Fault Refusal :=
  .next (command partition (fun e => decide (eCode e = 6 ∧ eRun e = runId)) runId
    (runCommand partition runId (fun r => { r with abort := true })) s)

/-- An entry whose code, handle or run ID is not known (R137, R138). -/
def entryUnknown (s : State) (p : Nat) (e : BitVec 512) : Bool :=
  match eCode e with
  | 1 => false
  | 2 => (liveGraph s p (eHandle e)).isNone
  | 3 => (liveGraph s p (eHandle e)).isNone || (findRun s p (eRun e)).isSome
  | 4 | 5 | 6 => (findRun s p (eRun e)).isNone
  | _ => true

/-- UNKNOWN_COMMAND (R137): the record carries the run ID of a command that has one. -/
def execUnknownCommand (partition : Partition) (entry : BitVec 512) (s : State) : Host.Outcome State Fault Refusal :=
  let run : BitVec 32 := if 3 ≤ eCode entry ∧ eCode entry ≤ 6 then eRun entry else 0
  .next (command partition (fun e => decide (e = entry) && entryUnknown s partition e) run
    (fun _ e s => turnAway partition (eCode e) run 0 0 s) s)

/-! ### Edges and tasks (R142 to R146) -/

/-- REMOTE_EDGE_ARRIVAL (R142). The coordinator holds an edge until its destination has it; while the base die of
either end is in reset it waits, and a second copy counts for nothing (R340). -/
def edgeArrives (p : Nat) (id : BitVec 32) (i e : Nat) (s : State) : State :=
  if (p, id, i, e) ∉ s.parts.remoteEdges then s
  else match findRun s p id with
    | none => s
    | some r =>
      let w := edgeWord (runImage s r) e
      let truth := decide (edgeKind w = 0) || decide ((taskOf r i).predicate.getLsbD (edgeBit w) = edgeSense w)
      let ends := [taskTower (runImage s r) i, taskTower (runImage s r) (edgeDest w)]
      if ends.any (fun t => (baseState s (baseOfTower t)).resetAt.isSome) then s
      else settleAll p id [(edgeDest w, truth)]
        { s with parts.remoteEdges := s.parts.remoteEdges.erase (p, id, i, e) }

def execRemoteEdgeArrival (partition : Partition) (runId : BitVec 32) (task : BitVec 16) (edge : Nat) (s : State) :
    Host.Outcome State Fault Refusal :=
  .next (edgeArrives partition runId task.toNat edge s)

/-- Two tasks hold a cluster in common. -/
def tasksMeet (img : Bytes) (i j : Nat) : Bool :=
  decide (taskTower img i = taskTower img j) &&
    (List.range 12).any (fun k => nbit (taskClusters img i) k && nbit (taskClusters img j) k)

/-- The start slot of a task's first phase entry, in the frame now open. -/
def taskStartTime (s : State) (img : Bytes) (i : Nat) : Nat :=
  s.frame.start + phaseStart (phaseWord img (taskFirstPhase img i)) * slotCycles s.frame.code

/-- A resolved task may start at the occurrence of its first phase entry in this frame (R144). -/
def mayStart (s : State) (r : Run) (i : Nat) : Bool :=
  let img := runImage s r
  let q := part s r.partition
  decide ((taskOf r i).phase = .resolved) && decide (phaseFrame (phaseWord img (taskFirstPhase img i)) = q.index) &&
    decide (q.inGroup = 0) && !q.slipping && towerUp s (taskTower img i) &&
    decide (taskStartTime s img i ≥ (taskOf r i).resolvedAt + 2 * slotCycles s.frame.code) &&
    decide (s.now ≤ taskStartTime s img i)

/-- Another task stands in the way: one that holds a cluster, or a resolved one of lower ID at the same start. -/
def startBlocked (s : State) (r : Run) (i : Nat) : Bool :=
  let img := runImage s r
  (List.range (imgTaskCount img)).any (fun j => decide (j ≠ i) && tasksMeet img i j &&
    (decide ((taskOf r j).phase = .running) ||
      (decide (j < i) && mayStart s r j && decide (taskStartTime s img j = taskStartTime s img i))))

/-- Load a task's route tables (R89). -/
def loadRoutes (img : Bytes) (i : Nat) (s : State) : State :=
  let t := taskTower img i
  let cs := (maskMembers 12 (taskClusters img i)).map (clusterKey t)
  { s with
    spad.routes := (maskMembers 12 (taskClusters img i)).foldl
      (fun r k => Tab.put [] (clusterKey t k) (taskRoutes img i k) r) s.spad.routes
    spad.poisonedLines := s.spad.poisonedLines.filter (fun x => x.phase.isNone || decide (x.cluster ∉ cs)) }

/-- Seed the generators of a task's lanes (R105). [DEDUCED, safe: log 120] -/
def seedLanes (img : Bytes) (i : Nat) (s : State) : State :=
  let t := taskTower img i
  let seed := BitVec.ofNat 32 (taskSeed img i)
  { s with
    arith.lanes := (maskMembers 12 (taskClusters img i)).foldl (fun l k => (List.range 128).foldl (fun l n =>
      Tab.put 0 (128 * clusterKey t k + n) (Config.laneSeed seed t k (n / 64) (n % 64)) l) l) s.arith.lanes }

/-- Task code runs on a task's clusters: what it leaves in their registers is not stated (R66, R67). [DESIGN CHOICE,
safe: log 149] -/
def startCode (img : Bytes) (i : Nat) (s : State) : State :=
  (maskMembers 12 (taskClusters img i)).foldl (fun s k =>
    let s := (draw s).2
    { s with arith.registers := Tab.put 0 (clusterKey (taskTower img i) k) s.freeDrawn s.arith.registers }) s

/-- TASK_START (R144). -/
def taskStart (p i : Nat) (s : State) : State :=
  match runningRun s p with
  | none => s
  | some r =>
    let img := runImage s r
    if r.preempt.isSome ∨ r.freeze ∨ partitionHeld s p ∨ !mayStart s r i ∨ startBlocked s r i then s
    else
      let s := advanceTo (taskStartTime s img i) s
      let s := changeTask p r.id i (fun x => { x with phase := .running, spanLeft := taskSpan img i }) s
      seedLanes img i (startCode img i (loadRoutes img i s))

def execTaskStart (partition : Partition) (task : BitVec 16) (s : State) : Host.Outcome State Fault Refusal :=
  .next (taskStart partition task.toNat s)

/-- TASK_END (R145): the predicate word is the one the task code wrote. -/
def taskEnd (p i : Nat) (predicate : BitVec 16) (s : State) : State :=
  match runningRun s p with
  | none => s
  | some r =>
    if (taskOf r i).phase ≠ .running ∨ (taskOf r i).fault ≠ 0 ∨ taskHasDescs s p r.id i then s
    else endTask p r.id i (changeTask p r.id i (fun x => { x with predicate := predicate }) s)

def execTaskEnd (partition : Partition) (task : BitVec 16) (predicate : BitVec 16) (s : State) :
    Host.Outcome State Fault Refusal :=
  .next (taskEnd partition task.toNat predicate s)

/-! ### The top-k router (R147 to R151) -/

/-- The quotient of two values, exact but for a last bit that stands for the rest. [DEDUCED, safe: log 126] -/
def quotient (a b : Num) : Num :=
  match a, b with
  | .nan, _ => .nan
  | _, .nan => .nan
  | .inf _, .inf _ => .nan
  | .inf n, .fin m _ _ => .inf (n != m)
  | .fin n _ _, .inf m => .fin (n != m) 0 0
  | .fin n m e, .fin n' m' e' =>
    if m' = 0 then (if m = 0 then .nan else .inf (n != n'))
    else
      let up := 64 + Nat.log2 m'
      let q := m * 2 ^ up / m'
      let rest := flag (decide (m * 2 ^ up % m' ≠ 0))
      .fin (n != n') (2 * q + rest) (e - e' - (up : Int) - 1)

/-- A score as FP32 bits: BF16 scores widen. -/
def score32 (bf16 : Bool) (v : Nat) : BitVec 32 := BitVec.ofNat 32 (if bf16 then v % 65536 * 65536 else v)

/-- The best expert not yet taken: the largest score, the lowest index among equals. -/
def bestExpert (scores : List (BitVec 32)) (taken : List Nat) : Option Nat :=
  (List.range scores.length).foldl (fun best e =>
    if e ∈ taken then best
    else match best with
      | none => some e
      | some b => if numGt (decodeElem 0 (scores.getD e 0).toNat) (decodeElem 0 (scores.getD b 0).toNat) then some e else some b)
    none

/-- The k best experts, best first. -/
def selectExperts (scores : List (BitVec 32)) : Nat → List Nat → List Nat
  | 0, taken => taken
  | n + 1, taken => match bestExpert scores taken with
    | none => taken
    | some e => selectExperts scores n (taken ++ [e])

/-- The combine weights of the selected experts (R149). [DEDUCED, safe: log 126] -/
def weights (normalise : Bool) (scores : List (BitVec 32)) (es : List Nat) : List (BitVec 32) :=
  let vs := es.map (fun e => scores.getD e 0)
  if !normalise then vs
  else
    let sum := combine32 vs
    vs.map (fun v => (toFp32 true (quotient (decodeElem 0 v.toNat) (decodeElem 0 sum.toNat))).1)

/-- A router. -/
def routerOf (s : State) (c : Nat) : Router := Tab.look {} s.parts.routers c

/-- Change a router. -/
def changeRouter (c : Nat) (f : Router → Router) (s : State) : State :=
  { s with parts.routers := Tab.change {} c f s.parts.routers }

/-- A dispatch record (R151). -/
def dispatchRecord (weight : BitVec 32) (status expert token : Nat) : BitVec 64 :=
  BitVec.ofNat 64 (weight.toNat * 2 ^ 32 + status * 2 ^ 30 + expert % 64 * 2 ^ 24 + token % 2 ^ 24)

/-- Write a record of the dispatch list. -/
def putRecord (c status : Nat) (x : Pair) (s : State) : State :=
  changeRouter c (fun r => { r with list := r.list ++ [dispatchRecord x.weight status x.expert x.token] }) s

/-- A pair is dropped (R150, R151): event 0x3461 once for each router and frame. -/
def dropPair (t k p : Nat) (id : BitVec 32) (x : Pair) (s : State) : State :=
  let c := clusterKey t k
  let s := changeRun p id (fun r => { r with dropped := r.dropped + 1 }) (putRecord c 2 x (count64 0x346003 1 s))
  if (routerOf s c).droppedInFrame then s
  else raise 0x3461 (taskItems p (some id) none (some t) (some k) (some x.group))
    (changeRouter c (fun r => { r with droppedInFrame := true }) s)

/-- A pair within its quota is dispatched. -/
def dispatchPair (t k : Nat) (dest : Nat) (x : Pair) (s : State) : State :=
  let c := clusterKey t k
  let s := putRecord c 0 x (count64 0x346001 1 s)
  changeRouter c (fun r => { r with counts := Tab.change 0 (64 * x.group + x.expert) (· + 1) r.counts })
    { s with parts.expertQueue := s.parts.expertQueue ++
        [{ cluster := c, group := x.group, expert := x.expert, token := x.token, tower := dest }] }

/-- A pair is deferred to the next frame. -/
def deferPair (t k p : Nat) (id : BitVec 32) (x : Pair) (s : State) : State :=
  let c := clusterKey t k
  let s := changeRun p id (fun r => { r with deferred := r.deferred + 1 }) (putRecord c 1 x (count64 0x346002 1 s))
  changeRouter c (fun r => { r with deferred := r.deferred ++ [x] }) s

/-- The router takes a pair: `again` for a pair deferred from the previous frame. -/
def takePair (t k p : Nat) (id : BitVec 32) (img : Bytes) (gi : Nat) (again : Bool) (x : Pair) (s : State) : State :=
  let r := routerOf s (clusterKey t k)
  if Tab.look 0 r.counts (64 * x.group + x.expert) < groupQuota img gi then
    dispatchPair t k (groupPlacement img gi x.expert) x s
  else if again ∨ nbit (groupFlags img gi) 0 then dropPair t k p id x s
  else if r.deferred.length ≥ 1024 then
    dropPair t k p id x (raise 0x3462 (taskItems p (some id) none (some t) (some k) (some x.group)) s)
  else deferPair t k p id x s

/-- ROUTER_TOKEN (R149, R150). -/
def routerToken (t k g token : Nat) (raw : List Nat) (s : State) : State :=
  match taskOn s t k with
  | none => s
  | some (r, _) =>
    let img := runImage s r
    match groupEntry img g with
    | none => s
    | some gi =>
      if !coreWorks s t k then s else
      let f := groupFlags img gi
      let scores := (List.range (groupExperts img gi)).map (fun e => score32 (nbit f 1) (raw.getD e 0))
      let es := selectExperts scores (groupK img gi) []
      (es.zip (weights (nbit f 2) scores es)).foldl (fun s x =>
        takePair t k r.partition r.id img gi false { group := g, expert := x.1, token := token, weight := x.2 } s) s

def execRouterToken (tower : Tower) (cluster : Cluster) (group : Fin 16) (token : BitVec 24) (scores : List Nat)
    (s : State) : Host.Outcome State Fault Refusal :=
  .next (routerToken tower cluster group token.toNat scores s)

/-- A frame opens for a router (R150): the counts and the list start afresh, and the pairs deferred from the
previous frame come first. -/
def routerFrame (t k : Nat) (s : State) : State :=
  let c := clusterKey t k
  let old := routerOf s c
  let s := { s with parts.routers := Tab.put {} c {} s.parts.routers }
  match partitionOf s t with
  | none => s
  | some p => match runningRun s p with
    | none => s
    | some r =>
      let img := runImage s r
      old.deferred.foldl (fun s x => match groupEntry img x.group with
        | none => s
        | some gi => takePair t k p r.id img gi true x s) s

/-- A frame opens for the routers of a partition whose run is RUNNING. -/
def tickRouters (p : Nat) (s : State) : State :=
  if (runningRun s p).isNone then s
  else
    let mine := (s.parts.routers.map (·.1)).filter (fun c => decide (c / 12 ∈ towersOf s p))
    mine.foldl (fun s c => routerFrame (c / 12) (c % 12) s) s

/-! ### Saves and restores (R154 to R157, R189) -/

/-- Frames of a save or a restore (R156). -/
def saveFrames (s : State) (img : Bytes) : Nat :=
  let v := ((imgTowers img).map (saveVolume img)).foldl max 0
  let l := frameCycles s.frame.code
  (v + 4096 * 2 * us + 4096 * l - 1) / (4096 * l)

/-- The units of 128 KiB that a run's save masks keep (R134). -/
def savedUnits (img : Bytes) : List Nat :=
  (imgTowers img).flatMap (fun t => (List.range 12).flatMap (fun k =>
    let ti := maskIndex (imgMask img) t
    let mode := fieldAt (imgBankMap img ti k) 0x14 1
    ((List.range 56).filter (nbit (imgSaveMask img ti k))).flatMap (bankUnits t k mode)))

/-- The populated units of a run's clusters. -/
def runUnits (img : Bytes) : List Nat :=
  (imgTowers img).flatMap (fun t => (List.range 12).flatMap (fun k =>
    (List.range 96).map (spadKey t k 0 / 2 ^ 17 + ·)))

/-- The clusters of a run. -/
def runClusters (img : Bytes) : List Nat :=
  (imgTowers img).flatMap (fun t => (List.range 12).map (clusterKey t))

/-- The part of a table whose keys satisfy `p`. -/
def tabPart {α : Type} (p : Nat → Bool) (t : Tab α) : Tab α := t.filter (fun c => p c.1)

/-- Put every entry of one table into another. -/
def tabMerge {α : Type} [DecidableEq α] (d : α) (from_ into : Tab α) : Tab α :=
  from_.foldl (fun t c => Tab.put d c.1 c.2 t) into

/-- A descriptor in the layout in which a pre-emption writes it out (R173). -/
def descImage (d : Desc) : BitVec 512 :=
  let state := match d.state with
    | .queued => 0
    | .active => 1
    | .parked => 2
    | .done => 3
  let raw := overlay (leBytes 64 d.raw.toNat) 5 (leBytes 1 (16 * state + d.code))
  let raw := overlay raw 0x2C (leBytes 4 d.cursorRows ++ leBytes 4 d.cursorBytes)
  BitVec.ofNat 512 (leNat (overlay raw 0x38 (leBytes 8 d.faultAddress)))

/-- A descriptor has an access on its way, or an atomic that the fabric still holds, or has ended: it is not written
out. [DEDUCED, safe: log 160] -/
def staysBehind (d : Desc) : Bool := (match d.wait with
  | .table _ _ _ _ => true
  | _ => inFlight d) || (d.heldTag.isSome && d.settled.isNone) || decide (d.state = .done)

/-- A descriptor as it is written out: on resume the engine starts again at its cursor (R175). [DEDUCED, safe: log
160] -/
def savedDesc (d : Desc) : Desc := { d with
  raw := descImage d
  state := if d.state = .parked then .parked else .queued
  wait := .none
  chunk := none
  pages := [] }

/-- A descriptor comes back into its engine's queue, in the order of issue. -/
def insertDesc (d : Desc) : List Desc → List Desc
  | [] => [d]
  | x :: xs => if d.order < x.order then d :: x :: xs else x :: insertDesc d xs

/-- The descriptors of a run that a save writes out, each with its engine. -/
def savedDescs (s : State) (p : Nat) (id : BitVec 32) : List (Nat × Desc) :=
  ((towersOf s p).flatMap engineKeys).flatMap (fun k =>
    ((engineQueue s k).filter (fun d => decide (d.partition = p ∧ d.run = id) && !staysBehind d)).map (fun d => (k, savedDesc d)))

/-- They leave the engines. -/
def dropSaved (p : Nat) (id : BitVec 32) (s : State) : State := { s with
  dma.queues := Tab.changeAll [] ((towersOf s p).flatMap engineKeys)
    (fun q => q.filter (fun d => !decide (d.partition = p ∧ d.run = id) || staysBehind d)) s.dma.queues }

/-- What a save keeps (R155). -/
def contextOf (s : State) (r : Run) (img : Bytes) : Context :=
  let us := savedUnits img
  let cs := runClusters img
  { bytes := tabPart (fun k => decide (k / 2 ^ 17 ∈ us)) s.spad.bytes
    poison := tabPart (fun k => decide (k / 2 ^ 11 ∈ us)) s.spad.poison
    undef := tabPart (fun k => decide (k ∈ us)) s.spad.undef
    acc := tabPart (fun k => decide (k / 12288 ∈ cs)) s.arith.acc
    accPoison := tabPart (fun k => decide (k / 12288 ∈ cs)) s.arith.accPoison
    lanes := tabPart (fun k => decide (k / 128 ∈ cs)) s.arith.lanes
    registers := tabPart (fun k => decide (k ∈ cs)) s.arith.registers
    routers := tabPart (fun k => decide (k ∈ cs)) s.parts.routers
    descs := savedDescs s r.partition r.id }

/-- A restore puts the context back; banks that were not saved hold undefined contents (R134). -/
def restoreContext (img : Bytes) (c : Context) (s : State) : State :=
  let us := savedUnits img
  let cs := runClusters img
  let s := ((runUnits img).filter (fun u => decide (u ∉ us))).foldl (fun s u => undefineUnit u s) s
  { s with
    spad.bytes := tabMerge none c.bytes (tabPart (fun k => decide (k / 2 ^ 17 ∉ us)) s.spad.bytes)
    spad.poison := tabMerge false c.poison (tabPart (fun k => decide (k / 2 ^ 11 ∉ us)) s.spad.poison)
    spad.undef := tabMerge 0 c.undef (tabPart (fun k => decide (k ∉ us)) s.spad.undef)
    arith.acc := tabMerge 0 c.acc (tabPart (fun k => decide (k / 12288 ∉ cs)) s.arith.acc)
    arith.accPoison := tabMerge false c.accPoison (tabPart (fun k => decide (k / 12288 ∉ cs)) s.arith.accPoison)
    arith.lanes := tabMerge 0 c.lanes (tabPart (fun k => decide (k / 128 ∉ cs)) s.arith.lanes)
    arith.registers := tabMerge 0 c.registers (tabPart (fun k => decide (k ∉ cs)) s.arith.registers)
    parts.routers := tabMerge {} c.routers (tabPart (fun k => decide (k ∉ cs)) s.parts.routers)
    dma.queues := c.descs.foldl (fun q x => Tab.change [] x.1 (insertDesc x.2) q) s.dma.queues }

/-- The run a free partition executes next (R152): the highest priority, then the first accepted. -/
def nextRun (s : State) (p : Nat) : Option Run :=
  let ready := (runsOf s p).filter (fun r => (decide (r.state = .queued) || (decide (r.state = .parked) && !r.hold)) &&
    ((graphOf s r.handle).any (fun g => decide (g.ready ≤ s.frame.count))))
  ready.foldl (fun best r => match best with
    | none => some r
    | some b => if b.priority < r.priority ∨ (b.priority = r.priority ∧ r.order < b.order) then some r else best) none

/-- A run's template opens at a tick: its debt and its group count from there (R52), at a frame index. -/
def openTemplate (p : Nat) (img : Bytes) (index : Nat) (s : State) : State :=
  let s := (imgTowers img).foldl (fun s t => allClusters.foldl (fun s k => setDebt t k 0 s) s) s
  changePart p (fun q => { openGroup q with index := index }) s

/-- Start the next run of a partition that executes none: a new run enters RUNNING at template frame 0 and its
root tasks are resolved; a parked one is restored. -/
def startNext (p : Nat) (s : State) : State :=
  if (executingRun s p).isSome then s
  else match nextRun s p with
    | none => s
    | some r =>
      let img := runImage s r
      if r.state = .parked then
        changeRun p r.id (fun r => { r with state := .restoring, framesLeft := saveFrames s img }) s
      else
        let s := openTemplate p img 0 s
        let s := { s with parts.routers := tabPart (fun k => decide (k ∉ runClusters img)) s.parts.routers }
        resolveRoots p r.id (strideFor p (changeRun p r.id (fun r => { r with state := .running }) s))

/-- The fault records a save held back are written (R188, R189). -/
def writeHeld (p : Nat) (id : BitVec 32) (s : State) : State :=
  let mine (r : FaultRecord) : Bool := decide (r.partition = p ∧ r.run = id) && r.held
  (s.dma.records.filter mine).foldl (fun s r =>
    let this (x : FaultRecord) : Bool := decide (x.partition = p ∧ x.tag = r.tag) && x.held
    if faultRingFull s p then
      loseFault p r.tower (some r.tag) (some r.engine)
        { s with dma.records := changeFirst this (fun x => { x with held := false, lost := true }) s.dma.records }
    else
      writeFaultRecord { r with held := false } true true
        { s with dma.records := changeFirst this (fun x => { x with held := false }) s.dma.records }) s

/-- SAVE_COMPLETE (R152, R156): at the tick that ends the save. -/
def saveComplete (p : Nat) (s : State) : State :=
  match (runsOf s p).find? (fun r => decide (r.state = .saving)) with
  | none => s
  | some r =>
    if r.framesLeft ≠ 0 then s
    else
      let c := contextOf s r (runImage s r)
      let s := changeRun p r.id (fun r =>
        { r with state := if r.freeze then .frozen else .parked, hold := decide (r.preempt = some true), preempt := none,
                 saved := some c }) s
      let s := writeHeld p r.id (dropSaved p r.id s)
      let s := if r.freeze then
          raise 0x3406 (taskItems p (some r.id) none none none none)
            (match findRun s p r.id with
              | none => s
              | some r => reportRun r (runCode r) 0 s)
        else s
      startNext p s

def execSaveComplete (partition : Partition) (s : State) : Host.Outcome State Fault Refusal :=
  .next (saveComplete partition s)

/-- The responses stored with a context, and the records lost after its save, take effect (R188, R189). -/
def applyStored (p : Nat) (id : BitVec 32) (s : State) : State :=
  let mine (r : FaultRecord) : Bool := decide (r.partition = p ∧ r.run = id) && (r.lost || r.stored.isSome)
  (s.dma.records.filter mine).foldl (fun s r => answerAttached p r.tag (r.stored.getD false) s)
    { s with dma.records := s.dma.records.filter (fun r => !mine r) }

/-- RESTORE_COMPLETE (R155, R156). -/
def restoreComplete (p : Nat) (s : State) : State :=
  match (runsOf s p).find? (fun r => decide (r.state = .restoring)) with
  | none => s
  | some r =>
    if r.framesLeft ≠ 0 then s
    else
      let img := runImage s r
      let s := match r.saved with
        | none => s
        | some c => restoreContext img c s
      let s := changeRun p r.id (fun r => { r with state := .running, saved := none }) s
      let s := tickRouters p (strideFor p (openTemplate p img r.frameIndex s))
      let s := ((r.tasks.filter (fun x => decide (x.2.phase = .running))).map (·.1)).foldl (fun s i => loadRoutes img i s) s
      let s := raise 0x3405 (taskItems p (some r.id) none none none none) s
      pumpPartition p (applyStored p r.id s)

def execRestoreComplete (partition : Partition) (s : State) : Host.Outcome State Fault Refusal :=
  .next (restoreComplete partition s)

end Sys2Proof.Machine
end

