-- ==== Sys2Proof/Machine/Sums.lean ====
section
/-! DEFINITION. Light-summed reduction (R246 to R266): arm records, what a member sends, what a receiver writes,
claims and replays. -/

namespace Sys2Proof.Machine

/-! ### Plane-slots and members (R246, R249) -/

/-- Windows of a plane-slot, by window code. -/
def windowsOf (s : State) (code : Nat) : Nat := (slotCycles s.frame.code - 7) / 2 ^ (code + 1)

/-- A light-summed descriptor of a collective: its receiver. -/
def lightTarget (s : State) (t w slot coll : Nat) : Option Nat :=
  let d := slotDesc s t w slot false
  if slotType d = stColl ∧ slotLight d ∧ slotFlow d = coll then some (slotDest d) else none

/-- The members of a plane-slot, rising. -/
def sumMembers (s : State) (recv w slot coll : Nat) : List Nat :=
  allTowers.filter (fun t => decide (lightTarget s t w slot coll = some recv))

/-- The collective that a receiver gets in a plane-slot. -/
def sumCollective (s : State) (recv w slot : Nat) : Option Nat :=
  allTowers.findSome? (fun t =>
    let d := slotDesc s t w slot false
    if slotType d = stColl ∧ slotLight d ∧ slotDest d = recv then some (slotFlow d) else none)

/-- The plane-slots of a frame in the order of R256: slot, then plane. -/
def planeSlots : List (Nat × Nat) := (List.range 256).flatMap (fun n => (List.range 8).map (fun w => (n, w)))

/-- The plane-slots of a collective at a member. -/
def memberSlots (s : State) (t coll : Nat) : List (Nat × Nat) :=
  planeSlots.filter (fun x => (lightTarget s t x.2 x.1 coll).isSome)

/-- The plane-slots of a collective at its receiver. -/
def receiverSlots (s : State) (t coll : Nat) : List (Nat × Nat) :=
  planeSlots.filter (fun x => sumMembers s t x.2 x.1 coll ≠ [])

/-! ### Arm records (R255, R256) -/

def aColl (r : BitVec 256) : Nat := bits r 11 0
def aReceiver (r : BitVec 256) : Bool := r.getLsbD 12
def aWindow (r : BitVec 256) : Nat := bits r 23 16
def aOutBf16 (r : BitVec 256) : Bool := r.getLsbD 24
def aAccumulate (r : BitVec 256) : Bool := r.getLsbD 25
def aInBf16 (r : BitVec 256) : Bool := r.getLsbD 26
def aOwn (r : BitVec 256) : Bool := r.getLsbD 27
def aValues (r : BitVec 256) : Nat := bits r 63 32
def aData (r : BitVec 256) : Nat := bits r 95 64
def aScales (r : BitVec 256) : Nat := bits r 127 96
def aOwnData (r : BitVec 256) : Nat := bits r 159 128

/-- Bytes of a value. -/
def valueBytes (bf16 : Bool) : Nat := if bf16 then 2 else 4

/-- An address whose `n` bytes do not run past line 0x5FFF of its cluster. -/
def armSpan (a n : Nat) : Bool := decide (a / 2 ^ 24 < 12) && decide (a % 2 ^ 24 + n ≤ 0xC00000)

/-- The hub refuses an arm record (R256). -/
def armRefused (s : State) (t : Nat) (r : BitVec 256) : Bool :=
  let recv := aReceiver r
  let slots := if recv then receiverSlots s t (aColl r) else memberSlots s t (aColl r)
  let n := aValues r
  decide (bits r 15 13 ≠ 0) || decide (aWindow r > 5) || decide (bits r 31 28 ≠ 0) || decide (bits r 255 160 ≠ 0) ||
    (!(recv && aOwn r) && decide (aOwnData r ≠ 0)) || decide (n % 32 ≠ 0) || decide (windowsOf s (aWindow r) = 0) ||
    decide (n ≠ 4 * windowsOf s (aWindow r) * slots.length) ||
    !armSpan (aData r) (n * valueBytes (if recv then aOutBf16 r else aInBf16 r)) || !armSpan (aScales r) (n / 32) ||
    (recv && aOwn r && !armSpan (aOwnData r) (n * valueBytes (aInBf16 r)))

/-- The payload items of R267. [DESIGN CHOICE, safe: log 127] -/
def sumItems (recv : Option Nat) (coll : Nat) (plane slot missing : Option Nat) : List (Option Bytes) :=
  [recv.bind b1, b2 coll, plane.bind b1, slot.bind b1, missing.bind b1]

/-- ARM_RECORD (R255, R256). -/
def armRecord (t k : Nat) (r : BitVec 256) (s : State) : State :=
  if armRefused s t r then
    let recv := if aReceiver r then some t
      else (memberSlots s t (aColl r)).head?.bind (fun x => lightTarget s t x.2 x.1 (aColl r))
    raise 0x4014 (sumItems recv (aColl r) none none none)
      { s with sums.refused := s.sums.refused ++ [(t, aColl r)] }
  else { s with sums.arms := s.sums.arms ++ [{ tower := t, cluster := k, record := r, accepted := s.now }] }

def execArmRecord (tower : Tower) (cluster : Cluster) (record : BitVec 256) (s : State) :
    Host.Outcome State Fault Refusal :=
  .next (armRecord tower cluster record s)

/-- The arm record in force for a tower at a slot: from the first of the collective's plane-slots that begins 100 ns after
it was accepted. -/
def armFor (s : State) (t coll : Nat) (recv : Bool) (slot : Nat) : Option Arm :=
  let slots := if recv then receiverSlots s t coll else memberSlots s t coll
  s.sums.arms.reverse.find? (fun a => decide (a.tower = t) && decide (aColl a.record = coll) &&
    decide (aReceiver a.record = recv) &&
      slots.any (fun x => decide (x.1 ≤ slot) && decide (a.accepted + 100 ≤ slotStart s x.1)))

/-- An arm record of the member has been refused in this frame: it sends NOT_READY (R256, R266). -/
def armDenied (s : State) (t coll : Nat) : Bool := decide ((t, coll) ∈ s.sums.refused)

/-! ### Values, scales and codes (R251 to R254) -/

/-- First value of a plane-slot: its place among the collective's plane-slots. -/
def firstValue (slots : List (Nat × Nat)) (per w slot : Nat) : Nat := per * slots.findIdx (fun x => decide (x = (slot, w)))

/-- Value i of an array of a tower. -/
def valueAt (s : State) (t addr : Nat) (bf16 : Bool) (i : Nat) : Num :=
  let n := valueBytes bf16
  decodeElem (if bf16 then 1 else 0) (leNat (spadBytes s (t * 2 ^ 28 + addr + n * i) n))

/-- The scale byte of a value. -/
def scaleAt (s : State) (t : Nat) (r : BitVec 256) (i : Nat) : Nat :=
  leNat (spadBytes s (t * 2 ^ 28 + aScales r + i / 32) 1)

/-- The scale check of the blocks that values i to i + n − 1 belong to. -/
def scaleCheck (s : State) (t : Nat) (r : BitVec 256) (i n : Nat) : Nat :=
  (crc16 (spadBytes s (t * 2 ^ 28 + aScales r + i / 32) ((i + n - 1) / 32 - i / 32 + 1))).toNat

/-- A code from a value and its scale: rounded to nearest even, saturated at 31; whether it saturated. -/
def sumCode (scale : Nat) : Num → Int × Bool
  | .fin neg m e =>
    let (w, rest, d) := splitAt (31 * m) (e + 127 - (scale : Int)) 0
    let w := roundSplit .rne 0 w rest d
    let c := min w 31
    (if neg then -(c : Int) else c, decide (w > 31))
  | _ => (0, false)

/-- Marker codes. -/
def mReady : Nat := 0xA5
def mNotReady : Nat := 0x5A
def mPoison : Nat := 0x3C
def mInvalid : Nat := 0xC3

/-- A marker. -/
def mkMarker (code check : Nat) : BitVec 32 :=
  let body := code * 2 ^ 24 + check * 2 ^ 8
  BitVec.ofNat 32 (body + (crc8 (wordBytes (BitVec.ofNat 32 body) 8)).toNat)

/-- What a receiver takes a marker for: its code, NOT_READY when it fails its check. -/
def markerCode (m : BitVec 32) : Nat :=
  let c := bits m 31 24
  if bits m 7 0 = (crc8 (wordBytes m 8)).toNat ∧ (c = mReady ∨ c = mPoison ∨ c = mInvalid) then c else mNotReady

/-- What a member has for a plane-slot: its marker, its codes, and whether one saturated. -/
def memberSends (s : State) (t w slot coll at_ : Nat) (late : Bool) : BitVec 32 × List Int × Bool :=
  match (if armDenied s t coll then none else armFor s t coll false at_) with
  | none => (mkMarker mNotReady (crc16 []).toNat, [], false)
  | some a =>
    let r := a.record
    let per := 4 * windowsOf s (aWindow r)
    let i := firstValue (memberSlots s t coll) per w slot
    let check := scaleCheck s t r i per
    let n := valueBytes (aInBf16 r)
    if late then (mkMarker mNotReady check, [], false)
    else if spadPoisoned s (t * 2 ^ 28 + aData r + n * i) (n * per) then (mkMarker mPoison check, [], false)
    else
      let vs := (List.range per).map (fun j => valueAt s t (aData r) (aInBf16 r) (i + j))
      let special := vs.any (fun v => match v with | .fin _ _ _ => false | _ => true) ||
        (List.range per).any (fun j => decide (scaleAt s t r (i + j) = 0xFF))
      if special then (mkMarker mInvalid check, [], false)
      else
        let cs := (List.range per).map (fun j => sumCode (scaleAt s t r (i + j)) (vs.getD j .nan))
        (mkMarker mReady check, cs.map (·.1), cs.any (·.2))

/-- A member cannot send its windows as light: its path is out of service or narrowed, or a wavelength of its group
travels on a spare position or is dark (R264, R294, R308). -/
def sumPathOut (s : State) (t recv w group : Nat) : Bool :=
  !pathUp s t recv w || pathHalf s t recv w || !groupLit s t w group

/-- The group of a member in a plane-slot. -/
def memberGroup (s : State) (t recv coll : Nat) (orig : Nat × Nat) : Nat :=
  (sumMembers s recv orig.2 orig.1 coll).findIdx (fun m => decide (m = t))

/-- The first transmission of a plane-slot by a member. -/
def sentBefore (s : State) (t recv w slot : Nat) : Option LightSent :=
  s.sums.light.find? (fun l => decide (l.member = t ∧ l.receiver = recv ∧ l.plane = w ∧ l.slot = slot))

/-- The launch offset of a path in picoseconds (R250): the correction of kind 0x5, else what the frame lock measured.
[DEDUCED, unsafe: log 174] -/
def launchOffset (s : State) (t recv w : Nat) : Int :=
  (correction s (baseOfTower t) 5 t w 0 recv).getD (signed 16 ((link s (pathLink t recv w)).measured.toNat % 2 ^ 16))

/-- The setting of a DAC for a level on a lane after pre-distortion (R250, R314): that of kind 0x6, else the level.
[DEDUCED, unsafe: log 174] -/
def dacSetting (s : State) (t w lane level : Nat) : Int := (correction s (baseOfTower t) 6 t w lane level).getD level

/-- A member sends in a plane-slot: light, or over the mesh where its path is out. `orig` is the plane-slot whose
values it carries. A member that sent READY before sends the codes it kept (R260). -/
def memberLight (t recv coll : Nat) (orig here : Nat × Nat) (late : Bool) (s : State) : State :=
  let (marker, codes, sat) := memberSends s t orig.2 orig.1 coll here.1 late
  let codes : List Int := match sentBefore s t recv orig.2 orig.1 with
    | some l => if markerCode l.marker = mReady ∧ markerCode marker = mReady then l.levels.map (fun d : Nat => (d : Int) - 31) else codes
    | none => codes
  let s := match armFor s t coll false here.1 with
    | some a => if sat then setTaskFlags t a.cluster flSaturation s else s
    | none => s
  let group := memberGroup s t recv coll orig
  if sumPathOut s t recv here.2 group then
    sendMesh t recv (.sumMember coll here.2 here.1 marker codes) s
  else
    let levels := codes.map (fun c => (c + 31).toNat)
    let x : LightSent := { member := t, receiver := recv, plane := here.2, slot := here.1, group := group,
                           marker := marker, levels := levels, offset := launchOffset s t recv here.2,
                           settings := levels.zipIdx.map (fun (d, j) => dacSetting s t here.2 (group + 8 * (j % 4)) d) }
    { s with sums.light := s.sums.light ++ [x] }

/-! ### Sums (R253, R258) -/

/-- Write the sums of a plane-slot with the poison marker: the data under a marker is a free value. -/
def poisonSums (t : Nat) (r : BitVec 256) (i per : Nat) (s : State) : State :=
  let n := valueBytes (aOutBf16 r)
  let (bs, s) := drawBytes (n * per) s
  spadWrite (t * 2 ^ 28 + aData r + n * i) bs true s

/-- Write canonical NaN for the sums, and set the invalid flag. -/
def nanSums (t k : Nat) (r : BitVec 256) (i per : Nat) (s : State) : State :=
  let n := valueBytes (aOutBf16 r)
  let v := leBytes n (nanBits (if aOutBf16 r then 1 else 0))
  setTaskFlags t k flInvalid (spadWrite (t * 2 ^ 28 + aData r + n * i) ((List.replicate per v).flatten) false s)

/-- y of R253 as an exact value: from the ADC code, the optical members, the mesh members' codes. -/
def sumValue (scale adc optical : Nat) (mesh : Int) (own : Num) : Num :=
  let z : Int := 496 * adc + 255 * (mesh - 31 * optical)
  let d : Num := .fin false 7905 0
  let light : Num := .fin (decide (z < 0)) z.natAbs ((scale : Int) - 127)
  quotient (sumNum [light, mul own d]) d

/-- The bits written for a sum: stored, or added to what the destination holds (R93). -/
def sumBits (bf16 accumulate : Bool) (old : Nat) (y : BitVec 32) : Nat × Sticky :=
  let (v, f) := if accumulate then
      toFp32 true (sumNum [decodeElem (if bf16 then 1 else 0) old, decodeElem 0 y.toNat])
    else (y, {})
  if bf16 then
    let (b, g) := toFormat 1 .rne false 0 (decodeElem 0 v.toNat)
    (b, f.or g)
  else (v.toNat, f)

/-- What lane and window `j` of a plane-slot see: the total of the members' DAC levels (R247, R252). -/
def lightTotal (s : State) (t w slot j : Nat) : Nat :=
  ((s.sums.light.filter (fun l => decide (l.receiver = t ∧ l.plane = w ∧ l.slot = slot))).map (fun l => l.levels.getD j 0)).sum

/-- The code of a converter (R247): 8 bits over a full scale of 496 levels, to the nearest code, and off by its noise
(R257). [DESIGN CHOICE, safe: log 123] -/
def adcCode (total : Nat) (noise : Int) : Nat := (min 255 (((total * 255 + 248) / 496 : Nat) + noise)).toNat

/-- Write the sums of a plane-slot from the converters' codes. -/
def writeSums (t : Nat) (a : Arm) (i per optical : Nat) (adc : List Nat) (mesh : List (List Int)) (s : State) : State :=
  let r := a.record
  let n := valueBytes (aOutBf16 r)
  let key := t * 2 ^ 28 + aData r + n * i
  let ownBytes := valueBytes (aInBf16 r)
  let tainted := (aOwn r && spadPoisoned s (t * 2 ^ 28 + aOwnData r + ownBytes * i) (ownBytes * per)) ||
    (aAccumulate r && spadPoisoned s key (n * per))
  let outs := (List.range per).map (fun j =>
    let own := if aOwn r then valueAt s t (aOwnData r) (aInBf16 r) (i + j) else .fin false 0 0
    let m := (mesh.map (fun cs => cs.getD j 0)).sum
    let (y, f) := toFp32 (decide (own ≠ .nan)) (sumValue (scaleAt s t r (i + j)) (adc.getD j 0) optical m own)
    let (b, g) := sumBits (aOutBf16 r) (aAccumulate r) (leNat (spadBytes s (key + n * j) n)) y
    (b, f.or g))
  setTaskFlags t a.cluster (Sticky.all (outs.map (·.2))).byte
    (spadWrite key ((outs.map (fun o => leBytes n o.1)).flatten) tainted s)

/-! ### Claims (R259) -/

/-- The winners of a grant word: a claimed plane, an earlier winner of the same slot, or none. -/
def grantBody (s : State) (t slot : Nat) (winner : Nat → Nat) (aged void : Nat → Bool) : BitVec 64 :=
  let claimed (w : Nat) : Bool := decide ((t, w, slot) ∈ s.sums.claimed)
  mkWord (t * 2 ^ 60 + slot % 16 * 2 ^ 56 +
    ((List.range 8).map (fun w => (if claimed w then 0xC else winner w) * 2 ^ (4 * w + 24))).sum +
    2 ^ 16 * maskOf 8 (fun w => aged w && !claimed w) + 2 ^ 8 * maskOf 8 void)

/-- What the last decision of a Sheepdog gave for a slot. -/
def decided (s : State) (t w slot : Nat) : Option Decision :=
  (sheepdog s t w).last.bind (fun x => if x.slot = slot then some x else none)

/-- A RESERVE plane-slot that can carry a replay of a slot (R259). [DEDUCED, unsafe: log 181] -/
def replayPlace (s : State) (t slot : Nat) (x : Nat × Nat) : Bool :=
  decide (x.1 > slot) && decide (slotStart s x.1 ≥ slotStart s slot + 16) &&
    decide (slotType (slotDesc s t x.2 x.1 false) = stReserve)

/-- The first RESERVE plane-slot a receiver can claim; one that has begun cannot be claimed any more (R227). -/
def claimable (s : State) (t slot : Nat) : Option (Nat × Nat) :=
  planeSlots.find? (fun x => replayPlace s t slot x && decide (s.now ≤ slotStart s x.1) && decide ((t, x.2, x.1) ∉ s.sums.claimed))

/-- A sum notice word. -/
def mkNotice (recv slot plane origPlane origSlot coll missing : Nat) : BitVec 64 :=
  mkWord (recv * 2 ^ 60 + slot % 16 * 2 ^ 56 + plane * 2 ^ 53 + origPlane * 2 ^ 50 + origSlot * 2 ^ 42 + coll * 2 ^ 30 +
    missing * 2 ^ 22)

/-- Claim a RESERVE plane-slot: a second grant word, a notice, and a provisional grant undone (R227). -/
def claimReplay (t w slot coll missing : Nat) (x : Nat × Nat) (s : State) : State :=
  let s := { s with
    sums.claims := s.sums.claims ++
      [{ receiver := t, plane := x.2, slot := x.1, origPlane := w, origSlot := slot, collective := coll, missing := missing }]
    sums.claimed := s.sums.claimed ++ [(t, x.2, x.1)] }
  let word := grantBody s t x.1 (fun p => ((decided s t p x.1).map (·.winner)).getD 0xF)
    (fun p => ((decided s t p x.1).map (·.aged)).getD false) (fun _ => false)
  let s := if (decided s t x.2 x.1).isSome then voidDecision t x.2 s else s
  { s with
    pho.words := s.pho.words ++ [(true, t, word)]
    sums.notices := s.sums.notices ++ [mkNotice t x.1 x.2 w slot coll missing] }

/-- A plane-slot's sums cannot be had in this frame: written poisoned (R261). -/
def failSums (t : Nat) (a : Option Arm) (w slot coll missing i per : Nat) (s : State) : State :=
  let s := match a with
    | some a => poisonSums t a.record i per s
    | none => s
  raise 0x4012 (sumItems (some t) coll (some w) (some slot) (some missing)) (count32 0x401003 1 s)

/-! ### Evaluation (R258) -/

/-- What the receiver has of a member: its marker, and the codes of one on the mesh. None while it waits for a
mesh contribution (R262, R264). -/
def memberGot (s : State) (x : SumWait) (m : Nat × Option (BitVec 32)) : Option (BitVec 32 × Option (List Int)) :=
  match m.2 with
  | some light => some (light, none)
  | none => (s.sums.shares.find? (fun h => decide (h.receiver = x.receiver ∧ h.member = m.1 ∧ h.collective = x.collective ∧
      h.plane = x.plane ∧ h.slot = x.slot))).map (fun h => (h.marker, some h.codes))

/-- The sums of a plane-slot are written: a region whose phase has waited for them goes on (R262). -/
def sumsWritten (x : SumWait) (s : State) : State := match x.start with
  | none => s
  | some st => waitRegion x.receiver st s x.arm.cluster

/-- The table of R258, over the markers of all members. [DESIGN CHOICE, safe: log 123] -/
def evaluateSums (x : SumWait) (got : List (BitVec 32 × Option (List Int))) (s : State) : State :=
  let t := x.receiver
  let r := x.arm.record
  let codes := got.map (fun g => markerCode g.1)
  let missing := maskOf 8 (fun j => decide (codes.getD j 0 = mNotReady))
  let items (m : Option Nat) := sumItems (some t) x.collective (some x.origPlane) (some x.origSlot) m
  let bad (s : State) : State := raise 0x4013 (items none) (count32 0x401004 1 s)
  let fail (s : State) : State := failSums t (some x.arm) x.origPlane x.origSlot x.collective missing x.first x.per s
  let own := scaleCheck s t r x.first x.per
  if mPoison ∈ codes then sumsWritten x (bad (poisonSums t r x.first x.per s))
  else if mInvalid ∈ codes ∨ (codes.all (· = mReady) ∧ got.any (fun g => decide (bits g.1 23 8 ≠ own))) then
    sumsWritten x (bad (nanSums t x.arm.cluster r x.first x.per s))
  else if mNotReady ∈ codes then
    if x.replay then sumsWritten x (fail s)
    else
      let s := raise 0x4011 (items (some missing)) (count64 0x401002 1 s)
      match (if x.frame = s.frame.count then claimable s t x.origSlot else none) with
      | none => sumsWritten x (fail s)
      | some y => claimReplay t x.origPlane x.origSlot x.collective missing y s
  else
    let mesh := got.filterMap (·.2)
    sumsWritten x (count64 0x401001 1 (writeSums t x.arm x.first x.per (got.length - mesh.length) x.adc mesh s))

/-- Evaluate a plane-slot, or wait for its members on the mesh. [DEDUCED, safe: log 173] -/
def tryEvaluate (x : SumWait) (s : State) : State :=
  let got := x.members.map (memberGot s x)
  if got.any (·.isNone) then { s with sums.waiting := s.sums.waiting ++ [x] } else evaluateSums x (got.filterMap id) s

/-- The plane-slots that wait are looked at again: a contribution has arrived. -/
def retrySums (s : State) : State := s.sums.waiting.foldl (fun s x => tryEvaluate x s) { s with sums.waiting := [] }

/-- When the phase that consumes the sums of a plane-slot starts at the receiver: the phase its descriptors name, where it
starts after the slot (R46, R262). [DEDUCED, safe: log 173] -/
def sumStart (s : State) (recv w slot coll : Nat) : Option Nat :=
  match templateOf s recv false, (sumMembers s recv w slot coll).head? with
  | some (img, i), some m => match phaseEntry img i (slotPhase (slotDesc s m w slot false)) with
    | some e => if slot < phaseStart (phaseWord img e) then some (phaseStartTime s img e) else none
    | none => none
  | _, _ => none

/-- LIGHT_SUM_EVALUATE (R258). `markers` are those that arrived as light, by member; `noise` is what the converters' codes
are off by, by window, then lane. [DESIGN CHOICE, safe: log 123] -/
def lightSum (t w slot : Nat) (markers : List (BitVec 32)) (noise : List Int) (s : State) : State :=
  let claim := s.sums.claims.find? (fun c => decide (c.receiver = t ∧ c.plane = w ∧ c.slot = slot) && !c.done)
  let what : Option (Nat × (Nat × Nat)) := match claim with
    | some c => some (c.collective, (c.origSlot, c.origPlane))
    | none => if slotsDark s t then none else (sumCollective s t w slot).map (fun coll => (coll, (slot, w)))
  match what with
  | none => s
  | some (coll, orig) =>
    if (t, w, slot) ∈ s.sums.evaluated then s
    else
      let s := { s with
        sums.evaluated := s.sums.evaluated ++ [(t, w, slot)]
        sums.claims := s.sums.claims.map (fun c =>
          if c.receiver = t ∧ c.plane = w ∧ c.slot = slot then { c with done := true } else c) }
      match armFor s t coll true slot with
      | none => raise 0x4014 (sumItems (some t) coll (some w) (some slot) none) s
      | some a =>
        let ms := sumMembers s t orig.2 orig.1 coll
        let per := 4 * windowsOf s (aWindow a.record)
        tryEvaluate {
          receiver := t
          collective := coll
          plane := w
          slot := slot
          origPlane := orig.2
          origSlot := orig.1
          replay := claim.isSome
          frame := s.frame.count
          arm := a
          first := firstValue (receiverSlots s t coll) per orig.2 orig.1
          per := per
          start := sumStart s t orig.2 orig.1 coll
          members := ms.zipIdx.map (fun (m, j) => (m, if sumPathOut s m t w j then none else some (markers.getD j 0)))
          adc := (List.range per).map (fun j => adcCode (lightTotal s t w slot j) (noise.getD j 0)) } s

def execLightSumEvaluate (tower : Tower) (plane : Plane) (slot : BitVec 8) (markers : List (BitVec 32)) (noise : List Int)
    (s : State) : Host.Outcome State Fault Refusal :=
  .next (lightSum tower plane slot.toNat markers noise s)

/-- The frame ends: a claim that has not been evaluated fails (R261), and the frame's sums state starts afresh. A
plane-slot that waits for a member on the mesh goes on waiting (R262). -/
def endSumsFrame (s : State) : State :=
  let s := (s.sums.claims.filter (fun c => !c.done)).foldl (fun s c =>
    let a := armFor s c.receiver c.collective true c.slot
    let per := match a with
      | some a => 4 * windowsOf s (aWindow a.record)
      | none => 0
    let s := failSums c.receiver a c.origPlane c.origSlot c.collective c.missing
      (firstValue (receiverSlots s c.receiver c.collective) per c.origPlane c.origSlot) per s
    match a, sumStart s c.receiver c.origPlane c.origSlot c.collective with
    | some a, some st => waitRegion c.receiver st s a.cluster
    | _, _ => s) s
  { s with sums := { notices := s.sums.notices, waiting := s.sums.waiting } }

/-! ### Notices and mesh members (R260, R264) -/

def nReceiver (w : BitVec 64) : Nat := bits w 63 60
def nSlot (w : BitVec 64) : Nat := bits w 59 56
def nPlane (w : BitVec 64) : Nat := bits w 55 53
def nOrigPlane (w : BitVec 64) : Nat := bits w 52 50
def nOrigSlot (w : BitVec 64) : Nat := bits w 49 42
def nColl (w : BitVec 64) : Nat := bits w 41 30

/-- The RESERVE slot that a notice names by its low 4 bits: the first that can carry the replay and that no earlier notice
of the receiver has named. [DEDUCED, unsafe: log 181] -/
def noticeSlot (s : State) (t : Nat) (w : BitVec 64) : Option Nat :=
  (List.range 256).find? (fun n => decide (n % 16 = nSlot w) && replayPlace s t (nOrigSlot w) (n, nPlane w) &&
    !s.sums.replays.any (fun r => decide (r.member = t ∧ r.receiver = nReceiver w ∧ r.plane = nPlane w ∧ r.slot = n)))

/-- SUM_NOTICE (R260): every member of the plane-slot it names replays in the RESERVE plane-slot. [DEDUCED, safe: log
20] -/
def sumNotice (t : Nat) (w : BitVec 64) (s : State) : State :=
  match noticeSlot s t w with
  | none => s
  | some m =>
    if !wordValid w ∨ lightTarget s t (nOrigPlane w) (nOrigSlot w) (nColl w) ≠ some (nReceiver w) then s
    else { s with sums.replays := s.sums.replays ++
        [{ member := t, receiver := nReceiver w, plane := nPlane w, slot := m, origPlane := nOrigPlane w,
           origSlot := nOrigSlot w, collective := nColl w }] }

def execSumNotice (tower : Tower) (word : BitVec 64) (s : State) : Host.Outcome State Fault Refusal :=
  .next (sumNotice tower word s)

/-- The replay a member carries out in a plane-slot: for the lowest receiver that has asked. [DEDUCED, safe: log 20] -/
def replayFor (s : State) (t w slot : Nat) : Option Replay :=
  let mine := s.sums.replays.filter (fun r => decide (r.member = t ∧ r.plane = w ∧ r.slot = slot))
  mine.find? (fun r => mine.all (fun q => decide (r.receiver ≤ q.receiver)))

/-- The mesh contributions from or to some towers are lost: a marker that does not arrive counts as NOT_READY (R258). -/
def loseShares (ts : List Nat) (s : State) : State :=
  let lost (m : Nat × Option (BitVec 32)) : Nat × Option (BitVec 32) := if m.1 ∈ ts then (m.1, some (m.2.getD 0)) else m
  retrySums { s with sums.waiting := (s.sums.waiting.filter (fun x => decide (x.receiver ∉ ts))).map (fun x =>
    { x with members := x.members.map lost }) }

/-- MESH_MEMBER_CONTRIBUTION (R264): the first of its kind that is on the mesh arrives. [DESIGN CHOICE, safe: log 19] -/
def meshMember (t member coll w slot : Nat) (s : State) : State :=
  let is (m : MeshPacket) : Bool := decide (m.source = member ∧ m.dest = t) && (match m.load with
    | .sumMember c p n _ _ => decide (c = coll ∧ p = w ∧ n = slot)
    | _ => false)
  match s.pho.mesh.find? is with
  | none => s
  | some m => match m.load with
    | .sumMember _ _ _ marker codes =>
      let x : MeshShare := { receiver := t, member := member, collective := coll, plane := w, slot := slot,
                             marker := marker, codes := codes }
      let s := count64 0x401005 1 { s with
        pho.mesh := s.pho.mesh.eraseP is
        sums.shares := s.sums.shares ++ [x] }
      let s := if (t, coll) ∈ s.sums.meshed then s
        else raise 0x4015 (sumItems (some t) coll (some w) (some slot) none)
          { s with sums.meshed := s.sums.meshed ++ [(t, coll)] }
      retrySums s
    | _ => s

def execMeshMemberContribution (tower member : Tower) (collective : BitVec 12) (plane : Plane) (slot : BitVec 8)
    (s : State) : Host.Outcome State Fault Refusal :=
  .next (meshMember tower member collective.toNat plane slot.toNat s)

end Sys2Proof.Machine
end

