-- ==== Sys2Proof/Machine/Photonic.lean ====
section
/-! DEFINITION. The photonic base layer: slot boundaries, the oldest-waiter arbiters, slots received, open packets
and the bridle mesh (R215 to R245, R595). -/

namespace Sys2Proof.Machine

/-! ### What a source holds (R228, R235) -/

/-- Packets a source holds for a destination. -/
def heldFor (s : State) (t d : Nat) : List Held := Tab.look [] s.pho.held (12 * t + d)

/-- Flits that wait to be retransmitted on a path. -/
def againOn (s : State) (t d w : Nat) : List Nat := (txOf s (pathLink t d w)).again

/-- Mesh traffic of a pair that waits for open slots (R242). [DESIGN CHOICE, safe: log 170] -/
def ridesFor (s : State) (t d : Nat) : List MeshPacket := s.pho.rides.filter (fun m => decide (m.source = t ∧ m.dest = d))

/-- Something to send to a destination on a plane. -/
def holdsOn (s : State) (t d w : Nat) : Bool :=
  decide (heldFor s t d ≠ []) || decide (againOn s t d w ≠ []) || decide (ridesFor s t d ≠ [])

/-- Nothing to send to a destination on any plane. -/
def holdsNone (s : State) (t d : Nat) : Bool := (List.range 8).all (fun w => !holdsOn s t d w)

/-- Class 0 traffic on a plane: a retransmission, mesh traffic that rides, or a class 0 packet. -/
def classZero (s : State) (t d w : Nat) : Bool :=
  decide (againOn s t d w ≠ []) || decide (ridesFor s t d ≠ []) || (heldFor s t d).any (fun h => decide (h.class_ = 0))

/-- The class of a kind of open packet (R228). -/
def openClass (kind : Nat) : Nat := if kind = 1 ∨ kind = 2 ∨ kind = 4 then 1 else 0

/-- A packet of this class from this source is on its way over the mesh: later ones wait (R595). -/
def meshAhead (s : State) (t d c : Nat) : Bool :=
  (s.pho.mesh ++ s.pho.rides).any (fun m => decide (m.source = t ∧ m.dest = d) && (match m.load with
    | .packet p => decide (openClass (oKind p.header) = c)
    | _ => false))

/-- Packets from the front of a queue that fit a number of bytes. -/
def fitHeld : Nat → List Held → List Held
  | _, [] => []
  | room, h :: hs => if 16 + h.packet.data.length ≤ room then h :: fitHeld (room - 16 - h.packet.data.length) hs else []

/-- The packets of a granted slot: class 0 first, each class oldest first. -/
def openContent (s : State) (t d room : Nat) : List Held :=
  let q := heldFor s t d
  let pick (c room : Nat) : List Held := if meshAhead s t d c then [] else fitHeld room (q.filter (fun h => decide (h.class_ = c)))
  let a := pick 0 room
  a ++ pick 1 (room - (a.map (fun h => 16 + h.packet.data.length)).sum)

/-- The bytes of an open packet. -/
def openBytes (p : OpenPacket) : Bytes := leBytes 16 p.header.toNat ++ p.data

/-! ### Sending a slot (R221 to R224, R235, R294) -/

/-- Where the first header that begins in a flit stands: the slot's headers begin at `heads` of its content (R274). -/
def firstHead (heads : List Nat) (i : Nat) : Nat :=
  ((heads.find? (fun h => decide (240 * i ≤ h ∧ h < 240 * i + 240))).map (· - 240 * i)).getD 0xFFFF

/-- Flits leave in a slot of a path: retransmitted ones, then the new content, whose headers begin at `heads`; mesh
traffic rides with them. -/
def putSlot (t d w slot : Nat) (again : List Nat) (content : Bytes) (heads : List Nat) (rides : List MeshPacket) (s : State) :
    State :=
  let n := pathLink t d w
  let x := txOf s n
  let olds := again.filterMap (fun q => x.unacked.find? (fun f => decide (f.seq = q)))
  let chunks := (flitChunks 240 content.length true content).map (·.2)
  let fresh := chunks.zipIdx.map (fun (c, i) =>
    { seq := (x.next + i) % 1024, first := firstHead heads i, data := padTo 240 c, sentAt := s.now : TxFlit })
  let s := changeTx n (fun x => { x with
    next := (x.next + fresh.length) % 1024
    again := x.again.filter (fun q => decide (q ∉ again))
    unacked := (x.unacked.map (fun f => if f.seq ∈ again then { f with tries := f.tries + 1, sentAt := s.now } else f)) ++ fresh }) s
  let flits := (olds ++ fresh).map (fun f => mkFlit 0 f.seq 0 0 f.first f.data)
  let active := activeLanes 32 (if pathHalf s t d w then (link s n).half + 1 else 0)
  let sent : SlotSent := { source := t, plane := w, dest := d, slot := slot, flits := flits, rides := rides,
                           symbols := windowSymbols active flits }
  let s := count64 0x400006 olds.length s
  let s := carryFlits t 0 w flits s
  { s with pho.slots :=
      s.pho.slots.filter (fun y => !decide (y.source = t ∧ y.plane = w ∧ y.dest = d ∧ y.slot = slot)) ++ [sent] }

/-- Room of the window for new flits on a path. -/
def windowRoom (s : State) (t d w : Nat) : Nat := flitWindow - (txOf s (pathLink t d w)).unacked.length

/-- The code of the frame in force. -/
def codeNow (s : State) : Nat := s.frame.code.toNat

/-- A slot header for this frame and slot. -/
def slotHeaderNow (s : State) (t w slot type flow len : Nat) : Bytes :=
  leBytes 16 (mkSlotHeader (mkStamp s.frame.number slot 0) t w type flow len).toNat

/-- Links between the routers of two towers (R240). -/
def meshHops (a b : Nat) : Nat := (max (a / 3) (b / 3) - min (a / 3) (b / 3)) + (max (a % 3) (b % 3) - min (a % 3) (b % 3))

/-- When bytes sent now over the mesh have arrived: after the longest latency of R240 and their time at 64 GB/s, or at 32
where a mesh bundle runs at half width (R333), behind those sent before. [DESIGN CHOICE, unsafe: log 171] -/
def meshDue (s : State) (t d n : Nat) : Nat :=
  let before := s.pho.mesh.filterMap (fun m => match m.load with
    | .scheduled _ _ _ _ due _ => if m.source = t ∧ m.dest = d then some due else none
    | _ => none)
  let rate := if bundleHalf (bundle s t 0x20) || bundleHalf (bundle s d 0x21) then 32 else 64
  before.foldl max (s.now + 10 + 6 * meshHops t d) + (n + rate - 1) / rate

/-- Scheduled bytes go over the mesh: counted in units of 64 bytes, reported when the flow first moves. -/
def meshScheduled (t d w slot type flow : Nat) (data : Bytes) (s : State) : State :=
  if data = [] then s
  else
    let key := (type * 4096 + flow) * 12 + t
    let s := count64 0x400008 ((data.length + 63) / 64) s
    let s := if key ∈ s.pho.fallen then s
      else raise 0x4005 (phoItems t (some d) (some w) none) { s with pho.fallen := s.pho.fallen ++ [key] }
    let stamp := (mkStamp s.frame.number slot 0).toNat
    sendMesh t d (.scheduled type flow w stamp (meshDue s t d data.length) data) s

/-- Tokens queued for the EXPERT slots of a group toward a tower. -/
def queuedTokens (s : State) (t g d : Nat) : Nat :=
  (s.parts.expertQueue.filter (fun x => decide (x.cluster / 12 = t ∧ x.group = g ∧ x.tower = d))).length

/-- The first `n` of them leave. -/
def dropTokens (t g d : Nat) : Nat → List ExpertSend → List ExpertSend
  | 0, xs => xs
  | _, [] => []
  | n + 1, x :: xs =>
    if x.cluster / 12 = t ∧ x.group = g ∧ x.tower = d then dropTokens t g d n xs else x :: dropTokens t g d (n + 1) xs

/-- A SCHED, a digital COLL or an EXPERT slot (R224, R243, R294). `supply` holds the next bytes of its flow. With no room
in the window of its path the slot stays dark, and its bytes wait. -/
def scheduledSlot (t w slot : Nat) (desc : Nat) (supply : Bytes) (s : State) : State :=
  let d := descDest s t w slot false desc
  let type := slotType desc
  let flow := slotFlow desc
  let full := slotPayload (codeNow s) false false
  let size := match templateOf s t false with
    | some (img, _) => ((groupEntry img flow).map (groupTokenBytes img)).getD 1
    | none => 1
  let n := min (queuedTokens s t flow d) (min (full / max size 1) (supply.length / max size 1))
  let data := if type = stExpert then supply.take (n * size) else supply.take full
  let room := if !pathUp s t d w then 0 else if pathHalf s t d w then slotPayload (codeNow s) false true else full
  let light := data.take room
  if data = [] ∨ d ≥ 12 ∨ (type = stSched ∧ phaseSkipped s t (slotPhase desc)) ∨
      (light ≠ [] ∧ (light.length + 16 + 239) / 240 > windowRoom s t d w) then s
  else
    let s := if type = stExpert then { s with parts.expertQueue := dropTokens t flow d n s.parts.expertQueue } else s
    let s := oweBytes t d w slot (slotPhase desc) data.length s
    let s := meshScheduled t d w slot type flow (data.drop room) s
    if light = [] then s
    else putSlot t d w slot [] (slotHeaderNow s t w slot type flow light.length ++ light) [0] [] s

/-- No scheduled descriptor of a template frame of a tower's partition reserves its ingress waveguide in a slot; where the
sender follows another template, in some frame of it. [DEDUCED, safe: log 180] -/
def openToward (s : State) (t d w n f : Nat) : Bool := match templateOf s d false with
  | none => true
  | some (img, _) =>
    let free (f : Nat) : Bool := (maskTowers (tmplMask img)).all (fun u =>
      let x := slotWord img f u w n
      decide (u = d) || !scheduledType (slotType x) ||
        decide ((if slotType x = stExpert then expertDest img f u w n else slotDest x) ≠ d))
    if partitionOf s t = partitionOf s d then free f else (List.range (tmplPeriod img)).any free

/-- The plane of a source offers an ordinary OPEN slot toward a destination somewhere in its period (R595). -/
def offersOpen (s : State) (t d w : Nat) : Bool := match templateOf s t false with
  | none => (List.range 256).any (fun n => openToward s t d w n 0)
  | some (img, _) => (List.range (tmplPeriod img)).any (fun f =>
      (List.range 256).any (fun n => decide (slotType (slotWord img f t w n) = stOpen) && openToward s t d w n f))

/-- The packet at the head of its class goes over the mesh when no slot of the plane can ever carry it (R595). -/
def meshPacketOut (t d w c room : Nat) (s : State) : State :=
  match (heldFor s t d).find? (fun h => decide (h.class_ = c)) with
  | none => s
  | some h =>
    if 16 + h.packet.data.length ≤ room ∨ meshAhead s t d c ∨ offersOpen s t d w then s
    else sendMesh t d (.packet h.packet) { s with pho.held := Tab.change [] (12 * t + d) (fun q => q.erase h) s.pho.held }

/-- What a granted slot carries (R235), taken from where it waits; none when there is nothing to send or the path is out
of service. [DEDUCED, safe: log 180] -/
def takeContent (t w slot : Nat) (reserve : Bool) (g : Grant) (s : State) : Option (Launch × State) :=
  let d := g.dest
  if !pathUp s t d w then none
  else
    let flits := slotFlits (codeNow s) reserve (pathHalf s t d w)
    let again := (againOn s t d w).take flits
    let fresh := min (flits - again.length) (windowRoom s t d w)
    let packets := openContent s t d (240 * fresh - 16)
    let rides := if fresh = 0 then [] else ridesFor s t d
    if again = [] ∧ packets = [] ∧ rides = [] then none
    else
      let x : Launch := { source := t, plane := w, slot := slot, dest := d, at_ := slotStart s slot + 6, aged := g.aged,
                          again := again, packets := packets, rides := rides }
      some (x, { s with
        pho.held := Tab.change [] (12 * t + d) (fun q => q.filter (fun h => decide (h ∉ packets))) s.pho.held
        pho.rides := s.pho.rides.filter (fun m => decide (m ∉ rides)) })

/-- The content leaves; the grant is used. -/
def launchSlot (x : Launch) (reserve : Bool) (s : State) : State :=
  let body := (x.packets.map (fun h => openBytes h.packet)).flatten
  let content := if body = [] ∧ x.rides = [] then []
    else slotHeaderNow s x.source x.plane x.slot (if reserve then stReserve else stOpen) 0 body.length ++ body
  let heads := 0 :: (x.packets.foldl (fun (acc : List Nat × Nat) h => (acc.1 ++ [acc.2], acc.2 + 16 + h.packet.data.length)) ([], 16)).1
  putSlot x.source x.dest x.plane x.slot x.again content heads x.rides (count64 0x400002 1 (count64 0x400003 (flag x.aged) s))

/-- The launches whose moment has come, or that `now_` names, take place (R227). [DEDUCED, safe: log 180] -/
def launchDue (now_ : Launch → Bool) (s : State) : State :=
  let due (x : Launch) : Bool := now_ x || decide (x.at_ ≤ s.now)
  (s.pho.launches.filter due).foldl (fun s x => launchSlot x true s)
    { s with pho.launches := s.pho.launches.filter (fun x => !due x) }

/-- A granted slot (R227, R234, R235): whether it is returned unused, and the state. The content of a RESERVE slot waits
for its launch. -/
def openSlot (t w slot : Nat) (reserve : Bool) (g : Grant) (s : State) : Bool × State :=
  let room := slotPayload (codeNow s) reserve (pathHalf s t g.dest w)
  let spill (s : State) : State :=
    if reserve ∧ pathUp s t g.dest w then meshPacketOut t g.dest w 1 room (meshPacketOut t g.dest w 0 room s) else s
  match takeContent t w slot reserve g s with
  | none => (true, spill s)
  | some (x, s) =>
    (false, if reserve then spill { s with pho.launches := s.pho.launches ++ [x] } else launchSlot x false s)

/-! ### Received bytes (R224, R239, R243, R265) -/

/-- Where received bytes of a flow stand: of a collective, by member. -/
def receivedKey (type flow t src : Nat) : Nat :=
  ((type * 4096 + flow) * 12 + t) * 13 + (if type = stColl then src else 12)

/-- The members of a digital collective at a receiver, rising (R265). -/
def digitalMembers (s : State) (t coll : Nat) : List Nat :=
  allTowers.filter (fun u => planeSlots.any (fun x =>
    let d := slotDesc s u x.2 x.1 false
    decide (slotType d = stColl ∧ slotFlow d = coll ∧ slotDest d = t) && !slotLight d))

/-- The hub's add (R265): FP32 with RNE, member by member. -/
def addMembers (bf16 : Bool) (vs : List Bytes) : BitVec 32 := match vs.map (fun v => decodeElem (if bf16 then 1 else 0) (leNat v)) with
  | [] => 0
  | x :: xs => xs.foldl (fun acc y => (toFp32 true (sumNum [decodeElem 0 acc.toNat, y])).1) (toFp32 true x).1

/-- The values that every member has contributed and that are not summed yet are added. The receiver's arm record names
formats and destination, where it has one; else the values are BF16, and the sums stay at the hub. [DESIGN CHOICE,
unsafe: log 172] -/
def sumDigital (t coll : Nat) (s : State) : State :=
  let arm := s.sums.arms.reverse.find? (fun a => decide (a.tower = t ∧ aColl a.record = coll) && aReceiver a.record)
  let bf16 := (arm.map (fun a => aInBf16 a.record)).getD true
  let n := valueBytes bf16
  let shares := (digitalMembers s t coll).map (fun u => Tab.look [] s.pho.received (receivedKey stColl coll t u))
  let key := 12 * coll + t
  let done := (Tab.look [] s.pho.summed key).length / 4
  let whole := ((leastOf (shares.map (·.length))).getD 0) / n
  if whole ≤ done then s
  else
    let news := (List.range (whole - done)).map (fun j => addMembers bf16 (shares.map (fun b => slice b (n * (done + j)) n)))
    let s := { s with pho.summed := Tab.change [] key (· ++ (news.map (fun v => leBytes 4 v.toNat)).flatten) s.pho.summed }
    match arm with
    | none => s
    | some a =>
      let m := valueBytes (aOutBf16 a.record)
      let at_ := t * 2 ^ 28 + aData a.record + m * done
      let outs := news.zipIdx.map (fun (v, j) =>
        sumBits (aOutBf16 a.record) (aAccumulate a.record) (leNat (spadBytes s (at_ + m * j) m)) v)
      setTaskFlags t a.cluster (Sticky.all (outs.map (·.2))).byte
        (spadWrite at_ ((outs.map (fun o => leBytes m o.1)).flatten) false s)

/-- Received bytes of a flow, collective or expert group, in the order of arrival (R224); those of a digital collective are
summed. -/
def receiveFlow (type flow t src : Nat) (data : Bytes) (s : State) : State :=
  let s := { s with pho.received := Tab.change [] (receivedKey type flow t src) (· ++ data) s.pho.received }
  if type = stColl then sumDigital t flow s else s

/-- Scheduled bytes on the mesh whose time has come arrive at their hubs, in order (R243). [DESIGN CHOICE, unsafe:
log 171] -/
def meshArrivals (s : State) : State :=
  let due (m : MeshPacket) : Bool := match m.load with
    | .scheduled _ _ _ _ at_ _ => decide (at_ ≤ s.now)
    | _ => false
  (s.pho.mesh.filter due).foldl (fun s m => match m.load with
    | .scheduled type flow w stamp _ data =>
      bytesArrive m.source m.dest w stamp data.length (receiveFlow type flow m.dest m.source data s)
    | _ => s) { s with pho.mesh := s.pho.mesh.filter (fun m => !due m) }

/-! ### SLOT_BOUNDARY (R227 to R229, R234) -/

/-- One plane at a slot boundary: whether a grant is returned unused. -/
def planeBoundary (t slot w : Nat) (supply : List (Plane × Bytes)) (late : List Plane) (s : State) : Bool × State :=
  let d := slotDesc s t w slot false
  let kind := slotType d
  let grant := (grantOf s t w).bind (fun g => if g.slot = slot then some g else none)
  let s := if grant.isSome then dropGrant t w s else s
  let isLate := late.any (fun p => decide (p.val = w))
  match (if kind = stReserve then replayFor s t w slot else none) with
  | some r => (grant.isSome, memberLight t r.receiver r.collective (r.origSlot, r.origPlane) (slot, w) isLate s)
  | none =>
    if scheduledType kind then
      if slotsDark s t then (grant.isSome, s)
      else if kind = stColl ∧ slotLight d then
        (grant.isSome, memberLight t (slotDest d) (slotFlow d) (slot, w) (slot, w) isLate s)
      else
        let bytes := ((supply.find? (fun x => decide (x.1.val = w))).map (·.2)).getD []
        (grant.isSome, scheduledSlot t w slot d bytes s)
    else match grant with
      | none => (false, s)
      | some g => if kind = stOpen ∨ kind = stReserve then openSlot t w slot (decide (kind = stReserve)) g s else (true, s)

/-- The order in which a source takes its destinations (R228): by class, by the age of the oldest packet, by
number. -/
def destOrder (s : State) (t : Nat) : List Nat :=
  let key (d : Nat) : Nat × Nat :=
    let zero := (List.range 8).any (fun w => classZero s t d w)
    let flits := (List.range 8).flatMap (fun w =>
      ((txOf s (pathLink t d w)).unacked.filter (fun f => decide (f.seq ∈ againOn s t d w))).map (·.sentAt))
    (1 - flag zero, (leastOf ((heldFor s t d).map (·.since) ++ flits)).getD 0)
  let ds := (allTowers.filter (fun d => decide (d ≠ t) && !holdsNone s t d)).map (fun d => (key d, d))
  let before (a b : (Nat × Nat) × Nat) : Bool :=
    decide (a.1.1 < b.1.1) || (decide (a.1.1 = b.1.1) && (decide (a.1.2 < b.1.2) || (decide (a.1.2 = b.1.2) && decide (a.2 ≤ b.2))))
  (ds.mergeSort before).map (·.2)

/-- A source can request a destination on a plane for the slot after `slot` (R228). -/
def canRequest (s : State) (t d w slot : Nat) : Bool :=
  let kind := slotType (slotDesc s t w ((slot + 1) % 256) (decide (slot = 255)))
  decide (kind = stOpen ∨ kind = stReserve) && pathUp s t d w && holdsOn s t d w && decide ((waiter s t d w).expiry ≤ s.now)

/-- The destinations named, plane by plane. -/
def nameDests (s : State) (t slot : Nat) (order : List Nat) : List Nat → List (Option Nat) → List (Option Nat)
  | [], acc => acc
  | w :: ws, acc =>
    let can := order.filter (fun d => canRequest s t d w slot)
    let d := (can.find? (fun d => decide (some d ∉ acc))).or can.head?
    nameDests s t slot order ws (acc ++ [d])

/-- The request word of a source (R228). -/
def requestWordNow (s : State) (t slot : Nat) (returns : List Nat) : BitVec 64 :=
  let names := nameDests s t slot (destOrder s t) (List.range 8) []
  let field (w : Nat) : Nat := match names.getD w none with
    | none => 0xF * 2
    | some d => 2 * d + (1 - flag (classZero s t d w))
  mkWord (t * 2 ^ 60 + (slot + 1) % 16 * 2 ^ 56 + 2 ^ 48 * maskOf 8 (fun w => decide (w ∈ returns)) +
    ((List.range 8).map (fun w => field w * 2 ^ (5 * w + 8))).sum)

/-- A source that has ceased to hold packets for a destination waits no more (R233). -/
def clearIdleWaiters (t : Nat) (s : State) : State :=
  (allTowers.filter (fun d => decide (d ≠ t) && holdsNone s t d)).foldl (fun s d =>
    (List.range 8).foldl (fun s w => clearWaiter t d w s) s) s

/-- SLOT_BOUNDARY (R229). -/
def slotBoundary (t slot : Nat) (supply : List (Plane × Bytes)) (late : List Plane) (s : State) : State :=
  if !(receiver s t).optical ∨ !towerUp s t then s
  else
    let s := meshArrivals (launchDue (fun x => decide (x.source = t)) (advanceTo (slotStart s slot) s))
    let s := if slot = 0x80 then tickDue s else s
    let (returns, s) := (List.range 8).foldl (fun (acc : List Nat × State) w =>
      let (r, s) := planeBoundary t slot w supply late acc.2
      (if r then acc.1 ++ [w] else acc.1, s)) ([], s)
    let s := clearIdleWaiters t s
    { s with pho.words := s.pho.words ++ [(false, t, requestWordNow s t slot returns)] }

def execSlotBoundary (tower : Tower) (slot : BitVec 8) (supply : List (Plane × Bytes)) (late : List Plane) (s : State) :
    Host.Outcome State Fault Refusal :=
  .next (slotBoundary tower slot.toNat supply late s)

/-! ### The arbiters (R228 to R234, R244) -/

/-- A word that fails its check or its slot field (R244). -/
def badArbitration (t : Nat) (other : Option Nat) (s : State) : State :=
  raise 0x4003 (phoItems t other none none) (count32 0x400005 1 s)

/-- A source's request on one plane replaces its earlier one. -/
def putRequest (d w src : Nat) (r : Option Request) (s : State) : State :=
  let new : List Request := r.toList
  changeSheepdog d w (fun g => { g with requests := g.requests.filter (fun q => decide (q.source ≠ src)) ++ new }) s

/-- The grant that a return flag gives back: the last decision of the plane, for the slot now running. -/
def takeReturn (d w src : Nat) (s : State) : State := match decided s d w (slotAt s) with
  | none => s
  | some x => if x.winner = src then voidDecision d w s else s

/-- REQUEST_WORD at a destination (R228, R234, R244). -/
def requestArrives (d : Nat) (word : BitVec 64) (s : State) : State :=
  let src := qSource word
  if !wordValid word ∨ qSlot word ≠ (slotAt s + 1) % 16 then
    badArbitration d (some src) ((List.range 8).foldl (fun s w => putRequest d w src none s) s)
  else if src ≥ 12 ∨ src = d then s
  else (List.range 8).foldl (fun s w =>
    let s := if qReturn word w then takeReturn d w src s else s
    putRequest d w src (if qDest word w = d then some { source := src, class_ := qClass word w } else none) s) s

def execRequestWord (tower : Tower) (word : BitVec 64) (s : State) : Host.Outcome State Fault Refusal :=
  .next (requestArrives tower word s)

/-- The wait age of a requester at a decision (R233). -/
def waitAge (s : State) (src d w start : Nat) : Nat := match (waiter s src d w).firstLoss with
  | none => 0
  | some f => start - f

/-- The winner among the requests that are not blocked (R232). -/
def chooseWinner (s : State) (d w start : Nat) (g : Sheepdog) (rs : List Request) : Option (Nat × Bool) :=
  if rs = [] then none
  else if g.count = 7 then
    let best := (rs.map (fun r => waitAge s r.source d w start)).foldl max 0
    (leastOf ((rs.filter (fun r => decide (waitAge s r.source d w start = best))).map (·.source))).map (·, true)
  else
    let low := (leastOf (rs.map (·.class_))).getD 0
    let cs := (rs.filter (fun r => decide (r.class_ = low))).map (fun r => (r.source + 12 - g.pointer) % 12)
    (leastOf cs).map (fun x => ((x + g.pointer) % 12, false))

/-- The alarm of R244, once in a wait, for every source that has lost, whether or not it requests. -/
def waitAlarm (src d w start : Nat) (s : State) : State :=
  let age := waitAge s src d w start
  let limit := dictNat s 0x400007
  if limit = 0 ∨ age ≤ limit ∨ waiterKey src d w ∈ s.pho.alarmed then s
  else raise 0x4004 (phoItems d (some src) (some w) (some age))
    { s with pho.alarmed := s.pho.alarmed ++ [waiterKey src d w] }

/-- The decision of one plane in a slot, for the next (R229, R231, R232). -/
def decidePlane (d w slot : Nat) (s : State) : State :=
  let next := (slot + 1) % 256
  let g := sheepdog s d w
  let start := slotStart s slot
  let shut := ingressReserved s d w next (decide (slot = 255)) || decide ((d, w, next) ∈ s.sums.claimed)
  let rs := if shut then [] else g.requests.filter (fun r => pathUp s r.source d w)
  let voided := if g.void then g.voided else []
  match chooseWinner s d w start g rs with
  | none => changeSheepdog d w (fun g => { g with requests := [], last := none, voided := voided }) s
  | some (win, aged) =>
    let losers := (rs.filter (fun r => decide (r.source ≠ win))).map (fun r =>
      { source := r.source, before := waiter s r.source d w : Loser })
    let s := losers.foldl (fun s l => setWaiter l.source d w (loseOnce start l.before) s) s
    changeSheepdog d w (fun g => { g with
      count := if aged then 0 else g.count + 1
      pointer := if aged then g.pointer else (win + 1) % 12
      requests := []
      voided := voided
      last := some { slot := next, start := start, winner := win, aged := aged, countBefore := g.count, losers := losers } }) s

/-- SHEEPDOG_DECISION (R229): 4 ns into a slot, for the next; the grant word goes out. -/
def sheepdogDecision (d slot : Nat) (s : State) : State :=
  if !(receiver s d).optical ∨ !towerUp s d then s
  else
    let s := advanceTo (slotStart s slot + 4) s
    let next := (slot + 1) % 256
    let s := (List.range 8).foldl (fun s w =>
      decidePlane d w slot (allTowers.foldl (fun s t => waitAlarm t d w (slotStart s slot) s) s)) s
    let word := grantBody s d next (fun w => ((decided s d w next).map (·.winner)).getD 0xF)
      (fun w => ((decided s d w next).map (·.aged)).getD false) (fun w => (sheepdog s d w).void)
    let s := (List.range 8).foldl (fun s w => changeSheepdog d w (fun g => { g with void := false }) s) s
    { s with pho.words := s.pho.words ++ [(true, d, word)] }

def execSheepdogDecision (tower : Tower) (slot : BitVec 8) (s : State) : Host.Outcome State Fault Refusal :=
  .next (sheepdogDecision tower slot.toNat s)

/-- A claim that reaches a provisional grantee before its launch leaves the slot dark: what it would have carried waits on
(R227). -/
def withdraw (t d w slot : Nat) (s : State) : State :=
  let is (x : Launch) : Bool := decide (x.source = t ∧ x.dest = d ∧ x.plane = w ∧ x.slot = slot)
  match s.pho.launches.find? is with
  | none => s
  | some x => { s with
      pho.launches := s.pho.launches.eraseP is
      pho.held := Tab.change [] (12 * t + d) (x.packets ++ ·) s.pho.held
      pho.rides := x.rides ++ s.pho.rides }

/-- GRANT_WORD at a source (R227, R230, R233, R234, R244). -/
def grantArrives (t : Nat) (word : BitVec 64) (s : State) : State :=
  let d := gDest word
  let s := launchDue (fun _ => false) s
  if !wordValid word then
    badArbitration t none ((List.range 8).foldl (fun s w => dropGrant t w s) s)
  else if d ≥ 12 ∨ d = t then s
  else
    let here := slotAt s
    let slot := (here + (gSlot word + 16 - here % 16) % 16) % 256
    (List.range 8).foldl (fun s w =>
      let s := if gVoid word w then restoreLoser t d w s else s
      let s := if gWinner word w = 0xC then withdraw t d w slot s else s
      if gWinner word w = t then
        let g : Grant := { dest := d, slot := slot, aged := gAged word w,
                           provisional := decide (slotType (slotDesc s t w slot (decide (slot < here))) = stReserve) }
        clearWaiter t d w (putGrant t w g s)
      else match grantOf s t w with
        | none => s
        | some g => if g.dest = d ∧ g.slot = slot then dropGrant t w s else s) s

def execGrantWord (tower : Tower) (word : BitVec 64) (s : State) : Host.Outcome State Fault Refusal :=
  .next (grantArrives tower word s)

/-- NO_PREAMBLE (R244): the grant for the slot now running is undone in c, with no void flag. -/
def noPreamble (d w : Nat) (s : State) : State := match decided s d w (slotAt s) with
  | none => s
  | some x => changeSheepdog d w (fun g => { g with count := x.countBefore, last := none }) s

def execNoPreamble (tower : Tower) (plane : Plane) (s : State) : Host.Outcome State Fault Refusal :=
  .next (noPreamble tower plane s)

/-! ### SLOT_RECEIVED (R224, R237, R239, R282) -/

/-- Bytes of an open packet, by its header (R236). -/
def openLength (h : BitVec 128) : Nat := match oKind h with
  | 1 | 3 => 16 + 64 * oLines h
  | 4 => if oAtomic h = 7 then 32 else 24
  | 5 => 24
  | _ => 16

/-- The whole packets at the front of the bytes held. -/
def openPackets : Nat → Bytes → List OpenPacket × Bytes
  | 0, bs => ([], bs)
  | n + 1, bs =>
    let h := BitVec.ofNat 128 (leNat (bs.take 16))
    let len := openLength h
    if bs.length < 16 ∨ bs.length < len then ([], bs)
    else
      let (ps, rest) := openPackets n (bs.drop len)
      ({ header := h, data := slice bs 16 (len - 16) } :: ps, rest)

/-- Bytes of a slot are delivered under its header. -/
def deliverBytes (n : Nat) (h : BitVec 128) (left : Nat) (data : Bytes) (s : State) : State :=
  let part := data.take left
  let t := pathDst n
  let s := changeRx n (fun r => { r with header := some h, left := left - part.length }) s
  if scheduledType (sType h) then
    bytesArrive (pathSrc n) t (pathPlane n) (bits h 63 0) part.length (receiveFlow (sType h) (sFlow h) t (pathSrc n) part s)
  else
    let held := (rxOf s n).bytes ++ part
    let (ps, rest) := openPackets (held.length / 16) held
    let s := changeRx n (fun r => { r with bytes := rest }) s
    { s with pho.inbox := s.pho.inbox ++ ps.map (fun p => (t, p)) }

/-- One flit of a path is delivered: a slot's first begins with its header. -/
def deliverFlit (n : Nat) (data : Bytes) (s : State) : State :=
  let r := rxOf s n
  if r.left = 0 then
    let h := BitVec.ofNat 128 (leNat (data.take 16))
    deliverBytes n h (sLength h) (data.drop 16) s
  else deliverBytes n (r.header.getD 0) r.left data s

/-- One flit of a path reaches the receiving hub: checked (R275), taken in sequence, and delivered; a gap is answered at
once (R282). -/
def flitArrives (n : Nat) (f : Bytes) (s : State) : State :=
  let before := (rxOf s n).naking
  let s := if !flitIntact f then rxBad n s
    else if flitKind f ≠ 0 then s
    else
      let (out, s) := rxTake n (flitSeq f) (flitData f) s
      out.foldl (fun s d => deliverFlit n d s) s
  if !before ∧ (rxOf s n).naking then sendAckWord n s else s

/-- A slot reaches the receiving hub; the flits at the places of `errors` arrive as the bytes given there. Mesh traffic
that rode with it goes on from here. -/
def slotArrives (t src w slot : Nat) (errors : List (Nat × Bytes)) (s : State) : State :=
  let is (x : SlotSent) : Bool := decide (x.source = src ∧ x.plane = w ∧ x.dest = t ∧ x.slot = slot)
  let s := launchDue (fun x => decide (x.source = src ∧ x.plane = w ∧ x.dest = t ∧ x.slot = slot)) s
  match s.pho.slots.find? is with
  | none => s
  | some x =>
    let n := pathLink src t w
    let s := x.rides.foldl (fun s m => putMesh m s) { s with pho.slots := s.pho.slots.eraseP is }
    let got (f : Bytes) (i : Nat) : Bytes := ((errors.find? (fun e => decide (e.1 = i))).map (·.2)).getD f
    let s := carryFlits t 16 w (x.flits.zipIdx.map (fun (f, i) => got f i)) s
    sendAckWord n (x.flits.zipIdx.foldl (fun s (f, i) => flitArrives n (got f i) s) s)

def execSlotReceived (tower source : Tower) (plane : Plane) (slot : BitVec 8) (errors : List (Nat × Bytes)) (s : State) :
    Host.Outcome State Fault Refusal :=
  .next (slotArrives tower source plane slot.toNat errors s)

/-! ### Open packets (R236, R237) -/

/-- An open packet that has reached a tower, over light or the mesh, leaves its place. -/
def takeOpen (t : Nat) (p : OpenPacket) (s : State) : Option State :=
  if (t, p) ∈ s.pho.inbox then some { s with pho.inbox := s.pho.inbox.erase (t, p) }
  else
    let is (m : MeshPacket) : Bool := decide (m.dest = t ∧ m.load = .packet p)
    if s.pho.mesh.any is then some { s with pho.mesh := s.pho.mesh.eraseP is } else none

/-- The answer to an open request. -/
def openAnswer (h : BitVec 128) (kind code lines : Nat) (data : Bytes) : OpenPacket :=
  { header := mkOpen kind code (decide (code = ccPoison)) lines (oTag h) (oTower h) (oEngine h) (oPartition h) (oSecure h) 0 0 0
    data := data }

/-- Send an answer of class 0. -/
def openRespond (t : Nat) (h : BitVec 128) (kind code lines : Nat) (data : Bytes) (s : State) : State :=
  sendOpen t (oTower h) (openAnswer h kind code lines data) 0 s

/-- Why a tower does not serve an open request: RETRY while its stack takes none or its cluster has not been cleared
(R83, R208, R211), the world check (R466), none else. -/
def openRefusal (s : State) (t : Nat) (h : BitVec 128) (write : Bool) : Option Nat :=
  if (oAddress h < spadBase ∧ !stackServes s t) ∨ unclearedAt s (oAddress h) then some ccRetry
  else if !regionPermits s t (oAddress h) (oSecure h) write (some (oPartition h)) then some ccWorldDenied
  else none

/-- Kind and payload length of the answer to an open request: COMPLETION, READ_DATA or ATOMIC_DATA (R236). [DESIGN
CHOICE, safe: log 166] -/
def answerShape (h : BitVec 128) : Nat × Nat :=
  if oKind h = 2 then (3, 64 * oLines h) else if oKind h = 4 then (5, 8) else (6, 0)

/-- A refused request is answered; a denied one is reported. The data it carries are not stated. [DESIGN CHOICE,
safe: log 166] -/
def openRefuse (t : Nat) (h : BitVec 128) (code : Nat) (s : State) : State :=
  let s := if code = ccWorldDenied then worldDenied (some t) (some (oPartition h)) none none (some (oAddress h)) (oSecure h) s else s
  let (data, s) := drawBytes (answerShape h).2 s
  openRespond t h (answerShape h).1 code (if oKind h = 2 then oLines h else 1) data s

/-- Bytes of a line with the enabled words of another. -/
def mergeWords (enables : Nat) (old data : Bytes) : Bytes :=
  (List.range 8).flatMap (fun i => if nbit enables i then slice data (8 * i) 8 else slice old (8 * i) 8)

/-- Write one line under word enables: of DRAM, one read-modify-write where a word is left out (R195). -/
def writeEnabled (a : Nat) (enables : Nat) (data : Bytes) (poisoned : Bool) (s : State) : Nat × State :=
  if a ≥ spadBase then
    (ccOk, (maskMembers 8 enables).foldl (fun s i => spadWrite (a - spadBase + 8 * i) (slice data (8 * i) 8) poisoned s) s)
  else if enables = 0xFF then writeLine (a / 64) 0 (padTo 64 data) poisoned s
  else if enables = 0 then (ccOk, s)
  else mergeLine (a / 64) (fun old => mergeWords enables old data) poisoned false s

/-- OPEN_WRITE (R236, R179): the lines are written and answered, after any invalidations. -/
def openWrite (t : Nat) (p : OpenPacket) (s : State) : State :=
  let h := p.header
  if oKind h ≠ 1 then s
  else match takeOpen t p s with
    | none => s
    | some s => match openRefusal s t h true with
      | some c => openRefuse t h c s
      | none =>
        let (code, s) := (List.range (oLines h)).foldl (fun (acc : Nat × State) j =>
          let en := if j + 1 = oLines h then oEnables h else 0xFF
          let (c, s) := writeEnabled (oAddress h + 64 * j) en (slice p.data (64 * j) 64) (oPoison h) acc.2
          (worseCode acc.1 c, s)) (ccOk, s)
        if oAddress h < spadBase ∧ code ≠ ccPoison ∧ sharersOf s (oAddress h) ≠ [] then
          sendInvalidations (oAddress h) [(oTower h, openAnswer h 6 code 1 [])] [] s
        else openRespond t h 6 code 1 [] s

def execOpenWrite (tower : Tower) (packet : OpenPacket) (s : State) : Host.Outcome State Fault Refusal :=
  .next (openWrite tower packet s)

/-- A READ fills a line of the reader's read cache. -/
def fillsCache (s : State) (h : BitVec 128) : Bool := s.dma.fills.any (fun f => decide (f.tower = oTower h ∧ f.tag = oTag h))

/-- A fill makes the reading tower a sharer of the line's region (R179). -/
def addSharer (a reader : Nat) (s : State) : State := match rcIndex s a with
  | none => s
  | some i => { s with dma.sharers := Tab.change 0 i (fun m => maskOf 12 (fun u => nbit m u || decide (u = reader))) s.dma.sharers }

/-- OPEN_READ (R236). -/
def openRead (t : Nat) (p : OpenPacket) (s : State) : State :=
  let h := p.header
  if oKind h ≠ 2 then s
  else match takeOpen t p s with
    | none => s
    | some s => match openRefusal s t h false with
      | some c => openRefuse t h c s
      | none =>
        let target := if oAddress h < spadBase then 0 else 1
        let (data, code, s) := readLocal target (oAddress h) (64 * oLines h) s
        let s := if target = 0 ∧ fillsCache s h then addSharer (oAddress h) (oTower h) s else s
        openRespond t h 3 code (oLines h) data s

def execOpenRead (tower : Tower) (packet : OpenPacket) (s : State) : Host.Outcome State Fault Refusal :=
  .next (openRead tower packet s)

/-- OPEN_ATOMIC (R236, R174). With POISON no old value is returned (R203). -/
def openAtomic (t : Nat) (p : OpenPacket) (s : State) : State :=
  let h := p.header
  if oKind h ≠ 4 then s
  else match takeOpen t p s with
    | none => s
    | some s => match openRefusal s t h true with
      | some c => openRefuse t h c s
      | none =>
        let a := oAddress h
        let f (old : Nat) : Nat := atomicResult (oAtomic h) old (fieldAt p.data 0 8) (fieldAt p.data 8 8)
        let (old, code, s) := if a ≥ spadBase then spadAtomic (a - spadBase) f s else atomicLine (a / 64) (a % 64) f s
        if a < spadBase ∧ code ≠ ccPoison ∧ sharersOf s a ≠ [] then
          sendInvalidations a [(oTower h, openAnswer h 5 code 1 (leBytes 8 old))] [] s
        else
          let (data, s) := if code = ccPoison then drawBytes 8 s else (leBytes 8 old, s)
          openRespond t h 5 code 1 data s

def execOpenAtomic (tower : Tower) (packet : OpenPacket) (s : State) : Host.Outcome State Fault Refusal :=
  .next (openAtomic tower packet s)

/-- An answer with its code reaches a descriptor: a read's data, an atomic's old value, a write's end, a RETRY, or
the descriptor's end. -/
def answerDesc (k i : Nat) (d : Desc) (code : Nat) (data : Option Bytes) (s : State) : State :=
  let s := changeDesc k i (fun d => { d with wait := .none, retries := if code = ccRetry then d.retries else 0 }) s
  if code = ccRetry then retryLater k i s
  else if code = ccOk ∨ code = ccCorrected ∨ code = ccPoison then
    if dOp d.raw = 6 then pump k (atomicDone k i code (leNat (data.getD [])) s)
    else match data with
      | some bs => pump k (gotData k i (slice bs (d.place % 64) d.len) code s)
      | none => pump k (advanceCursor k i d.len (changeDesc k i (noteCode code) s))
  else pump k (finishDesc k i code s)

/-- A code with which a read returns data. -/
def readCode (code : Nat) : Bool := decide (code = ccOk ∨ code = ccCorrected ∨ code = ccPoison)

/-- An open answer reaches its requester: a fill of the read cache, a walk, or a descriptor. -/
def openAnswered (t : Nat) (p : OpenPacket) (data : Option Bytes) (s : State) : State :=
  let h := p.header
  let tag := oTag h
  if !s.pho.outstanding.any (fun o => decide (o.1 = t ∧ o.2.1 = tag)) then s
  else
    let s := { s with pho.outstanding := s.pho.outstanding.filter (fun o => !decide (o.1 = t ∧ o.2.1 = tag)) }
    match s.dma.fills.find? (fun f => decide (f.tower = t ∧ f.tag = tag)) with
    | some f =>
      if readCode (oCode h) then fillReturn f (data.getD []) (oCode h) s
      else eachWaiter t (fun w => decide (w = .fill tag)) (fun k i d s => answerDesc k i d (oCode h) none s)
        { s with dma.fills := s.dma.fills.erase f }
    | none =>
      let mine (w : Wait) : Bool := match w with
        | .openTag x | .table x _ _ _ => decide (x = tag)
        | _ => false
      match (engineKeys t).findSome? (fun k => (waiterOf s k mine).map (fun x => (k, x))) with
      | none => s
      | some (k, i, d) => match d.wait with
        | .table _ _ _ _ => tableAnswered k i d (oCode h) (data.getD []) s
        | _ => answerDesc k i d (oCode h) (if readCode (oCode h) then data else none) s

/-- An answer of one kind, taken from where it arrived. -/
def takeAnswer (t kind : Nat) (p : OpenPacket) (data : Option Bytes) (s : State) : State :=
  if oKind p.header ≠ kind ∨ oTower p.header ≠ t ∨ oCode p.header > ccRefused then s
  else match takeOpen t p s with
    | none => s
    | some s => openAnswered t p data s

/-- OPEN_READ_DATA (R236). -/
def execOpenReadData (tower : Tower) (packet : OpenPacket) (s : State) : Host.Outcome State Fault Refusal :=
  .next (takeAnswer tower 3 packet (some packet.data) s)

/-- OPEN_COMPLETION (R236). -/
def execOpenCompletion (tower : Tower) (packet : OpenPacket) (s : State) : Host.Outcome State Fault Refusal :=
  .next (takeAnswer tower 6 packet none s)

/-- OPEN_ATOMIC_DATA (R236). -/
def execOpenAtomicData (tower : Tower) (packet : OpenPacket) (s : State) : Host.Outcome State Fault Refusal :=
  .next (takeAnswer tower 5 packet (some packet.data) s)

/-- RC_FILL_RETURN (R178, R180): the READ_DATA of a fill of a line arrives. -/
def fillArrives (t line : Nat) (s : State) : State :=
  let fills := s.dma.fills.filter (fun f => decide (f.tower = t ∧ f.line = line))
  let is (p : OpenPacket) : Bool := decide (oKind p.header = 3) && fills.any (fun f => decide (f.tag = oTag p.header))
  let mesh := s.pho.mesh.filterMap (fun m => match m.load with
    | .packet p => if m.dest = t then some p else none
    | _ => none)
  match ((s.pho.inbox.filter (fun x => decide (x.1 = t))).map (·.2) ++ mesh).find? is with
  | none => s
  | some p => takeAnswer t 3 p (some p.data) s

def execRcFillReturn (tower : Tower) (line : BitVec 48) (s : State) : Host.Outcome State Fault Refusal :=
  .next (fillArrives tower line.toNat s)

/-! ### MESH_LINK_FAIL (R242) -/

/-- The towers at the ends of a mesh link; the service node's link has T1 alone. -/
def meshEnds (n : Nat) : Nat × Option Nat :=
  if n < 8 then (n / 2 * 3 + n % 2, some (n / 2 * 3 + n % 2 + 1))
  else if n < 17 then ((n - 8) % 3 * 3 + (n - 8) / 3, some (((n - 8) % 3 + 1) * 3 + (n - 8) / 3))
  else (1, none)

/-- A link fails: pairs that used it go column first (R242). -/
def meshLinkFail (n : Nat) (s : State) : State :=
  if n ∈ s.pho.meshDown then s
  else raise 0x4006 (phoItems (meshEnds n).1 (meshEnds n).2 none none) { s with pho.meshDown := s.pho.meshDown ++ [n] }

def execMeshLinkFail (link : Fin 18) (s : State) : Host.Outcome State Fault Refusal :=
  .next (meshLinkFail link s)

end Sys2Proof.Machine
end

