-- ==== Sys2Proof/Machine/Fabric.lean ====
section
/-! DEFINITION. The rack memory fabric: routes, jobs, requests of other packages, the combiners, exactly-once
atomics, answers and timers (R346 to R386, R464, R569, R594, R596). -/

namespace Sys2Proof.Machine

/-! ### Routes (R346, R349 to R351) -/

/-- Between two states the port of a destination changes: its packets are held for the settle time. -/
def settleRoutes (before : State) (s : State) : State :=
  ((List.range 4096).filter (fun d => decide (packageId s ≠ some d) && decide (routeNow before d ≠ routeNow s d) && (routeNow s d).isSome)).foldl (fun s d =>
    let above := decide (routeNow s d = some (routeAlternate s d)) && decide (routePrimary s d ≠ routeAlternate s d)
    raiseIf above 0x5001 (fabricItems none none (some d) (routeNow s d) none none)
      { s with fab.settling := Tab.put 0 d (s.now + dictNat s 0x500003 * us) s.fab.settling }) s

/-- PACKAGE_ID_WRITE (R346, R384). -/
def packageIdAct : WriteAct := fun value s =>
  if nbits (leNat value) 14 12 ≠ 0 then refuseRange 0
  else if allTowers.any (fun p => bindingValid (bindingWord s p)) then refuseState
  else .done (setDict 0x500001 value s)

def execPackageIdWrite (req : Req) (value : Bytes) (s : State) : Host.Outcome State Fault Refusal :=
  .next (serveWrite req 0x500001 value packageIdAct s)

/-- A route byte: each field names a port or none (R349). -/
def routeByteOk (b : Byte) : Bool :=
  let f (n : Nat) : Bool := decide (n < 8 ∨ n = 15)
  f (b.toNat % 16) && f (b.toNat / 16)

/-- ROUTE_TABLE_WRITE (R349, R351). -/
def routeTableAct : WriteAct := fun value s =>
  match value.findIdx? (fun b => !routeByteOk b) with
  | some i => refuseRange i
  | none => .done (settleRoutes s (setDict 0x500002 value s))

def execRouteTableWrite (req : Req) (value : Bytes) (s : State) : Host.Outcome State Fault Refusal :=
  .next (serveWrite req 0x500002 value routeTableAct s)

/-- A request that cannot go on is answered; any other packet is discarded (R350). -/
def sendOrAnswer (e : SendEnd) (p : FabricPacket) (s : State) : State :=
  let f := readHeader p.header
  match e with
  | .sent => s
  | .refused c => if isRequest f.kind then respond f c [] false 0 s else s

/-- A packet that is not for this package goes on. A request of this package that cannot go on completes at its
requester. -/
def forward (start : Nat) (origin : Option Nat) (p : FabricPacket) (s : State) : State :=
  let f := readHeader p.header
  let (e, s) := routePacket start s.now origin p s
  if packageId s = some f.source then s else sendOrAnswer e p s

/-- ROUTE_SETTLE (R351): the held packets of a destination go out, in order. -/
def routeSettle (d : Nat) (s : State) : State :=
  let until_ := Tab.look 0 s.fab.settling d
  if until_ = 0 then s
  else
    let s := advanceTo until_ s
    let mine (h : FabricHeld) : Bool := decide (h.dest = d) && h.until_.isSome
    let held := s.fab.held.filter mine
    let s := { s with fab.held := s.fab.held.filter (fun h => !mine h), fab.settling := Tab.put 0 d 0 s.fab.settling }
    held.foldl (fun s h => forward h.arrived h.origin h.packet s) s

def execRouteSettle (destination : BitVec 12) (s : State) : Host.Outcome State Fault Refusal :=
  .next (routeSettle destination.toNat s)

/-! ### Credits (R358) -/

/-- The packets a port holds for want of a credit, or of a key, are tried again in order. -/
def pumpPort (port : Nat) (s : State) : State :=
  let mine (h : FabricHeld) : Bool := decide (h.port = port ∧ h.until_ = none)
  let held := s.fab.held.filter mine
  held.foldl (fun s h =>
    let (e, s) := sendOnPort port h.arrived s.now h.origin h.packet s
    if packageId s = some (readHeader h.packet.header).source then s else sendOrAnswer e h.packet s)
    { s with fab.held := s.fab.held.filter (fun h => !mine h) }

/-- What every packet that arrives does first: it returns credits, and its own buffer is freed once it has left. -/
def arriveCredits (port : Nat) (f : FabricHeader) (s : State) : State :=
  let s := (List.range 4).foldl (fun s c =>
    { s with fab.used := Tab.change 0 (4 * port + c) (· - f.credits.getD c 0) s.fab.used }) s
  let s := if f.kind = fkCredit then s
    else { s with
      fab.freed := Tab.change 0 (4 * port + f.channel) (· + 1) s.fab.freed
      fab.owed := Tab.change 0 port (fun o => if o = 0 then s.now + 1 else o) s.fab.owed }
  pumpPort port s

/-- CREDIT (R358). -/
def execCredit (port : Port) (header : BitVec 256) (s : State) : Host.Outcome State Fault Refusal :=
  let f := readHeader header
  .next (if portUp s port ∧ f.kind = fkCredit then arriveCredits port f s else s)

/-- A packet that a port itself originates for its neighbour. Its destination field the manual leaves open. [DEDUCED,
safe: log 18] -/
def ownPacket (kind enables : Nat) (data : Bytes) (s : State) : FabricPacket × State :=
  let (d, s) := draw s
  ({ header := writeHeader { kind := kind, channel := 3, dest := d.toNat % 4096,
                             source := nbits (dictNat s 0x500001) 11 0, enables := enables }
     data := data }, s)

/-- CREDIT_TIMER (R358): credits that no packet has carried for 100 ns go in a CREDIT packet. -/
def creditTimer (port : Nat) (s : State) : State :=
  let owed := Tab.look 0 s.fab.owed port
  if owed = 0 ∨ !portUp s port then s
  else
    let s := advanceTo (owed - 1 + 100) s
    let (p, s) := ownPacket fkCredit 0 [] s
    let f := readHeader p.header
    launch port s.now { f with hops := 1 } [] { s with fab.owed := Tab.put 0 port 0 s.fab.owed }

def execCreditTimer (port : Port) (s : State) : Host.Outcome State Fault Refusal := .next (creditTimer port s)

/-! ### HELLO (R357) -/

/-- HELLO: the neighbour's record of 0x5000:07. -/
def helloArrives (port : Nat) (header : BitVec 256) (data : Bytes) (s : State) : State :=
  let f := readHeader header
  if !portUp s port ∨ f.kind ≠ fkManagement ∨ fieldAt data 0 1 ≠ 1 then s
  else
    let s := arriveCredits port f s
    if !packetWellFormed { header := header, data := data } then s
    else
      let n : Neighbour := { id := BitVec.ofNat 16 (fieldAt data 2 2), port := fieldAt data 1 1, last := some s.now, alive := true }
      { s with fab.neighbours := Tab.put {} port n s.fab.neighbours }

def execHello (port : Port) (header : BitVec 256) (data : Bytes) (s : State) : Host.Outcome State Fault Refusal :=
  .next (helloArrives port header data s)

/-- HELLO_TIMER: each port that is up sends HELLO every 1 ms. -/
def helloTimer (port : Nat) (s : State) : State :=
  if !portUp s port then s
  else
    let last := Tab.look 0 s.fab.helloSent port
    let s := if last = 0 then s else advanceTo (last - 1 + ms) s
    let data := leBytes 1 1 ++ leBytes 1 port ++ leBytes 2 (dictNat s 0x500001)
    let (p, s) := ownPacket fkManagement 4 data s
    (sendOnPort port s.now s.now none p { s with fab.helloSent := Tab.put 0 port (s.now + 1) s.fab.helloSent }).2

def execHelloTimer (port : Port) (s : State) : Host.Outcome State Fault Refusal := .next (helloTimer port s)

/-- HELLO_TIMEOUT: 3 ms with no HELLO. -/
def helloTimeout (port : Nat) (s : State) : State :=
  let n := Tab.look {} s.fab.neighbours port
  match n.last with
  | none => s
  | some t => if !n.alive then s
    else
      let s := advanceTo (t + 3 * ms) s
      { s with fab.neighbours := Tab.put {} port { n with alive := false } s.fab.neighbours }

def execHelloTimeout (port : Port) (s : State) : Host.Outcome State Fault Refusal := .next (helloTimeout port s)

/-! ### Keys (R381) -/

/-- A direction's encryption state. -/
def crypt (s : State) (key : Nat) : PortCrypt := Tab.look {} s.fab.crypt key

/-- KEY_SWITCH: the neighbour names the count at which its new key takes effect. [DEDUCED, safe: log 18] -/
def keySwitch (port : Nat) (count : Nat) (s : State) : State :=
  if !portUp s port ∨ !portEncrypted s port then s
  else
    let key := 2 * port + 1
    switchKey key { s with fab.crypt := Tab.put {} key { crypt s key with switchAt := some count } s.fab.crypt }

def execKeySwitch (port : Port) (count : BitVec 64) (s : State) : Host.Outcome State Fault Refusal :=
  .next (keySwitch port count.toNat s)

/-- The sender replaces its key at its present count: the key switch message goes to the neighbour. Its layout past
byte 0 the manual does not give, so its bytes are free. [DEDUCED, safe: log 18] -/
def replaceKey (port : Nat) (s : State) : State :=
  let key := 2 * port
  let c := crypt s key
  let (bs, s) := drawBytes 63 s
  let (p, s) := ownPacket fkManagement 64 (leBytes 1 3 ++ bs) s
  let s := (sendOnPort port s.now s.now none p s).2
  switchKey key { s with fab.crypt := Tab.put {} key { c with switchAt := some c.count } s.fab.crypt }

/-- KEY_COUNT_EXPIRY: 2^36 DATA flits under one key. -/
def keyCountExpiry (port : Nat) (s : State) : State :=
  if !portUp s port ∨ !portEncrypted s port ∨ !portKeyed s port ∨ (crypt s (2 * port)).count < 2 ^ 36 then s
  else pumpPort port (replaceKey port s)

def execKeyCountExpiry (port : Port) (s : State) : Host.Outcome State Fault Refusal := .next (keyCountExpiry port s)

/-! ### The combiner (R363 to R366) -/

/-- The class of a request, and whether it can be combined. -/
def combineClass (f : FabricHeader) : CombineClass × Bool :=
  if f.kind = fkRead then (.read, true)
  else if f.kind = fkWrite then (.store, !f.poison)
  else (.atomic, decide (f.atomic ≤ 5) && !f.poison)

/-- A closed entry or a lone request takes its place: by the moment, then by port. -/
def addReady (e : CombineEntry) (s : State) : State :=
  let e := { e with closedAt := s.now }
  let later (x : CombineEntry) : Bool := decide (x.closedAt = s.now ∧ x.port > e.port)
  { s with fab.ready := s.fab.ready.filter (fun x => !later x) ++ [e] ++ s.fab.ready.filter later }

/-- Close the open entries that `p` picks, in order. -/
def closeEntries (p : CombineEntry → Bool) (s : State) : State :=
  let shut := s.fab.entries.filter p
  shut.foldl (fun s e => addReady e s) { s with fab.entries := s.fab.entries.filter (fun e => !p e) }

/-- Requester slots in use on a port. -/
def slotsUsed (s : State) (port : Nat) : Nat :=
  (((s.fab.entries ++ s.fab.ready).filter (fun e => decide (e.port = port))).map (fun e => e.members.length)).sum

/-- A member of the same endpoint. -/
def sameEndpoint (f : FabricHeader) (p : FabricPacket) : Bool :=
  let g := readHeader p.header
  decide (g.source = f.source ∧ g.sourceTower = f.sourceTower ∧ g.engine = f.engine)

/-- Place a request (R364). -/
def combine (port : Nat) (p : FabricPacket) (s : State) : State :=
  let f := readHeader p.header
  let (cls, can) := combineClass f
  let kind := if cls = .atomic then f.atomic else 0
  let atomic (c : CombineClass) : Bool := decide (c = .atomic)
  let s := closeEntries (fun e => decide (e.port = port) && decide (atomic e.class_ = atomic cls) &&
    decide (e.address ≠ f.address) && e.members.any (sameEndpoint f)) s
  let free := decide (slotsUsed s port < 4096)
  let fits (e : CombineEntry) : Bool := decide (e.port = port) && decide (e.class_ = cls) && decide (e.job = f.job) &&
    decide (e.secure = f.secure) && decide (e.address = f.address) && decide (e.kind = kind)
  if can && free && s.fab.entries.any fits then
    let s := count64 0x500009 1 { s with
      fab.entries := changeFirst fits (fun e => { e with members := e.members ++ [p] }) s.fab.entries }
    closeEntries (fun e => decide (e.members.length ≥ 255)) s
  else
    let s := closeEntries (fun e => decide (e.port = port) && decide (e.address / 64 = f.address / 64)) s
    let e : CombineEntry := { port := port, class_ := cls, job := f.job, secure := f.secure, address := f.address, kind := kind,
                              combinable := can, opened := s.now, ends := s.now + dictNat s 0x500004,
                              arrived := packageStamp s, members := [p] }
    let entries := (s.fab.entries.filter (fun e => decide (e.port = port))).length
    if can && free && decide (entries < 256) then { s with fab.entries := s.fab.entries ++ [e] } else addReady e s

/-- COMBINE_WINDOW_EXPIRY (R364): the entries of a port whose window ends first close. -/
def combineWindow (port : Nat) (s : State) : State :=
  match leastOf ((s.fab.entries.filter (fun e => decide (e.port = port))).map (·.ends)) with
  | none => s
  | some t => closeEntries (fun e => decide (e.port = port ∧ e.ends ≤ t)) (advanceTo t s)

def execCombineWindowExpiry (port : Port) (s : State) : Host.Outcome State Fault Refusal := .next (combineWindow port s)

/-! ### Incoming requests (R354, R356, R370 to R372, R464) -/

/-- The quarter of the reply cache (R371), and since when it holds everything. -/
def replyQuarter (source : Nat) (seq : BitVec 16) : Nat := (source ^^^ seq.toNat) % 4
def clearedAt (s : State) (q : Nat) : Nat := max (Tab.look 0 s.fab.cleared q) s.start.poweredAt

/-- The member of an unapplied entry with a source and sequence. [DEDUCED, unsafe: log 16] -/
def memberIs (source : Nat) (seq : BitVec 16) (p : FabricPacket) : Bool :=
  let g := readHeader p.header
  decide (g.kind = fkAtomic ∧ g.source = source ∧ g.sequence = seq)

/-- An atomic is decided (R372): answered, attached, refused, or passed on to combining. [DEDUCED, unsafe: log 16] -/
def decideAtomic (port : Nat) (p : FabricPacket) (s : State) : State :=
  let f := readHeader p.header
  let is (e : CombineEntry) : Bool := e.members.any (memberIs f.source f.sequence)
  let attach (e : CombineEntry) : CombineEntry :=
    { e with attached := e.attached ++ [(e.members.findIdx (memberIs f.source f.sequence), p)] }
  match s.fab.replies.find? (fun r => decide (r.source = f.source ∧ r.sequence = f.sequence)) with
  | some r => respond f r.code (leBytes 8 r.old) (decide (r.code = ccPoison)) 0 (count64 0x50000B 1 s)
  | none =>
    if s.fab.entries.any is then { s with fab.entries := changeFirst is attach s.fab.entries }
    else if s.fab.ready.any is then { s with fab.ready := changeFirst is attach s.fab.ready }
    else
      let limit := min (240 * us) (s.now - clearedAt s (replyQuarter f.source f.sequence))
      if f.age * us ≤ limit then combine port p s
      else respond f ccStaleAtomic [] false 0
        (raise 0x5004 (packetItems p (some port) (some ccStaleAtomic)) (count32 0x50000C 1 s))

/-- A request addressed to this package (R354, steps 1 to 5). -/
def serveRequest (port : Nat) (p : FabricPacket) (s : State) : State :=
  let f := readHeader p.header
  match jobPartition s f.job with
  | none => respond f ccRefused [] false 0 (raise 0x5006 (packetItems p (some port) (some ccRefused)) s)
  | some q =>
    if bindingFrozen (bindingWord s q) then respond f ccRefused [] false 0 s
    else if f.confidential && !portEncrypted s port then respond f ccRefused [] false 0 s
    else if f.kind = fkAtomic then decideAtomic port p s
    else combine port p s

/-- A request arrives at a port (R350, R354, R356, R464). -/
def requestIn (port kind : Nat) (header : BitVec 256) (data : Bytes) (s : State) : State :=
  let f := readHeader header
  let p : FabricPacket := { header := header, data := data }
  if !portUp s port ∨ f.kind ≠ kind then s
  else
    let s := arriveCredits port f s
    match packageId s with
    | none => s
    | some id =>
      if f.secure ∧ !portSecure s port then respond f ccWorldDenied [] false 0 s
      else if !packetWellFormed p then respond f ccRefused [] false 0 s
      else if f.dest ≠ id then forward s.now (some (baseOfPort port)) p s
      else if !twinServes s then respond f ccTargetDead [] false 0 s
      else serveRequest port p s

/-- FABRIC_READ (R354). -/
def execFabricRead (port : Port) (header : BitVec 256) (data : Bytes) (s : State) : Host.Outcome State Fault Refusal :=
  .next (requestIn port fkRead header data s)

/-- FABRIC_WRITE (R354). -/
def execFabricWrite (port : Port) (header : BitVec 256) (data : Bytes) (s : State) : Host.Outcome State Fault Refusal :=
  .next (requestIn port fkWrite header data s)

/-- FABRIC_ATOMIC (R372). -/
def execFabricAtomic (port : Port) (header : BitVec 256) (data : Bytes) (s : State) : Host.Outcome State Fault Refusal :=
  .next (requestIn port fkAtomic header data s)

/-! ### Application (R354 steps 6 to 9, R360, R365, R366, R368, R371) -/

/-- One answer for each member, in arrival order, and for each duplicate attached to it. -/
def answerMembers (e : CombineEntry) (tower : Nat) (f : Nat → Nat × Bytes) (s : State) : State :=
  (List.range e.members.length).foldl (fun s j =>
    let (code, data) := f j
    let ps := (e.members.drop j).take 1 ++ (e.attached.filter (fun a => decide (a.1 = j))).map (·.2)
    ps.foldl (fun s p => respond (readHeader p.header) code data (decide (code = ccPoison)) tower s) s) s

/-- The same code for every member. -/
def answerAll (e : CombineEntry) (tower code : Nat) (s : State) : State := answerMembers e tower (fun _ => (code, [])) s

/-- The tower whose unit translates for a port (R354). -/
def translatorOf (s : State) (port p : Nat) : Nat :=
  let ts := towersOf s p
  ((ts.find? (fun t => decide (baseOfTower t = baseOfPort port))).or ts.head?).getD p

/-- The enables and the data of a STORE's write: each word of the latest member that enables it. -/
def mergeStores (ms : List FabricPacket) : Nat × Bytes :=
  ms.foldl (fun (acc : Nat × Bytes) p =>
    let en := (readHeader p.header).enables
    (maskOf 8 (fun i => nbit acc.1 i || nbit en i),
      (List.range 8).flatMap (fun i => if nbit en i then slice p.data (8 * i) 8 else slice acc.2 (8 * i) 8))) (0, zeros 64)

/-- The old values that the members of an atomic entry receive, and the final word. -/
def foldAtomics (kind : Nat) (ms : List FabricPacket) (word : Nat) : List Nat × Nat :=
  ms.foldl (fun (acc : List Nat × Nat) p =>
    (acc.1 ++ [acc.2], atomicResult kind acc.2 (fieldAt p.data 0 8) (fieldAt p.data 8 8))) ([], word)

/-- The answers go out now, or when the invalidations of the line have been acknowledged (R179, R360). -/
def answerStored (e : CombineEntry) (tower a : Nat) (poisoned : Bool) (f : Nat → Nat × Bytes) (s : State) : State :=
  if a < spadBase ∧ !poisoned ∧ sharersOf s a ≠ [] then
    let owed := (List.range e.members.length).flatMap (fun j =>
      let ps := (e.members.drop j).take 1 ++ (e.attached.filter (fun x => decide (x.1 = j))).map (·.2)
      ps.map (fun p => (p.header, f j)))
    sendInvalidations a [] owed s
  else answerMembers e tower f s

/-- Entries a quarter of the reply cache can still take. -/
def replyRoom (s : State) (q : Nat) : Nat :=
  16384 - (s.fab.replies.filter (fun r => decide (replyQuarter r.source r.sequence = q))).length

/-- Members of an atomic entry that find room for their reply, in order: those within the room of their quarter. -/
def withRoom (s : State) (ms : List FabricPacket) (j : Nat) : Bool :=
  let q (p : FabricPacket) : Nat := replyQuarter (readHeader p.header).source (readHeader p.header).sequence
  match ms[j]? with
  | none => false
  | some p => decide (((ms.take j).filter (fun x => decide (q x = q p))).length < replyRoom s (q p))

/-- An atomic entry is applied; members whose quarter is full are answered RETRY (R371). A poisoned one returns no old
value: the 8 bytes its answer carries are free (R203, R356). -/
def applyAtomics (e : CombineEntry) (tower a : Nat) (s : State) : State :=
  let room := (List.range e.members.length).filter (withRoom s e.members)
  let full := (List.range e.members.length).filter (fun j => decide (j ∉ room))
  let s := full.foldl (fun s j => match e.members[j]? with
    | none => s
    | some p => raise 0x5008 (packetItems p (some e.port) (some ccRetry)) s) s
  let ms := room.filterMap (fun j => e.members[j]?)
  if ms = [] then answerAll e tower ccRetry s
  else
    let f (old : Nat) : Nat := (foldAtomics e.kind ms old).2
    let bad := ms.any (fun p => (readHeader p.header).poison)
    let (old, code, s) :=
      if bad then (0, ccPoison, s)
      else if a ≥ spadBase then spadAtomic (a - spadBase) f s else atomicLine (a / 64) (a % 64) f s
    let (bs, s) := if code = ccPoison then drawBytes (8 * ms.length) s else ([], s)
    let olds := if code = ccPoison then (List.range ms.length).map (fun n => fieldAt bs (8 * n) 8)
      else (foldAtomics e.kind ms old).1
    let olds (j : Nat) : Nat := olds.getD (room.findIdx (· = j)) 0
    let replies := room.filterMap (fun j => (e.members[j]?).map (fun p =>
      { source := (readHeader p.header).source, sequence := (readHeader p.header).sequence, code := code, old := olds j,
        time := s.now : ReplyEntry }))
    let s := { s with fab.replies := s.fab.replies ++ replies }
    answerStored e tower a (decide (code = ccPoison))
      (fun j => if j ∈ room then (code, leBytes 8 (olds j)) else (ccRetry, [])) s

/-- Apply an entry at its translated address. -/
def applyAt (e : CombineEntry) (tower a : Nat) (s : State) : State :=
  match e.class_ with
  | .read =>
    let (data, code, s) := readLocal (if a ≥ spadBase then 1 else 0) a 64 s
    answerMembers e tower (fun _ => (code, data)) s
  | .store =>
    let (en, data) := mergeStores e.members
    let (code, s) := writeEnabled a en data (e.members.any (fun p => (readHeader p.header).poison)) s
    answerStored e tower a (decide (code = ccPoison)) (fun _ => (code, [])) s
  | .atomic => applyAtomics e tower a s

/-- The record of an incoming request's translation fault (R184, R189): none waits for a response. -/
def incomingFault (q t address level : Nat) (kind : Kind) (remote : Nat) (s : State) : State :=
  if faultRingFull s q then loseFault q t none none s
  else
    let (tag, s) := recordTag q s
    writeFaultRecord { partition := q, tag := tag, address := address, cause := cIncoming, kind := kind, level := level, tower := t,
                       cluster := 0, engine := 0, opcode := 0, run := 0, task := 0xFFFF, remote := remote,
                       stamp := towerStamp s t, attached := 0 } false false s

/-- The checks of R354 after combining, then the application. -/
def applyEntry (e : CombineEntry) (s : State) : State :=
  match jobPartition s e.job with
  | none => answerAll e 0 ccRefused s
  | some q =>
    let t := translatorOf s e.port q
    let kind : Kind := match e.class_ with
      | .read => .read
      | .store => .write
      | .atomic => .atomic
    let source := (e.members.head?.map (fun p => (readHeader p.header).source)).getD 0
    let (x, s) := translateNow t q e.address kind s
    match x with
    | .ok target a _ =>
      match placeTower a with
      | none => answerAll e t ccXlateFault (incomingFault q t e.address 0 kind source s)
      | some u =>
        if target ≥ 2 then answerAll e t ccXlateFault (incomingFault q t e.address 0 kind source s)
        else if !regionPermits s u a e.secure (decide (e.class_ ≠ .read)) (some q) then
          answerAll e u ccWorldDenied (worldDenied (some u) (some q) none (some e.port) (some a) e.secure s)
        else if (basesBetween (baseOfPort e.port) (baseOfTower u)).any (fun b => baseBusy s b && !(baseState s b).held) then answerAll e u ccRetry s
        else if !towerUp s u then answerAll e u ccTargetDead s
        else if (target = 0 ∧ !stackServes s u) ∨ unclearedAt s a then answerAll e u ccRetry s
        else applyAt e u a s
    | .fault _ l => answerAll e t ccXlateFault (incomingFault q t e.address l kind source s)
    | .denied => answerAll e t ccWorldDenied (worldDenied (some t) (some q) none (some e.port) (some e.address) e.secure s)
    | _ => answerAll e t ccRetry s

/-- ENTRY_APPLIED (R365): the first closed entry or lone request. -/
def execEntryApplied (s : State) : Host.Outcome State Fault Refusal :=
  .next (match s.fab.ready with
    | [] => s
    | e :: rest => applyEntry e { s with fab.ready := rest })

/-- REPLY_CACHE_EXPIRY (R371): an entry is freed 256 µs after it was written. -/
def replyExpiry (source : Nat) (seq : BitVec 16) (s : State) : State :=
  let is (r : ReplyEntry) : Bool := decide (r.source = source ∧ r.sequence = seq)
  match s.fab.replies.find? is with
  | none => s
  | some r => { advanceTo (r.time + 256 * us) s with fab.replies := s.fab.replies.eraseP is }

def execReplyCacheExpiry (source : BitVec 12) (sequence : BitVec 16) (s : State) : Host.Outcome State Fault Refusal :=
  .next (replyExpiry source.toNat sequence s)

/-! ### Answers (R359 to R362, R366, R373, R377, R596) -/

/-- The outstanding request with a tag. -/
def requestIs (t e : Nat) (tag : BitVec 16) (o : FabricReq) : Bool := decide (o.tower = t ∧ o.engine = e ∧ o.tag = tag)

/-- Change an outstanding request. -/
def changeRequest (o : FabricReq) (f : FabricReq → FabricReq) (s : State) : State :=
  { s with fab.outstanding := changeFirst (requestIs o.tower o.engine o.tag) f s.fab.outstanding }

/-- A request is outstanding no longer. -/
def dropRequest (o : FabricReq) (s : State) : State :=
  { s with fab.outstanding := s.fab.outstanding.eraseP (requestIs o.tower o.engine o.tag) }

/-- An access kind by a packet's kind. -/
def kindOfPacket (kind : Nat) : Kind := if kind = fkRead then .read else if kind = fkWrite then .write else .atomic

/-- The descriptor of a request takes its answer. -/
def giveAnswer (o : FabricReq) (code : Nat) (data : Option Bytes) (s : State) : State :=
  let k := 16 * o.tower + o.engine
  let kind := (readHeader o.packet.header).kind
  match waiterOf s k (fun w => decide (w = .fabric o.tag)) with
  | none => s
  | some (i, d) =>
    if code = ccXlateFault then
      let s := if kind = fkAtomic then changeDesc k i (fun d => { d with heldTag := some o.tag }) s else s
      parkDesc k i (flightAddress s o.tower d) cRemote 0 (kindOfPacket kind) o.target s
    else answerDesc k i d code data s

/-- A request completes without its response: by TARGET_DEAD, PATH_RESET or a teardown (R373, R569). -/
def endWithout (o : FabricReq) (code : Nat) (s : State) : State :=
  let k := 16 * o.tower + o.engine
  let s := skipTag k o.tag (dropRequest o s)
  let s := fabricFailure o.packet code s
  let s := if (readHeader o.packet.header).kind = fkWrite then
      match waiterOf s k (fun w => decide (w = .fabric o.tag)) with
      | none => s
      | some (i, _) => changeDesc k i (fun d => { d with unknown := true }) s
    else s
  giveAnswer o code none s

/-- The atomic of a faulted request is answered after all: the old value is written and the code kept (R596). -/
def lateAtomic (o : FabricReq) (code : Nat) (data : Bytes) (s : State) : State :=
  let k := 16 * o.tower + o.engine
  let q := engineQueue s k
  match q.findIdx? (fun d => decide (d.heldTag = some o.tag)) with
  | none => s
  | some i => match q[i]? with
    | none => s
    | some d =>
      let s := if code = ccPoison then s else spadWrite (o.tower * 2 ^ 28 + dAux d.raw) (padTo 8 data) false s
      changeDesc k i (fun d => noteCode code { d with settled := some code }) s

/-- An answer of another package reaches its requester. One with a code that no device produces is discarded (R7). -/
def answerIn (port kind : Nat) (header : BitVec 256) (data : Bytes) (s : State) : State :=
  let f := readHeader header
  let p : FabricPacket := { header := header, data := data }
  if !portUp s port ∨ f.kind ≠ kind then s
  else
    let s := arriveCredits port f s
    match packageId s with
    | none => s
    | some id =>
      if (f.secure ∧ !portSecure s port) ∨ !packetWellFormed p ∨ f.code > ccRefused then s
      else if f.dest ≠ id then forward s.now (some (baseOfPort port)) p s
      else
        let s := if f.echo ∨ f.mark then limiterEcho f.destTower f.source s else s
        match s.fab.outstanding.find? (requestIs f.destTower f.engine f.tag) with
        | none => s
        | some o =>
          let good := decide (f.code = ccOk ∨ f.code = ccCorrected ∨ f.code = ccPoison)
          match o.phase with
          | .faulted => if kind = fkAtomicData ∧ good then lateAtomic o f.code data s else s
          | .backoff _ _ => s
          | _ =>
            if f.code = ccRetry then
              let delay := us * 2 ^ min o.retries 4
              changeRequest o (fun o => { o with phase := .backoff (s.now + delay) delay, retries := o.retries + 1 }) s
            else if f.code = ccXlateFault ∧ (readHeader o.packet.header).kind = fkAtomic then
              giveAnswer o f.code none (changeRequest o (fun o => { o with phase := .faulted }) s)
            else giveAnswer o f.code (if data = [] then none else some data) (fabricFailure o.packet f.code (dropRequest o s))

/-- FABRIC_READ_DATA (R355). -/
def execFabricReadData (port : Port) (header : BitVec 256) (data : Bytes) (s : State) : Host.Outcome State Fault Refusal :=
  .next (answerIn port fkReadData header data s)

/-- FABRIC_COMPLETION (R360). -/
def execFabricCompletion (port : Port) (header : BitVec 256) (data : Bytes) (s : State) : Host.Outcome State Fault Refusal :=
  .next (answerIn port fkCompletion header data s)

/-- FABRIC_ATOMIC_DATA (R368). -/
def execFabricAtomicData (port : Port) (header : BitVec 256) (data : Bytes) (s : State) : Host.Outcome State Fault Refusal :=
  .next (answerIn port fkAtomicData header data s)

/-! ### Timers (R362, R369, R373, R569, R596) -/

/-- A request goes out again: its age counts from its first send. -/
def sendAgain (o : FabricReq) (s : State) : SendEnd × State :=
  let (at_, s) := chargeLimiter o.tower o.target s
  let s := changeRequest o (fun o => { o with phase := if o.phase = .lost then .lost else .sent, deadline := at_ + responseTime s }) s
  routePacket o.firstSend at_ none o.packet s

/-- Mark a request as reissued once more (R373). -/
def markReissued (p : FabricPacket) : FabricPacket :=
  let f := readHeader p.header
  { p with header := writeHeader { f with reissued := true, reissues := min 3 (f.reissues + 1) } }

/-- RESPONSE_TIMER (R373, R376). -/
def responseTimer (t e : Nat) (tag : BitVec 16) (s : State) : State :=
  match s.fab.outstanding.find? (requestIs t e tag) with
  | none => s
  | some o =>
    if !(o.phase = .sent ∨ o.phase = .lost) then s
    else
      let s := advanceTo o.deadline s
      let n := o.expiries + 1
      let s := changeRequest o (fun o => { o with expiries := n, deadline := s.now + responseTime s }) s
      if n ≥ 4 then endWithout o (if o.phase = .lost then ccPathReset else ccTargetDead) s
      else if (readHeader o.packet.header).kind = fkWrite then s
      else
        let o := { o with packet := markReissued o.packet, expiries := n }
        let s := changeRequest o (fun x => { x with packet := o.packet }) s
        if o.phase = .lost ∧ (routeNow s o.target).isNone then s
        else
          let (out, s) := sendAgain o (count64 0x50000A 1 s)
          match out with
          | .sent => s
          | .refused c => endWithout o c s

def execResponseTimer (tower : Tower) (engine : EngineNo) (tag : BitVec 16) (s : State) : Host.Outcome State Fault Refusal :=
  .next (responseTimer tower engine tag s)

/-- FABRIC_RETRY_BACKOFF (R373): the request goes out again after its backoff, and its timer restarts. -/
def fabricBackoff (t e : Nat) (tag : BitVec 16) (s : State) : State :=
  match s.fab.outstanding.find? (requestIs t e tag) with
  | none => s
  | some o => match o.phase with
    | .backoff at_ _ =>
      let s := advanceTo at_ s
      let o := { o with phase := .sent }
      let (out, s) := sendAgain o (count64 0x50000A 1 (changeRequest o (fun o => { o with phase := .sent }) s))
      (match out with
        | .sent => s
        | .refused c => endWithout o c s)
    | _ => s

def execFabricRetryBackoff (tower : Tower) (engine : EngineNo) (tag : BitVec 16) (s : State) :
    Host.Outcome State Fault Refusal :=
  .next (fabricBackoff tower engine tag s)

/-- ATOMIC_SEQUENCE_HOLD_END (R369): an atomic that waits for its sequence may be sent. -/
def sequenceHoldEnd (target : Nat) (s : State) : State :=
  let q := Tab.look 0 s.fab.sequences target
  let last := Tab.look 0 s.fab.firstSends (65536 * target + q.toNat)
  if s.dma.queues.any (fun e => e.2.any (fun d => decide (d.wait = .sequence target))) then
    wake (fun w => decide (w = .sequence target)) (advanceTo (last - 1 + 512 * us) s)
  else s

def execAtomicSequenceHoldEnd (target : BitVec 12) (s : State) : Host.Outcome State Fault Refusal :=
  .next (sequenceHoldEnd target.toNat s)

/-- ATOMIC_FAULT_HOLD_END (R596): the tag and the sequence of a faulted atomic are released. -/
def faultHoldEnd (t e : Nat) (tag : BitVec 16) (s : State) : State :=
  match s.fab.outstanding.find? (requestIs t e tag) with
  | none => s
  | some o =>
    if o.phase ≠ .faulted then s
    else
      let k := 16 * t + e
      let s := dropRequest o (advanceTo (o.firstSend + 240 * us) s)
      { s with
        dma.queues := Tab.change [] k
          (fun q => q.map (fun d => if d.heldTag = some tag then { d with heldTag := none } else d)) s.dma.queues }

def execAtomicFaultHoldEnd (tower : Tower) (engine : EngineNo) (tag : BitVec 16) (s : State) :
    Host.Outcome State Fault Refusal :=
  .next (faultHoldEnd tower engine tag s)

/-- RATE_LIMITER_TIMER (R362): the end of a limiter's 10 µs. -/
def limiterTimer (t target : Nat) (s : State) : State :=
  match (Tab.look [] s.fab.limiters t).find? (fun l => decide (l.target = target)) with
  | none => s
  | some l =>
    changeLimiter t target (fun l => { l with
      rate := if l.echoed then l.rate else min (l.rate + rateMax / 32) rateMax
      echoed := false
      window := l.window + 10 * us }) (advanceTo (l.window + 10 * us) s)

def execRateLimiterTimer (tower : Tower) (target : BitVec 12) (s : State) : Host.Outcome State Fault Refusal :=
  .next (limiterTimer tower target.toNat s)

/-- TAG_SKIP_EXPIRY (R569): the tag of an engine, or of the hub's open packets, may be taken again. -/
def tagSkipExpiry (t : Nat) (e : Option Nat) (tag : BitVec 16) (s : State) : State :=
  let key := 65536 * (match e with
    | some e => 16 * t + e
    | none => 192 + t) + tag.toNat
  let until_ := Tab.look 0 s.dma.skipped key
  if until_ = 0 then s else { advanceTo until_ s with dma.skipped := Tab.put 0 key 0 s.dma.skipped }

def execTagSkipExpiry (tower : Tower) (engine : Option EngineNo) (tag : BitVec 16) (s : State) :
    Host.Outcome State Fault Refusal :=
  .next (tagSkipExpiry tower (engine.map (·.val)) tag s)

/-! ### Jobs (R353, R378) -/

/-- A binding's job ends: the moment counts for R486. -/
def noteUnbound (p : Nat) (old new : Nat) (s : State) : State :=
  if bindingValid old ∧ !(bindingValid new && decide (bindingJob new = bindingJob old)) then
    { s with fab.unbound := Tab.put 0 p (s.now + 1) s.fab.unbound }
  else s

/-- JOB_BINDING_WRITE (R353). -/
def bindingAct (p : Nat) : WriteAct := fun value s =>
  let w := leNat value
  if nbits w 63 20 ≠ 0 then refuseRange 2
  else if runsOf s p ≠ [] then refuseState
  else if bindingValid w ∧ (allTowers.any (fun q => decide (q ≠ p) && bindingValid (bindingWord s q) &&
      decide (bindingJob (bindingWord s q) = bindingJob w))) then refuseState
  else
    let old := bindingWord s p
    let s := noteUnbound p old w s
    let s := setDictNat (0x504001 + p) 8 (w % 2 ^ 19) s
    .done { s with fab.openSlots := s.fab.openSlots.filter (fun q => decide (q ≠ p)) }

def execJobBindingWrite (req : Req) (partition : Partition) (value : Bytes) (s : State) : Host.Outcome State Fault Refusal :=
  .next (serveWrite req (0x504001 + partition.val) value (bindingAct partition) s)

/-- Every combiner entry of a job is closed and applied (R378, step 2). -/
def applyJobEntries (job : BitVec 16) (s : State) : State :=
  let s := closeEntries (fun e => decide (e.job = job)) s
  let mine := s.fab.ready.filter (fun e => decide (e.job = job))
  mine.foldl (fun s e => applyEntry e s) { s with fab.ready := s.fab.ready.filter (fun e => !decide (e.job = job)) }

/-- The job's requests end (R378, step 3): held ones are not sent, outstanding ones complete TARGET_DEAD. -/
def endJobRequests (job : BitVec 16) (p : Nat) (s : State) : State :=
  let own (h : FabricHeld) : Bool :=
    let f := readHeader h.packet.header
    decide (f.job = job) && isRequest f.kind && decide (packageId s = some f.source)
  let s := { s with fab.held := s.fab.held.filter (fun h => !own h) }
  let mine := s.fab.outstanding.filter (fun o => decide (o.job = job))
  let s := mine.foldl (fun s o => endWithout o ccTargetDead s) s
  { s with fab.limiters := (towersOf s p).foldl (fun t u => Tab.put [] u [] t) s.fab.limiters }

/-- JOB_TEARDOWN (R378). -/
def teardownAct : WriteAct := fun value s =>
  let job := BitVec.ofNat 16 (leNat value)
  match jobPartition s job with
  | none => refuseRange 0
  | some p =>
    let s := setDictNat (0x504001 + p) 8 (bindingWord s p % 2 ^ 19 + 2 ^ 19) s
    let s := endJobRequests job p (applyJobEntries job s)
    .done (raise 0x5007 (fabricItems (some job) (packageId s) none none none none)
      { s with fab.teardowns := addOnce p s.fab.teardowns })

def execJobTeardown (req : Req) (value : Bytes) (s : State) : Host.Outcome State Fault Refusal :=
  .next (serveWrite req 0x504010 value teardownAct s)

/-! ### A port goes down (R375) -/

/-- Packets queued for the port follow R350 and R351; what its link had not acknowledged is lost; its combiner
closes. -/
def portGone (port : Nat) (before : State) (s : State) : State :=
  let s := settleRoutes before s
  let s := closeEntries (fun e => decide (e.port = port)) s
  let held := s.fab.held.filter (fun h => decide (h.port = port) && h.until_.isNone)
  let s := { s with
    fab.held := s.fab.held.filter (fun h => !(decide (h.port = port) && h.until_.isNone))
    fab.used := Tab.changeAll 0 ((List.range 4).map (4 * port + ·)) (fun _ => 0) s.fab.used
    fab.freed := Tab.changeAll 0 ((List.range 4).map (4 * port + ·)) (fun _ => 0) s.fab.freed
    fab.owed := Tab.put 0 port 0 s.fab.owed
    lanes.tx := Tab.put {} port {} s.lanes.tx
    lanes.rx := Tab.put {} port {} s.lanes.rx }
  held.foldl (fun s h => forward h.arrived h.origin h.packet s) s

end Sys2Proof.Machine
end

