-- ==== Sys2Proof/Machine/Lanes.lean ====
section
/-! DEFINITION. Sprintis lanes: training, lock and recovery, retry, equalisation, eye scans, loop-backs, failing
lanes and narrowing (R268 to R297). -/

namespace Sys2Proof.Machine

/-! ### Going down, recovery and retraining (R277 to R279, R292, R375) -/

/-- The unit of a port or TW is in service. -/
def linkServed (s : State) (n : Nat) : Bool :=
  if n < 8 then portServed s n && !baseDown s (baseOfPort n) else inService s .tw

/-- A link leaves the slots: a path's change takes effect at the next frame boundary, or at once before its
receiver's slots run (R243, R278). -/
def pathService (n : Nat) (up : Bool) (s : State) : State :=
  if (receiver s (pathDst n)).optical then changePath .path n up s
  else applyPathChange { kind := .path, key := n, up := up } s

/-- A port or TW direction goes down, or a path goes out of service (R292, R375): event 0x4026. -/
def linkDown (n : Nat) (s : State) : State :=
  let before := s
  let s := raise 0x4026 (linkItems n none none) s
  let s := changeLink n (fun r => { r with state := 0, up := false, locked := false, infoSeen := false, narrow := none }) s
  if n < 8 then portGone n before s
  else if n = 8 then { s with lanes.tx := Tab.put {} n {} s.lanes.tx, lanes.rx := Tab.put {} n {} s.lanes.rx }
  else pathService n false s

/-- Taps return to the board table (R286, R287, R295). -/
def boardTaps (n : Nat) (s : State) : State :=
  let s := changeTx n (fun x => { x with taps := [], steps := [] }) s
  let fresh (e : Eye) : Eye := { e with pre := 0, post := 0, lastRequest := none }
  { s with lanes.eyes := Tab.changeAll {} ((List.range 64).map (64 * n + ·)) fresh s.lanes.eyes }

/-- Nanoseconds from the start of a training to the first restart of the pattern at or after 8 µs: 8,192 symbols at 32 GBd,
or at 56 GBd on TW (R268, R277). [DEDUCED, safe: log 175] -/
def streamDelay (n : Nat) : Nat := if n = 8 then 8046 else 8192

/-- The training pattern is sent from now, with the width last asked for (R277, R295). [DESIGN CHOICE, safe: log 176] -/
def sendPattern (n : Nat) (s : State) : State :=
  changeTx n (fun x => { x with
    dataOn := false
    pattern := decide (n ≤ 8)
    streamAt := s.now + streamDelay n
    width := x.asked.getD x.width
    asked := none }) s

/-- Training begins on a port or TW, or a path retrains: with the current lane map and width. [DEDUCED, safe: log 48] -/
def startTraining (n : Nat) (s : State) : State :=
  boardTaps n (sendPattern n (changeLink n (fun r => { r with
    state := 1, locked := false, hunt := {}, infoSeen := false, trainingAt := s.now, attempts := 1 }) s))

/-- A receiver has switched to a width: 0 full, 1 lower half, 2 upper half. -/
def takeWidth (n width : Nat) (s : State) : State :=
  let s := changeRx n (fun r => { r with line := { r.line with dealt := 0 } }) s
  if width = 0 then changeLink n (fun r => { r with state := 2, width := 0, ask := 0 }) s
  else
    raise 0x4025 (linkItems n none none)
      (changeLink n (fun r => { r with state := 3, half := width - 1, width := width, ask := width, narrow := none }) s)

/-- A recovery or a retrain (R279): event 0x4023; the third recovery of a port or TW within 1 ms takes it down. It resumes
at the width last asked for (R293, R295). A path goes out of service and retrains. -/
def recover (n : Nat) (s : State) : State :=
  let s := raise 0x4023 (linkItems n none none) (count32 0x402004 1 s)
  let began := ((link s n).recoveries.filter (fun t => decide (s.now < t + ms))) ++ [s.now]
  let s := changeLink n (fun r => { r with recoveries := began }) s
  let r := link s n
  if n ≤ 8 ∧ began.length ≥ 3 then linkDown n s
  else if n ≤ 8 then startTraining n (if r.ask = r.width then s else takeWidth n r.ask s)
  else pathService n false (startTraining n s)

/-- One sequence number has been retransmitted four times (R283). -/
def escalate (n q : Nat) (s : State) : State := recover n (raise 0x4027 (linkItems n none (some q)) s)

/-- Retransmit a flit, and escalate at the fourth time. While a port or TW trains it sends no DATA (R277). A crossbar flit
is counted when a slot carries it. [DEDUCED, safe: log 21] -/
def retryFlit (n q : Nat) (s : State) : State :=
  if n ≤ 8 ∧ !(txOf s n).dataOn then s
  else if n ≤ 8 then
    let s := retransmit n q s
    if escalates (txOf s n) q then escalate n q s else s
  else if escalates (txOf s n) q then escalate n q s
  else retransmit n q s

/-! ### Failing lanes and narrowing (R291 to R294) -/

/-- A lane lies in the upper half of a link. -/
def inUpper (n lane : Nat) : Bool := decide (linkLanes n / 2 ≤ lane)

/-- A bundle narrows to the half that holds no failing lane, or goes down. A port or TW receiver asks for it by LINK_INFO,
in training by the one that follows lock; a path narrows at the next frame boundary. -/
def narrowLink (n : Nat) (s : State) : State :=
  let bad := (link s n).failing
  let lower := bad.any (fun l => !inUpper n l)
  let upper := bad.any (inUpper n)
  if lower && upper then linkDown n s
  else
    let half := flag lower
    if n ≤ 8 then
      let s := changeLink n (fun r => { r with ask := half + 1 }) s
      if (link s n).locked then putControl n 1 (half + 1) (rxOf s n).expected 0 0 s else s
    else changeLink n (fun r => { r with narrow := some half }) s

/-- A lane meets R291: event 0x4024. The bundle narrows unless the cause lies in a laser or ring that a spare of
the lasers takes over first. -/
def laneFailing (n lane : Nat) (spared : Bool) (s : State) : State :=
  let r := link s n
  if lane ∈ r.failing ∨ lane ≥ linkLanes n ∨ r.state = 0 then s
  else
    let s := raise 0x4024 (linkItems n (some lane) none) (changeLink n (fun r => { r with failing := r.failing ++ [lane] }) s)
    if spared then s else narrowLink n s

/-- The board-table taps of a transmitter lane (R286): pre-cursor and post-cursor. [DEDUCED, safe: log 179] -/
def boardTap (s : State) (n lane : Nat) : Int × Int :=
  let i := if n < 8 then 8 + n else if n = 8 then lane else 16 + pathPlane n
  let v := dictBytes s 0x403001
  (signed 8 (fieldAt v (4 * i) 1), signed 8 (fieldAt v (4 * i + 2) 1))

/-- One step of a tap, c₀ following (R285, R287): not beyond 8 units from the board table, nor beyond the limits of R285.
[DEDUCED, safe: log 179] -/
def tapStep (s : State) (n : Nat) (t : Tab Int) (st : Nat × Nat) : Tab Int :=
  let d : Int := if st.2 = 1 ∨ st.2 = 3 then 1 else -1
  let key := 2 * st.1 + (if st.2 ≤ 2 then 0 else 1)
  let t' := Tab.change 0 key (· + d) t
  let (pre, post) := boardTap s n st.1
  let pre := pre + Tab.look 0 t' (2 * st.1)
  let post := post + Tab.look 0 t' (2 * st.1 + 1)
  if (Tab.look 0 t' key).natAbs ≤ 8 ∧ -16 ≤ pre ∧ pre ≤ 0 ∧ -24 ≤ post ∧ post ≤ 0 ∧ 32 ≤ 64 + pre + post then t' else t

/-- At a transmitter's frame boundary (R287, R293, R294): a width that the partner has asked for, tap steps, and
paths that narrow. -/
def linkBoundary (n : Nat) (s : State) : State :=
  let x := txOf s n
  let s := match x.asked with
    | none => s
    | some w =>
      if n ≤ 8 ∧ (link s n).up ∧ w ≠ x.width then
        putControl n 3 w 0 0 0 (changeTx n (fun x => { x with asked := none }) s) |>
          changeTx n (fun x => { x with width := w, line := { x.line with dealt := 0 } })
      else s
  let s := changeTx n (fun x => { x with taps := x.steps.foldl (tapStep s n) x.taps, steps := [] }) s
  match (link s n).narrow with
  | none => s
  | some h => if n ≤ 8 then s else takeWidth n (h + 1) s

/-- Every link at a frame boundary. -/
def linksBoundary (s : State) : State :=
  let keys := ((s.lanes.links.map (·.1)) ++ (s.lanes.tx.map (·.1))).eraseDups
  keys.foldl (fun s n => fillIdle n (beginStream n (linkBoundary n s))) s

/-! ### Training and lock (R276 to R278) -/

/-- LINK_TRAINING (R277): blind training on a port or TW. Lanes whose pattern shows an error, or a skew beyond 256 symbols,
are failing; the skews of the others are removed from now on. -/
def linkTraining (n : Nat) (failed : List Nat) (skews : List Int) (s : State) : State :=
  if !linkServed s n ∨ (link s n).out then s
  else
    let s := changeRx n (fun r => { r with skews := skews }) (startTraining n s)
    let wide := (List.range skews.length).filter (fun l => decide (256 < (skews.getD l 0).natAbs))
    let lanes := ((failed ++ wide).filter (fun l => decide (l < linkLanes n))).eraseDups
    lanes.foldl (fun s l => laneFailing n l false s) s

def execLinkTraining (link : Fin 9) (failedLanes : List Nat) (skews : List Int) (s : State) :
    Host.Outcome State Fault Refusal :=
  .next (linkTraining link failedLanes skews s)

/-- TRAINING_TIMEOUT (R277). -/
def trainingTimeout (n : Nat) (s : State) : State :=
  let r := link s n
  if r.state ≠ 1 ∨ r.locked then s
  else
    let s := advanceTo (r.trainingAt + 100 * us) s
    if r.attempts ≥ 10 then linkDown n s
    else sendPattern n (changeLink n (fun r => { r with attempts := r.attempts + 1, trainingAt := s.now, hunt := {} }) s)

def execTrainingTimeout (link : Fin 9) (s : State) : Host.Outcome State Fault Refusal := .next (trainingTimeout link s)

/-- A link that a receiver hunts on: it trains, and it is a path between towers in service, or a port or TW. -/
def hunts (s : State) (n : Nat) : Bool :=
  let r := link s n
  linkExists n && !r.locked && !r.out &&
    (if n ≤ 8 then decide (r.state = 1) else towerUp s (pathSrc n) && towerUp s (pathDst n))

/-- The receiver declares lock (R276, R278): event 0x4021. The link runs at the width in force. A path
enters service, unless one of its steering rings has no lock (R312). -/
def declareLock (n : Nat) (s : State) : State :=
  let s := raise 0x4021 (linkItems n none none) s
  let s := changeLink n (fun r => { r with
    up := r.up || decide (8 < n), locked := true, lockedAt := s.now, state := if r.width = 0 then 2 else 3 }) s
  let s := match s.lanes.scan with
    | none => s
    | some sc => if sc.link = n then { s with lanes.scan := some { sc with ends := s.now + 100 * ms } } else s
  if n ≤ 8 then beginStream n s
  else if steeringOut s (pathSrc n) (pathPlane n) (pathDst n) then s
  else pathService n true s

/-- The receiver declares loss of lock (R276, R279): event 0x4022. -/
def lockLost (n : Nat) (s : State) : State :=
  if !(link s n).locked then s else recover n (raise 0x4022 (linkItems n none none) s)

/-- A receiver hears a block header (R276): it hunts until it has lock, and then watches for its loss. -/
def hearHeader (n : Nat) (s : State) (h : BitVec 2) : State :=
  if (link s n).locked then
    let x := lockedHeader (link s n).hunt h
    let s := changeLink n (fun r => { r with hunt := x }) s
    if huntLost x then lockLost n s else s
  else if !hunts s n then s
  else
    let x := huntHeader (link s n).hunt h
    let s := changeLink n (fun r => { r with hunt := x }) s
    if huntLocked x then declareLock n s else s

/-- The headers of flits that arrive whole. -/
def flitHeaders : List (BitVec 2) := 0b10 :: List.replicate 7 0b01

/-- A receiver hears whole flits until it has lock. -/
def lockOn (n : Nat) (s : State) : State := ((List.replicate 8 flitHeaders).flatten).foldl (hearHeader n) s

/-- LINK_LOCK (R276, R278): the headers heard at the candidate positions, in turn. -/
def linkLock (n : Nat) (headers : List (BitVec 2)) (s : State) : State := headers.foldl (hearHeader n) s

def execLinkLock (link : BitVec 16) (headers : List (BitVec 2)) (s : State) : Host.Outcome State Fault Refusal :=
  .next (linkLock link.toNat headers s)

/-- LINK_LOCK_LOST (R276, R279): headers heard after lock. -/
def execLinkLockLost (link : BitVec 16) (headers : List (BitVec 2)) (s : State) : Host.Outcome State Fault Refusal :=
  .next (headers.foldl (hearHeader link.toNat) s)

/-- A flit arrives on a locked port or TW: its headers are valid, and the line code follows it (R271, R276). -/
def hearFlit (n : Nat) (f : Bytes) (s : State) : State :=
  if !(link s n).locked then s
  else
    let active := activeLanes (linkLanes n) (link s n).width
    changeRx n (fun r => { r with line := (lineFlit r.line active f).2 }) (flitHeaders.foldl (hearHeader n) s)

/-- LINK_INFO_TIMER (R277): LINK_INFO every 1 µs after lock, until the partner's has been received. -/
def linkInfoTimer (n : Nat) (s : State) : State :=
  let r := link s n
  if !r.locked ∨ r.infoSeen then s
  else
    let s := beginStream n (advanceTo (max (r.lockedAt + us) (if (txOf s n).pattern then (txOf s n).streamAt else 0)) s)
    putControl n 1 r.ask (rxOf s n).expected 0 0 (changeLink n (fun r => { r with lockedAt := s.now }) s)

def execLinkInfoTimer (link : Fin 9) (s : State) : Host.Outcome State Fault Refusal := .next (linkInfoTimer link s)

/-! ### Flits received (R274, R275, R280 to R283, R290, R380, R382) -/

/-- The acknowledgement and Nak fields of a flit (R281). -/
def takeAck (n : Nat) (f : Bytes) (s : State) : State :=
  let s := if flitAckValid f then ackTx n (flitAck f) s else s
  if flitNakValid f then
    if (txOf s n).nak = some (flitNak f) then s
    else retryFlit n (flitNak f) (changeTx n (fun x => { x with nak := some (flitNak f), nakAt := s.now }) s)
  else changeTx n (fun x => { x with nak := none }) s

/-- A tag failure (R382): discarded, counted, reported; four within 1 ms take the port down. -/
def tagFailed (n seq : Nat) (s : State) : State :=
  let key := 2 * n + 1
  let s := raise 0x5009 (fabricItems none none none (some n) (some seq) none) (count32 0x50000F 1 s)
  let c := crypt s key
  let fails := (c.tagFails.filter (fun t => decide (s.now < t + ms))) ++ [s.now]
  let s := changeRx n (fun r => { r with naking := true }) { s with fab.crypt := Tab.put {} key { c with tagFails := fails } s.fab.crypt }
  if fails.length ≥ 4 then linkDown n s else s

/-- DATA_FLIT (R280). On an encrypted port `opened` is what AES-256-GCM gives of the flit's data, none when its tag
fails. -/
def dataFlit (n : Nat) (f : Bytes) (opened : Option Bytes) (s : State) : State :=
  let s := hearFlit n f s
  if !(link s n).locked then s
  else if !flitIntact f then fillIdle n (rxBad n s)
  else if flitKind f ≠ 0 then s
  else
    let s := takeAck n f s
    let sealed := decide (n < 8) && portEncrypted s n && decide ((crypt s (2 * n + 1)).generation ≠ 0)
    if sealed && opened.isNone then tagFailed n (flitSeq f) s
    else
      let data := if sealed then padTo 224 (opened.getD []) else flitData f
      let s := if sealed then
          let s := switchKey (2 * n + 1) s
          { s with fab.crypt := Tab.change {} (2 * n + 1) (fun c => { c with count := c.count + 1 }) s.fab.crypt }
        else s
      let (out, s) := rxTake n (flitSeq f) data s
      let s := { s with lanes.delivered := s.lanes.delivered ++ out.map (fun d => (n, d)) }
      fillIdle n s

def execDataFlit (link : Fin 9) (flit : Bytes) (opened : Option Bytes) (s : State) : Host.Outcome State Fault Refusal :=
  .next (dataFlit link flit opened s)

/-- NULL_FLIT (R275); in a loop-back it is counted (R290). -/
def nullFlit (n : Nat) (f : Bytes) (s : State) : State :=
  if (link s n).loop ≠ 0 then
    { s with
      lanes.loopChecked := satAdd 32 s.lanes.loopChecked 1
      lanes.loopErrors := satAdd 32 s.lanes.loopErrors (flag (!flitIntact f)) }
  else
    let s := hearFlit n f s
    if !(link s n).locked then s
    else if !flitIntact f then fillIdle n (rxBad n s)
    else if flitKind f ≠ 1 then s
    else takeAck n f s

def execNullFlit (link : BitVec 16) (flit : Bytes) (s : State) : Host.Outcome State Fault Refusal :=
  .next (nullFlit link.toNat flit s)

/-- A CONTROL flit of a code reaches a locked receiver: one that fails its CRC is discarded, counted and asked for again
(R275, R281); of the others its acknowledgement is taken and then its meaning. -/
def takeControl (n code : Nat) (f : Bytes) (g : State → State) (s : State) : State :=
  let s := hearFlit n f s
  if !(link s n).locked then s
  else if !flitIntact f then fillIdle n (rxBad n s)
  else if flitKind f ≠ 2 ∨ flitCode f ≠ code then s
  else g (takeAck n f s)

/-- The partner's LINK_INFO starts or resumes DATA, from its expected sequence. -/
def startData (n expected : Nat) (s : State) : State :=
  let before := s
  let s := if (txOf s n).pattern then beginStream n (advanceTo (txOf s n).streamAt s) else s
  let s := changeLink n (fun r => { r with infoSeen := true, up := true }) s
  let s := if n < 8 ∧ !(link before n).up then settleRoutes before s else s
  let s := changeTx n (fun x => { x with dataOn := true }) (ackTx n ((expected + 1023) % 1024) s)
  let s := (txOf s n).unacked.foldl (fun s f => putFlit n 0 f.seq f.first f.data s) s
  let s := pumpTx n s
  if n < 8 then pumpPort n s else s

/-- LINK_INFO (R277, R293). -/
def linkInfo (n : Nat) (f : Bytes) (s : State) : State :=
  takeControl n 1 f (fun s =>
    let s := if (txOf s n).dataOn then changeLink n (fun r => { r with infoSeen := true }) s else startData n (flitExpected f) s
    fillIdle n (changeTx n (fun x => { x with asked := if flitWidth f ≤ 2 then some (flitWidth f) else x.asked }) s)) s

def execLinkInfo (link : Fin 9) (flit : Bytes) (s : State) : Host.Outcome State Fault Refusal := .next (linkInfo link flit s)

/-- A tap step is asked for (R287): it is applied at the transmitter's next frame boundary; in recovery, retraining or a
loop-back it is discarded (R295). -/
def takeStep (n lane step : Nat) (s : State) : State :=
  let r := link s n
  if !linkExists n ∨ lane ≥ linkLanes n ∨ !(1 ≤ step ∧ step ≤ 4) ∨ r.state < 2 ∨ r.loop ≠ 0 ∨ !s.frame.optical then s
  else changeTx n (fun x => { x with steps := x.steps ++ [(lane, step)] }) s

/-- TAP_REQUEST (R275, R287): a flit on a port or TW, a message of the mesh on the crossbar. [DESIGN CHOICE, safe:
log 22] -/
def tapRequest (n : Nat) (ask : TapAsk) (s : State) : State := match ask with
  | .flit f => if n ≤ 8 then takeControl n 2 f (takeStep n (flitLane f) (flitStep f)) s else s
  | .mesh lane step =>
    if n ≤ 8 then s
    else takeStep n lane.toNat step.toNat
      { s with lanes.tapWords := s.lanes.tapWords.erase (n, lane.toNat, step.toNat) }

def execTapRequest (link : BitVec 16) (ask : TapAsk) (s : State) : Host.Outcome State Fault Refusal :=
  .next (tapRequest link.toNat ask s)

/-- NARROW_NOW (R293): the receiver switches after that flit. -/
def narrowNow (n : Nat) (f : Bytes) (s : State) : State :=
  takeControl n 3 f (fun s => if flitWidth f > 2 then s else takeWidth n (flitWidth f) s) s

def execNarrowNow (link : Fin 9) (flit : Bytes) (s : State) : Host.Outcome State Fault Refusal := .next (narrowNow link flit s)

/-- LOOPBACK_REQ (R290): accepted while the own link is taken out of service by command. One that fails its CRC is counted
(R275). -/
def loopbackReq (n : Nat) (f : Bytes) (s : State) : State :=
  if !flitIntact f then count64 0x402002 1 s
  else if flitKind f ≠ 2 ∨ flitCode f ≠ 4 ∨ flitStep f > 1 ∨ !(link s n).out then s
  else changeLink n (fun r => { r with partnerLoop := decide (flitStep f = 1) }) s

def execLoopbackReq (link : Fin 9) (flit : Bytes) (s : State) : Host.Outcome State Fault Refusal :=
  .next (loopbackReq link flit s)

/-- ACK_WORD (R282) at a crossbar source. -/
def ackWord (t : Nat) (w : BitVec 64) (s : State) : State :=
  let is (m : MeshPacket) : Bool := decide (m.dest = t ∧ m.load = .acknowledge w)
  let s := { s with pho.mesh := s.pho.mesh.eraseP is }
  let d := bits w 63 60
  if !wordValid w ∨ bits w 59 56 ≠ t ∨ d ≥ 12 ∨ d = t then s
  else
    let n := pathLink t d (bits w 55 53)
    let s := ackTx n (bits w 51 42) s
    if w.getLsbD 52 then
      let q := bits w 41 32
      if (txOf s n).nak = some q then s
      else retryFlit n q (changeTx n (fun x => { x with nak := some q, nakAt := s.now }) s)
    else changeTx n (fun x => { x with nak := none }) s

def execAckWord (tower : Tower) (word : BitVec 64) (s : State) : Host.Outcome State Fault Refusal := .next (ackWord tower word s)

/-- NAK_RETRANSMIT (R281): a Nak that has persisted for 1 µs. -/
def nakRetransmit (n : Nat) (s : State) : State :=
  let x := txOf s n
  match x.nak with
  | none => s
  | some q =>
    let s := advanceTo (x.nakAt + us) s
    retryFlit n q (changeTx n (fun x => { x with nakAt := s.now }) s)

def execNakRetransmit (link : Fin 9) (s : State) : Host.Outcome State Fault Refusal := .next (nakRetransmit link s)

/-- REPLAY_TIMER (R283): the oldest unacknowledged flit. -/
def replayTimer (n : Nat) (s : State) : State :=
  match (txOf s n).unacked with
  | [] => s
  | f :: _ =>
    let s := advanceTo (f.sentAt + replayTime n) s
    let s := changeTx n (fun x => { x with
      unacked := changeFirst (fun g => decide (g.seq = f.seq)) (fun g => { g with sentAt := s.now }) x.unacked }) s
    retryFlit n f.seq s

def execReplayTimer (link : BitVec 16) (s : State) : Host.Outcome State Fault Refusal := .next (replayTimer link.toNat s)

/-! ### Eyes (R285 to R289, R291) -/

/-- An estimate of 0x4020:07, in units of 0.01 decade below zero: −1,200 or above. -/
def estimateHigh (e : Nat) : Bool := decide (e ≤ 1200)

/-- A receiver lane asks for one step. Which tap and which way the manual leaves open. At 8 units from the board
table the device asks no further that way (R287). [DESIGN CHOICE, safe: log 22] -/
def askStep (n lane : Nat) (s : State) : State :=
  let (r, s) := draw s
  let step := r.toNat % 4 + 1
  let d : Int := if step = 1 ∨ step = 3 then 1 else -1
  let key := 64 * n + lane
  let e := Tab.look {} s.lanes.eyes key
  let v := (if step ≤ 2 then e.pre else e.post) + d
  if v > 8 ∨ v < -8 then s
  else
    let s := raiseIf (decide (v = 8 ∨ v = -8)) 0x4028 (linkItems n (some lane) none) s
    let s := { s with
      lanes.eyes := Tab.change {} key (fun e => { e with
        pre := if step ≤ 2 then v else e.pre
        post := if step ≤ 2 then e.post else v
        lastRequest := some s.frame.number }) s.lanes.eyes }
    if n ≤ 8 then putControl n 2 0 0 lane step s
    else { s with lanes.tapWords := s.lanes.tapWords ++ [(n, lane, step)] }

/-- One lane's new estimate (R288). [DEDUCED, safe: log 124] -/
def laneEstimate (n lane est : Nat) (spared : Bool) (s : State) : State :=
  let key := 64 * n + lane
  let e := Tab.look {} s.lanes.eyes key
  let worse := if est < e.estimate then e.worse + 1 else 0
  let high := if estimateHigh est then e.high + 1 else 0
  let s := { s with
    lanes.eyes := Tab.put {} key { e with estimate := min est 2000, worse := worse, high := high } s.lanes.eyes }
  let s := if high ≥ 4 then laneFailing n lane spared s else s
  let due : Bool := match e.lastRequest with
    | none => true
    | some f => decide (f + 64 ≤ s.frame.number)
  if worse ≥ 2 ∧ due ∧ s.frame.optical ∧ (link s n).state ≥ 2 then askStep n lane s else s

/-- EYE_ESTIMATE (R288): the estimates of a link's lanes, lane 0 first, in units of 0.01 decade below zero.
`spared` are lanes whose fault lies in a laser or a ring with a spare left (R291). [DEDUCED, safe: log 124] -/
def eyeEstimate (n : Nat) (ests spared : List Nat) (s : State) : State :=
  if !linkExists n ∨ (link s n).state < 2 then s
  else (List.range (min ests.length (linkLanes n))).foldl (fun s i =>
    laneEstimate n i (ests.getD i 2000) (decide (i ∈ spared)) s) s

def execEyeEstimate (link : BitVec 16) (estimates spared : List Nat) (s : State) : Host.Outcome State Fault Refusal :=
  .next (eyeEstimate link.toNat estimates spared s)

/-- LOSS_OF_SIGNAL (R291). -/
def execLossOfSignal (link : BitVec 16) (lane : BitVec 6) (spared : Bool) (s : State) : Host.Outcome State Fault Refusal :=
  .next (if linkExists link.toNat then laneFailing link.toNat lane.toNat spared s else s)

/-- LOSS_OF_CLOCK_RECOVERY (R291). -/
def execLossOfClockRecovery (link : BitVec 16) (lane : BitVec 6) (spared : Bool) (s : State) :
    Host.Outcome State Fault Refusal :=
  .next (if linkExists link.toNat then laneFailing link.toNat lane.toNat spared s else s)

/-- EYE_SCAN (R289). -/
def eyeScanAct : WriteAct := fun value s =>
  let n := leNat value
  if !linkExists n then refuseRange 0
  else .done { s with lanes.scan := some { link := n, ends := s.now + 100 * ms } }

def execEyeScan (req : Req) (value : Bytes) (s : State) : Host.Outcome State Fault Refusal :=
  .next (serveWrite req 0x402006 value eyeScanAct s)

/-- EYE_SCAN_DONE (R289): `margins` holds a lane's timing margin and three voltage margins, lane 0 first. -/
def eyeScanDone (margins : List (List Nat)) (s : State) : State := match s.lanes.scan with
  | none => s
  | some sc =>
    if (link s sc.link).state < 2 then s
    else
      let s := advanceTo sc.ends s
      let lanes := (List.range (linkLanes sc.link)).map (fun i =>
        let m := margins.getD i []
        ((List.range 4).map (fun j => BitVec.ofNat 8 (m.getD j 0))) ++
          leBytes 2 (unsigned 16 (-(((Tab.look {} s.lanes.eyes (64 * sc.link + i)).estimate : Nat) : Int))) ++ leBytes 2 sc.link)
      { s with lanes.scan := none, lanes.scanResult := padTo 512 lanes.flatten }

def execEyeScanDone (margins : List (List Nat)) (s : State) : Host.Outcome State Fault Refusal := .next (eyeScanDone margins s)

/-! ### Loop-backs (R290) -/

/-- The link number of 0x4020:08 and 0x4020:09, and the code. -/
def cmdLink (v : Nat) : Nat := nbits v 15 0
def cmdCode (v : Nat) : Nat := nbits v 17 16

/-- End the loop-back of a link. -/
def endLoop (n : Nat) (s : State) : State :=
  let r := link s n
  let s := if n > 8 ∧ r.loop = 2 then guideUp true (pathSrc n) (pathPlane n) (guideUp false (pathDst n) (pathPlane n) s) else s
  let s := if r.loop = 3 then putControl n 4 0 0 0 0 s else s
  changeLink n (fun r => { r with loop := 0 }) s

/-- A NULL flit of a loop-back: its data bytes carry PRBS31 (R290). [DESIGN CHOICE, safe: log 176] -/
def putLoopNull (n : Nat) (s : State) : State := putFlit n 1 0 0xFFFF ((List.range 240).map Config.prbs31) s

/-- Begin one: the counts of 0x4020:0A start afresh. -/
def beginLoop (n code : Nat) (s : State) : State :=
  let s := { changeLink n (fun r => { r with loop := code }) s with lanes.loopChecked := 0, lanes.loopErrors := 0 }
  let s := putLoopNull n s
  if n > 8 ∧ code = 2 then guideDown true (pathSrc n) (pathPlane n) (guideDown false (pathDst n) (pathPlane n) s)
  else if code = 3 then putControl n 4 0 0 0 1 s
  else s

/-- Whether light returns on the receive fibers of FA8 (R22): what the command says, and a free value where it says
nothing. [DESIGN CHOICE, safe: log 139] -/
def fa8Light (light : Option Bool) (s : State) : Bool × State := match light with
  | some b => (b, s)
  | none => let (x, s) := draw s
    (x.getLsbD 0, s)

/-- A write of 0x4020:08. [DEDUCED, safe: log 23] -/
def loopbackAct (light : Option Bool) : WriteAct := fun value s =>
  let v := leNat value
  let n := cmdLink v
  let code := cmdCode v
  if v ≥ 2 ^ 18 then refuseRange 2
  else if !linkExists n then refuseRange 0
  else if code = 0 then (if (link s n).loop = 0 then refuseState else .done (endLoop n s))
  else if !(link s n).out ∨ (link s n).loop ≠ 0 then refuseState
  else if code = 3 ∧ n > 8 then refuseRange 2
  else if code = 2 ∧ n ≠ 8 then
    if s.lanes.links.any (fun l => decide (l.1 ≠ 8 ∧ l.2.loop = 2)) then refuseState
    else
      let (lit, s) := fa8Light light s
      if lit then .done (beginLoop n code s) else .refuse stUnavailable 0
  else .done (beginLoop n code s)

/-- A loop-back command of one code; a value with another code is another row's. -/
def loopRow (code : Nat) (light : Option Bool) (req : Req) (value : Bytes) (s : State) : State :=
  if cmdCode (leNat value) = code then serveWrite req 0x402008 value (loopbackAct light) s else s

/-- LOOPBACK_END. -/
def execLoopbackEnd (req : Req) (value : Bytes) (s : State) : Host.Outcome State Fault Refusal := .next (loopRow 0 none req value s)

/-- LOOPBACK_NEAR_PARALLEL. -/
def execLoopbackNearParallel (req : Req) (value : Bytes) (s : State) : Host.Outcome State Fault Refusal :=
  .next (loopRow 1 none req value s)

/-- LOOPBACK_NEAR_SERIAL. -/
def execLoopbackNearSerial (req : Req) (value : Bytes) (light : Bool) (s : State) : Host.Outcome State Fault Refusal :=
  .next (loopRow 2 (some light) req value s)

/-- LOOPBACK_FAR_END. -/
def execLoopbackFarEnd (req : Req) (value : Bytes) (s : State) : Host.Outcome State Fault Refusal :=
  .next (loopRow 3 none req value s)

/-! ### Link control (0x4020:09) -/

/-- Retrain a link (R292): the failing lanes are judged anew, and full width is asked for. -/
def retrainLink (n : Nat) (s : State) : State :=
  let s := raise 0x4023 (linkItems n none none) (count32 0x402004 1 s)
  let s := changeLink n (fun r => { r with failing := [], ask := 0, width := 0, narrow := none }) s
  let s := startTraining n s
  if n ≤ 8 then s else pathService n false s

/-- A write of 0x4020:09. -/
def linkControlAct : WriteAct := fun value s =>
  let v := leNat value
  let n := cmdLink v
  if v ≥ 2 ^ 18 ∨ cmdCode v = 3 then refuseRange 2
  else if !linkExists n then refuseRange 0
  else match cmdCode v with
    | 0 => .done (retrainLink n s)
    | 1 =>
      let s := changeLink n (fun r => { r with out := true }) s
      .done (if n ≤ 8 ∧ (link s n).state = 0 then s else linkDown n s)
    | _ =>
      let s := endLoop n s
      let s := changeLink n (fun r => { r with out := false, partnerLoop := false }) s
      .done (startTraining n s)

/-- A link-control command of one code. -/
def controlRow (code : Nat) (req : Req) (value : Bytes) (s : State) : State :=
  if cmdCode (leNat value) = code then serveWrite req 0x402009 value linkControlAct s else s

/-- LINK_RETRAIN. -/
def execLinkRetrain (req : Req) (value : Bytes) (s : State) : Host.Outcome State Fault Refusal := .next (controlRow 0 req value s)

/-- LINK_TAKE_OUT_OF_SERVICE. -/
def execLinkTakeOutOfService (req : Req) (value : Bytes) (s : State) : Host.Outcome State Fault Refusal :=
  .next (controlRow 1 req value s)

/-- LINK_RETURN_TO_SERVICE. -/
def execLinkReturnToService (req : Req) (value : Bytes) (s : State) : Host.Outcome State Fault Refusal :=
  .next (controlRow 2 req value s)

/-! ### Entries -/

/-- 0x4020:01. -/
def linkStateBytes (s : State) : Bytes :=
  (List.range 1168).flatMap (fun n =>
    let r := link s n
    if !linkExists n then zeros 4
    else leBytes 4 (r.state + 4 * r.half + 8 * flag (decide (r.loop ≠ 0) || r.partnerLoop) + 2 ^ 8 * r.failing.length))

/-- R285, and the check word, of a board table (0x4030:01): the offset of the first bad byte. -/
def boardTableFault (v : Bytes) : Option Nat :=
  let bad (i : Nat) : Bool :=
    let pre := signed 8 (fieldAt v (4 * i) 1)
    let main := signed 8 (fieldAt v (4 * i + 1) 1)
    let post := signed 8 (fieldAt v (4 * i + 2) 1)
    !(decide (-16 ≤ pre ∧ pre ≤ 0 ∧ -24 ≤ post ∧ post ≤ 0 ∧ 32 ≤ main ∧ main ≤ 64 ∧ main - pre - post = 64)) ||
      decide (fieldAt v (4 * i + 3) 1 ≠ 0)
  match (List.range 24).find? bad with
  | some i => some (4 * i)
  | none => if fieldAt v 96 4 = (crc32 (v.take 96)).toNat then none else some 96

end Sys2Proof.Machine
end

