-- ==== Sys2Proof/Machine/Frame.lean ====
section
/-! DEFINITION. The frame: tick words at the receivers and the frame length (R36 to R42). The boundary itself
is in `Machine/Boundary.lean`. -/

namespace Sys2Proof.Machine

/-- Change a receiver. -/
def changeReceiver (t : Nat) (f : Receiver → Receiver) (s : State) : State :=
  { s with frame.receivers := Tab.change {} t f s.frame.receivers }

/-- The flywheel passes a boundary: the next one lies a frame of the length code in force ahead. -/
def turnFlywheel (code : BitVec 2) (r : Receiver) : Receiver :=
  { r with next := r.next + 1, due := r.due + frameCycles code, code := code }

/-- A missed tick (R40): counted, reported, and tick loss at the fourth in a row. A receiver that has never
locked at this start only restarts its count toward lock. -/
def missTick (t : Nat) (s : State) : State :=
  let r := receiver s t
  if !r.everLocked then changeReceiver t (fun r => { r with good := 0 }) s
  else
    let s := raise 0x3002 [b1 t, bPartition s t] (count32 0x300005 1 s)
    let s := changeReceiver t (fun r => turnFlywheel r.code { r with missed := r.missed + 1, good := 0 }) s
    if r.missed + 1 ≥ 4 ∧ !r.lost then
      raise 0x3003 [b1 t, bPartition s t]
        (changeReceiver t (fun r => { r with locked := false, lost := true }) s)
    else s

/-- A word names a predicted frame at its predicted boundary, within the ±1 base cycle of R39. [DEDUCED, safe: log
134] -/
def tickAgrees (number due now : Nat) (w : BitVec 128) : Bool :=
  decide (tickNumber w = number) && decide (now ≤ due + 1) && decide (due ≤ now + 1)

/-- A word that passes its check at a receiver out of lock (R40): the count toward 16 words that agree with one another,
and lock to them. A flywheel in tick loss turns on meanwhile. [DEDUCED, safe: log 134] -/
def countTick (t : Nat) (w : BitVec 128) (s : State) : State :=
  let r := receiver s t
  let good := if r.good > 0 ∧ tickAgrees r.lockNext r.lockDue s.now w then r.good + 1 else 1
  let turn (r : Receiver) : Receiver := if r.everLocked then turnFlywheel (tickCode w) r else r
  let s := changeReceiver t (fun r => { turn r with
    good := good
    missed := 0
    lockNext := tickNumber w + 1
    lockDue := s.now + frameCycles (tickCode w) }) s
  if good ≥ 16 then
    raise 0x3001 [b1 t, bPartition s t]
      (changeReceiver t (fun r => { r with
        locked := true
        everLocked := true
        lost := false
        good := 0
        next := r.lockNext
        due := r.lockDue
        code := tickCode w }) s)
  else s

/-- TICK_WORD_RECEIVED (R40): the command's moment is that of the word's first rising edge at the receiver. A
provisional word marks a boundary and nothing else (R538). A word that passes its check and disagrees with a locked
receiver's prediction counts as missed. -/
def takeTick (t : Nat) (w : BitVec 128) (s : State) : State :=
  if s.frame.ticks ≠ .optical ∨ !towerUp s t ∨ baseDown s (baseOfTower t) then s
  else
    let r := receiver s t
    if !tickValid w then missTick t s
    else if r.locked then
      if tickAgrees r.next r.due s.now w then
        changeReceiver t (fun r => turnFlywheel (tickCode w) { r with missed := 0 }) s
      else missTick t s
    else countTick t w s

def execTickWordReceived (tower : Tower) (word : BitVec 128) (s : State) : Host.Outcome State Fault Refusal :=
  .next (takeTick tower word s)

/-- TICK_MISSED (R40). -/
def execTickMissed (tower : Tower) (s : State) : Host.Outcome State Fault Refusal :=
  .next (if s.frame.ticks ≠ .optical ∨ !towerUp s tower ∨ baseDown s (baseOfTower tower) then s else missTick tower s)

/-- The effect of a write to 0x3000:01 (R36): in force at the first optical tick, or at the first boundary at
least one whole frame away; the write is answered then. [DESIGN CHOICE, unsafe: log 130] -/
def frameLengthAct : WriteAct := fun value s =>
  let code := leNat value
  if code ≥ 4 then refuseRange 0
  else if s.parts.graphs ≠ [] then refuseState
  else
    let c := BitVec.ofNat 2 code
    if c = s.frame.code ∧ s.frame.pending = none then .done s
    else
      let at_ := if s.now = s.frame.start then s.frame.number + 1 else s.frame.number + 2
      .wait 0 { s with frame.pending := some (c, at_) }

/-- FRAME_LENGTH_WRITE (R36). -/
def execFrameLengthWrite (req : Req) (value : Bytes) (s : State) : Host.Outcome State Fault Refusal :=
  .next (serveWrite req 0x300001 value frameLengthAct s)

end Sys2Proof.Machine
end

