-- ==== Sys2Proof/Machine/TdiOps.lean ====
section
/-! DEFINITION. The states of a trusted domain interface (R481 to R483). -/

namespace Sys2Proof.Machine

/-- Payload items of R489: tower, partition, function, port. [DESIGN CHOICE, safe: log 127] -/
def secItems (tower partition function port : Option Nat) : List (Option Bytes) :=
  [tower.bind b1, partition.bind b1, function.bind b1, port.bind b1]

/-- A TDI's state. -/
def tdiState (s : State) (f : Nat) : Nat := Tab.look 0 s.sec.tdi f

/-- The partition a function owns, the first of them. -/
def ownedPartition (s : State) (f : Nat) : Option Nat := allTowers.find? (fun p => decide (ownerOf s p = some f))

/-- The partitions a function owns. -/
def ownedPartitions (s : State) (f : Nat) : List Nat := allTowers.filter (fun p => decide (ownerOf s p = some f))

/-- A virtual function with its partition is one TDI (R481). -/
def isTdi (s : State) (f : Nat) : Bool := decide (1 ≤ f ∧ f ≤ 12) && (ownedPartition s f).isSome

/-- A TDI changes state: event 0x6008 (R481), and the host is notified (R505). -/
def setTdi (f n : Nat) (s : State) : State :=
  if tdiState s f = n then s
  else notify 4 (raise 0x6008 (secItems none (ownedPartition s f) (some f) none) { s with sec.tdi := Tab.put 0 f n s.sec.tdi })

/-- A TDI goes to ERROR (R483): its partition's live runs end REFUSED, and it owes a tenant handover. [DEDUCED, safe:
log 78] -/
def tdiFail (f : Nat) (s : State) : State :=
  if !isTdi s f then s
  else
    let ps := ownedPartitions s f
    let s := setTdi f 3 { s with sec.tdiOwes := Tab.put [] f (ps.flatMap (towersOf s)) s.sec.tdiOwes }
    (s.parts.runs.filter (fun r => decide (r.partition ∈ ps))).foldl
      (fun s r => releaseRun r.partition r.id ccRefused 0 true s) s

/-- The TDI that owns a partition fails. -/
def partitionTdiFail (p : Nat) (s : State) : State := match ownerOf s p with
  | some f => tdiFail f s
  | none => s

end Sys2Proof.Machine
end

