-- ==== Sys2Proof/Machine/Lasers.lean ====
section
/-! DEFINITION. Lasers, rings and calibration (R298 to R320). -/

namespace Sys2Proof.Machine

/-! ### Lasers and lambs -/

/-- P_c (R300, R306): the record of assembly test, or P at the first lock where there is no valid one. -/
def powerRef (s : State) (f i : Nat) : Nat :=
  let c := (Config.commissioningPower (sourceKey f i)).toNat
  if c = 0 then (source s f i).ownPower.getD 0 else c

/-- The last 64 samples. -/
def lastSamples (s : State) (f i : Nat) : List Nat :=
  let xs := (source s f i).samples.map (·.2)
  xs.drop (xs.length - 64)

/-- The ratio r is at or below a percentage. -/
def ratioAtMost (s : State) (f i percent : Nat) : Bool :=
  let xs := lastSamples s f i
  decide (xs ≠ []) && decide (powerRef s f i ≠ 0) && decide (xs.sum * 100 ≤ percent * xs.length * powerRef s f i)

/-- The ratio r in units of 0.1 %. -/
def ratioTenths (s : State) (f i : Nat) : Nat :=
  let xs := lastSamples s f i
  if xs = [] ∨ powerRef s f i = 0 then 0 else xs.sum * 1000 / (xs.length * powerRef s f i)

/-- The fade rate is at or above 0x4400:04 (R300, R301): the least-squares slope of r over the samples of the last
10 ms, in 0.01 % per second. -/
def fadesFast (s : State) (f i : Nat) : Bool :=
  let xs := (source s f i).samples.filter (fun x => decide (s.now ≤ x.1 + 10 * ms))
  let t0 := (xs.head?.map (·.1)).getD 0
  let ps : List (Int × Int) := xs.map (fun x => (((x.1 - t0 : Nat) : Int), (x.2 : Int)))
  let n : Int := ps.length
  let sum (g : Int × Int → Int) : Int := (ps.map g).foldl (· + ·) 0
  let num := n * sum (fun p => p.1 * p.2) - sum (·.1) * sum (·.2)
  let den := n * sum (fun p => p.1 * p.1) - sum (·.1) * sum (·.1)
  decide (0 < den) && decide (dictNat s 0x440004 * den * powerRef s f i ≤ -num * (10000 * (sec : Int)))

/-- The guides of a flock: eight egress waveguides, or four transmit fibers (R20). -/
def guidesOf (f : Nat) : List Nat := List.range (if f < 12 then 8 else 4)

/-- Put or take away the spare position of a lane on guides. -/
def setCarrier (f : Nat) (gs : List Nat) (k v : Nat) (s : State) : State :=
  { s with las.sendOn := gs.foldl (fun t g => Tab.put 0 (sendKey f g k) v t) s.las.sendOn }

/-! ### Notices (R303) -/

/-- A notice word. -/
def carrierWord (t action lane j frame mask : Nat) : BitVec 64 :=
  let w : BitVec 64 := BitVec.ofNat 64 (t * 2 ^ 60 + action * 2 ^ 57 + lane * 2 ^ 52 + j * 2 ^ 50 +
    frame % 65536 * 2 ^ 34 + mask * 2 ^ 26)
  w ||| (crc8 (wordBytes w 8)).setWidth 64

/-- A word keeps its check. -/
def wordIntact (w : BitVec 64) : Bool := decide (crc8 (wordBytes w 8) = w.setWidth 8)

/-- Actions. -/
def acDuplicate : Nat := 1
def acSwitch : Nat := 2
def acPark : Nat := 3
def acReturn : Nat := 4
def acAbandon : Nat := 5

/-- A tower sends a notice twice, over the mesh, to every other tower in service. A port flock has no notices (R305).
[DEDUCED, safe: log 184] -/
def sendCarrier (f action lane j frame mask : Nat) (s : State) : State :=
  if f < 12 then
    let w := carrierWord f action lane j frame mask
    let hubs := allTowers.filter (fun d => decide (d ≠ f) && towerUp s d)
    (hubs ++ hubs).foldl (fun s d => sendMesh f d (.word w) s) { s with las.words := s.las.words ++ [(f, w), (f, w)] }
  else s

/-- A notice or report word leaves the mesh at its tower. [DEDUCED, safe: log 184] -/
def takeWord (t : Nat) (w : BitVec 64) (s : State) : State :=
  { s with pho.mesh := s.pho.mesh.eraseP (fun m => decide (m.dest = t ∧ m.load = .word w)) }

/-- A port transmits the pattern of a carrier, or the dark marker, on guides of a flock (R305): for a lane's spare position,
or back to its own wavelength. [DEDUCED, safe: log 183] -/
def sendMark (dark back : Bool) (f : Nat) (gs : List Nat) (lane j : Nat) (s : State) : State :=
  if f < 12 then s
  else { s with las.marks := s.las.marks ++ gs.map (fun g =>
    { dark := dark, back := back, port := 2 * (f - 12) + g / 2, fiber := g % 2, lane := lane, spare := j }) }

/-- The first frame whose opening is at least `margin` away. -/
def frameAhead (s : State) (margin : Nat) : Nat :=
  if s.now + margin ≤ s.frame.start + frameCycles s.frame.code then s.frame.number + 1 else s.frame.number + 2

/-- Two copies 100 ns apart, the second 200 ns before the boundary; or four periods of the pattern. -/
def noticeMargin (f : Nat) : Nat := if f < 12 then 300 else 4096

/-! ### Choosing a lamb (R302, R319) -/

/-- No spare position can be had for a channel (R311). -/
def noSpare (f g k : Nat) (s : State) : State :=
  let s := { s with las.unparked := addOnce (f, g, k) s.las.unparked }
  if f < 12 then guideDown true f g s else s

/-- A pass gives its lamb up: the lane returns at the next boundary with its old corrections. [DESIGN CHOICE, safe:
log 31] -/
def abandonPass (p : Pass) (s : State) : State :=
  let key := 32 * p.flock + p.lane
  let s := sendMark false true p.flock (guidesOf p.flock) p.lane p.lamb (sendCarrier p.flock acReturn p.lane p.lamb (frameAhead s 300) 0xFF s)
  { s with
    las.passes := changeFirst (fun q => decide (q = p)) (fun q => { q with abandoned := true }) s.las.passes
    las.lanePass := Tab.put 0 key (min (Tab.look 0 s.las.lanePass key) (s.las.passCount - 1)) s.las.lanePass }

/-- A lamb that covers a recalibration is reclaimed. -/
def reclaimRecal (f j : Nat) (s : State) : State :=
  match s.las.passes.find? (fun p => decide (p.flock = f ∧ p.lamb = j) && !p.abandoned) with
  | none => s
  | some p => abandonPass p s

/-- A parking lamb is reclaimed: with no idle lamb left, its channels have no spare. -/
def reclaimParking (f j : Nat) (s : State) : State :=
  let mine (p : Parked) : Bool := decide (p.flock = f ∧ p.lamb = j)
  let s' := { s with las.parked := s.las.parked.filter (fun p => !mine p) }
  (s.las.parked.filter mine).foldl (fun s p => noSpare f p.guide p.lane (setCarrier f [p.guide] p.lane 0 s)) s'

/-- Take a lamb for sparing (level 0), parking (1) or recalibration (2). -/
def takeLamb (f level : Nat) (s : State) : Option (Nat × State) :=
  match lambIn s f lsIdle with
  | some j => some (j, s)
  | none =>
    if level = 2 then none
    else match lambIn s f lsRecal with
    | some j => some (j, reclaimRecal f j s)
    | none =>
      if level = 1 then none
      else (lambIn s f lsParking).map (fun j => (j, reclaimParking f j s))

/-! ### Sparing (R301, R302) -/

/-- Change the sparing of a flock's lane. -/
def changeSparing (f k : Nat) (g : Sparing → Sparing) (s : State) : State :=
  { s with las.sparings := changeFirst (fun x => decide (x.flock = f ∧ x.lane = k)) g s.las.sparings }

/-- End it. -/
def dropSparing (f k : Nat) (s : State) : State :=
  { s with las.sparings := s.las.sparings.filter (fun x => !decide (x.flock = f ∧ x.lane = k)) }

/-- The lane a laser or lamb carries. -/
def laneOf (s : State) (f i : Nat) : Option Nat := if i < 32 then some i else (source s f i).lane

/-- Sparing starts; no lamb leaves the laser lit and raises event 0x4406 once for it (R307). -/
def startSparing (f i : Nat) (skip : Bool) (s : State) : State :=
  match laneOf s f i with
  | none => s
  | some k =>
    if s.las.sparings.any (fun x => decide (x.flock = f ∧ x.lane = k)) ∨ sourceState s f i = lsRetired then s
    else match takeLamb f 0 s with
    | none => if (source s f i).exhausted then s
        else raise 0x4406 (lasItems f (some i) none) (changeSource f i (fun x => { x with exhausted := true }) s)
    | some (j, s) =>
      let fast := skip || fadesFast s f i
      let s := raise 0x4402 (lasItems f (some i) none) s
      let s := setSource f i lsSparing (if i < 32 then none else some k) s
      let s := setSource f (32 + j) lsStanding none s
      { s with las.sparings := s.las.sparings ++ [{ flock := f, source := i, lamb := j, lane := k, fast := fast }] }

/-- A channel is parked no longer; a parking lamb with none left is idle. -/
def dropParked (p : Parked) (s : State) : State :=
  let s := { s with las.parked := s.las.parked.erase p }
  if s.las.parked.any (fun q => decide (q.flock = p.flock ∧ q.lamb = p.lamb)) ∨ sourceState s p.flock (32 + p.lamb) ≠ lsParking then s
  else setSource p.flock (32 + p.lamb) lsIdle none s

/-- A channel that had no spare position has a carrier again. -/
def dropUnparked (f g k : Nat) (s : State) : State :=
  if (f, g, k) ∉ s.las.unparked then s
  else
    let s := { s with las.unparked := s.las.unparked.erase (f, g, k) }
    if f < 12 ∧ !s.las.unparked.any (fun u => decide (u.1 = f ∧ u.2.1 = g)) then guideUp true f g s else s

/-- The switch-over (R302, R306): the lane is taken from the spare position, the laser is off and retired. A failing
test on the lane goes on with the new laser (R295). -/
def switchOver (x : Sparing) (s : State) : State :=
  let f := x.flock
  let s := setCarrier f (guidesOf f) x.lane (x.lamb + 1) s
  let s := setSource f x.source lsRetired none s
  let s := setSource f (32 + x.lamb) lsStanding (some x.lane) s
  let s := (s.las.parked.filter (fun p => decide (p.flock = f ∧ p.lane = x.lane))).foldl (fun s p => dropParked p s) s
  let s := (guidesOf f).foldl (fun s g => dropUnparked f g x.lane s) s
  let n := satAdd 32 s.las.switchOvers 1
  let s := reportFull 0x440006 n { s with las.switchOvers := n }
  let s := sendMark true false f (guidesOf f) x.lane x.lamb s
  let uncompared := match x.phase with
    | .pass u => u
    | _ => x.fast
  let s := raiseIf uncompared 0x4404 (lasItems f (some x.source) none) s
  let s := raise 0x4403 (lasItems f (some x.source) none) (dropSparing f x.lane s)
  if f < 12 then
    { s with lanes.links := s.lanes.links.map (fun (n, r) =>
        if 16 ≤ n ∧ pathSrc n = f ∧ x.lane ∈ r.failing then (n, { r with failing := r.failing.erase x.lane, narrow := none })
        else (n, r)) }
  else s

/-- The effect of a write to 0x4400:05 (R301). -/
def spareAct : WriteAct := fun value s =>
  let v := leNat value
  let f := nbits v 3 0
  let k := nbits v 8 4
  if nbits v 15 10 ≠ 0 then refuseRange 0
  else if sourceState s f k = lsRetired then refuseState
  else .done (startSparing f k (nbit v 9) s)

/-- SPARE_COMMAND (R301). -/
def execSpareCommand (req : Req) (value : Bytes) (s : State) : Host.Outcome State Fault Refusal :=
  .next (serveWrite req 0x440005 value spareAct s)

/-- A lamb with no valid commissioning record takes P at its first lock as P_c (R306). -/
def takeOwnPower (f i power : Nat) (s : State) : State :=
  if 32 ≤ i ∧ Config.commissioningPower (sourceKey f i) = 0 ∧ (source s f i).ownPower = none then
    changeSource f i (fun y => { y with ownPower := some power }) s
  else s

/-- LAMB_LOCKED (R302, R305): the notices go out, or the pattern. Fast sparing on a port follows the pattern with the
dark marker at once. [DEDUCED, safe: log 33] -/
def lambLocked (f j power : Nat) (s : State) : State :=
  match s.las.sparings.find? (fun x => decide (x.flock = f ∧ x.lamb = j ∧ x.phase = .tuning)) with
  | none => s
  | some x =>
    let s := takeOwnPower f (32 + j) power s
    let b1 := frameAhead s (noticeMargin f)
    let s := sendMark false false f (guidesOf f) x.lane j s
    if x.fast ∧ 12 ≤ f then switchOver x s
    else
      let action := if x.fast then acSwitch else acDuplicate
      changeSparing f x.lane (fun x => { x with phase := .armed, b1 := b1 }) (sendCarrier f action x.lane j b1 0xFF s)

def execLambLocked (flock : Fin 16) (lamb : Fin 4) (power : BitVec 16) (s : State) : Host.Outcome State Fault Refusal :=
  .next (lambLocked flock lamb power.toNat s)

/-! ### The duplicate frame (R304) -/

/-- A report word. -/
def reportWord (recv src lane compared mismatches : Nat) : BitVec 64 :=
  let w : BitVec 64 := BitVec.ofNat 64 (recv * 2 ^ 60 + src * 2 ^ 56 + lane * 2 ^ 51 + min compared 0xFFFFF * 2 ^ 31 +
    min mismatches 0x3FF * 2 ^ 21)
  w ||| (crc8 (wordBytes w 8)).setWidth 64

/-- When the frame now open ends. -/
def frameEnd (s : State) : Nat := s.frame.start + frameCycles s.frame.code

/-- COMPARE_COUNT_STOP: each hub that received slots reports. -/
def compareStop (f k : Nat) (counts : List CompareCount) (s : State) : State :=
  match s.las.sparings.find? (fun x => decide (x.flock = f ∧ x.lane = k ∧ x.phase = .duplicate)) with
  | none => s
  | some _ =>
    if 12 ≤ f then s
    else
      let words := counts.map (fun c => (c.receiver.val, reportWord c.receiver f k c.compared c.mismatches))
      let s := advanceTo (frameEnd s - 400) { s with las.words := s.las.words ++ words }
      words.foldl (fun s x => sendMesh x.1 f (.word x.2) s) s

def execCompareCountStop (flock : Fin 16) (lane : Fin 32) (counts : List CompareCount) (s : State) :
    Host.Outcome State Fault Refusal :=
  .next (compareStop flock lane counts s)

/-- COMPARE_REPORT: the source takes a report of a duplicate frame of its own. -/
def compareReport (t : Nat) (w : BitVec 64) (s : State) : State :=
  let s := takeWord t w s
  if !wordIntact w ∨ bits w 59 56 ≠ t then s
  else changeSparing t (bits w 55 51) (fun x =>
    if x.phase = .duplicate then { x with reports := x.reports ++ [(bits w 63 60, bits w 50 31, bits w 30 21)] } else x) s

def execCompareReport (tower : Tower) (word : BitVec 64) (s : State) : Host.Outcome State Fault Refusal :=
  .next (compareReport tower word s)

/-- The decision: a failure, a pass, or another duplicate frame; after 16 of them it switches anyway. -/
def decideSparing (x : Sparing) (s : State) : State :=
  let f := x.flock
  let good := x.reports.filter (fun r => decide (65536 ≤ r.2.1))
  if good.any (fun r => decide (16 < r.2.2)) then
    let s := sendCarrier f acAbandon x.lane x.lamb (x.b1 + 1) 0xFF s
    let s := raise 0x4405 (lasItems f (some x.source) none) (dropSparing f x.lane s)
    let s := setSource f (32 + x.lamb) lsRetired none s
    let back := if 32 ≤ x.source then lsStanding else if (source s f x.source).warned then lsWarned else lsIdle
    startSparing f x.source false (setSource f x.source back (if 32 ≤ x.source then some x.lane else none) s)
  else if good ≠ [] then changeSparing f x.lane (fun x => { x with phase := .pass false }) s
  else if 16 ≤ x.tries then changeSparing f x.lane (fun x => { x with phase := .pass true }) s
  else
    changeSparing f x.lane (fun x => { x with phase := .armed, b1 := x.b1 + 1, reports := [] })
      (sendCarrier f acDuplicate x.lane x.lamb (x.b1 + 1) 0xFF s)

/-- SPARE_DECISION. -/
def spareDecision (f k : Nat) (s : State) : State :=
  match s.las.sparings.find? (fun x => decide (x.flock = f ∧ x.lane = k ∧ x.phase = .duplicate)) with
  | none => s
  | some x => if 12 ≤ f then s else decideSparing x (advanceTo (frameEnd s - 250) s)

def execSpareDecision (flock : Fin 16) (lane : Fin 32) (s : State) : Host.Outcome State Fault Refusal :=
  .next (spareDecision flock lane s)

/-! ### Receivers (R303, R305) -/

/-- The key of a lane of a path at its receiver. -/
def takeKey (recv src w k : Nat) : Nat := ((12 * recv + src) * 8 + w) * 32 + k

/-- A receiver takes a notice of the action its row names. -/
def carrierNotice (action t : Nat) (w : BitVec 64) (s : State) : State :=
  let s := takeWord t w s
  let src := bits w 63 60
  let k := bits w 56 52
  if !wordIntact w ∨ bits w 59 57 ≠ action ∨ 12 ≤ src ∨ src = t then s
  else if action = acAbandon then
    { s with las.carriers := s.las.carriers.filter (fun c =>
        !(decide (c.receiver = t ∧ c.source = src ∧ c.lane = k) && c.duplicate)) }
  else
    let c : Carrier :=
      { receiver := t
        source := src
        lane := k
        carrier := if action = acReturn then 0 else bits w 51 50 + 1
        frame := (bits w 49 34 + flag (decide (action = acDuplicate))) % 65536
        mask := bits w 33 26
        duplicate := decide (action = acDuplicate) }
    let others := s.las.carriers.filter (fun d =>
      !(decide (action = acDuplicate) && d.duplicate && decide (d.receiver = t ∧ d.source = src ∧ d.lane = k)))
    { s with las.carriers := addOnce c others }

/-- NOTICE_DUPLICATE. -/
def execNoticeDuplicate (tower : Tower) (word : BitVec 64) (s : State) : Host.Outcome State Fault Refusal :=
  .next (carrierNotice acDuplicate tower word s)

/-- NOTICE_SWITCH. -/
def execNoticeSwitch (tower : Tower) (word : BitVec 64) (s : State) : Host.Outcome State Fault Refusal :=
  .next (carrierNotice acSwitch tower word s)

/-- NOTICE_PARK. -/
def execNoticePark (tower : Tower) (word : BitVec 64) (s : State) : Host.Outcome State Fault Refusal :=
  .next (carrierNotice acPark tower word s)

/-- NOTICE_RETURN. -/
def execNoticeReturn (tower : Tower) (word : BitVec 64) (s : State) : Host.Outcome State Fault Refusal :=
  .next (carrierNotice acReturn tower word s)

/-- NOTICE_ABANDON. -/
def execNoticeAbandon (tower : Tower) (word : BitVec 64) (s : State) : Host.Outcome State Fault Refusal :=
  .next (carrierNotice acAbandon tower word s)

/-- A change of carrier takes effect at a receiver. -/
def applyCarrier (c : Carrier) (s : State) : State :=
  let put (t : Tab Nat) (w : Nat) : Tab Nat := Tab.put 0 (takeKey c.receiver c.source w c.lane) c.carrier t
  { s with las.takeFrom := (maskMembers 8 c.mask).foldl put s.las.takeFrom }

/-- DARK_MARKER (R305): the receiver takes the lane from the spare detector that holds the duplicate, whatever the
comparison found; a failed one raises event 0x4405. -/
def darkMarker (p lane j compared mismatches : Nat) (s : State) : State :=
  let bad := decide (mismatches * 65536 > 16 * max compared 65536)
  let s := raiseIf bad 0x4405 [b1 (flockOfPort p), b1 (lane % 32), none, b1 (lane / 32), b1 p, b1 (baseOfPort p)] s
  { s with las.portTake := Tab.put 0 (64 * p + lane) (j + 1) s.las.portTake }

def execDarkMarker (port : Port) (lane : BitVec 6) (spare : Fin 4) (compared mismatches : Nat) (s : State) :
    Host.Outcome State Fault Refusal :=
  .next (darkMarker port lane.toNat spare compared mismatches s)

/-! ### Rings (R310, R311) -/

/-- The flock, guide and lane of a modulator ring. -/
def ringChannel : Ring → Option (Nat × Nat × Nat)
  | .modulator t w k => some (t, w, k)
  | .fiber p f k => some (flockOfPort p, 2 * (p.val % 2) + f.val, k)
  | _ => none

/-- The payload items of a ring. -/
def ringItems (r : Ring) : List (Option Bytes) := match ringChannel r with
  | some (f, g, k) => lasItems f (some k) (some g)
  | none => match r with
    | .steering a w _ _ => lasItems a none (some w)
    | .tickOutput j => lasItems 12 (some (32 + j)) none
    | _ => []

/-- A parking lamb with no channel on a guide. -/
def parkingRoom (s : State) (f g : Nat) : Option Nat :=
  [0, 1, 2, 3].find? (fun j => decide (sourceState s f (32 + j) = lsParking) &&
    !s.las.parked.any (fun p => decide (p.flock = f ∧ p.lamb = j ∧ p.guide = g)))

/-- A channel is parked (R311), or finds no spare position. On a port the pattern and the dark marker go at once.
[DEDUCED, safe: log 35] -/
def parkChannel (f g k : Nat) (s : State) : State :=
  if Tab.look 0 s.las.sendOn (sendKey f g k) ≠ 0 then s
  else
    let found := match parkingRoom s f g with
      | some j => some (j, s)
      | none => takeLamb f 1 s
    match found with
    | none => noSpare f g k s
    | some (j, s) =>
      let s := setSource f (32 + j) lsParking none s
      let b := if f < 12 then frameAhead s 300 else s.frame.number
      let s := { s with las.parked := s.las.parked ++ [{ flock := f, guide := g, lane := k, lamb := j, from_ := b }] }
      if f < 12 then sendCarrier f acPark k j b (2 ^ g) s
      else setCarrier f [g] k (j + 1) (sendMark true false f [g] k j (sendMark false false f [g] k j s))

/-- A channel returns to its own wavelength at the first boundary after relock; on a port by the pattern and the dark marker
with the carriers exchanged. -/
def unparkChannel (f g k : Nat) (s : State) : State :=
  let is (p : Parked) : Bool := decide (p.flock = f ∧ p.guide = g ∧ p.lane = k)
  let b := frameAhead s (noticeMargin f)
  let s := match s.las.parked.find? is with
    | none => s
    | some p => sendMark false true f [g] k p.lamb (sendCarrier f acReturn k p.lamb b (2 ^ g)
        { s with las.parked := changeFirst is (fun p => { p with returns := some b }) s.las.parked })
  dropUnparked f g k s

/-- A ring leaves its band. [DEDUCED, safe: log 35] -/
def ringOut (r : Ring) (s : State) : State :=
  let s := raise 0x4407 (ringItems r) (count32 0x441001 1 s)
  match r with
  | .steering a w b _ => pathService (pathLink a b w) false s
  | .tickOutput j => if sourceState s 12 (32 + j) = lsTick then askTick false s else s
  | _ => match ringChannel r with
    | some (f, g, k) => if k < 32 then parkChannel f g k s else s
    | none => s

/-- A ring relocks. A path returns when every steering ring of it is in its band. [DEDUCED, safe: log 35] -/
def ringBack (r : Ring) (s : State) : State :=
  let s := raise 0x4408 (ringItems r) s
  match r with
  | .steering a w b _ =>
    if steeringOut s a w b ∨ (link s (pathLink a b w)).state < 2 then s else pathService (pathLink a b w) true s
  | .tickOutput _ => s
  | _ => match ringChannel r with
    | some (f, g, k) => if k < 32 then unparkChannel f g k s else s
    | none => s

/-- A loop's move (R310): the heater baseline follows the temperature at 10 GHz/K, the fine tuning takes the error
within ±40 GHz. [DESIGN CHOICE, unsafe: log 34] -/
def ringMove (x : RingLoop) (error temperature : Int) : RingLoop :=
  let rise := match x.temperature with
    | none => 0
    | some t => temperature - t
  { x with
    heater := x.heater + rise * 1000
    fine := max (-40000) (min 40000 (x.fine - error))
    temperature := some temperature
    high := if 30000 < error.natAbs then x.high + 1 else 0
    low := if error.natAbs ≤ 5000 then x.low + 1 else 0 }

/-- RING_SAMPLE (R310, R311). On a port a channel that finds no spare position and is not relocked within 1 ms makes
its lane failing: event 0x4024. -/
def ringSample (r : Ring) (error temperature : Int) (s : State) : State :=
  let key := ringKey r
  let x := ringMove (ringLoop s r) error temperature
  let put (x : RingLoop) (s : State) : State := { s with las.rings := Tab.put {} key x s.las.rings }
  if !x.out ∧ 2 ≤ x.high then ringOut r (put { x with out := true, outAt := s.now } s)
  else if x.out ∧ 100 ≤ x.low then ringBack r (put { x with out := false } s)
  else
    let s := put x s
    match ringChannel r with
    | some (f, g, k) =>
      if x.out ∧ 12 ≤ f ∧ x.outAt + ms ≤ s.now ∧ (f, g, k) ∈ s.las.unparked then
        laneFailing (2 * (f - 12) + g / 2) (32 * (g % 2) + k) false { s with las.unparked := s.las.unparked.erase (f, g, k) }
      else s
    | none => s

/-- The package has a ring: an egress waveguide has steering rings for the eleven other towers (R217). -/
def ringExists : Ring → Bool
  | .steering a _ b _ => decide (a ≠ b)
  | .modulator .. | .fiber .. | .tickOutput _ => true

def execRingSample (ring : Ring) (error temperature : Int) (s : State) : Host.Outcome State Fault Refusal :=
  .next (if s.las.on ∧ ringExists ring then ringSample ring error temperature s else s)

/-- Every ring searches for its lock at a start (R312): those named do not find it. [DEDUCED, safe: log 177] -/
def searchRings (unlocked : List Ring) (s : State) : State :=
  let lost := unlocked.filter ringExists
  { s with
    las.rings := lost.foldl (fun t r => Tab.put {} (ringKey r)
      { ringLoop { s with las.rings := [] } r with out := true, outAt := s.now } t) []
    las.unlocked := lost }

/-- From the first frame lock, the channel of a modulator ring with no lock is parked; with no spare position to be had its
lane counts as failing (R312). -/
def parkUnlocked (r : Ring) (s : State) : State := match ringChannel r with
  | none => s
  | some (f, g, k) =>
    if 32 ≤ k ∨ !(ringLoop s r).out then s
    else if (parkingRoom s f g).isNone ∧ (lambIn s f lsIdle).isNone then
      let ns := if f < 12 then (allTowers.filter (fun d => decide (d ≠ f))).map (fun d => (pathLink f d g, k))
        else [(2 * (f - 12) + g / 2, 32 * (g % 2) + k)]
      ns.foldl (fun s x => laneFailing x.1 x.2 false s) s
    else parkChannel f g k s

/-- Every modulator ring that did not lock in this start. -/
def parkAllUnlocked (s : State) : State :=
  s.las.unlocked.foldl (fun s r => parkUnlocked r s) { s with las.unlocked := [] }

/-! ### Calibration (R313 to R319) -/

/-- A rational at least 1 as an FP32, rounded to nearest even. -/
def f32Ratio (num den : Nat) : BitVec 32 :=
  let e := Nat.log2 (num / den)
  let q := num * 2 ^ 23 / (den * 2 ^ e)
  let r := num * 2 ^ 23 % (den * 2 ^ e) * 2
  let q := if r > den * 2 ^ e ∨ (r = den * 2 ^ e ∧ q % 2 = 1) then q + 1 else q
  BitVec.ofNat 32 ((e + 127) * 2 ^ 23 + q - 2 ^ 23)

/-- The deviation of an RREF reading, and the reading in ohms (0x4420:03). [DEDUCED, safe: log 112] -/
def rrefOhms (d : BitVec 16) : BitVec 32 := f32Ratio (200000 + d.toInt).toNat 100

/-- A measurement of RREF (R313): outside 1,960 Ω to 2,040 Ω it is a fault, which keeps the last good scaling and ends
every pass. [DEDUCED, safe: log 112] -/
def measureRref (d : BitVec 16) (s : State) : State :=
  let s := { s with las.rref := some d }
  if 4000 < d.toInt.natAbs then
    let s := if s.las.rrefFault then s
      else raise 0x440C [none, none, none, none, none, b1 0] { s with las.rrefFault := true }
    (s.las.passes.filter (fun p => !p.abandoned)).foldl (fun s p => abandonPass p s) s
  else
    let (b1, s) := draw s
    let (b2, s) := draw s
    let (b3, s) := draw s
    { s with
      las.scaling := d
      las.rrefFault := false
      las.ratios := [b1, b2, b3] }

/-- Entries take effect. -/
def commitEntries (b : Nat) (es : List (BitVec 64)) (s : State) : State :=
  let kept := es.filter (fun e => decide (1 ≤ tapKind e ∧ tapKind e ≤ 7 ∧ tapUnit e ≠ 15))
  { s with las.corrections := kept.foldl (fun t e => Tab.put 0 (tapKey b e) e t) s.las.corrections }

/-- The unit number of a flock's towers and ports in a tap entry. -/
def flockUnits (f : Nat) : List Nat := if f < 12 then [f] else [12, 13]

/-- A lane's base die has left the lane's T_cal by more than 10 °C (R318). -/
def laneDeparted (s : State) (f k : Nat) : Bool :=
  let b := baseOfFlock f
  s.las.corrections.any (fun x => decide (x.1 / 2 ^ 24 = b ∧ tapUnit x.2 ∈ flockUnits f ∧ tapLane x.2 = k) &&
    decide (100 < (baseTemp s b - 10 * tapTemp x.2).natAbs))

/-- The periodic pass a lane takes part in (R318): the present one when it has not had it, else the next, a period after the
last one began. [DEDUCED, unsafe: log 182] -/
def joinPass (f k : Nat) (s : State) : State :=
  let key := 32 * f + k
  let s := if Tab.look 0 s.las.lanePass key < s.las.passCount then s
    else
      let s := advanceTo (s.las.passBegan + dictNat s 0x442001 * sec) s
      { s with
        las.passCount := s.las.passCount + 1
        las.passBegan := s.now }
  { s with las.lanePass := Tab.put 0 key s.las.passCount s.las.lanePass }

/-- RECAL_PASS_START (R318, R319): RREF is measured; one lane of a flock at a time goes onto a spare position; with none
to be had it is deferred. -/
def recalPass (f k : Nat) (byTemperature : Bool) (rref : BitVec 16) (es : List (BitVec 64)) (s : State) : State :=
  let due := if byTemperature then laneDeparted s f k else decide (dictNat s 0x442001 ≠ 0)
  if !due ∨ !s.las.on ∨ s.las.passes.any (fun p => decide (p.flock = f)) ∨ sourceState s f k = lsRetired then s
  else
    let s := measureRref rref (if byTemperature then s else joinPass f k s)
    if s.las.rrefFault then s
    else match takeLamb f 2 s with
    | none => s
    | some (j, s) =>
      let b := frameAhead s (noticeMargin f)
      let s := setSource f (32 + j) lsRecal (some k) s
      let s := sendCarrier f acPark k j b 0xFF (sendMark false false f (guidesOf f) k j s)
      { s with las.passes := s.las.passes ++ [{ flock := f, lane := k, lamb := j, frame := b - 1, entries := es }] }

def execRecalPassStart (flock : Fin 16) (lane : Fin 32) (byTemperature : Bool) (rref : BitVec 16)
    (entries : List (BitVec 64)) (s : State) : Host.Outcome State Fault Refusal :=
  .next (recalPass flock lane byTemperature rref entries s)

/-- A copy of a base die's record. -/
def calRecord (s : State) (b c : Nat) : CalRecord := Tab.look {} s.las.records (2 * b + c)

/-- The copy in use: the valid one with the higher sequence. -/
def calCopy (s : State) (b : Nat) : Option Nat :=
  let x := calRecord s b 0
  let y := calRecord s b 1
  if x.valid ∧ (!y.valid ∨ y.sequence < x.sequence) then some 0 else if y.valid then some 1 else none

/-- CAL_RECORD_WRITE (R317): over the other copy. A failed write leaves that copy invalid, and the record is written
again after the next pass. -/
def calWrite (b : Nat) (ok : Bool) (s : State) : State :=
  if b ∉ s.las.dirty then s
  else
    let c := if calCopy s b = some 0 then 1 else 0
    let put (r : CalRecord) (s : State) : State := { s with las.records := Tab.put {} (2 * b + c) r s.las.records }
    let s := { s with las.dirty := s.las.dirty.erase b }
    if ok then
      let last := max (calRecord s b 0).sequence (calRecord s b 1).sequence
      put { valid := true, sequence := last + 1, stamp := s.las.lastCommit, rref := s.las.rref.getD 0,
            entries := (s.las.corrections.filter (fun x => decide (x.1 / 2 ^ 24 = b))).map (·.2) }
        { s with las.onRecord := addOnce b s.las.onRecord, las.onFactory := s.las.onFactory.filter (fun x => decide (x ≠ b)) }
    else raise 0x440B [none, none, none, none, none, b1 b] (put {} s)

def execCalRecordWrite (base : Fin 4) (written : Bool) (s : State) : Host.Outcome State Fault Refusal :=
  .next (calWrite base written s)

/-- The bytes of a calibration record (R317). -/
def calBytes (b : Nat) (r : CalRecord) : Bytes :=
  let front := leBytes 4 0x4C43414C ++ leBytes 1 b ++ leBytes 1 1 ++ zeros 2 ++ leBytes 4 r.sequence ++
    leBytes 4 r.entries.length ++ leBytes 8 r.stamp.toNat ++ leBytes 2 r.rref.toNat ++ zeros 2
  let body := (r.entries.map (fun e => leBytes 8 e.toNat)).flatten
  front ++ leBytes 4 (crc32 (front ++ zeros 4 ++ body)).toNat ++ body

/-! ### The frame boundary -/

/-- One sparing at the opening of a frame. [DESIGN CHOICE, safe: log 31] -/
def sparingBoundary (x : Sparing) (s : State) : State :=
  let n := s.frame.number
  let s := if x.phase = .duplicate ∧ x.b1 + 1 = n ∧ x.flock < 12 then decideSparing x s else s
  match s.las.sparings.find? (fun y => decide (y.flock = x.flock ∧ y.lane = x.lane)) with
  | none => s
  | some x => match x.phase with
    | .armed =>
      if x.b1 ≠ n then s
      else if x.fast then switchOver x s
      else changeSparing x.flock x.lane (fun x => { x with phase := .duplicate, tries := x.tries + 1 }) s
    | .pass _ => if x.b1 + 1 = n then switchOver x s else s
    | .duplicate => if x.b1 + 1 = n ∧ 12 ≤ x.flock then switchOver x s else s
    | _ => s

/-- One parked channel. -/
def parkedBoundary (p : Parked) (s : State) : State :=
  let n := s.frame.number
  if p.returns = some n then
    dropParked p (sendMark true true p.flock [p.guide] p.lane p.lamb (setCarrier p.flock [p.guide] p.lane 0 s))
  else if p.from_ = n then setCarrier p.flock [p.guide] p.lane (p.lamb + 1) s
  else s

/-- A pass ends: the lane returns. -/
def endPass (p : Pass) (s : State) : State :=
  let s := { s with las.passes := s.las.passes.erase p }
  let s := if p.onSpare then sendMark true true p.flock (guidesOf p.flock) p.lane p.lamb (setCarrier p.flock (guidesOf p.flock) p.lane 0 s) else s
  if sourceState s p.flock (32 + p.lamb) = lsRecal then setSource p.flock (32 + p.lamb) lsIdle none s else s

/-- Sampler thresholds and steering baselines: measured in service, without the spare position (R318). [DEDUCED,
unsafe: log 182] -/
def inServiceKind (e : BitVec 64) : Bool := decide (tapKind e = 3 ∨ tapKind e = 7)

/-- One recalibration pass: the lane goes onto its spare position, the entries measured in service are committed, the lane
is told back a frame early, and the others take effect as it returns. [DEDUCED, unsafe: log 182] -/
def passBoundary (p : Pass) (s : State) : State :=
  let n := s.frame.number
  let b := baseOfFlock p.flock
  if p.abandoned then endPass p s
  else if n = p.frame + 1 then
    let s := sendMark true false p.flock (guidesOf p.flock) p.lane p.lamb (commitEntries b (p.entries.filter inServiceKind) s)
    setCarrier p.flock (guidesOf p.flock) p.lane (p.lamb + 1)
      { s with las.passes := changeFirst (fun q => decide (q = p)) (fun q => { q with onSpare := true }) s.las.passes }
  else if n + 1 = p.frame + (if frameCycles s.frame.code < 4096 then 4 else 5) then
    sendMark false true p.flock (guidesOf p.flock) p.lane p.lamb (sendCarrier p.flock acReturn p.lane p.lamb (p.frame + 5) 0xFF s)
  else if n = p.frame + 5 then
    let s := commitEntries b (p.entries.filter (fun e => !inServiceKind e)) (endPass p s)
    raise 0x440A (lasItems p.flock (some p.lane) none)
      { s with las.dirty := addOnce b s.las.dirty, las.lastCommit := packageStamp s }
  else s

/-- The estimates of a lane reach the 10⁻¹⁵ line on paths into at least two towers (R288, R301). -/
def estimatesFade (s : State) (t k : Nat) : Bool :=
  let ds := (s.lanes.eyes.filter (fun e => decide (e.1 % 64 = k ∧ 16 ≤ e.1 / 64) && decide (pathSrc (e.1 / 64) = t) &&
    decide (e.2.estimate ≤ 1500))).map (fun e => pathDst (e.1 / 64))
  decide (2 ≤ ds.eraseDups.length)

/-- A laser, or a lamb that carries a lane or the tick, meets a condition for sparing. -/
def mustSpare (s : State) (x : LaserTap) : Bool :=
  let f := x.flock.val
  let i := x.source.val
  ratioAtMost s f i (dictNat s 0x440003) || x.offGrid || (source s f i).dark ||
    (decide (f < 12) && match laneOf s f i with
      | some k => estimatesFade s f k
      | none => false)

/-- The samples that still count: the last 63, and those of the last 10 ms. -/
def keepSamples (now : Nat) (xs : List (Nat × Nat)) : List (Nat × Nat) :=
  let n := xs.length - 63
  (xs.take n).filter (fun z => decide (now ≤ z.1 + 10 * ms)) ++ xs.drop n

/-- A sample of a tap (R300, R301). -/
def takeTap (x : LaserTap) (s : State) : State :=
  let f := x.flock.val
  let i := x.source.val
  let c := sourceState s f i
  if c = lsRetired then s
  else
    let s := takeOwnPower f i x.power s
    let dark := decide (x.power * 10 < powerRef s f i)
    let s := changeSource f i (fun y => { y with samples := keepSamples s.now y.samples ++ [(s.now, x.power)], dark := dark }) s
    let carries := decide (i < 32) || decide (c = lsStanding ∨ c = lsTick)
    if carries ∧ ratioAtMost s f i (dictNat s 0x440002) ∧ !(source s f i).warned then
      let s := raise 0x4401 (lasItems f (some i) none) (changeSource f i (fun y => { y with warned := true }) s)
      if i < 32 ∧ c = lsIdle then setSource f i lsWarned none s else s
    else s

/-- A laser that has gone dark is a loss of signal on its lanes (R301): the receivers of this package find them failing,
narrowing only where no sparing is under way. A port's lanes are received elsewhere. [DEDUCED, safe: log 185] -/
def loseLight (f i : Nat) (s : State) : State :=
  match laneOf s f i with
  | none => s
  | some k =>
    if 12 ≤ f then s
    else
      let spared := s.las.sparings.any (fun x => decide (x.flock = f ∧ x.lane = k))
      (allTowers.filter (fun d => decide (d ≠ f))).foldl (fun s d =>
        (List.range 8).foldl (fun s w => laneFailing (pathLink f d w) k spared s) s) s

/-- The samples of a boundary: each is taken, then the lasers that must be spared start in order of r within their
flock (R320), and those that have gone dark lose the signal of their lanes. -/
def takeTaps (taps : List LaserTap) (s : State) : State :=
  let before := s
  let s := taps.foldl (fun s x => takeTap x s) s
  let live := taps.filter (fun x =>
    let c := sourceState s x.flock x.source
    decide (c ≠ lsRetired ∧ c ≠ lsSparing) && (decide (x.source.val < 32) || decide (c = lsStanding ∨ c = lsTick)) && mustSpare s x)
  let live := live.mergeSort (fun x y => decide (ratioTenths s x.flock x.source ≤ ratioTenths s y.flock y.source))
  let s := live.foldl (fun s x =>
    if sourceState s x.flock x.source = lsTick then askTick true s else startSparing x.flock x.source false s) s
  (taps.filter (fun x => (source s x.flock x.source).dark && !(source before x.flock x.source).dark)).foldl
    (fun s x => loseLight x.flock x.source s) s

/-- Hours lit grow with the frame that ended. -/
def addLit (n : Nat) (taps : List LaserTap) (s : State) : State :=
  taps.foldl (fun s x => if sourceState s x.flock x.source = lsRetired then s
    else changeSource x.flock x.source (fun y => { y with lit := y.lit + n }) s) s

/-- The corrections of a base die are evaluated again when its temperature has changed by 1 °C (R316). -/
def evaluateCorrections (b : Nat) (s : State) : State :=
  let t := baseTemp s b
  match Tab.look none s.las.appliedAt b with
  | some t0 => if (t - t0).natAbs < 10 then s else { s with las.appliedAt := Tab.put none b (some t) s.las.appliedAt }
  | none => { s with las.appliedAt := Tab.put none b (some t) s.las.appliedAt }

/-- What the opening of a frame does: carriers change at receivers and sources, and the taps are sampled. -/
def lasersBoundary (taps : List LaserTap) (s : State) : State :=
  let due (c : Carrier) : Bool := decide (c.frame = s.frame.number % 65536)
  let now := s.las.carriers.filter due
  let s := now.foldl (fun s c => applyCarrier c s) { s with las.carriers := s.las.carriers.filter (fun c => !due c) }
  let s := s.las.parked.foldl (fun s p => parkedBoundary p s) s
  let s := s.las.sparings.foldl (fun s x => sparingBoundary x s) s
  let s := s.las.passes.foldl (fun s p => passBoundary p s) s
  let s := if s.las.on then addLit (frameCycles s.frame.code) taps (takeTaps taps s) else s
  (List.range 4).foldl (fun s b => evaluateCorrections b s) s

/-! ### A base die (R320) -/

/-- Sparings and passes of a base die's flocks meet its reset: ABANDON; the lane stays on its carrier. -/
def lasersReset (b : Nat) (s : State) : State :=
  let mine := s.las.sparings.filter (fun x => decide (baseOfFlock x.flock = b))
  let s := mine.foldl (fun s x => sendCarrier x.flock acAbandon x.lane x.lamb (s.frame.number + 1) 0xFF
    (changeSparing x.flock x.lane (fun x => { x with phase := .base }) s)) s
  let ps := s.las.passes.filter (fun p => decide (baseOfFlock p.flock = b) && !p.abandoned)
  ps.foldl (fun s p => sendCarrier p.flock acAbandon p.lane p.lamb (s.frame.number + 1) 0xFF
    { s with las.passes := s.las.passes.erase p }) s

/-- The base die is back: its sparings start again, and a lane a pass had left on a spare returns. -/
def lasersReturn (b : Nat) (s : State) : State :=
  let s := { s with las.sparings := s.las.sparings.map (fun x =>
    if x.phase = .base ∧ baseOfFlock x.flock = b then { x with phase := .tuning, tries := 0, reports := [] } else x) }
  let fs := (List.range 16).filter (fun f => decide (baseOfFlock f = b))
  fs.foldl (fun s f => [0, 1, 2, 3].foldl (fun s j =>
    match (source s f (32 + j)).lane with
    | some k =>
      if sourceState s f (32 + j) = lsRecal then
        setSource f (32 + j) lsIdle none
          (sendCarrier f acReturn k j (frameAhead s 300) 0xFF (setCarrier f (guidesOf f) k 0 s))
      else s
    | none => s) s) s

/-- The laser table 0x4400:01. -/
def laserTable (s : State) : Bytes :=
  ((List.range 16).map (fun f => ((List.range 36).map (fun i =>
    let x := source s f i
    let own := decide (Config.commissioningPower (sourceKey f i) = 0) && x.ownPower.isSome
    leBytes 2 (powerRef s f i) ++ leBytes 2 (ratioTenths s f i) ++ leBytes 1 (sourceState s f i + 128 * flag own) ++
      leBytes 1 (x.lane.getD (if i < 32 ∧ sourceState s f i ≠ lsRetired then i else 0x3F)) ++
      leBytes 2 (min 0xFFFF (x.lit / (3600 * sec))))).flatten)).flatten

end Sys2Proof.Machine
end

