-- ==== Sys2Proof/Machine/Units.lean ====
section
/-! DEFINITION. Requests in flight when a unit goes away, and units that go out of service (R24, R338, R340, R537,
R594). -/

namespace Sys2Proof.Machine

/-! ### Requests in flight -/

/-- A descriptor that waits: engine, position and descriptor. -/
structure Flight where
  key : Nat
  pos : Nat
  desc : Desc

/-- Every descriptor that waits. -/
def flights (s : State) : List Flight :=
  (s.dma.queues.flatMap (fun q => q.2.zipIdx.map (fun (d, i) => ({ key := q.1, pos := i, desc := d } : Flight)))).filter
    (fun x => decide (x.desc.wait ≠ .none))

/-- The tower of an engine. -/
def Flight.tower (x : Flight) : Nat := x.key / 16

/-- What a descriptor has in flight, or has been stopped at, is a read. -/
def readsNext (d : Desc) : Bool := d.reading

/-- An open packet's tag is free again after 2 ms. -/
def freeOpenTag (t : Nat) (tag : BitVec 16) (s : State) : State :=
  skipTag (192 + t) tag { s with
    pho.outstanding := s.pho.outstanding.filter (fun o => !decide (o.1 = t ∧ o.2.1 = tag)) }

/-- What a descriptor in flight has outstanding is forgotten: an open packet, a fill or a host read. -/
def forgetFlight (x : Flight) (s : State) : State :=
  let t := x.tower
  match x.desc.wait with
  | .openTag tag | .table tag _ _ _ => freeOpenTag t tag s
  | .fill tag => freeOpenTag t tag { s with dma.fills := s.dma.fills.filter (fun f => !decide (f.tower = t ∧ f.tag = tag)) }
  | .host tag => { s with host.reads := s.host.reads.filter (fun r => decide (r.tag ≠ tag)) }
  | _ => s

/-- It ends with a code; the outcome of a write or an atomic is not known. -/
def endFlight (x : Flight) (code : Nat) (s : State) : State :=
  let unknown := !readsNext x.desc && decide (code = ccPathReset)
  finishDesc x.key x.pos code (changeDesc x.key x.pos (fun d => { d with unknown := d.unknown || unknown }) (forgetFlight x s))

/-- The tower a request in flight is addressed to. -/
def flightTarget (x : Flight) : Option Nat := match x.desc.wait with
  | .openTag _ | .table _ _ _ _ | .fill _ => placeTower x.desc.place
  | _ => none

/-- Work every engine that has descriptors. -/
def pumpAll (s : State) : State := (s.dma.queues.map (·.1)).foldl (fun s k => pump k s) s

/-- The packets on their way from or to some towers are lost (R340). -/
def losePackets (ts : List Nat) (s : State) : State :=
  let gone (a b : Nat) : Bool := decide (a ∈ ts) || decide (b ∈ ts)
  loseShares ts { s with
    pho.held := s.pho.held.filter (fun h => decide (h.1 / 12 ∉ ts) && decide (h.1 % 12 ∉ ts))
    pho.mesh := s.pho.mesh.filter (fun m => !gone m.source m.dest)
    pho.rides := s.pho.rides.filter (fun m => !gone m.source m.dest)
    pho.slots := s.pho.slots.filter (fun x => !gone x.source x.dest)
    pho.launches := s.pho.launches.filter (fun x => !gone x.source x.dest)
    pho.owed := s.pho.owed.filter (fun x => !gone x.source x.dest)
    pho.inbox := s.pho.inbox.filter (fun m => decide (m.1 ∉ ts) && decide (oTower m.2.header ∉ ts)) }

/-! ### Units out of service (R537) -/

/-- Every unit of a base die (R24). -/
def unitsOfBase (b : Nat) : List PkgUnit :=
  (List.finRange 4).filterMap (fun x => if x.val = b then some (.base x) else none) ++
    (List.finRange 12).filterMap (fun x => if baseOfTower x.val = b then some (.tower x) else none) ++
    (List.finRange 16).filterMap (fun x => if baseOfFlock x.val = b then some (.flock x) else none) ++
    (List.finRange 8).filterMap (fun x => if baseOfPort x.val = b then some (.port x) else none) ++ (if b = 0 then [.tw] else [])

/-- The tower as a unit. -/
def towerUnit (t : Nat) : List PkgUnit := (List.finRange 12).filterMap (fun x => if x.val = t then some (.tower x) else none)

/-- The flock as a unit. -/
def flockUnit (f : Nat) : List PkgUnit := (List.finRange 16).filterMap (fun x => if x.val = f then some (.flock x) else none)

/-- The requests of other towers to a tower that is out of service complete with TARGET_DEAD (R158, R333, R594). -/
def deadTowers (ts : List Nat) (s : State) : State :=
  let hit (x : Flight) : Bool := match flightTarget x with
    | some u => decide (u ∈ ts)
    | none => false
  pumpAll (((flights s).filter hit).foldl (fun s x => endFlight x ccTargetDead s) (losePackets ts s))

/-- Units go out of service until the next start: their links go down, and requests to their towers end. -/
def keepOut (us : List PkgUnit) (s : State) : State :=
  let us := us.filter (fun u => u ∉ s.start.kept)
  let ts := allTowers.filter (fun t => us.any (fun u => match u with | .tower n => decide (n.val = t) | _ => false))
  let links := us.filterMap (fun u => match u with
    | .port n => some n.val
    | .tw => some 8
    | _ => none)
  let s := { dropUnits us s with start.kept := s.start.kept ++ us }
  let s := links.foldl (fun s n => if (link s n).state = 0 then s else linkDown n s) s
  if ts = [] then s else deadTowers ts s

end Sys2Proof.Machine
end

