-- ==== Sys2Proof/Machine/Bundles.lean ====
section
/-! DEFINITION. The vertical bundles, die discovery and base-die resets (R323 to R343, R376, R594). -/

namespace Sys2Proof.Machine

/-! ### Lanes of a bundle (R325, R329) -/

/-- The payload items of R345: tower, bundle, lane, base die, cause. [DESIGN CHOICE, safe: log 127] -/
def verItems (t n lane b cause : Option Nat) : List (Option Bytes) :=
  [t.bind b1, n.bind b1, lane.bind b1, b.bind b1, cause.bind b1]

/-- A control bundle. -/
def isControl (n : Nat) : Bool := decide (n = 0x22 ∨ n = 0x23)

/-- The lanes in the order in which assembly gave them their roles. [DESIGN CHOICE, safe: log 24] -/
def rankedLanes (key : Nat) : List Nat :=
  (List.range 68).mergeSort (fun a b => decide (Config.laneRank key a < Config.laneRank key b ∨
    (Config.laneRank key a = Config.laneRank key b ∧ a ≤ b)))

/-- Put a lane in the place of another. -/
def putLane (xs : List Nat) (old new : Nat) : List Nat := xs.map (fun x => if x = old then new else x)

/-- The role of a lane passes to the lowest-numbered spare lane; a spare lane only leaves the pool. -/
def passRole (x : Bundle) (l : Nat) : Bundle :=
  if l ∈ x.spare then { x with spare := x.spare.erase l }
  else match leastOf x.spare with
    | none => x
    | some m => { x with
        data := putLane x.data l m
        control := putLane x.control l m
        test := putLane x.test l m
        spare := x.spare.erase m }

/-- A test lane takes a failed lane's place as data. [DEDUCED, safe: log 25] -/
def borrowLane (bad : List Nat) (x : Bundle) (l : Nat) : Bundle :=
  if l ∈ x.data ∨ l ∈ x.control then
    match leastOf (x.test.filter (fun m => decide (m ∉ bad))) with
    | none => x
    | some m => { x with
        data := putLane x.data l m
        control := putLane x.control l m
        test := x.test.erase m
        borrowed := x.borrowed ++ [m] }
  else x

/-- The bundle as assembly left it: the failed lanes' roles have passed on. [DESIGN CHOICE, safe: log 24] -/
def assembledBundle (key : Nat) : Bundle :=
  let ls := rankedLanes key
  let x : Bundle := { data := ls.take 60, control := (ls.drop 60).take 2, test := (ls.drop 62).take 2, spare := ls.drop 64 }
  (Config.fusedFailedLanes key).foldl passRole x

/-- The lanes of a half: 0 lower, 1 upper. -/
def inHalf (h l : Nat) : Bool := decide (l / 34 = h)

/-- The half a bundle can run on: one that holds enough good lanes, the lower when both do. -/
def halfFor (n : Nat) (good : List Nat) : Option Nat :=
  [0, 1].find? (fun h => decide ((if isControl n then 34 else 32) ≤ (good.filter (inHalf h)).length))

/-- Roles at half width: the good lanes of the half, in their order. -/
def halveBundle (key n h : Nat) (good : List Nat) (x : Bundle) : Bundle :=
  let ls := (rankedLanes key).filter (fun l => inHalf h l && decide (l ∈ good))
  let k := if isControl n then 2 else 0
  { x with
    mode := h + 1
    data := ls.take 30
    control := (ls.drop 30).take 2
    test := (ls.drop 32).take k
    spare := ls.drop (32 + k)
    borrowed := [] }

/-- Lanes fused as failed, failed at this start or failed in service are not good. -/
def goodLanes (key : Nat) (x : Bundle) : List Nat :=
  (List.range 68).filter (fun l => decide (l ∉ Config.fusedFailedLanes key ∧ l ∉ x.startFailed ∧ l ∉ x.serviceFailed))

/-- A bundle with no lane in use. -/
def emptyBundle (x : Bundle) : Bundle := { x with mode := 0, data := [], control := [], test := [], spare := [], borrowed := [] }

/-- The lanes of a bundle are chosen (R329), from the lanes whose training showed an error. [DEDUCED, safe: log 25] -/
def chooseBundle (key n : Nat) (errors : List Nat) : Bundle :=
  let x : Bundle := { assembledBundle key with chosen := true, startFailed := errors }
  let good := goodLanes key x
  let bad := (List.range 68).filter (fun l => decide (l ∈ errors ∧ l ∉ Config.fusedFailedLanes key))
  if 64 ≤ good.length then { bad.foldl passRole x with mode := 3 }
  else if 62 ≤ good.length ∧ !isControl n then
    let y := bad.foldl passRole x
    let y := bad.foldl (borrowLane bad) y
    { y with mode := 3, test := [], spare := y.spare ++ y.test.filter (fun m => decide (m ∉ bad)) }
  else match halfFor n good with
    | some h => halveBundle key n h good x
    | none => emptyBundle x

/-- The code of a lane in 0x4800:01. -/
def laneCode (key : Nat) (x : Bundle) (l : Nat) : Nat :=
  if l ∈ Config.fusedFailedLanes key then 4
  else if l ∈ x.startFailed then 5
  else if l ∈ x.serviceFailed then 6
  else if l ∈ x.borrowed then 8
  else if l ∈ x.data then 0
  else if l ∈ x.control then 1
  else if l ∈ x.test then 2
  else if l ∈ x.spare then 3
  else 7

/-- A record of 0x4800:01. -/
def bundleRecord (key : Nat) (x : Bundle) : Bytes :=
  (List.range 34).map (fun i => BitVec.ofNat 8 (laneCode key x (2 * i) + 16 * laneCode key x (2 * i + 1))) ++
    leBytes 1 x.mode ++ leBytes 1 x.spare.length

/-- 0x4800:01; zero before the first start has built it. [DEDUCED, safe: log 60] -/
def bundleMaps (s : State) : Bytes :=
  ((List.range 432).map (fun key =>
    let x := Tab.look {} s.ver.bundles key
    if x.chosen then bundleRecord key x else zeros 36)).flatten

/-- What a down bundle does (R333); a trunk link with both its bundles down carries nothing (R347). -/
def bundleDown (t n : Nat) (s : State) : State :=
  if 12 ≤ t then s
  else if n < 16 then guideDown true t (n / 2) s
  else if n < 32 then guideDown false t ((n - 16) / 2) s
  else if isControl n then keepOut (towerUnit t) s
  else s

/-- A tower is kept out by step 4 of a start (R333, R537): event 0x7006. -/
def holdTower (t : Nat) (s : State) : State :=
  (towerUnit t).foldl (fun s u => raiseIf (u ∉ s.start.kept) 0x7006 [b1 4, bUnit u, none, none] s) s

/-- The lanes of a tower's bundle are chosen at a start: test lanes borrowed raise event 0x4807, and a bundle at half
width or down raises 0x4802 or 0x4803. A control bundle that is down keeps its tower out. -/
def startBundle (t n : Nat) (errors : List Nat) (s : State) : State :=
  let x := chooseBundle (36 * t + n) n errors
  let items := verItems (some t) (some n) none none none
  let s := changeBundle t n (fun _ => x) s
  let s := raiseIf (x.borrowed ≠ []) 0x4807 items s
  let s := raiseIf (x.mode = 1 ∨ x.mode = 2) 0x4802 items s
  if x.mode = 0 then
    let s := raise 0x4803 items s
    bundleDown t n (if isControl n then holdTower t s else s)
  else s

/-! ### Groups (R326, R327, R330) -/

/-- A lane in use, or of the spare pool, is found failing (R330): event 0x4801. -/
def bundleLaneFails (t n l : Nat) (s : State) : State :=
  let x := bundle s t n
  let used := decide (l ∈ x.data ∨ l ∈ x.control ∨ l ∈ x.test)
  if l ∈ x.serviceFailed ∨ !(used || decide (l ∈ x.spare)) then s
  else
    raise 0x4801 (verItems (some t) (some n) (some l) none none) (changeBundle t n (fun x => { x with
      serviceFailed := x.serviceFailed ++ [l]
      failing := if used then x.failing ++ [l] else x.failing
      spare := x.spare.erase l }) s)

/-- A header's parities are held against the group before: a lane that fails in 8 of any 256 groups is failing.
[DEDUCED, safe: log 26] -/
def checkParity (t n h : Nat) (s : State) : State :=
  let x := bundle s t n
  let wrong := (List.range x.data.length).filter (fun i => nbit h i != nbit x.lastParity i)
  let fails := (x.parityFails ++ wrong.map (fun i => (x.data.getD i 0, x.groups))).filter (fun f => decide (x.groups < f.2 + 256))
  let s := changeBundle t n (fun x => { x with parityFails := fails }) s
  (wrong.map (fun i => x.data.getD i 0)).foldl (fun s l =>
    if 8 ≤ (fails.filter (fun f => decide (f.1 = l))).length then bundleLaneFails t n l s else s) s

/-- GROUP_RECEIVED (R326, R327): a group that fails its CRC is discarded and not acknowledged; groups are delivered in
sequence. [DEDUCED, safe: log 26] -/
def groupReceived (t n : Nat) (g : Bytes) (s : State) : State :=
  let x := bundle s t n
  if !bundleRuns s t n ∨ g.length ≠ 540 then s
  else
    let note (s : State) : State := changeBundle t n
      (fun x => { x with groups := x.groups + 1, lastParity := groupParity x.data.length g }) s
    if crc32 (g.take 0x218) ≠ BitVec.ofNat 32 (fieldAt g 0x218 4) then note s
    else
      let h := fieldAt g 0 8
      let s := if x.groups = 0 then s else checkParity t n h s
      let s := note s
      let ack := fieldAt g 0x0A 2
      let s := if nbit ack 15 then ackGroups t (reverseBundle t n) (ack % 1024) s else s
      if fieldAt g 8 2 % 1024 ≠ x.expected then s
      else
        let s := changeBundle t n (fun y => { y with expected := (x.expected + 1) % 1024, got := true }) s
        if h / 2 ^ 60 = 1 then { s with ver.delivered := s.ver.delivered ++ [(36 * t + n, slice g 0x18 512)] } else s

def execGroupReceived (tower : BundleSide) (bundle : Fin 36) (group : Bytes) (s : State) : Host.Outcome State Fault Refusal :=
  .next (groupReceived tower bundle group s)

/-- GROUP_REPLAY_TIMER (R327): the oldest unacknowledged group has waited 200 ns, and the groups from it on are sent
again. -/
def groupReplay (t n : Nat) (s : State) : State :=
  let x := bundle s t n
  match x.unacked with
  | [] => s
  | g :: _ =>
    if !bundleRuns s t n then s
    else
      let s := advanceTo (g.sentAt + 200) s
      count64 0x480003 x.unacked.length
        (changeBundle t n (fun x => { x with unacked := x.unacked.map (fun g => { g with sentAt := s.now }) }) s)

def execGroupReplayTimer (tower : BundleSide) (bundle : Fin 36) (s : State) : Host.Outcome State Fault Refusal :=
  .next (groupReplay tower bundle s)

/-- LANE_NO_TRANSITION (R330). -/
def noTransition (t n l : Nat) (s : State) : State :=
  if bundleRuns s t n ∧ l ∉ (bundle s t n).spare then bundleLaneFails t n l s else s

def execLaneNoTransition (tower : BundleSide) (bundle : Fin 36) (lane : Fin 68) (s : State) : Host.Outcome State Fault Refusal :=
  .next (noTransition tower bundle lane s)

/-- SPARE_POOL_PRBS_INTERVAL (R330): errors in 4 of any 64 consecutive intervals. -/
def prbsInterval (t n l : Nat) (errored : Bool) (s : State) : State :=
  let x := bundle s t n
  if !bundleRuns s t n ∨ l ∉ x.spare then s
  else
    let i := Tab.look 0 x.prbsCount l
    let fails := (x.prbsFails ++ (if errored then [(l, i)] else [])).filter (fun f => decide (f.1 ≠ l ∨ i < f.2 + 64))
    let s := changeBundle t n (fun x => { x with prbsCount := Tab.put 0 l (i + 1) x.prbsCount, prbsFails := fails }) s
    if 4 ≤ (fails.filter (fun f => decide (f.1 = l))).length then bundleLaneFails t n l s else s

def execSparePoolPrbsInterval (tower : BundleSide) (bundle : Fin 36) (lane : Fin 68) (errored : Bool) (s : State) :
    Host.Outcome State Fault Refusal :=
  .next (prbsInterval tower bundle lane errored s)

/-- One failing lane at a frame boundary (R331, R332): repaired, or the bundle drops to half width or goes down. -/
def repairLane (t n l : Nat) (s : State) : State :=
  let key := 36 * t + n
  let x := bundle s t n
  if !decide (l ∈ x.data ∨ l ∈ x.control ∨ l ∈ x.test) then s
  else if x.spare ≠ [] then count32 0x480002 1 (changeBundle t n (fun x => passRole x l) s)
  else match (if x.mode = 3 then halfFor n (goodLanes key x) else none) with
    | some h => raise 0x4802 (verItems (some t) (some n) (some l) none none)
        (changeBundle t n (fun x => halveBundle key n h (goodLanes key x) x) s)
    | none => bundleDown t n (raise 0x4803 (verItems (some t) (some n) (some l) none none) (changeBundle t n emptyBundle s))

/-- A frame boundary handles the failing lanes of every bundle, rising. -/
def bundlesBoundary (s : State) : State :=
  (s.ver.bundles.filter (fun e => decide (e.2.failing ≠ []))).foldl (fun s (key, x) =>
    let s := (x.failing.mergeSort).foldl (fun s l => repairLane (key / 36) (key % 36) l s) s
    changeBundle (key / 36) (key % 36) (fun x => { x with failing := [] }) s) s

/-! ### Discovery (R334 to R336) -/

/-- The record at a place. -/
def dieRecord (level b place : Nat) : Option Nat :=
  (List.range 128).find? (fun r => decide (diePlace r = (level, b, place)))

/-- A discovery message (R335). One of a die names its place as the base die's message did. -/
def discoveryMessage (kind r seq : Nat) (identity : BitVec 64) : BitVec 128 :=
  let (level, b, place) := diePlace r
  let body := leBytes 1 kind ++ leBytes 1 (level + 16 * b) ++ leBytes 1 place ++ leBytes 1 seq ++ leBytes 8 identity.toNat ++ zeros 2
  BitVec.ofNat 128 (leNat (body ++ leBytes 2 (crc16 body).toNat))

/-- Fields of a message. -/
def dmKind (m : BitVec 128) : Nat := bits m 7 0
def dmSequence (m : BitVec 128) : Nat := bits m 31 24
def dmIdentity (m : BitVec 128) : BitVec 64 := BitVec.ofNat 64 (bits m 95 32)
def dmLevel (m : BitVec 128) : Nat := bits m 11 8
def dmIntact (m : BitVec 128) : Bool := decide (crc16 (leBytes 14 m.toNat) = BitVec.ofNat 16 (bits m 127 112))

/-- The message that a die sends up its tower: one level lower, with its check. -/
def passUp (m : BitVec 128) : BitVec 128 :=
  let m := m - BitVec.ofNat 128 (2 ^ 8)
  BitVec.ofNat 128 (m.toNat % 2 ^ 112 + (crc16 (leBytes 14 m.toNat)).toNat * 2 ^ 112)

/-- The die, by its place above the base die, that takes a message from below as its own (R335). [DEDUCED, safe: log
198] -/
def climb : Nat → Nat → BitVec 128 → Option Nat
  | 0, _, _ => none
  | k + 1, h, m => if dmLevel m = 1 then some h else climb k (h + 1) (passUp m)

/-- The die record a message of the base die reaches: its own, one of the end-strip bus, or a die of a tower (R335). -/
def dmRecord (m : BitVec 128) : Option Nat :=
  let at_ (level : Nat) : Option Nat := dieRecord level (bits m 15 12) (bits m 23 16)
  if dmLevel m = 0 ∨ dmLevel m = 0xA then at_ (dmLevel m) else (climb 9 1 m).bind at_

/-- The fields a REPLY carries: the kind, and bits [47:0]. -/
def identityKey (w : BitVec 64) : BitVec 64 := BitVec.ofNat 64 (bits w 63 60 * 2 ^ 60 + bits w 47 0)

/-- What discovery holds of a record. -/
def discovery (s : State) (r : Nat) : Discovery := Tab.look {} s.ver.discovery r

/-- Change it. -/
def changeDiscovery (r : Nat) (f : Discovery → Discovery) (s : State) : State :=
  { s with ver.discovery := Tab.change {} r f s.ver.discovery }

/-- Send a message. [DESIGN CHOICE, safe: log 7] -/
def sendDiscovery (kind r seq : Nat) (identity : BitVec 64) (s : State) : State :=
  { s with ver.sent := s.ver.sent ++ [discoveryMessage kind r seq identity] }

/-- The Mule sends PROBE to a place. -/
def sendProbe (r : Nat) (s : State) : State :=
  let q := (s.ver.probeSequence + 1) % 256
  let s := { s with ver.probeSequence := q }
  changeDiscovery r (fun d => { d with probes := d.probes + 1, sentAt := s.now }) (sendDiscovery 1 r q 0 s)

/-- The records of a base die's towers and flocks. -/
def recordsOn (b : Nat) : List Nat := (List.range 128).filter (fun r => decide (4 ≤ r ∧ (diePlace r).2.1 = b))

/-- Discovery of base dies begins: what was named of them is forgotten, and the first is probed. -/
def beginDiscovery (bs : List Nat) (s : State) : State :=
  let mine (r : Nat) : Bool := decide ((diePlace r).2.1 ∈ bs)
  let s := { s with
    ver.discovery := s.ver.discovery.filter (fun d => !mine d.1)
    ver.named := s.ver.named.filter (fun r => !mine r) }
  match bs with
  | [] => s
  | b :: _ => sendProbe b s

/-- The units a die record concerns. -/
def recordUnits (r : Nat) : List PkgUnit :=
  if r < 4 then unitsOfBase r else if r < 112 then towerUnit ((r - 4) / 9) else flockUnit (r - 112)

/-- The base dies are named along a chain: the next one follows at a start (R334). [PRESUMED, unsafe: log 28] -/
def nextBase (b : Nat) (s : State) : State :=
  if s.start.step = 3 ∧ b < 3 ∧ (discovery s (b + 1)).probes = 0 then sendProbe (b + 1) s else s

/-- Discovery of a record fails (R336): event 0x4806, its unit stays out of service for the current start. [PRESUMED,
unsafe: log 28] -/
def discoveryFails (r : Nat) (s : State) : State :=
  let (_, b, _) := diePlace r
  let s := changeDiscovery r (fun d => { d with failed := true }) s
  let s := raise 0x4806 (verItems (if 4 ≤ r ∧ r < 112 then some ((r - 4) / 9) else none) none none (some b) none) s
  let s := keepOut (recordUnits r) s
  if r < 4 then nextBase r s else s

/-- PROBE (R335): the die at the place answers with its own kind and identity. -/
def probe (m : BitVec 128) (identity : BitVec 64) (s : State) : State :=
  match dmRecord m with
  | none => s
  | some r => if dmIntact m ∧ dmKind m = 1 then sendDiscovery 2 r (dmSequence m) (identityKey identity) s else s

def execProbe (message : BitVec 128) (identity : BitVec 64) (s : State) : Host.Outcome State Fault Refusal :=
  .next (probe message identity s)

/-- REPLY (R336): the Mule holds it against the record of the place. -/
def reply (m : BitVec 128) (s : State) : State :=
  match dmRecord m with
  | none => s
  | some r =>
    let d := discovery s r
    if !dmIntact m ∨ dmKind m ≠ 2 ∨ d.probes = 0 ∨ d.replied ∨ d.failed then s
    else if dmIdentity m = identityKey (dieIdentity r) then
      sendDiscovery 3 r (dmSequence m) (dieIdentity r) (changeDiscovery r (fun d => { d with replied := true }) s)
    else discoveryFails r s

def execReply (message : BitVec 128) (s : State) : Host.Outcome State Fault Refusal := .next (reply message s)

/-- ASSIGN (R336): the die stores its record and answers. -/
def assign (m : BitVec 128) (s : State) : State :=
  match dmRecord m with
  | none => s
  | some r =>
    if dmIntact m ∧ dmKind m = 3 then
      sendDiscovery 4 r (dmSequence m) (dmIdentity m) { s with ver.identities := Tab.put 0 r (dmIdentity m) s.ver.identities }
    else s

def execAssign (message : BitVec 128) (s : State) : Host.Outcome State Fault Refusal := .next (assign message s)

/-- ASSIGNED (R334, R336): the die is named; a base die then names the dies of its towers and its flocks. -/
def assigned (m : BitVec 128) (s : State) : State :=
  match dmRecord m with
  | none => s
  | some r =>
    let d := discovery s r
    if !dmIntact m ∨ dmKind m ≠ 4 ∨ !d.replied ∨ d.failed ∨ d.assigned then s
    else
      let s := changeDiscovery r (fun d => { d with assigned := true }) { s with ver.named := addOnce r s.ver.named }
      if r < 4 then nextBase r ((recordsOn r).foldl (fun s r => sendProbe r s) s) else s

def execAssigned (message : BitVec 128) (s : State) : Host.Outcome State Fault Refusal := .next (assigned message s)

/-- DISCOVERY_TIMEOUT (R336): 50 µs after a PROBE with no REPLY; after the third the record has failed. -/
def discoveryTimeout (r : Nat) (s : State) : State :=
  let d := discovery s r
  if d.probes = 0 ∨ d.replied ∨ d.failed then s
  else
    let s := advanceTo (d.sentAt + 50 * us) s
    if 3 ≤ d.probes then discoveryFails r s else sendProbe r s

def execDiscoveryTimeout (record : Fin 128) (s : State) : Host.Outcome State Fault Refusal := .next (discoveryTimeout record s)

/-- Every die of a unit has been named. -/
def unitNamed (s : State) (r0 n : Nat) : Bool := ((List.range n).map (r0 + ·)).all (fun r => decide (r ∈ s.ver.named))

/-- 0x4800:08. -/
def namedBytes (s : State) : Bytes := leBytes 16 (maskOf 128 (fun r => decide (r ∈ s.ver.named)))

/-! ### Base-die resets (R337 to R343) -/

/-- Change a base die. -/
def changeBase (b : Nat) (f : BaseDieState → BaseDieState) (s : State) : State :=
  { s with ver.bases := Tab.change {} b f s.ver.bases }

/-- The towers of a base die. -/
def towersOn (b : Nat) : List Nat := allTowers.filter (fun t => decide (baseOfTower t = b))

/-- A request in flight passes through Bk (R338). -/
def through (s : State) (b : Nat) (x : Flight) : Bool :=
  let t := x.tower
  match x.desc.wait with
  | .openTag _ | .table _ _ _ _ | .fill _ => decide (b ∈ lineBases s t ((flightTarget x).getD t))
  | .host _ => decide (b ∈ hostBases t)
  | .fabric tag =>
    match s.fab.outstanding.find? (requestIs t (x.key % 16) tag) with
    | none => false
    | some o => decide (b ∈ rackBases s t o.target)
  | _ => false

/-- A run on a base die's towers is SAVING or RESTORING. -/
def savingOn (s : State) (b : Nat) : List Run :=
  s.parts.runs.filter (fun r => decide (r.state = .saving ∨ r.state = .restoring) &&
    (towersOf s r.partition).any (fun t => decide (baseOfTower t = b)))

/-- One request in flight meets the reset (R340, R376): a read is withdrawn; a write or an atomic ends with
PATH_RESET; rack reads and atomics wait for their timers. [DESIGN CHOICE, unsafe: log 27] -/
def resetFlight (b : Nat) (x : Flight) (s : State) : State :=
  match x.desc.wait with
  | .fabric tag =>
    match s.fab.outstanding.find? (requestIs x.tower (x.key % 16) tag) with
    | none => s
    | some o =>
      if (readHeader o.packet.header).kind = fkWrite then endWithout o ccPathReset s
      else changeRequest o (fun o => { o with phase := .lost }) s
  | _ =>
    if readsNext x.desc then waitFor x.key x.pos (.base b) (forgetFlight x s)
    else endFlight x ccPathReset s

/-- Incoming writes past the port switch toward a tower of Bk complete with PATH_RESET (R376). -/
def resetIncoming (ts : List Nat) (s : State) : State :=
  let mine (v : Inval) : Bool := decide (v.home ∈ ts)
  let owed := (s.dma.invals.filter mine).flatMap (fun v => v.owedFabric.map (fun o => (o.1, v.home)))
  let s := { s with dma.invals := s.dma.invals.map (fun v => if mine v then { v with owedFabric := [], owedOpen := [] } else v) }
  owed.foldl (fun s (h, t) => respond (readHeader h) ccPathReset [] false t s) s

/-- What a reset of Bk does to the rack fabric (R376): its port switch, its combiners, its quarter of the reply cache. -/
def resetPorts (b : Nat) (s : State) : State :=
  let mine (p : Nat) : Bool := decide (baseOfPort p = b)
  let s := { s with
    fab.held := s.fab.held.filter (fun h => !mine h.port)
    fab.entries := s.fab.entries.filter (fun e => !mine e.port)
    fab.ready := s.fab.ready.filter (fun e => !mine e.port)
    fab.replies := s.fab.replies.filter (fun r => decide (replyQuarter r.source r.sequence ≠ b))
    fab.cleared := Tab.put 0 b s.now s.fab.cleared }
  [2 * b, 2 * b + 1].foldl (fun s p => if (link s p).state = 0 then s else linkDown p s) s

/-- The mesh links that end on Bk: within its column, to the columns beside it, and to the service node. -/
def meshOf (b : Nat) : List Nat :=
  [2 * b, 2 * b + 1] ++ (if 0 < b then (List.range 3).map (fun r => 8 + 3 * r + b - 1) else []) ++
    (if b < 3 then (List.range 3).map (fun r => 8 + 3 * r + b) else []) ++ (if b = 0 then [17] else [])

/-- A path into or from a tower of a list. -/
def pathOf (ts : List Nat) (n : Nat) : Bool := decide (16 ≤ n) && (decide (pathSrc n ∈ ts) || decide (pathDst n ∈ ts))

/-- The photonic layer, the Sheepdogs, the routers, the bundle ends and the tick receivers of Bk are cleared (R238,
R337). -/
def resetLayer (b : Nat) (s : State) : State :=
  let ts := towersOn b
  let s := losePackets ts (resetArbitration ts s)
  let s := { s with
    pho.pathOn := s.pho.pathOn.filter (fun x => !pathOf ts x.1)
    pho.meshDown := s.pho.meshDown ++ (meshOf b).filter (fun n => decide (n ∉ s.pho.meshDown))
    lanes.links := s.lanes.links.filter (fun x => !pathOf ts x.1)
    lanes.tx := s.lanes.tx.filter (fun x => !pathOf ts x.1)
    lanes.rx := s.lanes.rx.filter (fun x => !pathOf ts x.1)
    ver.bundles := s.ver.bundles.map (fun x => if x.1 / 36 ∈ ts ∨ (432 ≤ x.1 ∧ ((x.1 - 432) / 4 = b ∨ (x.1 - 432) / 4 + 1 = b)) then (x.1, { x.2 with groups := 0, lastParity := 0, expected := 0, got := false, next := 0, sentParity := 0, queue := [], unacked := [] }) else x) }
  ts.foldl (fun s t =>
    let s := changeReceiver t (fun r => { r with locked := false, lost := true, good := 0, missed := 0 }) s
    if scrubbing s t then startScrub t s else s) s

/-- The reset of Bk is asserted: the log, event 0x4804, and every request through it is resolved. [DESIGN CHOICE,
unsafe: log 27] -/
def assertReset (b cause : Nat) (s : State) : State :=
  let hit := (flights s).filter (through s b)
  let saving := savingOn s b
  let s := changeBase b (fun d => { d with
    drainSince := none
    resetAt := some s.now
    logicUp := false
    recent := if cause = 1 then d.recent else (d.recent.filter (fun t => decide (s.now < t + 10 * sec))) ++ [s.now]
    commanded := satAdd 16 d.commanded (flag (decide (cause = 1)))
    uncommanded := satAdd 16 d.uncommanded (flag (decide (cause ≠ 1)))
    cause := cause
    stamp := packageStamp s }) s
  let s := raise 0x4804 (verItems none none none (some b) (some cause)) s
  let s := resetLayer b (lasersReset b s)
  let s := hit.foldl (fun s x => resetFlight b x s) s
  let s := resetPorts b (resetIncoming (towersOn b) s)
  let s := saving.foldl (fun s r => partitionTdiFail r.partition (releaseRun r.partition r.id ccPathReset 0 true s)) s
  pumpAll s

/-- Lines that wait for Bk end with a code. -/
def endWaiting (b code : Nat) (p : Flight → Bool) (s : State) : State :=
  pumpAll (((flights s).filter (fun x => decide (x.desc.wait = .base b) && p x)).foldl (fun s x => endFlight x code s) s)

/-- Bk is held in reset until the next start (R342, R594): event 0x4809. -/
def holdBase (b : Nat) (s : State) : State :=
  let s := changeBase b (fun d => { d with held := true }) s
  let s := keepOut (unitsOfBase b) (raise 0x4809 (verItems none none none (some b) none) s)
  endWaiting b ccTargetDead (fun _ => true) s

/-- The effect of a write to 0x4800:04 (R339): the drain begins. A base die in reset refuses. -/
def baseResetAct : WriteAct := fun value s =>
  let b := leNat value
  if 4 ≤ b then refuseRange 0
  else if (baseState s b).resetAt.isSome then refuseState
  else if (baseState s b).drainSince.isSome then .done s
  else .done (changeBase b (fun d => { d with drainSince := some s.now }) s)

/-- BASE_RESET_COMMAND (R339). -/
def execBaseResetCommand (req : Req) (value : Bytes) (s : State) : Host.Outcome State Fault Refusal :=
  .next (serveWrite req 0x480004 value baseResetAct s)

/-- DRAIN_DONE (R339, R343): nothing is outstanding through Bk, and no save or restore runs there. -/
def drainDone (b : Nat) (s : State) : State :=
  if (baseState s b).drainSince = none ∨ (flights s).any (through s b) ∨ savingOn s b ≠ [] then s else assertReset b 1 s

def execDrainDone (base : Fin 4) (s : State) : Host.Outcome State Fault Refusal := .next (drainDone base s)

/-- DRAIN_TIMEOUT (R339): event 0x4808. -/
def drainTimeout (b : Nat) (s : State) : State :=
  match (baseState s b).drainSince with
  | none => s
  | some t =>
    let s := advanceTo (t + dictNat s 0x480006 * us) s
    raise 0x4808 (verItems none none none (some b) none) (assertReset b 1 s)

def execDrainTimeout (base : Fin 4) (s : State) : Host.Outcome State Fault Refusal := .next (drainTimeout base s)

/-- Bk is being named in step 3. [DEDUCED, safe: log 187] -/
def namingBase (s : State) (b : Nat) : Bool :=
  decide (s.start.step = 3) && !s.start.kept.any (fun u => match u with
    | .base x => decide (x.val = b)
    | _ => false)

/-- UNCOMMANDED_BASE_RESET (R340, R342): the watchdog, an undervoltage or a fatal internal error. One in step 3 begins
the discovery of Bk anew (R552). -/
def uncommandedReset (b cause : Nat) (s : State) : State :=
  if (baseState s b).held ∨ !(baseUp s b || namingBase s b) then s
  else
    let s := assertReset b (cause + 2) s
    if 3 ≤ (baseState s b).recent.length then holdBase b s else s

def execUncommandedBaseReset (base : Fin 4) (cause : Fin 3) (s : State) : Host.Outcome State Fault Refusal :=
  .next (uncommandedReset base cause s)

/-- BASE_DIE_OUT_OF_RESET (R341): 2 ms after the reset, discovery begins. -/
def baseOutOfReset (b : Nat) (s : State) : State :=
  match (baseState s b).resetAt with
  | none => s
  | some t =>
    if (baseState s b).held ∨ (baseState s b).logicUp then s
    else beginDiscovery [b] (changeBase b (fun d => { d with logicUp := true }) (advanceTo (t + 2 * ms) s))

def execBaseDieOutOfReset (base : Fin 4) (s : State) : Host.Outcome State Fault Refusal := .next (baseOutOfReset base s)

/-- A path trains (R220, R250, R278): its launch offset, the opening of its receive window and its skews are measured, and
its receiver locks on the flits it hears. [DEDUCED, safe: log 30] -/
def trainPath (n : Nat) (s : State) : State :=
  let (x, s) := draw s
  lockOn n (changeLink n (fun r => { r with measured := x }) (startTraining n s))

/-- The paths into and from towers train (R278), those that have no lock. The frame lock supersedes what was known of their
launch offsets. -/
def trainPaths (ts : List Nat) (s : State) : State :=
  let s := { s with las.corrections := s.las.corrections.filter (fun x =>
    !(decide (tapKind x.2 = 5) && (decide (tapUnit x.2 ∈ ts) || decide (bits x.2 43 40 ∈ ts)))) }
  let ps := (allTowers.flatMap (fun a => allTowers.map (fun b => (a, b)))).filter (fun x =>
    decide (x.1 ≠ x.2) && (decide (x.1 ∈ ts) || decide (x.2 ∈ ts)) && towerUp s x.1 && towerUp s x.2 &&
      !baseDown s (baseOfTower x.1) && !baseDown s (baseOfTower x.2))
  ps.foldl (fun s (a, b) => (List.range 8).foldl (fun s w =>
    if (link s (pathLink a b w)).locked then s else trainPath (pathLink a b w) s) s) s

/-- The paths of Bk's towers retrain after its reset (R279): event 0x4023 for each. -/
def retrainPaths (ts : List Nat) (s : State) : State :=
  let ns := ((List.range 1168).filter (fun n => linkExists n && pathOf ts n &&
    !baseDown s (baseOfTower (pathSrc n)) && !baseDown s (baseOfTower (pathDst n)) && towerUp s (pathSrc n) && towerUp s (pathDst n)))
  trainPaths ts (ns.foldl (fun s n => raise 0x4023 (linkItems n none none) (count32 0x402004 1 s)) s)

/-- BASE_RETURN (R341): dies that were not named stay out; links, receivers and paths are back, withdrawn reads are
reissued and sparings start again: event 0x4805. [DEDUCED, safe: log 30] -/
def baseReturn (b : Nat) (s : State) : State :=
  let d := baseState s b
  if d.resetAt = none ∨ !d.logicUp ∨ d.held ∨ !unitNamed s b 1 then s
  else
    let ts := towersOn b
    let lost := ts.filter (fun t => !unitNamed s (4 + 9 * t) 9)
    let fs := ((List.range 16).filter (fun f => decide (baseOfFlock f = b))).filter (fun f => !unitNamed s (112 + f) 1)
    let s := keepOut (lost.flatMap towerUnit ++ fs.flatMap flockUnit) s
    let s := changeBase b (fun d => { d with resetAt := none, logicUp := false }) s
    let still := ((List.range 4).filter (fun c => (baseState s c).resetAt.isSome)).flatMap meshOf
    let s := { s with pho.meshDown := s.pho.meshDown.filter (fun n => decide (n ∉ meshOf b ∨ n ∈ still)) }
    let s := (ts.filter (scrubbing s)).foldl (fun s t => resumeScrub t s) (retrainPaths ts s)
    let s := raise 0x4805 (verItems none none none (some b) none) (lasersReturn b s)
    wake (fun w => decide (w = .base b)) s

def execBaseReturn (base : Fin 4) (s : State) : Host.Outcome State Fault Refusal := .next (baseReturn base s)

/-- A line waits for Bk to walk a table. -/
def walksNext (s : State) (x : Flight) : Bool :=
  let p := pieceOf s x.tower x.desc
  match p.dst with
  | none => false
  | some a => match resolveSide s x.tower x.desc (dDstSpad x.desc.raw) a (if dOp x.desc.raw = 6 then .atomic else .write) with
    | .walk => true
    | _ => false

/-- READ_RETRY_LIMIT (R340, R594): reads and walks that wait since the reset complete with PATH_RESET; writes and
atomics wait on. -/
def readRetryLimit (b : Nat) (s : State) : State :=
  match (baseState s b).resetAt with
  | none => s
  | some t =>
    let s := advanceTo (t + dictNat s 0x480005 * ms) s
    endWaiting b ccPathReset (fun x => readsNext x.desc || walksNext s x) s

def execReadRetryLimit (base : Fin 4) (s : State) : Host.Outcome State Fault Refusal := .next (readRetryLimit base s)

/-- 0x4800:07. -/
def baseLog (s : State) : Bytes :=
  ((List.range 4).map (fun b =>
    let d := baseState s b
    leBytes 2 d.commanded ++ leBytes 2 d.uncommanded ++ leBytes 1 d.cause ++ zeros 3 ++ leBytes 8 d.stamp.toNat)).flatten

end Sys2Proof.Machine
end

