-- ==== Sys2Proof/Machine/Security.lean ====
section
/-! DEFINITION. Worlds, region tables, boot and live update, attestation, trusted domains and tenant handover
(R462 to R489). -/

namespace Sys2Proof.Machine

/-! ### Worlds and region tables (R462 to R470) -/

/-- Frame boundaries occur: tick words are sent, and the device is not in Donkey mode (R468, R522). -/
def ticking (s : State) : Bool := decide (s.frame.ticks ≠ .off) && !s.start.donkey

/-- Fields of a world map. -/
def mapFunctions (m : Bytes) : Nat := fieldAt m 0 2
def mapTower (m : Bytes) (t : Nat) : Nat := fieldAt m (4 + 4 * t) 4

/-- The first byte of a map that is outside its encoding. -/
def mapFault (m : Bytes) : Option Nat :=
  if mapFunctions m ≥ 2 ^ 14 then some 0
  else if fieldAt m 3 1 > 1 then some 3
  else (allTowers.find? (fun t => decide (mapTower m t ≥ 2 ^ 29))).map (fun t => 4 + 4 * t)

/-- A map keeps R463: every block of a partition's towers has the partition's world, which is its owner's. -/
def mapAgrees (s : State) (m : Bytes) : Bool :=
  allTowers.all (fun p =>
    let ts := towersOf s p
    decide (ts = []) || (
      ts.all (fun t => decide (mapTower m t = mapTower m p)) &&
      (decide (mapTower m p = 0) || decide (mapTower m p = 0x1FFFFFFF)) &&
      (match ownerOf s p with
        | none => true
        | some f => decide (nbit (mapFunctions m) f = decide (mapTower m p ≠ 0)))))

/-- A map changes bits of a held TDI's towers or function (R482). -/
def mapTouchesTdi (s : State) (m : Bytes) : Bool :=
  let old := dictBytes s 0x600001
  allTowers.any (fun p => tdiHeld s p &&
    ((towersOf s p).any (fun t => decide (mapTower m t ≠ mapTower old t)) ||
      (match ownerOf s p with
        | none => false
        | some f => decide (nbit (mapFunctions m) f ≠ nbit (mapFunctions old) f))))

/-- The effect of 0x6000:01: at the next frame boundary, or at once while no frames run (R522). [DEDUCED, safe: log
80] -/
def worldMapAct : WriteAct := fun value s =>
  let m := overlay value 3 [if fieldAt value 3 1 > 1 then value.getD 3 0 else 1]
  match mapFault value with
  | some d => refuseRange d
  | none =>
    if !mapAgrees s m ∨ mapTouchesTdi s m then refuseState
    else if ticking s then .wait 0 { s with sec.pendingMap := some m }
    else .done (setDict 0x600001 m s)

/-- WORLD_MAP_WRITE (R463). -/
def execWorldMapWrite (req : Req) (value : Bytes) (s : State) : Host.Outcome State Fault Refusal :=
  .next (serveWrite req 0x600001 value worldMapAct s)

/-- The 16 bytes of an entry of a region table. -/
def tableEntry (tab : Bytes) (i : Nat) : Bytes := slice tab (16 * i) 16

/-- The offset in an entry of the first field that breaks R465. -/
def entryFault (e : Bytes) : Option Nat :=
  let f := fieldAt e 0 1
  if f ≥ 64 then some 0
  else if fieldAt e 1 3 ≠ 0 then some 1
  else if nbit f 0 && decide (fieldAt e 4 2 ≥ 4096) then some 4
  else if fieldAt e 6 2 ≠ 0 then some 6
  else if nbit f 0 && decide (fieldAt e 8 4 ≥ 2 ^ 27) then some 8
  else if nbit f 0 && (decide (fieldAt e 12 4 = 0) || decide (fieldAt e 12 4 > 0x8000)) then some 12
  else none

/-- An entry names a partition. -/
def entryNames (e : Bytes) (p : Nat) : Bool := nbit (fieldAt e 0 1) 0 && nbit (fieldAt e 4 2) p

/-- A table takes effect at a tower: event 0x6002. -/
def applyTable (t : Nat) (tab : Bytes) (s : State) : State :=
  raise 0x6002 (secItems (some t) none none none) (setDict (0x601001 + t) tab s)

/-- The effect of 0x6010:(t + 1) (R465, R468, R482). [DEDUCED, safe: log 80; DEDUCED, unsafe: log 189] -/
def regionTableAct (t : Nat) : WriteAct := fun value s =>
  let old := dictBytes s (0x601001 + t)
  let changed := (List.range 256).filter (fun i => decide (tableEntry value i ≠ tableEntry old i))
  let locked := changed.any (fun i => nbit (fieldAt (tableEntry old i) 0 1) 0 && nbit (fieldAt (tableEntry old i) 0 1) 1)
  let held := changed.any (fun i => allTowers.any (fun p =>
    tdiHeld s p && (entryNames (tableEntry value i) p || entryNames (tableEntry old i) p)))
  if locked then .refuse stLocked 0
  else match ((List.range 256).filterMap (fun i => (entryFault (tableEntry value i)).map (16 * i + ·))).head? with
  | some d => refuseRange d
  | none =>
    if held then refuseState
    else if ticking s ∧ towerUp s t then .wait 0 { s with sec.pendingTables := Tab.put [] t value s.sec.pendingTables }
    else .done (applyTable t value s)

/-- REGION_TABLE_WRITE (R468). -/
def execRegionTableWrite (req : Req) (tower : Tower) (value : Bytes) (s : State) : Host.Outcome State Fault Refusal :=
  .next (serveWrite req (0x601001 + tower) value (regionTableAct tower) s)

/-! ### Images (R471 to R476) -/

/-- Fields of an image's header (R472). -/
def imageSlot (i : Bytes) : Nat := fieldAt i 6 1
def imagePayload (i : Bytes) : Bytes := slice i 0x600 (fieldAt i 8 4)
def imageSvn (i : Bytes) : Nat := fieldAt i 0x0C 4
def imageVersion (i : Bytes) : Bytes := slice i 0x10 16

/-- The image that runs, and the image in NVM. -/
def runningImage (s : State) : Bytes := s.sec.running.getD Config.nvmImage
def nvmImage (s : State) : Bytes := s.sec.nvm.getD Config.nvmImage

/-- The fused SVN (R473). [DESIGN CHOICE, safe: log 10] -/
def fusedSvn (s : State) : Nat := max Config.fusedSvn s.sec.svnBlown

/-- The header is as R472 states. -/
def headerFits (i : Bytes) : Bool :=
  let len := fieldAt i 8 4
  decide (i.length ≥ 0x601 ∧ fieldAt i 0 4 = 0x4C584657 ∧ fieldAt i 4 2 = 1 ∧ fieldAt i 7 1 = 0 ∧
    1 ≤ len ∧ len ≤ 0x1000000 ∧ i.length = 0x600 + len ∧ imageSvn i ≤ 63) &&
  (slice i 0x60 0xA0).all (· = 0) && decide (fieldAt i 0x300 4 = 0x00010001) && (slice i 0x304 0xFC).all (· = 0)

/-- Why the ROM does not admit an image (R471), as the reason of R548: 1 header, key, signature or digest; 2 SVN; 3 key
slot. None when it is admitted. -/
def imageFault (s : State) (i : Bytes) : Option Nat :=
  if !headerFits i then some 1
  else if imageSlot i > 3 ∨ Config.slotRevoked (imageSlot i) then some 3
  else if Config.sha512 (slice i 0x100 0x204) ≠ Config.keyDigest (imageSlot i) then some 1
  else if !Config.rsaPss (slice i 0x100 0x200) (slice i 0x400 0x200) (slice i 0 0x400) then some 1
  else if Config.sha512 (imagePayload i) ≠ slice i 0x20 64 then some 1
  else if imageSvn i < fusedSvn s then some 2
  else none

/-- The effect of 0x6000:04: a new transfer discards what was staged (R475). -/
def stagingAct : WriteAct := fun value s =>
  if value.length < 0x601 then .refuse stLength value.length
  else if value.length > 0x1000600 then .refuse stLength 0x1000600
  else .done { s with
    sec.staged := some value, sec.update := 1, sec.verifying := false, sec.activateNext := false }

/-- IMAGE_STAGING (R475). -/
def execImageStaging (req : Req) (value : Bytes) (s : State) : Host.Outcome State Fault Refusal :=
  .next (serveWrite req 0x600004 value stagingAct s)

/-- A handover or a takeover is in progress (R476). -/
def twinMoves (s : State) : Bool :=
  s.twin.handover.isSome || s.twin.takeover.isSome || s.twin.yielded.isSome || decide (s.twin.state = 5)

/-- Activate is allowed (R476, R549). -/
def mayActivate (s : State) (override : Bool) : Bool :=
  decide (s.sec.update = 2) && s.sec.staged.isSome && !s.start.donkey && !s.sec.activateNext && !twinMoves s &&
    (override || !(decide (s.twin.state = 2) && s.twin.paired && decide (s.twin.partner = 4)))

/-- Commit writes the image that runs, or the verified one in Donkey mode (R475, R549). [DEDUCED, safe: log 83] -/
def mayCommit (s : State) : Bool :=
  !s.sec.committing && s.sec.retryAt.isNone &&
    (if s.start.donkey then decide (s.sec.update = 2) else decide (s.sec.update = 3 ∨ s.sec.update = 4))

/-- The image a commit writes. [DEDUCED, safe: log 83] -/
def commitImage (s : State) : Bytes := if s.start.donkey then s.sec.staged.getD [] else runningImage s

/-- The effect of 0x6000:05. -/
def updateAct : WriteAct := fun value s =>
  match leNat value with
  | 0x01 => if s.sec.staged.isSome ∧ !s.sec.verifying ∧ (s.sec.update = 1 ∨ s.sec.update = 2) then
      .done { s with sec.verifying := true } else refuseState
  | 0x02 => if mayActivate s false then .done { s with sec.activateNext := true } else refuseState
  | 0x82 => if mayActivate s true then .done { s with sec.activateNext := true } else refuseState
  | 0x03 => if mayCommit s then .done { s with sec.committing := true, sec.commitFailures := 0 } else refuseState
  | 0x04 => if !s.start.donkey ∧ !s.sec.nvmInvalid ∧ runningImage s = nvmImage s then
      .done { s with sec.svnBlown := max (fusedSvn s) (imageSvn (runningImage s)) } else refuseState
  | _ => refuseRange 0

/-- VERIFY (R475). -/
def execVerify (req : Req) (value : Bytes) (s : State) : Host.Outcome State Fault Refusal :=
  .next (if leNat value = 0x01 then serveWrite req 0x600005 value updateAct s else s)

/-- IMAGE_VERIFY_DONE (R475): event 0x6003 or 0x6004. -/
def verifyDone (s : State) : State :=
  if !s.sec.verifying then s
  else match imageFault s (s.sec.staged.getD []) with
    | none => raise 0x6003 (secItems none none none none)
        { s with sec.verifying := false, sec.update := 2, sec.verifyFailed := false }
    | some _ => raise 0x6004 (secItems none none none none)
        { s with sec.verifying := false, sec.update := 1, sec.verifyFailed := true }

def execImageVerifyDone (s : State) : Host.Outcome State Fault Refusal := .next (verifyDone s)

/-- ACTIVATE (R476). -/
def execActivate (req : Req) (value : Bytes) (s : State) : Host.Outcome State Fault Refusal :=
  .next (if leNat value % 128 = 0x02 then serveWrite req 0x600005 value updateAct s else s)

/-- ACTIVATION_DONE (R475): 500 µs after the tick the new image runs, and what waited is served. [DEDUCED, safe: log
82] -/
def activationDone (s : State) : State :=
  match s.sec.activating with
  | none => s
  | some t =>
    let s := advanceTo t s
    let s := { s with sec.activating := none, sec.running := s.sec.staged, sec.update := 3 }
    let s := notify 3 (raise 0x6005 (secItems none none none none) s)
    (List.range 4).foldl (fun s i => releaseHeld 256 i s) s

def execActivationDone (s : State) : Host.Outcome State Fault Refusal := .next (activationDone s)

/-- IMAGE_COMMIT (R475). -/
def execImageCommit (req : Req) (value : Bytes) (s : State) : Host.Outcome State Fault Refusal :=
  .next (if leNat value = 0x03 then serveWrite req 0x600005 value updateAct s else s)

/-- IMAGE_COMMIT_DONE (R476): written, or failed; after a second failure NVM holds no valid image. A commit by the
recovery loader clears the failed-start count (R547). [DEDUCED, safe: log 82] -/
def commitDone (ok : Bool) (s : State) : State :=
  if !s.sec.committing then s
  else if ok then
    { s with
      sec.nvm := some (commitImage s), sec.nvmInvalid := false, sec.committing := false, sec.commitFailures := 0
      sec.update := 4
      start.failedCount := if s.start.donkey then 0 else s.start.failedCount }
  else
    let n := s.sec.commitFailures + 1
    raise 0x6006 (secItems none none none none) { s with
      sec.committing := false, sec.commitFailures := n
      sec.retryAt := if n = 1 then some (s.now + sec) else none
      sec.nvmInvalid := s.sec.nvmInvalid || decide (n ≥ 2) }

def execImageCommitDone (ok : Bool) (s : State) : Host.Outcome State Fault Refusal := .next (commitDone ok s)

/-- IMAGE_COMMIT_RETRY (R476): 1 s after a failed commit. -/
def commitRetry (s : State) : State :=
  match s.sec.retryAt with
  | none => s
  | some t => { advanceTo t s with sec.retryAt := none, sec.committing := true }

def execImageCommitRetry (s : State) : Host.Outcome State Fault Refusal := .next (commitRetry s)

/-- ADVANCE_SVN (R473). -/
def execAdvanceSvn (req : Req) (value : Bytes) (s : State) : Host.Outcome State Fault Refusal :=
  .next (if leNat value = 0x04 then serveWrite req 0x600005 value updateAct s else s)

/-- 0x6000:06. -/
def updateStatus (s : State) : Nat :=
  s.sec.update + 16 * flag s.sec.verifyFailed + 32 * flag s.sec.nvmInvalid + 2 ^ 8 * fusedSvn s +
    2 ^ 16 * imageSvn (runningImage s)

/-! ### Measurements (R474, R479) -/

/-- An entry as measurement 4 counts it. -/
def measuredBytes (s : State) (key : Nat) : Bytes :=
  if s.sec.measuredAs.any (fun c => decide (c.1 = key)) then Tab.look [] s.sec.measuredAs key else dictBytes s key

/-- The security configuration: world map, region tables, port encryption, job bindings. -/
def securityConfig (s : State) : Bytes :=
  dictBytes s 0x600001 ++ (allTowers.map (fun t => dictBytes s (0x601001 + t))).flatten ++ measuredBytes s 0x500008 ++
    (allTowers.map (fun p => measuredBytes s (0x504001 + p))).flatten

/-- Header and payload of an image. -/
def imageMeasured (i : Bytes) : Bytes := i.take 0x600 ++ imagePayload i

/-- Measurement i of R474. -/
def measurement (s : State) (i : Nat) : Bytes :=
  match i with
  | 1 => Config.romDigest
  | 2 => Config.sha512 (imageMeasured (runningImage s))
  | 3 => Config.sha512 (leBytes 4 (imageSvn (runningImage s)) ++ leBytes 4 (fusedSvn s))
  | 4 => Config.sha512 (securityConfig s)
  | 5 => Config.sha512 Config.fuseState
  | _ => Config.sha512 (imageMeasured (nvmImage s))

/-! ### SPDM (R477, R478, R484) -/

/-- The number of a path. -/
def pathKey : SpdmPath → Nat
  | .doe => 0
  | .mctp => 1
  | .rack p => 2 + p

/-- The port of a path. -/
def pathPort : SpdmPath → Option Nat
  | .rack p => some p.val
  | _ => none

/-- A path carries messages: DOE from the end of step 5 on a host link that is up, MCTP on one with an EID, MANAGEMENT
on a port that is up. -/
def pathOpen (s : State) (x : SpdmPath) : Bool :=
  let host := Tab.look false s.host.up 0 && decide (3 ≤ s.start.step) && !s.start.donkey
  match x with
  | .doe => host && (s.start.foal || decide (6 ≤ s.start.step))
  | .mctp => host && decide (s.host.eid ≠ 0)
  | .rack p => portUp s p && !s.start.donkey

/-- Send an answer. -/
def answerSpdm (x : SpdmPath) (a : SpdmAnswer) (s : State) : State := { s with sec.answers := s.sec.answers ++ [(x, a)] }

/-- A request enters the transcript of its path. -/
def record_ (x : SpdmPath) (request : Bytes) (s : State) : State :=
  { s with sec.transcripts := Tab.change [] (pathKey x) (· ++ request) s.sec.transcripts }

/-- The signature over a path's transcript. -/
def signed_ (x : SpdmPath) (s : State) : Bytes := Config.spdmSignature (Tab.look [] s.sec.transcripts (pathKey x))

/-- Answer a request on an open path that has negotiated far enough, an error otherwise. [PRESUMED, safe: log 84] -/
def onSpdm (x : SpdmPath) (level : Nat) (request : Bytes) (act : State → State) (s : State) : State :=
  if !pathOpen s x then s
  else if Tab.look 0 s.sec.negotiated (pathKey x) < level then answerSpdm x .error s
  else act (record_ x request s)

/-- A path has negotiated up to a level. [PRESUMED, safe: log 84] -/
def negotiate (x : SpdmPath) (level : Nat) (s : State) : State :=
  { s with sec.negotiated := Tab.put 0 (pathKey x) level s.sec.negotiated }

/-- GET_VERSION: versions 1.2 and 1.3; the negotiation of the path starts anew. -/
def execGetVersion (path : SpdmPath) (request : Bytes) (s : State) : Host.Outcome State Fault Refusal :=
  .next (if !pathOpen s path then s
    else
      let s := { s with sec.transcripts := Tab.put [] (pathKey path) request s.sec.transcripts }
      answerSpdm path (.version [0x12, 0x13]) (negotiate path 1 s))

/-- GET_CAPABILITIES. -/
def execGetCapabilities (path : SpdmPath) (request : Bytes) (s : State) : Host.Outcome State Fault Refusal :=
  .next (onSpdm path 1 request (fun s => answerSpdm path .capabilities (negotiate path 2 s)) s)

/-- NEGOTIATE_ALGORITHMS: those of R478, when the requester offers them. -/
def execNegotiateAlgorithms (path : SpdmPath) (request : Bytes) (offer : SpdmOffer) (s : State) :
    Host.Outcome State Fault Refusal :=
  let all := offer.p384 && offer.sha384 && offer.sha512 && offer.secp384r1 && offer.aes256gcm
  .next (onSpdm path 2 request
    (fun s => if all then answerSpdm path .algorithms (negotiate path 3 s) else answerSpdm path .error s) s)

/-- GET_DIGESTS: the chain of slot 0. -/
def execGetDigests (path : SpdmPath) (request : Bytes) (s : State) : Host.Outcome State Fault Refusal :=
  .next (onSpdm path 3 request (fun s => answerSpdm path (.digests (Config.sha384 Config.certificateChain)) s) s)

/-- GET_CERTIFICATE: only slot 0 holds a chain. -/
def execGetCertificate (path : SpdmPath) (request : Bytes) (slot : Fin 8) (offset length : BitVec 16) (s : State) :
    Host.Outcome State Fault Refusal :=
  .next (onSpdm path 3 request (fun s => answerSpdm path
    (if slot = 0 then .certificate (slice Config.certificateChain offset.toNat length.toNat) else .error) s) s)

/-- CHALLENGE. -/
def execChallenge (path : SpdmPath) (request : Bytes) (slot : Fin 8) (s : State) : Host.Outcome State Fault Refusal :=
  .next (onSpdm path 3 request (fun s => answerSpdm path
    (if slot = 0 then .challengeAuth (signed_ path s) else .error) s) s)

/-- The measurement blocks a request names: one, or all with index 0xFF. -/
def measurementBlocks (s : State) (index : Nat) : List (Nat × Bytes) :=
  ([1, 2, 3, 4, 5, 6].filter (fun i => decide (index = 0xFF ∨ i = index))).map (fun i => (i, measurement s i))

/-- GET_MEASUREMENTS (R479): the values in force, signed. -/
def execGetMeasurements (path : SpdmPath) (request : Bytes) (index : BitVec 8) (signature : Bool) (s : State) :
    Host.Outcome State Fault Refusal :=
  .next (onSpdm path 3 request (fun s =>
    if 1 ≤ index.toNat ∧ (index.toNat ≤ 6 ∨ index.toNat = 0xFF) then
      answerSpdm path (.measurements (measurementBlocks s index.toNat) (if signature then signed_ path s else [])) s
    else if index.toNat = 0 then answerSpdm path (.measurements [] (if signature then signed_ path s else [])) s
    else answerSpdm path .error s) s)

/-- A session of a path. -/
def sessionOf (s : State) (x : SpdmPath) (id : BitVec 32) : Option SpdmSession :=
  s.sec.sessions.find? (fun e => decide (e.id = id ∧ e.path = x))

/-- Change a session. -/
def changeSession (id : BitVec 32) (f : SpdmSession → SpdmSession) (s : State) : State :=
  { s with sec.sessions := changeFirst (fun e => decide (e.id = id)) f s.sec.sessions }

/-- KEY_EXCHANGE: a session begins while fewer than 8 are held; on a rack port the device can be the requester.
[PRESUMED, safe: log 84] -/
def keyExchange (x : SpdmPath) (asRequester : Bool) (s : State) : State :=
  if s.sec.sessions.length ≥ 8 ∨ (asRequester ∧ (pathPort x).isNone) then answerSpdm x .error s
  else
    let id := BitVec.ofNat 32 (s.sec.opened + 1)
    let share := Config.sessionShare s.sec.opened
    let e : SpdmSession := { id := id, path := x }
    let s := { s with sec.sessions := s.sec.sessions ++ [e], sec.opened := s.sec.opened + 1 }
    answerSpdm x (.keyExchange id share (signed_ x s)) s

def execKeyExchange (path : SpdmPath) (request : Bytes) (asRequester : Bool) (s : State) :
    Host.Outcome State Fault Refusal :=
  .next (onSpdm path 3 request (keyExchange path asRequester) s)

/-- The first key of an encrypted port is in force in both directions (R379, R484). [DEDUCED, safe: log 85] -/
def firstKeys (p : Nat) (s : State) : State :=
  if !portEncrypted s p then s
  else
    let start (key : Nat) (s : State) : State :=
      { s with fab.crypt := Tab.put {} key { generation := 1 } s.fab.crypt }
    pumpPort p (start (2 * p + 1) (start (2 * p) s))

/-- FINISH: the session opens, event 0x6007. On a rack port the partner's chain must end at the Kammond root. -/
def finishSession (x : SpdmPath) (id : BitVec 32) (trusted : Bool) (s : State) : State :=
  match sessionOf s x id with
  | none => answerSpdm x .error s
  | some e =>
    if e.established then answerSpdm x .error s
    else if (pathPort x).isSome ∧ !trusted then
      answerSpdm x .error { s with sec.sessions := s.sec.sessions.filter (fun e => decide (e.id ≠ id)) }
    else
      let s := changeSession id (fun e => { e with established := true }) s
      let s := raise 0x6007 (secItems none none none (pathPort x)) (answerSpdm x (.finish id) s)
      match pathPort x with
      | none => s
      | some p => firstKeys p s

def execFinish (path : SpdmPath) (request : Bytes) (session : BitVec 32) (trusted : Bool) (s : State) :
    Host.Outcome State Fault Refusal :=
  .next (onSpdm path 3 request (finishSession path session trusted) s)

/-- A message of an established session. [PRESUMED, safe: log 84] -/
def inSession (x : SpdmPath) (id : BitVec 32) (act : State → State) (s : State) : State :=
  if !pathOpen s x then s
  else match sessionOf s x id with
    | none => answerSpdm x .error s
    | some e => if e.established then act s else answerSpdm x .error s

/-- KEY_UPDATE: the session's keys are replaced. -/
def execKeyUpdate (path : SpdmPath) (session : BitVec 32) (s : State) : Host.Outcome State Fault Refusal :=
  .next (inSession path session (fun s => answerSpdm path (.keyUpdate session)
    (changeSession session (fun e => { e with updates := e.updates + 1 }) s)) s)

/-- HEARTBEAT. -/
def execHeartbeat (path : SpdmPath) (session : BitVec 32) (s : State) : Host.Outcome State Fault Refusal :=
  .next (inSession path session (answerSpdm path (.heartbeat session)) s)

/-- A session ends (R484): event 0x6007; an encrypted port goes down, and has no key until a new session. [DEDUCED,
safe: log 85] -/
def endSession (x : SpdmPath) (id : BitVec 32) (s : State) : State :=
  let s := { s with sec.sessions := s.sec.sessions.filter (fun e => decide (e.id ≠ id)) }
  let s := raise 0x6007 (secItems none none none (pathPort x)) s
  match pathPort x with
  | none => s
  | some p => if portEncrypted s p then
      let s := { s with fab.crypt := Tab.put {} (2 * p) {} (Tab.put {} (2 * p + 1) {} s.fab.crypt) }
      linkDown p s
    else s

/-- END_SESSION (R484). -/
def execEndSession (path : SpdmPath) (session : BitVec 32) (s : State) : Host.Outcome State Fault Refusal :=
  .next (inSession path session (fun s => endSession path session (answerSpdm path (.endSession session) s)) s)

/-! ### IDE and TDISP (R480 to R483) -/

/-- IDE_KEY_INSTALL (R480): over a session on DOE; one link stream and 16 selective streams, both key sets. -/
def installKey (session : BitVec 32) (stream : Option (Fin 16)) (keySet : Fin 2) (s : State) : State :=
  let key := match stream with
    | none => 0
    | some n => 1 + n.val
  let old := Tab.look 0 s.sec.ideKeys key
  let new := if nbit old keySet then old else old + 2 ^ keySet.val
  inSession .doe session (fun s => answerSpdm .doe (.keyInstalled stream keySet)
    { s with sec.ideKeys := Tab.put 0 key new s.sec.ideKeys }) s

def execIdeKeyInstall (session : BitVec 32) (stream : Option (Fin 16)) (keySet : Fin 2) (s : State) :
    Host.Outcome State Fault Refusal :=
  .next (installKey session stream keySet s)

/-- IDE_FAULT (R480): the TLP is discarded, event 0x600A, and its TDI goes to ERROR. -/
def execIdeFault (function : Option Function) (s : State) : Host.Outcome State Fault Refusal :=
  let f := function.map (·.val)
  let s := raise 0x600A (secItems none (f.bind (ownedPartition s)) f none) s
  .next (match f with
    | none => s
    | some f => tdiFail f s)

/-- A TDISP message on DOE. -/
def onTdisp (f : Nat) (act : State → State) (s : State) : State :=
  if !pathOpen s .doe then s
  else if isTdi s f then act s
  else answerSpdm .doe .error s

/-- GET_TDISP_VERSION: 1.0. -/
def execGetTdispVersion (function : Function) (s : State) : Host.Outcome State Fault Refusal :=
  .next (onTdisp function (answerSpdm .doe (.tdispVersion 1 0)) s)

/-- GET_TDISP_CAPABILITIES. -/
def execGetTdispCapabilities (function : Function) (s : State) : Host.Outcome State Fault Refusal :=
  .next (onTdisp function (answerSpdm .doe .tdispCapabilities) s)

/-- LOCK_INTERFACE (R482, R483): from CONFIG_UNLOCKED, with no tenant handover owed. [DEDUCED, safe: log 79] -/
def lockInterface (f : Nat) (s : State) : State :=
  if tdiState s f = 0 ∧ Tab.look [] s.sec.tdiOwes f = [] then answerSpdm .doe (.tdiLocked f) (setTdi f 1 s)
  else answerSpdm .doe .error s

def execLockInterface (function : Function) (s : State) : Host.Outcome State Fault Refusal :=
  .next (onTdisp function (lockInterface function) s)

/-- GET_DEVICE_INTERFACE_REPORT (R481, R496): tower mask, the queue set page and the BAR2 window, measurement 4. -/
def interfaceReport (f : Nat) (s : State) : State :=
  let towers := maskOf 12 (fun t => (ownedPartitions s f).any (fun p => decide (partitionOf s t = some p)))
  answerSpdm .doe (.tdiReport f towers 0x1000 0x1000 (2 ^ 40) (measurement s 4)) s

def execGetDeviceInterfaceReport (function : Function) (s : State) : Host.Outcome State Fault Refusal :=
  .next (onTdisp function (interfaceReport function) s)

/-- GET_DEVICE_INTERFACE_STATE. -/
def execGetDeviceInterfaceState (function : Function) (s : State) : Host.Outcome State Fault Refusal :=
  .next (onTdisp function (fun s => answerSpdm .doe (.tdiState function (tdiState s function)) s) s)

/-- START_INTERFACE: a locked TDI runs. -/
def startInterface (f : Nat) (s : State) : State :=
  if tdiState s f = 1 then answerSpdm .doe (.tdiStarted f) (setTdi f 2 s) else answerSpdm .doe .error s

def execStartInterface (function : Function) (s : State) : Host.Outcome State Fault Refusal :=
  .next (onTdisp function (startInterface function) s)

/-- STOP_INTERFACE: CONFIG_UNLOCKED. -/
def execStopInterface (function : Function) (s : State) : Host.Outcome State Fault Refusal :=
  .next (onTdisp function (fun s => answerSpdm .doe (.tdiStopped function) (setTdi function 0 s)) s)

/-! ### Tenant handover (R486, R487) -/

/-- Power a tower's clusters down and up (R83, R390): scratchpads, accumulators, registers, route tables and deferral
queues are cleared, and no master has access until the die has aligned and the clearing has ended. [DEDUCED, safe:
log 86] -/
def powerCycle (t : Nat) (s : State) : State :=
  let s := allClusters.foldl (fun s k => clearCluster t k s) s
  let other (k : Nat) : Bool := decide (k / 12 ≠ t)
  { s with
    spad.ready := s.spad.ready.filter (fun c => other c.1)
    spad.maps := s.spad.maps.filter (fun c => other c.1)
    spad.penModes := s.spad.penModes.filter (fun c => other c.1)
    spad.pointers := s.spad.pointers.filter (fun c => other (c.1 / 112))
    spad.held := s.spad.held.filter (fun c => other (c.1 / 112))
    spad.routes := s.spad.routes.filter (fun c => other c.1)
    spad.poisonedLines := s.spad.poisonedLines.filter (fun x => other x.cluster)
    spad.reissue := s.spad.reissue.filter (fun c => other (c.1 / 56))
    arith.acc := s.arith.acc.filter (fun c => other (c.1 / 12288))
    arith.accPoison := s.arith.accPoison.filter (fun c => other (c.1 / 12288))
    arith.lanes := s.arith.lanes.filter (fun c => other (c.1 / 128))
    arith.registers := s.arith.registers.filter (fun c => other c.1)
    parts.routers := s.parts.routers.filter (fun c => other c.1)
    clk.aligned := s.clk.aligned.filter (fun x => decide (x ≠ t)) }

/-- The hub's queues and buffers, row buffers, read cache and translation caches are emptied. [DEDUCED, safe: log 86;
DEDUCED, safe: log 188] -/
def emptyHub (t : Nat) (s : State) : State :=
  { s with
    pho.held := s.pho.held.filter (fun h => decide (h.1 / 12 ≠ t))
    pho.inbox := s.pho.inbox.filter (fun m => decide (m.1 ≠ t))
    pho.received := s.pho.received.filter (fun h => decide (h.1 / 13 % 12 ≠ t))
    pho.summed := s.pho.summed.filter (fun h => decide (h.1 % 12 ≠ t))
    dma.queues := (engineKeys t).foldl (fun q k => Tab.put [] k [] q) s.dma.queues
    dma.leaves := Tab.put [] t [] s.dma.leaves
    dma.walkLines := Tab.put [] t [] s.dma.walkLines
    dma.cache := Tab.put [] t [] s.dma.cache
    dma.fills := s.dma.fills.filter (fun f => decide (f.tower ≠ t))
    dram.openRow := s.dram.openRow.filter (fun e => decide (e.1 / 1024 ≠ t)) }

/-- The region table of a tower after a handover (R470): locked entries are kept. -/
def handoverTable (t : Nat) (s : State) : Bytes :=
  let old := dictBytes s (0x601001 + t)
  let new := defaultBytes (0x601001 + t)
  ((List.range 256).map (fun i =>
    let e := tableEntry old i
    if nbit (fieldAt e 0 1) 0 && nbit (fieldAt e 0 1) 1 then e else tableEntry new i)).flatten

/-- Start, or restart, a tenant handover of a tower. -/
def startHandover (t : Nat) (s : State) : State :=
  let s := powerCycle t (emptyHub t s)
  let s := setDict (0x601001 + t) (handoverTable t s) s
  let s := startScrub t s
  { s with
    sec.pendingTables := Tab.put [] t [] s.sec.pendingTables
    sec.handover := addOnce t s.sec.handover
    sec.scrubbed := s.sec.scrubbed.filter (· ≠ t)
    sec.unclean := addOnce t s.sec.unclean }

/-- The effect of 0x6000:07. -/
def tenantHandoverAct : WriteAct := fun value s =>
  let mask := leNat value
  if mask ≥ 4096 then refuseRange 0
  else
    let ts := maskMembers 12 mask
    if ts.any (fun t => (partitionOf s t).isSome) then refuseState
    else .done (ts.foldl (fun s t => answerWaiting (0x601001 + t) 0 stOk 0 (startHandover t s)) s)

/-- TENANT_HANDOVER (R486). -/
def execTenantHandover (req : Req) (value : Bytes) (s : State) : Host.Outcome State Fault Refusal :=
  .next (serveWrite req 0x600007 value tenantHandoverAct s)

/-- The moment from which a tower can be marked clean (R486, step 5). -/
def cleanFrom (s : State) (t : Nat) : Nat :=
  let p := Tab.look 0 s.sec.former t
  let u := if p = 0 then 0 else Tab.look 0 s.fab.unbound (p - 1)
  if u = 0 then 0 else u - 1 + 260 * us

/-- A tower is marked clean: event 0x6009 (R487). [DEDUCED, safe: log 79] -/
def markClean (t : Nat) (s : State) : State :=
  raise 0x6009 (secItems (some t) none none none) { s with
    sec.handover := s.sec.handover.filter (· ≠ t)
    sec.scrubbed := s.sec.scrubbed.filter (· ≠ t)
    sec.unclean := s.sec.unclean.filter (· ≠ t)
    sec.tdiOwes := Tab.changeAll [] (List.range 13) (fun ts => ts.filter (· ≠ t)) s.sec.tdiOwes }

/-- SCRUB_DONE (R211, R212, R486): the engine has written the tower's last line. -/
def scrubDone (t : Nat) (s : State) : State :=
  if !scrubRuns s t then s
  else
    let left := scrubTime (towerLines - (stack s t).scrubLine.getD 0)
    let s := endScrub t (advanceTo ((stack s t).scrubSince + left) s)
    if t ∉ s.sec.handover then s
    else if cleanFrom s t ≤ s.now then markClean t s
    else { s with sec.scrubbed := addOnce t s.sec.scrubbed }

def execScrubDone (tower : Tower) (s : State) : Host.Outcome State Fault Refusal := .next (scrubDone tower s)

/-- TENANT_CLEAN_DELAY (R486). -/
def cleanDelay (t : Nat) (s : State) : State :=
  if t ∈ s.sec.scrubbed ∧ t ∈ s.sec.handover then markClean t (advanceTo (cleanFrom s t) s) else s

def execTenantCleanDelay (tower : Tower) (s : State) : Host.Outcome State Fault Refusal := .next (cleanDelay tower s)

/-- 0x6000:08. -/
def cleanWord (s : State) : Nat :=
  maskOf 12 (fun t => decide (t ∉ s.sec.unclean)) + 2 ^ 16 * maskOf 12 (fun t => decide (t ∈ s.sec.handover))

/-! ### Port keys (R381, R484) -/

/-- The effect of 0x6000:0B. -/
def portKeyAct : WriteAct := fun value s =>
  let ps := maskMembers 8 (leNat value)
  if ps.any (fun p => !portEncrypted s p || !portKeyed s p) then refuseState
  else .done (ps.foldl (fun s p => pumpPort p (replaceKey p s)) s)

/-- PORT_KEY_UPDATE (R484). -/
def execPortKeyUpdate (req : Req) (value : Bytes) (s : State) : Host.Outcome State Fault Refusal :=
  .next (serveWrite req 0x60000B value portKeyAct s)

/-! ### At each boundary (R462, R468, R474, R475) -/

/-- The pending world map and region tables take effect, and a verified image begins to take over. -/
def securityBoundary (s : State) : State :=
  let s := match s.sec.pendingMap with
    | none => s
    | some m => answerWaiting 0x600001 0 stOk 0 (setDict 0x600001 m { s with sec.pendingMap := none })
  let s := s.sec.pendingTables.foldl (fun s c =>
    answerWaiting (0x601001 + c.1) 0 stOk 0 (applyTable c.1 c.2 s)) { s with sec.pendingTables := [] }
  let s := if s.sec.activateNext then
      { s with sec.activateNext := false, sec.activating := some (s.now + 500 * us) } else s
  { s with sec.measuredAs := [] }

end Sys2Proof.Machine
end

