-- ==== Sys2Proof/Machine/HostPort.lean ====
section
/-! DEFINITION. The commands of the host link (R490 to R508). -/

namespace Sys2Proof.Machine

/-! ### Ports and functions (R491, R492, R495) -/

/-- The payload of R509: port, function, partition, host address. [DESIGN CHOICE, safe: log 127] -/
def hostItems (port : Nat) (function partition address : Option Nat) : List (Option Bytes) :=
  [b1 port, function.bind b1, partition.bind b1, address.bind b8]

/-- A host port is up. -/
def hostUp (s : State) (port : Nat) : Bool := Tab.look false s.host.up port

/-- The functions of a port. -/
def functionsOfPort (s : State) (port : Nat) : List Nat :=
  let all := if s.host.split then List.range 14 else List.range 13
  all.filter (fun f => decide (portOfFunction s f = port))

/-- A function exists and its port is up. -/
def functionUp (s : State) (f : Nat) : Bool := (decide (f ≠ 13) || s.host.split) && hostUp s (portOfFunction s f)

/-- HOST_LINK_UP (R492, R541): from the end of step 2, once the port's reset is released. A port that is up trains again
at another rate or width, and loses no request (R507). -/
def linkUp (port rate width : Nat) (flit : Bool) (s : State) : State :=
  if s.start.step < 3 ∨ s.start.donkey ∨ !Tab.look false s.host.released port ∨ (port = 1 ∧ !s.host.split) then s
  else raise 0x1181 (hostItems port none none none) { s with
    host.up := Tab.put false port true s.host.up
    host.trained := Tab.put 0 port (rate + 2 ^ 4 * width + 2 ^ 9 * (if flit then 1 else 0)) s.host.trained }

def execHostLinkUp (port : Fin 2) (rate : BitVec 4) (width : BitVec 5) (flit : Bool) (s : State) :
    Host.Outcome State Fault Refusal :=
  .next (linkUp port rate.toNat width.toNat flit s)

/-- What a partition has under way on the host link is dropped. -/
def dropHostWork (p : Nat) (s : State) : State :=
  { s with
    parts.loads := s.parts.loads.filter (fun l => decide (l.partition ≠ p))
    parts.binds := s.parts.binds.filter (fun b => decide (b.partition ≠ p))
    host.reads := s.host.reads.filter (fun r => decide (r.for_ ≠ .image p ∧ r.for_ ≠ .bindings p)) }

/-- A queue set is disabled: entries not performed and records held are gone. [DEDUCED, unsafe: log 91] -/
def disableQueue (p : Nat) (s : State) : State :=
  dropHostWork p (changeQueue p (fun q => { q with
    enabled := false, fetched := [], hold := [], heldCompletion := false, heldFault := false }) s)

/-- A partition of a function that is reset (R495): runs, graphs, queue set and fault records. -/
def resetPartition (detail p : Nat) (s : State) : State :=
  let s := (runsOf s p).foldl (fun s r => releaseRun p r.id ccRefused (0x0D00 + detail) true s) s
  let s := (graphsOf s p).foldl (fun s g => dropGraph p g.handle s) s
  let s := disableQueue p s
  { s with dma.records := s.dma.records.filter (fun r => decide (r.partition ≠ p)) }

/-- The PF's reset also takes the MCTP endpoint's EID, and what the dictionary keeps for MCTP requesters (R506, R533).
[DEDUCED, safe: log 92] -/
def resetEndpoint (s : State) : State :=
  let mctp (r : Requester) : Bool := match r with
    | .mctp _ => true
    | .udp _ _ => false
  { s with
    host.eid := 0
    om.snapshots := s.om.snapshots.filter (fun x => !mctp x.requester)
    om.transfers := s.om.transfers.filter (fun x => !mctp x.requester)
    om.kept := s.om.kept.filter (fun k => !mctp k.reply.id.requester) }

/-- One function is reset (R495): event 0x1186. -/
def resetFunction (detail f : Nat) (s : State) : State :=
  let port := portOfFunction s f
  let s := (ownedPartitions s f).foldl (fun s p => resetPartition detail p s) s
  let s := tdiFail f s
  let s := changeFunction f (fun _ => {}) s
  let s := { s with
    host.reads := s.host.reads.filter (fun r => decide (r.function ≠ f)) }
  let s := if f = 0 then resetEndpoint s else s
  raise 0x1186 (hostItems port (some f) (ownedPartition s f) none) s

/-- A descriptor writes to the host, and some of its writes have been issued. -/
def hostWriting (s : State) (t : Nat) (d : Desc) : Bool :=
  let toHost := match (pieceOf s t d).dst.map (fun a => resolveSide s t d (dDstSpad d.raw) a .write) with
    | some (.at_ 2 _ _) => true
    | _ => false
  decide (d.state = .active ∧ (d.cursorRows ≠ 0 ∨ d.cursorBytes ≠ 0)) && toHost

/-- Host writes of a partition are in flight when its link is lost (R507): the descriptor ends with TARGET_DEAD, and its
task's flag [7] is set. [DEDUCED, safe: log 92] -/
def loseHostWrites (p : Nat) (s : State) : State :=
  ((towersOf s p).flatMap engineKeys).foldl (fun s k =>
    (engineQueue s k).zipIdx.foldl (fun s (d, i) =>
      if d.partition = p ∧ hostWriting s (k / 16) d then
        finishDesc k i ccTargetDead (changeTask p d.run (dTask d.raw) (fun x =>
          { x with flags := x.flags ||| flUnknown, codes := ccTargetDead :: x.codes }) s)
      else s) s) s

/-- HOST_LINK_DOWN (R492): every function of the port is reset. [DEDUCED, safe: log 92] -/
def linkGone (port : Nat) (loss : HostLoss) (s : State) : State :=
  let meant := match loss with
    | .perst => Tab.look false s.host.released port && (decide (port = 0) || s.host.split)
    | _ => hostUp s port
  if !meant then s
  else
    let s := raise 0x1182 (hostItems port none none none) { s with
      host.up := Tab.put false port false s.host.up
      host.released := if loss = .perst then Tab.put false port false s.host.released else s.host.released }
    (functionsOfPort s port).foldl (fun s f => resetFunction 2 f ((ownedPartitions s f).foldl (fun s p => loseHostWrites p s) s)) s

def execHostLinkDown (port : Fin 2) (loss : HostLoss) (s : State) : Host.Outcome State Fault Refusal :=
  .next (linkGone port loss s)

/-- FUNCTION_LEVEL_RESET (R495): that of the PF or of function 13 acts on every VF of its port as well. [DEDUCED,
safe: log 78] -/
def functionReset (f : Nat) (s : State) : State :=
  if !functionUp s f then s
  else if f = 0 ∨ f = 13 then (functionsOfPort s (portOfFunction s f)).foldl (fun s g => resetFunction 1 g s) s
  else resetFunction 1 f s

def execFunctionLevelReset (function : Function) (s : State) : Host.Outcome State Fault Refusal :=
  .next (functionReset function s)

/-- PERST_N_RELEASE (R541). -/
def execPerstNRelease (port : Fin 2) (s : State) : Host.Outcome State Fault Refusal :=
  .next { s with host.released := Tab.put false port true s.host.released }

/-- Answer a request of the host. -/
def answerHost (a : TlpAnswer) (s : State) : State := { s with host.answers := s.host.answers ++ [a] }

/-- Step 5 has ended (R541). -/
def configOpen (s : State) : Bool := s.start.foal || decide (6 ≤ s.start.step)

/-- What a configuration request does to its function. [DESIGN CHOICE, safe: log 87] -/
def configWrite (f : Nat) (access : ConfigAccess) (s : State) : State :=
  match access with
  | .read => s
  | .atomicRequester on => changeFunction f (fun b => { b with atomicEnable := on }) s
  | .relaxedOrdering on => changeFunction f (fun b => { b with relaxed := on }) s
  | .idOrdering on => changeFunction f (fun b => { b with idOrder := on }) s
  | .maskVector v => changeFunction f (fun b => { b with unmasked := b.unmasked.filter (· ≠ v.toNat) }) s

/-- CONFIG_REQUEST (R541): Request Retry Status until step 5 ends. -/
def configRequest (f : Nat) (access : ConfigAccess) (s : State) : State :=
  if !functionUp s f then s
  else if !configOpen s then answerHost { function := f, status := .retry } s
  else answerHost { function := f, status := .successful } (configWrite f access s)

def execConfigRequest (function : Function) (access : ConfigAccess) (s : State) : Host.Outcome State Fault Refusal :=
  .next (configRequest function access s)

/-! ### BAR2 (R496, R497) -/

/-- The partition and device virtual address of a BAR2 offset. [DEDUCED, safe: log 88] -/
def barPlace (s : State) (f offset : Nat) : Option (Nat × Nat) :=
  if f = 0 then (if offset / 2 ^ 40 < 12 then some (offset / 2 ^ 40, offset % 2 ^ 40) else none)
  else (ownedPartition s f).bind (fun p => if offset < 2 ^ 40 then some (p, offset) else none)

/-- The pieces of an access within lines of 64 bytes: address and length. -/
def linePieces : Nat → Nat → Nat → List (Nat × Nat)
  | 0, _, _ => []
  | fuel + 1, a, len =>
    if len = 0 then []
    else
      let n := min len (64 - a % 64)
      (a, n) :: linePieces fuel (a + n) (len - n)

/-- What a check of a BAR2 access meets. -/
inductive BarCheck where
  /-- Local places and lengths. -/
  | ok (places : List (Nat × Nat))
  | failed
  | denied (tower address : Nat)
  | retry

/-- Translate and check one piece (R165 to R168, R466): requests of the PF are checked on the world bits alone. -/
def barPiece (f p : Nat) (write : Bool) (a len : Nat) (s : State) : BarCheck × State :=
  let (x, s) := translateNow p p a (if write then .write else .read) s
  match x with
  | .ok target out _ =>
    if target > 1 then (.failed, s)
    else match placeTower out with
      | none => (.failed, s)
      | some u =>
        if !regionPermits s u out (functionSecure s f) write (if f = 0 then none else some p) then (.denied u out, s)
        else if !towerUp s u ∨ ((hostBases u).find? (baseBusy s)).isSome ∨ (target = 0 ∧ !stackServes s u) ∨ unclearedAt s out then
          (.retry, s)
        else (.ok [(out, len)], s)
  | .fault _ _ => (.failed, s)
  | .miss => (.failed, s)
  | .denied => (.failed, s)
  | .wait _ => (.retry, s)
  | .far _ _ => (.retry, s)

/-- Check every piece: the first that is not in order decides. [DEDUCED, safe: log 88] -/
def barCheck (f p : Nat) (write : Bool) : List (Nat × Nat) → State → BarCheck × State
  | [], s => (.ok [], s)
  | (a, n) :: rest, s => match barPiece f p write a n s with
    | (.ok x, s) => match barCheck f p write rest s with
      | (.ok xs, s) => (.ok (x ++ xs), s)
      | r => r
    | r => r

/-- Event 0x1187. -/
def barFailed (f : Nat) (p : Option Nat) (s : State) : State := raise 0x1187 (hostItems (portOfFunction s f) (some f) p none) s

/-- Read checked places. -/
def barRead (places : List (Nat × Nat)) (s : State) : Bytes × Bool × State :=
  places.foldl (fun (acc : Bytes × Bool × State) x =>
    let (data, code, s) := readLocal (if x.1 ≥ spadBase then 1 else 0) x.1 x.2 acc.2.2
    (acc.1 ++ data, acc.2.1 || decide (code = ccPoison), s)) ([], false, s)

/-- Write checked places; sharers of a read-coherent line are invalidated (R179). -/
def barWrite : List (Nat × Nat) → Bytes → Bool → State → State
  | [], _, _, s => s
  | (a, n) :: rest, data, poisoned, s =>
    let s := if a ≥ spadBase then spadWrite (a - spadBase) (data.take n) poisoned s
      else
        let (_, s) := writeLine (a / 64) (a % 64) (data.take n) poisoned s
        if sharersOf s a = [] then s else sendInvalidations a [] [] s
    barWrite rest (data.drop n) poisoned s

/-- A BAR2 access (R497). One that meets a drained stack, a handover scrub, a base die that takes no request or a cluster
that has not been cleared is not performed: a read completes with RETRY, a write has no completion (R6, R208, R211,
R339). [DEDUCED, safe: log 88] -/
def barAccess (x : BarAccess) (s : State) : State :=
  let secure := functionSecure s x.function
  let port := portOfFunction s x.function
  match barPlace s x.function x.offset with
  | none =>
    let s := barFailed x.function none s
    if x.write.isSome then s else answerHost { function := x.function, status := .unsupported } s
  | some (p, va) =>
    let (c, t) := barCheck x.function p x.write.isSome (linePieces 128 va x.length) s
    match c with
    | .retry => if x.write.isSome then t else answerHost { function := x.function, status := .retry } t
    | .failed =>
      let t := barFailed x.function (some p) t
      if x.write.isSome then t else answerHost { function := x.function, status := .unsupported } t
    | .denied u a =>
      let t := worldDenied (some u) (some p) (some x.function) (some port) (some a) secure t
      if x.write.isSome then t else answerHost { function := x.function, status := .aborted } t
    | .ok places => match x.write with
      | some (data, poisoned) => barWrite places data poisoned t
      | none =>
        let (data, poisoned, t) := barRead places t
        answerHost { function := x.function, status := .successful, data := data, poisoned := poisoned } t

/-- A function has a BAR2 window that the host can reach. -/
def barReachable (s : State) (f : Nat) : Bool := decide (f ≠ 13) && functionUp s f && configOpen s

/-- BAR2_READ (R497): at most 4,096 bytes (R490). -/
def execBar2Read (function : Function) (offset : BitVec 44) (length : BitVec 13) (s : State) :
    Host.Outcome State Fault Refusal :=
  .next (if barReachable s function ∧ 1 ≤ length.toNat ∧ length.toNat ≤ 4096 then
      barAccess { function := function, offset := offset.toNat, length := length.toNat, write := none } s
    else s)

/-- BAR2_WRITE (R497): at most 512 bytes (R490). -/
def execBar2Write (function : Function) (offset : BitVec 44) (data : Bytes) (poisoned : Bool) (s : State) :
    Host.Outcome State Fault Refusal :=
  .next (if barReachable s function ∧ 1 ≤ data.length ∧ data.length ≤ 512 then
      barAccess { function := function, offset := offset.toNat, length := data.length, write := some (data, poisoned) } s
    else s)

/-- BAR2_ATOMICOP (R497). -/
def execBar2Atomicop (function : Function) (offset : BitVec 44) (s : State) : Host.Outcome State Fault Refusal :=
  .next (if barReachable s function ∧ offset.toNat < 2 ^ 44 then
      answerHost { function := function, status := .unsupported } s else s)

/-! ### Partition owners (R493) -/

/-- The owner field of a partition in a value of 0x1180:03. -/
def ownerField (v p : Nat) : Nat := nbits v (4 * p + 3) (4 * p)

/-- An owner has the world of a partition that has towers (R463). -/
def ownerAgrees (s : State) (v p : Nat) : Bool :=
  decide (towersOf s p = []) || decide (ownerField v p = 15) || decide (functionSecure s (ownerField v p) = partitionSecure s p)

/-- The effect of 0x1180:03. [DEDUCED, safe: log 94; DESIGN CHOICE, unsafe: log 155] -/
def ownersAct : WriteAct := fun value s =>
  let v := leNat value
  let old := dictNat s 0x118003
  let moved := allTowers.filter (fun p => decide (ownerField v p ≠ ownerField old p))
  let twice := (List.range 12).any (fun n => (allTowers.filter (fun p => decide (ownerField v p = n + 1))).length > 1)
  let busy (p : Nat) : Bool :=
    decide (graphsOf s p ≠ []) || decide (runsOf s p ≠ []) || (queueSet s p).enabled || tdiHeld s p
  let coming : State := match s.sec.pendingMap with
    | none => s
    | some m => setDict 0x600001 m s
  if nbits v 63 48 ≠ 0 ∨ allTowers.any (fun p => decide (13 ≤ ownerField v p ∧ ownerField v p ≤ 14)) then refuseRange 0
  else if twice ∨ moved.any busy ∨ allTowers.any (fun p => !ownerAgrees s v p || !ownerAgrees coming v p) then refuseState
  else
    let s := setDictNat 0x118003 8 v s
    .done (if moved = [] then s else notify 5 s)

/-- PARTITION_OWNERS_WRITE (R493). -/
def execPartitionOwnersWrite (req : Req) (value : Bytes) (s : State) : Host.Outcome State Fault Refusal :=
  .next (serveWrite req 0x118003 value ownersAct s)

/-! ### Queue sets (R498 to R501) -/

/-- A function reaches the registers of a partition's queue set (R493). -/
def ownsQueue (s : State) (f p : Nat) : Bool := functionUp s f && configOpen s && decide (ownerOf s p = some f)

/-- A queue set halts (R499): event 0x1184. [DEDUCED, unsafe: log 91] -/
def haltQueue (p error : Nat) (s : State) : State :=
  raise 0x1184 (hostItems (portOfFunction s (partitionFunction s p)) (some (partitionFunction s p)) (some p) none)
    (changeQueue p (fun q => { q with halted := true, error := error }) s)

/-- GQ_TAIL (R498, R499). [DESIGN CHOICE, safe: log 89] -/
def gqDoorbell (p : Nat) (position : BitVec 32) (s : State) : State :=
  let q := queueSet s p
  if !q.enabled then s
  else
    let s := changeQueue p (fun q => { q with gqTail := position }) s
    if q.halted ∨ (position - q.gqHead).toNat ≤ q.gqSize then s else haltQueue p 1 s

def execGqTail (function : Function) (partition : Partition) (position : BitVec 32) (s : State) :
    Host.Outcome State Fault Refusal :=
  .next (if ownsQueue s function partition then gqDoorbell partition position s else s)

/-- GRAPH_ENTRY_FETCH (R499): the next entry in position order arrives, or its fetch fails. At most 16 wait to be
performed, and none is fetched while firmware takes over (R507). [DESIGN CHOICE, safe: log 89] -/
def entryArrives (p : Nat) (entry : Option (BitVec 512)) (s : State) : State :=
  let q := queueSet s p
  if !q.enabled ∨ q.halted ∨ q.gqHead = q.gqTail ∨ q.fetched.length ≥ 16 ∨ s.sec.activating.isSome ∨
      !functionUp s (partitionFunction s p) then s
  else match entry with
    | none => haltQueue p 3 s
    | some e => changeQueue p (fun q => { q with fetched := q.fetched ++ [(q.gqHead, e)], gqHead := q.gqHead + 1 }) s

def execGraphEntryFetch (partition : Partition) (entry : Option (BitVec 512)) (s : State) :
    Host.Outcome State Fault Refusal :=
  .next (entryArrives partition entry s)

/-- Held records move into the ring while it has room (R500). -/
def releaseRecords (p : Nat) : Nat → State → State
  | 0, s => s
  | n + 1, s =>
    let q := queueSet s p
    match q.hold with
    | [] => s
    | r :: rest =>
      if ringFull q then s
      else releaseRecords p n (ringWrite p r (changeQueue p (fun q => { q with hold := rest }) s))

/-- CQ_HEAD (R500). -/
def cqDoorbell (p : Nat) (position : BitVec 32) (s : State) : State :=
  let q := queueSet s p
  if !q.enabled then s
  else
    let s := changeQueue p (fun q => { q with cqHead := position }) s
    let t := releaseRecords p 256 s
    if (queueSet t p).cqTail = q.cqTail then t else signalCompletion p (writeShadow p t)

def execCqHead (function : Function) (partition : Partition) (position : BitVec 32) (s : State) :
    Host.Outcome State Fault Refusal :=
  .next (if ownsQueue s function partition then cqDoorbell partition position s else s)

/-- FQ_HEAD (R501). -/
def execFqHead (function : Function) (partition : Partition) (position : BitVec 32) (s : State) :
    Host.Outcome State Fault Refusal :=
  .next (if ownsQueue s function partition ∧ (queueSet s partition).enabled then
      changeQueue partition (fun q => { q with fqHead := position }) s else s)

/-- A ring size: a power of two from 64 to 65,536. -/
def ringSize (n : Nat) : Bool := (List.range 11).any (fun i => decide (n = 2 ^ (6 + i)))

/-- Bases and sizes are as R498 states. -/
def setupFits (x : QueueSetup) : Bool :=
  ringSize x.gqSize.toNat && ringSize x.cqSize.toNat && decide (bits x.gqBase 11 0 = 0) && decide (bits x.cqBase 11 0 = 0) &&
    decide (bits x.fqBase 11 0 = 0) && decide (bits x.shadowBase 5 0 = 0)

/-- QUEUE_ENABLE (R498, R499): the registers host software has written come into force. Only VECTORS can change while
the queue set is enabled. [DESIGN CHOICE, safe: log 87] -/
def queueEnable (p : Nat) (x : QueueSetup) (s : State) : State :=
  if (queueSet s p).enabled then changeQueue p (fun q => { q with vectors := x.vectors }) s
  else
    let q : QueueSet :=
      { gqBase := x.gqBase.toNat, gqSize := x.gqSize.toNat, queueStart := x.queueStart, gqTail := x.queueStart,
        gqHead := x.queueStart, cqBase := x.cqBase.toNat, cqSize := x.cqSize.toNat, fqBase := x.fqBase.toNat,
        shadowBase := x.shadowBase.toNat, vectors := x.vectors }
    if setupFits x then writeShadow p (changeQueue p (fun _ => { q with enabled := true }) s)
    else changeQueue p (fun _ => { q with error := 2 }) s

def execQueueEnable (function : Function) (partition : Partition) (setup : QueueSetup) (s : State) :
    Host.Outcome State Fault Refusal :=
  .next (if ownsQueue s function partition then queueEnable partition setup s else s)

/-- QUEUE_DISABLE (R498): ignored while the partition holds a live run. -/
def execQueueDisable (function : Function) (partition : Partition) (s : State) : Host.Outcome State Fault Refusal :=
  .next (if ownsQueue s function partition ∧ runsOf s partition = [] then disableQueue partition s else s)

/-- STATUS of a queue set (R498). -/
def queueStatus (q : QueueSet) : Nat :=
  (if q.enabled then 1 else 0) + 2 * (if q.halted then 1 else 0) + 2 ^ 8 * q.error + 2 ^ 16 * q.hold.length

/-! ### Interrupts (R500 to R502, R505) -/

/-- MSIX_MODERATION_TIMER (R500, R501): a held message is sent. -/
def moderationEnds (p : Nat) (fault : Bool) (s : State) : State :=
  let q := queueSet s p
  let held := if fault then q.heldFault else q.heldCompletion
  let last := if fault then q.lastFault else q.lastCompletion
  if !held then s
  else
    let s := advanceTo (last.getD s.now + moderation q) s
    let s := changeQueue p (fun q =>
      if fault then { q with heldFault := false, lastFault := some s.now }
      else { q with heldCompletion := false, lastCompletion := some s.now }) s
    sendVector (partitionFunction s p) (if fault then bits q.vectors 15 8 else bits q.vectors 7 0) s

def execMsixModerationTimer (partition : Partition) (fault : Bool) (s : State) : Host.Outcome State Fault Refusal :=
  .next (moderationEnds partition fault s)

/-- NOTIFY_STATUS_CLEAR (R505): `mask` and `vector` are NOTIFY_MASK and NOTIFY_VECTOR as host software has them. A bit
that stays set and is no longer masked sends the vector. [DESIGN CHOICE, safe: log 87] -/
def notifyClear (f value mask vector : Nat) (s : State) : State :=
  if !functionUp s f ∨ !configOpen s then s
  else
    let b := functionBlock s f
    let left := maskOf 6 (fun i => nbit b.notifyStatus i && !nbit value i)
    let freed := (List.range 6).any (fun i => nbit left i && nbit b.notifyMask i && !nbit mask i)
    let s := changeFunction f (fun b => { b with notifyStatus := left, notifyMask := mask, notifyVector := vector }) s
    if freed then sendVector f vector s else s

def execNotifyStatusClear (function : Function) (value mask : BitVec 32) (vector : BitVec 8) (s : State) :
    Host.Outcome State Fault Refusal :=
  .next (notifyClear function value.toNat mask.toNat vector.toNat s)

/-- MSIX_VECTOR_UNMASK (R502): the pending message is sent. -/
def unmask (f v : Nat) (s : State) : State :=
  if !functionUp s f ∨ v ≥ vectorCount f then s
  else
    let waits := decide (v ∈ (functionBlock s f).waiting)
    let s := changeFunction f (fun b => { b with unmasked := addOnce v b.unmasked, waiting := b.waiting.filter (· ≠ v) }) s
    if waits then sendVector f v s else s

def execMsixVectorUnmask (function : Function) (vector : BitVec 8) (s : State) : Host.Outcome State Fault Refusal :=
  .next (unmask function vector.toNat s)

/-! ### Host reads (R504) -/

/-- A host read ends: the request leaves the list. -/
def takeRead (tag : Nat) (s : State) : Option (HostRead × State) :=
  (s.host.reads.find? (fun r => decide (r.tag = tag))).map (fun r => (r, { s with host.reads := s.host.reads.erase r }))

/-- The descriptor a host request answers. -/
def answerRead (t e tag code : Nat) (data : Option Bytes) (s : State) : State :=
  let k := 16 * t + e
  match waiterOf s k (fun w => decide (w = .host tag)) with
  | none => s
  | some (i, d) => answerDesc k i d code data s

/-- A host request fails: event 0x1185, counted; its descriptor, its LOAD or its RUN completes with TARGET_DEAD. -/
def readFailed (tag : Nat) (s : State) : State :=
  match takeRead tag s with
  | none => s
  | some (r, s) =>
    let p := allTowers.find? (fun p => decide (partitionFunction s p = r.function))
    let s := raise 0x1185 (hostItems (portOfFunction s r.function) (some r.function) p (some r.address)) (count32 0x118005 1 s)
    match r.for_ with
    | .descriptor t e _ => answerRead t e tag ccTargetDead none s
    | .atomic t e _ => answerRead t e tag ccTargetDead none s
    | .image p => reportCommand p 0 ccTargetDead 0 0
        { s with parts.loads := s.parts.loads.filter (fun l => decide (l.partition ≠ p)) }
    | .bindings p => bindingsLost p ccTargetDead s

/-- Data reaches the descriptor of a host request; an image is taken by its admission. -/
def readData (tag code : Nat) (bytes : Bytes) (s : State) : State :=
  match takeRead tag s with
  | none => s
  | some (r, t) => match r.for_ with
    | .descriptor tw e _ => answerRead tw e tag code (some (padTo r.length bytes)) t
    | .atomic tw e _ => answerRead tw e tag code (some (padTo r.length bytes)) t
    | .image _ => s
    | .bindings p => if code = ccOk then bindingsArrive p bytes t else bindingsLost p code t

/-- HOST_READ_COMPLETION (R504). [DEDUCED, safe: log 90] -/
def readEnds (tag : Nat) (result : HostEnd) (s : State) : State :=
  match result with
  | .data bytes => readData tag ccOk bytes s
  | .poisoned bytes => readData tag ccPoison bytes s
  | .unsupported | .aborted => readFailed tag s

def execHostReadCompletion (tag : BitVec 14) (result : HostEnd) (s : State) : Host.Outcome State Fault Refusal :=
  .next (readEnds tag.toNat result s)

/-- HOST_COMPLETION_TIMEOUT (R504). -/
def execHostCompletionTimeout (tag : BitVec 14) (s : State) : Host.Outcome State Fault Refusal :=
  .next (readFailed tag.toNat s)

/-! ### The MCTP endpoint (R506) -/

/-- Answer a control command, when the endpoint is reachable: command code, then the response. [PRESUMED, safe: log
93] -/
def mctpAnswer (command : Nat) (response : State → Bytes × State) (s : State) : State :=
  if !hostUp s 0 ∨ s.start.step < 3 ∨ s.start.donkey then s
  else
    let (r, s) := response s
    { s with host.mctpSent := s.host.mctpSent ++ [(command, r)] }

/-- SET_ENDPOINT_ID: 0x00 and 0xFF name no endpoint. -/
def execSetEndpointId (eid : BitVec 8) (s : State) : Host.Outcome State Fault Refusal :=
  .next (mctpAnswer 1 (fun s =>
    if eid = 0 ∨ eid = 0xFF then ([0x02], s) else ([0x00, 0x00, eid, 0x00], { s with host.eid := eid })) s)

/-- GET_ENDPOINT_ID. -/
def execGetEndpointId (s : State) : Host.Outcome State Fault Refusal :=
  .next (mctpAnswer 2 (fun s => ([0x00, s.host.eid, 0x00, 0x00], s)) s)

/-- GET_ENDPOINT_UUID: 0x1000:06. -/
def execGetEndpointUuid (s : State) : Host.Outcome State Fault Refusal :=
  .next (mctpAnswer 3 (fun s => ([0x00] ++ Config.uuid, s)) s)

/-- GET_MCTP_VERSION_SUPPORT: the version numbers are not stated. -/
def execGetMctpVersionSupport (messageType : BitVec 8) (s : State) : Host.Outcome State Fault Refusal :=
  .next (mctpAnswer 4 (fun s =>
    if messageType ∈ [0xFF, 0x00, 0x05, 0x06, 0x7E] then
      let (v, s) := drawBytes 4 s
      ([0x00, 0x01] ++ v, s)
    else ([0x80], s)) s)

/-- GET_MESSAGE_TYPE_SUPPORT. -/
def execGetMessageTypeSupport (s : State) : Host.Outcome State Fault Refusal :=
  .next (mctpAnswer 5 (fun s => ([0x00, 0x04, 0x00, 0x05, 0x06, 0x7E], s)) s)

/-- GET_VENDOR_DEFINED_MESSAGE_SUPPORT: one set, the Kammond PCI vendor ID; its version is not stated. -/
def execGetVendorDefinedMessageSupport (selector : BitVec 8) (s : State) : Host.Outcome State Fault Refusal :=
  .next (mctpAnswer 6 (fun s =>
    if selector = 0 then
      let (v, s) := drawBytes 2 s
      ([0x00, 0xFF, 0x00] ++ beBytes 2 Config.vendorId.toNat ++ v, s)
    else ([0x02], s)) s)

/-- 0x1180:02. -/
def hostStatus (s : State) : Nat :=
  let word (p : Nat) : Nat := Tab.look 0 s.host.trained p + 2 ^ 10 * (if hostUp s p then 1 else 0)
  word 0 + 2 ^ 16 * word 1

end Sys2Proof.Machine
end

