-- ==== Sys2Proof/Machine/Clock.lean ====
section
/-! DEFINITION. Clock regions, crossings and frequency steps (R387 to R407), and the loss of REFCLK (R582). -/

namespace Sys2Proof.Machine

/-- V(code) in mV (R389). -/
def coreVolts (code : Nat) : Nat := if code ≤ 0x14 then 500 + 10 * (code - 8) else 620 + 25 * (code - 0x14)

/-- The lowest of the limits (R401). -/
def lowestLimit (s : State) : Nat :=
  let r := dictNat s 0x280001
  min r (min (s.clk.capLimit.getD r) (min (s.pow.thermalLimit.getD r) (s.clk.replicaLimit.getD r)))

/-- A limit is in force below the requested clock. -/
def limitBites (s : State) (l : Option Nat) : Bool := match l with
  | none => false
  | some c => decide (c < dictNat s 0x280001)

/-- 0x2800:03. -/
def limitReasons (s : State) : Nat :=
  flag (decide (dictNat s 0x280001 = s.clk.inForce)) + 2 * flag (limitBites s s.clk.capLimit) +
    4 * flag (limitBites s s.pow.thermalLimit) + 8 * flag (limitBites s s.clk.replicaLimit)

/-- 0x2800:04. -/
def fallbackBits (s : State) : Nat := maskOf 12 (fun t => decide ((Tab.look {} s.clk.apart t).code ≠ 0))

/-- The device decides a step (R402): for a step up VCORE rises at once, at 25 mV/µs. -/
def decideStep (s : State) : State :=
  let target := lowestLimit s
  let goal := match s.clk.ramp with
    | some (c, _) => c
    | none => s.clk.vcore
  if !s.clk.running ∨ target ≤ goal then s
  else
    let time := (coreVolts target - coreVolts s.clk.vcore) * us / 25
    { s with clk.ramp := some (target, s.now + time) }

/-- The code VCORE will be set for by a moment; while it ramps, the lower of the two. -/
def vcoreBy (s : State) (t : Nat) : Nat := match s.clk.ramp with
  | some (c, e) => if e ≤ t then c else min c s.clk.vcore
  | none => s.clk.vcore

/-- The code the opening tick word announces (R401, R402): of the lowest limit when it differs from the clock in force,
a step up only when its ramp ends 200 ns before the following tick. -/
def announceable (s : State) : Option Nat :=
  let target := lowestLimit s
  if !s.clk.running ∨ target = s.clk.inForce then none
  else if target < s.clk.inForce ∨ target ≤ vcoreBy s (s.frame.start + frameCycles s.frame.code - 200) then some target
  else none

/-- A die's region generators move to its standby loop, at the package clock; the loops exchange roles (R402). -/
def joinClock (t : Nat) (s : State) : State :=
  { s with
    clk.apart := Tab.put {} t {} s.clk.apart
    clk.loopB := if t ∈ s.clk.loopB then s.clk.loopB.erase t else t :: s.clk.loopB }

/-- What a switching tick does to one die (R403): it follows, or runs on at its clock, halved for a step down; one whose
base die is in reset keeps its clock (R407). [DEDUCED, safe: log 39] -/
def switchDie (old new : Nat) (t : Nat) (s : State) : State :=
  if t ∈ s.clk.locked then joinClock t s
  else
    let a := Tab.look {} s.clk.apart t
    let from_ := if a.code = 0 then old else a.code
    if (baseState s (baseOfTower t)).resetAt.isSome then { s with clk.apart := Tab.put {} t { a with code := from_ } s.clk.apart }
    else
    let s := if t ∈ s.clk.lockFailed then s else raise 0x2806 (clkItems (some t) none (some old) (some new) none) s
    if a.halved then s else { s with clk.apart := Tab.put {} t { code := from_, halved := decide (new < from_) } s.clk.apart }

/-- Dies that can follow a step: those of towers in service whose reference is present. -/
def clockedTowers (s : State) : List Nat := allTowers.filter (towerUp s)

/-- A new phase takes effect at a tick (R388): the die's regions stop for its first 8 base cycles. -/
def realignDie (t : Nat) (s : State) : State :=
  allClusters.foldl (fun s k => addDebt t k ((8 * dieClock s t + 39) / 40) s) s

/-- What a tick does to the clocks: the announced step takes place, dies that have locked since join, new phases and
realigned crossings take effect, and the next step is announced. [DEDUCED, safe: log 39; DEDUCED, safe: log 59] -/
def clockBoundary (s : State) : State :=
  let s := match s.clk.announced with
    | some c =>
      let old := s.clk.inForce
      let s := (clockedTowers s).foldl (fun s t => switchDie old c t s) s
      raise 0x2802 (clkItems none none (some old) (some c) none) { s with
        clk.inForce := c
        clk.announced := none
        clk.ramp := if c < old then some (c, s.now + (coreVolts old - coreVolts c) * us / 25) else s.clk.ramp }
    | none => s.clk.locked.foldl (fun s t => joinClock t s) s
  let new := (s.clk.references.filter (fun x => x.2.realign)).map (·.1)
  let s := { s with
    clk.locked := []
    clk.lockFailed := []
    clk.realign := []
    spad.poisonedLines := s.spad.poisonedLines.filter (fun x => x.phase.isSome)
    clk.references := s.clk.references.filter (fun x => !x.2.realign) }
  let s := new.foldl (fun s t => realignDie t s) s
  let s := decideStep s
  match announceable s with
  | some c => raise 0x2801 (clkItems none none (some s.clk.inForce) (some c) none) { s with clk.announced := some c }
  | none => s

/-! ### Stretching (R393, R397) -/

/-- DROOP_STRETCH (R397, R398): one stretched period; the hub's count only. The neighbours whose crossings with the
region are busy are held as R393 says. [DESIGN CHOICE, safe: log 38] -/
def droopStretch (t r droop : Nat) (senders receivers : List Nat) (s : State) : State :=
  if !s.clk.running ∨ !towerUp s t ∨ droop ≤ dictNat s 0x280009 then s
  else
    let s := addDebt t r 1 (count64 0x280005 1 s)
    if r = 12 then s
    else
      let s := senders.foldl (fun s k => holdSender t r k s) s
      receivers.foldl (fun s k => holdReceiver t r k s) s

def execDroopStretch (tower : Tower) (region : Region) (droop : BitVec 8) (senders receivers : List Cluster) (s : State) :
    Host.Outcome State Fault Refusal :=
  .next (droopStretch tower region droop.toNat (senders.map (·.val)) (receivers.map (·.val)) s)

/-- CROSSING_FAULT (R396): the lines are poisoned and the crossing is realigned at the next tick. -/
def crossingFault (t k port cycle lines : Nat) (s : State) : State :=
  raise 0x2808 (clkItems (some t) (some k) none none none) { s with
    clk.realign := addOnce (4 * (12 * t + k) + port % 4) s.clk.realign
    spad.poisonedLines := s.spad.poisonedLines ++
      [{ cluster := 12 * t + k, port := port, phase := none, first := cycle, lines := lines }] }

def execCrossingFault (tower : Tower) (cluster : Cluster) (port cycle lines : Nat) (s : State) :
    Host.Outcome State Fault Refusal :=
  .next (crossingFault tower cluster port cycle lines s)

/-- CLOCK_ALIGNMENT_DONE (R390): the die's crossings are empty, and the clearing of its clusters can start. -/
def alignmentDone (t : Nat) (s : State) : State :=
  { s with
    clk.aligned := addOnce t s.clk.aligned
    clk.realign := s.clk.realign.filter (fun x => decide (x / 48 ≠ t)) }

def execClockAlignmentDone (tower : Tower) (s : State) : Host.Outcome State Fault Refusal := .next (alignmentDone tower s)

/-! ### The base reference (R388, R582) -/

/-- The reference at a hub. -/
def reference (s : State) (t : Nat) : Reference := Tab.look {} s.clk.references t

/-- Change it. -/
def changeReference (t : Nat) (f : Reference → Reference) (s : State) : State :=
  { s with clk.references := Tab.change {} t f s.clk.references }

/-- A hub loses its reference: event 0x2807, and its tower is in tick loss. -/
def loseReference (t : Nat) (s : State) : State :=
  if !s.clk.running ∨ !towerUp s t ∨ (reference s t).lostAt.isSome then s
  else
    let s := raise 0x2807 (clkItems (some t) none none none none) (changeReference t (fun _ => { lostAt := some s.now }) s)
    changeReceiver t (fun r => { r with locked := false, lost := true, good := 0 }) s

/-- REFERENCE_LOSS. -/
def execReferenceLoss (tower : Tower) (s : State) : Host.Outcome State Fault Refusal := .next (loseReference tower s)

/-- The reference returns: the new phase takes effect at the next tick. -/
def returnReference (t : Nat) (s : State) : State :=
  if (reference s t).lostAt.isNone ∨ (reference s t).expired then s
  else changeReference t (fun r => { r with lostAt := none, realign := true }) s

/-- REFERENCE_RETURN. -/
def execReferenceReturn (tower : Tower) (s : State) : Host.Outcome State Fault Refusal := .next (returnReference tower s)

/-- REFERENCE_HOLDOVER_EXPIRY: 100 ms without it; the regions stop and the tower is out of service. -/
def holdoverExpiry (t : Nat) (s : State) : State :=
  match (reference s t).lostAt with
  | none => s
  | some t0 => if (reference s t).expired then s
    else keepOut (towerUnit t) (changeReference t (fun r => { r with expired := true }) (advanceTo (t0 + 100 * ms) s))

def execReferenceHoldoverExpiry (tower : Tower) (s : State) : Host.Outcome State Fault Refusal :=
  .next (holdoverExpiry tower s)

/-- REFCLK_LOSS: the Rooster holds the base reference over. -/
def execRefclkLoss (s : State) : Host.Outcome State Fault Refusal :=
  .next (if s.clk.refclkLost.isSome then s else { s with clk.refclkLost := some s.now })

/-- REFCLK_HOLDOVER_EXPIRY: after 100 ms tick words stop and every hub loses its reference. -/
def refclkExpiry (s : State) : State :=
  match s.clk.refclkLost with
  | none => s
  | some t0 =>
    if s.clk.ticksHeld.isSome ∨ s.frame.ticks = .off then s
    else
      let s := advanceTo (t0 + 100 * ms) s
      let s := { s with clk.ticksHeld := some (decide (s.frame.ticks = .optical)), frame.ticks := .off }
      allTowers.foldl (fun s t => loseReference t s) s

def execRefclkHoldoverExpiry (s : State) : Host.Outcome State Fault Refusal := .next (refclkExpiry s)

/-- The frames that the count has passed while no tick word was sent. [DESIGN CHOICE, safe: log 58] -/
def passFrames (s : State) : State :=
  let l := frameCycles s.frame.code
  let k := (s.now - s.frame.start) / l
  { s with
    frame.number := if s.frame.firstSent then s.frame.number + k else s.frame.number
    frame.start := s.frame.start + k * l }

/-- REFCLK_RETURN: the Rooster relocks and resumes sending at the frame number its count has reached. [DESIGN CHOICE,
safe: log 58] -/
def refclkReturn (s : State) : State :=
  let s := { s with clk.refclkLost := none }
  match s.clk.ticksHeld with
  | none => s
  | some optical =>
    let s := passFrames { s with clk.ticksHeld := none, frame.ticks := if optical then .optical else .provisional }
    allTowers.foldl (fun s t => returnReference t s) s

def execRefclkReturn (s : State) : Host.Outcome State Fault Refusal := .next (refclkReturn s)

/-! ### Frequency steps (R401 to R403) -/

/-- The effect of a write to 0x2800:01 (R401). -/
def clockAct : WriteAct := fun value s =>
  let c := leNat value
  if 8 ≤ c ∧ c ≤ 0x18 then .done (decideStep (setDictNat 0x280001 1 c s)) else refuseRange 0

/-- REQUESTED_CLOCK_WRITE. -/
def execRequestedClockWrite (req : Req) (value : Bytes) (s : State) : Host.Outcome State Fault Refusal :=
  .next (serveWrite req 0x280001 value clockAct s)

/-- VCORE_RAMP_DONE (R402). -/
def rampDone (s : State) : State := match s.clk.ramp with
  | none => s
  | some (c, e) => { advanceTo e s with clk.vcore := c, clk.ramp := none }

def execVcoreRampDone (s : State) : Host.Outcome State Fault Refusal := .next (rampDone s)

/-- PLL_LOCKED (R402, R403): a standby loop locks to the announced clock, or a die apart to the clock in force. -/
def pllLocked (t : Nat) (s : State) : State :=
  if towerUp s t ∧ (s.clk.announced.isSome ∨ (Tab.look {} s.clk.apart t).code ≠ 0) ∧ t ∉ s.clk.lockFailed then
    { s with clk.locked := addOnce t s.clk.locked }
  else s

def execPllLocked (tower : Tower) (s : State) : Host.Outcome State Fault Refusal := .next (pllLocked tower s)

/-- PLL_LOCK_FAIL (R403): not locked 500 ns before the switching tick; event 0x2806. -/
def pllLockFail (t : Nat) (s : State) : State :=
  if s.clk.announced.isNone ∨ t ∈ s.clk.locked ∨ t ∈ s.clk.lockFailed ∨ !towerUp s t then s
  else
    let s := advanceTo (s.frame.start + frameCycles s.frame.code - 500) s
    raise 0x2806 (clkItems (some t) none (some s.clk.inForce) s.clk.announced none)
      { s with clk.lockFailed := s.clk.lockFailed ++ [t] }

def execPllLockFail (tower : Tower) (s : State) : Host.Outcome State Fault Refusal := .next (pllLockFail tower s)

/-! ### Replica paths (R406) -/

/-- A region's replica. -/
def replica (s : State) (t r : Nat) : Replica := Tab.look {} s.clk.replicas (regionKey t r)

/-- Keep a reading: the smallest of each frame, for 64 frames. -/
def noteReading (t r reading : Nat) (s : State) : State :=
  let n := s.frame.count
  let keep (x : Replica) : List (Nat × Nat) :=
    let old := x.readings.filter (fun e => decide (n < e.1 + 64))
    match old.find? (fun e => decide (e.1 = n)) with
    | none => old ++ [(n, reading)]
    | some e => old.map (fun f => if f = e then (n, min e.2 reading) else f)
  { s with clk.replicas := Tab.change {} (regionKey t r) (fun x => { x with readings := keep x }) s.clk.replicas }

/-- REPLICA_WARN: event 0x2804 at most once per region per 64 frames. A reading below the critical level is no calm, and
stretches the period of a region that has met the critical condition. -/
def replicaWarn (t r reading : Nat) (s : State) : State :=
  if !s.clk.running ∨ !towerUp s t ∨ dictNat s 0x280007 ≤ reading then s
  else
    let s := noteReading t r reading s
    let low := decide (reading < dictNat s 0x280008)
    let s := if low ∧ s.clk.replicaLimit.isSome then { s with clk.replicaCalm := some s.now } else s
    let s := if low ∧ (replica s t r).critical then addDebt t r 1 (count64 0x280005 1 s) else s
    let due := match (replica s t r).warnedAt with
      | none => true
      | some f => decide (f + 64 ≤ s.frame.count)
    if due then
      raise 0x2804 (clkItems (some t) (some r) none none none) { s with
        clk.replicas := Tab.change {} (regionKey t r) (fun x => { x with warnedAt := some s.frame.count }) s.clk.replicas }
    else s

def execReplicaWarn (tower : Tower) (region : Region) (reading : BitVec 6) (s : State) : Host.Outcome State Fault Refusal :=
  .next (replicaWarn tower region reading.toNat s)

/-- REPLICA_CRITICAL: event 0x2805; the region's period is stretched and the replica limit falls to one code below the
clock in force. -/
def replicaCritical (t r reading : Nat) (s : State) : State :=
  if !s.clk.running ∨ !towerUp s t ∨ dictNat s 0x280008 ≤ reading then s
  else
    let s := raise 0x2805 (clkItems (some t) (some r) (some s.clk.inForce) none none) (noteReading t r reading s)
    let s := addDebt t r 1 (count64 0x280005 1 s)
    { s with
      clk.replicas := Tab.change {} (regionKey t r) (fun x => { x with critical := true }) s.clk.replicas
      clk.replicaLimit := some (max 8 (s.clk.inForce - 1))
      clk.replicaCalm := some s.now }

def execReplicaCritical (tower : Tower) (region : Region) (reading : BitVec 6) (s : State) :
    Host.Outcome State Fault Refusal :=
  .next (replicaCritical tower region reading.toNat s)

/-- REPLICA_RELEASE: 10 s with no critical reading; one code up, and none at the requested clock. -/
def replicaRelease (s : State) : State :=
  match s.clk.replicaLimit, s.clk.replicaCalm with
  | some c, some t =>
    let s := advanceTo (t + 10 * sec) s
    let c := c + 1
    decideStep { s with
      clk.replicaLimit := if dictNat s 0x280001 ≤ c then none else some c
      clk.replicaCalm := if dictNat s 0x280001 ≤ c then none else some s.now
      clk.replicas := s.clk.replicas.map (fun x => (x.1, { x.2 with critical := false })) }
  | _, _ => s

def execReplicaRelease (s : State) : Host.Outcome State Fault Refusal := .next (replicaRelease s)

/-- 0x2800:0A. -/
def replicaMargins (s : State) : Bytes :=
  (List.range 156).map (fun k =>
    let rs := ((Tab.look {} s.clk.replicas k).readings.filter (fun e => decide (s.frame.count < e.1 + 64))).map (·.2)
    BitVec.ofNat 8 ((leastOf rs).getD 0x3F))

end Sys2Proof.Machine
end

