-- ==== Sys2Proof/Machine/Recorder.lean ====
section
/-! DEFINITION. The event recorder, Hen (R556 to R568). -/

namespace Sys2Proof.Machine

/-! ### Records (R557, R565) -/

/-- The codes that are critical in every device (R565). -/
def criticalCodes : List Nat :=
  [0x2004, 0x2405, 0x2406, 0x4809, 0x5803, 0x5804, 0x5809, 0x6004, 0x6005, 0x6006, 0x6805, 0x7004, 0x7005]

/-- A code is critical: by the table, or by 0x6800:07. -/
def critical (s : State) (code : Nat) : Bool :=
  decide (code ∈ criticalCodes) ||
    decide (code ≠ 0) && (List.range 16).any (fun i => decide (fieldAt (dictBytes s 0x680007) (2 * i) 2 = code))

/-- Frame markers and start markers take no token. -/
def isMarker (code : Nat) : Bool := decide (code = 0x6801 ∨ code = 0x6805)

/-- The 32 bytes of a record. -/
def recordOf (r : Record) : Bytes :=
  leBytes 4 r.seq.toNat ++ leBytes 2 r.code.toNat ++ leBytes 1 r.flags.toNat ++ zeros 1 ++
    leBytes 2 r.suppressed.toNat ++ leBytes 2 r.absent.toNat ++ padTo 20 r.payload

/-- A record of an event (R557, R559), before it has a sequence. -/
def eventRecordOf (s : State) (e : Event) : Record :=
  { code := e.code
    flags := BitVec.ofNat 8 (flag (critical s e.code.toNat) + 2 * flag (decide (e.code = 0x6801)) + 4 * flag e.beforeOptical +
      8 * flag e.byLoader)
    absent := BitVec.ofNat 16 (maskOf 16 (fun i => decide (e.items[i]? = some none)))
    payload := (e.items.filterMap id).flatten }

/-! ### Rate limits (R562) -/

/-- N and T, in ms, of a code. -/
def rateLimit (s : State) (code : Nat) : Nat × Nat :=
  let tab := dictBytes s 0x680005
  match (List.range 32).find? (fun i => decide (code ≠ 0 ∧ fieldAt tab (8 * i) 2 = code)) with
  | some i => (fieldAt tab (8 * i + 2) 2, fieldAt tab (8 * i + 4) 2)
  | none => (nbits (dictNat s 0x680006) 15 0, nbits (dictNat s 0x680006) 31 16)

/-- A code's bucket. -/
def bucket (s : State) (code : Nat) : Bucket := Tab.look {} s.hen.buckets code

/-- Change it. -/
def changeBucket (code : Nat) (f : Bucket → Bucket) (s : State) : State :=
  { s with hen.buckets := Tab.change {} code f s.hen.buckets }

/-- Take a token. -/
def takeBucketToken (code : Nat) (s : State) : State :=
  changeBucket code (fun b => { b with missing := b.missing + 1, since := if b.missing = 0 then s.now else b.since }) s

/-- A record is suppressed. -/
def suppressEvent (code : Nat) (s : State) : State :=
  changeBucket code (fun b => { b with suppressed := b.suppressed + 1 })
    { s with hen.suppressedTotal := satAdd 32 s.hen.suppressedTotal 1 }

/-- TOKEN_BUCKET_REFILL: one step of T / N. [DESIGN CHOICE, safe: log 37] -/
def refillBucket (code : Nat) (s : State) : State :=
  let b := bucket s code
  let (n, t) := rateLimit s code
  if b.missing = 0 then s
  else
    let at_ := b.since + t * ms / max n 1
    changeBucket code (fun b => { b with missing := b.missing - 1, since := at_ }) (advanceTo at_ s)

def execTokenBucketRefill (code : BitVec 16) (s : State) : Host.Outcome State Fault Refusal :=
  .next (refillBucket code.toNat s)

/-! ### The critical log (R566) -/

/-- An entry: the record, the start number and a CRC-32. -/
def nvmEntry (s : State) (r : Record) : Bytes :=
  let body := recordOf r ++ leBytes 4 s.hen.startNumber
  body ++ leBytes 4 (crc32 body).toNat

/-- A critical record is copied to NVM on its arrival, and the slot after it is erased: at most 64 in any 1 s; event 0x6804
for one that is not. [DEDUCED, safe: log 36] -/
def copyCritical (r : Record) (s : State) : State :=
  let recent := s.hen.copies.filter (fun t => decide (s.now < t + sec))
  if recent.length ≥ 64 then raise 0x6804 [b2 r.code.toNat] { s with hen.copies := recent }
  else { s with
    hen.copies := recent ++ [s.now]
    hen.nvmLog := Tab.put [] ((s.hen.nvmNext + 1) % 1024) [] (Tab.put [] s.hen.nvmNext (nvmEntry s r) s.hen.nvmLog)
    hen.nvmNext := (s.hen.nvmNext + 1) % 1024
    hen.nvmWritten := satAdd 32 s.hen.nvmWritten 1 }

/-! ### Arrival (R558, R562, R563) -/

/-- A critical record: its NVM copy, then a place in the priority queue, or it is lost from the ring. [DEDUCED, safe:
log 36] -/
def arriveCritical (r : Record) (s : State) : State :=
  let code := r.code.toNat
  let r := { r with
    seq := s.hen.nextSeq
    suppressed := BitVec.ofNat 16 (min 0xFFFF (bucket s code).suppressed)
    carried := (bucket s code).suppressed }
  let s := copyCritical r s
  if s.hen.priorityQueue.length ≥ 64 then { s with hen.lostTotal := satAdd 32 s.hen.lostTotal 1 }
  else changeBucket code (fun b => { b with suppressed := 0 })
    { s with hen.nextSeq := s.hen.nextSeq + 1, hen.priorityQueue := s.hen.priorityQueue ++ [r] }

/-- An ordinary record or a marker takes a place in the input queue, or is lost without a sequence. -/
def arriveOrdinary (r : Record) (s : State) : State :=
  let code := r.code.toNat
  if s.hen.inputQueue.length ≥ 64 then { s with
    hen.lostSinceAccepted := s.hen.lostSinceAccepted + 1
    hen.lostTotal := satAdd 32 s.hen.lostTotal 1 }
  else
    let own := (bucket s code).suppressed
    let r := { r with
      seq := s.hen.nextSeq
      suppressed := BitVec.ofNat 16 (min 0xFFFF (own + s.hen.lostSinceAccepted))
      carried := own }
    let s := if isMarker code then s else takeBucketToken code s
    changeBucket code (fun b => { b with suppressed := 0 }) { s with
      hen.nextSeq := s.hen.nextSeq + 1
      hen.lostSinceAccepted := 0
      hen.inputQueue := s.hen.inputQueue ++ [r] }

/-- An event arrives at Hen. -/
def arrive (e : Event) (s : State) : State :=
  let r := eventRecordOf s e
  let code := e.code.toNat
  if critical s code then arriveCritical r s
  else if !isMarker code && decide (((rateLimit s code).1) ≤ (bucket s code).missing) then suppressEvent code s
  else arriveOrdinary r s

/-- EVENT_RECORD: the event at a position among those on their way. -/
def recordEvent (n : Nat) (s : State) : State :=
  match s.hen.arriving[n]? with
  | none => s
  | some e => arrive e { s with hen.arriving := s.hen.arriving.eraseIdx n }

def execEventRecord (index : Nat) (s : State) : Host.Outcome State Fault Refusal := .next (recordEvent index s)

/-! ### The ring (R560, R564) -/

/-- A record is written into its slot; an older one there is counted. -/
def putRingRecord (r : Record) (s : State) : State :=
  let slot := r.seq.toNat % 16384
  let above := flag (decide (Tab.look [] s.hen.ring slot ≠ []))
  { s with
    hen.overflow := satAdd 32 s.hen.overflow above
    hen.ring := Tab.put [] slot (recordOf r) s.hen.ring }

/-- A record reaches the ring, or the freeze buffer while the ring is frozen; one lost there leaves its suppressed count
for the next of its code. -/
def writeRingRecord (r : Record) (s : State) : State :=
  let notice (s : State) : State := eventNotice r.code.toNat (recordOf r) s
  if !s.hen.frozen then notice (putRingRecord r s)
  else if s.hen.freezeBuffer.length < 256 then notice { s with hen.freezeBuffer := s.hen.freezeBuffer ++ [r] }
  else changeBucket r.code.toNat (fun b => { b with suppressed := b.suppressed + r.carried }) { s with
    hen.lostInFreeze := s.hen.lostInFreeze + 1
    hen.lostTotal := satAdd 32 s.hen.lostTotal 1 }

/-- RECORD_RING_WRITE: the priority queue goes first. -/
def ringStep (s : State) : State := match s.hen.priorityQueue, s.hen.inputQueue with
  | r :: rest, _ => writeRingRecord r { s with hen.priorityQueue := rest }
  | [], r :: rest => writeRingRecord r { s with hen.inputQueue := rest }
  | [], [] => s

def execRecordRingWrite (s : State) : Host.Outcome State Fault Refusal := .next (ringStep s)

/-- The ring thaws: events 0x6802 and 0x6803. -/
def thawRing (s : State) : State :=
  let held := s.hen.freezeBuffer
  let lost := s.hen.lostInFreeze
  let s := held.foldl (fun s r => putRingRecord r s)
    { s with hen.frozen := false, hen.freezeBuffer := [], hen.lostInFreeze := 0 }
  raiseIf (lost ≠ 0) 0x6803 [b2 (min lost 0xFFFF)] (raise 0x6802 [b2 held.length] s)

/-- The effect of a write to 0x6800:03. -/
def freezeAct : WriteAct := fun value s =>
  let v := leNat value
  if v = 1 then
    if s.hen.frozen then refuseState
    else .done { s with hen.frozen := true, hen.frozenNext := s.hen.nextSeq, hen.freezeStart := s.now }
  else if v = 2 then
    if s.hen.frozen then .done (thawRing s) else .done s
  else refuseRange 0

/-- FREEZE: command 0x1. -/
def execFreeze (req : Req) (value : Bytes) (s : State) : Host.Outcome State Fault Refusal :=
  .next (if leNat value = 1 then serveWrite req 0x680003 value freezeAct s else s)

/-- THAW: command 0x2. -/
def execThaw (req : Req) (value : Bytes) (s : State) : Host.Outcome State Fault Refusal :=
  .next (if leNat value = 2 then serveWrite req 0x680003 value freezeAct s else s)

/-- FREEZE_LIMIT. -/
def freezeEnds (s : State) : State :=
  if s.hen.frozen then thawRing (advanceTo (s.hen.freezeStart + dictNat s 0x680004 * ms) s) else s

def execFreezeLimit (s : State) : Host.Outcome State Fault Refusal := .next (freezeEnds s)

/-- The effect of a write to 0x6800:09: accepted in Donkey mode or while the device is stopped. -/
def clearLogAct : WriteAct := fun value s =>
  if leNat value ≠ 1 then refuseRange 0
  else if s.start.donkey ∨ stopped s then .done { s with hen.nvmLog := [] }
  else refuseState

/-- CLEAR_CRITICAL_LOG. -/
def execClearCriticalLog (req : Req) (value : Bytes) (s : State) : Host.Outcome State Fault Refusal :=
  .next (serveWrite req 0x680009 value clearLogAct s)

/-! ### Starts, power loss and reading -/

/-- The recorder at a start (R558, R566): the ring is cleared, the start is counted, and the first record is the start
marker with sequence 0. -/
def startRecorder (s : State) : State :=
  let n := satAdd 32 s.hen.startNumber 1
  let coming := s.hen.arriving
  let s := { s with hen := { nvmLog := s.hen.nvmLog, nvmNext := s.hen.nvmNext, nvmWritten := s.hen.nvmWritten,
                             startNumber := n, copies := s.hen.copies } }
  let s := recordEvent 0 (raise 0x6805 [b4 n] s)
  reportFull 0x68000A n { s with hen.arriving := s.hen.arriving ++ coming }

/-- Every event on its way arrives: Hen's hold-up at a power loss (R413). -/
def arriveAll (s : State) : State :=
  s.hen.arriving.foldl (fun s e => arrive e s) { s with hen.arriving := [] }

/-- The sequence of a stored record. -/
def storedSeq (b : Bytes) : Nat := fieldAt b 0 4

/-- The next sequence, as it stood at the freeze while the ring is frozen (R564). [DEDUCED, safe: log 194] -/
def shownNext (s : State) : Nat := (if s.hen.frozen then s.hen.frozenNext else s.hen.nextSeq).toNat

/-- The oldest sequence in the ring. -/
def oldestSeq (s : State) : Nat :=
  let age (q : Nat) : Nat := (shownNext s + 2 ^ 32 - q) % 2 ^ 32
  (s.hen.ring.map (fun x => storedSeq x.2)).foldl (fun best q => if age best < age q then q else best) (shownNext s)

/-- 0x6800:01. -/
def recorderStatus (s : State) : Bytes :=
  leBytes 4 (shownNext s) ++ leBytes 4 (oldestSeq s) ++ leBytes 4 s.hen.overflow ++ leBytes 4 s.hen.suppressedTotal ++
    leBytes 4 s.hen.lostTotal ++ leBytes 1 (flag s.hen.frozen) ++ zeros 3 ++ leBytes 4 s.hen.nvmWritten ++
    leBytes 4 s.hen.startNumber

/-- 0x6800:02. -/
def ringBytes (s : State) : Bytes := ((List.range 16384).map (fun i => padTo 32 (Tab.look [] s.hen.ring i))).flatten

/-- An entry of the log as 0x6800:08 reads it: zero when its check fails (R566). [DEDUCED, safe: log 194] -/
def logEntry (b : Bytes) : Bytes := if fieldAt b 36 4 = (crc32 (b.take 36)).toNat then padTo 40 b else zeros 40

/-- 0x6800:08. -/
def logBytes (s : State) : Bytes := ((List.range 1024).map (fun i => logEntry (Tab.look [] s.hen.nvmLog i))).flatten

end Sys2Proof.Machine
end

