-- ==== Sys2Proof/Machine/Stop.lean ====
section
/-! DEFINITION. The device stops: power loss, hardware trip, a failed start or a commanded restart (R413, R430, R546,
R553). NVM and fuses keep their content, and after a commanded restart the always-on domain of B0 as well; what the
model lists of past outputs stays listed. -/

namespace Sys2Proof.Machine

/-- How the device stops. -/
inductive StopKind where
  | powerLoss | trip | failed
  /-- A commanded restart, and what it asked for: 1 restart, 2 into Donkey mode, 3 hold at Foal. -/
  | commanded (what : Nat)
  deriving DecidableEq, Repr

/-- The always-on domain of B0 stays powered. -/
def StopKind.warm : StopKind → Bool
  | .commanded _ => true
  | _ => false

/-- The recorder: NVM alone, or the whole of it. [DEDUCED, unsafe: log 62] -/
def stoppedHen (k : StopKind) (h : Hen) : Hen :=
  if k.warm then h
  else { nvmLog := h.nvmLog, nvmNext := h.nvmNext, nvmWritten := h.nvmWritten, startNumber := h.startNumber,
         copies := h.copies }

/-- The dictionary: its configuration records in NVM. [DEDUCED, unsafe: log 62] -/
def stoppedOm (m : Om) : Om :=
  { records := m.records, recordSequence := m.recordSequence, replies := m.replies, noticesSent := m.noticesSent,
    ipSent := m.ipSent, echoes := m.echoes, linkUp := m.linkUp }

/-- The frame: the count runs on, with the length it runs at, while the always-on domain is powered. A start that ends
before its first optical word has neither numbered a frame nor put a length in force for the count, and leaves both
held as they were. [DEDUCED, safe: log 135] -/
def stoppedFrame (k : StopKind) (f : Frame) : Frame :=
  if !k.warm then {}
  else if f.firstSent then
    { code := f.code, heldCode := f.code, heldNumber := f.number, heldStart := f.start, changePoint := f.changePoint,
      counted := true }
  else
    { code := f.code, heldCode := f.heldCode, heldNumber := f.heldNumber, heldStart := f.heldStart,
      changePoint := f.changePoint, counted := f.counted }

/-- Start-up: the counts in NVM, and what a commanded restart keeps. -/
def stoppedStart (k : StopKind) (now : Nat) (towers : List Nat) (x : Start) : Start :=
  let y : Start := {
    failedCount := x.failedCount
    lastFailedStep := x.lastFailedStep
    succeeded := x.succeeded
    noService := x.noService }
  match k with
  | .powerLoss => { y with previousStop := .powerLoss, noService := false }
  | .trip => { y with previousStop := .trip }
  | .failed => { y with restartAt := some (now + sec), lastFailedStep := x.step }
  | .commanded what => { y with
    cold := false
    commanded := what
    formerTowers := towers
    restartAt := some (now + if x.donkey then sec else 10 * ms) }

/-- A source keeps its retirement, its stand-in, its hours and its own commissioning power (R306). -/
def stoppedSource (x : Source) : Source := { state := x.state, ownPower := x.ownPower, lane := x.lane, lit := x.lit }

/-- Lasers and calibration: NVM. -/
def stoppedLas (l : Las) : Las :=
  { sources := l.sources.map (fun x => (x.1, stoppedSource x.2)), records := l.records, lastCommit := l.lastCommit,
    switchOvers := l.switchOvers, words := l.words, marks := l.marks, scaling := l.scaling }

/-- Supplies and heat: the inputs, Ox and NVM. [DEDUCED, safe: log 63] -/
def stoppedPow (k : StopKind) (p : Pow) : Pow :=
  let q : Pow := {
    inA := p.inA
    inB := p.inB
    profile := p.profile
    profileAt := p.profileAt
    trip := p.trip
    coolSince := p.coolSince
    tripToRecord := p.tripToRecord
    trips := p.trips
    alert := p.alert }
  if k.warm || decide (k = .failed) then { q with load := p.load, carried := p.carried, qualified := p.qualified }
  else q

/-- Security: the images, fuses and, over a commanded restart, which towers are not clean. [DEDUCED, unsafe: log 62] -/
def stoppedSec (k : StopKind) (towers : List Nat) (x : Sec) (former : Tab Nat) : Sec :=
  let y : Sec := {
    running := x.running
    nvm := x.nvm
    nvmInvalid := x.nvmInvalid
    svnBlown := x.svnBlown
    answers := x.answers }
  if k.warm then { y with unclean := towers.foldl (fun l t => addOnce t l) x.unclean, former := former } else y

/-- The twin: its epoch and its count. -/
def stoppedTwin (x : Twin) : Twin := { epoch := x.epoch, takeovers := x.takeovers, sent := x.sent, pulses := x.pulses }

/-- The device stops without a save. [DEDUCED, unsafe: log 62] -/
def stopDevice (k : StopKind) (s : State) : State :=
  let towers := allTowers.filter (fun t => (partitionOf s t).isSome)
  let former := towers.foldl (fun f t => Tab.put 0 t ((partitionOf s t).getD 0 + 1) f) s.sec.former
  { ({} : State) with
    pending := s.pending
    now := s.now
    freeDrawn := s.freeDrawn
    hen := stoppedHen k s.hen
    om := stoppedOm s.om
    frame := stoppedFrame k s.frame
    start := stoppedStart k s.now towers s.start
    spad := { retired := s.spad.retired }
    clk := { refclkLost := s.clk.refclkLost }
    host := { released := s.host.released, writes := s.host.writes, answers := s.host.answers, mctpSent := s.host.mctpSent }
    pho := { words := s.pho.words, slots := s.pho.slots }
    sums := { notices := s.sums.notices }
    lanes := { sent := s.lanes.sent, tapWords := s.lanes.tapWords }
    las := stoppedLas s.las
    ver := { sent := s.ver.sent }
    fab := { sent := s.fab.sent }
    pow := stoppedPow k s.pow
    sec := stoppedSec k towers s.sec former
    twin := stoppedTwin s.twin }

end Sys2Proof.Machine
end

