-- ==== Sys2Proof/Machine/Power.lean ====
section
/-! DEFINITION. Supplies, current caps, cap sharing, diodes, throttling and the hardware trip (R410 to R433), and the
DRAM bands the diodes select (R205 to R208). Powers are in mW, currents in 0.01 A, temperatures in 0.1 °C. -/

namespace Sys2Proof.Machine

/-- The payload items of R435: input, rail or diode; reading; codes. [DESIGN CHOICE, safe: log 127] -/
def powItems (which : Nat) (reading : Option Int) (a b : Option Nat) : List (Option Bytes) :=
  [b1 which, reading.map (fun r => leBytes 2 (unsigned 16 r)), a.bind b1, b.bind b1]

/-- The device is on: a start has begun, or the recovery loader runs. -/
def deviceOn (s : State) : Bool := decide (s.start.step ≠ 0) || s.start.donkey

/-! ### Two inputs (R410 to R413) -/

/-- VIN_A has been in range for 1 s. -/
def stableA (s : State) : Bool := s.pow.inA.good && decide (s.pow.inA.since + sec ≤ s.now)

/-- The input R411 chooses: false for VIN_A, true for VIN_B. Ox holds both stages open after a trip. -/
def chosenInput (s : State) : Option Bool :=
  if s.pow.trip.isSome then none
  else if stableA s then some false
  else if s.pow.inB.good then some true
  else if s.pow.inA.good then some false
  else none

/-- Let the stage of the chosen input carry the load. [DEDUCED, safe: log 107] -/
def chooseInput (s : State) : State :=
  let c := chosenInput s
  let was := s.pow.carried
  let s := { s with
    pow.load := c
    pow.carried := if c.isSome then c else was
    pow.qualified := if c.isNone then none else if s.pow.qualified.isSome then s.pow.qualified else some s.now
    pow.noInput := if c.isSome ∨ !deviceOn s then none else some (s.pow.noInput.getD s.now) }
  if !deviceOn s then s
  else if was = some false ∧ c = some true then raise 0x2001 (powItems 1 none none none) (count32 0x200004 1 s)
  else if was = some true ∧ c = some false then raise 0x2002 (powItems 0 none none none) (count32 0x200004 1 s)
  else s

/-- VIN_B becomes usable, or stops being so (R412). [DEDUCED, safe: log 107] -/
def changeB (good : Bool) (s : State) : State :=
  let changed := s.pow.inB.good != good
  let s := { s with pow.inB := { good := good, since := s.now } }
  raiseIf (changed && deviceOn s) 0x2003 (powItems 1 none none none) s

/-- A voltage at which an input of some device counts as failed, and one that is in range (R410); in between, an input
keeps its state. -/
def mayFail (mv : Nat) : Bool := decide (mv ≤ 31400 ∨ 40600 ≤ mv)
def isInRange (mv : Nat) : Bool := decide (32000 ≤ mv ∧ mv ≤ 40000)

/-- An input has lain outside its limits for the detection time. [DEDUCED, safe: log 107] -/
def inputFailed (backup : Bool) (mv : Nat) (s : State) : State :=
  if !mayFail mv then s
  else if backup then (if s.pow.inB.good then chooseInput (changeB false s) else s)
  else if s.pow.inA.good then chooseInput { s with pow.inA := { good := false, since := s.now } } else s

def execInputFailed (backup : Bool) (millivolts : Nat) (s : State) : Host.Outcome State Fault Refusal :=
  .next (inputFailed backup millivolts s)

/-- An input returns into range. [DEDUCED, safe: log 107] -/
def inputInRange (backup : Bool) (mv : Nat) (s : State) : State :=
  if !isInRange mv then s
  else if backup then (if s.pow.inB.good then s else chooseInput (changeB true s))
  else if s.pow.inA.good then s else chooseInput { s with pow.inA := { good := true, since := s.now } }

def execInputInRange (backup : Bool) (millivolts : Nat) (s : State) : Host.Outcome State Fault Refusal :=
  .next (inputInRange backup millivolts s)

/-- VIN_A_STABLE: the return is make-before-break (R412). -/
def vinAStable (s : State) : State :=
  if s.pow.inA.good then chooseInput (advanceTo (s.pow.inA.since + sec) s) else s

def execVinAStable (s : State) : Host.Outcome State Fault Refusal := .next (vinAStable s)

/-- POWER_LOSS (R413): event 0x2004 reaches Hen's hold-up, and the device stops. -/
def powerLoss (s : State) : State := match s.pow.noInput with
  | none => s
  | some t =>
    stopDevice .powerLoss (arriveAll (raise 0x2004 (powItems 0 none none none) (advanceTo (t + 10 * us) s)))

def execPowerLoss (s : State) : Host.Outcome State Fault Refusal := .next (powerLoss s)

/-- 0x2000:01. -/
def supplyStatus (s : State) : Nat :=
  flag (decide (s.pow.load = some true)) + 2 * flag s.pow.inA.good + 4 * flag s.pow.inB.good + 8 * flag (stableA s) +
    16 * flag (decide (s.start.previousStop = .powerLoss))

/-- A value in thousandths as an FP32. -/
def f32Milli (n : Nat) : BitVec 32 := if n = 0 then 0 else f32Ratio (n * 1024) 1000 - BitVec.ofNat 32 (10 * 2 ^ 23)

/-! ### Cap sharing (R419 to R423) -/

/-- The phase of its template a tower is in, as a class; none when it runs none. [DEDUCED, safe: log 97] -/
def phaseClassNow (s : State) (t : Nat) : Option Nat :=
  let slot := min 255 ((s.now - s.frame.start) / slotCycles s.frame.code)
  match partitionOf s t with
  | none => none
  | some p => match runningRun s p with
    | none => none
    | some r =>
      ((framePhases (runImage s r) (part s p).index).find?
        (fun w => decide (phaseStart w ≤ slot ∧ slot ≤ phaseEnd w))).map phaseClass

/-- The entry of the learner's table for a phase class, 64 for idle (R420, 0x2000:09). -/
def learnKey (t : Nat) (c : Option Nat) : Nat := 65 * t + c.getD 64

/-- The demand an entry stands for in 0.1 W, core and DRAM, and whether it is the uniform share (R421). [DESIGN
CHOICE, unsafe: log 95] -/
def demandOf (table : Tab Demand) (stored : Option (Tab Demand)) (pvar n key : Nat) : Nat × Nat × Bool :=
  let d := Tab.look {} table key
  let p := Tab.look {} (stored.getD []) key
  if d.learned then (d.core, d.dram, false)
  else if p.learned then (p.core, p.dram, false)
  else
    let total := 7 * pvar / (10 * n) / 100
    (total * 31 / 42, total - total * 31 / 42, true)

/-- P_var in mW (R419): P_pho and P_las are means over the windows of the last 100 ms. [DESIGN CHOICE, unsafe: log
95; DESIGN CHOICE, unsafe: log 99] -/
def railBudget (s : State) : Nat :=
  let recent := s.pow.powers.filter (fun e => decide (s.now / ms < e.1 + 100))
  let windows := max 1 ((recent.map (fun e => e.2.2.2)).sum)
  914 * dictNat s 0x200002 - (recent.map (fun e => e.2.1)).sum / windows - (recent.map (fun e => e.2.2.1)).sum / windows

/-- The demands of a tower in mW in the interval now open: core at the clock and voltage in force, and DRAM. -/
def towerDemand (s : State) (t : Nat) : Nat × Nat :=
  let sh := s.pow.shares
  let (c, d, _) := demandOf sh.table sh.stored sh.pvar sh.towers.length (learnKey t (phaseClassNow s t))
  (c * 100 * sh.code * sh.volts * sh.volts / (20 * 620 * 620), d * 100)

/-- Towers of partitions reported at half slack in this frame or in the one before (R423). -/
def reportedTowers (s : State) : List Nat := (s.pow.reportedBefore ++ s.pow.reported).flatMap (towersOf s)

/-- The share g[t] of a tower in mW (R422). [DESIGN CHOICE, unsafe: log 95] -/
def powerShare (s : State) (t : Nat) : Nat :=
  let sh := s.pow.shares
  let d := fun u => (towerDemand s u).1 + (towerDemand s u).2
  let all := (sh.towers.map d).sum
  let gmax := sh.gmax * 100
  let first := sh.towers.filter (fun u => decide (u ∈ reportedTowers s))
  let others := sh.towers.filter (fun u => decide (u ∉ reportedTowers s))
  let rest := sh.pvar - (first.map (fun u => min (d u) gmax)).sum
  let g := fun u =>
    if all ≤ sh.pvar then d u + (sh.pvar - all) / sh.towers.length
    else if u ∈ first then min (d u) gmax
    else rest * d u / (others.map d).sum
  let excess := (sh.towers.map (fun u => g u - gmax)).sum
  let below := sh.towers.filter (fun u => decide (g u < gmax))
  if g t < gmax then g t + excess * d t / (below.map d).sum else gmax

/-- Default ceiling or the lower one of 0x2000:05. -/
def railCeiling (s : State) (r : Nat) : Nat := fieldAt (dictBytes s 0x200005) (2 * r) 2

/-- The cap in force of a rail (R414, R422). [DESIGN CHOICE, unsafe: log 95; DESIGN CHOICE, safe: log 98] -/
def railCap (s : State) (r : Nat) : Nat :=
  let top := railCeiling s r
  let t := r % 12
  if 24 ≤ r ∨ t ∉ s.pow.shares.towers then top
  else
    let (c, d) := towerDemand s t
    if c + d = 0 then min top (Config.idleShare r).toNat
    else if r < 12 then min top (powerShare s t * c * 100 / ((c + d) * coreVolts s.pow.shares.code))
    else min top (powerShare s t * d * 100 / ((c + d) * 1100))

/-- A class in this frame, on a tower, uses the uniform share. -/
def usesUniform (s : State) : Bool :=
  let sh := s.pow.shares
  sh.towers.any (fun t =>
    let classes : List (Option Nat) := match (partitionOf s t).bind (runningRun s) with
      | none => [none]
      | some r => (framePhases (runImage s r) (part s r.partition).index).map (fun w => some (phaseClass w))
    classes.any (fun c => (demandOf sh.table sh.stored sh.pvar sh.towers.length (learnKey t c)).2.2))

/-! ### Learning (R420) -/

/-- A demand follows what it has observed. -/
def learn (l p : Nat) : Nat := min 0x7FFF (if l < p then p else l - (l - p) / 16)

/-- The observed demand of a current in 0.01 A at a voltage in mV, in 0.1 W, under one stretch in n. [DESIGN CHOICE,
unsafe: log 95] -/
def observed (current volts n : Nat) : Nat :=
  if n = 0 then current * volts / 10000 else current * volts * (n + 1) / (n * 10000)

/-- An entry learns from windows. [DEDUCED, safe: log 97] -/
def learnFrom (t : Nat) (c : Option Nat) (w : Seen) (s : State) : State :=
  let sh := s.pow.shares
  let key := learnKey t c
  let (lc, ld, _) := demandOf s.pow.learner s.pow.profile sh.pvar sh.towers.length key
  let v := coreVolts s.clk.vcore
  let pc := observed w.core v w.coreN * (20 * 620 * 620) / (s.clk.inForce * v * v)
  let d : Demand := { learned := true, core := learn lc pc, dram := learn ld (observed w.dram 1100 w.dramN) }
  { s with pow.learner := Tab.put {} key d s.pow.learner }

/-- A window joins the phase in progress of a tower, or teaches its idle entry. [DEDUCED, safe: log 97] -/
def seeWindow (t core dram : Nat) (s : State) : State :=
  let coreN := (Tab.look {} s.pow.rails t).n
  let dramN := (Tab.look {} s.pow.rails (12 + t)).n
  match phaseClassNow s t with
  | none => learnFrom t none { class_ := 64, core := core, coreN := coreN, dram := dram, dramN := dramN } s
  | some c =>
    let w : Seen := match Tab.look none s.pow.seen t with
      | some w => if w.class_ = c then w else { class_ := c }
      | none => { class_ := c }
    let w := if w.core < core then { w with core := core, coreN := coreN } else w
    let w := if w.dram < dram then { w with dram := dram, dramN := dramN } else w
    { s with pow.seen := Tab.put none t (some w) s.pow.seen }

/-- PHASE_END: the entry of the phase's class learns. -/
def phaseEnded (t : Nat) (s : State) : State := match Tab.look none s.pow.seen t with
  | none => s
  | some w => learnFrom t (some w.class_) w { s with pow.seen := Tab.put none t none s.pow.seen }

def execPhaseEnd (tower : Tower) (s : State) : Host.Outcome State Fault Refusal := .next (phaseEnded tower s)

/-- The profile is written to NVM (R421). [DESIGN CHOICE, safe: log 101] -/
def writeProfile (s : State) : State := { s with pow.profile := some s.pow.learner, pow.profileAt := s.now }

/-- PROFILE_WRITE_TIMER: every 600 s. -/
def execProfileWriteTimer (s : State) : Host.Outcome State Fault Refusal :=
  .next (if s.start.step < 3 then s else writeProfile (advanceTo (s.pow.profileAt + 600 * sec) s))

/-- The effect of 0x2000:08. -/
def profileAct : WriteAct := fun value s =>
  if leNat value = 1 then .done (writeProfile s)
  else if leNat value = 2 then .done { s with pow.learner := [], pow.profile := none }
  else refuseRange 0

/-- CAP_PROFILE_WRITE: command 0x1. -/
def execCapProfileWrite (req : Req) (value : Bytes) (s : State) : Host.Outcome State Fault Refusal :=
  .next (if leNat value = 1 then serveWrite req 0x200008 value profileAct s else s)

/-- CAP_PROFILE_CLEAR: command 0x2. -/
def execCapProfileClear (req : Req) (value : Bytes) (s : State) : Host.Outcome State Fault Refusal :=
  .next (if leNat value = 2 then serveWrite req 0x200008 value profileAct s else s)

/-- 0x2000:09. -/
def learnerTable (s : State) : Bytes :=
  let sh := s.pow.shares
  ((List.range 780).map (fun k =>
    let (c, d, _) := demandOf s.pow.learner s.pow.profile sh.pvar sh.towers.length k
    leBytes 2 (c + 0x8000 * flag (Tab.look {} s.pow.learner k).learned) ++ leBytes 2 d)).flatten

/-! ### Current caps (R414 to R418) -/

/-- n after a window (R415): one stretched period in n, 0 for none. -/
def stretchAfter (n current cap : Nat) : Nat :=
  if cap < current then
    let a := if n = 0 then (cap, current) else (n * cap, (n + 1) * current)
    max 2 (min 64 (a.1 / (a.2 - a.1)))
  else if n ≠ 0 ∧ 10 * current ≤ 9 * cap then (if 64 < 2 * n then 0 else 2 * n)
  else n

/-- One rail after a window. [DEDUCED, safe: log 100] -/
def railWindow (r current : Nat) (s : State) : State :=
  let cap := railCap s r
  let x := Tab.look {} s.pow.rails r
  let laser := decide (28 ≤ r)
  let above := if laser then decide (cap ≤ current) else decide (cap < current)
  let y := { x with
    cap := cap
    current := if laser then min cap current else current
    n := if laser then 0 else stretchAfter x.n current cap
    overCount := satAdd 16 x.overCount (flag above)
    raised := x.raised || above }
  let s := { s with
    pow.rails := Tab.put {} r y s.pow.rails
    clk.capCalm := if above then some s.now else s.clk.capCalm }
  raiseIf (above && !x.raised) (if laser then 0x2008 else 0x2005) (powItems r (some (current : Int)) none none) s

/-- n that a region obeys: the smallest of its commands (R399). -/
def commandedN (x : Stretch) : Nat := (leastOf ([x.vcore, x.vpho, x.package].filter (· ≠ 0))).getD 0

/-- The periods that stretching one in n has added in 1 µs. -/
def stretchedPeriods (s : State) (t n : Nat) : Nat := if n = 0 then 0 else 25 * dieClock s t / (n + 1)

/-- The periods that commanded stretches have added to a region's debt in a window of 2 µs (R398, R399): a command is
issued 1 µs after the window that caused it (R415). [DEDUCED, safe: log 96] -/
def stretchDebt (t r : Nat) (s : State) : State :=
  let x := Tab.look {} s.clk.stretches (regionKey t r)
  let k := stretchedPeriods s t x.before + stretchedPeriods s t (commandedN x)
  if k = 0 ∨ !s.clk.running ∨ !towerUp s t then s else addDebt t r k (count64 0x280005 k s)

/-- The commands on a tower's regions follow its rails and the package cap. [DEDUCED, safe: log 96] -/
def commandStretches (t : Nat) (s : State) : State :=
  let x : Stretch := {
    vcore := (Tab.look {} s.pow.rails t).n
    vpho := (Tab.look {} s.pow.rails (24 + baseOfTower t)).n
    package := if s.pow.packageStretch then 4 else 0 }
  { s with clk.stretches := (List.range 13).foldl (fun m r =>
      let old := Tab.look {} m (regionKey t r)
      Tab.put {} (regionKey t r) { x with before := commandedN old } m) s.clk.stretches }

/-- The input power of a window (R418). [DEDUCED, safe: log 100] -/
def inputWindow (power : Nat) (s : State) : State :=
  let cap := dictNat s 0x200002 * 1000
  let n := if 105 * cap < 100 * power then s.pow.overWindows + 1 else 0
  let starts := decide (5 ≤ n) && !s.pow.packageStretch
  raiseIf starts 0x2005 (powItems 0xFF none none none) { s with
    pow.inputPower := power
    pow.overWindows := n
    pow.packageStretch := if power ≤ cap then false else s.pow.packageStretch || starts }

/-- The powers of the VPHO and VLAS rails of a window join the means of R419. [DESIGN CHOICE, unsafe: log 99] -/
def notePowers (pho las : Nat) (s : State) : State :=
  let m := s.now / ms
  let old := s.pow.powers.filter (fun e => decide (m < e.1 + 100))
  let p := match old.find? (fun e => decide (e.1 = m)) with
    | none => old ++ [(m, pho, las, 1)]
    | some e => old.map (fun f => if f = e then (m, e.2.1 + pho, e.2.2.1 + las, e.2.2.2 + 1) else f)
  { s with pow.powers := p }

/-- CAP_WINDOW: the end of a window. -/
def capWindow (currents : List Nat) (power vinA vinB : Nat) (s : State) : State :=
  if !deviceOn s then s
  else
    let due := (s.now + 1999) / 2000 * 2000
    let due := if due ≤ s.pow.windowEnd then due + 2000 else due
    let s := { advanceTo due s with pow.windowEnd := due, pow.vinA := vinA, pow.vinB := vinB }
    let at_ := fun r => currents.getD r 0
    let s := allTowers.foldl (fun s t => (List.range 13).foldl (fun s r => stretchDebt t r s) s) s
    let s := (allTowers.filter (towerUp s)).foldl (fun s t => seeWindow t (at_ t) (at_ (12 + t)) s) s
    let s := (List.range 44).foldl (fun s r => railWindow r (at_ r) s) s
    let rail := fun r => (Tab.look {} s.pow.rails r).current
    let pho := ([24, 25, 26, 27].map rail).sum * 800 / 100
    let las := ((List.range 16).map (fun f => rail (28 + f))).sum * 2000 / 100
    let s := notePowers pho las (inputWindow power s)
    allTowers.foldl (fun s t => commandStretches t s) s

def execCapWindow (currents : List Nat) (inputPower vinA vinB : Nat) (s : State) : Host.Outcome State Fault Refusal :=
  .next (capWindow currents inputPower vinA vinB s)

/-- 0x2000:06. -/
def railStatus (s : State) : Bytes :=
  ((List.range 44).map (fun r =>
    let x := Tab.look {} s.pow.rails r
    leBytes 2 (if s.pow.windowEnd = 0 then railCeiling s r else x.cap) ++ leBytes 2 x.current ++ leBytes 1 x.n ++ zeros 1 ++
      leBytes 2 x.overCount)).flatten

/-- A change of the cap limit (R417). [DEDUCED, safe: log 100] -/
def setCapLimit (c : Option Nat) (s : State) : State :=
  raise 0x2006 (powItems 0xFF none s.clk.capLimit c) { s with clk.capLimit := c }

/-- CAP_LIMIT_RISE: 100 ms with no rail over its cap. -/
def capLimitRise (s : State) : State := match s.clk.capLimit, s.clk.capCalm with
  | some c, some t =>
    let s := advanceTo (t + 100 * ms) s
    decideStep (setCapLimit (if c + 1 = 0x18 then none else some (c + 1))
      { s with clk.capCalm := if c + 1 = 0x18 then none else some s.now })
  | _, _ => s

def execCapLimitRise (s : State) : Host.Outcome State Fault Refusal := .next (capLimitRise s)

/-- R417 and R418 at a frame boundary. -/
def lowerCapLimit (s : State) : State :=
  let strong (r : Nat) : Bool :=
    let n := (Tab.look {} s.pow.rails r).n
    decide (n ≠ 0 ∧ n ≤ 16)
  let c := max 8 (s.clk.inForce - 1)
  if (s.pow.packageStretch || (List.range 12).any strong || [24, 25, 26, 27].any strong) &&
      decide (c < s.clk.capLimit.getD 0x19) then
    setCapLimit (some c) { s with clk.capCalm := some (s.clk.capCalm.getD s.now) }
  else s

/-- What the cap controller does at a frame boundary. -/
def powerBoundary (s : State) : State :=
  let s := lowerCapLimit s
  let sh : Shares := {
    pvar := railBudget s
    code := s.clk.inForce
    volts := coreVolts s.clk.vcore
    gmax := dictNat s 0x200007
    towers := allTowers.filter (towerUp s)
    table := s.pow.learner
    stored := s.pow.profile }
  let s := { s with
    pow.shares := sh
    pow.reportedBefore := s.pow.reported
    pow.reported := []
    pow.rails := s.pow.rails.map (fun x => (x.1, { x.2 with raised := false })) }
  if !s.pow.uniform && usesUniform s then raise 0x2007 (powItems 0xFF none none none) { s with pow.uniform := true } else s

/-! ### Diodes (R424 to R426) -/

/-- A diode and its neighbours (R426). -/
def diodeNeighbours (i : Nat) : List Nat :=
  let mates (n k : Nat) : List Nat := ((List.range 3).map (fun j => 3 * (n / 3) + j + k)).filter (· ≠ i)
  if i < 12 then [12 + i, 24 + i / 3] ++ mates i 0
  else if i < 24 then [24 + (i - 12) / 3, i - 12] ++ mates (i - 12) 12
  else if i < 28 then
    (List.range 3).map (fun j => 12 + 3 * (i - 24) + j) ++ (if i = 24 then [] else [i - 1]) ++ (if i = 27 then [] else [i + 1])
  else
    (24 + baseOfFlock (i - 28)) ::
      (((List.range 16).filter (fun f => decide (baseOfFlock f = baseOfFlock (i - 28)))).map (28 + ·)).filter (· ≠ i)

/-- The die of a diode is powered: before step 5, and in Donkey mode, that of B0 alone (R549, R550). [DEDUCED, safe:
log 104] -/
def diodeLive (s : State) (i : Nat) : Bool := decide (i = 24) || decide (5 ≤ s.start.step)

/-- A diode's record. -/
def diode (s : State) (i : Nat) : Diode := Tab.look {} s.pow.diodes i

/-- Change it. -/
def changeDiode (i : Nat) (f : Diode → Diode) (s : State) : State :=
  { s with pow.diodes := Tab.change {} i f s.pow.diodes }

/-- A reading lies in the range of a sound diode. -/
def inDiodeRange (r : Int) : Bool := decide (-400 ≤ r ∧ r ≤ 1500)

/-- Diodes that are live and not broken. -/
def validDiodes (s : State) : List Nat := (List.range 44).filter (fun i => diodeLive s i && !(diode s i).broken)

/-- The highest of a list of readings. -/
def highest (xs : List Int) : Option Int := xs.foldl (fun m x => some (max x (m.getD x))) none

/-- A diode is found broken. -/
def breakDiode (i : Nat) (r : Option Int) (s : State) : State :=
  raise 0x2404 (powItems i r none none) (changeDiode i (fun d => { d with broken := true }) s)

/-- The first two conditions of R425 on one sample. [DEDUCED, safe: log 106] -/
def sampleDiode (i : Nat) (r : Option Int) (s : State) : State :=
  let d := diode s i
  match r with
  | none => breakDiode i none s
  | some x =>
    let far (a : Option Int) (by_ : Nat) : Bool := match a with
      | none => false
      | some y => decide (by_ < (x - y).natAbs)
    if !inDiodeRange x || (d.jump.isSome && far d.jump 30 && far d.last 30) then breakDiode i (some x) s
    else changeDiode i (fun d => { d with last := some x, jump := if far d.last 150 then d.last else none }) s

/-- The third condition: more than 25 °C from the highest valid neighbour for 1 s. -/
def compareDiode (i : Nat) (reading : Nat → Option Int) (s : State) : State :=
  let ns := (diodeNeighbours i).filter (fun j => decide (j ∈ validDiodes s))
  match reading i, highest (ns.filterMap reading) with
  | some x, some y =>
    if (x - y).natAbs ≤ 250 then changeDiode i (fun d => { d with apart := none }) s
    else
      let t := (diode s i).apart.getD s.now
      if t + sec ≤ s.now then breakDiode i (some x) s else changeDiode i (fun d => { d with apart := some t }) s
  | _, _ => changeDiode i (fun d => { d with apart := none }) s

/-- The stand-in of a broken diode (R426), and whether no neighbour is valid. -/
def standIn (s : State) (i : Nat) (reading : Nat → Option Int) : Option (Int × Bool) :=
  let valid := validDiodes s
  match highest (((diodeNeighbours i).filter (fun j => decide (j ∈ valid))).filterMap reading) with
  | some x => some (x + 10 * dictNat s 0x240006, false)
  | none => (highest (valid.filterMap reading)).map (fun x => (x + 100, true))

/-- The reading in force of a diode. -/
def setReading (i : Nat) (reading : Nat → Option Int) (s : State) : State :=
  if !(diode s i).broken then { s with pow.temps := Tab.put 0 i ((reading i).getD 0) s.pow.temps }
  else match standIn s i reading with
    | none => s
    | some (x, alone) =>
      let s := { s with pow.temps := Tab.put 0 i x s.pow.temps }
      raiseIf (alone && !(diode s i).alone) 0x2407 (powItems i (some x) none none) (changeDiode i (fun d => { d with alone := alone }) s)

/-! ### Hardware trip (R430 to R432) -/

/-- Ox opens both stages, asserts THERM_ALERT_N and latches its trip register; the device stops without a save.
[DEDUCED, safe: log 105] -/
def oxTrip (i : Nat) (reading : Int) (s : State) : State :=
  if s.pow.trip.isSome then s
  else stopDevice .trip { s with
    pow.trip := some (i, reading)
    pow.tripToRecord := some (i, reading)
    pow.coolSince := none
    pow.alert := true }

/-- OX_SAMPLE: every diode Ox finds sound. -/
def oxSample (readings : List Int) (unsound : List Nat) (s : State) : State :=
  let sound (i : Nat) : Bool := decide (i ∉ unsound) && (readings[i]?).any inDiodeRange
  let hot (i : Nat) : Bool := sound i && (readings[i]?).any (fun r => decide (1150 ≤ r))
  let s := (List.range 44).foldl (fun s i => changeDiode i (fun d => { d with hot := if hot i then d.hot + 1 else 0 }) s) s
  if s.pow.trip.isSome then
    let cool := (List.range 44).all (fun i => !sound i || (readings[i]?).any (fun r => decide (r < 850)))
    { s with pow.coolSince := if cool then some (s.pow.coolSince.getD s.now) else none }
  else match (List.range 44).find? (fun i => decide (2 ≤ (diode s i).hot)) with
    | some i => oxTrip i (readings.getD i 0) s
    | none => s

def execOxSample (readings : List Int) (unsound : List (Fin 44)) (s : State) : Host.Outcome State Fault Refusal :=
  .next (oxSample readings (unsound.map (·.val)) s)

/-- OX_RELEASE (R432): the 1 s gate counts from the release. THERM_ALERT_N is released with the inputs (R584), unless the
device holds its rails off for B0's diode (R550). [DEDUCED, safe: log 63] -/
def oxRelease (s : State) : State := match s.pow.trip, s.pow.coolSince with
  | some _, some t =>
    let s := advanceTo (t + 10 * sec) s
    chooseInput { s with
      pow.trip := none
      pow.coolSince := none
      pow.alert := s.start.noService
      pow.diodes := []
      pow.inA := { s.pow.inA with since := s.now }
      pow.inB := { s.pow.inB with since := s.now } }
  | _, _ => s

def execOxRelease (s : State) : Host.Outcome State Fault Refusal := .next (oxRelease s)

/-! ### DRAM bands (R205 to R208) -/

/-- The band of a reading, and the edge below a band. -/
def bandFor (r : Int) : Nat := if r ≤ 850 then 0 else if r ≤ 950 then 1 else if r ≤ 1050 then 2 else 3
def bandEdge (b : Nat) : Int := 750 + 100 * b

/-- The band its readings select: up at once, down by one after 1 ms at least 3 °C below the edge. [DEDUCED, safe:
log 102] -/
def selectBand (k : Stack) (r : Int) (now : Nat) : Stack :=
  if !k.sampled ∨ k.selected < bandFor r then { k with sampled := true, selected := bandFor r, coolSince := none }
  else if k.selected = 0 ∨ bandEdge k.selected - 30 < r then { k with coolSince := none }
  else
    let t := k.coolSince.getD now
    if t + ms ≤ now then { k with selected := k.selected - 1, coolSince := some now }
    else { k with coolSince := some t }

/-- The band a stack is bound for. -/
def bandTarget (k : Stack) : Nat := if k.drained && !k.resuming then 3 else k.pendingTiming.getD k.timingBand

/-- A sample of a stack's diode: a broken one raises the band of its stand-in by one (R207). [DEDUCED, safe: log 102;
DEDUCED, safe: log 103] -/
def sampleStack (t : Nat) (s : State) : State :=
  let first := !(stack s t).sampled
  let k := selectBand (stack s t) (Tab.look 0 s.pow.temps (12 + t)) s.now
  let want := if (diode s (12 + t)).broken then min 3 (k.selected + 1) else k.selected
  let s := changeStack t (fun _ => k) s
  if first ∧ want < 3 then
    changeStack t (fun k => { k with band := want, refreshBand := want, timingBand := want }) s
  else if bandTarget k < want then
    if want = 3 then
      raise 0x3804 (bandItems t (some 3)) (changeStack t (fun k => { k with
        drained := true
        resuming := false
        pendingRefresh := none
        pendingTiming := none }) (pauseScrub t s))
    else raise 0x3803 (bandItems t (some want)) (changeStack t (fun k => { k with
      band := want
      refreshBand := want
      pendingRefresh := none
      pendingTiming := some want }) s)
  else if want < bandTarget k then
    changeStack t (fun k => { k with
      selfRefresh := false
      resuming := k.drained
      pendingRefresh := some want
      pendingTiming := some want }) s
  else s

/-! ### Throttling (R427 to R429) -/

/-- The readings in force. -/
def readingsNow (s : State) : List (Nat × Int) :=
  ((List.range 44).filter (diodeLive s)).map (fun i => (i, Tab.look 0 s.pow.temps i))

/-- The threshold in 0.1 °C. -/
def throttleAt (s : State) : Int := 10 * (dictNat s 0x240003 : Int)

/-- Every reading lies below the threshold by a margin. -/
def coolBy (s : State) (margin : Int) : Bool := (readingsNow s).all (fun x => decide (x.2 ≤ throttleAt s - margin))

/-- In NORMAL, a reading at the threshold. -/
def requestThrottle (x : Nat × Int) (s : State) : State :=
  notify 0 (raise 0x2401 (powItems x.1 (some x.2) none none) { s with
    pow.throttle := .requested
    pow.alert := true
    pow.graceEnds := s.now + dictNat s 0x240004 * us
    pow.cool3 := none })

/-- After the grace time. -/
def enforceThrottle (x : Nat × Int) (s : State) : State :=
  let c := max 8 (s.clk.inForce - 2)
  notify 0 (raise 0x2402 (powItems x.1 (some x.2) (some s.clk.inForce) (some c)) { s with
    pow.throttle := .enforcing
    pow.thermalLimit := some c
    pow.windowAt := s.now
    pow.hotInWindow := false
    pow.cool5 := none })

/-- The throttle state after a sample. -/
def throttleSample (s : State) : State :=
  let hot := (readingsNow s).find? (fun x => decide (throttleAt s ≤ x.2))
  let s := match s.pow.throttle, hot with
    | .normal, some x => requestThrottle x s
    | _, _ => s
  match s.pow.throttle, hot with
  | .normal, _ => s
  | .requested, some x => if s.pow.graceEnds ≤ s.now then enforceThrottle x s else { s with pow.cool3 := none }
  | .requested, none =>
    if !coolBy s 30 then { s with pow.cool3 := none }
    else
      let t := s.pow.cool3.getD s.now
      if t + 10 * ms ≤ s.now then notify 0 { s with pow.throttle := .normal, pow.alert := false, pow.cool3 := none }
      else { s with pow.cool3 := some t }
  | .enforcing, _ => { s with
    pow.hotInWindow := s.pow.hotInWindow || hot.isSome
    pow.cool5 := if coolBy s 50 then some (s.pow.cool5.getD s.now) else none }

/-- THERMAL_LIMIT_STEP (R428). -/
def thermalStep (s : State) : State := match s.pow.throttle, s.pow.thermalLimit with
  | .enforcing, some c =>
    let at_ := s.pow.windowAt + ms
    { advanceTo at_ s with
      pow.windowAt := at_
      pow.hotInWindow := false
      pow.thermalLimit := some (if s.pow.hotInWindow then max 8 (c - 2) else c) }
  | _, _ => s

def execThermalLimitStep (s : State) : Host.Outcome State Fault Refusal := .next (thermalStep s)

/-- THERMAL_LIMIT_RISE (R429). -/
def thermalRise (s : State) : State := match s.pow.throttle, s.pow.thermalLimit, s.pow.cool5 with
  | .enforcing, some c, some t =>
    let s := advanceTo (t + 100 * ms) s
    if c + 1 < 0x18 then decideStep { s with pow.thermalLimit := some (c + 1), pow.cool5 := some s.now }
    else decideStep (notify 0 (raise 0x2403 (powItems 0xFF none (some c) none) { s with
      pow.throttle := .normal
      pow.thermalLimit := none
      pow.cool5 := none
      pow.alert := false }))
  | _, _, _ => s

def execThermalLimitRise (s : State) : Host.Outcome State Fault Refusal := .next (thermalRise s)

/-- 0x2400:05. -/
def throttleWord (s : State) : Nat :=
  (match s.pow.throttle with
    | .normal => 0
    | .requested => 1
    | .enforcing => 2) + 256 * s.pow.thermalLimit.getD 0x18

/-! ### The sample (R424) -/

/-- The Mule's trip (R431): a stand-in at 115 °C, or no valid diode. [DEDUCED, safe: log 105] -/
def muleTrip (s : State) : State :=
  let broken := (List.range 44).filter (fun i => diodeLive s i && (diode s i).broken)
  if validDiodes s = [] then
    let (v, s) := draw s
    oxTrip (bits v 5 0) (signed 16 (bits v 31 16)) s
  else match broken.find? (fun i => decide (1150 ≤ Tab.look 0 s.pow.temps i)) with
    | some i => oxTrip i (Tab.look 0 s.pow.temps i) s
    | none => s

/-- B0's diode is unsound before step 5: every rail off, THERM_ALERT_N asserted, no service (R550). -/
def holdRails (s : State) : State :=
  let s := stopDevice .failed s
  { s with start.noService := true, start.restartAt := none, pow.alert := true }

/-- DIODE_SAMPLE. [DEDUCED, safe: log 104] -/
def diodeSample (readings : List Int) (s : State) : State :=
  if s.start.step < 2 ∧ !s.start.donkey then s
  else
    let live := (List.range 44).filter (diodeLive s)
    let reading (i : Nat) : Option Int := readings[i]?
    let s := (live.filter (fun i => !(diode s i).broken)).foldl (fun s i => sampleDiode i (reading i) s) s
    let s := (live.filter (fun i => !(diode s i).broken)).foldl (fun s i => compareDiode i reading s) s
    if !diodeLive s 0 && (diode s 24).broken then holdRails s
    else
      let s := live.foldl (fun s i => setReading i reading s) s
      let s := (allTowers.filter (fun t => diodeLive s (12 + t))).foldl (fun s t => sampleStack t s) s
      muleTrip (throttleSample s)

def execDiodeSample (readings : List Int) (s : State) : Host.Outcome State Fault Refusal := .next (diodeSample readings s)

/-- 0x2400:01 and 0x2400:02. -/
def diodeReadings (s : State) : Bytes := ((List.range 44).map (fun i => leBytes 2 (unsigned 16 (Tab.look 0 s.pow.temps i)))).flatten
def brokenDiodes (s : State) : Nat := maskOf 44 (fun i => (diode s i).broken)

end Sys2Proof.Machine
end

