-- ==== Sys2Proof/Machine/Restart.lean ====
section
/-! DEFINITION. Start commands (R552 to R554). -/

namespace Sys2Proof.Machine

/-- Commands 0x1 to 0x3 are accepted: the device stopped, in Foal mode with no live run, or in Donkey mode. [DEDUCED,
safe: log 61] -/
def mayRestart (s : State) : Bool :=
  s.start.donkey || stopped s || (s.start.foal && decide (s.parts.runs = []))

/-- A commanded restart is an orderly stop: the cap profile is written (R421, R553). -/
def restart (what : Nat) (s : State) : State :=
  let s := if s.start.donkey then s else writeProfile s
  let s := if what = 1 then { s with start.failedCount := 0 } else s
  stopDevice (.commanded what) (arriveAll s)

/-- Step 6 begins after a hold. -/
def continueStart (s : State) : State :=
  { s with start.heldAtFoal := false, start.step := 6, start.stepBegan := s.now }

/-- The effect of 0x7000:04. [DEDUCED, safe: log 61] -/
def startAct : WriteAct := fun value s =>
  let v := leNat value
  if v = 0 ∨ 4 < v then refuseRange 0
  else if v = 4 then (if s.start.heldAtFoal then .done (continueStart s) else refuseState)
  else if mayRestart s then .done (restart v s)
  else refuseState

/-- RESTART: command 0x1 clears the failed-start count. -/
def execRestart (req : Req) (value : Bytes) (s : State) : Host.Outcome State Fault Refusal :=
  .next (if leNat value = 1 then serveWrite req 0x700004 value startAct s else s)

/-- RESTART_INTO_DONKEY: command 0x2. -/
def execRestartIntoDonkey (req : Req) (value : Bytes) (s : State) : Host.Outcome State Fault Refusal :=
  .next (if leNat value = 2 then serveWrite req 0x700004 value startAct s else s)

/-- RESTART_HOLD_AT_FOAL: command 0x3. -/
def execRestartHoldAtFoal (req : Req) (value : Bytes) (s : State) : Host.Outcome State Fault Refusal :=
  .next (if leNat value = 3 then serveWrite req 0x700004 value startAct s else s)

/-- CONTINUE_FROM_HOLD: command 0x4. -/
def execContinueFromHold (req : Req) (value : Bytes) (s : State) : Host.Outcome State Fault Refusal :=
  .next (if leNat value = 4 then serveWrite req 0x700004 value startAct s else s)

end Sys2Proof.Machine
end

