-- ==== Sys2Proof/Machine/TwinOps.lean ====
section
/-! DEFINITION. What the twin pair does by itself: packets, the frame relation, pairing, fencing, mirroring and the
boundaries of a takeover (R436 to R461). -/

namespace Sys2Proof.Machine

/-! ### Packets (R446, R447) -/
def tkLease : Nat := 1
def tkLeaseAck : Nat := 2
def tkHealth : Nat := 3
def tkQueue : Nat := 4
def tkImage : Nat := 5
def tkBlock : Nat := 6
def tkCommit : Nat := 7
def tkClaim : Nat := 8
def tkHandover : Nat := 9

def tpKind (k : Bytes) : Nat := fieldAt k 0 1
def tpState (k : Bytes) : Nat := fieldAt k 1 1
def tpEpoch (k : Bytes) : BitVec 16 := BitVec.ofNat 16 (fieldAt k 2 2)
def tpLength (k : Bytes) : Nat := fieldAt k 4 4
def tpStamp (k : Bytes) : BitVec 64 := BitVec.ofNat 64 (fieldAt k 8 8)
def tpFrame (k : Bytes) : Nat := fieldAt k 8 8 / 65536
def tpPayload (k : Bytes) : Bytes := k.drop 16

/-- The payload length a kind carries (R447). -/
def tpFits (kind len : Nat) : Bool :=
  match kind with
  | 1 | 8 => decide (len = 0)
  | 2 | 7 => decide (len = 8)
  | 3 => decide (len = 64)
  | 4 => decide (len = 80)
  | 5 => decide (16 < len ∧ len ≤ 4112)
  | 6 => decide (len = 4112)
  | 9 => decide (len = 16)
  | _ => false

/-- A packet of a kind, laid out as R446 and R447 say. -/
def tpIs (kind : Nat) (k : Bytes) : Bool :=
  decide (16 ≤ k.length ∧ tpKind k = kind ∧ tpLength k = k.length - 16) && tpFits kind (tpLength k)

/-- The bytes of a packet. -/
def twinPacket (s : State) (kind : Nat) (stamp : BitVec 64) (payload : Bytes) : Bytes :=
  leBytes 1 kind ++ leBytes 1 s.twin.state ++ leBytes 2 s.twin.epoch.toNat ++ leBytes 4 payload.length ++
    leBytes 8 stamp.toNat ++ payload

/-- Kinds that go ahead of every other (R446). -/
def tkUrgent (kind : Nat) : Bool := decide (kind = 1 ∨ kind = 2 ∨ kind = 3 ∨ kind = 8 ∨ kind = 9)

/-- Put the flits of an urgent packet before the first waiting packet that is not urgent. -/
def putUrgent (new : List (Bool × Bytes)) : List (Bool × Bytes) → List (Bool × Bytes)
  | [] => new
  | x :: xs => if x.1 && !tkUrgent (fieldAt x.2 0 1) then new ++ x :: xs else x :: putUrgent new xs

/-- A packet leaves on TW, when TW is up. -/
def sendTwinAt (kind : Nat) (stamp : BitVec 64) (payload : Bytes) (s : State) : State :=
  if !twUp s then s
  else
    let k := twinPacket s kind stamp payload
    let s := { s with twin.sent := s.twin.sent ++ [k] }
    let new := flitChunks 240 k.length true k
    pumpTx 8 (changeTx 8 (fun x => { x with waiting := if tkUrgent kind then putUrgent new x.waiting else x.waiting ++ new }) s)

/-- A packet with the sender's stamp. [DESIGN CHOICE, safe: log 7] -/
def sendTwin (kind : Nat) (payload : Bytes) (s : State) : State := sendTwinAt kind (packageStamp s) payload s

/-- Drive TWIN_LEASE low for some ns (R442). -/
def drivePulse (width : Nat) (s : State) : State := { s with twin.pulses := s.twin.pulses ++ [width] }

/-! ### States and events (R436, R440, R461) -/

/-- An event of the twin block: epoch, both states, and L, H or the region. [DESIGN CHOICE, safe: log 127] -/
def twinEvent (code : Nat) (extra : Option Bytes) (s : State) : State :=
  raise code [b2 s.twin.epoch.toNat, b1 s.twin.state, b1 s.twin.partner, extra] s

/-- Change the state; the host is notified (R505). -/
def setTwin (n : Nat) (s : State) : State := if s.twin.state = n then s else notify 1 { s with twin.state := n }

/-- Epoch a is newer than epoch b (R440). -/
def newerEpoch (a b : BitVec 16) : Bool := decide (1 ≤ (a - b).toNat ∧ (a - b).toNat ≤ 32767)

/-- The wire is faulty (R443). -/
def wireFaulty (s : State) : Bool := s.twin.stuck || s.twin.silent

/-- Whether the first string comes before the second. -/
def bytesLess : Bytes → Bytes → Bool
  | [], [] => false
  | [], _ => true
  | _, [] => false
  | a :: as, b :: bs => if a = b then bytesLess as bs else decide (a.toNat < b.toNat)

/-- Whether this package is the primary of the pair, none when the home roles clash (R437). -/
def homePrimary (s : State) (f : TwinFacts) : Option Bool :=
  let mine := dictNat s 0x580002
  if mine = 0 ∧ f.homeRole.val = 0 then some (bytesLess Config.serial f.serial)
  else if mine = f.homeRole.val then none
  else if mine = 0 then some (decide (f.homeRole.val = 2))
  else some (decide (mine = 1))

/-- Its home role is secondary. -/
def homeSecondary (s : State) : Bool := match s.twin.facts with
  | some f => decide (homePrimary s f = some false)
  | none => decide (dictNat s 0x580002 = 2)

/-- What outlives a change of state: the always-on and NVM values, the record, and what has been sent. -/
def freshTwin (s : State) (state : Nat) : Twin :=
  { state := state, epoch := s.twin.epoch, takeovers := s.twin.takeovers, record := s.twin.record,
    partner := s.twin.partner, facts := s.twin.facts, stuck := s.twin.stuck, sent := s.twin.sent,
    pulses := s.twin.pulses, releaseRuns := s.twin.releaseRuns, last := s.twin.last, report := s.twin.report,
    positions := s.twin.positions, runs := s.twin.runs, delta := s.twin.delta, phi := s.twin.phi,
    lastTw := s.twin.lastTw, lastPulse := s.twin.lastPulse, enteredAt := s.now, primary := s.twin.primary }

/-- Enter a state afresh. -/
def enterTwin (n : Nat) (s : State) : State := notify 1 { s with twin := freshTwin s n }

/-- A package whose twin mode is 1 enters PAIRING (R438). -/
def startPairing (s : State) : State :=
  if dictNat s 0x580001 = 1 ∧ s.twin.state = 0 then
    let s := enterTwin 1 s
    { s with twin.renewDue := s.now }
  else s

/-- Twin mode is left, or the pairing ends by command (R459): UNPAIRED. [DEDUCED, safe: log 70] -/
def leaveTwin (s : State) : State :=
  if s.twin.state = 0 then s
  else
    let s := if s.twin.paired then twinEvent 0x5802 none s else s
    enterTwin 0 s

/-- The pairing ends: both packages act as in PAIRING (R439). Runs exist in no such state (R436). [DEDUCED, safe: log
70] -/
def endPairing (s : State) : State :=
  let served := decide (s.twin.state = 2)
  let s := twinEvent 0x5802 none s
  let s := enterTwin 1 s
  { s with
    twin.renewDue := s.now
    twin.releaseRuns := s.twin.releaseRuns || served }

/-- ACTIVE: the lease begins, and a standby that follows is to be copied in full. -/
def enterActive (paired : Bool) (s : State) : State :=
  let s := enterTwin 2 s
  { s with
    twin.paired := paired, twin.absent := !paired, twin.renewDue := s.now, twin.readBack := s.now
    twin.lastTw := s.now, twin.healthAt := s.now, twin.copyAll := paired }

/-- The standby's side of the lease begins. -/
def follow (n : Nat) (s : State) : State :=
  let s := enterTwin n s
  { s with
    twin.paired := true, twin.renewedTw := s.now, twin.renewedWire := s.now
    twin.roundDue := s.now + 100 * ms }

/-- This package's own outstanding fabric requests are discarded (R444). -/
def discardFabric (s : State) : State :=
  let own (h : FabricHeld) : Bool :=
    let f := readHeader h.packet.header
    isRequest f.kind && decide (packageId s = some f.source)
  let s := { s with fab.held := s.fab.held.filter (fun h => !own h) }
  s.fab.outstanding.foldl (fun s o => skipTag (16 * o.tower + o.engine) o.tag (dropRequest o s)) s

/-- FENCED (R444): runs end at the next tick, requests are discarded, mirroring ends. -/
def fence (s : State) : State :=
  let s := enterTwin 6 s
  discardFabric (twinEvent 0x5809 none { s with twin.releaseRuns := true })

/-! ### The frame relation and pairing (R437 to R439) -/

/-- Base cycles of a stamp since its frame opened. -/
def stampCycles (s : State) (stamp : BitVec 64) : Nat :=
  bits stamp 15 8 * slotCycles s.frame.code + bits stamp 7 0 * offsetUnit s.frame.code

/-- Δ and φ from a partner's stamp and the one-way delay. [DEDUCED, unsafe: log 66] -/
def measure (s : State) (stamp : BitVec 64) (oneWay : Nat) : Int × Nat :=
  let l := frameCycles s.frame.code
  let p := stampCycles s stamp + oneWay
  let own := min (s.now - s.frame.start) (l - 1)
  (((stamp.toNat / 65536 + p / l : Nat) : Int) - s.frame.number, (own + l - p % l) % l)

/-- How far apart two values of φ are. [DEDUCED, unsafe: log 66] -/
def phiApart (s : State) (a b : Nat) : Nat :=
  let l := frameCycles s.frame.code
  min ((a + l - b % l) % l) ((b + l - a % l) % l)

/-- Both packages carry the same frame length code and capability set. [DESIGN CHOICE, safe: log 65] -/
def factsAgree (s : State) (f : TwinFacts) : Bool :=
  decide (f.lengthCode = s.frame.code) && decide (f.capabilities = capabilityBytes s)

/-- Pairing completes, with the roles of R438. [DEDUCED, unsafe: log 66] -/
def completePairing (prim : Bool) (s : State) : State :=
  let s := if s.twin.epoch = 0 then { s with twin.epoch := 1 } else s
  let s := { s with twin.primary := prim }
  let s := if s.twin.state = 2 then
      { s with
        twin.paired := true, twin.absent := false, twin.copyAll := true
        twin.healthAt := s.now }
    else if s.twin.partner ≠ 2 ∧ prim then enterActive true s
    else follow 3 s
  twinEvent 0x5801 none s

/-- A package in PAIRING, or an ACTIVE one that is alone, tries to pair after 16 stable tokens. [DESIGN CHOICE, safe:
log 65] -/
def tryPairing (f : TwinFacts) (s : State) : State :=
  if s.twin.stable < 16 ∨ !factsAgree s f then s
  else match homePrimary s f with
    | some prim => completePairing prim s
    | none => if s.twin.clash then s else twinEvent 0x5802 none { s with twin.clash := true }

/-- A lease token: the frame relation is measured anew. -/
def takeToken (stamp : BitVec 64) (oneWay : Nat) (f : TwinFacts) (s : State) : State :=
  let (d, p) := measure s stamp oneWay
  let s := { s with twin.facts := some f }
  let steady := decide (phiApart s p s.twin.phi ≤ 2)
  if s.twin.paired then (if steady then s else endPairing s)
  else if s.twin.state ≠ 1 ∧ s.twin.state ≠ 2 then s
  else if s.twin.stable ≠ 0 ∧ steady then tryPairing f { s with twin.stable := s.twin.stable + 1 }
  else { s with twin.stable := 1, twin.delta := d, twin.phi := p }

/-- A twin packet is heard: the partner's state, its epoch, and what they entail: a partner that has left the pair,
and two ACTIVE packages (R440, R459, R460). -/
def hearPartner (k : Bytes) (s : State) : State :=
  let e := tpEpoch k
  let newer := newerEpoch e s.twin.epoch || decide (s.twin.epoch = 0 ∧ e ≠ 0)
  let s := { s with twin.partner := tpState k, twin.lastTw := s.now }
  if tpState k = 0 ∧ s.twin.paired then leaveTwin s
  else if s.twin.state = 2 then
    if tpState k = 2 ∧ (newer ∨ (e = s.twin.epoch ∧ homeSecondary s)) then fence { s with twin.epoch := e } else s
  else if newer ∧ s.twin.state ≠ 5 then { s with twin.epoch := e }
  else s

/-- A packet of this kind is received: twin mode is on, TW up, the packet well-formed, and its stamp within the limit of
R4; no completion answers a twin packet (R446). -/
def onPacket (kind : Nat) (k : Bytes) (act : State → State) (s : State) : State :=
  if s.twin.state = 0 ∨ !twUp s ∨ !tpIs kind k ∨ !stampLegal s (tpStamp k) then s
  else
    let s := hearPartner k s
    if s.twin.state = 0 then s else act s

/-! ### Mirroring (R448 to R451) -/

/-- Designated region i: valid, device virtual base, bytes, partition. -/
def desigRecord (s : State) (i : Nat) : Bytes := slice (dictBytes s 0x580004) (16 * i) 16
def desigValid (r : Bytes) : Bool := nbit (fieldAt r 0 8) 0
def desigBase (r : Bytes) : Nat := nbits (fieldAt r 0 8) 47 21 * 2 ^ 21
def desigBytes (r : Bytes) : Nat := fieldAt r 8 4 * 2 ^ 21
def desigPartition (r : Bytes) : Nat := fieldAt r 12 1

/-- The valid designated regions. -/
def designated (s : State) : List Nat := (List.range 64).filter (fun i => desigValid (desigRecord s i))

/-- The region that holds an address of a partition. -/
def regionOf (s : State) (p va : Nat) : Option Nat :=
  (designated s).find? (fun i =>
    let r := desigRecord s i
    decide (desigPartition r = p ∧ desigBase r ≤ va ∧ va < desigBase r + desigBytes r))

/-- The DRAM block that an address of a partition translates to now. -/
def blockPlace (s : State) (p va : Nat) : Option Nat :=
  match (translateNow p p va .read s).1 with
  | .ok 0 a _ => some (a / 4096)
  | _ => none

/-- Read a 4 KiB block: data, poison mask, and the state after it (R451). -/
def readBlock (block : Nat) (s : State) : Bytes × Nat × State :=
  (List.range 64).foldl (fun (acc : Bytes × Nat × State) i =>
    let (data, code, s) := readLine (64 * block + i) acc.2.2
    (acc.1 ++ data, acc.2.1 + (if code = 6 then 2 ^ i else 0), s)) ([], 0, s)

/-- A BLOCK for one block of a region, when it is asked for or marked; counts those sent. -/
def sendBlock (frame p va : Nat) (asked : Bool) (marks : List Nat) (acc : Nat × State) : Nat × State :=
  match blockPlace acc.2 p va with
  | none => acc
  | some b =>
    if asked || decide (b ∈ marks) then
      let (data, poison, s) := readBlock b acc.2
      (acc.1 + 1, sendTwinAt tkBlock (openingStamp frame) (leBytes 8 (p * 2 ^ 56 + va) ++ leBytes 8 poison ++ data) s)
    else acc

/-- The BLOCKs of a frame. [DEDUCED, safe: log 72] -/
def sendBlocks (frame : Nat) (s : State) : Nat × State :=
  let marks := s.twin.marks
  (designated s).foldl (fun acc i =>
    let r := desigRecord s i
    let asked := s.twin.copyAll || decide (i ∈ s.twin.copyRegions)
    if !asked ∧ marks = [] then acc
    else (List.range (desigBytes r / 4096)).foldl (fun acc n =>
      sendBlock frame (desigPartition r) (desigBase r + 4096 * n) asked marks acc) acc) (0, s)

/-- The IMAGE packets of an image. -/
def sendImage (frame : Nat) (h : BitVec 16) (img : Bytes) (s : State) : State :=
  (List.range ((img.length + 4095) / 4096)).foldl (fun s i =>
    sendTwinAt tkImage (openingStamp frame)
      (leBytes 2 h.toNat ++ zeros 6 ++ leBytes 8 (4096 * i) ++ slice img (4096 * i) 4096) s) s

/-- A QUEUE packet. [DEDUCED, safe: log 72] -/
def sendQueue (frame : Nat) (c : TwinCommand) (s : State) : State :=
  sendTwinAt tkQueue (openingStamp frame)
    (leBytes 1 c.partition ++ zeros 3 ++ leBytes 4 c.position.toNat ++ leBytes 2 c.handle.toNat ++ zeros 6 ++
      leBytes 64 c.entry.toNat) s

/-- TW carries traffic at full or half width. -/
def twCarries (s : State) : Bool := twUp s && decide ((link s 8).state ≥ 2)

/-- Whether one block that is due meets a base die in reset, or a drained stack. -/
def blockWaits (s : State) (p va : Nat) (asked : Bool) : Bool :=
  match (translateNow p p va .read s).1 with
  | .ok 0 a _ =>
    let u := a / 2 ^ 36
    (asked || decide (a / 4096 ∈ s.twin.marks)) && (baseBusy s (baseOfTower u) || !stackServes s u)
  | .wait _ => true
  | _ => false

/-- Whether some block that is due cannot be read yet (R460): the frame's packets then wait, as while TW is down.
[DEDUCED, safe: log 76] -/
def mirrorWaits (s : State) : Bool :=
  (designated s).any (fun i =>
    let r := desigRecord s i
    let asked := s.twin.copyAll || decide (i ∈ s.twin.copyRegions)
    (asked || decide (s.twin.marks ≠ [])) &&
      (List.range (desigBytes r / 4096)).any (fun n => blockWaits s (desigPartition r) (desigBase r + 4096 * n) asked))

/-- The packets of the frame that has ended, in the order of R449; while TW is down or in recovery, or a block of a
base die in reset is due, they wait and go under the next COMMIT (R450, R460). [DEDUCED, safe: log 72] -/
def sendMirror (s : State) : State :=
  if s.twin.state ≠ 2 ∨ !s.twin.paired ∨ !twCarries s ∨ mirrorWaits s then s
  else
    let f := s.frame.number - 1
    let cmds := s.twin.commands
    let s := cmds.foldl (fun s c => sendQueue f c s) s
    let images := if s.twin.copyAll then s.parts.graphs.map (fun g => (g.handle, g.image))
      else (cmds.filter (fun c => eCode c.entry = 1)).map (fun c => (c.handle, c.image))
    let s := images.foldl (fun s i => sendImage f i.1 i.2 s) s
    let (n, s) := sendBlocks f s
    let s := sendTwinAt tkCommit (openingStamp f) (leBytes 4 cmds.length ++ leBytes 4 n) s
    { s with twin.commands := [], twin.marks := [], twin.copyAll := false, twin.copyRegions := [] }

/-- A block cannot be mirrored: dropped, its region invalid, event 0x580A (R451). -/
def dropBlock (p va : Nat) (s : State) : State :=
  let r := regionOf s p va
  let s := match r with
    | none => s
    | some i => { s with twin.invalid := addOnce i s.twin.invalid }
  twinEvent 0x580A (r.bind b1) s

/-- The standby writes a BLOCK through its own translation; one that meets a base die that takes no request, or a
drained stack, waits, and a later BLOCK of the same address waits behind it (R449, R451, R460). [DEDUCED, safe: log
76] -/
def writeBlock (k : Bytes) (s : State) : State :=
  let w := fieldAt (tpPayload k) 0 8
  let p := nbits w 59 56
  let va := nbits w 47 12 * 4096
  let poison := fieldAt (tpPayload k) 8 8
  if s.twin.waiting.any (fun b => decide (fieldAt (tpPayload b) 0 8 = w)) then
    { s with twin.waiting := s.twin.waiting ++ [k] }
  else
  let (x, t) := translateNow p p va .write s
  match x with
  | .wait _ => { s with twin.waiting := s.twin.waiting ++ [k] }
  | .ok 0 a _ =>
    let u := a / 2 ^ 36
    if baseBusy t (baseOfTower u) ∨ !stackServes t u then { s with twin.waiting := s.twin.waiting ++ [k] }
    else (List.range 64).foldl (fun s i =>
      (writeLine (a / 64 + i) 0 (slice (tpPayload k) (16 + 64 * i) 64) (nbit poison i) s).2) t
  | _ => dropBlock p va t

/-- BLOCKs that waited are tried again. [DEDUCED, safe: log 76] -/
def retryBlocks (s : State) : State :=
  s.twin.waiting.foldl (fun s k => writeBlock k s) { s with twin.waiting := [] }

/-- The image received for a handle. -/
def heardImage (s : State) (h : BitVec 16) : Bytes :=
  let ps := s.twin.pieces.filter (fun x => decide (x.handle = h))
  let len := (ps.map (fun x => x.offset + x.data.length)).foldl max 0
  ps.foldl (fun img x => overlay img x.offset x.data) (zeros len)

/-- A mirrored LOAD takes the active's handle (R138, R449); a refused one leaves the graph absent (R451). -/
def mirrorLoad (h : BitVec 16) (code : CodeReport) (s : State) : State :=
  let p := bits h 15 12
  let slot := bits h 11 8
  let img := heardImage s h
  if s.parts.graphs.any (fun g => decide (g.handle = h ∧ g.image = img)) then s
  else
    let old := s.parts.graphs.filter (fun g => decide (g.partition = p ∧ g.slot = slot))
    let s := old.foldl (fun s g => dropGraph p g.handle s) s
    match admission s p img code with
    | some _ => twinEvent 0x580A none s
    | none => placeGraph p slot (bits h 7 0) h img s

/-- What the standby keeps of a committed command for the takeover record. -/
def keepCommand (c : TwinCommand) (s : State) : State :=
  let p := c.partition
  let s := { s with twin.positions := Tab.put 0 p (c.position.toNat + 1) s.twin.positions }
  let live := Tab.look [] s.twin.runs p
  let id := eRun c.entry
  if eCode c.entry = 3 then
    let live := live.filter (· ≠ id) ++ [id]
    { s with twin.runs := Tab.put [] p (live.drop (live.length - 16)) s.twin.runs }
  else if eCode c.entry = 6 then { s with twin.runs := Tab.put [] p (live.filter (· ≠ id)) s.twin.runs }
  else s

/-- Handles of the LOADs a commit applies; the first full copy brings every graph's image. -/
def commitLoads (frame : Nat) (s : State) : List (BitVec 16) :=
  if s.twin.state = 3 then (s.twin.pieces.map (·.handle)).eraseDups
  else (s.twin.heard.filter (fun q => decide (q.frame = frame ∧ eCode q.command.entry = 1))).map (·.command.handle)

/-- The standby commits a frame (R449): LOADs and UNLOADs take effect, the other commands are kept, and L is set.
[DEDUCED, safe: log 73] -/
def commitFrame (frame : Nat) (codes : List CodeReport) (s : State) : State :=
  let none_ : CodeReport := { capability := none, scratchpad := none, routers := [] }
  let loads := commitLoads frame s
  let s := loads.zipIdx.foldl (fun (s : State) x => mirrorLoad x.1 (codes.getD x.2 none_) s) s
  let cmds := (s.twin.heard.filter (fun q => decide (q.frame = frame))).map (·.command)
  let s : State := cmds.foldl (fun s c =>
    keepCommand c (if eCode c.entry = 2 then dropGraph c.partition (eHandle c.entry) s else s)) s
  let s : State := { s with
    twin.heard := s.twin.heard.filter (fun q => decide (q.frame ≠ frame))
    twin.pieces := s.twin.pieces.filter (fun x => decide (x.frame ≠ frame))
    twin.blocks := Tab.put 0 frame 0 s.twin.blocks
    twin.last := some frame }
  if s.twin.state = 3 then setTwin 4 s else s

/-! ### The lag (R450) -/

/-- The active's current frame number, as either package knows it. -/
def activeFrame (s : State) : Int :=
  if s.twin.state = 2 then s.frame.number else (s.frame.number : Int) + s.twin.delta

/-- The lag in frames. -/
def lag (s : State) : Option Nat := s.twin.last.map (fun l => (activeFrame s - l).toNat)

/-- Event 0x5806 when the lag first exceeds its limit, and since when it is at most 2 frames. [DEDUCED, safe: log 75] -/
def watchLag (s : State) : State :=
  match lag s with
  | none => s
  | some n =>
    let above := decide (n > dictNat s 0x58000A)
    let s := { s with twin.closeSince := if n ≤ 2 then (s.twin.closeSince).or (some s.now) else none }
    let raised := s.twin.lagRaised
    let s := { s with twin.lagRaised := above }
    if above && !raised then twinEvent 0x5806 (s.twin.last.bind b8) s else s

/-! ### Takeover and handover (R454 to R459) -/

/-- A partner's stamp of a frame's opening, in this package's own numbering (R439). -/
def convertFrame (s : State) (frame : Nat) : BitVec 64 :=
  let l := frameCycles s.frame.code
  let t := ((frame * l : Nat) : Int) - (s.twin.delta * l + s.twin.phi)
  let c := t.toNat
  mkStamp (c / l) (c % l / slotCycles s.frame.code) (c % slotCycles s.frame.code / offsetUnit s.frame.code)

/-- The takeover record (R455). [DEDUCED, safe: log 71] -/
def takeoverRecord (t : TwinTakeover) (s : State) : Bytes :=
  let l := s.twin.last
  let none_ := t.none_ || l.isNone
  let stamp := match l with
    | some f => if none_ then 0 else (openingStamp f).toNat
    | none => 0
  let own := match l with
    | some f => if none_ then 0 else (convertFrame s f).toNat
    | none => 0
  let position (p : Nat) : Bytes :=
    let n := Tab.look 0 s.twin.positions p
    leBytes 4 (if n = 0 then 2 ^ 32 - 1 else n - 1)
  let ids (p : Nat) : Bytes :=
    let rs := Tab.look [] s.twin.runs p
    ((List.range 16).map (fun i => leBytes 4 (rs.getD i 0xFFFFFFFF).toNat)).flatten
  leBytes 8 stamp ++ leBytes 8 own ++ leBytes 2 s.twin.epoch.toNat ++
    leBytes 1 (flag none_ + 2 * flag t.forced + 4 * flag t.planned) ++ zeros 13 ++
    (allTowers.map position).flatten ++ (allTowers.map ids).flatten

/-- The claim: packets after L are discarded, the epoch rises, and the claim goes out on both paths. -/
def claimNow (t : TwinTakeover) (s : State) : State :=
  let s := notify 1 { s with
    twin.heard := [], twin.pieces := [], twin.blocks := []
    twin.waiting := s.twin.waiting.filter (fun k => s.twin.last.any (fun l => decide (tpFrame k ≤ l)))
    twin.epoch := s.twin.epoch + 1
    twin.state := 5 }
  let s := drivePulse 20000 (sendTwin tkClaim [] s)
  { s with twin.takeover := some { t with passed := 1 } }

/-- The takeover record is written, and the host notified. [DEDUCED, safe: log 77] -/
def writeRecord (t : TwinTakeover) (s : State) : State := notify 1 { s with twin.record := takeoverRecord t s }

/-- The third boundary: ACTIVE, event 0x5804, and the fabric notice with the former active's package ID (R456).
[DEDUCED, safe: log 74] -/
def takeOver (t : TwinTakeover) (s : State) : State :=
  let id := s.twin.facts.bind (·.packageId)
  let s := enterActive t.planned s
  let n := satAdd 32 s.twin.takeovers 1
  let s := reportFull 0x58000D n { s with twin.takeovers := n, twin.copyAll := false }
  let s := twinEvent 0x5804 (s.twin.last.bind b8) s
  match id with
  | none => s
  | some id => fabricNotice 0 id.toNat ccTargetDead s

/-- The next boundary of a takeover. [DEDUCED, safe: log 74] -/
def takeoverBoundary (s : State) : State :=
  match s.twin.takeover with
  | some t =>
    if t.passed = 0 then
      let s := claimNow t s
      if t.planned then writeRecord t s else s
    else if t.passed = 1 then
      let s := { s with twin.takeover := some { t with passed := 2 } }
      if t.planned then s else writeRecord t s
    else takeOver t s
  | none => s

/-- The standby has acknowledged L = H − 1 and claims at its next boundary (R458). -/
def plannedTakeover (s : State) : State :=
  match s.twin.handover with
  | some h => if s.twin.state = 4 ∧ h.acked ∧ s.twin.takeover.isNone then
      { s with twin.takeover := some { planned := true } } else s
  | none => s

/-- Every live run is released (R444, R458). [DEDUCED, safe: log 70] -/
def releaseAll (s : State) : State :=
  s.parts.runs.foldl (fun s r => releaseRun r.partition r.id ccRefused 0x0C02 true s) s

/-- The tick of H on the active: runs end and queues refuse; TW down before H abandons on both packages (R458,
R460). -/
def handoverTick (s : State) : State :=
  match s.twin.handover with
  | none => s
  | some h =>
    if s.twin.state = 4 ∧ !twUp s ∧ !h.acked ∧ s.twin.takeover.isNone then
      twinEvent 0x580B (b8 h.frame) { s with twin.handover := none }
    else if s.twin.state ≠ 2 ∨ s.twin.yielded.isSome then s
    else if !twUp s then twinEvent 0x580B (b8 h.frame) { s with twin.handover := none }
    else if s.frame.number < h.frame then s
    else releaseAll { s with twin.yielded := some s.now }

/-- What the twin block does at each boundary. The frame that opens has its number already. -/
def twinBoundary (s : State) : State :=
  let s := if s.twin.releaseRuns then releaseAll { s with twin.releaseRuns := false } else s
  let s := if s.twin.state = 6 ∧ twUp s then
      let s := enterTwin 1 s
      { s with twin.renewDue := s.now }
    else s
  let s := if s.twin.resume then { s with twin.resume := false, twin.yielded := none } else s
  let s := sendMirror (handoverTick s)
  let s := takeoverBoundary (plannedTakeover s)
  watchLag (retryBlocks s)

/-! ### What the dictionary reads -/

/-- 0x5800:03. -/
def twinStateWord (s : State) : Nat :=
  s.twin.state + 16 * s.twin.partner + 2 ^ 8 * flag s.twin.absent + 2 ^ 9 * flag (wireFaulty s) + 2 ^ 10 * flag (!twUp s) +
    2 ^ 11 * flag (s.twin.unfit || s.twin.partnerUnfit) + 2 ^ 16 * s.twin.epoch.toNat

/-- 0x5800:05 and 0x5800:06. -/
def twinLastStamp (s : State) : Nat := match s.twin.last with
  | some f => (openingStamp f).toNat
  | none => 0
def twinRelation (s : State) : Nat := unsigned 48 s.twin.delta + 2 ^ 48 * s.twin.phi

/-- 0x5800:0B: zero before the first takeover. -/
def twinRecordBytes (s : State) : Bytes := if s.twin.record = [] then zeros 848 else s.twin.record

end Sys2Proof.Machine
end

