-- ==== Sys2Proof/Machine/Twin.lean ====
section
/-! DEFINITION. The commands of the twin pair (R436 to R461). -/

namespace Sys2Proof.Machine

/-! ### Mode and lease (R438, R441 to R443) -/

/-- The effect of 0x5800:01. -/
def twinModeAct : WriteAct := fun value s =>
  let s := setDict 0x580001 value s
  .done (if leNat value = 0 then leaveTwin s else if s.start.step = 9 then startPairing s else s)

/-- TWIN_MODE_WRITE (R438). -/
def execTwinModeWrite (req : Req) (value : Bytes) (s : State) : Host.Outcome State Fault Refusal :=
  .next (serveWrite req 0x580001 value twinModeAct s)

/-- LEASE_RENEW_TIMER (R441): the active sends LEASE and a renew pulse; a package in PAIRING sends its token on TW. -/
def renewLease (s : State) : State :=
  if s.twin.state ≠ 1 ∧ s.twin.state ≠ 2 then s
  else
    let s := advanceTo s.twin.renewDue s
    let s := { s with twin.renewDue := s.twin.renewDue + 500 * us }
    let s := sendTwin tkLease [] s
    if s.twin.state = 2 then drivePulse 2000 s else s

def execLeaseRenewTimer (s : State) : Host.Outcome State Fault Refusal := .next (renewLease s)

/-- A renewal ends a takeover that has not reached its first boundary (R454, R460). -/
def cancelTakeover (s : State) : State :=
  match s.twin.takeover with
  | some t => if t.passed = 0 ∧ !t.planned then twinEvent 0x580B none { s with twin.takeover := none } else s
  | none => s

/-- The answers of the other path have stayed away for 2 ms (R443). [DEDUCED, safe: log 69] -/
def watchWire (since : Option Nat) (s : State) : State :=
  match since with
  | some t => if s.now ≥ t + 2 * ms ∧ !s.twin.silent then twinEvent 0x5808 none { s with twin.silent := true } else s
  | none => s

/-- A valid renewal on TW reaches the standby. [DEDUCED, safe: log 69] -/
def renewTw (s : State) : State :=
  let s := { s with
    twin.renewedTw := s.now
    twin.expiredTw := false
    twin.ackTw := s.twin.ackTw.or (some (s.now + 100 * us))
    twin.leaseSince := s.twin.leaseSince.or (some s.now) }
  watchWire s.twin.leaseSince (cancelTakeover s)

/-- LEASE (R439, R441). -/
def hearLease (k : Bytes) (oneWay : Nat) (f : TwinFacts) (s : State) : State :=
  let token := takeToken (tpStamp k) oneWay f
  if s.twin.state = 3 ∨ s.twin.state = 4 then
    if tpState k = 2 ∧ tpEpoch k = s.twin.epoch then token (renewTw s) else s
  else if s.twin.state = 1 then token { s with twin.ackTw := s.twin.ackTw.or (some (s.now + 100 * us)) }
  else if s.twin.state = 2 then token s
  else s

def execLease (packet : Bytes) (oneWay : Nat) (facts : TwinFacts) (s : State) : Host.Outcome State Fault Refusal :=
  .next (onPacket tkLease packet (hearLease packet oneWay facts) s)

/-- L is acknowledged; at L = H − 1 the standby claims at its next boundary (R458). -/
def ackLast (s : State) : State :=
  let s := match s.twin.handover with
    | some h => if s.twin.last = some (h.frame - 1) then { s with twin.handover := some { h with acked := true } } else s
    | none => s
  sendTwin tkLeaseAck (leBytes 8 (s.twin.last.getD 0)) s

/-- LEASE_ACK_TIMER (R441): 100 µs after a renewal on a path. -/
def acknowledge (wire : Bool) (s : State) : State :=
  match if wire then s.twin.ackWire else s.twin.ackTw with
  | none => s
  | some t =>
    let s := advanceTo t s
    if wire then drivePulse 6000 { s with twin.ackWire := none } else ackLast { s with twin.ackTw := none }

def execLeaseAckTimer (wire : Bool) (s : State) : Host.Outcome State Fault Refusal := .next (acknowledge wire s)

/-- LEASE_ACK (R439, R447): L of a standby in step, and the token. -/
def hearLeaseAck (k : Bytes) (oneWay : Nat) (f : TwinFacts) (s : State) : State :=
  let l := fieldAt (tpPayload k) 0 8
  let token := takeToken (tpStamp k) oneWay f
  if s.twin.state = 2 ∧ s.twin.paired then
    let s := if tpState k = 4 then { s with twin.last := some l } else s
    let s := match s.twin.handover with
      | some h => if s.twin.yielded.isSome ∧ tpState k = 4 ∧ l = h.frame - 1 then
          { s with twin.handover := some { h with acked := true } } else s
      | none => s
    let s := { s with twin.ackSince := s.twin.ackSince.or (some s.now) }
    token (watchWire s.twin.ackSince s)
  else if s.twin.state = 1 ∨ s.twin.state = 2 then token s
  else s

def execLeaseAck (packet : Bytes) (oneWay : Nat) (facts : TwinFacts) (s : State) : Host.Outcome State Fault Refusal :=
  .next (onPacket tkLeaseAck packet (hearLeaseAck packet oneWay facts) s)

/-- RENEW_PULSE (R442): a renewal to the standby, its own pulse read back to the active. Any pulse shows that the
wire is not stuck. -/
def seeRenew (width : Nat) (s : State) : State :=
  if width < 1000 ∨ width > 3000 ∨ s.twin.state = 0 then s
  else
    let s := { s with twin.lastPulse := s.now, twin.stuck := false }
    if s.twin.state = 2 then { s with twin.readBack := s.now }
    else if s.twin.state = 3 ∨ s.twin.state = 4 then
      cancelTakeover { s with
        twin.renewedWire := s.now, twin.expiredWire := false, twin.leaseSince := none, twin.silent := false
        twin.ackWire := s.twin.ackWire.or (some (s.now + 100 * us)) }
    else s

def execRenewPulse (width : Nat) (s : State) : Host.Outcome State Fault Refusal := .next (seeRenew width s)

/-- ACKNOWLEDGE_PULSE (R442, R443). -/
def seeAcknowledge (width : Nat) (s : State) : State :=
  if width < 5000 ∨ width > 8000 ∨ s.twin.state = 0 then s
  else
    let s := { s with twin.stuck := false }
    if s.twin.state = 2 then { s with twin.ackSince := none, twin.silent := false } else s

def execAcknowledgePulse (width : Nat) (s : State) : Host.Outcome State Fault Refusal := .next (seeAcknowledge width s)

/-- The former active of a handover is STANDBY on the claim, with no resync (R458). -/
def yieldTo (s : State) : State :=
  let s := match s.twin.handover with
    | some h => { s with twin.last := some (h.frame - 1) }
    | none => s
  follow 4 s

/-- A claim that prevails over the active (R444, R458). -/
def claimed (s : State) : State := if s.twin.yielded.isSome then yieldTo s else fence s

/-- CLAIM_PULSE (R442, R444): a pulse carries no epoch; a package claims with an epoch it has raised. [DEDUCED,
unsafe: log 68] -/
def seeClaim (width : Nat) (s : State) : State :=
  if width < 16000 ∨ width > 24000 ∨ s.twin.state = 0 then s
  else
    let s := { s with twin.stuck := false }
    if s.twin.state = 2 then claimed s else s

def execClaimPulse (width : Nat) (s : State) : Host.Outcome State Fault Refusal := .next (seeClaim width s)

/-- WIRE_STUCK (R443): low for over 50 µs. [DEDUCED, safe: log 69] -/
def wireStuck (s : State) : State :=
  if s.twin.state = 0 ∨ s.twin.stuck then s else twinEvent 0x5808 none { s with twin.stuck := true }

def execWireStuck (s : State) : Host.Outcome State Fault Refusal := .next (wireStuck s)

/-- The lease has expired on both paths: event 0x5803, and a takeover unless the wire is faulty or the standby unfit
(R443, R454, R460, R461). [DEDUCED, safe: log 67] -/
def leaseExpired (s : State) : State :=
  let s := twinEvent 0x5803 (s.twin.last.bind b8) s
  if wireFaulty s then s
  else if s.twin.unfit then twinEvent 0x5807 none s
  else { s with twin.takeover := some { none_ := decide (s.twin.state = 3) } }

/-- LEASE_PATH_EXPIRY (R443): 2 ms after the last renewal on a path. [DEDUCED, safe: log 67] -/
def pathExpiry (wire : Bool) (s : State) : State :=
  if (s.twin.state ≠ 3 ∧ s.twin.state ≠ 4) ∨ s.twin.takeover.isSome ∨ (if wire then s.twin.expiredWire else s.twin.expiredTw) then s
  else
    let s := advanceTo ((if wire then s.twin.renewedWire else s.twin.renewedTw) + 2 * ms) s
    let s := if wire then { s with twin.expiredWire := true } else { s with twin.expiredTw := true }
    if s.twin.expiredTw ∧ s.twin.expiredWire then leaseExpired s
    else if wire then s
    else twinEvent 0x5808 none s

def execLeasePathExpiry (wire : Bool) (s : State) : Host.Outcome State Fault Refusal := .next (pathExpiry wire s)

/-- PAIRING_TIMEOUT (R438): ACTIVE alone. -/
def pairingTimeout (s : State) : State :=
  if s.twin.state ≠ 1 then s
  else
    let s := advanceTo (max s.twin.enteredAt (max s.twin.lastTw s.twin.lastPulse) + 2 * sec) s
    twinEvent 0x5809 none (enterActive false s)

def execPairingTimeout (s : State) : Host.Outcome State Fault Refusal := .next (pairingTimeout s)

/-- FENCE_TIMEOUT (R444). -/
def fenceTimeout (s : State) : State :=
  if s.twin.state ≠ 2 then s
  else fence (advanceTo (max s.twin.lastTw s.twin.readBack + 1500 * us) s)

def execFenceTimeout (s : State) : Host.Outcome State Fault Refusal := .next (fenceTimeout s)

/-- CLAIM (R444, R458). -/
def hearClaim (before : State) (k : Bytes) (s : State) : State :=
  let e := tpEpoch k
  if s.twin.state = 2 ∧ (newerEpoch e before.twin.epoch ∨ (e = before.twin.epoch ∧ homeSecondary s)) then
    claimed { s with twin.epoch := e }
  else s

def execClaim (packet : Bytes) (s : State) : Host.Outcome State Fault Refusal :=
  .next (onPacket tkClaim packet (hearClaim s packet) s)

/-! ### Health (R452, R453) -/

/-- HEALTH (R453). -/
def hearHealth (k : Bytes) (s : State) : State :=
  if s.twin.state ≠ 2 then s
  else
    let unfit := nbit (fieldAt (tpPayload k) 0x14 4) 7
    let s := { s with twin.healthAt := s.now, twin.healthSilent := false, twin.partnerUnfit := unfit }
    if unfit then twinEvent 0x5807 none s else s

def execHealth (packet : Bytes) (s : State) : Host.Outcome State Fault Refusal :=
  .next (onPacket tkHealth packet (hearHealth packet) s)

/-- HEALTH_TIMEOUT (R453): 300 ms without a report. [DEDUCED, safe: log 77] -/
def healthTimeout (s : State) : State :=
  if s.twin.state ≠ 2 ∨ !s.twin.paired ∨ s.twin.healthSilent then s
  else twinEvent 0x5807 none { advanceTo (s.twin.healthAt + 300 * ms) s with twin.healthSilent := true }

def execHealthTimeout (s : State) : Host.Outcome State Fault Refusal := .next (healthTimeout s)

/-! ### Mirroring (R449 to R451) -/

/-- A package that receives mirroring. -/
def mirrors (s : State) : Bool := decide (s.twin.state = 3 ∨ s.twin.state = 4)

/-- QUEUE (R447, R449). -/
def hearQueue (k : Bytes) (s : State) : State :=
  let d := tpPayload k
  let c : TwinCommand :=
    { partition := fieldAt d 0 1, position := BitVec.ofNat 32 (fieldAt d 4 4), handle := BitVec.ofNat 16 (fieldAt d 8 2),
      entry := BitVec.ofNat 512 (fieldAt d 16 64) }
  if mirrors s then { s with twin.heard := s.twin.heard ++ [{ frame := tpFrame k, command := c }] } else s

def execQueue (packet : Bytes) (s : State) : Host.Outcome State Fault Refusal :=
  .next (onPacket tkQueue packet (hearQueue packet) s)

/-- IMAGE (R447, R449). -/
def hearImage (k : Bytes) (s : State) : State :=
  let d := tpPayload k
  let x : TwinPiece :=
    { frame := tpFrame k, handle := BitVec.ofNat 16 (fieldAt d 0 2), offset := fieldAt d 8 8, data := d.drop 16 }
  if mirrors s then { s with twin.pieces := s.twin.pieces ++ [x] } else s

def execImage (packet : Bytes) (s : State) : Host.Outcome State Fault Refusal :=
  .next (onPacket tkImage packet (hearImage packet) s)

/-- BLOCK (R449, R451). -/
def hearBlock (k : Bytes) (s : State) : State :=
  if mirrors s then
    writeBlock k { s with twin.blocks := Tab.change 0 (tpFrame k) (· + 1) s.twin.blocks }
  else s

def execBlock (packet : Bytes) (s : State) : Host.Outcome State Fault Refusal :=
  .next (onPacket tkBlock packet (hearBlock packet) s)

/-- TWIN_COMMIT (R449, R450): the counts must match. [DEDUCED, safe: log 73] -/
def hearCommit (k : Bytes) (codes : List CodeReport) (s : State) : State :=
  let f := tpFrame k
  let d := tpPayload k
  let queues := (s.twin.heard.filter (fun q => decide (q.frame = f))).length
  if mirrors s ∧ fieldAt d 0 4 = queues ∧ fieldAt d 4 4 = Tab.look 0 s.twin.blocks f then
    watchLag (commitFrame f codes s)
  else s

def execTwinCommit (packet : Bytes) (codes : List CodeReport) (s : State) : Host.Outcome State Fault Refusal :=
  .next (onPacket tkCommit packet (hearCommit packet codes) s)

/-! ### Self-test (R452, R453) and take-back (R457) -/

/-- The health report (0x5800:07). -/
def healthReport (failures : BitVec 7) (unfit : Bool) (s : State) : Bytes :=
  let hottest := (s.pow.temps.map (·.2)).foldl (fun (m : Option Int) t => some (max t (m.getD t))) none
  leBytes 8 (packageStamp s).toNat ++ leBytes 8 (twinLastStamp s) ++ leBytes 4 ((lag s).getD 0) ++
    leBytes 4 (failures.toNat + 128 * flag unfit) ++ leBytes 2 (unsigned 16 (hottest.getD 0)) ++
    leBytes 2 (maskOf 12 (towerUp s)) ++ leBytes 8 (maskOf 64 (fun i => decide (i ∈ s.twin.invalid))) ++ zeros 28

/-- The handover payload (R447). -/
def handoverPayload (code h : Nat) : Bytes := leBytes 1 code ++ zeros 7 ++ leBytes 8 h

/-- A primary standby in step proposes to take back (R457). -/
def proposeTakeBack (s : State) : State :=
  let close : Bool := match s.twin.closeSince with
    | some t => decide (s.now ≥ t + sec)
    | none => false
  if s.twin.state = 4 ∧ s.twin.primary ∧ dictNat s 0x580008 = 1 ∧ close ∧ s.twin.roundPassed ∧ s.twin.handover.isNone ∧
      s.twin.takeover.isNone then sendTwin tkHandover (handoverPayload 1 0) s
  else s

/-- SELF_TEST_ROUND (R452, R453): `unfit` when the round finds a failed unit of the minimal service set. -/
def selfTestRound (failures : BitVec 7) (unfit : Bool) (s : State) : State :=
  if !mirrors s then s
  else
    let was := s.twin.unfit
    let s := advanceTo s.twin.roundDue s
    let s := { s with twin.roundDue := s.now + 100 * ms, twin.unfit := unfit, twin.roundPassed := !unfit }
    let r := healthReport failures unfit s
    let s := sendTwin tkHealth r { s with twin.report := r }
    let s := if unfit && !was then twinEvent 0x5807 none s else s
    proposeTakeBack s

def execSelfTestRound (failures : BitVec 7) (unfit : Bool) (s : State) : Host.Outcome State Fault Refusal :=
  .next (selfTestRound failures unfit s)

/-- The active agrees to a handover: AGREE with H, event 0x5805 (R457). -/
def agree (s : State) : State :=
  let h := s.frame.number + dictNat s 0x58000C
  let s := sendTwin tkHandover (handoverPayload 2 h) { s with twin.handover := some { frame := h } }
  twinEvent 0x5805 (b8 h) s

/-- A handover can start: an active with a standby in step, none under way, and TW up. -/
def canHandOver (s : State) : Bool :=
  decide (s.twin.state = 2) && s.twin.paired && decide (s.twin.partner = 4) && s.twin.handover.isNone &&
    s.twin.yielded.isNone && twUp s

/-- A HANDOVER packet with this code. -/
def handoverIs (code : Nat) (k : Bytes) : Bool := decide (fieldAt (tpPayload k) 0 1 = code)

/-- HANDOVER_PROPOSE (R457). -/
def execHandoverPropose (packet : Bytes) (s : State) : Host.Outcome State Fault Refusal :=
  .next (if handoverIs 1 packet then onPacket tkHandover packet (fun s => if canHandOver s then agree s else s) s else s)

/-- HANDOVER_AGREE (R457): the active has raised the event. -/
def hearAgree (k : Bytes) (s : State) : State :=
  let h := fieldAt (tpPayload k) 8 8
  if s.twin.state = 4 ∧ s.twin.takeover.isNone then { s with twin.handover := some { frame := h } } else s

def execHandoverAgree (packet : Bytes) (s : State) : Host.Outcome State Fault Refusal :=
  .next (if handoverIs 2 packet then onPacket tkHandover packet (hearAgree packet) s else s)

/-- HANDOVER_ABANDON (R458): a claim always prevails. -/
def hearAbandon (s : State) : State :=
  match s.twin.handover with
  | some h => if s.twin.state = 4 ∧ s.twin.takeover.isNone then
      twinEvent 0x580B (b8 h.frame) { s with twin.handover := none } else s
  | none => s

def execHandoverAbandon (packet : Bytes) (s : State) : Host.Outcome State Fault Refusal :=
  .next (if handoverIs 3 packet then onPacket tkHandover packet hearAbandon s else s)

/-- HANDOVER_ACK_TIMEOUT (R458): 1 ms after H. -/
def ackTimeout (s : State) : State :=
  match s.twin.yielded, s.twin.handover with
  | some t, some h =>
    if s.twin.state ≠ 2 ∨ h.acked then s
    else
      let s := advanceTo (t + ms) s
      let s := sendTwin tkHandover (handoverPayload 3 h.frame) { s with twin.handover := none, twin.resume := true }
      twinEvent 0x580B (b8 h.frame) s
  | _, _ => s

def execHandoverAckTimeout (s : State) : Host.Outcome State Fault Refusal := .next (ackTimeout s)

/-! ### The twin command 0x5800:09 (R457, R459) -/

/-- Its effect. [DEDUCED, safe: log 74] -/
def twinCommandAct : WriteAct := fun value s =>
  match leNat value with
  | 1 => if canHandOver s then .done (agree s) else refuseState
  | 2 => if (s.twin.state = 4 ∨ s.twin.state = 1) ∧ s.twin.takeover.isNone then
      .done (claimNow { forced := true, none_ := s.twin.last.isNone } s) else refuseState
  | 3 => if s.twin.paired then
      let t : State := { s with twin.state := 0 }
      let sent := sendTwin tkLease [] t
      .done (leaveTwin { sent with twin.state := s.twin.state })
    else refuseState
  | _ => refuseRange 0

/-- PLANNED_HANDOVER (R457). -/
def execPlannedHandover (req : Req) (value : Bytes) (s : State) : Host.Outcome State Fault Refusal :=
  .next (if leNat value = 1 then serveWrite req 0x580009 value twinCommandAct s else s)

/-- FORCED_TAKEOVER (R459). -/
def execForcedTakeover (req : Req) (value : Bytes) (s : State) : Host.Outcome State Fault Refusal :=
  .next (if leNat value = 2 then serveWrite req 0x580009 value twinCommandAct s else s)

/-- UNPAIR (R459): the partner learns of it from a last packet whose sender state is UNPAIRED. -/
def execUnpair (req : Req) (value : Bytes) (s : State) : Host.Outcome State Fault Refusal :=
  .next (if leNat value = 3 then serveWrite req 0x580009 value twinCommandAct s else s)

/-! ### Designated regions (R448, R482) -/

/-- The offset of the first byte of a record that is outside its encoding. -/
def regionFault (r : Bytes) : Option Nat :=
  let w := fieldAt r 0 8
  if nbits w 20 1 ≠ 0 ∨ nbits w 63 48 ≠ 0 then some 0
  else if nbit w 0 && decide (fieldAt r 8 4 = 0) then some 8
  else if fieldAt r 12 1 > 11 then some 12
  else if fieldAt r 13 3 ≠ 0 then some 13
  else none

/-- The effect of 0x5800:04. -/
def designatedAct : WriteAct := fun value s =>
  let record (i : Nat) : Bytes := slice value (16 * i) 16
  let valid := (List.range 64).filter (fun i => desigValid (record i))
  let changed := (List.range 64).filter (fun i => decide (record i ≠ desigRecord s i))
  let touched := changed.flatMap (fun i =>
    (if desigValid (record i) then [desigPartition (record i)] else []) ++
      (if desigValid (desigRecord s i) then [desigPartition (desigRecord s i)] else []))
  let bad := ((List.range 64).filterMap (fun i => (regionFault (record i)).map (16 * i + ·))).head?
  match bad with
  | some d => refuseRange d
  | none =>
    if (valid.map (fun i => desigBytes (record i))).sum > 96 * 2 ^ 30 then refuseRange 0
    else if touched.any (fun p => decide (runsOf s p ≠ [])) then refuseState
    else if !nbit (dictNat s 0x60000A) 0 && changed.any (fun i => desigValid (record i) && tdiHeld s (desigPartition (record i))) then
      refuseState
    else .done { setDict 0x580004 value s with
      twin.copyRegions := changed.foldl (fun l i => if i ∈ valid then addOnce i l else l) s.twin.copyRegions }

/-- DESIGNATED_REGIONS_WRITE (R448). -/
def execDesignatedRegionsWrite (req : Req) (value : Bytes) (s : State) : Host.Outcome State Fault Refusal :=
  .next (serveWrite req 0x580004 value designatedAct s)

end Sys2Proof.Machine
end

