-- ==== Sys2Proof/Machine/Dictionary.lean ====
section
/-! DEFINITION. The object dictionary (R510 to R535): what every entry reads, what every write does, segmented
transfers, the configuration record, and the management port. -/

namespace Sys2Proof.Machine

/-! ### What an entry reads -/

/-- Type, access and world codes of R511, R512 and R514. -/
def typeCode : EntryType → Nat
  | .bool => 1
  | .u8 => 2
  | .u16 => 3
  | .u32 => 4
  | .u64 => 5
  | .f32 => 8
  | .str32 => 9
  | .blob => 10
def accessCode : Access → Nat
  | .ro => 1
  | .rw => 2
  | .rwf => 3
  | .wo => 4
  | .cmd => 5
def worldCode : EntryWorld → Nat
  | .s => 1
  | .both => 3

/-- A record of the catalogue 0x1000:08. -/
def catalogueRecord (key type access world length : Nat) : Bytes :=
  leBytes 2 (key / 256) ++ leBytes 1 (key % 256) ++ leBytes 1 type ++ leBytes 1 (access + 16 * world) ++ zeros 3 ++
    leBytes 4 length

/-- Every entry, those of subindex 0 included. [DEDUCED, safe: log 108] -/
def catalogueCount : Nat := entries.length + ((entries.map (fun e => e.key / 256)).eraseDups).length

/-- 0x1000:08: entries in ascending order, the record of subindex 0 before the others of its index. [DEDUCED, safe:
log 108] -/
def catalogue : Bytes :=
  let one (e : EntryInfo) : Bytes :=
    catalogueRecord e.key (typeCode e.type) (accessCode e.access) (worldCode e.world)
      (if e.key = 0x100008 then 12 * catalogueCount else e.length)
  (entries.foldl (fun (acc : Bytes × Nat) e =>
    let head := if acc.2 = e.key / 256 then [] else catalogueRecord (e.key / 256 * 256) 2 1 3 1
    (acc.1 ++ head ++ one e, e.key / 256)) ([], 0)).1

/-- The link-local address (R524): modified EUI-64 of the MAC address, most significant byte first. -/
def linkLocal : Bytes :=
  let m := beBytes 6 Config.mac.toNat
  [0xFE, 0x80] ++ zeros 6 ++ (m.take 1).map (· ^^^ 0x02) ++ (m.drop 1).take 2 ++ [0xFF, 0xFE] ++ m.drop 3

/-- 0x1100:09. -/
def transportCounters (s : State) : Bytes :=
  let m := s.om
  leBytes 8 (min m.served (2 ^ 64 - 1)) ++ leBytes 8 (min m.errors (2 ^ 64 - 1)) ++ leBytes 4 (min m.duplicates (2 ^ 32 - 1)) ++
    leBytes 4 (min m.rejected (2 ^ 32 - 1)) ++ leBytes 4 m.dropped ++ zeros 4

/-- 0x1000:0B. -/
def configStatus (s : State) : Nat :=
  flag s.om.recordApplied + 2 * flag s.om.recordWriteFailed + 256 * min s.om.defaultsUsed 0xFF +
    65536 * (s.om.recordSequence % 65536)

/-- 0x7000:01 and 0x7000:02. [DEDUCED, safe: log 43] -/
def startState (s : State) : Nat :=
  s.start.step + 16 * flag s.start.foal + 32 * flag s.start.donkey + 64 * flag s.start.heldAtFoal + 128 * flag s.start.noLock
def donkeyWord (s : State) : Nat := s.start.donkeyReason + 256 * s.start.lastFailedStep

/-- 0x7000:05. -/
def startLog (s : State) : Bytes :=
  ((List.range 9).map (fun i =>
    let x := Tab.look {} s.start.log (i + 1)
    leBytes 4 x.began ++ leBytes 3 (min x.duration 0xFFFFFF) ++ leBytes 1 x.result)).flatten

/-- 0x7000:06. -/
def serviceWord (s : State) : Nat :=
  maskOf 12 (towerUp s) + 2 ^ 12 * maskOf 8 (portUp s) + 2 ^ 20 * flag (twUp s) + 2 ^ 24 * maskOf 4 (baseUp s) +
    2 ^ 28 * maskOf 16 (flockUp s)

/-- 0x4000:01. -/
def pathState (s : State) : Bytes :=
  (List.range 12).flatMap (fun t =>
    leBytes 1 (maskOf 8 (fun w => decide (8 * t + w ∉ s.pho.egressDown))) ++
      leBytes 1 (maskOf 8 (fun w => decide (8 * t + w ∉ s.pho.ingressDown))))

/-- 0x5000:07. -/
def neighbourBytes (s : State) : Bytes :=
  (List.range 8).flatMap (fun p =>
    let n := Tab.look {} s.fab.neighbours p
    leBytes 2 n.id.toNat ++ leBytes 1 n.port ++ leBytes 1 (flag n.alive))

/-- 0x4420:02. -/
def calibrationStatus (s : State) : Nat :=
  maskOf 4 (fun b => decide (b ∈ s.las.onRecord)) + 16 * maskOf 4 (fun b => decide (b ∈ s.las.onFactory)) +
    256 * flag s.las.rrefFault

/-- Counters that are not kept in the table of counters. -/
def ownCounter (s : State) (key : Nat) : Option Nat := match key with
  | 0x344001 => some (s.arith.issued / 65536)
  | 0x344002 => some (s.arith.skipped / 65536)
  | 0x440006 => some s.las.switchOvers
  | 0x240007 => some s.pow.trips
  | 0x58000D => some s.twin.takeovers
  | 0x68000A => some s.hen.startNumber
  | _ => none

/-- Measured scalars. -/
def measuredScalar (s : State) (key : Nat) : Option Nat := match key with
  | 0x100002 => some stepping
  | 0x100007 => some ((s.now - s.start.poweredAt) / us)
  | 0x10000B => some (configStatus s)
  | 0x110001 => some Config.mac.toNat
  | 0x11000A => some s.host.eid.toNat
  | 0x118002 => some (hostStatus s)
  | 0x200001 => some (supplyStatus s)
  | 0x200003 => some (f32Milli s.pow.inputPower).toNat
  | 0x240002 => some (brokenDiodes s)
  | 0x240005 => some (throttleWord s)
  | 0x280002 => some s.clk.inForce
  | 0x280003 => some (limitReasons s)
  | 0x280004 => some (fallbackBits s)
  | 0x300002 => some (packageStamp s).toNat
  | 0x300003 => some s.frame.changePoint.toNat
  | 0x300004 => some (maskOf 12 (fun t => (receiver s t).locked))
  | 0x380002 => some (((List.range 12).map (fun t => (stack s t).band * 4 ^ t)).sum)
  | 0x380007 => some (maskOf 12 (scrubbing s))
  | 0x40200A => some (s.lanes.loopChecked * 2 ^ 32 + s.lanes.loopErrors)
  | 0x442002 => some (calibrationStatus s)
  | 0x442003 => some ((s.las.rref.map (fun d => (rrefOhms d).toNat)).getD 0)
  | 0x580003 => some (twinStateWord s)
  | 0x580005 => some (twinLastStamp s)
  | 0x580006 => some (twinRelation s)
  | 0x600006 => some (updateStatus s)
  | 0x600008 => some (cleanWord s)
  | 0x700001 => some (startState s)
  | 0x700002 => some (donkeyWord s)
  | 0x700003 => some s.start.failedCount
  | 0x700006 => some (serviceWord s)
  | _ => ownCounter s key

/-- Measured byte strings. -/
def entryBytes (s : State) (key : Nat) : Option Bytes := match key with
  | 0x100001 => some (ascii "KMD-LX12-768")
  | 0x100003 => some Config.serial
  | 0x100004 => some (imageVersion (runningImage s))
  | 0x100005 => some ((List.range 128).flatMap (fun i => leBytes 8 (dieIdentity i).toNat))
  | 0x100006 => some Config.uuid
  | 0x110002 => some linkLocal
  | 0x110009 => some (transportCounters s)
  | 0x200006 => some (railStatus s)
  | 0x200009 => some (learnerTable s)
  | 0x20000A => some (leBytes 4 (f32Milli s.pow.vinA).toNat ++ leBytes 4 (f32Milli s.pow.vinB).toNat)
  | 0x240001 => some (diodeReadings s)
  | 0x28000A => some (replicaMargins s)
  | 0x340001 => some (capabilityBytes s)
  | 0x342001 => some ((List.range 8064).map (fun i => BitVec.ofNat 8 ((Config.columnRepair i).toNat % 17)))
  | 0x342002 => some ((List.range 144).flatMap (fun k => leBytes 8 (Tab.look 0 s.spad.retired k)))
  | 0x400001 => some (pathState s)
  | 0x402001 => some (linkStateBytes s)
  | 0x402007 => some s.lanes.scanResult
  | 0x440001 => some (laserTable s)
  | 0x480001 => some (bundleMaps s)
  | 0x480007 => some (baseLog s)
  | 0x480008 => some (namedBytes s)
  | 0x500007 => some (neighbourBytes s)
  | 0x580007 => some s.twin.report
  | 0x58000B => some (twinRecordBytes s)
  | 0x680001 => some (recorderStatus s)
  | 0x680002 => some (ringBytes s)
  | 0x680008 => some (logBytes s)
  | 0x700005 => some (startLog s)
  | _ => none

/-- The value an entry reads. -/
def entryValue (s : State) (key : Nat) : Bytes :=
  if key = 0x100008 then catalogue
  else match entryInfo key with
    | none =>
      if 0x7F00 ≤ key / 256 then
        (Config.factoryEntry (BitVec.ofNat 16 (key / 256)) (BitVec.ofNat 8 key)).getD []
      else leBytes 1 ((highestSub (key / 256)).getD 0)
    | some e =>
      if e.access ≠ .ro then dictBytes s key
      else match measuredScalar s key, entryBytes s key with
        | some v, _ => leBytes e.length v
        | none, some b => padTo e.length b
        | none, none => leBytes e.length (counter s key)

/-- The length of the value of an entry. -/
def entryLength (key : Nat) : Nat :=
  if key = 0x100008 then 12 * catalogueCount
  else match entryInfo key with
    | some e => e.length
    | none =>
      if 0x7F00 ≤ key / 256 then
        ((Config.factoryEntry (BitVec.ofNat 16 (key / 256)) (BitVec.ofNat 8 key)).getD []).length
      else 1

/-! ### What a write does -/

/-- Give an entry its value. -/
def plainAct (key : Nat) : WriteAct := fun value s => .done (setDict key value s)

/-- A scalar within a range. -/
def rangeAct (key lo hi : Nat) : WriteAct := fun value s =>
  if lo ≤ leNat value ∧ leNat value ≤ hi then .done (setDict key value s) else refuseRange 0

/-- A period in seconds, or 0 for none. -/
def periodAct (key lo hi : Nat) : WriteAct := fun value s =>
  if leNat value = 0 then .done (setDict key value s) else rangeAct key lo hi value s

/-- 0x4400:02 lies above 0x4400:03, and 0x2800:07 above 0x2800:08. -/
def aboveAct (key lo hi other : Nat) : WriteAct := fun value s =>
  if dictNat s other < leNat value then rangeAct key lo hi value s else refuseRange 0

/-- The first element of a table that breaks a rule: its offset is the detail. -/
def tableAct (key count width : Nat) (bad : Bytes → Nat → Bool) (f : State → State) : WriteAct := fun value s =>
  match (List.range count).find? (bad value) with
  | some i => refuseRange (width * i)
  | none => .done (f (setDict key value s))

/-- 0x2000:05: a value above the default. -/
def ceilingsAct : WriteAct :=
  tableAct 0x200005 44 2 (fun v i => decide (defaultCeilings.getD i 0 < fieldAt v (2 * i) 2)) id

/-- A record of 0x3890:01 lies outside the DRAM, or has other bits set. -/
def directoryBad (v : Bytes) (i : Nat) : Bool :=
  let w := fieldAt v (8 * i) 8
  decide (nbits w 20 2 ≠ 0) || decide (nbits w 63 48 ≠ 0) || decide (12 * 2 ^ 36 ≤ nbits w 47 21 * 2 ^ 21)

/-- 0x3890:01. The hubs start with empty caches and masks. [DEDUCED, safe: log 111] -/
def directoryAct : WriteAct :=
  tableAct 0x389001 512 8 directoryBad
    (fun s => { s with dma.sharers := [], dma.cache := [] })

/-- 0x4030:01 (R285). -/
def boardTableAct : WriteAct := fun value s => match boardTableFault value with
  | some i => refuseRange i
  | none => .done (setDict 0x403001 value s)

/-- 0x1100:08: the sequences start again. [DEDUCED, safe: log 111] -/
def subscribersAct : WriteAct := fun value s =>
  let bad := (List.range 4).findSome? (fun i =>
    if fieldAt value (32 * i) 1 ≥ 16 then some (32 * i)
    else if fieldAt value (32 * i + 20) 4 ≥ 2 ^ 17 then some (32 * i + 20)
    else if fieldAt value (32 * i + 24) 8 ≠ 0 then some (32 * i + 24) else none)
  match bad with
  | some i => refuseRange i
  | none => .done { setDict 0x110008 value s with om.subscribers := [] }

/-- N and T of a rate limit. -/
def rateOk (n t : Nat) : Bool := decide (1 ≤ n ∧ n ≤ 4096 ∧ 1 ≤ t ∧ t ≤ 60000)

/-- A write of the rate limits fills every bucket (R562). [DEDUCED, safe: log 111] -/
def fillBuckets (s : State) : State :=
  { s with hen.buckets := s.hen.buckets.filterMap (fun b =>
      if b.2.suppressed = 0 then none else some (b.1, { b.2 with missing := 0 })) }

/-- 0x6800:05. -/
def overridesAct : WriteAct :=
  tableAct 0x680005 32 8 (fun v i =>
    let code := fieldAt v (8 * i) 2
    let twice := (List.range i).any (fun j => decide (fieldAt v (8 * j) 2 = code))
    decide (fieldAt v (8 * i + 6) 2 ≠ 0) ||
      (decide (code ≠ 0) && (twice || !rateOk (fieldAt v (8 * i + 2) 2) (fieldAt v (8 * i + 4) 2)))) fillBuckets

/-- 0x6800:06. -/
def defaultRateAct : WriteAct := fun value s =>
  let v := leNat value
  if rateOk (v % 65536) (v / 65536) then .done (fillBuckets (setDict 0x680006 value s)) else refuseRange 0

/-! ### The configuration record (R515 to R517) -/

/-- Entries that are never stored (R516). -/
def neverStored (key : Nat) : Bool :=
  decide (key ∈ [0x118003, 0x340002, 0x389001, 0x580004]) || decide (0x388001 ≤ key ∧ key ≤ 0x38800C) ||
    decide (0x504001 ≤ key ∧ key ≤ 0x50400C) || decide (0x601001 ≤ key ∧ key ≤ 0x60100C)

/-- Entries the record holds: access RW or RWF, world S (R515). -/
def storable (e : EntryInfo) : Bool :=
  (decide (e.access = .rw) || decide (e.access = .rwf)) && decide (e.world = .s) && !neverStored e.key

/-- The values in force of every storable entry (R517). -/
def valuesInForce (s : State) : Tab Bytes := (entries.filter storable).map (fun e => (e.key, dictBytes s e.key))

/-- One entry of a record: index, subindex, a zero byte, its length, and its value padded to a multiple of 4 bytes.
[DEDUCED, safe: log 192] -/
def recordEntry (key : Nat) (value : Bytes) : Bytes :=
  leBytes 2 (key / 256) ++ leBytes 1 (key % 256) ++ zeros 1 ++ leBytes 4 value.length ++ value ++
    zeros ((4 - value.length % 4) % 4)

/-- The bytes of a configuration record in NVM (R517): magic, sequence, length, CRC-32 with that field zero, entries.
[DEDUCED, safe: log 192] -/
def configBytes (r : ConfigRecord) : Bytes :=
  let body := r.values.flatMap (fun x => recordEntry x.1 x.2)
  let front := leBytes 4 0x4C434647 ++ leBytes 4 r.sequence ++ leBytes 4 (16 + body.length)
  front ++ leBytes 4 (crc32 (front ++ zeros 4 ++ body)).toNat ++ body

/-- The copy with the highest sequence among the valid ones. -/
def newestRecord (s : State) : Option (Nat × ConfigRecord) :=
  [0, 1].foldl (fun (m : Option (Nat × ConfigRecord)) i =>
    let r := Tab.look {} s.om.records i
    if !r.valid then m
    else match m with
      | none => some (i, r)
      | some (_, q) => if q.sequence < r.sequence then some (i, r) else m) none

/-- Write a record over the older copy: event 0x1106, and INTERNAL when NVM could not be written. [DEDUCED, safe: log
110] -/
def writeConfig (req : Requester) (key : Nat) (values : Tab Bytes) (ok : Bool) (s : State) : WriteResult :=
  let (i, q) := match newestRecord s with
    | some (j, r) => (1 - j, r.sequence + 1)
    | none => (0, 1)
  let s := raise 0x1106 [requesterItem req, bEntry key] s
  if ok then
    let r : ConfigRecord := { valid := true, sequence := q, values := values }
    .done { s with
      om.records := Tab.put {} i r s.om.records
      om.recordWriteFailed := false
      om.recordSequence := q }
  else .failed { s with
    om.records := Tab.change {} i (fun r => { r with valid := false }) s.om.records
    om.recordWriteFailed := true }

/-- The effect of 0x1000:0A. [DEDUCED, safe: log 110] -/
def configAct (req : Requester) (ok : Bool) : WriteAct := fun value s =>
  if leNat value = 1 then writeConfig req 0x10000A (valuesInForce s) ok s
  else if leNat value = 2 then
    let s := raise 0x1106 [requesterItem req, bEntry 0x10000A] s
    if ok then .done { s with om.records := [], om.recordWriteFailed := false }
    else .failed { s with om.recordWriteFailed := true }
  else refuseRange 0

/-- STORE_CONFIGURATION: command 0x1. -/
def execStoreConfiguration (req : Req) (value : Bytes) (nvmOk : Bool) (s : State) : Host.Outcome State Fault Refusal :=
  .next (if leNat value = 1 then serveWrite req 0x10000A value (configAct req.requester nvmOk) s else s)

/-- INVALIDATE_CONFIGURATION: command 0x2. -/
def execInvalidateConfiguration (req : Req) (value : Bytes) (nvmOk : Bool) (s : State) :
    Host.Outcome State Fault Refusal :=
  .next (if leNat value = 2 then serveWrite req 0x10000A value (configAct req.requester nvmOk) s else s)

/-- 0x1180:01 takes effect at the next start: it goes into the record when it is accepted (R517). -/
def layoutAct (req : Requester) (ok : Bool) : WriteAct := fun value s =>
  if 1 < leNat value then refuseRange 0
  else
    let old := ((newestRecord s).map (fun x => x.2.values)).getD []
    match writeConfig req 0x118001 (Tab.put [] 0x118001 value old) ok s with
    | .done s => .done (setDict 0x118001 value s)
    | r => r

/-! ### Every write -/

/-- The effect of a write to a plain RW or RWF entry. [DEDUCED, safe: log 111] -/
def settingAct (key : Nat) : WriteAct := match key with
  | 0x110003 => rangeAct key 1024 65535
  | 0x110004 => fun v s => if leNat v ≤ 7 ∨ leNat v = 0xFF then .done (setDict key v s) else refuseRange 0
  | 0x110005 => rangeAct key 2 8
  | 0x110006 => rangeAct key 16 255
  | 0x110008 => subscribersAct
  | 0x118004 => fun v s => .done (setDictNat key 2 (nbits (leNat v) 12 1 * 2) s)
  | 0x200002 => rangeAct key 300 700
  | 0x200005 => ceilingsAct
  | 0x200007 => rangeAct key 100 612
  | 0x240003 => rangeAct key 70 105
  | 0x240004 => rangeAct key 0 100000
  | 0x240006 => rangeAct key 0 20
  | 0x280007 => aboveAct key 2 32 0x280008
  | 0x280008 => rangeAct key 1 16
  | 0x280009 => rangeAct key 10 80
  | 0x380001 => rangeAct key 0 4
  | 0x380004 => periodAct key 600 604800
  | 0x389001 => directoryAct
  | 0x403001 => boardTableAct
  | 0x440002 => aboveAct key 50 99 0x440003
  | 0x440003 => rangeAct key 40 98
  | 0x442001 => periodAct key 60 86400
  | 0x500004 => rangeAct key 50 800
  | 0x500006 => rangeAct key 16 1000
  | 0x580002 => rangeAct key 0 2
  | 0x58000A => rangeAct key 1 65535
  | 0x58000C => rangeAct key 16 65535
  | 0x60000A => rangeAct key 0 1
  | 0x680004 => rangeAct key 10 10000
  | 0x680005 => overridesAct
  | 0x680006 => defaultRateAct
  | _ => plainAct key

/-- The effect of a write to any entry that can be written. -/
def writeAct (r : Requester) (nvmOk : Bool) (key : Nat) : WriteAct := match key with
  | 0x10000A => configAct r nvmOk
  | 0x118001 => layoutAct r nvmOk
  | 0x118003 => ownersAct
  | 0x200008 => profileAct
  | 0x280001 => clockAct
  | 0x300001 => frameLengthAct
  | 0x340002 => partitionMapAct
  | 0x342003 => clearRetiredAct
  | 0x380006 => handoverScrubAct
  | 0x388010 => invalidateAct r
  | 0x402006 => eyeScanAct
  | 0x402008 => loopbackAct none
  | 0x402009 => linkControlAct
  | 0x440005 => spareAct
  | 0x480004 => baseResetAct
  | 0x500001 => packageIdAct
  | 0x500002 => routeTableAct
  | 0x504010 => teardownAct
  | 0x580001 => twinModeAct
  | 0x580004 => designatedAct
  | 0x580009 => twinCommandAct
  | 0x600001 => worldMapAct
  | 0x600004 => stagingAct
  | 0x600005 => updateAct
  | 0x600007 => tenantHandoverAct
  | 0x60000B => portKeyAct
  | 0x680003 => freezeAct
  | 0x680009 => clearLogAct
  | 0x700004 => startAct
  | _ =>
    if 0x388001 ≤ key ∧ key ≤ 0x38800C then rootAct r (key - 0x388001)
    else if 0x504001 ≤ key ∧ key ≤ 0x50400C then bindingAct (key - 0x504001)
    else if 0x601001 ≤ key ∧ key ≤ 0x60100C then regionTableAct (key - 0x601001)
    else settingAct key

/-! ### Requests (R519 to R522, R527) -/

/-- A request's identity. -/
def requestId (req : Req) (op : BitVec 8) (key : BitVec 24) (offset : Nat) : RequestId :=
  { requester := req.requester, seq := req.seq, opcode := op, key := key.toNat, offset := offset }

/-- A message that breaks R518 or R519: the first check of R527. [DEDUCED, safe: log 191] -/
def malformed (req : Req) (opcode : BitVec 8) (key : BitVec 24) (offset : Nat) (s : State) : State :=
  let id := requestId req opcode key offset
  if !served s id.requester then s
  else if !sourceAccepted s id.requester then rejectSource id.requester s
  else match s.om.kept.find? (fun k => keptAlive s k && decide (k.reply.id = id)) with
    | some k => { s with om.replies := s.om.replies ++ [k.reply], om.duplicates := s.om.duplicates + 1 }
    | none => errorReply id stMalformed 0 0 s

/-- DICT_READ. -/
def dictRead (req : Req) (key : Nat) (s : State) : State :=
  let id := requestId req opRead (BitVec.ofNat 24 key) 0
  match admitRequest id s with
  | some s => s
  | none => match accessFault req.requester key false s with
    | some (st, d) => errorReply id st d 0 s
    | none =>
      if 1024 < entryLength key then errorReply id stTooLarge (entryLength key) 0 s
      else okReply id (entryValue s key) s

def execDictRead (req : Req) (key : BitVec 24) (s : State) : Host.Outcome State Fault Refusal :=
  .next (dictRead req key.toNat s)

/-- DICT_WRITE. -/
def dictWrite (req : Req) (key : Nat) (value : Bytes) (nvmOk : Bool) (s : State) : State :=
  let id := requestId req opWrite (BitVec.ofNat 24 key) 0
  if 1024 < value.length then malformed req opWrite (BitVec.ofNat 24 key) 0 s
  else match admitRequest id s with
  | some s => s
  | none => match accessFault req.requester key true s with
      | some (st, d) => errorReply id st d 0 s
      | none =>
        if 1024 < entryLength key then errorReply id stTooLarge (entryLength key) 0 s
        else applyWrite id value (writeAct req.requester nvmOk key) s

def execDictWrite (req : Req) (key : BitVec 24) (value : Bytes) (nvmOk : Bool) (s : State) :
    Host.Outcome State Fault Refusal :=
  .next (dictWrite req key.toNat value nvmOk s)

/-- MALFORMED_MESSAGE (R519, R527). -/
def execMalformedMessage (req : Req) (opcode : BitVec 8) (key : BitVec 24) (offset : BitVec 32) (s : State) :
    Host.Outcome State Fault Refusal :=
  .next (malformed req opcode key offset.toNat s)

/-! ### Segmented reads (R528) -/

/-- The snapshot of a requester and entry. -/
def snapshotOf (s : State) (r : Requester) (key : Nat) : Option Snapshot :=
  s.om.snapshots.find? (fun x => decide (x.requester = r ∧ x.key = key ∧ s.now < x.lastRead + 2 * sec))

/-- Take a snapshot: it replaces the requester's own of the entry; a ninth evicts the one least recently read. -/
def takeSnapshot (x : Snapshot) (s : State) : State :=
  let rest := s.om.snapshots.filter (fun y =>
    !decide (y.requester = x.requester ∧ y.key = x.key) && decide (s.now < y.lastRead + 2 * sec))
  let oldest := (leastOf (rest.map (·.lastRead))).getD 0
  let rest := if rest.length < 8 then rest
    else match rest.find? (fun y => decide (y.lastRead = oldest)) with
      | some y => rest.erase y
      | none => rest
  { s with om.snapshots := rest ++ [x] }

/-- SEG_READ. -/
def segRead (req : Req) (key offset length : Nat) (s : State) : State :=
  let id := requestId req opSegRead (BitVec.ofNat 24 key) offset
  if 1024 < length then malformed req opSegRead (BitVec.ofNat 24 key) offset s
  else match admitRequest id s with
  | some s => s
  | none => match accessFault req.requester key false s with
      | some (st, d) => errorReply id st d 0 s
      | none =>
        let value := if offset = 0 then some (entryValue s key) else (snapshotOf s req.requester key).map (·.value)
        match value with
        | none => errorReply id stSegment 0 0 s
        | some v =>
          if v.length < offset + length then errorReply id stSegment 0 0 s
          else okReply id (slice v offset length)
            (takeSnapshot { requester := req.requester, key := key, value := v, lastRead := s.now } s)

def execSegRead (req : Req) (key : BitVec 24) (offset length : BitVec 32) (s : State) : Host.Outcome State Fault Refusal :=
  .next (segRead req key.toNat offset.toNat length.toNat s)

/-- SNAPSHOT_LAPSE: the snapshot at a position. -/
def snapshotLapse (i : Nat) (s : State) : State := match s.om.snapshots[i]? with
  | none => s
  | some x => { advanceTo (x.lastRead + 2 * sec) s with om.snapshots := s.om.snapshots.eraseIdx i }

def execSnapshotLapse (index : Nat) (s : State) : Host.Outcome State Fault Refusal := .next (snapshotLapse index s)

/-! ### Segmented writes (R529) -/

/-- The open transfer of an entry. -/
def transferOf (s : State) (key : Nat) : Option Transfer := s.om.transfers.find? (fun x => decide (x.key = key))

/-- The open transfer of an entry and requester. -/
def ownTransfer (s : State) (r : Requester) (key : Nat) : Option Transfer :=
  s.om.transfers.find? (fun x => decide (x.key = key ∧ x.requester = r))

/-- End the transfer of an entry. -/
def endTransfer (key : Nat) (s : State) : State :=
  { s with om.transfers := s.om.transfers.filter (fun x => decide (x.key ≠ key)) }

/-- A total length that the entry refuses, and where (R511). -/
def lengthFault (key total : Nat) : Option Nat :=
  if key = 0x600004 then (if total < 0x601 then some total else if 0x1000600 < total then some 0x1000600 else none)
  else if total = entryLength key then none
  else some (min total (entryLength key))

/-- A new transfer on the image discards what was staged. -/
def discardStaged (key : Nat) (s : State) : State :=
  if key = 0x600004 then { s with
    sec.staged := none
    sec.update := if s.sec.update ≤ 2 then 0 else s.sec.update
    sec.verifying := false
    sec.activateNext := false }
  else s

/-- SEG_BEGIN. -/
def segBegin (req : Req) (key total : Nat) (s : State) : State :=
  let id := requestId req opSegBegin (BitVec.ofNat 24 key) 0
  match admitRequest id s with
  | some s => s
  | none =>
    let busy := match transferOf s key with
      | some x => decide (x.requester ≠ req.requester)
      | none => decide (4 ≤ s.om.transfers.length)
    if busy then errorReply id stBusy 0 1000 s
    else match accessFault req.requester key true s with
      | some (st, d) => errorReply id st d 0 s
      | none => match lengthFault key total with
        | some d => errorReply id stLength d 0 s
        | none =>
          if (entryInfo key).any (fun e => decide (e.access = .rwf)) && !(s.start.foal || stopped s) then
            errorReply id stNotStopped 0 0 s
          else
            let x : Transfer := { requester := req.requester, key := key, total := total, segments := [], last := s.now }
            let s := discardStaged key (endTransfer key s)
            okReply id [] { s with om.transfers := s.om.transfers ++ [x] }

def execSegBegin (req : Req) (key : BitVec 24) (total : BitVec 32) (s : State) : Host.Outcome State Fault Refusal :=
  .next (segBegin req key.toNat total.toNat s)

/-- Change the transfer of an entry. -/
def changeTransfer (key : Nat) (f : Transfer → Transfer) (s : State) : State :=
  { s with om.transfers := changeFirst (fun x => decide (x.key = key)) f s.om.transfers }

/-- SEG_DATA. [DEDUCED, safe: log 109] -/
def segData (req : Req) (key offset : Nat) (data : Bytes) (s : State) : State :=
  let id := requestId req opSegData (BitVec.ofNat 24 key) offset
  if 1024 < data.length then malformed req opSegData (BitVec.ofNat 24 key) offset s
  else match admitRequest id s with
  | some s => s
  | none => match accessFault req.requester key true s with
      | some (st, d) => errorReply id st d 0 s
      | none => match ownTransfer s req.requester key with
        | none => errorReply id stSegment 0 0 s
        | some x =>
          let s := changeTransfer key (fun x => { x with last := s.now }) s
          if offset % 1024 ≠ 0 ∨ x.total ≤ offset ∨ data.length ≠ min 1024 (x.total - offset) then
            errorReply id stSegment 0 0 s
          else okReply id [] (changeTransfer key
            (fun x => { x with segments := x.segments.filter (fun p => decide (p.1 ≠ offset)) ++ [(offset, data)] }) s)

def execSegData (req : Req) (key : BitVec 24) (offset : BitVec 32) (data : Bytes) (s : State) :
    Host.Outcome State Fault Refusal :=
  .next (segData req key.toNat offset.toNat data s)

/-- The bytes of a transfer, once every one has arrived. -/
def assembled (x : Transfer) : Option Bytes :=
  ((List.range ((x.total + 1023) / 1024)).foldl (fun (acc : Option Bytes) i => match acc with
    | none => none
    | some b => (x.segments.find? (fun p => decide (p.1 = 1024 * i))).map (fun p => b ++ p.2)) (some []))

/-- SEG_END: the value is applied as one write; the transfer ends when it is accepted. [DEDUCED, safe: log 109] -/
def segEnd (req : Req) (key : Nat) (crc : BitVec 32) (nvmOk : Bool) (s : State) : State :=
  let id := requestId req opSegEnd (BitVec.ofNat 24 key) 0
  match admitRequest id s with
  | some s => s
  | none => match accessFault req.requester key true s with
    | some (st, d) => errorReply id st d 0 s
    | none => match ownTransfer s req.requester key with
      | none => errorReply id stSegment 0 0 s
      | some x =>
        let s := changeTransfer key (fun x => { x with last := s.now }) s
        match assembled x with
        | none => errorReply id stSegment 0 0 s
        | some value =>
          if crc32 value ≠ crc then errorReply id stSegment 0 0 s
          else applyWrite id value (fun v s => match writeAct req.requester nvmOk key v s with
            | .done s => .done (endTransfer key s)
            | .wait n s => .wait n (endTransfer key s)
            | r => r) s

def execSegEnd (req : Req) (key : BitVec 24) (crc : BitVec 32) (nvmOk : Bool) (s : State) :
    Host.Outcome State Fault Refusal :=
  .next (segEnd req key.toNat crc nvmOk s)

/-- SEG_ABORT. -/
def segAbort (req : Req) (key : Nat) (s : State) : State :=
  let id := requestId req opSegAbort (BitVec.ofNat 24 key) 0
  match admitRequest id s with
  | some s => s
  | none => match accessFault req.requester key true s with
    | some (st, d) => errorReply id st d 0 s
    | none => match ownTransfer s req.requester key with
      | none => okReply id [] s
      | some _ => okReply id [] (endTransfer key s)

def execSegAbort (req : Req) (key : BitVec 24) (s : State) : Host.Outcome State Fault Refusal :=
  .next (segAbort req key.toNat s)

/-- SEG_TIMEOUT: the transfer at a position has been idle for 10 s; event 0x1103. -/
def segTimeout (i : Nat) (s : State) : State := match s.om.transfers[i]? with
  | none => s
  | some x => raise 0x1103 [requesterItem x.requester, bEntry x.key]
      { advanceTo (x.last + 10 * sec) s with om.transfers := s.om.transfers.eraseIdx i }

def execSegTimeout (index : Nat) (s : State) : Host.Outcome State Fault Refusal := .next (segTimeout index s)

/-- KEPT_REPLY_EXPIRY (R520): the oldest kept reply has been kept for 2 s. -/
def keptExpiry (s : State) : State := match leastOf (s.om.kept.map (·.time)) with
  | none => s
  | some t =>
    let s := advanceTo (t + keptLife) s
    { s with om.kept := s.om.kept.filter (keptAlive s) }

def execKeptReplyExpiry (s : State) : Host.Outcome State Fault Refusal := .next (keptExpiry s)

/-! ### Notices (R532) -/

/-- NOTICE_ANSWER: the subscriber's answer with opcode 0x88. -/
def noticeAnswer (i : Nat) (q : BitVec 16) (s : State) : State :=
  releaseHeld 256 i
    (changeSubscriber i (fun u => { u with unanswered := u.unanswered.filter (fun n => decide (n.seq ≠ q)) }) s)

def execNoticeAnswer (subscriber : Fin 4) (seq : BitVec 16) (s : State) : Host.Outcome State Fault Refusal :=
  .next (noticeAnswer subscriber seq s)

/-- NOTICE_RESEND_TIMER: the notice that has waited longest is sent again, or dropped after its tenth attempt. -/
def noticeResend (i : Nat) (s : State) : State :=
  let u := subscriber s i
  match leastOf (u.unanswered.map (·.last)) with
  | none => s
  | some t => match u.unanswered.find? (fun n => decide (n.last = t)) with
    | none => s
    | some n =>
      let s := advanceTo (t + 100 * ms) s
      if 10 ≤ n.sends then
        releaseHeld 256 i (dropNotice (subscriberItem s i)
          (changeSubscriber i (fun u => { u with unanswered := u.unanswered.erase n }) s))
      else
        let again (m : Unanswered) : Unanswered := { m with sends := m.sends + 1, last := s.now }
        changeSubscriber i (fun u => { u with unanswered := changeFirst (fun m => decide (m = n)) again u.unanswered })
          (putNotice i n.seq n.data s)

def execNoticeResendTimer (subscriber : Fin 4) (s : State) : Host.Outcome State Fault Refusal :=
  .next (noticeResend subscriber s)

/-! ### The management port (R523, R524) -/

/-- The management port works: the Mule, or the recovery loader, runs. [DESIGN CHOICE, safe: log 113] -/
def portServes (s : State) : Bool := decide (3 ≤ s.start.step) || s.start.donkey

/-- MGMT_LINK: event 0x1101 at each change. -/
def mgmtLink (up : Bool) (s : State) : State :=
  if s.om.linkUp = up then s else raiseIf (portServes s) 0x1101 [none, none] { s with om.linkUp := up }

def execMgmtLink (up : Bool) (s : State) : Host.Outcome State Fault Refusal := .next (mgmtLink up s)

/-- The device's own address as a number. -/
def ownAddress : BitVec 128 := BitVec.ofNat 128 (linkLocal.foldl (fun v b => 256 * v + b.toNat) 0)

/-- What the port sends of the internet protocol: 0 a solicitation for its own address, 1 an advertisement of it, 2 an
echo reply; with the peer's address. -/
def sendIp (kind : Nat) (peer : BitVec 128) (s : State) : State := { s with om.ipSent := s.om.ipSent ++ [(kind, peer)] }

/-- DUPLICATE_ADDRESS_DETECTION: its outcome. After a failure it is repeated every 10 s; event 0x1105. [DESIGN
CHOICE, safe: log 113] -/
def addressDetection (duplicate : Bool) (s : State) : State :=
  if !portServes s ∨ !s.om.linkUp then s
  else
    let s := match s.om.detectionDue with
      | some t => advanceTo t s
      | none => s
    let s := sendIp 0 ownAddress s
    let due := if duplicate then some (s.now + 10 * sec) else none
    raiseIf duplicate 0x1105 [none, none] { s with om.addressDuplicate := duplicate, om.detectionDue := due }

def execDuplicateAddressDetection (duplicate : Bool) (s : State) : Host.Outcome State Fault Refusal :=
  .next (addressDetection duplicate s)

/-- NEIGHBOUR_DISCOVERY: a solicitation for the device's address is answered, unless the address is a duplicate. -/
def execNeighbourDiscovery (source target : BitVec 128) (s : State) : Host.Outcome State Fault Refusal :=
  .next (if portServes s ∧ s.om.linkUp ∧ !s.om.addressDuplicate ∧ target = ownAddress then sendIp 1 source s else s)

/-- ICMPV6_ECHO: the reply carries the request's data. -/
def execIcmpv6Echo (source : BitVec 128) (data : Bytes) (s : State) : Host.Outcome State Fault Refusal :=
  .next (if portServes s ∧ s.om.linkUp ∧ !s.om.addressDuplicate then
    { s with om.ipSent := s.om.ipSent ++ [(2, source)], om.echoes := s.om.echoes ++ [data] } else s)

end Sys2Proof.Machine
end

