-- ==== Sys2Proof/Machine/Start.lean ====
section
/-! DEFINITION. The steps of a start, its end and its failure (R536 to R551). A step's command is the moment at which
every base die has completed it. -/

namespace Sys2Proof.Machine

/-- The payload items of R555: step, unit, Donkey reason, failed-start count. -/
def startItems (step : Nat) (unit : Option PkgUnit) (reason count : Option Nat) : List (Option Bytes) :=
  [b1 step, unit.bind bUnit, reason.bind b1, count.bind b1]

/-- Every unit of the package. -/
def allUnits : List PkgUnit := (List.range 4).flatMap unitsOfBase

/-- A step ends, complete (1) or at its limit (2), and the next one begins: event 0x7001. -/
def endStep (result : Nat) (s : State) : State :=
  let n := s.start.step
  let x : StepLog := {
    began := (s.start.stepBegan - s.start.poweredAt) / us
    duration := (s.now - s.start.stepBegan) / us
    result := result }
  raise 0x7001 (startItems n none none none) { s with
    start.log := Tab.put {} n x s.start.log
    start.step := n + 1
    start.stepBegan := s.now }

/-- A start fails (R546): event 0x7004, the rails are off, and step 1 follows 1 s later. -/
def failStart (s : State) : State :=
  stopDevice .failed (arriveAll (raise 0x7004 (startItems s.start.step none none (some s.start.failedCount)) s))

/-! ### The gate and step 1 (R536, R550, R582) -/

/-- No start can begin: the device is on, or has no supply, no reference or no sound diode of B0. -/
def startBarred (s : State) : Bool :=
  decide (s.start.step ≠ 0) || s.start.donkey || s.pow.trip.isSome || s.clk.refclkLost.isSome || s.start.noService ||
    s.pow.load.isNone

/-- Step 1 begins; power-up counts from a moment. [DEDUCED, safe: log 40; DEDUCED, safe: log 63] -/
def beginStart (powered : Nat) (s : State) : State :=
  { s with
    start.step := 1
    start.stepBegan := s.now
    start.poweredAt := powered
    start.restartAt := none
    start.log := []
    pow.alert := false
    hen.arriving := [] }

/-- START_GATE: 1 s after an input qualified; after a failed start or a commanded restart, at the moment they name.
[DEDUCED, safe: log 40] -/
def startGate (s : State) : State :=
  if startBarred s then s
  else match s.start.restartAt, s.pow.qualified with
    | some t, _ =>
      let s := advanceTo t s
      beginStart s.now s
    | none, some q => beginStart q (advanceTo (q + sec) s)
    | none, none => s

def execStartGate (s : State) : Host.Outcome State Fault Refusal := .next (startGate s)

/-- The failed-start count at the start of step 2 (R547). [DEDUCED, safe: log 41] -/
def countStart (s : State) : State :=
  let excused := decide (s.start.previousStop ≠ .normal) && !s.start.succeeded
  { s with
    start.failedCount := min 255 (s.start.failedCount - flag excused + 1)
    start.succeeded := false }

/-- A trip is recorded (R432). [DEDUCED, safe: log 41] -/
def recordTrip (s : State) : State := match s.pow.tripToRecord with
  | none => s
  | some (i, reading) =>
    let n := satAdd 32 s.pow.trips 1
    let s := reportFull 0x240007 n { s with pow.tripToRecord := none, pow.trips := n }
    let items := powItems i (some reading) none none
    raise 0x2406 items (raise 0x2405 items s)

/-- Step 1 ends; the recorder starts, and the start is counted. [DEDUCED, safe: log 41] -/
def finishSupplies (result : Nat) (s : State) : State := endStep result (countStart (recordTrip (startRecorder s)))

def execStep1Supplies (s : State) : Host.Outcome State Fault Refusal :=
  .next (if s.start.step = 1 then finishSupplies 1 s else s)

/-! ### Step 2 (R515, R536, R548) -/

/-- Why the device enters Donkey mode. [DEDUCED, unsafe: log 42] -/
def donkeyReason (nvmReadable : Bool) (s : State) : Option Nat :=
  if !nvmReadable then some 5
  else if 3 ≤ s.start.failedCount then some 6
  else if s.sec.nvmInvalid then some 4
  else match imageFault s (nvmImage s) with
    | some r => some r
    | none => if s.start.commanded = 2 then some 7 else none

/-- Donkey mode begins: event 0x7005. [DEDUCED, safe: log 43; DEDUCED, safe: log 114] -/
def enterDonkey (reason : Nat) (s : State) : State :=
  raise 0x7005 (startItems 2 none (some reason) (some s.start.failedCount))
    { s with start.donkey := true, start.donkeyReason := reason }

/-- The effect of a stored value: no frame runs and no write is answered. -/
def storedAct (key : Nat) : WriteAct := match key with
  | 0x118001 => fun v s => if 1 < leNat v then refuseRange 0 else .done (setDict key v s)
  | 0x300001 => fun v s => if 4 ≤ leNat v then refuseRange 0 else .done (setDict key v s)
  | _ => writeAct (.mctp 0) true key

/-- Apply one stored value: a value that fails its checks gives way to the default, with event 0x1107. [DEDUCED,
safe: log 44] -/
def takeStored (key : Nat) (v : Bytes) (s : State) : State :=
  let refused (s : State) : State := raise 0x1107 [none, bEntry key] { s with om.defaultsUsed := s.om.defaultsUsed + 1 }
  match valueFault key v s with
  | some _ => refused s
  | none => match storedAct key v s with
    | .done t => t
    | .wait _ t => t
    | .failed _ => refused s
    | .refuse _ _ => refused s

/-- The stored configuration record (R515, R517): with none valid, every entry takes its default. [DEDUCED, safe: log
44] -/
def applyConfiguration (s : State) : State := match newestRecord s with
  | none => raise 0x1107 [none, none] s
  | some (_, r) =>
    let s := { s with om.recordApplied := true, om.recordSequence := r.sequence }
    r.values.foldl (fun s x => takeStored x.1 x.2 s) s

/-- The Mule starts: configuration, frame length, host port layout and the core voltage, and the first PROBE. -/
def startMule (s : State) : State :=
  let s := applyConfiguration { s with sec.running := s.sec.nvm }
  let s := { s with
    frame.code := BitVec.ofNat 2 (dictNat s 0x300001)
    host.split := decide (dictNat s 0x118001 = 1)
    clk.vcore := lowestLimit s
    clk.inForce := lowestLimit s }
  beginDiscovery [0, 1, 2, 3] s

/-- Step 2 ends, or the device enters Donkey mode. -/
def finishController (nvmReadable : Bool) (result : Nat) (s : State) : State :=
  match donkeyReason nvmReadable s with
  | some r => enterDonkey r s
  | none => endStep result (startMule s)

def execStep2ManagementController (nvmReadable : Bool) (s : State) : Host.Outcome State Fault Refusal :=
  .next (if s.start.step = 2 ∧ !s.start.donkey then finishController nvmReadable 1 s else s)

/-! ### Steps 3 to 5 (R536 to R538, R542) -/

/-- Step 3 ends: every unit that is not kept out is in service. [DEDUCED, safe: log 46] -/
def finishDiscovery (result : Nat) (s : State) : State :=
  endStep result { s with start.service := allUnits.filter (fun u => u ∉ s.start.kept) }

/-- STEP_3_DISCOVERY: the rest of the records have answered as the package's own dies do. [DEDUCED, safe: log 46] -/
def nameRest (s : State) : State :=
  let rest := (List.range 128).filter (fun r => decide (r ∉ s.ver.named) && !(discovery s r).failed &&
    (recordUnits r).any (fun u => u ∉ s.start.kept))
  { s with
    ver.named := rest.foldl (fun l r => addOnce r l) s.ver.named
    ver.identities := rest.foldl (fun t r => Tab.put 0 r (dieIdentity r) t) s.ver.identities
    ver.discovery := Tab.changeAll {} rest (fun d => { d with replied := true, assigned := true }) s.ver.discovery }

def execStep3Discovery (s : State) : Host.Outcome State Fault Refusal :=
  .next (if s.start.step = 3 then finishDiscovery 1 (nameRest s) else s)

/-- The lanes of every bundle of the towers in service are chosen. [DEDUCED, safe: log 60] -/
def chooseLanes (errors : List (BundleSide × Fin 36 × List Nat)) (s : State) : State :=
  let bad (t n : Nat) : List Nat := (errors.filter (fun e => decide (e.1.val = t ∧ e.2.1.val = n))).flatMap (·.2.2)
  let s := allTowers.foldl (fun s t => if !towerUp s t then s else (List.range 36).foldl (fun s n => startBundle t n (bad t n) s) s) s
  ((List.range 12).filter (fun n => baseUp s (n / 4) && baseUp s (n / 4 + 1))).foldl (fun s n => startBundle 12 n (bad 12 n) s) s

/-- Step 4 ends. Step 5 begins: the mesh trains, the hub loops lock at the lowest limit, and provisional tick words are
sent. [DESIGN CHOICE, safe: log 47] -/
def finishBundles (result : Nat) (s : State) : State :=
  let dead := (List.range 4).filter (fun b => !baseUp s b)
  let s := endStep result s
  { s with
    pho.meshDown := dead.foldl (fun l b => (meshOf b).foldl (fun l n => addOnce n l) l) s.pho.meshDown
    clk.running := true
    clk.vcore := lowestLimit s
    clk.inForce := lowestLimit s
    frame.ticks := .provisional
    frame.start := s.now }

def execStep4BundleRepair (errors : List (BundleSide × Fin 36 × List Nat)) (s : State) : Host.Outcome State Fault Refusal :=
  .next (if s.start.step = 4 then finishBundles 1 (chooseLanes errors s) else s)

/-- The clusters of a tower have powered up, and are cleared and aligned. -/
def powerTower (t : Nat) (s : State) : State :=
  let ks := allClusters.map (clusterKey t)
  { s with
    spad.powered := ks.foldl (fun p c => Tab.put false c true p) s.spad.powered
    spad.ready := ks.foldl (fun p c => Tab.put false c true p) s.spad.ready
    clk.aligned := addOnce t s.clk.aligned }

/-- Foal mode begins: event 0x7002. A held start stays short of step 6. -/
def enterFoal (s : State) : State :=
  let held := decide (s.start.commanded = 3)
  raise 0x7002 (startItems 5 none none none) { s with
    start.foal := true
    start.serviceSince := some s.now
    start.heldAtFoal := held
    start.step := if held then 5 else s.start.step }

/-- Some bridle-mesh link of a base die works. -/
def meshWorks (s : State) (b : Nat) : Bool := (meshOf b).any (fun n => decide (n ∉ s.pho.meshDown))

/-- Step 5 ends: with a tower in service, and the mesh of its base die, Foal mode begins, and otherwise the start fails
(R545, R550). [DESIGN CHOICE, safe: log 47] -/
def finishMesh (result : Nat) (s : State) : State :=
  let s := (allTowers.filter (towerUp s)).foldl (fun s t => powerTower t s) s
  if allTowers.all (fun t => !(towerUp s t && meshWorks s (baseOfTower t))) then failStart s else enterFoal (endStep result s)

def execStep5BridleMesh (s : State) : Host.Outcome State Fault Refusal :=
  .next (if s.start.step = 5 ∧ !s.start.foal then finishMesh 1 s else s)

/-! ### Steps 6 and 7 (R277, R306, R312, R317) -/

/-- The state a source has after a start: what a stop cut short is over. [DEDUCED, safe: log 51] -/
def settledState (x : Source) (code : Nat) : Nat :=
  if code = lsSparing ∧ x.lane.isSome then lsStanding
  else if code = lsWarned ∨ code = lsSparing ∨ code = lsParking ∨ code = lsRecal ∨ (code = lsStanding ∧ x.lane.isNone) then lsIdle
  else code

/-- A source is lit; a lamb that carries a retired laser's lane stands in for it at the sender and the receivers.
[DEDUCED, safe: log 51] -/
def lightSource (f i : Nat) (s : State) : State :=
  let x := source s f i
  let code := settledState x (sourceState s f i)
  let lane := if code = lsStanding then x.lane else none
  let s := if x.state.isNone then s else setSource f i code lane s
  match lane with
  | none => s
  | some k =>
    let s := setCarrier f (guidesOf f) k (i - 31) s
    if 12 ≤ f then s
    else (allTowers.filter (fun t => decide (t ≠ f))).foldl (fun s t =>
      applyCarrier { receiver := t, source := f, lane := k, carrier := i - 31, frame := 0, mask := 0xFF, duplicate := false } s) s

/-- The calibration of a base die (R317). -/
def loadCalibration (b : Nat) (s : State) : State :=
  let lost (s : State) : State := raise 0x440B [none, none, none, none, none, b1 b] s
  match calCopy s b with
  | some c => commitEntries b (calRecord s b c).entries { s with las.onRecord := addOnce b s.las.onRecord }
  | none => match Config.factoryTaps b with
    | some es => commitEntries b es (lost { s with las.onFactory := addOnce b s.las.onFactory })
    | none => lost s

/-- Step 6 ends: lasers lit, corrections loaded, rings searched. Ports and TW begin to train. -/
def finishLasers (unlocked : List Ring) (result : Nat) (s : State) : State :=
  let fs := (List.range 16).filter (flockUp s)
  let s := fs.foldl (fun s f => (List.range 36).foldl (fun s i => lightSource f i s) s) s
  let s := ((List.range 4).filter (baseUp s)).foldl (fun s b => loadCalibration b s) s
  let s := endStep result { searchRings unlocked s with las.on := true }
  (List.range 9).foldl (fun s n => linkTraining n [] [] s) s

def execStep6LasersRings (rref : BitVec 16) (unlocked : List Ring) (s : State) : Host.Outcome State Fault Refusal :=
  .next (if s.start.step = 6 then finishLasers unlocked 1 (measureRref rref s) else s)

/-- Step 7 ends: the clear age of the reply cache counts from here, and optical tick words follow. [DEDUCED, safe:
log 48] -/
def finishLanes (result : Nat) (s : State) : State :=
  let s := endStep result s
  { s with
    fab.cleared := (List.range 4).foldl (fun c q => Tab.put 0 q s.now c) s.fab.cleared
    frame.ticks := .optical
    frame.firstSent := false }

/-- The ports and TW that have trained are in lock. -/
def lockLinks (s : State) : State := (List.range 9).foldl (fun s n => lockOn n s) s

def execStep7Lanes (s : State) : Host.Outcome State Fault Refusal :=
  .next (if s.start.step = 7 then finishLanes 1 (lockLinks s) else s)

/-! ### Steps 8 and 9 (R539, R540) -/

/-- Full service begins: event 0x7003. -/
def enterService (result : Nat) (s : State) : State :=
  let s := endStep result s
  startPairing (raise 0x7003 (startItems 9 none none none) { s with
    start.foal := false
    start.noLock := false
    start.serviceSince := some s.now })

/-- Towers in service whose receivers have locked. [DEDUCED, safe: log 49] -/
def lockedTowers (s : State) : List Nat := allTowers.filter (fun t => towerUp s t && (receiver s t).locked)

/-- Step 8 ends: the paths of the locked towers are in service; with no receiver locked the device stays in Foal mode.
[DEDUCED, safe: log 49] -/
def finishLock (result : Nat) (s : State) : State :=
  let ts := lockedTowers s
  if ts = [] then
    let n := s.start.step
    let s := endStep result s
    raise 0x7007 (startItems n none none none) { s with start.step := n, start.noLock := true }
  else enterService result (parkAllUnlocked (trainPaths ts s))

/-- STEP_8_FRAME_LOCK: every receiver of a tower in service has locked by its tick words (R40). -/
def execStep8FrameLock (s : State) : Host.Outcome State Fault Refusal :=
  .next (if s.start.step = 8 ∧ !s.start.noLock ∧ s.frame.firstSent ∧ lockedTowers s ≠ [] ∧
      lockedTowers s = allTowers.filter (towerUp s) then finishLock 1 s else s)

/-! ### Limits, success and failure (R537, R545) -/

/-- The longest a step may take (R536). -/
def stepLimit (n : Nat) : Nat := match n with
  | 1 => 10 * ms
  | 2 => 200 * ms
  | 3 => ms
  | 4 => 2 * ms
  | 5 => 100 * ms
  | 6 => 250 * ms
  | 7 => 1100 * us
  | _ => 50 * ms

/-- A step is in progress, and may reach its limit. -/
def stepRuns (s : State) : Bool :=
  decide (1 ≤ s.start.step ∧ s.start.step ≤ 8) && !s.start.donkey && !s.start.heldAtFoal && !s.start.noLock

/-- End the step in progress at its limit. [DEDUCED, safe: log 45] -/
def finishAtLimit (s : State) : State := match s.start.step with
  | 1 => finishSupplies 2 s
  | 2 => finishController true 2 s
  | 3 => finishDiscovery 2 (nameRest s)
  | 4 => finishBundles 2 (chooseLanes [] s)
  | 5 => finishMesh 2 s
  | 6 => finishLasers [] 2 s
  | 7 => finishLanes 2 (lockLinks s)
  | _ => finishLock 2 s

/-- STEP_LIMIT: units that have not completed the step, and every unit of such a base die (R24), are kept out until the
next start, with event 0x7006 for each. A tower that only lacks frame lock stays in Foal service (R540). VPHO_B0 out of regulation fails the start.
[DEDUCED, safe: log 45] -/
def stepAtLimit (incomplete : List PkgUnit) (s : State) : State :=
  if !stepRuns s then s
  else
    let s := advanceTo (s.start.stepBegan + stepLimit s.start.step) s
    let tower (u : PkgUnit) : Bool := match u with
      | .tower _ => true
      | _ => false
    let base0 (u : PkgUnit) : Bool := match u with
      | .base b => decide (b.val = 0)
      | _ => false
    if s.start.step = 1 ∧ incomplete.any base0 then failStart s
    else
      let all := incomplete.flatMap (fun u => match u with
        | .base b => unitsOfBase b.val
        | _ => [u])
      let all := all.foldl (fun l u => if u ∈ s.start.kept then l else addOnce u l) []
      let us := if s.start.step = 8 then all.filter (fun u => !tower u) else all
      let s := us.foldl (fun s u => raise 0x7006 (startItems s.start.step (some u) none none) s) s
      finishAtLimit (keepOut us s)

def execStepLimit (incomplete : List PkgUnit) (s : State) : Host.Outcome State Fault Refusal :=
  .next (stepAtLimit incomplete s)

/-- START_SUCCESS: the start has succeeded, and the failed-start count is zero. -/
def startSucceeds (s : State) : State := match s.start.serviceSince with
  | none => s
  | some t => if s.start.succeeded then s else
      let s := advanceTo (t + 10 * sec) s
      { s with start.succeeded := true, start.failedCount := 0 }

def execStartSuccess (s : State) : Host.Outcome State Fault Refusal := .next (startSucceeds s)

/-- WATCHDOG_RESET: the Mule is reset before the start has succeeded. [DEDUCED, safe: log 50] -/
def execWatchdogReset (s : State) : Host.Outcome State Fault Refusal :=
  .next (if 2 ≤ s.start.step ∧ !s.start.donkey ∧ !s.start.succeeded then failStart s else s)

end Sys2Proof.Machine
end

