-- ==== Sys2Proof/Machine/Boundary.lean ====
section
/-! DEFINITION. The frame boundary: the Rooster opens a frame, and every per-tick action of the device runs (R33 to
R56, R145, R146, R152 to R157, R206, R208, R539, R561). -/

namespace Sys2Proof.Machine

/-! ### Closing a frame (R52 to R55, R145, R400) -/

/-- A region has not reached the end of its last phase: a task that holds it has outrun its span, it waits for scheduled
bytes or a light sum, or its cycles and debt exceed those of the frame. [DEDUCED, unsafe: log 52; DEDUCED, safe: log
137] -/
def regionOpen (s : State) (p : Nat) (img : Bytes) (t k : Nat) : Bool := match runningRun s p with
  | none => false
  | some r => r.tasks.any (fun (i, x) =>
      decide (x.phase = .running) && decide (taskTower img i = t) && nbit (taskClusters img i) k &&
        (let here := phasesHere img x i (part s p).index
         decide (here.length = x.spanLeft) || regionWaits s r t k ||
           decide ((part s p).cycles < cyclesOf here + Tab.look 0 (part s p).spent (regionKey t k) + debt s t k)))

/-- The regions of a partition, as tower and cluster. -/
def regionsOf (s : State) (p : Nat) : List (Nat × Nat) :=
  (towersOf s p).flatMap (fun t => allClusters.map (fun k => (t, k)))

/-- Regions that have closed on time reset their debt (R53). -/
def resetDebts (rs : List (Nat × Nat)) (s : State) : State := rs.foldl (fun s x => setDebt x.1 x.2 0 s) s

/-- A partition enters a slip frame: event 0x3005. At the first of a row the regions that have closed on time reset
their debt; debt carries on across the further ones (R54). [DEDUCED, safe: log 138] -/
def slip (p t : Nat) (img : Bytes) (s : State) : State :=
  let s := if (part s p).slipping then s
    else resetDebts ((regionsOf s p).filter (fun x => !regionOpen s p img x.1 x.2)) s
  let half : Bool := (regionsOf s p).any (fun x => halfReached s p img x.1 x.2)
  raise 0x3005 [b1 t, b1 p] (count32 0x300006 1 (changePart p
    (fun q => { q with slipping := true, halfRaised := q.halfRaised && half }) s))

/-- The template goes on: its next frame index opens, and running tasks have passed their phases. [DEDUCED, safe: log
53] -/
def advanceTemplate (p : Nat) (img : Bytes) (s : State) : State :=
  let f := (part s p).index
  let pass (r : Run) : Run := { r with
    tasks := r.tasks.foldl (fun t (i, x) => if x.phase = .running then
      Tab.put {} i { x with spanLeft := x.spanLeft - (phasesHere img x i f).length } t else t) r.tasks }
  let s := match runningRun s p with
    | none => s
    | some r => changeRun p r.id pass s
  changePart p (fun q => { openGroup q with index := (f + 1) % max (tmplPeriod img) 1 }) s

/-- The frame of a partition's template ends at a tick (R53, R54): its cycles join those of the group, and with every
region closed the template goes on. With no phase to end, every region has closed. [DEDUCED, unsafe: log 52; DEDUCED,
safe: log 136] -/
def closeFrame (p : Nat) (s : State) : State :=
  match activeImage s p with
  | none => changePart p openGroup (resetDebts (regionsOf s p) s)
  | some img =>
    let s := changePart p (fun q => { q with cycles := q.cycles + available s (tmplMask img) }) s
    let q := part s p
    let ts := towersOf s p
    let lost := ts.find? (fun t => (receiver s t).lost)
    let idle : Bool := match executingRun s p with
      | none => false
      | some r => decide (r.state ≠ .running)
    if idle then changePart p openGroup (resetDebts (regionsOf s p) s)
    else if !q.slipping ∧ lost.isNone ∧ q.inGroup + 1 < q.stride then
      changePart p (fun q => { q with inGroup := q.inGroup + 1 }) s
    else
      let late := ts.find? (fun t => allClusters.any (fun k => regionOpen s p img t k))
      match lost, late with
      | some t, _ => slip p t img s
      | none, some t => slip p t img s
      | none, none => advanceTemplate p img (resetDebts (regionsOf s p) s)

/-- The regions of a tower that belongs to no partition have no phases: each closes on time. [DEDUCED, safe: log 136;
DEDUCED, unsafe: log 186] -/
def closeUnowned (s : State) : State :=
  resetDebts ((allTowers.filter (fun t => (partitionOf s t).isNone)).flatMap (fun t => allClusters.map (fun k => (t, k)))) s

/-! ### Runs at a tick (R152 to R157, R187, R378) -/

/-- Frames of RUNNING are counted for the records that await a response. -/
def ageRecords (s : State) : State :=
  { s with dma.records := s.dma.records.map (fun x =>
      if (findRun s x.partition x.run).any (fun r => decide (r.state = .running)) then { x with frames := x.frames + 1 } else x) }

/-- A run enters SAVING: event 0x3404. A running task is pre-empted mid-task. [DEDUCED, safe: log 55] -/
def enterSaving (p : Nat) (r : Run) (s : State) : State :=
  let n := saveFrames s (runImage s r)
  let s := changePart p openGroup s
  let mark (x : Task) : Task := if x.phase = .running then { x with flags := x.flags ||| flPreempted } else x
  raise 0x3404 (taskItems p (some r.id) none none none none) (count32 0x340003 1 (changeRun p r.id (fun r => { r with
    state := .saving
    framesLeft := n
    frameIndex := (part s p).index
    tasks := if r.freeze then r.tasks else r.tasks.map (fun x => (x.1, mark x.2)) }) s))

/-- The tick is a safe point for a run's pre-emption (R154). -/
def safePoint (s : State) (p : Nat) (r : Run) : Bool :=
  let img := runImage s r
  !(part s p).slipping && decide ((part s p).inGroup = 0) &&
    r.tasks.all (fun (i, x) => decide (x.phase ≠ .running) || taskPreemptable img i)

/-- What a tick does to one run. A save, or a restore, whose area lies on a drained stack waits (R213). [DEDUCED,
safe: log 55] -/
def tickRun (p : Nat) (r : Run) (s : State) : State :=
  if r.abort then releaseRun p r.id (runCode r) 0 true s
  else match r.state with
    | .running => if r.freeze ∨ (r.preempt.isSome ∧ safePoint s p r) then enterSaving p r s else s
    | .saving | .restoring =>
      if (imgTowers (runImage s r)).any (fun t => (stack s t).drained) then s
      else changeRun p r.id (fun r => { r with framesLeft := r.framesLeft - 1 }) s
    | _ => s

/-- A teardown reaches the runs of the bound partition (R378). [DEDUCED, safe: log 55] -/
def teardownRuns (p : Nat) (s : State) : State :=
  let s := (runsOf s p).foldl (fun s r =>
    let s := changeRun p r.id (fun r => { r with forced := some ccTargetDead }) s
    match r.state with
    | .queued | .parked =>
      let s := changeRun p r.id (fun r => { r with state := .frozen }) s
      raise 0x3406 (taskItems p (some r.id) none none none none) (reportRun { r with state := .frozen } ccTargetDead 0 s)
    | .frozen => s
    | _ => changeRun p r.id (fun r => { r with freeze := true }) s) s
  { s with fab.openSlots := addOnce p s.fab.openSlots }

/-- The runs of a partition: what a tick does to each, the next one starts, and a new iteration's roots are resolved.
[DEDUCED, safe: log 53] -/
def tickPartition (p : Nat) (s : State) : State :=
  let s := (runsOf s p).foldl (fun s r => tickRun p r s) s
  let s := startNext p s
  match runningRun s p with
  | none => s
  | some r => if r.started then s else resolveRoots p r.id s

/-! ### Opening a frame (R36, R38, R42, R539, R561) -/

/-- A frame marker. [DEDUCED, safe: log 56] -/
def mark (s : State) : State := raise 0x6801 [b8 s.frame.number, b1 s.frame.code.toNat] s

/-- The frames that lasers and rings have named count on from the number of the first optical word. [DEDUCED, safe:
log 57] -/
def rebaseFrames (n : Nat) (s : State) : State :=
  { s with
    las.carriers := s.las.carriers.map (fun c => { c with frame := (c.frame + n) % 65536 })
    las.sparings := s.las.sparings.map (fun x => { x with b1 := x.b1 + n })
    las.parked := s.las.parked.map (fun p => { p with from_ := p.from_ + n, returns := p.returns.map (· + n) })
    las.passes := s.las.passes.map (fun p => { p with frame := p.frame + n }) }

/-- The number of the first optical word: 0, or what the count has reached since a commanded restart. [DEDUCED, safe:
log 135] -/
def firstNumber (s : State) : Nat :=
  if s.start.cold ∨ !s.frame.counted then 0
  else s.frame.heldNumber + (s.frame.start - s.frame.heldStart) / frameCycles s.frame.heldCode

/-- The change point is the frame that opens. -/
def setChangePoint (s : State) : State := { s with frame.changePoint := mkStamp s.frame.number 0 0 }

/-- A pending length code takes effect, and its write is answered. [DESIGN CHOICE, unsafe: log 130] -/
def takeLength (c : BitVec 2) (s : State) : State :=
  answerWaiting 0x300001 0 stOk 0
    (setDictNat 0x300001 1 c.toNat { s with frame.code := c, frame.pending := none })

/-- The first optical word of a start; true when a new length opens with it. [DEDUCED, safe: log 56] -/
def openFirst (s : State) : Bool × State :=
  let n := firstNumber s
  let s := rebaseFrames n { s with frame.number := n, frame.firstSent := true }
  let s := match s.frame.pending with
    | none => s
    | some (c, _) => takeLength c s
  if !s.start.cold ∧ s.frame.counted ∧ s.frame.code ≠ s.frame.heldCode then (true, setChangePoint s) else (false, s)

/-- A frame opens on the optical tick; true when a new length opens with it. [DEDUCED, safe: log 57] -/
def openOptical (s : State) : Bool × State :=
  let s := { s with frame.number := s.frame.number + 1 }
  match s.frame.pending with
  | none => (false, s)
  | some (c, n) =>
    if s.frame.number < n then (false, s)
    else if c = s.frame.code then (false, takeLength c s)
    else (true, setChangePoint (takeLength c s))

/-- Towers whose receivers have locked switch to the optical tick; true at the package's first optical boundary. The paths of
a tower that locks after step 8 train now (R278, R540). -/
def switchTowers (s : State) : Bool × State :=
  let due := allTowers.filter (fun t => (receiver s t).locked && !(receiver s t).optical)
  let s' := due.foldl (fun s t => changeReceiver t (fun r => { r with optical := true }) s) s
  let s' := if s.start.step = 9 ∧ due ≠ [] then trainPaths due s' else s'
  if due ≠ [] ∧ !s.frame.optical then (true, { s' with frame.optical := true }) else (false, s')

/-- The Rooster opens a frame: number, length and markers. -/
def openFrame (s : State) : State :=
  let s := { s with frame.start := s.frame.start + frameCycles s.frame.code, frame.count := s.frame.count + 1 }
  if s.frame.ticks ≠ .optical then s
  else
    let (fresh, s) := if s.frame.firstSent then openOptical s else openFirst s
    let (first, s) := switchTowers s
    if fresh ∨ first ∨ s.frame.number % 65536 = 0 then mark s else s

/-- The tick word of the frame that opens (R38, R538). -/
def sendTick (s : State) : State :=
  let n := if s.frame.ticks = .optical then s.frame.number else 0
  { s with frame.word := mkTick n s.frame.code (s.clk.announced.getD 0) }

/-! ### DRAM bands (R206, R208) -/

/-- A band's timing set, and the refresh rate of a lower band, take effect; a stack that has left self-refresh resumes.
[DEDUCED, safe: log 103] -/
def takeBand (t : Nat) (s : State) : State :=
  let k := stack s t
  match k.pendingTiming with
  | none => s
  | some w =>
    let s := changeStack t (fun k => { k with
      band := w
      timingBand := w
      refreshBand := k.pendingRefresh.getD k.refreshBand
      pendingRefresh := none
      pendingTiming := none }) s
    let s := raiseIf k.pendingRefresh.isSome 0x3803 (bandItems t (some w)) s
    if k.resuming then
      let s := resumeScrub t (changeStack t (fun k => { k with drained := false, resuming := false }) s)
      wake (fun x => decide (x = .stack t)) (raise 0x3805 (bandItems t (some w)) s)
    else s

/-! ### The boundary -/

/-- FRAME_BOUNDARY. While no tick words are sent there is none. [DESIGN CHOICE, safe: log 5; DEDUCED, safe: log 59] -/
def frameBoundary (taps : List LaserTap) (s : State) : State :=
  if s.frame.ticks = .off then s
  else
    let s := endSumsFrame (meshArrivals (advanceTo (s.frame.start + frameCycles s.frame.code) s))
    let s := ageRecords ((List.range 12).foldl (fun s p => closeFrame p s) (closeUnowned s))
    let s := clockBoundary (openFrame s)
    let s := (List.range 12).foldl (fun s p => strideFor p s) s
    let s := s.fab.teardowns.foldl (fun s p => teardownRuns p s) { s with fab.teardowns := [] }
    let s := (List.range 12).foldl (fun s p => tickRouters p (tickPartition p s)) s
    let s := linksBoundary (applyPathChanges (bundlesBoundary (lasersBoundary taps s)))
    let s := twinBoundary (securityBoundary (powerBoundary s))
    let s := allTowers.foldl (fun s t => takeBand t s) s
    sendTick (pumpAll s)

/-- Taps: the power of the lit lasers and lambs at the boundary. -/
def execFrameBoundary (taps : List LaserTap) (s : State) : Host.Outcome State Fault Refusal := .next (frameBoundary taps s)

end Sys2Proof.Machine
end

