-- ==== Sys2Proof/Machine/Dispatch.lean ====
section
/-! DEFINITION. The meaning of every command: one arm per constructor, one meaning per arm. -/

namespace Sys2Proof.Machine

def exec (i : Instr) (s : State) : Host.Outcome State Fault Refusal :=
  match i with
  | .frameBoundary taps => Sys2Proof.Machine.execFrameBoundary taps s
  | .tickWordReceived tower word => Sys2Proof.Machine.execTickWordReceived tower word s
  | .tickMissed tower => Sys2Proof.Machine.execTickMissed tower s
  | .frameLengthWrite req value => Sys2Proof.Machine.execFrameLengthWrite req value s
  | .droopStretch tower region droop senders receivers => Sys2Proof.Machine.execDroopStretch tower region droop senders receivers s
  | .crossingFault tower cluster port cycle lines => Sys2Proof.Machine.execCrossingFault tower cluster port cycle lines s
  | .scratchpadRead tower cluster bank portA portB faults => Sys2Proof.Machine.execScratchpadRead tower cluster bank portA portB faults s
  | .spadAddressFault tower cluster address => Sys2Proof.Machine.execSpadAddressFault tower cluster address s
  | .routeParityFail tower cluster entry => Sys2Proof.Machine.execRouteParityFail tower cluster entry s
  | .clusterClearDone tower cluster => Sys2Proof.Machine.execClusterClearDone tower cluster s
  | .clearRetiredBanks req value => Sys2Proof.Machine.execClearRetiredBanks req value s
  | .matrixOperation op => Sys2Proof.Machine.execMatrixOperation op s
  | .mxConvert place src count source target mode => Sys2Proof.Machine.execMxConvert place src count source target mode s
  | .vectorConvert place src count int32 source target mode toInfinity => Sys2Proof.Machine.execVectorConvert place src count int32 source target mode toInfinity s
  | .sparseConvert place src count source target mode => Sys2Proof.Machine.execSparseConvert place src count source target mode s
  | .vectorFma place a b c count format mode => Sys2Proof.Machine.execVectorFma place a b c count format mode s
  | .transcendental place src count function format => Sys2Proof.Machine.execTranscendental place src count function format s
  | .partitionMapWrite req value => Sys2Proof.Machine.execPartitionMapWrite req value s
  | .load partition address length => Sys2Proof.Machine.execLoad partition address length s
  | .loadAdmission partition image code => Sys2Proof.Machine.execLoadAdmission partition image code s
  | .unload partition handle => Sys2Proof.Machine.execUnload partition handle s
  | .run partition entry => Sys2Proof.Machine.execRun partition entry s
  | .preempt partition runId => Sys2Proof.Machine.execPreempt partition runId s
  | .resume partition runId => Sys2Proof.Machine.execResume partition runId s
  | .abort partition runId => Sys2Proof.Machine.execAbort partition runId s
  | .unknownCommand partition entry => Sys2Proof.Machine.execUnknownCommand partition entry s
  | .remoteEdgeArrival partition runId task edge => Sys2Proof.Machine.execRemoteEdgeArrival partition runId task edge s
  | .taskStart partition task => Sys2Proof.Machine.execTaskStart partition task s
  | .taskEnd partition task predicate => Sys2Proof.Machine.execTaskEnd partition task predicate s
  | .routerToken tower cluster group token scores => Sys2Proof.Machine.execRouterToken tower cluster group token scores s
  | .saveComplete partition => Sys2Proof.Machine.execSaveComplete partition s
  | .restoreComplete partition => Sys2Proof.Machine.execRestoreComplete partition s
  | .dmaRetryBackoff tower engine => Sys2Proof.Machine.execDmaRetryBackoff tower engine s
  | .translationRootWrite req partition value => Sys2Proof.Machine.execTranslationRootWrite req partition value s
  | .translationInvalidate req value => Sys2Proof.Machine.execTranslationInvalidate req value s
  | .invalidateDone partition => Sys2Proof.Machine.execInvalidateDone partition s
  | .tableWalk tower engine => Sys2Proof.Machine.execTableWalk tower engine s
  | .copy tower engine descriptor => Sys2Proof.Machine.execCopy tower engine descriptor s
  | .fill tower engine descriptor => Sys2Proof.Machine.execFill tower engine descriptor s
  | .gather tower engine descriptor => Sys2Proof.Machine.execGather tower engine descriptor s
  | .scatter tower engine descriptor => Sys2Proof.Machine.execScatter tower engine descriptor s
  | .rowMove tower engine descriptor => Sys2Proof.Machine.execRowMove tower engine descriptor s
  | .dmaAtomic tower engine descriptor => Sys2Proof.Machine.execDmaAtomic tower engine descriptor s
  | .descriptorRefused tower engine descriptor => Sys2Proof.Machine.execDescriptorRefused tower engine descriptor s
  | .descriptorDone tower engine => Sys2Proof.Machine.execDescriptorDone tower engine s
  | .faultResponseRetry partition word => Sys2Proof.Machine.execFaultResponseRetry partition word s
  | .faultResponseFail partition word => Sys2Proof.Machine.execFaultResponseFail partition word s
  | .faultResponseUnknown partition word => Sys2Proof.Machine.execFaultResponseUnknown partition word s
  | .faultTimeout partition tag => Sys2Proof.Machine.execFaultTimeout partition tag s
  | .rcInvalidation tower home block => Sys2Proof.Machine.execRcInvalidation tower home block s
  | .rcInvalidationAck home sharer block => Sys2Proof.Machine.execRcInvalidationAck home sharer block s
  | .rcSharerLost home sharer block => Sys2Proof.Machine.execRcSharerLost home sharer block s
  | .rcFillReturn tower line => Sys2Proof.Machine.execRcFillReturn tower line s
  | .dramRead tower address upsets => Sys2Proof.Machine.execDramRead tower address upsets s
  | .dramWriteBack tower channel bank => Sys2Proof.Machine.execDramWriteBack tower channel bank s
  | .dramWrite tower address data poisoned => Sys2Proof.Machine.execDramWrite tower address data poisoned s
  | .refresh tower channel => Sys2Proof.Machine.execRefresh tower channel s
  | .diodeSample readings => Sys2Proof.Machine.execDiodeSample readings s
  | .drainComplete tower => Sys2Proof.Machine.execDrainComplete tower s
  | .patrolRead tower upsets => Sys2Proof.Machine.execPatrolRead tower upsets s
  | .handoverScrub req value => Sys2Proof.Machine.execHandoverScrub req value s
  | .scrubDone tower => Sys2Proof.Machine.execScrubDone tower s
  | .slotBoundary tower slot supply late => Sys2Proof.Machine.execSlotBoundary tower slot supply late s
  | .requestWord tower word => Sys2Proof.Machine.execRequestWord tower word s
  | .sheepdogDecision tower slot => Sys2Proof.Machine.execSheepdogDecision tower slot s
  | .grantWord tower word => Sys2Proof.Machine.execGrantWord tower word s
  | .noPreamble tower plane => Sys2Proof.Machine.execNoPreamble tower plane s
  | .slotReceived tower source plane slot bad => Sys2Proof.Machine.execSlotReceived tower source plane slot bad s
  | .openWrite tower packet => Sys2Proof.Machine.execOpenWrite tower packet s
  | .openRead tower packet => Sys2Proof.Machine.execOpenRead tower packet s
  | .openAtomic tower packet => Sys2Proof.Machine.execOpenAtomic tower packet s
  | .openReadData tower packet => Sys2Proof.Machine.execOpenReadData tower packet s
  | .openCompletion tower packet => Sys2Proof.Machine.execOpenCompletion tower packet s
  | .openAtomicData tower packet => Sys2Proof.Machine.execOpenAtomicData tower packet s
  | .meshLinkFail link => Sys2Proof.Machine.execMeshLinkFail link s
  | .armRecord tower cluster record => Sys2Proof.Machine.execArmRecord tower cluster record s
  | .lightSumEvaluate tower plane slot markers adc => Sys2Proof.Machine.execLightSumEvaluate tower plane slot markers adc s
  | .sumNotice tower word => Sys2Proof.Machine.execSumNotice tower word s
  | .meshMemberContribution tower member collective plane slot => Sys2Proof.Machine.execMeshMemberContribution tower member collective plane slot s
  | .linkTraining link failedLanes skews => Sys2Proof.Machine.execLinkTraining link failedLanes skews s
  | .trainingTimeout link => Sys2Proof.Machine.execTrainingTimeout link s
  | .linkLock link headers => Sys2Proof.Machine.execLinkLock link headers s
  | .linkLockLost link headers => Sys2Proof.Machine.execLinkLockLost link headers s
  | .dataFlit link flit opened => Sys2Proof.Machine.execDataFlit link flit opened s
  | .nullFlit link flit => Sys2Proof.Machine.execNullFlit link flit s
  | .linkInfo link flit => Sys2Proof.Machine.execLinkInfo link flit s
  | .tapRequest link ask => Sys2Proof.Machine.execTapRequest link ask s
  | .narrowNow link flit => Sys2Proof.Machine.execNarrowNow link flit s
  | .loopbackReq link flit => Sys2Proof.Machine.execLoopbackReq link flit s
  | .ackWord tower word => Sys2Proof.Machine.execAckWord tower word s
  | .nakRetransmit link => Sys2Proof.Machine.execNakRetransmit link s
  | .replayTimer link => Sys2Proof.Machine.execReplayTimer link s
  | .eyeEstimate link estimates spared => Sys2Proof.Machine.execEyeEstimate link estimates spared s
  | .lossOfSignal link lane spared => Sys2Proof.Machine.execLossOfSignal link lane spared s
  | .lossOfClockRecovery link lane spared => Sys2Proof.Machine.execLossOfClockRecovery link lane spared s
  | .eyeScan req value => Sys2Proof.Machine.execEyeScan req value s
  | .eyeScanDone margins => Sys2Proof.Machine.execEyeScanDone margins s
  | .loopbackEnd req value => Sys2Proof.Machine.execLoopbackEnd req value s
  | .loopbackNearParallel req value => Sys2Proof.Machine.execLoopbackNearParallel req value s
  | .loopbackNearSerial req value light => Sys2Proof.Machine.execLoopbackNearSerial req value light s
  | .loopbackFarEnd req value => Sys2Proof.Machine.execLoopbackFarEnd req value s
  | .linkRetrain req value => Sys2Proof.Machine.execLinkRetrain req value s
  | .linkTakeOutOfService req value => Sys2Proof.Machine.execLinkTakeOutOfService req value s
  | .linkReturnToService req value => Sys2Proof.Machine.execLinkReturnToService req value s
  | .spareCommand req value => Sys2Proof.Machine.execSpareCommand req value s
  | .lambLocked flock lamb power => Sys2Proof.Machine.execLambLocked flock lamb power s
  | .noticeDuplicate tower word => Sys2Proof.Machine.execNoticeDuplicate tower word s
  | .noticeSwitch tower word => Sys2Proof.Machine.execNoticeSwitch tower word s
  | .noticePark tower word => Sys2Proof.Machine.execNoticePark tower word s
  | .noticeReturn tower word => Sys2Proof.Machine.execNoticeReturn tower word s
  | .noticeAbandon tower word => Sys2Proof.Machine.execNoticeAbandon tower word s
  | .compareCountStop flock lane counts => Sys2Proof.Machine.execCompareCountStop flock lane counts s
  | .compareReport tower word => Sys2Proof.Machine.execCompareReport tower word s
  | .spareDecision flock lane => Sys2Proof.Machine.execSpareDecision flock lane s
  | .darkMarker port lane spare compared mismatches => Sys2Proof.Machine.execDarkMarker port lane spare compared mismatches s
  | .ringSample ring error temperature => Sys2Proof.Machine.execRingSample ring error temperature s
  | .recalPassStart flock lane byTemperature rref entries => Sys2Proof.Machine.execRecalPassStart flock lane byTemperature rref entries s
  | .calRecordWrite base written => Sys2Proof.Machine.execCalRecordWrite base written s
  | .groupReceived tower bundle group => Sys2Proof.Machine.execGroupReceived tower bundle group s
  | .groupReplayTimer tower bundle => Sys2Proof.Machine.execGroupReplayTimer tower bundle s
  | .probe message identity => Sys2Proof.Machine.execProbe message identity s
  | .reply message => Sys2Proof.Machine.execReply message s
  | .assign message => Sys2Proof.Machine.execAssign message s
  | .assigned message => Sys2Proof.Machine.execAssigned message s
  | .discoveryTimeout record => Sys2Proof.Machine.execDiscoveryTimeout record s
  | .baseResetCommand req value => Sys2Proof.Machine.execBaseResetCommand req value s
  | .drainDone base => Sys2Proof.Machine.execDrainDone base s
  | .drainTimeout base => Sys2Proof.Machine.execDrainTimeout base s
  | .uncommandedBaseReset base cause => Sys2Proof.Machine.execUncommandedBaseReset base cause s
  | .baseReturn base => Sys2Proof.Machine.execBaseReturn base s
  | .readRetryLimit base => Sys2Proof.Machine.execReadRetryLimit base s
  | .packageIdWrite req value => Sys2Proof.Machine.execPackageIdWrite req value s
  | .routeTableWrite req value => Sys2Proof.Machine.execRouteTableWrite req value s
  | .routeSettle destination => Sys2Proof.Machine.execRouteSettle destination s
  | .jobBindingWrite req partition value => Sys2Proof.Machine.execJobBindingWrite req partition value s
  | .jobTeardown req value => Sys2Proof.Machine.execJobTeardown req value s
  | .fabricRead port header data => Sys2Proof.Machine.execFabricRead port header data s
  | .fabricWrite port header data => Sys2Proof.Machine.execFabricWrite port header data s
  | .fabricAtomic port header data => Sys2Proof.Machine.execFabricAtomic port header data s
  | .fabricReadData port header data => Sys2Proof.Machine.execFabricReadData port header data s
  | .fabricCompletion port header data => Sys2Proof.Machine.execFabricCompletion port header data s
  | .fabricAtomicData port header data => Sys2Proof.Machine.execFabricAtomicData port header data s
  | .credit port header => Sys2Proof.Machine.execCredit port header s
  | .creditTimer port => Sys2Proof.Machine.execCreditTimer port s
  | .hello port header data => Sys2Proof.Machine.execHello port header data s
  | .helloTimer port => Sys2Proof.Machine.execHelloTimer port s
  | .keySwitch port count => Sys2Proof.Machine.execKeySwitch port count s
  | .keyCountExpiry port => Sys2Proof.Machine.execKeyCountExpiry port s
  | .combineWindowExpiry port => Sys2Proof.Machine.execCombineWindowExpiry port s
  | .entryApplied => Sys2Proof.Machine.execEntryApplied s
  | .replyCacheExpiry source sequence => Sys2Proof.Machine.execReplyCacheExpiry source sequence s
  | .responseTimer tower engine tag => Sys2Proof.Machine.execResponseTimer tower engine tag s
  | .fabricRetryBackoff tower engine tag => Sys2Proof.Machine.execFabricRetryBackoff tower engine tag s
  | .atomicSequenceHoldEnd target => Sys2Proof.Machine.execAtomicSequenceHoldEnd target s
  | .atomicFaultHoldEnd tower engine tag => Sys2Proof.Machine.execAtomicFaultHoldEnd tower engine tag s
  | .rateLimiterTimer tower target => Sys2Proof.Machine.execRateLimiterTimer tower target s
  | .referenceLoss tower => Sys2Proof.Machine.execReferenceLoss tower s
  | .referenceReturn tower => Sys2Proof.Machine.execReferenceReturn tower s
  | .referenceHoldoverExpiry tower => Sys2Proof.Machine.execReferenceHoldoverExpiry tower s
  | .requestedClockWrite req value => Sys2Proof.Machine.execRequestedClockWrite req value s
  | .vcoreRampDone => Sys2Proof.Machine.execVcoreRampDone s
  | .pllLocked tower => Sys2Proof.Machine.execPllLocked tower s
  | .pllLockFail tower => Sys2Proof.Machine.execPllLockFail tower s
  | .replicaWarn tower region reading => Sys2Proof.Machine.execReplicaWarn tower region reading s
  | .replicaCritical tower region reading => Sys2Proof.Machine.execReplicaCritical tower region reading s
  | .replicaRelease => Sys2Proof.Machine.execReplicaRelease s
  | .inputFailed backup millivolts => Sys2Proof.Machine.execInputFailed backup millivolts s
  | .inputInRange backup millivolts => Sys2Proof.Machine.execInputInRange backup millivolts s
  | .vinAStable => Sys2Proof.Machine.execVinAStable s
  | .powerLoss => Sys2Proof.Machine.execPowerLoss s
  | .capWindow currents inputPower vinA vinB => Sys2Proof.Machine.execCapWindow currents inputPower vinA vinB s
  | .capLimitRise => Sys2Proof.Machine.execCapLimitRise s
  | .phaseEnd tower => Sys2Proof.Machine.execPhaseEnd tower s
  | .profileWriteTimer => Sys2Proof.Machine.execProfileWriteTimer s
  | .capProfileWrite req value => Sys2Proof.Machine.execCapProfileWrite req value s
  | .capProfileClear req value => Sys2Proof.Machine.execCapProfileClear req value s
  | .thermalLimitStep => Sys2Proof.Machine.execThermalLimitStep s
  | .thermalLimitRise => Sys2Proof.Machine.execThermalLimitRise s
  | .oxSample readings unsound => Sys2Proof.Machine.execOxSample readings unsound s
  | .oxRelease => Sys2Proof.Machine.execOxRelease s
  | .twinModeWrite req value => Sys2Proof.Machine.execTwinModeWrite req value s
  | .leaseRenewTimer => Sys2Proof.Machine.execLeaseRenewTimer s
  | .lease packet oneWay facts => Sys2Proof.Machine.execLease packet oneWay facts s
  | .leaseAckTimer wire => Sys2Proof.Machine.execLeaseAckTimer wire s
  | .leaseAck packet oneWay facts => Sys2Proof.Machine.execLeaseAck packet oneWay facts s
  | .renewPulse width => Sys2Proof.Machine.execRenewPulse width s
  | .acknowledgePulse width => Sys2Proof.Machine.execAcknowledgePulse width s
  | .claimPulse width => Sys2Proof.Machine.execClaimPulse width s
  | .wireStuck => Sys2Proof.Machine.execWireStuck s
  | .leasePathExpiry wire => Sys2Proof.Machine.execLeasePathExpiry wire s
  | .pairingTimeout => Sys2Proof.Machine.execPairingTimeout s
  | .fenceTimeout => Sys2Proof.Machine.execFenceTimeout s
  | .claim packet => Sys2Proof.Machine.execClaim packet s
  | .health packet => Sys2Proof.Machine.execHealth packet s
  | .healthTimeout => Sys2Proof.Machine.execHealthTimeout s
  | .queue packet => Sys2Proof.Machine.execQueue packet s
  | .image packet => Sys2Proof.Machine.execImage packet s
  | .block packet => Sys2Proof.Machine.execBlock packet s
  | .twinCommit packet codes => Sys2Proof.Machine.execTwinCommit packet codes s
  | .selfTestRound failures unfit => Sys2Proof.Machine.execSelfTestRound failures unfit s
  | .handoverPropose packet => Sys2Proof.Machine.execHandoverPropose packet s
  | .handoverAgree packet => Sys2Proof.Machine.execHandoverAgree packet s
  | .handoverAbandon packet => Sys2Proof.Machine.execHandoverAbandon packet s
  | .handoverAckTimeout => Sys2Proof.Machine.execHandoverAckTimeout s
  | .plannedHandover req value => Sys2Proof.Machine.execPlannedHandover req value s
  | .forcedTakeover req value => Sys2Proof.Machine.execForcedTakeover req value s
  | .unpair req value => Sys2Proof.Machine.execUnpair req value s
  | .designatedRegionsWrite req value => Sys2Proof.Machine.execDesignatedRegionsWrite req value s
  | .worldMapWrite req value => Sys2Proof.Machine.execWorldMapWrite req value s
  | .regionTableWrite req tower value => Sys2Proof.Machine.execRegionTableWrite req tower value s
  | .imageStaging req value => Sys2Proof.Machine.execImageStaging req value s
  | .verify req value => Sys2Proof.Machine.execVerify req value s
  | .imageVerifyDone => Sys2Proof.Machine.execImageVerifyDone s
  | .activate req value => Sys2Proof.Machine.execActivate req value s
  | .activationDone => Sys2Proof.Machine.execActivationDone s
  | .imageCommit req value => Sys2Proof.Machine.execImageCommit req value s
  | .imageCommitDone ok => Sys2Proof.Machine.execImageCommitDone ok s
  | .imageCommitRetry => Sys2Proof.Machine.execImageCommitRetry s
  | .advanceSvn req value => Sys2Proof.Machine.execAdvanceSvn req value s
  | .getVersion path request => Sys2Proof.Machine.execGetVersion path request s
  | .getCapabilities path request => Sys2Proof.Machine.execGetCapabilities path request s
  | .negotiateAlgorithms path request offer => Sys2Proof.Machine.execNegotiateAlgorithms path request offer s
  | .getDigests path request => Sys2Proof.Machine.execGetDigests path request s
  | .getCertificate path request slot offset length => Sys2Proof.Machine.execGetCertificate path request slot offset length s
  | .challenge path request slot => Sys2Proof.Machine.execChallenge path request slot s
  | .getMeasurements path request index signature => Sys2Proof.Machine.execGetMeasurements path request index signature s
  | .keyExchange path request asRequester => Sys2Proof.Machine.execKeyExchange path request asRequester s
  | .finish path request session trusted => Sys2Proof.Machine.execFinish path request session trusted s
  | .keyUpdate path session => Sys2Proof.Machine.execKeyUpdate path session s
  | .heartbeat path session => Sys2Proof.Machine.execHeartbeat path session s
  | .endSession path session => Sys2Proof.Machine.execEndSession path session s
  | .ideKeyInstall session stream keySet => Sys2Proof.Machine.execIdeKeyInstall session stream keySet s
  | .ideFault function => Sys2Proof.Machine.execIdeFault function s
  | .getTdispVersion function => Sys2Proof.Machine.execGetTdispVersion function s
  | .getTdispCapabilities function => Sys2Proof.Machine.execGetTdispCapabilities function s
  | .lockInterface function => Sys2Proof.Machine.execLockInterface function s
  | .getDeviceInterfaceReport function => Sys2Proof.Machine.execGetDeviceInterfaceReport function s
  | .getDeviceInterfaceState function => Sys2Proof.Machine.execGetDeviceInterfaceState function s
  | .startInterface function => Sys2Proof.Machine.execStartInterface function s
  | .stopInterface function => Sys2Proof.Machine.execStopInterface function s
  | .tenantHandover req value => Sys2Proof.Machine.execTenantHandover req value s
  | .portKeyUpdate req value => Sys2Proof.Machine.execPortKeyUpdate req value s
  | .hostLinkUp port rate width flit => Sys2Proof.Machine.execHostLinkUp port rate width flit s
  | .hostLinkDown port loss => Sys2Proof.Machine.execHostLinkDown port loss s
  | .functionLevelReset function => Sys2Proof.Machine.execFunctionLevelReset function s
  | .configRequest function access => Sys2Proof.Machine.execConfigRequest function access s
  | .bar2Read function offset length => Sys2Proof.Machine.execBar2Read function offset length s
  | .bar2Write function offset data poisoned => Sys2Proof.Machine.execBar2Write function offset data poisoned s
  | .bar2Atomicop function offset => Sys2Proof.Machine.execBar2Atomicop function offset s
  | .partitionOwnersWrite req value => Sys2Proof.Machine.execPartitionOwnersWrite req value s
  | .gqTail function partition position => Sys2Proof.Machine.execGqTail function partition position s
  | .graphEntryFetch partition entry => Sys2Proof.Machine.execGraphEntryFetch partition entry s
  | .cqHead function partition position => Sys2Proof.Machine.execCqHead function partition position s
  | .fqHead function partition position => Sys2Proof.Machine.execFqHead function partition position s
  | .queueEnable function partition setup => Sys2Proof.Machine.execQueueEnable function partition setup s
  | .queueDisable function partition => Sys2Proof.Machine.execQueueDisable function partition s
  | .msixModerationTimer partition fault => Sys2Proof.Machine.execMsixModerationTimer partition fault s
  | .notifyStatusClear function value mask vector => Sys2Proof.Machine.execNotifyStatusClear function value mask vector s
  | .hostReadCompletion tag result => Sys2Proof.Machine.execHostReadCompletion tag result s
  | .hostCompletionTimeout tag => Sys2Proof.Machine.execHostCompletionTimeout tag s
  | .setEndpointId eid => Sys2Proof.Machine.execSetEndpointId eid s
  | .getEndpointId => Sys2Proof.Machine.execGetEndpointId s
  | .getEndpointUuid => Sys2Proof.Machine.execGetEndpointUuid s
  | .getMctpVersionSupport messageType => Sys2Proof.Machine.execGetMctpVersionSupport messageType s
  | .getMessageTypeSupport => Sys2Proof.Machine.execGetMessageTypeSupport s
  | .getVendorDefinedMessageSupport selector => Sys2Proof.Machine.execGetVendorDefinedMessageSupport selector s
  | .dictRead req key => Sys2Proof.Machine.execDictRead req key s
  | .dictWrite req key value nvmOk => Sys2Proof.Machine.execDictWrite req key value nvmOk s
  | .segRead req key offset length => Sys2Proof.Machine.execSegRead req key offset length s
  | .segBegin req key total => Sys2Proof.Machine.execSegBegin req key total s
  | .segData req key offset data => Sys2Proof.Machine.execSegData req key offset data s
  | .segEnd req key crc nvmOk => Sys2Proof.Machine.execSegEnd req key crc nvmOk s
  | .segAbort req key => Sys2Proof.Machine.execSegAbort req key s
  | .malformedMessage req opcode key offset => Sys2Proof.Machine.execMalformedMessage req opcode key offset s
  | .segTimeout index => Sys2Proof.Machine.execSegTimeout index s
  | .snapshotLapse index => Sys2Proof.Machine.execSnapshotLapse index s
  | .keptReplyExpiry => Sys2Proof.Machine.execKeptReplyExpiry s
  | .noticeAnswer subscriber seq => Sys2Proof.Machine.execNoticeAnswer subscriber seq s
  | .noticeResendTimer subscriber => Sys2Proof.Machine.execNoticeResendTimer subscriber s
  | .mgmtLink up => Sys2Proof.Machine.execMgmtLink up s
  | .duplicateAddressDetection duplicate => Sys2Proof.Machine.execDuplicateAddressDetection duplicate s
  | .neighbourDiscovery source target => Sys2Proof.Machine.execNeighbourDiscovery source target s
  | .icmpv6Echo source data => Sys2Proof.Machine.execIcmpv6Echo source data s
  | .storeConfiguration req value nvmOk => Sys2Proof.Machine.execStoreConfiguration req value nvmOk s
  | .invalidateConfiguration req value nvmOk => Sys2Proof.Machine.execInvalidateConfiguration req value nvmOk s
  | .startGate => Sys2Proof.Machine.execStartGate s
  | .step1Supplies => Sys2Proof.Machine.execStep1Supplies s
  | .step2ManagementController nvmReadable => Sys2Proof.Machine.execStep2ManagementController nvmReadable s
  | .step3Discovery => Sys2Proof.Machine.execStep3Discovery s
  | .step4BundleRepair errors => Sys2Proof.Machine.execStep4BundleRepair errors s
  | .step5BridleMesh => Sys2Proof.Machine.execStep5BridleMesh s
  | .step6LasersRings rref unlocked => Sys2Proof.Machine.execStep6LasersRings rref unlocked s
  | .step7Lanes => Sys2Proof.Machine.execStep7Lanes s
  | .step8FrameLock => Sys2Proof.Machine.execStep8FrameLock s
  | .stepLimit incomplete => Sys2Proof.Machine.execStepLimit incomplete s
  | .startSuccess => Sys2Proof.Machine.execStartSuccess s
  | .watchdogReset => Sys2Proof.Machine.execWatchdogReset s
  | .restart req value => Sys2Proof.Machine.execRestart req value s
  | .restartIntoDonkey req value => Sys2Proof.Machine.execRestartIntoDonkey req value s
  | .restartHoldAtFoal req value => Sys2Proof.Machine.execRestartHoldAtFoal req value s
  | .continueFromHold req value => Sys2Proof.Machine.execContinueFromHold req value s
  | .refclkLoss => Sys2Proof.Machine.execRefclkLoss s
  | .refclkHoldoverExpiry => Sys2Proof.Machine.execRefclkHoldoverExpiry s
  | .refclkReturn => Sys2Proof.Machine.execRefclkReturn s
  | .eventRecord index => Sys2Proof.Machine.execEventRecord index s
  | .recordRingWrite => Sys2Proof.Machine.execRecordRingWrite s
  | .tokenBucketRefill code => Sys2Proof.Machine.execTokenBucketRefill code s
  | .freeze req value => Sys2Proof.Machine.execFreeze req value s
  | .thaw req value => Sys2Proof.Machine.execThaw req value s
  | .freezeLimit => Sys2Proof.Machine.execFreezeLimit s
  | .clearCriticalLog req value => Sys2Proof.Machine.execClearCriticalLog req value s
  | .perstNRelease port => Sys2Proof.Machine.execPerstNRelease port s
  | .baseDieOutOfReset base => Sys2Proof.Machine.execBaseDieOutOfReset base s
  | .laneNoTransition tower bundle lane => Sys2Proof.Machine.execLaneNoTransition tower bundle lane s
  | .sparePoolPrbsInterval tower bundle lane errored => Sys2Proof.Machine.execSparePoolPrbsInterval tower bundle lane errored s
  | .helloTimeout port => Sys2Proof.Machine.execHelloTimeout port s
  | .tagSkipExpiry tower engine tag => Sys2Proof.Machine.execTagSkipExpiry tower engine tag s
  | .tenantCleanDelay tower => Sys2Proof.Machine.execTenantCleanDelay tower s
  | .clockAlignmentDone tower => Sys2Proof.Machine.execClockAlignmentDone tower s
  | .linkInfoTimer link => Sys2Proof.Machine.execLinkInfoTimer link s
  | .msixVectorUnmask function vector => Sys2Proof.Machine.execMsixVectorUnmask function vector s

end Sys2Proof.Machine
end

