-- ==== Sys2Proof/Machine/Step.lean ====
section
/-! DEFINITION. One step: the command at the front of the queue takes effect; with an empty queue a base cycle passes. -/

namespace Sys2Proof.Machine

/-- With no command waiting, 1 ns passes and nothing else happens: every event of the block is a command. [DESIGN
CHOICE, safe: log 1] -/
def idle (s : State) : State := { s with now := s.now + 1 }

/-- One step. [DESIGN CHOICE, safe: log 1; DESIGN CHOICE, safe: log 128] -/
def step (s : State) : Host.Outcome State Fault Refusal :=
  match s.pending with
  | [] => .next (idle s)
  | c :: rest => exec c { s with pending := rest }

/-- The state with a decoded command put at the front of the queue; unchanged where the word spells none. [DESIGN
CHOICE, safe: log 1] -/
def State.withFetchWord (s : State) (nbits w : Nat) : State :=
  match Sys2Proof.decodeTableWord nbits w with
  | some c => { s with pending := c :: s.pending }
  | none => s

end Sys2Proof.Machine
end

