-- ==== Sys2Proof/Safety.lean ====
section
/-! DEFINITION. What a sound run keeps, in the terms the statements use: the canonical form of memories and registers,
counters that fit their words, and what no command may undo. -/

namespace Sys2Proof.Machine

/-- The memories are in canonical form: scratchpad bytes, poisoned scratchpad words, and DRAM symbols. -/
def Memory.wf (s : State) : Bool :=
  Tab.wf none s.spad.bytes && Tab.wf false s.spad.poison && Tab.wf 0 s.dram.symbols

/-- The counters and the dictionary's values list no default. -/
def Registers.wf (s : State) : Bool := Tab.wf 0 s.counters && Tab.wf [] s.dict

/-- Every counter fits the 64 bits of the widest counter entry (R568). -/
def CountersFit (s : State) : Prop := ∀ k, counter s k < 2 ^ 64

/-- What every command keeps: it leaves the queue alone, time runs forward, free values are drawn in turn, a fuse once
blown stays blown (R473), the count of starts rises and stops at its largest value (R566, R568), memories and registers
keep their canonical form, and counters fit. -/
structure Keeps (s t : State) : Prop where
  queue : t.pending = s.pending
  time : s.now ≤ t.now
  free : s.freeDrawn ≤ t.freeDrawn
  fuses : s.sec.svnBlown ≤ t.sec.svnBlown
  starts : s.hen.startNumber < 2 ^ 32 → s.hen.startNumber ≤ t.hen.startNumber ∧ t.hen.startNumber < 2 ^ 32
  memory : Memory.wf s = true → Memory.wf t = true
  registers : Registers.wf s = true → Registers.wf t = true
  counters : CountersFit s → CountersFit t

/-! ### Frames -/

/-- The parts of the state a command may write. `events` is what is on its way to the recorder and which counters have
reported that they are full; `taken` stands for taking events off that way, without which they only become more; `hen` is
the rest of the recorder. -/
inductive Area where
  | queue | now | free | counters | dict | events | taken | hen | om | frame | start | spad | arith | parts | dma | dram | clk
  | host | pho | sums | lanes | las | ver | fab | pow | sec | twin
  deriving DecidableEq, Repr

/-- The recorder but for the events on their way to it. -/
def recorder (s : State) : Hen := { s.hen with arriving := [], saturated := [] }

/-- A part is the same in two states. -/
def Area.same (s t : State) : Area → Prop
  | .queue => t.pending = s.pending
  | .now => t.now = s.now
  | .free => t.freeDrawn = s.freeDrawn
  | .counters => t.counters = s.counters
  | .dict => t.dict = s.dict
  | .events => t.hen.arriving = s.hen.arriving ∧ t.hen.saturated = s.hen.saturated
  | .taken => s.hen.arriving <+: t.hen.arriving
  | .hen => recorder t = recorder s
  | .om => t.om = s.om
  | .frame => t.frame = s.frame
  | .start => t.start = s.start
  | .spad => t.spad = s.spad
  | .arith => t.arith = s.arith
  | .parts => t.parts = s.parts
  | .dma => t.dma = s.dma
  | .dram => t.dram = s.dram
  | .clk => t.clk = s.clk
  | .host => t.host = s.host
  | .pho => t.pho = s.pho
  | .sums => t.sums = s.sums
  | .lanes => t.lanes = s.lanes
  | .las => t.las = s.las
  | .ver => t.ver = s.ver
  | .fab => t.fab = s.fab
  | .pow => t.pow = s.pow
  | .sec => t.sec = s.sec
  | .twin => t.twin = s.twin

/-- Every part but those listed is the same in two states. -/
def Within (ps : List Area) (s t : State) : Prop := ∀ p, p ∉ ps → p.same s t

/-! ### What a command does -/

/-- A command answers a next state: `q` holds of it, and only the parts `ps` can differ. -/
def Completes (c : Instr) (s : State) (ps : List Area) (q : State → Prop) : Prop :=
  ∃ t, exec c s = .next t ∧ q t ∧ Within ps s t

/-- Between two states an event of a code has been raised: it is on its way to the recorder (R558). -/
def Raised (code : Nat) (s t : State) : Prop :=
  ∃ e ∈ t.hen.arriving.drop s.hen.arriving.length, e.code = BitVec.ofNat 16 code

/-- The identity of a write request (R518, R520); a value too long for one message travels in a segmented write.
[DEDUCED, safe: log 115] -/
def writeId (req : Req) (key : Nat) : RequestId :=
  let long := match entryInfo key with
    | some e => decide (e.length > 1024)
    | none => false
  { requester := req.requester, seq := req.seq, opcode := if long then opSegEnd else opWrite, key := key, offset := 0 }

/-- A state at another moment. -/
def atTime (now : Nat) (s : State) : State := { s with now := now }

/-- A write request is served now and passes every check that R527 makes before the value itself is looked at, and the
checks of its length and encoding. -/
def Admitted (req : Req) (key : Nat) (value : Bytes) (s : State) : Prop :=
  admitRequest (writeId req key) s = none ∧ accessFault req.requester key true s = none ∧ valueFault key value s = none

/-- A write has been answered OK. -/
def Answered (req : Req) (key : Nat) (s t : State) : Prop :=
  t.om.replies = s.om.replies ++ [{ id := writeId req key, status := stOk, data := [] }]

/-- A write waits for its effect (R522). -/
def Waits (req : Req) (key note : Nat) (s t : State) : Prop :=
  t.om.waiting = s.om.waiting ++ [{ id := writeId req key, note := note }]

/-! ### The cores (R67, R85, R113) -/

/-- A vector core works, every address its instruction reads is populated, and every lane takes part. -/
def VectorReads (place : VectorPlace) (reads : List (Nat × ElemRange × Nat)) (s : State) : Prop :=
  coreWorks s place.tower place.cluster = true ∧ reads.all (fun x => readPopulated x.1 x.2.1 0 x.2.2) = true ∧
    place.mask = BitVec.allOnes 64

/-- The values of the first elements of a range. -/
def values (place : VectorPlace) (f : Nat) (src : ElemRange) (count : Nat) (s : State) : List Num :=
  (readElems s place.tower f src 0 count).map (Elem.num f)

/-- Where the elements from `i` on of a packed array begin, as a key of the scratchpads, and how many bytes `n` of them
touch. -/
def packedKey (w : Tower) (addr : BitVec 28) (width i : Nat) : Nat := w.val * 2 ^ 28 + addr.toNat + width * i / 8
def packedBytes (width i n : Nat) : Nat := (width * (i + n) + 7) / 8 - width * i / 8

/-- The elements from `i` on of an array have a place in one cluster. -/
def HasPlace (addr : BitVec 28) (width i n : Nat) : Prop :=
  rangePopulated (addr.toNat + width * i / 8) (packedBytes width i n) = true

/-- Only the bytes that the elements from `i` on of a packed array touch can differ. -/
def OnlyPacked (w : Tower) (addr : BitVec 28) (width i n : Nat) (s t : State) : Prop :=
  ∀ key, key < packedKey w addr width i ∨ packedKey w addr width i + packedBytes width i n ≤ key →
    spadByte t key = spadByte s key

/-- The rounding an instruction uses for a target (R104, R105). -/
def roundingFor (mode : Rounding) (target : Nat) (s : State) : Rounding :=
  if mode = .sr ∧ stochastic s target = false then .rne else mode

/-! ### Records in the completion ring (R159, R500) -/

/-- The completion ring of a partition takes a record at once. -/
def RingOpen (p : Nat) (s : State) : Prop :=
  (queueSet s p).enabled = true ∧ (queueSet s p).hold = [] ∧ ringFull (queueSet s p) = false

/-- A record has been written into its slot of the completion ring. -/
def Recorded (p : Nat) (r : RecordFields) (s t : State) : Prop :=
  let q := queueSet s p
  { function := partitionFunction s p, kind := .record, address := q.cqBase + 32 * (q.cqTail.toNat % max q.cqSize 1),
    data := recordBytes r } ∈ t.host.writes ∧ (queueSet t p).cqTail = q.cqTail + 1

/-- A partition performs an entry of its graph queue next, and can report it (R137, R436, R483, R500). -/
def Performs (p : Nat) (pos : BitVec 32) (e : BitVec 512) (s : State) : Prop :=
  nextEntry s p = some (pos, e) ∧ twinServes s = true ∧ tdiError s p = false ∧ RingOpen p s

/-- An entry has been taken from the graph queue and its command record written (R140, R159). -/
def Performed (p : Nat) (run : BitVec 32) (code reason argument : Nat) (s t : State) : Prop :=
  Recorded p { stamp := packageStamp s, run := run, kind := 2, code := code, reason := reason, argument := argument } s t ∧
    (queueSet t p).fetched = (queueSet s p).fetched.tail

/-! ### Descriptors (R172 to R175) -/

/-- A running task issues a descriptor to an engine whose queue is empty. -/
def Issues (w : Tower) (e : EngineNo) (d : BitVec 512) (p : Nat) (r : Run) (s : State) : Prop :=
  partitionOf s w = some p ∧ runningRun s p = some r ∧ findRun s p r.id = some r ∧ towerUp s w = true ∧
    (taskOf r (dTask d)).phase = .running ∧ engineQueue s (16 * w.val + e.val) = [] ∧ descRefused d = false

/-- The one descriptor of an engine has ended with a code. -/
def Ended (w : Tower) (e : EngineNo) (p : Nat) (run : BitVec 32) (d : BitVec 512) (code : Nat) (t : State) : Prop :=
  ∃ x, engineQueue t (16 * w.val + e.val) = [x] ∧ x.raw = d ∧ x.partition = p ∧ x.run = run ∧ x.state = .done ∧
    x.code = code

/-- Nothing stands between an engine and a line of its own tower: no base die on the way is busy, the scratchpad has been
cleared, and the region table permits the access. -/
def OwnLine (w : Tower) (p a : Nat) (write : Bool) (s : State) : Prop :=
  placeTower a = some w.val ∧ towerUp s w = true ∧ blockedBase s w w = none ∧ unclearedAt s a = false ∧
    regionPermits s w a (partitionSecure s p) write (some p) = true

/-- A descriptor that fills one whole line of its own tower's DRAM, at local physical address `a`, and has not begun. -/
def FillsLine (w : Tower) (d : Desc) (a : Nat) (s : State) : Prop :=
  dOp d.raw = 2 ∧ descRefused d.raw = false ∧ dDstSpad d.raw = false ∧ dRows d.raw = 1 ∧ dRowBytes d.raw = 64 ∧
    dDest d.raw % 64 = 0 ∧ d.cursorRows = 0 ∧ d.cursorBytes = 0 ∧ d.chunk = none ∧ d.code = ccOk ∧ d.poison = false ∧
    mayIssue s d = true ∧ (∃ c, resolveSide s w d false (dDest d.raw) .write = .at_ 0 a c) ∧ a % 64 = 0 ∧
    OwnLine w d.partition a true s ∧ stackServes s w = true ∧ sharersOf s a = [] ∧
    Tab.look [] s.dram.writeBacks (bankKey (a / 64)) = []

/-! ### Open packets (R236) -/

/-- A tower has sent the answer to an open request: it waits for a slot in class 0, or is on the mesh. -/
def OpenAnswered (w : Tower) (h : BitVec 128) (kind code lines : Nat) (data : Bytes) (t : State) : Prop :=
  (∃ x ∈ heldFor t w (oTower h), x.packet = openAnswer h kind code lines data ∧ x.class_ = 0) ∨
    { source := w.val, dest := oTower h, load := .packet (openAnswer h kind code lines data) : MeshPacket } ∈ t.pho.mesh

/-- An open request has reached a tower that serves it. -/
def OpenServed (w : Tower) (p : OpenPacket) (kind : Nat) (write : Bool) (s : State) : Prop :=
  (w.val, p) ∈ s.pho.inbox ∧ oKind p.header = kind ∧ openRefusal s w p.header write = none

/-- The answer to an open request has reached the descriptor that waits for it, the only one of its engine. -/
def OpenAwaited (w : Tower) (p : OpenPacket) (kind : Nat) (d : Desc) (s : State) : Prop :=
  (w.val, p) ∈ s.pho.inbox ∧ oKind p.header = kind ∧ oTower p.header = w.val ∧
    (s.pho.outstanding.any (fun o => decide (o.1 = w.val ∧ o.2.1 = oTag p.header))) = true ∧
    (∀ f ∈ s.dma.fills, ¬(f.tower = w.val ∧ f.tag = oTag p.header)) ∧
    (∀ k ∈ engineKeys w, k ≠ 16 * w.val + oEngine p.header → engineQueue s k = []) ∧
    engineQueue s (16 * w.val + oEngine p.header) = [d] ∧ d.state = .active ∧ d.wait = .openTag (oTag p.header)

/-! ### Links (R276, R287, R290) -/

/-- A receiver has lock, stands at the first block of a flit, and is not near its loss. -/
def InStep (n : Nat) (s : State) : Prop :=
  (link s n).locked = true ∧ (link s n).hunt.block = 0 ∧ (link s n).hunt.recent.countP id < 16

/-- A link takes a step of a tap of a lane. -/
def TapTaken (n lane step : Nat) (s : State) : Prop :=
  linkExists n = true ∧ lane < linkLanes n ∧ 1 ≤ step ∧ step ≤ 4 ∧ 2 ≤ (link s n).state ∧ (link s n).loop = 0 ∧
    s.frame.optical = true

/-- The NULL flit that begins a loop-back: its data bytes carry PRBS31. -/
def loopNull (n : Nat) (s : State) : Bytes :=
  mkFlit 1 0 (ackField s n) (nakField s n) 0xFFFF ((List.range 240).map Config.prbs31)

/-! ### Lasers (R301 to R305) -/

/-- A word of a notice is intact, names another tower as its source, and asks for an action (R303). -/
def HearsOf (w : Tower) (word : BitVec 64) (action : Nat) : Prop :=
  wordIntact word = true ∧ bits word 59 57 = action ∧ bits word 63 60 < 12 ∧ bits word 63 60 ≠ w.val

/-- A hub has been told that a lane of another tower changes its carrier at the opening of a frame. -/
def TakesFrom (w : Tower) (word : BitVec 64) (carrier frame : Nat) (duplicate : Bool) (t : State) : Prop :=
  { receiver := w.val, source := bits word 63 60, lane := bits word 56 52, carrier := carrier, frame := frame,
    mask := bits word 33 26, duplicate := duplicate : Carrier } ∈ t.las.carriers

/-- The one sparing of a lane. -/
def OnlySparing (x : Sparing) (s : State) : Prop :=
  x ∈ s.las.sparings ∧ ∀ y ∈ s.las.sparings, y.flock = x.flock → y.lane = x.lane → y = x

/-! ### The rack fabric (R350, R354, R363 to R366, R373) -/

/-- A packet can leave this package: its destination has a port, and the port carries what it asks for. -/
def CanLeave (p : FabricPacket) (s : State) : Prop :=
  let f := readHeader p.header
  f.hops + 1 < 32 ∧ ∃ port, routeNow s f.dest = some port ∧ (f.secure = true → portSecure s port = true) ∧
    (f.confidential = true → portEncrypted s port = true)

/-- A well-formed packet of a kind arrives at a port and is for this package. -/
def ComesIn (port kind : Nat) (header : BitVec 256) (data : Bytes) (s : State) : Prop :=
  let f := readHeader header
  portUp s port = true ∧ f.kind = kind ∧ (f.secure = true → portSecure s port = true) ∧
    packetWellFormed { header := header, data := data } = true ∧ packageId s = some f.dest

/-- A request that comes in belongs to a job that is served. -/
def RequestServed (port kind : Nat) (header : BitVec 256) (data : Bytes) (s : State) : Prop :=
  let f := readHeader header
  ComesIn port kind header data s ∧ twinServes s = true ∧
    (∃ q, jobPartition s f.job = some q ∧ bindingFrozen (bindingWord s q) = false) ∧
    (f.confidential = true → portEncrypted s port = true)

/-- An entry takes a request of a class and kind (R363). -/
def EntryFits (port : Nat) (f : FabricHeader) (e : CombineEntry) : Prop :=
  e.port = port ∧ e.class_ = (combineClass f).1 ∧ e.job = f.job ∧ e.secure = f.secure ∧ e.address = f.address ∧
    e.kind = if (combineClass f).1 = .atomic then f.atomic else 0

/-- A request has reached the combiner of a port (R364): it opens an entry, joins the one that fits, or stands alone. -/
def Combined (port : Nat) (p : FabricPacket) (s t : State) : Prop :=
  let f := readHeader p.header
  ((combineClass f).2 = true → slotsUsed s port < 4096 → (∀ e ∈ s.fab.entries, e.port ≠ port) →
    t.fab.entries = s.fab.entries ++ [{
      port := port, class_ := (combineClass f).1, job := f.job, secure := f.secure, address := f.address,
      kind := if (combineClass f).1 = .atomic then f.atomic else 0, combinable := true, opened := s.now,
      ends := s.now + dictNat s 0x500004, arrived := packageStamp s, members := [p] }]) ∧
  ((combineClass f).2 = true → slotsUsed s port < 4096 → ∀ e ∈ s.fab.entries, EntryFits port f e →
    (∀ x ∈ s.fab.entries, EntryFits port f x → x = e) → e.members.length < 254 →
    { e with members := e.members ++ [p] } ∈ t.fab.entries ∧
    counter t 0x500009 = (counter s 0x500009 + 1) % 2 ^ 64) ∧
  ((combineClass f).2 = false → ∃ e ∈ t.fab.ready, e.port = port ∧ e.members = [p] ∧ e.closedAt = s.now)

/-- An answer has come in to the request that a descriptor waits for, the only one of its engine. -/
def FabricAwaited (w : Tower) (port kind : Nat) (header : BitVec 256) (data : Bytes) (d : Desc) (s : State) : Prop :=
  let f := readHeader header
  ComesIn port kind header data s ∧ f.destTower = w.val ∧
    (∃ o, s.fab.outstanding.find? (requestIs w f.engine f.tag) = some o ∧ (o.phase = .sent ∨ o.phase = .lost)) ∧
    engineQueue s (16 * w.val + f.engine) = [d] ∧ d.state = .active ∧ d.wait = .fabric f.tag

/-- A response to a request leaves at once. -/
def Responded (req : FabricHeader) (code : Nat) (data : Bytes) (s t : State) : Prop :=
  ∃ x ∈ t.fab.sent.drop s.fab.sent.length, x.packet.data = data ∧ ∃ f : FabricHeader, x.packet.header = writeHeader f ∧
    f.dest = req.source ∧ f.destTower = req.sourceTower ∧ f.engine = req.engine ∧ f.tag = req.tag ∧ f.job = req.job ∧
    f.code = code

/-- The port that leads to a package takes an open response at once. -/
def ReplyOpen (dest : Nat) (s : State) : Prop :=
  ∃ port, routeNow s dest = some port ∧ Tab.look 0 s.fab.settling dest ≤ s.now ∧
    Tab.look 0 s.fab.used (4 * port + 1) < channelBuffers 1 ∧ (portEncrypted s port = true → portKeyed s port = true) ∧
    ∀ h ∈ s.fab.held, h.port = port → h.until_ = none → channelOf (readHeader h.packet.header).kind ≠ 1

/-! ### The twin pair (R439, R446) -/

/-- A twin packet of a kind is taken from a partner in the same epoch that has not left the pair and does not claim to be
active beside this package. -/
def TwinHears (kind : Nat) (k : Bytes) (s : State) : Prop :=
  s.twin.state ≠ 0 ∧ twUp s = true ∧ tpIs kind k = true ∧ stampLegal s (tpStamp k) = true ∧
    tpEpoch k = s.twin.epoch ∧ tpState k ≠ 0 ∧ ¬(s.twin.state = 2 ∧ tpState k = 2)

/-- A token shows the frame relation of the pair. -/
def Steady (k : Bytes) (oneWay : Nat) (s : State) : Prop := phiApart s (measure s (tpStamp k) oneWay).2 s.twin.phi ≤ 2

/-- A package has been fenced (R444). -/
def Fenced (s t : State) : Prop :=
  t.twin.state = 6 ∧ Raised 0x5809 s t ∧ t.twin.releaseRuns = true ∧ t.fab.outstanding = []

/-! ### The host link (R497, R502) -/

/-- An MSI-X message has been sent, or waits because its vector is masked (R502). -/
def Signalled (f vector : Nat) (s t : State) : Prop :=
  vector < vectorCount f → (vector ∈ (functionBlock s f).unmasked →
    { function := f, kind := .message, address := vector, data := [] : HostWrite } ∈ t.host.writes.drop s.host.writes.length) ∧
  (vector ∉ (functionBlock s f).unmasked → vector ∈ (functionBlock t f).waiting)

/-- A BAR2 access within one line is carried out at a place (R497). -/
def BarServed (f offset len p va a : Nat) (write : Bool) (s : State) : Prop :=
  barReachable s f = true ∧ barPlace s f offset = some (p, va) ∧ 1 ≤ len ∧ va % 64 + len ≤ 64 ∧
    (∃ target cacheable, translateNow p p va (if write then .write else .read) s = (.ok target a cacheable, s) ∧
      target ≤ 1 ∧ (target = 0 → ∀ u, placeTower a = some u → stackServes s u = true)) ∧
    ∃ u, placeTower a = some u ∧
      regionPermits s u a (functionSecure s f) write (if f = 0 then none else some p) = true ∧ towerUp s u = true ∧
      unclearedAt s a = false ∧ ∀ b ∈ hostBases u, baseBusy s b = false

/-- A BAR2 read of a line meets something that takes no request: a table that cannot be read yet, a drained or scrubbed
stack, or a cluster that has not been cleared. -/
def BarRetried (f offset len p va : Nat) (s : State) : Prop :=
  barReachable s f = true ∧ barPlace s f offset = some (p, va) ∧ 1 ≤ len ∧ va % 64 + len ≤ 64 ∧
    ((∃ q, (translateNow p p va .read s).1 = .wait q) ∨
      ∃ target a cacheable u, translateNow p p va .read s = (.ok target a cacheable, s) ∧ target ≤ 1 ∧
        placeTower a = some u ∧ regionPermits s u a (functionSecure s f) false (if f = 0 then none else some p) = true ∧
        ((target = 0 ∧ stackServes s u = false) ∨ unclearedAt s a = true ∨ ∃ b ∈ hostBases u, baseBusy s b = true))

/-- The MCTP endpoint is reachable (R506). -/
def EndpointUp (s : State) : Prop := hostUp s 0 = true ∧ 3 ≤ s.start.step ∧ s.start.donkey = false

/-- An MCTP control command has been answered. -/
def EndpointSent (command : Nat) (response : Bytes) (s t : State) : Prop :=
  t.host.mctpSent = s.host.mctpSent ++ [(command, response)]

/-! ### The object dictionary (R519, R520, R527) -/

/-- A request is served now and passes the checks that come before a value is looked at. -/
def Serves (req : Req) (op : BitVec 8) (key : BitVec 24) (offset : Nat) (write : Bool) (s : State) : Prop :=
  admitRequest (requestId req op key offset) s = none ∧ accessFault req.requester key.toNat write s = none

/-- A request has been answered. -/
def Replied (req : Req) (op : BitVec 8) (key : BitVec 24) (offset : Nat) (status : BitVec 8) (data : Bytes) (s t : State) :
    Prop :=
  t.om.replies = s.om.replies ++ [{ id := requestId req op key offset, status := status, data := data }]

/-! ### Diodes (R425) -/

/-- A sample of a sound diode: in range, no jump, and near every other reading but that of the diode `out`. -/
def SoundSample (readings : List Int) (out : Option Nat) (s : State) (i : Nat) : Prop :=
  (diode s i).broken = false ∧ (diode s i).jump = none ∧ ∃ x, readings[i]? = some x ∧ inDiodeRange x = true ∧
    (∀ y, (diode s i).last = some y → (x - y).natAbs ≤ 150) ∧
    ∀ j z, readings[j]? = some z → out ≠ some j → (x - z).natAbs ≤ 250

/-! ### Attestation (R477, R481) -/

/-- An SPDM request is taken: the path carries messages and has negotiated far enough. -/
def SpdmServes (x : SpdmPath) (level : Nat) (s : State) : Prop :=
  pathOpen s x = true ∧ level ≤ Tab.look 0 s.sec.negotiated (pathKey x)

/-- A path carries messages of an established session. -/
def InSession (x : SpdmPath) (id : BitVec 32) (s : State) : Prop :=
  pathOpen s x = true ∧ ∃ e, sessionOf s x id = some e ∧ e.established = true

/-- A message has been answered on its path. -/
def SpdmSent (x : SpdmPath) (a : SpdmAnswer) (s t : State) : Prop := t.sec.answers = s.sec.answers ++ [(x, a)]

/-- The signature over what a path has exchanged. -/
def spdmSigned (x : SpdmPath) (t : State) : Bytes := Config.spdmSignature (Tab.look [] t.sec.transcripts (pathKey x))

/-- A TDISP message is taken: DOE carries messages, and the function is a TDI. -/
def TdispServes (f : Nat) (s : State) : Prop := pathOpen s .doe = true ∧ isTdi s f = true

/-! ### Start-up (R536, R546) -/

/-- A step of the start has ended, complete (1) or at its limit (2), and the next one has begun. -/
def StepEnded (result : Nat) (s t : State) : Prop :=
  Raised 0x7001 s t ∧ t.start.step = s.start.step + 1 ∧ t.start.stepBegan = t.now ∧
    Tab.look {} t.start.log s.start.step = {
      began := (s.start.stepBegan - s.start.poweredAt) / us
      duration := (t.now - s.start.stepBegan) / us
      result := result }

/-- A start has failed: the device is off and begins again at step 1 after 1 s (R546). -/
def StartFailed (s t : State) : Prop :=
  t.start.step = 0 ∧ t.start.restartAt = some (t.now + sec) ∧ t.start.lastFailedStep = s.start.step ∧
    t.start.failedCount = s.start.failedCount ∧ t.start.service = []

end Sys2Proof.Machine
end

