-- ==== Sys2Proof/Certificates/Slice0/Obligations.lean ====
section
/-! DEFINITION. The statements for the provers. Each says, in the words of Safety, that a command answers a next state under
hypotheses on the state and the operands alone, what that state holds, and which parts of the state can differ. -/

section

open Sys2Proof Sys2Proof.Machine

/-- A step takes the command at the front of the queue and is exec of it on the state with the queue's rest; with an
empty queue 1 ns passes and nothing else changes. It rests on choices of the model: log entry 1. -/
def Obligations.StepRunsFrontCommand : Prop :=
  (∀ (c : Instr) (rest : List Instr) (s : State),
    step { s with pending := c :: rest } = exec c { s with pending := rest }) ∧
  (∀ (s : State), s.pending = [] → step s = .next { s with now := s.now + 1 })

/-- After reset the memories and registers are in canonical form, no command waits, every counter reads 0 and every
entry of the dictionary has its default; the device is off, and no frame runs. It rests on choices of the model: log
entries 2, 3, 4. -/
def Obligations.ResetSound : Prop :=
  Memory.wf State.reset = true ∧ Registers.wf State.reset = true ∧ CountersFit State.reset ∧
  State.reset.pending = [] ∧ (∀ k, counter State.reset k = 0) ∧
  (∀ k, dictBytes State.reset k = defaultBytes k) ∧ dictNat State.reset 0x300001 = 2 ∧
  State.reset.start.step = 0 ∧ State.reset.start.donkey = false ∧ State.reset.frame.ticks = .off ∧
  State.reset.hen.ring = [] ∧ State.reset.parts.runs = [] ∧ State.reset.parts.graphs = []

/-- Every step keeps the canonical form of the scratchpads, the poison marks and the DRAM, the canonical form of the
counters and the dictionary, and counters that fit their 64 bits (R568). -/
def Obligations.StepKeepsForms : Prop :=
  ∀ (s t : State), Memory.wf s = true → Registers.wf s = true → CountersFit s → step s = .next t →
    Memory.wf t = true ∧ Registers.wf t = true ∧ CountersFit t

/-- Every step is answered and runs forward: it takes one command and adds none, time and the free values drawn
never go back, a blown SVN fuse stays blown (R473), and the start number rises and stops at its largest value (R566,
R568). It rests on choices of the model: log entries 1, 9. -/
def Obligations.StepRunsForward : Prop :=
  ∀ (s : State), ∃ t, step s = .next t ∧ t.pending = s.pending.tail ∧ s.now ≤ t.now ∧ s.freeDrawn ≤ t.freeDrawn ∧
    fusedSvn s ≤ fusedSvn t ∧
    (s.hen.startNumber < 2 ^ 32 → s.hen.startNumber ≤ t.hen.startNumber ∧ t.hen.startNumber < 2 ^ 32)

/-- A fabric header reads back as it was written, with every field at every value of its width (R355). -/
def Obligations.FabricHeaderRoundTrip : Prop :=
  ∀ (f : FabricHeader), f.kind < 2 ^ 8 → f.channel < 2 ^ 2 → f.dest < 2 ^ 12 → f.destTower < 2 ^ 4 → f.source < 2 ^ 12 →
    f.sourceTower < 2 ^ 4 → f.engine < 2 ^ 4 → f.code < 2 ^ 4 → f.hops < 2 ^ 6 → f.address < 2 ^ 48 →
    f.enables < 2 ^ 8 → f.atomic < 2 ^ 4 → f.age < 2 ^ 10 → f.reissues < 2 ^ 2 → f.credits.length = 4 →
    (∀ c ∈ f.credits, c < 2 ^ 8) → readHeader (writeHeader f) = f

/-- The stamp of a moment of the frame now open (R3, R35): frame number, slot, and the offset in the slot, halved
and rounded down at code 0x3; the offset fits R3 and R4, and stamps are in the order of their moments (R5), within a
frame and from one frame to a later one. -/
def Obligations.StampFields : Prop :=
  ∀ (f : Frame) (x : Nat), f.number < 2 ^ 48 → f.start ≤ x → x < f.start + frameCycles f.code →
    bits (stampAt f x) 63 16 = f.number ∧ bits (stampAt f x) 15 8 = (x - f.start) / slotCycles f.code ∧
    (f.code = 3 → bits (stampAt f x) 7 0 = (x - f.start) % 80 / 2) ∧
    (f.code ≠ 3 → bits (stampAt f x) 7 0 = (x - f.start) % slotCycles f.code) ∧
    bits (stampAt f x) 7 0 ≤ 39 ∧ bits (stampAt f x) 7 0 ≤ largestOffset f.code ∧
    (∀ y, x ≤ y → y < f.start + frameCycles f.code → (stampAt f x).toNat ≤ (stampAt f y).toNat) ∧
    (∀ (g : Frame) (y : Nat), g.number < 2 ^ 48 → f.number < g.number → g.start ≤ y → y < g.start + frameCycles g.code →
      (stampAt f x).toNat < (stampAt g y).toNat)

/-- Atomics (R368) on a 64-bit word `a` with operand `b` and compare value `c`, by the kinds of R173, and the old
value they return. -/
def Obligations.AtomicResults : Prop :=
  (∀ a b c : BitVec 64,
    atomicResult 0 a.toNat b.toNat c.toNat = (a + b).toNat ∧
    atomicResult 1 a.toNat b.toNat c.toNat = (if b.slt a then b else a).toNat ∧
    atomicResult 2 a.toNat b.toNat c.toNat = (if a.slt b then b else a).toNat ∧
    atomicResult 3 a.toNat b.toNat c.toNat = (a &&& b).toNat ∧
    atomicResult 4 a.toNat b.toNat c.toNat = (a ||| b).toNat ∧
    atomicResult 5 a.toNat b.toNat c.toNat = (a ^^^ b).toNat ∧
    atomicResult 6 a.toNat b.toNat c.toNat = b.toNat ∧
    atomicResult 7 a.toNat b.toNat c.toNat = (if a = c then b else a).toNat) ∧
  (∀ (line off : Nat) (f : Nat → Nat) (s : State),
    (atomicLine line off f s).1 = fieldAt (readLine line (markBlock line s)).1 off 8)

/-- The device is stopped (R513) while no partition holds a loaded graph, none holds a live run, and every queue set
is disabled. -/
def Obligations.StoppedMeans : Prop :=
  ∀ (s : State), stopped s = true ↔
    (∀ g, g ∉ s.parts.graphs) ∧ (∀ r, r ∉ s.parts.runs) ∧ (∀ p : Tower, (queueSet s p).enabled = false)

/-- The ring (R560): the record next in turn is written into slot s mod 16,384, over the record there; slot i lies
at byte 32 × i of 0x6800:02; and a record overwritten is counted in the overflow count of 0x6800:01, its bytes 8 to
11. -/
def Obligations.RingSlots : Prop :=
  ∀ (r : Record) (rest : List Record) (s : State), s.hen.frozen = false → s.hen.overflow + 1 < 2 ^ 32 →
    s.hen.priorityQueue = r :: rest ∨ (s.hen.priorityQueue = [] ∧ s.hen.inputQueue = r :: rest) →
    ∃ t, exec .recordRingWrite s = .next t ∧
      (∀ i, i < 16384 → slice (entryValue t 0x680002) (32 * i) 32 =
        if i = r.seq.toNat % 16384 then recordOf r else padTo 32 (Tab.look [] s.hen.ring i)) ∧
      leNat (slice (entryValue t 0x680001) 8 4) =
        s.hen.overflow + (if Tab.look [] s.hen.ring (r.seq.toNat % 16384) = [] then 0 else 1)

/-- What is put on a line is read back as it was sent: a descrambler follows the scrambler (R271), a flit's eight
blocks give its bytes (R270), no lane carries 64 equal symbols and its stuff symbols are taken out again (R273),
levels and their dealing to the lanes lose no bit (R272), and the fields of a flit (R274) and of a group (R326) read
as they were written, with checks that pass. -/
def Obligations.LineCodeRoundTrip : Prop :=
  (∀ (st : BitVec 58) (bs : List Bool), descramble st (scramble st bs).1 = (bs, (scramble st bs).2)) ∧
  (∀ (st : BitVec 58) (f : Bytes), f.length = 256 →
    (flitStream st f).1.length = 2064 ∧
    (∀ k, k < 8 → (((flitStream st f).1.drop (258 * k)).take 2) = blockHeader k) ∧
    descramble st ((List.range 8).flatMap (fun k => (((flitStream st f).1.drop (258 * k + 2)).take 256))) =
      (f.flatMap byteBits, (flitStream st f).2)) ∧
  (∀ (run : Nat × Nat) (ls : List Nat), run.2 < 63 → unstuffLane run (stuffLane run ls).1 = ls) ∧
  (∀ (ls : List Nat) (l : Nat), ¬ List.replicate 64 l <:+: (stuffLane (0, 0) ls).1) ∧
  (∀ bs : List Bool, bs.length % 2 = 0 →
    (streamLevels bs).flatMap (fun l => [(levelPair l).1, (levelPair l).2]) = bs) ∧
  (∀ (n at_ : Nat) (ls : List Nat) (j : Nat), 0 < n → (dealtTo n at_ ((at_ + j) % n) ls)[j / n]? = ls[j]?) ∧
  (∀ (kind seq ack nak first : Nat) (data : Bytes), kind < 4 → seq < 1024 → ack < 2 ^ 16 → nak < 2 ^ 16 → first < 2 ^ 16 →
    let f := mkFlit kind seq ack nak first data
    flitIntact f = true ∧ flitKind f = kind ∧ flitSeq f = seq ∧ flitAckValid f = nbit ack 15 ∧ flitAck f = ack % 1024 ∧
      flitNakValid f = nbit nak 15 ∧ flitNak f = nak % 1024 ∧ flitFirst f = first ∧ flitData f = padTo 240 data) ∧
  (∀ (w : BundleSide) (n : Fin 36) (payload : Bytes) (s : State), (bundle s w n).next < 1024 →
    (bundle s w n).sentParity < 2 ^ 60 → (bundle s w (reverseBundle w n)).expected < 1024 →
    let g := (makeGroup w n payload s).1
    g.length = 540 ∧ fieldAt g 0 8 = 2 ^ 60 + (bundle s w n).sentParity ∧ fieldAt g 8 2 = (bundle s w n).next ∧
      nbit (fieldAt g 10 2) 15 = (bundle s w (reverseBundle w n)).got ∧
      ((bundle s w (reverseBundle w n)).got = true →
        fieldAt g 10 2 % 1024 = ((bundle s w (reverseBundle w n)).expected + 1023) % 1024) ∧
      slice g 24 512 = padTo 512 payload ∧ fieldAt g 0x218 4 = (crc32 (g.take 0x218)).toNat)

/-- Frames and tick words (R33, R36, R38, R40): a boundary lies one frame after the last; a receiver in lock takes
the word it predicts, at the moment it predicts and with the length it carries, and misses any other; the sixteenth
of 16 agreeing words brings lock; each miss is reported, and the fourth in a row is tick loss, while the flywheel
turns on; a length code waits for its frame. It rests on choices of the model: log entries 5, 59, 134, 135. -/
def Obligations.FrameCommandsComplete : Prop :=
  (∀ (taps : List LaserTap) (s : State), s.frame.ticks ≠ .off →
    ∃ t, exec (.frameBoundary taps) s = .next t ∧ t.frame.start = s.frame.start + frameCycles s.frame.code ∧
      t.frame.count = s.frame.count + 1 ∧ s.frame.start + frameCycles s.frame.code ≤ t.now ∧
      (s.frame.ticks = .optical → s.frame.firstSent = true → t.frame.number = s.frame.number + 1)) ∧
  (∀ (w : Tower) (word : BitVec 128) (s : State), s.frame.ticks = .optical → towerUp s w = true →
    baseDown s (baseOfTower w) = false → tickValid word = true →
    Completes (.tickWordReceived w word) s [.counters, .events, .frame] (fun t =>
      ((receiver s w).locked = true → tickNumber word = (receiver s w).next → s.now ≤ (receiver s w).due + 1 →
        (receiver s w).due ≤ s.now + 1 → receiver t w = { receiver s w with
          missed := 0
          next := (receiver s w).next + 1
          due := (receiver s w).due + frameCycles (tickCode word)
          code := tickCode word }) ∧
      ((receiver s w).locked = true → (receiver s w).everLocked = true →
        (tickNumber word ≠ (receiver s w).next ∨ (receiver s w).due + 1 < s.now ∨ s.now + 1 < (receiver s w).due) →
        (receiver t w).missed = (receiver s w).missed + 1 ∧ Raised 0x3002 s t) ∧
      ((receiver s w).locked = false → (receiver s w).good = 15 → tickNumber word = (receiver s w).lockNext →
        s.now ≤ (receiver s w).lockDue + 1 → (receiver s w).lockDue ≤ s.now + 1 →
        (receiver t w).locked = true ∧ (receiver t w).lost = false ∧ (receiver t w).next = tickNumber word + 1 ∧
          (receiver t w).due = s.now + frameCycles (tickCode word) ∧ (receiver t w).code = tickCode word ∧
          Raised 0x3001 s t) ∧
      ∀ v : Tower, v ≠ w → receiver t v = receiver s v)) ∧
  (∀ (w : Tower) (s : State), s.frame.ticks = .optical → towerUp s w = true → baseDown s (baseOfTower w) = false →
    (receiver s w).everLocked = true →
    Completes (.tickMissed w) s [.counters, .events, .frame] (fun t =>
      counter t 0x300005 = satAdd 32 (counter s 0x300005) 1 ∧ Raised 0x3002 s t ∧
      (receiver t w).missed = (receiver s w).missed + 1 ∧ (receiver t w).next = (receiver s w).next + 1 ∧
      (receiver t w).due = (receiver s w).due + frameCycles (receiver s w).code ∧
      ((receiver s w).missed = 3 → (receiver s w).lost = false →
        (receiver t w).locked = false ∧ (receiver t w).lost = true ∧ Raised 0x3003 s t))) ∧
  (∀ (req : Req) (value : Bytes) (s : State), Admitted req 0x300001 value s → leNat value < 4 → s.parts.graphs = [] →
    BitVec.ofNat 2 (leNat value) ≠ s.frame.code →
    Completes (.frameLengthWrite req value) s [.events, .om, .frame] (fun t =>
      t.frame.pending = some (BitVec.ofNat 2 (leNat value),
        if s.now = s.frame.start then s.frame.number + 1 else s.frame.number + 2) ∧
      t.frame.code = s.frame.code ∧ Waits req 0x300001 0 s t))

/-- Stretching and crossings (R390, R394 to R398): a droop stretches one period and is counted, a busy crossing
holds its neighbours, a crossing fault poisons its lines, and an alignment empties the die's crossings. It rests on
choices of the model: log entry 38. -/
def Obligations.StretchCommandsComplete : Prop :=
  (∀ (w : Tower) (r : Region) (droop : BitVec 8) (senders receivers : List Cluster) (s : State), s.clk.running = true →
    towerUp s w = true → dictNat s 0x280009 < droop.toNat →
    Completes (.droopStretch w r droop senders receivers) s [.counters, .events, .parts, .clk, .pow] (fun t =>
      counter t 0x280005 = (counter s 0x280005 + 1) % 2 ^ 64 ∧
      (r.val < 12 → senders = [] → receivers = [] → debt t w r = debt s w r + 1))) ∧
  (∀ (w : Tower) (k : Cluster) (port cycle lines : Nat) (s : State),
    Completes (.crossingFault w k port cycle lines) s [.events, .spad, .clk] (fun t =>
      t.spad.poisonedLines = s.spad.poisonedLines ++
        [{ cluster := 12 * w.val + k.val, port := port, phase := none, first := cycle, lines := lines }] ∧
      4 * (12 * w.val + k.val) + port % 4 ∈ t.clk.realign ∧ Raised 0x2808 s t)) ∧
  (∀ (w : Tower) (s : State), Completes (.clockAlignmentDone w) s [.clk] (fun t =>
    w.val ∈ t.clk.aligned ∧ ∀ x ∈ t.clk.realign, x / 48 ≠ w.val ∧ x ∈ s.clk.realign))

/-- The base reference (R388, R582): a hub that loses it is in tick loss; it returns at a tick, or after 100 ms its
tower is out of service; without REFCLK tick words stop after 100 ms, and go on when it returns. It rests on choices
of the model: log entries 6, 58. -/
def Obligations.ReferenceCommandsComplete : Prop :=
  (∀ (w : Tower) (s : State), s.clk.running = true → towerUp s w = true → (reference s w).lostAt = none →
    Completes (.referenceLoss w) s [.events, .frame, .clk] (fun t =>
      (reference t w).lostAt = some s.now ∧ (receiver t w).locked = false ∧ (receiver t w).lost = true ∧
      Raised 0x2807 s t)) ∧
  (∀ (w : Tower) (s : State), (reference s w).lostAt.isSome = true → (reference s w).expired = false →
    Completes (.referenceReturn w) s [.clk] (fun t =>
      (reference t w).lostAt = none ∧ (reference t w).realign = true ∧
      ∀ v : Tower, v ≠ w → reference t v = reference s v)) ∧
  (∀ (w : Tower) (t0 : Nat) (s : State), (reference s w).lostAt = some t0 → (reference s w).expired = false →
    PkgUnit.tower w ∉ s.start.kept →
    ∃ t, exec (.referenceHoldoverExpiry w) s = .next t ∧ t.now = max s.now (t0 + 100 * ms) ∧
      (reference t w).expired = true ∧ towerUp t w = false) ∧
  (∀ s : State, s.clk.refclkLost = none →
    Completes .refclkLoss s [.clk] (fun t => t.clk = { s.clk with refclkLost := some s.now })) ∧
  (∀ (t0 : Nat) (s : State), s.clk.refclkLost = some t0 → s.clk.ticksHeld = none → s.frame.ticks ≠ .off →
    Completes .refclkHoldoverExpiry s [.now, .events, .frame, .clk] (fun t =>
      t.now = max s.now (t0 + 100 * ms) ∧ t.frame.ticks = .off ∧
      t.clk.ticksHeld = some (decide (s.frame.ticks = .optical)))) ∧
  (∀ (o : Bool) (s : State), s.clk.ticksHeld = some o →
    Completes .refclkReturn s [.frame, .clk] (fun t =>
      t.clk.refclkLost = none ∧ t.clk.ticksHeld = none ∧ t.frame.ticks = (if o then .optical else .provisional) ∧
      (s.frame.firstSent = true →
        t.frame.number = s.frame.number + (s.now - s.frame.start) / frameCycles s.frame.code)))

/-- Frequency steps and replica paths (R401 to R403, R406): the requested clock is taken, the core voltage ramps, a
standby loop locks or fails to, and a replica reading warns, or lowers the limit to one code below the clock in
force. It rests on choices of the model: log entries 6, 39. -/
def Obligations.ClockStepCommandsComplete : Prop :=
  (∀ (req : Req) (value : Bytes) (s : State), Admitted req 0x280001 value s → 8 ≤ leNat value → leNat value ≤ 0x18 →
    Completes (.requestedClockWrite req value) s [.dict, .events, .om, .clk, .sec] (fun t =>
      dictNat t 0x280001 = leNat value ∧ t.clk.inForce = s.clk.inForce ∧ Answered req 0x280001 s t)) ∧
  (∀ (c e : Nat) (s : State), s.clk.ramp = some (c, e) →
    Completes .vcoreRampDone s [.now, .clk] (fun t =>
      t.now = max s.now e ∧ t.clk = { s.clk with vcore := c, ramp := none })) ∧
  (∀ (w : Tower) (s : State), towerUp s w = true → w.val ∉ s.clk.lockFailed → s.clk.announced.isSome = true →
    Completes (.pllLocked w) s [.clk] (fun t => t.clk = { s.clk with locked := addOnce w.val s.clk.locked })) ∧
  (∀ (w : Tower) (s : State), towerUp s w = true → w.val ∉ s.clk.locked → w.val ∉ s.clk.lockFailed →
    s.clk.announced.isSome = true →
    Completes (.pllLockFail w) s [.now, .events, .clk] (fun t =>
      t.now = max s.now (s.frame.start + frameCycles s.frame.code - 500) ∧
      t.clk = { s.clk with lockFailed := s.clk.lockFailed ++ [w.val] } ∧ Raised 0x2806 s t)) ∧
  (∀ (w : Tower) (r : Region) (reading : BitVec 6) (s : State), s.clk.running = true → towerUp s w = true →
    reading.toNat < dictNat s 0x280007 → (replica s w r).warnedAt = none →
    Completes (.replicaWarn w r reading) s [.counters, .events, .parts, .clk, .pow] (fun t =>
      (replica t w r).warnedAt = some s.frame.count ∧ Raised 0x2804 s t)) ∧
  (∀ (w : Tower) (r : Region) (reading : BitVec 6) (s : State), s.clk.running = true → towerUp s w = true →
    reading.toNat < dictNat s 0x280008 →
    Completes (.replicaCritical w r reading) s [.counters, .events, .parts, .clk, .pow] (fun t =>
      t.clk.replicaLimit = some (max 8 (s.clk.inForce - 1)) ∧ t.clk.replicaCalm = some s.now ∧
      counter t 0x280005 = (counter s 0x280005 + 1) % 2 ^ 64 ∧ Raised 0x2805 s t)) ∧
  (∀ (c at_ : Nat) (s : State), s.clk.replicaLimit = some c → s.clk.replicaCalm = some at_ →
    Completes .replicaRelease s [.now, .clk] (fun t =>
      t.now = max s.now (at_ + 10 * sec) ∧
      t.clk.replicaLimit = (if dictNat s 0x280001 ≤ c + 1 then none else some (c + 1))))

/-- The scratchpads (R75 to R79, R82 to R94): a bank answers a read with the stored bytes and stores a write at its
address alone; the router's local port writes the line its entries bring; a read of port B in the word that port A
writes is answered busy and re-issued; an address that is not populated reaches no bank, a route entry with bad
parity sends poison, the end of clearing leaves a cluster zero, and retired banks are cleared tower by tower. It
rests on choices of the model: log entries 8, 119, 144, 145, 146, 199. -/
def Obligations.ScratchpadCommandsComplete : Prop :=
  (∀ (w : Tower) (k : Cluster) (bank : Fin 56) (a : SpadAccess) (s : State),
    Tab.look false s.spad.ready (12 * w.val + k.val) = true → a.offset.toNat < 0xC00000 →
    bankDual (Tab.look 0 s.spad.penModes (12 * w.val + k.val)) bank = false →
    bankOf (Tab.look 0 s.spad.penModes (12 * w.val + k.val)) a.offset.toNat = bank.val →
    accessLegal a = true → mayAccess s w k bank 0 a = true →
    Tab.look [] s.spad.held (((12 * w.val + k.val) * 56 + bank.val) * 2) = [] →
    Completes (.scratchpadRead w k bank [a] [] []) s [.free, .counters, .events, .spad, .parts, .clk, .pow] (fun t =>
      (a.write = none →
        t.spad.answers = [⟨a.owner, a.offset.toNat, spadBytes s (spadKey w k a.offset.toNat) a.length,
          spadPoisoned s (spadKey w k a.offset.toNat) a.length, false⟩] ∧
        ∀ key, spadByte t key = spadByte s key) ∧
      (∀ data p, a.owner.val ≠ 9 → a.write = some (data, p) → data.length = a.length →
        spadBytes t (spadKey w k a.offset.toNat) a.length = data ∧
        ∀ key, key < spadKey w k a.offset.toNat ∨ spadKey w k a.offset.toNat + a.length ≤ key →
          spadByte t key = spadByte s key) ∧
      ∀ (phase : Fin 16) (cycle : Nat) (l : NetLine), a.owner.val = 9 → a.write.isSome = true →
        a.route = some (phase, cycle) →
        writeLineAt s (12 * w.val + k.val) phase.val cycle = some (a.offset.toNat / 512) →
        lineOut s w phase.val 16 k 4 cycle = some l → l.lost = false → l.data.length = 512 →
        spadBytes t (spadKey w k (a.offset.toNat / 512 * 512)) 512 = l.data ∧
        ∀ key, key < spadKey w k (a.offset.toNat / 512 * 512) ∨ spadKey w k (a.offset.toNat / 512 * 512) + 512 ≤ key →
          spadByte t key = spadByte s key)) ∧
  (∀ (w : Tower) (k : Cluster) (bank : Fin 56) (a b : SpadAccess) (data : Bytes) (p : Bool) (s : State),
    let c := 12 * w.val + k.val
    let inBank (x : SpadAccess) : Prop := x.offset.toNat < 0xC00000 ∧ bankOf (Tab.look 0 s.spad.penModes c) x.offset.toNat = bank.val
    Tab.look false s.spad.ready c = true → bankDual (Tab.look 0 s.spad.penModes c) bank = true → inBank a → inBank b →
    accessLegal a = true → accessLegal b = true → unscheduled a.owner = false → a.owner.val ≠ 9 →
    mayAccess s w k bank 0 a = true → mayAccess s w k bank 1 b = true →
    Tab.look [] s.spad.held ((c * 56 + bank.val) * 2) = [] → Tab.look [] s.spad.held ((c * 56 + bank.val) * 2 + 1) = [] →
    Tab.look none s.spad.reissue (c * 56 + bank.val) = none → a.write = some (data, p) → data.length = a.length →
    b.write = none → sharedWords a b ≠ [] →
    Completes (.scratchpadRead w k bank [a] [b] []) s [.free, .counters, .events, .spad, .parts, .clk, .pow] (fun t =>
      Raised 0x3424 s t ∧ counter t 0x342006 = satAdd 32 (counter s 0x342006) 1 ∧
      Tab.look none t.spad.reissue (c * 56 + bank.val) = some b ∧
      (∃ x, t.spad.answers = [x] ∧ x.owner = b.owner.val ∧ x.offset = b.offset.toNat ∧ x.busy = true) ∧
      spadBytes t (spadKey w k a.offset.toNat) a.length = data ∧
      ∀ key, key < spadKey w k a.offset.toNat ∨ spadKey w k a.offset.toNat + a.length ≤ key →
        spadByte t key = spadByte s key)) ∧
  (∀ (w : Tower) (k : Cluster) (address : BitVec 28) (s : State),
    Completes (.spadAddressFault w k address) s [.events, .parts, .dma, .host] (fun t =>
      (spadPopulated address.toNat = true → t = s) ∧
      (spadPopulated address.toNat = false → Raised 0x3427 s t) ∧ ∀ key, spadByte t key = spadByte s key)) ∧
  (∀ (w : Tower) (k : Cluster) (entry : Fin 2048) (word : BitVec 64) (s : State),
    (Tab.look [] s.spad.routes (12 * w.val + k.val))[entry.val]? = some word →
    Completes (.routeParityFail w k entry) s [.events, .spad, .parts, .dma, .host] (fun t =>
      t.spad.poisonedLines = s.spad.poisonedLines ++
        [{ cluster := 12 * w.val + k.val, port := routeOut word, phase := some (routePhase word),
           first := routeStart word, lines := routeLength word }] ∧
      Raised 0x3426 s t ∧ ∀ key, spadByte t key = spadByte s key)) ∧
  (∀ (w : Tower) (k : Cluster) (s : State), Tab.look false s.spad.powered (12 * w.val + k.val) = true →
    w.val ∈ s.clk.aligned → Tab.look false s.spad.ready (12 * w.val + k.val) = false →
    (∀ e ∈ s.dma.queues, ∀ d ∈ e.2, d.wait ≠ .clearing (12 * w.val + k.val)) →
    Completes (.clusterClearDone w k) s [.spad] (fun t =>
      Tab.look false t.spad.ready (12 * w.val + k.val) = true ∧
      (∀ off, off < 2 ^ 24 → spadByte t (spadKey w k off) = 0 ∧
        Tab.look false t.spad.poison (spadKey w k off / 64) = false) ∧
      ∀ key, key < spadKey w k 0 ∨ spadKey w k 0 + 2 ^ 24 ≤ key → spadByte t key = spadByte s key)) ∧
  (∀ (req : Req) (value : Bytes) (s : State), Admitted req 0x342003 value s → leNat value < 4096 →
    (s.start.foal || stopped s) = true →
    Completes (.clearRetiredBanks req value) s [.events, .om, .spad] (fun t =>
      Answered req 0x342003 s t ∧
      ∀ (w : Tower) (k : Cluster), Tab.look 0 t.spad.retired (12 * w.val + k.val) =
        if nbit (leNat value) w.val then 0 else Tab.look 0 s.spad.retired (12 * w.val + k.val)))

/-- Matrix operations and vector instructions (R67, R99 to R115, R118 to R120, R123): a step adds one fused sum to
each accumulator of its row and to no other, a skipped step adds nothing, a write packs the row, a core without a
running task does nothing, and a vector instruction stores its packed results at its destination, the scales and the
metadata where it names them, and no other byte. It rests on choices of the model: log entries 120, 121, 147, 148,
150, 151, 152, 153, 154. -/
def Obligations.ArithmeticCommandsComplete : Prop :=
  (∀ (op : MatrixOp) (s : State),
    Completes (.matrixOperation op) s [.counters, .events, .spad, .arith, .parts, .dma, .clk, .host, .pow] (fun t =>
      (coreWorks s op.tower op.cluster = false → t = s) ∧
      (∀ st : MatrixStep, coreWorks s op.tower op.cluster = true → (rateClass op.weightFormat op.actFormat).isSome = true →
        stepPopulated op st = true → op.steps = [st] → op.clear = [] → op.writes = [] →
        (∀ key, spadByte t key = spadByte s key) ∧
        (stepSkipped s op st = true → t.arith = { s.arith with skipped := s.arith.skipped + 1 }) ∧
        (stepSkipped s op st = false → t.arith.issued = s.arith.issued + 1 ∧
          (∀ o, o < 16 → Tab.look 0 t.arith.acc (accKey op st.row o) =
            (stepOutput op (Tab.look 0 s.arith.acc (accKey op st.row o)) (stepPairs s op st o)).1 ∧
            (outputPoisoned s op st o = true → Tab.look false t.arith.accPoison (accKey op st.row o) = true)) ∧
          ∀ key, (∀ o, o < 16 → key ≠ accKey op st.row o) →
            Tab.look 0 t.arith.acc key = Tab.look 0 s.arith.acc key)) ∧
      (∀ r : Fin 32, coreWorks s op.tower op.cluster = true → (rateClass op.weightFormat op.actFormat).isSome = true →
        op.steps = [] → op.clear = [r] → op.writes = [] →
        (∀ o, o < 16 → Tab.look 0 t.arith.acc (accKey op r o) = 0) ∧ ∀ key, spadByte t key = spadByte s key) ∧
      (∀ wr : MatrixWrite, coreWorks s op.tower op.cluster = true → (rateClass op.weightFormat op.actFormat).isSome = true →
        op.steps = [] → op.clear = [] → op.writes = [wr] →
        let width := (writePort op wr.format 0).2.1
        HasPlace wr.dest width 0 16 →
        packedRead t op.tower wr.dest.toNat width 0 16 = (List.range 16).map (fun o =>
          (writePort op wr.format (Tab.look 0 s.arith.acc (accKey op wr.row o))).1 % 2 ^ width) ∧
        OnlyPacked op.tower wr.dest width 0 16 s t))) ∧
  (∀ (place : VectorPlace) (src : ElemRange) (source : Fin 2) (target : Fin 16) (mode : Rounding) (s : State),
    VectorReads place [(source.val, src, 32)] s → isMx target = true → place.dest.first = 0 →
    HasPlace place.dest.data (fmtWidth target) 0 32 → rangePopulated place.dest.scales.toNat 1 = true →
    let xs := values place source src 32 s
    let at_ := packedKey place.tower place.dest.scales 8 0
    let key := packedKey place.tower place.dest.data (fmtWidth target) 0
    at_ < key ∨ key + packedBytes (fmtWidth target) 0 32 ≤ at_ →
    Completes (.mxConvert place src 32 source target mode) s [.events, .spad, .arith, .parts, .dma, .host] (fun t =>
      ((xs.any (fun x => match x with | .fin _ _ _ => false | _ => true)) = true → spadByte t at_ = 0xFF ∧
        packedRead t place.tower place.dest.data.toNat (fmtWidth target) 0 32 = List.replicate 32 0) ∧
      ((xs.all (fun x => match x with | .fin _ m _ => decide (m = 0) | _ => false)) = true → spadByte t at_ = 0 ∧
        packedRead t place.tower place.dest.data.toNat (fmtWidth target) 0 32 = List.replicate 32 0) ∧
      ((xs.all (fun x => match x with | .fin _ _ _ => true | _ => false)) = true →
        (xs.any (fun x => match x with | .fin _ m _ => decide (m ≠ 0) | _ => false)) = true →
        (spadByte t at_).toNat = (blockExponent target xs + 127).toNat ∧
        ∀ i, i < 32 → ∃ r, (packedRead t place.tower place.dest.data.toNat (fmtWidth target) 0 32)[i]? =
          some ((toFormat target (roundingFor mode target s) false r (match xs.getD i .nan with
            | .fin n m e => .fin n m (e - blockExponent target xs)
            | y => y)).1 % 2 ^ fmtWidth target)) ∧
      ∀ k, k ≠ at_ → k < key ∨ key + packedBytes (fmtWidth target) 0 32 ≤ k → spadByte t k = spadByte s k)) ∧
  (∀ (place : VectorPlace) (src : ElemRange) (count : Nat) (int32 : Bool) (source target : Fin 16) (mode : Rounding)
      (toInf : Bool) (s : State), isMx target = false → 0 < count →
    VectorReads place [(if int32 then 0 else source.val, src, count)] s →
    HasPlace place.dest.data (fmtWidth target) place.dest.first count →
    Completes (.vectorConvert place src count int32 source target mode toInf) s
      [.events, .spad, .arith, .parts, .dma, .host] (fun t =>
      (∀ i, i < count → ∃ r,
        (packedRead t place.tower place.dest.data.toNat (fmtWidth target) place.dest.first count)[i]? =
          some ((toFormat target (roundingFor mode target s) toInf r
            (((readElems s place.tower (if int32 then 0 else source.val) src 0 count).map (fun e =>
              if int32 then int32Num e.raw else e.num source)).getD i .nan)).1 % 2 ^ fmtWidth target)) ∧
      OnlyPacked place.tower place.dest.data (fmtWidth target) place.dest.first count s t)) ∧
  (∀ (place : VectorPlace) (src : ElemRange) (source : Fin 2) (target : Fin 16) (mode : Rounding) (s : State),
    isMx target = false → VectorReads place [(source.val, src, 4)] s → place.dest.first = 0 →
    HasPlace place.dest.data (fmtWidth target) 0 2 → rangePopulated place.dest.positions.toNat 1 = true →
    let g := values place source src 4 s
    let at_ := packedKey place.tower place.dest.positions 4 0
    let key := packedKey place.tower place.dest.data (fmtWidth target) 0
    Num.nan ∉ g → at_ < key ∨ key + packedBytes (fmtWidth target) 0 2 ≤ at_ →
    Completes (.sparseConvert place src 4 source target mode) s
      [.free, .events, .spad, .arith, .parts, .dma, .host] (fun t =>
      (∃ a b, packedRead t place.tower place.dest.positions.toNat 2 0 2 = [a, b] ∧
        ((a, b) = keptPair g ∨ (b, a) = keptPair g) ∧
        ∃ q r, packedRead t place.tower place.dest.data.toNat (fmtWidth target) 0 2 =
          [(toFormat target (roundingFor mode target s) false q (g.getD a .nan)).1 % 2 ^ fmtWidth target,
           (toFormat target (roundingFor mode target s) false r (g.getD b .nan)).1 % 2 ^ fmtWidth target]) ∧
      ∀ k, k ≠ at_ → k < key ∨ key + packedBytes (fmtWidth target) 0 2 ≤ k → spadByte t k = spadByte s k)) ∧
  (∀ (place : VectorPlace) (a b c : ElemRange) (count : Nat) (format : Fin 2) (mode : Rounding) (s : State), 0 < count →
    VectorReads place [(format.val, a, count), (format.val, b, count), (format.val, c, count)] s →
    HasPlace place.dest.data (fmtWidth format) place.dest.first count →
    Completes (.vectorFma place a b c count format mode) s [.events, .spad, .arith, .parts, .dma, .host] (fun t =>
      (∀ i, i < count → ∃ r,
        (packedRead t place.tower place.dest.data.toNat (fmtWidth format) place.dest.first count)[i]? =
          some ((toFormat format (roundingFor mode format s) false r (decodeElem 0 (fma32
            ((values place format a count s).getD i .nan) ((values place format b count s).getD i .nan)
            ((values place format c count s).getD i .nan)).1.toNat)).1 % 2 ^ fmtWidth format)) ∧
      OnlyPacked place.tower place.dest.data (fmtWidth format) place.dest.first count s t)) ∧
  (∀ (place : VectorPlace) (src : ElemRange) (count : Nat) (f : Transcendental) (format : Fin 2) (s : State), 0 < count →
    VectorReads place [(format.val, src, count)] s → HasPlace place.dest.data 32 place.dest.first count →
    Completes (.transcendental place src count f format) s [.events, .spad, .parts, .dma, .host] (fun t =>
      (∀ i, i < count → (packedRead t place.tower place.dest.data.toNat 32 place.dest.first count)[i]? =
        some (match specialValue f ((values place format src count s).getD i .nan) with
          | some r => r.1
          | none => unitResult f (toFp32 true ((values place format src count s).getD i .nan)).1
              ((values place format src count s).getD i .nan)).toNat) ∧
      OnlyPacked place.tower place.dest.data 32 place.dest.first count s t))

/-- Partitions and graphs (R128, R137 to R140): a partition map that no rule refuses is in force, a LOAD reads its
image, an image that is admitted takes a slot under the slot's next handle and one that is not is refused and
counted, and UNLOAD frees a graph that no live run uses. It rests on choices of the model: log entries 13, 130, 155,
157, 158. -/
def Obligations.GraphCommandsComplete : Prop :=
  (∀ (req : Req) (value : Bytes) (s : State), Admitted req 0x340002 value s → value.length = 8 →
    nbits (leNat value) 63 48 = 0 → mapRefused s (leNat value) = false → s.sec.pendingMap = none →
    (∀ w ∈ allTowers, mapPartition (leNat value) w ≠ 15 → mapPartition (leNat value) w ≤ 11 ∧
      (mapTowers (leNat value) (mapPartition (leNat value) w)).head? = some (mapPartition (leNat value) w)) →
    Completes (.partitionMapWrite req value) s [.dict, .events, .om, .sec] (fun t =>
      Answered req 0x340002 s t ∧ dictNat t 0x340002 = leNat value ∧
      (∀ w : Tower, partitionOf t w =
        if mapPartition (leNat value) w < 12 then some (mapPartition (leNat value) w) else none) ∧
      ∀ w ∈ allTowers, mapPartition (dictNat s 0x340002) w < 12 →
        mapPartition (dictNat s 0x340002) w ≠ mapPartition (leNat value) w → w ∈ t.sec.unclean)) ∧
  (∀ (p : Partition) (address : BitVec 64) (length : BitVec 32) (pos : BitVec 32) (e : BitVec 512) (s : State),
    Performs p pos e s → eCode e = 1 → eAddress e = address.toNat → eLength e = length.toNat →
    Completes (.load p address length) s [.counters, .events, .parts, .host] (fun t =>
      t.parts = { s.parts with loads := s.parts.loads ++
        [{ partition := p, address := address.toNat, length := length.toNat, position := pos, entry := e }] } ∧
      t.host.reads = s.host.reads ++ [{ tag := hostTag s, function := partitionFunction s p,
                                        address := address.toNat, length := length.toNat, for_ := .image p }] ∧
      (queueSet t p).fetched = (queueSet s p).fetched.tail)) ∧
  (∀ (p : Partition) (image : Bytes) (report : CodeReport) (l : Load) (s : State),
    s.parts.loads.find? (fun x => decide (x.partition = p.val ∧ x.length = image.length)) = some l → RingOpen p s →
    let u : State := { s with
      parts.loads := s.parts.loads.erase l
      host.reads := s.host.reads.filter (fun r => decide (r.for_ ≠ .image p.val)) }
    Completes (.loadAdmission p image report) s [.free, .counters, .events, .spad, .parts, .host, .twin] (fun t =>
      t.parts.loads = s.parts.loads.erase l ∧
      (unserved s p = none → admission u p image report = none → ∃ h : BitVec 16,
        h.toNat = 4096 * p.val + 256 * freeSlot u p + (Tab.look 0 (part u p).loadCounts (freeSlot u p) + 1) % 256 ∧
        t.parts.graphs = s.parts.graphs ++
          [{ partition := p, slot := freeSlot u p, handle := h, image := image, ready := s.frame.count + 1 }] ∧
        Raised 0x3401 s t ∧
        Recorded p { stamp := packageStamp s, code := ccOk, argument := h.toNat } s t) ∧
      ∀ cls detail argument, (unserved s p = some (cls, detail) ∧ argument = 0) ∨
          (unserved s p = none ∧ admission u p image report = some (cls, detail, argument)) →
        t.parts.graphs = s.parts.graphs ∧ Raised 0x3402 s t ∧
        counter t 0x340004 = satAdd 32 (counter s 0x340004) 1 ∧
        Recorded p { stamp := packageStamp s, code := ccRefused, reason := 256 * cls + detail, argument := argument }
          s t)) ∧
  (∀ (p : Partition) (handle : BitVec 16) (pos : BitVec 32) (e : BitVec 512) (s : State), Performs p pos e s →
    eCode e = 2 → eHandle e = handle →
    Completes (.unload p handle) s [.counters, .events, .parts, .host, .fab, .twin] (fun t =>
      ((liveGraph s p handle).isSome = true → (∀ r ∈ runsOf s p, r.handle ≠ handle) →
        t.parts.graphs = s.parts.graphs.filter (fun g => !decide (g.partition = p.val ∧ g.handle = handle)) ∧
        Performed p 0 ccOk 0 0 s t) ∧
      ((liveGraph s p handle).isNone = true ∨ (∃ r ∈ runsOf s p, r.handle = handle) →
        t.parts = s.parts ∧ Performed p 0 ccRefused 0 0 s t)))

/-- Commands on runs (R129, R137, R140, R141, R152, R153): RUN makes a queued run of the handle's graph, at once
when it has no binding and else when its binding table has been read, and is refused and counted when a rule refuses
it; PREEMPT, RESUME and ABORT mark the run they name, and an entry that names nothing known is refused; each is
reported. It rests on choices of the model: log entries 14, 156, 158. -/
def Obligations.RunCommandsComplete : Prop :=
  (∀ (p : Partition) (e : BitVec 512) (pos : BitVec 32) (g : Graph) (s : State),
    Performs p pos e s → eCode e = 3 → liveGraph s p (eHandle e) = some g → findRun s p (eRun e) = none →
    eBindings e ≤ 256 → (runsOf s p).length < 16 → noRoom s g.image = none →
    Completes (.run p e) s [.counters, .events, .parts, .host, .twin] (fun t =>
      (eBindings e = 0 →
        findRun t p (eRun e) = some {
          partition := p, id := eRun e, handle := g.handle, priority := ePriority e, byPriority := eByPriority e,
          iterations := eIterations e, bindings := [], order := s.parts.nextOrder, tasks := freshTasks g.image } ∧
        t.parts.nextOrder = s.parts.nextOrder + 1 ∧ t.parts.graphs = s.parts.graphs ∧
        Performed p (eRun e) ccOk 0 0 s t) ∧
      (eBindings e ≠ 0 →
        t.parts = { s.parts with binds := s.parts.binds ++ [{ partition := p, position := pos, entry := e }] } ∧
        t.host.reads = s.host.reads ++ [{ tag := hostTag s, function := partitionFunction s p, address := eTable e,
                                          length := 8 * eBindings e, for_ := .bindings p }] ∧
        (queueSet t p).fetched = (queueSet s p).fetched.tail))) ∧
  (∀ (p : Partition) (e : BitVec 512) (pos : BitVec 32) (cls detail argument : Nat) (s : State),
    Performs p pos e s → eCode e = 3 → runRefused s p e = some (cls, detail, argument) →
    Completes (.run p e) s [.counters, .events, .parts, .host, .twin] (fun t =>
      t.parts = s.parts ∧ Raised 0x3402 s t ∧ counter t 0x340004 = satAdd 32 (counter s 0x340004) 1 ∧
      Performed p (eRun e) ccRefused (256 * cls + detail) argument s t)) ∧
  (∀ (p : Partition) (id : BitVec 32) (pos : BitVec 32) (e : BitVec 512) (r : Run) (s : State), Performs p pos e s →
    eCode e = 4 → eRun e = id → findRun s p id = some r →
    r.state = .running ∨ r.state = .restoring ∨ r.state = .saving →
    Completes (.preempt p id) s [.counters, .events, .parts, .host, .twin] (fun t =>
      findRun t p id = some { r with preempt := some true } ∧ t.parts.graphs = s.parts.graphs ∧
      Performed p id ccOk 0 0 s t)) ∧
  (∀ (p : Partition) (id : BitVec 32) (pos : BitVec 32) (e : BitVec 512) (r : Run) (s : State), Performs p pos e s →
    eCode e = 5 → eRun e = id → findRun s p id = some r → r.state = .parked →
    Completes (.resume p id) s [.counters, .events, .parts, .host, .twin] (fun t =>
      findRun t p id = some { r with hold := false } ∧ t.parts.graphs = s.parts.graphs ∧ Performed p id ccOk 0 0 s t)) ∧
  (∀ (p : Partition) (id : BitVec 32) (pos : BitVec 32) (e : BitVec 512) (r : Run) (s : State), Performs p pos e s →
    eCode e = 6 → eRun e = id → findRun s p id = some r →
    Completes (.abort p id) s [.counters, .events, .parts, .host, .twin] (fun t =>
      findRun t p id = some { r with abort := true } ∧ t.parts.graphs = s.parts.graphs ∧ Performed p id ccOk 0 0 s t)) ∧
  (∀ (p : Partition) (e : BitVec 512) (pos : BitVec 32) (s : State), Performs p pos e s → entryUnknown s p e = true →
    Completes (.unknownCommand p e) s [.counters, .events, .host] (fun t =>
      (eCode e = 3 → Raised 0x3402 s t ∧ counter t 0x340004 = satAdd 32 (counter s 0x340004) 1) ∧
      Performed p (if 3 ≤ eCode e ∧ eCode e ≤ 6 then eRun e else 0) ccRefused 0 0 s t))

/-- Tasks and routers (R142 to R145, R147 to R151): an edge lowers a counter and the last resolves its task, a
resolved task runs from the start of its first phase with its routes loaded, the task code's predicate enters the
task's edges to other dies, and a token whose experts have room is sent to each. It rests on choices of the model:
log entry 126. -/
def Obligations.TaskCommandsComplete : Prop :=
  (∀ (p : Partition) (id : BitVec 32) (task : BitVec 16) (edge : Nat) (r : Run) (s : State),
    (p.val, id, task.toNat, edge) ∈ s.parts.remoteEdges → findRun s p id = some r →
    let w := edgeWord (runImage s r) edge
    let truth := decide (edgeKind w = 0) || decide ((taskOf r task.toNat).predicate.getLsbD (edgeBit w) = edgeSense w)
    let x := taskOf r (edgeDest w)
    (baseState s (baseOfTower (taskTower (runImage s r) task.toNat))).resetAt = none →
    (baseState s (baseOfTower (taskTower (runImage s r) (edgeDest w)))).resetAt = none →
    edgeDest w < imgTaskCount (runImage s r) → x.phase = .waiting → 0 < x.counter →
    (x.counter = 1 → (x.allTrue && truth) = true) →
    Completes (.remoteEdgeArrival p id task edge) s [.events, .parts, .dma, .host] (fun t =>
      t.parts.remoteEdges = s.parts.remoteEdges.erase (p.val, id, task.toNat, edge) ∧
      ∃ r', findRun t p id = some r' ∧ taskOf r' (edgeDest w) =
        if x.counter = 1 then { x with counter := 0, allTrue := true, phase := .resolved, resolvedAt := s.now }
        else { x with counter := x.counter - 1, allTrue := x.allTrue && truth })) ∧
  (∀ (p : Partition) (task : BitVec 16) (r : Run) (s : State), runningRun s p = some r → findRun s p r.id = some r →
    r.preempt = none → r.freeze = false → partitionHeld s p = false → mayStart s r task.toNat = true →
    startBlocked s r task.toNat = false →
    Completes (.taskStart p task) s [.now, .free, .spad, .arith, .parts] (fun t =>
      t.now = max s.now (taskStartTime s (runImage s r) task.toNat) ∧
      (∃ r', findRun t p r.id = some r' ∧ taskOf r' task.toNat =
        { taskOf r task.toNat with phase := .running, spanLeft := taskSpan (runImage s r) task.toNat }) ∧
      (∀ k ∈ maskMembers 12 (taskClusters (runImage s r) task.toNat),
        Tab.look [] t.spad.routes (12 * taskTower (runImage s r) task.toNat + k) =
          taskRoutes (runImage s r) task.toNat k) ∧
      ∀ key, spadByte t key = spadByte s key)) ∧
  (∀ (p : Partition) (task : BitVec 16) (predicate : BitVec 16) (r : Run) (s : State), runningRun s p = some r →
    findRun s p r.id = some r → (taskOf r task.toNat).phase = .running → (taskOf r task.toNat).fault = 0 →
    taskHasDescs s p r.id task.toNat = false →
    let img := runImage s r
    let out := (List.range (taskOutEdges img task.toNat)).map (taskFirstEdge img task.toNat + ·)
    (∀ e ∈ out, taskTower img (edgeDest (edgeWord img e)) ≠ taskTower img task.toNat) →
    (∃ j, j < imgTaskCount img ∧ j ≠ task.toNat ∧ (taskOf r j).phase ≠ .ended) →
    Completes (.taskEnd p task predicate) s [.events, .parts, .dma, .host] (fun t =>
      t.parts.remoteEdges = s.parts.remoteEdges ++ out.map (fun e => (p.val, r.id, task.toNat, e)) ∧
      ∃ r', findRun t p r.id = some r' ∧
        taskOf r' task.toNat = { taskOf r task.toNat with phase := .ended, predicate := predicate } ∧
        r'.flags = r.flags ||| (taskOf r task.toNat).flags)) ∧
  (∀ (w : Tower) (k : Cluster) (group : Fin 16) (token : BitVec 24) (raw : List Nat) (r : Run) (i gi : Nat) (s : State),
    taskOn s w k = some (r, i) → coreWorks s w k = true → groupEntry (runImage s r) group = some gi →
    let img := runImage s r
    let es := selectExperts ((List.range (groupExperts img gi)).map (fun e =>
      score32 (nbit (groupFlags img gi) 1) (raw.getD e 0))) (groupK img gi) []
    (∀ e ∈ es, Tab.look 0 (routerOf s (12 * w.val + k.val)).counts (64 * group.val + e) < groupQuota img gi) →
    Completes (.routerToken w k group token raw) s [.counters, .events, .parts] (fun t =>
      t.parts.expertQueue = s.parts.expertQueue ++ es.map (fun e => { cluster := 12 * w.val + k.val, group := group.val,
                                                                      expert := e, token := token.toNat,
                                                                      tower := groupPlacement img gi e }) ∧
      counter t 0x346001 % 2 ^ 64 = (counter s 0x346001 + es.length) % 2 ^ 64 ∧
      t.parts.runs = s.parts.runs))

/-- Saves and restores (R152, R154 to R156): a save that is over parks the run with the context it kept, or freezes
a run that a task stopped, and takes its descriptors from the engines; a restore that is over puts the context back
and the run runs on at its frame of the template, its regions without debt and its routers afresh. It rests on
choices of the model: log entries 53, 55, 160, 165. -/
def Obligations.SaveCommandsComplete : Prop :=
  (∀ (p : Partition) (r : Run) (s : State), (runsOf s p).find? (fun r => decide (r.state = .saving)) = some r →
    r.framesLeft = 0 → (∀ x ∈ runsOf s p, x.id = r.id → x = r) →
    Completes (.saveComplete p) s [.counters, .events, .parts, .dma, .clk, .host] (fun t =>
      (r.freeze = false → r.preempt = some true → findRun t p r.id = some { r with
        state := .parked, hold := true, preempt := none, saved := some (contextOf s r (runImage s r)) }) ∧
      (r.freeze = true → Raised 0x3406 s t ∧ ∃ r', findRun t p r.id = some r' ∧ r'.state = .frozen ∧
        r'.saved = some (contextOf s r (runImage s r))) ∧
      ∀ w ∈ towersOf s p, ∀ k ∈ engineKeys w, engineQueue t k =
        (engineQueue s k).filter (fun d => !decide (d.partition = p.val ∧ d.run = r.id) || staysBehind d))) ∧
  (∀ (p : Partition) (r : Run) (c : Context) (s : State),
    (runsOf s p).find? (fun r => decide (r.state = .restoring)) = some r → r.framesLeft = 0 →
    findRun s p r.id = some r → r.saved = some c → s.dma.records = [] → c.descs = [] →
    (∀ x ∈ c.routers ++ s.parts.routers, x.2.deferred = []) →
    Tab.wf {} c.routers = true → Tab.wf {} s.parts.routers = true →
    (∀ w ∈ towersOf s p, ∀ k ∈ engineKeys w, engineQueue s k = []) → Tab.wf none c.bytes = true →
    Completes (.restoreComplete p) s
      [.free, .counters, .events, .om, .spad, .arith, .parts, .dma, .dram, .clk, .host, .pho, .lanes, .ver,
        .fab, .twin] (fun t =>
      findRun t p r.id = some { r with state := .running, saved := none } ∧ (part t p).index = r.frameIndex ∧
      Raised 0x3405 s t ∧ (∀ w ∈ imgTowers (runImage s r), ∀ k, k < 12 → debt t w k = 0) ∧
      (∀ w ∈ towersOf s p, ∀ k, k < 12 → routerOf t (12 * w + k) = {}) ∧
      ∀ key, key / 2 ^ 17 ∈ savedUnits (runImage s r) → Tab.look none t.spad.bytes key = Tab.look none c.bytes key))

/-- Descriptors (R172 to R174, R196): a descriptor that a running task issues joins its engine's queue, moves the
bytes its operation names, and ends; no other byte of the scratchpads changes. Each clause is one row of at most one
line, or one row of DRAM, on the engine's own die. It rests on choices of the model: log entries 161, 162. -/
def Obligations.DescriptorCommandsComplete : Prop :=
  (∀ (w : Tower) (e : EngineNo) (d : BitVec 512) (p : Nat) (r : Run) (s : State), Issues w e d p r s → dOp d = 1 →
    dSrcSpad d = true → dDstSpad d = true → dRows d = 1 → dDest d % 64 + dRowBytes d ≤ 64 →
    dSource d % 4096 + dRowBytes d ≤ 4096 → OwnLine w p (spadBase + w.val * 2 ^ 28 + dSource d) false s →
    OwnLine w p (spadBase + w.val * 2 ^ 28 + dDest d) true s →
    Completes (.copy w e d) s
      [.free, .counters, .events, .om, .spad, .dma, .dram, .host, .pho, .lanes, .ver, .fab, .twin] (fun t =>
      spadBytes t (w.val * 2 ^ 28 + dDest d) (dRowBytes d) = spadBytes s (w.val * 2 ^ 28 + dSource d) (dRowBytes d) ∧
      (∀ key, key < w.val * 2 ^ 28 + dDest d ∨ w.val * 2 ^ 28 + dDest d + dRowBytes d ≤ key →
        spadByte t key = spadByte s key) ∧
      Ended w e p r.id d (if spadPoisoned s (w.val * 2 ^ 28 + dSource d) (dRowBytes d) then ccPoison else ccOk) t)) ∧
  (∀ (w : Tower) (e : EngineNo) (d : BitVec 512) (p : Nat) (r : Run) (s : State), Issues w e d p r s → dOp d = 2 →
    dDstSpad d = true → dRows d = 1 → dDest d % 64 + dRowBytes d ≤ 64 →
    OwnLine w p (spadBase + w.val * 2 ^ 28 + dDest d) true s →
    Completes (.fill w e d) s
      [.free, .counters, .events, .om, .spad, .dma, .dram, .host, .pho, .lanes, .ver, .fab, .twin] (fun t =>
      spadBytes t (w.val * 2 ^ 28 + dDest d) (dRowBytes d) = zeros (dRowBytes d) ∧
      (∀ key, key < w.val * 2 ^ 28 + dDest d ∨ w.val * 2 ^ 28 + dDest d + dRowBytes d ≤ key →
        spadByte t key = spadByte s key) ∧ Ended w e p r.id d ccOk t)) ∧
  (∀ (w : Tower) (e : EngineNo) (d : BitVec 512) (p : Nat) (r : Run) (s : State), Issues w e d p r s → dOp d = 3 →
    dSrcSpad d = true → dDstSpad d = true → dRows d = 1 → dDest d % 64 + dRowBytes d ≤ 64 →
    OwnLine w p (spadBase + w.val * 2 ^ 28 + dDest d) true s →
    let index := leNat (spadBytes s (w.val * 2 ^ 28 + dAux d) 4)
    let source := dSource d + index * dSrcPitch d
    (index ≠ 0xFFFFFFFF → spadFieldOk source = true ∧ source % 4096 + dRowBytes d ≤ 4096 ∧
      OwnLine w p (spadBase + w.val * 2 ^ 28 + source) false s) →
    Completes (.gather w e d) s
      [.free, .counters, .events, .om, .spad, .dma, .dram, .host, .pho, .lanes, .ver, .fab, .twin] (fun t =>
      spadBytes t (w.val * 2 ^ 28 + dDest d) (dRowBytes d) =
        (if index = 0xFFFFFFFF then zeros (dRowBytes d) else spadBytes s (w.val * 2 ^ 28 + source) (dRowBytes d)) ∧
      (∀ key, key < w.val * 2 ^ 28 + dDest d ∨ w.val * 2 ^ 28 + dDest d + dRowBytes d ≤ key →
        spadByte t key = spadByte s key))) ∧
  (∀ (w : Tower) (e : EngineNo) (d : BitVec 512) (p : Nat) (r : Run) (s : State), Issues w e d p r s → dOp d = 4 →
    dSrcSpad d = true → dDstSpad d = true → dRows d = 1 → dSource d % 4096 + dRowBytes d ≤ 4096 →
    OwnLine w p (spadBase + w.val * 2 ^ 28 + dSource d) false s →
    let index := leNat (spadBytes s (w.val * 2 ^ 28 + dAux d) 4)
    let dest := dDest d + index * dDstPitch d
    (index ≠ 0xFFFFFFFF → spadFieldOk dest = true ∧ dest % 64 + dRowBytes d ≤ 64 ∧
      OwnLine w p (spadBase + w.val * 2 ^ 28 + dest) true s) →
    Completes (.scatter w e d) s
      [.free, .counters, .events, .om, .spad, .dma, .dram, .host, .pho, .lanes, .ver, .fab, .twin] (fun t =>
      (index ≠ 0xFFFFFFFF →
        spadBytes t (w.val * 2 ^ 28 + dest) (dRowBytes d) = spadBytes s (w.val * 2 ^ 28 + dSource d) (dRowBytes d)) ∧
      (∀ key, index = 0xFFFFFFFF ∨ key < w.val * 2 ^ 28 + dest ∨ w.val * 2 ^ 28 + dest + dRowBytes d ≤ key →
        spadByte t key = spadByte s key))) ∧
  (∀ (w : Tower) (e : EngineNo) (d : BitVec 512) (p : Nat) (r : Run) (a : Nat) (c : Bool) (s : State),
    Issues w e d p r s → dOp d = 5 → dRows d = 1 → translateCached s w p (dSource d % 2 ^ 48) .read = .ok 0 a c →
    a / 2 ^ 36 = w.val → a % 2048 = 0 → stackServes s w = true → OwnLine w p a false s →
    OwnLine w p (spadBase + w.val * 2 ^ 28 + dDest d) true s → Tab.look [] s.dram.writeBacks (bankKey (a / 64)) = [] →
    (∀ n, n < 32 → classify (dictNat s 0x380001) (storedWord s (a / 64 + n)) = .clean) →
    Completes (.rowMove w e d) s
      [.free, .counters, .events, .om, .spad, .dma, .dram, .host, .pho, .lanes, .ver, .fab, .twin] (fun t =>
      (∀ n, n < 32 → spadBytes t (w.val * 2 ^ 28 + dDest d + 64 * n) 64 = wordData (storedWord s (a / 64 + n))) ∧
      (∀ key, key < w.val * 2 ^ 28 + dDest d ∨ w.val * 2 ^ 28 + dDest d + 2048 ≤ key → spadByte t key = spadByte s key) ∧
      (∀ line, storedWord t line = storedWord s line) ∧ Ended w e p r.id d ccOk t)) ∧
  (∀ (w : Tower) (e : EngineNo) (d : BitVec 512) (p : Nat) (r : Run) (s : State), Issues w e d p r s → dOp d = 6 →
    dDstSpad d = true → dAux d ≠ dDest d → OwnLine w p (spadBase + w.val * 2 ^ 28 + dDest d) true s →
    spadPoisoned s (w.val * 2 ^ 28 + dSource d) (if dKind d = 7 then 16 else 8) = false →
    spadPoisoned s (w.val * 2 ^ 28 + dDest d) 8 = false →
    Completes (.dmaAtomic w e d) s
      [.free, .counters, .events, .om, .spad, .dma, .dram, .host, .pho, .lanes, .ver, .fab, .twin] (fun t =>
      spadBytes t (w.val * 2 ^ 28 + dDest d) 8 = leBytes 8 (atomicResult (dKind d)
        (leNat (spadBytes s (w.val * 2 ^ 28 + dDest d) 8)) (leNat (spadBytes s (w.val * 2 ^ 28 + dSource d) 8))
        (leNat (spadBytes s (w.val * 2 ^ 28 + dSource d + 8) 8))) ∧
      spadBytes t (w.val * 2 ^ 28 + dAux d) 8 = spadBytes s (w.val * 2 ^ 28 + dDest d) 8 ∧
      (∀ key, key < w.val * 2 ^ 28 + dDest d ∨ w.val * 2 ^ 28 + dDest d + 8 ≤ key →
        key < w.val * 2 ^ 28 + dAux d ∨ w.val * 2 ^ 28 + dAux d + 8 ≤ key → spadByte t key = spadByte s key) ∧
      Ended w e p r.id d ccOk t)) ∧
  (∀ (w : Tower) (e : EngineNo) (d : BitVec 512) (p : Nat) (r : Run) (s : State), partitionOf s w = some p →
    runningRun s p = some r → findRun s p r.id = some r → towerUp s w = true →
    (taskOf r (dTask d)).phase = .running → engineQueue s (16 * w.val + e.val) = [] → descRefused d = true →
    Completes (.descriptorRefused w e d) s
      [.free, .counters, .events, .om, .spad, .dma, .dram, .host, .pho, .lanes, .ver, .fab, .twin]
      (fun t => (∀ key, spadByte t key = spadByte s key) ∧ (∀ line, storedWord t line = storedWord s line) ∧
        Ended w e p r.id d ccRefused t)) ∧
  (∀ (w : Tower) (e : EngineNo) (d : Desc) (r : Run) (s : State), engineQueue s (16 * w.val + e.val) = [d] →
    reportable s d = true → findRun s d.partition d.run = some r → (taskOf r (dTask d.raw)).phase = .running →
    (taskOf r (dTask d.raw)).fault = 0 →
    Completes (.descriptorDone w e) s
      [.free, .counters, .events, .om, .spad, .parts, .dma, .dram, .host, .pho, .lanes, .ver, .fab, .twin] (fun t =>
      (taskFaultOf d.code = 0 ∨ taskContinues (runImage s r) (dTask d.raw) = false →
        engineQueue t (16 * w.val + e.val) = []) ∧
      (d.code = ccOk → d.poison = false → d.unknown = false → ∃ r', findRun t d.partition d.run = some r' ∧
        taskOf r' (dTask d.raw) = taskOf r (dTask d.raw)) ∧
      (taskFaultOf d.code ≠ 0 → taskContinues (runImage s r) (dTask d.raw) = false →
        ∃ r', findRun t d.partition d.run = some r' ∧ r'.freeze = true ∧
          (taskOf r' (dTask d.raw)).fault = taskFaultOf d.code ∧ Raised 0x3403 s t)))

/-- Translation and faults (R158, R166 to R171, R182 to R190): roots and invalidations wait until the named
translations have left the caches, a walk lets its descriptor go on, parks it with a record or refuses it, a backoff
ends in a new issue, and a response retries, fails or stores, or names nothing. It rests on choices of the model:
log entries 116, 164. -/
def Obligations.TranslationCommandsComplete : Prop :=
  (∀ (w : Tower) (e : EngineNo) (d : Desc) (at_ delay a : Nat) (s : State),
    engineQueue s (16 * w.val + e.val) = [d] → d.state = .active → d.wait = .backoff at_ delay → FillsLine w d a s →
    Completes (.dmaRetryBackoff w e) s
      [.now, .free, .counters, .events, .om, .spad, .dma, .dram, .host, .pho, .lanes, .ver, .fab, .twin]
      (fun t => t.now = max s.now at_ ∧ storedWord t (a / 64) = List.replicate 72 0 ∧
        (∀ line, line ≠ a / 64 → storedWord t line = storedWord s line) ∧ Ended w e d.partition d.run d.raw ccOk t)) ∧
  (∀ (req : Req) (p : Partition) (value : Bytes) (s : State), Admitted req (0x388001 + p.val) value s → value.length = 8 →
    nbits (leNat value) 11 1 = 0 → nbits (leNat value) 63 48 = 0 → executingRun s p = none →
    rootWriter req.requester p s = true →
    Completes (.translationRootWrite req p value) s [.dict, .events, .om, .dma, .sec] (fun t =>
      dictNat t (0x388001 + p.val) = leNat value ∧
      t.dma = { s.dma with invalidations := s.dma.invalidations ++ [{ partition := p.val, page := 0, size := 0 }] } ∧
      Waits req (0x388001 + p.val) 0 s t)) ∧
  (∀ (req : Req) (value : Bytes) (s : State), Admitted req 0x388010 value s → nbits (leNat value) 63 60 = 0 →
    nbits (leNat value) 55 48 = 0 → nbits (leNat value) 11 2 = 0 → nbits (leNat value) 59 56 ≤ 11 →
    rootWriter req.requester (nbits (leNat value) 59 56) s = true →
    Completes (.translationInvalidate req value) s [.events, .om, .dma] (fun t =>
      t.dma = { s.dma with invalidations := s.dma.invalidations ++
        [{ partition := nbits (leNat value) 59 56, page := nbits (leNat value) 47 12, size := nbits (leNat value) 1 0 }] } ∧
      Waits req 0x388010 (nbits (leNat value) 59 56) s t)) ∧
  (∀ (p : Partition) (s : State), s.dma.invalidations.filter (fun v => decide (v.partition = p.val)) ≠ [] →
    (∀ v ∈ s.dma.invalidations, v.partition = p.val → linesDone s v = true) →
    Completes (.invalidateDone p) s [.om, .dma] (fun t =>
      t.dma.invalidations = s.dma.invalidations.filter (fun v => !decide (v.partition = p.val)) ∧
      (∀ v ∈ s.dma.invalidations, v.partition = p.val → ∀ w ∈ towersOf s p, ∀ l ∈ Tab.look [] t.dma.leaves w,
        invLeaf v l = false) ∧
      (∀ v ∈ s.dma.invalidations, v.partition = p.val → ∀ w ∈ towersOf s p, ∀ k ∈ engineKeys w, ∀ d ∈ engineQueue t k,
        ∀ l ∈ d.pages, invLeaf v l = false) ∧
      ∀ x ∈ t.om.waiting, ¬(x.id.key = 0x388010 ∧ x.note = p.val) ∧ ¬(x.id.key = 0x388001 + p.val ∧ x.note = 0))) ∧
  (∀ (w : Tower) (e : EngineNo) (d : Desc) (va : Nat) (kind : Kind) (s : State),
    engineQueue s (16 * w.val + e.val) = [d] → d.state = .active → d.wait = .walk va kind →
    let x := (walk w d.partition va (some e) (.asks none) s).1
    let u := (walk w d.partition va (some e) (.asks none) s).2
    let met := match x with
      | .error y => y
      | .ok (entry, level) => checkLeaf u d.partition va kind entry level
    Completes (.tableWalk w e) s
      [.free, .counters, .events, .om, .spad, .dma, .dram, .host, .pho, .lanes, .ver, .fab, .twin]
      (fun t =>
      (walkNamed s d.partition va x = true → engineQueue t (16 * w.val + e.val) = [d] ∧ t.dma.leaves = s.dma.leaves) ∧
      (walkNamed s d.partition va x = false →
        (∀ entry level, x = .ok (entry, level) → ∀ target out coherent, met = .ok target out coherent →
          mayIssue s d = false →
          let leaf : Leaf := { partition := d.partition, level := level, page := va / 2 ^ levelShift level,
                               entry := BitVec.ofNat 64 entry }
          engineQueue t (16 * w.val + e.val) = [{ d with wait := .none, pages := addOnce leaf d.pages }] ∧
          leaf ∈ Tab.look [] t.dma.leaves w) ∧
        (∀ c l, met = .fault c l → dNoPark d.raw = false → mayIssue s d = true →
          s.dma.records = [] → faultRingFull s d.partition = false →
          ∃ rec pages, t.dma.records = [rec] ∧ rec.address = va ∧ rec.cause = c ∧ rec.level = l ∧ rec.attached = 1 ∧
            Raised 0x3881 s t ∧ engineQueue t (16 * w.val + e.val) = [{ d with
              state := .parked, faultAddress := va, wait := .none, chunk := none, record := some rec.tag,
              pages := pages }]) ∧
        (∀ a level, met = .far a level → ∃ tag, engineQueue t (16 * w.val + e.val) = [{ d with
          place := a, len := 8, reading := true, wait := .table tag va kind level }] ∧
          (w.val, tag, 0xF) ∈ t.pho.outstanding) ∧
        (met = .denied → engineQueue t (16 * w.val + e.val) = [{ d with
          state := .done, code := ccWorldDenied, wait := .none, chunk := none, record := none }])))) ∧
  (∀ (p : Partition) (w : Tower) (e : EngineNo) (word : BitVec 32) (d : Desc) (a : Nat) (r : FaultRecord) (run : Run)
      (s : State),
    let tag := BitVec.ofNat 16 (bits word 15 0)
    bits word 17 16 = 0 → bits word 31 18 = 0 → s.dma.records.find? (awaits p tag) = some r →
    findRun s p r.run = some run → run.state = .running → engineQueue s (16 * w.val + e.val) = [d] →
    d.partition = p.val → d.state = .parked → d.wait = .none → d.record = some tag → d.settled = none →
    FillsLine w { d with pages := [] } a s → w.val ∈ towersOf s p →
    (∀ x ∈ towersOf s p, ∀ k ∈ engineKeys x, k ≠ 16 * w.val + e.val → engineQueue s k = []) →
    Completes (.faultResponseRetry p word) s
      [.free, .counters, .events, .om, .spad, .dma, .dram, .host, .pho, .lanes, .ver, .fab, .twin] (fun t =>
      storedWord t (a / 64) = List.replicate 72 0 ∧ Ended w e p d.run d.raw ccOk t ∧
      t.dma.records = s.dma.records.filter (fun x => !awaits p tag x))) ∧
  (∀ (p : Partition) (word : BitVec 32) (r : FaultRecord) (run : Run) (s : State),
    let tag := BitVec.ofNat 16 (bits word 15 0)
    bits word 17 16 = 0 → bits word 31 18 = 0 → s.dma.records.find? (awaits p tag) = some r →
    findRun s p r.run = some run → run.state ≠ .running →
    Completes (.faultResponseRetry p word) s
      [.free, .counters, .events, .om, .spad, .dma, .dram, .host, .pho, .lanes, .ver, .fab, .twin] (fun t =>
      (run.state ≠ .frozen → t.dma = { s.dma with
        records := changeFirst (awaits p tag) (fun r => { r with stored := some true }) s.dma.records }) ∧
      (run.state = .frozen → t.dma = { s.dma with
        records := s.dma.records.filter (fun x => !awaits p tag x) }))) ∧
  (∀ (p : Partition) (word : BitVec 32) (r : FaultRecord) (run : Run) (s : State),
    let tag := BitVec.ofNat 16 (bits word 15 0)
    bits word 17 16 = 1 → bits word 31 18 = 0 → s.dma.records.find? (awaits p tag) = some r →
    findRun s p r.run = some run → run.state = .running →
    (∀ w ∈ towersOf s p, ∀ k ∈ engineKeys w, ∀ d ∈ engineQueue s k, d.state = .parked ∨ d.state = .done) →
    Completes (.faultResponseFail p word) s
      [.free, .counters, .events, .om, .spad, .dma, .dram, .host, .pho, .lanes, .ver, .fab, .twin]
      (fun t => t.dma.records = s.dma.records.filter (fun x => !awaits p tag x) ∧
        ∀ w ∈ towersOf s p, ∀ k ∈ engineKeys w, engineQueue t k = (engineQueue s k).map (fun d =>
          if d.partition = p.val ∧ d.record = some tag then { d with
            state := .done, code := d.settled.getD ccXlateFault, wait := .none, chunk := none, record := none }
          else d))) ∧
  (∀ (p : Partition) (word : BitVec 32) (s : State),
    s.dma.records.find? (awaits p (BitVec.ofNat 16 (bits word 15 0))) = none →
    Completes (.faultResponseUnknown p word) s
      [.free, .counters, .events, .om, .spad, .dma, .dram, .host, .pho, .lanes, .ver, .fab, .twin] (fun t =>
      counter t 0x388013 = satAdd 32 (counter s 0x388013) 1 ∧ Raised 0x3884 s t ∧ t.dma = s.dma)) ∧
  (∀ (p : Partition) (tag : BitVec 16) (r : FaultRecord) (run : Run) (s : State),
    s.dma.records.find? (awaits p tag) = some r → findRun s p r.run = some run → run.state = .running →
    dictNat s 0x388011 ≠ 0 → dictNat s 0x388011 ≤ r.frames →
    (∀ w ∈ towersOf s p, ∀ k ∈ engineKeys w, ∀ d ∈ engineQueue s k, d.state = .parked ∨ d.state = .done) →
    Completes (.faultTimeout p tag) s
      [.free, .counters, .events, .om, .spad, .dma, .dram, .host, .pho, .lanes, .ver, .fab, .twin]
      (fun t => t.dma.records = s.dma.records.filter (fun x => !awaits p tag x) ∧ Raised 0x3883 s t ∧
        ∀ w ∈ towersOf s p, ∀ k ∈ engineKeys w, engineQueue t k = (engineQueue s k).map (fun d =>
          if d.partition = p.val ∧ d.record = some tag then { d with
            state := .done, code := d.settled.getD ccXlateFault, wait := .none, chunk := none, record := none }
          else d)))

/-- The read-coherent class (R178 to R181, R191): a sharer drops the block and acknowledges, the home clears its
bit, a sharer that does not answer in 4 microseconds is marked lost and reported, and a fill enters the cache unless
its block was invalidated meanwhile. It rests on choices of the model: log entry 6. -/
def Obligations.CoherenceCommandsComplete : Prop :=
  (∀ (w home : Tower) (block : BitVec 48) (s : State),
    { source := home.val, dest := w.val, load := .invalidate home.val block.toNat : MeshPacket } ∈ s.pho.mesh →
    Completes (.rcInvalidation w home block) s [.free, .dma, .pho, .ver] (fun t =>
      (∀ c ∈ Tab.look [] t.dma.cache w, c.line / 64 ≠ block.toNat ∧ c ∈ Tab.look [] s.dma.cache w) ∧
      (∀ c ∈ Tab.look [] s.dma.cache w, c.line / 64 ≠ block.toNat → c ∈ Tab.look [] t.dma.cache w) ∧
      { source := w.val, dest := home.val, load := .invalidateAck home.val w.val block.toNat : MeshPacket } ∈ t.pho.mesh ++ t.pho.rides ∧
      ∀ f ∈ t.dma.fills, f.tower = w.val → f.line / 64 = block.toNat → f.stale = true)) ∧
  (∀ (home sharer : Tower) (block : BitVec 48) (v : Inval) (s : State),
    { source := sharer.val, dest := home.val, load := .invalidateAck home.val sharer.val block.toNat : MeshPacket }
      ∈ s.pho.mesh →
    s.dma.invals.find? (fun v => decide (v.home = home.val ∧ v.block = block.toNat ∧ sharer.val ∈ v.waiting)) = some v →
    v.waiting.erase sharer.val ≠ [] →
    Completes (.rcInvalidationAck home sharer block) s
      [.free, .counters, .events, .om, .spad, .dma, .dram, .host, .pho, .lanes, .ver, .fab, .twin] (fun t =>
      { v with waiting := v.waiting.erase sharer.val } ∈ t.dma.invals ∧
      t.dma.invals.length = s.dma.invals.length ∧
      (∀ i, rcIndex s (block.toNat * 4096) = some i → nbit (Tab.look 0 t.dma.sharers i) sharer.val = false))) ∧
  (∀ (home sharer : Tower) (block : BitVec 48) (v : Inval) (s : State),
    s.dma.invals.find? (fun v => decide (v.home = home.val ∧ v.block = block.toNat ∧ sharer.val ∈ v.waiting)) = some v →
    v.waiting.erase sharer.val ≠ [] →
    Completes (.rcSharerLost home sharer block) s
      [.now, .free, .counters, .events, .om, .spad, .dma, .dram, .host, .pho, .lanes, .ver, .fab, .twin] (fun t =>
      t.now = max s.now (v.sent + 4000) ∧ Raised 0x3886 s t ∧ Tab.look false t.dma.flush sharer = true ∧
      { v with waiting := v.waiting.erase sharer.val } ∈ t.dma.invals)) ∧
  (∀ (w : Tower) (line : BitVec 48) (p : OpenPacket) (f : Fill) (s : State),
    (w.val, p) ∈ s.pho.inbox → (∀ x ∈ s.pho.inbox, x.1 = w.val → x.2 = p) → oKind p.header = 3 →
    oTower p.header = w.val → readCode (oCode p.header) = true → f ∈ s.dma.fills → f.tower = w.val →
    f.line = line.toNat → f.tag = oTag p.header →
    (∀ g ∈ s.dma.fills, g.tower = w.val → g.tag = oTag p.header → g = f) →
    (s.pho.outstanding.any (fun o => decide (o.1 = w.val ∧ o.2.1 = oTag p.header))) = true →
    (∀ k ∈ engineKeys w, engineQueue s k = []) →
    Completes (.rcFillReturn w line) s
      [.free, .counters, .events, .om, .spad, .dma, .dram, .host, .pho, .lanes, .ver, .fab, .twin] (fun t =>
      t.dma.fills = s.dma.fills.erase f ∧ t.pho.inbox = s.pho.inbox.erase (w.val, p) ∧
      (f.stale = true → t.dma.cache = s.dma.cache) ∧
      (f.stale = false →
        { line := line.toNat, data := padTo 64 p.data, poisoned := decide (oCode p.header = ccPoison) : CacheLine } ∈
          Tab.look [] t.dma.cache w)))

/-- The stacks (R193, R199 to R212): a read answers the data and the code its codeword earns, a write stores one
line's codeword and no other, scheduled write-backs are stored, a refresh closes the channel's banks, a drained
stack enters self-refresh, patrol goes round, and a scrub starts at line 0 and leaves zeros. It rests on choices of
the model: log entries 122, 163, 167, 168, 169. -/
def Obligations.DramCommandsComplete : Prop :=
  (∀ (w : Tower) (address : BitVec 36) (s : State),
    let line := lineOfAddress w address.toNat
    let at_ := localAddress w (address.toNat / 64 * 64)
    let data := wordData (storedWord s line)
    Tab.look [] s.dram.writeBacks (bankKey line) = [] →
    Completes (.dramRead w address []) s [.counters, .events, .dram] (fun t =>
      (∀ l, storedWord t l = storedWord s l) ∧
      (stackServes s w = false → t.dram.answers = s.dram.answers ++ [{ address := at_, data := [], code := ccRetry }]) ∧
      (stackServes s w = true → match classify (dictNat s 0x380001) (storedWord s line) with
        | .clean => t.dram.answers = s.dram.answers ++ [{ address := at_, data := data, code := ccOk }]
        | .corrected fixed =>
          t.dram.answers = s.dram.answers ++ [{ address := at_, data := wordData fixed, code := ccCorrected }] ∧
          Raised 0x3801 s t ∧ counter t (0x382001 + w.val) = satAdd 32 (counter s (0x382001 + w.val)) 1 ∧
          Tab.look [] t.dram.writeBacks (bankKey line) = [{ line := line, word := fixed.map (BitVec.ofNat 8 ·) }]
        | .uncorrectable =>
          t.dram.answers = s.dram.answers ++ [{ address := at_, data := data, code := ccPoison }] ∧
          Raised 0x3802 s t ∧ counter t (0x383001 + w.val) = satAdd 32 (counter s (0x383001 + w.val)) 1 ∧
          Tab.look [] t.dram.writeBacks (bankKey line) =
            [{ line := line, word := (lineWord data true).map (BitVec.ofNat 8 ·) }]
        | .poisoned =>
          t.dram.answers = s.dram.answers ++ [{ address := at_, data := data, code := ccPoison }] ∧
          counter t 0x380003 = satAdd 32 (counter s 0x380003) 1))) ∧
  (∀ (w : Tower) (c b : Fin 32) (x : WriteBack) (s : State),
    Tab.look [] s.dram.writeBacks (1024 * w.val + 32 * c.val + b.val) = [x] →
    Completes (.dramWriteBack w c b) s [.dram] (fun t =>
      Tab.look [] t.dram.writeBacks (1024 * w.val + 32 * c.val + b.val) = [] ∧
      (∀ j, j < 72 → (storedWord t x.line).getD j 0 = (x.word.getD j 0).toNat) ∧
      ∀ l, l ≠ x.line → storedWord t l = storedWord s l)) ∧
  (∀ (w : Tower) (address : BitVec 36) (data : Bytes) (poisoned : Bool) (s : State),
    let line := lineOfAddress w address.toNat
    (∀ x ∈ Tab.look [] s.dram.writeBacks (bankKey line), x.line = line) →
    Completes (.dramWrite w address data poisoned) s [.counters, .events, .dram, .twin] (fun t =>
      (∀ l, l ≠ line → storedWord t l = storedWord s l) ∧
      (stackServes s w = false → storedWord t line = storedWord s line) ∧
      (stackServes s w = true → address.toNat % 64 = 0 → data.length = 64 →
        Tab.look [] t.dram.writeBacks (bankKey line) = [] ∧ ∀ j, j < 72 →
        (storedWord t line).getD j 0 = (lineWord data poisoned).getD j 0 % 256) ∧
      (stackServes s w = true → (address.toNat % 64 ≠ 0 ∨ data.length < 64) →
        classify (dictNat s 0x380001) (storedWord s line) = .clean →
        Tab.look [] t.dram.writeBacks (bankKey line) = [] ∧ ∀ j, j < 72 →
        (storedWord t line).getD j 0 = (lineWord (overlay (wordData (storedWord s line)) (address.toNat % 64)
          (data.take (64 - address.toNat % 64))) poisoned).getD j 0 % 256))) ∧
  (∀ (w : Tower) (c : Fin 32) (s : State), towerUp s w = true → (stack s w).selfRefresh = false →
    Completes (.refresh w c) s [.dram] (fun t =>
      let n := Tab.look 0 s.dram.refreshes (32 * w.val + c.val) + refreshQuarters (stack s w).refreshBand
      Tab.look 0 t.dram.refreshes (32 * w.val + c.val) = n % 4 ∧
      (4 ≤ n → ∀ b : Fin 32, ∀ row, row < 32768 →
        Tab.look 0 t.dram.activations (32768 * (1024 * w.val + 32 * c.val + b.val) + row) = 0) ∧
      (∀ b : Fin 32, Tab.look 0 t.dram.openRow (1024 * w.val + 32 * c.val + b.val) = 0) ∧
      ∀ l, storedWord t l = storedWord s l)) ∧
  (∀ (w : Tower) (s : State), (stack s w).drained = true → (stack s w).selfRefresh = false →
    Completes (.drainComplete w) s [.events, .dram] (fun t =>
      (stack t w).selfRefresh = true ∧ (∀ v : Tower, v ≠ w → stack t v = stack s v) ∧ Raised 0x3803 s t ∧
      ∀ c b : Fin 32, Tab.look [] t.dram.writeBacks (1024 * w.val + 32 * c.val + b.val) = [])) ∧
  (∀ (w : Tower) (upsets : List (Fin 72 × Byte)) (s : State), patrolRuns s w = true → (stack s w).patrolLine < 2 ^ 30 →
    Completes (.patrolRead w upsets) s [.counters, .events, .dram] (fun t =>
      (stack t w).patrolLine = ((stack s w).patrolLine + 1) % 2 ^ 30 ∧
      ((stack s w).patrolLine = 2 ^ 30 - 1 →
        Raised 0x3806 s t ∧ counter t 0x380005 = satAdd 32 (counter s 0x380005) 1))) ∧
  (∀ (req : Req) (value : Bytes) (s : State), Admitted req 0x380006 value s → leNat value < 4096 →
    (∀ w ∈ maskMembers 12 (leNat value), partitionOf s w = none) →
    Completes (.handoverScrub req value) s [.events, .om, .dram] (fun t => Answered req 0x380006 s t ∧
      ∀ w : Tower, (stack t w).scrubLine = if nbit (leNat value) w.val then some 0 else (stack s w).scrubLine)) ∧
  (∀ (w : Tower) (s : State), scrubRuns s w = true →
    Completes (.scrubDone w) s [.now, .events, .dram, .sec] (fun t =>
      t.now = max s.now ((stack s w).scrubSince + scrubTime (towerLines - (stack s w).scrubLine.getD 0)) ∧
      scrubbing t w = false ∧ (stack t w).patrolLine = 0 ∧ Raised 0x3807 s t ∧
      (∀ l, lineTower l = w.val → storedWord t l = List.replicate 72 0) ∧
      ∀ l, lineTower l ≠ w.val → storedWord t l = storedWord s l))

/-- Slots and arbiters (R227 to R234, R239, R242, R244): a source spends its grants and sends a request word, a
Sheepdog holds the requests that name its tower, decides for the next slot and sends a grant word, a source holds
what it is granted, and a slot's flits are delivered in sequence and acknowledged. It rests on choices of the model:
log entry 180. -/
def Obligations.SlotCommandsComplete : Prop :=
  (∀ (w : Tower) (slot : BitVec 8) (supply : List (Plane × Bytes)) (late : List Plane) (s : State),
    (receiver s w).optical = true → towerUp s w = true →
    Completes (.slotBoundary w slot supply late) s
      [.now, .free, .counters, .events, .spad, .parts, .clk, .pho, .sums, .lanes, .las, .ver, .pow] (fun t
        =>
      t.now = max s.now (slotStart s slot.toNat) ∧
      (∃ word, t.pho.words = s.pho.words ++ [(false, w.val, word)] ∧ qSource word = w.val ∧
        qSlot word = (slot.toNat + 1) % 16 ∧ wordValid word = true) ∧
      ∀ (v : Plane) (g : Grant), grantOf t w v = some g → g.slot ≠ slot.toNat)) ∧
  (∀ (w : Tower) (word : BitVec 64) (s : State), qSource word < 12 → qSource word ≠ w.val →
    Completes (.requestWord w word) s [.counters, .events, .pho] (fun t =>
      (wordValid word = true → qSlot word = (slotAt s + 1) % 16 → ∀ v : Plane,
        (qDest word v = w.val →
          { source := qSource word, class_ := qClass word v : Request } ∈ (sheepdog t w v).requests) ∧
        (qDest word v ≠ w.val → ∀ r ∈ (sheepdog t w v).requests, r.source ≠ qSource word) ∧
        ∀ r ∈ (sheepdog s w v).requests, r.source ≠ qSource word → r ∈ (sheepdog t w v).requests) ∧
      (wordValid word = false ∨ qSlot word ≠ (slotAt s + 1) % 16 →
        Raised 0x4003 s t ∧ counter t 0x400005 = satAdd 32 (counter s 0x400005) 1 ∧
        ∀ v : Plane, ∀ r ∈ (sheepdog t w v).requests, r.source ≠ qSource word))) ∧
  (∀ (w : Tower) (slot : BitVec 8) (s : State), (receiver s w).optical = true → towerUp s w = true →
    Completes (.sheepdogDecision w slot) s [.now, .events, .pho] (fun t =>
      t.now = max s.now (slotStart s slot.toNat + 4) ∧
      (∃ word, t.pho.words = s.pho.words ++ [(true, w.val, word)]) ∧
      (∀ (u : Tower) (v : Plane), dictNat s 0x400007 ≠ 0 → dictNat s 0x400007 < waitAge s u w v (slotStart s slot.toNat) →
        waiterKey u w v ∉ s.pho.alarmed → Raised 0x4004 s t) ∧
      ∀ v : Plane, (sheepdog t w v).requests = [] ∧ (sheepdog t w v).void = false ∧
        let next := (slot.toNat + 1) % 256
        let shut := ingressReserved s w v next (decide (slot.toNat = 255)) || decide ((w.val, v.val, next) ∈ s.sums.claimed)
        let rs := if shut then [] else (sheepdog s w v).requests.filter (fun r => pathUp s r.source w v)
        match chooseWinner s w v (slotStart s slot.toNat) (sheepdog s w v) rs with
        | none => (sheepdog t w v).last = none
        | some (win, aged) => ∃ x, (sheepdog t w v).last = some x ∧ x.winner = win ∧ x.aged = aged ∧ x.slot = next ∧
            (sheepdog t w v).count = (if aged then 0 else (sheepdog s w v).count + 1) ∧
            (sheepdog t w v).pointer = (if aged then (sheepdog s w v).pointer else (win + 1) % 12))) ∧
  (∀ (w : Tower) (word : BitVec 64) (s : State),
    Completes (.grantWord w word) s [.free, .counters, .events, .pho, .lanes, .ver] (fun t =>
      (wordValid word = true → gDest word < 12 → gDest word ≠ w.val → ∀ v : Plane, gWinner word v = w.val →
        waiter t w (gDest word) v = {} ∧
        ∃ g, grantOf t w v = some g ∧ g.dest = gDest word ∧ g.slot % 16 = gSlot word ∧ g.aged = gAged word v) ∧
      (wordValid word = false → (∀ v : Plane, grantOf t w v = none) ∧ Raised 0x4003 s t ∧
        counter t 0x400005 = satAdd 32 (counter s 0x400005) 1))) ∧
  (∀ (w : Tower) (plane : Plane) (x : Decision) (s : State), decided s w plane (slotAt s) = some x →
    Completes (.noPreamble w plane) s [.pho] (fun t =>
      sheepdog t w plane = { sheepdog s w plane with count := x.countBefore, last := none } ∧
      t.pho = { s.pho with sheepdogs := t.pho.sheepdogs })) ∧
  (∀ (w source : Tower) (plane : Plane) (slot : BitVec 8) (f : Bytes) (x : SlotSent) (s : State),
    let n := pathLink source w plane
    let data := flitData f
    let h := BitVec.ofNat 128 (leNat (data.take 16))
    let key := receivedKey (sType h) (sFlow h) w source
    s.pho.launches = [] → s.pho.slots.find? (fun x => decide (x.source = source.val ∧ x.plane = plane.val ∧
      x.dest = w.val ∧ x.slot = slot.toNat)) = some x → x.flits = [f] → flitIntact f = true → flitKind f = 0 →
    (rxOf s n).expected = flitSeq f → (rxOf s n).reorder = [] → (rxOf s n).left = 0 → (rxOf s n).naking = false →
    scheduledType (sType h) = true →
    Completes (.slotReceived w source plane slot []) s
      [.free, .counters, .events, .spad, .parts, .clk, .pho, .lanes, .ver, .pow] (fun t =>
      Tab.look [] t.pho.received key = Tab.look [] s.pho.received key ++ (data.drop 16).take (sLength h) ∧
      (rxOf t n).expected = (flitSeq f + 1) % 1024 ∧
      { source := w.val, dest := source.val, load := .acknowledge (mkAckWord w source plane 0 (flitSeq f) 0) : MeshPacket } ∈
        t.pho.mesh ++ t.pho.rides)) ∧
  (∀ (w source : Tower) (plane : Plane) (slot : BitVec 8) (f bad : Bytes) (x : SlotSent) (s : State),
    s.pho.launches = [] → s.pho.slots.find? (fun x => decide (x.source = source.val ∧ x.plane = plane.val ∧
      x.dest = w.val ∧ x.slot = slot.toNat)) = some x → x.flits = [f] → flitIntact bad = false →
    Completes (.slotReceived w source plane slot [(0, bad)]) s
      [.free, .counters, .events, .spad, .parts, .clk, .pho, .lanes, .ver, .pow] (fun t =>
      t.pho.received = s.pho.received ∧ t.pho.inbox = s.pho.inbox ∧
      counter t 0x402002 = (counter s 0x402002 + 1) % 2 ^ 64 ∧
      (rxOf t (pathLink source w plane)).naking = true)) ∧
  (∀ (n : Fin 18) (s : State), n.val ∉ s.pho.meshDown →
    Completes (.meshLinkFail n) s [.events, .pho] (fun t =>
      t.pho = { s.pho with meshDown := s.pho.meshDown ++ [n.val] } ∧ Raised 0x4006 s t))

/-- Open packets (R236, R237, R174): a write, a read or an atomic that its tower serves takes effect there, changes
no other byte, and is answered, one that it does not serve is answered by the kind it asked for; an answer lets the
descriptor that waits for it go on. It rests on choices of the model: log entry 166. -/
def Obligations.OpenPacketCommandsComplete : Prop :=
  (∀ (w : Tower) (p : OpenPacket) (s : State), OpenServed w p 1 true s → oLines p.header = 1 → oEnables p.header = 0xFF →
    p.data.length = 64 →
    Completes (.openWrite w p) s [.free, .counters, .events, .spad, .dma, .dram, .pho, .ver, .twin] (fun t =>
      (spadBase ≤ oAddress p.header →
        spadBytes t (oAddress p.header - spadBase) 64 = p.data ∧
        (∀ key, key < oAddress p.header - spadBase ∨ oAddress p.header - spadBase + 64 ≤ key →
          spadByte t key = spadByte s key) ∧
        (∀ l, storedWord t l = storedWord s l) ∧ OpenAnswered w p.header 6 ccOk 1 [] t) ∧
      (oAddress p.header < spadBase → Tab.look [] s.dram.writeBacks (bankKey (oAddress p.header / 64)) = [] →
        (∀ j, j < 72 → (storedWord t (oAddress p.header / 64)).getD j 0 =
          (lineWord p.data (oPoison p.header)).getD j 0 % 256) ∧
        (∀ l, l ≠ oAddress p.header / 64 → storedWord t l = storedWord s l) ∧ (∀ key, spadByte t key = spadByte s key) ∧
        (sharersOf s (oAddress p.header) = [] → OpenAnswered w p.header 6 ccOk 1 [] t)))) ∧
  (∀ (w : Tower) (p : OpenPacket) (s : State), OpenServed w p 2 false s →
    Completes (.openRead w p) s [.free, .counters, .events, .dma, .dram, .pho, .ver] (fun t =>
      (∀ key, spadByte t key = spadByte s key) ∧
      (spadBase ≤ oAddress p.header →
        (∀ l, storedWord t l = storedWord s l) ∧
        let key := oAddress p.header - spadBase
        let n := 64 * oLines p.header
        OpenAnswered w p.header 3 (if spadPoisoned s key n then ccPoison else ccOk) (oLines p.header) (spadBytes s key n) t) ∧
      (oAddress p.header < spadBase → fillsCache s p.header = true → ∀ i, rcIndex s (oAddress p.header) = some i →
        oTower p.header < 12 → nbit (Tab.look 0 t.dma.sharers i) (oTower p.header) = true))) ∧
  (∀ (w : Tower) (p : OpenPacket) (s : State), OpenServed w p 4 true s → spadBase ≤ oAddress p.header →
    spadPoisoned s (oAddress p.header - spadBase) 8 = false →
    Completes (.openAtomic w p) s [.free, .counters, .events, .spad, .dma, .dram, .pho, .ver, .twin] (fun t =>
      spadBytes t (oAddress p.header - spadBase) 8 = leBytes 8 (atomicResult (oAtomic p.header)
        (leNat (spadBytes s (oAddress p.header - spadBase) 8)) (fieldAt p.data 0 8) (fieldAt p.data 8 8)) ∧
      (∀ key, key < oAddress p.header - spadBase ∨ oAddress p.header - spadBase + 8 ≤ key →
        spadByte t key = spadByte s key) ∧
      (∀ l, storedWord t l = storedWord s l) ∧
      OpenAnswered w p.header 5 ccOk 1 (spadBytes s (oAddress p.header - spadBase) 8) t)) ∧
  (∀ (w : Tower) (p : OpenPacket) (c : Nat) (s : State), (w.val, p) ∈ s.pho.inbox →
    openRefusal s w p.header (decide (oKind p.header ≠ 2)) = some c →
    let refused (t : State) : Prop :=
      (∀ key, spadByte t key = spadByte s key) ∧ t.dram = s.dram ∧ (c = ccWorldDenied → Raised 0x6001 s t) ∧
      ∃ data, data.length = (answerShape p.header).2 ∧
        OpenAnswered w p.header (answerShape p.header).1 c (if oKind p.header = 2 then oLines p.header else 1) data t
    (oKind p.header = 1 → Completes (.openWrite w p) s [.free, .counters, .events, .spad, .dma, .dram, .pho, .ver, .twin] refused) ∧
    (oKind p.header = 2 → Completes (.openRead w p) s [.free, .counters, .events, .dma, .dram, .pho, .ver] refused) ∧
    (oKind p.header = 4 → Completes (.openAtomic w p) s [.free, .counters, .events, .spad, .dma, .dram, .pho, .ver, .twin] refused)) ∧
  (∀ (w : Tower) (p : OpenPacket) (d : Desc) (s : State), OpenAwaited w p 3 d s → oCode p.header = ccOk → dOp d.raw = 1 →
    descRefused d.raw = false → dDstSpad d.raw = true → dRows d.raw = 1 → d.cursorRows = 0 → d.cursorBytes = 0 →
    d.chunk = none → d.len = dRowBytes d.raw → dDest d.raw % 64 + d.len ≤ 64 → dSource d.raw % 4096 + d.len ≤ 4096 →
    d.place % 64 + d.len ≤ p.data.length → mayIssue s d = true →
    OwnLine w d.partition (spadBase + w.val * 2 ^ 28 + dDest d.raw) true s →
    Completes (.openReadData w p) s
      [.free, .counters, .events, .om, .spad, .dma, .dram, .host, .pho, .lanes, .ver, .fab, .twin]
      (fun t =>
      spadBytes t (w.val * 2 ^ 28 + dDest d.raw) d.len = slice p.data (d.place % 64) d.len ∧
      (∀ key, key < w.val * 2 ^ 28 + dDest d.raw ∨ w.val * 2 ^ 28 + dDest d.raw + d.len ≤ key →
        spadByte t key = spadByte s key) ∧
      ∃ x, engineQueue t (16 * w.val + oEngine p.header) = [x] ∧ x.raw = d.raw ∧ x.state = .done)) ∧
  (∀ (w : Tower) (p : OpenPacket) (d : Desc) (s : State), OpenAwaited w p 6 d s → dOp d.raw ≠ 6 →
    (oCode p.header = ccOk → d.cursorBytes + d.len = dRowBytes d.raw ∧ d.cursorRows + 1 = dRows d.raw ∧ d.code = ccOk) →
    oCode p.header = ccOk ∨ oCode p.header = ccTargetDead ∨ oCode p.header = ccWorldDenied ∨ oCode p.header = ccRefused →
    Completes (.openCompletion w p) s
      [.free, .counters, .events, .om, .spad, .dma, .dram, .host, .pho, .lanes, .ver, .fab, .twin] (fun t =>
      (∃ x, engineQueue t (16 * w.val + oEngine p.header) = [x] ∧ x.raw = d.raw ∧ x.state = .done ∧
        x.code = oCode p.header) ∧
      t.pho.inbox = s.pho.inbox.erase (w.val, p) ∧ ∀ key, spadByte t key = spadByte s key)) ∧
  (∀ (w : Tower) (p : OpenPacket) (d : Desc) (s : State), OpenAwaited w p 5 d s → oCode p.header = ccOk → dOp d.raw = 6 →
    dRows d.raw = 1 → dRowBytes d.raw = 8 → d.cursorRows = 0 → d.cursorBytes = 0 → p.data.length = 8 →
    Completes (.openAtomicData w p) s
      [.free, .counters, .events, .om, .spad, .dma, .dram, .host, .pho, .lanes, .ver, .fab, .twin] (fun t =>
      spadBytes t (w.val * 2 ^ 28 + dAux d.raw) 8 = p.data ∧
      (∀ key, key < w.val * 2 ^ 28 + dAux d.raw ∨ w.val * 2 ^ 28 + dAux d.raw + 8 ≤ key → spadByte t key = spadByte s key) ∧
      ∃ x, engineQueue t (16 * w.val + oEngine p.header) = [x] ∧ x.raw = d.raw ∧ x.state = .done))

/-- Light-summed reduction (R253 to R264): an arm record is taken or refused with an event, a receiver that has
every member's READY marker with its own scale check writes the sums and no other byte, one POISON marker poisons
them, a notice makes its member replay, and a contribution over the mesh is counted. It rests on choices of the
model: log entries 19, 20, 123, 172, 173, 181. -/
def Obligations.SumCommandsComplete : Prop :=
  (∀ (w : Tower) (k : Cluster) (r : BitVec 256) (s : State),
    Completes (.armRecord w k r) s [.events, .sums] (fun t =>
      (armRefused s w r = false → t.sums = { s.sums with
        arms := s.sums.arms ++ [{ tower := w.val, cluster := k.val, record := r, accepted := s.now }] }) ∧
      (armRefused s w r = true → Raised 0x4014 s t ∧
        t.sums = { s.sums with refused := s.sums.refused ++ [(w.val, aColl r)] }))) ∧
  (∀ (w : Tower) (plane : Plane) (slot : BitVec 8) (markers : List (BitVec 32)) (noise : List Int) (coll : Nat) (a : Arm)
      (s : State),
    s.sums.claims.find? (fun c => decide (c.receiver = w.val ∧ c.plane = plane.val ∧ c.slot = slot.toNat) && !c.done) =
      none → slotsDark s w = false → sumCollective s w plane slot.toNat = some coll →
    (w.val, plane.val, slot.toNat) ∉ s.sums.evaluated → armFor s w coll true slot.toNat = some a →
    let ms := sumMembers s w plane slot.toNat coll
    let r := a.record
    let per := 4 * windowsOf s (aWindow r)
    let i := firstValue (receiverSlots s w coll) per plane slot.toNat
    let n := valueBytes (aOutBf16 r)
    let key := w.val * 2 ^ 28 + aData r + n * i
    (∀ j, j < ms.length → sumPathOut s (ms.getD j 0) w plane j = false) →
    Completes (.lightSumEvaluate w plane slot markers noise) s
      [.free, .counters, .events, .spad, .parts, .clk, .pho, .sums, .pow] (fun t =>
      ((∀ j, j < ms.length → markerCode (markers.getD j 0) = mReady ∧
          bits (markers.getD j 0) 23 8 = scaleCheck s w r i per) →
        counter t 0x401001 = (counter s 0x401001 + 1) % 2 ^ 64 ∧
        (∀ x, x < key ∨ key + n * per ≤ x → spadByte t x = spadByte s x) ∧
        ∀ j, j < per →
          let own := if aOwn r then valueAt s w (aOwnData r) (aInBf16 r) (i + j) else .fin false 0 0
          leNat (spadBytes t (key + n * j) n) = (sumBits (aOutBf16 r) (aAccumulate r) (leNat (spadBytes s (key + n * j) n))
            (toFp32 (decide (own ≠ .nan)) (sumValue (scaleAt s w r (i + j))
              (adcCode (lightTotal s w plane slot.toNat j) (noise.getD j 0)) ms.length 0 own)).1).1 % 256 ^ n) ∧
      ((∃ j, j < ms.length ∧ markerCode (markers.getD j 0) = mPoison) →
        Raised 0x4013 s t ∧ counter t 0x401004 = satAdd 32 (counter s 0x401004) 1 ∧
        ∀ word ∈ wordsOf key (n * per), Tab.look false t.spad.poison word = true))) ∧
  (∀ (w : Tower) (word : BitVec 64) (m : Nat) (s : State), wordValid word = true →
    lightTarget s w (nOrigPlane word) (nOrigSlot word) (nColl word) = some (nReceiver word) →
    m < 256 → m % 16 = nSlot word → replayPlace s w (nOrigSlot word) (m, nPlane word) = true →
    (∀ k, k < m → k % 16 = nSlot word → replayPlace s w (nOrigSlot word) (k, nPlane word) = false) →
    (∀ r ∈ s.sums.replays, r.member ≠ w.val) →
    Completes (.sumNotice w word) s [.sums] (fun t => t.sums = { s.sums with
      replays := s.sums.replays ++ [{ member := w.val, receiver := nReceiver word, plane := nPlane word, slot := m,
                                      origPlane := nOrigPlane word, origSlot := nOrigSlot word,
                                      collective := nColl word }] })) ∧
  (∀ (w member : Tower) (coll : BitVec 12) (plane : Plane) (slot : BitVec 8) (marker : BitVec 32) (codes : List Int)
      (s : State),
    s.pho.mesh = [{ source := member.val, dest := w.val,
                    load := .sumMember coll.toNat plane.val slot.toNat marker codes }] → s.sums.waiting = [] →
    Completes (.meshMemberContribution w member coll plane slot) s
      [.free, .counters, .events, .spad, .parts, .clk, .pho, .sums, .pow] (fun t =>
      t.pho.mesh = [] ∧ t.sums.shares = s.sums.shares ++ [{ receiver := w.val, member := member.val,
                                                             collective := coll.toNat, plane := plane.val,
                                                             slot := slot.toNat, marker := marker, codes := codes }] ∧
      counter t 0x401005 = (counter s 0x401005 + 1) % 2 ^ 64 ∧
      ((w.val, coll.toNat) ∉ s.sums.meshed → Raised 0x4015 s t ∧ (w.val, coll.toNat) ∈ t.sums.meshed)))

/-- Training, lock and recovery of a link (R276 to R279, R292): training starts afresh and is repeated ten times, 64
valid headers in a row are lock and 16 invalid ones its loss, a lost lock is a recovery that is counted, and a link
retrains, leaves service or returns by command. It rests on choices of the model: log entries 6, 175, 176. -/
def Obligations.LinkTrainingCommandsComplete : Prop :=
  (∀ (n : Fin 9) (failed : List Nat) (skews : List Int) (s : State), linkServed s n = true → (link s n).out = false →
    (∀ x ∈ skews, x.natAbs ≤ 256) →
    let base := { link s n with
      state := 1, locked := false, hunt := {}, infoSeen := false, trainingAt := s.now, attempts := 1 }
    Completes (.linkTraining n failed skews) s [.free, .counters, .events, .pho, .lanes, .ver, .fab] (fun t =>
      (failed = [] → link t n = base) ∧
      (∀ l, failed = [l] → l < linkLanes n → (link s n).failing = [] → Raised 0x4024 s t ∧
        link t n = { base with failing := [l], ask := if l < linkLanes n / 2 then 2 else 1 }) ∧
      (∀ m : Nat, m ≠ n.val → link t m = link s m) ∧ (rxOf t n).skews = skews ∧ (txOf t n).dataOn = false ∧
      (txOf t n).pattern = true ∧ (txOf t n).streamAt = s.now + streamDelay n ∧ (txOf t n).taps = [])) ∧
  (∀ (n : Fin 9) (s : State), (link s n).state = 1 → (link s n).locked = false →
    Completes (.trainingTimeout n) s [.now, .free, .counters, .events, .pho, .lanes, .ver, .fab] (fun t =>
      t.now = max s.now ((link s n).trainingAt + 100 * us) ∧
      ((link s n).attempts < 10 →
        link t n = { link s n with attempts := (link s n).attempts + 1, trainingAt := t.now, hunt := {} } ∧
        (txOf t n).pattern = true ∧ (txOf t n).streamAt = t.now + streamDelay n ∧ (txOf t n).dataOn = false) ∧
      (10 ≤ (link s n).attempts → (link t n).state = 0 ∧ Raised 0x4026 s t))) ∧
  (∀ (n : BitVec 16) (headers : List (BitVec 2)) (s : State), hunts s n.toNat = true → (link s n.toNat).hunt = {} →
    headers.length = 64 → (∀ h ∈ headers, headerValid h = true) →
    (8 < n.toNat → steeringOut s (pathSrc n.toNat) (pathPlane n.toNat) (pathDst n.toNat) = false) →
    Completes (.linkLock n headers) s [.free, .counters, .events, .pho, .lanes, .ver, .fab] (fun t =>
      link t n.toNat = { link s n.toNat with
        up := (link s n.toNat).up || decide (8 < n.toNat), locked := true, lockedAt := s.now,
        state := if (link s n.toNat).width = 0 then 2 else 3, hunt := (link t n.toNat).hunt } ∧
      (∀ m, m ≠ n.toNat → link t m = link s m) ∧ Raised 0x4021 s t ∧
      (8 < n.toNat → (receiver s (pathDst n.toNat)).optical = false → Tab.look false t.pho.pathOn n.toNat = true))) ∧
  (∀ (n : BitVec 16) (h : BitVec 2) (s : State), hunts s n.toNat = true → headerValid h = false →
    Completes (.linkLock n [h]) s [.free, .counters, .events, .pho, .lanes, .ver, .fab] (fun t =>
      link t n.toNat = { link s n.toNat with
        hunt := { candidate := ((link s n.toNat).hunt.candidate + 1) % 258 } } ∧
      (∀ m, m ≠ n.toNat → link t m = link s m))) ∧
  (∀ (n : BitVec 16) (headers : List (BitVec 2)) (s : State), (link s n.toNat).locked = true →
    (link s n.toNat).hunt.recent = [] → headers.length = 16 → (∀ h ∈ headers, headerValid h = false) →
    Completes (.linkLockLost n headers) s [.free, .counters, .events, .pho, .lanes, .ver, .fab] (fun t =>
      (link t n.toNat).locked = false ∧ Raised 0x4022 s t ∧ Raised 0x4023 s t ∧
      counter t 0x402004 = satAdd 32 (counter s 0x402004) 1 ∧
      (link t n.toNat).recoveries = (link s n.toNat).recoveries.filter (fun x => decide (s.now < x + ms)) ++ [s.now] ∧
      ((link t n.toNat).recoveries.length < 3 ∨ 8 < n.toNat → (link t n.toNat).state = 1))) ∧
  (∀ (n : BitVec 16) (headers : List (BitVec 2)) (s : State), (link s n.toNat).locked = true →
    (link s n.toNat).hunt.recent = [] → headers.length < 16 →
    Completes (.linkLockLost n headers) s [.free, .counters, .events, .pho, .lanes, .ver, .fab] (fun t =>
      link t n.toNat = { link s n.toNat with hunt := (link t n.toNat).hunt } ∧ t.hen = s.hen)) ∧
  (∀ (n : Fin 9) (s : State), (link s n).locked = true → (link s n).infoSeen = false →
    Completes (.linkInfoTimer n) s [.now, .lanes] (fun t =>
      t.now = max s.now (max ((link s n).lockedAt + 1000) (if (txOf s n).pattern then (txOf s n).streamAt else 0)) ∧
      (txOf t n).pattern = false ∧
      t.lanes.sent = s.lanes.sent ++
        (if (txOf s n).pattern then [(n.val, mkFlit 1 0 (ackField s n) (nakField s n) 0xFFFF [])] else []) ++
        [(n.val, mkFlit 2 0 (ackField s n) (nakField s n) 0xFFFF
          (controlData 1 (link s n).ask (rxOf s n).expected 0 0))])) ∧
  (∀ (req : Req) (value : Bytes) (s : State), Admitted req 0x402009 value s → leNat value < 2 ^ 18 →
    cmdCode (leNat value) = 0 → linkExists (cmdLink (leNat value)) = true →
    let n := cmdLink (leNat value)
    Completes (.linkRetrain req value) s [.free, .counters, .events, .om, .pho, .lanes, .ver, .fab] (fun t =>
      Answered req 0x402009 s t ∧ link t n = { link s n with
        failing := [], ask := 0, width := 0, narrow := none, state := 1, locked := false, hunt := {}, infoSeen := false,
        trainingAt := s.now, attempts := 1 } ∧ Raised 0x4023 s t ∧ counter t 0x402004 = satAdd 32 (counter s 0x402004) 1)) ∧
  (∀ (req : Req) (value : Bytes) (s : State), Admitted req 0x402009 value s → leNat value < 2 ^ 18 →
    cmdCode (leNat value) = 1 → linkExists (cmdLink (leNat value)) = true →
    let n := cmdLink (leNat value)
    Completes (.linkTakeOutOfService req value) s [.free, .counters, .events, .om, .pho, .lanes, .ver, .fab] (fun t =>
      Answered req 0x402009 s t ∧ (link t n).out = true ∧ (link t n).state = 0 ∧
      (8 < n ∨ (link s n).state ≠ 0 → Raised 0x4026 s t ∧ (link t n).up = false ∧ (link t n).locked = false))) ∧
  (∀ (req : Req) (value : Bytes) (s : State), Admitted req 0x402009 value s → leNat value < 2 ^ 18 →
    cmdCode (leNat value) = 2 → linkExists (cmdLink (leNat value)) = true →
    let n := cmdLink (leNat value)
    Completes (.linkReturnToService req value) s [.free, .counters, .events, .om, .pho, .lanes, .ver, .fab] (fun t =>
      Answered req 0x402009 s t ∧ link t n = { link s n with
        loop := 0, out := false, partnerLoop := false, state := 1, locked := false, hunt := {}, infoSeen := false,
        trainingAt := s.now, attempts := 1 } ∧ (txOf t n).dataOn = false))

/-- Flits and retry (R274, R275, R280 to R283, R293, R380, R382): a flit in sequence is delivered, one that fails
its check is counted and asked for again, an acknowledgement frees the replay buffer, LINK_INFO starts the data, and
a flit that is not acknowledged is sent again until its fourth time. It rests on choices of the model: log entries
17, 21. -/
def Obligations.FlitCommandsComplete : Prop :=
  (∀ (n : Fin 9) (f : Bytes) (s : State), InStep n s → flitAckValid f = false → flitNakValid f = false →
    (decide (n.val < 8) && portEncrypted s n && decide ((crypt s (2 * n.val + 1)).generation ≠ 0)) = false →
    Completes (.dataFlit n f none) s [.free, .counters, .events, .pho, .lanes, .ver, .fab] (fun t =>
      (flitIntact f = true → flitKind f = 0 → flitSeq f = (rxOf s n).expected → (rxOf s n).reorder = [] →
        t.lanes.delivered = s.lanes.delivered ++ [(n.val, flitData f)] ∧
        (rxOf t n).expected = ((rxOf s n).expected + 1) % 1024 ∧ (rxOf t n).naking = false) ∧
      (flitIntact f = true → flitKind f = 0 → flitSeq f = ((rxOf s n).expected + 1) % 1024 →
        (rxOf s n).expected < 1024 → (rxOf s n).reorder = [] →
        t.lanes.delivered = s.lanes.delivered ∧ (rxOf t n).expected = (rxOf s n).expected ∧
        (rxOf t n).naking = true ∧ ((rxOf t n).reorder.map (·.1)) = [flitSeq f]) ∧
      (flitIntact f = false → t.lanes.delivered = s.lanes.delivered ∧
        counter t 0x402002 = (counter s 0x402002 + 1) % 2 ^ 64 ∧ (rxOf t n).naking = true))) ∧
  (∀ (n : Fin 9) (f : Bytes) (s : State), InStep n s → flitAckValid f = false → flitNakValid f = false →
    n.val < 8 → portEncrypted s n = true → (crypt s (2 * n.val + 1)).generation ≠ 0 → flitIntact f = true →
    flitKind f = 0 →
    Completes (.dataFlit n f none) s [.free, .counters, .events, .pho, .lanes, .ver, .fab] (fun t =>
      t.lanes.delivered = s.lanes.delivered ∧ Raised 0x5009 s t ∧
      counter t 0x50000F = satAdd 32 (counter s 0x50000F) 1)) ∧
  (∀ (n : BitVec 16) (f : Bytes) (s : State),
    Completes (.nullFlit n f) s [.free, .counters, .events, .pho, .lanes, .ver, .fab] (fun t =>
      ((link s n.toNat).loop ≠ 0 → t.lanes.loopChecked = satAdd 32 s.lanes.loopChecked 1 ∧
        t.lanes.loopErrors = satAdd 32 s.lanes.loopErrors (flag (!flitIntact f))) ∧
      ((link s n.toNat).loop = 0 → InStep n.toNat s → flitIntact f = true → flitKind f = 1 →
        flitAckValid f = true → flitNakValid f = false → (txOf s n.toNat).waiting = [] →
        (txOf t n.toNat).unacked =
          (txOf s n.toNat).unacked.filter (fun x => decide (512 ≤ seqDist x.seq (flitAck f)))))) ∧
  (∀ (n : Fin 9) (f : Bytes) (s : State), InStep n s → flitIntact f = true → flitKind f = 2 →
    flitCode f = 1 → flitAckValid f = false → flitNakValid f = false →
    Completes (.linkInfo n f) s [.now, .free, .counters, .events, .pho, .lanes, .ver, .fab] (fun t =>
      (link t n).infoSeen = true ∧ (flitWidth f ≤ 2 → (txOf t n).asked = some (flitWidth f)) ∧
      ((txOf s n).dataOn = false → (link t n).up = true ∧ (txOf t n).dataOn = true))) ∧
  (∀ (n : Fin 9) (f : Bytes) (s : State), InStep n s → flitIntact f = true → flitKind f = 2 →
    flitCode f = 3 → flitAckValid f = false → flitNakValid f = false →
    Completes (.narrowNow n f) s [.free, .counters, .events, .pho, .lanes, .ver, .fab] (fun t =>
      (flitWidth f = 0 → link t n = { link s n with
        state := 2, width := 0, ask := 0, hunt := (link t n).hunt }) ∧
      (flitWidth f = 1 ∨ flitWidth f = 2 → Raised 0x4025 s t ∧
        link t n = { link s n with
          state := 3, half := flitWidth f - 1, width := flitWidth f, ask := flitWidth f, narrow := none,
          hunt := (link t n).hunt }))) ∧
  (∀ (n : Fin 9) (f : Bytes) (s : State), flitIntact f = true → flitKind f = 2 → flitCode f = 4 → flitStep f ≤ 1 →
    (link s n).out = true →
    Completes (.loopbackReq n f) s [.counters, .lanes] (fun t =>
      link t n = { link s n with partnerLoop := decide (flitStep f = 1) } ∧ ∀ m : Nat, m ≠ n.val → link t m = link s m)) ∧
  (∀ (n : Fin 9) (f : Bytes) (s : State), flitIntact f = false →
    Completes (.loopbackReq n f) s [.counters, .lanes] (fun t =>
      t.lanes = s.lanes ∧ counter t 0x402002 = (counter s 0x402002 + 1) % 2 ^ 64)) ∧
  (∀ (w : Tower) (word : BitVec 64) (s : State), wordValid word = true → bits word 59 56 = w.val →
    bits word 63 60 < 12 → bits word 63 60 ≠ w.val → word.getLsbD 52 = false →
    let n := pathLink w (bits word 63 60) (bits word 55 53)
    (txOf s n).waiting = [] →
    Completes (.ackWord w word) s [.free, .counters, .events, .pho, .lanes, .ver, .fab] (fun t =>
      (txOf t n).unacked = (txOf s n).unacked.filter (fun x => decide (512 ≤ seqDist x.seq (bits word 51 42))) ∧
      (txOf t n).nak = none ∧ ∀ m, m ≠ n → txOf t m = txOf s m)) ∧
  (∀ (n : Fin 9) (x : TxFlit) (s : State), (txOf s n).nak = some x.seq → (txOf s n).unacked = [x] →
    Completes (.nakRetransmit n) s [.now, .free, .counters, .events, .pho, .lanes, .ver, .fab] (fun t =>
      t.now = max s.now ((txOf s n).nakAt + 1000) ∧
      ((txOf s n).dataOn = true → counter t 0x402003 = (counter s 0x402003 + 1) % 2 ^ 64 ∧
        (n.val, mkFlit 0 x.seq (ackField s n) (nakField s n) x.first x.data) ∈ t.lanes.sent ∧
        (x.tries < 3 → (txOf t n).unacked = [{ x with tries := x.tries + 1, sentAt := t.now }]) ∧
        (3 ≤ x.tries → Raised 0x4027 s t)) ∧
      ((txOf s n).dataOn = false → t.lanes.sent = s.lanes.sent ∧ (txOf t n).unacked = [x]))) ∧
  (∀ (n : BitVec 16) (x : TxFlit) (s : State), (txOf s n.toNat).unacked = [x] →
    Completes (.replayTimer n) s [.now, .free, .counters, .events, .pho, .lanes, .ver, .fab] (fun t =>
      t.now = max s.now (x.sentAt + if n.toNat < 8 then 1000 else 2000) ∧
      (n.toNat ≤ 8 → (txOf s n.toNat).dataOn = true →
        (n.toNat, mkFlit 0 x.seq (ackField s n.toNat) (nakField s n.toNat) x.first x.data) ∈ t.lanes.sent ∧
        (x.tries < 3 → (txOf t n.toNat).unacked = [{ x with tries := x.tries + 1, sentAt := t.now }])) ∧
      (n.toNat ≤ 8 → (txOf s n.toNat).dataOn = false → t.lanes.sent = s.lanes.sent) ∧
      (8 < n.toNat → x.tries < 4 → x.seq ∈ (txOf t n.toNat).again) ∧
      (8 < n.toNat → 4 ≤ x.tries → Raised 0x4027 s t))) ∧
  (∀ (n : BitVec 16) (lane step : BitVec 8) (s : State), 8 < n.toNat → TapTaken n.toNat lane.toNat step.toNat s →
    Completes (.tapRequest n (.mesh lane step)) s [.free, .counters, .events, .pho, .lanes, .ver, .fab] (fun t =>
      txOf t n.toNat = { txOf s n.toNat with steps := (txOf s n.toNat).steps ++ [(lane.toNat, step.toNat)] } ∧
      ∀ m, m ≠ n.toNat → txOf t m = txOf s m)) ∧
  (∀ (n : BitVec 16) (f : Bytes) (s : State), n.toNat ≤ 8 → InStep n.toNat s → flitIntact f = true → flitKind f = 2 →
    flitCode f = 2 → flitAckValid f = false → flitNakValid f = false →
    TapTaken n.toNat (flitLane f) (flitStep f) s →
    Completes (.tapRequest n (.flit f)) s [.free, .counters, .events, .pho, .lanes, .ver, .fab] (fun t =>
      txOf t n.toNat = { txOf s n.toNat with
        nak := none, steps := (txOf s n.toNat).steps ++ [(flitLane f, flitStep f)] } ∧
      ∀ m, m ≠ n.toNat → txOf t m = txOf s m))

/-- Eyes, failing lanes and loop-backs (R287 to R294): estimates are kept and the fourth high one in a row makes a
lane failing, a lane that loses its signal or its clock is failing and its link asks for the other half, a scan is
started and read out, and loop-backs begin and end by command. It rests on choices of the model: log entries 22,
124, 139, 176, 179. -/
def Obligations.LaneCommandsComplete : Prop :=
  (∀ (n : BitVec 16) (ests spared : List Nat) (s : State), linkExists n.toNat = true → 2 ≤ (link s n.toNat).state →
    Completes (.eyeEstimate n ests spared) s [.free, .counters, .events, .pho, .lanes, .ver, .fab] (fun t =>
      (∀ i, i < ests.length → i < linkLanes n.toNat →
        (Tab.look {} t.lanes.eyes (64 * n.toNat + i)).estimate = min (ests.getD i 2000) 2000) ∧
      (∀ e, ests = [e] → e ≤ 1200 → (Tab.look {} s.lanes.eyes (64 * n.toNat)).high = 3 → 0 ∉ (link s n.toNat).failing →
        Raised 0x4024 s t ∧ 0 ∈ (link t n.toNat).failing))) ∧
  (∀ (n : BitVec 16) (lane : BitVec 6) (spared : Bool) (s : State), linkExists n.toNat = true →
    lane.toNat < linkLanes n.toNat → (link s n.toNat).failing = [] → (link s n.toNat).state ≠ 0 →
    Completes (.lossOfSignal n lane spared) s [.free, .counters, .events, .pho, .lanes, .ver, .fab] (fun t =>
      Raised 0x4024 s t ∧ (∀ m, m ≠ n.toNat → link t m = link s m) ∧
      (spared = true → link t n.toNat = { link s n.toNat with failing := [lane.toNat] }) ∧
      (spared = false → n.toNat ≤ 8 → link t n.toNat = { link s n.toNat with
        failing := [lane.toNat], ask := if lane.toNat < linkLanes n.toNat / 2 then 2 else 1 }) ∧
      (spared = false → 8 < n.toNat → link t n.toNat = { link s n.toNat with
        failing := [lane.toNat], narrow := some (if lane.toNat < linkLanes n.toNat / 2 then 1 else 0) }))) ∧
  (∀ (n : BitVec 16) (lane : BitVec 6) (spared : Bool) (s : State), linkExists n.toNat = true →
    lane.toNat < linkLanes n.toNat → (link s n.toNat).failing = [] → (link s n.toNat).state ≠ 0 →
    Completes (.lossOfClockRecovery n lane spared) s [.free, .counters, .events, .pho, .lanes, .ver, .fab] (fun t =>
      Raised 0x4024 s t ∧ (∀ m, m ≠ n.toNat → link t m = link s m) ∧
      (spared = true → link t n.toNat = { link s n.toNat with failing := [lane.toNat] }) ∧
      (spared = false → n.toNat ≤ 8 → link t n.toNat = { link s n.toNat with
        failing := [lane.toNat], ask := if lane.toNat < linkLanes n.toNat / 2 then 2 else 1 }) ∧
      (spared = false → 8 < n.toNat → link t n.toNat = { link s n.toNat with
        failing := [lane.toNat], narrow := some (if lane.toNat < linkLanes n.toNat / 2 then 1 else 0) }))) ∧
  (∀ (req : Req) (value : Bytes) (s : State), Admitted req 0x402006 value s → linkExists (leNat value) = true →
    Completes (.eyeScan req value) s [.events, .om, .lanes] (fun t => Answered req 0x402006 s t ∧
      t.lanes = { s.lanes with scan := some { link := leNat value, ends := s.now + 100 * ms } })) ∧
  (∀ (margins : List (List Nat)) (scan : Scan) (s : State), s.lanes.scan = some scan → 2 ≤ (link s scan.link).state →
    Completes (.eyeScanDone margins) s [.now, .lanes] (fun t =>
      t.now = max s.now scan.ends ∧ t.lanes.scan = none ∧ t.lanes.scanResult.length = 512 ∧
      ∀ i, i < linkLanes scan.link → (t.lanes.scanResult.drop (8 * i)).take 4 =
        (List.range 4).map (fun j => BitVec.ofNat 8 ((margins.getD i []).getD j 0)))) ∧
  (∀ (req : Req) (value : Bytes) (s : State), Admitted req 0x402008 value s → leNat value < 2 ^ 18 →
    cmdCode (leNat value) = 0 → linkExists (cmdLink (leNat value)) = true → (link s (cmdLink (leNat value))).loop ≠ 0 →
    let n := cmdLink (leNat value)
    Completes (.loopbackEnd req value) s [.free, .events, .om, .pho, .lanes] (fun t =>
      Answered req 0x402008 s t ∧ link t n = { link s n with loop := 0 } ∧
      (8 < n → (link s n).loop = 2 → Raised 0x4002 s t) ∧
      ((link s n).loop = 3 → (n, mkFlit 2 0 (ackField s n) (nakField s n) 0xFFFF (controlData 4 0 0 0 0)) ∈
        t.lanes.sent))) ∧
  (∀ (req : Req) (value : Bytes) (s : State), Admitted req 0x402008 value s → leNat value < 2 ^ 18 →
    cmdCode (leNat value) = 1 → linkExists (cmdLink (leNat value)) = true →
    (link s (cmdLink (leNat value))).out = true → (link s (cmdLink (leNat value))).loop = 0 →
    let n := cmdLink (leNat value)
    Completes (.loopbackNearParallel req value) s [.free, .events, .om, .pho, .lanes] (fun t =>
      Answered req 0x402008 s t ∧ link t n = { link s n with loop := 1 } ∧ t.lanes.loopChecked = 0 ∧
      t.lanes.loopErrors = 0 ∧ t.lanes.sent = s.lanes.sent ++ [(n, loopNull n s)])) ∧
  (∀ (req : Req) (value : Bytes) (light : Bool) (s : State), Admitted req 0x402008 value s → leNat value < 2 ^ 18 →
    cmdCode (leNat value) = 2 → linkExists (cmdLink (leNat value)) = true →
    (link s (cmdLink (leNat value))).out = true → (link s (cmdLink (leNat value))).loop = 0 →
    let n := cmdLink (leNat value)
    (n ≠ 8 → (s.lanes.links.any (fun l => decide (l.1 ≠ 8 ∧ l.2.loop = 2))) = false) →
    Completes (.loopbackNearSerial req value light) s [.free, .events, .om, .pho, .lanes] (fun t =>
      (n = 8 ∨ light = true → Answered req 0x402008 s t ∧ link t n = { link s n with loop := 2 } ∧
        t.lanes.loopChecked = 0 ∧ t.lanes.loopErrors = 0 ∧ (n, loopNull n s) ∈ t.lanes.sent ∧
        (8 < n → Raised 0x4001 s t)) ∧
      (n ≠ 8 → light = false → t.lanes = s.lanes ∧ t.om.replies = s.om.replies ++
        [{ id := writeId req 0x402008, status := stUnavailable, data := leBytes 4 0 }]))) ∧
  (∀ (req : Req) (value : Bytes) (s : State), Admitted req 0x402008 value s → leNat value < 2 ^ 18 →
    cmdCode (leNat value) = 3 → cmdLink (leNat value) ≤ 8 → (link s (cmdLink (leNat value))).out = true →
    (link s (cmdLink (leNat value))).loop = 0 →
    let n := cmdLink (leNat value)
    Completes (.loopbackFarEnd req value) s [.free, .events, .om, .pho, .lanes] (fun t =>
      Answered req 0x402008 s t ∧ link t n = { link s n with loop := 3 } ∧ t.lanes.sent =
        s.lanes.sent ++ [(n, loopNull n s), (n, mkFlit 2 0 (ackField s n) (nakField s n) 0xFFFF (controlData 4 0 0 0 1))]))

/-- Sparing of a laser (R301 to R306): a command takes a lamb or reports that none is left; a locked lamb sends its
notice twice or, on a port, its pattern; the hubs report what the duplicate frame showed; the source decides; a port
receiver takes the lane from the spare detector at the dark marker. A hub that finds a notice intact changes the
lane's carrier at the opening of the frame it names, one frame later for a duplicate; ABANDON takes a duplicate
back. It rests on choices of the model: log entries 33, 183, 184, 185. -/
def Obligations.SparingCommandsComplete : Prop :=
  (∀ (req : Req) (value : Bytes) (s : State), Admitted req 0x440005 value s → leNat value < 2 ^ 10 →
    let f := nbits (leNat value) 3 0
    let k := nbits (leNat value) 8 4
    sourceState s f k ≠ lsRetired → (∀ x ∈ s.las.sparings, ¬(x.flock = f ∧ x.lane = k)) →
    Completes (.spareCommand req value) s [.free, .events, .om, .pho, .las, .ver] (fun t =>
      Answered req 0x440005 s t ∧
      (∀ j, lambIn s f lsIdle = some j →
        Raised 0x4402 s t ∧ sourceState t f k = lsSparing ∧ sourceState t f (32 + j) = lsStanding ∧
        t.las.sparings = s.las.sparings ++
          [{ flock := f, source := k, lamb := j, lane := k, fast := nbit (leNat value) 9 || fadesFast s f k }]) ∧
      ((∀ j : Fin 4, sourceState s f (32 + j) ∉ [lsIdle, lsRecal, lsParking]) → (source s f k).exhausted = false →
        Raised 0x4406 s t ∧ t.las.sparings = s.las.sparings))) ∧
  (∀ (f : Fin 16) (j : Fin 4) (power : BitVec 16) (x : Sparing) (s : State), OnlySparing x s →
    s.las.sparings.find? (fun y => decide (y.flock = f.val ∧ y.lamb = j.val ∧ y.phase = .tuning)) = some x →
    Completes (.lambLocked f j power) s [.free, .events, .pho, .lanes, .las, .ver] (fun t =>
      (f.val < 12 →
        let w := carrierWord f (if x.fast then 2 else 1) x.lane j (frameAhead s 300) 0xFF
        t.las.words = s.las.words ++ [(f.val, w), (f.val, w)] ∧
        { x with phase := .armed, b1 := frameAhead s 300 } ∈ t.las.sparings) ∧
      (12 ≤ f.val → x.fast = false → { x with phase := .armed, b1 := frameAhead s 4096 } ∈ t.las.sparings) ∧
      (12 ≤ f.val → x.fast = true →
        Raised 0x4403 s t ∧ sourceState t f (32 + j) = lsStanding ∧ (source t f (32 + j)).lane = some x.lane ∧
        ∀ g ∈ guidesOf f, Tab.look 0 t.las.sendOn (sendKey f g x.lane) = j + 1))) ∧
  (∀ (f : Fin 16) (k : Fin 32) (counts : List CompareCount) (s : State), f.val < 12 →
    (∃ x ∈ s.las.sparings, x.flock = f ∧ x.lane = k ∧ x.phase = .duplicate) →
    Completes (.compareCountStop f k counts) s [.now, .free, .pho, .las, .ver] (fun t =>
      t.now = max s.now (frameEnd s - 400) ∧
      t.las.words = s.las.words ++
        counts.map (fun c => (c.receiver.val, reportWord c.receiver f k c.compared c.mismatches)))) ∧
  (∀ (w : Tower) (word : BitVec 64) (x : Sparing) (s : State), wordIntact word = true → bits word 59 56 = w.val →
    OnlySparing x s → x.flock = w.val → x.lane = bits word 55 51 → x.phase = .duplicate →
    Completes (.compareReport w word) s [.pho, .las] (fun t =>
      { x with reports := x.reports ++ [(bits word 63 60, bits word 50 31, bits word 30 21)] } ∈ t.las.sparings)) ∧
  (∀ (f : Fin 16) (k : Fin 32) (x : Sparing) (s : State), f.val < 12 → OnlySparing x s → x.flock = f.val →
    x.lane = k.val → x.phase = .duplicate → x.source ≠ 32 + x.lamb →
    Completes (.spareDecision f k) s [.now, .free, .events, .pho, .las, .ver] (fun t =>
      t.now = max s.now (frameEnd s - 250) ∧
      ((∃ r ∈ x.reports, 65536 ≤ r.2.1 ∧ 16 < r.2.2) →
        Raised 0x4405 s t ∧ sourceState t f (32 + x.lamb) = lsRetired) ∧
      ((∃ r ∈ x.reports, 65536 ≤ r.2.1) → (∀ r ∈ x.reports, 65536 ≤ r.2.1 → r.2.2 ≤ 16) →
        { x with phase := .pass false } ∈ t.las.sparings) ∧
      ((∀ r ∈ x.reports, r.2.1 < 65536) →
        (16 ≤ x.tries → { x with phase := .pass true } ∈ t.las.sparings) ∧
        (x.tries < 16 → { x with phase := .armed, b1 := x.b1 + 1, reports := [] } ∈ t.las.sparings)))) ∧
  (∀ (p : Port) (lane : BitVec 6) (j : Fin 4) (compared mismatches : Nat) (s : State),
    Completes (.darkMarker p lane j compared mismatches) s [.events, .las] (fun t =>
      Tab.look 0 t.las.portTake (64 * p.val + lane.toNat) = j.val + 1 ∧
      (16 * max compared 65536 < mismatches * 65536 → Raised 0x4405 s t))) ∧
  (∀ (w : Tower) (word : BitVec 64) (s : State),
    Completes (.noticeDuplicate w word) s [.pho, .las] (fun t =>
      (HearsOf w word 1 → TakesFrom w word (bits word 51 50 + 1) ((bits word 49 34 + 1) % 65536) true t) ∧
      (wordIntact word = false → t.las = s.las))) ∧
  (∀ (w : Tower) (word : BitVec 64) (s : State),
    Completes (.noticeSwitch w word) s [.pho, .las] (fun t =>
      (HearsOf w word 2 → TakesFrom w word (bits word 51 50 + 1) (bits word 49 34) false t) ∧
      (wordIntact word = false → t.las = s.las))) ∧
  (∀ (w : Tower) (word : BitVec 64) (s : State),
    Completes (.noticePark w word) s [.pho, .las] (fun t =>
      (HearsOf w word 3 → TakesFrom w word (bits word 51 50 + 1) (bits word 49 34) false t) ∧
      (wordIntact word = false → t.las = s.las))) ∧
  (∀ (w : Tower) (word : BitVec 64) (s : State),
    Completes (.noticeReturn w word) s [.pho, .las] (fun t =>
      (HearsOf w word 4 → TakesFrom w word 0 (bits word 49 34) false t) ∧ (wordIntact word = false → t.las = s.las))) ∧
  (∀ (w : Tower) (word : BitVec 64) (s : State),
    Completes (.noticeAbandon w word) s [.pho, .las] (fun t =>
      (HearsOf w word 5 → ∀ c, c ∈ t.las.carriers ↔ c ∈ s.las.carriers ∧
        ¬(c.receiver = w.val ∧ c.source = bits word 63 60 ∧ c.lane = bits word 56 52 ∧ c.duplicate = true)) ∧
      (wordIntact word = false → t.las = s.las)))

/-- Rings and calibration (R310, R311, R313, R317 to R319): a ring's loop follows its sample, leaves its band at the
second sample beyond 30 GHz and relocks at the hundredth within 5 GHz; a recalibration pass puts its lane on an idle
lamb unless RREF is out of its range; a record of corrections is written over the copy that is not in use. It rests
on choices of the model: log entries 34, 35, 174, 177, 182. -/
def Obligations.CalibrationCommandsComplete : Prop :=
  (∀ (r : Ring) (error temperature : Int) (s : State), s.las.on = true → ringExists r = true →
    let x := ringLoop s r
    let y := ringMove x error temperature
    Completes (.ringSample r error temperature) s [.free, .counters, .events, .pho, .lanes, .las, .ver, .fab] (fun t =>
      (x.out = false → 30000 < error.natAbs → 1 ≤ x.high →
        Raised 0x4407 s t ∧ counter t 0x441001 = satAdd 32 (counter s 0x441001) 1 ∧
        Tab.look {} t.las.rings (ringKey r) = { y with out := true, outAt := s.now }) ∧
      (x.out = true → error.natAbs ≤ 5000 → 99 ≤ x.low →
        Raised 0x4408 s t ∧ Tab.look {} t.las.rings (ringKey r) = { y with out := false }) ∧
      (x.out = false → error.natAbs ≤ 30000 ∨ x.high = 0 →
        Tab.look {} t.las.rings (ringKey r) = y ∧ t.hen.arriving = s.hen.arriving ∧
        y.fine = max (-40000) (min 40000 (x.fine - error)) ∧
        ∀ before, x.temperature = some before → y.heater = x.heater + (temperature - before) * 1000))) ∧
  (∀ (f : Fin 16) (k : Fin 32) (warm : Bool) (rref : BitVec 16) (entries : List (BitVec 64)) (s : State),
    (warm = true → laneDeparted s f k = true) → (warm = false → dictNat s 0x442001 ≠ 0) → s.las.on = true →
    (∀ p ∈ s.las.passes, p.flock ≠ f.val) → sourceState s f k ≠ lsRetired →
    Completes (.recalPassStart f k warm rref entries) s [.now, .free, .events, .pho, .las, .ver] (fun t =>
      t.now = (if warm = true ∨ Tab.look 0 s.las.lanePass (32 * f.val + k.val) < s.las.passCount then s.now
        else max s.now (s.las.passBegan + dictNat s 0x442001 * sec)) ∧
      (warm = false → Tab.look 0 t.las.lanePass (32 * f.val + k.val) = t.las.passCount) ∧
      t.las.rref = some rref ∧
      (rref.toInt.natAbs ≤ 4000 → t.las.scaling = rref ∧ ∀ j, lambIn s f lsIdle = some j →
        sourceState t f (32 + j) = lsRecal ∧ t.las.passes = s.las.passes ++
          [{ flock := f, lane := k, lamb := j, frame := frameAhead (atTime t.now s) (noticeMargin f) - 1,
             entries := entries }]) ∧
      (4000 < rref.toInt.natAbs → t.las.rrefFault = true ∧ t.las.scaling = s.las.scaling ∧
        (s.las.rrefFault = false → Raised 0x440C s t)))) ∧
  (∀ (b : Fin 4) (written : Bool) (s : State), b.val ∈ s.las.dirty →
    let c := if calCopy s b = some 0 then 1 else 0
    Completes (.calRecordWrite b written) s [.events, .las] (fun t =>
      t.las.dirty = s.las.dirty.erase b ∧ calRecord t b (1 - c) = calRecord s b (1 - c) ∧
      (written = true → calRecord t b c =
        { valid := true
          sequence := max (calRecord s b 0).sequence (calRecord s b 1).sequence + 1
          stamp := s.las.lastCommit
          rref := s.las.rref.getD 0
          entries := (s.las.corrections.filter (fun x => decide (x.1 / 2 ^ 24 = b.val))).map (·.2) } ∧
        b.val ∈ t.las.onRecord ∧ b.val ∉ t.las.onFactory) ∧
      (written = false → (calRecord t b c).valid = false ∧ Raised 0x440B s t)))

/-- The vertical bundles (R326, R327, R330): a group that keeps its CRC is delivered when it is in sequence, and the
groups from the oldest unacknowledged one are sent again; a lane that shows no transition, or a spare lane with
errors in 4 of 64 intervals, is failing. It rests on choices of the model: log entries 26, 195, 196. -/
def Obligations.BundleCommandsComplete : Prop :=
  (∀ (w : BundleSide) (n : Fin 36) (g : Bytes) (s : State), bundleRuns s w n = true → g.length = 540 →
    let intact : Bool := decide (crc32 (g.take 0x218) = BitVec.ofNat 32 (fieldAt g 0x218 4))
    let seq := fieldAt g 8 2 % 1024
    Completes (.groupReceived w n g) s [.free, .events, .ver] (fun t =>
      (bundle t w n).groups = (bundle s w n).groups + 1 ∧
      (intact = false → t.ver.delivered = s.ver.delivered ∧ (bundle t w n).expected = (bundle s w n).expected) ∧
      (intact = true → seq = (bundle s w n).expected → (bundle t w n).expected = (seq + 1) % 1024 ∧
        (fieldAt g 0 8 / 2 ^ 60 = 1 →
          t.ver.delivered = s.ver.delivered ++ [(36 * w.val + n.val, slice g 0x18 512)])) ∧
      (intact = true → seq ≠ (bundle s w n).expected →
        t.ver.delivered = s.ver.delivered ∧ (bundle t w n).expected = (bundle s w n).expected) ∧
      (intact = true → nbit (fieldAt g 0x0A 2) 15 = true → (bundle s w (reverseBundle w n)).queue = [] →
        (bundle t w (reverseBundle w n)).unacked = (bundle s w (reverseBundle w n)).unacked.filter
          (fun x => decide (512 ≤ (fieldAt g 0x0A 2 % 1024 + 1024 - x.seq) % 1024))))) ∧
  (∀ (w : BundleSide) (n : Fin 36) (g : GroupTx) (rest : List GroupTx) (s : State), bundleRuns s w n = true →
    (bundle s w n).unacked = g :: rest →
    Completes (.groupReplayTimer w n) s [.now, .counters, .ver] (fun t =>
      t.now = max s.now (g.sentAt + 200) ∧
      (bundle t w n).unacked = (g :: rest).map (fun x => { x with sentAt := t.now }) ∧
      counter t 0x480003 = (counter s 0x480003 + (rest.length + 1)) % 2 ^ 64)) ∧
  (∀ (w : BundleSide) (n : Fin 36) (l : Fin 68) (s : State), bundleRuns s w n = true →
    Completes (.laneNoTransition w n l) s [.events, .ver] (fun t =>
      (l.val ∈ (bundle s w n).spare → t = s) ∧
      (l.val ∉ (bundle s w n).spare → l.val ∉ (bundle s w n).serviceFailed →
        l.val ∈ (bundle s w n).data ∨ l.val ∈ (bundle s w n).control ∨ l.val ∈ (bundle s w n).test →
        Raised 0x4801 s t ∧ l.val ∈ (bundle t w n).failing ∧ l.val ∈ (bundle t w n).serviceFailed))) ∧
  (∀ (w : BundleSide) (n : Fin 36) (l : Fin 68) (errored : Bool) (s : State), bundleRuns s w n = true →
    l.val ∈ (bundle s w n).spare →
    let i := Tab.look 0 (bundle s w n).prbsCount l
    let before := ((bundle s w n).prbsFails.filter (fun f => decide (f.1 = l.val ∧ i < f.2 + 64))).length
    Completes (.sparePoolPrbsInterval w n l errored) s [.events, .ver] (fun t =>
      Tab.look 0 (bundle t w n).prbsCount l = i + 1 ∧
      (before + flag errored < 4 → (bundle t w n).spare = (bundle s w n).spare) ∧
      (4 ≤ before + flag errored → l.val ∉ (bundle s w n).serviceFailed →
        Raised 0x4801 s t ∧ (bundle t w n).spare = (bundle s w n).spare.erase l ∧
        l.val ∈ (bundle t w n).serviceFailed)))

/-- Die discovery (R334 to R336): a die answers a PROBE with its identity, the Mule assigns its record when that is
the one it holds and reports it otherwise, the die stores its record, and a die that does not answer is asked three
times. It rests on choices of the model: log entries 28, 187, 198. -/
def Obligations.DiscoveryCommandsComplete : Prop :=
  (∀ (m : BitVec 128) (identity : BitVec 64) (r : Nat) (s : State), dmRecord m = some r →
    Completes (.probe m identity) s [.ver] (fun t =>
      (dmIntact m = true → dmKind m = 1 →
        t.ver.sent = s.ver.sent ++ [discoveryMessage 2 r (dmSequence m) (identityKey identity)]) ∧
      (dmIntact m = false → t = s))) ∧
  (∀ (m : BitVec 128) (r : Nat) (s : State), dmRecord m = some r → dmIntact m = true → dmKind m = 2 →
    (discovery s r).probes ≠ 0 → (discovery s r).replied = false → (discovery s r).failed = false →
    Completes (.reply m) s
      [.free, .counters, .events, .om, .start, .spad, .parts, .dma, .dram, .clk, .host, .pho, .sums, .lanes, .ver, .fab, .pow, .twin] (fun t =>
      (dmIdentity m = identityKey (dieIdentity r) → (discovery t r).replied = true ∧
        t.ver.sent = s.ver.sent ++ [discoveryMessage 3 r (dmSequence m) (dieIdentity r)]) ∧
      (dmIdentity m ≠ identityKey (dieIdentity r) → (discovery t r).failed = true ∧ Raised 0x4806 s t ∧
        ∀ u ∈ recordUnits r, u ∈ t.start.kept))) ∧
  (∀ (m : BitVec 128) (r : Nat) (s : State), dmRecord m = some r → dmIntact m = true → dmKind m = 3 →
    Completes (.assign m) s [.ver] (fun t =>
      Tab.look 0 t.ver.identities r = dmIdentity m ∧
      t.ver.sent = s.ver.sent ++ [discoveryMessage 4 r (dmSequence m) (dmIdentity m)])) ∧
  (∀ (m : BitVec 128) (r : Nat) (s : State), dmRecord m = some r → dmIntact m = true → dmKind m = 4 →
    (discovery s r).replied = true → (discovery s r).failed = false → (discovery s r).assigned = false →
    Completes (.assigned m) s [.ver] (fun t =>
      (discovery t r).assigned = true ∧ t.ver.named = addOnce r s.ver.named ∧
      (4 ≤ r → t.ver.sent = s.ver.sent))) ∧
  (∀ (r : Fin 128) (s : State), (discovery s r).probes ≠ 0 → (discovery s r).replied = false →
    (discovery s r).failed = false →
    Completes (.discoveryTimeout r) s
      [.now, .free, .counters, .events, .om, .start, .spad, .parts, .dma, .dram, .clk, .host, .pho, .sums, .lanes, .ver, .fab, .pow, .twin] (fun t =>
      t.now = max s.now ((discovery s r).sentAt + 50 * us) ∧
      ((discovery s r).probes < 3 →
        discovery t r = { discovery s r with probes := (discovery s r).probes + 1, sentAt := t.now } ∧
        t.ver.sent = s.ver.sent ++ [discoveryMessage 1 r ((s.ver.probeSequence + 1) % 256) 0]) ∧
      (3 ≤ (discovery s r).probes → (discovery t r).failed = true ∧ Raised 0x4806 s t ∧
        ∀ u ∈ recordUnits r, u ∈ t.start.kept)))

/-- Resets of base dies (R339 to R342, R594): a command starts the drain, the reset follows when it is done or at
its limit, an uncommanded one comes at once and the third within 10 s is kept, discovery begins 2 ms after the
reset, the base die returns with the dies that were named, and reads that waited too long end. It rests on choices
of the model: log entries 27, 30. -/
def Obligations.BaseResetCommandsComplete : Prop :=
  (∀ (req : Req) (value : Bytes) (s : State), Admitted req 0x480004 value s → leNat value < 4 →
    (baseState s (leNat value)).resetAt = none →
    Completes (.baseResetCommand req value) s [.events, .om, .ver] (fun t =>
      Answered req 0x480004 s t ∧
      ((baseState s (leNat value)).drainSince = none →
        baseState t (leNat value) = { baseState s (leNat value) with drainSince := some s.now }) ∧
      ((baseState s (leNat value)).drainSince ≠ none → t.ver = s.ver) ∧
      ∀ c, c ≠ leNat value → baseState t c = baseState s c)) ∧
  (∀ (b : Fin 4) (s : State), (baseState s b).drainSince.isSome = true →
    Completes (.drainDone b) s
      [.free, .counters, .events, .om, .frame, .spad, .parts, .dma, .dram, .clk, .host, .pho, .sums, .lanes,
        .las, .ver, .fab, .pow, .sec, .twin] (fun t =>
      ((flights s).any (through s b) = true → t = s) ∧
      ((flights s).any (through s b) = false → savingOn s b = [] →
        Raised 0x4804 s t ∧ baseState t b = { baseState s b with
          drainSince := none, resetAt := some s.now, logicUp := false, cause := 1, stamp := packageStamp s,
          commanded := satAdd 16 (baseState s b).commanded 1,
          uncommanded := satAdd 16 (baseState s b).uncommanded 0 }))) ∧
  (∀ (b : Fin 4) (u : Nat) (s : State), (baseState s b).drainSince = some u →
    Completes (.drainTimeout b) s
      [.now, .free, .counters, .events, .om, .frame, .spad, .parts, .dma, .dram, .clk, .host, .pho, .sums,
        .lanes, .las, .ver, .fab, .pow, .sec, .twin] (fun t =>
      t.now = max s.now (u + dictNat s 0x480006 * us) ∧ Raised 0x4804 s t ∧ Raised 0x4808 s t ∧
      (baseState t b).resetAt = some t.now ∧ (baseState t b).drainSince = none ∧ (baseState t b).cause = 1)) ∧
  (∀ (b : Fin 4) (cause : Fin 3) (s : State), baseUp s b = true → (baseState s b).held = false →
    Completes (.uncommandedBaseReset b cause) s
      [.free, .counters, .events, .om, .frame, .start, .spad, .parts, .dma, .dram, .clk, .host, .pho, .sums,
        .lanes, .las, .ver, .fab, .pow, .sec, .twin] (fun t =>
      Raised 0x4804 s t ∧ (baseState t b).resetAt = some s.now ∧ (baseState t b).cause = cause.val + 2 ∧
      (baseState t b).uncommanded = satAdd 16 (baseState s b).uncommanded 1 ∧
      let recent := ((baseState s b).recent.filter (fun m => decide (s.now < m + 10 * sec))).length
      (recent < 2 → (baseState t b).held = false) ∧
      (2 ≤ recent → (baseState t b).held = true ∧ Raised 0x4809 s t))) ∧
  (∀ (b : Fin 4) (u : Nat) (s : State), (baseState s b).resetAt = some u → (baseState s b).held = false →
    (baseState s b).logicUp = false →
    Completes (.baseDieOutOfReset b) s [.now, .ver] (fun t =>
      t.now = max s.now (u + 2 * ms) ∧ baseState t b = { baseState s b with logicUp := true } ∧
      t.ver.sent = s.ver.sent ++ [discoveryMessage 1 b ((s.ver.probeSequence + 1) % 256) 0] ∧
      ∀ r ∈ t.ver.named, (diePlace r).2.1 ≠ b.val)) ∧
  (∀ (b : Fin 4) (s : State), (baseState s b).resetAt.isSome = true → (baseState s b).logicUp = true →
    (baseState s b).held = false → unitNamed s b 1 = true →
    Completes (.baseReturn b) s
      [.free, .counters, .events, .om, .start, .spad, .parts, .dma, .dram, .clk, .host, .pho, .sums, .lanes,
        .las, .ver, .fab, .pow, .twin] (fun t =>
      Raised 0x4805 s t ∧ baseState t b = { baseState s b with resetAt := none, logicUp := false } ∧
      ∀ w : Tower, baseOfTower w = b.val → unitNamed s (4 + 9 * w.val) 9 = false → ∀ u ∈ towerUnit w, u ∈ t.start.kept)) ∧
  (∀ (b : Fin 4) (u : Nat) (s : State), (baseState s b).resetAt = some u →
    Completes (.readRetryLimit b) s
      [.now, .free, .counters, .events, .om, .spad, .dma, .dram, .host, .pho, .lanes, .ver, .fab, .twin]
        (fun t =>
      t.now = max s.now (u + dictNat s 0x480005 * ms) ∧
      ∀ (k : Nat) (d : Desc), s.dma.queues = [(k, [d])] → d.wait = .base b → readsNext d = true →
        ∃ x, engineQueue t k = [x] ∧ x.raw = d.raw ∧ x.state = .done ∧ x.code = ccPathReset))

/-- Routes and jobs (R346, R349, R351, R353, R378): the package ID and the routes are set, a destination whose port
has changed is held until it has settled, a job is bound to a partition, and its teardown freezes the binding. -/
def Obligations.FabricSetupCommandsComplete : Prop :=
  (∀ (req : Req) (value : Bytes) (s : State), Admitted req 0x500001 value s → value ≠ [] →
    nbits (leNat value) 14 12 = 0 → (∀ q : Tower, bindingValid (bindingWord s q) = false) →
    Completes (.packageIdWrite req value) s [.dict, .events, .om, .sec] (fun t =>
      Answered req 0x500001 s t ∧ dictBytes t 0x500001 = value)) ∧
  (∀ (req : Req) (value : Bytes) (s : State), Admitted req 0x500002 value s → value ≠ [] →
    (∀ b ∈ value, routeByteOk b = true) →
    Completes (.routeTableWrite req value) s [.dict, .events, .om, .fab, .sec] (fun t =>
      Answered req 0x500002 s t ∧ dictBytes t 0x500002 = value ∧ ∀ d, d < 4096 →
        (packageId s ≠ some d → routeNow t d ≠ routeNow s d → (routeNow t d).isSome = true →
          Tab.look 0 t.fab.settling d = s.now + dictNat s 0x500003 * us) ∧
        (packageId s = some d ∨ routeNow t d = routeNow s d ∨ routeNow t d = none →
          Tab.look 0 t.fab.settling d = Tab.look 0 s.fab.settling d))) ∧
  (∀ (d : BitVec 12) (s : State), Tab.look 0 s.fab.settling d.toNat ≠ 0 →
    Completes (.routeSettle d) s [.now, .free, .counters, .events, .lanes, .ver, .fab] (fun t =>
      t.now = max s.now (Tab.look 0 s.fab.settling d.toNat) ∧ Tab.look 0 t.fab.settling d.toNat = 0 ∧
      ∀ h ∈ t.fab.held, h.dest = d.toNat → h.until_ = none)) ∧
  (∀ (req : Req) (p : Partition) (value : Bytes) (s : State), Admitted req (0x504001 + p.val) value s →
    nbits (leNat value) 63 20 = 0 → runsOf s p = [] →
    (bindingValid (leNat value) = true → ∀ q : Tower, q.val ≠ p.val →
      ¬(bindingValid (bindingWord s q) = true ∧ bindingJob (bindingWord s q) = bindingJob (leNat value))) →
    Completes (.jobBindingWrite req p value) s [.dict, .events, .om, .fab, .sec] (fun t =>
      Answered req (0x504001 + p.val) s t ∧ bindingWord t p = leNat value % 2 ^ 19 ∧ p.val ∉ t.fab.openSlots ∧
      (bindingValid (bindingWord s p) = true → bindingValid (leNat value) = false →
        Tab.look 0 t.fab.unbound p = s.now + 1))) ∧
  (∀ (req : Req) (value : Bytes) (p : Nat) (s : State), Admitted req 0x504010 value s →
    jobPartition s (BitVec.ofNat 16 (leNat value)) = some p →
    Completes (.jobTeardown req value) s
      [.free, .counters, .dict, .events, .om, .spad, .dma, .dram, .host, .pho, .lanes, .ver, .fab, .sec, .twin] (fun t =>
      Raised 0x5007 s t ∧ bindingWord t p = bindingWord s p % 2 ^ 19 + 2 ^ 19 ∧ p ∈ t.fab.teardowns ∧
      ∀ u ∈ towersOf s p, Tab.look [] t.fab.limiters u = []))

/-- Requests of other packages (R354, R363 to R366, R370 to R372): a request that is served reaches the combiner of
its port, one of no bound job is refused with an event, a known atomic is answered from the reply cache, one that is
too old is stale, a window's end closes its entries, and a closed entry is applied and answered. It rests on choices
of the model: log entries 15, 16, 164. -/
def Obligations.FabricRequestCommandsComplete : Prop :=
  (∀ (port : Port) (header : BitVec 256) (data : Bytes) (s : State), ComesIn port 1 header data s → twinServes s = true →
    Completes (.fabricRead port header data) s [.free, .counters, .events, .lanes, .ver, .fab] (fun t =>
      (RequestServed port 1 header data s → Combined port { header := header, data := data } s t) ∧
      (jobPartition s (readHeader header).job = none → Raised 0x5006 s t ∧ t.fab.entries = s.fab.entries))) ∧
  (∀ (port : Port) (header : BitVec 256) (data : Bytes) (s : State), RequestServed port 2 header data s →
    Completes (.fabricWrite port header data) s [.free, .counters, .events, .lanes, .ver, .fab] (fun t =>
      Combined port { header := header, data := data } s t)) ∧
  (∀ (port : Port) (header : BitVec 256) (data : Bytes) (s : State), RequestServed port 3 header data s →
    let f := readHeader header
    Completes (.fabricAtomic port header data) s [.free, .counters, .events, .lanes, .ver, .fab] (fun t =>
      ((∃ r ∈ s.fab.replies, r.source = f.source ∧ r.sequence = f.sequence) →
        counter t 0x50000B = (counter s 0x50000B + 1) % 2 ^ 64 ∧ t.fab.entries = s.fab.entries) ∧
      ((∀ r ∈ s.fab.replies, ¬(r.source = f.source ∧ r.sequence = f.sequence)) →
        (∀ e ∈ s.fab.entries ++ s.fab.ready, ∀ m ∈ e.members, memberIs f.source f.sequence m = false) →
        (f.age * us ≤ min (240 * us) (s.now - clearedAt s (replyQuarter f.source f.sequence)) →
          Combined port { header := header, data := data } s t) ∧
        (min (240 * us) (s.now - clearedAt s (replyQuarter f.source f.sequence)) < f.age * us →
          Raised 0x5004 s t ∧ t.fab.entries = s.fab.entries ∧
          counter t 0x50000C = satAdd 32 (counter s 0x50000C) 1)))) ∧
  (∀ (port : Port) (e : CombineEntry) (s : State), e ∈ s.fab.entries → e.port = port.val →
    (∀ x ∈ s.fab.entries, x.port = port.val → e.ends ≤ x.ends) →
    Completes (.combineWindowExpiry port) s [.now, .fab] (fun t =>
      t.now = max s.now e.ends ∧ { e with closedAt := t.now } ∈ t.fab.ready ∧
      (∀ x ∈ t.fab.entries, x.port = port.val → e.ends < x.ends) ∧
      ∀ x ∈ s.fab.entries, x.port ≠ port.val ∨ e.ends < x.ends → x ∈ t.fab.entries)) ∧
  (∀ (e : CombineEntry) (rest : List CombineEntry) (s : State), s.fab.ready = e :: rest →
    Completes .entryApplied s
      [.free, .counters, .events, .spad, .dma, .dram, .host, .pho, .lanes, .ver, .fab, .twin] (fun t =>
      (jobPartition s e.job = none → t.fab.ready = rest ∧ t.dram = s.dram ∧ t.spad = s.spad) ∧
      ∀ (p : FabricPacket) (q a u : Nat) (cacheable : Bool),
        let s' := { s with fab.ready := rest }
        e.class_ = .read → e.members = [p] → e.attached = [] → jobPartition s e.job = some q →
        translateNow (translatorOf s e.port q) q e.address .read s' = (.ok 0 a cacheable, s') → placeTower a = some u →
        a < spadBase → regionPermits s u a e.secure false (some q) = true →
        (∀ b ∈ basesBetween (baseOfPort e.port) (baseOfTower u), baseBusy s b = false) → towerUp s u = true →
        stackServes s u = true → (readHeader p.header).secure = false → (readHeader p.header).confidential = false →
        ReplyOpen (readHeader p.header).source s →
        t.fab.ready = rest ∧
        Responded (readHeader p.header) (readLocal 0 a 64 s').2.1 (readLocal 0 a 64 s').1 s t)) ∧
  (∀ (source : BitVec 12) (seq : BitVec 16) (r : ReplyEntry) (s : State),
    s.fab.replies.find? (fun x => decide (x.source = source.toNat ∧ x.sequence = seq)) = some r →
    Completes (.replyCacheExpiry source seq) s [.now, .fab] (fun t =>
      t.now = max s.now (r.time + 256 * us) ∧
      t.fab.replies = s.fab.replies.eraseP (fun x => decide (x.source = source.toNat ∧ x.sequence = seq))))

/-- Answers and timers of requests of this package (R359 to R362, R369, R373, R569, R596): an answer ends what its
descriptor waits for, a RETRY makes it wait, the timer sends the request again and gives up at the fourth expiry,
and the holds of sequences, faulted atomics, limiters and tags end at their moments. It rests on choices of the
model: log entry 117. -/
def Obligations.FabricAnswerCommandsComplete : Prop :=
  (∀ (w : Tower) (port : Port) (header : BitVec 256) (data : Bytes) (d : Desc) (s : State),
    FabricAwaited w port 4 header data d s → (readHeader header).code = ccOk → dOp d.raw = 1 →
    descRefused d.raw = false → dDstSpad d.raw = true → dRows d.raw = 1 → d.cursorRows = 0 → d.cursorBytes = 0 →
    d.chunk = none → d.len = dRowBytes d.raw → dDest d.raw % 64 + d.len ≤ 64 → dSource d.raw % 4096 + d.len ≤ 4096 →
    d.place % 64 + d.len ≤ 64 → mayIssue s d = true →
    OwnLine w d.partition (spadBase + w.val * 2 ^ 28 + dDest d.raw) true s →
    Completes (.fabricReadData port header data) s
      [.free, .counters, .events, .om, .spad, .dma, .dram, .host, .pho, .lanes, .ver, .fab, .twin] (fun t =>
      spadBytes t (w.val * 2 ^ 28 + dDest d.raw) d.len = slice data (d.place % 64) d.len ∧
      (∀ key, key < w.val * 2 ^ 28 + dDest d.raw ∨ w.val * 2 ^ 28 + dDest d.raw + d.len ≤ key →
        spadByte t key = spadByte s key) ∧
      ∃ x, engineQueue t (16 * w.val + (readHeader header).engine) = [x] ∧ x.raw = d.raw ∧ x.state = .done)) ∧
  (∀ (w : Tower) (port : Port) (header : BitVec 256) (data : Bytes) (d : Desc) (s : State),
    FabricAwaited w port 5 header data d s → dOp d.raw ≠ 6 →
    Completes (.fabricCompletion port header data) s
      [.free, .counters, .events, .om, .spad, .dma, .dram, .host, .pho, .lanes, .ver, .fab, .twin] (fun t =>
      ((readHeader header).code = ccOk → d.cursorBytes + d.len = dRowBytes d.raw → d.cursorRows + 1 = dRows d.raw →
        d.code = ccOk → ∃ x, engineQueue t (16 * w.val + (readHeader header).engine) = [x] ∧ x.raw = d.raw ∧
          x.state = .done ∧ x.code = ccOk) ∧
      ((readHeader header).code = ccTargetDead ∨ (readHeader header).code = ccWorldDenied ∨
          (readHeader header).code = ccRefused →
        ∃ x, engineQueue t (16 * w.val + (readHeader header).engine) = [x] ∧ x.raw = d.raw ∧ x.state = .done ∧
          x.code = (readHeader header).code) ∧
      ((readHeader header).code = ccTargetDead → Raised 0x5005 s t) ∧
      ((readHeader header).code = ccRetry → ∃ o ∈ t.fab.outstanding, o.tower = w.val ∧
        o.engine = (readHeader header).engine ∧ o.tag = (readHeader header).tag ∧
        ∃ n, n ≤ 4 ∧ o.phase = .backoff (s.now + us * 2 ^ n) (us * 2 ^ n)))) ∧
  (∀ (w : Tower) (port : Port) (header : BitVec 256) (data : Bytes) (d : Desc) (s : State),
    FabricAwaited w port 6 header data d s → (readHeader header).code = ccOk → dOp d.raw = 6 → dRows d.raw = 1 →
    dRowBytes d.raw = 8 → d.cursorRows = 0 → d.cursorBytes = 0 →
    Completes (.fabricAtomicData port header data) s
      [.free, .counters, .events, .om, .spad, .dma, .dram, .host, .pho, .lanes, .ver, .fab, .twin] (fun t =>
      spadBytes t (w.val * 2 ^ 28 + dAux d.raw) 8 = data ∧
      (∀ key, key < w.val * 2 ^ 28 + dAux d.raw ∨ w.val * 2 ^ 28 + dAux d.raw + 8 ≤ key →
        spadByte t key = spadByte s key) ∧
      ∃ x, engineQueue t (16 * w.val + (readHeader header).engine) = [x] ∧ x.raw = d.raw ∧ x.state = .done)) ∧
  (∀ (w : Tower) (e : EngineNo) (tag : BitVec 16) (o : FabricReq) (s : State),
    s.fab.outstanding.find? (requestIs w e tag) = some o → o.phase = .sent →
    Completes (.responseTimer w e tag) s
      [.now, .free, .counters, .events, .om, .spad, .dma, .dram, .host, .pho, .lanes, .ver, .fab, .twin] (fun t =>
      t.now = max s.now o.deadline ∧
      (3 ≤ o.expiries → ∀ d, engineQueue s (16 * w.val + e.val) = [d] → d.state = .active → d.wait = .fabric tag →
        Raised 0x5005 s t ∧ ∃ x, engineQueue t (16 * w.val + e.val) = [x] ∧ x.raw = d.raw ∧ x.state = .done ∧
          x.code = ccTargetDead) ∧
      (o.expiries < 3 → (readHeader o.packet.header).kind = fkWrite → t.fab.sent = s.fab.sent ∧
        { o with expiries := o.expiries + 1, deadline := t.now + responseTime s } ∈ t.fab.outstanding) ∧
      (o.expiries < 3 → (readHeader o.packet.header).kind ≠ fkWrite → CanLeave (markReissued o.packet) s →
        counter t 0x50000A = (counter s 0x50000A + 1) % 2 ^ 64 ∧
        t.fab.sent.length + t.fab.held.length = s.fab.sent.length + s.fab.held.length + 1 ∧
        ∃ x ∈ t.fab.outstanding, x.tower = w.val ∧ x.engine = e.val ∧ x.tag = tag ∧ x.phase = .sent ∧
          x.packet = markReissued o.packet ∧ x.expiries = o.expiries + 1))) ∧
  (∀ (w : Tower) (e : EngineNo) (tag : BitVec 16) (o : FabricReq) (at_ delay : Nat) (s : State),
    s.fab.outstanding.find? (requestIs w e tag) = some o → o.phase = .backoff at_ delay → CanLeave o.packet s →
    Completes (.fabricRetryBackoff w e tag) s
      [.now, .free, .counters, .events, .om, .spad, .dma, .dram, .host, .pho, .lanes, .ver, .fab, .twin] (fun t =>
      t.now = max s.now at_ ∧ counter t 0x50000A = (counter s 0x50000A + 1) % 2 ^ 64 ∧
      t.fab.sent.length + t.fab.held.length = s.fab.sent.length + s.fab.held.length + 1 ∧
      ∃ x ∈ t.fab.outstanding, x.tower = w.val ∧ x.engine = e.val ∧ x.tag = tag ∧ x.phase = .sent ∧
        x.packet = o.packet)) ∧
  (∀ (target : BitVec 12) (s : State),
    (∃ q ∈ s.dma.queues, ∃ d ∈ q.2, d.wait = .sequence target.toNat) →
    Completes (.atomicSequenceHoldEnd target) s
      [.now, .free, .counters, .events, .om, .spad, .dma, .dram, .host, .pho, .lanes, .ver, .fab, .twin] (fun t =>
      t.now = max s.now (Tab.look 0 s.fab.firstSends (65536 * target.toNat +
        (Tab.look 0 s.fab.sequences target.toNat).toNat) - 1 + 512 * us))) ∧
  (∀ (w : Tower) (e : EngineNo) (tag : BitVec 16) (o : FabricReq) (s : State),
    s.fab.outstanding.find? (requestIs w e tag) = some o → o.phase = .faulted →
    Completes (.atomicFaultHoldEnd w e tag) s [.now, .dma, .fab] (fun t =>
      t.now = max s.now (o.firstSend + 240 * us) ∧ t.fab.outstanding = s.fab.outstanding.eraseP (requestIs w e tag) ∧
      ∀ x ∈ engineQueue t (16 * w.val + e.val), x.heldTag ≠ some tag)) ∧
  (∀ (w : Tower) (target : BitVec 12) (l : Limiter) (s : State),
    (Tab.look [] s.fab.limiters w).find? (fun x => decide (x.target = target.toNat)) = some l →
    Completes (.rateLimiterTimer w target) s [.now, .fab] (fun t =>
      t.now = max s.now (l.window + 10 * us) ∧
      { l with
        rate := if l.echoed then l.rate else min (l.rate + rateMax / 32) rateMax
        echoed := false
        window := l.window + 10 * us } ∈ Tab.look [] t.fab.limiters w)) ∧
  (∀ (w : Tower) (e : Option EngineNo) (tag : BitVec 16) (s : State),
    let key := 65536 * (match e with
      | some e => 16 * w.val + e.val
      | none => 192 + w.val) + tag.toNat
    Tab.look 0 s.dma.skipped key ≠ 0 →
    Completes (.tagSkipExpiry w e tag) s [.now, .dma] (fun t =>
      t.now = max s.now (Tab.look 0 s.dma.skipped key) ∧ Tab.look 0 t.dma.skipped key = 0))

/-- Credits, HELLO and keys of a port (R357, R358, R381): a packet returns credits, owed ones go out after 100 ns,
HELLO is sent every millisecond, names the neighbour and is missed after 3 ms, and keys are switched at their count.
It rests on choices of the model: log entry 18. -/
def Obligations.FabricPortCommandsComplete : Prop :=
  (∀ (port : Port) (header : BitVec 256) (s : State), portUp s port = true → (readHeader header).kind = fkCredit →
    Completes (.credit port header) s [.free, .counters, .events, .lanes, .ver, .fab] (fun t =>
      (∀ h ∈ s.fab.held, ¬(h.port = port.val ∧ h.until_ = none)) → ∀ c : Fin 4,
        Tab.look 0 t.fab.used (4 * port.val + c.val) =
          Tab.look 0 s.fab.used (4 * port.val + c.val) - bits header (199 + 8 * c.val) (192 + 8 * c.val))) ∧
  (∀ (port : Port) (s : State), portUp s port = true → Tab.look 0 s.fab.owed port ≠ 0 →
    Completes (.creditTimer port) s [.now, .free, .events, .lanes, .fab] (fun t =>
      t.now = max s.now (Tab.look 0 s.fab.owed port - 1 + 100) ∧
      (∃ x, t.fab.sent = s.fab.sent ++ [x] ∧ x.port = port.val ∧ x.time = t.now ∧ x.packet.data = []) ∧
      ∀ c : Fin 4, Tab.look 0 t.fab.freed (4 * port.val + c.val) =
        Tab.look 0 s.fab.freed (4 * port.val + c.val) - min 255 (Tab.look 0 s.fab.freed (4 * port.val + c.val)))) ∧
  (∀ (port : Port) (header : BitVec 256) (data : Bytes) (s : State), portUp s port = true →
    (readHeader header).kind = fkManagement → fieldAt data 0 1 = 1 →
    packetWellFormed { header := header, data := data } = true →
    Completes (.hello port header data) s [.free, .counters, .events, .lanes, .ver, .fab] (fun t =>
      Tab.look {} t.fab.neighbours port =
        { id := BitVec.ofNat 16 (fieldAt data 2 2), port := fieldAt data 1 1, last := some s.now, alive := true })) ∧
  (∀ (port : Port) (s : State), portUp s port = true →
    Completes (.helloTimer port) s [.now, .free, .counters, .events, .lanes, .ver, .fab] (fun t =>
      let d := leBytes 1 1 ++ leBytes 1 port ++ leBytes 2 (dictNat s 0x500001)
      (Tab.look 0 s.fab.helloSent port = 0 → t.now = s.now) ∧
      (Tab.look 0 s.fab.helloSent port ≠ 0 → t.now = max s.now (Tab.look 0 s.fab.helloSent port - 1 + ms)) ∧
      Tab.look 0 t.fab.helloSent port = t.now + 1 ∧
      ((∃ x ∈ t.fab.sent, x.port = port.val ∧ x.packet.data = d ∧ x.time = t.now) ∨
        ∃ h ∈ t.fab.held, h.port = port.val ∧ h.packet.data = d))) ∧
  (∀ (port : Port) (last : Nat) (s : State), (Tab.look {} s.fab.neighbours port).last = some last →
    (Tab.look {} s.fab.neighbours port).alive = true →
    Completes (.helloTimeout port) s [.now, .fab] (fun t =>
      t.now = max s.now (last + 3 * ms) ∧
      Tab.look {} t.fab.neighbours port = { Tab.look {} s.fab.neighbours port with alive := false })) ∧
  (∀ (port : Port) (count : BitVec 64) (s : State), portUp s port = true → portEncrypted s port = true →
    let c := crypt s (2 * port.val + 1)
    Completes (.keySwitch port count) s [.events, .fab] (fun t =>
      (count.toNat = c.count → Raised 0x500A s t ∧
        crypt t (2 * port.val + 1) = { c with generation := c.generation + 1, count := 0, switchAt := none }) ∧
      (count.toNat ≠ c.count → crypt t (2 * port.val + 1) = { c with switchAt := some count.toNat }))) ∧
  (∀ (port : Port) (s : State), portUp s port = true → portEncrypted s port = true → portKeyed s port = true →
    2 ^ 36 ≤ (crypt s (2 * port.val)).count →
    Completes (.keyCountExpiry port) s [.free, .counters, .events, .lanes, .ver, .fab] (fun t =>
      Raised 0x500A s t ∧ (crypt t (2 * port.val)).generation = (crypt s (2 * port.val)).generation + 1))

/-- Pairing and the lease (R4, R438, R439, R441 to R443): the mode, a packet with a stamp beyond its limit
discarded, tokens that show a steady relation, renewals and their acknowledgements on both paths, their expiry, and
a package that stays alone. It rests on choices of the model: log entries 65, 66, 67, 69. -/
def Obligations.LeaseCommandsComplete : Prop :=
  (∀ (req : Req) (value : Bytes) (s : State), Admitted req 0x580001 value s → value ≠ [] →
    Completes (.twinModeWrite req value) s [.dict, .events, .om, .host, .sec, .twin] (fun t =>
      Answered req 0x580001 s t ∧ dictBytes t 0x580001 = value ∧
      (leNat value = 0 → t.twin.state = 0 ∧ (s.twin.state ≠ 0 → s.twin.paired = true → Raised 0x5802 s t)) ∧
      (leNat value = 1 → s.start.step = 9 → s.twin.state = 0 → t.twin.state = 1 ∧ t.twin.renewDue = s.now) ∧
      (leNat value = 1 → s.start.step ≠ 9 ∨ s.twin.state ≠ 0 → t.twin = s.twin))) ∧
  (∀ (s : State), s.twin.state = 1 ∨ s.twin.state = 2 →
    Completes .leaseRenewTimer s [.now, .events, .lanes, .fab, .twin] (fun t =>
      t.now = max s.now s.twin.renewDue ∧ t.twin.renewDue = t.now + 500 * us ∧
      (twUp s = true → t.twin.sent = s.twin.sent ++ [twinPacket t tkLease (packageStamp t) []]) ∧
      t.twin.pulses = s.twin.pulses ++ if s.twin.state = 2 then [2000] else [])) ∧
  (∀ (k : Bytes) (oneWay : Nat) (f : TwinFacts) (s : State), TwinHears tkLease k s →
    Completes (.lease k oneWay f) s [.events, .dma, .host, .fab, .twin] (fun t =>
      (s.twin.state = 3 ∨ s.twin.state = 4 → tpState k = 2 → s.twin.paired = true → Steady k oneWay s →
        t.twin.state = s.twin.state ∧ t.twin.renewedTw = s.now ∧ t.twin.expiredTw = false ∧
        t.twin.ackTw = s.twin.ackTw.or (some (s.now + 100 * us)) ∧
        (∀ x, s.twin.takeover = some x → x.passed = 0 → x.planned = false →
          t.twin.takeover = none ∧ Raised 0x580B s t)) ∧
      (s.twin.state = 1 → s.twin.paired = false → s.twin.stable = 0 →
        t.twin.stable = 1 ∧ (t.twin.delta, t.twin.phi) = measure s (tpStamp k) oneWay ∧
        t.twin.ackTw = s.twin.ackTw.or (some (s.now + 100 * us))) ∧
      (s.twin.state = 1 → s.twin.paired = false → s.twin.stable ≠ 0 → Steady k oneWay s →
        (s.twin.stable < 15 → t.twin.stable = s.twin.stable + 1 ∧ t.twin.state = 1) ∧
        (15 ≤ s.twin.stable → factsAgree s f = true → ∀ prim, homePrimary s f = some prim →
          Raised 0x5801 s t ∧ t.twin.paired = true ∧ t.twin.primary = prim ∧
          t.twin.state = if tpState k ≠ 2 ∧ prim = true then 2 else 3)))) ∧
  (∀ (k : Bytes) (oneWay : Nat) (f : TwinFacts) (s : State), stampLegal s (tpStamp k) = false →
    Completes (.lease k oneWay f) s [.events, .dma, .host, .fab, .twin] (fun t => t = s)) ∧
  (∀ (u : Nat) (s : State), s.twin.ackWire = some u →
    Completes (.leaseAckTimer true) s [.now, .events, .lanes, .fab, .twin] (fun t =>
      t.now = max s.now u ∧ t.twin.ackWire = none ∧ t.twin.pulses = s.twin.pulses ++ [6000])) ∧
  (∀ (u : Nat) (s : State), s.twin.ackTw = some u →
    Completes (.leaseAckTimer false) s [.now, .events, .lanes, .fab, .twin] (fun t =>
      t.now = max s.now u ∧ t.twin.ackTw = none ∧
      (twUp s = true → t.twin.sent = s.twin.sent ++
        [twinPacket t tkLeaseAck (packageStamp t) (leBytes 8 (s.twin.last.getD 0))]) ∧
      ∀ h, s.twin.handover = some h → s.twin.last = some (h.frame - 1) →
        t.twin.handover = some { h with acked := true })) ∧
  (∀ (k : Bytes) (oneWay : Nat) (f : TwinFacts) (s : State), TwinHears tkLeaseAck k s → s.twin.state = 2 →
    s.twin.paired = true → tpState k = 4 → Steady k oneWay s →
    Completes (.leaseAck k oneWay f) s [.events, .dma, .host, .fab, .twin] (fun t =>
      t.twin.last = some (fieldAt (tpPayload k) 0 8) ∧
      ∀ h, s.twin.handover = some h → s.twin.yielded.isSome = true → fieldAt (tpPayload k) 0 8 = h.frame - 1 →
        t.twin.handover = some { h with acked := true })) ∧
  (∀ (width : Nat) (s : State), s.twin.state ≠ 0 →
    Completes (.renewPulse width) s [.events, .twin] (fun t =>
      (width < 1000 ∨ 3000 < width → t = s) ∧
      (1000 ≤ width → width ≤ 3000 → t.twin.lastPulse = s.now ∧ t.twin.stuck = false ∧
        (s.twin.state = 2 → t.twin.readBack = s.now) ∧
        (s.twin.state = 3 ∨ s.twin.state = 4 → t.twin.renewedWire = s.now ∧ t.twin.expiredWire = false ∧
          t.twin.ackWire = s.twin.ackWire.or (some (s.now + 100 * us)))))) ∧
  (∀ (width : Nat) (s : State), s.twin.state ≠ 0 →
    Completes (.acknowledgePulse width) s [.twin] (fun t =>
      (width < 5000 ∨ 8000 < width → t = s) ∧
      (5000 ≤ width → width ≤ 8000 → t.twin.stuck = false ∧
        (s.twin.state = 2 → t.twin.ackSince = none ∧ t.twin.silent = false)))) ∧
  (∀ (wire : Bool) (s : State), s.twin.state = 3 ∨ s.twin.state = 4 → s.twin.takeover = none →
    (if wire then s.twin.expiredWire else s.twin.expiredTw) = false →
    Completes (.leasePathExpiry wire) s [.now, .events, .twin] (fun t =>
      t.now = max s.now ((if wire then s.twin.renewedWire else s.twin.renewedTw) + 2 * ms) ∧
      (if wire then t.twin.expiredWire else t.twin.expiredTw) = true ∧
      ((if wire then s.twin.expiredTw else s.twin.expiredWire) = false →
        t.twin.takeover = none ∧ (wire = false → Raised 0x5808 s t)) ∧
      ((if wire then s.twin.expiredTw else s.twin.expiredWire) = true → Raised 0x5803 s t ∧
        (wireFaulty s = true → t.twin.takeover = none) ∧
        (wireFaulty s = false → s.twin.unfit = false →
          t.twin.takeover = some { none_ := decide (s.twin.state = 3) }) ∧
        (wireFaulty s = false → s.twin.unfit = true → Raised 0x5807 s t ∧ t.twin.takeover = none)))) ∧
  (∀ (s : State), s.twin.state = 1 →
    Completes .pairingTimeout s [.now, .events, .host, .twin] (fun t =>
      t.now = max s.now (max s.twin.enteredAt (max s.twin.lastTw s.twin.lastPulse) + 2 * sec) ∧
      t.twin.state = 2 ∧ t.twin.paired = false ∧ t.twin.absent = true ∧ Raised 0x5809 s t))

/-- Claims, fencing and health (R442 to R444, R452, R453, R458): an active that is claimed by a newer epoch, sees a
claim pulse or no longer hears itself is fenced, or follows when it has handed over; a stuck wire, an unfit partner
and its silence are reported; a standby tests itself every 100 ms and reports. It rests on choices of the model: log
entries 68, 69, 77. -/
def Obligations.FencingCommandsComplete : Prop :=
  (∀ (width : Nat) (s : State), s.twin.state ≠ 0 →
    Completes (.claimPulse width) s [.events, .dma, .host, .fab, .twin] (fun t =>
      (width < 16000 ∨ 24000 < width → t = s) ∧
      (16000 ≤ width → width ≤ 24000 →
        (s.twin.state ≠ 2 → t.twin = { s.twin with stuck := false }) ∧
        (s.twin.state = 2 → s.twin.yielded = none → Fenced s t) ∧
        (s.twin.state = 2 → s.twin.yielded ≠ none → t.twin.state = 4 ∧
          ∀ h, s.twin.handover = some h → t.twin.last = some (h.frame - 1))))) ∧
  (∀ (k : Bytes) (s : State), s.twin.state = 2 → twUp s = true → tpIs tkClaim k = true →
    stampLegal s (tpStamp k) = true → tpState k ≠ 0 → tpState k ≠ 2 → newerEpoch (tpEpoch k) s.twin.epoch = true →
    Completes (.claim k) s [.events, .dma, .host, .fab, .twin] (fun t =>
      t.twin.epoch = tpEpoch k ∧ (s.twin.yielded = none → Fenced s t) ∧
      (s.twin.yielded ≠ none → t.twin.state = 4))) ∧
  (∀ (s : State), s.twin.state = 2 →
    Completes .fenceTimeout s [.now, .events, .dma, .host, .fab, .twin] (fun t =>
      t.now = max s.now (max s.twin.lastTw s.twin.readBack + 1500 * us) ∧ Fenced s t)) ∧
  (∀ (s : State), s.twin.state ≠ 0 → s.twin.stuck = false →
    Completes .wireStuck s [.events, .twin] (fun t => t.twin = { s.twin with stuck := true } ∧ Raised 0x5808 s t)) ∧
  (∀ (k : Bytes) (s : State), TwinHears tkHealth k s → s.twin.state = 2 →
    let unfit := nbit (fieldAt (tpPayload k) 0x14 4) 7
    Completes (.health k) s [.events, .dma, .host, .fab, .twin] (fun t =>
      t.twin.healthAt = s.now ∧ t.twin.healthSilent = false ∧ t.twin.partnerUnfit = unfit ∧
      (unfit = true → Raised 0x5807 s t))) ∧
  (∀ (s : State), s.twin.state = 2 → s.twin.paired = true → s.twin.healthSilent = false →
    Completes .healthTimeout s [.now, .events, .twin] (fun t =>
      t.now = max s.now (s.twin.healthAt + 300 * ms) ∧ t.twin = { s.twin with healthSilent := true } ∧
      Raised 0x5807 s t)) ∧
  (∀ (failures : BitVec 7) (unfit : Bool) (s : State), mirrors s = true →
    Completes (.selfTestRound failures unfit) s [.now, .events, .lanes, .fab, .twin] (fun t =>
      t.now = max s.now s.twin.roundDue ∧ t.twin.roundDue = t.now + 100 * ms ∧ t.twin.unfit = unfit ∧
      t.twin.roundPassed = !unfit ∧ t.twin.report = healthReport failures unfit t ∧
      (twUp s = true → twinPacket t tkHealth (packageStamp t) t.twin.report ∈ t.twin.sent) ∧
      (unfit = true → s.twin.unfit = false → Raised 0x5807 s t)))

/-- Mirroring (R447 to R451): a standby keeps the commands and image pieces of a frame, writes its blocks through
its own translation or drops them with an event, and commits the frame when the counts match; the regions are
designated. It rests on choices of the model: log entries 73, 76. -/
def Obligations.MirrorCommandsComplete : Prop :=
  (∀ (k : Bytes) (s : State), TwinHears tkQueue k s → mirrors s = true →
    Completes (.queue k) s [.events, .dma, .host, .fab, .twin] (fun t =>
      let d := tpPayload k
      t.twin.heard = s.twin.heard ++ [{ frame := tpFrame k, command := {
        partition := fieldAt d 0 1, position := BitVec.ofNat 32 (fieldAt d 4 4),
        handle := BitVec.ofNat 16 (fieldAt d 8 2), entry := BitVec.ofNat 512 (fieldAt d 16 64) } }])) ∧
  (∀ (k : Bytes) (s : State), TwinHears tkImage k s → mirrors s = true →
    Completes (.image k) s [.events, .dma, .host, .fab, .twin] (fun t =>
      let d := tpPayload k
      t.twin.pieces = s.twin.pieces ++ [{
        frame := tpFrame k, handle := BitVec.ofNat 16 (fieldAt d 0 2), offset := fieldAt d 8 8, data := d.drop 16 }])) ∧
  (∀ (k : Bytes) (s : State), TwinHears tkBlock k s → mirrors s = true →
    Completes (.block k) s [.free, .counters, .events, .dma, .dram, .host, .fab, .twin] (fun t =>
      Tab.look 0 t.twin.blocks (tpFrame k) = Tab.look 0 s.twin.blocks (tpFrame k) + 1 ∧
      let s' := { s with
        twin.partner := tpState k
        twin.lastTw := s.now
        twin.blocks := Tab.change 0 (tpFrame k) (· + 1) s.twin.blocks }
      let w := fieldAt (tpPayload k) 0 8
      let x := translateNow (nbits w 59 56) (nbits w 59 56) (nbits w 47 12 * 4096) .write s'
      let behind := s.twin.waiting.any (fun b => decide (fieldAt (tpPayload b) 0 8 = w))
      (behind = true ∨ (∃ q, x.1 = .wait q) → t.twin.waiting = s.twin.waiting ++ [k] ∧ t.dram = s.dram) ∧
      (∀ a cacheable, behind = false → x = (.ok 0 a cacheable, s') → baseBusy s (baseOfTower (a / 2 ^ 36)) = false →
        stackServes s (a / 2 ^ 36) = true → (∀ i, i < 64 → Tab.look [] s.dram.writeBacks (bankKey (a / 64 + i)) = []) →
        ∀ i, i < 64 → ∀ j, j < 72 → (storedWord t (a / 64 + i)).getD j 0 =
          (lineWord (slice (tpPayload k) (16 + 64 * i) 64) (nbit (fieldAt (tpPayload k) 8 8) i)).getD j 0 % 256) ∧
      (behind = false → (x.1 = .denied ∨ ∃ c l, x.1 = .fault c l) → Raised 0x580A s t))) ∧
  (∀ (k : Bytes) (codes : List CodeReport) (s : State), TwinHears tkCommit k s → mirrors s = true →
    let counted := fieldAt (tpPayload k) 0 4 = (s.twin.heard.filter (fun q => decide (q.frame = tpFrame k))).length ∧
      fieldAt (tpPayload k) 4 4 = Tab.look 0 s.twin.blocks (tpFrame k)
    Completes (.twinCommit k codes) s [.free, .events, .spad, .parts, .dma, .host, .fab, .twin] (fun t =>
      (counted → t.twin.last = some (tpFrame k) ∧ t.twin.state = 4 ∧
        t.twin.heard = s.twin.heard.filter (fun q => decide (q.frame ≠ tpFrame k))) ∧
      (¬counted → t.twin.last = s.twin.last ∧ t.twin.state = s.twin.state ∧ t.twin.heard = s.twin.heard))) ∧
  (∀ (req : Req) (value : Bytes) (s : State), Admitted req 0x580004 value s → value ≠ [] →
    (∀ i, i < 64 → regionFault (slice value (16 * i) 16) = none) →
    (((List.range 64).filter (fun i => desigValid (slice value (16 * i) 16))).map
      (fun i => desigBytes (slice value (16 * i) 16))).sum ≤ 96 * 2 ^ 30 →
    (∀ p, runsOf s p = [] ∧ tdiHeld s p = false) →
    Completes (.designatedRegionsWrite req value) s [.dict, .events, .om, .sec, .twin] (fun t =>
      Answered req 0x580004 s t ∧ dictBytes t 0x580004 = value ∧
      ∀ i, i < 64 → slice value (16 * i) 16 ≠ desigRecord s i → desigValid (slice value (16 * i) 16) = true →
        i ∈ t.twin.copyRegions))

/-- Handovers and takeovers (R447, R457 to R459): a planned handover is commanded or proposed and agreed at a frame,
abandoned when the standby does not follow in time; a forced takeover claims at once; a pairing is ended by command.
It rests on choices of the model: log entries 70, 74. -/
def Obligations.HandoverCommandsComplete : Prop :=
  (∀ (req : Req) (value : Bytes) (s : State), Admitted req 0x580009 value s → leNat value = 1 → canHandOver s = true →
    Completes (.plannedHandover req value) s [.events, .om, .host, .lanes, .fab, .twin] (fun t =>
      Answered req 0x580009 s t ∧ Raised 0x5805 s t ∧
      t.twin.handover = some { frame := s.frame.number + dictNat s 0x58000C })) ∧
  (∀ (k : Bytes) (s : State), TwinHears tkHandover k s → handoverIs 1 k = true → s.twin.state = 2 →
    s.twin.paired = true → tpState k = 4 → s.twin.handover = none → s.twin.yielded = none →
    Completes (.handoverPropose k) s [.events, .dma, .host, .lanes, .fab, .twin] (fun t =>
      Raised 0x5805 s t ∧ t.twin.handover = some { frame := s.frame.number + dictNat s 0x58000C })) ∧
  (∀ (k : Bytes) (s : State), TwinHears tkHandover k s → handoverIs 2 k = true → s.twin.state = 4 →
    s.twin.takeover = none →
    Completes (.handoverAgree k) s [.events, .dma, .host, .fab, .twin] (fun t =>
      t.twin.handover = some { frame := fieldAt (tpPayload k) 8 8 })) ∧
  (∀ (k : Bytes) (h : TwinHandover) (s : State), TwinHears tkHandover k s → handoverIs 3 k = true → s.twin.state = 4 →
    s.twin.takeover = none → s.twin.handover = some h →
    Completes (.handoverAbandon k) s [.events, .dma, .host, .fab, .twin] (fun t =>
      Raised 0x580B s t ∧ t.twin.handover = none)) ∧
  (∀ (u : Nat) (h : TwinHandover) (s : State), s.twin.state = 2 → s.twin.yielded = some u → s.twin.handover = some h →
    h.acked = false →
    Completes .handoverAckTimeout s [.now, .events, .lanes, .fab, .twin] (fun t =>
      t.now = max s.now (u + ms) ∧ t.twin.handover = none ∧ t.twin.resume = true ∧ Raised 0x580B s t ∧
      (twUp s = true → t.twin.sent = s.twin.sent ++
        [twinPacket t tkHandover (packageStamp t) (handoverPayload 3 h.frame)]))) ∧
  (∀ (req : Req) (value : Bytes) (s : State), Admitted req 0x580009 value s → leNat value = 2 →
    s.twin.state = 4 ∨ s.twin.state = 1 → s.twin.takeover = none →
    Completes (.forcedTakeover req value) s [.events, .om, .host, .lanes, .fab, .twin] (fun t =>
      Answered req 0x580009 s t ∧ t.twin.state = 5 ∧ t.twin.epoch = s.twin.epoch + 1 ∧
      t.twin.pulses = s.twin.pulses ++ [20000] ∧ t.twin.heard = [] ∧
      t.twin.takeover = some { passed := 1, forced := true, none_ := s.twin.last.isNone } ∧
      (twUp s = true → t.twin.sent = s.twin.sent ++ [twinPacket t tkClaim (packageStamp t) []]))) ∧
  (∀ (req : Req) (value : Bytes) (s : State), Admitted req 0x580009 value s → leNat value = 3 → s.twin.state ≠ 0 →
    s.twin.paired = true →
    Completes (.unpair req value) s [.events, .om, .host, .lanes, .fab, .twin] (fun t =>
      Answered req 0x580009 s t ∧ t.twin.state = 0 ∧ t.twin.paired = false ∧ Raised 0x5802 s t ∧
      (twUp s = true → t.twin.sent = s.twin.sent ++ [twinPacket t tkLease (packageStamp t) []])))

/-- Ports and functions of the host link (R491 to R493, R495, R541): a link comes up and goes down, functions are
reset, configuration requests are retried until step 5 has ended, and partitions are given to functions. It rests on
choices of the model: log entries 87, 92, 94. -/
def Obligations.HostPortCommandsComplete : Prop :=
  (∀ (port : Fin 2) (rate : BitVec 4) (width : BitVec 5) (flit : Bool) (s : State), 3 ≤ s.start.step →
    s.start.donkey = false → Tab.look false s.host.released port = true →
    (port.val = 1 → s.host.split = true) →
    Completes (.hostLinkUp port rate width flit) s [.events, .host] (fun t =>
      hostUp t port = true ∧ Raised 0x1181 s t ∧
      Tab.look 0 t.host.trained port = rate.toNat + 2 ^ 4 * width.toNat + 2 ^ 9 * flag flit)) ∧
  (∀ (port : Fin 2) (loss : HostLoss) (s : State),
    (loss = .perst → Tab.look false s.host.released port = true ∧ (port.val = 1 → s.host.split = true)) →
    (loss ≠ .perst → hostUp s port = true) →
    Completes (.hostLinkDown port loss) s [.events, .om, .parts, .dma, .host, .fab, .sec] (fun t =>
      hostUp t port = false ∧ Raised 0x1182 s t ∧ (functionsOfPort s port ≠ [] → Raised 0x1186 s t) ∧
      (loss = .perst → Tab.look false t.host.released port = false))) ∧
  (∀ (f : Function) (s : State), functionUp s f = true →
    Completes (.functionLevelReset f) s [.events, .om, .parts, .dma, .host, .fab, .sec] (fun t =>
      (functionsOfPort s (portOfFunction s f) ≠ [] → Raised 0x1186 s t) ∧
      (f.val ≠ 0 → f.val ≠ 13 → Raised 0x1186 s t ∧ functionBlock t f = {} ∧
        (∀ p ∈ ownedPartitions s f, (queueSet t p).enabled = false) ∧
        ∀ r ∈ t.host.reads, r.function ≠ f.val))) ∧
  (∀ (port : Fin 2) (s : State),
    Completes (.perstNRelease port) s [.host] (fun t => Tab.look false t.host.released port = true)) ∧
  (∀ (f : Function) (access : ConfigAccess) (s : State), functionUp s f = true →
    Completes (.configRequest f access) s [.host] (fun t =>
      (configOpen s = false → t.host.answers = s.host.answers ++ [{ function := f, status := .retry }] ∧
        functionBlock t f = functionBlock s f) ∧
      (configOpen s = true → t.host.answers = s.host.answers ++ [{ function := f, status := .successful }] ∧
        functionBlock t f = match access with
          | .read => functionBlock s f
          | .atomicRequester on => { functionBlock s f with atomicEnable := on }
          | .relaxedOrdering on => { functionBlock s f with relaxed := on }
          | .idOrdering on => { functionBlock s f with idOrder := on }
          | .maskVector v => { functionBlock s f with
              unmasked := (functionBlock s f).unmasked.filter (· ≠ v.toNat) }))) ∧
  (∀ (req : Req) (value : Bytes) (s : State), Admitted req 0x118003 value s → value.length = 8 →
    let v := leNat value
    nbits v 63 48 = 0 → (∀ p : Tower, ownerField v p < 13 ∨ ownerField v p = 15) →
    (∀ n, 1 ≤ n → n ≤ 12 → (allTowers.filter (fun p => decide (ownerField v p = n))).length ≤ 1) →
    (∀ p : Tower, ownerField v p ≠ ownerField (dictNat s 0x118003) p → graphsOf s p = [] ∧ runsOf s p = [] ∧
      (queueSet s p).enabled = false ∧ tdiHeld s p = false) →
    s.sec.pendingMap = none → (∀ p : Tower, ownerAgrees s v p = true) →
    Completes (.partitionOwnersWrite req value) s [.dict, .events, .om, .host, .sec] (fun t =>
      Answered req 0x118003 s t ∧ dictNat t 0x118003 = v))

/-- BAR2 (R208, R211, R496, R497): a read within a line is answered with the bytes of its place, or with RETRY where
its place takes no request, a write is stored there, an offset that names no place is Unsupported with an event, and
an AtomicOp is Unsupported. It rests on choices of the model: log entry 88. -/
def Obligations.BarCommandsComplete : Prop :=
  (∀ (f : Function) (offset : BitVec 44) (len : BitVec 13) (p va a : Nat) (s : State),
    BarServed f offset.toNat len.toNat p va a false s →
    Completes (.bar2Read f offset len) s
      [.free, .counters, .events, .spad, .dma, .dram, .host, .pho, .ver, .twin] (fun t =>
      let x := readLocal (if spadBase ≤ a then 1 else 0) a len.toNat s
      t.host.answers = s.host.answers ++
        [{ function := f, status := .successful, data := x.1, poisoned := decide (x.2.1 = ccPoison) }])) ∧
  (∀ (f : Function) (offset : BitVec 44) (len : BitVec 13) (s : State), barReachable s f = true → 1 ≤ len.toNat →
    len.toNat ≤ 4096 → barPlace s f offset.toNat = none →
    Completes (.bar2Read f offset len) s
      [.free, .counters, .events, .spad, .dma, .dram, .host, .pho, .ver, .twin] (fun t =>
      Raised 0x1187 s t ∧ t.host.answers = s.host.answers ++ [{ function := f, status := .unsupported }])) ∧
  (∀ (f : Function) (offset : BitVec 44) (len : BitVec 13) (p va : Nat) (s : State), BarRetried f offset.toNat len.toNat p va s →
    Completes (.bar2Read f offset len) s
      [.free, .counters, .events, .spad, .dma, .dram, .host, .pho, .ver, .twin] (fun t =>
      t.host.answers = s.host.answers ++ [{ function := f, status := .retry }])) ∧
  (∀ (f : Function) (offset : BitVec 44) (data : Bytes) (poisoned : Bool) (p va a : Nat) (s : State),
    BarServed f offset.toNat data.length p va a true s →
    Completes (.bar2Write f offset data poisoned) s
      [.free, .counters, .events, .spad, .dma, .dram, .host, .pho, .ver, .twin]
      (fun t =>
      (spadBase ≤ a → spadBytes t (a - spadBase) data.length = data ∧
        (∀ key, key < a - spadBase ∨ a - spadBase + data.length ≤ key → spadByte t key = spadByte s key) ∧
        ∀ line, storedWord t line = storedWord s line) ∧
      (a < spadBase → data.length = 64 → a % 64 = 0 → Tab.look [] s.dram.writeBacks (bankKey (a / 64)) = [] →
        (∀ j, j < 72 → (storedWord t (a / 64)).getD j 0 = (lineWord data poisoned).getD j 0 % 256) ∧
        (∀ line, line ≠ a / 64 → storedWord t line = storedWord s line) ∧
        ∀ key, spadByte t key = spadByte s key))) ∧
  (∀ (f : Function) (offset : BitVec 44) (s : State), barReachable s f = true →
    Completes (.bar2Atomicop f offset) s [.host] (fun t =>
      t.host = { s.host with answers := s.host.answers ++ [{ function := f, status := .unsupported }] }))

/-- Queue sets and interrupts (R498 to R502, R505): doorbells, an entry that arrives or whose fetch fails, records
that move into the ring as it has room, enabling and disabling, a moderated message, notifications and unmasking. It
rests on choices of the model: log entries 87, 91. -/
def Obligations.HostQueueCommandsComplete : Prop :=
  (∀ (f : Function) (p : Partition) (n : BitVec 32) (s : State), ownsQueue s f p = true → (queueSet s p).enabled = true →
    Completes (.gqTail f p n) s [.events, .host] (fun t =>
      ((queueSet s p).halted = true ∨ (n - (queueSet s p).gqHead).toNat ≤ (queueSet s p).gqSize →
        queueSet t p = { queueSet s p with gqTail := n }) ∧
      ((queueSet s p).halted = false → (queueSet s p).gqSize < (n - (queueSet s p).gqHead).toNat →
        queueSet t p = { queueSet s p with gqTail := n, halted := true, error := 1 } ∧ Raised 0x1184 s t))) ∧
  (∀ (p : Partition) (entry : Option (BitVec 512)) (s : State), (queueSet s p).enabled = true →
    (queueSet s p).halted = false → (queueSet s p).gqHead ≠ (queueSet s p).gqTail → (queueSet s p).fetched.length < 16 →
    s.sec.activating = none → functionUp s (partitionFunction s p) = true →
    Completes (.graphEntryFetch p entry) s [.events, .host] (fun t =>
      (∀ e, entry = some e → queueSet t p = { queueSet s p with
        fetched := (queueSet s p).fetched ++ [((queueSet s p).gqHead, e)], gqHead := (queueSet s p).gqHead + 1 }) ∧
      (entry = none → queueSet t p = { queueSet s p with halted := true, error := 3 } ∧ Raised 0x1184 s t))) ∧
  (∀ (f : Function) (p : Partition) (n : BitVec 32) (s : State), ownsQueue s f p = true → (queueSet s p).enabled = true →
    Completes (.cqHead f p n) s [.host] (fun t =>
      (queueSet t p).cqHead = n ∧
      ((queueSet s p).hold = [] → queueSet t p = { queueSet s p with cqHead := n } ∧ t.host.writes = s.host.writes) ∧
      ∀ r rest, (queueSet s p).hold = r :: rest → ((queueSet s p).cqTail - n).toNat < (queueSet s p).cqSize →
        { function := partitionFunction s p, kind := .record,
          address := (queueSet s p).cqBase + 32 * ((queueSet s p).cqTail.toNat % max (queueSet s p).cqSize 1),
          data := r : HostWrite } ∈ t.host.writes ∧
        (queueSet t p).hold.length < (queueSet s p).hold.length)) ∧
  (∀ (f : Function) (p : Partition) (n : BitVec 32) (s : State), ownsQueue s f p = true → (queueSet s p).enabled = true →
    Completes (.fqHead f p n) s [.host] (fun t => queueSet t p = { queueSet s p with fqHead := n })) ∧
  (∀ (f : Function) (p : Partition) (x : QueueSetup) (s : State), ownsQueue s f p = true →
    Completes (.queueEnable f p x) s [.host] (fun t =>
      ((queueSet s p).enabled = true → queueSet t p = { queueSet s p with vectors := x.vectors }) ∧
      ((queueSet s p).enabled = false → (queueSet t p).enabled = setupFits x ∧
        (queueSet t p).error = (if setupFits x then 0 else 2) ∧ (queueSet t p).gqTail = x.queueStart ∧
        (queueSet t p).gqHead = x.queueStart ∧ (queueSet t p).cqBase = x.cqBase.toNat ∧
        (queueSet t p).cqSize = x.cqSize.toNat ∧ (queueSet t p).cqTail = 0 ∧ (queueSet t p).cqHead = 0))) ∧
  (∀ (f : Function) (p : Partition) (s : State), ownsQueue s f p = true →
    Completes (.queueDisable f p) s [.parts, .host] (fun t =>
      (runsOf s p = [] → (queueSet t p).enabled = false ∧ (queueSet t p).fetched = [] ∧ (queueSet t p).hold = [] ∧
        ∀ l ∈ t.parts.loads, l.partition ≠ p.val) ∧
      (runsOf s p ≠ [] → t = s))) ∧
  (∀ (p : Partition) (fault : Bool) (s : State),
    (if fault then (queueSet s p).heldFault else (queueSet s p).heldCompletion) = true →
    Completes (.msixModerationTimer p fault) s [.now, .host] (fun t =>
      t.now = max s.now ((if fault then (queueSet s p).lastFault else (queueSet s p).lastCompletion).getD s.now +
        moderation (queueSet s p)) ∧
      (if fault then (queueSet t p).heldFault else (queueSet t p).heldCompletion) = false ∧
      Signalled (partitionFunction s p)
        (if fault then bits (queueSet s p).vectors 15 8 else bits (queueSet s p).vectors 7 0) s t)) ∧
  (∀ (f : Function) (value mask : BitVec 32) (vector : BitVec 8) (s : State), functionUp s f = true → configOpen s = true →
    Completes (.notifyStatusClear f value mask vector) s [.host] (fun t =>
      (∀ i, i < 6 → nbit (functionBlock t f).notifyStatus i =
        (nbit (functionBlock s f).notifyStatus i && !nbit value.toNat i)) ∧
      (functionBlock t f).notifyMask = mask.toNat ∧ (functionBlock t f).notifyVector = vector.toNat ∧
      ∀ i, i < 6 → nbit (functionBlock s f).notifyStatus i = true → nbit value.toNat i = false →
        nbit (functionBlock s f).notifyMask i = true → nbit mask.toNat i = false → Signalled f vector.toNat s t)) ∧
  (∀ (f : Function) (v : BitVec 8) (s : State), functionUp s f = true → v.toNat < vectorCount f →
    Completes (.msixVectorUnmask f v) s [.host] (fun t =>
      v.toNat ∈ (functionBlock t f).unmasked ∧ v.toNat ∉ (functionBlock t f).waiting ∧
      (v.toNat ∈ (functionBlock s f).waiting → t.host.writes = s.host.writes ++
        [{ function := f, kind := .message, address := v.toNat, data := [] }]) ∧
      (v.toNat ∉ (functionBlock s f).waiting → t.host.writes = s.host.writes)))

/-- Host reads and the MCTP endpoint (R137, R140, R504, R506): data reaches the descriptor that asked for it, a
binding table makes its RUN a queued run or is refused with it, a request with no completion ends it and raises an
event, and the control commands are answered. The version bytes are free values. It rests on choices of the model:
log entries 8, 90, 93, 156. -/
def Obligations.HostReadCommandsComplete : Prop :=
  (∀ (w : Tower) (e : EngineNo) (pos : Nat) (tag : BitVec 14) (bytes : Bytes) (r : HostRead) (d : Desc) (s : State),
    s.host.reads.find? (fun x => decide (x.tag = tag.toNat)) = some r → r.for_ = .descriptor w e pos →
    engineQueue s (16 * w.val + e.val) = [d] → d.state = .active → d.wait = .host tag.toNat → dOp d.raw = 1 →
    descRefused d.raw = false → dDstSpad d.raw = true → dRows d.raw = 1 → d.cursorRows = 0 → d.cursorBytes = 0 →
    d.chunk = none → d.len = dRowBytes d.raw → dDest d.raw % 64 + d.len ≤ 64 → dSource d.raw % 4096 + d.len ≤ 4096 →
    d.place % 64 + d.len ≤ r.length → mayIssue s d = true →
    OwnLine w d.partition (spadBase + w.val * 2 ^ 28 + dDest d.raw) true s →
    Completes (.hostReadCompletion tag (.data bytes)) s
      [.free, .counters, .events, .om, .spad, .parts, .dma, .dram, .host, .pho, .lanes, .ver, .fab, .twin] (fun t =>
      spadBytes t (w.val * 2 ^ 28 + dDest d.raw) d.len = slice (padTo r.length bytes) (d.place % 64) d.len ∧
      (∀ key, key < w.val * 2 ^ 28 + dDest d.raw ∨ w.val * 2 ^ 28 + dDest d.raw + d.len ≤ key →
        spadByte t key = spadByte s key) ∧
      ∃ x, engineQueue t (16 * w.val + e.val) = [x] ∧ x.raw = d.raw ∧ x.state = .done)) ∧
  (∀ (p : Partition) (tag : BitVec 14) (bytes : Bytes) (r : HostRead) (b : Binding) (s : State),
    s.host.reads.find? (fun x => decide (x.tag = tag.toNat)) = some r → r.for_ = .bindings p →
    s.parts.binds.find? (fun x => decide (x.partition = p.val)) = some b → RingOpen p s →
    Completes (.hostReadCompletion tag (.data bytes)) s
      [.free, .counters, .events, .om, .spad, .parts, .dma, .dram, .host, .pho, .lanes, .ver, .fab, .twin]
        (fun t =>
      t.parts.binds = s.parts.binds.erase b ∧
      (∀ g, unserved s p = none → runRefused s p b.entry = none → liveGraph s p (eHandle b.entry) = some g →
        findRun t p (eRun b.entry) = some {
          partition := p, id := eRun b.entry, handle := eHandle b.entry, priority := ePriority b.entry,
          byPriority := eByPriority b.entry, iterations := eIterations b.entry,
          bindings := (List.range (eBindings b.entry)).map (fun i => fieldAt bytes (8 * i) 8),
          order := s.parts.nextOrder, tasks := freshTasks g.image } ∧
        Recorded p { stamp := packageStamp s, run := eRun b.entry, kind := 2, code := ccOk } s t) ∧
      ∀ cls detail argument, (unserved s p = some (cls, detail) ∧ argument = 0) ∨
          (unserved s p = none ∧ runRefused s p b.entry = some (cls, detail, argument)) →
        t.parts.runs = s.parts.runs ∧ Raised 0x3402 s t ∧
        Recorded p { stamp := packageStamp s, run := eRun b.entry, kind := 2, code := ccRefused, reason := 256 * cls + detail,
                     argument := argument } s t)) ∧
  (∀ (p : Partition) (tag : BitVec 14) (r : HostRead) (b : Binding) (s : State),
    s.host.reads.find? (fun x => decide (x.tag = tag.toNat)) = some r → r.for_ = .bindings p →
    s.parts.binds.find? (fun x => decide (x.partition = p.val)) = some b → RingOpen p s →
    Completes (.hostCompletionTimeout tag) s
      [.free, .counters, .events, .om, .spad, .parts, .dma, .dram, .host, .pho, .lanes, .ver, .fab, .twin]
        (fun t =>
      t.parts = { s.parts with binds := s.parts.binds.erase b } ∧ Raised 0x1185 s t ∧
      Recorded p { stamp := packageStamp s, run := eRun b.entry, kind := 2, code := ccTargetDead } s t)) ∧
  (∀ (w : Tower) (e : EngineNo) (pos : Nat) (tag : BitVec 14) (r : HostRead) (d : Desc) (s : State),
    s.host.reads.find? (fun x => decide (x.tag = tag.toNat)) = some r → r.for_ = .descriptor w e pos →
    engineQueue s (16 * w.val + e.val) = [d] → d.state = .active → d.wait = .host tag.toNat →
    Completes (.hostCompletionTimeout tag) s
      [.free, .counters, .events, .om, .spad, .parts, .dma, .dram, .host, .pho, .lanes, .ver, .fab, .twin] (fun t =>
      Raised 0x1185 s t ∧ counter t 0x118005 = satAdd 32 (counter s 0x118005) 1 ∧
      ∃ x, engineQueue t (16 * w.val + e.val) = [x] ∧ x.raw = d.raw ∧ x.state = .done ∧ x.code = ccTargetDead)) ∧
  (∀ (eid : BitVec 8) (s : State), EndpointUp s →
    Completes (.setEndpointId eid) s [.host] (fun t =>
      (eid = 0 ∨ eid = 0xFF → EndpointSent 1 [0x02] s t ∧ t.host.eid = s.host.eid) ∧
      (eid ≠ 0 → eid ≠ 0xFF → EndpointSent 1 [0x00, 0x00, eid, 0x00] s t ∧ t.host.eid = eid))) ∧
  (∀ (s : State), EndpointUp s →
    Completes .getEndpointId s [.host] (fun t => EndpointSent 2 [0x00, s.host.eid, 0x00, 0x00] s t)) ∧
  (∀ (s : State), EndpointUp s →
    Completes .getEndpointUuid s [.host] (fun t => EndpointSent 3 ([0x00] ++ Config.uuid) s t)) ∧
  (∀ (kind : BitVec 8) (s : State), EndpointUp s →
    Completes (.getMctpVersionSupport kind) s [.free, .host] (fun t =>
      (kind ∈ ([0xFF, 0x00, 0x05, 0x06, 0x7E] : List Byte) →
        ∃ v : Bytes, v.length = 4 ∧ EndpointSent 4 ([0x00, 0x01] ++ v) s t) ∧
      (kind ∉ ([0xFF, 0x00, 0x05, 0x06, 0x7E] : List Byte) → EndpointSent 4 [0x80] s t))) ∧
  (∀ (s : State), EndpointUp s →
    Completes .getMessageTypeSupport s [.host] (fun t => EndpointSent 5 [0x00, 0x04, 0x00, 0x05, 0x06, 0x7E] s t)) ∧
  (∀ (selector : BitVec 8) (s : State), EndpointUp s →
    Completes (.getVendorDefinedMessageSupport selector) s [.free, .host] (fun t =>
      (selector = 0 → ∃ v : Bytes, v.length = 2 ∧
        EndpointSent 6 ([0x00, 0xFF, 0x00] ++ beBytes 2 Config.vendorId.toNat ++ v) s t) ∧
      (selector ≠ 0 → EndpointSent 6 [0x02] s t)))

/-- Reads and writes of the dictionary (R511, R517, R519, R520, R527): a read answers the entry's value, a write
sets it or is refused with nothing else changed, a kept reply is sent again, a malformed message is answered so, and
the configuration is stored over the older copy or invalidated (R525: a longer message than it can be is malformed).
It rests on choices of the model: log entries 12, 110, 191, 192. -/
def Obligations.DictionaryCommandsComplete : Prop :=
  (∀ (req : Req) (key : BitVec 24) (s : State),
    Completes (.dictRead req key) s [.events, .om] (fun t =>
      (Serves req opRead key 0 false s → entryLength key.toNat ≤ 1024 →
        Replied req opRead key 0 stOk (entryValue s key.toNat) s t) ∧
      (Serves req opRead key 0 false s → 1024 < entryLength key.toNat →
        Replied req opRead key 0 stTooLarge (leBytes 4 (entryLength key.toNat)) s t) ∧
      (∀ st d, admitRequest (requestId req opRead key 0) s = none →
        accessFault req.requester key.toNat false s = some (st, d) → Replied req opRead key 0 st (leBytes 4 d) s t) ∧
      (∀ k, served s req.requester = true → sourceAccepted s req.requester = true →
        s.om.kept.find? (fun k => keptAlive s k && decide (k.reply.id = requestId req opRead key 0)) = some k →
        t.om = { s.om with replies := s.om.replies ++ [k.reply], duplicates := s.om.duplicates + 1 }))) ∧
  (∀ (req : Req) (key : BitVec 24) (value : Bytes) (nvmOk : Bool) (s : State), Serves req opWrite key 0 true s →
    value.length ≤ 1024 → Completes (.dictWrite req key value nvmOk) s [.free, .counters, .dict, .events, .taken, .hen, .om, .frame, .start,
      .spad, .arith, .parts, .dma, .dram, .clk, .host, .pho, .sums, .lanes, .las, .ver, .fab, .pow, .sec, .twin] (fun t =>
      (value ≠ [] → entryLength key.toNat ≤ 1024 → valueFault key.toNat value s = none →
        writeAct req.requester nvmOk key.toNat = plainAct key.toNat →
        Replied req opWrite key 0 stOk [] s t ∧ dictBytes t key.toNat = value ∧
        ∀ k, k ≠ key.toNat → dictBytes t k = dictBytes s k) ∧
      (∀ st d, entryLength key.toNat ≤ 1024 → valueFault key.toNat value s = some (st, d) ∨
          (valueFault key.toNat value s = none ∧ writeAct req.requester nvmOk key.toNat value s = .refuse st d) →
        Replied req opWrite key 0 st (leBytes 4 d) s t ∧ Within [.om] s t) ∧
      (1024 < entryLength key.toNat →
        Replied req opWrite key 0 stTooLarge (leBytes 4 (entryLength key.toNat)) s t ∧ Within [.om] s t))) ∧
  (∀ (req : Req) (key : BitVec 24) (value : Bytes) (nvmOk : Bool) (s : State), served s req.requester = true →
    sourceAccepted s req.requester = true → 1024 < value.length →
    (∀ k ∈ s.om.kept, keptAlive s k = true → k.reply.id ≠ requestId req opWrite key 0) →
    Completes (.dictWrite req key value nvmOk) s
      [.free, .counters, .dict, .events, .taken, .hen, .om, .frame, .start, .spad, .arith, .parts, .dma,
        .dram, .clk, .host, .pho, .sums, .lanes, .las, .ver, .fab, .pow, .sec, .twin] (fun t =>
      Replied req opWrite key 0 stMalformed (leBytes 4 0) s t ∧ Within [.om] s t)) ∧
  (∀ (req : Req) (op : BitVec 8) (key : BitVec 24) (offset : BitVec 32) (s : State), served s req.requester = true →
    sourceAccepted s req.requester = true →
    (∀ k ∈ s.om.kept, keptAlive s k = true → k.reply.id ≠ requestId req op key offset.toNat) →
    Completes (.malformedMessage req op key offset) s [.events, .om] (fun t =>
      Replied req op key offset.toNat stMalformed (leBytes 4 0) s t)) ∧
  (∀ (k : Kept) (s : State), k ∈ s.om.kept → (∀ x ∈ s.om.kept, k.time ≤ x.time) →
    Completes .keptReplyExpiry s [.now, .om] (fun t =>
      t.now = max s.now (k.time + 2 * sec) ∧
      ∀ x, x ∈ t.om.kept ↔ x ∈ s.om.kept ∧ t.now < x.time + 2 * sec)) ∧
  (∀ (req : Req) (value : Bytes) (nvmOk : Bool) (s : State), Admitted req 0x10000A value s → leNat value = 1 →
    Completes (.storeConfiguration req value nvmOk) s [.events, .om] (fun t =>
      Raised 0x1106 s t ∧
      (nvmOk = true → Answered req 0x10000A s t ∧ t.om.recordWriteFailed = false ∧
        (newestRecord s = none → Tab.look {} t.om.records 0 =
          { valid := true, sequence := 1, values := valuesInForce s }) ∧
        ∀ j r, newestRecord s = some (j, r) → Tab.look {} t.om.records (1 - j) =
          { valid := true, sequence := r.sequence + 1, values := valuesInForce s }) ∧
      (nvmOk = false → t.om.recordWriteFailed = true ∧
        t.om.replies = s.om.replies ++ [{ id := writeId req 0x10000A, status := stInternal, data := leBytes 4 0 }]))) ∧
  (∀ (req : Req) (value : Bytes) (nvmOk : Bool) (s : State), Admitted req 0x10000A value s → leNat value = 2 →
    Completes (.invalidateConfiguration req value nvmOk) s [.events, .om] (fun t =>
      Raised 0x1106 s t ∧
      (nvmOk = true → Answered req 0x10000A s t ∧ t.om.records = [] ∧ t.om.recordWriteFailed = false) ∧
      (nvmOk = false → t.om.records = s.om.records ∧ t.om.recordWriteFailed = true)))

/-- Segmented transfers (R511, R528, R529): a read is answered from the snapshot that its first segment takes, a
write collects its segments and is applied as one write when they are whole and their CRC is right, and either
lapses. It rests on choices of the model: log entries 109, 115. -/
def Obligations.SegmentCommandsComplete : Prop :=
  (∀ (req : Req) (key : BitVec 24) (offset length : BitVec 32) (s : State),
    Serves req opSegRead key offset.toNat false s → length.toNat ≤ 1024 →
    Completes (.segRead req key offset length) s [.events, .om] (fun t =>
      (offset = 0 → length.toNat ≤ (entryValue s key.toNat).length →
        Replied req opSegRead key 0 stOk (slice (entryValue s key.toNat) 0 length.toNat) s t ∧
        { requester := req.requester, key := key.toNat, value := entryValue s key.toNat, lastRead := s.now : Snapshot } ∈
          t.om.snapshots) ∧
      (offset ≠ 0 → ∀ x, snapshotOf s req.requester key.toNat = some x → offset.toNat + length.toNat ≤ x.value.length →
        Replied req opSegRead key offset.toNat stOk (slice x.value offset.toNat length.toNat) s t) ∧
      (offset ≠ 0 → snapshotOf s req.requester key.toNat = none →
        Replied req opSegRead key offset.toNat stSegment (leBytes 4 0) s t))) ∧
  (∀ (req : Req) (key : BitVec 24) (total : BitVec 32) (s : State), Serves req opSegBegin key 0 true s →
    (∀ x, transferOf s key.toNat = some x → x.requester = req.requester) →
    (transferOf s key.toNat = none → s.om.transfers.length < 4) → lengthFault key.toNat total.toNat = none →
    (∀ e, entryInfo key.toNat = some e → e.access = .rwf → s.start.foal = true ∨ stopped s = true) →
    Completes (.segBegin req key total) s [.events, .om, .sec] (fun t =>
      Replied req opSegBegin key 0 stOk [] s t ∧
      { requester := req.requester, key := key.toNat, total := total.toNat, segments := [], last := s.now : Transfer } ∈
        t.om.transfers)) ∧
  (∀ (req : Req) (key : BitVec 24) (offset : BitVec 32) (data : Bytes) (x : Transfer) (s : State),
    Serves req opSegData key offset.toNat true s → transferOf s key.toNat = some x → x.requester = req.requester →
    offset.toNat % 1024 = 0 → offset.toNat < x.total → data.length = min 1024 (x.total - offset.toNat) →
    Completes (.segData req key offset data) s [.events, .om] (fun t =>
      Replied req opSegData key offset.toNat stOk [] s t ∧
      { x with
        last := s.now
        segments := x.segments.filter (fun p => decide (p.1 ≠ offset.toNat)) ++ [(offset.toNat, data)] } ∈
        t.om.transfers)) ∧
  (∀ (req : Req) (key : BitVec 24) (crc : BitVec 32) (nvmOk : Bool) (x : Transfer) (s : State),
    Serves req opSegEnd key 0 true s → ownTransfer s req.requester key.toNat = some x →
    Completes (.segEnd req key crc nvmOk) s [.free, .counters, .dict, .events, .taken, .hen, .om, .frame, .start,
      .spad, .arith, .parts, .dma, .dram, .clk, .host, .pho, .sums, .lanes, .las, .ver, .fab, .pow, .sec, .twin] (fun t =>
      (∀ value, assembled x = some value → crc32 value = crc → value ≠ [] → valueFault key.toNat value s = none →
        writeAct req.requester nvmOk key.toNat = plainAct key.toNat →
        Replied req opSegEnd key 0 stOk [] s t ∧ dictBytes t key.toNat = value ∧
        ∀ y ∈ t.om.transfers, y.key ≠ key.toNat) ∧
      ((∀ value, assembled x = some value → crc32 value ≠ crc) →
        Replied req opSegEnd key 0 stSegment (leBytes 4 0) s t ∧ Within [.om] s t))) ∧
  (∀ (req : Req) (key : BitVec 24) (s : State), Serves req opSegAbort key 0 true s →
    Completes (.segAbort req key) s [.events, .om] (fun t =>
      Replied req opSegAbort key 0 stOk [] s t ∧
      (ownTransfer s req.requester key.toNat ≠ none → ∀ y ∈ t.om.transfers, y.key ≠ key.toNat) ∧
      (ownTransfer s req.requester key.toNat = none → t.om.transfers = s.om.transfers))) ∧
  (∀ (i : Nat) (x : Transfer) (s : State), s.om.transfers[i]? = some x →
    Completes (.segTimeout i) s [.now, .events, .om] (fun t =>
      t.now = max s.now (x.last + 10 * sec) ∧ Raised 0x1103 s t ∧ t.om.transfers = s.om.transfers.eraseIdx i)) ∧
  (∀ (i : Nat) (x : Snapshot) (s : State), s.om.snapshots[i]? = some x →
    Completes (.snapshotLapse i) s [.now, .om] (fun t =>
      t.now = max s.now (x.lastRead + 2 * sec) ∧ t.om.snapshots = s.om.snapshots.eraseIdx i))

/-- Notices and the management port (R523, R524, R532): an answered notice leaves and a held one goes out in its
place, an unanswered one is sent ten times and dropped, and the port reports its link, finds duplicates of its
address, and answers solicitations and echoes. It rests on choices of the model: log entries 113, 193. -/
def Obligations.NoticeCommandsComplete : Prop :=
  (∀ (i : Fin 4) (q : BitVec 16) (s : State), s.om.addressDuplicate = false →
    Completes (.noticeAnswer i q) s [.om] (fun t =>
      let left := (subscriber s i).unanswered.filter (fun n => decide (n.seq ≠ q))
      ((subscriber s i).held = [] → subscriber t i = { subscriber s i with unanswered := left } ∧
        t.om.noticesSent = s.om.noticesSent) ∧
      (∀ d rest, (subscriber s i).held = d :: rest → left.length < 16 → s.sec.activating = none →
        { subscriber := i, seq := (subscriber s i).next, data := d : NoticeSent } ∈ t.om.noticesSent))) ∧
  (∀ (i : Fin 4) (n : Unanswered) (s : State),
    (subscriber s i).unanswered.find? (fun m => decide (m.last = n.last)) = some n →
    (∀ m ∈ (subscriber s i).unanswered, n.last ≤ m.last) → s.om.addressDuplicate = false →
    Completes (.noticeResendTimer i) s [.now, .events, .om] (fun t =>
      t.now = max s.now (n.last + 100 * ms) ∧
      (n.sends < 10 → { n with sends := n.sends + 1, last := t.now } ∈ (subscriber t i).unanswered ∧
        t.om.noticesSent = s.om.noticesSent ++ [{ subscriber := i, seq := n.seq, data := n.data }]) ∧
      (10 ≤ n.sends → t.om.dropped = satAdd 32 s.om.dropped 1))) ∧
  (∀ (up : Bool) (s : State),
    Completes (.mgmtLink up) s [.events, .om] (fun t =>
      t.om = { s.om with linkUp := up } ∧ (s.om.linkUp ≠ up → portServes s = true → Raised 0x1101 s t))) ∧
  (∀ (duplicate : Bool) (s : State), portServes s = true → s.om.linkUp = true →
    Completes (.duplicateAddressDetection duplicate) s [.now, .events, .om] (fun t =>
      (s.om.detectionDue = none → t.now = s.now) ∧ (∀ u, s.om.detectionDue = some u → t.now = max s.now u) ∧
      t.om.addressDuplicate = duplicate ∧ t.om.ipSent = s.om.ipSent ++ [(0, ownAddress)] ∧
      t.om.detectionDue = (if duplicate then some (t.now + 10 * sec) else none) ∧
      (duplicate = true → Raised 0x1105 s t))) ∧
  (∀ (source target : BitVec 128) (s : State), portServes s = true → s.om.linkUp = true →
    s.om.addressDuplicate = false →
    Completes (.neighbourDiscovery source target) s [.om] (fun t =>
      (target = ownAddress → t.om = { s.om with ipSent := s.om.ipSent ++ [(1, source)] }) ∧
      (target ≠ ownAddress → t = s))) ∧
  (∀ (source : BitVec 128) (data : Bytes) (s : State), portServes s = true → s.om.linkUp = true →
    s.om.addressDuplicate = false →
    Completes (.icmpv6Echo source data) s [.om] (fun t =>
      t.om = { s.om with ipSent := s.om.ipSent ++ [(2, source)], echoes := s.om.echoes ++ [data] }))

/-- The steps of a start (R536 to R545): the gate, and what each step leaves when it ends: the recorder and the
counts, the controller or Donkey mode, the units in service, the chosen lanes and the running clock, Foal mode, lit
lasers and links in training, optical ticks, and full service. It rests on choices of the model: log entries 40, 41,
42, 44, 46, 47, 48, 49, 51, 177. -/
def Obligations.StartStepCommandsComplete : Prop :=
  (∀ (s : State), startBarred s = false →
    Completes .startGate s [.now, .events, .taken, .start, .pow] (fun t =>
      (∀ u, s.start.restartAt = some u →
        t.now = max s.now u ∧ t.start.step = 1 ∧ t.start.stepBegan = t.now ∧ t.start.poweredAt = t.now) ∧
      (∀ q, s.start.restartAt = none → s.pow.qualified = some q →
        t.now = max s.now (q + sec) ∧ t.start.step = 1 ∧ t.start.stepBegan = t.now ∧ t.start.poweredAt = q))) ∧
  (∀ (s : State), s.start.step = 1 →
    Completes .step1Supplies s [.events, .taken, .hen, .start, .pow] (fun t =>
      StepEnded 1 s t ∧ t.hen.startNumber = satAdd 32 s.hen.startNumber 1 ∧
      (s.start.previousStop = .normal ∨ s.start.succeeded = true →
        t.start.failedCount = min 255 (s.start.failedCount + 1)) ∧
      (s.start.previousStop ≠ .normal → s.start.succeeded = false →
        t.start.failedCount = min 255 (s.start.failedCount - 1 + 1)) ∧
      (∀ x, s.pow.tripToRecord = some x → Raised 0x2405 s t ∧ Raised 0x2406 s t ∧
        t.pow.trips = satAdd 32 s.pow.trips 1))) ∧
  (∀ (nvmReadable : Bool) (s : State), s.start.step = 2 → s.start.donkey = false →
    Completes (.step2ManagementController nvmReadable) s [.free, .counters, .dict, .events, .taken, .hen, .om, .frame,
      .start, .spad, .arith, .parts, .dma, .dram, .clk, .host, .pho, .sums, .lanes, .las, .ver, .fab, .pow, .sec, .twin]
      (fun t =>
      (∀ r, donkeyReason nvmReadable s = some r →
        t.start.donkey = true ∧ t.start.donkeyReason = r ∧ t.start.step = 2 ∧ Raised 0x7005 s t) ∧
      (donkeyReason nvmReadable s = none →
        (∀ j r, newestRecord s = some (j, r) → ∀ x ∈ r.values, storedAct x.1 = plainAct x.1) →
        StepEnded 1 s t ∧ t.sec.running = s.sec.nvm ∧ t.frame.code = BitVec.ofNat 2 (dictNat t 0x300001) ∧
        t.host.split = decide (dictNat t 0x118001 = 1) ∧ (newestRecord s = none → Raised 0x1107 s t) ∧
        t.ver.sent = s.ver.sent ++ [discoveryMessage 1 0 ((s.ver.probeSequence + 1) % 256) 0]))) ∧
  (∀ (s : State), s.start.step = 3 →
    Completes .step3Discovery s [.events, .start, .ver] (fun t =>
      StepEnded 1 s t ∧ t.start.service = allUnits.filter (fun u => u ∉ s.start.kept) ∧
      ∀ r, r < 128 → (discovery s r).failed = false → (∃ u ∈ recordUnits r, u ∉ s.start.kept) → r ∈ t.ver.named)) ∧
  (∀ (errors : List (BundleSide × Fin 36 × List Nat)) (s : State), s.start.step = 4 →
    Completes (.step4BundleRepair errors) s
      [.free, .counters, .events, .om, .frame, .start, .spad, .parts, .dma, .dram, .clk, .host, .pho, .sums,
        .lanes, .ver, .fab, .pow, .twin] (fun t =>
      StepEnded 1 s t ∧ t.clk.running = true ∧ t.frame.ticks = .provisional ∧ t.frame.start = s.now ∧
      ∀ (w : BundleSide) (n : Fin 36), (w.val < 12 → towerUp s w = true) →
        (w.val = 12 → n.val < 12 ∧ baseUp s (n.val / 4) = true ∧ baseUp s (n.val / 4 + 1) = true) →
        bundle t w n = chooseBundle (36 * w.val + n.val) n
          ((errors.filter (fun e => decide (e.1.val = w.val ∧ e.2.1.val = n.val))).flatMap (·.2.2)))) ∧
  (∀ (s : State), s.start.step = 5 → s.start.foal = false →
    Completes .step5BridleMesh s [.counters, .dict, .events, .taken, .hen, .om, .frame, .start, .spad, .arith, .parts,
      .dma, .dram, .clk, .host, .pho, .sums, .lanes, .las, .ver, .fab, .pow, .sec, .twin] (fun t =>
      ((∃ w : Tower, towerUp s w = true ∧ meshWorks s (baseOfTower w) = true) →
        t.start.foal = true ∧ t.start.serviceSince = some s.now ∧ Raised 0x7001 s t ∧ Raised 0x7002 s t ∧
        (s.start.commanded = 3 → t.start.heldAtFoal = true ∧ t.start.step = 5) ∧
        (s.start.commanded ≠ 3 → t.start.heldAtFoal = false ∧ t.start.step = 6) ∧
        ∀ (w : Tower) (k : Cluster), towerUp s w = true → Tab.look false t.spad.powered (clusterKey w k) = true) ∧
      ((∀ w : Tower, towerUp s w = false ∨ meshWorks s (baseOfTower w) = false) → StartFailed s t))) ∧
  (∀ (rref : BitVec 16) (unlocked : List Ring) (s : State), s.start.step = 6 →
    Completes (.step6LasersRings rref unlocked) s
      [.free, .counters, .events, .start, .pho, .lanes, .las, .ver, .fab] (fun t =>
      StepEnded 1 s t ∧ t.las.on = true ∧ t.las.rref = some rref ∧
      (rref.toInt.natAbs ≤ 4000 → t.las.scaling = rref ∧ t.las.rrefFault = false) ∧
      (4000 < rref.toInt.natAbs → t.las.rrefFault = true ∧ (s.las.rrefFault = false → Raised 0x440C s t)) ∧
      t.las.unlocked = unlocked.filter ringExists ∧
      (∀ r, ringExists r = true → ((ringLoop t r).out = true ↔ ringKey r ∈ (unlocked.filter ringExists).map ringKey)) ∧
      ∀ n : Fin 9, linkServed t n = true → (link s n).out = false → (link t n).state = 1)) ∧
  (∀ (s : State), s.start.step = 7 →
    Completes .step7Lanes s [.free, .counters, .events, .frame, .start, .pho, .lanes, .ver, .fab] (fun t =>
      StepEnded 1 s t ∧ t.frame.ticks = .optical ∧ t.frame.firstSent = false ∧
      ∀ q, q < 4 → Tab.look 0 t.fab.cleared q = s.now)) ∧
  (∀ (s : State), s.start.step = 8 → s.start.noLock = false → s.frame.firstSent = true →
    lockedTowers s = allTowers.filter (towerUp s) → lockedTowers s ≠ [] →
    Completes .step8FrameLock s
      [.free, .counters, .events, .start, .host, .pho, .lanes, .las, .ver, .fab, .twin] (fun t =>
      StepEnded 1 s t ∧ Raised 0x7003 s t ∧ t.start.foal = false ∧ t.start.serviceSince = some s.now ∧
      t.las.unlocked = [] ∧
      (dictNat s 0x580001 = 1 → s.twin.state = 0 → t.twin.state = 1)))

/-- Limits, success, failure and restarts (R536, R537, R545 to R549, R552 to R554): a step ends at its limit without
the units that have not completed it, 10 s of service are a success, the watchdog fails the start, and the four
commands of 0x7000:04. It rests on choices of the model: log entries 45, 50, 61, 62. -/
def Obligations.StartEndCommandsComplete : Prop :=
  (∀ (incomplete : List PkgUnit) (s : State), stepRuns s = true →
    Completes (.stepLimit incomplete) s
      [.now, .free, .counters, .dict, .events, .taken, .hen, .om, .frame, .start, .spad,
      .arith, .parts, .dma, .dram, .clk, .host, .pho, .sums, .lanes, .las, .ver, .fab, .pow, .sec, .twin] (fun t =>
      t.now = max s.now (s.start.stepBegan + stepLimit s.start.step) ∧
      (s.start.step = 1 → .base 0 ∈ incomplete → StartFailed s t) ∧
      (s.start.step ∈ [3, 4, 6, 7] → StepEnded 2 s t ∧
        ∀ u ∈ incomplete, u ∈ t.start.kept ∧ (u ∉ s.start.kept → Raised 0x7006 s t)))) ∧
  (∀ (u : Nat) (s : State), s.start.serviceSince = some u → s.start.succeeded = false →
    Completes .startSuccess s [.now, .start] (fun t =>
      t.now = max s.now (u + 10 * sec) ∧ t.start = { s.start with succeeded := true, failedCount := 0 })) ∧
  (∀ (s : State), 2 ≤ s.start.step → s.start.donkey = false → s.start.succeeded = false →
    Completes .watchdogReset s [.counters, .dict, .events, .taken, .hen, .om, .frame, .start, .spad, .arith, .parts,
      .dma, .dram, .clk, .host, .pho, .sums, .lanes, .las, .ver, .fab, .pow, .sec, .twin] (fun t => StartFailed s t)) ∧
  (∀ (req : Req) (value : Bytes) (s : State), Admitted req 0x700004 value s → leNat value = 1 → mayRestart s = true →
    Completes (.restart req value) s [.counters, .dict, .events, .taken, .hen, .om, .frame, .start, .spad, .arith,
      .parts, .dma, .dram, .clk, .host, .pho, .sums, .lanes, .las, .ver, .fab, .pow, .sec, .twin] (fun t =>
      Answered req 0x700004 s t ∧ t.start.step = 0 ∧ t.start.commanded = 1 ∧ t.start.failedCount = 0 ∧
      t.start.restartAt = some (s.now + if s.start.donkey then sec else 10 * ms))) ∧
  (∀ (req : Req) (value : Bytes) (s : State), Admitted req 0x700004 value s → leNat value = 2 → mayRestart s = true →
    Completes (.restartIntoDonkey req value) s [.counters, .dict, .events, .taken, .hen, .om, .frame, .start, .spad,
      .arith, .parts, .dma, .dram, .clk, .host, .pho, .sums, .lanes, .las, .ver, .fab, .pow, .sec, .twin] (fun t =>
      Answered req 0x700004 s t ∧ t.start.step = 0 ∧ t.start.commanded = 2 ∧
      t.start.failedCount = s.start.failedCount ∧
      t.start.restartAt = some (s.now + if s.start.donkey then sec else 10 * ms))) ∧
  (∀ (req : Req) (value : Bytes) (s : State), Admitted req 0x700004 value s → leNat value = 3 → mayRestart s = true →
    Completes (.restartHoldAtFoal req value) s [.counters, .dict, .events, .taken, .hen, .om, .frame, .start, .spad,
      .arith, .parts, .dma, .dram, .clk, .host, .pho, .sums, .lanes, .las, .ver, .fab, .pow, .sec, .twin] (fun t =>
      Answered req 0x700004 s t ∧ t.start.step = 0 ∧ t.start.commanded = 3 ∧
      t.start.failedCount = s.start.failedCount ∧
      t.start.restartAt = some (s.now + if s.start.donkey then sec else 10 * ms))) ∧
  (∀ (req : Req) (value : Bytes) (s : State), Admitted req 0x700004 value s → leNat value = 4 →
    s.start.heldAtFoal = true →
    Completes (.continueFromHold req value) s [.counters, .dict, .events, .taken, .hen, .om, .frame, .start, .spad,
      .arith, .parts, .dma, .dram, .clk, .host, .pho, .sums, .lanes, .las, .ver, .fab, .pow, .sec, .twin] (fun t =>
      Answered req 0x700004 s t ∧
      t.start = { s.start with heldAtFoal := false, step := 6, stepBegan := s.now } ∧ Within [.events, .om, .start] s t))

/-- The recorder (R558, R560, R562 to R566): an arriving record takes the next sequence and a place in its queue, or
is suppressed or lost, a critical one is copied to NVM; records go to their ring slot, or to the freeze buffer while
the ring is frozen; tokens return one at a time; a thaw moves the buffer into the ring; the critical log can be
cleared. It rests on choices of the model: log entries 36, 37, 194. -/
def Obligations.RecorderCommandsComplete : Prop :=
  (∀ (i : Nat) (e : Event) (s : State), s.hen.arriving[i]? = some e →
    Completes (.eventRecord i) s [.events, .taken, .hen] (fun t =>
      (critical s e.code.toNat = false → (isMarker e.code.toNat = true ∨
          (bucket s e.code.toNat).missing < (rateLimit s e.code.toNat).1) → s.hen.inputQueue.length < 64 →
        t.hen.nextSeq = s.hen.nextSeq + 1 ∧ t.hen.lostSinceAccepted = 0 ∧
        t.hen.arriving = s.hen.arriving.eraseIdx i ∧ (bucket t e.code.toNat).suppressed = 0 ∧
        (isMarker e.code.toNat = false →
          (bucket t e.code.toNat).missing = (bucket s e.code.toNat).missing + 1) ∧
        ∃ r, t.hen.inputQueue = s.hen.inputQueue ++ [r] ∧ r.seq = s.hen.nextSeq ∧ r.code = e.code ∧
          r.payload = (e.items.filterMap id).flatten ∧
          r.suppressed = BitVec.ofNat 16
            (min 0xFFFF ((bucket s e.code.toNat).suppressed + s.hen.lostSinceAccepted))) ∧
      (critical s e.code.toNat = false → isMarker e.code.toNat = false →
        (rateLimit s e.code.toNat).1 ≤ (bucket s e.code.toNat).missing →
        t.hen.nextSeq = s.hen.nextSeq ∧ t.hen.inputQueue = s.hen.inputQueue ∧
        t.hen.suppressedTotal = satAdd 32 s.hen.suppressedTotal 1 ∧
        (bucket t e.code.toNat).suppressed = (bucket s e.code.toNat).suppressed + 1) ∧
      (critical s e.code.toNat = false → (isMarker e.code.toNat = true ∨
          (bucket s e.code.toNat).missing < (rateLimit s e.code.toNat).1) → 64 ≤ s.hen.inputQueue.length →
        t.hen.nextSeq = s.hen.nextSeq ∧ t.hen.inputQueue = s.hen.inputQueue ∧
        t.hen.lostTotal = satAdd 32 s.hen.lostTotal 1 ∧ t.hen.lostSinceAccepted = s.hen.lostSinceAccepted + 1) ∧
      (critical s e.code.toNat = true →
        ∃ r, r.seq = s.hen.nextSeq ∧ r.code = e.code ∧ r.flags &&& 1 = 1 ∧
          r.payload = (e.items.filterMap id).flatten ∧
          r.suppressed = BitVec.ofNat 16 (min 0xFFFF (bucket s e.code.toNat).suppressed) ∧
          (s.hen.priorityQueue.length < 64 →
            t.hen.priorityQueue = s.hen.priorityQueue ++ [r] ∧ t.hen.nextSeq = s.hen.nextSeq + 1) ∧
          (64 ≤ s.hen.priorityQueue.length →
            t.hen.priorityQueue = s.hen.priorityQueue ∧ t.hen.lostTotal = satAdd 32 s.hen.lostTotal 1) ∧
          ((s.hen.copies.filter (fun u => decide (s.now < u + sec))).length < 64 → s.hen.nvmNext < 1024 →
            Tab.look [] t.hen.nvmLog s.hen.nvmNext = nvmEntry s r ∧
            t.hen.nvmNext = (s.hen.nvmNext + 1) % 1024 ∧ Tab.look [] t.hen.nvmLog t.hen.nvmNext = [] ∧
            t.hen.nvmWritten = satAdd 32 s.hen.nvmWritten 1) ∧
          (64 ≤ (s.hen.copies.filter (fun u => decide (s.now < u + sec))).length →
            t.hen.nvmLog = s.hen.nvmLog ∧ t.hen.arriving.drop (s.hen.arriving.eraseIdx i).length ≠ [])))) ∧
  (∀ (r : Record) (rest : List Record) (s : State), s.hen.priorityQueue = r :: rest ∨
      (s.hen.priorityQueue = [] ∧ s.hen.inputQueue = r :: rest) →
    Completes .recordRingWrite s [.events, .hen, .om] (fun t =>
      (s.hen.priorityQueue = r :: rest → t.hen.priorityQueue = rest ∧ t.hen.inputQueue = s.hen.inputQueue) ∧
      (s.hen.priorityQueue = [] → t.hen.priorityQueue = [] ∧ t.hen.inputQueue = rest) ∧
      (s.hen.frozen = false →
        (∀ i, Tab.look [] t.hen.ring i =
          if i = r.seq.toNat % 16384 then recordOf r else Tab.look [] s.hen.ring i) ∧
        t.hen.overflow =
          satAdd 32 s.hen.overflow (if Tab.look [] s.hen.ring (r.seq.toNat % 16384) = [] then 0 else 1)) ∧
      (s.hen.frozen = true → t.hen.ring = s.hen.ring ∧ t.hen.overflow = s.hen.overflow ∧
        t.hen.nextSeq = s.hen.nextSeq ∧
        (s.hen.freezeBuffer.length < 256 → t.hen.freezeBuffer = s.hen.freezeBuffer ++ [r]) ∧
        (256 ≤ s.hen.freezeBuffer.length → t.hen.freezeBuffer = s.hen.freezeBuffer ∧
          t.hen.lostInFreeze = s.hen.lostInFreeze + 1 ∧ t.hen.lostTotal = satAdd 32 s.hen.lostTotal 1)))) ∧
  (∀ (code : BitVec 16) (s : State),
    Completes (.tokenBucketRefill code) s [.now, .events, .hen] (fun t =>
      (bucket t code.toNat).missing = (bucket s code.toNat).missing - 1 ∧
      ((bucket s code.toNat).missing ≠ 0 → t.now = max s.now ((bucket s code.toNat).since +
        (rateLimit s code.toNat).2 * ms / max (rateLimit s code.toNat).1 1)) ∧
      ∀ k, k ≠ code.toNat → bucket t k = bucket s k)) ∧
  (∀ (req : Req) (value : Bytes) (s : State), Admitted req 0x680003 value s → leNat value = 1 →
    s.hen.frozen = false →
    Completes (.freeze req value) s [.events, .hen, .om] (fun t =>
      Answered req 0x680003 s t ∧ recorder t = { recorder s with
        frozen := true, frozenNext := s.hen.nextSeq, freezeStart := s.now })) ∧
  (∀ (req : Req) (value : Bytes) (s : State), Admitted req 0x680003 value s → leNat value = 2 →
    Completes (.thaw req value) s [.events, .hen, .om] (fun t =>
      Answered req 0x680003 s t ∧ t.hen.frozen = false ∧ (s.hen.frozen = false → t.hen = s.hen) ∧
      (s.hen.frozen = true → Raised 0x6802 s t ∧ t.hen.freezeBuffer = [] ∧
        (s.hen.lostInFreeze ≠ 0 → Raised 0x6803 s t) ∧
        ((s.hen.freezeBuffer.map (fun r => r.seq.toNat % 16384)).Nodup → ∀ r ∈ s.hen.freezeBuffer,
          Tab.look [] t.hen.ring (r.seq.toNat % 16384) = recordOf r)))) ∧
  (∀ (s : State), s.hen.frozen = true →
    Completes .freezeLimit s [.now, .events, .hen] (fun t =>
      t.now = max s.now (s.hen.freezeStart + dictNat s 0x680004 * ms) ∧ t.hen.frozen = false ∧ Raised 0x6802 s t ∧
      t.hen.freezeBuffer = [] ∧ (s.hen.lostInFreeze ≠ 0 → Raised 0x6803 s t))) ∧
  (∀ (req : Req) (value : Bytes) (s : State), Admitted req 0x680009 value s → leNat value = 1 →
    Completes (.clearCriticalLog req value) s [.events, .hen, .om] (fun t =>
      (s.start.donkey = true ∨ stopped s = true →
        Answered req 0x680009 s t ∧ t.hen = { s.hen with nvmLog := [] }) ∧
      (s.start.donkey = false → stopped s = false → t.hen = s.hen ∧
        t.om.replies = s.om.replies ++ [{ id := writeId req 0x680009, status := stState, data := leBytes 4 0 }])))

/-- Supplies (R410 to R413): an input fails or returns, VIN_A is trusted after 1 s, the load moves with events
0x2001 and 0x2002, and 10 µs without an input stop the device after its last critical record has reached NVM. It
rests on choices of the model: log entry 107. -/
def Obligations.SupplyCommandsComplete : Prop :=
  (∀ (backup : Bool) (mv : Nat) (s : State), mv ≤ 31400 ∨ 40600 ≤ mv →
    (if backup then s.pow.inB.good else s.pow.inA.good) = true →
    Completes (.inputFailed backup mv) s [.counters, .events, .pow] (fun t =>
      (backup = false → t.pow.inA = { good := false, since := s.now } ∧ t.pow.inB = s.pow.inB ∧
        (s.pow.trip = none → s.pow.inB.good = true → t.pow.load = some true ∧
          (deviceOn s = true → s.pow.carried = some false →
            Raised 0x2001 s t ∧ counter t 0x200004 = satAdd 32 (counter s 0x200004) 1)) ∧
        (s.pow.inB.good = false → t.pow.load = none ∧
          (deviceOn s = true → s.pow.noInput = none → t.pow.noInput = some s.now))) ∧
      (backup = true → t.pow.inB = { good := false, since := s.now } ∧ t.pow.inA = s.pow.inA ∧
        (deviceOn s = true → Raised 0x2003 s t) ∧
        (s.pow.trip = none → s.pow.inA.good = true → t.pow.load = some false) ∧
        (s.pow.inA.good = false → t.pow.load = none)))) ∧
  (∀ (backup : Bool) (mv : Nat) (s : State), 32000 ≤ mv → mv ≤ 40000 →
    (if backup then s.pow.inB.good else s.pow.inA.good) = false →
    Completes (.inputInRange backup mv) s [.counters, .events, .pow] (fun t =>
      (backup = false → t.pow.inA = { good := true, since := s.now } ∧
        (s.pow.trip = none → t.pow.load = some s.pow.inB.good)) ∧
      (backup = true → t.pow.inB = { good := true, since := s.now } ∧ (deviceOn s = true → Raised 0x2003 s t) ∧
        (s.pow.trip = none → t.pow.load = some (!stableA s))))) ∧
  (∀ (s : State), s.pow.inA.good = true →
    Completes .vinAStable s [.now, .counters, .events, .pow] (fun t =>
      t.now = max s.now (s.pow.inA.since + sec) ∧
      (s.pow.trip = none → t.pow.load = some false ∧ (deviceOn s = true → s.pow.carried = some true →
        Raised 0x2002 s t ∧ counter t 0x200004 = satAdd 32 (counter s 0x200004) 1)))) ∧
  (∀ (u : Nat) (s : State), s.pow.noInput = some u →
    Completes .powerLoss s [.now, .counters, .dict, .events, .taken, .hen, .om, .frame, .start, .spad, .arith, .parts,
      .dma, .dram, .clk, .host, .pho, .sums, .lanes, .las, .ver, .fab, .pow, .sec, .twin] (fun t =>
      t.now = max s.now (u + 10 * us) ∧ t.start.step = 0 ∧ t.start.previousStop = .powerLoss ∧ t.hen.ring = [] ∧
      t.pow.load = none ∧ t.sec.nvm = s.sec.nvm ∧ t.om.records = s.om.records ∧
      (s.hen.arriving = [] → (s.hen.copies.filter (fun x => decide (t.now < x + sec))).length < 64 →
        s.hen.nvmNext < 1024 → ∃ r, r.code = 0x2004 ∧ r.seq = s.hen.nextSeq ∧
          Tab.look [] t.hen.nvmLog s.hen.nvmNext = nvmEntry s r)))

/-- Caps and the learner (R414 to R418, R420, R421): a window measures every rail against its cap, commands the
stretches and notes the input power; a cap limit rises after 100 ms; a phase teaches the entry of its class; the
profile is stored and cleared. It rests on choices of the model: log entries 95, 96, 97, 100. -/
def Obligations.CapCommandsComplete : Prop :=
  (∀ (currents : List Nat) (power vinA vinB : Nat) (s : State), deviceOn s = true →
    Completes (.capWindow currents power vinA vinB) s [.now, .counters, .events, .parts, .clk, .pow] (fun t =>
      t.pow.windowEnd % 2000 = 0 ∧ t.now = max s.now t.pow.windowEnd ∧ t.pow.inputPower = power ∧
      t.pow.vinA = vinA ∧ t.pow.vinB = vinB ∧
      (∀ r, r < 28 → ∃ cap, Tab.look {} t.pow.rails r = {
          cap := cap
          current := currents.getD r 0
          n := stretchAfter (Tab.look {} s.pow.rails r).n (currents.getD r 0) cap
          overCount := satAdd 16 (Tab.look {} s.pow.rails r).overCount (if cap < currents.getD r 0 then 1 else 0)
          raised := (Tab.look {} s.pow.rails r).raised || decide (cap < currents.getD r 0) } ∧
        (24 ≤ r → cap = railCeiling s r) ∧
        (cap < currents.getD r 0 → (Tab.look {} s.pow.rails r).raised = false → Raised 0x2005 s t)) ∧
      (∀ r, 28 ≤ r → r < 44 → (Tab.look {} t.pow.rails r).current = min (railCeiling s r) (currents.getD r 0) ∧
        (railCeiling s r ≤ currents.getD r 0 → (Tab.look {} s.pow.rails r).raised = false → Raised 0x2008 s t)) ∧
      (105 * (dictNat s 0x200002 * 1000) < 100 * power → t.pow.overWindows = s.pow.overWindows + 1 ∧
        (4 ≤ s.pow.overWindows → t.pow.packageStretch = true)) ∧
      (power ≤ dictNat s 0x200002 * 1000 → t.pow.overWindows = 0 ∧ t.pow.packageStretch = false) ∧
      ∀ (w : Tower) (r : Nat), r < 13 → Tab.look {} t.clk.stretches (regionKey w r) = {
        vcore := (Tab.look {} t.pow.rails w).n
        vpho := (Tab.look {} t.pow.rails (24 + baseOfTower w)).n
        package := if t.pow.packageStretch then 4 else 0
        before := commandedN (Tab.look {} s.clk.stretches (regionKey w r)) })) ∧
  (∀ (c u : Nat) (s : State), s.clk.capLimit = some c → s.clk.capCalm = some u →
    Completes .capLimitRise s [.now, .events, .clk] (fun t =>
      t.now = max s.now (u + 100 * ms) ∧ Raised 0x2006 s t ∧
      t.clk.capLimit = if c + 1 = 0x18 then none else some (c + 1))) ∧
  (∀ (tower : Tower) (s : State),
    Completes (.phaseEnd tower) s [.pow] (fun t =>
      (∀ w, Tab.look none s.pow.seen tower = some w →
        let key := learnKey tower (some w.class_)
        let old := demandOf s.pow.learner s.pow.profile s.pow.shares.pvar s.pow.shares.towers.length key
        let v := coreVolts s.clk.vcore
        Tab.look none t.pow.seen tower = none ∧ Tab.look {} t.pow.learner key = {
          learned := true
          core := learn old.1 (observed w.core v w.coreN * (20 * 620 * 620) / (s.clk.inForce * v * v))
          dram := learn old.2.1 (observed w.dram 1100 w.dramN) }) ∧
      (Tab.look none s.pow.seen tower = none → t = s))) ∧
  (∀ (s : State), 3 ≤ s.start.step →
    Completes .profileWriteTimer s [.now, .pow] (fun t =>
      t.now = max s.now (s.pow.profileAt + 600 * sec) ∧
      t.pow = { s.pow with profile := some s.pow.learner, profileAt := t.now })) ∧
  (∀ (req : Req) (value : Bytes) (s : State), Admitted req 0x200008 value s → leNat value = 1 →
    Completes (.capProfileWrite req value) s [.events, .om, .pow] (fun t =>
      Answered req 0x200008 s t ∧ t.pow = { s.pow with profile := some s.pow.learner, profileAt := s.now })) ∧
  (∀ (req : Req) (value : Bytes) (s : State), Admitted req 0x200008 value s → leNat value = 2 →
    Completes (.capProfileClear req value) s [.events, .om, .pow] (fun t =>
      Answered req 0x200008 s t ∧ t.pow = { s.pow with learner := [], profile := none }))

/-- Diodes, throttling and Ox (R205, R424 to R432): a sample of sound diodes sets the readings in force, the
throttle state and the stacks' bands; a reading out of range makes its diode broken, with its stand-in in force; the
thermal limit falls and rises; Ox trips on the second hot sample and lets go after 10 s below 85 °C. It rests on
choices of the model: log entries 63, 102, 106. -/
def Obligations.HeatCommandsComplete : Prop :=
  (∀ (readings : List Int) (s : State), 5 ≤ s.start.step → (∀ i, i < 44 → SoundSample readings none s i) →
    Completes (.diodeSample readings) s [.free, .counters, .dict, .events, .taken, .hen, .om, .frame, .start, .spad,
      .arith, .parts, .dma, .dram, .clk, .host, .pho, .sums, .lanes, .las, .ver, .fab, .pow, .sec, .twin] (fun t =>
      (∀ i x, i < 44 → readings[i]? = some x →
        Tab.look 0 t.pow.temps i = x ∧ (diode t i).last = some x ∧ (diode t i).broken = false) ∧
      (∀ (w : Tower) (x : Int), readings[12 + w.val]? = some x → (stack s w).sampled = true →
        (stack s w).selected < bandFor x → (stack t w).selected = bandFor x) ∧
      (s.pow.throttle = .normal → (∃ i x, i < 44 ∧ readings[i]? = some x ∧ throttleAt s ≤ x) →
        Raised 0x2401 s t ∧ t.pow.alert = true ∧ t.pow.graceEnds = s.now + dictNat s 0x240004 * us ∧
        (0 < dictNat s 0x240004 → t.pow.throttle = .requested)) ∧
      (s.pow.throttle = .requested → s.pow.graceEnds ≤ s.now →
        (∃ i x, i < 44 ∧ readings[i]? = some x ∧ throttleAt s ≤ x) →
        Raised 0x2402 s t ∧ t.pow.throttle = .enforcing ∧
        t.pow.thermalLimit = some (max 8 (s.clk.inForce - 2))) ∧
      (s.pow.throttle = .requested → (∀ i x, i < 44 → readings[i]? = some x → x ≤ throttleAt s - 30) →
        ∀ u, s.pow.cool3 = some u → u + 10 * ms ≤ s.now → t.pow.throttle = .normal ∧ t.pow.alert = false))) ∧
  (∀ (readings : List Int) (i : Nat) (x m : Int) (s : State), 5 ≤ s.start.step → i < 44 →
    (diode s i).broken = false → readings[i]? = some x → inDiodeRange x = false →
    (∀ j, j < 44 → j ≠ i → SoundSample readings (some i) s j ∧ ∀ y, readings[j]? = some y → y ≤ 900) →
    dictNat s 0x240006 ≤ 20 → highest ((diodeNeighbours i).filterMap (fun j => readings[j]?)) = some m →
    Completes (.diodeSample readings) s [.free, .counters, .dict, .events, .taken, .hen, .om, .frame, .start, .spad,
      .arith, .parts, .dma, .dram, .clk, .host, .pho, .sums, .lanes, .las, .ver, .fab, .pow, .sec, .twin] (fun t =>
      Raised 0x2404 s t ∧ (diode t i).broken = true ∧ Tab.look 0 t.pow.temps i = m + 10 * dictNat s 0x240006)) ∧
  (∀ (c : Nat) (s : State), s.pow.throttle = .enforcing → s.pow.thermalLimit = some c →
    Completes .thermalLimitStep s [.now, .pow] (fun t =>
      t.now = max s.now (s.pow.windowAt + ms) ∧ t.pow = { s.pow with
        windowAt := s.pow.windowAt + ms
        hotInWindow := false
        thermalLimit := some (if s.pow.hotInWindow then max 8 (c - 2) else c) })) ∧
  (∀ (c u : Nat) (s : State), s.pow.throttle = .enforcing → s.pow.thermalLimit = some c → s.pow.cool5 = some u →
    Completes .thermalLimitRise s [.now, .events, .clk, .host, .pow] (fun t =>
      t.now = max s.now (u + 100 * ms) ∧
      (c + 1 < 0x18 → t.pow.throttle = .enforcing ∧ t.pow.thermalLimit = some (c + 1)) ∧
      (0x18 ≤ c + 1 → t.pow.throttle = .normal ∧ t.pow.thermalLimit = none ∧ t.pow.alert = false ∧
        Raised 0x2403 s t))) ∧
  (∀ (readings : List Int) (unsound : List (Fin 44)) (s : State),
    Completes (.oxSample readings unsound) s [.counters, .dict, .events, .taken, .hen, .om, .frame, .start, .spad,
      .arith, .parts, .dma, .dram, .clk, .host, .pho, .sums, .lanes, .las, .ver, .fab, .pow, .sec, .twin] (fun t =>
      (s.pow.trip = none → (∃ i : Fin 44, i ∉ unsound ∧ 1 ≤ (diode s i).hot ∧
          ∃ x, readings[i.val]? = some x ∧ inDiodeRange x = true ∧ 1150 ≤ x) →
        t.start.step = 0 ∧ t.start.previousStop = .trip ∧ t.pow.alert = true ∧ t.pow.load = none ∧
        ∃ (i : Fin 44) (x : Int), t.pow.trip = some (i.val, x) ∧ i ∉ unsound ∧ readings[i.val]? = some x ∧ 1150 ≤ x) ∧
      (s.pow.trip = none → (∀ (i : Fin 44) (x : Int), i ∉ unsound → readings[i.val]? = some x → x < 1150) →
        t.pow.trip = none ∧ Within [.pow] s t ∧ ∀ i, i < 44 → (diode t i).hot = 0) ∧
      (s.pow.trip ≠ none → t.pow.trip = s.pow.trip ∧
        ((∀ (i : Fin 44) (x : Int), i ∉ unsound → readings[i.val]? = some x → x < 850) →
          t.pow.coolSince = some (s.pow.coolSince.getD s.now)) ∧
        ((∃ (i : Fin 44) (x : Int), i ∉ unsound ∧ readings[i.val]? = some x ∧ inDiodeRange x = true ∧ 850 ≤ x) →
          t.pow.coolSince = none)))) ∧
  (∀ (x : Nat × Int) (u : Nat) (s : State), s.pow.trip = some x → s.pow.coolSince = some u →
    Completes .oxRelease s [.now, .counters, .events, .pow] (fun t =>
      t.now = max s.now (u + 10 * sec) ∧ t.pow.trip = none ∧ t.pow.diodes = [] ∧ t.pow.alert = s.start.noService ∧
      (s.pow.inB.good = true → t.pow.load = some true) ∧
      (s.pow.inB.good = false → t.pow.load = if s.pow.inA.good then some false else none)))

/-- Worlds and tenant handover (R463, R465, R468, R486, R487): a world map or a region table takes effect at the
next boundary, or at once while no frames run; a locked entry stays; a handover of towers that belong to no
partition empties them and starts their scrubs; a scrubbed tower is marked clean when its fabric packets have aged.
It rests on choices of the model: log entries 80, 86, 188, 189. -/
def Obligations.WorldCommandsComplete : Prop :=
  (∀ (req : Req) (value : Bytes) (s : State), Admitted req 0x600001 value s → mapFault value = none →
    let m := overlay value 3 [if fieldAt value 3 1 > 1 then value.getD 3 0 else 1]
    Completes (.worldMapWrite req value) s [.dict, .events, .om, .sec] (fun t =>
      (mapAgrees s m = true → mapTouchesTdi s m = false → ticking s = true →
        Waits req 0x600001 0 s t ∧ t.sec.pendingMap = some m ∧ t.dict = s.dict) ∧
      (mapAgrees s m = true → mapTouchesTdi s m = false → ticking s = false →
        Answered req 0x600001 s t ∧ dictBytes t 0x600001 = m) ∧
      (mapAgrees s m = false ∨ mapTouchesTdi s m = true → Within [.om] s t ∧
        t.om.replies = s.om.replies ++ [{ id := writeId req 0x600001, status := stState, data := leBytes 4 0 }]))) ∧
  (∀ (req : Req) (w : Tower) (value : Bytes) (s : State), Admitted req (0x601001 + w.val) value s →
    let old := dictBytes s (0x601001 + w.val)
    let locked := fun i => nbit (fieldAt (tableEntry old i) 0 1) 0 && nbit (fieldAt (tableEntry old i) 0 1) 1
    Completes (.regionTableWrite req w value) s [.dict, .events, .om, .sec] (fun t =>
      ((∀ i, i < 256 → locked i = true → tableEntry value i = tableEntry old i) → (∀ p, tdiHeld s p = false) →
        (∀ i, i < 256 → entryFault (tableEntry value i) = none) →
        (ticking s = true → towerUp s w = true → Waits req (0x601001 + w.val) 0 s t ∧ t.dict = s.dict ∧
          Tab.look [] t.sec.pendingTables w = value) ∧
        (ticking s = false ∨ towerUp s w = false → Answered req (0x601001 + w.val) s t ∧ Raised 0x6002 s t ∧
          dictBytes t (0x601001 + w.val) = value)) ∧
      ((∀ i, i < 256 → locked i = true → tableEntry value i = tableEntry old i) → ∀ i d, i < 256 →
        entryFault (tableEntry value i) = some d → (∀ j, j < i → entryFault (tableEntry value j) = none) →
        Within [.om] s t ∧ t.om.replies = s.om.replies ++
          [{ id := writeId req (0x601001 + w.val), status := stRange, data := leBytes 4 (16 * i + d) }]) ∧
      ((∃ i, i < 256 ∧ locked i = true ∧ tableEntry value i ≠ tableEntry old i) → Within [.om] s t ∧
        t.om.replies = s.om.replies ++
          [{ id := writeId req (0x601001 + w.val), status := stLocked, data := leBytes 4 0 }]))) ∧
  (∀ (req : Req) (value : Bytes) (s : State), Admitted req 0x600007 value s → leNat value < 4096 →
    (∀ w ∈ maskMembers 12 (leNat value), partitionOf s w = none) →
    Completes (.tenantHandover req value) s [.dict, .events, .om, .spad, .arith, .parts, .dma, .dram, .clk, .pho, .sec]
      (fun t =>
      t.om.replies.getLast? = some { id := writeId req 0x600007, status := stOk, data := [] } ∧
      ∀ w ∈ maskMembers 12 (leNat value), w ∈ t.sec.handover ∧ w ∈ t.sec.unclean ∧ w ∉ t.sec.scrubbed ∧
        scrubbing t w = true ∧ dictBytes t (0x601001 + w) = handoverTable w s ∧ Tab.look [] t.dma.leaves w = [] ∧
        Tab.look [] t.dma.walkLines w = [] ∧ Tab.look [] t.dma.cache w = [] ∧
        (∀ m ∈ t.pho.inbox, m.1 ≠ w) ∧ ∀ e : EngineNo, engineQueue t (16 * w + e.val) = [])) ∧
  (∀ (w : Tower) (s : State), w.val ∈ s.sec.scrubbed → w.val ∈ s.sec.handover →
    Completes (.tenantCleanDelay w) s [.now, .events, .sec] (fun t =>
      t.now = max s.now (cleanFrom s w) ∧ Raised 0x6009 s t ∧ w.val ∉ t.sec.handover ∧ w.val ∉ t.sec.unclean ∧
      w.val ∉ t.sec.scrubbed ∧ ∀ f, f < 13 → w.val ∉ Tab.look [] t.sec.tdiOwes f)) ∧
  (∀ (req : Req) (value : Bytes) (s : State), Admitted req 0x60000B value s →
    (∀ p ∈ maskMembers 8 (leNat value), portEncrypted s p = true ∧ portKeyed s p = true) →
    Completes (.portKeyUpdate req value) s [.free, .counters, .events, .om, .lanes, .ver, .fab] (fun t =>
      Answered req 0x60000B s t ∧ (maskMembers 8 (leNat value) ≠ [] → Raised 0x500A s t) ∧
      ∀ p, maskMembers 8 (leNat value) = [p] →
        (crypt t (2 * p)).generation = (crypt s (2 * p)).generation + 1))

/-- Live update (R472, R473, R475, R476): an image is staged, verified, activated at a tick, and written to NVM,
once more after 1 s when that fails; the fused SVN follows the running image when it is also the one in NVM. It
rests on choices of the model: log entries 82, 83. -/
def Obligations.ImageCommandsComplete : Prop :=
  (∀ (req : Req) (value : Bytes) (s : State), Admitted req 0x600004 value s → 0x601 ≤ value.length →
    value.length ≤ 0x1000600 →
    Completes (.imageStaging req value) s [.events, .om, .sec] (fun t =>
      Answered req 0x600004 s t ∧ t.sec = { s.sec with
        staged := some value, update := 1, verifying := false, activateNext := false })) ∧
  (∀ (req : Req) (value : Bytes) (s : State), Admitted req 0x600005 value s → leNat value = 1 →
    s.sec.staged.isSome = true → s.sec.verifying = false → s.sec.update = 1 ∨ s.sec.update = 2 →
    Completes (.verify req value) s [.events, .om, .sec] (fun t =>
      Answered req 0x600005 s t ∧ t.sec = { s.sec with verifying := true })) ∧
  (∀ (s : State), s.sec.verifying = true →
    Completes .imageVerifyDone s [.events, .sec] (fun t =>
      (imageFault s (s.sec.staged.getD []) = none → Raised 0x6003 s t ∧
        t.sec = { s.sec with verifying := false, update := 2, verifyFailed := false }) ∧
      (imageFault s (s.sec.staged.getD []) ≠ none → Raised 0x6004 s t ∧
        t.sec = { s.sec with verifying := false, update := 1, verifyFailed := true }))) ∧
  (∀ (req : Req) (value : Bytes) (s : State), Admitted req 0x600005 value s →
    leNat value = 0x02 ∨ leNat value = 0x82 →
    Completes (.activate req value) s [.events, .om, .sec] (fun t =>
      (mayActivate s (decide (leNat value = 0x82)) = true →
        Answered req 0x600005 s t ∧ t.sec = { s.sec with activateNext := true }) ∧
      (mayActivate s (decide (leNat value = 0x82)) = false → Within [.om] s t ∧
        t.om.replies = s.om.replies ++ [{ id := writeId req 0x600005, status := stState, data := leBytes 4 0 }]))) ∧
  (∀ (u : Nat) (s : State), s.sec.activating = some u →
    Completes .activationDone s [.now, .events, .om, .host, .sec] (fun t =>
      t.now = max s.now u ∧ Raised 0x6005 s t ∧
      t.sec = { s.sec with activating := none, running := s.sec.staged, update := 3 })) ∧
  (∀ (req : Req) (value : Bytes) (s : State), Admitted req 0x600005 value s → leNat value = 3 →
    mayCommit s = true →
    Completes (.imageCommit req value) s [.events, .om, .sec] (fun t =>
      Answered req 0x600005 s t ∧ t.sec = { s.sec with committing := true, commitFailures := 0 })) ∧
  (∀ (ok : Bool) (s : State), s.sec.committing = true →
    Completes (.imageCommitDone ok) s [.events, .start, .sec] (fun t =>
      t.sec.committing = false ∧
      (ok = true → nvmImage t = commitImage s ∧ t.sec.nvmInvalid = false ∧ t.sec.update = 4 ∧
        (s.start.donkey = true → t.start.failedCount = 0) ∧ (s.start.donkey = false → t.start = s.start)) ∧
      (ok = false → Raised 0x6006 s t ∧ t.sec.nvm = s.sec.nvm ∧ t.sec.update = s.sec.update ∧
        (s.sec.commitFailures = 0 → t.sec.retryAt = some (s.now + sec) ∧ t.sec.nvmInvalid = s.sec.nvmInvalid) ∧
        (1 ≤ s.sec.commitFailures → t.sec.retryAt = none ∧ t.sec.nvmInvalid = true)))) ∧
  (∀ (u : Nat) (s : State), s.sec.retryAt = some u →
    Completes .imageCommitRetry s [.now, .sec] (fun t =>
      t.now = max s.now u ∧ t.sec = { s.sec with retryAt := none, committing := true })) ∧
  (∀ (req : Req) (value : Bytes) (s : State), Admitted req 0x600005 value s → leNat value = 4 →
    s.start.donkey = false → s.sec.nvmInvalid = false → runningImage s = nvmImage s →
    Completes (.advanceSvn req value) s [.events, .om, .sec] (fun t =>
      Answered req 0x600005 s t ∧ fusedSvn t = max (fusedSvn s) (imageSvn (runningImage s)) ∧
      t.sec = { s.sec with svnBlown := fusedSvn t }))

/-- Attestation (R477 to R479, R484): each SPDM request is answered on its path once the path has negotiated so far,
with the values in force and signed over what the path has exchanged; sessions open, change their keys, and end, and
with the session of an encrypted port its link. It rests on choices of the model: log entries 11, 84, 85. -/
def Obligations.AttestationCommandsComplete : Prop :=
  (∀ (x : SpdmPath) (request : Bytes) (s : State), pathOpen s x = true →
    Completes (.getVersion x request) s [.sec] (fun t =>
      SpdmSent x (.version [0x12, 0x13]) s t ∧ Tab.look 0 t.sec.negotiated (pathKey x) = 1 ∧
      Tab.look [] t.sec.transcripts (pathKey x) = request)) ∧
  (∀ (x : SpdmPath) (request : Bytes) (s : State), pathOpen s x = true →
    Completes (.getCapabilities x request) s [.sec] (fun t =>
      (SpdmServes x 1 s → SpdmSent x .capabilities s t ∧ Tab.look 0 t.sec.negotiated (pathKey x) = 2) ∧
      (¬ SpdmServes x 1 s → SpdmSent x .error s t ∧ t.sec.negotiated = s.sec.negotiated))) ∧
  (∀ (x : SpdmPath) (request : Bytes) (offer : SpdmOffer) (s : State), SpdmServes x 2 s →
    Completes (.negotiateAlgorithms x request offer) s [.sec] (fun t =>
      (offer = ⟨true, true, true, true, true⟩ →
        SpdmSent x .algorithms s t ∧ Tab.look 0 t.sec.negotiated (pathKey x) = 3) ∧
      (offer ≠ ⟨true, true, true, true, true⟩ → SpdmSent x .error s t ∧ t.sec.negotiated = s.sec.negotiated))) ∧
  (∀ (x : SpdmPath) (request : Bytes) (s : State), SpdmServes x 3 s →
    Completes (.getDigests x request) s [.sec] (SpdmSent x (.digests (Config.sha384 Config.certificateChain)) s)) ∧
  (∀ (x : SpdmPath) (request : Bytes) (slot : Fin 8) (offset length : BitVec 16) (s : State), SpdmServes x 3 s →
    Completes (.getCertificate x request slot offset length) s [.sec] (SpdmSent x
      (if slot = 0 then .certificate (slice Config.certificateChain offset.toNat length.toNat) else .error) s)) ∧
  (∀ (x : SpdmPath) (request : Bytes) (slot : Fin 8) (s : State), SpdmServes x 3 s →
    Completes (.challenge x request slot) s [.sec] (fun t =>
      Tab.look [] t.sec.transcripts (pathKey x) = Tab.look [] s.sec.transcripts (pathKey x) ++ request ∧
      SpdmSent x (if slot = 0 then .challengeAuth (spdmSigned x t) else .error) s t)) ∧
  (∀ (x : SpdmPath) (request : Bytes) (index : BitVec 8) (signature : Bool) (s : State), SpdmServes x 3 s →
    Completes (.getMeasurements x request index signature) s [.sec] (fun t =>
      (∀ i, i ≤ 6 → 1 ≤ i → index.toNat = i →
        SpdmSent x (.measurements [(i, measurement s i)] (if signature then spdmSigned x t else [])) s t) ∧
      (index = 0xFF → SpdmSent x (.measurements ([1, 2, 3, 4, 5, 6].map (fun i => (i, measurement s i)))
        (if signature then spdmSigned x t else [])) s t) ∧
      (7 ≤ index.toNat → index ≠ 0xFF → SpdmSent x .error s t))) ∧
  (∀ (x : SpdmPath) (request : Bytes) (asRequester : Bool) (s : State), SpdmServes x 3 s →
    Completes (.keyExchange x request asRequester) s [.sec] (fun t =>
      (s.sec.sessions.length < 8 → (asRequester = true → (pathPort x).isSome = true) →
        t.sec.sessions = s.sec.sessions ++ [{ id := BitVec.ofNat 32 (s.sec.opened + 1), path := x }] ∧
        SpdmSent x (.keyExchange (BitVec.ofNat 32 (s.sec.opened + 1)) (Config.sessionShare s.sec.opened)
          (spdmSigned x t)) s t) ∧
      (8 ≤ s.sec.sessions.length → t.sec.sessions = s.sec.sessions ∧ SpdmSent x .error s t))) ∧
  (∀ (x : SpdmPath) (request : Bytes) (id : BitVec 32) (trusted : Bool) (e : SpdmSession) (s : State),
    SpdmServes x 3 s → sessionOf s x id = some e → e.established = false →
    Completes (.finish x request id trusted) s [.free, .counters, .events, .lanes, .ver, .fab, .sec] (fun t =>
      ((pathPort x).isSome = true → trusted = false →
        SpdmSent x .error s t ∧ ∀ y ∈ t.sec.sessions, y.id ≠ id) ∧
      ((pathPort x).isSome = true → trusted = true →
        SpdmSent x (.finish id) s t ∧ Raised 0x6007 s t ∧ ∃ y ∈ t.sec.sessions, y.id = id ∧ y.established = true) ∧
      (pathPort x = none →
        SpdmSent x (.finish id) s t ∧ Raised 0x6007 s t ∧ ∃ y ∈ t.sec.sessions, y.id = id ∧ y.established = true) ∧
      (∀ p, pathPort x = some p → trusted = true → portEncrypted s p = true →
        (crypt t (2 * p)).generation = 1 ∧ (crypt t (2 * p + 1)).generation = 1))) ∧
  (∀ (x : SpdmPath) (id : BitVec 32) (s : State), InSession x id s →
    Completes (.keyUpdate x id) s [.sec] (SpdmSent x (.keyUpdate id) s)) ∧
  (∀ (x : SpdmPath) (id : BitVec 32) (s : State), InSession x id s →
    Completes (.heartbeat x id) s [.sec] (fun t =>
      SpdmSent x (.heartbeat id) s t ∧ t.sec.sessions = s.sec.sessions)) ∧
  (∀ (x : SpdmPath) (id : BitVec 32) (s : State), InSession x id s →
    Completes (.endSession x id) s [.free, .counters, .events, .pho, .lanes, .ver, .fab, .sec] (fun t =>
      SpdmSent x (.endSession id) s t ∧ Raised 0x6007 s t ∧ (∀ y ∈ t.sec.sessions, y.id ≠ id) ∧
      (∀ p, pathPort x = some p → portEncrypted s p = true →
        portKeyed t p = false ∧ portUp t p = false ∧ Raised 0x4026 s t)))

/-- Trusted domains (R480 to R483): IDE keys, an integrity failure, and the TDISP messages, each answered by the
state of the TDI, which changes with event 0x6008. It rests on choices of the model: log entry 79. -/
def Obligations.TrustedDomainCommandsComplete : Prop :=
  (∀ (id : BitVec 32) (stream : Option (Fin 16)) (keySet : Fin 2) (s : State), InSession .doe id s →
    Completes (.ideKeyInstall id stream keySet) s [.sec] (fun t =>
      SpdmSent .doe (.keyInstalled stream keySet) s t ∧
      nbit (Tab.look 0 t.sec.ideKeys (match stream with
        | none => 0
        | some n => 1 + n.val)) keySet = true)) ∧
  (∀ (s : State),
    Completes (.ideFault none) s [.events, .parts, .dma, .host, .sec] (fun t =>
      Raised 0x600A s t ∧ Within [.events] s t)) ∧
  (∀ (f : Function) (s : State),
    Completes (.ideFault (some f)) s [.events, .parts, .dma, .host, .sec] (fun t =>
      Raised 0x600A s t ∧ (isTdi s f = false → Within [.events] s t) ∧
      (isTdi s f = true → tdiState t f = 3 ∧ (tdiState s f ≠ 3 → Raised 0x6008 s t) ∧
        Tab.look [] t.sec.tdiOwes f = (ownedPartitions s f).flatMap (towersOf s) ∧
        ∀ r ∈ t.parts.runs, r.partition ∉ ownedPartitions s f))) ∧
  (∀ (f : Function) (s : State), TdispServes f s →
    Completes (.getTdispVersion f) s [.sec] (SpdmSent .doe (.tdispVersion 1 0) s)) ∧
  (∀ (f : Function) (s : State), TdispServes f s →
    Completes (.getTdispCapabilities f) s [.sec] (SpdmSent .doe .tdispCapabilities s)) ∧
  (∀ (f : Function) (s : State), TdispServes f s →
    Completes (.lockInterface f) s [.events, .host, .sec] (fun t =>
      (tdiState s f = 0 → Tab.look [] s.sec.tdiOwes f = [] →
        SpdmSent .doe (.tdiLocked f) s t ∧ tdiState t f = 1 ∧ Raised 0x6008 s t) ∧
      (tdiState s f ≠ 0 ∨ Tab.look [] s.sec.tdiOwes f ≠ [] → SpdmSent .doe .error s t ∧ t.sec.tdi = s.sec.tdi))) ∧
  (∀ (f : Function) (s : State), TdispServes f s →
    Completes (.getDeviceInterfaceReport f) s [.sec] (fun t => ∃ towers,
      SpdmSent .doe (.tdiReport f towers 0x1000 0x1000 (2 ^ 40) (measurement s 4)) s t ∧
      ∀ w : Tower, nbit towers w = true ↔ ∃ p ∈ ownedPartitions s f, partitionOf s w = some p)) ∧
  (∀ (f : Function) (s : State), TdispServes f s →
    Completes (.getDeviceInterfaceState f) s [.sec] (SpdmSent .doe (.tdiState f (tdiState s f)) s)) ∧
  (∀ (f : Function) (s : State), TdispServes f s →
    Completes (.startInterface f) s [.events, .host, .sec] (fun t =>
      (tdiState s f = 1 → SpdmSent .doe (.tdiStarted f) s t ∧ tdiState t f = 2 ∧ Raised 0x6008 s t) ∧
      (tdiState s f ≠ 1 → SpdmSent .doe .error s t ∧ t.sec.tdi = s.sec.tdi))) ∧
  (∀ (f : Function) (s : State), TdispServes f s →
    Completes (.stopInterface f) s [.events, .host, .sec] (fun t =>
      SpdmSent .doe (.tdiStopped f) s t ∧ tdiState t f = 0 ∧ (tdiState s f ≠ 0 → Raised 0x6008 s t)))

end
end

