-- ==== Sys2Proof/Laws/Tab.lean ====
section
/-! SUPPORT. What reading and writing a sparse table does, and that every write keeps the canonical form. -/

set_option Elab.async false

namespace Sys2Proof.Machine

/-! ### Reading -/

/-- Reading after removing a key: the default there, and elsewhere what was there. -/
theorem Tab.look_drop {α : Type} (d : α) (k j : Nat) (t : Tab α) :
    Tab.look d (Tab.drop k t) j = if j = k then d else Tab.look d t j := by
  induction t with
  | nil => simp [Tab.drop, Tab.look]
  | cons c t ih =>
    obtain ⟨k', v⟩ := c
    unfold Tab.drop
    split
    · next h => subst h; rw [ih]; by_cases hj : j = k' <;> simp [Tab.look, hj]; simp [Ne.symm hj]
    · next h =>
      by_cases hj : k' = j
      · subst hj; simp [Tab.look, h]
      · simp [Tab.look, hj, ih]

/-- A removed key is not listed. -/
theorem Tab.not_mem_drop {α : Type} (k : Nat) (t : Tab α) : ∀ c ∈ Tab.drop k t, c.1 ≠ k := by
  induction t with
  | nil => simp [Tab.drop]
  | cons c t ih =>
    obtain ⟨k', v⟩ := c
    unfold Tab.drop
    split
    · exact ih
    · next h =>
      intro x hx
      rcases List.mem_cons.1 hx with rfl | hx
      · exact h
      · exact ih x hx

/-- Reading after placing a pair whose key is not listed. -/
theorem Tab.look_place {α : Type} (d : α) (k j : Nat) (v : α) (t : Tab α) (h : ∀ c ∈ t, c.1 ≠ k) :
    Tab.look d (Tab.place k v t) j = if j = k then v else Tab.look d t j := by
  induction t with
  | nil => by_cases hj : j = k <;> simp [Tab.place, Tab.look, hj]; simp [Ne.symm hj]
  | cons c t ih =>
    obtain ⟨k', v'⟩ := c
    have h1 : k' ≠ k := h (k', v') (by simp)
    have h2 := ih (fun c hc => h c (by simp [hc]))
    unfold Tab.place
    split
    · by_cases hj : j = k <;> simp [Tab.look, hj]; simp [Ne.symm hj]
    · by_cases hj : k' = j
      · subst hj; simp [Tab.look, h1]
      · simp [Tab.look, hj, h2]

/-- Reading after a write: the value written there, and elsewhere what was there. -/
theorem Tab.look_put {α : Type} [DecidableEq α] (d : α) (k j : Nat) (v : α) (t : Tab α) :
    Tab.look d (Tab.put d k v t) j = if j = k then v else Tab.look d t j := by
  unfold Tab.put
  split
  · next h => subst h; exact Tab.look_drop v k j t
  · rw [Tab.look_place d k j v _ (Tab.not_mem_drop k t), Tab.look_drop]
    split <;> rfl

@[simp] theorem Tab.look_put_same {α : Type} [DecidableEq α] (d : α) (k : Nat) (v : α) (t : Tab α) :
    Tab.look d (Tab.put d k v t) k = v := by simp [Tab.look_put]

theorem Tab.look_put_other {α : Type} [DecidableEq α] (d : α) {k j : Nat} (v : α) (t : Tab α) (h : j ≠ k) :
    Tab.look d (Tab.put d k v t) j = Tab.look d t j := by simp [Tab.look_put, h]

/-- Reading after a change. -/
theorem Tab.look_change {α : Type} [DecidableEq α] (d : α) (k j : Nat) (f : α → α) (t : Tab α) :
    Tab.look d (Tab.change d k f t) j = if j = k then f (Tab.look d t k) else Tab.look d t j := by
  simp [Tab.change, Tab.look_put]

/-! ### The canonical form -/

theorem Tab.wfFrom_mono {α : Type} [DecidableEq α] (d : α) {a b : Nat} (h : a ≤ b) (t : Tab α)
    (w : Tab.wfFrom d b t = true) : Tab.wfFrom d a t = true := by
  cases t with
  | nil => rfl
  | cons c t =>
    simp only [Tab.wfFrom, Bool.and_eq_true, decide_eq_true_eq] at w ⊢
    exact ⟨⟨Nat.le_trans h w.1.1, w.1.2⟩, w.2⟩

theorem Tab.wfFrom_filter {α : Type} [DecidableEq α] (d : α) (p : Nat × α → Bool) (a : Nat) (t : Tab α)
    (w : Tab.wfFrom d a t = true) : Tab.wfFrom d a (t.filter p) = true := by
  induction t generalizing a with
  | nil => rfl
  | cons c t ih =>
    simp only [Tab.wfFrom, Bool.and_eq_true, decide_eq_true_eq] at w
    rw [List.filter_cons]
    split
    · simp only [Tab.wfFrom, Bool.and_eq_true, decide_eq_true_eq]
      exact ⟨w.1, ih _ w.2⟩
    · exact Tab.wfFrom_mono d (Nat.le_trans w.1.1 (Nat.le_succ _)) _ (ih _ w.2)

theorem Tab.wfFrom_drop {α : Type} [DecidableEq α] (d : α) (k a : Nat) (t : Tab α) (w : Tab.wfFrom d a t = true) :
    Tab.wfFrom d a (Tab.drop k t) = true := by
  induction t generalizing a with
  | nil => rfl
  | cons c t ih =>
    simp only [Tab.wfFrom, Bool.and_eq_true, decide_eq_true_eq] at w
    unfold Tab.drop
    split
    · exact Tab.wfFrom_mono d (Nat.le_trans w.1.1 (Nat.le_succ _)) _ (ih _ w.2)
    · simp only [Tab.wfFrom, Bool.and_eq_true, decide_eq_true_eq]
      exact ⟨w.1, ih _ w.2⟩

theorem Tab.wfFrom_place {α : Type} [DecidableEq α] (d : α) (k a : Nat) (v : α) (t : Tab α) (hv : v ≠ d) (ha : a ≤ k)
    (hk : ∀ c ∈ t, c.1 ≠ k) (w : Tab.wfFrom d a t = true) : Tab.wfFrom d a (Tab.place k v t) = true := by
  induction t generalizing a with
  | nil => simp [Tab.place, Tab.wfFrom, hv, ha]
  | cons c t ih =>
    obtain ⟨k', v'⟩ := c
    have h1 : k' ≠ k := hk (k', v') (by simp)
    simp only [Tab.wfFrom, Bool.and_eq_true, decide_eq_true_eq] at w
    unfold Tab.place
    split
    · next h =>
      simp only [Tab.wfFrom, Bool.and_eq_true, decide_eq_true_eq]
      exact ⟨⟨ha, hv⟩, ⟨h, w.1.2⟩, w.2⟩
    · next h =>
      simp only [Tab.wfFrom, Bool.and_eq_true, decide_eq_true_eq]
      exact ⟨w.1, ih (k' + 1) (by omega) (fun c hc => hk c (by simp [hc])) w.2⟩

theorem Tab.wf_put {α : Type} [DecidableEq α] (d : α) (k : Nat) (v : α) (t : Tab α) (w : Tab.wf d t = true) :
    Tab.wf d (Tab.put d k v t) = true := by
  unfold Tab.put
  split
  · exact Tab.wfFrom_drop d k 0 t w
  · next h => exact Tab.wfFrom_place d k 0 v _ h (Nat.zero_le k) (Tab.not_mem_drop k t) (Tab.wfFrom_drop d k 0 t w)

theorem Tab.wf_filter {α : Type} [DecidableEq α] (d : α) (p : Nat × α → Bool) (t : Tab α) (w : Tab.wf d t = true) :
    Tab.wf d (t.filter p) = true := Tab.wfFrom_filter d p 0 t w

theorem Tab.wf_change {α : Type} [DecidableEq α] (d : α) (k : Nat) (f : α → α) (t : Tab α) (w : Tab.wf d t = true) :
    Tab.wf d (Tab.change d k f t) = true := Tab.wf_put d k _ t w

/-- A fold of writes keeps the canonical form. -/
theorem Tab.wf_fold {α β : Type} [DecidableEq α] (d : α) (f : Tab α → β → Tab α) (l : List β) (t : Tab α)
    (h : ∀ t x, Tab.wf d t = true → Tab.wf d (f t x) = true) (w : Tab.wf d t = true) : Tab.wf d (l.foldl f t) = true := by
  induction l generalizing t with
  | nil => exact w
  | cons x l ih => exact ih _ (h t x w)

theorem Tab.wf_changeAll {α : Type} [DecidableEq α] (d : α) (ks : List Nat) (f : α → α) (t : Tab α)
    (w : Tab.wf d t = true) : Tab.wf d (Tab.changeAll d ks f t) = true :=
  Tab.wf_fold d _ ks t (fun t k w => Tab.wf_change d k f t w) w

end Sys2Proof.Machine
end

