-- ==== Sys2Proof/Laws/Keeps.lean ====
section
/-! SUPPORT. How the facts of `Keeps` pass through the shapes in which operations are written: a record update, a choice, a
fold, a pair, the result of a write, the outcome of a command. -/

set_option Elab.async false

namespace Sys2Proof.Machine

theorem Keeps.refl (s : State) : Keeps s s :=
  ⟨rfl, Nat.le_refl _, Nat.le_refl _, Nat.le_refl _, fun h => ⟨Nat.le_refl _, h⟩, id, id, id⟩

theorem Keeps.trans {a b c : State} (h : Keeps a b) (g : Keeps b c) : Keeps a c where
  queue := g.queue.trans h.queue
  time := Nat.le_trans h.time g.time
  free := Nat.le_trans h.free g.free
  fuses := Nat.le_trans h.fuses g.fuses
  starts x := ⟨Nat.le_trans (h.starts x).1 (g.starts (h.starts x).2).1, (g.starts (h.starts x).2).2⟩
  memory x := g.memory (h.memory x)
  registers x := g.registers (h.registers x)
  counters x := g.counters (h.counters x)

/-- The memories keep their form one by one. -/
theorem Memory.wf_of {s t : State} (h1 : Tab.wf none s.spad.bytes = true → Tab.wf none t.spad.bytes = true)
    (h2 : Tab.wf false s.spad.poison = true → Tab.wf false t.spad.poison = true)
    (h3 : Tab.wf 0 s.dram.symbols = true → Tab.wf 0 t.dram.symbols = true) (h : Memory.wf s = true) :
    Memory.wf t = true := by
  simp only [Memory.wf, Bool.and_eq_true] at h ⊢
  exact ⟨⟨h1 h.1.1, h2 h.1.2⟩, h3 h.2⟩

/-- An update of any fields but the queue, the clock, the free values and the registers. -/
theorem Keeps.putMemory {a b : State} {hen : Hen} {om : Om} {frame : Frame} {start : Start} {spad : Spad}
    {arith : Arith} {parts : Parts} {dma : Dma} {dram : Dram} {clk : Clk} {host : HostLink} {pho : Pho} {sums : Sums}
    {lanes : Lanes} {las : Las} {ver : Ver} {fab : Fab} {pow : Pow} {sec : Sec} {twin : Twin} (h : Keeps a b)
    (h1 : hen.startNumber = b.hen.startNumber)
    (h2 : Tab.wf none b.spad.bytes = true → Tab.wf none spad.bytes = true)
    (h3 : Tab.wf false b.spad.poison = true → Tab.wf false spad.poison = true)
    (h4 : Tab.wf 0 b.dram.symbols = true → Tab.wf 0 dram.symbols = true) (h5 : sec.svnBlown = b.sec.svnBlown) :
    Keeps a ⟨b.pending, b.now, b.freeDrawn, b.counters, b.dict, hen, om, frame, start, spad, arith, parts, dma, dram,
      clk, host, pho, sums, lanes, las, ver, fab, pow, sec, twin⟩ :=
  h.trans ⟨rfl, Nat.le_refl _, Nat.le_refl _, Nat.le_of_eq h5.symm,
    fun x => ⟨Nat.le_of_eq h1.symm, by rw [h1]; exact x⟩, Memory.wf_of h2 h3 h4, id, id⟩

/-- An update that leaves the memories, the count of starts and the fuses as they are. -/
theorem Keeps.put {a b : State} {hen : Hen} {om : Om} {frame : Frame} {start : Start} {spad : Spad}
    {arith : Arith} {parts : Parts} {dma : Dma} {dram : Dram} {clk : Clk} {host : HostLink} {pho : Pho} {sums : Sums}
    {lanes : Lanes} {las : Las} {ver : Ver} {fab : Fab} {pow : Pow} {sec : Sec} {twin : Twin} (h : Keeps a b)
    (h1 : hen.startNumber = b.hen.startNumber) (h2 : spad.bytes = b.spad.bytes) (h3 : spad.poison = b.spad.poison)
    (h4 : dram.symbols = b.dram.symbols) (h5 : sec.svnBlown = b.sec.svnBlown) :
    Keeps a ⟨b.pending, b.now, b.freeDrawn, b.counters, b.dict, hen, om, frame, start, spad, arith, parts, dma, dram,
      clk, host, pho, sums, lanes, las, ver, fab, pow, sec, twin⟩ :=
  h.putMemory h1 (by rw [h2]; exact id) (by rw [h3]; exact id) (by rw [h4]; exact id) h5

/-- A start is counted. -/
theorem Keeps.putStart {a b : State} {hen : Hen} {om : Om} {frame : Frame} {start : Start} {spad : Spad}
    {arith : Arith} {parts : Parts} {dma : Dma} {dram : Dram} {clk : Clk} {host : HostLink} {pho : Pho} {sums : Sums}
    {lanes : Lanes} {las : Las} {ver : Ver} {fab : Fab} {pow : Pow} {sec : Sec} {twin : Twin} (h : Keeps a b)
    (h1 : hen.startNumber = satAdd 32 b.hen.startNumber 1) (h2 : spad.bytes = b.spad.bytes)
    (h3 : spad.poison = b.spad.poison) (h4 : dram.symbols = b.dram.symbols) (h5 : sec.svnBlown = b.sec.svnBlown) :
    Keeps a ⟨b.pending, b.now, b.freeDrawn, b.counters, b.dict, hen, om, frame, start, spad, arith, parts, dma, dram,
      clk, host, pho, sums, lanes, las, ver, fab, pow, sec, twin⟩ := by
  refine h.trans ⟨rfl, Nat.le_refl _, Nat.le_refl _, Nat.le_of_eq h5.symm, fun x => ?_, ?_, id, id⟩
  · simp only [h1, satAdd]; omega
  · exact Memory.wf_of (by rw [h2]; exact id) (by rw [h3]; exact id) (by rw [h4]; exact id)

/-- Fuses are blown. -/
theorem Keeps.putFuses {a b : State} {hen : Hen} {om : Om} {frame : Frame} {start : Start} {spad : Spad}
    {arith : Arith} {parts : Parts} {dma : Dma} {dram : Dram} {clk : Clk} {host : HostLink} {pho : Pho} {sums : Sums}
    {lanes : Lanes} {las : Las} {ver : Ver} {fab : Fab} {pow : Pow} {sec : Sec} {twin : Twin} {n : Nat} (h : Keeps a b)
    (h1 : hen.startNumber = b.hen.startNumber) (h2 : spad.bytes = b.spad.bytes) (h3 : spad.poison = b.spad.poison)
    (h4 : dram.symbols = b.dram.symbols) (h5 : sec.svnBlown = max (fusedSvn b) n) :
    Keeps a ⟨b.pending, b.now, b.freeDrawn, b.counters, b.dict, hen, om, frame, start, spad, arith, parts, dma, dram,
      clk, host, pho, sums, lanes, las, ver, fab, pow, sec, twin⟩ := by
  refine h.trans ⟨rfl, Nat.le_refl _, Nat.le_refl _, ?_, fun x => ⟨Nat.le_of_eq h1.symm, by rw [h1]; exact x⟩, ?_, id, id⟩
  · simp only [h5, fusedSvn]; omega
  · exact Memory.wf_of (by rw [h2]; exact id) (by rw [h3]; exact id) (by rw [h4]; exact id)

/-- A choice. -/
theorem Keeps.ite {c : Prop} [Decidable c] {a x y : State} (hx : c → Keeps a x) (hy : ¬c → Keeps a y) :
    Keeps a (if c then x else y) := by
  split
  · exact hx ‹_›
  · exact hy ‹_›

/-- A fold over a list. -/
theorem Keeps.fold {α : Type} {a b : State} {f : State → α → State} {l : List α} (h : Keeps a b)
    (g : ∀ s x, Keeps a s → Keeps a (f s x)) : Keeps a (l.foldl f b) := by
  induction l generalizing b with
  | nil => exact h
  | cons x l ih => exact ih (g b x h)

/-- A fold over a list that carries a value beside the state. -/
theorem Keeps.foldPair {α β : Type} {a : State} {b : β × State} {f : β × State → α → β × State} {l : List α}
    (h : Keeps a b.2) (g : ∀ p x, Keeps a p.2 → Keeps a (f p x).2) : Keeps a (l.foldl f b).2 := by
  induction l generalizing b with
  | nil => exact h
  | cons x l ih => exact ih (g b x h)

/-- A fold that carries two values beside the state. -/
theorem Keeps.foldTriple {α β γ : Type} {a : State} {b : β × γ × State} {f : β × γ × State → α → β × γ × State}
    {l : List α} (h : Keeps a b.2.2) (g : ∀ p x, Keeps a p.2.2 → Keeps a (f p x).2.2) :
    Keeps a (l.foldl f b).2.2 := by
  induction l generalizing b with
  | nil => exact h
  | cons x l ih => exact ih (g b x h)

/-- A named intermediate state. -/
theorem Keeps.mid {a : State} {p : Prop} (s : State) (h : Keeps a s) (g : Keeps a s → p) : p := g h

/-- The state of a pair that is known by its parts. -/
theorem Keeps.ofPair1 {α : Type} {a t : State} {d : α × State} {x : α} {p : Prop} (e : d = (x, t)) (h : Keeps a d.2)
    (g : Keeps a t → p) : p := g (by rw [e] at h; exact h)

theorem Keeps.ofPair2 {α β : Type} {a t : State} {d : α × β × State} {x : α} {y : β} {p : Prop} (e : d = (x, y, t))
    (h : Keeps a d.2.2) (g : Keeps a t → p) : p := g (by rw [e] at h; exact h)

theorem Keeps.ofPair3 {α β γ : Type} {a t : State} {d : α × β × γ × State} {x : α} {y : β} {z : γ} {p : Prop}
    (e : d = (x, y, z, t)) (h : Keeps a d.2.2.2) (g : Keeps a t → p) : p := g (by rw [e] at h; exact h)

/-- The same of an optional state. -/
inductive OptKeeps (a : State) : Option State → Prop
  | none : OptKeeps a none
  | some {t : State} (h : Keeps a t) : OptKeeps a (some t)

theorem OptKeeps.out {a t : State} {d : Option State} {p : Prop} (e : d = .some t) (h : OptKeeps a d)
    (g : Keeps a t → p) : p := by
  subst e
  cases h with
  | some h => exact g h

theorem OptKeeps.or {a : State} {x y : Option State} (hx : OptKeeps a x) (hy : OptKeeps a y) : OptKeeps a (x.or y) := by
  cases hx with
  | none => simpa using hy
  | some h => exact .some h

/-- The same of an optional pair. -/
inductive OptPairKeeps {α : Type} (a : State) : Option (α × State) → Prop
  | none : OptPairKeeps a none
  | some {t : α × State} (h : Keeps a t.2) : OptPairKeeps a (some t)

theorem OptPairKeeps.map {α β : Type} {a : State} {f : β → α × State} {o : Option β} (h : ∀ x, Keeps a (f x).2) :
    OptPairKeeps a (o.map f) := by
  cases o with
  | none => exact .none
  | some x => exact .some (h x)

theorem OptPairKeeps.out {α : Type} {a t : State} {x : α} {d : Option (α × State)} {p : Prop} (e : d = .some (x, t))
    (h : OptPairKeeps a d) (g : Keeps a t → p) : p := by
  subst e
  cases h with
  | some h => exact g h

/-- The same of the result of a write. -/
inductive WKeeps (a : State) : WriteResult → Prop
  | done {t : State} (h : Keeps a t) : WKeeps a (.done t)
  | wait {n : Nat} {t : State} (h : Keeps a t) : WKeeps a (.wait n t)
  | refuse {status : BitVec 8} {detail : Nat} : WKeeps a (.refuse status detail)
  | failed {t : State} (h : Keeps a t) : WKeeps a (.failed t)

theorem WKeeps.outDone {a t : State} {d : WriteResult} {p : Prop} (e : d = .done t) (h : WKeeps a d)
    (g : Keeps a t → p) : p := by
  subst e
  cases h with
  | done h => exact g h

theorem WKeeps.outWait {a t : State} {n : Nat} {d : WriteResult} {p : Prop} (e : d = .wait n t) (h : WKeeps a d)
    (g : Keeps a t → p) : p := by
  subst e
  cases h with
  | wait h => exact g h

theorem WKeeps.outFailed {a t : State} {d : WriteResult} {p : Prop} (e : d = .failed t) (h : WKeeps a d)
    (g : Keeps a t → p) : p := by
  subst e
  cases h with
  | failed h => exact g h

/-- The same of the outcome of a command. -/
def OutKeeps (a : State) (o : Host.Outcome State Fault Refusal) : Prop := ∀ t, o = .next t → Keeps a t

theorem OutKeeps.next {a t : State} (h : Keeps a t) : OutKeeps a (.next t) := fun _ e => by cases e; exact h

/-! ### The operations that the shapes do not cover -/

theorem draw_keeps {s0 s : State} (h : Keeps s0 s) : Keeps s0 (draw s).2 :=
  h.trans ⟨rfl, Nat.le_refl _, Nat.le_succ _, Nat.le_refl _, fun x => ⟨Nat.le_refl _, x⟩, id, id, id⟩

theorem drawBytes_keeps {s0 : State} {n : Nat} {s : State} (h : Keeps s0 s) : Keeps s0 (drawBytes n s).2 :=
  h.trans ⟨rfl, Nat.le_refl _, Nat.le_add_right _ _, Nat.le_refl _, fun x => ⟨Nat.le_refl _, x⟩, id, id, id⟩

theorem advanceTo_keeps {s0 : State} {t : Nat} {s : State} (h : Keeps s0 s) : Keeps s0 (advanceTo t s) :=
  h.trans ⟨rfl, Nat.le_max_left _ _, Nat.le_refl _, Nat.le_refl _, fun x => ⟨Nat.le_refl _, x⟩, id, id, id⟩

theorem raise_keeps {s0 : State} {code : Nat} {items : List (Option Bytes)} {s : State} (h : Keeps s0 s) :
    Keeps s0 (raise code items s) := by
  unfold raise
  exact h.put rfl rfl rfl rfl rfl

/-- A counter takes a value that fits. -/
theorem Keeps.putCounter {a s : State} {key v : Nat} (h : Keeps a s) (hv : v < 2 ^ 64) :
    Keeps a { s with counters := Tab.put 0 key v s.counters } := by
  refine h.trans ⟨rfl, Nat.le_refl _, Nat.le_refl _, Nat.le_refl _, fun x => ⟨Nat.le_refl _, x⟩, id, ?_, ?_⟩
  · intro w
    simp only [Registers.wf, Bool.and_eq_true] at w ⊢
    exact ⟨Tab.wf_put 0 key v _ w.1, w.2⟩
  · intro w k
    unfold counter
    rw [Tab.look_put]
    split
    · exact hv
    · exact w k

theorem count32_keeps {s0 : State} {key n : Nat} {s : State} (h : Keeps s0 s) : Keeps s0 (count32 key n s) := by
  have hv : satAdd 32 (counter s key) n < 2 ^ 64 := by unfold satAdd; omega
  have h' := h.putCounter (key := key) hv
  unfold count32
  refine Keeps.ite (fun _ => raise_keeps ?_) (fun _ => h')
  exact h'.put rfl rfl rfl rfl rfl

theorem count64_keeps {s0 : State} {key n : Nat} {s : State} (h : Keeps s0 s) : Keeps s0 (count64 key n s) :=
  h.putCounter (Nat.mod_lt _ (by decide))

theorem setDict_keeps {s0 : State} {key : Nat} {v : Bytes} {s : State} (h : Keeps s0 s) : Keeps s0 (setDict key v s) := by
  unfold setDict
  have main : ∀ t, Keeps s0 t → Keeps s0 { t with dict := Tab.put [] key v t.dict } := by
    intro t ht
    refine ht.trans ⟨rfl, Nat.le_refl _, Nat.le_refl _, Nat.le_refl _, fun x => ⟨Nat.le_refl _, x⟩, id, ?_, id⟩
    intro w
    simp only [Registers.wf, Bool.and_eq_true] at w ⊢
    exact ⟨w.1, Tab.wf_put [] key v _ w.2⟩
  refine main _ (Keeps.ite (fun _ => ?_) (fun _ => h))
  exact h.put rfl rfl rfl rfl rfl

theorem undefineUnit_keeps {s0 : State} {u : Nat} {s : State} (h : Keeps s0 s) : Keeps s0 (undefineUnit u s) :=
  h.trans ⟨rfl, Nat.le_refl _, Nat.le_succ _, Nat.le_refl _, fun x => ⟨Nat.le_refl _, x⟩,
    Memory.wf_of (fun w => Tab.wf_filter _ _ _ w) id id, id, id⟩

/-- Writing bytes keeps the form of the scratchpads. -/
theorem putBytes_wf (key : Nat) (data : Bytes) (undef : Tab Nat) (t : Tab (Option Byte)) (w : Tab.wf none t = true) :
    Tab.wf none (putBytes key data undef t) = true := by
  unfold putBytes
  have main : ∀ (l : Bytes) (a : Nat × Tab (Option Byte)), Tab.wf none a.2 = true →
      Tab.wf none (l.foldl (fun (acc : Nat × Tab (Option Byte)) b =>
        (acc.1 + 1, Tab.put none acc.1 (if b = 0 ∧ Tab.look 0 undef (acc.1 / 2 ^ 17) = 0 then none else some b) acc.2))
        a).2 = true := by
    intro l
    induction l with
    | nil => exact fun _ w => w
    | cons b l ih => exact fun a w => ih _ (Tab.wf_put _ _ _ _ w)
  exact main data (key, t) w

theorem spadWrite_keeps {s0 : State} {key : Nat} {data : Bytes} {poisoned : Bool} {s : State} (h : Keeps s0 s) :
    Keeps s0 (spadWrite key data poisoned s) := by
  unfold spadWrite
  refine h.putMemory rfl (putBytes_wf _ _ _ _) (fun w => ?_) id rfl
  dsimp only
  split
  · exact Tab.wf_changeAll _ _ _ _ w
  · exact Tab.wf_changeAll _ _ _ _ w

theorem clearCluster_keeps {s0 : State} {t k : Nat} {s : State} (h : Keeps s0 s) : Keeps s0 (clearCluster t k s) := by
  unfold clearCluster
  exact h.putMemory rfl (Tab.wf_filter _ _ _) (Tab.wf_filter _ _ _) id rfl

theorem badWord_keeps {s0 : State} {t k bank word : Nat} {s : State} (h : Keeps s0 s) :
    Keeps s0 (badWord t k bank word s) := by
  have h' := raise_keeps (code := 0x3422) (items := [b1 t, b1 k, b1 bank]) (count32_keeps (key := 0x342005) (n := 1)
    (h.putMemory (hen := s.hen) (spad := { s.spad with
      poison := Tab.put false word true s.spad.poison
      badWords := s.spad.badWords ++
        [{ cluster := clusterKey t k, bank := bank, word := word, frame := s.frame.count }] }) (dram := s.dram)
      (sec := s.sec) (om := s.om) (frame := s.frame) (start := s.start) (arith := s.arith) (parts := s.parts)
      (dma := s.dma) (clk := s.clk) (host := s.host) (pho := s.pho) (sums := s.sums) (lanes := s.lanes) (las := s.las)
      (ver := s.ver) (fab := s.fab) (pow := s.pow) (twin := s.twin) rfl id (fun w => Tab.wf_put false word true _ w) id rfl))
  unfold badWord
  refine Keeps.ite (fun _ => ?_) (fun _ => h')
  unfold retireBank
  refine Keeps.ite (fun _ => h') (fun _ => raise_keeps (h'.put rfl rfl rfl rfl rfl))

theorem chunkFault_keeps {s0 : State} {t k bank : Nat} {f : ChunkFault} {s : State} (h : Keeps s0 s) :
    Keeps s0 (chunkFault t k bank f s) := by
  unfold chunkFault
  refine Keeps.ite (fun _ => ?_) (fun _ => raise_keeps (count32_keeps h))
  exact badWord_keeps ((drawBytes_keeps h).putMemory rfl (putBytes_wf _ _ _ _) id id rfl)

theorem storeWord_keeps {s0 : State} {line : Nat} {word : List Nat} {s : State} (h : Keeps s0 s) :
    Keeps s0 (storeWord line word s) := by
  unfold storeWord
  exact h.putMemory rfl id id (Tab.wf_fold _ _ _ _ (fun _ _ w => Tab.wf_put _ _ _ _ w)) rfl

theorem upsetWord_keeps {s0 : State} {line : Nat} {upsets : List (Fin 72 × Byte)} {s : State} (h : Keeps s0 s) :
    Keeps s0 (upsetWord line upsets s) := by
  unfold upsetWord
  exact h.putMemory rfl id id (Tab.wf_fold _ _ _ _ (fun _ _ w => Tab.wf_change _ _ _ _ w)) rfl

theorem zeroLines_keeps {s0 : State} {t n : Nat} {s : State} (h : Keeps s0 s) : Keeps s0 (zeroLines t n s) := by
  unfold zeroLines
  exact h.putMemory rfl id id (fun w => Tab.wf_filter _ _ _ w) rfl

theorem tabMerge_wf {α : Type} [DecidableEq α] (d : α) (x t : Tab α) (w : Tab.wf d t = true) :
    Tab.wf d (tabMerge d x t) = true := Tab.wf_fold _ _ _ _ (fun _ _ w => Tab.wf_put _ _ _ _ w) w

theorem restoreContext_keeps {s0 : State} {img : Bytes} {c : Context} {s : State} (h : Keeps s0 s) :
    Keeps s0 (restoreContext img c s) := by
  unfold restoreContext
  refine Keeps.putMemory (Keeps.fold h (fun t x ht => undefineUnit_keeps ht)) rfl ?_ ?_ id rfl
  · exact fun w => tabMerge_wf _ _ _ (Tab.wf_filter _ _ _ w)
  · exact fun w => tabMerge_wf _ _ _ (Tab.wf_filter _ _ _ w)

/-- A stop empties the memories and the registers, and keeps NVM and the fuses. -/
theorem stopDevice_keeps {s0 : State} {k : StopKind} {s : State} (h : Keeps s0 s) : Keeps s0 (stopDevice k s) := by
  have hn : (stoppedHen k s.hen).startNumber = s.hen.startNumber := by unfold stoppedHen; split <;> rfl
  refine h.trans ⟨rfl, Nat.le_refl _, Nat.le_refl _, ?_, fun x => ?_, fun _ => rfl, fun _ => rfl, fun _ _ => ?_⟩
  · show s.sec.svnBlown ≤ (stoppedSec _ _ _ _).svnBlown
    unfold stoppedSec
    dsimp only
    split <;> exact Nat.le_refl _
  · show _ ≤ (stoppedHen k s.hen).startNumber ∧ (stoppedHen k s.hen).startNumber < _
    rw [hn]
    exact ⟨Nat.le_refl _, x⟩
  · exact Nat.two_pow_pos 64

end Sys2Proof.Machine
end

