-- ==== Sys2Proof/Laws/KeepsOps.lean ====
section
/-! SUPPORT. What the operations of Machine/Ops.lean keep: one lemma for each. -/

set_option Elab.async false

namespace Sys2Proof.Machine

theorem reportFull_keeps {s0 : State} {key : Nat} {v : Nat} {s : State} (h : Keeps s0 s) :
    Keeps s0 (reportFull key v s) := by
  unfold reportFull
  exact Keeps.ite (fun _ => raise_keeps (Keeps.put h rfl rfl rfl rfl rfl)) (fun _ => h)

theorem setDictNat_keeps {s0 : State} {key : Nat} {n : Nat} {v : Nat} {s : State} (h : Keeps s0 s) :
    Keeps s0 (setDictNat key n v s) := by
  unfold setDictNat
  exact setDict_keeps h

theorem changeLink_keeps {s0 : State} {n : Nat} {f : LinkRec → LinkRec} {s : State} (h : Keeps s0 s) :
    Keeps s0 (changeLink n f s) := by
  unfold changeLink
  exact Keeps.put h rfl rfl rfl rfl rfl

theorem raiseIf_keeps {s0 : State} {c : Bool} {code : Nat} {items : List (Option Bytes)} {s : State}
    (h : Keeps s0 s) :
    Keeps s0 (raiseIf c code items s) := by
  unfold raiseIf
  exact Keeps.ite (fun _ => raise_keeps h) (fun _ => h)

theorem changeBundle_keeps {s0 : State} {t : Nat} {n : Nat} {f : Bundle → Bundle} {s : State} (h : Keeps s0 s) :
    Keeps s0 (changeBundle t n f s) := by
  unfold changeBundle
  exact Keeps.put h rfl rfl rfl rfl rfl

theorem dropUnits_keeps {s0 : State} {us : List PkgUnit} {s : State} (h : Keeps s0 s) :
    Keeps s0 (dropUnits us s) := by
  unfold dropUnits
  exact Keeps.put h rfl rfl rfl rfl rfl

theorem addUnit_keeps {s0 : State} {u : PkgUnit} {s : State} (h : Keeps s0 s) : Keeps s0 (addUnit u s) := by
  unfold addUnit
  exact Keeps.ite (fun _ => h) (fun _ => Keeps.put h rfl rfl rfl rfl rfl)

end Sys2Proof.Machine
end

