-- ==== Sys2Proof/Laws/KeepsHostOps.lean ====
section
/-! SUPPORT. What the operations of Machine/HostOps.lean keep: one lemma for each. -/

set_option Elab.async false

namespace Sys2Proof.Machine

theorem changeQueue_keeps {s0 : State} {p : Nat} {f : QueueSet → QueueSet} {s : State} (h : Keeps s0 s) :
    Keeps s0 (changeQueue p f s) := by
  unfold changeQueue
  exact Keeps.put h rfl rfl rfl rfl rfl

theorem changeFunction_keeps {s0 : State} {f : Nat} {g : FunctionBlock → FunctionBlock} {s : State}
    (h : Keeps s0 s) :
    Keeps s0 (changeFunction f g s) := by
  unfold changeFunction
  exact Keeps.put h rfl rfl rfl rfl rfl

theorem postWrite_keeps {s0 : State} {w : HostWrite} {s : State} (h : Keeps s0 s) :
    Keeps s0 (postWrite w s) := by
  unfold postWrite
  exact Keeps.put h rfl rfl rfl rfl rfl

theorem sendVector_keeps {s0 : State} {f : Nat} {vec : Nat} {s : State} (h : Keeps s0 s) :
    Keeps s0 (sendVector f vec s) := by
  unfold sendVector
  refine Keeps.ite (fun _ => ?_) (fun _ => ?_)
  · exact h
  · exact Keeps.ite (fun _ => changeFunction_keeps h) (fun _ => postWrite_keeps h)

theorem signalCompletion_keeps {s0 : State} {p : Nat} {s : State} (h : Keeps s0 s) :
    Keeps s0 (signalCompletion p s) := by
  unfold signalCompletion
  extract_lets v1 v2
  exact Keeps.ite (fun _ => changeQueue_keeps h) (fun _ => sendVector_keeps (changeQueue_keeps h))

theorem writeShadow_keeps {s0 : State} {p : Nat} {s : State} (h : Keeps s0 s) : Keeps s0 (writeShadow p s) := by
  unfold writeShadow
  extract_lets v1
  exact postWrite_keeps h

theorem ringWrite_keeps {s0 : State} {p : Nat} {r : Bytes} {s : State} (h : Keeps s0 s) :
    Keeps s0 (ringWrite p r s) := by
  unfold ringWrite
  extract_lets v1 v2
  refine Keeps.mid (a := s0) v2 ?_ (fun h3 => ?_)
  · unfold v2
    exact postWrite_keeps h
  clear_value v2
  exact changeQueue_keeps h3

theorem postRecord_keeps {s0 : State} {p : Nat} {r : Bytes} {s : State} (h : Keeps s0 s) :
    Keeps s0 (postRecord p r s) := by
  unfold postRecord
  extract_lets v1 v2
  refine Keeps.mid (a := s0) v2 ?_ (fun h3 => ?_)
  · unfold v2
    exact changeQueue_keeps h
  clear_value v2
  refine Keeps.ite (fun _ => ?_) (fun _ => ?_)
  · exact h
  · refine Keeps.ite (fun _ => ?_) (fun _ => ?_)
    · exact Keeps.ite (fun _ => h) (fun _ => raiseIf_keeps h3)
    · exact signalCompletion_keeps (writeShadow_keeps (ringWrite_keeps h))

theorem signalFault_keeps {s0 : State} {p : Nat} {s : State} (h : Keeps s0 s) : Keeps s0 (signalFault p s) := by
  unfold signalFault
  extract_lets v1 v2
  exact Keeps.ite (fun _ => changeQueue_keeps h) (fun _ => sendVector_keeps (changeQueue_keeps h))

theorem notify_keeps {s0 : State} {bit : Nat} {s : State} (h : Keeps s0 s) : Keeps s0 (notify bit s) := by
  unfold notify
  extract_lets v1
  refine Keeps.fold ?_ (fun s2 x3 h4 => ?_)
  · exact h
  · extract_lets v5 v6
    refine Keeps.mid (a := s0) v6 ?_ (fun h7 => ?_)
    · unfold v6
      exact Keeps.ite (fun _ => h4) (fun _ => changeFunction_keeps h4)
    clear_value v6
    exact Keeps.ite (fun _ => h7) (fun _ => sendVector_keeps h7)

end Sys2Proof.Machine
end

