-- ==== Sys2Proof/Laws/KeepsWork.lean ====
section
/-! SUPPORT. What the operations of Machine/Work.lean keep: one lemma for each. -/

set_option Elab.async false

namespace Sys2Proof.Machine

theorem changePart_keeps {s0 : State} {p : Nat} {f : Part → Part} {s : State} (h : Keeps s0 s) :
    Keeps s0 (changePart p f s) := by
  unfold changePart
  exact Keeps.put h rfl rfl rfl rfl rfl

theorem checkHalfSlack_keeps {s0 : State} {t : Nat} {r : Nat} {s : State} (h : Keeps s0 s) :
    Keeps s0 (checkHalfSlack t r s) := by
  unfold checkHalfSlack
  split
  · exact h
  · split
    · exact h
    · refine Keeps.ite (fun _ => ?_) (fun _ => ?_)
      · refine raise_keeps ?_
        extract_lets v11 v12
        refine Keeps.mid (a := s0) v11 ?_ (fun h13 => ?_)
        · unfold v11
          exact changePart_keeps h
        clear_value v11
        exact Keeps.put h13 rfl rfl rfl rfl rfl
      · exact h

theorem setDebt_keeps {s0 : State} {t : Nat} {r : Nat} {n : Nat} {s : State} (h : Keeps s0 s) :
    Keeps s0 (setDebt t r n s) := by
  unfold setDebt
  exact Keeps.put h rfl rfl rfl rfl rfl

theorem addDebt_keeps {s0 : State} {t : Nat} {r : Nat} {n : Nat} {s : State} (h : Keeps s0 s) :
    Keeps s0 (addDebt t r n s) := by
  unfold addDebt
  exact Keeps.ite (fun _ => h) (fun _ => checkHalfSlack_keeps (setDebt_keeps h))

theorem changeRun_keeps {s0 : State} {p : Nat} {id : BitVec 32} {f : Run → Run} {s : State} (h : Keeps s0 s) :
    Keeps s0 (changeRun p id f s) := by
  unfold changeRun
  exact Keeps.put h rfl rfl rfl rfl rfl

theorem changeTask_keeps {s0 : State} {p : Nat} {id : BitVec 32} {i : Nat} {f : Task → Task} {s : State}
    (h : Keeps s0 s) :
    Keeps s0 (changeTask p id i f s) := by
  unfold changeTask
  exact changeRun_keeps h

theorem changeTaskOn_keeps {s0 : State} {t : Nat} {k : Nat} {f : Task → Task} {s : State} (h : Keeps s0 s) :
    Keeps s0 (changeTaskOn t k f s) := by
  unfold changeTaskOn
  split
  · exact h
  · exact changeTask_keeps h

theorem stallRegion_keeps {s0 : State} {t : Nat} {k : Nat} {n : Nat} {s : State} (h : Keeps s0 s) :
    Keeps s0 (stallRegion t k n s) := by
  unfold stallRegion
  exact addDebt_keeps (changeTaskOn_keeps h)

theorem setTaskFlags_keeps {s0 : State} {t : Nat} {k : Nat} {flags : BitVec 8} {s : State} (h : Keeps s0 s) :
    Keeps s0 (setTaskFlags t k flags s) := by
  unfold setTaskFlags
  exact Keeps.ite (fun _ => h) (fun _ => changeTaskOn_keeps h)

theorem strideFor_keeps {s0 : State} {p : Nat} {s : State} (h : Keeps s0 s) : Keeps s0 (strideFor p s) := by
  unfold strideFor
  split
  · exact h
  · extract_lets v6
    exact Keeps.ite (fun _ => h) (fun _ => raise_keeps (changePart_keeps h))

theorem reportRun_keeps {s0 : State} {r : Run} {code : Nat} {reason : Nat} {s : State} (h : Keeps s0 s) :
    Keeps s0 (reportRun r code reason s) := by
  unfold reportRun
  exact postRecord_keeps h

theorem dropRun_keeps {s0 : State} {p : Nat} {id : BitVec 32} {s : State} (h : Keeps s0 s) :
    Keeps s0 (dropRun p id s) := by
  unfold dropRun
  exact Keeps.put h rfl rfl rfl rfl rfl

theorem holdRegion_keeps {s0 : State} {t : Nat} {k : Nat} {n : Nat} {s : State} (h : Keeps s0 s) :
    Keeps s0 (holdRegion t k n s) := by
  unfold holdRegion
  exact stallRegion_keeps (count64_keeps h)

theorem holdSender_keeps {s0 : State} {t : Nat} {recv : Nat} {send : Nat} {s : State} (h : Keeps s0 s) :
    Keeps s0 (holdSender t recv send s) := by
  unfold holdSender
  extract_lets v1
  exact Keeps.ite (fun _ => h) (fun _ => raise_keeps (holdRegion_keeps h))

theorem holdReceiver_keeps {s0 : State} {t : Nat} {send : Nat} {recv : Nat} {s : State} (h : Keeps s0 s) :
    Keeps s0 (holdReceiver t send recv s) := by
  unfold holdReceiver
  extract_lets v1
  exact Keeps.ite (fun _ => h) (fun _ => holdRegion_keeps h)

theorem crossLine_keeps {s0 : State} {t : Nat} {send : Nat} {recv : Nat} {s : State} (h : Keeps s0 s) :
    Keeps s0 (crossLine t send recv s) := by
  unfold crossLine
  exact holdReceiver_keeps (holdSender_keeps h)

theorem reportTask_keeps {s0 : State} {r : Run} {i : Nat} {s : State} (h : Keeps s0 s) :
    Keeps s0 (reportTask r i s) := by
  unfold reportTask
  extract_lets v1 v2
  exact postRecord_keeps h

theorem spendPhases_keeps {s0 : State} {p : Nat} {img : Bytes} {x : Task} {i : Nat} {s : State} (h : Keeps s0 s)
    :
    Keeps s0 (spendPhases p img x i s) := by
  unfold spendPhases
  extract_lets v1 v2
  exact changePart_keeps h

theorem reportCommand_keeps {s0 : State} {p : Nat} {run : BitVec 32} {code : Nat} {reason : Nat}
    {argument : Nat} {s : State} (h : Keeps s0 s) :
    Keeps s0 (reportCommand p run code reason argument s) := by
  unfold reportCommand
  exact postRecord_keeps h

end Sys2Proof.Machine
end

