-- ==== Sys2Proof/Laws/KeepsTaskOps.lean ====
section
/-! SUPPORT. What the operations of Machine/TaskOps.lean keep: one lemma for each. -/

set_option Elab.async false

namespace Sys2Proof.Machine

theorem discardContext_keeps {s0 : State} {p : Nat} {id : BitVec 32} {s : State} (h : Keeps s0 s) :
    Keeps s0 (discardContext p id s) := by
  unfold discardContext
  extract_lets v1 v2 v3
  exact Keeps.put h rfl rfl rfl rfl rfl

theorem releaseRun_keeps {s0 : State} {p : Nat} {id : BitVec 32} {code : Nat} {reason : Nat} {stopped : Bool}
    {s : State} (h : Keeps s0 s) :
    Keeps s0 (releaseRun p id code reason stopped s) := by
  unfold releaseRun
  split
  · exact h
  · extract_lets v6 v7
    refine Keeps.mid (a := s0) v6 ?_ (fun h8 => ?_)
    · unfold v6
      exact reportRun_keeps h
    clear_value v6
    refine Keeps.mid (a := s0) v7 ?_ (fun h9 => ?_)
    · unfold v7
      exact raiseIf_keeps h8
    clear_value v7
    exact dropRun_keeps (discardContext_keeps h9)

theorem resolveRoots_keeps {s0 : State} {p : Nat} {id : BitVec 32} {s : State} (h : Keeps s0 s) :
    Keeps s0 (resolveRoots p id s) := by
  unfold resolveRoots
  split
  · exact h
  · extract_lets v6 v7 v8
    refine Keeps.mid (a := s0) v8 ?_ (fun h9 => ?_)
    · unfold v8
      exact changeRun_keeps h
    clear_value v8
    exact Keeps.fold h9 (fun _ _ h12 => changeTask_keeps h12)

theorem markFault_keeps {s0 : State} {p : Nat} {id : BitVec 32} {i : Nat} {fault : Nat} {code : Nat} {s : State}
    (h : Keeps s0 s) :
    Keeps s0 (markFault p id i fault code s) := by
  unfold markFault
  split
  · exact h
  · extract_lets v6 v7 v8 v9
    refine Keeps.mid (a := s0) v7 ?_ (fun h10 => ?_)
    · unfold v7
      exact changeTask_keeps h
    clear_value v7
    refine Keeps.mid (a := s0) v8 ?_ (fun h11 => ?_)
    · unfold v8
      exact raise_keeps h10
    clear_value v8
    refine Keeps.mid (a := s0) v9 ?_ (fun h12 => ?_)
    · unfold v9
      split
      · exact h11
      · exact reportTask_keeps h11
    clear_value v9
    exact Keeps.ite (fun _ => h12) (fun _ => changeRun_keeps h12)

theorem endOne_keeps {s0 : State} {p : Nat} {id : BitVec 32} {i : Nat} {s : State} (h : Keeps s0 s) :
    Keeps s0 (endOne p id i s).2 := by
  unfold endOne
  split
  · dsimp only
    exact h
  · extract_lets v6 v7 v8 v9 v10 v11 v12 v13 v14
    refine Keeps.mid (a := s0) v8 ?_ (fun h15 => ?_)
    · unfold v8
      exact Keeps.ite (fun _ => spendPhases_keeps h) (fun _ => h)
    clear_value v8
    refine Keeps.mid (a := s0) v9 ?_ (fun h16 => ?_)
    · unfold v9
      exact changeTask_keeps h15
    clear_value v9
    refine Keeps.mid (a := s0) v10 ?_ (fun h17 => ?_)
    · unfold v10
      exact changeRun_keeps h16
    clear_value v10
    dsimp only
    exact Keeps.put h17 rfl rfl rfl rfl rfl

theorem checkIteration_keeps {s0 : State} {p : Nat} {id : BitVec 32} {s : State} (h : Keeps s0 s) :
    Keeps s0 (checkIteration p id s) := by
  unfold checkIteration
  split
  · exact h
  · extract_lets v6
    refine Keeps.ite (fun _ => ?_) (fun _ => ?_)
    · exact h
    · refine Keeps.ite (fun _ => ?_) (fun _ => ?_)
      · exact Keeps.ite (fun _ => releaseRun_keeps h) (fun _ => changeRun_keeps h)
      · exact h

theorem reportEnd_keeps {s0 : State} {p : Nat} {id : BitVec 32} {i : Nat} {s : State} (h : Keeps s0 s) :
    Keeps s0 (reportEnd p id i s) := by
  unfold reportEnd
  split
  · exact h
  · extract_lets v6
    exact Keeps.ite (fun _ => reportTask_keeps h) (fun _ => h)

theorem finishOne_keeps {s0 : State} {p : Nat} {id : BitVec 32} {i : Nat} {s : State} (h : Keeps s0 s) :
    Keeps s0 (finishOne p id i s).2 := by
  unfold finishOne
  exact endOne_keeps (reportEnd_keeps h)

theorem queueDescs_keeps {s0 : State} {t : Nat} {e : Nat} {p : Nat} {id : BitVec 32} {own : Bool}
    {ds : List (BitVec 512)} {s : State} (h : Keeps s0 s) :
    Keeps s0 (queueDescs t e p id own ds s) := by
  unfold queueDescs
  extract_lets v1 v2
  exact Keeps.put h rfl rfl rfl rfl rfl

theorem skipTask_keeps {s0 : State} {p : Nat} {id : BitVec 32} {i : Nat} {s : State} (h : Keeps s0 s) :
    Keeps s0 (skipTask p id i s).2 := by
  unfold skipTask
  split
  · dsimp only
    exact h
  · extract_lets v6 v7 v8 v9 v10 v11 v12
    refine Keeps.mid (a := s0) v7 ?_ (fun h13 => ?_)
    · unfold v7
      exact changeTask_keeps h
    clear_value v7
    refine Keeps.mid (a := s0) v10 ?_ (fun h14 => ?_)
    · unfold v10
      exact markFault_keeps h13
    clear_value v10
    split
    · exact finishOne_keeps h13
    · split
      · split
        · exact endOne_keeps h14
        · dsimp only
          exact h14
      · dsimp only
        exact queueDescs_keeps h13

theorem arriveOne_keeps {s0 : State} {p : Nat} {id : BitVec 32} {i : Nat} {truth : Bool} {s : State}
    (h : Keeps s0 s) :
    Keeps s0 (arriveOne p id i truth s).2 := by
  unfold arriveOne
  extract_lets v1
  refine Keeps.mid (a := s0) v1 ?_ (fun h2 => ?_)
  · unfold v1
    exact changeTask_keeps h
  clear_value v1
  split
  · dsimp only
    exact h2
  · extract_lets v8
    split
    · dsimp only
      exact h2
    · split
      · dsimp only
        exact changeTask_keeps h2
      · exact skipTask_keeps h2

theorem settle_keeps {s0 : State} {fuel p : Nat} {id : BitVec 32} {work : List (Nat × Bool)} {s : State}
    (h : Keeps s0 s) : Keeps s0 (settle fuel p id work s) := by
  induction fuel generalizing work s with
  | zero => rw [settle]; exact h
  | succ n ih =>
    cases work with
    | nil => rw [settle]; exact h
    | cons x rest =>
      rw [settle]
      exact ih (arriveOne_keeps h)

theorem settleAll_keeps {s0 : State} {p : Nat} {id : BitVec 32} {work : List (Nat × Bool)} {s : State}
    (h : Keeps s0 s) :
    Keeps s0 (settleAll p id work s) := by
  unfold settleAll
  exact checkIteration_keeps (settle_keeps h)

theorem taskFault_keeps {s0 : State} {p : Nat} {id : BitVec 32} {i : Nat} {fault : Nat} {code : Nat} {s : State}
    (h : Keeps s0 s) :
    Keeps s0 (taskFault p id i fault code s) := by
  unfold taskFault
  split
  · exact h
  · refine Keeps.ite (fun _ => ?_) (fun _ => ?_)
    · exact h
    · extract_lets v6
      refine Keeps.mid (a := s0) v6 ?_ (fun h7 => ?_)
      · unfold v6
        exact markFault_keeps h
      clear_value v6
      refine Keeps.ite (fun _ => ?_) (fun _ => ?_)
      · split
        · rename_i y11
          refine Keeps.ofPair1 (a := s0) y11 ?_ (fun h12 => ?_)
          · exact endOne_keeps h7
          exact settleAll_keeps h12
      · exact h7

theorem faultTaskOn_keeps {s0 : State} {t : Nat} {k : Nat} {fault : Nat} {code : Nat} {s : State}
    (h : Keeps s0 s) :
    Keeps s0 (faultTaskOn t k fault code s) := by
  unfold faultTaskOn
  split
  · exact h
  · exact taskFault_keeps h

theorem endTask_keeps {s0 : State} {p : Nat} {id : BitVec 32} {i : Nat} {s : State} (h : Keeps s0 s) :
    Keeps s0 (endTask p id i s) := by
  unfold endTask
  split
  · rename_i y4
    refine Keeps.ofPair1 (a := s0) y4 ?_ (fun h5 => ?_)
    · exact finishOne_keeps h
    exact settleAll_keeps h5

end Sys2Proof.Machine
end

