-- ==== Sys2Proof/Laws/KeepsArithmetic.lean ====
section
/-! SUPPORT. What the operations of Machine/Arithmetic.lean keep: one lemma for each. -/

set_option Elab.async false

namespace Sys2Proof.Machine

theorem addressFault_keeps {s0 : State} {t : Nat} {k : Nat} {s : State} (h : Keeps s0 s) :
    Keeps s0 (addressFault t k s) := by
  unfold addressFault
  exact faultTaskOn_keeps (raise_keeps h)

theorem matrixStep_keeps {s0 : State} {op : MatrixOp} {st : MatrixStep} {s : State} (h : Keeps s0 s) :
    Keeps s0 (matrixStep op st s) := by
  unfold matrixStep
  refine Keeps.ite (fun _ => ?_) (fun _ => ?_)
  · exact Keeps.put h rfl rfl rfl rfl rfl
  · extract_lets v1 v2 v3 v4 v5 v6 v7 v8 v9
    refine Keeps.mid (a := s0) v8 ?_ (fun h10 => ?_)
    · unfold v8
      exact Keeps.put h rfl rfl rfl rfl rfl
    clear_value v8
    refine Keeps.mid (a := s0) v9 ?_ (fun h11 => ?_)
    · unfold v9
      exact setTaskFlags_keeps h10
    clear_value v9
    exact raiseIf_keeps h11

theorem clearRows_keeps {s0 : State} {op : MatrixOp} {s : State} (h : Keeps s0 s) :
    Keeps s0 (clearRows op s) := by
  unfold clearRows
  extract_lets v1 v2
  exact Keeps.put h rfl rfl rfl rfl rfl

theorem writeElems_keeps {s0 : State} {t : Nat} {k : Nat} {addr : Nat} {w : Nat} {first : Nat}
    {elems : List (Option Nat)} {poisons : List Bool} {s : State} (h : Keeps s0 s) :
    Keeps s0 (writeElems t k addr w first elems poisons s) := by
  unfold writeElems
  extract_lets v1 v2 v3 v4 v5 v6 v7 v8
  refine Keeps.ite (fun _ => ?_) (fun _ => ?_)
  · exact h
  · refine Keeps.ite (fun _ => ?_) (fun _ => ?_)
    · exact addressFault_keeps h
    · refine Keeps.putMemory ?_ rfl (putBytes_wf _ _ _ _) (Tab.wf_fold _ _ _ _ (fun _ _ w => Tab.wf_put _ _ _ _ w)) id rfl
      exact h

theorem matrixWrite_keeps {s0 : State} {op : MatrixOp} {wr : MatrixWrite} {s : State} (h : Keeps s0 s) :
    Keeps s0 (matrixWrite op wr s) := by
  unfold matrixWrite
  extract_lets v1 v2 v3 v4
  refine Keeps.mid (a := s0) v4 ?_ (fun h5 => ?_)
  · unfold v4
    exact setTaskFlags_keeps h
  clear_value v4
  exact writeElems_keeps h5

theorem skipOverrun_keeps {s0 : State} {op : MatrixOp} {cycles : Nat} {s : State} (h : Keeps s0 s) :
    Keeps s0 (skipOverrun op cycles s) := by
  unfold skipOverrun
  extract_lets v1
  exact Keeps.ite (fun _ => h) (fun _ => stallRegion_keeps (raise_keeps (count32_keeps h)))

theorem matrixRun_keeps {s0 : State} {op : MatrixOp} {s : State} (h : Keeps s0 s) :
    Keeps s0 (matrixRun op s) := by
  unfold matrixRun
  refine Keeps.ite (fun _ => ?_) (fun _ => ?_)
  · exact h
  · refine Keeps.ite (fun _ => ?_) (fun _ => ?_)
    · exact addressFault_keeps h
    · extract_lets v1 v2
      refine Keeps.mid (a := s0) v2 ?_ (fun h3 => ?_)
      · unfold v2
        exact Keeps.fold (clearRows_keeps h) (fun _ _ h6 => matrixStep_keeps h6)
      clear_value v2
      exact Keeps.fold (skipOverrun_keeps h3) (fun _ _ h9 => matrixWrite_keeps h9)

theorem execMatrixOperation_keeps {s0 : State} {op : MatrixOp} {s : State} (h : Keeps s0 s) :
    OutKeeps s0 (execMatrixOperation op s) := by
  unfold execMatrixOperation
  exact OutKeeps.next (matrixRun_keeps h)

theorem vectorRun_keeps {s0 : State} {place : VectorPlace} {reads : List (Nat × ElemRange × Nat)}
    {f : State → State} {s : State} (h_f : ∀ (z0 : State), Keeps s0 z0 → Keeps s0 (f z0)) (h : Keeps s0 s) :
    Keeps s0 (vectorRun place reads f s) := by
  unfold vectorRun
  exact Keeps.ite (fun _ => h) (fun _ => Keeps.ite (fun _ => addressFault_keeps h) (fun _ => h_f _ h))

theorem convertLanes_keeps {s0 : State} {place : VectorPlace} {f : Nat} {mode : Rounding} {toInf : Bool}
    {a4 : List (Nat × Num)} {a5 : State} (h : Keeps s0 a5) :
    Keeps s0 (convertLanes place f mode toInf a4 a5).2.2 := by
  induction a4 generalizing place f mode toInf a5 h
  · rw [convertLanes]
    dsimp only
    exact h
  · rename_i ih3
    rw [convertLanes]
    split
    · split
      · rename_i y9
        refine Keeps.ofPair2 (a := s0) y9 ?_ (fun h10 => ?_)
        · exact ih3 h
        dsimp only
        exact h10
    · extract_lets v12 v13 v14 v15 v16 v17
      refine Keeps.mid (a := s0) v16 ?_ (fun h18 => ?_)
      · unfold v16
        exact Keeps.ite (fun _ => Keeps.put h rfl rfl rfl rfl rfl) (fun _ => h)
      clear_value v16
      split
      · split
        · rename_i y27
          refine Keeps.ofPair2 (a := s0) y27 ?_ (fun h28 => ?_)
          · exact ih3 h18
          dsimp only
          exact h28

theorem mxBlock_keeps {s0 : State} {place : VectorPlace} {f : Nat} {mode : Rounding} {xs : List (Nat × Num)}
    {s : State} (h : Keeps s0 s) :
    Keeps s0 (mxBlock place f mode xs s).2.2.2 := by
  unfold mxBlock
  extract_lets v1 v2 v3 v4
  split
  · dsimp only
    exact h
  · split
    · dsimp only
      exact h
    · split
      · rename_i y13
        refine Keeps.ofPair2 (a := s0) y13 ?_ (fun h14 => ?_)
        · exact convertLanes_keeps h
        dsimp only
        exact h14

theorem mxBlocks_keeps {s0 : State} {place : VectorPlace} {f : Nat} {mode : Rounding}
    {a3 : List (List (Nat × Num))} {a4 : State} (h : Keeps s0 a4) :
    Keeps s0 (mxBlocks place f mode a3 a4).2.2.2 := by
  induction a3 generalizing place f mode a4 h
  · rw [mxBlocks]
    dsimp only
    exact h
  · rename_i ih3
    rw [mxBlocks]
    split
    · rename_i y9
      refine Keeps.ofPair3 (a := s0) y9 ?_ (fun h10 => ?_)
      · exact mxBlock_keeps h
      split
      · rename_i y16
        refine Keeps.ofPair3 (a := s0) y16 ?_ (fun h17 => ?_)
        · exact ih3 h10
        dsimp only
        exact h17

theorem vectorWrite_keeps {s0 : State} {place : VectorPlace} {w : Nat} {es : List (Option Nat)}
    {poisons : List Bool} {s : State} (h : Keeps s0 s) :
    Keeps s0 (vectorWrite place w es poisons s) := by
  unfold vectorWrite
  exact writeElems_keeps h

theorem vectorFlags_keeps {s0 : State} {place : VectorPlace} {fl : Sticky} {poisoned : Bool} {s : State}
    (h : Keeps s0 s) :
    Keeps s0 (vectorFlags place fl poisoned s) := by
  unfold vectorFlags
  exact setTaskFlags_keeps h

theorem mxConvertTo_keeps {s0 : State} {place : VectorPlace} {f : Nat} {mode : Rounding} {xs : List (Nat × Num)}
    {poisons : List Bool} {s : State} (h : Keeps s0 s) :
    Keeps s0 (mxConvertTo place f mode xs poisons s) := by
  unfold mxConvertTo
  split
  · rename_i y6
    refine Keeps.ofPair3 (a := s0) y6 ?_ (fun h7 => ?_)
    · exact mxBlocks_keeps h
    extract_lets v8 v9 v10
    refine Keeps.mid (a := s0) v9 ?_ (fun h11 => ?_)
    · unfold v9
      exact vectorWrite_keeps h7
    clear_value v9
    refine Keeps.mid (a := s0) v10 ?_ (fun h12 => ?_)
    · unfold v10
      exact writeElems_keeps h11
    clear_value v10
    exact vectorFlags_keeps h12

theorem mxConvert_keeps {s0 : State} {place : VectorPlace} {src : ElemRange} {count : Nat} {source : Nat}
    {target : Nat} {mode : Rounding} {s : State} (h : Keeps s0 s) :
    Keeps s0 (mxConvert place src count source target mode s) := by
  unfold mxConvert
  refine vectorRun_keeps ?_ ?_
  · intro s1 h2
    extract_lets v3 v4 v5
    refine Keeps.mid (a := s0) v5 ?_ (fun h6 => ?_)
    · unfold v5
      exact mxConvertTo_keeps h2
    clear_value v5
    exact vectorFlags_keeps h6
  · exact h

theorem execMxConvert_keeps {s0 : State} {place : VectorPlace} {src : ElemRange} {count : Nat} {source : Fin 2}
    {target : Fin 16} {mode : Rounding} {s : State} (h : Keeps s0 s) :
    OutKeeps s0 (execMxConvert place src count source target mode s) := by
  unfold execMxConvert
  exact OutKeeps.next (mxConvert_keeps h)

theorem vectorConvert_keeps {s0 : State} {place : VectorPlace} {src : ElemRange} {count : Nat} {int32 : Bool}
    {source : Nat} {target : Nat} {mode : Rounding} {toInf : Bool} {s : State} (h : Keeps s0 s) :
    Keeps s0 (vectorConvert place src count int32 source target mode toInf s) := by
  unfold vectorConvert
  extract_lets v1
  refine vectorRun_keeps ?_ ?_
  · intro s2 h3
    extract_lets v4 v5 v6 v7 v8
    refine Keeps.mid (a := s0) v8 ?_ (fun h9 => ?_)
    · unfold v8
      refine Keeps.ite (fun _ => ?_) (fun _ => ?_)
      · exact mxConvertTo_keeps h3
      · split
        · rename_i y14
          refine Keeps.ofPair2 (a := s0) y14 ?_ (fun h15 => ?_)
          · exact convertLanes_keeps h3
          exact vectorFlags_keeps (vectorWrite_keeps h15)
    clear_value v8
    exact vectorFlags_keeps h9
  · exact h

theorem execVectorConvert_keeps {s0 : State} {place : VectorPlace} {src : ElemRange} {count : Nat}
    {int32 : Bool} {source : Fin 16} {target : Fin 16} {mode : Rounding} {toInfinity : Bool} {s : State}
    (h : Keeps s0 s) :
    OutKeeps s0 (execVectorConvert place src count int32 source target mode toInfinity s) := by
  unfold execVectorConvert
  exact OutKeeps.next (vectorConvert_keeps h)

theorem pruneGroups_keeps {s0 : State} {a0 : Nat} {a1 : List Num} {a2 : State} (h : Keeps s0 a2) :
    Keeps s0 (pruneGroups a0 a1 a2).2.2 := by
  induction a0 generalizing a1 a2 h
  · rw [pruneGroups]
    dsimp only
    exact h
  · rename_i ih2
    rw [pruneGroups]
    split
    · dsimp only
      exact h
    · extract_lets v5
      split
      · rename_i y9
        refine Keeps.ofPair1 (a := s0) y9 ?_ (fun h10 => ?_)
        · exact draw_keeps h
        split
        · split
          · rename_i y19
            refine Keeps.ofPair2 (a := s0) y19 ?_ (fun h20 => ?_)
            · exact ih2 h10
            dsimp only
            exact h20

theorem sparseConvert_keeps {s0 : State} {place : VectorPlace} {src : ElemRange} {count : Nat} {source : Nat}
    {target : Nat} {mode : Rounding} {s : State} (h : Keeps s0 s) :
    Keeps s0 (sparseConvert place src count source target mode s) := by
  unfold sparseConvert
  refine vectorRun_keeps ?_ ?_
  · intro s1 h2
    extract_lets v3 v4 v5 v6
    split
    · rename_i y11
      refine Keeps.ofPair2 (a := s0) y11 ?_ (fun h12 => ?_)
      · exact pruneGroups_keeps h2
      extract_lets v13 v14 v15 v16 v17
      refine Keeps.mid (a := s0) v16 ?_ (fun h18 => ?_)
      · unfold v16
        exact writeElems_keeps h12
      clear_value v16
      refine Keeps.mid (a := s0) v17 ?_ (fun h19 => ?_)
      · unfold v17
        refine Keeps.ite (fun _ => ?_) (fun _ => ?_)
        · exact mxConvertTo_keeps h18
        · split
          · rename_i y24
            refine Keeps.ofPair2 (a := s0) y24 ?_ (fun h25 => ?_)
            · exact convertLanes_keeps h18
            exact vectorFlags_keeps (vectorWrite_keeps h25)
      clear_value v17
      exact vectorFlags_keeps h19
  · exact h

theorem execSparseConvert_keeps {s0 : State} {place : VectorPlace} {src : ElemRange} {count : Nat}
    {source : Fin 2} {target : Fin 16} {mode : Rounding} {s : State} (h : Keeps s0 s) :
    OutKeeps s0 (execSparseConvert place src count source target mode s) := by
  unfold execSparseConvert
  exact OutKeeps.next (sparseConvert_keeps h)

theorem vectorFma_keeps {s0 : State} {place : VectorPlace} {a : ElemRange} {b : ElemRange} {c : ElemRange}
    {count : Nat} {format : Nat} {mode : Rounding} {s : State} (h : Keeps s0 s) :
    Keeps s0 (vectorFma place a b c count format mode s) := by
  unfold vectorFma
  refine vectorRun_keeps ?_ ?_
  · intro s1 h2
    extract_lets v3 v4 v5 v6 v7 v8 v9 v10
    split
    · rename_i y15
      refine Keeps.ofPair2 (a := s0) y15 ?_ (fun h16 => ?_)
      · exact convertLanes_keeps h2
      exact vectorFlags_keeps (vectorWrite_keeps h16)
  · exact h

theorem execVectorFma_keeps {s0 : State} {place : VectorPlace} {a : ElemRange} {b : ElemRange} {c : ElemRange}
    {count : Nat} {format : Fin 2} {mode : Rounding} {s : State} (h : Keeps s0 s) :
    OutKeeps s0 (execVectorFma place a b c count format mode s) := by
  unfold execVectorFma
  exact OutKeeps.next (vectorFma_keeps h)

theorem transcendental_keeps {s0 : State} {place : VectorPlace} {src : ElemRange} {count : Nat}
    {f : Transcendental} {format : Nat} {s : State} (h : Keeps s0 s) :
    Keeps s0 (transcendental place src count f format s) := by
  unfold transcendental
  refine vectorRun_keeps ?_ ?_
  · intro s1 h2
    extract_lets v3 v4 v5 v6
    exact vectorFlags_keeps (vectorWrite_keeps h2)
  · exact h

theorem execTranscendental_keeps {s0 : State} {place : VectorPlace} {src : ElemRange} {count : Nat}
    {function : Transcendental} {format : Fin 2} {s : State} (h : Keeps s0 s) :
    OutKeeps s0 (execTranscendental place src count function format s) := by
  unfold execTranscendental
  exact OutKeeps.next (transcendental_keeps h)

end Sys2Proof.Machine
end

