-- ==== Sys2Proof/Laws/KeepsRequests.lean ====
section
/-! SUPPORT. What the operations of Machine/Requests.lean keep: one lemma for each. -/

set_option Elab.async false

namespace Sys2Proof.Machine

theorem rejectSource_keeps {s0 : State} {r : Requester} {s : State} (h : Keeps s0 s) :
    Keeps s0 (rejectSource r s) := by
  unfold rejectSource
  extract_lets v1 v2 v3 v4
  refine Keeps.mid (a := s0) v2 ?_ (fun h5 => ?_)
  · unfold v2
    exact Keeps.put h rfl rfl rfl rfl rfl
  clear_value v2
  exact Keeps.ite (fun _ => raise_keeps (Keeps.put h5 rfl rfl rfl rfl rfl)) (fun _ => h5)

theorem keepReply_keeps {s0 : State} {r : Reply} {s : State} (h : Keeps s0 s) : Keeps s0 (keepReply r s) := by
  unfold keepReply
  extract_lets v1 v2 v3 v4
  exact Keeps.put h rfl rfl rfl rfl rfl

theorem sendReply_keeps {s0 : State} {r : Reply} {s : State} (h : Keeps s0 s) : Keeps s0 (sendReply r s) := by
  unfold sendReply
  extract_lets v1 v2
  refine Keeps.mid (a := s0) v2 ?_ (fun h3 => ?_)
  · unfold v2
    exact Keeps.put h rfl rfl rfl rfl rfl
  clear_value v2
  exact Keeps.ite (fun _ => h3) (fun _ => keepReply_keeps h3)

theorem errorReply_keeps {s0 : State} {id : RequestId} {status : BitVec 8} {detail : Nat} {offset : Nat}
    {s : State} (h : Keeps s0 s) :
    Keeps s0 (errorReply id status detail offset s) := by
  unfold errorReply
  exact sendReply_keeps h

theorem admitRequest_keeps {s0 : State} {id : RequestId} {s : State} (h : Keeps s0 s) :
    OptKeeps s0 (admitRequest id s) := by
  unfold admitRequest
  split
  · exact OptKeeps.some h
  · split
    · exact OptKeeps.some (rejectSource_keeps h)
    · split
      · exact OptKeeps.some (Keeps.put h rfl rfl rfl rfl rfl)
      · split
        · exact OptKeeps.some h
        · split
          · exact OptKeeps.some (errorReply_keeps h)
          · split
            · exact OptKeeps.some (errorReply_keeps h)
            · exact .none

theorem okReply_keeps {s0 : State} {id : RequestId} {data : Bytes} {s : State} (h : Keeps s0 s) :
    Keeps s0 (okReply id data s) := by
  unfold okReply
  exact sendReply_keeps h

theorem answerWaiting_keeps {s0 : State} {key : Nat} {note : Nat} {status : BitVec 8} {detail : Nat} {s : State}
    (h : Keeps s0 s) :
    Keeps s0 (answerWaiting key note status detail s) := by
  unfold answerWaiting
  extract_lets v1 v2 v3
  refine Keeps.mid (a := s0) v3 ?_ (fun h4 => ?_)
  · unfold v3
    exact Keeps.put h rfl rfl rfl rfl rfl
  clear_value v3
  exact Keeps.fold h4 (fun _ _ h7 => Keeps.ite (fun _ => okReply_keeps h7) (fun _ => errorReply_keeps h7))

theorem applyWrite_keeps {s0 : State} {id : RequestId} {value : Bytes} {act : WriteAct} {s : State}
    (h_act : ∀ (z0 : Bytes) (z1 : State), Keeps s0 z1 → WKeeps s0 (act z0 z1)) (h : Keeps s0 s) :
    Keeps s0 (applyWrite id value act s) := by
  unfold applyWrite
  split
  · exact errorReply_keeps h
  · split
    · rename_i y9
      refine WKeeps.outDone (a := s0) y9 ?_ (fun h10 => ?_)
      · exact h_act _ _ h
      exact okReply_keeps h10
    · rename_i y14
      refine WKeeps.outWait (a := s0) y14 ?_ (fun h15 => ?_)
      · exact h_act _ _ h
      exact Keeps.put h15 rfl rfl rfl rfl rfl
    · exact errorReply_keeps h
    · rename_i y22
      refine WKeeps.outFailed (a := s0) y22 ?_ (fun h23 => ?_)
      · exact h_act _ _ h
      exact errorReply_keeps h23

theorem serveWrite_keeps {s0 : State} {req : Req} {key : Nat} {value : Bytes} {act : WriteAct} {s : State}
    (h_act : ∀ (z0 : Bytes) (z1 : State), Keeps s0 z1 → WKeeps s0 (act z0 z1)) (h : Keeps s0 s) :
    Keeps s0 (serveWrite req key value act s) := by
  unfold serveWrite
  extract_lets v1 v2
  split
  · rename_i y5
    refine OptKeeps.out (a := s0) y5 ?_ (fun h6 => ?_)
    · exact admitRequest_keeps h
    exact h6
  · split
    · exact errorReply_keeps h
    · refine applyWrite_keeps ?_ ?_
      · intro x15 s16 h17
        exact h_act _ _ h17
      · exact h

end Sys2Proof.Machine
end

