-- ==== Sys2Proof/Laws/KeepsDram.lean ====
section
/-! SUPPORT. What the operations of Machine/Dram.lean keep: one lemma for each. -/

set_option Elab.async false

namespace Sys2Proof.Machine

theorem activateRow_keeps {s0 : State} {line : Nat} {s : State} (h : Keeps s0 s) :
    Keeps s0 (activateRow line s) := by
  unfold activateRow
  extract_lets v1 v2 v3 v4 v5 v6 v7
  refine Keeps.mid (a := s0) v6 ?_ (fun h8 => ?_)
  · unfold v6
    exact Keeps.ite (fun _ => Keeps.put h rfl rfl rfl rfl rfl) (fun _ => h)
  clear_value v6
  exact Keeps.ite (fun _ => h) (fun _ => Keeps.put h8 rfl rfl rfl rfl rfl)

theorem flushBank_keeps {s0 : State} {key : Nat} {s : State} (h : Keeps s0 s) : Keeps s0 (flushBank key s) := by
  unfold flushBank
  extract_lets v1 v2
  exact Keeps.fold (Keeps.put h rfl rfl rfl rfl rfl) (fun _ _ h5 => storeWord_keeps (activateRow_keeps h5))

theorem scheduleWriteBack_keeps {s0 : State} {line : Nat} {word : List Nat} {s : State} (h : Keeps s0 s) :
    Keeps s0 (scheduleWriteBack line word s) := by
  unfold scheduleWriteBack
  exact Keeps.put h rfl rfl rfl rfl rfl

theorem readLine_keeps {s0 : State} {line : Nat} {s : State} (h : Keeps s0 s) :
    Keeps s0 (readLine line s).2.2 := by
  unfold readLine
  extract_lets v1 v2 v3
  refine Keeps.mid (a := s0) v1 ?_ (fun h4 => ?_)
  · unfold v1
    exact activateRow_keeps (flushBank_keeps h)
  clear_value v1
  split
  · dsimp only
    exact h4
  · dsimp only
    exact raise_keeps (count32_keeps (scheduleWriteBack_keeps h4))
  · dsimp only
    exact raise_keeps (count32_keeps (scheduleWriteBack_keeps h4))
  · dsimp only
    exact count32_keeps h4

theorem dropWriteBack_keeps {s0 : State} {line : Nat} {s : State} (h : Keeps s0 s) :
    Keeps s0 (dropWriteBack line s) := by
  unfold dropWriteBack
  exact Keeps.put h rfl rfl rfl rfl rfl

theorem markBlock_keeps {s0 : State} {line : Nat} {s : State} (h : Keeps s0 s) :
    Keeps s0 (markBlock line s) := by
  unfold markBlock
  exact Keeps.ite (fun _ => Keeps.put h rfl rfl rfl rfl rfl) (fun _ => h)

theorem atomicLine_keeps {s0 : State} {line : Nat} {off : Nat} {f : Nat → Nat} {s : State} (h : Keeps s0 s) :
    Keeps s0 (atomicLine line off f s).2.2 := by
  unfold atomicLine
  split
  · rename_i y5
    refine Keeps.ofPair2 (a := s0) y5 ?_ (fun h6 => ?_)
    · exact readLine_keeps (dropWriteBack_keeps (markBlock_keeps h))
    extract_lets v7
    split
    · dsimp only
      exact h6
    · dsimp only
      exact storeWord_keeps (dropWriteBack_keeps h6)

theorem mergeLine_keeps {s0 : State} {line : Nat} {merge : Bytes → Bytes} {poisoned : Bool} {clears : Bool}
    {s : State} (h : Keeps s0 s) :
    Keeps s0 (mergeLine line merge poisoned clears s).2 := by
  unfold mergeLine
  split
  · rename_i y5
    refine Keeps.ofPair2 (a := s0) y5 ?_ (fun h6 => ?_)
    · exact readLine_keeps (dropWriteBack_keeps (markBlock_keeps h))
    split
    · dsimp only
      exact h6
    · dsimp only
      exact storeWord_keeps (dropWriteBack_keeps h6)

theorem writeLine_keeps {s0 : State} {line : Nat} {off : Nat} {data : Bytes} {poisoned : Bool} {s : State}
    (h : Keeps s0 s) :
    Keeps s0 (writeLine line off data poisoned s).2 := by
  unfold writeLine
  split
  · extract_lets v2
    refine Keeps.mid (a := s0) v2 ?_ (fun h3 => ?_)
    · unfold v2
      exact activateRow_keeps (flushBank_keeps (dropWriteBack_keeps (markBlock_keeps h)))
    clear_value v2
    dsimp only
    exact storeWord_keeps h3
  · exact mergeLine_keeps h

theorem fillLine_keeps {s0 : State} {line : Nat} {off : Nat} {n : Nat} {s : State} (h : Keeps s0 s) :
    Keeps s0 (fillLine line off n s).2 := by
  unfold fillLine
  split
  · exact writeLine_keeps h
  · exact mergeLine_keeps h

theorem changeStack_keeps {s0 : State} {t : Nat} {f : Stack → Stack} {s : State} (h : Keeps s0 s) :
    Keeps s0 (changeStack t f s) := by
  unfold changeStack
  exact Keeps.put h rfl rfl rfl rfl rfl

theorem resumeScrub_keeps {s0 : State} {t : Nat} {s : State} (h : Keeps s0 s) : Keeps s0 (resumeScrub t s) := by
  unfold resumeScrub
  exact changeStack_keeps h

theorem answerLine_keeps {s0 : State} {address : Nat} {data : Bytes} {code : Nat} {s : State} (h : Keeps s0 s) :
    Keeps s0 (answerLine address data code s) := by
  unfold answerLine
  exact Keeps.put h rfl rfl rfl rfl rfl

theorem execDramRead_keeps {s0 : State} {tower : Tower} {address : BitVec 36} {upsets : List (Fin 72 × Byte)}
    {s : State} (h : Keeps s0 s) :
    OutKeeps s0 (execDramRead tower address upsets s) := by
  unfold execDramRead
  extract_lets v1 v2
  refine OutKeeps.next ?_
  refine Keeps.ite (fun _ => ?_) (fun _ => ?_)
  · exact answerLine_keeps h
  · split
    · rename_i y7
      refine Keeps.ofPair2 (a := s0) y7 ?_ (fun h8 => ?_)
      · exact readLine_keeps (upsetWord_keeps (flushBank_keeps h))
      exact answerLine_keeps h8

theorem execDramWriteBack_keeps {s0 : State} {tower : Tower} {channel : Fin 32} {bank : Fin 32} {s : State}
    (h : Keeps s0 s) :
    OutKeeps s0 (execDramWriteBack tower channel bank s) := by
  unfold execDramWriteBack
  exact OutKeeps.next (flushBank_keeps h)

theorem execDramWrite_keeps {s0 : State} {tower : Tower} {address : BitVec 36} {data : Bytes} {poisoned : Bool}
    {s : State} (h : Keeps s0 s) :
    OutKeeps s0 (execDramWrite tower address data poisoned s) := by
  unfold execDramWrite
  extract_lets v1 v2
  refine OutKeeps.next ?_
  refine Keeps.ite (fun _ => ?_) (fun _ => ?_)
  · exact answerLine_keeps h
  · split
    · rename_i y6
      refine Keeps.ofPair1 (a := s0) y6 ?_ (fun h7 => ?_)
      · exact writeLine_keeps h
      exact answerLine_keeps h7

theorem refreshChannel_keeps {s0 : State} {t : Nat} {c : Nat} {s : State} (h : Keeps s0 s) :
    Keeps s0 (refreshChannel t c s) := by
  unfold refreshChannel
  extract_lets v1 v2 v3 v4 v5 v6
  refine Keeps.mid (a := s0) v5 ?_ (fun h7 => ?_)
  · unfold v5
    exact Keeps.put h rfl rfl rfl rfl rfl
  clear_value v5
  exact Keeps.ite (fun _ => h) (fun _ => Keeps.ite (fun _ => Keeps.put h7 rfl rfl rfl rfl rfl) (fun _ => h7))

theorem execRefresh_keeps {s0 : State} {tower : Tower} {channel : Fin 32} {s : State} (h : Keeps s0 s) :
    OutKeeps s0 (execRefresh tower channel s) := by
  unfold execRefresh
  exact OutKeeps.next (refreshChannel_keeps h)

theorem pauseScrub_keeps {s0 : State} {t : Nat} {s : State} (h : Keeps s0 s) : Keeps s0 (pauseScrub t s) := by
  unfold pauseScrub
  split
  · exact h
  · extract_lets v6
    exact changeStack_keeps (zeroLines_keeps h)

theorem drainComplete_keeps {s0 : State} {t : Nat} {s : State} (h : Keeps s0 s) :
    Keeps s0 (drainComplete t s) := by
  unfold drainComplete
  extract_lets v1
  refine Keeps.ite (fun _ => ?_) (fun _ => ?_)
  · exact h
  · exact raise_keeps (changeStack_keeps (Keeps.fold h (fun _ _ h4 => flushBank_keeps h4)))

theorem execDrainComplete_keeps {s0 : State} {tower : Tower} {s : State} (h : Keeps s0 s) :
    OutKeeps s0 (execDrainComplete tower s) := by
  unfold execDrainComplete
  exact OutKeeps.next (drainComplete_keeps h)

theorem patrolRead_keeps {s0 : State} {t : Nat} {upsets : List (Fin 72 × Byte)} {s : State} (h : Keeps s0 s) :
    Keeps s0 (patrolRead t upsets s) := by
  unfold patrolRead
  refine Keeps.ite (fun _ => ?_) (fun _ => ?_)
  · exact h
  · extract_lets v1 v2
    split
    · rename_i y7
      refine Keeps.ofPair2 (a := s0) y7 ?_ (fun h8 => ?_)
      · exact readLine_keeps (upsetWord_keeps (flushBank_keeps h))
      extract_lets v9
      refine Keeps.mid (a := s0) v9 ?_ (fun h10 => ?_)
      · unfold v9
        exact changeStack_keeps h8
      clear_value v9
      exact Keeps.ite (fun _ => raise_keeps (count32_keeps h10)) (fun _ => h10)

theorem execPatrolRead_keeps {s0 : State} {tower : Tower} {upsets : List (Fin 72 × Byte)} {s : State}
    (h : Keeps s0 s) :
    OutKeeps s0 (execPatrolRead tower upsets s) := by
  unfold execPatrolRead
  exact OutKeeps.next (patrolRead_keeps h)

theorem startScrub_keeps {s0 : State} {t : Nat} {s : State} (h : Keeps s0 s) : Keeps s0 (startScrub t s) := by
  unfold startScrub
  extract_lets v1 v2
  exact changeStack_keeps (Keeps.put h rfl rfl rfl rfl rfl)

theorem handoverScrubAct_keeps {s0 : State} {a0 : Bytes} {a1 : State} (h : Keeps s0 a1) :
    WKeeps s0 (handoverScrubAct a0 a1) := by
  unfold handoverScrubAct
  extract_lets v1 v2
  split
  · exact .refuse
  · split
    · exact .refuse
    · exact WKeeps.done (Keeps.fold h (fun _ _ h9 => startScrub_keeps h9))

theorem execHandoverScrub_keeps {s0 : State} {req : Req} {value : Bytes} {s : State} (h : Keeps s0 s) :
    OutKeeps s0 (execHandoverScrub req value s) := by
  unfold execHandoverScrub
  refine OutKeeps.next ?_
  refine serveWrite_keeps ?_ ?_
  · intro x1 s2 h3
    exact handoverScrubAct_keeps h3
  · exact h

theorem endScrub_keeps {s0 : State} {t : Nat} {s : State} (h : Keeps s0 s) : Keeps s0 (endScrub t s) := by
  unfold endScrub
  exact raise_keeps (changeStack_keeps (zeroLines_keeps h))

end Sys2Proof.Machine
end

