-- ==== Sys2Proof/Laws/KeepsLinkOps.lean ====
section
/-! SUPPORT. What the operations of Machine/LinkOps.lean keep: one lemma for each. -/

set_option Elab.async false

namespace Sys2Proof.Machine

theorem makeGroup_keeps {s0 : State} {t : Nat} {n : Nat} {payload : Bytes} {s : State} (h : Keeps s0 s) :
    Keeps s0 (makeGroup t n payload s).2 := by
  unfold makeGroup
  extract_lets v1 v2 v3
  split
  · rename_i y7
    refine Keeps.ofPair1 (a := s0) y7 ?_ (fun h8 => ?_)
    · exact drawBytes_keeps h
    extract_lets v9
    dsimp only
    exact h8

theorem sendGroup_keeps {s0 : State} {t : Nat} {n : Nat} {s : State} (h : Keeps s0 s) :
    Keeps s0 (sendGroup t n s) := by
  unfold sendGroup
  extract_lets v1
  split
  · exact h
  · refine Keeps.ite (fun _ => ?_) (fun _ => ?_)
    · exact h
    · split
      · rename_i y11
        refine Keeps.ofPair1 (a := s0) y11 ?_ (fun h12 => ?_)
        · exact makeGroup_keeps h
        exact changeBundle_keeps h12

theorem pumpGroups_keeps {s0 : State} {t : Nat} {n : Nat} {s : State} (h : Keeps s0 s) :
    Keeps s0 (pumpGroups t n s) := by
  unfold pumpGroups
  exact Keeps.fold h (fun _ _ h3 => sendGroup_keeps h3)

theorem carryOn_keeps {s0 : State} {t : Nat} {n : Nat} {data : Bytes} {s : State} (h : Keeps s0 s) :
    Keeps s0 (carryOn t n data s) := by
  unfold carryOn
  exact Keeps.ite (fun _ => h) (fun _ => pumpGroups_keeps (changeBundle_keeps h))

theorem crossTrunk_keeps {s0 : State} {a : Nat} {b : Nat} {data : Bytes} {s : State} (h : Keeps s0 s) :
    Keeps s0 (crossTrunk a b data s) := by
  unfold crossTrunk
  refine Keeps.fold ?_ (fun s1 x2 h3 => ?_)
  · exact h
  · extract_lets v4
    exact carryOn_keeps h3

theorem switchKey_keeps {s0 : State} {key : Nat} {s : State} (h : Keeps s0 s) : Keeps s0 (switchKey key s) := by
  unfold switchKey
  extract_lets v1 v2
  exact Keeps.ite (fun _ => raise_keeps (Keeps.put h rfl rfl rfl rfl rfl)) (fun _ => h)

theorem sealData_keeps {s0 : State} {n : Nat} {seq : Nat} {first : Bool} {data : Bytes} {s : State}
    (h : Keeps s0 s) :
    Keeps s0 (sealData n seq first data s).2 := by
  unfold sealData
  split
  · extract_lets v2 v3 v4 v5 v6
    refine Keeps.mid (a := s0) v2 ?_ (fun h7 => ?_)
    · unfold v2
      exact switchKey_keeps h
    clear_value v2
    dsimp only
    exact Keeps.put h7 rfl rfl rfl rfl rfl
  · dsimp only
    exact h

theorem changeTx_keeps {s0 : State} {n : Nat} {f : LinkTx → LinkTx} {s : State} (h : Keeps s0 s) :
    Keeps s0 (changeTx n f s) := by
  unfold changeTx
  exact Keeps.put h rfl rfl rfl rfl rfl

theorem putFlit_keeps {s0 : State} {n : Nat} {kind : Nat} {seq : Nat} {first : Nat} {data : Bytes} {s : State}
    (h : Keeps s0 s) :
    Keeps s0 (putFlit n kind seq first data s) := by
  unfold putFlit
  extract_lets v1 v2
  split
  · extract_lets v7 v8
    refine Keeps.mid (a := s0) v7 ?_ (fun h9 => ?_)
    · unfold v7
      exact changeTx_keeps h
    clear_value v7
    exact Keeps.put h9 rfl rfl rfl rfl rfl

theorem sendOneFlit_keeps {s0 : State} {n : Nat} {s : State} (h : Keeps s0 s) : Keeps s0 (sendOneFlit n s) := by
  unfold sendOneFlit
  extract_lets v1
  split
  · exact h
  · refine Keeps.ite (fun _ => ?_) (fun _ => ?_)
    · exact h
    · split
      · rename_i y12
        refine Keeps.ofPair1 (a := s0) y12 ?_ (fun h13 => ?_)
        · exact sealData_keeps h
        extract_lets v14
        exact putFlit_keeps (changeTx_keeps h13)

theorem pumpTx_keeps {s0 : State} {n : Nat} {s : State} (h : Keeps s0 s) : Keeps s0 (pumpTx n s) := by
  unfold pumpTx
  exact Keeps.fold h (fun _ _ h3 => sendOneFlit_keeps h3)

theorem queuePacket_keeps {s0 : State} {n : Nat} {size : Nat} {data : Bytes} {s : State} (h : Keeps s0 s) :
    Keeps s0 (queuePacket n size data s) := by
  unfold queuePacket
  exact pumpTx_keeps (changeTx_keeps h)

theorem changeRx_keeps {s0 : State} {n : Nat} {f : LinkRx → LinkRx} {s : State} (h : Keeps s0 s) :
    Keeps s0 (changeRx n f s) := by
  unfold changeRx
  exact Keeps.put h rfl rfl rfl rfl rfl

theorem putNull_keeps {s0 : State} {n : Nat} {s : State} (h : Keeps s0 s) : Keeps s0 (putNull n s) := by
  unfold putNull
  exact putFlit_keeps h

theorem beginStream_keeps {s0 : State} {n : Nat} {s : State} (h : Keeps s0 s) : Keeps s0 (beginStream n s) := by
  unfold beginStream
  extract_lets v1
  exact Keeps.ite (fun _ => putNull_keeps (changeTx_keeps h)) (fun _ => h)

theorem fillIdle_keeps {s0 : State} {n : Nat} {s : State} (h : Keeps s0 s) : Keeps s0 (fillIdle n s) := by
  unfold fillIdle
  extract_lets v1
  exact Keeps.ite (fun _ => putNull_keeps h) (fun _ => h)

theorem putControl_keeps {s0 : State} {n : Nat} {code : Nat} {width : Nat} {expected : Nat} {lane : Nat}
    {step : Nat} {s : State} (h : Keeps s0 s) :
    Keeps s0 (putControl n code width expected lane step s) := by
  unfold putControl
  exact putFlit_keeps h

theorem putMesh_keeps {s0 : State} {m : MeshPacket} {s : State} (h : Keeps s0 s) : Keeps s0 (putMesh m s) := by
  unfold putMesh
  extract_lets v1 v2
  exact Keeps.put h rfl rfl rfl rfl rfl

theorem sendMesh_keeps {s0 : State} {src : Nat} {dst : Nat} {load : MeshLoad} {s : State} (h : Keeps s0 s) :
    Keeps s0 (sendMesh src dst load s) := by
  unfold sendMesh
  extract_lets v1 v2
  refine Keeps.ite (fun _ => ?_) (fun _ => ?_)
  · exact Keeps.put h rfl rfl rfl rfl rfl
  · exact carryOn_keeps (carryOn_keeps (putMesh_keeps h))

theorem carryFlits_keeps {s0 : State} {t : Nat} {first : Nat} {w : Nat} {flits : List Bytes} {s : State}
    (h : Keeps s0 s) :
    Keeps s0 (carryFlits t first w flits s) := by
  unfold carryFlits
  exact Keeps.fold h (fun _ _ h3 => carryOn_keeps h3)

theorem sendAckWord_keeps {s0 : State} {n : Nat} {s : State} (h : Keeps s0 s) : Keeps s0 (sendAckWord n s) := by
  unfold sendAckWord
  exact sendMesh_keeps h

theorem rxBad_keeps {s0 : State} {n : Nat} {s : State} (h : Keeps s0 s) : Keeps s0 (rxBad n s) := by
  unfold rxBad
  exact changeRx_keeps (count64_keeps h)

theorem rxTake_keeps {s0 : State} {n : Nat} {seq : Nat} {data : Bytes} {s : State} (h : Keeps s0 s) :
    Keeps s0 (rxTake n seq data s).2 := by
  unfold rxTake
  extract_lets v1 v2 v3
  split
  · dsimp only
    exact h
  · split
    · dsimp only
      exact changeRx_keeps (count32_keeps h)
    · split
      · extract_lets v12
        dsimp only
        exact Keeps.put h rfl rfl rfl rfl rfl

theorem ackTx_keeps {s0 : State} {n : Nat} {a : Nat} {s : State} (h : Keeps s0 s) : Keeps s0 (ackTx n a s) := by
  unfold ackTx
  exact pumpTx_keeps (changeTx_keeps h)

theorem countRetransmit_keeps {s0 : State} {n : Nat} {s : State} (h : Keeps s0 s) :
    Keeps s0 (countRetransmit n s) := by
  unfold countRetransmit
  exact count64_keeps h

theorem retransmit_keeps {s0 : State} {n : Nat} {q : Nat} {s : State} (h : Keeps s0 s) :
    Keeps s0 (retransmit n q s) := by
  unfold retransmit
  split
  · exact h
  · refine Keeps.ite (fun _ => ?_) (fun _ => ?_)
    · extract_lets v6
      refine Keeps.mid (a := s0) v6 ?_ (fun h7 => ?_)
      · unfold v6
        exact changeTx_keeps h
      clear_value v6
      exact putFlit_keeps (countRetransmit_keeps h7)
    · exact changeTx_keeps h

theorem ackGroups_keeps {s0 : State} {t : Nat} {n : Nat} {a : Nat} {s : State} (h : Keeps s0 s) :
    Keeps s0 (ackGroups t n a s) := by
  unfold ackGroups
  exact pumpGroups_keeps (changeBundle_keeps h)

end Sys2Proof.Machine
end

