-- ==== Sys2Proof/Laws/KeepsFabricOps.lean ====
section
/-! SUPPORT. What the operations of Machine/FabricOps.lean keep: one lemma for each. -/

set_option Elab.async false

namespace Sys2Proof.Machine

theorem holdPacket_keeps {s0 : State} {h0 : FabricHeld} {s : State} (h : Keeps s0 s) :
    Keeps s0 (holdPacket h0 s) := by
  unfold holdPacket
  exact Keeps.put h rfl rfl rfl rfl rfl

theorem takeCredits_keeps {s0 : State} {port : Nat} {f : FabricHeader} {s : State} (h : Keeps s0 s) :
    Keeps s0 (takeCredits port f s).2 := by
  unfold takeCredits
  extract_lets v1 v2 v3 v4
  dsimp only
  exact Keeps.put h rfl rfl rfl rfl rfl

theorem launch_keeps {s0 : State} {port : Nat} {time : Nat} {f : FabricHeader} {data : Bytes} {s : State}
    (h : Keeps s0 s) :
    Keeps s0 (launch port time f data s) := by
  unfold launch
  split
  · rename_i y4
    refine Keeps.ofPair1 (a := s0) y4 ?_ (fun h5 => ?_)
    · exact takeCredits_keeps h
    extract_lets v6 v7
    exact queuePacket_keeps (Keeps.put h5 rfl rfl rfl rfl rfl)

theorem sendOnPort_keeps {s0 : State} {port : Nat} {start : Nat} {time : Nat} {origin : Option Nat}
    {p : FabricPacket} {s : State} (h : Keeps s0 s) :
    Keeps s0 (sendOnPort port start time origin p s).2 := by
  unfold sendOnPort
  extract_lets v1 v2 v3 v4 v5 v6 v7 v8 v9
  refine Keeps.mid (a := s0) v6 ?_ (fun h10 => ?_)
  · unfold v6
    exact Keeps.ite (fun _ => count64_keeps h) (fun _ => h)
  clear_value v6
  refine Keeps.mid (a := s0) v8 ?_ (fun h11 => ?_)
  · unfold v8
    split
    · exact h10
    · exact crossTrunk_keeps h10
  clear_value v8
  split
  · dsimp only
    exact raise_keeps h
  · split
    · dsimp only
      exact h
    · split
      · dsimp only
        exact h
      · split
        · dsimp only
          exact holdPacket_keeps h
        · dsimp only
          exact launch_keeps (Keeps.put h11 rfl rfl rfl rfl rfl)

theorem routePacket_keeps {s0 : State} {start : Nat} {time : Nat} {origin : Option Nat} {p : FabricPacket}
    {s : State} (h : Keeps s0 s) :
    Keeps s0 (routePacket start time origin p s).2 := by
  unfold routePacket
  extract_lets v1
  split
  · dsimp only
    exact raise_keeps h
  · split
    · dsimp only
      exact holdPacket_keeps h
    · exact sendOnPort_keeps h

theorem respond_keeps {s0 : State} {req : FabricHeader} {code : Nat} {data : Bytes} {poison : Bool}
    {tower : Nat} {s : State} (h : Keeps s0 s) :
    Keeps s0 (respond req code data poison tower s) := by
  unfold respond
  exact routePacket_keeps h

theorem limiterOf_keeps {s0 : State} {t : Nat} {target : Nat} {s : State} (h : Keeps s0 s) :
    Keeps s0 (limiterOf t target s).2 := by
  unfold limiterOf
  extract_lets v1 v2 v3 v4 v5
  split
  · dsimp only
    exact h
  · dsimp only
    exact Keeps.put h rfl rfl rfl rfl rfl

theorem changeLimiter_keeps {s0 : State} {t : Nat} {target : Nat} {f : Limiter → Limiter} {s : State}
    (h : Keeps s0 s) :
    Keeps s0 (changeLimiter t target f s) := by
  unfold changeLimiter
  exact Keeps.put h rfl rfl rfl rfl rfl

theorem chargeLimiter_keeps {s0 : State} {t : Nat} {target : Nat} {s : State} (h : Keeps s0 s) :
    Keeps s0 (chargeLimiter t target s).2 := by
  unfold chargeLimiter
  split
  · rename_i y4
    refine Keeps.ofPair1 (a := s0) y4 ?_ (fun h5 => ?_)
    · exact limiterOf_keeps h
    extract_lets v6
    dsimp only
    exact changeLimiter_keeps h5

theorem limiterEcho_keeps {s0 : State} {t : Nat} {target : Nat} {s : State} (h : Keeps s0 s) :
    Keeps s0 (limiterEcho t target s) := by
  unfold limiterEcho
  exact changeLimiter_keeps h

end Sys2Proof.Machine
end

