-- ==== Sys2Proof/Laws/KeepsNotices.lean ====
section
/-! SUPPORT. What the operations of Machine/Notices.lean keep: one lemma for each. -/

set_option Elab.async false

namespace Sys2Proof.Machine

theorem changeSubscriber_keeps {s0 : State} {i : Nat} {f : Subscriber → Subscriber} {s : State} (h : Keeps s0 s)
    :
    Keeps s0 (changeSubscriber i f s) := by
  unfold changeSubscriber
  exact Keeps.put h rfl rfl rfl rfl rfl

theorem putNotice_keeps {s0 : State} {i : Nat} {q : BitVec 16} {data : Bytes} {s : State} (h : Keeps s0 s) :
    Keeps s0 (putNotice i q data s) := by
  unfold putNotice
  exact Keeps.ite (fun _ => h) (fun _ => Keeps.put h rfl rfl rfl rfl rfl)

theorem emitNotice_keeps {s0 : State} {i : Nat} {data : Bytes} {s : State} (h : Keeps s0 s) :
    Keeps s0 (emitNotice i data s) := by
  unfold emitNotice
  extract_lets v1
  exact changeSubscriber_keeps (putNotice_keeps h)

theorem dropNotice_keeps {s0 : State} {who : Option Bytes} {s : State} (h : Keeps s0 s) :
    Keeps s0 (dropNotice who s) := by
  unfold dropNotice
  extract_lets v1 v2 v3 v4
  refine Keeps.mid (a := s0) v2 ?_ (fun h5 => ?_)
  · unfold v2
    exact Keeps.put h rfl rfl rfl rfl rfl
  clear_value v2
  exact Keeps.ite (fun _ => raise_keeps (Keeps.put h5 rfl rfl rfl rfl rfl)) (fun _ => h5)

theorem sendNotice_keeps {s0 : State} {i : Nat} {fabric : Bool} {data : Bytes} {s : State} (h : Keeps s0 s) :
    Keeps s0 (sendNotice i fabric data s) := by
  unfold sendNotice
  extract_lets v1 v2
  refine Keeps.ite (fun _ => ?_) (fun _ => ?_)
  · exact emitNotice_keeps h
  · exact Keeps.ite (fun _ => changeSubscriber_keeps h) (fun _ => dropNotice_keeps h)

theorem fabricNotice_keeps {s0 : State} {job : BitVec 16} {target : Nat} {code : Nat} {s : State}
    (h : Keeps s0 s) :
    Keeps s0 (fabricNotice job target code s) := by
  unfold fabricNotice
  extract_lets v1 v2 v3 v4 v5 v6
  refine Keeps.mid (a := s0) v3 ?_ (fun h7 => ?_)
  · unfold v3
    exact Keeps.put h rfl rfl rfl rfl rfl
  clear_value v3
  refine Keeps.ite (fun _ => ?_) (fun _ => ?_)
  · exact h
  · refine Keeps.ite (fun _ => ?_) (fun _ => ?_)
    · exact Keeps.put h7 rfl rfl rfl rfl rfl
    · exact Keeps.fold h7 (fun _ _ h10 => sendNotice_keeps h10)

theorem fabricFailure_keeps {s0 : State} {p : FabricPacket} {code : Nat} {s : State} (h : Keeps s0 s) :
    Keeps s0 (fabricFailure p code s) := by
  unfold fabricFailure
  extract_lets v1
  refine Keeps.ite (fun _ => ?_) (fun _ => ?_)
  · exact fabricNotice_keeps (raise_keeps (count32_keeps h))
  · exact Keeps.ite (fun _ => fabricNotice_keeps (raise_keeps h)) (fun _ => h)

theorem releaseHeld_keeps {s0 : State} {a0 : Nat} {a1 : Nat} {a2 : State} (h : Keeps s0 a2) :
    Keeps s0 (releaseHeld a0 a1 a2) := by
  induction a0 generalizing a1 a2 h
  · rw [releaseHeld]
    exact h
  · rename_i ih2
    rw [releaseHeld]
    split
    · exact h
    · exact Keeps.ite (fun _ => ih2 (emitNotice_keeps (changeSubscriber_keeps h))) (fun _ => h)

theorem eventNotice_keeps {s0 : State} {code : Nat} {record : Bytes} {s : State} (h : Keeps s0 s) :
    Keeps s0 (eventNotice code record s) := by
  unfold eventNotice
  extract_lets v1
  exact Keeps.fold h (fun _ _ h4 => sendNotice_keeps h4)

end Sys2Proof.Machine
end

