-- ==== Sys2Proof/Laws/KeepsTranslate.lean ====
section
/-! SUPPORT. What the operations of Machine/Translate.lean keep: one lemma for each. -/

set_option Elab.async false

namespace Sys2Proof.Machine

theorem worldDenied_keeps {s0 : State} {tower : Option Nat} {partition : Option Nat} {function : Option Nat}
    {port : Option Nat} {address : Option Nat} {secure : Bool} {s : State} (h : Keeps s0 s) :
    Keeps s0 (worldDenied tower partition function port address secure s) := by
  unfold worldDenied
  exact raise_keeps (count32_keeps h)

theorem readEntry_keeps {s0 : State} {t : Nat} {p : Nat} {a : Nat} {s : State} (h : Keeps s0 s) :
    Keeps s0 (readEntry t p a s).2 := by
  unfold readEntry
  extract_lets v1
  split
  · dsimp only
    exact h
  · split
    · dsimp only
      exact worldDenied_keeps h
    · split
      · dsimp only
        exact h
      · split
        · rename_i y12
          refine Keeps.ofPair2 (a := s0) y12 ?_ (fun h13 => ?_)
          · exact readLine_keeps h
          split
          · dsimp only
            exact h13
          · dsimp only
            exact h13

theorem readTable_keeps {s0 : State} {t : Nat} {p : Nat} {a : Nat} {level : Nat} {far : Far} {s : State}
    (h : Keeps s0 s) :
    Keeps s0 (readTable t p a level far s).2 := by
  unfold readTable
  extract_lets v1
  split
  · exact readEntry_keeps h
  · split
    · exact readEntry_keeps h
    · split
      · dsimp only
        exact h
      · split
        · dsimp only
          exact h
        · dsimp only
          exact h

theorem dropWalk_keeps {s0 : State} {t : Nat} {p : Nat} {level : Nat} {index : Nat} {s : State} (h : Keeps s0 s)
    :
    Keeps s0 (dropWalk t p level index s) := by
  unfold dropWalk
  exact Keeps.put h rfl rfl rfl rfl rfl

theorem poisonedTable_keeps {s0 : State} {t : Nat} {p : Nat} {va : Nat} {level : Nat} {s : State}
    (h : Keeps s0 s) :
    Keeps s0 (poisonedTable t p va level s) := by
  unfold poisonedTable
  exact dropWalk_keeps h

theorem readLast_keeps {s0 : State} {t : Nat} {p : Nat} {va : Nat} {table : Nat} {far : Far} {s : State}
    (h : Keeps s0 s) :
    Keeps s0 (readLast t p va table far s).2 := by
  unfold readLast
  split
  · rename_i y4
    refine Keeps.ofPair1 (a := s0) y4 ?_ (fun h5 => ?_)
    · exact readTable_keeps h
    split
    · refine Keeps.ofPair1 (a := s0) y4 ?_ (fun h10 => ?_)
      · exact readTable_keeps h
      dsimp only
      exact poisonedTable_keeps h5
    · refine Keeps.ofPair1 (a := s0) y4 ?_ (fun h15 => ?_)
      · exact readTable_keeps h
      dsimp only
      exact h5
    · refine Keeps.ofPair1 (a := s0) y4 ?_ (fun h19 => ?_)
      · exact readTable_keeps h
      split
      · dsimp only
        exact h5
      · split
        · dsimp only
          exact h5
        · dsimp only
          exact h5

theorem cachePut_keeps {s0 : State} {α : Type} [DecidableEq α] {cap : Nat} {x : α} {xs : List α} {s : State}
    (h : Keeps s0 s) :
    Keeps s0 (cachePut cap x xs s).2 := by
  unfold cachePut
  split
  · dsimp only
    exact h
  · split
    · dsimp only
      exact h
    · split
      · rename_i y8
        refine Keeps.ofPair1 (a := s0) y8 ?_ (fun h9 => ?_)
        · exact draw_keeps h
        dsimp only
        exact h9

theorem keepWalk_keeps {s0 : State} {t : Nat} {w : WalkLine} {s : State} (h : Keeps s0 s) :
    Keeps s0 (keepWalk t w s) := by
  unfold keepWalk
  split
  · rename_i y4
    refine Keeps.ofPair1 (a := s0) y4 ?_ (fun h5 => ?_)
    · exact cachePut_keeps h
    exact Keeps.put h5 rfl rfl rfl rfl rfl

theorem walkFrom_keeps {s0 : State} {t : Nat} {p : Nat} {va : Nat} {far : Far} {a4 : Nat} {a5 : Nat}
    {a6 : State} (h : Keeps s0 a6) :
    Keeps s0 (walkFrom t p va far a4 a5 a6).2 := by
  induction a4 generalizing t p va far a5 a6 h
  · rw [walkFrom]
    exact readLast_keeps h
  · rename_i ih2
    rw [walkFrom]
    split
    · exact ih2 h
    · split
      · rename_i y11
        refine Keeps.ofPair1 (a := s0) y11 ?_ (fun h12 => ?_)
        · exact readTable_keeps h
        split
        · refine Keeps.ofPair1 (a := s0) y11 ?_ (fun h17 => ?_)
          · exact readTable_keeps h
          dsimp only
          exact poisonedTable_keeps h12
        · refine Keeps.ofPair1 (a := s0) y11 ?_ (fun h22 => ?_)
          · exact readTable_keeps h
          dsimp only
          exact h12
        · refine Keeps.ofPair1 (a := s0) y11 ?_ (fun h26 => ?_)
          · exact readTable_keeps h
          split
          · dsimp only
            exact h12
          · split
            · split
              · dsimp only
                exact h12
              · dsimp only
                exact h12
            · split
              · dsimp only
                exact h12
              · split
                · split
                  · exact ih2 (keepWalk_keeps h12)
                  · dsimp only
                    exact h12
                · dsimp only
                  exact h12

theorem walk_keeps {s0 : State} {t : Nat} {p : Nat} {va : Nat} {engine : Option Nat} {far : Far} {s : State}
    (h : Keeps s0 s) :
    Keeps s0 (walk t p va engine far s).2 := by
  unfold walk
  extract_lets v1 v2 v3
  refine Keeps.mid (a := s0) v1 ?_ (fun h4 => ?_)
  · unfold v1
    split
    · exact h
    · exact count64_keeps h
  clear_value v1
  split
  · dsimp only
    exact h4
  · split
    · dsimp only
      exact h4
    · split
      · dsimp only
        exact h4
      · split
        · rename_i y25
          refine Keeps.ofPair1 (a := s0) y25 ?_ (fun h26 => ?_)
          · exact walkFrom_keeps h4
          split
          · refine Keeps.ofPair1 (a := s0) y25 ?_ (fun h30 => ?_)
            · exact walkFrom_keeps h4
            dsimp only
            exact raise_keeps h26
          · dsimp only
            exact h26

theorem keepLeaf_keeps {s0 : State} {t : Nat} {l : Leaf} {s : State} (h : Keeps s0 s) :
    Keeps s0 (keepLeaf t l s) := by
  unfold keepLeaf
  split
  · rename_i y4
    refine Keeps.ofPair1 (a := s0) y4 ?_ (fun h5 => ?_)
    · exact cachePut_keeps h
    exact Keeps.put h5 rfl rfl rfl rfl rfl

theorem walkAndCheck_keeps {s0 : State} {t : Nat} {p : Nat} {va : Nat} {kind : Kind} {engine : Option Nat}
    {far : Far} {s : State} (h : Keeps s0 s) :
    Keeps s0 (walkAndCheck t p va kind engine far s).2 := by
  unfold walkAndCheck
  split
  · rename_i y4
    refine Keeps.ofPair1 (a := s0) y4 ?_ (fun h5 => ?_)
    · exact walk_keeps h
    split
    · refine Keeps.ofPair1 (a := s0) y4 ?_ (fun h9 => ?_)
      · exact walk_keeps h
      dsimp only
      exact h5
    · refine Keeps.ofPair1 (a := s0) y4 ?_ (fun h14 => ?_)
      · exact walk_keeps h
      extract_lets v15
      refine Keeps.mid (a := s0) v15 ?_ (fun h16 => ?_)
      · unfold v15
        exact keepLeaf_keeps h5
      clear_value v15
      dsimp only
      exact h16

theorem translateNow_keeps {s0 : State} {t : Nat} {p : Nat} {va : Nat} {kind : Kind} {s : State}
    (h : Keeps s0 s) :
    Keeps s0 (translateNow t p va kind s).2 := by
  unfold translateNow
  split
  · exact walkAndCheck_keeps h
  · dsimp only
    exact h

end Sys2Proof.Machine
end

