-- ==== Sys2Proof/Laws/KeepsDmaOps.lean ====
section
/-! SUPPORT. What the operations of Machine/DmaOps.lean keep: one lemma for each. -/

set_option Elab.async false

namespace Sys2Proof.Machine

theorem putDesc_keeps {s0 : State} {k : Nat} {i : Nat} {d : Desc} {s : State} (h : Keeps s0 s) :
    Keeps s0 (putDesc k i d s) := by
  unfold putDesc
  exact Keeps.put h rfl rfl rfl rfl rfl

theorem changeDesc_keeps {s0 : State} {k : Nat} {i : Nat} {f : Desc → Desc} {s : State} (h : Keeps s0 s) :
    Keeps s0 (changeDesc k i f s) := by
  unfold changeDesc
  split
  · exact h
  · exact putDesc_keeps h

theorem activate_keeps {s0 : State} {k : Nat} {s : State} (h : Keeps s0 s) : Keeps s0 (activate k s) := by
  unfold activate
  exact Keeps.fold h (fun _ _ h3 => changeDesc_keeps h3)

theorem finishDesc_keeps {s0 : State} {k : Nat} {i : Nat} {code : Nat} {s : State} (h : Keeps s0 s) :
    Keeps s0 (finishDesc k i code s) := by
  unfold finishDesc
  exact changeDesc_keeps h

theorem advanceCursor_keeps {s0 : State} {k : Nat} {i : Nat} {n : Nat} {s : State} (h : Keeps s0 s) :
    Keeps s0 (advanceCursor k i n s) := by
  unfold advanceCursor
  split
  · exact h
  · extract_lets v6 v7
    refine Keeps.ite (fun _ => ?_) (fun _ => ?_)
    · exact putDesc_keeps h
    · exact Keeps.ite (fun _ => putDesc_keeps h) (fun _ => putDesc_keeps h)

theorem keepPage_keeps {s0 : State} {k : Nat} {i : Nat} {va : Nat} {s : State} (h : Keeps s0 s) :
    Keeps s0 (keepPage k i va s) := by
  unfold keepPage
  exact changeDesc_keeps h

theorem loseFault_keeps {s0 : State} {p : Nat} {t : Nat} {tag : Option (BitVec 16)} {e : Option Nat} {s : State}
    (h : Keeps s0 s) :
    Keeps s0 (loseFault p t tag e s) := by
  unfold loseFault
  exact raise_keeps (count32_keeps (Keeps.put h rfl rfl rfl rfl rfl))

theorem recordTag_keeps {s0 : State} {p : Nat} {s : State} (h : Keeps s0 s) : Keeps s0 (recordTag p s).2 := by
  unfold recordTag
  extract_lets v1 v2 v3
  dsimp only
  exact Keeps.put h rfl rfl rfl rfl rfl

theorem writeFaultRecord_keeps {s0 : State} {r : FaultRecord} {expects : Bool} {during : Bool} {s : State}
    (h : Keeps s0 s) :
    Keeps s0 (writeFaultRecord r expects during s) := by
  unfold writeFaultRecord
  extract_lets v1 v2 v3 v4 v5 v6
  refine Keeps.mid (a := s0) v3 ?_ (fun h7 => ?_)
  · unfold v3
    exact postWrite_keeps h
  clear_value v3
  refine Keeps.mid (a := s0) v5 ?_ (fun h8 => ?_)
  · unfold v5
    exact Keeps.put h7 rfl rfl rfl rfl rfl
  clear_value v5
  refine Keeps.mid (a := s0) v6 ?_ (fun h9 => ?_)
  · unfold v6
    exact writeShadow_keeps (changeQueue_keeps h8)
  clear_value v6
  exact signalFault_keeps (raise_keeps h9)

theorem parkDesc_keeps {s0 : State} {k : Nat} {i : Nat} {va : Nat} {cause : Nat} {level : Nat} {kind : Kind}
    {remote : Nat} {s : State} (h : Keeps s0 s) :
    Keeps s0 (parkDesc k i va cause level kind remote s) := by
  unfold parkDesc
  split
  · exact h
  · extract_lets v6 v7 v8 v9 v10 v11 v12 v13 v14 v15
    refine Keeps.mid (a := s0) v14 ?_ (fun h16 => ?_)
    · unfold v14
      exact finishDesc_keeps (putDesc_keeps h)
    clear_value v14
    refine Keeps.ite (fun _ => ?_) (fun _ => ?_)
    · refine Keeps.ite (fun _ => ?_) (fun _ => ?_)
      · exact loseFault_keeps h16
      · split
        · rename_i y20
          refine Keeps.ofPair1 (a := s0) y20 ?_ (fun h21 => ?_)
          · exact recordTag_keeps h16
          exact writeFaultRecord_keeps h21
    · split
      · simp only [v10]
        exact putDesc_keeps (Keeps.put h rfl rfl rfl rfl rfl)
      · refine Keeps.ite (fun _ => ?_) (fun _ => ?_)
        · split
          · rename_i y30
            refine Keeps.ofPair1 (a := s0) y30 ?_ (fun h31 => ?_)
            · exact recordTag_keeps h
            simp only [v10]
            exact putDesc_keeps (Keeps.put h31 rfl rfl rfl rfl rfl)
        · refine Keeps.ite (fun _ => ?_) (fun _ => ?_)
          · exact finishDesc_keeps (putDesc_keeps (loseFault_keeps h))
          · split
            · rename_i y35
              refine Keeps.ofPair1 (a := s0) y35 ?_ (fun h36 => ?_)
              · exact recordTag_keeps h
              simp only [v10]
              exact putDesc_keeps (writeFaultRecord_keeps (Keeps.put h36 rfl rfl rfl rfl rfl))

theorem waitFor_keeps {s0 : State} {k : Nat} {i : Nat} {w : Wait} {s : State} (h : Keeps s0 s) :
    Keeps s0 (waitFor k i w s) := by
  unfold waitFor
  exact changeDesc_keeps h

theorem withSide_keeps {s0 : State} {k : Nat} {i : Nat} {d : Desc} {spad : Bool} {va : Nat} {kind : Kind}
    {go : Nat → Nat → Bool → State → State} {s : State}
    (h_go : ∀ (z0 : Nat) (z1 : Nat) (z2 : Bool) (z3 : State), Keeps s0 z3 → Keeps s0 (go z0 z1 z2 z3))
    (h : Keeps s0 s) :
    Keeps s0 (withSide k i d spad va kind go s) := by
  unfold withSide
  extract_lets v1
  refine Keeps.mid (a := s0) v1 ?_ (fun h2 => ?_)
  · unfold v1
    exact changeDesc_keeps h
  clear_value v1
  split
  · exact h_go _ _ _ _ (Keeps.ite (fun _ => h2) (fun _ => keepPage_keeps h2))
  · exact finishDesc_keeps h2
  · exact parkDesc_keeps h2
  · exact waitFor_keeps h2

theorem atomicDone_keeps {s0 : State} {k : Nat} {i : Nat} {code : Nat} {old : Nat} {s : State} (h : Keeps s0 s)
    :
    Keeps s0 (atomicDone k i code old s) := by
  unfold atomicDone
  split
  · exact h
  · extract_lets v6
    refine Keeps.mid (a := s0) v6 ?_ (fun h7 => ?_)
    · unfold v6
      exact Keeps.ite (fun _ => h) (fun _ => spadWrite_keeps h)
    clear_value v6
    exact advanceCursor_keeps (changeDesc_keeps h7)

theorem waitForBase_keeps {s0 : State} {k : Nat} {i : Nat} {b : Nat} {s : State} (h : Keeps s0 s) :
    Keeps s0 (waitForBase k i b s) := by
  unfold waitForBase
  exact Keeps.ite (fun _ => finishDesc_keeps h) (fun _ => waitFor_keeps h)

theorem hostRequest_keeps {s0 : State} {d : Desc} {a : Nat} {len : Nat} {for_ : ReadFor} {s : State}
    (h : Keeps s0 s) :
    Keeps s0 (hostRequest d a len for_ s).2 := by
  unfold hostRequest
  extract_lets v1 v2
  dsimp only
  exact Keeps.put h rfl rfl rfl rfl rfl

theorem reissueHeld_keeps {s0 : State} {k : Nat} {i : Nat} {r : FabricReq} {s : State} (h : Keeps s0 s) :
    Keeps s0 (reissueHeld k i r s) := by
  unfold reissueHeld
  split
  · rename_i y4
    refine Keeps.ofPair1 (a := s0) y4 ?_ (fun h5 => ?_)
    · exact chargeLimiter_keeps h
    split
    · rename_i y9
      refine Keeps.ofPair1 (a := s0) y9 ?_ (fun h10 => ?_)
      · exact routePacket_keeps h5
      extract_lets v11 v12
      split
      · refine Keeps.ofPair1 (a := s0) y9 ?_ (fun h16 => ?_)
        · exact routePacket_keeps h5
        exact finishDesc_keeps (fabricFailure_keeps h10)
      · refine Keeps.ofPair1 (a := s0) y9 ?_ (fun h19 => ?_)
        · exact routePacket_keeps h5
        exact waitFor_keeps (Keeps.put h10 rfl rfl rfl rfl rfl)

theorem takeSequence_keeps {s0 : State} {target : Nat} {s : State} (h : Keeps s0 s) :
    OptPairKeeps s0 (takeSequence target s) := by
  unfold takeSequence
  extract_lets v1 v2 v3 v4
  split
  · exact OptPairKeeps.none
  · refine OptPairKeeps.some ?_
    dsimp only
    exact Keeps.put h rfl rfl rfl rfl rfl

theorem takeTag_keeps {s0 : State} {key : Nat} {outstanding : BitVec 16 → Bool} {s : State} (h : Keeps s0 s) :
    Keeps s0 (takeTag key outstanding s).2 := by
  unfold takeTag
  extract_lets v1 v2 v3
  dsimp only
  exact Keeps.put h rfl rfl rfl rfl rfl

theorem fabricRequest_keeps {s0 : State} {k : Nat} {i : Nat} {d : Desc} {kind : Nat} {a : Nat} {enables : Nat}
    {atomic : Nat} {poison : Bool} {data : Bytes} {s : State} (h : Keeps s0 s) :
    Keeps s0 (fabricRequest k i d kind a enables atomic poison data s) := by
  unfold fabricRequest
  extract_lets v1 v2 v3 v4
  split
  · exact finishDesc_keeps h
  · refine Keeps.ite (fun _ => ?_) (fun _ => ?_)
    · exact finishDesc_keeps h
    · refine Keeps.ite (fun _ => ?_) (fun _ => ?_)
      · exact finishDesc_keeps h
      · split
        · exact waitForBase_keeps h
        · split
          · exact reissueHeld_keeps h
          · unfold v4
            split
            · exact waitFor_keeps h
            · rename_i y25
              refine OptPairKeeps.out (a := s0) y25 ?_ (fun h26 => ?_)
              · split
                · exact takeSequence_keeps h
                · refine OptPairKeeps.some ?_
                  dsimp only
                  exact h
              extract_lets v29
              split
              · rename_i y33
                refine Keeps.ofPair1 (a := s0) y33 ?_ (fun h34 => ?_)
                · exact takeTag_keeps h26
                split
                · rename_i y38
                  refine Keeps.ofPair1 (a := s0) y38 ?_ (fun h39 => ?_)
                  · exact chargeLimiter_keeps h34
                  extract_lets v40 v41
                  split
                  · rename_i y45
                    refine Keeps.ofPair1 (a := s0) y45 ?_ (fun h46 => ?_)
                    · exact routePacket_keeps h39
                    split
                    · refine Keeps.ofPair1 (a := s0) y45 ?_ (fun h50 => ?_)
                      · exact routePacket_keeps h39
                      exact finishDesc_keeps (fabricFailure_keeps h46)
                    · refine Keeps.ofPair1 (a := s0) y45 ?_ (fun h53 => ?_)
                      · exact routePacket_keeps h39
                      exact waitFor_keeps (Keeps.put h46 rfl rfl rfl rfl rfl)

theorem retryLater_keeps {s0 : State} {k : Nat} {i : Nat} {s : State} (h : Keeps s0 s) :
    Keeps s0 (retryLater k i s) := by
  unfold retryLater
  exact changeDesc_keeps h

theorem lineStop_keeps {s0 : State} {k : Nat} {i : Nat} {t : Nat} {u : Nat} {target : Nat} {a : Nat} {s : State}
    (h : Keeps s0 s) :
    OptKeeps s0 (lineStop k i t u target a s) := by
  unfold lineStop
  split
  · exact OptKeeps.some (finishDesc_keeps h)
  · split
    · exact OptKeeps.some (waitForBase_keeps h)
    · split
      · exact OptKeeps.some (retryLater_keeps h)
      · split
        · exact OptKeeps.some (Keeps.ite (fun _ => waitFor_keeps h) (fun _ => retryLater_keeps h))
        · split
          · exact OptKeeps.some (waitFor_keeps h)
          · exact .none

theorem descDenied_keeps {s0 : State} {k : Nat} {i : Nat} {d : Desc} {u : Nat} {a : Nat} {s : State}
    (h : Keeps s0 s) :
    Keeps s0 (descDenied k i d u a s) := by
  unfold descDenied
  exact finishDesc_keeps (worldDenied_keeps h)

theorem sendOpen_keeps {s0 : State} {src : Nat} {dst : Nat} {p : OpenPacket} {class_ : Nat} {s : State}
    (h : Keeps s0 s) :
    Keeps s0 (sendOpen src dst p class_ s) := by
  unfold sendOpen
  exact Keeps.ite (fun _ => Keeps.put h rfl rfl rfl rfl rfl) (fun _ => sendMesh_keeps h)

theorem openSend_keeps {s0 : State} {t : Nat} {requester : Nat} {d : Desc} {u : Nat} {kind : Nat} {lines : Nat}
    {a : Nat} {enables : Nat} {atomic : Nat} {poison : Bool} {data : Bytes} {s : State} (h : Keeps s0 s) :
    Keeps s0 (openSend t requester d u kind lines a enables atomic poison data s).2 := by
  unfold openSend
  extract_lets v1
  split
  · rename_i y5
    refine Keeps.ofPair1 (a := s0) y5 ?_ (fun h6 => ?_)
    · exact takeTag_keeps h
    extract_lets v7 v8
    dsimp only
    exact sendOpen_keeps (Keeps.put h6 rfl rfl rfl rfl rfl)

theorem openRequest_keeps {s0 : State} {k : Nat} {i : Nat} {d : Desc} {u : Nat} {kind : Nat} {lines : Nat}
    {a : Nat} {enables : Nat} {atomic : Nat} {poison : Bool} {data : Bytes} {s : State} (h : Keeps s0 s) :
    Keeps s0 (openRequest k i d u kind lines a enables atomic poison data s) := by
  unfold openRequest
  split
  · rename_i y4
    refine Keeps.ofPair1 (a := s0) y4 ?_ (fun h5 => ?_)
    · exact openSend_keeps h
    exact waitFor_keeps h5

theorem spadAtomic_keeps {s0 : State} {key : Nat} {f : Nat → Nat} {s : State} (h : Keeps s0 s) :
    Keeps s0 (spadAtomic key f s).2.2 := by
  unfold spadAtomic
  extract_lets v1
  split
  · dsimp only
    exact h
  · dsimp only
    exact spadWrite_keeps h

theorem sendInvalidations_keeps {s0 : State} {a : Nat} {owedOpen : List (Nat × OpenPacket)}
    {owedFabric : List (BitVec 256 × Nat × Bytes)} {s : State} (h : Keeps s0 s) :
    Keeps s0 (sendInvalidations a owedOpen owedFabric s) := by
  unfold sendInvalidations
  extract_lets v1 v2 v3 v4 v5 v6
  refine Keeps.mid (a := s0) v4 ?_ (fun h7 => ?_)
  · unfold v4
    exact count64_keeps h
  clear_value v4
  refine Keeps.mid (a := s0) v6 ?_ (fun h8 => ?_)
  · unfold v6
    exact Keeps.put h7 rfl rfl rfl rfl rfl
  clear_value v6
  exact Keeps.fold h8 (fun _ _ h11 => sendMesh_keeps h11)

theorem waitInvalidations_keeps {s0 : State} {k : Nat} {i : Nat} {a : Nat} {s : State} (h : Keeps s0 s) :
    Keeps s0 (waitInvalidations k i a s) := by
  unfold waitInvalidations
  exact waitFor_keeps (sendInvalidations_keeps h)

theorem atomicSide_keeps {s0 : State} {k : Nat} {i : Nat} {d : Desc} {target : Nat} {a : Nat} {s : State}
    (h : Keeps s0 s) :
    Keeps s0 (atomicSide k i d target a s) := by
  unfold atomicSide
  extract_lets v1 v2 v3 v4 v5 v6 v7 v8 v9
  refine Keeps.ite (fun _ => ?_) (fun _ => ?_)
  · exact atomicDone_keeps h
  · split
    · split
      · exact finishDesc_keeps h
      · refine Keeps.ite (fun _ => ?_) (fun _ => ?_)
        · exact finishDesc_keeps h
        · split
          · exact waitForBase_keeps h
          · split
            · rename_i y24
              refine Keeps.ofPair1 (a := s0) y24 ?_ (fun h25 => ?_)
              · exact hostRequest_keeps h
              refine waitFor_keeps ?_
              simp only [v7]
              exact changeDesc_keeps h25
    · refine fabricRequest_keeps ?_
      simp only [v7]
      exact changeDesc_keeps h
    · split
      · rename_i y32
        refine OptKeeps.out (a := s0) y32 ?_ (fun h33 => ?_)
        · exact lineStop_keeps h
        exact h33
      · refine Keeps.ite (fun _ => ?_) (fun _ => ?_)
        · exact descDenied_keeps h
        · refine Keeps.ite (fun _ => ?_) (fun _ => ?_)
          · refine openRequest_keeps ?_
            simp only [v7]
            exact changeDesc_keeps h
          · split
            · rename_i y40
              refine Keeps.ofPair2 (a := s0) y40 ?_ (fun h41 => ?_)
              · split
                · exact spadAtomic_keeps h
                · exact atomicLine_keeps h
              refine Keeps.ite (fun _ => ?_) (fun _ => ?_)
              · exact atomicDone_keeps h41
              · refine waitInvalidations_keeps ?_
                refine changeDesc_keeps ?_
                simp only [v7]
                exact changeDesc_keeps h41

theorem rowMoveSide_keeps {s0 : State} {k : Nat} {i : Nat} {d : Desc} {va : Nat} {target : Nat} {a : Nat}
    {dst : Nat} {s : State} (h : Keeps s0 s) :
    Keeps s0 (rowMoveSide k i d va target a dst s) := by
  unfold rowMoveSide
  extract_lets v1 v2 v3
  refine Keeps.mid (a := s0) v3 ?_ (fun h4 => ?_)
  · unfold v3
    refine Keeps.fold ?_ (fun s5 x6 h7 => ?_)
    · exact h
    · split
      · rename_i y12
        refine Keeps.ofPair2 (a := s0) y12 ?_ (fun h13 => ?_)
        · exact readLine_keeps h7
        exact spadWrite_keeps (changeDesc_keeps h13)
  clear_value v3
  refine Keeps.ite (fun _ => ?_) (fun _ => ?_)
  · exact parkDesc_keeps h
  · refine Keeps.ite (fun _ => ?_) (fun _ => ?_)
    · exact finishDesc_keeps h
    · split
      · rename_i y16
        refine OptKeeps.out (a := s0) y16 ?_ (fun h17 => ?_)
        · exact OptKeeps.or (lineStop_keeps h) (lineStop_keeps h)
        exact h17
      · refine Keeps.ite (fun _ => ?_) (fun _ => ?_)
        · exact finishDesc_keeps h
        · refine Keeps.ite (fun _ => ?_) (fun _ => ?_)
          · exact descDenied_keeps h
          · exact Keeps.ite (fun _ => descDenied_keeps h) (fun _ => advanceCursor_keeps h4)

theorem lineData_keeps {s0 : State} {off : Nat} {data : Bytes} {s : State} (h : Keeps s0 s) :
    Keeps s0 (lineData off data s).2 := by
  unfold lineData
  split
  · rename_i y4
    refine Keeps.ofPair1 (a := s0) y4 ?_ (fun h5 => ?_)
    · exact drawBytes_keeps h
    split
    · rename_i y9
      refine Keeps.ofPair1 (a := s0) y9 ?_ (fun h10 => ?_)
      · exact drawBytes_keeps h5
      dsimp only
      exact h10

theorem writeOwn_keeps {s0 : State} {d : Desc} {a : Nat} {data : Bytes} {poisoned : Bool} {s : State}
    (h : Keeps s0 s) :
    Keeps s0 (writeOwn d a data poisoned s).2 := by
  unfold writeOwn
  split
  · exact fillLine_keeps h
  · exact writeLine_keeps h

theorem writeSide_keeps {s0 : State} {k : Nat} {i : Nat} {d : Desc} {target : Nat} {a : Nat} {data : Bytes}
    {poisoned : Bool} {s : State} (h : Keeps s0 s) :
    Keeps s0 (writeSide k i d target a data poisoned s) := by
  unfold writeSide
  extract_lets v1 v2 v3 v4 v5
  split
  · split
    · exact finishDesc_keeps h
    · refine Keeps.ite (fun _ => ?_) (fun _ => ?_)
      · exact finishDesc_keeps h
      · split
        · exact waitForBase_keeps h
        · extract_lets v17
          exact advanceCursor_keeps (postWrite_keeps h)
  · split
    · rename_i y22
      refine Keeps.ofPair1 (a := s0) y22 ?_ (fun h23 => ?_)
      · exact lineData_keeps h
      refine fabricRequest_keeps ?_
      simp only [v4]
      exact changeDesc_keeps h23
  · split
    · rename_i y29
      refine OptKeeps.out (a := s0) y29 ?_ (fun h30 => ?_)
      · exact lineStop_keeps h
      exact h30
    · refine Keeps.ite (fun _ => ?_) (fun _ => ?_)
      · exact descDenied_keeps h
      · refine Keeps.ite (fun _ => ?_) (fun _ => ?_)
        · split
          · rename_i y36
            refine Keeps.ofPair1 (a := s0) y36 ?_ (fun h37 => ?_)
            · exact lineData_keeps h
            refine openRequest_keeps ?_
            simp only [v4]
            exact changeDesc_keeps h37
        · refine Keeps.ite (fun _ => ?_) (fun _ => ?_)
          · exact advanceCursor_keeps (spadWrite_keeps h)
          · split
            · rename_i y41
              refine Keeps.ofPair1 (a := s0) y41 ?_ (fun h42 => ?_)
              · exact writeOwn_keeps h
              extract_lets v43
              refine Keeps.mid (a := s0) v43 ?_ (fun h44 => ?_)
              · unfold v43
                exact changeDesc_keeps h42
              clear_value v43
              refine Keeps.ite (fun _ => ?_) (fun _ => ?_)
              · exact advanceCursor_keeps h44
              · refine waitInvalidations_keeps ?_
                simp only [v4]
                exact changeDesc_keeps h44

theorem readDram_keeps {s0 : State} {a : Nat} {len : Nat} {s : State} (h : Keeps s0 s) :
    Keeps s0 (readDram a len s).2.2 := by
  unfold readDram
  extract_lets v1
  split
  · rename_i y6
    refine Keeps.ofPair2 (a := s0) y6 ?_ (fun h7 => ?_)
    · refine Keeps.foldTriple ?_ (fun s8 x9 h10 => ?_)
      · dsimp only
        exact h
      · split
        · rename_i y15
          refine Keeps.ofPair2 (a := s0) y15 ?_ (fun h16 => ?_)
          · exact readLine_keeps h10
          dsimp only
          exact h16
    dsimp only
    exact h7

theorem readLocal_keeps {s0 : State} {target : Nat} {a : Nat} {len : Nat} {s : State} (h : Keeps s0 s) :
    Keeps s0 (readLocal target a len s).2.2 := by
  unfold readLocal
  split
  · exact readDram_keeps h
  · extract_lets v3
    dsimp only
    exact h

theorem gotData_keeps {s0 : State} {k : Nat} {i : Nat} {data : Bytes} {code : Nat} {s : State} (h : Keeps s0 s)
    :
    Keeps s0 (gotData k i data code s) := by
  unfold gotData
  exact changeDesc_keeps h

theorem flushIfLost_keeps {s0 : State} {t : Nat} {s : State} (h : Keeps s0 s) : Keeps s0 (flushIfLost t s) := by
  unfold flushIfLost
  exact Keeps.ite (fun _ => Keeps.put h rfl rfl rfl rfl rfl) (fun _ => h)

theorem readSide_keeps {s0 : State} {k : Nat} {i : Nat} {d : Desc} {target : Nat} {a : Nat} {len : Nat}
    {coherent : Bool} {s : State} (h : Keeps s0 s) :
    Keeps s0 (readSide k i d target a len coherent s) := by
  unfold readSide
  extract_lets v1 v2 v3 v4 v5 v6
  refine Keeps.mid (a := s0) v5 ?_ (fun h7 => ?_)
  · unfold v5
    exact flushIfLost_keeps h
  clear_value v5
  refine Keeps.mid (a := s0) v6 ?_ (fun h8 => ?_)
  · unfold v6
    simp only [v3]
    exact changeDesc_keeps h7
  clear_value v6
  split
  · refine Keeps.ite (fun _ => ?_) (fun _ => ?_)
    · exact finishDesc_keeps h
    · split
      · exact waitForBase_keeps h
      · split
        · rename_i y18
          refine Keeps.ofPair1 (a := s0) y18 ?_ (fun h19 => ?_)
          · exact hostRequest_keeps h
          refine waitFor_keeps ?_
          simp only [v3]
          exact changeDesc_keeps h19
  · refine fabricRequest_keeps ?_
    simp only [v3]
    exact changeDesc_keeps h
  · split
    · rename_i y26
      refine OptKeeps.out (a := s0) y26 ?_ (fun h27 => ?_)
      · exact lineStop_keeps h
      exact h27
    · refine Keeps.ite (fun _ => ?_) (fun _ => ?_)
      · exact descDenied_keeps h
      · refine Keeps.ite (fun _ => ?_) (fun _ => ?_)
        · split
          · rename_i y34
            refine Keeps.ofPair2 (a := s0) y34 ?_ (fun h35 => ?_)
            · exact readLocal_keeps h
            exact gotData_keeps h35
        · refine Keeps.ite (fun _ => ?_) (fun _ => ?_)
          · split
            · exact gotData_keeps h7
            · split
              · exact waitFor_keeps h8
              · split
                · rename_i y49
                  refine Keeps.ofPair1 (a := s0) y49 ?_ (fun h50 => ?_)
                  · exact openSend_keeps h8
                  exact waitFor_keeps (Keeps.put h50 rfl rfl rfl rfl rfl)
          · refine openRequest_keeps ?_
            simp only [v3]
            exact changeDesc_keeps h

theorem stepDesc_keeps {s0 : State} {k : Nat} {i : Nat} {d : Desc} {s : State} (h : Keeps s0 s) :
    Keeps s0 (stepDesc k i d s) := by
  unfold stepDesc
  extract_lets v1 v2 v3
  refine Keeps.ite (fun _ => ?_) (fun _ => ?_)
  · exact finishDesc_keeps h
  · split
    · exact advanceCursor_keeps h
    · refine Keeps.ite (fun _ => ?_) (fun _ => ?_)
      · refine withSide_keeps ?_ ?_
        · intro x12 x13 x14 s15 h16
          exact atomicSide_keeps h16
        · exact h
      · refine Keeps.ite (fun _ => ?_) (fun _ => ?_)
        · extract_lets v17
          refine withSide_keeps ?_ ?_
          · intro x18 x19 x20 s21 h22
            exact rowMoveSide_keeps h22
          · exact h
        · extract_lets v23
          split
          · simp only [v23]
            refine withSide_keeps ?_ ?_
            · intro x26 x27 x28 s29 h30
              exact writeSide_keeps h30
            · exact h
          · refine Keeps.ite (fun _ => ?_) (fun _ => ?_)
            · extract_lets v34 v35
              refine withSide_keeps ?_ ?_
              · intro x36 x37 x38 s39 h40
                exact readSide_keeps h40
              · exact h
            · simp only [v23]
              refine withSide_keeps ?_ ?_
              · intro x41 x42 x43 s44 h45
                exact writeSide_keeps h45
              · exact h
    · exact advanceCursor_keeps h

theorem pumpFuel_keeps {s0 : State} {k : Nat} {a1 : Nat} {a2 : State} (h : Keeps s0 a2) :
    Keeps s0 (pumpFuel k a1 a2) := by
  induction a1 generalizing k a2 h
  · rw [pumpFuel]
    exact h
  · rename_i ih2
    rw [pumpFuel]
    split
    · exact activate_keeps h
    · split
      · exact activate_keeps h
      · exact ih2 (stepDesc_keeps (activate_keeps h))

theorem pump_keeps {s0 : State} {k : Nat} {s : State} (h : Keeps s0 s) : Keeps s0 (pump k s) := by
  unfold pump
  exact pumpFuel_keeps h

theorem skipTag_keeps {s0 : State} {key : Nat} {t : BitVec 16} {s : State} (h : Keeps s0 s) :
    Keeps s0 (skipTag key t s) := by
  unfold skipTag
  exact Keeps.put h rfl rfl rfl rfl rfl

theorem wake_keeps {s0 : State} {p : Wait → Bool} {s : State} (h : Keeps s0 s) : Keeps s0 (wake p s) := by
  unfold wake
  extract_lets v1
  exact Keeps.fold h (fun _ _ h4 => pump_keeps (Keeps.put h4 rfl rfl rfl rfl rfl))

theorem pumpTower_keeps {s0 : State} {t : Nat} {s : State} (h : Keeps s0 s) : Keeps s0 (pumpTower t s) := by
  unfold pumpTower
  exact Keeps.fold h (fun _ _ h3 => pump_keeps h3)

theorem tableRequest_keeps {s0 : State} {k : Nat} {i : Nat} {d : Desc} {va : Nat} {kind : Kind} {a : Nat}
    {level : Nat} {s : State} (h : Keeps s0 s) :
    Keeps s0 (tableRequest k i d va kind a level s) := by
  unfold tableRequest
  split
  · rename_i y4
    refine Keeps.ofPair1 (a := s0) y4 ?_ (fun h5 => ?_)
    · exact openSend_keeps h
    exact waitFor_keeps (changeDesc_keeps h5)

theorem invalidationsDone_keeps {s0 : State} {write : Nat} {s : State} (h : Keeps s0 s) :
    Keeps s0 (invalidationsDone write s) := by
  unfold invalidationsDone
  split
  · exact h
  · exact Keeps.ite (fun _ => pump_keeps (atomicDone_keeps h)) (fun _ => pump_keeps (advanceCursor_keeps h))

end Sys2Proof.Machine
end

