-- ==== Sys2Proof/Laws/KeepsDma.lean ====
section
/-! SUPPORT. What the operations of Machine/Dma.lean keep: one lemma for each. -/

set_option Elab.async false

namespace Sys2Proof.Machine

theorem clusterCleared_keeps {s0 : State} {t : Nat} {k : Nat} {s : State} (h : Keeps s0 s) :
    Keeps s0 (clusterCleared t k s) := by
  unfold clusterCleared
  extract_lets v1 v2 v3
  refine Keeps.mid (a := s0) v2 ?_ (fun h4 => ?_)
  · unfold v2
    exact clearCluster_keeps h
  clear_value v2
  exact Keeps.ite (fun _ => wake_keeps (Keeps.put h4 rfl rfl rfl rfl rfl)) (fun _ => h)

theorem execClusterClearDone_keeps {s0 : State} {tower : Tower} {cluster : Cluster} {s : State} (h : Keeps s0 s)
    :
    OutKeeps s0 (execClusterClearDone tower cluster s) := by
  unfold execClusterClearDone
  exact OutKeeps.next (clusterCleared_keeps h)

theorem pumpPartition_keeps {s0 : State} {p : Nat} {s : State} (h : Keeps s0 s) :
    Keeps s0 (pumpPartition p s) := by
  unfold pumpPartition
  exact Keeps.fold h (fun _ _ h3 => pumpTower_keeps h3)

theorem changeAttached_keeps {s0 : State} {p : Nat} {tag : BitVec 16} {f : Desc → Desc} {s : State}
    (h : Keeps s0 s) :
    Keeps s0 (changeAttached p tag f s) := by
  unfold changeAttached
  extract_lets v1 v2
  exact Keeps.put h rfl rfl rfl rfl rfl

theorem answerAttached_keeps {s0 : State} {p : Nat} {tag : BitVec 16} {retry : Bool} {s : State}
    (h : Keeps s0 s) :
    Keeps s0 (answerAttached p tag retry s) := by
  unfold answerAttached
  exact changeAttached_keeps h

theorem dmaRetry_keeps {s0 : State} {k : Nat} {s : State} (h : Keeps s0 s) : Keeps s0 (dmaRetry k s) := by
  unfold dmaRetry
  extract_lets v1
  split
  · exact h
  · split
    · exact pump_keeps (waitFor_keeps (advanceTo_keeps h))
    · exact h

theorem execDmaRetryBackoff_keeps {s0 : State} {tower : Tower} {engine : EngineNo} {s : State} (h : Keeps s0 s)
    :
    OutKeeps s0 (execDmaRetryBackoff tower engine s) := by
  unfold execDmaRetryBackoff
  exact OutKeeps.next (dmaRetry_keeps h)

theorem rootAct_keeps {s0 : State} {r : Requester} {p : Nat} {a2 : Bytes} {a3 : State} (h : Keeps s0 a3) :
    WKeeps s0 (rootAct r p a2 a3) := by
  unfold rootAct
  extract_lets v1 v2
  split
  · exact .refuse
  · split
    · exact .refuse
    · exact WKeeps.wait (setDictNat_keeps (Keeps.put h rfl rfl rfl rfl rfl))

theorem execTranslationRootWrite_keeps {s0 : State} {req : Req} {partition : Partition} {value : Bytes}
    {s : State} (h : Keeps s0 s) :
    OutKeeps s0 (execTranslationRootWrite req partition value s) := by
  unfold execTranslationRootWrite
  refine OutKeeps.next ?_
  refine serveWrite_keeps ?_ ?_
  · intro x1 s2 h3
    exact rootAct_keeps h3
  · exact h

theorem invalidateAct_keeps {s0 : State} {r : Requester} {a1 : Bytes} {a2 : State} (h : Keeps s0 a2) :
    WKeeps s0 (invalidateAct r a1 a2) := by
  unfold invalidateAct
  extract_lets v1 v2 v3
  split
  · exact .refuse
  · split
    · exact .refuse
    · exact WKeeps.wait (Keeps.put h rfl rfl rfl rfl rfl)

theorem execTranslationInvalidate_keeps {s0 : State} {req : Req} {value : Bytes} {s : State} (h : Keeps s0 s) :
    OutKeeps s0 (execTranslationInvalidate req value s) := by
  unfold execTranslationInvalidate
  refine OutKeeps.next ?_
  refine serveWrite_keeps ?_ ?_
  · intro x1 s2 h3
    exact invalidateAct_keeps h3
  · exact h

theorem dropNamed_keeps {s0 : State} {v : Invalidation} {t : Nat} {s : State} (h : Keeps s0 s) :
    Keeps s0 (dropNamed v t s) := by
  unfold dropNamed
  exact Keeps.put h rfl rfl rfl rfl rfl

theorem invalidateDone_keeps {s0 : State} {p : Nat} {s : State} (h : Keeps s0 s) :
    Keeps s0 (invalidateDone p s) := by
  unfold invalidateDone
  extract_lets v1 v2 v3
  refine Keeps.mid (a := s0) v3 ?_ (fun h4 => ?_)
  · unfold v3
    refine Keeps.fold ?_ (fun s5 x6 h7 => ?_)
    · exact Keeps.put h rfl rfl rfl rfl rfl
    · exact Keeps.fold h7 (fun _ _ h10 => dropNamed_keeps h10)
  clear_value v3
  exact Keeps.ite (fun _ => h) (fun _ => answerWaiting_keeps (answerWaiting_keeps h4))

theorem execInvalidateDone_keeps {s0 : State} {partition : Partition} {s : State} (h : Keeps s0 s) :
    OutKeeps s0 (execInvalidateDone partition s) := by
  unfold execInvalidateDone
  exact OutKeeps.next (invalidateDone_keeps h)

theorem walkEnds_keeps {s0 : State} {k : Nat} {i : Nat} {va : Nat} {kind : Kind} {d : Desc} {x : Xlate}
    {s : State} (h : Keeps s0 s) :
    Keeps s0 (walkEnds k i va kind d x s) := by
  unfold walkEnds
  split
  · exact waitFor_keeps h
  · exact parkDesc_keeps h
  · exact finishDesc_keeps h
  · exact waitFor_keeps h
  · exact tableRequest_keeps h
  · exact h

theorem walkDesc_keeps {s0 : State} {k : Nat} {i : Nat} {va : Nat} {kind : Kind} {d : Desc}
    {answer : Option (Nat × Except Xlate Nat)} {s : State} (h : Keeps s0 s) :
    Keeps s0 (walkDesc k i va kind d answer s) := by
  unfold walkDesc
  split
  · rename_i y4
    refine Keeps.ofPair1 (a := s0) y4 ?_ (fun h5 => ?_)
    · exact walk_keeps h
    refine Keeps.ite (fun _ => ?_) (fun _ => ?_)
    · exact waitFor_keeps (Keeps.ite (fun _ => h) (fun _ => count64_keeps h))
    · split
      · refine Keeps.ofPair1 (a := s0) y4 ?_ (fun h10 => ?_)
        · exact walk_keeps h
        exact walkEnds_keeps h5
      · refine Keeps.ofPair1 (a := s0) y4 ?_ (fun h16 => ?_)
        · exact walk_keeps h
        extract_lets v17
        exact walkEnds_keeps (changeDesc_keeps (keepLeaf_keeps h5))

theorem tableWalk_keeps {s0 : State} {k : Nat} {s : State} (h : Keeps s0 s) : Keeps s0 (tableWalk k s) := by
  unfold tableWalk
  extract_lets v1
  split
  · exact h
  · split
    · exact pump_keeps (walkDesc_keeps h)
    · exact h

theorem execTableWalk_keeps {s0 : State} {tower : Tower} {engine : EngineNo} {s : State} (h : Keeps s0 s) :
    OutKeeps s0 (execTableWalk tower engine s) := by
  unfold execTableWalk
  exact OutKeeps.next (tableWalk_keeps h)

theorem issue_keeps {s0 : State} {t : Nat} {e : Nat} {w : BitVec 512} {s : State} (h : Keeps s0 s) :
    Keeps s0 (issue t e w s) := by
  unfold issue
  split
  · exact h
  · split
    · exact h
    · exact Keeps.ite (fun _ => h) (fun _ => pump_keeps (queueDescs_keeps h))

theorem issueOp_keeps {s0 : State} {op : Nat} {t : Nat} {e : Nat} {w : BitVec 512} {s : State} (h : Keeps s0 s)
    :
    Keeps s0 (issueOp op t e w s) := by
  unfold issueOp
  exact Keeps.ite (fun _ => issue_keeps h) (fun _ => h)

theorem execCopy_keeps {s0 : State} {tower : Tower} {engine : EngineNo} {descriptor : BitVec 512} {s : State}
    (h : Keeps s0 s) :
    OutKeeps s0 (execCopy tower engine descriptor s) := by
  unfold execCopy
  exact OutKeeps.next (issueOp_keeps h)

theorem execFill_keeps {s0 : State} {tower : Tower} {engine : EngineNo} {descriptor : BitVec 512} {s : State}
    (h : Keeps s0 s) :
    OutKeeps s0 (execFill tower engine descriptor s) := by
  unfold execFill
  exact OutKeeps.next (issueOp_keeps h)

theorem execGather_keeps {s0 : State} {tower : Tower} {engine : EngineNo} {descriptor : BitVec 512} {s : State}
    (h : Keeps s0 s) :
    OutKeeps s0 (execGather tower engine descriptor s) := by
  unfold execGather
  exact OutKeeps.next (issueOp_keeps h)

theorem execScatter_keeps {s0 : State} {tower : Tower} {engine : EngineNo} {descriptor : BitVec 512} {s : State}
    (h : Keeps s0 s) :
    OutKeeps s0 (execScatter tower engine descriptor s) := by
  unfold execScatter
  exact OutKeeps.next (issueOp_keeps h)

theorem execRowMove_keeps {s0 : State} {tower : Tower} {engine : EngineNo} {descriptor : BitVec 512} {s : State}
    (h : Keeps s0 s) :
    OutKeeps s0 (execRowMove tower engine descriptor s) := by
  unfold execRowMove
  exact OutKeeps.next (issueOp_keeps h)

theorem execDmaAtomic_keeps {s0 : State} {tower : Tower} {engine : EngineNo} {descriptor : BitVec 512}
    {s : State} (h : Keeps s0 s) :
    OutKeeps s0 (execDmaAtomic tower engine descriptor s) := by
  unfold execDmaAtomic
  exact OutKeeps.next (issueOp_keeps h)

theorem execDescriptorRefused_keeps {s0 : State} {tower : Tower} {engine : EngineNo} {descriptor : BitVec 512}
    {s : State} (h : Keeps s0 s) :
    OutKeeps s0 (execDescriptorRefused tower engine descriptor s) := by
  unfold execDescriptorRefused
  exact OutKeeps.next (Keeps.ite (fun _ => issue_keeps h) (fun _ => h))

theorem descReport_keeps {s0 : State} {d : Desc} {s : State} (h : Keeps s0 s) : Keeps s0 (descReport d s) := by
  unfold descReport
  extract_lets v1 v2 v3 v4
  refine Keeps.mid (a := s0) v3 ?_ (fun h5 => ?_)
  · unfold v3
    exact changeTask_keeps h
  clear_value v3
  refine Keeps.mid (a := s0) v4 ?_ (fun h6 => ?_)
  · unfold v4
    exact Keeps.ite (fun _ => h5) (fun _ => taskFault_keeps h5)
  clear_value v4
  split
  · exact h6
  · exact Keeps.ite (fun _ => endTask_keeps h6) (fun _ => h6)

theorem descriptorDone_keeps {s0 : State} {k : Nat} {s : State} (h : Keeps s0 s) :
    Keeps s0 (descriptorDone k s) := by
  unfold descriptorDone
  extract_lets v1 v2 v3
  refine Keeps.mid (a := s0) v3 ?_ (fun h4 => ?_)
  · unfold v3
    exact Keeps.put h rfl rfl rfl rfl rfl
  clear_value v3
  split
  · exact h
  · exact pump_keeps (descReport_keeps h4)

theorem execDescriptorDone_keeps {s0 : State} {tower : Tower} {engine : EngineNo} {s : State} (h : Keeps s0 s) :
    OutKeeps s0 (execDescriptorDone tower engine s) := by
  unfold execDescriptorDone
  exact OutKeeps.next (descriptorDone_keeps h)

theorem unknownResponse_keeps {s0 : State} {p : Nat} {tag : BitVec 16} {s : State} (h : Keeps s0 s) :
    Keeps s0 (unknownResponse p tag s) := by
  unfold unknownResponse
  extract_lets v1
  exact raise_keeps (count32_keeps h)

theorem settleRecord_keeps {s0 : State} {p : Nat} {tag : BitVec 16} {run : BitVec 32} {retry : Bool} {s : State}
    (h : Keeps s0 s) :
    Keeps s0 (settleRecord p tag run retry s) := by
  unfold settleRecord
  extract_lets v1 v2
  split
  · simp only [v1]
    exact Keeps.put h rfl rfl rfl rfl rfl
  · split
    · simp only [v1]
      exact Keeps.put h rfl rfl rfl rfl rfl
    · refine pumpPartition_keeps ?_
      refine answerAttached_keeps ?_
      simp only [v1]
      exact Keeps.put h rfl rfl rfl rfl rfl
    · exact Keeps.put h rfl rfl rfl rfl rfl

theorem faultResponse_keeps {s0 : State} {p : Nat} {w : BitVec 32} {s : State} (h : Keeps s0 s) :
    Keeps s0 (faultResponse p w s) := by
  unfold faultResponse
  extract_lets v1 v2
  split
  · exact unknownResponse_keeps h
  · exact Keeps.ite (fun _ => unknownResponse_keeps h) (fun _ => settleRecord_keeps h)

theorem execFaultResponseRetry_keeps {s0 : State} {partition : Partition} {word : BitVec 32} {s : State}
    (h : Keeps s0 s) :
    OutKeeps s0 (execFaultResponseRetry partition word s) := by
  unfold execFaultResponseRetry
  exact OutKeeps.next (Keeps.ite (fun _ => faultResponse_keeps h) (fun _ => h))

theorem execFaultResponseFail_keeps {s0 : State} {partition : Partition} {word : BitVec 32} {s : State}
    (h : Keeps s0 s) :
    OutKeeps s0 (execFaultResponseFail partition word s) := by
  unfold execFaultResponseFail
  exact OutKeeps.next (Keeps.ite (fun _ => faultResponse_keeps h) (fun _ => h))

theorem execFaultResponseUnknown_keeps {s0 : State} {partition : Partition} {word : BitVec 32} {s : State}
    (h : Keeps s0 s) :
    OutKeeps s0 (execFaultResponseUnknown partition word s) := by
  unfold execFaultResponseUnknown
  exact OutKeeps.next (faultResponse_keeps h)

theorem faultTimeout_keeps {s0 : State} {p : Nat} {tag : BitVec 16} {s : State} (h : Keeps s0 s) :
    Keeps s0 (faultTimeout p tag s) := by
  unfold faultTimeout
  extract_lets v1
  split
  · exact h
  · exact Keeps.ite (fun _ => h) (fun _ => settleRecord_keeps (raise_keeps h))

theorem execFaultTimeout_keeps {s0 : State} {partition : Partition} {tag : BitVec 16} {s : State}
    (h : Keeps s0 s) :
    OutKeeps s0 (execFaultTimeout partition tag s) := by
  unfold execFaultTimeout
  exact OutKeeps.next (faultTimeout_keeps h)

theorem rcInvalidate_keeps {s0 : State} {t : Nat} {home : Nat} {block : Nat} {s : State} (h : Keeps s0 s) :
    Keeps s0 (rcInvalidate t home block s) := by
  unfold rcInvalidate
  extract_lets v1 v2 v3
  exact Keeps.ite (fun _ => h) (fun _ => sendMesh_keeps (Keeps.put h rfl rfl rfl rfl rfl))

theorem execRcInvalidation_keeps {s0 : State} {tower : Tower} {home : Tower} {block : BitVec 48} {s : State}
    (h : Keeps s0 s) :
    OutKeeps s0 (execRcInvalidation tower home block s) := by
  unfold execRcInvalidation
  exact OutKeeps.next (rcInvalidate_keeps h)

theorem sharerAnswered_keeps {s0 : State} {home : Nat} {sharer : Nat} {block : Nat} {s : State} (h : Keeps s0 s)
    :
    Keeps s0 (sharerAnswered home sharer block s) := by
  unfold sharerAnswered
  extract_lets v1 v2 v3 v4 v5
  refine Keeps.mid (a := s0) v3 ?_ (fun h6 => ?_)
  · unfold v3
    split
    · exact h
    · exact Keeps.put h rfl rfl rfl rfl rfl
  clear_value v3
  refine Keeps.mid (a := s0) v5 ?_ (fun h12 => ?_)
  · unfold v5
    exact Keeps.put h6 rfl rfl rfl rfl rfl
  clear_value v5
  split
  · exact h
  · extract_lets v18 v19 v20
    refine Keeps.mid (a := s0) v19 ?_ (fun h21 => ?_)
    · unfold v19
      exact Keeps.fold h12 (fun _ _ h24 => sendOpen_keeps h24)
    clear_value v19
    refine Keeps.mid (a := s0) v20 ?_ (fun h25 => ?_)
    · unfold v20
      exact Keeps.fold h21 (fun _ _ h28 => respond_keeps h28)
    clear_value v20
    exact Keeps.ite (fun _ => Keeps.put h6 rfl rfl rfl rfl rfl) (fun _ => invalidationsDone_keeps h25)

theorem rcAck_keeps {s0 : State} {home : Nat} {sharer : Nat} {block : Nat} {s : State} (h : Keeps s0 s) :
    Keeps s0 (rcAck home sharer block s) := by
  unfold rcAck
  extract_lets v1 v2
  exact Keeps.ite (fun _ => h) (fun _ => sharerAnswered_keeps (Keeps.put h rfl rfl rfl rfl rfl))

theorem execRcInvalidationAck_keeps {s0 : State} {home : Tower} {sharer : Tower} {block : BitVec 48} {s : State}
    (h : Keeps s0 s) :
    OutKeeps s0 (execRcInvalidationAck home sharer block s) := by
  unfold execRcInvalidationAck
  exact OutKeeps.next (rcAck_keeps h)

theorem rcLost_keeps {s0 : State} {home : Nat} {sharer : Nat} {block : Nat} {s : State} (h : Keeps s0 s) :
    Keeps s0 (rcLost home sharer block s) := by
  unfold rcLost
  split
  · exact h
  · extract_lets v6 v7
    refine Keeps.mid (a := s0) v6 ?_ (fun h8 => ?_)
    · unfold v6
      exact advanceTo_keeps h
    clear_value v6
    exact sharerAnswered_keeps (raise_keeps (Keeps.put h8 rfl rfl rfl rfl rfl))

theorem execRcSharerLost_keeps {s0 : State} {home : Tower} {sharer : Tower} {block : BitVec 48} {s : State}
    (h : Keeps s0 s) :
    OutKeeps s0 (execRcSharerLost home sharer block s) := by
  unfold execRcSharerLost
  exact OutKeeps.next (rcLost_keeps h)

theorem eachWaiter_keeps {s0 : State} {t : Nat} {p : Wait → Bool} {f : Nat → Nat → Desc → State → State}
    {s : State} (h_f : ∀ (z0 : Nat) (z1 : Nat) (z2 : Desc) (z3 : State), Keeps s0 z3 → Keeps s0 (f z0 z1 z2 z3))
    (h : Keeps s0 s) :
    Keeps s0 (eachWaiter t p f s) := by
  unfold eachWaiter
  refine Keeps.fold ?_ (fun s1 x2 h3 => ?_)
  · exact h
  · extract_lets v4
    refine Keeps.mid (a := s0) v4 ?_ (fun h5 => ?_)
    · unfold v4
      refine Keeps.fold ?_ (fun s6 x7 h8 => ?_)
      · exact h3
      · split
        · exact h8
        · exact Keeps.ite (fun _ => h_f _ _ _ _ h8) (fun _ => h8)
    clear_value v4
    exact pump_keeps h5

theorem fillReturn_keeps {s0 : State} {f : Fill} {data : Bytes} {code : Nat} {s : State} (h : Keeps s0 s) :
    Keeps s0 (fillReturn f data code s) := by
  unfold fillReturn
  extract_lets v1 v2 v3 v4 v5 v6
  refine Keeps.mid (a := s0) v4 ?_ (fun h7 => ?_)
  · unfold v4
    exact Keeps.put h rfl rfl rfl rfl rfl
  clear_value v4
  refine Keeps.mid (a := s0) v6 ?_ (fun h8 => ?_)
  · unfold v6
    refine Keeps.ite (fun _ => ?_) (fun _ => ?_)
    · exact h7
    · split
      · rename_i y12
        refine Keeps.ofPair1 (a := s0) y12 ?_ (fun h13 => ?_)
        · exact cachePut_keeps h7
        exact Keeps.put h13 rfl rfl rfl rfl rfl
  clear_value v6
  refine eachWaiter_keeps ?_ ?_
  · intro x14 x15 x16 s17 h18
    exact gotData_keeps h18
  · exact h8

theorem tableAnswered_keeps {s0 : State} {k : Nat} {i : Nat} {d : Desc} {code : Nat} {data : Bytes} {s : State}
    (h : Keeps s0 s) :
    Keeps s0 (tableAnswered k i d code data s) := by
  unfold tableAnswered
  split
  · extract_lets v7
    refine Keeps.ite (fun _ => ?_) (fun _ => ?_)
    · simp only [v7]
      exact pump_keeps (walkDesc_keeps h)
    · refine Keeps.ite (fun _ => ?_) (fun _ => ?_)
      · simp only [v7]
        exact pump_keeps (walkDesc_keeps h)
      · exact Keeps.ite (fun _ => waitFor_keeps h) (fun _ => pump_keeps (finishDesc_keeps h))
  · exact h

end Sys2Proof.Machine
end

