-- ==== Sys2Proof/Laws/KeepsPhoOps.lean ====
section
/-! SUPPORT. What the operations of Machine/PhoOps.lean keep: one lemma for each. -/

set_option Elab.async false

namespace Sys2Proof.Machine

theorem waitRegion_keeps {s0 : State} {t : Nat} {start : Nat} {s : State} {k : Nat} (h : Keeps s0 s) :
    Keeps s0 (waitRegion t start s k) := by
  unfold waitRegion
  extract_lets v1 v2
  exact Keeps.ite (fun _ => h) (fun _ => stallRegion_keeps (Keeps.put h rfl rfl rfl rfl rfl))

theorem bytesArrive_keeps {s0 : State} {src : Nat} {dst : Nat} {w : Nat} {stamp : Nat} {n : Nat} {s : State}
    (h : Keeps s0 s) :
    Keeps s0 (bytesArrive src dst w stamp n s) := by
  unfold bytesArrive
  extract_lets v1 v2 v3
  refine Keeps.mid (a := s0) v3 ?_ (fun h4 => ?_)
  · unfold v3
    exact Keeps.put h rfl rfl rfl rfl rfl
  clear_value v3
  split
  · exact h
  · refine Keeps.ite (fun _ => ?_) (fun _ => ?_)
    · exact Keeps.put h rfl rfl rfl rfl rfl
    · exact Keeps.ite (fun _ => Keeps.fold h4 (fun _ _ h12 => waitRegion_keeps h12)) (fun _ => h4)

theorem changePath_keeps {s0 : State} {kind : PathKind} {key : Nat} {up : Bool} {s : State} (h : Keeps s0 s) :
    Keeps s0 (changePath kind key up s) := by
  unfold changePath
  exact Keeps.put h rfl rfl rfl rfl rfl

theorem applyPathChange_keeps {s0 : State} {c : PathChange} {s : State} (h : Keeps s0 s) :
    Keeps s0 (applyPathChange c s) := by
  unfold applyPathChange
  split
  · exact Keeps.put h rfl rfl rfl rfl rfl
  · exact Keeps.put h rfl rfl rfl rfl rfl
  · exact Keeps.put h rfl rfl rfl rfl rfl

theorem applyPathChanges_keeps {s0 : State} {s : State} (h : Keeps s0 s) : Keeps s0 (applyPathChanges s) := by
  unfold applyPathChanges
  exact Keeps.fold (Keeps.put h rfl rfl rfl rfl rfl) (fun _ _ h3 => applyPathChange_keeps h3)

theorem guideDown_keeps {s0 : State} {egress : Bool} {t : Nat} {w : Nat} {s : State} (h : Keeps s0 s) :
    Keeps s0 (guideDown egress t w s) := by
  unfold guideDown
  exact raise_keeps (changePath_keeps h)

theorem changeSheepdog_keeps {s0 : State} {d : Nat} {w : Nat} {f : Sheepdog → Sheepdog} {s : State}
    (h : Keeps s0 s) :
    Keeps s0 (changeSheepdog d w f s) := by
  unfold changeSheepdog
  exact Keeps.put h rfl rfl rfl rfl rfl

theorem voidDecision_keeps {s0 : State} {d : Nat} {w : Nat} {s : State} (h : Keeps s0 s) :
    Keeps s0 (voidDecision d w s) := by
  unfold voidDecision
  split
  · exact h
  · exact changeSheepdog_keeps (count64_keeps h)

theorem changeSource_keeps {s0 : State} {f : Nat} {i : Nat} {g : Source → Source} {s : State} (h : Keeps s0 s) :
    Keeps s0 (changeSource f i g s) := by
  unfold changeSource
  exact Keeps.put h rfl rfl rfl rfl rfl

theorem setSource_keeps {s0 : State} {f : Nat} {i : Nat} {code : Nat} {lane : Option Nat} {s : State}
    (h : Keeps s0 s) :
    Keeps s0 (setSource f i code lane s) := by
  unfold setSource
  exact changeSource_keeps h

theorem guideUp_keeps {s0 : State} {egress : Bool} {t : Nat} {w : Nat} {s : State} (h : Keeps s0 s) :
    Keeps s0 (guideUp egress t w s) := by
  unfold guideUp
  exact raise_keeps (changePath_keeps h)

theorem askTick_keeps {s0 : State} {retire : Bool} {s : State} (h : Keeps s0 s) :
    Keeps s0 (askTick retire s) := by
  unfold askTick
  exact Keeps.put h rfl rfl rfl rfl rfl

theorem swapTick_keeps {s0 : State} {retire : Bool} {s : State} (h : Keeps s0 s) :
    Keeps s0 (swapTick retire s) := by
  unfold swapTick
  split
  · extract_lets v7 v8 v9
    refine Keeps.mid (a := s0) v7 ?_ (fun h10 => ?_)
    · unfold v7
      exact setSource_keeps h
    clear_value v7
    refine Keeps.mid (a := s0) v8 ?_ (fun h11 => ?_)
    · unfold v8
      exact raise_keeps h10
    clear_value v8
    refine Keeps.mid (a := s0) v9 ?_ (fun h12 => ?_)
    · unfold v9
      exact setSource_keeps h11
    clear_value v9
    refine Keeps.ite (fun _ => ?_) (fun _ => ?_)
    · exact setSource_keeps h11
    · split
      · exact setSource_keeps h12
      · exact raise_keeps h12
  · exact Keeps.ite (fun _ => h) (fun _ => raise_keeps (changeSource_keeps h))
  · exact h

theorem tickDue_keeps {s0 : State} {s : State} (h : Keeps s0 s) : Keeps s0 (tickDue s) := by
  unfold tickDue
  split
  · exact h
  · exact swapTick_keeps (Keeps.put h rfl rfl rfl rfl rfl)

theorem dropGrant_keeps {s0 : State} {t : Nat} {w : Nat} {s : State} (h : Keeps s0 s) :
    Keeps s0 (dropGrant t w s) := by
  unfold dropGrant
  exact Keeps.put h rfl rfl rfl rfl rfl

theorem oweBytes_keeps {s0 : State} {src : Nat} {dst : Nat} {w : Nat} {slot : Nat} {phase : Nat} {n : Nat}
    {s : State} (h : Keeps s0 s) :
    Keeps s0 (oweBytes src dst w slot phase n s) := by
  unfold oweBytes
  split
  · exact h
  · split
    · exact h
    · extract_lets v11 v12
      split
      · exact h
      · extract_lets v18 v19
        exact Keeps.ite (fun _ => h) (fun _ => Keeps.put h rfl rfl rfl rfl rfl)

theorem clearWaiter_keeps {s0 : State} {src : Nat} {dst : Nat} {w : Nat} {s : State} (h : Keeps s0 s) :
    Keeps s0 (clearWaiter src dst w s) := by
  unfold clearWaiter
  extract_lets v1 v2
  exact Keeps.put h rfl rfl rfl rfl rfl

theorem setWaiter_keeps {s0 : State} {src : Nat} {dst : Nat} {w : Nat} {x : Waiter} {s : State} (h : Keeps s0 s)
    :
    Keeps s0 (setWaiter src dst w x s) := by
  unfold setWaiter
  exact Keeps.put h rfl rfl rfl rfl rfl

theorem restoreLoser_keeps {s0 : State} {src : Nat} {d : Nat} {w : Nat} {s : State} (h : Keeps s0 s) :
    Keeps s0 (restoreLoser src d w s) := by
  unfold restoreLoser
  split
  · exact h
  · extract_lets v6 v7 v8
    refine Keeps.mid (a := s0) v8 ?_ (fun h9 => ?_)
    · unfold v8
      exact changeSheepdog_keeps h
    clear_value v8
    split
    · exact setWaiter_keeps h9
    · refine Keeps.ite (fun _ => ?_) (fun _ => ?_)
      · extract_lets v15
        refine Keeps.mid (a := s0) v15 ?_ (fun h16 => ?_)
        · unfold v15
          exact changeSheepdog_keeps h9
        clear_value v15
        exact setWaiter_keeps h16
      · exact setWaiter_keeps h9

theorem putGrant_keeps {s0 : State} {t : Nat} {w : Nat} {g : Grant} {s : State} (h : Keeps s0 s) :
    Keeps s0 (putGrant t w g s) := by
  unfold putGrant
  exact Keeps.put h rfl rfl rfl rfl rfl

theorem resetArbitration_keeps {s0 : State} {ts : List Nat} {s : State} (h : Keeps s0 s) :
    Keeps s0 (resetArbitration ts s) := by
  unfold resetArbitration
  extract_lets v1 v2
  exact Keeps.put h rfl rfl rfl rfl rfl

end Sys2Proof.Machine
end

