-- ==== Sys2Proof/Laws/KeepsSums.lean ====
section
/-! SUPPORT. What the operations of Machine/Sums.lean keep: one lemma for each. -/

set_option Elab.async false

namespace Sys2Proof.Machine

theorem poisonSums_keeps {s0 : State} {t : Nat} {r : BitVec 256} {i : Nat} {per : Nat} {s : State}
    (h : Keeps s0 s) :
    Keeps s0 (poisonSums t r i per s) := by
  unfold poisonSums
  extract_lets v1
  split
  · rename_i y5
    refine Keeps.ofPair1 (a := s0) y5 ?_ (fun h6 => ?_)
    · exact drawBytes_keeps h
    exact spadWrite_keeps h6

theorem failSums_keeps {s0 : State} {t : Nat} {a : Option Arm} {w : Nat} {slot : Nat} {coll : Nat}
    {missing : Nat} {i : Nat} {per : Nat} {s : State} (h : Keeps s0 s) :
    Keeps s0 (failSums t a w slot coll missing i per s) := by
  unfold failSums
  extract_lets v1
  refine Keeps.mid (a := s0) v1 ?_ (fun h2 => ?_)
  · unfold v1
    split
    · exact poisonSums_keeps h
    · exact h
  clear_value v1
  exact raise_keeps (count32_keeps h2)

theorem endSumsFrame_keeps {s0 : State} {s : State} (h : Keeps s0 s) : Keeps s0 (endSumsFrame s) := by
  unfold endSumsFrame
  extract_lets v1
  refine Keeps.mid (a := s0) v1 ?_ (fun h2 => ?_)
  · unfold v1
    refine Keeps.fold ?_ (fun s3 x4 h5 => ?_)
    · exact h
    · extract_lets v6 v7 v8
      refine Keeps.mid (a := s0) v8 ?_ (fun h9 => ?_)
      · unfold v8
        exact failSums_keeps h5
      clear_value v8
      split
      · exact waitRegion_keeps h9
      · exact h9
  clear_value v1
  exact Keeps.put h2 rfl rfl rfl rfl rfl

theorem sumsWritten_keeps {s0 : State} {x : SumWait} {s : State} (h : Keeps s0 s) :
    Keeps s0 (sumsWritten x s) := by
  unfold sumsWritten
  split
  · exact h
  · exact waitRegion_keeps h

theorem nanSums_keeps {s0 : State} {t : Nat} {k : Nat} {r : BitVec 256} {i : Nat} {per : Nat} {s : State}
    (h : Keeps s0 s) :
    Keeps s0 (nanSums t k r i per s) := by
  unfold nanSums
  extract_lets v1 v2
  exact setTaskFlags_keeps (spadWrite_keeps h)

theorem claimReplay_keeps {s0 : State} {t : Nat} {w : Nat} {slot : Nat} {coll : Nat} {missing : Nat}
    {x : Nat × Nat} {s : State} (h : Keeps s0 s) :
    Keeps s0 (claimReplay t w slot coll missing x s) := by
  unfold claimReplay
  extract_lets v1 v2 v3 v4 v5 v6
  refine Keeps.mid (a := s0) v2 ?_ (fun h7 => ?_)
  · unfold v2
    exact Keeps.put h rfl rfl rfl rfl rfl
  clear_value v2
  refine Keeps.mid (a := s0) v4 ?_ (fun h8 => ?_)
  · unfold v4
    exact Keeps.ite (fun _ => voidDecision_keeps h7) (fun _ => h7)
  clear_value v4
  exact Keeps.put h8 rfl rfl rfl rfl rfl

theorem writeSums_keeps {s0 : State} {t : Nat} {a : Arm} {i : Nat} {per : Nat} {optical : Nat} {adc : List Nat}
    {mesh : List (List Int)} {s : State} (h : Keeps s0 s) :
    Keeps s0 (writeSums t a i per optical adc mesh s) := by
  unfold writeSums
  extract_lets v1 v2 v3 v4 v5 v6
  exact setTaskFlags_keeps (spadWrite_keeps h)

theorem evaluateSums_keeps {s0 : State} {x : SumWait} {got : List (BitVec 32 × Option (List Int))} {s : State}
    (h : Keeps s0 s) :
    Keeps s0 (evaluateSums x got s) := by
  unfold evaluateSums
  extract_lets v1 v2 v3 v4 v5 v6 v7 v8 v9 v10
  refine Keeps.mid (a := s0) v9 ?_ (fun h11 => ?_)
  · unfold v9
    exact raise_keeps (count64_keeps h)
  clear_value v9
  refine Keeps.ite (fun _ => ?_) (fun _ => ?_)
  · refine sumsWritten_keeps ?_
    simp only [v6]
    exact raise_keeps (count32_keeps (poisonSums_keeps h))
  · refine Keeps.ite (fun _ => ?_) (fun _ => ?_)
    · refine sumsWritten_keeps ?_
      simp only [v6]
      exact raise_keeps (count32_keeps (nanSums_keeps h))
    · refine Keeps.ite (fun _ => ?_) (fun _ => ?_)
      · refine Keeps.ite (fun _ => ?_) (fun _ => ?_)
        · refine sumsWritten_keeps ?_
          simp only [v7]
          exact failSums_keeps h
        · split
          · refine sumsWritten_keeps ?_
            simp only [v7]
            exact failSums_keeps h11
          · exact claimReplay_keeps h11
      · exact sumsWritten_keeps (count64_keeps (writeSums_keeps h))

theorem tryEvaluate_keeps {s0 : State} {x : SumWait} {s : State} (h : Keeps s0 s) :
    Keeps s0 (tryEvaluate x s) := by
  unfold tryEvaluate
  extract_lets v1 v2
  exact Keeps.ite (fun _ => Keeps.put h rfl rfl rfl rfl rfl) (fun _ => evaluateSums_keeps h)

theorem retrySums_keeps {s0 : State} {s : State} (h : Keeps s0 s) : Keeps s0 (retrySums s) := by
  unfold retrySums
  exact Keeps.fold (Keeps.put h rfl rfl rfl rfl rfl) (fun _ _ h3 => tryEvaluate_keeps h3)

theorem loseShares_keeps {s0 : State} {ts : List Nat} {s : State} (h : Keeps s0 s) :
    Keeps s0 (loseShares ts s) := by
  unfold loseShares
  extract_lets v1 v2
  exact retrySums_keeps (Keeps.put h rfl rfl rfl rfl rfl)

theorem memberLight_keeps {s0 : State} {t : Nat} {recv : Nat} {coll : Nat} {orig : Nat × Nat} {here : Nat × Nat}
    {late : Bool} {s : State} (h : Keeps s0 s) :
    Keeps s0 (memberLight t recv coll orig here late s) := by
  unfold memberLight
  split
  · extract_lets v6 v7 v8 v9 v10 v11
    refine Keeps.mid (a := s0) v7 ?_ (fun h12 => ?_)
    · unfold v7
      split
      · exact Keeps.ite (fun _ => setTaskFlags_keeps h) (fun _ => h)
      · exact h
    clear_value v7
    exact Keeps.ite (fun _ => sendMesh_keeps h12) (fun _ => Keeps.put h12 rfl rfl rfl rfl rfl)

theorem armRecord_keeps {s0 : State} {t : Nat} {k : Nat} {r : BitVec 256} {s : State} (h : Keeps s0 s) :
    Keeps s0 (armRecord t k r s) := by
  unfold armRecord
  refine Keeps.ite (fun _ => ?_) (fun _ => ?_)
  · extract_lets v1 v2
    exact raise_keeps (Keeps.put h rfl rfl rfl rfl rfl)
  · exact Keeps.put h rfl rfl rfl rfl rfl

theorem execArmRecord_keeps {s0 : State} {tower : Tower} {cluster : Cluster} {record : BitVec 256} {s : State}
    (h : Keeps s0 s) :
    OutKeeps s0 (execArmRecord tower cluster record s) := by
  unfold execArmRecord
  exact OutKeeps.next (armRecord_keeps h)

theorem lightSum_keeps {s0 : State} {t : Nat} {w : Nat} {slot : Nat} {markers : List (BitVec 32)}
    {noise : List Int} {s : State} (h : Keeps s0 s) :
    Keeps s0 (lightSum t w slot markers noise s) := by
  unfold lightSum
  extract_lets v1 v2 v3 v4
  refine Keeps.mid (a := s0) v4 ?_ (fun h5 => ?_)
  · unfold v4
    exact Keeps.put h rfl rfl rfl rfl rfl
  clear_value v4
  clear_value v2
  split
  · exact h
  · refine Keeps.ite (fun _ => ?_) (fun _ => ?_)
    · exact h
    · split
      · exact raise_keeps h5
      · extract_lets v15 v16
        exact tryEvaluate_keeps h5

theorem execLightSumEvaluate_keeps {s0 : State} {tower : Tower} {plane : Plane} {slot : BitVec 8}
    {markers : List (BitVec 32)} {noise : List Int} {s : State} (h : Keeps s0 s) :
    OutKeeps s0 (execLightSumEvaluate tower plane slot markers noise s) := by
  unfold execLightSumEvaluate
  exact OutKeeps.next (lightSum_keeps h)

theorem sumNotice_keeps {s0 : State} {t : Nat} {w : BitVec 64} {s : State} (h : Keeps s0 s) :
    Keeps s0 (sumNotice t w s) := by
  unfold sumNotice
  split
  · exact h
  · exact Keeps.ite (fun _ => h) (fun _ => Keeps.put h rfl rfl rfl rfl rfl)

theorem execSumNotice_keeps {s0 : State} {tower : Tower} {word : BitVec 64} {s : State} (h : Keeps s0 s) :
    OutKeeps s0 (execSumNotice tower word s) := by
  unfold execSumNotice
  exact OutKeeps.next (sumNotice_keeps h)

theorem meshMember_keeps {s0 : State} {t : Nat} {member : Nat} {coll : Nat} {w : Nat} {slot : Nat} {s : State}
    (h : Keeps s0 s) :
    Keeps s0 (meshMember t member coll w slot s) := by
  unfold meshMember
  extract_lets v1 v2 v3
  split
  · exact h
  · split
    · extract_lets v16 v17 v18 v19
      refine Keeps.mid (a := s0) v17 ?_ (fun h20 => ?_)
      · unfold v17
        exact count64_keeps (Keeps.put h rfl rfl rfl rfl rfl)
      clear_value v17
      refine Keeps.mid (a := s0) v19 ?_ (fun h21 => ?_)
      · unfold v19
        exact Keeps.ite (fun _ => h20) (fun _ => raise_keeps (Keeps.put h20 rfl rfl rfl rfl rfl))
      clear_value v19
      exact retrySums_keeps h21
    · exact h

theorem execMeshMemberContribution_keeps {s0 : State} {tower : Tower} {member : Tower} {collective : BitVec 12}
    {plane : Plane} {slot : BitVec 8} {s : State} (h : Keeps s0 s) :
    OutKeeps s0 (execMeshMemberContribution tower member collective plane slot s) := by
  unfold execMeshMemberContribution
  exact OutKeeps.next (meshMember_keeps h)

end Sys2Proof.Machine
end

