-- ==== Sys2Proof/Laws/KeepsPhotonic.lean ====
section
/-! SUPPORT. What the operations of Machine/Photonic.lean keep: one lemma for each. -/

set_option Elab.async false

namespace Sys2Proof.Machine

theorem sumDigital_keeps {s0 : State} {t : Nat} {coll : Nat} {s : State} (h : Keeps s0 s) :
    Keeps s0 (sumDigital t coll s) := by
  unfold sumDigital
  extract_lets v1 v2 v3 v4 v5 v6 v7 v8 v9 v10
  refine Keeps.mid (a := s0) v10 ?_ (fun h11 => ?_)
  · unfold v10
    exact Keeps.put h rfl rfl rfl rfl rfl
  clear_value v10
  refine Keeps.ite (fun _ => ?_) (fun _ => ?_)
  · exact h
  · clear_value v1
    split
    · exact h11
    · extract_lets v25 v26 v27
      exact setTaskFlags_keeps (spadWrite_keeps h11)

theorem receiveFlow_keeps {s0 : State} {type : Nat} {flow : Nat} {t : Nat} {src : Nat} {data : Bytes}
    {s : State} (h : Keeps s0 s) :
    Keeps s0 (receiveFlow type flow t src data s) := by
  unfold receiveFlow
  extract_lets v1 v2
  refine Keeps.mid (a := s0) v2 ?_ (fun h3 => ?_)
  · unfold v2
    exact Keeps.put h rfl rfl rfl rfl rfl
  clear_value v2
  exact Keeps.ite (fun _ => sumDigital_keeps h3) (fun _ => h3)

theorem meshArrivals_keeps {s0 : State} {s : State} (h : Keeps s0 s) : Keeps s0 (meshArrivals s) := by
  unfold meshArrivals
  extract_lets v1 v2
  refine Keeps.fold ?_ (fun s3 x4 h5 => ?_)
  · exact Keeps.put h rfl rfl rfl rfl rfl
  · split
    · exact bytesArrive_keeps (receiveFlow_keeps h5)
    · exact h5

theorem takeOpen_keeps {s0 : State} {t : Nat} {p : OpenPacket} {s : State} (h : Keeps s0 s) :
    OptKeeps s0 (takeOpen t p s) := by
  unfold takeOpen
  split
  · exact OptKeeps.some (Keeps.put h rfl rfl rfl rfl rfl)
  · extract_lets v3 v4
    split
    · exact OptKeeps.some (Keeps.put h rfl rfl rfl rfl rfl)
    · exact .none

theorem answerDesc_keeps {s0 : State} {k : Nat} {i : Nat} {d : Desc} {code : Nat} {data : Option Bytes}
    {s : State} (h : Keeps s0 s) :
    Keeps s0 (answerDesc k i d code data s) := by
  unfold answerDesc
  extract_lets v1
  refine Keeps.mid (a := s0) v1 ?_ (fun h2 => ?_)
  · unfold v1
    exact changeDesc_keeps h
  clear_value v1
  refine Keeps.ite (fun _ => ?_) (fun _ => ?_)
  · exact retryLater_keeps h2
  · refine Keeps.ite (fun _ => ?_) (fun _ => ?_)
    · refine Keeps.ite (fun _ => ?_) (fun _ => ?_)
      · exact pump_keeps (atomicDone_keeps h2)
      · split
        · exact pump_keeps (gotData_keeps h2)
        · exact pump_keeps (advanceCursor_keeps (changeDesc_keeps h2))
    · exact pump_keeps (finishDesc_keeps h2)

theorem openAnswered_keeps {s0 : State} {t : Nat} {p : OpenPacket} {data : Option Bytes} {s : State}
    (h : Keeps s0 s) :
    Keeps s0 (openAnswered t p data s) := by
  unfold openAnswered
  extract_lets v1 v2 v3 v4 v5 v6
  refine Keeps.mid (a := s0) v4 ?_ (fun h7 => ?_)
  · unfold v4
    exact Keeps.put h rfl rfl rfl rfl rfl
  clear_value v4
  refine Keeps.ite (fun _ => ?_) (fun _ => ?_)
  · exact h
  · split
    · refine Keeps.ite (fun _ => ?_) (fun _ => ?_)
      · exact fillReturn_keeps h7
      · refine eachWaiter_keeps ?_ ?_
        · intro x11 x12 x13 s14 h15
          exact answerDesc_keeps h15
        · exact Keeps.put h7 rfl rfl rfl rfl rfl
    · split
      · exact h7
      · split
        · exact tableAnswered_keeps h7
        · exact answerDesc_keeps h7

theorem takeAnswer_keeps {s0 : State} {t : Nat} {kind : Nat} {p : OpenPacket} {data : Option Bytes} {s : State}
    (h : Keeps s0 s) :
    Keeps s0 (takeAnswer t kind p data s) := by
  unfold takeAnswer
  refine Keeps.ite (fun _ => ?_) (fun _ => ?_)
  · exact h
  · split
    · exact h
    · rename_i y5
      refine OptKeeps.out (a := s0) y5 ?_ (fun h6 => ?_)
      · exact takeOpen_keeps h
      exact openAnswered_keeps h6

theorem fillArrives_keeps {s0 : State} {t : Nat} {line : Nat} {s : State} (h : Keeps s0 s) :
    Keeps s0 (fillArrives t line s) := by
  unfold fillArrives
  extract_lets v1 v2 v3
  split
  · exact h
  · exact takeAnswer_keeps h

theorem execRcFillReturn_keeps {s0 : State} {tower : Tower} {line : BitVec 48} {s : State} (h : Keeps s0 s) :
    OutKeeps s0 (execRcFillReturn tower line s) := by
  unfold execRcFillReturn
  exact OutKeeps.next (fillArrives_keeps h)

theorem putSlot_keeps {s0 : State} {t : Nat} {d : Nat} {w : Nat} {slot : Nat} {again : List Nat}
    {content : Bytes} {heads : List Nat} {rides : List MeshPacket} {s : State} (h : Keeps s0 s) :
    Keeps s0 (putSlot t d w slot again content heads rides s) := by
  unfold putSlot
  extract_lets v1 v2 v3 v4 v5 v6 v7 v8 v9 v10 v11 v12
  refine Keeps.mid (a := s0) v6 ?_ (fun h13 => ?_)
  · unfold v6
    exact changeTx_keeps h
  clear_value v6
  refine Keeps.mid (a := s0) v10 ?_ (fun h14 => ?_)
  · unfold v10
    exact count64_keeps h13
  clear_value v10
  refine Keeps.mid (a := s0) v11 ?_ (fun h15 => ?_)
  · unfold v11
    exact carryFlits_keeps h14
  clear_value v11
  exact Keeps.put h15 rfl rfl rfl rfl rfl

theorem launchSlot_keeps {s0 : State} {x : Launch} {reserve : Bool} {s : State} (h : Keeps s0 s) :
    Keeps s0 (launchSlot x reserve s) := by
  unfold launchSlot
  extract_lets v1 v2 v3
  exact putSlot_keeps (count64_keeps (count64_keeps h))

theorem launchDue_keeps {s0 : State} {now_ : Launch → Bool} {s : State} (h : Keeps s0 s) :
    Keeps s0 (launchDue now_ s) := by
  unfold launchDue
  extract_lets v1 v2
  exact Keeps.fold (Keeps.put h rfl rfl rfl rfl rfl) (fun _ _ h5 => launchSlot_keeps h5)

theorem meshScheduled_keeps {s0 : State} {t : Nat} {d : Nat} {w : Nat} {slot : Nat} {type : Nat} {flow : Nat}
    {data : Bytes} {s : State} (h : Keeps s0 s) :
    Keeps s0 (meshScheduled t d w slot type flow data s) := by
  unfold meshScheduled
  refine Keeps.ite (fun _ => ?_) (fun _ => ?_)
  · exact h
  · extract_lets v1 v2 v3 v4 v5
    refine Keeps.mid (a := s0) v2 ?_ (fun h6 => ?_)
    · unfold v2
      exact count64_keeps h
    clear_value v2
    refine Keeps.mid (a := s0) v4 ?_ (fun h7 => ?_)
    · unfold v4
      exact Keeps.ite (fun _ => h6) (fun _ => raise_keeps (Keeps.put h6 rfl rfl rfl rfl rfl))
    clear_value v4
    exact sendMesh_keeps h7

theorem scheduledSlot_keeps {s0 : State} {t : Nat} {w : Nat} {slot : Nat} {desc : Nat} {supply : Bytes}
    {s : State} (h : Keeps s0 s) :
    Keeps s0 (scheduledSlot t w slot desc supply s) := by
  unfold scheduledSlot
  extract_lets v1 v2 v3 v4 v5 v6 v7 v8 v9 v10 v11 v12 v13
  refine Keeps.mid (a := s0) v11 ?_ (fun h14 => ?_)
  · unfold v11
    exact Keeps.ite (fun _ => Keeps.put h rfl rfl rfl rfl rfl) (fun _ => h)
  clear_value v11
  refine Keeps.mid (a := s0) v12 ?_ (fun h15 => ?_)
  · unfold v12
    exact oweBytes_keeps h14
  clear_value v12
  refine Keeps.mid (a := s0) v13 ?_ (fun h16 => ?_)
  · unfold v13
    exact meshScheduled_keeps h15
  clear_value v13
  exact Keeps.ite (fun _ => h) (fun _ => Keeps.ite (fun _ => h16) (fun _ => putSlot_keeps h16))

theorem meshPacketOut_keeps {s0 : State} {t : Nat} {d : Nat} {w : Nat} {c : Nat} {room : Nat} {s : State}
    (h : Keeps s0 s) :
    Keeps s0 (meshPacketOut t d w c room s) := by
  unfold meshPacketOut
  split
  · exact h
  · exact Keeps.ite (fun _ => h) (fun _ => sendMesh_keeps (Keeps.put h rfl rfl rfl rfl rfl))

theorem takeContent_keeps {s0 : State} {t : Nat} {w : Nat} {slot : Nat} {reserve : Bool} {g : Grant} {s : State}
    (h : Keeps s0 s) :
    OptPairKeeps s0 (takeContent t w slot reserve g s) := by
  unfold takeContent
  extract_lets v1 v2 v3 v4 v5 v6 v7 v8
  split
  · exact OptPairKeeps.none
  · split
    · exact OptPairKeeps.none
    · refine OptPairKeeps.some ?_
      dsimp only
      exact Keeps.put h rfl rfl rfl rfl rfl

theorem openSlot_keeps {s0 : State} {t : Nat} {w : Nat} {slot : Nat} {reserve : Bool} {g : Grant} {s : State}
    (h : Keeps s0 s) :
    Keeps s0 (openSlot t w slot reserve g s).2 := by
  unfold openSlot
  extract_lets v1 v2
  split
  · dsimp only
    simp only [v2]
    exact Keeps.ite (fun _ => meshPacketOut_keeps (meshPacketOut_keeps h)) (fun _ => h)
  · rename_i y8
    refine OptPairKeeps.out (a := s0) y8 ?_ (fun h9 => ?_)
    · exact takeContent_keeps h
    dsimp only
    refine Keeps.ite (fun _ => ?_) (fun _ => ?_)
    · simp only [v2]
      refine Keeps.ite (fun _ => ?_) (fun _ => ?_)
      · exact meshPacketOut_keeps (meshPacketOut_keeps (Keeps.put h9 rfl rfl rfl rfl rfl))
      · exact Keeps.put h9 rfl rfl rfl rfl rfl
    · exact launchSlot_keeps h9

theorem planeBoundary_keeps {s0 : State} {t : Nat} {slot : Nat} {w : Nat} {supply : List (Plane × Bytes)}
    {late : List Plane} {s : State} (h : Keeps s0 s) :
    Keeps s0 (planeBoundary t slot w supply late s).2 := by
  unfold planeBoundary
  extract_lets v1 v2 v3 v4 v5 v6
  refine Keeps.mid (a := s0) v4 ?_ (fun h7 => ?_)
  · unfold v4
    exact Keeps.ite (fun _ => dropGrant_keeps h) (fun _ => h)
  clear_value v4
  split
  · dsimp only
    exact memberLight_keeps h7
  · split
    · split
      · dsimp only
        exact h7
      · split
        · dsimp only
          exact memberLight_keeps h7
        · dsimp only
          exact scheduledSlot_keeps h7
    · clear_value v3
      split
      · dsimp only
        exact h7
      · split
        · exact openSlot_keeps h7
        · dsimp only
          exact h7

theorem clearIdleWaiters_keeps {s0 : State} {t : Nat} {s : State} (h : Keeps s0 s) :
    Keeps s0 (clearIdleWaiters t s) := by
  unfold clearIdleWaiters
  exact Keeps.fold h (fun _ _ h3 => Keeps.fold h3 (fun _ _ h6 => clearWaiter_keeps h6))

theorem slotBoundary_keeps {s0 : State} {t : Nat} {slot : Nat} {supply : List (Plane × Bytes)}
    {late : List Plane} {s : State} (h : Keeps s0 s) :
    Keeps s0 (slotBoundary t slot supply late s) := by
  unfold slotBoundary
  refine Keeps.ite (fun _ => ?_) (fun _ => ?_)
  · exact h
  · extract_lets v1 v2
    refine Keeps.mid (a := s0) v1 ?_ (fun h3 => ?_)
    · unfold v1
      exact meshArrivals_keeps (launchDue_keeps (advanceTo_keeps h))
    clear_value v1
    refine Keeps.mid (a := s0) v2 ?_ (fun h4 => ?_)
    · unfold v2
      exact Keeps.ite (fun _ => tickDue_keeps h3) (fun _ => h3)
    clear_value v2
    split
    · rename_i y8
      refine Keeps.ofPair1 (a := s0) y8 ?_ (fun h9 => ?_)
      · refine Keeps.foldPair ?_ (fun s10 x11 h12 => ?_)
        · dsimp only
          exact h4
        · split
          · rename_i y16
            refine Keeps.ofPair1 (a := s0) y16 ?_ (fun h17 => ?_)
            · exact planeBoundary_keeps h12
            dsimp only
            exact h17
      extract_lets v18 v19
      refine Keeps.mid (a := s0) v18 ?_ (fun h20 => ?_)
      · unfold v18
        exact clearIdleWaiters_keeps h9
      clear_value v18
      exact Keeps.put h20 rfl rfl rfl rfl rfl

theorem execSlotBoundary_keeps {s0 : State} {tower : Tower} {slot : BitVec 8} {supply : List (Plane × Bytes)}
    {late : List Plane} {s : State} (h : Keeps s0 s) :
    OutKeeps s0 (execSlotBoundary tower slot supply late s) := by
  unfold execSlotBoundary
  exact OutKeeps.next (slotBoundary_keeps h)

theorem badArbitration_keeps {s0 : State} {t : Nat} {other : Option Nat} {s : State} (h : Keeps s0 s) :
    Keeps s0 (badArbitration t other s) := by
  unfold badArbitration
  exact raise_keeps (count32_keeps h)

theorem putRequest_keeps {s0 : State} {d : Nat} {w : Nat} {src : Nat} {r : Option Request} {s : State}
    (h : Keeps s0 s) :
    Keeps s0 (putRequest d w src r s) := by
  unfold putRequest
  extract_lets v1
  exact changeSheepdog_keeps h

theorem takeReturn_keeps {s0 : State} {d : Nat} {w : Nat} {src : Nat} {s : State} (h : Keeps s0 s) :
    Keeps s0 (takeReturn d w src s) := by
  unfold takeReturn
  split
  · exact h
  · exact Keeps.ite (fun _ => voidDecision_keeps h) (fun _ => h)

theorem requestArrives_keeps {s0 : State} {d : Nat} {word : BitVec 64} {s : State} (h : Keeps s0 s) :
    Keeps s0 (requestArrives d word s) := by
  unfold requestArrives
  extract_lets v1
  refine Keeps.ite (fun _ => ?_) (fun _ => ?_)
  · exact badArbitration_keeps (Keeps.fold h (fun _ _ h4 => putRequest_keeps h4))
  · refine Keeps.ite (fun _ => ?_) (fun _ => ?_)
    · exact h
    · refine Keeps.fold ?_ (fun s5 x6 h7 => ?_)
      · exact h
      · extract_lets v8
        refine Keeps.mid (a := s0) v8 ?_ (fun h9 => ?_)
        · unfold v8
          exact Keeps.ite (fun _ => takeReturn_keeps h7) (fun _ => h7)
        clear_value v8
        exact putRequest_keeps h9

theorem execRequestWord_keeps {s0 : State} {tower : Tower} {word : BitVec 64} {s : State} (h : Keeps s0 s) :
    OutKeeps s0 (execRequestWord tower word s) := by
  unfold execRequestWord
  exact OutKeeps.next (requestArrives_keeps h)

theorem decidePlane_keeps {s0 : State} {d : Nat} {w : Nat} {slot : Nat} {s : State} (h : Keeps s0 s) :
    Keeps s0 (decidePlane d w slot s) := by
  unfold decidePlane
  extract_lets v1 v2 v3 v4 v5 v6
  split
  · exact changeSheepdog_keeps h
  · extract_lets v13 v14
    refine Keeps.mid (a := s0) v14 ?_ (fun h15 => ?_)
    · unfold v14
      exact Keeps.fold h (fun _ _ h18 => setWaiter_keeps h18)
    clear_value v14
    exact changeSheepdog_keeps h15

theorem waitAlarm_keeps {s0 : State} {src : Nat} {d : Nat} {w : Nat} {start : Nat} {s : State} (h : Keeps s0 s)
    :
    Keeps s0 (waitAlarm src d w start s) := by
  unfold waitAlarm
  extract_lets v1 v2 v3
  exact Keeps.ite (fun _ => h) (fun _ => raise_keeps (Keeps.put h rfl rfl rfl rfl rfl))

theorem sheepdogDecision_keeps {s0 : State} {d : Nat} {slot : Nat} {s : State} (h : Keeps s0 s) :
    Keeps s0 (sheepdogDecision d slot s) := by
  unfold sheepdogDecision
  refine Keeps.ite (fun _ => ?_) (fun _ => ?_)
  · exact h
  · extract_lets v1 v2 v3 v4 v5 v6
    refine Keeps.mid (a := s0) v1 ?_ (fun h7 => ?_)
    · unfold v1
      exact advanceTo_keeps h
    clear_value v1
    refine Keeps.mid (a := s0) v3 ?_ (fun h8 => ?_)
    · unfold v3
      refine Keeps.fold ?_ (fun s9 x10 h11 => ?_)
      · exact h7
      · exact decidePlane_keeps (Keeps.fold h11 (fun _ _ h14 => waitAlarm_keeps h14))
    clear_value v3
    refine Keeps.mid (a := s0) v5 ?_ (fun h15 => ?_)
    · unfold v5
      exact Keeps.fold h8 (fun _ _ h18 => changeSheepdog_keeps h18)
    clear_value v5
    exact Keeps.put h15 rfl rfl rfl rfl rfl

theorem execSheepdogDecision_keeps {s0 : State} {tower : Tower} {slot : BitVec 8} {s : State} (h : Keeps s0 s) :
    OutKeeps s0 (execSheepdogDecision tower slot s) := by
  unfold execSheepdogDecision
  exact OutKeeps.next (sheepdogDecision_keeps h)

theorem withdraw_keeps {s0 : State} {t : Nat} {d : Nat} {w : Nat} {slot : Nat} {s : State} (h : Keeps s0 s) :
    Keeps s0 (withdraw t d w slot s) := by
  unfold withdraw
  extract_lets v1 v2
  split
  · exact h
  · exact Keeps.put h rfl rfl rfl rfl rfl

theorem grantArrives_keeps {s0 : State} {t : Nat} {word : BitVec 64} {s : State} (h : Keeps s0 s) :
    Keeps s0 (grantArrives t word s) := by
  unfold grantArrives
  extract_lets v1 v2 v3 v4
  refine Keeps.mid (a := s0) v2 ?_ (fun h5 => ?_)
  · unfold v2
    exact launchDue_keeps h
  clear_value v2
  refine Keeps.ite (fun _ => ?_) (fun _ => ?_)
  · exact badArbitration_keeps (Keeps.fold h5 (fun _ _ h8 => dropGrant_keeps h8))
  · refine Keeps.ite (fun _ => ?_) (fun _ => ?_)
    · exact h5
    · refine Keeps.fold ?_ (fun s9 x10 h11 => ?_)
      · exact h5
      · extract_lets v12 v13 v14
        refine Keeps.mid (a := s0) v12 ?_ (fun h15 => ?_)
        · unfold v12
          exact Keeps.ite (fun _ => restoreLoser_keeps h11) (fun _ => h11)
        clear_value v12
        refine Keeps.mid (a := s0) v13 ?_ (fun h16 => ?_)
        · unfold v13
          exact Keeps.ite (fun _ => withdraw_keeps h15) (fun _ => h15)
        clear_value v13
        refine Keeps.ite (fun _ => ?_) (fun _ => ?_)
        · exact clearWaiter_keeps (putGrant_keeps h16)
        · split
          · exact h16
          · exact Keeps.ite (fun _ => dropGrant_keeps h16) (fun _ => h16)

theorem execGrantWord_keeps {s0 : State} {tower : Tower} {word : BitVec 64} {s : State} (h : Keeps s0 s) :
    OutKeeps s0 (execGrantWord tower word s) := by
  unfold execGrantWord
  exact OutKeeps.next (grantArrives_keeps h)

theorem noPreamble_keeps {s0 : State} {d : Nat} {w : Nat} {s : State} (h : Keeps s0 s) :
    Keeps s0 (noPreamble d w s) := by
  unfold noPreamble
  split
  · exact h
  · exact changeSheepdog_keeps h

theorem execNoPreamble_keeps {s0 : State} {tower : Tower} {plane : Plane} {s : State} (h : Keeps s0 s) :
    OutKeeps s0 (execNoPreamble tower plane s) := by
  unfold execNoPreamble
  exact OutKeeps.next (noPreamble_keeps h)

theorem deliverBytes_keeps {s0 : State} {n : Nat} {h1 : BitVec 128} {left : Nat} {data : Bytes} {s : State}
    (h : Keeps s0 s) :
    Keeps s0 (deliverBytes n h1 left data s) := by
  unfold deliverBytes
  extract_lets v1 v2 v3 v4
  refine Keeps.mid (a := s0) v3 ?_ (fun h5 => ?_)
  · unfold v3
    exact changeRx_keeps h
  clear_value v3
  refine Keeps.ite (fun _ => ?_) (fun _ => ?_)
  · exact bytesArrive_keeps (receiveFlow_keeps h5)
  · split
    · extract_lets v10 v11
      refine Keeps.mid (a := s0) v10 ?_ (fun h12 => ?_)
      · unfold v10
        exact changeRx_keeps h5
      clear_value v10
      exact Keeps.put h12 rfl rfl rfl rfl rfl

theorem deliverFlit_keeps {s0 : State} {n : Nat} {data : Bytes} {s : State} (h : Keeps s0 s) :
    Keeps s0 (deliverFlit n data s) := by
  unfold deliverFlit
  extract_lets v1 v2
  exact Keeps.ite (fun _ => deliverBytes_keeps h) (fun _ => deliverBytes_keeps h)

theorem flitArrives_keeps {s0 : State} {n : Nat} {f : Bytes} {s : State} (h : Keeps s0 s) :
    Keeps s0 (flitArrives n f s) := by
  unfold flitArrives
  extract_lets v1 v2
  refine Keeps.mid (a := s0) v2 ?_ (fun h3 => ?_)
  · unfold v2
    refine Keeps.ite (fun _ => ?_) (fun _ => ?_)
    · exact rxBad_keeps h
    · refine Keeps.ite (fun _ => ?_) (fun _ => ?_)
      · exact h
      · split
        · rename_i y7
          refine Keeps.ofPair1 (a := s0) y7 ?_ (fun h8 => ?_)
          · exact rxTake_keeps h
          exact Keeps.fold h8 (fun _ _ h11 => deliverFlit_keeps h11)
  clear_value v2
  exact Keeps.ite (fun _ => sendAckWord_keeps h3) (fun _ => h3)

theorem slotArrives_keeps {s0 : State} {t : Nat} {src : Nat} {w : Nat} {slot : Nat}
    {errors : List (Nat × Bytes)} {s : State} (h : Keeps s0 s) :
    Keeps s0 (slotArrives t src w slot errors s) := by
  unfold slotArrives
  extract_lets v1 v2 v3 v4 v5
  refine Keeps.mid (a := s0) v2 ?_ (fun h6 => ?_)
  · unfold v2
    exact launchDue_keeps h
  clear_value v2
  split
  · exact h6
  · extract_lets v12 v13
    refine Keeps.mid (a := s0) v12 ?_ (fun h14 => ?_)
    · unfold v12
      exact Keeps.fold (Keeps.put h6 rfl rfl rfl rfl rfl) (fun _ _ h17 => putMesh_keeps h17)
    clear_value v12
    refine Keeps.mid (a := s0) v13 ?_ (fun h18 => ?_)
    · unfold v13
      exact carryFlits_keeps h14
    clear_value v13
    refine sendAckWord_keeps ?_
    refine Keeps.fold ?_ (fun s19 x20 h21 => ?_)
    · exact h18
    · split
      · exact flitArrives_keeps h21

theorem execSlotReceived_keeps {s0 : State} {tower : Tower} {source : Tower} {plane : Plane} {slot : BitVec 8}
    {errors : List (Nat × Bytes)} {s : State} (h : Keeps s0 s) :
    OutKeeps s0 (execSlotReceived tower source plane slot errors s) := by
  unfold execSlotReceived
  exact OutKeeps.next (slotArrives_keeps h)

theorem openRespond_keeps {s0 : State} {t : Nat} {h1 : BitVec 128} {kind : Nat} {code : Nat} {lines : Nat}
    {data : Bytes} {s : State} (h : Keeps s0 s) :
    Keeps s0 (openRespond t h1 kind code lines data s) := by
  unfold openRespond
  exact sendOpen_keeps h

theorem openRefuse_keeps {s0 : State} {t : Nat} {h1 : BitVec 128} {code : Nat} {s : State} (h : Keeps s0 s) :
    Keeps s0 (openRefuse t h1 code s) := by
  unfold openRefuse
  extract_lets v1
  refine Keeps.mid (a := s0) v1 ?_ (fun h2 => ?_)
  · unfold v1
    exact Keeps.ite (fun _ => worldDenied_keeps h) (fun _ => h)
  clear_value v1
  split
  · rename_i y6
    refine Keeps.ofPair1 (a := s0) y6 ?_ (fun h7 => ?_)
    · exact drawBytes_keeps h2
    exact openRespond_keeps h7

theorem writeEnabled_keeps {s0 : State} {a : Nat} {enables : Nat} {data : Bytes} {poisoned : Bool} {s : State}
    (h : Keeps s0 s) :
    Keeps s0 (writeEnabled a enables data poisoned s).2 := by
  unfold writeEnabled
  split
  · dsimp only
    exact Keeps.fold h (fun _ _ h4 => spadWrite_keeps h4)
  · split
    · exact writeLine_keeps h
    · split
      · dsimp only
        exact h
      · exact mergeLine_keeps h

theorem openWrite_keeps {s0 : State} {t : Nat} {p : OpenPacket} {s : State} (h : Keeps s0 s) :
    Keeps s0 (openWrite t p s) := by
  unfold openWrite
  extract_lets v1
  refine Keeps.ite (fun _ => ?_) (fun _ => ?_)
  · exact h
  · split
    · exact h
    · rename_i y6
      refine OptKeeps.out (a := s0) y6 ?_ (fun h7 => ?_)
      · exact takeOpen_keeps h
      split
      · exact openRefuse_keeps h7
      · split
        · rename_i y16
          refine Keeps.ofPair1 (a := s0) y16 ?_ (fun h17 => ?_)
          · refine Keeps.foldPair ?_ (fun s18 x19 h20 => ?_)
            · dsimp only
              exact h7
            · extract_lets v21
              split
              · rename_i y25
                refine Keeps.ofPair1 (a := s0) y25 ?_ (fun h26 => ?_)
                · exact writeEnabled_keeps h20
                dsimp only
                exact h26
          exact Keeps.ite (fun _ => sendInvalidations_keeps h17) (fun _ => openRespond_keeps h17)

theorem execOpenWrite_keeps {s0 : State} {tower : Tower} {packet : OpenPacket} {s : State} (h : Keeps s0 s) :
    OutKeeps s0 (execOpenWrite tower packet s) := by
  unfold execOpenWrite
  exact OutKeeps.next (openWrite_keeps h)

theorem addSharer_keeps {s0 : State} {a : Nat} {reader : Nat} {s : State} (h : Keeps s0 s) :
    Keeps s0 (addSharer a reader s) := by
  unfold addSharer
  split
  · exact h
  · exact Keeps.put h rfl rfl rfl rfl rfl

theorem openRead_keeps {s0 : State} {t : Nat} {p : OpenPacket} {s : State} (h : Keeps s0 s) :
    Keeps s0 (openRead t p s) := by
  unfold openRead
  extract_lets v1 v2
  refine Keeps.ite (fun _ => ?_) (fun _ => ?_)
  · exact h
  · split
    · exact h
    · rename_i y7
      refine OptKeeps.out (a := s0) y7 ?_ (fun h8 => ?_)
      · exact takeOpen_keeps h
      split
      · exact openRefuse_keeps h8
      · split
        · rename_i y18
          refine Keeps.ofPair2 (a := s0) y18 ?_ (fun h19 => ?_)
          · exact readLocal_keeps h8
          extract_lets v20
          refine Keeps.mid (a := s0) v20 ?_ (fun h21 => ?_)
          · unfold v20
            exact Keeps.ite (fun _ => addSharer_keeps h19) (fun _ => h19)
          clear_value v20
          exact openRespond_keeps h21

theorem execOpenRead_keeps {s0 : State} {tower : Tower} {packet : OpenPacket} {s : State} (h : Keeps s0 s) :
    OutKeeps s0 (execOpenRead tower packet s) := by
  unfold execOpenRead
  exact OutKeeps.next (openRead_keeps h)

theorem openAtomic_keeps {s0 : State} {t : Nat} {p : OpenPacket} {s : State} (h : Keeps s0 s) :
    Keeps s0 (openAtomic t p s) := by
  unfold openAtomic
  extract_lets v1 v2 v3
  refine Keeps.ite (fun _ => ?_) (fun _ => ?_)
  · exact h
  · split
    · exact h
    · rename_i y8
      refine OptKeeps.out (a := s0) y8 ?_ (fun h9 => ?_)
      · exact takeOpen_keeps h
      split
      · exact openRefuse_keeps h9
      · split
        · rename_i y19
          refine Keeps.ofPair2 (a := s0) y19 ?_ (fun h20 => ?_)
          · split
            · exact spadAtomic_keeps h9
            · exact atomicLine_keeps h9
          refine Keeps.ite (fun _ => ?_) (fun _ => ?_)
          · exact sendInvalidations_keeps h20
          · split
            · rename_i y26
              refine Keeps.ofPair1 (a := s0) y26 ?_ (fun h27 => ?_)
              · split
                · exact drawBytes_keeps h20
                · dsimp only
                  exact h20
              exact openRespond_keeps h27

theorem execOpenAtomic_keeps {s0 : State} {tower : Tower} {packet : OpenPacket} {s : State} (h : Keeps s0 s) :
    OutKeeps s0 (execOpenAtomic tower packet s) := by
  unfold execOpenAtomic
  exact OutKeeps.next (openAtomic_keeps h)

theorem execOpenReadData_keeps {s0 : State} {tower : Tower} {packet : OpenPacket} {s : State} (h : Keeps s0 s) :
    OutKeeps s0 (execOpenReadData tower packet s) := by
  unfold execOpenReadData
  exact OutKeeps.next (takeAnswer_keeps h)

theorem execOpenCompletion_keeps {s0 : State} {tower : Tower} {packet : OpenPacket} {s : State} (h : Keeps s0 s)
    :
    OutKeeps s0 (execOpenCompletion tower packet s) := by
  unfold execOpenCompletion
  exact OutKeeps.next (takeAnswer_keeps h)

theorem execOpenAtomicData_keeps {s0 : State} {tower : Tower} {packet : OpenPacket} {s : State} (h : Keeps s0 s)
    :
    OutKeeps s0 (execOpenAtomicData tower packet s) := by
  unfold execOpenAtomicData
  exact OutKeeps.next (takeAnswer_keeps h)

theorem meshLinkFail_keeps {s0 : State} {n : Nat} {s : State} (h : Keeps s0 s) :
    Keeps s0 (meshLinkFail n s) := by
  unfold meshLinkFail
  exact Keeps.ite (fun _ => h) (fun _ => raise_keeps (Keeps.put h rfl rfl rfl rfl rfl))

theorem execMeshLinkFail_keeps {s0 : State} {link : Fin 18} {s : State} (h : Keeps s0 s) :
    OutKeeps s0 (execMeshLinkFail link s) := by
  unfold execMeshLinkFail
  exact OutKeeps.next (meshLinkFail_keeps h)

end Sys2Proof.Machine
end

