-- ==== Sys2Proof/Laws/KeepsFabric.lean ====
section
/-! SUPPORT. What the operations of Machine/Fabric.lean keep: one lemma for each. -/

set_option Elab.async false

namespace Sys2Proof.Machine

theorem settleRoutes_keeps {s0 : State} {before : State} {s : State} (_h : Keeps s0 before) (h2 : Keeps s0 s) :
    Keeps s0 (settleRoutes before s) := by
  unfold settleRoutes
  refine Keeps.fold ?_ (fun s1 x2 h3 => ?_)
  · exact h2
  · extract_lets v4 v5
    exact raiseIf_keeps (Keeps.put h3 rfl rfl rfl rfl rfl)

theorem addReady_keeps {s0 : State} {e : CombineEntry} {s : State} (h : Keeps s0 s) :
    Keeps s0 (addReady e s) := by
  unfold addReady
  extract_lets v1 v2 v3
  exact Keeps.put h rfl rfl rfl rfl rfl

theorem closeEntries_keeps {s0 : State} {p : CombineEntry → Bool} {s : State} (h : Keeps s0 s) :
    Keeps s0 (closeEntries p s) := by
  unfold closeEntries
  extract_lets v1 v2
  exact Keeps.fold (Keeps.put h rfl rfl rfl rfl rfl) (fun _ _ h5 => addReady_keeps h5)

theorem sendOrAnswer_keeps {s0 : State} {e : SendEnd} {p : FabricPacket} {s : State} (h : Keeps s0 s) :
    Keeps s0 (sendOrAnswer e p s) := by
  unfold sendOrAnswer
  extract_lets v1
  split
  · exact h
  · exact Keeps.ite (fun _ => respond_keeps h) (fun _ => h)

theorem forward_keeps {s0 : State} {start : Nat} {origin : Option Nat} {p : FabricPacket} {s : State}
    (h : Keeps s0 s) :
    Keeps s0 (forward start origin p s) := by
  unfold forward
  extract_lets v1
  split
  · rename_i y5
    refine Keeps.ofPair1 (a := s0) y5 ?_ (fun h6 => ?_)
    · exact routePacket_keeps h
    exact Keeps.ite (fun _ => h6) (fun _ => sendOrAnswer_keeps h6)

theorem portGone_keeps {s0 : State} {port : Nat} {before : State} {s : State} (h : Keeps s0 before)
    (h2 : Keeps s0 s) :
    Keeps s0 (portGone port before s) := by
  unfold portGone
  extract_lets v1 v2 v3 v4 v5 v6
  refine Keeps.mid (a := s0) v1 ?_ (fun h7 => ?_)
  · unfold v1
    exact settleRoutes_keeps h h2
  clear_value v1
  refine Keeps.mid (a := s0) v2 ?_ (fun h8 => ?_)
  · unfold v2
    exact closeEntries_keeps h7
  clear_value v2
  refine Keeps.mid (a := s0) v6 ?_ (fun h9 => ?_)
  · unfold v6
    exact Keeps.put h8 rfl rfl rfl rfl rfl
  clear_value v6
  exact Keeps.fold h9 (fun _ _ h12 => forward_keeps h12)

theorem pumpPort_keeps {s0 : State} {port : Nat} {s : State} (h : Keeps s0 s) : Keeps s0 (pumpPort port s) := by
  unfold pumpPort
  extract_lets v1 v2 v3
  refine Keeps.fold ?_ (fun s4 x5 h6 => ?_)
  · exact Keeps.put h rfl rfl rfl rfl rfl
  · split
    · rename_i y10
      refine Keeps.ofPair1 (a := s0) y10 ?_ (fun h11 => ?_)
      · exact sendOnPort_keeps h6
      exact Keeps.ite (fun _ => h11) (fun _ => sendOrAnswer_keeps h11)

theorem dropRequest_keeps {s0 : State} {o : FabricReq} {s : State} (h : Keeps s0 s) :
    Keeps s0 (dropRequest o s) := by
  unfold dropRequest
  exact Keeps.put h rfl rfl rfl rfl rfl

theorem giveAnswer_keeps {s0 : State} {o : FabricReq} {code : Nat} {data : Option Bytes} {s : State}
    (h : Keeps s0 s) :
    Keeps s0 (giveAnswer o code data s) := by
  unfold giveAnswer
  extract_lets v1 v2
  split
  · exact h
  · refine Keeps.ite (fun _ => ?_) (fun _ => ?_)
    · extract_lets v9
      refine Keeps.mid (a := s0) v9 ?_ (fun h10 => ?_)
      · unfold v9
        exact Keeps.ite (fun _ => changeDesc_keeps h) (fun _ => h)
      clear_value v9
      exact parkDesc_keeps h10
    · exact answerDesc_keeps h

theorem endWithout_keeps {s0 : State} {o : FabricReq} {code : Nat} {s : State} (h : Keeps s0 s) :
    Keeps s0 (endWithout o code s) := by
  unfold endWithout
  extract_lets v1 v2 v3 v4
  refine Keeps.mid (a := s0) v2 ?_ (fun h5 => ?_)
  · unfold v2
    exact skipTag_keeps (dropRequest_keeps h)
  clear_value v2
  refine Keeps.mid (a := s0) v3 ?_ (fun h6 => ?_)
  · unfold v3
    exact fabricFailure_keeps h5
  clear_value v3
  refine Keeps.mid (a := s0) v4 ?_ (fun h7 => ?_)
  · unfold v4
    refine Keeps.ite (fun _ => ?_) (fun _ => ?_)
    · split
      · exact h6
      · exact changeDesc_keeps h6
    · exact h6
  clear_value v4
  exact giveAnswer_keeps h7

theorem changeRequest_keeps {s0 : State} {o : FabricReq} {f : FabricReq → FabricReq} {s : State}
    (h : Keeps s0 s) :
    Keeps s0 (changeRequest o f s) := by
  unfold changeRequest
  exact Keeps.put h rfl rfl rfl rfl rfl

theorem packageIdAct_keeps {s0 : State} {a0 : Bytes} {a1 : State} (h : Keeps s0 a1) :
    WKeeps s0 (packageIdAct a0 a1) := by
  unfold packageIdAct
  split
  · exact .refuse
  · split
    · exact .refuse
    · exact WKeeps.done (setDict_keeps h)

theorem execPackageIdWrite_keeps {s0 : State} {req : Req} {value : Bytes} {s : State} (h : Keeps s0 s) :
    OutKeeps s0 (execPackageIdWrite req value s) := by
  unfold execPackageIdWrite
  refine OutKeeps.next ?_
  refine serveWrite_keeps ?_ ?_
  · intro x1 s2 h3
    exact packageIdAct_keeps h3
  · exact h

theorem routeTableAct_keeps {s0 : State} {a0 : Bytes} {a1 : State} (h : Keeps s0 a1) :
    WKeeps s0 (routeTableAct a0 a1) := by
  unfold routeTableAct
  split
  · exact .refuse
  · exact WKeeps.done (settleRoutes_keeps h (setDict_keeps h))

theorem execRouteTableWrite_keeps {s0 : State} {req : Req} {value : Bytes} {s : State} (h : Keeps s0 s) :
    OutKeeps s0 (execRouteTableWrite req value s) := by
  unfold execRouteTableWrite
  refine OutKeeps.next ?_
  refine serveWrite_keeps ?_ ?_
  · intro x1 s2 h3
    exact routeTableAct_keeps h3
  · exact h

theorem routeSettle_keeps {s0 : State} {d : Nat} {s : State} (h : Keeps s0 s) : Keeps s0 (routeSettle d s) := by
  unfold routeSettle
  extract_lets v1 v2 v3 v4 v5 v6
  refine Keeps.mid (a := s0) v2 ?_ (fun h7 => ?_)
  · unfold v2
    exact advanceTo_keeps h
  clear_value v2
  refine Keeps.mid (a := s0) v6 ?_ (fun h8 => ?_)
  · unfold v6
    exact Keeps.put h7 rfl rfl rfl rfl rfl
  clear_value v6
  exact Keeps.ite (fun _ => h) (fun _ => Keeps.fold h8 (fun _ _ h11 => forward_keeps h11))

theorem execRouteSettle_keeps {s0 : State} {destination : BitVec 12} {s : State} (h : Keeps s0 s) :
    OutKeeps s0 (execRouteSettle destination s) := by
  unfold execRouteSettle
  exact OutKeeps.next (routeSettle_keeps h)

theorem noteUnbound_keeps {s0 : State} {p : Nat} {old : Nat} {new : Nat} {s : State} (h : Keeps s0 s) :
    Keeps s0 (noteUnbound p old new s) := by
  unfold noteUnbound
  exact Keeps.ite (fun _ => Keeps.put h rfl rfl rfl rfl rfl) (fun _ => h)

theorem bindingAct_keeps {s0 : State} {p : Nat} {a1 : Bytes} {a2 : State} (h : Keeps s0 a2) :
    WKeeps s0 (bindingAct p a1 a2) := by
  unfold bindingAct
  extract_lets v1 v2 v3 v4 v5
  refine Keeps.mid (a := s0) v3 ?_ (fun h6 => ?_)
  · unfold v3
    exact noteUnbound_keeps h
  clear_value v3
  refine Keeps.mid (a := s0) v4 ?_ (fun h7 => ?_)
  · unfold v4
    exact setDictNat_keeps h6
  clear_value v4
  split
  · exact .refuse
  · split
    · exact .refuse
    · split
      · exact .refuse
      · exact WKeeps.done (Keeps.put h7 rfl rfl rfl rfl rfl)

theorem execJobBindingWrite_keeps {s0 : State} {req : Req} {partition : Partition} {value : Bytes} {s : State}
    (h : Keeps s0 s) :
    OutKeeps s0 (execJobBindingWrite req partition value s) := by
  unfold execJobBindingWrite
  refine OutKeeps.next ?_
  refine serveWrite_keeps ?_ ?_
  · intro x1 s2 h3
    exact bindingAct_keeps h3
  · exact h

theorem endJobRequests_keeps {s0 : State} {job : BitVec 16} {p : Nat} {s : State} (h : Keeps s0 s) :
    Keeps s0 (endJobRequests job p s) := by
  unfold endJobRequests
  extract_lets v1 v2 v3 v4 v5 v6
  refine Keeps.mid (a := s0) v3 ?_ (fun h7 => ?_)
  · unfold v3
    exact Keeps.put h rfl rfl rfl rfl rfl
  clear_value v3
  refine Keeps.mid (a := s0) v5 ?_ (fun h8 => ?_)
  · unfold v5
    exact Keeps.fold h7 (fun _ _ h11 => endWithout_keeps h11)
  clear_value v5
  exact Keeps.put h8 rfl rfl rfl rfl rfl

theorem answerMembers_keeps {s0 : State} {e : CombineEntry} {tower : Nat} {f : Nat → Nat × Bytes} {s : State}
    (h : Keeps s0 s) :
    Keeps s0 (answerMembers e tower f s) := by
  unfold answerMembers
  refine Keeps.fold ?_ (fun s1 x2 h3 => ?_)
  · exact h
  · split
    · extract_lets v8
      exact Keeps.fold h3 (fun _ _ h11 => respond_keeps h11)

theorem answerAll_keeps {s0 : State} {e : CombineEntry} {tower : Nat} {code : Nat} {s : State} (h : Keeps s0 s)
    :
    Keeps s0 (answerAll e tower code s) := by
  unfold answerAll
  exact answerMembers_keeps h

theorem incomingFault_keeps {s0 : State} {q : Nat} {t : Nat} {address : Nat} {level : Nat} {kind : Kind}
    {remote : Nat} {s : State} (h : Keeps s0 s) :
    Keeps s0 (incomingFault q t address level kind remote s) := by
  unfold incomingFault
  refine Keeps.ite (fun _ => ?_) (fun _ => ?_)
  · exact loseFault_keeps h
  · split
    · rename_i y4
      refine Keeps.ofPair1 (a := s0) y4 ?_ (fun h5 => ?_)
      · exact recordTag_keeps h
      exact writeFaultRecord_keeps h5

theorem answerStored_keeps {s0 : State} {e : CombineEntry} {tower : Nat} {a : Nat} {poisoned : Bool}
    {f : Nat → Nat × Bytes} {s : State} (h : Keeps s0 s) :
    Keeps s0 (answerStored e tower a poisoned f s) := by
  unfold answerStored
  refine Keeps.ite (fun _ => ?_) (fun _ => ?_)
  · extract_lets v1
    exact sendInvalidations_keeps h
  · exact answerMembers_keeps h

theorem applyAtomics_keeps {s0 : State} {e : CombineEntry} {tower : Nat} {a : Nat} {s : State} (h : Keeps s0 s)
    :
    Keeps s0 (applyAtomics e tower a s) := by
  unfold applyAtomics
  extract_lets v1 v2 v3 v4 v5 v6
  refine Keeps.mid (a := s0) v3 ?_ (fun h7 => ?_)
  · unfold v3
    refine Keeps.fold ?_ (fun s8 x9 h10 => ?_)
    · exact h
    · split
      · exact h10
      · exact raise_keeps h10
  clear_value v3
  refine Keeps.ite (fun _ => ?_) (fun _ => ?_)
  · exact answerAll_keeps h7
  · split
    · rename_i y20
      refine Keeps.ofPair2 (a := s0) y20 ?_ (fun h21 => ?_)
      · split
        · dsimp only
          exact h7
        · split
          · exact spadAtomic_keeps h7
          · exact atomicLine_keeps h7
      split
      · rename_i y29
        refine Keeps.ofPair1 (a := s0) y29 ?_ (fun h30 => ?_)
        · split
          · exact drawBytes_keeps h21
          · dsimp only
            exact h21
        extract_lets v33 v34 v35 v36 v37
        refine Keeps.mid (a := s0) v37 ?_ (fun h38 => ?_)
        · unfold v37
          exact Keeps.put h30 rfl rfl rfl rfl rfl
        clear_value v37
        exact answerStored_keeps h38

theorem applyAt_keeps {s0 : State} {e : CombineEntry} {tower : Nat} {a : Nat} {s : State} (h : Keeps s0 s) :
    Keeps s0 (applyAt e tower a s) := by
  unfold applyAt
  split
  · split
    · rename_i y7
      refine Keeps.ofPair2 (a := s0) y7 ?_ (fun h8 => ?_)
      · exact readLocal_keeps h
      exact answerMembers_keeps h8
  · split
    · split
      · rename_i y18
        refine Keeps.ofPair1 (a := s0) y18 ?_ (fun h19 => ?_)
        · exact writeEnabled_keeps h
        exact answerStored_keeps h19
  · exact applyAtomics_keeps h

theorem applyEntry_keeps {s0 : State} {e : CombineEntry} {s : State} (h : Keeps s0 s) :
    Keeps s0 (applyEntry e s) := by
  unfold applyEntry
  split
  · exact answerAll_keeps h
  · extract_lets v6 v7 v8
    split
    · rename_i y12
      refine Keeps.ofPair1 (a := s0) y12 ?_ (fun h13 => ?_)
      · exact translateNow_keeps h
      split
      · refine Keeps.ofPair1 (a := s0) y12 ?_ (fun h19 => ?_)
        · exact translateNow_keeps h
        split
        · exact answerAll_keeps (incomingFault_keeps h13)
        · refine Keeps.ite (fun _ => ?_) (fun _ => ?_)
          · exact answerAll_keeps (incomingFault_keeps h13)
          · refine Keeps.ite (fun _ => ?_) (fun _ => ?_)
            · exact answerAll_keeps (worldDenied_keeps h13)
            · refine Keeps.ite (fun _ => ?_) (fun _ => ?_)
              · exact answerAll_keeps h13
              · refine Keeps.ite (fun _ => ?_) (fun _ => ?_)
                · exact answerAll_keeps h13
                · exact Keeps.ite (fun _ => answerAll_keeps h13) (fun _ => applyAt_keeps h13)
      · refine Keeps.ofPair1 (a := s0) y12 ?_ (fun h29 => ?_)
        · exact translateNow_keeps h
        exact answerAll_keeps (incomingFault_keeps h13)
      · refine Keeps.ofPair1 (a := s0) y12 ?_ (fun h32 => ?_)
        · exact translateNow_keeps h
        exact answerAll_keeps (worldDenied_keeps h13)
      · exact answerAll_keeps h13

theorem applyJobEntries_keeps {s0 : State} {job : BitVec 16} {s : State} (h : Keeps s0 s) :
    Keeps s0 (applyJobEntries job s) := by
  unfold applyJobEntries
  extract_lets v1 v2 v3
  refine Keeps.mid (a := s0) v1 ?_ (fun h4 => ?_)
  · unfold v1
    exact closeEntries_keeps h
  clear_value v1
  exact Keeps.fold (Keeps.put h4 rfl rfl rfl rfl rfl) (fun _ _ h7 => applyEntry_keeps h7)

theorem teardownAct_keeps {s0 : State} {a0 : Bytes} {a1 : State} (h : Keeps s0 a1) :
    WKeeps s0 (teardownAct a0 a1) := by
  unfold teardownAct
  extract_lets v1
  split
  · exact .refuse
  · extract_lets v7 v8 v9
    refine Keeps.mid (a := s0) v7 ?_ (fun h10 => ?_)
    · unfold v7
      exact setDictNat_keeps h
    clear_value v7
    refine Keeps.mid (a := s0) v8 ?_ (fun h11 => ?_)
    · unfold v8
      exact endJobRequests_keeps (applyJobEntries_keeps h10)
    clear_value v8
    exact WKeeps.done (raise_keeps (Keeps.put h11 rfl rfl rfl rfl rfl))

theorem execJobTeardown_keeps {s0 : State} {req : Req} {value : Bytes} {s : State} (h : Keeps s0 s) :
    OutKeeps s0 (execJobTeardown req value s) := by
  unfold execJobTeardown
  refine OutKeeps.next ?_
  refine serveWrite_keeps ?_ ?_
  · intro x1 s2 h3
    exact teardownAct_keeps h3
  · exact h

theorem arriveCredits_keeps {s0 : State} {port : Nat} {f : FabricHeader} {s : State} (h : Keeps s0 s) :
    Keeps s0 (arriveCredits port f s) := by
  unfold arriveCredits
  extract_lets v1 v2 v3
  refine Keeps.mid (a := s0) v1 ?_ (fun h4 => ?_)
  · unfold v1
    exact Keeps.fold h (fun _ _ h7 => Keeps.put h7 rfl rfl rfl rfl rfl)
  clear_value v1
  refine Keeps.mid (a := s0) v3 ?_ (fun h8 => ?_)
  · unfold v3
    exact Keeps.ite (fun _ => h4) (fun _ => Keeps.put h4 rfl rfl rfl rfl rfl)
  clear_value v3
  exact pumpPort_keeps h8

theorem combine_keeps {s0 : State} {port : Nat} {p : FabricPacket} {s : State} (h : Keeps s0 s) :
    Keeps s0 (combine port p s) := by
  unfold combine
  extract_lets v1 v2
  split
  · extract_lets v7 v8 v9 v10 v11 v12 v13 v14 v15 v16
    refine Keeps.mid (a := s0) v8 ?_ (fun h17 => ?_)
    · unfold v8
      exact closeEntries_keeps h
    clear_value v8
    refine Keeps.mid (a := s0) v12 ?_ (fun h18 => ?_)
    · unfold v12
      exact count64_keeps (Keeps.put h17 rfl rfl rfl rfl rfl)
    clear_value v12
    refine Keeps.mid (a := s0) v13 ?_ (fun h19 => ?_)
    · unfold v13
      exact closeEntries_keeps h17
    clear_value v13
    refine Keeps.ite (fun _ => ?_) (fun _ => ?_)
    · exact closeEntries_keeps h18
    · exact Keeps.ite (fun _ => Keeps.put h19 rfl rfl rfl rfl rfl) (fun _ => addReady_keeps h19)

theorem decideAtomic_keeps {s0 : State} {port : Nat} {p : FabricPacket} {s : State} (h : Keeps s0 s) :
    Keeps s0 (decideAtomic port p s) := by
  unfold decideAtomic
  extract_lets v1 v2 v3 v4 v5
  split
  · exact respond_keeps (count64_keeps h)
  · refine Keeps.ite (fun _ => ?_) (fun _ => ?_)
    · exact Keeps.put h rfl rfl rfl rfl rfl
    · refine Keeps.ite (fun _ => ?_) (fun _ => ?_)
      · exact Keeps.put h rfl rfl rfl rfl rfl
      · exact Keeps.ite (fun _ => combine_keeps h) (fun _ => respond_keeps (raise_keeps (count32_keeps h)))

theorem serveRequest_keeps {s0 : State} {port : Nat} {p : FabricPacket} {s : State} (h : Keeps s0 s) :
    Keeps s0 (serveRequest port p s) := by
  unfold serveRequest
  extract_lets v1
  split
  · exact respond_keeps (raise_keeps h)
  · refine Keeps.ite (fun _ => ?_) (fun _ => ?_)
    · exact respond_keeps h
    · refine Keeps.ite (fun _ => ?_) (fun _ => ?_)
      · exact respond_keeps h
      · exact Keeps.ite (fun _ => decideAtomic_keeps h) (fun _ => combine_keeps h)

theorem requestIn_keeps {s0 : State} {port : Nat} {kind : Nat} {header : BitVec 256} {data : Bytes} {s : State}
    (h : Keeps s0 s) :
    Keeps s0 (requestIn port kind header data s) := by
  unfold requestIn
  extract_lets v1 v2 v3
  refine Keeps.mid (a := s0) v3 ?_ (fun h4 => ?_)
  · unfold v3
    exact arriveCredits_keeps h
  clear_value v3
  refine Keeps.ite (fun _ => ?_) (fun _ => ?_)
  · exact h
  · split
    · exact h4
    · refine Keeps.ite (fun _ => ?_) (fun _ => ?_)
      · exact respond_keeps h4
      · refine Keeps.ite (fun _ => ?_) (fun _ => ?_)
        · exact respond_keeps h4
        · refine Keeps.ite (fun _ => ?_) (fun _ => ?_)
          · exact forward_keeps h4
          · exact Keeps.ite (fun _ => respond_keeps h4) (fun _ => serveRequest_keeps h4)

theorem execFabricRead_keeps {s0 : State} {port : Port} {header : BitVec 256} {data : Bytes} {s : State}
    (h : Keeps s0 s) :
    OutKeeps s0 (execFabricRead port header data s) := by
  unfold execFabricRead
  exact OutKeeps.next (requestIn_keeps h)

theorem execFabricWrite_keeps {s0 : State} {port : Port} {header : BitVec 256} {data : Bytes} {s : State}
    (h : Keeps s0 s) :
    OutKeeps s0 (execFabricWrite port header data s) := by
  unfold execFabricWrite
  exact OutKeeps.next (requestIn_keeps h)

theorem execFabricAtomic_keeps {s0 : State} {port : Port} {header : BitVec 256} {data : Bytes} {s : State}
    (h : Keeps s0 s) :
    OutKeeps s0 (execFabricAtomic port header data s) := by
  unfold execFabricAtomic
  exact OutKeeps.next (requestIn_keeps h)

theorem lateAtomic_keeps {s0 : State} {o : FabricReq} {code : Nat} {data : Bytes} {s : State} (h : Keeps s0 s) :
    Keeps s0 (lateAtomic o code data s) := by
  unfold lateAtomic
  extract_lets v1 v2
  split
  · exact h
  · split
    · exact h
    · extract_lets v13
      refine Keeps.mid (a := s0) v13 ?_ (fun h14 => ?_)
      · unfold v13
        exact Keeps.ite (fun _ => h) (fun _ => spadWrite_keeps h)
      clear_value v13
      exact changeDesc_keeps h14

theorem answerIn_keeps {s0 : State} {port : Nat} {kind : Nat} {header : BitVec 256} {data : Bytes} {s : State}
    (h : Keeps s0 s) :
    Keeps s0 (answerIn port kind header data s) := by
  unfold answerIn
  extract_lets v1 v2 v3 v4 v5
  refine Keeps.mid (a := s0) v3 ?_ (fun h6 => ?_)
  · unfold v3
    exact arriveCredits_keeps h
  clear_value v3
  refine Keeps.mid (a := s0) v4 ?_ (fun h7 => ?_)
  · unfold v4
    exact Keeps.ite (fun _ => limiterEcho_keeps h6) (fun _ => h6)
  clear_value v4
  refine Keeps.ite (fun _ => ?_) (fun _ => ?_)
  · exact h
  · split
    · exact h6
    · refine Keeps.ite (fun _ => ?_) (fun _ => ?_)
      · exact h6
      · refine Keeps.ite (fun _ => ?_) (fun _ => ?_)
        · exact forward_keeps h6
        · split
          · exact h7
          · split
            · exact Keeps.ite (fun _ => lateAtomic_keeps h7) (fun _ => h7)
            · exact h7
            · refine Keeps.ite (fun _ => ?_) (fun _ => ?_)
              · extract_lets v27
                exact changeRequest_keeps h7
              · refine Keeps.ite (fun _ => ?_) (fun _ => ?_)
                · exact giveAnswer_keeps (changeRequest_keeps h7)
                · exact giveAnswer_keeps (fabricFailure_keeps (dropRequest_keeps h7))

theorem execFabricReadData_keeps {s0 : State} {port : Port} {header : BitVec 256} {data : Bytes} {s : State}
    (h : Keeps s0 s) :
    OutKeeps s0 (execFabricReadData port header data s) := by
  unfold execFabricReadData
  exact OutKeeps.next (answerIn_keeps h)

theorem execFabricCompletion_keeps {s0 : State} {port : Port} {header : BitVec 256} {data : Bytes} {s : State}
    (h : Keeps s0 s) :
    OutKeeps s0 (execFabricCompletion port header data s) := by
  unfold execFabricCompletion
  exact OutKeeps.next (answerIn_keeps h)

theorem execFabricAtomicData_keeps {s0 : State} {port : Port} {header : BitVec 256} {data : Bytes} {s : State}
    (h : Keeps s0 s) :
    OutKeeps s0 (execFabricAtomicData port header data s) := by
  unfold execFabricAtomicData
  exact OutKeeps.next (answerIn_keeps h)

theorem execCredit_keeps {s0 : State} {port : Port} {header : BitVec 256} {s : State} (h : Keeps s0 s) :
    OutKeeps s0 (execCredit port header s) := by
  unfold execCredit
  extract_lets v1
  exact OutKeeps.next (Keeps.ite (fun _ => arriveCredits_keeps h) (fun _ => h))

theorem ownPacket_keeps {s0 : State} {kind : Nat} {enables : Nat} {data : Bytes} {s : State} (h : Keeps s0 s) :
    Keeps s0 (ownPacket kind enables data s).2 := by
  unfold ownPacket
  split
  · rename_i y4
    refine Keeps.ofPair1 (a := s0) y4 ?_ (fun h5 => ?_)
    · exact draw_keeps h
    dsimp only
    exact h5

theorem creditTimer_keeps {s0 : State} {port : Nat} {s : State} (h : Keeps s0 s) :
    Keeps s0 (creditTimer port s) := by
  unfold creditTimer
  extract_lets v1 v2
  refine Keeps.mid (a := s0) v2 ?_ (fun h3 => ?_)
  · unfold v2
    exact advanceTo_keeps h
  clear_value v2
  refine Keeps.ite (fun _ => ?_) (fun _ => ?_)
  · exact h
  · split
    · rename_i y7
      refine Keeps.ofPair1 (a := s0) y7 ?_ (fun h8 => ?_)
      · exact ownPacket_keeps h3
      extract_lets v9 v10
      exact launch_keeps (Keeps.put h8 rfl rfl rfl rfl rfl)

theorem execCreditTimer_keeps {s0 : State} {port : Port} {s : State} (h : Keeps s0 s) :
    OutKeeps s0 (execCreditTimer port s) := by
  unfold execCreditTimer
  exact OutKeeps.next (creditTimer_keeps h)

theorem helloArrives_keeps {s0 : State} {port : Nat} {header : BitVec 256} {data : Bytes} {s : State}
    (h : Keeps s0 s) :
    Keeps s0 (helloArrives port header data s) := by
  unfold helloArrives
  extract_lets v1 v2 v3 v4
  refine Keeps.mid (a := s0) v2 ?_ (fun h5 => ?_)
  · unfold v2
    exact arriveCredits_keeps h
  clear_value v2
  exact Keeps.ite (fun _ => h) (fun _ => Keeps.ite (fun _ => h5) (fun _ => Keeps.put h5 rfl rfl rfl rfl rfl))

theorem execHello_keeps {s0 : State} {port : Port} {header : BitVec 256} {data : Bytes} {s : State}
    (h : Keeps s0 s) :
    OutKeeps s0 (execHello port header data s) := by
  unfold execHello
  exact OutKeeps.next (helloArrives_keeps h)

theorem helloTimer_keeps {s0 : State} {port : Nat} {s : State} (h : Keeps s0 s) :
    Keeps s0 (helloTimer port s) := by
  unfold helloTimer
  refine Keeps.ite (fun _ => ?_) (fun _ => ?_)
  · exact h
  · extract_lets v1 v2 v3
    refine Keeps.mid (a := s0) v2 ?_ (fun h4 => ?_)
    · unfold v2
      exact Keeps.ite (fun _ => h) (fun _ => advanceTo_keeps h)
    clear_value v2
    split
    · rename_i y8
      refine Keeps.ofPair1 (a := s0) y8 ?_ (fun h9 => ?_)
      · exact ownPacket_keeps h4
      exact sendOnPort_keeps (Keeps.put h9 rfl rfl rfl rfl rfl)

theorem execHelloTimer_keeps {s0 : State} {port : Port} {s : State} (h : Keeps s0 s) :
    OutKeeps s0 (execHelloTimer port s) := by
  unfold execHelloTimer
  exact OutKeeps.next (helloTimer_keeps h)

theorem keySwitch_keeps {s0 : State} {port : Nat} {count : Nat} {s : State} (h : Keeps s0 s) :
    Keeps s0 (keySwitch port count s) := by
  unfold keySwitch
  refine Keeps.ite (fun _ => ?_) (fun _ => ?_)
  · exact h
  · extract_lets v1 v2 v3
    exact switchKey_keeps (Keeps.put h rfl rfl rfl rfl rfl)

theorem execKeySwitch_keeps {s0 : State} {port : Port} {count : BitVec 64} {s : State} (h : Keeps s0 s) :
    OutKeeps s0 (execKeySwitch port count s) := by
  unfold execKeySwitch
  exact OutKeeps.next (keySwitch_keeps h)

theorem replaceKey_keeps {s0 : State} {port : Nat} {s : State} (h : Keeps s0 s) :
    Keeps s0 (replaceKey port s) := by
  unfold replaceKey
  extract_lets v1 v2
  split
  · rename_i y6
    refine Keeps.ofPair1 (a := s0) y6 ?_ (fun h7 => ?_)
    · exact drawBytes_keeps h
    split
    · rename_i y11
      refine Keeps.ofPair1 (a := s0) y11 ?_ (fun h12 => ?_)
      · exact ownPacket_keeps h7
      extract_lets v13 v14
      refine Keeps.mid (a := s0) v13 ?_ (fun h15 => ?_)
      · unfold v13
        exact sendOnPort_keeps h12
      clear_value v13
      exact switchKey_keeps (Keeps.put h15 rfl rfl rfl rfl rfl)

theorem keyCountExpiry_keeps {s0 : State} {port : Nat} {s : State} (h : Keeps s0 s) :
    Keeps s0 (keyCountExpiry port s) := by
  unfold keyCountExpiry
  exact Keeps.ite (fun _ => h) (fun _ => pumpPort_keeps (replaceKey_keeps h))

theorem execKeyCountExpiry_keeps {s0 : State} {port : Port} {s : State} (h : Keeps s0 s) :
    OutKeeps s0 (execKeyCountExpiry port s) := by
  unfold execKeyCountExpiry
  exact OutKeeps.next (keyCountExpiry_keeps h)

theorem combineWindow_keeps {s0 : State} {port : Nat} {s : State} (h : Keeps s0 s) :
    Keeps s0 (combineWindow port s) := by
  unfold combineWindow
  split
  · exact h
  · exact closeEntries_keeps (advanceTo_keeps h)

theorem execCombineWindowExpiry_keeps {s0 : State} {port : Port} {s : State} (h : Keeps s0 s) :
    OutKeeps s0 (execCombineWindowExpiry port s) := by
  unfold execCombineWindowExpiry
  exact OutKeeps.next (combineWindow_keeps h)

theorem execEntryApplied_keeps {s0 : State} {s : State} (h : Keeps s0 s) :
    OutKeeps s0 (execEntryApplied s) := by
  unfold execEntryApplied
  refine OutKeeps.next ?_
  split
  · exact h
  · exact applyEntry_keeps (Keeps.put h rfl rfl rfl rfl rfl)

theorem replyExpiry_keeps {s0 : State} {source : Nat} {seq : BitVec 16} {s : State} (h : Keeps s0 s) :
    Keeps s0 (replyExpiry source seq s) := by
  unfold replyExpiry
  extract_lets v1
  split
  · exact h
  · extract_lets v7 v8
    refine Keeps.mid (a := s0) v7 ?_ (fun h9 => ?_)
    · unfold v7
      exact advanceTo_keeps h
    clear_value v7
    exact Keeps.put h9 rfl rfl rfl rfl rfl

theorem execReplyCacheExpiry_keeps {s0 : State} {source : BitVec 12} {sequence : BitVec 16} {s : State}
    (h : Keeps s0 s) :
    OutKeeps s0 (execReplyCacheExpiry source sequence s) := by
  unfold execReplyCacheExpiry
  exact OutKeeps.next (replyExpiry_keeps h)

theorem sendAgain_keeps {s0 : State} {o : FabricReq} {s : State} (h : Keeps s0 s) :
    Keeps s0 (sendAgain o s).2 := by
  unfold sendAgain
  split
  · rename_i y4
    refine Keeps.ofPair1 (a := s0) y4 ?_ (fun h5 => ?_)
    · exact chargeLimiter_keeps h
    extract_lets v6
    refine Keeps.mid (a := s0) v6 ?_ (fun h7 => ?_)
    · unfold v6
      exact changeRequest_keeps h5
    clear_value v6
    exact routePacket_keeps h7

theorem responseTimer_keeps {s0 : State} {t : Nat} {e : Nat} {tag : BitVec 16} {s : State} (h : Keeps s0 s) :
    Keeps s0 (responseTimer t e tag s) := by
  unfold responseTimer
  split
  · exact h
  · refine Keeps.ite (fun _ => ?_) (fun _ => ?_)
    · exact h
    · extract_lets v6 v7 v8 v9 v10
      refine Keeps.mid (a := s0) v6 ?_ (fun h11 => ?_)
      · unfold v6
        exact advanceTo_keeps h
      clear_value v6
      refine Keeps.mid (a := s0) v8 ?_ (fun h12 => ?_)
      · unfold v8
        exact changeRequest_keeps h11
      clear_value v8
      refine Keeps.mid (a := s0) v10 ?_ (fun h13 => ?_)
      · unfold v10
        exact changeRequest_keeps h12
      clear_value v10
      refine Keeps.ite (fun _ => ?_) (fun _ => ?_)
      · exact endWithout_keeps h12
      · refine Keeps.ite (fun _ => ?_) (fun _ => ?_)
        · exact h12
        · refine Keeps.ite (fun _ => ?_) (fun _ => ?_)
          · exact h13
          · split
            · rename_i y17
              refine Keeps.ofPair1 (a := s0) y17 ?_ (fun h18 => ?_)
              · exact sendAgain_keeps (count64_keeps h13)
              split
              · refine Keeps.ofPair1 (a := s0) y17 ?_ (fun h21 => ?_)
                · exact sendAgain_keeps (count64_keeps h13)
                exact h18
              · refine Keeps.ofPair1 (a := s0) y17 ?_ (fun h25 => ?_)
                · exact sendAgain_keeps (count64_keeps h13)
                exact endWithout_keeps h18

theorem execResponseTimer_keeps {s0 : State} {tower : Tower} {engine : EngineNo} {tag : BitVec 16} {s : State}
    (h : Keeps s0 s) :
    OutKeeps s0 (execResponseTimer tower engine tag s) := by
  unfold execResponseTimer
  exact OutKeeps.next (responseTimer_keeps h)

theorem fabricBackoff_keeps {s0 : State} {t : Nat} {e : Nat} {tag : BitVec 16} {s : State} (h : Keeps s0 s) :
    Keeps s0 (fabricBackoff t e tag s) := by
  unfold fabricBackoff
  split
  · exact h
  · split
    · extract_lets v10 v11
      refine Keeps.mid (a := s0) v10 ?_ (fun h12 => ?_)
      · unfold v10
        exact advanceTo_keeps h
      clear_value v10
      split
      · rename_i y16
        refine Keeps.ofPair1 (a := s0) y16 ?_ (fun h17 => ?_)
        · exact sendAgain_keeps (count64_keeps (changeRequest_keeps h12))
        split
        · refine Keeps.ofPair1 (a := s0) y16 ?_ (fun h20 => ?_)
          · exact sendAgain_keeps (count64_keeps (changeRequest_keeps h12))
          exact h17
        · refine Keeps.ofPair1 (a := s0) y16 ?_ (fun h24 => ?_)
          · exact sendAgain_keeps (count64_keeps (changeRequest_keeps h12))
          exact endWithout_keeps h17
    · exact h

theorem execFabricRetryBackoff_keeps {s0 : State} {tower : Tower} {engine : EngineNo} {tag : BitVec 16}
    {s : State} (h : Keeps s0 s) :
    OutKeeps s0 (execFabricRetryBackoff tower engine tag s) := by
  unfold execFabricRetryBackoff
  exact OutKeeps.next (fabricBackoff_keeps h)

theorem sequenceHoldEnd_keeps {s0 : State} {target : Nat} {s : State} (h : Keeps s0 s) :
    Keeps s0 (sequenceHoldEnd target s) := by
  unfold sequenceHoldEnd
  extract_lets v1 v2
  exact Keeps.ite (fun _ => wake_keeps (advanceTo_keeps h)) (fun _ => h)

theorem execAtomicSequenceHoldEnd_keeps {s0 : State} {target : BitVec 12} {s : State} (h : Keeps s0 s) :
    OutKeeps s0 (execAtomicSequenceHoldEnd target s) := by
  unfold execAtomicSequenceHoldEnd
  exact OutKeeps.next (sequenceHoldEnd_keeps h)

theorem faultHoldEnd_keeps {s0 : State} {t : Nat} {e : Nat} {tag : BitVec 16} {s : State} (h : Keeps s0 s) :
    Keeps s0 (faultHoldEnd t e tag s) := by
  unfold faultHoldEnd
  split
  · exact h
  · refine Keeps.ite (fun _ => ?_) (fun _ => ?_)
    · exact h
    · extract_lets v6 v7 v8
      refine Keeps.mid (a := s0) v7 ?_ (fun h9 => ?_)
      · unfold v7
        exact dropRequest_keeps (advanceTo_keeps h)
      clear_value v7
      exact Keeps.put h9 rfl rfl rfl rfl rfl

theorem execAtomicFaultHoldEnd_keeps {s0 : State} {tower : Tower} {engine : EngineNo} {tag : BitVec 16}
    {s : State} (h : Keeps s0 s) :
    OutKeeps s0 (execAtomicFaultHoldEnd tower engine tag s) := by
  unfold execAtomicFaultHoldEnd
  exact OutKeeps.next (faultHoldEnd_keeps h)

theorem limiterTimer_keeps {s0 : State} {t : Nat} {target : Nat} {s : State} (h : Keeps s0 s) :
    Keeps s0 (limiterTimer t target s) := by
  unfold limiterTimer
  split
  · exact h
  · exact changeLimiter_keeps (advanceTo_keeps h)

theorem execRateLimiterTimer_keeps {s0 : State} {tower : Tower} {target : BitVec 12} {s : State}
    (h : Keeps s0 s) :
    OutKeeps s0 (execRateLimiterTimer tower target s) := by
  unfold execRateLimiterTimer
  exact OutKeeps.next (limiterTimer_keeps h)

theorem helloTimeout_keeps {s0 : State} {port : Nat} {s : State} (h : Keeps s0 s) :
    Keeps s0 (helloTimeout port s) := by
  unfold helloTimeout
  extract_lets v1
  split
  · exact h
  · refine Keeps.ite (fun _ => ?_) (fun _ => ?_)
    · exact h
    · extract_lets v7 v8
      refine Keeps.mid (a := s0) v7 ?_ (fun h9 => ?_)
      · unfold v7
        exact advanceTo_keeps h
      clear_value v7
      exact Keeps.put h9 rfl rfl rfl rfl rfl

theorem execHelloTimeout_keeps {s0 : State} {port : Port} {s : State} (h : Keeps s0 s) :
    OutKeeps s0 (execHelloTimeout port s) := by
  unfold execHelloTimeout
  exact OutKeeps.next (helloTimeout_keeps h)

theorem tagSkipExpiry_keeps {s0 : State} {t : Nat} {e : Option Nat} {tag : BitVec 16} {s : State}
    (h : Keeps s0 s) :
    Keeps s0 (tagSkipExpiry t e tag s) := by
  unfold tagSkipExpiry
  extract_lets v1 v2 v3 v4
  refine Keeps.mid (a := s0) v3 ?_ (fun h5 => ?_)
  · unfold v3
    exact advanceTo_keeps h
  clear_value v3
  exact Keeps.ite (fun _ => h) (fun _ => Keeps.put h5 rfl rfl rfl rfl rfl)

theorem execTagSkipExpiry_keeps {s0 : State} {tower : Tower} {engine : Option EngineNo} {tag : BitVec 16}
    {s : State} (h : Keeps s0 s) :
    OutKeeps s0 (execTagSkipExpiry tower engine tag s) := by
  unfold execTagSkipExpiry
  exact OutKeeps.next (tagSkipExpiry_keeps h)

end Sys2Proof.Machine
end

