-- ==== Sys2Proof/Laws/KeepsFrame.lean ====
section
/-! SUPPORT. What the operations of Machine/Frame.lean keep: one lemma for each. -/

set_option Elab.async false

namespace Sys2Proof.Machine

theorem changeReceiver_keeps {s0 : State} {t : Nat} {f : Receiver → Receiver} {s : State} (h : Keeps s0 s) :
    Keeps s0 (changeReceiver t f s) := by
  unfold changeReceiver
  exact Keeps.put h rfl rfl rfl rfl rfl

theorem missTick_keeps {s0 : State} {t : Nat} {s : State} (h : Keeps s0 s) : Keeps s0 (missTick t s) := by
  unfold missTick
  extract_lets v1 v2 v3
  refine Keeps.mid (a := s0) v2 ?_ (fun h4 => ?_)
  · unfold v2
    exact raise_keeps (count32_keeps h)
  clear_value v2
  refine Keeps.mid (a := s0) v3 ?_ (fun h5 => ?_)
  · unfold v3
    exact changeReceiver_keeps h4
  clear_value v3
  refine Keeps.ite (fun _ => ?_) (fun _ => ?_)
  · exact changeReceiver_keeps h
  · exact Keeps.ite (fun _ => raise_keeps (changeReceiver_keeps h5)) (fun _ => h5)

theorem countTick_keeps {s0 : State} {t : Nat} {w : BitVec 128} {s : State} (h : Keeps s0 s) :
    Keeps s0 (countTick t w s) := by
  unfold countTick
  extract_lets v1 v2 v3 v4
  refine Keeps.mid (a := s0) v4 ?_ (fun h5 => ?_)
  · unfold v4
    exact changeReceiver_keeps h
  clear_value v4
  exact Keeps.ite (fun _ => raise_keeps (changeReceiver_keeps h5)) (fun _ => h5)

theorem takeTick_keeps {s0 : State} {t : Nat} {w : BitVec 128} {s : State} (h : Keeps s0 s) :
    Keeps s0 (takeTick t w s) := by
  unfold takeTick
  refine Keeps.ite (fun _ => ?_) (fun _ => ?_)
  · exact h
  · extract_lets v1
    refine Keeps.ite (fun _ => ?_) (fun _ => ?_)
    · exact missTick_keeps h
    · refine Keeps.ite (fun _ => ?_) (fun _ => ?_)
      · exact Keeps.ite (fun _ => changeReceiver_keeps h) (fun _ => missTick_keeps h)
      · exact countTick_keeps h

theorem execTickWordReceived_keeps {s0 : State} {tower : Tower} {word : BitVec 128} {s : State} (h : Keeps s0 s)
    :
    OutKeeps s0 (execTickWordReceived tower word s) := by
  unfold execTickWordReceived
  exact OutKeeps.next (takeTick_keeps h)

theorem execTickMissed_keeps {s0 : State} {tower : Tower} {s : State} (h : Keeps s0 s) :
    OutKeeps s0 (execTickMissed tower s) := by
  unfold execTickMissed
  exact OutKeeps.next (Keeps.ite (fun _ => h) (fun _ => missTick_keeps h))

theorem frameLengthAct_keeps {s0 : State} {a0 : Bytes} {a1 : State} (h : Keeps s0 a1) :
    WKeeps s0 (frameLengthAct a0 a1) := by
  unfold frameLengthAct
  extract_lets v1 v2 v3 v4
  split
  · exact .refuse
  · split
    · exact .refuse
    · split
      · exact WKeeps.done h
      · exact WKeeps.wait (Keeps.put h rfl rfl rfl rfl rfl)

theorem execFrameLengthWrite_keeps {s0 : State} {req : Req} {value : Bytes} {s : State} (h : Keeps s0 s) :
    OutKeeps s0 (execFrameLengthWrite req value s) := by
  unfold execFrameLengthWrite
  refine OutKeeps.next ?_
  refine serveWrite_keeps ?_ ?_
  · intro x1 s2 h3
    exact frameLengthAct_keeps h3
  · exact h

end Sys2Proof.Machine
end

