-- ==== Sys2Proof/Laws/KeepsLanes.lean ====
section
/-! SUPPORT. What the operations of Machine/Lanes.lean keep: one lemma for each. -/

set_option Elab.async false

namespace Sys2Proof.Machine

theorem pathService_keeps {s0 : State} {n : Nat} {up : Bool} {s : State} (h : Keeps s0 s) :
    Keeps s0 (pathService n up s) := by
  unfold pathService
  exact Keeps.ite (fun _ => changePath_keeps h) (fun _ => applyPathChange_keeps h)

theorem linkDown_keeps {s0 : State} {n : Nat} {s : State} (h : Keeps s0 s) : Keeps s0 (linkDown n s) := by
  unfold linkDown
  extract_lets v1 v2 v3 v4
  refine Keeps.mid (a := s0) v1 ?_ (fun h5 => ?_)
  · unfold v1
    exact h
  clear_value v1
  refine Keeps.mid (a := s0) v2 ?_ (fun h6 => ?_)
  · unfold v2
    exact raise_keeps h
  clear_value v2
  refine Keeps.mid (a := s0) v3 ?_ (fun h7 => ?_)
  · unfold v3
    exact changeLink_keeps h6
  clear_value v3
  refine Keeps.ite (fun _ => ?_) (fun _ => ?_)
  · exact portGone_keeps h5 h7
  · exact Keeps.ite (fun _ => Keeps.put h7 rfl rfl rfl rfl rfl) (fun _ => pathService_keeps h7)

theorem boardTaps_keeps {s0 : State} {n : Nat} {s : State} (h : Keeps s0 s) : Keeps s0 (boardTaps n s) := by
  unfold boardTaps
  extract_lets v1 v2 v3
  refine Keeps.mid (a := s0) v1 ?_ (fun h4 => ?_)
  · unfold v1
    exact changeTx_keeps h
  clear_value v1
  exact Keeps.put h4 rfl rfl rfl rfl rfl

theorem sendPattern_keeps {s0 : State} {n : Nat} {s : State} (h : Keeps s0 s) : Keeps s0 (sendPattern n s) := by
  unfold sendPattern
  exact changeTx_keeps h

theorem startTraining_keeps {s0 : State} {n : Nat} {s : State} (h : Keeps s0 s) :
    Keeps s0 (startTraining n s) := by
  unfold startTraining
  exact boardTaps_keeps (sendPattern_keeps (changeLink_keeps h))

theorem takeWidth_keeps {s0 : State} {n : Nat} {width : Nat} {s : State} (h : Keeps s0 s) :
    Keeps s0 (takeWidth n width s) := by
  unfold takeWidth
  extract_lets v1
  refine Keeps.mid (a := s0) v1 ?_ (fun h2 => ?_)
  · unfold v1
    exact changeRx_keeps h
  clear_value v1
  exact Keeps.ite (fun _ => changeLink_keeps h2) (fun _ => raise_keeps (changeLink_keeps h2))

theorem recover_keeps {s0 : State} {n : Nat} {s : State} (h : Keeps s0 s) : Keeps s0 (recover n s) := by
  unfold recover
  extract_lets v1 v2 v3 v4
  refine Keeps.mid (a := s0) v1 ?_ (fun h5 => ?_)
  · unfold v1
    exact raise_keeps (count32_keeps h)
  clear_value v1
  refine Keeps.mid (a := s0) v3 ?_ (fun h6 => ?_)
  · unfold v3
    exact changeLink_keeps h5
  clear_value v3
  refine Keeps.ite (fun _ => ?_) (fun _ => ?_)
  · exact linkDown_keeps h6
  · refine Keeps.ite (fun _ => ?_) (fun _ => ?_)
    · exact startTraining_keeps (Keeps.ite (fun _ => h6) (fun _ => takeWidth_keeps h6))
    · exact pathService_keeps (startTraining_keeps h6)

theorem lockLost_keeps {s0 : State} {n : Nat} {s : State} (h : Keeps s0 s) : Keeps s0 (lockLost n s) := by
  unfold lockLost
  exact Keeps.ite (fun _ => h) (fun _ => recover_keeps (raise_keeps h))

theorem declareLock_keeps {s0 : State} {n : Nat} {s : State} (h : Keeps s0 s) : Keeps s0 (declareLock n s) := by
  unfold declareLock
  extract_lets v1 v2 v3 v4
  refine Keeps.mid (a := s0) v1 ?_ (fun h5 => ?_)
  · unfold v1
    exact raise_keeps h
  clear_value v1
  refine Keeps.mid (a := s0) v2 ?_ (fun h6 => ?_)
  · unfold v2
    exact changeLink_keeps h5
  clear_value v2
  refine Keeps.mid (a := s0) v4 ?_ (fun h7 => ?_)
  · unfold v4
    split
    · exact h6
    · exact Keeps.ite (fun _ => Keeps.put h6 rfl rfl rfl rfl rfl) (fun _ => h6)
  clear_value v4
  refine Keeps.ite (fun _ => ?_) (fun _ => ?_)
  · exact beginStream_keeps h7
  · exact Keeps.ite (fun _ => h7) (fun _ => pathService_keeps h7)

theorem hearHeader_keeps {s0 : State} {n : Nat} {s : State} {h2 : BitVec 2} (h : Keeps s0 s) :
    Keeps s0 (hearHeader n s h2) := by
  unfold hearHeader
  refine Keeps.ite (fun _ => ?_) (fun _ => ?_)
  · extract_lets v1 v2
    refine Keeps.mid (a := s0) v2 ?_ (fun h3 => ?_)
    · unfold v2
      exact changeLink_keeps h
    clear_value v2
    exact Keeps.ite (fun _ => lockLost_keeps h3) (fun _ => h3)
  · refine Keeps.ite (fun _ => ?_) (fun _ => ?_)
    · exact h
    · extract_lets v4 v5
      refine Keeps.mid (a := s0) v5 ?_ (fun h6 => ?_)
      · unfold v5
        exact changeLink_keeps h
      clear_value v5
      exact Keeps.ite (fun _ => declareLock_keeps h6) (fun _ => h6)

theorem lockOn_keeps {s0 : State} {n : Nat} {s : State} (h : Keeps s0 s) : Keeps s0 (lockOn n s) := by
  unfold lockOn
  exact Keeps.fold h (fun _ _ h3 => hearHeader_keeps h3)

theorem linkBoundary_keeps {s0 : State} {n : Nat} {s : State} (h : Keeps s0 s) :
    Keeps s0 (linkBoundary n s) := by
  unfold linkBoundary
  extract_lets v1 v2 v3
  refine Keeps.mid (a := s0) v2 ?_ (fun h4 => ?_)
  · unfold v2
    split
    · exact h
    · exact Keeps.ite (fun _ => changeTx_keeps (putControl_keeps (changeTx_keeps h))) (fun _ => h)
  clear_value v2
  refine Keeps.mid (a := s0) v3 ?_ (fun h10 => ?_)
  · unfold v3
    exact changeTx_keeps h4
  clear_value v3
  split
  · exact h10
  · exact Keeps.ite (fun _ => h10) (fun _ => takeWidth_keeps h10)

theorem linksBoundary_keeps {s0 : State} {s : State} (h : Keeps s0 s) : Keeps s0 (linksBoundary s) := by
  unfold linksBoundary
  extract_lets v1
  exact Keeps.fold h (fun _ _ h4 => fillIdle_keeps (beginStream_keeps (linkBoundary_keeps h4)))

theorem narrowLink_keeps {s0 : State} {n : Nat} {s : State} (h : Keeps s0 s) : Keeps s0 (narrowLink n s) := by
  unfold narrowLink
  extract_lets v1 v2 v3 v4 v5
  refine Keeps.mid (a := s0) v5 ?_ (fun h6 => ?_)
  · unfold v5
    exact changeLink_keeps h
  clear_value v5
  refine Keeps.ite (fun _ => ?_) (fun _ => ?_)
  · exact linkDown_keeps h
  · refine Keeps.ite (fun _ => ?_) (fun _ => ?_)
    · exact Keeps.ite (fun _ => putControl_keeps h6) (fun _ => h6)
    · exact changeLink_keeps h

theorem laneFailing_keeps {s0 : State} {n : Nat} {lane : Nat} {spared : Bool} {s : State} (h : Keeps s0 s) :
    Keeps s0 (laneFailing n lane spared s) := by
  unfold laneFailing
  extract_lets v1 v2
  refine Keeps.mid (a := s0) v2 ?_ (fun h3 => ?_)
  · unfold v2
    exact raise_keeps (changeLink_keeps h)
  clear_value v2
  exact Keeps.ite (fun _ => h) (fun _ => Keeps.ite (fun _ => h3) (fun _ => narrowLink_keeps h3))

theorem linkTraining_keeps {s0 : State} {n : Nat} {failed : List Nat} {skews : List Int} {s : State}
    (h : Keeps s0 s) :
    Keeps s0 (linkTraining n failed skews s) := by
  unfold linkTraining
  refine Keeps.ite (fun _ => ?_) (fun _ => ?_)
  · exact h
  · extract_lets v1 v2 v3
    refine Keeps.mid (a := s0) v1 ?_ (fun h4 => ?_)
    · unfold v1
      exact changeRx_keeps (startTraining_keeps h)
    clear_value v1
    exact Keeps.fold h4 (fun _ _ h7 => laneFailing_keeps h7)

theorem execLinkTraining_keeps {s0 : State} {link : Fin 9} {failedLanes : List Nat} {skews : List Int}
    {s : State} (h : Keeps s0 s) :
    OutKeeps s0 (execLinkTraining link failedLanes skews s) := by
  unfold execLinkTraining
  exact OutKeeps.next (linkTraining_keeps h)

theorem trainingTimeout_keeps {s0 : State} {n : Nat} {s : State} (h : Keeps s0 s) :
    Keeps s0 (trainingTimeout n s) := by
  unfold trainingTimeout
  extract_lets v1 v2
  refine Keeps.mid (a := s0) v2 ?_ (fun h3 => ?_)
  · unfold v2
    exact advanceTo_keeps h
  clear_value v2
  refine Keeps.ite (fun _ => ?_) (fun _ => ?_)
  · exact h
  · exact Keeps.ite (fun _ => linkDown_keeps h3) (fun _ => sendPattern_keeps (changeLink_keeps h3))

theorem execTrainingTimeout_keeps {s0 : State} {link : Fin 9} {s : State} (h : Keeps s0 s) :
    OutKeeps s0 (execTrainingTimeout link s) := by
  unfold execTrainingTimeout
  exact OutKeeps.next (trainingTimeout_keeps h)

theorem linkLock_keeps {s0 : State} {n : Nat} {headers : List (BitVec 2)} {s : State} (h : Keeps s0 s) :
    Keeps s0 (linkLock n headers s) := by
  unfold linkLock
  exact Keeps.fold h (fun _ _ h3 => hearHeader_keeps h3)

theorem execLinkLock_keeps {s0 : State} {link : BitVec 16} {headers : List (BitVec 2)} {s : State}
    (h : Keeps s0 s) :
    OutKeeps s0 (execLinkLock link headers s) := by
  unfold execLinkLock
  exact OutKeeps.next (linkLock_keeps h)

theorem execLinkLockLost_keeps {s0 : State} {link : BitVec 16} {headers : List (BitVec 2)} {s : State}
    (h : Keeps s0 s) :
    OutKeeps s0 (execLinkLockLost link headers s) := by
  unfold execLinkLockLost
  exact OutKeeps.next (Keeps.fold h (fun _ _ h3 => hearHeader_keeps h3))

theorem hearFlit_keeps {s0 : State} {n : Nat} {f : Bytes} {s : State} (h : Keeps s0 s) :
    Keeps s0 (hearFlit n f s) := by
  unfold hearFlit
  refine Keeps.ite (fun _ => ?_) (fun _ => ?_)
  · exact h
  · extract_lets v1
    exact changeRx_keeps (Keeps.fold h (fun _ _ h4 => hearHeader_keeps h4))

theorem escalate_keeps {s0 : State} {n : Nat} {q : Nat} {s : State} (h : Keeps s0 s) :
    Keeps s0 (escalate n q s) := by
  unfold escalate
  exact recover_keeps (raise_keeps h)

theorem retryFlit_keeps {s0 : State} {n : Nat} {q : Nat} {s : State} (h : Keeps s0 s) :
    Keeps s0 (retryFlit n q s) := by
  unfold retryFlit
  refine Keeps.ite (fun _ => ?_) (fun _ => ?_)
  · exact h
  · refine Keeps.ite (fun _ => ?_) (fun _ => ?_)
    · extract_lets v1
      refine Keeps.mid (a := s0) v1 ?_ (fun h2 => ?_)
      · unfold v1
        exact retransmit_keeps h
      clear_value v1
      exact Keeps.ite (fun _ => escalate_keeps h2) (fun _ => h2)
    · exact Keeps.ite (fun _ => escalate_keeps h) (fun _ => retransmit_keeps h)

theorem takeAck_keeps {s0 : State} {n : Nat} {f : Bytes} {s : State} (h : Keeps s0 s) :
    Keeps s0 (takeAck n f s) := by
  unfold takeAck
  extract_lets v1
  refine Keeps.mid (a := s0) v1 ?_ (fun h2 => ?_)
  · unfold v1
    exact Keeps.ite (fun _ => ackTx_keeps h) (fun _ => h)
  clear_value v1
  refine Keeps.ite (fun _ => ?_) (fun _ => ?_)
  · exact Keeps.ite (fun _ => h2) (fun _ => retryFlit_keeps (changeTx_keeps h2))
  · exact changeTx_keeps h2

theorem tagFailed_keeps {s0 : State} {n : Nat} {seq : Nat} {s : State} (h : Keeps s0 s) :
    Keeps s0 (tagFailed n seq s) := by
  unfold tagFailed
  extract_lets v1 v2 v3 v4 v5 v6
  refine Keeps.mid (a := s0) v2 ?_ (fun h7 => ?_)
  · unfold v2
    exact raise_keeps (count32_keeps h)
  clear_value v2
  refine Keeps.mid (a := s0) v6 ?_ (fun h8 => ?_)
  · unfold v6
    exact changeRx_keeps (Keeps.put h7 rfl rfl rfl rfl rfl)
  clear_value v6
  exact Keeps.ite (fun _ => linkDown_keeps h8) (fun _ => h8)

theorem dataFlit_keeps {s0 : State} {n : Nat} {f : Bytes} {opened : Option Bytes} {s : State} (h : Keeps s0 s) :
    Keeps s0 (dataFlit n f opened s) := by
  unfold dataFlit
  extract_lets v1 v2 v3 v4 v5 v6 v7
  refine Keeps.mid (a := s0) v1 ?_ (fun h8 => ?_)
  · unfold v1
    exact hearFlit_keeps h
  clear_value v1
  refine Keeps.mid (a := s0) v2 ?_ (fun h9 => ?_)
  · unfold v2
    exact takeAck_keeps h8
  clear_value v2
  refine Keeps.mid (a := s0) v5 ?_ (fun h10 => ?_)
  · unfold v5
    exact switchKey_keeps h9
  clear_value v5
  refine Keeps.mid (a := s0) v7 ?_ (fun h11 => ?_)
  · unfold v7
    exact Keeps.ite (fun _ => Keeps.put h10 rfl rfl rfl rfl rfl) (fun _ => h9)
  clear_value v7
  refine Keeps.ite (fun _ => ?_) (fun _ => ?_)
  · exact h8
  · refine Keeps.ite (fun _ => ?_) (fun _ => ?_)
    · exact fillIdle_keeps (rxBad_keeps h8)
    · refine Keeps.ite (fun _ => ?_) (fun _ => ?_)
      · exact h8
      · refine Keeps.ite (fun _ => ?_) (fun _ => ?_)
        · exact tagFailed_keeps h9
        · split
          · rename_i y15
            refine Keeps.ofPair1 (a := s0) y15 ?_ (fun h16 => ?_)
            · exact rxTake_keeps h11
            extract_lets v17 v18
            refine Keeps.mid (a := s0) v18 ?_ (fun h19 => ?_)
            · unfold v18
              exact Keeps.put h16 rfl rfl rfl rfl rfl
            clear_value v18
            exact fillIdle_keeps h19

theorem execDataFlit_keeps {s0 : State} {link : Fin 9} {flit : Bytes} {opened : Option Bytes} {s : State}
    (h : Keeps s0 s) :
    OutKeeps s0 (execDataFlit link flit opened s) := by
  unfold execDataFlit
  exact OutKeeps.next (dataFlit_keeps h)

theorem nullFlit_keeps {s0 : State} {n : Nat} {f : Bytes} {s : State} (h : Keeps s0 s) :
    Keeps s0 (nullFlit n f s) := by
  unfold nullFlit
  refine Keeps.ite (fun _ => ?_) (fun _ => ?_)
  · exact Keeps.put h rfl rfl rfl rfl rfl
  · extract_lets v1
    refine Keeps.mid (a := s0) v1 ?_ (fun h2 => ?_)
    · unfold v1
      exact hearFlit_keeps h
    clear_value v1
    refine Keeps.ite (fun _ => ?_) (fun _ => ?_)
    · exact h2
    · refine Keeps.ite (fun _ => ?_) (fun _ => ?_)
      · exact fillIdle_keeps (rxBad_keeps h2)
      · exact Keeps.ite (fun _ => h2) (fun _ => takeAck_keeps h2)

theorem execNullFlit_keeps {s0 : State} {link : BitVec 16} {flit : Bytes} {s : State} (h : Keeps s0 s) :
    OutKeeps s0 (execNullFlit link flit s) := by
  unfold execNullFlit
  exact OutKeeps.next (nullFlit_keeps h)

theorem takeControl_keeps {s0 : State} {n : Nat} {code : Nat} {f : Bytes} {g : State → State} {s : State}
    (h_g : ∀ (z0 : State), Keeps s0 z0 → Keeps s0 (g z0)) (h : Keeps s0 s) :
    Keeps s0 (takeControl n code f g s) := by
  unfold takeControl
  extract_lets v1
  refine Keeps.mid (a := s0) v1 ?_ (fun h2 => ?_)
  · unfold v1
    exact hearFlit_keeps h
  clear_value v1
  refine Keeps.ite (fun _ => ?_) (fun _ => ?_)
  · exact h2
  · refine Keeps.ite (fun _ => ?_) (fun _ => ?_)
    · exact fillIdle_keeps (rxBad_keeps h2)
    · exact Keeps.ite (fun _ => h2) (fun _ => h_g _ (takeAck_keeps h2))

theorem startData_keeps {s0 : State} {n : Nat} {expected : Nat} {s : State} (h : Keeps s0 s) :
    Keeps s0 (startData n expected s) := by
  unfold startData
  extract_lets v1 v2 v3 v4 v5 v6 v7
  refine Keeps.mid (a := s0) v1 ?_ (fun h8 => ?_)
  · unfold v1
    exact h
  clear_value v1
  refine Keeps.mid (a := s0) v2 ?_ (fun h9 => ?_)
  · unfold v2
    exact Keeps.ite (fun _ => beginStream_keeps (advanceTo_keeps h)) (fun _ => h)
  clear_value v2
  refine Keeps.mid (a := s0) v3 ?_ (fun h10 => ?_)
  · unfold v3
    exact changeLink_keeps h9
  clear_value v3
  refine Keeps.mid (a := s0) v4 ?_ (fun h11 => ?_)
  · unfold v4
    exact Keeps.ite (fun _ => settleRoutes_keeps h8 h10) (fun _ => h10)
  clear_value v4
  refine Keeps.mid (a := s0) v5 ?_ (fun h12 => ?_)
  · unfold v5
    exact changeTx_keeps (ackTx_keeps h11)
  clear_value v5
  refine Keeps.mid (a := s0) v6 ?_ (fun h13 => ?_)
  · unfold v6
    exact Keeps.fold h12 (fun _ _ h16 => putFlit_keeps h16)
  clear_value v6
  refine Keeps.mid (a := s0) v7 ?_ (fun h17 => ?_)
  · unfold v7
    exact pumpTx_keeps h13
  clear_value v7
  exact Keeps.ite (fun _ => pumpPort_keeps h17) (fun _ => h17)

theorem linkInfo_keeps {s0 : State} {n : Nat} {f : Bytes} {s : State} (h : Keeps s0 s) :
    Keeps s0 (linkInfo n f s) := by
  unfold linkInfo
  refine takeControl_keeps ?_ ?_
  · intro s1 h2
    extract_lets v3
    refine Keeps.mid (a := s0) v3 ?_ (fun h4 => ?_)
    · unfold v3
      exact Keeps.ite (fun _ => changeLink_keeps h2) (fun _ => startData_keeps h2)
    clear_value v3
    exact fillIdle_keeps (changeTx_keeps h4)
  · exact h

theorem execLinkInfo_keeps {s0 : State} {link : Fin 9} {flit : Bytes} {s : State} (h : Keeps s0 s) :
    OutKeeps s0 (execLinkInfo link flit s) := by
  unfold execLinkInfo
  exact OutKeeps.next (linkInfo_keeps h)

theorem takeStep_keeps {s0 : State} {n : Nat} {lane : Nat} {step : Nat} {s : State} (h : Keeps s0 s) :
    Keeps s0 (takeStep n lane step s) := by
  unfold takeStep
  extract_lets v1
  exact Keeps.ite (fun _ => h) (fun _ => changeTx_keeps h)

theorem tapRequest_keeps {s0 : State} {n : Nat} {ask : TapAsk} {s : State} (h : Keeps s0 s) :
    Keeps s0 (tapRequest n ask s) := by
  unfold tapRequest
  split
  · refine Keeps.ite (fun _ => ?_) (fun _ => ?_)
    · refine takeControl_keeps ?_ ?_
      · intro s3 h4
        exact takeStep_keeps h4
      · exact h
    · exact h
  · exact Keeps.ite (fun _ => h) (fun _ => takeStep_keeps (Keeps.put h rfl rfl rfl rfl rfl))

theorem execTapRequest_keeps {s0 : State} {link : BitVec 16} {ask : TapAsk} {s : State} (h : Keeps s0 s) :
    OutKeeps s0 (execTapRequest link ask s) := by
  unfold execTapRequest
  exact OutKeeps.next (tapRequest_keeps h)

theorem narrowNow_keeps {s0 : State} {n : Nat} {f : Bytes} {s : State} (h : Keeps s0 s) :
    Keeps s0 (narrowNow n f s) := by
  unfold narrowNow
  refine takeControl_keeps ?_ ?_
  · intro s1 h2
    exact Keeps.ite (fun _ => h2) (fun _ => takeWidth_keeps h2)
  · exact h

theorem execNarrowNow_keeps {s0 : State} {link : Fin 9} {flit : Bytes} {s : State} (h : Keeps s0 s) :
    OutKeeps s0 (execNarrowNow link flit s) := by
  unfold execNarrowNow
  exact OutKeeps.next (narrowNow_keeps h)

theorem loopbackReq_keeps {s0 : State} {n : Nat} {f : Bytes} {s : State} (h : Keeps s0 s) :
    Keeps s0 (loopbackReq n f s) := by
  unfold loopbackReq
  exact Keeps.ite (fun _ => count64_keeps h) (fun _ => Keeps.ite (fun _ => h) (fun _ => changeLink_keeps h))

theorem execLoopbackReq_keeps {s0 : State} {link : Fin 9} {flit : Bytes} {s : State} (h : Keeps s0 s) :
    OutKeeps s0 (execLoopbackReq link flit s) := by
  unfold execLoopbackReq
  exact OutKeeps.next (loopbackReq_keeps h)

theorem ackWord_keeps {s0 : State} {t : Nat} {w : BitVec 64} {s : State} (h : Keeps s0 s) :
    Keeps s0 (ackWord t w s) := by
  unfold ackWord
  extract_lets v1 v2 v3 v4 v5 v6 v7
  refine Keeps.mid (a := s0) v3 ?_ (fun h8 => ?_)
  · unfold v3
    exact Keeps.put h rfl rfl rfl rfl rfl
  clear_value v3
  refine Keeps.mid (a := s0) v6 ?_ (fun h9 => ?_)
  · unfold v6
    exact ackTx_keeps h8
  clear_value v6
  refine Keeps.ite (fun _ => ?_) (fun _ => ?_)
  · exact h8
  · refine Keeps.ite (fun _ => ?_) (fun _ => ?_)
    · exact Keeps.ite (fun _ => h9) (fun _ => retryFlit_keeps (changeTx_keeps h9))
    · exact changeTx_keeps h9

theorem execAckWord_keeps {s0 : State} {tower : Tower} {word : BitVec 64} {s : State} (h : Keeps s0 s) :
    OutKeeps s0 (execAckWord tower word s) := by
  unfold execAckWord
  exact OutKeeps.next (ackWord_keeps h)

theorem nakRetransmit_keeps {s0 : State} {n : Nat} {s : State} (h : Keeps s0 s) :
    Keeps s0 (nakRetransmit n s) := by
  unfold nakRetransmit
  extract_lets v1 v2
  refine Keeps.mid (a := s0) v2 ?_ (fun h3 => ?_)
  · unfold v2
    exact advanceTo_keeps h
  clear_value v2
  split
  · exact h
  · exact retryFlit_keeps (changeTx_keeps h3)

theorem execNakRetransmit_keeps {s0 : State} {link : Fin 9} {s : State} (h : Keeps s0 s) :
    OutKeeps s0 (execNakRetransmit link s) := by
  unfold execNakRetransmit
  exact OutKeeps.next (nakRetransmit_keeps h)

theorem replayTimer_keeps {s0 : State} {n : Nat} {s : State} (h : Keeps s0 s) : Keeps s0 (replayTimer n s) := by
  unfold replayTimer
  split
  · exact h
  · extract_lets v7 v8
    refine Keeps.mid (a := s0) v7 ?_ (fun h9 => ?_)
    · unfold v7
      exact advanceTo_keeps h
    clear_value v7
    refine Keeps.mid (a := s0) v8 ?_ (fun h10 => ?_)
    · unfold v8
      exact changeTx_keeps h9
    clear_value v8
    exact retryFlit_keeps h10

theorem execReplayTimer_keeps {s0 : State} {link : BitVec 16} {s : State} (h : Keeps s0 s) :
    OutKeeps s0 (execReplayTimer link s) := by
  unfold execReplayTimer
  exact OutKeeps.next (replayTimer_keeps h)

theorem askStep_keeps {s0 : State} {n : Nat} {lane : Nat} {s : State} (h : Keeps s0 s) :
    Keeps s0 (askStep n lane s) := by
  unfold askStep
  split
  · rename_i y4
    refine Keeps.ofPair1 (a := s0) y4 ?_ (fun h5 => ?_)
    · exact draw_keeps h
    extract_lets v6 v7 v8 v9 v10 v11 v12 v13 v14
    refine Keeps.mid (a := s0) v11 ?_ (fun h15 => ?_)
    · unfold v11
      exact raiseIf_keeps h5
    clear_value v11
    refine Keeps.mid (a := s0) v13 ?_ (fun h16 => ?_)
    · unfold v13
      exact Keeps.put h15 rfl rfl rfl rfl rfl
    clear_value v13
    refine Keeps.ite (fun _ => ?_) (fun _ => ?_)
    · exact h5
    · exact Keeps.ite (fun _ => putControl_keeps h16) (fun _ => Keeps.put h16 rfl rfl rfl rfl rfl)

theorem laneEstimate_keeps {s0 : State} {n : Nat} {lane : Nat} {est : Nat} {spared : Bool} {s : State}
    (h : Keeps s0 s) :
    Keeps s0 (laneEstimate n lane est spared s) := by
  unfold laneEstimate
  extract_lets v1 v2 v3 v4 v5 v6 v7 v8
  refine Keeps.mid (a := s0) v6 ?_ (fun h9 => ?_)
  · unfold v6
    exact Keeps.put h rfl rfl rfl rfl rfl
  clear_value v6
  refine Keeps.mid (a := s0) v7 ?_ (fun h10 => ?_)
  · unfold v7
    exact Keeps.ite (fun _ => laneFailing_keeps h9) (fun _ => h9)
  clear_value v7
  exact Keeps.ite (fun _ => askStep_keeps h10) (fun _ => h10)

theorem eyeEstimate_keeps {s0 : State} {n : Nat} {ests : List Nat} {spared : List Nat} {s : State}
    (h : Keeps s0 s) :
    Keeps s0 (eyeEstimate n ests spared s) := by
  unfold eyeEstimate
  exact Keeps.ite (fun _ => h) (fun _ => Keeps.fold h (fun _ _ h3 => laneEstimate_keeps h3))

theorem execEyeEstimate_keeps {s0 : State} {link : BitVec 16} {estimates : List Nat} {spared : List Nat}
    {s : State} (h : Keeps s0 s) :
    OutKeeps s0 (execEyeEstimate link estimates spared s) := by
  unfold execEyeEstimate
  exact OutKeeps.next (eyeEstimate_keeps h)

theorem execLossOfSignal_keeps {s0 : State} {link : BitVec 16} {lane : BitVec 6} {spared : Bool} {s : State}
    (h : Keeps s0 s) :
    OutKeeps s0 (execLossOfSignal link lane spared s) := by
  unfold execLossOfSignal
  exact OutKeeps.next (Keeps.ite (fun _ => laneFailing_keeps h) (fun _ => h))

theorem execLossOfClockRecovery_keeps {s0 : State} {link : BitVec 16} {lane : BitVec 6} {spared : Bool}
    {s : State} (h : Keeps s0 s) :
    OutKeeps s0 (execLossOfClockRecovery link lane spared s) := by
  unfold execLossOfClockRecovery
  exact OutKeeps.next (Keeps.ite (fun _ => laneFailing_keeps h) (fun _ => h))

theorem eyeScanAct_keeps {s0 : State} {a0 : Bytes} {a1 : State} (h : Keeps s0 a1) :
    WKeeps s0 (eyeScanAct a0 a1) := by
  unfold eyeScanAct
  extract_lets v1 v2
  split
  · exact .refuse
  · exact WKeeps.done (Keeps.put h rfl rfl rfl rfl rfl)

theorem execEyeScan_keeps {s0 : State} {req : Req} {value : Bytes} {s : State} (h : Keeps s0 s) :
    OutKeeps s0 (execEyeScan req value s) := by
  unfold execEyeScan
  refine OutKeeps.next ?_
  refine serveWrite_keeps ?_ ?_
  · intro x1 s2 h3
    exact eyeScanAct_keeps h3
  · exact h

theorem eyeScanDone_keeps {s0 : State} {margins : List (List Nat)} {s : State} (h : Keeps s0 s) :
    Keeps s0 (eyeScanDone margins s) := by
  unfold eyeScanDone
  split
  · exact h
  · refine Keeps.ite (fun _ => ?_) (fun _ => ?_)
    · exact h
    · extract_lets v6 v7 v8
      refine Keeps.mid (a := s0) v6 ?_ (fun h9 => ?_)
      · unfold v6
        exact advanceTo_keeps h
      clear_value v6
      exact Keeps.put h9 rfl rfl rfl rfl rfl

theorem execEyeScanDone_keeps {s0 : State} {margins : List (List Nat)} {s : State} (h : Keeps s0 s) :
    OutKeeps s0 (execEyeScanDone margins s) := by
  unfold execEyeScanDone
  exact OutKeeps.next (eyeScanDone_keeps h)

theorem endLoop_keeps {s0 : State} {n : Nat} {s : State} (h : Keeps s0 s) : Keeps s0 (endLoop n s) := by
  unfold endLoop
  extract_lets v1 v2 v3
  refine Keeps.mid (a := s0) v2 ?_ (fun h4 => ?_)
  · unfold v2
    exact Keeps.ite (fun _ => guideUp_keeps (guideUp_keeps h)) (fun _ => h)
  clear_value v2
  refine Keeps.mid (a := s0) v3 ?_ (fun h5 => ?_)
  · unfold v3
    exact Keeps.ite (fun _ => putControl_keeps h4) (fun _ => h4)
  clear_value v3
  exact changeLink_keeps h5

theorem fa8Light_keeps {s0 : State} {light : Option Bool} {s : State} (h : Keeps s0 s) :
    Keeps s0 (fa8Light light s).2 := by
  unfold fa8Light
  split
  · dsimp only
    exact h
  · split
    · rename_i y7
      refine Keeps.ofPair1 (a := s0) y7 ?_ (fun h8 => ?_)
      · exact draw_keeps h
      dsimp only
      exact h8

theorem putLoopNull_keeps {s0 : State} {n : Nat} {s : State} (h : Keeps s0 s) : Keeps s0 (putLoopNull n s) := by
  unfold putLoopNull
  exact putFlit_keeps h

theorem beginLoop_keeps {s0 : State} {n : Nat} {code : Nat} {s : State} (h : Keeps s0 s) :
    Keeps s0 (beginLoop n code s) := by
  unfold beginLoop
  extract_lets v1 v2 v3 v4
  refine Keeps.mid (a := s0) v1 ?_ (fun h5 => ?_)
  · unfold v1
    exact changeLink_keeps h
  clear_value v1
  refine Keeps.mid (a := s0) v3 ?_ (fun h6 => ?_)
  · unfold v3
    exact Keeps.put h5 rfl rfl rfl rfl rfl
  clear_value v3
  refine Keeps.mid (a := s0) v4 ?_ (fun h7 => ?_)
  · unfold v4
    exact putLoopNull_keeps h6
  clear_value v4
  refine Keeps.ite (fun _ => ?_) (fun _ => ?_)
  · exact guideDown_keeps (guideDown_keeps h7)
  · exact Keeps.ite (fun _ => putControl_keeps h7) (fun _ => h7)

theorem loopbackAct_keeps {s0 : State} {light : Option Bool} {a1 : Bytes} {a2 : State} (h : Keeps s0 a2) :
    WKeeps s0 (loopbackAct light a1 a2) := by
  unfold loopbackAct
  extract_lets v1 v2 v3
  split
  · exact .refuse
  · split
    · exact .refuse
    · split
      · split
        · exact .refuse
        · exact WKeeps.done (endLoop_keeps h)
      · split
        · exact .refuse
        · split
          · exact .refuse
          · split
            · split
              · exact .refuse
              · split
                · rename_i y22
                  refine Keeps.ofPair1 (a := s0) y22 ?_ (fun h23 => ?_)
                  · exact fa8Light_keeps h
                  split
                  · exact WKeeps.done (beginLoop_keeps h23)
                  · exact .refuse
            · exact WKeeps.done (beginLoop_keeps h)

theorem loopRow_keeps {s0 : State} {code : Nat} {light : Option Bool} {req : Req} {value : Bytes} {s : State}
    (h : Keeps s0 s) :
    Keeps s0 (loopRow code light req value s) := by
  unfold loopRow
  refine Keeps.ite (fun _ => ?_) (fun _ => ?_)
  · refine serveWrite_keeps ?_ ?_
    · intro x1 s2 h3
      exact loopbackAct_keeps h3
    · exact h
  · exact h

theorem execLoopbackEnd_keeps {s0 : State} {req : Req} {value : Bytes} {s : State} (h : Keeps s0 s) :
    OutKeeps s0 (execLoopbackEnd req value s) := by
  unfold execLoopbackEnd
  exact OutKeeps.next (loopRow_keeps h)

theorem execLoopbackNearParallel_keeps {s0 : State} {req : Req} {value : Bytes} {s : State} (h : Keeps s0 s) :
    OutKeeps s0 (execLoopbackNearParallel req value s) := by
  unfold execLoopbackNearParallel
  exact OutKeeps.next (loopRow_keeps h)

theorem execLoopbackNearSerial_keeps {s0 : State} {req : Req} {value : Bytes} {light : Bool} {s : State}
    (h : Keeps s0 s) :
    OutKeeps s0 (execLoopbackNearSerial req value light s) := by
  unfold execLoopbackNearSerial
  exact OutKeeps.next (loopRow_keeps h)

theorem execLoopbackFarEnd_keeps {s0 : State} {req : Req} {value : Bytes} {s : State} (h : Keeps s0 s) :
    OutKeeps s0 (execLoopbackFarEnd req value s) := by
  unfold execLoopbackFarEnd
  exact OutKeeps.next (loopRow_keeps h)

theorem retrainLink_keeps {s0 : State} {n : Nat} {s : State} (h : Keeps s0 s) : Keeps s0 (retrainLink n s) := by
  unfold retrainLink
  extract_lets v1 v2 v3
  refine Keeps.mid (a := s0) v1 ?_ (fun h4 => ?_)
  · unfold v1
    exact raise_keeps (count32_keeps h)
  clear_value v1
  refine Keeps.mid (a := s0) v2 ?_ (fun h5 => ?_)
  · unfold v2
    exact changeLink_keeps h4
  clear_value v2
  refine Keeps.mid (a := s0) v3 ?_ (fun h6 => ?_)
  · unfold v3
    exact startTraining_keeps h5
  clear_value v3
  exact Keeps.ite (fun _ => h6) (fun _ => pathService_keeps h6)

theorem linkControlAct_keeps {s0 : State} {a0 : Bytes} {a1 : State} (h : Keeps s0 a1) :
    WKeeps s0 (linkControlAct a0 a1) := by
  unfold linkControlAct
  extract_lets v1 v2 v3 v4 v5
  refine Keeps.mid (a := s0) v3 ?_ (fun h6 => ?_)
  · unfold v3
    exact changeLink_keeps h
  clear_value v3
  refine Keeps.mid (a := s0) v4 ?_ (fun h7 => ?_)
  · unfold v4
    exact endLoop_keeps h
  clear_value v4
  refine Keeps.mid (a := s0) v5 ?_ (fun h8 => ?_)
  · unfold v5
    exact changeLink_keeps h7
  clear_value v5
  split
  · exact .refuse
  · split
    · exact .refuse
    · split
      · exact WKeeps.done (retrainLink_keeps h)
      · exact WKeeps.done (Keeps.ite (fun _ => h6) (fun _ => linkDown_keeps h6))
      · exact WKeeps.done (startTraining_keeps h8)

theorem controlRow_keeps {s0 : State} {code : Nat} {req : Req} {value : Bytes} {s : State} (h : Keeps s0 s) :
    Keeps s0 (controlRow code req value s) := by
  unfold controlRow
  refine Keeps.ite (fun _ => ?_) (fun _ => ?_)
  · refine serveWrite_keeps ?_ ?_
    · intro x1 s2 h3
      exact linkControlAct_keeps h3
    · exact h
  · exact h

theorem execLinkRetrain_keeps {s0 : State} {req : Req} {value : Bytes} {s : State} (h : Keeps s0 s) :
    OutKeeps s0 (execLinkRetrain req value s) := by
  unfold execLinkRetrain
  exact OutKeeps.next (controlRow_keeps h)

theorem execLinkTakeOutOfService_keeps {s0 : State} {req : Req} {value : Bytes} {s : State} (h : Keeps s0 s) :
    OutKeeps s0 (execLinkTakeOutOfService req value s) := by
  unfold execLinkTakeOutOfService
  exact OutKeeps.next (controlRow_keeps h)

theorem execLinkReturnToService_keeps {s0 : State} {req : Req} {value : Bytes} {s : State} (h : Keeps s0 s) :
    OutKeeps s0 (execLinkReturnToService req value s) := by
  unfold execLinkReturnToService
  exact OutKeeps.next (controlRow_keeps h)

theorem linkInfoTimer_keeps {s0 : State} {n : Nat} {s : State} (h : Keeps s0 s) :
    Keeps s0 (linkInfoTimer n s) := by
  unfold linkInfoTimer
  extract_lets v1 v2
  refine Keeps.mid (a := s0) v2 ?_ (fun h3 => ?_)
  · unfold v2
    exact beginStream_keeps (advanceTo_keeps h)
  clear_value v2
  exact Keeps.ite (fun _ => h) (fun _ => putControl_keeps (changeLink_keeps h3))

theorem execLinkInfoTimer_keeps {s0 : State} {link : Fin 9} {s : State} (h : Keeps s0 s) :
    OutKeeps s0 (execLinkInfoTimer link s) := by
  unfold execLinkInfoTimer
  exact OutKeeps.next (linkInfoTimer_keeps h)

end Sys2Proof.Machine
end

