-- ==== Sys2Proof/Laws/KeepsLasers.lean ====
section
/-! SUPPORT. What the operations of Machine/Lasers.lean keep: one lemma for each. -/

set_option Elab.async false

namespace Sys2Proof.Machine

theorem applyCarrier_keeps {s0 : State} {c : Carrier} {s : State} (h : Keeps s0 s) :
    Keeps s0 (applyCarrier c s) := by
  unfold applyCarrier
  extract_lets v1 v2
  exact Keeps.put h rfl rfl rfl rfl rfl

theorem dropParked_keeps {s0 : State} {p : Parked} {s : State} (h : Keeps s0 s) :
    Keeps s0 (dropParked p s) := by
  unfold dropParked
  extract_lets v1 v2
  refine Keeps.mid (a := s0) v2 ?_ (fun h3 => ?_)
  · unfold v2
    exact Keeps.put h rfl rfl rfl rfl rfl
  clear_value v2
  exact Keeps.ite (fun _ => h3) (fun _ => setSource_keeps h3)

theorem sendMark_keeps {s0 : State} {dark : Bool} {back : Bool} {f : Nat} {gs : List Nat} {lane : Nat} {j : Nat}
    {s : State} (h : Keeps s0 s) :
    Keeps s0 (sendMark dark back f gs lane j s) := by
  unfold sendMark
  exact Keeps.ite (fun _ => h) (fun _ => Keeps.put h rfl rfl rfl rfl rfl)

theorem setCarrier_keeps {s0 : State} {f : Nat} {gs : List Nat} {k : Nat} {v : Nat} {s : State} (h : Keeps s0 s)
    :
    Keeps s0 (setCarrier f gs k v s) := by
  unfold setCarrier
  exact Keeps.put h rfl rfl rfl rfl rfl

theorem parkedBoundary_keeps {s0 : State} {p : Parked} {s : State} (h : Keeps s0 s) :
    Keeps s0 (parkedBoundary p s) := by
  unfold parkedBoundary
  extract_lets v1
  refine Keeps.ite (fun _ => ?_) (fun _ => ?_)
  · exact dropParked_keeps (sendMark_keeps (setCarrier_keeps h))
  · exact Keeps.ite (fun _ => setCarrier_keeps h) (fun _ => h)

theorem sendCarrier_keeps {s0 : State} {f : Nat} {action : Nat} {lane : Nat} {j : Nat} {frame : Nat}
    {mask : Nat} {s : State} (h : Keeps s0 s) :
    Keeps s0 (sendCarrier f action lane j frame mask s) := by
  unfold sendCarrier
  refine Keeps.ite (fun _ => ?_) (fun _ => ?_)
  · extract_lets v1 v2 v3
    exact Keeps.fold (Keeps.put h rfl rfl rfl rfl rfl) (fun _ _ h6 => sendMesh_keeps h6)
  · exact h

theorem dropSparing_keeps {s0 : State} {f : Nat} {k : Nat} {s : State} (h : Keeps s0 s) :
    Keeps s0 (dropSparing f k s) := by
  unfold dropSparing
  exact Keeps.put h rfl rfl rfl rfl rfl

theorem abandonPass_keeps {s0 : State} {p : Pass} {s : State} (h : Keeps s0 s) :
    Keeps s0 (abandonPass p s) := by
  unfold abandonPass
  extract_lets v1 v2 v3
  refine Keeps.mid (a := s0) v2 ?_ (fun h4 => ?_)
  · unfold v2
    exact sendMark_keeps (sendCarrier_keeps h)
  clear_value v2
  exact Keeps.put h4 rfl rfl rfl rfl rfl

theorem reclaimRecal_keeps {s0 : State} {f : Nat} {j : Nat} {s : State} (h : Keeps s0 s) :
    Keeps s0 (reclaimRecal f j s) := by
  unfold reclaimRecal
  split
  · exact h
  · exact abandonPass_keeps h

theorem noSpare_keeps {s0 : State} {f : Nat} {g : Nat} {k : Nat} {s : State} (h : Keeps s0 s) :
    Keeps s0 (noSpare f g k s) := by
  unfold noSpare
  extract_lets v1 v2
  refine Keeps.mid (a := s0) v2 ?_ (fun h3 => ?_)
  · unfold v2
    exact Keeps.put h rfl rfl rfl rfl rfl
  clear_value v2
  exact Keeps.ite (fun _ => guideDown_keeps h3) (fun _ => h3)

theorem reclaimParking_keeps {s0 : State} {f : Nat} {j : Nat} {s : State} (h : Keeps s0 s) :
    Keeps s0 (reclaimParking f j s) := by
  unfold reclaimParking
  extract_lets v1 v2 v3
  refine Keeps.mid (a := s0) v3 ?_ (fun h4 => ?_)
  · unfold v3
    exact Keeps.put h rfl rfl rfl rfl rfl
  clear_value v3
  exact Keeps.fold h4 (fun _ _ h7 => noSpare_keeps (setCarrier_keeps h7))

theorem takeLamb_keeps {s0 : State} {f : Nat} {level : Nat} {s : State} (h : Keeps s0 s) :
    OptPairKeeps s0 (takeLamb f level s) := by
  unfold takeLamb
  split
  · refine OptPairKeeps.some ?_
    dsimp only
    exact h
  · split
    · exact OptPairKeeps.none
    · split
      · refine OptPairKeeps.some ?_
        dsimp only
        exact reclaimRecal_keeps h
      · split
        · exact OptPairKeeps.none
        · refine OptPairKeeps.map (fun x15 => ?_)
          dsimp only
          exact reclaimParking_keeps h

theorem startSparing_keeps {s0 : State} {f : Nat} {i : Nat} {skip : Bool} {s : State} (h : Keeps s0 s) :
    Keeps s0 (startSparing f i skip s) := by
  unfold startSparing
  split
  · exact h
  · refine Keeps.ite (fun _ => ?_) (fun _ => ?_)
    · exact h
    · split
      · exact Keeps.ite (fun _ => h) (fun _ => raise_keeps (changeSource_keeps h))
      · rename_i y11
        refine OptPairKeeps.out (a := s0) y11 ?_ (fun h12 => ?_)
        · exact takeLamb_keeps h
        extract_lets v13 v14 v15 v16 v17
        refine Keeps.mid (a := s0) v14 ?_ (fun h18 => ?_)
        · unfold v14
          exact raise_keeps h12
        clear_value v14
        refine Keeps.mid (a := s0) v15 ?_ (fun h19 => ?_)
        · unfold v15
          exact setSource_keeps h18
        clear_value v15
        refine Keeps.mid (a := s0) v16 ?_ (fun h20 => ?_)
        · unfold v16
          exact setSource_keeps h19
        clear_value v16
        exact Keeps.put h20 rfl rfl rfl rfl rfl

theorem changeSparing_keeps {s0 : State} {f : Nat} {k : Nat} {g : Sparing → Sparing} {s : State}
    (h : Keeps s0 s) :
    Keeps s0 (changeSparing f k g s) := by
  unfold changeSparing
  exact Keeps.put h rfl rfl rfl rfl rfl

theorem decideSparing_keeps {s0 : State} {x : Sparing} {s : State} (h : Keeps s0 s) :
    Keeps s0 (decideSparing x s) := by
  unfold decideSparing
  extract_lets v1 v2 v3 v4 v5 v6
  refine Keeps.mid (a := s0) v3 ?_ (fun h7 => ?_)
  · unfold v3
    exact sendCarrier_keeps h
  clear_value v3
  refine Keeps.mid (a := s0) v4 ?_ (fun h8 => ?_)
  · unfold v4
    exact raise_keeps (dropSparing_keeps h7)
  clear_value v4
  refine Keeps.mid (a := s0) v5 ?_ (fun h9 => ?_)
  · unfold v5
    exact setSource_keeps h8
  clear_value v5
  refine Keeps.ite (fun _ => ?_) (fun _ => ?_)
  · exact startSparing_keeps (setSource_keeps h9)
  · refine Keeps.ite (fun _ => ?_) (fun _ => ?_)
    · exact changeSparing_keeps h
    · exact Keeps.ite (fun _ => changeSparing_keeps h) (fun _ => changeSparing_keeps (sendCarrier_keeps h))

theorem dropUnparked_keeps {s0 : State} {f : Nat} {g : Nat} {k : Nat} {s : State} (h : Keeps s0 s) :
    Keeps s0 (dropUnparked f g k s) := by
  unfold dropUnparked
  refine Keeps.ite (fun _ => ?_) (fun _ => ?_)
  · exact h
  · extract_lets v1 v2
    refine Keeps.mid (a := s0) v2 ?_ (fun h3 => ?_)
    · unfold v2
      exact Keeps.put h rfl rfl rfl rfl rfl
    clear_value v2
    exact Keeps.ite (fun _ => guideUp_keeps h3) (fun _ => h3)

theorem switchOver_keeps {s0 : State} {x : Sparing} {s : State} (h : Keeps s0 s) :
    Keeps s0 (switchOver x s) := by
  unfold switchOver
  extract_lets v1 v2 v3 v4 v5 v6 v7 v8 v9 v10 v11 v12 v13 v14
  refine Keeps.mid (a := s0) v2 ?_ (fun h15 => ?_)
  · unfold v2
    exact setCarrier_keeps h
  clear_value v2
  refine Keeps.mid (a := s0) v3 ?_ (fun h16 => ?_)
  · unfold v3
    exact setSource_keeps h15
  clear_value v3
  refine Keeps.mid (a := s0) v4 ?_ (fun h17 => ?_)
  · unfold v4
    exact setSource_keeps h16
  clear_value v4
  refine Keeps.mid (a := s0) v5 ?_ (fun h18 => ?_)
  · unfold v5
    exact Keeps.fold h17 (fun _ _ h21 => dropParked_keeps h21)
  clear_value v5
  refine Keeps.mid (a := s0) v6 ?_ (fun h22 => ?_)
  · unfold v6
    exact Keeps.fold h18 (fun _ _ h25 => dropUnparked_keeps h25)
  clear_value v6
  refine Keeps.mid (a := s0) v9 ?_ (fun h26 => ?_)
  · unfold v9
    exact reportFull_keeps (Keeps.put h22 rfl rfl rfl rfl rfl)
  clear_value v9
  refine Keeps.mid (a := s0) v10 ?_ (fun h27 => ?_)
  · unfold v10
    exact sendMark_keeps h26
  clear_value v10
  refine Keeps.mid (a := s0) v12 ?_ (fun h28 => ?_)
  · unfold v12
    exact raiseIf_keeps h27
  clear_value v12
  refine Keeps.mid (a := s0) v13 ?_ (fun h29 => ?_)
  · unfold v13
    exact raise_keeps (dropSparing_keeps h28)
  clear_value v13
  exact Keeps.ite (fun _ => Keeps.put h29 rfl rfl rfl rfl rfl) (fun _ => h29)

theorem sparingBoundary_keeps {s0 : State} {x : Sparing} {s : State} (h : Keeps s0 s) :
    Keeps s0 (sparingBoundary x s) := by
  unfold sparingBoundary
  extract_lets v1 v2
  refine Keeps.mid (a := s0) v2 ?_ (fun h3 => ?_)
  · unfold v2
    exact Keeps.ite (fun _ => decideSparing_keeps h) (fun _ => h)
  clear_value v2
  split
  · exact h3
  · split
    · refine Keeps.ite (fun _ => ?_) (fun _ => ?_)
      · exact h3
      · exact Keeps.ite (fun _ => switchOver_keeps h3) (fun _ => changeSparing_keeps h3)
    · exact Keeps.ite (fun _ => switchOver_keeps h3) (fun _ => h3)
    · exact Keeps.ite (fun _ => switchOver_keeps h3) (fun _ => h3)
    · exact h3

theorem endPass_keeps {s0 : State} {p : Pass} {s : State} (h : Keeps s0 s) : Keeps s0 (endPass p s) := by
  unfold endPass
  extract_lets v1 v2 v3
  refine Keeps.mid (a := s0) v2 ?_ (fun h4 => ?_)
  · unfold v2
    exact Keeps.put h rfl rfl rfl rfl rfl
  clear_value v2
  refine Keeps.mid (a := s0) v3 ?_ (fun h5 => ?_)
  · unfold v3
    exact Keeps.ite (fun _ => sendMark_keeps (setCarrier_keeps h4)) (fun _ => h4)
  clear_value v3
  exact Keeps.ite (fun _ => setSource_keeps h5) (fun _ => h5)

theorem commitEntries_keeps {s0 : State} {b : Nat} {es : List (BitVec 64)} {s : State} (h : Keeps s0 s) :
    Keeps s0 (commitEntries b es s) := by
  unfold commitEntries
  extract_lets v1 v2
  exact Keeps.put h rfl rfl rfl rfl rfl

theorem passBoundary_keeps {s0 : State} {p : Pass} {s : State} (h : Keeps s0 s) :
    Keeps s0 (passBoundary p s) := by
  unfold passBoundary
  extract_lets v1 v2 v3 v4 v5 v6
  refine Keeps.mid (a := s0) v3 ?_ (fun h7 => ?_)
  · unfold v3
    exact sendMark_keeps (commitEntries_keeps h)
  clear_value v3
  refine Keeps.mid (a := s0) v5 ?_ (fun h8 => ?_)
  · unfold v5
    exact commitEntries_keeps (endPass_keeps h)
  clear_value v5
  refine Keeps.ite (fun _ => ?_) (fun _ => ?_)
  · exact endPass_keeps h
  · refine Keeps.ite (fun _ => ?_) (fun _ => ?_)
    · exact setCarrier_keeps (Keeps.put h7 rfl rfl rfl rfl rfl)
    · refine Keeps.ite (fun _ => ?_) (fun _ => ?_)
      · exact sendMark_keeps (sendCarrier_keeps h)
      · exact Keeps.ite (fun _ => raise_keeps (Keeps.put h8 rfl rfl rfl rfl rfl)) (fun _ => h)

theorem addLit_keeps {s0 : State} {n : Nat} {taps : List LaserTap} {s : State} (h : Keeps s0 s) :
    Keeps s0 (addLit n taps s) := by
  unfold addLit
  exact Keeps.fold h (fun _ _ h3 => Keeps.ite (fun _ => h3) (fun _ => changeSource_keeps h3))

theorem takeOwnPower_keeps {s0 : State} {f : Nat} {i : Nat} {power : Nat} {s : State} (h : Keeps s0 s) :
    Keeps s0 (takeOwnPower f i power s) := by
  unfold takeOwnPower
  exact Keeps.ite (fun _ => changeSource_keeps h) (fun _ => h)

theorem takeTap_keeps {s0 : State} {x : LaserTap} {s : State} (h : Keeps s0 s) : Keeps s0 (takeTap x s) := by
  unfold takeTap
  extract_lets v1 v2 v3 v4 v5 v6 v7 v8
  refine Keeps.mid (a := s0) v4 ?_ (fun h9 => ?_)
  · unfold v4
    exact takeOwnPower_keeps h
  clear_value v4
  refine Keeps.mid (a := s0) v6 ?_ (fun h10 => ?_)
  · unfold v6
    exact changeSource_keeps h9
  clear_value v6
  refine Keeps.mid (a := s0) v8 ?_ (fun h11 => ?_)
  · unfold v8
    exact raise_keeps (changeSource_keeps h10)
  clear_value v8
  refine Keeps.ite (fun _ => ?_) (fun _ => ?_)
  · exact h
  · exact Keeps.ite (fun _ => Keeps.ite (fun _ => setSource_keeps h11) (fun _ => h11)) (fun _ => h10)

theorem loseLight_keeps {s0 : State} {f : Nat} {i : Nat} {s : State} (h : Keeps s0 s) :
    Keeps s0 (loseLight f i s) := by
  unfold loseLight
  split
  · exact h
  · refine Keeps.ite (fun _ => ?_) (fun _ => ?_)
    · exact h
    · extract_lets v6
      exact Keeps.fold h (fun _ _ h9 => Keeps.fold h9 (fun _ _ h12 => laneFailing_keeps h12))

theorem takeTaps_keeps {s0 : State} {taps : List LaserTap} {s : State} (h : Keeps s0 s) :
    Keeps s0 (takeTaps taps s) := by
  unfold takeTaps
  extract_lets v1 v2 v3 v4 v5
  refine Keeps.mid (a := s0) v1 ?_ (fun h6 => ?_)
  · unfold v1
    exact h
  clear_value v1
  refine Keeps.mid (a := s0) v2 ?_ (fun h7 => ?_)
  · unfold v2
    exact Keeps.fold h (fun _ _ h10 => takeTap_keeps h10)
  clear_value v2
  refine Keeps.mid (a := s0) v5 ?_ (fun h11 => ?_)
  · unfold v5
    refine Keeps.fold ?_ (fun s12 x13 h14 => ?_)
    · exact h7
    · exact Keeps.ite (fun _ => askTick_keeps h14) (fun _ => startSparing_keeps h14)
  clear_value v5
  exact Keeps.fold h11 (fun _ _ h17 => loseLight_keeps h17)

theorem evaluateCorrections_keeps {s0 : State} {b : Nat} {s : State} (h : Keeps s0 s) :
    Keeps s0 (evaluateCorrections b s) := by
  unfold evaluateCorrections
  extract_lets v1 v2
  split
  · exact Keeps.ite (fun _ => h) (fun _ => Keeps.put h rfl rfl rfl rfl rfl)
  · exact Keeps.put h rfl rfl rfl rfl rfl

theorem lasersBoundary_keeps {s0 : State} {taps : List LaserTap} {s : State} (h : Keeps s0 s) :
    Keeps s0 (lasersBoundary taps s) := by
  unfold lasersBoundary
  extract_lets v1 v2 v3 v4 v5 v6 v7 v8
  refine Keeps.mid (a := s0) v4 ?_ (fun h9 => ?_)
  · unfold v4
    exact Keeps.fold (Keeps.put h rfl rfl rfl rfl rfl) (fun _ _ h12 => applyCarrier_keeps h12)
  clear_value v4
  refine Keeps.mid (a := s0) v5 ?_ (fun h13 => ?_)
  · unfold v5
    exact Keeps.fold h9 (fun _ _ h16 => parkedBoundary_keeps h16)
  clear_value v5
  refine Keeps.mid (a := s0) v6 ?_ (fun h17 => ?_)
  · unfold v6
    exact Keeps.fold h13 (fun _ _ h20 => sparingBoundary_keeps h20)
  clear_value v6
  refine Keeps.mid (a := s0) v7 ?_ (fun h21 => ?_)
  · unfold v7
    exact Keeps.fold h17 (fun _ _ h24 => passBoundary_keeps h24)
  clear_value v7
  refine Keeps.mid (a := s0) v8 ?_ (fun h25 => ?_)
  · unfold v8
    exact Keeps.ite (fun _ => addLit_keeps (takeTaps_keeps h21)) (fun _ => h21)
  clear_value v8
  exact Keeps.fold h25 (fun _ _ h28 => evaluateCorrections_keeps h28)

theorem spareAct_keeps {s0 : State} {a0 : Bytes} {a1 : State} (h : Keeps s0 a1) :
    WKeeps s0 (spareAct a0 a1) := by
  unfold spareAct
  extract_lets v1 v2 v3
  split
  · exact .refuse
  · split
    · exact .refuse
    · exact WKeeps.done (startSparing_keeps h)

theorem execSpareCommand_keeps {s0 : State} {req : Req} {value : Bytes} {s : State} (h : Keeps s0 s) :
    OutKeeps s0 (execSpareCommand req value s) := by
  unfold execSpareCommand
  refine OutKeeps.next ?_
  refine serveWrite_keeps ?_ ?_
  · intro x1 s2 h3
    exact spareAct_keeps h3
  · exact h

theorem lambLocked_keeps {s0 : State} {f : Nat} {j : Nat} {power : Nat} {s : State} (h : Keeps s0 s) :
    Keeps s0 (lambLocked f j power s) := by
  unfold lambLocked
  split
  · exact h
  · extract_lets v6 v7 v8 v9
    refine Keeps.mid (a := s0) v6 ?_ (fun h10 => ?_)
    · unfold v6
      exact takeOwnPower_keeps h
    clear_value v6
    refine Keeps.mid (a := s0) v8 ?_ (fun h11 => ?_)
    · unfold v8
      exact sendMark_keeps h10
    clear_value v8
    exact Keeps.ite (fun _ => switchOver_keeps h11) (fun _ => changeSparing_keeps (sendCarrier_keeps h11))

theorem execLambLocked_keeps {s0 : State} {flock : Fin 16} {lamb : Fin 4} {power : BitVec 16} {s : State}
    (h : Keeps s0 s) :
    OutKeeps s0 (execLambLocked flock lamb power s) := by
  unfold execLambLocked
  exact OutKeeps.next (lambLocked_keeps h)

theorem takeWord_keeps {s0 : State} {t : Nat} {w : BitVec 64} {s : State} (h : Keeps s0 s) :
    Keeps s0 (takeWord t w s) := by
  unfold takeWord
  exact Keeps.put h rfl rfl rfl rfl rfl

theorem carrierNotice_keeps {s0 : State} {action : Nat} {t : Nat} {w : BitVec 64} {s : State} (h : Keeps s0 s) :
    Keeps s0 (carrierNotice action t w s) := by
  unfold carrierNotice
  extract_lets v1 v2 v3 v4 v5 v6
  refine Keeps.mid (a := s0) v1 ?_ (fun h7 => ?_)
  · unfold v1
    exact takeWord_keeps h
  clear_value v1
  refine Keeps.ite (fun _ => ?_) (fun _ => ?_)
  · exact h7
  · exact Keeps.ite (fun _ => Keeps.put h7 rfl rfl rfl rfl rfl) (fun _ => Keeps.put h7 rfl rfl rfl rfl rfl)

theorem execNoticeDuplicate_keeps {s0 : State} {tower : Tower} {word : BitVec 64} {s : State} (h : Keeps s0 s) :
    OutKeeps s0 (execNoticeDuplicate tower word s) := by
  unfold execNoticeDuplicate
  exact OutKeeps.next (carrierNotice_keeps h)

theorem execNoticeSwitch_keeps {s0 : State} {tower : Tower} {word : BitVec 64} {s : State} (h : Keeps s0 s) :
    OutKeeps s0 (execNoticeSwitch tower word s) := by
  unfold execNoticeSwitch
  exact OutKeeps.next (carrierNotice_keeps h)

theorem execNoticePark_keeps {s0 : State} {tower : Tower} {word : BitVec 64} {s : State} (h : Keeps s0 s) :
    OutKeeps s0 (execNoticePark tower word s) := by
  unfold execNoticePark
  exact OutKeeps.next (carrierNotice_keeps h)

theorem execNoticeReturn_keeps {s0 : State} {tower : Tower} {word : BitVec 64} {s : State} (h : Keeps s0 s) :
    OutKeeps s0 (execNoticeReturn tower word s) := by
  unfold execNoticeReturn
  exact OutKeeps.next (carrierNotice_keeps h)

theorem execNoticeAbandon_keeps {s0 : State} {tower : Tower} {word : BitVec 64} {s : State} (h : Keeps s0 s) :
    OutKeeps s0 (execNoticeAbandon tower word s) := by
  unfold execNoticeAbandon
  exact OutKeeps.next (carrierNotice_keeps h)

theorem compareStop_keeps {s0 : State} {f : Nat} {k : Nat} {counts : List CompareCount} {s : State}
    (h : Keeps s0 s) :
    Keeps s0 (compareStop f k counts s) := by
  unfold compareStop
  split
  · exact h
  · refine Keeps.ite (fun _ => ?_) (fun _ => ?_)
    · exact h
    · extract_lets v6 v7 v8
      refine Keeps.mid (a := s0) v8 ?_ (fun h9 => ?_)
      · unfold v8
        exact advanceTo_keeps (Keeps.put h rfl rfl rfl rfl rfl)
      clear_value v8
      exact Keeps.fold h9 (fun _ _ h12 => sendMesh_keeps h12)

theorem execCompareCountStop_keeps {s0 : State} {flock : Fin 16} {lane : Fin 32} {counts : List CompareCount}
    {s : State} (h : Keeps s0 s) :
    OutKeeps s0 (execCompareCountStop flock lane counts s) := by
  unfold execCompareCountStop
  exact OutKeeps.next (compareStop_keeps h)

theorem compareReport_keeps {s0 : State} {t : Nat} {w : BitVec 64} {s : State} (h : Keeps s0 s) :
    Keeps s0 (compareReport t w s) := by
  unfold compareReport
  extract_lets v1
  refine Keeps.mid (a := s0) v1 ?_ (fun h2 => ?_)
  · unfold v1
    exact takeWord_keeps h
  clear_value v1
  exact Keeps.ite (fun _ => h2) (fun _ => changeSparing_keeps h2)

theorem execCompareReport_keeps {s0 : State} {tower : Tower} {word : BitVec 64} {s : State} (h : Keeps s0 s) :
    OutKeeps s0 (execCompareReport tower word s) := by
  unfold execCompareReport
  exact OutKeeps.next (compareReport_keeps h)

theorem spareDecision_keeps {s0 : State} {f : Nat} {k : Nat} {s : State} (h : Keeps s0 s) :
    Keeps s0 (spareDecision f k s) := by
  unfold spareDecision
  split
  · exact h
  · exact Keeps.ite (fun _ => h) (fun _ => decideSparing_keeps (advanceTo_keeps h))

theorem execSpareDecision_keeps {s0 : State} {flock : Fin 16} {lane : Fin 32} {s : State} (h : Keeps s0 s) :
    OutKeeps s0 (execSpareDecision flock lane s) := by
  unfold execSpareDecision
  exact OutKeeps.next (spareDecision_keeps h)

theorem darkMarker_keeps {s0 : State} {p : Nat} {lane : Nat} {j : Nat} {compared : Nat} {mismatches : Nat}
    {s : State} (h : Keeps s0 s) :
    Keeps s0 (darkMarker p lane j compared mismatches s) := by
  unfold darkMarker
  extract_lets v1 v2 v3
  refine Keeps.mid (a := s0) v2 ?_ (fun h4 => ?_)
  · unfold v2
    exact raiseIf_keeps h
  clear_value v2
  exact Keeps.put h4 rfl rfl rfl rfl rfl

theorem execDarkMarker_keeps {s0 : State} {port : Port} {lane : BitVec 6} {spare : Fin 4} {compared : Nat}
    {mismatches : Nat} {s : State} (h : Keeps s0 s) :
    OutKeeps s0 (execDarkMarker port lane spare compared mismatches s) := by
  unfold execDarkMarker
  exact OutKeeps.next (darkMarker_keeps h)

theorem parkChannel_keeps {s0 : State} {f : Nat} {g : Nat} {k : Nat} {s : State} (h : Keeps s0 s) :
    Keeps s0 (parkChannel f g k s) := by
  unfold parkChannel
  refine Keeps.ite (fun _ => ?_) (fun _ => ?_)
  · exact h
  · extract_lets v1
    unfold v1
    split
    · exact noSpare_keeps h
    · rename_i y7
      refine OptPairKeeps.out (a := s0) y7 ?_ (fun h8 => ?_)
      · split
        · refine OptPairKeeps.some ?_
          dsimp only
          exact h
        · exact takeLamb_keeps h
      extract_lets v14 v15 v16 v17
      refine Keeps.mid (a := s0) v14 ?_ (fun h18 => ?_)
      · unfold v14
        exact setSource_keeps h8
      clear_value v14
      refine Keeps.mid (a := s0) v17 ?_ (fun h19 => ?_)
      · unfold v17
        exact Keeps.put h18 rfl rfl rfl rfl rfl
      clear_value v17
      refine Keeps.ite (fun _ => ?_) (fun _ => ?_)
      · exact sendCarrier_keeps h19
      · exact setCarrier_keeps (sendMark_keeps (sendMark_keeps h19))

theorem ringOut_keeps {s0 : State} {r : Ring} {s : State} (h : Keeps s0 s) : Keeps s0 (ringOut r s) := by
  unfold ringOut
  extract_lets v1
  refine Keeps.mid (a := s0) v1 ?_ (fun h2 => ?_)
  · unfold v1
    exact raise_keeps (count32_keeps h)
  clear_value v1
  split
  · exact pathService_keeps h2
  · exact Keeps.ite (fun _ => askTick_keeps h2) (fun _ => h2)
  · split
    · exact Keeps.ite (fun _ => parkChannel_keeps h2) (fun _ => h2)
    · exact h2

theorem unparkChannel_keeps {s0 : State} {f : Nat} {g : Nat} {k : Nat} {s : State} (h : Keeps s0 s) :
    Keeps s0 (unparkChannel f g k s) := by
  unfold unparkChannel
  extract_lets v1 v2 v3 v4
  refine Keeps.mid (a := s0) v4 ?_ (fun h5 => ?_)
  · unfold v4
    split
    · exact h
    · exact sendMark_keeps (sendCarrier_keeps (Keeps.put h rfl rfl rfl rfl rfl))
  clear_value v4
  exact dropUnparked_keeps h5

theorem ringBack_keeps {s0 : State} {r : Ring} {s : State} (h : Keeps s0 s) : Keeps s0 (ringBack r s) := by
  unfold ringBack
  extract_lets v1
  refine Keeps.mid (a := s0) v1 ?_ (fun h2 => ?_)
  · unfold v1
    exact raise_keeps h
  clear_value v1
  split
  · exact Keeps.ite (fun _ => h2) (fun _ => pathService_keeps h2)
  · exact h2
  · split
    · exact Keeps.ite (fun _ => unparkChannel_keeps h2) (fun _ => h2)
    · exact h2

theorem ringSample_keeps {s0 : State} {r : Ring} {error : Int} {temperature : Int} {s : State} (h : Keeps s0 s)
    :
    Keeps s0 (ringSample r error temperature s) := by
  unfold ringSample
  extract_lets v1 v2 v3 v4 v5
  refine Keeps.mid (a := s0) v4 ?_ (fun h6 => ?_)
  · unfold v4
    simp only [v3]
    exact Keeps.put h rfl rfl rfl rfl rfl
  clear_value v4
  refine Keeps.ite (fun _ => ?_) (fun _ => ?_)
  · refine ringOut_keeps ?_
    simp only [v3]
    exact Keeps.put h rfl rfl rfl rfl rfl
  · refine Keeps.ite (fun _ => ?_) (fun _ => ?_)
    · refine ringBack_keeps ?_
      simp only [v3]
      exact Keeps.put h rfl rfl rfl rfl rfl
    · split
      · exact Keeps.ite (fun _ => laneFailing_keeps (Keeps.put h6 rfl rfl rfl rfl rfl)) (fun _ => h6)
      · exact h6

theorem execRingSample_keeps {s0 : State} {ring : Ring} {error : Int} {temperature : Int} {s : State}
    (h : Keeps s0 s) :
    OutKeeps s0 (execRingSample ring error temperature s) := by
  unfold execRingSample
  exact OutKeeps.next (Keeps.ite (fun _ => ringSample_keeps h) (fun _ => h))

theorem measureRref_keeps {s0 : State} {d : BitVec 16} {s : State} (h : Keeps s0 s) :
    Keeps s0 (measureRref d s) := by
  unfold measureRref
  extract_lets v1 v2 v3 v4
  refine Keeps.mid (a := s0) v2 ?_ (fun h5 => ?_)
  · unfold v2
    exact Keeps.put h rfl rfl rfl rfl rfl
  clear_value v2
  refine Keeps.mid (a := s0) v4 ?_ (fun h6 => ?_)
  · unfold v4
    exact Keeps.ite (fun _ => h5) (fun _ => raise_keeps (Keeps.put h5 rfl rfl rfl rfl rfl))
  clear_value v4
  refine Keeps.ite (fun _ => ?_) (fun _ => ?_)
  · exact Keeps.fold h6 (fun _ _ h9 => abandonPass_keeps h9)
  · split
    · rename_i y13
      refine Keeps.ofPair1 (a := s0) y13 ?_ (fun h14 => ?_)
      · exact draw_keeps h5
      split
      · rename_i y18
        refine Keeps.ofPair1 (a := s0) y18 ?_ (fun h19 => ?_)
        · exact draw_keeps h14
        split
        · rename_i y23
          refine Keeps.ofPair1 (a := s0) y23 ?_ (fun h24 => ?_)
          · exact draw_keeps h19
          exact Keeps.put h24 rfl rfl rfl rfl rfl

theorem joinPass_keeps {s0 : State} {f : Nat} {k : Nat} {s : State} (h : Keeps s0 s) :
    Keeps s0 (joinPass f k s) := by
  unfold joinPass
  extract_lets v1 v2 v3 v4 v5
  refine Keeps.mid (a := s0) v2 ?_ (fun h6 => ?_)
  · unfold v2
    exact advanceTo_keeps h
  clear_value v2
  refine Keeps.mid (a := s0) v4 ?_ (fun h7 => ?_)
  · unfold v4
    exact Keeps.ite (fun _ => h) (fun _ => Keeps.put h6 rfl rfl rfl rfl rfl)
  clear_value v4
  exact Keeps.put h7 rfl rfl rfl rfl rfl

theorem recalPass_keeps {s0 : State} {f : Nat} {k : Nat} {byTemperature : Bool} {rref : BitVec 16}
    {es : List (BitVec 64)} {s : State} (h : Keeps s0 s) :
    Keeps s0 (recalPass f k byTemperature rref es s) := by
  unfold recalPass
  extract_lets v1 v2
  refine Keeps.mid (a := s0) v2 ?_ (fun h3 => ?_)
  · unfold v2
    exact measureRref_keeps (Keeps.ite (fun _ => h) (fun _ => joinPass_keeps h))
  clear_value v2
  refine Keeps.ite (fun _ => ?_) (fun _ => ?_)
  · exact h
  · refine Keeps.ite (fun _ => ?_) (fun _ => ?_)
    · exact h3
    · split
      · exact h3
      · rename_i y9
        refine OptPairKeeps.out (a := s0) y9 ?_ (fun h10 => ?_)
        · exact takeLamb_keeps h3
        extract_lets v11 v12 v13 v14
        refine Keeps.mid (a := s0) v12 ?_ (fun h15 => ?_)
        · unfold v12
          exact setSource_keeps h10
        clear_value v12
        refine Keeps.mid (a := s0) v13 ?_ (fun h16 => ?_)
        · unfold v13
          exact sendCarrier_keeps (sendMark_keeps h15)
        clear_value v13
        exact Keeps.put h16 rfl rfl rfl rfl rfl

theorem execRecalPassStart_keeps {s0 : State} {flock : Fin 16} {lane : Fin 32} {byTemperature : Bool}
    {rref : BitVec 16} {entries : List (BitVec 64)} {s : State} (h : Keeps s0 s) :
    OutKeeps s0 (execRecalPassStart flock lane byTemperature rref entries s) := by
  unfold execRecalPassStart
  exact OutKeeps.next (recalPass_keeps h)

theorem calWrite_keeps {s0 : State} {b : Nat} {ok : Bool} {s : State} (h : Keeps s0 s) :
    Keeps s0 (calWrite b ok s) := by
  unfold calWrite
  refine Keeps.ite (fun _ => ?_) (fun _ => ?_)
  · exact h
  · extract_lets v1 v2 v3 v4 v5 v6
    refine Keeps.mid (a := s0) v4 ?_ (fun h7 => ?_)
    · unfold v4
      exact Keeps.put h rfl rfl rfl rfl rfl
    clear_value v4
    refine Keeps.ite (fun _ => ?_) (fun _ => ?_)
    · simp only [v2]
      exact Keeps.put h7 rfl rfl rfl rfl rfl
    · refine raise_keeps ?_
      simp only [v2]
      exact Keeps.put h7 rfl rfl rfl rfl rfl

theorem execCalRecordWrite_keeps {s0 : State} {base : Fin 4} {written : Bool} {s : State} (h : Keeps s0 s) :
    OutKeeps s0 (execCalRecordWrite base written s) := by
  unfold execCalRecordWrite
  exact OutKeeps.next (calWrite_keeps h)

theorem lasersReset_keeps {s0 : State} {b : Nat} {s : State} (h : Keeps s0 s) : Keeps s0 (lasersReset b s) := by
  unfold lasersReset
  extract_lets v1 v2 v3
  refine Keeps.mid (a := s0) v2 ?_ (fun h4 => ?_)
  · unfold v2
    exact Keeps.fold h (fun _ _ h7 => sendCarrier_keeps (changeSparing_keeps h7))
  clear_value v2
  exact Keeps.fold h4 (fun _ _ h10 => sendCarrier_keeps (Keeps.put h10 rfl rfl rfl rfl rfl))

theorem lasersReturn_keeps {s0 : State} {b : Nat} {s : State} (h : Keeps s0 s) :
    Keeps s0 (lasersReturn b s) := by
  unfold lasersReturn
  extract_lets v1 v2 v3
  refine Keeps.mid (a := s0) v2 ?_ (fun h4 => ?_)
  · unfold v2
    exact Keeps.put h rfl rfl rfl rfl rfl
  clear_value v2
  refine Keeps.fold ?_ (fun s5 x6 h7 => ?_)
  · exact h4
  · refine Keeps.fold ?_ (fun s8 x9 h10 => ?_)
    · exact h7
    · split
      · exact Keeps.ite (fun _ => setSource_keeps (sendCarrier_keeps (setCarrier_keeps h10))) (fun _ => h10)
      · exact h10

theorem searchRings_keeps {s0 : State} {unlocked : List Ring} {s : State} (h : Keeps s0 s) :
    Keeps s0 (searchRings unlocked s) := by
  unfold searchRings
  extract_lets v1 v2
  exact Keeps.put h rfl rfl rfl rfl rfl

theorem parkUnlocked_keeps {s0 : State} {r : Ring} {s : State} (h : Keeps s0 s) :
    Keeps s0 (parkUnlocked r s) := by
  unfold parkUnlocked
  split
  · exact h
  · refine Keeps.ite (fun _ => ?_) (fun _ => ?_)
    · exact h
    · refine Keeps.ite (fun _ => ?_) (fun _ => ?_)
      · extract_lets v8
        exact Keeps.fold h (fun _ _ h11 => laneFailing_keeps h11)
      · exact parkChannel_keeps h

theorem parkAllUnlocked_keeps {s0 : State} {s : State} (h : Keeps s0 s) : Keeps s0 (parkAllUnlocked s) := by
  unfold parkAllUnlocked
  exact Keeps.fold (Keeps.put h rfl rfl rfl rfl rfl) (fun _ _ h3 => parkUnlocked_keeps h3)

end Sys2Proof.Machine
end

