-- ==== Sys2Proof/Laws/KeepsTdiOps.lean ====
section
/-! SUPPORT. What the operations of Machine/TdiOps.lean keep: one lemma for each. -/

set_option Elab.async false

namespace Sys2Proof.Machine

theorem setTdi_keeps {s0 : State} {f : Nat} {n : Nat} {s : State} (h : Keeps s0 s) :
    Keeps s0 (setTdi f n s) := by
  unfold setTdi
  exact Keeps.ite (fun _ => h) (fun _ => notify_keeps (raise_keeps (Keeps.put h rfl rfl rfl rfl rfl)))

theorem tdiFail_keeps {s0 : State} {f : Nat} {s : State} (h : Keeps s0 s) : Keeps s0 (tdiFail f s) := by
  unfold tdiFail
  refine Keeps.ite (fun _ => ?_) (fun _ => ?_)
  · exact h
  · extract_lets v1 v2 v3
    refine Keeps.mid (a := s0) v3 ?_ (fun h4 => ?_)
    · unfold v3
      exact setTdi_keeps (Keeps.put h rfl rfl rfl rfl rfl)
    clear_value v3
    exact Keeps.fold h4 (fun _ _ h7 => releaseRun_keeps h7)

theorem partitionTdiFail_keeps {s0 : State} {p : Nat} {s : State} (h : Keeps s0 s) :
    Keeps s0 (partitionTdiFail p s) := by
  unfold partitionTdiFail
  split
  · exact tdiFail_keeps h
  · exact h

end Sys2Proof.Machine
end

