-- ==== Sys2Proof/Laws/KeepsUnits.lean ====
section
/-! SUPPORT. What the operations of Machine/Units.lean keep: one lemma for each. -/

set_option Elab.async false

namespace Sys2Proof.Machine

theorem pumpAll_keeps {s0 : State} {s : State} (h : Keeps s0 s) : Keeps s0 (pumpAll s) := by
  unfold pumpAll
  exact Keeps.fold h (fun _ _ h3 => pump_keeps h3)

theorem freeOpenTag_keeps {s0 : State} {t : Nat} {tag : BitVec 16} {s : State} (h : Keeps s0 s) :
    Keeps s0 (freeOpenTag t tag s) := by
  unfold freeOpenTag
  exact skipTag_keeps (Keeps.put h rfl rfl rfl rfl rfl)

theorem forgetFlight_keeps {s0 : State} {x : Flight} {s : State} (h : Keeps s0 s) :
    Keeps s0 (forgetFlight x s) := by
  unfold forgetFlight
  extract_lets v1 v2 v3
  split
  · exact freeOpenTag_keeps h
  · exact freeOpenTag_keeps h
  · exact freeOpenTag_keeps (Keeps.put h rfl rfl rfl rfl rfl)
  · exact Keeps.put h rfl rfl rfl rfl rfl
  · exact h

theorem endFlight_keeps {s0 : State} {x : Flight} {code : Nat} {s : State} (h : Keeps s0 s) :
    Keeps s0 (endFlight x code s) := by
  unfold endFlight
  extract_lets v1
  exact finishDesc_keeps (changeDesc_keeps (forgetFlight_keeps h))

theorem losePackets_keeps {s0 : State} {ts : List Nat} {s : State} (h : Keeps s0 s) :
    Keeps s0 (losePackets ts s) := by
  unfold losePackets
  extract_lets v1 v2
  exact loseShares_keeps (Keeps.put h rfl rfl rfl rfl rfl)

theorem deadTowers_keeps {s0 : State} {ts : List Nat} {s : State} (h : Keeps s0 s) :
    Keeps s0 (deadTowers ts s) := by
  unfold deadTowers
  extract_lets v1
  exact pumpAll_keeps (Keeps.fold (losePackets_keeps h) (fun _ _ h4 => endFlight_keeps h4))

theorem keepOut_keeps {s0 : State} {us : List PkgUnit} {s : State} (h : Keeps s0 s) :
    Keeps s0 (keepOut us s) := by
  unfold keepOut
  extract_lets v1 v2 v3 v4 v5 v6 v7
  refine Keeps.mid (a := s0) v4 ?_ (fun h8 => ?_)
  · unfold v4
    exact dropUnits_keeps h
  clear_value v4
  refine Keeps.mid (a := s0) v6 ?_ (fun h9 => ?_)
  · unfold v6
    exact Keeps.put h8 rfl rfl rfl rfl rfl
  clear_value v6
  refine Keeps.mid (a := s0) v7 ?_ (fun h10 => ?_)
  · unfold v7
    exact Keeps.fold h9 (fun _ _ h13 => Keeps.ite (fun _ => h13) (fun _ => linkDown_keeps h13))
  clear_value v7
  exact Keeps.ite (fun _ => h10) (fun _ => deadTowers_keeps h10)

end Sys2Proof.Machine
end

