-- ==== Sys2Proof/Laws/KeepsBundles.lean ====
section
/-! SUPPORT. What the operations of Machine/Bundles.lean keep: one lemma for each. -/

set_option Elab.async false

namespace Sys2Proof.Machine

theorem trainPath_keeps {s0 : State} {n : Nat} {s : State} (h : Keeps s0 s) : Keeps s0 (trainPath n s) := by
  unfold trainPath
  split
  · rename_i y4
    refine Keeps.ofPair1 (a := s0) y4 ?_ (fun h5 => ?_)
    · exact draw_keeps h
    exact lockOn_keeps (changeLink_keeps (startTraining_keeps h5))

theorem trainPaths_keeps {s0 : State} {ts : List Nat} {s : State} (h : Keeps s0 s) :
    Keeps s0 (trainPaths ts s) := by
  unfold trainPaths
  extract_lets v1 v2 v3
  refine Keeps.mid (a := s0) v2 ?_ (fun h4 => ?_)
  · unfold v2
    exact Keeps.put h rfl rfl rfl rfl rfl
  clear_value v2
  refine Keeps.fold ?_ (fun s5 x6 h7 => ?_)
  · exact h4
  · split
    · exact Keeps.fold h7 (fun _ _ h13 => Keeps.ite (fun _ => h13) (fun _ => trainPath_keeps h13))

theorem bundleDown_keeps {s0 : State} {t : Nat} {n : Nat} {s : State} (h : Keeps s0 s) :
    Keeps s0 (bundleDown t n s) := by
  unfold bundleDown
  refine Keeps.ite (fun _ => ?_) (fun _ => ?_)
  · exact h
  · refine Keeps.ite (fun _ => ?_) (fun _ => ?_)
    · exact guideDown_keeps h
    · exact Keeps.ite (fun _ => guideDown_keeps h) (fun _ => Keeps.ite (fun _ => keepOut_keeps h) (fun _ => h))

theorem repairLane_keeps {s0 : State} {t : Nat} {n : Nat} {l : Nat} {s : State} (h : Keeps s0 s) :
    Keeps s0 (repairLane t n l s) := by
  unfold repairLane
  extract_lets v1 v2
  refine Keeps.ite (fun _ => ?_) (fun _ => ?_)
  · exact h
  · refine Keeps.ite (fun _ => ?_) (fun _ => ?_)
    · exact count32_keeps (changeBundle_keeps h)
    · split
      · exact raise_keeps (changeBundle_keeps h)
      · exact bundleDown_keeps (raise_keeps (changeBundle_keeps h))

theorem bundlesBoundary_keeps {s0 : State} {s : State} (h : Keeps s0 s) : Keeps s0 (bundlesBoundary s) := by
  unfold bundlesBoundary
  refine Keeps.fold ?_ (fun s1 x2 h3 => ?_)
  · exact h
  · split
    · extract_lets v7
      refine Keeps.mid (a := s0) v7 ?_ (fun h8 => ?_)
      · unfold v7
        exact Keeps.fold h3 (fun _ _ h11 => repairLane_keeps h11)
      clear_value v7
      exact changeBundle_keeps h8

theorem bundleLaneFails_keeps {s0 : State} {t : Nat} {n : Nat} {l : Nat} {s : State} (h : Keeps s0 s) :
    Keeps s0 (bundleLaneFails t n l s) := by
  unfold bundleLaneFails
  extract_lets v1 v2
  exact Keeps.ite (fun _ => h) (fun _ => raise_keeps (changeBundle_keeps h))

theorem checkParity_keeps {s0 : State} {t : Nat} {n : Nat} {h2 : Nat} {s : State} (h : Keeps s0 s) :
    Keeps s0 (checkParity t n h2 s) := by
  unfold checkParity
  extract_lets v1 v2 v3 v4
  refine Keeps.mid (a := s0) v4 ?_ (fun h5 => ?_)
  · unfold v4
    exact changeBundle_keeps h
  clear_value v4
  exact Keeps.fold h5 (fun _ _ h8 => Keeps.ite (fun _ => bundleLaneFails_keeps h8) (fun _ => h8))

theorem groupReceived_keeps {s0 : State} {t : Nat} {n : Nat} {g : Bytes} {s : State} (h : Keeps s0 s) :
    Keeps s0 (groupReceived t n g s) := by
  unfold groupReceived
  extract_lets v1 v2 v3 v4 v5 v6 v7 v8 v9
  refine Keeps.mid (a := s0) v4 ?_ (fun h10 => ?_)
  · unfold v4
    exact Keeps.ite (fun _ => h) (fun _ => checkParity_keeps h)
  clear_value v4
  refine Keeps.mid (a := s0) v5 ?_ (fun h11 => ?_)
  · unfold v5
    simp only [v2]
    exact changeBundle_keeps h10
  clear_value v5
  refine Keeps.mid (a := s0) v7 ?_ (fun h12 => ?_)
  · unfold v7
    exact Keeps.ite (fun _ => ackGroups_keeps h11) (fun _ => h11)
  clear_value v7
  refine Keeps.mid (a := s0) v8 ?_ (fun h13 => ?_)
  · unfold v8
    exact changeBundle_keeps h12
  clear_value v8
  refine Keeps.ite (fun _ => ?_) (fun _ => ?_)
  · exact h
  · refine Keeps.ite (fun _ => ?_) (fun _ => ?_)
    · simp only [v2]
      exact changeBundle_keeps h
    · refine Keeps.ite (fun _ => ?_) (fun _ => ?_)
      · exact h12
      · exact Keeps.ite (fun _ => Keeps.put h13 rfl rfl rfl rfl rfl) (fun _ => h13)

theorem execGroupReceived_keeps {s0 : State} {tower : BundleSide} {bundle : Fin 36} {group : Bytes} {s : State}
    (h : Keeps s0 s) :
    OutKeeps s0 (execGroupReceived tower bundle group s) := by
  unfold execGroupReceived
  exact OutKeeps.next (groupReceived_keeps h)

theorem groupReplay_keeps {s0 : State} {t : Nat} {n : Nat} {s : State} (h : Keeps s0 s) :
    Keeps s0 (groupReplay t n s) := by
  unfold groupReplay
  extract_lets v1
  split
  · exact h
  · refine Keeps.ite (fun _ => ?_) (fun _ => ?_)
    · exact h
    · extract_lets v8
      refine Keeps.mid (a := s0) v8 ?_ (fun h9 => ?_)
      · unfold v8
        exact advanceTo_keeps h
      clear_value v8
      exact count64_keeps (changeBundle_keeps h9)

theorem execGroupReplayTimer_keeps {s0 : State} {tower : BundleSide} {bundle : Fin 36} {s : State}
    (h : Keeps s0 s) :
    OutKeeps s0 (execGroupReplayTimer tower bundle s) := by
  unfold execGroupReplayTimer
  exact OutKeeps.next (groupReplay_keeps h)

theorem sendDiscovery_keeps {s0 : State} {kind : Nat} {r : Nat} {seq : Nat} {identity : BitVec 64} {s : State}
    (h : Keeps s0 s) :
    Keeps s0 (sendDiscovery kind r seq identity s) := by
  unfold sendDiscovery
  exact Keeps.put h rfl rfl rfl rfl rfl

theorem probe_keeps {s0 : State} {m : BitVec 128} {identity : BitVec 64} {s : State} (h : Keeps s0 s) :
    Keeps s0 (probe m identity s) := by
  unfold probe
  split
  · exact h
  · exact Keeps.ite (fun _ => sendDiscovery_keeps h) (fun _ => h)

theorem execProbe_keeps {s0 : State} {message : BitVec 128} {identity : BitVec 64} {s : State} (h : Keeps s0 s)
    :
    OutKeeps s0 (execProbe message identity s) := by
  unfold execProbe
  exact OutKeeps.next (probe_keeps h)

theorem changeDiscovery_keeps {s0 : State} {r : Nat} {f : Discovery → Discovery} {s : State} (h : Keeps s0 s) :
    Keeps s0 (changeDiscovery r f s) := by
  unfold changeDiscovery
  exact Keeps.put h rfl rfl rfl rfl rfl

theorem sendProbe_keeps {s0 : State} {r : Nat} {s : State} (h : Keeps s0 s) : Keeps s0 (sendProbe r s) := by
  unfold sendProbe
  extract_lets v1 v2 v3
  refine Keeps.mid (a := s0) v3 ?_ (fun h4 => ?_)
  · unfold v3
    exact Keeps.put h rfl rfl rfl rfl rfl
  clear_value v3
  exact changeDiscovery_keeps (sendDiscovery_keeps h4)

theorem nextBase_keeps {s0 : State} {b : Nat} {s : State} (h : Keeps s0 s) : Keeps s0 (nextBase b s) := by
  unfold nextBase
  exact Keeps.ite (fun _ => sendProbe_keeps h) (fun _ => h)

theorem discoveryFails_keeps {s0 : State} {r : Nat} {s : State} (h : Keeps s0 s) :
    Keeps s0 (discoveryFails r s) := by
  unfold discoveryFails
  split
  · extract_lets v6 v7 v8
    refine Keeps.mid (a := s0) v6 ?_ (fun h9 => ?_)
    · unfold v6
      exact changeDiscovery_keeps h
    clear_value v6
    refine Keeps.mid (a := s0) v7 ?_ (fun h10 => ?_)
    · unfold v7
      exact raise_keeps h9
    clear_value v7
    refine Keeps.mid (a := s0) v8 ?_ (fun h11 => ?_)
    · unfold v8
      exact keepOut_keeps h10
    clear_value v8
    exact Keeps.ite (fun _ => nextBase_keeps h11) (fun _ => h11)

theorem reply_keeps {s0 : State} {m : BitVec 128} {s : State} (h : Keeps s0 s) : Keeps s0 (reply m s) := by
  unfold reply
  split
  · exact h
  · extract_lets v6
    refine Keeps.ite (fun _ => ?_) (fun _ => ?_)
    · exact h
    · exact Keeps.ite (fun _ => sendDiscovery_keeps (changeDiscovery_keeps h)) (fun _ => discoveryFails_keeps h)

theorem execReply_keeps {s0 : State} {message : BitVec 128} {s : State} (h : Keeps s0 s) :
    OutKeeps s0 (execReply message s) := by
  unfold execReply
  exact OutKeeps.next (reply_keeps h)

theorem assign_keeps {s0 : State} {m : BitVec 128} {s : State} (h : Keeps s0 s) : Keeps s0 (assign m s) := by
  unfold assign
  split
  · exact h
  · exact Keeps.ite (fun _ => sendDiscovery_keeps (Keeps.put h rfl rfl rfl rfl rfl)) (fun _ => h)

theorem execAssign_keeps {s0 : State} {message : BitVec 128} {s : State} (h : Keeps s0 s) :
    OutKeeps s0 (execAssign message s) := by
  unfold execAssign
  exact OutKeeps.next (assign_keeps h)

theorem assigned_keeps {s0 : State} {m : BitVec 128} {s : State} (h : Keeps s0 s) :
    Keeps s0 (assigned m s) := by
  unfold assigned
  split
  · exact h
  · extract_lets v6 v7 v8
    refine Keeps.mid (a := s0) v8 ?_ (fun h9 => ?_)
    · unfold v8
      exact changeDiscovery_keeps (Keeps.put h rfl rfl rfl rfl rfl)
    clear_value v8
    refine Keeps.ite (fun _ => ?_) (fun _ => ?_)
    · exact h
    · refine Keeps.ite (fun _ => ?_) (fun _ => ?_)
      · exact nextBase_keeps (Keeps.fold h9 (fun _ _ h12 => sendProbe_keeps h12))
      · exact h9

theorem execAssigned_keeps {s0 : State} {message : BitVec 128} {s : State} (h : Keeps s0 s) :
    OutKeeps s0 (execAssigned message s) := by
  unfold execAssigned
  exact OutKeeps.next (assigned_keeps h)

theorem discoveryTimeout_keeps {s0 : State} {r : Nat} {s : State} (h : Keeps s0 s) :
    Keeps s0 (discoveryTimeout r s) := by
  unfold discoveryTimeout
  extract_lets v1 v2
  refine Keeps.mid (a := s0) v2 ?_ (fun h3 => ?_)
  · unfold v2
    exact advanceTo_keeps h
  clear_value v2
  refine Keeps.ite (fun _ => ?_) (fun _ => ?_)
  · exact h
  · exact Keeps.ite (fun _ => discoveryFails_keeps h3) (fun _ => sendProbe_keeps h3)

theorem execDiscoveryTimeout_keeps {s0 : State} {record : Fin 128} {s : State} (h : Keeps s0 s) :
    OutKeeps s0 (execDiscoveryTimeout record s) := by
  unfold execDiscoveryTimeout
  exact OutKeeps.next (discoveryTimeout_keeps h)

theorem changeBase_keeps {s0 : State} {b : Nat} {f : BaseDieState → BaseDieState} {s : State} (h : Keeps s0 s) :
    Keeps s0 (changeBase b f s) := by
  unfold changeBase
  exact Keeps.put h rfl rfl rfl rfl rfl

theorem baseResetAct_keeps {s0 : State} {a0 : Bytes} {a1 : State} (h : Keeps s0 a1) :
    WKeeps s0 (baseResetAct a0 a1) := by
  unfold baseResetAct
  extract_lets v1
  split
  · exact .refuse
  · split
    · exact .refuse
    · split
      · exact WKeeps.done h
      · exact WKeeps.done (changeBase_keeps h)

theorem execBaseResetCommand_keeps {s0 : State} {req : Req} {value : Bytes} {s : State} (h : Keeps s0 s) :
    OutKeeps s0 (execBaseResetCommand req value s) := by
  unfold execBaseResetCommand
  refine OutKeeps.next ?_
  refine serveWrite_keeps ?_ ?_
  · intro x1 s2 h3
    exact baseResetAct_keeps h3
  · exact h

theorem resetLayer_keeps {s0 : State} {b : Nat} {s : State} (h : Keeps s0 s) : Keeps s0 (resetLayer b s) := by
  unfold resetLayer
  extract_lets v1 v2 v3 v4 v5 v6
  refine Keeps.mid (a := s0) v2 ?_ (fun h7 => ?_)
  · unfold v2
    exact losePackets_keeps (resetArbitration_keeps h)
  clear_value v2
  refine Keeps.mid (a := s0) v6 ?_ (fun h8 => ?_)
  · unfold v6
    exact Keeps.put h7 rfl rfl rfl rfl rfl
  clear_value v6
  refine Keeps.fold ?_ (fun s9 x10 h11 => ?_)
  · exact h8
  · extract_lets v12
    refine Keeps.mid (a := s0) v12 ?_ (fun h13 => ?_)
    · unfold v12
      exact changeReceiver_keeps h11
    clear_value v12
    exact Keeps.ite (fun _ => startScrub_keeps h13) (fun _ => h13)

theorem resetFlight_keeps {s0 : State} {b : Nat} {x : Flight} {s : State} (h : Keeps s0 s) :
    Keeps s0 (resetFlight b x s) := by
  unfold resetFlight
  split
  · split
    · exact h
    · exact Keeps.ite (fun _ => endWithout_keeps h) (fun _ => changeRequest_keeps h)
  · exact Keeps.ite (fun _ => waitFor_keeps (forgetFlight_keeps h)) (fun _ => endFlight_keeps h)

theorem resetPorts_keeps {s0 : State} {b : Nat} {s : State} (h : Keeps s0 s) : Keeps s0 (resetPorts b s) := by
  unfold resetPorts
  extract_lets v1 v2 v3
  refine Keeps.mid (a := s0) v3 ?_ (fun h4 => ?_)
  · unfold v3
    exact Keeps.put h rfl rfl rfl rfl rfl
  clear_value v3
  exact Keeps.fold h4 (fun _ _ h7 => Keeps.ite (fun _ => h7) (fun _ => linkDown_keeps h7))

theorem resetIncoming_keeps {s0 : State} {ts : List Nat} {s : State} (h : Keeps s0 s) :
    Keeps s0 (resetIncoming ts s) := by
  unfold resetIncoming
  extract_lets v1 v2 v3 v4
  refine Keeps.mid (a := s0) v4 ?_ (fun h5 => ?_)
  · unfold v4
    exact Keeps.put h rfl rfl rfl rfl rfl
  clear_value v4
  refine Keeps.fold ?_ (fun s6 x7 h8 => ?_)
  · exact h5
  · split
    · exact respond_keeps h8

theorem assertReset_keeps {s0 : State} {b : Nat} {cause : Nat} {s : State} (h : Keeps s0 s) :
    Keeps s0 (assertReset b cause s) := by
  unfold assertReset
  extract_lets v1 v2 v3 v4 v5 v6 v7 v8
  refine Keeps.mid (a := s0) v3 ?_ (fun h9 => ?_)
  · unfold v3
    exact changeBase_keeps h
  clear_value v3
  refine Keeps.mid (a := s0) v4 ?_ (fun h10 => ?_)
  · unfold v4
    exact raise_keeps h9
  clear_value v4
  refine Keeps.mid (a := s0) v5 ?_ (fun h11 => ?_)
  · unfold v5
    exact resetLayer_keeps (lasersReset_keeps h10)
  clear_value v5
  refine Keeps.mid (a := s0) v6 ?_ (fun h12 => ?_)
  · unfold v6
    exact Keeps.fold h11 (fun _ _ h15 => resetFlight_keeps h15)
  clear_value v6
  refine Keeps.mid (a := s0) v7 ?_ (fun h16 => ?_)
  · unfold v7
    exact resetPorts_keeps (resetIncoming_keeps h12)
  clear_value v7
  refine Keeps.mid (a := s0) v8 ?_ (fun h17 => ?_)
  · unfold v8
    exact Keeps.fold h16 (fun _ _ h20 => partitionTdiFail_keeps (releaseRun_keeps h20))
  clear_value v8
  exact pumpAll_keeps h17

theorem drainDone_keeps {s0 : State} {b : Nat} {s : State} (h : Keeps s0 s) : Keeps s0 (drainDone b s) := by
  unfold drainDone
  exact Keeps.ite (fun _ => h) (fun _ => assertReset_keeps h)

theorem execDrainDone_keeps {s0 : State} {base : Fin 4} {s : State} (h : Keeps s0 s) :
    OutKeeps s0 (execDrainDone base s) := by
  unfold execDrainDone
  exact OutKeeps.next (drainDone_keeps h)

theorem drainTimeout_keeps {s0 : State} {b : Nat} {s : State} (h : Keeps s0 s) :
    Keeps s0 (drainTimeout b s) := by
  unfold drainTimeout
  split
  · exact h
  · extract_lets v6
    refine Keeps.mid (a := s0) v6 ?_ (fun h7 => ?_)
    · unfold v6
      exact advanceTo_keeps h
    clear_value v6
    exact raise_keeps (assertReset_keeps h7)

theorem execDrainTimeout_keeps {s0 : State} {base : Fin 4} {s : State} (h : Keeps s0 s) :
    OutKeeps s0 (execDrainTimeout base s) := by
  unfold execDrainTimeout
  exact OutKeeps.next (drainTimeout_keeps h)

theorem endWaiting_keeps {s0 : State} {b : Nat} {code : Nat} {p : Flight → Bool} {s : State} (h : Keeps s0 s) :
    Keeps s0 (endWaiting b code p s) := by
  unfold endWaiting
  exact pumpAll_keeps (Keeps.fold h (fun _ _ h3 => endFlight_keeps h3))

theorem holdBase_keeps {s0 : State} {b : Nat} {s : State} (h : Keeps s0 s) : Keeps s0 (holdBase b s) := by
  unfold holdBase
  extract_lets v1 v2
  refine Keeps.mid (a := s0) v1 ?_ (fun h3 => ?_)
  · unfold v1
    exact changeBase_keeps h
  clear_value v1
  refine Keeps.mid (a := s0) v2 ?_ (fun h4 => ?_)
  · unfold v2
    exact keepOut_keeps (raise_keeps h3)
  clear_value v2
  exact endWaiting_keeps h4

theorem uncommandedReset_keeps {s0 : State} {b : Nat} {cause : Nat} {s : State} (h : Keeps s0 s) :
    Keeps s0 (uncommandedReset b cause s) := by
  unfold uncommandedReset
  refine Keeps.ite (fun _ => ?_) (fun _ => ?_)
  · exact h
  · extract_lets v1
    refine Keeps.mid (a := s0) v1 ?_ (fun h2 => ?_)
    · unfold v1
      exact assertReset_keeps h
    clear_value v1
    exact Keeps.ite (fun _ => holdBase_keeps h2) (fun _ => h2)

theorem execUncommandedBaseReset_keeps {s0 : State} {base : Fin 4} {cause : Fin 3} {s : State} (h : Keeps s0 s)
    :
    OutKeeps s0 (execUncommandedBaseReset base cause s) := by
  unfold execUncommandedBaseReset
  exact OutKeeps.next (uncommandedReset_keeps h)

theorem retrainPaths_keeps {s0 : State} {ts : List Nat} {s : State} (h : Keeps s0 s) :
    Keeps s0 (retrainPaths ts s) := by
  unfold retrainPaths
  extract_lets v1
  exact trainPaths_keeps (Keeps.fold h (fun _ _ h4 => raise_keeps (count32_keeps h4)))

theorem baseReturn_keeps {s0 : State} {b : Nat} {s : State} (h : Keeps s0 s) : Keeps s0 (baseReturn b s) := by
  unfold baseReturn
  extract_lets v1 v2 v3 v4 v5 v6 v7 v8 v9 v10 v11
  refine Keeps.mid (a := s0) v5 ?_ (fun h12 => ?_)
  · unfold v5
    exact keepOut_keeps h
  clear_value v5
  refine Keeps.mid (a := s0) v6 ?_ (fun h13 => ?_)
  · unfold v6
    exact changeBase_keeps h12
  clear_value v6
  refine Keeps.mid (a := s0) v9 ?_ (fun h14 => ?_)
  · unfold v9
    exact Keeps.put h13 rfl rfl rfl rfl rfl
  clear_value v9
  refine Keeps.mid (a := s0) v10 ?_ (fun h15 => ?_)
  · unfold v10
    exact Keeps.fold (retrainPaths_keeps h14) (fun _ _ h18 => resumeScrub_keeps h18)
  clear_value v10
  refine Keeps.mid (a := s0) v11 ?_ (fun h19 => ?_)
  · unfold v11
    exact raise_keeps (lasersReturn_keeps h15)
  clear_value v11
  exact Keeps.ite (fun _ => h) (fun _ => wake_keeps h19)

theorem execBaseReturn_keeps {s0 : State} {base : Fin 4} {s : State} (h : Keeps s0 s) :
    OutKeeps s0 (execBaseReturn base s) := by
  unfold execBaseReturn
  exact OutKeeps.next (baseReturn_keeps h)

theorem readRetryLimit_keeps {s0 : State} {b : Nat} {s : State} (h : Keeps s0 s) :
    Keeps s0 (readRetryLimit b s) := by
  unfold readRetryLimit
  split
  · exact h
  · extract_lets v6
    refine Keeps.mid (a := s0) v6 ?_ (fun h7 => ?_)
    · unfold v6
      exact advanceTo_keeps h
    clear_value v6
    exact endWaiting_keeps h7

theorem execReadRetryLimit_keeps {s0 : State} {base : Fin 4} {s : State} (h : Keeps s0 s) :
    OutKeeps s0 (execReadRetryLimit base s) := by
  unfold execReadRetryLimit
  exact OutKeeps.next (readRetryLimit_keeps h)

theorem beginDiscovery_keeps {s0 : State} {bs : List Nat} {s : State} (h : Keeps s0 s) :
    Keeps s0 (beginDiscovery bs s) := by
  unfold beginDiscovery
  extract_lets v1 v2 v3
  refine Keeps.mid (a := s0) v3 ?_ (fun h4 => ?_)
  · unfold v3
    exact Keeps.put h rfl rfl rfl rfl rfl
  clear_value v3
  split
  · exact h4
  · exact sendProbe_keeps h4

theorem holdTower_keeps {s0 : State} {t : Nat} {s : State} (h : Keeps s0 s) : Keeps s0 (holdTower t s) := by
  unfold holdTower
  exact Keeps.fold h (fun _ _ h3 => raiseIf_keeps h3)

theorem startBundle_keeps {s0 : State} {t : Nat} {n : Nat} {errors : List Nat} {s : State} (h : Keeps s0 s) :
    Keeps s0 (startBundle t n errors s) := by
  unfold startBundle
  extract_lets v1 v2 v3 v4 v5 v6
  refine Keeps.mid (a := s0) v3 ?_ (fun h7 => ?_)
  · unfold v3
    exact changeBundle_keeps h
  clear_value v3
  refine Keeps.mid (a := s0) v4 ?_ (fun h8 => ?_)
  · unfold v4
    exact raiseIf_keeps h7
  clear_value v4
  refine Keeps.mid (a := s0) v5 ?_ (fun h9 => ?_)
  · unfold v5
    exact raiseIf_keeps h8
  clear_value v5
  refine Keeps.mid (a := s0) v6 ?_ (fun h10 => ?_)
  · unfold v6
    exact raise_keeps h9
  clear_value v6
  refine Keeps.ite (fun _ => ?_) (fun _ => ?_)
  · exact bundleDown_keeps (Keeps.ite (fun _ => holdTower_keeps h10) (fun _ => h10))
  · exact h9

theorem baseOutOfReset_keeps {s0 : State} {b : Nat} {s : State} (h : Keeps s0 s) :
    Keeps s0 (baseOutOfReset b s) := by
  unfold baseOutOfReset
  split
  · exact h
  · exact Keeps.ite (fun _ => h) (fun _ => beginDiscovery_keeps (changeBase_keeps (advanceTo_keeps h)))

theorem execBaseDieOutOfReset_keeps {s0 : State} {base : Fin 4} {s : State} (h : Keeps s0 s) :
    OutKeeps s0 (execBaseDieOutOfReset base s) := by
  unfold execBaseDieOutOfReset
  exact OutKeeps.next (baseOutOfReset_keeps h)

theorem noTransition_keeps {s0 : State} {t : Nat} {n : Nat} {l : Nat} {s : State} (h : Keeps s0 s) :
    Keeps s0 (noTransition t n l s) := by
  unfold noTransition
  exact Keeps.ite (fun _ => bundleLaneFails_keeps h) (fun _ => h)

theorem execLaneNoTransition_keeps {s0 : State} {tower : BundleSide} {bundle : Fin 36} {lane : Fin 68}
    {s : State} (h : Keeps s0 s) :
    OutKeeps s0 (execLaneNoTransition tower bundle lane s) := by
  unfold execLaneNoTransition
  exact OutKeeps.next (noTransition_keeps h)

theorem prbsInterval_keeps {s0 : State} {t : Nat} {n : Nat} {l : Nat} {errored : Bool} {s : State}
    (h : Keeps s0 s) :
    Keeps s0 (prbsInterval t n l errored s) := by
  unfold prbsInterval
  extract_lets v1 v2 v3 v4
  refine Keeps.mid (a := s0) v4 ?_ (fun h5 => ?_)
  · unfold v4
    exact changeBundle_keeps h
  clear_value v4
  exact Keeps.ite (fun _ => h) (fun _ => Keeps.ite (fun _ => bundleLaneFails_keeps h5) (fun _ => h5))

theorem execSparePoolPrbsInterval_keeps {s0 : State} {tower : BundleSide} {bundle : Fin 36} {lane : Fin 68}
    {errored : Bool} {s : State} (h : Keeps s0 s) :
    OutKeeps s0 (execSparePoolPrbsInterval tower bundle lane errored s) := by
  unfold execSparePoolPrbsInterval
  exact OutKeeps.next (prbsInterval_keeps h)

end Sys2Proof.Machine
end

