-- ==== Sys2Proof/Laws/KeepsClock.lean ====
section
/-! SUPPORT. What the operations of Machine/Clock.lean keep: one lemma for each. -/

set_option Elab.async false

namespace Sys2Proof.Machine

theorem joinClock_keeps {s0 : State} {t : Nat} {s : State} (h : Keeps s0 s) : Keeps s0 (joinClock t s) := by
  unfold joinClock
  exact Keeps.put h rfl rfl rfl rfl rfl

theorem switchDie_keeps {s0 : State} {old : Nat} {new : Nat} {t : Nat} {s : State} (h : Keeps s0 s) :
    Keeps s0 (switchDie old new t s) := by
  unfold switchDie
  refine Keeps.ite (fun _ => ?_) (fun _ => ?_)
  · exact joinClock_keeps h
  · extract_lets v1 v2 v3 v4 v5
    refine Keeps.mid (a := s0) v4 ?_ (fun h6 => ?_)
    · unfold v4
      exact Keeps.ite (fun _ => h) (fun _ => raise_keeps h)
    clear_value v4
    refine Keeps.ite (fun _ => ?_) (fun _ => ?_)
    · exact Keeps.put h rfl rfl rfl rfl rfl
    · exact Keeps.ite (fun _ => h6) (fun _ => Keeps.put h6 rfl rfl rfl rfl rfl)

theorem realignDie_keeps {s0 : State} {t : Nat} {s : State} (h : Keeps s0 s) : Keeps s0 (realignDie t s) := by
  unfold realignDie
  exact Keeps.fold h (fun _ _ h3 => addDebt_keeps h3)

theorem decideStep_keeps {s0 : State} {s : State} (h : Keeps s0 s) : Keeps s0 (decideStep s) := by
  unfold decideStep
  extract_lets v1 v2 v3 v4
  exact Keeps.ite (fun _ => h) (fun _ => Keeps.put h rfl rfl rfl rfl rfl)

theorem clockBoundary_keeps {s0 : State} {s : State} (h : Keeps s0 s) : Keeps s0 (clockBoundary s) := by
  unfold clockBoundary
  extract_lets v1 v2 v3 v4 v5 v6 v7 v8 v9
  refine Keeps.mid (a := s0) v2 ?_ (fun h10 => ?_)
  · unfold v2
    split
    · extract_lets v14 v15
      refine Keeps.mid (a := s0) v14 ?_ (fun h16 => ?_)
      · unfold v14
        exact Keeps.fold h (fun _ _ h19 => switchDie_keeps h19)
      clear_value v14
      exact raise_keeps (Keeps.put h16 rfl rfl rfl rfl rfl)
    · exact Keeps.fold h (fun _ _ h24 => joinClock_keeps h24)
  clear_value v2
  refine Keeps.mid (a := s0) v6 ?_ (fun h25 => ?_)
  · unfold v6
    exact Keeps.put h10 rfl rfl rfl rfl rfl
  clear_value v6
  refine Keeps.mid (a := s0) v7 ?_ (fun h26 => ?_)
  · unfold v7
    exact Keeps.fold h25 (fun _ _ h29 => realignDie_keeps h29)
  clear_value v7
  refine Keeps.mid (a := s0) v8 ?_ (fun h30 => ?_)
  · unfold v8
    exact decideStep_keeps h26
  clear_value v8
  split
  · exact raise_keeps (Keeps.put h30 rfl rfl rfl rfl rfl)
  · exact h30

theorem droopStretch_keeps {s0 : State} {t : Nat} {r : Nat} {droop : Nat} {senders : List Nat}
    {receivers : List Nat} {s : State} (h : Keeps s0 s) :
    Keeps s0 (droopStretch t r droop senders receivers s) := by
  unfold droopStretch
  refine Keeps.ite (fun _ => ?_) (fun _ => ?_)
  · exact h
  · extract_lets v1 v2
    refine Keeps.mid (a := s0) v1 ?_ (fun h3 => ?_)
    · unfold v1
      exact addDebt_keeps (count64_keeps h)
    clear_value v1
    refine Keeps.mid (a := s0) v2 ?_ (fun h4 => ?_)
    · unfold v2
      exact Keeps.fold h3 (fun _ _ h7 => holdSender_keeps h7)
    clear_value v2
    exact Keeps.ite (fun _ => h3) (fun _ => Keeps.fold h4 (fun _ _ h10 => holdReceiver_keeps h10))

theorem execDroopStretch_keeps {s0 : State} {tower : Tower} {region : Region} {droop : BitVec 8}
    {senders : List Cluster} {receivers : List Cluster} {s : State} (h : Keeps s0 s) :
    OutKeeps s0 (execDroopStretch tower region droop senders receivers s) := by
  unfold execDroopStretch
  exact OutKeeps.next (droopStretch_keeps h)

theorem crossingFault_keeps {s0 : State} {t : Nat} {k : Nat} {port : Nat} {cycle : Nat} {lines : Nat}
    {s : State} (h : Keeps s0 s) :
    Keeps s0 (crossingFault t k port cycle lines s) := by
  unfold crossingFault
  exact raise_keeps (Keeps.put h rfl rfl rfl rfl rfl)

theorem execCrossingFault_keeps {s0 : State} {tower : Tower} {cluster : Cluster} {port : Nat} {cycle : Nat}
    {lines : Nat} {s : State} (h : Keeps s0 s) :
    OutKeeps s0 (execCrossingFault tower cluster port cycle lines s) := by
  unfold execCrossingFault
  exact OutKeeps.next (crossingFault_keeps h)

theorem changeReference_keeps {s0 : State} {t : Nat} {f : Reference → Reference} {s : State} (h : Keeps s0 s) :
    Keeps s0 (changeReference t f s) := by
  unfold changeReference
  exact Keeps.put h rfl rfl rfl rfl rfl

theorem loseReference_keeps {s0 : State} {t : Nat} {s : State} (h : Keeps s0 s) :
    Keeps s0 (loseReference t s) := by
  unfold loseReference
  refine Keeps.ite (fun _ => ?_) (fun _ => ?_)
  · exact h
  · extract_lets v1
    refine Keeps.mid (a := s0) v1 ?_ (fun h2 => ?_)
    · unfold v1
      exact raise_keeps (changeReference_keeps h)
    clear_value v1
    exact changeReceiver_keeps h2

theorem execReferenceLoss_keeps {s0 : State} {tower : Tower} {s : State} (h : Keeps s0 s) :
    OutKeeps s0 (execReferenceLoss tower s) := by
  unfold execReferenceLoss
  exact OutKeeps.next (loseReference_keeps h)

theorem returnReference_keeps {s0 : State} {t : Nat} {s : State} (h : Keeps s0 s) :
    Keeps s0 (returnReference t s) := by
  unfold returnReference
  exact Keeps.ite (fun _ => h) (fun _ => changeReference_keeps h)

theorem execReferenceReturn_keeps {s0 : State} {tower : Tower} {s : State} (h : Keeps s0 s) :
    OutKeeps s0 (execReferenceReturn tower s) := by
  unfold execReferenceReturn
  exact OutKeeps.next (returnReference_keeps h)

theorem holdoverExpiry_keeps {s0 : State} {t : Nat} {s : State} (h : Keeps s0 s) :
    Keeps s0 (holdoverExpiry t s) := by
  unfold holdoverExpiry
  split
  · exact h
  · exact Keeps.ite (fun _ => h) (fun _ => keepOut_keeps (changeReference_keeps (advanceTo_keeps h)))

theorem execReferenceHoldoverExpiry_keeps {s0 : State} {tower : Tower} {s : State} (h : Keeps s0 s) :
    OutKeeps s0 (execReferenceHoldoverExpiry tower s) := by
  unfold execReferenceHoldoverExpiry
  exact OutKeeps.next (holdoverExpiry_keeps h)

theorem clockAct_keeps {s0 : State} {a0 : Bytes} {a1 : State} (h : Keeps s0 a1) :
    WKeeps s0 (clockAct a0 a1) := by
  unfold clockAct
  extract_lets v1
  split
  · exact WKeeps.done (decideStep_keeps (setDictNat_keeps h))
  · exact .refuse

theorem execRequestedClockWrite_keeps {s0 : State} {req : Req} {value : Bytes} {s : State} (h : Keeps s0 s) :
    OutKeeps s0 (execRequestedClockWrite req value s) := by
  unfold execRequestedClockWrite
  refine OutKeeps.next ?_
  refine serveWrite_keeps ?_ ?_
  · intro x1 s2 h3
    exact clockAct_keeps h3
  · exact h

theorem rampDone_keeps {s0 : State} {s : State} (h : Keeps s0 s) : Keeps s0 (rampDone s) := by
  unfold rampDone
  split
  · exact h
  · extract_lets v7 v8
    refine Keeps.mid (a := s0) v7 ?_ (fun h9 => ?_)
    · unfold v7
      exact advanceTo_keeps h
    clear_value v7
    exact Keeps.put h9 rfl rfl rfl rfl rfl

theorem execVcoreRampDone_keeps {s0 : State} {s : State} (h : Keeps s0 s) :
    OutKeeps s0 (execVcoreRampDone s) := by
  unfold execVcoreRampDone
  exact OutKeeps.next (rampDone_keeps h)

theorem pllLocked_keeps {s0 : State} {t : Nat} {s : State} (h : Keeps s0 s) : Keeps s0 (pllLocked t s) := by
  unfold pllLocked
  exact Keeps.ite (fun _ => Keeps.put h rfl rfl rfl rfl rfl) (fun _ => h)

theorem execPllLocked_keeps {s0 : State} {tower : Tower} {s : State} (h : Keeps s0 s) :
    OutKeeps s0 (execPllLocked tower s) := by
  unfold execPllLocked
  exact OutKeeps.next (pllLocked_keeps h)

theorem pllLockFail_keeps {s0 : State} {t : Nat} {s : State} (h : Keeps s0 s) : Keeps s0 (pllLockFail t s) := by
  unfold pllLockFail
  refine Keeps.ite (fun _ => ?_) (fun _ => ?_)
  · exact h
  · extract_lets v1 v2
    refine Keeps.mid (a := s0) v1 ?_ (fun h3 => ?_)
    · unfold v1
      exact advanceTo_keeps h
    clear_value v1
    exact raise_keeps (Keeps.put h3 rfl rfl rfl rfl rfl)

theorem execPllLockFail_keeps {s0 : State} {tower : Tower} {s : State} (h : Keeps s0 s) :
    OutKeeps s0 (execPllLockFail tower s) := by
  unfold execPllLockFail
  exact OutKeeps.next (pllLockFail_keeps h)

theorem noteReading_keeps {s0 : State} {t : Nat} {r : Nat} {reading : Nat} {s : State} (h : Keeps s0 s) :
    Keeps s0 (noteReading t r reading s) := by
  unfold noteReading
  extract_lets v1 v2 v3
  exact Keeps.put h rfl rfl rfl rfl rfl

theorem replicaWarn_keeps {s0 : State} {t : Nat} {r : Nat} {reading : Nat} {s : State} (h : Keeps s0 s) :
    Keeps s0 (replicaWarn t r reading s) := by
  unfold replicaWarn
  refine Keeps.ite (fun _ => ?_) (fun _ => ?_)
  · exact h
  · extract_lets v1 v2 v3 v4 v5 v6 v7
    refine Keeps.mid (a := s0) v1 ?_ (fun h8 => ?_)
    · unfold v1
      exact noteReading_keeps h
    clear_value v1
    refine Keeps.mid (a := s0) v4 ?_ (fun h9 => ?_)
    · unfold v4
      exact Keeps.ite (fun _ => Keeps.put h8 rfl rfl rfl rfl rfl) (fun _ => h8)
    clear_value v4
    refine Keeps.mid (a := s0) v5 ?_ (fun h10 => ?_)
    · unfold v5
      exact Keeps.ite (fun _ => addDebt_keeps (count64_keeps h9)) (fun _ => h9)
    clear_value v5
    exact Keeps.ite (fun _ => raise_keeps (Keeps.put h10 rfl rfl rfl rfl rfl)) (fun _ => h10)

theorem execReplicaWarn_keeps {s0 : State} {tower : Tower} {region : Region} {reading : BitVec 6} {s : State}
    (h : Keeps s0 s) :
    OutKeeps s0 (execReplicaWarn tower region reading s) := by
  unfold execReplicaWarn
  exact OutKeeps.next (replicaWarn_keeps h)

theorem replicaCritical_keeps {s0 : State} {t : Nat} {r : Nat} {reading : Nat} {s : State} (h : Keeps s0 s) :
    Keeps s0 (replicaCritical t r reading s) := by
  unfold replicaCritical
  refine Keeps.ite (fun _ => ?_) (fun _ => ?_)
  · exact h
  · extract_lets v1 v2 v3
    refine Keeps.mid (a := s0) v1 ?_ (fun h4 => ?_)
    · unfold v1
      exact raise_keeps (noteReading_keeps h)
    clear_value v1
    refine Keeps.mid (a := s0) v2 ?_ (fun h5 => ?_)
    · unfold v2
      exact addDebt_keeps (count64_keeps h4)
    clear_value v2
    exact Keeps.put h5 rfl rfl rfl rfl rfl

theorem execReplicaCritical_keeps {s0 : State} {tower : Tower} {region : Region} {reading : BitVec 6}
    {s : State} (h : Keeps s0 s) :
    OutKeeps s0 (execReplicaCritical tower region reading s) := by
  unfold execReplicaCritical
  exact OutKeeps.next (replicaCritical_keeps h)

theorem replicaRelease_keeps {s0 : State} {s : State} (h : Keeps s0 s) : Keeps s0 (replicaRelease s) := by
  unfold replicaRelease
  split
  · extract_lets v7 v8 v9
    refine Keeps.mid (a := s0) v7 ?_ (fun h10 => ?_)
    · unfold v7
      exact advanceTo_keeps h
    clear_value v7
    exact decideStep_keeps (Keeps.put h10 rfl rfl rfl rfl rfl)
  · exact h

theorem execReplicaRelease_keeps {s0 : State} {s : State} (h : Keeps s0 s) :
    OutKeeps s0 (execReplicaRelease s) := by
  unfold execReplicaRelease
  exact OutKeeps.next (replicaRelease_keeps h)

theorem execRefclkLoss_keeps {s0 : State} {s : State} (h : Keeps s0 s) : OutKeeps s0 (execRefclkLoss s) := by
  unfold execRefclkLoss
  exact OutKeeps.next (Keeps.ite (fun _ => h) (fun _ => Keeps.put h rfl rfl rfl rfl rfl))

theorem refclkExpiry_keeps {s0 : State} {s : State} (h : Keeps s0 s) : Keeps s0 (refclkExpiry s) := by
  unfold refclkExpiry
  split
  · exact h
  · refine Keeps.ite (fun _ => ?_) (fun _ => ?_)
    · exact h
    · extract_lets v6 v7 v8 v9
      refine Keeps.mid (a := s0) v6 ?_ (fun h10 => ?_)
      · unfold v6
        exact advanceTo_keeps h
      clear_value v6
      refine Keeps.mid (a := s0) v9 ?_ (fun h11 => ?_)
      · unfold v9
        exact Keeps.put h10 rfl rfl rfl rfl rfl
      clear_value v9
      exact Keeps.fold h11 (fun _ _ h14 => loseReference_keeps h14)

theorem execRefclkHoldoverExpiry_keeps {s0 : State} {s : State} (h : Keeps s0 s) :
    OutKeeps s0 (execRefclkHoldoverExpiry s) := by
  unfold execRefclkHoldoverExpiry
  exact OutKeeps.next (refclkExpiry_keeps h)

theorem passFrames_keeps {s0 : State} {s : State} (h : Keeps s0 s) : Keeps s0 (passFrames s) := by
  unfold passFrames
  extract_lets v1 v2 v3
  exact Keeps.put h rfl rfl rfl rfl rfl

theorem refclkReturn_keeps {s0 : State} {s : State} (h : Keeps s0 s) : Keeps s0 (refclkReturn s) := by
  unfold refclkReturn
  extract_lets v1 v2 v3 v4
  refine Keeps.mid (a := s0) v2 ?_ (fun h5 => ?_)
  · unfold v2
    exact Keeps.put h rfl rfl rfl rfl rfl
  clear_value v2
  split
  · exact h5
  · extract_lets v11
    refine Keeps.mid (a := s0) v11 ?_ (fun h12 => ?_)
    · unfold v11
      exact passFrames_keeps (Keeps.put h5 rfl rfl rfl rfl rfl)
    clear_value v11
    exact Keeps.fold h12 (fun _ _ h15 => returnReference_keeps h15)

theorem execRefclkReturn_keeps {s0 : State} {s : State} (h : Keeps s0 s) :
    OutKeeps s0 (execRefclkReturn s) := by
  unfold execRefclkReturn
  exact OutKeeps.next (refclkReturn_keeps h)

theorem alignmentDone_keeps {s0 : State} {t : Nat} {s : State} (h : Keeps s0 s) :
    Keeps s0 (alignmentDone t s) := by
  unfold alignmentDone
  exact Keeps.put h rfl rfl rfl rfl rfl

theorem execClockAlignmentDone_keeps {s0 : State} {tower : Tower} {s : State} (h : Keeps s0 s) :
    OutKeeps s0 (execClockAlignmentDone tower s) := by
  unfold execClockAlignmentDone
  exact OutKeeps.next (alignmentDone_keeps h)

end Sys2Proof.Machine
end

