-- ==== Sys2Proof/Laws/KeepsRecorder.lean ====
section
/-! SUPPORT. What the operations of Machine/Recorder.lean keep: one lemma for each. -/

set_option Elab.async false

namespace Sys2Proof.Machine

theorem copyCritical_keeps {s0 : State} {r : Record} {s : State} (h : Keeps s0 s) :
    Keeps s0 (copyCritical r s) := by
  unfold copyCritical
  extract_lets v1 v2
  refine Keeps.ite (fun _ => ?_) (fun _ => ?_)
  · exact raise_keeps (Keeps.put h rfl rfl rfl rfl rfl)
  · exact Keeps.put h rfl rfl rfl rfl rfl

theorem changeBucket_keeps {s0 : State} {code : Nat} {f : Bucket → Bucket} {s : State} (h : Keeps s0 s) :
    Keeps s0 (changeBucket code f s) := by
  unfold changeBucket
  exact Keeps.put h rfl rfl rfl rfl rfl

theorem arriveCritical_keeps {s0 : State} {r : Record} {s : State} (h : Keeps s0 s) :
    Keeps s0 (arriveCritical r s) := by
  unfold arriveCritical
  extract_lets v1 v2 v3 v4
  refine Keeps.mid (a := s0) v3 ?_ (fun h5 => ?_)
  · unfold v3
    exact copyCritical_keeps h
  clear_value v3
  refine Keeps.ite (fun _ => ?_) (fun _ => ?_)
  · exact Keeps.put h5 rfl rfl rfl rfl rfl
  · exact changeBucket_keeps (Keeps.put h5 rfl rfl rfl rfl rfl)

theorem suppressEvent_keeps {s0 : State} {code : Nat} {s : State} (h : Keeps s0 s) :
    Keeps s0 (suppressEvent code s) := by
  unfold suppressEvent
  exact changeBucket_keeps (Keeps.put h rfl rfl rfl rfl rfl)

theorem takeBucketToken_keeps {s0 : State} {code : Nat} {s : State} (h : Keeps s0 s) :
    Keeps s0 (takeBucketToken code s) := by
  unfold takeBucketToken
  exact changeBucket_keeps h

theorem arriveOrdinary_keeps {s0 : State} {r : Record} {s : State} (h : Keeps s0 s) :
    Keeps s0 (arriveOrdinary r s) := by
  unfold arriveOrdinary
  extract_lets v1 v2 v3 v4 v5 v6
  refine Keeps.mid (a := s0) v5 ?_ (fun h7 => ?_)
  · unfold v5
    exact Keeps.ite (fun _ => h) (fun _ => takeBucketToken_keeps h)
  clear_value v5
  refine Keeps.ite (fun _ => ?_) (fun _ => ?_)
  · exact Keeps.put h rfl rfl rfl rfl rfl
  · exact changeBucket_keeps (Keeps.put h7 rfl rfl rfl rfl rfl)

theorem arrive_keeps {s0 : State} {e : Event} {s : State} (h : Keeps s0 s) : Keeps s0 (arrive e s) := by
  unfold arrive
  extract_lets v1 v2
  refine Keeps.ite (fun _ => ?_) (fun _ => ?_)
  · exact arriveCritical_keeps h
  · exact Keeps.ite (fun _ => suppressEvent_keeps h) (fun _ => arriveOrdinary_keeps h)

theorem arriveAll_keeps {s0 : State} {s : State} (h : Keeps s0 s) : Keeps s0 (arriveAll s) := by
  unfold arriveAll
  exact Keeps.fold (Keeps.put h rfl rfl rfl rfl rfl) (fun _ _ h3 => arrive_keeps h3)

theorem putRingRecord_keeps {s0 : State} {r : Record} {s : State} (h : Keeps s0 s) :
    Keeps s0 (putRingRecord r s) := by
  unfold putRingRecord
  extract_lets v1 v2 v3
  exact Keeps.put h rfl rfl rfl rfl rfl

theorem thawRing_keeps {s0 : State} {s : State} (h : Keeps s0 s) : Keeps s0 (thawRing s) := by
  unfold thawRing
  extract_lets v1 v2 v3 v4
  refine Keeps.mid (a := s0) v4 ?_ (fun h5 => ?_)
  · unfold v4
    exact Keeps.fold (Keeps.put h rfl rfl rfl rfl rfl) (fun _ _ h8 => putRingRecord_keeps h8)
  clear_value v4
  exact raiseIf_keeps (raise_keeps h5)

theorem freezeAct_keeps {s0 : State} {a0 : Bytes} {a1 : State} (h : Keeps s0 a1) :
    WKeeps s0 (freezeAct a0 a1) := by
  unfold freezeAct
  extract_lets v1 v2
  split
  · split
    · exact .refuse
    · exact WKeeps.done (Keeps.put h rfl rfl rfl rfl rfl)
  · split
    · split
      · exact WKeeps.done (thawRing_keeps h)
      · exact WKeeps.done h
    · exact .refuse

theorem clearLogAct_keeps {s0 : State} {a0 : Bytes} {a1 : State} (h : Keeps s0 a1) :
    WKeeps s0 (clearLogAct a0 a1) := by
  unfold clearLogAct
  split
  · exact .refuse
  · split
    · exact WKeeps.done (Keeps.put h rfl rfl rfl rfl rfl)
    · exact .refuse

theorem recordEvent_keeps {s0 : State} {n : Nat} {s : State} (h : Keeps s0 s) : Keeps s0 (recordEvent n s) := by
  unfold recordEvent
  split
  · exact h
  · exact arrive_keeps (Keeps.put h rfl rfl rfl rfl rfl)

theorem startRecorder_keeps {s0 : State} {s : State} (h : Keeps s0 s) : Keeps s0 (startRecorder s) := by
  unfold startRecorder
  extract_lets v1 v2 v3 v4 v5
  refine Keeps.mid (a := s0) v3 ?_ (fun h6 => ?_)
  · unfold v3
    exact Keeps.putStart h rfl rfl rfl rfl rfl
  clear_value v3
  refine Keeps.mid (a := s0) v4 ?_ (fun h7 => ?_)
  · unfold v4
    exact recordEvent_keeps (raise_keeps h6)
  clear_value v4
  exact reportFull_keeps (Keeps.put h7 rfl rfl rfl rfl rfl)

theorem execEventRecord_keeps {s0 : State} {index : Nat} {s : State} (h : Keeps s0 s) :
    OutKeeps s0 (execEventRecord index s) := by
  unfold execEventRecord
  exact OutKeeps.next (recordEvent_keeps h)

theorem writeRingRecord_keeps {s0 : State} {r : Record} {s : State} (h : Keeps s0 s) :
    Keeps s0 (writeRingRecord r s) := by
  unfold writeRingRecord
  extract_lets v1 v2
  refine Keeps.ite (fun _ => ?_) (fun _ => ?_)
  · simp only [v1]
    exact eventNotice_keeps (putRingRecord_keeps h)
  · refine Keeps.ite (fun _ => ?_) (fun _ => ?_)
    · simp only [v1]
      exact eventNotice_keeps (Keeps.put h rfl rfl rfl rfl rfl)
    · exact changeBucket_keeps (Keeps.put h rfl rfl rfl rfl rfl)

theorem ringStep_keeps {s0 : State} {s : State} (h : Keeps s0 s) : Keeps s0 (ringStep s) := by
  unfold ringStep
  split
  · exact writeRingRecord_keeps (Keeps.put h rfl rfl rfl rfl rfl)
  · exact writeRingRecord_keeps (Keeps.put h rfl rfl rfl rfl rfl)
  · exact h

theorem execRecordRingWrite_keeps {s0 : State} {s : State} (h : Keeps s0 s) :
    OutKeeps s0 (execRecordRingWrite s) := by
  unfold execRecordRingWrite
  exact OutKeeps.next (ringStep_keeps h)

theorem refillBucket_keeps {s0 : State} {code : Nat} {s : State} (h : Keeps s0 s) :
    Keeps s0 (refillBucket code s) := by
  unfold refillBucket
  extract_lets v1
  split
  · refine Keeps.ite (fun _ => ?_) (fun _ => ?_)
    · exact h
    · extract_lets v6
      exact changeBucket_keeps (advanceTo_keeps h)

theorem execTokenBucketRefill_keeps {s0 : State} {code : BitVec 16} {s : State} (h : Keeps s0 s) :
    OutKeeps s0 (execTokenBucketRefill code s) := by
  unfold execTokenBucketRefill
  exact OutKeeps.next (refillBucket_keeps h)

theorem execFreeze_keeps {s0 : State} {req : Req} {value : Bytes} {s : State} (h : Keeps s0 s) :
    OutKeeps s0 (execFreeze req value s) := by
  unfold execFreeze
  refine OutKeeps.next ?_
  refine Keeps.ite (fun _ => ?_) (fun _ => ?_)
  · refine serveWrite_keeps ?_ ?_
    · intro x1 s2 h3
      exact freezeAct_keeps h3
    · exact h
  · exact h

theorem execThaw_keeps {s0 : State} {req : Req} {value : Bytes} {s : State} (h : Keeps s0 s) :
    OutKeeps s0 (execThaw req value s) := by
  unfold execThaw
  refine OutKeeps.next ?_
  refine Keeps.ite (fun _ => ?_) (fun _ => ?_)
  · refine serveWrite_keeps ?_ ?_
    · intro x1 s2 h3
      exact freezeAct_keeps h3
    · exact h
  · exact h

theorem freezeEnds_keeps {s0 : State} {s : State} (h : Keeps s0 s) : Keeps s0 (freezeEnds s) := by
  unfold freezeEnds
  exact Keeps.ite (fun _ => thawRing_keeps (advanceTo_keeps h)) (fun _ => h)

theorem execFreezeLimit_keeps {s0 : State} {s : State} (h : Keeps s0 s) : OutKeeps s0 (execFreezeLimit s) := by
  unfold execFreezeLimit
  exact OutKeeps.next (freezeEnds_keeps h)

theorem execClearCriticalLog_keeps {s0 : State} {req : Req} {value : Bytes} {s : State} (h : Keeps s0 s) :
    OutKeeps s0 (execClearCriticalLog req value s) := by
  unfold execClearCriticalLog
  refine OutKeeps.next ?_
  refine serveWrite_keeps ?_ ?_
  · intro x1 s2 h3
    exact clearLogAct_keeps h3
  · exact h

end Sys2Proof.Machine
end

