-- ==== Sys2Proof/Laws/KeepsPower.lean ====
section
/-! SUPPORT. What the operations of Machine/Power.lean keep: one lemma for each. -/

set_option Elab.async false

namespace Sys2Proof.Machine

theorem setCapLimit_keeps {s0 : State} {c : Option Nat} {s : State} (h : Keeps s0 s) :
    Keeps s0 (setCapLimit c s) := by
  unfold setCapLimit
  exact raise_keeps (Keeps.put h rfl rfl rfl rfl rfl)

theorem lowerCapLimit_keeps {s0 : State} {s : State} (h : Keeps s0 s) : Keeps s0 (lowerCapLimit s) := by
  unfold lowerCapLimit
  extract_lets v1 v2 v3
  exact Keeps.ite (fun _ => setCapLimit_keeps (Keeps.put h rfl rfl rfl rfl rfl)) (fun _ => h)

theorem powerBoundary_keeps {s0 : State} {s : State} (h : Keeps s0 s) : Keeps s0 (powerBoundary s) := by
  unfold powerBoundary
  extract_lets v1 v2 v3 v4 v5
  refine Keeps.mid (a := s0) v1 ?_ (fun h6 => ?_)
  · unfold v1
    exact lowerCapLimit_keeps h
  clear_value v1
  refine Keeps.mid (a := s0) v4 ?_ (fun h7 => ?_)
  · unfold v4
    exact Keeps.put h6 rfl rfl rfl rfl rfl
  clear_value v4
  exact Keeps.ite (fun _ => raise_keeps (Keeps.put h7 rfl rfl rfl rfl rfl)) (fun _ => h7)

theorem changeDiode_keeps {s0 : State} {i : Nat} {f : Diode → Diode} {s : State} (h : Keeps s0 s) :
    Keeps s0 (changeDiode i f s) := by
  unfold changeDiode
  exact Keeps.put h rfl rfl rfl rfl rfl

theorem breakDiode_keeps {s0 : State} {i : Nat} {r : Option Int} {s : State} (h : Keeps s0 s) :
    Keeps s0 (breakDiode i r s) := by
  unfold breakDiode
  exact raise_keeps (changeDiode_keeps h)

theorem sampleDiode_keeps {s0 : State} {i : Nat} {r : Option Int} {s : State} (h : Keeps s0 s) :
    Keeps s0 (sampleDiode i r s) := by
  unfold sampleDiode
  extract_lets v1
  split
  · exact breakDiode_keeps h
  · extract_lets v5
    exact Keeps.ite (fun _ => breakDiode_keeps h) (fun _ => changeDiode_keeps h)

theorem compareDiode_keeps {s0 : State} {i : Nat} {reading : Nat → Option Int} {s : State} (h : Keeps s0 s) :
    Keeps s0 (compareDiode i reading s) := by
  unfold compareDiode
  extract_lets v1 v2
  split
  · refine Keeps.ite (fun _ => ?_) (fun _ => ?_)
    · exact changeDiode_keeps h
    · exact Keeps.ite (fun _ => breakDiode_keeps h) (fun _ => changeDiode_keeps h)
  · exact changeDiode_keeps h

theorem holdRails_keeps {s0 : State} {s : State} (h : Keeps s0 s) : Keeps s0 (holdRails s) := by
  unfold holdRails
  extract_lets v1 v2 v3
  refine Keeps.mid (a := s0) v1 ?_ (fun h4 => ?_)
  · unfold v1
    exact stopDevice_keeps h
  clear_value v1
  exact Keeps.put h4 rfl rfl rfl rfl rfl

theorem setReading_keeps {s0 : State} {i : Nat} {reading : Nat → Option Int} {s : State} (h : Keeps s0 s) :
    Keeps s0 (setReading i reading s) := by
  unfold setReading
  refine Keeps.ite (fun _ => ?_) (fun _ => ?_)
  · exact Keeps.put h rfl rfl rfl rfl rfl
  · split
    · exact h
    · extract_lets v7 v8
      refine Keeps.mid (a := s0) v8 ?_ (fun h9 => ?_)
      · unfold v8
        exact Keeps.put h rfl rfl rfl rfl rfl
      clear_value v8
      exact raiseIf_keeps (changeDiode_keeps h9)

theorem sampleStack_keeps {s0 : State} {t : Nat} {s : State} (h : Keeps s0 s) : Keeps s0 (sampleStack t s) := by
  unfold sampleStack
  extract_lets v1 v2 v3 v4
  refine Keeps.mid (a := s0) v4 ?_ (fun h5 => ?_)
  · unfold v4
    exact changeStack_keeps h
  clear_value v4
  refine Keeps.ite (fun _ => ?_) (fun _ => ?_)
  · exact changeStack_keeps h5
  · refine Keeps.ite (fun _ => ?_) (fun _ => ?_)
    · refine Keeps.ite (fun _ => ?_) (fun _ => ?_)
      · exact raise_keeps (changeStack_keeps (pauseScrub_keeps h5))
      · exact raise_keeps (changeStack_keeps h5)
    · exact Keeps.ite (fun _ => changeStack_keeps h5) (fun _ => h5)

theorem oxTrip_keeps {s0 : State} {i : Nat} {reading : Int} {s : State} (h : Keeps s0 s) :
    Keeps s0 (oxTrip i reading s) := by
  unfold oxTrip
  exact Keeps.ite (fun _ => h) (fun _ => stopDevice_keeps (Keeps.put h rfl rfl rfl rfl rfl))

theorem muleTrip_keeps {s0 : State} {s : State} (h : Keeps s0 s) : Keeps s0 (muleTrip s) := by
  unfold muleTrip
  extract_lets v1
  refine Keeps.ite (fun _ => ?_) (fun _ => ?_)
  · split
    · rename_i y5
      refine Keeps.ofPair1 (a := s0) y5 ?_ (fun h6 => ?_)
      · exact draw_keeps h
      exact oxTrip_keeps h6
  · split
    · exact oxTrip_keeps h
    · exact h

theorem requestThrottle_keeps {s0 : State} {x : Nat × Int} {s : State} (h : Keeps s0 s) :
    Keeps s0 (requestThrottle x s) := by
  unfold requestThrottle
  exact notify_keeps (raise_keeps (Keeps.put h rfl rfl rfl rfl rfl))

theorem enforceThrottle_keeps {s0 : State} {x : Nat × Int} {s : State} (h : Keeps s0 s) :
    Keeps s0 (enforceThrottle x s) := by
  unfold enforceThrottle
  extract_lets v1 v2
  exact notify_keeps (raise_keeps (Keeps.put h rfl rfl rfl rfl rfl))

theorem throttleSample_keeps {s0 : State} {s : State} (h : Keeps s0 s) : Keeps s0 (throttleSample s) := by
  unfold throttleSample
  extract_lets v1 v2 v3 v4
  refine Keeps.mid (a := s0) v2 ?_ (fun h5 => ?_)
  · unfold v2
    split
    · exact requestThrottle_keeps h
    · exact h
  clear_value v2
  split
  · exact h5
  · exact Keeps.ite (fun _ => enforceThrottle_keeps h5) (fun _ => Keeps.put h5 rfl rfl rfl rfl rfl)
  · refine Keeps.ite (fun _ => ?_) (fun _ => ?_)
    · exact Keeps.put h5 rfl rfl rfl rfl rfl
    · refine Keeps.ite (fun _ => ?_) (fun _ => ?_)
      · exact notify_keeps (Keeps.put h5 rfl rfl rfl rfl rfl)
      · exact Keeps.put h5 rfl rfl rfl rfl rfl
  · exact Keeps.put h5 rfl rfl rfl rfl rfl

theorem diodeSample_keeps {s0 : State} {readings : List Int} {s : State} (h : Keeps s0 s) :
    Keeps s0 (diodeSample readings s) := by
  unfold diodeSample
  refine Keeps.ite (fun _ => ?_) (fun _ => ?_)
  · exact h
  · extract_lets v1 v2 v3 v4 v5 v6
    refine Keeps.mid (a := s0) v3 ?_ (fun h7 => ?_)
    · unfold v3
      exact Keeps.fold h (fun _ _ h10 => sampleDiode_keeps h10)
    clear_value v3
    refine Keeps.mid (a := s0) v4 ?_ (fun h11 => ?_)
    · unfold v4
      exact Keeps.fold h7 (fun _ _ h14 => compareDiode_keeps h14)
    clear_value v4
    refine Keeps.mid (a := s0) v5 ?_ (fun h15 => ?_)
    · unfold v5
      exact Keeps.fold h11 (fun _ _ h18 => setReading_keeps h18)
    clear_value v5
    refine Keeps.mid (a := s0) v6 ?_ (fun h19 => ?_)
    · unfold v6
      exact Keeps.fold h15 (fun _ _ h22 => sampleStack_keeps h22)
    clear_value v6
    exact Keeps.ite (fun _ => holdRails_keeps h11) (fun _ => muleTrip_keeps (throttleSample_keeps h19))

theorem execDiodeSample_keeps {s0 : State} {readings : List Int} {s : State} (h : Keeps s0 s) :
    OutKeeps s0 (execDiodeSample readings s) := by
  unfold execDiodeSample
  exact OutKeeps.next (diodeSample_keeps h)

theorem chooseInput_keeps {s0 : State} {s : State} (h : Keeps s0 s) : Keeps s0 (chooseInput s) := by
  unfold chooseInput
  extract_lets v1 v2 v3 v4
  refine Keeps.mid (a := s0) v4 ?_ (fun h5 => ?_)
  · unfold v4
    exact Keeps.put h rfl rfl rfl rfl rfl
  clear_value v4
  refine Keeps.ite (fun _ => ?_) (fun _ => ?_)
  · exact h5
  · refine Keeps.ite (fun _ => ?_) (fun _ => ?_)
    · exact raise_keeps (count32_keeps h5)
    · exact Keeps.ite (fun _ => raise_keeps (count32_keeps h5)) (fun _ => h5)

theorem changeB_keeps {s0 : State} {good : Bool} {s : State} (h : Keeps s0 s) : Keeps s0 (changeB good s) := by
  unfold changeB
  extract_lets v1 v2 v3
  refine Keeps.mid (a := s0) v3 ?_ (fun h4 => ?_)
  · unfold v3
    exact Keeps.put h rfl rfl rfl rfl rfl
  clear_value v3
  exact raiseIf_keeps h4

theorem inputFailed_keeps {s0 : State} {backup : Bool} {mv : Nat} {s : State} (h : Keeps s0 s) :
    Keeps s0 (inputFailed backup mv s) := by
  unfold inputFailed
  refine Keeps.ite (fun _ => ?_) (fun _ => ?_)
  · exact h
  · refine Keeps.ite (fun _ => ?_) (fun _ => ?_)
    · exact Keeps.ite (fun _ => chooseInput_keeps (changeB_keeps h)) (fun _ => h)
    · exact Keeps.ite (fun _ => chooseInput_keeps (Keeps.put h rfl rfl rfl rfl rfl)) (fun _ => h)

theorem execInputFailed_keeps {s0 : State} {backup : Bool} {millivolts : Nat} {s : State} (h : Keeps s0 s) :
    OutKeeps s0 (execInputFailed backup millivolts s) := by
  unfold execInputFailed
  exact OutKeeps.next (inputFailed_keeps h)

theorem inputInRange_keeps {s0 : State} {backup : Bool} {mv : Nat} {s : State} (h : Keeps s0 s) :
    Keeps s0 (inputInRange backup mv s) := by
  unfold inputInRange
  refine Keeps.ite (fun _ => ?_) (fun _ => ?_)
  · exact h
  · refine Keeps.ite (fun _ => ?_) (fun _ => ?_)
    · exact Keeps.ite (fun _ => h) (fun _ => chooseInput_keeps (changeB_keeps h))
    · exact Keeps.ite (fun _ => h) (fun _ => chooseInput_keeps (Keeps.put h rfl rfl rfl rfl rfl))

theorem execInputInRange_keeps {s0 : State} {backup : Bool} {millivolts : Nat} {s : State} (h : Keeps s0 s) :
    OutKeeps s0 (execInputInRange backup millivolts s) := by
  unfold execInputInRange
  exact OutKeeps.next (inputInRange_keeps h)

theorem vinAStable_keeps {s0 : State} {s : State} (h : Keeps s0 s) : Keeps s0 (vinAStable s) := by
  unfold vinAStable
  exact Keeps.ite (fun _ => chooseInput_keeps (advanceTo_keeps h)) (fun _ => h)

theorem execVinAStable_keeps {s0 : State} {s : State} (h : Keeps s0 s) : OutKeeps s0 (execVinAStable s) := by
  unfold execVinAStable
  exact OutKeeps.next (vinAStable_keeps h)

theorem powerLoss_keeps {s0 : State} {s : State} (h : Keeps s0 s) : Keeps s0 (powerLoss s) := by
  unfold powerLoss
  split
  · exact h
  · exact stopDevice_keeps (arriveAll_keeps (raise_keeps (advanceTo_keeps h)))

theorem execPowerLoss_keeps {s0 : State} {s : State} (h : Keeps s0 s) : OutKeeps s0 (execPowerLoss s) := by
  unfold execPowerLoss
  exact OutKeeps.next (powerLoss_keeps h)

theorem stretchDebt_keeps {s0 : State} {t : Nat} {r : Nat} {s : State} (h : Keeps s0 s) :
    Keeps s0 (stretchDebt t r s) := by
  unfold stretchDebt
  extract_lets v1 v2
  exact Keeps.ite (fun _ => h) (fun _ => addDebt_keeps (count64_keeps h))

theorem learnFrom_keeps {s0 : State} {t : Nat} {c : Option Nat} {w : Seen} {s : State} (h : Keeps s0 s) :
    Keeps s0 (learnFrom t c w s) := by
  unfold learnFrom
  extract_lets v1 v2 v3 v4 v5
  split
  · extract_lets v11
    exact Keeps.put h rfl rfl rfl rfl rfl

theorem seeWindow_keeps {s0 : State} {t : Nat} {core : Nat} {dram : Nat} {s : State} (h : Keeps s0 s) :
    Keeps s0 (seeWindow t core dram s) := by
  unfold seeWindow
  extract_lets v1 v2 v3
  split
  · exact learnFrom_keeps h
  · extract_lets v9 v10 v11
    exact Keeps.put h rfl rfl rfl rfl rfl

theorem railWindow_keeps {s0 : State} {r : Nat} {current : Nat} {s : State} (h : Keeps s0 s) :
    Keeps s0 (railWindow r current s) := by
  unfold railWindow
  extract_lets v1 v2 v3 v4 v5 v6 v7 v8
  refine Keeps.mid (a := s0) v8 ?_ (fun h9 => ?_)
  · unfold v8
    exact Keeps.put h rfl rfl rfl rfl rfl
  clear_value v8
  exact raiseIf_keeps h9

theorem notePowers_keeps {s0 : State} {pho : Nat} {las : Nat} {s : State} (h : Keeps s0 s) :
    Keeps s0 (notePowers pho las s) := by
  unfold notePowers
  extract_lets v1 v2 v3 v4
  exact Keeps.put h rfl rfl rfl rfl rfl

theorem inputWindow_keeps {s0 : State} {power : Nat} {s : State} (h : Keeps s0 s) :
    Keeps s0 (inputWindow power s) := by
  unfold inputWindow
  extract_lets v1 v2 v3 v4
  exact raiseIf_keeps (Keeps.put h rfl rfl rfl rfl rfl)

theorem commandStretches_keeps {s0 : State} {t : Nat} {s : State} (h : Keeps s0 s) :
    Keeps s0 (commandStretches t s) := by
  unfold commandStretches
  extract_lets v1 v2
  exact Keeps.put h rfl rfl rfl rfl rfl

theorem capWindow_keeps {s0 : State} {currents : List Nat} {power : Nat} {vinA : Nat} {vinB : Nat} {s : State}
    (h : Keeps s0 s) :
    Keeps s0 (capWindow currents power vinA vinB s) := by
  unfold capWindow
  refine Keeps.ite (fun _ => ?_) (fun _ => ?_)
  · exact h
  · extract_lets v1 v2 v3 v4 v5 v6 v7 v8 v9 v10 v11 v12 v13
    refine Keeps.mid (a := s0) v3 ?_ (fun h14 => ?_)
    · unfold v3
      exact advanceTo_keeps h
    clear_value v3
    refine Keeps.mid (a := s0) v5 ?_ (fun h15 => ?_)
    · unfold v5
      exact Keeps.put h14 rfl rfl rfl rfl rfl
    clear_value v5
    refine Keeps.mid (a := s0) v7 ?_ (fun h16 => ?_)
    · unfold v7
      exact Keeps.fold h15 (fun _ _ h19 => Keeps.fold h19 (fun _ _ h22 => stretchDebt_keeps h22))
    clear_value v7
    refine Keeps.mid (a := s0) v8 ?_ (fun h23 => ?_)
    · unfold v8
      exact Keeps.fold h16 (fun _ _ h26 => seeWindow_keeps h26)
    clear_value v8
    refine Keeps.mid (a := s0) v9 ?_ (fun h27 => ?_)
    · unfold v9
      exact Keeps.fold h23 (fun _ _ h30 => railWindow_keeps h30)
    clear_value v9
    refine Keeps.mid (a := s0) v13 ?_ (fun h31 => ?_)
    · unfold v13
      exact notePowers_keeps (inputWindow_keeps h27)
    clear_value v13
    exact Keeps.fold h31 (fun _ _ h34 => commandStretches_keeps h34)

theorem execCapWindow_keeps {s0 : State} {currents : List Nat} {inputPower : Nat} {vinA : Nat} {vinB : Nat}
    {s : State} (h : Keeps s0 s) :
    OutKeeps s0 (execCapWindow currents inputPower vinA vinB s) := by
  unfold execCapWindow
  exact OutKeeps.next (capWindow_keeps h)

theorem capLimitRise_keeps {s0 : State} {s : State} (h : Keeps s0 s) : Keeps s0 (capLimitRise s) := by
  unfold capLimitRise
  split
  · extract_lets v7 v8
    refine Keeps.mid (a := s0) v7 ?_ (fun h9 => ?_)
    · unfold v7
      exact advanceTo_keeps h
    clear_value v7
    exact decideStep_keeps (setCapLimit_keeps (Keeps.put h9 rfl rfl rfl rfl rfl))
  · exact h

theorem execCapLimitRise_keeps {s0 : State} {s : State} (h : Keeps s0 s) :
    OutKeeps s0 (execCapLimitRise s) := by
  unfold execCapLimitRise
  exact OutKeeps.next (capLimitRise_keeps h)

theorem phaseEnded_keeps {s0 : State} {t : Nat} {s : State} (h : Keeps s0 s) : Keeps s0 (phaseEnded t s) := by
  unfold phaseEnded
  split
  · exact h
  · exact learnFrom_keeps (Keeps.put h rfl rfl rfl rfl rfl)

theorem execPhaseEnd_keeps {s0 : State} {tower : Tower} {s : State} (h : Keeps s0 s) :
    OutKeeps s0 (execPhaseEnd tower s) := by
  unfold execPhaseEnd
  exact OutKeeps.next (phaseEnded_keeps h)

theorem writeProfile_keeps {s0 : State} {s : State} (h : Keeps s0 s) : Keeps s0 (writeProfile s) := by
  unfold writeProfile
  exact Keeps.put h rfl rfl rfl rfl rfl

theorem execProfileWriteTimer_keeps {s0 : State} {s : State} (h : Keeps s0 s) :
    OutKeeps s0 (execProfileWriteTimer s) := by
  unfold execProfileWriteTimer
  exact OutKeeps.next (Keeps.ite (fun _ => h) (fun _ => writeProfile_keeps (advanceTo_keeps h)))

theorem profileAct_keeps {s0 : State} {a0 : Bytes} {a1 : State} (h : Keeps s0 a1) :
    WKeeps s0 (profileAct a0 a1) := by
  unfold profileAct
  split
  · exact WKeeps.done (writeProfile_keeps h)
  · split
    · exact WKeeps.done (Keeps.put h rfl rfl rfl rfl rfl)
    · exact .refuse

theorem execCapProfileWrite_keeps {s0 : State} {req : Req} {value : Bytes} {s : State} (h : Keeps s0 s) :
    OutKeeps s0 (execCapProfileWrite req value s) := by
  unfold execCapProfileWrite
  refine OutKeeps.next ?_
  refine Keeps.ite (fun _ => ?_) (fun _ => ?_)
  · refine serveWrite_keeps ?_ ?_
    · intro x1 s2 h3
      exact profileAct_keeps h3
    · exact h
  · exact h

theorem execCapProfileClear_keeps {s0 : State} {req : Req} {value : Bytes} {s : State} (h : Keeps s0 s) :
    OutKeeps s0 (execCapProfileClear req value s) := by
  unfold execCapProfileClear
  refine OutKeeps.next ?_
  refine Keeps.ite (fun _ => ?_) (fun _ => ?_)
  · refine serveWrite_keeps ?_ ?_
    · intro x1 s2 h3
      exact profileAct_keeps h3
    · exact h
  · exact h

theorem thermalStep_keeps {s0 : State} {s : State} (h : Keeps s0 s) : Keeps s0 (thermalStep s) := by
  unfold thermalStep
  split
  · extract_lets v6 v7 v8
    refine Keeps.mid (a := s0) v7 ?_ (fun h9 => ?_)
    · unfold v7
      exact advanceTo_keeps h
    clear_value v7
    exact Keeps.put h9 rfl rfl rfl rfl rfl
  · exact h

theorem execThermalLimitStep_keeps {s0 : State} {s : State} (h : Keeps s0 s) :
    OutKeeps s0 (execThermalLimitStep s) := by
  unfold execThermalLimitStep
  exact OutKeeps.next (thermalStep_keeps h)

theorem thermalRise_keeps {s0 : State} {s : State} (h : Keeps s0 s) : Keeps s0 (thermalRise s) := by
  unfold thermalRise
  split
  · extract_lets v9 v10
    refine Keeps.mid (a := s0) v9 ?_ (fun h11 => ?_)
    · unfold v9
      exact advanceTo_keeps h
    clear_value v9
    refine Keeps.ite (fun _ => ?_) (fun _ => ?_)
    · exact decideStep_keeps (Keeps.put h11 rfl rfl rfl rfl rfl)
    · exact decideStep_keeps (notify_keeps (raise_keeps (Keeps.put h11 rfl rfl rfl rfl rfl)))
  · exact h

theorem execThermalLimitRise_keeps {s0 : State} {s : State} (h : Keeps s0 s) :
    OutKeeps s0 (execThermalLimitRise s) := by
  unfold execThermalLimitRise
  exact OutKeeps.next (thermalRise_keeps h)

theorem oxSample_keeps {s0 : State} {readings : List Int} {unsound : List Nat} {s : State} (h : Keeps s0 s) :
    Keeps s0 (oxSample readings unsound s) := by
  unfold oxSample
  extract_lets v1 v2 v3 v4 v5
  refine Keeps.mid (a := s0) v3 ?_ (fun h6 => ?_)
  · unfold v3
    exact Keeps.fold h (fun _ _ h9 => changeDiode_keeps h9)
  clear_value v3
  refine Keeps.ite (fun _ => ?_) (fun _ => ?_)
  · exact Keeps.put h6 rfl rfl rfl rfl rfl
  · split
    · exact oxTrip_keeps h6
    · exact h6

theorem execOxSample_keeps {s0 : State} {readings : List Int} {unsound : List (Fin 44)} {s : State}
    (h : Keeps s0 s) :
    OutKeeps s0 (execOxSample readings unsound s) := by
  unfold execOxSample
  exact OutKeeps.next (oxSample_keeps h)

theorem oxRelease_keeps {s0 : State} {s : State} (h : Keeps s0 s) : Keeps s0 (oxRelease s) := by
  unfold oxRelease
  split
  · extract_lets v7 v8 v9 v10
    refine Keeps.mid (a := s0) v7 ?_ (fun h11 => ?_)
    · unfold v7
      exact advanceTo_keeps h
    clear_value v7
    exact chooseInput_keeps (Keeps.put h11 rfl rfl rfl rfl rfl)
  · exact h

theorem execOxRelease_keeps {s0 : State} {s : State} (h : Keeps s0 s) : OutKeeps s0 (execOxRelease s) := by
  unfold execOxRelease
  exact OutKeeps.next (oxRelease_keeps h)

end Sys2Proof.Machine
end

