-- ==== Sys2Proof/Laws/KeepsSecurity.lean ====
section
/-! SUPPORT. What the operations of Machine/Security.lean keep: one lemma for each. -/

set_option Elab.async false

namespace Sys2Proof.Machine

theorem applyTable_keeps {s0 : State} {t : Nat} {tab : Bytes} {s : State} (h : Keeps s0 s) :
    Keeps s0 (applyTable t tab s) := by
  unfold applyTable
  exact raise_keeps (setDict_keeps h)

theorem securityBoundary_keeps {s0 : State} {s : State} (h : Keeps s0 s) : Keeps s0 (securityBoundary s) := by
  unfold securityBoundary
  extract_lets v1 v2 v3 v4 v5 v6 v7
  refine Keeps.mid (a := s0) v2 ?_ (fun h8 => ?_)
  · unfold v2
    split
    · exact h
    · exact answerWaiting_keeps (setDict_keeps (Keeps.put h rfl rfl rfl rfl rfl))
  clear_value v2
  refine Keeps.mid (a := s0) v4 ?_ (fun h14 => ?_)
  · unfold v4
    refine Keeps.fold ?_ (fun s15 x16 h17 => ?_)
    · exact Keeps.put h8 rfl rfl rfl rfl rfl
    · exact answerWaiting_keeps (applyTable_keeps h17)
  clear_value v4
  refine Keeps.mid (a := s0) v6 ?_ (fun h18 => ?_)
  · unfold v6
    exact Keeps.ite (fun _ => Keeps.put h14 rfl rfl rfl rfl rfl) (fun _ => h14)
  clear_value v6
  exact Keeps.put h18 rfl rfl rfl rfl rfl

theorem markClean_keeps {s0 : State} {t : Nat} {s : State} (h : Keeps s0 s) : Keeps s0 (markClean t s) := by
  unfold markClean
  exact raise_keeps (Keeps.put h rfl rfl rfl rfl rfl)

theorem scrubDone_keeps {s0 : State} {t : Nat} {s : State} (h : Keeps s0 s) : Keeps s0 (scrubDone t s) := by
  unfold scrubDone
  refine Keeps.ite (fun _ => ?_) (fun _ => ?_)
  · exact h
  · extract_lets v1 v2 v3
    refine Keeps.mid (a := s0) v2 ?_ (fun h4 => ?_)
    · unfold v2
      exact endScrub_keeps (advanceTo_keeps h)
    clear_value v2
    refine Keeps.ite (fun _ => ?_) (fun _ => ?_)
    · exact h4
    · exact Keeps.ite (fun _ => markClean_keeps h4) (fun _ => Keeps.put h4 rfl rfl rfl rfl rfl)

theorem execScrubDone_keeps {s0 : State} {tower : Tower} {s : State} (h : Keeps s0 s) :
    OutKeeps s0 (execScrubDone tower s) := by
  unfold execScrubDone
  exact OutKeeps.next (scrubDone_keeps h)

theorem worldMapAct_keeps {s0 : State} {a0 : Bytes} {a1 : State} (h : Keeps s0 a1) :
    WKeeps s0 (worldMapAct a0 a1) := by
  unfold worldMapAct
  extract_lets v1 v2
  split
  · exact .refuse
  · split
    · exact .refuse
    · split
      · exact WKeeps.wait (Keeps.put h rfl rfl rfl rfl rfl)
      · exact WKeeps.done (setDict_keeps h)

theorem execWorldMapWrite_keeps {s0 : State} {req : Req} {value : Bytes} {s : State} (h : Keeps s0 s) :
    OutKeeps s0 (execWorldMapWrite req value s) := by
  unfold execWorldMapWrite
  refine OutKeeps.next ?_
  refine serveWrite_keeps ?_ ?_
  · intro x1 s2 h3
    exact worldMapAct_keeps h3
  · exact h

theorem regionTableAct_keeps {s0 : State} {t : Nat} {a1 : Bytes} {a2 : State} (h : Keeps s0 a2) :
    WKeeps s0 (regionTableAct t a1 a2) := by
  unfold regionTableAct
  extract_lets v1 v2 v3 v4 v5
  split
  · exact .refuse
  · split
    · exact .refuse
    · split
      · exact .refuse
      · split
        · exact WKeeps.wait (Keeps.put h rfl rfl rfl rfl rfl)
        · exact WKeeps.done (applyTable_keeps h)

theorem execRegionTableWrite_keeps {s0 : State} {req : Req} {tower : Tower} {value : Bytes} {s : State}
    (h : Keeps s0 s) :
    OutKeeps s0 (execRegionTableWrite req tower value s) := by
  unfold execRegionTableWrite
  refine OutKeeps.next ?_
  refine serveWrite_keeps ?_ ?_
  · intro x1 s2 h3
    exact regionTableAct_keeps h3
  · exact h

theorem stagingAct_keeps {s0 : State} {a0 : Bytes} {a1 : State} (h : Keeps s0 a1) :
    WKeeps s0 (stagingAct a0 a1) := by
  unfold stagingAct
  split
  · exact .refuse
  · split
    · exact .refuse
    · exact WKeeps.done (Keeps.put h rfl rfl rfl rfl rfl)

theorem execImageStaging_keeps {s0 : State} {req : Req} {value : Bytes} {s : State} (h : Keeps s0 s) :
    OutKeeps s0 (execImageStaging req value s) := by
  unfold execImageStaging
  refine OutKeeps.next ?_
  refine serveWrite_keeps ?_ ?_
  · intro x1 s2 h3
    exact stagingAct_keeps h3
  · exact h

theorem updateAct_keeps {s0 : State} {a0 : Bytes} {a1 : State} (h : Keeps s0 a1) :
    WKeeps s0 (updateAct a0 a1) := by
  unfold updateAct
  split
  · split
    · exact WKeeps.done (Keeps.put h rfl rfl rfl rfl rfl)
    · exact .refuse
  · split
    · exact WKeeps.done (Keeps.put h rfl rfl rfl rfl rfl)
    · exact .refuse
  · split
    · exact WKeeps.done (Keeps.put h rfl rfl rfl rfl rfl)
    · exact .refuse
  · split
    · exact WKeeps.done (Keeps.put h rfl rfl rfl rfl rfl)
    · exact .refuse
  · split
    · exact WKeeps.done (Keeps.putFuses h rfl rfl rfl rfl rfl)
    · exact .refuse
  · exact .refuse

theorem execVerify_keeps {s0 : State} {req : Req} {value : Bytes} {s : State} (h : Keeps s0 s) :
    OutKeeps s0 (execVerify req value s) := by
  unfold execVerify
  refine OutKeeps.next ?_
  refine Keeps.ite (fun _ => ?_) (fun _ => ?_)
  · refine serveWrite_keeps ?_ ?_
    · intro x1 s2 h3
      exact updateAct_keeps h3
    · exact h
  · exact h

theorem verifyDone_keeps {s0 : State} {s : State} (h : Keeps s0 s) : Keeps s0 (verifyDone s) := by
  unfold verifyDone
  refine Keeps.ite (fun _ => ?_) (fun _ => ?_)
  · exact h
  · split
    · exact raise_keeps (Keeps.put h rfl rfl rfl rfl rfl)
    · exact raise_keeps (Keeps.put h rfl rfl rfl rfl rfl)

theorem execImageVerifyDone_keeps {s0 : State} {s : State} (h : Keeps s0 s) :
    OutKeeps s0 (execImageVerifyDone s) := by
  unfold execImageVerifyDone
  exact OutKeeps.next (verifyDone_keeps h)

theorem execActivate_keeps {s0 : State} {req : Req} {value : Bytes} {s : State} (h : Keeps s0 s) :
    OutKeeps s0 (execActivate req value s) := by
  unfold execActivate
  refine OutKeeps.next ?_
  refine Keeps.ite (fun _ => ?_) (fun _ => ?_)
  · refine serveWrite_keeps ?_ ?_
    · intro x1 s2 h3
      exact updateAct_keeps h3
    · exact h
  · exact h

theorem activationDone_keeps {s0 : State} {s : State} (h : Keeps s0 s) : Keeps s0 (activationDone s) := by
  unfold activationDone
  split
  · exact h
  · extract_lets v6 v7 v8 v9
    refine Keeps.mid (a := s0) v6 ?_ (fun h10 => ?_)
    · unfold v6
      exact advanceTo_keeps h
    clear_value v6
    refine Keeps.mid (a := s0) v8 ?_ (fun h11 => ?_)
    · unfold v8
      exact Keeps.put h10 rfl rfl rfl rfl rfl
    clear_value v8
    refine Keeps.mid (a := s0) v9 ?_ (fun h12 => ?_)
    · unfold v9
      exact notify_keeps (raise_keeps h11)
    clear_value v9
    exact Keeps.fold h12 (fun _ _ h15 => releaseHeld_keeps h15)

theorem execActivationDone_keeps {s0 : State} {s : State} (h : Keeps s0 s) :
    OutKeeps s0 (execActivationDone s) := by
  unfold execActivationDone
  exact OutKeeps.next (activationDone_keeps h)

theorem execImageCommit_keeps {s0 : State} {req : Req} {value : Bytes} {s : State} (h : Keeps s0 s) :
    OutKeeps s0 (execImageCommit req value s) := by
  unfold execImageCommit
  refine OutKeeps.next ?_
  refine Keeps.ite (fun _ => ?_) (fun _ => ?_)
  · refine serveWrite_keeps ?_ ?_
    · intro x1 s2 h3
      exact updateAct_keeps h3
    · exact h
  · exact h

theorem commitDone_keeps {s0 : State} {ok : Bool} {s : State} (h : Keeps s0 s) :
    Keeps s0 (commitDone ok s) := by
  unfold commitDone
  refine Keeps.ite (fun _ => ?_) (fun _ => ?_)
  · exact h
  · refine Keeps.ite (fun _ => ?_) (fun _ => ?_)
    · exact Keeps.put h rfl rfl rfl rfl rfl
    · extract_lets v1 v2
      exact raise_keeps (Keeps.put h rfl rfl rfl rfl rfl)

theorem execImageCommitDone_keeps {s0 : State} {ok : Bool} {s : State} (h : Keeps s0 s) :
    OutKeeps s0 (execImageCommitDone ok s) := by
  unfold execImageCommitDone
  exact OutKeeps.next (commitDone_keeps h)

theorem commitRetry_keeps {s0 : State} {s : State} (h : Keeps s0 s) : Keeps s0 (commitRetry s) := by
  unfold commitRetry
  split
  · exact h
  · extract_lets v6 v7
    refine Keeps.mid (a := s0) v6 ?_ (fun h8 => ?_)
    · unfold v6
      exact advanceTo_keeps h
    clear_value v6
    exact Keeps.put h8 rfl rfl rfl rfl rfl

theorem execImageCommitRetry_keeps {s0 : State} {s : State} (h : Keeps s0 s) :
    OutKeeps s0 (execImageCommitRetry s) := by
  unfold execImageCommitRetry
  exact OutKeeps.next (commitRetry_keeps h)

theorem execAdvanceSvn_keeps {s0 : State} {req : Req} {value : Bytes} {s : State} (h : Keeps s0 s) :
    OutKeeps s0 (execAdvanceSvn req value s) := by
  unfold execAdvanceSvn
  refine OutKeeps.next ?_
  refine Keeps.ite (fun _ => ?_) (fun _ => ?_)
  · refine serveWrite_keeps ?_ ?_
    · intro x1 s2 h3
      exact updateAct_keeps h3
    · exact h
  · exact h

theorem answerSpdm_keeps {s0 : State} {x : SpdmPath} {a : SpdmAnswer} {s : State} (h : Keeps s0 s) :
    Keeps s0 (answerSpdm x a s) := by
  unfold answerSpdm
  exact Keeps.put h rfl rfl rfl rfl rfl

theorem negotiate_keeps {s0 : State} {x : SpdmPath} {level : Nat} {s : State} (h : Keeps s0 s) :
    Keeps s0 (negotiate x level s) := by
  unfold negotiate
  exact Keeps.put h rfl rfl rfl rfl rfl

theorem execGetVersion_keeps {s0 : State} {path : SpdmPath} {request : Bytes} {s : State} (h : Keeps s0 s) :
    OutKeeps s0 (execGetVersion path request s) := by
  unfold execGetVersion
  refine OutKeeps.next ?_
  refine Keeps.ite (fun _ => ?_) (fun _ => ?_)
  · exact h
  · extract_lets v1 v2
    refine Keeps.mid (a := s0) v2 ?_ (fun h3 => ?_)
    · unfold v2
      exact Keeps.put h rfl rfl rfl rfl rfl
    clear_value v2
    exact answerSpdm_keeps (negotiate_keeps h3)

theorem record__keeps {s0 : State} {x : SpdmPath} {request : Bytes} {s : State} (h : Keeps s0 s) :
    Keeps s0 (record_ x request s) := by
  unfold record_
  exact Keeps.put h rfl rfl rfl rfl rfl

theorem onSpdm_keeps {s0 : State} {x : SpdmPath} {level : Nat} {request : Bytes} {act : State → State}
    {s : State} (h_act : ∀ (z0 : State), Keeps s0 z0 → Keeps s0 (act z0)) (h : Keeps s0 s) :
    Keeps s0 (onSpdm x level request act s) := by
  unfold onSpdm
  refine Keeps.ite (fun _ => ?_) (fun _ => ?_)
  · exact h
  · exact Keeps.ite (fun _ => answerSpdm_keeps h) (fun _ => h_act _ (record__keeps h))

theorem execGetCapabilities_keeps {s0 : State} {path : SpdmPath} {request : Bytes} {s : State} (h : Keeps s0 s)
    :
    OutKeeps s0 (execGetCapabilities path request s) := by
  unfold execGetCapabilities
  refine OutKeeps.next ?_
  refine onSpdm_keeps ?_ ?_
  · intro s1 h2
    exact answerSpdm_keeps (negotiate_keeps h2)
  · exact h

theorem execNegotiateAlgorithms_keeps {s0 : State} {path : SpdmPath} {request : Bytes} {offer : SpdmOffer}
    {s : State} (h : Keeps s0 s) :
    OutKeeps s0 (execNegotiateAlgorithms path request offer s) := by
  unfold execNegotiateAlgorithms
  extract_lets v1
  refine OutKeeps.next ?_
  refine onSpdm_keeps ?_ ?_
  · intro s2 h3
    exact Keeps.ite (fun _ => answerSpdm_keeps (negotiate_keeps h3)) (fun _ => answerSpdm_keeps h3)
  · exact h

theorem execGetDigests_keeps {s0 : State} {path : SpdmPath} {request : Bytes} {s : State} (h : Keeps s0 s) :
    OutKeeps s0 (execGetDigests path request s) := by
  unfold execGetDigests
  refine OutKeeps.next ?_
  refine onSpdm_keeps ?_ ?_
  · intro s1 h2
    exact answerSpdm_keeps h2
  · exact h

theorem execGetCertificate_keeps {s0 : State} {path : SpdmPath} {request : Bytes} {slot : Fin 8}
    {offset : BitVec 16} {length : BitVec 16} {s : State} (h : Keeps s0 s) :
    OutKeeps s0 (execGetCertificate path request slot offset length s) := by
  unfold execGetCertificate
  refine OutKeeps.next ?_
  refine onSpdm_keeps ?_ ?_
  · intro s1 h2
    exact answerSpdm_keeps h2
  · exact h

theorem execChallenge_keeps {s0 : State} {path : SpdmPath} {request : Bytes} {slot : Fin 8} {s : State}
    (h : Keeps s0 s) :
    OutKeeps s0 (execChallenge path request slot s) := by
  unfold execChallenge
  refine OutKeeps.next ?_
  refine onSpdm_keeps ?_ ?_
  · intro s1 h2
    exact answerSpdm_keeps h2
  · exact h

theorem execGetMeasurements_keeps {s0 : State} {path : SpdmPath} {request : Bytes} {index : BitVec 8}
    {signature : Bool} {s : State} (h : Keeps s0 s) :
    OutKeeps s0 (execGetMeasurements path request index signature s) := by
  unfold execGetMeasurements
  refine OutKeeps.next ?_
  refine onSpdm_keeps ?_ ?_
  · intro s1 h2
    refine Keeps.ite (fun _ => ?_) (fun _ => ?_)
    · exact answerSpdm_keeps h2
    · exact Keeps.ite (fun _ => answerSpdm_keeps h2) (fun _ => answerSpdm_keeps h2)
  · exact h

theorem keyExchange_keeps {s0 : State} {x : SpdmPath} {asRequester : Bool} {s : State} (h : Keeps s0 s) :
    Keeps s0 (keyExchange x asRequester s) := by
  unfold keyExchange
  refine Keeps.ite (fun _ => ?_) (fun _ => ?_)
  · exact answerSpdm_keeps h
  · extract_lets v1 v2 v3 v4 v5
    refine Keeps.mid (a := s0) v5 ?_ (fun h6 => ?_)
    · unfold v5
      exact Keeps.put h rfl rfl rfl rfl rfl
    clear_value v5
    exact answerSpdm_keeps h6

theorem execKeyExchange_keeps {s0 : State} {path : SpdmPath} {request : Bytes} {asRequester : Bool} {s : State}
    (h : Keeps s0 s) :
    OutKeeps s0 (execKeyExchange path request asRequester s) := by
  unfold execKeyExchange
  refine OutKeeps.next ?_
  refine onSpdm_keeps ?_ ?_
  · intro s1 h2
    exact keyExchange_keeps h2
  · exact h

theorem changeSession_keeps {s0 : State} {id : BitVec 32} {f : SpdmSession → SpdmSession} {s : State}
    (h : Keeps s0 s) :
    Keeps s0 (changeSession id f s) := by
  unfold changeSession
  exact Keeps.put h rfl rfl rfl rfl rfl

theorem firstKeys_keeps {s0 : State} {p : Nat} {s : State} (h : Keeps s0 s) : Keeps s0 (firstKeys p s) := by
  unfold firstKeys
  refine Keeps.ite (fun _ => ?_) (fun _ => ?_)
  · exact h
  · extract_lets v1
    refine pumpPort_keeps ?_
    simp only [v1]
    exact Keeps.put h rfl rfl rfl rfl rfl

theorem finishSession_keeps {s0 : State} {x : SpdmPath} {id : BitVec 32} {trusted : Bool} {s : State}
    (h : Keeps s0 s) :
    Keeps s0 (finishSession x id trusted s) := by
  unfold finishSession
  split
  · exact answerSpdm_keeps h
  · refine Keeps.ite (fun _ => ?_) (fun _ => ?_)
    · exact answerSpdm_keeps h
    · refine Keeps.ite (fun _ => ?_) (fun _ => ?_)
      · exact answerSpdm_keeps (Keeps.put h rfl rfl rfl rfl rfl)
      · extract_lets v6 v7
        refine Keeps.mid (a := s0) v6 ?_ (fun h8 => ?_)
        · unfold v6
          exact changeSession_keeps h
        clear_value v6
        refine Keeps.mid (a := s0) v7 ?_ (fun h9 => ?_)
        · unfold v7
          exact raise_keeps (answerSpdm_keeps h8)
        clear_value v7
        split
        · exact h9
        · exact firstKeys_keeps h9

theorem execFinish_keeps {s0 : State} {path : SpdmPath} {request : Bytes} {session : BitVec 32} {trusted : Bool}
    {s : State} (h : Keeps s0 s) :
    OutKeeps s0 (execFinish path request session trusted s) := by
  unfold execFinish
  refine OutKeeps.next ?_
  refine onSpdm_keeps ?_ ?_
  · intro s1 h2
    exact finishSession_keeps h2
  · exact h

theorem inSession_keeps {s0 : State} {x : SpdmPath} {id : BitVec 32} {act : State → State} {s : State}
    (h_act : ∀ (z0 : State), Keeps s0 z0 → Keeps s0 (act z0)) (h : Keeps s0 s) :
    Keeps s0 (inSession x id act s) := by
  unfold inSession
  refine Keeps.ite (fun _ => ?_) (fun _ => ?_)
  · exact h
  · split
    · exact answerSpdm_keeps h
    · exact Keeps.ite (fun _ => h_act _ h) (fun _ => answerSpdm_keeps h)

theorem execKeyUpdate_keeps {s0 : State} {path : SpdmPath} {session : BitVec 32} {s : State} (h : Keeps s0 s) :
    OutKeeps s0 (execKeyUpdate path session s) := by
  unfold execKeyUpdate
  refine OutKeeps.next ?_
  refine inSession_keeps ?_ ?_
  · intro s1 h2
    exact answerSpdm_keeps (changeSession_keeps h2)
  · exact h

theorem execHeartbeat_keeps {s0 : State} {path : SpdmPath} {session : BitVec 32} {s : State} (h : Keeps s0 s) :
    OutKeeps s0 (execHeartbeat path session s) := by
  unfold execHeartbeat
  refine OutKeeps.next ?_
  refine inSession_keeps ?_ ?_
  · intro s1 h2
    exact answerSpdm_keeps h2
  · exact h

theorem endSession_keeps {s0 : State} {x : SpdmPath} {id : BitVec 32} {s : State} (h : Keeps s0 s) :
    Keeps s0 (endSession x id s) := by
  unfold endSession
  extract_lets v1 v2 v3 v4
  refine Keeps.mid (a := s0) v2 ?_ (fun h5 => ?_)
  · unfold v2
    exact Keeps.put h rfl rfl rfl rfl rfl
  clear_value v2
  refine Keeps.mid (a := s0) v3 ?_ (fun h6 => ?_)
  · unfold v3
    exact raise_keeps h5
  clear_value v3
  split
  · exact h6
  · refine Keeps.ite (fun _ => ?_) (fun _ => ?_)
    · extract_lets v12
      refine Keeps.mid (a := s0) v12 ?_ (fun h13 => ?_)
      · unfold v12
        exact Keeps.put h6 rfl rfl rfl rfl rfl
      clear_value v12
      exact linkDown_keeps h13
    · exact h6

theorem execEndSession_keeps {s0 : State} {path : SpdmPath} {session : BitVec 32} {s : State} (h : Keeps s0 s) :
    OutKeeps s0 (execEndSession path session s) := by
  unfold execEndSession
  refine OutKeeps.next ?_
  refine inSession_keeps ?_ ?_
  · intro s1 h2
    exact endSession_keeps (answerSpdm_keeps h2)
  · exact h

theorem installKey_keeps {s0 : State} {session : BitVec 32} {stream : Option (Fin 16)} {keySet : Fin 2}
    {s : State} (h : Keeps s0 s) :
    Keeps s0 (installKey session stream keySet s) := by
  unfold installKey
  extract_lets v1 v2 v3
  refine inSession_keeps ?_ ?_
  · intro s4 h5
    exact answerSpdm_keeps (Keeps.put h5 rfl rfl rfl rfl rfl)
  · exact h

theorem execIdeKeyInstall_keeps {s0 : State} {session : BitVec 32} {stream : Option (Fin 16)} {keySet : Fin 2}
    {s : State} (h : Keeps s0 s) :
    OutKeeps s0 (execIdeKeyInstall session stream keySet s) := by
  unfold execIdeKeyInstall
  exact OutKeeps.next (installKey_keeps h)

theorem execIdeFault_keeps {s0 : State} {function : Option Function} {s : State} (h : Keeps s0 s) :
    OutKeeps s0 (execIdeFault function s) := by
  unfold execIdeFault
  extract_lets v1 v2
  refine Keeps.mid (a := s0) v2 ?_ (fun h3 => ?_)
  · unfold v2
    exact raise_keeps h
  clear_value v2
  refine OutKeeps.next ?_
  clear_value v1
  split
  · exact h3
  · exact tdiFail_keeps h3

theorem onTdisp_keeps {s0 : State} {f : Nat} {act : State → State} {s : State}
    (h_act : ∀ (z0 : State), Keeps s0 z0 → Keeps s0 (act z0)) (h : Keeps s0 s) :
    Keeps s0 (onTdisp f act s) := by
  unfold onTdisp
  exact Keeps.ite (fun _ => h) (fun _ => Keeps.ite (fun _ => h_act _ h) (fun _ => answerSpdm_keeps h))

theorem execGetTdispVersion_keeps {s0 : State} {function : Function} {s : State} (h : Keeps s0 s) :
    OutKeeps s0 (execGetTdispVersion function s) := by
  unfold execGetTdispVersion
  refine OutKeeps.next ?_
  refine onTdisp_keeps ?_ ?_
  · intro s1 h2
    exact answerSpdm_keeps h2
  · exact h

theorem execGetTdispCapabilities_keeps {s0 : State} {function : Function} {s : State} (h : Keeps s0 s) :
    OutKeeps s0 (execGetTdispCapabilities function s) := by
  unfold execGetTdispCapabilities
  refine OutKeeps.next ?_
  refine onTdisp_keeps ?_ ?_
  · intro s1 h2
    exact answerSpdm_keeps h2
  · exact h

theorem lockInterface_keeps {s0 : State} {f : Nat} {s : State} (h : Keeps s0 s) :
    Keeps s0 (lockInterface f s) := by
  unfold lockInterface
  exact Keeps.ite (fun _ => answerSpdm_keeps (setTdi_keeps h)) (fun _ => answerSpdm_keeps h)

theorem execLockInterface_keeps {s0 : State} {function : Function} {s : State} (h : Keeps s0 s) :
    OutKeeps s0 (execLockInterface function s) := by
  unfold execLockInterface
  refine OutKeeps.next ?_
  refine onTdisp_keeps ?_ ?_
  · intro s1 h2
    exact lockInterface_keeps h2
  · exact h

theorem interfaceReport_keeps {s0 : State} {f : Nat} {s : State} (h : Keeps s0 s) :
    Keeps s0 (interfaceReport f s) := by
  unfold interfaceReport
  extract_lets v1
  exact answerSpdm_keeps h

theorem execGetDeviceInterfaceReport_keeps {s0 : State} {function : Function} {s : State} (h : Keeps s0 s) :
    OutKeeps s0 (execGetDeviceInterfaceReport function s) := by
  unfold execGetDeviceInterfaceReport
  refine OutKeeps.next ?_
  refine onTdisp_keeps ?_ ?_
  · intro s1 h2
    exact interfaceReport_keeps h2
  · exact h

theorem execGetDeviceInterfaceState_keeps {s0 : State} {function : Function} {s : State} (h : Keeps s0 s) :
    OutKeeps s0 (execGetDeviceInterfaceState function s) := by
  unfold execGetDeviceInterfaceState
  refine OutKeeps.next ?_
  refine onTdisp_keeps ?_ ?_
  · intro s1 h2
    exact answerSpdm_keeps h2
  · exact h

theorem startInterface_keeps {s0 : State} {f : Nat} {s : State} (h : Keeps s0 s) :
    Keeps s0 (startInterface f s) := by
  unfold startInterface
  exact Keeps.ite (fun _ => answerSpdm_keeps (setTdi_keeps h)) (fun _ => answerSpdm_keeps h)

theorem execStartInterface_keeps {s0 : State} {function : Function} {s : State} (h : Keeps s0 s) :
    OutKeeps s0 (execStartInterface function s) := by
  unfold execStartInterface
  refine OutKeeps.next ?_
  refine onTdisp_keeps ?_ ?_
  · intro s1 h2
    exact startInterface_keeps h2
  · exact h

theorem execStopInterface_keeps {s0 : State} {function : Function} {s : State} (h : Keeps s0 s) :
    OutKeeps s0 (execStopInterface function s) := by
  unfold execStopInterface
  refine OutKeeps.next ?_
  refine onTdisp_keeps ?_ ?_
  · intro s1 h2
    exact answerSpdm_keeps (setTdi_keeps h2)
  · exact h

theorem powerCycle_keeps {s0 : State} {t : Nat} {s : State} (h : Keeps s0 s) : Keeps s0 (powerCycle t s) := by
  unfold powerCycle
  exact Keeps.put (Keeps.fold h (fun _ _ h' => clearCluster_keeps h')) rfl rfl rfl rfl rfl

theorem emptyHub_keeps {s0 : State} {t : Nat} {s : State} (h : Keeps s0 s) : Keeps s0 (emptyHub t s) := by
  unfold emptyHub
  exact Keeps.put h rfl rfl rfl rfl rfl

theorem startHandover_keeps {s0 : State} {t : Nat} {s : State} (h : Keeps s0 s) :
    Keeps s0 (startHandover t s) := by
  unfold startHandover
  extract_lets v1 v2 v3 v4
  refine Keeps.mid (a := s0) v1 ?_ (fun h5 => ?_)
  · unfold v1
    exact powerCycle_keeps (emptyHub_keeps h)
  clear_value v1
  refine Keeps.mid (a := s0) v2 ?_ (fun h6 => ?_)
  · unfold v2
    exact setDict_keeps h5
  clear_value v2
  refine Keeps.mid (a := s0) v3 ?_ (fun h7 => ?_)
  · unfold v3
    exact startScrub_keeps h6
  clear_value v3
  exact Keeps.put h7 rfl rfl rfl rfl rfl

theorem tenantHandoverAct_keeps {s0 : State} {a0 : Bytes} {a1 : State} (h : Keeps s0 a1) :
    WKeeps s0 (tenantHandoverAct a0 a1) := by
  unfold tenantHandoverAct
  extract_lets v1 v2
  split
  · exact .refuse
  · split
    · exact .refuse
    · exact WKeeps.done (Keeps.fold h (fun _ _ h9 => answerWaiting_keeps (startHandover_keeps h9)))

theorem execTenantHandover_keeps {s0 : State} {req : Req} {value : Bytes} {s : State} (h : Keeps s0 s) :
    OutKeeps s0 (execTenantHandover req value s) := by
  unfold execTenantHandover
  refine OutKeeps.next ?_
  refine serveWrite_keeps ?_ ?_
  · intro x1 s2 h3
    exact tenantHandoverAct_keeps h3
  · exact h

theorem portKeyAct_keeps {s0 : State} {a0 : Bytes} {a1 : State} (h : Keeps s0 a1) :
    WKeeps s0 (portKeyAct a0 a1) := by
  unfold portKeyAct
  extract_lets v1
  split
  · exact .refuse
  · exact WKeeps.done (Keeps.fold h (fun _ _ h6 => pumpPort_keeps (replaceKey_keeps h6)))

theorem execPortKeyUpdate_keeps {s0 : State} {req : Req} {value : Bytes} {s : State} (h : Keeps s0 s) :
    OutKeeps s0 (execPortKeyUpdate req value s) := by
  unfold execPortKeyUpdate
  refine OutKeeps.next ?_
  refine serveWrite_keeps ?_ ?_
  · intro x1 s2 h3
    exact portKeyAct_keeps h3
  · exact h

theorem cleanDelay_keeps {s0 : State} {t : Nat} {s : State} (h : Keeps s0 s) : Keeps s0 (cleanDelay t s) := by
  unfold cleanDelay
  exact Keeps.ite (fun _ => markClean_keeps (advanceTo_keeps h)) (fun _ => h)

theorem execTenantCleanDelay_keeps {s0 : State} {tower : Tower} {s : State} (h : Keeps s0 s) :
    OutKeeps s0 (execTenantCleanDelay tower s) := by
  unfold execTenantCleanDelay
  exact OutKeeps.next (cleanDelay_keeps h)

end Sys2Proof.Machine
end

