-- ==== Sys2Proof/Laws/KeepsTasks.lean ====
section
/-! SUPPORT. What the operations of Machine/Tasks.lean keep: one lemma for each. -/

set_option Elab.async false

namespace Sys2Proof.Machine

theorem changeRouter_keeps {s0 : State} {c : Nat} {f : Router → Router} {s : State} (h : Keeps s0 s) :
    Keeps s0 (changeRouter c f s) := by
  unfold changeRouter
  exact Keeps.put h rfl rfl rfl rfl rfl

theorem putRecord_keeps {s0 : State} {c : Nat} {status : Nat} {x : Pair} {s : State} (h : Keeps s0 s) :
    Keeps s0 (putRecord c status x s) := by
  unfold putRecord
  exact changeRouter_keeps h

theorem dispatchPair_keeps {s0 : State} {t : Nat} {k : Nat} {dest : Nat} {x : Pair} {s : State} (h : Keeps s0 s)
    :
    Keeps s0 (dispatchPair t k dest x s) := by
  unfold dispatchPair
  extract_lets v1 v2 v3
  refine Keeps.mid (a := s0) v2 ?_ (fun h4 => ?_)
  · unfold v2
    exact putRecord_keeps (count64_keeps h)
  clear_value v2
  exact changeRouter_keeps (Keeps.put h4 rfl rfl rfl rfl rfl)

theorem dropPair_keeps {s0 : State} {t : Nat} {k : Nat} {p : Nat} {id : BitVec 32} {x : Pair} {s : State}
    (h : Keeps s0 s) :
    Keeps s0 (dropPair t k p id x s) := by
  unfold dropPair
  extract_lets v1 v2
  refine Keeps.mid (a := s0) v2 ?_ (fun h3 => ?_)
  · unfold v2
    exact changeRun_keeps (putRecord_keeps (count64_keeps h))
  clear_value v2
  exact Keeps.ite (fun _ => h3) (fun _ => raise_keeps (changeRouter_keeps h3))

theorem deferPair_keeps {s0 : State} {t : Nat} {k : Nat} {p : Nat} {id : BitVec 32} {x : Pair} {s : State}
    (h : Keeps s0 s) :
    Keeps s0 (deferPair t k p id x s) := by
  unfold deferPair
  extract_lets v1 v2
  refine Keeps.mid (a := s0) v2 ?_ (fun h3 => ?_)
  · unfold v2
    exact changeRun_keeps (putRecord_keeps (count64_keeps h))
  clear_value v2
  exact changeRouter_keeps h3

theorem takePair_keeps {s0 : State} {t : Nat} {k : Nat} {p : Nat} {id : BitVec 32} {img : Bytes} {gi : Nat}
    {again : Bool} {x : Pair} {s : State} (h : Keeps s0 s) :
    Keeps s0 (takePair t k p id img gi again x s) := by
  unfold takePair
  extract_lets v1
  refine Keeps.ite (fun _ => ?_) (fun _ => ?_)
  · exact dispatchPair_keeps h
  · refine Keeps.ite (fun _ => ?_) (fun _ => ?_)
    · exact dropPair_keeps h
    · exact Keeps.ite (fun _ => dropPair_keeps (raise_keeps h)) (fun _ => deferPair_keeps h)

theorem routerFrame_keeps {s0 : State} {t : Nat} {k : Nat} {s : State} (h : Keeps s0 s) :
    Keeps s0 (routerFrame t k s) := by
  unfold routerFrame
  extract_lets v1 v2 v3 v4
  refine Keeps.mid (a := s0) v4 ?_ (fun h5 => ?_)
  · unfold v4
    exact Keeps.put h rfl rfl rfl rfl rfl
  clear_value v4
  split
  · exact h5
  · split
    · exact h5
    · extract_lets v16
      refine Keeps.fold ?_ (fun s17 x18 h19 => ?_)
      · exact h5
      · split
        · exact h19
        · exact takePair_keeps h19

theorem tickRouters_keeps {s0 : State} {p : Nat} {s : State} (h : Keeps s0 s) : Keeps s0 (tickRouters p s) := by
  unfold tickRouters
  refine Keeps.ite (fun _ => ?_) (fun _ => ?_)
  · exact h
  · extract_lets v1
    exact Keeps.fold h (fun _ _ h4 => routerFrame_keeps h4)

theorem openTemplate_keeps {s0 : State} {p : Nat} {img : Bytes} {index : Nat} {s : State} (h : Keeps s0 s) :
    Keeps s0 (openTemplate p img index s) := by
  unfold openTemplate
  extract_lets v1
  refine Keeps.mid (a := s0) v1 ?_ (fun h2 => ?_)
  · unfold v1
    exact Keeps.fold h (fun _ _ h5 => Keeps.fold h5 (fun _ _ h8 => setDebt_keeps h8))
  clear_value v1
  exact changePart_keeps h2

theorem startNext_keeps {s0 : State} {p : Nat} {s : State} (h : Keeps s0 s) : Keeps s0 (startNext p s) := by
  unfold startNext
  refine Keeps.ite (fun _ => ?_) (fun _ => ?_)
  · exact h
  · split
    · exact h
    · extract_lets v6 v7 v8 v9
      refine Keeps.mid (a := s0) v7 ?_ (fun h10 => ?_)
      · unfold v7
        exact openTemplate_keeps h
      clear_value v7
      refine Keeps.mid (a := s0) v9 ?_ (fun h11 => ?_)
      · unfold v9
        exact Keeps.put h10 rfl rfl rfl rfl rfl
      clear_value v9
      refine Keeps.ite (fun _ => ?_) (fun _ => ?_)
      · exact changeRun_keeps h
      · exact resolveRoots_keeps (strideFor_keeps (changeRun_keeps h11))

theorem partitionMapAct_keeps {s0 : State} {a0 : Bytes} {a1 : State} (h : Keeps s0 a1) :
    WKeeps s0 (partitionMapAct a0 a1) := by
  unfold partitionMapAct
  extract_lets v1 v2 v3 v4 v5 v6
  split
  · exact .refuse
  · split
    · exact .refuse
    · exact WKeeps.done (setDictNat_keeps (Keeps.put h rfl rfl rfl rfl rfl))

theorem execPartitionMapWrite_keeps {s0 : State} {req : Req} {value : Bytes} {s : State} (h : Keeps s0 s) :
    OutKeeps s0 (execPartitionMapWrite req value s) := by
  unfold execPartitionMapWrite
  refine OutKeeps.next ?_
  refine serveWrite_keeps ?_ ?_
  · intro x1 s2 h3
    exact partitionMapAct_keeps h3
  · exact h

theorem refuseCommand_keeps {s0 : State} {p : Nat} {run : BitVec 32} {cls : Nat} {detail : Nat} {arg : Nat}
    {s : State} (h : Keeps s0 s) :
    Keeps s0 (refuseCommand p run cls detail arg s) := by
  unfold refuseCommand
  exact reportCommand_keeps (raise_keeps (count32_keeps h))

theorem turnAway_keeps {s0 : State} {p : Nat} {code : Nat} {run : BitVec 32} {cls : Nat} {detail : Nat}
    {s : State} (h : Keeps s0 s) :
    Keeps s0 (turnAway p code run cls detail s) := by
  unfold turnAway
  exact Keeps.ite (fun _ => refuseCommand_keeps h) (fun _ => reportCommand_keeps h)

theorem command_keeps {s0 : State} {p : Nat} {is : BitVec 512 → Bool} {run : BitVec 32}
    {act : BitVec 32 → BitVec 512 → State → State} {s : State}
    (h_act : ∀ (z0 : BitVec 32) (z1 : BitVec 512) (z2 : State), Keeps s0 z2 → Keeps s0 (act z0 z1 z2))
    (h : Keeps s0 s) :
    Keeps s0 (command p is run act s) := by
  unfold command
  split
  · exact h
  · refine Keeps.ite (fun _ => ?_) (fun _ => ?_)
    · exact h
    · extract_lets v7
      refine Keeps.mid (a := s0) v7 ?_ (fun h8 => ?_)
      · unfold v7
        exact changeQueue_keeps h
      clear_value v7
      split
      · exact turnAway_keeps h8
      · exact h_act _ _ _ h8

theorem startLoad_keeps {s0 : State} {p : Nat} {address : Nat} {length : Nat} {pos : BitVec 32} {e : BitVec 512}
    {s : State} (h : Keeps s0 s) :
    Keeps s0 (startLoad p address length pos e s) := by
  unfold startLoad
  extract_lets v1 v2 v3 v4
  exact Keeps.put h rfl rfl rfl rfl rfl

theorem execLoad_keeps {s0 : State} {partition : Partition} {address : BitVec 64} {length : BitVec 32}
    {s : State} (h : Keeps s0 s) :
    OutKeeps s0 (execLoad partition address length s) := by
  unfold execLoad
  refine OutKeeps.next ?_
  refine command_keeps ?_ ?_
  · intro x1 x2 s3 h4
    exact startLoad_keeps h4
  · exact h

theorem mirror_keeps {s0 : State} {p : Nat} {pos : BitVec 32} {handle : BitVec 16} {img : Bytes}
    {e : BitVec 512} {s : State} (h : Keeps s0 s) :
    Keeps s0 (mirror p pos handle img e s) := by
  unfold mirror
  extract_lets v1 v2
  exact Keeps.ite (fun _ => Keeps.put h rfl rfl rfl rfl rfl) (fun _ => h)

theorem applyMaps_keeps {s0 : State} {img : Bytes} {s : State} (h : Keeps s0 s) :
    Keeps s0 (applyMaps img s) := by
  unfold applyMaps
  refine Keeps.fold ?_ (fun s1 x2 h3 => ?_)
  · exact h
  · refine Keeps.fold ?_ (fun s4 x5 h6 => ?_)
    · exact h3
    · extract_lets v7 v8 v9 v10 v11 v12 v13
      refine Keeps.mid (a := s0) v12 ?_ (fun h14 => ?_)
      · unfold v12
        exact Keeps.fold h6 (fun _ _ h17 => undefineUnit_keeps (undefineUnit_keeps h17))
      clear_value v12
      exact Keeps.put h14 rfl rfl rfl rfl rfl

theorem placeGraph_keeps {s0 : State} {p : Nat} {slot : Nat} {n : Nat} {h3 : BitVec 16} {img : Bytes}
    {s : State} (h : Keeps s0 s) :
    Keeps s0 (placeGraph p slot n h3 img s) := by
  unfold placeGraph
  extract_lets v1 v2 v3 v4 v5
  refine Keeps.mid (a := s0) v2 ?_ (fun h6 => ?_)
  · unfold v2
    exact Keeps.ite (fun _ => applyMaps_keeps h) (fun _ => h)
  clear_value v2
  refine Keeps.mid (a := s0) v3 ?_ (fun h7 => ?_)
  · unfold v3
    exact changePart_keeps h6
  clear_value v3
  exact raise_keeps (Keeps.put h7 rfl rfl rfl rfl rfl)

theorem acceptGraph_keeps {s0 : State} {p : Nat} {img : Bytes} {pos : BitVec 32} {e : BitVec 512} {s : State}
    (h : Keeps s0 s) :
    Keeps s0 (acceptGraph p img pos e s) := by
  unfold acceptGraph
  extract_lets v1 v2 v3
  exact reportCommand_keeps (mirror_keeps (placeGraph_keeps h))

theorem loadAdmission_keeps {s0 : State} {p : Nat} {img : Bytes} {code : CodeReport} {s : State}
    (h : Keeps s0 s) :
    Keeps s0 (loadAdmission p img code s) := by
  unfold loadAdmission
  split
  · exact h
  · extract_lets v6 v7 v8
    refine Keeps.mid (a := s0) v8 ?_ (fun h9 => ?_)
    · unfold v8
      exact Keeps.put h rfl rfl rfl rfl rfl
    clear_value v8
    split
    · exact refuseCommand_keeps h9
    · exact refuseCommand_keeps h9
    · exact acceptGraph_keeps h9

theorem execLoadAdmission_keeps {s0 : State} {partition : Partition} {image : Bytes} {code : CodeReport}
    {s : State} (h : Keeps s0 s) :
    OutKeeps s0 (execLoadAdmission partition image code s) := by
  unfold execLoadAdmission
  exact OutKeeps.next (loadAdmission_keeps h)

theorem dropGraph_keeps {s0 : State} {p : Nat} {h1 : BitVec 16} {s : State} (h : Keeps s0 s) :
    Keeps s0 (dropGraph p h1 s) := by
  unfold dropGraph
  extract_lets v1 v2 v3 v4
  refine Keeps.mid (a := s0) v4 ?_ (fun h5 => ?_)
  · unfold v4
    exact Keeps.put h rfl rfl rfl rfl rfl
  clear_value v4
  exact Keeps.ite (fun _ => h5) (fun _ => changePart_keeps h5)

theorem unload_keeps {s0 : State} {p : Nat} {h1 : BitVec 16} {pos : BitVec 32} {e : BitVec 512} {s : State}
    (h : Keeps s0 s) :
    Keeps s0 (unload p h1 pos e s) := by
  unfold unload
  refine Keeps.ite (fun _ => ?_) (fun _ => ?_)
  · exact reportCommand_keeps h
  · exact reportCommand_keeps (mirror_keeps (dropGraph_keeps h))

theorem execUnload_keeps {s0 : State} {partition : Partition} {handle : BitVec 16} {s : State} (h : Keeps s0 s)
    :
    OutKeeps s0 (execUnload partition handle s) := by
  unfold execUnload
  refine OutKeeps.next ?_
  refine command_keeps ?_ ?_
  · intro x1 x2 s3 h4
    exact unload_keeps h4
  · exact h

theorem requestByPriority_keeps {s0 : State} {p : Nat} {prio : Nat} {s : State} (h : Keeps s0 s) :
    Keeps s0 (requestByPriority p prio s) := by
  unfold requestByPriority
  exact Keeps.put h rfl rfl rfl rfl rfl

theorem acceptRun_keeps {s0 : State} {p : Nat} {bindings : List Nat} {pos : BitVec 32} {e : BitVec 512}
    {s : State} (h : Keeps s0 s) :
    Keeps s0 (acceptRun p bindings pos e s) := by
  unfold acceptRun
  extract_lets v1 v2 v3 v4 v5
  refine Keeps.mid (a := s0) v5 ?_ (fun h6 => ?_)
  · unfold v5
    exact Keeps.put h rfl rfl rfl rfl rfl
  clear_value v5
  exact reportCommand_keeps (mirror_keeps (requestByPriority_keeps h6))

theorem startRun_keeps {s0 : State} {p : Nat} {pos : BitVec 32} {e : BitVec 512} {s : State} (h : Keeps s0 s) :
    Keeps s0 (startRun p pos e s) := by
  unfold startRun
  split
  · exact refuseCommand_keeps h
  · refine Keeps.ite (fun _ => ?_) (fun _ => ?_)
    · exact acceptRun_keeps h
    · extract_lets v8 v9 v10
      exact Keeps.put h rfl rfl rfl rfl rfl

theorem execRun_keeps {s0 : State} {partition : Partition} {entry : BitVec 512} {s : State} (h : Keeps s0 s) :
    OutKeeps s0 (execRun partition entry s) := by
  unfold execRun
  refine OutKeeps.next ?_
  refine command_keeps ?_ ?_
  · intro x1 x2 s3 h4
    exact startRun_keeps h4
  · exact h

theorem runCommand_keeps {s0 : State} {p : Nat} {id : BitVec 32} {f : Run → Run} {pos : BitVec 32}
    {e : BitVec 512} {s : State} (h : Keeps s0 s) :
    Keeps s0 (runCommand p id f pos e s) := by
  unfold runCommand
  refine Keeps.ite (fun _ => ?_) (fun _ => ?_)
  · exact reportCommand_keeps h
  · exact reportCommand_keeps (mirror_keeps (changeRun_keeps h))

theorem execPreempt_keeps {s0 : State} {partition : Partition} {runId : BitVec 32} {s : State} (h : Keeps s0 s)
    :
    OutKeeps s0 (execPreempt partition runId s) := by
  unfold execPreempt
  refine OutKeeps.next ?_
  refine command_keeps ?_ ?_
  · intro x1 x2 s3 h4
    exact runCommand_keeps h4
  · exact h

theorem execResume_keeps {s0 : State} {partition : Partition} {runId : BitVec 32} {s : State} (h : Keeps s0 s) :
    OutKeeps s0 (execResume partition runId s) := by
  unfold execResume
  refine OutKeeps.next ?_
  refine command_keeps ?_ ?_
  · intro x1 x2 s3 h4
    exact runCommand_keeps h4
  · exact h

theorem execAbort_keeps {s0 : State} {partition : Partition} {runId : BitVec 32} {s : State} (h : Keeps s0 s) :
    OutKeeps s0 (execAbort partition runId s) := by
  unfold execAbort
  refine OutKeeps.next ?_
  refine command_keeps ?_ ?_
  · intro x1 x2 s3 h4
    exact runCommand_keeps h4
  · exact h

theorem execUnknownCommand_keeps {s0 : State} {partition : Partition} {entry : BitVec 512} {s : State}
    (h : Keeps s0 s) :
    OutKeeps s0 (execUnknownCommand partition entry s) := by
  unfold execUnknownCommand
  extract_lets v1
  refine OutKeeps.next ?_
  refine command_keeps ?_ ?_
  · intro x2 x3 s4 h5
    exact turnAway_keeps h5
  · exact h

theorem edgeArrives_keeps {s0 : State} {p : Nat} {id : BitVec 32} {i : Nat} {e : Nat} {s : State}
    (h : Keeps s0 s) :
    Keeps s0 (edgeArrives p id i e s) := by
  unfold edgeArrives
  refine Keeps.ite (fun _ => ?_) (fun _ => ?_)
  · exact h
  · split
    · exact h
    · extract_lets v6 v7 v8 v9
      exact Keeps.ite (fun _ => h) (fun _ => settleAll_keeps (Keeps.put h rfl rfl rfl rfl rfl))

theorem execRemoteEdgeArrival_keeps {s0 : State} {partition : Partition} {runId : BitVec 32} {task : BitVec 16}
    {edge : Nat} {s : State} (h : Keeps s0 s) :
    OutKeeps s0 (execRemoteEdgeArrival partition runId task edge s) := by
  unfold execRemoteEdgeArrival
  exact OutKeeps.next (edgeArrives_keeps h)

theorem seedLanes_keeps {s0 : State} {img : Bytes} {i : Nat} {s : State} (h : Keeps s0 s) :
    Keeps s0 (seedLanes img i s) := by
  unfold seedLanes
  extract_lets v1 v2 v3
  exact Keeps.put h rfl rfl rfl rfl rfl

theorem startCode_keeps {s0 : State} {img : Bytes} {i : Nat} {s : State} (h : Keeps s0 s) :
    Keeps s0 (startCode img i s) := by
  unfold startCode
  refine Keeps.fold ?_ (fun s1 x2 h3 => ?_)
  · exact h
  · extract_lets v4 v5
    refine Keeps.mid (a := s0) v4 ?_ (fun h6 => ?_)
    · unfold v4
      exact draw_keeps h3
    clear_value v4
    exact Keeps.put h6 rfl rfl rfl rfl rfl

theorem loadRoutes_keeps {s0 : State} {img : Bytes} {i : Nat} {s : State} (h : Keeps s0 s) :
    Keeps s0 (loadRoutes img i s) := by
  unfold loadRoutes
  extract_lets v1 v2 v3
  exact Keeps.put h rfl rfl rfl rfl rfl

theorem taskStart_keeps {s0 : State} {p : Nat} {i : Nat} {s : State} (h : Keeps s0 s) :
    Keeps s0 (taskStart p i s) := by
  unfold taskStart
  split
  · exact h
  · extract_lets v6 v7 v8
    refine Keeps.mid (a := s0) v7 ?_ (fun h9 => ?_)
    · unfold v7
      exact advanceTo_keeps h
    clear_value v7
    refine Keeps.mid (a := s0) v8 ?_ (fun h10 => ?_)
    · unfold v8
      exact changeTask_keeps h9
    clear_value v8
    exact Keeps.ite (fun _ => h) (fun _ => seedLanes_keeps (startCode_keeps (loadRoutes_keeps h10)))

theorem execTaskStart_keeps {s0 : State} {partition : Partition} {task : BitVec 16} {s : State} (h : Keeps s0 s)
    :
    OutKeeps s0 (execTaskStart partition task s) := by
  unfold execTaskStart
  exact OutKeeps.next (taskStart_keeps h)

theorem taskEnd_keeps {s0 : State} {p : Nat} {i : Nat} {predicate : BitVec 16} {s : State} (h : Keeps s0 s) :
    Keeps s0 (taskEnd p i predicate s) := by
  unfold taskEnd
  split
  · exact h
  · exact Keeps.ite (fun _ => h) (fun _ => endTask_keeps (changeTask_keeps h))

theorem execTaskEnd_keeps {s0 : State} {partition : Partition} {task : BitVec 16} {predicate : BitVec 16}
    {s : State} (h : Keeps s0 s) :
    OutKeeps s0 (execTaskEnd partition task predicate s) := by
  unfold execTaskEnd
  exact OutKeeps.next (taskEnd_keeps h)

theorem routerToken_keeps {s0 : State} {t : Nat} {k : Nat} {g : Nat} {token : Nat} {raw : List Nat} {s : State}
    (h : Keeps s0 s) :
    Keeps s0 (routerToken t k g token raw s) := by
  unfold routerToken
  split
  · exact h
  · extract_lets v7
    split
    · exact h
    · refine Keeps.ite (fun _ => ?_) (fun _ => ?_)
      · exact h
      · extract_lets v13 v14 v15
        exact Keeps.fold h (fun _ _ h18 => takePair_keeps h18)

theorem execRouterToken_keeps {s0 : State} {tower : Tower} {cluster : Cluster} {group : Fin 16}
    {token : BitVec 24} {scores : List Nat} {s : State} (h : Keeps s0 s) :
    OutKeeps s0 (execRouterToken tower cluster group token scores s) := by
  unfold execRouterToken
  exact OutKeeps.next (routerToken_keeps h)

theorem writeHeld_keeps {s0 : State} {p : Nat} {id : BitVec 32} {s : State} (h : Keeps s0 s) :
    Keeps s0 (writeHeld p id s) := by
  unfold writeHeld
  extract_lets v1
  refine Keeps.fold ?_ (fun s2 x3 h4 => ?_)
  · exact h
  · extract_lets v5 v6
    refine Keeps.ite (fun _ => ?_) (fun _ => ?_)
    · exact loseFault_keeps (Keeps.put h4 rfl rfl rfl rfl rfl)
    · exact writeFaultRecord_keeps (Keeps.put h4 rfl rfl rfl rfl rfl)

theorem dropSaved_keeps {s0 : State} {p : Nat} {id : BitVec 32} {s : State} (h : Keeps s0 s) :
    Keeps s0 (dropSaved p id s) := by
  unfold dropSaved
  exact Keeps.put h rfl rfl rfl rfl rfl

theorem saveComplete_keeps {s0 : State} {p : Nat} {s : State} (h : Keeps s0 s) :
    Keeps s0 (saveComplete p s) := by
  unfold saveComplete
  split
  · exact h
  · refine Keeps.ite (fun _ => ?_) (fun _ => ?_)
    · exact h
    · extract_lets v6 v7 v8 v9
      refine Keeps.mid (a := s0) v7 ?_ (fun h10 => ?_)
      · unfold v7
        exact changeRun_keeps h
      clear_value v7
      refine Keeps.mid (a := s0) v8 ?_ (fun h11 => ?_)
      · unfold v8
        exact writeHeld_keeps (dropSaved_keeps h10)
      clear_value v8
      refine Keeps.mid (a := s0) v9 ?_ (fun h12 => ?_)
      · unfold v9
        refine Keeps.ite (fun _ => ?_) (fun _ => ?_)
        · refine raise_keeps ?_
          split
          · exact h11
          · exact reportRun_keeps h11
        · exact h11
      clear_value v9
      exact startNext_keeps h12

theorem execSaveComplete_keeps {s0 : State} {partition : Partition} {s : State} (h : Keeps s0 s) :
    OutKeeps s0 (execSaveComplete partition s) := by
  unfold execSaveComplete
  exact OutKeeps.next (saveComplete_keeps h)

theorem applyStored_keeps {s0 : State} {p : Nat} {id : BitVec 32} {s : State} (h : Keeps s0 s) :
    Keeps s0 (applyStored p id s) := by
  unfold applyStored
  extract_lets v1 v2
  exact Keeps.fold (Keeps.put h rfl rfl rfl rfl rfl) (fun _ _ h5 => answerAttached_keeps h5)

theorem restoreComplete_keeps {s0 : State} {p : Nat} {s : State} (h : Keeps s0 s) :
    Keeps s0 (restoreComplete p s) := by
  unfold restoreComplete
  split
  · exact h
  · refine Keeps.ite (fun _ => ?_) (fun _ => ?_)
    · exact h
    · extract_lets v6 v7 v8 v9 v10 v11
      refine Keeps.mid (a := s0) v7 ?_ (fun h12 => ?_)
      · unfold v7
        split
        · exact h
        · exact restoreContext_keeps h
      clear_value v7
      refine Keeps.mid (a := s0) v8 ?_ (fun h18 => ?_)
      · unfold v8
        exact changeRun_keeps h12
      clear_value v8
      refine Keeps.mid (a := s0) v9 ?_ (fun h19 => ?_)
      · unfold v9
        exact tickRouters_keeps (strideFor_keeps (openTemplate_keeps h18))
      clear_value v9
      refine Keeps.mid (a := s0) v10 ?_ (fun h20 => ?_)
      · unfold v10
        exact Keeps.fold h19 (fun _ _ h23 => loadRoutes_keeps h23)
      clear_value v10
      refine Keeps.mid (a := s0) v11 ?_ (fun h24 => ?_)
      · unfold v11
        exact raise_keeps h20
      clear_value v11
      exact pumpPartition_keeps (applyStored_keeps h24)

theorem execRestoreComplete_keeps {s0 : State} {partition : Partition} {s : State} (h : Keeps s0 s) :
    OutKeeps s0 (execRestoreComplete partition s) := by
  unfold execRestoreComplete
  exact OutKeeps.next (restoreComplete_keeps h)

theorem takeBinding_keeps {s0 : State} {p : Nat} {s : State} (h : Keeps s0 s) :
    OptPairKeeps s0 (takeBinding p s) := by
  unfold takeBinding
  refine OptPairKeeps.map (fun x1 => ?_)
  dsimp only
  exact Keeps.put h rfl rfl rfl rfl rfl

theorem bindingsArrive_keeps {s0 : State} {p : Nat} {bytes : Bytes} {s : State} (h : Keeps s0 s) :
    Keeps s0 (bindingsArrive p bytes s) := by
  unfold bindingsArrive
  split
  · exact h
  · rename_i y6
    refine OptPairKeeps.out (a := s0) y6 ?_ (fun h7 => ?_)
    · exact takeBinding_keeps h
    split
    · exact refuseCommand_keeps h7
    · exact refuseCommand_keeps h7
    · exact acceptRun_keeps h7

theorem bindingsLost_keeps {s0 : State} {p : Nat} {code : Nat} {s : State} (h : Keeps s0 s) :
    Keeps s0 (bindingsLost p code s) := by
  unfold bindingsLost
  split
  · exact h
  · rename_i y6
    refine OptPairKeeps.out (a := s0) y6 ?_ (fun h7 => ?_)
    · exact takeBinding_keeps h
    exact reportCommand_keeps h7

end Sys2Proof.Machine
end

