-- ==== Sys2Proof/Laws/KeepsTwinOps.lean ====
section
/-! SUPPORT. What the operations of Machine/TwinOps.lean keep: one lemma for each. -/

set_option Elab.async false

namespace Sys2Proof.Machine

theorem releaseAll_keeps {s0 : State} {s : State} (h : Keeps s0 s) : Keeps s0 (releaseAll s) := by
  unfold releaseAll
  exact Keeps.fold h (fun _ _ h3 => releaseRun_keeps h3)

theorem enterTwin_keeps {s0 : State} {n : Nat} {s : State} (h : Keeps s0 s) : Keeps s0 (enterTwin n s) := by
  unfold enterTwin
  exact notify_keeps (Keeps.put h rfl rfl rfl rfl rfl)

theorem sendTwinAt_keeps {s0 : State} {kind : Nat} {stamp : BitVec 64} {payload : Bytes} {s : State}
    (h : Keeps s0 s) :
    Keeps s0 (sendTwinAt kind stamp payload s) := by
  unfold sendTwinAt
  refine Keeps.ite (fun _ => ?_) (fun _ => ?_)
  · exact h
  · extract_lets v1 v2 v3 v4
    refine Keeps.mid (a := s0) v3 ?_ (fun h5 => ?_)
    · unfold v3
      exact Keeps.put h rfl rfl rfl rfl rfl
    clear_value v3
    exact pumpTx_keeps (changeTx_keeps h5)

theorem sendQueue_keeps {s0 : State} {frame : Nat} {c : TwinCommand} {s : State} (h : Keeps s0 s) :
    Keeps s0 (sendQueue frame c s) := by
  unfold sendQueue
  exact sendTwinAt_keeps h

theorem sendImage_keeps {s0 : State} {frame : Nat} {h1 : BitVec 16} {img : Bytes} {s : State} (h : Keeps s0 s) :
    Keeps s0 (sendImage frame h1 img s) := by
  unfold sendImage
  exact Keeps.fold h (fun _ _ h3 => sendTwinAt_keeps h3)

theorem readBlock_keeps {s0 : State} {block : Nat} {s : State} (h : Keeps s0 s) :
    Keeps s0 (readBlock block s).2.2 := by
  unfold readBlock
  refine Keeps.foldTriple ?_ (fun s1 x2 h3 => ?_)
  · dsimp only
    exact h
  · split
    · rename_i y8
      refine Keeps.ofPair2 (a := s0) y8 ?_ (fun h9 => ?_)
      · exact readLine_keeps h3
      dsimp only
      exact h9

theorem sendBlock_keeps {s0 : State} {frame : Nat} {p : Nat} {va : Nat} {asked : Bool} {marks : List Nat}
    {acc : Nat × State} (h : Keeps s0 (acc).2) :
    Keeps s0 (sendBlock frame p va asked marks acc).2 := by
  unfold sendBlock
  split
  · exact h
  · split
    · split
      · rename_i y11
        refine Keeps.ofPair2 (a := s0) y11 ?_ (fun h12 => ?_)
        · exact readBlock_keeps h
        dsimp only
        exact sendTwinAt_keeps h12
    · exact h

theorem sendBlocks_keeps {s0 : State} {frame : Nat} {s : State} (h : Keeps s0 s) :
    Keeps s0 (sendBlocks frame s).2 := by
  unfold sendBlocks
  extract_lets v1
  refine Keeps.foldPair ?_ (fun s2 x3 h4 => ?_)
  · dsimp only
    exact h
  · extract_lets v5 v6
    split
    · exact h4
    · exact Keeps.foldPair h4 (fun _ _ h11 => sendBlock_keeps h11)

theorem sendMirror_keeps {s0 : State} {s : State} (h : Keeps s0 s) : Keeps s0 (sendMirror s) := by
  unfold sendMirror
  refine Keeps.ite (fun _ => ?_) (fun _ => ?_)
  · exact h
  · extract_lets v1 v2 v3 v4 v5
    refine Keeps.mid (a := s0) v3 ?_ (fun h6 => ?_)
    · unfold v3
      exact Keeps.fold h (fun _ _ h9 => sendQueue_keeps h9)
    clear_value v3
    refine Keeps.mid (a := s0) v5 ?_ (fun h10 => ?_)
    · unfold v5
      exact Keeps.fold h6 (fun _ _ h13 => sendImage_keeps h13)
    clear_value v5
    split
    · rename_i y17
      refine Keeps.ofPair1 (a := s0) y17 ?_ (fun h18 => ?_)
      · exact sendBlocks_keeps h10
      extract_lets v19 v20
      refine Keeps.mid (a := s0) v19 ?_ (fun h21 => ?_)
      · unfold v19
        exact sendTwinAt_keeps h18
      clear_value v19
      exact Keeps.put h21 rfl rfl rfl rfl rfl

theorem twinEvent_keeps {s0 : State} {code : Nat} {extra : Option Bytes} {s : State} (h : Keeps s0 s) :
    Keeps s0 (twinEvent code extra s) := by
  unfold twinEvent
  exact raise_keeps h

theorem handoverTick_keeps {s0 : State} {s : State} (h : Keeps s0 s) : Keeps s0 (handoverTick s) := by
  unfold handoverTick
  split
  · exact h
  · refine Keeps.ite (fun _ => ?_) (fun _ => ?_)
    · exact twinEvent_keeps (Keeps.put h rfl rfl rfl rfl rfl)
    · refine Keeps.ite (fun _ => ?_) (fun _ => ?_)
      · exact h
      · refine Keeps.ite (fun _ => ?_) (fun _ => ?_)
        · exact twinEvent_keeps (Keeps.put h rfl rfl rfl rfl rfl)
        · exact Keeps.ite (fun _ => h) (fun _ => releaseAll_keeps (Keeps.put h rfl rfl rfl rfl rfl))

theorem drivePulse_keeps {s0 : State} {width : Nat} {s : State} (h : Keeps s0 s) :
    Keeps s0 (drivePulse width s) := by
  unfold drivePulse
  exact Keeps.put h rfl rfl rfl rfl rfl

theorem sendTwin_keeps {s0 : State} {kind : Nat} {payload : Bytes} {s : State} (h : Keeps s0 s) :
    Keeps s0 (sendTwin kind payload s) := by
  unfold sendTwin
  exact sendTwinAt_keeps h

theorem claimNow_keeps {s0 : State} {t : TwinTakeover} {s : State} (h : Keeps s0 s) :
    Keeps s0 (claimNow t s) := by
  unfold claimNow
  extract_lets v1 v2 v3 v4
  refine Keeps.mid (a := s0) v2 ?_ (fun h5 => ?_)
  · unfold v2
    exact notify_keeps (Keeps.put h rfl rfl rfl rfl rfl)
  clear_value v2
  refine Keeps.mid (a := s0) v3 ?_ (fun h6 => ?_)
  · unfold v3
    exact drivePulse_keeps (sendTwin_keeps h5)
  clear_value v3
  exact Keeps.put h6 rfl rfl rfl rfl rfl

theorem writeRecord_keeps {s0 : State} {t : TwinTakeover} {s : State} (h : Keeps s0 s) :
    Keeps s0 (writeRecord t s) := by
  unfold writeRecord
  exact notify_keeps (Keeps.put h rfl rfl rfl rfl rfl)

theorem enterActive_keeps {s0 : State} {paired : Bool} {s : State} (h : Keeps s0 s) :
    Keeps s0 (enterActive paired s) := by
  unfold enterActive
  extract_lets v1 v2
  refine Keeps.mid (a := s0) v1 ?_ (fun h3 => ?_)
  · unfold v1
    exact enterTwin_keeps h
  clear_value v1
  exact Keeps.put h3 rfl rfl rfl rfl rfl

theorem takeOver_keeps {s0 : State} {t : TwinTakeover} {s : State} (h : Keeps s0 s) :
    Keeps s0 (takeOver t s) := by
  unfold takeOver
  extract_lets v1 v2 v3 v4 v5 v6
  refine Keeps.mid (a := s0) v2 ?_ (fun h7 => ?_)
  · unfold v2
    exact enterActive_keeps h
  clear_value v2
  refine Keeps.mid (a := s0) v5 ?_ (fun h8 => ?_)
  · unfold v5
    exact reportFull_keeps (Keeps.put h7 rfl rfl rfl rfl rfl)
  clear_value v5
  refine Keeps.mid (a := s0) v6 ?_ (fun h9 => ?_)
  · unfold v6
    exact twinEvent_keeps h8
  clear_value v6
  clear_value v1
  split
  · exact h9
  · exact fabricNotice_keeps h9

theorem takeoverBoundary_keeps {s0 : State} {s : State} (h : Keeps s0 s) : Keeps s0 (takeoverBoundary s) := by
  unfold takeoverBoundary
  split
  · refine Keeps.ite (fun _ => ?_) (fun _ => ?_)
    · extract_lets v4
      refine Keeps.mid (a := s0) v4 ?_ (fun h5 => ?_)
      · unfold v4
        exact claimNow_keeps h
      clear_value v4
      exact Keeps.ite (fun _ => writeRecord_keeps h5) (fun _ => h5)
    · refine Keeps.ite (fun _ => ?_) (fun _ => ?_)
      · extract_lets v6 v7
        refine Keeps.mid (a := s0) v7 ?_ (fun h8 => ?_)
        · unfold v7
          exact Keeps.put h rfl rfl rfl rfl rfl
        clear_value v7
        exact Keeps.ite (fun _ => h8) (fun _ => writeRecord_keeps h8)
      · exact takeOver_keeps h
  · exact h

theorem plannedTakeover_keeps {s0 : State} {s : State} (h : Keeps s0 s) : Keeps s0 (plannedTakeover s) := by
  unfold plannedTakeover
  split
  · exact Keeps.ite (fun _ => Keeps.put h rfl rfl rfl rfl rfl) (fun _ => h)
  · exact h

theorem watchLag_keeps {s0 : State} {s : State} (h : Keeps s0 s) : Keeps s0 (watchLag s) := by
  unfold watchLag
  split
  · exact h
  · extract_lets v6 v7 v8 v9 v10 v11
    refine Keeps.mid (a := s0) v8 ?_ (fun h12 => ?_)
    · unfold v8
      exact Keeps.put h rfl rfl rfl rfl rfl
    clear_value v8
    refine Keeps.mid (a := s0) v11 ?_ (fun h13 => ?_)
    · unfold v11
      exact Keeps.put h12 rfl rfl rfl rfl rfl
    clear_value v11
    exact Keeps.ite (fun _ => twinEvent_keeps h13) (fun _ => h13)

theorem dropBlock_keeps {s0 : State} {p : Nat} {va : Nat} {s : State} (h : Keeps s0 s) :
    Keeps s0 (dropBlock p va s) := by
  unfold dropBlock
  extract_lets v1 v2 v3
  refine Keeps.mid (a := s0) v3 ?_ (fun h4 => ?_)
  · unfold v3
    clear_value v1
    split
    · exact h
    · exact Keeps.put h rfl rfl rfl rfl rfl
  clear_value v3
  exact twinEvent_keeps h4

theorem writeBlock_keeps {s0 : State} {k : Bytes} {s : State} (h : Keeps s0 s) : Keeps s0 (writeBlock k s) := by
  unfold writeBlock
  extract_lets v1 v2 v3 v4 v5
  refine Keeps.ite (fun _ => ?_) (fun _ => ?_)
  · exact Keeps.put h rfl rfl rfl rfl rfl
  · split
    · rename_i y9
      refine Keeps.ofPair1 (a := s0) y9 ?_ (fun h10 => ?_)
      · exact translateNow_keeps h
      split
      · refine Keeps.ofPair1 (a := s0) y9 ?_ (fun h14 => ?_)
        · exact translateNow_keeps h
        exact Keeps.put h rfl rfl rfl rfl rfl
      · refine Keeps.ofPair1 (a := s0) y9 ?_ (fun h19 => ?_)
        · exact translateNow_keeps h
        extract_lets v20
        refine Keeps.ite (fun _ => ?_) (fun _ => ?_)
        · exact Keeps.put h rfl rfl rfl rfl rfl
        · exact Keeps.fold h10 (fun _ _ h23 => writeLine_keeps h23)
      · exact dropBlock_keeps h10

theorem retryBlocks_keeps {s0 : State} {s : State} (h : Keeps s0 s) : Keeps s0 (retryBlocks s) := by
  unfold retryBlocks
  exact Keeps.fold (Keeps.put h rfl rfl rfl rfl rfl) (fun _ _ h3 => writeBlock_keeps h3)

theorem twinBoundary_keeps {s0 : State} {s : State} (h : Keeps s0 s) : Keeps s0 (twinBoundary s) := by
  unfold twinBoundary
  extract_lets v1 v2 v3 v4 v5 v6 v7 v8 v9
  refine Keeps.mid (a := s0) v2 ?_ (fun h10 => ?_)
  · unfold v2
    exact Keeps.ite (fun _ => releaseAll_keeps (Keeps.put h rfl rfl rfl rfl rfl)) (fun _ => h)
  clear_value v2
  refine Keeps.mid (a := s0) v3 ?_ (fun h11 => ?_)
  · unfold v3
    exact enterTwin_keeps h10
  clear_value v3
  refine Keeps.mid (a := s0) v5 ?_ (fun h12 => ?_)
  · unfold v5
    exact Keeps.ite (fun _ => Keeps.put h11 rfl rfl rfl rfl rfl) (fun _ => h10)
  clear_value v5
  refine Keeps.mid (a := s0) v7 ?_ (fun h13 => ?_)
  · unfold v7
    exact Keeps.ite (fun _ => Keeps.put h12 rfl rfl rfl rfl rfl) (fun _ => h12)
  clear_value v7
  refine Keeps.mid (a := s0) v8 ?_ (fun h14 => ?_)
  · unfold v8
    exact sendMirror_keeps (handoverTick_keeps h13)
  clear_value v8
  refine Keeps.mid (a := s0) v9 ?_ (fun h15 => ?_)
  · unfold v9
    exact takeoverBoundary_keeps (plannedTakeover_keeps h14)
  clear_value v9
  exact watchLag_keeps (retryBlocks_keeps h15)

theorem leaveTwin_keeps {s0 : State} {s : State} (h : Keeps s0 s) : Keeps s0 (leaveTwin s) := by
  unfold leaveTwin
  refine Keeps.ite (fun _ => ?_) (fun _ => ?_)
  · exact h
  · extract_lets v1
    refine Keeps.mid (a := s0) v1 ?_ (fun h2 => ?_)
    · unfold v1
      exact Keeps.ite (fun _ => twinEvent_keeps h) (fun _ => h)
    clear_value v1
    exact enterTwin_keeps h2

theorem startPairing_keeps {s0 : State} {s : State} (h : Keeps s0 s) : Keeps s0 (startPairing s) := by
  unfold startPairing
  refine Keeps.ite (fun _ => ?_) (fun _ => ?_)
  · extract_lets v1 v2
    refine Keeps.mid (a := s0) v1 ?_ (fun h3 => ?_)
    · unfold v1
      exact enterTwin_keeps h
    clear_value v1
    exact Keeps.put h3 rfl rfl rfl rfl rfl
  · exact h

theorem discardFabric_keeps {s0 : State} {s : State} (h : Keeps s0 s) : Keeps s0 (discardFabric s) := by
  unfold discardFabric
  extract_lets v1 v2 v3
  refine Keeps.mid (a := s0) v3 ?_ (fun h4 => ?_)
  · unfold v3
    exact Keeps.put h rfl rfl rfl rfl rfl
  clear_value v3
  exact Keeps.fold h4 (fun _ _ h7 => skipTag_keeps (dropRequest_keeps h7))

theorem fence_keeps {s0 : State} {s : State} (h : Keeps s0 s) : Keeps s0 (fence s) := by
  unfold fence
  extract_lets v1 v2
  refine Keeps.mid (a := s0) v1 ?_ (fun h3 => ?_)
  · unfold v1
    exact enterTwin_keeps h
  clear_value v1
  exact discardFabric_keeps (twinEvent_keeps (Keeps.put h3 rfl rfl rfl rfl rfl))

theorem hearPartner_keeps {s0 : State} {k : Bytes} {s : State} (h : Keeps s0 s) :
    Keeps s0 (hearPartner k s) := by
  unfold hearPartner
  extract_lets v1 v2 v3 v4 v5
  refine Keeps.mid (a := s0) v4 ?_ (fun h6 => ?_)
  · unfold v4
    exact Keeps.put h rfl rfl rfl rfl rfl
  refine Keeps.ite (fun _ => ?_) (fun _ => ?_)
  · exact leaveTwin_keeps h6
  · refine Keeps.ite (fun _ => ?_) (fun _ => ?_)
    · exact Keeps.ite (fun _ => fence_keeps (Keeps.put h6 rfl rfl rfl rfl rfl)) (fun _ => h6)
    · exact Keeps.ite (fun _ => Keeps.put h6 rfl rfl rfl rfl rfl) (fun _ => h6)

theorem onPacket_keeps {s0 : State} {kind : Nat} {k : Bytes} {act : State → State} {s : State}
    (h_act : ∀ (z0 : State), Keeps s0 z0 → Keeps s0 (act z0)) (h : Keeps s0 s) :
    Keeps s0 (onPacket kind k act s) := by
  unfold onPacket
  refine Keeps.ite (fun _ => ?_) (fun _ => ?_)
  · exact h
  · extract_lets v1
    refine Keeps.mid (a := s0) v1 ?_ (fun h2 => ?_)
    · unfold v1
      exact hearPartner_keeps h
    clear_value v1
    exact Keeps.ite (fun _ => h2) (fun _ => h_act _ h2)

theorem endPairing_keeps {s0 : State} {s : State} (h : Keeps s0 s) : Keeps s0 (endPairing s) := by
  unfold endPairing
  extract_lets v1 v2 v3 v4
  refine Keeps.mid (a := s0) v2 ?_ (fun h5 => ?_)
  · unfold v2
    exact twinEvent_keeps h
  clear_value v2
  refine Keeps.mid (a := s0) v3 ?_ (fun h6 => ?_)
  · unfold v3
    exact enterTwin_keeps h5
  clear_value v3
  exact Keeps.put h6 rfl rfl rfl rfl rfl

theorem follow_keeps {s0 : State} {n : Nat} {s : State} (h : Keeps s0 s) : Keeps s0 (follow n s) := by
  unfold follow
  extract_lets v1 v2
  refine Keeps.mid (a := s0) v1 ?_ (fun h3 => ?_)
  · unfold v1
    exact enterTwin_keeps h
  clear_value v1
  exact Keeps.put h3 rfl rfl rfl rfl rfl

theorem completePairing_keeps {s0 : State} {prim : Bool} {s : State} (h : Keeps s0 s) :
    Keeps s0 (completePairing prim s) := by
  unfold completePairing
  extract_lets v1 v2 v3 v4 v5 v6
  refine Keeps.mid (a := s0) v2 ?_ (fun h7 => ?_)
  · unfold v2
    exact Keeps.ite (fun _ => Keeps.put h rfl rfl rfl rfl rfl) (fun _ => h)
  refine Keeps.mid (a := s0) v4 ?_ (fun h8 => ?_)
  · unfold v4
    exact Keeps.put h7 rfl rfl rfl rfl rfl
  refine Keeps.mid (a := s0) v6 ?_ (fun h9 => ?_)
  · unfold v6
    refine Keeps.ite (fun _ => ?_) (fun _ => ?_)
    · exact Keeps.put h8 rfl rfl rfl rfl rfl
    · exact Keeps.ite (fun _ => enterActive_keeps h8) (fun _ => follow_keeps h8)
  clear_value v6
  exact twinEvent_keeps h9

theorem tryPairing_keeps {s0 : State} {f : TwinFacts} {s : State} (h : Keeps s0 s) :
    Keeps s0 (tryPairing f s) := by
  unfold tryPairing
  refine Keeps.ite (fun _ => ?_) (fun _ => ?_)
  · exact h
  · split
    · exact completePairing_keeps h
    · exact Keeps.ite (fun _ => h) (fun _ => twinEvent_keeps (Keeps.put h rfl rfl rfl rfl rfl))

theorem takeToken_keeps {s0 : State} {stamp : BitVec 64} {oneWay : Nat} {f : TwinFacts} {s : State}
    (h : Keeps s0 s) :
    Keeps s0 (takeToken stamp oneWay f s) := by
  unfold takeToken
  split
  · extract_lets v5 v6 v7 v8
    refine Keeps.mid (a := s0) v6 ?_ (fun h9 => ?_)
    · unfold v6
      exact Keeps.put h rfl rfl rfl rfl rfl
    clear_value v6
    refine Keeps.ite (fun _ => ?_) (fun _ => ?_)
    · exact Keeps.ite (fun _ => h9) (fun _ => endPairing_keeps h9)
    · refine Keeps.ite (fun _ => ?_) (fun _ => ?_)
      · exact h9
      · refine Keeps.ite (fun _ => ?_) (fun _ => ?_)
        · exact tryPairing_keeps (Keeps.put h9 rfl rfl rfl rfl rfl)
        · exact Keeps.put h9 rfl rfl rfl rfl rfl

theorem mirrorLoad_keeps {s0 : State} {h0 : BitVec 16} {code : CodeReport} {s : State} (h : Keeps s0 s) :
    Keeps s0 (mirrorLoad h0 code s) := by
  unfold mirrorLoad
  extract_lets v1 v2 v3 v4 v5
  refine Keeps.mid (a := s0) v5 ?_ (fun h6 => ?_)
  · unfold v5
    exact Keeps.fold h (fun _ _ h9 => dropGraph_keeps h9)
  clear_value v5
  refine Keeps.ite (fun _ => ?_) (fun _ => ?_)
  · exact h
  · split
    · exact twinEvent_keeps h6
    · exact placeGraph_keeps h6

theorem keepCommand_keeps {s0 : State} {c : TwinCommand} {s : State} (h : Keeps s0 s) :
    Keeps s0 (keepCommand c s) := by
  unfold keepCommand
  extract_lets v1 v2 v3 v4 v5 v6 v7
  refine Keeps.mid (a := s0) v3 ?_ (fun h8 => ?_)
  · unfold v3
    exact Keeps.put h rfl rfl rfl rfl rfl
  clear_value v3
  refine Keeps.ite (fun _ => ?_) (fun _ => ?_)
  · exact Keeps.put h8 rfl rfl rfl rfl rfl
  · exact Keeps.ite (fun _ => Keeps.put h8 rfl rfl rfl rfl rfl) (fun _ => h8)

theorem setTwin_keeps {s0 : State} {n : Nat} {s : State} (h : Keeps s0 s) : Keeps s0 (setTwin n s) := by
  unfold setTwin
  exact Keeps.ite (fun _ => h) (fun _ => notify_keeps (Keeps.put h rfl rfl rfl rfl rfl))

theorem commitFrame_keeps {s0 : State} {frame : Nat} {codes : List CodeReport} {s : State} (h : Keeps s0 s) :
    Keeps s0 (commitFrame frame codes s) := by
  unfold commitFrame
  extract_lets v1 v2 v3 v4 v5 v6 v7
  refine Keeps.mid (a := s0) v3 ?_ (fun h8 => ?_)
  · unfold v3
    exact Keeps.fold h (fun _ _ h11 => mirrorLoad_keeps h11)
  clear_value v3
  refine Keeps.mid (a := s0) v5 ?_ (fun h12 => ?_)
  · unfold v5
    refine Keeps.fold ?_ (fun s13 x14 h15 => ?_)
    · exact h8
    · exact keepCommand_keeps (Keeps.ite (fun _ => dropGraph_keeps h15) (fun _ => h15))
  clear_value v5
  refine Keeps.mid (a := s0) v7 ?_ (fun h16 => ?_)
  · unfold v7
    exact Keeps.put h12 rfl rfl rfl rfl rfl
  clear_value v7
  exact Keeps.ite (fun _ => setTwin_keeps h16) (fun _ => h16)

end Sys2Proof.Machine
end

