-- ==== Sys2Proof/Laws/KeepsBoundary.lean ====
section
/-! SUPPORT. What the operations of Machine/Boundary.lean keep: one lemma for each. -/

set_option Elab.async false

namespace Sys2Proof.Machine

theorem ageRecords_keeps {s0 : State} {s : State} (h : Keeps s0 s) : Keeps s0 (ageRecords s) := by
  unfold ageRecords
  exact Keeps.put h rfl rfl rfl rfl rfl

theorem resetDebts_keeps {s0 : State} {rs : List (Nat × Nat)} {s : State} (h : Keeps s0 s) :
    Keeps s0 (resetDebts rs s) := by
  unfold resetDebts
  exact Keeps.fold h (fun _ _ h3 => setDebt_keeps h3)

theorem slip_keeps {s0 : State} {p : Nat} {t : Nat} {img : Bytes} {s : State} (h : Keeps s0 s) :
    Keeps s0 (slip p t img s) := by
  unfold slip
  extract_lets v1 v2
  refine Keeps.mid (a := s0) v1 ?_ (fun h3 => ?_)
  · unfold v1
    exact Keeps.ite (fun _ => h) (fun _ => resetDebts_keeps h)
  clear_value v1
  exact raise_keeps (count32_keeps (changePart_keeps h3))

theorem advanceTemplate_keeps {s0 : State} {p : Nat} {img : Bytes} {s : State} (h : Keeps s0 s) :
    Keeps s0 (advanceTemplate p img s) := by
  unfold advanceTemplate
  extract_lets v1 v2 v3
  refine Keeps.mid (a := s0) v3 ?_ (fun h4 => ?_)
  · unfold v3
    split
    · exact h
    · exact changeRun_keeps h
  clear_value v3
  exact changePart_keeps h4

theorem closeFrame_keeps {s0 : State} {p : Nat} {s : State} (h : Keeps s0 s) : Keeps s0 (closeFrame p s) := by
  unfold closeFrame
  split
  · exact changePart_keeps (resetDebts_keeps h)
  · extract_lets v6 v7 v8 v9 v10 v11
    refine Keeps.mid (a := s0) v6 ?_ (fun h12 => ?_)
    · unfold v6
      exact changePart_keeps h
    clear_value v6
    refine Keeps.ite (fun _ => ?_) (fun _ => ?_)
    · exact changePart_keeps (resetDebts_keeps h12)
    · refine Keeps.ite (fun _ => ?_) (fun _ => ?_)
      · exact changePart_keeps h12
      · clear_value v9
        clear_value v11
        split
        · exact slip_keeps h12
        · exact slip_keeps h12
        · exact advanceTemplate_keeps (resetDebts_keeps h12)

theorem closeUnowned_keeps {s0 : State} {s : State} (h : Keeps s0 s) : Keeps s0 (closeUnowned s) := by
  unfold closeUnowned
  exact resetDebts_keeps h

theorem takeLength_keeps {s0 : State} {c : BitVec 2} {s : State} (h : Keeps s0 s) :
    Keeps s0 (takeLength c s) := by
  unfold takeLength
  exact answerWaiting_keeps (setDictNat_keeps (Keeps.put h rfl rfl rfl rfl rfl))

theorem setChangePoint_keeps {s0 : State} {s : State} (h : Keeps s0 s) : Keeps s0 (setChangePoint s) := by
  unfold setChangePoint
  exact Keeps.put h rfl rfl rfl rfl rfl

theorem openOptical_keeps {s0 : State} {s : State} (h : Keeps s0 s) : Keeps s0 (openOptical s).2 := by
  unfold openOptical
  extract_lets v1 v2
  refine Keeps.mid (a := s0) v2 ?_ (fun h3 => ?_)
  · unfold v2
    exact Keeps.put h rfl rfl rfl rfl rfl
  clear_value v2
  split
  · dsimp only
    exact h3
  · split
    · dsimp only
      exact h3
    · split
      · dsimp only
        exact takeLength_keeps h3
      · dsimp only
        exact setChangePoint_keeps (takeLength_keeps h3)

theorem rebaseFrames_keeps {s0 : State} {n : Nat} {s : State} (h : Keeps s0 s) :
    Keeps s0 (rebaseFrames n s) := by
  unfold rebaseFrames
  exact Keeps.put h rfl rfl rfl rfl rfl

theorem openFirst_keeps {s0 : State} {s : State} (h : Keeps s0 s) : Keeps s0 (openFirst s).2 := by
  unfold openFirst
  extract_lets v1 v2 v3 v4
  refine Keeps.mid (a := s0) v3 ?_ (fun h5 => ?_)
  · unfold v3
    exact rebaseFrames_keeps (Keeps.put h rfl rfl rfl rfl rfl)
  refine Keeps.mid (a := s0) v4 ?_ (fun h6 => ?_)
  · unfold v4
    split
    · exact h5
    · exact takeLength_keeps h5
  split
  · dsimp only
    exact setChangePoint_keeps h6
  · dsimp only
    exact h6

theorem switchTowers_keeps {s0 : State} {s : State} (h : Keeps s0 s) : Keeps s0 (switchTowers s).2 := by
  unfold switchTowers
  extract_lets v1 v2 v3 v4
  refine Keeps.mid (a := s0) v2 ?_ (fun h5 => ?_)
  · unfold v2
    exact Keeps.fold h (fun _ _ h8 => changeReceiver_keeps h8)
  clear_value v2
  refine Keeps.mid (a := s0) v3 ?_ (fun h9 => ?_)
  · unfold v3
    exact Keeps.ite (fun _ => trainPaths_keeps h5) (fun _ => h5)
  clear_value v3
  split
  · dsimp only
    exact Keeps.put h9 rfl rfl rfl rfl rfl
  · dsimp only
    exact h9

theorem mark_keeps {s0 : State} {s : State} (h : Keeps s0 s) : Keeps s0 (mark s) := by
  unfold mark
  exact raise_keeps h

theorem openFrame_keeps {s0 : State} {s : State} (h : Keeps s0 s) : Keeps s0 (openFrame s) := by
  unfold openFrame
  extract_lets v1 v2
  refine Keeps.mid (a := s0) v2 ?_ (fun h3 => ?_)
  · unfold v2
    exact Keeps.put h rfl rfl rfl rfl rfl
  clear_value v2
  refine Keeps.ite (fun _ => ?_) (fun _ => ?_)
  · exact h3
  · split
    · rename_i y7
      refine Keeps.ofPair1 (a := s0) y7 ?_ (fun h8 => ?_)
      · split
        · exact openOptical_keeps h3
        · exact openFirst_keeps h3
      split
      · rename_i y14
        refine Keeps.ofPair1 (a := s0) y14 ?_ (fun h15 => ?_)
        · exact switchTowers_keeps h8
        exact Keeps.ite (fun _ => mark_keeps h15) (fun _ => h15)

theorem teardownRuns_keeps {s0 : State} {p : Nat} {s : State} (h : Keeps s0 s) :
    Keeps s0 (teardownRuns p s) := by
  unfold teardownRuns
  extract_lets v1 v2
  refine Keeps.mid (a := s0) v1 ?_ (fun h3 => ?_)
  · unfold v1
    refine Keeps.fold ?_ (fun s4 x5 h6 => ?_)
    · exact h
    · extract_lets v7 v8
      refine Keeps.mid (a := s0) v7 ?_ (fun h9 => ?_)
      · unfold v7
        exact changeRun_keeps h6
      clear_value v7
      refine Keeps.mid (a := s0) v8 ?_ (fun h10 => ?_)
      · unfold v8
        exact changeRun_keeps h9
      clear_value v8
      split
      · exact raise_keeps (reportRun_keeps h10)
      · exact raise_keeps (reportRun_keeps h10)
      · exact h9
      · exact changeRun_keeps h9
  clear_value v1
  exact Keeps.put h3 rfl rfl rfl rfl rfl

theorem enterSaving_keeps {s0 : State} {p : Nat} {r : Run} {s : State} (h : Keeps s0 s) :
    Keeps s0 (enterSaving p r s) := by
  unfold enterSaving
  extract_lets v1 v2 v3
  refine Keeps.mid (a := s0) v2 ?_ (fun h4 => ?_)
  · unfold v2
    exact changePart_keeps h
  clear_value v2
  exact raise_keeps (count32_keeps (changeRun_keeps h4))

theorem tickRun_keeps {s0 : State} {p : Nat} {r : Run} {s : State} (h : Keeps s0 s) :
    Keeps s0 (tickRun p r s) := by
  unfold tickRun
  refine Keeps.ite (fun _ => ?_) (fun _ => ?_)
  · exact releaseRun_keeps h
  · split
    · exact Keeps.ite (fun _ => enterSaving_keeps h) (fun _ => h)
    · exact Keeps.ite (fun _ => h) (fun _ => changeRun_keeps h)
    · exact Keeps.ite (fun _ => h) (fun _ => changeRun_keeps h)
    · exact h

theorem tickPartition_keeps {s0 : State} {p : Nat} {s : State} (h : Keeps s0 s) :
    Keeps s0 (tickPartition p s) := by
  unfold tickPartition
  extract_lets v1 v2
  refine Keeps.mid (a := s0) v1 ?_ (fun h3 => ?_)
  · unfold v1
    exact Keeps.fold h (fun _ _ h6 => tickRun_keeps h6)
  clear_value v1
  refine Keeps.mid (a := s0) v2 ?_ (fun h7 => ?_)
  · unfold v2
    exact startNext_keeps h3
  clear_value v2
  split
  · exact h7
  · exact Keeps.ite (fun _ => h7) (fun _ => resolveRoots_keeps h7)

theorem takeBand_keeps {s0 : State} {t : Nat} {s : State} (h : Keeps s0 s) : Keeps s0 (takeBand t s) := by
  unfold takeBand
  extract_lets v1
  split
  · exact h
  · extract_lets v7 v8 v9
    refine Keeps.mid (a := s0) v7 ?_ (fun h10 => ?_)
    · unfold v7
      exact changeStack_keeps h
    clear_value v7
    refine Keeps.mid (a := s0) v8 ?_ (fun h11 => ?_)
    · unfold v8
      exact raiseIf_keeps h10
    clear_value v8
    refine Keeps.mid (a := s0) v9 ?_ (fun h12 => ?_)
    · unfold v9
      exact resumeScrub_keeps (changeStack_keeps h11)
    clear_value v9
    exact Keeps.ite (fun _ => wake_keeps (raise_keeps h12)) (fun _ => h11)

theorem sendTick_keeps {s0 : State} {s : State} (h : Keeps s0 s) : Keeps s0 (sendTick s) := by
  unfold sendTick
  extract_lets v1 v2
  exact Keeps.put h rfl rfl rfl rfl rfl

theorem frameBoundary_keeps {s0 : State} {taps : List LaserTap} {s : State} (h : Keeps s0 s) :
    Keeps s0 (frameBoundary taps s) := by
  unfold frameBoundary
  refine Keeps.ite (fun _ => ?_) (fun _ => ?_)
  · exact h
  · extract_lets v1 v2 v3 v4 v5 v6 v7 v8 v9 v10
    refine Keeps.mid (a := s0) v1 ?_ (fun h11 => ?_)
    · unfold v1
      exact endSumsFrame_keeps (meshArrivals_keeps (advanceTo_keeps h))
    clear_value v1
    refine Keeps.mid (a := s0) v2 ?_ (fun h12 => ?_)
    · unfold v2
      exact ageRecords_keeps (Keeps.fold (closeUnowned_keeps h11) (fun _ _ h15 => closeFrame_keeps h15))
    clear_value v2
    refine Keeps.mid (a := s0) v3 ?_ (fun h16 => ?_)
    · unfold v3
      exact clockBoundary_keeps (openFrame_keeps h12)
    clear_value v3
    refine Keeps.mid (a := s0) v4 ?_ (fun h17 => ?_)
    · unfold v4
      exact Keeps.fold h16 (fun _ _ h20 => strideFor_keeps h20)
    clear_value v4
    refine Keeps.mid (a := s0) v6 ?_ (fun h21 => ?_)
    · unfold v6
      exact Keeps.fold (Keeps.put h17 rfl rfl rfl rfl rfl) (fun _ _ h24 => teardownRuns_keeps h24)
    clear_value v6
    refine Keeps.mid (a := s0) v7 ?_ (fun h25 => ?_)
    · unfold v7
      exact Keeps.fold h21 (fun _ _ h28 => tickRouters_keeps (tickPartition_keeps h28))
    clear_value v7
    refine Keeps.mid (a := s0) v8 ?_ (fun h29 => ?_)
    · unfold v8
      exact linksBoundary_keeps (applyPathChanges_keeps (bundlesBoundary_keeps (lasersBoundary_keeps h25)))
    clear_value v8
    refine Keeps.mid (a := s0) v9 ?_ (fun h30 => ?_)
    · unfold v9
      exact twinBoundary_keeps (securityBoundary_keeps (powerBoundary_keeps h29))
    clear_value v9
    refine Keeps.mid (a := s0) v10 ?_ (fun h31 => ?_)
    · unfold v10
      exact Keeps.fold h30 (fun _ _ h34 => takeBand_keeps h34)
    clear_value v10
    exact sendTick_keeps (pumpAll_keeps h31)

theorem execFrameBoundary_keeps {s0 : State} {taps : List LaserTap} {s : State} (h : Keeps s0 s) :
    OutKeeps s0 (execFrameBoundary taps s) := by
  unfold execFrameBoundary
  exact OutKeeps.next (frameBoundary_keeps h)

end Sys2Proof.Machine
end

