-- ==== Sys2Proof/Laws/KeepsHostPort.lean ====
section
/-! SUPPORT. What the operations of Machine/HostPort.lean keep: one lemma for each. -/

set_option Elab.async false

namespace Sys2Proof.Machine

theorem linkUp_keeps {s0 : State} {port : Nat} {rate : Nat} {width : Nat} {flit : Bool} {s : State}
    (h : Keeps s0 s) :
    Keeps s0 (linkUp port rate width flit s) := by
  unfold linkUp
  exact Keeps.ite (fun _ => h) (fun _ => raise_keeps (Keeps.put h rfl rfl rfl rfl rfl))

theorem execHostLinkUp_keeps {s0 : State} {port : Fin 2} {rate : BitVec 4} {width : BitVec 5} {flit : Bool}
    {s : State} (h : Keeps s0 s) :
    OutKeeps s0 (execHostLinkUp port rate width flit s) := by
  unfold execHostLinkUp
  exact OutKeeps.next (linkUp_keeps h)

theorem dropHostWork_keeps {s0 : State} {p : Nat} {s : State} (h : Keeps s0 s) :
    Keeps s0 (dropHostWork p s) := by
  unfold dropHostWork
  exact Keeps.put h rfl rfl rfl rfl rfl

theorem disableQueue_keeps {s0 : State} {p : Nat} {s : State} (h : Keeps s0 s) :
    Keeps s0 (disableQueue p s) := by
  unfold disableQueue
  exact dropHostWork_keeps (changeQueue_keeps h)

theorem resetPartition_keeps {s0 : State} {detail : Nat} {p : Nat} {s : State} (h : Keeps s0 s) :
    Keeps s0 (resetPartition detail p s) := by
  unfold resetPartition
  extract_lets v1 v2 v3 v4
  refine Keeps.mid (a := s0) v1 ?_ (fun h5 => ?_)
  · unfold v1
    exact Keeps.fold h (fun _ _ h8 => releaseRun_keeps h8)
  clear_value v1
  refine Keeps.mid (a := s0) v2 ?_ (fun h9 => ?_)
  · unfold v2
    exact Keeps.fold h5 (fun _ _ h12 => dropGraph_keeps h12)
  clear_value v2
  refine Keeps.mid (a := s0) v3 ?_ (fun h13 => ?_)
  · unfold v3
    exact disableQueue_keeps h9
  clear_value v3
  exact Keeps.put h13 rfl rfl rfl rfl rfl

theorem resetEndpoint_keeps {s0 : State} {s : State} (h : Keeps s0 s) : Keeps s0 (resetEndpoint s) := by
  unfold resetEndpoint
  extract_lets v1 v2 v3
  exact Keeps.put h rfl rfl rfl rfl rfl

theorem resetFunction_keeps {s0 : State} {detail : Nat} {f : Nat} {s : State} (h : Keeps s0 s) :
    Keeps s0 (resetFunction detail f s) := by
  unfold resetFunction
  extract_lets v1 v2 v3 v4 v5 v6 v7
  refine Keeps.mid (a := s0) v2 ?_ (fun h8 => ?_)
  · unfold v2
    exact Keeps.fold h (fun _ _ h11 => resetPartition_keeps h11)
  clear_value v2
  refine Keeps.mid (a := s0) v3 ?_ (fun h12 => ?_)
  · unfold v3
    exact tdiFail_keeps h8
  clear_value v3
  refine Keeps.mid (a := s0) v4 ?_ (fun h13 => ?_)
  · unfold v4
    exact changeFunction_keeps h12
  clear_value v4
  refine Keeps.mid (a := s0) v6 ?_ (fun h14 => ?_)
  · unfold v6
    exact Keeps.put h13 rfl rfl rfl rfl rfl
  clear_value v6
  refine Keeps.mid (a := s0) v7 ?_ (fun h15 => ?_)
  · unfold v7
    exact Keeps.ite (fun _ => resetEndpoint_keeps h14) (fun _ => h14)
  clear_value v7
  exact raise_keeps h15

theorem loseHostWrites_keeps {s0 : State} {p : Nat} {s : State} (h : Keeps s0 s) :
    Keeps s0 (loseHostWrites p s) := by
  unfold loseHostWrites
  refine Keeps.fold ?_ (fun s1 x2 h3 => ?_)
  · exact h
  · refine Keeps.fold ?_ (fun s4 x5 h6 => ?_)
    · exact h3
    · split
      · exact Keeps.ite (fun _ => finishDesc_keeps (changeTask_keeps h6)) (fun _ => h6)

theorem linkGone_keeps {s0 : State} {port : Nat} {loss : HostLoss} {s : State} (h : Keeps s0 s) :
    Keeps s0 (linkGone port loss s) := by
  unfold linkGone
  extract_lets v1 v2 v3
  refine Keeps.mid (a := s0) v3 ?_ (fun h4 => ?_)
  · unfold v3
    exact raise_keeps (Keeps.put h rfl rfl rfl rfl rfl)
  clear_value v3
  refine Keeps.ite (fun _ => ?_) (fun _ => ?_)
  · exact h
  · refine Keeps.fold ?_ (fun s5 x6 h7 => ?_)
    · exact h4
    · exact resetFunction_keeps (Keeps.fold h7 (fun _ _ h10 => loseHostWrites_keeps h10))

theorem execHostLinkDown_keeps {s0 : State} {port : Fin 2} {loss : HostLoss} {s : State} (h : Keeps s0 s) :
    OutKeeps s0 (execHostLinkDown port loss s) := by
  unfold execHostLinkDown
  exact OutKeeps.next (linkGone_keeps h)

theorem functionReset_keeps {s0 : State} {f : Nat} {s : State} (h : Keeps s0 s) :
    Keeps s0 (functionReset f s) := by
  unfold functionReset
  refine Keeps.ite (fun _ => ?_) (fun _ => ?_)
  · exact h
  · refine Keeps.ite (fun _ => ?_) (fun _ => ?_)
    · exact Keeps.fold h (fun _ _ h3 => resetFunction_keeps h3)
    · exact resetFunction_keeps h

theorem execFunctionLevelReset_keeps {s0 : State} {function : Function} {s : State} (h : Keeps s0 s) :
    OutKeeps s0 (execFunctionLevelReset function s) := by
  unfold execFunctionLevelReset
  exact OutKeeps.next (functionReset_keeps h)

theorem answerHost_keeps {s0 : State} {a : TlpAnswer} {s : State} (h : Keeps s0 s) :
    Keeps s0 (answerHost a s) := by
  unfold answerHost
  exact Keeps.put h rfl rfl rfl rfl rfl

theorem configWrite_keeps {s0 : State} {f : Nat} {access : ConfigAccess} {s : State} (h : Keeps s0 s) :
    Keeps s0 (configWrite f access s) := by
  unfold configWrite
  split
  · exact h
  · exact changeFunction_keeps h
  · exact changeFunction_keeps h
  · exact changeFunction_keeps h
  · exact changeFunction_keeps h

theorem configRequest_keeps {s0 : State} {f : Nat} {access : ConfigAccess} {s : State} (h : Keeps s0 s) :
    Keeps s0 (configRequest f access s) := by
  unfold configRequest
  refine Keeps.ite (fun _ => ?_) (fun _ => ?_)
  · exact h
  · exact Keeps.ite (fun _ => answerHost_keeps h) (fun _ => answerHost_keeps (configWrite_keeps h))

theorem execConfigRequest_keeps {s0 : State} {function : Function} {access : ConfigAccess} {s : State}
    (h : Keeps s0 s) :
    OutKeeps s0 (execConfigRequest function access s) := by
  unfold execConfigRequest
  exact OutKeeps.next (configRequest_keeps h)

theorem barFailed_keeps {s0 : State} {f : Nat} {p : Option Nat} {s : State} (h : Keeps s0 s) :
    Keeps s0 (barFailed f p s) := by
  unfold barFailed
  exact raise_keeps h

theorem barPiece_keeps {s0 : State} {f : Nat} {p : Nat} {write : Bool} {a : Nat} {len : Nat} {s : State}
    (h : Keeps s0 s) :
    Keeps s0 (barPiece f p write a len s).2 := by
  unfold barPiece
  split
  · rename_i y4
    refine Keeps.ofPair1 (a := s0) y4 ?_ (fun h5 => ?_)
    · exact translateNow_keeps h
    split
    · refine Keeps.ofPair1 (a := s0) y4 ?_ (fun h11 => ?_)
      · exact translateNow_keeps h
      split
      · dsimp only
        exact h5
      · split
        · dsimp only
          exact h5
        · split
          · split
            · dsimp only
              exact h5
            · split
              · dsimp only
                exact h5
              · dsimp only
                exact h5
          · split
            · dsimp only
              exact h5
            · split
              · dsimp only
                exact h5
              · dsimp only
                exact h5
    · refine Keeps.ofPair1 (a := s0) y4 ?_ (fun h33 => ?_)
      · exact translateNow_keeps h
      dsimp only
      exact h5
    · refine Keeps.ofPair1 (a := s0) y4 ?_ (fun h36 => ?_)
      · exact translateNow_keeps h
      dsimp only
      exact h5
    · refine Keeps.ofPair1 (a := s0) y4 ?_ (fun h39 => ?_)
      · exact translateNow_keeps h
      dsimp only
      exact h5
    · refine Keeps.ofPair1 (a := s0) y4 ?_ (fun h43 => ?_)
      · exact translateNow_keeps h
      dsimp only
      exact h5
    · refine Keeps.ofPair1 (a := s0) y4 ?_ (fun h48 => ?_)
      · exact translateNow_keeps h
      dsimp only
      exact h5

theorem barCheck_keeps {s0 : State} {f : Nat} {p : Nat} {write : Bool} {a3 : List (Nat × Nat)} {a4 : State}
    (h : Keeps s0 a4) :
    Keeps s0 (barCheck f p write a3 a4).2 := by
  induction a3 generalizing f p write a4 h
  · rw [barCheck]
    dsimp only
    exact h
  · rename_i ih3
    rw [barCheck]
    split
    · rename_i y7
      refine Keeps.ofPair1 (a := s0) y7 ?_ (fun h8 => ?_)
      · exact barPiece_keeps h
      split
      · rename_i y12
        refine Keeps.ofPair1 (a := s0) y12 ?_ (fun h13 => ?_)
        · exact ih3 h8
        dsimp only
        exact h13
      · exact ih3 h8
    · exact barPiece_keeps h

theorem barWrite_keeps {s0 : State} {a0 : List (Nat × Nat)} {a1 : Bytes} {a2 : Bool} {a3 : State}
    (h : Keeps s0 a3) :
    Keeps s0 (barWrite a0 a1 a2 a3) := by
  induction a0 generalizing a1 a2 a3 h
  · rw [barWrite]
    exact h
  · rename_i ih3
    rw [barWrite]
    refine ih3 ?_
    refine Keeps.ite (fun _ => ?_) (fun _ => ?_)
    · exact spadWrite_keeps h
    · split
      · rename_i y7
        refine Keeps.ofPair1 (a := s0) y7 ?_ (fun h8 => ?_)
        · exact writeLine_keeps h
        exact Keeps.ite (fun _ => h8) (fun _ => sendInvalidations_keeps h8)

theorem barRead_keeps {s0 : State} {places : List (Nat × Nat)} {s : State} (h : Keeps s0 s) :
    Keeps s0 (barRead places s).2.2 := by
  unfold barRead
  refine Keeps.foldTriple ?_ (fun s1 x2 h3 => ?_)
  · dsimp only
    exact h
  · split
    · rename_i y8
      refine Keeps.ofPair2 (a := s0) y8 ?_ (fun h9 => ?_)
      · exact readLocal_keeps h3
      dsimp only
      exact h9

theorem barAccess_keeps {s0 : State} {x : BarAccess} {s : State} (h : Keeps s0 s) :
    Keeps s0 (barAccess x s) := by
  unfold barAccess
  extract_lets v1 v2 v3
  refine Keeps.mid (a := s0) v3 ?_ (fun h4 => ?_)
  · unfold v3
    exact barFailed_keeps h
  clear_value v3
  split
  · exact Keeps.ite (fun _ => h4) (fun _ => answerHost_keeps h4)
  · split
    · rename_i y14
      refine Keeps.ofPair1 (a := s0) y14 ?_ (fun h15 => ?_)
      · exact barCheck_keeps h
      split
      · refine Keeps.ofPair1 (a := s0) y14 ?_ (fun h18 => ?_)
        · exact barCheck_keeps h
        exact Keeps.ite (fun _ => h15) (fun _ => answerHost_keeps h15)
      · refine Keeps.ofPair1 (a := s0) y14 ?_ (fun h21 => ?_)
        · exact barCheck_keeps h
        extract_lets v22
        refine Keeps.mid (a := s0) v22 ?_ (fun h23 => ?_)
        · unfold v22
          exact barFailed_keeps h15
        clear_value v22
        exact Keeps.ite (fun _ => h23) (fun _ => answerHost_keeps h23)
      · refine Keeps.ofPair1 (a := s0) y14 ?_ (fun h28 => ?_)
        · exact barCheck_keeps h
        extract_lets v29
        refine Keeps.mid (a := s0) v29 ?_ (fun h30 => ?_)
        · unfold v29
          exact worldDenied_keeps h15
        clear_value v29
        exact Keeps.ite (fun _ => h30) (fun _ => answerHost_keeps h30)
      · refine Keeps.ofPair1 (a := s0) y14 ?_ (fun h34 => ?_)
        · exact barCheck_keeps h
        split
        · exact barWrite_keeps h15
        · split
          · rename_i y45
            refine Keeps.ofPair2 (a := s0) y45 ?_ (fun h46 => ?_)
            · exact barRead_keeps h15
            exact answerHost_keeps h46

theorem execBar2Read_keeps {s0 : State} {function : Function} {offset : BitVec 44} {length : BitVec 13}
    {s : State} (h : Keeps s0 s) :
    OutKeeps s0 (execBar2Read function offset length s) := by
  unfold execBar2Read
  exact OutKeeps.next (Keeps.ite (fun _ => barAccess_keeps h) (fun _ => h))

theorem execBar2Write_keeps {s0 : State} {function : Function} {offset : BitVec 44} {data : Bytes}
    {poisoned : Bool} {s : State} (h : Keeps s0 s) :
    OutKeeps s0 (execBar2Write function offset data poisoned s) := by
  unfold execBar2Write
  exact OutKeeps.next (Keeps.ite (fun _ => barAccess_keeps h) (fun _ => h))

theorem execBar2Atomicop_keeps {s0 : State} {function : Function} {offset : BitVec 44} {s : State}
    (h : Keeps s0 s) :
    OutKeeps s0 (execBar2Atomicop function offset s) := by
  unfold execBar2Atomicop
  exact OutKeeps.next (Keeps.ite (fun _ => answerHost_keeps h) (fun _ => h))

theorem ownersAct_keeps {s0 : State} {a0 : Bytes} {a1 : State} (h : Keeps s0 a1) :
    WKeeps s0 (ownersAct a0 a1) := by
  unfold ownersAct
  extract_lets v1 v2 v3 v4 v5 v6 v7
  refine Keeps.mid (a := s0) v6 ?_ (fun h8 => ?_)
  · unfold v6
    split
    · exact h
    · exact setDict_keeps h
  clear_value v6
  refine Keeps.mid (a := s0) v7 ?_ (fun h14 => ?_)
  · unfold v7
    exact setDictNat_keeps h
  clear_value v7
  split
  · exact .refuse
  · split
    · exact .refuse
    · exact WKeeps.done (Keeps.ite (fun _ => h14) (fun _ => notify_keeps h14))

theorem execPartitionOwnersWrite_keeps {s0 : State} {req : Req} {value : Bytes} {s : State} (h : Keeps s0 s) :
    OutKeeps s0 (execPartitionOwnersWrite req value s) := by
  unfold execPartitionOwnersWrite
  refine OutKeeps.next ?_
  refine serveWrite_keeps ?_ ?_
  · intro x1 s2 h3
    exact ownersAct_keeps h3
  · exact h

theorem haltQueue_keeps {s0 : State} {p : Nat} {error : Nat} {s : State} (h : Keeps s0 s) :
    Keeps s0 (haltQueue p error s) := by
  unfold haltQueue
  exact raise_keeps (changeQueue_keeps h)

theorem gqDoorbell_keeps {s0 : State} {p : Nat} {position : BitVec 32} {s : State} (h : Keeps s0 s) :
    Keeps s0 (gqDoorbell p position s) := by
  unfold gqDoorbell
  extract_lets v1 v2
  refine Keeps.mid (a := s0) v2 ?_ (fun h3 => ?_)
  · unfold v2
    exact changeQueue_keeps h
  clear_value v2
  exact Keeps.ite (fun _ => h) (fun _ => Keeps.ite (fun _ => h3) (fun _ => haltQueue_keeps h3))

theorem execGqTail_keeps {s0 : State} {function : Function} {partition : Partition} {position : BitVec 32}
    {s : State} (h : Keeps s0 s) :
    OutKeeps s0 (execGqTail function partition position s) := by
  unfold execGqTail
  exact OutKeeps.next (Keeps.ite (fun _ => gqDoorbell_keeps h) (fun _ => h))

theorem entryArrives_keeps {s0 : State} {p : Nat} {entry : Option (BitVec 512)} {s : State} (h : Keeps s0 s) :
    Keeps s0 (entryArrives p entry s) := by
  unfold entryArrives
  extract_lets v1
  refine Keeps.ite (fun _ => ?_) (fun _ => ?_)
  · exact h
  · split
    · exact haltQueue_keeps h
    · exact changeQueue_keeps h

theorem execGraphEntryFetch_keeps {s0 : State} {partition : Partition} {entry : Option (BitVec 512)} {s : State}
    (h : Keeps s0 s) :
    OutKeeps s0 (execGraphEntryFetch partition entry s) := by
  unfold execGraphEntryFetch
  exact OutKeeps.next (entryArrives_keeps h)

theorem releaseRecords_keeps {s0 : State} {p : Nat} {a1 : Nat} {a2 : State} (h : Keeps s0 a2) :
    Keeps s0 (releaseRecords p a1 a2) := by
  induction a1 generalizing p a2 h
  · rw [releaseRecords]
    exact h
  · rename_i ih2
    rw [releaseRecords]
    split
    · exact h
    · exact Keeps.ite (fun _ => h) (fun _ => ih2 (ringWrite_keeps (changeQueue_keeps h)))

theorem cqDoorbell_keeps {s0 : State} {p : Nat} {position : BitVec 32} {s : State} (h : Keeps s0 s) :
    Keeps s0 (cqDoorbell p position s) := by
  unfold cqDoorbell
  extract_lets v1 v2 v3
  refine Keeps.mid (a := s0) v2 ?_ (fun h4 => ?_)
  · unfold v2
    exact changeQueue_keeps h
  clear_value v2
  refine Keeps.mid (a := s0) v3 ?_ (fun h5 => ?_)
  · unfold v3
    exact releaseRecords_keeps h4
  clear_value v3
  refine Keeps.ite (fun _ => ?_) (fun _ => ?_)
  · exact h
  · exact Keeps.ite (fun _ => h5) (fun _ => signalCompletion_keeps (writeShadow_keeps h5))

theorem execCqHead_keeps {s0 : State} {function : Function} {partition : Partition} {position : BitVec 32}
    {s : State} (h : Keeps s0 s) :
    OutKeeps s0 (execCqHead function partition position s) := by
  unfold execCqHead
  exact OutKeeps.next (Keeps.ite (fun _ => cqDoorbell_keeps h) (fun _ => h))

theorem execFqHead_keeps {s0 : State} {function : Function} {partition : Partition} {position : BitVec 32}
    {s : State} (h : Keeps s0 s) :
    OutKeeps s0 (execFqHead function partition position s) := by
  unfold execFqHead
  exact OutKeeps.next (Keeps.ite (fun _ => changeQueue_keeps h) (fun _ => h))

theorem queueEnable_keeps {s0 : State} {p : Nat} {x : QueueSetup} {s : State} (h : Keeps s0 s) :
    Keeps s0 (queueEnable p x s) := by
  unfold queueEnable
  refine Keeps.ite (fun _ => ?_) (fun _ => ?_)
  · exact changeQueue_keeps h
  · extract_lets v1
    exact Keeps.ite (fun _ => writeShadow_keeps (changeQueue_keeps h)) (fun _ => changeQueue_keeps h)

theorem execQueueEnable_keeps {s0 : State} {function : Function} {partition : Partition} {setup : QueueSetup}
    {s : State} (h : Keeps s0 s) :
    OutKeeps s0 (execQueueEnable function partition setup s) := by
  unfold execQueueEnable
  exact OutKeeps.next (Keeps.ite (fun _ => queueEnable_keeps h) (fun _ => h))

theorem execQueueDisable_keeps {s0 : State} {function : Function} {partition : Partition} {s : State}
    (h : Keeps s0 s) :
    OutKeeps s0 (execQueueDisable function partition s) := by
  unfold execQueueDisable
  exact OutKeeps.next (Keeps.ite (fun _ => disableQueue_keeps h) (fun _ => h))

theorem moderationEnds_keeps {s0 : State} {p : Nat} {fault : Bool} {s : State} (h : Keeps s0 s) :
    Keeps s0 (moderationEnds p fault s) := by
  unfold moderationEnds
  extract_lets v1 v2 v3 v4 v5
  refine Keeps.mid (a := s0) v4 ?_ (fun h6 => ?_)
  · unfold v4
    exact advanceTo_keeps h
  clear_value v4
  refine Keeps.mid (a := s0) v5 ?_ (fun h7 => ?_)
  · unfold v5
    exact changeQueue_keeps h6
  clear_value v5
  exact Keeps.ite (fun _ => h) (fun _ => sendVector_keeps h7)

theorem execMsixModerationTimer_keeps {s0 : State} {partition : Partition} {fault : Bool} {s : State}
    (h : Keeps s0 s) :
    OutKeeps s0 (execMsixModerationTimer partition fault s) := by
  unfold execMsixModerationTimer
  exact OutKeeps.next (moderationEnds_keeps h)

theorem notifyClear_keeps {s0 : State} {f : Nat} {value : Nat} {mask : Nat} {vector : Nat} {s : State}
    (h : Keeps s0 s) :
    Keeps s0 (notifyClear f value mask vector s) := by
  unfold notifyClear
  refine Keeps.ite (fun _ => ?_) (fun _ => ?_)
  · exact h
  · extract_lets v1 v2 v3 v4
    refine Keeps.mid (a := s0) v4 ?_ (fun h5 => ?_)
    · unfold v4
      exact changeFunction_keeps h
    clear_value v4
    exact Keeps.ite (fun _ => sendVector_keeps h5) (fun _ => h5)

theorem execNotifyStatusClear_keeps {s0 : State} {function : Function} {value : BitVec 32} {mask : BitVec 32}
    {vector : BitVec 8} {s : State} (h : Keeps s0 s) :
    OutKeeps s0 (execNotifyStatusClear function value mask vector s) := by
  unfold execNotifyStatusClear
  exact OutKeeps.next (notifyClear_keeps h)

theorem takeRead_keeps {s0 : State} {tag : Nat} {s : State} (h : Keeps s0 s) :
    OptPairKeeps s0 (takeRead tag s) := by
  unfold takeRead
  refine OptPairKeeps.map (fun x1 => ?_)
  dsimp only
  exact Keeps.put h rfl rfl rfl rfl rfl

theorem answerRead_keeps {s0 : State} {t : Nat} {e : Nat} {tag : Nat} {code : Nat} {data : Option Bytes}
    {s : State} (h : Keeps s0 s) :
    Keeps s0 (answerRead t e tag code data s) := by
  unfold answerRead
  extract_lets v1
  split
  · exact h
  · exact answerDesc_keeps h

theorem readData_keeps {s0 : State} {tag : Nat} {code : Nat} {bytes : Bytes} {s : State} (h : Keeps s0 s) :
    Keeps s0 (readData tag code bytes s) := by
  unfold readData
  split
  · exact h
  · rename_i y6
    refine OptPairKeeps.out (a := s0) y6 ?_ (fun h7 => ?_)
    · exact takeRead_keeps h
    split
    · exact answerRead_keeps h7
    · exact answerRead_keeps h7
    · exact h
    · exact Keeps.ite (fun _ => bindingsArrive_keeps h7) (fun _ => bindingsLost_keeps h7)

theorem readFailed_keeps {s0 : State} {tag : Nat} {s : State} (h : Keeps s0 s) :
    Keeps s0 (readFailed tag s) := by
  unfold readFailed
  split
  · exact h
  · rename_i y6
    refine OptPairKeeps.out (a := s0) y6 ?_ (fun h7 => ?_)
    · exact takeRead_keeps h
    extract_lets v8 v9 v10
    refine Keeps.mid (a := s0) v9 ?_ (fun h11 => ?_)
    · unfold v9
      exact raise_keeps (count32_keeps h7)
    clear_value v9
    split
    · exact answerRead_keeps h11
    · exact answerRead_keeps h11
    · exact reportCommand_keeps (Keeps.put h11 rfl rfl rfl rfl rfl)
    · exact bindingsLost_keeps h11

theorem readEnds_keeps {s0 : State} {tag : Nat} {result : HostEnd} {s : State} (h : Keeps s0 s) :
    Keeps s0 (readEnds tag result s) := by
  unfold readEnds
  split
  · exact readData_keeps h
  · exact readData_keeps h
  · exact readFailed_keeps h
  · exact readFailed_keeps h

theorem execHostReadCompletion_keeps {s0 : State} {tag : BitVec 14} {result : HostEnd} {s : State}
    (h : Keeps s0 s) :
    OutKeeps s0 (execHostReadCompletion tag result s) := by
  unfold execHostReadCompletion
  exact OutKeeps.next (readEnds_keeps h)

theorem execHostCompletionTimeout_keeps {s0 : State} {tag : BitVec 14} {s : State} (h : Keeps s0 s) :
    OutKeeps s0 (execHostCompletionTimeout tag s) := by
  unfold execHostCompletionTimeout
  exact OutKeeps.next (readFailed_keeps h)

theorem mctpAnswer_keeps {s0 : State} {command : Nat} {response : State → Bytes × State} {s : State}
    (h_response : ∀ (z0 : State), Keeps s0 z0 → Keeps s0 (response z0).2) (h : Keeps s0 s) :
    Keeps s0 (mctpAnswer command response s) := by
  unfold mctpAnswer
  refine Keeps.ite (fun _ => ?_) (fun _ => ?_)
  · exact h
  · split
    · rename_i y4
      refine Keeps.ofPair1 (a := s0) y4 ?_ (fun h5 => ?_)
      · exact h_response _ h
      exact Keeps.put h5 rfl rfl rfl rfl rfl

theorem execSetEndpointId_keeps {s0 : State} {eid : BitVec 8} {s : State} (h : Keeps s0 s) :
    OutKeeps s0 (execSetEndpointId eid s) := by
  unfold execSetEndpointId
  refine OutKeeps.next ?_
  refine mctpAnswer_keeps ?_ ?_
  · intro s1 h2
    split
    · dsimp only
      exact h2
    · dsimp only
      exact Keeps.put h2 rfl rfl rfl rfl rfl
  · exact h

theorem execGetEndpointId_keeps {s0 : State} {s : State} (h : Keeps s0 s) :
    OutKeeps s0 (execGetEndpointId s) := by
  unfold execGetEndpointId
  refine OutKeeps.next ?_
  refine mctpAnswer_keeps ?_ ?_
  · intro s1 h2
    dsimp only
    exact h2
  · exact h

theorem execGetEndpointUuid_keeps {s0 : State} {s : State} (h : Keeps s0 s) :
    OutKeeps s0 (execGetEndpointUuid s) := by
  unfold execGetEndpointUuid
  refine OutKeeps.next ?_
  refine mctpAnswer_keeps ?_ ?_
  · intro s1 h2
    dsimp only
    exact h2
  · exact h

theorem execGetMctpVersionSupport_keeps {s0 : State} {messageType : BitVec 8} {s : State} (h : Keeps s0 s) :
    OutKeeps s0 (execGetMctpVersionSupport messageType s) := by
  unfold execGetMctpVersionSupport
  refine OutKeeps.next ?_
  refine mctpAnswer_keeps ?_ ?_
  · intro s1 h2
    split
    · split
      · rename_i y7
        refine Keeps.ofPair1 (a := s0) y7 ?_ (fun h8 => ?_)
        · exact drawBytes_keeps h2
        dsimp only
        exact h8
    · dsimp only
      exact h2
  · exact h

theorem execGetMessageTypeSupport_keeps {s0 : State} {s : State} (h : Keeps s0 s) :
    OutKeeps s0 (execGetMessageTypeSupport s) := by
  unfold execGetMessageTypeSupport
  refine OutKeeps.next ?_
  refine mctpAnswer_keeps ?_ ?_
  · intro s1 h2
    dsimp only
    exact h2
  · exact h

theorem execGetVendorDefinedMessageSupport_keeps {s0 : State} {selector : BitVec 8} {s : State} (h : Keeps s0 s)
    :
    OutKeeps s0 (execGetVendorDefinedMessageSupport selector s) := by
  unfold execGetVendorDefinedMessageSupport
  refine OutKeeps.next ?_
  refine mctpAnswer_keeps ?_ ?_
  · intro s1 h2
    split
    · split
      · rename_i y7
        refine Keeps.ofPair1 (a := s0) y7 ?_ (fun h8 => ?_)
        · exact drawBytes_keeps h2
        dsimp only
        exact h8
    · dsimp only
      exact h2
  · exact h

theorem execPerstNRelease_keeps {s0 : State} {port : Fin 2} {s : State} (h : Keeps s0 s) :
    OutKeeps s0 (execPerstNRelease port s) := by
  unfold execPerstNRelease
  exact OutKeeps.next (Keeps.put h rfl rfl rfl rfl rfl)

theorem unmask_keeps {s0 : State} {f : Nat} {v : Nat} {s : State} (h : Keeps s0 s) :
    Keeps s0 (unmask f v s) := by
  unfold unmask
  refine Keeps.ite (fun _ => ?_) (fun _ => ?_)
  · exact h
  · extract_lets v1 v2
    refine Keeps.mid (a := s0) v2 ?_ (fun h3 => ?_)
    · unfold v2
      exact changeFunction_keeps h
    clear_value v2
    exact Keeps.ite (fun _ => sendVector_keeps h3) (fun _ => h3)

theorem execMsixVectorUnmask_keeps {s0 : State} {function : Function} {vector : BitVec 8} {s : State}
    (h : Keeps s0 s) :
    OutKeeps s0 (execMsixVectorUnmask function vector s) := by
  unfold execMsixVectorUnmask
  exact OutKeeps.next (unmask_keeps h)

end Sys2Proof.Machine
end

