-- ==== Sys2Proof/Laws/KeepsRestart.lean ====
section
/-! SUPPORT. What the operations of Machine/Restart.lean keep: one lemma for each. -/

set_option Elab.async false

namespace Sys2Proof.Machine

theorem continueStart_keeps {s0 : State} {s : State} (h : Keeps s0 s) : Keeps s0 (continueStart s) := by
  unfold continueStart
  exact Keeps.put h rfl rfl rfl rfl rfl

theorem restart_keeps {s0 : State} {what : Nat} {s : State} (h : Keeps s0 s) : Keeps s0 (restart what s) := by
  unfold restart
  extract_lets v1 v2 v3
  refine Keeps.mid (a := s0) v1 ?_ (fun h4 => ?_)
  · unfold v1
    exact Keeps.ite (fun _ => h) (fun _ => writeProfile_keeps h)
  clear_value v1
  refine Keeps.mid (a := s0) v3 ?_ (fun h5 => ?_)
  · unfold v3
    exact Keeps.ite (fun _ => Keeps.put h4 rfl rfl rfl rfl rfl) (fun _ => h4)
  clear_value v3
  exact stopDevice_keeps (arriveAll_keeps h5)

theorem startAct_keeps {s0 : State} {a0 : Bytes} {a1 : State} (h : Keeps s0 a1) :
    WKeeps s0 (startAct a0 a1) := by
  unfold startAct
  extract_lets v1
  split
  · exact .refuse
  · split
    · split
      · exact WKeeps.done (continueStart_keeps h)
      · exact .refuse
    · split
      · exact WKeeps.done (restart_keeps h)
      · exact .refuse

theorem execRestart_keeps {s0 : State} {req : Req} {value : Bytes} {s : State} (h : Keeps s0 s) :
    OutKeeps s0 (execRestart req value s) := by
  unfold execRestart
  refine OutKeeps.next ?_
  refine Keeps.ite (fun _ => ?_) (fun _ => ?_)
  · refine serveWrite_keeps ?_ ?_
    · intro x1 s2 h3
      exact startAct_keeps h3
    · exact h
  · exact h

theorem execRestartIntoDonkey_keeps {s0 : State} {req : Req} {value : Bytes} {s : State} (h : Keeps s0 s) :
    OutKeeps s0 (execRestartIntoDonkey req value s) := by
  unfold execRestartIntoDonkey
  refine OutKeeps.next ?_
  refine Keeps.ite (fun _ => ?_) (fun _ => ?_)
  · refine serveWrite_keeps ?_ ?_
    · intro x1 s2 h3
      exact startAct_keeps h3
    · exact h
  · exact h

theorem execRestartHoldAtFoal_keeps {s0 : State} {req : Req} {value : Bytes} {s : State} (h : Keeps s0 s) :
    OutKeeps s0 (execRestartHoldAtFoal req value s) := by
  unfold execRestartHoldAtFoal
  refine OutKeeps.next ?_
  refine Keeps.ite (fun _ => ?_) (fun _ => ?_)
  · refine serveWrite_keeps ?_ ?_
    · intro x1 s2 h3
      exact startAct_keeps h3
    · exact h
  · exact h

theorem execContinueFromHold_keeps {s0 : State} {req : Req} {value : Bytes} {s : State} (h : Keeps s0 s) :
    OutKeeps s0 (execContinueFromHold req value s) := by
  unfold execContinueFromHold
  refine OutKeeps.next ?_
  refine Keeps.ite (fun _ => ?_) (fun _ => ?_)
  · refine serveWrite_keeps ?_ ?_
    · intro x1 s2 h3
      exact startAct_keeps h3
    · exact h
  · exact h

end Sys2Proof.Machine
end

