-- ==== Sys2Proof/Laws/KeepsSpad.lean ====
section
/-! SUPPORT. What the operations of Machine/Spad.lean keep: one lemma for each. -/

set_option Elab.async false

namespace Sys2Proof.Machine

theorem arbitratePort_keeps {s0 : State} {t : Nat} {k : Nat} {bank : Nat} {port : Nat} {reqs : List SpadAccess}
    {s : State} (h : Keeps s0 s) :
    Keeps s0 (arbitratePort t k bank port reqs s).2 := by
  unfold arbitratePort
  extract_lets v1 v2 v3
  split
  · dsimp only
    exact h
  · extract_lets v9
    refine Keeps.mid (a := s0) v9 ?_ (fun h10 => ?_)
    · unfold v9
      exact Keeps.put h rfl rfl rfl rfl rfl
    clear_value v9
    split
    · dsimp only
      exact stallRegion_keeps (raise_keeps (count32_keeps h10))
    · dsimp only
      exact h10

theorem holdPort_keeps {s0 : State} {t : Nat} {k : Nat} {bank : Nat} {port : Nat} {reqs : List SpadAccess}
    {s : State} (h : Keeps s0 s) :
    Keeps s0 (holdPort t k bank port reqs s) := by
  unfold holdPort
  extract_lets v1 v2
  exact Keeps.put h rfl rfl rfl rfl rfl

theorem retireBank_keeps {s0 : State} {t : Nat} {k : Nat} {bank : Nat} {s : State} (h : Keeps s0 s) :
    Keeps s0 (retireBank t k bank s) := by
  unfold retireBank
  extract_lets v1 v2 v3
  exact Keeps.ite (fun _ => h) (fun _ => raise_keeps (Keeps.put h rfl rfl rfl rfl rfl))

theorem codeCycle_keeps {s0 : State} {t : Nat} {k : Nat} {bank : Nat} {reads : List SpadAccess}
    {faults : List ChunkFault} {s : State} (h : Keeps s0 s) :
    Keeps s0 (codeCycle t k bank reads faults s) := by
  unfold codeCycle
  extract_lets v1
  exact Keeps.fold h (fun _ _ h4 => chunkFault_keeps h4)

theorem consumePoison_keeps {s0 : State} {t : Nat} {k : Nat} {owner : Nat} {poisoned : Bool} {s : State}
    (h : Keeps s0 s) :
    Keeps s0 (consumePoison t k owner poisoned s) := by
  unfold consumePoison
  exact Keeps.ite (fun _ => setTaskFlags_keeps h) (fun _ => h)

theorem doRead_keeps {s0 : State} {t : Nat} {k : Nat} {a : SpadAccess} {lost : List Nat} {busy : Bool}
    {s : State} (h : Keeps s0 s) :
    Keeps s0 (doRead t k a lost busy s) := by
  unfold doRead
  split
  · exact h
  · extract_lets v6 v7
    split
    · rename_i y11
      refine Keeps.ofPair1 (a := s0) y11 ?_ (fun h12 => ?_)
      · split
        · dsimp only
          exact h
        · exact drawBytes_keeps h
      extract_lets v15 v16 v17
      exact consumePoison_keeps (Keeps.put h12 rfl rfl rfl rfl rfl)

theorem netWrite_keeps {s0 : State} {t : Nat} {k : Nat} {a : SpadAccess} {s : State} (h : Keeps s0 s) :
    Keeps s0 (netWrite t k a s) := by
  unfold netWrite
  split
  · exact h
  · refine Keeps.ite (fun _ => ?_) (fun _ => ?_)
    · exact h
    · split
      · exact h
      · extract_lets v12 v13
        refine Keeps.mid (a := s0) v13 ?_ (fun h14 => ?_)
        · unfold v13
          exact Keeps.fold h (fun _ _ h17 => crossLine_keeps h17)
        clear_value v13
        split
        · rename_i y21
          refine Keeps.ofPair1 (a := s0) y21 ?_ (fun h22 => ?_)
          · split
            · exact drawBytes_keeps h14
            · dsimp only
              exact h14
          extract_lets v25
          refine Keeps.mid (a := s0) v25 ?_ (fun h26 => ?_)
          · unfold v25
            exact spadWrite_keeps h22
          clear_value v25
          refine Keeps.fold ?_ (fun s27 x28 h29 => ?_)
          · exact h26
          · refine Keeps.ite (fun _ => ?_) (fun _ => ?_)
            · exact Keeps.putMemory h29 rfl id (fun w => by dsimp only; exact Tab.wf_put _ _ _ _ w) id rfl
            · exact h29

theorem doWrite_keeps {s0 : State} {t : Nat} {k : Nat} {a : SpadAccess} {s : State} (h : Keeps s0 s) :
    Keeps s0 (doWrite t k a s) := by
  unfold doWrite
  split
  · exact h
  · exact Keeps.ite (fun _ => netWrite_keeps h) (fun _ => spadWrite_keeps h)

theorem busyWrite_keeps {s0 : State} {a : SpadAccess} {s : State} (h : Keeps s0 s) :
    Keeps s0 (busyWrite a s) := by
  unfold busyWrite
  exact Keeps.put h rfl rfl rfl rfl rfl

theorem pairCycle_keeps {s0 : State} {t : Nat} {k : Nat} {bank : Nat} {a : SpadAccess} {b : SpadAccess}
    {s : State} (h : Keeps s0 s) :
    Keeps s0 (pairCycle t k bank a b s) := by
  unfold pairCycle
  extract_lets v1 v2 v3 v4 v5
  refine Keeps.mid (a := s0) v2 ?_ (fun h6 => ?_)
  · unfold v2
    exact raise_keeps (count32_keeps h)
  clear_value v2
  refine Keeps.mid (a := s0) v3 ?_ (fun h7 => ?_)
  · unfold v3
    exact doRead_keeps (doWrite_keeps h6)
  clear_value v3
  refine Keeps.mid (a := s0) v5 ?_ (fun h8 => ?_)
  · unfold v5
    exact Keeps.put h7 rfl rfl rfl rfl rfl
  clear_value v5
  refine Keeps.ite (fun _ => ?_) (fun _ => ?_)
  · exact doRead_keeps (doWrite_keeps (doRead_keeps (doWrite_keeps h)))
  · refine Keeps.ite (fun _ => ?_) (fun _ => ?_)
    · exact Keeps.ite (fun _ => h8) (fun _ => stallRegion_keeps h8)
    · exact busyWrite_keeps (doWrite_keeps (doRead_keeps (doWrite_keeps h6)))

theorem dualCycle_keeps {s0 : State} {t : Nat} {k : Nat} {bank : Nat} {a : List SpadAccess}
    {b : List SpadAccess} {faults : List ChunkFault} {s : State} (h : Keeps s0 s) :
    Keeps s0 (dualCycle t k bank a b faults s) := by
  unfold dualCycle
  extract_lets v1
  split
  · rename_i y5
    refine Keeps.ofPair1 (a := s0) y5 ?_ (fun h6 => ?_)
    · exact arbitratePort_keeps h
    split
    · extract_lets v10 v11 v12 v13
      refine Keeps.mid (a := s0) v11 ?_ (fun h14 => ?_)
      · unfold v11
        exact holdPort_keeps (Keeps.put h6 rfl rfl rfl rfl rfl)
      clear_value v11
      refine Keeps.mid (a := s0) v12 ?_ (fun h15 => ?_)
      · unfold v12
        exact codeCycle_keeps h14
      clear_value v12
      refine Keeps.mid (a := s0) v13 ?_ (fun h16 => ?_)
      · unfold v13
        split
        · refine Keeps.ofPair1 (a := s0) y5 ?_ (fun h20 => ?_)
          · exact arbitratePort_keeps h
          exact h15
        · refine Keeps.ofPair1 (a := s0) y5 ?_ (fun h25 => ?_)
          · exact arbitratePort_keeps h
          exact doRead_keeps (doWrite_keeps h15)
      clear_value v13
      exact doRead_keeps h16
    · split
      · rename_i y31
        refine Keeps.ofPair1 (a := s0) y31 ?_ (fun h32 => ?_)
        · exact arbitratePort_keeps h6
        extract_lets v33
        refine Keeps.mid (a := s0) v33 ?_ (fun h34 => ?_)
        · unfold v33
          exact codeCycle_keeps h32
        clear_value v33
        split
        · refine Keeps.ofPair1 (a := s0) y5 ?_ (fun h39 => ?_)
          · exact arbitratePort_keeps h
          refine Keeps.ofPair1 (a := s0) y31 ?_ (fun h40 => ?_)
          · exact arbitratePort_keeps h6
          exact h34
        · refine Keeps.ofPair1 (a := s0) y5 ?_ (fun h46 => ?_)
          · exact arbitratePort_keeps h
          refine Keeps.ofPair1 (a := s0) y31 ?_ (fun h47 => ?_)
          · exact arbitratePort_keeps h6
          exact doRead_keeps (doWrite_keeps h34)
        · refine Keeps.ofPair1 (a := s0) y5 ?_ (fun h53 => ?_)
          · exact arbitratePort_keeps h
          refine Keeps.ofPair1 (a := s0) y31 ?_ (fun h54 => ?_)
          · exact arbitratePort_keeps h6
          exact doRead_keeps (doWrite_keeps h34)
        · refine Keeps.ofPair1 (a := s0) y5 ?_ (fun h61 => ?_)
          · exact arbitratePort_keeps h
          refine Keeps.ofPair1 (a := s0) y31 ?_ (fun h62 => ?_)
          · exact arbitratePort_keeps h6
          exact pairCycle_keeps h34

theorem bankCycle_keeps {s0 : State} {t : Nat} {k : Nat} {bank : Nat} {portA : List SpadAccess}
    {portB : List SpadAccess} {faults : List ChunkFault} {s : State} (h : Keeps s0 s) :
    Keeps s0 (bankCycle t k bank portA portB faults s) := by
  unfold bankCycle
  extract_lets v1 v2 v3 v4 v5 v6 v7 v8
  refine Keeps.mid (a := s0) v6 ?_ (fun h9 => ?_)
  · unfold v6
    exact Keeps.put h rfl rfl rfl rfl rfl
  clear_value v6
  refine Keeps.ite (fun _ => ?_) (fun _ => ?_)
  · exact h
  · refine Keeps.ite (fun _ => ?_) (fun _ => ?_)
    · exact dualCycle_keeps h9
    · split
      · rename_i y13
        refine Keeps.ofPair1 (a := s0) y13 ?_ (fun h14 => ?_)
        · exact arbitratePort_keeps h9
        extract_lets v15
        refine Keeps.mid (a := s0) v15 ?_ (fun h16 => ?_)
        · unfold v15
          exact codeCycle_keeps h14
        clear_value v15
        split
        · refine Keeps.ofPair1 (a := s0) y13 ?_ (fun h19 => ?_)
          · exact arbitratePort_keeps h9
          exact h16
        · refine Keeps.ofPair1 (a := s0) y13 ?_ (fun h23 => ?_)
          · exact arbitratePort_keeps h9
          exact doRead_keeps (doWrite_keeps h16)

theorem execScratchpadRead_keeps {s0 : State} {tower : Tower} {cluster : Cluster} {bank : Fin 56}
    {portA : List SpadAccess} {portB : List SpadAccess} {faults : List ChunkFault} {s : State} (h : Keeps s0 s)
    :
    OutKeeps s0 (execScratchpadRead tower cluster bank portA portB faults s) := by
  unfold execScratchpadRead
  exact OutKeeps.next (bankCycle_keeps h)

theorem execSpadAddressFault_keeps {s0 : State} {tower : Tower} {cluster : Cluster} {address : BitVec 28}
    {s : State} (h : Keeps s0 s) :
    OutKeeps s0 (execSpadAddressFault tower cluster address s) := by
  unfold execSpadAddressFault
  exact OutKeeps.next (Keeps.ite (fun _ => h) (fun _ => faultTaskOn_keeps (raise_keeps h)))

theorem routeParity_keeps {s0 : State} {t : Nat} {k : Nat} {entry : Nat} {s : State} (h : Keeps s0 s) :
    Keeps s0 (routeParity t k entry s) := by
  unfold routeParity
  split
  · exact h
  · extract_lets v6 v7
    exact faultTaskOn_keeps (raise_keeps (Keeps.put h rfl rfl rfl rfl rfl))

theorem execRouteParityFail_keeps {s0 : State} {tower : Tower} {cluster : Cluster} {entry : Fin 2048}
    {s : State} (h : Keeps s0 s) :
    OutKeeps s0 (execRouteParityFail tower cluster entry s) := by
  unfold execRouteParityFail
  exact OutKeeps.next (routeParity_keeps h)

theorem clearRetiredAct_keeps {s0 : State} {a0 : Bytes} {a1 : State} (h : Keeps s0 a1) :
    WKeeps s0 (clearRetiredAct a0 a1) := by
  unfold clearRetiredAct
  extract_lets v1 v2
  split
  · exact .refuse
  · split
    · exact .refuse
    · exact WKeeps.done (Keeps.put h rfl rfl rfl rfl rfl)

theorem execClearRetiredBanks_keeps {s0 : State} {req : Req} {value : Bytes} {s : State} (h : Keeps s0 s) :
    OutKeeps s0 (execClearRetiredBanks req value s) := by
  unfold execClearRetiredBanks
  refine OutKeeps.next ?_
  refine serveWrite_keeps ?_ ?_
  · intro x1 s2 h3
    exact clearRetiredAct_keeps h3
  · exact h

end Sys2Proof.Machine
end

