-- ==== Sys2Proof/Laws/KeepsTwin.lean ====
section
/-! SUPPORT. What the operations of Machine/Twin.lean keep: one lemma for each. -/

set_option Elab.async false

namespace Sys2Proof.Machine

theorem twinModeAct_keeps {s0 : State} {a0 : Bytes} {a1 : State} (h : Keeps s0 a1) :
    WKeeps s0 (twinModeAct a0 a1) := by
  unfold twinModeAct
  extract_lets v1
  refine Keeps.mid (a := s0) v1 ?_ (fun h2 => ?_)
  · unfold v1
    exact setDict_keeps h
  clear_value v1
  refine WKeeps.done ?_
  refine Keeps.ite (fun _ => ?_) (fun _ => ?_)
  · exact leaveTwin_keeps h2
  · exact Keeps.ite (fun _ => startPairing_keeps h2) (fun _ => h2)

theorem execTwinModeWrite_keeps {s0 : State} {req : Req} {value : Bytes} {s : State} (h : Keeps s0 s) :
    OutKeeps s0 (execTwinModeWrite req value s) := by
  unfold execTwinModeWrite
  refine OutKeeps.next ?_
  refine serveWrite_keeps ?_ ?_
  · intro x1 s2 h3
    exact twinModeAct_keeps h3
  · exact h

theorem renewLease_keeps {s0 : State} {s : State} (h : Keeps s0 s) : Keeps s0 (renewLease s) := by
  unfold renewLease
  refine Keeps.ite (fun _ => ?_) (fun _ => ?_)
  · exact h
  · extract_lets v1 v2 v3 v4
    refine Keeps.mid (a := s0) v1 ?_ (fun h5 => ?_)
    · unfold v1
      exact advanceTo_keeps h
    clear_value v1
    refine Keeps.mid (a := s0) v3 ?_ (fun h6 => ?_)
    · unfold v3
      exact Keeps.put h5 rfl rfl rfl rfl rfl
    clear_value v3
    refine Keeps.mid (a := s0) v4 ?_ (fun h7 => ?_)
    · unfold v4
      exact sendTwin_keeps h6
    clear_value v4
    exact Keeps.ite (fun _ => drivePulse_keeps h7) (fun _ => h7)

theorem execLeaseRenewTimer_keeps {s0 : State} {s : State} (h : Keeps s0 s) :
    OutKeeps s0 (execLeaseRenewTimer s) := by
  unfold execLeaseRenewTimer
  exact OutKeeps.next (renewLease_keeps h)

theorem watchWire_keeps {s0 : State} {since : Option Nat} {s : State} (h : Keeps s0 s) :
    Keeps s0 (watchWire since s) := by
  unfold watchWire
  split
  · exact Keeps.ite (fun _ => twinEvent_keeps (Keeps.put h rfl rfl rfl rfl rfl)) (fun _ => h)
  · exact h

theorem cancelTakeover_keeps {s0 : State} {s : State} (h : Keeps s0 s) : Keeps s0 (cancelTakeover s) := by
  unfold cancelTakeover
  split
  · exact Keeps.ite (fun _ => twinEvent_keeps (Keeps.put h rfl rfl rfl rfl rfl)) (fun _ => h)
  · exact h

theorem renewTw_keeps {s0 : State} {s : State} (h : Keeps s0 s) : Keeps s0 (renewTw s) := by
  unfold renewTw
  extract_lets v1 v2
  refine Keeps.mid (a := s0) v2 ?_ (fun h3 => ?_)
  · unfold v2
    exact Keeps.put h rfl rfl rfl rfl rfl
  clear_value v2
  exact watchWire_keeps (cancelTakeover_keeps h3)

theorem hearLease_keeps {s0 : State} {k : Bytes} {oneWay : Nat} {f : TwinFacts} {s : State} (h : Keeps s0 s) :
    Keeps s0 (hearLease k oneWay f s) := by
  unfold hearLease
  extract_lets v1 v2
  refine Keeps.ite (fun _ => ?_) (fun _ => ?_)
  · refine Keeps.ite (fun _ => ?_) (fun _ => ?_)
    · simp only [v1]
      exact takeToken_keeps (renewTw_keeps h)
    · exact h
  · refine Keeps.ite (fun _ => ?_) (fun _ => ?_)
    · simp only [v1]
      exact takeToken_keeps (Keeps.put h rfl rfl rfl rfl rfl)
    · refine Keeps.ite (fun _ => ?_) (fun _ => ?_)
      · simp only [v1]
        exact takeToken_keeps h
      · exact h

theorem execLease_keeps {s0 : State} {packet : Bytes} {oneWay : Nat} {facts : TwinFacts} {s : State}
    (h : Keeps s0 s) :
    OutKeeps s0 (execLease packet oneWay facts s) := by
  unfold execLease
  refine OutKeeps.next ?_
  refine onPacket_keeps ?_ ?_
  · intro s1 h2
    exact hearLease_keeps h2
  · exact h

theorem ackLast_keeps {s0 : State} {s : State} (h : Keeps s0 s) : Keeps s0 (ackLast s) := by
  unfold ackLast
  extract_lets v1 v2
  refine Keeps.mid (a := s0) v2 ?_ (fun h3 => ?_)
  · unfold v2
    split
    · exact Keeps.ite (fun _ => Keeps.put h rfl rfl rfl rfl rfl) (fun _ => h)
    · exact h
  clear_value v2
  exact sendTwin_keeps h3

theorem acknowledge_keeps {s0 : State} {wire : Bool} {s : State} (h : Keeps s0 s) :
    Keeps s0 (acknowledge wire s) := by
  unfold acknowledge
  split
  · exact h
  · extract_lets v6 v7
    refine Keeps.mid (a := s0) v6 ?_ (fun h8 => ?_)
    · unfold v6
      exact advanceTo_keeps h
    clear_value v6
    refine Keeps.ite (fun _ => ?_) (fun _ => ?_)
    · exact drivePulse_keeps (Keeps.put h8 rfl rfl rfl rfl rfl)
    · exact ackLast_keeps (Keeps.put h8 rfl rfl rfl rfl rfl)

theorem execLeaseAckTimer_keeps {s0 : State} {wire : Bool} {s : State} (h : Keeps s0 s) :
    OutKeeps s0 (execLeaseAckTimer wire s) := by
  unfold execLeaseAckTimer
  exact OutKeeps.next (acknowledge_keeps h)

theorem hearLeaseAck_keeps {s0 : State} {k : Bytes} {oneWay : Nat} {f : TwinFacts} {s : State} (h : Keeps s0 s)
    :
    Keeps s0 (hearLeaseAck k oneWay f s) := by
  unfold hearLeaseAck
  extract_lets v1 v2 v3 v4 v5 v6 v7 v8
  refine Keeps.mid (a := s0) v4 ?_ (fun h9 => ?_)
  · unfold v4
    exact Keeps.ite (fun _ => Keeps.put h rfl rfl rfl rfl rfl) (fun _ => h)
  clear_value v4
  refine Keeps.mid (a := s0) v6 ?_ (fun h10 => ?_)
  · unfold v6
    split
    · exact Keeps.ite (fun _ => Keeps.put h9 rfl rfl rfl rfl rfl) (fun _ => h9)
    · exact h9
  clear_value v6
  refine Keeps.mid (a := s0) v8 ?_ (fun h16 => ?_)
  · unfold v8
    exact Keeps.put h10 rfl rfl rfl rfl rfl
  clear_value v8
  refine Keeps.ite (fun _ => ?_) (fun _ => ?_)
  · simp only [v2]
    exact takeToken_keeps (watchWire_keeps h16)
  · refine Keeps.ite (fun _ => ?_) (fun _ => ?_)
    · simp only [v2]
      exact takeToken_keeps h
    · exact h

theorem execLeaseAck_keeps {s0 : State} {packet : Bytes} {oneWay : Nat} {facts : TwinFacts} {s : State}
    (h : Keeps s0 s) :
    OutKeeps s0 (execLeaseAck packet oneWay facts s) := by
  unfold execLeaseAck
  refine OutKeeps.next ?_
  refine onPacket_keeps ?_ ?_
  · intro s1 h2
    exact hearLeaseAck_keeps h2
  · exact h

theorem seeRenew_keeps {s0 : State} {width : Nat} {s : State} (h : Keeps s0 s) :
    Keeps s0 (seeRenew width s) := by
  unfold seeRenew
  refine Keeps.ite (fun _ => ?_) (fun _ => ?_)
  · exact h
  · extract_lets v1 v2 v3
    refine Keeps.mid (a := s0) v2 ?_ (fun h4 => ?_)
    · unfold v2
      exact Keeps.put h rfl rfl rfl rfl rfl
    refine Keeps.ite (fun _ => ?_) (fun _ => ?_)
    · exact Keeps.put h4 rfl rfl rfl rfl rfl
    · exact Keeps.ite (fun _ => cancelTakeover_keeps (Keeps.put h4 rfl rfl rfl rfl rfl)) (fun _ => h4)

theorem execRenewPulse_keeps {s0 : State} {width : Nat} {s : State} (h : Keeps s0 s) :
    OutKeeps s0 (execRenewPulse width s) := by
  unfold execRenewPulse
  exact OutKeeps.next (seeRenew_keeps h)

theorem seeAcknowledge_keeps {s0 : State} {width : Nat} {s : State} (h : Keeps s0 s) :
    Keeps s0 (seeAcknowledge width s) := by
  unfold seeAcknowledge
  refine Keeps.ite (fun _ => ?_) (fun _ => ?_)
  · exact h
  · extract_lets v1 v2 v3
    refine Keeps.mid (a := s0) v2 ?_ (fun h4 => ?_)
    · unfold v2
      exact Keeps.put h rfl rfl rfl rfl rfl
    exact Keeps.ite (fun _ => Keeps.put h4 rfl rfl rfl rfl rfl) (fun _ => h4)

theorem execAcknowledgePulse_keeps {s0 : State} {width : Nat} {s : State} (h : Keeps s0 s) :
    OutKeeps s0 (execAcknowledgePulse width s) := by
  unfold execAcknowledgePulse
  exact OutKeeps.next (seeAcknowledge_keeps h)

theorem yieldTo_keeps {s0 : State} {s : State} (h : Keeps s0 s) : Keeps s0 (yieldTo s) := by
  unfold yieldTo
  extract_lets v1 v2
  refine Keeps.mid (a := s0) v2 ?_ (fun h3 => ?_)
  · unfold v2
    split
    · exact Keeps.put h rfl rfl rfl rfl rfl
    · exact h
  clear_value v2
  exact follow_keeps h3

theorem claimed_keeps {s0 : State} {s : State} (h : Keeps s0 s) : Keeps s0 (claimed s) := by
  unfold claimed
  exact Keeps.ite (fun _ => yieldTo_keeps h) (fun _ => fence_keeps h)

theorem seeClaim_keeps {s0 : State} {width : Nat} {s : State} (h : Keeps s0 s) :
    Keeps s0 (seeClaim width s) := by
  unfold seeClaim
  refine Keeps.ite (fun _ => ?_) (fun _ => ?_)
  · exact h
  · extract_lets v1 v2
    refine Keeps.mid (a := s0) v2 ?_ (fun h3 => ?_)
    · unfold v2
      exact Keeps.put h rfl rfl rfl rfl rfl
    exact Keeps.ite (fun _ => claimed_keeps h3) (fun _ => h3)

theorem execClaimPulse_keeps {s0 : State} {width : Nat} {s : State} (h : Keeps s0 s) :
    OutKeeps s0 (execClaimPulse width s) := by
  unfold execClaimPulse
  exact OutKeeps.next (seeClaim_keeps h)

theorem wireStuck_keeps {s0 : State} {s : State} (h : Keeps s0 s) : Keeps s0 (wireStuck s) := by
  unfold wireStuck
  exact Keeps.ite (fun _ => h) (fun _ => twinEvent_keeps (Keeps.put h rfl rfl rfl rfl rfl))

theorem execWireStuck_keeps {s0 : State} {s : State} (h : Keeps s0 s) : OutKeeps s0 (execWireStuck s) := by
  unfold execWireStuck
  exact OutKeeps.next (wireStuck_keeps h)

theorem leaseExpired_keeps {s0 : State} {s : State} (h : Keeps s0 s) : Keeps s0 (leaseExpired s) := by
  unfold leaseExpired
  extract_lets v1 v2
  refine Keeps.mid (a := s0) v1 ?_ (fun h3 => ?_)
  · unfold v1
    exact twinEvent_keeps h
  clear_value v1
  refine Keeps.ite (fun _ => ?_) (fun _ => ?_)
  · exact h3
  · exact Keeps.ite (fun _ => twinEvent_keeps h3) (fun _ => Keeps.put h3 rfl rfl rfl rfl rfl)

theorem pathExpiry_keeps {s0 : State} {wire : Bool} {s : State} (h : Keeps s0 s) :
    Keeps s0 (pathExpiry wire s) := by
  unfold pathExpiry
  refine Keeps.ite (fun _ => ?_) (fun _ => ?_)
  · exact h
  · extract_lets v1 v2 v3
    refine Keeps.mid (a := s0) v1 ?_ (fun h4 => ?_)
    · unfold v1
      exact advanceTo_keeps h
    refine Keeps.mid (a := s0) v3 ?_ (fun h5 => ?_)
    · unfold v3
      exact Keeps.ite (fun _ => Keeps.put h4 rfl rfl rfl rfl rfl) (fun _ => Keeps.put h4 rfl rfl rfl rfl rfl)
    refine Keeps.ite (fun _ => ?_) (fun _ => ?_)
    · exact leaseExpired_keeps h5
    · exact Keeps.ite (fun _ => h5) (fun _ => twinEvent_keeps h5)

theorem execLeasePathExpiry_keeps {s0 : State} {wire : Bool} {s : State} (h : Keeps s0 s) :
    OutKeeps s0 (execLeasePathExpiry wire s) := by
  unfold execLeasePathExpiry
  exact OutKeeps.next (pathExpiry_keeps h)

theorem pairingTimeout_keeps {s0 : State} {s : State} (h : Keeps s0 s) : Keeps s0 (pairingTimeout s) := by
  unfold pairingTimeout
  refine Keeps.ite (fun _ => ?_) (fun _ => ?_)
  · exact h
  · extract_lets v1
    refine Keeps.mid (a := s0) v1 ?_ (fun h2 => ?_)
    · unfold v1
      exact advanceTo_keeps h
    clear_value v1
    exact twinEvent_keeps (enterActive_keeps h2)

theorem execPairingTimeout_keeps {s0 : State} {s : State} (h : Keeps s0 s) :
    OutKeeps s0 (execPairingTimeout s) := by
  unfold execPairingTimeout
  exact OutKeeps.next (pairingTimeout_keeps h)

theorem fenceTimeout_keeps {s0 : State} {s : State} (h : Keeps s0 s) : Keeps s0 (fenceTimeout s) := by
  unfold fenceTimeout
  exact Keeps.ite (fun _ => h) (fun _ => fence_keeps (advanceTo_keeps h))

theorem execFenceTimeout_keeps {s0 : State} {s : State} (h : Keeps s0 s) :
    OutKeeps s0 (execFenceTimeout s) := by
  unfold execFenceTimeout
  exact OutKeeps.next (fenceTimeout_keeps h)

theorem hearClaim_keeps {s0 : State} {before : State} {k : Bytes} {s : State} (_h : Keeps s0 before)
    (h2 : Keeps s0 s) :
    Keeps s0 (hearClaim before k s) := by
  unfold hearClaim
  extract_lets v1 v2
  exact Keeps.ite (fun _ => claimed_keeps (Keeps.put h2 rfl rfl rfl rfl rfl)) (fun _ => h2)

theorem execClaim_keeps {s0 : State} {packet : Bytes} {s : State} (h : Keeps s0 s) :
    OutKeeps s0 (execClaim packet s) := by
  unfold execClaim
  refine OutKeeps.next ?_
  refine onPacket_keeps ?_ ?_
  · intro s1 h2
    exact hearClaim_keeps h h2
  · exact h

theorem hearHealth_keeps {s0 : State} {k : Bytes} {s : State} (h : Keeps s0 s) : Keeps s0 (hearHealth k s) := by
  unfold hearHealth
  refine Keeps.ite (fun _ => ?_) (fun _ => ?_)
  · exact h
  · extract_lets v1 v2 v3
    refine Keeps.mid (a := s0) v3 ?_ (fun h4 => ?_)
    · unfold v3
      exact Keeps.put h rfl rfl rfl rfl rfl
    clear_value v3
    exact Keeps.ite (fun _ => twinEvent_keeps h4) (fun _ => h4)

theorem execHealth_keeps {s0 : State} {packet : Bytes} {s : State} (h : Keeps s0 s) :
    OutKeeps s0 (execHealth packet s) := by
  unfold execHealth
  refine OutKeeps.next ?_
  refine onPacket_keeps ?_ ?_
  · intro s1 h2
    exact hearHealth_keeps h2
  · exact h

theorem healthTimeout_keeps {s0 : State} {s : State} (h : Keeps s0 s) : Keeps s0 (healthTimeout s) := by
  unfold healthTimeout
  refine Keeps.ite (fun _ => ?_) (fun _ => ?_)
  · exact h
  · refine twinEvent_keeps ?_
    extract_lets v1 v2
    refine Keeps.mid (a := s0) v1 ?_ (fun h3 => ?_)
    · unfold v1
      exact advanceTo_keeps h
    clear_value v1
    exact Keeps.put h3 rfl rfl rfl rfl rfl

theorem execHealthTimeout_keeps {s0 : State} {s : State} (h : Keeps s0 s) :
    OutKeeps s0 (execHealthTimeout s) := by
  unfold execHealthTimeout
  exact OutKeeps.next (healthTimeout_keeps h)

theorem hearQueue_keeps {s0 : State} {k : Bytes} {s : State} (h : Keeps s0 s) : Keeps s0 (hearQueue k s) := by
  unfold hearQueue
  extract_lets v1 v2 v3
  exact Keeps.ite (fun _ => Keeps.put h rfl rfl rfl rfl rfl) (fun _ => h)

theorem execQueue_keeps {s0 : State} {packet : Bytes} {s : State} (h : Keeps s0 s) :
    OutKeeps s0 (execQueue packet s) := by
  unfold execQueue
  refine OutKeeps.next ?_
  refine onPacket_keeps ?_ ?_
  · intro s1 h2
    exact hearQueue_keeps h2
  · exact h

theorem hearImage_keeps {s0 : State} {k : Bytes} {s : State} (h : Keeps s0 s) : Keeps s0 (hearImage k s) := by
  unfold hearImage
  extract_lets v1 v2 v3
  exact Keeps.ite (fun _ => Keeps.put h rfl rfl rfl rfl rfl) (fun _ => h)

theorem execImage_keeps {s0 : State} {packet : Bytes} {s : State} (h : Keeps s0 s) :
    OutKeeps s0 (execImage packet s) := by
  unfold execImage
  refine OutKeeps.next ?_
  refine onPacket_keeps ?_ ?_
  · intro s1 h2
    exact hearImage_keeps h2
  · exact h

theorem hearBlock_keeps {s0 : State} {k : Bytes} {s : State} (h : Keeps s0 s) : Keeps s0 (hearBlock k s) := by
  unfold hearBlock
  exact Keeps.ite (fun _ => writeBlock_keeps (Keeps.put h rfl rfl rfl rfl rfl)) (fun _ => h)

theorem execBlock_keeps {s0 : State} {packet : Bytes} {s : State} (h : Keeps s0 s) :
    OutKeeps s0 (execBlock packet s) := by
  unfold execBlock
  refine OutKeeps.next ?_
  refine onPacket_keeps ?_ ?_
  · intro s1 h2
    exact hearBlock_keeps h2
  · exact h

theorem hearCommit_keeps {s0 : State} {k : Bytes} {codes : List CodeReport} {s : State} (h : Keeps s0 s) :
    Keeps s0 (hearCommit k codes s) := by
  unfold hearCommit
  extract_lets v1 v2 v3
  exact Keeps.ite (fun _ => watchLag_keeps (commitFrame_keeps h)) (fun _ => h)

theorem execTwinCommit_keeps {s0 : State} {packet : Bytes} {codes : List CodeReport} {s : State}
    (h : Keeps s0 s) :
    OutKeeps s0 (execTwinCommit packet codes s) := by
  unfold execTwinCommit
  refine OutKeeps.next ?_
  refine onPacket_keeps ?_ ?_
  · intro s1 h2
    exact hearCommit_keeps h2
  · exact h

theorem proposeTakeBack_keeps {s0 : State} {s : State} (h : Keeps s0 s) : Keeps s0 (proposeTakeBack s) := by
  unfold proposeTakeBack
  extract_lets v1
  exact Keeps.ite (fun _ => sendTwin_keeps h) (fun _ => h)

theorem selfTestRound_keeps {s0 : State} {failures : BitVec 7} {unfit : Bool} {s : State} (h : Keeps s0 s) :
    Keeps s0 (selfTestRound failures unfit s) := by
  unfold selfTestRound
  refine Keeps.ite (fun _ => ?_) (fun _ => ?_)
  · exact h
  · extract_lets v1 v2 v3 v4 v5 v6 v7 v8
    refine Keeps.mid (a := s0) v2 ?_ (fun h9 => ?_)
    · unfold v2
      exact advanceTo_keeps h
    clear_value v2
    refine Keeps.mid (a := s0) v4 ?_ (fun h10 => ?_)
    · unfold v4
      exact Keeps.put h9 rfl rfl rfl rfl rfl
    clear_value v4
    refine Keeps.mid (a := s0) v7 ?_ (fun h11 => ?_)
    · unfold v7
      exact sendTwin_keeps (Keeps.put h10 rfl rfl rfl rfl rfl)
    clear_value v7
    refine Keeps.mid (a := s0) v8 ?_ (fun h12 => ?_)
    · unfold v8
      exact Keeps.ite (fun _ => twinEvent_keeps h11) (fun _ => h11)
    clear_value v8
    exact proposeTakeBack_keeps h12

theorem execSelfTestRound_keeps {s0 : State} {failures : BitVec 7} {unfit : Bool} {s : State} (h : Keeps s0 s) :
    OutKeeps s0 (execSelfTestRound failures unfit s) := by
  unfold execSelfTestRound
  exact OutKeeps.next (selfTestRound_keeps h)

theorem agree_keeps {s0 : State} {s : State} (h : Keeps s0 s) : Keeps s0 (agree s) := by
  unfold agree
  extract_lets v1 v2 v3
  refine Keeps.mid (a := s0) v3 ?_ (fun h4 => ?_)
  · unfold v3
    exact sendTwin_keeps (Keeps.put h rfl rfl rfl rfl rfl)
  clear_value v3
  exact twinEvent_keeps h4

theorem execHandoverPropose_keeps {s0 : State} {packet : Bytes} {s : State} (h : Keeps s0 s) :
    OutKeeps s0 (execHandoverPropose packet s) := by
  unfold execHandoverPropose
  refine OutKeeps.next ?_
  refine Keeps.ite (fun _ => ?_) (fun _ => ?_)
  · refine onPacket_keeps ?_ ?_
    · intro s1 h2
      exact Keeps.ite (fun _ => agree_keeps h2) (fun _ => h2)
    · exact h
  · exact h

theorem hearAgree_keeps {s0 : State} {k : Bytes} {s : State} (h : Keeps s0 s) : Keeps s0 (hearAgree k s) := by
  unfold hearAgree
  extract_lets v1 v2
  exact Keeps.ite (fun _ => Keeps.put h rfl rfl rfl rfl rfl) (fun _ => h)

theorem execHandoverAgree_keeps {s0 : State} {packet : Bytes} {s : State} (h : Keeps s0 s) :
    OutKeeps s0 (execHandoverAgree packet s) := by
  unfold execHandoverAgree
  refine OutKeeps.next ?_
  refine Keeps.ite (fun _ => ?_) (fun _ => ?_)
  · refine onPacket_keeps ?_ ?_
    · intro s1 h2
      exact hearAgree_keeps h2
    · exact h
  · exact h

theorem hearAbandon_keeps {s0 : State} {s : State} (h : Keeps s0 s) : Keeps s0 (hearAbandon s) := by
  unfold hearAbandon
  split
  · exact Keeps.ite (fun _ => twinEvent_keeps (Keeps.put h rfl rfl rfl rfl rfl)) (fun _ => h)
  · exact h

theorem execHandoverAbandon_keeps {s0 : State} {packet : Bytes} {s : State} (h : Keeps s0 s) :
    OutKeeps s0 (execHandoverAbandon packet s) := by
  unfold execHandoverAbandon
  refine OutKeeps.next ?_
  refine Keeps.ite (fun _ => ?_) (fun _ => ?_)
  · refine onPacket_keeps ?_ ?_
    · intro s1 h2
      exact hearAbandon_keeps h2
    · exact h
  · exact h

theorem ackTimeout_keeps {s0 : State} {s : State} (h : Keeps s0 s) : Keeps s0 (ackTimeout s) := by
  unfold ackTimeout
  split
  · refine Keeps.ite (fun _ => ?_) (fun _ => ?_)
    · exact h
    · extract_lets v7 v8 v9
      refine Keeps.mid (a := s0) v7 ?_ (fun h10 => ?_)
      · unfold v7
        exact advanceTo_keeps h
      clear_value v7
      refine Keeps.mid (a := s0) v9 ?_ (fun h11 => ?_)
      · unfold v9
        exact sendTwin_keeps (Keeps.put h10 rfl rfl rfl rfl rfl)
      clear_value v9
      exact twinEvent_keeps h11
  · exact h

theorem execHandoverAckTimeout_keeps {s0 : State} {s : State} (h : Keeps s0 s) :
    OutKeeps s0 (execHandoverAckTimeout s) := by
  unfold execHandoverAckTimeout
  exact OutKeeps.next (ackTimeout_keeps h)

theorem twinCommandAct_keeps {s0 : State} {a0 : Bytes} {a1 : State} (h : Keeps s0 a1) :
    WKeeps s0 (twinCommandAct a0 a1) := by
  unfold twinCommandAct
  split
  · split
    · exact WKeeps.done (agree_keeps h)
    · exact .refuse
  · split
    · exact WKeeps.done (claimNow_keeps h)
    · exact .refuse
  · split
    · extract_lets v12 v13 v14 v15
      refine Keeps.mid (a := s0) v13 ?_ (fun h16 => ?_)
      · unfold v13
        exact Keeps.put h rfl rfl rfl rfl rfl
      clear_value v13
      refine Keeps.mid (a := s0) v14 ?_ (fun h17 => ?_)
      · unfold v14
        exact sendTwin_keeps h16
      clear_value v14
      exact WKeeps.done (leaveTwin_keeps (Keeps.put h17 rfl rfl rfl rfl rfl))
    · exact .refuse
  · exact .refuse

theorem execPlannedHandover_keeps {s0 : State} {req : Req} {value : Bytes} {s : State} (h : Keeps s0 s) :
    OutKeeps s0 (execPlannedHandover req value s) := by
  unfold execPlannedHandover
  refine OutKeeps.next ?_
  refine Keeps.ite (fun _ => ?_) (fun _ => ?_)
  · refine serveWrite_keeps ?_ ?_
    · intro x1 s2 h3
      exact twinCommandAct_keeps h3
    · exact h
  · exact h

theorem execForcedTakeover_keeps {s0 : State} {req : Req} {value : Bytes} {s : State} (h : Keeps s0 s) :
    OutKeeps s0 (execForcedTakeover req value s) := by
  unfold execForcedTakeover
  refine OutKeeps.next ?_
  refine Keeps.ite (fun _ => ?_) (fun _ => ?_)
  · refine serveWrite_keeps ?_ ?_
    · intro x1 s2 h3
      exact twinCommandAct_keeps h3
    · exact h
  · exact h

theorem execUnpair_keeps {s0 : State} {req : Req} {value : Bytes} {s : State} (h : Keeps s0 s) :
    OutKeeps s0 (execUnpair req value s) := by
  unfold execUnpair
  refine OutKeeps.next ?_
  refine Keeps.ite (fun _ => ?_) (fun _ => ?_)
  · refine serveWrite_keeps ?_ ?_
    · intro x1 s2 h3
      exact twinCommandAct_keeps h3
    · exact h
  · exact h

theorem designatedAct_keeps {s0 : State} {a0 : Bytes} {a1 : State} (h : Keeps s0 a1) :
    WKeeps s0 (designatedAct a0 a1) := by
  unfold designatedAct
  extract_lets v1 v2 v3 v4 v5 v6 v7
  refine Keeps.mid (a := s0) v6 ?_ (fun h8 => ?_)
  · unfold v6
    exact setDict_keeps h
  clear_value v6
  clear_value v5
  split
  · exact .refuse
  · split
    · exact .refuse
    · split
      · exact .refuse
      · split
        · exact .refuse
        · exact WKeeps.done (Keeps.put h8 rfl rfl rfl rfl rfl)

theorem execDesignatedRegionsWrite_keeps {s0 : State} {req : Req} {value : Bytes} {s : State} (h : Keeps s0 s) :
    OutKeeps s0 (execDesignatedRegionsWrite req value s) := by
  unfold execDesignatedRegionsWrite
  refine OutKeeps.next ?_
  refine serveWrite_keeps ?_ ?_
  · intro x1 s2 h3
    exact designatedAct_keeps h3
  · exact h

end Sys2Proof.Machine
end

