-- ==== Sys2Proof/Laws/KeepsDictionary.lean ====
section
/-! SUPPORT. What the operations of Machine/Dictionary.lean keep: one lemma for each. -/

set_option Elab.async false

namespace Sys2Proof.Machine

theorem dictRead_keeps {s0 : State} {req : Req} {key : Nat} {s : State} (h : Keeps s0 s) :
    Keeps s0 (dictRead req key s) := by
  unfold dictRead
  extract_lets v1
  split
  · rename_i y4
    refine OptKeeps.out (a := s0) y4 ?_ (fun h5 => ?_)
    · exact admitRequest_keeps h
    exact h5
  · split
    · exact errorReply_keeps h
    · exact Keeps.ite (fun _ => errorReply_keeps h) (fun _ => okReply_keeps h)

theorem execDictRead_keeps {s0 : State} {req : Req} {key : BitVec 24} {s : State} (h : Keeps s0 s) :
    OutKeeps s0 (execDictRead req key s) := by
  unfold execDictRead
  exact OutKeeps.next (dictRead_keeps h)

theorem malformed_keeps {s0 : State} {req : Req} {opcode : BitVec 8} {key : BitVec 24} {offset : Nat}
    {s : State} (h : Keeps s0 s) :
    Keeps s0 (malformed req opcode key offset s) := by
  unfold malformed
  extract_lets v1 v2
  refine Keeps.ite (fun _ => ?_) (fun _ => ?_)
  · exact h
  · refine Keeps.ite (fun _ => ?_) (fun _ => ?_)
    · exact rejectSource_keeps h
    · split
      · exact Keeps.put h rfl rfl rfl rfl rfl
      · exact errorReply_keeps h

theorem writeConfig_keeps {s0 : State} {req : Requester} {key : Nat} {values : Tab Bytes} {ok : Bool}
    {s : State} (h : Keeps s0 s) :
    WKeeps s0 (writeConfig req key values ok s) := by
  unfold writeConfig
  split
  · extract_lets v5 v6 v7
    refine Keeps.mid (a := s0) v5 ?_ (fun h8 => ?_)
    · unfold v5
      exact raise_keeps h
    clear_value v5
    split
    · exact WKeeps.done (Keeps.put h8 rfl rfl rfl rfl rfl)
    · exact WKeeps.failed (Keeps.put h8 rfl rfl rfl rfl rfl)

theorem configAct_keeps {s0 : State} {req : Requester} {ok : Bool} {a2 : Bytes} {a3 : State} (h : Keeps s0 a3) :
    WKeeps s0 (configAct req ok a2 a3) := by
  unfold configAct
  split
  · exact writeConfig_keeps h
  · split
    · extract_lets v4 v5
      refine Keeps.mid (a := s0) v4 ?_ (fun h6 => ?_)
      · unfold v4
        exact raise_keeps h
      clear_value v4
      split
      · exact WKeeps.done (Keeps.put h6 rfl rfl rfl rfl rfl)
      · exact WKeeps.failed (Keeps.put h6 rfl rfl rfl rfl rfl)
    · exact .refuse

theorem layoutAct_keeps {s0 : State} {req : Requester} {ok : Bool} {a2 : Bytes} {a3 : State} (h : Keeps s0 a3) :
    WKeeps s0 (layoutAct req ok a2 a3) := by
  unfold layoutAct
  split
  · exact .refuse
  · extract_lets v3
    split
    · rename_i y6
      refine WKeeps.outDone (a := s0) y6 ?_ (fun h7 => ?_)
      · exact writeConfig_keeps h
      exact WKeeps.done (setDict_keeps h7)
    · exact writeConfig_keeps h

theorem rangeAct_keeps {s0 : State} {key : Nat} {lo : Nat} {hi : Nat} {a3 : Bytes} {a4 : State}
    (h : Keeps s0 a4) :
    WKeeps s0 (rangeAct key lo hi a3 a4) := by
  unfold rangeAct
  split
  · exact WKeeps.done (setDict_keeps h)
  · exact .refuse

theorem subscribersAct_keeps {s0 : State} {a0 : Bytes} {a1 : State} (h : Keeps s0 a1) :
    WKeeps s0 (subscribersAct a0 a1) := by
  unfold subscribersAct
  extract_lets v1 v2 v3
  refine Keeps.mid (a := s0) v2 ?_ (fun h4 => ?_)
  · unfold v2
    exact setDict_keeps h
  clear_value v2
  clear_value v1
  split
  · exact .refuse
  · exact WKeeps.done (Keeps.put h4 rfl rfl rfl rfl rfl)

theorem tableAct_keeps {s0 : State} {key : Nat} {count : Nat} {width : Nat} {bad : Bytes → Nat → Bool}
    {f : State → State} {a5 : Bytes} {a6 : State} (h_f : ∀ (z0 : State), Keeps s0 z0 → Keeps s0 (f z0))
    (h : Keeps s0 a6) :
    WKeeps s0 (tableAct key count width bad f a5 a6) := by
  unfold tableAct
  split
  · exact .refuse
  · exact WKeeps.done (h_f _ (setDict_keeps h))

theorem ceilingsAct_keeps {s0 : State} {a0 : Bytes} {a1 : State} (h : Keeps s0 a1) :
    WKeeps s0 (ceilingsAct a0 a1) := by
  unfold ceilingsAct
  refine tableAct_keeps ?_ ?_
  · intro s1 h2
    dsimp only [id]
    exact h2
  · exact h

theorem aboveAct_keeps {s0 : State} {key : Nat} {lo : Nat} {hi : Nat} {other : Nat} {a4 : Bytes} {a5 : State}
    (h : Keeps s0 a5) :
    WKeeps s0 (aboveAct key lo hi other a4 a5) := by
  unfold aboveAct
  split
  · exact rangeAct_keeps h
  · exact .refuse

theorem periodAct_keeps {s0 : State} {key : Nat} {lo : Nat} {hi : Nat} {a3 : Bytes} {a4 : State}
    (h : Keeps s0 a4) :
    WKeeps s0 (periodAct key lo hi a3 a4) := by
  unfold periodAct
  split
  · exact WKeeps.done (setDict_keeps h)
  · exact rangeAct_keeps h

theorem directoryAct_keeps {s0 : State} {a0 : Bytes} {a1 : State} (h : Keeps s0 a1) :
    WKeeps s0 (directoryAct a0 a1) := by
  unfold directoryAct
  refine tableAct_keeps ?_ ?_
  · intro s1 h2
    exact Keeps.put h2 rfl rfl rfl rfl rfl
  · exact h

theorem boardTableAct_keeps {s0 : State} {a0 : Bytes} {a1 : State} (h : Keeps s0 a1) :
    WKeeps s0 (boardTableAct a0 a1) := by
  unfold boardTableAct
  split
  · exact .refuse
  · exact WKeeps.done (setDict_keeps h)

theorem fillBuckets_keeps {s0 : State} {s : State} (h : Keeps s0 s) : Keeps s0 (fillBuckets s) := by
  unfold fillBuckets
  exact Keeps.put h rfl rfl rfl rfl rfl

theorem overridesAct_keeps {s0 : State} {a0 : Bytes} {a1 : State} (h : Keeps s0 a1) :
    WKeeps s0 (overridesAct a0 a1) := by
  unfold overridesAct
  refine tableAct_keeps ?_ ?_
  · intro s1 h2
    exact fillBuckets_keeps h2
  · exact h

theorem defaultRateAct_keeps {s0 : State} {a0 : Bytes} {a1 : State} (h : Keeps s0 a1) :
    WKeeps s0 (defaultRateAct a0 a1) := by
  unfold defaultRateAct
  extract_lets v1
  split
  · exact WKeeps.done (fillBuckets_keeps (setDict_keeps h))
  · exact .refuse

theorem plainAct_keeps {s0 : State} {key : Nat} {a1 : Bytes} {a2 : State} (h : Keeps s0 a2) :
    WKeeps s0 (plainAct key a1 a2) := by
  unfold plainAct
  exact WKeeps.done (setDict_keeps h)

theorem settingAct_keeps {s0 : State} {key : Nat} {a1 : Bytes} {a2 : State} (h : Keeps s0 a2) :
    WKeeps s0 (settingAct key a1 a2) := by
  unfold settingAct
  split
  · exact rangeAct_keeps h
  · dsimp only
    split
    · exact WKeeps.done (setDict_keeps h)
    · exact .refuse
  · exact rangeAct_keeps h
  · exact rangeAct_keeps h
  · exact subscribersAct_keeps h
  · dsimp only
    exact WKeeps.done (setDictNat_keeps h)
  · exact rangeAct_keeps h
  · exact ceilingsAct_keeps h
  · exact rangeAct_keeps h
  · exact rangeAct_keeps h
  · exact rangeAct_keeps h
  · exact rangeAct_keeps h
  · exact aboveAct_keeps h
  · exact rangeAct_keeps h
  · exact rangeAct_keeps h
  · exact rangeAct_keeps h
  · exact periodAct_keeps h
  · exact directoryAct_keeps h
  · exact boardTableAct_keeps h
  · exact aboveAct_keeps h
  · exact rangeAct_keeps h
  · exact periodAct_keeps h
  · exact rangeAct_keeps h
  · exact rangeAct_keeps h
  · exact rangeAct_keeps h
  · exact rangeAct_keeps h
  · exact rangeAct_keeps h
  · exact rangeAct_keeps h
  · exact rangeAct_keeps h
  · exact overridesAct_keeps h
  · exact defaultRateAct_keeps h
  · exact plainAct_keeps h

theorem writeAct_keeps {s0 : State} {r : Requester} {nvmOk : Bool} {key : Nat} {a3 : Bytes} {a4 : State}
    (h : Keeps s0 a4) :
    WKeeps s0 (writeAct r nvmOk key a3 a4) := by
  unfold writeAct
  split
  · exact configAct_keeps h
  · exact layoutAct_keeps h
  · exact ownersAct_keeps h
  · exact profileAct_keeps h
  · exact clockAct_keeps h
  · exact frameLengthAct_keeps h
  · exact partitionMapAct_keeps h
  · exact clearRetiredAct_keeps h
  · exact handoverScrubAct_keeps h
  · exact invalidateAct_keeps h
  · exact eyeScanAct_keeps h
  · exact loopbackAct_keeps h
  · exact linkControlAct_keeps h
  · exact spareAct_keeps h
  · exact baseResetAct_keeps h
  · exact packageIdAct_keeps h
  · exact routeTableAct_keeps h
  · exact teardownAct_keeps h
  · exact twinModeAct_keeps h
  · exact designatedAct_keeps h
  · exact twinCommandAct_keeps h
  · exact worldMapAct_keeps h
  · exact stagingAct_keeps h
  · exact updateAct_keeps h
  · exact tenantHandoverAct_keeps h
  · exact portKeyAct_keeps h
  · exact freezeAct_keeps h
  · exact clearLogAct_keeps h
  · exact startAct_keeps h
  · split
    · exact rootAct_keeps h
    · split
      · exact bindingAct_keeps h
      · split
        · exact regionTableAct_keeps h
        · exact settingAct_keeps h

theorem dictWrite_keeps {s0 : State} {req : Req} {key : Nat} {value : Bytes} {nvmOk : Bool} {s : State}
    (h : Keeps s0 s) :
    Keeps s0 (dictWrite req key value nvmOk s) := by
  unfold dictWrite
  extract_lets v1
  refine Keeps.ite (fun _ => ?_) (fun _ => ?_)
  · exact malformed_keeps h
  · split
    · rename_i y4
      refine OptKeeps.out (a := s0) y4 ?_ (fun h5 => ?_)
      · exact admitRequest_keeps h
      exact h5
    · split
      · exact errorReply_keeps h
      · refine Keeps.ite (fun _ => ?_) (fun _ => ?_)
        · exact errorReply_keeps h
        · refine applyWrite_keeps ?_ ?_
          · intro x14 s15 h16
            exact writeAct_keeps h16
          · exact h

theorem execDictWrite_keeps {s0 : State} {req : Req} {key : BitVec 24} {value : Bytes} {nvmOk : Bool}
    {s : State} (h : Keeps s0 s) :
    OutKeeps s0 (execDictWrite req key value nvmOk s) := by
  unfold execDictWrite
  exact OutKeeps.next (dictWrite_keeps h)

theorem takeSnapshot_keeps {s0 : State} {x : Snapshot} {s : State} (h : Keeps s0 s) :
    Keeps s0 (takeSnapshot x s) := by
  unfold takeSnapshot
  extract_lets v1 v2 v3 v4
  exact Keeps.put h rfl rfl rfl rfl rfl

theorem segRead_keeps {s0 : State} {req : Req} {key : Nat} {offset : Nat} {length : Nat} {s : State}
    (h : Keeps s0 s) :
    Keeps s0 (segRead req key offset length s) := by
  unfold segRead
  extract_lets v1 v2
  refine Keeps.ite (fun _ => ?_) (fun _ => ?_)
  · exact malformed_keeps h
  · split
    · rename_i y5
      refine OptKeeps.out (a := s0) y5 ?_ (fun h6 => ?_)
      · exact admitRequest_keeps h
      exact h6
    · split
      · exact errorReply_keeps h
      · clear_value v2
        split
        · exact errorReply_keeps h
        · exact Keeps.ite (fun _ => errorReply_keeps h) (fun _ => okReply_keeps (takeSnapshot_keeps h))

theorem execSegRead_keeps {s0 : State} {req : Req} {key : BitVec 24} {offset : BitVec 32} {length : BitVec 32}
    {s : State} (h : Keeps s0 s) :
    OutKeeps s0 (execSegRead req key offset length s) := by
  unfold execSegRead
  exact OutKeeps.next (segRead_keeps h)

theorem discardStaged_keeps {s0 : State} {key : Nat} {s : State} (h : Keeps s0 s) :
    Keeps s0 (discardStaged key s) := by
  unfold discardStaged
  exact Keeps.ite (fun _ => Keeps.put h rfl rfl rfl rfl rfl) (fun _ => h)

theorem endTransfer_keeps {s0 : State} {key : Nat} {s : State} (h : Keeps s0 s) :
    Keeps s0 (endTransfer key s) := by
  unfold endTransfer
  exact Keeps.put h rfl rfl rfl rfl rfl

theorem segBegin_keeps {s0 : State} {req : Req} {key : Nat} {total : Nat} {s : State} (h : Keeps s0 s) :
    Keeps s0 (segBegin req key total s) := by
  unfold segBegin
  extract_lets v1 v2 v3 v4 v5
  refine Keeps.mid (a := s0) v4 ?_ (fun h6 => ?_)
  · unfold v4
    exact discardStaged_keeps (endTransfer_keeps h)
  clear_value v4
  split
  · rename_i y9
    refine OptKeeps.out (a := s0) y9 ?_ (fun h10 => ?_)
    · exact admitRequest_keeps h
    exact h10
  · refine Keeps.ite (fun _ => ?_) (fun _ => ?_)
    · exact errorReply_keeps h
    · split
      · exact errorReply_keeps h
      · split
        · exact errorReply_keeps h
        · refine Keeps.ite (fun _ => ?_) (fun _ => ?_)
          · exact errorReply_keeps h
          · exact okReply_keeps (Keeps.put h6 rfl rfl rfl rfl rfl)

theorem execSegBegin_keeps {s0 : State} {req : Req} {key : BitVec 24} {total : BitVec 32} {s : State}
    (h : Keeps s0 s) :
    OutKeeps s0 (execSegBegin req key total s) := by
  unfold execSegBegin
  exact OutKeeps.next (segBegin_keeps h)

theorem changeTransfer_keeps {s0 : State} {key : Nat} {f : Transfer → Transfer} {s : State} (h : Keeps s0 s) :
    Keeps s0 (changeTransfer key f s) := by
  unfold changeTransfer
  exact Keeps.put h rfl rfl rfl rfl rfl

theorem segData_keeps {s0 : State} {req : Req} {key : Nat} {offset : Nat} {data : Bytes} {s : State}
    (h : Keeps s0 s) :
    Keeps s0 (segData req key offset data s) := by
  unfold segData
  extract_lets v1 v2
  refine Keeps.mid (a := s0) v2 ?_ (fun h3 => ?_)
  · unfold v2
    exact changeTransfer_keeps h
  clear_value v2
  refine Keeps.ite (fun _ => ?_) (fun _ => ?_)
  · exact malformed_keeps h
  · split
    · rename_i y6
      refine OptKeeps.out (a := s0) y6 ?_ (fun h7 => ?_)
      · exact admitRequest_keeps h
      exact h7
    · split
      · exact errorReply_keeps h
      · split
        · exact errorReply_keeps h
        · exact Keeps.ite (fun _ => errorReply_keeps h3) (fun _ => okReply_keeps (changeTransfer_keeps h3))

theorem execSegData_keeps {s0 : State} {req : Req} {key : BitVec 24} {offset : BitVec 32} {data : Bytes}
    {s : State} (h : Keeps s0 s) :
    OutKeeps s0 (execSegData req key offset data s) := by
  unfold execSegData
  exact OutKeeps.next (segData_keeps h)

theorem segEnd_keeps {s0 : State} {req : Req} {key : Nat} {crc : BitVec 32} {nvmOk : Bool} {s : State}
    (h : Keeps s0 s) :
    Keeps s0 (segEnd req key crc nvmOk s) := by
  unfold segEnd
  extract_lets v1 v2
  refine Keeps.mid (a := s0) v2 ?_ (fun h3 => ?_)
  · unfold v2
    exact changeTransfer_keeps h
  clear_value v2
  split
  · rename_i y6
    refine OptKeeps.out (a := s0) y6 ?_ (fun h7 => ?_)
    · exact admitRequest_keeps h
    exact h7
  · split
    · exact errorReply_keeps h
    · split
      · exact errorReply_keeps h
      · split
        · exact errorReply_keeps h3
        · refine Keeps.ite (fun _ => ?_) (fun _ => ?_)
          · exact errorReply_keeps h3
          · refine applyWrite_keeps ?_ ?_
            · intro x26 s27 h28
              split
              · rename_i y31
                refine WKeeps.outDone (a := s0) y31 ?_ (fun h32 => ?_)
                · exact writeAct_keeps h28
                exact WKeeps.done (endTransfer_keeps h32)
              · rename_i y36
                refine WKeeps.outWait (a := s0) y36 ?_ (fun h37 => ?_)
                · exact writeAct_keeps h28
                exact WKeeps.wait (endTransfer_keeps h37)
              · exact writeAct_keeps h28
            · exact h3

theorem execSegEnd_keeps {s0 : State} {req : Req} {key : BitVec 24} {crc : BitVec 32} {nvmOk : Bool} {s : State}
    (h : Keeps s0 s) :
    OutKeeps s0 (execSegEnd req key crc nvmOk s) := by
  unfold execSegEnd
  exact OutKeeps.next (segEnd_keeps h)

theorem segAbort_keeps {s0 : State} {req : Req} {key : Nat} {s : State} (h : Keeps s0 s) :
    Keeps s0 (segAbort req key s) := by
  unfold segAbort
  extract_lets v1
  split
  · rename_i y4
    refine OptKeeps.out (a := s0) y4 ?_ (fun h5 => ?_)
    · exact admitRequest_keeps h
    exact h5
  · split
    · exact errorReply_keeps h
    · split
      · exact okReply_keeps h
      · exact okReply_keeps (endTransfer_keeps h)

theorem execSegAbort_keeps {s0 : State} {req : Req} {key : BitVec 24} {s : State} (h : Keeps s0 s) :
    OutKeeps s0 (execSegAbort req key s) := by
  unfold execSegAbort
  exact OutKeeps.next (segAbort_keeps h)

theorem execMalformedMessage_keeps {s0 : State} {req : Req} {opcode : BitVec 8} {key : BitVec 24}
    {offset : BitVec 32} {s : State} (h : Keeps s0 s) :
    OutKeeps s0 (execMalformedMessage req opcode key offset s) := by
  unfold execMalformedMessage
  exact OutKeeps.next (malformed_keeps h)

theorem segTimeout_keeps {s0 : State} {i : Nat} {s : State} (h : Keeps s0 s) : Keeps s0 (segTimeout i s) := by
  unfold segTimeout
  split
  · exact h
  · refine raise_keeps ?_
    extract_lets v6 v7
    refine Keeps.mid (a := s0) v6 ?_ (fun h8 => ?_)
    · unfold v6
      exact advanceTo_keeps h
    clear_value v6
    exact Keeps.put h8 rfl rfl rfl rfl rfl

theorem execSegTimeout_keeps {s0 : State} {index : Nat} {s : State} (h : Keeps s0 s) :
    OutKeeps s0 (execSegTimeout index s) := by
  unfold execSegTimeout
  exact OutKeeps.next (segTimeout_keeps h)

theorem snapshotLapse_keeps {s0 : State} {i : Nat} {s : State} (h : Keeps s0 s) :
    Keeps s0 (snapshotLapse i s) := by
  unfold snapshotLapse
  split
  · exact h
  · extract_lets v6 v7
    refine Keeps.mid (a := s0) v6 ?_ (fun h8 => ?_)
    · unfold v6
      exact advanceTo_keeps h
    clear_value v6
    exact Keeps.put h8 rfl rfl rfl rfl rfl

theorem execSnapshotLapse_keeps {s0 : State} {index : Nat} {s : State} (h : Keeps s0 s) :
    OutKeeps s0 (execSnapshotLapse index s) := by
  unfold execSnapshotLapse
  exact OutKeeps.next (snapshotLapse_keeps h)

theorem keptExpiry_keeps {s0 : State} {s : State} (h : Keeps s0 s) : Keeps s0 (keptExpiry s) := by
  unfold keptExpiry
  split
  · exact h
  · extract_lets v6 v7
    refine Keeps.mid (a := s0) v6 ?_ (fun h8 => ?_)
    · unfold v6
      exact advanceTo_keeps h
    clear_value v6
    exact Keeps.put h8 rfl rfl rfl rfl rfl

theorem execKeptReplyExpiry_keeps {s0 : State} {s : State} (h : Keeps s0 s) :
    OutKeeps s0 (execKeptReplyExpiry s) := by
  unfold execKeptReplyExpiry
  exact OutKeeps.next (keptExpiry_keeps h)

theorem noticeAnswer_keeps {s0 : State} {i : Nat} {q : BitVec 16} {s : State} (h : Keeps s0 s) :
    Keeps s0 (noticeAnswer i q s) := by
  unfold noticeAnswer
  exact releaseHeld_keeps (changeSubscriber_keeps h)

theorem execNoticeAnswer_keeps {s0 : State} {subscriber : Fin 4} {seq : BitVec 16} {s : State} (h : Keeps s0 s)
    :
    OutKeeps s0 (execNoticeAnswer subscriber seq s) := by
  unfold execNoticeAnswer
  exact OutKeeps.next (noticeAnswer_keeps h)

theorem noticeResend_keeps {s0 : State} {i : Nat} {s : State} (h : Keeps s0 s) :
    Keeps s0 (noticeResend i s) := by
  unfold noticeResend
  extract_lets v1
  split
  · exact h
  · split
    · exact h
    · extract_lets v12 v13
      refine Keeps.mid (a := s0) v12 ?_ (fun h14 => ?_)
      · unfold v12
        exact advanceTo_keeps h
      clear_value v12
      refine Keeps.ite (fun _ => ?_) (fun _ => ?_)
      · exact releaseHeld_keeps (dropNotice_keeps (changeSubscriber_keeps h14))
      · exact changeSubscriber_keeps (putNotice_keeps h14)

theorem execNoticeResendTimer_keeps {s0 : State} {subscriber : Fin 4} {s : State} (h : Keeps s0 s) :
    OutKeeps s0 (execNoticeResendTimer subscriber s) := by
  unfold execNoticeResendTimer
  exact OutKeeps.next (noticeResend_keeps h)

theorem mgmtLink_keeps {s0 : State} {up : Bool} {s : State} (h : Keeps s0 s) : Keeps s0 (mgmtLink up s) := by
  unfold mgmtLink
  exact Keeps.ite (fun _ => h) (fun _ => raiseIf_keeps (Keeps.put h rfl rfl rfl rfl rfl))

theorem execMgmtLink_keeps {s0 : State} {up : Bool} {s : State} (h : Keeps s0 s) :
    OutKeeps s0 (execMgmtLink up s) := by
  unfold execMgmtLink
  exact OutKeeps.next (mgmtLink_keeps h)

theorem sendIp_keeps {s0 : State} {kind : Nat} {peer : BitVec 128} {s : State} (h : Keeps s0 s) :
    Keeps s0 (sendIp kind peer s) := by
  unfold sendIp
  exact Keeps.put h rfl rfl rfl rfl rfl

theorem addressDetection_keeps {s0 : State} {duplicate : Bool} {s : State} (h : Keeps s0 s) :
    Keeps s0 (addressDetection duplicate s) := by
  unfold addressDetection
  refine Keeps.ite (fun _ => ?_) (fun _ => ?_)
  · exact h
  · extract_lets v1 v2 v3 v4
    refine Keeps.mid (a := s0) v1 ?_ (fun h5 => ?_)
    · unfold v1
      split
      · exact advanceTo_keeps h
      · exact h
    clear_value v1
    refine Keeps.mid (a := s0) v2 ?_ (fun h11 => ?_)
    · unfold v2
      exact sendIp_keeps h5
    clear_value v2
    exact raiseIf_keeps (Keeps.put h11 rfl rfl rfl rfl rfl)

theorem execDuplicateAddressDetection_keeps {s0 : State} {duplicate : Bool} {s : State} (h : Keeps s0 s) :
    OutKeeps s0 (execDuplicateAddressDetection duplicate s) := by
  unfold execDuplicateAddressDetection
  exact OutKeeps.next (addressDetection_keeps h)

theorem execNeighbourDiscovery_keeps {s0 : State} {source : BitVec 128} {target : BitVec 128} {s : State}
    (h : Keeps s0 s) :
    OutKeeps s0 (execNeighbourDiscovery source target s) := by
  unfold execNeighbourDiscovery
  exact OutKeeps.next (Keeps.ite (fun _ => sendIp_keeps h) (fun _ => h))

theorem execIcmpv6Echo_keeps {s0 : State} {source : BitVec 128} {data : Bytes} {s : State} (h : Keeps s0 s) :
    OutKeeps s0 (execIcmpv6Echo source data s) := by
  unfold execIcmpv6Echo
  exact OutKeeps.next (Keeps.ite (fun _ => Keeps.put h rfl rfl rfl rfl rfl) (fun _ => h))

theorem execStoreConfiguration_keeps {s0 : State} {req : Req} {value : Bytes} {nvmOk : Bool} {s : State}
    (h : Keeps s0 s) :
    OutKeeps s0 (execStoreConfiguration req value nvmOk s) := by
  unfold execStoreConfiguration
  refine OutKeeps.next ?_
  refine Keeps.ite (fun _ => ?_) (fun _ => ?_)
  · refine serveWrite_keeps ?_ ?_
    · intro x1 s2 h3
      exact configAct_keeps h3
    · exact h
  · exact h

theorem execInvalidateConfiguration_keeps {s0 : State} {req : Req} {value : Bytes} {nvmOk : Bool} {s : State}
    (h : Keeps s0 s) :
    OutKeeps s0 (execInvalidateConfiguration req value nvmOk s) := by
  unfold execInvalidateConfiguration
  refine OutKeeps.next ?_
  refine Keeps.ite (fun _ => ?_) (fun _ => ?_)
  · refine serveWrite_keeps ?_ ?_
    · intro x1 s2 h3
      exact configAct_keeps h3
    · exact h
  · exact h

end Sys2Proof.Machine
end

