-- ==== Sys2Proof/Laws/KeepsStart.lean ====
section
/-! SUPPORT. What the operations of Machine/Start.lean keep: one lemma for each. -/

set_option Elab.async false

namespace Sys2Proof.Machine

theorem beginStart_keeps {s0 : State} {powered : Nat} {s : State} (h : Keeps s0 s) :
    Keeps s0 (beginStart powered s) := by
  unfold beginStart
  exact Keeps.put h rfl rfl rfl rfl rfl

theorem startGate_keeps {s0 : State} {s : State} (h : Keeps s0 s) : Keeps s0 (startGate s) := by
  unfold startGate
  refine Keeps.ite (fun _ => ?_) (fun _ => ?_)
  · exact h
  · split
    · extract_lets v5
      refine Keeps.mid (a := s0) v5 ?_ (fun h6 => ?_)
      · unfold v5
        exact advanceTo_keeps h
      clear_value v5
      exact beginStart_keeps h6
    · exact beginStart_keeps (advanceTo_keeps h)
    · exact h

theorem execStartGate_keeps {s0 : State} {s : State} (h : Keeps s0 s) : OutKeeps s0 (execStartGate s) := by
  unfold execStartGate
  exact OutKeeps.next (startGate_keeps h)

theorem endStep_keeps {s0 : State} {result : Nat} {s : State} (h : Keeps s0 s) :
    Keeps s0 (endStep result s) := by
  unfold endStep
  extract_lets v1 v2 v3
  exact raise_keeps (Keeps.put h rfl rfl rfl rfl rfl)

theorem countStart_keeps {s0 : State} {s : State} (h : Keeps s0 s) : Keeps s0 (countStart s) := by
  unfold countStart
  extract_lets v1 v2
  exact Keeps.put h rfl rfl rfl rfl rfl

theorem recordTrip_keeps {s0 : State} {s : State} (h : Keeps s0 s) : Keeps s0 (recordTrip s) := by
  unfold recordTrip
  split
  · exact h
  · extract_lets v7 v8 v9 v10
    refine Keeps.mid (a := s0) v9 ?_ (fun h11 => ?_)
    · unfold v9
      exact reportFull_keeps (Keeps.put h rfl rfl rfl rfl rfl)
    clear_value v9
    exact raise_keeps (raise_keeps h11)

theorem finishSupplies_keeps {s0 : State} {result : Nat} {s : State} (h : Keeps s0 s) :
    Keeps s0 (finishSupplies result s) := by
  unfold finishSupplies
  exact endStep_keeps (countStart_keeps (recordTrip_keeps (startRecorder_keeps h)))

theorem execStep1Supplies_keeps {s0 : State} {s : State} (h : Keeps s0 s) :
    OutKeeps s0 (execStep1Supplies s) := by
  unfold execStep1Supplies
  exact OutKeeps.next (Keeps.ite (fun _ => finishSupplies_keeps h) (fun _ => h))

theorem enterDonkey_keeps {s0 : State} {reason : Nat} {s : State} (h : Keeps s0 s) :
    Keeps s0 (enterDonkey reason s) := by
  unfold enterDonkey
  exact raise_keeps (Keeps.put h rfl rfl rfl rfl rfl)

theorem storedAct_keeps {s0 : State} {key : Nat} {a1 : Bytes} {a2 : State} (h : Keeps s0 a2) :
    WKeeps s0 (storedAct key a1 a2) := by
  unfold storedAct
  split
  · dsimp only
    split
    · exact .refuse
    · exact WKeeps.done (setDict_keeps h)
  · dsimp only
    split
    · exact .refuse
    · exact WKeeps.done (setDict_keeps h)
  · exact writeAct_keeps h

theorem takeStored_keeps {s0 : State} {key : Nat} {v : Bytes} {s : State} (h : Keeps s0 s) :
    Keeps s0 (takeStored key v s) := by
  unfold takeStored
  extract_lets v1
  split
  · simp only [v1]
    exact raise_keeps (Keeps.put h rfl rfl rfl rfl rfl)
  · split
    · rename_i y9
      refine WKeeps.outDone (a := s0) y9 ?_ (fun h10 => ?_)
      · exact storedAct_keeps h
      exact h10
    · rename_i y14
      refine WKeeps.outWait (a := s0) y14 ?_ (fun h15 => ?_)
      · exact storedAct_keeps h
      exact h15
    · rename_i y18
      refine WKeeps.outFailed (a := s0) y18 ?_ (fun h19 => ?_)
      · exact storedAct_keeps h
      simp only [v1]
      exact raise_keeps (Keeps.put h rfl rfl rfl rfl rfl)
    · simp only [v1]
      exact raise_keeps (Keeps.put h rfl rfl rfl rfl rfl)

theorem applyConfiguration_keeps {s0 : State} {s : State} (h : Keeps s0 s) :
    Keeps s0 (applyConfiguration s) := by
  unfold applyConfiguration
  split
  · exact raise_keeps h
  · extract_lets v7 v8
    refine Keeps.mid (a := s0) v8 ?_ (fun h9 => ?_)
    · unfold v8
      exact Keeps.put h rfl rfl rfl rfl rfl
    clear_value v8
    exact Keeps.fold h9 (fun _ _ h12 => takeStored_keeps h12)

theorem startMule_keeps {s0 : State} {s : State} (h : Keeps s0 s) : Keeps s0 (startMule s) := by
  unfold startMule
  extract_lets v1 v2 v3 v4 v5 v6
  refine Keeps.mid (a := s0) v2 ?_ (fun h7 => ?_)
  · unfold v2
    exact applyConfiguration_keeps (Keeps.put h rfl rfl rfl rfl rfl)
  clear_value v2
  refine Keeps.mid (a := s0) v6 ?_ (fun h8 => ?_)
  · unfold v6
    exact Keeps.put h7 rfl rfl rfl rfl rfl
  clear_value v6
  exact beginDiscovery_keeps h8

theorem finishController_keeps {s0 : State} {nvmReadable : Bool} {result : Nat} {s : State} (h : Keeps s0 s) :
    Keeps s0 (finishController nvmReadable result s) := by
  unfold finishController
  split
  · exact enterDonkey_keeps h
  · exact endStep_keeps (startMule_keeps h)

theorem execStep2ManagementController_keeps {s0 : State} {nvmReadable : Bool} {s : State} (h : Keeps s0 s) :
    OutKeeps s0 (execStep2ManagementController nvmReadable s) := by
  unfold execStep2ManagementController
  exact OutKeeps.next (Keeps.ite (fun _ => finishController_keeps h) (fun _ => h))

theorem finishDiscovery_keeps {s0 : State} {result : Nat} {s : State} (h : Keeps s0 s) :
    Keeps s0 (finishDiscovery result s) := by
  unfold finishDiscovery
  exact endStep_keeps (Keeps.put h rfl rfl rfl rfl rfl)

theorem nameRest_keeps {s0 : State} {s : State} (h : Keeps s0 s) : Keeps s0 (nameRest s) := by
  unfold nameRest
  extract_lets v1 v2
  exact Keeps.put h rfl rfl rfl rfl rfl

theorem execStep3Discovery_keeps {s0 : State} {s : State} (h : Keeps s0 s) :
    OutKeeps s0 (execStep3Discovery s) := by
  unfold execStep3Discovery
  exact OutKeeps.next (Keeps.ite (fun _ => finishDiscovery_keeps (nameRest_keeps h)) (fun _ => h))

theorem finishBundles_keeps {s0 : State} {result : Nat} {s : State} (h : Keeps s0 s) :
    Keeps s0 (finishBundles result s) := by
  unfold finishBundles
  extract_lets v1 v2 v3 v4 v5
  refine Keeps.mid (a := s0) v2 ?_ (fun h6 => ?_)
  · unfold v2
    exact endStep_keeps h
  clear_value v2
  exact Keeps.put h6 rfl rfl rfl rfl rfl

theorem chooseLanes_keeps {s0 : State} {errors : List (BundleSide × Fin 36 × List Nat)} {s : State}
    (h : Keeps s0 s) :
    Keeps s0 (chooseLanes errors s) := by
  unfold chooseLanes
  extract_lets v1 v2
  refine Keeps.mid (a := s0) v2 ?_ (fun h3 => ?_)
  · unfold v2
    refine Keeps.fold ?_ (fun s4 x5 h6 => ?_)
    · exact h
    · exact Keeps.ite (fun _ => h6) (fun _ => Keeps.fold h6 (fun _ _ h9 => startBundle_keeps h9))
  clear_value v2
  exact Keeps.fold h3 (fun _ _ h12 => startBundle_keeps h12)

theorem execStep4BundleRepair_keeps {s0 : State} {errors : List (BundleSide × Fin 36 × List Nat)} {s : State}
    (h : Keeps s0 s) :
    OutKeeps s0 (execStep4BundleRepair errors s) := by
  unfold execStep4BundleRepair
  exact OutKeeps.next (Keeps.ite (fun _ => finishBundles_keeps (chooseLanes_keeps h)) (fun _ => h))

theorem powerTower_keeps {s0 : State} {t : Nat} {s : State} (h : Keeps s0 s) : Keeps s0 (powerTower t s) := by
  unfold powerTower
  extract_lets v1 v2 v3
  exact Keeps.put h rfl rfl rfl rfl rfl

theorem failStart_keeps {s0 : State} {s : State} (h : Keeps s0 s) : Keeps s0 (failStart s) := by
  unfold failStart
  exact stopDevice_keeps (arriveAll_keeps (raise_keeps h))

theorem enterFoal_keeps {s0 : State} {s : State} (h : Keeps s0 s) : Keeps s0 (enterFoal s) := by
  unfold enterFoal
  extract_lets v1 v2
  exact raise_keeps (Keeps.put h rfl rfl rfl rfl rfl)

theorem finishMesh_keeps {s0 : State} {result : Nat} {s : State} (h : Keeps s0 s) :
    Keeps s0 (finishMesh result s) := by
  unfold finishMesh
  extract_lets v1
  refine Keeps.mid (a := s0) v1 ?_ (fun h2 => ?_)
  · unfold v1
    exact Keeps.fold h (fun _ _ h5 => powerTower_keeps h5)
  clear_value v1
  exact Keeps.ite (fun _ => failStart_keeps h2) (fun _ => enterFoal_keeps (endStep_keeps h2))

theorem execStep5BridleMesh_keeps {s0 : State} {s : State} (h : Keeps s0 s) :
    OutKeeps s0 (execStep5BridleMesh s) := by
  unfold execStep5BridleMesh
  exact OutKeeps.next (Keeps.ite (fun _ => finishMesh_keeps h) (fun _ => h))

theorem lightSource_keeps {s0 : State} {f : Nat} {i : Nat} {s : State} (h : Keeps s0 s) :
    Keeps s0 (lightSource f i s) := by
  unfold lightSource
  extract_lets v1 v2 v3 v4
  refine Keeps.mid (a := s0) v4 ?_ (fun h5 => ?_)
  · unfold v4
    exact Keeps.ite (fun _ => h) (fun _ => setSource_keeps h)
  clear_value v4
  clear_value v3
  split
  · exact h5
  · extract_lets v9
    refine Keeps.mid (a := s0) v9 ?_ (fun h10 => ?_)
    · unfold v9
      exact setCarrier_keeps h5
    clear_value v9
    exact Keeps.ite (fun _ => h10) (fun _ => Keeps.fold h10 (fun _ _ h13 => applyCarrier_keeps h13))

theorem loadCalibration_keeps {s0 : State} {b : Nat} {s : State} (h : Keeps s0 s) :
    Keeps s0 (loadCalibration b s) := by
  unfold loadCalibration
  extract_lets v1 v2
  split
  · exact commitEntries_keeps (Keeps.put h rfl rfl rfl rfl rfl)
  · split
    · refine commitEntries_keeps ?_
      simp only [v1]
      exact raise_keeps (Keeps.put h rfl rfl rfl rfl rfl)
    · simp only [v1]
      exact raise_keeps h

theorem finishLasers_keeps {s0 : State} {unlocked : List Ring} {result : Nat} {s : State} (h : Keeps s0 s) :
    Keeps s0 (finishLasers unlocked result s) := by
  unfold finishLasers
  extract_lets v1 v2 v3 v4 v5 v6
  refine Keeps.mid (a := s0) v2 ?_ (fun h7 => ?_)
  · unfold v2
    exact Keeps.fold h (fun _ _ h10 => Keeps.fold h10 (fun _ _ h13 => lightSource_keeps h13))
  clear_value v2
  refine Keeps.mid (a := s0) v3 ?_ (fun h14 => ?_)
  · unfold v3
    exact Keeps.fold h7 (fun _ _ h17 => loadCalibration_keeps h17)
  clear_value v3
  refine Keeps.mid (a := s0) v4 ?_ (fun h18 => ?_)
  · unfold v4
    exact searchRings_keeps h14
  clear_value v4
  refine Keeps.mid (a := s0) v6 ?_ (fun h19 => ?_)
  · unfold v6
    exact endStep_keeps (Keeps.put h18 rfl rfl rfl rfl rfl)
  clear_value v6
  exact Keeps.fold h19 (fun _ _ h22 => linkTraining_keeps h22)

theorem execStep6LasersRings_keeps {s0 : State} {rref : BitVec 16} {unlocked : List Ring} {s : State}
    (h : Keeps s0 s) :
    OutKeeps s0 (execStep6LasersRings rref unlocked s) := by
  unfold execStep6LasersRings
  exact OutKeeps.next (Keeps.ite (fun _ => finishLasers_keeps (measureRref_keeps h)) (fun _ => h))

theorem finishLanes_keeps {s0 : State} {result : Nat} {s : State} (h : Keeps s0 s) :
    Keeps s0 (finishLanes result s) := by
  unfold finishLanes
  extract_lets v1 v2 v3
  refine Keeps.mid (a := s0) v1 ?_ (fun h4 => ?_)
  · unfold v1
    exact endStep_keeps h
  clear_value v1
  exact Keeps.put h4 rfl rfl rfl rfl rfl

theorem lockLinks_keeps {s0 : State} {s : State} (h : Keeps s0 s) : Keeps s0 (lockLinks s) := by
  unfold lockLinks
  exact Keeps.fold h (fun _ _ h3 => lockOn_keeps h3)

theorem execStep7Lanes_keeps {s0 : State} {s : State} (h : Keeps s0 s) : OutKeeps s0 (execStep7Lanes s) := by
  unfold execStep7Lanes
  exact OutKeeps.next (Keeps.ite (fun _ => finishLanes_keeps (lockLinks_keeps h)) (fun _ => h))

theorem enterService_keeps {s0 : State} {result : Nat} {s : State} (h : Keeps s0 s) :
    Keeps s0 (enterService result s) := by
  unfold enterService
  extract_lets v1 v2
  refine Keeps.mid (a := s0) v1 ?_ (fun h3 => ?_)
  · unfold v1
    exact endStep_keeps h
  clear_value v1
  exact startPairing_keeps (raise_keeps (Keeps.put h3 rfl rfl rfl rfl rfl))

theorem finishLock_keeps {s0 : State} {result : Nat} {s : State} (h : Keeps s0 s) :
    Keeps s0 (finishLock result s) := by
  unfold finishLock
  extract_lets v1 v2 v3 v4
  refine Keeps.mid (a := s0) v3 ?_ (fun h5 => ?_)
  · unfold v3
    exact endStep_keeps h
  clear_value v3
  refine Keeps.ite (fun _ => ?_) (fun _ => ?_)
  · exact raise_keeps (Keeps.put h5 rfl rfl rfl rfl rfl)
  · exact enterService_keeps (parkAllUnlocked_keeps (trainPaths_keeps h))

theorem execStep8FrameLock_keeps {s0 : State} {s : State} (h : Keeps s0 s) :
    OutKeeps s0 (execStep8FrameLock s) := by
  unfold execStep8FrameLock
  exact OutKeeps.next (Keeps.ite (fun _ => finishLock_keeps h) (fun _ => h))

theorem finishAtLimit_keeps {s0 : State} {s : State} (h : Keeps s0 s) : Keeps s0 (finishAtLimit s) := by
  unfold finishAtLimit
  split
  · exact finishSupplies_keeps h
  · exact finishController_keeps h
  · exact finishDiscovery_keeps (nameRest_keeps h)
  · exact finishBundles_keeps (chooseLanes_keeps h)
  · exact finishMesh_keeps h
  · exact finishLasers_keeps h
  · exact finishLanes_keeps (lockLinks_keeps h)
  · exact finishLock_keeps h

theorem stepAtLimit_keeps {s0 : State} {incomplete : List PkgUnit} {s : State} (h : Keeps s0 s) :
    Keeps s0 (stepAtLimit incomplete s) := by
  unfold stepAtLimit
  refine Keeps.ite (fun _ => ?_) (fun _ => ?_)
  · exact h
  · extract_lets v1 v2 v3 v4 v5 v6 v7
    refine Keeps.mid (a := s0) v1 ?_ (fun h8 => ?_)
    · unfold v1
      exact advanceTo_keeps h
    clear_value v1
    refine Keeps.mid (a := s0) v7 ?_ (fun h9 => ?_)
    · unfold v7
      exact Keeps.fold h8 (fun _ _ h12 => raise_keeps h12)
    clear_value v7
    exact Keeps.ite (fun _ => failStart_keeps h8) (fun _ => finishAtLimit_keeps (keepOut_keeps h9))

theorem execStepLimit_keeps {s0 : State} {incomplete : List PkgUnit} {s : State} (h : Keeps s0 s) :
    OutKeeps s0 (execStepLimit incomplete s) := by
  unfold execStepLimit
  exact OutKeeps.next (stepAtLimit_keeps h)

theorem startSucceeds_keeps {s0 : State} {s : State} (h : Keeps s0 s) : Keeps s0 (startSucceeds s) := by
  unfold startSucceeds
  split
  · exact h
  · refine Keeps.ite (fun _ => ?_) (fun _ => ?_)
    · exact h
    · extract_lets v6 v7
      refine Keeps.mid (a := s0) v6 ?_ (fun h8 => ?_)
      · unfold v6
        exact advanceTo_keeps h
      clear_value v6
      exact Keeps.put h8 rfl rfl rfl rfl rfl

theorem execStartSuccess_keeps {s0 : State} {s : State} (h : Keeps s0 s) :
    OutKeeps s0 (execStartSuccess s) := by
  unfold execStartSuccess
  exact OutKeeps.next (startSucceeds_keeps h)

theorem execWatchdogReset_keeps {s0 : State} {s : State} (h : Keeps s0 s) :
    OutKeeps s0 (execWatchdogReset s) := by
  unfold execWatchdogReset
  exact OutKeeps.next (Keeps.ite (fun _ => failStart_keeps h) (fun _ => h))

end Sys2Proof.Machine
end

