-- ==== Sys2Proof/Laws/Within.lean ====
section
/-! SUPPORT. How `Within` passes through the shapes in which operations are written. -/

set_option Elab.async false

namespace Sys2Proof.Machine

/-- Every part of one list is in another. -/
structure Sub (a b : List Area) : Prop where
  all : a.all (fun p => b.contains p) = true

theorem Sub.mem {a b : List Area} {p : Area} (h : Sub a b) (g : a.contains p = true) : p ∈ b := by
  have h := h.all
  simp only [List.all_eq_true, List.contains_iff_mem] at h g
  exact h p g

theorem Sub.of {a b c : List Area} (h : Sub b c) (g : Sub a b) : Sub a c := by
  constructor
  simp only [List.all_eq_true, List.contains_iff_mem]
  exact fun p hp => h.mem (by simpa using g.mem (by simpa using hp))

theorem Sub.refl (a : List Area) : Sub a a := by
  constructor
  simp only [List.all_eq_true, List.contains_iff_mem]
  exact fun _ hp => hp

theorem Area.same_refl (s : State) (p : Area) : p.same s s := by cases p <;> first | rfl | exact ⟨rfl, rfl⟩ | exact List.prefix_rfl

theorem Area.same_trans {a b c : State} {p : Area} (h : p.same a b) (g : p.same b c) : p.same a c := by
  cases p <;> first | exact Eq.trans g h | exact ⟨g.1.trans h.1, g.2.trans h.2⟩ | exact List.IsPrefix.trans h g

theorem Within.refl (ps : List Area) (s : State) : Within ps s s := fun p _ => Area.same_refl s p

theorem Within.trans {ps : List Area} {a b c : State} (h : Within ps a b) (g : Within ps b c) : Within ps a c :=
  fun p hp => Area.same_trans (h p hp) (g p hp)

theorem Within.weaken {ps qs : List Area} {a b : State} (h : Within ps a b) (g : Sub ps qs) : Within qs a b :=
  fun p hp => h p (fun m => hp (g.mem (by simpa using m)))

/-- The whole recorder, from its two parts. -/
theorem Within.hen_eq {ps : List Area} {a b : State} (h : Within ps a b) (h1 : Area.events ∉ ps) (h2 : Area.hen ∉ ps) :
    b.hen = a.hen := by
  have e1 := h .events h1
  have e2 := h .hen h2
  cases hb : b.hen
  cases ha : a.hen
  simp_all [Area.same, recorder]

/-- An update of some fields. -/
theorem Within.put {ps : List Area} {a b : State} {now freeDrawn : Nat} {counters : Tab Nat} {dict : Tab Bytes} {hen : Hen} {om : Om}
    {frame : Frame} {start : Start} {spad : Spad} {arith : Arith} {parts : Parts} {dma : Dma} {dram : Dram} {clk : Clk}
    {host : HostLink} {pho : Pho} {sums : Sums} {lanes : Lanes} {las : Las} {ver : Ver} {fab : Fab} {pow : Pow} {sec : Sec}
    {twin : Twin} (h0 : Within ps a b)
    (h_now : Sub [.now] ps ∨ now = b.now := by first | (apply Or.inl; apply Sub.of; assumption; exact ⟨rfl⟩) | exact .inr rfl)
    (h_freeDrawn : Sub [.free] ps ∨ freeDrawn = b.freeDrawn := by first | (apply Or.inl; apply Sub.of; assumption; exact ⟨rfl⟩) | exact .inr rfl)
    (h_counters : Sub [.counters] ps ∨ counters = b.counters := by first | (apply Or.inl; apply Sub.of; assumption; exact ⟨rfl⟩) | exact .inr rfl)
    (h_dict : Sub [.dict] ps ∨ dict = b.dict := by first | (apply Or.inl; apply Sub.of; assumption; exact ⟨rfl⟩) | exact .inr rfl)
    (h_events : Sub [.events] ps ∨ (hen.arriving = b.hen.arriving ∧ hen.saturated = b.hen.saturated) := by
      first | (apply Or.inl; apply Sub.of; assumption; exact ⟨rfl⟩) | exact .inr ⟨rfl, rfl⟩)
    (h_taken : Sub [.taken] ps ∨ b.hen.arriving <+: hen.arriving := by
      first | exact .inr List.prefix_rfl | exact .inr (List.prefix_append _ _) | (apply Or.inl; apply Sub.of; assumption; exact ⟨rfl⟩))
    (h_hen : Sub [.hen] ps ∨ ({ hen with arriving := [], saturated := [] } : Hen) = recorder b := by
      first | (apply Or.inl; apply Sub.of; assumption; exact ⟨rfl⟩) | exact .inr rfl)
    (h_om : Sub [.om] ps ∨ om = b.om := by first | (apply Or.inl; apply Sub.of; assumption; exact ⟨rfl⟩) | exact .inr rfl)
    (h_frame : Sub [.frame] ps ∨ frame = b.frame := by first | (apply Or.inl; apply Sub.of; assumption; exact ⟨rfl⟩) | exact .inr rfl)
    (h_start : Sub [.start] ps ∨ start = b.start := by first | (apply Or.inl; apply Sub.of; assumption; exact ⟨rfl⟩) | exact .inr rfl)
    (h_spad : Sub [.spad] ps ∨ spad = b.spad := by first | (apply Or.inl; apply Sub.of; assumption; exact ⟨rfl⟩) | exact .inr rfl)
    (h_arith : Sub [.arith] ps ∨ arith = b.arith := by first | (apply Or.inl; apply Sub.of; assumption; exact ⟨rfl⟩) | exact .inr rfl)
    (h_parts : Sub [.parts] ps ∨ parts = b.parts := by first | (apply Or.inl; apply Sub.of; assumption; exact ⟨rfl⟩) | exact .inr rfl)
    (h_dma : Sub [.dma] ps ∨ dma = b.dma := by first | (apply Or.inl; apply Sub.of; assumption; exact ⟨rfl⟩) | exact .inr rfl)
    (h_dram : Sub [.dram] ps ∨ dram = b.dram := by first | (apply Or.inl; apply Sub.of; assumption; exact ⟨rfl⟩) | exact .inr rfl)
    (h_clk : Sub [.clk] ps ∨ clk = b.clk := by first | (apply Or.inl; apply Sub.of; assumption; exact ⟨rfl⟩) | exact .inr rfl)
    (h_host : Sub [.host] ps ∨ host = b.host := by first | (apply Or.inl; apply Sub.of; assumption; exact ⟨rfl⟩) | exact .inr rfl)
    (h_pho : Sub [.pho] ps ∨ pho = b.pho := by first | (apply Or.inl; apply Sub.of; assumption; exact ⟨rfl⟩) | exact .inr rfl)
    (h_sums : Sub [.sums] ps ∨ sums = b.sums := by first | (apply Or.inl; apply Sub.of; assumption; exact ⟨rfl⟩) | exact .inr rfl)
    (h_lanes : Sub [.lanes] ps ∨ lanes = b.lanes := by first | (apply Or.inl; apply Sub.of; assumption; exact ⟨rfl⟩) | exact .inr rfl)
    (h_las : Sub [.las] ps ∨ las = b.las := by first | (apply Or.inl; apply Sub.of; assumption; exact ⟨rfl⟩) | exact .inr rfl)
    (h_ver : Sub [.ver] ps ∨ ver = b.ver := by first | (apply Or.inl; apply Sub.of; assumption; exact ⟨rfl⟩) | exact .inr rfl)
    (h_fab : Sub [.fab] ps ∨ fab = b.fab := by first | (apply Or.inl; apply Sub.of; assumption; exact ⟨rfl⟩) | exact .inr rfl)
    (h_pow : Sub [.pow] ps ∨ pow = b.pow := by first | (apply Or.inl; apply Sub.of; assumption; exact ⟨rfl⟩) | exact .inr rfl)
    (h_sec : Sub [.sec] ps ∨ sec = b.sec := by first | (apply Or.inl; apply Sub.of; assumption; exact ⟨rfl⟩) | exact .inr rfl)
    (h_twin : Sub [.twin] ps ∨ twin = b.twin := by first | (apply Or.inl; apply Sub.of; assumption; exact ⟨rfl⟩) | exact .inr rfl) :
    Within ps a ⟨b.pending, now, freeDrawn, counters, dict, hen, om, frame, start, spad, arith, parts, dma, dram, clk, host,
      pho, sums, lanes, las, ver, fab, pow, sec, twin⟩ := by
  intro p hp
  cases p with
  | queue => exact h0 .queue hp
  | events =>
    refine h_events.elim (fun q => absurd (q.mem rfl) hp) (fun e => ?_)
    exact ⟨e.1.trans (h0 .events hp).1, e.2.trans (h0 .events hp).2⟩
  | taken => exact h_taken.elim (fun q => absurd (q.mem rfl) hp) (fun e => List.IsPrefix.trans (h0 .taken hp) e)
  | hen => exact h_hen.elim (fun q => absurd (q.mem rfl) hp) (fun e => Eq.trans e (h0 .hen hp))
  | now => exact h_now.elim (fun q => absurd (q.mem rfl) hp) (fun e => Eq.trans e (h0 .now hp))
  | free => exact h_freeDrawn.elim (fun q => absurd (q.mem rfl) hp) (fun e => Eq.trans e (h0 .free hp))
  | counters => exact h_counters.elim (fun q => absurd (q.mem rfl) hp) (fun e => Eq.trans e (h0 .counters hp))
  | dict => exact h_dict.elim (fun q => absurd (q.mem rfl) hp) (fun e => Eq.trans e (h0 .dict hp))
  | om => exact h_om.elim (fun q => absurd (q.mem rfl) hp) (fun e => Eq.trans e (h0 .om hp))
  | frame => exact h_frame.elim (fun q => absurd (q.mem rfl) hp) (fun e => Eq.trans e (h0 .frame hp))
  | start => exact h_start.elim (fun q => absurd (q.mem rfl) hp) (fun e => Eq.trans e (h0 .start hp))
  | spad => exact h_spad.elim (fun q => absurd (q.mem rfl) hp) (fun e => Eq.trans e (h0 .spad hp))
  | arith => exact h_arith.elim (fun q => absurd (q.mem rfl) hp) (fun e => Eq.trans e (h0 .arith hp))
  | parts => exact h_parts.elim (fun q => absurd (q.mem rfl) hp) (fun e => Eq.trans e (h0 .parts hp))
  | dma => exact h_dma.elim (fun q => absurd (q.mem rfl) hp) (fun e => Eq.trans e (h0 .dma hp))
  | dram => exact h_dram.elim (fun q => absurd (q.mem rfl) hp) (fun e => Eq.trans e (h0 .dram hp))
  | clk => exact h_clk.elim (fun q => absurd (q.mem rfl) hp) (fun e => Eq.trans e (h0 .clk hp))
  | host => exact h_host.elim (fun q => absurd (q.mem rfl) hp) (fun e => Eq.trans e (h0 .host hp))
  | pho => exact h_pho.elim (fun q => absurd (q.mem rfl) hp) (fun e => Eq.trans e (h0 .pho hp))
  | sums => exact h_sums.elim (fun q => absurd (q.mem rfl) hp) (fun e => Eq.trans e (h0 .sums hp))
  | lanes => exact h_lanes.elim (fun q => absurd (q.mem rfl) hp) (fun e => Eq.trans e (h0 .lanes hp))
  | las => exact h_las.elim (fun q => absurd (q.mem rfl) hp) (fun e => Eq.trans e (h0 .las hp))
  | ver => exact h_ver.elim (fun q => absurd (q.mem rfl) hp) (fun e => Eq.trans e (h0 .ver hp))
  | fab => exact h_fab.elim (fun q => absurd (q.mem rfl) hp) (fun e => Eq.trans e (h0 .fab hp))
  | pow => exact h_pow.elim (fun q => absurd (q.mem rfl) hp) (fun e => Eq.trans e (h0 .pow hp))
  | sec => exact h_sec.elim (fun q => absurd (q.mem rfl) hp) (fun e => Eq.trans e (h0 .sec hp))
  | twin => exact h_twin.elim (fun q => absurd (q.mem rfl) hp) (fun e => Eq.trans e (h0 .twin hp))

/-- A choice. -/
theorem Within.ite {ps : List Area} {c : Prop} [Decidable c] {a x y : State} (hx : c → Within ps a x) (hy : ¬c → Within ps a y) :
    Within ps a (if c then x else y) := by
  split
  · exact hx ‹_›
  · exact hy ‹_›

/-- A fold over a list. -/
theorem Within.fold {ps : List Area} {α : Type} {a b : State} {f : State → α → State} {l : List α} (h : Within ps a b)
    (g : ∀ s x, Within ps a s → Within ps a (f s x)) : Within ps a (l.foldl f b) := by
  induction l generalizing b with
  | nil => exact h
  | cons x l ih => exact ih (g b x h)

/-- A fold over a list that carries a value beside the state. -/
theorem Within.foldPair {ps : List Area} {α β : Type} {a : State} {b : β × State} {f : β × State → α → β × State} {l : List α}
    (h : Within ps a b.2) (g : ∀ p x, Within ps a p.2 → Within ps a (f p x).2) : Within ps a (l.foldl f b).2 := by
  induction l generalizing b with
  | nil => exact h
  | cons x l ih => exact ih (g b x h)

/-- A fold that carries two values beside the state. -/
theorem Within.foldTriple {ps : List Area} {α β γ : Type} {a : State} {b : β × γ × State} {f : β × γ × State → α → β × γ × State}
    {l : List α} (h : Within ps a b.2.2) (g : ∀ p x, Within ps a p.2.2 → Within ps a (f p x).2.2) :
    Within ps a (l.foldl f b).2.2 := by
  induction l generalizing b with
  | nil => exact h
  | cons x l ih => exact ih (g b x h)

/-- A named intermediate state. -/
theorem Within.mid {ps : List Area} {a : State} {p : Prop} (s : State) (h : Within ps a s) (g : Within ps a s → p) : p := g h

/-- The state of a pair that is known by its parts. -/
theorem Within.ofPair1 {ps : List Area} {α : Type} {a t : State} {d : α × State} {x : α} {p : Prop} (e : d = (x, t)) (h : Within ps a d.2)
    (g : Within ps a t → p) : p := g (by rw [e] at h; exact h)

theorem Within.ofPair2 {ps : List Area} {α β : Type} {a t : State} {d : α × β × State} {x : α} {y : β} {p : Prop} (e : d = (x, y, t))
    (h : Within ps a d.2.2) (g : Within ps a t → p) : p := g (by rw [e] at h; exact h)

theorem Within.ofPair3 {ps : List Area} {α β γ : Type} {a t : State} {d : α × β × γ × State} {x : α} {y : β} {z : γ} {p : Prop}
    (e : d = (x, y, z, t)) (h : Within ps a d.2.2.2) (g : Within ps a t → p) : p := g (by rw [e] at h; exact h)

/-- The same of an optional state. -/
inductive OptWithin (ps : List Area) (a : State) : Option State → Prop
  | none : OptWithin ps a none
  | some {t : State} (h : Within ps a t) : OptWithin ps a (some t)

theorem OptWithin.out {ps : List Area} {a t : State} {d : Option State} {p : Prop} (e : d = .some t) (h : OptWithin ps a d)
    (g : Within ps a t → p) : p := by
  subst e
  cases h with
  | some h => exact g h

theorem OptWithin.or {ps : List Area} {a : State} {x y : Option State} (hx : OptWithin ps a x) (hy : OptWithin ps a y) :
    OptWithin ps a (x.or y) := by
  cases hx with
  | none => simpa using hy
  | some h => exact .some h

/-- The same of an optional pair. -/
inductive OptPairWithin {α : Type} (ps : List Area) (a : State) : Option (α × State) → Prop
  | none : OptPairWithin ps a none
  | some {t : α × State} (h : Within ps a t.2) : OptPairWithin ps a (some t)

theorem OptPairWithin.map {ps : List Area} {α β : Type} {a : State} {f : β → α × State} {o : Option β} (h : ∀ x, Within ps a (f x).2) :
    OptPairWithin ps a (o.map f) := by
  cases o with
  | none => exact .none
  | some x => exact .some (h x)

theorem OptPairWithin.out {ps : List Area} {α : Type} {a t : State} {x : α} {d : Option (α × State)} {p : Prop} (e : d = .some (x, t))
    (h : OptPairWithin ps a d) (g : Within ps a t → p) : p := by
  subst e
  cases h with
  | some h => exact g h

/-- The same of the result of a write. -/
inductive WWithin (ps : List Area) (a : State) : WriteResult → Prop
  | done {t : State} (h : Within ps a t) : WWithin ps a (.done t)
  | wait {n : Nat} {t : State} (h : Within ps a t) : WWithin ps a (.wait n t)
  | refuse {status : BitVec 8} {detail : Nat} : WWithin ps a (.refuse status detail)
  | failed {t : State} (h : Within ps a t) : WWithin ps a (.failed t)

theorem WWithin.outDone {ps : List Area} {a t : State} {d : WriteResult} {p : Prop} (e : d = .done t) (h : WWithin ps a d)
    (g : Within ps a t → p) : p := by
  subst e
  cases h with
  | done h => exact g h

theorem WWithin.outWait {ps : List Area} {a t : State} {n : Nat} {d : WriteResult} {p : Prop} (e : d = .wait n t) (h : WWithin ps a d)
    (g : Within ps a t → p) : p := by
  subst e
  cases h with
  | wait h => exact g h

theorem WWithin.outFailed {ps : List Area} {a t : State} {d : WriteResult} {p : Prop} (e : d = .failed t) (h : WWithin ps a d)
    (g : Within ps a t → p) : p := by
  subst e
  cases h with
  | failed h => exact g h

/-- The same of the outcome of a command. -/
def OutWithin (ps : List Area) (a : State) (o : Host.Outcome State Fault Refusal) : Prop := ∀ t, o = .next t → Within ps a t

theorem OutWithin.next {ps : List Area} {a t : State} (h : Within ps a t) : OutWithin ps a (.next t) := fun _ e => by cases e; exact h

/-! ### The operations that the shapes do not cover -/

theorem draw_within {ps : List Area} {s0 s : State} (hm : Sub [.free] ps) (h : Within ps s0 s) :
    Within ps s0 (draw s).2 := h.put

theorem drawBytes_within {ps : List Area} {s0 : State} {n : Nat} {s : State} (hm : Sub [.free] ps)
    (h : Within ps s0 s) : Within ps s0 (drawBytes n s).2 := h.put

end Sys2Proof.Machine
end

