-- ==== Sys2Proof/Laws/WithinOps.lean ====
section
/-! SUPPORT. Which parts of the state the operations of Machine/Ops.lean can write: one lemma for each. -/

set_option Elab.async false

namespace Sys2Proof.Machine

theorem raise_within {ps : List Area} {s0 : State} {code : Nat} {items : List (Option Bytes)} {s : State}
    (hm : Sub [.events] ps) (h : Within ps s0 s) :
    Within ps s0 (raise code items s) := by
  unfold raise
  exact Within.put h

theorem count64_within {ps : List Area} {s0 : State} {key : Nat} {n : Nat} {s : State} (hm : Sub [.counters] ps)
    (h : Within ps s0 s) :
    Within ps s0 (count64 key n s) := by
  unfold count64
  exact Within.put h

theorem reportFull_within {ps : List Area} {s0 : State} {key : Nat} {v : Nat} {s : State}
    (hm : Sub [.events] ps) (h : Within ps s0 s) :
    Within ps s0 (reportFull key v s) := by
  unfold reportFull
  exact Within.ite (fun _ => raise_within (hm.of ⟨rfl⟩) (Within.put h)) (fun _ => h)

theorem count32_within {ps : List Area} {s0 : State} {key : Nat} {n : Nat} {s : State}
    (hm : Sub [.counters, .events] ps) (h : Within ps s0 s) :
    Within ps s0 (count32 key n s) := by
  unfold count32
  extract_lets v1
  exact reportFull_within (hm.of ⟨rfl⟩) (Within.put h)

theorem advanceTo_within {ps : List Area} {s0 : State} {t : Nat} {s : State} (hm : Sub [.now] ps)
    (h : Within ps s0 s) :
    Within ps s0 (advanceTo t s) := by
  unfold advanceTo
  exact Within.put h

theorem setDict_within {ps : List Area} {s0 : State} {key : Nat} {v : Bytes} {s : State}
    (hm : Sub [.dict, .sec] ps) (h : Within ps s0 s) :
    Within ps s0 (setDict key v s) := by
  unfold setDict
  extract_lets v1 v2 v3
  refine Within.mid (ps := ps) (a := s0) v3 ?_ (fun h4 => ?_)
  · unfold v3
    exact Within.ite (fun _ => Within.put h) (fun _ => h)
  clear_value v3
  exact Within.put h4

theorem setDictNat_within {ps : List Area} {s0 : State} {key : Nat} {n : Nat} {v : Nat} {s : State}
    (hm : Sub [.dict, .sec] ps) (h : Within ps s0 s) :
    Within ps s0 (setDictNat key n v s) := by
  unfold setDictNat
  exact setDict_within (hm.of ⟨rfl⟩) h

theorem changeLink_within {ps : List Area} {s0 : State} {n : Nat} {f : LinkRec → LinkRec} {s : State}
    (hm : Sub [.lanes] ps) (h : Within ps s0 s) :
    Within ps s0 (changeLink n f s) := by
  unfold changeLink
  exact Within.put h

theorem raiseIf_within {ps : List Area} {s0 : State} {c : Bool} {code : Nat} {items : List (Option Bytes)}
    {s : State} (hm : Sub [.events] ps) (h : Within ps s0 s) :
    Within ps s0 (raiseIf c code items s) := by
  unfold raiseIf
  exact Within.ite (fun _ => raise_within (hm.of ⟨rfl⟩) h) (fun _ => h)

theorem changeBundle_within {ps : List Area} {s0 : State} {t : Nat} {n : Nat} {f : Bundle → Bundle} {s : State}
    (hm : Sub [.ver] ps) (h : Within ps s0 s) :
    Within ps s0 (changeBundle t n f s) := by
  unfold changeBundle
  exact Within.put h

theorem dropUnits_within {ps : List Area} {s0 : State} {us : List PkgUnit} {s : State} (hm : Sub [.start] ps)
    (h : Within ps s0 s) :
    Within ps s0 (dropUnits us s) := by
  unfold dropUnits
  exact Within.put h

theorem addUnit_within {ps : List Area} {s0 : State} {u : PkgUnit} {s : State} (hm : Sub [.start] ps)
    (h : Within ps s0 s) :
    Within ps s0 (addUnit u s) := by
  unfold addUnit
  exact Within.ite (fun _ => h) (fun _ => Within.put h)

end Sys2Proof.Machine
end

