-- ==== Sys2Proof/Laws/WithinHostOps.lean ====
section
/-! SUPPORT. Which parts of the state the operations of Machine/HostOps.lean can write: one lemma for each. -/

set_option Elab.async false

namespace Sys2Proof.Machine

theorem changeQueue_within {ps : List Area} {s0 : State} {p : Nat} {f : QueueSet → QueueSet} {s : State}
    (hm : Sub [.host] ps) (h : Within ps s0 s) :
    Within ps s0 (changeQueue p f s) := by
  unfold changeQueue
  exact Within.put h

theorem changeFunction_within {ps : List Area} {s0 : State} {f : Nat} {g : FunctionBlock → FunctionBlock}
    {s : State} (hm : Sub [.host] ps) (h : Within ps s0 s) :
    Within ps s0 (changeFunction f g s) := by
  unfold changeFunction
  exact Within.put h

theorem postWrite_within {ps : List Area} {s0 : State} {w : HostWrite} {s : State} (hm : Sub [.host] ps)
    (h : Within ps s0 s) :
    Within ps s0 (postWrite w s) := by
  unfold postWrite
  exact Within.put h

theorem sendVector_within {ps : List Area} {s0 : State} {f : Nat} {vec : Nat} {s : State} (hm : Sub [.host] ps)
    (h : Within ps s0 s) :
    Within ps s0 (sendVector f vec s) := by
  unfold sendVector
  refine Within.ite (fun _ => ?_) (fun _ => ?_)
  · exact h
  · exact Within.ite (fun _ => changeFunction_within (hm.of ⟨rfl⟩) h) (fun _ => postWrite_within (hm.of ⟨rfl⟩) h)

theorem signalCompletion_within {ps : List Area} {s0 : State} {p : Nat} {s : State} (hm : Sub [.host] ps)
    (h : Within ps s0 s) :
    Within ps s0 (signalCompletion p s) := by
  unfold signalCompletion
  extract_lets v1 v2
  refine Within.ite (fun _ => ?_) (fun _ => ?_)
  · exact changeQueue_within (hm.of ⟨rfl⟩) h
  · exact sendVector_within (hm.of ⟨rfl⟩) (changeQueue_within (hm.of ⟨rfl⟩) h)

theorem writeShadow_within {ps : List Area} {s0 : State} {p : Nat} {s : State} (hm : Sub [.host] ps)
    (h : Within ps s0 s) :
    Within ps s0 (writeShadow p s) := by
  unfold writeShadow
  extract_lets v1
  exact postWrite_within (hm.of ⟨rfl⟩) h

theorem ringWrite_within {ps : List Area} {s0 : State} {p : Nat} {r : Bytes} {s : State} (hm : Sub [.host] ps)
    (h : Within ps s0 s) :
    Within ps s0 (ringWrite p r s) := by
  unfold ringWrite
  extract_lets v1 v2
  refine Within.mid (ps := ps) (a := s0) v2 ?_ (fun h3 => ?_)
  · unfold v2
    exact postWrite_within (hm.of ⟨rfl⟩) h
  clear_value v2
  exact changeQueue_within (hm.of ⟨rfl⟩) h3

theorem postRecord_within {ps : List Area} {s0 : State} {p : Nat} {r : Bytes} {s : State}
    (hm : Sub [.events, .host] ps) (h : Within ps s0 s) :
    Within ps s0 (postRecord p r s) := by
  unfold postRecord
  extract_lets v1 v2
  refine Within.mid (ps := ps) (a := s0) v2 ?_ (fun h3 => ?_)
  · unfold v2
    exact changeQueue_within (hm.of ⟨rfl⟩) h
  clear_value v2
  refine Within.ite (fun _ => ?_) (fun _ => ?_)
  · exact h
  · refine Within.ite (fun _ => ?_) (fun _ => ?_)
    · exact Within.ite (fun _ => h) (fun _ => raiseIf_within (hm.of ⟨rfl⟩) h3)
    · refine signalCompletion_within (hm.of ⟨rfl⟩) ?_
      exact writeShadow_within (hm.of ⟨rfl⟩) (ringWrite_within (hm.of ⟨rfl⟩) h)

theorem signalFault_within {ps : List Area} {s0 : State} {p : Nat} {s : State} (hm : Sub [.host] ps)
    (h : Within ps s0 s) :
    Within ps s0 (signalFault p s) := by
  unfold signalFault
  extract_lets v1 v2
  refine Within.ite (fun _ => ?_) (fun _ => ?_)
  · exact changeQueue_within (hm.of ⟨rfl⟩) h
  · exact sendVector_within (hm.of ⟨rfl⟩) (changeQueue_within (hm.of ⟨rfl⟩) h)

theorem notify_within {ps : List Area} {s0 : State} {bit : Nat} {s : State} (hm : Sub [.host] ps)
    (h : Within ps s0 s) :
    Within ps s0 (notify bit s) := by
  unfold notify
  extract_lets v1
  refine Within.fold ?_ (fun s2 x3 h4 => ?_)
  · exact h
  · extract_lets v5 v6
    refine Within.mid (ps := ps) (a := s0) v6 ?_ (fun h7 => ?_)
    · unfold v6
      exact Within.ite (fun _ => h4) (fun _ => changeFunction_within (hm.of ⟨rfl⟩) h4)
    clear_value v6
    exact Within.ite (fun _ => h7) (fun _ => sendVector_within (hm.of ⟨rfl⟩) h7)

end Sys2Proof.Machine
end

