-- ==== Sys2Proof/Laws/WithinWork.lean ====
section
/-! SUPPORT. Which parts of the state the operations of Machine/Work.lean can write: one lemma for each. -/

set_option Elab.async false

namespace Sys2Proof.Machine

theorem changePart_within {ps : List Area} {s0 : State} {p : Nat} {f : Part → Part} {s : State}
    (hm : Sub [.parts] ps) (h : Within ps s0 s) :
    Within ps s0 (changePart p f s) := by
  unfold changePart
  exact Within.put h

theorem checkHalfSlack_within {ps : List Area} {s0 : State} {t : Nat} {r : Nat} {s : State}
    (hm : Sub [.events, .parts, .pow] ps) (h : Within ps s0 s) :
    Within ps s0 (checkHalfSlack t r s) := by
  unfold checkHalfSlack
  split
  · exact h
  · split
    · exact h
    · refine Within.ite (fun _ => ?_) (fun _ => ?_)
      · refine raise_within (hm.of ⟨rfl⟩) ?_
        extract_lets v11 v12
        refine Within.mid (ps := ps) (a := s0) v11 ?_ (fun h13 => ?_)
        · unfold v11
          exact changePart_within (hm.of ⟨rfl⟩) h
        clear_value v11
        exact Within.put h13
      · exact h

theorem setDebt_within {ps : List Area} {s0 : State} {t : Nat} {r : Nat} {n : Nat} {s : State}
    (hm : Sub [.clk] ps) (h : Within ps s0 s) :
    Within ps s0 (setDebt t r n s) := by
  unfold setDebt
  exact Within.put h

theorem addDebt_within {ps : List Area} {s0 : State} {t : Nat} {r : Nat} {n : Nat} {s : State}
    (hm : Sub [.events, .parts, .clk, .pow] ps) (h : Within ps s0 s) :
    Within ps s0 (addDebt t r n s) := by
  unfold addDebt
  exact Within.ite (fun _ => h) (fun _ => checkHalfSlack_within (hm.of ⟨rfl⟩) (setDebt_within (hm.of ⟨rfl⟩) h))

theorem changeRun_within {ps : List Area} {s0 : State} {p : Nat} {id : BitVec 32} {f : Run → Run} {s : State}
    (hm : Sub [.parts] ps) (h : Within ps s0 s) :
    Within ps s0 (changeRun p id f s) := by
  unfold changeRun
  exact Within.put h

theorem changeTask_within {ps : List Area} {s0 : State} {p : Nat} {id : BitVec 32} {i : Nat} {f : Task → Task}
    {s : State} (hm : Sub [.parts] ps) (h : Within ps s0 s) :
    Within ps s0 (changeTask p id i f s) := by
  unfold changeTask
  exact changeRun_within (hm.of ⟨rfl⟩) h

theorem changeTaskOn_within {ps : List Area} {s0 : State} {t : Nat} {k : Nat} {f : Task → Task} {s : State}
    (hm : Sub [.parts] ps) (h : Within ps s0 s) :
    Within ps s0 (changeTaskOn t k f s) := by
  unfold changeTaskOn
  split
  · exact h
  · exact changeTask_within (hm.of ⟨rfl⟩) h

theorem stallRegion_within {ps : List Area} {s0 : State} {t : Nat} {k : Nat} {n : Nat} {s : State}
    (hm : Sub [.events, .parts, .clk, .pow] ps) (h : Within ps s0 s) :
    Within ps s0 (stallRegion t k n s) := by
  unfold stallRegion
  exact addDebt_within (hm.of ⟨rfl⟩) (changeTaskOn_within (hm.of ⟨rfl⟩) h)

theorem setTaskFlags_within {ps : List Area} {s0 : State} {t : Nat} {k : Nat} {flags : BitVec 8} {s : State}
    (hm : Sub [.parts] ps) (h : Within ps s0 s) :
    Within ps s0 (setTaskFlags t k flags s) := by
  unfold setTaskFlags
  exact Within.ite (fun _ => h) (fun _ => changeTaskOn_within (hm.of ⟨rfl⟩) h)

theorem strideFor_within {ps : List Area} {s0 : State} {p : Nat} {s : State} (hm : Sub [.events, .parts] ps)
    (h : Within ps s0 s) :
    Within ps s0 (strideFor p s) := by
  unfold strideFor
  split
  · exact h
  · extract_lets v6
    exact Within.ite (fun _ => h) (fun _ => raise_within (hm.of ⟨rfl⟩) (changePart_within (hm.of ⟨rfl⟩) h))

theorem reportRun_within {ps : List Area} {s0 : State} {r : Run} {code : Nat} {reason : Nat} {s : State}
    (hm : Sub [.events, .host] ps) (h : Within ps s0 s) :
    Within ps s0 (reportRun r code reason s) := by
  unfold reportRun
  exact postRecord_within (hm.of ⟨rfl⟩) h

theorem dropRun_within {ps : List Area} {s0 : State} {p : Nat} {id : BitVec 32} {s : State}
    (hm : Sub [.parts] ps) (h : Within ps s0 s) :
    Within ps s0 (dropRun p id s) := by
  unfold dropRun
  exact Within.put h

theorem holdRegion_within {ps : List Area} {s0 : State} {t : Nat} {k : Nat} {n : Nat} {s : State}
    (hm : Sub [.counters, .events, .parts, .clk, .pow] ps) (h : Within ps s0 s) :
    Within ps s0 (holdRegion t k n s) := by
  unfold holdRegion
  exact stallRegion_within (hm.of ⟨rfl⟩) (count64_within (hm.of ⟨rfl⟩) h)

theorem holdSender_within {ps : List Area} {s0 : State} {t : Nat} {recv : Nat} {send : Nat} {s : State}
    (hm : Sub [.counters, .events, .parts, .clk, .pow] ps) (h : Within ps s0 s) :
    Within ps s0 (holdSender t recv send s) := by
  unfold holdSender
  extract_lets v1
  exact Within.ite (fun _ => h) (fun _ => raise_within (hm.of ⟨rfl⟩) (holdRegion_within (hm.of ⟨rfl⟩) h))

theorem holdReceiver_within {ps : List Area} {s0 : State} {t : Nat} {send : Nat} {recv : Nat} {s : State}
    (hm : Sub [.counters, .events, .parts, .clk, .pow] ps) (h : Within ps s0 s) :
    Within ps s0 (holdReceiver t send recv s) := by
  unfold holdReceiver
  extract_lets v1
  exact Within.ite (fun _ => h) (fun _ => holdRegion_within (hm.of ⟨rfl⟩) h)

theorem crossLine_within {ps : List Area} {s0 : State} {t : Nat} {send : Nat} {recv : Nat} {s : State}
    (hm : Sub [.counters, .events, .parts, .clk, .pow] ps) (h : Within ps s0 s) :
    Within ps s0 (crossLine t send recv s) := by
  unfold crossLine
  exact holdReceiver_within (hm.of ⟨rfl⟩) (holdSender_within (hm.of ⟨rfl⟩) h)

theorem reportTask_within {ps : List Area} {s0 : State} {r : Run} {i : Nat} {s : State}
    (hm : Sub [.events, .host] ps) (h : Within ps s0 s) :
    Within ps s0 (reportTask r i s) := by
  unfold reportTask
  extract_lets v1 v2
  exact postRecord_within (hm.of ⟨rfl⟩) h

theorem spendPhases_within {ps : List Area} {s0 : State} {p : Nat} {img : Bytes} {x : Task} {i : Nat}
    {s : State} (hm : Sub [.parts] ps) (h : Within ps s0 s) :
    Within ps s0 (spendPhases p img x i s) := by
  unfold spendPhases
  extract_lets v1 v2
  exact changePart_within (hm.of ⟨rfl⟩) h

theorem reportCommand_within {ps : List Area} {s0 : State} {p : Nat} {run : BitVec 32} {code : Nat}
    {reason : Nat} {argument : Nat} {s : State} (hm : Sub [.events, .host] ps) (h : Within ps s0 s) :
    Within ps s0 (reportCommand p run code reason argument s) := by
  unfold reportCommand
  exact postRecord_within (hm.of ⟨rfl⟩) h

end Sys2Proof.Machine
end

