-- ==== Sys2Proof/Laws/WithinTaskOps.lean ====
section
/-! SUPPORT. Which parts of the state the operations of Machine/TaskOps.lean can write: one lemma for each. -/

set_option Elab.async false

namespace Sys2Proof.Machine

theorem discardContext_within {ps : List Area} {s0 : State} {p : Nat} {id : BitVec 32} {s : State}
    (hm : Sub [.parts, .dma] ps) (h : Within ps s0 s) :
    Within ps s0 (discardContext p id s) := by
  unfold discardContext
  extract_lets v1 v2 v3
  exact Within.put h

theorem releaseRun_within {ps : List Area} {s0 : State} {p : Nat} {id : BitVec 32} {code : Nat} {reason : Nat}
    {stopped : Bool} {s : State} (hm : Sub [.events, .parts, .dma, .host] ps) (h : Within ps s0 s) :
    Within ps s0 (releaseRun p id code reason stopped s) := by
  unfold releaseRun
  split
  · exact h
  · extract_lets v6 v7
    refine Within.mid (ps := ps) (a := s0) v6 ?_ (fun h8 => ?_)
    · unfold v6
      exact reportRun_within (hm.of ⟨rfl⟩) h
    clear_value v6
    refine Within.mid (ps := ps) (a := s0) v7 ?_ (fun h9 => ?_)
    · unfold v7
      exact raiseIf_within (hm.of ⟨rfl⟩) h8
    clear_value v7
    exact dropRun_within (hm.of ⟨rfl⟩) (discardContext_within (hm.of ⟨rfl⟩) h9)

theorem resolveRoots_within {ps : List Area} {s0 : State} {p : Nat} {id : BitVec 32} {s : State}
    (hm : Sub [.parts] ps) (h : Within ps s0 s) :
    Within ps s0 (resolveRoots p id s) := by
  unfold resolveRoots
  split
  · exact h
  · extract_lets v6 v7 v8
    refine Within.mid (ps := ps) (a := s0) v8 ?_ (fun h9 => ?_)
    · unfold v8
      exact changeRun_within (hm.of ⟨rfl⟩) h
    clear_value v8
    exact Within.fold h9 (fun _ _ h12 => changeTask_within (hm.of ⟨rfl⟩) h12)

theorem markFault_within {ps : List Area} {s0 : State} {p : Nat} {id : BitVec 32} {i : Nat} {fault : Nat}
    {code : Nat} {s : State} (hm : Sub [.events, .parts, .host] ps) (h : Within ps s0 s) :
    Within ps s0 (markFault p id i fault code s) := by
  unfold markFault
  split
  · exact h
  · extract_lets v6 v7 v8 v9
    refine Within.mid (ps := ps) (a := s0) v7 ?_ (fun h10 => ?_)
    · unfold v7
      exact changeTask_within (hm.of ⟨rfl⟩) h
    clear_value v7
    refine Within.mid (ps := ps) (a := s0) v8 ?_ (fun h11 => ?_)
    · unfold v8
      exact raise_within (hm.of ⟨rfl⟩) h10
    clear_value v8
    refine Within.mid (ps := ps) (a := s0) v9 ?_ (fun h12 => ?_)
    · unfold v9
      split
      · exact h11
      · exact reportTask_within (hm.of ⟨rfl⟩) h11
    clear_value v9
    exact Within.ite (fun _ => h12) (fun _ => changeRun_within (hm.of ⟨rfl⟩) h12)

theorem endOne_within {ps : List Area} {s0 : State} {p : Nat} {id : BitVec 32} {i : Nat} {s : State}
    (hm : Sub [.parts] ps) (h : Within ps s0 s) :
    Within ps s0 (endOne p id i s).2 := by
  unfold endOne
  split
  · dsimp only
    exact h
  · extract_lets v6 v7 v8 v9 v10 v11 v12 v13 v14
    refine Within.mid (ps := ps) (a := s0) v8 ?_ (fun h15 => ?_)
    · unfold v8
      exact Within.ite (fun _ => spendPhases_within (hm.of ⟨rfl⟩) h) (fun _ => h)
    clear_value v8
    refine Within.mid (ps := ps) (a := s0) v9 ?_ (fun h16 => ?_)
    · unfold v9
      exact changeTask_within (hm.of ⟨rfl⟩) h15
    clear_value v9
    refine Within.mid (ps := ps) (a := s0) v10 ?_ (fun h17 => ?_)
    · unfold v10
      exact changeRun_within (hm.of ⟨rfl⟩) h16
    clear_value v10
    dsimp only
    exact Within.put h17

theorem checkIteration_within {ps : List Area} {s0 : State} {p : Nat} {id : BitVec 32} {s : State}
    (hm : Sub [.events, .parts, .dma, .host] ps) (h : Within ps s0 s) :
    Within ps s0 (checkIteration p id s) := by
  unfold checkIteration
  split
  · exact h
  · extract_lets v6
    refine Within.ite (fun _ => ?_) (fun _ => ?_)
    · exact h
    · refine Within.ite (fun _ => ?_) (fun _ => ?_)
      · exact Within.ite (fun _ => releaseRun_within (hm.of ⟨rfl⟩) h) (fun _ => changeRun_within (hm.of ⟨rfl⟩) h)
      · exact h

theorem reportEnd_within {ps : List Area} {s0 : State} {p : Nat} {id : BitVec 32} {i : Nat} {s : State}
    (hm : Sub [.events, .host] ps) (h : Within ps s0 s) :
    Within ps s0 (reportEnd p id i s) := by
  unfold reportEnd
  split
  · exact h
  · extract_lets v6
    exact Within.ite (fun _ => reportTask_within (hm.of ⟨rfl⟩) h) (fun _ => h)

theorem finishOne_within {ps : List Area} {s0 : State} {p : Nat} {id : BitVec 32} {i : Nat} {s : State}
    (hm : Sub [.events, .parts, .host] ps) (h : Within ps s0 s) :
    Within ps s0 (finishOne p id i s).2 := by
  unfold finishOne
  exact endOne_within (hm.of ⟨rfl⟩) (reportEnd_within (hm.of ⟨rfl⟩) h)

theorem queueDescs_within {ps : List Area} {s0 : State} {t : Nat} {e : Nat} {p : Nat} {id : BitVec 32}
    {own : Bool} {ds : List (BitVec 512)} {s : State} (hm : Sub [.dma] ps) (h : Within ps s0 s) :
    Within ps s0 (queueDescs t e p id own ds s) := by
  unfold queueDescs
  extract_lets v1 v2
  exact Within.put h

theorem skipTask_within {ps : List Area} {s0 : State} {p : Nat} {id : BitVec 32} {i : Nat} {s : State}
    (hm : Sub [.events, .parts, .dma, .host] ps) (h : Within ps s0 s) :
    Within ps s0 (skipTask p id i s).2 := by
  unfold skipTask
  split
  · dsimp only
    exact h
  · extract_lets v6 v7 v8 v9 v10 v11 v12
    refine Within.mid (ps := ps) (a := s0) v7 ?_ (fun h13 => ?_)
    · unfold v7
      exact changeTask_within (hm.of ⟨rfl⟩) h
    clear_value v7
    refine Within.mid (ps := ps) (a := s0) v10 ?_ (fun h14 => ?_)
    · unfold v10
      exact markFault_within (hm.of ⟨rfl⟩) h13
    clear_value v10
    split
    · exact finishOne_within (hm.of ⟨rfl⟩) h13
    · split
      · split
        · exact endOne_within (hm.of ⟨rfl⟩) h14
        · dsimp only
          exact h14
      · dsimp only
        exact queueDescs_within (hm.of ⟨rfl⟩) h13

theorem arriveOne_within {ps : List Area} {s0 : State} {p : Nat} {id : BitVec 32} {i : Nat} {truth : Bool}
    {s : State} (hm : Sub [.events, .parts, .dma, .host] ps) (h : Within ps s0 s) :
    Within ps s0 (arriveOne p id i truth s).2 := by
  unfold arriveOne
  extract_lets v1
  refine Within.mid (ps := ps) (a := s0) v1 ?_ (fun h2 => ?_)
  · unfold v1
    exact changeTask_within (hm.of ⟨rfl⟩) h
  clear_value v1
  split
  · dsimp only
    exact h2
  · extract_lets v8
    split
    · dsimp only
      exact h2
    · split
      · dsimp only
        exact changeTask_within (hm.of ⟨rfl⟩) h2
      · exact skipTask_within (hm.of ⟨rfl⟩) h2

theorem settle_within {ps : List Area} {s0 : State} {fuel p : Nat} {id : BitVec 32} {work : List (Nat × Bool)}
    {s : State} (hm : Sub [.events, .parts, .dma, .host] ps) (h : Within ps s0 s) :
    Within ps s0 (settle fuel p id work s) := by
  induction fuel generalizing work s with
  | zero => rw [settle]; exact h
  | succ n ih =>
    cases work with
    | nil => rw [settle]; exact h
    | cons x rest =>
      rw [settle]
      exact ih (arriveOne_within (hm.of ⟨rfl⟩) h)

theorem settleAll_within {ps : List Area} {s0 : State} {p : Nat} {id : BitVec 32} {work : List (Nat × Bool)}
    {s : State} (hm : Sub [.events, .parts, .dma, .host] ps) (h : Within ps s0 s) :
    Within ps s0 (settleAll p id work s) := by
  unfold settleAll
  exact checkIteration_within (hm.of ⟨rfl⟩) (settle_within (hm.of ⟨rfl⟩) h)

theorem taskFault_within {ps : List Area} {s0 : State} {p : Nat} {id : BitVec 32} {i : Nat} {fault : Nat}
    {code : Nat} {s : State} (hm : Sub [.events, .parts, .dma, .host] ps) (h : Within ps s0 s) :
    Within ps s0 (taskFault p id i fault code s) := by
  unfold taskFault
  split
  · exact h
  · refine Within.ite (fun _ => ?_) (fun _ => ?_)
    · exact h
    · extract_lets v6
      refine Within.mid (ps := ps) (a := s0) v6 ?_ (fun h7 => ?_)
      · unfold v6
        exact markFault_within (hm.of ⟨rfl⟩) h
      clear_value v6
      refine Within.ite (fun _ => ?_) (fun _ => ?_)
      · split
        · rename_i y11
          refine Within.ofPair1 (ps := ps) (a := s0) y11 ?_ (fun h12 => ?_)
          · exact endOne_within (hm.of ⟨rfl⟩) h7
          exact settleAll_within (hm.of ⟨rfl⟩) h12
      · exact h7

theorem faultTaskOn_within {ps : List Area} {s0 : State} {t : Nat} {k : Nat} {fault : Nat} {code : Nat}
    {s : State} (hm : Sub [.events, .parts, .dma, .host] ps) (h : Within ps s0 s) :
    Within ps s0 (faultTaskOn t k fault code s) := by
  unfold faultTaskOn
  split
  · exact h
  · exact taskFault_within (hm.of ⟨rfl⟩) h

theorem endTask_within {ps : List Area} {s0 : State} {p : Nat} {id : BitVec 32} {i : Nat} {s : State}
    (hm : Sub [.events, .parts, .dma, .host] ps) (h : Within ps s0 s) :
    Within ps s0 (endTask p id i s) := by
  unfold endTask
  split
  · rename_i y4
    refine Within.ofPair1 (ps := ps) (a := s0) y4 ?_ (fun h5 => ?_)
    · exact finishOne_within (hm.of ⟨rfl⟩) h
    exact settleAll_within (hm.of ⟨rfl⟩) h5

end Sys2Proof.Machine
end

