-- ==== Sys2Proof/Laws/WithinArithmetic.lean ====
section
/-! SUPPORT. Which parts of the state the operations of Machine/Arithmetic.lean can write: one lemma for each. -/

set_option Elab.async false

namespace Sys2Proof.Machine

theorem addressFault_within {ps : List Area} {s0 : State} {t : Nat} {k : Nat} {s : State}
    (hm : Sub [.events, .parts, .dma, .host] ps) (h : Within ps s0 s) :
    Within ps s0 (addressFault t k s) := by
  unfold addressFault
  exact faultTaskOn_within (hm.of ⟨rfl⟩) (raise_within (hm.of ⟨rfl⟩) h)

theorem matrixStep_within {ps : List Area} {s0 : State} {op : MatrixOp} {st : MatrixStep} {s : State}
    (hm : Sub [.events, .arith, .parts] ps) (h : Within ps s0 s) :
    Within ps s0 (matrixStep op st s) := by
  unfold matrixStep
  refine Within.ite (fun _ => ?_) (fun _ => ?_)
  · exact Within.put h
  · extract_lets v1 v2 v3 v4 v5 v6 v7 v8 v9
    refine Within.mid (ps := ps) (a := s0) v8 ?_ (fun h10 => ?_)
    · unfold v8
      exact Within.put h
    clear_value v8
    refine Within.mid (ps := ps) (a := s0) v9 ?_ (fun h11 => ?_)
    · unfold v9
      exact setTaskFlags_within (hm.of ⟨rfl⟩) h10
    clear_value v9
    exact raiseIf_within (hm.of ⟨rfl⟩) h11

theorem clearRows_within {ps : List Area} {s0 : State} {op : MatrixOp} {s : State} (hm : Sub [.arith] ps)
    (h : Within ps s0 s) :
    Within ps s0 (clearRows op s) := by
  unfold clearRows
  extract_lets v1 v2
  exact Within.put h

theorem writeElems_within {ps : List Area} {s0 : State} {t : Nat} {k : Nat} {addr : Nat} {w : Nat} {first : Nat}
    {elems : List (Option Nat)} {poisons : List Bool} {s : State}
    (hm : Sub [.events, .spad, .parts, .dma, .host] ps) (h : Within ps s0 s) :
    Within ps s0 (writeElems t k addr w first elems poisons s) := by
  unfold writeElems
  extract_lets v1 v2 v3 v4 v5 v6 v7 v8
  refine Within.ite (fun _ => ?_) (fun _ => ?_)
  · exact h
  · exact Within.ite (fun _ => addressFault_within (hm.of ⟨rfl⟩) h) (fun _ => Within.put h)

theorem matrixWrite_within {ps : List Area} {s0 : State} {op : MatrixOp} {wr : MatrixWrite} {s : State}
    (hm : Sub [.events, .spad, .parts, .dma, .host] ps) (h : Within ps s0 s) :
    Within ps s0 (matrixWrite op wr s) := by
  unfold matrixWrite
  extract_lets v1 v2 v3 v4
  refine Within.mid (ps := ps) (a := s0) v4 ?_ (fun h5 => ?_)
  · unfold v4
    exact setTaskFlags_within (hm.of ⟨rfl⟩) h
  clear_value v4
  exact writeElems_within (hm.of ⟨rfl⟩) h5

theorem skipOverrun_within {ps : List Area} {s0 : State} {op : MatrixOp} {cycles : Nat} {s : State}
    (hm : Sub [.counters, .events, .parts, .clk, .pow] ps) (h : Within ps s0 s) :
    Within ps s0 (skipOverrun op cycles s) := by
  unfold skipOverrun
  extract_lets v1
  refine Within.ite (fun _ => ?_) (fun _ => ?_)
  · exact h
  · exact stallRegion_within (hm.of ⟨rfl⟩) (raise_within (hm.of ⟨rfl⟩) (count32_within (hm.of ⟨rfl⟩) h))

theorem matrixRun_within {ps : List Area} {s0 : State} {op : MatrixOp} {s : State}
    (hm : Sub [.counters, .events, .spad, .arith, .parts, .dma, .clk, .host, .pow] ps) (h : Within ps s0 s) :
    Within ps s0 (matrixRun op s) := by
  unfold matrixRun
  refine Within.ite (fun _ => ?_) (fun _ => ?_)
  · exact h
  · refine Within.ite (fun _ => ?_) (fun _ => ?_)
    · exact addressFault_within (hm.of ⟨rfl⟩) h
    · extract_lets v1 v2
      refine Within.mid (ps := ps) (a := s0) v2 ?_ (fun h3 => ?_)
      · unfold v2
        exact Within.fold (clearRows_within (hm.of ⟨rfl⟩) h) (fun _ _ h6 => matrixStep_within (hm.of ⟨rfl⟩) h6)
      clear_value v2
      exact Within.fold (skipOverrun_within (hm.of ⟨rfl⟩) h3) (fun _ _ h9 => matrixWrite_within (hm.of ⟨rfl⟩) h9)

theorem execMatrixOperation_within {ps : List Area} {s0 : State} {op : MatrixOp} {s : State}
    (hm : Sub [.counters, .events, .spad, .arith, .parts, .dma, .clk, .host, .pow] ps) (h : Within ps s0 s) :
    OutWithin ps s0 (execMatrixOperation op s) := by
  unfold execMatrixOperation
  exact OutWithin.next (matrixRun_within (hm.of ⟨rfl⟩) h)

theorem vectorRun_within {ps : List Area} {s0 : State} {place : VectorPlace}
    {reads : List (Nat × ElemRange × Nat)} {f : State → State} {s : State}
    (hm : Sub [.events, .parts, .dma, .host] ps) (h_f : ∀ (z0 : State), Within ps s0 z0 → Within ps s0 (f z0))
    (h : Within ps s0 s) :
    Within ps s0 (vectorRun place reads f s) := by
  unfold vectorRun
  refine Within.ite (fun _ => ?_) (fun _ => ?_)
  · exact h
  · exact Within.ite (fun _ => addressFault_within (hm.of ⟨rfl⟩) h) (fun _ => h_f _ h)

theorem convertLanes_within {ps : List Area} {s0 : State} {place : VectorPlace} {f : Nat} {mode : Rounding}
    {toInf : Bool} {a4 : List (Nat × Num)} {a5 : State} (hm : Sub [.arith] ps) (h : Within ps s0 a5) :
    Within ps s0 (convertLanes place f mode toInf a4 a5).2.2 := by
  induction a4 generalizing place f mode toInf a5 h
  · rw [convertLanes]
    dsimp only
    exact h
  · rename_i ih3
    rw [convertLanes]
    split
    · split
      · rename_i y9
        refine Within.ofPair2 (ps := ps) (a := s0) y9 ?_ (fun h10 => ?_)
        · exact ih3 h
        dsimp only
        exact h10
    · extract_lets v12 v13 v14 v15 v16 v17
      refine Within.mid (ps := ps) (a := s0) v16 ?_ (fun h18 => ?_)
      · unfold v16
        exact Within.ite (fun _ => Within.put h) (fun _ => h)
      clear_value v16
      split
      · split
        · rename_i y27
          refine Within.ofPair2 (ps := ps) (a := s0) y27 ?_ (fun h28 => ?_)
          · exact ih3 h18
          dsimp only
          exact h28

theorem mxBlock_within {ps : List Area} {s0 : State} {place : VectorPlace} {f : Nat} {mode : Rounding}
    {xs : List (Nat × Num)} {s : State} (hm : Sub [.arith] ps) (h : Within ps s0 s) :
    Within ps s0 (mxBlock place f mode xs s).2.2.2 := by
  unfold mxBlock
  extract_lets v1 v2 v3 v4
  split
  · dsimp only
    exact h
  · split
    · dsimp only
      exact h
    · split
      · rename_i y13
        refine Within.ofPair2 (ps := ps) (a := s0) y13 ?_ (fun h14 => ?_)
        · exact convertLanes_within (hm.of ⟨rfl⟩) h
        dsimp only
        exact h14

theorem mxBlocks_within {ps : List Area} {s0 : State} {place : VectorPlace} {f : Nat} {mode : Rounding}
    {a3 : List (List (Nat × Num))} {a4 : State} (hm : Sub [.arith] ps) (h : Within ps s0 a4) :
    Within ps s0 (mxBlocks place f mode a3 a4).2.2.2 := by
  induction a3 generalizing place f mode a4 h
  · rw [mxBlocks]
    dsimp only
    exact h
  · rename_i ih3
    rw [mxBlocks]
    split
    · rename_i y9
      refine Within.ofPair3 (ps := ps) (a := s0) y9 ?_ (fun h10 => ?_)
      · exact mxBlock_within (hm.of ⟨rfl⟩) h
      split
      · rename_i y16
        refine Within.ofPair3 (ps := ps) (a := s0) y16 ?_ (fun h17 => ?_)
        · exact ih3 h10
        dsimp only
        exact h17

theorem vectorWrite_within {ps : List Area} {s0 : State} {place : VectorPlace} {w : Nat}
    {es : List (Option Nat)} {poisons : List Bool} {s : State}
    (hm : Sub [.events, .spad, .parts, .dma, .host] ps) (h : Within ps s0 s) :
    Within ps s0 (vectorWrite place w es poisons s) := by
  unfold vectorWrite
  exact writeElems_within (hm.of ⟨rfl⟩) h

theorem vectorFlags_within {ps : List Area} {s0 : State} {place : VectorPlace} {fl : Sticky} {poisoned : Bool}
    {s : State} (hm : Sub [.parts] ps) (h : Within ps s0 s) :
    Within ps s0 (vectorFlags place fl poisoned s) := by
  unfold vectorFlags
  exact setTaskFlags_within (hm.of ⟨rfl⟩) h

theorem mxConvertTo_within {ps : List Area} {s0 : State} {place : VectorPlace} {f : Nat} {mode : Rounding}
    {xs : List (Nat × Num)} {poisons : List Bool} {s : State}
    (hm : Sub [.events, .spad, .arith, .parts, .dma, .host] ps) (h : Within ps s0 s) :
    Within ps s0 (mxConvertTo place f mode xs poisons s) := by
  unfold mxConvertTo
  split
  · rename_i y6
    refine Within.ofPair3 (ps := ps) (a := s0) y6 ?_ (fun h7 => ?_)
    · exact mxBlocks_within (hm.of ⟨rfl⟩) h
    extract_lets v8 v9 v10
    refine Within.mid (ps := ps) (a := s0) v9 ?_ (fun h11 => ?_)
    · unfold v9
      exact vectorWrite_within (hm.of ⟨rfl⟩) h7
    clear_value v9
    refine Within.mid (ps := ps) (a := s0) v10 ?_ (fun h12 => ?_)
    · unfold v10
      exact writeElems_within (hm.of ⟨rfl⟩) h11
    clear_value v10
    exact vectorFlags_within (hm.of ⟨rfl⟩) h12

theorem mxConvert_within {ps : List Area} {s0 : State} {place : VectorPlace} {src : ElemRange} {count : Nat}
    {source : Nat} {target : Nat} {mode : Rounding} {s : State}
    (hm : Sub [.events, .spad, .arith, .parts, .dma, .host] ps) (h : Within ps s0 s) :
    Within ps s0 (mxConvert place src count source target mode s) := by
  unfold mxConvert
  refine vectorRun_within (hm.of ⟨rfl⟩) ?_ ?_
  · intro s1 h2
    extract_lets v3 v4 v5
    refine Within.mid (ps := ps) (a := s0) v5 ?_ (fun h6 => ?_)
    · unfold v5
      exact mxConvertTo_within (hm.of ⟨rfl⟩) h2
    clear_value v5
    exact vectorFlags_within (hm.of ⟨rfl⟩) h6
  · exact h

theorem execMxConvert_within {ps : List Area} {s0 : State} {place : VectorPlace} {src : ElemRange} {count : Nat}
    {source : Fin 2} {target : Fin 16} {mode : Rounding} {s : State}
    (hm : Sub [.events, .spad, .arith, .parts, .dma, .host] ps) (h : Within ps s0 s) :
    OutWithin ps s0 (execMxConvert place src count source target mode s) := by
  unfold execMxConvert
  exact OutWithin.next (mxConvert_within (hm.of ⟨rfl⟩) h)

theorem vectorConvert_within {ps : List Area} {s0 : State} {place : VectorPlace} {src : ElemRange} {count : Nat}
    {int32 : Bool} {source : Nat} {target : Nat} {mode : Rounding} {toInf : Bool} {s : State}
    (hm : Sub [.events, .spad, .arith, .parts, .dma, .host] ps) (h : Within ps s0 s) :
    Within ps s0 (vectorConvert place src count int32 source target mode toInf s) := by
  unfold vectorConvert
  extract_lets v1
  refine vectorRun_within (hm.of ⟨rfl⟩) ?_ ?_
  · intro s2 h3
    extract_lets v4 v5 v6 v7 v8
    refine Within.mid (ps := ps) (a := s0) v8 ?_ (fun h9 => ?_)
    · unfold v8
      refine Within.ite (fun _ => ?_) (fun _ => ?_)
      · exact mxConvertTo_within (hm.of ⟨rfl⟩) h3
      · split
        · rename_i y14
          refine Within.ofPair2 (ps := ps) (a := s0) y14 ?_ (fun h15 => ?_)
          · exact convertLanes_within (hm.of ⟨rfl⟩) h3
          exact vectorFlags_within (hm.of ⟨rfl⟩) (vectorWrite_within (hm.of ⟨rfl⟩) h15)
    clear_value v8
    exact vectorFlags_within (hm.of ⟨rfl⟩) h9
  · exact h

theorem execVectorConvert_within {ps : List Area} {s0 : State} {place : VectorPlace} {src : ElemRange}
    {count : Nat} {int32 : Bool} {source : Fin 16} {target : Fin 16} {mode : Rounding} {toInfinity : Bool}
    {s : State} (hm : Sub [.events, .spad, .arith, .parts, .dma, .host] ps) (h : Within ps s0 s) :
    OutWithin ps s0 (execVectorConvert place src count int32 source target mode toInfinity s) := by
  unfold execVectorConvert
  exact OutWithin.next (vectorConvert_within (hm.of ⟨rfl⟩) h)

theorem pruneGroups_within {ps : List Area} {s0 : State} {a0 : Nat} {a1 : List Num} {a2 : State}
    (hm : Sub [.free] ps) (h : Within ps s0 a2) :
    Within ps s0 (pruneGroups a0 a1 a2).2.2 := by
  induction a0 generalizing a1 a2 h
  · rw [pruneGroups]
    dsimp only
    exact h
  · rename_i ih2
    rw [pruneGroups]
    split
    · dsimp only
      exact h
    · extract_lets v5
      split
      · rename_i y9
        refine Within.ofPair1 (ps := ps) (a := s0) y9 ?_ (fun h10 => ?_)
        · exact draw_within (hm.of ⟨rfl⟩) h
        split
        · split
          · rename_i y19
            refine Within.ofPair2 (ps := ps) (a := s0) y19 ?_ (fun h20 => ?_)
            · exact ih2 h10
            dsimp only
            exact h20

theorem sparseConvert_within {ps : List Area} {s0 : State} {place : VectorPlace} {src : ElemRange} {count : Nat}
    {source : Nat} {target : Nat} {mode : Rounding} {s : State}
    (hm : Sub [.free, .events, .spad, .arith, .parts, .dma, .host] ps) (h : Within ps s0 s) :
    Within ps s0 (sparseConvert place src count source target mode s) := by
  unfold sparseConvert
  refine vectorRun_within (hm.of ⟨rfl⟩) ?_ ?_
  · intro s1 h2
    extract_lets v3 v4 v5 v6
    split
    · rename_i y11
      refine Within.ofPair2 (ps := ps) (a := s0) y11 ?_ (fun h12 => ?_)
      · exact pruneGroups_within (hm.of ⟨rfl⟩) h2
      extract_lets v13 v14 v15 v16 v17
      refine Within.mid (ps := ps) (a := s0) v16 ?_ (fun h18 => ?_)
      · unfold v16
        exact writeElems_within (hm.of ⟨rfl⟩) h12
      clear_value v16
      refine Within.mid (ps := ps) (a := s0) v17 ?_ (fun h19 => ?_)
      · unfold v17
        refine Within.ite (fun _ => ?_) (fun _ => ?_)
        · exact mxConvertTo_within (hm.of ⟨rfl⟩) h18
        · split
          · rename_i y24
            refine Within.ofPair2 (ps := ps) (a := s0) y24 ?_ (fun h25 => ?_)
            · exact convertLanes_within (hm.of ⟨rfl⟩) h18
            exact vectorFlags_within (hm.of ⟨rfl⟩) (vectorWrite_within (hm.of ⟨rfl⟩) h25)
      clear_value v17
      exact vectorFlags_within (hm.of ⟨rfl⟩) h19
  · exact h

theorem execSparseConvert_within {ps : List Area} {s0 : State} {place : VectorPlace} {src : ElemRange}
    {count : Nat} {source : Fin 2} {target : Fin 16} {mode : Rounding} {s : State}
    (hm : Sub [.free, .events, .spad, .arith, .parts, .dma, .host] ps) (h : Within ps s0 s) :
    OutWithin ps s0 (execSparseConvert place src count source target mode s) := by
  unfold execSparseConvert
  exact OutWithin.next (sparseConvert_within (hm.of ⟨rfl⟩) h)

theorem vectorFma_within {ps : List Area} {s0 : State} {place : VectorPlace} {a : ElemRange} {b : ElemRange}
    {c : ElemRange} {count : Nat} {format : Nat} {mode : Rounding} {s : State}
    (hm : Sub [.events, .spad, .arith, .parts, .dma, .host] ps) (h : Within ps s0 s) :
    Within ps s0 (vectorFma place a b c count format mode s) := by
  unfold vectorFma
  refine vectorRun_within (hm.of ⟨rfl⟩) ?_ ?_
  · intro s1 h2
    extract_lets v3 v4 v5 v6 v7 v8 v9 v10
    split
    · rename_i y15
      refine Within.ofPair2 (ps := ps) (a := s0) y15 ?_ (fun h16 => ?_)
      · exact convertLanes_within (hm.of ⟨rfl⟩) h2
      exact vectorFlags_within (hm.of ⟨rfl⟩) (vectorWrite_within (hm.of ⟨rfl⟩) h16)
  · exact h

theorem execVectorFma_within {ps : List Area} {s0 : State} {place : VectorPlace} {a : ElemRange} {b : ElemRange}
    {c : ElemRange} {count : Nat} {format : Fin 2} {mode : Rounding} {s : State}
    (hm : Sub [.events, .spad, .arith, .parts, .dma, .host] ps) (h : Within ps s0 s) :
    OutWithin ps s0 (execVectorFma place a b c count format mode s) := by
  unfold execVectorFma
  exact OutWithin.next (vectorFma_within (hm.of ⟨rfl⟩) h)

theorem transcendental_within {ps : List Area} {s0 : State} {place : VectorPlace} {src : ElemRange}
    {count : Nat} {f : Transcendental} {format : Nat} {s : State}
    (hm : Sub [.events, .spad, .parts, .dma, .host] ps) (h : Within ps s0 s) :
    Within ps s0 (transcendental place src count f format s) := by
  unfold transcendental
  refine vectorRun_within (hm.of ⟨rfl⟩) ?_ ?_
  · intro s1 h2
    extract_lets v3 v4 v5 v6
    exact vectorFlags_within (hm.of ⟨rfl⟩) (vectorWrite_within (hm.of ⟨rfl⟩) h2)
  · exact h

theorem execTranscendental_within {ps : List Area} {s0 : State} {place : VectorPlace} {src : ElemRange}
    {count : Nat} {function : Transcendental} {format : Fin 2} {s : State}
    (hm : Sub [.events, .spad, .parts, .dma, .host] ps) (h : Within ps s0 s) :
    OutWithin ps s0 (execTranscendental place src count function format s) := by
  unfold execTranscendental
  exact OutWithin.next (transcendental_within (hm.of ⟨rfl⟩) h)

end Sys2Proof.Machine
end

