-- ==== Sys2Proof/Laws/WithinRequests.lean ====
section
/-! SUPPORT. Which parts of the state the operations of Machine/Requests.lean can write: one lemma for each. -/

set_option Elab.async false

namespace Sys2Proof.Machine

theorem rejectSource_within {ps : List Area} {s0 : State} {r : Requester} {s : State}
    (hm : Sub [.events, .om] ps) (h : Within ps s0 s) :
    Within ps s0 (rejectSource r s) := by
  unfold rejectSource
  extract_lets v1 v2 v3 v4
  refine Within.mid (ps := ps) (a := s0) v2 ?_ (fun h5 => ?_)
  · unfold v2
    exact Within.put h
  clear_value v2
  exact Within.ite (fun _ => raise_within (hm.of ⟨rfl⟩) (Within.put h5)) (fun _ => h5)

theorem keepReply_within {ps : List Area} {s0 : State} {r : Reply} {s : State} (hm : Sub [.om] ps)
    (h : Within ps s0 s) :
    Within ps s0 (keepReply r s) := by
  unfold keepReply
  extract_lets v1 v2 v3 v4
  exact Within.put h

theorem sendReply_within {ps : List Area} {s0 : State} {r : Reply} {s : State} (hm : Sub [.om] ps)
    (h : Within ps s0 s) :
    Within ps s0 (sendReply r s) := by
  unfold sendReply
  extract_lets v1 v2
  refine Within.mid (ps := ps) (a := s0) v2 ?_ (fun h3 => ?_)
  · unfold v2
    exact Within.put h
  clear_value v2
  exact Within.ite (fun _ => h3) (fun _ => keepReply_within (hm.of ⟨rfl⟩) h3)

theorem errorReply_within {ps : List Area} {s0 : State} {id : RequestId} {status : BitVec 8} {detail : Nat}
    {offset : Nat} {s : State} (hm : Sub [.om] ps) (h : Within ps s0 s) :
    Within ps s0 (errorReply id status detail offset s) := by
  unfold errorReply
  exact sendReply_within (hm.of ⟨rfl⟩) h

theorem admitRequest_within {ps : List Area} {s0 : State} {id : RequestId} {s : State}
    (hm : Sub [.events, .om] ps) (h : Within ps s0 s) :
    OptWithin ps s0 (admitRequest id s) := by
  unfold admitRequest
  split
  · exact OptWithin.some h
  · split
    · exact OptWithin.some (rejectSource_within (hm.of ⟨rfl⟩) h)
    · split
      · exact OptWithin.some (Within.put h)
      · split
        · exact OptWithin.some h
        · split
          · exact OptWithin.some (errorReply_within (hm.of ⟨rfl⟩) h)
          · split
            · exact OptWithin.some (errorReply_within (hm.of ⟨rfl⟩) h)
            · exact .none

theorem okReply_within {ps : List Area} {s0 : State} {id : RequestId} {data : Bytes} {s : State}
    (hm : Sub [.om] ps) (h : Within ps s0 s) :
    Within ps s0 (okReply id data s) := by
  unfold okReply
  exact sendReply_within (hm.of ⟨rfl⟩) h

theorem answerWaiting_within {ps : List Area} {s0 : State} {key : Nat} {note : Nat} {status : BitVec 8}
    {detail : Nat} {s : State} (hm : Sub [.om] ps) (h : Within ps s0 s) :
    Within ps s0 (answerWaiting key note status detail s) := by
  unfold answerWaiting
  extract_lets v1 v2 v3
  refine Within.mid (ps := ps) (a := s0) v3 ?_ (fun h4 => ?_)
  · unfold v3
    exact Within.put h
  clear_value v3
  refine Within.fold ?_ (fun s5 x6 h7 => ?_)
  · exact h4
  · exact Within.ite (fun _ => okReply_within (hm.of ⟨rfl⟩) h7) (fun _ => errorReply_within (hm.of ⟨rfl⟩) h7)

theorem applyWrite_within {ps : List Area} {s0 : State} {id : RequestId} {value : Bytes} {act : WriteAct}
    {s : State} (hm : Sub [.om] ps)
    (h_act : ∀ (z0 : Bytes) (z1 : State), Within ps s0 z1 → WWithin ps s0 (act z0 z1)) (h : Within ps s0 s) :
    Within ps s0 (applyWrite id value act s) := by
  unfold applyWrite
  split
  · exact errorReply_within (hm.of ⟨rfl⟩) h
  · split
    · rename_i y9
      refine WWithin.outDone (ps := ps) (a := s0) y9 ?_ (fun h10 => ?_)
      · exact h_act _ _ h
      exact okReply_within (hm.of ⟨rfl⟩) h10
    · rename_i y14
      refine WWithin.outWait (ps := ps) (a := s0) y14 ?_ (fun h15 => ?_)
      · exact h_act _ _ h
      exact Within.put h15
    · exact errorReply_within (hm.of ⟨rfl⟩) h
    · rename_i y22
      refine WWithin.outFailed (ps := ps) (a := s0) y22 ?_ (fun h23 => ?_)
      · exact h_act _ _ h
      exact errorReply_within (hm.of ⟨rfl⟩) h23

theorem serveWrite_within {ps : List Area} {s0 : State} {req : Req} {key : Nat} {value : Bytes} {act : WriteAct}
    {s : State} (hm : Sub [.events, .om] ps)
    (h_act : ∀ (z0 : Bytes) (z1 : State), Within ps s0 z1 → WWithin ps s0 (act z0 z1)) (h : Within ps s0 s) :
    Within ps s0 (serveWrite req key value act s) := by
  unfold serveWrite
  extract_lets v1 v2
  split
  · rename_i y5
    refine OptWithin.out (ps := ps) (a := s0) y5 ?_ (fun h6 => ?_)
    · exact admitRequest_within (hm.of ⟨rfl⟩) h
    exact h6
  · split
    · exact errorReply_within (hm.of ⟨rfl⟩) h
    · refine applyWrite_within (hm.of ⟨rfl⟩) ?_ ?_
      · intro x15 s16 h17
        exact h_act _ _ h17
      · exact h

end Sys2Proof.Machine
end

