-- ==== Sys2Proof/Laws/WithinDram.lean ====
section
/-! SUPPORT. Which parts of the state the operations of Machine/Dram.lean can write: one lemma for each. -/

set_option Elab.async false

namespace Sys2Proof.Machine

theorem activateRow_within {ps : List Area} {s0 : State} {line : Nat} {s : State} (hm : Sub [.dram] ps)
    (h : Within ps s0 s) :
    Within ps s0 (activateRow line s) := by
  unfold activateRow
  extract_lets v1 v2 v3 v4 v5 v6 v7
  refine Within.mid (ps := ps) (a := s0) v6 ?_ (fun h8 => ?_)
  · unfold v6
    exact Within.ite (fun _ => Within.put h) (fun _ => h)
  clear_value v6
  exact Within.ite (fun _ => h) (fun _ => Within.put h8)

theorem storeWord_within {ps : List Area} {s0 : State} {line : Nat} {word : List Nat} {s : State}
    (hm : Sub [.dram] ps) (h : Within ps s0 s) :
    Within ps s0 (storeWord line word s) := by
  unfold storeWord
  exact Within.put h

theorem flushBank_within {ps : List Area} {s0 : State} {key : Nat} {s : State} (hm : Sub [.dram] ps)
    (h : Within ps s0 s) :
    Within ps s0 (flushBank key s) := by
  unfold flushBank
  extract_lets v1 v2
  refine Within.fold ?_ (fun s3 x4 h5 => ?_)
  · exact Within.put h
  · exact storeWord_within (hm.of ⟨rfl⟩) (activateRow_within (hm.of ⟨rfl⟩) h5)

theorem scheduleWriteBack_within {ps : List Area} {s0 : State} {line : Nat} {word : List Nat} {s : State}
    (hm : Sub [.dram] ps) (h : Within ps s0 s) :
    Within ps s0 (scheduleWriteBack line word s) := by
  unfold scheduleWriteBack
  exact Within.put h

theorem readLine_within {ps : List Area} {s0 : State} {line : Nat} {s : State}
    (hm : Sub [.counters, .events, .dram] ps) (h : Within ps s0 s) :
    Within ps s0 (readLine line s).2.2 := by
  unfold readLine
  extract_lets v1 v2 v3
  refine Within.mid (ps := ps) (a := s0) v1 ?_ (fun h4 => ?_)
  · unfold v1
    exact activateRow_within (hm.of ⟨rfl⟩) (flushBank_within (hm.of ⟨rfl⟩) h)
  clear_value v1
  split
  · dsimp only
    exact h4
  · dsimp only
    exact raise_within (hm.of ⟨rfl⟩) (count32_within (hm.of ⟨rfl⟩) (scheduleWriteBack_within (hm.of ⟨rfl⟩) h4))
  · dsimp only
    exact raise_within (hm.of ⟨rfl⟩) (count32_within (hm.of ⟨rfl⟩) (scheduleWriteBack_within (hm.of ⟨rfl⟩) h4))
  · dsimp only
    exact count32_within (hm.of ⟨rfl⟩) h4

theorem dropWriteBack_within {ps : List Area} {s0 : State} {line : Nat} {s : State} (hm : Sub [.dram] ps)
    (h : Within ps s0 s) :
    Within ps s0 (dropWriteBack line s) := by
  unfold dropWriteBack
  exact Within.put h

theorem markBlock_within {ps : List Area} {s0 : State} {line : Nat} {s : State} (hm : Sub [.twin] ps)
    (h : Within ps s0 s) :
    Within ps s0 (markBlock line s) := by
  unfold markBlock
  exact Within.ite (fun _ => Within.put h) (fun _ => h)

theorem atomicLine_within {ps : List Area} {s0 : State} {line : Nat} {off : Nat} {f : Nat → Nat} {s : State}
    (hm : Sub [.counters, .events, .dram, .twin] ps) (h : Within ps s0 s) :
    Within ps s0 (atomicLine line off f s).2.2 := by
  unfold atomicLine
  split
  · rename_i y5
    refine Within.ofPair2 (ps := ps) (a := s0) y5 ?_ (fun h6 => ?_)
    · exact readLine_within (hm.of ⟨rfl⟩) (dropWriteBack_within (hm.of ⟨rfl⟩) (markBlock_within (hm.of ⟨rfl⟩) h))
    extract_lets v7
    split
    · dsimp only
      exact h6
    · dsimp only
      exact storeWord_within (hm.of ⟨rfl⟩) (dropWriteBack_within (hm.of ⟨rfl⟩) h6)

theorem mergeLine_within {ps : List Area} {s0 : State} {line : Nat} {merge : Bytes → Bytes} {poisoned : Bool}
    {clears : Bool} {s : State} (hm : Sub [.counters, .events, .dram, .twin] ps) (h : Within ps s0 s) :
    Within ps s0 (mergeLine line merge poisoned clears s).2 := by
  unfold mergeLine
  split
  · rename_i y5
    refine Within.ofPair2 (ps := ps) (a := s0) y5 ?_ (fun h6 => ?_)
    · exact readLine_within (hm.of ⟨rfl⟩) (dropWriteBack_within (hm.of ⟨rfl⟩) (markBlock_within (hm.of ⟨rfl⟩) h))
    split
    · dsimp only
      exact h6
    · dsimp only
      exact storeWord_within (hm.of ⟨rfl⟩) (dropWriteBack_within (hm.of ⟨rfl⟩) h6)

theorem writeLine_within {ps : List Area} {s0 : State} {line : Nat} {off : Nat} {data : Bytes} {poisoned : Bool}
    {s : State} (hm : Sub [.counters, .events, .dram, .twin] ps) (h : Within ps s0 s) :
    Within ps s0 (writeLine line off data poisoned s).2 := by
  unfold writeLine
  split
  · extract_lets v2
    refine Within.mid (ps := ps) (a := s0) v2 ?_ (fun h3 => ?_)
    · unfold v2
      refine activateRow_within (hm.of ⟨rfl⟩) ?_
      exact flushBank_within (hm.of ⟨rfl⟩) (dropWriteBack_within (hm.of ⟨rfl⟩) (markBlock_within (hm.of ⟨rfl⟩) h))
    clear_value v2
    dsimp only
    exact storeWord_within (hm.of ⟨rfl⟩) h3
  · exact mergeLine_within (hm.of ⟨rfl⟩) h

theorem fillLine_within {ps : List Area} {s0 : State} {line : Nat} {off : Nat} {n : Nat} {s : State}
    (hm : Sub [.counters, .events, .dram, .twin] ps) (h : Within ps s0 s) :
    Within ps s0 (fillLine line off n s).2 := by
  unfold fillLine
  split
  · exact writeLine_within (hm.of ⟨rfl⟩) h
  · exact mergeLine_within (hm.of ⟨rfl⟩) h

theorem changeStack_within {ps : List Area} {s0 : State} {t : Nat} {f : Stack → Stack} {s : State}
    (hm : Sub [.dram] ps) (h : Within ps s0 s) :
    Within ps s0 (changeStack t f s) := by
  unfold changeStack
  exact Within.put h

theorem resumeScrub_within {ps : List Area} {s0 : State} {t : Nat} {s : State} (hm : Sub [.dram] ps)
    (h : Within ps s0 s) :
    Within ps s0 (resumeScrub t s) := by
  unfold resumeScrub
  exact changeStack_within (hm.of ⟨rfl⟩) h

theorem answerLine_within {ps : List Area} {s0 : State} {address : Nat} {data : Bytes} {code : Nat} {s : State}
    (hm : Sub [.dram] ps) (h : Within ps s0 s) :
    Within ps s0 (answerLine address data code s) := by
  unfold answerLine
  exact Within.put h

theorem upsetWord_within {ps : List Area} {s0 : State} {line : Nat} {upsets : List (Fin 72 × Byte)} {s : State}
    (hm : Sub [.dram] ps) (h : Within ps s0 s) :
    Within ps s0 (upsetWord line upsets s) := by
  unfold upsetWord
  exact Within.put h

theorem execDramRead_within {ps : List Area} {s0 : State} {tower : Tower} {address : BitVec 36}
    {upsets : List (Fin 72 × Byte)} {s : State} (hm : Sub [.counters, .events, .dram] ps) (h : Within ps s0 s) :
    OutWithin ps s0 (execDramRead tower address upsets s) := by
  unfold execDramRead
  extract_lets v1 v2
  refine OutWithin.next ?_
  refine Within.ite (fun _ => ?_) (fun _ => ?_)
  · exact answerLine_within (hm.of ⟨rfl⟩) h
  · split
    · rename_i y7
      refine Within.ofPair2 (ps := ps) (a := s0) y7 ?_ (fun h8 => ?_)
      · exact readLine_within (hm.of ⟨rfl⟩) (upsetWord_within (hm.of ⟨rfl⟩) (flushBank_within (hm.of ⟨rfl⟩) h))
      exact answerLine_within (hm.of ⟨rfl⟩) h8

theorem execDramWriteBack_within {ps : List Area} {s0 : State} {tower : Tower} {channel : Fin 32}
    {bank : Fin 32} {s : State} (hm : Sub [.dram] ps) (h : Within ps s0 s) :
    OutWithin ps s0 (execDramWriteBack tower channel bank s) := by
  unfold execDramWriteBack
  exact OutWithin.next (flushBank_within (hm.of ⟨rfl⟩) h)

theorem execDramWrite_within {ps : List Area} {s0 : State} {tower : Tower} {address : BitVec 36} {data : Bytes}
    {poisoned : Bool} {s : State} (hm : Sub [.counters, .events, .dram, .twin] ps) (h : Within ps s0 s) :
    OutWithin ps s0 (execDramWrite tower address data poisoned s) := by
  unfold execDramWrite
  extract_lets v1 v2
  refine OutWithin.next ?_
  refine Within.ite (fun _ => ?_) (fun _ => ?_)
  · exact answerLine_within (hm.of ⟨rfl⟩) h
  · split
    · rename_i y6
      refine Within.ofPair1 (ps := ps) (a := s0) y6 ?_ (fun h7 => ?_)
      · exact writeLine_within (hm.of ⟨rfl⟩) h
      exact answerLine_within (hm.of ⟨rfl⟩) h7

theorem refreshChannel_within {ps : List Area} {s0 : State} {t : Nat} {c : Nat} {s : State}
    (hm : Sub [.dram] ps) (h : Within ps s0 s) :
    Within ps s0 (refreshChannel t c s) := by
  unfold refreshChannel
  extract_lets v1 v2 v3 v4 v5 v6
  refine Within.mid (ps := ps) (a := s0) v5 ?_ (fun h7 => ?_)
  · unfold v5
    exact Within.put h
  clear_value v5
  exact Within.ite (fun _ => h) (fun _ => Within.ite (fun _ => Within.put h7) (fun _ => h7))

theorem execRefresh_within {ps : List Area} {s0 : State} {tower : Tower} {channel : Fin 32} {s : State}
    (hm : Sub [.dram] ps) (h : Within ps s0 s) :
    OutWithin ps s0 (execRefresh tower channel s) := by
  unfold execRefresh
  exact OutWithin.next (refreshChannel_within (hm.of ⟨rfl⟩) h)

theorem zeroLines_within {ps : List Area} {s0 : State} {t : Nat} {n : Nat} {s : State} (hm : Sub [.dram] ps)
    (h : Within ps s0 s) :
    Within ps s0 (zeroLines t n s) := by
  unfold zeroLines
  extract_lets v1 v2
  exact Within.put h

theorem pauseScrub_within {ps : List Area} {s0 : State} {t : Nat} {s : State} (hm : Sub [.dram] ps)
    (h : Within ps s0 s) :
    Within ps s0 (pauseScrub t s) := by
  unfold pauseScrub
  split
  · exact h
  · extract_lets v6
    exact changeStack_within (hm.of ⟨rfl⟩) (zeroLines_within (hm.of ⟨rfl⟩) h)

theorem drainComplete_within {ps : List Area} {s0 : State} {t : Nat} {s : State} (hm : Sub [.events, .dram] ps)
    (h : Within ps s0 s) :
    Within ps s0 (drainComplete t s) := by
  unfold drainComplete
  extract_lets v1
  refine Within.ite (fun _ => ?_) (fun _ => ?_)
  · exact h
  · refine raise_within (hm.of ⟨rfl⟩) ?_
    exact changeStack_within (hm.of ⟨rfl⟩) (Within.fold h (fun _ _ h4 => flushBank_within (hm.of ⟨rfl⟩) h4))

theorem execDrainComplete_within {ps : List Area} {s0 : State} {tower : Tower} {s : State}
    (hm : Sub [.events, .dram] ps) (h : Within ps s0 s) :
    OutWithin ps s0 (execDrainComplete tower s) := by
  unfold execDrainComplete
  exact OutWithin.next (drainComplete_within (hm.of ⟨rfl⟩) h)

theorem patrolRead_within {ps : List Area} {s0 : State} {t : Nat} {upsets : List (Fin 72 × Byte)} {s : State}
    (hm : Sub [.counters, .events, .dram] ps) (h : Within ps s0 s) :
    Within ps s0 (patrolRead t upsets s) := by
  unfold patrolRead
  refine Within.ite (fun _ => ?_) (fun _ => ?_)
  · exact h
  · extract_lets v1 v2
    split
    · rename_i y7
      refine Within.ofPair2 (ps := ps) (a := s0) y7 ?_ (fun h8 => ?_)
      · exact readLine_within (hm.of ⟨rfl⟩) (upsetWord_within (hm.of ⟨rfl⟩) (flushBank_within (hm.of ⟨rfl⟩) h))
      extract_lets v9
      refine Within.mid (ps := ps) (a := s0) v9 ?_ (fun h10 => ?_)
      · unfold v9
        exact changeStack_within (hm.of ⟨rfl⟩) h8
      clear_value v9
      exact Within.ite (fun _ => raise_within (hm.of ⟨rfl⟩) (count32_within (hm.of ⟨rfl⟩) h10)) (fun _ => h10)

theorem execPatrolRead_within {ps : List Area} {s0 : State} {tower : Tower} {upsets : List (Fin 72 × Byte)}
    {s : State} (hm : Sub [.counters, .events, .dram] ps) (h : Within ps s0 s) :
    OutWithin ps s0 (execPatrolRead tower upsets s) := by
  unfold execPatrolRead
  exact OutWithin.next (patrolRead_within (hm.of ⟨rfl⟩) h)

theorem startScrub_within {ps : List Area} {s0 : State} {t : Nat} {s : State} (hm : Sub [.dram] ps)
    (h : Within ps s0 s) :
    Within ps s0 (startScrub t s) := by
  unfold startScrub
  extract_lets v1 v2
  exact changeStack_within (hm.of ⟨rfl⟩) (Within.put h)

theorem handoverScrubAct_within {ps : List Area} {s0 : State} {a0 : Bytes} {a1 : State} (hm : Sub [.dram] ps)
    (h : Within ps s0 a1) :
    WWithin ps s0 (handoverScrubAct a0 a1) := by
  unfold handoverScrubAct
  extract_lets v1 v2
  split
  · exact .refuse
  · split
    · exact .refuse
    · exact WWithin.done (Within.fold h (fun _ _ h9 => startScrub_within (hm.of ⟨rfl⟩) h9))

theorem execHandoverScrub_within {ps : List Area} {s0 : State} {req : Req} {value : Bytes} {s : State}
    (hm : Sub [.events, .om, .dram] ps) (h : Within ps s0 s) :
    OutWithin ps s0 (execHandoverScrub req value s) := by
  unfold execHandoverScrub
  refine OutWithin.next ?_
  refine serveWrite_within (hm.of ⟨rfl⟩) ?_ ?_
  · intro x1 s2 h3
    exact handoverScrubAct_within (hm.of ⟨rfl⟩) h3
  · exact h

theorem endScrub_within {ps : List Area} {s0 : State} {t : Nat} {s : State} (hm : Sub [.events, .dram] ps)
    (h : Within ps s0 s) :
    Within ps s0 (endScrub t s) := by
  unfold endScrub
  exact raise_within (hm.of ⟨rfl⟩) (changeStack_within (hm.of ⟨rfl⟩) (zeroLines_within (hm.of ⟨rfl⟩) h))

end Sys2Proof.Machine
end

