-- ==== Sys2Proof/Laws/WithinLinkOps.lean ====
section
/-! SUPPORT. Which parts of the state the operations of Machine/LinkOps.lean can write: one lemma for each. -/

set_option Elab.async false

namespace Sys2Proof.Machine

theorem makeGroup_within {ps : List Area} {s0 : State} {t : Nat} {n : Nat} {payload : Bytes} {s : State}
    (hm : Sub [.free] ps) (h : Within ps s0 s) :
    Within ps s0 (makeGroup t n payload s).2 := by
  unfold makeGroup
  extract_lets v1 v2 v3
  split
  · rename_i y7
    refine Within.ofPair1 (ps := ps) (a := s0) y7 ?_ (fun h8 => ?_)
    · exact drawBytes_within (hm.of ⟨rfl⟩) h
    extract_lets v9
    dsimp only
    exact h8

theorem sendGroup_within {ps : List Area} {s0 : State} {t : Nat} {n : Nat} {s : State}
    (hm : Sub [.free, .ver] ps) (h : Within ps s0 s) :
    Within ps s0 (sendGroup t n s) := by
  unfold sendGroup
  extract_lets v1
  split
  · exact h
  · refine Within.ite (fun _ => ?_) (fun _ => ?_)
    · exact h
    · split
      · rename_i y11
        refine Within.ofPair1 (ps := ps) (a := s0) y11 ?_ (fun h12 => ?_)
        · exact makeGroup_within (hm.of ⟨rfl⟩) h
        exact changeBundle_within (hm.of ⟨rfl⟩) h12

theorem pumpGroups_within {ps : List Area} {s0 : State} {t : Nat} {n : Nat} {s : State}
    (hm : Sub [.free, .ver] ps) (h : Within ps s0 s) :
    Within ps s0 (pumpGroups t n s) := by
  unfold pumpGroups
  exact Within.fold h (fun _ _ h3 => sendGroup_within (hm.of ⟨rfl⟩) h3)

theorem carryOn_within {ps : List Area} {s0 : State} {t : Nat} {n : Nat} {data : Bytes} {s : State}
    (hm : Sub [.free, .ver] ps) (h : Within ps s0 s) :
    Within ps s0 (carryOn t n data s) := by
  unfold carryOn
  exact Within.ite (fun _ => h) (fun _ => pumpGroups_within (hm.of ⟨rfl⟩) (changeBundle_within (hm.of ⟨rfl⟩) h))

theorem crossTrunk_within {ps : List Area} {s0 : State} {a : Nat} {b : Nat} {data : Bytes} {s : State}
    (hm : Sub [.free, .ver] ps) (h : Within ps s0 s) :
    Within ps s0 (crossTrunk a b data s) := by
  unfold crossTrunk
  refine Within.fold ?_ (fun s1 x2 h3 => ?_)
  · exact h
  · extract_lets v4
    exact carryOn_within (hm.of ⟨rfl⟩) h3

theorem switchKey_within {ps : List Area} {s0 : State} {key : Nat} {s : State} (hm : Sub [.events, .fab] ps)
    (h : Within ps s0 s) :
    Within ps s0 (switchKey key s) := by
  unfold switchKey
  extract_lets v1 v2
  exact Within.ite (fun _ => raise_within (hm.of ⟨rfl⟩) (Within.put h)) (fun _ => h)

theorem sealData_within {ps : List Area} {s0 : State} {n : Nat} {seq : Nat} {first : Bool} {data : Bytes}
    {s : State} (hm : Sub [.events, .fab] ps) (h : Within ps s0 s) :
    Within ps s0 (sealData n seq first data s).2 := by
  unfold sealData
  split
  · extract_lets v2 v3 v4 v5 v6
    refine Within.mid (ps := ps) (a := s0) v2 ?_ (fun h7 => ?_)
    · unfold v2
      exact switchKey_within (hm.of ⟨rfl⟩) h
    clear_value v2
    dsimp only
    exact Within.put h7
  · dsimp only
    exact h

theorem changeTx_within {ps : List Area} {s0 : State} {n : Nat} {f : LinkTx → LinkTx} {s : State}
    (hm : Sub [.lanes] ps) (h : Within ps s0 s) :
    Within ps s0 (changeTx n f s) := by
  unfold changeTx
  exact Within.put h

theorem putFlit_within {ps : List Area} {s0 : State} {n : Nat} {kind : Nat} {seq : Nat} {first : Nat}
    {data : Bytes} {s : State} (hm : Sub [.lanes] ps) (h : Within ps s0 s) :
    Within ps s0 (putFlit n kind seq first data s) := by
  unfold putFlit
  extract_lets v1 v2
  split
  · extract_lets v7 v8
    refine Within.mid (ps := ps) (a := s0) v7 ?_ (fun h9 => ?_)
    · unfold v7
      exact changeTx_within (hm.of ⟨rfl⟩) h
    clear_value v7
    exact Within.put h9

theorem sendOneFlit_within {ps : List Area} {s0 : State} {n : Nat} {s : State}
    (hm : Sub [.events, .lanes, .fab] ps) (h : Within ps s0 s) :
    Within ps s0 (sendOneFlit n s) := by
  unfold sendOneFlit
  extract_lets v1
  split
  · exact h
  · refine Within.ite (fun _ => ?_) (fun _ => ?_)
    · exact h
    · split
      · rename_i y12
        refine Within.ofPair1 (ps := ps) (a := s0) y12 ?_ (fun h13 => ?_)
        · exact sealData_within (hm.of ⟨rfl⟩) h
        extract_lets v14
        exact putFlit_within (hm.of ⟨rfl⟩) (changeTx_within (hm.of ⟨rfl⟩) h13)

theorem pumpTx_within {ps : List Area} {s0 : State} {n : Nat} {s : State} (hm : Sub [.events, .lanes, .fab] ps)
    (h : Within ps s0 s) :
    Within ps s0 (pumpTx n s) := by
  unfold pumpTx
  exact Within.fold h (fun _ _ h3 => sendOneFlit_within (hm.of ⟨rfl⟩) h3)

theorem queuePacket_within {ps : List Area} {s0 : State} {n : Nat} {size : Nat} {data : Bytes} {s : State}
    (hm : Sub [.events, .lanes, .fab] ps) (h : Within ps s0 s) :
    Within ps s0 (queuePacket n size data s) := by
  unfold queuePacket
  exact pumpTx_within (hm.of ⟨rfl⟩) (changeTx_within (hm.of ⟨rfl⟩) h)

theorem changeRx_within {ps : List Area} {s0 : State} {n : Nat} {f : LinkRx → LinkRx} {s : State}
    (hm : Sub [.lanes] ps) (h : Within ps s0 s) :
    Within ps s0 (changeRx n f s) := by
  unfold changeRx
  exact Within.put h

theorem putNull_within {ps : List Area} {s0 : State} {n : Nat} {s : State} (hm : Sub [.lanes] ps)
    (h : Within ps s0 s) :
    Within ps s0 (putNull n s) := by
  unfold putNull
  exact putFlit_within (hm.of ⟨rfl⟩) h

theorem beginStream_within {ps : List Area} {s0 : State} {n : Nat} {s : State} (hm : Sub [.lanes] ps)
    (h : Within ps s0 s) :
    Within ps s0 (beginStream n s) := by
  unfold beginStream
  extract_lets v1
  exact Within.ite (fun _ => putNull_within (hm.of ⟨rfl⟩) (changeTx_within (hm.of ⟨rfl⟩) h)) (fun _ => h)

theorem fillIdle_within {ps : List Area} {s0 : State} {n : Nat} {s : State} (hm : Sub [.lanes] ps)
    (h : Within ps s0 s) :
    Within ps s0 (fillIdle n s) := by
  unfold fillIdle
  extract_lets v1
  exact Within.ite (fun _ => putNull_within (hm.of ⟨rfl⟩) h) (fun _ => h)

theorem putControl_within {ps : List Area} {s0 : State} {n : Nat} {code : Nat} {width : Nat} {expected : Nat}
    {lane : Nat} {step : Nat} {s : State} (hm : Sub [.lanes] ps) (h : Within ps s0 s) :
    Within ps s0 (putControl n code width expected lane step s) := by
  unfold putControl
  exact putFlit_within (hm.of ⟨rfl⟩) h

theorem putMesh_within {ps : List Area} {s0 : State} {m : MeshPacket} {s : State} (hm : Sub [.pho] ps)
    (h : Within ps s0 s) :
    Within ps s0 (putMesh m s) := by
  unfold putMesh
  extract_lets v1 v2
  exact Within.put h

theorem sendMesh_within {ps : List Area} {s0 : State} {src : Nat} {dst : Nat} {load : MeshLoad} {s : State}
    (hm : Sub [.free, .pho, .ver] ps) (h : Within ps s0 s) :
    Within ps s0 (sendMesh src dst load s) := by
  unfold sendMesh
  extract_lets v1 v2
  refine Within.ite (fun _ => ?_) (fun _ => ?_)
  · exact Within.put h
  · exact carryOn_within (hm.of ⟨rfl⟩) (carryOn_within (hm.of ⟨rfl⟩) (putMesh_within (hm.of ⟨rfl⟩) h))

theorem carryFlits_within {ps : List Area} {s0 : State} {t : Nat} {first : Nat} {w : Nat} {flits : List Bytes}
    {s : State} (hm : Sub [.free, .ver] ps) (h : Within ps s0 s) :
    Within ps s0 (carryFlits t first w flits s) := by
  unfold carryFlits
  exact Within.fold h (fun _ _ h3 => carryOn_within (hm.of ⟨rfl⟩) h3)

theorem sendAckWord_within {ps : List Area} {s0 : State} {n : Nat} {s : State} (hm : Sub [.free, .pho, .ver] ps)
    (h : Within ps s0 s) :
    Within ps s0 (sendAckWord n s) := by
  unfold sendAckWord
  exact sendMesh_within (hm.of ⟨rfl⟩) h

theorem rxBad_within {ps : List Area} {s0 : State} {n : Nat} {s : State} (hm : Sub [.counters, .lanes] ps)
    (h : Within ps s0 s) :
    Within ps s0 (rxBad n s) := by
  unfold rxBad
  exact changeRx_within (hm.of ⟨rfl⟩) (count64_within (hm.of ⟨rfl⟩) h)

theorem rxTake_within {ps : List Area} {s0 : State} {n : Nat} {seq : Nat} {data : Bytes} {s : State}
    (hm : Sub [.counters, .events, .lanes] ps) (h : Within ps s0 s) :
    Within ps s0 (rxTake n seq data s).2 := by
  unfold rxTake
  extract_lets v1 v2 v3
  split
  · dsimp only
    exact h
  · split
    · dsimp only
      exact changeRx_within (hm.of ⟨rfl⟩) (count32_within (hm.of ⟨rfl⟩) h)
    · split
      · extract_lets v12
        dsimp only
        exact Within.put h

theorem ackTx_within {ps : List Area} {s0 : State} {n : Nat} {a : Nat} {s : State}
    (hm : Sub [.events, .lanes, .fab] ps) (h : Within ps s0 s) :
    Within ps s0 (ackTx n a s) := by
  unfold ackTx
  exact pumpTx_within (hm.of ⟨rfl⟩) (changeTx_within (hm.of ⟨rfl⟩) h)

theorem countRetransmit_within {ps : List Area} {s0 : State} {n : Nat} {s : State} (hm : Sub [.counters] ps)
    (h : Within ps s0 s) :
    Within ps s0 (countRetransmit n s) := by
  unfold countRetransmit
  exact count64_within (hm.of ⟨rfl⟩) h

theorem retransmit_within {ps : List Area} {s0 : State} {n : Nat} {q : Nat} {s : State}
    (hm : Sub [.counters, .lanes] ps) (h : Within ps s0 s) :
    Within ps s0 (retransmit n q s) := by
  unfold retransmit
  split
  · exact h
  · refine Within.ite (fun _ => ?_) (fun _ => ?_)
    · extract_lets v6
      refine Within.mid (ps := ps) (a := s0) v6 ?_ (fun h7 => ?_)
      · unfold v6
        exact changeTx_within (hm.of ⟨rfl⟩) h
      clear_value v6
      exact putFlit_within (hm.of ⟨rfl⟩) (countRetransmit_within (hm.of ⟨rfl⟩) h7)
    · exact changeTx_within (hm.of ⟨rfl⟩) h

theorem ackGroups_within {ps : List Area} {s0 : State} {t : Nat} {n : Nat} {a : Nat} {s : State}
    (hm : Sub [.free, .ver] ps) (h : Within ps s0 s) :
    Within ps s0 (ackGroups t n a s) := by
  unfold ackGroups
  exact pumpGroups_within (hm.of ⟨rfl⟩) (changeBundle_within (hm.of ⟨rfl⟩) h)

end Sys2Proof.Machine
end

