-- ==== Sys2Proof/Laws/WithinFabricOps.lean ====
section
/-! SUPPORT. Which parts of the state the operations of Machine/FabricOps.lean can write: one lemma for each. -/

set_option Elab.async false

namespace Sys2Proof.Machine

theorem holdPacket_within {ps : List Area} {s0 : State} {h0 : FabricHeld} {s : State} (hm : Sub [.fab] ps)
    (h : Within ps s0 s) :
    Within ps s0 (holdPacket h0 s) := by
  unfold holdPacket
  exact Within.put h

theorem takeCredits_within {ps : List Area} {s0 : State} {port : Nat} {f : FabricHeader} {s : State}
    (hm : Sub [.fab] ps) (h : Within ps s0 s) :
    Within ps s0 (takeCredits port f s).2 := by
  unfold takeCredits
  extract_lets v1 v2 v3 v4
  dsimp only
  exact Within.put h

theorem launch_within {ps : List Area} {s0 : State} {port : Nat} {time : Nat} {f : FabricHeader} {data : Bytes}
    {s : State} (hm : Sub [.events, .lanes, .fab] ps) (h : Within ps s0 s) :
    Within ps s0 (launch port time f data s) := by
  unfold launch
  split
  · rename_i y4
    refine Within.ofPair1 (ps := ps) (a := s0) y4 ?_ (fun h5 => ?_)
    · exact takeCredits_within (hm.of ⟨rfl⟩) h
    extract_lets v6 v7
    exact queuePacket_within (hm.of ⟨rfl⟩) (Within.put h5)

theorem sendOnPort_within {ps : List Area} {s0 : State} {port : Nat} {start : Nat} {time : Nat}
    {origin : Option Nat} {p : FabricPacket} {s : State}
    (hm : Sub [.free, .counters, .events, .lanes, .ver, .fab] ps) (h : Within ps s0 s) :
    Within ps s0 (sendOnPort port start time origin p s).2 := by
  unfold sendOnPort
  extract_lets v1 v2 v3 v4 v5 v6 v7 v8 v9
  refine Within.mid (ps := ps) (a := s0) v6 ?_ (fun h10 => ?_)
  · unfold v6
    exact Within.ite (fun _ => count64_within (hm.of ⟨rfl⟩) h) (fun _ => h)
  clear_value v6
  refine Within.mid (ps := ps) (a := s0) v8 ?_ (fun h11 => ?_)
  · unfold v8
    split
    · exact h10
    · exact crossTrunk_within (hm.of ⟨rfl⟩) h10
  clear_value v8
  split
  · dsimp only
    exact raise_within (hm.of ⟨rfl⟩) h
  · split
    · dsimp only
      exact h
    · split
      · dsimp only
        exact h
      · split
        · dsimp only
          exact holdPacket_within (hm.of ⟨rfl⟩) h
        · dsimp only
          exact launch_within (hm.of ⟨rfl⟩) (Within.put h11)

theorem routePacket_within {ps : List Area} {s0 : State} {start : Nat} {time : Nat} {origin : Option Nat}
    {p : FabricPacket} {s : State} (hm : Sub [.free, .counters, .events, .lanes, .ver, .fab] ps)
    (h : Within ps s0 s) :
    Within ps s0 (routePacket start time origin p s).2 := by
  unfold routePacket
  extract_lets v1
  split
  · dsimp only
    exact raise_within (hm.of ⟨rfl⟩) h
  · split
    · dsimp only
      exact holdPacket_within (hm.of ⟨rfl⟩) h
    · exact sendOnPort_within (hm.of ⟨rfl⟩) h

theorem respond_within {ps : List Area} {s0 : State} {req : FabricHeader} {code : Nat} {data : Bytes}
    {poison : Bool} {tower : Nat} {s : State} (hm : Sub [.free, .counters, .events, .lanes, .ver, .fab] ps)
    (h : Within ps s0 s) :
    Within ps s0 (respond req code data poison tower s) := by
  unfold respond
  exact routePacket_within (hm.of ⟨rfl⟩) h

theorem limiterOf_within {ps : List Area} {s0 : State} {t : Nat} {target : Nat} {s : State} (hm : Sub [.fab] ps)
    (h : Within ps s0 s) :
    Within ps s0 (limiterOf t target s).2 := by
  unfold limiterOf
  extract_lets v1 v2 v3 v4 v5
  split
  · dsimp only
    exact h
  · dsimp only
    exact Within.put h

theorem changeLimiter_within {ps : List Area} {s0 : State} {t : Nat} {target : Nat} {f : Limiter → Limiter}
    {s : State} (hm : Sub [.fab] ps) (h : Within ps s0 s) :
    Within ps s0 (changeLimiter t target f s) := by
  unfold changeLimiter
  exact Within.put h

theorem chargeLimiter_within {ps : List Area} {s0 : State} {t : Nat} {target : Nat} {s : State}
    (hm : Sub [.fab] ps) (h : Within ps s0 s) :
    Within ps s0 (chargeLimiter t target s).2 := by
  unfold chargeLimiter
  split
  · rename_i y4
    refine Within.ofPair1 (ps := ps) (a := s0) y4 ?_ (fun h5 => ?_)
    · exact limiterOf_within (hm.of ⟨rfl⟩) h
    extract_lets v6
    dsimp only
    exact changeLimiter_within (hm.of ⟨rfl⟩) h5

theorem limiterEcho_within {ps : List Area} {s0 : State} {t : Nat} {target : Nat} {s : State}
    (hm : Sub [.fab] ps) (h : Within ps s0 s) :
    Within ps s0 (limiterEcho t target s) := by
  unfold limiterEcho
  exact changeLimiter_within (hm.of ⟨rfl⟩) h

end Sys2Proof.Machine
end

