-- ==== Sys2Proof/Laws/WithinNotices.lean ====
section
/-! SUPPORT. Which parts of the state the operations of Machine/Notices.lean can write: one lemma for each. -/

set_option Elab.async false

namespace Sys2Proof.Machine

theorem changeSubscriber_within {ps : List Area} {s0 : State} {i : Nat} {f : Subscriber → Subscriber}
    {s : State} (hm : Sub [.om] ps) (h : Within ps s0 s) :
    Within ps s0 (changeSubscriber i f s) := by
  unfold changeSubscriber
  exact Within.put h

theorem putNotice_within {ps : List Area} {s0 : State} {i : Nat} {q : BitVec 16} {data : Bytes} {s : State}
    (hm : Sub [.om] ps) (h : Within ps s0 s) :
    Within ps s0 (putNotice i q data s) := by
  unfold putNotice
  exact Within.ite (fun _ => h) (fun _ => Within.put h)

theorem emitNotice_within {ps : List Area} {s0 : State} {i : Nat} {data : Bytes} {s : State} (hm : Sub [.om] ps)
    (h : Within ps s0 s) :
    Within ps s0 (emitNotice i data s) := by
  unfold emitNotice
  extract_lets v1
  exact changeSubscriber_within (hm.of ⟨rfl⟩) (putNotice_within (hm.of ⟨rfl⟩) h)

theorem dropNotice_within {ps : List Area} {s0 : State} {who : Option Bytes} {s : State}
    (hm : Sub [.events, .om] ps) (h : Within ps s0 s) :
    Within ps s0 (dropNotice who s) := by
  unfold dropNotice
  extract_lets v1 v2 v3 v4
  refine Within.mid (ps := ps) (a := s0) v2 ?_ (fun h5 => ?_)
  · unfold v2
    exact Within.put h
  clear_value v2
  exact Within.ite (fun _ => raise_within (hm.of ⟨rfl⟩) (Within.put h5)) (fun _ => h5)

theorem sendNotice_within {ps : List Area} {s0 : State} {i : Nat} {fabric : Bool} {data : Bytes} {s : State}
    (hm : Sub [.events, .om] ps) (h : Within ps s0 s) :
    Within ps s0 (sendNotice i fabric data s) := by
  unfold sendNotice
  extract_lets v1 v2
  refine Within.ite (fun _ => ?_) (fun _ => ?_)
  · exact emitNotice_within (hm.of ⟨rfl⟩) h
  · refine Within.ite (fun _ => ?_) (fun _ => ?_)
    · exact changeSubscriber_within (hm.of ⟨rfl⟩) h
    · exact dropNotice_within (hm.of ⟨rfl⟩) h

theorem fabricNotice_within {ps : List Area} {s0 : State} {job : BitVec 16} {target : Nat} {code : Nat}
    {s : State} (hm : Sub [.events, .om, .fab] ps) (h : Within ps s0 s) :
    Within ps s0 (fabricNotice job target code s) := by
  unfold fabricNotice
  extract_lets v1 v2 v3 v4 v5 v6
  refine Within.mid (ps := ps) (a := s0) v3 ?_ (fun h7 => ?_)
  · unfold v3
    exact Within.put h
  clear_value v3
  refine Within.ite (fun _ => ?_) (fun _ => ?_)
  · exact h
  · refine Within.ite (fun _ => ?_) (fun _ => ?_)
    · exact Within.put h7
    · exact Within.fold h7 (fun _ _ h10 => sendNotice_within (hm.of ⟨rfl⟩) h10)

theorem fabricFailure_within {ps : List Area} {s0 : State} {p : FabricPacket} {code : Nat} {s : State}
    (hm : Sub [.counters, .events, .om, .fab] ps) (h : Within ps s0 s) :
    Within ps s0 (fabricFailure p code s) := by
  unfold fabricFailure
  extract_lets v1
  refine Within.ite (fun _ => ?_) (fun _ => ?_)
  · exact fabricNotice_within (hm.of ⟨rfl⟩) (raise_within (hm.of ⟨rfl⟩) (count32_within (hm.of ⟨rfl⟩) h))
  · exact Within.ite (fun _ => fabricNotice_within (hm.of ⟨rfl⟩) (raise_within (hm.of ⟨rfl⟩) h)) (fun _ => h)

theorem releaseHeld_within {ps : List Area} {s0 : State} {a0 : Nat} {a1 : Nat} {a2 : State} (hm : Sub [.om] ps)
    (h : Within ps s0 a2) :
    Within ps s0 (releaseHeld a0 a1 a2) := by
  induction a0 generalizing a1 a2 h
  · rw [releaseHeld]
    exact h
  · rename_i ih2
    rw [releaseHeld]
    split
    · exact h
    · refine Within.ite (fun _ => ?_) (fun _ => ?_)
      · exact ih2 (emitNotice_within (hm.of ⟨rfl⟩) (changeSubscriber_within (hm.of ⟨rfl⟩) h))
      · exact h

theorem eventNotice_within {ps : List Area} {s0 : State} {code : Nat} {record : Bytes} {s : State}
    (hm : Sub [.events, .om] ps) (h : Within ps s0 s) :
    Within ps s0 (eventNotice code record s) := by
  unfold eventNotice
  extract_lets v1
  exact Within.fold h (fun _ _ h4 => sendNotice_within (hm.of ⟨rfl⟩) h4)

end Sys2Proof.Machine
end

