-- ==== Sys2Proof/Laws/WithinSpad.lean ====
section
/-! SUPPORT. Which parts of the state the operations of Machine/Spad.lean can write: one lemma for each. -/

set_option Elab.async false

namespace Sys2Proof.Machine

theorem spadWrite_within {ps : List Area} {s0 : State} {key : Nat} {data : Bytes} {poisoned : Bool} {s : State}
    (hm : Sub [.spad] ps) (h : Within ps s0 s) :
    Within ps s0 (spadWrite key data poisoned s) := by
  unfold spadWrite
  extract_lets v1 v2 v3
  exact Within.put h

theorem arbitratePort_within {ps : List Area} {s0 : State} {t : Nat} {k : Nat} {bank : Nat} {port : Nat}
    {reqs : List SpadAccess} {s : State} (hm : Sub [.counters, .events, .spad, .parts, .clk, .pow] ps)
    (h : Within ps s0 s) :
    Within ps s0 (arbitratePort t k bank port reqs s).2 := by
  unfold arbitratePort
  extract_lets v1 v2 v3
  split
  · dsimp only
    exact h
  · extract_lets v9
    refine Within.mid (ps := ps) (a := s0) v9 ?_ (fun h10 => ?_)
    · unfold v9
      exact Within.put h
    clear_value v9
    split
    · dsimp only
      exact stallRegion_within (hm.of ⟨rfl⟩) (raise_within (hm.of ⟨rfl⟩) (count32_within (hm.of ⟨rfl⟩) h10))
    · dsimp only
      exact h10

theorem holdPort_within {ps : List Area} {s0 : State} {t : Nat} {k : Nat} {bank : Nat} {port : Nat}
    {reqs : List SpadAccess} {s : State} (hm : Sub [.spad] ps) (h : Within ps s0 s) :
    Within ps s0 (holdPort t k bank port reqs s) := by
  unfold holdPort
  extract_lets v1 v2
  exact Within.put h

theorem retireBank_within {ps : List Area} {s0 : State} {t : Nat} {k : Nat} {bank : Nat} {s : State}
    (hm : Sub [.events, .spad] ps) (h : Within ps s0 s) :
    Within ps s0 (retireBank t k bank s) := by
  unfold retireBank
  extract_lets v1 v2 v3
  exact Within.ite (fun _ => h) (fun _ => raise_within (hm.of ⟨rfl⟩) (Within.put h))

theorem badWord_within {ps : List Area} {s0 : State} {t : Nat} {k : Nat} {bank : Nat} {word : Nat} {s : State}
    (hm : Sub [.counters, .events, .spad] ps) (h : Within ps s0 s) :
    Within ps s0 (badWord t k bank word s) := by
  unfold badWord
  extract_lets v1 v2 v3 v4
  refine Within.mid (ps := ps) (a := s0) v4 ?_ (fun h5 => ?_)
  · unfold v4
    exact raise_within (hm.of ⟨rfl⟩) (count32_within (hm.of ⟨rfl⟩) (Within.put h))
  clear_value v4
  exact Within.ite (fun _ => retireBank_within (hm.of ⟨rfl⟩) h5) (fun _ => h5)

theorem chunkFault_within {ps : List Area} {s0 : State} {t : Nat} {k : Nat} {bank : Nat} {f : ChunkFault}
    {s : State} (hm : Sub [.free, .counters, .events, .spad] ps) (h : Within ps s0 s) :
    Within ps s0 (chunkFault t k bank f s) := by
  unfold chunkFault
  extract_lets v1
  refine Within.ite (fun _ => ?_) (fun _ => ?_)
  · split
    · rename_i y5
      refine Within.ofPair1 (ps := ps) (a := s0) y5 ?_ (fun h6 => ?_)
      · exact drawBytes_within (hm.of ⟨rfl⟩) h
      exact badWord_within (hm.of ⟨rfl⟩) (Within.put h6)
  · exact raise_within (hm.of ⟨rfl⟩) (count32_within (hm.of ⟨rfl⟩) h)

theorem codeCycle_within {ps : List Area} {s0 : State} {t : Nat} {k : Nat} {bank : Nat}
    {reads : List SpadAccess} {faults : List ChunkFault} {s : State}
    (hm : Sub [.free, .counters, .events, .spad] ps) (h : Within ps s0 s) :
    Within ps s0 (codeCycle t k bank reads faults s) := by
  unfold codeCycle
  extract_lets v1
  exact Within.fold h (fun _ _ h4 => chunkFault_within (hm.of ⟨rfl⟩) h4)

theorem consumePoison_within {ps : List Area} {s0 : State} {t : Nat} {k : Nat} {owner : Nat} {poisoned : Bool}
    {s : State} (hm : Sub [.parts] ps) (h : Within ps s0 s) :
    Within ps s0 (consumePoison t k owner poisoned s) := by
  unfold consumePoison
  exact Within.ite (fun _ => setTaskFlags_within (hm.of ⟨rfl⟩) h) (fun _ => h)

theorem doRead_within {ps : List Area} {s0 : State} {t : Nat} {k : Nat} {a : SpadAccess} {lost : List Nat}
    {busy : Bool} {s : State} (hm : Sub [.free, .spad, .parts] ps) (h : Within ps s0 s) :
    Within ps s0 (doRead t k a lost busy s) := by
  unfold doRead
  split
  · exact h
  · extract_lets v6 v7
    split
    · rename_i y11
      refine Within.ofPair1 (ps := ps) (a := s0) y11 ?_ (fun h12 => ?_)
      · split
        · dsimp only
          exact h
        · exact drawBytes_within (hm.of ⟨rfl⟩) h
      extract_lets v15 v16 v17
      exact consumePoison_within (hm.of ⟨rfl⟩) (Within.put h12)

theorem netWrite_within {ps : List Area} {s0 : State} {t : Nat} {k : Nat} {a : SpadAccess} {s : State}
    (hm : Sub [.free, .counters, .events, .spad, .parts, .clk, .pow] ps) (h : Within ps s0 s) :
    Within ps s0 (netWrite t k a s) := by
  unfold netWrite
  split
  · exact h
  · refine Within.ite (fun _ => ?_) (fun _ => ?_)
    · exact h
    · split
      · exact h
      · extract_lets v12 v13
        refine Within.mid (ps := ps) (a := s0) v13 ?_ (fun h14 => ?_)
        · unfold v13
          exact Within.fold h (fun _ _ h17 => crossLine_within (hm.of ⟨rfl⟩) h17)
        clear_value v13
        split
        · rename_i y21
          refine Within.ofPair1 (ps := ps) (a := s0) y21 ?_ (fun h22 => ?_)
          · split
            · exact drawBytes_within (hm.of ⟨rfl⟩) h14
            · dsimp only
              exact h14
          extract_lets v25
          refine Within.mid (ps := ps) (a := s0) v25 ?_ (fun h26 => ?_)
          · unfold v25
            exact spadWrite_within (hm.of ⟨rfl⟩) h22
          clear_value v25
          exact Within.fold h26 (fun _ _ h29 => Within.ite (fun _ => Within.put h29) (fun _ => h29))

theorem doWrite_within {ps : List Area} {s0 : State} {t : Nat} {k : Nat} {a : SpadAccess} {s : State}
    (hm : Sub [.free, .counters, .events, .spad, .parts, .clk, .pow] ps) (h : Within ps s0 s) :
    Within ps s0 (doWrite t k a s) := by
  unfold doWrite
  split
  · exact h
  · exact Within.ite (fun _ => netWrite_within (hm.of ⟨rfl⟩) h) (fun _ => spadWrite_within (hm.of ⟨rfl⟩) h)

theorem busyWrite_within {ps : List Area} {s0 : State} {a : SpadAccess} {s : State} (hm : Sub [.spad] ps)
    (h : Within ps s0 s) :
    Within ps s0 (busyWrite a s) := by
  unfold busyWrite
  exact Within.put h

theorem pairCycle_within {ps : List Area} {s0 : State} {t : Nat} {k : Nat} {bank : Nat} {a : SpadAccess}
    {b : SpadAccess} {s : State} (hm : Sub [.free, .counters, .events, .spad, .parts, .clk, .pow] ps)
    (h : Within ps s0 s) :
    Within ps s0 (pairCycle t k bank a b s) := by
  unfold pairCycle
  extract_lets v1 v2 v3 v4 v5
  refine Within.mid (ps := ps) (a := s0) v2 ?_ (fun h6 => ?_)
  · unfold v2
    exact raise_within (hm.of ⟨rfl⟩) (count32_within (hm.of ⟨rfl⟩) h)
  clear_value v2
  refine Within.mid (ps := ps) (a := s0) v3 ?_ (fun h7 => ?_)
  · unfold v3
    exact doRead_within (hm.of ⟨rfl⟩) (doWrite_within (hm.of ⟨rfl⟩) h6)
  clear_value v3
  refine Within.mid (ps := ps) (a := s0) v5 ?_ (fun h8 => ?_)
  · unfold v5
    exact Within.put h7
  clear_value v5
  refine Within.ite (fun _ => ?_) (fun _ => ?_)
  · refine doRead_within (hm.of ⟨rfl⟩) ?_
    exact doWrite_within (hm.of ⟨rfl⟩) (doRead_within (hm.of ⟨rfl⟩) (doWrite_within (hm.of ⟨rfl⟩) h))
  · refine Within.ite (fun _ => ?_) (fun _ => ?_)
    · exact Within.ite (fun _ => h8) (fun _ => stallRegion_within (hm.of ⟨rfl⟩) h8)
    · refine busyWrite_within (hm.of ⟨rfl⟩) ?_
      exact doWrite_within (hm.of ⟨rfl⟩) (doRead_within (hm.of ⟨rfl⟩) (doWrite_within (hm.of ⟨rfl⟩) h6))

theorem dualCycle_within {ps : List Area} {s0 : State} {t : Nat} {k : Nat} {bank : Nat} {a : List SpadAccess}
    {b : List SpadAccess} {faults : List ChunkFault} {s : State}
    (hm : Sub [.free, .counters, .events, .spad, .parts, .clk, .pow] ps) (h : Within ps s0 s) :
    Within ps s0 (dualCycle t k bank a b faults s) := by
  unfold dualCycle
  extract_lets v1
  split
  · rename_i y5
    refine Within.ofPair1 (ps := ps) (a := s0) y5 ?_ (fun h6 => ?_)
    · exact arbitratePort_within (hm.of ⟨rfl⟩) h
    split
    · extract_lets v10 v11 v12 v13
      refine Within.mid (ps := ps) (a := s0) v11 ?_ (fun h14 => ?_)
      · unfold v11
        exact holdPort_within (hm.of ⟨rfl⟩) (Within.put h6)
      clear_value v11
      refine Within.mid (ps := ps) (a := s0) v12 ?_ (fun h15 => ?_)
      · unfold v12
        exact codeCycle_within (hm.of ⟨rfl⟩) h14
      clear_value v12
      refine Within.mid (ps := ps) (a := s0) v13 ?_ (fun h16 => ?_)
      · unfold v13
        split
        · refine Within.ofPair1 (ps := ps) (a := s0) y5 ?_ (fun h20 => ?_)
          · exact arbitratePort_within (hm.of ⟨rfl⟩) h
          exact h15
        · refine Within.ofPair1 (ps := ps) (a := s0) y5 ?_ (fun h25 => ?_)
          · exact arbitratePort_within (hm.of ⟨rfl⟩) h
          exact doRead_within (hm.of ⟨rfl⟩) (doWrite_within (hm.of ⟨rfl⟩) h15)
      clear_value v13
      exact doRead_within (hm.of ⟨rfl⟩) h16
    · split
      · rename_i y31
        refine Within.ofPair1 (ps := ps) (a := s0) y31 ?_ (fun h32 => ?_)
        · exact arbitratePort_within (hm.of ⟨rfl⟩) h6
        extract_lets v33
        refine Within.mid (ps := ps) (a := s0) v33 ?_ (fun h34 => ?_)
        · unfold v33
          exact codeCycle_within (hm.of ⟨rfl⟩) h32
        clear_value v33
        split
        · refine Within.ofPair1 (ps := ps) (a := s0) y5 ?_ (fun h39 => ?_)
          · exact arbitratePort_within (hm.of ⟨rfl⟩) h
          refine Within.ofPair1 (ps := ps) (a := s0) y31 ?_ (fun h40 => ?_)
          · exact arbitratePort_within (hm.of ⟨rfl⟩) h6
          exact h34
        · refine Within.ofPair1 (ps := ps) (a := s0) y5 ?_ (fun h46 => ?_)
          · exact arbitratePort_within (hm.of ⟨rfl⟩) h
          refine Within.ofPair1 (ps := ps) (a := s0) y31 ?_ (fun h47 => ?_)
          · exact arbitratePort_within (hm.of ⟨rfl⟩) h6
          exact doRead_within (hm.of ⟨rfl⟩) (doWrite_within (hm.of ⟨rfl⟩) h34)
        · refine Within.ofPair1 (ps := ps) (a := s0) y5 ?_ (fun h53 => ?_)
          · exact arbitratePort_within (hm.of ⟨rfl⟩) h
          refine Within.ofPair1 (ps := ps) (a := s0) y31 ?_ (fun h54 => ?_)
          · exact arbitratePort_within (hm.of ⟨rfl⟩) h6
          exact doRead_within (hm.of ⟨rfl⟩) (doWrite_within (hm.of ⟨rfl⟩) h34)
        · refine Within.ofPair1 (ps := ps) (a := s0) y5 ?_ (fun h61 => ?_)
          · exact arbitratePort_within (hm.of ⟨rfl⟩) h
          refine Within.ofPair1 (ps := ps) (a := s0) y31 ?_ (fun h62 => ?_)
          · exact arbitratePort_within (hm.of ⟨rfl⟩) h6
          exact pairCycle_within (hm.of ⟨rfl⟩) h34

theorem bankCycle_within {ps : List Area} {s0 : State} {t : Nat} {k : Nat} {bank : Nat}
    {portA : List SpadAccess} {portB : List SpadAccess} {faults : List ChunkFault} {s : State}
    (hm : Sub [.free, .counters, .events, .spad, .parts, .clk, .pow] ps) (h : Within ps s0 s) :
    Within ps s0 (bankCycle t k bank portA portB faults s) := by
  unfold bankCycle
  extract_lets v1 v2 v3 v4 v5 v6 v7 v8
  refine Within.mid (ps := ps) (a := s0) v6 ?_ (fun h9 => ?_)
  · unfold v6
    exact Within.put h
  clear_value v6
  refine Within.ite (fun _ => ?_) (fun _ => ?_)
  · exact h
  · refine Within.ite (fun _ => ?_) (fun _ => ?_)
    · exact dualCycle_within (hm.of ⟨rfl⟩) h9
    · split
      · rename_i y13
        refine Within.ofPair1 (ps := ps) (a := s0) y13 ?_ (fun h14 => ?_)
        · exact arbitratePort_within (hm.of ⟨rfl⟩) h9
        extract_lets v15
        refine Within.mid (ps := ps) (a := s0) v15 ?_ (fun h16 => ?_)
        · unfold v15
          exact codeCycle_within (hm.of ⟨rfl⟩) h14
        clear_value v15
        split
        · refine Within.ofPair1 (ps := ps) (a := s0) y13 ?_ (fun h19 => ?_)
          · exact arbitratePort_within (hm.of ⟨rfl⟩) h9
          exact h16
        · refine Within.ofPair1 (ps := ps) (a := s0) y13 ?_ (fun h23 => ?_)
          · exact arbitratePort_within (hm.of ⟨rfl⟩) h9
          exact doRead_within (hm.of ⟨rfl⟩) (doWrite_within (hm.of ⟨rfl⟩) h16)

theorem execScratchpadRead_within {ps : List Area} {s0 : State} {tower : Tower} {cluster : Cluster}
    {bank : Fin 56} {portA : List SpadAccess} {portB : List SpadAccess} {faults : List ChunkFault} {s : State}
    (hm : Sub [.free, .counters, .events, .spad, .parts, .clk, .pow] ps) (h : Within ps s0 s) :
    OutWithin ps s0 (execScratchpadRead tower cluster bank portA portB faults s) := by
  unfold execScratchpadRead
  exact OutWithin.next (bankCycle_within (hm.of ⟨rfl⟩) h)

theorem execSpadAddressFault_within {ps : List Area} {s0 : State} {tower : Tower} {cluster : Cluster}
    {address : BitVec 28} {s : State} (hm : Sub [.events, .parts, .dma, .host] ps) (h : Within ps s0 s) :
    OutWithin ps s0 (execSpadAddressFault tower cluster address s) := by
  unfold execSpadAddressFault
  refine OutWithin.next ?_
  exact Within.ite (fun _ => h) (fun _ => faultTaskOn_within (hm.of ⟨rfl⟩) (raise_within (hm.of ⟨rfl⟩) h))

theorem routeParity_within {ps : List Area} {s0 : State} {t : Nat} {k : Nat} {entry : Nat} {s : State}
    (hm : Sub [.events, .spad, .parts, .dma, .host] ps) (h : Within ps s0 s) :
    Within ps s0 (routeParity t k entry s) := by
  unfold routeParity
  split
  · exact h
  · extract_lets v6 v7
    exact faultTaskOn_within (hm.of ⟨rfl⟩) (raise_within (hm.of ⟨rfl⟩) (Within.put h))

theorem execRouteParityFail_within {ps : List Area} {s0 : State} {tower : Tower} {cluster : Cluster}
    {entry : Fin 2048} {s : State} (hm : Sub [.events, .spad, .parts, .dma, .host] ps) (h : Within ps s0 s) :
    OutWithin ps s0 (execRouteParityFail tower cluster entry s) := by
  unfold execRouteParityFail
  exact OutWithin.next (routeParity_within (hm.of ⟨rfl⟩) h)

theorem clearCluster_within {ps : List Area} {s0 : State} {t : Nat} {k : Nat} {s : State} (hm : Sub [.spad] ps)
    (h : Within ps s0 s) :
    Within ps s0 (clearCluster t k s) := by
  unfold clearCluster
  extract_lets v1 v2
  exact Within.put h

theorem clearRetiredAct_within {ps : List Area} {s0 : State} {a0 : Bytes} {a1 : State} (hm : Sub [.spad] ps)
    (h : Within ps s0 a1) :
    WWithin ps s0 (clearRetiredAct a0 a1) := by
  unfold clearRetiredAct
  extract_lets v1 v2
  split
  · exact .refuse
  · split
    · exact .refuse
    · exact WWithin.done (Within.put h)

theorem execClearRetiredBanks_within {ps : List Area} {s0 : State} {req : Req} {value : Bytes} {s : State}
    (hm : Sub [.events, .om, .spad] ps) (h : Within ps s0 s) :
    OutWithin ps s0 (execClearRetiredBanks req value s) := by
  unfold execClearRetiredBanks
  refine OutWithin.next ?_
  refine serveWrite_within (hm.of ⟨rfl⟩) ?_ ?_
  · intro x1 s2 h3
    exact clearRetiredAct_within (hm.of ⟨rfl⟩) h3
  · exact h

theorem undefineUnit_within {ps : List Area} {s0 : State} {u : Nat} {s : State} (hm : Sub [.free, .spad] ps)
    (h : Within ps s0 s) :
    Within ps s0 (undefineUnit u s) := by
  unfold undefineUnit
  exact Within.put h

end Sys2Proof.Machine
end

