-- ==== Sys2Proof/Laws/WithinTranslate.lean ====
section
/-! SUPPORT. Which parts of the state the operations of Machine/Translate.lean can write: one lemma for each. -/

set_option Elab.async false

namespace Sys2Proof.Machine

theorem worldDenied_within {ps : List Area} {s0 : State} {tower : Option Nat} {partition : Option Nat}
    {function : Option Nat} {port : Option Nat} {address : Option Nat} {secure : Bool} {s : State}
    (hm : Sub [.counters, .events] ps) (h : Within ps s0 s) :
    Within ps s0 (worldDenied tower partition function port address secure s) := by
  unfold worldDenied
  exact raise_within (hm.of ⟨rfl⟩) (count32_within (hm.of ⟨rfl⟩) h)

theorem readEntry_within {ps : List Area} {s0 : State} {t : Nat} {p : Nat} {a : Nat} {s : State}
    (hm : Sub [.counters, .events, .dram] ps) (h : Within ps s0 s) :
    Within ps s0 (readEntry t p a s).2 := by
  unfold readEntry
  extract_lets v1
  split
  · dsimp only
    exact h
  · split
    · dsimp only
      exact worldDenied_within (hm.of ⟨rfl⟩) h
    · split
      · dsimp only
        exact h
      · split
        · rename_i y12
          refine Within.ofPair2 (ps := ps) (a := s0) y12 ?_ (fun h13 => ?_)
          · exact readLine_within (hm.of ⟨rfl⟩) h
          split
          · dsimp only
            exact h13
          · dsimp only
            exact h13

theorem readTable_within {ps : List Area} {s0 : State} {t : Nat} {p : Nat} {a : Nat} {level : Nat} {far : Far}
    {s : State} (hm : Sub [.counters, .events, .dram] ps) (h : Within ps s0 s) :
    Within ps s0 (readTable t p a level far s).2 := by
  unfold readTable
  extract_lets v1
  split
  · exact readEntry_within (hm.of ⟨rfl⟩) h
  · split
    · exact readEntry_within (hm.of ⟨rfl⟩) h
    · split
      · dsimp only
        exact h
      · split
        · dsimp only
          exact h
        · dsimp only
          exact h

theorem dropWalk_within {ps : List Area} {s0 : State} {t : Nat} {p : Nat} {level : Nat} {index : Nat}
    {s : State} (hm : Sub [.dma] ps) (h : Within ps s0 s) :
    Within ps s0 (dropWalk t p level index s) := by
  unfold dropWalk
  exact Within.put h

theorem poisonedTable_within {ps : List Area} {s0 : State} {t : Nat} {p : Nat} {va : Nat} {level : Nat}
    {s : State} (hm : Sub [.dma] ps) (h : Within ps s0 s) :
    Within ps s0 (poisonedTable t p va level s) := by
  unfold poisonedTable
  exact dropWalk_within (hm.of ⟨rfl⟩) h

theorem readLast_within {ps : List Area} {s0 : State} {t : Nat} {p : Nat} {va : Nat} {table : Nat} {far : Far}
    {s : State} (hm : Sub [.counters, .events, .dma, .dram] ps) (h : Within ps s0 s) :
    Within ps s0 (readLast t p va table far s).2 := by
  unfold readLast
  split
  · rename_i y4
    refine Within.ofPair1 (ps := ps) (a := s0) y4 ?_ (fun h5 => ?_)
    · exact readTable_within (hm.of ⟨rfl⟩) h
    split
    · refine Within.ofPair1 (ps := ps) (a := s0) y4 ?_ (fun h10 => ?_)
      · exact readTable_within (hm.of ⟨rfl⟩) h
      dsimp only
      exact poisonedTable_within (hm.of ⟨rfl⟩) h5
    · refine Within.ofPair1 (ps := ps) (a := s0) y4 ?_ (fun h15 => ?_)
      · exact readTable_within (hm.of ⟨rfl⟩) h
      dsimp only
      exact h5
    · refine Within.ofPair1 (ps := ps) (a := s0) y4 ?_ (fun h19 => ?_)
      · exact readTable_within (hm.of ⟨rfl⟩) h
      split
      · dsimp only
        exact h5
      · split
        · dsimp only
          exact h5
        · dsimp only
          exact h5

theorem cachePut_within {ps : List Area} {s0 : State} {α : Type} [DecidableEq α] {cap : Nat} {x : α}
    {xs : List α} {s : State} (hm : Sub [.free] ps) (h : Within ps s0 s) :
    Within ps s0 (cachePut cap x xs s).2 := by
  unfold cachePut
  split
  · dsimp only
    exact h
  · split
    · dsimp only
      exact h
    · split
      · rename_i y8
        refine Within.ofPair1 (ps := ps) (a := s0) y8 ?_ (fun h9 => ?_)
        · exact draw_within (hm.of ⟨rfl⟩) h
        dsimp only
        exact h9

theorem keepWalk_within {ps : List Area} {s0 : State} {t : Nat} {w : WalkLine} {s : State}
    (hm : Sub [.free, .dma] ps) (h : Within ps s0 s) :
    Within ps s0 (keepWalk t w s) := by
  unfold keepWalk
  split
  · rename_i y4
    refine Within.ofPair1 (ps := ps) (a := s0) y4 ?_ (fun h5 => ?_)
    · exact cachePut_within (hm.of ⟨rfl⟩) h
    exact Within.put h5

theorem walkFrom_within {ps : List Area} {s0 : State} {t : Nat} {p : Nat} {va : Nat} {far : Far} {a4 : Nat}
    {a5 : Nat} {a6 : State} (hm : Sub [.free, .counters, .events, .dma, .dram] ps) (h : Within ps s0 a6) :
    Within ps s0 (walkFrom t p va far a4 a5 a6).2 := by
  induction a4 generalizing t p va far a5 a6 h
  · rw [walkFrom]
    exact readLast_within (hm.of ⟨rfl⟩) h
  · rename_i ih2
    rw [walkFrom]
    split
    · exact ih2 h
    · split
      · rename_i y11
        refine Within.ofPair1 (ps := ps) (a := s0) y11 ?_ (fun h12 => ?_)
        · exact readTable_within (hm.of ⟨rfl⟩) h
        split
        · refine Within.ofPair1 (ps := ps) (a := s0) y11 ?_ (fun h17 => ?_)
          · exact readTable_within (hm.of ⟨rfl⟩) h
          dsimp only
          exact poisonedTable_within (hm.of ⟨rfl⟩) h12
        · refine Within.ofPair1 (ps := ps) (a := s0) y11 ?_ (fun h22 => ?_)
          · exact readTable_within (hm.of ⟨rfl⟩) h
          dsimp only
          exact h12
        · refine Within.ofPair1 (ps := ps) (a := s0) y11 ?_ (fun h26 => ?_)
          · exact readTable_within (hm.of ⟨rfl⟩) h
          split
          · dsimp only
            exact h12
          · split
            · split
              · dsimp only
                exact h12
              · dsimp only
                exact h12
            · split
              · dsimp only
                exact h12
              · split
                · split
                  · exact ih2 (keepWalk_within (hm.of ⟨rfl⟩) h12)
                  · dsimp only
                    exact h12
                · dsimp only
                  exact h12

theorem walk_within {ps : List Area} {s0 : State} {t : Nat} {p : Nat} {va : Nat} {engine : Option Nat}
    {far : Far} {s : State} (hm : Sub [.free, .counters, .events, .dma, .dram] ps) (h : Within ps s0 s) :
    Within ps s0 (walk t p va engine far s).2 := by
  unfold walk
  extract_lets v1 v2 v3
  refine Within.mid (ps := ps) (a := s0) v1 ?_ (fun h4 => ?_)
  · unfold v1
    split
    · exact h
    · exact count64_within (hm.of ⟨rfl⟩) h
  clear_value v1
  split
  · dsimp only
    exact h4
  · split
    · dsimp only
      exact h4
    · split
      · dsimp only
        exact h4
      · split
        · rename_i y25
          refine Within.ofPair1 (ps := ps) (a := s0) y25 ?_ (fun h26 => ?_)
          · exact walkFrom_within (hm.of ⟨rfl⟩) h4
          split
          · refine Within.ofPair1 (ps := ps) (a := s0) y25 ?_ (fun h30 => ?_)
            · exact walkFrom_within (hm.of ⟨rfl⟩) h4
            dsimp only
            exact raise_within (hm.of ⟨rfl⟩) h26
          · dsimp only
            exact h26

theorem keepLeaf_within {ps : List Area} {s0 : State} {t : Nat} {l : Leaf} {s : State}
    (hm : Sub [.free, .dma] ps) (h : Within ps s0 s) :
    Within ps s0 (keepLeaf t l s) := by
  unfold keepLeaf
  split
  · rename_i y4
    refine Within.ofPair1 (ps := ps) (a := s0) y4 ?_ (fun h5 => ?_)
    · exact cachePut_within (hm.of ⟨rfl⟩) h
    exact Within.put h5

theorem walkAndCheck_within {ps : List Area} {s0 : State} {t : Nat} {p : Nat} {va : Nat} {kind : Kind}
    {engine : Option Nat} {far : Far} {s : State} (hm : Sub [.free, .counters, .events, .dma, .dram] ps)
    (h : Within ps s0 s) :
    Within ps s0 (walkAndCheck t p va kind engine far s).2 := by
  unfold walkAndCheck
  split
  · rename_i y4
    refine Within.ofPair1 (ps := ps) (a := s0) y4 ?_ (fun h5 => ?_)
    · exact walk_within (hm.of ⟨rfl⟩) h
    split
    · refine Within.ofPair1 (ps := ps) (a := s0) y4 ?_ (fun h9 => ?_)
      · exact walk_within (hm.of ⟨rfl⟩) h
      dsimp only
      exact h5
    · refine Within.ofPair1 (ps := ps) (a := s0) y4 ?_ (fun h14 => ?_)
      · exact walk_within (hm.of ⟨rfl⟩) h
      extract_lets v15
      refine Within.mid (ps := ps) (a := s0) v15 ?_ (fun h16 => ?_)
      · unfold v15
        exact keepLeaf_within (hm.of ⟨rfl⟩) h5
      clear_value v15
      dsimp only
      exact h16

theorem translateNow_within {ps : List Area} {s0 : State} {t : Nat} {p : Nat} {va : Nat} {kind : Kind}
    {s : State} (hm : Sub [.free, .counters, .events, .dma, .dram] ps) (h : Within ps s0 s) :
    Within ps s0 (translateNow t p va kind s).2 := by
  unfold translateNow
  split
  · exact walkAndCheck_within (hm.of ⟨rfl⟩) h
  · dsimp only
    exact h

end Sys2Proof.Machine
end

