-- ==== Sys2Proof/Laws/WithinDmaOps.lean ====
section
/-! SUPPORT. Which parts of the state the operations of Machine/DmaOps.lean can write: one lemma for each. -/

set_option Elab.async false

namespace Sys2Proof.Machine

theorem putDesc_within {ps : List Area} {s0 : State} {k : Nat} {i : Nat} {d : Desc} {s : State}
    (hm : Sub [.dma] ps) (h : Within ps s0 s) :
    Within ps s0 (putDesc k i d s) := by
  unfold putDesc
  exact Within.put h

theorem changeDesc_within {ps : List Area} {s0 : State} {k : Nat} {i : Nat} {f : Desc → Desc} {s : State}
    (hm : Sub [.dma] ps) (h : Within ps s0 s) :
    Within ps s0 (changeDesc k i f s) := by
  unfold changeDesc
  split
  · exact h
  · exact putDesc_within (hm.of ⟨rfl⟩) h

theorem activate_within {ps : List Area} {s0 : State} {k : Nat} {s : State} (hm : Sub [.dma] ps)
    (h : Within ps s0 s) :
    Within ps s0 (activate k s) := by
  unfold activate
  exact Within.fold h (fun _ _ h3 => changeDesc_within (hm.of ⟨rfl⟩) h3)

theorem finishDesc_within {ps : List Area} {s0 : State} {k : Nat} {i : Nat} {code : Nat} {s : State}
    (hm : Sub [.dma] ps) (h : Within ps s0 s) :
    Within ps s0 (finishDesc k i code s) := by
  unfold finishDesc
  exact changeDesc_within (hm.of ⟨rfl⟩) h

theorem advanceCursor_within {ps : List Area} {s0 : State} {k : Nat} {i : Nat} {n : Nat} {s : State}
    (hm : Sub [.dma] ps) (h : Within ps s0 s) :
    Within ps s0 (advanceCursor k i n s) := by
  unfold advanceCursor
  split
  · exact h
  · extract_lets v6 v7
    refine Within.ite (fun _ => ?_) (fun _ => ?_)
    · exact putDesc_within (hm.of ⟨rfl⟩) h
    · exact Within.ite (fun _ => putDesc_within (hm.of ⟨rfl⟩) h) (fun _ => putDesc_within (hm.of ⟨rfl⟩) h)

theorem keepPage_within {ps : List Area} {s0 : State} {k : Nat} {i : Nat} {va : Nat} {s : State}
    (hm : Sub [.dma] ps) (h : Within ps s0 s) :
    Within ps s0 (keepPage k i va s) := by
  unfold keepPage
  exact changeDesc_within (hm.of ⟨rfl⟩) h

theorem loseFault_within {ps : List Area} {s0 : State} {p : Nat} {t : Nat} {tag : Option (BitVec 16)}
    {e : Option Nat} {s : State} (hm : Sub [.counters, .events, .dma] ps) (h : Within ps s0 s) :
    Within ps s0 (loseFault p t tag e s) := by
  unfold loseFault
  exact raise_within (hm.of ⟨rfl⟩) (count32_within (hm.of ⟨rfl⟩) (Within.put h))

theorem recordTag_within {ps : List Area} {s0 : State} {p : Nat} {s : State} (hm : Sub [.dma] ps)
    (h : Within ps s0 s) :
    Within ps s0 (recordTag p s).2 := by
  unfold recordTag
  extract_lets v1 v2 v3
  dsimp only
  exact Within.put h

theorem writeFaultRecord_within {ps : List Area} {s0 : State} {r : FaultRecord} {expects : Bool} {during : Bool}
    {s : State} (hm : Sub [.events, .dma, .host] ps) (h : Within ps s0 s) :
    Within ps s0 (writeFaultRecord r expects during s) := by
  unfold writeFaultRecord
  extract_lets v1 v2 v3 v4 v5 v6
  refine Within.mid (ps := ps) (a := s0) v3 ?_ (fun h7 => ?_)
  · unfold v3
    exact postWrite_within (hm.of ⟨rfl⟩) h
  clear_value v3
  refine Within.mid (ps := ps) (a := s0) v5 ?_ (fun h8 => ?_)
  · unfold v5
    exact Within.put h7
  clear_value v5
  refine Within.mid (ps := ps) (a := s0) v6 ?_ (fun h9 => ?_)
  · unfold v6
    exact writeShadow_within (hm.of ⟨rfl⟩) (changeQueue_within (hm.of ⟨rfl⟩) h8)
  clear_value v6
  exact signalFault_within (hm.of ⟨rfl⟩) (raise_within (hm.of ⟨rfl⟩) h9)

theorem parkDesc_within {ps : List Area} {s0 : State} {k : Nat} {i : Nat} {va : Nat} {cause : Nat} {level : Nat}
    {kind : Kind} {remote : Nat} {s : State} (hm : Sub [.counters, .events, .dma, .host] ps)
    (h : Within ps s0 s) :
    Within ps s0 (parkDesc k i va cause level kind remote s) := by
  unfold parkDesc
  split
  · exact h
  · extract_lets v6 v7 v8 v9 v10 v11 v12 v13 v14 v15
    refine Within.mid (ps := ps) (a := s0) v14 ?_ (fun h16 => ?_)
    · unfold v14
      exact finishDesc_within (hm.of ⟨rfl⟩) (putDesc_within (hm.of ⟨rfl⟩) h)
    clear_value v14
    refine Within.ite (fun _ => ?_) (fun _ => ?_)
    · refine Within.ite (fun _ => ?_) (fun _ => ?_)
      · exact loseFault_within (hm.of ⟨rfl⟩) h16
      · split
        · rename_i y20
          refine Within.ofPair1 (ps := ps) (a := s0) y20 ?_ (fun h21 => ?_)
          · exact recordTag_within (hm.of ⟨rfl⟩) h16
          exact writeFaultRecord_within (hm.of ⟨rfl⟩) h21
    · split
      · simp only [v10]
        exact putDesc_within (hm.of ⟨rfl⟩) (Within.put h)
      · refine Within.ite (fun _ => ?_) (fun _ => ?_)
        · split
          · rename_i y30
            refine Within.ofPair1 (ps := ps) (a := s0) y30 ?_ (fun h31 => ?_)
            · exact recordTag_within (hm.of ⟨rfl⟩) h
            simp only [v10]
            exact putDesc_within (hm.of ⟨rfl⟩) (Within.put h31)
        · refine Within.ite (fun _ => ?_) (fun _ => ?_)
          · exact finishDesc_within (hm.of ⟨rfl⟩) (putDesc_within (hm.of ⟨rfl⟩) (loseFault_within (hm.of ⟨rfl⟩) h))
          · split
            · rename_i y35
              refine Within.ofPair1 (ps := ps) (a := s0) y35 ?_ (fun h36 => ?_)
              · exact recordTag_within (hm.of ⟨rfl⟩) h
              simp only [v10]
              exact putDesc_within (hm.of ⟨rfl⟩) (writeFaultRecord_within (hm.of ⟨rfl⟩) (Within.put h36))

theorem waitFor_within {ps : List Area} {s0 : State} {k : Nat} {i : Nat} {w : Wait} {s : State}
    (hm : Sub [.dma] ps) (h : Within ps s0 s) :
    Within ps s0 (waitFor k i w s) := by
  unfold waitFor
  exact changeDesc_within (hm.of ⟨rfl⟩) h

theorem withSide_within {ps : List Area} {s0 : State} {k : Nat} {i : Nat} {d : Desc} {spad : Bool} {va : Nat}
    {kind : Kind} {go : Nat → Nat → Bool → State → State} {s : State}
    (hm : Sub [.counters, .events, .dma, .host] ps)
    (h_go : ∀ (z0 : Nat) (z1 : Nat) (z2 : Bool) (z3 : State), Within ps s0 z3 → Within ps s0 (go z0 z1 z2 z3))
    (h : Within ps s0 s) :
    Within ps s0 (withSide k i d spad va kind go s) := by
  unfold withSide
  extract_lets v1
  refine Within.mid (ps := ps) (a := s0) v1 ?_ (fun h2 => ?_)
  · unfold v1
    exact changeDesc_within (hm.of ⟨rfl⟩) h
  clear_value v1
  split
  · exact h_go _ _ _ _ (Within.ite (fun _ => h2) (fun _ => keepPage_within (hm.of ⟨rfl⟩) h2))
  · exact finishDesc_within (hm.of ⟨rfl⟩) h2
  · exact parkDesc_within (hm.of ⟨rfl⟩) h2
  · exact waitFor_within (hm.of ⟨rfl⟩) h2

theorem atomicDone_within {ps : List Area} {s0 : State} {k : Nat} {i : Nat} {code : Nat} {old : Nat} {s : State}
    (hm : Sub [.spad, .dma] ps) (h : Within ps s0 s) :
    Within ps s0 (atomicDone k i code old s) := by
  unfold atomicDone
  split
  · exact h
  · extract_lets v6
    refine Within.mid (ps := ps) (a := s0) v6 ?_ (fun h7 => ?_)
    · unfold v6
      exact Within.ite (fun _ => h) (fun _ => spadWrite_within (hm.of ⟨rfl⟩) h)
    clear_value v6
    exact advanceCursor_within (hm.of ⟨rfl⟩) (changeDesc_within (hm.of ⟨rfl⟩) h7)

theorem waitForBase_within {ps : List Area} {s0 : State} {k : Nat} {i : Nat} {b : Nat} {s : State}
    (hm : Sub [.dma] ps) (h : Within ps s0 s) :
    Within ps s0 (waitForBase k i b s) := by
  unfold waitForBase
  exact Within.ite (fun _ => finishDesc_within (hm.of ⟨rfl⟩) h) (fun _ => waitFor_within (hm.of ⟨rfl⟩) h)

theorem hostRequest_within {ps : List Area} {s0 : State} {d : Desc} {a : Nat} {len : Nat} {for_ : ReadFor}
    {s : State} (hm : Sub [.host] ps) (h : Within ps s0 s) :
    Within ps s0 (hostRequest d a len for_ s).2 := by
  unfold hostRequest
  extract_lets v1 v2
  dsimp only
  exact Within.put h

theorem reissueHeld_within {ps : List Area} {s0 : State} {k : Nat} {i : Nat} {r : FabricReq} {s : State}
    (hm : Sub [.free, .counters, .events, .om, .dma, .lanes, .ver, .fab] ps) (h : Within ps s0 s) :
    Within ps s0 (reissueHeld k i r s) := by
  unfold reissueHeld
  split
  · rename_i y4
    refine Within.ofPair1 (ps := ps) (a := s0) y4 ?_ (fun h5 => ?_)
    · exact chargeLimiter_within (hm.of ⟨rfl⟩) h
    split
    · rename_i y9
      refine Within.ofPair1 (ps := ps) (a := s0) y9 ?_ (fun h10 => ?_)
      · exact routePacket_within (hm.of ⟨rfl⟩) h5
      extract_lets v11 v12
      split
      · refine Within.ofPair1 (ps := ps) (a := s0) y9 ?_ (fun h16 => ?_)
        · exact routePacket_within (hm.of ⟨rfl⟩) h5
        exact finishDesc_within (hm.of ⟨rfl⟩) (fabricFailure_within (hm.of ⟨rfl⟩) h10)
      · refine Within.ofPair1 (ps := ps) (a := s0) y9 ?_ (fun h19 => ?_)
        · exact routePacket_within (hm.of ⟨rfl⟩) h5
        exact waitFor_within (hm.of ⟨rfl⟩) (Within.put h10)

theorem takeSequence_within {ps : List Area} {s0 : State} {target : Nat} {s : State} (hm : Sub [.fab] ps)
    (h : Within ps s0 s) :
    OptPairWithin ps s0 (takeSequence target s) := by
  unfold takeSequence
  extract_lets v1 v2 v3 v4
  split
  · exact OptPairWithin.none
  · refine OptPairWithin.some ?_
    dsimp only
    exact Within.put h

theorem takeTag_within {ps : List Area} {s0 : State} {key : Nat} {outstanding : BitVec 16 → Bool} {s : State}
    (hm : Sub [.dma] ps) (h : Within ps s0 s) :
    Within ps s0 (takeTag key outstanding s).2 := by
  unfold takeTag
  extract_lets v1 v2 v3
  dsimp only
  exact Within.put h

theorem fabricRequest_within {ps : List Area} {s0 : State} {k : Nat} {i : Nat} {d : Desc} {kind : Nat} {a : Nat}
    {enables : Nat} {atomic : Nat} {poison : Bool} {data : Bytes} {s : State}
    (hm : Sub [.free, .counters, .events, .om, .dma, .lanes, .ver, .fab] ps) (h : Within ps s0 s) :
    Within ps s0 (fabricRequest k i d kind a enables atomic poison data s) := by
  unfold fabricRequest
  extract_lets v1 v2 v3 v4
  split
  · exact finishDesc_within (hm.of ⟨rfl⟩) h
  · refine Within.ite (fun _ => ?_) (fun _ => ?_)
    · exact finishDesc_within (hm.of ⟨rfl⟩) h
    · refine Within.ite (fun _ => ?_) (fun _ => ?_)
      · exact finishDesc_within (hm.of ⟨rfl⟩) h
      · split
        · exact waitForBase_within (hm.of ⟨rfl⟩) h
        · split
          · exact reissueHeld_within (hm.of ⟨rfl⟩) h
          · unfold v4
            split
            · exact waitFor_within (hm.of ⟨rfl⟩) h
            · rename_i y25
              refine OptPairWithin.out (ps := ps) (a := s0) y25 ?_ (fun h26 => ?_)
              · split
                · exact takeSequence_within (hm.of ⟨rfl⟩) h
                · refine OptPairWithin.some ?_
                  dsimp only
                  exact h
              extract_lets v29
              split
              · rename_i y33
                refine Within.ofPair1 (ps := ps) (a := s0) y33 ?_ (fun h34 => ?_)
                · exact takeTag_within (hm.of ⟨rfl⟩) h26
                split
                · rename_i y38
                  refine Within.ofPair1 (ps := ps) (a := s0) y38 ?_ (fun h39 => ?_)
                  · exact chargeLimiter_within (hm.of ⟨rfl⟩) h34
                  extract_lets v40 v41
                  split
                  · rename_i y45
                    refine Within.ofPair1 (ps := ps) (a := s0) y45 ?_ (fun h46 => ?_)
                    · exact routePacket_within (hm.of ⟨rfl⟩) h39
                    split
                    · refine Within.ofPair1 (ps := ps) (a := s0) y45 ?_ (fun h50 => ?_)
                      · exact routePacket_within (hm.of ⟨rfl⟩) h39
                      exact finishDesc_within (hm.of ⟨rfl⟩) (fabricFailure_within (hm.of ⟨rfl⟩) h46)
                    · refine Within.ofPair1 (ps := ps) (a := s0) y45 ?_ (fun h53 => ?_)
                      · exact routePacket_within (hm.of ⟨rfl⟩) h39
                      exact waitFor_within (hm.of ⟨rfl⟩) (Within.put h46)

theorem retryLater_within {ps : List Area} {s0 : State} {k : Nat} {i : Nat} {s : State} (hm : Sub [.dma] ps)
    (h : Within ps s0 s) :
    Within ps s0 (retryLater k i s) := by
  unfold retryLater
  exact changeDesc_within (hm.of ⟨rfl⟩) h

theorem lineStop_within {ps : List Area} {s0 : State} {k : Nat} {i : Nat} {t : Nat} {u : Nat} {target : Nat}
    {a : Nat} {s : State} (hm : Sub [.dma] ps) (h : Within ps s0 s) :
    OptWithin ps s0 (lineStop k i t u target a s) := by
  unfold lineStop
  split
  · exact OptWithin.some (finishDesc_within (hm.of ⟨rfl⟩) h)
  · split
    · exact OptWithin.some (waitForBase_within (hm.of ⟨rfl⟩) h)
    · split
      · exact OptWithin.some (retryLater_within (hm.of ⟨rfl⟩) h)
      · split
        · refine OptWithin.some ?_
          exact Within.ite (fun _ => waitFor_within (hm.of ⟨rfl⟩) h) (fun _ => retryLater_within (hm.of ⟨rfl⟩) h)
        · split
          · exact OptWithin.some (waitFor_within (hm.of ⟨rfl⟩) h)
          · exact .none

theorem descDenied_within {ps : List Area} {s0 : State} {k : Nat} {i : Nat} {d : Desc} {u : Nat} {a : Nat}
    {s : State} (hm : Sub [.counters, .events, .dma] ps) (h : Within ps s0 s) :
    Within ps s0 (descDenied k i d u a s) := by
  unfold descDenied
  exact finishDesc_within (hm.of ⟨rfl⟩) (worldDenied_within (hm.of ⟨rfl⟩) h)

theorem sendOpen_within {ps : List Area} {s0 : State} {src : Nat} {dst : Nat} {p : OpenPacket} {class_ : Nat}
    {s : State} (hm : Sub [.free, .pho, .ver] ps) (h : Within ps s0 s) :
    Within ps s0 (sendOpen src dst p class_ s) := by
  unfold sendOpen
  exact Within.ite (fun _ => Within.put h) (fun _ => sendMesh_within (hm.of ⟨rfl⟩) h)

theorem openSend_within {ps : List Area} {s0 : State} {t : Nat} {requester : Nat} {d : Desc} {u : Nat}
    {kind : Nat} {lines : Nat} {a : Nat} {enables : Nat} {atomic : Nat} {poison : Bool} {data : Bytes}
    {s : State} (hm : Sub [.free, .dma, .pho, .ver] ps) (h : Within ps s0 s) :
    Within ps s0 (openSend t requester d u kind lines a enables atomic poison data s).2 := by
  unfold openSend
  extract_lets v1
  split
  · rename_i y5
    refine Within.ofPair1 (ps := ps) (a := s0) y5 ?_ (fun h6 => ?_)
    · exact takeTag_within (hm.of ⟨rfl⟩) h
    extract_lets v7 v8
    dsimp only
    exact sendOpen_within (hm.of ⟨rfl⟩) (Within.put h6)

theorem openRequest_within {ps : List Area} {s0 : State} {k : Nat} {i : Nat} {d : Desc} {u : Nat} {kind : Nat}
    {lines : Nat} {a : Nat} {enables : Nat} {atomic : Nat} {poison : Bool} {data : Bytes} {s : State}
    (hm : Sub [.free, .dma, .pho, .ver] ps) (h : Within ps s0 s) :
    Within ps s0 (openRequest k i d u kind lines a enables atomic poison data s) := by
  unfold openRequest
  split
  · rename_i y4
    refine Within.ofPair1 (ps := ps) (a := s0) y4 ?_ (fun h5 => ?_)
    · exact openSend_within (hm.of ⟨rfl⟩) h
    exact waitFor_within (hm.of ⟨rfl⟩) h5

theorem spadAtomic_within {ps : List Area} {s0 : State} {key : Nat} {f : Nat → Nat} {s : State}
    (hm : Sub [.spad] ps) (h : Within ps s0 s) :
    Within ps s0 (spadAtomic key f s).2.2 := by
  unfold spadAtomic
  extract_lets v1
  split
  · dsimp only
    exact h
  · dsimp only
    exact spadWrite_within (hm.of ⟨rfl⟩) h

theorem sendInvalidations_within {ps : List Area} {s0 : State} {a : Nat} {owedOpen : List (Nat × OpenPacket)}
    {owedFabric : List (BitVec 256 × Nat × Bytes)} {s : State}
    (hm : Sub [.free, .counters, .dma, .pho, .ver] ps) (h : Within ps s0 s) :
    Within ps s0 (sendInvalidations a owedOpen owedFabric s) := by
  unfold sendInvalidations
  extract_lets v1 v2 v3 v4 v5 v6
  refine Within.mid (ps := ps) (a := s0) v4 ?_ (fun h7 => ?_)
  · unfold v4
    exact count64_within (hm.of ⟨rfl⟩) h
  clear_value v4
  refine Within.mid (ps := ps) (a := s0) v6 ?_ (fun h8 => ?_)
  · unfold v6
    exact Within.put h7
  clear_value v6
  exact Within.fold h8 (fun _ _ h11 => sendMesh_within (hm.of ⟨rfl⟩) h11)

theorem waitInvalidations_within {ps : List Area} {s0 : State} {k : Nat} {i : Nat} {a : Nat} {s : State}
    (hm : Sub [.free, .counters, .dma, .pho, .ver] ps) (h : Within ps s0 s) :
    Within ps s0 (waitInvalidations k i a s) := by
  unfold waitInvalidations
  exact waitFor_within (hm.of ⟨rfl⟩) (sendInvalidations_within (hm.of ⟨rfl⟩) h)

theorem atomicSide_within {ps : List Area} {s0 : State} {k : Nat} {i : Nat} {d : Desc} {target : Nat} {a : Nat}
    {s : State}
    (hm : Sub [.free, .counters, .events, .om, .spad, .dma, .dram, .host, .pho, .lanes, .ver, .fab, .twin] ps)
    (h : Within ps s0 s) :
    Within ps s0 (atomicSide k i d target a s) := by
  unfold atomicSide
  extract_lets v1 v2 v3 v4 v5 v6 v7 v8 v9
  refine Within.ite (fun _ => ?_) (fun _ => ?_)
  · exact atomicDone_within (hm.of ⟨rfl⟩) h
  · split
    · split
      · exact finishDesc_within (hm.of ⟨rfl⟩) h
      · refine Within.ite (fun _ => ?_) (fun _ => ?_)
        · exact finishDesc_within (hm.of ⟨rfl⟩) h
        · split
          · exact waitForBase_within (hm.of ⟨rfl⟩) h
          · split
            · rename_i y24
              refine Within.ofPair1 (ps := ps) (a := s0) y24 ?_ (fun h25 => ?_)
              · exact hostRequest_within (hm.of ⟨rfl⟩) h
              refine waitFor_within (hm.of ⟨rfl⟩) ?_
              simp only [v7]
              exact changeDesc_within (hm.of ⟨rfl⟩) h25
    · refine fabricRequest_within (hm.of ⟨rfl⟩) ?_
      simp only [v7]
      exact changeDesc_within (hm.of ⟨rfl⟩) h
    · split
      · rename_i y32
        refine OptWithin.out (ps := ps) (a := s0) y32 ?_ (fun h33 => ?_)
        · exact lineStop_within (hm.of ⟨rfl⟩) h
        exact h33
      · refine Within.ite (fun _ => ?_) (fun _ => ?_)
        · exact descDenied_within (hm.of ⟨rfl⟩) h
        · refine Within.ite (fun _ => ?_) (fun _ => ?_)
          · refine openRequest_within (hm.of ⟨rfl⟩) ?_
            simp only [v7]
            exact changeDesc_within (hm.of ⟨rfl⟩) h
          · split
            · rename_i y40
              refine Within.ofPair2 (ps := ps) (a := s0) y40 ?_ (fun h41 => ?_)
              · split
                · exact spadAtomic_within (hm.of ⟨rfl⟩) h
                · exact atomicLine_within (hm.of ⟨rfl⟩) h
              refine Within.ite (fun _ => ?_) (fun _ => ?_)
              · exact atomicDone_within (hm.of ⟨rfl⟩) h41
              · refine waitInvalidations_within (hm.of ⟨rfl⟩) ?_
                refine changeDesc_within (hm.of ⟨rfl⟩) ?_
                simp only [v7]
                exact changeDesc_within (hm.of ⟨rfl⟩) h41

theorem rowMoveSide_within {ps : List Area} {s0 : State} {k : Nat} {i : Nat} {d : Desc} {va : Nat}
    {target : Nat} {a : Nat} {dst : Nat} {s : State}
    (hm : Sub [.counters, .events, .spad, .dma, .dram, .host] ps) (h : Within ps s0 s) :
    Within ps s0 (rowMoveSide k i d va target a dst s) := by
  unfold rowMoveSide
  extract_lets v1 v2 v3
  refine Within.mid (ps := ps) (a := s0) v3 ?_ (fun h4 => ?_)
  · unfold v3
    refine Within.fold ?_ (fun s5 x6 h7 => ?_)
    · exact h
    · split
      · rename_i y12
        refine Within.ofPair2 (ps := ps) (a := s0) y12 ?_ (fun h13 => ?_)
        · exact readLine_within (hm.of ⟨rfl⟩) h7
        exact spadWrite_within (hm.of ⟨rfl⟩) (changeDesc_within (hm.of ⟨rfl⟩) h13)
  clear_value v3
  refine Within.ite (fun _ => ?_) (fun _ => ?_)
  · exact parkDesc_within (hm.of ⟨rfl⟩) h
  · refine Within.ite (fun _ => ?_) (fun _ => ?_)
    · exact finishDesc_within (hm.of ⟨rfl⟩) h
    · split
      · rename_i y16
        refine OptWithin.out (ps := ps) (a := s0) y16 ?_ (fun h17 => ?_)
        · exact OptWithin.or (lineStop_within (hm.of ⟨rfl⟩) h) (lineStop_within (hm.of ⟨rfl⟩) h)
        exact h17
      · refine Within.ite (fun _ => ?_) (fun _ => ?_)
        · exact finishDesc_within (hm.of ⟨rfl⟩) h
        · refine Within.ite (fun _ => ?_) (fun _ => ?_)
          · exact descDenied_within (hm.of ⟨rfl⟩) h
          · refine Within.ite (fun _ => ?_) (fun _ => ?_)
            · exact descDenied_within (hm.of ⟨rfl⟩) h
            · exact advanceCursor_within (hm.of ⟨rfl⟩) h4

theorem lineData_within {ps : List Area} {s0 : State} {off : Nat} {data : Bytes} {s : State}
    (hm : Sub [.free] ps) (h : Within ps s0 s) :
    Within ps s0 (lineData off data s).2 := by
  unfold lineData
  split
  · rename_i y4
    refine Within.ofPair1 (ps := ps) (a := s0) y4 ?_ (fun h5 => ?_)
    · exact drawBytes_within (hm.of ⟨rfl⟩) h
    split
    · rename_i y9
      refine Within.ofPair1 (ps := ps) (a := s0) y9 ?_ (fun h10 => ?_)
      · exact drawBytes_within (hm.of ⟨rfl⟩) h5
      dsimp only
      exact h10

theorem writeOwn_within {ps : List Area} {s0 : State} {d : Desc} {a : Nat} {data : Bytes} {poisoned : Bool}
    {s : State} (hm : Sub [.counters, .events, .dram, .twin] ps) (h : Within ps s0 s) :
    Within ps s0 (writeOwn d a data poisoned s).2 := by
  unfold writeOwn
  split
  · exact fillLine_within (hm.of ⟨rfl⟩) h
  · exact writeLine_within (hm.of ⟨rfl⟩) h

theorem writeSide_within {ps : List Area} {s0 : State} {k : Nat} {i : Nat} {d : Desc} {target : Nat} {a : Nat}
    {data : Bytes} {poisoned : Bool} {s : State}
    (hm : Sub [.free, .counters, .events, .om, .spad, .dma, .dram, .host, .pho, .lanes, .ver, .fab, .twin] ps)
    (h : Within ps s0 s) :
    Within ps s0 (writeSide k i d target a data poisoned s) := by
  unfold writeSide
  extract_lets v1 v2 v3 v4 v5
  split
  · split
    · exact finishDesc_within (hm.of ⟨rfl⟩) h
    · refine Within.ite (fun _ => ?_) (fun _ => ?_)
      · exact finishDesc_within (hm.of ⟨rfl⟩) h
      · split
        · exact waitForBase_within (hm.of ⟨rfl⟩) h
        · extract_lets v17
          exact advanceCursor_within (hm.of ⟨rfl⟩) (postWrite_within (hm.of ⟨rfl⟩) h)
  · split
    · rename_i y22
      refine Within.ofPair1 (ps := ps) (a := s0) y22 ?_ (fun h23 => ?_)
      · exact lineData_within (hm.of ⟨rfl⟩) h
      refine fabricRequest_within (hm.of ⟨rfl⟩) ?_
      simp only [v4]
      exact changeDesc_within (hm.of ⟨rfl⟩) h23
  · split
    · rename_i y29
      refine OptWithin.out (ps := ps) (a := s0) y29 ?_ (fun h30 => ?_)
      · exact lineStop_within (hm.of ⟨rfl⟩) h
      exact h30
    · refine Within.ite (fun _ => ?_) (fun _ => ?_)
      · exact descDenied_within (hm.of ⟨rfl⟩) h
      · refine Within.ite (fun _ => ?_) (fun _ => ?_)
        · split
          · rename_i y36
            refine Within.ofPair1 (ps := ps) (a := s0) y36 ?_ (fun h37 => ?_)
            · exact lineData_within (hm.of ⟨rfl⟩) h
            refine openRequest_within (hm.of ⟨rfl⟩) ?_
            simp only [v4]
            exact changeDesc_within (hm.of ⟨rfl⟩) h37
        · refine Within.ite (fun _ => ?_) (fun _ => ?_)
          · exact advanceCursor_within (hm.of ⟨rfl⟩) (spadWrite_within (hm.of ⟨rfl⟩) h)
          · split
            · rename_i y41
              refine Within.ofPair1 (ps := ps) (a := s0) y41 ?_ (fun h42 => ?_)
              · exact writeOwn_within (hm.of ⟨rfl⟩) h
              extract_lets v43
              refine Within.mid (ps := ps) (a := s0) v43 ?_ (fun h44 => ?_)
              · unfold v43
                exact changeDesc_within (hm.of ⟨rfl⟩) h42
              clear_value v43
              refine Within.ite (fun _ => ?_) (fun _ => ?_)
              · exact advanceCursor_within (hm.of ⟨rfl⟩) h44
              · refine waitInvalidations_within (hm.of ⟨rfl⟩) ?_
                simp only [v4]
                exact changeDesc_within (hm.of ⟨rfl⟩) h44

theorem readDram_within {ps : List Area} {s0 : State} {a : Nat} {len : Nat} {s : State}
    (hm : Sub [.counters, .events, .dram] ps) (h : Within ps s0 s) :
    Within ps s0 (readDram a len s).2.2 := by
  unfold readDram
  extract_lets v1
  split
  · rename_i y6
    refine Within.ofPair2 (ps := ps) (a := s0) y6 ?_ (fun h7 => ?_)
    · refine Within.foldTriple ?_ (fun s8 x9 h10 => ?_)
      · dsimp only
        exact h
      · split
        · rename_i y15
          refine Within.ofPair2 (ps := ps) (a := s0) y15 ?_ (fun h16 => ?_)
          · exact readLine_within (hm.of ⟨rfl⟩) h10
          dsimp only
          exact h16
    dsimp only
    exact h7

theorem readLocal_within {ps : List Area} {s0 : State} {target : Nat} {a : Nat} {len : Nat} {s : State}
    (hm : Sub [.counters, .events, .dram] ps) (h : Within ps s0 s) :
    Within ps s0 (readLocal target a len s).2.2 := by
  unfold readLocal
  split
  · exact readDram_within (hm.of ⟨rfl⟩) h
  · extract_lets v3
    dsimp only
    exact h

theorem gotData_within {ps : List Area} {s0 : State} {k : Nat} {i : Nat} {data : Bytes} {code : Nat} {s : State}
    (hm : Sub [.dma] ps) (h : Within ps s0 s) :
    Within ps s0 (gotData k i data code s) := by
  unfold gotData
  exact changeDesc_within (hm.of ⟨rfl⟩) h

theorem flushIfLost_within {ps : List Area} {s0 : State} {t : Nat} {s : State} (hm : Sub [.dma] ps)
    (h : Within ps s0 s) :
    Within ps s0 (flushIfLost t s) := by
  unfold flushIfLost
  exact Within.ite (fun _ => Within.put h) (fun _ => h)

theorem readSide_within {ps : List Area} {s0 : State} {k : Nat} {i : Nat} {d : Desc} {target : Nat} {a : Nat}
    {len : Nat} {coherent : Bool} {s : State}
    (hm : Sub [.free, .counters, .events, .om, .dma, .dram, .host, .pho, .lanes, .ver, .fab] ps)
    (h : Within ps s0 s) :
    Within ps s0 (readSide k i d target a len coherent s) := by
  unfold readSide
  extract_lets v1 v2 v3 v4 v5 v6
  refine Within.mid (ps := ps) (a := s0) v5 ?_ (fun h7 => ?_)
  · unfold v5
    exact flushIfLost_within (hm.of ⟨rfl⟩) h
  clear_value v5
  refine Within.mid (ps := ps) (a := s0) v6 ?_ (fun h8 => ?_)
  · unfold v6
    simp only [v3]
    exact changeDesc_within (hm.of ⟨rfl⟩) h7
  clear_value v6
  split
  · refine Within.ite (fun _ => ?_) (fun _ => ?_)
    · exact finishDesc_within (hm.of ⟨rfl⟩) h
    · split
      · exact waitForBase_within (hm.of ⟨rfl⟩) h
      · split
        · rename_i y18
          refine Within.ofPair1 (ps := ps) (a := s0) y18 ?_ (fun h19 => ?_)
          · exact hostRequest_within (hm.of ⟨rfl⟩) h
          refine waitFor_within (hm.of ⟨rfl⟩) ?_
          simp only [v3]
          exact changeDesc_within (hm.of ⟨rfl⟩) h19
  · refine fabricRequest_within (hm.of ⟨rfl⟩) ?_
    simp only [v3]
    exact changeDesc_within (hm.of ⟨rfl⟩) h
  · split
    · rename_i y26
      refine OptWithin.out (ps := ps) (a := s0) y26 ?_ (fun h27 => ?_)
      · exact lineStop_within (hm.of ⟨rfl⟩) h
      exact h27
    · refine Within.ite (fun _ => ?_) (fun _ => ?_)
      · exact descDenied_within (hm.of ⟨rfl⟩) h
      · refine Within.ite (fun _ => ?_) (fun _ => ?_)
        · split
          · rename_i y34
            refine Within.ofPair2 (ps := ps) (a := s0) y34 ?_ (fun h35 => ?_)
            · exact readLocal_within (hm.of ⟨rfl⟩) h
            exact gotData_within (hm.of ⟨rfl⟩) h35
        · refine Within.ite (fun _ => ?_) (fun _ => ?_)
          · split
            · exact gotData_within (hm.of ⟨rfl⟩) h7
            · split
              · exact waitFor_within (hm.of ⟨rfl⟩) h8
              · split
                · rename_i y49
                  refine Within.ofPair1 (ps := ps) (a := s0) y49 ?_ (fun h50 => ?_)
                  · exact openSend_within (hm.of ⟨rfl⟩) h8
                  exact waitFor_within (hm.of ⟨rfl⟩) (Within.put h50)
          · refine openRequest_within (hm.of ⟨rfl⟩) ?_
            simp only [v3]
            exact changeDesc_within (hm.of ⟨rfl⟩) h

theorem stepDesc_within {ps : List Area} {s0 : State} {k : Nat} {i : Nat} {d : Desc} {s : State}
    (hm : Sub [.free, .counters, .events, .om, .spad, .dma, .dram, .host, .pho, .lanes, .ver, .fab, .twin] ps)
    (h : Within ps s0 s) :
    Within ps s0 (stepDesc k i d s) := by
  unfold stepDesc
  extract_lets v1 v2 v3
  refine Within.ite (fun _ => ?_) (fun _ => ?_)
  · exact finishDesc_within (hm.of ⟨rfl⟩) h
  · split
    · exact advanceCursor_within (hm.of ⟨rfl⟩) h
    · refine Within.ite (fun _ => ?_) (fun _ => ?_)
      · refine withSide_within (hm.of ⟨rfl⟩) ?_ ?_
        · intro x12 x13 x14 s15 h16
          exact atomicSide_within (hm.of ⟨rfl⟩) h16
        · exact h
      · refine Within.ite (fun _ => ?_) (fun _ => ?_)
        · extract_lets v17
          refine withSide_within (hm.of ⟨rfl⟩) ?_ ?_
          · intro x18 x19 x20 s21 h22
            exact rowMoveSide_within (hm.of ⟨rfl⟩) h22
          · exact h
        · extract_lets v23
          split
          · simp only [v23]
            refine withSide_within (hm.of ⟨rfl⟩) ?_ ?_
            · intro x26 x27 x28 s29 h30
              exact writeSide_within (hm.of ⟨rfl⟩) h30
            · exact h
          · refine Within.ite (fun _ => ?_) (fun _ => ?_)
            · extract_lets v34 v35
              refine withSide_within (hm.of ⟨rfl⟩) ?_ ?_
              · intro x36 x37 x38 s39 h40
                exact readSide_within (hm.of ⟨rfl⟩) h40
              · exact h
            · simp only [v23]
              refine withSide_within (hm.of ⟨rfl⟩) ?_ ?_
              · intro x41 x42 x43 s44 h45
                exact writeSide_within (hm.of ⟨rfl⟩) h45
              · exact h
    · exact advanceCursor_within (hm.of ⟨rfl⟩) h

theorem pumpFuel_within {ps : List Area} {s0 : State} {k : Nat} {a1 : Nat} {a2 : State}
    (hm : Sub [.free, .counters, .events, .om, .spad, .dma, .dram, .host, .pho, .lanes, .ver, .fab, .twin] ps)
    (h : Within ps s0 a2) :
    Within ps s0 (pumpFuel k a1 a2) := by
  induction a1 generalizing k a2 h
  · rw [pumpFuel]
    exact h
  · rename_i ih2
    rw [pumpFuel]
    split
    · exact activate_within (hm.of ⟨rfl⟩) h
    · split
      · exact activate_within (hm.of ⟨rfl⟩) h
      · exact ih2 (stepDesc_within (hm.of ⟨rfl⟩) (activate_within (hm.of ⟨rfl⟩) h))

theorem pump_within {ps : List Area} {s0 : State} {k : Nat} {s : State}
    (hm : Sub [.free, .counters, .events, .om, .spad, .dma, .dram, .host, .pho, .lanes, .ver, .fab, .twin] ps)
    (h : Within ps s0 s) :
    Within ps s0 (pump k s) := by
  unfold pump
  exact pumpFuel_within (hm.of ⟨rfl⟩) h

theorem skipTag_within {ps : List Area} {s0 : State} {key : Nat} {t : BitVec 16} {s : State}
    (hm : Sub [.dma] ps) (h : Within ps s0 s) :
    Within ps s0 (skipTag key t s) := by
  unfold skipTag
  exact Within.put h

theorem wake_within {ps : List Area} {s0 : State} {p : Wait → Bool} {s : State}
    (hm : Sub [.free, .counters, .events, .om, .spad, .dma, .dram, .host, .pho, .lanes, .ver, .fab, .twin] ps)
    (h : Within ps s0 s) :
    Within ps s0 (wake p s) := by
  unfold wake
  extract_lets v1
  exact Within.fold h (fun _ _ h4 => pump_within (hm.of ⟨rfl⟩) (Within.put h4))

theorem pumpTower_within {ps : List Area} {s0 : State} {t : Nat} {s : State}
    (hm : Sub [.free, .counters, .events, .om, .spad, .dma, .dram, .host, .pho, .lanes, .ver, .fab, .twin] ps)
    (h : Within ps s0 s) :
    Within ps s0 (pumpTower t s) := by
  unfold pumpTower
  exact Within.fold h (fun _ _ h3 => pump_within (hm.of ⟨rfl⟩) h3)

theorem tableRequest_within {ps : List Area} {s0 : State} {k : Nat} {i : Nat} {d : Desc} {va : Nat}
    {kind : Kind} {a : Nat} {level : Nat} {s : State} (hm : Sub [.free, .dma, .pho, .ver] ps)
    (h : Within ps s0 s) :
    Within ps s0 (tableRequest k i d va kind a level s) := by
  unfold tableRequest
  split
  · rename_i y4
    refine Within.ofPair1 (ps := ps) (a := s0) y4 ?_ (fun h5 => ?_)
    · exact openSend_within (hm.of ⟨rfl⟩) h
    exact waitFor_within (hm.of ⟨rfl⟩) (changeDesc_within (hm.of ⟨rfl⟩) h5)

theorem invalidationsDone_within {ps : List Area} {s0 : State} {write : Nat} {s : State}
    (hm : Sub [.free, .counters, .events, .om, .spad, .dma, .dram, .host, .pho, .lanes, .ver, .fab, .twin] ps)
    (h : Within ps s0 s) :
    Within ps s0 (invalidationsDone write s) := by
  unfold invalidationsDone
  split
  · exact h
  · refine Within.ite (fun _ => ?_) (fun _ => ?_)
    · exact pump_within (hm.of ⟨rfl⟩) (atomicDone_within (hm.of ⟨rfl⟩) h)
    · exact pump_within (hm.of ⟨rfl⟩) (advanceCursor_within (hm.of ⟨rfl⟩) h)

end Sys2Proof.Machine
end

