-- ==== Sys2Proof/Laws/WithinDma.lean ====
section
/-! SUPPORT. Which parts of the state the operations of Machine/Dma.lean can write: one lemma for each. -/

set_option Elab.async false

namespace Sys2Proof.Machine

theorem clusterCleared_within {ps : List Area} {s0 : State} {t : Nat} {k : Nat} {s : State}
    (hm : Sub [.free, .counters, .events, .om, .spad, .dma, .dram, .host, .pho, .lanes, .ver, .fab, .twin] ps)
    (h : Within ps s0 s) :
    Within ps s0 (clusterCleared t k s) := by
  unfold clusterCleared
  extract_lets v1 v2 v3
  refine Within.mid (ps := ps) (a := s0) v2 ?_ (fun h4 => ?_)
  · unfold v2
    exact clearCluster_within (hm.of ⟨rfl⟩) h
  clear_value v2
  exact Within.ite (fun _ => wake_within (hm.of ⟨rfl⟩) (Within.put h4)) (fun _ => h)

theorem execClusterClearDone_within {ps : List Area} {s0 : State} {tower : Tower} {cluster : Cluster}
    {s : State}
    (hm : Sub [.free, .counters, .events, .om, .spad, .dma, .dram, .host, .pho, .lanes, .ver, .fab, .twin] ps)
    (h : Within ps s0 s) :
    OutWithin ps s0 (execClusterClearDone tower cluster s) := by
  unfold execClusterClearDone
  exact OutWithin.next (clusterCleared_within (hm.of ⟨rfl⟩) h)

theorem pumpPartition_within {ps : List Area} {s0 : State} {p : Nat} {s : State}
    (hm : Sub [.free, .counters, .events, .om, .spad, .dma, .dram, .host, .pho, .lanes, .ver, .fab, .twin] ps)
    (h : Within ps s0 s) :
    Within ps s0 (pumpPartition p s) := by
  unfold pumpPartition
  exact Within.fold h (fun _ _ h3 => pumpTower_within (hm.of ⟨rfl⟩) h3)

theorem changeAttached_within {ps : List Area} {s0 : State} {p : Nat} {tag : BitVec 16} {f : Desc → Desc}
    {s : State} (hm : Sub [.dma] ps) (h : Within ps s0 s) :
    Within ps s0 (changeAttached p tag f s) := by
  unfold changeAttached
  extract_lets v1 v2
  exact Within.put h

theorem answerAttached_within {ps : List Area} {s0 : State} {p : Nat} {tag : BitVec 16} {retry : Bool}
    {s : State} (hm : Sub [.dma] ps) (h : Within ps s0 s) :
    Within ps s0 (answerAttached p tag retry s) := by
  unfold answerAttached
  exact changeAttached_within (hm.of ⟨rfl⟩) h

theorem dmaRetry_within {ps : List Area} {s0 : State} {k : Nat} {s : State}
    (hm : Sub [.now, .free, .counters, .events, .om, .spad, .dma, .dram, .host, .pho, .lanes, .ver, .fab, .twin] ps)
    (h : Within ps s0 s) :
    Within ps s0 (dmaRetry k s) := by
  unfold dmaRetry
  extract_lets v1
  split
  · exact h
  · split
    · exact pump_within (hm.of ⟨rfl⟩) (waitFor_within (hm.of ⟨rfl⟩) (advanceTo_within (hm.of ⟨rfl⟩) h))
    · exact h

theorem execDmaRetryBackoff_within {ps : List Area} {s0 : State} {tower : Tower} {engine : EngineNo} {s : State}
    (hm : Sub [.now, .free, .counters, .events, .om, .spad, .dma, .dram, .host, .pho, .lanes, .ver, .fab, .twin] ps)
    (h : Within ps s0 s) :
    OutWithin ps s0 (execDmaRetryBackoff tower engine s) := by
  unfold execDmaRetryBackoff
  exact OutWithin.next (dmaRetry_within (hm.of ⟨rfl⟩) h)

theorem rootAct_within {ps : List Area} {s0 : State} {r : Requester} {p : Nat} {a2 : Bytes} {a3 : State}
    (hm : Sub [.dict, .dma, .sec] ps) (h : Within ps s0 a3) :
    WWithin ps s0 (rootAct r p a2 a3) := by
  unfold rootAct
  extract_lets v1 v2
  split
  · exact .refuse
  · split
    · exact .refuse
    · exact WWithin.wait (setDictNat_within (hm.of ⟨rfl⟩) (Within.put h))

theorem execTranslationRootWrite_within {ps : List Area} {s0 : State} {req : Req} {partition : Partition}
    {value : Bytes} {s : State} (hm : Sub [.dict, .events, .om, .dma, .sec] ps) (h : Within ps s0 s) :
    OutWithin ps s0 (execTranslationRootWrite req partition value s) := by
  unfold execTranslationRootWrite
  refine OutWithin.next ?_
  refine serveWrite_within (hm.of ⟨rfl⟩) ?_ ?_
  · intro x1 s2 h3
    exact rootAct_within (hm.of ⟨rfl⟩) h3
  · exact h

theorem invalidateAct_within {ps : List Area} {s0 : State} {r : Requester} {a1 : Bytes} {a2 : State}
    (hm : Sub [.dma] ps) (h : Within ps s0 a2) :
    WWithin ps s0 (invalidateAct r a1 a2) := by
  unfold invalidateAct
  extract_lets v1 v2 v3
  split
  · exact .refuse
  · split
    · exact .refuse
    · exact WWithin.wait (Within.put h)

theorem execTranslationInvalidate_within {ps : List Area} {s0 : State} {req : Req} {value : Bytes} {s : State}
    (hm : Sub [.events, .om, .dma] ps) (h : Within ps s0 s) :
    OutWithin ps s0 (execTranslationInvalidate req value s) := by
  unfold execTranslationInvalidate
  refine OutWithin.next ?_
  refine serveWrite_within (hm.of ⟨rfl⟩) ?_ ?_
  · intro x1 s2 h3
    exact invalidateAct_within (hm.of ⟨rfl⟩) h3
  · exact h

theorem dropNamed_within {ps : List Area} {s0 : State} {v : Invalidation} {t : Nat} {s : State}
    (hm : Sub [.dma] ps) (h : Within ps s0 s) :
    Within ps s0 (dropNamed v t s) := by
  unfold dropNamed
  exact Within.put h

theorem invalidateDone_within {ps : List Area} {s0 : State} {p : Nat} {s : State} (hm : Sub [.om, .dma] ps)
    (h : Within ps s0 s) :
    Within ps s0 (invalidateDone p s) := by
  unfold invalidateDone
  extract_lets v1 v2 v3
  refine Within.mid (ps := ps) (a := s0) v3 ?_ (fun h4 => ?_)
  · unfold v3
    refine Within.fold ?_ (fun s5 x6 h7 => ?_)
    · exact Within.put h
    · exact Within.fold h7 (fun _ _ h10 => dropNamed_within (hm.of ⟨rfl⟩) h10)
  clear_value v3
  refine Within.ite (fun _ => ?_) (fun _ => ?_)
  · exact h
  · exact answerWaiting_within (hm.of ⟨rfl⟩) (answerWaiting_within (hm.of ⟨rfl⟩) h4)

theorem execInvalidateDone_within {ps : List Area} {s0 : State} {partition : Partition} {s : State}
    (hm : Sub [.om, .dma] ps) (h : Within ps s0 s) :
    OutWithin ps s0 (execInvalidateDone partition s) := by
  unfold execInvalidateDone
  exact OutWithin.next (invalidateDone_within (hm.of ⟨rfl⟩) h)

theorem walkEnds_within {ps : List Area} {s0 : State} {k : Nat} {i : Nat} {va : Nat} {kind : Kind} {d : Desc}
    {x : Xlate} {s : State} (hm : Sub [.free, .counters, .events, .dma, .host, .pho, .ver] ps)
    (h : Within ps s0 s) :
    Within ps s0 (walkEnds k i va kind d x s) := by
  unfold walkEnds
  split
  · exact waitFor_within (hm.of ⟨rfl⟩) h
  · exact parkDesc_within (hm.of ⟨rfl⟩) h
  · exact finishDesc_within (hm.of ⟨rfl⟩) h
  · exact waitFor_within (hm.of ⟨rfl⟩) h
  · exact tableRequest_within (hm.of ⟨rfl⟩) h
  · exact h

theorem walkDesc_within {ps : List Area} {s0 : State} {k : Nat} {i : Nat} {va : Nat} {kind : Kind} {d : Desc}
    {answer : Option (Nat × Except Xlate Nat)} {s : State}
    (hm : Sub [.free, .counters, .events, .dma, .dram, .host, .pho, .ver] ps) (h : Within ps s0 s) :
    Within ps s0 (walkDesc k i va kind d answer s) := by
  unfold walkDesc
  split
  · rename_i y4
    refine Within.ofPair1 (ps := ps) (a := s0) y4 ?_ (fun h5 => ?_)
    · exact walk_within (hm.of ⟨rfl⟩) h
    refine Within.ite (fun _ => ?_) (fun _ => ?_)
    · exact waitFor_within (hm.of ⟨rfl⟩) (Within.ite (fun _ => h) (fun _ => count64_within (hm.of ⟨rfl⟩) h))
    · split
      · refine Within.ofPair1 (ps := ps) (a := s0) y4 ?_ (fun h10 => ?_)
        · exact walk_within (hm.of ⟨rfl⟩) h
        exact walkEnds_within (hm.of ⟨rfl⟩) h5
      · refine Within.ofPair1 (ps := ps) (a := s0) y4 ?_ (fun h16 => ?_)
        · exact walk_within (hm.of ⟨rfl⟩) h
        extract_lets v17
        exact walkEnds_within (hm.of ⟨rfl⟩) (changeDesc_within (hm.of ⟨rfl⟩) (keepLeaf_within (hm.of ⟨rfl⟩) h5))

theorem tableWalk_within {ps : List Area} {s0 : State} {k : Nat} {s : State}
    (hm : Sub [.free, .counters, .events, .om, .spad, .dma, .dram, .host, .pho, .lanes, .ver, .fab, .twin] ps)
    (h : Within ps s0 s) :
    Within ps s0 (tableWalk k s) := by
  unfold tableWalk
  extract_lets v1
  split
  · exact h
  · split
    · exact pump_within (hm.of ⟨rfl⟩) (walkDesc_within (hm.of ⟨rfl⟩) h)
    · exact h

theorem execTableWalk_within {ps : List Area} {s0 : State} {tower : Tower} {engine : EngineNo} {s : State}
    (hm : Sub [.free, .counters, .events, .om, .spad, .dma, .dram, .host, .pho, .lanes, .ver, .fab, .twin] ps)
    (h : Within ps s0 s) :
    OutWithin ps s0 (execTableWalk tower engine s) := by
  unfold execTableWalk
  exact OutWithin.next (tableWalk_within (hm.of ⟨rfl⟩) h)

theorem issue_within {ps : List Area} {s0 : State} {t : Nat} {e : Nat} {w : BitVec 512} {s : State}
    (hm : Sub [.free, .counters, .events, .om, .spad, .dma, .dram, .host, .pho, .lanes, .ver, .fab, .twin] ps)
    (h : Within ps s0 s) :
    Within ps s0 (issue t e w s) := by
  unfold issue
  split
  · exact h
  · split
    · exact h
    · exact Within.ite (fun _ => h) (fun _ => pump_within (hm.of ⟨rfl⟩) (queueDescs_within (hm.of ⟨rfl⟩) h))

theorem issueOp_within {ps : List Area} {s0 : State} {op : Nat} {t : Nat} {e : Nat} {w : BitVec 512} {s : State}
    (hm : Sub [.free, .counters, .events, .om, .spad, .dma, .dram, .host, .pho, .lanes, .ver, .fab, .twin] ps)
    (h : Within ps s0 s) :
    Within ps s0 (issueOp op t e w s) := by
  unfold issueOp
  exact Within.ite (fun _ => issue_within (hm.of ⟨rfl⟩) h) (fun _ => h)

theorem execCopy_within {ps : List Area} {s0 : State} {tower : Tower} {engine : EngineNo}
    {descriptor : BitVec 512} {s : State}
    (hm : Sub [.free, .counters, .events, .om, .spad, .dma, .dram, .host, .pho, .lanes, .ver, .fab, .twin] ps)
    (h : Within ps s0 s) :
    OutWithin ps s0 (execCopy tower engine descriptor s) := by
  unfold execCopy
  exact OutWithin.next (issueOp_within (hm.of ⟨rfl⟩) h)

theorem execFill_within {ps : List Area} {s0 : State} {tower : Tower} {engine : EngineNo}
    {descriptor : BitVec 512} {s : State}
    (hm : Sub [.free, .counters, .events, .om, .spad, .dma, .dram, .host, .pho, .lanes, .ver, .fab, .twin] ps)
    (h : Within ps s0 s) :
    OutWithin ps s0 (execFill tower engine descriptor s) := by
  unfold execFill
  exact OutWithin.next (issueOp_within (hm.of ⟨rfl⟩) h)

theorem execGather_within {ps : List Area} {s0 : State} {tower : Tower} {engine : EngineNo}
    {descriptor : BitVec 512} {s : State}
    (hm : Sub [.free, .counters, .events, .om, .spad, .dma, .dram, .host, .pho, .lanes, .ver, .fab, .twin] ps)
    (h : Within ps s0 s) :
    OutWithin ps s0 (execGather tower engine descriptor s) := by
  unfold execGather
  exact OutWithin.next (issueOp_within (hm.of ⟨rfl⟩) h)

theorem execScatter_within {ps : List Area} {s0 : State} {tower : Tower} {engine : EngineNo}
    {descriptor : BitVec 512} {s : State}
    (hm : Sub [.free, .counters, .events, .om, .spad, .dma, .dram, .host, .pho, .lanes, .ver, .fab, .twin] ps)
    (h : Within ps s0 s) :
    OutWithin ps s0 (execScatter tower engine descriptor s) := by
  unfold execScatter
  exact OutWithin.next (issueOp_within (hm.of ⟨rfl⟩) h)

theorem execRowMove_within {ps : List Area} {s0 : State} {tower : Tower} {engine : EngineNo}
    {descriptor : BitVec 512} {s : State}
    (hm : Sub [.free, .counters, .events, .om, .spad, .dma, .dram, .host, .pho, .lanes, .ver, .fab, .twin] ps)
    (h : Within ps s0 s) :
    OutWithin ps s0 (execRowMove tower engine descriptor s) := by
  unfold execRowMove
  exact OutWithin.next (issueOp_within (hm.of ⟨rfl⟩) h)

theorem execDmaAtomic_within {ps : List Area} {s0 : State} {tower : Tower} {engine : EngineNo}
    {descriptor : BitVec 512} {s : State}
    (hm : Sub [.free, .counters, .events, .om, .spad, .dma, .dram, .host, .pho, .lanes, .ver, .fab, .twin] ps)
    (h : Within ps s0 s) :
    OutWithin ps s0 (execDmaAtomic tower engine descriptor s) := by
  unfold execDmaAtomic
  exact OutWithin.next (issueOp_within (hm.of ⟨rfl⟩) h)

theorem execDescriptorRefused_within {ps : List Area} {s0 : State} {tower : Tower} {engine : EngineNo}
    {descriptor : BitVec 512} {s : State}
    (hm : Sub [.free, .counters, .events, .om, .spad, .dma, .dram, .host, .pho, .lanes, .ver, .fab, .twin] ps)
    (h : Within ps s0 s) :
    OutWithin ps s0 (execDescriptorRefused tower engine descriptor s) := by
  unfold execDescriptorRefused
  exact OutWithin.next (Within.ite (fun _ => issue_within (hm.of ⟨rfl⟩) h) (fun _ => h))

theorem descReport_within {ps : List Area} {s0 : State} {d : Desc} {s : State}
    (hm : Sub [.events, .parts, .dma, .host] ps) (h : Within ps s0 s) :
    Within ps s0 (descReport d s) := by
  unfold descReport
  extract_lets v1 v2 v3 v4
  refine Within.mid (ps := ps) (a := s0) v3 ?_ (fun h5 => ?_)
  · unfold v3
    exact changeTask_within (hm.of ⟨rfl⟩) h
  clear_value v3
  refine Within.mid (ps := ps) (a := s0) v4 ?_ (fun h6 => ?_)
  · unfold v4
    exact Within.ite (fun _ => h5) (fun _ => taskFault_within (hm.of ⟨rfl⟩) h5)
  clear_value v4
  split
  · exact h6
  · exact Within.ite (fun _ => endTask_within (hm.of ⟨rfl⟩) h6) (fun _ => h6)

theorem descriptorDone_within {ps : List Area} {s0 : State} {k : Nat} {s : State}
    (hm : Sub [.free, .counters, .events, .om, .spad, .parts, .dma, .dram, .host, .pho, .lanes, .ver, .fab, .twin] ps)
    (h : Within ps s0 s) :
    Within ps s0 (descriptorDone k s) := by
  unfold descriptorDone
  extract_lets v1 v2 v3
  refine Within.mid (ps := ps) (a := s0) v3 ?_ (fun h4 => ?_)
  · unfold v3
    exact Within.put h
  clear_value v3
  split
  · exact h
  · exact pump_within (hm.of ⟨rfl⟩) (descReport_within (hm.of ⟨rfl⟩) h4)

theorem execDescriptorDone_within {ps : List Area} {s0 : State} {tower : Tower} {engine : EngineNo} {s : State}
    (hm : Sub [.free, .counters, .events, .om, .spad, .parts, .dma, .dram, .host, .pho, .lanes, .ver, .fab, .twin] ps)
    (h : Within ps s0 s) :
    OutWithin ps s0 (execDescriptorDone tower engine s) := by
  unfold execDescriptorDone
  exact OutWithin.next (descriptorDone_within (hm.of ⟨rfl⟩) h)

theorem unknownResponse_within {ps : List Area} {s0 : State} {p : Nat} {tag : BitVec 16} {s : State}
    (hm : Sub [.counters, .events] ps) (h : Within ps s0 s) :
    Within ps s0 (unknownResponse p tag s) := by
  unfold unknownResponse
  extract_lets v1
  exact raise_within (hm.of ⟨rfl⟩) (count32_within (hm.of ⟨rfl⟩) h)

theorem settleRecord_within {ps : List Area} {s0 : State} {p : Nat} {tag : BitVec 16} {run : BitVec 32}
    {retry : Bool} {s : State}
    (hm : Sub [.free, .counters, .events, .om, .spad, .dma, .dram, .host, .pho, .lanes, .ver, .fab, .twin] ps)
    (h : Within ps s0 s) :
    Within ps s0 (settleRecord p tag run retry s) := by
  unfold settleRecord
  extract_lets v1 v2
  split
  · simp only [v1]
    exact Within.put h
  · split
    · simp only [v1]
      exact Within.put h
    · refine pumpPartition_within (hm.of ⟨rfl⟩) ?_
      refine answerAttached_within (hm.of ⟨rfl⟩) ?_
      simp only [v1]
      exact Within.put h
    · exact Within.put h

theorem faultResponse_within {ps : List Area} {s0 : State} {p : Nat} {w : BitVec 32} {s : State}
    (hm : Sub [.free, .counters, .events, .om, .spad, .dma, .dram, .host, .pho, .lanes, .ver, .fab, .twin] ps)
    (h : Within ps s0 s) :
    Within ps s0 (faultResponse p w s) := by
  unfold faultResponse
  extract_lets v1 v2
  split
  · exact unknownResponse_within (hm.of ⟨rfl⟩) h
  · refine Within.ite (fun _ => ?_) (fun _ => ?_)
    · exact unknownResponse_within (hm.of ⟨rfl⟩) h
    · exact settleRecord_within (hm.of ⟨rfl⟩) h

theorem execFaultResponseRetry_within {ps : List Area} {s0 : State} {partition : Partition} {word : BitVec 32}
    {s : State}
    (hm : Sub [.free, .counters, .events, .om, .spad, .dma, .dram, .host, .pho, .lanes, .ver, .fab, .twin] ps)
    (h : Within ps s0 s) :
    OutWithin ps s0 (execFaultResponseRetry partition word s) := by
  unfold execFaultResponseRetry
  exact OutWithin.next (Within.ite (fun _ => faultResponse_within (hm.of ⟨rfl⟩) h) (fun _ => h))

theorem execFaultResponseFail_within {ps : List Area} {s0 : State} {partition : Partition} {word : BitVec 32}
    {s : State}
    (hm : Sub [.free, .counters, .events, .om, .spad, .dma, .dram, .host, .pho, .lanes, .ver, .fab, .twin] ps)
    (h : Within ps s0 s) :
    OutWithin ps s0 (execFaultResponseFail partition word s) := by
  unfold execFaultResponseFail
  exact OutWithin.next (Within.ite (fun _ => faultResponse_within (hm.of ⟨rfl⟩) h) (fun _ => h))

theorem execFaultResponseUnknown_within {ps : List Area} {s0 : State} {partition : Partition} {word : BitVec 32}
    {s : State}
    (hm : Sub [.free, .counters, .events, .om, .spad, .dma, .dram, .host, .pho, .lanes, .ver, .fab, .twin] ps)
    (h : Within ps s0 s) :
    OutWithin ps s0 (execFaultResponseUnknown partition word s) := by
  unfold execFaultResponseUnknown
  exact OutWithin.next (faultResponse_within (hm.of ⟨rfl⟩) h)

theorem faultTimeout_within {ps : List Area} {s0 : State} {p : Nat} {tag : BitVec 16} {s : State}
    (hm : Sub [.free, .counters, .events, .om, .spad, .dma, .dram, .host, .pho, .lanes, .ver, .fab, .twin] ps)
    (h : Within ps s0 s) :
    Within ps s0 (faultTimeout p tag s) := by
  unfold faultTimeout
  extract_lets v1
  split
  · exact h
  · exact Within.ite (fun _ => h) (fun _ => settleRecord_within (hm.of ⟨rfl⟩) (raise_within (hm.of ⟨rfl⟩) h))

theorem execFaultTimeout_within {ps : List Area} {s0 : State} {partition : Partition} {tag : BitVec 16}
    {s : State}
    (hm : Sub [.free, .counters, .events, .om, .spad, .dma, .dram, .host, .pho, .lanes, .ver, .fab, .twin] ps)
    (h : Within ps s0 s) :
    OutWithin ps s0 (execFaultTimeout partition tag s) := by
  unfold execFaultTimeout
  exact OutWithin.next (faultTimeout_within (hm.of ⟨rfl⟩) h)

theorem rcInvalidate_within {ps : List Area} {s0 : State} {t : Nat} {home : Nat} {block : Nat} {s : State}
    (hm : Sub [.free, .dma, .pho, .ver] ps) (h : Within ps s0 s) :
    Within ps s0 (rcInvalidate t home block s) := by
  unfold rcInvalidate
  extract_lets v1 v2 v3
  exact Within.ite (fun _ => h) (fun _ => sendMesh_within (hm.of ⟨rfl⟩) (Within.put h))

theorem execRcInvalidation_within {ps : List Area} {s0 : State} {tower : Tower} {home : Tower}
    {block : BitVec 48} {s : State} (hm : Sub [.free, .dma, .pho, .ver] ps) (h : Within ps s0 s) :
    OutWithin ps s0 (execRcInvalidation tower home block s) := by
  unfold execRcInvalidation
  exact OutWithin.next (rcInvalidate_within (hm.of ⟨rfl⟩) h)

theorem sharerAnswered_within {ps : List Area} {s0 : State} {home : Nat} {sharer : Nat} {block : Nat}
    {s : State}
    (hm : Sub [.free, .counters, .events, .om, .spad, .dma, .dram, .host, .pho, .lanes, .ver, .fab, .twin] ps)
    (h : Within ps s0 s) :
    Within ps s0 (sharerAnswered home sharer block s) := by
  unfold sharerAnswered
  extract_lets v1 v2 v3 v4 v5
  refine Within.mid (ps := ps) (a := s0) v3 ?_ (fun h6 => ?_)
  · unfold v3
    split
    · exact h
    · exact Within.put h
  clear_value v3
  refine Within.mid (ps := ps) (a := s0) v5 ?_ (fun h12 => ?_)
  · unfold v5
    exact Within.put h6
  clear_value v5
  split
  · exact h
  · extract_lets v18 v19 v20
    refine Within.mid (ps := ps) (a := s0) v19 ?_ (fun h21 => ?_)
    · unfold v19
      exact Within.fold h12 (fun _ _ h24 => sendOpen_within (hm.of ⟨rfl⟩) h24)
    clear_value v19
    refine Within.mid (ps := ps) (a := s0) v20 ?_ (fun h25 => ?_)
    · unfold v20
      exact Within.fold h21 (fun _ _ h28 => respond_within (hm.of ⟨rfl⟩) h28)
    clear_value v20
    exact Within.ite (fun _ => Within.put h6) (fun _ => invalidationsDone_within (hm.of ⟨rfl⟩) h25)

theorem rcAck_within {ps : List Area} {s0 : State} {home : Nat} {sharer : Nat} {block : Nat} {s : State}
    (hm : Sub [.free, .counters, .events, .om, .spad, .dma, .dram, .host, .pho, .lanes, .ver, .fab, .twin] ps)
    (h : Within ps s0 s) :
    Within ps s0 (rcAck home sharer block s) := by
  unfold rcAck
  extract_lets v1 v2
  exact Within.ite (fun _ => h) (fun _ => sharerAnswered_within (hm.of ⟨rfl⟩) (Within.put h))

theorem execRcInvalidationAck_within {ps : List Area} {s0 : State} {home : Tower} {sharer : Tower}
    {block : BitVec 48} {s : State}
    (hm : Sub [.free, .counters, .events, .om, .spad, .dma, .dram, .host, .pho, .lanes, .ver, .fab, .twin] ps)
    (h : Within ps s0 s) :
    OutWithin ps s0 (execRcInvalidationAck home sharer block s) := by
  unfold execRcInvalidationAck
  exact OutWithin.next (rcAck_within (hm.of ⟨rfl⟩) h)

theorem rcLost_within {ps : List Area} {s0 : State} {home : Nat} {sharer : Nat} {block : Nat} {s : State}
    (hm : Sub [.now, .free, .counters, .events, .om, .spad, .dma, .dram, .host, .pho, .lanes, .ver, .fab, .twin] ps)
    (h : Within ps s0 s) :
    Within ps s0 (rcLost home sharer block s) := by
  unfold rcLost
  split
  · exact h
  · extract_lets v6 v7
    refine Within.mid (ps := ps) (a := s0) v6 ?_ (fun h8 => ?_)
    · unfold v6
      exact advanceTo_within (hm.of ⟨rfl⟩) h
    clear_value v6
    exact sharerAnswered_within (hm.of ⟨rfl⟩) (raise_within (hm.of ⟨rfl⟩) (Within.put h8))

theorem execRcSharerLost_within {ps : List Area} {s0 : State} {home : Tower} {sharer : Tower}
    {block : BitVec 48} {s : State}
    (hm : Sub [.now, .free, .counters, .events, .om, .spad, .dma, .dram, .host, .pho, .lanes, .ver, .fab, .twin] ps)
    (h : Within ps s0 s) :
    OutWithin ps s0 (execRcSharerLost home sharer block s) := by
  unfold execRcSharerLost
  exact OutWithin.next (rcLost_within (hm.of ⟨rfl⟩) h)

theorem eachWaiter_within {ps : List Area} {s0 : State} {t : Nat} {p : Wait → Bool}
    {f : Nat → Nat → Desc → State → State} {s : State}
    (hm : Sub [.free, .counters, .events, .om, .spad, .dma, .dram, .host, .pho, .lanes, .ver, .fab, .twin] ps)
    (h_f : ∀ (z0 : Nat) (z1 : Nat) (z2 : Desc) (z3 : State), Within ps s0 z3 → Within ps s0 (f z0 z1 z2 z3))
    (h : Within ps s0 s) :
    Within ps s0 (eachWaiter t p f s) := by
  unfold eachWaiter
  refine Within.fold ?_ (fun s1 x2 h3 => ?_)
  · exact h
  · extract_lets v4
    refine Within.mid (ps := ps) (a := s0) v4 ?_ (fun h5 => ?_)
    · unfold v4
      refine Within.fold ?_ (fun s6 x7 h8 => ?_)
      · exact h3
      · split
        · exact h8
        · exact Within.ite (fun _ => h_f _ _ _ _ h8) (fun _ => h8)
    clear_value v4
    exact pump_within (hm.of ⟨rfl⟩) h5

theorem fillReturn_within {ps : List Area} {s0 : State} {f : Fill} {data : Bytes} {code : Nat} {s : State}
    (hm : Sub [.free, .counters, .events, .om, .spad, .dma, .dram, .host, .pho, .lanes, .ver, .fab, .twin] ps)
    (h : Within ps s0 s) :
    Within ps s0 (fillReturn f data code s) := by
  unfold fillReturn
  extract_lets v1 v2 v3 v4 v5 v6
  refine Within.mid (ps := ps) (a := s0) v4 ?_ (fun h7 => ?_)
  · unfold v4
    exact Within.put h
  clear_value v4
  refine Within.mid (ps := ps) (a := s0) v6 ?_ (fun h8 => ?_)
  · unfold v6
    refine Within.ite (fun _ => ?_) (fun _ => ?_)
    · exact h7
    · split
      · rename_i y12
        refine Within.ofPair1 (ps := ps) (a := s0) y12 ?_ (fun h13 => ?_)
        · exact cachePut_within (hm.of ⟨rfl⟩) h7
        exact Within.put h13
  clear_value v6
  refine eachWaiter_within (hm.of ⟨rfl⟩) ?_ ?_
  · intro x14 x15 x16 s17 h18
    exact gotData_within (hm.of ⟨rfl⟩) h18
  · exact h8

theorem tableAnswered_within {ps : List Area} {s0 : State} {k : Nat} {i : Nat} {d : Desc} {code : Nat}
    {data : Bytes} {s : State}
    (hm : Sub [.free, .counters, .events, .om, .spad, .dma, .dram, .host, .pho, .lanes, .ver, .fab, .twin] ps)
    (h : Within ps s0 s) :
    Within ps s0 (tableAnswered k i d code data s) := by
  unfold tableAnswered
  split
  · extract_lets v7
    refine Within.ite (fun _ => ?_) (fun _ => ?_)
    · simp only [v7]
      exact pump_within (hm.of ⟨rfl⟩) (walkDesc_within (hm.of ⟨rfl⟩) h)
    · refine Within.ite (fun _ => ?_) (fun _ => ?_)
      · simp only [v7]
        exact pump_within (hm.of ⟨rfl⟩) (walkDesc_within (hm.of ⟨rfl⟩) h)
      · refine Within.ite (fun _ => ?_) (fun _ => ?_)
        · exact waitFor_within (hm.of ⟨rfl⟩) h
        · exact pump_within (hm.of ⟨rfl⟩) (finishDesc_within (hm.of ⟨rfl⟩) h)
  · exact h

end Sys2Proof.Machine
end

