-- ==== Sys2Proof/Laws/WithinPhoOps.lean ====
section
/-! SUPPORT. Which parts of the state the operations of Machine/PhoOps.lean can write: one lemma for each. -/

set_option Elab.async false

namespace Sys2Proof.Machine

theorem waitRegion_within {ps : List Area} {s0 : State} {t : Nat} {start : Nat} {s : State} {k : Nat}
    (hm : Sub [.events, .parts, .clk, .pho, .pow] ps) (h : Within ps s0 s) :
    Within ps s0 (waitRegion t start s k) := by
  unfold waitRegion
  extract_lets v1 v2
  exact Within.ite (fun _ => h) (fun _ => stallRegion_within (hm.of ⟨rfl⟩) (Within.put h))

theorem bytesArrive_within {ps : List Area} {s0 : State} {src : Nat} {dst : Nat} {w : Nat} {stamp : Nat}
    {n : Nat} {s : State} (hm : Sub [.events, .parts, .clk, .pho, .pow] ps) (h : Within ps s0 s) :
    Within ps s0 (bytesArrive src dst w stamp n s) := by
  unfold bytesArrive
  extract_lets v1 v2 v3
  refine Within.mid (ps := ps) (a := s0) v3 ?_ (fun h4 => ?_)
  · unfold v3
    exact Within.put h
  clear_value v3
  split
  · exact h
  · refine Within.ite (fun _ => ?_) (fun _ => ?_)
    · exact Within.put h
    · refine Within.ite (fun _ => ?_) (fun _ => ?_)
      · exact Within.fold h4 (fun _ _ h12 => waitRegion_within (hm.of ⟨rfl⟩) h12)
      · exact h4

theorem changePath_within {ps : List Area} {s0 : State} {kind : PathKind} {key : Nat} {up : Bool} {s : State}
    (hm : Sub [.pho] ps) (h : Within ps s0 s) :
    Within ps s0 (changePath kind key up s) := by
  unfold changePath
  exact Within.put h

theorem applyPathChange_within {ps : List Area} {s0 : State} {c : PathChange} {s : State} (hm : Sub [.pho] ps)
    (h : Within ps s0 s) :
    Within ps s0 (applyPathChange c s) := by
  unfold applyPathChange
  split
  · exact Within.put h
  · exact Within.put h
  · exact Within.put h

theorem applyPathChanges_within {ps : List Area} {s0 : State} {s : State} (hm : Sub [.pho] ps)
    (h : Within ps s0 s) :
    Within ps s0 (applyPathChanges s) := by
  unfold applyPathChanges
  exact Within.fold (Within.put h) (fun _ _ h3 => applyPathChange_within (hm.of ⟨rfl⟩) h3)

theorem guideDown_within {ps : List Area} {s0 : State} {egress : Bool} {t : Nat} {w : Nat} {s : State}
    (hm : Sub [.events, .pho] ps) (h : Within ps s0 s) :
    Within ps s0 (guideDown egress t w s) := by
  unfold guideDown
  exact raise_within (hm.of ⟨rfl⟩) (changePath_within (hm.of ⟨rfl⟩) h)

theorem changeSheepdog_within {ps : List Area} {s0 : State} {d : Nat} {w : Nat} {f : Sheepdog → Sheepdog}
    {s : State} (hm : Sub [.pho] ps) (h : Within ps s0 s) :
    Within ps s0 (changeSheepdog d w f s) := by
  unfold changeSheepdog
  exact Within.put h

theorem voidDecision_within {ps : List Area} {s0 : State} {d : Nat} {w : Nat} {s : State}
    (hm : Sub [.counters, .pho] ps) (h : Within ps s0 s) :
    Within ps s0 (voidDecision d w s) := by
  unfold voidDecision
  split
  · exact h
  · exact changeSheepdog_within (hm.of ⟨rfl⟩) (count64_within (hm.of ⟨rfl⟩) h)

theorem changeSource_within {ps : List Area} {s0 : State} {f : Nat} {i : Nat} {g : Source → Source} {s : State}
    (hm : Sub [.las] ps) (h : Within ps s0 s) :
    Within ps s0 (changeSource f i g s) := by
  unfold changeSource
  exact Within.put h

theorem setSource_within {ps : List Area} {s0 : State} {f : Nat} {i : Nat} {code : Nat} {lane : Option Nat}
    {s : State} (hm : Sub [.las] ps) (h : Within ps s0 s) :
    Within ps s0 (setSource f i code lane s) := by
  unfold setSource
  exact changeSource_within (hm.of ⟨rfl⟩) h

theorem guideUp_within {ps : List Area} {s0 : State} {egress : Bool} {t : Nat} {w : Nat} {s : State}
    (hm : Sub [.events, .pho] ps) (h : Within ps s0 s) :
    Within ps s0 (guideUp egress t w s) := by
  unfold guideUp
  exact raise_within (hm.of ⟨rfl⟩) (changePath_within (hm.of ⟨rfl⟩) h)

theorem askTick_within {ps : List Area} {s0 : State} {retire : Bool} {s : State} (hm : Sub [.las] ps)
    (h : Within ps s0 s) :
    Within ps s0 (askTick retire s) := by
  unfold askTick
  exact Within.put h

theorem swapTick_within {ps : List Area} {s0 : State} {retire : Bool} {s : State} (hm : Sub [.events, .las] ps)
    (h : Within ps s0 s) :
    Within ps s0 (swapTick retire s) := by
  unfold swapTick
  split
  · extract_lets v7 v8 v9
    refine Within.mid (ps := ps) (a := s0) v7 ?_ (fun h10 => ?_)
    · unfold v7
      exact setSource_within (hm.of ⟨rfl⟩) h
    clear_value v7
    refine Within.mid (ps := ps) (a := s0) v8 ?_ (fun h11 => ?_)
    · unfold v8
      exact raise_within (hm.of ⟨rfl⟩) h10
    clear_value v8
    refine Within.mid (ps := ps) (a := s0) v9 ?_ (fun h12 => ?_)
    · unfold v9
      exact setSource_within (hm.of ⟨rfl⟩) h11
    clear_value v9
    refine Within.ite (fun _ => ?_) (fun _ => ?_)
    · exact setSource_within (hm.of ⟨rfl⟩) h11
    · split
      · exact setSource_within (hm.of ⟨rfl⟩) h12
      · exact raise_within (hm.of ⟨rfl⟩) h12
  · exact Within.ite (fun _ => h) (fun _ => raise_within (hm.of ⟨rfl⟩) (changeSource_within (hm.of ⟨rfl⟩) h))
  · exact h

theorem tickDue_within {ps : List Area} {s0 : State} {s : State} (hm : Sub [.events, .las] ps)
    (h : Within ps s0 s) :
    Within ps s0 (tickDue s) := by
  unfold tickDue
  split
  · exact h
  · exact swapTick_within (hm.of ⟨rfl⟩) (Within.put h)

theorem dropGrant_within {ps : List Area} {s0 : State} {t : Nat} {w : Nat} {s : State} (hm : Sub [.pho] ps)
    (h : Within ps s0 s) :
    Within ps s0 (dropGrant t w s) := by
  unfold dropGrant
  exact Within.put h

theorem oweBytes_within {ps : List Area} {s0 : State} {src : Nat} {dst : Nat} {w : Nat} {slot : Nat}
    {phase : Nat} {n : Nat} {s : State} (hm : Sub [.pho] ps) (h : Within ps s0 s) :
    Within ps s0 (oweBytes src dst w slot phase n s) := by
  unfold oweBytes
  split
  · exact h
  · split
    · exact h
    · extract_lets v11 v12
      split
      · exact h
      · extract_lets v18 v19
        exact Within.ite (fun _ => h) (fun _ => Within.put h)

theorem clearWaiter_within {ps : List Area} {s0 : State} {src : Nat} {dst : Nat} {w : Nat} {s : State}
    (hm : Sub [.pho] ps) (h : Within ps s0 s) :
    Within ps s0 (clearWaiter src dst w s) := by
  unfold clearWaiter
  extract_lets v1 v2
  exact Within.put h

theorem setWaiter_within {ps : List Area} {s0 : State} {src : Nat} {dst : Nat} {w : Nat} {x : Waiter}
    {s : State} (hm : Sub [.pho] ps) (h : Within ps s0 s) :
    Within ps s0 (setWaiter src dst w x s) := by
  unfold setWaiter
  exact Within.put h

theorem restoreLoser_within {ps : List Area} {s0 : State} {src : Nat} {d : Nat} {w : Nat} {s : State}
    (hm : Sub [.pho] ps) (h : Within ps s0 s) :
    Within ps s0 (restoreLoser src d w s) := by
  unfold restoreLoser
  split
  · exact h
  · extract_lets v6 v7 v8
    refine Within.mid (ps := ps) (a := s0) v8 ?_ (fun h9 => ?_)
    · unfold v8
      exact changeSheepdog_within (hm.of ⟨rfl⟩) h
    clear_value v8
    split
    · exact setWaiter_within (hm.of ⟨rfl⟩) h9
    · refine Within.ite (fun _ => ?_) (fun _ => ?_)
      · extract_lets v15
        refine Within.mid (ps := ps) (a := s0) v15 ?_ (fun h16 => ?_)
        · unfold v15
          exact changeSheepdog_within (hm.of ⟨rfl⟩) h9
        clear_value v15
        exact setWaiter_within (hm.of ⟨rfl⟩) h16
      · exact setWaiter_within (hm.of ⟨rfl⟩) h9

theorem putGrant_within {ps : List Area} {s0 : State} {t : Nat} {w : Nat} {g : Grant} {s : State}
    (hm : Sub [.pho] ps) (h : Within ps s0 s) :
    Within ps s0 (putGrant t w g s) := by
  unfold putGrant
  exact Within.put h

theorem resetArbitration_within {ps : List Area} {s0 : State} {ts : List Nat} {s : State} (hm : Sub [.pho] ps)
    (h : Within ps s0 s) :
    Within ps s0 (resetArbitration ts s) := by
  unfold resetArbitration
  extract_lets v1 v2
  exact Within.put h

end Sys2Proof.Machine
end

