-- ==== Sys2Proof/Laws/WithinSums.lean ====
section
/-! SUPPORT. Which parts of the state the operations of Machine/Sums.lean can write: one lemma for each. -/

set_option Elab.async false

namespace Sys2Proof.Machine

theorem poisonSums_within {ps : List Area} {s0 : State} {t : Nat} {r : BitVec 256} {i : Nat} {per : Nat}
    {s : State} (hm : Sub [.free, .spad] ps) (h : Within ps s0 s) :
    Within ps s0 (poisonSums t r i per s) := by
  unfold poisonSums
  extract_lets v1
  split
  · rename_i y5
    refine Within.ofPair1 (ps := ps) (a := s0) y5 ?_ (fun h6 => ?_)
    · exact drawBytes_within (hm.of ⟨rfl⟩) h
    exact spadWrite_within (hm.of ⟨rfl⟩) h6

theorem failSums_within {ps : List Area} {s0 : State} {t : Nat} {a : Option Arm} {w : Nat} {slot : Nat}
    {coll : Nat} {missing : Nat} {i : Nat} {per : Nat} {s : State}
    (hm : Sub [.free, .counters, .events, .spad] ps) (h : Within ps s0 s) :
    Within ps s0 (failSums t a w slot coll missing i per s) := by
  unfold failSums
  extract_lets v1
  refine Within.mid (ps := ps) (a := s0) v1 ?_ (fun h2 => ?_)
  · unfold v1
    split
    · exact poisonSums_within (hm.of ⟨rfl⟩) h
    · exact h
  clear_value v1
  exact raise_within (hm.of ⟨rfl⟩) (count32_within (hm.of ⟨rfl⟩) h2)

theorem endSumsFrame_within {ps : List Area} {s0 : State} {s : State}
    (hm : Sub [.free, .counters, .events, .spad, .parts, .clk, .pho, .sums, .pow] ps) (h : Within ps s0 s) :
    Within ps s0 (endSumsFrame s) := by
  unfold endSumsFrame
  extract_lets v1
  refine Within.mid (ps := ps) (a := s0) v1 ?_ (fun h2 => ?_)
  · unfold v1
    refine Within.fold ?_ (fun s3 x4 h5 => ?_)
    · exact h
    · extract_lets v6 v7 v8
      refine Within.mid (ps := ps) (a := s0) v8 ?_ (fun h9 => ?_)
      · unfold v8
        exact failSums_within (hm.of ⟨rfl⟩) h5
      clear_value v8
      split
      · exact waitRegion_within (hm.of ⟨rfl⟩) h9
      · exact h9
  clear_value v1
  exact Within.put h2

theorem sumsWritten_within {ps : List Area} {s0 : State} {x : SumWait} {s : State}
    (hm : Sub [.events, .parts, .clk, .pho, .pow] ps) (h : Within ps s0 s) :
    Within ps s0 (sumsWritten x s) := by
  unfold sumsWritten
  split
  · exact h
  · exact waitRegion_within (hm.of ⟨rfl⟩) h

theorem nanSums_within {ps : List Area} {s0 : State} {t : Nat} {k : Nat} {r : BitVec 256} {i : Nat} {per : Nat}
    {s : State} (hm : Sub [.spad, .parts] ps) (h : Within ps s0 s) :
    Within ps s0 (nanSums t k r i per s) := by
  unfold nanSums
  extract_lets v1 v2
  exact setTaskFlags_within (hm.of ⟨rfl⟩) (spadWrite_within (hm.of ⟨rfl⟩) h)

theorem claimReplay_within {ps : List Area} {s0 : State} {t : Nat} {w : Nat} {slot : Nat} {coll : Nat}
    {missing : Nat} {x : Nat × Nat} {s : State} (hm : Sub [.counters, .pho, .sums] ps) (h : Within ps s0 s) :
    Within ps s0 (claimReplay t w slot coll missing x s) := by
  unfold claimReplay
  extract_lets v1 v2 v3 v4 v5 v6
  refine Within.mid (ps := ps) (a := s0) v2 ?_ (fun h7 => ?_)
  · unfold v2
    exact Within.put h
  clear_value v2
  refine Within.mid (ps := ps) (a := s0) v4 ?_ (fun h8 => ?_)
  · unfold v4
    exact Within.ite (fun _ => voidDecision_within (hm.of ⟨rfl⟩) h7) (fun _ => h7)
  clear_value v4
  exact Within.put h8

theorem writeSums_within {ps : List Area} {s0 : State} {t : Nat} {a : Arm} {i : Nat} {per : Nat} {optical : Nat}
    {adc : List Nat} {mesh : List (List Int)} {s : State} (hm : Sub [.spad, .parts] ps) (h : Within ps s0 s) :
    Within ps s0 (writeSums t a i per optical adc mesh s) := by
  unfold writeSums
  extract_lets v1 v2 v3 v4 v5 v6
  exact setTaskFlags_within (hm.of ⟨rfl⟩) (spadWrite_within (hm.of ⟨rfl⟩) h)

theorem evaluateSums_within {ps : List Area} {s0 : State} {x : SumWait}
    {got : List (BitVec 32 × Option (List Int))} {s : State}
    (hm : Sub [.free, .counters, .events, .spad, .parts, .clk, .pho, .sums, .pow] ps) (h : Within ps s0 s) :
    Within ps s0 (evaluateSums x got s) := by
  unfold evaluateSums
  extract_lets v1 v2 v3 v4 v5 v6 v7 v8 v9 v10
  refine Within.mid (ps := ps) (a := s0) v9 ?_ (fun h11 => ?_)
  · unfold v9
    exact raise_within (hm.of ⟨rfl⟩) (count64_within (hm.of ⟨rfl⟩) h)
  clear_value v9
  refine Within.ite (fun _ => ?_) (fun _ => ?_)
  · refine sumsWritten_within (hm.of ⟨rfl⟩) ?_
    simp only [v6]
    exact raise_within (hm.of ⟨rfl⟩) (count32_within (hm.of ⟨rfl⟩) (poisonSums_within (hm.of ⟨rfl⟩) h))
  · refine Within.ite (fun _ => ?_) (fun _ => ?_)
    · refine sumsWritten_within (hm.of ⟨rfl⟩) ?_
      simp only [v6]
      exact raise_within (hm.of ⟨rfl⟩) (count32_within (hm.of ⟨rfl⟩) (nanSums_within (hm.of ⟨rfl⟩) h))
    · refine Within.ite (fun _ => ?_) (fun _ => ?_)
      · refine Within.ite (fun _ => ?_) (fun _ => ?_)
        · refine sumsWritten_within (hm.of ⟨rfl⟩) ?_
          simp only [v7]
          exact failSums_within (hm.of ⟨rfl⟩) h
        · split
          · refine sumsWritten_within (hm.of ⟨rfl⟩) ?_
            simp only [v7]
            exact failSums_within (hm.of ⟨rfl⟩) h11
          · exact claimReplay_within (hm.of ⟨rfl⟩) h11
      · exact sumsWritten_within (hm.of ⟨rfl⟩) (count64_within (hm.of ⟨rfl⟩) (writeSums_within (hm.of ⟨rfl⟩) h))

theorem tryEvaluate_within {ps : List Area} {s0 : State} {x : SumWait} {s : State}
    (hm : Sub [.free, .counters, .events, .spad, .parts, .clk, .pho, .sums, .pow] ps) (h : Within ps s0 s) :
    Within ps s0 (tryEvaluate x s) := by
  unfold tryEvaluate
  extract_lets v1 v2
  exact Within.ite (fun _ => Within.put h) (fun _ => evaluateSums_within (hm.of ⟨rfl⟩) h)

theorem retrySums_within {ps : List Area} {s0 : State} {s : State}
    (hm : Sub [.free, .counters, .events, .spad, .parts, .clk, .pho, .sums, .pow] ps) (h : Within ps s0 s) :
    Within ps s0 (retrySums s) := by
  unfold retrySums
  exact Within.fold (Within.put h) (fun _ _ h3 => tryEvaluate_within (hm.of ⟨rfl⟩) h3)

theorem loseShares_within {ps : List Area} {s0 : State} {ts : List Nat} {s : State}
    (hm : Sub [.free, .counters, .events, .spad, .parts, .clk, .pho, .sums, .pow] ps) (h : Within ps s0 s) :
    Within ps s0 (loseShares ts s) := by
  unfold loseShares
  extract_lets v1 v2
  exact retrySums_within (hm.of ⟨rfl⟩) (Within.put h)

theorem memberLight_within {ps : List Area} {s0 : State} {t : Nat} {recv : Nat} {coll : Nat} {orig : Nat × Nat}
    {here : Nat × Nat} {late : Bool} {s : State} (hm : Sub [.free, .parts, .pho, .sums, .ver] ps)
    (h : Within ps s0 s) :
    Within ps s0 (memberLight t recv coll orig here late s) := by
  unfold memberLight
  split
  · extract_lets v6 v7 v8 v9 v10 v11
    refine Within.mid (ps := ps) (a := s0) v7 ?_ (fun h12 => ?_)
    · unfold v7
      split
      · exact Within.ite (fun _ => setTaskFlags_within (hm.of ⟨rfl⟩) h) (fun _ => h)
      · exact h
    clear_value v7
    exact Within.ite (fun _ => sendMesh_within (hm.of ⟨rfl⟩) h12) (fun _ => Within.put h12)

theorem armRecord_within {ps : List Area} {s0 : State} {t : Nat} {k : Nat} {r : BitVec 256} {s : State}
    (hm : Sub [.events, .sums] ps) (h : Within ps s0 s) :
    Within ps s0 (armRecord t k r s) := by
  unfold armRecord
  refine Within.ite (fun _ => ?_) (fun _ => ?_)
  · extract_lets v1 v2
    exact raise_within (hm.of ⟨rfl⟩) (Within.put h)
  · exact Within.put h

theorem execArmRecord_within {ps : List Area} {s0 : State} {tower : Tower} {cluster : Cluster}
    {record : BitVec 256} {s : State} (hm : Sub [.events, .sums] ps) (h : Within ps s0 s) :
    OutWithin ps s0 (execArmRecord tower cluster record s) := by
  unfold execArmRecord
  exact OutWithin.next (armRecord_within (hm.of ⟨rfl⟩) h)

theorem lightSum_within {ps : List Area} {s0 : State} {t : Nat} {w : Nat} {slot : Nat}
    {markers : List (BitVec 32)} {noise : List Int} {s : State}
    (hm : Sub [.free, .counters, .events, .spad, .parts, .clk, .pho, .sums, .pow] ps) (h : Within ps s0 s) :
    Within ps s0 (lightSum t w slot markers noise s) := by
  unfold lightSum
  extract_lets v1 v2 v3 v4
  refine Within.mid (ps := ps) (a := s0) v4 ?_ (fun h5 => ?_)
  · unfold v4
    exact Within.put h
  clear_value v4
  clear_value v2
  split
  · exact h
  · refine Within.ite (fun _ => ?_) (fun _ => ?_)
    · exact h
    · split
      · exact raise_within (hm.of ⟨rfl⟩) h5
      · extract_lets v15 v16
        exact tryEvaluate_within (hm.of ⟨rfl⟩) h5

theorem execLightSumEvaluate_within {ps : List Area} {s0 : State} {tower : Tower} {plane : Plane}
    {slot : BitVec 8} {markers : List (BitVec 32)} {noise : List Int} {s : State}
    (hm : Sub [.free, .counters, .events, .spad, .parts, .clk, .pho, .sums, .pow] ps) (h : Within ps s0 s) :
    OutWithin ps s0 (execLightSumEvaluate tower plane slot markers noise s) := by
  unfold execLightSumEvaluate
  exact OutWithin.next (lightSum_within (hm.of ⟨rfl⟩) h)

theorem sumNotice_within {ps : List Area} {s0 : State} {t : Nat} {w : BitVec 64} {s : State}
    (hm : Sub [.sums] ps) (h : Within ps s0 s) :
    Within ps s0 (sumNotice t w s) := by
  unfold sumNotice
  split
  · exact h
  · exact Within.ite (fun _ => h) (fun _ => Within.put h)

theorem execSumNotice_within {ps : List Area} {s0 : State} {tower : Tower} {word : BitVec 64} {s : State}
    (hm : Sub [.sums] ps) (h : Within ps s0 s) :
    OutWithin ps s0 (execSumNotice tower word s) := by
  unfold execSumNotice
  exact OutWithin.next (sumNotice_within (hm.of ⟨rfl⟩) h)

theorem meshMember_within {ps : List Area} {s0 : State} {t : Nat} {member : Nat} {coll : Nat} {w : Nat}
    {slot : Nat} {s : State} (hm : Sub [.free, .counters, .events, .spad, .parts, .clk, .pho, .sums, .pow] ps)
    (h : Within ps s0 s) :
    Within ps s0 (meshMember t member coll w slot s) := by
  unfold meshMember
  extract_lets v1 v2 v3
  split
  · exact h
  · split
    · extract_lets v16 v17 v18 v19
      refine Within.mid (ps := ps) (a := s0) v17 ?_ (fun h20 => ?_)
      · unfold v17
        exact count64_within (hm.of ⟨rfl⟩) (Within.put h)
      clear_value v17
      refine Within.mid (ps := ps) (a := s0) v19 ?_ (fun h21 => ?_)
      · unfold v19
        exact Within.ite (fun _ => h20) (fun _ => raise_within (hm.of ⟨rfl⟩) (Within.put h20))
      clear_value v19
      exact retrySums_within (hm.of ⟨rfl⟩) h21
    · exact h

theorem execMeshMemberContribution_within {ps : List Area} {s0 : State} {tower : Tower} {member : Tower}
    {collective : BitVec 12} {plane : Plane} {slot : BitVec 8} {s : State}
    (hm : Sub [.free, .counters, .events, .spad, .parts, .clk, .pho, .sums, .pow] ps) (h : Within ps s0 s) :
    OutWithin ps s0 (execMeshMemberContribution tower member collective plane slot s) := by
  unfold execMeshMemberContribution
  exact OutWithin.next (meshMember_within (hm.of ⟨rfl⟩) h)

end Sys2Proof.Machine
end

