-- ==== Sys2Proof/Laws/WithinPhotonic.lean ====
section
/-! SUPPORT. Which parts of the state the operations of Machine/Photonic.lean can write: one lemma for each. -/

set_option Elab.async false

namespace Sys2Proof.Machine

theorem sumDigital_within {ps : List Area} {s0 : State} {t : Nat} {coll : Nat} {s : State}
    (hm : Sub [.spad, .parts, .pho] ps) (h : Within ps s0 s) :
    Within ps s0 (sumDigital t coll s) := by
  unfold sumDigital
  extract_lets v1 v2 v3 v4 v5 v6 v7 v8 v9 v10
  refine Within.mid (ps := ps) (a := s0) v10 ?_ (fun h11 => ?_)
  · unfold v10
    exact Within.put h
  clear_value v10
  refine Within.ite (fun _ => ?_) (fun _ => ?_)
  · exact h
  · clear_value v1
    split
    · exact h11
    · extract_lets v25 v26 v27
      exact setTaskFlags_within (hm.of ⟨rfl⟩) (spadWrite_within (hm.of ⟨rfl⟩) h11)

theorem receiveFlow_within {ps : List Area} {s0 : State} {type : Nat} {flow : Nat} {t : Nat} {src : Nat}
    {data : Bytes} {s : State} (hm : Sub [.spad, .parts, .pho] ps) (h : Within ps s0 s) :
    Within ps s0 (receiveFlow type flow t src data s) := by
  unfold receiveFlow
  extract_lets v1 v2
  refine Within.mid (ps := ps) (a := s0) v2 ?_ (fun h3 => ?_)
  · unfold v2
    exact Within.put h
  clear_value v2
  exact Within.ite (fun _ => sumDigital_within (hm.of ⟨rfl⟩) h3) (fun _ => h3)

theorem meshArrivals_within {ps : List Area} {s0 : State} {s : State}
    (hm : Sub [.events, .spad, .parts, .clk, .pho, .pow] ps) (h : Within ps s0 s) :
    Within ps s0 (meshArrivals s) := by
  unfold meshArrivals
  extract_lets v1 v2
  refine Within.fold ?_ (fun s3 x4 h5 => ?_)
  · exact Within.put h
  · split
    · exact bytesArrive_within (hm.of ⟨rfl⟩) (receiveFlow_within (hm.of ⟨rfl⟩) h5)
    · exact h5

theorem takeOpen_within {ps : List Area} {s0 : State} {t : Nat} {p : OpenPacket} {s : State}
    (hm : Sub [.pho] ps) (h : Within ps s0 s) :
    OptWithin ps s0 (takeOpen t p s) := by
  unfold takeOpen
  split
  · exact OptWithin.some (Within.put h)
  · extract_lets v3 v4
    split
    · exact OptWithin.some (Within.put h)
    · exact .none

theorem answerDesc_within {ps : List Area} {s0 : State} {k : Nat} {i : Nat} {d : Desc} {code : Nat}
    {data : Option Bytes} {s : State}
    (hm : Sub [.free, .counters, .events, .om, .spad, .dma, .dram, .host, .pho, .lanes, .ver, .fab, .twin] ps)
    (h : Within ps s0 s) :
    Within ps s0 (answerDesc k i d code data s) := by
  unfold answerDesc
  extract_lets v1
  refine Within.mid (ps := ps) (a := s0) v1 ?_ (fun h2 => ?_)
  · unfold v1
    exact changeDesc_within (hm.of ⟨rfl⟩) h
  clear_value v1
  refine Within.ite (fun _ => ?_) (fun _ => ?_)
  · exact retryLater_within (hm.of ⟨rfl⟩) h2
  · refine Within.ite (fun _ => ?_) (fun _ => ?_)
    · refine Within.ite (fun _ => ?_) (fun _ => ?_)
      · exact pump_within (hm.of ⟨rfl⟩) (atomicDone_within (hm.of ⟨rfl⟩) h2)
      · split
        · exact pump_within (hm.of ⟨rfl⟩) (gotData_within (hm.of ⟨rfl⟩) h2)
        · exact pump_within (hm.of ⟨rfl⟩) (advanceCursor_within (hm.of ⟨rfl⟩) (changeDesc_within (hm.of ⟨rfl⟩) h2))
    · exact pump_within (hm.of ⟨rfl⟩) (finishDesc_within (hm.of ⟨rfl⟩) h2)

theorem openAnswered_within {ps : List Area} {s0 : State} {t : Nat} {p : OpenPacket} {data : Option Bytes}
    {s : State}
    (hm : Sub [.free, .counters, .events, .om, .spad, .dma, .dram, .host, .pho, .lanes, .ver, .fab, .twin] ps)
    (h : Within ps s0 s) :
    Within ps s0 (openAnswered t p data s) := by
  unfold openAnswered
  extract_lets v1 v2 v3 v4 v5 v6
  refine Within.mid (ps := ps) (a := s0) v4 ?_ (fun h7 => ?_)
  · unfold v4
    exact Within.put h
  clear_value v4
  refine Within.ite (fun _ => ?_) (fun _ => ?_)
  · exact h
  · split
    · refine Within.ite (fun _ => ?_) (fun _ => ?_)
      · exact fillReturn_within (hm.of ⟨rfl⟩) h7
      · refine eachWaiter_within (hm.of ⟨rfl⟩) ?_ ?_
        · intro x11 x12 x13 s14 h15
          exact answerDesc_within (hm.of ⟨rfl⟩) h15
        · exact Within.put h7
    · split
      · exact h7
      · split
        · exact tableAnswered_within (hm.of ⟨rfl⟩) h7
        · exact answerDesc_within (hm.of ⟨rfl⟩) h7

theorem takeAnswer_within {ps : List Area} {s0 : State} {t : Nat} {kind : Nat} {p : OpenPacket}
    {data : Option Bytes} {s : State}
    (hm : Sub [.free, .counters, .events, .om, .spad, .dma, .dram, .host, .pho, .lanes, .ver, .fab, .twin] ps)
    (h : Within ps s0 s) :
    Within ps s0 (takeAnswer t kind p data s) := by
  unfold takeAnswer
  refine Within.ite (fun _ => ?_) (fun _ => ?_)
  · exact h
  · split
    · exact h
    · rename_i y5
      refine OptWithin.out (ps := ps) (a := s0) y5 ?_ (fun h6 => ?_)
      · exact takeOpen_within (hm.of ⟨rfl⟩) h
      exact openAnswered_within (hm.of ⟨rfl⟩) h6

theorem fillArrives_within {ps : List Area} {s0 : State} {t : Nat} {line : Nat} {s : State}
    (hm : Sub [.free, .counters, .events, .om, .spad, .dma, .dram, .host, .pho, .lanes, .ver, .fab, .twin] ps)
    (h : Within ps s0 s) :
    Within ps s0 (fillArrives t line s) := by
  unfold fillArrives
  extract_lets v1 v2 v3
  split
  · exact h
  · exact takeAnswer_within (hm.of ⟨rfl⟩) h

theorem execRcFillReturn_within {ps : List Area} {s0 : State} {tower : Tower} {line : BitVec 48} {s : State}
    (hm : Sub [.free, .counters, .events, .om, .spad, .dma, .dram, .host, .pho, .lanes, .ver, .fab, .twin] ps)
    (h : Within ps s0 s) :
    OutWithin ps s0 (execRcFillReturn tower line s) := by
  unfold execRcFillReturn
  exact OutWithin.next (fillArrives_within (hm.of ⟨rfl⟩) h)

theorem putSlot_within {ps : List Area} {s0 : State} {t : Nat} {d : Nat} {w : Nat} {slot : Nat}
    {again : List Nat} {content : Bytes} {heads : List Nat} {rides : List MeshPacket} {s : State}
    (hm : Sub [.free, .counters, .pho, .lanes, .ver] ps) (h : Within ps s0 s) :
    Within ps s0 (putSlot t d w slot again content heads rides s) := by
  unfold putSlot
  extract_lets v1 v2 v3 v4 v5 v6 v7 v8 v9 v10 v11 v12
  refine Within.mid (ps := ps) (a := s0) v6 ?_ (fun h13 => ?_)
  · unfold v6
    exact changeTx_within (hm.of ⟨rfl⟩) h
  clear_value v6
  refine Within.mid (ps := ps) (a := s0) v10 ?_ (fun h14 => ?_)
  · unfold v10
    exact count64_within (hm.of ⟨rfl⟩) h13
  clear_value v10
  refine Within.mid (ps := ps) (a := s0) v11 ?_ (fun h15 => ?_)
  · unfold v11
    exact carryFlits_within (hm.of ⟨rfl⟩) h14
  clear_value v11
  exact Within.put h15

theorem launchSlot_within {ps : List Area} {s0 : State} {x : Launch} {reserve : Bool} {s : State}
    (hm : Sub [.free, .counters, .pho, .lanes, .ver] ps) (h : Within ps s0 s) :
    Within ps s0 (launchSlot x reserve s) := by
  unfold launchSlot
  extract_lets v1 v2 v3
  exact putSlot_within (hm.of ⟨rfl⟩) (count64_within (hm.of ⟨rfl⟩) (count64_within (hm.of ⟨rfl⟩) h))

theorem launchDue_within {ps : List Area} {s0 : State} {now_ : Launch → Bool} {s : State}
    (hm : Sub [.free, .counters, .pho, .lanes, .ver] ps) (h : Within ps s0 s) :
    Within ps s0 (launchDue now_ s) := by
  unfold launchDue
  extract_lets v1 v2
  exact Within.fold (Within.put h) (fun _ _ h5 => launchSlot_within (hm.of ⟨rfl⟩) h5)

theorem meshScheduled_within {ps : List Area} {s0 : State} {t : Nat} {d : Nat} {w : Nat} {slot : Nat}
    {type : Nat} {flow : Nat} {data : Bytes} {s : State} (hm : Sub [.free, .counters, .events, .pho, .ver] ps)
    (h : Within ps s0 s) :
    Within ps s0 (meshScheduled t d w slot type flow data s) := by
  unfold meshScheduled
  refine Within.ite (fun _ => ?_) (fun _ => ?_)
  · exact h
  · extract_lets v1 v2 v3 v4 v5
    refine Within.mid (ps := ps) (a := s0) v2 ?_ (fun h6 => ?_)
    · unfold v2
      exact count64_within (hm.of ⟨rfl⟩) h
    clear_value v2
    refine Within.mid (ps := ps) (a := s0) v4 ?_ (fun h7 => ?_)
    · unfold v4
      exact Within.ite (fun _ => h6) (fun _ => raise_within (hm.of ⟨rfl⟩) (Within.put h6))
    clear_value v4
    exact sendMesh_within (hm.of ⟨rfl⟩) h7

theorem scheduledSlot_within {ps : List Area} {s0 : State} {t : Nat} {w : Nat} {slot : Nat} {desc : Nat}
    {supply : Bytes} {s : State} (hm : Sub [.free, .counters, .events, .parts, .pho, .lanes, .ver] ps)
    (h : Within ps s0 s) :
    Within ps s0 (scheduledSlot t w slot desc supply s) := by
  unfold scheduledSlot
  extract_lets v1 v2 v3 v4 v5 v6 v7 v8 v9 v10 v11 v12 v13
  refine Within.mid (ps := ps) (a := s0) v11 ?_ (fun h14 => ?_)
  · unfold v11
    exact Within.ite (fun _ => Within.put h) (fun _ => h)
  clear_value v11
  refine Within.mid (ps := ps) (a := s0) v12 ?_ (fun h15 => ?_)
  · unfold v12
    exact oweBytes_within (hm.of ⟨rfl⟩) h14
  clear_value v12
  refine Within.mid (ps := ps) (a := s0) v13 ?_ (fun h16 => ?_)
  · unfold v13
    exact meshScheduled_within (hm.of ⟨rfl⟩) h15
  clear_value v13
  exact Within.ite (fun _ => h) (fun _ => Within.ite (fun _ => h16) (fun _ => putSlot_within (hm.of ⟨rfl⟩) h16))

theorem meshPacketOut_within {ps : List Area} {s0 : State} {t : Nat} {d : Nat} {w : Nat} {c : Nat} {room : Nat}
    {s : State} (hm : Sub [.free, .pho, .ver] ps) (h : Within ps s0 s) :
    Within ps s0 (meshPacketOut t d w c room s) := by
  unfold meshPacketOut
  split
  · exact h
  · exact Within.ite (fun _ => h) (fun _ => sendMesh_within (hm.of ⟨rfl⟩) (Within.put h))

theorem takeContent_within {ps : List Area} {s0 : State} {t : Nat} {w : Nat} {slot : Nat} {reserve : Bool}
    {g : Grant} {s : State} (hm : Sub [.pho] ps) (h : Within ps s0 s) :
    OptPairWithin ps s0 (takeContent t w slot reserve g s) := by
  unfold takeContent
  extract_lets v1 v2 v3 v4 v5 v6 v7 v8
  split
  · exact OptPairWithin.none
  · split
    · exact OptPairWithin.none
    · refine OptPairWithin.some ?_
      dsimp only
      exact Within.put h

theorem openSlot_within {ps : List Area} {s0 : State} {t : Nat} {w : Nat} {slot : Nat} {reserve : Bool}
    {g : Grant} {s : State} (hm : Sub [.free, .counters, .pho, .lanes, .ver] ps) (h : Within ps s0 s) :
    Within ps s0 (openSlot t w slot reserve g s).2 := by
  unfold openSlot
  extract_lets v1 v2
  split
  · dsimp only
    simp only [v2]
    refine Within.ite (fun _ => ?_) (fun _ => ?_)
    · exact meshPacketOut_within (hm.of ⟨rfl⟩) (meshPacketOut_within (hm.of ⟨rfl⟩) h)
    · exact h
  · rename_i y8
    refine OptPairWithin.out (ps := ps) (a := s0) y8 ?_ (fun h9 => ?_)
    · exact takeContent_within (hm.of ⟨rfl⟩) h
    dsimp only
    refine Within.ite (fun _ => ?_) (fun _ => ?_)
    · simp only [v2]
      refine Within.ite (fun _ => ?_) (fun _ => ?_)
      · exact meshPacketOut_within (hm.of ⟨rfl⟩) (meshPacketOut_within (hm.of ⟨rfl⟩) (Within.put h9))
      · exact Within.put h9
    · exact launchSlot_within (hm.of ⟨rfl⟩) h9

theorem planeBoundary_within {ps : List Area} {s0 : State} {t : Nat} {slot : Nat} {w : Nat}
    {supply : List (Plane × Bytes)} {late : List Plane} {s : State}
    (hm : Sub [.free, .counters, .events, .parts, .pho, .sums, .lanes, .ver] ps) (h : Within ps s0 s) :
    Within ps s0 (planeBoundary t slot w supply late s).2 := by
  unfold planeBoundary
  extract_lets v1 v2 v3 v4 v5 v6
  refine Within.mid (ps := ps) (a := s0) v4 ?_ (fun h7 => ?_)
  · unfold v4
    exact Within.ite (fun _ => dropGrant_within (hm.of ⟨rfl⟩) h) (fun _ => h)
  clear_value v4
  split
  · dsimp only
    exact memberLight_within (hm.of ⟨rfl⟩) h7
  · split
    · split
      · dsimp only
        exact h7
      · split
        · dsimp only
          exact memberLight_within (hm.of ⟨rfl⟩) h7
        · dsimp only
          exact scheduledSlot_within (hm.of ⟨rfl⟩) h7
    · clear_value v3
      split
      · dsimp only
        exact h7
      · split
        · exact openSlot_within (hm.of ⟨rfl⟩) h7
        · dsimp only
          exact h7

theorem clearIdleWaiters_within {ps : List Area} {s0 : State} {t : Nat} {s : State} (hm : Sub [.pho] ps)
    (h : Within ps s0 s) :
    Within ps s0 (clearIdleWaiters t s) := by
  unfold clearIdleWaiters
  exact Within.fold h (fun _ _ h3 => Within.fold h3 (fun _ _ h6 => clearWaiter_within (hm.of ⟨rfl⟩) h6))

theorem slotBoundary_within {ps : List Area} {s0 : State} {t : Nat} {slot : Nat} {supply : List (Plane × Bytes)}
    {late : List Plane} {s : State}
    (hm : Sub [.now, .free, .counters, .events, .spad, .parts, .clk, .pho, .sums, .lanes, .las, .ver, .pow] ps)
    (h : Within ps s0 s) :
    Within ps s0 (slotBoundary t slot supply late s) := by
  unfold slotBoundary
  refine Within.ite (fun _ => ?_) (fun _ => ?_)
  · exact h
  · extract_lets v1 v2
    refine Within.mid (ps := ps) (a := s0) v1 ?_ (fun h3 => ?_)
    · unfold v1
      exact meshArrivals_within (hm.of ⟨rfl⟩) (launchDue_within (hm.of ⟨rfl⟩) (advanceTo_within (hm.of ⟨rfl⟩) h))
    clear_value v1
    refine Within.mid (ps := ps) (a := s0) v2 ?_ (fun h4 => ?_)
    · unfold v2
      exact Within.ite (fun _ => tickDue_within (hm.of ⟨rfl⟩) h3) (fun _ => h3)
    clear_value v2
    split
    · rename_i y8
      refine Within.ofPair1 (ps := ps) (a := s0) y8 ?_ (fun h9 => ?_)
      · refine Within.foldPair ?_ (fun s10 x11 h12 => ?_)
        · dsimp only
          exact h4
        · split
          · rename_i y16
            refine Within.ofPair1 (ps := ps) (a := s0) y16 ?_ (fun h17 => ?_)
            · exact planeBoundary_within (hm.of ⟨rfl⟩) h12
            dsimp only
            exact h17
      extract_lets v18 v19
      refine Within.mid (ps := ps) (a := s0) v18 ?_ (fun h20 => ?_)
      · unfold v18
        exact clearIdleWaiters_within (hm.of ⟨rfl⟩) h9
      clear_value v18
      exact Within.put h20

theorem execSlotBoundary_within {ps : List Area} {s0 : State} {tower : Tower} {slot : BitVec 8}
    {supply : List (Plane × Bytes)} {late : List Plane} {s : State}
    (hm : Sub [.now, .free, .counters, .events, .spad, .parts, .clk, .pho, .sums, .lanes, .las, .ver, .pow] ps)
    (h : Within ps s0 s) :
    OutWithin ps s0 (execSlotBoundary tower slot supply late s) := by
  unfold execSlotBoundary
  exact OutWithin.next (slotBoundary_within (hm.of ⟨rfl⟩) h)

theorem badArbitration_within {ps : List Area} {s0 : State} {t : Nat} {other : Option Nat} {s : State}
    (hm : Sub [.counters, .events] ps) (h : Within ps s0 s) :
    Within ps s0 (badArbitration t other s) := by
  unfold badArbitration
  exact raise_within (hm.of ⟨rfl⟩) (count32_within (hm.of ⟨rfl⟩) h)

theorem putRequest_within {ps : List Area} {s0 : State} {d : Nat} {w : Nat} {src : Nat} {r : Option Request}
    {s : State} (hm : Sub [.pho] ps) (h : Within ps s0 s) :
    Within ps s0 (putRequest d w src r s) := by
  unfold putRequest
  extract_lets v1
  exact changeSheepdog_within (hm.of ⟨rfl⟩) h

theorem takeReturn_within {ps : List Area} {s0 : State} {d : Nat} {w : Nat} {src : Nat} {s : State}
    (hm : Sub [.counters, .pho] ps) (h : Within ps s0 s) :
    Within ps s0 (takeReturn d w src s) := by
  unfold takeReturn
  split
  · exact h
  · exact Within.ite (fun _ => voidDecision_within (hm.of ⟨rfl⟩) h) (fun _ => h)

theorem requestArrives_within {ps : List Area} {s0 : State} {d : Nat} {word : BitVec 64} {s : State}
    (hm : Sub [.counters, .events, .pho] ps) (h : Within ps s0 s) :
    Within ps s0 (requestArrives d word s) := by
  unfold requestArrives
  extract_lets v1
  refine Within.ite (fun _ => ?_) (fun _ => ?_)
  · exact badArbitration_within (hm.of ⟨rfl⟩) (Within.fold h (fun _ _ h4 => putRequest_within (hm.of ⟨rfl⟩) h4))
  · refine Within.ite (fun _ => ?_) (fun _ => ?_)
    · exact h
    · refine Within.fold ?_ (fun s5 x6 h7 => ?_)
      · exact h
      · extract_lets v8
        refine Within.mid (ps := ps) (a := s0) v8 ?_ (fun h9 => ?_)
        · unfold v8
          exact Within.ite (fun _ => takeReturn_within (hm.of ⟨rfl⟩) h7) (fun _ => h7)
        clear_value v8
        exact putRequest_within (hm.of ⟨rfl⟩) h9

theorem execRequestWord_within {ps : List Area} {s0 : State} {tower : Tower} {word : BitVec 64} {s : State}
    (hm : Sub [.counters, .events, .pho] ps) (h : Within ps s0 s) :
    OutWithin ps s0 (execRequestWord tower word s) := by
  unfold execRequestWord
  exact OutWithin.next (requestArrives_within (hm.of ⟨rfl⟩) h)

theorem decidePlane_within {ps : List Area} {s0 : State} {d : Nat} {w : Nat} {slot : Nat} {s : State}
    (hm : Sub [.pho] ps) (h : Within ps s0 s) :
    Within ps s0 (decidePlane d w slot s) := by
  unfold decidePlane
  extract_lets v1 v2 v3 v4 v5 v6
  split
  · exact changeSheepdog_within (hm.of ⟨rfl⟩) h
  · extract_lets v13 v14
    refine Within.mid (ps := ps) (a := s0) v14 ?_ (fun h15 => ?_)
    · unfold v14
      exact Within.fold h (fun _ _ h18 => setWaiter_within (hm.of ⟨rfl⟩) h18)
    clear_value v14
    exact changeSheepdog_within (hm.of ⟨rfl⟩) h15

theorem waitAlarm_within {ps : List Area} {s0 : State} {src : Nat} {d : Nat} {w : Nat} {start : Nat} {s : State}
    (hm : Sub [.events, .pho] ps) (h : Within ps s0 s) :
    Within ps s0 (waitAlarm src d w start s) := by
  unfold waitAlarm
  extract_lets v1 v2 v3
  exact Within.ite (fun _ => h) (fun _ => raise_within (hm.of ⟨rfl⟩) (Within.put h))

theorem sheepdogDecision_within {ps : List Area} {s0 : State} {d : Nat} {slot : Nat} {s : State}
    (hm : Sub [.now, .events, .pho] ps) (h : Within ps s0 s) :
    Within ps s0 (sheepdogDecision d slot s) := by
  unfold sheepdogDecision
  refine Within.ite (fun _ => ?_) (fun _ => ?_)
  · exact h
  · extract_lets v1 v2 v3 v4 v5 v6
    refine Within.mid (ps := ps) (a := s0) v1 ?_ (fun h7 => ?_)
    · unfold v1
      exact advanceTo_within (hm.of ⟨rfl⟩) h
    clear_value v1
    refine Within.mid (ps := ps) (a := s0) v3 ?_ (fun h8 => ?_)
    · unfold v3
      refine Within.fold ?_ (fun s9 x10 h11 => ?_)
      · exact h7
      · refine decidePlane_within (hm.of ⟨rfl⟩) ?_
        exact Within.fold h11 (fun _ _ h14 => waitAlarm_within (hm.of ⟨rfl⟩) h14)
    clear_value v3
    refine Within.mid (ps := ps) (a := s0) v5 ?_ (fun h15 => ?_)
    · unfold v5
      exact Within.fold h8 (fun _ _ h18 => changeSheepdog_within (hm.of ⟨rfl⟩) h18)
    clear_value v5
    exact Within.put h15

theorem execSheepdogDecision_within {ps : List Area} {s0 : State} {tower : Tower} {slot : BitVec 8} {s : State}
    (hm : Sub [.now, .events, .pho] ps) (h : Within ps s0 s) :
    OutWithin ps s0 (execSheepdogDecision tower slot s) := by
  unfold execSheepdogDecision
  exact OutWithin.next (sheepdogDecision_within (hm.of ⟨rfl⟩) h)

theorem withdraw_within {ps : List Area} {s0 : State} {t : Nat} {d : Nat} {w : Nat} {slot : Nat} {s : State}
    (hm : Sub [.pho] ps) (h : Within ps s0 s) :
    Within ps s0 (withdraw t d w slot s) := by
  unfold withdraw
  extract_lets v1 v2
  split
  · exact h
  · exact Within.put h

theorem grantArrives_within {ps : List Area} {s0 : State} {t : Nat} {word : BitVec 64} {s : State}
    (hm : Sub [.free, .counters, .events, .pho, .lanes, .ver] ps) (h : Within ps s0 s) :
    Within ps s0 (grantArrives t word s) := by
  unfold grantArrives
  extract_lets v1 v2 v3 v4
  refine Within.mid (ps := ps) (a := s0) v2 ?_ (fun h5 => ?_)
  · unfold v2
    exact launchDue_within (hm.of ⟨rfl⟩) h
  clear_value v2
  refine Within.ite (fun _ => ?_) (fun _ => ?_)
  · exact badArbitration_within (hm.of ⟨rfl⟩) (Within.fold h5 (fun _ _ h8 => dropGrant_within (hm.of ⟨rfl⟩) h8))
  · refine Within.ite (fun _ => ?_) (fun _ => ?_)
    · exact h5
    · refine Within.fold ?_ (fun s9 x10 h11 => ?_)
      · exact h5
      · extract_lets v12 v13 v14
        refine Within.mid (ps := ps) (a := s0) v12 ?_ (fun h15 => ?_)
        · unfold v12
          exact Within.ite (fun _ => restoreLoser_within (hm.of ⟨rfl⟩) h11) (fun _ => h11)
        clear_value v12
        refine Within.mid (ps := ps) (a := s0) v13 ?_ (fun h16 => ?_)
        · unfold v13
          exact Within.ite (fun _ => withdraw_within (hm.of ⟨rfl⟩) h15) (fun _ => h15)
        clear_value v13
        refine Within.ite (fun _ => ?_) (fun _ => ?_)
        · exact clearWaiter_within (hm.of ⟨rfl⟩) (putGrant_within (hm.of ⟨rfl⟩) h16)
        · split
          · exact h16
          · exact Within.ite (fun _ => dropGrant_within (hm.of ⟨rfl⟩) h16) (fun _ => h16)

theorem execGrantWord_within {ps : List Area} {s0 : State} {tower : Tower} {word : BitVec 64} {s : State}
    (hm : Sub [.free, .counters, .events, .pho, .lanes, .ver] ps) (h : Within ps s0 s) :
    OutWithin ps s0 (execGrantWord tower word s) := by
  unfold execGrantWord
  exact OutWithin.next (grantArrives_within (hm.of ⟨rfl⟩) h)

theorem noPreamble_within {ps : List Area} {s0 : State} {d : Nat} {w : Nat} {s : State} (hm : Sub [.pho] ps)
    (h : Within ps s0 s) :
    Within ps s0 (noPreamble d w s) := by
  unfold noPreamble
  split
  · exact h
  · exact changeSheepdog_within (hm.of ⟨rfl⟩) h

theorem execNoPreamble_within {ps : List Area} {s0 : State} {tower : Tower} {plane : Plane} {s : State}
    (hm : Sub [.pho] ps) (h : Within ps s0 s) :
    OutWithin ps s0 (execNoPreamble tower plane s) := by
  unfold execNoPreamble
  exact OutWithin.next (noPreamble_within (hm.of ⟨rfl⟩) h)

theorem deliverBytes_within {ps : List Area} {s0 : State} {n : Nat} {h1 : BitVec 128} {left : Nat}
    {data : Bytes} {s : State} (hm : Sub [.events, .spad, .parts, .clk, .pho, .lanes, .pow] ps)
    (h : Within ps s0 s) :
    Within ps s0 (deliverBytes n h1 left data s) := by
  unfold deliverBytes
  extract_lets v1 v2 v3 v4
  refine Within.mid (ps := ps) (a := s0) v3 ?_ (fun h5 => ?_)
  · unfold v3
    exact changeRx_within (hm.of ⟨rfl⟩) h
  clear_value v3
  refine Within.ite (fun _ => ?_) (fun _ => ?_)
  · exact bytesArrive_within (hm.of ⟨rfl⟩) (receiveFlow_within (hm.of ⟨rfl⟩) h5)
  · split
    · extract_lets v10 v11
      refine Within.mid (ps := ps) (a := s0) v10 ?_ (fun h12 => ?_)
      · unfold v10
        exact changeRx_within (hm.of ⟨rfl⟩) h5
      clear_value v10
      exact Within.put h12

theorem deliverFlit_within {ps : List Area} {s0 : State} {n : Nat} {data : Bytes} {s : State}
    (hm : Sub [.events, .spad, .parts, .clk, .pho, .lanes, .pow] ps) (h : Within ps s0 s) :
    Within ps s0 (deliverFlit n data s) := by
  unfold deliverFlit
  extract_lets v1 v2
  exact Within.ite (fun _ => deliverBytes_within (hm.of ⟨rfl⟩) h) (fun _ => deliverBytes_within (hm.of ⟨rfl⟩) h)

theorem flitArrives_within {ps : List Area} {s0 : State} {n : Nat} {f : Bytes} {s : State}
    (hm : Sub [.free, .counters, .events, .spad, .parts, .clk, .pho, .lanes, .ver, .pow] ps)
    (h : Within ps s0 s) :
    Within ps s0 (flitArrives n f s) := by
  unfold flitArrives
  extract_lets v1 v2
  refine Within.mid (ps := ps) (a := s0) v2 ?_ (fun h3 => ?_)
  · unfold v2
    refine Within.ite (fun _ => ?_) (fun _ => ?_)
    · exact rxBad_within (hm.of ⟨rfl⟩) h
    · refine Within.ite (fun _ => ?_) (fun _ => ?_)
      · exact h
      · split
        · rename_i y7
          refine Within.ofPair1 (ps := ps) (a := s0) y7 ?_ (fun h8 => ?_)
          · exact rxTake_within (hm.of ⟨rfl⟩) h
          exact Within.fold h8 (fun _ _ h11 => deliverFlit_within (hm.of ⟨rfl⟩) h11)
  clear_value v2
  exact Within.ite (fun _ => sendAckWord_within (hm.of ⟨rfl⟩) h3) (fun _ => h3)

theorem slotArrives_within {ps : List Area} {s0 : State} {t : Nat} {src : Nat} {w : Nat} {slot : Nat}
    {errors : List (Nat × Bytes)} {s : State}
    (hm : Sub [.free, .counters, .events, .spad, .parts, .clk, .pho, .lanes, .ver, .pow] ps)
    (h : Within ps s0 s) :
    Within ps s0 (slotArrives t src w slot errors s) := by
  unfold slotArrives
  extract_lets v1 v2 v3 v4 v5
  refine Within.mid (ps := ps) (a := s0) v2 ?_ (fun h6 => ?_)
  · unfold v2
    exact launchDue_within (hm.of ⟨rfl⟩) h
  clear_value v2
  split
  · exact h6
  · extract_lets v12 v13
    refine Within.mid (ps := ps) (a := s0) v12 ?_ (fun h14 => ?_)
    · unfold v12
      exact Within.fold (Within.put h6) (fun _ _ h17 => putMesh_within (hm.of ⟨rfl⟩) h17)
    clear_value v12
    refine Within.mid (ps := ps) (a := s0) v13 ?_ (fun h18 => ?_)
    · unfold v13
      exact carryFlits_within (hm.of ⟨rfl⟩) h14
    clear_value v13
    refine sendAckWord_within (hm.of ⟨rfl⟩) ?_
    refine Within.fold ?_ (fun s19 x20 h21 => ?_)
    · exact h18
    · split
      · exact flitArrives_within (hm.of ⟨rfl⟩) h21

theorem execSlotReceived_within {ps : List Area} {s0 : State} {tower : Tower} {source : Tower} {plane : Plane}
    {slot : BitVec 8} {errors : List (Nat × Bytes)} {s : State}
    (hm : Sub [.free, .counters, .events, .spad, .parts, .clk, .pho, .lanes, .ver, .pow] ps)
    (h : Within ps s0 s) :
    OutWithin ps s0 (execSlotReceived tower source plane slot errors s) := by
  unfold execSlotReceived
  exact OutWithin.next (slotArrives_within (hm.of ⟨rfl⟩) h)

theorem openRespond_within {ps : List Area} {s0 : State} {t : Nat} {h1 : BitVec 128} {kind : Nat} {code : Nat}
    {lines : Nat} {data : Bytes} {s : State} (hm : Sub [.free, .pho, .ver] ps) (h : Within ps s0 s) :
    Within ps s0 (openRespond t h1 kind code lines data s) := by
  unfold openRespond
  exact sendOpen_within (hm.of ⟨rfl⟩) h

theorem openRefuse_within {ps : List Area} {s0 : State} {t : Nat} {h1 : BitVec 128} {code : Nat} {s : State}
    (hm : Sub [.free, .counters, .events, .pho, .ver] ps) (h : Within ps s0 s) :
    Within ps s0 (openRefuse t h1 code s) := by
  unfold openRefuse
  extract_lets v1
  refine Within.mid (ps := ps) (a := s0) v1 ?_ (fun h2 => ?_)
  · unfold v1
    exact Within.ite (fun _ => worldDenied_within (hm.of ⟨rfl⟩) h) (fun _ => h)
  clear_value v1
  split
  · rename_i y6
    refine Within.ofPair1 (ps := ps) (a := s0) y6 ?_ (fun h7 => ?_)
    · exact drawBytes_within (hm.of ⟨rfl⟩) h2
    exact openRespond_within (hm.of ⟨rfl⟩) h7

theorem writeEnabled_within {ps : List Area} {s0 : State} {a : Nat} {enables : Nat} {data : Bytes}
    {poisoned : Bool} {s : State} (hm : Sub [.counters, .events, .spad, .dram, .twin] ps) (h : Within ps s0 s) :
    Within ps s0 (writeEnabled a enables data poisoned s).2 := by
  unfold writeEnabled
  split
  · dsimp only
    exact Within.fold h (fun _ _ h4 => spadWrite_within (hm.of ⟨rfl⟩) h4)
  · split
    · exact writeLine_within (hm.of ⟨rfl⟩) h
    · split
      · dsimp only
        exact h
      · exact mergeLine_within (hm.of ⟨rfl⟩) h

theorem openWrite_within {ps : List Area} {s0 : State} {t : Nat} {p : OpenPacket} {s : State}
    (hm : Sub [.free, .counters, .events, .spad, .dma, .dram, .pho, .ver, .twin] ps) (h : Within ps s0 s) :
    Within ps s0 (openWrite t p s) := by
  unfold openWrite
  extract_lets v1
  refine Within.ite (fun _ => ?_) (fun _ => ?_)
  · exact h
  · split
    · exact h
    · rename_i y6
      refine OptWithin.out (ps := ps) (a := s0) y6 ?_ (fun h7 => ?_)
      · exact takeOpen_within (hm.of ⟨rfl⟩) h
      split
      · exact openRefuse_within (hm.of ⟨rfl⟩) h7
      · split
        · rename_i y16
          refine Within.ofPair1 (ps := ps) (a := s0) y16 ?_ (fun h17 => ?_)
          · refine Within.foldPair ?_ (fun s18 x19 h20 => ?_)
            · dsimp only
              exact h7
            · extract_lets v21
              split
              · rename_i y25
                refine Within.ofPair1 (ps := ps) (a := s0) y25 ?_ (fun h26 => ?_)
                · exact writeEnabled_within (hm.of ⟨rfl⟩) h20
                dsimp only
                exact h26
          refine Within.ite (fun _ => ?_) (fun _ => ?_)
          · exact sendInvalidations_within (hm.of ⟨rfl⟩) h17
          · exact openRespond_within (hm.of ⟨rfl⟩) h17

theorem execOpenWrite_within {ps : List Area} {s0 : State} {tower : Tower} {packet : OpenPacket} {s : State}
    (hm : Sub [.free, .counters, .events, .spad, .dma, .dram, .pho, .ver, .twin] ps) (h : Within ps s0 s) :
    OutWithin ps s0 (execOpenWrite tower packet s) := by
  unfold execOpenWrite
  exact OutWithin.next (openWrite_within (hm.of ⟨rfl⟩) h)

theorem addSharer_within {ps : List Area} {s0 : State} {a : Nat} {reader : Nat} {s : State} (hm : Sub [.dma] ps)
    (h : Within ps s0 s) :
    Within ps s0 (addSharer a reader s) := by
  unfold addSharer
  split
  · exact h
  · exact Within.put h

theorem openRead_within {ps : List Area} {s0 : State} {t : Nat} {p : OpenPacket} {s : State}
    (hm : Sub [.free, .counters, .events, .dma, .dram, .pho, .ver] ps) (h : Within ps s0 s) :
    Within ps s0 (openRead t p s) := by
  unfold openRead
  extract_lets v1 v2
  refine Within.ite (fun _ => ?_) (fun _ => ?_)
  · exact h
  · split
    · exact h
    · rename_i y7
      refine OptWithin.out (ps := ps) (a := s0) y7 ?_ (fun h8 => ?_)
      · exact takeOpen_within (hm.of ⟨rfl⟩) h
      split
      · exact openRefuse_within (hm.of ⟨rfl⟩) h8
      · split
        · rename_i y18
          refine Within.ofPair2 (ps := ps) (a := s0) y18 ?_ (fun h19 => ?_)
          · exact readLocal_within (hm.of ⟨rfl⟩) h8
          extract_lets v20
          refine Within.mid (ps := ps) (a := s0) v20 ?_ (fun h21 => ?_)
          · unfold v20
            exact Within.ite (fun _ => addSharer_within (hm.of ⟨rfl⟩) h19) (fun _ => h19)
          clear_value v20
          exact openRespond_within (hm.of ⟨rfl⟩) h21

theorem execOpenRead_within {ps : List Area} {s0 : State} {tower : Tower} {packet : OpenPacket} {s : State}
    (hm : Sub [.free, .counters, .events, .dma, .dram, .pho, .ver] ps) (h : Within ps s0 s) :
    OutWithin ps s0 (execOpenRead tower packet s) := by
  unfold execOpenRead
  exact OutWithin.next (openRead_within (hm.of ⟨rfl⟩) h)

theorem openAtomic_within {ps : List Area} {s0 : State} {t : Nat} {p : OpenPacket} {s : State}
    (hm : Sub [.free, .counters, .events, .spad, .dma, .dram, .pho, .ver, .twin] ps) (h : Within ps s0 s) :
    Within ps s0 (openAtomic t p s) := by
  unfold openAtomic
  extract_lets v1 v2 v3
  refine Within.ite (fun _ => ?_) (fun _ => ?_)
  · exact h
  · split
    · exact h
    · rename_i y8
      refine OptWithin.out (ps := ps) (a := s0) y8 ?_ (fun h9 => ?_)
      · exact takeOpen_within (hm.of ⟨rfl⟩) h
      split
      · exact openRefuse_within (hm.of ⟨rfl⟩) h9
      · split
        · rename_i y19
          refine Within.ofPair2 (ps := ps) (a := s0) y19 ?_ (fun h20 => ?_)
          · split
            · exact spadAtomic_within (hm.of ⟨rfl⟩) h9
            · exact atomicLine_within (hm.of ⟨rfl⟩) h9
          refine Within.ite (fun _ => ?_) (fun _ => ?_)
          · exact sendInvalidations_within (hm.of ⟨rfl⟩) h20
          · split
            · rename_i y26
              refine Within.ofPair1 (ps := ps) (a := s0) y26 ?_ (fun h27 => ?_)
              · split
                · exact drawBytes_within (hm.of ⟨rfl⟩) h20
                · dsimp only
                  exact h20
              exact openRespond_within (hm.of ⟨rfl⟩) h27

theorem execOpenAtomic_within {ps : List Area} {s0 : State} {tower : Tower} {packet : OpenPacket} {s : State}
    (hm : Sub [.free, .counters, .events, .spad, .dma, .dram, .pho, .ver, .twin] ps) (h : Within ps s0 s) :
    OutWithin ps s0 (execOpenAtomic tower packet s) := by
  unfold execOpenAtomic
  exact OutWithin.next (openAtomic_within (hm.of ⟨rfl⟩) h)

theorem execOpenReadData_within {ps : List Area} {s0 : State} {tower : Tower} {packet : OpenPacket} {s : State}
    (hm : Sub [.free, .counters, .events, .om, .spad, .dma, .dram, .host, .pho, .lanes, .ver, .fab, .twin] ps)
    (h : Within ps s0 s) :
    OutWithin ps s0 (execOpenReadData tower packet s) := by
  unfold execOpenReadData
  exact OutWithin.next (takeAnswer_within (hm.of ⟨rfl⟩) h)

theorem execOpenCompletion_within {ps : List Area} {s0 : State} {tower : Tower} {packet : OpenPacket}
    {s : State}
    (hm : Sub [.free, .counters, .events, .om, .spad, .dma, .dram, .host, .pho, .lanes, .ver, .fab, .twin] ps)
    (h : Within ps s0 s) :
    OutWithin ps s0 (execOpenCompletion tower packet s) := by
  unfold execOpenCompletion
  exact OutWithin.next (takeAnswer_within (hm.of ⟨rfl⟩) h)

theorem execOpenAtomicData_within {ps : List Area} {s0 : State} {tower : Tower} {packet : OpenPacket}
    {s : State}
    (hm : Sub [.free, .counters, .events, .om, .spad, .dma, .dram, .host, .pho, .lanes, .ver, .fab, .twin] ps)
    (h : Within ps s0 s) :
    OutWithin ps s0 (execOpenAtomicData tower packet s) := by
  unfold execOpenAtomicData
  exact OutWithin.next (takeAnswer_within (hm.of ⟨rfl⟩) h)

theorem meshLinkFail_within {ps : List Area} {s0 : State} {n : Nat} {s : State} (hm : Sub [.events, .pho] ps)
    (h : Within ps s0 s) :
    Within ps s0 (meshLinkFail n s) := by
  unfold meshLinkFail
  exact Within.ite (fun _ => h) (fun _ => raise_within (hm.of ⟨rfl⟩) (Within.put h))

theorem execMeshLinkFail_within {ps : List Area} {s0 : State} {link : Fin 18} {s : State}
    (hm : Sub [.events, .pho] ps) (h : Within ps s0 s) :
    OutWithin ps s0 (execMeshLinkFail link s) := by
  unfold execMeshLinkFail
  exact OutWithin.next (meshLinkFail_within (hm.of ⟨rfl⟩) h)

end Sys2Proof.Machine
end

