-- ==== Sys2Proof/Laws/WithinFabric.lean ====
section
/-! SUPPORT. Which parts of the state the operations of Machine/Fabric.lean can write: one lemma for each. -/

set_option Elab.async false

namespace Sys2Proof.Machine

theorem settleRoutes_within {ps : List Area} {s0 : State} {before : State} {s : State}
    (hm : Sub [.events, .fab] ps) (_h : Within ps s0 before) (h2 : Within ps s0 s) :
    Within ps s0 (settleRoutes before s) := by
  unfold settleRoutes
  refine Within.fold ?_ (fun s1 x2 h3 => ?_)
  · exact h2
  · extract_lets v4 v5
    exact raiseIf_within (hm.of ⟨rfl⟩) (Within.put h3)

theorem addReady_within {ps : List Area} {s0 : State} {e : CombineEntry} {s : State} (hm : Sub [.fab] ps)
    (h : Within ps s0 s) :
    Within ps s0 (addReady e s) := by
  unfold addReady
  extract_lets v1 v2 v3
  exact Within.put h

theorem closeEntries_within {ps : List Area} {s0 : State} {p : CombineEntry → Bool} {s : State}
    (hm : Sub [.fab] ps) (h : Within ps s0 s) :
    Within ps s0 (closeEntries p s) := by
  unfold closeEntries
  extract_lets v1 v2
  exact Within.fold (Within.put h) (fun _ _ h5 => addReady_within (hm.of ⟨rfl⟩) h5)

theorem sendOrAnswer_within {ps : List Area} {s0 : State} {e : SendEnd} {p : FabricPacket} {s : State}
    (hm : Sub [.free, .counters, .events, .lanes, .ver, .fab] ps) (h : Within ps s0 s) :
    Within ps s0 (sendOrAnswer e p s) := by
  unfold sendOrAnswer
  extract_lets v1
  split
  · exact h
  · exact Within.ite (fun _ => respond_within (hm.of ⟨rfl⟩) h) (fun _ => h)

theorem forward_within {ps : List Area} {s0 : State} {start : Nat} {origin : Option Nat} {p : FabricPacket}
    {s : State} (hm : Sub [.free, .counters, .events, .lanes, .ver, .fab] ps) (h : Within ps s0 s) :
    Within ps s0 (forward start origin p s) := by
  unfold forward
  extract_lets v1
  split
  · rename_i y5
    refine Within.ofPair1 (ps := ps) (a := s0) y5 ?_ (fun h6 => ?_)
    · exact routePacket_within (hm.of ⟨rfl⟩) h
    exact Within.ite (fun _ => h6) (fun _ => sendOrAnswer_within (hm.of ⟨rfl⟩) h6)

theorem portGone_within {ps : List Area} {s0 : State} {port : Nat} {before : State} {s : State}
    (hm : Sub [.free, .counters, .events, .lanes, .ver, .fab] ps) (h : Within ps s0 before)
    (h2 : Within ps s0 s) :
    Within ps s0 (portGone port before s) := by
  unfold portGone
  extract_lets v1 v2 v3 v4 v5 v6
  refine Within.mid (ps := ps) (a := s0) v1 ?_ (fun h7 => ?_)
  · unfold v1
    exact settleRoutes_within (hm.of ⟨rfl⟩) h h2
  clear_value v1
  refine Within.mid (ps := ps) (a := s0) v2 ?_ (fun h8 => ?_)
  · unfold v2
    exact closeEntries_within (hm.of ⟨rfl⟩) h7
  clear_value v2
  refine Within.mid (ps := ps) (a := s0) v6 ?_ (fun h9 => ?_)
  · unfold v6
    exact Within.put h8
  clear_value v6
  exact Within.fold h9 (fun _ _ h12 => forward_within (hm.of ⟨rfl⟩) h12)

theorem pumpPort_within {ps : List Area} {s0 : State} {port : Nat} {s : State}
    (hm : Sub [.free, .counters, .events, .lanes, .ver, .fab] ps) (h : Within ps s0 s) :
    Within ps s0 (pumpPort port s) := by
  unfold pumpPort
  extract_lets v1 v2 v3
  refine Within.fold ?_ (fun s4 x5 h6 => ?_)
  · exact Within.put h
  · split
    · rename_i y10
      refine Within.ofPair1 (ps := ps) (a := s0) y10 ?_ (fun h11 => ?_)
      · exact sendOnPort_within (hm.of ⟨rfl⟩) h6
      exact Within.ite (fun _ => h11) (fun _ => sendOrAnswer_within (hm.of ⟨rfl⟩) h11)

theorem dropRequest_within {ps : List Area} {s0 : State} {o : FabricReq} {s : State} (hm : Sub [.fab] ps)
    (h : Within ps s0 s) :
    Within ps s0 (dropRequest o s) := by
  unfold dropRequest
  exact Within.put h

theorem giveAnswer_within {ps : List Area} {s0 : State} {o : FabricReq} {code : Nat} {data : Option Bytes}
    {s : State}
    (hm : Sub [.free, .counters, .events, .om, .spad, .dma, .dram, .host, .pho, .lanes, .ver, .fab, .twin] ps)
    (h : Within ps s0 s) :
    Within ps s0 (giveAnswer o code data s) := by
  unfold giveAnswer
  extract_lets v1 v2
  split
  · exact h
  · refine Within.ite (fun _ => ?_) (fun _ => ?_)
    · extract_lets v9
      refine Within.mid (ps := ps) (a := s0) v9 ?_ (fun h10 => ?_)
      · unfold v9
        exact Within.ite (fun _ => changeDesc_within (hm.of ⟨rfl⟩) h) (fun _ => h)
      clear_value v9
      exact parkDesc_within (hm.of ⟨rfl⟩) h10
    · exact answerDesc_within (hm.of ⟨rfl⟩) h

theorem endWithout_within {ps : List Area} {s0 : State} {o : FabricReq} {code : Nat} {s : State}
    (hm : Sub [.free, .counters, .events, .om, .spad, .dma, .dram, .host, .pho, .lanes, .ver, .fab, .twin] ps)
    (h : Within ps s0 s) :
    Within ps s0 (endWithout o code s) := by
  unfold endWithout
  extract_lets v1 v2 v3 v4
  refine Within.mid (ps := ps) (a := s0) v2 ?_ (fun h5 => ?_)
  · unfold v2
    exact skipTag_within (hm.of ⟨rfl⟩) (dropRequest_within (hm.of ⟨rfl⟩) h)
  clear_value v2
  refine Within.mid (ps := ps) (a := s0) v3 ?_ (fun h6 => ?_)
  · unfold v3
    exact fabricFailure_within (hm.of ⟨rfl⟩) h5
  clear_value v3
  refine Within.mid (ps := ps) (a := s0) v4 ?_ (fun h7 => ?_)
  · unfold v4
    refine Within.ite (fun _ => ?_) (fun _ => ?_)
    · split
      · exact h6
      · exact changeDesc_within (hm.of ⟨rfl⟩) h6
    · exact h6
  clear_value v4
  exact giveAnswer_within (hm.of ⟨rfl⟩) h7

theorem changeRequest_within {ps : List Area} {s0 : State} {o : FabricReq} {f : FabricReq → FabricReq}
    {s : State} (hm : Sub [.fab] ps) (h : Within ps s0 s) :
    Within ps s0 (changeRequest o f s) := by
  unfold changeRequest
  exact Within.put h

theorem packageIdAct_within {ps : List Area} {s0 : State} {a0 : Bytes} {a1 : State} (hm : Sub [.dict, .sec] ps)
    (h : Within ps s0 a1) :
    WWithin ps s0 (packageIdAct a0 a1) := by
  unfold packageIdAct
  split
  · exact .refuse
  · split
    · exact .refuse
    · exact WWithin.done (setDict_within (hm.of ⟨rfl⟩) h)

theorem execPackageIdWrite_within {ps : List Area} {s0 : State} {req : Req} {value : Bytes} {s : State}
    (hm : Sub [.dict, .events, .om, .sec] ps) (h : Within ps s0 s) :
    OutWithin ps s0 (execPackageIdWrite req value s) := by
  unfold execPackageIdWrite
  refine OutWithin.next ?_
  refine serveWrite_within (hm.of ⟨rfl⟩) ?_ ?_
  · intro x1 s2 h3
    exact packageIdAct_within (hm.of ⟨rfl⟩) h3
  · exact h

theorem routeTableAct_within {ps : List Area} {s0 : State} {a0 : Bytes} {a1 : State}
    (hm : Sub [.dict, .events, .fab, .sec] ps) (h : Within ps s0 a1) :
    WWithin ps s0 (routeTableAct a0 a1) := by
  unfold routeTableAct
  split
  · exact .refuse
  · exact WWithin.done (settleRoutes_within (hm.of ⟨rfl⟩) h (setDict_within (hm.of ⟨rfl⟩) h))

theorem execRouteTableWrite_within {ps : List Area} {s0 : State} {req : Req} {value : Bytes} {s : State}
    (hm : Sub [.dict, .events, .om, .fab, .sec] ps) (h : Within ps s0 s) :
    OutWithin ps s0 (execRouteTableWrite req value s) := by
  unfold execRouteTableWrite
  refine OutWithin.next ?_
  refine serveWrite_within (hm.of ⟨rfl⟩) ?_ ?_
  · intro x1 s2 h3
    exact routeTableAct_within (hm.of ⟨rfl⟩) h3
  · exact h

theorem routeSettle_within {ps : List Area} {s0 : State} {d : Nat} {s : State}
    (hm : Sub [.now, .free, .counters, .events, .lanes, .ver, .fab] ps) (h : Within ps s0 s) :
    Within ps s0 (routeSettle d s) := by
  unfold routeSettle
  extract_lets v1 v2 v3 v4 v5 v6
  refine Within.mid (ps := ps) (a := s0) v2 ?_ (fun h7 => ?_)
  · unfold v2
    exact advanceTo_within (hm.of ⟨rfl⟩) h
  clear_value v2
  refine Within.mid (ps := ps) (a := s0) v6 ?_ (fun h8 => ?_)
  · unfold v6
    exact Within.put h7
  clear_value v6
  exact Within.ite (fun _ => h) (fun _ => Within.fold h8 (fun _ _ h11 => forward_within (hm.of ⟨rfl⟩) h11))

theorem execRouteSettle_within {ps : List Area} {s0 : State} {destination : BitVec 12} {s : State}
    (hm : Sub [.now, .free, .counters, .events, .lanes, .ver, .fab] ps) (h : Within ps s0 s) :
    OutWithin ps s0 (execRouteSettle destination s) := by
  unfold execRouteSettle
  exact OutWithin.next (routeSettle_within (hm.of ⟨rfl⟩) h)

theorem noteUnbound_within {ps : List Area} {s0 : State} {p : Nat} {old : Nat} {new : Nat} {s : State}
    (hm : Sub [.fab] ps) (h : Within ps s0 s) :
    Within ps s0 (noteUnbound p old new s) := by
  unfold noteUnbound
  exact Within.ite (fun _ => Within.put h) (fun _ => h)

theorem bindingAct_within {ps : List Area} {s0 : State} {p : Nat} {a1 : Bytes} {a2 : State}
    (hm : Sub [.dict, .fab, .sec] ps) (h : Within ps s0 a2) :
    WWithin ps s0 (bindingAct p a1 a2) := by
  unfold bindingAct
  extract_lets v1 v2 v3 v4 v5
  refine Within.mid (ps := ps) (a := s0) v3 ?_ (fun h6 => ?_)
  · unfold v3
    exact noteUnbound_within (hm.of ⟨rfl⟩) h
  clear_value v3
  refine Within.mid (ps := ps) (a := s0) v4 ?_ (fun h7 => ?_)
  · unfold v4
    exact setDictNat_within (hm.of ⟨rfl⟩) h6
  clear_value v4
  split
  · exact .refuse
  · split
    · exact .refuse
    · split
      · exact .refuse
      · exact WWithin.done (Within.put h7)

theorem execJobBindingWrite_within {ps : List Area} {s0 : State} {req : Req} {partition : Partition}
    {value : Bytes} {s : State} (hm : Sub [.dict, .events, .om, .fab, .sec] ps) (h : Within ps s0 s) :
    OutWithin ps s0 (execJobBindingWrite req partition value s) := by
  unfold execJobBindingWrite
  refine OutWithin.next ?_
  refine serveWrite_within (hm.of ⟨rfl⟩) ?_ ?_
  · intro x1 s2 h3
    exact bindingAct_within (hm.of ⟨rfl⟩) h3
  · exact h

theorem endJobRequests_within {ps : List Area} {s0 : State} {job : BitVec 16} {p : Nat} {s : State}
    (hm : Sub [.free, .counters, .events, .om, .spad, .dma, .dram, .host, .pho, .lanes, .ver, .fab, .twin] ps)
    (h : Within ps s0 s) :
    Within ps s0 (endJobRequests job p s) := by
  unfold endJobRequests
  extract_lets v1 v2 v3 v4 v5 v6
  refine Within.mid (ps := ps) (a := s0) v3 ?_ (fun h7 => ?_)
  · unfold v3
    exact Within.put h
  clear_value v3
  refine Within.mid (ps := ps) (a := s0) v5 ?_ (fun h8 => ?_)
  · unfold v5
    exact Within.fold h7 (fun _ _ h11 => endWithout_within (hm.of ⟨rfl⟩) h11)
  clear_value v5
  exact Within.put h8

theorem answerMembers_within {ps : List Area} {s0 : State} {e : CombineEntry} {tower : Nat}
    {f : Nat → Nat × Bytes} {s : State} (hm : Sub [.free, .counters, .events, .lanes, .ver, .fab] ps)
    (h : Within ps s0 s) :
    Within ps s0 (answerMembers e tower f s) := by
  unfold answerMembers
  refine Within.fold ?_ (fun s1 x2 h3 => ?_)
  · exact h
  · split
    · extract_lets v8
      exact Within.fold h3 (fun _ _ h11 => respond_within (hm.of ⟨rfl⟩) h11)

theorem answerAll_within {ps : List Area} {s0 : State} {e : CombineEntry} {tower : Nat} {code : Nat} {s : State}
    (hm : Sub [.free, .counters, .events, .lanes, .ver, .fab] ps) (h : Within ps s0 s) :
    Within ps s0 (answerAll e tower code s) := by
  unfold answerAll
  exact answerMembers_within (hm.of ⟨rfl⟩) h

theorem incomingFault_within {ps : List Area} {s0 : State} {q : Nat} {t : Nat} {address : Nat} {level : Nat}
    {kind : Kind} {remote : Nat} {s : State} (hm : Sub [.counters, .events, .dma, .host] ps)
    (h : Within ps s0 s) :
    Within ps s0 (incomingFault q t address level kind remote s) := by
  unfold incomingFault
  refine Within.ite (fun _ => ?_) (fun _ => ?_)
  · exact loseFault_within (hm.of ⟨rfl⟩) h
  · split
    · rename_i y4
      refine Within.ofPair1 (ps := ps) (a := s0) y4 ?_ (fun h5 => ?_)
      · exact recordTag_within (hm.of ⟨rfl⟩) h
      exact writeFaultRecord_within (hm.of ⟨rfl⟩) h5

theorem answerStored_within {ps : List Area} {s0 : State} {e : CombineEntry} {tower : Nat} {a : Nat}
    {poisoned : Bool} {f : Nat → Nat × Bytes} {s : State}
    (hm : Sub [.free, .counters, .events, .dma, .pho, .lanes, .ver, .fab] ps) (h : Within ps s0 s) :
    Within ps s0 (answerStored e tower a poisoned f s) := by
  unfold answerStored
  refine Within.ite (fun _ => ?_) (fun _ => ?_)
  · extract_lets v1
    exact sendInvalidations_within (hm.of ⟨rfl⟩) h
  · exact answerMembers_within (hm.of ⟨rfl⟩) h

theorem applyAtomics_within {ps : List Area} {s0 : State} {e : CombineEntry} {tower : Nat} {a : Nat} {s : State}
    (hm : Sub [.free, .counters, .events, .spad, .dma, .dram, .pho, .lanes, .ver, .fab, .twin] ps)
    (h : Within ps s0 s) :
    Within ps s0 (applyAtomics e tower a s) := by
  unfold applyAtomics
  extract_lets v1 v2 v3 v4 v5 v6
  refine Within.mid (ps := ps) (a := s0) v3 ?_ (fun h7 => ?_)
  · unfold v3
    refine Within.fold ?_ (fun s8 x9 h10 => ?_)
    · exact h
    · split
      · exact h10
      · exact raise_within (hm.of ⟨rfl⟩) h10
  clear_value v3
  refine Within.ite (fun _ => ?_) (fun _ => ?_)
  · exact answerAll_within (hm.of ⟨rfl⟩) h7
  · split
    · rename_i y20
      refine Within.ofPair2 (ps := ps) (a := s0) y20 ?_ (fun h21 => ?_)
      · split
        · dsimp only
          exact h7
        · split
          · exact spadAtomic_within (hm.of ⟨rfl⟩) h7
          · exact atomicLine_within (hm.of ⟨rfl⟩) h7
      split
      · rename_i y29
        refine Within.ofPair1 (ps := ps) (a := s0) y29 ?_ (fun h30 => ?_)
        · split
          · exact drawBytes_within (hm.of ⟨rfl⟩) h21
          · dsimp only
            exact h21
        extract_lets v33 v34 v35 v36 v37
        refine Within.mid (ps := ps) (a := s0) v37 ?_ (fun h38 => ?_)
        · unfold v37
          exact Within.put h30
        clear_value v37
        exact answerStored_within (hm.of ⟨rfl⟩) h38

theorem applyAt_within {ps : List Area} {s0 : State} {e : CombineEntry} {tower : Nat} {a : Nat} {s : State}
    (hm : Sub [.free, .counters, .events, .spad, .dma, .dram, .pho, .lanes, .ver, .fab, .twin] ps)
    (h : Within ps s0 s) :
    Within ps s0 (applyAt e tower a s) := by
  unfold applyAt
  split
  · split
    · rename_i y7
      refine Within.ofPair2 (ps := ps) (a := s0) y7 ?_ (fun h8 => ?_)
      · exact readLocal_within (hm.of ⟨rfl⟩) h
      exact answerMembers_within (hm.of ⟨rfl⟩) h8
  · split
    · split
      · rename_i y18
        refine Within.ofPair1 (ps := ps) (a := s0) y18 ?_ (fun h19 => ?_)
        · exact writeEnabled_within (hm.of ⟨rfl⟩) h
        exact answerStored_within (hm.of ⟨rfl⟩) h19
  · exact applyAtomics_within (hm.of ⟨rfl⟩) h

theorem applyEntry_within {ps : List Area} {s0 : State} {e : CombineEntry} {s : State}
    (hm : Sub [.free, .counters, .events, .spad, .dma, .dram, .host, .pho, .lanes, .ver, .fab, .twin] ps)
    (h : Within ps s0 s) :
    Within ps s0 (applyEntry e s) := by
  unfold applyEntry
  split
  · exact answerAll_within (hm.of ⟨rfl⟩) h
  · extract_lets v6 v7 v8
    split
    · rename_i y12
      refine Within.ofPair1 (ps := ps) (a := s0) y12 ?_ (fun h13 => ?_)
      · exact translateNow_within (hm.of ⟨rfl⟩) h
      split
      · refine Within.ofPair1 (ps := ps) (a := s0) y12 ?_ (fun h19 => ?_)
        · exact translateNow_within (hm.of ⟨rfl⟩) h
        split
        · exact answerAll_within (hm.of ⟨rfl⟩) (incomingFault_within (hm.of ⟨rfl⟩) h13)
        · refine Within.ite (fun _ => ?_) (fun _ => ?_)
          · exact answerAll_within (hm.of ⟨rfl⟩) (incomingFault_within (hm.of ⟨rfl⟩) h13)
          · refine Within.ite (fun _ => ?_) (fun _ => ?_)
            · exact answerAll_within (hm.of ⟨rfl⟩) (worldDenied_within (hm.of ⟨rfl⟩) h13)
            · refine Within.ite (fun _ => ?_) (fun _ => ?_)
              · exact answerAll_within (hm.of ⟨rfl⟩) h13
              · refine Within.ite (fun _ => ?_) (fun _ => ?_)
                · exact answerAll_within (hm.of ⟨rfl⟩) h13
                · refine Within.ite (fun _ => ?_) (fun _ => ?_)
                  · exact answerAll_within (hm.of ⟨rfl⟩) h13
                  · exact applyAt_within (hm.of ⟨rfl⟩) h13
      · refine Within.ofPair1 (ps := ps) (a := s0) y12 ?_ (fun h29 => ?_)
        · exact translateNow_within (hm.of ⟨rfl⟩) h
        exact answerAll_within (hm.of ⟨rfl⟩) (incomingFault_within (hm.of ⟨rfl⟩) h13)
      · refine Within.ofPair1 (ps := ps) (a := s0) y12 ?_ (fun h32 => ?_)
        · exact translateNow_within (hm.of ⟨rfl⟩) h
        exact answerAll_within (hm.of ⟨rfl⟩) (worldDenied_within (hm.of ⟨rfl⟩) h13)
      · exact answerAll_within (hm.of ⟨rfl⟩) h13

theorem applyJobEntries_within {ps : List Area} {s0 : State} {job : BitVec 16} {s : State}
    (hm : Sub [.free, .counters, .events, .spad, .dma, .dram, .host, .pho, .lanes, .ver, .fab, .twin] ps)
    (h : Within ps s0 s) :
    Within ps s0 (applyJobEntries job s) := by
  unfold applyJobEntries
  extract_lets v1 v2 v3
  refine Within.mid (ps := ps) (a := s0) v1 ?_ (fun h4 => ?_)
  · unfold v1
    exact closeEntries_within (hm.of ⟨rfl⟩) h
  clear_value v1
  exact Within.fold (Within.put h4) (fun _ _ h7 => applyEntry_within (hm.of ⟨rfl⟩) h7)

theorem teardownAct_within {ps : List Area} {s0 : State} {a0 : Bytes} {a1 : State}
    (hm : Sub [.free, .counters, .dict, .events, .om, .spad, .dma, .dram, .host, .pho, .lanes, .ver, .fab, .sec, .twin] ps)
    (h : Within ps s0 a1) :
    WWithin ps s0 (teardownAct a0 a1) := by
  unfold teardownAct
  extract_lets v1
  split
  · exact .refuse
  · extract_lets v7 v8 v9
    refine Within.mid (ps := ps) (a := s0) v7 ?_ (fun h10 => ?_)
    · unfold v7
      exact setDictNat_within (hm.of ⟨rfl⟩) h
    clear_value v7
    refine Within.mid (ps := ps) (a := s0) v8 ?_ (fun h11 => ?_)
    · unfold v8
      exact endJobRequests_within (hm.of ⟨rfl⟩) (applyJobEntries_within (hm.of ⟨rfl⟩) h10)
    clear_value v8
    exact WWithin.done (raise_within (hm.of ⟨rfl⟩) (Within.put h11))

theorem execJobTeardown_within {ps : List Area} {s0 : State} {req : Req} {value : Bytes} {s : State}
    (hm : Sub [.free, .counters, .dict, .events, .om, .spad, .dma, .dram, .host, .pho, .lanes, .ver, .fab, .sec, .twin] ps)
    (h : Within ps s0 s) :
    OutWithin ps s0 (execJobTeardown req value s) := by
  unfold execJobTeardown
  refine OutWithin.next ?_
  refine serveWrite_within (hm.of ⟨rfl⟩) ?_ ?_
  · intro x1 s2 h3
    exact teardownAct_within (hm.of ⟨rfl⟩) h3
  · exact h

theorem arriveCredits_within {ps : List Area} {s0 : State} {port : Nat} {f : FabricHeader} {s : State}
    (hm : Sub [.free, .counters, .events, .lanes, .ver, .fab] ps) (h : Within ps s0 s) :
    Within ps s0 (arriveCredits port f s) := by
  unfold arriveCredits
  extract_lets v1 v2 v3
  refine Within.mid (ps := ps) (a := s0) v1 ?_ (fun h4 => ?_)
  · unfold v1
    exact Within.fold h (fun _ _ h7 => Within.put h7)
  clear_value v1
  refine Within.mid (ps := ps) (a := s0) v3 ?_ (fun h8 => ?_)
  · unfold v3
    exact Within.ite (fun _ => h4) (fun _ => Within.put h4)
  clear_value v3
  exact pumpPort_within (hm.of ⟨rfl⟩) h8

theorem combine_within {ps : List Area} {s0 : State} {port : Nat} {p : FabricPacket} {s : State}
    (hm : Sub [.counters, .fab] ps) (h : Within ps s0 s) :
    Within ps s0 (combine port p s) := by
  unfold combine
  extract_lets v1 v2
  split
  · extract_lets v7 v8 v9 v10 v11 v12 v13 v14 v15 v16
    refine Within.mid (ps := ps) (a := s0) v8 ?_ (fun h17 => ?_)
    · unfold v8
      exact closeEntries_within (hm.of ⟨rfl⟩) h
    clear_value v8
    refine Within.mid (ps := ps) (a := s0) v12 ?_ (fun h18 => ?_)
    · unfold v12
      exact count64_within (hm.of ⟨rfl⟩) (Within.put h17)
    clear_value v12
    refine Within.mid (ps := ps) (a := s0) v13 ?_ (fun h19 => ?_)
    · unfold v13
      exact closeEntries_within (hm.of ⟨rfl⟩) h17
    clear_value v13
    refine Within.ite (fun _ => ?_) (fun _ => ?_)
    · exact closeEntries_within (hm.of ⟨rfl⟩) h18
    · exact Within.ite (fun _ => Within.put h19) (fun _ => addReady_within (hm.of ⟨rfl⟩) h19)

theorem decideAtomic_within {ps : List Area} {s0 : State} {port : Nat} {p : FabricPacket} {s : State}
    (hm : Sub [.free, .counters, .events, .lanes, .ver, .fab] ps) (h : Within ps s0 s) :
    Within ps s0 (decideAtomic port p s) := by
  unfold decideAtomic
  extract_lets v1 v2 v3 v4 v5
  split
  · exact respond_within (hm.of ⟨rfl⟩) (count64_within (hm.of ⟨rfl⟩) h)
  · refine Within.ite (fun _ => ?_) (fun _ => ?_)
    · exact Within.put h
    · refine Within.ite (fun _ => ?_) (fun _ => ?_)
      · exact Within.put h
      · refine Within.ite (fun _ => ?_) (fun _ => ?_)
        · exact combine_within (hm.of ⟨rfl⟩) h
        · exact respond_within (hm.of ⟨rfl⟩) (raise_within (hm.of ⟨rfl⟩) (count32_within (hm.of ⟨rfl⟩) h))

theorem serveRequest_within {ps : List Area} {s0 : State} {port : Nat} {p : FabricPacket} {s : State}
    (hm : Sub [.free, .counters, .events, .lanes, .ver, .fab] ps) (h : Within ps s0 s) :
    Within ps s0 (serveRequest port p s) := by
  unfold serveRequest
  extract_lets v1
  split
  · exact respond_within (hm.of ⟨rfl⟩) (raise_within (hm.of ⟨rfl⟩) h)
  · refine Within.ite (fun _ => ?_) (fun _ => ?_)
    · exact respond_within (hm.of ⟨rfl⟩) h
    · refine Within.ite (fun _ => ?_) (fun _ => ?_)
      · exact respond_within (hm.of ⟨rfl⟩) h
      · exact Within.ite (fun _ => decideAtomic_within (hm.of ⟨rfl⟩) h) (fun _ => combine_within (hm.of ⟨rfl⟩) h)

theorem requestIn_within {ps : List Area} {s0 : State} {port : Nat} {kind : Nat} {header : BitVec 256}
    {data : Bytes} {s : State} (hm : Sub [.free, .counters, .events, .lanes, .ver, .fab] ps)
    (h : Within ps s0 s) :
    Within ps s0 (requestIn port kind header data s) := by
  unfold requestIn
  extract_lets v1 v2 v3
  refine Within.mid (ps := ps) (a := s0) v3 ?_ (fun h4 => ?_)
  · unfold v3
    exact arriveCredits_within (hm.of ⟨rfl⟩) h
  clear_value v3
  refine Within.ite (fun _ => ?_) (fun _ => ?_)
  · exact h
  · split
    · exact h4
    · refine Within.ite (fun _ => ?_) (fun _ => ?_)
      · exact respond_within (hm.of ⟨rfl⟩) h4
      · refine Within.ite (fun _ => ?_) (fun _ => ?_)
        · exact respond_within (hm.of ⟨rfl⟩) h4
        · refine Within.ite (fun _ => ?_) (fun _ => ?_)
          · exact forward_within (hm.of ⟨rfl⟩) h4
          · refine Within.ite (fun _ => ?_) (fun _ => ?_)
            · exact respond_within (hm.of ⟨rfl⟩) h4
            · exact serveRequest_within (hm.of ⟨rfl⟩) h4

theorem execFabricRead_within {ps : List Area} {s0 : State} {port : Port} {header : BitVec 256} {data : Bytes}
    {s : State} (hm : Sub [.free, .counters, .events, .lanes, .ver, .fab] ps) (h : Within ps s0 s) :
    OutWithin ps s0 (execFabricRead port header data s) := by
  unfold execFabricRead
  exact OutWithin.next (requestIn_within (hm.of ⟨rfl⟩) h)

theorem execFabricWrite_within {ps : List Area} {s0 : State} {port : Port} {header : BitVec 256} {data : Bytes}
    {s : State} (hm : Sub [.free, .counters, .events, .lanes, .ver, .fab] ps) (h : Within ps s0 s) :
    OutWithin ps s0 (execFabricWrite port header data s) := by
  unfold execFabricWrite
  exact OutWithin.next (requestIn_within (hm.of ⟨rfl⟩) h)

theorem execFabricAtomic_within {ps : List Area} {s0 : State} {port : Port} {header : BitVec 256} {data : Bytes}
    {s : State} (hm : Sub [.free, .counters, .events, .lanes, .ver, .fab] ps) (h : Within ps s0 s) :
    OutWithin ps s0 (execFabricAtomic port header data s) := by
  unfold execFabricAtomic
  exact OutWithin.next (requestIn_within (hm.of ⟨rfl⟩) h)

theorem lateAtomic_within {ps : List Area} {s0 : State} {o : FabricReq} {code : Nat} {data : Bytes} {s : State}
    (hm : Sub [.spad, .dma] ps) (h : Within ps s0 s) :
    Within ps s0 (lateAtomic o code data s) := by
  unfold lateAtomic
  extract_lets v1 v2
  split
  · exact h
  · split
    · exact h
    · extract_lets v13
      refine Within.mid (ps := ps) (a := s0) v13 ?_ (fun h14 => ?_)
      · unfold v13
        exact Within.ite (fun _ => h) (fun _ => spadWrite_within (hm.of ⟨rfl⟩) h)
      clear_value v13
      exact changeDesc_within (hm.of ⟨rfl⟩) h14

theorem answerIn_within {ps : List Area} {s0 : State} {port : Nat} {kind : Nat} {header : BitVec 256}
    {data : Bytes} {s : State}
    (hm : Sub [.free, .counters, .events, .om, .spad, .dma, .dram, .host, .pho, .lanes, .ver, .fab, .twin] ps)
    (h : Within ps s0 s) :
    Within ps s0 (answerIn port kind header data s) := by
  unfold answerIn
  extract_lets v1 v2 v3 v4 v5
  refine Within.mid (ps := ps) (a := s0) v3 ?_ (fun h6 => ?_)
  · unfold v3
    exact arriveCredits_within (hm.of ⟨rfl⟩) h
  clear_value v3
  refine Within.mid (ps := ps) (a := s0) v4 ?_ (fun h7 => ?_)
  · unfold v4
    exact Within.ite (fun _ => limiterEcho_within (hm.of ⟨rfl⟩) h6) (fun _ => h6)
  clear_value v4
  refine Within.ite (fun _ => ?_) (fun _ => ?_)
  · exact h
  · split
    · exact h6
    · refine Within.ite (fun _ => ?_) (fun _ => ?_)
      · exact h6
      · refine Within.ite (fun _ => ?_) (fun _ => ?_)
        · exact forward_within (hm.of ⟨rfl⟩) h6
        · split
          · exact h7
          · split
            · exact Within.ite (fun _ => lateAtomic_within (hm.of ⟨rfl⟩) h7) (fun _ => h7)
            · exact h7
            · refine Within.ite (fun _ => ?_) (fun _ => ?_)
              · extract_lets v27
                exact changeRequest_within (hm.of ⟨rfl⟩) h7
              · refine Within.ite (fun _ => ?_) (fun _ => ?_)
                · exact giveAnswer_within (hm.of ⟨rfl⟩) (changeRequest_within (hm.of ⟨rfl⟩) h7)
                · refine giveAnswer_within (hm.of ⟨rfl⟩) ?_
                  exact fabricFailure_within (hm.of ⟨rfl⟩) (dropRequest_within (hm.of ⟨rfl⟩) h7)

theorem execFabricReadData_within {ps : List Area} {s0 : State} {port : Port} {header : BitVec 256}
    {data : Bytes} {s : State}
    (hm : Sub [.free, .counters, .events, .om, .spad, .dma, .dram, .host, .pho, .lanes, .ver, .fab, .twin] ps)
    (h : Within ps s0 s) :
    OutWithin ps s0 (execFabricReadData port header data s) := by
  unfold execFabricReadData
  exact OutWithin.next (answerIn_within (hm.of ⟨rfl⟩) h)

theorem execFabricCompletion_within {ps : List Area} {s0 : State} {port : Port} {header : BitVec 256}
    {data : Bytes} {s : State}
    (hm : Sub [.free, .counters, .events, .om, .spad, .dma, .dram, .host, .pho, .lanes, .ver, .fab, .twin] ps)
    (h : Within ps s0 s) :
    OutWithin ps s0 (execFabricCompletion port header data s) := by
  unfold execFabricCompletion
  exact OutWithin.next (answerIn_within (hm.of ⟨rfl⟩) h)

theorem execFabricAtomicData_within {ps : List Area} {s0 : State} {port : Port} {header : BitVec 256}
    {data : Bytes} {s : State}
    (hm : Sub [.free, .counters, .events, .om, .spad, .dma, .dram, .host, .pho, .lanes, .ver, .fab, .twin] ps)
    (h : Within ps s0 s) :
    OutWithin ps s0 (execFabricAtomicData port header data s) := by
  unfold execFabricAtomicData
  exact OutWithin.next (answerIn_within (hm.of ⟨rfl⟩) h)

theorem execCredit_within {ps : List Area} {s0 : State} {port : Port} {header : BitVec 256} {s : State}
    (hm : Sub [.free, .counters, .events, .lanes, .ver, .fab] ps) (h : Within ps s0 s) :
    OutWithin ps s0 (execCredit port header s) := by
  unfold execCredit
  extract_lets v1
  exact OutWithin.next (Within.ite (fun _ => arriveCredits_within (hm.of ⟨rfl⟩) h) (fun _ => h))

theorem ownPacket_within {ps : List Area} {s0 : State} {kind : Nat} {enables : Nat} {data : Bytes} {s : State}
    (hm : Sub [.free] ps) (h : Within ps s0 s) :
    Within ps s0 (ownPacket kind enables data s).2 := by
  unfold ownPacket
  split
  · rename_i y4
    refine Within.ofPair1 (ps := ps) (a := s0) y4 ?_ (fun h5 => ?_)
    · exact draw_within (hm.of ⟨rfl⟩) h
    dsimp only
    exact h5

theorem creditTimer_within {ps : List Area} {s0 : State} {port : Nat} {s : State}
    (hm : Sub [.now, .free, .events, .lanes, .fab] ps) (h : Within ps s0 s) :
    Within ps s0 (creditTimer port s) := by
  unfold creditTimer
  extract_lets v1 v2
  refine Within.mid (ps := ps) (a := s0) v2 ?_ (fun h3 => ?_)
  · unfold v2
    exact advanceTo_within (hm.of ⟨rfl⟩) h
  clear_value v2
  refine Within.ite (fun _ => ?_) (fun _ => ?_)
  · exact h
  · split
    · rename_i y7
      refine Within.ofPair1 (ps := ps) (a := s0) y7 ?_ (fun h8 => ?_)
      · exact ownPacket_within (hm.of ⟨rfl⟩) h3
      extract_lets v9 v10
      exact launch_within (hm.of ⟨rfl⟩) (Within.put h8)

theorem execCreditTimer_within {ps : List Area} {s0 : State} {port : Port} {s : State}
    (hm : Sub [.now, .free, .events, .lanes, .fab] ps) (h : Within ps s0 s) :
    OutWithin ps s0 (execCreditTimer port s) := by
  unfold execCreditTimer
  exact OutWithin.next (creditTimer_within (hm.of ⟨rfl⟩) h)

theorem helloArrives_within {ps : List Area} {s0 : State} {port : Nat} {header : BitVec 256} {data : Bytes}
    {s : State} (hm : Sub [.free, .counters, .events, .lanes, .ver, .fab] ps) (h : Within ps s0 s) :
    Within ps s0 (helloArrives port header data s) := by
  unfold helloArrives
  extract_lets v1 v2 v3 v4
  refine Within.mid (ps := ps) (a := s0) v2 ?_ (fun h5 => ?_)
  · unfold v2
    exact arriveCredits_within (hm.of ⟨rfl⟩) h
  clear_value v2
  exact Within.ite (fun _ => h) (fun _ => Within.ite (fun _ => h5) (fun _ => Within.put h5))

theorem execHello_within {ps : List Area} {s0 : State} {port : Port} {header : BitVec 256} {data : Bytes}
    {s : State} (hm : Sub [.free, .counters, .events, .lanes, .ver, .fab] ps) (h : Within ps s0 s) :
    OutWithin ps s0 (execHello port header data s) := by
  unfold execHello
  exact OutWithin.next (helloArrives_within (hm.of ⟨rfl⟩) h)

theorem helloTimer_within {ps : List Area} {s0 : State} {port : Nat} {s : State}
    (hm : Sub [.now, .free, .counters, .events, .lanes, .ver, .fab] ps) (h : Within ps s0 s) :
    Within ps s0 (helloTimer port s) := by
  unfold helloTimer
  refine Within.ite (fun _ => ?_) (fun _ => ?_)
  · exact h
  · extract_lets v1 v2 v3
    refine Within.mid (ps := ps) (a := s0) v2 ?_ (fun h4 => ?_)
    · unfold v2
      exact Within.ite (fun _ => h) (fun _ => advanceTo_within (hm.of ⟨rfl⟩) h)
    clear_value v2
    split
    · rename_i y8
      refine Within.ofPair1 (ps := ps) (a := s0) y8 ?_ (fun h9 => ?_)
      · exact ownPacket_within (hm.of ⟨rfl⟩) h4
      exact sendOnPort_within (hm.of ⟨rfl⟩) (Within.put h9)

theorem execHelloTimer_within {ps : List Area} {s0 : State} {port : Port} {s : State}
    (hm : Sub [.now, .free, .counters, .events, .lanes, .ver, .fab] ps) (h : Within ps s0 s) :
    OutWithin ps s0 (execHelloTimer port s) := by
  unfold execHelloTimer
  exact OutWithin.next (helloTimer_within (hm.of ⟨rfl⟩) h)

theorem keySwitch_within {ps : List Area} {s0 : State} {port : Nat} {count : Nat} {s : State}
    (hm : Sub [.events, .fab] ps) (h : Within ps s0 s) :
    Within ps s0 (keySwitch port count s) := by
  unfold keySwitch
  refine Within.ite (fun _ => ?_) (fun _ => ?_)
  · exact h
  · extract_lets v1 v2 v3
    exact switchKey_within (hm.of ⟨rfl⟩) (Within.put h)

theorem execKeySwitch_within {ps : List Area} {s0 : State} {port : Port} {count : BitVec 64} {s : State}
    (hm : Sub [.events, .fab] ps) (h : Within ps s0 s) :
    OutWithin ps s0 (execKeySwitch port count s) := by
  unfold execKeySwitch
  exact OutWithin.next (keySwitch_within (hm.of ⟨rfl⟩) h)

theorem replaceKey_within {ps : List Area} {s0 : State} {port : Nat} {s : State}
    (hm : Sub [.free, .counters, .events, .lanes, .ver, .fab] ps) (h : Within ps s0 s) :
    Within ps s0 (replaceKey port s) := by
  unfold replaceKey
  extract_lets v1 v2
  split
  · rename_i y6
    refine Within.ofPair1 (ps := ps) (a := s0) y6 ?_ (fun h7 => ?_)
    · exact drawBytes_within (hm.of ⟨rfl⟩) h
    split
    · rename_i y11
      refine Within.ofPair1 (ps := ps) (a := s0) y11 ?_ (fun h12 => ?_)
      · exact ownPacket_within (hm.of ⟨rfl⟩) h7
      extract_lets v13 v14
      refine Within.mid (ps := ps) (a := s0) v13 ?_ (fun h15 => ?_)
      · unfold v13
        exact sendOnPort_within (hm.of ⟨rfl⟩) h12
      clear_value v13
      exact switchKey_within (hm.of ⟨rfl⟩) (Within.put h15)

theorem keyCountExpiry_within {ps : List Area} {s0 : State} {port : Nat} {s : State}
    (hm : Sub [.free, .counters, .events, .lanes, .ver, .fab] ps) (h : Within ps s0 s) :
    Within ps s0 (keyCountExpiry port s) := by
  unfold keyCountExpiry
  exact Within.ite (fun _ => h) (fun _ => pumpPort_within (hm.of ⟨rfl⟩) (replaceKey_within (hm.of ⟨rfl⟩) h))

theorem execKeyCountExpiry_within {ps : List Area} {s0 : State} {port : Port} {s : State}
    (hm : Sub [.free, .counters, .events, .lanes, .ver, .fab] ps) (h : Within ps s0 s) :
    OutWithin ps s0 (execKeyCountExpiry port s) := by
  unfold execKeyCountExpiry
  exact OutWithin.next (keyCountExpiry_within (hm.of ⟨rfl⟩) h)

theorem combineWindow_within {ps : List Area} {s0 : State} {port : Nat} {s : State} (hm : Sub [.now, .fab] ps)
    (h : Within ps s0 s) :
    Within ps s0 (combineWindow port s) := by
  unfold combineWindow
  split
  · exact h
  · exact closeEntries_within (hm.of ⟨rfl⟩) (advanceTo_within (hm.of ⟨rfl⟩) h)

theorem execCombineWindowExpiry_within {ps : List Area} {s0 : State} {port : Port} {s : State}
    (hm : Sub [.now, .fab] ps) (h : Within ps s0 s) :
    OutWithin ps s0 (execCombineWindowExpiry port s) := by
  unfold execCombineWindowExpiry
  exact OutWithin.next (combineWindow_within (hm.of ⟨rfl⟩) h)

theorem execEntryApplied_within {ps : List Area} {s0 : State} {s : State}
    (hm : Sub [.free, .counters, .events, .spad, .dma, .dram, .host, .pho, .lanes, .ver, .fab, .twin] ps)
    (h : Within ps s0 s) :
    OutWithin ps s0 (execEntryApplied s) := by
  unfold execEntryApplied
  refine OutWithin.next ?_
  split
  · exact h
  · exact applyEntry_within (hm.of ⟨rfl⟩) (Within.put h)

theorem replyExpiry_within {ps : List Area} {s0 : State} {source : Nat} {seq : BitVec 16} {s : State}
    (hm : Sub [.now, .fab] ps) (h : Within ps s0 s) :
    Within ps s0 (replyExpiry source seq s) := by
  unfold replyExpiry
  extract_lets v1
  split
  · exact h
  · extract_lets v7 v8
    refine Within.mid (ps := ps) (a := s0) v7 ?_ (fun h9 => ?_)
    · unfold v7
      exact advanceTo_within (hm.of ⟨rfl⟩) h
    clear_value v7
    exact Within.put h9

theorem execReplyCacheExpiry_within {ps : List Area} {s0 : State} {source : BitVec 12} {sequence : BitVec 16}
    {s : State} (hm : Sub [.now, .fab] ps) (h : Within ps s0 s) :
    OutWithin ps s0 (execReplyCacheExpiry source sequence s) := by
  unfold execReplyCacheExpiry
  exact OutWithin.next (replyExpiry_within (hm.of ⟨rfl⟩) h)

theorem sendAgain_within {ps : List Area} {s0 : State} {o : FabricReq} {s : State}
    (hm : Sub [.free, .counters, .events, .lanes, .ver, .fab] ps) (h : Within ps s0 s) :
    Within ps s0 (sendAgain o s).2 := by
  unfold sendAgain
  split
  · rename_i y4
    refine Within.ofPair1 (ps := ps) (a := s0) y4 ?_ (fun h5 => ?_)
    · exact chargeLimiter_within (hm.of ⟨rfl⟩) h
    extract_lets v6
    refine Within.mid (ps := ps) (a := s0) v6 ?_ (fun h7 => ?_)
    · unfold v6
      exact changeRequest_within (hm.of ⟨rfl⟩) h5
    clear_value v6
    exact routePacket_within (hm.of ⟨rfl⟩) h7

theorem responseTimer_within {ps : List Area} {s0 : State} {t : Nat} {e : Nat} {tag : BitVec 16} {s : State}
    (hm : Sub [.now, .free, .counters, .events, .om, .spad, .dma, .dram, .host, .pho, .lanes, .ver, .fab, .twin] ps)
    (h : Within ps s0 s) :
    Within ps s0 (responseTimer t e tag s) := by
  unfold responseTimer
  split
  · exact h
  · refine Within.ite (fun _ => ?_) (fun _ => ?_)
    · exact h
    · extract_lets v6 v7 v8 v9 v10
      refine Within.mid (ps := ps) (a := s0) v6 ?_ (fun h11 => ?_)
      · unfold v6
        exact advanceTo_within (hm.of ⟨rfl⟩) h
      clear_value v6
      refine Within.mid (ps := ps) (a := s0) v8 ?_ (fun h12 => ?_)
      · unfold v8
        exact changeRequest_within (hm.of ⟨rfl⟩) h11
      clear_value v8
      refine Within.mid (ps := ps) (a := s0) v10 ?_ (fun h13 => ?_)
      · unfold v10
        exact changeRequest_within (hm.of ⟨rfl⟩) h12
      clear_value v10
      refine Within.ite (fun _ => ?_) (fun _ => ?_)
      · exact endWithout_within (hm.of ⟨rfl⟩) h12
      · refine Within.ite (fun _ => ?_) (fun _ => ?_)
        · exact h12
        · refine Within.ite (fun _ => ?_) (fun _ => ?_)
          · exact h13
          · split
            · rename_i y17
              refine Within.ofPair1 (ps := ps) (a := s0) y17 ?_ (fun h18 => ?_)
              · exact sendAgain_within (hm.of ⟨rfl⟩) (count64_within (hm.of ⟨rfl⟩) h13)
              split
              · refine Within.ofPair1 (ps := ps) (a := s0) y17 ?_ (fun h21 => ?_)
                · exact sendAgain_within (hm.of ⟨rfl⟩) (count64_within (hm.of ⟨rfl⟩) h13)
                exact h18
              · refine Within.ofPair1 (ps := ps) (a := s0) y17 ?_ (fun h25 => ?_)
                · exact sendAgain_within (hm.of ⟨rfl⟩) (count64_within (hm.of ⟨rfl⟩) h13)
                exact endWithout_within (hm.of ⟨rfl⟩) h18

theorem execResponseTimer_within {ps : List Area} {s0 : State} {tower : Tower} {engine : EngineNo}
    {tag : BitVec 16} {s : State}
    (hm : Sub [.now, .free, .counters, .events, .om, .spad, .dma, .dram, .host, .pho, .lanes, .ver, .fab, .twin] ps)
    (h : Within ps s0 s) :
    OutWithin ps s0 (execResponseTimer tower engine tag s) := by
  unfold execResponseTimer
  exact OutWithin.next (responseTimer_within (hm.of ⟨rfl⟩) h)

theorem fabricBackoff_within {ps : List Area} {s0 : State} {t : Nat} {e : Nat} {tag : BitVec 16} {s : State}
    (hm : Sub [.now, .free, .counters, .events, .om, .spad, .dma, .dram, .host, .pho, .lanes, .ver, .fab, .twin] ps)
    (h : Within ps s0 s) :
    Within ps s0 (fabricBackoff t e tag s) := by
  unfold fabricBackoff
  split
  · exact h
  · split
    · extract_lets v10 v11
      refine Within.mid (ps := ps) (a := s0) v10 ?_ (fun h12 => ?_)
      · unfold v10
        exact advanceTo_within (hm.of ⟨rfl⟩) h
      clear_value v10
      split
      · rename_i y16
        refine Within.ofPair1 (ps := ps) (a := s0) y16 ?_ (fun h17 => ?_)
        · exact sendAgain_within (hm.of ⟨rfl⟩) (count64_within (hm.of ⟨rfl⟩) (changeRequest_within (hm.of ⟨rfl⟩) h12))
        split
        · refine Within.ofPair1 (ps := ps) (a := s0) y16 ?_ (fun h20 => ?_)
          · refine sendAgain_within (hm.of ⟨rfl⟩) ?_
            exact count64_within (hm.of ⟨rfl⟩) (changeRequest_within (hm.of ⟨rfl⟩) h12)
          exact h17
        · refine Within.ofPair1 (ps := ps) (a := s0) y16 ?_ (fun h24 => ?_)
          · refine sendAgain_within (hm.of ⟨rfl⟩) ?_
            exact count64_within (hm.of ⟨rfl⟩) (changeRequest_within (hm.of ⟨rfl⟩) h12)
          exact endWithout_within (hm.of ⟨rfl⟩) h17
    · exact h

theorem execFabricRetryBackoff_within {ps : List Area} {s0 : State} {tower : Tower} {engine : EngineNo}
    {tag : BitVec 16} {s : State}
    (hm : Sub [.now, .free, .counters, .events, .om, .spad, .dma, .dram, .host, .pho, .lanes, .ver, .fab, .twin] ps)
    (h : Within ps s0 s) :
    OutWithin ps s0 (execFabricRetryBackoff tower engine tag s) := by
  unfold execFabricRetryBackoff
  exact OutWithin.next (fabricBackoff_within (hm.of ⟨rfl⟩) h)

theorem sequenceHoldEnd_within {ps : List Area} {s0 : State} {target : Nat} {s : State}
    (hm : Sub [.now, .free, .counters, .events, .om, .spad, .dma, .dram, .host, .pho, .lanes, .ver, .fab, .twin] ps)
    (h : Within ps s0 s) :
    Within ps s0 (sequenceHoldEnd target s) := by
  unfold sequenceHoldEnd
  extract_lets v1 v2
  exact Within.ite (fun _ => wake_within (hm.of ⟨rfl⟩) (advanceTo_within (hm.of ⟨rfl⟩) h)) (fun _ => h)

theorem execAtomicSequenceHoldEnd_within {ps : List Area} {s0 : State} {target : BitVec 12} {s : State}
    (hm : Sub [.now, .free, .counters, .events, .om, .spad, .dma, .dram, .host, .pho, .lanes, .ver, .fab, .twin] ps)
    (h : Within ps s0 s) :
    OutWithin ps s0 (execAtomicSequenceHoldEnd target s) := by
  unfold execAtomicSequenceHoldEnd
  exact OutWithin.next (sequenceHoldEnd_within (hm.of ⟨rfl⟩) h)

theorem faultHoldEnd_within {ps : List Area} {s0 : State} {t : Nat} {e : Nat} {tag : BitVec 16} {s : State}
    (hm : Sub [.now, .dma, .fab] ps) (h : Within ps s0 s) :
    Within ps s0 (faultHoldEnd t e tag s) := by
  unfold faultHoldEnd
  split
  · exact h
  · refine Within.ite (fun _ => ?_) (fun _ => ?_)
    · exact h
    · extract_lets v6 v7 v8
      refine Within.mid (ps := ps) (a := s0) v7 ?_ (fun h9 => ?_)
      · unfold v7
        exact dropRequest_within (hm.of ⟨rfl⟩) (advanceTo_within (hm.of ⟨rfl⟩) h)
      clear_value v7
      exact Within.put h9

theorem execAtomicFaultHoldEnd_within {ps : List Area} {s0 : State} {tower : Tower} {engine : EngineNo}
    {tag : BitVec 16} {s : State} (hm : Sub [.now, .dma, .fab] ps) (h : Within ps s0 s) :
    OutWithin ps s0 (execAtomicFaultHoldEnd tower engine tag s) := by
  unfold execAtomicFaultHoldEnd
  exact OutWithin.next (faultHoldEnd_within (hm.of ⟨rfl⟩) h)

theorem limiterTimer_within {ps : List Area} {s0 : State} {t : Nat} {target : Nat} {s : State}
    (hm : Sub [.now, .fab] ps) (h : Within ps s0 s) :
    Within ps s0 (limiterTimer t target s) := by
  unfold limiterTimer
  split
  · exact h
  · exact changeLimiter_within (hm.of ⟨rfl⟩) (advanceTo_within (hm.of ⟨rfl⟩) h)

theorem execRateLimiterTimer_within {ps : List Area} {s0 : State} {tower : Tower} {target : BitVec 12}
    {s : State} (hm : Sub [.now, .fab] ps) (h : Within ps s0 s) :
    OutWithin ps s0 (execRateLimiterTimer tower target s) := by
  unfold execRateLimiterTimer
  exact OutWithin.next (limiterTimer_within (hm.of ⟨rfl⟩) h)

theorem helloTimeout_within {ps : List Area} {s0 : State} {port : Nat} {s : State} (hm : Sub [.now, .fab] ps)
    (h : Within ps s0 s) :
    Within ps s0 (helloTimeout port s) := by
  unfold helloTimeout
  extract_lets v1
  split
  · exact h
  · refine Within.ite (fun _ => ?_) (fun _ => ?_)
    · exact h
    · extract_lets v7 v8
      refine Within.mid (ps := ps) (a := s0) v7 ?_ (fun h9 => ?_)
      · unfold v7
        exact advanceTo_within (hm.of ⟨rfl⟩) h
      clear_value v7
      exact Within.put h9

theorem execHelloTimeout_within {ps : List Area} {s0 : State} {port : Port} {s : State}
    (hm : Sub [.now, .fab] ps) (h : Within ps s0 s) :
    OutWithin ps s0 (execHelloTimeout port s) := by
  unfold execHelloTimeout
  exact OutWithin.next (helloTimeout_within (hm.of ⟨rfl⟩) h)

theorem tagSkipExpiry_within {ps : List Area} {s0 : State} {t : Nat} {e : Option Nat} {tag : BitVec 16}
    {s : State} (hm : Sub [.now, .dma] ps) (h : Within ps s0 s) :
    Within ps s0 (tagSkipExpiry t e tag s) := by
  unfold tagSkipExpiry
  extract_lets v1 v2 v3 v4
  refine Within.mid (ps := ps) (a := s0) v3 ?_ (fun h5 => ?_)
  · unfold v3
    exact advanceTo_within (hm.of ⟨rfl⟩) h
  clear_value v3
  exact Within.ite (fun _ => h) (fun _ => Within.put h5)

theorem execTagSkipExpiry_within {ps : List Area} {s0 : State} {tower : Tower} {engine : Option EngineNo}
    {tag : BitVec 16} {s : State} (hm : Sub [.now, .dma] ps) (h : Within ps s0 s) :
    OutWithin ps s0 (execTagSkipExpiry tower engine tag s) := by
  unfold execTagSkipExpiry
  exact OutWithin.next (tagSkipExpiry_within (hm.of ⟨rfl⟩) h)

end Sys2Proof.Machine
end

