-- ==== Sys2Proof/Laws/WithinFrame.lean ====
section
/-! SUPPORT. Which parts of the state the operations of Machine/Frame.lean can write: one lemma for each. -/

set_option Elab.async false

namespace Sys2Proof.Machine

theorem changeReceiver_within {ps : List Area} {s0 : State} {t : Nat} {f : Receiver → Receiver} {s : State}
    (hm : Sub [.frame] ps) (h : Within ps s0 s) :
    Within ps s0 (changeReceiver t f s) := by
  unfold changeReceiver
  exact Within.put h

theorem missTick_within {ps : List Area} {s0 : State} {t : Nat} {s : State}
    (hm : Sub [.counters, .events, .frame] ps) (h : Within ps s0 s) :
    Within ps s0 (missTick t s) := by
  unfold missTick
  extract_lets v1 v2 v3
  refine Within.mid (ps := ps) (a := s0) v2 ?_ (fun h4 => ?_)
  · unfold v2
    exact raise_within (hm.of ⟨rfl⟩) (count32_within (hm.of ⟨rfl⟩) h)
  clear_value v2
  refine Within.mid (ps := ps) (a := s0) v3 ?_ (fun h5 => ?_)
  · unfold v3
    exact changeReceiver_within (hm.of ⟨rfl⟩) h4
  clear_value v3
  refine Within.ite (fun _ => ?_) (fun _ => ?_)
  · exact changeReceiver_within (hm.of ⟨rfl⟩) h
  · exact Within.ite (fun _ => raise_within (hm.of ⟨rfl⟩) (changeReceiver_within (hm.of ⟨rfl⟩) h5)) (fun _ => h5)

theorem countTick_within {ps : List Area} {s0 : State} {t : Nat} {w : BitVec 128} {s : State}
    (hm : Sub [.events, .frame] ps) (h : Within ps s0 s) :
    Within ps s0 (countTick t w s) := by
  unfold countTick
  extract_lets v1 v2 v3 v4
  refine Within.mid (ps := ps) (a := s0) v4 ?_ (fun h5 => ?_)
  · unfold v4
    exact changeReceiver_within (hm.of ⟨rfl⟩) h
  clear_value v4
  exact Within.ite (fun _ => raise_within (hm.of ⟨rfl⟩) (changeReceiver_within (hm.of ⟨rfl⟩) h5)) (fun _ => h5)

theorem takeTick_within {ps : List Area} {s0 : State} {t : Nat} {w : BitVec 128} {s : State}
    (hm : Sub [.counters, .events, .frame] ps) (h : Within ps s0 s) :
    Within ps s0 (takeTick t w s) := by
  unfold takeTick
  refine Within.ite (fun _ => ?_) (fun _ => ?_)
  · exact h
  · extract_lets v1
    refine Within.ite (fun _ => ?_) (fun _ => ?_)
    · exact missTick_within (hm.of ⟨rfl⟩) h
    · refine Within.ite (fun _ => ?_) (fun _ => ?_)
      · refine Within.ite (fun _ => ?_) (fun _ => ?_)
        · exact changeReceiver_within (hm.of ⟨rfl⟩) h
        · exact missTick_within (hm.of ⟨rfl⟩) h
      · exact countTick_within (hm.of ⟨rfl⟩) h

theorem execTickWordReceived_within {ps : List Area} {s0 : State} {tower : Tower} {word : BitVec 128}
    {s : State} (hm : Sub [.counters, .events, .frame] ps) (h : Within ps s0 s) :
    OutWithin ps s0 (execTickWordReceived tower word s) := by
  unfold execTickWordReceived
  exact OutWithin.next (takeTick_within (hm.of ⟨rfl⟩) h)

theorem execTickMissed_within {ps : List Area} {s0 : State} {tower : Tower} {s : State}
    (hm : Sub [.counters, .events, .frame] ps) (h : Within ps s0 s) :
    OutWithin ps s0 (execTickMissed tower s) := by
  unfold execTickMissed
  exact OutWithin.next (Within.ite (fun _ => h) (fun _ => missTick_within (hm.of ⟨rfl⟩) h))

theorem frameLengthAct_within {ps : List Area} {s0 : State} {a0 : Bytes} {a1 : State} (hm : Sub [.frame] ps)
    (h : Within ps s0 a1) :
    WWithin ps s0 (frameLengthAct a0 a1) := by
  unfold frameLengthAct
  extract_lets v1 v2 v3 v4
  split
  · exact .refuse
  · split
    · exact .refuse
    · split
      · exact WWithin.done h
      · exact WWithin.wait (Within.put h)

theorem execFrameLengthWrite_within {ps : List Area} {s0 : State} {req : Req} {value : Bytes} {s : State}
    (hm : Sub [.events, .om, .frame] ps) (h : Within ps s0 s) :
    OutWithin ps s0 (execFrameLengthWrite req value s) := by
  unfold execFrameLengthWrite
  refine OutWithin.next ?_
  refine serveWrite_within (hm.of ⟨rfl⟩) ?_ ?_
  · intro x1 s2 h3
    exact frameLengthAct_within (hm.of ⟨rfl⟩) h3
  · exact h

end Sys2Proof.Machine
end

