-- ==== Sys2Proof/Laws/WithinLanes.lean ====
section
/-! SUPPORT. Which parts of the state the operations of Machine/Lanes.lean can write: one lemma for each. -/

set_option Elab.async false

namespace Sys2Proof.Machine

theorem pathService_within {ps : List Area} {s0 : State} {n : Nat} {up : Bool} {s : State} (hm : Sub [.pho] ps)
    (h : Within ps s0 s) :
    Within ps s0 (pathService n up s) := by
  unfold pathService
  exact Within.ite (fun _ => changePath_within (hm.of ⟨rfl⟩) h) (fun _ => applyPathChange_within (hm.of ⟨rfl⟩) h)

theorem linkDown_within {ps : List Area} {s0 : State} {n : Nat} {s : State}
    (hm : Sub [.free, .counters, .events, .pho, .lanes, .ver, .fab] ps) (h : Within ps s0 s) :
    Within ps s0 (linkDown n s) := by
  unfold linkDown
  extract_lets v1 v2 v3 v4
  refine Within.mid (ps := ps) (a := s0) v1 ?_ (fun h5 => ?_)
  · unfold v1
    exact h
  clear_value v1
  refine Within.mid (ps := ps) (a := s0) v2 ?_ (fun h6 => ?_)
  · unfold v2
    exact raise_within (hm.of ⟨rfl⟩) h
  clear_value v2
  refine Within.mid (ps := ps) (a := s0) v3 ?_ (fun h7 => ?_)
  · unfold v3
    exact changeLink_within (hm.of ⟨rfl⟩) h6
  clear_value v3
  refine Within.ite (fun _ => ?_) (fun _ => ?_)
  · exact portGone_within (hm.of ⟨rfl⟩) h5 h7
  · exact Within.ite (fun _ => Within.put h7) (fun _ => pathService_within (hm.of ⟨rfl⟩) h7)

theorem boardTaps_within {ps : List Area} {s0 : State} {n : Nat} {s : State} (hm : Sub [.lanes] ps)
    (h : Within ps s0 s) :
    Within ps s0 (boardTaps n s) := by
  unfold boardTaps
  extract_lets v1 v2 v3
  refine Within.mid (ps := ps) (a := s0) v1 ?_ (fun h4 => ?_)
  · unfold v1
    exact changeTx_within (hm.of ⟨rfl⟩) h
  clear_value v1
  exact Within.put h4

theorem sendPattern_within {ps : List Area} {s0 : State} {n : Nat} {s : State} (hm : Sub [.lanes] ps)
    (h : Within ps s0 s) :
    Within ps s0 (sendPattern n s) := by
  unfold sendPattern
  exact changeTx_within (hm.of ⟨rfl⟩) h

theorem startTraining_within {ps : List Area} {s0 : State} {n : Nat} {s : State} (hm : Sub [.lanes] ps)
    (h : Within ps s0 s) :
    Within ps s0 (startTraining n s) := by
  unfold startTraining
  exact boardTaps_within (hm.of ⟨rfl⟩) (sendPattern_within (hm.of ⟨rfl⟩) (changeLink_within (hm.of ⟨rfl⟩) h))

theorem takeWidth_within {ps : List Area} {s0 : State} {n : Nat} {width : Nat} {s : State}
    (hm : Sub [.events, .lanes] ps) (h : Within ps s0 s) :
    Within ps s0 (takeWidth n width s) := by
  unfold takeWidth
  extract_lets v1
  refine Within.mid (ps := ps) (a := s0) v1 ?_ (fun h2 => ?_)
  · unfold v1
    exact changeRx_within (hm.of ⟨rfl⟩) h
  clear_value v1
  refine Within.ite (fun _ => ?_) (fun _ => ?_)
  · exact changeLink_within (hm.of ⟨rfl⟩) h2
  · exact raise_within (hm.of ⟨rfl⟩) (changeLink_within (hm.of ⟨rfl⟩) h2)

theorem recover_within {ps : List Area} {s0 : State} {n : Nat} {s : State}
    (hm : Sub [.free, .counters, .events, .pho, .lanes, .ver, .fab] ps) (h : Within ps s0 s) :
    Within ps s0 (recover n s) := by
  unfold recover
  extract_lets v1 v2 v3 v4
  refine Within.mid (ps := ps) (a := s0) v1 ?_ (fun h5 => ?_)
  · unfold v1
    exact raise_within (hm.of ⟨rfl⟩) (count32_within (hm.of ⟨rfl⟩) h)
  clear_value v1
  refine Within.mid (ps := ps) (a := s0) v3 ?_ (fun h6 => ?_)
  · unfold v3
    exact changeLink_within (hm.of ⟨rfl⟩) h5
  clear_value v3
  refine Within.ite (fun _ => ?_) (fun _ => ?_)
  · exact linkDown_within (hm.of ⟨rfl⟩) h6
  · refine Within.ite (fun _ => ?_) (fun _ => ?_)
    · refine startTraining_within (hm.of ⟨rfl⟩) ?_
      exact Within.ite (fun _ => h6) (fun _ => takeWidth_within (hm.of ⟨rfl⟩) h6)
    · exact pathService_within (hm.of ⟨rfl⟩) (startTraining_within (hm.of ⟨rfl⟩) h6)

theorem lockLost_within {ps : List Area} {s0 : State} {n : Nat} {s : State}
    (hm : Sub [.free, .counters, .events, .pho, .lanes, .ver, .fab] ps) (h : Within ps s0 s) :
    Within ps s0 (lockLost n s) := by
  unfold lockLost
  exact Within.ite (fun _ => h) (fun _ => recover_within (hm.of ⟨rfl⟩) (raise_within (hm.of ⟨rfl⟩) h))

theorem declareLock_within {ps : List Area} {s0 : State} {n : Nat} {s : State}
    (hm : Sub [.events, .pho, .lanes] ps) (h : Within ps s0 s) :
    Within ps s0 (declareLock n s) := by
  unfold declareLock
  extract_lets v1 v2 v3 v4
  refine Within.mid (ps := ps) (a := s0) v1 ?_ (fun h5 => ?_)
  · unfold v1
    exact raise_within (hm.of ⟨rfl⟩) h
  clear_value v1
  refine Within.mid (ps := ps) (a := s0) v2 ?_ (fun h6 => ?_)
  · unfold v2
    exact changeLink_within (hm.of ⟨rfl⟩) h5
  clear_value v2
  refine Within.mid (ps := ps) (a := s0) v4 ?_ (fun h7 => ?_)
  · unfold v4
    split
    · exact h6
    · exact Within.ite (fun _ => Within.put h6) (fun _ => h6)
  clear_value v4
  refine Within.ite (fun _ => ?_) (fun _ => ?_)
  · exact beginStream_within (hm.of ⟨rfl⟩) h7
  · exact Within.ite (fun _ => h7) (fun _ => pathService_within (hm.of ⟨rfl⟩) h7)

theorem hearHeader_within {ps : List Area} {s0 : State} {n : Nat} {s : State} {h2 : BitVec 2}
    (hm : Sub [.free, .counters, .events, .pho, .lanes, .ver, .fab] ps) (h : Within ps s0 s) :
    Within ps s0 (hearHeader n s h2) := by
  unfold hearHeader
  refine Within.ite (fun _ => ?_) (fun _ => ?_)
  · extract_lets v1 v2
    refine Within.mid (ps := ps) (a := s0) v2 ?_ (fun h3 => ?_)
    · unfold v2
      exact changeLink_within (hm.of ⟨rfl⟩) h
    clear_value v2
    exact Within.ite (fun _ => lockLost_within (hm.of ⟨rfl⟩) h3) (fun _ => h3)
  · refine Within.ite (fun _ => ?_) (fun _ => ?_)
    · exact h
    · extract_lets v4 v5
      refine Within.mid (ps := ps) (a := s0) v5 ?_ (fun h6 => ?_)
      · unfold v5
        exact changeLink_within (hm.of ⟨rfl⟩) h
      clear_value v5
      exact Within.ite (fun _ => declareLock_within (hm.of ⟨rfl⟩) h6) (fun _ => h6)

theorem lockOn_within {ps : List Area} {s0 : State} {n : Nat} {s : State}
    (hm : Sub [.free, .counters, .events, .pho, .lanes, .ver, .fab] ps) (h : Within ps s0 s) :
    Within ps s0 (lockOn n s) := by
  unfold lockOn
  exact Within.fold h (fun _ _ h3 => hearHeader_within (hm.of ⟨rfl⟩) h3)

theorem linkBoundary_within {ps : List Area} {s0 : State} {n : Nat} {s : State} (hm : Sub [.events, .lanes] ps)
    (h : Within ps s0 s) :
    Within ps s0 (linkBoundary n s) := by
  unfold linkBoundary
  extract_lets v1 v2 v3
  refine Within.mid (ps := ps) (a := s0) v2 ?_ (fun h4 => ?_)
  · unfold v2
    split
    · exact h
    · refine Within.ite (fun _ => ?_) (fun _ => ?_)
      · exact changeTx_within (hm.of ⟨rfl⟩) (putControl_within (hm.of ⟨rfl⟩) (changeTx_within (hm.of ⟨rfl⟩) h))
      · exact h
  clear_value v2
  refine Within.mid (ps := ps) (a := s0) v3 ?_ (fun h10 => ?_)
  · unfold v3
    exact changeTx_within (hm.of ⟨rfl⟩) h4
  clear_value v3
  split
  · exact h10
  · exact Within.ite (fun _ => h10) (fun _ => takeWidth_within (hm.of ⟨rfl⟩) h10)

theorem linksBoundary_within {ps : List Area} {s0 : State} {s : State} (hm : Sub [.events, .lanes] ps)
    (h : Within ps s0 s) :
    Within ps s0 (linksBoundary s) := by
  unfold linksBoundary
  extract_lets v1
  refine Within.fold ?_ (fun s2 x3 h4 => ?_)
  · exact h
  · exact fillIdle_within (hm.of ⟨rfl⟩) (beginStream_within (hm.of ⟨rfl⟩) (linkBoundary_within (hm.of ⟨rfl⟩) h4))

theorem narrowLink_within {ps : List Area} {s0 : State} {n : Nat} {s : State}
    (hm : Sub [.free, .counters, .events, .pho, .lanes, .ver, .fab] ps) (h : Within ps s0 s) :
    Within ps s0 (narrowLink n s) := by
  unfold narrowLink
  extract_lets v1 v2 v3 v4 v5
  refine Within.mid (ps := ps) (a := s0) v5 ?_ (fun h6 => ?_)
  · unfold v5
    exact changeLink_within (hm.of ⟨rfl⟩) h
  clear_value v5
  refine Within.ite (fun _ => ?_) (fun _ => ?_)
  · exact linkDown_within (hm.of ⟨rfl⟩) h
  · refine Within.ite (fun _ => ?_) (fun _ => ?_)
    · exact Within.ite (fun _ => putControl_within (hm.of ⟨rfl⟩) h6) (fun _ => h6)
    · exact changeLink_within (hm.of ⟨rfl⟩) h

theorem laneFailing_within {ps : List Area} {s0 : State} {n : Nat} {lane : Nat} {spared : Bool} {s : State}
    (hm : Sub [.free, .counters, .events, .pho, .lanes, .ver, .fab] ps) (h : Within ps s0 s) :
    Within ps s0 (laneFailing n lane spared s) := by
  unfold laneFailing
  extract_lets v1 v2
  refine Within.mid (ps := ps) (a := s0) v2 ?_ (fun h3 => ?_)
  · unfold v2
    exact raise_within (hm.of ⟨rfl⟩) (changeLink_within (hm.of ⟨rfl⟩) h)
  clear_value v2
  exact Within.ite (fun _ => h) (fun _ => Within.ite (fun _ => h3) (fun _ => narrowLink_within (hm.of ⟨rfl⟩) h3))

theorem linkTraining_within {ps : List Area} {s0 : State} {n : Nat} {failed : List Nat} {skews : List Int}
    {s : State} (hm : Sub [.free, .counters, .events, .pho, .lanes, .ver, .fab] ps) (h : Within ps s0 s) :
    Within ps s0 (linkTraining n failed skews s) := by
  unfold linkTraining
  refine Within.ite (fun _ => ?_) (fun _ => ?_)
  · exact h
  · extract_lets v1 v2 v3
    refine Within.mid (ps := ps) (a := s0) v1 ?_ (fun h4 => ?_)
    · unfold v1
      exact changeRx_within (hm.of ⟨rfl⟩) (startTraining_within (hm.of ⟨rfl⟩) h)
    clear_value v1
    exact Within.fold h4 (fun _ _ h7 => laneFailing_within (hm.of ⟨rfl⟩) h7)

theorem execLinkTraining_within {ps : List Area} {s0 : State} {link : Fin 9} {failedLanes : List Nat}
    {skews : List Int} {s : State} (hm : Sub [.free, .counters, .events, .pho, .lanes, .ver, .fab] ps)
    (h : Within ps s0 s) :
    OutWithin ps s0 (execLinkTraining link failedLanes skews s) := by
  unfold execLinkTraining
  exact OutWithin.next (linkTraining_within (hm.of ⟨rfl⟩) h)

theorem trainingTimeout_within {ps : List Area} {s0 : State} {n : Nat} {s : State}
    (hm : Sub [.now, .free, .counters, .events, .pho, .lanes, .ver, .fab] ps) (h : Within ps s0 s) :
    Within ps s0 (trainingTimeout n s) := by
  unfold trainingTimeout
  extract_lets v1 v2
  refine Within.mid (ps := ps) (a := s0) v2 ?_ (fun h3 => ?_)
  · unfold v2
    exact advanceTo_within (hm.of ⟨rfl⟩) h
  clear_value v2
  refine Within.ite (fun _ => ?_) (fun _ => ?_)
  · exact h
  · refine Within.ite (fun _ => ?_) (fun _ => ?_)
    · exact linkDown_within (hm.of ⟨rfl⟩) h3
    · exact sendPattern_within (hm.of ⟨rfl⟩) (changeLink_within (hm.of ⟨rfl⟩) h3)

theorem execTrainingTimeout_within {ps : List Area} {s0 : State} {link : Fin 9} {s : State}
    (hm : Sub [.now, .free, .counters, .events, .pho, .lanes, .ver, .fab] ps) (h : Within ps s0 s) :
    OutWithin ps s0 (execTrainingTimeout link s) := by
  unfold execTrainingTimeout
  exact OutWithin.next (trainingTimeout_within (hm.of ⟨rfl⟩) h)

theorem linkLock_within {ps : List Area} {s0 : State} {n : Nat} {headers : List (BitVec 2)} {s : State}
    (hm : Sub [.free, .counters, .events, .pho, .lanes, .ver, .fab] ps) (h : Within ps s0 s) :
    Within ps s0 (linkLock n headers s) := by
  unfold linkLock
  exact Within.fold h (fun _ _ h3 => hearHeader_within (hm.of ⟨rfl⟩) h3)

theorem execLinkLock_within {ps : List Area} {s0 : State} {link : BitVec 16} {headers : List (BitVec 2)}
    {s : State} (hm : Sub [.free, .counters, .events, .pho, .lanes, .ver, .fab] ps) (h : Within ps s0 s) :
    OutWithin ps s0 (execLinkLock link headers s) := by
  unfold execLinkLock
  exact OutWithin.next (linkLock_within (hm.of ⟨rfl⟩) h)

theorem execLinkLockLost_within {ps : List Area} {s0 : State} {link : BitVec 16} {headers : List (BitVec 2)}
    {s : State} (hm : Sub [.free, .counters, .events, .pho, .lanes, .ver, .fab] ps) (h : Within ps s0 s) :
    OutWithin ps s0 (execLinkLockLost link headers s) := by
  unfold execLinkLockLost
  exact OutWithin.next (Within.fold h (fun _ _ h3 => hearHeader_within (hm.of ⟨rfl⟩) h3))

theorem hearFlit_within {ps : List Area} {s0 : State} {n : Nat} {f : Bytes} {s : State}
    (hm : Sub [.free, .counters, .events, .pho, .lanes, .ver, .fab] ps) (h : Within ps s0 s) :
    Within ps s0 (hearFlit n f s) := by
  unfold hearFlit
  refine Within.ite (fun _ => ?_) (fun _ => ?_)
  · exact h
  · extract_lets v1
    exact changeRx_within (hm.of ⟨rfl⟩) (Within.fold h (fun _ _ h4 => hearHeader_within (hm.of ⟨rfl⟩) h4))

theorem escalate_within {ps : List Area} {s0 : State} {n : Nat} {q : Nat} {s : State}
    (hm : Sub [.free, .counters, .events, .pho, .lanes, .ver, .fab] ps) (h : Within ps s0 s) :
    Within ps s0 (escalate n q s) := by
  unfold escalate
  exact recover_within (hm.of ⟨rfl⟩) (raise_within (hm.of ⟨rfl⟩) h)

theorem retryFlit_within {ps : List Area} {s0 : State} {n : Nat} {q : Nat} {s : State}
    (hm : Sub [.free, .counters, .events, .pho, .lanes, .ver, .fab] ps) (h : Within ps s0 s) :
    Within ps s0 (retryFlit n q s) := by
  unfold retryFlit
  refine Within.ite (fun _ => ?_) (fun _ => ?_)
  · exact h
  · refine Within.ite (fun _ => ?_) (fun _ => ?_)
    · extract_lets v1
      refine Within.mid (ps := ps) (a := s0) v1 ?_ (fun h2 => ?_)
      · unfold v1
        exact retransmit_within (hm.of ⟨rfl⟩) h
      clear_value v1
      exact Within.ite (fun _ => escalate_within (hm.of ⟨rfl⟩) h2) (fun _ => h2)
    · exact Within.ite (fun _ => escalate_within (hm.of ⟨rfl⟩) h) (fun _ => retransmit_within (hm.of ⟨rfl⟩) h)

theorem takeAck_within {ps : List Area} {s0 : State} {n : Nat} {f : Bytes} {s : State}
    (hm : Sub [.free, .counters, .events, .pho, .lanes, .ver, .fab] ps) (h : Within ps s0 s) :
    Within ps s0 (takeAck n f s) := by
  unfold takeAck
  extract_lets v1
  refine Within.mid (ps := ps) (a := s0) v1 ?_ (fun h2 => ?_)
  · unfold v1
    exact Within.ite (fun _ => ackTx_within (hm.of ⟨rfl⟩) h) (fun _ => h)
  clear_value v1
  refine Within.ite (fun _ => ?_) (fun _ => ?_)
  · exact Within.ite (fun _ => h2) (fun _ => retryFlit_within (hm.of ⟨rfl⟩) (changeTx_within (hm.of ⟨rfl⟩) h2))
  · exact changeTx_within (hm.of ⟨rfl⟩) h2

theorem tagFailed_within {ps : List Area} {s0 : State} {n : Nat} {seq : Nat} {s : State}
    (hm : Sub [.free, .counters, .events, .pho, .lanes, .ver, .fab] ps) (h : Within ps s0 s) :
    Within ps s0 (tagFailed n seq s) := by
  unfold tagFailed
  extract_lets v1 v2 v3 v4 v5 v6
  refine Within.mid (ps := ps) (a := s0) v2 ?_ (fun h7 => ?_)
  · unfold v2
    exact raise_within (hm.of ⟨rfl⟩) (count32_within (hm.of ⟨rfl⟩) h)
  clear_value v2
  refine Within.mid (ps := ps) (a := s0) v6 ?_ (fun h8 => ?_)
  · unfold v6
    exact changeRx_within (hm.of ⟨rfl⟩) (Within.put h7)
  clear_value v6
  exact Within.ite (fun _ => linkDown_within (hm.of ⟨rfl⟩) h8) (fun _ => h8)

theorem dataFlit_within {ps : List Area} {s0 : State} {n : Nat} {f : Bytes} {opened : Option Bytes} {s : State}
    (hm : Sub [.free, .counters, .events, .pho, .lanes, .ver, .fab] ps) (h : Within ps s0 s) :
    Within ps s0 (dataFlit n f opened s) := by
  unfold dataFlit
  extract_lets v1 v2 v3 v4 v5 v6 v7
  refine Within.mid (ps := ps) (a := s0) v1 ?_ (fun h8 => ?_)
  · unfold v1
    exact hearFlit_within (hm.of ⟨rfl⟩) h
  clear_value v1
  refine Within.mid (ps := ps) (a := s0) v2 ?_ (fun h9 => ?_)
  · unfold v2
    exact takeAck_within (hm.of ⟨rfl⟩) h8
  clear_value v2
  refine Within.mid (ps := ps) (a := s0) v5 ?_ (fun h10 => ?_)
  · unfold v5
    exact switchKey_within (hm.of ⟨rfl⟩) h9
  clear_value v5
  refine Within.mid (ps := ps) (a := s0) v7 ?_ (fun h11 => ?_)
  · unfold v7
    exact Within.ite (fun _ => Within.put h10) (fun _ => h9)
  clear_value v7
  refine Within.ite (fun _ => ?_) (fun _ => ?_)
  · exact h8
  · refine Within.ite (fun _ => ?_) (fun _ => ?_)
    · exact fillIdle_within (hm.of ⟨rfl⟩) (rxBad_within (hm.of ⟨rfl⟩) h8)
    · refine Within.ite (fun _ => ?_) (fun _ => ?_)
      · exact h8
      · refine Within.ite (fun _ => ?_) (fun _ => ?_)
        · exact tagFailed_within (hm.of ⟨rfl⟩) h9
        · split
          · rename_i y15
            refine Within.ofPair1 (ps := ps) (a := s0) y15 ?_ (fun h16 => ?_)
            · exact rxTake_within (hm.of ⟨rfl⟩) h11
            extract_lets v17 v18
            refine Within.mid (ps := ps) (a := s0) v18 ?_ (fun h19 => ?_)
            · unfold v18
              exact Within.put h16
            clear_value v18
            exact fillIdle_within (hm.of ⟨rfl⟩) h19

theorem execDataFlit_within {ps : List Area} {s0 : State} {link : Fin 9} {flit : Bytes} {opened : Option Bytes}
    {s : State} (hm : Sub [.free, .counters, .events, .pho, .lanes, .ver, .fab] ps) (h : Within ps s0 s) :
    OutWithin ps s0 (execDataFlit link flit opened s) := by
  unfold execDataFlit
  exact OutWithin.next (dataFlit_within (hm.of ⟨rfl⟩) h)

theorem nullFlit_within {ps : List Area} {s0 : State} {n : Nat} {f : Bytes} {s : State}
    (hm : Sub [.free, .counters, .events, .pho, .lanes, .ver, .fab] ps) (h : Within ps s0 s) :
    Within ps s0 (nullFlit n f s) := by
  unfold nullFlit
  refine Within.ite (fun _ => ?_) (fun _ => ?_)
  · exact Within.put h
  · extract_lets v1
    refine Within.mid (ps := ps) (a := s0) v1 ?_ (fun h2 => ?_)
    · unfold v1
      exact hearFlit_within (hm.of ⟨rfl⟩) h
    clear_value v1
    refine Within.ite (fun _ => ?_) (fun _ => ?_)
    · exact h2
    · refine Within.ite (fun _ => ?_) (fun _ => ?_)
      · exact fillIdle_within (hm.of ⟨rfl⟩) (rxBad_within (hm.of ⟨rfl⟩) h2)
      · exact Within.ite (fun _ => h2) (fun _ => takeAck_within (hm.of ⟨rfl⟩) h2)

theorem execNullFlit_within {ps : List Area} {s0 : State} {link : BitVec 16} {flit : Bytes} {s : State}
    (hm : Sub [.free, .counters, .events, .pho, .lanes, .ver, .fab] ps) (h : Within ps s0 s) :
    OutWithin ps s0 (execNullFlit link flit s) := by
  unfold execNullFlit
  exact OutWithin.next (nullFlit_within (hm.of ⟨rfl⟩) h)

theorem takeControl_within {ps : List Area} {s0 : State} {n : Nat} {code : Nat} {f : Bytes} {g : State → State}
    {s : State} (hm : Sub [.free, .counters, .events, .pho, .lanes, .ver, .fab] ps)
    (h_g : ∀ (z0 : State), Within ps s0 z0 → Within ps s0 (g z0)) (h : Within ps s0 s) :
    Within ps s0 (takeControl n code f g s) := by
  unfold takeControl
  extract_lets v1
  refine Within.mid (ps := ps) (a := s0) v1 ?_ (fun h2 => ?_)
  · unfold v1
    exact hearFlit_within (hm.of ⟨rfl⟩) h
  clear_value v1
  refine Within.ite (fun _ => ?_) (fun _ => ?_)
  · exact h2
  · refine Within.ite (fun _ => ?_) (fun _ => ?_)
    · exact fillIdle_within (hm.of ⟨rfl⟩) (rxBad_within (hm.of ⟨rfl⟩) h2)
    · exact Within.ite (fun _ => h2) (fun _ => h_g _ (takeAck_within (hm.of ⟨rfl⟩) h2))

theorem startData_within {ps : List Area} {s0 : State} {n : Nat} {expected : Nat} {s : State}
    (hm : Sub [.now, .free, .counters, .events, .lanes, .ver, .fab] ps) (h : Within ps s0 s) :
    Within ps s0 (startData n expected s) := by
  unfold startData
  extract_lets v1 v2 v3 v4 v5 v6 v7
  refine Within.mid (ps := ps) (a := s0) v1 ?_ (fun h8 => ?_)
  · unfold v1
    exact h
  clear_value v1
  refine Within.mid (ps := ps) (a := s0) v2 ?_ (fun h9 => ?_)
  · unfold v2
    exact Within.ite (fun _ => beginStream_within (hm.of ⟨rfl⟩) (advanceTo_within (hm.of ⟨rfl⟩) h)) (fun _ => h)
  clear_value v2
  refine Within.mid (ps := ps) (a := s0) v3 ?_ (fun h10 => ?_)
  · unfold v3
    exact changeLink_within (hm.of ⟨rfl⟩) h9
  clear_value v3
  refine Within.mid (ps := ps) (a := s0) v4 ?_ (fun h11 => ?_)
  · unfold v4
    exact Within.ite (fun _ => settleRoutes_within (hm.of ⟨rfl⟩) h8 h10) (fun _ => h10)
  clear_value v4
  refine Within.mid (ps := ps) (a := s0) v5 ?_ (fun h12 => ?_)
  · unfold v5
    exact changeTx_within (hm.of ⟨rfl⟩) (ackTx_within (hm.of ⟨rfl⟩) h11)
  clear_value v5
  refine Within.mid (ps := ps) (a := s0) v6 ?_ (fun h13 => ?_)
  · unfold v6
    exact Within.fold h12 (fun _ _ h16 => putFlit_within (hm.of ⟨rfl⟩) h16)
  clear_value v6
  refine Within.mid (ps := ps) (a := s0) v7 ?_ (fun h17 => ?_)
  · unfold v7
    exact pumpTx_within (hm.of ⟨rfl⟩) h13
  clear_value v7
  exact Within.ite (fun _ => pumpPort_within (hm.of ⟨rfl⟩) h17) (fun _ => h17)

theorem linkInfo_within {ps : List Area} {s0 : State} {n : Nat} {f : Bytes} {s : State}
    (hm : Sub [.now, .free, .counters, .events, .pho, .lanes, .ver, .fab] ps) (h : Within ps s0 s) :
    Within ps s0 (linkInfo n f s) := by
  unfold linkInfo
  refine takeControl_within (hm.of ⟨rfl⟩) ?_ ?_
  · intro s1 h2
    extract_lets v3
    refine Within.mid (ps := ps) (a := s0) v3 ?_ (fun h4 => ?_)
    · unfold v3
      exact Within.ite (fun _ => changeLink_within (hm.of ⟨rfl⟩) h2) (fun _ => startData_within (hm.of ⟨rfl⟩) h2)
    clear_value v3
    exact fillIdle_within (hm.of ⟨rfl⟩) (changeTx_within (hm.of ⟨rfl⟩) h4)
  · exact h

theorem execLinkInfo_within {ps : List Area} {s0 : State} {link : Fin 9} {flit : Bytes} {s : State}
    (hm : Sub [.now, .free, .counters, .events, .pho, .lanes, .ver, .fab] ps) (h : Within ps s0 s) :
    OutWithin ps s0 (execLinkInfo link flit s) := by
  unfold execLinkInfo
  exact OutWithin.next (linkInfo_within (hm.of ⟨rfl⟩) h)

theorem takeStep_within {ps : List Area} {s0 : State} {n : Nat} {lane : Nat} {step : Nat} {s : State}
    (hm : Sub [.lanes] ps) (h : Within ps s0 s) :
    Within ps s0 (takeStep n lane step s) := by
  unfold takeStep
  extract_lets v1
  exact Within.ite (fun _ => h) (fun _ => changeTx_within (hm.of ⟨rfl⟩) h)

theorem tapRequest_within {ps : List Area} {s0 : State} {n : Nat} {ask : TapAsk} {s : State}
    (hm : Sub [.free, .counters, .events, .pho, .lanes, .ver, .fab] ps) (h : Within ps s0 s) :
    Within ps s0 (tapRequest n ask s) := by
  unfold tapRequest
  split
  · refine Within.ite (fun _ => ?_) (fun _ => ?_)
    · refine takeControl_within (hm.of ⟨rfl⟩) ?_ ?_
      · intro s3 h4
        exact takeStep_within (hm.of ⟨rfl⟩) h4
      · exact h
    · exact h
  · exact Within.ite (fun _ => h) (fun _ => takeStep_within (hm.of ⟨rfl⟩) (Within.put h))

theorem execTapRequest_within {ps : List Area} {s0 : State} {link : BitVec 16} {ask : TapAsk} {s : State}
    (hm : Sub [.free, .counters, .events, .pho, .lanes, .ver, .fab] ps) (h : Within ps s0 s) :
    OutWithin ps s0 (execTapRequest link ask s) := by
  unfold execTapRequest
  exact OutWithin.next (tapRequest_within (hm.of ⟨rfl⟩) h)

theorem narrowNow_within {ps : List Area} {s0 : State} {n : Nat} {f : Bytes} {s : State}
    (hm : Sub [.free, .counters, .events, .pho, .lanes, .ver, .fab] ps) (h : Within ps s0 s) :
    Within ps s0 (narrowNow n f s) := by
  unfold narrowNow
  refine takeControl_within (hm.of ⟨rfl⟩) ?_ ?_
  · intro s1 h2
    exact Within.ite (fun _ => h2) (fun _ => takeWidth_within (hm.of ⟨rfl⟩) h2)
  · exact h

theorem execNarrowNow_within {ps : List Area} {s0 : State} {link : Fin 9} {flit : Bytes} {s : State}
    (hm : Sub [.free, .counters, .events, .pho, .lanes, .ver, .fab] ps) (h : Within ps s0 s) :
    OutWithin ps s0 (execNarrowNow link flit s) := by
  unfold execNarrowNow
  exact OutWithin.next (narrowNow_within (hm.of ⟨rfl⟩) h)

theorem loopbackReq_within {ps : List Area} {s0 : State} {n : Nat} {f : Bytes} {s : State}
    (hm : Sub [.counters, .lanes] ps) (h : Within ps s0 s) :
    Within ps s0 (loopbackReq n f s) := by
  unfold loopbackReq
  refine Within.ite (fun _ => ?_) (fun _ => ?_)
  · exact count64_within (hm.of ⟨rfl⟩) h
  · exact Within.ite (fun _ => h) (fun _ => changeLink_within (hm.of ⟨rfl⟩) h)

theorem execLoopbackReq_within {ps : List Area} {s0 : State} {link : Fin 9} {flit : Bytes} {s : State}
    (hm : Sub [.counters, .lanes] ps) (h : Within ps s0 s) :
    OutWithin ps s0 (execLoopbackReq link flit s) := by
  unfold execLoopbackReq
  exact OutWithin.next (loopbackReq_within (hm.of ⟨rfl⟩) h)

theorem ackWord_within {ps : List Area} {s0 : State} {t : Nat} {w : BitVec 64} {s : State}
    (hm : Sub [.free, .counters, .events, .pho, .lanes, .ver, .fab] ps) (h : Within ps s0 s) :
    Within ps s0 (ackWord t w s) := by
  unfold ackWord
  extract_lets v1 v2 v3 v4 v5 v6 v7
  refine Within.mid (ps := ps) (a := s0) v3 ?_ (fun h8 => ?_)
  · unfold v3
    exact Within.put h
  clear_value v3
  refine Within.mid (ps := ps) (a := s0) v6 ?_ (fun h9 => ?_)
  · unfold v6
    exact ackTx_within (hm.of ⟨rfl⟩) h8
  clear_value v6
  refine Within.ite (fun _ => ?_) (fun _ => ?_)
  · exact h8
  · refine Within.ite (fun _ => ?_) (fun _ => ?_)
    · exact Within.ite (fun _ => h9) (fun _ => retryFlit_within (hm.of ⟨rfl⟩) (changeTx_within (hm.of ⟨rfl⟩) h9))
    · exact changeTx_within (hm.of ⟨rfl⟩) h9

theorem execAckWord_within {ps : List Area} {s0 : State} {tower : Tower} {word : BitVec 64} {s : State}
    (hm : Sub [.free, .counters, .events, .pho, .lanes, .ver, .fab] ps) (h : Within ps s0 s) :
    OutWithin ps s0 (execAckWord tower word s) := by
  unfold execAckWord
  exact OutWithin.next (ackWord_within (hm.of ⟨rfl⟩) h)

theorem nakRetransmit_within {ps : List Area} {s0 : State} {n : Nat} {s : State}
    (hm : Sub [.now, .free, .counters, .events, .pho, .lanes, .ver, .fab] ps) (h : Within ps s0 s) :
    Within ps s0 (nakRetransmit n s) := by
  unfold nakRetransmit
  extract_lets v1 v2
  refine Within.mid (ps := ps) (a := s0) v2 ?_ (fun h3 => ?_)
  · unfold v2
    exact advanceTo_within (hm.of ⟨rfl⟩) h
  clear_value v2
  split
  · exact h
  · exact retryFlit_within (hm.of ⟨rfl⟩) (changeTx_within (hm.of ⟨rfl⟩) h3)

theorem execNakRetransmit_within {ps : List Area} {s0 : State} {link : Fin 9} {s : State}
    (hm : Sub [.now, .free, .counters, .events, .pho, .lanes, .ver, .fab] ps) (h : Within ps s0 s) :
    OutWithin ps s0 (execNakRetransmit link s) := by
  unfold execNakRetransmit
  exact OutWithin.next (nakRetransmit_within (hm.of ⟨rfl⟩) h)

theorem replayTimer_within {ps : List Area} {s0 : State} {n : Nat} {s : State}
    (hm : Sub [.now, .free, .counters, .events, .pho, .lanes, .ver, .fab] ps) (h : Within ps s0 s) :
    Within ps s0 (replayTimer n s) := by
  unfold replayTimer
  split
  · exact h
  · extract_lets v7 v8
    refine Within.mid (ps := ps) (a := s0) v7 ?_ (fun h9 => ?_)
    · unfold v7
      exact advanceTo_within (hm.of ⟨rfl⟩) h
    clear_value v7
    refine Within.mid (ps := ps) (a := s0) v8 ?_ (fun h10 => ?_)
    · unfold v8
      exact changeTx_within (hm.of ⟨rfl⟩) h9
    clear_value v8
    exact retryFlit_within (hm.of ⟨rfl⟩) h10

theorem execReplayTimer_within {ps : List Area} {s0 : State} {link : BitVec 16} {s : State}
    (hm : Sub [.now, .free, .counters, .events, .pho, .lanes, .ver, .fab] ps) (h : Within ps s0 s) :
    OutWithin ps s0 (execReplayTimer link s) := by
  unfold execReplayTimer
  exact OutWithin.next (replayTimer_within (hm.of ⟨rfl⟩) h)

theorem askStep_within {ps : List Area} {s0 : State} {n : Nat} {lane : Nat} {s : State}
    (hm : Sub [.free, .events, .lanes] ps) (h : Within ps s0 s) :
    Within ps s0 (askStep n lane s) := by
  unfold askStep
  split
  · rename_i y4
    refine Within.ofPair1 (ps := ps) (a := s0) y4 ?_ (fun h5 => ?_)
    · exact draw_within (hm.of ⟨rfl⟩) h
    extract_lets v6 v7 v8 v9 v10 v11 v12 v13 v14
    refine Within.mid (ps := ps) (a := s0) v11 ?_ (fun h15 => ?_)
    · unfold v11
      exact raiseIf_within (hm.of ⟨rfl⟩) h5
    clear_value v11
    refine Within.mid (ps := ps) (a := s0) v13 ?_ (fun h16 => ?_)
    · unfold v13
      exact Within.put h15
    clear_value v13
    refine Within.ite (fun _ => ?_) (fun _ => ?_)
    · exact h5
    · exact Within.ite (fun _ => putControl_within (hm.of ⟨rfl⟩) h16) (fun _ => Within.put h16)

theorem laneEstimate_within {ps : List Area} {s0 : State} {n : Nat} {lane : Nat} {est : Nat} {spared : Bool}
    {s : State} (hm : Sub [.free, .counters, .events, .pho, .lanes, .ver, .fab] ps) (h : Within ps s0 s) :
    Within ps s0 (laneEstimate n lane est spared s) := by
  unfold laneEstimate
  extract_lets v1 v2 v3 v4 v5 v6 v7 v8
  refine Within.mid (ps := ps) (a := s0) v6 ?_ (fun h9 => ?_)
  · unfold v6
    exact Within.put h
  clear_value v6
  refine Within.mid (ps := ps) (a := s0) v7 ?_ (fun h10 => ?_)
  · unfold v7
    exact Within.ite (fun _ => laneFailing_within (hm.of ⟨rfl⟩) h9) (fun _ => h9)
  clear_value v7
  exact Within.ite (fun _ => askStep_within (hm.of ⟨rfl⟩) h10) (fun _ => h10)

theorem eyeEstimate_within {ps : List Area} {s0 : State} {n : Nat} {ests : List Nat} {spared : List Nat}
    {s : State} (hm : Sub [.free, .counters, .events, .pho, .lanes, .ver, .fab] ps) (h : Within ps s0 s) :
    Within ps s0 (eyeEstimate n ests spared s) := by
  unfold eyeEstimate
  exact Within.ite (fun _ => h) (fun _ => Within.fold h (fun _ _ h3 => laneEstimate_within (hm.of ⟨rfl⟩) h3))

theorem execEyeEstimate_within {ps : List Area} {s0 : State} {link : BitVec 16} {estimates : List Nat}
    {spared : List Nat} {s : State} (hm : Sub [.free, .counters, .events, .pho, .lanes, .ver, .fab] ps)
    (h : Within ps s0 s) :
    OutWithin ps s0 (execEyeEstimate link estimates spared s) := by
  unfold execEyeEstimate
  exact OutWithin.next (eyeEstimate_within (hm.of ⟨rfl⟩) h)

theorem execLossOfSignal_within {ps : List Area} {s0 : State} {link : BitVec 16} {lane : BitVec 6}
    {spared : Bool} {s : State} (hm : Sub [.free, .counters, .events, .pho, .lanes, .ver, .fab] ps)
    (h : Within ps s0 s) :
    OutWithin ps s0 (execLossOfSignal link lane spared s) := by
  unfold execLossOfSignal
  exact OutWithin.next (Within.ite (fun _ => laneFailing_within (hm.of ⟨rfl⟩) h) (fun _ => h))

theorem execLossOfClockRecovery_within {ps : List Area} {s0 : State} {link : BitVec 16} {lane : BitVec 6}
    {spared : Bool} {s : State} (hm : Sub [.free, .counters, .events, .pho, .lanes, .ver, .fab] ps)
    (h : Within ps s0 s) :
    OutWithin ps s0 (execLossOfClockRecovery link lane spared s) := by
  unfold execLossOfClockRecovery
  exact OutWithin.next (Within.ite (fun _ => laneFailing_within (hm.of ⟨rfl⟩) h) (fun _ => h))

theorem eyeScanAct_within {ps : List Area} {s0 : State} {a0 : Bytes} {a1 : State} (hm : Sub [.lanes] ps)
    (h : Within ps s0 a1) :
    WWithin ps s0 (eyeScanAct a0 a1) := by
  unfold eyeScanAct
  extract_lets v1 v2
  split
  · exact .refuse
  · exact WWithin.done (Within.put h)

theorem execEyeScan_within {ps : List Area} {s0 : State} {req : Req} {value : Bytes} {s : State}
    (hm : Sub [.events, .om, .lanes] ps) (h : Within ps s0 s) :
    OutWithin ps s0 (execEyeScan req value s) := by
  unfold execEyeScan
  refine OutWithin.next ?_
  refine serveWrite_within (hm.of ⟨rfl⟩) ?_ ?_
  · intro x1 s2 h3
    exact eyeScanAct_within (hm.of ⟨rfl⟩) h3
  · exact h

theorem eyeScanDone_within {ps : List Area} {s0 : State} {margins : List (List Nat)} {s : State}
    (hm : Sub [.now, .lanes] ps) (h : Within ps s0 s) :
    Within ps s0 (eyeScanDone margins s) := by
  unfold eyeScanDone
  split
  · exact h
  · refine Within.ite (fun _ => ?_) (fun _ => ?_)
    · exact h
    · extract_lets v6 v7 v8
      refine Within.mid (ps := ps) (a := s0) v6 ?_ (fun h9 => ?_)
      · unfold v6
        exact advanceTo_within (hm.of ⟨rfl⟩) h
      clear_value v6
      exact Within.put h9

theorem execEyeScanDone_within {ps : List Area} {s0 : State} {margins : List (List Nat)} {s : State}
    (hm : Sub [.now, .lanes] ps) (h : Within ps s0 s) :
    OutWithin ps s0 (execEyeScanDone margins s) := by
  unfold execEyeScanDone
  exact OutWithin.next (eyeScanDone_within (hm.of ⟨rfl⟩) h)

theorem endLoop_within {ps : List Area} {s0 : State} {n : Nat} {s : State} (hm : Sub [.events, .pho, .lanes] ps)
    (h : Within ps s0 s) :
    Within ps s0 (endLoop n s) := by
  unfold endLoop
  extract_lets v1 v2 v3
  refine Within.mid (ps := ps) (a := s0) v2 ?_ (fun h4 => ?_)
  · unfold v2
    exact Within.ite (fun _ => guideUp_within (hm.of ⟨rfl⟩) (guideUp_within (hm.of ⟨rfl⟩) h)) (fun _ => h)
  clear_value v2
  refine Within.mid (ps := ps) (a := s0) v3 ?_ (fun h5 => ?_)
  · unfold v3
    exact Within.ite (fun _ => putControl_within (hm.of ⟨rfl⟩) h4) (fun _ => h4)
  clear_value v3
  exact changeLink_within (hm.of ⟨rfl⟩) h5

theorem fa8Light_within {ps : List Area} {s0 : State} {light : Option Bool} {s : State} (hm : Sub [.free] ps)
    (h : Within ps s0 s) :
    Within ps s0 (fa8Light light s).2 := by
  unfold fa8Light
  split
  · dsimp only
    exact h
  · split
    · rename_i y7
      refine Within.ofPair1 (ps := ps) (a := s0) y7 ?_ (fun h8 => ?_)
      · exact draw_within (hm.of ⟨rfl⟩) h
      dsimp only
      exact h8

theorem putLoopNull_within {ps : List Area} {s0 : State} {n : Nat} {s : State} (hm : Sub [.lanes] ps)
    (h : Within ps s0 s) :
    Within ps s0 (putLoopNull n s) := by
  unfold putLoopNull
  exact putFlit_within (hm.of ⟨rfl⟩) h

theorem beginLoop_within {ps : List Area} {s0 : State} {n : Nat} {code : Nat} {s : State}
    (hm : Sub [.events, .pho, .lanes] ps) (h : Within ps s0 s) :
    Within ps s0 (beginLoop n code s) := by
  unfold beginLoop
  extract_lets v1 v2 v3 v4
  refine Within.mid (ps := ps) (a := s0) v1 ?_ (fun h5 => ?_)
  · unfold v1
    exact changeLink_within (hm.of ⟨rfl⟩) h
  clear_value v1
  refine Within.mid (ps := ps) (a := s0) v3 ?_ (fun h6 => ?_)
  · unfold v3
    exact Within.put h5
  clear_value v3
  refine Within.mid (ps := ps) (a := s0) v4 ?_ (fun h7 => ?_)
  · unfold v4
    exact putLoopNull_within (hm.of ⟨rfl⟩) h6
  clear_value v4
  refine Within.ite (fun _ => ?_) (fun _ => ?_)
  · exact guideDown_within (hm.of ⟨rfl⟩) (guideDown_within (hm.of ⟨rfl⟩) h7)
  · exact Within.ite (fun _ => putControl_within (hm.of ⟨rfl⟩) h7) (fun _ => h7)

theorem loopbackAct_within {ps : List Area} {s0 : State} {light : Option Bool} {a1 : Bytes} {a2 : State}
    (hm : Sub [.free, .events, .pho, .lanes] ps) (h : Within ps s0 a2) :
    WWithin ps s0 (loopbackAct light a1 a2) := by
  unfold loopbackAct
  extract_lets v1 v2 v3
  split
  · exact .refuse
  · split
    · exact .refuse
    · split
      · split
        · exact .refuse
        · exact WWithin.done (endLoop_within (hm.of ⟨rfl⟩) h)
      · split
        · exact .refuse
        · split
          · exact .refuse
          · split
            · split
              · exact .refuse
              · split
                · rename_i y22
                  refine Within.ofPair1 (ps := ps) (a := s0) y22 ?_ (fun h23 => ?_)
                  · exact fa8Light_within (hm.of ⟨rfl⟩) h
                  split
                  · exact WWithin.done (beginLoop_within (hm.of ⟨rfl⟩) h23)
                  · exact .refuse
            · exact WWithin.done (beginLoop_within (hm.of ⟨rfl⟩) h)

theorem loopRow_within {ps : List Area} {s0 : State} {code : Nat} {light : Option Bool} {req : Req}
    {value : Bytes} {s : State} (hm : Sub [.free, .events, .om, .pho, .lanes] ps) (h : Within ps s0 s) :
    Within ps s0 (loopRow code light req value s) := by
  unfold loopRow
  refine Within.ite (fun _ => ?_) (fun _ => ?_)
  · refine serveWrite_within (hm.of ⟨rfl⟩) ?_ ?_
    · intro x1 s2 h3
      exact loopbackAct_within (hm.of ⟨rfl⟩) h3
    · exact h
  · exact h

theorem execLoopbackEnd_within {ps : List Area} {s0 : State} {req : Req} {value : Bytes} {s : State}
    (hm : Sub [.free, .events, .om, .pho, .lanes] ps) (h : Within ps s0 s) :
    OutWithin ps s0 (execLoopbackEnd req value s) := by
  unfold execLoopbackEnd
  exact OutWithin.next (loopRow_within (hm.of ⟨rfl⟩) h)

theorem execLoopbackNearParallel_within {ps : List Area} {s0 : State} {req : Req} {value : Bytes} {s : State}
    (hm : Sub [.free, .events, .om, .pho, .lanes] ps) (h : Within ps s0 s) :
    OutWithin ps s0 (execLoopbackNearParallel req value s) := by
  unfold execLoopbackNearParallel
  exact OutWithin.next (loopRow_within (hm.of ⟨rfl⟩) h)

theorem execLoopbackNearSerial_within {ps : List Area} {s0 : State} {req : Req} {value : Bytes} {light : Bool}
    {s : State} (hm : Sub [.free, .events, .om, .pho, .lanes] ps) (h : Within ps s0 s) :
    OutWithin ps s0 (execLoopbackNearSerial req value light s) := by
  unfold execLoopbackNearSerial
  exact OutWithin.next (loopRow_within (hm.of ⟨rfl⟩) h)

theorem execLoopbackFarEnd_within {ps : List Area} {s0 : State} {req : Req} {value : Bytes} {s : State}
    (hm : Sub [.free, .events, .om, .pho, .lanes] ps) (h : Within ps s0 s) :
    OutWithin ps s0 (execLoopbackFarEnd req value s) := by
  unfold execLoopbackFarEnd
  exact OutWithin.next (loopRow_within (hm.of ⟨rfl⟩) h)

theorem retrainLink_within {ps : List Area} {s0 : State} {n : Nat} {s : State}
    (hm : Sub [.counters, .events, .pho, .lanes] ps) (h : Within ps s0 s) :
    Within ps s0 (retrainLink n s) := by
  unfold retrainLink
  extract_lets v1 v2 v3
  refine Within.mid (ps := ps) (a := s0) v1 ?_ (fun h4 => ?_)
  · unfold v1
    exact raise_within (hm.of ⟨rfl⟩) (count32_within (hm.of ⟨rfl⟩) h)
  clear_value v1
  refine Within.mid (ps := ps) (a := s0) v2 ?_ (fun h5 => ?_)
  · unfold v2
    exact changeLink_within (hm.of ⟨rfl⟩) h4
  clear_value v2
  refine Within.mid (ps := ps) (a := s0) v3 ?_ (fun h6 => ?_)
  · unfold v3
    exact startTraining_within (hm.of ⟨rfl⟩) h5
  clear_value v3
  exact Within.ite (fun _ => h6) (fun _ => pathService_within (hm.of ⟨rfl⟩) h6)

theorem linkControlAct_within {ps : List Area} {s0 : State} {a0 : Bytes} {a1 : State}
    (hm : Sub [.free, .counters, .events, .pho, .lanes, .ver, .fab] ps) (h : Within ps s0 a1) :
    WWithin ps s0 (linkControlAct a0 a1) := by
  unfold linkControlAct
  extract_lets v1 v2 v3 v4 v5
  refine Within.mid (ps := ps) (a := s0) v3 ?_ (fun h6 => ?_)
  · unfold v3
    exact changeLink_within (hm.of ⟨rfl⟩) h
  clear_value v3
  refine Within.mid (ps := ps) (a := s0) v4 ?_ (fun h7 => ?_)
  · unfold v4
    exact endLoop_within (hm.of ⟨rfl⟩) h
  clear_value v4
  refine Within.mid (ps := ps) (a := s0) v5 ?_ (fun h8 => ?_)
  · unfold v5
    exact changeLink_within (hm.of ⟨rfl⟩) h7
  clear_value v5
  split
  · exact .refuse
  · split
    · exact .refuse
    · split
      · exact WWithin.done (retrainLink_within (hm.of ⟨rfl⟩) h)
      · exact WWithin.done (Within.ite (fun _ => h6) (fun _ => linkDown_within (hm.of ⟨rfl⟩) h6))
      · exact WWithin.done (startTraining_within (hm.of ⟨rfl⟩) h8)

theorem controlRow_within {ps : List Area} {s0 : State} {code : Nat} {req : Req} {value : Bytes} {s : State}
    (hm : Sub [.free, .counters, .events, .om, .pho, .lanes, .ver, .fab] ps) (h : Within ps s0 s) :
    Within ps s0 (controlRow code req value s) := by
  unfold controlRow
  refine Within.ite (fun _ => ?_) (fun _ => ?_)
  · refine serveWrite_within (hm.of ⟨rfl⟩) ?_ ?_
    · intro x1 s2 h3
      exact linkControlAct_within (hm.of ⟨rfl⟩) h3
    · exact h
  · exact h

theorem execLinkRetrain_within {ps : List Area} {s0 : State} {req : Req} {value : Bytes} {s : State}
    (hm : Sub [.free, .counters, .events, .om, .pho, .lanes, .ver, .fab] ps) (h : Within ps s0 s) :
    OutWithin ps s0 (execLinkRetrain req value s) := by
  unfold execLinkRetrain
  exact OutWithin.next (controlRow_within (hm.of ⟨rfl⟩) h)

theorem execLinkTakeOutOfService_within {ps : List Area} {s0 : State} {req : Req} {value : Bytes} {s : State}
    (hm : Sub [.free, .counters, .events, .om, .pho, .lanes, .ver, .fab] ps) (h : Within ps s0 s) :
    OutWithin ps s0 (execLinkTakeOutOfService req value s) := by
  unfold execLinkTakeOutOfService
  exact OutWithin.next (controlRow_within (hm.of ⟨rfl⟩) h)

theorem execLinkReturnToService_within {ps : List Area} {s0 : State} {req : Req} {value : Bytes} {s : State}
    (hm : Sub [.free, .counters, .events, .om, .pho, .lanes, .ver, .fab] ps) (h : Within ps s0 s) :
    OutWithin ps s0 (execLinkReturnToService req value s) := by
  unfold execLinkReturnToService
  exact OutWithin.next (controlRow_within (hm.of ⟨rfl⟩) h)

theorem linkInfoTimer_within {ps : List Area} {s0 : State} {n : Nat} {s : State} (hm : Sub [.now, .lanes] ps)
    (h : Within ps s0 s) :
    Within ps s0 (linkInfoTimer n s) := by
  unfold linkInfoTimer
  extract_lets v1 v2
  refine Within.mid (ps := ps) (a := s0) v2 ?_ (fun h3 => ?_)
  · unfold v2
    exact beginStream_within (hm.of ⟨rfl⟩) (advanceTo_within (hm.of ⟨rfl⟩) h)
  clear_value v2
  exact Within.ite (fun _ => h) (fun _ => putControl_within (hm.of ⟨rfl⟩) (changeLink_within (hm.of ⟨rfl⟩) h3))

theorem execLinkInfoTimer_within {ps : List Area} {s0 : State} {link : Fin 9} {s : State}
    (hm : Sub [.now, .lanes] ps) (h : Within ps s0 s) :
    OutWithin ps s0 (execLinkInfoTimer link s) := by
  unfold execLinkInfoTimer
  exact OutWithin.next (linkInfoTimer_within (hm.of ⟨rfl⟩) h)

end Sys2Proof.Machine
end

