-- ==== Sys2Proof/Laws/WithinLasers.lean ====
section
/-! SUPPORT. Which parts of the state the operations of Machine/Lasers.lean can write: one lemma for each. -/

set_option Elab.async false

namespace Sys2Proof.Machine

theorem applyCarrier_within {ps : List Area} {s0 : State} {c : Carrier} {s : State} (hm : Sub [.las] ps)
    (h : Within ps s0 s) :
    Within ps s0 (applyCarrier c s) := by
  unfold applyCarrier
  extract_lets v1 v2
  exact Within.put h

theorem dropParked_within {ps : List Area} {s0 : State} {p : Parked} {s : State} (hm : Sub [.las] ps)
    (h : Within ps s0 s) :
    Within ps s0 (dropParked p s) := by
  unfold dropParked
  extract_lets v1 v2
  refine Within.mid (ps := ps) (a := s0) v2 ?_ (fun h3 => ?_)
  · unfold v2
    exact Within.put h
  clear_value v2
  exact Within.ite (fun _ => h3) (fun _ => setSource_within (hm.of ⟨rfl⟩) h3)

theorem sendMark_within {ps : List Area} {s0 : State} {dark : Bool} {back : Bool} {f : Nat} {gs : List Nat}
    {lane : Nat} {j : Nat} {s : State} (hm : Sub [.las] ps) (h : Within ps s0 s) :
    Within ps s0 (sendMark dark back f gs lane j s) := by
  unfold sendMark
  exact Within.ite (fun _ => h) (fun _ => Within.put h)

theorem setCarrier_within {ps : List Area} {s0 : State} {f : Nat} {gs : List Nat} {k : Nat} {v : Nat}
    {s : State} (hm : Sub [.las] ps) (h : Within ps s0 s) :
    Within ps s0 (setCarrier f gs k v s) := by
  unfold setCarrier
  exact Within.put h

theorem parkedBoundary_within {ps : List Area} {s0 : State} {p : Parked} {s : State} (hm : Sub [.las] ps)
    (h : Within ps s0 s) :
    Within ps s0 (parkedBoundary p s) := by
  unfold parkedBoundary
  extract_lets v1
  refine Within.ite (fun _ => ?_) (fun _ => ?_)
  · exact dropParked_within (hm.of ⟨rfl⟩) (sendMark_within (hm.of ⟨rfl⟩) (setCarrier_within (hm.of ⟨rfl⟩) h))
  · exact Within.ite (fun _ => setCarrier_within (hm.of ⟨rfl⟩) h) (fun _ => h)

theorem sendCarrier_within {ps : List Area} {s0 : State} {f : Nat} {action : Nat} {lane : Nat} {j : Nat}
    {frame : Nat} {mask : Nat} {s : State} (hm : Sub [.free, .pho, .las, .ver] ps) (h : Within ps s0 s) :
    Within ps s0 (sendCarrier f action lane j frame mask s) := by
  unfold sendCarrier
  refine Within.ite (fun _ => ?_) (fun _ => ?_)
  · extract_lets v1 v2 v3
    exact Within.fold (Within.put h) (fun _ _ h6 => sendMesh_within (hm.of ⟨rfl⟩) h6)
  · exact h

theorem dropSparing_within {ps : List Area} {s0 : State} {f : Nat} {k : Nat} {s : State} (hm : Sub [.las] ps)
    (h : Within ps s0 s) :
    Within ps s0 (dropSparing f k s) := by
  unfold dropSparing
  exact Within.put h

theorem abandonPass_within {ps : List Area} {s0 : State} {p : Pass} {s : State}
    (hm : Sub [.free, .pho, .las, .ver] ps) (h : Within ps s0 s) :
    Within ps s0 (abandonPass p s) := by
  unfold abandonPass
  extract_lets v1 v2 v3
  refine Within.mid (ps := ps) (a := s0) v2 ?_ (fun h4 => ?_)
  · unfold v2
    exact sendMark_within (hm.of ⟨rfl⟩) (sendCarrier_within (hm.of ⟨rfl⟩) h)
  clear_value v2
  exact Within.put h4

theorem reclaimRecal_within {ps : List Area} {s0 : State} {f : Nat} {j : Nat} {s : State}
    (hm : Sub [.free, .pho, .las, .ver] ps) (h : Within ps s0 s) :
    Within ps s0 (reclaimRecal f j s) := by
  unfold reclaimRecal
  split
  · exact h
  · exact abandonPass_within (hm.of ⟨rfl⟩) h

theorem noSpare_within {ps : List Area} {s0 : State} {f : Nat} {g : Nat} {k : Nat} {s : State}
    (hm : Sub [.events, .pho, .las] ps) (h : Within ps s0 s) :
    Within ps s0 (noSpare f g k s) := by
  unfold noSpare
  extract_lets v1 v2
  refine Within.mid (ps := ps) (a := s0) v2 ?_ (fun h3 => ?_)
  · unfold v2
    exact Within.put h
  clear_value v2
  exact Within.ite (fun _ => guideDown_within (hm.of ⟨rfl⟩) h3) (fun _ => h3)

theorem reclaimParking_within {ps : List Area} {s0 : State} {f : Nat} {j : Nat} {s : State}
    (hm : Sub [.events, .pho, .las] ps) (h : Within ps s0 s) :
    Within ps s0 (reclaimParking f j s) := by
  unfold reclaimParking
  extract_lets v1 v2 v3
  refine Within.mid (ps := ps) (a := s0) v3 ?_ (fun h4 => ?_)
  · unfold v3
    exact Within.put h
  clear_value v3
  exact Within.fold h4 (fun _ _ h7 => noSpare_within (hm.of ⟨rfl⟩) (setCarrier_within (hm.of ⟨rfl⟩) h7))

theorem takeLamb_within {ps : List Area} {s0 : State} {f : Nat} {level : Nat} {s : State}
    (hm : Sub [.free, .events, .pho, .las, .ver] ps) (h : Within ps s0 s) :
    OptPairWithin ps s0 (takeLamb f level s) := by
  unfold takeLamb
  split
  · refine OptPairWithin.some ?_
    dsimp only
    exact h
  · split
    · exact OptPairWithin.none
    · split
      · refine OptPairWithin.some ?_
        dsimp only
        exact reclaimRecal_within (hm.of ⟨rfl⟩) h
      · split
        · exact OptPairWithin.none
        · refine OptPairWithin.map (fun x15 => ?_)
          dsimp only
          exact reclaimParking_within (hm.of ⟨rfl⟩) h

theorem startSparing_within {ps : List Area} {s0 : State} {f : Nat} {i : Nat} {skip : Bool} {s : State}
    (hm : Sub [.free, .events, .pho, .las, .ver] ps) (h : Within ps s0 s) :
    Within ps s0 (startSparing f i skip s) := by
  unfold startSparing
  split
  · exact h
  · refine Within.ite (fun _ => ?_) (fun _ => ?_)
    · exact h
    · split
      · exact Within.ite (fun _ => h) (fun _ => raise_within (hm.of ⟨rfl⟩) (changeSource_within (hm.of ⟨rfl⟩) h))
      · rename_i y11
        refine OptPairWithin.out (ps := ps) (a := s0) y11 ?_ (fun h12 => ?_)
        · exact takeLamb_within (hm.of ⟨rfl⟩) h
        extract_lets v13 v14 v15 v16 v17
        refine Within.mid (ps := ps) (a := s0) v14 ?_ (fun h18 => ?_)
        · unfold v14
          exact raise_within (hm.of ⟨rfl⟩) h12
        clear_value v14
        refine Within.mid (ps := ps) (a := s0) v15 ?_ (fun h19 => ?_)
        · unfold v15
          exact setSource_within (hm.of ⟨rfl⟩) h18
        clear_value v15
        refine Within.mid (ps := ps) (a := s0) v16 ?_ (fun h20 => ?_)
        · unfold v16
          exact setSource_within (hm.of ⟨rfl⟩) h19
        clear_value v16
        exact Within.put h20

theorem changeSparing_within {ps : List Area} {s0 : State} {f : Nat} {k : Nat} {g : Sparing → Sparing}
    {s : State} (hm : Sub [.las] ps) (h : Within ps s0 s) :
    Within ps s0 (changeSparing f k g s) := by
  unfold changeSparing
  exact Within.put h

theorem decideSparing_within {ps : List Area} {s0 : State} {x : Sparing} {s : State}
    (hm : Sub [.free, .events, .pho, .las, .ver] ps) (h : Within ps s0 s) :
    Within ps s0 (decideSparing x s) := by
  unfold decideSparing
  extract_lets v1 v2 v3 v4 v5 v6
  refine Within.mid (ps := ps) (a := s0) v3 ?_ (fun h7 => ?_)
  · unfold v3
    exact sendCarrier_within (hm.of ⟨rfl⟩) h
  clear_value v3
  refine Within.mid (ps := ps) (a := s0) v4 ?_ (fun h8 => ?_)
  · unfold v4
    exact raise_within (hm.of ⟨rfl⟩) (dropSparing_within (hm.of ⟨rfl⟩) h7)
  clear_value v4
  refine Within.mid (ps := ps) (a := s0) v5 ?_ (fun h9 => ?_)
  · unfold v5
    exact setSource_within (hm.of ⟨rfl⟩) h8
  clear_value v5
  refine Within.ite (fun _ => ?_) (fun _ => ?_)
  · exact startSparing_within (hm.of ⟨rfl⟩) (setSource_within (hm.of ⟨rfl⟩) h9)
  · refine Within.ite (fun _ => ?_) (fun _ => ?_)
    · exact changeSparing_within (hm.of ⟨rfl⟩) h
    · refine Within.ite (fun _ => ?_) (fun _ => ?_)
      · exact changeSparing_within (hm.of ⟨rfl⟩) h
      · exact changeSparing_within (hm.of ⟨rfl⟩) (sendCarrier_within (hm.of ⟨rfl⟩) h)

theorem dropUnparked_within {ps : List Area} {s0 : State} {f : Nat} {g : Nat} {k : Nat} {s : State}
    (hm : Sub [.events, .pho, .las] ps) (h : Within ps s0 s) :
    Within ps s0 (dropUnparked f g k s) := by
  unfold dropUnparked
  refine Within.ite (fun _ => ?_) (fun _ => ?_)
  · exact h
  · extract_lets v1 v2
    refine Within.mid (ps := ps) (a := s0) v2 ?_ (fun h3 => ?_)
    · unfold v2
      exact Within.put h
    clear_value v2
    exact Within.ite (fun _ => guideUp_within (hm.of ⟨rfl⟩) h3) (fun _ => h3)

theorem switchOver_within {ps : List Area} {s0 : State} {x : Sparing} {s : State}
    (hm : Sub [.events, .pho, .lanes, .las] ps) (h : Within ps s0 s) :
    Within ps s0 (switchOver x s) := by
  unfold switchOver
  extract_lets v1 v2 v3 v4 v5 v6 v7 v8 v9 v10 v11 v12 v13 v14
  refine Within.mid (ps := ps) (a := s0) v2 ?_ (fun h15 => ?_)
  · unfold v2
    exact setCarrier_within (hm.of ⟨rfl⟩) h
  clear_value v2
  refine Within.mid (ps := ps) (a := s0) v3 ?_ (fun h16 => ?_)
  · unfold v3
    exact setSource_within (hm.of ⟨rfl⟩) h15
  clear_value v3
  refine Within.mid (ps := ps) (a := s0) v4 ?_ (fun h17 => ?_)
  · unfold v4
    exact setSource_within (hm.of ⟨rfl⟩) h16
  clear_value v4
  refine Within.mid (ps := ps) (a := s0) v5 ?_ (fun h18 => ?_)
  · unfold v5
    exact Within.fold h17 (fun _ _ h21 => dropParked_within (hm.of ⟨rfl⟩) h21)
  clear_value v5
  refine Within.mid (ps := ps) (a := s0) v6 ?_ (fun h22 => ?_)
  · unfold v6
    exact Within.fold h18 (fun _ _ h25 => dropUnparked_within (hm.of ⟨rfl⟩) h25)
  clear_value v6
  refine Within.mid (ps := ps) (a := s0) v9 ?_ (fun h26 => ?_)
  · unfold v9
    exact reportFull_within (hm.of ⟨rfl⟩) (Within.put h22)
  clear_value v9
  refine Within.mid (ps := ps) (a := s0) v10 ?_ (fun h27 => ?_)
  · unfold v10
    exact sendMark_within (hm.of ⟨rfl⟩) h26
  clear_value v10
  refine Within.mid (ps := ps) (a := s0) v12 ?_ (fun h28 => ?_)
  · unfold v12
    exact raiseIf_within (hm.of ⟨rfl⟩) h27
  clear_value v12
  refine Within.mid (ps := ps) (a := s0) v13 ?_ (fun h29 => ?_)
  · unfold v13
    exact raise_within (hm.of ⟨rfl⟩) (dropSparing_within (hm.of ⟨rfl⟩) h28)
  clear_value v13
  exact Within.ite (fun _ => Within.put h29) (fun _ => h29)

theorem sparingBoundary_within {ps : List Area} {s0 : State} {x : Sparing} {s : State}
    (hm : Sub [.free, .events, .pho, .lanes, .las, .ver] ps) (h : Within ps s0 s) :
    Within ps s0 (sparingBoundary x s) := by
  unfold sparingBoundary
  extract_lets v1 v2
  refine Within.mid (ps := ps) (a := s0) v2 ?_ (fun h3 => ?_)
  · unfold v2
    exact Within.ite (fun _ => decideSparing_within (hm.of ⟨rfl⟩) h) (fun _ => h)
  clear_value v2
  split
  · exact h3
  · split
    · refine Within.ite (fun _ => ?_) (fun _ => ?_)
      · exact h3
      · refine Within.ite (fun _ => ?_) (fun _ => ?_)
        · exact switchOver_within (hm.of ⟨rfl⟩) h3
        · exact changeSparing_within (hm.of ⟨rfl⟩) h3
    · exact Within.ite (fun _ => switchOver_within (hm.of ⟨rfl⟩) h3) (fun _ => h3)
    · exact Within.ite (fun _ => switchOver_within (hm.of ⟨rfl⟩) h3) (fun _ => h3)
    · exact h3

theorem endPass_within {ps : List Area} {s0 : State} {p : Pass} {s : State} (hm : Sub [.las] ps)
    (h : Within ps s0 s) :
    Within ps s0 (endPass p s) := by
  unfold endPass
  extract_lets v1 v2 v3
  refine Within.mid (ps := ps) (a := s0) v2 ?_ (fun h4 => ?_)
  · unfold v2
    exact Within.put h
  clear_value v2
  refine Within.mid (ps := ps) (a := s0) v3 ?_ (fun h5 => ?_)
  · unfold v3
    exact Within.ite (fun _ => sendMark_within (hm.of ⟨rfl⟩) (setCarrier_within (hm.of ⟨rfl⟩) h4)) (fun _ => h4)
  clear_value v3
  exact Within.ite (fun _ => setSource_within (hm.of ⟨rfl⟩) h5) (fun _ => h5)

theorem commitEntries_within {ps : List Area} {s0 : State} {b : Nat} {es : List (BitVec 64)} {s : State}
    (hm : Sub [.las] ps) (h : Within ps s0 s) :
    Within ps s0 (commitEntries b es s) := by
  unfold commitEntries
  extract_lets v1 v2
  exact Within.put h

theorem passBoundary_within {ps : List Area} {s0 : State} {p : Pass} {s : State}
    (hm : Sub [.free, .events, .pho, .las, .ver] ps) (h : Within ps s0 s) :
    Within ps s0 (passBoundary p s) := by
  unfold passBoundary
  extract_lets v1 v2 v3 v4 v5 v6
  refine Within.mid (ps := ps) (a := s0) v3 ?_ (fun h7 => ?_)
  · unfold v3
    exact sendMark_within (hm.of ⟨rfl⟩) (commitEntries_within (hm.of ⟨rfl⟩) h)
  clear_value v3
  refine Within.mid (ps := ps) (a := s0) v5 ?_ (fun h8 => ?_)
  · unfold v5
    exact commitEntries_within (hm.of ⟨rfl⟩) (endPass_within (hm.of ⟨rfl⟩) h)
  clear_value v5
  refine Within.ite (fun _ => ?_) (fun _ => ?_)
  · exact endPass_within (hm.of ⟨rfl⟩) h
  · refine Within.ite (fun _ => ?_) (fun _ => ?_)
    · exact setCarrier_within (hm.of ⟨rfl⟩) (Within.put h7)
    · refine Within.ite (fun _ => ?_) (fun _ => ?_)
      · exact sendMark_within (hm.of ⟨rfl⟩) (sendCarrier_within (hm.of ⟨rfl⟩) h)
      · exact Within.ite (fun _ => raise_within (hm.of ⟨rfl⟩) (Within.put h8)) (fun _ => h)

theorem addLit_within {ps : List Area} {s0 : State} {n : Nat} {taps : List LaserTap} {s : State}
    (hm : Sub [.las] ps) (h : Within ps s0 s) :
    Within ps s0 (addLit n taps s) := by
  unfold addLit
  exact Within.fold h (fun _ _ h3 => Within.ite (fun _ => h3) (fun _ => changeSource_within (hm.of ⟨rfl⟩) h3))

theorem takeOwnPower_within {ps : List Area} {s0 : State} {f : Nat} {i : Nat} {power : Nat} {s : State}
    (hm : Sub [.las] ps) (h : Within ps s0 s) :
    Within ps s0 (takeOwnPower f i power s) := by
  unfold takeOwnPower
  exact Within.ite (fun _ => changeSource_within (hm.of ⟨rfl⟩) h) (fun _ => h)

theorem takeTap_within {ps : List Area} {s0 : State} {x : LaserTap} {s : State} (hm : Sub [.events, .las] ps)
    (h : Within ps s0 s) :
    Within ps s0 (takeTap x s) := by
  unfold takeTap
  extract_lets v1 v2 v3 v4 v5 v6 v7 v8
  refine Within.mid (ps := ps) (a := s0) v4 ?_ (fun h9 => ?_)
  · unfold v4
    exact takeOwnPower_within (hm.of ⟨rfl⟩) h
  clear_value v4
  refine Within.mid (ps := ps) (a := s0) v6 ?_ (fun h10 => ?_)
  · unfold v6
    exact changeSource_within (hm.of ⟨rfl⟩) h9
  clear_value v6
  refine Within.mid (ps := ps) (a := s0) v8 ?_ (fun h11 => ?_)
  · unfold v8
    exact raise_within (hm.of ⟨rfl⟩) (changeSource_within (hm.of ⟨rfl⟩) h10)
  clear_value v8
  refine Within.ite (fun _ => ?_) (fun _ => ?_)
  · exact h
  · refine Within.ite (fun _ => ?_) (fun _ => ?_)
    · exact Within.ite (fun _ => setSource_within (hm.of ⟨rfl⟩) h11) (fun _ => h11)
    · exact h10

theorem loseLight_within {ps : List Area} {s0 : State} {f : Nat} {i : Nat} {s : State}
    (hm : Sub [.free, .counters, .events, .pho, .lanes, .ver, .fab] ps) (h : Within ps s0 s) :
    Within ps s0 (loseLight f i s) := by
  unfold loseLight
  split
  · exact h
  · refine Within.ite (fun _ => ?_) (fun _ => ?_)
    · exact h
    · extract_lets v6
      refine Within.fold ?_ (fun s7 x8 h9 => ?_)
      · exact h
      · exact Within.fold h9 (fun _ _ h12 => laneFailing_within (hm.of ⟨rfl⟩) h12)

theorem takeTaps_within {ps : List Area} {s0 : State} {taps : List LaserTap} {s : State}
    (hm : Sub [.free, .counters, .events, .pho, .lanes, .las, .ver, .fab] ps) (h : Within ps s0 s) :
    Within ps s0 (takeTaps taps s) := by
  unfold takeTaps
  extract_lets v1 v2 v3 v4 v5
  refine Within.mid (ps := ps) (a := s0) v1 ?_ (fun h6 => ?_)
  · unfold v1
    exact h
  clear_value v1
  refine Within.mid (ps := ps) (a := s0) v2 ?_ (fun h7 => ?_)
  · unfold v2
    exact Within.fold h (fun _ _ h10 => takeTap_within (hm.of ⟨rfl⟩) h10)
  clear_value v2
  refine Within.mid (ps := ps) (a := s0) v5 ?_ (fun h11 => ?_)
  · unfold v5
    refine Within.fold ?_ (fun s12 x13 h14 => ?_)
    · exact h7
    · refine Within.ite (fun _ => ?_) (fun _ => ?_)
      · exact askTick_within (hm.of ⟨rfl⟩) h14
      · exact startSparing_within (hm.of ⟨rfl⟩) h14
  clear_value v5
  exact Within.fold h11 (fun _ _ h17 => loseLight_within (hm.of ⟨rfl⟩) h17)

theorem evaluateCorrections_within {ps : List Area} {s0 : State} {b : Nat} {s : State} (hm : Sub [.las] ps)
    (h : Within ps s0 s) :
    Within ps s0 (evaluateCorrections b s) := by
  unfold evaluateCorrections
  extract_lets v1 v2
  split
  · exact Within.ite (fun _ => h) (fun _ => Within.put h)
  · exact Within.put h

theorem lasersBoundary_within {ps : List Area} {s0 : State} {taps : List LaserTap} {s : State}
    (hm : Sub [.free, .counters, .events, .pho, .lanes, .las, .ver, .fab] ps) (h : Within ps s0 s) :
    Within ps s0 (lasersBoundary taps s) := by
  unfold lasersBoundary
  extract_lets v1 v2 v3 v4 v5 v6 v7 v8
  refine Within.mid (ps := ps) (a := s0) v4 ?_ (fun h9 => ?_)
  · unfold v4
    exact Within.fold (Within.put h) (fun _ _ h12 => applyCarrier_within (hm.of ⟨rfl⟩) h12)
  clear_value v4
  refine Within.mid (ps := ps) (a := s0) v5 ?_ (fun h13 => ?_)
  · unfold v5
    exact Within.fold h9 (fun _ _ h16 => parkedBoundary_within (hm.of ⟨rfl⟩) h16)
  clear_value v5
  refine Within.mid (ps := ps) (a := s0) v6 ?_ (fun h17 => ?_)
  · unfold v6
    exact Within.fold h13 (fun _ _ h20 => sparingBoundary_within (hm.of ⟨rfl⟩) h20)
  clear_value v6
  refine Within.mid (ps := ps) (a := s0) v7 ?_ (fun h21 => ?_)
  · unfold v7
    exact Within.fold h17 (fun _ _ h24 => passBoundary_within (hm.of ⟨rfl⟩) h24)
  clear_value v7
  refine Within.mid (ps := ps) (a := s0) v8 ?_ (fun h25 => ?_)
  · unfold v8
    exact Within.ite (fun _ => addLit_within (hm.of ⟨rfl⟩) (takeTaps_within (hm.of ⟨rfl⟩) h21)) (fun _ => h21)
  clear_value v8
  exact Within.fold h25 (fun _ _ h28 => evaluateCorrections_within (hm.of ⟨rfl⟩) h28)

theorem spareAct_within {ps : List Area} {s0 : State} {a0 : Bytes} {a1 : State}
    (hm : Sub [.free, .events, .pho, .las, .ver] ps) (h : Within ps s0 a1) :
    WWithin ps s0 (spareAct a0 a1) := by
  unfold spareAct
  extract_lets v1 v2 v3
  split
  · exact .refuse
  · split
    · exact .refuse
    · exact WWithin.done (startSparing_within (hm.of ⟨rfl⟩) h)

theorem execSpareCommand_within {ps : List Area} {s0 : State} {req : Req} {value : Bytes} {s : State}
    (hm : Sub [.free, .events, .om, .pho, .las, .ver] ps) (h : Within ps s0 s) :
    OutWithin ps s0 (execSpareCommand req value s) := by
  unfold execSpareCommand
  refine OutWithin.next ?_
  refine serveWrite_within (hm.of ⟨rfl⟩) ?_ ?_
  · intro x1 s2 h3
    exact spareAct_within (hm.of ⟨rfl⟩) h3
  · exact h

theorem lambLocked_within {ps : List Area} {s0 : State} {f : Nat} {j : Nat} {power : Nat} {s : State}
    (hm : Sub [.free, .events, .pho, .lanes, .las, .ver] ps) (h : Within ps s0 s) :
    Within ps s0 (lambLocked f j power s) := by
  unfold lambLocked
  split
  · exact h
  · extract_lets v6 v7 v8 v9
    refine Within.mid (ps := ps) (a := s0) v6 ?_ (fun h10 => ?_)
    · unfold v6
      exact takeOwnPower_within (hm.of ⟨rfl⟩) h
    clear_value v6
    refine Within.mid (ps := ps) (a := s0) v8 ?_ (fun h11 => ?_)
    · unfold v8
      exact sendMark_within (hm.of ⟨rfl⟩) h10
    clear_value v8
    refine Within.ite (fun _ => ?_) (fun _ => ?_)
    · exact switchOver_within (hm.of ⟨rfl⟩) h11
    · exact changeSparing_within (hm.of ⟨rfl⟩) (sendCarrier_within (hm.of ⟨rfl⟩) h11)

theorem execLambLocked_within {ps : List Area} {s0 : State} {flock : Fin 16} {lamb : Fin 4} {power : BitVec 16}
    {s : State} (hm : Sub [.free, .events, .pho, .lanes, .las, .ver] ps) (h : Within ps s0 s) :
    OutWithin ps s0 (execLambLocked flock lamb power s) := by
  unfold execLambLocked
  exact OutWithin.next (lambLocked_within (hm.of ⟨rfl⟩) h)

theorem takeWord_within {ps : List Area} {s0 : State} {t : Nat} {w : BitVec 64} {s : State} (hm : Sub [.pho] ps)
    (h : Within ps s0 s) :
    Within ps s0 (takeWord t w s) := by
  unfold takeWord
  exact Within.put h

theorem carrierNotice_within {ps : List Area} {s0 : State} {action : Nat} {t : Nat} {w : BitVec 64} {s : State}
    (hm : Sub [.pho, .las] ps) (h : Within ps s0 s) :
    Within ps s0 (carrierNotice action t w s) := by
  unfold carrierNotice
  extract_lets v1 v2 v3 v4 v5 v6
  refine Within.mid (ps := ps) (a := s0) v1 ?_ (fun h7 => ?_)
  · unfold v1
    exact takeWord_within (hm.of ⟨rfl⟩) h
  clear_value v1
  exact Within.ite (fun _ => h7) (fun _ => Within.ite (fun _ => Within.put h7) (fun _ => Within.put h7))

theorem execNoticeDuplicate_within {ps : List Area} {s0 : State} {tower : Tower} {word : BitVec 64} {s : State}
    (hm : Sub [.pho, .las] ps) (h : Within ps s0 s) :
    OutWithin ps s0 (execNoticeDuplicate tower word s) := by
  unfold execNoticeDuplicate
  exact OutWithin.next (carrierNotice_within (hm.of ⟨rfl⟩) h)

theorem execNoticeSwitch_within {ps : List Area} {s0 : State} {tower : Tower} {word : BitVec 64} {s : State}
    (hm : Sub [.pho, .las] ps) (h : Within ps s0 s) :
    OutWithin ps s0 (execNoticeSwitch tower word s) := by
  unfold execNoticeSwitch
  exact OutWithin.next (carrierNotice_within (hm.of ⟨rfl⟩) h)

theorem execNoticePark_within {ps : List Area} {s0 : State} {tower : Tower} {word : BitVec 64} {s : State}
    (hm : Sub [.pho, .las] ps) (h : Within ps s0 s) :
    OutWithin ps s0 (execNoticePark tower word s) := by
  unfold execNoticePark
  exact OutWithin.next (carrierNotice_within (hm.of ⟨rfl⟩) h)

theorem execNoticeReturn_within {ps : List Area} {s0 : State} {tower : Tower} {word : BitVec 64} {s : State}
    (hm : Sub [.pho, .las] ps) (h : Within ps s0 s) :
    OutWithin ps s0 (execNoticeReturn tower word s) := by
  unfold execNoticeReturn
  exact OutWithin.next (carrierNotice_within (hm.of ⟨rfl⟩) h)

theorem execNoticeAbandon_within {ps : List Area} {s0 : State} {tower : Tower} {word : BitVec 64} {s : State}
    (hm : Sub [.pho, .las] ps) (h : Within ps s0 s) :
    OutWithin ps s0 (execNoticeAbandon tower word s) := by
  unfold execNoticeAbandon
  exact OutWithin.next (carrierNotice_within (hm.of ⟨rfl⟩) h)

theorem compareStop_within {ps : List Area} {s0 : State} {f : Nat} {k : Nat} {counts : List CompareCount}
    {s : State} (hm : Sub [.now, .free, .pho, .las, .ver] ps) (h : Within ps s0 s) :
    Within ps s0 (compareStop f k counts s) := by
  unfold compareStop
  split
  · exact h
  · refine Within.ite (fun _ => ?_) (fun _ => ?_)
    · exact h
    · extract_lets v6 v7 v8
      refine Within.mid (ps := ps) (a := s0) v8 ?_ (fun h9 => ?_)
      · unfold v8
        exact advanceTo_within (hm.of ⟨rfl⟩) (Within.put h)
      clear_value v8
      exact Within.fold h9 (fun _ _ h12 => sendMesh_within (hm.of ⟨rfl⟩) h12)

theorem execCompareCountStop_within {ps : List Area} {s0 : State} {flock : Fin 16} {lane : Fin 32}
    {counts : List CompareCount} {s : State} (hm : Sub [.now, .free, .pho, .las, .ver] ps) (h : Within ps s0 s)
    :
    OutWithin ps s0 (execCompareCountStop flock lane counts s) := by
  unfold execCompareCountStop
  exact OutWithin.next (compareStop_within (hm.of ⟨rfl⟩) h)

theorem compareReport_within {ps : List Area} {s0 : State} {t : Nat} {w : BitVec 64} {s : State}
    (hm : Sub [.pho, .las] ps) (h : Within ps s0 s) :
    Within ps s0 (compareReport t w s) := by
  unfold compareReport
  extract_lets v1
  refine Within.mid (ps := ps) (a := s0) v1 ?_ (fun h2 => ?_)
  · unfold v1
    exact takeWord_within (hm.of ⟨rfl⟩) h
  clear_value v1
  exact Within.ite (fun _ => h2) (fun _ => changeSparing_within (hm.of ⟨rfl⟩) h2)

theorem execCompareReport_within {ps : List Area} {s0 : State} {tower : Tower} {word : BitVec 64} {s : State}
    (hm : Sub [.pho, .las] ps) (h : Within ps s0 s) :
    OutWithin ps s0 (execCompareReport tower word s) := by
  unfold execCompareReport
  exact OutWithin.next (compareReport_within (hm.of ⟨rfl⟩) h)

theorem spareDecision_within {ps : List Area} {s0 : State} {f : Nat} {k : Nat} {s : State}
    (hm : Sub [.now, .free, .events, .pho, .las, .ver] ps) (h : Within ps s0 s) :
    Within ps s0 (spareDecision f k s) := by
  unfold spareDecision
  split
  · exact h
  · exact Within.ite (fun _ => h) (fun _ => decideSparing_within (hm.of ⟨rfl⟩) (advanceTo_within (hm.of ⟨rfl⟩) h))

theorem execSpareDecision_within {ps : List Area} {s0 : State} {flock : Fin 16} {lane : Fin 32} {s : State}
    (hm : Sub [.now, .free, .events, .pho, .las, .ver] ps) (h : Within ps s0 s) :
    OutWithin ps s0 (execSpareDecision flock lane s) := by
  unfold execSpareDecision
  exact OutWithin.next (spareDecision_within (hm.of ⟨rfl⟩) h)

theorem darkMarker_within {ps : List Area} {s0 : State} {p : Nat} {lane : Nat} {j : Nat} {compared : Nat}
    {mismatches : Nat} {s : State} (hm : Sub [.events, .las] ps) (h : Within ps s0 s) :
    Within ps s0 (darkMarker p lane j compared mismatches s) := by
  unfold darkMarker
  extract_lets v1 v2 v3
  refine Within.mid (ps := ps) (a := s0) v2 ?_ (fun h4 => ?_)
  · unfold v2
    exact raiseIf_within (hm.of ⟨rfl⟩) h
  clear_value v2
  exact Within.put h4

theorem execDarkMarker_within {ps : List Area} {s0 : State} {port : Port} {lane : BitVec 6} {spare : Fin 4}
    {compared : Nat} {mismatches : Nat} {s : State} (hm : Sub [.events, .las] ps) (h : Within ps s0 s) :
    OutWithin ps s0 (execDarkMarker port lane spare compared mismatches s) := by
  unfold execDarkMarker
  exact OutWithin.next (darkMarker_within (hm.of ⟨rfl⟩) h)

theorem parkChannel_within {ps : List Area} {s0 : State} {f : Nat} {g : Nat} {k : Nat} {s : State}
    (hm : Sub [.free, .events, .pho, .las, .ver] ps) (h : Within ps s0 s) :
    Within ps s0 (parkChannel f g k s) := by
  unfold parkChannel
  refine Within.ite (fun _ => ?_) (fun _ => ?_)
  · exact h
  · extract_lets v1
    unfold v1
    split
    · exact noSpare_within (hm.of ⟨rfl⟩) h
    · rename_i y7
      refine OptPairWithin.out (ps := ps) (a := s0) y7 ?_ (fun h8 => ?_)
      · split
        · refine OptPairWithin.some ?_
          dsimp only
          exact h
        · exact takeLamb_within (hm.of ⟨rfl⟩) h
      extract_lets v14 v15 v16 v17
      refine Within.mid (ps := ps) (a := s0) v14 ?_ (fun h18 => ?_)
      · unfold v14
        exact setSource_within (hm.of ⟨rfl⟩) h8
      clear_value v14
      refine Within.mid (ps := ps) (a := s0) v17 ?_ (fun h19 => ?_)
      · unfold v17
        exact Within.put h18
      clear_value v17
      refine Within.ite (fun _ => ?_) (fun _ => ?_)
      · exact sendCarrier_within (hm.of ⟨rfl⟩) h19
      · exact setCarrier_within (hm.of ⟨rfl⟩) (sendMark_within (hm.of ⟨rfl⟩) (sendMark_within (hm.of ⟨rfl⟩) h19))

theorem ringOut_within {ps : List Area} {s0 : State} {r : Ring} {s : State}
    (hm : Sub [.free, .counters, .events, .pho, .las, .ver] ps) (h : Within ps s0 s) :
    Within ps s0 (ringOut r s) := by
  unfold ringOut
  extract_lets v1
  refine Within.mid (ps := ps) (a := s0) v1 ?_ (fun h2 => ?_)
  · unfold v1
    exact raise_within (hm.of ⟨rfl⟩) (count32_within (hm.of ⟨rfl⟩) h)
  clear_value v1
  split
  · exact pathService_within (hm.of ⟨rfl⟩) h2
  · exact Within.ite (fun _ => askTick_within (hm.of ⟨rfl⟩) h2) (fun _ => h2)
  · split
    · exact Within.ite (fun _ => parkChannel_within (hm.of ⟨rfl⟩) h2) (fun _ => h2)
    · exact h2

theorem unparkChannel_within {ps : List Area} {s0 : State} {f : Nat} {g : Nat} {k : Nat} {s : State}
    (hm : Sub [.free, .events, .pho, .las, .ver] ps) (h : Within ps s0 s) :
    Within ps s0 (unparkChannel f g k s) := by
  unfold unparkChannel
  extract_lets v1 v2 v3 v4
  refine Within.mid (ps := ps) (a := s0) v4 ?_ (fun h5 => ?_)
  · unfold v4
    split
    · exact h
    · exact sendMark_within (hm.of ⟨rfl⟩) (sendCarrier_within (hm.of ⟨rfl⟩) (Within.put h))
  clear_value v4
  exact dropUnparked_within (hm.of ⟨rfl⟩) h5

theorem ringBack_within {ps : List Area} {s0 : State} {r : Ring} {s : State}
    (hm : Sub [.free, .events, .pho, .las, .ver] ps) (h : Within ps s0 s) :
    Within ps s0 (ringBack r s) := by
  unfold ringBack
  extract_lets v1
  refine Within.mid (ps := ps) (a := s0) v1 ?_ (fun h2 => ?_)
  · unfold v1
    exact raise_within (hm.of ⟨rfl⟩) h
  clear_value v1
  split
  · exact Within.ite (fun _ => h2) (fun _ => pathService_within (hm.of ⟨rfl⟩) h2)
  · exact h2
  · split
    · exact Within.ite (fun _ => unparkChannel_within (hm.of ⟨rfl⟩) h2) (fun _ => h2)
    · exact h2

theorem ringSample_within {ps : List Area} {s0 : State} {r : Ring} {error : Int} {temperature : Int} {s : State}
    (hm : Sub [.free, .counters, .events, .pho, .lanes, .las, .ver, .fab] ps) (h : Within ps s0 s) :
    Within ps s0 (ringSample r error temperature s) := by
  unfold ringSample
  extract_lets v1 v2 v3 v4 v5
  refine Within.mid (ps := ps) (a := s0) v4 ?_ (fun h6 => ?_)
  · unfold v4
    simp only [v3]
    exact Within.put h
  clear_value v4
  refine Within.ite (fun _ => ?_) (fun _ => ?_)
  · refine ringOut_within (hm.of ⟨rfl⟩) ?_
    simp only [v3]
    exact Within.put h
  · refine Within.ite (fun _ => ?_) (fun _ => ?_)
    · refine ringBack_within (hm.of ⟨rfl⟩) ?_
      simp only [v3]
      exact Within.put h
    · split
      · exact Within.ite (fun _ => laneFailing_within (hm.of ⟨rfl⟩) (Within.put h6)) (fun _ => h6)
      · exact h6

theorem execRingSample_within {ps : List Area} {s0 : State} {ring : Ring} {error : Int} {temperature : Int}
    {s : State} (hm : Sub [.free, .counters, .events, .pho, .lanes, .las, .ver, .fab] ps) (h : Within ps s0 s) :
    OutWithin ps s0 (execRingSample ring error temperature s) := by
  unfold execRingSample
  exact OutWithin.next (Within.ite (fun _ => ringSample_within (hm.of ⟨rfl⟩) h) (fun _ => h))

theorem measureRref_within {ps : List Area} {s0 : State} {d : BitVec 16} {s : State}
    (hm : Sub [.free, .events, .pho, .las, .ver] ps) (h : Within ps s0 s) :
    Within ps s0 (measureRref d s) := by
  unfold measureRref
  extract_lets v1 v2 v3 v4
  refine Within.mid (ps := ps) (a := s0) v2 ?_ (fun h5 => ?_)
  · unfold v2
    exact Within.put h
  clear_value v2
  refine Within.mid (ps := ps) (a := s0) v4 ?_ (fun h6 => ?_)
  · unfold v4
    exact Within.ite (fun _ => h5) (fun _ => raise_within (hm.of ⟨rfl⟩) (Within.put h5))
  clear_value v4
  refine Within.ite (fun _ => ?_) (fun _ => ?_)
  · exact Within.fold h6 (fun _ _ h9 => abandonPass_within (hm.of ⟨rfl⟩) h9)
  · split
    · rename_i y13
      refine Within.ofPair1 (ps := ps) (a := s0) y13 ?_ (fun h14 => ?_)
      · exact draw_within (hm.of ⟨rfl⟩) h5
      split
      · rename_i y18
        refine Within.ofPair1 (ps := ps) (a := s0) y18 ?_ (fun h19 => ?_)
        · exact draw_within (hm.of ⟨rfl⟩) h14
        split
        · rename_i y23
          refine Within.ofPair1 (ps := ps) (a := s0) y23 ?_ (fun h24 => ?_)
          · exact draw_within (hm.of ⟨rfl⟩) h19
          exact Within.put h24

theorem joinPass_within {ps : List Area} {s0 : State} {f : Nat} {k : Nat} {s : State} (hm : Sub [.now, .las] ps)
    (h : Within ps s0 s) :
    Within ps s0 (joinPass f k s) := by
  unfold joinPass
  extract_lets v1 v2 v3 v4 v5
  refine Within.mid (ps := ps) (a := s0) v2 ?_ (fun h6 => ?_)
  · unfold v2
    exact advanceTo_within (hm.of ⟨rfl⟩) h
  clear_value v2
  refine Within.mid (ps := ps) (a := s0) v4 ?_ (fun h7 => ?_)
  · unfold v4
    exact Within.ite (fun _ => h) (fun _ => Within.put h6)
  clear_value v4
  exact Within.put h7

theorem recalPass_within {ps : List Area} {s0 : State} {f : Nat} {k : Nat} {byTemperature : Bool}
    {rref : BitVec 16} {es : List (BitVec 64)} {s : State}
    (hm : Sub [.now, .free, .events, .pho, .las, .ver] ps) (h : Within ps s0 s) :
    Within ps s0 (recalPass f k byTemperature rref es s) := by
  unfold recalPass
  extract_lets v1 v2
  refine Within.mid (ps := ps) (a := s0) v2 ?_ (fun h3 => ?_)
  · unfold v2
    exact measureRref_within (hm.of ⟨rfl⟩) (Within.ite (fun _ => h) (fun _ => joinPass_within (hm.of ⟨rfl⟩) h))
  clear_value v2
  refine Within.ite (fun _ => ?_) (fun _ => ?_)
  · exact h
  · refine Within.ite (fun _ => ?_) (fun _ => ?_)
    · exact h3
    · split
      · exact h3
      · rename_i y9
        refine OptPairWithin.out (ps := ps) (a := s0) y9 ?_ (fun h10 => ?_)
        · exact takeLamb_within (hm.of ⟨rfl⟩) h3
        extract_lets v11 v12 v13 v14
        refine Within.mid (ps := ps) (a := s0) v12 ?_ (fun h15 => ?_)
        · unfold v12
          exact setSource_within (hm.of ⟨rfl⟩) h10
        clear_value v12
        refine Within.mid (ps := ps) (a := s0) v13 ?_ (fun h16 => ?_)
        · unfold v13
          exact sendCarrier_within (hm.of ⟨rfl⟩) (sendMark_within (hm.of ⟨rfl⟩) h15)
        clear_value v13
        exact Within.put h16

theorem execRecalPassStart_within {ps : List Area} {s0 : State} {flock : Fin 16} {lane : Fin 32}
    {byTemperature : Bool} {rref : BitVec 16} {entries : List (BitVec 64)} {s : State}
    (hm : Sub [.now, .free, .events, .pho, .las, .ver] ps) (h : Within ps s0 s) :
    OutWithin ps s0 (execRecalPassStart flock lane byTemperature rref entries s) := by
  unfold execRecalPassStart
  exact OutWithin.next (recalPass_within (hm.of ⟨rfl⟩) h)

theorem calWrite_within {ps : List Area} {s0 : State} {b : Nat} {ok : Bool} {s : State}
    (hm : Sub [.events, .las] ps) (h : Within ps s0 s) :
    Within ps s0 (calWrite b ok s) := by
  unfold calWrite
  refine Within.ite (fun _ => ?_) (fun _ => ?_)
  · exact h
  · extract_lets v1 v2 v3 v4 v5 v6
    refine Within.mid (ps := ps) (a := s0) v4 ?_ (fun h7 => ?_)
    · unfold v4
      exact Within.put h
    clear_value v4
    refine Within.ite (fun _ => ?_) (fun _ => ?_)
    · simp only [v2]
      exact Within.put h7
    · refine raise_within (hm.of ⟨rfl⟩) ?_
      simp only [v2]
      exact Within.put h7

theorem execCalRecordWrite_within {ps : List Area} {s0 : State} {base : Fin 4} {written : Bool} {s : State}
    (hm : Sub [.events, .las] ps) (h : Within ps s0 s) :
    OutWithin ps s0 (execCalRecordWrite base written s) := by
  unfold execCalRecordWrite
  exact OutWithin.next (calWrite_within (hm.of ⟨rfl⟩) h)

theorem lasersReset_within {ps : List Area} {s0 : State} {b : Nat} {s : State}
    (hm : Sub [.free, .pho, .las, .ver] ps) (h : Within ps s0 s) :
    Within ps s0 (lasersReset b s) := by
  unfold lasersReset
  extract_lets v1 v2 v3
  refine Within.mid (ps := ps) (a := s0) v2 ?_ (fun h4 => ?_)
  · unfold v2
    exact Within.fold h (fun _ _ h7 => sendCarrier_within (hm.of ⟨rfl⟩) (changeSparing_within (hm.of ⟨rfl⟩) h7))
  clear_value v2
  exact Within.fold h4 (fun _ _ h10 => sendCarrier_within (hm.of ⟨rfl⟩) (Within.put h10))

theorem lasersReturn_within {ps : List Area} {s0 : State} {b : Nat} {s : State}
    (hm : Sub [.free, .pho, .las, .ver] ps) (h : Within ps s0 s) :
    Within ps s0 (lasersReturn b s) := by
  unfold lasersReturn
  extract_lets v1 v2 v3
  refine Within.mid (ps := ps) (a := s0) v2 ?_ (fun h4 => ?_)
  · unfold v2
    exact Within.put h
  clear_value v2
  refine Within.fold ?_ (fun s5 x6 h7 => ?_)
  · exact h4
  · refine Within.fold ?_ (fun s8 x9 h10 => ?_)
    · exact h7
    · split
      · refine Within.ite (fun _ => ?_) (fun _ => ?_)
        · refine setSource_within (hm.of ⟨rfl⟩) ?_
          exact sendCarrier_within (hm.of ⟨rfl⟩) (setCarrier_within (hm.of ⟨rfl⟩) h10)
        · exact h10
      · exact h10

theorem searchRings_within {ps : List Area} {s0 : State} {unlocked : List Ring} {s : State} (hm : Sub [.las] ps)
    (h : Within ps s0 s) :
    Within ps s0 (searchRings unlocked s) := by
  unfold searchRings
  extract_lets v1 v2
  exact Within.put h

theorem parkUnlocked_within {ps : List Area} {s0 : State} {r : Ring} {s : State}
    (hm : Sub [.free, .counters, .events, .pho, .lanes, .las, .ver, .fab] ps) (h : Within ps s0 s) :
    Within ps s0 (parkUnlocked r s) := by
  unfold parkUnlocked
  split
  · exact h
  · refine Within.ite (fun _ => ?_) (fun _ => ?_)
    · exact h
    · refine Within.ite (fun _ => ?_) (fun _ => ?_)
      · extract_lets v8
        exact Within.fold h (fun _ _ h11 => laneFailing_within (hm.of ⟨rfl⟩) h11)
      · exact parkChannel_within (hm.of ⟨rfl⟩) h

theorem parkAllUnlocked_within {ps : List Area} {s0 : State} {s : State}
    (hm : Sub [.free, .counters, .events, .pho, .lanes, .las, .ver, .fab] ps) (h : Within ps s0 s) :
    Within ps s0 (parkAllUnlocked s) := by
  unfold parkAllUnlocked
  exact Within.fold (Within.put h) (fun _ _ h3 => parkUnlocked_within (hm.of ⟨rfl⟩) h3)

end Sys2Proof.Machine
end

