-- ==== Sys2Proof/Laws/WithinTdiOps.lean ====
section
/-! SUPPORT. Which parts of the state the operations of Machine/TdiOps.lean can write: one lemma for each. -/

set_option Elab.async false

namespace Sys2Proof.Machine

theorem setTdi_within {ps : List Area} {s0 : State} {f : Nat} {n : Nat} {s : State}
    (hm : Sub [.events, .host, .sec] ps) (h : Within ps s0 s) :
    Within ps s0 (setTdi f n s) := by
  unfold setTdi
  exact Within.ite (fun _ => h) (fun _ => notify_within (hm.of ⟨rfl⟩) (raise_within (hm.of ⟨rfl⟩) (Within.put h)))

theorem tdiFail_within {ps : List Area} {s0 : State} {f : Nat} {s : State}
    (hm : Sub [.events, .parts, .dma, .host, .sec] ps) (h : Within ps s0 s) :
    Within ps s0 (tdiFail f s) := by
  unfold tdiFail
  refine Within.ite (fun _ => ?_) (fun _ => ?_)
  · exact h
  · extract_lets v1 v2 v3
    refine Within.mid (ps := ps) (a := s0) v3 ?_ (fun h4 => ?_)
    · unfold v3
      exact setTdi_within (hm.of ⟨rfl⟩) (Within.put h)
    clear_value v3
    exact Within.fold h4 (fun _ _ h7 => releaseRun_within (hm.of ⟨rfl⟩) h7)

theorem partitionTdiFail_within {ps : List Area} {s0 : State} {p : Nat} {s : State}
    (hm : Sub [.events, .parts, .dma, .host, .sec] ps) (h : Within ps s0 s) :
    Within ps s0 (partitionTdiFail p s) := by
  unfold partitionTdiFail
  split
  · exact tdiFail_within (hm.of ⟨rfl⟩) h
  · exact h

end Sys2Proof.Machine
end

