-- ==== Sys2Proof/Laws/WithinUnits.lean ====
section
/-! SUPPORT. Which parts of the state the operations of Machine/Units.lean can write: one lemma for each. -/

set_option Elab.async false

namespace Sys2Proof.Machine

theorem pumpAll_within {ps : List Area} {s0 : State} {s : State}
    (hm : Sub [.free, .counters, .events, .om, .spad, .dma, .dram, .host, .pho, .lanes, .ver, .fab, .twin] ps)
    (h : Within ps s0 s) :
    Within ps s0 (pumpAll s) := by
  unfold pumpAll
  exact Within.fold h (fun _ _ h3 => pump_within (hm.of ⟨rfl⟩) h3)

theorem freeOpenTag_within {ps : List Area} {s0 : State} {t : Nat} {tag : BitVec 16} {s : State}
    (hm : Sub [.dma, .pho] ps) (h : Within ps s0 s) :
    Within ps s0 (freeOpenTag t tag s) := by
  unfold freeOpenTag
  exact skipTag_within (hm.of ⟨rfl⟩) (Within.put h)

theorem forgetFlight_within {ps : List Area} {s0 : State} {x : Flight} {s : State}
    (hm : Sub [.dma, .host, .pho] ps) (h : Within ps s0 s) :
    Within ps s0 (forgetFlight x s) := by
  unfold forgetFlight
  extract_lets v1 v2 v3
  split
  · exact freeOpenTag_within (hm.of ⟨rfl⟩) h
  · exact freeOpenTag_within (hm.of ⟨rfl⟩) h
  · exact freeOpenTag_within (hm.of ⟨rfl⟩) (Within.put h)
  · exact Within.put h
  · exact h

theorem endFlight_within {ps : List Area} {s0 : State} {x : Flight} {code : Nat} {s : State}
    (hm : Sub [.dma, .host, .pho] ps) (h : Within ps s0 s) :
    Within ps s0 (endFlight x code s) := by
  unfold endFlight
  extract_lets v1
  exact finishDesc_within (hm.of ⟨rfl⟩) (changeDesc_within (hm.of ⟨rfl⟩) (forgetFlight_within (hm.of ⟨rfl⟩) h))

theorem losePackets_within {ps : List Area} {s0 : State} {ts : List Nat} {s : State}
    (hm : Sub [.free, .counters, .events, .spad, .parts, .clk, .pho, .sums, .pow] ps) (h : Within ps s0 s) :
    Within ps s0 (losePackets ts s) := by
  unfold losePackets
  extract_lets v1 v2
  exact loseShares_within (hm.of ⟨rfl⟩) (Within.put h)

theorem deadTowers_within {ps : List Area} {s0 : State} {ts : List Nat} {s : State}
    (hm : Sub [.free, .counters, .events, .om, .spad, .parts, .dma, .dram, .clk, .host, .pho, .sums, .lanes, .ver, .fab, .pow, .twin] ps)
    (h : Within ps s0 s) :
    Within ps s0 (deadTowers ts s) := by
  unfold deadTowers
  extract_lets v1
  refine pumpAll_within (hm.of ⟨rfl⟩) ?_
  exact Within.fold (losePackets_within (hm.of ⟨rfl⟩) h) (fun _ _ h4 => endFlight_within (hm.of ⟨rfl⟩) h4)

theorem keepOut_within {ps : List Area} {s0 : State} {us : List PkgUnit} {s : State}
    (hm : Sub [.free, .counters, .events, .om, .start, .spad, .parts, .dma, .dram, .clk, .host, .pho, .sums, .lanes, .ver, .fab, .pow, .twin] ps)
    (h : Within ps s0 s) :
    Within ps s0 (keepOut us s) := by
  unfold keepOut
  extract_lets v1 v2 v3 v4 v5 v6 v7
  refine Within.mid (ps := ps) (a := s0) v4 ?_ (fun h8 => ?_)
  · unfold v4
    exact dropUnits_within (hm.of ⟨rfl⟩) h
  clear_value v4
  refine Within.mid (ps := ps) (a := s0) v6 ?_ (fun h9 => ?_)
  · unfold v6
    exact Within.put h8
  clear_value v6
  refine Within.mid (ps := ps) (a := s0) v7 ?_ (fun h10 => ?_)
  · unfold v7
    refine Within.fold ?_ (fun s11 x12 h13 => ?_)
    · exact h9
    · exact Within.ite (fun _ => h13) (fun _ => linkDown_within (hm.of ⟨rfl⟩) h13)
  clear_value v7
  exact Within.ite (fun _ => h10) (fun _ => deadTowers_within (hm.of ⟨rfl⟩) h10)

end Sys2Proof.Machine
end

