-- ==== Sys2Proof/Laws/WithinBundles.lean ====
section
/-! SUPPORT. Which parts of the state the operations of Machine/Bundles.lean can write: one lemma for each. -/

set_option Elab.async false

namespace Sys2Proof.Machine

theorem trainPath_within {ps : List Area} {s0 : State} {n : Nat} {s : State}
    (hm : Sub [.free, .counters, .events, .pho, .lanes, .ver, .fab] ps) (h : Within ps s0 s) :
    Within ps s0 (trainPath n s) := by
  unfold trainPath
  split
  · rename_i y4
    refine Within.ofPair1 (ps := ps) (a := s0) y4 ?_ (fun h5 => ?_)
    · exact draw_within (hm.of ⟨rfl⟩) h
    exact lockOn_within (hm.of ⟨rfl⟩) (changeLink_within (hm.of ⟨rfl⟩) (startTraining_within (hm.of ⟨rfl⟩) h5))

theorem trainPaths_within {ps : List Area} {s0 : State} {ts : List Nat} {s : State}
    (hm : Sub [.free, .counters, .events, .pho, .lanes, .las, .ver, .fab] ps) (h : Within ps s0 s) :
    Within ps s0 (trainPaths ts s) := by
  unfold trainPaths
  extract_lets v1 v2 v3
  refine Within.mid (ps := ps) (a := s0) v2 ?_ (fun h4 => ?_)
  · unfold v2
    exact Within.put h
  clear_value v2
  refine Within.fold ?_ (fun s5 x6 h7 => ?_)
  · exact h4
  · split
    · refine Within.fold ?_ (fun s11 x12 h13 => ?_)
      · exact h7
      · exact Within.ite (fun _ => h13) (fun _ => trainPath_within (hm.of ⟨rfl⟩) h13)

theorem bundleDown_within {ps : List Area} {s0 : State} {t : Nat} {n : Nat} {s : State}
    (hm : Sub [.free, .counters, .events, .om, .start, .spad, .parts, .dma, .dram, .clk, .host, .pho, .sums, .lanes, .ver, .fab, .pow, .twin] ps)
    (h : Within ps s0 s) :
    Within ps s0 (bundleDown t n s) := by
  unfold bundleDown
  refine Within.ite (fun _ => ?_) (fun _ => ?_)
  · exact h
  · refine Within.ite (fun _ => ?_) (fun _ => ?_)
    · exact guideDown_within (hm.of ⟨rfl⟩) h
    · refine Within.ite (fun _ => ?_) (fun _ => ?_)
      · exact guideDown_within (hm.of ⟨rfl⟩) h
      · exact Within.ite (fun _ => keepOut_within (hm.of ⟨rfl⟩) h) (fun _ => h)

theorem repairLane_within {ps : List Area} {s0 : State} {t : Nat} {n : Nat} {l : Nat} {s : State}
    (hm : Sub [.free, .counters, .events, .om, .start, .spad, .parts, .dma, .dram, .clk, .host, .pho, .sums, .lanes, .ver, .fab, .pow, .twin] ps)
    (h : Within ps s0 s) :
    Within ps s0 (repairLane t n l s) := by
  unfold repairLane
  extract_lets v1 v2
  refine Within.ite (fun _ => ?_) (fun _ => ?_)
  · exact h
  · refine Within.ite (fun _ => ?_) (fun _ => ?_)
    · exact count32_within (hm.of ⟨rfl⟩) (changeBundle_within (hm.of ⟨rfl⟩) h)
    · split
      · exact raise_within (hm.of ⟨rfl⟩) (changeBundle_within (hm.of ⟨rfl⟩) h)
      · exact bundleDown_within (hm.of ⟨rfl⟩) (raise_within (hm.of ⟨rfl⟩) (changeBundle_within (hm.of ⟨rfl⟩) h))

theorem bundlesBoundary_within {ps : List Area} {s0 : State} {s : State}
    (hm : Sub [.free, .counters, .events, .om, .start, .spad, .parts, .dma, .dram, .clk, .host, .pho, .sums, .lanes, .ver, .fab, .pow, .twin] ps)
    (h : Within ps s0 s) :
    Within ps s0 (bundlesBoundary s) := by
  unfold bundlesBoundary
  refine Within.fold ?_ (fun s1 x2 h3 => ?_)
  · exact h
  · split
    · extract_lets v7
      refine Within.mid (ps := ps) (a := s0) v7 ?_ (fun h8 => ?_)
      · unfold v7
        exact Within.fold h3 (fun _ _ h11 => repairLane_within (hm.of ⟨rfl⟩) h11)
      clear_value v7
      exact changeBundle_within (hm.of ⟨rfl⟩) h8

theorem bundleLaneFails_within {ps : List Area} {s0 : State} {t : Nat} {n : Nat} {l : Nat} {s : State}
    (hm : Sub [.events, .ver] ps) (h : Within ps s0 s) :
    Within ps s0 (bundleLaneFails t n l s) := by
  unfold bundleLaneFails
  extract_lets v1 v2
  exact Within.ite (fun _ => h) (fun _ => raise_within (hm.of ⟨rfl⟩) (changeBundle_within (hm.of ⟨rfl⟩) h))

theorem checkParity_within {ps : List Area} {s0 : State} {t : Nat} {n : Nat} {h2 : Nat} {s : State}
    (hm : Sub [.events, .ver] ps) (h : Within ps s0 s) :
    Within ps s0 (checkParity t n h2 s) := by
  unfold checkParity
  extract_lets v1 v2 v3 v4
  refine Within.mid (ps := ps) (a := s0) v4 ?_ (fun h5 => ?_)
  · unfold v4
    exact changeBundle_within (hm.of ⟨rfl⟩) h
  clear_value v4
  refine Within.fold ?_ (fun s6 x7 h8 => ?_)
  · exact h5
  · exact Within.ite (fun _ => bundleLaneFails_within (hm.of ⟨rfl⟩) h8) (fun _ => h8)

theorem groupReceived_within {ps : List Area} {s0 : State} {t : Nat} {n : Nat} {g : Bytes} {s : State}
    (hm : Sub [.free, .events, .ver] ps) (h : Within ps s0 s) :
    Within ps s0 (groupReceived t n g s) := by
  unfold groupReceived
  extract_lets v1 v2 v3 v4 v5 v6 v7 v8 v9
  refine Within.mid (ps := ps) (a := s0) v4 ?_ (fun h10 => ?_)
  · unfold v4
    exact Within.ite (fun _ => h) (fun _ => checkParity_within (hm.of ⟨rfl⟩) h)
  clear_value v4
  refine Within.mid (ps := ps) (a := s0) v5 ?_ (fun h11 => ?_)
  · unfold v5
    simp only [v2]
    exact changeBundle_within (hm.of ⟨rfl⟩) h10
  clear_value v5
  refine Within.mid (ps := ps) (a := s0) v7 ?_ (fun h12 => ?_)
  · unfold v7
    exact Within.ite (fun _ => ackGroups_within (hm.of ⟨rfl⟩) h11) (fun _ => h11)
  clear_value v7
  refine Within.mid (ps := ps) (a := s0) v8 ?_ (fun h13 => ?_)
  · unfold v8
    exact changeBundle_within (hm.of ⟨rfl⟩) h12
  clear_value v8
  refine Within.ite (fun _ => ?_) (fun _ => ?_)
  · exact h
  · refine Within.ite (fun _ => ?_) (fun _ => ?_)
    · simp only [v2]
      exact changeBundle_within (hm.of ⟨rfl⟩) h
    · exact Within.ite (fun _ => h12) (fun _ => Within.ite (fun _ => Within.put h13) (fun _ => h13))

theorem execGroupReceived_within {ps : List Area} {s0 : State} {tower : BundleSide} {bundle : Fin 36}
    {group : Bytes} {s : State} (hm : Sub [.free, .events, .ver] ps) (h : Within ps s0 s) :
    OutWithin ps s0 (execGroupReceived tower bundle group s) := by
  unfold execGroupReceived
  exact OutWithin.next (groupReceived_within (hm.of ⟨rfl⟩) h)

theorem groupReplay_within {ps : List Area} {s0 : State} {t : Nat} {n : Nat} {s : State}
    (hm : Sub [.now, .counters, .ver] ps) (h : Within ps s0 s) :
    Within ps s0 (groupReplay t n s) := by
  unfold groupReplay
  extract_lets v1
  split
  · exact h
  · refine Within.ite (fun _ => ?_) (fun _ => ?_)
    · exact h
    · extract_lets v8
      refine Within.mid (ps := ps) (a := s0) v8 ?_ (fun h9 => ?_)
      · unfold v8
        exact advanceTo_within (hm.of ⟨rfl⟩) h
      clear_value v8
      exact count64_within (hm.of ⟨rfl⟩) (changeBundle_within (hm.of ⟨rfl⟩) h9)

theorem execGroupReplayTimer_within {ps : List Area} {s0 : State} {tower : BundleSide} {bundle : Fin 36}
    {s : State} (hm : Sub [.now, .counters, .ver] ps) (h : Within ps s0 s) :
    OutWithin ps s0 (execGroupReplayTimer tower bundle s) := by
  unfold execGroupReplayTimer
  exact OutWithin.next (groupReplay_within (hm.of ⟨rfl⟩) h)

theorem sendDiscovery_within {ps : List Area} {s0 : State} {kind : Nat} {r : Nat} {seq : Nat}
    {identity : BitVec 64} {s : State} (hm : Sub [.ver] ps) (h : Within ps s0 s) :
    Within ps s0 (sendDiscovery kind r seq identity s) := by
  unfold sendDiscovery
  exact Within.put h

theorem probe_within {ps : List Area} {s0 : State} {m : BitVec 128} {identity : BitVec 64} {s : State}
    (hm : Sub [.ver] ps) (h : Within ps s0 s) :
    Within ps s0 (probe m identity s) := by
  unfold probe
  split
  · exact h
  · exact Within.ite (fun _ => sendDiscovery_within (hm.of ⟨rfl⟩) h) (fun _ => h)

theorem execProbe_within {ps : List Area} {s0 : State} {message : BitVec 128} {identity : BitVec 64} {s : State}
    (hm : Sub [.ver] ps) (h : Within ps s0 s) :
    OutWithin ps s0 (execProbe message identity s) := by
  unfold execProbe
  exact OutWithin.next (probe_within (hm.of ⟨rfl⟩) h)

theorem changeDiscovery_within {ps : List Area} {s0 : State} {r : Nat} {f : Discovery → Discovery} {s : State}
    (hm : Sub [.ver] ps) (h : Within ps s0 s) :
    Within ps s0 (changeDiscovery r f s) := by
  unfold changeDiscovery
  exact Within.put h

theorem sendProbe_within {ps : List Area} {s0 : State} {r : Nat} {s : State} (hm : Sub [.ver] ps)
    (h : Within ps s0 s) :
    Within ps s0 (sendProbe r s) := by
  unfold sendProbe
  extract_lets v1 v2 v3
  refine Within.mid (ps := ps) (a := s0) v3 ?_ (fun h4 => ?_)
  · unfold v3
    exact Within.put h
  clear_value v3
  exact changeDiscovery_within (hm.of ⟨rfl⟩) (sendDiscovery_within (hm.of ⟨rfl⟩) h4)

theorem nextBase_within {ps : List Area} {s0 : State} {b : Nat} {s : State} (hm : Sub [.ver] ps)
    (h : Within ps s0 s) :
    Within ps s0 (nextBase b s) := by
  unfold nextBase
  exact Within.ite (fun _ => sendProbe_within (hm.of ⟨rfl⟩) h) (fun _ => h)

theorem discoveryFails_within {ps : List Area} {s0 : State} {r : Nat} {s : State}
    (hm : Sub [.free, .counters, .events, .om, .start, .spad, .parts, .dma, .dram, .clk, .host, .pho, .sums, .lanes, .ver, .fab, .pow, .twin] ps)
    (h : Within ps s0 s) :
    Within ps s0 (discoveryFails r s) := by
  unfold discoveryFails
  split
  · extract_lets v6 v7 v8
    refine Within.mid (ps := ps) (a := s0) v6 ?_ (fun h9 => ?_)
    · unfold v6
      exact changeDiscovery_within (hm.of ⟨rfl⟩) h
    clear_value v6
    refine Within.mid (ps := ps) (a := s0) v7 ?_ (fun h10 => ?_)
    · unfold v7
      exact raise_within (hm.of ⟨rfl⟩) h9
    clear_value v7
    refine Within.mid (ps := ps) (a := s0) v8 ?_ (fun h11 => ?_)
    · unfold v8
      exact keepOut_within (hm.of ⟨rfl⟩) h10
    clear_value v8
    exact Within.ite (fun _ => nextBase_within (hm.of ⟨rfl⟩) h11) (fun _ => h11)

theorem reply_within {ps : List Area} {s0 : State} {m : BitVec 128} {s : State}
    (hm : Sub [.free, .counters, .events, .om, .start, .spad, .parts, .dma, .dram, .clk, .host, .pho, .sums, .lanes, .ver, .fab, .pow, .twin] ps)
    (h : Within ps s0 s) :
    Within ps s0 (reply m s) := by
  unfold reply
  split
  · exact h
  · extract_lets v6
    refine Within.ite (fun _ => ?_) (fun _ => ?_)
    · exact h
    · refine Within.ite (fun _ => ?_) (fun _ => ?_)
      · exact sendDiscovery_within (hm.of ⟨rfl⟩) (changeDiscovery_within (hm.of ⟨rfl⟩) h)
      · exact discoveryFails_within (hm.of ⟨rfl⟩) h

theorem execReply_within {ps : List Area} {s0 : State} {message : BitVec 128} {s : State}
    (hm : Sub [.free, .counters, .events, .om, .start, .spad, .parts, .dma, .dram, .clk, .host, .pho, .sums, .lanes, .ver, .fab, .pow, .twin] ps)
    (h : Within ps s0 s) :
    OutWithin ps s0 (execReply message s) := by
  unfold execReply
  exact OutWithin.next (reply_within (hm.of ⟨rfl⟩) h)

theorem assign_within {ps : List Area} {s0 : State} {m : BitVec 128} {s : State} (hm : Sub [.ver] ps)
    (h : Within ps s0 s) :
    Within ps s0 (assign m s) := by
  unfold assign
  split
  · exact h
  · exact Within.ite (fun _ => sendDiscovery_within (hm.of ⟨rfl⟩) (Within.put h)) (fun _ => h)

theorem execAssign_within {ps : List Area} {s0 : State} {message : BitVec 128} {s : State} (hm : Sub [.ver] ps)
    (h : Within ps s0 s) :
    OutWithin ps s0 (execAssign message s) := by
  unfold execAssign
  exact OutWithin.next (assign_within (hm.of ⟨rfl⟩) h)

theorem assigned_within {ps : List Area} {s0 : State} {m : BitVec 128} {s : State} (hm : Sub [.ver] ps)
    (h : Within ps s0 s) :
    Within ps s0 (assigned m s) := by
  unfold assigned
  split
  · exact h
  · extract_lets v6 v7 v8
    refine Within.mid (ps := ps) (a := s0) v8 ?_ (fun h9 => ?_)
    · unfold v8
      exact changeDiscovery_within (hm.of ⟨rfl⟩) (Within.put h)
    clear_value v8
    refine Within.ite (fun _ => ?_) (fun _ => ?_)
    · exact h
    · refine Within.ite (fun _ => ?_) (fun _ => ?_)
      · exact nextBase_within (hm.of ⟨rfl⟩) (Within.fold h9 (fun _ _ h12 => sendProbe_within (hm.of ⟨rfl⟩) h12))
      · exact h9

theorem execAssigned_within {ps : List Area} {s0 : State} {message : BitVec 128} {s : State}
    (hm : Sub [.ver] ps) (h : Within ps s0 s) :
    OutWithin ps s0 (execAssigned message s) := by
  unfold execAssigned
  exact OutWithin.next (assigned_within (hm.of ⟨rfl⟩) h)

theorem discoveryTimeout_within {ps : List Area} {s0 : State} {r : Nat} {s : State}
    (hm : Sub [.now, .free, .counters, .events, .om, .start, .spad, .parts, .dma, .dram, .clk, .host, .pho, .sums, .lanes, .ver, .fab, .pow, .twin] ps)
    (h : Within ps s0 s) :
    Within ps s0 (discoveryTimeout r s) := by
  unfold discoveryTimeout
  extract_lets v1 v2
  refine Within.mid (ps := ps) (a := s0) v2 ?_ (fun h3 => ?_)
  · unfold v2
    exact advanceTo_within (hm.of ⟨rfl⟩) h
  clear_value v2
  refine Within.ite (fun _ => ?_) (fun _ => ?_)
  · exact h
  · refine Within.ite (fun _ => ?_) (fun _ => ?_)
    · exact discoveryFails_within (hm.of ⟨rfl⟩) h3
    · exact sendProbe_within (hm.of ⟨rfl⟩) h3

theorem execDiscoveryTimeout_within {ps : List Area} {s0 : State} {record : Fin 128} {s : State}
    (hm : Sub [.now, .free, .counters, .events, .om, .start, .spad, .parts, .dma, .dram, .clk, .host, .pho, .sums, .lanes, .ver, .fab, .pow, .twin] ps)
    (h : Within ps s0 s) :
    OutWithin ps s0 (execDiscoveryTimeout record s) := by
  unfold execDiscoveryTimeout
  exact OutWithin.next (discoveryTimeout_within (hm.of ⟨rfl⟩) h)

theorem changeBase_within {ps : List Area} {s0 : State} {b : Nat} {f : BaseDieState → BaseDieState} {s : State}
    (hm : Sub [.ver] ps) (h : Within ps s0 s) :
    Within ps s0 (changeBase b f s) := by
  unfold changeBase
  exact Within.put h

theorem baseResetAct_within {ps : List Area} {s0 : State} {a0 : Bytes} {a1 : State} (hm : Sub [.ver] ps)
    (h : Within ps s0 a1) :
    WWithin ps s0 (baseResetAct a0 a1) := by
  unfold baseResetAct
  extract_lets v1
  split
  · exact .refuse
  · split
    · exact .refuse
    · split
      · exact WWithin.done h
      · exact WWithin.done (changeBase_within (hm.of ⟨rfl⟩) h)

theorem execBaseResetCommand_within {ps : List Area} {s0 : State} {req : Req} {value : Bytes} {s : State}
    (hm : Sub [.events, .om, .ver] ps) (h : Within ps s0 s) :
    OutWithin ps s0 (execBaseResetCommand req value s) := by
  unfold execBaseResetCommand
  refine OutWithin.next ?_
  refine serveWrite_within (hm.of ⟨rfl⟩) ?_ ?_
  · intro x1 s2 h3
    exact baseResetAct_within (hm.of ⟨rfl⟩) h3
  · exact h

theorem resetLayer_within {ps : List Area} {s0 : State} {b : Nat} {s : State}
    (hm : Sub [.free, .counters, .events, .frame, .spad, .parts, .dram, .clk, .pho, .sums, .lanes, .ver, .pow] ps)
    (h : Within ps s0 s) :
    Within ps s0 (resetLayer b s) := by
  unfold resetLayer
  extract_lets v1 v2 v3 v4 v5 v6
  refine Within.mid (ps := ps) (a := s0) v2 ?_ (fun h7 => ?_)
  · unfold v2
    exact losePackets_within (hm.of ⟨rfl⟩) (resetArbitration_within (hm.of ⟨rfl⟩) h)
  clear_value v2
  refine Within.mid (ps := ps) (a := s0) v6 ?_ (fun h8 => ?_)
  · unfold v6
    exact Within.put h7
  clear_value v6
  refine Within.fold ?_ (fun s9 x10 h11 => ?_)
  · exact h8
  · extract_lets v12
    refine Within.mid (ps := ps) (a := s0) v12 ?_ (fun h13 => ?_)
    · unfold v12
      exact changeReceiver_within (hm.of ⟨rfl⟩) h11
    clear_value v12
    exact Within.ite (fun _ => startScrub_within (hm.of ⟨rfl⟩) h13) (fun _ => h13)

theorem resetFlight_within {ps : List Area} {s0 : State} {b : Nat} {x : Flight} {s : State}
    (hm : Sub [.free, .counters, .events, .om, .spad, .dma, .dram, .host, .pho, .lanes, .ver, .fab, .twin] ps)
    (h : Within ps s0 s) :
    Within ps s0 (resetFlight b x s) := by
  unfold resetFlight
  split
  · split
    · exact h
    · refine Within.ite (fun _ => ?_) (fun _ => ?_)
      · exact endWithout_within (hm.of ⟨rfl⟩) h
      · exact changeRequest_within (hm.of ⟨rfl⟩) h
  · refine Within.ite (fun _ => ?_) (fun _ => ?_)
    · exact waitFor_within (hm.of ⟨rfl⟩) (forgetFlight_within (hm.of ⟨rfl⟩) h)
    · exact endFlight_within (hm.of ⟨rfl⟩) h

theorem resetPorts_within {ps : List Area} {s0 : State} {b : Nat} {s : State}
    (hm : Sub [.free, .counters, .events, .pho, .lanes, .ver, .fab] ps) (h : Within ps s0 s) :
    Within ps s0 (resetPorts b s) := by
  unfold resetPorts
  extract_lets v1 v2 v3
  refine Within.mid (ps := ps) (a := s0) v3 ?_ (fun h4 => ?_)
  · unfold v3
    exact Within.put h
  clear_value v3
  exact Within.fold h4 (fun _ _ h7 => Within.ite (fun _ => h7) (fun _ => linkDown_within (hm.of ⟨rfl⟩) h7))

theorem resetIncoming_within {ps : List Area} {s0 : State} {ts : List Nat} {s : State}
    (hm : Sub [.free, .counters, .events, .dma, .lanes, .ver, .fab] ps) (h : Within ps s0 s) :
    Within ps s0 (resetIncoming ts s) := by
  unfold resetIncoming
  extract_lets v1 v2 v3 v4
  refine Within.mid (ps := ps) (a := s0) v4 ?_ (fun h5 => ?_)
  · unfold v4
    exact Within.put h
  clear_value v4
  refine Within.fold ?_ (fun s6 x7 h8 => ?_)
  · exact h5
  · split
    · exact respond_within (hm.of ⟨rfl⟩) h8

theorem assertReset_within {ps : List Area} {s0 : State} {b : Nat} {cause : Nat} {s : State}
    (hm : Sub [.free, .counters, .events, .om, .frame, .spad, .parts, .dma, .dram, .clk, .host, .pho, .sums, .lanes, .las, .ver, .fab, .pow, .sec, .twin] ps)
    (h : Within ps s0 s) :
    Within ps s0 (assertReset b cause s) := by
  unfold assertReset
  extract_lets v1 v2 v3 v4 v5 v6 v7 v8
  refine Within.mid (ps := ps) (a := s0) v3 ?_ (fun h9 => ?_)
  · unfold v3
    exact changeBase_within (hm.of ⟨rfl⟩) h
  clear_value v3
  refine Within.mid (ps := ps) (a := s0) v4 ?_ (fun h10 => ?_)
  · unfold v4
    exact raise_within (hm.of ⟨rfl⟩) h9
  clear_value v4
  refine Within.mid (ps := ps) (a := s0) v5 ?_ (fun h11 => ?_)
  · unfold v5
    exact resetLayer_within (hm.of ⟨rfl⟩) (lasersReset_within (hm.of ⟨rfl⟩) h10)
  clear_value v5
  refine Within.mid (ps := ps) (a := s0) v6 ?_ (fun h12 => ?_)
  · unfold v6
    exact Within.fold h11 (fun _ _ h15 => resetFlight_within (hm.of ⟨rfl⟩) h15)
  clear_value v6
  refine Within.mid (ps := ps) (a := s0) v7 ?_ (fun h16 => ?_)
  · unfold v7
    exact resetPorts_within (hm.of ⟨rfl⟩) (resetIncoming_within (hm.of ⟨rfl⟩) h12)
  clear_value v7
  refine Within.mid (ps := ps) (a := s0) v8 ?_ (fun h17 => ?_)
  · unfold v8
    refine Within.fold ?_ (fun s18 x19 h20 => ?_)
    · exact h16
    · exact partitionTdiFail_within (hm.of ⟨rfl⟩) (releaseRun_within (hm.of ⟨rfl⟩) h20)
  clear_value v8
  exact pumpAll_within (hm.of ⟨rfl⟩) h17

theorem drainDone_within {ps : List Area} {s0 : State} {b : Nat} {s : State}
    (hm : Sub [.free, .counters, .events, .om, .frame, .spad, .parts, .dma, .dram, .clk, .host, .pho, .sums, .lanes, .las, .ver, .fab, .pow, .sec, .twin] ps)
    (h : Within ps s0 s) :
    Within ps s0 (drainDone b s) := by
  unfold drainDone
  exact Within.ite (fun _ => h) (fun _ => assertReset_within (hm.of ⟨rfl⟩) h)

theorem execDrainDone_within {ps : List Area} {s0 : State} {base : Fin 4} {s : State}
    (hm : Sub [.free, .counters, .events, .om, .frame, .spad, .parts, .dma, .dram, .clk, .host, .pho, .sums, .lanes, .las, .ver, .fab, .pow, .sec, .twin] ps)
    (h : Within ps s0 s) :
    OutWithin ps s0 (execDrainDone base s) := by
  unfold execDrainDone
  exact OutWithin.next (drainDone_within (hm.of ⟨rfl⟩) h)

theorem drainTimeout_within {ps : List Area} {s0 : State} {b : Nat} {s : State}
    (hm : Sub [.now, .free, .counters, .events, .om, .frame, .spad, .parts, .dma, .dram, .clk, .host, .pho, .sums, .lanes, .las, .ver, .fab, .pow, .sec, .twin] ps)
    (h : Within ps s0 s) :
    Within ps s0 (drainTimeout b s) := by
  unfold drainTimeout
  split
  · exact h
  · extract_lets v6
    refine Within.mid (ps := ps) (a := s0) v6 ?_ (fun h7 => ?_)
    · unfold v6
      exact advanceTo_within (hm.of ⟨rfl⟩) h
    clear_value v6
    exact raise_within (hm.of ⟨rfl⟩) (assertReset_within (hm.of ⟨rfl⟩) h7)

theorem execDrainTimeout_within {ps : List Area} {s0 : State} {base : Fin 4} {s : State}
    (hm : Sub [.now, .free, .counters, .events, .om, .frame, .spad, .parts, .dma, .dram, .clk, .host, .pho, .sums, .lanes, .las, .ver, .fab, .pow, .sec, .twin] ps)
    (h : Within ps s0 s) :
    OutWithin ps s0 (execDrainTimeout base s) := by
  unfold execDrainTimeout
  exact OutWithin.next (drainTimeout_within (hm.of ⟨rfl⟩) h)

theorem endWaiting_within {ps : List Area} {s0 : State} {b : Nat} {code : Nat} {p : Flight → Bool} {s : State}
    (hm : Sub [.free, .counters, .events, .om, .spad, .dma, .dram, .host, .pho, .lanes, .ver, .fab, .twin] ps)
    (h : Within ps s0 s) :
    Within ps s0 (endWaiting b code p s) := by
  unfold endWaiting
  exact pumpAll_within (hm.of ⟨rfl⟩) (Within.fold h (fun _ _ h3 => endFlight_within (hm.of ⟨rfl⟩) h3))

theorem holdBase_within {ps : List Area} {s0 : State} {b : Nat} {s : State}
    (hm : Sub [.free, .counters, .events, .om, .start, .spad, .parts, .dma, .dram, .clk, .host, .pho, .sums, .lanes, .ver, .fab, .pow, .twin] ps)
    (h : Within ps s0 s) :
    Within ps s0 (holdBase b s) := by
  unfold holdBase
  extract_lets v1 v2
  refine Within.mid (ps := ps) (a := s0) v1 ?_ (fun h3 => ?_)
  · unfold v1
    exact changeBase_within (hm.of ⟨rfl⟩) h
  clear_value v1
  refine Within.mid (ps := ps) (a := s0) v2 ?_ (fun h4 => ?_)
  · unfold v2
    exact keepOut_within (hm.of ⟨rfl⟩) (raise_within (hm.of ⟨rfl⟩) h3)
  clear_value v2
  exact endWaiting_within (hm.of ⟨rfl⟩) h4

theorem uncommandedReset_within {ps : List Area} {s0 : State} {b : Nat} {cause : Nat} {s : State}
    (hm : Sub [.free, .counters, .events, .om, .frame, .start, .spad, .parts, .dma, .dram, .clk, .host, .pho, .sums, .lanes, .las, .ver, .fab, .pow, .sec, .twin] ps)
    (h : Within ps s0 s) :
    Within ps s0 (uncommandedReset b cause s) := by
  unfold uncommandedReset
  refine Within.ite (fun _ => ?_) (fun _ => ?_)
  · exact h
  · extract_lets v1
    refine Within.mid (ps := ps) (a := s0) v1 ?_ (fun h2 => ?_)
    · unfold v1
      exact assertReset_within (hm.of ⟨rfl⟩) h
    clear_value v1
    exact Within.ite (fun _ => holdBase_within (hm.of ⟨rfl⟩) h2) (fun _ => h2)

theorem execUncommandedBaseReset_within {ps : List Area} {s0 : State} {base : Fin 4} {cause : Fin 3} {s : State}
    (hm : Sub [.free, .counters, .events, .om, .frame, .start, .spad, .parts, .dma, .dram, .clk, .host, .pho, .sums, .lanes, .las, .ver, .fab, .pow, .sec, .twin] ps)
    (h : Within ps s0 s) :
    OutWithin ps s0 (execUncommandedBaseReset base cause s) := by
  unfold execUncommandedBaseReset
  exact OutWithin.next (uncommandedReset_within (hm.of ⟨rfl⟩) h)

theorem retrainPaths_within {ps : List Area} {s0 : State} {ts : List Nat} {s : State}
    (hm : Sub [.free, .counters, .events, .pho, .lanes, .las, .ver, .fab] ps) (h : Within ps s0 s) :
    Within ps s0 (retrainPaths ts s) := by
  unfold retrainPaths
  extract_lets v1
  refine trainPaths_within (hm.of ⟨rfl⟩) ?_
  exact Within.fold h (fun _ _ h4 => raise_within (hm.of ⟨rfl⟩) (count32_within (hm.of ⟨rfl⟩) h4))

theorem baseReturn_within {ps : List Area} {s0 : State} {b : Nat} {s : State}
    (hm : Sub [.free, .counters, .events, .om, .start, .spad, .parts, .dma, .dram, .clk, .host, .pho, .sums, .lanes, .las, .ver, .fab, .pow, .twin] ps)
    (h : Within ps s0 s) :
    Within ps s0 (baseReturn b s) := by
  unfold baseReturn
  extract_lets v1 v2 v3 v4 v5 v6 v7 v8 v9 v10 v11
  refine Within.mid (ps := ps) (a := s0) v5 ?_ (fun h12 => ?_)
  · unfold v5
    exact keepOut_within (hm.of ⟨rfl⟩) h
  clear_value v5
  refine Within.mid (ps := ps) (a := s0) v6 ?_ (fun h13 => ?_)
  · unfold v6
    exact changeBase_within (hm.of ⟨rfl⟩) h12
  clear_value v6
  refine Within.mid (ps := ps) (a := s0) v9 ?_ (fun h14 => ?_)
  · unfold v9
    exact Within.put h13
  clear_value v9
  refine Within.mid (ps := ps) (a := s0) v10 ?_ (fun h15 => ?_)
  · unfold v10
    refine Within.fold ?_ (fun s16 x17 h18 => ?_)
    · exact retrainPaths_within (hm.of ⟨rfl⟩) h14
    · exact resumeScrub_within (hm.of ⟨rfl⟩) h18
  clear_value v10
  refine Within.mid (ps := ps) (a := s0) v11 ?_ (fun h19 => ?_)
  · unfold v11
    exact raise_within (hm.of ⟨rfl⟩) (lasersReturn_within (hm.of ⟨rfl⟩) h15)
  clear_value v11
  exact Within.ite (fun _ => h) (fun _ => wake_within (hm.of ⟨rfl⟩) h19)

theorem execBaseReturn_within {ps : List Area} {s0 : State} {base : Fin 4} {s : State}
    (hm : Sub [.free, .counters, .events, .om, .start, .spad, .parts, .dma, .dram, .clk, .host, .pho, .sums, .lanes, .las, .ver, .fab, .pow, .twin] ps)
    (h : Within ps s0 s) :
    OutWithin ps s0 (execBaseReturn base s) := by
  unfold execBaseReturn
  exact OutWithin.next (baseReturn_within (hm.of ⟨rfl⟩) h)

theorem readRetryLimit_within {ps : List Area} {s0 : State} {b : Nat} {s : State}
    (hm : Sub [.now, .free, .counters, .events, .om, .spad, .dma, .dram, .host, .pho, .lanes, .ver, .fab, .twin] ps)
    (h : Within ps s0 s) :
    Within ps s0 (readRetryLimit b s) := by
  unfold readRetryLimit
  split
  · exact h
  · extract_lets v6
    refine Within.mid (ps := ps) (a := s0) v6 ?_ (fun h7 => ?_)
    · unfold v6
      exact advanceTo_within (hm.of ⟨rfl⟩) h
    clear_value v6
    exact endWaiting_within (hm.of ⟨rfl⟩) h7

theorem execReadRetryLimit_within {ps : List Area} {s0 : State} {base : Fin 4} {s : State}
    (hm : Sub [.now, .free, .counters, .events, .om, .spad, .dma, .dram, .host, .pho, .lanes, .ver, .fab, .twin] ps)
    (h : Within ps s0 s) :
    OutWithin ps s0 (execReadRetryLimit base s) := by
  unfold execReadRetryLimit
  exact OutWithin.next (readRetryLimit_within (hm.of ⟨rfl⟩) h)

theorem beginDiscovery_within {ps : List Area} {s0 : State} {bs : List Nat} {s : State} (hm : Sub [.ver] ps)
    (h : Within ps s0 s) :
    Within ps s0 (beginDiscovery bs s) := by
  unfold beginDiscovery
  extract_lets v1 v2 v3
  refine Within.mid (ps := ps) (a := s0) v3 ?_ (fun h4 => ?_)
  · unfold v3
    exact Within.put h
  clear_value v3
  split
  · exact h4
  · exact sendProbe_within (hm.of ⟨rfl⟩) h4

theorem holdTower_within {ps : List Area} {s0 : State} {t : Nat} {s : State} (hm : Sub [.events] ps)
    (h : Within ps s0 s) :
    Within ps s0 (holdTower t s) := by
  unfold holdTower
  exact Within.fold h (fun _ _ h3 => raiseIf_within (hm.of ⟨rfl⟩) h3)

theorem startBundle_within {ps : List Area} {s0 : State} {t : Nat} {n : Nat} {errors : List Nat} {s : State}
    (hm : Sub [.free, .counters, .events, .om, .start, .spad, .parts, .dma, .dram, .clk, .host, .pho, .sums, .lanes, .ver, .fab, .pow, .twin] ps)
    (h : Within ps s0 s) :
    Within ps s0 (startBundle t n errors s) := by
  unfold startBundle
  extract_lets v1 v2 v3 v4 v5 v6
  refine Within.mid (ps := ps) (a := s0) v3 ?_ (fun h7 => ?_)
  · unfold v3
    exact changeBundle_within (hm.of ⟨rfl⟩) h
  clear_value v3
  refine Within.mid (ps := ps) (a := s0) v4 ?_ (fun h8 => ?_)
  · unfold v4
    exact raiseIf_within (hm.of ⟨rfl⟩) h7
  clear_value v4
  refine Within.mid (ps := ps) (a := s0) v5 ?_ (fun h9 => ?_)
  · unfold v5
    exact raiseIf_within (hm.of ⟨rfl⟩) h8
  clear_value v5
  refine Within.mid (ps := ps) (a := s0) v6 ?_ (fun h10 => ?_)
  · unfold v6
    exact raise_within (hm.of ⟨rfl⟩) h9
  clear_value v6
  refine Within.ite (fun _ => ?_) (fun _ => ?_)
  · exact bundleDown_within (hm.of ⟨rfl⟩) (Within.ite (fun _ => holdTower_within (hm.of ⟨rfl⟩) h10) (fun _ => h10))
  · exact h9

theorem baseOutOfReset_within {ps : List Area} {s0 : State} {b : Nat} {s : State} (hm : Sub [.now, .ver] ps)
    (h : Within ps s0 s) :
    Within ps s0 (baseOutOfReset b s) := by
  unfold baseOutOfReset
  split
  · exact h
  · refine Within.ite (fun _ => ?_) (fun _ => ?_)
    · exact h
    · exact beginDiscovery_within (hm.of ⟨rfl⟩) (changeBase_within (hm.of ⟨rfl⟩) (advanceTo_within (hm.of ⟨rfl⟩) h))

theorem execBaseDieOutOfReset_within {ps : List Area} {s0 : State} {base : Fin 4} {s : State}
    (hm : Sub [.now, .ver] ps) (h : Within ps s0 s) :
    OutWithin ps s0 (execBaseDieOutOfReset base s) := by
  unfold execBaseDieOutOfReset
  exact OutWithin.next (baseOutOfReset_within (hm.of ⟨rfl⟩) h)

theorem noTransition_within {ps : List Area} {s0 : State} {t : Nat} {n : Nat} {l : Nat} {s : State}
    (hm : Sub [.events, .ver] ps) (h : Within ps s0 s) :
    Within ps s0 (noTransition t n l s) := by
  unfold noTransition
  exact Within.ite (fun _ => bundleLaneFails_within (hm.of ⟨rfl⟩) h) (fun _ => h)

theorem execLaneNoTransition_within {ps : List Area} {s0 : State} {tower : BundleSide} {bundle : Fin 36}
    {lane : Fin 68} {s : State} (hm : Sub [.events, .ver] ps) (h : Within ps s0 s) :
    OutWithin ps s0 (execLaneNoTransition tower bundle lane s) := by
  unfold execLaneNoTransition
  exact OutWithin.next (noTransition_within (hm.of ⟨rfl⟩) h)

theorem prbsInterval_within {ps : List Area} {s0 : State} {t : Nat} {n : Nat} {l : Nat} {errored : Bool}
    {s : State} (hm : Sub [.events, .ver] ps) (h : Within ps s0 s) :
    Within ps s0 (prbsInterval t n l errored s) := by
  unfold prbsInterval
  extract_lets v1 v2 v3 v4
  refine Within.mid (ps := ps) (a := s0) v4 ?_ (fun h5 => ?_)
  · unfold v4
    exact changeBundle_within (hm.of ⟨rfl⟩) h
  clear_value v4
  refine Within.ite (fun _ => ?_) (fun _ => ?_)
  · exact h
  · exact Within.ite (fun _ => bundleLaneFails_within (hm.of ⟨rfl⟩) h5) (fun _ => h5)

theorem execSparePoolPrbsInterval_within {ps : List Area} {s0 : State} {tower : BundleSide} {bundle : Fin 36}
    {lane : Fin 68} {errored : Bool} {s : State} (hm : Sub [.events, .ver] ps) (h : Within ps s0 s) :
    OutWithin ps s0 (execSparePoolPrbsInterval tower bundle lane errored s) := by
  unfold execSparePoolPrbsInterval
  exact OutWithin.next (prbsInterval_within (hm.of ⟨rfl⟩) h)

end Sys2Proof.Machine
end

