-- ==== Sys2Proof/Laws/WithinClock.lean ====
section
/-! SUPPORT. Which parts of the state the operations of Machine/Clock.lean can write: one lemma for each. -/

set_option Elab.async false

namespace Sys2Proof.Machine

theorem joinClock_within {ps : List Area} {s0 : State} {t : Nat} {s : State} (hm : Sub [.clk] ps)
    (h : Within ps s0 s) :
    Within ps s0 (joinClock t s) := by
  unfold joinClock
  exact Within.put h

theorem switchDie_within {ps : List Area} {s0 : State} {old : Nat} {new : Nat} {t : Nat} {s : State}
    (hm : Sub [.events, .clk] ps) (h : Within ps s0 s) :
    Within ps s0 (switchDie old new t s) := by
  unfold switchDie
  refine Within.ite (fun _ => ?_) (fun _ => ?_)
  · exact joinClock_within (hm.of ⟨rfl⟩) h
  · extract_lets v1 v2 v3 v4 v5
    refine Within.mid (ps := ps) (a := s0) v4 ?_ (fun h6 => ?_)
    · unfold v4
      exact Within.ite (fun _ => h) (fun _ => raise_within (hm.of ⟨rfl⟩) h)
    clear_value v4
    exact Within.ite (fun _ => Within.put h) (fun _ => Within.ite (fun _ => h6) (fun _ => Within.put h6))

theorem realignDie_within {ps : List Area} {s0 : State} {t : Nat} {s : State}
    (hm : Sub [.events, .parts, .clk, .pow] ps) (h : Within ps s0 s) :
    Within ps s0 (realignDie t s) := by
  unfold realignDie
  exact Within.fold h (fun _ _ h3 => addDebt_within (hm.of ⟨rfl⟩) h3)

theorem decideStep_within {ps : List Area} {s0 : State} {s : State} (hm : Sub [.clk] ps) (h : Within ps s0 s) :
    Within ps s0 (decideStep s) := by
  unfold decideStep
  extract_lets v1 v2 v3 v4
  exact Within.ite (fun _ => h) (fun _ => Within.put h)

theorem clockBoundary_within {ps : List Area} {s0 : State} {s : State}
    (hm : Sub [.events, .spad, .parts, .clk, .pow] ps) (h : Within ps s0 s) :
    Within ps s0 (clockBoundary s) := by
  unfold clockBoundary
  extract_lets v1 v2 v3 v4 v5 v6 v7 v8 v9
  refine Within.mid (ps := ps) (a := s0) v2 ?_ (fun h10 => ?_)
  · unfold v2
    split
    · extract_lets v14 v15
      refine Within.mid (ps := ps) (a := s0) v14 ?_ (fun h16 => ?_)
      · unfold v14
        exact Within.fold h (fun _ _ h19 => switchDie_within (hm.of ⟨rfl⟩) h19)
      clear_value v14
      exact raise_within (hm.of ⟨rfl⟩) (Within.put h16)
    · exact Within.fold h (fun _ _ h24 => joinClock_within (hm.of ⟨rfl⟩) h24)
  clear_value v2
  refine Within.mid (ps := ps) (a := s0) v6 ?_ (fun h25 => ?_)
  · unfold v6
    exact Within.put h10
  clear_value v6
  refine Within.mid (ps := ps) (a := s0) v7 ?_ (fun h26 => ?_)
  · unfold v7
    exact Within.fold h25 (fun _ _ h29 => realignDie_within (hm.of ⟨rfl⟩) h29)
  clear_value v7
  refine Within.mid (ps := ps) (a := s0) v8 ?_ (fun h30 => ?_)
  · unfold v8
    exact decideStep_within (hm.of ⟨rfl⟩) h26
  clear_value v8
  split
  · exact raise_within (hm.of ⟨rfl⟩) (Within.put h30)
  · exact h30

theorem droopStretch_within {ps : List Area} {s0 : State} {t : Nat} {r : Nat} {droop : Nat} {senders : List Nat}
    {receivers : List Nat} {s : State} (hm : Sub [.counters, .events, .parts, .clk, .pow] ps)
    (h : Within ps s0 s) :
    Within ps s0 (droopStretch t r droop senders receivers s) := by
  unfold droopStretch
  refine Within.ite (fun _ => ?_) (fun _ => ?_)
  · exact h
  · extract_lets v1 v2
    refine Within.mid (ps := ps) (a := s0) v1 ?_ (fun h3 => ?_)
    · unfold v1
      exact addDebt_within (hm.of ⟨rfl⟩) (count64_within (hm.of ⟨rfl⟩) h)
    clear_value v1
    refine Within.mid (ps := ps) (a := s0) v2 ?_ (fun h4 => ?_)
    · unfold v2
      exact Within.fold h3 (fun _ _ h7 => holdSender_within (hm.of ⟨rfl⟩) h7)
    clear_value v2
    refine Within.ite (fun _ => ?_) (fun _ => ?_)
    · exact h3
    · exact Within.fold h4 (fun _ _ h10 => holdReceiver_within (hm.of ⟨rfl⟩) h10)

theorem execDroopStretch_within {ps : List Area} {s0 : State} {tower : Tower} {region : Region}
    {droop : BitVec 8} {senders : List Cluster} {receivers : List Cluster} {s : State}
    (hm : Sub [.counters, .events, .parts, .clk, .pow] ps) (h : Within ps s0 s) :
    OutWithin ps s0 (execDroopStretch tower region droop senders receivers s) := by
  unfold execDroopStretch
  exact OutWithin.next (droopStretch_within (hm.of ⟨rfl⟩) h)

theorem crossingFault_within {ps : List Area} {s0 : State} {t : Nat} {k : Nat} {port : Nat} {cycle : Nat}
    {lines : Nat} {s : State} (hm : Sub [.events, .spad, .clk] ps) (h : Within ps s0 s) :
    Within ps s0 (crossingFault t k port cycle lines s) := by
  unfold crossingFault
  exact raise_within (hm.of ⟨rfl⟩) (Within.put h)

theorem execCrossingFault_within {ps : List Area} {s0 : State} {tower : Tower} {cluster : Cluster} {port : Nat}
    {cycle : Nat} {lines : Nat} {s : State} (hm : Sub [.events, .spad, .clk] ps) (h : Within ps s0 s) :
    OutWithin ps s0 (execCrossingFault tower cluster port cycle lines s) := by
  unfold execCrossingFault
  exact OutWithin.next (crossingFault_within (hm.of ⟨rfl⟩) h)

theorem changeReference_within {ps : List Area} {s0 : State} {t : Nat} {f : Reference → Reference} {s : State}
    (hm : Sub [.clk] ps) (h : Within ps s0 s) :
    Within ps s0 (changeReference t f s) := by
  unfold changeReference
  exact Within.put h

theorem loseReference_within {ps : List Area} {s0 : State} {t : Nat} {s : State}
    (hm : Sub [.events, .frame, .clk] ps) (h : Within ps s0 s) :
    Within ps s0 (loseReference t s) := by
  unfold loseReference
  refine Within.ite (fun _ => ?_) (fun _ => ?_)
  · exact h
  · extract_lets v1
    refine Within.mid (ps := ps) (a := s0) v1 ?_ (fun h2 => ?_)
    · unfold v1
      exact raise_within (hm.of ⟨rfl⟩) (changeReference_within (hm.of ⟨rfl⟩) h)
    clear_value v1
    exact changeReceiver_within (hm.of ⟨rfl⟩) h2

theorem execReferenceLoss_within {ps : List Area} {s0 : State} {tower : Tower} {s : State}
    (hm : Sub [.events, .frame, .clk] ps) (h : Within ps s0 s) :
    OutWithin ps s0 (execReferenceLoss tower s) := by
  unfold execReferenceLoss
  exact OutWithin.next (loseReference_within (hm.of ⟨rfl⟩) h)

theorem returnReference_within {ps : List Area} {s0 : State} {t : Nat} {s : State} (hm : Sub [.clk] ps)
    (h : Within ps s0 s) :
    Within ps s0 (returnReference t s) := by
  unfold returnReference
  exact Within.ite (fun _ => h) (fun _ => changeReference_within (hm.of ⟨rfl⟩) h)

theorem execReferenceReturn_within {ps : List Area} {s0 : State} {tower : Tower} {s : State}
    (hm : Sub [.clk] ps) (h : Within ps s0 s) :
    OutWithin ps s0 (execReferenceReturn tower s) := by
  unfold execReferenceReturn
  exact OutWithin.next (returnReference_within (hm.of ⟨rfl⟩) h)

theorem holdoverExpiry_within {ps : List Area} {s0 : State} {t : Nat} {s : State}
    (hm : Sub [.now, .free, .counters, .events, .om, .start, .spad, .parts, .dma, .dram, .clk, .host, .pho, .sums, .lanes, .ver, .fab, .pow, .twin] ps)
    (h : Within ps s0 s) :
    Within ps s0 (holdoverExpiry t s) := by
  unfold holdoverExpiry
  split
  · exact h
  · refine Within.ite (fun _ => ?_) (fun _ => ?_)
    · exact h
    · exact keepOut_within (hm.of ⟨rfl⟩) (changeReference_within (hm.of ⟨rfl⟩) (advanceTo_within (hm.of ⟨rfl⟩) h))

theorem execReferenceHoldoverExpiry_within {ps : List Area} {s0 : State} {tower : Tower} {s : State}
    (hm : Sub [.now, .free, .counters, .events, .om, .start, .spad, .parts, .dma, .dram, .clk, .host, .pho, .sums, .lanes, .ver, .fab, .pow, .twin] ps)
    (h : Within ps s0 s) :
    OutWithin ps s0 (execReferenceHoldoverExpiry tower s) := by
  unfold execReferenceHoldoverExpiry
  exact OutWithin.next (holdoverExpiry_within (hm.of ⟨rfl⟩) h)

theorem clockAct_within {ps : List Area} {s0 : State} {a0 : Bytes} {a1 : State}
    (hm : Sub [.dict, .clk, .sec] ps) (h : Within ps s0 a1) :
    WWithin ps s0 (clockAct a0 a1) := by
  unfold clockAct
  extract_lets v1
  split
  · exact WWithin.done (decideStep_within (hm.of ⟨rfl⟩) (setDictNat_within (hm.of ⟨rfl⟩) h))
  · exact .refuse

theorem execRequestedClockWrite_within {ps : List Area} {s0 : State} {req : Req} {value : Bytes} {s : State}
    (hm : Sub [.dict, .events, .om, .clk, .sec] ps) (h : Within ps s0 s) :
    OutWithin ps s0 (execRequestedClockWrite req value s) := by
  unfold execRequestedClockWrite
  refine OutWithin.next ?_
  refine serveWrite_within (hm.of ⟨rfl⟩) ?_ ?_
  · intro x1 s2 h3
    exact clockAct_within (hm.of ⟨rfl⟩) h3
  · exact h

theorem rampDone_within {ps : List Area} {s0 : State} {s : State} (hm : Sub [.now, .clk] ps)
    (h : Within ps s0 s) :
    Within ps s0 (rampDone s) := by
  unfold rampDone
  split
  · exact h
  · extract_lets v7 v8
    refine Within.mid (ps := ps) (a := s0) v7 ?_ (fun h9 => ?_)
    · unfold v7
      exact advanceTo_within (hm.of ⟨rfl⟩) h
    clear_value v7
    exact Within.put h9

theorem execVcoreRampDone_within {ps : List Area} {s0 : State} {s : State} (hm : Sub [.now, .clk] ps)
    (h : Within ps s0 s) :
    OutWithin ps s0 (execVcoreRampDone s) := by
  unfold execVcoreRampDone
  exact OutWithin.next (rampDone_within (hm.of ⟨rfl⟩) h)

theorem pllLocked_within {ps : List Area} {s0 : State} {t : Nat} {s : State} (hm : Sub [.clk] ps)
    (h : Within ps s0 s) :
    Within ps s0 (pllLocked t s) := by
  unfold pllLocked
  exact Within.ite (fun _ => Within.put h) (fun _ => h)

theorem execPllLocked_within {ps : List Area} {s0 : State} {tower : Tower} {s : State} (hm : Sub [.clk] ps)
    (h : Within ps s0 s) :
    OutWithin ps s0 (execPllLocked tower s) := by
  unfold execPllLocked
  exact OutWithin.next (pllLocked_within (hm.of ⟨rfl⟩) h)

theorem pllLockFail_within {ps : List Area} {s0 : State} {t : Nat} {s : State}
    (hm : Sub [.now, .events, .clk] ps) (h : Within ps s0 s) :
    Within ps s0 (pllLockFail t s) := by
  unfold pllLockFail
  refine Within.ite (fun _ => ?_) (fun _ => ?_)
  · exact h
  · extract_lets v1 v2
    refine Within.mid (ps := ps) (a := s0) v1 ?_ (fun h3 => ?_)
    · unfold v1
      exact advanceTo_within (hm.of ⟨rfl⟩) h
    clear_value v1
    exact raise_within (hm.of ⟨rfl⟩) (Within.put h3)

theorem execPllLockFail_within {ps : List Area} {s0 : State} {tower : Tower} {s : State}
    (hm : Sub [.now, .events, .clk] ps) (h : Within ps s0 s) :
    OutWithin ps s0 (execPllLockFail tower s) := by
  unfold execPllLockFail
  exact OutWithin.next (pllLockFail_within (hm.of ⟨rfl⟩) h)

theorem noteReading_within {ps : List Area} {s0 : State} {t : Nat} {r : Nat} {reading : Nat} {s : State}
    (hm : Sub [.clk] ps) (h : Within ps s0 s) :
    Within ps s0 (noteReading t r reading s) := by
  unfold noteReading
  extract_lets v1 v2 v3
  exact Within.put h

theorem replicaWarn_within {ps : List Area} {s0 : State} {t : Nat} {r : Nat} {reading : Nat} {s : State}
    (hm : Sub [.counters, .events, .parts, .clk, .pow] ps) (h : Within ps s0 s) :
    Within ps s0 (replicaWarn t r reading s) := by
  unfold replicaWarn
  refine Within.ite (fun _ => ?_) (fun _ => ?_)
  · exact h
  · extract_lets v1 v2 v3 v4 v5 v6 v7
    refine Within.mid (ps := ps) (a := s0) v1 ?_ (fun h8 => ?_)
    · unfold v1
      exact noteReading_within (hm.of ⟨rfl⟩) h
    clear_value v1
    refine Within.mid (ps := ps) (a := s0) v4 ?_ (fun h9 => ?_)
    · unfold v4
      exact Within.ite (fun _ => Within.put h8) (fun _ => h8)
    clear_value v4
    refine Within.mid (ps := ps) (a := s0) v5 ?_ (fun h10 => ?_)
    · unfold v5
      exact Within.ite (fun _ => addDebt_within (hm.of ⟨rfl⟩) (count64_within (hm.of ⟨rfl⟩) h9)) (fun _ => h9)
    clear_value v5
    exact Within.ite (fun _ => raise_within (hm.of ⟨rfl⟩) (Within.put h10)) (fun _ => h10)

theorem execReplicaWarn_within {ps : List Area} {s0 : State} {tower : Tower} {region : Region}
    {reading : BitVec 6} {s : State} (hm : Sub [.counters, .events, .parts, .clk, .pow] ps) (h : Within ps s0 s)
    :
    OutWithin ps s0 (execReplicaWarn tower region reading s) := by
  unfold execReplicaWarn
  exact OutWithin.next (replicaWarn_within (hm.of ⟨rfl⟩) h)

theorem replicaCritical_within {ps : List Area} {s0 : State} {t : Nat} {r : Nat} {reading : Nat} {s : State}
    (hm : Sub [.counters, .events, .parts, .clk, .pow] ps) (h : Within ps s0 s) :
    Within ps s0 (replicaCritical t r reading s) := by
  unfold replicaCritical
  refine Within.ite (fun _ => ?_) (fun _ => ?_)
  · exact h
  · extract_lets v1 v2 v3
    refine Within.mid (ps := ps) (a := s0) v1 ?_ (fun h4 => ?_)
    · unfold v1
      exact raise_within (hm.of ⟨rfl⟩) (noteReading_within (hm.of ⟨rfl⟩) h)
    clear_value v1
    refine Within.mid (ps := ps) (a := s0) v2 ?_ (fun h5 => ?_)
    · unfold v2
      exact addDebt_within (hm.of ⟨rfl⟩) (count64_within (hm.of ⟨rfl⟩) h4)
    clear_value v2
    exact Within.put h5

theorem execReplicaCritical_within {ps : List Area} {s0 : State} {tower : Tower} {region : Region}
    {reading : BitVec 6} {s : State} (hm : Sub [.counters, .events, .parts, .clk, .pow] ps) (h : Within ps s0 s)
    :
    OutWithin ps s0 (execReplicaCritical tower region reading s) := by
  unfold execReplicaCritical
  exact OutWithin.next (replicaCritical_within (hm.of ⟨rfl⟩) h)

theorem replicaRelease_within {ps : List Area} {s0 : State} {s : State} (hm : Sub [.now, .clk] ps)
    (h : Within ps s0 s) :
    Within ps s0 (replicaRelease s) := by
  unfold replicaRelease
  split
  · extract_lets v7 v8 v9
    refine Within.mid (ps := ps) (a := s0) v7 ?_ (fun h10 => ?_)
    · unfold v7
      exact advanceTo_within (hm.of ⟨rfl⟩) h
    clear_value v7
    exact decideStep_within (hm.of ⟨rfl⟩) (Within.put h10)
  · exact h

theorem execReplicaRelease_within {ps : List Area} {s0 : State} {s : State} (hm : Sub [.now, .clk] ps)
    (h : Within ps s0 s) :
    OutWithin ps s0 (execReplicaRelease s) := by
  unfold execReplicaRelease
  exact OutWithin.next (replicaRelease_within (hm.of ⟨rfl⟩) h)

theorem execRefclkLoss_within {ps : List Area} {s0 : State} {s : State} (hm : Sub [.clk] ps)
    (h : Within ps s0 s) :
    OutWithin ps s0 (execRefclkLoss s) := by
  unfold execRefclkLoss
  exact OutWithin.next (Within.ite (fun _ => h) (fun _ => Within.put h))

theorem refclkExpiry_within {ps : List Area} {s0 : State} {s : State}
    (hm : Sub [.now, .events, .frame, .clk] ps) (h : Within ps s0 s) :
    Within ps s0 (refclkExpiry s) := by
  unfold refclkExpiry
  split
  · exact h
  · refine Within.ite (fun _ => ?_) (fun _ => ?_)
    · exact h
    · extract_lets v6 v7 v8 v9
      refine Within.mid (ps := ps) (a := s0) v6 ?_ (fun h10 => ?_)
      · unfold v6
        exact advanceTo_within (hm.of ⟨rfl⟩) h
      clear_value v6
      refine Within.mid (ps := ps) (a := s0) v9 ?_ (fun h11 => ?_)
      · unfold v9
        exact Within.put h10
      clear_value v9
      exact Within.fold h11 (fun _ _ h14 => loseReference_within (hm.of ⟨rfl⟩) h14)

theorem execRefclkHoldoverExpiry_within {ps : List Area} {s0 : State} {s : State}
    (hm : Sub [.now, .events, .frame, .clk] ps) (h : Within ps s0 s) :
    OutWithin ps s0 (execRefclkHoldoverExpiry s) := by
  unfold execRefclkHoldoverExpiry
  exact OutWithin.next (refclkExpiry_within (hm.of ⟨rfl⟩) h)

theorem passFrames_within {ps : List Area} {s0 : State} {s : State} (hm : Sub [.frame] ps) (h : Within ps s0 s)
    :
    Within ps s0 (passFrames s) := by
  unfold passFrames
  extract_lets v1 v2 v3
  exact Within.put h

theorem refclkReturn_within {ps : List Area} {s0 : State} {s : State} (hm : Sub [.frame, .clk] ps)
    (h : Within ps s0 s) :
    Within ps s0 (refclkReturn s) := by
  unfold refclkReturn
  extract_lets v1 v2 v3 v4
  refine Within.mid (ps := ps) (a := s0) v2 ?_ (fun h5 => ?_)
  · unfold v2
    exact Within.put h
  clear_value v2
  split
  · exact h5
  · extract_lets v11
    refine Within.mid (ps := ps) (a := s0) v11 ?_ (fun h12 => ?_)
    · unfold v11
      exact passFrames_within (hm.of ⟨rfl⟩) (Within.put h5)
    clear_value v11
    exact Within.fold h12 (fun _ _ h15 => returnReference_within (hm.of ⟨rfl⟩) h15)

theorem execRefclkReturn_within {ps : List Area} {s0 : State} {s : State} (hm : Sub [.frame, .clk] ps)
    (h : Within ps s0 s) :
    OutWithin ps s0 (execRefclkReturn s) := by
  unfold execRefclkReturn
  exact OutWithin.next (refclkReturn_within (hm.of ⟨rfl⟩) h)

theorem alignmentDone_within {ps : List Area} {s0 : State} {t : Nat} {s : State} (hm : Sub [.clk] ps)
    (h : Within ps s0 s) :
    Within ps s0 (alignmentDone t s) := by
  unfold alignmentDone
  exact Within.put h

theorem execClockAlignmentDone_within {ps : List Area} {s0 : State} {tower : Tower} {s : State}
    (hm : Sub [.clk] ps) (h : Within ps s0 s) :
    OutWithin ps s0 (execClockAlignmentDone tower s) := by
  unfold execClockAlignmentDone
  exact OutWithin.next (alignmentDone_within (hm.of ⟨rfl⟩) h)

end Sys2Proof.Machine
end

