-- ==== Sys2Proof/Laws/WithinRecorder.lean ====
section
/-! SUPPORT. Which parts of the state the operations of Machine/Recorder.lean can write: one lemma for each. -/

set_option Elab.async false

namespace Sys2Proof.Machine

theorem copyCritical_within {ps : List Area} {s0 : State} {r : Record} {s : State} (hm : Sub [.events, .hen] ps)
    (h : Within ps s0 s) :
    Within ps s0 (copyCritical r s) := by
  unfold copyCritical
  extract_lets v1 v2
  exact Within.ite (fun _ => raise_within (hm.of ⟨rfl⟩) (Within.put h)) (fun _ => Within.put h)

theorem changeBucket_within {ps : List Area} {s0 : State} {code : Nat} {f : Bucket → Bucket} {s : State}
    (hm : Sub [.events, .hen] ps) (h : Within ps s0 s) :
    Within ps s0 (changeBucket code f s) := by
  unfold changeBucket
  exact Within.put h

theorem arriveCritical_within {ps : List Area} {s0 : State} {r : Record} {s : State}
    (hm : Sub [.events, .hen] ps) (h : Within ps s0 s) :
    Within ps s0 (arriveCritical r s) := by
  unfold arriveCritical
  extract_lets v1 v2 v3 v4
  refine Within.mid (ps := ps) (a := s0) v3 ?_ (fun h5 => ?_)
  · unfold v3
    exact copyCritical_within (hm.of ⟨rfl⟩) h
  clear_value v3
  exact Within.ite (fun _ => Within.put h5) (fun _ => changeBucket_within (hm.of ⟨rfl⟩) (Within.put h5))

theorem suppressEvent_within {ps : List Area} {s0 : State} {code : Nat} {s : State}
    (hm : Sub [.events, .hen] ps) (h : Within ps s0 s) :
    Within ps s0 (suppressEvent code s) := by
  unfold suppressEvent
  exact changeBucket_within (hm.of ⟨rfl⟩) (Within.put h)

theorem takeBucketToken_within {ps : List Area} {s0 : State} {code : Nat} {s : State}
    (hm : Sub [.events, .hen] ps) (h : Within ps s0 s) :
    Within ps s0 (takeBucketToken code s) := by
  unfold takeBucketToken
  exact changeBucket_within (hm.of ⟨rfl⟩) h

theorem arriveOrdinary_within {ps : List Area} {s0 : State} {r : Record} {s : State}
    (hm : Sub [.events, .hen] ps) (h : Within ps s0 s) :
    Within ps s0 (arriveOrdinary r s) := by
  unfold arriveOrdinary
  extract_lets v1 v2 v3 v4 v5 v6
  refine Within.mid (ps := ps) (a := s0) v5 ?_ (fun h7 => ?_)
  · unfold v5
    exact Within.ite (fun _ => h) (fun _ => takeBucketToken_within (hm.of ⟨rfl⟩) h)
  clear_value v5
  exact Within.ite (fun _ => Within.put h) (fun _ => changeBucket_within (hm.of ⟨rfl⟩) (Within.put h7))

theorem arrive_within {ps : List Area} {s0 : State} {e : Event} {s : State} (hm : Sub [.events, .hen] ps)
    (h : Within ps s0 s) :
    Within ps s0 (arrive e s) := by
  unfold arrive
  extract_lets v1 v2
  refine Within.ite (fun _ => ?_) (fun _ => ?_)
  · exact arriveCritical_within (hm.of ⟨rfl⟩) h
  · refine Within.ite (fun _ => ?_) (fun _ => ?_)
    · exact suppressEvent_within (hm.of ⟨rfl⟩) h
    · exact arriveOrdinary_within (hm.of ⟨rfl⟩) h

theorem arriveAll_within {ps : List Area} {s0 : State} {s : State} (hm : Sub [.events, .taken, .hen] ps)
    (h : Within ps s0 s) :
    Within ps s0 (arriveAll s) := by
  unfold arriveAll
  exact Within.fold (Within.put h) (fun _ _ h3 => arrive_within (hm.of ⟨rfl⟩) h3)

theorem putRingRecord_within {ps : List Area} {s0 : State} {r : Record} {s : State}
    (hm : Sub [.events, .hen] ps) (h : Within ps s0 s) :
    Within ps s0 (putRingRecord r s) := by
  unfold putRingRecord
  extract_lets v1 v2 v3
  exact Within.put h

theorem thawRing_within {ps : List Area} {s0 : State} {s : State} (hm : Sub [.events, .hen] ps)
    (h : Within ps s0 s) :
    Within ps s0 (thawRing s) := by
  unfold thawRing
  extract_lets v1 v2 v3 v4
  refine Within.mid (ps := ps) (a := s0) v4 ?_ (fun h5 => ?_)
  · unfold v4
    exact Within.fold (Within.put h) (fun _ _ h8 => putRingRecord_within (hm.of ⟨rfl⟩) h8)
  clear_value v4
  exact raiseIf_within (hm.of ⟨rfl⟩) (raise_within (hm.of ⟨rfl⟩) h5)

theorem freezeAct_within {ps : List Area} {s0 : State} {a0 : Bytes} {a1 : State} (hm : Sub [.events, .hen] ps)
    (h : Within ps s0 a1) :
    WWithin ps s0 (freezeAct a0 a1) := by
  unfold freezeAct
  extract_lets v1 v2
  split
  · split
    · exact .refuse
    · exact WWithin.done (Within.put h)
  · split
    · split
      · exact WWithin.done (thawRing_within (hm.of ⟨rfl⟩) h)
      · exact WWithin.done h
    · exact .refuse

theorem clearLogAct_within {ps : List Area} {s0 : State} {a0 : Bytes} {a1 : State} (hm : Sub [.events, .hen] ps)
    (h : Within ps s0 a1) :
    WWithin ps s0 (clearLogAct a0 a1) := by
  unfold clearLogAct
  split
  · exact .refuse
  · split
    · exact WWithin.done (Within.put h)
    · exact .refuse

theorem recordEvent_within {ps : List Area} {s0 : State} {n : Nat} {s : State}
    (hm : Sub [.events, .taken, .hen] ps) (h : Within ps s0 s) :
    Within ps s0 (recordEvent n s) := by
  unfold recordEvent
  split
  · exact h
  · exact arrive_within (hm.of ⟨rfl⟩) (Within.put h)

theorem startRecorder_within {ps : List Area} {s0 : State} {s : State} (hm : Sub [.events, .taken, .hen] ps)
    (h : Within ps s0 s) :
    Within ps s0 (startRecorder s) := by
  unfold startRecorder
  extract_lets v1 v2 v3 v4 v5
  refine Within.mid (ps := ps) (a := s0) v3 ?_ (fun h6 => ?_)
  · unfold v3
    exact Within.put h
  clear_value v3
  refine Within.mid (ps := ps) (a := s0) v4 ?_ (fun h7 => ?_)
  · unfold v4
    exact recordEvent_within (hm.of ⟨rfl⟩) (raise_within (hm.of ⟨rfl⟩) h6)
  clear_value v4
  exact reportFull_within (hm.of ⟨rfl⟩) (Within.put h7)

theorem execEventRecord_within {ps : List Area} {s0 : State} {index : Nat} {s : State}
    (hm : Sub [.events, .taken, .hen] ps) (h : Within ps s0 s) :
    OutWithin ps s0 (execEventRecord index s) := by
  unfold execEventRecord
  exact OutWithin.next (recordEvent_within (hm.of ⟨rfl⟩) h)

theorem writeRingRecord_within {ps : List Area} {s0 : State} {r : Record} {s : State}
    (hm : Sub [.events, .hen, .om] ps) (h : Within ps s0 s) :
    Within ps s0 (writeRingRecord r s) := by
  unfold writeRingRecord
  extract_lets v1 v2
  refine Within.ite (fun _ => ?_) (fun _ => ?_)
  · simp only [v1]
    exact eventNotice_within (hm.of ⟨rfl⟩) (putRingRecord_within (hm.of ⟨rfl⟩) h)
  · refine Within.ite (fun _ => ?_) (fun _ => ?_)
    · simp only [v1]
      exact eventNotice_within (hm.of ⟨rfl⟩) (Within.put h)
    · exact changeBucket_within (hm.of ⟨rfl⟩) (Within.put h)

theorem ringStep_within {ps : List Area} {s0 : State} {s : State} (hm : Sub [.events, .hen, .om] ps)
    (h : Within ps s0 s) :
    Within ps s0 (ringStep s) := by
  unfold ringStep
  split
  · exact writeRingRecord_within (hm.of ⟨rfl⟩) (Within.put h)
  · exact writeRingRecord_within (hm.of ⟨rfl⟩) (Within.put h)
  · exact h

theorem execRecordRingWrite_within {ps : List Area} {s0 : State} {s : State} (hm : Sub [.events, .hen, .om] ps)
    (h : Within ps s0 s) :
    OutWithin ps s0 (execRecordRingWrite s) := by
  unfold execRecordRingWrite
  exact OutWithin.next (ringStep_within (hm.of ⟨rfl⟩) h)

theorem refillBucket_within {ps : List Area} {s0 : State} {code : Nat} {s : State}
    (hm : Sub [.now, .events, .hen] ps) (h : Within ps s0 s) :
    Within ps s0 (refillBucket code s) := by
  unfold refillBucket
  extract_lets v1
  split
  · refine Within.ite (fun _ => ?_) (fun _ => ?_)
    · exact h
    · extract_lets v6
      exact changeBucket_within (hm.of ⟨rfl⟩) (advanceTo_within (hm.of ⟨rfl⟩) h)

theorem execTokenBucketRefill_within {ps : List Area} {s0 : State} {code : BitVec 16} {s : State}
    (hm : Sub [.now, .events, .hen] ps) (h : Within ps s0 s) :
    OutWithin ps s0 (execTokenBucketRefill code s) := by
  unfold execTokenBucketRefill
  exact OutWithin.next (refillBucket_within (hm.of ⟨rfl⟩) h)

theorem execFreeze_within {ps : List Area} {s0 : State} {req : Req} {value : Bytes} {s : State}
    (hm : Sub [.events, .hen, .om] ps) (h : Within ps s0 s) :
    OutWithin ps s0 (execFreeze req value s) := by
  unfold execFreeze
  refine OutWithin.next ?_
  refine Within.ite (fun _ => ?_) (fun _ => ?_)
  · refine serveWrite_within (hm.of ⟨rfl⟩) ?_ ?_
    · intro x1 s2 h3
      exact freezeAct_within (hm.of ⟨rfl⟩) h3
    · exact h
  · exact h

theorem execThaw_within {ps : List Area} {s0 : State} {req : Req} {value : Bytes} {s : State}
    (hm : Sub [.events, .hen, .om] ps) (h : Within ps s0 s) :
    OutWithin ps s0 (execThaw req value s) := by
  unfold execThaw
  refine OutWithin.next ?_
  refine Within.ite (fun _ => ?_) (fun _ => ?_)
  · refine serveWrite_within (hm.of ⟨rfl⟩) ?_ ?_
    · intro x1 s2 h3
      exact freezeAct_within (hm.of ⟨rfl⟩) h3
    · exact h
  · exact h

theorem freezeEnds_within {ps : List Area} {s0 : State} {s : State} (hm : Sub [.now, .events, .hen] ps)
    (h : Within ps s0 s) :
    Within ps s0 (freezeEnds s) := by
  unfold freezeEnds
  exact Within.ite (fun _ => thawRing_within (hm.of ⟨rfl⟩) (advanceTo_within (hm.of ⟨rfl⟩) h)) (fun _ => h)

theorem execFreezeLimit_within {ps : List Area} {s0 : State} {s : State} (hm : Sub [.now, .events, .hen] ps)
    (h : Within ps s0 s) :
    OutWithin ps s0 (execFreezeLimit s) := by
  unfold execFreezeLimit
  exact OutWithin.next (freezeEnds_within (hm.of ⟨rfl⟩) h)

theorem execClearCriticalLog_within {ps : List Area} {s0 : State} {req : Req} {value : Bytes} {s : State}
    (hm : Sub [.events, .hen, .om] ps) (h : Within ps s0 s) :
    OutWithin ps s0 (execClearCriticalLog req value s) := by
  unfold execClearCriticalLog
  refine OutWithin.next ?_
  refine serveWrite_within (hm.of ⟨rfl⟩) ?_ ?_
  · intro x1 s2 h3
    exact clearLogAct_within (hm.of ⟨rfl⟩) h3
  · exact h

end Sys2Proof.Machine
end

