-- ==== Sys2Proof/Laws/WithinStop.lean ====
section
/-! SUPPORT. Which parts of the state the operations of Machine/Stop.lean can write: one lemma for each. -/

set_option Elab.async false

namespace Sys2Proof.Machine

/-- A stop leaves the queue, the clock and the free values. -/
theorem stopDevice_within {ps : List Area} {s0 : State} {k : StopKind} {s : State} (hm : Sub [.counters, .dict, .events, .taken, .hen, .om, .frame, .start, .spad, .arith, .parts, .dma, .dram, .clk, .host, .pho, .sums, .lanes, .las, .ver, .fab, .pow, .sec, .twin] ps)
    (h : Within ps s0 s) : Within ps s0 (stopDevice k s) := by
  refine h.trans (fun p hp => ?_)
  cases p with
  | queue => rfl
  | now => rfl
  | free => rfl
  | _ => exact absurd (hm.mem rfl) hp

end Sys2Proof.Machine
end

