-- ==== Sys2Proof/Laws/WithinPower.lean ====
section
/-! SUPPORT. Which parts of the state the operations of Machine/Power.lean can write: one lemma for each. -/

set_option Elab.async false

namespace Sys2Proof.Machine

theorem setCapLimit_within {ps : List Area} {s0 : State} {c : Option Nat} {s : State}
    (hm : Sub [.events, .clk] ps) (h : Within ps s0 s) :
    Within ps s0 (setCapLimit c s) := by
  unfold setCapLimit
  exact raise_within (hm.of ⟨rfl⟩) (Within.put h)

theorem lowerCapLimit_within {ps : List Area} {s0 : State} {s : State} (hm : Sub [.events, .clk] ps)
    (h : Within ps s0 s) :
    Within ps s0 (lowerCapLimit s) := by
  unfold lowerCapLimit
  extract_lets v1 v2 v3
  exact Within.ite (fun _ => setCapLimit_within (hm.of ⟨rfl⟩) (Within.put h)) (fun _ => h)

theorem powerBoundary_within {ps : List Area} {s0 : State} {s : State} (hm : Sub [.events, .clk, .pow] ps)
    (h : Within ps s0 s) :
    Within ps s0 (powerBoundary s) := by
  unfold powerBoundary
  extract_lets v1 v2 v3 v4 v5
  refine Within.mid (ps := ps) (a := s0) v1 ?_ (fun h6 => ?_)
  · unfold v1
    exact lowerCapLimit_within (hm.of ⟨rfl⟩) h
  clear_value v1
  refine Within.mid (ps := ps) (a := s0) v4 ?_ (fun h7 => ?_)
  · unfold v4
    exact Within.put h6
  clear_value v4
  exact Within.ite (fun _ => raise_within (hm.of ⟨rfl⟩) (Within.put h7)) (fun _ => h7)

theorem changeDiode_within {ps : List Area} {s0 : State} {i : Nat} {f : Diode → Diode} {s : State}
    (hm : Sub [.pow] ps) (h : Within ps s0 s) :
    Within ps s0 (changeDiode i f s) := by
  unfold changeDiode
  exact Within.put h

theorem breakDiode_within {ps : List Area} {s0 : State} {i : Nat} {r : Option Int} {s : State}
    (hm : Sub [.events, .pow] ps) (h : Within ps s0 s) :
    Within ps s0 (breakDiode i r s) := by
  unfold breakDiode
  exact raise_within (hm.of ⟨rfl⟩) (changeDiode_within (hm.of ⟨rfl⟩) h)

theorem sampleDiode_within {ps : List Area} {s0 : State} {i : Nat} {r : Option Int} {s : State}
    (hm : Sub [.events, .pow] ps) (h : Within ps s0 s) :
    Within ps s0 (sampleDiode i r s) := by
  unfold sampleDiode
  extract_lets v1
  split
  · exact breakDiode_within (hm.of ⟨rfl⟩) h
  · extract_lets v5
    exact Within.ite (fun _ => breakDiode_within (hm.of ⟨rfl⟩) h) (fun _ => changeDiode_within (hm.of ⟨rfl⟩) h)

theorem compareDiode_within {ps : List Area} {s0 : State} {i : Nat} {reading : Nat → Option Int} {s : State}
    (hm : Sub [.events, .pow] ps) (h : Within ps s0 s) :
    Within ps s0 (compareDiode i reading s) := by
  unfold compareDiode
  extract_lets v1 v2
  split
  · refine Within.ite (fun _ => ?_) (fun _ => ?_)
    · exact changeDiode_within (hm.of ⟨rfl⟩) h
    · exact Within.ite (fun _ => breakDiode_within (hm.of ⟨rfl⟩) h) (fun _ => changeDiode_within (hm.of ⟨rfl⟩) h)
  · exact changeDiode_within (hm.of ⟨rfl⟩) h

theorem holdRails_within {ps : List Area} {s0 : State} {s : State}
    (hm : Sub [.counters, .dict, .events, .taken, .hen, .om, .frame, .start, .spad, .arith, .parts, .dma, .dram, .clk, .host, .pho, .sums, .lanes, .las, .ver, .fab, .pow, .sec, .twin] ps)
    (h : Within ps s0 s) :
    Within ps s0 (holdRails s) := by
  unfold holdRails
  extract_lets v1 v2 v3
  refine Within.mid (ps := ps) (a := s0) v1 ?_ (fun h4 => ?_)
  · unfold v1
    exact stopDevice_within (hm.of ⟨rfl⟩) h
  clear_value v1
  exact Within.put h4

theorem setReading_within {ps : List Area} {s0 : State} {i : Nat} {reading : Nat → Option Int} {s : State}
    (hm : Sub [.events, .pow] ps) (h : Within ps s0 s) :
    Within ps s0 (setReading i reading s) := by
  unfold setReading
  refine Within.ite (fun _ => ?_) (fun _ => ?_)
  · exact Within.put h
  · split
    · exact h
    · extract_lets v7 v8
      refine Within.mid (ps := ps) (a := s0) v8 ?_ (fun h9 => ?_)
      · unfold v8
        exact Within.put h
      clear_value v8
      exact raiseIf_within (hm.of ⟨rfl⟩) (changeDiode_within (hm.of ⟨rfl⟩) h9)

theorem sampleStack_within {ps : List Area} {s0 : State} {t : Nat} {s : State} (hm : Sub [.events, .dram] ps)
    (h : Within ps s0 s) :
    Within ps s0 (sampleStack t s) := by
  unfold sampleStack
  extract_lets v1 v2 v3 v4
  refine Within.mid (ps := ps) (a := s0) v4 ?_ (fun h5 => ?_)
  · unfold v4
    exact changeStack_within (hm.of ⟨rfl⟩) h
  clear_value v4
  refine Within.ite (fun _ => ?_) (fun _ => ?_)
  · exact changeStack_within (hm.of ⟨rfl⟩) h5
  · refine Within.ite (fun _ => ?_) (fun _ => ?_)
    · refine Within.ite (fun _ => ?_) (fun _ => ?_)
      · exact raise_within (hm.of ⟨rfl⟩) (changeStack_within (hm.of ⟨rfl⟩) (pauseScrub_within (hm.of ⟨rfl⟩) h5))
      · exact raise_within (hm.of ⟨rfl⟩) (changeStack_within (hm.of ⟨rfl⟩) h5)
    · exact Within.ite (fun _ => changeStack_within (hm.of ⟨rfl⟩) h5) (fun _ => h5)

theorem oxTrip_within {ps : List Area} {s0 : State} {i : Nat} {reading : Int} {s : State}
    (hm : Sub [.counters, .dict, .events, .taken, .hen, .om, .frame, .start, .spad, .arith, .parts, .dma, .dram, .clk, .host, .pho, .sums, .lanes, .las, .ver, .fab, .pow, .sec, .twin] ps)
    (h : Within ps s0 s) :
    Within ps s0 (oxTrip i reading s) := by
  unfold oxTrip
  exact Within.ite (fun _ => h) (fun _ => stopDevice_within (hm.of ⟨rfl⟩) (Within.put h))

theorem muleTrip_within {ps : List Area} {s0 : State} {s : State}
    (hm : Sub [.free, .counters, .dict, .events, .taken, .hen, .om, .frame, .start, .spad, .arith, .parts, .dma, .dram, .clk, .host, .pho, .sums, .lanes, .las, .ver, .fab, .pow, .sec, .twin] ps)
    (h : Within ps s0 s) :
    Within ps s0 (muleTrip s) := by
  unfold muleTrip
  extract_lets v1
  refine Within.ite (fun _ => ?_) (fun _ => ?_)
  · split
    · rename_i y5
      refine Within.ofPair1 (ps := ps) (a := s0) y5 ?_ (fun h6 => ?_)
      · exact draw_within (hm.of ⟨rfl⟩) h
      exact oxTrip_within (hm.of ⟨rfl⟩) h6
  · split
    · exact oxTrip_within (hm.of ⟨rfl⟩) h
    · exact h

theorem requestThrottle_within {ps : List Area} {s0 : State} {x : Nat × Int} {s : State}
    (hm : Sub [.events, .host, .pow] ps) (h : Within ps s0 s) :
    Within ps s0 (requestThrottle x s) := by
  unfold requestThrottle
  exact notify_within (hm.of ⟨rfl⟩) (raise_within (hm.of ⟨rfl⟩) (Within.put h))

theorem enforceThrottle_within {ps : List Area} {s0 : State} {x : Nat × Int} {s : State}
    (hm : Sub [.events, .host, .pow] ps) (h : Within ps s0 s) :
    Within ps s0 (enforceThrottle x s) := by
  unfold enforceThrottle
  extract_lets v1 v2
  exact notify_within (hm.of ⟨rfl⟩) (raise_within (hm.of ⟨rfl⟩) (Within.put h))

theorem throttleSample_within {ps : List Area} {s0 : State} {s : State} (hm : Sub [.events, .host, .pow] ps)
    (h : Within ps s0 s) :
    Within ps s0 (throttleSample s) := by
  unfold throttleSample
  extract_lets v1 v2 v3 v4
  refine Within.mid (ps := ps) (a := s0) v2 ?_ (fun h5 => ?_)
  · unfold v2
    split
    · exact requestThrottle_within (hm.of ⟨rfl⟩) h
    · exact h
  clear_value v2
  split
  · exact h5
  · exact Within.ite (fun _ => enforceThrottle_within (hm.of ⟨rfl⟩) h5) (fun _ => Within.put h5)
  · refine Within.ite (fun _ => ?_) (fun _ => ?_)
    · exact Within.put h5
    · exact Within.ite (fun _ => notify_within (hm.of ⟨rfl⟩) (Within.put h5)) (fun _ => Within.put h5)
  · exact Within.put h5

theorem diodeSample_within {ps : List Area} {s0 : State} {readings : List Int} {s : State}
    (hm : Sub [.free, .counters, .dict, .events, .taken, .hen, .om, .frame, .start, .spad, .arith, .parts, .dma, .dram, .clk, .host, .pho, .sums, .lanes, .las, .ver, .fab, .pow, .sec, .twin] ps)
    (h : Within ps s0 s) :
    Within ps s0 (diodeSample readings s) := by
  unfold diodeSample
  refine Within.ite (fun _ => ?_) (fun _ => ?_)
  · exact h
  · extract_lets v1 v2 v3 v4 v5 v6
    refine Within.mid (ps := ps) (a := s0) v3 ?_ (fun h7 => ?_)
    · unfold v3
      exact Within.fold h (fun _ _ h10 => sampleDiode_within (hm.of ⟨rfl⟩) h10)
    clear_value v3
    refine Within.mid (ps := ps) (a := s0) v4 ?_ (fun h11 => ?_)
    · unfold v4
      exact Within.fold h7 (fun _ _ h14 => compareDiode_within (hm.of ⟨rfl⟩) h14)
    clear_value v4
    refine Within.mid (ps := ps) (a := s0) v5 ?_ (fun h15 => ?_)
    · unfold v5
      exact Within.fold h11 (fun _ _ h18 => setReading_within (hm.of ⟨rfl⟩) h18)
    clear_value v5
    refine Within.mid (ps := ps) (a := s0) v6 ?_ (fun h19 => ?_)
    · unfold v6
      exact Within.fold h15 (fun _ _ h22 => sampleStack_within (hm.of ⟨rfl⟩) h22)
    clear_value v6
    refine Within.ite (fun _ => ?_) (fun _ => ?_)
    · exact holdRails_within (hm.of ⟨rfl⟩) h11
    · exact muleTrip_within (hm.of ⟨rfl⟩) (throttleSample_within (hm.of ⟨rfl⟩) h19)

theorem execDiodeSample_within {ps : List Area} {s0 : State} {readings : List Int} {s : State}
    (hm : Sub [.free, .counters, .dict, .events, .taken, .hen, .om, .frame, .start, .spad, .arith, .parts, .dma, .dram, .clk, .host, .pho, .sums, .lanes, .las, .ver, .fab, .pow, .sec, .twin] ps)
    (h : Within ps s0 s) :
    OutWithin ps s0 (execDiodeSample readings s) := by
  unfold execDiodeSample
  exact OutWithin.next (diodeSample_within (hm.of ⟨rfl⟩) h)

theorem chooseInput_within {ps : List Area} {s0 : State} {s : State} (hm : Sub [.counters, .events, .pow] ps)
    (h : Within ps s0 s) :
    Within ps s0 (chooseInput s) := by
  unfold chooseInput
  extract_lets v1 v2 v3 v4
  refine Within.mid (ps := ps) (a := s0) v4 ?_ (fun h5 => ?_)
  · unfold v4
    exact Within.put h
  clear_value v4
  refine Within.ite (fun _ => ?_) (fun _ => ?_)
  · exact h5
  · refine Within.ite (fun _ => ?_) (fun _ => ?_)
    · exact raise_within (hm.of ⟨rfl⟩) (count32_within (hm.of ⟨rfl⟩) h5)
    · exact Within.ite (fun _ => raise_within (hm.of ⟨rfl⟩) (count32_within (hm.of ⟨rfl⟩) h5)) (fun _ => h5)

theorem changeB_within {ps : List Area} {s0 : State} {good : Bool} {s : State} (hm : Sub [.events, .pow] ps)
    (h : Within ps s0 s) :
    Within ps s0 (changeB good s) := by
  unfold changeB
  extract_lets v1 v2 v3
  refine Within.mid (ps := ps) (a := s0) v3 ?_ (fun h4 => ?_)
  · unfold v3
    exact Within.put h
  clear_value v3
  exact raiseIf_within (hm.of ⟨rfl⟩) h4

theorem inputFailed_within {ps : List Area} {s0 : State} {backup : Bool} {mv : Nat} {s : State}
    (hm : Sub [.counters, .events, .pow] ps) (h : Within ps s0 s) :
    Within ps s0 (inputFailed backup mv s) := by
  unfold inputFailed
  refine Within.ite (fun _ => ?_) (fun _ => ?_)
  · exact h
  · refine Within.ite (fun _ => ?_) (fun _ => ?_)
    · exact Within.ite (fun _ => chooseInput_within (hm.of ⟨rfl⟩) (changeB_within (hm.of ⟨rfl⟩) h)) (fun _ => h)
    · exact Within.ite (fun _ => chooseInput_within (hm.of ⟨rfl⟩) (Within.put h)) (fun _ => h)

theorem execInputFailed_within {ps : List Area} {s0 : State} {backup : Bool} {millivolts : Nat} {s : State}
    (hm : Sub [.counters, .events, .pow] ps) (h : Within ps s0 s) :
    OutWithin ps s0 (execInputFailed backup millivolts s) := by
  unfold execInputFailed
  exact OutWithin.next (inputFailed_within (hm.of ⟨rfl⟩) h)

theorem inputInRange_within {ps : List Area} {s0 : State} {backup : Bool} {mv : Nat} {s : State}
    (hm : Sub [.counters, .events, .pow] ps) (h : Within ps s0 s) :
    Within ps s0 (inputInRange backup mv s) := by
  unfold inputInRange
  refine Within.ite (fun _ => ?_) (fun _ => ?_)
  · exact h
  · refine Within.ite (fun _ => ?_) (fun _ => ?_)
    · exact Within.ite (fun _ => h) (fun _ => chooseInput_within (hm.of ⟨rfl⟩) (changeB_within (hm.of ⟨rfl⟩) h))
    · exact Within.ite (fun _ => h) (fun _ => chooseInput_within (hm.of ⟨rfl⟩) (Within.put h))

theorem execInputInRange_within {ps : List Area} {s0 : State} {backup : Bool} {millivolts : Nat} {s : State}
    (hm : Sub [.counters, .events, .pow] ps) (h : Within ps s0 s) :
    OutWithin ps s0 (execInputInRange backup millivolts s) := by
  unfold execInputInRange
  exact OutWithin.next (inputInRange_within (hm.of ⟨rfl⟩) h)

theorem vinAStable_within {ps : List Area} {s0 : State} {s : State}
    (hm : Sub [.now, .counters, .events, .pow] ps) (h : Within ps s0 s) :
    Within ps s0 (vinAStable s) := by
  unfold vinAStable
  exact Within.ite (fun _ => chooseInput_within (hm.of ⟨rfl⟩) (advanceTo_within (hm.of ⟨rfl⟩) h)) (fun _ => h)

theorem execVinAStable_within {ps : List Area} {s0 : State} {s : State}
    (hm : Sub [.now, .counters, .events, .pow] ps) (h : Within ps s0 s) :
    OutWithin ps s0 (execVinAStable s) := by
  unfold execVinAStable
  exact OutWithin.next (vinAStable_within (hm.of ⟨rfl⟩) h)

theorem powerLoss_within {ps : List Area} {s0 : State} {s : State}
    (hm : Sub [.now, .counters, .dict, .events, .taken, .hen, .om, .frame, .start, .spad, .arith, .parts, .dma, .dram, .clk, .host, .pho, .sums, .lanes, .las, .ver, .fab, .pow, .sec, .twin] ps)
    (h : Within ps s0 s) :
    Within ps s0 (powerLoss s) := by
  unfold powerLoss
  split
  · exact h
  · refine stopDevice_within (hm.of ⟨rfl⟩) ?_
    exact arriveAll_within (hm.of ⟨rfl⟩) (raise_within (hm.of ⟨rfl⟩) (advanceTo_within (hm.of ⟨rfl⟩) h))

theorem execPowerLoss_within {ps : List Area} {s0 : State} {s : State}
    (hm : Sub [.now, .counters, .dict, .events, .taken, .hen, .om, .frame, .start, .spad, .arith, .parts, .dma, .dram, .clk, .host, .pho, .sums, .lanes, .las, .ver, .fab, .pow, .sec, .twin] ps)
    (h : Within ps s0 s) :
    OutWithin ps s0 (execPowerLoss s) := by
  unfold execPowerLoss
  exact OutWithin.next (powerLoss_within (hm.of ⟨rfl⟩) h)

theorem stretchDebt_within {ps : List Area} {s0 : State} {t : Nat} {r : Nat} {s : State}
    (hm : Sub [.counters, .events, .parts, .clk, .pow] ps) (h : Within ps s0 s) :
    Within ps s0 (stretchDebt t r s) := by
  unfold stretchDebt
  extract_lets v1 v2
  exact Within.ite (fun _ => h) (fun _ => addDebt_within (hm.of ⟨rfl⟩) (count64_within (hm.of ⟨rfl⟩) h))

theorem learnFrom_within {ps : List Area} {s0 : State} {t : Nat} {c : Option Nat} {w : Seen} {s : State}
    (hm : Sub [.pow] ps) (h : Within ps s0 s) :
    Within ps s0 (learnFrom t c w s) := by
  unfold learnFrom
  extract_lets v1 v2 v3 v4 v5
  split
  · extract_lets v11
    exact Within.put h

theorem seeWindow_within {ps : List Area} {s0 : State} {t : Nat} {core : Nat} {dram : Nat} {s : State}
    (hm : Sub [.pow] ps) (h : Within ps s0 s) :
    Within ps s0 (seeWindow t core dram s) := by
  unfold seeWindow
  extract_lets v1 v2 v3
  split
  · exact learnFrom_within (hm.of ⟨rfl⟩) h
  · extract_lets v9 v10 v11
    exact Within.put h

theorem railWindow_within {ps : List Area} {s0 : State} {r : Nat} {current : Nat} {s : State}
    (hm : Sub [.events, .clk, .pow] ps) (h : Within ps s0 s) :
    Within ps s0 (railWindow r current s) := by
  unfold railWindow
  extract_lets v1 v2 v3 v4 v5 v6 v7 v8
  refine Within.mid (ps := ps) (a := s0) v8 ?_ (fun h9 => ?_)
  · unfold v8
    exact Within.put h
  clear_value v8
  exact raiseIf_within (hm.of ⟨rfl⟩) h9

theorem notePowers_within {ps : List Area} {s0 : State} {pho : Nat} {las : Nat} {s : State} (hm : Sub [.pow] ps)
    (h : Within ps s0 s) :
    Within ps s0 (notePowers pho las s) := by
  unfold notePowers
  extract_lets v1 v2 v3 v4
  exact Within.put h

theorem inputWindow_within {ps : List Area} {s0 : State} {power : Nat} {s : State} (hm : Sub [.events, .pow] ps)
    (h : Within ps s0 s) :
    Within ps s0 (inputWindow power s) := by
  unfold inputWindow
  extract_lets v1 v2 v3 v4
  exact raiseIf_within (hm.of ⟨rfl⟩) (Within.put h)

theorem commandStretches_within {ps : List Area} {s0 : State} {t : Nat} {s : State} (hm : Sub [.clk] ps)
    (h : Within ps s0 s) :
    Within ps s0 (commandStretches t s) := by
  unfold commandStretches
  extract_lets v1 v2
  exact Within.put h

theorem capWindow_within {ps : List Area} {s0 : State} {currents : List Nat} {power : Nat} {vinA : Nat}
    {vinB : Nat} {s : State} (hm : Sub [.now, .counters, .events, .parts, .clk, .pow] ps) (h : Within ps s0 s) :
    Within ps s0 (capWindow currents power vinA vinB s) := by
  unfold capWindow
  refine Within.ite (fun _ => ?_) (fun _ => ?_)
  · exact h
  · extract_lets v1 v2 v3 v4 v5 v6 v7 v8 v9 v10 v11 v12 v13
    refine Within.mid (ps := ps) (a := s0) v3 ?_ (fun h14 => ?_)
    · unfold v3
      exact advanceTo_within (hm.of ⟨rfl⟩) h
    clear_value v3
    refine Within.mid (ps := ps) (a := s0) v5 ?_ (fun h15 => ?_)
    · unfold v5
      exact Within.put h14
    clear_value v5
    refine Within.mid (ps := ps) (a := s0) v7 ?_ (fun h16 => ?_)
    · unfold v7
      refine Within.fold ?_ (fun s17 x18 h19 => ?_)
      · exact h15
      · exact Within.fold h19 (fun _ _ h22 => stretchDebt_within (hm.of ⟨rfl⟩) h22)
    clear_value v7
    refine Within.mid (ps := ps) (a := s0) v8 ?_ (fun h23 => ?_)
    · unfold v8
      exact Within.fold h16 (fun _ _ h26 => seeWindow_within (hm.of ⟨rfl⟩) h26)
    clear_value v8
    refine Within.mid (ps := ps) (a := s0) v9 ?_ (fun h27 => ?_)
    · unfold v9
      exact Within.fold h23 (fun _ _ h30 => railWindow_within (hm.of ⟨rfl⟩) h30)
    clear_value v9
    refine Within.mid (ps := ps) (a := s0) v13 ?_ (fun h31 => ?_)
    · unfold v13
      exact notePowers_within (hm.of ⟨rfl⟩) (inputWindow_within (hm.of ⟨rfl⟩) h27)
    clear_value v13
    exact Within.fold h31 (fun _ _ h34 => commandStretches_within (hm.of ⟨rfl⟩) h34)

theorem execCapWindow_within {ps : List Area} {s0 : State} {currents : List Nat} {inputPower : Nat} {vinA : Nat}
    {vinB : Nat} {s : State} (hm : Sub [.now, .counters, .events, .parts, .clk, .pow] ps) (h : Within ps s0 s) :
    OutWithin ps s0 (execCapWindow currents inputPower vinA vinB s) := by
  unfold execCapWindow
  exact OutWithin.next (capWindow_within (hm.of ⟨rfl⟩) h)

theorem capLimitRise_within {ps : List Area} {s0 : State} {s : State} (hm : Sub [.now, .events, .clk] ps)
    (h : Within ps s0 s) :
    Within ps s0 (capLimitRise s) := by
  unfold capLimitRise
  split
  · extract_lets v7 v8
    refine Within.mid (ps := ps) (a := s0) v7 ?_ (fun h9 => ?_)
    · unfold v7
      exact advanceTo_within (hm.of ⟨rfl⟩) h
    clear_value v7
    exact decideStep_within (hm.of ⟨rfl⟩) (setCapLimit_within (hm.of ⟨rfl⟩) (Within.put h9))
  · exact h

theorem execCapLimitRise_within {ps : List Area} {s0 : State} {s : State} (hm : Sub [.now, .events, .clk] ps)
    (h : Within ps s0 s) :
    OutWithin ps s0 (execCapLimitRise s) := by
  unfold execCapLimitRise
  exact OutWithin.next (capLimitRise_within (hm.of ⟨rfl⟩) h)

theorem phaseEnded_within {ps : List Area} {s0 : State} {t : Nat} {s : State} (hm : Sub [.pow] ps)
    (h : Within ps s0 s) :
    Within ps s0 (phaseEnded t s) := by
  unfold phaseEnded
  split
  · exact h
  · exact learnFrom_within (hm.of ⟨rfl⟩) (Within.put h)

theorem execPhaseEnd_within {ps : List Area} {s0 : State} {tower : Tower} {s : State} (hm : Sub [.pow] ps)
    (h : Within ps s0 s) :
    OutWithin ps s0 (execPhaseEnd tower s) := by
  unfold execPhaseEnd
  exact OutWithin.next (phaseEnded_within (hm.of ⟨rfl⟩) h)

theorem writeProfile_within {ps : List Area} {s0 : State} {s : State} (hm : Sub [.pow] ps) (h : Within ps s0 s)
    :
    Within ps s0 (writeProfile s) := by
  unfold writeProfile
  exact Within.put h

theorem execProfileWriteTimer_within {ps : List Area} {s0 : State} {s : State} (hm : Sub [.now, .pow] ps)
    (h : Within ps s0 s) :
    OutWithin ps s0 (execProfileWriteTimer s) := by
  unfold execProfileWriteTimer
  refine OutWithin.next ?_
  exact Within.ite (fun _ => h) (fun _ => writeProfile_within (hm.of ⟨rfl⟩) (advanceTo_within (hm.of ⟨rfl⟩) h))

theorem profileAct_within {ps : List Area} {s0 : State} {a0 : Bytes} {a1 : State} (hm : Sub [.pow] ps)
    (h : Within ps s0 a1) :
    WWithin ps s0 (profileAct a0 a1) := by
  unfold profileAct
  split
  · exact WWithin.done (writeProfile_within (hm.of ⟨rfl⟩) h)
  · split
    · exact WWithin.done (Within.put h)
    · exact .refuse

theorem execCapProfileWrite_within {ps : List Area} {s0 : State} {req : Req} {value : Bytes} {s : State}
    (hm : Sub [.events, .om, .pow] ps) (h : Within ps s0 s) :
    OutWithin ps s0 (execCapProfileWrite req value s) := by
  unfold execCapProfileWrite
  refine OutWithin.next ?_
  refine Within.ite (fun _ => ?_) (fun _ => ?_)
  · refine serveWrite_within (hm.of ⟨rfl⟩) ?_ ?_
    · intro x1 s2 h3
      exact profileAct_within (hm.of ⟨rfl⟩) h3
    · exact h
  · exact h

theorem execCapProfileClear_within {ps : List Area} {s0 : State} {req : Req} {value : Bytes} {s : State}
    (hm : Sub [.events, .om, .pow] ps) (h : Within ps s0 s) :
    OutWithin ps s0 (execCapProfileClear req value s) := by
  unfold execCapProfileClear
  refine OutWithin.next ?_
  refine Within.ite (fun _ => ?_) (fun _ => ?_)
  · refine serveWrite_within (hm.of ⟨rfl⟩) ?_ ?_
    · intro x1 s2 h3
      exact profileAct_within (hm.of ⟨rfl⟩) h3
    · exact h
  · exact h

theorem thermalStep_within {ps : List Area} {s0 : State} {s : State} (hm : Sub [.now, .pow] ps)
    (h : Within ps s0 s) :
    Within ps s0 (thermalStep s) := by
  unfold thermalStep
  split
  · extract_lets v6 v7 v8
    refine Within.mid (ps := ps) (a := s0) v7 ?_ (fun h9 => ?_)
    · unfold v7
      exact advanceTo_within (hm.of ⟨rfl⟩) h
    clear_value v7
    exact Within.put h9
  · exact h

theorem execThermalLimitStep_within {ps : List Area} {s0 : State} {s : State} (hm : Sub [.now, .pow] ps)
    (h : Within ps s0 s) :
    OutWithin ps s0 (execThermalLimitStep s) := by
  unfold execThermalLimitStep
  exact OutWithin.next (thermalStep_within (hm.of ⟨rfl⟩) h)

theorem thermalRise_within {ps : List Area} {s0 : State} {s : State}
    (hm : Sub [.now, .events, .clk, .host, .pow] ps) (h : Within ps s0 s) :
    Within ps s0 (thermalRise s) := by
  unfold thermalRise
  split
  · extract_lets v9 v10
    refine Within.mid (ps := ps) (a := s0) v9 ?_ (fun h11 => ?_)
    · unfold v9
      exact advanceTo_within (hm.of ⟨rfl⟩) h
    clear_value v9
    refine Within.ite (fun _ => ?_) (fun _ => ?_)
    · exact decideStep_within (hm.of ⟨rfl⟩) (Within.put h11)
    · refine decideStep_within (hm.of ⟨rfl⟩) ?_
      exact notify_within (hm.of ⟨rfl⟩) (raise_within (hm.of ⟨rfl⟩) (Within.put h11))
  · exact h

theorem execThermalLimitRise_within {ps : List Area} {s0 : State} {s : State}
    (hm : Sub [.now, .events, .clk, .host, .pow] ps) (h : Within ps s0 s) :
    OutWithin ps s0 (execThermalLimitRise s) := by
  unfold execThermalLimitRise
  exact OutWithin.next (thermalRise_within (hm.of ⟨rfl⟩) h)

theorem oxSample_within {ps : List Area} {s0 : State} {readings : List Int} {unsound : List Nat} {s : State}
    (hm : Sub [.counters, .dict, .events, .taken, .hen, .om, .frame, .start, .spad, .arith, .parts, .dma, .dram, .clk, .host, .pho, .sums, .lanes, .las, .ver, .fab, .pow, .sec, .twin] ps)
    (h : Within ps s0 s) :
    Within ps s0 (oxSample readings unsound s) := by
  unfold oxSample
  extract_lets v1 v2 v3 v4 v5
  refine Within.mid (ps := ps) (a := s0) v3 ?_ (fun h6 => ?_)
  · unfold v3
    exact Within.fold h (fun _ _ h9 => changeDiode_within (hm.of ⟨rfl⟩) h9)
  clear_value v3
  refine Within.ite (fun _ => ?_) (fun _ => ?_)
  · exact Within.put h6
  · split
    · exact oxTrip_within (hm.of ⟨rfl⟩) h6
    · exact h6

theorem execOxSample_within {ps : List Area} {s0 : State} {readings : List Int} {unsound : List (Fin 44)}
    {s : State}
    (hm : Sub [.counters, .dict, .events, .taken, .hen, .om, .frame, .start, .spad, .arith, .parts, .dma, .dram, .clk, .host, .pho, .sums, .lanes, .las, .ver, .fab, .pow, .sec, .twin] ps)
    (h : Within ps s0 s) :
    OutWithin ps s0 (execOxSample readings unsound s) := by
  unfold execOxSample
  exact OutWithin.next (oxSample_within (hm.of ⟨rfl⟩) h)

theorem oxRelease_within {ps : List Area} {s0 : State} {s : State}
    (hm : Sub [.now, .counters, .events, .pow] ps) (h : Within ps s0 s) :
    Within ps s0 (oxRelease s) := by
  unfold oxRelease
  split
  · extract_lets v7 v8 v9 v10
    refine Within.mid (ps := ps) (a := s0) v7 ?_ (fun h11 => ?_)
    · unfold v7
      exact advanceTo_within (hm.of ⟨rfl⟩) h
    clear_value v7
    exact chooseInput_within (hm.of ⟨rfl⟩) (Within.put h11)
  · exact h

theorem execOxRelease_within {ps : List Area} {s0 : State} {s : State}
    (hm : Sub [.now, .counters, .events, .pow] ps) (h : Within ps s0 s) :
    OutWithin ps s0 (execOxRelease s) := by
  unfold execOxRelease
  exact OutWithin.next (oxRelease_within (hm.of ⟨rfl⟩) h)

end Sys2Proof.Machine
end

