-- ==== Sys2Proof/Laws/WithinSecurity.lean ====
section
/-! SUPPORT. Which parts of the state the operations of Machine/Security.lean can write: one lemma for each. -/

set_option Elab.async false

namespace Sys2Proof.Machine

theorem applyTable_within {ps : List Area} {s0 : State} {t : Nat} {tab : Bytes} {s : State}
    (hm : Sub [.dict, .events, .sec] ps) (h : Within ps s0 s) :
    Within ps s0 (applyTable t tab s) := by
  unfold applyTable
  exact raise_within (hm.of ⟨rfl⟩) (setDict_within (hm.of ⟨rfl⟩) h)

theorem securityBoundary_within {ps : List Area} {s0 : State} {s : State}
    (hm : Sub [.dict, .events, .om, .sec] ps) (h : Within ps s0 s) :
    Within ps s0 (securityBoundary s) := by
  unfold securityBoundary
  extract_lets v1 v2 v3 v4 v5 v6 v7
  refine Within.mid (ps := ps) (a := s0) v2 ?_ (fun h8 => ?_)
  · unfold v2
    split
    · exact h
    · exact answerWaiting_within (hm.of ⟨rfl⟩) (setDict_within (hm.of ⟨rfl⟩) (Within.put h))
  clear_value v2
  refine Within.mid (ps := ps) (a := s0) v4 ?_ (fun h14 => ?_)
  · unfold v4
    refine Within.fold ?_ (fun s15 x16 h17 => ?_)
    · exact Within.put h8
    · exact answerWaiting_within (hm.of ⟨rfl⟩) (applyTable_within (hm.of ⟨rfl⟩) h17)
  clear_value v4
  refine Within.mid (ps := ps) (a := s0) v6 ?_ (fun h18 => ?_)
  · unfold v6
    exact Within.ite (fun _ => Within.put h14) (fun _ => h14)
  clear_value v6
  exact Within.put h18

theorem markClean_within {ps : List Area} {s0 : State} {t : Nat} {s : State} (hm : Sub [.events, .sec] ps)
    (h : Within ps s0 s) :
    Within ps s0 (markClean t s) := by
  unfold markClean
  exact raise_within (hm.of ⟨rfl⟩) (Within.put h)

theorem scrubDone_within {ps : List Area} {s0 : State} {t : Nat} {s : State}
    (hm : Sub [.now, .events, .dram, .sec] ps) (h : Within ps s0 s) :
    Within ps s0 (scrubDone t s) := by
  unfold scrubDone
  refine Within.ite (fun _ => ?_) (fun _ => ?_)
  · exact h
  · extract_lets v1 v2 v3
    refine Within.mid (ps := ps) (a := s0) v2 ?_ (fun h4 => ?_)
    · unfold v2
      exact endScrub_within (hm.of ⟨rfl⟩) (advanceTo_within (hm.of ⟨rfl⟩) h)
    clear_value v2
    refine Within.ite (fun _ => ?_) (fun _ => ?_)
    · exact h4
    · exact Within.ite (fun _ => markClean_within (hm.of ⟨rfl⟩) h4) (fun _ => Within.put h4)

theorem execScrubDone_within {ps : List Area} {s0 : State} {tower : Tower} {s : State}
    (hm : Sub [.now, .events, .dram, .sec] ps) (h : Within ps s0 s) :
    OutWithin ps s0 (execScrubDone tower s) := by
  unfold execScrubDone
  exact OutWithin.next (scrubDone_within (hm.of ⟨rfl⟩) h)

theorem worldMapAct_within {ps : List Area} {s0 : State} {a0 : Bytes} {a1 : State} (hm : Sub [.dict, .sec] ps)
    (h : Within ps s0 a1) :
    WWithin ps s0 (worldMapAct a0 a1) := by
  unfold worldMapAct
  extract_lets v1 v2
  split
  · exact .refuse
  · split
    · exact .refuse
    · split
      · exact WWithin.wait (Within.put h)
      · exact WWithin.done (setDict_within (hm.of ⟨rfl⟩) h)

theorem execWorldMapWrite_within {ps : List Area} {s0 : State} {req : Req} {value : Bytes} {s : State}
    (hm : Sub [.dict, .events, .om, .sec] ps) (h : Within ps s0 s) :
    OutWithin ps s0 (execWorldMapWrite req value s) := by
  unfold execWorldMapWrite
  refine OutWithin.next ?_
  refine serveWrite_within (hm.of ⟨rfl⟩) ?_ ?_
  · intro x1 s2 h3
    exact worldMapAct_within (hm.of ⟨rfl⟩) h3
  · exact h

theorem regionTableAct_within {ps : List Area} {s0 : State} {t : Nat} {a1 : Bytes} {a2 : State}
    (hm : Sub [.dict, .events, .sec] ps) (h : Within ps s0 a2) :
    WWithin ps s0 (regionTableAct t a1 a2) := by
  unfold regionTableAct
  extract_lets v1 v2 v3 v4 v5
  split
  · exact .refuse
  · split
    · exact .refuse
    · split
      · exact .refuse
      · split
        · exact WWithin.wait (Within.put h)
        · exact WWithin.done (applyTable_within (hm.of ⟨rfl⟩) h)

theorem execRegionTableWrite_within {ps : List Area} {s0 : State} {req : Req} {tower : Tower} {value : Bytes}
    {s : State} (hm : Sub [.dict, .events, .om, .sec] ps) (h : Within ps s0 s) :
    OutWithin ps s0 (execRegionTableWrite req tower value s) := by
  unfold execRegionTableWrite
  refine OutWithin.next ?_
  refine serveWrite_within (hm.of ⟨rfl⟩) ?_ ?_
  · intro x1 s2 h3
    exact regionTableAct_within (hm.of ⟨rfl⟩) h3
  · exact h

theorem stagingAct_within {ps : List Area} {s0 : State} {a0 : Bytes} {a1 : State} (hm : Sub [.sec] ps)
    (h : Within ps s0 a1) :
    WWithin ps s0 (stagingAct a0 a1) := by
  unfold stagingAct
  split
  · exact .refuse
  · split
    · exact .refuse
    · exact WWithin.done (Within.put h)

theorem execImageStaging_within {ps : List Area} {s0 : State} {req : Req} {value : Bytes} {s : State}
    (hm : Sub [.events, .om, .sec] ps) (h : Within ps s0 s) :
    OutWithin ps s0 (execImageStaging req value s) := by
  unfold execImageStaging
  refine OutWithin.next ?_
  refine serveWrite_within (hm.of ⟨rfl⟩) ?_ ?_
  · intro x1 s2 h3
    exact stagingAct_within (hm.of ⟨rfl⟩) h3
  · exact h

theorem updateAct_within {ps : List Area} {s0 : State} {a0 : Bytes} {a1 : State} (hm : Sub [.sec] ps)
    (h : Within ps s0 a1) :
    WWithin ps s0 (updateAct a0 a1) := by
  unfold updateAct
  split
  · split
    · exact WWithin.done (Within.put h)
    · exact .refuse
  · split
    · exact WWithin.done (Within.put h)
    · exact .refuse
  · split
    · exact WWithin.done (Within.put h)
    · exact .refuse
  · split
    · exact WWithin.done (Within.put h)
    · exact .refuse
  · split
    · exact WWithin.done (Within.put h)
    · exact .refuse
  · exact .refuse

theorem execVerify_within {ps : List Area} {s0 : State} {req : Req} {value : Bytes} {s : State}
    (hm : Sub [.events, .om, .sec] ps) (h : Within ps s0 s) :
    OutWithin ps s0 (execVerify req value s) := by
  unfold execVerify
  refine OutWithin.next ?_
  refine Within.ite (fun _ => ?_) (fun _ => ?_)
  · refine serveWrite_within (hm.of ⟨rfl⟩) ?_ ?_
    · intro x1 s2 h3
      exact updateAct_within (hm.of ⟨rfl⟩) h3
    · exact h
  · exact h

theorem verifyDone_within {ps : List Area} {s0 : State} {s : State} (hm : Sub [.events, .sec] ps)
    (h : Within ps s0 s) :
    Within ps s0 (verifyDone s) := by
  unfold verifyDone
  refine Within.ite (fun _ => ?_) (fun _ => ?_)
  · exact h
  · split
    · exact raise_within (hm.of ⟨rfl⟩) (Within.put h)
    · exact raise_within (hm.of ⟨rfl⟩) (Within.put h)

theorem execImageVerifyDone_within {ps : List Area} {s0 : State} {s : State} (hm : Sub [.events, .sec] ps)
    (h : Within ps s0 s) :
    OutWithin ps s0 (execImageVerifyDone s) := by
  unfold execImageVerifyDone
  exact OutWithin.next (verifyDone_within (hm.of ⟨rfl⟩) h)

theorem execActivate_within {ps : List Area} {s0 : State} {req : Req} {value : Bytes} {s : State}
    (hm : Sub [.events, .om, .sec] ps) (h : Within ps s0 s) :
    OutWithin ps s0 (execActivate req value s) := by
  unfold execActivate
  refine OutWithin.next ?_
  refine Within.ite (fun _ => ?_) (fun _ => ?_)
  · refine serveWrite_within (hm.of ⟨rfl⟩) ?_ ?_
    · intro x1 s2 h3
      exact updateAct_within (hm.of ⟨rfl⟩) h3
    · exact h
  · exact h

theorem activationDone_within {ps : List Area} {s0 : State} {s : State}
    (hm : Sub [.now, .events, .om, .host, .sec] ps) (h : Within ps s0 s) :
    Within ps s0 (activationDone s) := by
  unfold activationDone
  split
  · exact h
  · extract_lets v6 v7 v8 v9
    refine Within.mid (ps := ps) (a := s0) v6 ?_ (fun h10 => ?_)
    · unfold v6
      exact advanceTo_within (hm.of ⟨rfl⟩) h
    clear_value v6
    refine Within.mid (ps := ps) (a := s0) v8 ?_ (fun h11 => ?_)
    · unfold v8
      exact Within.put h10
    clear_value v8
    refine Within.mid (ps := ps) (a := s0) v9 ?_ (fun h12 => ?_)
    · unfold v9
      exact notify_within (hm.of ⟨rfl⟩) (raise_within (hm.of ⟨rfl⟩) h11)
    clear_value v9
    exact Within.fold h12 (fun _ _ h15 => releaseHeld_within (hm.of ⟨rfl⟩) h15)

theorem execActivationDone_within {ps : List Area} {s0 : State} {s : State}
    (hm : Sub [.now, .events, .om, .host, .sec] ps) (h : Within ps s0 s) :
    OutWithin ps s0 (execActivationDone s) := by
  unfold execActivationDone
  exact OutWithin.next (activationDone_within (hm.of ⟨rfl⟩) h)

theorem execImageCommit_within {ps : List Area} {s0 : State} {req : Req} {value : Bytes} {s : State}
    (hm : Sub [.events, .om, .sec] ps) (h : Within ps s0 s) :
    OutWithin ps s0 (execImageCommit req value s) := by
  unfold execImageCommit
  refine OutWithin.next ?_
  refine Within.ite (fun _ => ?_) (fun _ => ?_)
  · refine serveWrite_within (hm.of ⟨rfl⟩) ?_ ?_
    · intro x1 s2 h3
      exact updateAct_within (hm.of ⟨rfl⟩) h3
    · exact h
  · exact h

theorem commitDone_within {ps : List Area} {s0 : State} {ok : Bool} {s : State}
    (hm : Sub [.events, .start, .sec] ps) (h : Within ps s0 s) :
    Within ps s0 (commitDone ok s) := by
  unfold commitDone
  refine Within.ite (fun _ => ?_) (fun _ => ?_)
  · exact h
  · refine Within.ite (fun _ => ?_) (fun _ => ?_)
    · exact Within.put h
    · extract_lets v1 v2
      exact raise_within (hm.of ⟨rfl⟩) (Within.put h)

theorem execImageCommitDone_within {ps : List Area} {s0 : State} {ok : Bool} {s : State}
    (hm : Sub [.events, .start, .sec] ps) (h : Within ps s0 s) :
    OutWithin ps s0 (execImageCommitDone ok s) := by
  unfold execImageCommitDone
  exact OutWithin.next (commitDone_within (hm.of ⟨rfl⟩) h)

theorem commitRetry_within {ps : List Area} {s0 : State} {s : State} (hm : Sub [.now, .sec] ps)
    (h : Within ps s0 s) :
    Within ps s0 (commitRetry s) := by
  unfold commitRetry
  split
  · exact h
  · extract_lets v6 v7
    refine Within.mid (ps := ps) (a := s0) v6 ?_ (fun h8 => ?_)
    · unfold v6
      exact advanceTo_within (hm.of ⟨rfl⟩) h
    clear_value v6
    exact Within.put h8

theorem execImageCommitRetry_within {ps : List Area} {s0 : State} {s : State} (hm : Sub [.now, .sec] ps)
    (h : Within ps s0 s) :
    OutWithin ps s0 (execImageCommitRetry s) := by
  unfold execImageCommitRetry
  exact OutWithin.next (commitRetry_within (hm.of ⟨rfl⟩) h)

theorem execAdvanceSvn_within {ps : List Area} {s0 : State} {req : Req} {value : Bytes} {s : State}
    (hm : Sub [.events, .om, .sec] ps) (h : Within ps s0 s) :
    OutWithin ps s0 (execAdvanceSvn req value s) := by
  unfold execAdvanceSvn
  refine OutWithin.next ?_
  refine Within.ite (fun _ => ?_) (fun _ => ?_)
  · refine serveWrite_within (hm.of ⟨rfl⟩) ?_ ?_
    · intro x1 s2 h3
      exact updateAct_within (hm.of ⟨rfl⟩) h3
    · exact h
  · exact h

theorem answerSpdm_within {ps : List Area} {s0 : State} {x : SpdmPath} {a : SpdmAnswer} {s : State}
    (hm : Sub [.sec] ps) (h : Within ps s0 s) :
    Within ps s0 (answerSpdm x a s) := by
  unfold answerSpdm
  exact Within.put h

theorem negotiate_within {ps : List Area} {s0 : State} {x : SpdmPath} {level : Nat} {s : State}
    (hm : Sub [.sec] ps) (h : Within ps s0 s) :
    Within ps s0 (negotiate x level s) := by
  unfold negotiate
  exact Within.put h

theorem execGetVersion_within {ps : List Area} {s0 : State} {path : SpdmPath} {request : Bytes} {s : State}
    (hm : Sub [.sec] ps) (h : Within ps s0 s) :
    OutWithin ps s0 (execGetVersion path request s) := by
  unfold execGetVersion
  refine OutWithin.next ?_
  refine Within.ite (fun _ => ?_) (fun _ => ?_)
  · exact h
  · extract_lets v1 v2
    refine Within.mid (ps := ps) (a := s0) v2 ?_ (fun h3 => ?_)
    · unfold v2
      exact Within.put h
    clear_value v2
    exact answerSpdm_within (hm.of ⟨rfl⟩) (negotiate_within (hm.of ⟨rfl⟩) h3)

theorem record__within {ps : List Area} {s0 : State} {x : SpdmPath} {request : Bytes} {s : State}
    (hm : Sub [.sec] ps) (h : Within ps s0 s) :
    Within ps s0 (record_ x request s) := by
  unfold record_
  exact Within.put h

theorem onSpdm_within {ps : List Area} {s0 : State} {x : SpdmPath} {level : Nat} {request : Bytes}
    {act : State → State} {s : State} (hm : Sub [.sec] ps)
    (h_act : ∀ (z0 : State), Within ps s0 z0 → Within ps s0 (act z0)) (h : Within ps s0 s) :
    Within ps s0 (onSpdm x level request act s) := by
  unfold onSpdm
  refine Within.ite (fun _ => ?_) (fun _ => ?_)
  · exact h
  · refine Within.ite (fun _ => ?_) (fun _ => ?_)
    · exact answerSpdm_within (hm.of ⟨rfl⟩) h
    · exact h_act _ (record__within (hm.of ⟨rfl⟩) h)

theorem execGetCapabilities_within {ps : List Area} {s0 : State} {path : SpdmPath} {request : Bytes} {s : State}
    (hm : Sub [.sec] ps) (h : Within ps s0 s) :
    OutWithin ps s0 (execGetCapabilities path request s) := by
  unfold execGetCapabilities
  refine OutWithin.next ?_
  refine onSpdm_within (hm.of ⟨rfl⟩) ?_ ?_
  · intro s1 h2
    exact answerSpdm_within (hm.of ⟨rfl⟩) (negotiate_within (hm.of ⟨rfl⟩) h2)
  · exact h

theorem execNegotiateAlgorithms_within {ps : List Area} {s0 : State} {path : SpdmPath} {request : Bytes}
    {offer : SpdmOffer} {s : State} (hm : Sub [.sec] ps) (h : Within ps s0 s) :
    OutWithin ps s0 (execNegotiateAlgorithms path request offer s) := by
  unfold execNegotiateAlgorithms
  extract_lets v1
  refine OutWithin.next ?_
  refine onSpdm_within (hm.of ⟨rfl⟩) ?_ ?_
  · intro s2 h3
    refine Within.ite (fun _ => ?_) (fun _ => ?_)
    · exact answerSpdm_within (hm.of ⟨rfl⟩) (negotiate_within (hm.of ⟨rfl⟩) h3)
    · exact answerSpdm_within (hm.of ⟨rfl⟩) h3
  · exact h

theorem execGetDigests_within {ps : List Area} {s0 : State} {path : SpdmPath} {request : Bytes} {s : State}
    (hm : Sub [.sec] ps) (h : Within ps s0 s) :
    OutWithin ps s0 (execGetDigests path request s) := by
  unfold execGetDigests
  refine OutWithin.next ?_
  refine onSpdm_within (hm.of ⟨rfl⟩) ?_ ?_
  · intro s1 h2
    exact answerSpdm_within (hm.of ⟨rfl⟩) h2
  · exact h

theorem execGetCertificate_within {ps : List Area} {s0 : State} {path : SpdmPath} {request : Bytes}
    {slot : Fin 8} {offset : BitVec 16} {length : BitVec 16} {s : State} (hm : Sub [.sec] ps)
    (h : Within ps s0 s) :
    OutWithin ps s0 (execGetCertificate path request slot offset length s) := by
  unfold execGetCertificate
  refine OutWithin.next ?_
  refine onSpdm_within (hm.of ⟨rfl⟩) ?_ ?_
  · intro s1 h2
    exact answerSpdm_within (hm.of ⟨rfl⟩) h2
  · exact h

theorem execChallenge_within {ps : List Area} {s0 : State} {path : SpdmPath} {request : Bytes} {slot : Fin 8}
    {s : State} (hm : Sub [.sec] ps) (h : Within ps s0 s) :
    OutWithin ps s0 (execChallenge path request slot s) := by
  unfold execChallenge
  refine OutWithin.next ?_
  refine onSpdm_within (hm.of ⟨rfl⟩) ?_ ?_
  · intro s1 h2
    exact answerSpdm_within (hm.of ⟨rfl⟩) h2
  · exact h

theorem execGetMeasurements_within {ps : List Area} {s0 : State} {path : SpdmPath} {request : Bytes}
    {index : BitVec 8} {signature : Bool} {s : State} (hm : Sub [.sec] ps) (h : Within ps s0 s) :
    OutWithin ps s0 (execGetMeasurements path request index signature s) := by
  unfold execGetMeasurements
  refine OutWithin.next ?_
  refine onSpdm_within (hm.of ⟨rfl⟩) ?_ ?_
  · intro s1 h2
    refine Within.ite (fun _ => ?_) (fun _ => ?_)
    · exact answerSpdm_within (hm.of ⟨rfl⟩) h2
    · exact Within.ite (fun _ => answerSpdm_within (hm.of ⟨rfl⟩) h2) (fun _ => answerSpdm_within (hm.of ⟨rfl⟩) h2)
  · exact h

theorem keyExchange_within {ps : List Area} {s0 : State} {x : SpdmPath} {asRequester : Bool} {s : State}
    (hm : Sub [.sec] ps) (h : Within ps s0 s) :
    Within ps s0 (keyExchange x asRequester s) := by
  unfold keyExchange
  refine Within.ite (fun _ => ?_) (fun _ => ?_)
  · exact answerSpdm_within (hm.of ⟨rfl⟩) h
  · extract_lets v1 v2 v3 v4 v5
    refine Within.mid (ps := ps) (a := s0) v5 ?_ (fun h6 => ?_)
    · unfold v5
      exact Within.put h
    clear_value v5
    exact answerSpdm_within (hm.of ⟨rfl⟩) h6

theorem execKeyExchange_within {ps : List Area} {s0 : State} {path : SpdmPath} {request : Bytes}
    {asRequester : Bool} {s : State} (hm : Sub [.sec] ps) (h : Within ps s0 s) :
    OutWithin ps s0 (execKeyExchange path request asRequester s) := by
  unfold execKeyExchange
  refine OutWithin.next ?_
  refine onSpdm_within (hm.of ⟨rfl⟩) ?_ ?_
  · intro s1 h2
    exact keyExchange_within (hm.of ⟨rfl⟩) h2
  · exact h

theorem changeSession_within {ps : List Area} {s0 : State} {id : BitVec 32} {f : SpdmSession → SpdmSession}
    {s : State} (hm : Sub [.sec] ps) (h : Within ps s0 s) :
    Within ps s0 (changeSession id f s) := by
  unfold changeSession
  exact Within.put h

theorem firstKeys_within {ps : List Area} {s0 : State} {p : Nat} {s : State}
    (hm : Sub [.free, .counters, .events, .lanes, .ver, .fab] ps) (h : Within ps s0 s) :
    Within ps s0 (firstKeys p s) := by
  unfold firstKeys
  refine Within.ite (fun _ => ?_) (fun _ => ?_)
  · exact h
  · extract_lets v1
    refine pumpPort_within (hm.of ⟨rfl⟩) ?_
    simp only [v1]
    exact Within.put h

theorem finishSession_within {ps : List Area} {s0 : State} {x : SpdmPath} {id : BitVec 32} {trusted : Bool}
    {s : State} (hm : Sub [.free, .counters, .events, .lanes, .ver, .fab, .sec] ps) (h : Within ps s0 s) :
    Within ps s0 (finishSession x id trusted s) := by
  unfold finishSession
  split
  · exact answerSpdm_within (hm.of ⟨rfl⟩) h
  · refine Within.ite (fun _ => ?_) (fun _ => ?_)
    · exact answerSpdm_within (hm.of ⟨rfl⟩) h
    · refine Within.ite (fun _ => ?_) (fun _ => ?_)
      · exact answerSpdm_within (hm.of ⟨rfl⟩) (Within.put h)
      · extract_lets v6 v7
        refine Within.mid (ps := ps) (a := s0) v6 ?_ (fun h8 => ?_)
        · unfold v6
          exact changeSession_within (hm.of ⟨rfl⟩) h
        clear_value v6
        refine Within.mid (ps := ps) (a := s0) v7 ?_ (fun h9 => ?_)
        · unfold v7
          exact raise_within (hm.of ⟨rfl⟩) (answerSpdm_within (hm.of ⟨rfl⟩) h8)
        clear_value v7
        split
        · exact h9
        · exact firstKeys_within (hm.of ⟨rfl⟩) h9

theorem execFinish_within {ps : List Area} {s0 : State} {path : SpdmPath} {request : Bytes}
    {session : BitVec 32} {trusted : Bool} {s : State}
    (hm : Sub [.free, .counters, .events, .lanes, .ver, .fab, .sec] ps) (h : Within ps s0 s) :
    OutWithin ps s0 (execFinish path request session trusted s) := by
  unfold execFinish
  refine OutWithin.next ?_
  refine onSpdm_within (hm.of ⟨rfl⟩) ?_ ?_
  · intro s1 h2
    exact finishSession_within (hm.of ⟨rfl⟩) h2
  · exact h

theorem inSession_within {ps : List Area} {s0 : State} {x : SpdmPath} {id : BitVec 32} {act : State → State}
    {s : State} (hm : Sub [.sec] ps) (h_act : ∀ (z0 : State), Within ps s0 z0 → Within ps s0 (act z0))
    (h : Within ps s0 s) :
    Within ps s0 (inSession x id act s) := by
  unfold inSession
  refine Within.ite (fun _ => ?_) (fun _ => ?_)
  · exact h
  · split
    · exact answerSpdm_within (hm.of ⟨rfl⟩) h
    · exact Within.ite (fun _ => h_act _ h) (fun _ => answerSpdm_within (hm.of ⟨rfl⟩) h)

theorem execKeyUpdate_within {ps : List Area} {s0 : State} {path : SpdmPath} {session : BitVec 32} {s : State}
    (hm : Sub [.sec] ps) (h : Within ps s0 s) :
    OutWithin ps s0 (execKeyUpdate path session s) := by
  unfold execKeyUpdate
  refine OutWithin.next ?_
  refine inSession_within (hm.of ⟨rfl⟩) ?_ ?_
  · intro s1 h2
    exact answerSpdm_within (hm.of ⟨rfl⟩) (changeSession_within (hm.of ⟨rfl⟩) h2)
  · exact h

theorem execHeartbeat_within {ps : List Area} {s0 : State} {path : SpdmPath} {session : BitVec 32} {s : State}
    (hm : Sub [.sec] ps) (h : Within ps s0 s) :
    OutWithin ps s0 (execHeartbeat path session s) := by
  unfold execHeartbeat
  refine OutWithin.next ?_
  refine inSession_within (hm.of ⟨rfl⟩) ?_ ?_
  · intro s1 h2
    exact answerSpdm_within (hm.of ⟨rfl⟩) h2
  · exact h

theorem endSession_within {ps : List Area} {s0 : State} {x : SpdmPath} {id : BitVec 32} {s : State}
    (hm : Sub [.free, .counters, .events, .pho, .lanes, .ver, .fab, .sec] ps) (h : Within ps s0 s) :
    Within ps s0 (endSession x id s) := by
  unfold endSession
  extract_lets v1 v2 v3 v4
  refine Within.mid (ps := ps) (a := s0) v2 ?_ (fun h5 => ?_)
  · unfold v2
    exact Within.put h
  clear_value v2
  refine Within.mid (ps := ps) (a := s0) v3 ?_ (fun h6 => ?_)
  · unfold v3
    exact raise_within (hm.of ⟨rfl⟩) h5
  clear_value v3
  split
  · exact h6
  · refine Within.ite (fun _ => ?_) (fun _ => ?_)
    · extract_lets v12
      refine Within.mid (ps := ps) (a := s0) v12 ?_ (fun h13 => ?_)
      · unfold v12
        exact Within.put h6
      clear_value v12
      exact linkDown_within (hm.of ⟨rfl⟩) h13
    · exact h6

theorem execEndSession_within {ps : List Area} {s0 : State} {path : SpdmPath} {session : BitVec 32} {s : State}
    (hm : Sub [.free, .counters, .events, .pho, .lanes, .ver, .fab, .sec] ps) (h : Within ps s0 s) :
    OutWithin ps s0 (execEndSession path session s) := by
  unfold execEndSession
  refine OutWithin.next ?_
  refine inSession_within (hm.of ⟨rfl⟩) ?_ ?_
  · intro s1 h2
    exact endSession_within (hm.of ⟨rfl⟩) (answerSpdm_within (hm.of ⟨rfl⟩) h2)
  · exact h

theorem installKey_within {ps : List Area} {s0 : State} {session : BitVec 32} {stream : Option (Fin 16)}
    {keySet : Fin 2} {s : State} (hm : Sub [.sec] ps) (h : Within ps s0 s) :
    Within ps s0 (installKey session stream keySet s) := by
  unfold installKey
  extract_lets v1 v2 v3
  refine inSession_within (hm.of ⟨rfl⟩) ?_ ?_
  · intro s4 h5
    exact answerSpdm_within (hm.of ⟨rfl⟩) (Within.put h5)
  · exact h

theorem execIdeKeyInstall_within {ps : List Area} {s0 : State} {session : BitVec 32} {stream : Option (Fin 16)}
    {keySet : Fin 2} {s : State} (hm : Sub [.sec] ps) (h : Within ps s0 s) :
    OutWithin ps s0 (execIdeKeyInstall session stream keySet s) := by
  unfold execIdeKeyInstall
  exact OutWithin.next (installKey_within (hm.of ⟨rfl⟩) h)

theorem execIdeFault_within {ps : List Area} {s0 : State} {function : Option Function} {s : State}
    (hm : Sub [.events, .parts, .dma, .host, .sec] ps) (h : Within ps s0 s) :
    OutWithin ps s0 (execIdeFault function s) := by
  unfold execIdeFault
  extract_lets v1 v2
  refine Within.mid (ps := ps) (a := s0) v2 ?_ (fun h3 => ?_)
  · unfold v2
    exact raise_within (hm.of ⟨rfl⟩) h
  clear_value v2
  refine OutWithin.next ?_
  clear_value v1
  split
  · exact h3
  · exact tdiFail_within (hm.of ⟨rfl⟩) h3

theorem onTdisp_within {ps : List Area} {s0 : State} {f : Nat} {act : State → State} {s : State}
    (hm : Sub [.sec] ps) (h_act : ∀ (z0 : State), Within ps s0 z0 → Within ps s0 (act z0)) (h : Within ps s0 s)
    :
    Within ps s0 (onTdisp f act s) := by
  unfold onTdisp
  refine Within.ite (fun _ => ?_) (fun _ => ?_)
  · exact h
  · exact Within.ite (fun _ => h_act _ h) (fun _ => answerSpdm_within (hm.of ⟨rfl⟩) h)

theorem execGetTdispVersion_within {ps : List Area} {s0 : State} {function : Function} {s : State}
    (hm : Sub [.sec] ps) (h : Within ps s0 s) :
    OutWithin ps s0 (execGetTdispVersion function s) := by
  unfold execGetTdispVersion
  refine OutWithin.next ?_
  refine onTdisp_within (hm.of ⟨rfl⟩) ?_ ?_
  · intro s1 h2
    exact answerSpdm_within (hm.of ⟨rfl⟩) h2
  · exact h

theorem execGetTdispCapabilities_within {ps : List Area} {s0 : State} {function : Function} {s : State}
    (hm : Sub [.sec] ps) (h : Within ps s0 s) :
    OutWithin ps s0 (execGetTdispCapabilities function s) := by
  unfold execGetTdispCapabilities
  refine OutWithin.next ?_
  refine onTdisp_within (hm.of ⟨rfl⟩) ?_ ?_
  · intro s1 h2
    exact answerSpdm_within (hm.of ⟨rfl⟩) h2
  · exact h

theorem lockInterface_within {ps : List Area} {s0 : State} {f : Nat} {s : State}
    (hm : Sub [.events, .host, .sec] ps) (h : Within ps s0 s) :
    Within ps s0 (lockInterface f s) := by
  unfold lockInterface
  refine Within.ite (fun _ => ?_) (fun _ => ?_)
  · exact answerSpdm_within (hm.of ⟨rfl⟩) (setTdi_within (hm.of ⟨rfl⟩) h)
  · exact answerSpdm_within (hm.of ⟨rfl⟩) h

theorem execLockInterface_within {ps : List Area} {s0 : State} {function : Function} {s : State}
    (hm : Sub [.events, .host, .sec] ps) (h : Within ps s0 s) :
    OutWithin ps s0 (execLockInterface function s) := by
  unfold execLockInterface
  refine OutWithin.next ?_
  refine onTdisp_within (hm.of ⟨rfl⟩) ?_ ?_
  · intro s1 h2
    exact lockInterface_within (hm.of ⟨rfl⟩) h2
  · exact h

theorem interfaceReport_within {ps : List Area} {s0 : State} {f : Nat} {s : State} (hm : Sub [.sec] ps)
    (h : Within ps s0 s) :
    Within ps s0 (interfaceReport f s) := by
  unfold interfaceReport
  extract_lets v1
  exact answerSpdm_within (hm.of ⟨rfl⟩) h

theorem execGetDeviceInterfaceReport_within {ps : List Area} {s0 : State} {function : Function} {s : State}
    (hm : Sub [.sec] ps) (h : Within ps s0 s) :
    OutWithin ps s0 (execGetDeviceInterfaceReport function s) := by
  unfold execGetDeviceInterfaceReport
  refine OutWithin.next ?_
  refine onTdisp_within (hm.of ⟨rfl⟩) ?_ ?_
  · intro s1 h2
    exact interfaceReport_within (hm.of ⟨rfl⟩) h2
  · exact h

theorem execGetDeviceInterfaceState_within {ps : List Area} {s0 : State} {function : Function} {s : State}
    (hm : Sub [.sec] ps) (h : Within ps s0 s) :
    OutWithin ps s0 (execGetDeviceInterfaceState function s) := by
  unfold execGetDeviceInterfaceState
  refine OutWithin.next ?_
  refine onTdisp_within (hm.of ⟨rfl⟩) ?_ ?_
  · intro s1 h2
    exact answerSpdm_within (hm.of ⟨rfl⟩) h2
  · exact h

theorem startInterface_within {ps : List Area} {s0 : State} {f : Nat} {s : State}
    (hm : Sub [.events, .host, .sec] ps) (h : Within ps s0 s) :
    Within ps s0 (startInterface f s) := by
  unfold startInterface
  refine Within.ite (fun _ => ?_) (fun _ => ?_)
  · exact answerSpdm_within (hm.of ⟨rfl⟩) (setTdi_within (hm.of ⟨rfl⟩) h)
  · exact answerSpdm_within (hm.of ⟨rfl⟩) h

theorem execStartInterface_within {ps : List Area} {s0 : State} {function : Function} {s : State}
    (hm : Sub [.events, .host, .sec] ps) (h : Within ps s0 s) :
    OutWithin ps s0 (execStartInterface function s) := by
  unfold execStartInterface
  refine OutWithin.next ?_
  refine onTdisp_within (hm.of ⟨rfl⟩) ?_ ?_
  · intro s1 h2
    exact startInterface_within (hm.of ⟨rfl⟩) h2
  · exact h

theorem execStopInterface_within {ps : List Area} {s0 : State} {function : Function} {s : State}
    (hm : Sub [.events, .host, .sec] ps) (h : Within ps s0 s) :
    OutWithin ps s0 (execStopInterface function s) := by
  unfold execStopInterface
  refine OutWithin.next ?_
  refine onTdisp_within (hm.of ⟨rfl⟩) ?_ ?_
  · intro s1 h2
    exact answerSpdm_within (hm.of ⟨rfl⟩) (setTdi_within (hm.of ⟨rfl⟩) h2)
  · exact h

theorem powerCycle_within {ps : List Area} {s0 : State} {t : Nat} {s : State} (hm : Sub [.spad, .arith, .parts, .clk] ps)
    (h : Within ps s0 s) : Within ps s0 (powerCycle t s) := by
  unfold powerCycle
  exact Within.put (Within.fold h (fun _ _ h' => clearCluster_within (hm.of ⟨rfl⟩) h'))

theorem emptyHub_within {ps : List Area} {s0 : State} {t : Nat} {s : State} (hm : Sub [.dma, .dram, .pho] ps)
    (h : Within ps s0 s) :
    Within ps s0 (emptyHub t s) := by
  unfold emptyHub
  exact Within.put h

theorem startHandover_within {ps : List Area} {s0 : State} {t : Nat} {s : State}
    (hm : Sub [.dict, .spad, .arith, .parts, .dma, .dram, .clk, .pho, .sec] ps) (h : Within ps s0 s) :
    Within ps s0 (startHandover t s) := by
  unfold startHandover
  extract_lets v1 v2 v3 v4
  refine Within.mid (ps := ps) (a := s0) v1 ?_ (fun h5 => ?_)
  · unfold v1
    exact powerCycle_within (hm.of ⟨rfl⟩) (emptyHub_within (hm.of ⟨rfl⟩) h)
  clear_value v1
  refine Within.mid (ps := ps) (a := s0) v2 ?_ (fun h6 => ?_)
  · unfold v2
    exact setDict_within (hm.of ⟨rfl⟩) h5
  clear_value v2
  refine Within.mid (ps := ps) (a := s0) v3 ?_ (fun h7 => ?_)
  · unfold v3
    exact startScrub_within (hm.of ⟨rfl⟩) h6
  clear_value v3
  exact Within.put h7

theorem tenantHandoverAct_within {ps : List Area} {s0 : State} {a0 : Bytes} {a1 : State}
    (hm : Sub [.dict, .om, .spad, .arith, .parts, .dma, .dram, .clk, .pho, .sec] ps) (h : Within ps s0 a1) :
    WWithin ps s0 (tenantHandoverAct a0 a1) := by
  unfold tenantHandoverAct
  extract_lets v1 v2
  split
  · exact .refuse
  · split
    · exact .refuse
    · refine WWithin.done ?_
      refine Within.fold ?_ (fun s7 x8 h9 => ?_)
      · exact h
      · exact answerWaiting_within (hm.of ⟨rfl⟩) (startHandover_within (hm.of ⟨rfl⟩) h9)

theorem execTenantHandover_within {ps : List Area} {s0 : State} {req : Req} {value : Bytes} {s : State}
    (hm : Sub [.dict, .events, .om, .spad, .arith, .parts, .dma, .dram, .clk, .pho, .sec] ps)
    (h : Within ps s0 s) :
    OutWithin ps s0 (execTenantHandover req value s) := by
  unfold execTenantHandover
  refine OutWithin.next ?_
  refine serveWrite_within (hm.of ⟨rfl⟩) ?_ ?_
  · intro x1 s2 h3
    exact tenantHandoverAct_within (hm.of ⟨rfl⟩) h3
  · exact h

theorem portKeyAct_within {ps : List Area} {s0 : State} {a0 : Bytes} {a1 : State}
    (hm : Sub [.free, .counters, .events, .lanes, .ver, .fab] ps) (h : Within ps s0 a1) :
    WWithin ps s0 (portKeyAct a0 a1) := by
  unfold portKeyAct
  extract_lets v1
  split
  · exact .refuse
  · refine WWithin.done ?_
    exact Within.fold h (fun _ _ h6 => pumpPort_within (hm.of ⟨rfl⟩) (replaceKey_within (hm.of ⟨rfl⟩) h6))

theorem execPortKeyUpdate_within {ps : List Area} {s0 : State} {req : Req} {value : Bytes} {s : State}
    (hm : Sub [.free, .counters, .events, .om, .lanes, .ver, .fab] ps) (h : Within ps s0 s) :
    OutWithin ps s0 (execPortKeyUpdate req value s) := by
  unfold execPortKeyUpdate
  refine OutWithin.next ?_
  refine serveWrite_within (hm.of ⟨rfl⟩) ?_ ?_
  · intro x1 s2 h3
    exact portKeyAct_within (hm.of ⟨rfl⟩) h3
  · exact h

theorem cleanDelay_within {ps : List Area} {s0 : State} {t : Nat} {s : State}
    (hm : Sub [.now, .events, .sec] ps) (h : Within ps s0 s) :
    Within ps s0 (cleanDelay t s) := by
  unfold cleanDelay
  exact Within.ite (fun _ => markClean_within (hm.of ⟨rfl⟩) (advanceTo_within (hm.of ⟨rfl⟩) h)) (fun _ => h)

theorem execTenantCleanDelay_within {ps : List Area} {s0 : State} {tower : Tower} {s : State}
    (hm : Sub [.now, .events, .sec] ps) (h : Within ps s0 s) :
    OutWithin ps s0 (execTenantCleanDelay tower s) := by
  unfold execTenantCleanDelay
  exact OutWithin.next (cleanDelay_within (hm.of ⟨rfl⟩) h)

end Sys2Proof.Machine
end

