-- ==== Sys2Proof/Laws/WithinTasks.lean ====
section
/-! SUPPORT. Which parts of the state the operations of Machine/Tasks.lean can write: one lemma for each. -/

set_option Elab.async false

namespace Sys2Proof.Machine

theorem changeRouter_within {ps : List Area} {s0 : State} {c : Nat} {f : Router → Router} {s : State}
    (hm : Sub [.parts] ps) (h : Within ps s0 s) :
    Within ps s0 (changeRouter c f s) := by
  unfold changeRouter
  exact Within.put h

theorem putRecord_within {ps : List Area} {s0 : State} {c : Nat} {status : Nat} {x : Pair} {s : State}
    (hm : Sub [.parts] ps) (h : Within ps s0 s) :
    Within ps s0 (putRecord c status x s) := by
  unfold putRecord
  exact changeRouter_within (hm.of ⟨rfl⟩) h

theorem dispatchPair_within {ps : List Area} {s0 : State} {t : Nat} {k : Nat} {dest : Nat} {x : Pair}
    {s : State} (hm : Sub [.counters, .parts] ps) (h : Within ps s0 s) :
    Within ps s0 (dispatchPair t k dest x s) := by
  unfold dispatchPair
  extract_lets v1 v2 v3
  refine Within.mid (ps := ps) (a := s0) v2 ?_ (fun h4 => ?_)
  · unfold v2
    exact putRecord_within (hm.of ⟨rfl⟩) (count64_within (hm.of ⟨rfl⟩) h)
  clear_value v2
  exact changeRouter_within (hm.of ⟨rfl⟩) (Within.put h4)

theorem dropPair_within {ps : List Area} {s0 : State} {t : Nat} {k : Nat} {p : Nat} {id : BitVec 32} {x : Pair}
    {s : State} (hm : Sub [.counters, .events, .parts] ps) (h : Within ps s0 s) :
    Within ps s0 (dropPair t k p id x s) := by
  unfold dropPair
  extract_lets v1 v2
  refine Within.mid (ps := ps) (a := s0) v2 ?_ (fun h3 => ?_)
  · unfold v2
    exact changeRun_within (hm.of ⟨rfl⟩) (putRecord_within (hm.of ⟨rfl⟩) (count64_within (hm.of ⟨rfl⟩) h))
  clear_value v2
  exact Within.ite (fun _ => h3) (fun _ => raise_within (hm.of ⟨rfl⟩) (changeRouter_within (hm.of ⟨rfl⟩) h3))

theorem deferPair_within {ps : List Area} {s0 : State} {t : Nat} {k : Nat} {p : Nat} {id : BitVec 32} {x : Pair}
    {s : State} (hm : Sub [.counters, .parts] ps) (h : Within ps s0 s) :
    Within ps s0 (deferPair t k p id x s) := by
  unfold deferPair
  extract_lets v1 v2
  refine Within.mid (ps := ps) (a := s0) v2 ?_ (fun h3 => ?_)
  · unfold v2
    exact changeRun_within (hm.of ⟨rfl⟩) (putRecord_within (hm.of ⟨rfl⟩) (count64_within (hm.of ⟨rfl⟩) h))
  clear_value v2
  exact changeRouter_within (hm.of ⟨rfl⟩) h3

theorem takePair_within {ps : List Area} {s0 : State} {t : Nat} {k : Nat} {p : Nat} {id : BitVec 32}
    {img : Bytes} {gi : Nat} {again : Bool} {x : Pair} {s : State} (hm : Sub [.counters, .events, .parts] ps)
    (h : Within ps s0 s) :
    Within ps s0 (takePair t k p id img gi again x s) := by
  unfold takePair
  extract_lets v1
  refine Within.ite (fun _ => ?_) (fun _ => ?_)
  · exact dispatchPair_within (hm.of ⟨rfl⟩) h
  · refine Within.ite (fun _ => ?_) (fun _ => ?_)
    · exact dropPair_within (hm.of ⟨rfl⟩) h
    · refine Within.ite (fun _ => ?_) (fun _ => ?_)
      · exact dropPair_within (hm.of ⟨rfl⟩) (raise_within (hm.of ⟨rfl⟩) h)
      · exact deferPair_within (hm.of ⟨rfl⟩) h

theorem routerFrame_within {ps : List Area} {s0 : State} {t : Nat} {k : Nat} {s : State}
    (hm : Sub [.counters, .events, .parts] ps) (h : Within ps s0 s) :
    Within ps s0 (routerFrame t k s) := by
  unfold routerFrame
  extract_lets v1 v2 v3 v4
  refine Within.mid (ps := ps) (a := s0) v4 ?_ (fun h5 => ?_)
  · unfold v4
    exact Within.put h
  clear_value v4
  split
  · exact h5
  · split
    · exact h5
    · extract_lets v16
      refine Within.fold ?_ (fun s17 x18 h19 => ?_)
      · exact h5
      · split
        · exact h19
        · exact takePair_within (hm.of ⟨rfl⟩) h19

theorem tickRouters_within {ps : List Area} {s0 : State} {p : Nat} {s : State}
    (hm : Sub [.counters, .events, .parts] ps) (h : Within ps s0 s) :
    Within ps s0 (tickRouters p s) := by
  unfold tickRouters
  refine Within.ite (fun _ => ?_) (fun _ => ?_)
  · exact h
  · extract_lets v1
    exact Within.fold h (fun _ _ h4 => routerFrame_within (hm.of ⟨rfl⟩) h4)

theorem openTemplate_within {ps : List Area} {s0 : State} {p : Nat} {img : Bytes} {index : Nat} {s : State}
    (hm : Sub [.parts, .clk] ps) (h : Within ps s0 s) :
    Within ps s0 (openTemplate p img index s) := by
  unfold openTemplate
  extract_lets v1
  refine Within.mid (ps := ps) (a := s0) v1 ?_ (fun h2 => ?_)
  · unfold v1
    exact Within.fold h (fun _ _ h5 => Within.fold h5 (fun _ _ h8 => setDebt_within (hm.of ⟨rfl⟩) h8))
  clear_value v1
  exact changePart_within (hm.of ⟨rfl⟩) h2

theorem startNext_within {ps : List Area} {s0 : State} {p : Nat} {s : State}
    (hm : Sub [.events, .parts, .clk] ps) (h : Within ps s0 s) :
    Within ps s0 (startNext p s) := by
  unfold startNext
  refine Within.ite (fun _ => ?_) (fun _ => ?_)
  · exact h
  · split
    · exact h
    · extract_lets v6 v7 v8 v9
      refine Within.mid (ps := ps) (a := s0) v7 ?_ (fun h10 => ?_)
      · unfold v7
        exact openTemplate_within (hm.of ⟨rfl⟩) h
      clear_value v7
      refine Within.mid (ps := ps) (a := s0) v9 ?_ (fun h11 => ?_)
      · unfold v9
        exact Within.put h10
      clear_value v9
      refine Within.ite (fun _ => ?_) (fun _ => ?_)
      · exact changeRun_within (hm.of ⟨rfl⟩) h
      · exact resolveRoots_within (hm.of ⟨rfl⟩) (strideFor_within (hm.of ⟨rfl⟩) (changeRun_within (hm.of ⟨rfl⟩) h11))

theorem partitionMapAct_within {ps : List Area} {s0 : State} {a0 : Bytes} {a1 : State}
    (hm : Sub [.dict, .sec] ps) (h : Within ps s0 a1) :
    WWithin ps s0 (partitionMapAct a0 a1) := by
  unfold partitionMapAct
  extract_lets v1 v2 v3 v4 v5 v6
  split
  · exact .refuse
  · split
    · exact .refuse
    · exact WWithin.done (setDictNat_within (hm.of ⟨rfl⟩) (Within.put h))

theorem execPartitionMapWrite_within {ps : List Area} {s0 : State} {req : Req} {value : Bytes} {s : State}
    (hm : Sub [.dict, .events, .om, .sec] ps) (h : Within ps s0 s) :
    OutWithin ps s0 (execPartitionMapWrite req value s) := by
  unfold execPartitionMapWrite
  refine OutWithin.next ?_
  refine serveWrite_within (hm.of ⟨rfl⟩) ?_ ?_
  · intro x1 s2 h3
    exact partitionMapAct_within (hm.of ⟨rfl⟩) h3
  · exact h

theorem refuseCommand_within {ps : List Area} {s0 : State} {p : Nat} {run : BitVec 32} {cls : Nat}
    {detail : Nat} {arg : Nat} {s : State} (hm : Sub [.counters, .events, .host] ps) (h : Within ps s0 s) :
    Within ps s0 (refuseCommand p run cls detail arg s) := by
  unfold refuseCommand
  exact reportCommand_within (hm.of ⟨rfl⟩) (raise_within (hm.of ⟨rfl⟩) (count32_within (hm.of ⟨rfl⟩) h))

theorem turnAway_within {ps : List Area} {s0 : State} {p : Nat} {code : Nat} {run : BitVec 32} {cls : Nat}
    {detail : Nat} {s : State} (hm : Sub [.counters, .events, .host] ps) (h : Within ps s0 s) :
    Within ps s0 (turnAway p code run cls detail s) := by
  unfold turnAway
  exact Within.ite (fun _ => refuseCommand_within (hm.of ⟨rfl⟩) h) (fun _ => reportCommand_within (hm.of ⟨rfl⟩) h)

theorem command_within {ps : List Area} {s0 : State} {p : Nat} {is : BitVec 512 → Bool} {run : BitVec 32}
    {act : BitVec 32 → BitVec 512 → State → State} {s : State} (hm : Sub [.counters, .events, .host] ps)
    (h_act : ∀ (z0 : BitVec 32) (z1 : BitVec 512) (z2 : State), Within ps s0 z2 → Within ps s0 (act z0 z1 z2))
    (h : Within ps s0 s) :
    Within ps s0 (command p is run act s) := by
  unfold command
  split
  · exact h
  · refine Within.ite (fun _ => ?_) (fun _ => ?_)
    · exact h
    · extract_lets v7
      refine Within.mid (ps := ps) (a := s0) v7 ?_ (fun h8 => ?_)
      · unfold v7
        exact changeQueue_within (hm.of ⟨rfl⟩) h
      clear_value v7
      split
      · exact turnAway_within (hm.of ⟨rfl⟩) h8
      · exact h_act _ _ _ h8

theorem startLoad_within {ps : List Area} {s0 : State} {p : Nat} {address : Nat} {length : Nat}
    {pos : BitVec 32} {e : BitVec 512} {s : State} (hm : Sub [.parts, .host] ps) (h : Within ps s0 s) :
    Within ps s0 (startLoad p address length pos e s) := by
  unfold startLoad
  extract_lets v1 v2 v3 v4
  exact Within.put h

theorem execLoad_within {ps : List Area} {s0 : State} {partition : Partition} {address : BitVec 64}
    {length : BitVec 32} {s : State} (hm : Sub [.counters, .events, .parts, .host] ps) (h : Within ps s0 s) :
    OutWithin ps s0 (execLoad partition address length s) := by
  unfold execLoad
  refine OutWithin.next ?_
  refine command_within (hm.of ⟨rfl⟩) ?_ ?_
  · intro x1 x2 s3 h4
    exact startLoad_within (hm.of ⟨rfl⟩) h4
  · exact h

theorem mirror_within {ps : List Area} {s0 : State} {p : Nat} {pos : BitVec 32} {handle : BitVec 16}
    {img : Bytes} {e : BitVec 512} {s : State} (hm : Sub [.twin] ps) (h : Within ps s0 s) :
    Within ps s0 (mirror p pos handle img e s) := by
  unfold mirror
  extract_lets v1 v2
  exact Within.ite (fun _ => Within.put h) (fun _ => h)

theorem applyMaps_within {ps : List Area} {s0 : State} {img : Bytes} {s : State} (hm : Sub [.free, .spad] ps)
    (h : Within ps s0 s) :
    Within ps s0 (applyMaps img s) := by
  unfold applyMaps
  refine Within.fold ?_ (fun s1 x2 h3 => ?_)
  · exact h
  · refine Within.fold ?_ (fun s4 x5 h6 => ?_)
    · exact h3
    · extract_lets v7 v8 v9 v10 v11 v12 v13
      refine Within.mid (ps := ps) (a := s0) v12 ?_ (fun h14 => ?_)
      · unfold v12
        refine Within.fold ?_ (fun s15 x16 h17 => ?_)
        · exact h6
        · exact undefineUnit_within (hm.of ⟨rfl⟩) (undefineUnit_within (hm.of ⟨rfl⟩) h17)
      clear_value v12
      exact Within.put h14

theorem placeGraph_within {ps : List Area} {s0 : State} {p : Nat} {slot : Nat} {n : Nat} {h3 : BitVec 16}
    {img : Bytes} {s : State} (hm : Sub [.free, .events, .spad, .parts] ps) (h : Within ps s0 s) :
    Within ps s0 (placeGraph p slot n h3 img s) := by
  unfold placeGraph
  extract_lets v1 v2 v3 v4 v5
  refine Within.mid (ps := ps) (a := s0) v2 ?_ (fun h6 => ?_)
  · unfold v2
    exact Within.ite (fun _ => applyMaps_within (hm.of ⟨rfl⟩) h) (fun _ => h)
  clear_value v2
  refine Within.mid (ps := ps) (a := s0) v3 ?_ (fun h7 => ?_)
  · unfold v3
    exact changePart_within (hm.of ⟨rfl⟩) h6
  clear_value v3
  exact raise_within (hm.of ⟨rfl⟩) (Within.put h7)

theorem acceptGraph_within {ps : List Area} {s0 : State} {p : Nat} {img : Bytes} {pos : BitVec 32}
    {e : BitVec 512} {s : State} (hm : Sub [.free, .events, .spad, .parts, .host, .twin] ps)
    (h : Within ps s0 s) :
    Within ps s0 (acceptGraph p img pos e s) := by
  unfold acceptGraph
  extract_lets v1 v2 v3
  exact reportCommand_within (hm.of ⟨rfl⟩) (mirror_within (hm.of ⟨rfl⟩) (placeGraph_within (hm.of ⟨rfl⟩) h))

theorem loadAdmission_within {ps : List Area} {s0 : State} {p : Nat} {img : Bytes} {code : CodeReport}
    {s : State} (hm : Sub [.free, .counters, .events, .spad, .parts, .host, .twin] ps) (h : Within ps s0 s) :
    Within ps s0 (loadAdmission p img code s) := by
  unfold loadAdmission
  split
  · exact h
  · extract_lets v6 v7 v8
    refine Within.mid (ps := ps) (a := s0) v8 ?_ (fun h9 => ?_)
    · unfold v8
      exact Within.put h
    clear_value v8
    split
    · exact refuseCommand_within (hm.of ⟨rfl⟩) h9
    · exact refuseCommand_within (hm.of ⟨rfl⟩) h9
    · exact acceptGraph_within (hm.of ⟨rfl⟩) h9

theorem execLoadAdmission_within {ps : List Area} {s0 : State} {partition : Partition} {image : Bytes}
    {code : CodeReport} {s : State} (hm : Sub [.free, .counters, .events, .spad, .parts, .host, .twin] ps)
    (h : Within ps s0 s) :
    OutWithin ps s0 (execLoadAdmission partition image code s) := by
  unfold execLoadAdmission
  exact OutWithin.next (loadAdmission_within (hm.of ⟨rfl⟩) h)

theorem dropGraph_within {ps : List Area} {s0 : State} {p : Nat} {h1 : BitVec 16} {s : State}
    (hm : Sub [.parts, .fab] ps) (h : Within ps s0 s) :
    Within ps s0 (dropGraph p h1 s) := by
  unfold dropGraph
  extract_lets v1 v2 v3 v4
  refine Within.mid (ps := ps) (a := s0) v4 ?_ (fun h5 => ?_)
  · unfold v4
    exact Within.put h
  clear_value v4
  exact Within.ite (fun _ => h5) (fun _ => changePart_within (hm.of ⟨rfl⟩) h5)

theorem unload_within {ps : List Area} {s0 : State} {p : Nat} {h1 : BitVec 16} {pos : BitVec 32}
    {e : BitVec 512} {s : State} (hm : Sub [.events, .parts, .host, .fab, .twin] ps) (h : Within ps s0 s) :
    Within ps s0 (unload p h1 pos e s) := by
  unfold unload
  refine Within.ite (fun _ => ?_) (fun _ => ?_)
  · exact reportCommand_within (hm.of ⟨rfl⟩) h
  · exact reportCommand_within (hm.of ⟨rfl⟩) (mirror_within (hm.of ⟨rfl⟩) (dropGraph_within (hm.of ⟨rfl⟩) h))

theorem execUnload_within {ps : List Area} {s0 : State} {partition : Partition} {handle : BitVec 16} {s : State}
    (hm : Sub [.counters, .events, .parts, .host, .fab, .twin] ps) (h : Within ps s0 s) :
    OutWithin ps s0 (execUnload partition handle s) := by
  unfold execUnload
  refine OutWithin.next ?_
  refine command_within (hm.of ⟨rfl⟩) ?_ ?_
  · intro x1 x2 s3 h4
    exact unload_within (hm.of ⟨rfl⟩) h4
  · exact h

theorem requestByPriority_within {ps : List Area} {s0 : State} {p : Nat} {prio : Nat} {s : State}
    (hm : Sub [.parts] ps) (h : Within ps s0 s) :
    Within ps s0 (requestByPriority p prio s) := by
  unfold requestByPriority
  exact Within.put h

theorem acceptRun_within {ps : List Area} {s0 : State} {p : Nat} {bindings : List Nat} {pos : BitVec 32}
    {e : BitVec 512} {s : State} (hm : Sub [.events, .parts, .host, .twin] ps) (h : Within ps s0 s) :
    Within ps s0 (acceptRun p bindings pos e s) := by
  unfold acceptRun
  extract_lets v1 v2 v3 v4 v5
  refine Within.mid (ps := ps) (a := s0) v5 ?_ (fun h6 => ?_)
  · unfold v5
    exact Within.put h
  clear_value v5
  exact reportCommand_within (hm.of ⟨rfl⟩) (mirror_within (hm.of ⟨rfl⟩) (requestByPriority_within (hm.of ⟨rfl⟩) h6))

theorem startRun_within {ps : List Area} {s0 : State} {p : Nat} {pos : BitVec 32} {e : BitVec 512} {s : State}
    (hm : Sub [.counters, .events, .parts, .host, .twin] ps) (h : Within ps s0 s) :
    Within ps s0 (startRun p pos e s) := by
  unfold startRun
  split
  · exact refuseCommand_within (hm.of ⟨rfl⟩) h
  · refine Within.ite (fun _ => ?_) (fun _ => ?_)
    · exact acceptRun_within (hm.of ⟨rfl⟩) h
    · extract_lets v8 v9 v10
      exact Within.put h

theorem execRun_within {ps : List Area} {s0 : State} {partition : Partition} {entry : BitVec 512} {s : State}
    (hm : Sub [.counters, .events, .parts, .host, .twin] ps) (h : Within ps s0 s) :
    OutWithin ps s0 (execRun partition entry s) := by
  unfold execRun
  refine OutWithin.next ?_
  refine command_within (hm.of ⟨rfl⟩) ?_ ?_
  · intro x1 x2 s3 h4
    exact startRun_within (hm.of ⟨rfl⟩) h4
  · exact h

theorem runCommand_within {ps : List Area} {s0 : State} {p : Nat} {id : BitVec 32} {f : Run → Run}
    {pos : BitVec 32} {e : BitVec 512} {s : State} (hm : Sub [.events, .parts, .host, .twin] ps)
    (h : Within ps s0 s) :
    Within ps s0 (runCommand p id f pos e s) := by
  unfold runCommand
  refine Within.ite (fun _ => ?_) (fun _ => ?_)
  · exact reportCommand_within (hm.of ⟨rfl⟩) h
  · exact reportCommand_within (hm.of ⟨rfl⟩) (mirror_within (hm.of ⟨rfl⟩) (changeRun_within (hm.of ⟨rfl⟩) h))

theorem execPreempt_within {ps : List Area} {s0 : State} {partition : Partition} {runId : BitVec 32} {s : State}
    (hm : Sub [.counters, .events, .parts, .host, .twin] ps) (h : Within ps s0 s) :
    OutWithin ps s0 (execPreempt partition runId s) := by
  unfold execPreempt
  refine OutWithin.next ?_
  refine command_within (hm.of ⟨rfl⟩) ?_ ?_
  · intro x1 x2 s3 h4
    exact runCommand_within (hm.of ⟨rfl⟩) h4
  · exact h

theorem execResume_within {ps : List Area} {s0 : State} {partition : Partition} {runId : BitVec 32} {s : State}
    (hm : Sub [.counters, .events, .parts, .host, .twin] ps) (h : Within ps s0 s) :
    OutWithin ps s0 (execResume partition runId s) := by
  unfold execResume
  refine OutWithin.next ?_
  refine command_within (hm.of ⟨rfl⟩) ?_ ?_
  · intro x1 x2 s3 h4
    exact runCommand_within (hm.of ⟨rfl⟩) h4
  · exact h

theorem execAbort_within {ps : List Area} {s0 : State} {partition : Partition} {runId : BitVec 32} {s : State}
    (hm : Sub [.counters, .events, .parts, .host, .twin] ps) (h : Within ps s0 s) :
    OutWithin ps s0 (execAbort partition runId s) := by
  unfold execAbort
  refine OutWithin.next ?_
  refine command_within (hm.of ⟨rfl⟩) ?_ ?_
  · intro x1 x2 s3 h4
    exact runCommand_within (hm.of ⟨rfl⟩) h4
  · exact h

theorem execUnknownCommand_within {ps : List Area} {s0 : State} {partition : Partition} {entry : BitVec 512}
    {s : State} (hm : Sub [.counters, .events, .host] ps) (h : Within ps s0 s) :
    OutWithin ps s0 (execUnknownCommand partition entry s) := by
  unfold execUnknownCommand
  extract_lets v1
  refine OutWithin.next ?_
  refine command_within (hm.of ⟨rfl⟩) ?_ ?_
  · intro x2 x3 s4 h5
    exact turnAway_within (hm.of ⟨rfl⟩) h5
  · exact h

theorem edgeArrives_within {ps : List Area} {s0 : State} {p : Nat} {id : BitVec 32} {i : Nat} {e : Nat}
    {s : State} (hm : Sub [.events, .parts, .dma, .host] ps) (h : Within ps s0 s) :
    Within ps s0 (edgeArrives p id i e s) := by
  unfold edgeArrives
  refine Within.ite (fun _ => ?_) (fun _ => ?_)
  · exact h
  · split
    · exact h
    · extract_lets v6 v7 v8 v9
      exact Within.ite (fun _ => h) (fun _ => settleAll_within (hm.of ⟨rfl⟩) (Within.put h))

theorem execRemoteEdgeArrival_within {ps : List Area} {s0 : State} {partition : Partition} {runId : BitVec 32}
    {task : BitVec 16} {edge : Nat} {s : State} (hm : Sub [.events, .parts, .dma, .host] ps)
    (h : Within ps s0 s) :
    OutWithin ps s0 (execRemoteEdgeArrival partition runId task edge s) := by
  unfold execRemoteEdgeArrival
  exact OutWithin.next (edgeArrives_within (hm.of ⟨rfl⟩) h)

theorem seedLanes_within {ps : List Area} {s0 : State} {img : Bytes} {i : Nat} {s : State}
    (hm : Sub [.arith] ps) (h : Within ps s0 s) :
    Within ps s0 (seedLanes img i s) := by
  unfold seedLanes
  extract_lets v1 v2 v3
  exact Within.put h

theorem startCode_within {ps : List Area} {s0 : State} {img : Bytes} {i : Nat} {s : State}
    (hm : Sub [.free, .arith] ps) (h : Within ps s0 s) :
    Within ps s0 (startCode img i s) := by
  unfold startCode
  refine Within.fold ?_ (fun s1 x2 h3 => ?_)
  · exact h
  · extract_lets v4 v5
    refine Within.mid (ps := ps) (a := s0) v4 ?_ (fun h6 => ?_)
    · unfold v4
      exact draw_within (hm.of ⟨rfl⟩) h3
    clear_value v4
    exact Within.put h6

theorem loadRoutes_within {ps : List Area} {s0 : State} {img : Bytes} {i : Nat} {s : State}
    (hm : Sub [.spad] ps) (h : Within ps s0 s) :
    Within ps s0 (loadRoutes img i s) := by
  unfold loadRoutes
  extract_lets v1 v2 v3
  exact Within.put h

theorem taskStart_within {ps : List Area} {s0 : State} {p : Nat} {i : Nat} {s : State}
    (hm : Sub [.now, .free, .spad, .arith, .parts] ps) (h : Within ps s0 s) :
    Within ps s0 (taskStart p i s) := by
  unfold taskStart
  split
  · exact h
  · extract_lets v6 v7 v8
    refine Within.mid (ps := ps) (a := s0) v7 ?_ (fun h9 => ?_)
    · unfold v7
      exact advanceTo_within (hm.of ⟨rfl⟩) h
    clear_value v7
    refine Within.mid (ps := ps) (a := s0) v8 ?_ (fun h10 => ?_)
    · unfold v8
      exact changeTask_within (hm.of ⟨rfl⟩) h9
    clear_value v8
    refine Within.ite (fun _ => ?_) (fun _ => ?_)
    · exact h
    · exact seedLanes_within (hm.of ⟨rfl⟩) (startCode_within (hm.of ⟨rfl⟩) (loadRoutes_within (hm.of ⟨rfl⟩) h10))

theorem execTaskStart_within {ps : List Area} {s0 : State} {partition : Partition} {task : BitVec 16}
    {s : State} (hm : Sub [.now, .free, .spad, .arith, .parts] ps) (h : Within ps s0 s) :
    OutWithin ps s0 (execTaskStart partition task s) := by
  unfold execTaskStart
  exact OutWithin.next (taskStart_within (hm.of ⟨rfl⟩) h)

theorem taskEnd_within {ps : List Area} {s0 : State} {p : Nat} {i : Nat} {predicate : BitVec 16} {s : State}
    (hm : Sub [.events, .parts, .dma, .host] ps) (h : Within ps s0 s) :
    Within ps s0 (taskEnd p i predicate s) := by
  unfold taskEnd
  split
  · exact h
  · exact Within.ite (fun _ => h) (fun _ => endTask_within (hm.of ⟨rfl⟩) (changeTask_within (hm.of ⟨rfl⟩) h))

theorem execTaskEnd_within {ps : List Area} {s0 : State} {partition : Partition} {task : BitVec 16}
    {predicate : BitVec 16} {s : State} (hm : Sub [.events, .parts, .dma, .host] ps) (h : Within ps s0 s) :
    OutWithin ps s0 (execTaskEnd partition task predicate s) := by
  unfold execTaskEnd
  exact OutWithin.next (taskEnd_within (hm.of ⟨rfl⟩) h)

theorem routerToken_within {ps : List Area} {s0 : State} {t : Nat} {k : Nat} {g : Nat} {token : Nat}
    {raw : List Nat} {s : State} (hm : Sub [.counters, .events, .parts] ps) (h : Within ps s0 s) :
    Within ps s0 (routerToken t k g token raw s) := by
  unfold routerToken
  split
  · exact h
  · extract_lets v7
    split
    · exact h
    · refine Within.ite (fun _ => ?_) (fun _ => ?_)
      · exact h
      · extract_lets v13 v14 v15
        exact Within.fold h (fun _ _ h18 => takePair_within (hm.of ⟨rfl⟩) h18)

theorem execRouterToken_within {ps : List Area} {s0 : State} {tower : Tower} {cluster : Cluster}
    {group : Fin 16} {token : BitVec 24} {scores : List Nat} {s : State}
    (hm : Sub [.counters, .events, .parts] ps) (h : Within ps s0 s) :
    OutWithin ps s0 (execRouterToken tower cluster group token scores s) := by
  unfold execRouterToken
  exact OutWithin.next (routerToken_within (hm.of ⟨rfl⟩) h)

theorem writeHeld_within {ps : List Area} {s0 : State} {p : Nat} {id : BitVec 32} {s : State}
    (hm : Sub [.counters, .events, .dma, .host] ps) (h : Within ps s0 s) :
    Within ps s0 (writeHeld p id s) := by
  unfold writeHeld
  extract_lets v1
  refine Within.fold ?_ (fun s2 x3 h4 => ?_)
  · exact h
  · extract_lets v5 v6
    refine Within.ite (fun _ => ?_) (fun _ => ?_)
    · exact loseFault_within (hm.of ⟨rfl⟩) (Within.put h4)
    · exact writeFaultRecord_within (hm.of ⟨rfl⟩) (Within.put h4)

theorem dropSaved_within {ps : List Area} {s0 : State} {p : Nat} {id : BitVec 32} {s : State}
    (hm : Sub [.dma] ps) (h : Within ps s0 s) :
    Within ps s0 (dropSaved p id s) := by
  unfold dropSaved
  exact Within.put h

theorem saveComplete_within {ps : List Area} {s0 : State} {p : Nat} {s : State}
    (hm : Sub [.counters, .events, .parts, .dma, .clk, .host] ps) (h : Within ps s0 s) :
    Within ps s0 (saveComplete p s) := by
  unfold saveComplete
  split
  · exact h
  · refine Within.ite (fun _ => ?_) (fun _ => ?_)
    · exact h
    · extract_lets v6 v7 v8 v9
      refine Within.mid (ps := ps) (a := s0) v7 ?_ (fun h10 => ?_)
      · unfold v7
        exact changeRun_within (hm.of ⟨rfl⟩) h
      clear_value v7
      refine Within.mid (ps := ps) (a := s0) v8 ?_ (fun h11 => ?_)
      · unfold v8
        exact writeHeld_within (hm.of ⟨rfl⟩) (dropSaved_within (hm.of ⟨rfl⟩) h10)
      clear_value v8
      refine Within.mid (ps := ps) (a := s0) v9 ?_ (fun h12 => ?_)
      · unfold v9
        refine Within.ite (fun _ => ?_) (fun _ => ?_)
        · refine raise_within (hm.of ⟨rfl⟩) ?_
          split
          · exact h11
          · exact reportRun_within (hm.of ⟨rfl⟩) h11
        · exact h11
      clear_value v9
      exact startNext_within (hm.of ⟨rfl⟩) h12

theorem execSaveComplete_within {ps : List Area} {s0 : State} {partition : Partition} {s : State}
    (hm : Sub [.counters, .events, .parts, .dma, .clk, .host] ps) (h : Within ps s0 s) :
    OutWithin ps s0 (execSaveComplete partition s) := by
  unfold execSaveComplete
  exact OutWithin.next (saveComplete_within (hm.of ⟨rfl⟩) h)

theorem restoreContext_within {ps : List Area} {s0 : State} {img : Bytes} {c : Context} {s : State}
    (hm : Sub [.free, .spad, .arith, .parts, .dma] ps) (h : Within ps s0 s) :
    Within ps s0 (restoreContext img c s) := by
  unfold restoreContext
  extract_lets v1 v2 v3 v4 v5 v6 v7
  refine Within.mid (ps := ps) (a := s0) v3 ?_ (fun h8 => ?_)
  · unfold v3
    exact Within.fold h (fun _ _ h11 => undefineUnit_within (hm.of ⟨rfl⟩) h11)
  clear_value v3
  exact Within.put h8

theorem applyStored_within {ps : List Area} {s0 : State} {p : Nat} {id : BitVec 32} {s : State}
    (hm : Sub [.dma] ps) (h : Within ps s0 s) :
    Within ps s0 (applyStored p id s) := by
  unfold applyStored
  extract_lets v1 v2
  exact Within.fold (Within.put h) (fun _ _ h5 => answerAttached_within (hm.of ⟨rfl⟩) h5)

theorem restoreComplete_within {ps : List Area} {s0 : State} {p : Nat} {s : State}
    (hm : Sub [.free, .counters, .events, .om, .spad, .arith, .parts, .dma, .dram, .clk, .host, .pho, .lanes, .ver, .fab, .twin] ps)
    (h : Within ps s0 s) :
    Within ps s0 (restoreComplete p s) := by
  unfold restoreComplete
  split
  · exact h
  · refine Within.ite (fun _ => ?_) (fun _ => ?_)
    · exact h
    · extract_lets v6 v7 v8 v9 v10 v11
      refine Within.mid (ps := ps) (a := s0) v7 ?_ (fun h12 => ?_)
      · unfold v7
        split
        · exact h
        · exact restoreContext_within (hm.of ⟨rfl⟩) h
      clear_value v7
      refine Within.mid (ps := ps) (a := s0) v8 ?_ (fun h18 => ?_)
      · unfold v8
        exact changeRun_within (hm.of ⟨rfl⟩) h12
      clear_value v8
      refine Within.mid (ps := ps) (a := s0) v9 ?_ (fun h19 => ?_)
      · unfold v9
        refine tickRouters_within (hm.of ⟨rfl⟩) ?_
        exact strideFor_within (hm.of ⟨rfl⟩) (openTemplate_within (hm.of ⟨rfl⟩) h18)
      clear_value v9
      refine Within.mid (ps := ps) (a := s0) v10 ?_ (fun h20 => ?_)
      · unfold v10
        exact Within.fold h19 (fun _ _ h23 => loadRoutes_within (hm.of ⟨rfl⟩) h23)
      clear_value v10
      refine Within.mid (ps := ps) (a := s0) v11 ?_ (fun h24 => ?_)
      · unfold v11
        exact raise_within (hm.of ⟨rfl⟩) h20
      clear_value v11
      exact pumpPartition_within (hm.of ⟨rfl⟩) (applyStored_within (hm.of ⟨rfl⟩) h24)

theorem execRestoreComplete_within {ps : List Area} {s0 : State} {partition : Partition} {s : State}
    (hm : Sub [.free, .counters, .events, .om, .spad, .arith, .parts, .dma, .dram, .clk, .host, .pho, .lanes, .ver, .fab, .twin] ps)
    (h : Within ps s0 s) :
    OutWithin ps s0 (execRestoreComplete partition s) := by
  unfold execRestoreComplete
  exact OutWithin.next (restoreComplete_within (hm.of ⟨rfl⟩) h)

theorem takeBinding_within {ps : List Area} {s0 : State} {p : Nat} {s : State} (hm : Sub [.parts] ps)
    (h : Within ps s0 s) :
    OptPairWithin ps s0 (takeBinding p s) := by
  unfold takeBinding
  refine OptPairWithin.map (fun x1 => ?_)
  dsimp only
  exact Within.put h

theorem bindingsArrive_within {ps : List Area} {s0 : State} {p : Nat} {bytes : Bytes} {s : State}
    (hm : Sub [.counters, .events, .parts, .host, .twin] ps) (h : Within ps s0 s) :
    Within ps s0 (bindingsArrive p bytes s) := by
  unfold bindingsArrive
  split
  · exact h
  · rename_i y6
    refine OptPairWithin.out (ps := ps) (a := s0) y6 ?_ (fun h7 => ?_)
    · exact takeBinding_within (hm.of ⟨rfl⟩) h
    split
    · exact refuseCommand_within (hm.of ⟨rfl⟩) h7
    · exact refuseCommand_within (hm.of ⟨rfl⟩) h7
    · exact acceptRun_within (hm.of ⟨rfl⟩) h7

theorem bindingsLost_within {ps : List Area} {s0 : State} {p : Nat} {code : Nat} {s : State}
    (hm : Sub [.events, .parts, .host] ps) (h : Within ps s0 s) :
    Within ps s0 (bindingsLost p code s) := by
  unfold bindingsLost
  split
  · exact h
  · rename_i y6
    refine OptPairWithin.out (ps := ps) (a := s0) y6 ?_ (fun h7 => ?_)
    · exact takeBinding_within (hm.of ⟨rfl⟩) h
    exact reportCommand_within (hm.of ⟨rfl⟩) h7

end Sys2Proof.Machine
end

