-- ==== Sys2Proof/Laws/WithinTwinOps.lean ====
section
/-! SUPPORT. Which parts of the state the operations of Machine/TwinOps.lean can write: one lemma for each. -/

set_option Elab.async false

namespace Sys2Proof.Machine

theorem releaseAll_within {ps : List Area} {s0 : State} {s : State} (hm : Sub [.events, .parts, .dma, .host] ps)
    (h : Within ps s0 s) :
    Within ps s0 (releaseAll s) := by
  unfold releaseAll
  exact Within.fold h (fun _ _ h3 => releaseRun_within (hm.of ⟨rfl⟩) h3)

theorem enterTwin_within {ps : List Area} {s0 : State} {n : Nat} {s : State} (hm : Sub [.host, .twin] ps)
    (h : Within ps s0 s) :
    Within ps s0 (enterTwin n s) := by
  unfold enterTwin
  exact notify_within (hm.of ⟨rfl⟩) (Within.put h)

theorem sendTwinAt_within {ps : List Area} {s0 : State} {kind : Nat} {stamp : BitVec 64} {payload : Bytes}
    {s : State} (hm : Sub [.events, .lanes, .fab, .twin] ps) (h : Within ps s0 s) :
    Within ps s0 (sendTwinAt kind stamp payload s) := by
  unfold sendTwinAt
  refine Within.ite (fun _ => ?_) (fun _ => ?_)
  · exact h
  · extract_lets v1 v2 v3 v4
    refine Within.mid (ps := ps) (a := s0) v3 ?_ (fun h5 => ?_)
    · unfold v3
      exact Within.put h
    clear_value v3
    exact pumpTx_within (hm.of ⟨rfl⟩) (changeTx_within (hm.of ⟨rfl⟩) h5)

theorem sendQueue_within {ps : List Area} {s0 : State} {frame : Nat} {c : TwinCommand} {s : State}
    (hm : Sub [.events, .lanes, .fab, .twin] ps) (h : Within ps s0 s) :
    Within ps s0 (sendQueue frame c s) := by
  unfold sendQueue
  exact sendTwinAt_within (hm.of ⟨rfl⟩) h

theorem sendImage_within {ps : List Area} {s0 : State} {frame : Nat} {h1 : BitVec 16} {img : Bytes} {s : State}
    (hm : Sub [.events, .lanes, .fab, .twin] ps) (h : Within ps s0 s) :
    Within ps s0 (sendImage frame h1 img s) := by
  unfold sendImage
  exact Within.fold h (fun _ _ h3 => sendTwinAt_within (hm.of ⟨rfl⟩) h3)

theorem readBlock_within {ps : List Area} {s0 : State} {block : Nat} {s : State}
    (hm : Sub [.counters, .events, .dram] ps) (h : Within ps s0 s) :
    Within ps s0 (readBlock block s).2.2 := by
  unfold readBlock
  refine Within.foldTriple ?_ (fun s1 x2 h3 => ?_)
  · dsimp only
    exact h
  · split
    · rename_i y8
      refine Within.ofPair2 (ps := ps) (a := s0) y8 ?_ (fun h9 => ?_)
      · exact readLine_within (hm.of ⟨rfl⟩) h3
      dsimp only
      exact h9

theorem sendBlock_within {ps : List Area} {s0 : State} {frame : Nat} {p : Nat} {va : Nat} {asked : Bool}
    {marks : List Nat} {acc : Nat × State}
    (hm : Sub [.free, .counters, .events, .dma, .dram, .lanes, .fab, .twin] ps) (h : Within ps s0 (acc).2) :
    Within ps s0 (sendBlock frame p va asked marks acc).2 := by
  unfold sendBlock
  split
  · exact h
  · split
    · split
      · rename_i y11
        refine Within.ofPair2 (ps := ps) (a := s0) y11 ?_ (fun h12 => ?_)
        · exact readBlock_within (hm.of ⟨rfl⟩) h
        dsimp only
        exact sendTwinAt_within (hm.of ⟨rfl⟩) h12
    · exact h

theorem sendBlocks_within {ps : List Area} {s0 : State} {frame : Nat} {s : State}
    (hm : Sub [.free, .counters, .events, .dma, .dram, .lanes, .fab, .twin] ps) (h : Within ps s0 s) :
    Within ps s0 (sendBlocks frame s).2 := by
  unfold sendBlocks
  extract_lets v1
  refine Within.foldPair ?_ (fun s2 x3 h4 => ?_)
  · dsimp only
    exact h
  · extract_lets v5 v6
    split
    · exact h4
    · exact Within.foldPair h4 (fun _ _ h11 => sendBlock_within (hm.of ⟨rfl⟩) h11)

theorem sendMirror_within {ps : List Area} {s0 : State} {s : State}
    (hm : Sub [.free, .counters, .events, .dma, .dram, .lanes, .fab, .twin] ps) (h : Within ps s0 s) :
    Within ps s0 (sendMirror s) := by
  unfold sendMirror
  refine Within.ite (fun _ => ?_) (fun _ => ?_)
  · exact h
  · extract_lets v1 v2 v3 v4 v5
    refine Within.mid (ps := ps) (a := s0) v3 ?_ (fun h6 => ?_)
    · unfold v3
      exact Within.fold h (fun _ _ h9 => sendQueue_within (hm.of ⟨rfl⟩) h9)
    clear_value v3
    refine Within.mid (ps := ps) (a := s0) v5 ?_ (fun h10 => ?_)
    · unfold v5
      exact Within.fold h6 (fun _ _ h13 => sendImage_within (hm.of ⟨rfl⟩) h13)
    clear_value v5
    split
    · rename_i y17
      refine Within.ofPair1 (ps := ps) (a := s0) y17 ?_ (fun h18 => ?_)
      · exact sendBlocks_within (hm.of ⟨rfl⟩) h10
      extract_lets v19 v20
      refine Within.mid (ps := ps) (a := s0) v19 ?_ (fun h21 => ?_)
      · unfold v19
        exact sendTwinAt_within (hm.of ⟨rfl⟩) h18
      clear_value v19
      exact Within.put h21

theorem twinEvent_within {ps : List Area} {s0 : State} {code : Nat} {extra : Option Bytes} {s : State}
    (hm : Sub [.events] ps) (h : Within ps s0 s) :
    Within ps s0 (twinEvent code extra s) := by
  unfold twinEvent
  exact raise_within (hm.of ⟨rfl⟩) h

theorem handoverTick_within {ps : List Area} {s0 : State} {s : State}
    (hm : Sub [.events, .parts, .dma, .host, .twin] ps) (h : Within ps s0 s) :
    Within ps s0 (handoverTick s) := by
  unfold handoverTick
  split
  · exact h
  · refine Within.ite (fun _ => ?_) (fun _ => ?_)
    · exact twinEvent_within (hm.of ⟨rfl⟩) (Within.put h)
    · refine Within.ite (fun _ => ?_) (fun _ => ?_)
      · exact h
      · refine Within.ite (fun _ => ?_) (fun _ => ?_)
        · exact twinEvent_within (hm.of ⟨rfl⟩) (Within.put h)
        · exact Within.ite (fun _ => h) (fun _ => releaseAll_within (hm.of ⟨rfl⟩) (Within.put h))

theorem drivePulse_within {ps : List Area} {s0 : State} {width : Nat} {s : State} (hm : Sub [.twin] ps)
    (h : Within ps s0 s) :
    Within ps s0 (drivePulse width s) := by
  unfold drivePulse
  exact Within.put h

theorem sendTwin_within {ps : List Area} {s0 : State} {kind : Nat} {payload : Bytes} {s : State}
    (hm : Sub [.events, .lanes, .fab, .twin] ps) (h : Within ps s0 s) :
    Within ps s0 (sendTwin kind payload s) := by
  unfold sendTwin
  exact sendTwinAt_within (hm.of ⟨rfl⟩) h

theorem claimNow_within {ps : List Area} {s0 : State} {t : TwinTakeover} {s : State}
    (hm : Sub [.events, .host, .lanes, .fab, .twin] ps) (h : Within ps s0 s) :
    Within ps s0 (claimNow t s) := by
  unfold claimNow
  extract_lets v1 v2 v3 v4
  refine Within.mid (ps := ps) (a := s0) v2 ?_ (fun h5 => ?_)
  · unfold v2
    exact notify_within (hm.of ⟨rfl⟩) (Within.put h)
  clear_value v2
  refine Within.mid (ps := ps) (a := s0) v3 ?_ (fun h6 => ?_)
  · unfold v3
    exact drivePulse_within (hm.of ⟨rfl⟩) (sendTwin_within (hm.of ⟨rfl⟩) h5)
  clear_value v3
  exact Within.put h6

theorem writeRecord_within {ps : List Area} {s0 : State} {t : TwinTakeover} {s : State}
    (hm : Sub [.host, .twin] ps) (h : Within ps s0 s) :
    Within ps s0 (writeRecord t s) := by
  unfold writeRecord
  exact notify_within (hm.of ⟨rfl⟩) (Within.put h)

theorem enterActive_within {ps : List Area} {s0 : State} {paired : Bool} {s : State}
    (hm : Sub [.host, .twin] ps) (h : Within ps s0 s) :
    Within ps s0 (enterActive paired s) := by
  unfold enterActive
  extract_lets v1 v2
  refine Within.mid (ps := ps) (a := s0) v1 ?_ (fun h3 => ?_)
  · unfold v1
    exact enterTwin_within (hm.of ⟨rfl⟩) h
  clear_value v1
  exact Within.put h3

theorem takeOver_within {ps : List Area} {s0 : State} {t : TwinTakeover} {s : State}
    (hm : Sub [.events, .om, .host, .fab, .twin] ps) (h : Within ps s0 s) :
    Within ps s0 (takeOver t s) := by
  unfold takeOver
  extract_lets v1 v2 v3 v4 v5 v6
  refine Within.mid (ps := ps) (a := s0) v2 ?_ (fun h7 => ?_)
  · unfold v2
    exact enterActive_within (hm.of ⟨rfl⟩) h
  clear_value v2
  refine Within.mid (ps := ps) (a := s0) v5 ?_ (fun h8 => ?_)
  · unfold v5
    exact reportFull_within (hm.of ⟨rfl⟩) (Within.put h7)
  clear_value v5
  refine Within.mid (ps := ps) (a := s0) v6 ?_ (fun h9 => ?_)
  · unfold v6
    exact twinEvent_within (hm.of ⟨rfl⟩) h8
  clear_value v6
  clear_value v1
  split
  · exact h9
  · exact fabricNotice_within (hm.of ⟨rfl⟩) h9

theorem takeoverBoundary_within {ps : List Area} {s0 : State} {s : State}
    (hm : Sub [.events, .om, .host, .lanes, .fab, .twin] ps) (h : Within ps s0 s) :
    Within ps s0 (takeoverBoundary s) := by
  unfold takeoverBoundary
  split
  · refine Within.ite (fun _ => ?_) (fun _ => ?_)
    · extract_lets v4
      refine Within.mid (ps := ps) (a := s0) v4 ?_ (fun h5 => ?_)
      · unfold v4
        exact claimNow_within (hm.of ⟨rfl⟩) h
      clear_value v4
      exact Within.ite (fun _ => writeRecord_within (hm.of ⟨rfl⟩) h5) (fun _ => h5)
    · refine Within.ite (fun _ => ?_) (fun _ => ?_)
      · extract_lets v6 v7
        refine Within.mid (ps := ps) (a := s0) v7 ?_ (fun h8 => ?_)
        · unfold v7
          exact Within.put h
        clear_value v7
        exact Within.ite (fun _ => h8) (fun _ => writeRecord_within (hm.of ⟨rfl⟩) h8)
      · exact takeOver_within (hm.of ⟨rfl⟩) h
  · exact h

theorem plannedTakeover_within {ps : List Area} {s0 : State} {s : State} (hm : Sub [.twin] ps)
    (h : Within ps s0 s) :
    Within ps s0 (plannedTakeover s) := by
  unfold plannedTakeover
  split
  · exact Within.ite (fun _ => Within.put h) (fun _ => h)
  · exact h

theorem watchLag_within {ps : List Area} {s0 : State} {s : State} (hm : Sub [.events, .twin] ps)
    (h : Within ps s0 s) :
    Within ps s0 (watchLag s) := by
  unfold watchLag
  split
  · exact h
  · extract_lets v6 v7 v8 v9 v10 v11
    refine Within.mid (ps := ps) (a := s0) v8 ?_ (fun h12 => ?_)
    · unfold v8
      exact Within.put h
    clear_value v8
    refine Within.mid (ps := ps) (a := s0) v11 ?_ (fun h13 => ?_)
    · unfold v11
      exact Within.put h12
    clear_value v11
    exact Within.ite (fun _ => twinEvent_within (hm.of ⟨rfl⟩) h13) (fun _ => h13)

theorem dropBlock_within {ps : List Area} {s0 : State} {p : Nat} {va : Nat} {s : State}
    (hm : Sub [.events, .twin] ps) (h : Within ps s0 s) :
    Within ps s0 (dropBlock p va s) := by
  unfold dropBlock
  extract_lets v1 v2 v3
  refine Within.mid (ps := ps) (a := s0) v3 ?_ (fun h4 => ?_)
  · unfold v3
    clear_value v1
    split
    · exact h
    · exact Within.put h
  clear_value v3
  exact twinEvent_within (hm.of ⟨rfl⟩) h4

theorem writeBlock_within {ps : List Area} {s0 : State} {k : Bytes} {s : State}
    (hm : Sub [.free, .counters, .events, .dma, .dram, .twin] ps) (h : Within ps s0 s) :
    Within ps s0 (writeBlock k s) := by
  unfold writeBlock
  extract_lets v1 v2 v3 v4 v5
  refine Within.ite (fun _ => ?_) (fun _ => ?_)
  · exact Within.put h
  · split
    · rename_i y9
      refine Within.ofPair1 (ps := ps) (a := s0) y9 ?_ (fun h10 => ?_)
      · exact translateNow_within (hm.of ⟨rfl⟩) h
      split
      · refine Within.ofPair1 (ps := ps) (a := s0) y9 ?_ (fun h14 => ?_)
        · exact translateNow_within (hm.of ⟨rfl⟩) h
        exact Within.put h
      · refine Within.ofPair1 (ps := ps) (a := s0) y9 ?_ (fun h19 => ?_)
        · exact translateNow_within (hm.of ⟨rfl⟩) h
        extract_lets v20
        refine Within.ite (fun _ => ?_) (fun _ => ?_)
        · exact Within.put h
        · exact Within.fold h10 (fun _ _ h23 => writeLine_within (hm.of ⟨rfl⟩) h23)
      · exact dropBlock_within (hm.of ⟨rfl⟩) h10

theorem retryBlocks_within {ps : List Area} {s0 : State} {s : State}
    (hm : Sub [.free, .counters, .events, .dma, .dram, .twin] ps) (h : Within ps s0 s) :
    Within ps s0 (retryBlocks s) := by
  unfold retryBlocks
  exact Within.fold (Within.put h) (fun _ _ h3 => writeBlock_within (hm.of ⟨rfl⟩) h3)

theorem twinBoundary_within {ps : List Area} {s0 : State} {s : State}
    (hm : Sub [.free, .counters, .events, .om, .parts, .dma, .dram, .host, .lanes, .fab, .twin] ps)
    (h : Within ps s0 s) :
    Within ps s0 (twinBoundary s) := by
  unfold twinBoundary
  extract_lets v1 v2 v3 v4 v5 v6 v7 v8 v9
  refine Within.mid (ps := ps) (a := s0) v2 ?_ (fun h10 => ?_)
  · unfold v2
    exact Within.ite (fun _ => releaseAll_within (hm.of ⟨rfl⟩) (Within.put h)) (fun _ => h)
  clear_value v2
  refine Within.mid (ps := ps) (a := s0) v3 ?_ (fun h11 => ?_)
  · unfold v3
    exact enterTwin_within (hm.of ⟨rfl⟩) h10
  clear_value v3
  refine Within.mid (ps := ps) (a := s0) v5 ?_ (fun h12 => ?_)
  · unfold v5
    exact Within.ite (fun _ => Within.put h11) (fun _ => h10)
  clear_value v5
  refine Within.mid (ps := ps) (a := s0) v7 ?_ (fun h13 => ?_)
  · unfold v7
    exact Within.ite (fun _ => Within.put h12) (fun _ => h12)
  clear_value v7
  refine Within.mid (ps := ps) (a := s0) v8 ?_ (fun h14 => ?_)
  · unfold v8
    exact sendMirror_within (hm.of ⟨rfl⟩) (handoverTick_within (hm.of ⟨rfl⟩) h13)
  clear_value v8
  refine Within.mid (ps := ps) (a := s0) v9 ?_ (fun h15 => ?_)
  · unfold v9
    exact takeoverBoundary_within (hm.of ⟨rfl⟩) (plannedTakeover_within (hm.of ⟨rfl⟩) h14)
  clear_value v9
  exact watchLag_within (hm.of ⟨rfl⟩) (retryBlocks_within (hm.of ⟨rfl⟩) h15)

theorem leaveTwin_within {ps : List Area} {s0 : State} {s : State} (hm : Sub [.events, .host, .twin] ps)
    (h : Within ps s0 s) :
    Within ps s0 (leaveTwin s) := by
  unfold leaveTwin
  refine Within.ite (fun _ => ?_) (fun _ => ?_)
  · exact h
  · extract_lets v1
    refine Within.mid (ps := ps) (a := s0) v1 ?_ (fun h2 => ?_)
    · unfold v1
      exact Within.ite (fun _ => twinEvent_within (hm.of ⟨rfl⟩) h) (fun _ => h)
    clear_value v1
    exact enterTwin_within (hm.of ⟨rfl⟩) h2

theorem startPairing_within {ps : List Area} {s0 : State} {s : State} (hm : Sub [.host, .twin] ps)
    (h : Within ps s0 s) :
    Within ps s0 (startPairing s) := by
  unfold startPairing
  refine Within.ite (fun _ => ?_) (fun _ => ?_)
  · extract_lets v1 v2
    refine Within.mid (ps := ps) (a := s0) v1 ?_ (fun h3 => ?_)
    · unfold v1
      exact enterTwin_within (hm.of ⟨rfl⟩) h
    clear_value v1
    exact Within.put h3
  · exact h

theorem discardFabric_within {ps : List Area} {s0 : State} {s : State} (hm : Sub [.dma, .fab] ps)
    (h : Within ps s0 s) :
    Within ps s0 (discardFabric s) := by
  unfold discardFabric
  extract_lets v1 v2 v3
  refine Within.mid (ps := ps) (a := s0) v3 ?_ (fun h4 => ?_)
  · unfold v3
    exact Within.put h
  clear_value v3
  exact Within.fold h4 (fun _ _ h7 => skipTag_within (hm.of ⟨rfl⟩) (dropRequest_within (hm.of ⟨rfl⟩) h7))

theorem fence_within {ps : List Area} {s0 : State} {s : State} (hm : Sub [.events, .dma, .host, .fab, .twin] ps)
    (h : Within ps s0 s) :
    Within ps s0 (fence s) := by
  unfold fence
  extract_lets v1 v2
  refine Within.mid (ps := ps) (a := s0) v1 ?_ (fun h3 => ?_)
  · unfold v1
    exact enterTwin_within (hm.of ⟨rfl⟩) h
  clear_value v1
  exact discardFabric_within (hm.of ⟨rfl⟩) (twinEvent_within (hm.of ⟨rfl⟩) (Within.put h3))

theorem hearPartner_within {ps : List Area} {s0 : State} {k : Bytes} {s : State}
    (hm : Sub [.events, .dma, .host, .fab, .twin] ps) (h : Within ps s0 s) :
    Within ps s0 (hearPartner k s) := by
  unfold hearPartner
  extract_lets v1 v2 v3 v4 v5
  refine Within.mid (ps := ps) (a := s0) v4 ?_ (fun h6 => ?_)
  · unfold v4
    exact Within.put h
  refine Within.ite (fun _ => ?_) (fun _ => ?_)
  · exact leaveTwin_within (hm.of ⟨rfl⟩) h6
  · refine Within.ite (fun _ => ?_) (fun _ => ?_)
    · exact Within.ite (fun _ => fence_within (hm.of ⟨rfl⟩) (Within.put h6)) (fun _ => h6)
    · exact Within.ite (fun _ => Within.put h6) (fun _ => h6)

theorem onPacket_within {ps : List Area} {s0 : State} {kind : Nat} {k : Bytes} {act : State → State} {s : State}
    (hm : Sub [.events, .dma, .host, .fab, .twin] ps)
    (h_act : ∀ (z0 : State), Within ps s0 z0 → Within ps s0 (act z0)) (h : Within ps s0 s) :
    Within ps s0 (onPacket kind k act s) := by
  unfold onPacket
  refine Within.ite (fun _ => ?_) (fun _ => ?_)
  · exact h
  · extract_lets v1
    refine Within.mid (ps := ps) (a := s0) v1 ?_ (fun h2 => ?_)
    · unfold v1
      exact hearPartner_within (hm.of ⟨rfl⟩) h
    clear_value v1
    exact Within.ite (fun _ => h2) (fun _ => h_act _ h2)

theorem endPairing_within {ps : List Area} {s0 : State} {s : State} (hm : Sub [.events, .host, .twin] ps)
    (h : Within ps s0 s) :
    Within ps s0 (endPairing s) := by
  unfold endPairing
  extract_lets v1 v2 v3 v4
  refine Within.mid (ps := ps) (a := s0) v2 ?_ (fun h5 => ?_)
  · unfold v2
    exact twinEvent_within (hm.of ⟨rfl⟩) h
  clear_value v2
  refine Within.mid (ps := ps) (a := s0) v3 ?_ (fun h6 => ?_)
  · unfold v3
    exact enterTwin_within (hm.of ⟨rfl⟩) h5
  clear_value v3
  exact Within.put h6

theorem follow_within {ps : List Area} {s0 : State} {n : Nat} {s : State} (hm : Sub [.host, .twin] ps)
    (h : Within ps s0 s) :
    Within ps s0 (follow n s) := by
  unfold follow
  extract_lets v1 v2
  refine Within.mid (ps := ps) (a := s0) v1 ?_ (fun h3 => ?_)
  · unfold v1
    exact enterTwin_within (hm.of ⟨rfl⟩) h
  clear_value v1
  exact Within.put h3

theorem completePairing_within {ps : List Area} {s0 : State} {prim : Bool} {s : State}
    (hm : Sub [.events, .host, .twin] ps) (h : Within ps s0 s) :
    Within ps s0 (completePairing prim s) := by
  unfold completePairing
  extract_lets v1 v2 v3 v4 v5 v6
  refine Within.mid (ps := ps) (a := s0) v2 ?_ (fun h7 => ?_)
  · unfold v2
    exact Within.ite (fun _ => Within.put h) (fun _ => h)
  refine Within.mid (ps := ps) (a := s0) v4 ?_ (fun h8 => ?_)
  · unfold v4
    exact Within.put h7
  refine Within.mid (ps := ps) (a := s0) v6 ?_ (fun h9 => ?_)
  · unfold v6
    refine Within.ite (fun _ => ?_) (fun _ => ?_)
    · exact Within.put h8
    · exact Within.ite (fun _ => enterActive_within (hm.of ⟨rfl⟩) h8) (fun _ => follow_within (hm.of ⟨rfl⟩) h8)
  clear_value v6
  exact twinEvent_within (hm.of ⟨rfl⟩) h9

theorem tryPairing_within {ps : List Area} {s0 : State} {f : TwinFacts} {s : State}
    (hm : Sub [.events, .host, .twin] ps) (h : Within ps s0 s) :
    Within ps s0 (tryPairing f s) := by
  unfold tryPairing
  refine Within.ite (fun _ => ?_) (fun _ => ?_)
  · exact h
  · split
    · exact completePairing_within (hm.of ⟨rfl⟩) h
    · exact Within.ite (fun _ => h) (fun _ => twinEvent_within (hm.of ⟨rfl⟩) (Within.put h))

theorem takeToken_within {ps : List Area} {s0 : State} {stamp : BitVec 64} {oneWay : Nat} {f : TwinFacts}
    {s : State} (hm : Sub [.events, .host, .twin] ps) (h : Within ps s0 s) :
    Within ps s0 (takeToken stamp oneWay f s) := by
  unfold takeToken
  split
  · extract_lets v5 v6 v7 v8
    refine Within.mid (ps := ps) (a := s0) v6 ?_ (fun h9 => ?_)
    · unfold v6
      exact Within.put h
    clear_value v6
    refine Within.ite (fun _ => ?_) (fun _ => ?_)
    · exact Within.ite (fun _ => h9) (fun _ => endPairing_within (hm.of ⟨rfl⟩) h9)
    · refine Within.ite (fun _ => ?_) (fun _ => ?_)
      · exact h9
      · exact Within.ite (fun _ => tryPairing_within (hm.of ⟨rfl⟩) (Within.put h9)) (fun _ => Within.put h9)

theorem mirrorLoad_within {ps : List Area} {s0 : State} {h0 : BitVec 16} {code : CodeReport} {s : State}
    (hm : Sub [.free, .events, .spad, .parts, .fab] ps) (h : Within ps s0 s) :
    Within ps s0 (mirrorLoad h0 code s) := by
  unfold mirrorLoad
  extract_lets v1 v2 v3 v4 v5
  refine Within.mid (ps := ps) (a := s0) v5 ?_ (fun h6 => ?_)
  · unfold v5
    exact Within.fold h (fun _ _ h9 => dropGraph_within (hm.of ⟨rfl⟩) h9)
  clear_value v5
  refine Within.ite (fun _ => ?_) (fun _ => ?_)
  · exact h
  · split
    · exact twinEvent_within (hm.of ⟨rfl⟩) h6
    · exact placeGraph_within (hm.of ⟨rfl⟩) h6

theorem keepCommand_within {ps : List Area} {s0 : State} {c : TwinCommand} {s : State} (hm : Sub [.twin] ps)
    (h : Within ps s0 s) :
    Within ps s0 (keepCommand c s) := by
  unfold keepCommand
  extract_lets v1 v2 v3 v4 v5 v6 v7
  refine Within.mid (ps := ps) (a := s0) v3 ?_ (fun h8 => ?_)
  · unfold v3
    exact Within.put h
  clear_value v3
  exact Within.ite (fun _ => Within.put h8) (fun _ => Within.ite (fun _ => Within.put h8) (fun _ => h8))

theorem setTwin_within {ps : List Area} {s0 : State} {n : Nat} {s : State} (hm : Sub [.host, .twin] ps)
    (h : Within ps s0 s) :
    Within ps s0 (setTwin n s) := by
  unfold setTwin
  exact Within.ite (fun _ => h) (fun _ => notify_within (hm.of ⟨rfl⟩) (Within.put h))

theorem commitFrame_within {ps : List Area} {s0 : State} {frame : Nat} {codes : List CodeReport} {s : State}
    (hm : Sub [.free, .events, .spad, .parts, .host, .fab, .twin] ps) (h : Within ps s0 s) :
    Within ps s0 (commitFrame frame codes s) := by
  unfold commitFrame
  extract_lets v1 v2 v3 v4 v5 v6 v7
  refine Within.mid (ps := ps) (a := s0) v3 ?_ (fun h8 => ?_)
  · unfold v3
    exact Within.fold h (fun _ _ h11 => mirrorLoad_within (hm.of ⟨rfl⟩) h11)
  clear_value v3
  refine Within.mid (ps := ps) (a := s0) v5 ?_ (fun h12 => ?_)
  · unfold v5
    refine Within.fold ?_ (fun s13 x14 h15 => ?_)
    · exact h8
    · refine keepCommand_within (hm.of ⟨rfl⟩) ?_
      exact Within.ite (fun _ => dropGraph_within (hm.of ⟨rfl⟩) h15) (fun _ => h15)
  clear_value v5
  refine Within.mid (ps := ps) (a := s0) v7 ?_ (fun h16 => ?_)
  · unfold v7
    exact Within.put h12
  clear_value v7
  exact Within.ite (fun _ => setTwin_within (hm.of ⟨rfl⟩) h16) (fun _ => h16)

end Sys2Proof.Machine
end

