-- ==== Sys2Proof/Laws/WithinBoundary.lean ====
section
/-! SUPPORT. Which parts of the state the operations of Machine/Boundary.lean can write: one lemma for each. -/

set_option Elab.async false

namespace Sys2Proof.Machine

theorem ageRecords_within {ps : List Area} {s0 : State} {s : State} (hm : Sub [.dma] ps) (h : Within ps s0 s) :
    Within ps s0 (ageRecords s) := by
  unfold ageRecords
  exact Within.put h

theorem resetDebts_within {ps : List Area} {s0 : State} {rs : List (Nat × Nat)} {s : State} (hm : Sub [.clk] ps)
    (h : Within ps s0 s) :
    Within ps s0 (resetDebts rs s) := by
  unfold resetDebts
  exact Within.fold h (fun _ _ h3 => setDebt_within (hm.of ⟨rfl⟩) h3)

theorem slip_within {ps : List Area} {s0 : State} {p : Nat} {t : Nat} {img : Bytes} {s : State}
    (hm : Sub [.counters, .events, .parts, .clk] ps) (h : Within ps s0 s) :
    Within ps s0 (slip p t img s) := by
  unfold slip
  extract_lets v1 v2
  refine Within.mid (ps := ps) (a := s0) v1 ?_ (fun h3 => ?_)
  · unfold v1
    exact Within.ite (fun _ => h) (fun _ => resetDebts_within (hm.of ⟨rfl⟩) h)
  clear_value v1
  exact raise_within (hm.of ⟨rfl⟩) (count32_within (hm.of ⟨rfl⟩) (changePart_within (hm.of ⟨rfl⟩) h3))

theorem advanceTemplate_within {ps : List Area} {s0 : State} {p : Nat} {img : Bytes} {s : State}
    (hm : Sub [.parts] ps) (h : Within ps s0 s) :
    Within ps s0 (advanceTemplate p img s) := by
  unfold advanceTemplate
  extract_lets v1 v2 v3
  refine Within.mid (ps := ps) (a := s0) v3 ?_ (fun h4 => ?_)
  · unfold v3
    split
    · exact h
    · exact changeRun_within (hm.of ⟨rfl⟩) h
  clear_value v3
  exact changePart_within (hm.of ⟨rfl⟩) h4

theorem closeFrame_within {ps : List Area} {s0 : State} {p : Nat} {s : State}
    (hm : Sub [.counters, .events, .parts, .clk] ps) (h : Within ps s0 s) :
    Within ps s0 (closeFrame p s) := by
  unfold closeFrame
  split
  · exact changePart_within (hm.of ⟨rfl⟩) (resetDebts_within (hm.of ⟨rfl⟩) h)
  · extract_lets v6 v7 v8 v9 v10 v11
    refine Within.mid (ps := ps) (a := s0) v6 ?_ (fun h12 => ?_)
    · unfold v6
      exact changePart_within (hm.of ⟨rfl⟩) h
    clear_value v6
    refine Within.ite (fun _ => ?_) (fun _ => ?_)
    · exact changePart_within (hm.of ⟨rfl⟩) (resetDebts_within (hm.of ⟨rfl⟩) h12)
    · refine Within.ite (fun _ => ?_) (fun _ => ?_)
      · exact changePart_within (hm.of ⟨rfl⟩) h12
      · clear_value v9
        clear_value v11
        split
        · exact slip_within (hm.of ⟨rfl⟩) h12
        · exact slip_within (hm.of ⟨rfl⟩) h12
        · exact advanceTemplate_within (hm.of ⟨rfl⟩) (resetDebts_within (hm.of ⟨rfl⟩) h12)

theorem closeUnowned_within {ps : List Area} {s0 : State} {s : State} (hm : Sub [.clk] ps) (h : Within ps s0 s)
    :
    Within ps s0 (closeUnowned s) := by
  unfold closeUnowned
  exact resetDebts_within (hm.of ⟨rfl⟩) h

theorem takeLength_within {ps : List Area} {s0 : State} {c : BitVec 2} {s : State}
    (hm : Sub [.dict, .om, .frame, .sec] ps) (h : Within ps s0 s) :
    Within ps s0 (takeLength c s) := by
  unfold takeLength
  exact answerWaiting_within (hm.of ⟨rfl⟩) (setDictNat_within (hm.of ⟨rfl⟩) (Within.put h))

theorem setChangePoint_within {ps : List Area} {s0 : State} {s : State} (hm : Sub [.frame] ps)
    (h : Within ps s0 s) :
    Within ps s0 (setChangePoint s) := by
  unfold setChangePoint
  exact Within.put h

theorem openOptical_within {ps : List Area} {s0 : State} {s : State} (hm : Sub [.dict, .om, .frame, .sec] ps)
    (h : Within ps s0 s) :
    Within ps s0 (openOptical s).2 := by
  unfold openOptical
  extract_lets v1 v2
  refine Within.mid (ps := ps) (a := s0) v2 ?_ (fun h3 => ?_)
  · unfold v2
    exact Within.put h
  clear_value v2
  split
  · dsimp only
    exact h3
  · split
    · dsimp only
      exact h3
    · split
      · dsimp only
        exact takeLength_within (hm.of ⟨rfl⟩) h3
      · dsimp only
        exact setChangePoint_within (hm.of ⟨rfl⟩) (takeLength_within (hm.of ⟨rfl⟩) h3)

theorem rebaseFrames_within {ps : List Area} {s0 : State} {n : Nat} {s : State} (hm : Sub [.las] ps)
    (h : Within ps s0 s) :
    Within ps s0 (rebaseFrames n s) := by
  unfold rebaseFrames
  exact Within.put h

theorem openFirst_within {ps : List Area} {s0 : State} {s : State}
    (hm : Sub [.dict, .om, .frame, .las, .sec] ps) (h : Within ps s0 s) :
    Within ps s0 (openFirst s).2 := by
  unfold openFirst
  extract_lets v1 v2 v3 v4
  refine Within.mid (ps := ps) (a := s0) v3 ?_ (fun h5 => ?_)
  · unfold v3
    exact rebaseFrames_within (hm.of ⟨rfl⟩) (Within.put h)
  refine Within.mid (ps := ps) (a := s0) v4 ?_ (fun h6 => ?_)
  · unfold v4
    split
    · exact h5
    · exact takeLength_within (hm.of ⟨rfl⟩) h5
  split
  · dsimp only
    exact setChangePoint_within (hm.of ⟨rfl⟩) h6
  · dsimp only
    exact h6

theorem switchTowers_within {ps : List Area} {s0 : State} {s : State}
    (hm : Sub [.free, .counters, .events, .frame, .pho, .lanes, .las, .ver, .fab] ps) (h : Within ps s0 s) :
    Within ps s0 (switchTowers s).2 := by
  unfold switchTowers
  extract_lets v1 v2 v3 v4
  refine Within.mid (ps := ps) (a := s0) v2 ?_ (fun h5 => ?_)
  · unfold v2
    exact Within.fold h (fun _ _ h8 => changeReceiver_within (hm.of ⟨rfl⟩) h8)
  clear_value v2
  refine Within.mid (ps := ps) (a := s0) v3 ?_ (fun h9 => ?_)
  · unfold v3
    exact Within.ite (fun _ => trainPaths_within (hm.of ⟨rfl⟩) h5) (fun _ => h5)
  clear_value v3
  split
  · dsimp only
    exact Within.put h9
  · dsimp only
    exact h9

theorem mark_within {ps : List Area} {s0 : State} {s : State} (hm : Sub [.events] ps) (h : Within ps s0 s) :
    Within ps s0 (mark s) := by
  unfold mark
  exact raise_within (hm.of ⟨rfl⟩) h

theorem openFrame_within {ps : List Area} {s0 : State} {s : State}
    (hm : Sub [.free, .counters, .dict, .events, .om, .frame, .pho, .lanes, .las, .ver, .fab, .sec] ps)
    (h : Within ps s0 s) :
    Within ps s0 (openFrame s) := by
  unfold openFrame
  extract_lets v1 v2
  refine Within.mid (ps := ps) (a := s0) v2 ?_ (fun h3 => ?_)
  · unfold v2
    exact Within.put h
  clear_value v2
  refine Within.ite (fun _ => ?_) (fun _ => ?_)
  · exact h3
  · split
    · rename_i y7
      refine Within.ofPair1 (ps := ps) (a := s0) y7 ?_ (fun h8 => ?_)
      · split
        · exact openOptical_within (hm.of ⟨rfl⟩) h3
        · exact openFirst_within (hm.of ⟨rfl⟩) h3
      split
      · rename_i y14
        refine Within.ofPair1 (ps := ps) (a := s0) y14 ?_ (fun h15 => ?_)
        · exact switchTowers_within (hm.of ⟨rfl⟩) h8
        exact Within.ite (fun _ => mark_within (hm.of ⟨rfl⟩) h15) (fun _ => h15)

theorem teardownRuns_within {ps : List Area} {s0 : State} {p : Nat} {s : State}
    (hm : Sub [.events, .parts, .host, .fab] ps) (h : Within ps s0 s) :
    Within ps s0 (teardownRuns p s) := by
  unfold teardownRuns
  extract_lets v1 v2
  refine Within.mid (ps := ps) (a := s0) v1 ?_ (fun h3 => ?_)
  · unfold v1
    refine Within.fold ?_ (fun s4 x5 h6 => ?_)
    · exact h
    · extract_lets v7 v8
      refine Within.mid (ps := ps) (a := s0) v7 ?_ (fun h9 => ?_)
      · unfold v7
        exact changeRun_within (hm.of ⟨rfl⟩) h6
      clear_value v7
      refine Within.mid (ps := ps) (a := s0) v8 ?_ (fun h10 => ?_)
      · unfold v8
        exact changeRun_within (hm.of ⟨rfl⟩) h9
      clear_value v8
      split
      · exact raise_within (hm.of ⟨rfl⟩) (reportRun_within (hm.of ⟨rfl⟩) h10)
      · exact raise_within (hm.of ⟨rfl⟩) (reportRun_within (hm.of ⟨rfl⟩) h10)
      · exact h9
      · exact changeRun_within (hm.of ⟨rfl⟩) h9
  clear_value v1
  exact Within.put h3

theorem enterSaving_within {ps : List Area} {s0 : State} {p : Nat} {r : Run} {s : State}
    (hm : Sub [.counters, .events, .parts] ps) (h : Within ps s0 s) :
    Within ps s0 (enterSaving p r s) := by
  unfold enterSaving
  extract_lets v1 v2 v3
  refine Within.mid (ps := ps) (a := s0) v2 ?_ (fun h4 => ?_)
  · unfold v2
    exact changePart_within (hm.of ⟨rfl⟩) h
  clear_value v2
  exact raise_within (hm.of ⟨rfl⟩) (count32_within (hm.of ⟨rfl⟩) (changeRun_within (hm.of ⟨rfl⟩) h4))

theorem tickRun_within {ps : List Area} {s0 : State} {p : Nat} {r : Run} {s : State}
    (hm : Sub [.counters, .events, .parts, .dma, .host] ps) (h : Within ps s0 s) :
    Within ps s0 (tickRun p r s) := by
  unfold tickRun
  refine Within.ite (fun _ => ?_) (fun _ => ?_)
  · exact releaseRun_within (hm.of ⟨rfl⟩) h
  · split
    · exact Within.ite (fun _ => enterSaving_within (hm.of ⟨rfl⟩) h) (fun _ => h)
    · exact Within.ite (fun _ => h) (fun _ => changeRun_within (hm.of ⟨rfl⟩) h)
    · exact Within.ite (fun _ => h) (fun _ => changeRun_within (hm.of ⟨rfl⟩) h)
    · exact h

theorem tickPartition_within {ps : List Area} {s0 : State} {p : Nat} {s : State}
    (hm : Sub [.counters, .events, .parts, .dma, .clk, .host] ps) (h : Within ps s0 s) :
    Within ps s0 (tickPartition p s) := by
  unfold tickPartition
  extract_lets v1 v2
  refine Within.mid (ps := ps) (a := s0) v1 ?_ (fun h3 => ?_)
  · unfold v1
    exact Within.fold h (fun _ _ h6 => tickRun_within (hm.of ⟨rfl⟩) h6)
  clear_value v1
  refine Within.mid (ps := ps) (a := s0) v2 ?_ (fun h7 => ?_)
  · unfold v2
    exact startNext_within (hm.of ⟨rfl⟩) h3
  clear_value v2
  split
  · exact h7
  · exact Within.ite (fun _ => h7) (fun _ => resolveRoots_within (hm.of ⟨rfl⟩) h7)

theorem takeBand_within {ps : List Area} {s0 : State} {t : Nat} {s : State}
    (hm : Sub [.free, .counters, .events, .om, .spad, .dma, .dram, .host, .pho, .lanes, .ver, .fab, .twin] ps)
    (h : Within ps s0 s) :
    Within ps s0 (takeBand t s) := by
  unfold takeBand
  extract_lets v1
  split
  · exact h
  · extract_lets v7 v8 v9
    refine Within.mid (ps := ps) (a := s0) v7 ?_ (fun h10 => ?_)
    · unfold v7
      exact changeStack_within (hm.of ⟨rfl⟩) h
    clear_value v7
    refine Within.mid (ps := ps) (a := s0) v8 ?_ (fun h11 => ?_)
    · unfold v8
      exact raiseIf_within (hm.of ⟨rfl⟩) h10
    clear_value v8
    refine Within.mid (ps := ps) (a := s0) v9 ?_ (fun h12 => ?_)
    · unfold v9
      exact resumeScrub_within (hm.of ⟨rfl⟩) (changeStack_within (hm.of ⟨rfl⟩) h11)
    clear_value v9
    exact Within.ite (fun _ => wake_within (hm.of ⟨rfl⟩) (raise_within (hm.of ⟨rfl⟩) h12)) (fun _ => h11)

theorem sendTick_within {ps : List Area} {s0 : State} {s : State} (hm : Sub [.frame] ps) (h : Within ps s0 s) :
    Within ps s0 (sendTick s) := by
  unfold sendTick
  extract_lets v1 v2
  exact Within.put h

theorem frameBoundary_within {ps : List Area} {s0 : State} {taps : List LaserTap} {s : State}
    (hm : Sub [.now, .free, .counters, .dict, .events, .om, .frame, .start, .spad, .parts, .dma, .dram, .clk, .host, .pho, .sums, .lanes, .las, .ver, .fab, .pow, .sec, .twin] ps)
    (h : Within ps s0 s) :
    Within ps s0 (frameBoundary taps s) := by
  unfold frameBoundary
  refine Within.ite (fun _ => ?_) (fun _ => ?_)
  · exact h
  · extract_lets v1 v2 v3 v4 v5 v6 v7 v8 v9 v10
    refine Within.mid (ps := ps) (a := s0) v1 ?_ (fun h11 => ?_)
    · unfold v1
      exact endSumsFrame_within (hm.of ⟨rfl⟩) (meshArrivals_within (hm.of ⟨rfl⟩) (advanceTo_within (hm.of ⟨rfl⟩) h))
    clear_value v1
    refine Within.mid (ps := ps) (a := s0) v2 ?_ (fun h12 => ?_)
    · unfold v2
      refine ageRecords_within (hm.of ⟨rfl⟩) ?_
      refine Within.fold ?_ (fun s13 x14 h15 => ?_)
      · exact closeUnowned_within (hm.of ⟨rfl⟩) h11
      · exact closeFrame_within (hm.of ⟨rfl⟩) h15
    clear_value v2
    refine Within.mid (ps := ps) (a := s0) v3 ?_ (fun h16 => ?_)
    · unfold v3
      exact clockBoundary_within (hm.of ⟨rfl⟩) (openFrame_within (hm.of ⟨rfl⟩) h12)
    clear_value v3
    refine Within.mid (ps := ps) (a := s0) v4 ?_ (fun h17 => ?_)
    · unfold v4
      exact Within.fold h16 (fun _ _ h20 => strideFor_within (hm.of ⟨rfl⟩) h20)
    clear_value v4
    refine Within.mid (ps := ps) (a := s0) v6 ?_ (fun h21 => ?_)
    · unfold v6
      exact Within.fold (Within.put h17) (fun _ _ h24 => teardownRuns_within (hm.of ⟨rfl⟩) h24)
    clear_value v6
    refine Within.mid (ps := ps) (a := s0) v7 ?_ (fun h25 => ?_)
    · unfold v7
      refine Within.fold ?_ (fun s26 x27 h28 => ?_)
      · exact h21
      · exact tickRouters_within (hm.of ⟨rfl⟩) (tickPartition_within (hm.of ⟨rfl⟩) h28)
    clear_value v7
    refine Within.mid (ps := ps) (a := s0) v8 ?_ (fun h29 => ?_)
    · unfold v8
      refine linksBoundary_within (hm.of ⟨rfl⟩) ?_
      refine applyPathChanges_within (hm.of ⟨rfl⟩) ?_
      exact bundlesBoundary_within (hm.of ⟨rfl⟩) (lasersBoundary_within (hm.of ⟨rfl⟩) h25)
    clear_value v8
    refine Within.mid (ps := ps) (a := s0) v9 ?_ (fun h30 => ?_)
    · unfold v9
      refine twinBoundary_within (hm.of ⟨rfl⟩) ?_
      exact securityBoundary_within (hm.of ⟨rfl⟩) (powerBoundary_within (hm.of ⟨rfl⟩) h29)
    clear_value v9
    refine Within.mid (ps := ps) (a := s0) v10 ?_ (fun h31 => ?_)
    · unfold v10
      exact Within.fold h30 (fun _ _ h34 => takeBand_within (hm.of ⟨rfl⟩) h34)
    clear_value v10
    exact sendTick_within (hm.of ⟨rfl⟩) (pumpAll_within (hm.of ⟨rfl⟩) h31)

theorem execFrameBoundary_within {ps : List Area} {s0 : State} {taps : List LaserTap} {s : State}
    (hm : Sub [.now, .free, .counters, .dict, .events, .om, .frame, .start, .spad, .parts, .dma, .dram, .clk, .host, .pho, .sums, .lanes, .las, .ver, .fab, .pow, .sec, .twin] ps)
    (h : Within ps s0 s) :
    OutWithin ps s0 (execFrameBoundary taps s) := by
  unfold execFrameBoundary
  exact OutWithin.next (frameBoundary_within (hm.of ⟨rfl⟩) h)

end Sys2Proof.Machine
end

