-- ==== Sys2Proof/Laws/WithinHostPort.lean ====
section
/-! SUPPORT. Which parts of the state the operations of Machine/HostPort.lean can write: one lemma for each. -/

set_option Elab.async false

namespace Sys2Proof.Machine

theorem linkUp_within {ps : List Area} {s0 : State} {port : Nat} {rate : Nat} {width : Nat} {flit : Bool}
    {s : State} (hm : Sub [.events, .host] ps) (h : Within ps s0 s) :
    Within ps s0 (linkUp port rate width flit s) := by
  unfold linkUp
  exact Within.ite (fun _ => h) (fun _ => raise_within (hm.of ⟨rfl⟩) (Within.put h))

theorem execHostLinkUp_within {ps : List Area} {s0 : State} {port : Fin 2} {rate : BitVec 4} {width : BitVec 5}
    {flit : Bool} {s : State} (hm : Sub [.events, .host] ps) (h : Within ps s0 s) :
    OutWithin ps s0 (execHostLinkUp port rate width flit s) := by
  unfold execHostLinkUp
  exact OutWithin.next (linkUp_within (hm.of ⟨rfl⟩) h)

theorem dropHostWork_within {ps : List Area} {s0 : State} {p : Nat} {s : State} (hm : Sub [.parts, .host] ps)
    (h : Within ps s0 s) :
    Within ps s0 (dropHostWork p s) := by
  unfold dropHostWork
  exact Within.put h

theorem disableQueue_within {ps : List Area} {s0 : State} {p : Nat} {s : State} (hm : Sub [.parts, .host] ps)
    (h : Within ps s0 s) :
    Within ps s0 (disableQueue p s) := by
  unfold disableQueue
  exact dropHostWork_within (hm.of ⟨rfl⟩) (changeQueue_within (hm.of ⟨rfl⟩) h)

theorem resetPartition_within {ps : List Area} {s0 : State} {detail : Nat} {p : Nat} {s : State}
    (hm : Sub [.events, .parts, .dma, .host, .fab] ps) (h : Within ps s0 s) :
    Within ps s0 (resetPartition detail p s) := by
  unfold resetPartition
  extract_lets v1 v2 v3 v4
  refine Within.mid (ps := ps) (a := s0) v1 ?_ (fun h5 => ?_)
  · unfold v1
    exact Within.fold h (fun _ _ h8 => releaseRun_within (hm.of ⟨rfl⟩) h8)
  clear_value v1
  refine Within.mid (ps := ps) (a := s0) v2 ?_ (fun h9 => ?_)
  · unfold v2
    exact Within.fold h5 (fun _ _ h12 => dropGraph_within (hm.of ⟨rfl⟩) h12)
  clear_value v2
  refine Within.mid (ps := ps) (a := s0) v3 ?_ (fun h13 => ?_)
  · unfold v3
    exact disableQueue_within (hm.of ⟨rfl⟩) h9
  clear_value v3
  exact Within.put h13

theorem resetEndpoint_within {ps : List Area} {s0 : State} {s : State} (hm : Sub [.om, .host] ps)
    (h : Within ps s0 s) :
    Within ps s0 (resetEndpoint s) := by
  unfold resetEndpoint
  extract_lets v1 v2 v3
  exact Within.put h

theorem resetFunction_within {ps : List Area} {s0 : State} {detail : Nat} {f : Nat} {s : State}
    (hm : Sub [.events, .om, .parts, .dma, .host, .fab, .sec] ps) (h : Within ps s0 s) :
    Within ps s0 (resetFunction detail f s) := by
  unfold resetFunction
  extract_lets v1 v2 v3 v4 v5 v6 v7
  refine Within.mid (ps := ps) (a := s0) v2 ?_ (fun h8 => ?_)
  · unfold v2
    exact Within.fold h (fun _ _ h11 => resetPartition_within (hm.of ⟨rfl⟩) h11)
  clear_value v2
  refine Within.mid (ps := ps) (a := s0) v3 ?_ (fun h12 => ?_)
  · unfold v3
    exact tdiFail_within (hm.of ⟨rfl⟩) h8
  clear_value v3
  refine Within.mid (ps := ps) (a := s0) v4 ?_ (fun h13 => ?_)
  · unfold v4
    exact changeFunction_within (hm.of ⟨rfl⟩) h12
  clear_value v4
  refine Within.mid (ps := ps) (a := s0) v6 ?_ (fun h14 => ?_)
  · unfold v6
    exact Within.put h13
  clear_value v6
  refine Within.mid (ps := ps) (a := s0) v7 ?_ (fun h15 => ?_)
  · unfold v7
    exact Within.ite (fun _ => resetEndpoint_within (hm.of ⟨rfl⟩) h14) (fun _ => h14)
  clear_value v7
  exact raise_within (hm.of ⟨rfl⟩) h15

theorem loseHostWrites_within {ps : List Area} {s0 : State} {p : Nat} {s : State} (hm : Sub [.parts, .dma] ps)
    (h : Within ps s0 s) :
    Within ps s0 (loseHostWrites p s) := by
  unfold loseHostWrites
  refine Within.fold ?_ (fun s1 x2 h3 => ?_)
  · exact h
  · refine Within.fold ?_ (fun s4 x5 h6 => ?_)
    · exact h3
    · split
      · refine Within.ite (fun _ => ?_) (fun _ => ?_)
        · exact finishDesc_within (hm.of ⟨rfl⟩) (changeTask_within (hm.of ⟨rfl⟩) h6)
        · exact h6

theorem linkGone_within {ps : List Area} {s0 : State} {port : Nat} {loss : HostLoss} {s : State}
    (hm : Sub [.events, .om, .parts, .dma, .host, .fab, .sec] ps) (h : Within ps s0 s) :
    Within ps s0 (linkGone port loss s) := by
  unfold linkGone
  extract_lets v1 v2 v3
  refine Within.mid (ps := ps) (a := s0) v3 ?_ (fun h4 => ?_)
  · unfold v3
    exact raise_within (hm.of ⟨rfl⟩) (Within.put h)
  clear_value v3
  refine Within.ite (fun _ => ?_) (fun _ => ?_)
  · exact h
  · refine Within.fold ?_ (fun s5 x6 h7 => ?_)
    · exact h4
    · refine resetFunction_within (hm.of ⟨rfl⟩) ?_
      exact Within.fold h7 (fun _ _ h10 => loseHostWrites_within (hm.of ⟨rfl⟩) h10)

theorem execHostLinkDown_within {ps : List Area} {s0 : State} {port : Fin 2} {loss : HostLoss} {s : State}
    (hm : Sub [.events, .om, .parts, .dma, .host, .fab, .sec] ps) (h : Within ps s0 s) :
    OutWithin ps s0 (execHostLinkDown port loss s) := by
  unfold execHostLinkDown
  exact OutWithin.next (linkGone_within (hm.of ⟨rfl⟩) h)

theorem functionReset_within {ps : List Area} {s0 : State} {f : Nat} {s : State}
    (hm : Sub [.events, .om, .parts, .dma, .host, .fab, .sec] ps) (h : Within ps s0 s) :
    Within ps s0 (functionReset f s) := by
  unfold functionReset
  refine Within.ite (fun _ => ?_) (fun _ => ?_)
  · exact h
  · refine Within.ite (fun _ => ?_) (fun _ => ?_)
    · exact Within.fold h (fun _ _ h3 => resetFunction_within (hm.of ⟨rfl⟩) h3)
    · exact resetFunction_within (hm.of ⟨rfl⟩) h

theorem execFunctionLevelReset_within {ps : List Area} {s0 : State} {function : Function} {s : State}
    (hm : Sub [.events, .om, .parts, .dma, .host, .fab, .sec] ps) (h : Within ps s0 s) :
    OutWithin ps s0 (execFunctionLevelReset function s) := by
  unfold execFunctionLevelReset
  exact OutWithin.next (functionReset_within (hm.of ⟨rfl⟩) h)

theorem answerHost_within {ps : List Area} {s0 : State} {a : TlpAnswer} {s : State} (hm : Sub [.host] ps)
    (h : Within ps s0 s) :
    Within ps s0 (answerHost a s) := by
  unfold answerHost
  exact Within.put h

theorem configWrite_within {ps : List Area} {s0 : State} {f : Nat} {access : ConfigAccess} {s : State}
    (hm : Sub [.host] ps) (h : Within ps s0 s) :
    Within ps s0 (configWrite f access s) := by
  unfold configWrite
  split
  · exact h
  · exact changeFunction_within (hm.of ⟨rfl⟩) h
  · exact changeFunction_within (hm.of ⟨rfl⟩) h
  · exact changeFunction_within (hm.of ⟨rfl⟩) h
  · exact changeFunction_within (hm.of ⟨rfl⟩) h

theorem configRequest_within {ps : List Area} {s0 : State} {f : Nat} {access : ConfigAccess} {s : State}
    (hm : Sub [.host] ps) (h : Within ps s0 s) :
    Within ps s0 (configRequest f access s) := by
  unfold configRequest
  refine Within.ite (fun _ => ?_) (fun _ => ?_)
  · exact h
  · refine Within.ite (fun _ => ?_) (fun _ => ?_)
    · exact answerHost_within (hm.of ⟨rfl⟩) h
    · exact answerHost_within (hm.of ⟨rfl⟩) (configWrite_within (hm.of ⟨rfl⟩) h)

theorem execConfigRequest_within {ps : List Area} {s0 : State} {function : Function} {access : ConfigAccess}
    {s : State} (hm : Sub [.host] ps) (h : Within ps s0 s) :
    OutWithin ps s0 (execConfigRequest function access s) := by
  unfold execConfigRequest
  exact OutWithin.next (configRequest_within (hm.of ⟨rfl⟩) h)

theorem barFailed_within {ps : List Area} {s0 : State} {f : Nat} {p : Option Nat} {s : State}
    (hm : Sub [.events] ps) (h : Within ps s0 s) :
    Within ps s0 (barFailed f p s) := by
  unfold barFailed
  exact raise_within (hm.of ⟨rfl⟩) h

theorem barPiece_within {ps : List Area} {s0 : State} {f : Nat} {p : Nat} {write : Bool} {a : Nat} {len : Nat}
    {s : State} (hm : Sub [.free, .counters, .events, .dma, .dram] ps) (h : Within ps s0 s) :
    Within ps s0 (barPiece f p write a len s).2 := by
  unfold barPiece
  split
  · rename_i y4
    refine Within.ofPair1 (ps := ps) (a := s0) y4 ?_ (fun h5 => ?_)
    · exact translateNow_within (hm.of ⟨rfl⟩) h
    split
    · refine Within.ofPair1 (ps := ps) (a := s0) y4 ?_ (fun h11 => ?_)
      · exact translateNow_within (hm.of ⟨rfl⟩) h
      split
      · dsimp only
        exact h5
      · split
        · dsimp only
          exact h5
        · split
          · split
            · dsimp only
              exact h5
            · split
              · dsimp only
                exact h5
              · dsimp only
                exact h5
          · split
            · dsimp only
              exact h5
            · split
              · dsimp only
                exact h5
              · dsimp only
                exact h5
    · refine Within.ofPair1 (ps := ps) (a := s0) y4 ?_ (fun h33 => ?_)
      · exact translateNow_within (hm.of ⟨rfl⟩) h
      dsimp only
      exact h5
    · refine Within.ofPair1 (ps := ps) (a := s0) y4 ?_ (fun h36 => ?_)
      · exact translateNow_within (hm.of ⟨rfl⟩) h
      dsimp only
      exact h5
    · refine Within.ofPair1 (ps := ps) (a := s0) y4 ?_ (fun h39 => ?_)
      · exact translateNow_within (hm.of ⟨rfl⟩) h
      dsimp only
      exact h5
    · refine Within.ofPair1 (ps := ps) (a := s0) y4 ?_ (fun h43 => ?_)
      · exact translateNow_within (hm.of ⟨rfl⟩) h
      dsimp only
      exact h5
    · refine Within.ofPair1 (ps := ps) (a := s0) y4 ?_ (fun h48 => ?_)
      · exact translateNow_within (hm.of ⟨rfl⟩) h
      dsimp only
      exact h5

theorem barCheck_within {ps : List Area} {s0 : State} {f : Nat} {p : Nat} {write : Bool} {a3 : List (Nat × Nat)}
    {a4 : State} (hm : Sub [.free, .counters, .events, .dma, .dram] ps) (h : Within ps s0 a4) :
    Within ps s0 (barCheck f p write a3 a4).2 := by
  induction a3 generalizing f p write a4 h
  · rw [barCheck]
    dsimp only
    exact h
  · rename_i ih3
    rw [barCheck]
    split
    · rename_i y7
      refine Within.ofPair1 (ps := ps) (a := s0) y7 ?_ (fun h8 => ?_)
      · exact barPiece_within (hm.of ⟨rfl⟩) h
      split
      · rename_i y12
        refine Within.ofPair1 (ps := ps) (a := s0) y12 ?_ (fun h13 => ?_)
        · exact ih3 h8
        dsimp only
        exact h13
      · exact ih3 h8
    · exact barPiece_within (hm.of ⟨rfl⟩) h

theorem barWrite_within {ps : List Area} {s0 : State} {a0 : List (Nat × Nat)} {a1 : Bytes} {a2 : Bool}
    {a3 : State} (hm : Sub [.free, .counters, .events, .spad, .dma, .dram, .pho, .ver, .twin] ps)
    (h : Within ps s0 a3) :
    Within ps s0 (barWrite a0 a1 a2 a3) := by
  induction a0 generalizing a1 a2 a3 h
  · rw [barWrite]
    exact h
  · rename_i ih3
    rw [barWrite]
    refine ih3 ?_
    refine Within.ite (fun _ => ?_) (fun _ => ?_)
    · exact spadWrite_within (hm.of ⟨rfl⟩) h
    · split
      · rename_i y7
        refine Within.ofPair1 (ps := ps) (a := s0) y7 ?_ (fun h8 => ?_)
        · exact writeLine_within (hm.of ⟨rfl⟩) h
        exact Within.ite (fun _ => h8) (fun _ => sendInvalidations_within (hm.of ⟨rfl⟩) h8)

theorem barRead_within {ps : List Area} {s0 : State} {places : List (Nat × Nat)} {s : State}
    (hm : Sub [.counters, .events, .dram] ps) (h : Within ps s0 s) :
    Within ps s0 (barRead places s).2.2 := by
  unfold barRead
  refine Within.foldTriple ?_ (fun s1 x2 h3 => ?_)
  · dsimp only
    exact h
  · split
    · rename_i y8
      refine Within.ofPair2 (ps := ps) (a := s0) y8 ?_ (fun h9 => ?_)
      · exact readLocal_within (hm.of ⟨rfl⟩) h3
      dsimp only
      exact h9

theorem barAccess_within {ps : List Area} {s0 : State} {x : BarAccess} {s : State}
    (hm : Sub [.free, .counters, .events, .spad, .dma, .dram, .host, .pho, .ver, .twin] ps) (h : Within ps s0 s)
    :
    Within ps s0 (barAccess x s) := by
  unfold barAccess
  extract_lets v1 v2 v3
  refine Within.mid (ps := ps) (a := s0) v3 ?_ (fun h4 => ?_)
  · unfold v3
    exact barFailed_within (hm.of ⟨rfl⟩) h
  clear_value v3
  split
  · exact Within.ite (fun _ => h4) (fun _ => answerHost_within (hm.of ⟨rfl⟩) h4)
  · split
    · rename_i y14
      refine Within.ofPair1 (ps := ps) (a := s0) y14 ?_ (fun h15 => ?_)
      · exact barCheck_within (hm.of ⟨rfl⟩) h
      split
      · refine Within.ofPair1 (ps := ps) (a := s0) y14 ?_ (fun h18 => ?_)
        · exact barCheck_within (hm.of ⟨rfl⟩) h
        exact Within.ite (fun _ => h15) (fun _ => answerHost_within (hm.of ⟨rfl⟩) h15)
      · refine Within.ofPair1 (ps := ps) (a := s0) y14 ?_ (fun h21 => ?_)
        · exact barCheck_within (hm.of ⟨rfl⟩) h
        extract_lets v22
        refine Within.mid (ps := ps) (a := s0) v22 ?_ (fun h23 => ?_)
        · unfold v22
          exact barFailed_within (hm.of ⟨rfl⟩) h15
        clear_value v22
        exact Within.ite (fun _ => h23) (fun _ => answerHost_within (hm.of ⟨rfl⟩) h23)
      · refine Within.ofPair1 (ps := ps) (a := s0) y14 ?_ (fun h28 => ?_)
        · exact barCheck_within (hm.of ⟨rfl⟩) h
        extract_lets v29
        refine Within.mid (ps := ps) (a := s0) v29 ?_ (fun h30 => ?_)
        · unfold v29
          exact worldDenied_within (hm.of ⟨rfl⟩) h15
        clear_value v29
        exact Within.ite (fun _ => h30) (fun _ => answerHost_within (hm.of ⟨rfl⟩) h30)
      · refine Within.ofPair1 (ps := ps) (a := s0) y14 ?_ (fun h34 => ?_)
        · exact barCheck_within (hm.of ⟨rfl⟩) h
        split
        · exact barWrite_within (hm.of ⟨rfl⟩) h15
        · split
          · rename_i y45
            refine Within.ofPair2 (ps := ps) (a := s0) y45 ?_ (fun h46 => ?_)
            · exact barRead_within (hm.of ⟨rfl⟩) h15
            exact answerHost_within (hm.of ⟨rfl⟩) h46

theorem execBar2Read_within {ps : List Area} {s0 : State} {function : Function} {offset : BitVec 44}
    {length : BitVec 13} {s : State}
    (hm : Sub [.free, .counters, .events, .spad, .dma, .dram, .host, .pho, .ver, .twin] ps) (h : Within ps s0 s)
    :
    OutWithin ps s0 (execBar2Read function offset length s) := by
  unfold execBar2Read
  exact OutWithin.next (Within.ite (fun _ => barAccess_within (hm.of ⟨rfl⟩) h) (fun _ => h))

theorem execBar2Write_within {ps : List Area} {s0 : State} {function : Function} {offset : BitVec 44}
    {data : Bytes} {poisoned : Bool} {s : State}
    (hm : Sub [.free, .counters, .events, .spad, .dma, .dram, .host, .pho, .ver, .twin] ps) (h : Within ps s0 s)
    :
    OutWithin ps s0 (execBar2Write function offset data poisoned s) := by
  unfold execBar2Write
  exact OutWithin.next (Within.ite (fun _ => barAccess_within (hm.of ⟨rfl⟩) h) (fun _ => h))

theorem execBar2Atomicop_within {ps : List Area} {s0 : State} {function : Function} {offset : BitVec 44}
    {s : State} (hm : Sub [.host] ps) (h : Within ps s0 s) :
    OutWithin ps s0 (execBar2Atomicop function offset s) := by
  unfold execBar2Atomicop
  exact OutWithin.next (Within.ite (fun _ => answerHost_within (hm.of ⟨rfl⟩) h) (fun _ => h))

theorem ownersAct_within {ps : List Area} {s0 : State} {a0 : Bytes} {a1 : State}
    (hm : Sub [.dict, .host, .sec] ps) (h : Within ps s0 a1) :
    WWithin ps s0 (ownersAct a0 a1) := by
  unfold ownersAct
  extract_lets v1 v2 v3 v4 v5 v6 v7
  refine Within.mid (ps := ps) (a := s0) v6 ?_ (fun h8 => ?_)
  · unfold v6
    split
    · exact h
    · exact setDict_within (hm.of ⟨rfl⟩) h
  clear_value v6
  refine Within.mid (ps := ps) (a := s0) v7 ?_ (fun h14 => ?_)
  · unfold v7
    exact setDictNat_within (hm.of ⟨rfl⟩) h
  clear_value v7
  split
  · exact .refuse
  · split
    · exact .refuse
    · exact WWithin.done (Within.ite (fun _ => h14) (fun _ => notify_within (hm.of ⟨rfl⟩) h14))

theorem execPartitionOwnersWrite_within {ps : List Area} {s0 : State} {req : Req} {value : Bytes} {s : State}
    (hm : Sub [.dict, .events, .om, .host, .sec] ps) (h : Within ps s0 s) :
    OutWithin ps s0 (execPartitionOwnersWrite req value s) := by
  unfold execPartitionOwnersWrite
  refine OutWithin.next ?_
  refine serveWrite_within (hm.of ⟨rfl⟩) ?_ ?_
  · intro x1 s2 h3
    exact ownersAct_within (hm.of ⟨rfl⟩) h3
  · exact h

theorem haltQueue_within {ps : List Area} {s0 : State} {p : Nat} {error : Nat} {s : State}
    (hm : Sub [.events, .host] ps) (h : Within ps s0 s) :
    Within ps s0 (haltQueue p error s) := by
  unfold haltQueue
  exact raise_within (hm.of ⟨rfl⟩) (changeQueue_within (hm.of ⟨rfl⟩) h)

theorem gqDoorbell_within {ps : List Area} {s0 : State} {p : Nat} {position : BitVec 32} {s : State}
    (hm : Sub [.events, .host] ps) (h : Within ps s0 s) :
    Within ps s0 (gqDoorbell p position s) := by
  unfold gqDoorbell
  extract_lets v1 v2
  refine Within.mid (ps := ps) (a := s0) v2 ?_ (fun h3 => ?_)
  · unfold v2
    exact changeQueue_within (hm.of ⟨rfl⟩) h
  clear_value v2
  exact Within.ite (fun _ => h) (fun _ => Within.ite (fun _ => h3) (fun _ => haltQueue_within (hm.of ⟨rfl⟩) h3))

theorem execGqTail_within {ps : List Area} {s0 : State} {function : Function} {partition : Partition}
    {position : BitVec 32} {s : State} (hm : Sub [.events, .host] ps) (h : Within ps s0 s) :
    OutWithin ps s0 (execGqTail function partition position s) := by
  unfold execGqTail
  exact OutWithin.next (Within.ite (fun _ => gqDoorbell_within (hm.of ⟨rfl⟩) h) (fun _ => h))

theorem entryArrives_within {ps : List Area} {s0 : State} {p : Nat} {entry : Option (BitVec 512)} {s : State}
    (hm : Sub [.events, .host] ps) (h : Within ps s0 s) :
    Within ps s0 (entryArrives p entry s) := by
  unfold entryArrives
  extract_lets v1
  refine Within.ite (fun _ => ?_) (fun _ => ?_)
  · exact h
  · split
    · exact haltQueue_within (hm.of ⟨rfl⟩) h
    · exact changeQueue_within (hm.of ⟨rfl⟩) h

theorem execGraphEntryFetch_within {ps : List Area} {s0 : State} {partition : Partition}
    {entry : Option (BitVec 512)} {s : State} (hm : Sub [.events, .host] ps) (h : Within ps s0 s) :
    OutWithin ps s0 (execGraphEntryFetch partition entry s) := by
  unfold execGraphEntryFetch
  exact OutWithin.next (entryArrives_within (hm.of ⟨rfl⟩) h)

theorem releaseRecords_within {ps : List Area} {s0 : State} {p : Nat} {a1 : Nat} {a2 : State}
    (hm : Sub [.host] ps) (h : Within ps s0 a2) :
    Within ps s0 (releaseRecords p a1 a2) := by
  induction a1 generalizing p a2 h
  · rw [releaseRecords]
    exact h
  · rename_i ih2
    rw [releaseRecords]
    split
    · exact h
    · refine Within.ite (fun _ => ?_) (fun _ => ?_)
      · exact h
      · exact ih2 (ringWrite_within (hm.of ⟨rfl⟩) (changeQueue_within (hm.of ⟨rfl⟩) h))

theorem cqDoorbell_within {ps : List Area} {s0 : State} {p : Nat} {position : BitVec 32} {s : State}
    (hm : Sub [.host] ps) (h : Within ps s0 s) :
    Within ps s0 (cqDoorbell p position s) := by
  unfold cqDoorbell
  extract_lets v1 v2 v3
  refine Within.mid (ps := ps) (a := s0) v2 ?_ (fun h4 => ?_)
  · unfold v2
    exact changeQueue_within (hm.of ⟨rfl⟩) h
  clear_value v2
  refine Within.mid (ps := ps) (a := s0) v3 ?_ (fun h5 => ?_)
  · unfold v3
    exact releaseRecords_within (hm.of ⟨rfl⟩) h4
  clear_value v3
  refine Within.ite (fun _ => ?_) (fun _ => ?_)
  · exact h
  · refine Within.ite (fun _ => ?_) (fun _ => ?_)
    · exact h5
    · exact signalCompletion_within (hm.of ⟨rfl⟩) (writeShadow_within (hm.of ⟨rfl⟩) h5)

theorem execCqHead_within {ps : List Area} {s0 : State} {function : Function} {partition : Partition}
    {position : BitVec 32} {s : State} (hm : Sub [.host] ps) (h : Within ps s0 s) :
    OutWithin ps s0 (execCqHead function partition position s) := by
  unfold execCqHead
  exact OutWithin.next (Within.ite (fun _ => cqDoorbell_within (hm.of ⟨rfl⟩) h) (fun _ => h))

theorem execFqHead_within {ps : List Area} {s0 : State} {function : Function} {partition : Partition}
    {position : BitVec 32} {s : State} (hm : Sub [.host] ps) (h : Within ps s0 s) :
    OutWithin ps s0 (execFqHead function partition position s) := by
  unfold execFqHead
  exact OutWithin.next (Within.ite (fun _ => changeQueue_within (hm.of ⟨rfl⟩) h) (fun _ => h))

theorem queueEnable_within {ps : List Area} {s0 : State} {p : Nat} {x : QueueSetup} {s : State}
    (hm : Sub [.host] ps) (h : Within ps s0 s) :
    Within ps s0 (queueEnable p x s) := by
  unfold queueEnable
  refine Within.ite (fun _ => ?_) (fun _ => ?_)
  · exact changeQueue_within (hm.of ⟨rfl⟩) h
  · extract_lets v1
    refine Within.ite (fun _ => ?_) (fun _ => ?_)
    · exact writeShadow_within (hm.of ⟨rfl⟩) (changeQueue_within (hm.of ⟨rfl⟩) h)
    · exact changeQueue_within (hm.of ⟨rfl⟩) h

theorem execQueueEnable_within {ps : List Area} {s0 : State} {function : Function} {partition : Partition}
    {setup : QueueSetup} {s : State} (hm : Sub [.host] ps) (h : Within ps s0 s) :
    OutWithin ps s0 (execQueueEnable function partition setup s) := by
  unfold execQueueEnable
  exact OutWithin.next (Within.ite (fun _ => queueEnable_within (hm.of ⟨rfl⟩) h) (fun _ => h))

theorem execQueueDisable_within {ps : List Area} {s0 : State} {function : Function} {partition : Partition}
    {s : State} (hm : Sub [.parts, .host] ps) (h : Within ps s0 s) :
    OutWithin ps s0 (execQueueDisable function partition s) := by
  unfold execQueueDisable
  exact OutWithin.next (Within.ite (fun _ => disableQueue_within (hm.of ⟨rfl⟩) h) (fun _ => h))

theorem moderationEnds_within {ps : List Area} {s0 : State} {p : Nat} {fault : Bool} {s : State}
    (hm : Sub [.now, .host] ps) (h : Within ps s0 s) :
    Within ps s0 (moderationEnds p fault s) := by
  unfold moderationEnds
  extract_lets v1 v2 v3 v4 v5
  refine Within.mid (ps := ps) (a := s0) v4 ?_ (fun h6 => ?_)
  · unfold v4
    exact advanceTo_within (hm.of ⟨rfl⟩) h
  clear_value v4
  refine Within.mid (ps := ps) (a := s0) v5 ?_ (fun h7 => ?_)
  · unfold v5
    exact changeQueue_within (hm.of ⟨rfl⟩) h6
  clear_value v5
  exact Within.ite (fun _ => h) (fun _ => sendVector_within (hm.of ⟨rfl⟩) h7)

theorem execMsixModerationTimer_within {ps : List Area} {s0 : State} {partition : Partition} {fault : Bool}
    {s : State} (hm : Sub [.now, .host] ps) (h : Within ps s0 s) :
    OutWithin ps s0 (execMsixModerationTimer partition fault s) := by
  unfold execMsixModerationTimer
  exact OutWithin.next (moderationEnds_within (hm.of ⟨rfl⟩) h)

theorem notifyClear_within {ps : List Area} {s0 : State} {f : Nat} {value : Nat} {mask : Nat} {vector : Nat}
    {s : State} (hm : Sub [.host] ps) (h : Within ps s0 s) :
    Within ps s0 (notifyClear f value mask vector s) := by
  unfold notifyClear
  refine Within.ite (fun _ => ?_) (fun _ => ?_)
  · exact h
  · extract_lets v1 v2 v3 v4
    refine Within.mid (ps := ps) (a := s0) v4 ?_ (fun h5 => ?_)
    · unfold v4
      exact changeFunction_within (hm.of ⟨rfl⟩) h
    clear_value v4
    exact Within.ite (fun _ => sendVector_within (hm.of ⟨rfl⟩) h5) (fun _ => h5)

theorem execNotifyStatusClear_within {ps : List Area} {s0 : State} {function : Function} {value : BitVec 32}
    {mask : BitVec 32} {vector : BitVec 8} {s : State} (hm : Sub [.host] ps) (h : Within ps s0 s) :
    OutWithin ps s0 (execNotifyStatusClear function value mask vector s) := by
  unfold execNotifyStatusClear
  exact OutWithin.next (notifyClear_within (hm.of ⟨rfl⟩) h)

theorem takeRead_within {ps : List Area} {s0 : State} {tag : Nat} {s : State} (hm : Sub [.host] ps)
    (h : Within ps s0 s) :
    OptPairWithin ps s0 (takeRead tag s) := by
  unfold takeRead
  refine OptPairWithin.map (fun x1 => ?_)
  dsimp only
  exact Within.put h

theorem answerRead_within {ps : List Area} {s0 : State} {t : Nat} {e : Nat} {tag : Nat} {code : Nat}
    {data : Option Bytes} {s : State}
    (hm : Sub [.free, .counters, .events, .om, .spad, .dma, .dram, .host, .pho, .lanes, .ver, .fab, .twin] ps)
    (h : Within ps s0 s) :
    Within ps s0 (answerRead t e tag code data s) := by
  unfold answerRead
  extract_lets v1
  split
  · exact h
  · exact answerDesc_within (hm.of ⟨rfl⟩) h

theorem readData_within {ps : List Area} {s0 : State} {tag : Nat} {code : Nat} {bytes : Bytes} {s : State}
    (hm : Sub [.free, .counters, .events, .om, .spad, .parts, .dma, .dram, .host, .pho, .lanes, .ver, .fab, .twin] ps)
    (h : Within ps s0 s) :
    Within ps s0 (readData tag code bytes s) := by
  unfold readData
  split
  · exact h
  · rename_i y6
    refine OptPairWithin.out (ps := ps) (a := s0) y6 ?_ (fun h7 => ?_)
    · exact takeRead_within (hm.of ⟨rfl⟩) h
    split
    · exact answerRead_within (hm.of ⟨rfl⟩) h7
    · exact answerRead_within (hm.of ⟨rfl⟩) h7
    · exact h
    · refine Within.ite (fun _ => ?_) (fun _ => ?_)
      · exact bindingsArrive_within (hm.of ⟨rfl⟩) h7
      · exact bindingsLost_within (hm.of ⟨rfl⟩) h7

theorem readFailed_within {ps : List Area} {s0 : State} {tag : Nat} {s : State}
    (hm : Sub [.free, .counters, .events, .om, .spad, .parts, .dma, .dram, .host, .pho, .lanes, .ver, .fab, .twin] ps)
    (h : Within ps s0 s) :
    Within ps s0 (readFailed tag s) := by
  unfold readFailed
  split
  · exact h
  · rename_i y6
    refine OptPairWithin.out (ps := ps) (a := s0) y6 ?_ (fun h7 => ?_)
    · exact takeRead_within (hm.of ⟨rfl⟩) h
    extract_lets v8 v9 v10
    refine Within.mid (ps := ps) (a := s0) v9 ?_ (fun h11 => ?_)
    · unfold v9
      exact raise_within (hm.of ⟨rfl⟩) (count32_within (hm.of ⟨rfl⟩) h7)
    clear_value v9
    split
    · exact answerRead_within (hm.of ⟨rfl⟩) h11
    · exact answerRead_within (hm.of ⟨rfl⟩) h11
    · exact reportCommand_within (hm.of ⟨rfl⟩) (Within.put h11)
    · exact bindingsLost_within (hm.of ⟨rfl⟩) h11

theorem readEnds_within {ps : List Area} {s0 : State} {tag : Nat} {result : HostEnd} {s : State}
    (hm : Sub [.free, .counters, .events, .om, .spad, .parts, .dma, .dram, .host, .pho, .lanes, .ver, .fab, .twin] ps)
    (h : Within ps s0 s) :
    Within ps s0 (readEnds tag result s) := by
  unfold readEnds
  split
  · exact readData_within (hm.of ⟨rfl⟩) h
  · exact readData_within (hm.of ⟨rfl⟩) h
  · exact readFailed_within (hm.of ⟨rfl⟩) h
  · exact readFailed_within (hm.of ⟨rfl⟩) h

theorem execHostReadCompletion_within {ps : List Area} {s0 : State} {tag : BitVec 14} {result : HostEnd}
    {s : State}
    (hm : Sub [.free, .counters, .events, .om, .spad, .parts, .dma, .dram, .host, .pho, .lanes, .ver, .fab, .twin] ps)
    (h : Within ps s0 s) :
    OutWithin ps s0 (execHostReadCompletion tag result s) := by
  unfold execHostReadCompletion
  exact OutWithin.next (readEnds_within (hm.of ⟨rfl⟩) h)

theorem execHostCompletionTimeout_within {ps : List Area} {s0 : State} {tag : BitVec 14} {s : State}
    (hm : Sub [.free, .counters, .events, .om, .spad, .parts, .dma, .dram, .host, .pho, .lanes, .ver, .fab, .twin] ps)
    (h : Within ps s0 s) :
    OutWithin ps s0 (execHostCompletionTimeout tag s) := by
  unfold execHostCompletionTimeout
  exact OutWithin.next (readFailed_within (hm.of ⟨rfl⟩) h)

theorem mctpAnswer_within {ps : List Area} {s0 : State} {command : Nat} {response : State → Bytes × State}
    {s : State} (hm : Sub [.host] ps)
    (h_response : ∀ (z0 : State), Within ps s0 z0 → Within ps s0 (response z0).2) (h : Within ps s0 s) :
    Within ps s0 (mctpAnswer command response s) := by
  unfold mctpAnswer
  refine Within.ite (fun _ => ?_) (fun _ => ?_)
  · exact h
  · split
    · rename_i y4
      refine Within.ofPair1 (ps := ps) (a := s0) y4 ?_ (fun h5 => ?_)
      · exact h_response _ h
      exact Within.put h5

theorem execSetEndpointId_within {ps : List Area} {s0 : State} {eid : BitVec 8} {s : State}
    (hm : Sub [.host] ps) (h : Within ps s0 s) :
    OutWithin ps s0 (execSetEndpointId eid s) := by
  unfold execSetEndpointId
  refine OutWithin.next ?_
  refine mctpAnswer_within (hm.of ⟨rfl⟩) ?_ ?_
  · intro s1 h2
    split
    · dsimp only
      exact h2
    · dsimp only
      exact Within.put h2
  · exact h

theorem execGetEndpointId_within {ps : List Area} {s0 : State} {s : State} (hm : Sub [.host] ps)
    (h : Within ps s0 s) :
    OutWithin ps s0 (execGetEndpointId s) := by
  unfold execGetEndpointId
  refine OutWithin.next ?_
  refine mctpAnswer_within (hm.of ⟨rfl⟩) ?_ ?_
  · intro s1 h2
    dsimp only
    exact h2
  · exact h

theorem execGetEndpointUuid_within {ps : List Area} {s0 : State} {s : State} (hm : Sub [.host] ps)
    (h : Within ps s0 s) :
    OutWithin ps s0 (execGetEndpointUuid s) := by
  unfold execGetEndpointUuid
  refine OutWithin.next ?_
  refine mctpAnswer_within (hm.of ⟨rfl⟩) ?_ ?_
  · intro s1 h2
    dsimp only
    exact h2
  · exact h

theorem execGetMctpVersionSupport_within {ps : List Area} {s0 : State} {messageType : BitVec 8} {s : State}
    (hm : Sub [.free, .host] ps) (h : Within ps s0 s) :
    OutWithin ps s0 (execGetMctpVersionSupport messageType s) := by
  unfold execGetMctpVersionSupport
  refine OutWithin.next ?_
  refine mctpAnswer_within (hm.of ⟨rfl⟩) ?_ ?_
  · intro s1 h2
    split
    · split
      · rename_i y7
        refine Within.ofPair1 (ps := ps) (a := s0) y7 ?_ (fun h8 => ?_)
        · exact drawBytes_within (hm.of ⟨rfl⟩) h2
        dsimp only
        exact h8
    · dsimp only
      exact h2
  · exact h

theorem execGetMessageTypeSupport_within {ps : List Area} {s0 : State} {s : State} (hm : Sub [.host] ps)
    (h : Within ps s0 s) :
    OutWithin ps s0 (execGetMessageTypeSupport s) := by
  unfold execGetMessageTypeSupport
  refine OutWithin.next ?_
  refine mctpAnswer_within (hm.of ⟨rfl⟩) ?_ ?_
  · intro s1 h2
    dsimp only
    exact h2
  · exact h

theorem execGetVendorDefinedMessageSupport_within {ps : List Area} {s0 : State} {selector : BitVec 8}
    {s : State} (hm : Sub [.free, .host] ps) (h : Within ps s0 s) :
    OutWithin ps s0 (execGetVendorDefinedMessageSupport selector s) := by
  unfold execGetVendorDefinedMessageSupport
  refine OutWithin.next ?_
  refine mctpAnswer_within (hm.of ⟨rfl⟩) ?_ ?_
  · intro s1 h2
    split
    · split
      · rename_i y7
        refine Within.ofPair1 (ps := ps) (a := s0) y7 ?_ (fun h8 => ?_)
        · exact drawBytes_within (hm.of ⟨rfl⟩) h2
        dsimp only
        exact h8
    · dsimp only
      exact h2
  · exact h

theorem execPerstNRelease_within {ps : List Area} {s0 : State} {port : Fin 2} {s : State} (hm : Sub [.host] ps)
    (h : Within ps s0 s) :
    OutWithin ps s0 (execPerstNRelease port s) := by
  unfold execPerstNRelease
  exact OutWithin.next (Within.put h)

theorem unmask_within {ps : List Area} {s0 : State} {f : Nat} {v : Nat} {s : State} (hm : Sub [.host] ps)
    (h : Within ps s0 s) :
    Within ps s0 (unmask f v s) := by
  unfold unmask
  refine Within.ite (fun _ => ?_) (fun _ => ?_)
  · exact h
  · extract_lets v1 v2
    refine Within.mid (ps := ps) (a := s0) v2 ?_ (fun h3 => ?_)
    · unfold v2
      exact changeFunction_within (hm.of ⟨rfl⟩) h
    clear_value v2
    exact Within.ite (fun _ => sendVector_within (hm.of ⟨rfl⟩) h3) (fun _ => h3)

theorem execMsixVectorUnmask_within {ps : List Area} {s0 : State} {function : Function} {vector : BitVec 8}
    {s : State} (hm : Sub [.host] ps) (h : Within ps s0 s) :
    OutWithin ps s0 (execMsixVectorUnmask function vector s) := by
  unfold execMsixVectorUnmask
  exact OutWithin.next (unmask_within (hm.of ⟨rfl⟩) h)

end Sys2Proof.Machine
end

