-- ==== Sys2Proof/Laws/WithinRestart.lean ====
section
/-! SUPPORT. Which parts of the state the operations of Machine/Restart.lean can write: one lemma for each. -/

set_option Elab.async false

namespace Sys2Proof.Machine

theorem continueStart_within {ps : List Area} {s0 : State} {s : State} (hm : Sub [.start] ps)
    (h : Within ps s0 s) :
    Within ps s0 (continueStart s) := by
  unfold continueStart
  exact Within.put h

theorem restart_within {ps : List Area} {s0 : State} {what : Nat} {s : State}
    (hm : Sub [.counters, .dict, .events, .taken, .hen, .om, .frame, .start, .spad, .arith, .parts, .dma, .dram, .clk, .host, .pho, .sums, .lanes, .las, .ver, .fab, .pow, .sec, .twin] ps)
    (h : Within ps s0 s) :
    Within ps s0 (restart what s) := by
  unfold restart
  extract_lets v1 v2 v3
  refine Within.mid (ps := ps) (a := s0) v1 ?_ (fun h4 => ?_)
  · unfold v1
    exact Within.ite (fun _ => h) (fun _ => writeProfile_within (hm.of ⟨rfl⟩) h)
  clear_value v1
  refine Within.mid (ps := ps) (a := s0) v3 ?_ (fun h5 => ?_)
  · unfold v3
    exact Within.ite (fun _ => Within.put h4) (fun _ => h4)
  clear_value v3
  exact stopDevice_within (hm.of ⟨rfl⟩) (arriveAll_within (hm.of ⟨rfl⟩) h5)

theorem startAct_within {ps : List Area} {s0 : State} {a0 : Bytes} {a1 : State}
    (hm : Sub [.counters, .dict, .events, .taken, .hen, .om, .frame, .start, .spad, .arith, .parts, .dma, .dram, .clk, .host, .pho, .sums, .lanes, .las, .ver, .fab, .pow, .sec, .twin] ps)
    (h : Within ps s0 a1) :
    WWithin ps s0 (startAct a0 a1) := by
  unfold startAct
  extract_lets v1
  split
  · exact .refuse
  · split
    · split
      · exact WWithin.done (continueStart_within (hm.of ⟨rfl⟩) h)
      · exact .refuse
    · split
      · exact WWithin.done (restart_within (hm.of ⟨rfl⟩) h)
      · exact .refuse

theorem execRestart_within {ps : List Area} {s0 : State} {req : Req} {value : Bytes} {s : State}
    (hm : Sub [.counters, .dict, .events, .taken, .hen, .om, .frame, .start, .spad, .arith, .parts, .dma, .dram, .clk, .host, .pho, .sums, .lanes, .las, .ver, .fab, .pow, .sec, .twin] ps)
    (h : Within ps s0 s) :
    OutWithin ps s0 (execRestart req value s) := by
  unfold execRestart
  refine OutWithin.next ?_
  refine Within.ite (fun _ => ?_) (fun _ => ?_)
  · refine serveWrite_within (hm.of ⟨rfl⟩) ?_ ?_
    · intro x1 s2 h3
      exact startAct_within (hm.of ⟨rfl⟩) h3
    · exact h
  · exact h

theorem execRestartIntoDonkey_within {ps : List Area} {s0 : State} {req : Req} {value : Bytes} {s : State}
    (hm : Sub [.counters, .dict, .events, .taken, .hen, .om, .frame, .start, .spad, .arith, .parts, .dma, .dram, .clk, .host, .pho, .sums, .lanes, .las, .ver, .fab, .pow, .sec, .twin] ps)
    (h : Within ps s0 s) :
    OutWithin ps s0 (execRestartIntoDonkey req value s) := by
  unfold execRestartIntoDonkey
  refine OutWithin.next ?_
  refine Within.ite (fun _ => ?_) (fun _ => ?_)
  · refine serveWrite_within (hm.of ⟨rfl⟩) ?_ ?_
    · intro x1 s2 h3
      exact startAct_within (hm.of ⟨rfl⟩) h3
    · exact h
  · exact h

theorem execRestartHoldAtFoal_within {ps : List Area} {s0 : State} {req : Req} {value : Bytes} {s : State}
    (hm : Sub [.counters, .dict, .events, .taken, .hen, .om, .frame, .start, .spad, .arith, .parts, .dma, .dram, .clk, .host, .pho, .sums, .lanes, .las, .ver, .fab, .pow, .sec, .twin] ps)
    (h : Within ps s0 s) :
    OutWithin ps s0 (execRestartHoldAtFoal req value s) := by
  unfold execRestartHoldAtFoal
  refine OutWithin.next ?_
  refine Within.ite (fun _ => ?_) (fun _ => ?_)
  · refine serveWrite_within (hm.of ⟨rfl⟩) ?_ ?_
    · intro x1 s2 h3
      exact startAct_within (hm.of ⟨rfl⟩) h3
    · exact h
  · exact h

theorem execContinueFromHold_within {ps : List Area} {s0 : State} {req : Req} {value : Bytes} {s : State}
    (hm : Sub [.counters, .dict, .events, .taken, .hen, .om, .frame, .start, .spad, .arith, .parts, .dma, .dram, .clk, .host, .pho, .sums, .lanes, .las, .ver, .fab, .pow, .sec, .twin] ps)
    (h : Within ps s0 s) :
    OutWithin ps s0 (execContinueFromHold req value s) := by
  unfold execContinueFromHold
  refine OutWithin.next ?_
  refine Within.ite (fun _ => ?_) (fun _ => ?_)
  · refine serveWrite_within (hm.of ⟨rfl⟩) ?_ ?_
    · intro x1 s2 h3
      exact startAct_within (hm.of ⟨rfl⟩) h3
    · exact h
  · exact h

end Sys2Proof.Machine
end

