-- ==== Sys2Proof/Laws/WithinTwin.lean ====
section
/-! SUPPORT. Which parts of the state the operations of Machine/Twin.lean can write: one lemma for each. -/

set_option Elab.async false

namespace Sys2Proof.Machine

theorem twinModeAct_within {ps : List Area} {s0 : State} {a0 : Bytes} {a1 : State}
    (hm : Sub [.dict, .events, .host, .sec, .twin] ps) (h : Within ps s0 a1) :
    WWithin ps s0 (twinModeAct a0 a1) := by
  unfold twinModeAct
  extract_lets v1
  refine Within.mid (ps := ps) (a := s0) v1 ?_ (fun h2 => ?_)
  · unfold v1
    exact setDict_within (hm.of ⟨rfl⟩) h
  clear_value v1
  refine WWithin.done ?_
  refine Within.ite (fun _ => ?_) (fun _ => ?_)
  · exact leaveTwin_within (hm.of ⟨rfl⟩) h2
  · exact Within.ite (fun _ => startPairing_within (hm.of ⟨rfl⟩) h2) (fun _ => h2)

theorem execTwinModeWrite_within {ps : List Area} {s0 : State} {req : Req} {value : Bytes} {s : State}
    (hm : Sub [.dict, .events, .om, .host, .sec, .twin] ps) (h : Within ps s0 s) :
    OutWithin ps s0 (execTwinModeWrite req value s) := by
  unfold execTwinModeWrite
  refine OutWithin.next ?_
  refine serveWrite_within (hm.of ⟨rfl⟩) ?_ ?_
  · intro x1 s2 h3
    exact twinModeAct_within (hm.of ⟨rfl⟩) h3
  · exact h

theorem renewLease_within {ps : List Area} {s0 : State} {s : State}
    (hm : Sub [.now, .events, .lanes, .fab, .twin] ps) (h : Within ps s0 s) :
    Within ps s0 (renewLease s) := by
  unfold renewLease
  refine Within.ite (fun _ => ?_) (fun _ => ?_)
  · exact h
  · extract_lets v1 v2 v3 v4
    refine Within.mid (ps := ps) (a := s0) v1 ?_ (fun h5 => ?_)
    · unfold v1
      exact advanceTo_within (hm.of ⟨rfl⟩) h
    clear_value v1
    refine Within.mid (ps := ps) (a := s0) v3 ?_ (fun h6 => ?_)
    · unfold v3
      exact Within.put h5
    clear_value v3
    refine Within.mid (ps := ps) (a := s0) v4 ?_ (fun h7 => ?_)
    · unfold v4
      exact sendTwin_within (hm.of ⟨rfl⟩) h6
    clear_value v4
    exact Within.ite (fun _ => drivePulse_within (hm.of ⟨rfl⟩) h7) (fun _ => h7)

theorem execLeaseRenewTimer_within {ps : List Area} {s0 : State} {s : State}
    (hm : Sub [.now, .events, .lanes, .fab, .twin] ps) (h : Within ps s0 s) :
    OutWithin ps s0 (execLeaseRenewTimer s) := by
  unfold execLeaseRenewTimer
  exact OutWithin.next (renewLease_within (hm.of ⟨rfl⟩) h)

theorem watchWire_within {ps : List Area} {s0 : State} {since : Option Nat} {s : State}
    (hm : Sub [.events, .twin] ps) (h : Within ps s0 s) :
    Within ps s0 (watchWire since s) := by
  unfold watchWire
  split
  · exact Within.ite (fun _ => twinEvent_within (hm.of ⟨rfl⟩) (Within.put h)) (fun _ => h)
  · exact h

theorem cancelTakeover_within {ps : List Area} {s0 : State} {s : State} (hm : Sub [.events, .twin] ps)
    (h : Within ps s0 s) :
    Within ps s0 (cancelTakeover s) := by
  unfold cancelTakeover
  split
  · exact Within.ite (fun _ => twinEvent_within (hm.of ⟨rfl⟩) (Within.put h)) (fun _ => h)
  · exact h

theorem renewTw_within {ps : List Area} {s0 : State} {s : State} (hm : Sub [.events, .twin] ps)
    (h : Within ps s0 s) :
    Within ps s0 (renewTw s) := by
  unfold renewTw
  extract_lets v1 v2
  refine Within.mid (ps := ps) (a := s0) v2 ?_ (fun h3 => ?_)
  · unfold v2
    exact Within.put h
  clear_value v2
  exact watchWire_within (hm.of ⟨rfl⟩) (cancelTakeover_within (hm.of ⟨rfl⟩) h3)

theorem hearLease_within {ps : List Area} {s0 : State} {k : Bytes} {oneWay : Nat} {f : TwinFacts} {s : State}
    (hm : Sub [.events, .host, .twin] ps) (h : Within ps s0 s) :
    Within ps s0 (hearLease k oneWay f s) := by
  unfold hearLease
  extract_lets v1 v2
  refine Within.ite (fun _ => ?_) (fun _ => ?_)
  · refine Within.ite (fun _ => ?_) (fun _ => ?_)
    · simp only [v1]
      exact takeToken_within (hm.of ⟨rfl⟩) (renewTw_within (hm.of ⟨rfl⟩) h)
    · exact h
  · refine Within.ite (fun _ => ?_) (fun _ => ?_)
    · simp only [v1]
      exact takeToken_within (hm.of ⟨rfl⟩) (Within.put h)
    · refine Within.ite (fun _ => ?_) (fun _ => ?_)
      · simp only [v1]
        exact takeToken_within (hm.of ⟨rfl⟩) h
      · exact h

theorem execLease_within {ps : List Area} {s0 : State} {packet : Bytes} {oneWay : Nat} {facts : TwinFacts}
    {s : State} (hm : Sub [.events, .dma, .host, .fab, .twin] ps) (h : Within ps s0 s) :
    OutWithin ps s0 (execLease packet oneWay facts s) := by
  unfold execLease
  refine OutWithin.next ?_
  refine onPacket_within (hm.of ⟨rfl⟩) ?_ ?_
  · intro s1 h2
    exact hearLease_within (hm.of ⟨rfl⟩) h2
  · exact h

theorem ackLast_within {ps : List Area} {s0 : State} {s : State} (hm : Sub [.events, .lanes, .fab, .twin] ps)
    (h : Within ps s0 s) :
    Within ps s0 (ackLast s) := by
  unfold ackLast
  extract_lets v1 v2
  refine Within.mid (ps := ps) (a := s0) v2 ?_ (fun h3 => ?_)
  · unfold v2
    split
    · exact Within.ite (fun _ => Within.put h) (fun _ => h)
    · exact h
  clear_value v2
  exact sendTwin_within (hm.of ⟨rfl⟩) h3

theorem acknowledge_within {ps : List Area} {s0 : State} {wire : Bool} {s : State}
    (hm : Sub [.now, .events, .lanes, .fab, .twin] ps) (h : Within ps s0 s) :
    Within ps s0 (acknowledge wire s) := by
  unfold acknowledge
  split
  · exact h
  · extract_lets v6 v7
    refine Within.mid (ps := ps) (a := s0) v6 ?_ (fun h8 => ?_)
    · unfold v6
      exact advanceTo_within (hm.of ⟨rfl⟩) h
    clear_value v6
    refine Within.ite (fun _ => ?_) (fun _ => ?_)
    · exact drivePulse_within (hm.of ⟨rfl⟩) (Within.put h8)
    · exact ackLast_within (hm.of ⟨rfl⟩) (Within.put h8)

theorem execLeaseAckTimer_within {ps : List Area} {s0 : State} {wire : Bool} {s : State}
    (hm : Sub [.now, .events, .lanes, .fab, .twin] ps) (h : Within ps s0 s) :
    OutWithin ps s0 (execLeaseAckTimer wire s) := by
  unfold execLeaseAckTimer
  exact OutWithin.next (acknowledge_within (hm.of ⟨rfl⟩) h)

theorem hearLeaseAck_within {ps : List Area} {s0 : State} {k : Bytes} {oneWay : Nat} {f : TwinFacts} {s : State}
    (hm : Sub [.events, .host, .twin] ps) (h : Within ps s0 s) :
    Within ps s0 (hearLeaseAck k oneWay f s) := by
  unfold hearLeaseAck
  extract_lets v1 v2 v3 v4 v5 v6 v7 v8
  refine Within.mid (ps := ps) (a := s0) v4 ?_ (fun h9 => ?_)
  · unfold v4
    exact Within.ite (fun _ => Within.put h) (fun _ => h)
  clear_value v4
  refine Within.mid (ps := ps) (a := s0) v6 ?_ (fun h10 => ?_)
  · unfold v6
    split
    · exact Within.ite (fun _ => Within.put h9) (fun _ => h9)
    · exact h9
  clear_value v6
  refine Within.mid (ps := ps) (a := s0) v8 ?_ (fun h16 => ?_)
  · unfold v8
    exact Within.put h10
  clear_value v8
  refine Within.ite (fun _ => ?_) (fun _ => ?_)
  · simp only [v2]
    exact takeToken_within (hm.of ⟨rfl⟩) (watchWire_within (hm.of ⟨rfl⟩) h16)
  · refine Within.ite (fun _ => ?_) (fun _ => ?_)
    · simp only [v2]
      exact takeToken_within (hm.of ⟨rfl⟩) h
    · exact h

theorem execLeaseAck_within {ps : List Area} {s0 : State} {packet : Bytes} {oneWay : Nat} {facts : TwinFacts}
    {s : State} (hm : Sub [.events, .dma, .host, .fab, .twin] ps) (h : Within ps s0 s) :
    OutWithin ps s0 (execLeaseAck packet oneWay facts s) := by
  unfold execLeaseAck
  refine OutWithin.next ?_
  refine onPacket_within (hm.of ⟨rfl⟩) ?_ ?_
  · intro s1 h2
    exact hearLeaseAck_within (hm.of ⟨rfl⟩) h2
  · exact h

theorem seeRenew_within {ps : List Area} {s0 : State} {width : Nat} {s : State} (hm : Sub [.events, .twin] ps)
    (h : Within ps s0 s) :
    Within ps s0 (seeRenew width s) := by
  unfold seeRenew
  refine Within.ite (fun _ => ?_) (fun _ => ?_)
  · exact h
  · extract_lets v1 v2 v3
    refine Within.mid (ps := ps) (a := s0) v2 ?_ (fun h4 => ?_)
    · unfold v2
      exact Within.put h
    refine Within.ite (fun _ => ?_) (fun _ => ?_)
    · exact Within.put h4
    · exact Within.ite (fun _ => cancelTakeover_within (hm.of ⟨rfl⟩) (Within.put h4)) (fun _ => h4)

theorem execRenewPulse_within {ps : List Area} {s0 : State} {width : Nat} {s : State}
    (hm : Sub [.events, .twin] ps) (h : Within ps s0 s) :
    OutWithin ps s0 (execRenewPulse width s) := by
  unfold execRenewPulse
  exact OutWithin.next (seeRenew_within (hm.of ⟨rfl⟩) h)

theorem seeAcknowledge_within {ps : List Area} {s0 : State} {width : Nat} {s : State} (hm : Sub [.twin] ps)
    (h : Within ps s0 s) :
    Within ps s0 (seeAcknowledge width s) := by
  unfold seeAcknowledge
  refine Within.ite (fun _ => ?_) (fun _ => ?_)
  · exact h
  · extract_lets v1 v2 v3
    refine Within.mid (ps := ps) (a := s0) v2 ?_ (fun h4 => ?_)
    · unfold v2
      exact Within.put h
    exact Within.ite (fun _ => Within.put h4) (fun _ => h4)

theorem execAcknowledgePulse_within {ps : List Area} {s0 : State} {width : Nat} {s : State}
    (hm : Sub [.twin] ps) (h : Within ps s0 s) :
    OutWithin ps s0 (execAcknowledgePulse width s) := by
  unfold execAcknowledgePulse
  exact OutWithin.next (seeAcknowledge_within (hm.of ⟨rfl⟩) h)

theorem yieldTo_within {ps : List Area} {s0 : State} {s : State} (hm : Sub [.host, .twin] ps)
    (h : Within ps s0 s) :
    Within ps s0 (yieldTo s) := by
  unfold yieldTo
  extract_lets v1 v2
  refine Within.mid (ps := ps) (a := s0) v2 ?_ (fun h3 => ?_)
  · unfold v2
    split
    · exact Within.put h
    · exact h
  clear_value v2
  exact follow_within (hm.of ⟨rfl⟩) h3

theorem claimed_within {ps : List Area} {s0 : State} {s : State}
    (hm : Sub [.events, .dma, .host, .fab, .twin] ps) (h : Within ps s0 s) :
    Within ps s0 (claimed s) := by
  unfold claimed
  exact Within.ite (fun _ => yieldTo_within (hm.of ⟨rfl⟩) h) (fun _ => fence_within (hm.of ⟨rfl⟩) h)

theorem seeClaim_within {ps : List Area} {s0 : State} {width : Nat} {s : State}
    (hm : Sub [.events, .dma, .host, .fab, .twin] ps) (h : Within ps s0 s) :
    Within ps s0 (seeClaim width s) := by
  unfold seeClaim
  refine Within.ite (fun _ => ?_) (fun _ => ?_)
  · exact h
  · extract_lets v1 v2
    refine Within.mid (ps := ps) (a := s0) v2 ?_ (fun h3 => ?_)
    · unfold v2
      exact Within.put h
    exact Within.ite (fun _ => claimed_within (hm.of ⟨rfl⟩) h3) (fun _ => h3)

theorem execClaimPulse_within {ps : List Area} {s0 : State} {width : Nat} {s : State}
    (hm : Sub [.events, .dma, .host, .fab, .twin] ps) (h : Within ps s0 s) :
    OutWithin ps s0 (execClaimPulse width s) := by
  unfold execClaimPulse
  exact OutWithin.next (seeClaim_within (hm.of ⟨rfl⟩) h)

theorem wireStuck_within {ps : List Area} {s0 : State} {s : State} (hm : Sub [.events, .twin] ps)
    (h : Within ps s0 s) :
    Within ps s0 (wireStuck s) := by
  unfold wireStuck
  exact Within.ite (fun _ => h) (fun _ => twinEvent_within (hm.of ⟨rfl⟩) (Within.put h))

theorem execWireStuck_within {ps : List Area} {s0 : State} {s : State} (hm : Sub [.events, .twin] ps)
    (h : Within ps s0 s) :
    OutWithin ps s0 (execWireStuck s) := by
  unfold execWireStuck
  exact OutWithin.next (wireStuck_within (hm.of ⟨rfl⟩) h)

theorem leaseExpired_within {ps : List Area} {s0 : State} {s : State} (hm : Sub [.events, .twin] ps)
    (h : Within ps s0 s) :
    Within ps s0 (leaseExpired s) := by
  unfold leaseExpired
  extract_lets v1 v2
  refine Within.mid (ps := ps) (a := s0) v1 ?_ (fun h3 => ?_)
  · unfold v1
    exact twinEvent_within (hm.of ⟨rfl⟩) h
  clear_value v1
  refine Within.ite (fun _ => ?_) (fun _ => ?_)
  · exact h3
  · exact Within.ite (fun _ => twinEvent_within (hm.of ⟨rfl⟩) h3) (fun _ => Within.put h3)

theorem pathExpiry_within {ps : List Area} {s0 : State} {wire : Bool} {s : State}
    (hm : Sub [.now, .events, .twin] ps) (h : Within ps s0 s) :
    Within ps s0 (pathExpiry wire s) := by
  unfold pathExpiry
  refine Within.ite (fun _ => ?_) (fun _ => ?_)
  · exact h
  · extract_lets v1 v2 v3
    refine Within.mid (ps := ps) (a := s0) v1 ?_ (fun h4 => ?_)
    · unfold v1
      exact advanceTo_within (hm.of ⟨rfl⟩) h
    refine Within.mid (ps := ps) (a := s0) v3 ?_ (fun h5 => ?_)
    · unfold v3
      exact Within.ite (fun _ => Within.put h4) (fun _ => Within.put h4)
    refine Within.ite (fun _ => ?_) (fun _ => ?_)
    · exact leaseExpired_within (hm.of ⟨rfl⟩) h5
    · exact Within.ite (fun _ => h5) (fun _ => twinEvent_within (hm.of ⟨rfl⟩) h5)

theorem execLeasePathExpiry_within {ps : List Area} {s0 : State} {wire : Bool} {s : State}
    (hm : Sub [.now, .events, .twin] ps) (h : Within ps s0 s) :
    OutWithin ps s0 (execLeasePathExpiry wire s) := by
  unfold execLeasePathExpiry
  exact OutWithin.next (pathExpiry_within (hm.of ⟨rfl⟩) h)

theorem pairingTimeout_within {ps : List Area} {s0 : State} {s : State}
    (hm : Sub [.now, .events, .host, .twin] ps) (h : Within ps s0 s) :
    Within ps s0 (pairingTimeout s) := by
  unfold pairingTimeout
  refine Within.ite (fun _ => ?_) (fun _ => ?_)
  · exact h
  · extract_lets v1
    refine Within.mid (ps := ps) (a := s0) v1 ?_ (fun h2 => ?_)
    · unfold v1
      exact advanceTo_within (hm.of ⟨rfl⟩) h
    clear_value v1
    exact twinEvent_within (hm.of ⟨rfl⟩) (enterActive_within (hm.of ⟨rfl⟩) h2)

theorem execPairingTimeout_within {ps : List Area} {s0 : State} {s : State}
    (hm : Sub [.now, .events, .host, .twin] ps) (h : Within ps s0 s) :
    OutWithin ps s0 (execPairingTimeout s) := by
  unfold execPairingTimeout
  exact OutWithin.next (pairingTimeout_within (hm.of ⟨rfl⟩) h)

theorem fenceTimeout_within {ps : List Area} {s0 : State} {s : State}
    (hm : Sub [.now, .events, .dma, .host, .fab, .twin] ps) (h : Within ps s0 s) :
    Within ps s0 (fenceTimeout s) := by
  unfold fenceTimeout
  exact Within.ite (fun _ => h) (fun _ => fence_within (hm.of ⟨rfl⟩) (advanceTo_within (hm.of ⟨rfl⟩) h))

theorem execFenceTimeout_within {ps : List Area} {s0 : State} {s : State}
    (hm : Sub [.now, .events, .dma, .host, .fab, .twin] ps) (h : Within ps s0 s) :
    OutWithin ps s0 (execFenceTimeout s) := by
  unfold execFenceTimeout
  exact OutWithin.next (fenceTimeout_within (hm.of ⟨rfl⟩) h)

theorem hearClaim_within {ps : List Area} {s0 : State} {before : State} {k : Bytes} {s : State}
    (hm : Sub [.events, .dma, .host, .fab, .twin] ps) (_h : Within ps s0 before) (h2 : Within ps s0 s) :
    Within ps s0 (hearClaim before k s) := by
  unfold hearClaim
  extract_lets v1 v2
  exact Within.ite (fun _ => claimed_within (hm.of ⟨rfl⟩) (Within.put h2)) (fun _ => h2)

theorem execClaim_within {ps : List Area} {s0 : State} {packet : Bytes} {s : State}
    (hm : Sub [.events, .dma, .host, .fab, .twin] ps) (h : Within ps s0 s) :
    OutWithin ps s0 (execClaim packet s) := by
  unfold execClaim
  refine OutWithin.next ?_
  refine onPacket_within (hm.of ⟨rfl⟩) ?_ ?_
  · intro s1 h2
    exact hearClaim_within (hm.of ⟨rfl⟩) h h2
  · exact h

theorem hearHealth_within {ps : List Area} {s0 : State} {k : Bytes} {s : State} (hm : Sub [.events, .twin] ps)
    (h : Within ps s0 s) :
    Within ps s0 (hearHealth k s) := by
  unfold hearHealth
  refine Within.ite (fun _ => ?_) (fun _ => ?_)
  · exact h
  · extract_lets v1 v2 v3
    refine Within.mid (ps := ps) (a := s0) v3 ?_ (fun h4 => ?_)
    · unfold v3
      exact Within.put h
    clear_value v3
    exact Within.ite (fun _ => twinEvent_within (hm.of ⟨rfl⟩) h4) (fun _ => h4)

theorem execHealth_within {ps : List Area} {s0 : State} {packet : Bytes} {s : State}
    (hm : Sub [.events, .dma, .host, .fab, .twin] ps) (h : Within ps s0 s) :
    OutWithin ps s0 (execHealth packet s) := by
  unfold execHealth
  refine OutWithin.next ?_
  refine onPacket_within (hm.of ⟨rfl⟩) ?_ ?_
  · intro s1 h2
    exact hearHealth_within (hm.of ⟨rfl⟩) h2
  · exact h

theorem healthTimeout_within {ps : List Area} {s0 : State} {s : State} (hm : Sub [.now, .events, .twin] ps)
    (h : Within ps s0 s) :
    Within ps s0 (healthTimeout s) := by
  unfold healthTimeout
  refine Within.ite (fun _ => ?_) (fun _ => ?_)
  · exact h
  · refine twinEvent_within (hm.of ⟨rfl⟩) ?_
    extract_lets v1 v2
    refine Within.mid (ps := ps) (a := s0) v1 ?_ (fun h3 => ?_)
    · unfold v1
      exact advanceTo_within (hm.of ⟨rfl⟩) h
    clear_value v1
    exact Within.put h3

theorem execHealthTimeout_within {ps : List Area} {s0 : State} {s : State} (hm : Sub [.now, .events, .twin] ps)
    (h : Within ps s0 s) :
    OutWithin ps s0 (execHealthTimeout s) := by
  unfold execHealthTimeout
  exact OutWithin.next (healthTimeout_within (hm.of ⟨rfl⟩) h)

theorem hearQueue_within {ps : List Area} {s0 : State} {k : Bytes} {s : State} (hm : Sub [.twin] ps)
    (h : Within ps s0 s) :
    Within ps s0 (hearQueue k s) := by
  unfold hearQueue
  extract_lets v1 v2 v3
  exact Within.ite (fun _ => Within.put h) (fun _ => h)

theorem execQueue_within {ps : List Area} {s0 : State} {packet : Bytes} {s : State}
    (hm : Sub [.events, .dma, .host, .fab, .twin] ps) (h : Within ps s0 s) :
    OutWithin ps s0 (execQueue packet s) := by
  unfold execQueue
  refine OutWithin.next ?_
  refine onPacket_within (hm.of ⟨rfl⟩) ?_ ?_
  · intro s1 h2
    exact hearQueue_within (hm.of ⟨rfl⟩) h2
  · exact h

theorem hearImage_within {ps : List Area} {s0 : State} {k : Bytes} {s : State} (hm : Sub [.twin] ps)
    (h : Within ps s0 s) :
    Within ps s0 (hearImage k s) := by
  unfold hearImage
  extract_lets v1 v2 v3
  exact Within.ite (fun _ => Within.put h) (fun _ => h)

theorem execImage_within {ps : List Area} {s0 : State} {packet : Bytes} {s : State}
    (hm : Sub [.events, .dma, .host, .fab, .twin] ps) (h : Within ps s0 s) :
    OutWithin ps s0 (execImage packet s) := by
  unfold execImage
  refine OutWithin.next ?_
  refine onPacket_within (hm.of ⟨rfl⟩) ?_ ?_
  · intro s1 h2
    exact hearImage_within (hm.of ⟨rfl⟩) h2
  · exact h

theorem hearBlock_within {ps : List Area} {s0 : State} {k : Bytes} {s : State}
    (hm : Sub [.free, .counters, .events, .dma, .dram, .twin] ps) (h : Within ps s0 s) :
    Within ps s0 (hearBlock k s) := by
  unfold hearBlock
  exact Within.ite (fun _ => writeBlock_within (hm.of ⟨rfl⟩) (Within.put h)) (fun _ => h)

theorem execBlock_within {ps : List Area} {s0 : State} {packet : Bytes} {s : State}
    (hm : Sub [.free, .counters, .events, .dma, .dram, .host, .fab, .twin] ps) (h : Within ps s0 s) :
    OutWithin ps s0 (execBlock packet s) := by
  unfold execBlock
  refine OutWithin.next ?_
  refine onPacket_within (hm.of ⟨rfl⟩) ?_ ?_
  · intro s1 h2
    exact hearBlock_within (hm.of ⟨rfl⟩) h2
  · exact h

theorem hearCommit_within {ps : List Area} {s0 : State} {k : Bytes} {codes : List CodeReport} {s : State}
    (hm : Sub [.free, .events, .spad, .parts, .host, .fab, .twin] ps) (h : Within ps s0 s) :
    Within ps s0 (hearCommit k codes s) := by
  unfold hearCommit
  extract_lets v1 v2 v3
  exact Within.ite (fun _ => watchLag_within (hm.of ⟨rfl⟩) (commitFrame_within (hm.of ⟨rfl⟩) h)) (fun _ => h)

theorem execTwinCommit_within {ps : List Area} {s0 : State} {packet : Bytes} {codes : List CodeReport}
    {s : State} (hm : Sub [.free, .events, .spad, .parts, .dma, .host, .fab, .twin] ps) (h : Within ps s0 s) :
    OutWithin ps s0 (execTwinCommit packet codes s) := by
  unfold execTwinCommit
  refine OutWithin.next ?_
  refine onPacket_within (hm.of ⟨rfl⟩) ?_ ?_
  · intro s1 h2
    exact hearCommit_within (hm.of ⟨rfl⟩) h2
  · exact h

theorem proposeTakeBack_within {ps : List Area} {s0 : State} {s : State}
    (hm : Sub [.events, .lanes, .fab, .twin] ps) (h : Within ps s0 s) :
    Within ps s0 (proposeTakeBack s) := by
  unfold proposeTakeBack
  extract_lets v1
  exact Within.ite (fun _ => sendTwin_within (hm.of ⟨rfl⟩) h) (fun _ => h)

theorem selfTestRound_within {ps : List Area} {s0 : State} {failures : BitVec 7} {unfit : Bool} {s : State}
    (hm : Sub [.now, .events, .lanes, .fab, .twin] ps) (h : Within ps s0 s) :
    Within ps s0 (selfTestRound failures unfit s) := by
  unfold selfTestRound
  refine Within.ite (fun _ => ?_) (fun _ => ?_)
  · exact h
  · extract_lets v1 v2 v3 v4 v5 v6 v7 v8
    refine Within.mid (ps := ps) (a := s0) v2 ?_ (fun h9 => ?_)
    · unfold v2
      exact advanceTo_within (hm.of ⟨rfl⟩) h
    clear_value v2
    refine Within.mid (ps := ps) (a := s0) v4 ?_ (fun h10 => ?_)
    · unfold v4
      exact Within.put h9
    clear_value v4
    refine Within.mid (ps := ps) (a := s0) v7 ?_ (fun h11 => ?_)
    · unfold v7
      exact sendTwin_within (hm.of ⟨rfl⟩) (Within.put h10)
    clear_value v7
    refine Within.mid (ps := ps) (a := s0) v8 ?_ (fun h12 => ?_)
    · unfold v8
      exact Within.ite (fun _ => twinEvent_within (hm.of ⟨rfl⟩) h11) (fun _ => h11)
    clear_value v8
    exact proposeTakeBack_within (hm.of ⟨rfl⟩) h12

theorem execSelfTestRound_within {ps : List Area} {s0 : State} {failures : BitVec 7} {unfit : Bool} {s : State}
    (hm : Sub [.now, .events, .lanes, .fab, .twin] ps) (h : Within ps s0 s) :
    OutWithin ps s0 (execSelfTestRound failures unfit s) := by
  unfold execSelfTestRound
  exact OutWithin.next (selfTestRound_within (hm.of ⟨rfl⟩) h)

theorem agree_within {ps : List Area} {s0 : State} {s : State} (hm : Sub [.events, .lanes, .fab, .twin] ps)
    (h : Within ps s0 s) :
    Within ps s0 (agree s) := by
  unfold agree
  extract_lets v1 v2 v3
  refine Within.mid (ps := ps) (a := s0) v3 ?_ (fun h4 => ?_)
  · unfold v3
    exact sendTwin_within (hm.of ⟨rfl⟩) (Within.put h)
  clear_value v3
  exact twinEvent_within (hm.of ⟨rfl⟩) h4

theorem execHandoverPropose_within {ps : List Area} {s0 : State} {packet : Bytes} {s : State}
    (hm : Sub [.events, .dma, .host, .lanes, .fab, .twin] ps) (h : Within ps s0 s) :
    OutWithin ps s0 (execHandoverPropose packet s) := by
  unfold execHandoverPropose
  refine OutWithin.next ?_
  refine Within.ite (fun _ => ?_) (fun _ => ?_)
  · refine onPacket_within (hm.of ⟨rfl⟩) ?_ ?_
    · intro s1 h2
      exact Within.ite (fun _ => agree_within (hm.of ⟨rfl⟩) h2) (fun _ => h2)
    · exact h
  · exact h

theorem hearAgree_within {ps : List Area} {s0 : State} {k : Bytes} {s : State} (hm : Sub [.twin] ps)
    (h : Within ps s0 s) :
    Within ps s0 (hearAgree k s) := by
  unfold hearAgree
  extract_lets v1 v2
  exact Within.ite (fun _ => Within.put h) (fun _ => h)

theorem execHandoverAgree_within {ps : List Area} {s0 : State} {packet : Bytes} {s : State}
    (hm : Sub [.events, .dma, .host, .fab, .twin] ps) (h : Within ps s0 s) :
    OutWithin ps s0 (execHandoverAgree packet s) := by
  unfold execHandoverAgree
  refine OutWithin.next ?_
  refine Within.ite (fun _ => ?_) (fun _ => ?_)
  · refine onPacket_within (hm.of ⟨rfl⟩) ?_ ?_
    · intro s1 h2
      exact hearAgree_within (hm.of ⟨rfl⟩) h2
    · exact h
  · exact h

theorem hearAbandon_within {ps : List Area} {s0 : State} {s : State} (hm : Sub [.events, .twin] ps)
    (h : Within ps s0 s) :
    Within ps s0 (hearAbandon s) := by
  unfold hearAbandon
  split
  · exact Within.ite (fun _ => twinEvent_within (hm.of ⟨rfl⟩) (Within.put h)) (fun _ => h)
  · exact h

theorem execHandoverAbandon_within {ps : List Area} {s0 : State} {packet : Bytes} {s : State}
    (hm : Sub [.events, .dma, .host, .fab, .twin] ps) (h : Within ps s0 s) :
    OutWithin ps s0 (execHandoverAbandon packet s) := by
  unfold execHandoverAbandon
  refine OutWithin.next ?_
  refine Within.ite (fun _ => ?_) (fun _ => ?_)
  · refine onPacket_within (hm.of ⟨rfl⟩) ?_ ?_
    · intro s1 h2
      exact hearAbandon_within (hm.of ⟨rfl⟩) h2
    · exact h
  · exact h

theorem ackTimeout_within {ps : List Area} {s0 : State} {s : State}
    (hm : Sub [.now, .events, .lanes, .fab, .twin] ps) (h : Within ps s0 s) :
    Within ps s0 (ackTimeout s) := by
  unfold ackTimeout
  split
  · refine Within.ite (fun _ => ?_) (fun _ => ?_)
    · exact h
    · extract_lets v7 v8 v9
      refine Within.mid (ps := ps) (a := s0) v7 ?_ (fun h10 => ?_)
      · unfold v7
        exact advanceTo_within (hm.of ⟨rfl⟩) h
      clear_value v7
      refine Within.mid (ps := ps) (a := s0) v9 ?_ (fun h11 => ?_)
      · unfold v9
        exact sendTwin_within (hm.of ⟨rfl⟩) (Within.put h10)
      clear_value v9
      exact twinEvent_within (hm.of ⟨rfl⟩) h11
  · exact h

theorem execHandoverAckTimeout_within {ps : List Area} {s0 : State} {s : State}
    (hm : Sub [.now, .events, .lanes, .fab, .twin] ps) (h : Within ps s0 s) :
    OutWithin ps s0 (execHandoverAckTimeout s) := by
  unfold execHandoverAckTimeout
  exact OutWithin.next (ackTimeout_within (hm.of ⟨rfl⟩) h)

theorem twinCommandAct_within {ps : List Area} {s0 : State} {a0 : Bytes} {a1 : State}
    (hm : Sub [.events, .host, .lanes, .fab, .twin] ps) (h : Within ps s0 a1) :
    WWithin ps s0 (twinCommandAct a0 a1) := by
  unfold twinCommandAct
  split
  · split
    · exact WWithin.done (agree_within (hm.of ⟨rfl⟩) h)
    · exact .refuse
  · split
    · exact WWithin.done (claimNow_within (hm.of ⟨rfl⟩) h)
    · exact .refuse
  · split
    · extract_lets v12 v13 v14 v15
      refine Within.mid (ps := ps) (a := s0) v13 ?_ (fun h16 => ?_)
      · unfold v13
        exact Within.put h
      clear_value v13
      refine Within.mid (ps := ps) (a := s0) v14 ?_ (fun h17 => ?_)
      · unfold v14
        exact sendTwin_within (hm.of ⟨rfl⟩) h16
      clear_value v14
      exact WWithin.done (leaveTwin_within (hm.of ⟨rfl⟩) (Within.put h17))
    · exact .refuse
  · exact .refuse

theorem execPlannedHandover_within {ps : List Area} {s0 : State} {req : Req} {value : Bytes} {s : State}
    (hm : Sub [.events, .om, .host, .lanes, .fab, .twin] ps) (h : Within ps s0 s) :
    OutWithin ps s0 (execPlannedHandover req value s) := by
  unfold execPlannedHandover
  refine OutWithin.next ?_
  refine Within.ite (fun _ => ?_) (fun _ => ?_)
  · refine serveWrite_within (hm.of ⟨rfl⟩) ?_ ?_
    · intro x1 s2 h3
      exact twinCommandAct_within (hm.of ⟨rfl⟩) h3
    · exact h
  · exact h

theorem execForcedTakeover_within {ps : List Area} {s0 : State} {req : Req} {value : Bytes} {s : State}
    (hm : Sub [.events, .om, .host, .lanes, .fab, .twin] ps) (h : Within ps s0 s) :
    OutWithin ps s0 (execForcedTakeover req value s) := by
  unfold execForcedTakeover
  refine OutWithin.next ?_
  refine Within.ite (fun _ => ?_) (fun _ => ?_)
  · refine serveWrite_within (hm.of ⟨rfl⟩) ?_ ?_
    · intro x1 s2 h3
      exact twinCommandAct_within (hm.of ⟨rfl⟩) h3
    · exact h
  · exact h

theorem execUnpair_within {ps : List Area} {s0 : State} {req : Req} {value : Bytes} {s : State}
    (hm : Sub [.events, .om, .host, .lanes, .fab, .twin] ps) (h : Within ps s0 s) :
    OutWithin ps s0 (execUnpair req value s) := by
  unfold execUnpair
  refine OutWithin.next ?_
  refine Within.ite (fun _ => ?_) (fun _ => ?_)
  · refine serveWrite_within (hm.of ⟨rfl⟩) ?_ ?_
    · intro x1 s2 h3
      exact twinCommandAct_within (hm.of ⟨rfl⟩) h3
    · exact h
  · exact h

theorem designatedAct_within {ps : List Area} {s0 : State} {a0 : Bytes} {a1 : State}
    (hm : Sub [.dict, .sec, .twin] ps) (h : Within ps s0 a1) :
    WWithin ps s0 (designatedAct a0 a1) := by
  unfold designatedAct
  extract_lets v1 v2 v3 v4 v5 v6 v7
  refine Within.mid (ps := ps) (a := s0) v6 ?_ (fun h8 => ?_)
  · unfold v6
    exact setDict_within (hm.of ⟨rfl⟩) h
  clear_value v6
  clear_value v5
  split
  · exact .refuse
  · split
    · exact .refuse
    · split
      · exact .refuse
      · split
        · exact .refuse
        · exact WWithin.done (Within.put h8)

theorem execDesignatedRegionsWrite_within {ps : List Area} {s0 : State} {req : Req} {value : Bytes} {s : State}
    (hm : Sub [.dict, .events, .om, .sec, .twin] ps) (h : Within ps s0 s) :
    OutWithin ps s0 (execDesignatedRegionsWrite req value s) := by
  unfold execDesignatedRegionsWrite
  refine OutWithin.next ?_
  refine serveWrite_within (hm.of ⟨rfl⟩) ?_ ?_
  · intro x1 s2 h3
    exact designatedAct_within (hm.of ⟨rfl⟩) h3
  · exact h

end Sys2Proof.Machine
end

