-- ==== Sys2Proof/Laws/WithinDictionary.lean ====
section
/-! SUPPORT. Which parts of the state the operations of Machine/Dictionary.lean can write: one lemma for each. -/

set_option Elab.async false

namespace Sys2Proof.Machine

theorem dictRead_within {ps : List Area} {s0 : State} {req : Req} {key : Nat} {s : State}
    (hm : Sub [.events, .om] ps) (h : Within ps s0 s) :
    Within ps s0 (dictRead req key s) := by
  unfold dictRead
  extract_lets v1
  split
  · rename_i y4
    refine OptWithin.out (ps := ps) (a := s0) y4 ?_ (fun h5 => ?_)
    · exact admitRequest_within (hm.of ⟨rfl⟩) h
    exact h5
  · split
    · exact errorReply_within (hm.of ⟨rfl⟩) h
    · exact Within.ite (fun _ => errorReply_within (hm.of ⟨rfl⟩) h) (fun _ => okReply_within (hm.of ⟨rfl⟩) h)

theorem execDictRead_within {ps : List Area} {s0 : State} {req : Req} {key : BitVec 24} {s : State}
    (hm : Sub [.events, .om] ps) (h : Within ps s0 s) :
    OutWithin ps s0 (execDictRead req key s) := by
  unfold execDictRead
  exact OutWithin.next (dictRead_within (hm.of ⟨rfl⟩) h)

theorem malformed_within {ps : List Area} {s0 : State} {req : Req} {opcode : BitVec 8} {key : BitVec 24}
    {offset : Nat} {s : State} (hm : Sub [.events, .om] ps) (h : Within ps s0 s) :
    Within ps s0 (malformed req opcode key offset s) := by
  unfold malformed
  extract_lets v1 v2
  refine Within.ite (fun _ => ?_) (fun _ => ?_)
  · exact h
  · refine Within.ite (fun _ => ?_) (fun _ => ?_)
    · exact rejectSource_within (hm.of ⟨rfl⟩) h
    · split
      · exact Within.put h
      · exact errorReply_within (hm.of ⟨rfl⟩) h

theorem writeConfig_within {ps : List Area} {s0 : State} {req : Requester} {key : Nat} {values : Tab Bytes}
    {ok : Bool} {s : State} (hm : Sub [.events, .om] ps) (h : Within ps s0 s) :
    WWithin ps s0 (writeConfig req key values ok s) := by
  unfold writeConfig
  split
  · extract_lets v5 v6 v7
    refine Within.mid (ps := ps) (a := s0) v5 ?_ (fun h8 => ?_)
    · unfold v5
      exact raise_within (hm.of ⟨rfl⟩) h
    clear_value v5
    split
    · exact WWithin.done (Within.put h8)
    · exact WWithin.failed (Within.put h8)

theorem configAct_within {ps : List Area} {s0 : State} {req : Requester} {ok : Bool} {a2 : Bytes} {a3 : State}
    (hm : Sub [.events, .om] ps) (h : Within ps s0 a3) :
    WWithin ps s0 (configAct req ok a2 a3) := by
  unfold configAct
  split
  · exact writeConfig_within (hm.of ⟨rfl⟩) h
  · split
    · extract_lets v4 v5
      refine Within.mid (ps := ps) (a := s0) v4 ?_ (fun h6 => ?_)
      · unfold v4
        exact raise_within (hm.of ⟨rfl⟩) h
      clear_value v4
      split
      · exact WWithin.done (Within.put h6)
      · exact WWithin.failed (Within.put h6)
    · exact .refuse

theorem layoutAct_within {ps : List Area} {s0 : State} {req : Requester} {ok : Bool} {a2 : Bytes} {a3 : State}
    (hm : Sub [.dict, .events, .om, .sec] ps) (h : Within ps s0 a3) :
    WWithin ps s0 (layoutAct req ok a2 a3) := by
  unfold layoutAct
  split
  · exact .refuse
  · extract_lets v3
    split
    · rename_i y6
      refine WWithin.outDone (ps := ps) (a := s0) y6 ?_ (fun h7 => ?_)
      · exact writeConfig_within (hm.of ⟨rfl⟩) h
      exact WWithin.done (setDict_within (hm.of ⟨rfl⟩) h7)
    · exact writeConfig_within (hm.of ⟨rfl⟩) h

theorem rangeAct_within {ps : List Area} {s0 : State} {key : Nat} {lo : Nat} {hi : Nat} {a3 : Bytes}
    {a4 : State} (hm : Sub [.dict, .sec] ps) (h : Within ps s0 a4) :
    WWithin ps s0 (rangeAct key lo hi a3 a4) := by
  unfold rangeAct
  split
  · exact WWithin.done (setDict_within (hm.of ⟨rfl⟩) h)
  · exact .refuse

theorem subscribersAct_within {ps : List Area} {s0 : State} {a0 : Bytes} {a1 : State}
    (hm : Sub [.dict, .om, .sec] ps) (h : Within ps s0 a1) :
    WWithin ps s0 (subscribersAct a0 a1) := by
  unfold subscribersAct
  extract_lets v1 v2 v3
  refine Within.mid (ps := ps) (a := s0) v2 ?_ (fun h4 => ?_)
  · unfold v2
    exact setDict_within (hm.of ⟨rfl⟩) h
  clear_value v2
  clear_value v1
  split
  · exact .refuse
  · exact WWithin.done (Within.put h4)

theorem tableAct_within {ps : List Area} {s0 : State} {key : Nat} {count : Nat} {width : Nat}
    {bad : Bytes → Nat → Bool} {f : State → State} {a5 : Bytes} {a6 : State} (hm : Sub [.dict, .sec] ps)
    (h_f : ∀ (z0 : State), Within ps s0 z0 → Within ps s0 (f z0)) (h : Within ps s0 a6) :
    WWithin ps s0 (tableAct key count width bad f a5 a6) := by
  unfold tableAct
  split
  · exact .refuse
  · exact WWithin.done (h_f _ (setDict_within (hm.of ⟨rfl⟩) h))

theorem ceilingsAct_within {ps : List Area} {s0 : State} {a0 : Bytes} {a1 : State} (hm : Sub [.dict, .sec] ps)
    (h : Within ps s0 a1) :
    WWithin ps s0 (ceilingsAct a0 a1) := by
  unfold ceilingsAct
  refine tableAct_within (hm.of ⟨rfl⟩) ?_ ?_
  · intro s1 h2
    dsimp only [id]
    exact h2
  · exact h

theorem aboveAct_within {ps : List Area} {s0 : State} {key : Nat} {lo : Nat} {hi : Nat} {other : Nat}
    {a4 : Bytes} {a5 : State} (hm : Sub [.dict, .sec] ps) (h : Within ps s0 a5) :
    WWithin ps s0 (aboveAct key lo hi other a4 a5) := by
  unfold aboveAct
  split
  · exact rangeAct_within (hm.of ⟨rfl⟩) h
  · exact .refuse

theorem periodAct_within {ps : List Area} {s0 : State} {key : Nat} {lo : Nat} {hi : Nat} {a3 : Bytes}
    {a4 : State} (hm : Sub [.dict, .sec] ps) (h : Within ps s0 a4) :
    WWithin ps s0 (periodAct key lo hi a3 a4) := by
  unfold periodAct
  split
  · exact WWithin.done (setDict_within (hm.of ⟨rfl⟩) h)
  · exact rangeAct_within (hm.of ⟨rfl⟩) h

theorem directoryAct_within {ps : List Area} {s0 : State} {a0 : Bytes} {a1 : State}
    (hm : Sub [.dict, .dma, .sec] ps) (h : Within ps s0 a1) :
    WWithin ps s0 (directoryAct a0 a1) := by
  unfold directoryAct
  refine tableAct_within (hm.of ⟨rfl⟩) ?_ ?_
  · intro s1 h2
    exact Within.put h2
  · exact h

theorem boardTableAct_within {ps : List Area} {s0 : State} {a0 : Bytes} {a1 : State} (hm : Sub [.dict, .sec] ps)
    (h : Within ps s0 a1) :
    WWithin ps s0 (boardTableAct a0 a1) := by
  unfold boardTableAct
  split
  · exact .refuse
  · exact WWithin.done (setDict_within (hm.of ⟨rfl⟩) h)

theorem fillBuckets_within {ps : List Area} {s0 : State} {s : State} (hm : Sub [.events, .hen] ps)
    (h : Within ps s0 s) :
    Within ps s0 (fillBuckets s) := by
  unfold fillBuckets
  exact Within.put h

theorem overridesAct_within {ps : List Area} {s0 : State} {a0 : Bytes} {a1 : State}
    (hm : Sub [.dict, .events, .hen, .sec] ps) (h : Within ps s0 a1) :
    WWithin ps s0 (overridesAct a0 a1) := by
  unfold overridesAct
  refine tableAct_within (hm.of ⟨rfl⟩) ?_ ?_
  · intro s1 h2
    exact fillBuckets_within (hm.of ⟨rfl⟩) h2
  · exact h

theorem defaultRateAct_within {ps : List Area} {s0 : State} {a0 : Bytes} {a1 : State}
    (hm : Sub [.dict, .events, .hen, .sec] ps) (h : Within ps s0 a1) :
    WWithin ps s0 (defaultRateAct a0 a1) := by
  unfold defaultRateAct
  extract_lets v1
  split
  · exact WWithin.done (fillBuckets_within (hm.of ⟨rfl⟩) (setDict_within (hm.of ⟨rfl⟩) h))
  · exact .refuse

theorem plainAct_within {ps : List Area} {s0 : State} {key : Nat} {a1 : Bytes} {a2 : State}
    (hm : Sub [.dict, .sec] ps) (h : Within ps s0 a2) :
    WWithin ps s0 (plainAct key a1 a2) := by
  unfold plainAct
  exact WWithin.done (setDict_within (hm.of ⟨rfl⟩) h)

theorem settingAct_within {ps : List Area} {s0 : State} {key : Nat} {a1 : Bytes} {a2 : State}
    (hm : Sub [.dict, .events, .hen, .om, .dma, .sec] ps) (h : Within ps s0 a2) :
    WWithin ps s0 (settingAct key a1 a2) := by
  unfold settingAct
  split
  · exact rangeAct_within (hm.of ⟨rfl⟩) h
  · dsimp only
    split
    · exact WWithin.done (setDict_within (hm.of ⟨rfl⟩) h)
    · exact .refuse
  · exact rangeAct_within (hm.of ⟨rfl⟩) h
  · exact rangeAct_within (hm.of ⟨rfl⟩) h
  · exact subscribersAct_within (hm.of ⟨rfl⟩) h
  · dsimp only
    exact WWithin.done (setDictNat_within (hm.of ⟨rfl⟩) h)
  · exact rangeAct_within (hm.of ⟨rfl⟩) h
  · exact ceilingsAct_within (hm.of ⟨rfl⟩) h
  · exact rangeAct_within (hm.of ⟨rfl⟩) h
  · exact rangeAct_within (hm.of ⟨rfl⟩) h
  · exact rangeAct_within (hm.of ⟨rfl⟩) h
  · exact rangeAct_within (hm.of ⟨rfl⟩) h
  · exact aboveAct_within (hm.of ⟨rfl⟩) h
  · exact rangeAct_within (hm.of ⟨rfl⟩) h
  · exact rangeAct_within (hm.of ⟨rfl⟩) h
  · exact rangeAct_within (hm.of ⟨rfl⟩) h
  · exact periodAct_within (hm.of ⟨rfl⟩) h
  · exact directoryAct_within (hm.of ⟨rfl⟩) h
  · exact boardTableAct_within (hm.of ⟨rfl⟩) h
  · exact aboveAct_within (hm.of ⟨rfl⟩) h
  · exact rangeAct_within (hm.of ⟨rfl⟩) h
  · exact periodAct_within (hm.of ⟨rfl⟩) h
  · exact rangeAct_within (hm.of ⟨rfl⟩) h
  · exact rangeAct_within (hm.of ⟨rfl⟩) h
  · exact rangeAct_within (hm.of ⟨rfl⟩) h
  · exact rangeAct_within (hm.of ⟨rfl⟩) h
  · exact rangeAct_within (hm.of ⟨rfl⟩) h
  · exact rangeAct_within (hm.of ⟨rfl⟩) h
  · exact rangeAct_within (hm.of ⟨rfl⟩) h
  · exact overridesAct_within (hm.of ⟨rfl⟩) h
  · exact defaultRateAct_within (hm.of ⟨rfl⟩) h
  · exact plainAct_within (hm.of ⟨rfl⟩) h

theorem writeAct_within {ps : List Area} {s0 : State} {r : Requester} {nvmOk : Bool} {key : Nat} {a3 : Bytes}
    {a4 : State}
    (hm : Sub [.free, .counters, .dict, .events, .taken, .hen, .om, .frame, .start, .spad, .arith, .parts, .dma, .dram, .clk, .host, .pho, .sums, .lanes, .las, .ver, .fab, .pow, .sec, .twin] ps)
    (h : Within ps s0 a4) :
    WWithin ps s0 (writeAct r nvmOk key a3 a4) := by
  unfold writeAct
  split
  · exact configAct_within (hm.of ⟨rfl⟩) h
  · exact layoutAct_within (hm.of ⟨rfl⟩) h
  · exact ownersAct_within (hm.of ⟨rfl⟩) h
  · exact profileAct_within (hm.of ⟨rfl⟩) h
  · exact clockAct_within (hm.of ⟨rfl⟩) h
  · exact frameLengthAct_within (hm.of ⟨rfl⟩) h
  · exact partitionMapAct_within (hm.of ⟨rfl⟩) h
  · exact clearRetiredAct_within (hm.of ⟨rfl⟩) h
  · exact handoverScrubAct_within (hm.of ⟨rfl⟩) h
  · exact invalidateAct_within (hm.of ⟨rfl⟩) h
  · exact eyeScanAct_within (hm.of ⟨rfl⟩) h
  · exact loopbackAct_within (hm.of ⟨rfl⟩) h
  · exact linkControlAct_within (hm.of ⟨rfl⟩) h
  · exact spareAct_within (hm.of ⟨rfl⟩) h
  · exact baseResetAct_within (hm.of ⟨rfl⟩) h
  · exact packageIdAct_within (hm.of ⟨rfl⟩) h
  · exact routeTableAct_within (hm.of ⟨rfl⟩) h
  · exact teardownAct_within (hm.of ⟨rfl⟩) h
  · exact twinModeAct_within (hm.of ⟨rfl⟩) h
  · exact designatedAct_within (hm.of ⟨rfl⟩) h
  · exact twinCommandAct_within (hm.of ⟨rfl⟩) h
  · exact worldMapAct_within (hm.of ⟨rfl⟩) h
  · exact stagingAct_within (hm.of ⟨rfl⟩) h
  · exact updateAct_within (hm.of ⟨rfl⟩) h
  · exact tenantHandoverAct_within (hm.of ⟨rfl⟩) h
  · exact portKeyAct_within (hm.of ⟨rfl⟩) h
  · exact freezeAct_within (hm.of ⟨rfl⟩) h
  · exact clearLogAct_within (hm.of ⟨rfl⟩) h
  · exact startAct_within (hm.of ⟨rfl⟩) h
  · split
    · exact rootAct_within (hm.of ⟨rfl⟩) h
    · split
      · exact bindingAct_within (hm.of ⟨rfl⟩) h
      · split
        · exact regionTableAct_within (hm.of ⟨rfl⟩) h
        · exact settingAct_within (hm.of ⟨rfl⟩) h

theorem dictWrite_within {ps : List Area} {s0 : State} {req : Req} {key : Nat} {value : Bytes} {nvmOk : Bool}
    {s : State}
    (hm : Sub [.free, .counters, .dict, .events, .taken, .hen, .om, .frame, .start, .spad, .arith, .parts, .dma, .dram, .clk, .host, .pho, .sums, .lanes, .las, .ver, .fab, .pow, .sec, .twin] ps)
    (h : Within ps s0 s) :
    Within ps s0 (dictWrite req key value nvmOk s) := by
  unfold dictWrite
  extract_lets v1
  refine Within.ite (fun _ => ?_) (fun _ => ?_)
  · exact malformed_within (hm.of ⟨rfl⟩) h
  · split
    · rename_i y4
      refine OptWithin.out (ps := ps) (a := s0) y4 ?_ (fun h5 => ?_)
      · exact admitRequest_within (hm.of ⟨rfl⟩) h
      exact h5
    · split
      · exact errorReply_within (hm.of ⟨rfl⟩) h
      · refine Within.ite (fun _ => ?_) (fun _ => ?_)
        · exact errorReply_within (hm.of ⟨rfl⟩) h
        · refine applyWrite_within (hm.of ⟨rfl⟩) ?_ ?_
          · intro x14 s15 h16
            exact writeAct_within (hm.of ⟨rfl⟩) h16
          · exact h

theorem execDictWrite_within {ps : List Area} {s0 : State} {req : Req} {key : BitVec 24} {value : Bytes}
    {nvmOk : Bool} {s : State}
    (hm : Sub [.free, .counters, .dict, .events, .taken, .hen, .om, .frame, .start, .spad, .arith, .parts, .dma, .dram, .clk, .host, .pho, .sums, .lanes, .las, .ver, .fab, .pow, .sec, .twin] ps)
    (h : Within ps s0 s) :
    OutWithin ps s0 (execDictWrite req key value nvmOk s) := by
  unfold execDictWrite
  exact OutWithin.next (dictWrite_within (hm.of ⟨rfl⟩) h)

theorem takeSnapshot_within {ps : List Area} {s0 : State} {x : Snapshot} {s : State} (hm : Sub [.om] ps)
    (h : Within ps s0 s) :
    Within ps s0 (takeSnapshot x s) := by
  unfold takeSnapshot
  extract_lets v1 v2 v3 v4
  exact Within.put h

theorem segRead_within {ps : List Area} {s0 : State} {req : Req} {key : Nat} {offset : Nat} {length : Nat}
    {s : State} (hm : Sub [.events, .om] ps) (h : Within ps s0 s) :
    Within ps s0 (segRead req key offset length s) := by
  unfold segRead
  extract_lets v1 v2
  refine Within.ite (fun _ => ?_) (fun _ => ?_)
  · exact malformed_within (hm.of ⟨rfl⟩) h
  · split
    · rename_i y5
      refine OptWithin.out (ps := ps) (a := s0) y5 ?_ (fun h6 => ?_)
      · exact admitRequest_within (hm.of ⟨rfl⟩) h
      exact h6
    · split
      · exact errorReply_within (hm.of ⟨rfl⟩) h
      · clear_value v2
        split
        · exact errorReply_within (hm.of ⟨rfl⟩) h
        · refine Within.ite (fun _ => ?_) (fun _ => ?_)
          · exact errorReply_within (hm.of ⟨rfl⟩) h
          · exact okReply_within (hm.of ⟨rfl⟩) (takeSnapshot_within (hm.of ⟨rfl⟩) h)

theorem execSegRead_within {ps : List Area} {s0 : State} {req : Req} {key : BitVec 24} {offset : BitVec 32}
    {length : BitVec 32} {s : State} (hm : Sub [.events, .om] ps) (h : Within ps s0 s) :
    OutWithin ps s0 (execSegRead req key offset length s) := by
  unfold execSegRead
  exact OutWithin.next (segRead_within (hm.of ⟨rfl⟩) h)

theorem discardStaged_within {ps : List Area} {s0 : State} {key : Nat} {s : State} (hm : Sub [.sec] ps)
    (h : Within ps s0 s) :
    Within ps s0 (discardStaged key s) := by
  unfold discardStaged
  exact Within.ite (fun _ => Within.put h) (fun _ => h)

theorem endTransfer_within {ps : List Area} {s0 : State} {key : Nat} {s : State} (hm : Sub [.om] ps)
    (h : Within ps s0 s) :
    Within ps s0 (endTransfer key s) := by
  unfold endTransfer
  exact Within.put h

theorem segBegin_within {ps : List Area} {s0 : State} {req : Req} {key : Nat} {total : Nat} {s : State}
    (hm : Sub [.events, .om, .sec] ps) (h : Within ps s0 s) :
    Within ps s0 (segBegin req key total s) := by
  unfold segBegin
  extract_lets v1 v2 v3 v4 v5
  refine Within.mid (ps := ps) (a := s0) v4 ?_ (fun h6 => ?_)
  · unfold v4
    exact discardStaged_within (hm.of ⟨rfl⟩) (endTransfer_within (hm.of ⟨rfl⟩) h)
  clear_value v4
  split
  · rename_i y9
    refine OptWithin.out (ps := ps) (a := s0) y9 ?_ (fun h10 => ?_)
    · exact admitRequest_within (hm.of ⟨rfl⟩) h
    exact h10
  · refine Within.ite (fun _ => ?_) (fun _ => ?_)
    · exact errorReply_within (hm.of ⟨rfl⟩) h
    · split
      · exact errorReply_within (hm.of ⟨rfl⟩) h
      · split
        · exact errorReply_within (hm.of ⟨rfl⟩) h
        · refine Within.ite (fun _ => ?_) (fun _ => ?_)
          · exact errorReply_within (hm.of ⟨rfl⟩) h
          · exact okReply_within (hm.of ⟨rfl⟩) (Within.put h6)

theorem execSegBegin_within {ps : List Area} {s0 : State} {req : Req} {key : BitVec 24} {total : BitVec 32}
    {s : State} (hm : Sub [.events, .om, .sec] ps) (h : Within ps s0 s) :
    OutWithin ps s0 (execSegBegin req key total s) := by
  unfold execSegBegin
  exact OutWithin.next (segBegin_within (hm.of ⟨rfl⟩) h)

theorem changeTransfer_within {ps : List Area} {s0 : State} {key : Nat} {f : Transfer → Transfer} {s : State}
    (hm : Sub [.om] ps) (h : Within ps s0 s) :
    Within ps s0 (changeTransfer key f s) := by
  unfold changeTransfer
  exact Within.put h

theorem segData_within {ps : List Area} {s0 : State} {req : Req} {key : Nat} {offset : Nat} {data : Bytes}
    {s : State} (hm : Sub [.events, .om] ps) (h : Within ps s0 s) :
    Within ps s0 (segData req key offset data s) := by
  unfold segData
  extract_lets v1 v2
  refine Within.mid (ps := ps) (a := s0) v2 ?_ (fun h3 => ?_)
  · unfold v2
    exact changeTransfer_within (hm.of ⟨rfl⟩) h
  clear_value v2
  refine Within.ite (fun _ => ?_) (fun _ => ?_)
  · exact malformed_within (hm.of ⟨rfl⟩) h
  · split
    · rename_i y6
      refine OptWithin.out (ps := ps) (a := s0) y6 ?_ (fun h7 => ?_)
      · exact admitRequest_within (hm.of ⟨rfl⟩) h
      exact h7
    · split
      · exact errorReply_within (hm.of ⟨rfl⟩) h
      · split
        · exact errorReply_within (hm.of ⟨rfl⟩) h
        · refine Within.ite (fun _ => ?_) (fun _ => ?_)
          · exact errorReply_within (hm.of ⟨rfl⟩) h3
          · exact okReply_within (hm.of ⟨rfl⟩) (changeTransfer_within (hm.of ⟨rfl⟩) h3)

theorem execSegData_within {ps : List Area} {s0 : State} {req : Req} {key : BitVec 24} {offset : BitVec 32}
    {data : Bytes} {s : State} (hm : Sub [.events, .om] ps) (h : Within ps s0 s) :
    OutWithin ps s0 (execSegData req key offset data s) := by
  unfold execSegData
  exact OutWithin.next (segData_within (hm.of ⟨rfl⟩) h)

theorem segEnd_within {ps : List Area} {s0 : State} {req : Req} {key : Nat} {crc : BitVec 32} {nvmOk : Bool}
    {s : State}
    (hm : Sub [.free, .counters, .dict, .events, .taken, .hen, .om, .frame, .start, .spad, .arith, .parts, .dma, .dram, .clk, .host, .pho, .sums, .lanes, .las, .ver, .fab, .pow, .sec, .twin] ps)
    (h : Within ps s0 s) :
    Within ps s0 (segEnd req key crc nvmOk s) := by
  unfold segEnd
  extract_lets v1 v2
  refine Within.mid (ps := ps) (a := s0) v2 ?_ (fun h3 => ?_)
  · unfold v2
    exact changeTransfer_within (hm.of ⟨rfl⟩) h
  clear_value v2
  split
  · rename_i y6
    refine OptWithin.out (ps := ps) (a := s0) y6 ?_ (fun h7 => ?_)
    · exact admitRequest_within (hm.of ⟨rfl⟩) h
    exact h7
  · split
    · exact errorReply_within (hm.of ⟨rfl⟩) h
    · split
      · exact errorReply_within (hm.of ⟨rfl⟩) h
      · split
        · exact errorReply_within (hm.of ⟨rfl⟩) h3
        · refine Within.ite (fun _ => ?_) (fun _ => ?_)
          · exact errorReply_within (hm.of ⟨rfl⟩) h3
          · refine applyWrite_within (hm.of ⟨rfl⟩) ?_ ?_
            · intro x26 s27 h28
              split
              · rename_i y31
                refine WWithin.outDone (ps := ps) (a := s0) y31 ?_ (fun h32 => ?_)
                · exact writeAct_within (hm.of ⟨rfl⟩) h28
                exact WWithin.done (endTransfer_within (hm.of ⟨rfl⟩) h32)
              · rename_i y36
                refine WWithin.outWait (ps := ps) (a := s0) y36 ?_ (fun h37 => ?_)
                · exact writeAct_within (hm.of ⟨rfl⟩) h28
                exact WWithin.wait (endTransfer_within (hm.of ⟨rfl⟩) h37)
              · exact writeAct_within (hm.of ⟨rfl⟩) h28
            · exact h3

theorem execSegEnd_within {ps : List Area} {s0 : State} {req : Req} {key : BitVec 24} {crc : BitVec 32}
    {nvmOk : Bool} {s : State}
    (hm : Sub [.free, .counters, .dict, .events, .taken, .hen, .om, .frame, .start, .spad, .arith, .parts, .dma, .dram, .clk, .host, .pho, .sums, .lanes, .las, .ver, .fab, .pow, .sec, .twin] ps)
    (h : Within ps s0 s) :
    OutWithin ps s0 (execSegEnd req key crc nvmOk s) := by
  unfold execSegEnd
  exact OutWithin.next (segEnd_within (hm.of ⟨rfl⟩) h)

theorem segAbort_within {ps : List Area} {s0 : State} {req : Req} {key : Nat} {s : State}
    (hm : Sub [.events, .om] ps) (h : Within ps s0 s) :
    Within ps s0 (segAbort req key s) := by
  unfold segAbort
  extract_lets v1
  split
  · rename_i y4
    refine OptWithin.out (ps := ps) (a := s0) y4 ?_ (fun h5 => ?_)
    · exact admitRequest_within (hm.of ⟨rfl⟩) h
    exact h5
  · split
    · exact errorReply_within (hm.of ⟨rfl⟩) h
    · split
      · exact okReply_within (hm.of ⟨rfl⟩) h
      · exact okReply_within (hm.of ⟨rfl⟩) (endTransfer_within (hm.of ⟨rfl⟩) h)

theorem execSegAbort_within {ps : List Area} {s0 : State} {req : Req} {key : BitVec 24} {s : State}
    (hm : Sub [.events, .om] ps) (h : Within ps s0 s) :
    OutWithin ps s0 (execSegAbort req key s) := by
  unfold execSegAbort
  exact OutWithin.next (segAbort_within (hm.of ⟨rfl⟩) h)

theorem execMalformedMessage_within {ps : List Area} {s0 : State} {req : Req} {opcode : BitVec 8}
    {key : BitVec 24} {offset : BitVec 32} {s : State} (hm : Sub [.events, .om] ps) (h : Within ps s0 s) :
    OutWithin ps s0 (execMalformedMessage req opcode key offset s) := by
  unfold execMalformedMessage
  exact OutWithin.next (malformed_within (hm.of ⟨rfl⟩) h)

theorem segTimeout_within {ps : List Area} {s0 : State} {i : Nat} {s : State} (hm : Sub [.now, .events, .om] ps)
    (h : Within ps s0 s) :
    Within ps s0 (segTimeout i s) := by
  unfold segTimeout
  split
  · exact h
  · refine raise_within (hm.of ⟨rfl⟩) ?_
    extract_lets v6 v7
    refine Within.mid (ps := ps) (a := s0) v6 ?_ (fun h8 => ?_)
    · unfold v6
      exact advanceTo_within (hm.of ⟨rfl⟩) h
    clear_value v6
    exact Within.put h8

theorem execSegTimeout_within {ps : List Area} {s0 : State} {index : Nat} {s : State}
    (hm : Sub [.now, .events, .om] ps) (h : Within ps s0 s) :
    OutWithin ps s0 (execSegTimeout index s) := by
  unfold execSegTimeout
  exact OutWithin.next (segTimeout_within (hm.of ⟨rfl⟩) h)

theorem snapshotLapse_within {ps : List Area} {s0 : State} {i : Nat} {s : State} (hm : Sub [.now, .om] ps)
    (h : Within ps s0 s) :
    Within ps s0 (snapshotLapse i s) := by
  unfold snapshotLapse
  split
  · exact h
  · extract_lets v6 v7
    refine Within.mid (ps := ps) (a := s0) v6 ?_ (fun h8 => ?_)
    · unfold v6
      exact advanceTo_within (hm.of ⟨rfl⟩) h
    clear_value v6
    exact Within.put h8

theorem execSnapshotLapse_within {ps : List Area} {s0 : State} {index : Nat} {s : State}
    (hm : Sub [.now, .om] ps) (h : Within ps s0 s) :
    OutWithin ps s0 (execSnapshotLapse index s) := by
  unfold execSnapshotLapse
  exact OutWithin.next (snapshotLapse_within (hm.of ⟨rfl⟩) h)

theorem keptExpiry_within {ps : List Area} {s0 : State} {s : State} (hm : Sub [.now, .om] ps)
    (h : Within ps s0 s) :
    Within ps s0 (keptExpiry s) := by
  unfold keptExpiry
  split
  · exact h
  · extract_lets v6 v7
    refine Within.mid (ps := ps) (a := s0) v6 ?_ (fun h8 => ?_)
    · unfold v6
      exact advanceTo_within (hm.of ⟨rfl⟩) h
    clear_value v6
    exact Within.put h8

theorem execKeptReplyExpiry_within {ps : List Area} {s0 : State} {s : State} (hm : Sub [.now, .om] ps)
    (h : Within ps s0 s) :
    OutWithin ps s0 (execKeptReplyExpiry s) := by
  unfold execKeptReplyExpiry
  exact OutWithin.next (keptExpiry_within (hm.of ⟨rfl⟩) h)

theorem noticeAnswer_within {ps : List Area} {s0 : State} {i : Nat} {q : BitVec 16} {s : State}
    (hm : Sub [.om] ps) (h : Within ps s0 s) :
    Within ps s0 (noticeAnswer i q s) := by
  unfold noticeAnswer
  exact releaseHeld_within (hm.of ⟨rfl⟩) (changeSubscriber_within (hm.of ⟨rfl⟩) h)

theorem execNoticeAnswer_within {ps : List Area} {s0 : State} {subscriber : Fin 4} {seq : BitVec 16} {s : State}
    (hm : Sub [.om] ps) (h : Within ps s0 s) :
    OutWithin ps s0 (execNoticeAnswer subscriber seq s) := by
  unfold execNoticeAnswer
  exact OutWithin.next (noticeAnswer_within (hm.of ⟨rfl⟩) h)

theorem noticeResend_within {ps : List Area} {s0 : State} {i : Nat} {s : State}
    (hm : Sub [.now, .events, .om] ps) (h : Within ps s0 s) :
    Within ps s0 (noticeResend i s) := by
  unfold noticeResend
  extract_lets v1
  split
  · exact h
  · split
    · exact h
    · extract_lets v12 v13
      refine Within.mid (ps := ps) (a := s0) v12 ?_ (fun h14 => ?_)
      · unfold v12
        exact advanceTo_within (hm.of ⟨rfl⟩) h
      clear_value v12
      refine Within.ite (fun _ => ?_) (fun _ => ?_)
      · refine releaseHeld_within (hm.of ⟨rfl⟩) ?_
        exact dropNotice_within (hm.of ⟨rfl⟩) (changeSubscriber_within (hm.of ⟨rfl⟩) h14)
      · exact changeSubscriber_within (hm.of ⟨rfl⟩) (putNotice_within (hm.of ⟨rfl⟩) h14)

theorem execNoticeResendTimer_within {ps : List Area} {s0 : State} {subscriber : Fin 4} {s : State}
    (hm : Sub [.now, .events, .om] ps) (h : Within ps s0 s) :
    OutWithin ps s0 (execNoticeResendTimer subscriber s) := by
  unfold execNoticeResendTimer
  exact OutWithin.next (noticeResend_within (hm.of ⟨rfl⟩) h)

theorem mgmtLink_within {ps : List Area} {s0 : State} {up : Bool} {s : State} (hm : Sub [.events, .om] ps)
    (h : Within ps s0 s) :
    Within ps s0 (mgmtLink up s) := by
  unfold mgmtLink
  exact Within.ite (fun _ => h) (fun _ => raiseIf_within (hm.of ⟨rfl⟩) (Within.put h))

theorem execMgmtLink_within {ps : List Area} {s0 : State} {up : Bool} {s : State} (hm : Sub [.events, .om] ps)
    (h : Within ps s0 s) :
    OutWithin ps s0 (execMgmtLink up s) := by
  unfold execMgmtLink
  exact OutWithin.next (mgmtLink_within (hm.of ⟨rfl⟩) h)

theorem sendIp_within {ps : List Area} {s0 : State} {kind : Nat} {peer : BitVec 128} {s : State}
    (hm : Sub [.om] ps) (h : Within ps s0 s) :
    Within ps s0 (sendIp kind peer s) := by
  unfold sendIp
  exact Within.put h

theorem addressDetection_within {ps : List Area} {s0 : State} {duplicate : Bool} {s : State}
    (hm : Sub [.now, .events, .om] ps) (h : Within ps s0 s) :
    Within ps s0 (addressDetection duplicate s) := by
  unfold addressDetection
  refine Within.ite (fun _ => ?_) (fun _ => ?_)
  · exact h
  · extract_lets v1 v2 v3 v4
    refine Within.mid (ps := ps) (a := s0) v1 ?_ (fun h5 => ?_)
    · unfold v1
      split
      · exact advanceTo_within (hm.of ⟨rfl⟩) h
      · exact h
    clear_value v1
    refine Within.mid (ps := ps) (a := s0) v2 ?_ (fun h11 => ?_)
    · unfold v2
      exact sendIp_within (hm.of ⟨rfl⟩) h5
    clear_value v2
    exact raiseIf_within (hm.of ⟨rfl⟩) (Within.put h11)

theorem execDuplicateAddressDetection_within {ps : List Area} {s0 : State} {duplicate : Bool} {s : State}
    (hm : Sub [.now, .events, .om] ps) (h : Within ps s0 s) :
    OutWithin ps s0 (execDuplicateAddressDetection duplicate s) := by
  unfold execDuplicateAddressDetection
  exact OutWithin.next (addressDetection_within (hm.of ⟨rfl⟩) h)

theorem execNeighbourDiscovery_within {ps : List Area} {s0 : State} {source : BitVec 128} {target : BitVec 128}
    {s : State} (hm : Sub [.om] ps) (h : Within ps s0 s) :
    OutWithin ps s0 (execNeighbourDiscovery source target s) := by
  unfold execNeighbourDiscovery
  exact OutWithin.next (Within.ite (fun _ => sendIp_within (hm.of ⟨rfl⟩) h) (fun _ => h))

theorem execIcmpv6Echo_within {ps : List Area} {s0 : State} {source : BitVec 128} {data : Bytes} {s : State}
    (hm : Sub [.om] ps) (h : Within ps s0 s) :
    OutWithin ps s0 (execIcmpv6Echo source data s) := by
  unfold execIcmpv6Echo
  exact OutWithin.next (Within.ite (fun _ => Within.put h) (fun _ => h))

theorem execStoreConfiguration_within {ps : List Area} {s0 : State} {req : Req} {value : Bytes} {nvmOk : Bool}
    {s : State} (hm : Sub [.events, .om] ps) (h : Within ps s0 s) :
    OutWithin ps s0 (execStoreConfiguration req value nvmOk s) := by
  unfold execStoreConfiguration
  refine OutWithin.next ?_
  refine Within.ite (fun _ => ?_) (fun _ => ?_)
  · refine serveWrite_within (hm.of ⟨rfl⟩) ?_ ?_
    · intro x1 s2 h3
      exact configAct_within (hm.of ⟨rfl⟩) h3
    · exact h
  · exact h

theorem execInvalidateConfiguration_within {ps : List Area} {s0 : State} {req : Req} {value : Bytes}
    {nvmOk : Bool} {s : State} (hm : Sub [.events, .om] ps) (h : Within ps s0 s) :
    OutWithin ps s0 (execInvalidateConfiguration req value nvmOk s) := by
  unfold execInvalidateConfiguration
  refine OutWithin.next ?_
  refine Within.ite (fun _ => ?_) (fun _ => ?_)
  · refine serveWrite_within (hm.of ⟨rfl⟩) ?_ ?_
    · intro x1 s2 h3
      exact configAct_within (hm.of ⟨rfl⟩) h3
    · exact h
  · exact h

end Sys2Proof.Machine
end

