-- ==== Sys2Proof/Laws/WithinStart.lean ====
section
/-! SUPPORT. Which parts of the state the operations of Machine/Start.lean can write: one lemma for each. -/

set_option Elab.async false

namespace Sys2Proof.Machine

theorem beginStart_within {ps : List Area} {s0 : State} {powered : Nat} {s : State}
    (hm : Sub [.events, .taken, .start, .pow] ps) (h : Within ps s0 s) :
    Within ps s0 (beginStart powered s) := by
  unfold beginStart
  exact Within.put h

theorem startGate_within {ps : List Area} {s0 : State} {s : State}
    (hm : Sub [.now, .events, .taken, .start, .pow] ps) (h : Within ps s0 s) :
    Within ps s0 (startGate s) := by
  unfold startGate
  refine Within.ite (fun _ => ?_) (fun _ => ?_)
  · exact h
  · split
    · extract_lets v5
      refine Within.mid (ps := ps) (a := s0) v5 ?_ (fun h6 => ?_)
      · unfold v5
        exact advanceTo_within (hm.of ⟨rfl⟩) h
      clear_value v5
      exact beginStart_within (hm.of ⟨rfl⟩) h6
    · exact beginStart_within (hm.of ⟨rfl⟩) (advanceTo_within (hm.of ⟨rfl⟩) h)
    · exact h

theorem execStartGate_within {ps : List Area} {s0 : State} {s : State}
    (hm : Sub [.now, .events, .taken, .start, .pow] ps) (h : Within ps s0 s) :
    OutWithin ps s0 (execStartGate s) := by
  unfold execStartGate
  exact OutWithin.next (startGate_within (hm.of ⟨rfl⟩) h)

theorem endStep_within {ps : List Area} {s0 : State} {result : Nat} {s : State} (hm : Sub [.events, .start] ps)
    (h : Within ps s0 s) :
    Within ps s0 (endStep result s) := by
  unfold endStep
  extract_lets v1 v2 v3
  exact raise_within (hm.of ⟨rfl⟩) (Within.put h)

theorem countStart_within {ps : List Area} {s0 : State} {s : State} (hm : Sub [.start] ps) (h : Within ps s0 s)
    :
    Within ps s0 (countStart s) := by
  unfold countStart
  extract_lets v1 v2
  exact Within.put h

theorem recordTrip_within {ps : List Area} {s0 : State} {s : State} (hm : Sub [.events, .pow] ps)
    (h : Within ps s0 s) :
    Within ps s0 (recordTrip s) := by
  unfold recordTrip
  split
  · exact h
  · extract_lets v7 v8 v9 v10
    refine Within.mid (ps := ps) (a := s0) v9 ?_ (fun h11 => ?_)
    · unfold v9
      exact reportFull_within (hm.of ⟨rfl⟩) (Within.put h)
    clear_value v9
    exact raise_within (hm.of ⟨rfl⟩) (raise_within (hm.of ⟨rfl⟩) h11)

theorem finishSupplies_within {ps : List Area} {s0 : State} {result : Nat} {s : State}
    (hm : Sub [.events, .taken, .hen, .start, .pow] ps) (h : Within ps s0 s) :
    Within ps s0 (finishSupplies result s) := by
  unfold finishSupplies
  refine endStep_within (hm.of ⟨rfl⟩) ?_
  exact countStart_within (hm.of ⟨rfl⟩) (recordTrip_within (hm.of ⟨rfl⟩) (startRecorder_within (hm.of ⟨rfl⟩) h))

theorem execStep1Supplies_within {ps : List Area} {s0 : State} {s : State}
    (hm : Sub [.events, .taken, .hen, .start, .pow] ps) (h : Within ps s0 s) :
    OutWithin ps s0 (execStep1Supplies s) := by
  unfold execStep1Supplies
  exact OutWithin.next (Within.ite (fun _ => finishSupplies_within (hm.of ⟨rfl⟩) h) (fun _ => h))

theorem enterDonkey_within {ps : List Area} {s0 : State} {reason : Nat} {s : State}
    (hm : Sub [.events, .start] ps) (h : Within ps s0 s) :
    Within ps s0 (enterDonkey reason s) := by
  unfold enterDonkey
  exact raise_within (hm.of ⟨rfl⟩) (Within.put h)

theorem storedAct_within {ps : List Area} {s0 : State} {key : Nat} {a1 : Bytes} {a2 : State}
    (hm : Sub [.free, .counters, .dict, .events, .taken, .hen, .om, .frame, .start, .spad, .arith, .parts, .dma, .dram, .clk, .host, .pho, .sums, .lanes, .las, .ver, .fab, .pow, .sec, .twin] ps)
    (h : Within ps s0 a2) :
    WWithin ps s0 (storedAct key a1 a2) := by
  unfold storedAct
  split
  · dsimp only
    split
    · exact .refuse
    · exact WWithin.done (setDict_within (hm.of ⟨rfl⟩) h)
  · dsimp only
    split
    · exact .refuse
    · exact WWithin.done (setDict_within (hm.of ⟨rfl⟩) h)
  · exact writeAct_within (hm.of ⟨rfl⟩) h

theorem takeStored_within {ps : List Area} {s0 : State} {key : Nat} {v : Bytes} {s : State}
    (hm : Sub [.free, .counters, .dict, .events, .taken, .hen, .om, .frame, .start, .spad, .arith, .parts, .dma, .dram, .clk, .host, .pho, .sums, .lanes, .las, .ver, .fab, .pow, .sec, .twin] ps)
    (h : Within ps s0 s) :
    Within ps s0 (takeStored key v s) := by
  unfold takeStored
  extract_lets v1
  split
  · simp only [v1]
    exact raise_within (hm.of ⟨rfl⟩) (Within.put h)
  · split
    · rename_i y9
      refine WWithin.outDone (ps := ps) (a := s0) y9 ?_ (fun h10 => ?_)
      · exact storedAct_within (hm.of ⟨rfl⟩) h
      exact h10
    · rename_i y14
      refine WWithin.outWait (ps := ps) (a := s0) y14 ?_ (fun h15 => ?_)
      · exact storedAct_within (hm.of ⟨rfl⟩) h
      exact h15
    · rename_i y18
      refine WWithin.outFailed (ps := ps) (a := s0) y18 ?_ (fun h19 => ?_)
      · exact storedAct_within (hm.of ⟨rfl⟩) h
      simp only [v1]
      exact raise_within (hm.of ⟨rfl⟩) (Within.put h)
    · simp only [v1]
      exact raise_within (hm.of ⟨rfl⟩) (Within.put h)

theorem applyConfiguration_within {ps : List Area} {s0 : State} {s : State}
    (hm : Sub [.free, .counters, .dict, .events, .taken, .hen, .om, .frame, .start, .spad, .arith, .parts, .dma, .dram, .clk, .host, .pho, .sums, .lanes, .las, .ver, .fab, .pow, .sec, .twin] ps)
    (h : Within ps s0 s) :
    Within ps s0 (applyConfiguration s) := by
  unfold applyConfiguration
  split
  · exact raise_within (hm.of ⟨rfl⟩) h
  · extract_lets v7 v8
    refine Within.mid (ps := ps) (a := s0) v8 ?_ (fun h9 => ?_)
    · unfold v8
      exact Within.put h
    clear_value v8
    exact Within.fold h9 (fun _ _ h12 => takeStored_within (hm.of ⟨rfl⟩) h12)

theorem startMule_within {ps : List Area} {s0 : State} {s : State}
    (hm : Sub [.free, .counters, .dict, .events, .taken, .hen, .om, .frame, .start, .spad, .arith, .parts, .dma, .dram, .clk, .host, .pho, .sums, .lanes, .las, .ver, .fab, .pow, .sec, .twin] ps)
    (h : Within ps s0 s) :
    Within ps s0 (startMule s) := by
  unfold startMule
  extract_lets v1 v2 v3 v4 v5 v6
  refine Within.mid (ps := ps) (a := s0) v2 ?_ (fun h7 => ?_)
  · unfold v2
    exact applyConfiguration_within (hm.of ⟨rfl⟩) (Within.put h)
  clear_value v2
  refine Within.mid (ps := ps) (a := s0) v6 ?_ (fun h8 => ?_)
  · unfold v6
    exact Within.put h7
  clear_value v6
  exact beginDiscovery_within (hm.of ⟨rfl⟩) h8

theorem finishController_within {ps : List Area} {s0 : State} {nvmReadable : Bool} {result : Nat} {s : State}
    (hm : Sub [.free, .counters, .dict, .events, .taken, .hen, .om, .frame, .start, .spad, .arith, .parts, .dma, .dram, .clk, .host, .pho, .sums, .lanes, .las, .ver, .fab, .pow, .sec, .twin] ps)
    (h : Within ps s0 s) :
    Within ps s0 (finishController nvmReadable result s) := by
  unfold finishController
  split
  · exact enterDonkey_within (hm.of ⟨rfl⟩) h
  · exact endStep_within (hm.of ⟨rfl⟩) (startMule_within (hm.of ⟨rfl⟩) h)

theorem execStep2ManagementController_within {ps : List Area} {s0 : State} {nvmReadable : Bool} {s : State}
    (hm : Sub [.free, .counters, .dict, .events, .taken, .hen, .om, .frame, .start, .spad, .arith, .parts, .dma, .dram, .clk, .host, .pho, .sums, .lanes, .las, .ver, .fab, .pow, .sec, .twin] ps)
    (h : Within ps s0 s) :
    OutWithin ps s0 (execStep2ManagementController nvmReadable s) := by
  unfold execStep2ManagementController
  exact OutWithin.next (Within.ite (fun _ => finishController_within (hm.of ⟨rfl⟩) h) (fun _ => h))

theorem finishDiscovery_within {ps : List Area} {s0 : State} {result : Nat} {s : State}
    (hm : Sub [.events, .start] ps) (h : Within ps s0 s) :
    Within ps s0 (finishDiscovery result s) := by
  unfold finishDiscovery
  exact endStep_within (hm.of ⟨rfl⟩) (Within.put h)

theorem nameRest_within {ps : List Area} {s0 : State} {s : State} (hm : Sub [.ver] ps) (h : Within ps s0 s) :
    Within ps s0 (nameRest s) := by
  unfold nameRest
  extract_lets v1 v2
  exact Within.put h

theorem execStep3Discovery_within {ps : List Area} {s0 : State} {s : State}
    (hm : Sub [.events, .start, .ver] ps) (h : Within ps s0 s) :
    OutWithin ps s0 (execStep3Discovery s) := by
  unfold execStep3Discovery
  refine OutWithin.next ?_
  exact Within.ite (fun _ => finishDiscovery_within (hm.of ⟨rfl⟩) (nameRest_within (hm.of ⟨rfl⟩) h)) (fun _ => h)

theorem finishBundles_within {ps : List Area} {s0 : State} {result : Nat} {s : State}
    (hm : Sub [.events, .frame, .start, .clk, .pho] ps) (h : Within ps s0 s) :
    Within ps s0 (finishBundles result s) := by
  unfold finishBundles
  extract_lets v1 v2 v3 v4 v5
  refine Within.mid (ps := ps) (a := s0) v2 ?_ (fun h6 => ?_)
  · unfold v2
    exact endStep_within (hm.of ⟨rfl⟩) h
  clear_value v2
  exact Within.put h6

theorem chooseLanes_within {ps : List Area} {s0 : State} {errors : List (BundleSide × Fin 36 × List Nat)}
    {s : State}
    (hm : Sub [.free, .counters, .events, .om, .start, .spad, .parts, .dma, .dram, .clk, .host, .pho, .sums, .lanes, .ver, .fab, .pow, .twin] ps)
    (h : Within ps s0 s) :
    Within ps s0 (chooseLanes errors s) := by
  unfold chooseLanes
  extract_lets v1 v2
  refine Within.mid (ps := ps) (a := s0) v2 ?_ (fun h3 => ?_)
  · unfold v2
    refine Within.fold ?_ (fun s4 x5 h6 => ?_)
    · exact h
    · refine Within.ite (fun _ => ?_) (fun _ => ?_)
      · exact h6
      · exact Within.fold h6 (fun _ _ h9 => startBundle_within (hm.of ⟨rfl⟩) h9)
  clear_value v2
  exact Within.fold h3 (fun _ _ h12 => startBundle_within (hm.of ⟨rfl⟩) h12)

theorem execStep4BundleRepair_within {ps : List Area} {s0 : State}
    {errors : List (BundleSide × Fin 36 × List Nat)} {s : State}
    (hm : Sub [.free, .counters, .events, .om, .frame, .start, .spad, .parts, .dma, .dram, .clk, .host, .pho, .sums, .lanes, .ver, .fab, .pow, .twin] ps)
    (h : Within ps s0 s) :
    OutWithin ps s0 (execStep4BundleRepair errors s) := by
  unfold execStep4BundleRepair
  refine OutWithin.next ?_
  exact Within.ite (fun _ => finishBundles_within (hm.of ⟨rfl⟩) (chooseLanes_within (hm.of ⟨rfl⟩) h)) (fun _ => h)

theorem powerTower_within {ps : List Area} {s0 : State} {t : Nat} {s : State} (hm : Sub [.spad, .clk] ps)
    (h : Within ps s0 s) :
    Within ps s0 (powerTower t s) := by
  unfold powerTower
  extract_lets v1 v2 v3
  exact Within.put h

theorem failStart_within {ps : List Area} {s0 : State} {s : State}
    (hm : Sub [.counters, .dict, .events, .taken, .hen, .om, .frame, .start, .spad, .arith, .parts, .dma, .dram, .clk, .host, .pho, .sums, .lanes, .las, .ver, .fab, .pow, .sec, .twin] ps)
    (h : Within ps s0 s) :
    Within ps s0 (failStart s) := by
  unfold failStart
  exact stopDevice_within (hm.of ⟨rfl⟩) (arriveAll_within (hm.of ⟨rfl⟩) (raise_within (hm.of ⟨rfl⟩) h))

theorem enterFoal_within {ps : List Area} {s0 : State} {s : State} (hm : Sub [.events, .start] ps)
    (h : Within ps s0 s) :
    Within ps s0 (enterFoal s) := by
  unfold enterFoal
  extract_lets v1 v2
  exact raise_within (hm.of ⟨rfl⟩) (Within.put h)

theorem finishMesh_within {ps : List Area} {s0 : State} {result : Nat} {s : State}
    (hm : Sub [.counters, .dict, .events, .taken, .hen, .om, .frame, .start, .spad, .arith, .parts, .dma, .dram, .clk, .host, .pho, .sums, .lanes, .las, .ver, .fab, .pow, .sec, .twin] ps)
    (h : Within ps s0 s) :
    Within ps s0 (finishMesh result s) := by
  unfold finishMesh
  extract_lets v1
  refine Within.mid (ps := ps) (a := s0) v1 ?_ (fun h2 => ?_)
  · unfold v1
    exact Within.fold h (fun _ _ h5 => powerTower_within (hm.of ⟨rfl⟩) h5)
  clear_value v1
  refine Within.ite (fun _ => ?_) (fun _ => ?_)
  · exact failStart_within (hm.of ⟨rfl⟩) h2
  · exact enterFoal_within (hm.of ⟨rfl⟩) (endStep_within (hm.of ⟨rfl⟩) h2)

theorem execStep5BridleMesh_within {ps : List Area} {s0 : State} {s : State}
    (hm : Sub [.counters, .dict, .events, .taken, .hen, .om, .frame, .start, .spad, .arith, .parts, .dma, .dram, .clk, .host, .pho, .sums, .lanes, .las, .ver, .fab, .pow, .sec, .twin] ps)
    (h : Within ps s0 s) :
    OutWithin ps s0 (execStep5BridleMesh s) := by
  unfold execStep5BridleMesh
  exact OutWithin.next (Within.ite (fun _ => finishMesh_within (hm.of ⟨rfl⟩) h) (fun _ => h))

theorem lightSource_within {ps : List Area} {s0 : State} {f : Nat} {i : Nat} {s : State} (hm : Sub [.las] ps)
    (h : Within ps s0 s) :
    Within ps s0 (lightSource f i s) := by
  unfold lightSource
  extract_lets v1 v2 v3 v4
  refine Within.mid (ps := ps) (a := s0) v4 ?_ (fun h5 => ?_)
  · unfold v4
    exact Within.ite (fun _ => h) (fun _ => setSource_within (hm.of ⟨rfl⟩) h)
  clear_value v4
  clear_value v3
  split
  · exact h5
  · extract_lets v9
    refine Within.mid (ps := ps) (a := s0) v9 ?_ (fun h10 => ?_)
    · unfold v9
      exact setCarrier_within (hm.of ⟨rfl⟩) h5
    clear_value v9
    refine Within.ite (fun _ => ?_) (fun _ => ?_)
    · exact h10
    · exact Within.fold h10 (fun _ _ h13 => applyCarrier_within (hm.of ⟨rfl⟩) h13)

theorem loadCalibration_within {ps : List Area} {s0 : State} {b : Nat} {s : State} (hm : Sub [.events, .las] ps)
    (h : Within ps s0 s) :
    Within ps s0 (loadCalibration b s) := by
  unfold loadCalibration
  extract_lets v1 v2
  split
  · exact commitEntries_within (hm.of ⟨rfl⟩) (Within.put h)
  · split
    · refine commitEntries_within (hm.of ⟨rfl⟩) ?_
      simp only [v1]
      exact raise_within (hm.of ⟨rfl⟩) (Within.put h)
    · simp only [v1]
      exact raise_within (hm.of ⟨rfl⟩) h

theorem finishLasers_within {ps : List Area} {s0 : State} {unlocked : List Ring} {result : Nat} {s : State}
    (hm : Sub [.free, .counters, .events, .start, .pho, .lanes, .las, .ver, .fab] ps) (h : Within ps s0 s) :
    Within ps s0 (finishLasers unlocked result s) := by
  unfold finishLasers
  extract_lets v1 v2 v3 v4 v5 v6
  refine Within.mid (ps := ps) (a := s0) v2 ?_ (fun h7 => ?_)
  · unfold v2
    refine Within.fold ?_ (fun s8 x9 h10 => ?_)
    · exact h
    · exact Within.fold h10 (fun _ _ h13 => lightSource_within (hm.of ⟨rfl⟩) h13)
  clear_value v2
  refine Within.mid (ps := ps) (a := s0) v3 ?_ (fun h14 => ?_)
  · unfold v3
    exact Within.fold h7 (fun _ _ h17 => loadCalibration_within (hm.of ⟨rfl⟩) h17)
  clear_value v3
  refine Within.mid (ps := ps) (a := s0) v4 ?_ (fun h18 => ?_)
  · unfold v4
    exact searchRings_within (hm.of ⟨rfl⟩) h14
  clear_value v4
  refine Within.mid (ps := ps) (a := s0) v6 ?_ (fun h19 => ?_)
  · unfold v6
    exact endStep_within (hm.of ⟨rfl⟩) (Within.put h18)
  clear_value v6
  exact Within.fold h19 (fun _ _ h22 => linkTraining_within (hm.of ⟨rfl⟩) h22)

theorem execStep6LasersRings_within {ps : List Area} {s0 : State} {rref : BitVec 16} {unlocked : List Ring}
    {s : State} (hm : Sub [.free, .counters, .events, .start, .pho, .lanes, .las, .ver, .fab] ps)
    (h : Within ps s0 s) :
    OutWithin ps s0 (execStep6LasersRings rref unlocked s) := by
  unfold execStep6LasersRings
  refine OutWithin.next ?_
  exact Within.ite (fun _ => finishLasers_within (hm.of ⟨rfl⟩) (measureRref_within (hm.of ⟨rfl⟩) h)) (fun _ => h)

theorem finishLanes_within {ps : List Area} {s0 : State} {result : Nat} {s : State}
    (hm : Sub [.events, .frame, .start, .fab] ps) (h : Within ps s0 s) :
    Within ps s0 (finishLanes result s) := by
  unfold finishLanes
  extract_lets v1 v2 v3
  refine Within.mid (ps := ps) (a := s0) v1 ?_ (fun h4 => ?_)
  · unfold v1
    exact endStep_within (hm.of ⟨rfl⟩) h
  clear_value v1
  exact Within.put h4

theorem lockLinks_within {ps : List Area} {s0 : State} {s : State}
    (hm : Sub [.free, .counters, .events, .pho, .lanes, .ver, .fab] ps) (h : Within ps s0 s) :
    Within ps s0 (lockLinks s) := by
  unfold lockLinks
  exact Within.fold h (fun _ _ h3 => lockOn_within (hm.of ⟨rfl⟩) h3)

theorem execStep7Lanes_within {ps : List Area} {s0 : State} {s : State}
    (hm : Sub [.free, .counters, .events, .frame, .start, .pho, .lanes, .ver, .fab] ps) (h : Within ps s0 s) :
    OutWithin ps s0 (execStep7Lanes s) := by
  unfold execStep7Lanes
  refine OutWithin.next ?_
  exact Within.ite (fun _ => finishLanes_within (hm.of ⟨rfl⟩) (lockLinks_within (hm.of ⟨rfl⟩) h)) (fun _ => h)

theorem enterService_within {ps : List Area} {s0 : State} {result : Nat} {s : State}
    (hm : Sub [.events, .start, .host, .twin] ps) (h : Within ps s0 s) :
    Within ps s0 (enterService result s) := by
  unfold enterService
  extract_lets v1 v2
  refine Within.mid (ps := ps) (a := s0) v1 ?_ (fun h3 => ?_)
  · unfold v1
    exact endStep_within (hm.of ⟨rfl⟩) h
  clear_value v1
  exact startPairing_within (hm.of ⟨rfl⟩) (raise_within (hm.of ⟨rfl⟩) (Within.put h3))

theorem finishLock_within {ps : List Area} {s0 : State} {result : Nat} {s : State}
    (hm : Sub [.free, .counters, .events, .start, .host, .pho, .lanes, .las, .ver, .fab, .twin] ps)
    (h : Within ps s0 s) :
    Within ps s0 (finishLock result s) := by
  unfold finishLock
  extract_lets v1 v2 v3 v4
  refine Within.mid (ps := ps) (a := s0) v3 ?_ (fun h5 => ?_)
  · unfold v3
    exact endStep_within (hm.of ⟨rfl⟩) h
  clear_value v3
  refine Within.ite (fun _ => ?_) (fun _ => ?_)
  · exact raise_within (hm.of ⟨rfl⟩) (Within.put h5)
  · exact enterService_within (hm.of ⟨rfl⟩) (parkAllUnlocked_within (hm.of ⟨rfl⟩) (trainPaths_within (hm.of ⟨rfl⟩) h))

theorem execStep8FrameLock_within {ps : List Area} {s0 : State} {s : State}
    (hm : Sub [.free, .counters, .events, .start, .host, .pho, .lanes, .las, .ver, .fab, .twin] ps)
    (h : Within ps s0 s) :
    OutWithin ps s0 (execStep8FrameLock s) := by
  unfold execStep8FrameLock
  exact OutWithin.next (Within.ite (fun _ => finishLock_within (hm.of ⟨rfl⟩) h) (fun _ => h))

theorem finishAtLimit_within {ps : List Area} {s0 : State} {s : State}
    (hm : Sub [.free, .counters, .dict, .events, .taken, .hen, .om, .frame, .start, .spad, .arith, .parts, .dma, .dram, .clk, .host, .pho, .sums, .lanes, .las, .ver, .fab, .pow, .sec, .twin] ps)
    (h : Within ps s0 s) :
    Within ps s0 (finishAtLimit s) := by
  unfold finishAtLimit
  split
  · exact finishSupplies_within (hm.of ⟨rfl⟩) h
  · exact finishController_within (hm.of ⟨rfl⟩) h
  · exact finishDiscovery_within (hm.of ⟨rfl⟩) (nameRest_within (hm.of ⟨rfl⟩) h)
  · exact finishBundles_within (hm.of ⟨rfl⟩) (chooseLanes_within (hm.of ⟨rfl⟩) h)
  · exact finishMesh_within (hm.of ⟨rfl⟩) h
  · exact finishLasers_within (hm.of ⟨rfl⟩) h
  · exact finishLanes_within (hm.of ⟨rfl⟩) (lockLinks_within (hm.of ⟨rfl⟩) h)
  · exact finishLock_within (hm.of ⟨rfl⟩) h

theorem stepAtLimit_within {ps : List Area} {s0 : State} {incomplete : List PkgUnit} {s : State}
    (hm : Sub [.now, .free, .counters, .dict, .events, .taken, .hen, .om, .frame, .start, .spad, .arith, .parts, .dma, .dram, .clk, .host, .pho, .sums, .lanes, .las, .ver, .fab, .pow, .sec, .twin] ps)
    (h : Within ps s0 s) :
    Within ps s0 (stepAtLimit incomplete s) := by
  unfold stepAtLimit
  refine Within.ite (fun _ => ?_) (fun _ => ?_)
  · exact h
  · extract_lets v1 v2 v3 v4 v5 v6 v7
    refine Within.mid (ps := ps) (a := s0) v1 ?_ (fun h8 => ?_)
    · unfold v1
      exact advanceTo_within (hm.of ⟨rfl⟩) h
    clear_value v1
    refine Within.mid (ps := ps) (a := s0) v7 ?_ (fun h9 => ?_)
    · unfold v7
      exact Within.fold h8 (fun _ _ h12 => raise_within (hm.of ⟨rfl⟩) h12)
    clear_value v7
    refine Within.ite (fun _ => ?_) (fun _ => ?_)
    · exact failStart_within (hm.of ⟨rfl⟩) h8
    · exact finishAtLimit_within (hm.of ⟨rfl⟩) (keepOut_within (hm.of ⟨rfl⟩) h9)

theorem execStepLimit_within {ps : List Area} {s0 : State} {incomplete : List PkgUnit} {s : State}
    (hm : Sub [.now, .free, .counters, .dict, .events, .taken, .hen, .om, .frame, .start, .spad, .arith, .parts, .dma, .dram, .clk, .host, .pho, .sums, .lanes, .las, .ver, .fab, .pow, .sec, .twin] ps)
    (h : Within ps s0 s) :
    OutWithin ps s0 (execStepLimit incomplete s) := by
  unfold execStepLimit
  exact OutWithin.next (stepAtLimit_within (hm.of ⟨rfl⟩) h)

theorem startSucceeds_within {ps : List Area} {s0 : State} {s : State} (hm : Sub [.now, .start] ps)
    (h : Within ps s0 s) :
    Within ps s0 (startSucceeds s) := by
  unfold startSucceeds
  split
  · exact h
  · refine Within.ite (fun _ => ?_) (fun _ => ?_)
    · exact h
    · extract_lets v6 v7
      refine Within.mid (ps := ps) (a := s0) v6 ?_ (fun h8 => ?_)
      · unfold v6
        exact advanceTo_within (hm.of ⟨rfl⟩) h
      clear_value v6
      exact Within.put h8

theorem execStartSuccess_within {ps : List Area} {s0 : State} {s : State} (hm : Sub [.now, .start] ps)
    (h : Within ps s0 s) :
    OutWithin ps s0 (execStartSuccess s) := by
  unfold execStartSuccess
  exact OutWithin.next (startSucceeds_within (hm.of ⟨rfl⟩) h)

theorem execWatchdogReset_within {ps : List Area} {s0 : State} {s : State}
    (hm : Sub [.counters, .dict, .events, .taken, .hen, .om, .frame, .start, .spad, .arith, .parts, .dma, .dram, .clk, .host, .pho, .sums, .lanes, .las, .ver, .fab, .pow, .sec, .twin] ps)
    (h : Within ps s0 s) :
    OutWithin ps s0 (execWatchdogReset s) := by
  unfold execWatchdogReset
  exact OutWithin.next (Within.ite (fun _ => failStart_within (hm.of ⟨rfl⟩) h) (fun _ => h))

end Sys2Proof.Machine
end

