-- ==== Sys2Proof/Laws/AllFrames.lean ====
section
/-! SUPPORT. Every frame lemma. -/

set_option Elab.async false
end

