-- ==== Sys2Proof/Laws/State.lean ====
section
/-! SUPPORT. Reading a part of the state after a shared operation that does not write it. -/

set_option Elab.async false

namespace Sys2Proof.Machine

section
variable {code : Nat} {items : List (Option Bytes)} {s : State}

@[simp] theorem raise_now : (raise code items s).now = s.now :=
  raise_within ⟨rfl⟩ (Within.refl [.events] _) .now (by decide)
@[simp] theorem raise_freeDrawn : (raise code items s).freeDrawn = s.freeDrawn :=
  raise_within ⟨rfl⟩ (Within.refl [.events] _) .free (by decide)
@[simp] theorem raise_counters : (raise code items s).counters = s.counters :=
  raise_within ⟨rfl⟩ (Within.refl [.events] _) .counters (by decide)
@[simp] theorem raise_dict : (raise code items s).dict = s.dict :=
  raise_within ⟨rfl⟩ (Within.refl [.events] _) .dict (by decide)
@[simp] theorem raise_om : (raise code items s).om = s.om :=
  raise_within ⟨rfl⟩ (Within.refl [.events] _) .om (by decide)
@[simp] theorem raise_frame : (raise code items s).frame = s.frame :=
  raise_within ⟨rfl⟩ (Within.refl [.events] _) .frame (by decide)
@[simp] theorem raise_start : (raise code items s).start = s.start :=
  raise_within ⟨rfl⟩ (Within.refl [.events] _) .start (by decide)
@[simp] theorem raise_spad : (raise code items s).spad = s.spad :=
  raise_within ⟨rfl⟩ (Within.refl [.events] _) .spad (by decide)
@[simp] theorem raise_arith : (raise code items s).arith = s.arith :=
  raise_within ⟨rfl⟩ (Within.refl [.events] _) .arith (by decide)
@[simp] theorem raise_parts : (raise code items s).parts = s.parts :=
  raise_within ⟨rfl⟩ (Within.refl [.events] _) .parts (by decide)
@[simp] theorem raise_dma : (raise code items s).dma = s.dma :=
  raise_within ⟨rfl⟩ (Within.refl [.events] _) .dma (by decide)
@[simp] theorem raise_dram : (raise code items s).dram = s.dram :=
  raise_within ⟨rfl⟩ (Within.refl [.events] _) .dram (by decide)
@[simp] theorem raise_clk : (raise code items s).clk = s.clk :=
  raise_within ⟨rfl⟩ (Within.refl [.events] _) .clk (by decide)
@[simp] theorem raise_host : (raise code items s).host = s.host :=
  raise_within ⟨rfl⟩ (Within.refl [.events] _) .host (by decide)
@[simp] theorem raise_pho : (raise code items s).pho = s.pho :=
  raise_within ⟨rfl⟩ (Within.refl [.events] _) .pho (by decide)
@[simp] theorem raise_sums : (raise code items s).sums = s.sums :=
  raise_within ⟨rfl⟩ (Within.refl [.events] _) .sums (by decide)
@[simp] theorem raise_lanes : (raise code items s).lanes = s.lanes :=
  raise_within ⟨rfl⟩ (Within.refl [.events] _) .lanes (by decide)
@[simp] theorem raise_las : (raise code items s).las = s.las :=
  raise_within ⟨rfl⟩ (Within.refl [.events] _) .las (by decide)
@[simp] theorem raise_ver : (raise code items s).ver = s.ver :=
  raise_within ⟨rfl⟩ (Within.refl [.events] _) .ver (by decide)
@[simp] theorem raise_fab : (raise code items s).fab = s.fab :=
  raise_within ⟨rfl⟩ (Within.refl [.events] _) .fab (by decide)
@[simp] theorem raise_pow : (raise code items s).pow = s.pow :=
  raise_within ⟨rfl⟩ (Within.refl [.events] _) .pow (by decide)
@[simp] theorem raise_sec : (raise code items s).sec = s.sec :=
  raise_within ⟨rfl⟩ (Within.refl [.events] _) .sec (by decide)
@[simp] theorem raise_twin : (raise code items s).twin = s.twin :=
  raise_within ⟨rfl⟩ (Within.refl [.events] _) .twin (by decide)
@[simp] theorem raise_pending : (raise code items s).pending = s.pending :=
  raise_within ⟨rfl⟩ (Within.refl [.events] _) .queue (by decide)

end

section
variable {r : Reply} {s : State}

@[simp] theorem sendReply_now : (sendReply r s).now = s.now :=
  sendReply_within ⟨rfl⟩ (Within.refl [.om] _) .now (by decide)
@[simp] theorem sendReply_freeDrawn : (sendReply r s).freeDrawn = s.freeDrawn :=
  sendReply_within ⟨rfl⟩ (Within.refl [.om] _) .free (by decide)
@[simp] theorem sendReply_counters : (sendReply r s).counters = s.counters :=
  sendReply_within ⟨rfl⟩ (Within.refl [.om] _) .counters (by decide)
@[simp] theorem sendReply_dict : (sendReply r s).dict = s.dict :=
  sendReply_within ⟨rfl⟩ (Within.refl [.om] _) .dict (by decide)
@[simp] theorem sendReply_frame : (sendReply r s).frame = s.frame :=
  sendReply_within ⟨rfl⟩ (Within.refl [.om] _) .frame (by decide)
@[simp] theorem sendReply_start : (sendReply r s).start = s.start :=
  sendReply_within ⟨rfl⟩ (Within.refl [.om] _) .start (by decide)
@[simp] theorem sendReply_spad : (sendReply r s).spad = s.spad :=
  sendReply_within ⟨rfl⟩ (Within.refl [.om] _) .spad (by decide)
@[simp] theorem sendReply_arith : (sendReply r s).arith = s.arith :=
  sendReply_within ⟨rfl⟩ (Within.refl [.om] _) .arith (by decide)
@[simp] theorem sendReply_parts : (sendReply r s).parts = s.parts :=
  sendReply_within ⟨rfl⟩ (Within.refl [.om] _) .parts (by decide)
@[simp] theorem sendReply_dma : (sendReply r s).dma = s.dma :=
  sendReply_within ⟨rfl⟩ (Within.refl [.om] _) .dma (by decide)
@[simp] theorem sendReply_dram : (sendReply r s).dram = s.dram :=
  sendReply_within ⟨rfl⟩ (Within.refl [.om] _) .dram (by decide)
@[simp] theorem sendReply_clk : (sendReply r s).clk = s.clk :=
  sendReply_within ⟨rfl⟩ (Within.refl [.om] _) .clk (by decide)
@[simp] theorem sendReply_host : (sendReply r s).host = s.host :=
  sendReply_within ⟨rfl⟩ (Within.refl [.om] _) .host (by decide)
@[simp] theorem sendReply_pho : (sendReply r s).pho = s.pho :=
  sendReply_within ⟨rfl⟩ (Within.refl [.om] _) .pho (by decide)
@[simp] theorem sendReply_sums : (sendReply r s).sums = s.sums :=
  sendReply_within ⟨rfl⟩ (Within.refl [.om] _) .sums (by decide)
@[simp] theorem sendReply_lanes : (sendReply r s).lanes = s.lanes :=
  sendReply_within ⟨rfl⟩ (Within.refl [.om] _) .lanes (by decide)
@[simp] theorem sendReply_las : (sendReply r s).las = s.las :=
  sendReply_within ⟨rfl⟩ (Within.refl [.om] _) .las (by decide)
@[simp] theorem sendReply_ver : (sendReply r s).ver = s.ver :=
  sendReply_within ⟨rfl⟩ (Within.refl [.om] _) .ver (by decide)
@[simp] theorem sendReply_fab : (sendReply r s).fab = s.fab :=
  sendReply_within ⟨rfl⟩ (Within.refl [.om] _) .fab (by decide)
@[simp] theorem sendReply_pow : (sendReply r s).pow = s.pow :=
  sendReply_within ⟨rfl⟩ (Within.refl [.om] _) .pow (by decide)
@[simp] theorem sendReply_sec : (sendReply r s).sec = s.sec :=
  sendReply_within ⟨rfl⟩ (Within.refl [.om] _) .sec (by decide)
@[simp] theorem sendReply_twin : (sendReply r s).twin = s.twin :=
  sendReply_within ⟨rfl⟩ (Within.refl [.om] _) .twin (by decide)
@[simp] theorem sendReply_pending : (sendReply r s).pending = s.pending :=
  sendReply_within ⟨rfl⟩ (Within.refl [.om] _) .queue (by decide)
@[simp] theorem sendReply_hen : (sendReply r s).hen = s.hen :=
  Within.hen_eq (sendReply_within ⟨rfl⟩ (Within.refl [.om] _)) (by decide) (by decide)

end

section
variable {id : RequestId} {status : BitVec 8} {detail : Nat} {offset : Nat} {s : State}

@[simp] theorem errorReply_now : (errorReply id status detail offset s).now = s.now :=
  errorReply_within ⟨rfl⟩ (Within.refl [.om] _) .now (by decide)
@[simp] theorem errorReply_freeDrawn : (errorReply id status detail offset s).freeDrawn = s.freeDrawn :=
  errorReply_within ⟨rfl⟩ (Within.refl [.om] _) .free (by decide)
@[simp] theorem errorReply_counters : (errorReply id status detail offset s).counters = s.counters :=
  errorReply_within ⟨rfl⟩ (Within.refl [.om] _) .counters (by decide)
@[simp] theorem errorReply_dict : (errorReply id status detail offset s).dict = s.dict :=
  errorReply_within ⟨rfl⟩ (Within.refl [.om] _) .dict (by decide)
@[simp] theorem errorReply_frame : (errorReply id status detail offset s).frame = s.frame :=
  errorReply_within ⟨rfl⟩ (Within.refl [.om] _) .frame (by decide)
@[simp] theorem errorReply_start : (errorReply id status detail offset s).start = s.start :=
  errorReply_within ⟨rfl⟩ (Within.refl [.om] _) .start (by decide)
@[simp] theorem errorReply_spad : (errorReply id status detail offset s).spad = s.spad :=
  errorReply_within ⟨rfl⟩ (Within.refl [.om] _) .spad (by decide)
@[simp] theorem errorReply_arith : (errorReply id status detail offset s).arith = s.arith :=
  errorReply_within ⟨rfl⟩ (Within.refl [.om] _) .arith (by decide)
@[simp] theorem errorReply_parts : (errorReply id status detail offset s).parts = s.parts :=
  errorReply_within ⟨rfl⟩ (Within.refl [.om] _) .parts (by decide)
@[simp] theorem errorReply_dma : (errorReply id status detail offset s).dma = s.dma :=
  errorReply_within ⟨rfl⟩ (Within.refl [.om] _) .dma (by decide)
@[simp] theorem errorReply_dram : (errorReply id status detail offset s).dram = s.dram :=
  errorReply_within ⟨rfl⟩ (Within.refl [.om] _) .dram (by decide)
@[simp] theorem errorReply_clk : (errorReply id status detail offset s).clk = s.clk :=
  errorReply_within ⟨rfl⟩ (Within.refl [.om] _) .clk (by decide)
@[simp] theorem errorReply_host : (errorReply id status detail offset s).host = s.host :=
  errorReply_within ⟨rfl⟩ (Within.refl [.om] _) .host (by decide)
@[simp] theorem errorReply_pho : (errorReply id status detail offset s).pho = s.pho :=
  errorReply_within ⟨rfl⟩ (Within.refl [.om] _) .pho (by decide)
@[simp] theorem errorReply_sums : (errorReply id status detail offset s).sums = s.sums :=
  errorReply_within ⟨rfl⟩ (Within.refl [.om] _) .sums (by decide)
@[simp] theorem errorReply_lanes : (errorReply id status detail offset s).lanes = s.lanes :=
  errorReply_within ⟨rfl⟩ (Within.refl [.om] _) .lanes (by decide)
@[simp] theorem errorReply_las : (errorReply id status detail offset s).las = s.las :=
  errorReply_within ⟨rfl⟩ (Within.refl [.om] _) .las (by decide)
@[simp] theorem errorReply_ver : (errorReply id status detail offset s).ver = s.ver :=
  errorReply_within ⟨rfl⟩ (Within.refl [.om] _) .ver (by decide)
@[simp] theorem errorReply_fab : (errorReply id status detail offset s).fab = s.fab :=
  errorReply_within ⟨rfl⟩ (Within.refl [.om] _) .fab (by decide)
@[simp] theorem errorReply_pow : (errorReply id status detail offset s).pow = s.pow :=
  errorReply_within ⟨rfl⟩ (Within.refl [.om] _) .pow (by decide)
@[simp] theorem errorReply_sec : (errorReply id status detail offset s).sec = s.sec :=
  errorReply_within ⟨rfl⟩ (Within.refl [.om] _) .sec (by decide)
@[simp] theorem errorReply_twin : (errorReply id status detail offset s).twin = s.twin :=
  errorReply_within ⟨rfl⟩ (Within.refl [.om] _) .twin (by decide)
@[simp] theorem errorReply_pending : (errorReply id status detail offset s).pending = s.pending :=
  errorReply_within ⟨rfl⟩ (Within.refl [.om] _) .queue (by decide)
@[simp] theorem errorReply_hen : (errorReply id status detail offset s).hen = s.hen :=
  Within.hen_eq (errorReply_within ⟨rfl⟩ (Within.refl [.om] _)) (by decide) (by decide)

end

section
variable {key : Nat} {n : Nat} {s : State}

@[simp] theorem count64_now : (count64 key n s).now = s.now :=
  count64_within ⟨rfl⟩ (Within.refl [.counters] _) .now (by decide)
@[simp] theorem count64_freeDrawn : (count64 key n s).freeDrawn = s.freeDrawn :=
  count64_within ⟨rfl⟩ (Within.refl [.counters] _) .free (by decide)
@[simp] theorem count64_dict : (count64 key n s).dict = s.dict :=
  count64_within ⟨rfl⟩ (Within.refl [.counters] _) .dict (by decide)
@[simp] theorem count64_om : (count64 key n s).om = s.om :=
  count64_within ⟨rfl⟩ (Within.refl [.counters] _) .om (by decide)
@[simp] theorem count64_frame : (count64 key n s).frame = s.frame :=
  count64_within ⟨rfl⟩ (Within.refl [.counters] _) .frame (by decide)
@[simp] theorem count64_start : (count64 key n s).start = s.start :=
  count64_within ⟨rfl⟩ (Within.refl [.counters] _) .start (by decide)
@[simp] theorem count64_spad : (count64 key n s).spad = s.spad :=
  count64_within ⟨rfl⟩ (Within.refl [.counters] _) .spad (by decide)
@[simp] theorem count64_arith : (count64 key n s).arith = s.arith :=
  count64_within ⟨rfl⟩ (Within.refl [.counters] _) .arith (by decide)
@[simp] theorem count64_parts : (count64 key n s).parts = s.parts :=
  count64_within ⟨rfl⟩ (Within.refl [.counters] _) .parts (by decide)
@[simp] theorem count64_dma : (count64 key n s).dma = s.dma :=
  count64_within ⟨rfl⟩ (Within.refl [.counters] _) .dma (by decide)
@[simp] theorem count64_dram : (count64 key n s).dram = s.dram :=
  count64_within ⟨rfl⟩ (Within.refl [.counters] _) .dram (by decide)
@[simp] theorem count64_clk : (count64 key n s).clk = s.clk :=
  count64_within ⟨rfl⟩ (Within.refl [.counters] _) .clk (by decide)
@[simp] theorem count64_host : (count64 key n s).host = s.host :=
  count64_within ⟨rfl⟩ (Within.refl [.counters] _) .host (by decide)
@[simp] theorem count64_pho : (count64 key n s).pho = s.pho :=
  count64_within ⟨rfl⟩ (Within.refl [.counters] _) .pho (by decide)
@[simp] theorem count64_sums : (count64 key n s).sums = s.sums :=
  count64_within ⟨rfl⟩ (Within.refl [.counters] _) .sums (by decide)
@[simp] theorem count64_lanes : (count64 key n s).lanes = s.lanes :=
  count64_within ⟨rfl⟩ (Within.refl [.counters] _) .lanes (by decide)
@[simp] theorem count64_las : (count64 key n s).las = s.las :=
  count64_within ⟨rfl⟩ (Within.refl [.counters] _) .las (by decide)
@[simp] theorem count64_ver : (count64 key n s).ver = s.ver :=
  count64_within ⟨rfl⟩ (Within.refl [.counters] _) .ver (by decide)
@[simp] theorem count64_fab : (count64 key n s).fab = s.fab :=
  count64_within ⟨rfl⟩ (Within.refl [.counters] _) .fab (by decide)
@[simp] theorem count64_pow : (count64 key n s).pow = s.pow :=
  count64_within ⟨rfl⟩ (Within.refl [.counters] _) .pow (by decide)
@[simp] theorem count64_sec : (count64 key n s).sec = s.sec :=
  count64_within ⟨rfl⟩ (Within.refl [.counters] _) .sec (by decide)
@[simp] theorem count64_twin : (count64 key n s).twin = s.twin :=
  count64_within ⟨rfl⟩ (Within.refl [.counters] _) .twin (by decide)
@[simp] theorem count64_pending : (count64 key n s).pending = s.pending :=
  count64_within ⟨rfl⟩ (Within.refl [.counters] _) .queue (by decide)
@[simp] theorem count64_hen : (count64 key n s).hen = s.hen :=
  Within.hen_eq (count64_within ⟨rfl⟩ (Within.refl [.counters] _)) (by decide) (by decide)

end

section
variable {key : Nat} {n : Nat} {s : State}

@[simp] theorem count32_now : (count32 key n s).now = s.now :=
  count32_within ⟨rfl⟩ (Within.refl [.counters, .events] _) .now (by decide)
@[simp] theorem count32_freeDrawn : (count32 key n s).freeDrawn = s.freeDrawn :=
  count32_within ⟨rfl⟩ (Within.refl [.counters, .events] _) .free (by decide)
@[simp] theorem count32_dict : (count32 key n s).dict = s.dict :=
  count32_within ⟨rfl⟩ (Within.refl [.counters, .events] _) .dict (by decide)
@[simp] theorem count32_om : (count32 key n s).om = s.om :=
  count32_within ⟨rfl⟩ (Within.refl [.counters, .events] _) .om (by decide)
@[simp] theorem count32_frame : (count32 key n s).frame = s.frame :=
  count32_within ⟨rfl⟩ (Within.refl [.counters, .events] _) .frame (by decide)
@[simp] theorem count32_start : (count32 key n s).start = s.start :=
  count32_within ⟨rfl⟩ (Within.refl [.counters, .events] _) .start (by decide)
@[simp] theorem count32_spad : (count32 key n s).spad = s.spad :=
  count32_within ⟨rfl⟩ (Within.refl [.counters, .events] _) .spad (by decide)
@[simp] theorem count32_arith : (count32 key n s).arith = s.arith :=
  count32_within ⟨rfl⟩ (Within.refl [.counters, .events] _) .arith (by decide)
@[simp] theorem count32_parts : (count32 key n s).parts = s.parts :=
  count32_within ⟨rfl⟩ (Within.refl [.counters, .events] _) .parts (by decide)
@[simp] theorem count32_dma : (count32 key n s).dma = s.dma :=
  count32_within ⟨rfl⟩ (Within.refl [.counters, .events] _) .dma (by decide)
@[simp] theorem count32_dram : (count32 key n s).dram = s.dram :=
  count32_within ⟨rfl⟩ (Within.refl [.counters, .events] _) .dram (by decide)
@[simp] theorem count32_clk : (count32 key n s).clk = s.clk :=
  count32_within ⟨rfl⟩ (Within.refl [.counters, .events] _) .clk (by decide)
@[simp] theorem count32_host : (count32 key n s).host = s.host :=
  count32_within ⟨rfl⟩ (Within.refl [.counters, .events] _) .host (by decide)
@[simp] theorem count32_pho : (count32 key n s).pho = s.pho :=
  count32_within ⟨rfl⟩ (Within.refl [.counters, .events] _) .pho (by decide)
@[simp] theorem count32_sums : (count32 key n s).sums = s.sums :=
  count32_within ⟨rfl⟩ (Within.refl [.counters, .events] _) .sums (by decide)
@[simp] theorem count32_lanes : (count32 key n s).lanes = s.lanes :=
  count32_within ⟨rfl⟩ (Within.refl [.counters, .events] _) .lanes (by decide)
@[simp] theorem count32_las : (count32 key n s).las = s.las :=
  count32_within ⟨rfl⟩ (Within.refl [.counters, .events] _) .las (by decide)
@[simp] theorem count32_ver : (count32 key n s).ver = s.ver :=
  count32_within ⟨rfl⟩ (Within.refl [.counters, .events] _) .ver (by decide)
@[simp] theorem count32_fab : (count32 key n s).fab = s.fab :=
  count32_within ⟨rfl⟩ (Within.refl [.counters, .events] _) .fab (by decide)
@[simp] theorem count32_pow : (count32 key n s).pow = s.pow :=
  count32_within ⟨rfl⟩ (Within.refl [.counters, .events] _) .pow (by decide)
@[simp] theorem count32_sec : (count32 key n s).sec = s.sec :=
  count32_within ⟨rfl⟩ (Within.refl [.counters, .events] _) .sec (by decide)
@[simp] theorem count32_twin : (count32 key n s).twin = s.twin :=
  count32_within ⟨rfl⟩ (Within.refl [.counters, .events] _) .twin (by decide)
@[simp] theorem count32_pending : (count32 key n s).pending = s.pending :=
  count32_within ⟨rfl⟩ (Within.refl [.counters, .events] _) .queue (by decide)

end

section
variable {key : Nat} {data : Bytes} {poisoned : Bool} {s : State}

@[simp] theorem spadWrite_now : (spadWrite key data poisoned s).now = s.now :=
  spadWrite_within ⟨rfl⟩ (Within.refl [.spad] _) .now (by decide)
@[simp] theorem spadWrite_freeDrawn : (spadWrite key data poisoned s).freeDrawn = s.freeDrawn :=
  spadWrite_within ⟨rfl⟩ (Within.refl [.spad] _) .free (by decide)
@[simp] theorem spadWrite_counters : (spadWrite key data poisoned s).counters = s.counters :=
  spadWrite_within ⟨rfl⟩ (Within.refl [.spad] _) .counters (by decide)
@[simp] theorem spadWrite_dict : (spadWrite key data poisoned s).dict = s.dict :=
  spadWrite_within ⟨rfl⟩ (Within.refl [.spad] _) .dict (by decide)
@[simp] theorem spadWrite_om : (spadWrite key data poisoned s).om = s.om :=
  spadWrite_within ⟨rfl⟩ (Within.refl [.spad] _) .om (by decide)
@[simp] theorem spadWrite_frame : (spadWrite key data poisoned s).frame = s.frame :=
  spadWrite_within ⟨rfl⟩ (Within.refl [.spad] _) .frame (by decide)
@[simp] theorem spadWrite_start : (spadWrite key data poisoned s).start = s.start :=
  spadWrite_within ⟨rfl⟩ (Within.refl [.spad] _) .start (by decide)
@[simp] theorem spadWrite_arith : (spadWrite key data poisoned s).arith = s.arith :=
  spadWrite_within ⟨rfl⟩ (Within.refl [.spad] _) .arith (by decide)
@[simp] theorem spadWrite_parts : (spadWrite key data poisoned s).parts = s.parts :=
  spadWrite_within ⟨rfl⟩ (Within.refl [.spad] _) .parts (by decide)
@[simp] theorem spadWrite_dma : (spadWrite key data poisoned s).dma = s.dma :=
  spadWrite_within ⟨rfl⟩ (Within.refl [.spad] _) .dma (by decide)
@[simp] theorem spadWrite_dram : (spadWrite key data poisoned s).dram = s.dram :=
  spadWrite_within ⟨rfl⟩ (Within.refl [.spad] _) .dram (by decide)
@[simp] theorem spadWrite_clk : (spadWrite key data poisoned s).clk = s.clk :=
  spadWrite_within ⟨rfl⟩ (Within.refl [.spad] _) .clk (by decide)
@[simp] theorem spadWrite_host : (spadWrite key data poisoned s).host = s.host :=
  spadWrite_within ⟨rfl⟩ (Within.refl [.spad] _) .host (by decide)
@[simp] theorem spadWrite_pho : (spadWrite key data poisoned s).pho = s.pho :=
  spadWrite_within ⟨rfl⟩ (Within.refl [.spad] _) .pho (by decide)
@[simp] theorem spadWrite_sums : (spadWrite key data poisoned s).sums = s.sums :=
  spadWrite_within ⟨rfl⟩ (Within.refl [.spad] _) .sums (by decide)
@[simp] theorem spadWrite_lanes : (spadWrite key data poisoned s).lanes = s.lanes :=
  spadWrite_within ⟨rfl⟩ (Within.refl [.spad] _) .lanes (by decide)
@[simp] theorem spadWrite_las : (spadWrite key data poisoned s).las = s.las :=
  spadWrite_within ⟨rfl⟩ (Within.refl [.spad] _) .las (by decide)
@[simp] theorem spadWrite_ver : (spadWrite key data poisoned s).ver = s.ver :=
  spadWrite_within ⟨rfl⟩ (Within.refl [.spad] _) .ver (by decide)
@[simp] theorem spadWrite_fab : (spadWrite key data poisoned s).fab = s.fab :=
  spadWrite_within ⟨rfl⟩ (Within.refl [.spad] _) .fab (by decide)
@[simp] theorem spadWrite_pow : (spadWrite key data poisoned s).pow = s.pow :=
  spadWrite_within ⟨rfl⟩ (Within.refl [.spad] _) .pow (by decide)
@[simp] theorem spadWrite_sec : (spadWrite key data poisoned s).sec = s.sec :=
  spadWrite_within ⟨rfl⟩ (Within.refl [.spad] _) .sec (by decide)
@[simp] theorem spadWrite_twin : (spadWrite key data poisoned s).twin = s.twin :=
  spadWrite_within ⟨rfl⟩ (Within.refl [.spad] _) .twin (by decide)
@[simp] theorem spadWrite_pending : (spadWrite key data poisoned s).pending = s.pending :=
  spadWrite_within ⟨rfl⟩ (Within.refl [.spad] _) .queue (by decide)
@[simp] theorem spadWrite_hen : (spadWrite key data poisoned s).hen = s.hen :=
  Within.hen_eq (spadWrite_within ⟨rfl⟩ (Within.refl [.spad] _)) (by decide) (by decide)

end

section
variable {p : Nat} {f : Part → Part} {s : State}

@[simp] theorem changePart_now : (changePart p f s).now = s.now :=
  changePart_within ⟨rfl⟩ (Within.refl [.parts] _) .now (by decide)
@[simp] theorem changePart_freeDrawn : (changePart p f s).freeDrawn = s.freeDrawn :=
  changePart_within ⟨rfl⟩ (Within.refl [.parts] _) .free (by decide)
@[simp] theorem changePart_counters : (changePart p f s).counters = s.counters :=
  changePart_within ⟨rfl⟩ (Within.refl [.parts] _) .counters (by decide)
@[simp] theorem changePart_dict : (changePart p f s).dict = s.dict :=
  changePart_within ⟨rfl⟩ (Within.refl [.parts] _) .dict (by decide)
@[simp] theorem changePart_om : (changePart p f s).om = s.om :=
  changePart_within ⟨rfl⟩ (Within.refl [.parts] _) .om (by decide)
@[simp] theorem changePart_frame : (changePart p f s).frame = s.frame :=
  changePart_within ⟨rfl⟩ (Within.refl [.parts] _) .frame (by decide)
@[simp] theorem changePart_start : (changePart p f s).start = s.start :=
  changePart_within ⟨rfl⟩ (Within.refl [.parts] _) .start (by decide)
@[simp] theorem changePart_spad : (changePart p f s).spad = s.spad :=
  changePart_within ⟨rfl⟩ (Within.refl [.parts] _) .spad (by decide)
@[simp] theorem changePart_arith : (changePart p f s).arith = s.arith :=
  changePart_within ⟨rfl⟩ (Within.refl [.parts] _) .arith (by decide)
@[simp] theorem changePart_dma : (changePart p f s).dma = s.dma :=
  changePart_within ⟨rfl⟩ (Within.refl [.parts] _) .dma (by decide)
@[simp] theorem changePart_dram : (changePart p f s).dram = s.dram :=
  changePart_within ⟨rfl⟩ (Within.refl [.parts] _) .dram (by decide)
@[simp] theorem changePart_clk : (changePart p f s).clk = s.clk :=
  changePart_within ⟨rfl⟩ (Within.refl [.parts] _) .clk (by decide)
@[simp] theorem changePart_host : (changePart p f s).host = s.host :=
  changePart_within ⟨rfl⟩ (Within.refl [.parts] _) .host (by decide)
@[simp] theorem changePart_pho : (changePart p f s).pho = s.pho :=
  changePart_within ⟨rfl⟩ (Within.refl [.parts] _) .pho (by decide)
@[simp] theorem changePart_sums : (changePart p f s).sums = s.sums :=
  changePart_within ⟨rfl⟩ (Within.refl [.parts] _) .sums (by decide)
@[simp] theorem changePart_lanes : (changePart p f s).lanes = s.lanes :=
  changePart_within ⟨rfl⟩ (Within.refl [.parts] _) .lanes (by decide)
@[simp] theorem changePart_las : (changePart p f s).las = s.las :=
  changePart_within ⟨rfl⟩ (Within.refl [.parts] _) .las (by decide)
@[simp] theorem changePart_ver : (changePart p f s).ver = s.ver :=
  changePart_within ⟨rfl⟩ (Within.refl [.parts] _) .ver (by decide)
@[simp] theorem changePart_fab : (changePart p f s).fab = s.fab :=
  changePart_within ⟨rfl⟩ (Within.refl [.parts] _) .fab (by decide)
@[simp] theorem changePart_pow : (changePart p f s).pow = s.pow :=
  changePart_within ⟨rfl⟩ (Within.refl [.parts] _) .pow (by decide)
@[simp] theorem changePart_sec : (changePart p f s).sec = s.sec :=
  changePart_within ⟨rfl⟩ (Within.refl [.parts] _) .sec (by decide)
@[simp] theorem changePart_twin : (changePart p f s).twin = s.twin :=
  changePart_within ⟨rfl⟩ (Within.refl [.parts] _) .twin (by decide)
@[simp] theorem changePart_pending : (changePart p f s).pending = s.pending :=
  changePart_within ⟨rfl⟩ (Within.refl [.parts] _) .queue (by decide)
@[simp] theorem changePart_hen : (changePart p f s).hen = s.hen :=
  Within.hen_eq (changePart_within ⟨rfl⟩ (Within.refl [.parts] _)) (by decide) (by decide)

end

section
variable {t : Nat} {r : Nat} {n : Nat} {s : State}

@[simp] theorem setDebt_now : (setDebt t r n s).now = s.now :=
  setDebt_within ⟨rfl⟩ (Within.refl [.clk] _) .now (by decide)
@[simp] theorem setDebt_freeDrawn : (setDebt t r n s).freeDrawn = s.freeDrawn :=
  setDebt_within ⟨rfl⟩ (Within.refl [.clk] _) .free (by decide)
@[simp] theorem setDebt_counters : (setDebt t r n s).counters = s.counters :=
  setDebt_within ⟨rfl⟩ (Within.refl [.clk] _) .counters (by decide)
@[simp] theorem setDebt_dict : (setDebt t r n s).dict = s.dict :=
  setDebt_within ⟨rfl⟩ (Within.refl [.clk] _) .dict (by decide)
@[simp] theorem setDebt_om : (setDebt t r n s).om = s.om :=
  setDebt_within ⟨rfl⟩ (Within.refl [.clk] _) .om (by decide)
@[simp] theorem setDebt_frame : (setDebt t r n s).frame = s.frame :=
  setDebt_within ⟨rfl⟩ (Within.refl [.clk] _) .frame (by decide)
@[simp] theorem setDebt_start : (setDebt t r n s).start = s.start :=
  setDebt_within ⟨rfl⟩ (Within.refl [.clk] _) .start (by decide)
@[simp] theorem setDebt_spad : (setDebt t r n s).spad = s.spad :=
  setDebt_within ⟨rfl⟩ (Within.refl [.clk] _) .spad (by decide)
@[simp] theorem setDebt_arith : (setDebt t r n s).arith = s.arith :=
  setDebt_within ⟨rfl⟩ (Within.refl [.clk] _) .arith (by decide)
@[simp] theorem setDebt_parts : (setDebt t r n s).parts = s.parts :=
  setDebt_within ⟨rfl⟩ (Within.refl [.clk] _) .parts (by decide)
@[simp] theorem setDebt_dma : (setDebt t r n s).dma = s.dma :=
  setDebt_within ⟨rfl⟩ (Within.refl [.clk] _) .dma (by decide)
@[simp] theorem setDebt_dram : (setDebt t r n s).dram = s.dram :=
  setDebt_within ⟨rfl⟩ (Within.refl [.clk] _) .dram (by decide)
@[simp] theorem setDebt_host : (setDebt t r n s).host = s.host :=
  setDebt_within ⟨rfl⟩ (Within.refl [.clk] _) .host (by decide)
@[simp] theorem setDebt_pho : (setDebt t r n s).pho = s.pho :=
  setDebt_within ⟨rfl⟩ (Within.refl [.clk] _) .pho (by decide)
@[simp] theorem setDebt_sums : (setDebt t r n s).sums = s.sums :=
  setDebt_within ⟨rfl⟩ (Within.refl [.clk] _) .sums (by decide)
@[simp] theorem setDebt_lanes : (setDebt t r n s).lanes = s.lanes :=
  setDebt_within ⟨rfl⟩ (Within.refl [.clk] _) .lanes (by decide)
@[simp] theorem setDebt_las : (setDebt t r n s).las = s.las :=
  setDebt_within ⟨rfl⟩ (Within.refl [.clk] _) .las (by decide)
@[simp] theorem setDebt_ver : (setDebt t r n s).ver = s.ver :=
  setDebt_within ⟨rfl⟩ (Within.refl [.clk] _) .ver (by decide)
@[simp] theorem setDebt_fab : (setDebt t r n s).fab = s.fab :=
  setDebt_within ⟨rfl⟩ (Within.refl [.clk] _) .fab (by decide)
@[simp] theorem setDebt_pow : (setDebt t r n s).pow = s.pow :=
  setDebt_within ⟨rfl⟩ (Within.refl [.clk] _) .pow (by decide)
@[simp] theorem setDebt_sec : (setDebt t r n s).sec = s.sec :=
  setDebt_within ⟨rfl⟩ (Within.refl [.clk] _) .sec (by decide)
@[simp] theorem setDebt_twin : (setDebt t r n s).twin = s.twin :=
  setDebt_within ⟨rfl⟩ (Within.refl [.clk] _) .twin (by decide)
@[simp] theorem setDebt_pending : (setDebt t r n s).pending = s.pending :=
  setDebt_within ⟨rfl⟩ (Within.refl [.clk] _) .queue (by decide)
@[simp] theorem setDebt_hen : (setDebt t r n s).hen = s.hen :=
  Within.hen_eq (setDebt_within ⟨rfl⟩ (Within.refl [.clk] _)) (by decide) (by decide)

end

section
variable {p : Nat} {id : BitVec 32} {f : Run → Run} {s : State}

@[simp] theorem changeRun_now : (changeRun p id f s).now = s.now :=
  changeRun_within ⟨rfl⟩ (Within.refl [.parts] _) .now (by decide)
@[simp] theorem changeRun_freeDrawn : (changeRun p id f s).freeDrawn = s.freeDrawn :=
  changeRun_within ⟨rfl⟩ (Within.refl [.parts] _) .free (by decide)
@[simp] theorem changeRun_counters : (changeRun p id f s).counters = s.counters :=
  changeRun_within ⟨rfl⟩ (Within.refl [.parts] _) .counters (by decide)
@[simp] theorem changeRun_dict : (changeRun p id f s).dict = s.dict :=
  changeRun_within ⟨rfl⟩ (Within.refl [.parts] _) .dict (by decide)
@[simp] theorem changeRun_om : (changeRun p id f s).om = s.om :=
  changeRun_within ⟨rfl⟩ (Within.refl [.parts] _) .om (by decide)
@[simp] theorem changeRun_frame : (changeRun p id f s).frame = s.frame :=
  changeRun_within ⟨rfl⟩ (Within.refl [.parts] _) .frame (by decide)
@[simp] theorem changeRun_start : (changeRun p id f s).start = s.start :=
  changeRun_within ⟨rfl⟩ (Within.refl [.parts] _) .start (by decide)
@[simp] theorem changeRun_spad : (changeRun p id f s).spad = s.spad :=
  changeRun_within ⟨rfl⟩ (Within.refl [.parts] _) .spad (by decide)
@[simp] theorem changeRun_arith : (changeRun p id f s).arith = s.arith :=
  changeRun_within ⟨rfl⟩ (Within.refl [.parts] _) .arith (by decide)
@[simp] theorem changeRun_dma : (changeRun p id f s).dma = s.dma :=
  changeRun_within ⟨rfl⟩ (Within.refl [.parts] _) .dma (by decide)
@[simp] theorem changeRun_dram : (changeRun p id f s).dram = s.dram :=
  changeRun_within ⟨rfl⟩ (Within.refl [.parts] _) .dram (by decide)
@[simp] theorem changeRun_clk : (changeRun p id f s).clk = s.clk :=
  changeRun_within ⟨rfl⟩ (Within.refl [.parts] _) .clk (by decide)
@[simp] theorem changeRun_host : (changeRun p id f s).host = s.host :=
  changeRun_within ⟨rfl⟩ (Within.refl [.parts] _) .host (by decide)
@[simp] theorem changeRun_pho : (changeRun p id f s).pho = s.pho :=
  changeRun_within ⟨rfl⟩ (Within.refl [.parts] _) .pho (by decide)
@[simp] theorem changeRun_sums : (changeRun p id f s).sums = s.sums :=
  changeRun_within ⟨rfl⟩ (Within.refl [.parts] _) .sums (by decide)
@[simp] theorem changeRun_lanes : (changeRun p id f s).lanes = s.lanes :=
  changeRun_within ⟨rfl⟩ (Within.refl [.parts] _) .lanes (by decide)
@[simp] theorem changeRun_las : (changeRun p id f s).las = s.las :=
  changeRun_within ⟨rfl⟩ (Within.refl [.parts] _) .las (by decide)
@[simp] theorem changeRun_ver : (changeRun p id f s).ver = s.ver :=
  changeRun_within ⟨rfl⟩ (Within.refl [.parts] _) .ver (by decide)
@[simp] theorem changeRun_fab : (changeRun p id f s).fab = s.fab :=
  changeRun_within ⟨rfl⟩ (Within.refl [.parts] _) .fab (by decide)
@[simp] theorem changeRun_pow : (changeRun p id f s).pow = s.pow :=
  changeRun_within ⟨rfl⟩ (Within.refl [.parts] _) .pow (by decide)
@[simp] theorem changeRun_sec : (changeRun p id f s).sec = s.sec :=
  changeRun_within ⟨rfl⟩ (Within.refl [.parts] _) .sec (by decide)
@[simp] theorem changeRun_twin : (changeRun p id f s).twin = s.twin :=
  changeRun_within ⟨rfl⟩ (Within.refl [.parts] _) .twin (by decide)
@[simp] theorem changeRun_pending : (changeRun p id f s).pending = s.pending :=
  changeRun_within ⟨rfl⟩ (Within.refl [.parts] _) .queue (by decide)
@[simp] theorem changeRun_hen : (changeRun p id f s).hen = s.hen :=
  Within.hen_eq (changeRun_within ⟨rfl⟩ (Within.refl [.parts] _)) (by decide) (by decide)

end

section
variable {p : Nat} {id : BitVec 32} {i : Nat} {f : Task → Task} {s : State}

@[simp] theorem changeTask_now : (changeTask p id i f s).now = s.now :=
  changeTask_within ⟨rfl⟩ (Within.refl [.parts] _) .now (by decide)
@[simp] theorem changeTask_freeDrawn : (changeTask p id i f s).freeDrawn = s.freeDrawn :=
  changeTask_within ⟨rfl⟩ (Within.refl [.parts] _) .free (by decide)
@[simp] theorem changeTask_counters : (changeTask p id i f s).counters = s.counters :=
  changeTask_within ⟨rfl⟩ (Within.refl [.parts] _) .counters (by decide)
@[simp] theorem changeTask_dict : (changeTask p id i f s).dict = s.dict :=
  changeTask_within ⟨rfl⟩ (Within.refl [.parts] _) .dict (by decide)
@[simp] theorem changeTask_om : (changeTask p id i f s).om = s.om :=
  changeTask_within ⟨rfl⟩ (Within.refl [.parts] _) .om (by decide)
@[simp] theorem changeTask_frame : (changeTask p id i f s).frame = s.frame :=
  changeTask_within ⟨rfl⟩ (Within.refl [.parts] _) .frame (by decide)
@[simp] theorem changeTask_start : (changeTask p id i f s).start = s.start :=
  changeTask_within ⟨rfl⟩ (Within.refl [.parts] _) .start (by decide)
@[simp] theorem changeTask_spad : (changeTask p id i f s).spad = s.spad :=
  changeTask_within ⟨rfl⟩ (Within.refl [.parts] _) .spad (by decide)
@[simp] theorem changeTask_arith : (changeTask p id i f s).arith = s.arith :=
  changeTask_within ⟨rfl⟩ (Within.refl [.parts] _) .arith (by decide)
@[simp] theorem changeTask_dma : (changeTask p id i f s).dma = s.dma :=
  changeTask_within ⟨rfl⟩ (Within.refl [.parts] _) .dma (by decide)
@[simp] theorem changeTask_dram : (changeTask p id i f s).dram = s.dram :=
  changeTask_within ⟨rfl⟩ (Within.refl [.parts] _) .dram (by decide)
@[simp] theorem changeTask_clk : (changeTask p id i f s).clk = s.clk :=
  changeTask_within ⟨rfl⟩ (Within.refl [.parts] _) .clk (by decide)
@[simp] theorem changeTask_host : (changeTask p id i f s).host = s.host :=
  changeTask_within ⟨rfl⟩ (Within.refl [.parts] _) .host (by decide)
@[simp] theorem changeTask_pho : (changeTask p id i f s).pho = s.pho :=
  changeTask_within ⟨rfl⟩ (Within.refl [.parts] _) .pho (by decide)
@[simp] theorem changeTask_sums : (changeTask p id i f s).sums = s.sums :=
  changeTask_within ⟨rfl⟩ (Within.refl [.parts] _) .sums (by decide)
@[simp] theorem changeTask_lanes : (changeTask p id i f s).lanes = s.lanes :=
  changeTask_within ⟨rfl⟩ (Within.refl [.parts] _) .lanes (by decide)
@[simp] theorem changeTask_las : (changeTask p id i f s).las = s.las :=
  changeTask_within ⟨rfl⟩ (Within.refl [.parts] _) .las (by decide)
@[simp] theorem changeTask_ver : (changeTask p id i f s).ver = s.ver :=
  changeTask_within ⟨rfl⟩ (Within.refl [.parts] _) .ver (by decide)
@[simp] theorem changeTask_fab : (changeTask p id i f s).fab = s.fab :=
  changeTask_within ⟨rfl⟩ (Within.refl [.parts] _) .fab (by decide)
@[simp] theorem changeTask_pow : (changeTask p id i f s).pow = s.pow :=
  changeTask_within ⟨rfl⟩ (Within.refl [.parts] _) .pow (by decide)
@[simp] theorem changeTask_sec : (changeTask p id i f s).sec = s.sec :=
  changeTask_within ⟨rfl⟩ (Within.refl [.parts] _) .sec (by decide)
@[simp] theorem changeTask_twin : (changeTask p id i f s).twin = s.twin :=
  changeTask_within ⟨rfl⟩ (Within.refl [.parts] _) .twin (by decide)
@[simp] theorem changeTask_pending : (changeTask p id i f s).pending = s.pending :=
  changeTask_within ⟨rfl⟩ (Within.refl [.parts] _) .queue (by decide)
@[simp] theorem changeTask_hen : (changeTask p id i f s).hen = s.hen :=
  Within.hen_eq (changeTask_within ⟨rfl⟩ (Within.refl [.parts] _)) (by decide) (by decide)

end

section
variable {t : Nat} {s : State}

@[simp] theorem advanceTo_freeDrawn : (advanceTo t s).freeDrawn = s.freeDrawn :=
  advanceTo_within ⟨rfl⟩ (Within.refl [.now] _) .free (by decide)
@[simp] theorem advanceTo_counters : (advanceTo t s).counters = s.counters :=
  advanceTo_within ⟨rfl⟩ (Within.refl [.now] _) .counters (by decide)
@[simp] theorem advanceTo_dict : (advanceTo t s).dict = s.dict :=
  advanceTo_within ⟨rfl⟩ (Within.refl [.now] _) .dict (by decide)
@[simp] theorem advanceTo_om : (advanceTo t s).om = s.om :=
  advanceTo_within ⟨rfl⟩ (Within.refl [.now] _) .om (by decide)
@[simp] theorem advanceTo_frame : (advanceTo t s).frame = s.frame :=
  advanceTo_within ⟨rfl⟩ (Within.refl [.now] _) .frame (by decide)
@[simp] theorem advanceTo_start : (advanceTo t s).start = s.start :=
  advanceTo_within ⟨rfl⟩ (Within.refl [.now] _) .start (by decide)
@[simp] theorem advanceTo_spad : (advanceTo t s).spad = s.spad :=
  advanceTo_within ⟨rfl⟩ (Within.refl [.now] _) .spad (by decide)
@[simp] theorem advanceTo_arith : (advanceTo t s).arith = s.arith :=
  advanceTo_within ⟨rfl⟩ (Within.refl [.now] _) .arith (by decide)
@[simp] theorem advanceTo_parts : (advanceTo t s).parts = s.parts :=
  advanceTo_within ⟨rfl⟩ (Within.refl [.now] _) .parts (by decide)
@[simp] theorem advanceTo_dma : (advanceTo t s).dma = s.dma :=
  advanceTo_within ⟨rfl⟩ (Within.refl [.now] _) .dma (by decide)
@[simp] theorem advanceTo_dram : (advanceTo t s).dram = s.dram :=
  advanceTo_within ⟨rfl⟩ (Within.refl [.now] _) .dram (by decide)
@[simp] theorem advanceTo_clk : (advanceTo t s).clk = s.clk :=
  advanceTo_within ⟨rfl⟩ (Within.refl [.now] _) .clk (by decide)
@[simp] theorem advanceTo_host : (advanceTo t s).host = s.host :=
  advanceTo_within ⟨rfl⟩ (Within.refl [.now] _) .host (by decide)
@[simp] theorem advanceTo_pho : (advanceTo t s).pho = s.pho :=
  advanceTo_within ⟨rfl⟩ (Within.refl [.now] _) .pho (by decide)
@[simp] theorem advanceTo_sums : (advanceTo t s).sums = s.sums :=
  advanceTo_within ⟨rfl⟩ (Within.refl [.now] _) .sums (by decide)
@[simp] theorem advanceTo_lanes : (advanceTo t s).lanes = s.lanes :=
  advanceTo_within ⟨rfl⟩ (Within.refl [.now] _) .lanes (by decide)
@[simp] theorem advanceTo_las : (advanceTo t s).las = s.las :=
  advanceTo_within ⟨rfl⟩ (Within.refl [.now] _) .las (by decide)
@[simp] theorem advanceTo_ver : (advanceTo t s).ver = s.ver :=
  advanceTo_within ⟨rfl⟩ (Within.refl [.now] _) .ver (by decide)
@[simp] theorem advanceTo_fab : (advanceTo t s).fab = s.fab :=
  advanceTo_within ⟨rfl⟩ (Within.refl [.now] _) .fab (by decide)
@[simp] theorem advanceTo_pow : (advanceTo t s).pow = s.pow :=
  advanceTo_within ⟨rfl⟩ (Within.refl [.now] _) .pow (by decide)
@[simp] theorem advanceTo_sec : (advanceTo t s).sec = s.sec :=
  advanceTo_within ⟨rfl⟩ (Within.refl [.now] _) .sec (by decide)
@[simp] theorem advanceTo_twin : (advanceTo t s).twin = s.twin :=
  advanceTo_within ⟨rfl⟩ (Within.refl [.now] _) .twin (by decide)
@[simp] theorem advanceTo_pending : (advanceTo t s).pending = s.pending :=
  advanceTo_within ⟨rfl⟩ (Within.refl [.now] _) .queue (by decide)
@[simp] theorem advanceTo_hen : (advanceTo t s).hen = s.hen :=
  Within.hen_eq (advanceTo_within ⟨rfl⟩ (Within.refl [.now] _)) (by decide) (by decide)

end

section
variable {s : State}

@[simp] theorem decideStep_now : (decideStep s).now = s.now :=
  decideStep_within ⟨rfl⟩ (Within.refl [.clk] _) .now (by decide)
@[simp] theorem decideStep_freeDrawn : (decideStep s).freeDrawn = s.freeDrawn :=
  decideStep_within ⟨rfl⟩ (Within.refl [.clk] _) .free (by decide)
@[simp] theorem decideStep_counters : (decideStep s).counters = s.counters :=
  decideStep_within ⟨rfl⟩ (Within.refl [.clk] _) .counters (by decide)
@[simp] theorem decideStep_dict : (decideStep s).dict = s.dict :=
  decideStep_within ⟨rfl⟩ (Within.refl [.clk] _) .dict (by decide)
@[simp] theorem decideStep_om : (decideStep s).om = s.om :=
  decideStep_within ⟨rfl⟩ (Within.refl [.clk] _) .om (by decide)
@[simp] theorem decideStep_frame : (decideStep s).frame = s.frame :=
  decideStep_within ⟨rfl⟩ (Within.refl [.clk] _) .frame (by decide)
@[simp] theorem decideStep_start : (decideStep s).start = s.start :=
  decideStep_within ⟨rfl⟩ (Within.refl [.clk] _) .start (by decide)
@[simp] theorem decideStep_spad : (decideStep s).spad = s.spad :=
  decideStep_within ⟨rfl⟩ (Within.refl [.clk] _) .spad (by decide)
@[simp] theorem decideStep_arith : (decideStep s).arith = s.arith :=
  decideStep_within ⟨rfl⟩ (Within.refl [.clk] _) .arith (by decide)
@[simp] theorem decideStep_parts : (decideStep s).parts = s.parts :=
  decideStep_within ⟨rfl⟩ (Within.refl [.clk] _) .parts (by decide)
@[simp] theorem decideStep_dma : (decideStep s).dma = s.dma :=
  decideStep_within ⟨rfl⟩ (Within.refl [.clk] _) .dma (by decide)
@[simp] theorem decideStep_dram : (decideStep s).dram = s.dram :=
  decideStep_within ⟨rfl⟩ (Within.refl [.clk] _) .dram (by decide)
@[simp] theorem decideStep_host : (decideStep s).host = s.host :=
  decideStep_within ⟨rfl⟩ (Within.refl [.clk] _) .host (by decide)
@[simp] theorem decideStep_pho : (decideStep s).pho = s.pho :=
  decideStep_within ⟨rfl⟩ (Within.refl [.clk] _) .pho (by decide)
@[simp] theorem decideStep_sums : (decideStep s).sums = s.sums :=
  decideStep_within ⟨rfl⟩ (Within.refl [.clk] _) .sums (by decide)
@[simp] theorem decideStep_lanes : (decideStep s).lanes = s.lanes :=
  decideStep_within ⟨rfl⟩ (Within.refl [.clk] _) .lanes (by decide)
@[simp] theorem decideStep_las : (decideStep s).las = s.las :=
  decideStep_within ⟨rfl⟩ (Within.refl [.clk] _) .las (by decide)
@[simp] theorem decideStep_ver : (decideStep s).ver = s.ver :=
  decideStep_within ⟨rfl⟩ (Within.refl [.clk] _) .ver (by decide)
@[simp] theorem decideStep_fab : (decideStep s).fab = s.fab :=
  decideStep_within ⟨rfl⟩ (Within.refl [.clk] _) .fab (by decide)
@[simp] theorem decideStep_pow : (decideStep s).pow = s.pow :=
  decideStep_within ⟨rfl⟩ (Within.refl [.clk] _) .pow (by decide)
@[simp] theorem decideStep_sec : (decideStep s).sec = s.sec :=
  decideStep_within ⟨rfl⟩ (Within.refl [.clk] _) .sec (by decide)
@[simp] theorem decideStep_twin : (decideStep s).twin = s.twin :=
  decideStep_within ⟨rfl⟩ (Within.refl [.clk] _) .twin (by decide)
@[simp] theorem decideStep_pending : (decideStep s).pending = s.pending :=
  decideStep_within ⟨rfl⟩ (Within.refl [.clk] _) .queue (by decide)
@[simp] theorem decideStep_hen : (decideStep s).hen = s.hen :=
  Within.hen_eq (decideStep_within ⟨rfl⟩ (Within.refl [.clk] _)) (by decide) (by decide)

end

section
variable {id : RequestId} {data : Bytes} {s : State}

@[simp] theorem okReply_now : (okReply id data s).now = s.now :=
  okReply_within ⟨rfl⟩ (Within.refl [.om] _) .now (by decide)
@[simp] theorem okReply_freeDrawn : (okReply id data s).freeDrawn = s.freeDrawn :=
  okReply_within ⟨rfl⟩ (Within.refl [.om] _) .free (by decide)
@[simp] theorem okReply_counters : (okReply id data s).counters = s.counters :=
  okReply_within ⟨rfl⟩ (Within.refl [.om] _) .counters (by decide)
@[simp] theorem okReply_dict : (okReply id data s).dict = s.dict :=
  okReply_within ⟨rfl⟩ (Within.refl [.om] _) .dict (by decide)
@[simp] theorem okReply_frame : (okReply id data s).frame = s.frame :=
  okReply_within ⟨rfl⟩ (Within.refl [.om] _) .frame (by decide)
@[simp] theorem okReply_start : (okReply id data s).start = s.start :=
  okReply_within ⟨rfl⟩ (Within.refl [.om] _) .start (by decide)
@[simp] theorem okReply_spad : (okReply id data s).spad = s.spad :=
  okReply_within ⟨rfl⟩ (Within.refl [.om] _) .spad (by decide)
@[simp] theorem okReply_arith : (okReply id data s).arith = s.arith :=
  okReply_within ⟨rfl⟩ (Within.refl [.om] _) .arith (by decide)
@[simp] theorem okReply_parts : (okReply id data s).parts = s.parts :=
  okReply_within ⟨rfl⟩ (Within.refl [.om] _) .parts (by decide)
@[simp] theorem okReply_dma : (okReply id data s).dma = s.dma :=
  okReply_within ⟨rfl⟩ (Within.refl [.om] _) .dma (by decide)
@[simp] theorem okReply_dram : (okReply id data s).dram = s.dram :=
  okReply_within ⟨rfl⟩ (Within.refl [.om] _) .dram (by decide)
@[simp] theorem okReply_clk : (okReply id data s).clk = s.clk :=
  okReply_within ⟨rfl⟩ (Within.refl [.om] _) .clk (by decide)
@[simp] theorem okReply_host : (okReply id data s).host = s.host :=
  okReply_within ⟨rfl⟩ (Within.refl [.om] _) .host (by decide)
@[simp] theorem okReply_pho : (okReply id data s).pho = s.pho :=
  okReply_within ⟨rfl⟩ (Within.refl [.om] _) .pho (by decide)
@[simp] theorem okReply_sums : (okReply id data s).sums = s.sums :=
  okReply_within ⟨rfl⟩ (Within.refl [.om] _) .sums (by decide)
@[simp] theorem okReply_lanes : (okReply id data s).lanes = s.lanes :=
  okReply_within ⟨rfl⟩ (Within.refl [.om] _) .lanes (by decide)
@[simp] theorem okReply_las : (okReply id data s).las = s.las :=
  okReply_within ⟨rfl⟩ (Within.refl [.om] _) .las (by decide)
@[simp] theorem okReply_ver : (okReply id data s).ver = s.ver :=
  okReply_within ⟨rfl⟩ (Within.refl [.om] _) .ver (by decide)
@[simp] theorem okReply_fab : (okReply id data s).fab = s.fab :=
  okReply_within ⟨rfl⟩ (Within.refl [.om] _) .fab (by decide)
@[simp] theorem okReply_pow : (okReply id data s).pow = s.pow :=
  okReply_within ⟨rfl⟩ (Within.refl [.om] _) .pow (by decide)
@[simp] theorem okReply_sec : (okReply id data s).sec = s.sec :=
  okReply_within ⟨rfl⟩ (Within.refl [.om] _) .sec (by decide)
@[simp] theorem okReply_twin : (okReply id data s).twin = s.twin :=
  okReply_within ⟨rfl⟩ (Within.refl [.om] _) .twin (by decide)
@[simp] theorem okReply_pending : (okReply id data s).pending = s.pending :=
  okReply_within ⟨rfl⟩ (Within.refl [.om] _) .queue (by decide)
@[simp] theorem okReply_hen : (okReply id data s).hen = s.hen :=
  Within.hen_eq (okReply_within ⟨rfl⟩ (Within.refl [.om] _)) (by decide) (by decide)

end

section
variable {key : Nat} {note : Nat} {status : BitVec 8} {detail : Nat} {s : State}

@[simp] theorem answerWaiting_now : (answerWaiting key note status detail s).now = s.now :=
  answerWaiting_within ⟨rfl⟩ (Within.refl [.om] _) .now (by decide)
@[simp] theorem answerWaiting_freeDrawn : (answerWaiting key note status detail s).freeDrawn = s.freeDrawn :=
  answerWaiting_within ⟨rfl⟩ (Within.refl [.om] _) .free (by decide)
@[simp] theorem answerWaiting_counters : (answerWaiting key note status detail s).counters = s.counters :=
  answerWaiting_within ⟨rfl⟩ (Within.refl [.om] _) .counters (by decide)
@[simp] theorem answerWaiting_dict : (answerWaiting key note status detail s).dict = s.dict :=
  answerWaiting_within ⟨rfl⟩ (Within.refl [.om] _) .dict (by decide)
@[simp] theorem answerWaiting_frame : (answerWaiting key note status detail s).frame = s.frame :=
  answerWaiting_within ⟨rfl⟩ (Within.refl [.om] _) .frame (by decide)
@[simp] theorem answerWaiting_start : (answerWaiting key note status detail s).start = s.start :=
  answerWaiting_within ⟨rfl⟩ (Within.refl [.om] _) .start (by decide)
@[simp] theorem answerWaiting_spad : (answerWaiting key note status detail s).spad = s.spad :=
  answerWaiting_within ⟨rfl⟩ (Within.refl [.om] _) .spad (by decide)
@[simp] theorem answerWaiting_arith : (answerWaiting key note status detail s).arith = s.arith :=
  answerWaiting_within ⟨rfl⟩ (Within.refl [.om] _) .arith (by decide)
@[simp] theorem answerWaiting_parts : (answerWaiting key note status detail s).parts = s.parts :=
  answerWaiting_within ⟨rfl⟩ (Within.refl [.om] _) .parts (by decide)
@[simp] theorem answerWaiting_dma : (answerWaiting key note status detail s).dma = s.dma :=
  answerWaiting_within ⟨rfl⟩ (Within.refl [.om] _) .dma (by decide)
@[simp] theorem answerWaiting_dram : (answerWaiting key note status detail s).dram = s.dram :=
  answerWaiting_within ⟨rfl⟩ (Within.refl [.om] _) .dram (by decide)
@[simp] theorem answerWaiting_clk : (answerWaiting key note status detail s).clk = s.clk :=
  answerWaiting_within ⟨rfl⟩ (Within.refl [.om] _) .clk (by decide)
@[simp] theorem answerWaiting_host : (answerWaiting key note status detail s).host = s.host :=
  answerWaiting_within ⟨rfl⟩ (Within.refl [.om] _) .host (by decide)
@[simp] theorem answerWaiting_pho : (answerWaiting key note status detail s).pho = s.pho :=
  answerWaiting_within ⟨rfl⟩ (Within.refl [.om] _) .pho (by decide)
@[simp] theorem answerWaiting_sums : (answerWaiting key note status detail s).sums = s.sums :=
  answerWaiting_within ⟨rfl⟩ (Within.refl [.om] _) .sums (by decide)
@[simp] theorem answerWaiting_lanes : (answerWaiting key note status detail s).lanes = s.lanes :=
  answerWaiting_within ⟨rfl⟩ (Within.refl [.om] _) .lanes (by decide)
@[simp] theorem answerWaiting_las : (answerWaiting key note status detail s).las = s.las :=
  answerWaiting_within ⟨rfl⟩ (Within.refl [.om] _) .las (by decide)
@[simp] theorem answerWaiting_ver : (answerWaiting key note status detail s).ver = s.ver :=
  answerWaiting_within ⟨rfl⟩ (Within.refl [.om] _) .ver (by decide)
@[simp] theorem answerWaiting_fab : (answerWaiting key note status detail s).fab = s.fab :=
  answerWaiting_within ⟨rfl⟩ (Within.refl [.om] _) .fab (by decide)
@[simp] theorem answerWaiting_pow : (answerWaiting key note status detail s).pow = s.pow :=
  answerWaiting_within ⟨rfl⟩ (Within.refl [.om] _) .pow (by decide)
@[simp] theorem answerWaiting_sec : (answerWaiting key note status detail s).sec = s.sec :=
  answerWaiting_within ⟨rfl⟩ (Within.refl [.om] _) .sec (by decide)
@[simp] theorem answerWaiting_twin : (answerWaiting key note status detail s).twin = s.twin :=
  answerWaiting_within ⟨rfl⟩ (Within.refl [.om] _) .twin (by decide)
@[simp] theorem answerWaiting_pending : (answerWaiting key note status detail s).pending = s.pending :=
  answerWaiting_within ⟨rfl⟩ (Within.refl [.om] _) .queue (by decide)
@[simp] theorem answerWaiting_hen : (answerWaiting key note status detail s).hen = s.hen :=
  Within.hen_eq (answerWaiting_within ⟨rfl⟩ (Within.refl [.om] _)) (by decide) (by decide)

end

section
variable {key : Nat} {v : Bytes} {s : State}

@[simp] theorem setDict_now : (setDict key v s).now = s.now :=
  setDict_within ⟨rfl⟩ (Within.refl [.dict, .sec] _) .now (by decide)
@[simp] theorem setDict_freeDrawn : (setDict key v s).freeDrawn = s.freeDrawn :=
  setDict_within ⟨rfl⟩ (Within.refl [.dict, .sec] _) .free (by decide)
@[simp] theorem setDict_counters : (setDict key v s).counters = s.counters :=
  setDict_within ⟨rfl⟩ (Within.refl [.dict, .sec] _) .counters (by decide)
@[simp] theorem setDict_om : (setDict key v s).om = s.om :=
  setDict_within ⟨rfl⟩ (Within.refl [.dict, .sec] _) .om (by decide)
@[simp] theorem setDict_frame : (setDict key v s).frame = s.frame :=
  setDict_within ⟨rfl⟩ (Within.refl [.dict, .sec] _) .frame (by decide)
@[simp] theorem setDict_start : (setDict key v s).start = s.start :=
  setDict_within ⟨rfl⟩ (Within.refl [.dict, .sec] _) .start (by decide)
@[simp] theorem setDict_spad : (setDict key v s).spad = s.spad :=
  setDict_within ⟨rfl⟩ (Within.refl [.dict, .sec] _) .spad (by decide)
@[simp] theorem setDict_arith : (setDict key v s).arith = s.arith :=
  setDict_within ⟨rfl⟩ (Within.refl [.dict, .sec] _) .arith (by decide)
@[simp] theorem setDict_parts : (setDict key v s).parts = s.parts :=
  setDict_within ⟨rfl⟩ (Within.refl [.dict, .sec] _) .parts (by decide)
@[simp] theorem setDict_dma : (setDict key v s).dma = s.dma :=
  setDict_within ⟨rfl⟩ (Within.refl [.dict, .sec] _) .dma (by decide)
@[simp] theorem setDict_dram : (setDict key v s).dram = s.dram :=
  setDict_within ⟨rfl⟩ (Within.refl [.dict, .sec] _) .dram (by decide)
@[simp] theorem setDict_clk : (setDict key v s).clk = s.clk :=
  setDict_within ⟨rfl⟩ (Within.refl [.dict, .sec] _) .clk (by decide)
@[simp] theorem setDict_host : (setDict key v s).host = s.host :=
  setDict_within ⟨rfl⟩ (Within.refl [.dict, .sec] _) .host (by decide)
@[simp] theorem setDict_pho : (setDict key v s).pho = s.pho :=
  setDict_within ⟨rfl⟩ (Within.refl [.dict, .sec] _) .pho (by decide)
@[simp] theorem setDict_sums : (setDict key v s).sums = s.sums :=
  setDict_within ⟨rfl⟩ (Within.refl [.dict, .sec] _) .sums (by decide)
@[simp] theorem setDict_lanes : (setDict key v s).lanes = s.lanes :=
  setDict_within ⟨rfl⟩ (Within.refl [.dict, .sec] _) .lanes (by decide)
@[simp] theorem setDict_las : (setDict key v s).las = s.las :=
  setDict_within ⟨rfl⟩ (Within.refl [.dict, .sec] _) .las (by decide)
@[simp] theorem setDict_ver : (setDict key v s).ver = s.ver :=
  setDict_within ⟨rfl⟩ (Within.refl [.dict, .sec] _) .ver (by decide)
@[simp] theorem setDict_fab : (setDict key v s).fab = s.fab :=
  setDict_within ⟨rfl⟩ (Within.refl [.dict, .sec] _) .fab (by decide)
@[simp] theorem setDict_pow : (setDict key v s).pow = s.pow :=
  setDict_within ⟨rfl⟩ (Within.refl [.dict, .sec] _) .pow (by decide)
@[simp] theorem setDict_twin : (setDict key v s).twin = s.twin :=
  setDict_within ⟨rfl⟩ (Within.refl [.dict, .sec] _) .twin (by decide)
@[simp] theorem setDict_pending : (setDict key v s).pending = s.pending :=
  setDict_within ⟨rfl⟩ (Within.refl [.dict, .sec] _) .queue (by decide)
@[simp] theorem setDict_hen : (setDict key v s).hen = s.hen :=
  Within.hen_eq (setDict_within ⟨rfl⟩ (Within.refl [.dict, .sec] _)) (by decide) (by decide)

end

section
variable {key : Nat} {n : Nat} {v : Nat} {s : State}

@[simp] theorem setDictNat_now : (setDictNat key n v s).now = s.now :=
  setDictNat_within ⟨rfl⟩ (Within.refl [.dict, .sec] _) .now (by decide)
@[simp] theorem setDictNat_freeDrawn : (setDictNat key n v s).freeDrawn = s.freeDrawn :=
  setDictNat_within ⟨rfl⟩ (Within.refl [.dict, .sec] _) .free (by decide)
@[simp] theorem setDictNat_counters : (setDictNat key n v s).counters = s.counters :=
  setDictNat_within ⟨rfl⟩ (Within.refl [.dict, .sec] _) .counters (by decide)
@[simp] theorem setDictNat_om : (setDictNat key n v s).om = s.om :=
  setDictNat_within ⟨rfl⟩ (Within.refl [.dict, .sec] _) .om (by decide)
@[simp] theorem setDictNat_frame : (setDictNat key n v s).frame = s.frame :=
  setDictNat_within ⟨rfl⟩ (Within.refl [.dict, .sec] _) .frame (by decide)
@[simp] theorem setDictNat_start : (setDictNat key n v s).start = s.start :=
  setDictNat_within ⟨rfl⟩ (Within.refl [.dict, .sec] _) .start (by decide)
@[simp] theorem setDictNat_spad : (setDictNat key n v s).spad = s.spad :=
  setDictNat_within ⟨rfl⟩ (Within.refl [.dict, .sec] _) .spad (by decide)
@[simp] theorem setDictNat_arith : (setDictNat key n v s).arith = s.arith :=
  setDictNat_within ⟨rfl⟩ (Within.refl [.dict, .sec] _) .arith (by decide)
@[simp] theorem setDictNat_parts : (setDictNat key n v s).parts = s.parts :=
  setDictNat_within ⟨rfl⟩ (Within.refl [.dict, .sec] _) .parts (by decide)
@[simp] theorem setDictNat_dma : (setDictNat key n v s).dma = s.dma :=
  setDictNat_within ⟨rfl⟩ (Within.refl [.dict, .sec] _) .dma (by decide)
@[simp] theorem setDictNat_dram : (setDictNat key n v s).dram = s.dram :=
  setDictNat_within ⟨rfl⟩ (Within.refl [.dict, .sec] _) .dram (by decide)
@[simp] theorem setDictNat_clk : (setDictNat key n v s).clk = s.clk :=
  setDictNat_within ⟨rfl⟩ (Within.refl [.dict, .sec] _) .clk (by decide)
@[simp] theorem setDictNat_host : (setDictNat key n v s).host = s.host :=
  setDictNat_within ⟨rfl⟩ (Within.refl [.dict, .sec] _) .host (by decide)
@[simp] theorem setDictNat_pho : (setDictNat key n v s).pho = s.pho :=
  setDictNat_within ⟨rfl⟩ (Within.refl [.dict, .sec] _) .pho (by decide)
@[simp] theorem setDictNat_sums : (setDictNat key n v s).sums = s.sums :=
  setDictNat_within ⟨rfl⟩ (Within.refl [.dict, .sec] _) .sums (by decide)
@[simp] theorem setDictNat_lanes : (setDictNat key n v s).lanes = s.lanes :=
  setDictNat_within ⟨rfl⟩ (Within.refl [.dict, .sec] _) .lanes (by decide)
@[simp] theorem setDictNat_las : (setDictNat key n v s).las = s.las :=
  setDictNat_within ⟨rfl⟩ (Within.refl [.dict, .sec] _) .las (by decide)
@[simp] theorem setDictNat_ver : (setDictNat key n v s).ver = s.ver :=
  setDictNat_within ⟨rfl⟩ (Within.refl [.dict, .sec] _) .ver (by decide)
@[simp] theorem setDictNat_fab : (setDictNat key n v s).fab = s.fab :=
  setDictNat_within ⟨rfl⟩ (Within.refl [.dict, .sec] _) .fab (by decide)
@[simp] theorem setDictNat_pow : (setDictNat key n v s).pow = s.pow :=
  setDictNat_within ⟨rfl⟩ (Within.refl [.dict, .sec] _) .pow (by decide)
@[simp] theorem setDictNat_twin : (setDictNat key n v s).twin = s.twin :=
  setDictNat_within ⟨rfl⟩ (Within.refl [.dict, .sec] _) .twin (by decide)
@[simp] theorem setDictNat_pending : (setDictNat key n v s).pending = s.pending :=
  setDictNat_within ⟨rfl⟩ (Within.refl [.dict, .sec] _) .queue (by decide)
@[simp] theorem setDictNat_hen : (setDictNat key n v s).hen = s.hen :=
  Within.hen_eq (setDictNat_within ⟨rfl⟩ (Within.refl [.dict, .sec] _)) (by decide) (by decide)

end

section
variable {t : Nat} {f : Receiver → Receiver} {s : State}

@[simp] theorem changeReceiver_now : (changeReceiver t f s).now = s.now :=
  changeReceiver_within ⟨rfl⟩ (Within.refl [.frame] _) .now (by decide)
@[simp] theorem changeReceiver_freeDrawn : (changeReceiver t f s).freeDrawn = s.freeDrawn :=
  changeReceiver_within ⟨rfl⟩ (Within.refl [.frame] _) .free (by decide)
@[simp] theorem changeReceiver_counters : (changeReceiver t f s).counters = s.counters :=
  changeReceiver_within ⟨rfl⟩ (Within.refl [.frame] _) .counters (by decide)
@[simp] theorem changeReceiver_dict : (changeReceiver t f s).dict = s.dict :=
  changeReceiver_within ⟨rfl⟩ (Within.refl [.frame] _) .dict (by decide)
@[simp] theorem changeReceiver_om : (changeReceiver t f s).om = s.om :=
  changeReceiver_within ⟨rfl⟩ (Within.refl [.frame] _) .om (by decide)
@[simp] theorem changeReceiver_start : (changeReceiver t f s).start = s.start :=
  changeReceiver_within ⟨rfl⟩ (Within.refl [.frame] _) .start (by decide)
@[simp] theorem changeReceiver_spad : (changeReceiver t f s).spad = s.spad :=
  changeReceiver_within ⟨rfl⟩ (Within.refl [.frame] _) .spad (by decide)
@[simp] theorem changeReceiver_arith : (changeReceiver t f s).arith = s.arith :=
  changeReceiver_within ⟨rfl⟩ (Within.refl [.frame] _) .arith (by decide)
@[simp] theorem changeReceiver_parts : (changeReceiver t f s).parts = s.parts :=
  changeReceiver_within ⟨rfl⟩ (Within.refl [.frame] _) .parts (by decide)
@[simp] theorem changeReceiver_dma : (changeReceiver t f s).dma = s.dma :=
  changeReceiver_within ⟨rfl⟩ (Within.refl [.frame] _) .dma (by decide)
@[simp] theorem changeReceiver_dram : (changeReceiver t f s).dram = s.dram :=
  changeReceiver_within ⟨rfl⟩ (Within.refl [.frame] _) .dram (by decide)
@[simp] theorem changeReceiver_clk : (changeReceiver t f s).clk = s.clk :=
  changeReceiver_within ⟨rfl⟩ (Within.refl [.frame] _) .clk (by decide)
@[simp] theorem changeReceiver_host : (changeReceiver t f s).host = s.host :=
  changeReceiver_within ⟨rfl⟩ (Within.refl [.frame] _) .host (by decide)
@[simp] theorem changeReceiver_pho : (changeReceiver t f s).pho = s.pho :=
  changeReceiver_within ⟨rfl⟩ (Within.refl [.frame] _) .pho (by decide)
@[simp] theorem changeReceiver_sums : (changeReceiver t f s).sums = s.sums :=
  changeReceiver_within ⟨rfl⟩ (Within.refl [.frame] _) .sums (by decide)
@[simp] theorem changeReceiver_lanes : (changeReceiver t f s).lanes = s.lanes :=
  changeReceiver_within ⟨rfl⟩ (Within.refl [.frame] _) .lanes (by decide)
@[simp] theorem changeReceiver_las : (changeReceiver t f s).las = s.las :=
  changeReceiver_within ⟨rfl⟩ (Within.refl [.frame] _) .las (by decide)
@[simp] theorem changeReceiver_ver : (changeReceiver t f s).ver = s.ver :=
  changeReceiver_within ⟨rfl⟩ (Within.refl [.frame] _) .ver (by decide)
@[simp] theorem changeReceiver_fab : (changeReceiver t f s).fab = s.fab :=
  changeReceiver_within ⟨rfl⟩ (Within.refl [.frame] _) .fab (by decide)
@[simp] theorem changeReceiver_pow : (changeReceiver t f s).pow = s.pow :=
  changeReceiver_within ⟨rfl⟩ (Within.refl [.frame] _) .pow (by decide)
@[simp] theorem changeReceiver_sec : (changeReceiver t f s).sec = s.sec :=
  changeReceiver_within ⟨rfl⟩ (Within.refl [.frame] _) .sec (by decide)
@[simp] theorem changeReceiver_twin : (changeReceiver t f s).twin = s.twin :=
  changeReceiver_within ⟨rfl⟩ (Within.refl [.frame] _) .twin (by decide)
@[simp] theorem changeReceiver_pending : (changeReceiver t f s).pending = s.pending :=
  changeReceiver_within ⟨rfl⟩ (Within.refl [.frame] _) .queue (by decide)
@[simp] theorem changeReceiver_hen : (changeReceiver t f s).hen = s.hen :=
  Within.hen_eq (changeReceiver_within ⟨rfl⟩ (Within.refl [.frame] _)) (by decide) (by decide)

end

section
variable {n : Nat} {f : LinkRec → LinkRec} {s : State}

@[simp] theorem changeLink_now : (changeLink n f s).now = s.now :=
  changeLink_within ⟨rfl⟩ (Within.refl [.lanes] _) .now (by decide)
@[simp] theorem changeLink_freeDrawn : (changeLink n f s).freeDrawn = s.freeDrawn :=
  changeLink_within ⟨rfl⟩ (Within.refl [.lanes] _) .free (by decide)
@[simp] theorem changeLink_counters : (changeLink n f s).counters = s.counters :=
  changeLink_within ⟨rfl⟩ (Within.refl [.lanes] _) .counters (by decide)
@[simp] theorem changeLink_dict : (changeLink n f s).dict = s.dict :=
  changeLink_within ⟨rfl⟩ (Within.refl [.lanes] _) .dict (by decide)
@[simp] theorem changeLink_om : (changeLink n f s).om = s.om :=
  changeLink_within ⟨rfl⟩ (Within.refl [.lanes] _) .om (by decide)
@[simp] theorem changeLink_frame : (changeLink n f s).frame = s.frame :=
  changeLink_within ⟨rfl⟩ (Within.refl [.lanes] _) .frame (by decide)
@[simp] theorem changeLink_start : (changeLink n f s).start = s.start :=
  changeLink_within ⟨rfl⟩ (Within.refl [.lanes] _) .start (by decide)
@[simp] theorem changeLink_spad : (changeLink n f s).spad = s.spad :=
  changeLink_within ⟨rfl⟩ (Within.refl [.lanes] _) .spad (by decide)
@[simp] theorem changeLink_arith : (changeLink n f s).arith = s.arith :=
  changeLink_within ⟨rfl⟩ (Within.refl [.lanes] _) .arith (by decide)
@[simp] theorem changeLink_parts : (changeLink n f s).parts = s.parts :=
  changeLink_within ⟨rfl⟩ (Within.refl [.lanes] _) .parts (by decide)
@[simp] theorem changeLink_dma : (changeLink n f s).dma = s.dma :=
  changeLink_within ⟨rfl⟩ (Within.refl [.lanes] _) .dma (by decide)
@[simp] theorem changeLink_dram : (changeLink n f s).dram = s.dram :=
  changeLink_within ⟨rfl⟩ (Within.refl [.lanes] _) .dram (by decide)
@[simp] theorem changeLink_clk : (changeLink n f s).clk = s.clk :=
  changeLink_within ⟨rfl⟩ (Within.refl [.lanes] _) .clk (by decide)
@[simp] theorem changeLink_host : (changeLink n f s).host = s.host :=
  changeLink_within ⟨rfl⟩ (Within.refl [.lanes] _) .host (by decide)
@[simp] theorem changeLink_pho : (changeLink n f s).pho = s.pho :=
  changeLink_within ⟨rfl⟩ (Within.refl [.lanes] _) .pho (by decide)
@[simp] theorem changeLink_sums : (changeLink n f s).sums = s.sums :=
  changeLink_within ⟨rfl⟩ (Within.refl [.lanes] _) .sums (by decide)
@[simp] theorem changeLink_las : (changeLink n f s).las = s.las :=
  changeLink_within ⟨rfl⟩ (Within.refl [.lanes] _) .las (by decide)
@[simp] theorem changeLink_ver : (changeLink n f s).ver = s.ver :=
  changeLink_within ⟨rfl⟩ (Within.refl [.lanes] _) .ver (by decide)
@[simp] theorem changeLink_fab : (changeLink n f s).fab = s.fab :=
  changeLink_within ⟨rfl⟩ (Within.refl [.lanes] _) .fab (by decide)
@[simp] theorem changeLink_pow : (changeLink n f s).pow = s.pow :=
  changeLink_within ⟨rfl⟩ (Within.refl [.lanes] _) .pow (by decide)
@[simp] theorem changeLink_sec : (changeLink n f s).sec = s.sec :=
  changeLink_within ⟨rfl⟩ (Within.refl [.lanes] _) .sec (by decide)
@[simp] theorem changeLink_twin : (changeLink n f s).twin = s.twin :=
  changeLink_within ⟨rfl⟩ (Within.refl [.lanes] _) .twin (by decide)
@[simp] theorem changeLink_pending : (changeLink n f s).pending = s.pending :=
  changeLink_within ⟨rfl⟩ (Within.refl [.lanes] _) .queue (by decide)
@[simp] theorem changeLink_hen : (changeLink n f s).hen = s.hen :=
  Within.hen_eq (changeLink_within ⟨rfl⟩ (Within.refl [.lanes] _)) (by decide) (by decide)

end

section
variable {c : Bool} {code : Nat} {items : List (Option Bytes)} {s : State}

@[simp] theorem raiseIf_now : (raiseIf c code items s).now = s.now :=
  raiseIf_within ⟨rfl⟩ (Within.refl [.events] _) .now (by decide)
@[simp] theorem raiseIf_freeDrawn : (raiseIf c code items s).freeDrawn = s.freeDrawn :=
  raiseIf_within ⟨rfl⟩ (Within.refl [.events] _) .free (by decide)
@[simp] theorem raiseIf_counters : (raiseIf c code items s).counters = s.counters :=
  raiseIf_within ⟨rfl⟩ (Within.refl [.events] _) .counters (by decide)
@[simp] theorem raiseIf_dict : (raiseIf c code items s).dict = s.dict :=
  raiseIf_within ⟨rfl⟩ (Within.refl [.events] _) .dict (by decide)
@[simp] theorem raiseIf_om : (raiseIf c code items s).om = s.om :=
  raiseIf_within ⟨rfl⟩ (Within.refl [.events] _) .om (by decide)
@[simp] theorem raiseIf_frame : (raiseIf c code items s).frame = s.frame :=
  raiseIf_within ⟨rfl⟩ (Within.refl [.events] _) .frame (by decide)
@[simp] theorem raiseIf_start : (raiseIf c code items s).start = s.start :=
  raiseIf_within ⟨rfl⟩ (Within.refl [.events] _) .start (by decide)
@[simp] theorem raiseIf_spad : (raiseIf c code items s).spad = s.spad :=
  raiseIf_within ⟨rfl⟩ (Within.refl [.events] _) .spad (by decide)
@[simp] theorem raiseIf_arith : (raiseIf c code items s).arith = s.arith :=
  raiseIf_within ⟨rfl⟩ (Within.refl [.events] _) .arith (by decide)
@[simp] theorem raiseIf_parts : (raiseIf c code items s).parts = s.parts :=
  raiseIf_within ⟨rfl⟩ (Within.refl [.events] _) .parts (by decide)
@[simp] theorem raiseIf_dma : (raiseIf c code items s).dma = s.dma :=
  raiseIf_within ⟨rfl⟩ (Within.refl [.events] _) .dma (by decide)
@[simp] theorem raiseIf_dram : (raiseIf c code items s).dram = s.dram :=
  raiseIf_within ⟨rfl⟩ (Within.refl [.events] _) .dram (by decide)
@[simp] theorem raiseIf_clk : (raiseIf c code items s).clk = s.clk :=
  raiseIf_within ⟨rfl⟩ (Within.refl [.events] _) .clk (by decide)
@[simp] theorem raiseIf_host : (raiseIf c code items s).host = s.host :=
  raiseIf_within ⟨rfl⟩ (Within.refl [.events] _) .host (by decide)
@[simp] theorem raiseIf_pho : (raiseIf c code items s).pho = s.pho :=
  raiseIf_within ⟨rfl⟩ (Within.refl [.events] _) .pho (by decide)
@[simp] theorem raiseIf_sums : (raiseIf c code items s).sums = s.sums :=
  raiseIf_within ⟨rfl⟩ (Within.refl [.events] _) .sums (by decide)
@[simp] theorem raiseIf_lanes : (raiseIf c code items s).lanes = s.lanes :=
  raiseIf_within ⟨rfl⟩ (Within.refl [.events] _) .lanes (by decide)
@[simp] theorem raiseIf_las : (raiseIf c code items s).las = s.las :=
  raiseIf_within ⟨rfl⟩ (Within.refl [.events] _) .las (by decide)
@[simp] theorem raiseIf_ver : (raiseIf c code items s).ver = s.ver :=
  raiseIf_within ⟨rfl⟩ (Within.refl [.events] _) .ver (by decide)
@[simp] theorem raiseIf_fab : (raiseIf c code items s).fab = s.fab :=
  raiseIf_within ⟨rfl⟩ (Within.refl [.events] _) .fab (by decide)
@[simp] theorem raiseIf_pow : (raiseIf c code items s).pow = s.pow :=
  raiseIf_within ⟨rfl⟩ (Within.refl [.events] _) .pow (by decide)
@[simp] theorem raiseIf_sec : (raiseIf c code items s).sec = s.sec :=
  raiseIf_within ⟨rfl⟩ (Within.refl [.events] _) .sec (by decide)
@[simp] theorem raiseIf_twin : (raiseIf c code items s).twin = s.twin :=
  raiseIf_within ⟨rfl⟩ (Within.refl [.events] _) .twin (by decide)
@[simp] theorem raiseIf_pending : (raiseIf c code items s).pending = s.pending :=
  raiseIf_within ⟨rfl⟩ (Within.refl [.events] _) .queue (by decide)

end

section
variable {t : Nat} {n : Nat} {f : Bundle → Bundle} {s : State}

@[simp] theorem changeBundle_now : (changeBundle t n f s).now = s.now :=
  changeBundle_within ⟨rfl⟩ (Within.refl [.ver] _) .now (by decide)
@[simp] theorem changeBundle_freeDrawn : (changeBundle t n f s).freeDrawn = s.freeDrawn :=
  changeBundle_within ⟨rfl⟩ (Within.refl [.ver] _) .free (by decide)
@[simp] theorem changeBundle_counters : (changeBundle t n f s).counters = s.counters :=
  changeBundle_within ⟨rfl⟩ (Within.refl [.ver] _) .counters (by decide)
@[simp] theorem changeBundle_dict : (changeBundle t n f s).dict = s.dict :=
  changeBundle_within ⟨rfl⟩ (Within.refl [.ver] _) .dict (by decide)
@[simp] theorem changeBundle_om : (changeBundle t n f s).om = s.om :=
  changeBundle_within ⟨rfl⟩ (Within.refl [.ver] _) .om (by decide)
@[simp] theorem changeBundle_frame : (changeBundle t n f s).frame = s.frame :=
  changeBundle_within ⟨rfl⟩ (Within.refl [.ver] _) .frame (by decide)
@[simp] theorem changeBundle_start : (changeBundle t n f s).start = s.start :=
  changeBundle_within ⟨rfl⟩ (Within.refl [.ver] _) .start (by decide)
@[simp] theorem changeBundle_spad : (changeBundle t n f s).spad = s.spad :=
  changeBundle_within ⟨rfl⟩ (Within.refl [.ver] _) .spad (by decide)
@[simp] theorem changeBundle_arith : (changeBundle t n f s).arith = s.arith :=
  changeBundle_within ⟨rfl⟩ (Within.refl [.ver] _) .arith (by decide)
@[simp] theorem changeBundle_parts : (changeBundle t n f s).parts = s.parts :=
  changeBundle_within ⟨rfl⟩ (Within.refl [.ver] _) .parts (by decide)
@[simp] theorem changeBundle_dma : (changeBundle t n f s).dma = s.dma :=
  changeBundle_within ⟨rfl⟩ (Within.refl [.ver] _) .dma (by decide)
@[simp] theorem changeBundle_dram : (changeBundle t n f s).dram = s.dram :=
  changeBundle_within ⟨rfl⟩ (Within.refl [.ver] _) .dram (by decide)
@[simp] theorem changeBundle_clk : (changeBundle t n f s).clk = s.clk :=
  changeBundle_within ⟨rfl⟩ (Within.refl [.ver] _) .clk (by decide)
@[simp] theorem changeBundle_host : (changeBundle t n f s).host = s.host :=
  changeBundle_within ⟨rfl⟩ (Within.refl [.ver] _) .host (by decide)
@[simp] theorem changeBundle_pho : (changeBundle t n f s).pho = s.pho :=
  changeBundle_within ⟨rfl⟩ (Within.refl [.ver] _) .pho (by decide)
@[simp] theorem changeBundle_sums : (changeBundle t n f s).sums = s.sums :=
  changeBundle_within ⟨rfl⟩ (Within.refl [.ver] _) .sums (by decide)
@[simp] theorem changeBundle_lanes : (changeBundle t n f s).lanes = s.lanes :=
  changeBundle_within ⟨rfl⟩ (Within.refl [.ver] _) .lanes (by decide)
@[simp] theorem changeBundle_las : (changeBundle t n f s).las = s.las :=
  changeBundle_within ⟨rfl⟩ (Within.refl [.ver] _) .las (by decide)
@[simp] theorem changeBundle_fab : (changeBundle t n f s).fab = s.fab :=
  changeBundle_within ⟨rfl⟩ (Within.refl [.ver] _) .fab (by decide)
@[simp] theorem changeBundle_pow : (changeBundle t n f s).pow = s.pow :=
  changeBundle_within ⟨rfl⟩ (Within.refl [.ver] _) .pow (by decide)
@[simp] theorem changeBundle_sec : (changeBundle t n f s).sec = s.sec :=
  changeBundle_within ⟨rfl⟩ (Within.refl [.ver] _) .sec (by decide)
@[simp] theorem changeBundle_twin : (changeBundle t n f s).twin = s.twin :=
  changeBundle_within ⟨rfl⟩ (Within.refl [.ver] _) .twin (by decide)
@[simp] theorem changeBundle_pending : (changeBundle t n f s).pending = s.pending :=
  changeBundle_within ⟨rfl⟩ (Within.refl [.ver] _) .queue (by decide)
@[simp] theorem changeBundle_hen : (changeBundle t n f s).hen = s.hen :=
  Within.hen_eq (changeBundle_within ⟨rfl⟩ (Within.refl [.ver] _)) (by decide) (by decide)

end

section
variable {n : Nat} {f : LinkTx → LinkTx} {s : State}

@[simp] theorem changeTx_now : (changeTx n f s).now = s.now :=
  changeTx_within ⟨rfl⟩ (Within.refl [.lanes] _) .now (by decide)
@[simp] theorem changeTx_freeDrawn : (changeTx n f s).freeDrawn = s.freeDrawn :=
  changeTx_within ⟨rfl⟩ (Within.refl [.lanes] _) .free (by decide)
@[simp] theorem changeTx_counters : (changeTx n f s).counters = s.counters :=
  changeTx_within ⟨rfl⟩ (Within.refl [.lanes] _) .counters (by decide)
@[simp] theorem changeTx_dict : (changeTx n f s).dict = s.dict :=
  changeTx_within ⟨rfl⟩ (Within.refl [.lanes] _) .dict (by decide)
@[simp] theorem changeTx_om : (changeTx n f s).om = s.om :=
  changeTx_within ⟨rfl⟩ (Within.refl [.lanes] _) .om (by decide)
@[simp] theorem changeTx_frame : (changeTx n f s).frame = s.frame :=
  changeTx_within ⟨rfl⟩ (Within.refl [.lanes] _) .frame (by decide)
@[simp] theorem changeTx_start : (changeTx n f s).start = s.start :=
  changeTx_within ⟨rfl⟩ (Within.refl [.lanes] _) .start (by decide)
@[simp] theorem changeTx_spad : (changeTx n f s).spad = s.spad :=
  changeTx_within ⟨rfl⟩ (Within.refl [.lanes] _) .spad (by decide)
@[simp] theorem changeTx_arith : (changeTx n f s).arith = s.arith :=
  changeTx_within ⟨rfl⟩ (Within.refl [.lanes] _) .arith (by decide)
@[simp] theorem changeTx_parts : (changeTx n f s).parts = s.parts :=
  changeTx_within ⟨rfl⟩ (Within.refl [.lanes] _) .parts (by decide)
@[simp] theorem changeTx_dma : (changeTx n f s).dma = s.dma :=
  changeTx_within ⟨rfl⟩ (Within.refl [.lanes] _) .dma (by decide)
@[simp] theorem changeTx_dram : (changeTx n f s).dram = s.dram :=
  changeTx_within ⟨rfl⟩ (Within.refl [.lanes] _) .dram (by decide)
@[simp] theorem changeTx_clk : (changeTx n f s).clk = s.clk :=
  changeTx_within ⟨rfl⟩ (Within.refl [.lanes] _) .clk (by decide)
@[simp] theorem changeTx_host : (changeTx n f s).host = s.host :=
  changeTx_within ⟨rfl⟩ (Within.refl [.lanes] _) .host (by decide)
@[simp] theorem changeTx_pho : (changeTx n f s).pho = s.pho :=
  changeTx_within ⟨rfl⟩ (Within.refl [.lanes] _) .pho (by decide)
@[simp] theorem changeTx_sums : (changeTx n f s).sums = s.sums :=
  changeTx_within ⟨rfl⟩ (Within.refl [.lanes] _) .sums (by decide)
@[simp] theorem changeTx_las : (changeTx n f s).las = s.las :=
  changeTx_within ⟨rfl⟩ (Within.refl [.lanes] _) .las (by decide)
@[simp] theorem changeTx_ver : (changeTx n f s).ver = s.ver :=
  changeTx_within ⟨rfl⟩ (Within.refl [.lanes] _) .ver (by decide)
@[simp] theorem changeTx_fab : (changeTx n f s).fab = s.fab :=
  changeTx_within ⟨rfl⟩ (Within.refl [.lanes] _) .fab (by decide)
@[simp] theorem changeTx_pow : (changeTx n f s).pow = s.pow :=
  changeTx_within ⟨rfl⟩ (Within.refl [.lanes] _) .pow (by decide)
@[simp] theorem changeTx_sec : (changeTx n f s).sec = s.sec :=
  changeTx_within ⟨rfl⟩ (Within.refl [.lanes] _) .sec (by decide)
@[simp] theorem changeTx_twin : (changeTx n f s).twin = s.twin :=
  changeTx_within ⟨rfl⟩ (Within.refl [.lanes] _) .twin (by decide)
@[simp] theorem changeTx_pending : (changeTx n f s).pending = s.pending :=
  changeTx_within ⟨rfl⟩ (Within.refl [.lanes] _) .queue (by decide)
@[simp] theorem changeTx_hen : (changeTx n f s).hen = s.hen :=
  Within.hen_eq (changeTx_within ⟨rfl⟩ (Within.refl [.lanes] _)) (by decide) (by decide)

end

section
variable {kind : PathKind} {key : Nat} {up : Bool} {s : State}

@[simp] theorem changePath_now : (changePath kind key up s).now = s.now :=
  changePath_within ⟨rfl⟩ (Within.refl [.pho] _) .now (by decide)
@[simp] theorem changePath_freeDrawn : (changePath kind key up s).freeDrawn = s.freeDrawn :=
  changePath_within ⟨rfl⟩ (Within.refl [.pho] _) .free (by decide)
@[simp] theorem changePath_counters : (changePath kind key up s).counters = s.counters :=
  changePath_within ⟨rfl⟩ (Within.refl [.pho] _) .counters (by decide)
@[simp] theorem changePath_dict : (changePath kind key up s).dict = s.dict :=
  changePath_within ⟨rfl⟩ (Within.refl [.pho] _) .dict (by decide)
@[simp] theorem changePath_om : (changePath kind key up s).om = s.om :=
  changePath_within ⟨rfl⟩ (Within.refl [.pho] _) .om (by decide)
@[simp] theorem changePath_frame : (changePath kind key up s).frame = s.frame :=
  changePath_within ⟨rfl⟩ (Within.refl [.pho] _) .frame (by decide)
@[simp] theorem changePath_start : (changePath kind key up s).start = s.start :=
  changePath_within ⟨rfl⟩ (Within.refl [.pho] _) .start (by decide)
@[simp] theorem changePath_spad : (changePath kind key up s).spad = s.spad :=
  changePath_within ⟨rfl⟩ (Within.refl [.pho] _) .spad (by decide)
@[simp] theorem changePath_arith : (changePath kind key up s).arith = s.arith :=
  changePath_within ⟨rfl⟩ (Within.refl [.pho] _) .arith (by decide)
@[simp] theorem changePath_parts : (changePath kind key up s).parts = s.parts :=
  changePath_within ⟨rfl⟩ (Within.refl [.pho] _) .parts (by decide)
@[simp] theorem changePath_dma : (changePath kind key up s).dma = s.dma :=
  changePath_within ⟨rfl⟩ (Within.refl [.pho] _) .dma (by decide)
@[simp] theorem changePath_dram : (changePath kind key up s).dram = s.dram :=
  changePath_within ⟨rfl⟩ (Within.refl [.pho] _) .dram (by decide)
@[simp] theorem changePath_clk : (changePath kind key up s).clk = s.clk :=
  changePath_within ⟨rfl⟩ (Within.refl [.pho] _) .clk (by decide)
@[simp] theorem changePath_host : (changePath kind key up s).host = s.host :=
  changePath_within ⟨rfl⟩ (Within.refl [.pho] _) .host (by decide)
@[simp] theorem changePath_sums : (changePath kind key up s).sums = s.sums :=
  changePath_within ⟨rfl⟩ (Within.refl [.pho] _) .sums (by decide)
@[simp] theorem changePath_lanes : (changePath kind key up s).lanes = s.lanes :=
  changePath_within ⟨rfl⟩ (Within.refl [.pho] _) .lanes (by decide)
@[simp] theorem changePath_las : (changePath kind key up s).las = s.las :=
  changePath_within ⟨rfl⟩ (Within.refl [.pho] _) .las (by decide)
@[simp] theorem changePath_ver : (changePath kind key up s).ver = s.ver :=
  changePath_within ⟨rfl⟩ (Within.refl [.pho] _) .ver (by decide)
@[simp] theorem changePath_fab : (changePath kind key up s).fab = s.fab :=
  changePath_within ⟨rfl⟩ (Within.refl [.pho] _) .fab (by decide)
@[simp] theorem changePath_pow : (changePath kind key up s).pow = s.pow :=
  changePath_within ⟨rfl⟩ (Within.refl [.pho] _) .pow (by decide)
@[simp] theorem changePath_sec : (changePath kind key up s).sec = s.sec :=
  changePath_within ⟨rfl⟩ (Within.refl [.pho] _) .sec (by decide)
@[simp] theorem changePath_twin : (changePath kind key up s).twin = s.twin :=
  changePath_within ⟨rfl⟩ (Within.refl [.pho] _) .twin (by decide)
@[simp] theorem changePath_pending : (changePath kind key up s).pending = s.pending :=
  changePath_within ⟨rfl⟩ (Within.refl [.pho] _) .queue (by decide)
@[simp] theorem changePath_hen : (changePath kind key up s).hen = s.hen :=
  Within.hen_eq (changePath_within ⟨rfl⟩ (Within.refl [.pho] _)) (by decide) (by decide)

end

section
variable {n : Nat} {f : LinkRx → LinkRx} {s : State}

@[simp] theorem changeRx_now : (changeRx n f s).now = s.now :=
  changeRx_within ⟨rfl⟩ (Within.refl [.lanes] _) .now (by decide)
@[simp] theorem changeRx_freeDrawn : (changeRx n f s).freeDrawn = s.freeDrawn :=
  changeRx_within ⟨rfl⟩ (Within.refl [.lanes] _) .free (by decide)
@[simp] theorem changeRx_counters : (changeRx n f s).counters = s.counters :=
  changeRx_within ⟨rfl⟩ (Within.refl [.lanes] _) .counters (by decide)
@[simp] theorem changeRx_dict : (changeRx n f s).dict = s.dict :=
  changeRx_within ⟨rfl⟩ (Within.refl [.lanes] _) .dict (by decide)
@[simp] theorem changeRx_om : (changeRx n f s).om = s.om :=
  changeRx_within ⟨rfl⟩ (Within.refl [.lanes] _) .om (by decide)
@[simp] theorem changeRx_frame : (changeRx n f s).frame = s.frame :=
  changeRx_within ⟨rfl⟩ (Within.refl [.lanes] _) .frame (by decide)
@[simp] theorem changeRx_start : (changeRx n f s).start = s.start :=
  changeRx_within ⟨rfl⟩ (Within.refl [.lanes] _) .start (by decide)
@[simp] theorem changeRx_spad : (changeRx n f s).spad = s.spad :=
  changeRx_within ⟨rfl⟩ (Within.refl [.lanes] _) .spad (by decide)
@[simp] theorem changeRx_arith : (changeRx n f s).arith = s.arith :=
  changeRx_within ⟨rfl⟩ (Within.refl [.lanes] _) .arith (by decide)
@[simp] theorem changeRx_parts : (changeRx n f s).parts = s.parts :=
  changeRx_within ⟨rfl⟩ (Within.refl [.lanes] _) .parts (by decide)
@[simp] theorem changeRx_dma : (changeRx n f s).dma = s.dma :=
  changeRx_within ⟨rfl⟩ (Within.refl [.lanes] _) .dma (by decide)
@[simp] theorem changeRx_dram : (changeRx n f s).dram = s.dram :=
  changeRx_within ⟨rfl⟩ (Within.refl [.lanes] _) .dram (by decide)
@[simp] theorem changeRx_clk : (changeRx n f s).clk = s.clk :=
  changeRx_within ⟨rfl⟩ (Within.refl [.lanes] _) .clk (by decide)
@[simp] theorem changeRx_host : (changeRx n f s).host = s.host :=
  changeRx_within ⟨rfl⟩ (Within.refl [.lanes] _) .host (by decide)
@[simp] theorem changeRx_pho : (changeRx n f s).pho = s.pho :=
  changeRx_within ⟨rfl⟩ (Within.refl [.lanes] _) .pho (by decide)
@[simp] theorem changeRx_sums : (changeRx n f s).sums = s.sums :=
  changeRx_within ⟨rfl⟩ (Within.refl [.lanes] _) .sums (by decide)
@[simp] theorem changeRx_las : (changeRx n f s).las = s.las :=
  changeRx_within ⟨rfl⟩ (Within.refl [.lanes] _) .las (by decide)
@[simp] theorem changeRx_ver : (changeRx n f s).ver = s.ver :=
  changeRx_within ⟨rfl⟩ (Within.refl [.lanes] _) .ver (by decide)
@[simp] theorem changeRx_fab : (changeRx n f s).fab = s.fab :=
  changeRx_within ⟨rfl⟩ (Within.refl [.lanes] _) .fab (by decide)
@[simp] theorem changeRx_pow : (changeRx n f s).pow = s.pow :=
  changeRx_within ⟨rfl⟩ (Within.refl [.lanes] _) .pow (by decide)
@[simp] theorem changeRx_sec : (changeRx n f s).sec = s.sec :=
  changeRx_within ⟨rfl⟩ (Within.refl [.lanes] _) .sec (by decide)
@[simp] theorem changeRx_twin : (changeRx n f s).twin = s.twin :=
  changeRx_within ⟨rfl⟩ (Within.refl [.lanes] _) .twin (by decide)
@[simp] theorem changeRx_pending : (changeRx n f s).pending = s.pending :=
  changeRx_within ⟨rfl⟩ (Within.refl [.lanes] _) .queue (by decide)
@[simp] theorem changeRx_hen : (changeRx n f s).hen = s.hen :=
  Within.hen_eq (changeRx_within ⟨rfl⟩ (Within.refl [.lanes] _)) (by decide) (by decide)

end

section
variable {s : State}

@[simp] theorem mark_now : (mark s).now = s.now :=
  mark_within ⟨rfl⟩ (Within.refl [.events] _) .now (by decide)
@[simp] theorem mark_freeDrawn : (mark s).freeDrawn = s.freeDrawn :=
  mark_within ⟨rfl⟩ (Within.refl [.events] _) .free (by decide)
@[simp] theorem mark_counters : (mark s).counters = s.counters :=
  mark_within ⟨rfl⟩ (Within.refl [.events] _) .counters (by decide)
@[simp] theorem mark_dict : (mark s).dict = s.dict :=
  mark_within ⟨rfl⟩ (Within.refl [.events] _) .dict (by decide)
@[simp] theorem mark_om : (mark s).om = s.om :=
  mark_within ⟨rfl⟩ (Within.refl [.events] _) .om (by decide)
@[simp] theorem mark_frame : (mark s).frame = s.frame :=
  mark_within ⟨rfl⟩ (Within.refl [.events] _) .frame (by decide)
@[simp] theorem mark_start : (mark s).start = s.start :=
  mark_within ⟨rfl⟩ (Within.refl [.events] _) .start (by decide)
@[simp] theorem mark_spad : (mark s).spad = s.spad :=
  mark_within ⟨rfl⟩ (Within.refl [.events] _) .spad (by decide)
@[simp] theorem mark_arith : (mark s).arith = s.arith :=
  mark_within ⟨rfl⟩ (Within.refl [.events] _) .arith (by decide)
@[simp] theorem mark_parts : (mark s).parts = s.parts :=
  mark_within ⟨rfl⟩ (Within.refl [.events] _) .parts (by decide)
@[simp] theorem mark_dma : (mark s).dma = s.dma :=
  mark_within ⟨rfl⟩ (Within.refl [.events] _) .dma (by decide)
@[simp] theorem mark_dram : (mark s).dram = s.dram :=
  mark_within ⟨rfl⟩ (Within.refl [.events] _) .dram (by decide)
@[simp] theorem mark_clk : (mark s).clk = s.clk :=
  mark_within ⟨rfl⟩ (Within.refl [.events] _) .clk (by decide)
@[simp] theorem mark_host : (mark s).host = s.host :=
  mark_within ⟨rfl⟩ (Within.refl [.events] _) .host (by decide)
@[simp] theorem mark_pho : (mark s).pho = s.pho :=
  mark_within ⟨rfl⟩ (Within.refl [.events] _) .pho (by decide)
@[simp] theorem mark_sums : (mark s).sums = s.sums :=
  mark_within ⟨rfl⟩ (Within.refl [.events] _) .sums (by decide)
@[simp] theorem mark_lanes : (mark s).lanes = s.lanes :=
  mark_within ⟨rfl⟩ (Within.refl [.events] _) .lanes (by decide)
@[simp] theorem mark_las : (mark s).las = s.las :=
  mark_within ⟨rfl⟩ (Within.refl [.events] _) .las (by decide)
@[simp] theorem mark_ver : (mark s).ver = s.ver :=
  mark_within ⟨rfl⟩ (Within.refl [.events] _) .ver (by decide)
@[simp] theorem mark_fab : (mark s).fab = s.fab :=
  mark_within ⟨rfl⟩ (Within.refl [.events] _) .fab (by decide)
@[simp] theorem mark_pow : (mark s).pow = s.pow :=
  mark_within ⟨rfl⟩ (Within.refl [.events] _) .pow (by decide)
@[simp] theorem mark_sec : (mark s).sec = s.sec :=
  mark_within ⟨rfl⟩ (Within.refl [.events] _) .sec (by decide)
@[simp] theorem mark_twin : (mark s).twin = s.twin :=
  mark_within ⟨rfl⟩ (Within.refl [.events] _) .twin (by decide)
@[simp] theorem mark_pending : (mark s).pending = s.pending :=
  mark_within ⟨rfl⟩ (Within.refl [.events] _) .queue (by decide)

end

section
variable {p : Nat} {f : QueueSet → QueueSet} {s : State}

@[simp] theorem changeQueue_now : (changeQueue p f s).now = s.now :=
  changeQueue_within ⟨rfl⟩ (Within.refl [.host] _) .now (by decide)
@[simp] theorem changeQueue_freeDrawn : (changeQueue p f s).freeDrawn = s.freeDrawn :=
  changeQueue_within ⟨rfl⟩ (Within.refl [.host] _) .free (by decide)
@[simp] theorem changeQueue_counters : (changeQueue p f s).counters = s.counters :=
  changeQueue_within ⟨rfl⟩ (Within.refl [.host] _) .counters (by decide)
@[simp] theorem changeQueue_dict : (changeQueue p f s).dict = s.dict :=
  changeQueue_within ⟨rfl⟩ (Within.refl [.host] _) .dict (by decide)
@[simp] theorem changeQueue_om : (changeQueue p f s).om = s.om :=
  changeQueue_within ⟨rfl⟩ (Within.refl [.host] _) .om (by decide)
@[simp] theorem changeQueue_frame : (changeQueue p f s).frame = s.frame :=
  changeQueue_within ⟨rfl⟩ (Within.refl [.host] _) .frame (by decide)
@[simp] theorem changeQueue_start : (changeQueue p f s).start = s.start :=
  changeQueue_within ⟨rfl⟩ (Within.refl [.host] _) .start (by decide)
@[simp] theorem changeQueue_spad : (changeQueue p f s).spad = s.spad :=
  changeQueue_within ⟨rfl⟩ (Within.refl [.host] _) .spad (by decide)
@[simp] theorem changeQueue_arith : (changeQueue p f s).arith = s.arith :=
  changeQueue_within ⟨rfl⟩ (Within.refl [.host] _) .arith (by decide)
@[simp] theorem changeQueue_parts : (changeQueue p f s).parts = s.parts :=
  changeQueue_within ⟨rfl⟩ (Within.refl [.host] _) .parts (by decide)
@[simp] theorem changeQueue_dma : (changeQueue p f s).dma = s.dma :=
  changeQueue_within ⟨rfl⟩ (Within.refl [.host] _) .dma (by decide)
@[simp] theorem changeQueue_dram : (changeQueue p f s).dram = s.dram :=
  changeQueue_within ⟨rfl⟩ (Within.refl [.host] _) .dram (by decide)
@[simp] theorem changeQueue_clk : (changeQueue p f s).clk = s.clk :=
  changeQueue_within ⟨rfl⟩ (Within.refl [.host] _) .clk (by decide)
@[simp] theorem changeQueue_pho : (changeQueue p f s).pho = s.pho :=
  changeQueue_within ⟨rfl⟩ (Within.refl [.host] _) .pho (by decide)
@[simp] theorem changeQueue_sums : (changeQueue p f s).sums = s.sums :=
  changeQueue_within ⟨rfl⟩ (Within.refl [.host] _) .sums (by decide)
@[simp] theorem changeQueue_lanes : (changeQueue p f s).lanes = s.lanes :=
  changeQueue_within ⟨rfl⟩ (Within.refl [.host] _) .lanes (by decide)
@[simp] theorem changeQueue_las : (changeQueue p f s).las = s.las :=
  changeQueue_within ⟨rfl⟩ (Within.refl [.host] _) .las (by decide)
@[simp] theorem changeQueue_ver : (changeQueue p f s).ver = s.ver :=
  changeQueue_within ⟨rfl⟩ (Within.refl [.host] _) .ver (by decide)
@[simp] theorem changeQueue_fab : (changeQueue p f s).fab = s.fab :=
  changeQueue_within ⟨rfl⟩ (Within.refl [.host] _) .fab (by decide)
@[simp] theorem changeQueue_pow : (changeQueue p f s).pow = s.pow :=
  changeQueue_within ⟨rfl⟩ (Within.refl [.host] _) .pow (by decide)
@[simp] theorem changeQueue_sec : (changeQueue p f s).sec = s.sec :=
  changeQueue_within ⟨rfl⟩ (Within.refl [.host] _) .sec (by decide)
@[simp] theorem changeQueue_twin : (changeQueue p f s).twin = s.twin :=
  changeQueue_within ⟨rfl⟩ (Within.refl [.host] _) .twin (by decide)
@[simp] theorem changeQueue_pending : (changeQueue p f s).pending = s.pending :=
  changeQueue_within ⟨rfl⟩ (Within.refl [.host] _) .queue (by decide)
@[simp] theorem changeQueue_hen : (changeQueue p f s).hen = s.hen :=
  Within.hen_eq (changeQueue_within ⟨rfl⟩ (Within.refl [.host] _)) (by decide) (by decide)

end

section
variable {f : Nat} {g : FunctionBlock → FunctionBlock} {s : State}

@[simp] theorem changeFunction_now : (changeFunction f g s).now = s.now :=
  changeFunction_within ⟨rfl⟩ (Within.refl [.host] _) .now (by decide)
@[simp] theorem changeFunction_freeDrawn : (changeFunction f g s).freeDrawn = s.freeDrawn :=
  changeFunction_within ⟨rfl⟩ (Within.refl [.host] _) .free (by decide)
@[simp] theorem changeFunction_counters : (changeFunction f g s).counters = s.counters :=
  changeFunction_within ⟨rfl⟩ (Within.refl [.host] _) .counters (by decide)
@[simp] theorem changeFunction_dict : (changeFunction f g s).dict = s.dict :=
  changeFunction_within ⟨rfl⟩ (Within.refl [.host] _) .dict (by decide)
@[simp] theorem changeFunction_om : (changeFunction f g s).om = s.om :=
  changeFunction_within ⟨rfl⟩ (Within.refl [.host] _) .om (by decide)
@[simp] theorem changeFunction_frame : (changeFunction f g s).frame = s.frame :=
  changeFunction_within ⟨rfl⟩ (Within.refl [.host] _) .frame (by decide)
@[simp] theorem changeFunction_start : (changeFunction f g s).start = s.start :=
  changeFunction_within ⟨rfl⟩ (Within.refl [.host] _) .start (by decide)
@[simp] theorem changeFunction_spad : (changeFunction f g s).spad = s.spad :=
  changeFunction_within ⟨rfl⟩ (Within.refl [.host] _) .spad (by decide)
@[simp] theorem changeFunction_arith : (changeFunction f g s).arith = s.arith :=
  changeFunction_within ⟨rfl⟩ (Within.refl [.host] _) .arith (by decide)
@[simp] theorem changeFunction_parts : (changeFunction f g s).parts = s.parts :=
  changeFunction_within ⟨rfl⟩ (Within.refl [.host] _) .parts (by decide)
@[simp] theorem changeFunction_dma : (changeFunction f g s).dma = s.dma :=
  changeFunction_within ⟨rfl⟩ (Within.refl [.host] _) .dma (by decide)
@[simp] theorem changeFunction_dram : (changeFunction f g s).dram = s.dram :=
  changeFunction_within ⟨rfl⟩ (Within.refl [.host] _) .dram (by decide)
@[simp] theorem changeFunction_clk : (changeFunction f g s).clk = s.clk :=
  changeFunction_within ⟨rfl⟩ (Within.refl [.host] _) .clk (by decide)
@[simp] theorem changeFunction_pho : (changeFunction f g s).pho = s.pho :=
  changeFunction_within ⟨rfl⟩ (Within.refl [.host] _) .pho (by decide)
@[simp] theorem changeFunction_sums : (changeFunction f g s).sums = s.sums :=
  changeFunction_within ⟨rfl⟩ (Within.refl [.host] _) .sums (by decide)
@[simp] theorem changeFunction_lanes : (changeFunction f g s).lanes = s.lanes :=
  changeFunction_within ⟨rfl⟩ (Within.refl [.host] _) .lanes (by decide)
@[simp] theorem changeFunction_las : (changeFunction f g s).las = s.las :=
  changeFunction_within ⟨rfl⟩ (Within.refl [.host] _) .las (by decide)
@[simp] theorem changeFunction_ver : (changeFunction f g s).ver = s.ver :=
  changeFunction_within ⟨rfl⟩ (Within.refl [.host] _) .ver (by decide)
@[simp] theorem changeFunction_fab : (changeFunction f g s).fab = s.fab :=
  changeFunction_within ⟨rfl⟩ (Within.refl [.host] _) .fab (by decide)
@[simp] theorem changeFunction_pow : (changeFunction f g s).pow = s.pow :=
  changeFunction_within ⟨rfl⟩ (Within.refl [.host] _) .pow (by decide)
@[simp] theorem changeFunction_sec : (changeFunction f g s).sec = s.sec :=
  changeFunction_within ⟨rfl⟩ (Within.refl [.host] _) .sec (by decide)
@[simp] theorem changeFunction_twin : (changeFunction f g s).twin = s.twin :=
  changeFunction_within ⟨rfl⟩ (Within.refl [.host] _) .twin (by decide)
@[simp] theorem changeFunction_pending : (changeFunction f g s).pending = s.pending :=
  changeFunction_within ⟨rfl⟩ (Within.refl [.host] _) .queue (by decide)
@[simp] theorem changeFunction_hen : (changeFunction f g s).hen = s.hen :=
  Within.hen_eq (changeFunction_within ⟨rfl⟩ (Within.refl [.host] _)) (by decide) (by decide)

end

section
variable {k : Nat} {i : Nat} {f : Desc → Desc} {s : State}

@[simp] theorem changeDesc_now : (changeDesc k i f s).now = s.now :=
  changeDesc_within ⟨rfl⟩ (Within.refl [.dma] _) .now (by decide)
@[simp] theorem changeDesc_freeDrawn : (changeDesc k i f s).freeDrawn = s.freeDrawn :=
  changeDesc_within ⟨rfl⟩ (Within.refl [.dma] _) .free (by decide)
@[simp] theorem changeDesc_counters : (changeDesc k i f s).counters = s.counters :=
  changeDesc_within ⟨rfl⟩ (Within.refl [.dma] _) .counters (by decide)
@[simp] theorem changeDesc_dict : (changeDesc k i f s).dict = s.dict :=
  changeDesc_within ⟨rfl⟩ (Within.refl [.dma] _) .dict (by decide)
@[simp] theorem changeDesc_om : (changeDesc k i f s).om = s.om :=
  changeDesc_within ⟨rfl⟩ (Within.refl [.dma] _) .om (by decide)
@[simp] theorem changeDesc_frame : (changeDesc k i f s).frame = s.frame :=
  changeDesc_within ⟨rfl⟩ (Within.refl [.dma] _) .frame (by decide)
@[simp] theorem changeDesc_start : (changeDesc k i f s).start = s.start :=
  changeDesc_within ⟨rfl⟩ (Within.refl [.dma] _) .start (by decide)
@[simp] theorem changeDesc_spad : (changeDesc k i f s).spad = s.spad :=
  changeDesc_within ⟨rfl⟩ (Within.refl [.dma] _) .spad (by decide)
@[simp] theorem changeDesc_arith : (changeDesc k i f s).arith = s.arith :=
  changeDesc_within ⟨rfl⟩ (Within.refl [.dma] _) .arith (by decide)
@[simp] theorem changeDesc_parts : (changeDesc k i f s).parts = s.parts :=
  changeDesc_within ⟨rfl⟩ (Within.refl [.dma] _) .parts (by decide)
@[simp] theorem changeDesc_dram : (changeDesc k i f s).dram = s.dram :=
  changeDesc_within ⟨rfl⟩ (Within.refl [.dma] _) .dram (by decide)
@[simp] theorem changeDesc_clk : (changeDesc k i f s).clk = s.clk :=
  changeDesc_within ⟨rfl⟩ (Within.refl [.dma] _) .clk (by decide)
@[simp] theorem changeDesc_host : (changeDesc k i f s).host = s.host :=
  changeDesc_within ⟨rfl⟩ (Within.refl [.dma] _) .host (by decide)
@[simp] theorem changeDesc_pho : (changeDesc k i f s).pho = s.pho :=
  changeDesc_within ⟨rfl⟩ (Within.refl [.dma] _) .pho (by decide)
@[simp] theorem changeDesc_sums : (changeDesc k i f s).sums = s.sums :=
  changeDesc_within ⟨rfl⟩ (Within.refl [.dma] _) .sums (by decide)
@[simp] theorem changeDesc_lanes : (changeDesc k i f s).lanes = s.lanes :=
  changeDesc_within ⟨rfl⟩ (Within.refl [.dma] _) .lanes (by decide)
@[simp] theorem changeDesc_las : (changeDesc k i f s).las = s.las :=
  changeDesc_within ⟨rfl⟩ (Within.refl [.dma] _) .las (by decide)
@[simp] theorem changeDesc_ver : (changeDesc k i f s).ver = s.ver :=
  changeDesc_within ⟨rfl⟩ (Within.refl [.dma] _) .ver (by decide)
@[simp] theorem changeDesc_fab : (changeDesc k i f s).fab = s.fab :=
  changeDesc_within ⟨rfl⟩ (Within.refl [.dma] _) .fab (by decide)
@[simp] theorem changeDesc_pow : (changeDesc k i f s).pow = s.pow :=
  changeDesc_within ⟨rfl⟩ (Within.refl [.dma] _) .pow (by decide)
@[simp] theorem changeDesc_sec : (changeDesc k i f s).sec = s.sec :=
  changeDesc_within ⟨rfl⟩ (Within.refl [.dma] _) .sec (by decide)
@[simp] theorem changeDesc_twin : (changeDesc k i f s).twin = s.twin :=
  changeDesc_within ⟨rfl⟩ (Within.refl [.dma] _) .twin (by decide)
@[simp] theorem changeDesc_pending : (changeDesc k i f s).pending = s.pending :=
  changeDesc_within ⟨rfl⟩ (Within.refl [.dma] _) .queue (by decide)
@[simp] theorem changeDesc_hen : (changeDesc k i f s).hen = s.hen :=
  Within.hen_eq (changeDesc_within ⟨rfl⟩ (Within.refl [.dma] _)) (by decide) (by decide)

end

section
variable {t : Nat} {target : Nat} {f : Limiter → Limiter} {s : State}

@[simp] theorem changeLimiter_now : (changeLimiter t target f s).now = s.now :=
  changeLimiter_within ⟨rfl⟩ (Within.refl [.fab] _) .now (by decide)
@[simp] theorem changeLimiter_freeDrawn : (changeLimiter t target f s).freeDrawn = s.freeDrawn :=
  changeLimiter_within ⟨rfl⟩ (Within.refl [.fab] _) .free (by decide)
@[simp] theorem changeLimiter_counters : (changeLimiter t target f s).counters = s.counters :=
  changeLimiter_within ⟨rfl⟩ (Within.refl [.fab] _) .counters (by decide)
@[simp] theorem changeLimiter_dict : (changeLimiter t target f s).dict = s.dict :=
  changeLimiter_within ⟨rfl⟩ (Within.refl [.fab] _) .dict (by decide)
@[simp] theorem changeLimiter_om : (changeLimiter t target f s).om = s.om :=
  changeLimiter_within ⟨rfl⟩ (Within.refl [.fab] _) .om (by decide)
@[simp] theorem changeLimiter_frame : (changeLimiter t target f s).frame = s.frame :=
  changeLimiter_within ⟨rfl⟩ (Within.refl [.fab] _) .frame (by decide)
@[simp] theorem changeLimiter_start : (changeLimiter t target f s).start = s.start :=
  changeLimiter_within ⟨rfl⟩ (Within.refl [.fab] _) .start (by decide)
@[simp] theorem changeLimiter_spad : (changeLimiter t target f s).spad = s.spad :=
  changeLimiter_within ⟨rfl⟩ (Within.refl [.fab] _) .spad (by decide)
@[simp] theorem changeLimiter_arith : (changeLimiter t target f s).arith = s.arith :=
  changeLimiter_within ⟨rfl⟩ (Within.refl [.fab] _) .arith (by decide)
@[simp] theorem changeLimiter_parts : (changeLimiter t target f s).parts = s.parts :=
  changeLimiter_within ⟨rfl⟩ (Within.refl [.fab] _) .parts (by decide)
@[simp] theorem changeLimiter_dma : (changeLimiter t target f s).dma = s.dma :=
  changeLimiter_within ⟨rfl⟩ (Within.refl [.fab] _) .dma (by decide)
@[simp] theorem changeLimiter_dram : (changeLimiter t target f s).dram = s.dram :=
  changeLimiter_within ⟨rfl⟩ (Within.refl [.fab] _) .dram (by decide)
@[simp] theorem changeLimiter_clk : (changeLimiter t target f s).clk = s.clk :=
  changeLimiter_within ⟨rfl⟩ (Within.refl [.fab] _) .clk (by decide)
@[simp] theorem changeLimiter_host : (changeLimiter t target f s).host = s.host :=
  changeLimiter_within ⟨rfl⟩ (Within.refl [.fab] _) .host (by decide)
@[simp] theorem changeLimiter_pho : (changeLimiter t target f s).pho = s.pho :=
  changeLimiter_within ⟨rfl⟩ (Within.refl [.fab] _) .pho (by decide)
@[simp] theorem changeLimiter_sums : (changeLimiter t target f s).sums = s.sums :=
  changeLimiter_within ⟨rfl⟩ (Within.refl [.fab] _) .sums (by decide)
@[simp] theorem changeLimiter_lanes : (changeLimiter t target f s).lanes = s.lanes :=
  changeLimiter_within ⟨rfl⟩ (Within.refl [.fab] _) .lanes (by decide)
@[simp] theorem changeLimiter_las : (changeLimiter t target f s).las = s.las :=
  changeLimiter_within ⟨rfl⟩ (Within.refl [.fab] _) .las (by decide)
@[simp] theorem changeLimiter_ver : (changeLimiter t target f s).ver = s.ver :=
  changeLimiter_within ⟨rfl⟩ (Within.refl [.fab] _) .ver (by decide)
@[simp] theorem changeLimiter_pow : (changeLimiter t target f s).pow = s.pow :=
  changeLimiter_within ⟨rfl⟩ (Within.refl [.fab] _) .pow (by decide)
@[simp] theorem changeLimiter_sec : (changeLimiter t target f s).sec = s.sec :=
  changeLimiter_within ⟨rfl⟩ (Within.refl [.fab] _) .sec (by decide)
@[simp] theorem changeLimiter_twin : (changeLimiter t target f s).twin = s.twin :=
  changeLimiter_within ⟨rfl⟩ (Within.refl [.fab] _) .twin (by decide)
@[simp] theorem changeLimiter_pending : (changeLimiter t target f s).pending = s.pending :=
  changeLimiter_within ⟨rfl⟩ (Within.refl [.fab] _) .queue (by decide)
@[simp] theorem changeLimiter_hen : (changeLimiter t target f s).hen = s.hen :=
  Within.hen_eq (changeLimiter_within ⟨rfl⟩ (Within.refl [.fab] _)) (by decide) (by decide)

end

section
variable {i : Nat} {f : Subscriber → Subscriber} {s : State}

@[simp] theorem changeSubscriber_now : (changeSubscriber i f s).now = s.now :=
  changeSubscriber_within ⟨rfl⟩ (Within.refl [.om] _) .now (by decide)
@[simp] theorem changeSubscriber_freeDrawn : (changeSubscriber i f s).freeDrawn = s.freeDrawn :=
  changeSubscriber_within ⟨rfl⟩ (Within.refl [.om] _) .free (by decide)
@[simp] theorem changeSubscriber_counters : (changeSubscriber i f s).counters = s.counters :=
  changeSubscriber_within ⟨rfl⟩ (Within.refl [.om] _) .counters (by decide)
@[simp] theorem changeSubscriber_dict : (changeSubscriber i f s).dict = s.dict :=
  changeSubscriber_within ⟨rfl⟩ (Within.refl [.om] _) .dict (by decide)
@[simp] theorem changeSubscriber_frame : (changeSubscriber i f s).frame = s.frame :=
  changeSubscriber_within ⟨rfl⟩ (Within.refl [.om] _) .frame (by decide)
@[simp] theorem changeSubscriber_start : (changeSubscriber i f s).start = s.start :=
  changeSubscriber_within ⟨rfl⟩ (Within.refl [.om] _) .start (by decide)
@[simp] theorem changeSubscriber_spad : (changeSubscriber i f s).spad = s.spad :=
  changeSubscriber_within ⟨rfl⟩ (Within.refl [.om] _) .spad (by decide)
@[simp] theorem changeSubscriber_arith : (changeSubscriber i f s).arith = s.arith :=
  changeSubscriber_within ⟨rfl⟩ (Within.refl [.om] _) .arith (by decide)
@[simp] theorem changeSubscriber_parts : (changeSubscriber i f s).parts = s.parts :=
  changeSubscriber_within ⟨rfl⟩ (Within.refl [.om] _) .parts (by decide)
@[simp] theorem changeSubscriber_dma : (changeSubscriber i f s).dma = s.dma :=
  changeSubscriber_within ⟨rfl⟩ (Within.refl [.om] _) .dma (by decide)
@[simp] theorem changeSubscriber_dram : (changeSubscriber i f s).dram = s.dram :=
  changeSubscriber_within ⟨rfl⟩ (Within.refl [.om] _) .dram (by decide)
@[simp] theorem changeSubscriber_clk : (changeSubscriber i f s).clk = s.clk :=
  changeSubscriber_within ⟨rfl⟩ (Within.refl [.om] _) .clk (by decide)
@[simp] theorem changeSubscriber_host : (changeSubscriber i f s).host = s.host :=
  changeSubscriber_within ⟨rfl⟩ (Within.refl [.om] _) .host (by decide)
@[simp] theorem changeSubscriber_pho : (changeSubscriber i f s).pho = s.pho :=
  changeSubscriber_within ⟨rfl⟩ (Within.refl [.om] _) .pho (by decide)
@[simp] theorem changeSubscriber_sums : (changeSubscriber i f s).sums = s.sums :=
  changeSubscriber_within ⟨rfl⟩ (Within.refl [.om] _) .sums (by decide)
@[simp] theorem changeSubscriber_lanes : (changeSubscriber i f s).lanes = s.lanes :=
  changeSubscriber_within ⟨rfl⟩ (Within.refl [.om] _) .lanes (by decide)
@[simp] theorem changeSubscriber_las : (changeSubscriber i f s).las = s.las :=
  changeSubscriber_within ⟨rfl⟩ (Within.refl [.om] _) .las (by decide)
@[simp] theorem changeSubscriber_ver : (changeSubscriber i f s).ver = s.ver :=
  changeSubscriber_within ⟨rfl⟩ (Within.refl [.om] _) .ver (by decide)
@[simp] theorem changeSubscriber_fab : (changeSubscriber i f s).fab = s.fab :=
  changeSubscriber_within ⟨rfl⟩ (Within.refl [.om] _) .fab (by decide)
@[simp] theorem changeSubscriber_pow : (changeSubscriber i f s).pow = s.pow :=
  changeSubscriber_within ⟨rfl⟩ (Within.refl [.om] _) .pow (by decide)
@[simp] theorem changeSubscriber_sec : (changeSubscriber i f s).sec = s.sec :=
  changeSubscriber_within ⟨rfl⟩ (Within.refl [.om] _) .sec (by decide)
@[simp] theorem changeSubscriber_twin : (changeSubscriber i f s).twin = s.twin :=
  changeSubscriber_within ⟨rfl⟩ (Within.refl [.om] _) .twin (by decide)
@[simp] theorem changeSubscriber_pending : (changeSubscriber i f s).pending = s.pending :=
  changeSubscriber_within ⟨rfl⟩ (Within.refl [.om] _) .queue (by decide)
@[simp] theorem changeSubscriber_hen : (changeSubscriber i f s).hen = s.hen :=
  Within.hen_eq (changeSubscriber_within ⟨rfl⟩ (Within.refl [.om] _)) (by decide) (by decide)

end

section
variable {d : Nat} {w : Nat} {f : Sheepdog → Sheepdog} {s : State}

@[simp] theorem changeSheepdog_now : (changeSheepdog d w f s).now = s.now :=
  changeSheepdog_within ⟨rfl⟩ (Within.refl [.pho] _) .now (by decide)
@[simp] theorem changeSheepdog_freeDrawn : (changeSheepdog d w f s).freeDrawn = s.freeDrawn :=
  changeSheepdog_within ⟨rfl⟩ (Within.refl [.pho] _) .free (by decide)
@[simp] theorem changeSheepdog_counters : (changeSheepdog d w f s).counters = s.counters :=
  changeSheepdog_within ⟨rfl⟩ (Within.refl [.pho] _) .counters (by decide)
@[simp] theorem changeSheepdog_dict : (changeSheepdog d w f s).dict = s.dict :=
  changeSheepdog_within ⟨rfl⟩ (Within.refl [.pho] _) .dict (by decide)
@[simp] theorem changeSheepdog_om : (changeSheepdog d w f s).om = s.om :=
  changeSheepdog_within ⟨rfl⟩ (Within.refl [.pho] _) .om (by decide)
@[simp] theorem changeSheepdog_frame : (changeSheepdog d w f s).frame = s.frame :=
  changeSheepdog_within ⟨rfl⟩ (Within.refl [.pho] _) .frame (by decide)
@[simp] theorem changeSheepdog_start : (changeSheepdog d w f s).start = s.start :=
  changeSheepdog_within ⟨rfl⟩ (Within.refl [.pho] _) .start (by decide)
@[simp] theorem changeSheepdog_spad : (changeSheepdog d w f s).spad = s.spad :=
  changeSheepdog_within ⟨rfl⟩ (Within.refl [.pho] _) .spad (by decide)
@[simp] theorem changeSheepdog_arith : (changeSheepdog d w f s).arith = s.arith :=
  changeSheepdog_within ⟨rfl⟩ (Within.refl [.pho] _) .arith (by decide)
@[simp] theorem changeSheepdog_parts : (changeSheepdog d w f s).parts = s.parts :=
  changeSheepdog_within ⟨rfl⟩ (Within.refl [.pho] _) .parts (by decide)
@[simp] theorem changeSheepdog_dma : (changeSheepdog d w f s).dma = s.dma :=
  changeSheepdog_within ⟨rfl⟩ (Within.refl [.pho] _) .dma (by decide)
@[simp] theorem changeSheepdog_dram : (changeSheepdog d w f s).dram = s.dram :=
  changeSheepdog_within ⟨rfl⟩ (Within.refl [.pho] _) .dram (by decide)
@[simp] theorem changeSheepdog_clk : (changeSheepdog d w f s).clk = s.clk :=
  changeSheepdog_within ⟨rfl⟩ (Within.refl [.pho] _) .clk (by decide)
@[simp] theorem changeSheepdog_host : (changeSheepdog d w f s).host = s.host :=
  changeSheepdog_within ⟨rfl⟩ (Within.refl [.pho] _) .host (by decide)
@[simp] theorem changeSheepdog_sums : (changeSheepdog d w f s).sums = s.sums :=
  changeSheepdog_within ⟨rfl⟩ (Within.refl [.pho] _) .sums (by decide)
@[simp] theorem changeSheepdog_lanes : (changeSheepdog d w f s).lanes = s.lanes :=
  changeSheepdog_within ⟨rfl⟩ (Within.refl [.pho] _) .lanes (by decide)
@[simp] theorem changeSheepdog_las : (changeSheepdog d w f s).las = s.las :=
  changeSheepdog_within ⟨rfl⟩ (Within.refl [.pho] _) .las (by decide)
@[simp] theorem changeSheepdog_ver : (changeSheepdog d w f s).ver = s.ver :=
  changeSheepdog_within ⟨rfl⟩ (Within.refl [.pho] _) .ver (by decide)
@[simp] theorem changeSheepdog_fab : (changeSheepdog d w f s).fab = s.fab :=
  changeSheepdog_within ⟨rfl⟩ (Within.refl [.pho] _) .fab (by decide)
@[simp] theorem changeSheepdog_pow : (changeSheepdog d w f s).pow = s.pow :=
  changeSheepdog_within ⟨rfl⟩ (Within.refl [.pho] _) .pow (by decide)
@[simp] theorem changeSheepdog_sec : (changeSheepdog d w f s).sec = s.sec :=
  changeSheepdog_within ⟨rfl⟩ (Within.refl [.pho] _) .sec (by decide)
@[simp] theorem changeSheepdog_twin : (changeSheepdog d w f s).twin = s.twin :=
  changeSheepdog_within ⟨rfl⟩ (Within.refl [.pho] _) .twin (by decide)
@[simp] theorem changeSheepdog_pending : (changeSheepdog d w f s).pending = s.pending :=
  changeSheepdog_within ⟨rfl⟩ (Within.refl [.pho] _) .queue (by decide)
@[simp] theorem changeSheepdog_hen : (changeSheepdog d w f s).hen = s.hen :=
  Within.hen_eq (changeSheepdog_within ⟨rfl⟩ (Within.refl [.pho] _)) (by decide) (by decide)

end

section
variable {f : Nat} {i : Nat} {g : Source → Source} {s : State}

@[simp] theorem changeSource_now : (changeSource f i g s).now = s.now :=
  changeSource_within ⟨rfl⟩ (Within.refl [.las] _) .now (by decide)
@[simp] theorem changeSource_freeDrawn : (changeSource f i g s).freeDrawn = s.freeDrawn :=
  changeSource_within ⟨rfl⟩ (Within.refl [.las] _) .free (by decide)
@[simp] theorem changeSource_counters : (changeSource f i g s).counters = s.counters :=
  changeSource_within ⟨rfl⟩ (Within.refl [.las] _) .counters (by decide)
@[simp] theorem changeSource_dict : (changeSource f i g s).dict = s.dict :=
  changeSource_within ⟨rfl⟩ (Within.refl [.las] _) .dict (by decide)
@[simp] theorem changeSource_om : (changeSource f i g s).om = s.om :=
  changeSource_within ⟨rfl⟩ (Within.refl [.las] _) .om (by decide)
@[simp] theorem changeSource_frame : (changeSource f i g s).frame = s.frame :=
  changeSource_within ⟨rfl⟩ (Within.refl [.las] _) .frame (by decide)
@[simp] theorem changeSource_start : (changeSource f i g s).start = s.start :=
  changeSource_within ⟨rfl⟩ (Within.refl [.las] _) .start (by decide)
@[simp] theorem changeSource_spad : (changeSource f i g s).spad = s.spad :=
  changeSource_within ⟨rfl⟩ (Within.refl [.las] _) .spad (by decide)
@[simp] theorem changeSource_arith : (changeSource f i g s).arith = s.arith :=
  changeSource_within ⟨rfl⟩ (Within.refl [.las] _) .arith (by decide)
@[simp] theorem changeSource_parts : (changeSource f i g s).parts = s.parts :=
  changeSource_within ⟨rfl⟩ (Within.refl [.las] _) .parts (by decide)
@[simp] theorem changeSource_dma : (changeSource f i g s).dma = s.dma :=
  changeSource_within ⟨rfl⟩ (Within.refl [.las] _) .dma (by decide)
@[simp] theorem changeSource_dram : (changeSource f i g s).dram = s.dram :=
  changeSource_within ⟨rfl⟩ (Within.refl [.las] _) .dram (by decide)
@[simp] theorem changeSource_clk : (changeSource f i g s).clk = s.clk :=
  changeSource_within ⟨rfl⟩ (Within.refl [.las] _) .clk (by decide)
@[simp] theorem changeSource_host : (changeSource f i g s).host = s.host :=
  changeSource_within ⟨rfl⟩ (Within.refl [.las] _) .host (by decide)
@[simp] theorem changeSource_pho : (changeSource f i g s).pho = s.pho :=
  changeSource_within ⟨rfl⟩ (Within.refl [.las] _) .pho (by decide)
@[simp] theorem changeSource_sums : (changeSource f i g s).sums = s.sums :=
  changeSource_within ⟨rfl⟩ (Within.refl [.las] _) .sums (by decide)
@[simp] theorem changeSource_lanes : (changeSource f i g s).lanes = s.lanes :=
  changeSource_within ⟨rfl⟩ (Within.refl [.las] _) .lanes (by decide)
@[simp] theorem changeSource_ver : (changeSource f i g s).ver = s.ver :=
  changeSource_within ⟨rfl⟩ (Within.refl [.las] _) .ver (by decide)
@[simp] theorem changeSource_fab : (changeSource f i g s).fab = s.fab :=
  changeSource_within ⟨rfl⟩ (Within.refl [.las] _) .fab (by decide)
@[simp] theorem changeSource_pow : (changeSource f i g s).pow = s.pow :=
  changeSource_within ⟨rfl⟩ (Within.refl [.las] _) .pow (by decide)
@[simp] theorem changeSource_sec : (changeSource f i g s).sec = s.sec :=
  changeSource_within ⟨rfl⟩ (Within.refl [.las] _) .sec (by decide)
@[simp] theorem changeSource_twin : (changeSource f i g s).twin = s.twin :=
  changeSource_within ⟨rfl⟩ (Within.refl [.las] _) .twin (by decide)
@[simp] theorem changeSource_pending : (changeSource f i g s).pending = s.pending :=
  changeSource_within ⟨rfl⟩ (Within.refl [.las] _) .queue (by decide)
@[simp] theorem changeSource_hen : (changeSource f i g s).hen = s.hen :=
  Within.hen_eq (changeSource_within ⟨rfl⟩ (Within.refl [.las] _)) (by decide) (by decide)

end

section
variable {f : Nat} {i : Nat} {code : Nat} {lane : Option Nat} {s : State}

@[simp] theorem setSource_now : (setSource f i code lane s).now = s.now :=
  setSource_within ⟨rfl⟩ (Within.refl [.las] _) .now (by decide)
@[simp] theorem setSource_freeDrawn : (setSource f i code lane s).freeDrawn = s.freeDrawn :=
  setSource_within ⟨rfl⟩ (Within.refl [.las] _) .free (by decide)
@[simp] theorem setSource_counters : (setSource f i code lane s).counters = s.counters :=
  setSource_within ⟨rfl⟩ (Within.refl [.las] _) .counters (by decide)
@[simp] theorem setSource_dict : (setSource f i code lane s).dict = s.dict :=
  setSource_within ⟨rfl⟩ (Within.refl [.las] _) .dict (by decide)
@[simp] theorem setSource_om : (setSource f i code lane s).om = s.om :=
  setSource_within ⟨rfl⟩ (Within.refl [.las] _) .om (by decide)
@[simp] theorem setSource_frame : (setSource f i code lane s).frame = s.frame :=
  setSource_within ⟨rfl⟩ (Within.refl [.las] _) .frame (by decide)
@[simp] theorem setSource_start : (setSource f i code lane s).start = s.start :=
  setSource_within ⟨rfl⟩ (Within.refl [.las] _) .start (by decide)
@[simp] theorem setSource_spad : (setSource f i code lane s).spad = s.spad :=
  setSource_within ⟨rfl⟩ (Within.refl [.las] _) .spad (by decide)
@[simp] theorem setSource_arith : (setSource f i code lane s).arith = s.arith :=
  setSource_within ⟨rfl⟩ (Within.refl [.las] _) .arith (by decide)
@[simp] theorem setSource_parts : (setSource f i code lane s).parts = s.parts :=
  setSource_within ⟨rfl⟩ (Within.refl [.las] _) .parts (by decide)
@[simp] theorem setSource_dma : (setSource f i code lane s).dma = s.dma :=
  setSource_within ⟨rfl⟩ (Within.refl [.las] _) .dma (by decide)
@[simp] theorem setSource_dram : (setSource f i code lane s).dram = s.dram :=
  setSource_within ⟨rfl⟩ (Within.refl [.las] _) .dram (by decide)
@[simp] theorem setSource_clk : (setSource f i code lane s).clk = s.clk :=
  setSource_within ⟨rfl⟩ (Within.refl [.las] _) .clk (by decide)
@[simp] theorem setSource_host : (setSource f i code lane s).host = s.host :=
  setSource_within ⟨rfl⟩ (Within.refl [.las] _) .host (by decide)
@[simp] theorem setSource_pho : (setSource f i code lane s).pho = s.pho :=
  setSource_within ⟨rfl⟩ (Within.refl [.las] _) .pho (by decide)
@[simp] theorem setSource_sums : (setSource f i code lane s).sums = s.sums :=
  setSource_within ⟨rfl⟩ (Within.refl [.las] _) .sums (by decide)
@[simp] theorem setSource_lanes : (setSource f i code lane s).lanes = s.lanes :=
  setSource_within ⟨rfl⟩ (Within.refl [.las] _) .lanes (by decide)
@[simp] theorem setSource_ver : (setSource f i code lane s).ver = s.ver :=
  setSource_within ⟨rfl⟩ (Within.refl [.las] _) .ver (by decide)
@[simp] theorem setSource_fab : (setSource f i code lane s).fab = s.fab :=
  setSource_within ⟨rfl⟩ (Within.refl [.las] _) .fab (by decide)
@[simp] theorem setSource_pow : (setSource f i code lane s).pow = s.pow :=
  setSource_within ⟨rfl⟩ (Within.refl [.las] _) .pow (by decide)
@[simp] theorem setSource_sec : (setSource f i code lane s).sec = s.sec :=
  setSource_within ⟨rfl⟩ (Within.refl [.las] _) .sec (by decide)
@[simp] theorem setSource_twin : (setSource f i code lane s).twin = s.twin :=
  setSource_within ⟨rfl⟩ (Within.refl [.las] _) .twin (by decide)
@[simp] theorem setSource_pending : (setSource f i code lane s).pending = s.pending :=
  setSource_within ⟨rfl⟩ (Within.refl [.las] _) .queue (by decide)
@[simp] theorem setSource_hen : (setSource f i code lane s).hen = s.hen :=
  Within.hen_eq (setSource_within ⟨rfl⟩ (Within.refl [.las] _)) (by decide) (by decide)

end

section
variable {f : Nat} {k : Nat} {g : Sparing → Sparing} {s : State}

@[simp] theorem changeSparing_now : (changeSparing f k g s).now = s.now :=
  changeSparing_within ⟨rfl⟩ (Within.refl [.las] _) .now (by decide)
@[simp] theorem changeSparing_freeDrawn : (changeSparing f k g s).freeDrawn = s.freeDrawn :=
  changeSparing_within ⟨rfl⟩ (Within.refl [.las] _) .free (by decide)
@[simp] theorem changeSparing_counters : (changeSparing f k g s).counters = s.counters :=
  changeSparing_within ⟨rfl⟩ (Within.refl [.las] _) .counters (by decide)
@[simp] theorem changeSparing_dict : (changeSparing f k g s).dict = s.dict :=
  changeSparing_within ⟨rfl⟩ (Within.refl [.las] _) .dict (by decide)
@[simp] theorem changeSparing_om : (changeSparing f k g s).om = s.om :=
  changeSparing_within ⟨rfl⟩ (Within.refl [.las] _) .om (by decide)
@[simp] theorem changeSparing_frame : (changeSparing f k g s).frame = s.frame :=
  changeSparing_within ⟨rfl⟩ (Within.refl [.las] _) .frame (by decide)
@[simp] theorem changeSparing_start : (changeSparing f k g s).start = s.start :=
  changeSparing_within ⟨rfl⟩ (Within.refl [.las] _) .start (by decide)
@[simp] theorem changeSparing_spad : (changeSparing f k g s).spad = s.spad :=
  changeSparing_within ⟨rfl⟩ (Within.refl [.las] _) .spad (by decide)
@[simp] theorem changeSparing_arith : (changeSparing f k g s).arith = s.arith :=
  changeSparing_within ⟨rfl⟩ (Within.refl [.las] _) .arith (by decide)
@[simp] theorem changeSparing_parts : (changeSparing f k g s).parts = s.parts :=
  changeSparing_within ⟨rfl⟩ (Within.refl [.las] _) .parts (by decide)
@[simp] theorem changeSparing_dma : (changeSparing f k g s).dma = s.dma :=
  changeSparing_within ⟨rfl⟩ (Within.refl [.las] _) .dma (by decide)
@[simp] theorem changeSparing_dram : (changeSparing f k g s).dram = s.dram :=
  changeSparing_within ⟨rfl⟩ (Within.refl [.las] _) .dram (by decide)
@[simp] theorem changeSparing_clk : (changeSparing f k g s).clk = s.clk :=
  changeSparing_within ⟨rfl⟩ (Within.refl [.las] _) .clk (by decide)
@[simp] theorem changeSparing_host : (changeSparing f k g s).host = s.host :=
  changeSparing_within ⟨rfl⟩ (Within.refl [.las] _) .host (by decide)
@[simp] theorem changeSparing_pho : (changeSparing f k g s).pho = s.pho :=
  changeSparing_within ⟨rfl⟩ (Within.refl [.las] _) .pho (by decide)
@[simp] theorem changeSparing_sums : (changeSparing f k g s).sums = s.sums :=
  changeSparing_within ⟨rfl⟩ (Within.refl [.las] _) .sums (by decide)
@[simp] theorem changeSparing_lanes : (changeSparing f k g s).lanes = s.lanes :=
  changeSparing_within ⟨rfl⟩ (Within.refl [.las] _) .lanes (by decide)
@[simp] theorem changeSparing_ver : (changeSparing f k g s).ver = s.ver :=
  changeSparing_within ⟨rfl⟩ (Within.refl [.las] _) .ver (by decide)
@[simp] theorem changeSparing_fab : (changeSparing f k g s).fab = s.fab :=
  changeSparing_within ⟨rfl⟩ (Within.refl [.las] _) .fab (by decide)
@[simp] theorem changeSparing_pow : (changeSparing f k g s).pow = s.pow :=
  changeSparing_within ⟨rfl⟩ (Within.refl [.las] _) .pow (by decide)
@[simp] theorem changeSparing_sec : (changeSparing f k g s).sec = s.sec :=
  changeSparing_within ⟨rfl⟩ (Within.refl [.las] _) .sec (by decide)
@[simp] theorem changeSparing_twin : (changeSparing f k g s).twin = s.twin :=
  changeSparing_within ⟨rfl⟩ (Within.refl [.las] _) .twin (by decide)
@[simp] theorem changeSparing_pending : (changeSparing f k g s).pending = s.pending :=
  changeSparing_within ⟨rfl⟩ (Within.refl [.las] _) .queue (by decide)
@[simp] theorem changeSparing_hen : (changeSparing f k g s).hen = s.hen :=
  Within.hen_eq (changeSparing_within ⟨rfl⟩ (Within.refl [.las] _)) (by decide) (by decide)

end

section
variable {bit : Nat} {s : State}

@[simp] theorem notify_now : (notify bit s).now = s.now :=
  notify_within ⟨rfl⟩ (Within.refl [.host] _) .now (by decide)
@[simp] theorem notify_freeDrawn : (notify bit s).freeDrawn = s.freeDrawn :=
  notify_within ⟨rfl⟩ (Within.refl [.host] _) .free (by decide)
@[simp] theorem notify_counters : (notify bit s).counters = s.counters :=
  notify_within ⟨rfl⟩ (Within.refl [.host] _) .counters (by decide)
@[simp] theorem notify_dict : (notify bit s).dict = s.dict :=
  notify_within ⟨rfl⟩ (Within.refl [.host] _) .dict (by decide)
@[simp] theorem notify_om : (notify bit s).om = s.om :=
  notify_within ⟨rfl⟩ (Within.refl [.host] _) .om (by decide)
@[simp] theorem notify_frame : (notify bit s).frame = s.frame :=
  notify_within ⟨rfl⟩ (Within.refl [.host] _) .frame (by decide)
@[simp] theorem notify_start : (notify bit s).start = s.start :=
  notify_within ⟨rfl⟩ (Within.refl [.host] _) .start (by decide)
@[simp] theorem notify_spad : (notify bit s).spad = s.spad :=
  notify_within ⟨rfl⟩ (Within.refl [.host] _) .spad (by decide)
@[simp] theorem notify_arith : (notify bit s).arith = s.arith :=
  notify_within ⟨rfl⟩ (Within.refl [.host] _) .arith (by decide)
@[simp] theorem notify_parts : (notify bit s).parts = s.parts :=
  notify_within ⟨rfl⟩ (Within.refl [.host] _) .parts (by decide)
@[simp] theorem notify_dma : (notify bit s).dma = s.dma :=
  notify_within ⟨rfl⟩ (Within.refl [.host] _) .dma (by decide)
@[simp] theorem notify_dram : (notify bit s).dram = s.dram :=
  notify_within ⟨rfl⟩ (Within.refl [.host] _) .dram (by decide)
@[simp] theorem notify_clk : (notify bit s).clk = s.clk :=
  notify_within ⟨rfl⟩ (Within.refl [.host] _) .clk (by decide)
@[simp] theorem notify_pho : (notify bit s).pho = s.pho :=
  notify_within ⟨rfl⟩ (Within.refl [.host] _) .pho (by decide)
@[simp] theorem notify_sums : (notify bit s).sums = s.sums :=
  notify_within ⟨rfl⟩ (Within.refl [.host] _) .sums (by decide)
@[simp] theorem notify_lanes : (notify bit s).lanes = s.lanes :=
  notify_within ⟨rfl⟩ (Within.refl [.host] _) .lanes (by decide)
@[simp] theorem notify_las : (notify bit s).las = s.las :=
  notify_within ⟨rfl⟩ (Within.refl [.host] _) .las (by decide)
@[simp] theorem notify_ver : (notify bit s).ver = s.ver :=
  notify_within ⟨rfl⟩ (Within.refl [.host] _) .ver (by decide)
@[simp] theorem notify_fab : (notify bit s).fab = s.fab :=
  notify_within ⟨rfl⟩ (Within.refl [.host] _) .fab (by decide)
@[simp] theorem notify_pow : (notify bit s).pow = s.pow :=
  notify_within ⟨rfl⟩ (Within.refl [.host] _) .pow (by decide)
@[simp] theorem notify_sec : (notify bit s).sec = s.sec :=
  notify_within ⟨rfl⟩ (Within.refl [.host] _) .sec (by decide)
@[simp] theorem notify_twin : (notify bit s).twin = s.twin :=
  notify_within ⟨rfl⟩ (Within.refl [.host] _) .twin (by decide)
@[simp] theorem notify_pending : (notify bit s).pending = s.pending :=
  notify_within ⟨rfl⟩ (Within.refl [.host] _) .queue (by decide)
@[simp] theorem notify_hen : (notify bit s).hen = s.hen :=
  Within.hen_eq (notify_within ⟨rfl⟩ (Within.refl [.host] _)) (by decide) (by decide)

end

section
variable {t : Nat} {f : Stack → Stack} {s : State}

@[simp] theorem changeStack_now : (changeStack t f s).now = s.now :=
  changeStack_within ⟨rfl⟩ (Within.refl [.dram] _) .now (by decide)
@[simp] theorem changeStack_freeDrawn : (changeStack t f s).freeDrawn = s.freeDrawn :=
  changeStack_within ⟨rfl⟩ (Within.refl [.dram] _) .free (by decide)
@[simp] theorem changeStack_counters : (changeStack t f s).counters = s.counters :=
  changeStack_within ⟨rfl⟩ (Within.refl [.dram] _) .counters (by decide)
@[simp] theorem changeStack_dict : (changeStack t f s).dict = s.dict :=
  changeStack_within ⟨rfl⟩ (Within.refl [.dram] _) .dict (by decide)
@[simp] theorem changeStack_om : (changeStack t f s).om = s.om :=
  changeStack_within ⟨rfl⟩ (Within.refl [.dram] _) .om (by decide)
@[simp] theorem changeStack_frame : (changeStack t f s).frame = s.frame :=
  changeStack_within ⟨rfl⟩ (Within.refl [.dram] _) .frame (by decide)
@[simp] theorem changeStack_start : (changeStack t f s).start = s.start :=
  changeStack_within ⟨rfl⟩ (Within.refl [.dram] _) .start (by decide)
@[simp] theorem changeStack_spad : (changeStack t f s).spad = s.spad :=
  changeStack_within ⟨rfl⟩ (Within.refl [.dram] _) .spad (by decide)
@[simp] theorem changeStack_arith : (changeStack t f s).arith = s.arith :=
  changeStack_within ⟨rfl⟩ (Within.refl [.dram] _) .arith (by decide)
@[simp] theorem changeStack_parts : (changeStack t f s).parts = s.parts :=
  changeStack_within ⟨rfl⟩ (Within.refl [.dram] _) .parts (by decide)
@[simp] theorem changeStack_dma : (changeStack t f s).dma = s.dma :=
  changeStack_within ⟨rfl⟩ (Within.refl [.dram] _) .dma (by decide)
@[simp] theorem changeStack_clk : (changeStack t f s).clk = s.clk :=
  changeStack_within ⟨rfl⟩ (Within.refl [.dram] _) .clk (by decide)
@[simp] theorem changeStack_host : (changeStack t f s).host = s.host :=
  changeStack_within ⟨rfl⟩ (Within.refl [.dram] _) .host (by decide)
@[simp] theorem changeStack_pho : (changeStack t f s).pho = s.pho :=
  changeStack_within ⟨rfl⟩ (Within.refl [.dram] _) .pho (by decide)
@[simp] theorem changeStack_sums : (changeStack t f s).sums = s.sums :=
  changeStack_within ⟨rfl⟩ (Within.refl [.dram] _) .sums (by decide)
@[simp] theorem changeStack_lanes : (changeStack t f s).lanes = s.lanes :=
  changeStack_within ⟨rfl⟩ (Within.refl [.dram] _) .lanes (by decide)
@[simp] theorem changeStack_las : (changeStack t f s).las = s.las :=
  changeStack_within ⟨rfl⟩ (Within.refl [.dram] _) .las (by decide)
@[simp] theorem changeStack_ver : (changeStack t f s).ver = s.ver :=
  changeStack_within ⟨rfl⟩ (Within.refl [.dram] _) .ver (by decide)
@[simp] theorem changeStack_fab : (changeStack t f s).fab = s.fab :=
  changeStack_within ⟨rfl⟩ (Within.refl [.dram] _) .fab (by decide)
@[simp] theorem changeStack_pow : (changeStack t f s).pow = s.pow :=
  changeStack_within ⟨rfl⟩ (Within.refl [.dram] _) .pow (by decide)
@[simp] theorem changeStack_sec : (changeStack t f s).sec = s.sec :=
  changeStack_within ⟨rfl⟩ (Within.refl [.dram] _) .sec (by decide)
@[simp] theorem changeStack_twin : (changeStack t f s).twin = s.twin :=
  changeStack_within ⟨rfl⟩ (Within.refl [.dram] _) .twin (by decide)
@[simp] theorem changeStack_pending : (changeStack t f s).pending = s.pending :=
  changeStack_within ⟨rfl⟩ (Within.refl [.dram] _) .queue (by decide)
@[simp] theorem changeStack_hen : (changeStack t f s).hen = s.hen :=
  Within.hen_eq (changeStack_within ⟨rfl⟩ (Within.refl [.dram] _)) (by decide) (by decide)

end

section
variable {i : Nat} {f : Diode → Diode} {s : State}

@[simp] theorem changeDiode_now : (changeDiode i f s).now = s.now :=
  changeDiode_within ⟨rfl⟩ (Within.refl [.pow] _) .now (by decide)
@[simp] theorem changeDiode_freeDrawn : (changeDiode i f s).freeDrawn = s.freeDrawn :=
  changeDiode_within ⟨rfl⟩ (Within.refl [.pow] _) .free (by decide)
@[simp] theorem changeDiode_counters : (changeDiode i f s).counters = s.counters :=
  changeDiode_within ⟨rfl⟩ (Within.refl [.pow] _) .counters (by decide)
@[simp] theorem changeDiode_dict : (changeDiode i f s).dict = s.dict :=
  changeDiode_within ⟨rfl⟩ (Within.refl [.pow] _) .dict (by decide)
@[simp] theorem changeDiode_om : (changeDiode i f s).om = s.om :=
  changeDiode_within ⟨rfl⟩ (Within.refl [.pow] _) .om (by decide)
@[simp] theorem changeDiode_frame : (changeDiode i f s).frame = s.frame :=
  changeDiode_within ⟨rfl⟩ (Within.refl [.pow] _) .frame (by decide)
@[simp] theorem changeDiode_start : (changeDiode i f s).start = s.start :=
  changeDiode_within ⟨rfl⟩ (Within.refl [.pow] _) .start (by decide)
@[simp] theorem changeDiode_spad : (changeDiode i f s).spad = s.spad :=
  changeDiode_within ⟨rfl⟩ (Within.refl [.pow] _) .spad (by decide)
@[simp] theorem changeDiode_arith : (changeDiode i f s).arith = s.arith :=
  changeDiode_within ⟨rfl⟩ (Within.refl [.pow] _) .arith (by decide)
@[simp] theorem changeDiode_parts : (changeDiode i f s).parts = s.parts :=
  changeDiode_within ⟨rfl⟩ (Within.refl [.pow] _) .parts (by decide)
@[simp] theorem changeDiode_dma : (changeDiode i f s).dma = s.dma :=
  changeDiode_within ⟨rfl⟩ (Within.refl [.pow] _) .dma (by decide)
@[simp] theorem changeDiode_dram : (changeDiode i f s).dram = s.dram :=
  changeDiode_within ⟨rfl⟩ (Within.refl [.pow] _) .dram (by decide)
@[simp] theorem changeDiode_clk : (changeDiode i f s).clk = s.clk :=
  changeDiode_within ⟨rfl⟩ (Within.refl [.pow] _) .clk (by decide)
@[simp] theorem changeDiode_host : (changeDiode i f s).host = s.host :=
  changeDiode_within ⟨rfl⟩ (Within.refl [.pow] _) .host (by decide)
@[simp] theorem changeDiode_pho : (changeDiode i f s).pho = s.pho :=
  changeDiode_within ⟨rfl⟩ (Within.refl [.pow] _) .pho (by decide)
@[simp] theorem changeDiode_sums : (changeDiode i f s).sums = s.sums :=
  changeDiode_within ⟨rfl⟩ (Within.refl [.pow] _) .sums (by decide)
@[simp] theorem changeDiode_lanes : (changeDiode i f s).lanes = s.lanes :=
  changeDiode_within ⟨rfl⟩ (Within.refl [.pow] _) .lanes (by decide)
@[simp] theorem changeDiode_las : (changeDiode i f s).las = s.las :=
  changeDiode_within ⟨rfl⟩ (Within.refl [.pow] _) .las (by decide)
@[simp] theorem changeDiode_ver : (changeDiode i f s).ver = s.ver :=
  changeDiode_within ⟨rfl⟩ (Within.refl [.pow] _) .ver (by decide)
@[simp] theorem changeDiode_fab : (changeDiode i f s).fab = s.fab :=
  changeDiode_within ⟨rfl⟩ (Within.refl [.pow] _) .fab (by decide)
@[simp] theorem changeDiode_sec : (changeDiode i f s).sec = s.sec :=
  changeDiode_within ⟨rfl⟩ (Within.refl [.pow] _) .sec (by decide)
@[simp] theorem changeDiode_twin : (changeDiode i f s).twin = s.twin :=
  changeDiode_within ⟨rfl⟩ (Within.refl [.pow] _) .twin (by decide)
@[simp] theorem changeDiode_pending : (changeDiode i f s).pending = s.pending :=
  changeDiode_within ⟨rfl⟩ (Within.refl [.pow] _) .queue (by decide)
@[simp] theorem changeDiode_hen : (changeDiode i f s).hen = s.hen :=
  Within.hen_eq (changeDiode_within ⟨rfl⟩ (Within.refl [.pow] _)) (by decide) (by decide)

end

section
variable {r : Nat} {f : Discovery → Discovery} {s : State}

@[simp] theorem changeDiscovery_now : (changeDiscovery r f s).now = s.now :=
  changeDiscovery_within ⟨rfl⟩ (Within.refl [.ver] _) .now (by decide)
@[simp] theorem changeDiscovery_freeDrawn : (changeDiscovery r f s).freeDrawn = s.freeDrawn :=
  changeDiscovery_within ⟨rfl⟩ (Within.refl [.ver] _) .free (by decide)
@[simp] theorem changeDiscovery_counters : (changeDiscovery r f s).counters = s.counters :=
  changeDiscovery_within ⟨rfl⟩ (Within.refl [.ver] _) .counters (by decide)
@[simp] theorem changeDiscovery_dict : (changeDiscovery r f s).dict = s.dict :=
  changeDiscovery_within ⟨rfl⟩ (Within.refl [.ver] _) .dict (by decide)
@[simp] theorem changeDiscovery_om : (changeDiscovery r f s).om = s.om :=
  changeDiscovery_within ⟨rfl⟩ (Within.refl [.ver] _) .om (by decide)
@[simp] theorem changeDiscovery_frame : (changeDiscovery r f s).frame = s.frame :=
  changeDiscovery_within ⟨rfl⟩ (Within.refl [.ver] _) .frame (by decide)
@[simp] theorem changeDiscovery_start : (changeDiscovery r f s).start = s.start :=
  changeDiscovery_within ⟨rfl⟩ (Within.refl [.ver] _) .start (by decide)
@[simp] theorem changeDiscovery_spad : (changeDiscovery r f s).spad = s.spad :=
  changeDiscovery_within ⟨rfl⟩ (Within.refl [.ver] _) .spad (by decide)
@[simp] theorem changeDiscovery_arith : (changeDiscovery r f s).arith = s.arith :=
  changeDiscovery_within ⟨rfl⟩ (Within.refl [.ver] _) .arith (by decide)
@[simp] theorem changeDiscovery_parts : (changeDiscovery r f s).parts = s.parts :=
  changeDiscovery_within ⟨rfl⟩ (Within.refl [.ver] _) .parts (by decide)
@[simp] theorem changeDiscovery_dma : (changeDiscovery r f s).dma = s.dma :=
  changeDiscovery_within ⟨rfl⟩ (Within.refl [.ver] _) .dma (by decide)
@[simp] theorem changeDiscovery_dram : (changeDiscovery r f s).dram = s.dram :=
  changeDiscovery_within ⟨rfl⟩ (Within.refl [.ver] _) .dram (by decide)
@[simp] theorem changeDiscovery_clk : (changeDiscovery r f s).clk = s.clk :=
  changeDiscovery_within ⟨rfl⟩ (Within.refl [.ver] _) .clk (by decide)
@[simp] theorem changeDiscovery_host : (changeDiscovery r f s).host = s.host :=
  changeDiscovery_within ⟨rfl⟩ (Within.refl [.ver] _) .host (by decide)
@[simp] theorem changeDiscovery_pho : (changeDiscovery r f s).pho = s.pho :=
  changeDiscovery_within ⟨rfl⟩ (Within.refl [.ver] _) .pho (by decide)
@[simp] theorem changeDiscovery_sums : (changeDiscovery r f s).sums = s.sums :=
  changeDiscovery_within ⟨rfl⟩ (Within.refl [.ver] _) .sums (by decide)
@[simp] theorem changeDiscovery_lanes : (changeDiscovery r f s).lanes = s.lanes :=
  changeDiscovery_within ⟨rfl⟩ (Within.refl [.ver] _) .lanes (by decide)
@[simp] theorem changeDiscovery_las : (changeDiscovery r f s).las = s.las :=
  changeDiscovery_within ⟨rfl⟩ (Within.refl [.ver] _) .las (by decide)
@[simp] theorem changeDiscovery_fab : (changeDiscovery r f s).fab = s.fab :=
  changeDiscovery_within ⟨rfl⟩ (Within.refl [.ver] _) .fab (by decide)
@[simp] theorem changeDiscovery_pow : (changeDiscovery r f s).pow = s.pow :=
  changeDiscovery_within ⟨rfl⟩ (Within.refl [.ver] _) .pow (by decide)
@[simp] theorem changeDiscovery_sec : (changeDiscovery r f s).sec = s.sec :=
  changeDiscovery_within ⟨rfl⟩ (Within.refl [.ver] _) .sec (by decide)
@[simp] theorem changeDiscovery_twin : (changeDiscovery r f s).twin = s.twin :=
  changeDiscovery_within ⟨rfl⟩ (Within.refl [.ver] _) .twin (by decide)
@[simp] theorem changeDiscovery_pending : (changeDiscovery r f s).pending = s.pending :=
  changeDiscovery_within ⟨rfl⟩ (Within.refl [.ver] _) .queue (by decide)
@[simp] theorem changeDiscovery_hen : (changeDiscovery r f s).hen = s.hen :=
  Within.hen_eq (changeDiscovery_within ⟨rfl⟩ (Within.refl [.ver] _)) (by decide) (by decide)

end

section
variable {b : Nat} {f : BaseDieState → BaseDieState} {s : State}

@[simp] theorem changeBase_now : (changeBase b f s).now = s.now :=
  changeBase_within ⟨rfl⟩ (Within.refl [.ver] _) .now (by decide)
@[simp] theorem changeBase_freeDrawn : (changeBase b f s).freeDrawn = s.freeDrawn :=
  changeBase_within ⟨rfl⟩ (Within.refl [.ver] _) .free (by decide)
@[simp] theorem changeBase_counters : (changeBase b f s).counters = s.counters :=
  changeBase_within ⟨rfl⟩ (Within.refl [.ver] _) .counters (by decide)
@[simp] theorem changeBase_dict : (changeBase b f s).dict = s.dict :=
  changeBase_within ⟨rfl⟩ (Within.refl [.ver] _) .dict (by decide)
@[simp] theorem changeBase_om : (changeBase b f s).om = s.om :=
  changeBase_within ⟨rfl⟩ (Within.refl [.ver] _) .om (by decide)
@[simp] theorem changeBase_frame : (changeBase b f s).frame = s.frame :=
  changeBase_within ⟨rfl⟩ (Within.refl [.ver] _) .frame (by decide)
@[simp] theorem changeBase_start : (changeBase b f s).start = s.start :=
  changeBase_within ⟨rfl⟩ (Within.refl [.ver] _) .start (by decide)
@[simp] theorem changeBase_spad : (changeBase b f s).spad = s.spad :=
  changeBase_within ⟨rfl⟩ (Within.refl [.ver] _) .spad (by decide)
@[simp] theorem changeBase_arith : (changeBase b f s).arith = s.arith :=
  changeBase_within ⟨rfl⟩ (Within.refl [.ver] _) .arith (by decide)
@[simp] theorem changeBase_parts : (changeBase b f s).parts = s.parts :=
  changeBase_within ⟨rfl⟩ (Within.refl [.ver] _) .parts (by decide)
@[simp] theorem changeBase_dma : (changeBase b f s).dma = s.dma :=
  changeBase_within ⟨rfl⟩ (Within.refl [.ver] _) .dma (by decide)
@[simp] theorem changeBase_dram : (changeBase b f s).dram = s.dram :=
  changeBase_within ⟨rfl⟩ (Within.refl [.ver] _) .dram (by decide)
@[simp] theorem changeBase_clk : (changeBase b f s).clk = s.clk :=
  changeBase_within ⟨rfl⟩ (Within.refl [.ver] _) .clk (by decide)
@[simp] theorem changeBase_host : (changeBase b f s).host = s.host :=
  changeBase_within ⟨rfl⟩ (Within.refl [.ver] _) .host (by decide)
@[simp] theorem changeBase_pho : (changeBase b f s).pho = s.pho :=
  changeBase_within ⟨rfl⟩ (Within.refl [.ver] _) .pho (by decide)
@[simp] theorem changeBase_sums : (changeBase b f s).sums = s.sums :=
  changeBase_within ⟨rfl⟩ (Within.refl [.ver] _) .sums (by decide)
@[simp] theorem changeBase_lanes : (changeBase b f s).lanes = s.lanes :=
  changeBase_within ⟨rfl⟩ (Within.refl [.ver] _) .lanes (by decide)
@[simp] theorem changeBase_las : (changeBase b f s).las = s.las :=
  changeBase_within ⟨rfl⟩ (Within.refl [.ver] _) .las (by decide)
@[simp] theorem changeBase_fab : (changeBase b f s).fab = s.fab :=
  changeBase_within ⟨rfl⟩ (Within.refl [.ver] _) .fab (by decide)
@[simp] theorem changeBase_pow : (changeBase b f s).pow = s.pow :=
  changeBase_within ⟨rfl⟩ (Within.refl [.ver] _) .pow (by decide)
@[simp] theorem changeBase_sec : (changeBase b f s).sec = s.sec :=
  changeBase_within ⟨rfl⟩ (Within.refl [.ver] _) .sec (by decide)
@[simp] theorem changeBase_twin : (changeBase b f s).twin = s.twin :=
  changeBase_within ⟨rfl⟩ (Within.refl [.ver] _) .twin (by decide)
@[simp] theorem changeBase_pending : (changeBase b f s).pending = s.pending :=
  changeBase_within ⟨rfl⟩ (Within.refl [.ver] _) .queue (by decide)
@[simp] theorem changeBase_hen : (changeBase b f s).hen = s.hen :=
  Within.hen_eq (changeBase_within ⟨rfl⟩ (Within.refl [.ver] _)) (by decide) (by decide)

end

section
variable {o : FabricReq} {f : FabricReq → FabricReq} {s : State}

@[simp] theorem changeRequest_now : (changeRequest o f s).now = s.now :=
  changeRequest_within ⟨rfl⟩ (Within.refl [.fab] _) .now (by decide)
@[simp] theorem changeRequest_freeDrawn : (changeRequest o f s).freeDrawn = s.freeDrawn :=
  changeRequest_within ⟨rfl⟩ (Within.refl [.fab] _) .free (by decide)
@[simp] theorem changeRequest_counters : (changeRequest o f s).counters = s.counters :=
  changeRequest_within ⟨rfl⟩ (Within.refl [.fab] _) .counters (by decide)
@[simp] theorem changeRequest_dict : (changeRequest o f s).dict = s.dict :=
  changeRequest_within ⟨rfl⟩ (Within.refl [.fab] _) .dict (by decide)
@[simp] theorem changeRequest_om : (changeRequest o f s).om = s.om :=
  changeRequest_within ⟨rfl⟩ (Within.refl [.fab] _) .om (by decide)
@[simp] theorem changeRequest_frame : (changeRequest o f s).frame = s.frame :=
  changeRequest_within ⟨rfl⟩ (Within.refl [.fab] _) .frame (by decide)
@[simp] theorem changeRequest_start : (changeRequest o f s).start = s.start :=
  changeRequest_within ⟨rfl⟩ (Within.refl [.fab] _) .start (by decide)
@[simp] theorem changeRequest_spad : (changeRequest o f s).spad = s.spad :=
  changeRequest_within ⟨rfl⟩ (Within.refl [.fab] _) .spad (by decide)
@[simp] theorem changeRequest_arith : (changeRequest o f s).arith = s.arith :=
  changeRequest_within ⟨rfl⟩ (Within.refl [.fab] _) .arith (by decide)
@[simp] theorem changeRequest_parts : (changeRequest o f s).parts = s.parts :=
  changeRequest_within ⟨rfl⟩ (Within.refl [.fab] _) .parts (by decide)
@[simp] theorem changeRequest_dma : (changeRequest o f s).dma = s.dma :=
  changeRequest_within ⟨rfl⟩ (Within.refl [.fab] _) .dma (by decide)
@[simp] theorem changeRequest_dram : (changeRequest o f s).dram = s.dram :=
  changeRequest_within ⟨rfl⟩ (Within.refl [.fab] _) .dram (by decide)
@[simp] theorem changeRequest_clk : (changeRequest o f s).clk = s.clk :=
  changeRequest_within ⟨rfl⟩ (Within.refl [.fab] _) .clk (by decide)
@[simp] theorem changeRequest_host : (changeRequest o f s).host = s.host :=
  changeRequest_within ⟨rfl⟩ (Within.refl [.fab] _) .host (by decide)
@[simp] theorem changeRequest_pho : (changeRequest o f s).pho = s.pho :=
  changeRequest_within ⟨rfl⟩ (Within.refl [.fab] _) .pho (by decide)
@[simp] theorem changeRequest_sums : (changeRequest o f s).sums = s.sums :=
  changeRequest_within ⟨rfl⟩ (Within.refl [.fab] _) .sums (by decide)
@[simp] theorem changeRequest_lanes : (changeRequest o f s).lanes = s.lanes :=
  changeRequest_within ⟨rfl⟩ (Within.refl [.fab] _) .lanes (by decide)
@[simp] theorem changeRequest_las : (changeRequest o f s).las = s.las :=
  changeRequest_within ⟨rfl⟩ (Within.refl [.fab] _) .las (by decide)
@[simp] theorem changeRequest_ver : (changeRequest o f s).ver = s.ver :=
  changeRequest_within ⟨rfl⟩ (Within.refl [.fab] _) .ver (by decide)
@[simp] theorem changeRequest_pow : (changeRequest o f s).pow = s.pow :=
  changeRequest_within ⟨rfl⟩ (Within.refl [.fab] _) .pow (by decide)
@[simp] theorem changeRequest_sec : (changeRequest o f s).sec = s.sec :=
  changeRequest_within ⟨rfl⟩ (Within.refl [.fab] _) .sec (by decide)
@[simp] theorem changeRequest_twin : (changeRequest o f s).twin = s.twin :=
  changeRequest_within ⟨rfl⟩ (Within.refl [.fab] _) .twin (by decide)
@[simp] theorem changeRequest_pending : (changeRequest o f s).pending = s.pending :=
  changeRequest_within ⟨rfl⟩ (Within.refl [.fab] _) .queue (by decide)
@[simp] theorem changeRequest_hen : (changeRequest o f s).hen = s.hen :=
  Within.hen_eq (changeRequest_within ⟨rfl⟩ (Within.refl [.fab] _)) (by decide) (by decide)

end

section
variable {t : Nat} {f : Reference → Reference} {s : State}

@[simp] theorem changeReference_now : (changeReference t f s).now = s.now :=
  changeReference_within ⟨rfl⟩ (Within.refl [.clk] _) .now (by decide)
@[simp] theorem changeReference_freeDrawn : (changeReference t f s).freeDrawn = s.freeDrawn :=
  changeReference_within ⟨rfl⟩ (Within.refl [.clk] _) .free (by decide)
@[simp] theorem changeReference_counters : (changeReference t f s).counters = s.counters :=
  changeReference_within ⟨rfl⟩ (Within.refl [.clk] _) .counters (by decide)
@[simp] theorem changeReference_dict : (changeReference t f s).dict = s.dict :=
  changeReference_within ⟨rfl⟩ (Within.refl [.clk] _) .dict (by decide)
@[simp] theorem changeReference_om : (changeReference t f s).om = s.om :=
  changeReference_within ⟨rfl⟩ (Within.refl [.clk] _) .om (by decide)
@[simp] theorem changeReference_frame : (changeReference t f s).frame = s.frame :=
  changeReference_within ⟨rfl⟩ (Within.refl [.clk] _) .frame (by decide)
@[simp] theorem changeReference_start : (changeReference t f s).start = s.start :=
  changeReference_within ⟨rfl⟩ (Within.refl [.clk] _) .start (by decide)
@[simp] theorem changeReference_spad : (changeReference t f s).spad = s.spad :=
  changeReference_within ⟨rfl⟩ (Within.refl [.clk] _) .spad (by decide)
@[simp] theorem changeReference_arith : (changeReference t f s).arith = s.arith :=
  changeReference_within ⟨rfl⟩ (Within.refl [.clk] _) .arith (by decide)
@[simp] theorem changeReference_parts : (changeReference t f s).parts = s.parts :=
  changeReference_within ⟨rfl⟩ (Within.refl [.clk] _) .parts (by decide)
@[simp] theorem changeReference_dma : (changeReference t f s).dma = s.dma :=
  changeReference_within ⟨rfl⟩ (Within.refl [.clk] _) .dma (by decide)
@[simp] theorem changeReference_dram : (changeReference t f s).dram = s.dram :=
  changeReference_within ⟨rfl⟩ (Within.refl [.clk] _) .dram (by decide)
@[simp] theorem changeReference_host : (changeReference t f s).host = s.host :=
  changeReference_within ⟨rfl⟩ (Within.refl [.clk] _) .host (by decide)
@[simp] theorem changeReference_pho : (changeReference t f s).pho = s.pho :=
  changeReference_within ⟨rfl⟩ (Within.refl [.clk] _) .pho (by decide)
@[simp] theorem changeReference_sums : (changeReference t f s).sums = s.sums :=
  changeReference_within ⟨rfl⟩ (Within.refl [.clk] _) .sums (by decide)
@[simp] theorem changeReference_lanes : (changeReference t f s).lanes = s.lanes :=
  changeReference_within ⟨rfl⟩ (Within.refl [.clk] _) .lanes (by decide)
@[simp] theorem changeReference_las : (changeReference t f s).las = s.las :=
  changeReference_within ⟨rfl⟩ (Within.refl [.clk] _) .las (by decide)
@[simp] theorem changeReference_ver : (changeReference t f s).ver = s.ver :=
  changeReference_within ⟨rfl⟩ (Within.refl [.clk] _) .ver (by decide)
@[simp] theorem changeReference_fab : (changeReference t f s).fab = s.fab :=
  changeReference_within ⟨rfl⟩ (Within.refl [.clk] _) .fab (by decide)
@[simp] theorem changeReference_pow : (changeReference t f s).pow = s.pow :=
  changeReference_within ⟨rfl⟩ (Within.refl [.clk] _) .pow (by decide)
@[simp] theorem changeReference_sec : (changeReference t f s).sec = s.sec :=
  changeReference_within ⟨rfl⟩ (Within.refl [.clk] _) .sec (by decide)
@[simp] theorem changeReference_twin : (changeReference t f s).twin = s.twin :=
  changeReference_within ⟨rfl⟩ (Within.refl [.clk] _) .twin (by decide)
@[simp] theorem changeReference_pending : (changeReference t f s).pending = s.pending :=
  changeReference_within ⟨rfl⟩ (Within.refl [.clk] _) .queue (by decide)
@[simp] theorem changeReference_hen : (changeReference t f s).hen = s.hen :=
  Within.hen_eq (changeReference_within ⟨rfl⟩ (Within.refl [.clk] _)) (by decide) (by decide)

end

section
variable {t : Nat} {r : Nat} {reading : Nat} {s : State}

@[simp] theorem noteReading_now : (noteReading t r reading s).now = s.now :=
  noteReading_within ⟨rfl⟩ (Within.refl [.clk] _) .now (by decide)
@[simp] theorem noteReading_freeDrawn : (noteReading t r reading s).freeDrawn = s.freeDrawn :=
  noteReading_within ⟨rfl⟩ (Within.refl [.clk] _) .free (by decide)
@[simp] theorem noteReading_counters : (noteReading t r reading s).counters = s.counters :=
  noteReading_within ⟨rfl⟩ (Within.refl [.clk] _) .counters (by decide)
@[simp] theorem noteReading_dict : (noteReading t r reading s).dict = s.dict :=
  noteReading_within ⟨rfl⟩ (Within.refl [.clk] _) .dict (by decide)
@[simp] theorem noteReading_om : (noteReading t r reading s).om = s.om :=
  noteReading_within ⟨rfl⟩ (Within.refl [.clk] _) .om (by decide)
@[simp] theorem noteReading_frame : (noteReading t r reading s).frame = s.frame :=
  noteReading_within ⟨rfl⟩ (Within.refl [.clk] _) .frame (by decide)
@[simp] theorem noteReading_start : (noteReading t r reading s).start = s.start :=
  noteReading_within ⟨rfl⟩ (Within.refl [.clk] _) .start (by decide)
@[simp] theorem noteReading_spad : (noteReading t r reading s).spad = s.spad :=
  noteReading_within ⟨rfl⟩ (Within.refl [.clk] _) .spad (by decide)
@[simp] theorem noteReading_arith : (noteReading t r reading s).arith = s.arith :=
  noteReading_within ⟨rfl⟩ (Within.refl [.clk] _) .arith (by decide)
@[simp] theorem noteReading_parts : (noteReading t r reading s).parts = s.parts :=
  noteReading_within ⟨rfl⟩ (Within.refl [.clk] _) .parts (by decide)
@[simp] theorem noteReading_dma : (noteReading t r reading s).dma = s.dma :=
  noteReading_within ⟨rfl⟩ (Within.refl [.clk] _) .dma (by decide)
@[simp] theorem noteReading_dram : (noteReading t r reading s).dram = s.dram :=
  noteReading_within ⟨rfl⟩ (Within.refl [.clk] _) .dram (by decide)
@[simp] theorem noteReading_host : (noteReading t r reading s).host = s.host :=
  noteReading_within ⟨rfl⟩ (Within.refl [.clk] _) .host (by decide)
@[simp] theorem noteReading_pho : (noteReading t r reading s).pho = s.pho :=
  noteReading_within ⟨rfl⟩ (Within.refl [.clk] _) .pho (by decide)
@[simp] theorem noteReading_sums : (noteReading t r reading s).sums = s.sums :=
  noteReading_within ⟨rfl⟩ (Within.refl [.clk] _) .sums (by decide)
@[simp] theorem noteReading_lanes : (noteReading t r reading s).lanes = s.lanes :=
  noteReading_within ⟨rfl⟩ (Within.refl [.clk] _) .lanes (by decide)
@[simp] theorem noteReading_las : (noteReading t r reading s).las = s.las :=
  noteReading_within ⟨rfl⟩ (Within.refl [.clk] _) .las (by decide)
@[simp] theorem noteReading_ver : (noteReading t r reading s).ver = s.ver :=
  noteReading_within ⟨rfl⟩ (Within.refl [.clk] _) .ver (by decide)
@[simp] theorem noteReading_fab : (noteReading t r reading s).fab = s.fab :=
  noteReading_within ⟨rfl⟩ (Within.refl [.clk] _) .fab (by decide)
@[simp] theorem noteReading_pow : (noteReading t r reading s).pow = s.pow :=
  noteReading_within ⟨rfl⟩ (Within.refl [.clk] _) .pow (by decide)
@[simp] theorem noteReading_sec : (noteReading t r reading s).sec = s.sec :=
  noteReading_within ⟨rfl⟩ (Within.refl [.clk] _) .sec (by decide)
@[simp] theorem noteReading_twin : (noteReading t r reading s).twin = s.twin :=
  noteReading_within ⟨rfl⟩ (Within.refl [.clk] _) .twin (by decide)
@[simp] theorem noteReading_pending : (noteReading t r reading s).pending = s.pending :=
  noteReading_within ⟨rfl⟩ (Within.refl [.clk] _) .queue (by decide)
@[simp] theorem noteReading_hen : (noteReading t r reading s).hen = s.hen :=
  Within.hen_eq (noteReading_within ⟨rfl⟩ (Within.refl [.clk] _)) (by decide) (by decide)

end

section
variable {good : Bool} {s : State}

@[simp] theorem changeB_now : (changeB good s).now = s.now :=
  changeB_within ⟨rfl⟩ (Within.refl [.events, .pow] _) .now (by decide)
@[simp] theorem changeB_freeDrawn : (changeB good s).freeDrawn = s.freeDrawn :=
  changeB_within ⟨rfl⟩ (Within.refl [.events, .pow] _) .free (by decide)
@[simp] theorem changeB_counters : (changeB good s).counters = s.counters :=
  changeB_within ⟨rfl⟩ (Within.refl [.events, .pow] _) .counters (by decide)
@[simp] theorem changeB_dict : (changeB good s).dict = s.dict :=
  changeB_within ⟨rfl⟩ (Within.refl [.events, .pow] _) .dict (by decide)
@[simp] theorem changeB_om : (changeB good s).om = s.om :=
  changeB_within ⟨rfl⟩ (Within.refl [.events, .pow] _) .om (by decide)
@[simp] theorem changeB_frame : (changeB good s).frame = s.frame :=
  changeB_within ⟨rfl⟩ (Within.refl [.events, .pow] _) .frame (by decide)
@[simp] theorem changeB_start : (changeB good s).start = s.start :=
  changeB_within ⟨rfl⟩ (Within.refl [.events, .pow] _) .start (by decide)
@[simp] theorem changeB_spad : (changeB good s).spad = s.spad :=
  changeB_within ⟨rfl⟩ (Within.refl [.events, .pow] _) .spad (by decide)
@[simp] theorem changeB_arith : (changeB good s).arith = s.arith :=
  changeB_within ⟨rfl⟩ (Within.refl [.events, .pow] _) .arith (by decide)
@[simp] theorem changeB_parts : (changeB good s).parts = s.parts :=
  changeB_within ⟨rfl⟩ (Within.refl [.events, .pow] _) .parts (by decide)
@[simp] theorem changeB_dma : (changeB good s).dma = s.dma :=
  changeB_within ⟨rfl⟩ (Within.refl [.events, .pow] _) .dma (by decide)
@[simp] theorem changeB_dram : (changeB good s).dram = s.dram :=
  changeB_within ⟨rfl⟩ (Within.refl [.events, .pow] _) .dram (by decide)
@[simp] theorem changeB_clk : (changeB good s).clk = s.clk :=
  changeB_within ⟨rfl⟩ (Within.refl [.events, .pow] _) .clk (by decide)
@[simp] theorem changeB_host : (changeB good s).host = s.host :=
  changeB_within ⟨rfl⟩ (Within.refl [.events, .pow] _) .host (by decide)
@[simp] theorem changeB_pho : (changeB good s).pho = s.pho :=
  changeB_within ⟨rfl⟩ (Within.refl [.events, .pow] _) .pho (by decide)
@[simp] theorem changeB_sums : (changeB good s).sums = s.sums :=
  changeB_within ⟨rfl⟩ (Within.refl [.events, .pow] _) .sums (by decide)
@[simp] theorem changeB_lanes : (changeB good s).lanes = s.lanes :=
  changeB_within ⟨rfl⟩ (Within.refl [.events, .pow] _) .lanes (by decide)
@[simp] theorem changeB_las : (changeB good s).las = s.las :=
  changeB_within ⟨rfl⟩ (Within.refl [.events, .pow] _) .las (by decide)
@[simp] theorem changeB_ver : (changeB good s).ver = s.ver :=
  changeB_within ⟨rfl⟩ (Within.refl [.events, .pow] _) .ver (by decide)
@[simp] theorem changeB_fab : (changeB good s).fab = s.fab :=
  changeB_within ⟨rfl⟩ (Within.refl [.events, .pow] _) .fab (by decide)
@[simp] theorem changeB_sec : (changeB good s).sec = s.sec :=
  changeB_within ⟨rfl⟩ (Within.refl [.events, .pow] _) .sec (by decide)
@[simp] theorem changeB_twin : (changeB good s).twin = s.twin :=
  changeB_within ⟨rfl⟩ (Within.refl [.events, .pow] _) .twin (by decide)
@[simp] theorem changeB_pending : (changeB good s).pending = s.pending :=
  changeB_within ⟨rfl⟩ (Within.refl [.events, .pow] _) .queue (by decide)

end

section
variable {code : Nat} {f : Bucket → Bucket} {s : State}

@[simp] theorem changeBucket_now : (changeBucket code f s).now = s.now :=
  changeBucket_within ⟨rfl⟩ (Within.refl [.events, .hen] _) .now (by decide)
@[simp] theorem changeBucket_freeDrawn : (changeBucket code f s).freeDrawn = s.freeDrawn :=
  changeBucket_within ⟨rfl⟩ (Within.refl [.events, .hen] _) .free (by decide)
@[simp] theorem changeBucket_counters : (changeBucket code f s).counters = s.counters :=
  changeBucket_within ⟨rfl⟩ (Within.refl [.events, .hen] _) .counters (by decide)
@[simp] theorem changeBucket_dict : (changeBucket code f s).dict = s.dict :=
  changeBucket_within ⟨rfl⟩ (Within.refl [.events, .hen] _) .dict (by decide)
@[simp] theorem changeBucket_om : (changeBucket code f s).om = s.om :=
  changeBucket_within ⟨rfl⟩ (Within.refl [.events, .hen] _) .om (by decide)
@[simp] theorem changeBucket_frame : (changeBucket code f s).frame = s.frame :=
  changeBucket_within ⟨rfl⟩ (Within.refl [.events, .hen] _) .frame (by decide)
@[simp] theorem changeBucket_start : (changeBucket code f s).start = s.start :=
  changeBucket_within ⟨rfl⟩ (Within.refl [.events, .hen] _) .start (by decide)
@[simp] theorem changeBucket_spad : (changeBucket code f s).spad = s.spad :=
  changeBucket_within ⟨rfl⟩ (Within.refl [.events, .hen] _) .spad (by decide)
@[simp] theorem changeBucket_arith : (changeBucket code f s).arith = s.arith :=
  changeBucket_within ⟨rfl⟩ (Within.refl [.events, .hen] _) .arith (by decide)
@[simp] theorem changeBucket_parts : (changeBucket code f s).parts = s.parts :=
  changeBucket_within ⟨rfl⟩ (Within.refl [.events, .hen] _) .parts (by decide)
@[simp] theorem changeBucket_dma : (changeBucket code f s).dma = s.dma :=
  changeBucket_within ⟨rfl⟩ (Within.refl [.events, .hen] _) .dma (by decide)
@[simp] theorem changeBucket_dram : (changeBucket code f s).dram = s.dram :=
  changeBucket_within ⟨rfl⟩ (Within.refl [.events, .hen] _) .dram (by decide)
@[simp] theorem changeBucket_clk : (changeBucket code f s).clk = s.clk :=
  changeBucket_within ⟨rfl⟩ (Within.refl [.events, .hen] _) .clk (by decide)
@[simp] theorem changeBucket_host : (changeBucket code f s).host = s.host :=
  changeBucket_within ⟨rfl⟩ (Within.refl [.events, .hen] _) .host (by decide)
@[simp] theorem changeBucket_pho : (changeBucket code f s).pho = s.pho :=
  changeBucket_within ⟨rfl⟩ (Within.refl [.events, .hen] _) .pho (by decide)
@[simp] theorem changeBucket_sums : (changeBucket code f s).sums = s.sums :=
  changeBucket_within ⟨rfl⟩ (Within.refl [.events, .hen] _) .sums (by decide)
@[simp] theorem changeBucket_lanes : (changeBucket code f s).lanes = s.lanes :=
  changeBucket_within ⟨rfl⟩ (Within.refl [.events, .hen] _) .lanes (by decide)
@[simp] theorem changeBucket_las : (changeBucket code f s).las = s.las :=
  changeBucket_within ⟨rfl⟩ (Within.refl [.events, .hen] _) .las (by decide)
@[simp] theorem changeBucket_ver : (changeBucket code f s).ver = s.ver :=
  changeBucket_within ⟨rfl⟩ (Within.refl [.events, .hen] _) .ver (by decide)
@[simp] theorem changeBucket_fab : (changeBucket code f s).fab = s.fab :=
  changeBucket_within ⟨rfl⟩ (Within.refl [.events, .hen] _) .fab (by decide)
@[simp] theorem changeBucket_pow : (changeBucket code f s).pow = s.pow :=
  changeBucket_within ⟨rfl⟩ (Within.refl [.events, .hen] _) .pow (by decide)
@[simp] theorem changeBucket_sec : (changeBucket code f s).sec = s.sec :=
  changeBucket_within ⟨rfl⟩ (Within.refl [.events, .hen] _) .sec (by decide)
@[simp] theorem changeBucket_twin : (changeBucket code f s).twin = s.twin :=
  changeBucket_within ⟨rfl⟩ (Within.refl [.events, .hen] _) .twin (by decide)
@[simp] theorem changeBucket_pending : (changeBucket code f s).pending = s.pending :=
  changeBucket_within ⟨rfl⟩ (Within.refl [.events, .hen] _) .queue (by decide)

end

section
variable {x : SpdmPath} {a : SpdmAnswer} {s : State}

@[simp] theorem answerSpdm_now : (answerSpdm x a s).now = s.now :=
  answerSpdm_within ⟨rfl⟩ (Within.refl [.sec] _) .now (by decide)
@[simp] theorem answerSpdm_freeDrawn : (answerSpdm x a s).freeDrawn = s.freeDrawn :=
  answerSpdm_within ⟨rfl⟩ (Within.refl [.sec] _) .free (by decide)
@[simp] theorem answerSpdm_counters : (answerSpdm x a s).counters = s.counters :=
  answerSpdm_within ⟨rfl⟩ (Within.refl [.sec] _) .counters (by decide)
@[simp] theorem answerSpdm_dict : (answerSpdm x a s).dict = s.dict :=
  answerSpdm_within ⟨rfl⟩ (Within.refl [.sec] _) .dict (by decide)
@[simp] theorem answerSpdm_om : (answerSpdm x a s).om = s.om :=
  answerSpdm_within ⟨rfl⟩ (Within.refl [.sec] _) .om (by decide)
@[simp] theorem answerSpdm_frame : (answerSpdm x a s).frame = s.frame :=
  answerSpdm_within ⟨rfl⟩ (Within.refl [.sec] _) .frame (by decide)
@[simp] theorem answerSpdm_start : (answerSpdm x a s).start = s.start :=
  answerSpdm_within ⟨rfl⟩ (Within.refl [.sec] _) .start (by decide)
@[simp] theorem answerSpdm_spad : (answerSpdm x a s).spad = s.spad :=
  answerSpdm_within ⟨rfl⟩ (Within.refl [.sec] _) .spad (by decide)
@[simp] theorem answerSpdm_arith : (answerSpdm x a s).arith = s.arith :=
  answerSpdm_within ⟨rfl⟩ (Within.refl [.sec] _) .arith (by decide)
@[simp] theorem answerSpdm_parts : (answerSpdm x a s).parts = s.parts :=
  answerSpdm_within ⟨rfl⟩ (Within.refl [.sec] _) .parts (by decide)
@[simp] theorem answerSpdm_dma : (answerSpdm x a s).dma = s.dma :=
  answerSpdm_within ⟨rfl⟩ (Within.refl [.sec] _) .dma (by decide)
@[simp] theorem answerSpdm_dram : (answerSpdm x a s).dram = s.dram :=
  answerSpdm_within ⟨rfl⟩ (Within.refl [.sec] _) .dram (by decide)
@[simp] theorem answerSpdm_clk : (answerSpdm x a s).clk = s.clk :=
  answerSpdm_within ⟨rfl⟩ (Within.refl [.sec] _) .clk (by decide)
@[simp] theorem answerSpdm_host : (answerSpdm x a s).host = s.host :=
  answerSpdm_within ⟨rfl⟩ (Within.refl [.sec] _) .host (by decide)
@[simp] theorem answerSpdm_pho : (answerSpdm x a s).pho = s.pho :=
  answerSpdm_within ⟨rfl⟩ (Within.refl [.sec] _) .pho (by decide)
@[simp] theorem answerSpdm_sums : (answerSpdm x a s).sums = s.sums :=
  answerSpdm_within ⟨rfl⟩ (Within.refl [.sec] _) .sums (by decide)
@[simp] theorem answerSpdm_lanes : (answerSpdm x a s).lanes = s.lanes :=
  answerSpdm_within ⟨rfl⟩ (Within.refl [.sec] _) .lanes (by decide)
@[simp] theorem answerSpdm_las : (answerSpdm x a s).las = s.las :=
  answerSpdm_within ⟨rfl⟩ (Within.refl [.sec] _) .las (by decide)
@[simp] theorem answerSpdm_ver : (answerSpdm x a s).ver = s.ver :=
  answerSpdm_within ⟨rfl⟩ (Within.refl [.sec] _) .ver (by decide)
@[simp] theorem answerSpdm_fab : (answerSpdm x a s).fab = s.fab :=
  answerSpdm_within ⟨rfl⟩ (Within.refl [.sec] _) .fab (by decide)
@[simp] theorem answerSpdm_pow : (answerSpdm x a s).pow = s.pow :=
  answerSpdm_within ⟨rfl⟩ (Within.refl [.sec] _) .pow (by decide)
@[simp] theorem answerSpdm_twin : (answerSpdm x a s).twin = s.twin :=
  answerSpdm_within ⟨rfl⟩ (Within.refl [.sec] _) .twin (by decide)
@[simp] theorem answerSpdm_pending : (answerSpdm x a s).pending = s.pending :=
  answerSpdm_within ⟨rfl⟩ (Within.refl [.sec] _) .queue (by decide)
@[simp] theorem answerSpdm_hen : (answerSpdm x a s).hen = s.hen :=
  Within.hen_eq (answerSpdm_within ⟨rfl⟩ (Within.refl [.sec] _)) (by decide) (by decide)

end

section
variable {id : BitVec 32} {f : SpdmSession → SpdmSession} {s : State}

@[simp] theorem changeSession_now : (changeSession id f s).now = s.now :=
  changeSession_within ⟨rfl⟩ (Within.refl [.sec] _) .now (by decide)
@[simp] theorem changeSession_freeDrawn : (changeSession id f s).freeDrawn = s.freeDrawn :=
  changeSession_within ⟨rfl⟩ (Within.refl [.sec] _) .free (by decide)
@[simp] theorem changeSession_counters : (changeSession id f s).counters = s.counters :=
  changeSession_within ⟨rfl⟩ (Within.refl [.sec] _) .counters (by decide)
@[simp] theorem changeSession_dict : (changeSession id f s).dict = s.dict :=
  changeSession_within ⟨rfl⟩ (Within.refl [.sec] _) .dict (by decide)
@[simp] theorem changeSession_om : (changeSession id f s).om = s.om :=
  changeSession_within ⟨rfl⟩ (Within.refl [.sec] _) .om (by decide)
@[simp] theorem changeSession_frame : (changeSession id f s).frame = s.frame :=
  changeSession_within ⟨rfl⟩ (Within.refl [.sec] _) .frame (by decide)
@[simp] theorem changeSession_start : (changeSession id f s).start = s.start :=
  changeSession_within ⟨rfl⟩ (Within.refl [.sec] _) .start (by decide)
@[simp] theorem changeSession_spad : (changeSession id f s).spad = s.spad :=
  changeSession_within ⟨rfl⟩ (Within.refl [.sec] _) .spad (by decide)
@[simp] theorem changeSession_arith : (changeSession id f s).arith = s.arith :=
  changeSession_within ⟨rfl⟩ (Within.refl [.sec] _) .arith (by decide)
@[simp] theorem changeSession_parts : (changeSession id f s).parts = s.parts :=
  changeSession_within ⟨rfl⟩ (Within.refl [.sec] _) .parts (by decide)
@[simp] theorem changeSession_dma : (changeSession id f s).dma = s.dma :=
  changeSession_within ⟨rfl⟩ (Within.refl [.sec] _) .dma (by decide)
@[simp] theorem changeSession_dram : (changeSession id f s).dram = s.dram :=
  changeSession_within ⟨rfl⟩ (Within.refl [.sec] _) .dram (by decide)
@[simp] theorem changeSession_clk : (changeSession id f s).clk = s.clk :=
  changeSession_within ⟨rfl⟩ (Within.refl [.sec] _) .clk (by decide)
@[simp] theorem changeSession_host : (changeSession id f s).host = s.host :=
  changeSession_within ⟨rfl⟩ (Within.refl [.sec] _) .host (by decide)
@[simp] theorem changeSession_pho : (changeSession id f s).pho = s.pho :=
  changeSession_within ⟨rfl⟩ (Within.refl [.sec] _) .pho (by decide)
@[simp] theorem changeSession_sums : (changeSession id f s).sums = s.sums :=
  changeSession_within ⟨rfl⟩ (Within.refl [.sec] _) .sums (by decide)
@[simp] theorem changeSession_lanes : (changeSession id f s).lanes = s.lanes :=
  changeSession_within ⟨rfl⟩ (Within.refl [.sec] _) .lanes (by decide)
@[simp] theorem changeSession_las : (changeSession id f s).las = s.las :=
  changeSession_within ⟨rfl⟩ (Within.refl [.sec] _) .las (by decide)
@[simp] theorem changeSession_ver : (changeSession id f s).ver = s.ver :=
  changeSession_within ⟨rfl⟩ (Within.refl [.sec] _) .ver (by decide)
@[simp] theorem changeSession_fab : (changeSession id f s).fab = s.fab :=
  changeSession_within ⟨rfl⟩ (Within.refl [.sec] _) .fab (by decide)
@[simp] theorem changeSession_pow : (changeSession id f s).pow = s.pow :=
  changeSession_within ⟨rfl⟩ (Within.refl [.sec] _) .pow (by decide)
@[simp] theorem changeSession_twin : (changeSession id f s).twin = s.twin :=
  changeSession_within ⟨rfl⟩ (Within.refl [.sec] _) .twin (by decide)
@[simp] theorem changeSession_pending : (changeSession id f s).pending = s.pending :=
  changeSession_within ⟨rfl⟩ (Within.refl [.sec] _) .queue (by decide)
@[simp] theorem changeSession_hen : (changeSession id f s).hen = s.hen :=
  Within.hen_eq (changeSession_within ⟨rfl⟩ (Within.refl [.sec] _)) (by decide) (by decide)

end

section
variable {a : TlpAnswer} {s : State}

@[simp] theorem answerHost_now : (answerHost a s).now = s.now :=
  answerHost_within ⟨rfl⟩ (Within.refl [.host] _) .now (by decide)
@[simp] theorem answerHost_freeDrawn : (answerHost a s).freeDrawn = s.freeDrawn :=
  answerHost_within ⟨rfl⟩ (Within.refl [.host] _) .free (by decide)
@[simp] theorem answerHost_counters : (answerHost a s).counters = s.counters :=
  answerHost_within ⟨rfl⟩ (Within.refl [.host] _) .counters (by decide)
@[simp] theorem answerHost_dict : (answerHost a s).dict = s.dict :=
  answerHost_within ⟨rfl⟩ (Within.refl [.host] _) .dict (by decide)
@[simp] theorem answerHost_om : (answerHost a s).om = s.om :=
  answerHost_within ⟨rfl⟩ (Within.refl [.host] _) .om (by decide)
@[simp] theorem answerHost_frame : (answerHost a s).frame = s.frame :=
  answerHost_within ⟨rfl⟩ (Within.refl [.host] _) .frame (by decide)
@[simp] theorem answerHost_start : (answerHost a s).start = s.start :=
  answerHost_within ⟨rfl⟩ (Within.refl [.host] _) .start (by decide)
@[simp] theorem answerHost_spad : (answerHost a s).spad = s.spad :=
  answerHost_within ⟨rfl⟩ (Within.refl [.host] _) .spad (by decide)
@[simp] theorem answerHost_arith : (answerHost a s).arith = s.arith :=
  answerHost_within ⟨rfl⟩ (Within.refl [.host] _) .arith (by decide)
@[simp] theorem answerHost_parts : (answerHost a s).parts = s.parts :=
  answerHost_within ⟨rfl⟩ (Within.refl [.host] _) .parts (by decide)
@[simp] theorem answerHost_dma : (answerHost a s).dma = s.dma :=
  answerHost_within ⟨rfl⟩ (Within.refl [.host] _) .dma (by decide)
@[simp] theorem answerHost_dram : (answerHost a s).dram = s.dram :=
  answerHost_within ⟨rfl⟩ (Within.refl [.host] _) .dram (by decide)
@[simp] theorem answerHost_clk : (answerHost a s).clk = s.clk :=
  answerHost_within ⟨rfl⟩ (Within.refl [.host] _) .clk (by decide)
@[simp] theorem answerHost_pho : (answerHost a s).pho = s.pho :=
  answerHost_within ⟨rfl⟩ (Within.refl [.host] _) .pho (by decide)
@[simp] theorem answerHost_sums : (answerHost a s).sums = s.sums :=
  answerHost_within ⟨rfl⟩ (Within.refl [.host] _) .sums (by decide)
@[simp] theorem answerHost_lanes : (answerHost a s).lanes = s.lanes :=
  answerHost_within ⟨rfl⟩ (Within.refl [.host] _) .lanes (by decide)
@[simp] theorem answerHost_las : (answerHost a s).las = s.las :=
  answerHost_within ⟨rfl⟩ (Within.refl [.host] _) .las (by decide)
@[simp] theorem answerHost_ver : (answerHost a s).ver = s.ver :=
  answerHost_within ⟨rfl⟩ (Within.refl [.host] _) .ver (by decide)
@[simp] theorem answerHost_fab : (answerHost a s).fab = s.fab :=
  answerHost_within ⟨rfl⟩ (Within.refl [.host] _) .fab (by decide)
@[simp] theorem answerHost_pow : (answerHost a s).pow = s.pow :=
  answerHost_within ⟨rfl⟩ (Within.refl [.host] _) .pow (by decide)
@[simp] theorem answerHost_sec : (answerHost a s).sec = s.sec :=
  answerHost_within ⟨rfl⟩ (Within.refl [.host] _) .sec (by decide)
@[simp] theorem answerHost_twin : (answerHost a s).twin = s.twin :=
  answerHost_within ⟨rfl⟩ (Within.refl [.host] _) .twin (by decide)
@[simp] theorem answerHost_pending : (answerHost a s).pending = s.pending :=
  answerHost_within ⟨rfl⟩ (Within.refl [.host] _) .queue (by decide)
@[simp] theorem answerHost_hen : (answerHost a s).hen = s.hen :=
  Within.hen_eq (answerHost_within ⟨rfl⟩ (Within.refl [.host] _)) (by decide) (by decide)

end

section
variable {key : Nat} {f : Transfer → Transfer} {s : State}

@[simp] theorem changeTransfer_now : (changeTransfer key f s).now = s.now :=
  changeTransfer_within ⟨rfl⟩ (Within.refl [.om] _) .now (by decide)
@[simp] theorem changeTransfer_freeDrawn : (changeTransfer key f s).freeDrawn = s.freeDrawn :=
  changeTransfer_within ⟨rfl⟩ (Within.refl [.om] _) .free (by decide)
@[simp] theorem changeTransfer_counters : (changeTransfer key f s).counters = s.counters :=
  changeTransfer_within ⟨rfl⟩ (Within.refl [.om] _) .counters (by decide)
@[simp] theorem changeTransfer_dict : (changeTransfer key f s).dict = s.dict :=
  changeTransfer_within ⟨rfl⟩ (Within.refl [.om] _) .dict (by decide)
@[simp] theorem changeTransfer_frame : (changeTransfer key f s).frame = s.frame :=
  changeTransfer_within ⟨rfl⟩ (Within.refl [.om] _) .frame (by decide)
@[simp] theorem changeTransfer_start : (changeTransfer key f s).start = s.start :=
  changeTransfer_within ⟨rfl⟩ (Within.refl [.om] _) .start (by decide)
@[simp] theorem changeTransfer_spad : (changeTransfer key f s).spad = s.spad :=
  changeTransfer_within ⟨rfl⟩ (Within.refl [.om] _) .spad (by decide)
@[simp] theorem changeTransfer_arith : (changeTransfer key f s).arith = s.arith :=
  changeTransfer_within ⟨rfl⟩ (Within.refl [.om] _) .arith (by decide)
@[simp] theorem changeTransfer_parts : (changeTransfer key f s).parts = s.parts :=
  changeTransfer_within ⟨rfl⟩ (Within.refl [.om] _) .parts (by decide)
@[simp] theorem changeTransfer_dma : (changeTransfer key f s).dma = s.dma :=
  changeTransfer_within ⟨rfl⟩ (Within.refl [.om] _) .dma (by decide)
@[simp] theorem changeTransfer_dram : (changeTransfer key f s).dram = s.dram :=
  changeTransfer_within ⟨rfl⟩ (Within.refl [.om] _) .dram (by decide)
@[simp] theorem changeTransfer_clk : (changeTransfer key f s).clk = s.clk :=
  changeTransfer_within ⟨rfl⟩ (Within.refl [.om] _) .clk (by decide)
@[simp] theorem changeTransfer_host : (changeTransfer key f s).host = s.host :=
  changeTransfer_within ⟨rfl⟩ (Within.refl [.om] _) .host (by decide)
@[simp] theorem changeTransfer_pho : (changeTransfer key f s).pho = s.pho :=
  changeTransfer_within ⟨rfl⟩ (Within.refl [.om] _) .pho (by decide)
@[simp] theorem changeTransfer_sums : (changeTransfer key f s).sums = s.sums :=
  changeTransfer_within ⟨rfl⟩ (Within.refl [.om] _) .sums (by decide)
@[simp] theorem changeTransfer_lanes : (changeTransfer key f s).lanes = s.lanes :=
  changeTransfer_within ⟨rfl⟩ (Within.refl [.om] _) .lanes (by decide)
@[simp] theorem changeTransfer_las : (changeTransfer key f s).las = s.las :=
  changeTransfer_within ⟨rfl⟩ (Within.refl [.om] _) .las (by decide)
@[simp] theorem changeTransfer_ver : (changeTransfer key f s).ver = s.ver :=
  changeTransfer_within ⟨rfl⟩ (Within.refl [.om] _) .ver (by decide)
@[simp] theorem changeTransfer_fab : (changeTransfer key f s).fab = s.fab :=
  changeTransfer_within ⟨rfl⟩ (Within.refl [.om] _) .fab (by decide)
@[simp] theorem changeTransfer_pow : (changeTransfer key f s).pow = s.pow :=
  changeTransfer_within ⟨rfl⟩ (Within.refl [.om] _) .pow (by decide)
@[simp] theorem changeTransfer_sec : (changeTransfer key f s).sec = s.sec :=
  changeTransfer_within ⟨rfl⟩ (Within.refl [.om] _) .sec (by decide)
@[simp] theorem changeTransfer_twin : (changeTransfer key f s).twin = s.twin :=
  changeTransfer_within ⟨rfl⟩ (Within.refl [.om] _) .twin (by decide)
@[simp] theorem changeTransfer_pending : (changeTransfer key f s).pending = s.pending :=
  changeTransfer_within ⟨rfl⟩ (Within.refl [.om] _) .queue (by decide)
@[simp] theorem changeTransfer_hen : (changeTransfer key f s).hen = s.hen :=
  Within.hen_eq (changeTransfer_within ⟨rfl⟩ (Within.refl [.om] _)) (by decide) (by decide)

end

section
variable {result : Nat} {s : State}

@[simp] theorem endStep_now : (endStep result s).now = s.now :=
  endStep_within ⟨rfl⟩ (Within.refl [.events, .start] _) .now (by decide)
@[simp] theorem endStep_freeDrawn : (endStep result s).freeDrawn = s.freeDrawn :=
  endStep_within ⟨rfl⟩ (Within.refl [.events, .start] _) .free (by decide)
@[simp] theorem endStep_counters : (endStep result s).counters = s.counters :=
  endStep_within ⟨rfl⟩ (Within.refl [.events, .start] _) .counters (by decide)
@[simp] theorem endStep_dict : (endStep result s).dict = s.dict :=
  endStep_within ⟨rfl⟩ (Within.refl [.events, .start] _) .dict (by decide)
@[simp] theorem endStep_om : (endStep result s).om = s.om :=
  endStep_within ⟨rfl⟩ (Within.refl [.events, .start] _) .om (by decide)
@[simp] theorem endStep_frame : (endStep result s).frame = s.frame :=
  endStep_within ⟨rfl⟩ (Within.refl [.events, .start] _) .frame (by decide)
@[simp] theorem endStep_spad : (endStep result s).spad = s.spad :=
  endStep_within ⟨rfl⟩ (Within.refl [.events, .start] _) .spad (by decide)
@[simp] theorem endStep_arith : (endStep result s).arith = s.arith :=
  endStep_within ⟨rfl⟩ (Within.refl [.events, .start] _) .arith (by decide)
@[simp] theorem endStep_parts : (endStep result s).parts = s.parts :=
  endStep_within ⟨rfl⟩ (Within.refl [.events, .start] _) .parts (by decide)
@[simp] theorem endStep_dma : (endStep result s).dma = s.dma :=
  endStep_within ⟨rfl⟩ (Within.refl [.events, .start] _) .dma (by decide)
@[simp] theorem endStep_dram : (endStep result s).dram = s.dram :=
  endStep_within ⟨rfl⟩ (Within.refl [.events, .start] _) .dram (by decide)
@[simp] theorem endStep_clk : (endStep result s).clk = s.clk :=
  endStep_within ⟨rfl⟩ (Within.refl [.events, .start] _) .clk (by decide)
@[simp] theorem endStep_host : (endStep result s).host = s.host :=
  endStep_within ⟨rfl⟩ (Within.refl [.events, .start] _) .host (by decide)
@[simp] theorem endStep_pho : (endStep result s).pho = s.pho :=
  endStep_within ⟨rfl⟩ (Within.refl [.events, .start] _) .pho (by decide)
@[simp] theorem endStep_sums : (endStep result s).sums = s.sums :=
  endStep_within ⟨rfl⟩ (Within.refl [.events, .start] _) .sums (by decide)
@[simp] theorem endStep_lanes : (endStep result s).lanes = s.lanes :=
  endStep_within ⟨rfl⟩ (Within.refl [.events, .start] _) .lanes (by decide)
@[simp] theorem endStep_las : (endStep result s).las = s.las :=
  endStep_within ⟨rfl⟩ (Within.refl [.events, .start] _) .las (by decide)
@[simp] theorem endStep_ver : (endStep result s).ver = s.ver :=
  endStep_within ⟨rfl⟩ (Within.refl [.events, .start] _) .ver (by decide)
@[simp] theorem endStep_fab : (endStep result s).fab = s.fab :=
  endStep_within ⟨rfl⟩ (Within.refl [.events, .start] _) .fab (by decide)
@[simp] theorem endStep_pow : (endStep result s).pow = s.pow :=
  endStep_within ⟨rfl⟩ (Within.refl [.events, .start] _) .pow (by decide)
@[simp] theorem endStep_sec : (endStep result s).sec = s.sec :=
  endStep_within ⟨rfl⟩ (Within.refl [.events, .start] _) .sec (by decide)
@[simp] theorem endStep_twin : (endStep result s).twin = s.twin :=
  endStep_within ⟨rfl⟩ (Within.refl [.events, .start] _) .twin (by decide)
@[simp] theorem endStep_pending : (endStep result s).pending = s.pending :=
  endStep_within ⟨rfl⟩ (Within.refl [.events, .start] _) .queue (by decide)

end

/-! ### The part an update writes -/

@[simp] theorem setChangePoint_frame (s : State) :
    (setChangePoint s).frame = { s.frame with changePoint := mkStamp s.frame.number 0 0 } := rfl

@[simp] theorem changeDiscovery_ver (r : Nat) (f : Discovery → Discovery) (s : State) :
    (changeDiscovery r f s).ver = { s.ver with discovery := Tab.change {} r f s.ver.discovery } := rfl

@[simp] theorem changeBase_ver (b : Nat) (f : BaseDieState → BaseDieState) (s : State) :
    (changeBase b f s).ver = { s.ver with bases := Tab.change {} b f s.ver.bases } := rfl

@[simp] theorem changeReference_clk (t : Nat) (f : Reference → Reference) (s : State) :
    (changeReference t f s).clk = { s.clk with references := Tab.change {} t f s.clk.references } := rfl

@[simp] theorem changeTransfer_om (key : Nat) (f : Transfer → Transfer) (s : State) :
    (changeTransfer key f s).om = { s.om with transfers := changeFirst (fun x => decide (x.key = key)) f s.om.transfers } := rfl

@[simp] theorem changeStack_dram (t : Nat) (f : Stack → Stack) (s : State) :
    (changeStack t f s).dram = { s.dram with stackTable := Tab.change {} t f s.dram.stackTable } := rfl

@[simp] theorem changeRequest_fab (o : FabricReq) (f : FabricReq → FabricReq) (s : State) :
    (changeRequest o f s).fab = { s.fab with outstanding := changeFirst (requestIs o.tower o.engine o.tag) f s.fab.outstanding } := rfl

@[simp] theorem changeReceiver_frame (t : Nat) (f : Receiver → Receiver) (s : State) :
    (changeReceiver t f s).frame = { s.frame with receivers := Tab.change {} t f s.frame.receivers } := rfl

@[simp] theorem changeQueue_host (p : Nat) (f : QueueSet → QueueSet) (s : State) :
    (changeQueue p f s).host = { s.host with queues := Tab.change {} p f s.host.queues } := rfl

@[simp] theorem changeFunction_host (f : Nat) (g : FunctionBlock → FunctionBlock) (s : State) :
    (changeFunction f g s).host = { s.host with functions := Tab.change {} f g s.host.functions } := rfl

@[simp] theorem setCarrier_las (f : Nat) (gs : List Nat) (k v : Nat) (s : State) :
    (setCarrier f gs k v s).las = { s.las with sendOn := gs.foldl (fun t g => Tab.put 0 (sendKey f g k) v t) s.las.sendOn } := rfl

@[simp] theorem changeSparing_las (f k : Nat) (g : Sparing → Sparing) (s : State) :
    (changeSparing f k g s).las = { s.las with sparings := changeFirst (fun x => decide (x.flock = f ∧ x.lane = k)) g s.las.sparings } := rfl

@[simp] theorem changeTx_lanes (n : Nat) (f : LinkTx → LinkTx) (s : State) :
    (changeTx n f s).lanes = { s.lanes with tx := Tab.change {} n f s.lanes.tx } := rfl

@[simp] theorem changeRx_lanes (n : Nat) (f : LinkRx → LinkRx) (s : State) :
    (changeRx n f s).lanes = { s.lanes with rx := Tab.change {} n f s.lanes.rx } := rfl

@[simp] theorem changeSubscriber_om (i : Nat) (f : Subscriber → Subscriber) (s : State) :
    (changeSubscriber i f s).om = { s.om with subscribers := Tab.change {} i f s.om.subscribers } := rfl

@[simp] theorem changeBundle_ver (t n : Nat) (f : Bundle → Bundle) (s : State) :
    (changeBundle t n f s).ver = { s.ver with bundles := Tab.change {} (36 * t + n) f s.ver.bundles } := rfl

@[simp] theorem changeLink_lanes (n : Nat) (f : LinkRec → LinkRec) (s : State) :
    (changeLink n f s).lanes = { s.lanes with links := Tab.change {} n f s.lanes.links } := rfl

@[simp] theorem advanceTo_now (t : Nat) (s : State) :
    (advanceTo t s).now = max s.now t := rfl

@[simp] theorem setWaiter_pho (src dst w : Nat) (x : Waiter) (s : State) :
    (setWaiter src dst w x s).pho = { s.pho with waiters := Tab.put {} (waiterKey src dst w) x s.pho.waiters } := rfl

@[simp] theorem changeSheepdog_pho (d w : Nat) (f : Sheepdog → Sheepdog) (s : State) :
    (changeSheepdog d w f s).pho = { s.pho with sheepdogs := Tab.change {} (8 * d + w) f s.pho.sheepdogs } := rfl

@[simp] theorem changePath_pho (kind : PathKind) (key : Nat) (up : Bool) (s : State) :
    (changePath kind key up s).pho = { s.pho with changes := s.pho.changes ++ [{ kind := kind, key := key, up := up }] } := rfl

@[simp] theorem changeSource_las (f i : Nat) (g : Source → Source) (s : State) :
    (changeSource f i g s).las = { s.las with sources := Tab.change {} (sourceKey f i) g s.las.sources } := rfl

@[simp] theorem changeDiode_pow (i : Nat) (f : Diode → Diode) (s : State) :
    (changeDiode i f s).pow = { s.pow with diodes := Tab.change {} i f s.pow.diodes } := rfl

@[simp] theorem changeBucket_hen (code : Nat) (f : Bucket → Bucket) (s : State) :
    (changeBucket code f s).hen = { s.hen with buckets := Tab.change {} code f s.hen.buckets } := rfl

@[simp] theorem changeSession_sec (id : BitVec 32) (f : SpdmSession → SpdmSession) (s : State) :
    (changeSession id f s).sec = { s.sec with sessions := changeFirst (fun e => decide (e.id = id)) f s.sec.sessions } := rfl

@[simp] theorem changeRouter_parts (c : Nat) (f : Router → Router) (s : State) :
    (changeRouter c f s).parts = { s.parts with routers := Tab.change {} c f s.parts.routers } := rfl

@[simp] theorem changePart_parts (p : Nat) (f : Part → Part) (s : State) :
    (changePart p f s).parts = { s.parts with parts := Tab.change {} p f s.parts.parts } := rfl

@[simp] theorem changeRun_parts (p : Nat) (id : BitVec 32) (f : Run → Run) (s : State) :
    (changeRun p id f s).parts = { s.parts with runs := changeFirst (fun r => decide (r.partition = p ∧ r.id = id)) f s.parts.runs } := rfl

@[simp] theorem setDebt_clk (t r n : Nat) (s : State) :
    (setDebt t r n s).clk = { s.clk with debt := Tab.put 0 (regionKey t r) n s.clk.debt } := rfl

end Sys2Proof.Machine
end

