-- ==== Sys2Proof/Laws/Read.lean ====
section
/-! SUPPORT. What each per-unit table reads after it has been changed. -/

set_option Elab.async false

namespace Sys2Proof.Machine

@[simp] theorem receiver_changeReceiver (t t' : Nat) (g) (s : State) :
    receiver (changeReceiver t g s) t' = if t' = t then g (receiver s t) else receiver s t' := by
  simp [receiver, changeReceiver, Tab.look_change]

@[simp] theorem reference_changeReference (t t' : Nat) (g) (s : State) :
    reference (changeReference t g s) t' = if t' = t then g (reference s t) else reference s t' := by
  simp [reference, changeReference, Tab.look_change]

@[simp] theorem stack_changeStack (t t' : Nat) (g) (s : State) :
    stack (changeStack t g s) t' = if t' = t then g (stack s t) else stack s t' := by
  simp [stack, changeStack, Tab.look_change]

@[simp] theorem queueSet_changeQueue (p p' : Nat) (g) (s : State) :
    queueSet (changeQueue p g s) p' = if p' = p then g (queueSet s p) else queueSet s p' := by
  simp [queueSet, changeQueue, Tab.look_change]

@[simp] theorem functionBlock_changeFunction (f f' : Nat) (g) (s : State) :
    functionBlock (changeFunction f g s) f' = if f' = f then g (functionBlock s f) else functionBlock s f' := by
  simp [functionBlock, changeFunction, Tab.look_change]

@[simp] theorem txOf_changeTx (n n' : Nat) (g) (s : State) :
    txOf (changeTx n g s) n' = if n' = n then g (txOf s n) else txOf s n' := by
  simp [txOf, changeTx, Tab.look_change]

@[simp] theorem rxOf_changeRx (n n' : Nat) (g) (s : State) :
    rxOf (changeRx n g s) n' = if n' = n then g (rxOf s n) else rxOf s n' := by
  simp [rxOf, changeRx, Tab.look_change]

@[simp] theorem subscriber_changeSubscriber (i i' : Nat) (g) (s : State) :
    subscriber (changeSubscriber i g s) i' = if i' = i then g (subscriber s i) else subscriber s i' := by
  simp [subscriber, changeSubscriber, Tab.look_change]

@[simp] theorem baseState_changeBase (b b' : Nat) (g) (s : State) :
    baseState (changeBase b g s) b' = if b' = b then g (baseState s b) else baseState s b' := by
  simp [baseState, changeBase, Tab.look_change]

@[simp] theorem discovery_changeDiscovery (r r' : Nat) (g) (s : State) :
    discovery (changeDiscovery r g s) r' = if r' = r then g (discovery s r) else discovery s r' := by
  simp [discovery, changeDiscovery, Tab.look_change]

@[simp] theorem diode_changeDiode (i i' : Nat) (g) (s : State) :
    diode (changeDiode i g s) i' = if i' = i then g (diode s i) else diode s i' := by
  simp [diode, changeDiode, Tab.look_change]

@[simp] theorem bucket_changeBucket (c c' : Nat) (g) (s : State) :
    bucket (changeBucket c g s) c' = if c' = c then g (bucket s c) else bucket s c' := by
  simp [bucket, changeBucket, Tab.look_change]

@[simp] theorem part_changePart (p p' : Nat) (g) (s : State) :
    part (changePart p g s) p' = if p' = p then g (part s p) else part s p' := by
  simp [part, changePart, Tab.look_change]

@[simp] theorem link_changeLink (n n' : Nat) (g) (s : State) :
    link (changeLink n g s) n' = if n' = n then g (link s n) else link s n' := by
  simp [link, changeLink, Tab.look_change]

@[simp] theorem routerOf_changeRouter (c c' : Nat) (g) (s : State) :
    routerOf (changeRouter c g s) c' = if c' = c then g (routerOf s c) else routerOf s c' := by
  simp [routerOf, changeRouter, Tab.look_change]

end Sys2Proof.Machine
end

