-- ==== Sys2Proof/Laws/Shared.lean ====
section
/-! SUPPORT. What the shared operations do: events, counters, values of the dictionary, replies. -/

set_option Elab.async false

namespace Sys2Proof.Machine

/-! ### Events -/

/-- An event joins those on their way to the recorder. -/
@[simp] theorem raise_arriving (code : Nat) (items : List (Option Bytes)) (s : State) :
    (raise code items s).hen.arriving = s.hen.arriving ++
      [{ code := BitVec.ofNat 16 code, items := items, time := s.now, beforeOptical := !s.frame.optical,
         byLoader := s.start.donkey }] := rfl

/-- The events on their way in one state are still on their way, in front, in the other. -/
def Grows (s t : State) : Prop := s.hen.arriving <+: t.hen.arriving

theorem Grows.refl (s : State) : Grows s s := List.prefix_rfl

theorem Grows.trans {a b c : State} (h : Grows a b) (g : Grows b c) : Grows a c := List.IsPrefix.trans h g

theorem Grows.raise {s t : State} (h : Grows s t) (code : Nat) (items : List (Option Bytes)) :
    Grows s (raise code items t) := List.IsPrefix.trans h (List.prefix_append _ _)

theorem Grows.raiseIf {s t : State} (h : Grows s t) (c : Bool) (code : Nat) (items : List (Option Bytes)) :
    Grows s (raiseIf c code items t) := by
  unfold Machine.raiseIf
  split
  · exact h.raise code items
  · exact h

theorem Grows.of_eq {s t : State} (h : t.hen.arriving = s.hen.arriving) : Grows s t := by
  unfold Grows
  exact ⟨[], by simp [h]⟩

/-- A step that does not write the events keeps them all. -/
theorem Grows.of_within {ps : List Area} {s t : State} (h : Within ps s t) (hp : Area.taken ∉ ps) : Grows s t :=
  h .taken hp

/-- An event that is raised has been raised. -/
theorem Raised.raise {s t : State} (h : Grows s t) (code : Nat) (items : List (Option Bytes)) :
    Raised code s (raise code items t) := by
  obtain ⟨l, hl⟩ := h
  refine ⟨{ code := BitVec.ofNat 16 code, items := items, time := t.now, beforeOptical := !t.frame.optical,
            byLoader := t.start.donkey }, ?_, rfl⟩
  rw [raise_arriving, ← hl]
  simp

/-- It stays raised while later events join it. -/
theorem Raised.mono {code : Nat} {s t u : State} (h : Raised code s t) (g : Grows t u) (hs : Grows s t) :
    Raised code s u := by
  obtain ⟨e, he, hc⟩ := h
  obtain ⟨l, hl⟩ := g
  refine ⟨e, ?_, hc⟩
  rw [← hl, List.drop_append_of_le_length hs.length_le]
  exact List.mem_append_left _ he

theorem Raised.later {code other : Nat} {items : List (Option Bytes)} {s t : State} (h : Raised code s t)
    (hs : Grows s t) : Raised code s (Machine.raise other items t) := h.mono (Grows.refl t |>.raise other items) hs

theorem Raised.of_eq {code : Nat} {s t u : State} (h : Raised code s t) (g : u.hen.arriving = t.hen.arriving) :
    Raised code s u := by
  obtain ⟨e, he, hc⟩ := h
  exact ⟨e, by rw [g]; exact he, hc⟩

/-! ### Counters -/

@[simp] theorem counter_reportFull (key v k : Nat) (s : State) : counter (reportFull key v s) k = counter s k := by
  unfold reportFull
  split <;> rfl

theorem reportFull_grows (key v : Nat) (s : State) : Grows s (reportFull key v s) := by
  unfold reportFull
  split
  · exact List.prefix_append _ _
  · exact List.prefix_rfl

/-- Adding to a U32 counter: it stops at its largest value, and no other counter changes. -/
theorem counter_count32 (key n k : Nat) (s : State) :
    counter (count32 key n s) k = if k = key then satAdd 32 (counter s key) n else counter s k := by
  unfold count32
  dsimp only
  rw [counter_reportFull]
  unfold counter
  simp only [Tab.look_put]

@[simp] theorem counter_count32_same (key n : Nat) (s : State) :
    counter (count32 key n s) key = satAdd 32 (counter s key) n := by simp [counter_count32]

/-- Adding to a U64 counter: it runs modulo 2^64, and no other counter changes. -/
theorem counter_count64 (key n k : Nat) (s : State) :
    counter (count64 key n s) k = if k = key then (counter s key + n) % 2 ^ 64 else counter s k := by
  unfold count64 counter
  simp only [Tab.look_put]

@[simp] theorem counter_count64_same (key n : Nat) (s : State) :
    counter (count64 key n s) key = (counter s key + n) % 2 ^ 64 := by simp [counter_count64]

theorem count32_grows (key n : Nat) (s : State) : Grows s (count32 key n s) := by
  have h := reportFull_grows key (satAdd 32 (counter s key) n)
    { s with counters := Tab.put 0 key (satAdd 32 (counter s key) n) s.counters }
  exact h

/-! ### Values of the dictionary -/

/-- A value that is not empty is the value in force. -/
theorem dictBytes_setDict (key k : Nat) (v : Bytes) (s : State) (hv : v ≠ []) :
    dictBytes (setDict key v s) k = if k = key then v else dictBytes s k := by
  have h : (setDict key v s).dict = Tab.put [] key v s.dict := by unfold setDict; dsimp only; split <;> rfl
  unfold dictBytes
  rw [h, Tab.look_put]
  by_cases hk : k = key <;> simp [hk, hv]

/-- The bytes of a number spell its low part. -/
theorem leNat_leBytes (n v : Nat) : leNat (leBytes n v) = v % 256 ^ n := by
  induction n generalizing v with
  | zero => simp [leBytes, leNat, Nat.mod_one]
  | succ n ih =>
    simp only [leBytes, leNat, ih, BitVec.toNat_ofNat]
    have h := Nat.mod_mul (x := v) (a := 256) (b := 256 ^ n)
    have e : (256 : Nat) ^ (n + 1) = 256 * 256 ^ n := Nat.pow_succ'
    rw [e, h]

theorem leBytes_ne_nil {n : Nat} (v : Nat) (h : n ≠ 0) : leBytes n v ≠ [] := by
  cases n with
  | zero => exact absurd rfl h
  | succ n => simp [leBytes]

/-- Giving a scalar entry a value that fits. -/
theorem dictNat_setDictNat (key k n v : Nat) (s : State) (hn : n ≠ 0) (hv : v < 256 ^ n) :
    dictNat (setDictNat key n v s) k = if k = key then v else dictNat s k := by
  unfold dictNat setDictNat
  rw [dictBytes_setDict key k _ s (leBytes_ne_nil v hn)]
  split
  · rw [leNat_leBytes, Nat.mod_eq_of_lt hv]
  · rfl

/-- A value in force depends on the dictionary's table alone. -/
theorem dictNat_congr {s t : State} (h : t.dict = s.dict) (k : Nat) : dictNat t k = dictNat s k := by
  unfold dictNat dictBytes; rw [h]

theorem counter_congr {s t : State} (h : t.counters = s.counters) (k : Nat) : counter t k = counter s k := by
  unfold counter; rw [h]

/-! ### Replies and writes -/

/-- A reply joins those sent. -/
@[simp] theorem sendReply_replies (r : Reply) (s : State) : (sendReply r s).om.replies = s.om.replies ++ [r] := by
  unfold sendReply keepReply
  dsimp only
  split <;> rfl

@[simp] theorem okReply_replies (id : RequestId) (data : Bytes) (s : State) :
    (okReply id data s).om.replies = s.om.replies ++ [{ id := id, status := stOk, data := data }] :=
  sendReply_replies _ s

@[simp] theorem errorReply_replies (id : RequestId) (status : BitVec 8) (detail offset : Nat) (s : State) :
    (errorReply id status detail offset s).om.replies =
      s.om.replies ++ [{ id := id, status := status, offset := offset, data := leBytes 4 detail }] :=
  sendReply_replies _ s

@[simp] theorem sendReply_waiting (r : Reply) (s : State) : (sendReply r s).om.waiting = s.om.waiting := by
  unfold sendReply keepReply
  dsimp only
  split <;> rfl

@[simp] theorem okReply_waiting (id : RequestId) (data : Bytes) (s : State) :
    (okReply id data s).om.waiting = s.om.waiting := sendReply_waiting _ s

/-- How a write is served, in terms of its identity. -/
theorem serveWrite_eq (req : Req) (key : Nat) (value : Bytes) (act : WriteAct) (s : State) :
    serveWrite req key value act s = match admitRequest (writeId req key) s with
      | some s' => s'
      | none => match accessFault req.requester key true s with
        | some (st, d) => errorReply (writeId req key) st d 0 s
        | none => applyWrite (writeId req key) value act s := rfl

/-- An admitted write whose effect is done is answered OK. -/
theorem serveWrite_done {req : Req} {key : Nat} {value : Bytes} {act : WriteAct} {s t : State}
    (h : Admitted req key value s) (ha : act value s = .done t) :
    serveWrite req key value act s = okReply (writeId req key) [] t := by
  obtain ⟨h1, h2, h3⟩ := h
  rw [serveWrite_eq, h1, h2]
  have h3 : valueFault (writeId req key).key value s = none := h3
  simp only [applyWrite, h3, ha]

/-- An admitted write whose effect lies ahead waits. -/
theorem serveWrite_wait {req : Req} {key : Nat} {value : Bytes} {act : WriteAct} {n : Nat} {s t : State}
    (h : Admitted req key value s) (ha : act value s = .wait n t) :
    serveWrite req key value act s =
      { t with om.waiting := t.om.waiting ++ [{ id := writeId req key, note := n }] } := by
  obtain ⟨h1, h2, h3⟩ := h
  rw [serveWrite_eq, h1, h2]
  have h3 : valueFault (writeId req key).key value s = none := h3
  simp only [applyWrite, h3, ha]

end Sys2Proof.Machine
end

