-- ==== Sys2Proof/Laws/Spad.lean ====
section
/-! SUPPORT. What a write to the scratchpads does to every byte of them. -/

set_option Elab.async false

namespace Sys2Proof.Machine

theorem putBytes_cons (key : Nat) (b : Byte) (bs : Bytes) (undef : Tab Nat) (t : Tab (Option Byte)) :
    putBytes key (b :: bs) undef t = putBytes (key + 1) bs undef
      (Tab.put none key (if b = 0 ∧ Tab.look 0 undef (key / 2 ^ 17) = 0 then none else some b) t) := rfl

/-- What the table holds after bytes have been put. -/
theorem look_putBytes (data : Bytes) (undef : Tab Nat) (k : Nat) : ∀ (key : Nat) (t : Tab (Option Byte)),
    Tab.look none (putBytes key data undef t) k =
      if key ≤ k ∧ k < key + data.length then
        (if data.getD (k - key) 0 = 0 ∧ Tab.look 0 undef (k / 2 ^ 17) = 0 then none else some (data.getD (k - key) 0))
      else Tab.look none t k := by
  induction data with
  | nil =>
    intro key t
    have h : ¬ (key ≤ k ∧ k < key + ([] : Bytes).length) := by simp
    rw [if_neg h]; rfl
  | cons b bs ih =>
    intro key t
    rw [putBytes_cons, ih, Tab.look_put]
    by_cases h1 : key = k
    · subst h1
      have h2 : ¬ (key + 1 ≤ key ∧ key < key + 1 + bs.length) := by omega
      simp [h2]
    · by_cases h2 : key + 1 ≤ k ∧ k < key + 1 + bs.length
      · have h3 : key ≤ k ∧ k < key + (b :: bs).length := by simp; omega
        have h4 : k - key = (k - (key + 1)) + 1 := by omega
        rw [if_pos h2, if_pos h3, h4, List.getD_cons_succ]
      · have h3 : ¬ (key ≤ k ∧ k < key + (b :: bs).length) := by simp; omega
        have h5 : ¬ k = key := fun h => h1 h.symm
        simp only [if_neg h2, if_neg h3, if_neg h5]

/-- A byte of the scratchpads after a write: the byte written within its range, and no other is changed. -/
theorem spadByte_spadWrite (key : Nat) (data : Bytes) (p : Bool) (s : State) (k : Nat) :
    spadByte (spadWrite key data p s) k =
      if key ≤ k ∧ k < key + data.length then data.getD (k - key) 0 else spadByte s k := by
  have hu : spadDefault (spadWrite key data p s) k = spadDefault s k := rfl
  have hb : (spadWrite key data p s).spad.bytes = putBytes key data s.spad.undef s.spad.bytes := rfl
  unfold spadByte
  rw [hu, hb, look_putBytes]
  split
  · split
    · next h => simp only [spadDefault, h.2, if_pos, Option.getD_none, h.1]
    · rfl
  · rfl

theorem spadBytes_spadWrite_same (key : Nat) (data : Bytes) (p : Bool) (s : State) :
    spadBytes (spadWrite key data p s) key data.length = data := by
  apply List.ext_getElem
  · simp [spadBytes]
  · intro i h1 h2
    simp [spadBytes, spadByte_spadWrite, h2]

theorem spadByte_congr {s t : State} (h : t.spad = s.spad) (k : Nat) : spadByte t k = spadByte s k := by
  simp only [spadByte, spadDefault, h]

theorem spadBytes_congr {s t : State} (h : t.spad = s.spad) (k n : Nat) : spadBytes t k n = spadBytes s k n := by
  simp only [spadBytes, spadByte_congr h]

end Sys2Proof.Machine
end

