-- ==== Sys2Proof/WellFormed.lean ====
section
/-! DEFINITION. Well-formed commands: operands that have the sizes the manual gives them. A meaning is defined on every
command; on an ill-formed one it stands for nothing that can arrive. -/

namespace Sys2Proof

/-- A number fits a width. -/
def fits (width n : Nat) : Bool := decide (n < 2 ^ width)

/-- Numbers of a list each fit a width. -/
def allFit (width : Nat) (ns : List Nat) : Bool := ns.all (fits width)

/-- A link number of 0x4020:01: ports 0 to 7, TW 8, and the paths from 16 up, but from no tower to itself. -/
def linkNumber (n : Nat) : Bool :=
  decide (n ≤ 8) || (decide (16 ≤ n ∧ n < 16 + 1152) && decide ((n - 16) % 12 ≠ (n - 16) / 96))

/-- Lanes of a link: 64 of a port, 8 of TW, 32 of a path (R268). -/
def linkWidth (n : Nat) : Nat := if n < 8 then 64 else if n = 8 then 8 else 32

/-- A flit of the ports and TW has 256 bytes (R270). -/
def flitSized (b : Bytes) : Bool := decide (b.length = 256)

/-- A twin packet has its 16-byte header (R446). -/
def twinSized (b : Bytes) : Bool := decide (16 ≤ b.length)

/-- An open packet carries words of 8 bytes, at most 8 lines of them (R236). -/
def packetSized (p : OpenPacket) : Bool := decide (p.data.length % 8 = 0 ∧ p.data.length ≤ 512)

/-- The pairs of operand formats of R102. -/
def pairNamed (w a : Nat) : Bool :=
  decide ((w = 3 ∨ w = 4) ∧ (a = 3 ∨ a = 4)) || decide ((6 ≤ w ∧ w ≤ 10) ∧ (6 ≤ a ∧ a ≤ 10)) ||
    decide (w = a ∧ (w = 5 ∨ w = 1 ∨ w = 2))

/-- A scale array starts on a line boundary (R114). -/
def rangeAligned (r : ElemRange) : Bool := decide (r.scales.toNat % 512 = 0)

/-- A vector instruction takes at most `most` elements and writes from a block boundary (R72, R101). -/
def vectorShaped (place : VectorPlace) (src : ElemRange) (count most : Nat) : Bool :=
  decide (0 < count ∧ count ≤ most) && rangeAligned src && rangeAligned place.dest && decide (place.dest.first % 32 = 0) &&
    decide (place.dest.data.toNat % 8 = 0)

/-- The sizes of a command's operands. -/
def Instr.wellFormed (i : Instr) : Bool := match i with
  | .frameBoundary taps => taps.all (fun t => fits 16 t.power)
  | .crossingFault _ _ port _ lines => decide (port < 4) && decide (0 < lines)
  | .scratchpadRead _ _ _ a b _ => (a ++ b).all (fun x => decide (0 < x.length) &&
      (match x.write with
      | some (d, _) => decide (d.length = x.length)
      | none => true) && decide (x.route.isSome = (decide (x.owner.val = 9) && x.write.isSome)))
  | .matrixOperation op => pairNamed op.weightFormat op.actFormat && rangeAligned op.acts && rangeAligned op.weights &&
      op.writes.all (fun w => decide (w.format.val ≤ 4 ∨ op.weightFormat.val = 5) && decide (w.dest.toNat % 8 = 0))
  | .mxConvert place src count _ target _ => vectorShaped place src count 64 && decide (6 ≤ target.val ∧ target.val ≤ 10)
  | .vectorConvert place src count _ source target _ _ =>
    vectorShaped place src count 64 && decide (source.val ≤ 10 ∧ target.val ≤ 10)
  | .sparseConvert place src count _ target _ =>
    vectorShaped place src count 256 && decide (count % 4 = 0) && decide (1 ≤ target.val ∧ target.val ≤ 10)
  | .vectorFma place a b c count format _ => vectorShaped place a count (if format.val = 0 then 64 else 128) &&
      rangeAligned b && rangeAligned c
  | .transcendental place src count _ _ => vectorShaped place src count 64
  | .routerToken _ _ _ _ scores => allFit 32 scores && decide (scores.length ≤ 64)
  | .dramWrite _ address data _ => decide (0 < data.length) && decide (address.toNat % 64 + data.length ≤ 64)
  | .diodeSample readings => decide (readings.length = 44)
  | .oxSample readings _ => decide (readings.length = 44)
  | .slotReceived _ _ _ _ errors => errors.all (fun e => decide (e.1 < 80) && flitSized e.2)
  | .openWrite _ p => packetSized p
  | .openRead _ p => packetSized p
  | .openAtomic _ p => packetSized p
  | .openReadData _ p => packetSized p
  | .openCompletion _ p => packetSized p
  | .openAtomicData _ p => packetSized p
  | .ringSample ring _ _ => match ring with
    | .steering a _ b _ => decide (a ≠ b)
    | _ => true
  | .linkTraining n failed skews => failed.all (fun l => decide (l < linkWidth n.val)) && decide (skews.length ≤ linkWidth n.val)
  | .linkLock n _ => linkNumber n.toNat
  | .linkLockLost n _ => linkNumber n.toNat
  | .dataFlit _ flit _ => flitSized flit
  | .nullFlit n flit => linkNumber n.toNat && flitSized flit
  | .linkInfo _ flit => flitSized flit
  | .tapRequest n ask => linkNumber n.toNat && (match ask with
    | .flit f => decide (n.toNat ≤ 8) && flitSized f
    | .mesh lane _ => decide (8 < n.toNat) && decide (lane.toNat < 32))
  | .narrowNow _ flit => flitSized flit
  | .loopbackReq _ flit => flitSized flit
  | .replayTimer n => linkNumber n.toNat
  | .eyeEstimate n estimates _ => linkNumber n.toNat && decide (estimates.length = linkWidth n.toNat)
  | .lossOfSignal n lane _ => linkNumber n.toNat && decide (lane.toNat < linkWidth n.toNat)
  | .lossOfClockRecovery n lane _ => linkNumber n.toNat && decide (lane.toNat < linkWidth n.toNat)
  | .darkMarker _ _ _ compared mismatches => decide (mismatches ≤ compared)
  | .compareCountStop _ _ counts => counts.all (fun c => decide (c.mismatches ≤ c.compared))
  | .groupReceived _ _ group => decide (group.length = 540)
  | .lease packet _ _ => twinSized packet
  | .leaseAck packet _ _ => twinSized packet
  | .claim packet => twinSized packet
  | .health packet => twinSized packet
  | .queue packet => twinSized packet
  | .image packet => twinSized packet
  | .block packet => twinSized packet
  | .twinCommit packet _ => twinSized packet
  | .handoverPropose packet => twinSized packet
  | .handoverAgree packet => twinSized packet
  | .handoverAbandon packet => twinSized packet
  | .step4BundleRepair errors => errors.all (fun e => e.2.2.all (fun l => decide (l < 68)))
  | .tickWordReceived .. | .tickMissed .. | .frameLengthWrite .. | .droopStretch .. | .spadAddressFault ..
  | .routeParityFail .. | .clusterClearDone .. | .clearRetiredBanks .. | .partitionMapWrite .. | .load ..
  | .loadAdmission .. | .unload .. | .run .. | .preempt .. | .resume .. | .abort .. | .unknownCommand ..
  | .remoteEdgeArrival .. | .taskStart .. | .taskEnd .. | .saveComplete .. | .restoreComplete ..
  | .dmaRetryBackoff .. | .translationRootWrite .. | .translationInvalidate .. | .invalidateDone .. | .tableWalk ..
  | .copy .. | .fill .. | .gather .. | .scatter .. | .rowMove .. | .dmaAtomic .. | .descriptorRefused ..
  | .descriptorDone .. | .faultResponseRetry .. | .faultResponseFail .. | .faultResponseUnknown .. | .faultTimeout ..
  | .rcInvalidation .. | .rcInvalidationAck .. | .rcSharerLost .. | .rcFillReturn .. | .dramRead ..
  | .dramWriteBack .. | .refresh .. | .drainComplete .. | .patrolRead .. | .handoverScrub .. | .scrubDone ..
  | .slotBoundary .. | .requestWord .. | .sheepdogDecision .. | .grantWord .. | .noPreamble .. | .meshLinkFail ..
  | .armRecord .. | .lightSumEvaluate .. | .sumNotice .. | .meshMemberContribution .. | .trainingTimeout ..
  | .ackWord .. | .nakRetransmit .. | .eyeScan .. | .eyeScanDone .. | .loopbackEnd .. | .loopbackNearParallel ..
  | .loopbackNearSerial .. | .loopbackFarEnd .. | .linkRetrain .. | .linkTakeOutOfService ..
  | .linkReturnToService .. | .spareCommand .. | .lambLocked .. | .noticeDuplicate .. | .noticeSwitch ..
  | .noticePark .. | .noticeReturn .. | .noticeAbandon .. | .compareReport .. | .spareDecision ..
  | .recalPassStart .. | .calRecordWrite .. | .groupReplayTimer .. | .probe .. | .reply .. | .assign ..
  | .assigned .. | .discoveryTimeout .. | .baseResetCommand .. | .drainDone .. | .drainTimeout ..
  | .uncommandedBaseReset .. | .baseReturn .. | .readRetryLimit .. | .packageIdWrite .. | .routeTableWrite ..
  | .routeSettle .. | .jobBindingWrite .. | .jobTeardown .. | .fabricRead .. | .fabricWrite .. | .fabricAtomic ..
  | .fabricReadData .. | .fabricCompletion .. | .fabricAtomicData .. | .credit .. | .creditTimer .. | .hello ..
  | .helloTimer .. | .keySwitch .. | .keyCountExpiry .. | .combineWindowExpiry .. | .entryApplied
  | .replyCacheExpiry .. | .responseTimer .. | .fabricRetryBackoff .. | .atomicSequenceHoldEnd ..
  | .atomicFaultHoldEnd .. | .rateLimiterTimer .. | .referenceLoss .. | .referenceReturn ..
  | .referenceHoldoverExpiry .. | .requestedClockWrite .. | .vcoreRampDone | .pllLocked .. | .pllLockFail ..
  | .replicaWarn .. | .replicaCritical .. | .replicaRelease | .inputFailed .. | .inputInRange .. | .vinAStable
  | .powerLoss | .capWindow .. | .capLimitRise | .phaseEnd .. | .profileWriteTimer | .capProfileWrite ..
  | .capProfileClear .. | .thermalLimitStep | .thermalLimitRise | .oxRelease | .twinModeWrite .. | .leaseRenewTimer
  | .leaseAckTimer .. | .renewPulse .. | .acknowledgePulse .. | .claimPulse .. | .wireStuck | .leasePathExpiry ..
  | .pairingTimeout | .fenceTimeout | .healthTimeout | .selfTestRound .. | .handoverAckTimeout | .plannedHandover ..
  | .forcedTakeover .. | .unpair .. | .designatedRegionsWrite .. | .worldMapWrite .. | .regionTableWrite ..
  | .imageStaging .. | .verify .. | .imageVerifyDone | .activate .. | .activationDone | .imageCommit ..
  | .imageCommitDone .. | .imageCommitRetry | .advanceSvn .. | .getVersion .. | .getCapabilities ..
  | .negotiateAlgorithms .. | .getDigests .. | .getCertificate .. | .challenge .. | .getMeasurements ..
  | .keyExchange .. | .finish .. | .keyUpdate .. | .heartbeat .. | .endSession .. | .ideKeyInstall .. | .ideFault ..
  | .getTdispVersion .. | .getTdispCapabilities .. | .lockInterface .. | .getDeviceInterfaceReport ..
  | .getDeviceInterfaceState .. | .startInterface .. | .stopInterface .. | .tenantHandover .. | .portKeyUpdate ..
  | .hostLinkUp .. | .hostLinkDown .. | .functionLevelReset .. | .configRequest .. | .bar2Read .. | .bar2Write ..
  | .bar2Atomicop .. | .partitionOwnersWrite .. | .gqTail .. | .graphEntryFetch .. | .cqHead .. | .fqHead ..
  | .queueEnable .. | .queueDisable .. | .msixModerationTimer .. | .notifyStatusClear .. | .hostReadCompletion ..
  | .hostCompletionTimeout .. | .setEndpointId .. | .getEndpointId | .getEndpointUuid | .getMctpVersionSupport ..
  | .getMessageTypeSupport | .getVendorDefinedMessageSupport .. | .dictRead .. | .dictWrite .. | .segRead ..
  | .segBegin .. | .segData .. | .segEnd .. | .segAbort .. | .malformedMessage .. | .segTimeout ..
  | .snapshotLapse .. | .keptReplyExpiry | .noticeAnswer .. | .noticeResendTimer .. | .mgmtLink ..
  | .duplicateAddressDetection .. | .neighbourDiscovery .. | .icmpv6Echo .. | .storeConfiguration ..
  | .invalidateConfiguration .. | .startGate | .step1Supplies | .step2ManagementController .. | .step3Discovery
  | .step5BridleMesh | .step6LasersRings .. | .step7Lanes | .step8FrameLock | .stepLimit .. | .startSuccess
  | .watchdogReset | .restart .. | .restartIntoDonkey .. | .restartHoldAtFoal .. | .continueFromHold .. | .refclkLoss
  | .refclkHoldoverExpiry | .refclkReturn | .eventRecord .. | .recordRingWrite | .tokenBucketRefill .. | .freeze ..
  | .thaw .. | .freezeLimit | .clearCriticalLog .. | .perstNRelease .. | .baseDieOutOfReset .. | .laneNoTransition ..
  | .sparePoolPrbsInterval .. | .helloTimeout .. | .tagSkipExpiry .. | .tenantCleanDelay .. | .clockAlignmentDone ..
  | .linkInfoTimer .. | .msixVectorUnmask .. => true

end Sys2Proof
end

