-- ==== Sys2Proof/Tests/Slice0.lean ====
section
/-! SUPPORT. The model's own tests: worked examples of the manual, ill-formed commands that the check refuses, and for each
statement with hypotheses a state and operands that meet them. A witness takes the hypotheses of its statement word for
word, at values where its clauses meet. -/

set_option maxRecDepth 100000
set_option Elab.async false
set_option linter.unusedVariables false

namespace Sys2Proof.Tests

open Sys2Proof Sys2Proof.Machine

/-! ### States and operands of the tests -/

/-- The device in full service, its frames optical and every receiver in lock. -/
def awake : State where
  start := { step := 9, service := allUnits, serviceSince := some 0 }
  frame := { ticks := .optical, firstSent := true, optical := true,
             receivers := (List.range 12).map (fun t => (t, { locked := true, everLocked := true, optical := true })) }
  clk := { running := true, aligned := List.range 12 }
  spad := { powered := (List.range 144).map (fun k => (k, true)), ready := (List.range 144).map (fun k => (k, true)) }

/-- A manager on the management port. -/
def manager (seq : BitVec 16) : Req := { requester := .udp 0xFD00 0x7000, seq := seq }

/-- One tower's receiver as given. -/
def withReceiver (t : Nat) (r : Receiver) (s : State) : State := { s with frame.receivers := [(t, r)] }

/-- Bytes with fields written at their places. -/
def fields (length : Nat) (fs : List (Nat × Nat × Nat)) : Bytes :=
  fs.foldl (fun b f => overlay b f.1 (leBytes f.2.1 f.2.2)) (zeros length)

/-- An image of towers 0 and 1: task 0 on tower 0, task 1 on tower 1, one unconditional edge between them, one router
group of one expert on tower 0, one phase, the save mask of bank 0, and a light-summed slot from tower 0 to tower 1. -/
def smallImage : Bytes := fields 0x300 [(0x06, 1, 1), (0x10, 2, 3), (0x18, 4, 0x140), (0x20, 4, 0x180), (0x24, 4, 0x40), (0x28, 2, 2),
  (0x2C, 4, 1), (0x30, 4, 0xC0), (0x34, 4, 0x100), (0x44, 2, 1), (0x48, 1, 1), (0x58, 4, 0x260), (0x60, 2, 1),
  (0x80, 2, 1), (0x82, 1, 0x10), (0x84, 2, 1), (0x88, 1, 1), (0x8A, 2, 1), (0x98, 4, 0x280), (0xC6, 2, 1),
  (0x101, 1, 1), (0x102, 1, 1), (0x104, 2, 1), (0x143, 1, 1), (0x144, 2, 3), (0x14C, 4, 0x180), (0x150, 4, 0x30), (0x154, 2, 1), (0x170, 8, 0x2FF00000000000),
  (0x180, 8, 1), (0x2C0, 4, 0x4200B000), (0x2D4, 4, 0x80000000)]

/-- A region table whose entry 0 lets every partition read and write the first 32,768 blocks. -/
def openTable : Bytes := (fields 16 [(0, 1, 0x3D), (4, 2, 0xFFF), (12, 4, 0x8000)])

/-- Partition 0 of towers 0 and 1, with an open region table on tower 0 and no read-coherent region. -/
def twoTowers : Tab Bytes :=
  [(0x340002, [0x00, 0xFF, 0xFF, 0xFF, 0xFF, 0xFF, 0, 0]), (0x389001, zeros 8), (0x601001, openTable)]

/-- Partition 0 with a graph loaded, its queue set enabled and one entry fetched. -/
def loaded (e : BitVec 512) : State := { awake with
  dict := twoTowers
  parts := { graphs := [{ partition := 0, slot := 0, handle := 1, image := smallImage }] }
  host := { queues := [(0, { enabled := true, cqSize := 4, fetched := [(5, e)] })] } }

/-- A run of that graph. -/
def aRun : Run := { partition := 0, id := 9, handle := 1, state := .running, tasks := freshTasks smallImage }

/-- That graph with one run. -/
def runs (r : Run) (e : BitVec 512) : State := { loaded e with
  parts := { graphs := [{ partition := 0, slot := 0, handle := 1, image := smallImage }], runs := [r] } }

/-- Partition 0 of tower 0, its queue set enabled, an image on its way. -/
def loading (image : Bytes) : State := { awake with
  dict := [(0x340002, [0xF0, 0xFF, 0xFF, 0xFF, 0xFF, 0xFF, 0, 0])]
  parts := { loads := [{ partition := 0, address := 0, length := image.length }] }
  host := { queues := [(0, { enabled := true, cqSize := 4 })] } }

/-- A descriptor: operation, flags, source, destination, bytes of a row, rows, third address and kind. -/
def descriptor (op flags source dest rowBytes rows aux kind : Nat) : BitVec 512 :=
  BitVec.ofNat 512 (op + 2 ^ 8 * flags + 2 ^ 48 * kind + 2 ^ 64 * source + 2 ^ 128 * dest + 2 ^ 192 * rowBytes + 2 ^ 224 * rows +
    2 ^ 320 * aux)

/-- A run whose task 0 runs. -/
def busyRun : Run := { aRun with tasks := [(0, { phase := .running }), (1, { counter := 1 })] }

/-- The graph with that run, a few scratchpad bytes, and page 0 cached as DRAM address 0. -/
def busy : State := { runs busyRun 0 with
  spad := { awake.spad with bytes := [(0, some 1), (1, some 2), (0x100, some 9), (0x300, some 3)] }
  dma := { leaves := [(0, [{ partition := 0, level := 0, page := 0, entry := 0x1F }])] } }

/-- A descriptor in the queue of engine 3 of tower 0. -/
def queued (d : Desc) (s : State) : State := { s with dma.queues := [(3, [d])] }

/-- A FILL of the line at device virtual address 64. -/
def fillDesc : Desc := { raw := descriptor 2 0 0 64 64 1 0 0, partition := 0, run := 9, state := .active }

/-- A fault record of that run. -/
def aRecord : FaultRecord := { partition := 0, tag := 5, address := 64, cause := 1, kind := .write, level := 0, tower := 0, cluster := 0,
                               engine := 3, opcode := 2, run := 9, task := 0, remote := 0, stamp := 0, attached := 1 }

/-- A line of 64 bytes. -/
def aLine (b : Byte) : Bytes := List.replicate 64 b

/-- One link as given. -/
def withLink (n : Nat) (r : LinkRec) (s : State) : State := { s with lanes.links := [(n, r)] }

/-- A control flit with neither an acknowledgement nor a Nak. -/
def ctrlFlit (code width step : Nat) : Bytes := mkFlit 2 0 0 0 0xFFFF (controlData code width 0 0 step)

/-- A group of a vertical bundle with its CRC. -/
def group (head : Nat) (seq ack : Nat) : Bytes :=
  let body := padTo 0x218 (leBytes 8 head ++ leBytes 2 seq ++ leBytes 2 ack)
  body ++ leBytes 4 (crc32 body).toNat

/-- A packet for package 5 at port 0, from tower 3 of package 7, job 9. -/
def rackHeader (kind code : Nat) (tag : BitVec 16) (atomic : Nat) : BitVec 256 :=
  let f : FabricHeader := {
    kind := kind
    channel := channelOf kind
    dest := 5
    source := 7
    sourceTower := if isRequest kind then 3 else 0
    engine := 3
    code := code
    tag := tag
    job := 9
    address := 64
    enables := if kind = 7 then 4 else if kind = 2 then 0xFF else 0
    atomic := atomic }
  writeHeader f

/-- Package 5 with port 0 up, job 9 bound to partition 0, and package 7 behind port 0. -/
def rack : State := { withLink 0 { state := 2, locked := true, up := true } awake with
  dict := [(0x340002, [0x00, 0xFF, 0xFF, 0xFF, 0xFF, 0xFF, 0, 0]), (0x500001, [5, 0x80]),
    (0x500002, [0xFF, 0xFF, 0xFF, 0xFF, 0xFF, 0xFF, 0xFF, 0xF0]), (0x504001, [9, 0, 1, 0, 0, 0, 0, 0]), (0x601001, openTable)] }

/-- An outstanding request of engine 3 of tower 0 to package 7. -/
def asked (kind : Nat) : FabricReq :=
  let f : FabricHeader := {
    kind := kind
    channel := channelOf kind
    dest := 7
    source := 5
    engine := 3
    tag := 9
    job := 9
    address := 64 }
  { tower := 0, engine := 3, tag := 9, packet := { header := writeHeader f }, target := 7, job := 9, firstSend := 0, deadline := 1000 }

/-- A descriptor that waits for it. -/
def rackDesc (op len : Nat) : Desc :=
  let raw := descriptor op (if op = 6 then 0 else 4) 0x40 0x80 len 1 (if op = 6 then 0x300 else 0) 0
  { raw := raw, partition := 0, run := 9, state := .active, wait := .fabric 9, len := len, place := 0 }

/-- That descriptor, its request and its run. -/
def rackBusy (op len kind : Nat) : State := { queued (rackDesc op len) rack with
  parts := busy.parts, fab.outstanding := [asked kind] }

/-- A package of a pair, TW up. -/
def pair (t : Twin) : State := { withLink 8 { state := 2, locked := true, up := true } awake with twin := t }

/-- A twin packet from a partner in a state, at epoch 1 and stamp 0. -/
def token (kind state : Nat) (payload : Bytes) : Bytes :=
  leBytes 1 kind ++ leBytes 1 state ++ leBytes 2 1 ++ leBytes 4 payload.length ++ zeros 8 ++ payload

/-- What the partner says of itself: the same graph length, this capability list, and home role primary. -/
def partnerFacts (capabilities : Bytes) : TwinFacts where
  lengthCode := 2
  capabilities := capabilities
  homeRole := 1
  serial := []
  packageId := none

/-- The host link up on port A, queue set 0 and the functions as given, with page 0 of tower 0 cached as `leaf`. -/
def hosted (q : QueueSet) (leaf : BitVec 64) : State := { awake with
  dict := twoTowers
  dma := { leaves := [(0, [{ partition := 0, level := 0, page := 0, entry := leaf }])] }
  host := { released := [(0, true)], up := [(0, true)], queues := [(0, q)] } }

/-- Diodes that all read the same are sound. -/
theorem sound_replicate {s : State} (x : Int) (h : inDiodeRange x = true) (hd : s.pow.diodes = []) :
    ∀ i, i < 44 → SoundSample (List.replicate 44 x) none s i := by
  intro i hi
  have hl : diode s i = {} := by unfold diode; rw [hd]; rfl
  refine ⟨by rw [hl], by rw [hl], x, by rw [List.getElem?_replicate, if_pos hi], h, ?_, ?_⟩
  · intro y hy; rw [hl] at hy; cases hy
  · intro j z hz _
    rw [List.getElem?_replicate] at hz
    split at hz
    · cases hz; simp
    · cases hz

/-- So are those beside one that reads out of range. -/
theorem sound_beside {s : State} (hd : s.pow.diodes = []) : ∀ j, j < 44 → j ≠ 3 →
    SoundSample ((List.replicate 44 600).set 3 2000) (some 3) s j ∧
      ∀ y, ((List.replicate 44 (600 : Int)).set 3 2000)[j]? = some y → y ≤ 900 := by
  have at_ : ∀ j z, ((List.replicate 44 (600 : Int)).set 3 2000)[j]? = some z → j ≠ 3 → z = 600 := by
    intro j z hz hj
    rw [List.getElem?_set, if_neg (Ne.symm hj), List.getElem?_replicate] at hz
    split at hz
    · cases hz; rfl
    · cases hz
  intro j hj h3
  have hl : diode s j = {} := by unfold diode; rw [hd]; rfl
  refine ⟨⟨by rw [hl], by rw [hl], 600, ?_, by decide, ?_, ?_⟩, ?_⟩
  · rw [List.getElem?_set, if_neg (Ne.symm h3), List.getElem?_replicate, if_pos hj]
  · intro y hy; rw [hl] at hy; cases hy
  · intro k z hz hk
    have : z = 600 := at_ k z hz (fun e => hk (by rw [e]))
    subst this; decide
  · intro y hy; rw [at_ j y hy h3]; decide

/-- A command answers a next state of which `f` holds. -/
def after (o : Host.Outcome State Fault Refusal) (f : State → Bool) : Bool := match o with
  | .next t => f t
  | _ => false

/-! ### Worked examples -/

/-- R593: the check values over "123456789". -/
theorem test_crc_check_values :
    crc32 [0x31, 0x32, 0x33, 0x34, 0x35, 0x36, 0x37, 0x38, 0x39] = 0xCBF43926 ∧
      crc16 [0x31, 0x32, 0x33, 0x34, 0x35, 0x36, 0x37, 0x38, 0x39] = 0x29B1 ∧
      crc8 [0x31, 0x32, 0x33, 0x34, 0x35, 0x36, 0x37, 0x38, 0x39] = 0xF4 := by decide +kernel

/-- R3: stamp 0x0000_0001_2C40_8A13 is frame 76,864, slot 138, offset 19. -/
theorem test_stamp_fields :
    stampAt { number := 76864, start := 1000, code := 2 } (1000 + 138 * 40 + 19) = 0x000000012C408A13 := by decide +kernel

/-- R31: the third DRAM record of tower T7 stands at index 69, level 0x3 on B2. -/
theorem test_die_place : diePlace 69 = (3, 2, 1) := by decide +kernel

/-- R193: tower offset 0x4_2B5C_9800 of T7 is line 0 of pseudo-channel 19, bank 28, row 0x215A. -/
theorem test_line_address :
    let line := 0x00742B5C9800 / 64
    lineTower line = 7 ∧ lineColumn line = 0 ∧ lineChannel line = 19 ∧ lineBank line = 28 ∧ lineRow line = 0x215A := by
  decide +kernel

/-- R101: 5.2, −0.3, 2.5 and 0.2 in FP32 become the E2M1 elements 0x7, 0x9, 0x4 and 0x0. -/
theorem test_mxfp4_elements :
    ([0x40A66666, 0xBE99999A, 0x40200000, 0x3E4CCCCD] : List Nat).map
      (fun v => (toFormat 0xA .rne false 0 (decodeElem 0 v)).1) = [0x7, 0x9, 0x4, 0x0] := by decide +kernel

/-- R101: a block whose largest magnitude is 5.2 takes the scale 2^0. -/
theorem test_mxfp4_exponent : blockExponent 0xA [decodeElem 0 0x40A66666, decodeElem 0 0xBE99999A] = 0 := by decide +kernel

/-- R198, R201: a line with one symbol in error decodes to what was written. -/
theorem test_line_code :
    let word := lineWord (aLine 5) false
    classify 1 (word.set 17 2) = .corrected word := by decide +kernel

/-- R232: c = 6, pointer at T8, T0 and T7 in class 1, T10 in class 0: T10 wins, c = 7, and the pointer moves to T11. -/
theorem test_sheepdog_decision :
    after (execSheepdogDecision 4 0 { awake with
        pho.pathOn := (List.range 96).map (fun n => (400 + n, true))
        pho.sheepdogs := [(34, { count := 6, pointer := 8, requests := [⟨0, 1⟩, ⟨7, 1⟩, ⟨10, 0⟩] })] })
      (fun t => decide ((sheepdog t 4 2).last.map (·.winner) = some 10 ∧ (sheepdog t 4 2).count = 7 ∧
        (sheepdog t 4 2).pointer = 11)) = true := by decide +kernel

/-! ### Ill-formed commands -/

/-- A place for a vector result, on a block boundary. -/
def onBlock : VectorPlace :=
  { tower := 0, cluster := 0, core := 0, mask := 0, dest := { data := 0, scales := 0, positions := 0, first := 0 } }

/-- An array that begins on a line. -/
def fromLine : ElemRange := { data := 0x100, scales := 0x200, positions := 0, first := 0 }

/-- A matrix operation of FP8 operands that does nothing. -/
def idleMatrix : MatrixOp where
  tower := 0
  cluster := 0
  core := 0
  engine := 0
  weightFormat := 3
  actFormat := 4
  layout := 0
  budget := 0
  acts := fromLine
  weights := fromLine
  stride := 0
  clear := []
  steps := []
  writes := []

/-- What a package learns of a partner that has nothing to say. -/
def noFacts : TwinFacts := partnerFacts []

theorem smoke_frame_taps : (Instr.frameBoundary [{ flock := 0, source := 0, power := 65536, offGrid := false }]).wellFormed =
    false := by decide
theorem smoke_crossing : (Instr.crossingFault 0 0 4 0 1).wellFormed = false ∧ (Instr.crossingFault 0 0 0 0 0).wellFormed =
    false := by decide
theorem smoke_spad_length : (Instr.scratchpadRead 0 0 0 [⟨0, 0, 0, none, none⟩] [] []).wellFormed = false ∧
    (Instr.scratchpadRead 0 0 0 [] [⟨0, 0, 8, some ([1], false), none⟩] []).wellFormed = false := by decide
theorem smoke_spad_route : (Instr.scratchpadRead 0 0 0 [⟨9, 0, 8, some (zeros 8, false), none⟩] [] []).wellFormed = false ∧
    (Instr.scratchpadRead 0 0 0 [⟨8, 0, 8, none, some (0, 0)⟩] [] []).wellFormed = false := by decide
theorem smoke_matrix_formats : (Instr.matrixOperation { idleMatrix with weightFormat := 0, actFormat := 0 }).wellFormed = false ∧
    (Instr.matrixOperation { idleMatrix with actFormat := 6 }).wellFormed = false ∧
    (Instr.matrixOperation idleMatrix).wellFormed = true := by decide
theorem smoke_matrix_places : (Instr.matrixOperation { idleMatrix with acts := { fromLine with scales := 1 } }).wellFormed =
      false ∧
    (Instr.matrixOperation { idleMatrix with weights := { fromLine with scales := 64 } }).wellFormed = false ∧
    (Instr.matrixOperation { idleMatrix with writes := [⟨0, 5, 0⟩] }).wellFormed = false ∧
    (Instr.matrixOperation { idleMatrix with writes := [⟨0, 0, 4⟩] }).wellFormed = false := by decide
theorem smoke_vector_shape : (Instr.mxConvert onBlock fromLine 65 0 6 .rne).wellFormed = false ∧
    (Instr.mxConvert onBlock fromLine 0 0 6 .rne).wellFormed = false ∧
    (Instr.mxConvert { onBlock with dest := { fromLine with first := 1 } } fromLine 32 0 6 .rne).wellFormed = false ∧
    (Instr.mxConvert { onBlock with dest := { fromLine with data := 4 } } fromLine 32 0 6 .rne).wellFormed = false := by decide
theorem smoke_vector_formats : (Instr.mxConvert onBlock fromLine 32 0 5 .rne).wellFormed = false ∧
    (Instr.vectorConvert onBlock fromLine 32 false 11 0 .rne false).wellFormed = false ∧
    (Instr.sparseConvert onBlock fromLine 32 0 0 .rne).wellFormed = false := by decide
theorem smoke_vector_counts : (Instr.sparseConvert onBlock fromLine 258 0 1 .rne).wellFormed = false ∧
    (Instr.sparseConvert onBlock fromLine 30 0 1 .rne).wellFormed = false ∧
    (Instr.vectorFma onBlock fromLine fromLine fromLine 65 0 .rne).wellFormed = false ∧
    (Instr.vectorFma onBlock fromLine { fromLine with scales := 8 } fromLine 64 0 .rne).wellFormed = false ∧
    (Instr.transcendental onBlock fromLine 65 .tanh 0).wellFormed = false := by decide
theorem smoke_router_scores : (Instr.routerToken 0 0 0 0 [2 ^ 32]).wellFormed = false ∧
    (Instr.routerToken 0 0 0 0 (List.replicate 65 0)).wellFormed = false := by decide
theorem smoke_dram_write : (Instr.dramWrite 0 0 [] false).wellFormed = false ∧
    (Instr.dramWrite 0 60 (zeros 8) false).wellFormed = false := by decide
theorem smoke_diodes : (Instr.diodeSample []).wellFormed = false ∧ (Instr.oxSample [] []).wellFormed = false := by decide
theorem smoke_slot : (Instr.slotReceived 0 1 0 0 [(80, zeros 256)]).wellFormed = false ∧
    (Instr.slotReceived 0 1 0 0 [(0, [])]).wellFormed = false := by decide
theorem smoke_open_packets :
    let p : OpenPacket := { header := 0, data := [1] }
    (Instr.openWrite 0 p).wellFormed = false ∧ (Instr.openRead 0 p).wellFormed = false ∧
      (Instr.openAtomic 0 p).wellFormed = false ∧ (Instr.openReadData 0 p).wellFormed = false ∧
      (Instr.openCompletion 0 p).wellFormed = false ∧ (Instr.openAtomicData 0 p).wellFormed = false ∧
      (Instr.openWrite 0 { header := 0, data := zeros 520 }).wellFormed = false := by decide
theorem smoke_ring : (Instr.ringSample (.steering 3 0 3 0) 0 0).wellFormed = false := by decide
theorem smoke_training : (Instr.linkTraining 8 [8] []).wellFormed = false ∧
    (Instr.linkTraining 8 [] (List.replicate 9 0)).wellFormed = false := by decide
theorem smoke_link_numbers : (Instr.linkLock 9 []).wellFormed = false ∧ (Instr.linkLockLost 1168 []).wellFormed = false ∧
    (Instr.linkLock 16 []).wellFormed = false ∧ (Instr.nullFlit 15 (zeros 256)).wellFormed = false ∧
    (Instr.replayTimer 9).wellFormed = false := by decide
theorem smoke_flits : (Instr.dataFlit 0 [] none).wellFormed = false ∧ (Instr.nullFlit 0 []).wellFormed = false ∧
    (Instr.linkInfo 0 []).wellFormed = false ∧ (Instr.narrowNow 0 []).wellFormed = false ∧
    (Instr.loopbackReq 0 []).wellFormed = false := by decide
theorem smoke_taps : (Instr.tapRequest 17 (.flit (zeros 256))).wellFormed = false ∧
    (Instr.tapRequest 8 (.flit [])).wellFormed = false ∧ (Instr.tapRequest 8 (.mesh 0 1)).wellFormed = false ∧
    (Instr.tapRequest 17 (.mesh 32 1)).wellFormed = false := by decide
theorem smoke_lanes : (Instr.eyeEstimate 8 [] []).wellFormed = false ∧ (Instr.lossOfSignal 8 8 false).wellFormed = false ∧
    (Instr.lossOfClockRecovery 17 32 false).wellFormed = false := by decide
theorem smoke_counts : (Instr.darkMarker 0 0 0 1 2).wellFormed = false ∧
    (Instr.compareCountStop 0 0 [⟨1, 3, 4⟩]).wellFormed = false := by decide
theorem smoke_group : (Instr.groupReceived 0 0 []).wellFormed = false := by decide
theorem smoke_twin_packets : (Instr.lease [] 0 noFacts).wellFormed = false ∧ (Instr.leaseAck [] 0 noFacts).wellFormed = false ∧
    (Instr.claim []).wellFormed = false ∧ (Instr.health []).wellFormed = false ∧ (Instr.queue []).wellFormed = false ∧
    (Instr.image []).wellFormed = false ∧ (Instr.block []).wellFormed = false ∧ (Instr.twinCommit [] []).wellFormed = false ∧
    (Instr.handoverPropose []).wellFormed = false ∧ (Instr.handoverAgree []).wellFormed = false ∧
    (Instr.handoverAbandon []).wellFormed = false := by decide
theorem smoke_repair : (Instr.step4BundleRepair [(0, 0, [68])]).wellFormed = false := by decide

/-! ### The hypotheses of each statement can be met -/

theorem witness_StepRunsFrontCommand :
    ∃ (s : State), s.pending = [] :=
  ⟨State.reset, by decide +kernel⟩

theorem witness_StepKeepsForms :
    ∃ (s : State) (t : State), Memory.wf s = true ∧
      Registers.wf s = true ∧
      CountersFit s ∧
      step s = .next t :=
  ⟨awake, { awake with now := 1 }, by decide +kernel, by decide +kernel, (fun _ => by unfold counter; show (0 : Nat) < 2 ^ 64; decide), rfl⟩

theorem witness_StepRunsForward :
    ∃ (s : State), s.hen.startNumber < 2 ^ 32 :=
  ⟨State.reset, by decide +kernel⟩

theorem witness_FabricHeaderRoundTrip :
    ∃ (f : FabricHeader), f.kind < 2 ^ 8 ∧
      f.channel < 2 ^ 2 ∧
      f.dest < 2 ^ 12 ∧
      f.destTower < 2 ^ 4 ∧
      f.source < 2 ^ 12 ∧
      f.sourceTower < 2 ^ 4 ∧
      f.engine < 2 ^ 4 ∧
      f.code < 2 ^ 4 ∧
      f.hops < 2 ^ 6 ∧
      f.address < 2 ^ 48 ∧
      f.enables < 2 ^ 8 ∧
      f.atomic < 2 ^ 4 ∧
      f.age < 2 ^ 10 ∧
      f.reissues < 2 ^ 2 ∧
      f.credits.length = 4 ∧
      (∀ c ∈ f.credits, c < 2 ^ 8) :=
  ⟨{ kind := 255, channel := 3, mark := true, dest := 4095, destTower := 15, source := 4095, sourceTower := 15, engine := 15, code := 15, hops := 63, tag := 0xFFFF, job := 0xFFFF, address := 0xFFFFFFFFFFFF, enables := 255, atomic := 15, sequence := 0xFFFF, age := 1023, reissues := 3, credits := [255, 0, 255, 1] }, by decide +kernel⟩

theorem witness_StampFields :
    ∃ (f : Frame) (x : Nat), f.number < 2 ^ 48 ∧
      f.start ≤ x ∧
      x < f.start + frameCycles f.code :=
  ⟨{ number := 2 ^ 48 - 1, start := 100, code := 3 }, 100 + frameCycles 3 - 1, by decide +kernel⟩

theorem witness_RingSlots :
    ∃ (r : Record) (rest : List Record) (s : State), s.hen.frozen = false ∧
      s.hen.overflow + 1 < 2 ^ 32 ∧
      (s.hen.priorityQueue = r :: rest ∨ (s.hen.priorityQueue = [] ∧ s.hen.inputQueue = r :: rest)) :=
  ⟨{ seq := 16384 }, [], { awake with hen := { inputQueue := [({ seq := 16384 } : Record)], ring := [(0, [1])] } }, by decide +kernel⟩

theorem witness_LineCodeRoundTrip :
    (∃ (st : BitVec 58) (f : Bytes), f.length = 256) ∧
    (∃ (run : Nat × Nat) (ls : List Nat), run.2 < 63) ∧
    (∃ (bs : List Bool), bs.length % 2 = 0) ∧
    (∃ (n : Nat) (at_ : Nat) (ls : List Nat) (j : Nat), 0 < n) ∧
    (∃ (kind : Nat) (seq : Nat) (ack : Nat) (nak : Nat) (first : Nat) (data : Bytes), kind < 4 ∧
      seq < 1024 ∧
      ack < 2 ^ 16 ∧
      nak < 2 ^ 16 ∧
      first < 2 ^ 16) ∧
    (∃ (w : BundleSide) (n : Fin 36) (payload : Bytes) (s : State), (bundle s w n).next < 1024 ∧
      (bundle s w n).sentParity < 2 ^ 60 ∧
      (bundle s w (reverseBundle w n)).expected < 1024) :=
  ⟨⟨BitVec.allOnes 58, (List.range 256).map (BitVec.ofNat 8 ·), by decide +kernel⟩,
    ⟨(3, 62), List.replicate 130 3 ++ [0], by decide +kernel⟩,
    ⟨[true, false, true, true], by decide +kernel⟩,
    ⟨64, 63, (List.range 200).map (· % 4), 64, by decide +kernel⟩,
    ⟨3, 1023, 0xFFFF, 0xFFFF, 0xFFFF, List.replicate 240 0xFF, by decide +kernel⟩,
    ⟨12, 35, List.replicate 512 7, { awake with ver.bundles := [(36 * 12 + 35, { next := 1023, sentParity := 2 ^ 60 - 1 }), (36 * 12 + (reverseBundle (12 : BundleSide) (35 : Fin 36)), { expected := 1023, got := true })] }, by decide +kernel⟩⟩

theorem witness_FrameCommandsComplete :
    (∃ (taps : List LaserTap) (s : State), s.frame.ticks ≠ .off) ∧
    (∃ (w : Tower) (word : BitVec 128) (s : State), s.frame.ticks = .optical ∧
      towerUp s w = true ∧
      baseDown s (baseOfTower w) = false ∧
      tickValid word = true ∧
      (receiver s w).locked = true) ∧
    (∃ (w : Tower) (word : BitVec 128) (s : State), s.frame.ticks = .optical ∧
      towerUp s w = true ∧
      baseDown s (baseOfTower w) = false ∧
      tickValid word = true ∧
      (receiver s w).locked = false ∧ (receiver s w).good = 15) ∧
    (∃ (w : Tower) (s : State), s.frame.ticks = .optical ∧
      towerUp s w = true ∧
      baseDown s (baseOfTower w) = false ∧
      (receiver s w).everLocked = true) ∧
    (∃ (w : Tower) (s : State), s.frame.ticks = .optical ∧
      towerUp s w = true ∧
      baseDown s (baseOfTower w) = false ∧
      (receiver s w).everLocked = true ∧
      (receiver s w).missed = 3 ∧ (receiver s w).lost = false) ∧
    (∃ (req : Req) (value : Bytes) (s : State), Admitted req 0x300001 value s ∧
      leNat value < 4 ∧
      s.parts.graphs = [] ∧
      BitVec.ofNat 2 (leNat value) ≠ s.frame.code) :=
  ⟨⟨[], awake, by decide +kernel⟩,
    ⟨0, mkTick 0 2 20, awake, by decide +kernel⟩,
    ⟨11, mkTick 0 2 20, withReceiver 11 { good := 15 } awake, by decide +kernel⟩,
    ⟨0, awake, by decide +kernel⟩,
    ⟨0, withReceiver 0 { locked := true, everLocked := true, missed := 3 } awake, by decide +kernel⟩,
    ⟨manager 1, [3], awake, (by unfold Admitted; decide +kernel), by decide +kernel, by decide +kernel, by decide +kernel⟩⟩

theorem witness_StretchCommandsComplete :
    ∃ (w : Tower) (r : Region) (droop : BitVec 8) (senders : List Cluster) (receivers : List Cluster) (s : State), s.clk.running = true ∧
      towerUp s w = true ∧
      dictNat s 0x280009 < droop.toNat ∧
      r.val < 12 :=
  ⟨0, 11, 0xFF, [], [], awake, by decide +kernel⟩

theorem witness_ReferenceCommandsComplete :
    (∃ (w : Tower) (s : State), s.clk.running = true ∧
      towerUp s w = true ∧
      (reference s w).lostAt = none) ∧
    (∃ (w : Tower) (s : State), (reference s w).lostAt.isSome = true ∧
      (reference s w).expired = false) ∧
    (∃ (w : Tower) (t0 : Nat) (s : State), (reference s w).lostAt = some t0 ∧
      (reference s w).expired = false ∧
      PkgUnit.tower w ∉ s.start.kept) ∧
    (∃ (s : State), s.clk.refclkLost = none) ∧
    (∃ (t0 : Nat) (s : State), s.clk.refclkLost = some t0 ∧
      s.clk.ticksHeld = none ∧
      s.frame.ticks ≠ .off) ∧
    (∃ (o : Bool) (s : State), s.clk.ticksHeld = some o ∧
      s.frame.firstSent = true) ∧
    (∃ (o : Bool) (s : State), s.clk.ticksHeld = some o) :=
  ⟨⟨0, awake, by decide +kernel⟩,
    ⟨0, { awake with clk.references := [(0, { lostAt := some 0 })] }, by decide +kernel⟩,
    ⟨0, 0, { awake with clk.references := [(0, { lostAt := some 0 })] }, by decide +kernel⟩,
    ⟨awake, by decide +kernel⟩,
    ⟨0, { awake with clk.refclkLost := some 0 }, by decide +kernel⟩,
    ⟨true, { awake with clk.ticksHeld := some true }, by decide +kernel⟩,
    ⟨false, { awake with clk.ticksHeld := some false, now := 5000 }, by decide +kernel⟩⟩

theorem witness_ClockStepCommandsComplete :
    (∃ (req : Req) (value : Bytes) (s : State), Admitted req 0x280001 value s ∧
      8 ≤ leNat value ∧
      leNat value ≤ 0x18) ∧
    (∃ (req : Req) (value : Bytes) (s : State), Admitted req 0x280001 value s ∧
      8 ≤ leNat value ∧
      leNat value ≤ 0x18) ∧
    (∃ (c : Nat) (e : Nat) (s : State), s.clk.ramp = some (c, e)) ∧
    (∃ (w : Tower) (s : State), towerUp s w = true ∧
      w.val ∉ s.clk.lockFailed ∧
      s.clk.announced.isSome = true) ∧
    (∃ (w : Tower) (s : State), towerUp s w = true ∧
      w.val ∉ s.clk.locked ∧
      w.val ∉ s.clk.lockFailed ∧
      s.clk.announced.isSome = true) ∧
    (∃ (w : Tower) (r : Region) (reading : BitVec 6) (s : State), s.clk.running = true ∧
      towerUp s w = true ∧
      reading.toNat < dictNat s 0x280007 ∧
      (replica s w r).warnedAt = none) ∧
    (∃ (w : Tower) (r : Region) (reading : BitVec 6) (s : State), s.clk.running = true ∧
      towerUp s w = true ∧
      reading.toNat < dictNat s 0x280008) ∧
    (∃ (c : Nat) (at_ : Nat) (s : State), s.clk.replicaLimit = some c ∧
      s.clk.replicaCalm = some at_ ∧
      dictNat s 0x280001 ≤ c + 1) ∧
    (∃ (c : Nat) (at_ : Nat) (s : State), s.clk.replicaLimit = some c ∧
      s.clk.replicaCalm = some at_ ∧
      (¬ dictNat s 0x280001 ≤ c + 1)) :=
  ⟨⟨manager 1, [0x18], awake, (by unfold Admitted; decide +kernel), by decide +kernel, by decide +kernel⟩,
    ⟨manager 1, [8], awake, (by unfold Admitted; decide +kernel), by decide +kernel, by decide +kernel⟩,
    ⟨0x15, 7, { awake with clk.ramp := some (0x15, 7) }, by decide +kernel⟩,
    ⟨0, { awake with clk.announced := some 0x15 }, by decide +kernel⟩,
    ⟨0, { awake with clk.announced := some 0x15 }, by decide +kernel⟩,
    ⟨0, 12, 0, awake, by decide +kernel⟩,
    ⟨0, 12, 0, awake, by decide +kernel⟩,
    ⟨0x13, 0, { awake with clk.replicaLimit := some 0x13, clk.replicaCalm := some 0 }, by decide +kernel⟩,
    ⟨0x12, 0, { awake with clk.replicaLimit := some 0x12, clk.replicaCalm := some 0 }, by decide +kernel⟩⟩

theorem witness_ScratchpadCommandsComplete :
    (∃ (w : Tower) (k : Cluster) (bank : Fin 56) (a : SpadAccess) (s : State), Tab.look false s.spad.ready (12 * w.val + k.val) = true ∧
      a.offset.toNat < 0xC00000 ∧
      bankDual (Tab.look 0 s.spad.penModes (12 * w.val + k.val)) bank = false ∧
      bankOf (Tab.look 0 s.spad.penModes (12 * w.val + k.val)) a.offset.toNat = bank.val ∧
      accessLegal a = true ∧
      mayAccess s w k bank 0 a = true ∧
      Tab.look [] s.spad.held (((12 * w.val + k.val) * 56 + bank.val) * 2) = [] ∧
      a.write = none) ∧
    (∃ (w : Tower) (k : Cluster) (bank : Fin 56) (a : SpadAccess) (s : State), Tab.look false s.spad.ready (12 * w.val + k.val) = true ∧
      a.offset.toNat < 0xC00000 ∧
      bankDual (Tab.look 0 s.spad.penModes (12 * w.val + k.val)) bank = false ∧
      bankOf (Tab.look 0 s.spad.penModes (12 * w.val + k.val)) a.offset.toNat = bank.val ∧
      accessLegal a = true ∧
      mayAccess s w k bank 0 a = true ∧
      Tab.look [] s.spad.held (((12 * w.val + k.val) * 56 + bank.val) * 2) = [] ∧
      a.owner.val ≠ 9 ∧ a.write = some ([1, 2, 3, 4, 5, 6, 7, 8], true) ∧ 8 = a.length) ∧
    (∃ (w : Tower) (k : Cluster) (bank : Fin 56) (a : SpadAccess) (b : SpadAccess) (data : Bytes) (p : Bool) (s : State), let c := 12 * w.val + k.val; let inBank (x : SpadAccess) : Prop := x.offset.toNat < 0xC00000 ∧ bankOf (Tab.look 0 s.spad.penModes c) x.offset.toNat = bank.val; Tab.look false s.spad.ready c = true ∧
      bankDual (Tab.look 0 s.spad.penModes c) bank = true ∧
      inBank a ∧
      inBank b ∧
      accessLegal a = true ∧
      accessLegal b = true ∧
      unscheduled a.owner = false ∧
      a.owner.val ≠ 9 ∧
      mayAccess s w k bank 0 a = true ∧
      mayAccess s w k bank 1 b = true ∧
      Tab.look [] s.spad.held ((c * 56 + bank.val) * 2) = [] ∧
      Tab.look [] s.spad.held ((c * 56 + bank.val) * 2 + 1) = [] ∧
      Tab.look none s.spad.reissue (c * 56 + bank.val) = none ∧
      a.write = some (data, p) ∧
      data.length = a.length ∧
      b.write = none ∧
      sharedWords a b ≠ []) ∧
    (∃ (w : Tower) (k : Cluster) (address : BitVec 28) (s : State), spadPopulated address.toNat = true) ∧
    (∃ (w : Tower) (k : Cluster) (address : BitVec 28) (s : State), spadPopulated address.toNat = false) ∧
    (∃ (w : Tower) (k : Cluster) (entry : Fin 2048) (word : BitVec 64) (s : State), (Tab.look [] s.spad.routes (12 * w.val + k.val))[entry.val]? = some word) ∧
    (∃ (w : Tower) (k : Cluster) (s : State), Tab.look false s.spad.powered (12 * w.val + k.val) = true ∧
      w.val ∈ s.clk.aligned ∧
      Tab.look false s.spad.ready (12 * w.val + k.val) = false ∧
      (∀ e ∈ s.dma.queues, ∀ d ∈ e.2, d.wait ≠ .clearing (12 * w.val + k.val))) ∧
    (∃ (req : Req) (value : Bytes) (s : State), Admitted req 0x342003 value s ∧
      leNat value < 4096 ∧
      (s.start.foal || stopped s) = true) :=
  ⟨⟨0, 11, 55, { owner := 3, offset := 0xBFFFFF, length := 1, write := none }, { awake with spad.maps := [(11, (List.replicate 20 0x33 ++ [0] ++ List.replicate 8 0x33))] }, by decide +kernel⟩,
    ⟨0, 11, 0, { owner := 3, offset := 0, length := 8, write := some ([1, 2, 3, 4, 5, 6, 7, 8], true) }, { awake with spad.maps := [(11, (List.replicate 20 0x33 ++ [0] ++ List.replicate 8 0x33))] }, by decide +kernel⟩,
    ⟨0, 11, 40, { owner := 3, offset := 0xA00000, length := 8, write := some ([1, 2, 3, 4, 5, 6, 7, 8], false) }, { owner := 8, offset := 0xA00008, length := 8, write := none }, [1, 2, 3, 4, 5, 6, 7, 8], false, { awake with spad.maps := [(11, (List.replicate 20 0x33 ++ [0xFF] ++ List.replicate 8 0x33))], spad.penModes := [(11, 0xFF)] }, by decide +kernel⟩,
    ⟨0, 11, 0x0BFFFFF, awake, by decide +kernel⟩,
    ⟨0, 11, 0x0C00000, awake, by decide +kernel⟩,
    ⟨0, 11, 0, 0, { awake with spad.routes := [(11, [0])] }, by decide +kernel⟩,
    ⟨0, 11, { awake with spad.ready := [], spad.bytes := [(11 * 2 ^ 24, some 7)] }, by decide +kernel⟩,
    ⟨manager 1, [1, 0], { awake with spad.retired := [(11, 5), (12, 6)] }, (by unfold Admitted; decide +kernel), by decide +kernel, by decide +kernel⟩⟩

theorem witness_ArithmeticCommandsComplete :
    (∃ (op : MatrixOp) (s : State), coreWorks s op.tower op.cluster = false) ∧
    (∃ (op : MatrixOp) (s : State), coreWorks s op.tower op.cluster = true ∧ (rateClass op.weightFormat op.actFormat).isSome = true ∧ stepPopulated op { row := 31, acts := 0, weights := 0 } = true ∧ stepSkipped s op { row := 31, acts := 0, weights := 0 } = true) ∧
    (∃ (op : MatrixOp) (s : State), coreWorks s op.tower op.cluster = true ∧ (rateClass op.weightFormat op.actFormat).isSome = true ∧ stepPopulated op { row := 31, acts := 0, weights := 0 } = true ∧ stepSkipped s op { row := 31, acts := 0, weights := 0 } = false) ∧
    (∃ (op : MatrixOp) (s : State), coreWorks s op.tower op.cluster = true ∧ (rateClass op.weightFormat op.actFormat).isSome = true ∧ op.steps = [] ∧ op.writes = []) ∧
    (∃ (op : MatrixOp) (s : State), coreWorks s op.tower op.cluster = true ∧ (rateClass op.weightFormat op.actFormat).isSome = true ∧ op.steps = [] ∧ op.clear = [] ∧ HasPlace ({ row := 3, format := 0, dest := 0x2000 } : MatrixWrite).dest (writePort op ({ row := 3, format := 0, dest := 0x2000 } : MatrixWrite).format 0).2.1 0 16) ∧
    (∃ (place : VectorPlace) (src : ElemRange) (source : Fin 2) (target : Fin 16) (mode : Rounding) (s : State), let at_ := packedKey place.tower place.dest.scales 8 0; let key := packedKey place.tower place.dest.data (fmtWidth target) 0; VectorReads place [(source.val, src, 32)] s ∧
      isMx target = true ∧
      place.dest.first = 0 ∧
      HasPlace place.dest.data (fmtWidth target) 0 32 ∧
      rangePopulated place.dest.scales.toNat 1 = true ∧
      (at_ < key ∨ key + packedBytes (fmtWidth target) 0 32 ≤ at_) ∧
      ((values place source src 32 s).any (fun x => match x with | .fin _ _ _ => false | _ => true)) = true) ∧
    (∃ (place : VectorPlace) (src : ElemRange) (source : Fin 2) (target : Fin 16) (mode : Rounding) (s : State), let at_ := packedKey place.tower place.dest.scales 8 0; let key := packedKey place.tower place.dest.data (fmtWidth target) 0; VectorReads place [(source.val, src, 32)] s ∧
      isMx target = true ∧
      place.dest.first = 0 ∧
      HasPlace place.dest.data (fmtWidth target) 0 32 ∧
      rangePopulated place.dest.scales.toNat 1 = true ∧
      (at_ < key ∨ key + packedBytes (fmtWidth target) 0 32 ≤ at_) ∧
      ((values place source src 32 s).all (fun x => match x with | .fin _ m _ => decide (m = 0) | _ => false)) = true) ∧
    (∃ (place : VectorPlace) (src : ElemRange) (source : Fin 2) (target : Fin 16) (mode : Rounding) (s : State), let at_ := packedKey place.tower place.dest.scales 8 0; let key := packedKey place.tower place.dest.data (fmtWidth target) 0; VectorReads place [(source.val, src, 32)] s ∧
      isMx target = true ∧
      place.dest.first = 0 ∧
      HasPlace place.dest.data (fmtWidth target) 0 32 ∧
      rangePopulated place.dest.scales.toNat 1 = true ∧
      (at_ < key ∨ key + packedBytes (fmtWidth target) 0 32 ≤ at_) ∧
      ((values place source src 32 s).all (fun x => match x with | .fin _ _ _ => true | _ => false)) = true ∧ ((values place source src 32 s).any (fun x => match x with | .fin _ m _ => decide (m ≠ 0) | _ => false)) = true) ∧
    (∃ (place : VectorPlace) (src : ElemRange) (count : Nat) (int32 : Bool) (source : Fin 16) (target : Fin 16) (mode : Rounding) (toInf : Bool) (s : State), isMx target = false ∧
      0 < count ∧
      VectorReads place [(if int32 then 0 else source.val, src, count)] s ∧
      HasPlace place.dest.data (fmtWidth target) place.dest.first count) ∧
    (∃ (place : VectorPlace) (src : ElemRange) (count : Nat) (int32 : Bool) (source : Fin 16) (target : Fin 16) (mode : Rounding) (toInf : Bool) (s : State), isMx target = false ∧
      0 < count ∧
      VectorReads place [(if int32 then 0 else source.val, src, count)] s ∧
      HasPlace place.dest.data (fmtWidth target) place.dest.first count) ∧
    (∃ (place : VectorPlace) (src : ElemRange) (source : Fin 2) (target : Fin 16) (mode : Rounding) (s : State), let g := values place source src 4 s; let at_ := packedKey place.tower place.dest.positions 4 0; let key := packedKey place.tower place.dest.data (fmtWidth target) 0; isMx target = false ∧
      VectorReads place [(source.val, src, 4)] s ∧
      place.dest.first = 0 ∧
      HasPlace place.dest.data (fmtWidth target) 0 2 ∧
      rangePopulated place.dest.positions.toNat 1 = true ∧
      Num.nan ∉ g ∧
      (at_ < key ∨ key + packedBytes (fmtWidth target) 0 2 ≤ at_)) ∧
    (∃ (place : VectorPlace) (a : ElemRange) (b : ElemRange) (c : ElemRange) (count : Nat) (format : Fin 2) (mode : Rounding) (s : State), 0 < count ∧
      VectorReads place [(format.val, a, count), (format.val, b, count), (format.val, c, count)] s ∧
      HasPlace place.dest.data (fmtWidth format) place.dest.first count) ∧
    (∃ (place : VectorPlace) (a : ElemRange) (b : ElemRange) (c : ElemRange) (count : Nat) (format : Fin 2) (mode : Rounding) (s : State), 0 < count ∧
      VectorReads place [(format.val, a, count), (format.val, b, count), (format.val, c, count)] s ∧
      HasPlace place.dest.data (fmtWidth format) place.dest.first count) ∧
    (∃ (place : VectorPlace) (src : ElemRange) (count : Nat) (f : Transcendental) (format : Fin 2) (s : State), 0 < count ∧
      VectorReads place [(format.val, src, count)] s ∧
      HasPlace place.dest.data 32 place.dest.first count) ∧
    (∃ (place : VectorPlace) (src : ElemRange) (count : Nat) (f : Transcendental) (format : Fin 2) (s : State), 0 < count ∧
      VectorReads place [(format.val, src, count)] s ∧
      HasPlace place.dest.data 32 place.dest.first count) :=
  ⟨⟨{ tower := 0, cluster := 1, core := 2, engine := 3, weightFormat := 1, actFormat := 1, layout := 0, budget := 1, acts := { data := 0, scales := 0, positions := 0, first := 0 }, weights := { data := 0x1000, scales := 0, positions := 0, first := 0 }, stride := 16, clear := [], steps := [{ row := 31, acts := 0, weights := 0 }], writes := [] }, busy, by decide +kernel⟩,
    ⟨{ tower := 0, cluster := 0, core := 2, engine := 3, weightFormat := 1, actFormat := 1, layout := 0, budget := 1, acts := { data := 0, scales := 0, positions := 0, first := 0 }, weights := { data := 0x1000, scales := 0, positions := 0, first := 0 }, stride := 16, clear := [], steps := [{ row := 31, acts := 0, weights := 0 }], writes := [] }, { busy with spad.bytes := [] }, by decide +kernel⟩,
    ⟨{ tower := 0, cluster := 0, core := 2, engine := 3, weightFormat := 1, actFormat := 1, layout := 0, budget := 1, acts := { data := 0, scales := 0, positions := 0, first := 0 }, weights := { data := 0x1000, scales := 0, positions := 0, first := 0 }, stride := 16, clear := [], steps := [{ row := 31, acts := 0, weights := 0 }], writes := [] }, { busy with spad.bytes := [(0, some 0x80), (1, some 0x3F), (0x1000, some 0x80), (0x1001, some 0x40)] }, by decide +kernel⟩,
    ⟨{ tower := 0, cluster := 0, core := 2, engine := 3, weightFormat := 1, actFormat := 1, layout := 0, budget := 1, acts := { data := 0, scales := 0, positions := 0, first := 0 }, weights := { data := 0x1000, scales := 0, positions := 0, first := 0 }, stride := 16, clear := [3], steps := [], writes := [] }, { busy with arith.acc := [(((0 * 6 + 2) * 4 + 3) * 512 + 48, 5)] }, by decide +kernel⟩,
    ⟨{ tower := 0, cluster := 0, core := 2, engine := 3, weightFormat := 1, actFormat := 1, layout := 0, budget := 1, acts := { data := 0, scales := 0, positions := 0, first := 0 }, weights := { data := 0x1000, scales := 0, positions := 0, first := 0 }, stride := 16, clear := [], steps := [], writes := [({ row := 3, format := 0, dest := 0x2000 } : MatrixWrite)] }, { busy with arith.acc := [(((0 * 6 + 2) * 4 + 3) * 512 + 49, 0x40000000)] }, (by unfold HasPlace; decide +kernel)⟩,
    ⟨{ tower := 0, cluster := 0, core := 1, dest := { data := 0x1000, scales := 0x2000, positions := 0, first := 0 }, mask := BitVec.allOnes 64 }, { data := 0, scales := 0, positions := 0, first := 0 }, 0, 7, .rne, { busy with spad.bytes := [(2, some 0xC0), (3, some 0x7F)] }, (by unfold VectorReads; decide +kernel), by decide +kernel, by decide +kernel, (by unfold HasPlace; decide +kernel), by decide +kernel, by decide +kernel, by decide +kernel⟩,
    ⟨{ tower := 0, cluster := 0, core := 1, dest := { data := 0x1000, scales := 0x2000, positions := 0, first := 0 }, mask := BitVec.allOnes 64 }, { data := 0, scales := 0, positions := 0, first := 0 }, 0, 6, .rne, { busy with spad.bytes := [] }, (by unfold VectorReads; decide +kernel), by decide +kernel, by decide +kernel, (by unfold HasPlace; decide +kernel), by decide +kernel, by decide +kernel, by decide +kernel⟩,
    ⟨{ tower := 0, cluster := 0, core := 1, dest := { data := 0x1000, scales := 0x2000, positions := 0, first := 0 }, mask := BitVec.allOnes 64 }, { data := 0, scales := 0, positions := 0, first := 0 }, 0, 6, .rne, { busy with spad.bytes := [(2, some 0x80), (3, some 0x3F), (6, some 0), (7, some 0x40), (11, some 0x40)] }, (by unfold VectorReads; decide +kernel), by decide +kernel, by decide +kernel, (by unfold HasPlace; decide +kernel), by decide +kernel, by decide +kernel, by decide +kernel⟩,
    ⟨{ tower := 0, cluster := 0, core := 1, dest := { data := 0xBFFFF0, scales := 0, positions := 0, first := 2 }, mask := BitVec.allOnes 64 }, { data := 0, scales := 0, positions := 0, first := 0 }, 3, false, 0, 1, .rtz, false, { busy with spad.bytes := [(2, some 0x80), (3, some 0x3F), (6, some 0), (7, some 0x40), (11, some 0x40)] }, by decide +kernel, by decide +kernel, (by unfold VectorReads; decide +kernel), (by unfold HasPlace; decide +kernel)⟩,
    ⟨{ tower := 0, cluster := 0, core := 1, dest := { data := 0x1000, scales := 0, positions := 0, first := 1 }, mask := BitVec.allOnes 64 }, { data := 0, scales := 0, positions := 0, first := 0 }, 3, true, 0, 11, .sr, false, { busy with spad.bytes := [(0, some 3)] }, by decide +kernel, by decide +kernel, (by unfold VectorReads; decide +kernel), (by unfold HasPlace; decide +kernel)⟩,
    ⟨{ tower := 0, cluster := 0, core := 1, dest := { data := 0x1000, scales := 0, positions := 0x2000, first := 0 }, mask := BitVec.allOnes 64 }, { data := 0, scales := 0, positions := 0, first := 0 }, 0, 1, .rne, { busy with spad.bytes := [(2, some 0x80), (3, some 0x3F), (6, some 0), (7, some 0x40), (11, some 0x40)] }, by decide +kernel, (by unfold VectorReads; decide +kernel), by decide +kernel, (by unfold HasPlace; decide +kernel), by decide +kernel, by decide +kernel, by decide +kernel⟩,
    ⟨{ tower := 0, cluster := 0, core := 1, dest := { data := 0xBFFFF4, scales := 0, positions := 0, first := 0 }, mask := BitVec.allOnes 64 }, { data := 0, scales := 0, positions := 0, first := 0 }, { data := 0, scales := 0, positions := 0, first := 0 }, { data := 0, scales := 0, positions := 0, first := 0 }, 3, 0, .rne, { busy with spad.bytes := [(2, some 0x80), (3, some 0x3F), (6, some 0), (7, some 0x40), (11, some 0x40)] }, by decide +kernel, (by unfold VectorReads; decide +kernel), (by unfold HasPlace; decide +kernel)⟩,
    ⟨{ tower := 0, cluster := 0, core := 1, dest := { data := 0x1000, scales := 0, positions := 0, first := 3 }, mask := BitVec.allOnes 64 }, { data := 0, scales := 0, positions := 0, first := 0 }, { data := 0, scales := 0, positions := 0, first := 0 }, { data := 0, scales := 0, positions := 0, first := 0 }, 3, 1, .sr, { busy with spad.bytes := [(2, some 0x80), (3, some 0x3F), (6, some 0), (7, some 0x40), (11, some 0x40)] }, by decide +kernel, (by unfold VectorReads; decide +kernel), (by unfold HasPlace; decide +kernel)⟩,
    ⟨{ tower := 0, cluster := 0, core := 1, dest := { data := 0xBFFFFC, scales := 0, positions := 0, first := 0 }, mask := BitVec.allOnes 64 }, { data := 0, scales := 0, positions := 0, first := 0 }, 1, .tanh, 0, { busy with spad.bytes := [(2, some 0x80), (3, some 0x3F), (6, some 0), (7, some 0x40), (11, some 0x40)] }, by decide +kernel, (by unfold VectorReads; decide +kernel), (by unfold HasPlace; decide +kernel)⟩,
    ⟨{ tower := 0, cluster := 0, core := 1, dest := { data := 0x1000, scales := 0, positions := 0, first := 0 }, mask := BitVec.allOnes 64 }, { data := 0, scales := 0, positions := 0, first := 0 }, 2, .log2, 1, { busy with spad.bytes := [(2, some 0x80), (3, some 0x3F), (6, some 0), (7, some 0x40), (11, some 0x40)] }, by decide +kernel, (by unfold VectorReads; decide +kernel), (by unfold HasPlace; decide +kernel)⟩⟩

theorem witness_GraphCommandsComplete :
    (∃ (req : Req) (value : Bytes) (s : State), Admitted req 0x340002 value s ∧
      value.length = 8 ∧
      nbits (leNat value) 63 48 = 0 ∧
      mapRefused s (leNat value) = false ∧
      s.sec.pendingMap = none ∧
      (∀ w ∈ allTowers, mapPartition (leNat value) w ≠ 15 → mapPartition (leNat value) w ≤ 11 ∧ (mapTowers (leNat value) (mapPartition (leNat value) w)).head? = some (mapPartition (leNat value) w))) ∧
    (∃ (p : Partition) (address : BitVec 64) (length : BitVec 32) (pos : BitVec 32) (e : BitVec 512) (s : State), Performs p pos e s ∧
      eCode e = 1 ∧
      eAddress e = address.toNat ∧
      eLength e = length.toNat) ∧
    (∃ (p : Partition) (image : Bytes) (report : CodeReport) (l : Load) (s : State), s.parts.loads.find? (fun x => decide (x.partition = p.val ∧ x.length = image.length)) = some l ∧
      RingOpen p s ∧
      (admission { s with parts.loads := [], host.reads := [] } p image report).isSome = true) ∧
    (∃ (p : Partition) (handle : BitVec 16) (pos : BitVec 32) (e : BitVec 512) (s : State), Performs p pos e s ∧
      eCode e = 2 ∧
      eHandle e = handle ∧
      ((liveGraph s p handle).isSome = true ∧ ∀ r ∈ runsOf s p, r.handle ≠ handle)) ∧
    (∃ (p : Partition) (handle : BitVec 16) (pos : BitVec 32) (e : BitVec 512) (s : State), Performs p pos e s ∧
      eCode e = 2 ∧
      eHandle e = handle ∧
      (∃ r ∈ runsOf s p, r.handle = handle)) ∧
    (∃ (p : Partition) (handle : BitVec 16) (pos : BitVec 32) (e : BitVec 512) (s : State), Performs p pos e s ∧
      eCode e = 2 ∧
      eHandle e = handle ∧
      (liveGraph s p handle).isNone = true) :=
  ⟨⟨manager 1, [0xF0, 0x32, 0x54, 0x76, 0x98, 0xBA, 0, 0], awake, (by unfold Admitted; decide +kernel), by decide +kernel, by decide +kernel, by decide +kernel, by decide +kernel, by decide +kernel⟩,
    ⟨0, 0x1000, 64, 5, 0x4000000000000010000000000000000001, loaded (0x4000000000000010000000000000000001 : BitVec 512), (by unfold Performs RingOpen; decide +kernel), by decide +kernel, by decide +kernel, by decide +kernel⟩,
    ⟨0, [1, 2, 3], { capability := none, scratchpad := none, routers := [] }, { partition := 0, address := 0, length := 3 }, loading ([1, 2, 3] : Bytes), by decide +kernel, (by unfold RingOpen; decide +kernel), by decide +kernel⟩,
    ⟨0, 1, 5, 0x00010002, loaded (0x00010002 : BitVec 512), (by unfold Performs RingOpen; decide +kernel), by decide +kernel, by decide +kernel, by decide +kernel⟩,
    ⟨0, 1, 5, 0x00010002, runs aRun (0x00010002 : BitVec 512), (by unfold Performs RingOpen; decide +kernel), by decide +kernel, by decide +kernel, by decide +kernel⟩,
    ⟨0, 2, 5, 0x00020002, runs aRun (0x00020002 : BitVec 512), (by unfold Performs RingOpen; decide +kernel), by decide +kernel, by decide +kernel, by decide +kernel⟩⟩

theorem witness_RunCommandsComplete :
    (∃ (p : Partition) (e : BitVec 512) (pos : BitVec 32) (g : Graph) (s : State), Performs p pos e s ∧
      eCode e = 3 ∧
      liveGraph s p (eHandle e) = some g ∧
      findRun s p (eRun e) = none ∧
      eBindings e ≤ 256 ∧
      (runsOf s p).length < 16 ∧
      noRoom s g.image = none ∧
      eBindings e = 0) ∧
    (∃ (p : Partition) (e : BitVec 512) (pos : BitVec 32) (g : Graph) (s : State), Performs p pos e s ∧
      eCode e = 3 ∧
      liveGraph s p (eHandle e) = some g ∧
      findRun s p (eRun e) = none ∧
      eBindings e ≤ 256 ∧
      (runsOf s p).length < 16 ∧
      noRoom s g.image = none ∧
      eBindings e ≠ 0) ∧
    (∃ (p : Partition) (e : BitVec 512) (pos : BitVec 32) (cls : Nat) (detail : Nat) (argument : Nat) (s : State), Performs p pos e s ∧
      eCode e = 3 ∧
      runRefused s p e = some (cls, detail, argument)) ∧
    (∃ (p : Partition) (id : BitVec 32) (pos : BitVec 32) (e : BitVec 512) (r : Run) (s : State), Performs p pos e s ∧
      eCode e = 4 ∧
      eRun e = id ∧
      findRun s p id = some r ∧
      (r.state = .running ∨ r.state = .restoring ∨ r.state = .saving)) ∧
    (∃ (p : Partition) (id : BitVec 32) (pos : BitVec 32) (e : BitVec 512) (r : Run) (s : State), Performs p pos e s ∧
      eCode e = 5 ∧
      eRun e = id ∧
      findRun s p id = some r ∧
      r.state = .parked) ∧
    (∃ (p : Partition) (id : BitVec 32) (pos : BitVec 32) (e : BitVec 512) (r : Run) (s : State), Performs p pos e s ∧
      eCode e = 6 ∧
      eRun e = id ∧
      findRun s p id = some r) ∧
    (∃ (p : Partition) (e : BitVec 512) (pos : BitVec 32) (s : State), Performs p pos e s ∧
      entryUnknown s p e = true ∧
      (¬ (3 ≤ eCode e ∧ eCode e ≤ 6))) ∧
    (∃ (p : Partition) (e : BitVec 512) (pos : BitVec 32) (s : State), Performs p pos e s ∧
      entryUnknown s p e = true ∧
      3 ≤ eCode e ∧ eCode e ≤ 6) :=
  ⟨⟨0, 0x0000000900010003, 5, { partition := 0, slot := 0, handle := 1, image := smallImage }, loaded (0x0000000900010003 : BitVec 512), (by unfold Performs RingOpen; decide +kernel), by decide +kernel, by decide +kernel, by decide +kernel, by decide +kernel, by decide +kernel, by decide +kernel, by decide +kernel⟩,
    ⟨0, BitVec.ofNat 512 (0x0000000900010003 + 2 ^ 96 * 2), 5, { partition := 0, slot := 0, handle := 1, image := smallImage }, loaded (BitVec.ofNat 512 (0x0000000900010003 + 2 ^ 96 * 2) : BitVec 512), (by unfold Performs RingOpen; decide +kernel), by decide +kernel, by decide +kernel, by decide +kernel, by decide +kernel, by decide +kernel, by decide +kernel, by decide +kernel⟩,
    ⟨0, 0x0000000900020003, 5, 0, 0, 0, loaded (0x0000000900020003 : BitVec 512), (by unfold Performs RingOpen; decide +kernel), by decide +kernel, by decide +kernel⟩,
    ⟨0, 9, 5, 0x0000000900010004, aRun, runs (aRun : Run) (0x0000000900010004 : BitVec 512), (by unfold Performs RingOpen; decide +kernel), by decide +kernel, by decide +kernel, by decide +kernel, by decide +kernel⟩,
    ⟨0, 9, 5, 0x0000000900010005, { aRun with state := .parked, hold := true }, runs ({ aRun with state := .parked, hold := true } : Run) (0x0000000900010005 : BitVec 512), (by unfold Performs RingOpen; decide +kernel), by decide +kernel, by decide +kernel, by decide +kernel, by decide +kernel⟩,
    ⟨0, 9, 5, 0x0000000900010006, aRun, runs (aRun : Run) (0x0000000900010006 : BitVec 512), (by unfold Performs RingOpen; decide +kernel), by decide +kernel, by decide +kernel, by decide +kernel⟩,
    ⟨0, 7, 5, loaded (7 : BitVec 512), (by unfold Performs RingOpen; decide +kernel), by decide +kernel, by decide +kernel⟩,
    ⟨0, 0x0000000900010006, 5, loaded (0x0000000900010006 : BitVec 512), (by unfold Performs RingOpen; decide +kernel), by decide +kernel, by decide +kernel⟩⟩

theorem witness_TaskCommandsComplete :
    (∃ (p : Partition) (id : BitVec 32) (task : BitVec 16) (edge : Nat) (r : Run) (s : State), let w := edgeWord (runImage s r) edge; let truth := decide (edgeKind w = 0) || decide ((taskOf r task.toNat).predicate.getLsbD (edgeBit w) = edgeSense w); let x := taskOf r (edgeDest w); (p.val, id, task.toNat, edge) ∈ s.parts.remoteEdges ∧
      findRun s p id = some r ∧
      (baseState s (baseOfTower (taskTower (runImage s r) task.toNat))).resetAt = none ∧
      (baseState s (baseOfTower (taskTower (runImage s r) (edgeDest w)))).resetAt = none ∧
      edgeDest w < imgTaskCount (runImage s r) ∧
      x.phase = .waiting ∧
      0 < x.counter ∧
      (x.counter = 1 → (x.allTrue && truth) = true) ∧
      (taskOf r 1).counter = 1) ∧
    (∃ (p : Partition) (id : BitVec 32) (task : BitVec 16) (edge : Nat) (r : Run) (s : State), let w := edgeWord (runImage s r) edge; let truth := decide (edgeKind w = 0) || decide ((taskOf r task.toNat).predicate.getLsbD (edgeBit w) = edgeSense w); let x := taskOf r (edgeDest w); (p.val, id, task.toNat, edge) ∈ s.parts.remoteEdges ∧
      findRun s p id = some r ∧
      (baseState s (baseOfTower (taskTower (runImage s r) task.toNat))).resetAt = none ∧
      (baseState s (baseOfTower (taskTower (runImage s r) (edgeDest w)))).resetAt = none ∧
      edgeDest w < imgTaskCount (runImage s r) ∧
      x.phase = .waiting ∧
      0 < x.counter ∧
      (x.counter = 1 → (x.allTrue && truth) = true) ∧
      (taskOf r 1).counter = 2) ∧
    (∃ (p : Partition) (task : BitVec 16) (r : Run) (s : State), runningRun s p = some r ∧
      findRun s p r.id = some r ∧
      r.preempt = none ∧
      r.freeze = false ∧
      partitionHeld s p = false ∧
      mayStart s r task.toNat = true ∧
      startBlocked s r task.toNat = false) ∧
    (∃ (p : Partition) (task : BitVec 16) (predicate : BitVec 16) (r : Run) (s : State), let img := runImage s r; let out := (List.range (taskOutEdges img task.toNat)).map (taskFirstEdge img task.toNat + ·); runningRun s p = some r ∧
      findRun s p r.id = some r ∧
      (taskOf r task.toNat).phase = .running ∧
      (taskOf r task.toNat).fault = 0 ∧
      taskHasDescs s p r.id task.toNat = false ∧
      (∀ e ∈ out, taskTower img (edgeDest (edgeWord img e)) ≠ taskTower img task.toNat) ∧
      (∃ j, j < imgTaskCount img ∧ j ≠ task.toNat ∧ (taskOf r j).phase ≠ .ended)) ∧
    (∃ (w : Tower) (k : Cluster) (group : Fin 16) (token : BitVec 24) (raw : List Nat) (r : Run) (i : Nat) (gi : Nat) (s : State), let img := runImage s r; let es := selectExperts ((List.range (groupExperts img gi)).map (fun e => score32 (nbit (groupFlags img gi) 1) (raw.getD e 0))) (groupK img gi) []; taskOn s w k = some (r, i) ∧
      coreWorks s w k = true ∧
      groupEntry (runImage s r) group = some gi ∧
      (∀ e ∈ es, Tab.look 0 (routerOf s (12 * w.val + k.val)).counts (64 * group.val + e) < groupQuota img gi)) :=
  ⟨⟨0, 9, 0, 0, aRun, { runs (aRun : Run) 0 with parts.remoteEdges := [(0, 9, 0, 0)] }, by decide +kernel⟩,
    ⟨0, 9, 0, 0, { aRun with tasks := [(1, { counter := 2 })] }, { runs ({ aRun with tasks := [(1, { counter := 2 })] } : Run) 0 with parts.remoteEdges := [(0, 9, 0, 0)] }, by decide +kernel⟩,
    ⟨0, 0, { aRun with tasks := [(0, { phase := .resolved }), (1, { counter := 1 })] }, runs ({ aRun with tasks := [(0, { phase := .resolved }), (1, { counter := 1 })] } : Run) 0, by decide +kernel⟩,
    ⟨0, 0, 5, { aRun with tasks := [(0, { phase := .running }), (1, { counter := 1 })] }, runs ({ aRun with tasks := [(0, { phase := .running }), (1, { counter := 1 })] } : Run) 0, by decide +kernel⟩,
    ⟨0, 0, 0, 7, [0x3F800000], { aRun with tasks := [(0, { phase := .running }), (1, { counter := 1 })] }, 0, 0, runs ({ aRun with tasks := [(0, { phase := .running }), (1, { counter := 1 })] } : Run) 0, by decide +kernel⟩⟩

theorem witness_SaveCommandsComplete :
    (∃ (p : Partition) (r : Run) (s : State), (runsOf s p).find? (fun r => decide (r.state = .saving)) = some r ∧
      r.framesLeft = 0 ∧
      (∀ x ∈ runsOf s p, x.id = r.id → x = r) ∧
      r.freeze = false ∧ r.preempt = some true) ∧
    (∃ (p : Partition) (r : Run) (s : State), (runsOf s p).find? (fun r => decide (r.state = .saving)) = some r ∧
      r.framesLeft = 0 ∧
      (∀ x ∈ runsOf s p, x.id = r.id → x = r) ∧
      r.freeze = true) ∧
    (∃ (p : Partition) (r : Run) (c : Context) (s : State), (runsOf s p).find? (fun r => decide (r.state = .restoring)) = some r ∧
      r.framesLeft = 0 ∧
      findRun s p r.id = some r ∧
      r.saved = some c ∧
      s.dma.records = [] ∧
      c.descs = [] ∧
      (∀ x ∈ c.routers ++ s.parts.routers, x.2.deferred = []) ∧
      Tab.wf {} c.routers = true ∧
      Tab.wf {} s.parts.routers = true ∧
      (∀ w ∈ towersOf s p, ∀ k ∈ engineKeys w, engineQueue s k = []) ∧
      Tab.wf none c.bytes = true) :=
  ⟨⟨0, { aRun with state := .saving, preempt := some true }, runs ({ aRun with state := .saving, preempt := some true } : Run) 0, by decide +kernel⟩,
    ⟨0, { aRun with state := .saving, freeze := true }, runs ({ aRun with state := .saving, freeze := true } : Run) 0, by decide +kernel⟩,
    ⟨0, { aRun with state := .restoring, saved := some { bytes := [(5, some 7)] }, frameIndex := 0 }, { bytes := [(5, some 7)] }, runs ({ aRun with state := .restoring, saved := some { bytes := [(5, some 7)] }, frameIndex := 0 } : Run) 0, by decide +kernel⟩⟩

theorem witness_DescriptorCommandsComplete :
    (∃ (w : Tower) (e : EngineNo) (d : BitVec 512) (p : Nat) (r : Run) (s : State), Issues w e d p r s ∧
      dOp d = 1 ∧
      dSrcSpad d = true ∧
      dDstSpad d = true ∧
      dRows d = 1 ∧
      dDest d % 64 + dRowBytes d ≤ 64 ∧
      dSource d % 4096 + dRowBytes d ≤ 4096 ∧
      OwnLine w p (spadBase + w.val * 2 ^ 28 + dSource d) false s ∧
      OwnLine w p (spadBase + w.val * 2 ^ 28 + dDest d) true s) ∧
    (∃ (w : Tower) (e : EngineNo) (d : BitVec 512) (p : Nat) (r : Run) (s : State), Issues w e d p r s ∧
      dOp d = 1 ∧
      dSrcSpad d = true ∧
      dDstSpad d = true ∧
      dRows d = 1 ∧
      dDest d % 64 + dRowBytes d ≤ 64 ∧
      dSource d % 4096 + dRowBytes d ≤ 4096 ∧
      OwnLine w p (spadBase + w.val * 2 ^ 28 + dSource d) false s ∧
      OwnLine w p (spadBase + w.val * 2 ^ 28 + dDest d) true s ∧
      spadPoisoned s 0 64 = true) ∧
    (∃ (w : Tower) (e : EngineNo) (d : BitVec 512) (p : Nat) (r : Run) (s : State), Issues w e d p r s ∧
      dOp d = 2 ∧
      dDstSpad d = true ∧
      dRows d = 1 ∧
      dDest d % 64 + dRowBytes d ≤ 64 ∧
      OwnLine w p (spadBase + w.val * 2 ^ 28 + dDest d) true s) ∧
    (∃ (w : Tower) (e : EngineNo) (d : BitVec 512) (p : Nat) (r : Run) (s : State), let index := leNat (spadBytes s (w.val * 2 ^ 28 + dAux d) 4); let source := dSource d + index * dSrcPitch d; Issues w e d p r s ∧
      dOp d = 3 ∧
      dSrcSpad d = true ∧
      dDstSpad d = true ∧
      dRows d = 1 ∧
      dDest d % 64 + dRowBytes d ≤ 64 ∧
      OwnLine w p (spadBase + w.val * 2 ^ 28 + dDest d) true s ∧
      (index ≠ 0xFFFFFFFF → spadFieldOk source = true ∧ source % 4096 + dRowBytes d ≤ 4096 ∧ OwnLine w p (spadBase + w.val * 2 ^ 28 + source) false s) ∧
      leNat (spadBytes s (w.val * 2 ^ 28 + dAux d) 4) ≠ 0xFFFFFFFF) ∧
    (∃ (w : Tower) (e : EngineNo) (d : BitVec 512) (p : Nat) (r : Run) (s : State), let index := leNat (spadBytes s (w.val * 2 ^ 28 + dAux d) 4); let source := dSource d + index * dSrcPitch d; Issues w e d p r s ∧
      dOp d = 3 ∧
      dSrcSpad d = true ∧
      dDstSpad d = true ∧
      dRows d = 1 ∧
      dDest d % 64 + dRowBytes d ≤ 64 ∧
      OwnLine w p (spadBase + w.val * 2 ^ 28 + dDest d) true s ∧
      (index ≠ 0xFFFFFFFF → spadFieldOk source = true ∧ source % 4096 + dRowBytes d ≤ 4096 ∧ OwnLine w p (spadBase + w.val * 2 ^ 28 + source) false s) ∧
      leNat (spadBytes s (w.val * 2 ^ 28 + dAux d) 4) = 0xFFFFFFFF) ∧
    (∃ (w : Tower) (e : EngineNo) (d : BitVec 512) (p : Nat) (r : Run) (s : State), let index := leNat (spadBytes s (w.val * 2 ^ 28 + dAux d) 4); let dest := dDest d + index * dDstPitch d; Issues w e d p r s ∧
      dOp d = 4 ∧
      dSrcSpad d = true ∧
      dDstSpad d = true ∧
      dRows d = 1 ∧
      dSource d % 4096 + dRowBytes d ≤ 4096 ∧
      OwnLine w p (spadBase + w.val * 2 ^ 28 + dSource d) false s ∧
      (index ≠ 0xFFFFFFFF → spadFieldOk dest = true ∧ dest % 64 + dRowBytes d ≤ 64 ∧ OwnLine w p (spadBase + w.val * 2 ^ 28 + dest) true s) ∧
      leNat (spadBytes s (w.val * 2 ^ 28 + dAux d) 4) ≠ 0xFFFFFFFF) ∧
    (∃ (w : Tower) (e : EngineNo) (d : BitVec 512) (p : Nat) (r : Run) (s : State), let index := leNat (spadBytes s (w.val * 2 ^ 28 + dAux d) 4); let dest := dDest d + index * dDstPitch d; Issues w e d p r s ∧
      dOp d = 4 ∧
      dSrcSpad d = true ∧
      dDstSpad d = true ∧
      dRows d = 1 ∧
      dSource d % 4096 + dRowBytes d ≤ 4096 ∧
      OwnLine w p (spadBase + w.val * 2 ^ 28 + dSource d) false s ∧
      (index ≠ 0xFFFFFFFF → spadFieldOk dest = true ∧ dest % 64 + dRowBytes d ≤ 64 ∧ OwnLine w p (spadBase + w.val * 2 ^ 28 + dest) true s) ∧
      leNat (spadBytes s (w.val * 2 ^ 28 + dAux d) 4) = 0xFFFFFFFF) ∧
    (∃ (w : Tower) (e : EngineNo) (d : BitVec 512) (p : Nat) (r : Run) (a : Nat) (c : Bool) (s : State), Issues w e d p r s ∧
      dOp d = 5 ∧
      dRows d = 1 ∧
      translateCached s w p (dSource d % 2 ^ 48) .read = .ok 0 a c ∧
      a / 2 ^ 36 = w.val ∧
      a % 2048 = 0 ∧
      stackServes s w = true ∧
      OwnLine w p a false s ∧
      OwnLine w p (spadBase + w.val * 2 ^ 28 + dDest d) true s ∧
      Tab.look [] s.dram.writeBacks (bankKey (a / 64)) = [] ∧
      (∀ n, n < 32 → classify (dictNat s 0x380001) (storedWord s (a / 64 + n)) = .clean)) ∧
    (∃ (w : Tower) (e : EngineNo) (d : BitVec 512) (p : Nat) (r : Run) (s : State), Issues w e d p r s ∧
      dOp d = 6 ∧
      dDstSpad d = true ∧
      dAux d ≠ dDest d ∧
      OwnLine w p (spadBase + w.val * 2 ^ 28 + dDest d) true s ∧
      spadPoisoned s (w.val * 2 ^ 28 + dSource d) (if dKind d = 7 then 16 else 8) = false ∧
      spadPoisoned s (w.val * 2 ^ 28 + dDest d) 8 = false) ∧
    (∃ (w : Tower) (e : EngineNo) (d : BitVec 512) (p : Nat) (r : Run) (s : State), Issues w e d p r s ∧
      dOp d = 6 ∧
      dDstSpad d = true ∧
      dAux d ≠ dDest d ∧
      OwnLine w p (spadBase + w.val * 2 ^ 28 + dDest d) true s ∧
      spadPoisoned s (w.val * 2 ^ 28 + dSource d) (if dKind d = 7 then 16 else 8) = false ∧
      spadPoisoned s (w.val * 2 ^ 28 + dDest d) 8 = false ∧
      dKind d = 7) ∧
    (∃ (w : Tower) (e : EngineNo) (d : BitVec 512) (p : Nat) (r : Run) (s : State), partitionOf s w = some p ∧
      runningRun s p = some r ∧
      findRun s p r.id = some r ∧
      towerUp s w = true ∧
      (taskOf r (dTask d)).phase = .running ∧
      engineQueue s (16 * w.val + e.val) = [] ∧
      descRefused d = true) ∧
    (∃ (w : Tower) (e : EngineNo) (d : Desc) (r : Run) (s : State), engineQueue s (16 * w.val + e.val) = [d] ∧
      reportable s d = true ∧
      findRun s d.partition d.run = some r ∧
      (taskOf r (dTask d.raw)).phase = .running ∧
      (taskOf r (dTask d.raw)).fault = 0 ∧
      d.code = ccOk ∧ d.poison = false ∧ d.unknown = false) ∧
    (∃ (w : Tower) (e : EngineNo) (d : Desc) (r : Run) (s : State), engineQueue s (16 * w.val + e.val) = [d] ∧
      reportable s d = true ∧
      findRun s d.partition d.run = some r ∧
      (taskOf r (dTask d.raw)).phase = .running ∧
      (taskOf r (dTask d.raw)).fault = 0 ∧
      taskFaultOf d.code ≠ 0 ∧ taskContinues (runImage s r) (dTask d.raw) = false) :=
  ⟨⟨0, 3, descriptor 1 6 0 0x200 64 1 0 0, 0, busyRun, busy, (by unfold Issues; decide +kernel), by decide +kernel, by decide +kernel, by decide +kernel, by decide +kernel, by decide +kernel, by decide +kernel, (by unfold OwnLine; decide +kernel), (by unfold OwnLine; decide +kernel)⟩,
    ⟨0, 3, descriptor 1 6 0 0x200 64 1 0 0, 0, busyRun, { busy with spad.poison := [(0, true)] }, (by unfold Issues; decide +kernel), by decide +kernel, by decide +kernel, by decide +kernel, by decide +kernel, by decide +kernel, by decide +kernel, (by unfold OwnLine; decide +kernel), (by unfold OwnLine; decide +kernel), by decide +kernel⟩,
    ⟨0, 3, descriptor 2 4 0 0xC0 64 1 0 0, 0, busyRun, busy, (by unfold Issues; decide +kernel), by decide +kernel, by decide +kernel, by decide +kernel, by decide +kernel, (by unfold OwnLine; decide +kernel)⟩,
    ⟨0, 3, descriptor 3 6 0 0x200 64 1 0x300 0, 0, busyRun, busy, (by unfold Issues; decide +kernel), by decide +kernel, by decide +kernel, by decide +kernel, by decide +kernel, by decide +kernel, (by unfold OwnLine; decide +kernel), (by unfold OwnLine; decide +kernel), by decide +kernel⟩,
    ⟨0, 3, descriptor 3 6 0 0x200 64 1 0x300 0, 0, busyRun, { busy with spad.bytes := [(0x300, some 255), (0x301, some 255), (0x302, some 255), (0x303, some 255)] }, (by unfold Issues; decide +kernel), by decide +kernel, by decide +kernel, by decide +kernel, by decide +kernel, by decide +kernel, (by unfold OwnLine; decide +kernel), (by unfold OwnLine; decide +kernel), by decide +kernel⟩,
    ⟨0, 3, descriptor 4 6 0 0x200 64 1 0x300 0, 0, busyRun, busy, (by unfold Issues; decide +kernel), by decide +kernel, by decide +kernel, by decide +kernel, by decide +kernel, by decide +kernel, (by unfold OwnLine; decide +kernel), (by unfold OwnLine; decide +kernel), by decide +kernel⟩,
    ⟨0, 3, descriptor 4 6 0 0x200 64 1 0x300 0, 0, busyRun, { busy with spad.bytes := [(0x300, some 255), (0x301, some 255), (0x302, some 255), (0x303, some 255)] }, (by unfold Issues; decide +kernel), by decide +kernel, by decide +kernel, by decide +kernel, by decide +kernel, by decide +kernel, (by unfold OwnLine; decide +kernel), (by unfold OwnLine; decide +kernel), by decide +kernel⟩,
    ⟨0, 3, descriptor 5 4 0 0x800 2048 1 0 0, 0, busyRun, 0, false, busy, (by unfold Issues; decide +kernel), by decide +kernel, by decide +kernel, by decide +kernel, by decide +kernel, by decide +kernel, by decide +kernel, (by unfold OwnLine; decide +kernel), (by unfold OwnLine; decide +kernel), by decide +kernel, by decide +kernel⟩,
    ⟨0, 3, descriptor 6 6 0 0x100 8 1 0x400 0, 0, busyRun, busy, (by unfold Issues; decide +kernel), by decide +kernel, by decide +kernel, by decide +kernel, (by unfold OwnLine; decide +kernel), by decide +kernel, by decide +kernel⟩,
    ⟨0, 3, descriptor 6 6 0 0x100 8 1 0x400 7, 0, busyRun, busy, (by unfold Issues; decide +kernel), by decide +kernel, by decide +kernel, by decide +kernel, (by unfold OwnLine; decide +kernel), by decide +kernel, by decide +kernel, by decide +kernel⟩,
    ⟨0, 3, descriptor 7 6 0 0x100 8 1 0x400 0, 0, busyRun, busy, by decide +kernel⟩,
    ⟨0, 3, { fillDesc with state := .done }, busyRun, queued ({ fillDesc with state := .done } : Desc) busy, by decide +kernel⟩,
    ⟨0, 3, { fillDesc with state := .done, code := ccXlateFault }, busyRun, queued ({ fillDesc with state := .done, code := ccXlateFault } : Desc) busy, by decide +kernel⟩⟩

theorem witness_TranslationCommandsComplete :
    (∃ (w : Tower) (e : EngineNo) (d : Desc) (at_ : Nat) (delay : Nat) (a : Nat) (s : State), engineQueue s (16 * w.val + e.val) = [d] ∧
      d.state = .active ∧
      d.wait = .backoff at_ delay ∧
      FillsLine w d a s) ∧
    (∃ (req : Req) (p : Partition) (value : Bytes) (s : State), Admitted req (0x388001 + p.val) value s ∧
      value.length = 8 ∧
      nbits (leNat value) 11 1 = 0 ∧
      nbits (leNat value) 63 48 = 0 ∧
      executingRun s p = none ∧
      rootWriter req.requester p s = true) ∧
    (∃ (req : Req) (value : Bytes) (s : State), Admitted req 0x388010 value s ∧
      nbits (leNat value) 63 60 = 0 ∧
      nbits (leNat value) 55 48 = 0 ∧
      nbits (leNat value) 11 2 = 0 ∧
      nbits (leNat value) 59 56 ≤ 11 ∧
      rootWriter req.requester (nbits (leNat value) 59 56) s = true) ∧
    (∃ (p : Partition) (s : State), s.dma.invalidations.filter (fun v => decide (v.partition = p.val)) ≠ [] ∧
      (∀ v ∈ s.dma.invalidations, v.partition = p.val → linesDone s v = true)) ∧
    (∃ (w : Tower) (e : EngineNo) (d : Desc) (va : Nat) (kind : Kind) (s : State), engineQueue s (16 * w.val + e.val) = [d] ∧
      d.state = .active ∧
      d.wait = .walk va kind ∧
      (match (walk w d.partition va (some e) (.asks none) s).1 with | .error y => y | .ok (en, lv) => checkLeaf s d.partition va kind en lv) = .fault 1 3 ∧ dNoPark d.raw = false ∧ mayIssue s d = true ∧ walkNamed s d.partition va (walk w d.partition va (some e) (.asks none) s).1 = false) ∧
    (∃ (w : Tower) (e : EngineNo) (d : Desc) (va : Nat) (kind : Kind) (s : State), engineQueue s (16 * w.val + e.val) = [d] ∧
      d.state = .active ∧
      d.wait = .walk va kind ∧
      walkNamed s d.partition va (walk w d.partition va (some e) (.asks none) s).1 = true) ∧
    (∃ (p : Partition) (w : Tower) (e : EngineNo) (word : BitVec 32) (d : Desc) (a : Nat) (r : FaultRecord) (run : Run) (s : State), let tag := BitVec.ofNat 16 (bits word 15 0); bits word 17 16 = 0 ∧
      bits word 31 18 = 0 ∧
      s.dma.records.find? (awaits p tag) = some r ∧
      findRun s p r.run = some run ∧
      run.state = .running ∧
      engineQueue s (16 * w.val + e.val) = [d] ∧
      d.partition = p.val ∧
      d.state = .parked ∧
      d.wait = .none ∧
      d.record = some tag ∧
      d.settled = none ∧
      FillsLine w { d with pages := [] } a s ∧
      w.val ∈ towersOf s p ∧
      (∀ x ∈ towersOf s p, ∀ k ∈ engineKeys x, k ≠ 16 * w.val + e.val → engineQueue s k = [])) ∧
    (∃ (p : Partition) (word : BitVec 32) (r : FaultRecord) (run : Run) (s : State), let tag := BitVec.ofNat 16 (bits word 15 0); bits word 17 16 = 0 ∧
      bits word 31 18 = 0 ∧
      s.dma.records.find? (awaits p tag) = some r ∧
      findRun s p r.run = some run ∧
      run.state ≠ .running) ∧
    (∃ (p : Partition) (word : BitVec 32) (r : FaultRecord) (run : Run) (s : State), let tag := BitVec.ofNat 16 (bits word 15 0); bits word 17 16 = 1 ∧
      bits word 31 18 = 0 ∧
      s.dma.records.find? (awaits p tag) = some r ∧
      findRun s p r.run = some run ∧
      run.state = .running ∧
      (∀ w ∈ towersOf s p, ∀ k ∈ engineKeys w, ∀ d ∈ engineQueue s k, d.state = .parked ∨ d.state = .done)) ∧
    (∃ (p : Partition) (word : BitVec 32) (s : State), s.dma.records.find? (awaits p (BitVec.ofNat 16 (bits word 15 0))) = none) ∧
    (∃ (p : Partition) (tag : BitVec 16) (r : FaultRecord) (run : Run) (s : State), s.dma.records.find? (awaits p tag) = some r ∧
      findRun s p r.run = some run ∧
      run.state = .running ∧
      dictNat s 0x388011 ≠ 0 ∧
      dictNat s 0x388011 ≤ r.frames ∧
      (∀ w ∈ towersOf s p, ∀ k ∈ engineKeys w, ∀ d ∈ engineQueue s k, d.state = .parked ∨ d.state = .done)) ∧
    (∃ (w : Tower) (e : EngineNo) (d : Desc) (va : Nat) (kind : Kind) (s : State), engineQueue s (16 * w.val + e.val) = [d] ∧
      d.state = .active ∧
      d.wait = .walk va kind ∧
      (walkAndCheck w d.partition va kind (some e) (.asks none) s).1 = .ok 0 64 false ∧ mayIssue s d = false) ∧
    (∃ (w : Tower) (e : EngineNo) (d : Desc) (va : Nat) (kind : Kind) (s : State), engineQueue s (16 * w.val + e.val) = [d] ∧
      d.state = .active ∧
      d.wait = .walk va kind ∧
      (walkAndCheck w d.partition va kind (some e) (.asks none) s).1 = .denied) :=
  ⟨⟨0, 3, { fillDesc with wait := .backoff 1000 1000 }, 1000, 1000, 64, queued ({ fillDesc with wait := .backoff 1000 1000 } : Desc) busy, by decide +kernel, by decide +kernel, by decide +kernel, (by unfold FillsLine OwnLine; decide +kernel)⟩,
    ⟨manager 1, 11, [1, 0x10, 0, 0, 0, 0, 0, 0], awake, (by unfold Admitted; decide +kernel), by decide +kernel, by decide +kernel, by decide +kernel, by decide +kernel, by decide +kernel⟩,
    ⟨manager 1, [2, 0x10, 0, 0, 0, 0, 0, 11], awake, (by unfold Admitted; decide +kernel), by decide +kernel, by decide +kernel, by decide +kernel, by decide +kernel, by decide +kernel⟩,
    ⟨0, { busy with dma.invalidations := [{ partition := 0, page := 0, size := 0 }], om.waiting := [{ id := { requester := .mctp 0, seq := 0, opcode := 2, key := 0x388010, offset := 0 }, note := 0 }] }, by decide +kernel⟩,
    ⟨0, 3, { fillDesc with wait := .walk 64 .write }, 64, .write, { queued ({ fillDesc with wait := .walk 64 .write } : Desc) busy with dma.leaves := [] }, by decide +kernel⟩,
    ⟨0, 3, { fillDesc with wait := .walk 64 .write }, 64, .write, { queued ({ fillDesc with wait := .walk 64 .write } : Desc) busy with dma.leaves := [], dma.invalidations := [{ partition := 0, page := 0, size := 0 }] }, by decide +kernel⟩,
    ⟨0, 0, 3, 5, { fillDesc with state := .parked, record := some 5 }, 64, aRecord, busyRun, { queued ({ fillDesc with state := .parked, record := some 5 } : Desc) busy with dma.records := [(aRecord : FaultRecord)] }, by decide +kernel, by decide +kernel, by decide +kernel, by decide +kernel, by decide +kernel, by decide +kernel, by decide +kernel, by decide +kernel, by decide +kernel, by decide +kernel, by decide +kernel, (by unfold FillsLine OwnLine; decide +kernel), by decide +kernel, by decide +kernel⟩,
    ⟨0, 5, aRecord, { busyRun with state := .parked }, { busy with parts.runs := [({ busyRun with state := .parked } : Run)], dma.records := [(aRecord : FaultRecord)] }, by decide +kernel⟩,
    ⟨0, 0x10005, aRecord, busyRun, { queued ({ fillDesc with state := .parked, record := some 5 }) busy with dma.records := [(aRecord : FaultRecord)] }, by decide +kernel⟩,
    ⟨0, 6, { busy with dma.records := [aRecord] }, by decide +kernel⟩,
    ⟨0, 5, { aRecord with frames := 300 }, busyRun, { queued ({ fillDesc with state := .parked, record := some 5 }) busy with dma.records := [({ aRecord with frames := 300 } : FaultRecord)], dict := Tab.put [] 0x388011 [4, 0, 0, 0] twoTowers }, by decide +kernel⟩,
    ⟨0, 3, { fillDesc with wait := .walk 64 .write }, 64, .write, { queued ({ fillDesc with wait := .walk 64 .write } : Desc) busy with parts.runs := [{ busyRun with state := .saving }], dma.leaves := [], dma.walkLines := [(0, [⟨0, 3, 0, 0x1001⟩, ⟨0, 2, 0, 0x1001⟩, ⟨0, 1, 0, 0x1001⟩])], dict := Tab.put [] 0x388001 [1, 0x10, 0, 0, 0, 0, 0, 0] twoTowers, dram.symbols := (storeWord 64 (lineWord (0x1F :: zeros 63) false) busy).dram.symbols }, by decide +kernel⟩,
    ⟨0, 3, { fillDesc with wait := .walk 64 .write }, 64, .write, { queued ({ fillDesc with wait := .walk 64 .write } : Desc) busy with dma.leaves := [], dict := Tab.put [] 0x388001 [1, 0x10, 0, 0, 0, 0, 0, 0] (Tab.put [] 0x601001 [1, 0, 0, 0, 1, 0, 0, 0, 0, 0, 0, 0, 1, 0, 0, 0] twoTowers) }, by decide +kernel⟩⟩

theorem witness_CoherenceCommandsComplete :
    (∃ (w : Tower) (home : Tower) (block : BitVec 48) (s : State), { source := home.val, dest := w.val, load := .invalidate home.val block.toNat : MeshPacket } ∈ s.pho.mesh) ∧
    (∃ (home : Tower) (sharer : Tower) (block : BitVec 48) (v : Inval) (s : State), { source := sharer.val, dest := home.val, load := .invalidateAck home.val sharer.val block.toNat : MeshPacket } ∈ s.pho.mesh ∧
      s.dma.invals.find? (fun v => decide (v.home = home.val ∧ v.block = block.toNat ∧ sharer.val ∈ v.waiting)) = some v ∧
      v.waiting.erase sharer.val ≠ []) ∧
    (∃ (home : Tower) (sharer : Tower) (block : BitVec 48) (v : Inval) (s : State), s.dma.invals.find? (fun v => decide (v.home = home.val ∧ v.block = block.toNat ∧ sharer.val ∈ v.waiting)) = some v ∧
      v.waiting.erase sharer.val ≠ []) ∧
    (∃ (w : Tower) (line : BitVec 48) (p : OpenPacket) (f : Fill) (s : State), (w.val, p) ∈ s.pho.inbox ∧
      (∀ x ∈ s.pho.inbox, x.1 = w.val → x.2 = p) ∧
      oKind p.header = 3 ∧
      oTower p.header = w.val ∧
      readCode (oCode p.header) = true ∧
      f ∈ s.dma.fills ∧
      f.tower = w.val ∧
      f.line = line.toNat ∧
      f.tag = oTag p.header ∧
      (∀ g ∈ s.dma.fills, g.tower = w.val → g.tag = oTag p.header → g = f) ∧
      (s.pho.outstanding.any (fun o => decide (o.1 = w.val ∧ o.2.1 = oTag p.header))) = true ∧
      (∀ k ∈ engineKeys w, engineQueue s k = []) ∧
      f.stale = false) ∧
    (∃ (w : Tower) (line : BitVec 48) (p : OpenPacket) (f : Fill) (s : State), (w.val, p) ∈ s.pho.inbox ∧
      (∀ x ∈ s.pho.inbox, x.1 = w.val → x.2 = p) ∧
      oKind p.header = 3 ∧
      oTower p.header = w.val ∧
      readCode (oCode p.header) = true ∧
      f ∈ s.dma.fills ∧
      f.tower = w.val ∧
      f.line = line.toNat ∧
      f.tag = oTag p.header ∧
      (∀ g ∈ s.dma.fills, g.tower = w.val → g.tag = oTag p.header → g = f) ∧
      (s.pho.outstanding.any (fun o => decide (o.1 = w.val ∧ o.2.1 = oTag p.header))) = true ∧
      (∀ k ∈ engineKeys w, engineQueue s k = []) ∧
      f.stale = true) :=
  ⟨⟨1, 0, 7, { awake with pho.mesh := [{ source := 0, dest := 1, load := .invalidate 0 7 }], dma.cache := [(1, [⟨7 * 64 + 3, [], false⟩, ⟨3, [], false⟩])], dma.fills := [{ tower := 1, line := 7 * 64 }] }, by decide +kernel⟩,
    ⟨0, 1, 7, ⟨0, 0, 7, [1, 2], 0, [], []⟩, { awake with pho.mesh := [{ source := 1, dest := 0, load := .invalidateAck 0 1 7 }], dma.invals := [(⟨0, 0, 7, [1, 2], 0, [], []⟩ : Inval)] }, by decide +kernel⟩,
    ⟨0, 1, 7, ⟨0, 0, 7, [1, 2], 0, [], []⟩, { awake with dma.invals := [(⟨0, 0, 7, [1, 2], 0, [], []⟩ : Inval)] }, by decide +kernel⟩,
    ⟨0, 7, { header := mkOpen 3 0 false 1 5 0 3 0 true 448 0 0, data := aLine 3 }, { tower := 0, line := 7, tag := 5 }, { awake with dma.fills := [({ tower := 0, line := 7, tag := 5 } : Fill)], pho.inbox := [(0, ({ header := mkOpen 3 0 false 1 5 0 3 0 true 448 0 0, data := aLine 3 } : OpenPacket))], pho.outstanding := [(0, 5, 15)] }, by decide +kernel⟩,
    ⟨0, 7, { header := mkOpen 3 0 false 1 5 0 3 0 true 448 0 0, data := aLine 3 }, { tower := 0, line := 7, tag := 5, stale := true }, { awake with dma.fills := [({ tower := 0, line := 7, tag := 5, stale := true } : Fill)], pho.inbox := [(0, ({ header := mkOpen 3 0 false 1 5 0 3 0 true 448 0 0, data := aLine 3 } : OpenPacket))], pho.outstanding := [(0, 5, 15)] }, by decide +kernel⟩⟩

theorem witness_DramCommandsComplete :
    (∃ (w : Tower) (address : BitVec 36) (s : State), let line := lineOfAddress w address.toNat; Tab.look [] s.dram.writeBacks (bankKey line) = [] ∧
      stackServes s w = true ∧ classify (dictNat s 0x380001) (storedWord s 3) = .clean) ∧
    (∃ (w : Tower) (address : BitVec 36) (s : State), let line := lineOfAddress w address.toNat; Tab.look [] s.dram.writeBacks (bankKey line) = [] ∧
      stackServes s w = true ∧ classify (dictNat s 0x380001) (storedWord s 3) = .corrected (lineWord (aLine 5) false)) ∧
    (∃ (w : Tower) (address : BitVec 36) (s : State), let line := lineOfAddress w address.toNat; Tab.look [] s.dram.writeBacks (bankKey line) = [] ∧
      stackServes s w = true ∧ classify (dictNat s 0x380001) (storedWord s 3) = .uncorrectable) ∧
    (∃ (w : Tower) (address : BitVec 36) (s : State), let line := lineOfAddress w address.toNat; Tab.look [] s.dram.writeBacks (bankKey line) = [] ∧
      stackServes s w = true ∧ classify (dictNat s 0x380001) (storedWord s 3) = .poisoned) ∧
    (∃ (w : Tower) (address : BitVec 36) (s : State), let line := lineOfAddress w address.toNat; Tab.look [] s.dram.writeBacks (bankKey line) = [] ∧
      stackServes s w = false) ∧
    (∃ (w : Tower) (c : Fin 32) (b : Fin 32) (x : WriteBack) (s : State), Tab.look [] s.dram.writeBacks (1024 * w.val + 32 * c.val + b.val) = [x]) ∧
    (∃ (w : Tower) (address : BitVec 36) (data : Bytes) (poisoned : Bool) (s : State), let line := lineOfAddress w address.toNat; (∀ x ∈ Tab.look [] s.dram.writeBacks (bankKey line), x.line = line) ∧
      stackServes s w = true ∧ address.toNat % 64 = 0 ∧ data.length = 64) ∧
    (∃ (w : Tower) (address : BitVec 36) (data : Bytes) (poisoned : Bool) (s : State), let line := lineOfAddress w address.toNat; (∀ x ∈ Tab.look [] s.dram.writeBacks (bankKey line), x.line = line) ∧
      stackServes s w = true ∧ classify (dictNat s 0x380001) (storedWord s 3) = .clean) ∧
    (∃ (w : Tower) (address : BitVec 36) (data : Bytes) (poisoned : Bool) (s : State), let line := lineOfAddress w address.toNat; (∀ x ∈ Tab.look [] s.dram.writeBacks (bankKey line), x.line = line) ∧
      stackServes s w = false) ∧
    (∃ (w : Tower) (c : Fin 32) (s : State), towerUp s w = true ∧
      (stack s w).selfRefresh = false) ∧
    (∃ (w : Tower) (s : State), (stack s w).drained = true ∧
      (stack s w).selfRefresh = false) ∧
    (∃ (w : Tower) (upsets : List (Fin 72 × Byte)) (s : State), patrolRuns s w = true ∧
      (stack s w).patrolLine < 2 ^ 30) ∧
    (∃ (w : Tower) (upsets : List (Fin 72 × Byte)) (s : State), patrolRuns s w = true ∧
      (stack s w).patrolLine < 2 ^ 30) ∧
    (∃ (req : Req) (value : Bytes) (s : State), Admitted req 0x380006 value s ∧
      leNat value < 4096 ∧
      (∀ w ∈ maskMembers 12 (leNat value), partitionOf s w = none)) ∧
    (∃ (w : Tower) (s : State), scrubRuns s w = true) :=
  ⟨⟨0, 0xC0, storeWord 3 (lineWord (aLine 5) false) awake, by decide +kernel⟩,
    ⟨0, 0xC0, storeWord 3 ((lineWord (aLine 5) false).set 20 99) awake, by decide +kernel⟩,
    ⟨0, 0xC0, storeWord 3 (List.replicate 12 77 ++ (lineWord (aLine 5) false).drop 12) awake, by decide +kernel⟩,
    ⟨0, 0xC0, storeWord 3 (lineWord (aLine 5) true) awake, by decide +kernel⟩,
    ⟨0, 0xC0, { awake with dram.stackTable := [(0, { drained := true })] }, by decide +kernel⟩,
    ⟨0, 0, 0, { line := 3, word := List.replicate 72 1 }, { awake with dram.writeBacks := [(0, [({ line := 3, word := List.replicate 72 1 } : WriteBack)])] }, by decide +kernel⟩,
    ⟨0, 0xC0, aLine 9, false, awake, by decide +kernel⟩,
    ⟨0, 0xC3, [1, 2], true, storeWord 3 (lineWord (aLine 5) false) awake, by decide +kernel⟩,
    ⟨0, 0xC3, [1, 2], true, { awake with dram.stackTable := [(0, { drained := true })] }, by decide +kernel⟩,
    ⟨11, 31, { awake with dram.openRow := [(11 * 1024 + 32 * 31 + 31, 5)] }, by decide +kernel⟩,
    ⟨0, { awake with dram.stackTable := [(0, { drained := true })], dram.writeBacks := [(0, [{ line := 0, word := [1] }])] }, by decide +kernel⟩,
    ⟨0, [], { awake with dict := [(0x380004, [24, 0, 0, 0])] }, by decide +kernel⟩,
    ⟨0, [], { awake with dict := [(0x380004, [24, 0, 0, 0])], dram.stackTable := [(0, { patrolLine := 2 ^ 30 - 1 })] }, by decide +kernel⟩,
    ⟨manager 1, [2, 0], { awake with dict := [(0x340002, List.replicate 8 0xFF)] }, (by unfold Admitted; decide +kernel), by decide +kernel, by decide +kernel⟩,
    ⟨0, { storeWord 3 (lineWord (aLine 5) false) awake with dram.stackTable := [(0, { scrubLine := some 9 })] }, by decide +kernel⟩⟩

theorem witness_SlotCommandsComplete :
    (∃ (w : Tower) (slot : BitVec 8) (supply : List (Plane × Bytes)) (late : List Plane) (s : State), (receiver s w).optical = true ∧
      towerUp s w = true) ∧
    (∃ (w : Tower) (slot : BitVec 8) (supply : List (Plane × Bytes)) (late : List Plane) (s : State), (receiver s w).optical = true ∧
      towerUp s w = true) ∧
    (∃ (w : Tower) (word : BitVec 64) (s : State), qSource word < 12 ∧
      qSource word ≠ w.val ∧
      wordValid word = true ∧ qSlot word = (slotAt s + 1) % 16) ∧
    (∃ (w : Tower) (word : BitVec 64) (s : State), qSource word < 12 ∧
      qSource word ≠ w.val ∧
      wordValid word = false) ∧
    (∃ (w : Tower) (slot : BitVec 8) (s : State), (receiver s w).optical = true ∧
      towerUp s w = true) ∧
    (∃ (w : Tower) (word : BitVec 64) (s : State), wordValid word = true ∧ gDest word < 12 ∧ gDest word ≠ w.val ∧ gWinner word 0 = w.val) ∧
    (∃ (w : Tower) (word : BitVec 64) (s : State), wordValid word = false) ∧
    (∃ (w : Tower) (plane : Plane) (x : Decision) (s : State), decided s w plane (slotAt s) = some x) ∧
    (∃ (w : Tower) (source : Tower) (plane : Plane) (slot : BitVec 8) (f : Bytes) (x : SlotSent) (s : State), let n := pathLink source w plane; let data := flitData f; let h := BitVec.ofNat 128 (leNat (data.take 16)); s.pho.launches = [] ∧
      s.pho.slots.find? (fun x => decide (x.source = source.val ∧ x.plane = plane.val ∧ x.dest = w.val ∧ x.slot = slot.toNat)) = some x ∧
      x.flits = [f] ∧
      flitIntact f = true ∧
      flitKind f = 0 ∧
      (rxOf s n).expected = flitSeq f ∧
      (rxOf s n).reorder = [] ∧
      (rxOf s n).left = 0 ∧
      (rxOf s n).naking = false ∧
      scheduledType (sType h) = true) ∧
    (∃ (w : Tower) (source : Tower) (plane : Plane) (slot : BitVec 8) (f : Bytes) (x : SlotSent) (s : State), let n := pathLink source w plane; let data := flitData f; let h := BitVec.ofNat 128 (leNat (data.take 16)); s.pho.launches = [] ∧
      s.pho.slots.find? (fun x => decide (x.source = source.val ∧ x.plane = plane.val ∧ x.dest = w.val ∧ x.slot = slot.toNat)) = some x ∧
      x.flits = [f] ∧
      flitIntact f = true ∧
      flitKind f = 0 ∧
      (rxOf s n).expected = flitSeq f ∧
      (rxOf s n).reorder = [] ∧
      (rxOf s n).left = 0 ∧
      (rxOf s n).naking = false ∧
      scheduledType (sType h) = true) ∧
    (∃ (w : Tower) (source : Tower) (plane : Plane) (slot : BitVec 8) (f : Bytes) (bad : Bytes) (x : SlotSent) (s : State), s.pho.launches = [] ∧
      s.pho.slots.find? (fun x => decide (x.source = source.val ∧ x.plane = plane.val ∧ x.dest = w.val ∧ x.slot = slot.toNat)) = some x ∧
      x.flits = [f] ∧
      flitIntact bad = false) ∧
    (∃ (n : Fin 18) (s : State), n.val ∉ s.pho.meshDown) :=
  ⟨⟨0, 0, [], [], { awake with pho.grants := [(3, { dest := 1, slot := 0, provisional := false, aged := false })] }, by decide +kernel⟩,
    ⟨0, 255, [(0, [1, 2])], [1], awake, by decide +kernel⟩,
    ⟨0, mkWord (11 * 2 ^ 60 + 1 * 2 ^ 56 + 0xF * 2 ^ 14 + 0 * 2 ^ 9), { awake with pho.sheepdogs := [(1, { requests := [⟨11, 0⟩, ⟨3, 1⟩] })] }, by decide +kernel⟩,
    ⟨0, 0xB100000000000001, { awake with pho.sheepdogs := [(1, { requests := [⟨11, 0⟩, ⟨3, 1⟩] })] }, by decide +kernel⟩,
    ⟨0, 0, { awake with pho.pathOn := (List.range 1152).map (fun n => (16 + n, true)), pho.sheepdogs := [(1, { requests := [⟨11, 0⟩, ⟨3, 1⟩] })] }, by decide +kernel⟩,
    ⟨0, mkWord (1 * 2 ^ 60 + 1 * 2 ^ 56 + 1 * 2 ^ 28 + 2 ^ 24 * 0 + 0xFFFFFF * 2 ^ 32), awake, by decide +kernel⟩,
    ⟨0, 1, { awake with pho.grants := [(3, { dest := 1, slot := 0, provisional := false, aged := false })] }, by decide +kernel⟩,
    ⟨0, 1, ⟨0, 0, 3, false, 7, [⟨5, {}⟩]⟩, { awake with pho.sheepdogs := [(1, { count := 8, last := some (⟨0, 0, 3, false, 7, [⟨5, {}⟩]⟩ : Decision) })] }, by decide +kernel⟩,
    ⟨0, 1, 0, 7, mkFlit 0 3 0 0 0xFFFF (leBytes 16 (mkSlotHeader 0 1 0 1 5 4).toNat ++ padTo 224 [1, 2, 3, 4]), { source := 1, plane := 0, dest := 0, slot := 7, flits := [(mkFlit 0 3 0 0 0xFFFF (leBytes 16 (mkSlotHeader 0 1 0 1 5 4).toNat ++ padTo 224 [1, 2, 3, 4]) : Bytes)] }, { awake with pho.slots := [({ source := 1, plane := 0, dest := 0, slot := 7, flits := [(mkFlit 0 3 0 0 0xFFFF (leBytes 16 (mkSlotHeader 0 1 0 1 5 4).toNat ++ padTo 224 [1, 2, 3, 4]) : Bytes)] } : SlotSent)], lanes.rx := [(pathLink 1 0 0, { expected := 3 })] }, by decide +kernel⟩,
    ⟨0, 1, 0, 7, mkFlit 0 1023 0 0 0xFFFF (leBytes 16 (mkSlotHeader 0 1 0 1 5 4).toNat ++ padTo 224 [1, 2, 3, 4]), { source := 1, plane := 0, dest := 0, slot := 7, flits := [(mkFlit 0 1023 0 0 0xFFFF (leBytes 16 (mkSlotHeader 0 1 0 1 5 4).toNat ++ padTo 224 [1, 2, 3, 4]) : Bytes)] }, { awake with pho.slots := [({ source := 1, plane := 0, dest := 0, slot := 7, flits := [(mkFlit 0 1023 0 0 0xFFFF (leBytes 16 (mkSlotHeader 0 1 0 1 5 4).toNat ++ padTo 224 [1, 2, 3, 4]) : Bytes)] } : SlotSent)], lanes.rx := [(pathLink 1 0 0, { expected := 1023 })] }, by decide +kernel⟩,
    ⟨0, 1, 0, 7, mkFlit 0 3 0 0 0xFFFF (leBytes 16 (mkSlotHeader 0 1 0 1 5 4).toNat ++ padTo 224 [1, 2, 3, 4]), zeros 256, { source := 1, plane := 0, dest := 0, slot := 7, flits := [(mkFlit 0 3 0 0 0xFFFF (leBytes 16 (mkSlotHeader 0 1 0 1 5 4).toNat ++ padTo 224 [1, 2, 3, 4]) : Bytes)] }, { awake with pho.slots := [({ source := 1, plane := 0, dest := 0, slot := 7, flits := [(mkFlit 0 3 0 0 0xFFFF (leBytes 16 (mkSlotHeader 0 1 0 1 5 4).toNat ++ padTo 224 [1, 2, 3, 4]) : Bytes)] } : SlotSent)], lanes.rx := [(pathLink 1 0 0, { expected := 3 })] }, by decide +kernel⟩,
    ⟨17, awake, by decide +kernel⟩⟩

theorem witness_OpenPacketCommandsComplete :
    (∃ (w : Tower) (p : OpenPacket) (s : State), OpenServed w p 1 true s ∧
      oLines p.header = 1 ∧
      oEnables p.header = 0xFF ∧
      p.data.length = 64 ∧
      spadBase ≤ oAddress p.header) ∧
    (∃ (w : Tower) (p : OpenPacket) (s : State), OpenServed w p 1 true s ∧
      oLines p.header = 1 ∧
      oEnables p.header = 0xFF ∧
      p.data.length = 64 ∧
      oAddress p.header < spadBase) ∧
    (∃ (w : Tower) (p : OpenPacket) (s : State), OpenServed w p 2 false s ∧
      spadBase ≤ oAddress p.header) ∧
    (∃ (w : Tower) (p : OpenPacket) (s : State), OpenServed w p 2 false s ∧
      oAddress p.header < spadBase ∧ rcIndex s (oAddress p.header) = some 0) ∧
    (∃ (w : Tower) (p : OpenPacket) (s : State), OpenServed w p 4 true s ∧
      spadBase ≤ oAddress p.header ∧
      spadPoisoned s (oAddress p.header - spadBase) 8 = false) ∧
    (∃ (w : Tower) (p : OpenPacket) (c : Nat) (s : State), (w.val, p) ∈ s.pho.inbox ∧
      openRefusal s w p.header (decide (oKind p.header ≠ 2)) = some c) ∧
    (∃ (w : Tower) (p : OpenPacket) (c : Nat) (s : State), (w.val, p) ∈ s.pho.inbox ∧
      openRefusal s w p.header (decide (oKind p.header ≠ 2)) = some c) ∧
    (∃ (w : Tower) (p : OpenPacket) (c : Nat) (s : State), (w.val, p) ∈ s.pho.inbox ∧
      openRefusal s w p.header (decide (oKind p.header ≠ 2)) = some c) ∧
    (∃ (w : Tower) (p : OpenPacket) (d : Desc) (s : State), OpenAwaited w p 3 d s ∧
      oCode p.header = ccOk ∧
      dOp d.raw = 1 ∧
      descRefused d.raw = false ∧
      dDstSpad d.raw = true ∧
      dRows d.raw = 1 ∧
      d.cursorRows = 0 ∧
      d.cursorBytes = 0 ∧
      d.chunk = none ∧
      d.len = dRowBytes d.raw ∧
      dDest d.raw % 64 + d.len ≤ 64 ∧
      dSource d.raw % 4096 + d.len ≤ 4096 ∧
      d.place % 64 + d.len ≤ p.data.length ∧
      mayIssue s d = true ∧
      OwnLine w d.partition (spadBase + w.val * 2 ^ 28 + dDest d.raw) true s) ∧
    (∃ (w : Tower) (p : OpenPacket) (d : Desc) (s : State), OpenAwaited w p 6 d s ∧
      dOp d.raw ≠ 6 ∧
      (oCode p.header = ccOk → d.cursorBytes + d.len = dRowBytes d.raw ∧ d.cursorRows + 1 = dRows d.raw ∧ d.code = ccOk) ∧
      (oCode p.header = ccOk ∨ oCode p.header = ccTargetDead ∨ oCode p.header = ccWorldDenied ∨ oCode p.header = ccRefused) ∧
      oCode p.header = ccOk) ∧
    (∃ (w : Tower) (p : OpenPacket) (d : Desc) (s : State), OpenAwaited w p 6 d s ∧
      dOp d.raw ≠ 6 ∧
      (oCode p.header = ccOk → d.cursorBytes + d.len = dRowBytes d.raw ∧ d.cursorRows + 1 = dRows d.raw ∧ d.code = ccOk) ∧
      (oCode p.header = ccOk ∨ oCode p.header = ccTargetDead ∨ oCode p.header = ccWorldDenied ∨ oCode p.header = ccRefused) ∧
      oCode p.header = ccTargetDead) ∧
    (∃ (w : Tower) (p : OpenPacket) (d : Desc) (s : State), OpenAwaited w p 5 d s ∧
      oCode p.header = ccOk ∧
      dOp d.raw = 6 ∧
      dRows d.raw = 1 ∧
      dRowBytes d.raw = 8 ∧
      d.cursorRows = 0 ∧
      d.cursorBytes = 0 ∧
      p.data.length = 8) :=
  ⟨⟨0, { header := mkOpen 1 0 false 1 9 1 3 0 true (spadBase + 0x40) 0xFF 0, data := aLine 5 }, { awake with dict := twoTowers, pho.inbox := [(0, ({ header := mkOpen 1 0 false 1 9 1 3 0 true (spadBase + 0x40) 0xFF 0, data := aLine 5 } : OpenPacket))], spad.bytes := [(0x100, some 7)] }, (by unfold OpenServed; decide +kernel), by decide +kernel, by decide +kernel, by decide +kernel, by decide +kernel⟩,
    ⟨0, { header := mkOpen 1 0 true 1 9 1 3 0 true 0x40 0xFF 0, data := aLine 5 }, { awake with dict := twoTowers, pho.inbox := [(0, ({ header := mkOpen 1 0 true 1 9 1 3 0 true 0x40 0xFF 0, data := aLine 5 } : OpenPacket))], spad.bytes := [(0x100, some 7)] }, (by unfold OpenServed; decide +kernel), by decide +kernel, by decide +kernel, by decide +kernel, by decide +kernel⟩,
    ⟨0, { header := mkOpen 2 0 false 8 9 1 3 0 true (spadBase + 0x40) 0 0, data := [] }, { awake with dict := twoTowers, pho.inbox := [(0, ({ header := mkOpen 2 0 false 8 9 1 3 0 true (spadBase + 0x40) 0 0, data := [] } : OpenPacket))], spad.bytes := [(0x100, some 7)] }, (by unfold OpenServed; decide +kernel), by decide +kernel⟩,
    ⟨0, { header := mkOpen 2 0 false 1 9 1 3 0 true 0x40 0 0, data := [] }, { awake with dict := Tab.put [] 0x389001 [1, 0, 0, 0, 0, 0, 0, 0] twoTowers, pho.inbox := [(0, ({ header := mkOpen 2 0 false 1 9 1 3 0 true 0x40 0 0, data := [] } : OpenPacket))] }, (by unfold OpenServed; decide +kernel), by decide +kernel⟩,
    ⟨0, { header := mkOpen 4 0 false 1 9 1 3 0 true (spadBase + 0x100) 0xFF 0, data := leBytes 8 6 ++ leBytes 8 0 }, { awake with dict := twoTowers, pho.inbox := [(0, ({ header := mkOpen 4 0 false 1 9 1 3 0 true (spadBase + 0x100) 0xFF 0, data := leBytes 8 6 ++ leBytes 8 0 } : OpenPacket))], spad.bytes := [(0x100, some 7)] }, (by unfold OpenServed; decide +kernel), by decide +kernel, by decide +kernel⟩,
    ⟨0, { header := mkOpen 1 0 false 1 9 1 3 0 true 0x40 0xFF 0, data := aLine 5 }, ccRetry, { awake with dict := twoTowers, pho.inbox := [(0, ({ header := mkOpen 1 0 false 1 9 1 3 0 true 0x40 0xFF 0, data := aLine 5 } : OpenPacket))], dram.stackTable := [(0, { drained := true })] }, by decide +kernel⟩,
    ⟨0, { header := mkOpen 2 0 false 1 9 1 3 0 true 0x40 0xFF 0, data := aLine 5 }, ccRetry, { awake with dict := twoTowers, pho.inbox := [(0, ({ header := mkOpen 2 0 false 1 9 1 3 0 true 0x40 0xFF 0, data := aLine 5 } : OpenPacket))], dram.stackTable := [(0, { drained := true })] }, by decide +kernel⟩,
    ⟨0, { header := mkOpen 4 0 false 1 9 1 3 0 true 0x40 0xFF 0, data := aLine 5 }, ccRetry, { awake with dict := twoTowers, pho.inbox := [(0, ({ header := mkOpen 4 0 false 1 9 1 3 0 true 0x40 0xFF 0, data := aLine 5 } : OpenPacket))], dram.stackTable := [(0, { drained := true })] }, by decide +kernel⟩,
    ⟨0, { header := mkOpen 3 0 false 1 9 0 3 0 true 0 0 0, data := aLine 5 }, { raw := descriptor 1 4 0x40 0x80 64 1 0 0, partition := 0, run := 9, state := .active, wait := .openTag 9, len := 64, place := 0 }, { queued ({ raw := descriptor 1 4 0x40 0x80 64 1 0 0, partition := 0, run := 9, state := .active, wait := .openTag 9, len := 64, place := 0 } : Desc) busy with pho.inbox := [(0, ({ header := mkOpen 3 0 false 1 9 0 3 0 true 0 0 0, data := aLine 5 } : OpenPacket))], pho.outstanding := [(0, 9, 0)] }, (by unfold OpenAwaited; decide +kernel), by decide +kernel, by decide +kernel, by decide +kernel, by decide +kernel, by decide +kernel, by decide +kernel, by decide +kernel, by decide +kernel, by decide +kernel, by decide +kernel, by decide +kernel, by decide +kernel, by decide +kernel, (by unfold OwnLine; decide +kernel)⟩,
    ⟨0, { header := mkOpen 6 0 false 1 9 0 3 0 true 0 0 0, data := [] }, { raw := descriptor 1 2 0x40 0x80 64 1 0 0, partition := 0, run := 9, state := .active, wait := .openTag 9, len := 64, chunk := some (aLine 5, false), place := 0 }, { queued ({ raw := descriptor 1 2 0x40 0x80 64 1 0 0, partition := 0, run := 9, state := .active, wait := .openTag 9, len := 64, chunk := some (aLine 5, false), place := 0 } : Desc) busy with pho.inbox := [(0, ({ header := mkOpen 6 0 false 1 9 0 3 0 true 0 0 0, data := [] } : OpenPacket))], pho.outstanding := [(0, 9, 0)] }, (by unfold OpenAwaited; decide +kernel), by decide +kernel, by decide +kernel, by decide +kernel, by decide +kernel⟩,
    ⟨0, { header := mkOpen 6 ccTargetDead false 1 9 0 3 0 true 0 0 0, data := [] }, { raw := descriptor 1 2 0x40 0x80 64 1 0 0, partition := 0, run := 9, state := .active, wait := .openTag 9, len := 64, chunk := some (aLine 5, false), place := 0 }, { queued ({ raw := descriptor 1 2 0x40 0x80 64 1 0 0, partition := 0, run := 9, state := .active, wait := .openTag 9, len := 64, chunk := some (aLine 5, false), place := 0 } : Desc) busy with pho.inbox := [(0, ({ header := mkOpen 6 ccTargetDead false 1 9 0 3 0 true 0 0 0, data := [] } : OpenPacket))], pho.outstanding := [(0, 9, 0)] }, (by unfold OpenAwaited; decide +kernel), by decide +kernel, by decide +kernel, by decide +kernel, by decide +kernel⟩,
    ⟨0, { header := mkOpen 5 0 false 1 9 0 3 0 true 0 0 0, data := leBytes 8 6 }, { raw := descriptor 6 2 0x40 0x80 8 1 0x300 0, partition := 0, run := 9, state := .active, wait := .openTag 9, len := 8, place := 0 }, { queued ({ raw := descriptor 6 2 0x40 0x80 8 1 0x300 0, partition := 0, run := 9, state := .active, wait := .openTag 9, len := 8, place := 0 } : Desc) busy with pho.inbox := [(0, ({ header := mkOpen 5 0 false 1 9 0 3 0 true 0 0 0, data := leBytes 8 6 } : OpenPacket))], pho.outstanding := [(0, 9, 0)] }, (by unfold OpenAwaited; decide +kernel), by decide +kernel, by decide +kernel, by decide +kernel, by decide +kernel, by decide +kernel, by decide +kernel, by decide +kernel⟩⟩

theorem witness_SumCommandsComplete :
    (∃ (w : Tower) (k : Cluster) (r : BitVec 256) (s : State), armRefused s w r = false) ∧
    (∃ (w : Tower) (k : Cluster) (r : BitVec 256) (s : State), armRefused s w r = true) ∧
    (∃ (w : Tower) (plane : Plane) (slot : BitVec 8) (markers : List (BitVec 32)) (noise : List Int) (coll : Nat) (a : Arm) (s : State), let ms := sumMembers s w plane slot.toNat coll; s.sums.claims.find? (fun c => decide (c.receiver = w.val ∧ c.plane = plane.val ∧ c.slot = slot.toNat) && !c.done) = none ∧
      slotsDark s w = false ∧
      sumCollective s w plane slot.toNat = some coll ∧
      (w.val, plane.val, slot.toNat) ∉ s.sums.evaluated ∧
      armFor s w coll true slot.toNat = some a ∧
      (∀ j, j < ms.length → sumPathOut s (ms.getD j 0) w plane j = false) ∧
      ((∀ j, j < 1 → sumPathOut s ((sumMembers s w 0 0 coll).getD j 0) w 0 j = false) ∧ sumMembers s w 0 0 coll = [0] ∧ markerCode (markers.getD 0 0) = mReady ∧ bits (markers.getD 0 0) 23 8 = scaleCheck s w a.record 0 64)) ∧
    (∃ (w : Tower) (plane : Plane) (slot : BitVec 8) (markers : List (BitVec 32)) (noise : List Int) (coll : Nat) (a : Arm) (s : State), let ms := sumMembers s w plane slot.toNat coll; s.sums.claims.find? (fun c => decide (c.receiver = w.val ∧ c.plane = plane.val ∧ c.slot = slot.toNat) && !c.done) = none ∧
      slotsDark s w = false ∧
      sumCollective s w plane slot.toNat = some coll ∧
      (w.val, plane.val, slot.toNat) ∉ s.sums.evaluated ∧
      armFor s w coll true slot.toNat = some a ∧
      (∀ j, j < ms.length → sumPathOut s (ms.getD j 0) w plane j = false) ∧
      ((∀ j, j < 1 → sumPathOut s ((sumMembers s w 0 0 coll).getD j 0) w 0 j = false) ∧ sumMembers s w 0 0 coll = [0] ∧ markerCode (markers.getD 0 0) = mPoison)) ∧
    (∃ (w : Tower) (word : BitVec 64) (m : Nat) (s : State), wordValid word = true ∧
      lightTarget s w (nOrigPlane word) (nOrigSlot word) (nColl word) = some (nReceiver word) ∧
      m < 256 ∧
      m % 16 = nSlot word ∧
      replayPlace s w (nOrigSlot word) (m, nPlane word) = true ∧
      (∀ k, k < m → k % 16 = nSlot word → replayPlace s w (nOrigSlot word) (k, nPlane word) = false) ∧
      (∀ r ∈ s.sums.replays, r.member ≠ w.val)) ∧
    (∃ (w : Tower) (member : Tower) (coll : BitVec 12) (plane : Plane) (slot : BitVec 8) (marker : BitVec 32) (codes : List Int) (s : State), s.pho.mesh = [{ source := member.val, dest := w.val, load := .sumMember coll.toNat plane.val slot.toNat marker codes }] ∧
      s.sums.waiting = [] ∧
      (w.val, coll.toNat) ∉ s.sums.meshed) :=
  ⟨⟨0, 0, 5, awake, by decide +kernel⟩,
    ⟨0, 0, 5 + 2 ^ 16 * 6, awake, by decide +kernel⟩,
    ⟨1, 0, 0, [mkMarker mReady (scaleCheck awake 1 (BitVec.ofNat 256 (5 + 2 ^ 12 + 2 ^ 32 * 64 + 2 ^ 64 * 0x1000 + 2 ^ 96 * 0x2000)) 0 64)], List.replicate 64 40, 5, { tower := 1, cluster := 0, record := BitVec.ofNat 256 (5 + 2 ^ 12 + 2 ^ 32 * 64 + 2 ^ 64 * 0x1000 + 2 ^ 96 * 0x2000), accepted := 0 }, { runs busyRun 0 with frame := { awake.frame with start := 100 }, now := 100, sums.arms := [({ tower := 1, cluster := 0, record := BitVec.ofNat 256 (5 + 2 ^ 12 + 2 ^ 32 * 64 + 2 ^ 64 * 0x1000 + 2 ^ 96 * 0x2000), accepted := 0 } : Arm)], pho.pathOn := [(pathLink 0 1 0, true)] }, by decide +kernel⟩,
    ⟨1, 0, 0, [mkMarker mPoison 0], List.replicate 64 40, 5, { tower := 1, cluster := 0, record := BitVec.ofNat 256 (5 + 2 ^ 12 + 2 ^ 32 * 64 + 2 ^ 64 * 0x1000 + 2 ^ 96 * 0x2000), accepted := 0 }, { runs busyRun 0 with frame := { awake.frame with start := 100 }, now := 100, sums.arms := [({ tower := 1, cluster := 0, record := BitVec.ofNat 256 (5 + 2 ^ 12 + 2 ^ 32 * 64 + 2 ^ 64 * 0x1000 + 2 ^ 96 * 0x2000), accepted := 0 } : Arm)], pho.pathOn := [(pathLink 0 1 0, true)] }, by decide +kernel⟩,
    ⟨0, mkNotice 1 5 0 0 0 5 1, 5, runs busyRun 0, by decide +kernel⟩,
    ⟨0, 1, 5, 3, 255, mkMarker mReady 0, [1, -2], { awake with pho.mesh := [{ source := 1, dest := 0, load := .sumMember 5 3 255 (mkMarker mReady 0 : BitVec 32) ([1, -2] : List Int) }] }, by decide +kernel⟩⟩

theorem witness_LinkTrainingCommandsComplete :
    (∃ (n : Fin 9) (failed : List Nat) (skews : List Int) (s : State), linkServed s n = true ∧
      (link s n).out = false ∧
      (∀ x ∈ skews, x.natAbs ≤ 256)) ∧
    (∃ (n : Fin 9) (failed : List Nat) (skews : List Int) (s : State), linkServed s n = true ∧
      (link s n).out = false ∧
      (∀ x ∈ skews, x.natAbs ≤ 256) ∧
      failed = [7] ∧ 7 < linkLanes n ∧ (link s n).failing = []) ∧
    (∃ (n : Fin 9) (s : State), (link s n).state = 1 ∧
      (link s n).locked = false ∧
      (link s n).attempts < 10) ∧
    (∃ (n : Fin 9) (s : State), (link s n).state = 1 ∧
      (link s n).locked = false ∧
      10 ≤ (link s n).attempts) ∧
    (∃ (n : BitVec 16) (headers : List (BitVec 2)) (s : State), hunts s n.toNat = true ∧
      (link s n.toNat).hunt = {} ∧
      headers.length = 64 ∧
      (∀ h ∈ headers, headerValid h = true) ∧
      (8 < n.toNat → steeringOut s (pathSrc n.toNat) (pathPlane n.toNat) (pathDst n.toNat) = false)) ∧
    (∃ (n : BitVec 16) (headers : List (BitVec 2)) (s : State), hunts s n.toNat = true ∧
      (link s n.toNat).hunt = {} ∧
      headers.length = 64 ∧
      (∀ h ∈ headers, headerValid h = true) ∧
      (8 < n.toNat → steeringOut s (pathSrc n.toNat) (pathPlane n.toNat) (pathDst n.toNat) = false) ∧
      8 < n.toNat ∧ (receiver s (pathDst n.toNat)).optical = false) ∧
    (∃ (n : BitVec 16) (h : BitVec 2) (s : State), hunts s n.toNat = true ∧
      headerValid h = false) ∧
    (∃ (n : BitVec 16) (h : BitVec 2) (s : State), hunts s n.toNat = true ∧
      headerValid h = false) ∧
    (∃ (n : BitVec 16) (headers : List (BitVec 2)) (s : State), (link s n.toNat).locked = true ∧
      (link s n.toNat).hunt.recent = [] ∧
      headers.length = 16 ∧
      (∀ h ∈ headers, headerValid h = false)) ∧
    (∃ (n : BitVec 16) (headers : List (BitVec 2)) (s : State), (link s n.toNat).locked = true ∧
      (link s n.toNat).hunt.recent = [] ∧
      headers.length = 16 ∧
      (∀ h ∈ headers, headerValid h = false) ∧
      (link s n.toNat).recoveries.length = 2) ∧
    (∃ (n : BitVec 16) (headers : List (BitVec 2)) (s : State), (link s n.toNat).locked = true ∧
      (link s n.toNat).hunt.recent = [] ∧
      headers.length = 16 ∧
      (∀ h ∈ headers, headerValid h = false) ∧
      8 < n.toNat) ∧
    (∃ (req : Req) (value : Bytes) (s : State), Admitted req 0x402009 value s ∧
      leNat value < 2 ^ 18 ∧
      cmdCode (leNat value) = 0 ∧
      linkExists (cmdLink (leNat value)) = true) ∧
    (∃ (req : Req) (value : Bytes) (s : State), Admitted req 0x402009 value s ∧
      leNat value < 2 ^ 18 ∧
      cmdCode (leNat value) = 0 ∧
      linkExists (cmdLink (leNat value)) = true) ∧
    (∃ (req : Req) (value : Bytes) (s : State), Admitted req 0x402009 value s ∧
      leNat value < 2 ^ 18 ∧
      cmdCode (leNat value) = 1 ∧
      linkExists (cmdLink (leNat value)) = true ∧
      (link s 8).state ≠ 0) ∧
    (∃ (req : Req) (value : Bytes) (s : State), Admitted req 0x402009 value s ∧
      leNat value < 2 ^ 18 ∧
      cmdCode (leNat value) = 1 ∧
      linkExists (cmdLink (leNat value)) = true) ∧
    (∃ (req : Req) (value : Bytes) (s : State), Admitted req 0x402009 value s ∧
      leNat value < 2 ^ 18 ∧
      cmdCode (leNat value) = 2 ∧
      linkExists (cmdLink (leNat value)) = true) ∧
    (∃ (req : Req) (value : Bytes) (s : State), Admitted req 0x402009 value s ∧
      leNat value < 2 ^ 18 ∧
      cmdCode (leNat value) = 2 ∧
      linkExists (cmdLink (leNat value)) = true) ∧
    (∃ (n : BitVec 16) (headers : List (BitVec 2)) (s : State), (link s n.toNat).locked = true ∧
      (link s n.toNat).hunt.recent = [] ∧
      headers.length < 16) ∧
    (∃ (n : Fin 9) (s : State), (link s n).locked = true ∧
      (link s n).infoSeen = false) ∧
    (∃ (n : Fin 9) (s : State), (link s n).locked = true ∧
      (link s n).infoSeen = false) :=
  ⟨⟨8, [], [-256, 256], awake, by decide +kernel⟩,
    ⟨0, [7], [], awake, by decide +kernel⟩,
    ⟨0, withLink 0 { state := 1, attempts := 9 } awake, by decide +kernel⟩,
    ⟨0, withLink 0 { state := 1, attempts := 10 } awake, by decide +kernel⟩,
    ⟨8, List.replicate 64 1, withLink 8 { state := 1 } awake, by decide +kernel⟩,
    ⟨17, List.replicate 64 2, withLink 17 { state := 1 } { awake with frame.receivers := [] }, by decide +kernel⟩,
    ⟨8, 0, withLink 8 { state := 1, hunt := { candidate := 257 } } awake, by decide +kernel⟩,
    ⟨1166, 3, withLink 1166 { state := 1 } awake, by decide +kernel⟩,
    ⟨8, List.replicate 16 0, withLink 8 { state := 2, locked := true, up := true, recoveries := [] } awake, by decide +kernel⟩,
    ⟨0, List.replicate 16 3, withLink 0 { state := 2, locked := true, up := true, recoveries := [0, 0] } awake, by decide +kernel⟩,
    ⟨1167, List.replicate 16 0, withLink 1167 { state := 2, locked := true, recoveries := [0, 0] } awake, by decide +kernel⟩,
    ⟨manager 1, [8, 0, 0, 0], withLink 8 { state := 2, locked := true, up := true } awake, (by unfold Admitted; decide +kernel), by decide +kernel, by decide +kernel, by decide +kernel⟩,
    ⟨manager 1, [17, 0, 0, 0], withLink 17 { state := 2, locked := true, up := true } awake, (by unfold Admitted; decide +kernel), by decide +kernel, by decide +kernel, by decide +kernel⟩,
    ⟨manager 1, [8, 0, 1, 0], withLink 8 { state := 2, locked := true, up := true } awake, (by unfold Admitted; decide +kernel), by decide +kernel, by decide +kernel, by decide +kernel, by decide +kernel⟩,
    ⟨manager 1, [17, 0, 1, 0], withLink 17 { } awake, (by unfold Admitted; decide +kernel), by decide +kernel, by decide +kernel, by decide +kernel⟩,
    ⟨manager 1, [8, 0, 2, 0], withLink 8 { out := true } awake, (by unfold Admitted; decide +kernel), by decide +kernel, by decide +kernel, by decide +kernel⟩,
    ⟨manager 1, [17, 0, 2, 0], withLink 17 { out := true } awake, (by unfold Admitted; decide +kernel), by decide +kernel, by decide +kernel, by decide +kernel⟩,
    ⟨17, List.replicate 15 0, withLink 17 { locked := true } awake, by decide +kernel⟩,
    ⟨8, withLink 8 { locked := true, lockedAt := 3 } awake, by decide +kernel⟩,
    ⟨0, { withLink 0 { locked := true } awake with lanes.tx := [(0, { pattern := true, streamAt := 8000 })] }, by decide +kernel⟩⟩

theorem witness_FlitCommandsComplete :
    (∃ (n : Fin 9) (f : Bytes) (s : State), InStep n s ∧
      flitAckValid f = false ∧
      flitNakValid f = false ∧
      (decide (n.val < 8) && portEncrypted s n && decide ((crypt s (2 * n.val + 1)).generation ≠ 0)) = false ∧
      flitIntact f = true ∧ flitKind f = 0 ∧ flitSeq f = (rxOf s n).expected) ∧
    (∃ (n : Fin 9) (f : Bytes) (s : State), InStep n s ∧
      flitAckValid f = false ∧
      flitNakValid f = false ∧
      (decide (n.val < 8) && portEncrypted s n && decide ((crypt s (2 * n.val + 1)).generation ≠ 0)) = false ∧
      flitSeq f = (rxOf s n).expected) ∧
    (∃ (n : Fin 9) (f : Bytes) (s : State), InStep n s ∧
      flitAckValid f = false ∧
      flitNakValid f = false ∧
      (decide (n.val < 8) && portEncrypted s n && decide ((crypt s (2 * n.val + 1)).generation ≠ 0)) = false ∧
      flitIntact f = false) ∧
    (∃ (n : Fin 9) (f : Bytes) (s : State), InStep n s ∧
      flitAckValid f = false ∧
      flitNakValid f = false ∧
      n.val < 8 ∧
      portEncrypted s n = true ∧
      (crypt s (2 * n.val + 1)).generation ≠ 0 ∧
      flitIntact f = true ∧
      flitKind f = 0) ∧
    (∃ (n : BitVec 16) (f : Bytes) (s : State), (link s n.toNat).loop = 0 ∧ flitAckValid f = true) ∧
    (∃ (n : BitVec 16) (f : Bytes) (s : State), (link s n.toNat).loop ≠ 0) ∧
    (∃ (n : Fin 9) (f : Bytes) (s : State), InStep n s ∧
      flitIntact f = true ∧
      flitKind f = 2 ∧
      flitCode f = 1 ∧
      flitAckValid f = false ∧
      flitNakValid f = false ∧
      flitWidth f ≤ 2 ∧ (txOf s n).dataOn = false) ∧
    (∃ (n : Fin 9) (f : Bytes) (s : State), InStep n s ∧
      flitIntact f = true ∧
      flitKind f = 2 ∧
      flitCode f = 3 ∧
      flitAckValid f = false ∧
      flitNakValid f = false ∧
      flitWidth f = 0) ∧
    (∃ (n : Fin 9) (f : Bytes) (s : State), InStep n s ∧
      flitIntact f = true ∧
      flitKind f = 2 ∧
      flitCode f = 3 ∧
      flitAckValid f = false ∧
      flitNakValid f = false ∧
      flitWidth f = 2) ∧
    (∃ (n : Fin 9) (f : Bytes) (s : State), flitIntact f = true ∧
      flitKind f = 2 ∧
      flitCode f = 4 ∧
      flitStep f ≤ 1 ∧
      (link s n).out = true) ∧
    (∃ (n : Fin 9) (f : Bytes) (s : State), flitIntact f = true ∧
      flitKind f = 2 ∧
      flitCode f = 4 ∧
      flitStep f ≤ 1 ∧
      (link s n).out = true) ∧
    (∃ (n : Fin 9) (f : Bytes) (s : State), flitIntact f = false) ∧
    (∃ (w : Tower) (word : BitVec 64) (s : State), let n := pathLink w (bits word 63 60) (bits word 55 53); wordValid word = true ∧
      bits word 59 56 = w.val ∧
      bits word 63 60 < 12 ∧
      bits word 63 60 ≠ w.val ∧
      word.getLsbD 52 = false ∧
      (txOf s n).waiting = []) ∧
    (∃ (n : Fin 9) (x : TxFlit) (s : State), (txOf s n).nak = some x.seq ∧
      (txOf s n).unacked = [x] ∧
      x.tries < 3) ∧
    (∃ (n : Fin 9) (x : TxFlit) (s : State), (txOf s n).nak = some x.seq ∧
      (txOf s n).unacked = [x] ∧
      3 ≤ x.tries) ∧
    (∃ (n : Fin 9) (x : TxFlit) (s : State), (txOf s n).nak = some x.seq ∧
      (txOf s n).unacked = [x] ∧
      x.tries < 3) ∧
    (∃ (n : Fin 9) (x : TxFlit) (s : State), (txOf s n).nak = some x.seq ∧
      (txOf s n).unacked = [x] ∧
      x.tries < 3) ∧
    (∃ (n : Fin 9) (x : TxFlit) (s : State), (txOf s n).nak = some x.seq ∧
      (txOf s n).unacked = [x] ∧
      3 ≤ x.tries) ∧
    (∃ (n : Fin 9) (x : TxFlit) (s : State), (txOf s n).nak = some x.seq ∧
      (txOf s n).unacked = [x] ∧
      x.tries < 3) ∧
    (∃ (n : BitVec 16) (x : TxFlit) (s : State), (txOf s n.toNat).unacked = [x] ∧
      x.tries < 3) ∧
    (∃ (n : BitVec 16) (x : TxFlit) (s : State), (txOf s n.toNat).unacked = [x] ∧
      3 ≤ x.tries) ∧
    (∃ (n : BitVec 16) (x : TxFlit) (s : State), (txOf s n.toNat).unacked = [x] ∧
      x.tries < 3) ∧
    (∃ (n : BitVec 16) (x : TxFlit) (s : State), (txOf s n.toNat).unacked = [x] ∧
      x.tries < 3) ∧
    (∃ (n : BitVec 16) (x : TxFlit) (s : State), (txOf s n.toNat).unacked = [x] ∧
      3 ≤ x.tries) ∧
    (∃ (n : BitVec 16) (x : TxFlit) (s : State), (txOf s n.toNat).unacked = [x] ∧
      x.tries < 3) ∧
    (∃ (n : BitVec 16) (x : TxFlit) (s : State), (txOf s n.toNat).unacked = [x] ∧
      8 < n.toNat ∧ x.tries < 4) ∧
    (∃ (n : BitVec 16) (x : TxFlit) (s : State), (txOf s n.toNat).unacked = [x] ∧
      8 < n.toNat ∧ 4 ≤ x.tries) ∧
    (∃ (n : BitVec 16) (lane : BitVec 8) (step : BitVec 8) (s : State), 8 < n.toNat ∧
      TapTaken n.toNat lane.toNat step.toNat s) ∧
    (∃ (n : BitVec 16) (f : Bytes) (s : State), n.toNat ≤ 8 ∧
      InStep n.toNat s ∧
      flitIntact f = true ∧
      flitKind f = 2 ∧
      flitCode f = 2 ∧
      flitAckValid f = false ∧
      flitNakValid f = false ∧
      TapTaken n.toNat (flitLane f) (flitStep f) s) :=
  ⟨⟨8, mkFlit 0 3 0 0 0xFFFF [1], { withLink 8 { state := 2, locked := true, up := true, infoSeen := true } awake with lanes.rx := [(8, { expected := 3 })] }, (by unfold InStep; decide +kernel), by decide +kernel, by decide +kernel, by decide +kernel, by decide +kernel⟩,
    ⟨8, mkFlit 0 1023 0 0 0xFFFF [1], { withLink 8 { state := 2, locked := true, up := true, infoSeen := true } awake with lanes.rx := [(8, { expected := 1023 })] }, (by unfold InStep; decide +kernel), by decide +kernel, by decide +kernel, by decide +kernel, by decide +kernel⟩,
    ⟨8, zeros 256, withLink 8 { state := 2, locked := true, up := true, infoSeen := true } awake, (by unfold InStep; decide +kernel), by decide +kernel, by decide +kernel, by decide +kernel, by decide +kernel⟩,
    ⟨0, mkFlit 0 3 0 0 0xFFFF [1], { withLink 0 { state := 2, locked := true, up := true, infoSeen := true } awake with fab.crypt := [(1, { generation := 1 })], dict := [(0x500008, [1])] }, (by unfold InStep; decide +kernel), by decide +kernel, by decide +kernel, by decide +kernel, by decide +kernel, by decide +kernel, by decide +kernel, by decide +kernel⟩,
    ⟨8, mkFlit 1 0 0x8003 0 0xFFFF [], { withLink 8 { state := 2, locked := true, up := true, infoSeen := true } awake with lanes.tx := [(8, { next := 5, unacked := [⟨3, 0, [1], 0, 0⟩, ⟨4, 0, [1], 0, 0⟩], dataOn := true })] }, by decide +kernel⟩,
    ⟨8, zeros 256, withLink 8 { loop := 1, out := true } awake, by decide +kernel⟩,
    ⟨8, ctrlFlit 1 0 0, withLink 8 { state := 2, locked := true } awake, (by unfold InStep; decide +kernel), by decide +kernel, by decide +kernel, by decide +kernel, by decide +kernel, by decide +kernel, by decide +kernel⟩,
    ⟨8, ctrlFlit 3 0 0, withLink 8 { state := 3, locked := true, up := true, ask := 2, infoSeen := true } awake, (by unfold InStep; decide +kernel), by decide +kernel, by decide +kernel, by decide +kernel, by decide +kernel, by decide +kernel, by decide +kernel⟩,
    ⟨8, ctrlFlit 3 2 0, withLink 8 { state := 2, locked := true, up := true, ask := 2, infoSeen := true } awake, (by unfold InStep; decide +kernel), by decide +kernel, by decide +kernel, by decide +kernel, by decide +kernel, by decide +kernel, by decide +kernel⟩,
    ⟨8, ctrlFlit 4 0 1, withLink 8 { out := true } awake, by decide +kernel⟩,
    ⟨8, ctrlFlit 4 0 0, withLink 8 { out := true, partnerLoop := true } awake, by decide +kernel⟩,
    ⟨8, zeros 256, withLink 8 { out := true } awake, by decide +kernel⟩,
    ⟨0, mkAckWord 1 0 3 0 3 0, { awake with lanes.tx := [(pathLink 0 1 3, { next := 5, unacked := [⟨3, 0, [1], 0, 0⟩, ⟨4, 0, [1], 0, 0⟩], dataOn := true })] }, by decide +kernel⟩,
    ⟨8, ⟨3, 0, [1], 0, 2⟩, { withLink 8 { state := 2, locked := true, up := true, infoSeen := true } awake with lanes.tx := [(8, { next := 5, unacked := [(⟨3, 0, [1], 0, 2⟩ : TxFlit)], nak := some 3, dataOn := true })] }, by decide +kernel⟩,
    ⟨8, ⟨3, 0xFFFF, [1], 0, 3⟩, { withLink 8 { state := 2, locked := true, up := true, infoSeen := true } awake with lanes.tx := [(8, { next := 5, unacked := [(⟨3, 0xFFFF, [1], 0, 3⟩ : TxFlit)], nak := some 3, dataOn := true })] }, by decide +kernel⟩,
    ⟨8, ⟨3, 0, [1], 0, 2⟩, { withLink 8 { state := 2, locked := true, up := true, infoSeen := true } awake with lanes.tx := [(8, { next := 5, unacked := [(⟨3, 0, [1], 0, 2⟩ : TxFlit)], nak := some 3 })] }, by decide +kernel⟩,
    ⟨0, ⟨3, 0, [1], 0, 2⟩, { withLink 0 { state := 2, locked := true, up := true, infoSeen := true } awake with lanes.tx := [(0, { next := 5, unacked := [(⟨3, 0, [1], 0, 2⟩ : TxFlit)], nak := some 3, dataOn := true })] }, by decide +kernel⟩,
    ⟨0, ⟨3, 0xFFFF, [1], 0, 3⟩, { withLink 0 { state := 2, locked := true, up := true, infoSeen := true } awake with lanes.tx := [(0, { next := 5, unacked := [(⟨3, 0xFFFF, [1], 0, 3⟩ : TxFlit)], nak := some 3, dataOn := true })] }, by decide +kernel⟩,
    ⟨0, ⟨3, 0, [1], 0, 2⟩, { withLink 0 { state := 2, locked := true, up := true, infoSeen := true } awake with lanes.tx := [(0, { next := 5, unacked := [(⟨3, 0, [1], 0, 2⟩ : TxFlit)], nak := some 3 })] }, by decide +kernel⟩,
    ⟨8, ⟨3, 0, [1], 0, 2⟩, { withLink 8 { state := 2, locked := true, up := true, infoSeen := true } awake with lanes.tx := [(8, { next := 5, unacked := [(⟨3, 0, [1], 0, 2⟩ : TxFlit)], dataOn := true })] }, by decide +kernel⟩,
    ⟨8, ⟨3, 0xFFFF, [1], 0, 3⟩, { withLink 8 { state := 2, locked := true, up := true, infoSeen := true } awake with lanes.tx := [(8, { next := 5, unacked := [(⟨3, 0xFFFF, [1], 0, 3⟩ : TxFlit)], dataOn := true })] }, by decide +kernel⟩,
    ⟨8, ⟨3, 0, [1], 0, 2⟩, { withLink 8 { state := 2, locked := true, up := true, infoSeen := true } awake with lanes.tx := [(8, { next := 5, unacked := [(⟨3, 0, [1], 0, 2⟩ : TxFlit)] })] }, by decide +kernel⟩,
    ⟨0, ⟨3, 0, [1], 0, 2⟩, { withLink 0 { state := 2, locked := true, up := true, infoSeen := true } awake with lanes.tx := [(0, { next := 5, unacked := [(⟨3, 0, [1], 0, 2⟩ : TxFlit)], dataOn := true })] }, by decide +kernel⟩,
    ⟨0, ⟨3, 0xFFFF, [1], 0, 3⟩, { withLink 0 { state := 2, locked := true, up := true, infoSeen := true } awake with lanes.tx := [(0, { next := 5, unacked := [(⟨3, 0xFFFF, [1], 0, 3⟩ : TxFlit)], dataOn := true })] }, by decide +kernel⟩,
    ⟨0, ⟨3, 0, [1], 0, 2⟩, { withLink 0 { state := 2, locked := true, up := true, infoSeen := true } awake with lanes.tx := [(0, { next := 5, unacked := [(⟨3, 0, [1], 0, 2⟩ : TxFlit)] })] }, by decide +kernel⟩,
    ⟨17, ⟨3, 0, [1], 0, 3⟩, { withLink 17 { state := 2, locked := true, up := true, infoSeen := true } awake with lanes.tx := [(17, { next := 5, unacked := [(⟨3, 0, [1], 0, 3⟩ : TxFlit)], dataOn := true })] }, by decide +kernel⟩,
    ⟨17, ⟨3, 0, [1], 0, 4⟩, { withLink 17 { state := 2, locked := true, up := true, infoSeen := true } awake with lanes.tx := [(17, { next := 5, unacked := [(⟨3, 0, [1], 0, 4⟩ : TxFlit)], dataOn := true })] }, by decide +kernel⟩,
    ⟨17, 31, 1, withLink 17 { state := 2, locked := true, up := true, infoSeen := true } awake, by decide +kernel, (by unfold TapTaken; decide +kernel)⟩,
    ⟨8, mkFlit 2 0 0 0 0xFFFF (controlData 2 0 0 7 2), withLink 8 { state := 2, locked := true, up := true, infoSeen := true } awake, by decide +kernel, (by unfold InStep; decide +kernel), by decide +kernel, by decide +kernel, by decide +kernel, by decide +kernel, by decide +kernel, (by unfold TapTaken; decide +kernel)⟩⟩

theorem witness_LaneCommandsComplete :
    (∃ (n : BitVec 16) (ests : List Nat) (spared : List Nat) (s : State), linkExists n.toNat = true ∧
      2 ≤ (link s n.toNat).state ∧
      (Tab.look {} s.lanes.eyes (64 * n.toNat)).high = 3 ∧ 0 ∉ (link s n.toNat).failing) ∧
    (∃ (n : BitVec 16) (lane : BitVec 6) (spared : Bool) (s : State), linkExists n.toNat = true ∧
      lane.toNat < linkLanes n.toNat ∧
      (link s n.toNat).failing = [] ∧
      (link s n.toNat).state ≠ 0 ∧
      spared = true) ∧
    (∃ (n : BitVec 16) (lane : BitVec 6) (spared : Bool) (s : State), linkExists n.toNat = true ∧
      lane.toNat < linkLanes n.toNat ∧
      (link s n.toNat).failing = [] ∧
      (link s n.toNat).state ≠ 0 ∧
      spared = false ∧ n.toNat ≤ 8) ∧
    (∃ (n : BitVec 16) (lane : BitVec 6) (spared : Bool) (s : State), linkExists n.toNat = true ∧
      lane.toNat < linkLanes n.toNat ∧
      (link s n.toNat).failing = [] ∧
      (link s n.toNat).state ≠ 0 ∧
      spared = false ∧ 8 < n.toNat) ∧
    (∃ (n : BitVec 16) (lane : BitVec 6) (spared : Bool) (s : State), linkExists n.toNat = true ∧
      lane.toNat < linkLanes n.toNat ∧
      (link s n.toNat).failing = [] ∧
      (link s n.toNat).state ≠ 0 ∧
      spared = true) ∧
    (∃ (n : BitVec 16) (lane : BitVec 6) (spared : Bool) (s : State), linkExists n.toNat = true ∧
      lane.toNat < linkLanes n.toNat ∧
      (link s n.toNat).failing = [] ∧
      (link s n.toNat).state ≠ 0 ∧
      spared = false ∧ n.toNat ≤ 8) ∧
    (∃ (n : BitVec 16) (lane : BitVec 6) (spared : Bool) (s : State), linkExists n.toNat = true ∧
      lane.toNat < linkLanes n.toNat ∧
      (link s n.toNat).failing = [] ∧
      (link s n.toNat).state ≠ 0 ∧
      spared = false ∧ 8 < n.toNat) ∧
    (∃ (req : Req) (value : Bytes) (s : State), Admitted req 0x402006 value s ∧
      linkExists (leNat value) = true) ∧
    (∃ (margins : List (List Nat)) (scan : Scan) (s : State), s.lanes.scan = some scan ∧
      2 ≤ (link s scan.link).state) ∧
    (∃ (req : Req) (value : Bytes) (s : State), Admitted req 0x402008 value s ∧
      leNat value < 2 ^ 18 ∧
      cmdCode (leNat value) = 0 ∧
      linkExists (cmdLink (leNat value)) = true ∧
      (link s (cmdLink (leNat value))).loop ≠ 0 ∧
      (link s 8).loop = 3) ∧
    (∃ (req : Req) (value : Bytes) (s : State), Admitted req 0x402008 value s ∧
      leNat value < 2 ^ 18 ∧
      cmdCode (leNat value) = 0 ∧
      linkExists (cmdLink (leNat value)) = true ∧
      (link s (cmdLink (leNat value))).loop ≠ 0 ∧
      (link s 17).loop = 2) ∧
    (∃ (req : Req) (value : Bytes) (s : State), Admitted req 0x402008 value s ∧
      leNat value < 2 ^ 18 ∧
      cmdCode (leNat value) = 1 ∧
      linkExists (cmdLink (leNat value)) = true ∧
      (link s (cmdLink (leNat value))).out = true ∧
      (link s (cmdLink (leNat value))).loop = 0) ∧
    (∃ (req : Req) (value : Bytes) (light : Bool) (s : State), let n := cmdLink (leNat value); Admitted req 0x402008 value s ∧
      leNat value < 2 ^ 18 ∧
      cmdCode (leNat value) = 2 ∧
      linkExists (cmdLink (leNat value)) = true ∧
      (link s (cmdLink (leNat value))).out = true ∧
      (link s (cmdLink (leNat value))).loop = 0 ∧
      (n ≠ 8 → (s.lanes.links.any (fun l => decide (l.1 ≠ 8 ∧ l.2.loop = 2))) = false)) ∧
    (∃ (req : Req) (value : Bytes) (light : Bool) (s : State), let n := cmdLink (leNat value); Admitted req 0x402008 value s ∧
      leNat value < 2 ^ 18 ∧
      cmdCode (leNat value) = 2 ∧
      linkExists (cmdLink (leNat value)) = true ∧
      (link s (cmdLink (leNat value))).out = true ∧
      (link s (cmdLink (leNat value))).loop = 0 ∧
      (n ≠ 8 → (s.lanes.links.any (fun l => decide (l.1 ≠ 8 ∧ l.2.loop = 2))) = false)) ∧
    (∃ (req : Req) (value : Bytes) (light : Bool) (s : State), let n := cmdLink (leNat value); Admitted req 0x402008 value s ∧
      leNat value < 2 ^ 18 ∧
      cmdCode (leNat value) = 2 ∧
      linkExists (cmdLink (leNat value)) = true ∧
      (link s (cmdLink (leNat value))).out = true ∧
      (link s (cmdLink (leNat value))).loop = 0 ∧
      (n ≠ 8 → (s.lanes.links.any (fun l => decide (l.1 ≠ 8 ∧ l.2.loop = 2))) = false)) ∧
    (∃ (req : Req) (value : Bytes) (s : State), Admitted req 0x402008 value s ∧
      leNat value < 2 ^ 18 ∧
      cmdCode (leNat value) = 3 ∧
      cmdLink (leNat value) ≤ 8 ∧
      (link s (cmdLink (leNat value))).out = true ∧
      (link s (cmdLink (leNat value))).loop = 0) :=
  ⟨⟨8, [1200], [], { withLink 8 { state := 2, locked := true, up := true, infoSeen := true } awake with lanes.eyes := [(512, { high := 3 })] }, by decide +kernel⟩,
    ⟨8, 7, true, withLink 8 { state := 2, locked := true, up := true, infoSeen := true } awake, by decide +kernel⟩,
    ⟨8, 3, false, withLink 8 { state := 2, locked := true, up := true, infoSeen := true } awake, by decide +kernel⟩,
    ⟨17, 31, false, withLink 17 { state := 2, locked := true, up := true, infoSeen := true } awake, by decide +kernel⟩,
    ⟨8, 7, true, withLink 8 { state := 2, locked := true, up := true, infoSeen := true } awake, by decide +kernel⟩,
    ⟨8, 3, false, withLink 8 { state := 2, locked := true, up := true, infoSeen := true } awake, by decide +kernel⟩,
    ⟨17, 31, false, withLink 17 { state := 2, locked := true, up := true, infoSeen := true } awake, by decide +kernel⟩,
    ⟨manager 1, [8, 0], awake, (by unfold Admitted; decide +kernel), by decide +kernel⟩,
    ⟨[[1, 2, 3, 4]], { link := 8, ends := 7 }, { withLink 8 { state := 2, locked := true, up := true, infoSeen := true } awake with lanes.scan := some ({ link := 8, ends := 7 } : Scan) }, by decide +kernel⟩,
    ⟨manager 1, [8, 0, 0, 0], withLink 8 { out := true, loop := 3 } awake, (by unfold Admitted; decide +kernel), by decide +kernel, by decide +kernel, by decide +kernel, by decide +kernel, by decide +kernel⟩,
    ⟨manager 1, [17, 0, 0, 0], withLink 17 { out := true, loop := 2 } awake, (by unfold Admitted; decide +kernel), by decide +kernel, by decide +kernel, by decide +kernel, by decide +kernel, by decide +kernel⟩,
    ⟨manager 1, [17, 0, 1, 0], withLink 17 { out := true } awake, (by unfold Admitted; decide +kernel), by decide +kernel, by decide +kernel, by decide +kernel, by decide +kernel, by decide +kernel⟩,
    ⟨manager 1, [8, 0, 2, 0], false, withLink 8 { out := true } awake, (by unfold Admitted; decide +kernel), by decide +kernel, by decide +kernel, by decide +kernel, by decide +kernel, by decide +kernel, by decide +kernel⟩,
    ⟨manager 1, [17, 0, 2, 0], false, withLink 17 { out := true } awake, (by unfold Admitted; decide +kernel), by decide +kernel, by decide +kernel, by decide +kernel, by decide +kernel, by decide +kernel, by decide +kernel⟩,
    ⟨manager 1, [17, 0, 2, 0], true, withLink 17 { out := true } awake, (by unfold Admitted; decide +kernel), by decide +kernel, by decide +kernel, by decide +kernel, by decide +kernel, by decide +kernel, by decide +kernel⟩,
    ⟨manager 1, [8, 0, 3, 0], withLink 8 { out := true } awake, (by unfold Admitted; decide +kernel), by decide +kernel, by decide +kernel, by decide +kernel, by decide +kernel, by decide +kernel⟩⟩

theorem witness_SparingCommandsComplete :
    (∃ (req : Req) (value : Bytes) (s : State), let f := nbits (leNat value) 3 0; let k := nbits (leNat value) 8 4; Admitted req 0x440005 value s ∧
      leNat value < 2 ^ 10 ∧
      sourceState s f k ≠ lsRetired ∧
      ((∀ x ∈ s.las.sparings, ¬(x.flock = f ∧ x.lane = k))) ∧
      lambIn s 0 lsIdle = some 0) ∧
    (∃ (req : Req) (value : Bytes) (s : State), let f := nbits (leNat value) 3 0; let k := nbits (leNat value) 8 4; Admitted req 0x440005 value s ∧
      leNat value < 2 ^ 10 ∧
      sourceState s f k ≠ lsRetired ∧
      ((∀ x ∈ s.las.sparings, ¬(x.flock = f ∧ x.lane = k))) ∧
      ((∀ j : Fin 4, sourceState s 0 (32 + j) ∉ [lsIdle, lsRecal, lsParking]) ∧ (source s 0 3).exhausted = false)) ∧
    (∃ (f : Fin 16) (j : Fin 4) (power : BitVec 16) (x : Sparing) (s : State), OnlySparing x s ∧
      s.las.sparings.find? (fun y => decide (y.flock = f.val ∧ y.lamb = j.val ∧ y.phase = .tuning)) = some x ∧
      f.val < 12) ∧
    (∃ (f : Fin 16) (j : Fin 4) (power : BitVec 16) (x : Sparing) (s : State), OnlySparing x s ∧
      s.las.sparings.find? (fun y => decide (y.flock = f.val ∧ y.lamb = j.val ∧ y.phase = .tuning)) = some x ∧
      12 ≤ f.val ∧ x.fast = false) ∧
    (∃ (f : Fin 16) (j : Fin 4) (power : BitVec 16) (x : Sparing) (s : State), OnlySparing x s ∧
      s.las.sparings.find? (fun y => decide (y.flock = f.val ∧ y.lamb = j.val ∧ y.phase = .tuning)) = some x ∧
      12 ≤ f.val ∧ x.fast = true) ∧
    (∃ (f : Fin 16) (k : Fin 32) (counts : List CompareCount) (s : State), f.val < 12 ∧
      (∃ x ∈ s.las.sparings, x.flock = f ∧ x.lane = k ∧ x.phase = .duplicate)) ∧
    (∃ (w : Tower) (word : BitVec 64) (x : Sparing) (s : State), wordIntact word = true ∧
      bits word 59 56 = w.val ∧
      OnlySparing x s ∧
      x.flock = w.val ∧
      x.lane = bits word 55 51 ∧
      x.phase = .duplicate) ∧
    (∃ (f : Fin 16) (k : Fin 32) (x : Sparing) (s : State), f.val < 12 ∧
      OnlySparing x s ∧
      x.flock = f.val ∧
      x.lane = k.val ∧
      x.phase = .duplicate ∧
      x.source ≠ 32 + x.lamb ∧
      (∃ r ∈ x.reports, 65536 ≤ r.2.1 ∧ 16 < r.2.2)) ∧
    (∃ (f : Fin 16) (k : Fin 32) (x : Sparing) (s : State), f.val < 12 ∧
      OnlySparing x s ∧
      x.flock = f.val ∧
      x.lane = k.val ∧
      x.phase = .duplicate ∧
      x.source ≠ 32 + x.lamb ∧
      ((∃ r ∈ x.reports, 65536 ≤ r.2.1) ∧ ∀ r ∈ x.reports, 65536 ≤ r.2.1 → r.2.2 ≤ 16)) ∧
    (∃ (f : Fin 16) (k : Fin 32) (x : Sparing) (s : State), f.val < 12 ∧
      OnlySparing x s ∧
      x.flock = f.val ∧
      x.lane = k.val ∧
      x.phase = .duplicate ∧
      x.source ≠ 32 + x.lamb ∧
      ((∀ r ∈ x.reports, r.2.1 < 65536) ∧ x.tries < 16)) ∧
    (∃ (f : Fin 16) (k : Fin 32) (x : Sparing) (s : State), f.val < 12 ∧
      OnlySparing x s ∧
      x.flock = f.val ∧
      x.lane = k.val ∧
      x.phase = .duplicate ∧
      x.source ≠ 32 + x.lamb ∧
      ((∀ r ∈ x.reports, r.2.1 < 65536) ∧ 16 ≤ x.tries)) ∧
    (∃ (p : Port) (lane : BitVec 6) (j : Fin 4) (compared : Nat) (mismatches : Nat) (s : State), 16 * max compared 65536 < mismatches * 65536) ∧
    (∃ (w : Tower) (word : BitVec 64) (s : State), HearsOf w word 1) ∧
    (∃ (w : Tower) (word : BitVec 64) (s : State), wordIntact word = false) ∧
    (∃ (w : Tower) (word : BitVec 64) (s : State), HearsOf w word 2) ∧
    (∃ (w : Tower) (word : BitVec 64) (s : State), wordIntact word = false) ∧
    (∃ (w : Tower) (word : BitVec 64) (s : State), HearsOf w word 3) ∧
    (∃ (w : Tower) (word : BitVec 64) (s : State), wordIntact word = false) ∧
    (∃ (w : Tower) (word : BitVec 64) (s : State), HearsOf w word 4) ∧
    (∃ (w : Tower) (word : BitVec 64) (s : State), wordIntact word = false) ∧
    (∃ (w : Tower) (word : BitVec 64) (s : State), HearsOf w word 5) ∧
    (∃ (w : Tower) (word : BitVec 64) (s : State), wordIntact word = false) :=
  ⟨⟨manager 1, [0x30, 2], awake, (by unfold Admitted; decide +kernel), by decide +kernel, by decide +kernel, by decide +kernel, by decide +kernel⟩,
    ⟨manager 1, [0x30, 0], { awake with las.sources := (List.range 4).map (fun j => (32 + j, { state := some lsRetired })) }, (by unfold Admitted; decide +kernel), by decide +kernel, by decide +kernel, by decide +kernel, by decide +kernel⟩,
    ⟨0, 3, 1000, { flock := 0, source := 5, lamb := 3, lane := 5, fast := false }, { awake with las.sparings := [({ flock := 0, source := 5, lamb := 3, lane := 5, fast := false } : Sparing)] }, (by unfold OnlySparing; decide +kernel), by decide +kernel, by decide +kernel⟩,
    ⟨12, 0, 1000, { flock := 12, source := 5, lamb := 0, lane := 5, fast := false }, { awake with las.sparings := [({ flock := 12, source := 5, lamb := 0, lane := 5, fast := false } : Sparing)] }, (by unfold OnlySparing; decide +kernel), by decide +kernel, by decide +kernel⟩,
    ⟨15, 0, 1000, { flock := 15, source := 5, lamb := 0, lane := 5, fast := true }, { awake with las.sparings := [({ flock := 15, source := 5, lamb := 0, lane := 5, fast := true } : Sparing)] }, (by unfold OnlySparing; decide +kernel), by decide +kernel, by decide +kernel⟩,
    ⟨11, 31, [⟨0, 70000, 3⟩], { awake with las.sparings := [{ flock := 11, source := 31, lamb := 0, lane := 31, fast := false, phase := .duplicate }] }, by decide +kernel⟩,
    ⟨0, reportWord 3 0 5 70000 17, { flock := 0, source := 5, lamb := 0, lane := 5, fast := false, phase := .duplicate }, { awake with las.sparings := [({ flock := 0, source := 5, lamb := 0, lane := 5, fast := false, phase := .duplicate } : Sparing)] }, by decide +kernel, by decide +kernel, (by unfold OnlySparing; decide +kernel), by decide +kernel, by decide +kernel, by decide +kernel⟩,
    ⟨0, 5, { flock := 0, source := 5, lamb := 0, lane := 5, fast := false, phase := .duplicate, reports := [(3, 65536, 17)] }, { awake with las.sparings := [({ flock := 0, source := 5, lamb := 0, lane := 5, fast := false, phase := .duplicate, reports := [(3, 65536, 17)] } : Sparing)] }, by decide +kernel, (by unfold OnlySparing; decide +kernel), by decide +kernel, by decide +kernel, by decide +kernel, by decide +kernel, by decide +kernel⟩,
    ⟨0, 5, { flock := 0, source := 5, lamb := 0, lane := 5, fast := false, phase := .duplicate, reports := [(3, 65536, 16)] }, { awake with las.sparings := [({ flock := 0, source := 5, lamb := 0, lane := 5, fast := false, phase := .duplicate, reports := [(3, 65536, 16)] } : Sparing)] }, by decide +kernel, (by unfold OnlySparing; decide +kernel), by decide +kernel, by decide +kernel, by decide +kernel, by decide +kernel, by decide +kernel⟩,
    ⟨0, 5, { flock := 0, source := 5, lamb := 0, lane := 5, fast := false, phase := .duplicate, reports := [(3, 65535, 16)], tries := 15 }, { awake with las.sparings := [({ flock := 0, source := 5, lamb := 0, lane := 5, fast := false, phase := .duplicate, reports := [(3, 65535, 16)], tries := 15 } : Sparing)] }, by decide +kernel, (by unfold OnlySparing; decide +kernel), by decide +kernel, by decide +kernel, by decide +kernel, by decide +kernel, by decide +kernel⟩,
    ⟨0, 5, { flock := 0, source := 5, lamb := 0, lane := 5, fast := false, phase := .duplicate, reports := [(3, 65535, 16)], tries := 16 }, { awake with las.sparings := [({ flock := 0, source := 5, lamb := 0, lane := 5, fast := false, phase := .duplicate, reports := [(3, 65535, 16)], tries := 16 } : Sparing)] }, by decide +kernel, (by unfold OnlySparing; decide +kernel), by decide +kernel, by decide +kernel, by decide +kernel, by decide +kernel, by decide +kernel⟩,
    ⟨7, 31, 3, 0, 17, awake, by decide +kernel⟩,
    ⟨0, carrierWord 11 1 31 3 65535 0xFF, awake, (by unfold HearsOf; decide +kernel)⟩,
    ⟨0, carrierWord 11 1 31 3 65535 0xFF + 1, awake, by decide +kernel⟩,
    ⟨0, carrierWord 11 2 31 3 65535 0xFF, awake, (by unfold HearsOf; decide +kernel)⟩,
    ⟨0, carrierWord 11 2 31 3 65535 0xFF + 1, awake, by decide +kernel⟩,
    ⟨0, carrierWord 11 3 31 3 65535 0xFF, awake, (by unfold HearsOf; decide +kernel)⟩,
    ⟨0, carrierWord 11 3 31 3 65535 0xFF + 1, awake, by decide +kernel⟩,
    ⟨0, carrierWord 11 4 31 3 65535 0xFF, awake, (by unfold HearsOf; decide +kernel)⟩,
    ⟨0, carrierWord 11 4 31 3 65535 0xFF + 1, awake, by decide +kernel⟩,
    ⟨0, carrierWord 11 5 31 3 65535 0xFF, { awake with las.carriers := [⟨0, 11, 31, 1, 7, 0xFF, true⟩, ⟨0, 11, 30, 1, 7, 0xFF, true⟩, ⟨0, 11, 31, 1, 7, 0xFF, false⟩] }, (by unfold HearsOf; decide +kernel)⟩,
    ⟨0, carrierWord 11 5 31 3 65535 0xFF + 1, { awake with las.carriers := [⟨0, 11, 31, 1, 7, 0xFF, true⟩, ⟨0, 11, 30, 1, 7, 0xFF, true⟩, ⟨0, 11, 31, 1, 7, 0xFF, false⟩] }, by decide +kernel⟩⟩

theorem witness_CalibrationCommandsComplete :
    (∃ (r : Ring) (error : Int) (temperature : Int) (s : State), s.las.on = true ∧
      ringExists r = true ∧
      (Tab.look {} s.las.rings (ringKey r)).out = false ∧ 30000 < error.natAbs ∧ 1 ≤ (Tab.look {} s.las.rings (ringKey r)).high) ∧
    (∃ (r : Ring) (error : Int) (temperature : Int) (s : State), s.las.on = true ∧
      ringExists r = true ∧
      (Tab.look {} s.las.rings (ringKey r)).out = true ∧ error.natAbs ≤ 5000 ∧ 99 ≤ (Tab.look {} s.las.rings (ringKey r)).low) ∧
    (∃ (r : Ring) (error : Int) (temperature : Int) (s : State), s.las.on = true ∧
      ringExists r = true ∧
      (Tab.look {} s.las.rings (ringKey r)).out = false ∧ error.natAbs ≤ 30000) ∧
    (∃ (f : Fin 16) (k : Fin 32) (warm : Bool) (rref : BitVec 16) (entries : List (BitVec 64)) (s : State), (warm = true → laneDeparted s f k = true) ∧
      (warm = false → dictNat s 0x442001 ≠ 0) ∧
      s.las.on = true ∧
      (∀ p ∈ s.las.passes, p.flock ≠ f.val) ∧
      sourceState s f k ≠ lsRetired ∧
      rref.toInt.natAbs ≤ 4000) ∧
    (∃ (f : Fin 16) (k : Fin 32) (warm : Bool) (rref : BitVec 16) (entries : List (BitVec 64)) (s : State), (warm = true → laneDeparted s f k = true) ∧
      (warm = false → dictNat s 0x442001 ≠ 0) ∧
      s.las.on = true ∧
      (∀ p ∈ s.las.passes, p.flock ≠ f.val) ∧
      sourceState s f k ≠ lsRetired ∧
      4000 < rref.toInt.natAbs ∧ s.las.rrefFault = false) ∧
    (∃ (b : Fin 4) (written : Bool) (s : State), b.val ∈ s.las.dirty ∧
      written = true) ∧
    (∃ (b : Fin 4) (written : Bool) (s : State), b.val ∈ s.las.dirty ∧
      written = false) :=
  ⟨⟨.modulator 11 7 35, 30001, 300, { awake with las := { on := true, rings := [(ringKey (.modulator 11 7 35), { high := 1, temperature := some 290 })] } }, by decide +kernel⟩,
    ⟨.modulator 11 7 35, -5000, 300, { awake with las := { on := true, rings := [(ringKey (.modulator 11 7 35), { out := true, low := 99 })] } }, by decide +kernel⟩,
    ⟨.tickOutput 3, 30000, 300, { awake with las := { on := true, rings := [(ringKey (.tickOutput 3), { temperature := some 290 })] } }, by decide +kernel⟩,
    ⟨0, 5, false, 4000, [], { awake with las.on := true }, by decide +kernel⟩,
    ⟨15, 5, false, -4001, [], { awake with las.on := true }, by decide +kernel⟩,
    ⟨3, true, { awake with las.dirty := [3], las.onFactory := [3], las.records := [(6, { valid := true, sequence := 4 })] }, by decide +kernel⟩,
    ⟨3, false, { awake with las.dirty := [3] }, by decide +kernel⟩⟩

theorem witness_BundleCommandsComplete :
    (∃ (w : BundleSide) (n : Fin 36) (g : Bytes) (s : State), bundleRuns s w n = true ∧
      g.length = 540 ∧
      decide (crc32 (g.take 0x218) = BitVec.ofNat 32 (fieldAt g 0x218 4)) = true ∧ fieldAt g 8 2 % 1024 = (bundle s w n).expected ∧ fieldAt g 0 8 / 2 ^ 60 = 1 ∧ nbit (fieldAt g 0x0A 2) 15 = true) ∧
    (∃ (w : BundleSide) (n : Fin 36) (g : Bytes) (s : State), bundleRuns s w n = true ∧
      g.length = 540 ∧
      decide (crc32 (g.take 0x218) = BitVec.ofNat 32 (fieldAt g 0x218 4)) = true ∧ fieldAt g 8 2 % 1024 ≠ (bundle s w n).expected) ∧
    (∃ (w : BundleSide) (n : Fin 36) (g : Bytes) (s : State), bundleRuns s w n = true ∧
      g.length = 540 ∧
      decide (crc32 (g.take 0x218) = BitVec.ofNat 32 (fieldAt g 0x218 4)) = false) ∧
    (∃ (w : BundleSide) (n : Fin 36) (g : GroupTx) (rest : List GroupTx) (s : State), bundleRuns s w n = true ∧
      (bundle s w n).unacked = g :: rest) ∧
    (∃ (w : BundleSide) (n : Fin 36) (l : Fin 68) (s : State), bundleRuns s w n = true ∧
      l.val ∉ (bundle s w n).spare ∧ l.val ∉ (bundle s w n).serviceFailed ∧ l.val ∈ (bundle s w n).data) ∧
    (∃ (w : BundleSide) (n : Fin 36) (l : Fin 68) (s : State), bundleRuns s w n = true ∧
      l.val ∈ (bundle s w n).spare) ∧
    (∃ (w : BundleSide) (n : Fin 36) (l : Fin 68) (errored : Bool) (s : State), bundleRuns s w n = true ∧
      l.val ∈ (bundle s w n).spare ∧
      4 ≤ ((bundle s w n).prbsFails.filter (fun f => decide (f.1 = l.val ∧ Tab.look 0 (bundle s w n).prbsCount l < f.2 + 64))).length + flag errored ∧ l.val ∉ (bundle s w n).serviceFailed) ∧
    (∃ (w : BundleSide) (n : Fin 36) (l : Fin 68) (errored : Bool) (s : State), bundleRuns s w n = true ∧
      l.val ∈ (bundle s w n).spare ∧
      ((bundle s w n).prbsFails.filter (fun f => decide (f.1 = l.val ∧ Tab.look 0 (bundle s w n).prbsCount l < f.2 + 64))).length + flag errored < 4) :=
  ⟨⟨0, 35, group (2 ^ 60) 1023 0x8007, { awake with ver.bundles := [(35, { mode := 3, expected := 1023 })] }, by decide +kernel⟩,
    ⟨0, 35, group (2 ^ 60) 3 0, { awake with ver.bundles := [(35, { mode := 3, expected := 4 })] }, by decide +kernel⟩,
    ⟨0, 35, List.replicate 540 1, { awake with ver.bundles := [(35, { mode := 3, expected := 4 })] }, by decide +kernel⟩,
    ⟨0, 35, ⟨1023, group (2 ^ 60) 1023 0, 7⟩, [⟨0, group (2 ^ 60) 0 0, 8⟩], { awake with ver.bundles := [(35, { mode := 3, expected := 4, unacked := (⟨1023, group (2 ^ 60) 1023 0, 7⟩ : GroupTx) :: ([⟨0, group (2 ^ 60) 0 0, 8⟩] : List GroupTx) })] }, by decide +kernel⟩,
    ⟨0, 35, 67, { awake with ver.bundles := [(35, { mode := 3, data := [67] })] }, by decide +kernel⟩,
    ⟨0, 35, 67, { awake with ver.bundles := [(35, { mode := 3, spare := [67] })] }, by decide +kernel⟩,
    ⟨0, 35, 67, true, { awake with ver.bundles := [(35, { mode := 3, spare := [67], prbsFails := [(67, 0), (67, 1), (67, 2)], prbsCount := [(67, 63)] })] }, by decide +kernel⟩,
    ⟨0, 35, 67, true, { awake with ver.bundles := [(35, { mode := 3, spare := [67], prbsFails := [(67, 0), (67, 1), (67, 2)], prbsCount := [(67, 64)] })] }, by decide +kernel⟩⟩

theorem witness_DiscoveryCommandsComplete :
    (∃ (m : BitVec 128) (identity : BitVec 64) (r : Nat) (s : State), dmRecord m = some r ∧
      dmIntact m = true ∧ dmKind m = 1) ∧
    (∃ (m : BitVec 128) (identity : BitVec 64) (r : Nat) (s : State), dmRecord m = some r ∧
      dmIntact m = false) ∧
    (∃ (m : BitVec 128) (r : Nat) (s : State), dmRecord m = some r ∧
      dmIntact m = true ∧
      dmKind m = 2 ∧
      (discovery s r).probes ≠ 0 ∧
      (discovery s r).replied = false ∧
      (discovery s r).failed = false) ∧
    (∃ (m : BitVec 128) (r : Nat) (s : State), dmRecord m = some r ∧
      dmIntact m = true ∧
      dmKind m = 3) ∧
    (∃ (m : BitVec 128) (r : Nat) (s : State), dmRecord m = some r ∧
      dmIntact m = true ∧
      dmKind m = 4 ∧
      (discovery s r).replied = true ∧
      (discovery s r).failed = false ∧
      (discovery s r).assigned = false ∧
      4 ≤ r) ∧
    (∃ (m : BitVec 128) (r : Nat) (s : State), dmRecord m = some r ∧
      dmIntact m = true ∧
      dmKind m = 4 ∧
      (discovery s r).replied = true ∧
      (discovery s r).failed = false ∧
      (discovery s r).assigned = false) ∧
    (∃ (r : Fin 128) (s : State), (discovery s r).probes ≠ 0 ∧
      (discovery s r).replied = false ∧
      (discovery s r).failed = false ∧
      (discovery s r).probes < 3) ∧
    (∃ (r : Fin 128) (s : State), (discovery s r).probes ≠ 0 ∧
      (discovery s r).replied = false ∧
      (discovery s r).failed = false ∧
      3 ≤ (discovery s r).probes) :=
  ⟨⟨discoveryMessage 1 127 255 0, 0x1000000000000007, 127, awake, by decide +kernel⟩,
    ⟨discoveryMessage 1 127 255 0 ^^^ 1, 0x1000000000000007, 127, awake, by decide +kernel⟩,
    ⟨discoveryMessage 2 4 1 7, 4, { awake with ver.discovery := [(4, { probes := 1 })] }, by decide +kernel⟩,
    ⟨discoveryMessage 3 127 1 7, 127, awake, by decide +kernel⟩,
    ⟨discoveryMessage 4 4 1 7, 4, { awake with ver.discovery := [(4, { probes := 1, replied := true })] }, by decide +kernel⟩,
    ⟨discoveryMessage 4 0 1 7, 0, { awake with ver.discovery := [(0, { probes := 1, replied := true })] }, by decide +kernel⟩,
    ⟨127, { awake with ver.discovery := [(127, { probes := 2 })] }, by decide +kernel⟩,
    ⟨4, { awake with ver.discovery := [(4, { probes := 3 })] }, by decide +kernel⟩⟩

theorem witness_BaseResetCommandsComplete :
    (∃ (req : Req) (value : Bytes) (s : State), Admitted req 0x480004 value s ∧
      leNat value < 4 ∧
      (baseState s (leNat value)).resetAt = none ∧
      (baseState s (leNat value)).drainSince = none) ∧
    (∃ (req : Req) (value : Bytes) (s : State), Admitted req 0x480004 value s ∧
      leNat value < 4 ∧
      (baseState s (leNat value)).resetAt = none ∧
      (baseState s (leNat value)).drainSince ≠ none) ∧
    (∃ (b : Fin 4) (s : State), (baseState s b).drainSince.isSome = true ∧
      (flights s).any (through s b) = false ∧ savingOn s b = []) ∧
    (∃ (b : Fin 4) (s : State), (baseState s b).drainSince.isSome = true ∧
      (flights s).any (through s b) = true) ∧
    (∃ (b : Fin 4) (u : Nat) (s : State), (baseState s b).drainSince = some u) ∧
    (∃ (b : Fin 4) (cause : Fin 3) (s : State), baseUp s b = true ∧
      (baseState s b).held = false) ∧
    (∃ (b : Fin 4) (cause : Fin 3) (s : State), baseUp s b = true ∧
      (baseState s b).held = false) ∧
    (∃ (b : Fin 4) (u : Nat) (s : State), (baseState s b).resetAt = some u ∧
      (baseState s b).held = false ∧
      (baseState s b).logicUp = false) ∧
    (∃ (b : Fin 4) (s : State), (baseState s b).resetAt.isSome = true ∧
      (baseState s b).logicUp = true ∧
      (baseState s b).held = false ∧
      unitNamed s b 1 = true) ∧
    (∃ (b : Fin 4) (u : Nat) (s : State), (baseState s b).resetAt = some u) :=
  ⟨⟨manager 1, [3], awake, (by unfold Admitted; decide +kernel), by decide +kernel, by decide +kernel, by decide +kernel⟩,
    ⟨manager 1, [0], { awake with ver.bases := [(0, { drainSince := some 0 })] }, (by unfold Admitted; decide +kernel), by decide +kernel, by decide +kernel, by decide +kernel⟩,
    ⟨3, { awake with ver.bases := [(3, { drainSince := some 0 })] }, by decide +kernel⟩,
    ⟨0, { queued { fillDesc with wait := .host 0 } busy with ver.bases := [(0, { drainSince := some 0 })] }, by decide +kernel⟩,
    ⟨3, 7, { awake with ver.bases := [(3, { drainSince := some 7 })] }, by decide +kernel⟩,
    ⟨3, 2, { awake with now := 5, ver.bases := [(3, { recent := [4] })] }, by decide +kernel⟩,
    ⟨0, 0, { awake with now := 5, ver.bases := [(0, { recent := [3, 4] })] }, by decide +kernel⟩,
    ⟨3, 7, { awake with ver.bases := [(3, { resetAt := some 7 })] }, by decide +kernel⟩,
    ⟨3, { awake with ver.bases := [(3, { resetAt := some 7, logicUp := true })], ver.named := [3] }, by decide +kernel⟩,
    ⟨0, 7, { queued { raw := descriptor 1 0 0 64 64 1 0 0, partition := 0, run := 9, state := .active, wait := .base 0, reading := true } busy with ver.bases := [(0, { resetAt := some 7 })] }, by decide +kernel⟩⟩

theorem witness_FabricSetupCommandsComplete :
    (∃ (req : Req) (value : Bytes) (s : State), Admitted req 0x500001 value s ∧
      value ≠ [] ∧
      nbits (leNat value) 14 12 = 0 ∧
      (∀ q : Tower, bindingValid (bindingWord s q) = false)) ∧
    (∃ (req : Req) (value : Bytes) (s : State), Admitted req 0x500002 value s ∧
      value ≠ [] ∧
      (∀ b ∈ value, routeByteOk b = true)) ∧
    (∃ (req : Req) (value : Bytes) (s : State), Admitted req 0x500002 value s ∧
      value ≠ [] ∧
      (∀ b ∈ value, routeByteOk b = true) ∧
      (routeNow s 0) = none) ∧
    (∃ (d : BitVec 12) (s : State), Tab.look 0 s.fab.settling d.toNat ≠ 0) ∧
    (∃ (req : Req) (p : Partition) (value : Bytes) (s : State), Admitted req (0x504001 + p.val) value s ∧
      nbits (leNat value) 63 20 = 0 ∧
      runsOf s p = [] ∧
      ((bindingValid (leNat value) = true → ∀ q : Tower, q.val ≠ p.val → ¬(bindingValid (bindingWord s q) = true ∧ bindingJob (bindingWord s q) = bindingJob (leNat value)))) ∧
      bindingValid (leNat value) = true) ∧
    (∃ (req : Req) (p : Partition) (value : Bytes) (s : State), Admitted req (0x504001 + p.val) value s ∧
      nbits (leNat value) 63 20 = 0 ∧
      runsOf s p = [] ∧
      ((bindingValid (leNat value) = true → ∀ q : Tower, q.val ≠ p.val → ¬(bindingValid (bindingWord s q) = true ∧ bindingJob (bindingWord s q) = bindingJob (leNat value)))) ∧
      bindingValid (bindingWord s p) = true ∧ bindingValid (leNat value) = false) ∧
    (∃ (req : Req) (value : Bytes) (p : Nat) (s : State), Admitted req 0x504010 value s ∧
      jobPartition s (BitVec.ofNat 16 (leNat value)) = some p) :=
  ⟨⟨manager 1, [5, 0x80], awake, (by unfold Admitted; decide +kernel), by decide +kernel, by decide +kernel, by decide +kernel⟩,
    ⟨manager 1, List.replicate 4096 0xFF, rack, (by unfold Admitted; decide +kernel), by decide +kernel, (by intro b hb; rw [List.mem_replicate] at hb; obtain ⟨-, rfl⟩ := hb; decide)⟩,
    ⟨manager 1, 0xF0 :: List.replicate 4095 0xFF, rack, (by unfold Admitted; decide +kernel), by decide +kernel, (by intro b hb; rw [List.mem_cons, List.mem_replicate] at hb; obtain rfl | ⟨-, rfl⟩ := hb <;> decide), by decide +kernel⟩,
    ⟨7, { rack with fab.settling := [(7, 3)], fab.held := [{ port := 0, dest := 7, until_ := some 3, packet := { header := rackHeader 1 0 1 0 } }] }, by decide +kernel⟩,
    ⟨manager 1, 1, [7, 0, 1, 0, 0, 0, 0, 0], rack, (by unfold Admitted; decide +kernel), by decide +kernel, by decide +kernel, by decide +kernel, by decide +kernel⟩,
    ⟨manager 1, 0, [9, 0, 0, 0, 0, 0, 0, 0], rack, (by unfold Admitted; decide +kernel), by decide +kernel, by decide +kernel, by decide +kernel, by decide +kernel⟩,
    ⟨manager 1, [9, 0], 0, { rack with fab.limiters := [(0, [⟨7, 1, 0, none, 0, false, 0⟩])] }, (by unfold Admitted; decide +kernel), by decide +kernel⟩⟩

theorem witness_FabricRequestCommandsComplete :
    (∃ (port : Port) (header : BitVec 256) (data : Bytes) (s : State), ComesIn port 1 header data s ∧
      twinServes s = true ∧
      jobPartition s (readHeader header).job = some 0) ∧
    (∃ (port : Port) (header : BitVec 256) (data : Bytes) (s : State), ComesIn port 1 header data s ∧
      twinServes s = true ∧
      jobPartition s (readHeader header).job = none) ∧
    (∃ (port : Port) (header : BitVec 256) (data : Bytes) (s : State), ComesIn port 1 header data s ∧
      twinServes s = true ∧
      (∀ e ∈ s.fab.entries, EntryFits port (readHeader header) e ∧ e.members.length < 254)) ∧
    (∃ (port : Port) (header : BitVec 256) (data : Bytes) (s : State), RequestServed port 2 header data s) ∧
    (∃ (port : Port) (header : BitVec 256) (data : Bytes) (s : State), RequestServed port 3 header data s ∧
      (combineClass (readHeader header)).2 = false ∧ (readHeader header).age * us ≤ min (240 * us) (s.now - clearedAt s (replyQuarter (readHeader header).source (readHeader header).sequence))) ∧
    (∃ (port : Port) (header : BitVec 256) (data : Bytes) (s : State), RequestServed port 3 header data s ∧
      (∃ r ∈ s.fab.replies, r.source = 7 ∧ r.sequence = 0)) ∧
    (∃ (port : Port) (header : BitVec 256) (data : Bytes) (s : State), RequestServed port 3 header data s ∧
      s.fab.replies = [] ∧ min (240 * us) (s.now - clearedAt s 0) < (readHeader header).age * us) ∧
    (∃ (port : Port) (e : CombineEntry) (s : State), e ∈ s.fab.entries ∧
      e.port = port.val ∧
      (∀ x ∈ s.fab.entries, x.port = port.val → e.ends ≤ x.ends)) ∧
    (∃ (e : CombineEntry) (rest : List CombineEntry) (s : State), s.fab.ready = e :: rest ∧
      jobPartition s e.job = some 0) ∧
    (∃ (e : CombineEntry) (rest : List CombineEntry) (s : State), s.fab.ready = e :: rest ∧
      jobPartition s e.job = none) ∧
    (∃ (source : BitVec 12) (seq : BitVec 16) (r : ReplyEntry) (s : State), s.fab.replies.find? (fun x => decide (x.source = source.toNat ∧ x.sequence = seq)) = some r) :=
  ⟨⟨0, rackHeader 1 0 9 0, [], rack, (by unfold ComesIn; decide +kernel), by decide +kernel, by decide +kernel⟩,
    ⟨0, rackHeader 1 0 9 0, [], { rack with dict := rack.dict.filter (fun e => decide (e.1 ≠ 0x504001)) }, (by unfold ComesIn; decide +kernel), by decide +kernel, by decide +kernel⟩,
    ⟨0, rackHeader 1 0 10 0, [], { rack with fab.entries := [{ port := 0, class_ := .read, job := 9, secure := false, address := 64, opened := 0, ends := 400, members := [{ header := rackHeader 1 0 9 0 }] }] }, (by unfold ComesIn; decide +kernel), by decide +kernel, (by unfold EntryFits; decide +kernel)⟩,
    ⟨0, rackHeader 2 0 9 0, aLine 3, rack, (by unfold RequestServed ComesIn; decide +kernel)⟩,
    ⟨0, rackHeader 3 0 9 6, leBytes 8 3, { rack with now := 1000 }, (by unfold RequestServed ComesIn; decide +kernel), by decide +kernel⟩,
    ⟨0, rackHeader 3 0 9 6, leBytes 8 3, { rack with fab.replies := [⟨7, 0, 0, 5, 0⟩] }, (by unfold RequestServed ComesIn; decide +kernel), by decide +kernel⟩,
    ⟨0, rackHeader 3 0 9 6 ||| BitVec.ofNat 256 (2 ^ 176), leBytes 8 3, rack, (by unfold RequestServed ComesIn; decide +kernel), by decide +kernel⟩,
    ⟨0, { port := 0, class_ := .read, job := 9, secure := false, address := 64, opened := 0, ends := 400, members := [{ header := rackHeader 1 0 9 0 }] }, { rack with fab.entries := [({ port := 0, class_ := .read, job := 9, secure := false, address := 64, opened := 0, ends := 400, members := [{ header := rackHeader 1 0 9 0 }] } : CombineEntry), { ({ port := 0, class_ := .read, job := 9, secure := false, address := 64, opened := 0, ends := 400, members := [{ header := rackHeader 1 0 9 0 }] } : CombineEntry) with ends := 500, address := 128 }] }, by decide +kernel⟩,
    ⟨{ port := 0, class_ := .read, job := 9, secure := false, address := 64, opened := 0, ends := 400, members := [{ header := rackHeader 1 0 9 0 }] }, [], { rack with fab.ready := [({ port := 0, class_ := .read, job := 9, secure := false, address := 64, opened := 0, ends := 400, members := [{ header := rackHeader 1 0 9 0 }] } : CombineEntry)], dma := busy.dma, dict := Tab.put [] 0x388001 [0, 0, 0, 0, 0, 0, 0, 0] rack.dict }, by decide +kernel⟩,
    ⟨{ port := 0, class_ := .read, job := 9, secure := false, address := 64, opened := 0, ends := 400, members := [{ header := rackHeader 1 0 9 0 }] }, [], { rack with fab.ready := [({ port := 0, class_ := .read, job := 9, secure := false, address := 64, opened := 0, ends := 400, members := [{ header := rackHeader 1 0 9 0 }] } : CombineEntry)], dict := [] }, by decide +kernel⟩,
    ⟨7, 0, ⟨7, 0, 0, 5, 0⟩, { rack with fab.replies := [(⟨7, 0, 0, 5, 0⟩ : ReplyEntry)] }, by decide +kernel⟩⟩

theorem witness_FabricAnswerCommandsComplete :
    (∃ (w : Tower) (port : Port) (header : BitVec 256) (data : Bytes) (d : Desc) (s : State), FabricAwaited w port 4 header data d s ∧
      (readHeader header).code = ccOk ∧
      dOp d.raw = 1 ∧
      descRefused d.raw = false ∧
      dDstSpad d.raw = true ∧
      dRows d.raw = 1 ∧
      d.cursorRows = 0 ∧
      d.cursorBytes = 0 ∧
      d.chunk = none ∧
      d.len = dRowBytes d.raw ∧
      dDest d.raw % 64 + d.len ≤ 64 ∧
      dSource d.raw % 4096 + d.len ≤ 4096 ∧
      d.place % 64 + d.len ≤ 64 ∧
      mayIssue s d = true ∧
      OwnLine w d.partition (spadBase + w.val * 2 ^ 28 + dDest d.raw) true s) ∧
    (∃ (w : Tower) (port : Port) (header : BitVec 256) (data : Bytes) (d : Desc) (s : State), FabricAwaited w port 5 header data d s ∧
      dOp d.raw ≠ 6 ∧
      (readHeader header).code = ccOk ∧ d.cursorBytes + d.len = dRowBytes d.raw ∧ d.cursorRows + 1 = dRows d.raw ∧ d.code = ccOk) ∧
    (∃ (w : Tower) (port : Port) (header : BitVec 256) (data : Bytes) (d : Desc) (s : State), FabricAwaited w port 5 header data d s ∧
      dOp d.raw ≠ 6 ∧
      (readHeader header).code = ccTargetDead) ∧
    (∃ (w : Tower) (port : Port) (header : BitVec 256) (data : Bytes) (d : Desc) (s : State), FabricAwaited w port 5 header data d s ∧
      dOp d.raw ≠ 6 ∧
      (readHeader header).code = ccRetry) ∧
    (∃ (w : Tower) (port : Port) (header : BitVec 256) (data : Bytes) (d : Desc) (s : State), FabricAwaited w port 6 header data d s ∧
      (readHeader header).code = ccOk ∧
      dOp d.raw = 6 ∧
      dRows d.raw = 1 ∧
      dRowBytes d.raw = 8 ∧
      d.cursorRows = 0 ∧
      d.cursorBytes = 0) ∧
    (∃ (w : Tower) (e : EngineNo) (tag : BitVec 16) (o : FabricReq) (s : State), s.fab.outstanding.find? (requestIs w e tag) = some o ∧
      o.phase = .sent ∧
      3 ≤ o.expiries ∧ engineQueue s (16 * w.val + e.val) = [rackDesc 1 64]) ∧
    (∃ (w : Tower) (e : EngineNo) (tag : BitVec 16) (o : FabricReq) (s : State), s.fab.outstanding.find? (requestIs w e tag) = some o ∧
      o.phase = .sent ∧
      o.expiries < 3 ∧ (readHeader o.packet.header).kind = fkWrite) ∧
    (∃ (w : Tower) (e : EngineNo) (tag : BitVec 16) (o : FabricReq) (s : State), s.fab.outstanding.find? (requestIs w e tag) = some o ∧
      o.phase = .sent ∧
      o.expiries < 3 ∧ (readHeader o.packet.header).kind ≠ fkWrite ∧ CanLeave (markReissued o.packet) s) ∧
    (∃ (w : Tower) (e : EngineNo) (tag : BitVec 16) (o : FabricReq) (at_ : Nat) (delay : Nat) (s : State), s.fab.outstanding.find? (requestIs w e tag) = some o ∧
      o.phase = .backoff at_ delay ∧
      CanLeave o.packet s) ∧
    (∃ (target : BitVec 12) (s : State), (∃ q ∈ s.dma.queues, ∃ d ∈ q.2, d.wait = .sequence target.toNat)) ∧
    (∃ (w : Tower) (e : EngineNo) (tag : BitVec 16) (o : FabricReq) (s : State), s.fab.outstanding.find? (requestIs w e tag) = some o ∧
      o.phase = .faulted) ∧
    (∃ (w : Tower) (target : BitVec 12) (l : Limiter) (s : State), (Tab.look [] s.fab.limiters w).find? (fun x => decide (x.target = target.toNat)) = some l) ∧
    (∃ (w : Tower) (e : Option EngineNo) (tag : BitVec 16) (s : State), let key := 65536 * (match e with | some e => 16 * w.val + e.val | none => 192 + w.val) + tag.toNat; Tab.look 0 s.dma.skipped key ≠ 0) ∧
    (∃ (w : Tower) (e : Option EngineNo) (tag : BitVec 16) (s : State), let key := 65536 * (match e with | some e => 16 * w.val + e.val | none => 192 + w.val) + tag.toNat; Tab.look 0 s.dma.skipped key ≠ 0) :=
  ⟨⟨0, 0, rackHeader 4 0 9 0, aLine 3, rackDesc 1 64, rackBusy 1 64 1, (by unfold FabricAwaited ComesIn; decide +kernel), by decide +kernel, by decide +kernel, by decide +kernel, by decide +kernel, by decide +kernel, by decide +kernel, by decide +kernel, by decide +kernel, by decide +kernel, by decide +kernel, by decide +kernel, by decide +kernel, by decide +kernel, (by unfold OwnLine; decide +kernel)⟩,
    ⟨0, 0, rackHeader 5 0 9 0, [], rackDesc 2 64, rackBusy 2 64 2, (by unfold FabricAwaited ComesIn; decide +kernel), by decide +kernel, by decide +kernel⟩,
    ⟨0, 0, rackHeader 5 ccTargetDead 9 0, [], rackDesc 2 64, rackBusy 2 64 2, (by unfold FabricAwaited ComesIn; decide +kernel), by decide +kernel, by decide +kernel⟩,
    ⟨0, 0, rackHeader 5 ccRetry 9 0, [], rackDesc 2 64, rackBusy 2 64 2, (by unfold FabricAwaited ComesIn; decide +kernel), by decide +kernel, by decide +kernel⟩,
    ⟨0, 0, rackHeader 6 0 9 0, leBytes 8 7, rackDesc 6 8, rackBusy 6 8 3, (by unfold FabricAwaited ComesIn; decide +kernel), by decide +kernel, by decide +kernel, by decide +kernel, by decide +kernel, by decide +kernel, by decide +kernel⟩,
    ⟨0, 3, 9, { asked 1 with expiries := 3 }, { rackBusy 1 64 1 with fab.outstanding := [({ asked 1 with expiries := 3 } : FabricReq)] }, by decide +kernel⟩,
    ⟨0, 3, 9, asked 2, { rackBusy 2 64 2 with fab.outstanding := [(asked 2 : FabricReq)] }, by decide +kernel⟩,
    ⟨0, 3, 9, { asked 1 with expiries := 2 }, { rackBusy 1 64 1 with fab.outstanding := [({ asked 1 with expiries := 2 } : FabricReq)] }, by decide +kernel, by decide +kernel, (by unfold CanLeave; decide +kernel)⟩,
    ⟨0, 3, 9, { asked 1 with phase := .backoff 1000 1000 }, 1000, 1000, { rackBusy 1 64 1 with fab.outstanding := [({ asked 1 with phase := .backoff 1000 1000 } : FabricReq)] }, by decide +kernel, by decide +kernel, (by unfold CanLeave; decide +kernel)⟩,
    ⟨7, { queued { rackDesc 6 8 with wait := .sequence 7 } rack with parts := busy.parts, fab.firstSends := [(65536 * 7, 1)] }, by decide +kernel⟩,
    ⟨0, 3, 9, { asked 3 with phase := .faulted }, { rackBusy 6 8 3 with fab.outstanding := [({ asked 3 with phase := .faulted } : FabricReq)] }, by decide +kernel⟩,
    ⟨0, 7, ⟨7, 1, 0, none, 0, false, 0⟩, { rack with fab.limiters := [(0, [(⟨7, 1, 0, none, 0, false, 0⟩ : Limiter)])] }, by decide +kernel⟩,
    ⟨11, none, 0xFFFF, { rack with dma.skipped := [(65536 * 203 + 0xFFFF, 5)] }, by decide +kernel⟩,
    ⟨0, some 3, 0, { rack with dma.skipped := [(65536 * 3, 5)] }, by decide +kernel⟩⟩

theorem witness_FabricPortCommandsComplete :
    (∃ (port : Port) (header : BitVec 256) (s : State), portUp s port = true ∧
      (readHeader header).kind = fkCredit) ∧
    (∃ (port : Port) (s : State), portUp s port = true ∧
      Tab.look 0 s.fab.owed port ≠ 0) ∧
    (∃ (port : Port) (header : BitVec 256) (data : Bytes) (s : State), portUp s port = true ∧
      (readHeader header).kind = fkManagement ∧
      fieldAt data 0 1 = 1 ∧
      packetWellFormed { header := header, data := data } = true) ∧
    (∃ (port : Port) (s : State), portUp s port = true ∧
      Tab.look 0 s.fab.helloSent port = 0) ∧
    (∃ (port : Port) (s : State), portUp s port = true ∧
      Tab.look 0 s.fab.helloSent port ≠ 0) ∧
    (∃ (port : Port) (last : Nat) (s : State), (Tab.look {} s.fab.neighbours port).last = some last ∧
      (Tab.look {} s.fab.neighbours port).alive = true) ∧
    (∃ (port : Port) (count : BitVec 64) (s : State), portUp s port = true ∧
      portEncrypted s port = true ∧
      count.toNat = (crypt s 1).count) ∧
    (∃ (port : Port) (count : BitVec 64) (s : State), portUp s port = true ∧
      portEncrypted s port = true ∧
      count.toNat ≠ (crypt s 1).count) ∧
    (∃ (port : Port) (s : State), portUp s port = true ∧
      portEncrypted s port = true ∧
      portKeyed s port = true ∧
      2 ^ 36 ≤ (crypt s (2 * port.val)).count) :=
  ⟨⟨0, rackHeader 8 0 0 0 ||| BitVec.ofNat 256 (2 ^ 192 * 3), { rack with fab.used := [(0, 5)] }, by decide +kernel⟩,
    ⟨0, { rack with fab.owed := [(0, 1)], fab.freed := [(0, 300), (3, 2)] }, by decide +kernel⟩,
    ⟨0, rackHeader 7 0 0 0, [1, 6, 7, 0x80], rack, by decide +kernel⟩,
    ⟨0, rack, by decide +kernel⟩,
    ⟨0, { rack with fab.helloSent := [(0, 5)] }, by decide +kernel⟩,
    ⟨7, 5, { rack with fab.neighbours := [(7, { last := some 5, alive := true })] }, by decide +kernel⟩,
    ⟨0, 0, { rack with dict := Tab.put [] 0x500008 [1] rack.dict, fab.crypt := [(1, { generation := 1 })] }, by decide +kernel⟩,
    ⟨0, 1, { rack with dict := Tab.put [] 0x500008 [1] rack.dict, fab.crypt := [(1, { generation := 1 })] }, by decide +kernel⟩,
    ⟨0, { rack with dict := Tab.put [] 0x500008 [1] rack.dict, fab.crypt := [(0, { generation := 1, count := 2 ^ 36 })] }, by decide +kernel⟩⟩

theorem witness_LeaseCommandsComplete :
    (∃ (req : Req) (value : Bytes) (s : State), Admitted req 0x580001 value s ∧
      value ≠ []) ∧
    (∃ (req : Req) (value : Bytes) (s : State), Admitted req 0x580001 value s ∧
      value ≠ []) ∧
    (∃ (req : Req) (value : Bytes) (s : State), Admitted req 0x580001 value s ∧
      value ≠ []) ∧
    (∃ (s : State), (s.twin.state = 1 ∨ s.twin.state = 2)) ∧
    (∃ (s : State), (s.twin.state = 1 ∨ s.twin.state = 2)) ∧
    (∃ (k : Bytes) (oneWay : Nat) (f : TwinFacts) (s : State), TwinHears tkLease k s ∧
      tpState k = 2 ∧ Steady k oneWay s) ∧
    (∃ (k : Bytes) (oneWay : Nat) (f : TwinFacts) (s : State), TwinHears tkLease k s) ∧
    (∃ (k : Bytes) (oneWay : Nat) (f : TwinFacts) (s : State), TwinHears tkLease k s ∧
      Steady k oneWay s) ∧
    (∃ (k : Bytes) (oneWay : Nat) (f : TwinFacts) (s : State), TwinHears tkLease k s ∧
      Steady k oneWay s ∧ factsAgree s f = true ∧ homePrimary s f = some false) ∧
    (∃ (k : Bytes) (oneWay : Nat) (f : TwinFacts) (s : State), TwinHears tkLease k s ∧
      Steady k oneWay s ∧ factsAgree s f = true ∧ homePrimary s f = some true) ∧
    (∃ (k : Bytes) (oneWay : Nat) (f : TwinFacts) (s : State), stampLegal s (tpStamp k) = false) ∧
    (∃ (u : Nat) (s : State), s.twin.ackWire = some u) ∧
    (∃ (u : Nat) (s : State), s.twin.ackTw = some u) ∧
    (∃ (k : Bytes) (oneWay : Nat) (f : TwinFacts) (s : State), TwinHears tkLeaseAck k s ∧
      s.twin.state = 2 ∧
      s.twin.paired = true ∧
      tpState k = 4 ∧
      Steady k oneWay s) ∧
    (∃ (width : Nat) (s : State), s.twin.state ≠ 0) ∧
    (∃ (width : Nat) (s : State), s.twin.state ≠ 0) ∧
    (∃ (width : Nat) (s : State), s.twin.state ≠ 0) ∧
    (∃ (width : Nat) (s : State), s.twin.state ≠ 0) ∧
    (∃ (width : Nat) (s : State), s.twin.state ≠ 0) ∧
    (∃ (width : Nat) (s : State), s.twin.state ≠ 0) ∧
    (∃ (width : Nat) (s : State), s.twin.state ≠ 0) ∧
    (∃ (width : Nat) (s : State), s.twin.state ≠ 0) ∧
    (∃ (width : Nat) (s : State), s.twin.state ≠ 0) ∧
    (∃ (width : Nat) (s : State), s.twin.state ≠ 0) ∧
    (∃ (wire : Bool) (s : State), (s.twin.state = 3 ∨ s.twin.state = 4) ∧
      s.twin.takeover = none ∧
      (if wire then s.twin.expiredWire else s.twin.expiredTw) = false) ∧
    (∃ (wire : Bool) (s : State), (s.twin.state = 3 ∨ s.twin.state = 4) ∧
      s.twin.takeover = none ∧
      (if wire then s.twin.expiredWire else s.twin.expiredTw) = false) ∧
    (∃ (wire : Bool) (s : State), (s.twin.state = 3 ∨ s.twin.state = 4) ∧
      s.twin.takeover = none ∧
      (if wire then s.twin.expiredWire else s.twin.expiredTw) = false) ∧
    (∃ (wire : Bool) (s : State), (s.twin.state = 3 ∨ s.twin.state = 4) ∧
      s.twin.takeover = none ∧
      (if wire then s.twin.expiredWire else s.twin.expiredTw) = false) ∧
    (∃ (s : State), s.twin.state = 1) :=
  ⟨⟨manager 1, [0], pair { state := 3, epoch := 1, paired := true }, (by unfold Admitted; decide +kernel), by decide +kernel⟩,
    ⟨manager 1, [1], pair {}, (by unfold Admitted; decide +kernel), by decide +kernel⟩,
    ⟨manager 1, [1], pair { state := 2, epoch := 1, paired := true }, (by unfold Admitted; decide +kernel), by decide +kernel⟩,
    ⟨pair { state := 2, epoch := 1, paired := true, renewDue := 1000 }, by decide +kernel⟩,
    ⟨pair { state := 1, epoch := 1, renewDue := 1000 }, by decide +kernel⟩,
    ⟨token 1 2 [], 0, partnerFacts [], pair { state := 4, epoch := 1, paired := true, takeover := some {} }, (by unfold TwinHears; decide +kernel), (by unfold Steady; decide +kernel)⟩,
    ⟨token 1 2 [], 0, partnerFacts [], pair { state := 1, epoch := 1 }, (by unfold TwinHears; decide +kernel)⟩,
    ⟨token 1 2 [], 0, partnerFacts [], pair { state := 1, epoch := 1, stable := 14 }, (by unfold TwinHears; decide +kernel), (by unfold Steady; decide +kernel)⟩,
    ⟨token 1 2 [], 0, partnerFacts (capabilityBytes awake), { pair { state := 1, epoch := 1, stable := 15 } with dict := [(0x580002, [2])] }, (by unfold TwinHears; decide +kernel), (by unfold Steady; decide +kernel)⟩,
    ⟨token 1 1 [], 0, { partnerFacts (capabilityBytes awake) with homeRole := 2 }, { pair { state := 1, epoch := 1, stable := 15 } with dict := [(0x580002, [1])] }, (by unfold TwinHears; decide +kernel), (by unfold Steady; decide +kernel)⟩,
    ⟨[1, 2, 1, 0, 0, 0, 0, 0, 0xFF, 0, 0, 0, 0, 0, 0, 0], 0, partnerFacts [], pair { state := 3, epoch := 1, paired := true }, by decide +kernel⟩,
    ⟨1000, pair { state := 3, epoch := 1, paired := true, ackWire := some 1000 }, by decide +kernel⟩,
    ⟨1000, pair { state := 4, epoch := 1, paired := true, ackTw := some 1000, last := some 7, handover := some { frame := 8 } }, by decide +kernel⟩,
    ⟨token 2 4 (leBytes 8 7), 0, partnerFacts [], pair { state := 2, epoch := 1, paired := true, yielded := some 5, handover := some { frame := 8 } }, (by unfold TwinHears; decide +kernel), by decide +kernel, by decide +kernel, by decide +kernel, (by unfold Steady; decide +kernel)⟩,
    ⟨2000, pair { state := 2, epoch := 1, paired := true }, by decide +kernel⟩,
    ⟨2000, pair { state := 3, epoch := 1, paired := true }, by decide +kernel⟩,
    ⟨999, pair { state := 3, epoch := 1, paired := true }, by decide +kernel⟩,
    ⟨1000, pair { state := 4, epoch := 1, paired := true }, by decide +kernel⟩,
    ⟨3000, pair { state := 3, epoch := 1, paired := true }, by decide +kernel⟩,
    ⟨3001, pair { state := 3, epoch := 1, paired := true }, by decide +kernel⟩,
    ⟨5000, pair { state := 2, epoch := 1, paired := true, ackSince := some 3 }, by decide +kernel⟩,
    ⟨8000, pair { state := 2, epoch := 1, paired := true, ackSince := some 3 }, by decide +kernel⟩,
    ⟨4999, pair { state := 2, epoch := 1, paired := true, ackSince := some 3 }, by decide +kernel⟩,
    ⟨8001, pair { state := 2, epoch := 1, paired := true, ackSince := some 3 }, by decide +kernel⟩,
    ⟨true, pair { state := 4, epoch := 1, paired := true }, by decide +kernel⟩,
    ⟨false, pair { state := 4, epoch := 1, paired := true }, by decide +kernel⟩,
    ⟨false, pair { state := 3, epoch := 1, paired := true, expiredWire := true }, by decide +kernel⟩,
    ⟨true, pair { state := 4, epoch := 1, paired := true, expiredTw := true, unfit := true }, by decide +kernel⟩,
    ⟨pair { state := 1, enteredAt := 5 }, by decide +kernel⟩⟩

theorem witness_FencingCommandsComplete :
    (∃ (width : Nat) (s : State), s.twin.state ≠ 0) ∧
    (∃ (width : Nat) (s : State), s.twin.state ≠ 0) ∧
    (∃ (width : Nat) (s : State), s.twin.state ≠ 0) ∧
    (∃ (width : Nat) (s : State), s.twin.state ≠ 0) ∧
    (∃ (width : Nat) (s : State), s.twin.state ≠ 0) ∧
    (∃ (width : Nat) (s : State), s.twin.state ≠ 0) ∧
    (∃ (k : Bytes) (s : State), s.twin.state = 2 ∧
      twUp s = true ∧
      tpIs tkClaim k = true ∧
      stampLegal s (tpStamp k) = true ∧
      tpState k ≠ 0 ∧
      tpState k ≠ 2 ∧
      newerEpoch (tpEpoch k) s.twin.epoch = true) ∧
    (∃ (k : Bytes) (s : State), s.twin.state = 2 ∧
      twUp s = true ∧
      tpIs tkClaim k = true ∧
      stampLegal s (tpStamp k) = true ∧
      tpState k ≠ 0 ∧
      tpState k ≠ 2 ∧
      newerEpoch (tpEpoch k) s.twin.epoch = true) ∧
    (∃ (s : State), s.twin.state = 2) ∧
    (∃ (s : State), s.twin.state ≠ 0 ∧
      s.twin.stuck = false) ∧
    (∃ (k : Bytes) (s : State), TwinHears tkHealth k s ∧
      s.twin.state = 2 ∧
      nbit (fieldAt (tpPayload k) 0x14 4) 7 = true) ∧
    (∃ (k : Bytes) (s : State), TwinHears tkHealth k s ∧
      s.twin.state = 2 ∧
      nbit (fieldAt (tpPayload k) 0x14 4) 7 = false) ∧
    (∃ (s : State), s.twin.state = 2 ∧
      s.twin.paired = true ∧
      s.twin.healthSilent = false) ∧
    (∃ (failures : BitVec 7) (unfit : Bool) (s : State), mirrors s = true) :=
  ⟨⟨15999, pair { state := 2, epoch := 1, paired := true }, by decide +kernel⟩,
    ⟨16000, pair { state := 2, epoch := 1, paired := true }, by decide +kernel⟩,
    ⟨24000, pair { state := 2, epoch := 1, paired := true }, by decide +kernel⟩,
    ⟨24001, pair { state := 2, epoch := 1, paired := true }, by decide +kernel⟩,
    ⟨20000, pair { state := 3, epoch := 1, paired := true, stuck := true }, by decide +kernel⟩,
    ⟨20000, pair { state := 2, epoch := 1, paired := true, yielded := some 5, handover := some { frame := 8 } }, by decide +kernel⟩,
    ⟨token 8 5 [], pair { state := 2, epoch := 0, paired := true }, by decide +kernel⟩,
    ⟨token 8 5 [], pair { state := 2, epoch := 0, paired := true, yielded := some 5, handover := some { frame := 8 } }, by decide +kernel⟩,
    ⟨pair { state := 2, epoch := 1, paired := true }, by decide +kernel⟩,
    ⟨pair { state := 3, epoch := 1, paired := true }, by decide +kernel⟩,
    ⟨token 3 4 (fields 64 [(0x14, 4, 128)]), pair { state := 2, epoch := 1, paired := true }, (by unfold TwinHears; decide +kernel), by decide +kernel, by decide +kernel⟩,
    ⟨token 3 4 (zeros 64), pair { state := 2, epoch := 1, paired := true }, (by unfold TwinHears; decide +kernel), by decide +kernel, by decide +kernel⟩,
    ⟨pair { state := 2, epoch := 1, paired := true }, by decide +kernel⟩,
    ⟨3, true, pair { state := 4, epoch := 1, paired := true }, by decide +kernel⟩⟩

theorem witness_MirrorCommandsComplete :
    (∃ (k : Bytes) (s : State), TwinHears tkQueue k s ∧
      mirrors s = true) ∧
    (∃ (k : Bytes) (s : State), TwinHears tkImage k s ∧
      mirrors s = true) ∧
    (∃ (k : Bytes) (s : State), TwinHears tkBlock k s ∧
      mirrors s = true ∧
      translateNow 0 0 0 .write ({ s with twin := { s.twin with partner := tpState k, lastTw := s.now, blocks := Tab.change 0 (tpFrame k) (fun x => x + 1) s.twin.blocks } }) = (.ok 0 0 false, { s with twin := { s.twin with partner := tpState k, lastTw := s.now, blocks := Tab.change 0 (tpFrame k) (fun x => x + 1) s.twin.blocks } })) ∧
    (∃ (k : Bytes) (s : State), TwinHears tkBlock k s ∧
      mirrors s = true ∧
      (translateNow 0 0 0 .write ({ s with twin := { s.twin with partner := tpState k, lastTw := s.now, blocks := Tab.change 0 (tpFrame k) (fun x => x + 1) s.twin.blocks } })).1 = .denied) ∧
    (∃ (k : Bytes) (codes : List CodeReport) (s : State), TwinHears tkCommit k s ∧
      mirrors s = true) ∧
    (∃ (k : Bytes) (codes : List CodeReport) (s : State), TwinHears tkCommit k s ∧
      mirrors s = true) ∧
    (∃ (req : Req) (value : Bytes) (s : State), Admitted req 0x580004 value s ∧
      value ≠ [] ∧
      (∀ i, i < 64 → regionFault (slice value (16 * i) 16) = none) ∧
      (((List.range 64).filter (fun i => desigValid (slice value (16 * i) 16))).map (fun i => desigBytes (slice value (16 * i) 16))).sum ≤ 96 * 2 ^ 30 ∧
      (∀ p, runsOf s p = [] ∧ tdiHeld s p = false) ∧
      slice value (16 * 0) 16 ≠ desigRecord s 0 ∧ desigValid (slice value (16 * 0) 16) = true) :=
  ⟨⟨token 4 2 (fields 80 [(4, 4, 7), (16, 8, 5)]), pair { state := 3, epoch := 1, paired := true }, (by unfold TwinHears; decide +kernel), by decide +kernel⟩,
    ⟨token 5 2 (zeros 16 ++ [1, 2, 3]), pair { state := 4, epoch := 1, paired := true }, (by unfold TwinHears; decide +kernel), by decide +kernel⟩,
    ⟨token 6 2 (List.replicate 4112 0), { pair { state := 3, epoch := 1, paired := true } with dict := busy.dict, parts := busy.parts, dma := { leaves := [(0, [{ partition := 0, level := 0, page := 0, entry := 0x1F }])] } }, (by unfold TwinHears; decide +kernel), by decide +kernel, by decide +kernel⟩,
    ⟨token 6 2 (List.replicate 4112 0), { pair { state := 3, epoch := 1, paired := true } with parts := busy.parts, dict := Tab.put [] 0x388001 [1, 0x10, 0, 0, 0, 0, 0, 0] (Tab.put [] 0x601001 [1, 0, 0, 0, 1, 0, 0, 0, 0, 0, 0, 0, 1, 0, 0, 0] twoTowers) }, (by unfold TwinHears; decide +kernel), by decide +kernel, by decide +kernel⟩,
    ⟨token 7 2 (leBytes 4 0 ++ leBytes 4 2), [], pair { state := 3, epoch := 1, paired := true, blocks := [(0, 2)] }, (by unfold TwinHears; decide +kernel), by decide +kernel⟩,
    ⟨token 7 2 (leBytes 4 0 ++ leBytes 4 2), [], pair { state := 3, epoch := 1, paired := true, blocks := [(0, 3)] }, (by unfold TwinHears; decide +kernel), by decide +kernel⟩,
    ⟨manager 1, fields 1024 [(0, 8, 1), (8, 4, 1)], pair { state := 2, epoch := 1, paired := true }, (by unfold Admitted; decide +kernel), by decide +kernel, by decide +kernel, by decide +kernel, (fun _ => ⟨rfl, by
    unfold tdiHeld
    split
    · rfl
    · exact Bool.and_false _⟩), by decide +kernel⟩⟩

theorem witness_HandoverCommandsComplete :
    (∃ (req : Req) (value : Bytes) (s : State), Admitted req 0x580009 value s ∧
      leNat value = 1 ∧
      canHandOver s = true) ∧
    (∃ (k : Bytes) (s : State), TwinHears tkHandover k s ∧
      handoverIs 1 k = true ∧
      s.twin.state = 2 ∧
      s.twin.paired = true ∧
      tpState k = 4 ∧
      s.twin.handover = none ∧
      s.twin.yielded = none) ∧
    (∃ (k : Bytes) (s : State), TwinHears tkHandover k s ∧
      handoverIs 2 k = true ∧
      s.twin.state = 4 ∧
      s.twin.takeover = none) ∧
    (∃ (k : Bytes) (h : TwinHandover) (s : State), TwinHears tkHandover k s ∧
      handoverIs 3 k = true ∧
      s.twin.state = 4 ∧
      s.twin.takeover = none ∧
      s.twin.handover = some h) ∧
    (∃ (u : Nat) (h : TwinHandover) (s : State), s.twin.state = 2 ∧
      s.twin.yielded = some u ∧
      s.twin.handover = some h ∧
      h.acked = false) ∧
    (∃ (req : Req) (value : Bytes) (s : State), Admitted req 0x580009 value s ∧
      leNat value = 2 ∧
      (s.twin.state = 4 ∨ s.twin.state = 1) ∧
      s.twin.takeover = none) ∧
    (∃ (req : Req) (value : Bytes) (s : State), Admitted req 0x580009 value s ∧
      leNat value = 3 ∧
      s.twin.state ≠ 0 ∧
      s.twin.paired = true) :=
  ⟨⟨manager 1, [1], pair { state := 2, epoch := 1, paired := true, partner := 4 }, (by unfold Admitted; decide +kernel), by decide +kernel, by decide +kernel⟩,
    ⟨token 9 4 ([1] ++ zeros 15), pair { state := 2, epoch := 1, paired := true, partner := 4 }, (by unfold TwinHears; decide +kernel), by decide +kernel, by decide +kernel, by decide +kernel, by decide +kernel, by decide +kernel, by decide +kernel⟩,
    ⟨token 9 2 ([2] ++ zeros 7 ++ leBytes 8 9), pair { state := 4, epoch := 1, paired := true, partner := 2 }, (by unfold TwinHears; decide +kernel), by decide +kernel, by decide +kernel, by decide +kernel⟩,
    ⟨token 9 2 ([3] ++ zeros 7 ++ leBytes 8 9), { frame := 9 }, pair { state := 4, epoch := 1, paired := true, partner := 2, handover := some { frame := 9 } }, (by unfold TwinHears; decide +kernel), by decide +kernel, by decide +kernel, by decide +kernel, by decide +kernel⟩,
    ⟨1000, { frame := 9 }, pair { state := 2, epoch := 1, paired := true, yielded := some 1000, handover := some { frame := 9 } }, by decide +kernel⟩,
    ⟨manager 1, [2], pair { state := 4, epoch := 1, paired := true }, (by unfold Admitted; decide +kernel), by decide +kernel, by decide +kernel, by decide +kernel⟩,
    ⟨manager 1, [3], pair { state := 3, epoch := 1, paired := true }, (by unfold Admitted; decide +kernel), by decide +kernel, by decide +kernel, by decide +kernel⟩⟩

theorem witness_HostPortCommandsComplete :
    (∃ (port : Fin 2) (rate : BitVec 4) (width : BitVec 5) (flit : Bool) (s : State), 3 ≤ s.start.step ∧
      s.start.donkey = false ∧
      Tab.look false s.host.released port = true ∧
      (port.val = 1 → s.host.split = true)) ∧
    (∃ (port : Fin 2) (rate : BitVec 4) (width : BitVec 5) (flit : Bool) (s : State), 3 ≤ s.start.step ∧
      s.start.donkey = false ∧
      Tab.look false s.host.released port = true ∧
      (port.val = 1 → s.host.split = true)) ∧
    (∃ (port : Fin 2) (loss : HostLoss) (s : State), (loss = .perst → Tab.look false s.host.released port = true ∧ (port.val = 1 → s.host.split = true)) ∧
      (loss ≠ .perst → hostUp s port = true)) ∧
    (∃ (port : Fin 2) (loss : HostLoss) (s : State), (loss = .perst → Tab.look false s.host.released port = true ∧ (port.val = 1 → s.host.split = true)) ∧
      (loss ≠ .perst → hostUp s port = true)) ∧
    (∃ (port : Fin 2) (loss : HostLoss) (s : State), (loss = .perst → Tab.look false s.host.released port = true ∧ (port.val = 1 → s.host.split = true)) ∧
      (loss ≠ .perst → hostUp s port = true)) ∧
    (∃ (f : Function) (s : State), functionUp s f = true) ∧
    (∃ (f : Function) (s : State), functionUp s f = true) ∧
    (∃ (f : Function) (access : ConfigAccess) (s : State), functionUp s f = true ∧
      configOpen s = false) ∧
    (∃ (f : Function) (access : ConfigAccess) (s : State), functionUp s f = true) ∧
    (∃ (f : Function) (access : ConfigAccess) (s : State), functionUp s f = true) ∧
    (∃ (f : Function) (access : ConfigAccess) (s : State), functionUp s f = true) ∧
    (∃ (f : Function) (access : ConfigAccess) (s : State), functionUp s f = true) ∧
    (∃ (req : Req) (value : Bytes) (s : State), let v := leNat value; Admitted req 0x118003 value s ∧
      value.length = 8 ∧
      nbits v 63 48 = 0 ∧
      (∀ p : Tower, ownerField v p < 13 ∨ ownerField v p = 15) ∧
      (∀ n, 1 ≤ n → n ≤ 12 → (allTowers.filter (fun p => decide (ownerField v p = n))).length ≤ 1) ∧
      (∀ p : Tower, ownerField v p ≠ ownerField (dictNat s 0x118003) p → graphsOf s p = [] ∧ runsOf s p = [] ∧ (queueSet s p).enabled = false ∧ tdiHeld s p = false) ∧
      s.sec.pendingMap = none ∧
      (∀ p : Tower, ownerAgrees s v p = true)) :=
  ⟨⟨0, 5, 16, true, { awake with host.released := [(0, true)] }, by decide +kernel⟩,
    ⟨1, 5, 8, true, { awake with host.released := [(1, true)], host.split := true }, by decide +kernel⟩,
    ⟨0, .perst, hosted {} 0, by decide +kernel⟩,
    ⟨0, .hotReset, hosted {} 0, by decide +kernel⟩,
    ⟨0, .linkLoss, hosted {} 0, by decide +kernel⟩,
    ⟨0, hosted {} 0, by decide +kernel⟩,
    ⟨3, hosted { enabled := true } 0, by decide +kernel⟩,
    ⟨3, .read, { hosted {} 0 with start.step := 5 }, by decide +kernel⟩,
    ⟨3, .read, { hosted {} 0 with host.functions := [(3, { unmasked := [1, 2] })] }, by decide +kernel⟩,
    ⟨3, .atomicRequester true, { hosted {} 0 with host.functions := [(3, { unmasked := [1, 2] })] }, by decide +kernel⟩,
    ⟨3, .relaxedOrdering true, { hosted {} 0 with host.functions := [(3, { unmasked := [1, 2] })] }, by decide +kernel⟩,
    ⟨3, .maskVector 2, { hosted {} 0 with host.functions := [(3, { unmasked := [1, 2] })] }, by decide +kernel⟩,
    ⟨manager 1, [0x2F, 0x31, 0, 0, 0, 0, 0, 0], { awake with dict := [(0x340002, [0xFF, 0xFF, 0xFF, 0xFF, 0xFF, 0xFF, 0, 0])] }, (by unfold Admitted; decide +kernel), by decide +kernel, by decide +kernel, by decide +kernel, (by intro n h1 h2; have h : ∀ n ∈ List.range 13, (1 ≤ n → (allTowers.filter (fun p => decide (ownerField (leNat [0x2F, 0x31, 0, 0, 0, 0, 0, 0]) p = n))).length ≤ 1) := (by decide +kernel); exact h n (List.mem_range.2 (by omega)) h1), by decide +kernel, by decide +kernel, by decide +kernel⟩⟩

theorem witness_BarCommandsComplete :
    (∃ (f : Function) (offset : BitVec 44) (len : BitVec 13) (p : Nat) (va : Nat) (a : Nat) (s : State), BarServed f offset.toNat len.toNat p va a false s) ∧
    (∃ (f : Function) (offset : BitVec 44) (len : BitVec 13) (p : Nat) (va : Nat) (a : Nat) (s : State), BarServed f offset.toNat len.toNat p va a false s) ∧
    (∃ (f : Function) (offset : BitVec 44) (len : BitVec 13) (s : State), barReachable s f = true ∧
      1 ≤ len.toNat ∧
      len.toNat ≤ 4096 ∧
      barPlace s f offset.toNat = none) ∧
    (∃ (f : Function) (offset : BitVec 44) (data : Bytes) (poisoned : Bool) (p : Nat) (va : Nat) (a : Nat) (s : State), BarServed f offset.toNat data.length p va a true s ∧
      a < spadBase) ∧
    (∃ (f : Function) (offset : BitVec 44) (data : Bytes) (poisoned : Bool) (p : Nat) (va : Nat) (a : Nat) (s : State), BarServed f offset.toNat data.length p va a true s ∧
      spadBase ≤ a) ∧
    (∃ (f : Function) (offset : BitVec 44) (s : State), barReachable s f = true) ∧
    (∃ (f : Function) (offset : BitVec 44) (len : BitVec 13) (p : Nat) (va : Nat) (s : State), BarRetried f offset.toNat len.toNat p va s ∧
      (translateNow p p va .read s).1 = .ok 0 64 false ∧ stackServes s 0 = false) :=
  ⟨⟨0, 64, 64, 0, 64, 64, hosted {} 0x1F, (by
    unfold BarServed
    repeat' apply And.intro
    all_goals first | decide +kernel | exact ⟨0, by decide +kernel⟩ | exact ⟨1, by decide +kernel⟩)⟩,
    ⟨0, 64, 4, 0, 64, (spadBase + 64), hosted {} (0x5F ||| BitVec.ofNat 64 spadBase), (by
    unfold BarServed
    repeat' apply And.intro
    all_goals first | decide +kernel | exact ⟨0, by decide +kernel⟩ | exact ⟨1, by decide +kernel⟩)⟩,
    ⟨0, 0xC0000000000, 64, hosted {} 0x1F, by decide +kernel⟩,
    ⟨0, 64, aLine 7, false, 0, 64, 64, hosted {} 0x1F, (by
    unfold BarServed
    repeat' apply And.intro
    all_goals first | decide +kernel | exact ⟨0, by decide +kernel⟩ | exact ⟨1, by decide +kernel⟩), by decide +kernel⟩,
    ⟨0, 64, [1, 2], false, 0, 64, (spadBase + 64), hosted {} (0x5F ||| BitVec.ofNat 64 spadBase), (by
    unfold BarServed
    repeat' apply And.intro
    all_goals first | decide +kernel | exact ⟨0, by decide +kernel⟩ | exact ⟨1, by decide +kernel⟩), by decide +kernel⟩,
    ⟨0, 64, hosted {} 0, by decide +kernel⟩,
    ⟨0, 64, 64, 0, 64, { hosted {} 0x1F with dram.stackTable := [(0, { drained := true })] }, (by
    unfold BarRetried
    exact ⟨by decide +kernel, by decide +kernel, by decide, by decide, Or.inr ⟨0, 64, false, 0, by decide +kernel⟩⟩), by decide +kernel⟩⟩

theorem witness_HostQueueCommandsComplete :
    (∃ (f : Function) (p : Partition) (n : BitVec 32) (s : State), ownsQueue s f p = true ∧
      (queueSet s p).enabled = true) ∧
    (∃ (f : Function) (p : Partition) (n : BitVec 32) (s : State), ownsQueue s f p = true ∧
      (queueSet s p).enabled = true) ∧
    (∃ (f : Function) (p : Partition) (n : BitVec 32) (s : State), ownsQueue s f p = true ∧
      (queueSet s p).enabled = true) ∧
    (∃ (p : Partition) (entry : Option (BitVec 512)) (s : State), (queueSet s p).enabled = true ∧
      (queueSet s p).halted = false ∧
      (queueSet s p).gqHead ≠ (queueSet s p).gqTail ∧
      (queueSet s p).fetched.length < 16 ∧
      s.sec.activating = none ∧
      functionUp s (partitionFunction s p) = true) ∧
    (∃ (p : Partition) (entry : Option (BitVec 512)) (s : State), (queueSet s p).enabled = true ∧
      (queueSet s p).halted = false ∧
      (queueSet s p).gqHead ≠ (queueSet s p).gqTail ∧
      (queueSet s p).fetched.length < 16 ∧
      s.sec.activating = none ∧
      functionUp s (partitionFunction s p) = true) ∧
    (∃ (f : Function) (p : Partition) (n : BitVec 32) (s : State), ownsQueue s f p = true ∧
      (queueSet s p).enabled = true ∧
      ((queueSet s p).cqTail - n).toNat < (queueSet s p).cqSize) ∧
    (∃ (f : Function) (p : Partition) (n : BitVec 32) (s : State), ownsQueue s f p = true ∧
      (queueSet s p).enabled = true) ∧
    (∃ (f : Function) (p : Partition) (n : BitVec 32) (s : State), ownsQueue s f p = true ∧
      (queueSet s p).enabled = true) ∧
    (∃ (f : Function) (p : Partition) (x : QueueSetup) (s : State), ownsQueue s f p = true ∧
      setupFits x = true) ∧
    (∃ (f : Function) (p : Partition) (x : QueueSetup) (s : State), ownsQueue s f p = true ∧
      setupFits x = false) ∧
    (∃ (f : Function) (p : Partition) (x : QueueSetup) (s : State), ownsQueue s f p = true) ∧
    (∃ (f : Function) (p : Partition) (s : State), ownsQueue s f p = true) ∧
    (∃ (f : Function) (p : Partition) (s : State), ownsQueue s f p = true ∧
      runsOf s p ≠ []) ∧
    (∃ (p : Partition) (fault : Bool) (s : State), (if fault then (queueSet s p).heldFault else (queueSet s p).heldCompletion) = true) ∧
    (∃ (p : Partition) (fault : Bool) (s : State), (if fault then (queueSet s p).heldFault else (queueSet s p).heldCompletion) = true) ∧
    (∃ (p : Partition) (fault : Bool) (s : State), (if fault then (queueSet s p).heldFault else (queueSet s p).heldCompletion) = true) ∧
    (∃ (f : Function) (value : BitVec 32) (mask : BitVec 32) (vector : BitVec 8) (s : State), functionUp s f = true ∧
      configOpen s = true) ∧
    (∃ (f : Function) (v : BitVec 8) (s : State), functionUp s f = true ∧
      v.toNat < vectorCount f) ∧
    (∃ (f : Function) (v : BitVec 8) (s : State), functionUp s f = true ∧
      v.toNat < vectorCount f) :=
  ⟨⟨0, 0, 4, hosted { enabled := true, gqSize := 4, cqSize := 4 } 0, by decide +kernel⟩,
    ⟨0, 0, 5, hosted { enabled := true, gqSize := 4, cqSize := 4 } 0, by decide +kernel⟩,
    ⟨0, 0, 5, hosted { enabled := true, gqSize := 4, cqSize := 4, halted := true } 0, by decide +kernel⟩,
    ⟨0, some 7, hosted { enabled := true, gqSize := 4, cqSize := 4, gqTail := 1 } 0, by decide +kernel⟩,
    ⟨0, none, hosted { enabled := true, gqSize := 4, cqSize := 4, gqTail := 1 } 0, by decide +kernel⟩,
    ⟨0, 0, 1, hosted { enabled := true, gqSize := 4, cqSize := 4, cqTail := 4, hold := [[1, 2]] } 0, by decide +kernel⟩,
    ⟨0, 0, 1, hosted { enabled := true, gqSize := 4, cqSize := 4, cqTail := 4 } 0, by decide +kernel⟩,
    ⟨0, 0, 9, hosted { enabled := true, gqSize := 4, cqSize := 4 } 0, by decide +kernel⟩,
    ⟨0, 0, { gqBase := 0x1000, gqSize := 64, queueStart := 3, cqBase := 0x2000, cqSize := 64, fqBase := 0x3000, shadowBase := 64, vectors := 5 }, hosted {} 0, by decide +kernel⟩,
    ⟨0, 0, { gqBase := 0x1000, gqSize := 65, queueStart := 3, cqBase := 0x2000, cqSize := 65, fqBase := 0x3000, shadowBase := 65, vectors := 5 }, hosted {} 0, by decide +kernel⟩,
    ⟨0, 0, { gqBase := 0x1000, gqSize := 64, queueStart := 3, cqBase := 0x2000, cqSize := 64, fqBase := 0x3000, shadowBase := 64, vectors := 5 }, hosted { enabled := true, gqSize := 4, cqSize := 4 } 0, by decide +kernel⟩,
    ⟨0, 0, { hosted { enabled := true, gqSize := 4, cqSize := 4 } 0 with parts.loads := [{ partition := 0, address := 0, length := 1 }] }, by decide +kernel⟩,
    ⟨0, 0, { hosted { enabled := true, gqSize := 4, cqSize := 4 } 0 with parts := busy.parts }, by decide +kernel⟩,
    ⟨0, true, hosted { enabled := true, gqSize := 4, cqSize := 4, heldFault := true, heldCompletion := true, vectors := 0x00050203, lastFault := some 4 } 0, by decide +kernel⟩,
    ⟨0, false, hosted { enabled := true, gqSize := 4, cqSize := 4, heldFault := true, heldCompletion := true, vectors := 0x00050203, lastFault := some 4 } 0, by decide +kernel⟩,
    ⟨0, true, { hosted { enabled := true, gqSize := 4, cqSize := 4, heldFault := true, heldCompletion := true, vectors := 0x00050203, lastFault := some 4 } 0 with host.functions := [(0, { unmasked := [2, 3] })] }, by decide +kernel⟩,
    ⟨3, 1, 0, 2, { hosted {} 0 with host.functions := [(3, { notifyStatus := 7, notifyMask := 63, unmasked := [2] })] }, by decide +kernel⟩,
    ⟨3, 2, { hosted {} 0 with host.functions := [(3, { waiting := [2] })] }, by decide +kernel⟩,
    ⟨3, 3, { hosted {} 0 with host.functions := [(3, { waiting := [2] })] }, by decide +kernel⟩⟩

theorem witness_HostReadCommandsComplete :
    (∃ (w : Tower) (e : EngineNo) (pos : Nat) (tag : BitVec 14) (bytes : Bytes) (r : HostRead) (d : Desc) (s : State), s.host.reads.find? (fun x => decide (x.tag = tag.toNat)) = some r ∧
      r.for_ = .descriptor w e pos ∧
      engineQueue s (16 * w.val + e.val) = [d] ∧
      d.state = .active ∧
      d.wait = .host tag.toNat ∧
      dOp d.raw = 1 ∧
      descRefused d.raw = false ∧
      dDstSpad d.raw = true ∧
      dRows d.raw = 1 ∧
      d.cursorRows = 0 ∧
      d.cursorBytes = 0 ∧
      d.chunk = none ∧
      d.len = dRowBytes d.raw ∧
      dDest d.raw % 64 + d.len ≤ 64 ∧
      dSource d.raw % 4096 + d.len ≤ 4096 ∧
      d.place % 64 + d.len ≤ r.length ∧
      mayIssue s d = true ∧
      OwnLine w d.partition (spadBase + w.val * 2 ^ 28 + dDest d.raw) true s) ∧
    (∃ (p : Partition) (tag : BitVec 14) (bytes : Bytes) (r : HostRead) (b : Binding) (s : State), s.host.reads.find? (fun x => decide (x.tag = tag.toNat)) = some r ∧
      r.for_ = .bindings p ∧
      s.parts.binds.find? (fun x => decide (x.partition = p.val)) = some b ∧
      RingOpen p s ∧
      unserved s p = none ∧ runRefused s p b.entry = none ∧ (liveGraph s p (eHandle b.entry)).isSome = true) ∧
    (∃ (p : Partition) (tag : BitVec 14) (bytes : Bytes) (r : HostRead) (b : Binding) (s : State), s.host.reads.find? (fun x => decide (x.tag = tag.toNat)) = some r ∧
      r.for_ = .bindings p ∧
      s.parts.binds.find? (fun x => decide (x.partition = p.val)) = some b ∧
      RingOpen p s ∧
      unserved s p = none ∧ (runRefused s p b.entry).isSome = true) ∧
    (∃ (p : Partition) (tag : BitVec 14) (r : HostRead) (b : Binding) (s : State), s.host.reads.find? (fun x => decide (x.tag = tag.toNat)) = some r ∧
      r.for_ = .bindings p ∧
      s.parts.binds.find? (fun x => decide (x.partition = p.val)) = some b ∧
      RingOpen p s) ∧
    (∃ (w : Tower) (e : EngineNo) (pos : Nat) (tag : BitVec 14) (r : HostRead) (d : Desc) (s : State), s.host.reads.find? (fun x => decide (x.tag = tag.toNat)) = some r ∧
      r.for_ = .descriptor w e pos ∧
      engineQueue s (16 * w.val + e.val) = [d] ∧
      d.state = .active ∧
      d.wait = .host tag.toNat) ∧
    (∃ (eid : BitVec 8) (s : State), EndpointUp s) ∧
    (∃ (eid : BitVec 8) (s : State), EndpointUp s) ∧
    (∃ (eid : BitVec 8) (s : State), EndpointUp s) ∧
    (∃ (s : State), EndpointUp s) ∧
    (∃ (s : State), EndpointUp s) ∧
    (∃ (kind : BitVec 8) (s : State), EndpointUp s) ∧
    (∃ (kind : BitVec 8) (s : State), EndpointUp s) ∧
    (∃ (s : State), EndpointUp s) ∧
    (∃ (selector : BitVec 8) (s : State), EndpointUp s) ∧
    (∃ (selector : BitVec 8) (s : State), EndpointUp s) :=
  ⟨⟨0, 3, 0, 3, aLine 9, { tag := 3, function := 0, address := 0x1000, length := 64, for_ := .descriptor 0 3 0 }, { raw := descriptor 1 4 0x1000 64 64 1 0 0, partition := 0, run := 9, state := .active, wait := .host 3, len := 64, place := 0 }, { queued ({ raw := descriptor 1 4 0x1000 64 64 1 0 0, partition := 0, run := 9, state := .active, wait := .host 3, len := 64, place := 0 } : Desc) busy with host := { reads := [({ tag := 3, function := 0, address := 0x1000, length := 64, for_ := .descriptor 0 3 0 } : HostRead)] } }, by decide +kernel, by decide +kernel, by decide +kernel, by decide +kernel, by decide +kernel, by decide +kernel, by decide +kernel, by decide +kernel, by decide +kernel, by decide +kernel, by decide +kernel, by decide +kernel, by decide +kernel, by decide +kernel, by decide +kernel, by decide +kernel, by decide +kernel, (by unfold OwnLine; decide +kernel)⟩,
    ⟨0, 3, leBytes 8 5 ++ leBytes 8 6, { tag := 3, function := 0, address := 0x1000, length := 16, for_ := .bindings 0 }, ⟨0, 5, BitVec.ofNat 512 (0x0000000900010003 + 2 ^ 96 * 0)⟩, { loaded (⟨0, 5, BitVec.ofNat 512 (0x0000000900010003 + 2 ^ 96 * 0)⟩ : Binding).entry with parts.binds := [(⟨0, 5, BitVec.ofNat 512 (0x0000000900010003 + 2 ^ 96 * 0)⟩ : Binding)], host.reads := [({ tag := 3, function := 0, address := 0x1000, length := 16, for_ := .bindings 0 } : HostRead)], host.queues := [(0, { enabled := true, cqSize := 4 })] }, by decide +kernel, by decide +kernel, by decide +kernel, (by unfold RingOpen; decide +kernel), by decide +kernel⟩,
    ⟨0, 3, leBytes 8 5 ++ leBytes 8 6, { tag := 3, function := 0, address := 0x1000, length := 16, for_ := .bindings 0 }, ⟨0, 5, BitVec.ofNat 512 (0x0000000900020003)⟩, { loaded (⟨0, 5, BitVec.ofNat 512 (0x0000000900020003)⟩ : Binding).entry with parts.binds := [(⟨0, 5, BitVec.ofNat 512 (0x0000000900020003)⟩ : Binding)], host.reads := [({ tag := 3, function := 0, address := 0x1000, length := 16, for_ := .bindings 0 } : HostRead)], host.queues := [(0, { enabled := true, cqSize := 4 })] }, by decide +kernel, by decide +kernel, by decide +kernel, (by unfold RingOpen; decide +kernel), by decide +kernel⟩,
    ⟨0, 3, { tag := 3, function := 0, address := 0x1000, length := 16, for_ := .bindings 0 }, ⟨0, 5, BitVec.ofNat 512 (0x0000000900010003 + 2 ^ 96 * 2)⟩, { loaded (⟨0, 5, BitVec.ofNat 512 (0x0000000900010003 + 2 ^ 96 * 2)⟩ : Binding).entry with parts.binds := [(⟨0, 5, BitVec.ofNat 512 (0x0000000900010003 + 2 ^ 96 * 2)⟩ : Binding)], host.reads := [({ tag := 3, function := 0, address := 0x1000, length := 16, for_ := .bindings 0 } : HostRead)], host.queues := [(0, { enabled := true, cqSize := 4 })] }, by decide +kernel, by decide +kernel, by decide +kernel, (by unfold RingOpen; decide +kernel)⟩,
    ⟨0, 3, 0, 3, { tag := 3, function := 0, address := 0x1000, length := 64, for_ := .descriptor 0 3 0 }, { raw := descriptor 1 4 0x1000 64 64 1 0 0, partition := 0, run := 9, state := .active, wait := .host 3, len := 64, place := 0 }, { queued ({ raw := descriptor 1 4 0x1000 64 64 1 0 0, partition := 0, run := 9, state := .active, wait := .host 3, len := 64, place := 0 } : Desc) busy with host := { reads := [({ tag := 3, function := 0, address := 0x1000, length := 64, for_ := .descriptor 0 3 0 } : HostRead)] } }, by decide +kernel⟩,
    ⟨0, hosted {} 0, (by unfold EndpointUp; decide +kernel)⟩,
    ⟨0xFF, hosted {} 0, (by unfold EndpointUp; decide +kernel)⟩,
    ⟨9, hosted {} 0, (by unfold EndpointUp; decide +kernel)⟩,
    ⟨hosted {} 0, (by unfold EndpointUp; decide +kernel)⟩,
    ⟨hosted {} 0, (by unfold EndpointUp; decide +kernel)⟩,
    ⟨5, hosted {} 0, (by unfold EndpointUp; decide +kernel)⟩,
    ⟨9, hosted {} 0, (by unfold EndpointUp; decide +kernel)⟩,
    ⟨hosted {} 0, (by unfold EndpointUp; decide +kernel)⟩,
    ⟨0, hosted {} 0, (by unfold EndpointUp; decide +kernel)⟩,
    ⟨1, hosted {} 0, (by unfold EndpointUp; decide +kernel)⟩⟩

theorem witness_DictionaryCommandsComplete :
    (∃ (req : Req) (key : BitVec 24) (s : State), Serves req opRead key 0 false s ∧ entryLength key.toNat ≤ 1024) ∧
    (∃ (req : Req) (key : BitVec 24) (s : State), Serves req opRead key 0 false s ∧ 1024 < entryLength key.toNat) ∧
    (∃ (req : Req) (key : BitVec 24) (s : State), (s.om.kept.find? (fun k => keptAlive s k && decide (k.reply.id = requestId req opRead key 0))).isSome = true ∧ served s req.requester = true ∧ sourceAccepted s req.requester = true) ∧
    (∃ (req : Req) (key : BitVec 24) (value : Bytes) (nvmOk : Bool) (s : State), Serves req opWrite key 0 true s ∧
      value.length ≤ 1024) ∧
    (∃ (req : Req) (key : BitVec 24) (value : Bytes) (nvmOk : Bool) (s : State), Serves req opWrite key 0 true s ∧
      value.length ≤ 1024) ∧
    (∃ (req : Req) (key : BitVec 24) (value : Bytes) (nvmOk : Bool) (s : State), served s req.requester = true ∧
      sourceAccepted s req.requester = true ∧
      1024 < value.length ∧
      (∀ k ∈ s.om.kept, keptAlive s k = true → k.reply.id ≠ requestId req opWrite key 0)) ∧
    (∃ (req : Req) (op : BitVec 8) (key : BitVec 24) (offset : BitVec 32) (s : State), served s req.requester = true ∧
      sourceAccepted s req.requester = true ∧
      (∀ k ∈ s.om.kept, keptAlive s k = true → k.reply.id ≠ requestId req op key offset.toNat)) ∧
    (∃ (k : Kept) (s : State), k ∈ s.om.kept ∧
      (∀ x ∈ s.om.kept, k.time ≤ x.time)) ∧
    (∃ (req : Req) (value : Bytes) (nvmOk : Bool) (s : State), Admitted req 0x10000A value s ∧
      leNat value = 1 ∧
      newestRecord s = none) ∧
    (∃ (req : Req) (value : Bytes) (nvmOk : Bool) (s : State), Admitted req 0x10000A value s ∧
      leNat value = 1) ∧
    (∃ (req : Req) (value : Bytes) (nvmOk : Bool) (s : State), Admitted req 0x10000A value s ∧
      leNat value = 1) ∧
    (∃ (req : Req) (value : Bytes) (nvmOk : Bool) (s : State), Admitted req 0x10000A value s ∧
      leNat value = 2) ∧
    (∃ (req : Req) (value : Bytes) (nvmOk : Bool) (s : State), Admitted req 0x10000A value s ∧
      leNat value = 2) :=
  ⟨⟨manager 1, 0x440004, awake, (by unfold Serves; decide +kernel)⟩,
    ⟨manager 1, 0x601001, awake, (by unfold Serves; decide +kernel)⟩,
    ⟨manager 1, 0x440004, { awake with om.kept := [⟨{ id := requestId (manager 1) opRead 0x440004 0, status := stOk }, 0⟩] }, by decide +kernel⟩,
    ⟨manager 1, 0x440004, [9, 0], true, awake, (by unfold Serves; decide +kernel), by decide +kernel⟩,
    ⟨manager 1, 0x240003, [9], true, awake, (by unfold Serves; decide +kernel), by decide +kernel⟩,
    ⟨manager 1, 0x440004, zeros 1025, true, awake, by decide +kernel⟩,
    ⟨manager 1, 9, 0x440004, 0, awake, by decide +kernel⟩,
    ⟨⟨{ id := requestId (manager 1) opRead 0x440004 0, status := stOk }, 5⟩, { awake with om.kept := [(⟨{ id := requestId (manager 1) opRead 0x440004 0, status := stOk }, 5⟩ : Kept)] }, by decide +kernel⟩,
    ⟨manager 1, [1], true, awake, (by unfold Admitted; decide +kernel), by decide +kernel, by decide +kernel⟩,
    ⟨manager 1, [1], true, { awake with om.records := [(0, { valid := true, sequence := 4 })] }, (by unfold Admitted; decide +kernel), by decide +kernel⟩,
    ⟨manager 1, [1], false, awake, (by unfold Admitted; decide +kernel), by decide +kernel⟩,
    ⟨manager 1, [2], true, { awake with om.records := [(0, { valid := true, sequence := 4 })] }, (by unfold Admitted; decide +kernel), by decide +kernel⟩,
    ⟨manager 1, [2], false, { awake with om.records := [(0, { valid := true, sequence := 4 })] }, (by unfold Admitted; decide +kernel), by decide +kernel⟩⟩

theorem witness_SegmentCommandsComplete :
    (∃ (req : Req) (key : BitVec 24) (offset : BitVec 32) (length : BitVec 32) (s : State), Serves req opSegRead key offset.toNat false s ∧
      length.toNat ≤ 1024) ∧
    (∃ (req : Req) (key : BitVec 24) (offset : BitVec 32) (length : BitVec 32) (s : State), Serves req opSegRead key offset.toNat false s ∧
      length.toNat ≤ 1024) ∧
    (∃ (req : Req) (key : BitVec 24) (offset : BitVec 32) (length : BitVec 32) (s : State), Serves req opSegRead key offset.toNat false s ∧
      length.toNat ≤ 1024) ∧
    (∃ (req : Req) (key : BitVec 24) (total : BitVec 32) (s : State), Serves req opSegBegin key 0 true s ∧
      (∀ x, transferOf s key.toNat = some x → x.requester = req.requester) ∧
      (transferOf s key.toNat = none → s.om.transfers.length < 4) ∧
      lengthFault key.toNat total.toNat = none ∧
      (∀ e, entryInfo key.toNat = some e → e.access = .rwf → s.start.foal = true ∨ stopped s = true)) ∧
    (∃ (req : Req) (key : BitVec 24) (offset : BitVec 32) (data : Bytes) (x : Transfer) (s : State), Serves req opSegData key offset.toNat true s ∧
      transferOf s key.toNat = some x ∧
      x.requester = req.requester ∧
      offset.toNat % 1024 = 0 ∧
      offset.toNat < x.total ∧
      data.length = min 1024 (x.total - offset.toNat)) ∧
    (∃ (req : Req) (key : BitVec 24) (crc : BitVec 32) (nvmOk : Bool) (x : Transfer) (s : State), Serves req opSegEnd key 0 true s ∧
      ownTransfer s req.requester key.toNat = some x) ∧
    (∃ (req : Req) (key : BitVec 24) (crc : BitVec 32) (nvmOk : Bool) (x : Transfer) (s : State), Serves req opSegEnd key 0 true s ∧
      ownTransfer s req.requester key.toNat = some x) ∧
    (∃ (req : Req) (key : BitVec 24) (crc : BitVec 32) (nvmOk : Bool) (x : Transfer) (s : State), Serves req opSegEnd key 0 true s ∧
      ownTransfer s req.requester key.toNat = some x ∧
      assembled x = none) ∧
    (∃ (req : Req) (key : BitVec 24) (s : State), Serves req opSegAbort key 0 true s) ∧
    (∃ (req : Req) (key : BitVec 24) (s : State), Serves req opSegAbort key 0 true s) ∧
    (∃ (i : Nat) (x : Transfer) (s : State), s.om.transfers[i]? = some x) ∧
    (∃ (i : Nat) (x : Snapshot) (s : State), s.om.snapshots[i]? = some x) :=
  ⟨⟨manager 1, 0x440004, 0, 2, awake, (by unfold Serves; decide +kernel), by decide +kernel⟩,
    ⟨manager 1, 0x440004, 1, 1, { awake with om.snapshots := [{ requester := (manager 1).requester, key := 0x440004, value := [7, 8], lastRead := 0 }] }, (by unfold Serves; decide +kernel), by decide +kernel⟩,
    ⟨manager 1, 0x440004, 1, 1, awake, (by unfold Serves; decide +kernel), by decide +kernel⟩,
    ⟨manager 1, 0x110007, 128, awake, (by unfold Serves; decide +kernel), by decide +kernel, by decide +kernel, by decide +kernel, by decide +kernel⟩,
    ⟨manager 1, 0x110007, 0, List.replicate 128 0, { requester := (manager 1).requester, key := 0x110007, total := 128, segments := [], last := 0 }, { awake with om.transfers := [({ requester := (manager 1).requester, key := 0x110007, total := 128, segments := [], last := 0 } : Transfer)] }, (by unfold Serves; decide +kernel), by decide +kernel, by decide +kernel, by decide +kernel, by decide +kernel, by decide +kernel⟩,
    ⟨manager 1, 0x110007, crc32 (List.replicate 128 0), true, { requester := (manager 1).requester, key := 0x110007, total := 128, segments := [(0, List.replicate 128 0)], last := 0 }, { awake with om.transfers := [({ requester := (manager 1).requester, key := 0x110007, total := 128, segments := [(0, List.replicate 128 0)], last := 0 } : Transfer)] }, (by unfold Serves; decide +kernel), by decide +kernel⟩,
    ⟨manager 1, 0x110007, 9, true, { requester := (manager 1).requester, key := 0x110007, total := 128, segments := [(0, List.replicate 128 0)], last := 0 }, { awake with om.transfers := [({ requester := (manager 1).requester, key := 0x110007, total := 128, segments := [(0, List.replicate 128 0)], last := 0 } : Transfer)] }, (by unfold Serves; decide +kernel), by decide +kernel⟩,
    ⟨manager 1, 0x110007, 9, true, { requester := (manager 1).requester, key := 0x110007, total := 128, segments := [], last := 0 }, { awake with om.transfers := [({ requester := (manager 1).requester, key := 0x110007, total := 128, segments := [], last := 0 } : Transfer)] }, (by unfold Serves; decide +kernel), by decide +kernel, by decide +kernel⟩,
    ⟨manager 1, 0x110007, { awake with om.transfers := [{ requester := (manager 1).requester, key := 0x110007, total := 128, segments := [], last := 0 }] }, (by unfold Serves; decide +kernel)⟩,
    ⟨manager 1, 0x110007, awake, (by unfold Serves; decide +kernel)⟩,
    ⟨0, { requester := (manager 1).requester, key := 0x110007, total := 128, segments := [], last := 0 }, { awake with om.transfers := [({ requester := (manager 1).requester, key := 0x110007, total := 128, segments := [], last := 0 } : Transfer)] }, by decide +kernel⟩,
    ⟨0, { requester := (manager 1).requester, key := 0x440004, value := [7, 8], lastRead := 0 }, { awake with om.snapshots := [({ requester := (manager 1).requester, key := 0x440004, value := [7, 8], lastRead := 0 } : Snapshot)] }, by decide +kernel⟩⟩

theorem witness_NoticeCommandsComplete :
    (∃ (i : Fin 4) (q : BitVec 16) (s : State), s.om.addressDuplicate = false) ∧
    (∃ (i : Fin 4) (q : BitVec 16) (s : State), s.om.addressDuplicate = false) ∧
    (∃ (i : Fin 4) (n : Unanswered) (s : State), (subscriber s i).unanswered.find? (fun m => decide (m.last = n.last)) = some n ∧
      (∀ m ∈ (subscriber s i).unanswered, n.last ≤ m.last) ∧
      s.om.addressDuplicate = false) ∧
    (∃ (i : Fin 4) (n : Unanswered) (s : State), (subscriber s i).unanswered.find? (fun m => decide (m.last = n.last)) = some n ∧
      (∀ m ∈ (subscriber s i).unanswered, n.last ≤ m.last) ∧
      s.om.addressDuplicate = false) ∧
    (∃ (duplicate : Bool) (s : State), portServes s = true ∧
      s.om.linkUp = true) ∧
    (∃ (duplicate : Bool) (s : State), portServes s = true ∧
      s.om.linkUp = true) ∧
    (∃ (source : BitVec 128) (target : BitVec 128) (s : State), portServes s = true ∧
      s.om.linkUp = true ∧
      s.om.addressDuplicate = false) ∧
    (∃ (source : BitVec 128) (target : BitVec 128) (s : State), portServes s = true ∧
      s.om.linkUp = true ∧
      s.om.addressDuplicate = false) ∧
    (∃ (source : BitVec 128) (data : Bytes) (s : State), portServes s = true ∧
      s.om.linkUp = true ∧
      s.om.addressDuplicate = false) :=
  ⟨⟨0, 7, { awake with om.subscribers := [(0, { unanswered := [{ seq := 7, data := [1], sends := 1, last := 5 }] })] }, by decide +kernel⟩,
    ⟨0, 7, { awake with om.subscribers := [(0, { next := 8, unanswered := [{ seq := 7, data := [1], sends := 1, last := 5 }], held := [[2]] })] }, by decide +kernel⟩,
    ⟨0, { seq := 7, data := [1], sends := 9, last := 5 }, { awake with om.subscribers := [(0, { unanswered := [({ seq := 7, data := [1], sends := 9, last := 5 } : Unanswered)] })] }, by decide +kernel⟩,
    ⟨0, { seq := 7, data := [1], sends := 10, last := 5 }, { awake with om.subscribers := [(0, { unanswered := [({ seq := 7, data := [1], sends := 10, last := 5 } : Unanswered)] })] }, by decide +kernel⟩,
    ⟨true, { awake with om.linkUp := true }, by decide +kernel⟩,
    ⟨false, { awake with om.linkUp := true, om.detectionDue := some 9 }, by decide +kernel⟩,
    ⟨7, ownAddress, { awake with om.linkUp := true }, by decide +kernel⟩,
    ⟨7, 9, { awake with om.linkUp := true }, by decide +kernel⟩,
    ⟨7, [9], { awake with om.linkUp := true }, by decide +kernel⟩⟩

theorem witness_StartStepCommandsComplete :
    (∃ (s : State), startBarred s = false) ∧
    (∃ (s : State), startBarred s = false) ∧
    (∃ (s : State), s.start.step = 1) ∧
    (∃ (s : State), s.start.step = 1) ∧
    (∃ (nvmReadable : Bool) (s : State), s.start.step = 2 ∧
      s.start.donkey = false) ∧
    (∃ (nvmReadable : Bool) (s : State), s.start.step = 2 ∧
      s.start.donkey = false) ∧
    (∃ (s : State), s.start.step = 3) ∧
    (∃ (errors : List (BundleSide × Fin 36 × List Nat)) (s : State), s.start.step = 4) ∧
    (∃ (s : State), s.start.step = 5 ∧
      s.start.foal = false) ∧
    (∃ (s : State), s.start.step = 5 ∧
      s.start.foal = false) ∧
    (∃ (s : State), s.start.step = 5 ∧
      s.start.foal = false ∧
      (∀ w : Tower, towerUp s w = false)) ∧
    (∃ (rref : BitVec 16) (unlocked : List Ring) (s : State), s.start.step = 6) ∧
    (∃ (rref : BitVec 16) (unlocked : List Ring) (s : State), s.start.step = 6) ∧
    (∃ (s : State), s.start.step = 7) ∧
    (∃ (s : State), s.start.step = 8 ∧
      s.start.noLock = false ∧
      s.frame.firstSent = true ∧
      lockedTowers s = allTowers.filter (towerUp s) ∧
      lockedTowers s ≠ []) ∧
    (∃ (s : State), s.start.step = 8 ∧
      s.start.noLock = false ∧
      s.frame.firstSent = true ∧
      lockedTowers s = allTowers.filter (towerUp s) ∧
      lockedTowers s ≠ []) :=
  ⟨⟨{ State.reset with pow.load := some false, start.restartAt := some 1000 }, by decide +kernel⟩,
    ⟨{ State.reset with pow.load := some false, pow.qualified := some 1000 }, by decide +kernel⟩,
    ⟨{ { awake with start := { step := 1, service := allUnits } } with pow.tripToRecord := some (3, 1200) }, by decide +kernel⟩,
    ⟨{ awake with start := { step := 1, service := allUnits, previousStop := .trip, failedCount := 2 } }, by decide +kernel⟩,
    ⟨false, { awake with start := { step := 2, service := allUnits } }, by decide +kernel⟩,
    ⟨true, { { awake with start := { step := 2, service := allUnits } } with sec.nvm := some [] }, by decide +kernel⟩,
    ⟨{ awake with start := { step := 3, service := allUnits, kept := [.base 3] } }, by decide +kernel⟩,
    ⟨[(0, 1, [2])], { awake with start := { step := 4, service := allUnits } }, by decide +kernel⟩,
    ⟨{ awake with start := { step := 5, service := allUnits } }, by decide +kernel⟩,
    ⟨{ awake with start := { step := 5, service := allUnits, commanded := 3 } }, by decide +kernel⟩,
    ⟨{ awake with start := { step := 5 } }, by decide +kernel⟩,
    ⟨4000, [.tickOutput 3], { awake with start := { step := 6, service := allUnits } }, by decide +kernel⟩,
    ⟨4001, [], { awake with start := { step := 6, service := allUnits } }, by decide +kernel⟩,
    ⟨{ awake with start := { step := 7, service := allUnits } }, by decide +kernel⟩,
    ⟨{ awake with start := { step := 8, service := allUnits } }, by decide +kernel⟩,
    ⟨{ { awake with start := { step := 8, service := allUnits } } with dict := [(0x580001, [1])] }, by decide +kernel⟩⟩

theorem witness_StartEndCommandsComplete :
    (∃ (incomplete : List PkgUnit) (s : State), stepRuns s = true) ∧
    (∃ (incomplete : List PkgUnit) (s : State), stepRuns s = true) ∧
    (∃ (incomplete : List PkgUnit) (s : State), stepRuns s = true) ∧
    (∃ (incomplete : List PkgUnit) (s : State), stepRuns s = true) ∧
    (∃ (incomplete : List PkgUnit) (s : State), stepRuns s = true) ∧
    (∃ (u : Nat) (s : State), s.start.serviceSince = some u ∧
      s.start.succeeded = false) ∧
    (∃ (s : State), 2 ≤ s.start.step ∧
      s.start.donkey = false ∧
      s.start.succeeded = false) ∧
    (∃ (req : Req) (value : Bytes) (s : State), Admitted req 0x700004 value s ∧
      leNat value = 1 ∧
      mayRestart s = true) ∧
    (∃ (req : Req) (value : Bytes) (s : State), Admitted req 0x700004 value s ∧
      leNat value = 2 ∧
      mayRestart s = true) ∧
    (∃ (req : Req) (value : Bytes) (s : State), Admitted req 0x700004 value s ∧
      leNat value = 3 ∧
      mayRestart s = true) ∧
    (∃ (req : Req) (value : Bytes) (s : State), Admitted req 0x700004 value s ∧
      leNat value = 3 ∧
      mayRestart s = true) ∧
    (∃ (req : Req) (value : Bytes) (s : State), Admitted req 0x700004 value s ∧
      leNat value = 4 ∧
      s.start.heldAtFoal = true) :=
  ⟨⟨[.base 0], { awake with start := { step := 1, service := allUnits } }, by decide +kernel⟩,
    ⟨[.base 3], { awake with start := { step := 3, service := allUnits } }, by decide +kernel⟩,
    ⟨[.base 3], { awake with start := { step := 4, service := allUnits } }, by decide +kernel⟩,
    ⟨[.base 3], { awake with start := { step := 6, service := allUnits } }, by decide +kernel⟩,
    ⟨[.base 3], { awake with start := { step := 7, service := allUnits } }, by decide +kernel⟩,
    ⟨1000, { awake with start := { step := 9, service := allUnits, serviceSince := some 1000 } }, by decide +kernel⟩,
    ⟨{ awake with start := { step := 2, service := allUnits } }, by decide +kernel⟩,
    ⟨manager 1, [1], awake, (by unfold Admitted; decide +kernel), by decide +kernel, by decide +kernel⟩,
    ⟨manager 1, [2], awake, (by unfold Admitted; decide +kernel), by decide +kernel, by decide +kernel⟩,
    ⟨manager 1, [3], awake, (by unfold Admitted; decide +kernel), by decide +kernel, by decide +kernel⟩,
    ⟨manager 1, [3], { awake with start := { step := 2, donkey := true } }, (by unfold Admitted; decide +kernel), by decide +kernel, by decide +kernel⟩,
    ⟨manager 1, [4], { awake with start := { step := 5, service := allUnits, foal := true, heldAtFoal := true } }, (by unfold Admitted; decide +kernel), by decide +kernel, by decide +kernel⟩⟩

theorem witness_RecorderCommandsComplete :
    (∃ (i : Nat) (e : Event) (s : State), s.hen.arriving[i]? = some e ∧
      critical s e.code.toNat = false ∧ isMarker e.code.toNat = false ∧ (bucket s e.code.toNat).missing < (rateLimit s e.code.toNat).1) ∧
    (∃ (i : Nat) (e : Event) (s : State), s.hen.arriving[i]? = some e ∧
      (rateLimit s e.code.toNat).1 ≤ (bucket s e.code.toNat).missing) ∧
    (∃ (i : Nat) (e : Event) (s : State), s.hen.arriving[i]? = some e) ∧
    (∃ (i : Nat) (e : Event) (s : State), s.hen.arriving[i]? = some e) ∧
    (∃ (i : Nat) (e : Event) (s : State), s.hen.arriving[i]? = some e ∧
      critical s e.code.toNat = true) ∧
    (∃ (i : Nat) (e : Event) (s : State), s.hen.arriving[i]? = some e ∧
      critical s e.code.toNat = true) ∧
    (∃ (i : Nat) (e : Event) (s : State), s.hen.arriving[i]? = some e ∧
      critical s e.code.toNat = true) ∧
    (∃ (r : Record) (rest : List Record) (s : State), (s.hen.priorityQueue = r :: rest ∨ (s.hen.priorityQueue = [] ∧ s.hen.inputQueue = r :: rest))) ∧
    (∃ (r : Record) (rest : List Record) (s : State), (s.hen.priorityQueue = r :: rest ∨ (s.hen.priorityQueue = [] ∧ s.hen.inputQueue = r :: rest))) ∧
    (∃ (r : Record) (rest : List Record) (s : State), (s.hen.priorityQueue = r :: rest ∨ (s.hen.priorityQueue = [] ∧ s.hen.inputQueue = r :: rest))) ∧
    (∃ (r : Record) (rest : List Record) (s : State), (s.hen.priorityQueue = r :: rest ∨ (s.hen.priorityQueue = [] ∧ s.hen.inputQueue = r :: rest))) ∧
    (∃ (req : Req) (value : Bytes) (s : State), Admitted req 0x680003 value s ∧
      leNat value = 1 ∧
      s.hen.frozen = false) ∧
    (∃ (req : Req) (value : Bytes) (s : State), Admitted req 0x680003 value s ∧
      leNat value = 2) ∧
    (∃ (req : Req) (value : Bytes) (s : State), Admitted req 0x680003 value s ∧
      leNat value = 2) ∧
    (∃ (s : State), s.hen.frozen = true) ∧
    (∃ (req : Req) (value : Bytes) (s : State), Admitted req 0x680009 value s ∧
      leNat value = 1) ∧
    (∃ (req : Req) (value : Bytes) (s : State), Admitted req 0x680009 value s ∧
      leNat value = 1 ∧
      stopped s = false ∧ s.start.donkey = false) :=
  ⟨⟨0, { code := 0x2401, items := [some [1], none], time := 0 }, { awake with hen := { arriving := [({ code := 0x2401, items := [some [1], none], time := 0 } : Event)] } }, by decide +kernel⟩,
    ⟨0, { code := 0x2401, items := [some [1], none], time := 0 }, { awake with hen := { arriving := [({ code := 0x2401, items := [some [1], none], time := 0 } : Event)], buckets := [(0x2401, { missing := 65535 })] } }, by decide +kernel⟩,
    ⟨0, { code := 0x2401, items := [some [1], none], time := 0 }, { awake with hen := { arriving := [({ code := 0x2401, items := [some [1], none], time := 0 } : Event)], inputQueue := List.replicate 64 {} } }, by decide +kernel⟩,
    ⟨0, { code := 0x6801, items := [some [1], none], time := 0 }, { awake with hen := { arriving := [({ code := 0x6801, items := [some [1], none], time := 0 } : Event)] } }, by decide +kernel⟩,
    ⟨0, { code := 0x2004, items := [some [1], none], time := 0 }, { awake with hen := { arriving := [({ code := 0x2004, items := [some [1], none], time := 0 } : Event)] } }, by decide +kernel⟩,
    ⟨0, { code := 0x2004, items := [some [1], none], time := 0 }, { awake with hen := { arriving := [({ code := 0x2004, items := [some [1], none], time := 0 } : Event)], copies := List.replicate 64 0 } }, by decide +kernel⟩,
    ⟨0, { code := 0x2004, items := [some [1], none], time := 0 }, { awake with hen := { arriving := [({ code := 0x2004, items := [some [1], none], time := 0 } : Event)], priorityQueue := List.replicate 64 {} } }, by decide +kernel⟩,
    ⟨{ seq := 3, code := 7 }, [], { awake with hen := { priorityQueue := [({ seq := 3, code := 7 } : Record)] } }, by decide +kernel⟩,
    ⟨{ seq := 3, code := 7 }, [], { awake with hen := { inputQueue := [({ seq := 3, code := 7 } : Record)], ring := [(3, [1])] } }, by decide +kernel⟩,
    ⟨{ seq := 3, code := 7 }, [], { awake with hen := { inputQueue := [({ seq := 3, code := 7 } : Record)], frozen := true } }, by decide +kernel⟩,
    ⟨{ seq := 3, code := 7 }, [], { awake with hen := { inputQueue := [({ seq := 3, code := 7 } : Record)], frozen := true, freezeBuffer := List.replicate 256 {} } }, by decide +kernel⟩,
    ⟨manager 1, [1], awake, (by unfold Admitted; decide +kernel), by decide +kernel, by decide +kernel⟩,
    ⟨manager 1, [2], awake, (by unfold Admitted; decide +kernel), by decide +kernel⟩,
    ⟨manager 1, [2], { awake with hen := { frozen := true, freezeBuffer := [{ seq := 3, code := 7 }], lostInFreeze := 1 } }, (by unfold Admitted; decide +kernel), by decide +kernel⟩,
    ⟨{ awake with hen := { frozen := true, freezeBuffer := [{ seq := 3, code := 7 }], lostInFreeze := 1, freezeStart := 9 } }, by decide +kernel⟩,
    ⟨manager 1, [1], { awake with hen := { nvmLog := [(0, [1])] } }, (by unfold Admitted; decide +kernel), by decide +kernel⟩,
    ⟨manager 1, [1], { runs aRun 0 with hen := { nvmLog := [(0, [1])] } }, (by unfold Admitted; decide +kernel), by decide +kernel, by decide +kernel⟩⟩

theorem witness_SupplyCommandsComplete :
    (∃ (backup : Bool) (mv : Nat) (s : State), (mv ≤ 31400 ∨ 40600 ≤ mv) ∧
      (if backup then s.pow.inB.good else s.pow.inA.good) = true) ∧
    (∃ (backup : Bool) (mv : Nat) (s : State), (mv ≤ 31400 ∨ 40600 ≤ mv) ∧
      (if backup then s.pow.inB.good else s.pow.inA.good) = true) ∧
    (∃ (backup : Bool) (mv : Nat) (s : State), (mv ≤ 31400 ∨ 40600 ≤ mv) ∧
      (if backup then s.pow.inB.good else s.pow.inA.good) = true) ∧
    (∃ (backup : Bool) (mv : Nat) (s : State), (mv ≤ 31400 ∨ 40600 ≤ mv) ∧
      (if backup then s.pow.inB.good else s.pow.inA.good) = true) ∧
    (∃ (backup : Bool) (mv : Nat) (s : State), 32000 ≤ mv ∧
      mv ≤ 40000 ∧
      (if backup then s.pow.inB.good else s.pow.inA.good) = false) ∧
    (∃ (backup : Bool) (mv : Nat) (s : State), 32000 ≤ mv ∧
      mv ≤ 40000 ∧
      (if backup then s.pow.inB.good else s.pow.inA.good) = false) ∧
    (∃ (backup : Bool) (mv : Nat) (s : State), 32000 ≤ mv ∧
      mv ≤ 40000 ∧
      (if backup then s.pow.inB.good else s.pow.inA.good) = false) ∧
    (∃ (backup : Bool) (mv : Nat) (s : State), 32000 ≤ mv ∧
      mv ≤ 40000 ∧
      (if backup then s.pow.inB.good else s.pow.inA.good) = false) ∧
    (∃ (s : State), s.pow.inA.good = true) ∧
    (∃ (u : Nat) (s : State), s.pow.noInput = some u) :=
  ⟨⟨false, 31400, { awake with pow := { inA := { good := true }, inB := { good := true }, load := some false, carried := some false } }, by decide +kernel⟩,
    ⟨false, 31400, { awake with pow := { inA := { good := true }, inB := { good := false }, load := some false, carried := some false } }, by decide +kernel⟩,
    ⟨true, 31400, { awake with pow := { inA := { good := true }, inB := { good := true }, load := some false, carried := some false } }, by decide +kernel⟩,
    ⟨true, 40600, { awake with pow := { inA := { good := false }, inB := { good := true }, load := some false, carried := some false } }, by decide +kernel⟩,
    ⟨false, 40000, { awake with pow := { inA := { good := false }, inB := { good := true }, load := some false, carried := some false } }, by decide +kernel⟩,
    ⟨true, 32000, { awake with pow := { inA := { good := true }, inB := { good := false }, load := some false, carried := some false } }, by decide +kernel⟩,
    ⟨true, 40000, { awake with pow := { inA := { good := false }, inB := { good := false }, load := some false, carried := some false } }, by decide +kernel⟩,
    ⟨false, 40000, { awake with pow := { inA := { good := false }, inB := { good := false }, load := some false, carried := some false } }, by decide +kernel⟩,
    ⟨{ awake with pow := { inA := { good := true, since := 4 }, inB := { good := true }, load := some true, carried := some true } }, by decide +kernel⟩,
    ⟨1000, { awake with pow := { noInput := some 1000 } }, by decide +kernel⟩⟩

theorem witness_CapCommandsComplete :
    (∃ (currents : List Nat) (power : Nat) (vinA : Nat) (vinB : Nat) (s : State), deviceOn s = true) ∧
    (∃ (currents : List Nat) (power : Nat) (vinA : Nat) (vinB : Nat) (s : State), deviceOn s = true) ∧
    (∃ (c : Nat) (u : Nat) (s : State), s.clk.capLimit = some c ∧
      s.clk.capCalm = some u) ∧
    (∃ (c : Nat) (u : Nat) (s : State), s.clk.capLimit = some c ∧
      s.clk.capCalm = some u) ∧
    (∃ (s : State), 3 ≤ s.start.step) ∧
    (∃ (req : Req) (value : Bytes) (s : State), Admitted req 0x200008 value s ∧
      leNat value = 1) ∧
    (∃ (req : Req) (value : Bytes) (s : State), Admitted req 0x200008 value s ∧
      leNat value = 2) :=
  ⟨⟨[65535, 5], 10, 3, 4, awake, by decide +kernel⟩,
    ⟨[], 10000000, 3, 4, { awake with pow := { overWindows := 4 } }, by decide +kernel⟩,
    ⟨0x10, 7, { awake with clk := { awake.clk with capLimit := some (0x10 : Nat), capCalm := some (7 : Nat) } }, by decide +kernel⟩,
    ⟨0x17, 7, { awake with clk := { awake.clk with capLimit := some (0x17 : Nat), capCalm := some (7 : Nat) } }, by decide +kernel⟩,
    ⟨awake, by decide +kernel⟩,
    ⟨manager 1, [1], awake, (by unfold Admitted; decide +kernel), by decide +kernel⟩,
    ⟨manager 1, [2], { awake with pow := { profile := some [] } }, (by unfold Admitted; decide +kernel), by decide +kernel⟩⟩

theorem witness_HeatCommandsComplete :
    (∃ (readings : List Int) (s : State), 5 ≤ s.start.step ∧
      (∀ i, i < 44 → SoundSample readings none s i)) ∧
    (∃ (readings : List Int) (s : State), 5 ≤ s.start.step ∧
      (∀ i, i < 44 → SoundSample readings none s i) ∧
      throttleAt s ≤ 1060) ∧
    (∃ (readings : List Int) (s : State), 5 ≤ s.start.step ∧
      (∀ i, i < 44 → SoundSample readings none s i)) ∧
    (∃ (readings : List Int) (s : State), 5 ≤ s.start.step ∧
      (∀ i, i < 44 → SoundSample readings none s i)) ∧
    (∃ (readings : List Int) (i : Nat) (x : Int) (m : Int) (s : State), 5 ≤ s.start.step ∧
      i < 44 ∧
      (diode s i).broken = false ∧
      readings[i]? = some x ∧
      inDiodeRange x = false ∧
      (∀ j, j < 44 → j ≠ i → SoundSample readings (some i) s j ∧ ∀ y, readings[j]? = some y → y ≤ 900) ∧
      dictNat s 0x240006 ≤ 20 ∧
      highest ((diodeNeighbours i).filterMap (fun j => readings[j]?)) = some m) ∧
    (∃ (c : Nat) (s : State), s.pow.throttle = .enforcing ∧
      s.pow.thermalLimit = some c) ∧
    (∃ (c : Nat) (u : Nat) (s : State), s.pow.throttle = .enforcing ∧
      s.pow.thermalLimit = some c ∧
      s.pow.cool5 = some u) ∧
    (∃ (c : Nat) (u : Nat) (s : State), s.pow.throttle = .enforcing ∧
      s.pow.thermalLimit = some c ∧
      s.pow.cool5 = some u) ∧
    (∃ (x : Nat × Int) (u : Nat) (s : State), s.pow.trip = some x ∧
      s.pow.coolSince = some u) ∧
    (∃ (x : Nat × Int) (u : Nat) (s : State), s.pow.trip = some x ∧
      s.pow.coolSince = some u) :=
  ⟨⟨List.replicate 44 600, awake, by decide +kernel, sound_replicate 600 (by decide) rfl⟩,
    ⟨List.replicate 44 1060, { awake with dict := [(0x240003, [100])] }, by decide +kernel, sound_replicate 1060 (by decide) rfl, by decide +kernel⟩,
    ⟨List.replicate 44 1060, { awake with dict := [(0x240003, [100])], pow := { throttle := .requested } }, by decide +kernel, sound_replicate 1060 (by decide) rfl⟩,
    ⟨List.replicate 44 600, { awake with pow := { throttle := .requested, cool3 := some 0, alert := true }, now := 100 * ms }, by decide +kernel, sound_replicate 600 (by decide) rfl⟩,
    ⟨(List.replicate 44 600).set 3 2000, 3, 2000, 600, awake, by decide +kernel, by decide +kernel, by decide +kernel, by decide +kernel, by decide +kernel, sound_beside rfl, by decide +kernel, by decide +kernel⟩,
    ⟨0x10, { awake with pow := { throttle := .enforcing, thermalLimit := some (0x10 : Nat), hotInWindow := true } }, by decide +kernel⟩,
    ⟨0x10, 9, { awake with pow := { throttle := .enforcing, thermalLimit := some (0x10 : Nat), cool5 := some (9 : Nat), alert := true } }, by decide +kernel⟩,
    ⟨0x17, 9, { awake with pow := { throttle := .enforcing, thermalLimit := some (0x17 : Nat), cool5 := some (9 : Nat), alert := true } }, by decide +kernel⟩,
    ⟨(7, 1200), 1000, { awake with pow := { trip := some ((7, 1200) : Nat × Int), coolSince := some (1000 : Nat) } }, by decide +kernel⟩,
    ⟨(7, 1200), 1000, { awake with pow := { trip := some ((7, 1200) : Nat × Int), coolSince := some (1000 : Nat), inB := { good := true } } }, by decide +kernel⟩⟩

theorem witness_WorldCommandsComplete :
    (∃ (req : Req) (value : Bytes) (s : State), Admitted req 0x600001 value s ∧
      mapFault value = none ∧
      mapAgrees s value = true ∧ mapTouchesTdi s value = false) ∧
    (∃ (req : Req) (value : Bytes) (s : State), Admitted req 0x600001 value s ∧
      mapFault value = none ∧
      mapAgrees s value = true ∧ mapTouchesTdi s value = false ∧ ticking s = false) ∧
    (∃ (req : Req) (value : Bytes) (s : State), Admitted req 0x600001 value s ∧
      mapFault value = none ∧
      mapAgrees s value = false) ∧
    (∃ (req : Req) (w : Tower) (value : Bytes) (s : State), Admitted req (0x601001 + w.val) value s) ∧
    (∃ (req : Req) (w : Tower) (value : Bytes) (s : State), Admitted req (0x601001 + w.val) value s) ∧
    (∃ (req : Req) (w : Tower) (value : Bytes) (s : State), Admitted req (0x601001 + w.val) value s ∧
      tableEntry value 0 ≠ tableEntry (dictBytes s 0x601001) 0 ∧ fieldAt (tableEntry (dictBytes s 0x601001) 0) 0 1 = 3) ∧
    (∃ (req : Req) (value : Bytes) (s : State), Admitted req 0x600007 value s ∧
      leNat value < 4096 ∧
      (∀ w ∈ maskMembers 12 (leNat value), partitionOf s w = none)) ∧
    (∃ (w : Tower) (s : State), w.val ∈ s.sec.scrubbed ∧
      w.val ∈ s.sec.handover) ∧
    (∃ (req : Req) (value : Bytes) (s : State), Admitted req 0x60000B value s ∧
      (∀ p ∈ maskMembers 8 (leNat value), portEncrypted s p = true ∧ portKeyed s p = true)) ∧
    (∃ (req : Req) (value : Bytes) (s : State), Admitted req 0x60000B value s ∧
      (∀ p ∈ maskMembers 8 (leNat value), portEncrypted s p = true ∧ portKeyed s p = true)) :=
  ⟨⟨manager 1, zeros 52, awake, (by unfold Admitted; decide +kernel), by decide +kernel, by decide +kernel⟩,
    ⟨manager 1, zeros 52, { awake with frame.ticks := .off }, (by unfold Admitted; decide +kernel), by decide +kernel, by decide +kernel⟩,
    ⟨manager 1, fields 52 [(4, 4, 1)], awake, (by unfold Admitted; decide +kernel), by decide +kernel, by decide +kernel⟩,
    ⟨manager 1, 0, zeros 4096, awake, (by unfold Admitted; decide +kernel)⟩,
    ⟨manager 1, 0, zeros 4096, { awake with frame.ticks := .off }, (by unfold Admitted; decide +kernel)⟩,
    ⟨manager 1, 0, zeros 4096, { awake with dict := Tab.put [] 0x601001 (fields 4096 [(0, 1, 3), (12, 4, 1)]) awake.dict }, (by unfold Admitted; decide +kernel), by decide +kernel⟩,
    ⟨manager 1, [1, 0], { awake with dict := [(0x340002, [0xFF, 0xFF, 0xFF, 0xFF, 0xFF, 0xFF, 0, 0])] }, (by unfold Admitted; decide +kernel), by decide +kernel, by decide +kernel⟩,
    ⟨0, { awake with sec := { scrubbed := [0], handover := [0], unclean := [0], former := [(0, 1)] }, fab.unbound := [(0, 1000)] }, by decide +kernel⟩,
    ⟨manager 1, [1], { awake with dict := Tab.put [] 0x500008 [1] awake.dict, fab.crypt := [(0, { generation := 1 }), (1, { generation := 1 })] }, (by unfold Admitted; decide +kernel), by decide +kernel⟩,
    ⟨manager 1, [0], awake, (by unfold Admitted; decide +kernel), by decide +kernel⟩⟩

theorem witness_ImageCommandsComplete :
    (∃ (req : Req) (value : Bytes) (s : State), Admitted req 0x600004 value s ∧
      0x601 ≤ value.length ∧
      value.length ≤ 0x1000600) ∧
    (∃ (req : Req) (value : Bytes) (s : State), Admitted req 0x600005 value s ∧
      leNat value = 1 ∧
      s.sec.staged.isSome = true ∧
      s.sec.verifying = false ∧
      (s.sec.update = 1 ∨ s.sec.update = 2)) ∧
    (∃ (s : State), s.sec.verifying = true) ∧
    (∃ (req : Req) (value : Bytes) (s : State), Admitted req 0x600005 value s ∧
      (leNat value = 0x02 ∨ leNat value = 0x82) ∧
      mayActivate s (decide (leNat value = 0x82)) = true) ∧
    (∃ (req : Req) (value : Bytes) (s : State), Admitted req 0x600005 value s ∧
      (leNat value = 0x02 ∨ leNat value = 0x82) ∧
      mayActivate s (decide (leNat value = 0x82)) = false) ∧
    (∃ (req : Req) (value : Bytes) (s : State), Admitted req 0x600005 value s ∧
      (leNat value = 0x02 ∨ leNat value = 0x82) ∧
      mayActivate s (decide (leNat value = 0x82)) = true) ∧
    (∃ (req : Req) (value : Bytes) (s : State), Admitted req 0x600005 value s ∧
      (leNat value = 0x02 ∨ leNat value = 0x82) ∧
      mayActivate s (decide (leNat value = 0x82)) = false) ∧
    (∃ (u : Nat) (s : State), s.sec.activating = some u) ∧
    (∃ (req : Req) (value : Bytes) (s : State), Admitted req 0x600005 value s ∧
      leNat value = 3 ∧
      mayCommit s = true) ∧
    (∃ (ok : Bool) (s : State), s.sec.committing = true) ∧
    (∃ (ok : Bool) (s : State), s.sec.committing = true) ∧
    (∃ (ok : Bool) (s : State), s.sec.committing = true) ∧
    (∃ (ok : Bool) (s : State), s.sec.committing = true) ∧
    (∃ (u : Nat) (s : State), s.sec.retryAt = some u) ∧
    (∃ (req : Req) (value : Bytes) (s : State), Admitted req 0x600005 value s ∧
      leNat value = 4 ∧
      s.start.donkey = false ∧
      s.sec.nvmInvalid = false ∧
      runningImage s = nvmImage s) :=
  ⟨⟨manager 1, zeros 0x601, awake, (by unfold Admitted; decide +kernel), by decide +kernel, by decide +kernel⟩,
    ⟨manager 1, [1], { awake with sec := { staged := some [], update := 1 } }, (by unfold Admitted; decide +kernel), by decide +kernel, by decide +kernel, by decide +kernel, by decide +kernel⟩,
    ⟨{ awake with sec := { staged := some [], update := 1, verifying := true } }, by decide +kernel⟩,
    ⟨manager 1, [2], { awake with sec := { staged := some [], update := 2 } }, (by unfold Admitted; decide +kernel), by decide +kernel, by decide +kernel⟩,
    ⟨manager 1, [2], { awake with sec := { staged := some [], update := 1 } }, (by unfold Admitted; decide +kernel), by decide +kernel, by decide +kernel⟩,
    ⟨manager 1, [0x82], { awake with sec := { staged := some [], update := 2 } }, (by unfold Admitted; decide +kernel), by decide +kernel, by decide +kernel⟩,
    ⟨manager 1, [0x82], { awake with sec := { staged := some [], update := 1 } }, (by unfold Admitted; decide +kernel), by decide +kernel, by decide +kernel⟩,
    ⟨1000, { awake with sec := { staged := some [1], update := 2, activating := some 1000 } }, by decide +kernel⟩,
    ⟨manager 1, [3], { awake with sec := { running := some [1], update := 3 } }, (by unfold Admitted; decide +kernel), by decide +kernel, by decide +kernel⟩,
    ⟨true, { awake with sec := { running := some [1], update := 3, committing := true } }, by decide +kernel⟩,
    ⟨false, { awake with sec := { running := some [1], update := 3, committing := true } }, by decide +kernel⟩,
    ⟨false, { awake with sec := { running := some [1], update := 3, committing := true, commitFailures := 1 } }, by decide +kernel⟩,
    ⟨true, { awake with start := { step := 2, donkey := true, failedCount := 3 }, sec := { staged := some [1], update := 2, committing := true } }, by decide +kernel⟩,
    ⟨1000, { awake with sec := { retryAt := some 1000 } }, by decide +kernel⟩,
    ⟨manager 1, [4], { awake with sec := { running := some (zeros 0x601), nvm := some (zeros 0x601) } }, (by unfold Admitted; decide +kernel), by decide +kernel, by decide +kernel, by decide +kernel, by decide +kernel⟩⟩

theorem witness_AttestationCommandsComplete :
    (∃ (x : SpdmPath) (request : Bytes) (s : State), pathOpen s x = true) ∧
    (∃ (x : SpdmPath) (request : Bytes) (s : State), pathOpen s x = true) ∧
    (∃ (x : SpdmPath) (request : Bytes) (s : State), pathOpen s x = true) ∧
    (∃ (x : SpdmPath) (request : Bytes) (s : State), pathOpen s x = true) ∧
    (∃ (x : SpdmPath) (request : Bytes) (s : State), pathOpen s x = true ∧
      (¬ SpdmServes x 1 s)) ∧
    (∃ (x : SpdmPath) (request : Bytes) (offer : SpdmOffer) (s : State), SpdmServes x 2 s) ∧
    (∃ (x : SpdmPath) (request : Bytes) (offer : SpdmOffer) (s : State), SpdmServes x 2 s) ∧
    (∃ (x : SpdmPath) (request : Bytes) (s : State), SpdmServes x 3 s) ∧
    (∃ (x : SpdmPath) (request : Bytes) (slot : Fin 8) (offset : BitVec 16) (length : BitVec 16) (s : State), SpdmServes x 3 s) ∧
    (∃ (x : SpdmPath) (request : Bytes) (slot : Fin 8) (s : State), SpdmServes x 3 s) ∧
    (∃ (x : SpdmPath) (request : Bytes) (index : BitVec 8) (signature : Bool) (s : State), SpdmServes x 3 s) ∧
    (∃ (x : SpdmPath) (request : Bytes) (index : BitVec 8) (signature : Bool) (s : State), SpdmServes x 3 s) ∧
    (∃ (x : SpdmPath) (request : Bytes) (index : BitVec 8) (signature : Bool) (s : State), SpdmServes x 3 s) ∧
    (∃ (x : SpdmPath) (request : Bytes) (index : BitVec 8) (signature : Bool) (s : State), SpdmServes x 3 s) ∧
    (∃ (x : SpdmPath) (request : Bytes) (asRequester : Bool) (s : State), SpdmServes x 3 s) ∧
    (∃ (x : SpdmPath) (request : Bytes) (asRequester : Bool) (s : State), SpdmServes x 3 s) ∧
    (∃ (x : SpdmPath) (request : Bytes) (asRequester : Bool) (s : State), SpdmServes x 3 s) ∧
    (∃ (x : SpdmPath) (request : Bytes) (id : BitVec 32) (trusted : Bool) (e : SpdmSession) (s : State), SpdmServes x 3 s ∧
      sessionOf s x id = some e ∧
      e.established = false) ∧
    (∃ (x : SpdmPath) (request : Bytes) (id : BitVec 32) (trusted : Bool) (e : SpdmSession) (s : State), SpdmServes x 3 s ∧
      sessionOf s x id = some e ∧
      e.established = false) ∧
    (∃ (x : SpdmPath) (request : Bytes) (id : BitVec 32) (trusted : Bool) (e : SpdmSession) (s : State), SpdmServes x 3 s ∧
      sessionOf s x id = some e ∧
      e.established = false) ∧
    (∃ (x : SpdmPath) (id : BitVec 32) (s : State), InSession x id s) ∧
    (∃ (x : SpdmPath) (id : BitVec 32) (s : State), InSession x id s) ∧
    (∃ (x : SpdmPath) (id : BitVec 32) (s : State), InSession x id s) ∧
    (∃ (x : SpdmPath) (id : BitVec 32) (s : State), InSession x id s) :=
  ⟨⟨.rack 0, [9], { rack with sec := { negotiated := [(2, 3)], sessions := [] } }, by decide +kernel⟩,
    ⟨.doe, [9], { hosted {} 0 with sec := { negotiated := [(0, 3)], sessions := [] } }, by decide +kernel⟩,
    ⟨.mctp, [9], { hosted {} 0 with host := { (hosted {} 0).host with eid := 9 } }, by decide +kernel⟩,
    ⟨.rack 0, [9], { rack with sec := { negotiated := [(2, 3)], sessions := [] } }, by decide +kernel⟩,
    ⟨.rack 0, [9], rack, by decide +kernel, (by unfold SpdmServes; decide +kernel)⟩,
    ⟨.rack 0, [9], ⟨true, true, true, true, true⟩, { rack with sec := { negotiated := [(2, 3)], sessions := [] } }, (by unfold SpdmServes; decide +kernel)⟩,
    ⟨.rack 0, [9], ⟨true, true, true, true, false⟩, { rack with sec := { negotiated := [(2, 3)], sessions := [] } }, (by unfold SpdmServes; decide +kernel)⟩,
    ⟨.rack 0, [9], { rack with sec := { negotiated := [(2, 3)], sessions := [] } }, (by unfold SpdmServes; decide +kernel)⟩,
    ⟨.rack 0, [9], 0, 0, 16, { rack with sec := { negotiated := [(2, 3)], sessions := [] } }, (by unfold SpdmServes; decide +kernel)⟩,
    ⟨.rack 0, [9], 0, { rack with sec := { negotiated := [(2, 3)], sessions := [] } }, (by unfold SpdmServes; decide +kernel)⟩,
    ⟨.rack 0, [9], 1, true, { rack with sec := { negotiated := [(2, 3)], sessions := [] } }, (by unfold SpdmServes; decide +kernel)⟩,
    ⟨.rack 0, [9], 6, true, { rack with sec := { negotiated := [(2, 3)], sessions := [] } }, (by unfold SpdmServes; decide +kernel)⟩,
    ⟨.rack 0, [9], 0xFF, true, { rack with sec := { negotiated := [(2, 3)], sessions := [] } }, (by unfold SpdmServes; decide +kernel)⟩,
    ⟨.rack 0, [9], 7, true, { rack with sec := { negotiated := [(2, 3)], sessions := [] } }, (by unfold SpdmServes; decide +kernel)⟩,
    ⟨.rack 0, [9], true, { rack with sec := { negotiated := [(2, 3)], sessions := [] } }, (by unfold SpdmServes; decide +kernel)⟩,
    ⟨.doe, [9], false, { hosted {} 0 with sec := { negotiated := [(0, 3)], sessions := [] } }, (by unfold SpdmServes; decide +kernel)⟩,
    ⟨.doe, [9], false, { hosted {} 0 with sec := { negotiated := [(0, 3)], sessions := List.replicate 8 { id := 1, path := .doe } } }, (by unfold SpdmServes; decide +kernel)⟩,
    ⟨.rack 0, [9], 1, false, { id := 1, path := .rack 0 }, { rack with sec := { negotiated := [(2, 3)], sessions := [({ id := 1, path := .rack 0 } : SpdmSession)] } }, (by unfold SpdmServes; decide +kernel), by decide +kernel, by decide +kernel⟩,
    ⟨.rack 0, [9], 1, true, { id := 1, path := .rack 0 }, { { rack with sec := { negotiated := [(2, 3)], sessions := [({ id := 1, path := .rack 0 } : SpdmSession)] } } with dict := Tab.put [] 0x500008 [1] rack.dict }, (by unfold SpdmServes; decide +kernel), by decide +kernel, by decide +kernel⟩,
    ⟨.doe, [9], 1, false, { id := 1, path := .doe }, { hosted {} 0 with sec := { negotiated := [(0, 3)], sessions := [({ id := 1, path := .doe } : SpdmSession)] } }, (by unfold SpdmServes; decide +kernel), by decide +kernel, by decide +kernel⟩,
    ⟨.doe, 1, { hosted {} 0 with sec := { negotiated := [(0, 3)], sessions := [{ id := 1, path := .doe, established := true }] } }, (by unfold InSession; decide +kernel)⟩,
    ⟨.doe, 1, { hosted {} 0 with sec := { negotiated := [(0, 3)], sessions := [{ id := 1, path := .doe, established := true }] } }, (by unfold InSession; decide +kernel)⟩,
    ⟨.doe, 1, { hosted {} 0 with sec := { negotiated := [(0, 3)], sessions := [{ id := 1, path := .doe, established := true }] } }, (by unfold InSession; decide +kernel)⟩,
    ⟨.rack 0, 1, { { rack with sec := { negotiated := [(2, 3)], sessions := [{ id := 1, path := .rack 0, established := true }] } } with dict := Tab.put [] 0x500008 [1] rack.dict, fab.crypt := [(0, { generation := 1 }), (1, { generation := 1 })] }, (by unfold InSession; decide +kernel)⟩⟩

theorem witness_TrustedDomainCommandsComplete :
    (∃ (id : BitVec 32) (stream : Option (Fin 16)) (keySet : Fin 2) (s : State), InSession .doe id s) ∧
    (∃ (id : BitVec 32) (stream : Option (Fin 16)) (keySet : Fin 2) (s : State), InSession .doe id s) ∧
    (∃ (f : Function) (s : State), isTdi s f = true) ∧
    (∃ (f : Function) (s : State), isTdi s f = false) ∧
    (∃ (f : Function) (s : State), TdispServes f s) ∧
    (∃ (f : Function) (s : State), TdispServes f s) ∧
    (∃ (f : Function) (s : State), TdispServes f s) ∧
    (∃ (f : Function) (s : State), TdispServes f s) ∧
    (∃ (f : Function) (s : State), TdispServes f s) ∧
    (∃ (f : Function) (s : State), TdispServes f s) ∧
    (∃ (f : Function) (s : State), TdispServes f s) ∧
    (∃ (f : Function) (s : State), TdispServes f s) ∧
    (∃ (f : Function) (s : State), TdispServes f s) :=
  ⟨⟨1, none, 1, { hosted {} 0 with sec := { negotiated := [(0, 3)], sessions := [{ id := 1, path := .doe, established := true }] } }, (by unfold InSession; decide +kernel)⟩,
    ⟨1, some 15, 0, { hosted {} 0 with sec := { negotiated := [(0, 3)], sessions := [{ id := 1, path := .doe, established := true }] } }, (by unfold InSession; decide +kernel)⟩,
    ⟨1, { hosted {} 0 with dict := [(0x340002, [0xFF, 0xF0, 0xFF, 0xFF, 0xFF, 0xFF, 0, 0]), (0x118003, [0, 1, 0, 0, 0, 0, 0, 0])], sec := { tdi := [(1, 2)] } }, by decide +kernel⟩,
    ⟨2, { hosted {} 0 with dict := [(0x340002, [0xFF, 0xF0, 0xFF, 0xFF, 0xFF, 0xFF, 0, 0]), (0x118003, [0, 1, 0, 0, 0, 0, 0, 0])], sec := { tdi := [(1, 0)] } }, by decide +kernel⟩,
    ⟨1, { hosted {} 0 with dict := [(0x340002, [0xFF, 0xF0, 0xFF, 0xFF, 0xFF, 0xFF, 0, 0]), (0x118003, [0, 1, 0, 0, 0, 0, 0, 0])], sec := { tdi := [(1, 1)] } }, (by unfold TdispServes; decide +kernel)⟩,
    ⟨1, { hosted {} 0 with dict := [(0x340002, [0xFF, 0xF0, 0xFF, 0xFF, 0xFF, 0xFF, 0, 0]), (0x118003, [0, 1, 0, 0, 0, 0, 0, 0])], sec := { tdi := [(1, 1)] } }, (by unfold TdispServes; decide +kernel)⟩,
    ⟨1, { hosted {} 0 with dict := [(0x340002, [0xFF, 0xF0, 0xFF, 0xFF, 0xFF, 0xFF, 0, 0]), (0x118003, [0, 1, 0, 0, 0, 0, 0, 0])], sec := { tdi := [(1, 1)] } }, (by unfold TdispServes; decide +kernel)⟩,
    ⟨1, { hosted {} 0 with dict := [(0x340002, [0xFF, 0xF0, 0xFF, 0xFF, 0xFF, 0xFF, 0, 0]), (0x118003, [0, 1, 0, 0, 0, 0, 0, 0])], sec := { tdi := [(1, 1)] } }, (by unfold TdispServes; decide +kernel)⟩,
    ⟨1, { hosted {} 0 with dict := [(0x340002, [0xFF, 0xF0, 0xFF, 0xFF, 0xFF, 0xFF, 0, 0]), (0x118003, [0, 1, 0, 0, 0, 0, 0, 0])], sec := { tdi := [(1, 1)] } }, (by unfold TdispServes; decide +kernel)⟩,
    ⟨1, { hosted {} 0 with dict := [(0x340002, [0xFF, 0xF0, 0xFF, 0xFF, 0xFF, 0xFF, 0, 0]), (0x118003, [0, 1, 0, 0, 0, 0, 0, 0])], sec := { tdi := [(1, 1)] } }, (by unfold TdispServes; decide +kernel)⟩,
    ⟨1, { hosted {} 0 with dict := [(0x340002, [0xFF, 0xF0, 0xFF, 0xFF, 0xFF, 0xFF, 0, 0]), (0x118003, [0, 1, 0, 0, 0, 0, 0, 0])], sec := { tdi := [(1, 1)] } }, (by unfold TdispServes; decide +kernel)⟩,
    ⟨1, { hosted {} 0 with dict := [(0x340002, [0xFF, 0xF0, 0xFF, 0xFF, 0xFF, 0xFF, 0, 0]), (0x118003, [0, 1, 0, 0, 0, 0, 0, 0])], sec := { tdi := [(1, 0)] } }, (by unfold TdispServes; decide +kernel)⟩,
    ⟨1, { hosted {} 0 with dict := [(0x340002, [0xFF, 0xF0, 0xFF, 0xFF, 0xFF, 0xFF, 0, 0]), (0x118003, [0, 1, 0, 0, 0, 0, 0, 0])], sec := { tdi := [(1, 0)] } }, (by unfold TdispServes; decide +kernel)⟩⟩

end Sys2Proof.Tests
end

section
/-! PROOF. O40, pairing and the lease: a late LEASE_RENEW_TIMER refutes the clause on renewals. -/

namespace Sys2Proof.Machine

/-! ### What sending on TW leaves unchanged -/

@[simp] theorem pumpTx_twin (n : Nat) (s : State) : (pumpTx n s).twin = s.twin :=
  pumpTx_within ⟨rfl⟩ (Within.refl [.events, .lanes, .fab] s) .twin (by decide)

@[simp] theorem sendTwin_now (kind : Nat) (payload : Bytes) (s : State) : (sendTwin kind payload s).now = s.now :=
  sendTwin_within ⟨rfl⟩ (Within.refl [.events, .lanes, .fab, .twin] s) .now (by decide)

@[simp] theorem sendTwin_renewDue (kind : Nat) (payload : Bytes) (s : State) :
    (sendTwin kind payload s).twin.renewDue = s.twin.renewDue := by
  unfold sendTwin sendTwinAt
  split
  · rfl
  · simp

@[simp] theorem drivePulse_now (width : Nat) (s : State) : (drivePulse width s).now = s.now := rfl

@[simp] theorem drivePulse_renewDue (width : Nat) (s : State) :
    (drivePulse width s).twin.renewDue = s.twin.renewDue := rfl

/-! ### The moment of a renewal and its next deadline (R441) -/

theorem renewLease_now {s : State} (h : s.twin.state = 1 ∨ s.twin.state = 2) :
    (renewLease s).now = max s.now s.twin.renewDue := by
  have awake : ¬(s.twin.state ≠ 1 ∧ s.twin.state ≠ 2) := by omega
  rw [renewLease, if_neg awake]
  dsimp only
  split <;> simp

/-- The next renewal is counted from the deadline that has run out, not from the moment at which it is served. -/
theorem renewLease_renewDue {s : State} (h : s.twin.state = 1 ∨ s.twin.state = 2) :
    (renewLease s).twin.renewDue = s.twin.renewDue + 500 * us := by
  have awake : ¬(s.twin.state ≠ 1 ∧ s.twin.state ≠ 2) := by omega
  rw [renewLease, if_neg awake]
  dsimp only
  split <;> simp

/-- The next renewal is 500 µs after this one exactly when this one is not late. -/
theorem renewLease_interval_iff {s : State} (h : s.twin.state = 1 ∨ s.twin.state = 2) :
    (renewLease s).twin.renewDue = (renewLease s).now + 500 * us ↔ s.now ≤ s.twin.renewDue := by
  rw [renewLease_renewDue h, renewLease_now h]
  omega

/-! ### A renewal that is late -/

/-- A package in full service that has not been paired, at 0 ns. -/
def unpairedInService : State := { State.reset with start.step := 9 }

/-- The same package after 0x5800:01 has been written 1: it is in PAIRING, and its first renewal is due at once (R438). -/
def pairingBegun : State := startPairing (setDict 0x580001 [1] unpairedInService)

/-- The same package after the step of 1 ns that passes when no command waits. -/
def pairingLate : State := idle pairingBegun

theorem twinModeAct_unpairedInService : twinModeAct [1] unpairedInService = .done pairingBegun := rfl

theorem step_pairingBegun : step pairingBegun = .next pairingLate := rfl

theorem pairingLate_state : pairingLate.twin.state = 1 := by decide

theorem pairingLate_isLate : pairingLate.twin.renewDue < pairingLate.now := by decide

/-- Refutes O40: the clause on LEASE_RENEW_TIMER puts the next renewal 500 µs after the moment of this one, while the
command counts it from the deadline. The renewal of `pairingLate` is served 1 ns after its deadline of 0 ns: the package
stands at 1 ns, and its next renewal is due at 500,000 ns, not at 500,001 ns. -/
theorem not_leaseCommandsComplete : ¬ Obligations.LeaseCommandsComplete := by
  unfold Obligations.LeaseCommandsComplete
  rintro ⟨-, renewal, -⟩
  obtain ⟨t, ran, ⟨-, interval, -⟩, -⟩ := renewal pairingLate (.inl pairingLate_state)
  have served : renewLease pairingLate = t := Host.Outcome.next.inj ran
  rw [← served, renewLease_interval_iff (.inl pairingLate_state)] at interval
  exact absurd pairingLate_isLate (Nat.not_lt.mpr interval)

end Sys2Proof.Machine
end

section
/-! PROOF. O6, time stamps: the three fields of a stamp read back, fit their limits, and order the moments of a package. -/

namespace Sys2Proof.Machine

/-! ### Slots and offsets of a frame length (R34, R35) -/

theorem code_cases : ∀ code : BitVec 2, code = 0 ∨ code = 1 ∨ code = 2 ∨ code = 3 := by decide

theorem frameCycles_eq_slots (code : BitVec 2) : frameCycles code = 256 * slotCycles code := by
  rcases code_cases code with rfl | rfl | rfl | rfl <;> rfl

theorem slotCycles_pos (code : BitVec 2) : 0 < slotCycles code := by
  rcases code_cases code with rfl | rfl | rfl | rfl <;> decide

theorem largestOffset_le (code : BitVec 2) : largestOffset code ≤ 39 := by
  rcases code_cases code with rfl | rfl | rfl | rfl <;> decide

/-- Every slot is a whole number of offset units. -/
theorem slotCycles_eq_offsets (code : BitVec 2) : slotCycles code = offsetUnit code * (largestOffset code + 1) := by
  rcases code_cases code with rfl | rfl | rfl | rfl <;> rfl

/-! ### The fields of a stamp (R3) -/

theorem mkStamp_toNat {number slot offset : Nat} (hn : number < 2 ^ 48) (hs : slot < 256) (ho : offset < 256) :
    (mkStamp number slot offset).toNat = number * 65536 + slot * 256 + offset := by
  rw [mkStamp, BitVec.toNat_ofNat]
  exact Nat.mod_eq_of_lt (by omega)

theorem mkStamp_fields {number slot offset : Nat} (hn : number < 2 ^ 48) (hs : slot < 256) (ho : offset < 256) :
    bits (mkStamp number slot offset) 63 16 = number ∧ bits (mkStamp number slot offset) 15 8 = slot ∧
      bits (mkStamp number slot offset) 7 0 = offset := by
  simp only [bits, mkStamp_toNat hn hs ho]
  omega

/-- A stamp of a lower frame number is the smaller one. -/
theorem mkStamp_lt_of_number {n n' slot slot' offset offset' : Nat} (hn : n' < 2 ^ 48) (h : n < n')
    (hs : slot < 256) (hs' : slot' < 256) (ho : offset < 256) (ho' : offset' < 256) :
    (mkStamp n slot offset).toNat < (mkStamp n' slot' offset').toNat := by
  rw [mkStamp_toNat (by omega) hs ho, mkStamp_toNat hn hs' ho']
  omega

/-! ### The stamp of a moment of the open frame (R35) -/

/-- The slot of a moment, counted from the opening of its frame. -/
def slotField (f : Frame) (x : Nat) : Nat := (x - f.start) / slotCycles f.code

/-- The offset of a moment in its slot, in the unit of the frame length. -/
def offsetField (f : Frame) (x : Nat) : Nat := (x - f.start) % slotCycles f.code / offsetUnit f.code

theorem slotField_lt {f : Frame} {x : Nat} (h : x < f.start + frameCycles f.code) : slotField f x < 256 := by
  have cycles := frameCycles_eq_slots f.code
  have positive := slotCycles_pos f.code
  exact Nat.div_lt_of_lt_mul (by rw [Nat.mul_comm]; omega)

theorem offsetField_le (f : Frame) (x : Nat) : offsetField f x ≤ largestOffset f.code := by
  refine Nat.le_of_lt_succ (Nat.div_lt_of_lt_mul ?_)
  rw [Nat.succ_eq_add_one, ← slotCycles_eq_offsets]
  exact Nat.mod_lt _ (slotCycles_pos f.code)

theorem offsetField_lt (f : Frame) (x : Nat) : offsetField f x < 256 := by
  have h := offsetField_le f x
  have limit := largestOffset_le f.code
  omega

theorem stampAt_eq {f : Frame} {x : Nat} (h : x < f.start + frameCycles f.code) :
    stampAt f x = mkStamp f.number (slotField f x) (offsetField f x) := by
  have cycles := frameCycles_eq_slots f.code
  have positive := slotCycles_pos f.code
  have inFrame : x - f.start < frameCycles f.code := by omega
  simp only [stampAt, stampFrom, Nat.mod_eq_of_lt inFrame, Nat.div_eq_of_lt inFrame, Nat.add_zero, slotField, offsetField]

theorem offsetField_of_code_three {f : Frame} (h : f.code = 3) (x : Nat) : offsetField f x = (x - f.start) % 80 / 2 := by
  rw [offsetField, h]
  rfl

theorem offsetField_of_code_ne_three {f : Frame} (h : f.code ≠ 3) (x : Nat) :
    offsetField f x = (x - f.start) % slotCycles f.code := by
  rw [offsetField, offsetUnit, if_neg h, Nat.div_one]

/-- Within a frame the slots do not fall, and within a slot the offsets do not (R5). -/
theorem slotField_lt_or_offsetField_le (f : Frame) {x y : Nat} (h : x ≤ y) :
    slotField f x < slotField f y ∨ slotField f x = slotField f y ∧ offsetField f x ≤ offsetField f y := by
  have elapsed : x - f.start ≤ y - f.start := Nat.sub_le_sub_right h _
  have slots : slotField f x ≤ slotField f y := Nat.div_le_div_right elapsed
  rcases Nat.lt_or_eq_of_le slots with later | same
  · exact .inl later
  · refine .inr ⟨same, Nat.div_le_div_right ?_⟩
    have splitX := Nat.div_add_mod (x - f.start) (slotCycles f.code)
    have splitY := Nat.div_add_mod (y - f.start) (slotCycles f.code)
    rw [slotField, slotField] at same
    rw [same] at splitX
    omega

theorem stampAt_mono {f : Frame} {x y : Nat} (hn : f.number < 2 ^ 48) (hxy : x ≤ y)
    (hy : y < f.start + frameCycles f.code) : (stampAt f x).toNat ≤ (stampAt f y).toNat := by
  have hx : x < f.start + frameCycles f.code := Nat.lt_of_le_of_lt hxy hy
  rw [stampAt_eq hx, stampAt_eq hy, mkStamp_toNat hn (slotField_lt hx) (offsetField_lt f x),
    mkStamp_toNat hn (slotField_lt hy) (offsetField_lt f y)]
  have offset := offsetField_lt f x
  have order := slotField_lt_or_offsetField_le f hxy
  omega

/-- Settles O6: inside the open frame a stamp is made of its number, its slot and its offset, each within its field, so
the fields read back and stamps compare by number, then slot, then offset. -/
theorem stampFields : Obligations.StampFields := by
  unfold Obligations.StampFields
  intro f x hn _ hx
  obtain ⟨number, slot, offset⟩ := mkStamp_fields hn (slotField_lt hx) (offsetField_lt f x)
  rw [← stampAt_eq hx] at number slot offset
  have limit := offsetField_le f x
  refine ⟨number, slot, fun h => ?_, fun h => ?_, ?_, ?_, fun y hxy hy => stampAt_mono hn hxy hy, fun g y hg later _ hy => ?_⟩
  · rw [offset, offsetField_of_code_three h]
  · rw [offset, offsetField_of_code_ne_three h]
  · exact offset ▸ Nat.le_trans limit (largestOffset_le f.code)
  · exact offset ▸ limit
  · rw [stampAt_eq hx, stampAt_eq hy]
    exact mkStamp_lt_of_number hg later (slotField_lt hx) (slotField_lt hy) (offsetField_lt f x) (offsetField_lt g y)

end Sys2Proof.Machine
end

section
/-! PROOF. O11, frames and tick words: what a boundary does to the Rooster's frame, what a tick word or its absence does to
a receiver, and when a new frame length takes effect. -/

namespace Sys2Proof.Machine

/-! ### What opening a frame does to the Rooster's count (R33, R36) -/

/-- Where the frame now open stands in the Rooster's count. -/
structure FramePlace where
  start : Nat
  count : Nat
  number : Nat

def framePlace (f : Frame) : FramePlace := ⟨f.start, f.count, f.number⟩

@[simp] theorem trainPaths_frame (ts : List Nat) (s : State) : (trainPaths ts s).frame = s.frame :=
  trainPaths_within ⟨rfl⟩ (Within.refl [.free, .counters, .events, .pho, .lanes, .las, .ver, .fab] s) .frame (by decide)

@[simp] theorem takeLength_frame (c : BitVec 2) (s : State) :
    (takeLength c s).frame = { s.frame with code := c, pending := none } := by
  simp [takeLength]

theorem openOptical_place (s : State) :
    framePlace (openOptical s).2.frame = { framePlace s.frame with number := s.frame.number + 1 } := by
  unfold openOptical
  dsimp only
  split
  · rfl
  · split
    · rfl
    · split <;> simp [framePlace]

theorem openFirst_place (s : State) :
    framePlace (openFirst s).2.frame = { framePlace s.frame with number := firstNumber s } := by
  unfold openFirst
  dsimp only
  split <;> split <;> simp [framePlace, rebaseFrames]

theorem changeReceivers_place (g : Receiver → Receiver) (ts : List Nat) (s : State) :
    framePlace (ts.foldl (fun s t => changeReceiver t g s) s).frame = framePlace s.frame := by
  induction ts generalizing s with
  | nil => rfl
  | cons t ts ih => exact ih (changeReceiver t g s)

theorem switchTowers_place (s : State) : framePlace (switchTowers s).2.frame = framePlace s.frame := by
  have receivers := fun g ts => changeReceivers_place g ts s
  simp only [framePlace] at receivers ⊢
  unfold switchTowers
  dsimp only
  split <;> split <;> simp [receivers]

theorem openFrame_place (s : State) :
    ∃ n, framePlace (openFrame s).frame = ⟨s.frame.start + frameCycles s.frame.code, s.frame.count + 1, n⟩ ∧
      (s.frame.ticks = .optical → s.frame.firstSent = true → n = s.frame.number + 1) := by
  unfold openFrame
  dsimp only
  split
  · next provisional => exact ⟨s.frame.number, rfl, fun optical => absurd optical provisional⟩
  · have marked : ∀ (c : Prop) [Decidable c] (t : State), framePlace (if c then mark t else t).frame = framePlace t.frame := by
      intro c _ t
      split <;> simp
    rw [marked, switchTowers_place]
    split
    · rw [openOptical_place]
      exact ⟨_, rfl, fun _ _ => rfl⟩
    · next unsent =>
      rw [openFirst_place]
      exact ⟨_, rfl, fun _ sent => absurd sent unsent⟩

/-! ### The boundary (R33) -/

/-- The parts that a boundary may write before it opens the frame, and after it. -/
def closingAreas : List Area := [.now, .free, .counters, .events, .spad, .parts, .dma, .clk, .pho, .sums, .pow]
def servingAreas : List Area :=
  [.free, .counters, .dict, .events, .om, .start, .spad, .parts, .dma, .dram, .clk, .host, .pho, .sums, .lanes, .las, .ver,
    .fab, .pow, .sec, .twin]

/-- Around the opening of the frame and its tick word, a boundary leaves the Rooster's frame alone. -/
theorem frameBoundary_around_openFrame {s : State} (taps : List LaserTap) (h : s.frame.ticks ≠ .off) :
    ∃ closed served, frameBoundary taps s = sendTick served ∧ closed.frame = s.frame ∧
      served.frame = (openFrame closed).frame := by
  have closing : Sub closingAreas closingAreas := Sub.refl _
  have serving : Sub servingAreas servingAreas := Sub.refl _
  rw [frameBoundary, if_neg h]
  extract_lets ended closed opened strided untorn torn ticked linked joined banded
  have hEnded : Within closingAreas s ended := endSumsFrame_within (closing.of ⟨rfl⟩)
    (meshArrivals_within (closing.of ⟨rfl⟩) (advanceTo_within (closing.of ⟨rfl⟩) (Within.refl _ s)))
  clear_value ended
  have hClosed : Within closingAreas s closed := ageRecords_within (closing.of ⟨rfl⟩)
    (Within.fold (closeUnowned_within (closing.of ⟨rfl⟩) hEnded) (fun _ _ h => closeFrame_within (closing.of ⟨rfl⟩) h))
  clear_value closed
  have hOpened : Within servingAreas (openFrame closed) opened :=
    clockBoundary_within (serving.of ⟨rfl⟩) (Within.refl _ _)
  clear_value opened
  have hStrided : Within servingAreas (openFrame closed) strided :=
    Within.fold hOpened (fun _ _ h => strideFor_within (serving.of ⟨rfl⟩) h)
  clear_value strided
  have hTorn : Within servingAreas (openFrame closed) torn :=
    Within.fold (Within.put hStrided) (fun _ _ h => teardownRuns_within (serving.of ⟨rfl⟩) h)
  clear_value torn
  have hTicked : Within servingAreas (openFrame closed) ticked :=
    Within.fold hTorn (fun _ _ h => tickRouters_within (serving.of ⟨rfl⟩) (tickPartition_within (serving.of ⟨rfl⟩) h))
  clear_value ticked
  have hLinked : Within servingAreas (openFrame closed) linked := linksBoundary_within (serving.of ⟨rfl⟩)
    (applyPathChanges_within (serving.of ⟨rfl⟩) (bundlesBoundary_within (serving.of ⟨rfl⟩)
      (lasersBoundary_within (serving.of ⟨rfl⟩) hTicked)))
  clear_value linked
  have hJoined : Within servingAreas (openFrame closed) joined := twinBoundary_within (serving.of ⟨rfl⟩)
    (securityBoundary_within (serving.of ⟨rfl⟩) (powerBoundary_within (serving.of ⟨rfl⟩) hLinked))
  clear_value joined
  have hBanded : Within servingAreas (openFrame closed) banded :=
    Within.fold hJoined (fun _ _ h => takeBand_within (serving.of ⟨rfl⟩) h)
  clear_value banded
  exact ⟨closed, pumpAll banded, rfl, hClosed .frame (by decide),
    pumpAll_within (serving.of ⟨rfl⟩) hBanded .frame (by decide)⟩

theorem framePlace_word (f : Frame) (w : BitVec 128) : framePlace { f with word := w } = framePlace f := rfl

theorem sendTick_place (s : State) : framePlace (sendTick s).frame = framePlace s.frame := by
  unfold sendTick
  exact framePlace_word s.frame _

theorem frameBoundary_place {s : State} (taps : List LaserTap) (h : s.frame.ticks ≠ .off) :
    ∃ n, framePlace (frameBoundary taps s).frame = ⟨s.frame.start + frameCycles s.frame.code, s.frame.count + 1, n⟩ ∧
      (s.frame.ticks = .optical → s.frame.firstSent = true → n = s.frame.number + 1) := by
  obtain ⟨closed, served, boundary, hClosed, hServed⟩ := frameBoundary_around_openFrame taps h
  rw [boundary, sendTick_place, hServed, ← hClosed]
  exact openFrame_place closed

/-- A boundary begins by waiting for its moment, so it does the same to the state at which that moment is reached. -/
theorem frameBoundary_advanceTo {s : State} (taps : List LaserTap) (h : s.frame.ticks ≠ .off) :
    frameBoundary taps (advanceTo (s.frame.start + frameCycles s.frame.code) s) = frameBoundary taps s := by
  have idem : ∀ e, advanceTo e (advanceTo e s) = advanceTo e s := fun e => by simp [advanceTo]
  rw [frameBoundary, frameBoundary, advanceTo_frame, idem, if_neg h, if_neg h]

theorem frameBoundary_now {s : State} (taps : List LaserTap) (h : s.frame.ticks ≠ .off) :
    s.frame.start + frameCycles s.frame.code ≤ (frameBoundary taps s).now := by
  have forward := (frameBoundary_keeps (taps := taps)
    (Keeps.refl (advanceTo (s.frame.start + frameCycles s.frame.code) s))).time
  rw [frameBoundary_advanceTo taps h, advanceTo_now] at forward
  exact Nat.le_trans (Nat.le_max_right _ _) forward

/-! ### A receiver that misses a tick (R40) -/

@[simp] theorem receiver_raise (code : Nat) (items : List (Option Bytes)) (s : State) (t : Nat) :
    receiver (raise code items s) t = receiver s t := rfl

@[simp] theorem receiver_count32 (key n : Nat) (s : State) (t : Nat) : receiver (count32 key n s) t = receiver s t := by
  rw [receiver, receiver, count32_frame]

/-- The flywheel turns on past a boundary without its word. -/
def passMissed (r : Receiver) : Receiver := turnFlywheel r.code { r with missed := r.missed + 1, good := 0 }

/-- A miss is counted and reported. -/
def reportMiss (t : Nat) (s : State) : State :=
  changeReceiver t passMissed (raise 0x3002 [b1 t, bPartition s t] (count32 0x300005 1 s))

/-- A receiver declares tick loss. -/
def declareLoss (t : Nat) (s : State) : State :=
  raise 0x3003 [b1 t, bPartition s t] (changeReceiver t (fun r => { r with locked := false, lost := true }) s)

section
variable (t : Nat) (s : State)

theorem receiver_reportMiss (v : Nat) :
    receiver (reportMiss t s) v = if v = t then passMissed (receiver s t) else receiver s v := by
  simp [reportMiss]

theorem receiver_declareLoss (v : Nat) :
    receiver (declareLoss t s) v =
      if v = t then { receiver s t with locked := false, lost := true } else receiver s v := by
  simp [declareLoss]

theorem counter_reportMiss : counter (reportMiss t s) 0x300005 = satAdd 32 (counter s 0x300005) 1 :=
  counter_count32_same 0x300005 1 s

theorem reportMiss_raises : Raised 0x3002 s (reportMiss t s) := Raised.raise (count32_grows _ _ s) _ _

theorem reportMiss_grows : Grows s (reportMiss t s) := (count32_grows _ _ s).raise _ _

theorem declareLoss_grows : Grows s (declareLoss t s) := (Grows.refl s).raise _ _

end

section
variable {t : Nat} {s : State}

theorem missTick_of_neverLocked (h : (receiver s t).everLocked = false) :
    missTick t s = changeReceiver t (fun r => { r with good := 0 }) s := by
  rw [missTick, h]
  rfl

/-- At a receiver that has locked, the fourth miss in a row is tick loss; every other miss is a miss alone. -/
theorem missTick_of_everLocked (h : (receiver s t).everLocked = true) :
    missTick t s = if (receiver s t).missed + 1 ≥ 4 ∧ !(receiver s t).lost then declareLoss t (reportMiss t s)
      else reportMiss t s := by
  rw [missTick, h]
  rfl

theorem receiver_missTick_other {v : Nat} (h : v ≠ t) : receiver (missTick t s) v = receiver s v := by
  cases locking : (receiver s t).everLocked with
  | false => simp [missTick_of_neverLocked locking, h]
  | true =>
    rw [missTick_of_everLocked locking]
    split <;> simp [receiver_declareLoss, receiver_reportMiss, h]

variable (locking : (receiver s t).everLocked = true)
include locking

theorem missTick_flywheel :
    (receiver (missTick t s) t).missed = (receiver s t).missed + 1 ∧
      (receiver (missTick t s) t).next = (receiver s t).next + 1 ∧
      (receiver (missTick t s) t).due = (receiver s t).due + frameCycles (receiver s t).code := by
  rw [missTick_of_everLocked locking]
  split <;> simp [receiver_declareLoss, receiver_reportMiss, passMissed, turnFlywheel]

theorem counter_missTick : counter (missTick t s) 0x300005 = satAdd 32 (counter s 0x300005) 1 := by
  rw [missTick_of_everLocked locking]
  split <;> exact counter_reportMiss t s

theorem missTick_raises : Raised 0x3002 s (missTick t s) := by
  rw [missTick_of_everLocked locking]
  split
  · exact (reportMiss_raises t s).mono (declareLoss_grows t _) (reportMiss_grows t s)
  · exact reportMiss_raises t s

theorem missTick_loss (third : (receiver s t).missed = 3) (kept : (receiver s t).lost = false) :
    (receiver (missTick t s) t).locked = false ∧ (receiver (missTick t s) t).lost = true ∧
      Raised 0x3003 s (missTick t s) := by
  rw [missTick_of_everLocked locking, if_pos (by simp [third, kept])]
  simp only [receiver_declareLoss]
  exact ⟨rfl, rfl, Raised.raise (reportMiss_grows t s) _ _⟩

end

/-! ### A receiver that takes a word (R40) -/

theorem tickAgrees_iff {number due now : Nat} {w : BitVec 128} :
    tickAgrees number due now w = true ↔ tickNumber w = number ∧ now ≤ due + 1 ∧ due ≤ now + 1 := by
  simp [tickAgrees, and_assoc]

theorem tickDisagrees {number due now : Nat} {w : BitVec 128}
    (h : tickNumber w ≠ number ∨ due + 1 < now ∨ now + 1 < due) : tickAgrees number due now w = false := by
  rw [Bool.eq_false_iff, Ne, tickAgrees_iff]
  omega

theorem execTickMissed_eq {w : Tower} {s : State} (optical : s.frame.ticks = .optical) (up : towerUp s w = true)
    (base : baseDown s (baseOfTower w) = false) : exec (.tickMissed w) s = .next (missTick w s) := by
  simp [exec, execTickMissed, optical, up, base]

/-- How many words in a row agree, with this one. -/
def agreeing (r : Receiver) (now : Nat) (w : BitVec 128) : Nat :=
  if r.good > 0 ∧ tickAgrees r.lockNext r.lockDue now w then r.good + 1 else 1

/-- A word is counted toward lock, and a flywheel in tick loss turns on. -/
def countWord (t : Nat) (w : BitVec 128) (s : State) : State :=
  changeReceiver t (fun r => { if r.everLocked then turnFlywheel (tickCode w) r else r with
    good := agreeing (receiver s t) s.now w
    missed := 0
    lockNext := tickNumber w + 1
    lockDue := s.now + frameCycles (tickCode w) }) s

/-- A receiver locks to the words it has counted. -/
def lockReceiver (t : Nat) (w : BitVec 128) (s : State) : State :=
  raise 0x3001 [b1 t, bPartition s t] (changeReceiver t (fun r => { r with
    locked := true
    everLocked := true
    lost := false
    good := 0
    next := r.lockNext
    due := r.lockDue
    code := tickCode w }) s)

section
variable {t : Nat} {w : BitVec 128} {s : State}

theorem countTick_eq : countTick t w s =
    if agreeing (receiver s t) s.now w ≥ 16 then lockReceiver t w (countWord t w s) else countWord t w s := rfl

theorem receiver_countTick_other {v : Nat} (h : v ≠ t) : receiver (countTick t w s) v = receiver s v := by
  rw [countTick_eq]
  split <;> simp [lockReceiver, countWord, h]

/-- The sixteenth of 16 words that agree with one another brings lock. -/
theorem countTick_sixteenth (fifteen : (receiver s t).good = 15)
    (agrees : tickAgrees (receiver s t).lockNext (receiver s t).lockDue s.now w = true) :
    (receiver (countTick t w s) t).locked = true ∧ (receiver (countTick t w s) t).lost = false ∧
      (receiver (countTick t w s) t).next = tickNumber w + 1 ∧
      (receiver (countTick t w s) t).due = s.now + frameCycles (tickCode w) ∧
      (receiver (countTick t w s) t).code = tickCode w ∧ Raised 0x3001 s (countTick t w s) := by
  have sixteen : agreeing (receiver s t) s.now w ≥ 16 := by simp [agreeing, fifteen, agrees]
  rw [countTick_eq, if_pos sixteen]
  have raised : Raised 0x3001 s (lockReceiver t w (countWord t w s)) := Raised.raise (Grows.refl s) _ _
  simpa [lockReceiver, countWord] using raised

variable (optical : s.frame.ticks = .optical) (up : towerUp s t = true) (base : baseDown s (baseOfTower t) = false)
include optical up base

/-- A word that passes its check: a locked receiver takes the one it predicts and misses any other, and a receiver out of
lock counts it toward lock. -/
theorem takeTick_of_valid (valid : tickValid w = true) :
    takeTick t w s =
      if (receiver s t).locked then
        if tickAgrees (receiver s t).next (receiver s t).due s.now w then
          changeReceiver t (fun r => turnFlywheel (tickCode w) { r with missed := 0 }) s
        else missTick t s
      else countTick t w s := by
  simp [takeTick, optical, up, base, valid]

theorem receiver_takeTick_other (valid : tickValid w = true) {v : Nat} (h : v ≠ t) :
    receiver (takeTick t w s) v = receiver s v := by
  rw [takeTick_of_valid optical up base valid]
  split
  · split
    · simp [h]
    · exact receiver_missTick_other h
  · exact receiver_countTick_other h

end

/-! ### A new frame length (R36) -/

theorem frameLengthAct_waits {value : Bytes} {s : State} (small : leNat value < 4) (idle : s.parts.graphs = [])
    (new : BitVec.ofNat 2 (leNat value) ≠ s.frame.code) :
    frameLengthAct value s = .wait 0 { s with frame.pending := some (BitVec.ofNat 2 (leNat value),
      if s.now = s.frame.start then s.frame.number + 1 else s.frame.number + 2) } := by
  have inRange : ¬ leNat value ≥ 4 := Nat.not_le.mpr small
  have unloaded : ¬ s.parts.graphs ≠ [] := fun loaded => loaded idle
  have changed : ¬ (BitVec.ofNat 2 (leNat value) = s.frame.code ∧ s.frame.pending = none) := fun same => new same.1
  rw [frameLengthAct, if_neg inRange, if_neg unloaded, if_neg changed]

theorem execFrameLengthWrite_waits {req : Req} {value : Bytes} {s : State} (admitted : Admitted req 0x300001 value s)
    (small : leNat value < 4) (idle : s.parts.graphs = []) (new : BitVec.ofNat 2 (leNat value) ≠ s.frame.code) :
    exec (.frameLengthWrite req value) s = .next { s with
      frame.pending := some (BitVec.ofNat 2 (leNat value),
        if s.now = s.frame.start then s.frame.number + 1 else s.frame.number + 2)
      om.waiting := s.om.waiting ++ [{ id := writeId req 0x300001, note := 0 }] } :=
  congrArg Host.Outcome.next (serveWrite_wait admitted (frameLengthAct_waits small idle new))

/-! ### The statement -/

/-- Settles O11: a boundary moves the Rooster's count by one frame and leaves it alone otherwise; a word at a receiver is
taken, missed or counted toward lock; a missed tick turns the flywheel on; and a new length waits in the frame's state. -/
theorem frameCommandsComplete : Obligations.FrameCommandsComplete := by
  unfold Obligations.FrameCommandsComplete
  refine ⟨fun taps s running => ?_, fun w word s optical up base valid => ?_, fun w s optical up base locking => ?_,
    fun req value s admitted small idle new => ?_⟩
  · obtain ⟨n, place, numbered⟩ := frameBoundary_place taps running
    obtain ⟨start, count, number⟩ := FramePlace.mk.inj place
    exact ⟨_, rfl, start, count, frameBoundary_now taps running, fun optical sent => number.trans (numbered optical sent)⟩
  · have word_eq := takeTick_of_valid optical up base valid
    refine ⟨takeTick w word s, rfl, ⟨fun locked number late early => ?_, fun locked locking differs => ?_,
      fun unlocked fifteen number late early => ?_, fun v other => ?_⟩, takeTick_within ⟨rfl⟩ (Within.refl _ s)⟩
    · rw [word_eq, if_pos locked, if_pos (tickAgrees_iff.2 ⟨number, late, early⟩)]
      simp [turnFlywheel]
    · rw [word_eq, if_pos locked, tickDisagrees differs]
      exact ⟨(missTick_flywheel locking).1, missTick_raises locking⟩
    · rw [word_eq, unlocked]
      exact countTick_sixteenth fifteen (tickAgrees_iff.2 ⟨number, late, early⟩)
    · exact receiver_takeTick_other optical up base valid (fun same => other (Fin.ext same))
  · obtain ⟨missed, next, due⟩ := missTick_flywheel locking
    exact ⟨_, execTickMissed_eq optical up base, ⟨counter_missTick locking, missTick_raises locking, missed, next, due,
      missTick_loss locking⟩, missTick_within ⟨rfl⟩ (Within.refl _ s)⟩
  · exact ⟨_, execFrameLengthWrite_waits admitted small idle new, ⟨rfl, rfl, rfl⟩,
      execFrameLengthWrite_within ⟨rfl⟩ (Within.refl _ s) _ (execFrameLengthWrite_waits admitted small idle new)⟩

end Sys2Proof.Machine
end
